-- ==== Sys2Proof/Word.lean ====
section
/-! DEFINITION. The plain types of the model: register words, bytes, byte strings and sparse tables. -/

namespace Sys2Proof

/-- A register word (R442: registers are 32 bits wide). -/
abbrev Word := BitVec 32

/-- One byte of a frame, a descriptor or a store. -/
abbrev Byte := BitVec 8

/-- A byte string in the order in which it is sent or stored (R9). -/
abbrev Bytes := List Byte

/-- A sparse table: key and entry pairs.  Its canonical form has strictly rising keys and no entry equal to
the table's default (`Sys2Proof.Machine.Map.wf`). -/
abbrev Map (V : Type) := List (Nat × V)

end Sys2Proof
end

