-- ==== Sys2Proof/Machine/Env.lean ====
section
/-! DEFINITION. What comes to the block from outside with a command: the indexes that name its units, and the facts of
the environment the rules read (the bytes of a frame, the outcome of an analogue check, a sensor reading). -/

namespace Sys2Proof

/-- A front port (R99). -/
abbrev Port := Fin 128
/-- A region (R14). -/
abbrev Region := Fin 4
/-- A master identifier of the register bus (R465). -/
abbrev Master := Fin 10
/-- A traffic class (R46). -/
abbrev Tc := Fin 8
/-- A physical lane (R14). -/
abbrev Lane := Fin 128
/-- A lane cluster (R126). -/
abbrev Cluster := Fin 32
/-- A die-to-die link (R16). -/
abbrev Link := Fin 7
/-- A die of the hold store. -/
abbrev HoldDie := Fin 18

/-- An error that the reads made for one frame, or for one operation on the tables, meet in a protected memory (R169, R170,
R198, R246). -/
inductive ReadFault
  /-- Parity of a node row. -/
  | node (k : Nat)
  /-- An uncorrectable error in the parser engine's own state. -/
  | engine
  /-- Parity of a row of the layer-2 or of the region's exact-match table. -/
  | l2 (row : Nat)
  | exact (row : Nat)
  /-- Parity of the trie node with `bits` leading bits `path`, at a node word. -/
  | trie (v6 : Bool) (bits path word : Nat)
  /-- Parity of an action profile or of a next-hop record. -/
  | profile (id : Nat)
  | hop (i : Nat)
  /-- Uncorrectable bucket word, or parameter word, of a meter; uncorrectable flow counter; uncorrectable group. -/
  | bucket (m : Nat)
  | meterParams (m : Nat)
  | counter (c : Nat)
  | group (g : Nat)
  deriving DecidableEq, Repr

/-- A PTP message as the firmware decodes it (R337, R338): its type and domain, whether its length is sound, its
sequence and sender, and of an Announce its stepsRemoved, grandmasterIdentity and place in the best-master order (lower
is better); `delay` is the link delay in 1/256 ns that a completed peer delay exchange measures. -/
structure PtpMsg where
  type : Nat
  domain : Nat
  lengthOk : Bool
  seq : Nat
  sender : Nat
  steps : Nat
  gm : Nat
  rank : Nat
  delay : Option Nat
  deriving DecidableEq, Repr

/-- A hello as received (Table 13-2): `formOk` covers its length and undefined bits, `tagOk` its TAG. -/
structure Hello where
  formOk : Bool
  tagOk : Bool
  verMax : Nat
  verMin : Nat
  srcDev : Nat
  srcMac : Nat
  port : Nat
  interval : Nat
  dead : Nat
  factory : Nat
  neigh : Nat
  power : Nat
  seq : Nat
  deriving DecidableEq, Repr

/-- A link-state record as received (Table 13-4); `elected` says that its originator's address was elected. -/
structure Lsa where
  formOk : Bool
  tagOk : Bool
  origin : Nat
  health : Nat
  conflict : Bool
  elected : Bool
  seq : Nat
  age : Nat
  factory : Nat
  links : List (Nat × Nat × Nat)
  deriving DecidableEq, Repr

/-- A pair message as received (Tables 14-5, 14-6): `formOk` covers its length, KIND and reserved bits, `tagOk` its TAG;
the versions its sender supports; REASON of a REFUSE and STRUCT_CRC of a HEARTBEAT. -/
structure PairMsg where
  formOk : Bool
  tagOk : Bool
  active : Bool
  claiming : Bool
  synced : Bool
  health : Nat
  sender : Nat
  peer : Nat
  epoch : Nat
  seq : Nat
  lease : Nat
  guard : Nat
  factory : Nat
  verMin : Nat
  verMax : Nat
  reason : Nat
  structCrc : Nat
  deriving DecidableEq, Repr

/-- A row change that the active sends (Table 14-6, SYNC), with DATA as in Table 7-9. -/
structure SyncRec where
  table : Nat
  region : Nat
  row : Nat
  data : List (BitVec 8)
  deriving DecidableEq, Repr

/-- The sums of a block of a table that a comparison of a pair exchanges (R387, Table 14-6, COMPARE). -/
structure BlockSum where
  table : Nat
  block : Nat
  read : Nat
  write : Nat
  deriving DecidableEq, Repr

/-- What a monitor delivers (R407, R409): the reading of a temperature sensor in 1/16 °C or of a voltage point in mV, as
its converter gives it before calibration; the count of a process monitor; a sample that is due and does not come; and
the failure of the monitor aggregator. -/
inductive MonRead
  | temp (s : Fin 74) (raw : Int)
  | volt (v : Fin 40) (raw : Nat)
  | proc (k : Fin 26) (count : Nat)
  | silentTemp (s : Fin 74)
  | silentVolt (v : Fin 40)
  | aggregator
  deriving DecidableEq, Repr

/-- What SPI holds: both directory copies, the image that lies at IMG_OFFSET, and the firmware version if the firmware
there verifies (R80, R81). -/
structure Spi where
  dirA : List (BitVec 8)
  dirB : List (BitVec 8)
  image : List (BitVec 8)
  fw : Option Nat
  deriving DecidableEq, Repr

/-- The form of an access (R442, R451, R452): other than whole 32-bit or 64-bit words (`odd`), 32 or 64 bits, or a burst
of more than one DWORD. -/
inductive BusForm
  | odd | dword | qword
  | burst (n : Nat)
  deriving DecidableEq, Repr

/-- What a command that a register write starts finds outside the device: the host's image buffer, if it can be read in
full; what SPI holds; and the slots whose image has lost a stripe, with the page and row (R57, R80, R403). -/
structure WriteEnv where
  host : Option (List (BitVec 8))
  spi : Spi
  lost : List (Nat × Nat × Nat)
  deriving DecidableEq, Repr

/-- What the reads of a frame's cells meet on its way out (R276, R277, R279): the words corrected, each with its memory (0
cells, 1 link, 2 descriptors, 3 free list) and bank; an uncorrectable word; a change of the bytes that only the checks of
R277 see; the port that asks for the cells to be freed where it is another than the one that sent the frame (R265); and how
many of the reads waited for their bank group (R252). -/
structure CellRead where
  corrected : List (Fin 4 × Fin 64 × Fin 65536)
  bad : Option (Fin 64 × Fin 65536)
  corrupt : Bool
  freeBy : Option (Fin 135)
  waits : Nat
  deriving DecidableEq, Repr

/-- What VERIFY finds at the positions where the two slices' streams differ (R132): how many where only the serving slice is
in the wrong, only the shadow, both, or neither can be told.  In the wrong is the slice whose symbol disagrees with the
corrected codeword (with FEC; neither where no decoder corrects it), whose block has an invalid sync header (64b/66b
without FEC), or whose code-group is invalid or breaks running disparity (1000BASE-X). -/
structure VerifySeen where
  serving : Nat
  shadow : Nat
  both : Nat
  unknown : Nat
  deriving DecidableEq, Repr

/-- What the inner codes report for a read of a stripe (R285, R286): bits corrected, sectors beyond correction, and wrong
bytes that they let through, by die, byte of the sector (256 of data, 16 spare) and error value. -/
structure RowRead where
  bits : Nat
  bad : List HoldDie
  err : List (HoldDie × Fin 272 × Fin 256)
  deriving DecidableEq, Repr

/-- FEC codewords that carried a reception (R122): corrected, not correctable, and the symbols corrected. -/
structure FecSeen where
  corrected : Nat
  uncorrectable : Nat
  symbols : Nat
  deriving DecidableEq, Repr

end Sys2Proof
end

