-- ==== Sys2Proof/Syntax.lean ====
section
/-! DEFINITION. The commands and events of the block.  The opcode table gives them no operands and no bits; the
operands here are the indexes (ports, lanes, regions, ...) and the facts of the environment that the rules read
(the bytes of a frame, the outcome of an analogue check, a sensor reading). -/

namespace Sys2Proof


/-- The 291 commands and events of the block (spec/opcode_table.json), one constructor per row. -/
inductive Instr
  /-- FLIT_RECEIVE (R18): The receiving end of a die-to-die bundle checks a flit's CRC; on a mismatch it discards that flit and every later one on the bundle, and sends a NAK naming the expected sequence number. -/
  | flitReceive (k : Link) (b : Fin 10) (dir : Fin 2) (seq : Fin 4096) (ack : Fin 4096) (crcOk : Bool)
  /-- NAK_REPLAY (R18): A sender that receives a NAK replays from the named flit out of its 512-flit retry buffer. -/
  | nakReplay (k : Link) (b : Fin 10) (dir : Fin 2) (seq : Fin 4096)
  /-- ACK_TIMEOUT_REPLAY (R18): When no acknowledgement arrives within 256 CLK_MEM cycles, the sender replays from the oldest unacknowledged flit. -/
  | ackTimeoutReplay (k : Link) (b : Fin 10) (dir : Fin 2)
  /-- BUNDLE_DIAGNOSIS_DONE (R19): At the end of diagnosis, failing wires are replaced by spares and the bundle rejoins the rotation, or the link fails. -/
  | bundleDiagnosisDone (k : Link) (b : Fin 10) (badOut : List (Fin 66)) (badIn : List (Fin 66)) (clears : Bool)
  /-- REGION_ISOLATE (R27): Within 20 µs of the decision, a region is isolated: its pipeline is discarded, its lanes go to loss of signal, its ports are treated as down, its recirculation port leaves service, and AUTUMN follows. -/
  | regionIsolate (n : Region) (cause : Fin 65536)
  /-- LANE_DIE_FAILED (R30): A fatal fault inside a lane die whose link still works isolates that die's region. -/
  | laneDieFailed (n : Region)
  /-- HOLD_DIE_FAILED (R314): A hold memory die is declared failed: writes skip it, reads treat it as an erasure, and R31 applies. -/
  | holdDieFailed (die : Fin 20)
  /-- ROOT_PLL_FIRST_LOCK (R37): The root PLL's first lock after a power-on or full reset arms root-loss detection, and start-up continues. -/
  | rootPllFirstLock (lanePll : Fin 16) (pcieRef : Bool)
  /-- ROOT_CLOCK_LOST (R37): After 64 reference cycles with no REFCLK edge or with lock lost, management moves to the ring oscillator and the device enters WINTER. -/
  | rootClockLost (ref : Bool)
  /-- CLK_DIV_CORE_HALF (R40): A PW write of CORE_HALF is accepted only in WINTER or before the first commit; otherwise it is refused. -/
  | clkDivCoreHalf (m : Master) (half : Bool)
  /-- CORE_CLOCK_REDIVIDED (R40): CLK_CORE is re-divided within 2 µs of an accepted write, and BUSY clears. -/
  | coreClockRedivided
  /-- FRAME_RECEIVE (R108): The MAC classifies a whole reception by Table 4-2 and counts it; it accepts, consumes or discards the frame. -/
  | frameReceive (p : Port) (bytes : List (BitVec 8)) (pcsErr : Bool) (fec : FecSeen) (sub : Fin 8) (rivals : List (Fin 7))
  /-- FRAME_PARSE (R156): The region parser walks the parse graph over the frame's window and yields the parse result, an error or a truncation. -/
  | frameParse (id : Nat) (faults : List ReadFault)
  /-- FRAME_LINK (R42): Once the FCS is checked and the actions are resolved, the descriptor is admitted and linked to its egress queue, or refused. -/
  | frameLink (id : Nat)
  /-- SCHEDULER_PICK (R266): When a MAC transmit queue is empty, the port's scheduler chooses a frame by STRICT priority, then by DWRR. -/
  | schedulerPick (p : Fin 135) (m : Fin 4) (rd : CellRead)
  /-- FRAME_TRANSMIT (R111): The egress editor applies the edits, the length checks and padding, and the MAC sends the frame. -/
  | frameTransmit (p : Fin 132) (sub : Fin 8) (rd : CellRead) (rivals : List (Fin 7))
  /-- BUF_LINK_MEMORY_FAILED (R279): An uncorrectable error in the link, descriptor or free-list memory causes WINTER. -/
  | bufLinkMemoryFailed (mem : Fin 4)
  /-- IMG_LOAD_SLOT (R57): Copies an image from the host buffer to a slot, verifies it, and marks the slot STAGED. -/
  | imgLoadSlot (m : Master) (slot : Fin 4) (host : Option (List (BitVec 8)))
  /-- IMG_MARK_TRIAL (R63): Marks a STAGED or GOOD slot TRIAL, keeping at most one slot TRIAL or TRYING. -/
  | imgMarkTrial (m : Master) (slot : Fin 4)
  /-- IMG_RELOAD (R67): Reads and verifies a region-reload image, with the scope check. -/
  | imgReload (m : Master) (mask : Fin 16) (fromHost : Bool) (slot : Fin 4) (host : Option (List (BitVec 8))) (lost : Option (Nat × Nat))
  /-- REGION_RELOAD_APPLY (R68): After verification, ingress of the masked regions stops, their structural sections and LCK registers are written, and bring-up starts. -/
  | regionReloadApply
  /-- REGION_RELOAD_BRINGUP (R68): Bring-up checks pass and ingress resumes, or the previous sections are restored or the region is isolated. -/
  | regionReloadBringup (ok : Bool) (restored : Bool)
  /-- IMG_AMEND (R69): Reads and verifies an amendment image against the running image. -/
  | imgAmend (m : Master) (host : Option (List (BitVec 8)))
  /-- AMENDMENT_APPLY (R70): CLASSES and ACTIONS defaults switch in one cycle, then TIME, SAFE, CAL and CRED apply within 1 ms. -/
  | amendmentApply
  /-- IMG_ERASE_SLOT (R73): Erases a slot, except the slot started from. -/
  | imgEraseSlot (m : Master) (slot : Fin 4)
  /-- IMG_VERIFY_SLOT (R57): Verifies a slot's image as it is read back. -/
  | imgVerifySlot (m : Master) (slot : Fin 4) (lost : Option (Nat × Nat))
  /-- IMG_LOAD_AND_COMMIT (R82): Loads an image from the host, verifies it and commits it without a trial, only while the device waits for one. -/
  | imgLoadAndCommit (m : Master) (host : Option (List (BitVec 8)))
  /-- IMG_BAD_COMMAND (R73): A GO with an undefined OP, a zero RELOAD mask, an unaligned source or a length out of range is refused with BAD_COMMAND. -/
  | imgBadCommand (m : Master) (op : Fin 16) (slot : Fin 4) (mask : Fin 16) (fromHost : Bool)
  /-- IMAGE_TRIAL_TIMEOUT (R65): IMG_TRIAL_TIMEOUT ends without SUMMER or AUTUMN reached: the slot becomes BAD. -/
  | imageTrialTimeout
  /-- SECTION_SCRUB (R61): The loader scrubs the running sections every 1 ms; an uncorrectable error causes WINTER. -/
  | sectionScrub (bad : Bool)
  /-- POWER_ON_RESET (R75): Power-good and release reset every die and increment the power-cycle count. -/
  | powerOnReset (low : Bool)
  /-- SYS_RESET_ASSERT (R76): SYS_RESET_N asserts: steps 1 to 6 of the WINTER sequence run, then the power-fail flush. -/
  | sysResetAssert (ns : Nat)
  /-- CLK_RST_CMD_FULL (R76): FULL with KEY 0xA5 from PF0 or SMBus starts a full reset. -/
  | clkRstCmdFull (m : Master) (key : BitVec 8)
  /-- FULL_RESET_TAKE_HOLD (R76): After the flush, the internal reset takes hold. -/
  | fullResetTakeHold
  /-- SYS_RESET_RELEASE (R79): The rising edge of SYS_RESET_N latches BOOT_SEL and starts the boot ROM. -/
  | sysResetRelease (sel : Fin 8)
  /-- POWER_GOOD_RELEASE_TIMER (R79): With SYS_RESET_N high at power-good, power-good + 10 ms is taken as the release. -/
  | powerGoodReleaseTimer (sel : Fin 8)
  /-- PFAIL_ASSERT (R304): PFAIL_N asserts and the power-fail flush starts. -/
  | pfailAssert (ns : Nat) (late : Bool)
  /-- POWER_FAIL_FLUSH_DONE (R304): The flush ends with the base dies fenced. -/
  | powerFailFlushDone
  /-- PFAIL_DEASSERT (R519): PFAIL_N deasserts after the flush has started: the flush completes and the internal reset takes hold. -/
  | pfailDeassert
  /-- FIRMWARE_START (R80): The boot ROM verifies firmware from its source and starts it; the firmware domain is up. -/
  | firmwareStart (a : Option (Nat × Bool)) (b : Option (Nat × Bool)) (spi : Spi) (lost : List (Nat × Nat × Nat))
  /-- HOST_FW_LOAD (R82): CLK_BOOT_FW_CMD.GO loads host firmware, only while the boot ROM waits for it. -/
  | hostFwLoad (m : Master)
  /-- HOST_FW_LOAD_DONE (R82): A host firmware load completes or ends with ERR. -/
  | hostFwLoadDone (dma : Bool) (len : Nat) (version : Nat) (signed : Bool)
  /-- IMAGE_COMMIT (R66): A verified image commits: LCK registers are frozen and the device enters SPRING. -/
  | imageCommit
  /-- SPRING_CHECK (R87): A SPRING check completes, with the outcome of Table 3-5 on failure. -/
  | springCheck (ok : Bool) (mask : Fin 16)
  /-- SPRING_LEFT (R88): When all checks have passed or ended in AUTUMN, the device enters SUMMER or AUTUMN. -/
  | springLeft
  /-- SPRING_STALLED (R90): 60 s after t0, and every 10 s after that, a device still in SPRING records SPRING_STALLED. -/
  | springStalled
  /-- HOST_LOST_PERST (R94): PERST_N asserts: the host is declared lost, with flushes, ring halts and lock releases. -/
  | hostLostPerst
  /-- HOST_LINK_LOST (R94): The PCI Express data link stays down for 1 ms, and the host is declared lost. -/
  | hostLinkLost
  /-- LINK_UP (R103): The link conditions hold for UP_DELAY, and the port link comes up. -/
  | linkUp (p : Port)
  /-- LINK_DOWN (R103): A link condition ceases: the link goes down at once, the frame in progress is aborted and the flap timer starts. -/
  | linkDown (p : Port) (cause : Fin 4) (rx : Option Nat)
  /-- FLAP_HOLDOFF_END (R105): The flap hold-off expires and the count restarts. -/
  | flapHoldoffEnd (p : Port)
  /-- MAC_PORT_EN_WRITE (R103): A write of MAC_CTRL.PORT_EN takes the link down or lets it come up, and ends a hold-off early. -/
  | macPortEnWrite (m : Master) (p : Port) (en : Bool)
  /-- MAC_UNIT_ISOLATED (R106): A MAC, PCS or FEC unit error isolates the port until a full reset and moves the device to AUTUMN. -/
  | macUnitIsolated (p : Port)
  /-- AUTONEG_COMPLETE (R102): Auto-negotiation and training resolve the FEC, or refuse a partner without full duplex. -/
  | autonegComplete (p : Port) (full : Bool) (adv : Fin 65536) (fec : Fin 4) (moves : List (Int × Int × Int × Int × Int))
  /-- PAUSE_START (R116): A received pause time starts when the frame in flight ends, and waiting frames of the paused class are withdrawn. -/
  | pauseStart (p : Port)
  /-- PAUSE_EXPIRE (R116): A running pause time reaches zero. -/
  | pauseExpire (p : Port) (i : Fin 9)
  /-- PAUSE_STORM (R118): The pause watchdog expires: the pause is cleared and received pause is ignored for RECOVERY. -/
  | pauseStorm (p : Port) (c : Fin 9)
  /-- PAUSE_RECOVERY_END (R118): Storm recovery ends and pause is honoured again. -/
  | pauseRecoveryEnd (p : Port) (c : Fin 9)
  /-- PFC_REFRESH (R119): While a pause request holds, QUANTA is sent again every REFRESH quanta. -/
  | pfcRefresh (p : Port) (c : Tc)
  /-- LPI_ENTER (R120): An idle edge port enters transmit low-power idle after IDLE. -/
  | lpiEnter (p : Port)
  /-- LPI_WAKE (R121): A frame for a port in low-power idle waits TW_SYS_TX, then transmission resumes. -/
  | lpiWake (p : Port)
  /-- MAC_STAT_HALF_CLEAR (R122): Writing 1 to HI.HALF clears bit 47 and the summary bit. -/
  | macStatHalfClear (m : Master) (p : Port) (i : Fin 96)
  /-- COUNTER_LO_READ (R122): A read of a counter's LO latches its upper bits for the reading master. -/
  | counterLoRead (m : Master) (off : Fin 16777216) (wide : Bool)
  /-- COUNTER_CLEAR (R503): A block's CLR_CNT or CLR_STATS clears its named counters in one cycle. -/
  | counterClear (m : Master) (off : Fin 16777216)
  /-- SHADOW_TURN_START (R130): At the start instant, the shadow attaches to the next eligible or temperature-advanced lane and begins ADAPT. -/
  | shadowTurnStart (c : Cluster)
  /-- SHADOW_TURN_NOW (R130): TURN_NOW starts a turn at once if the phase is IDLE. -/
  | shadowTurnNow (m : Master) (c : Cluster)
  /-- SHADOW_ADAPT_DONE (R128): Adaptation converges and VERIFY begins. -/
  | shadowAdaptDone (c : Cluster)
  /-- SHADOW_ADAPT_TIMEOUT (R128): ADAPT reaches SHADOW_ADAPT_MAX and the turn is abandoned. -/
  | shadowAdaptTimeout (c : Cluster)
  /-- SHADOW_VERIFY_END (R133): At the end of VERIFY, the outcome is a swap, a retry, a retirement or undecided. -/
  | shadowVerifyEnd (c : Cluster) (seen : VerifySeen) (a : Int) (own : Int)
  /-- LANE_SWAP (R134): At a swap boundary the shadow takes over the lane and the time-stamp correction changes in that codeword, or the swap defers. -/
  | laneSwap (c : Cluster) (uncorrectable : Bool)
  /-- SWAP_DEFER_EXHAUSTED (R134): After 1,000 deferred boundaries the turn is abandoned. -/
  | swapDeferExhausted (c : Cluster)
  /-- SLICE_FAULT_ISOLATE (R141): A slice with a parity or state error is isolated at once, and the shadow takes over or the region is isolated. -/
  | sliceFaultIsolate (c : Cluster) (faulty : List (Fin 5))
  /-- SHADOW_TAKEOVER_LOCK (R141): The shadow that replaces an isolated serving slice gains lock, and the lane's link may come up. -/
  | shadowTakeoverLock (c : Cluster) (own : Int)
  /-- D2D_WIRE_RETRAIN_START (R145): Every 20 ms each link starts retraining its next wire, steering it onto a spare or taking the bundle out. -/
  | d2dWireRetrainStart (k : Link)
  /-- D2D_WIRE_RETRAIN_DONE (R147): A wire retraining ends: the bits are steered back, or the wire is retried, spared or left on its previous settings. -/
  | d2dWireRetrainDone (k : Link) (ok : Bool)
  /-- HOLD_RETRAIN_START (R148): The hold controller starts retraining one memory die in pass order, or out of order after a temperature change. -/
  | holdRetrainStart (die : HoldDie)
  /-- HOLD_RETRAIN_DONE (R149): A hold die retraining completes. -/
  | holdRetrainDone (ok : Bool)
  /-- HOLD_RETRAIN_TIMEOUT (R148): A retraining not done at 1 ms is abandoned and the previous trims are restored. -/
  | holdRetrainTimeout
  /-- DEFERRAL_LIST_REBUILD (R149): The pages listed during a retraining are rebuilt onto the retrained die within 5 ms. -/
  | deferralListRebuild
  /-- PARSE_NODE_REWRITE (R169): A node row is rewritten from the running PARSE section within 2 µs. -/
  | parseNodeRewrite (n : Region) (k : Fin 64)
  /-- PRS_CLR_LAST (R171): PRS_CTRL.CLR_LAST clears PRS_LAST_ERR and PRS_LAST_ERR_AT. -/
  | prsClrLast (m : Master) (n : Region)
  /-- LEARN_INSERT (R184): The learn engine takes a queued request and inserts the entry with relocation, or refuses it when the table is full. -/
  | learnInsert (faults : List ReadFault)
  /-- RELOCATION_MOVE (R186): A relocation step writes an occupant to its new row, with both rows MOVING. -/
  | relocationMove (faults : List ReadFault)
  /-- RELOCATION_INVALIDATE (R186): 4 CLK_MEM cycles after the write, the old row is invalidated and MOVING clears. -/
  | relocationInvalidate
  /-- AGEING_VISIT (R188): The ageing pass visits a layer-2 row: it clears HIT or invalidates the row. -/
  | ageingVisit (faults : List ReadFault)
  /-- TBL_READ_ROW (R195): A table transaction returns a row. -/
  | tblReadRow (n : Region) (desc : List (BitVec 8)) (next : List (BitVec 8)) (faults : List ReadFault)
  /-- TBL_WRITE_ROW (R197): A table transaction writes a row, waiting for any move on it. -/
  | tblWriteRow (n : Region) (desc : List (BitVec 8)) (next : List (BitVec 8))
  /-- TBL_INSERT (R195): A table transaction places an entry by relocation, or replaces the entry with the same key. -/
  | tblInsert (n : Region) (desc : List (BitVec 8)) (next : List (BitVec 8)) (faults : List ReadFault)
  /-- TBL_DELETE (R195): A table transaction invalidates the entry with the key. -/
  | tblDelete (n : Region) (desc : List (BitVec 8)) (next : List (BitVec 8)) (faults : List ReadFault)
  /-- TBL_LOOKUP (R195): A table transaction returns the entry and its row. -/
  | tblLookup (n : Region) (desc : List (BitVec 8)) (next : List (BitVec 8)) (faults : List ReadFault)
  /-- TBL_PREFIX_ADD (R193): Adds or replaces a prefix by building nodes and switching one parent pointer. -/
  | tblPrefixAdd (n : Region) (desc : List (BitVec 8)) (next : List (BitVec 8)) (faults : List ReadFault)
  /-- TBL_PREFIX_DEL (R193): Removes a prefix. -/
  | tblPrefixDel (n : Region) (desc : List (BitVec 8)) (next : List (BitVec 8)) (faults : List ReadFault)
  /-- TBL_PREFIX_GET (R195): Returns the next hop of the exact prefix. -/
  | tblPrefixGet (n : Region) (desc : List (BitVec 8)) (next : List (BitVec 8)) (faults : List ReadFault)
  /-- TBL_FLUSH (R195): Invalidates the dynamic, unlocked layer-2 entries whose DEST and VID match under mask. -/
  | tblFlush (n : Region) (desc : List (BitVec 8)) (next : List (BitVec 8))
  /-- TBL_BAD_DESCRIPTOR (R196): A malformed table descriptor halts its ring. -/
  | tblBadDescriptor (n : Region) (desc : List (BitVec 8)) (next : List (BitVec 8))
  /-- TBL_RING_RESTART (R196): TBL_RING_CTRL.RESTART resumes a halted ring at the next descriptor. -/
  | tblRingRestart (m : Master) (n : Region)
  /-- TRIE_OLD_NODES_FREE (R193): Nodes replaced by a prefix change are freed 1 µs after the switch. -/
  | trieOldNodesFree
  /-- TRIE_NODE_REBUILT (R198): A trie node with a parity error is rebuilt from its prefix records within 100 µs. -/
  | trieNodeRebuilt (v6 : Bool) (bits : Nat) (path : Nat)
  /-- LOOKUP_ENGINE_SPARED (R200): A faulty lookup engine is replaced by the spare within 2 µs, or the region is isolated. -/
  | lookupEngineSpared (n : Region) (frames : List Nat)
  /-- TCM_READ_ENTRY (R209): A TCAM transaction returns the entry at INDEX. -/
  | tcmReadEntry (n : Region) (desc : List (BitVec 8)) (next : List (BitVec 8))
  /-- TCM_WRITE_ENTRY (R208): A TCAM transaction writes the entry at INDEX atomically. -/
  | tcmWriteEntry (n : Region) (desc : List (BitVec 8)) (next : List (BitVec 8))
  /-- TCM_INSERT_AT (R210): Ordered insertion before INDEX, moving a block of entries toward the nearest free entry. -/
  | tcmInsertAt (n : Region) (desc : List (BitVec 8)) (next : List (BitVec 8))
  /-- TCM_DELETE_AT (R209): Invalidates the entry at INDEX. -/
  | tcmDeleteAt (n : Region) (desc : List (BitVec 8)) (next : List (BitVec 8))
  /-- TCM_LOOKUP (R209): Searches a partition with VALUE as the key and returns the winner. -/
  | tcmLookup (n : Region) (desc : List (BitVec 8)) (next : List (BitVec 8))
  /-- TCM_CLEAR_PARTITION (R209): Invalidates every entry of a partition. -/
  | tcmClearPartition (n : Region) (desc : List (BitVec 8)) (next : List (BitVec 8))
  /-- TCM_BAD_DESCRIPTOR (R209): A malformed TCAM descriptor halts its ring with BAD_DESCRIPTOR. -/
  | tcmBadDescriptor (n : Region) (desc : List (BitVec 8)) (next : List (BitVec 8))
  /-- TCM_RING_RESTART (R209): RESTART resumes a halted TCAM ring. -/
  | tcmRingRestart (m : Master) (n : Region)
  /-- TCM_MOVE_STEP (R211): Every 16 CLK_MEM cycles a move step writes a copy of an entry into its new place. -/
  | tcmMoveStep
  /-- TCM_MOVE_INVALIDATE (R211): 8 cycles after a step's copy, the old place is invalidated, or in the last step the new entry is written there. -/
  | tcmMoveInvalidate
  /-- TCAM_SCAN_ROW (R212): The scan compares a TCAM row with its shadow and rewrites, rebuilds or invalidates as needed. -/
  | tcamScanRow (row : Fin 65536) (kind : Fin 6) (pass : Option Nat)
  /-- AUTOMATA_SCAN (R215): An engine scans an inspected frame's payload and yields the first match or no match, and the frame resolves. -/
  | automataScan (n : Region) (corrected : Nat) (bad : Option Nat) (faults : List ReadFault)
  /-- AUT_STATE_REWRITE (R221): The state word is rewritten from the running AUTO section within 2 µs. -/
  | autStateRewrite (n : Region) (w : Nat)
  /-- STREAM_FLOW_IDLE (R219): A stream flow with no segment for AUT_FLOW_IDLE is removed. -/
  | streamFlowIdle (row : Fin 65536)
  /-- AUT_ENGINE_SPARED (R220): A faulty automaton engine is replaced by the spare, or the region is isolated. -/
  | autEngineSpared (n : Region) (e : Fin 9) (frames : List Nat)
  /-- CAPTURE_RECORD_WRITE (R244): A capture record leaves the staging FIFO and is written to its ring slot. -/
  | captureRecordWrite (fail : Bool)
  /-- BUF_ARRIVAL_RESERVE_WRITE (R260): A write that would bring BUF_SHARED_SIZE below 65,536 is refused; otherwise S is recomputed. -/
  | bufArrivalReserveWrite (m : Master) (v : Fin 4294967296)
  /-- FLAP_TIMER_EXPIRE (R273): The flap timer expires: queues are flushed or passed to port 133. -/
  | flapTimerExpire (p : Port)
  /-- FABRIC_DEST_FLAP_EXPIRE (R357): The flap timer of an unreachable fabric device expires, and its hold-eligible frames pass to its hold queues. -/
  | fabricDestFlapExpire (a : Fin 256)
  /-- HOLD_WRITE (R297): The hold writer serves port 133's queues in strict priority and packs frames into row buffers. -/
  | holdWrite (rd : CellRead)
  /-- HOLD_ROW_WRITE (R294): A full or closed row, or the oldest partial row when buffers run out, is written to the store. -/
  | holdRowWrite
  /-- HOLD_DRAIN (R298): A frame drains from the head of an ACTIVE queue to its buffer queue when the drain conditions hold. -/
  | holdDrain (h : Fin 3056) (reads : List RowRead) (badFree : Option (Fin 3056 × Fin 67108864))
  /-- FREE_RING_REFILL (R290): An allocation half below 512 entries is refilled with 1,024 entries from the ring head. -/
  | freeRingRefill
  /-- FREE_RING_SPILL (R290): A free half above 1,536 entries spills 1,024 to the ring tail. -/
  | freeRingSpill
  /-- HOLD_MOUNT (R305): SPRING check 5 mounts the store: commit, deferral list, ring, wear, zones and durable queues are restored. -/
  | holdMount (okA : Bool) (okB : Bool) (calA : Bool) (calB : Bool)
  /-- FREE_SWEEP (R306): Background sweep of row 0 of every held page returns unaccounted pages to the ring. -/
  | freeSweep
  /-- HLD_SWEEP_CMD (R306): HLD_CTRL.SWEEP starts a free sweep. -/
  | hldSweepCmd (m : Master)
  /-- HOLD_SCRUB (R309): Scrubbing reads stripes and rewrites weak or corrected sectors. -/
  | holdScrub (corr : List (HoldDie × Fin 9)) (bad : List HoldDie) (err : List (HoldDie × Fin 272 × Fin 256))
  /-- GAP_MOVE (R310): After HLD_GAP_INTERVAL page writes to a zone, the empty slot moves by one page. -/
  | gapMove (z : Fin 4096)
  /-- ZONE_SWAP (R311): Hourly, the most and least worn zones exchange places if their counters differ enough. -/
  | zoneSwap (pairs : Fin 16385)
  /-- WEAR_COUNTER_SAVE (R312): Wear counters are saved hourly. -/
  | wearCounterSave
  /-- HLD_FORMAT (R317): A PW format with KEY 0x5A, in WINTER or before commit, empties queues, resizes capture and rebuilds the ring. -/
  | hldFormat (m : Master) (key : Fin 256) (cap : Fin 4096)
  /-- HLD_FORMAT_DONE (R317): The format completes within 2 s and records HOLD_FORMATTED. -/
  | hldFormatDone
  /-- TIM_ADJ_SET (R323): TIM_ADJ_CMD SET schedules a new epoch that sets the time at F_s. -/
  | timAdjSet (m : Master)
  /-- TIM_ADJ_STEP (R323): TIM_ADJ_CMD STEP schedules an offset step. -/
  | timAdjStep (m : Master)
  /-- TIM_ADJ_RATE (R323): TIM_ADJ_CMD RATE schedules a continuous rate change. -/
  | timAdjRate (m : Master)
  /-- TIM_ADJ_STEP_RATE (R323): TIM_ADJ_CMD STEP_RATE schedules a step and a rate change together. -/
  | timAdjStepRate (m : Master)
  /-- EPOCH_SWITCH (R323): At F_s the new epoch opens and BUSY clears; pending pulse edges are recomputed. -/
  | epochSwitch
  /-- TIME_BUS_FULL_VALUE (R329): Every 4,096 ticks a lane die checks the full FRC value, and reloads and invalidates captures on an error. -/
  | timeBusFullValue (n : Region) (ok : Bool)
  /-- TXTS_POP (R335): A read of TIM_TXTS_POP pops the host's next transmit time-stamp entry. -/
  | txtsPop (m : Master) (g : Fin 32)
  /-- TIM_CONV (R326): TIM_CONV_CMD.GO converts an FRC capture under its epoch, or reports EXPIRED. -/
  | timConv (m : Master) (epoch : Fin 256) (sub : Fin 8)
  /-- PULSE_ARM (R342): A non-zero MODE arms a pulse output, and MODE 0 drives it low. -/
  | pulseArm (m : Master) (k : Fin 4) (mode : Fin 4) (lockedOnly : Bool) (sub : Fin 8)
  /-- PULSE_EDGE (R342): A pulse output rises at its programmed instant, or the edge is suppressed or counted missed. -/
  | pulseEdge (k : Fin 4)
  /-- PULSE_FALL (R342): The pulse output falls WIDTH after its rising edge. -/
  | pulseFall (k : Fin 4)
  /-- CAPTURE_INPUT_EDGE (R345): A selected edge on CAPTURE_IN is time-stamped into the FIFO, or lost when it is full. -/
  | captureInputEdge (i : Fin 2) (rising : Bool) (sub : Fin 8)
  /-- CAP_POP (R345): A read of TIM_CAP_POP pops the head capture. -/
  | capPop (m : Master) (i : Fin 2)
  /-- CAP_FLUSH (R345): TIM_CAP_CFG.FLUSH empties the capture FIFO. -/
  | capFlush (m : Master) (i : Fin 2)
  /-- PTP_RX_FIRMWARE (R337): Firmware processes a PTP message from port 134 under the state machine and best-master choice. -/
  | ptpRxFirmware (p : Port) (msg : PtpMsg)
  /-- PTP_SERVO_UPDATE (R339): The servo slews, steps, refuses a jump or locks the clock. -/
  | ptpServoUpdate (off : Int) (rate : Int) (locked : Bool)
  /-- GM_LOST (R339): Announce receipt times out on every candidate port, and the grandmaster policy applies. -/
  | gmLost
  /-- ACCEPT_JUMP (R340): TIM_CTRL.ACCEPT_JUMP applies the pending step as one STEP. -/
  | acceptJump (m : Master)
  /-- CLOCK_MODE_WRITE (R337): A write of CLOCK_MODE restarts every port's PTP state. -/
  | clockModeWrite (m : Master) (mode : Fin 2)
  /-- PTP_ISOLATE_END (R347): A port isolated for PTP violations resumes after 10 s. -/
  | ptpIsolateEnd (p : Port)
  /-- FAB_HELLO_SEND (R352): A fabric-role port with its link up sends a hello every HELLO_INTERVAL. -/
  | fabHelloSend (p : Port)
  /-- FAB_HELLO_RECEIVE (R353): A received hello is checked and drives the adjacency state. -/
  | fabHelloReceive (p : Port) (h : Hello)
  /-- FAB_DEAD_TIME (R354): DEAD_TIME with no accepted hello takes the adjacency DOWN. -/
  | fabDeadTime (p : Port)
  /-- FAB_REFUSED_END (R354): 10 s after entering REFUSED, the adjacency returns to DOWN. -/
  | fabRefusedEnd (p : Port)
  /-- FAB_LSA_ORIGINATE (R355): A member originates its link-state record on a change, or every 10 s. -/
  | fabLsaOriginate
  /-- FAB_LSA_RECEIVE (R355): A received link-state record replaces an older one, is flooded and is acknowledged. -/
  | fabLsaReceive (p : Port) (r : Lsa)
  /-- FAB_LSA_ACK_RECEIVE (R355): An acknowledgement stops the repetition of a record send. -/
  | fabLsaAckReceive (p : Port) (factory : Nat) (seq : Nat)
  /-- FAB_LSA_RETRANSMIT (R355): An unacknowledged record send is repeated every 100 ms. -/
  | fabLsaRetransmit (p : Port)
  /-- FAB_LSA_EXPIRE (R355): A record not refreshed within 40 s is removed. -/
  | fabLsaExpire
  /-- FAB_ROUTE_COMPUTE (R356): Within 5 ms of a database change, shortest paths are computed and the route table is switched in one write. -/
  | fabRouteCompute (us : Nat)
  /-- FAB_DATA_RECEIVE (R351): A fabric data frame is delivered locally or forwarded in transit. -/
  | fabDataReceive (id : Nat)
  /-- FAB_MC_COPY_RECEIVE (R358): A multicast copy passes the reverse-path check and is delivered to the local group, or is dropped. -/
  | fabMcCopyReceive (id : Nat)
  /-- FAB_ADDRESS_ELECT (R360): Three DEAD_TIMEs after its first FULL adjacency, an unaddressed member elects its address. -/
  | fabAddressElect
  /-- FAB_NOTICE_RECEIVE (R363): A received notice records FAB_MEMBER_NOTICE once per origin and cause. -/
  | fabNoticeReceive (p : Port) (formOk : Bool) (tagOk : Bool) (origin : Fin 256) (health : Fin 256) (cause : Fin 65536) (factory : Nat)
  /-- FAB_ROUTE_PARITY (R364): A route entry parity error makes the entry down until the firmware rewrites it within 100 µs. -/
  | fabRouteParity (a : Fin 256)
  /-- PAIR_HEARTBEAT_SEND (R368): Each pair port sends a heartbeat every 1 ms. -/
  | pairHeartbeatSend (p : Port)
  /-- PAIR_HEARTBEAT_RECEIVE (R368): A valid heartbeat updates the partner's state, STRUCT_CRC and flags. -/
  | pairHeartbeatReceive (p : Port) (m : PairMsg)
  /-- PAIR_HB_LOST (R381): No heartbeat for HB_MISS ms declares the partner's heartbeat lost. -/
  | pairHbLost
  /-- PAIR_RENEW_SEND (R374): The active sends RENEW to the partner and the witnesses. -/
  | pairRenewSend
  /-- PAIR_RENEW_ACK_RECEIVE (R374): A partner or witness majority acknowledgement extends the lease timer to r + L. -/
  | pairRenewAckReceive (p : Port) (m : PairMsg)
  /-- PAIR_RENEW_DEADLINE (R374): A renewal not acknowledged within 2 ms fails and is counted. -/
  | pairRenewDeadline
  /-- LEASE_TIMER_EXPIRE (R370): The lease timer expires: LEASE_OUT falls and the active becomes STANDBY. -/
  | leaseTimerExpire
  /-- LEASE_INTERLOCK (R371): LEASE_IN asserted while the own timer runs causes WINTER. -/
  | leaseInterlock (a : Bool) (b : Bool)
  /-- LEASE_PIN_MISMATCH (R370): The two LEASE_IN copies disagree for 1 ms, and the device moves to AUTUMN. -/
  | leasePinMismatch
  /-- PAIR_CLAIM (R377): A STANDBY member whose claim conditions hold sends CLAIM for the next epoch. -/
  | pairClaim
  /-- PAIR_CLAIM_TIMEOUT (R372): 20 ms without a granting majority returns the member to STANDBY. -/
  | pairClaimTimeout
  /-- PAIR_GRANT_RECEIVE (R377): A majority of grants with LEASE_IN low starts the lease timer: the equinox. -/
  | pairGrantReceive (p : Port) (m : PairMsg)
  /-- PAIR_REFUSE_RECEIVE (R376): A witness refusal returns the claimant to STANDBY. -/
  | pairRefuseReceive (p : Port) (m : PairMsg)
  /-- WITNESS_RENEW (R376): A witness acknowledges a renewal of its current epoch, or refuses a stale one. -/
  | witnessRenew (p : Port) (m : PairMsg)
  /-- WITNESS_CLAIM (R376): A witness grants, holds or refuses a claim for E + 1. -/
  | witnessClaim (p : Port) (m : PairMsg)
  /-- WITNESS_CLAIM_GRANT (R376): A held claim is granted once L + G has passed since the last acknowledgement. -/
  | witnessClaimGrant (a : Fin 256) (b : Fin 256)
  /-- WITNESS_RELEASE (R376): A RELEASE of the current epoch lets the witness grant E + 1 at once. -/
  | witnessRelease (p : Port) (m : PairMsg)
  /-- PAIR_RELEASE (R383): PAIR_LEASE_CMD RELEASE stops the timer and hands the lease to a synced partner, or is refused. -/
  | pairRelease (m : Master)
  /-- PAIR_RELEASE_RECEIVE (R383): The partner receives RELEASE and claims E + 1 without waiting. -/
  | pairReleaseReceive (p : Port) (m : PairMsg)
  /-- PAIR_HOLD_OFF (R377): PAIR_LEASE_CMD HOLD_OFF withholds claims. -/
  | pairHoldOff (m : Master)
  /-- PAIR_ALLOW_CLAIMS (R377): PAIR_LEASE_CMD ALLOW permits claims again. -/
  | pairAllowClaims (m : Master)
  /-- PAIR_DIGEST_SEND (R386): 2 ms after a 1 ms window ends, the active sends one DIGEST per region. -/
  | pairDigestSend
  /-- PAIR_DIGEST_RECEIVE (R386): The standby judges each port's window as matched, mismatched or unjudged. -/
  | pairDigestReceive (p : Port) (m : PairMsg) (w : Nat) (n : Region) (entries : List (Nat × Nat × Bool × Nat))
  /-- PAIR_COMPARE_STAGE (R387): A comparison stage completes: block sums, recheck, judgement or logic check. -/
  | pairCompareStage (q : Port) (own : List (Nat × Nat × Nat)) (partner : List BlockSum) (decisions : List (Nat × List (BitVec 8))) (partnerFault : Bool) (rows : List SyncRec)
  /-- PAIR_SAMPLE_RECEIVE (R385): The standby resolves a sampled frame for the digest. -/
  | pairSampleReceive (p : Port) (m : PairMsg) (q : Port) (len : Nat) (w : Nat) (aut : Nat) (bytes : List (BitVec 8))
  /-- PAIR_RESYNC (R389): A SYNCING member takes a bulk copy of the tables from the active. -/
  | pairResync (rows : List SyncRec)
  /-- PAIR_RESYNC_DONE (R389): After the copy and the SYNC records, the member sets SYNCED and becomes STANDBY. -/
  | pairResyncDone
  /-- PAIR_SYNC_RECORD (R390): The standby applies a layer-2 change sent by the active. -/
  | pairSyncRecord (p : Port) (m : PairMsg) (rec_ : SyncRec)
  /-- WINTER_SEQUENCE_DONE (R400): At 20 µs, management is confirmed up, HLT_WINTER_LAT is written and WINTER_ENTERED is flushed. -/
  | winterSequenceDone
  /-- HLT_CAUSE_CLEAR (R402): Writing 1 to an HLT_CAUSE bit clears it once its condition has gone. -/
  | hltCauseClear (m : Master) (w : BitVec 32)
  /-- WINTER_EXIT (R403): HLT_WINTER_EXIT.GO with a valid challenge response leaves WINTER for SPRING and re-reads the image. -/
  | winterExit (m : Master) (spi : Spi) (lost : List (Nat × Nat × Nat))
  /-- WINTER_REQ (R405): HLT_WINTER_REQ with KEY 0xC3 from PF0 or SMBus enters WINTER. -/
  | winterReq (m : Master) (key : BitVec 8) (req : Bool)
  /-- WATCHDOG_EXPIRED (R406): A core watchdog expires: WINTER is entered and the core restarts. -/
  | watchdogExpired (core : Fin 4)
  /-- MON_SAMPLE (R407): A monitor sample is judged against its warning and hard limits and its plausibility tests. -/
  | monSample (x : MonRead)
  /-- THERMTRIP (R410): A sensor at 130 °C latches THERMTRIP_N and enters WINTER. -/
  | thermtrip (x : Fin 52)
  /-- AVS_UPDATE (R411): Every 10 ms the device computes its VDD_CORE target from process and temperature. -/
  | avsUpdate
  /-- AVS_STEP (R411): At most once per 1 ms the voltage request moves 5 mV towards the target and VOUT is read back. -/
  | avsStep (written : Bool) (vout : Option (Fin 1024))
  /-- CFG_SCRUB (R413): The 1 ms parity scrub finds a mismatch and causes WINTER, or isolates the unit. -/
  | cfgScrub (bad : List (Fin 16777216 × BitVec 32))
  /-- CAL_REGISTER_WRITE (R415): A CAL delta write sets the effective value, clamped to its range. -/
  | calRegisterWrite (m : Master) (off : Fin 65536) (w : BitVec 32)
  /-- CAL_SAVE (R416): CAL_CMD.SAVE writes the non-zero deltas to the calibration area in two copies. -/
  | calSave (m : Master)
  /-- CAL_CLEAR_USER (R416): CAL_CMD.CLEAR_USER zeroes every delta. -/
  | calClearUser (m : Master)
  /-- CAL_CLEAR_SAVED (R416): CAL_CMD.CLEAR_SAVED with KEY 0x3C erases both saved copies. -/
  | calClearSaved (m : Master) (key : BitVec 8)
  /-- HOST_LINK_UP (R421): The PCI Express data link comes up trained, and the result is recorded. -/
  | hostLinkUp (speed : Fin 8) (width : Fin 17) (flit : Bool)
  /-- HOST_FLR (R427): A function-level reset resets that function's state under Table 16-6. -/
  | hostFlr (f : Fin 4)
  /-- PCIE_D3HOT_ENTER (R426): A function entering D3hot stops its DMA and its rings at a frame boundary. -/
  | pcieD3hotEnter (f : Fin 4)
  /-- PCIE_D0_RETURN (R426): A function returning to D0 resumes its rings. -/
  | pcieD0Return (f : Fin 4)
  /-- INT_PEND_CLEAR (R429): Writing 1 to an INT_PEND bit clears it. -/
  | intPendClear (m : Master) (i : Fin 16) (v : BitVec 32)
  /-- INT_MASK_WRITE (R429): Clearing a mask bit of a pending source sends its message. -/
  | intMaskWrite (m : Master) (i : Fin 16) (v : BitVec 32)
  /-- RING_DOORBELL (R431): A PF1 or PF2 doorbell posts descriptors, or halts the ring with TAIL_OVERRUN. -/
  | ringDoorbell (r : Fin 132) (tail : BitVec 32)
  /-- RING_ENABLE (R431): Setting or clearing a ring's ENABLE starts or stops fetching. -/
  | ringEnable (m : Master) (r : Fin 132) (enable : Bool) (vector : Fin 1024)
  /-- RING_RESTART (R435): RESTART resumes a halted host ring. -/
  | ringRestart (m : Master) (r : Fin 132)
  /-- PF1_TX_FRAME (R432): A host frame from SOF to EOF is injected into a region or linked directly, or dropped, or halts the ring. -/
  | pf1TxFrame (r : Fin 64) (descs : List (List (BitVec 8) × List (BitVec 8))) (rivals : List (Fin 7))
  /-- PF1_RX_DELIVER (R433): A frame leaving port 132's queue is written to its steered receive ring, or dropped for lack of buffers. -/
  | pf1RxDeliver (descs : List (List (BitVec 8))) (rd : CellRead)
  /-- PF2_READ (R434): A PF2 request descriptor reads an area of the hold store into host memory. -/
  | pf2Read (q : Fin 4) (desc : List (BitVec 8)) (fill : List (BitVec 8)) (reads : List (Nat × RowRead))
  /-- MSIX_MODERATION_TIMER (R435): USEC after the first pending write-back, the ring vector is signalled. -/
  | msixModerationTimer (r : Fin 132)
  /-- HOST_DMA_ERROR (R436): An error or poisoned completion to a device read halts the issuing ring with HOST_DMA. -/
  | hostDmaError (r : Fin 132) (status : Option (Fin 8))
  /-- HOST_POISONED_WRITE (R436): A poisoned write to a BAR is discarded and logged. -/
  | hostPoisonedWrite (f : Fin 4) (off : BitVec 24)
  /-- REGISTER_WRITE (R444): A write to a register with no row of its own is checked and performed under its access type. -/
  | registerWrite (m : Master) (bar2 : Bool) (off : Fin 16777216) (form : BusForm) (data : List (BitVec 32)) (env : WriteEnv)
  /-- IND_ADDR_WRITE (R458): A write of IND_ADDR starts a fetch of 16 words into the window. -/
  | indAddrWrite (m : Master) (n : Region) (w : BitVec 32)
  /-- IND_FETCH_DONE (R458): The window fetch completes and READY is set. -/
  | indFetchDone (m : Master) (n : Region)
  /-- IND_DATA_READ_ADVANCE (R458): With AUTO_INC, a read of IND_DATA[s − 1] advances WORD and starts the next fetch. -/
  | indDataReadAdvance (m : Master) (n : Region)
  /-- IND_CMD_GO (R459): IND_CMD.GO writes COUNT words to the space, or sets ERR. -/
  | indCmdGo (m : Master) (n : Region) (count : Fin 32)
  /-- IND_WRITE_DONE (R459): The indirect write completes within 200 ns and BUSY clears. -/
  | indWriteDone (m : Master) (n : Region)
  /-- GLB_HIF_SELECT (R460): A one-time write selects the host register interface version. -/
  | glbHifSelect (m : Master) (major : Fin 256) (minor : Fin 256)
  /-- GLB_FUSE_COMMIT (R461): The factory fuse commit GO is refused on every shipped device. -/
  | glbFuseCommit (m : Master)
  /-- SMBUS_SET_ADDR (R462): SMBus command 0x10 sets ADDR. -/
  | smbusSetAddr (count : Fin 256) (addr : BitVec 32) (pecOk : Bool)
  /-- SMBUS_READ (R462): SMBus command 0x11 reads the register at ADDR and advances it. -/
  | smbusRead
  /-- SMBUS_WRITE (R462): SMBus command 0x12 writes the register at ADDR and advances it. -/
  | smbusWrite (count : Fin 256) (w : BitVec 32) (pecOk : Bool) (env : WriteEnv)
  /-- SMBUS_STATUS (R462): SMBus command 0x13 returns the status of the last access. -/
  | smbusStatus
  /-- SMBUS_TIMEOUT (R463): The clock held low beyond 35 ms abandons the transaction and resets the slave. -/
  | smbusTimeout
  /-- LOCK_ACQUIRE_READ (R480): A read of a free lock acquires it for the reader. -/
  | lockAcquireRead (m : Master) (i : Fin 64)
  /-- LOCK_RELEASE_WRITE (R481): A write of the holder's identifier by the holder releases the lock. -/
  | lockReleaseWrite (m : Master) (i : Fin 64) (v : Fin 16)
  /-- MBX_H2F_POST (R467): H2F GO posts a request and sets FULL, or sets COLLISION. -/
  | mbxH2fPost (m : Master) (pair : Fin 8)
  /-- MBX_H2F_TAKE (R467): The firmware copies a posted request into its queue and FULL clears. -/
  | mbxH2fTake (pair : Fin 8)
  /-- MBX_F2H_DELIVER (R468): The firmware delivers a queued reply or notice into an F2H mailbox and raises its source. -/
  | mbxF2hDeliver (pair : Fin 8)
  /-- MBX_F2H_ACK (R468): An ACK clears FULL and lets the next queued message be delivered. -/
  | mbxF2hAck (m : Master) (pair : Fin 8)
  /-- MBX_GET_INFO (R471): Replies with the firmware version, mailbox versions, health, role and CRED_ID. -/
  | mbxGetInfo (pair : Fin 8)
  /-- MBX_ECHO (R471): Replies with the words sent. -/
  | mbxEcho (pair : Fin 8)
  /-- MBX_EVR_FLUSH (R471): Flushes the event FIFO and replies with the last SEQ flushed. -/
  | mbxEvrFlush (pair : Fin 8)
  /-- MBX_CHALLENGE (R472): Issues a 32-byte challenge bound to the master and purpose. -/
  | mbxChallenge (pair : Fin 8)
  /-- MBX_EVR_CLEAR (R497): With a valid response, flushes, writes CLEARED and starts erasing the event area. -/
  | mbxEvrClear (pair : Fin 8)
  /-- MBX_GET_ID_KEY (R475): Returns the factory public point. -/
  | mbxGetIdKey (pair : Fin 8)
  /-- MBX_ATTEST (R475): Signs and returns the attestation report. -/
  | mbxAttest (pair : Fin 8)
  /-- MBX_FUSE_OWNER_KEY (R476): Fuses the owner-key hash once, under its conditions. -/
  | mbxFuseOwnerKey (pair : Fin 8) (readback : Bool)
  /-- MBX_WITNESS_REPLY (R477): A host witness reply on H2F mailbox 6 is matched to its request, or discarded. -/
  | mbxWitnessReply
  /-- CHALLENGE_EXPIRE (R472): A challenge expires 10 s after its reply. -/
  | challengeExpire (m : Master) (purpose : Fin 3)
  /-- CRED_HOLDOFF_END (R474): The 60 s credential hold-off ends. -/
  | credHoldoffEnd
  /-- DOORBELL_EVR_FLUSH (R479): H2F doorbell bit 0 flushes the event FIFO. -/
  | doorbellEvrFlush
  /-- DOORBELL_HOST_ALIVE (R479): H2F doorbell bit 1 is answered by F2H bit 1. -/
  | doorbellHostAlive
  /-- EVR_FLUSH_TIMER (R492): 1 s after the previous flush ended, a flush starts. -/
  | evrFlushTimer
  /-- EVR_CTRL_FLUSH (R492): EVR_CTRL.FLUSH starts a flush. -/
  | evrCtrlFlush (m : Master)
  /-- EVR_FLUSH_ERROR_TRIGGER (R492): An accepted ERROR or FATAL record starts a flush within 10 µs. -/
  | evrFlushErrorTrigger
  /-- EVR_FLUSH_DONE (R492): A flush ends with the staged records written; a pending LOST record or another flush may follow. -/
  | evrFlushDone (bad : List (Fin 4096))
  /-- EVR_FREEZE (R496): EVR_CTRL.FREEZE stops flushes into the area, or is refused. -/
  | evrFreeze (m : Master)
  /-- EVR_THAW (R496): THAW by the owner releases the freeze. -/
  | evrThaw (m : Master)
  /-- EVR_FREEZE_AUTO_RELEASE (R496): A freeze is released after 10 s, on a filling FIFO or on PFAIL_N. -/
  | evrFreezeAutoRelease
  /-- EVR_ERASE_DONE (R497): The erase of the cleared range completes and the reply is sent. -/
  | evrEraseDone
  /-- EVR_UNANCHORED (R487): With the area not mounted 5 s after t0, numbering starts at 0 unanchored. -/
  | evrUnanchored
  /-- EVR_STAGE_SEQ_WRITE (R498): A write of EVR_STAGE_SEQ loads a staged record into EVR_STAGE_DATA. -/
  | evrStageSeqWrite (m : Master) (seq : BitVec 32)
  /-- EVR_STAGE_RELEASE (R498): With no store, staged records up to a SEQ are discarded. -/
  | evrStageRelease (m : Master) (seq : BitVec 32)
  /-- PMC_START_ALL (R508): Sets every monitor's EN in one cycle. -/
  | pmcStartAll (m : Master)
  /-- PMC_STOP_ALL (R508): Clears every monitor's EN in one cycle. -/
  | pmcStopAll (m : Master)
  /-- PMC_CLR_ALL (R508): Clears every counter and OVF bit. -/
  | pmcClrAll (m : Master)
  /-- PMC_SNAP (R508): Copies every counter into the snapshot registers. -/
  | pmcSnap (m : Master)
  /-- PMC_MONITOR_CLR (R506): PMC_CTL.CLR clears one monitor's counters and OVF. -/
  | pmcMonitorClr (m : Master) (n : Fin 6) (en : Bool)
  /-- PMC_SEL_WRITE (R509): A write selects a counter's event from the next cycle, or is ignored. -/
  | pmcSelWrite (m : Master) (n : Fin 6) (c : Fin 8) (chain : Bool) (qual : Fin 256) (ev : Fin 1024)
  /-- PMC_BW_WINDOW_END (R510): At each window end, the per-port bandwidths and peaks update and PMC_BW_SEQ advances. -/
  | pmcBwWindowEnd
  /-- PMC_BW_WINDOW_WRITE (R511): A write of PMC_BW_WINDOW discards the window, zeroes the values and starts anew. -/
  | pmcBwWindowWrite (m : Master) (us : BitVec 32)
  /-- PMC_BW_CLR_PEAK (R511): CLR_PEAK zeroes every peak. -/
  | pmcBwClrPeak (m : Master)
  /-- JTAG_INSTRUCTION (R527): Loading a TAP instruction other than BYPASS or IDCODE holds the device in full reset. -/
  | jtagInstruction (scan : Bool)
  /-- FATAL_DIE_FAULT (R32): A fatal fault on the core die or the management die, found at the failing access, sets CORE_FATAL or MGMT_FATAL and moves the device to WINTER. -/
  | fatalDieFault (mgmt : Bool)
  /-- POWER_LOST (R518): The rails leave their range after the hold-up time, or without PFAIL_N, and all volatile state is lost until the next power-on reset. -/
  | powerLost
  /-- INTERNAL_RESET_RELEASE (R79): The internal reset of a full reset started by CLK_RST_CMD or TRIAL_RESET ends with SYS_RESET_N high, BOOT_SEL is sampled and the boot ROM starts. -/
  | internalResetRelease (sel : Fin 8)
  /-- BOOT_START_AFTER_PFAIL (R517): A SYS_RESET_N release made while PFAIL_N was asserted starts the boot ROM once PFAIL_N has been deasserted for 10 ms, which becomes t0. -/
  | bootStartAfterPfail
  /-- RX_LPI_CHANGE (R121): A lane's receive side enters or leaves the partner's low-power idle, which changes its eligibility, abandons a turn in ADAPT or VERIFY, or defers a swap. -/
  | rxLpiChange (l : Lane) (on : Bool)
  /-- PAIR_DIGEST_TIMEOUT (R386): A DIGEST that has not arrived within 10 ms leaves the window unjudged and counts it in WINDOWS_UNJUDGED. -/
  | pairDigestTimeout (w : Nat) (n : Region)
  /-- PAIR_LINK_ISOLATE_END (R393): A pair link isolated for more than 5,000 messages/s of one kind resumes pair traffic after 1 s. -/
  | pairLinkIsolateEnd (p : Port)
  /-- CORE_RESTART_DONE (R478): A management core restarted after its watchdog finishes its restart, typically 50 ms later; for core 0 the firmware domain comes back up and FW_UP is set. -/
  | coreRestartDone (core : Fin 4)
  /-- MBX_UNKNOWN_OPCODE (R471): A request whose opcode is unknown, or introduced above the version in force, is answered with UNKNOWN_OPCODE and has no other effect. -/
  | mbxUnknownOpcode (pair : Fin 8)
  /-- SMBUS_UNDEFINED_COMMAND (R463): An SMBus transaction with an undefined command code is not acknowledged, counted in REFUSED and recorded as SMBUS_VIOLATION. -/
  | smbusUndefinedCommand
  /-- TIM_ADJ_REFUSED (R324): TIM_ADJ_CMD.GO with an undefined OP, a rate beyond 1,000 ppm, or from masters 4 to 9 while SERVO_EN is set, sets REFUSED and changes nothing. -/
  | timAdjRefused (m : Master) (op : Fin 8)
  /-- REGISTER_READ (R442): A read that fails under the register rules returns Completer Abort, writes GLB_ACCESS_LAST and is recorded as the master's violation; an early IND_DATA read sets EARLY_READ. -/
  | registerRead (m : Master) (bar2 : Bool) (off : Fin 16777216) (form : BusForm)
  /-- LLDP_RECEIVE (R120): Firmware takes an LLDP frame from port 134 and negotiates EEE from its TLV, setting NEGOTIATED and TW_SYS_TX. -/
  | lldpReceive (p : Port) (tlv : Option (Fin 65536))
  /-- PTP_MESSAGE_SEND (R337): Firmware sends its timed PTP messages from port 134, as master in boundary mode and as requester of delays. -/
  | ptpMessageSend (p : Port) (type : Fin 16) (twoStep : Bool) (req : Nat)
  deriving DecidableEq, Repr

end Sys2Proof
end

