-- ==== Sys2Proof/Decode.lean ====
section
/-! DEFINITION. The decoder over the bits of the opcode table.  No row of the table has bits: no word spells a
command. -/

namespace Sys2Proof

/-- The command a word of the table spells: none, since the table gives no row an encoding. -/
def decodeTableWord (_nbits _w : Nat) : Option Instr := none

end Sys2Proof
end

