-- ==== Sys2Proof/Machine/Maps.lean ====
section
/-! DEFINITION. Sparse tables: the one way in which the model holds what the spec gives as arrays, memories and
register files.  A table lists (key, entry) pairs; a key that is not listed holds the table's default.  The
canonical form `Map.wf` (keys strictly rising, no listed entry equal to its default) makes equal contents equal
data.  Keys of more than one index are paired with `k2`, `k3`. -/

namespace Sys2Proof.Machine

/-- The key of entry `(i, j)` (Mathlib's pairing function, which is injective). -/
def k2 (i j : Nat) : Nat := Nat.pair i j

/-- The key of entry `(i, j, k)`. -/
def k3 (i j k : Nat) : Nat := Nat.pair i (Nat.pair j k)

/-- The listed entry at a key. -/
def Map.find? {V : Type} : Map V → Nat → Option V
  | [], _ => none
  | (a, v) :: m, k => if a = k then some v else Map.find? m k

/-- The entry at a key, `d` where none is listed. -/
def Map.get {V : Type} (d : V) (m : Map V) (k : Nat) : V := (Map.find? m k).getD d

/-- The table without an entry at a key. -/
def Map.erase {V : Type} : Map V → Nat → Map V
  | [], _ => []
  | (a, v) :: m, k => if a = k then Map.erase m k else (a, v) :: Map.erase m k

/-- The table with an entry listed at a key, in key order. -/
def Map.insert {V : Type} : Map V → Nat → V → Map V
  | [], k, v => [(k, v)]
  | (a, w) :: m, k, v =>
    if k < a then (k, v) :: (a, w) :: m
    else if a = k then (k, v) :: m
    else (a, w) :: Map.insert m k v

/-- The table after entry `k` takes the value `v`; the default `d` is not listed. -/
def Map.set {V : Type} [DecidableEq V] (d : V) (m : Map V) (k : Nat) (v : V) : Map V :=
  if v = d then Map.erase m k else Map.insert m k v

/-- The table after entry `k` is changed by `f`. -/
def Map.update {V : Type} [DecidableEq V] (d : V) (m : Map V) (k : Nat) (f : V → V) : Map V :=
  Map.set d m k (f (Map.get d m k))

/-- Keys strictly rising. -/
def Map.sorted {V : Type} : Map V → Bool
  | [] => true
  | [_] => true
  | (a, _) :: (b, w) :: m => decide (a < b) && Map.sorted ((b, w) :: m)

/-- The canonical form of a table whose default at key `k` is `d k`. -/
def Map.wf {V : Type} [DecidableEq V] (d : Nat → V) (m : Map V) : Bool :=
  Map.sorted m && m.all (fun p => decide (p.2 ≠ d p.1))

/-- The listed keys. -/
def Map.keys {V : Type} (m : Map V) : List Nat := m.map (·.1)

/-- The listed entries that satisfy a test. -/
def Map.filterKV {V : Type} (p : Nat → V → Bool) (m : Map V) : Map V := m.filter (fun x => p x.1 x.2)

/-- Every listed entry changed by `f`; an entry that becomes the default is no longer listed. -/
def Map.mapV {V : Type} [DecidableEq V] (d : V) (f : Nat → V → V) (m : Map V) : Map V :=
  (m.map (fun x => (x.1, f x.1 x.2))).filter (fun x => decide (x.2 ≠ d))

/-! ### Byte strings -/

/-- The `n` bytes of a number, least significant byte first (R9). -/
def leBytes : Nat → Nat → Bytes
  | 0, _ => []
  | n + 1, v => BitVec.ofNat 8 v :: leBytes n (v / 256)

/-- The `n` bytes of a number, most significant byte first (R9: the order on the wire). -/
def beBytes (n v : Nat) : Bytes := (leBytes n v).reverse

/-- The number a byte string spells, least significant byte first. -/
def leNat : Bytes → Nat
  | [] => 0
  | b :: bs => b.toNat + 256 * leNat bs

/-- The number a byte string spells, most significant byte first. -/
def beNat (bs : Bytes) : Nat := bs.foldl (fun a b => a * 256 + b.toNat) 0

/-- `n` bytes of a string from offset `o`; bytes beyond its end read 0. -/
def slice (bs : Bytes) (o n : Nat) : Bytes :=
  List.takeD n (bs.drop o) 0

/-- The field of `n` bytes at offset `o`, least significant byte first. -/
def leAt (bs : Bytes) (o n : Nat) : Nat := leNat (slice bs o n)

/-- The field of `n` bytes at offset `o`, most significant byte first. -/
def beAt (bs : Bytes) (o n : Nat) : Nat := beNat (slice bs o n)

/-- The string with the bytes of `x` written from offset `o` (inside the string). -/
def patch (bs : Bytes) (o : Nat) (x : Bytes) : Bytes :=
  bs.take o ++ x.take (bs.length - o) ++ bs.drop (o + x.length)

/-- Bits `[lo + w - 1 : lo]` of a number. -/
def bitsOf (v lo w : Nat) : Nat := (v / 2 ^ lo) % 2 ^ w

/-- Bit `i` of a number. -/
def bitOf (v i : Nat) : Bool := decide ((v / 2 ^ i) % 2 = 1)

/-- A number with bit `i` set to `b`. -/
def putBit (v i : Nat) (b : Bool) : Nat :=
  if bitOf v i = b then v else if b then v + 2 ^ i else v - 2 ^ i

/-- The number of a truth value. -/
def b2n (b : Bool) : Nat := if b then 1 else 0

/-- A signed reading of the low `w` bits. -/
def signed (w v : Nat) : Int :=
  if v % 2 ^ w < 2 ^ (w - 1) then (v % 2 ^ w : Int) else (v % 2 ^ w : Int) - (2 ^ w : Int)

/-- The low `w` bits of an integer, two's complement. -/
def unsigned (w : Nat) (v : Int) : Nat := (v % (2 ^ w : Int)).toNat

/-- A count that stays at its largest value of `w` bits (classes C and D, R501). -/
def satAdd (w a b : Nat) : Nat := min (a + b) (2 ^ w - 1)

end Sys2Proof.Machine
end

