-- ==== Sys2Proof/Machine/Crc.lean ====
section
/-! DEFINITION. The checks of frames and records: CRC-32 of IEEE 802.3 (R108, R110), CRC-32C (R18, R277) and the
internet checksum (R333). -/

namespace Sys2Proof.Machine

/-- One bit of a reflected CRC with polynomial `poly`. -/
def crcBit (poly c : Nat) : Nat := if c % 2 = 1 then Nat.xor (c / 2) poly else c / 2

/-- One byte of a reflected CRC. -/
def crcByte (poly c : Nat) (b : Byte) : Nat :=
  let c0 := Nat.xor c b.toNat
  let c4 := crcBit poly (crcBit poly (crcBit poly (crcBit poly c0)))
  crcBit poly (crcBit poly (crcBit poly (crcBit poly c4)))

/-- A reflected 32-bit CRC, initial value and final inversion all ones. -/
def crcOf (poly : Nat) (bs : Bytes) : Nat := Nat.xor (bs.foldl (crcByte poly) 0xFFFFFFFF) 0xFFFFFFFF

/-- The CRC-32 of IEEE 802.3 (the code of R110). -/
def crc32 (bs : Bytes) : Nat := crcOf 0xEDB88320 bs

/-- CRC-32C. -/
def crc32c (bs : Bytes) : Nat := crcOf 0x82F63B78 bs

/-- The four FCS bytes of a frame, in wire order. -/
def fcsOf (bs : Bytes) : Bytes := leBytes 4 (crc32 bs)

/-- Whether the last four bytes of a reception are the FCS of the others. -/
def fcsGood (bs : Bytes) : Bool := decide (4 ≤ bs.length) && decide (bs.drop (bs.length - 4) = fcsOf (bs.take (bs.length - 4)))

/-- The ones' complement sum of 16-bit words in wire order, folded to 16 bits. -/
def onesSum : Bytes → Nat
  | [] => 0
  | [a] => a.toNat * 256
  | a :: b :: bs =>
    let t := onesSum bs + (a.toNat * 256 + b.toNat)
    t % 65536 + t / 65536

/-- The internet checksum of a byte string. -/
def inetSum (bs : Bytes) : Nat := 65535 - onesSum bs

end Sys2Proof.Machine
end

