-- ==== Sys2Proof/Machine/Catalogue.lean ====
section
/-! DEFINITION. The register catalogue: every register of the map (R456 and the register tables of each
chapter) with its address, its repetition and its fields; the counters (Tables 4-3 to 20-2) and the event
codes with their severities (Table 19-6).  A field carries its place, its access type (Table 0-1), the reset
value the spec states (0 where it states none, log 1) and the range that a write must respect (R444). -/

namespace Sys2Proof.Machine

/-- Access types of the register map (R444 to R450). -/
inductive Access | ro | rw | rwm | w1c | w1s | pw | rp | wo1 | lck
  deriving DecidableEq, Repr

/-- The registers of the map, by the names their tables give. -/
inductive Reg
  | HLT_D2D_STATUS | HLT_D2D_SPARE_OUT | HLT_D2D_SPARE_IN | HLT_D2D_CRC_ERR | HLT_D2D_REPLAY | HLT_D2D_REPAIR
  | HLT_D2D_CTRL | HLT_REGION_DISCARD | CLK_STATUS | CLK_DIV | CLK_FREQ | IMG_STATUS | IMG_CMD | IMG_SRC_LO
  | IMG_SRC_HI | IMG_LEN | IMG_TRIAL_TIME | IMG_SLOT_STATE | IMG_RUN_SERIAL | IMG_OWNER_STATUS
  | IMG_AMEND_COUNT | IMG_RUN_DIGEST | IMG_OWNER_HASH | IMG_RELOAD_DISCARD | CLK_RST_CAUSE | CLK_RST_CMD
  | CLK_BOOT_STATUS | CLK_POWER_CYCLES | CLK_BOOT_FW_LO | CLK_BOOT_FW_HI | CLK_BOOT_FW_LEN | CLK_BOOT_FW_CMD
  | CLK_BOOT_TIME | CLK_SPRING_DISCARD | MAC_STATUS | MAC_PORT_INFO | MAC_CTRL | MAC_MAX_FRAME | MAC_LINK_CTRL
  | MAC_FLAP_CTRL | MAC_PAUSE_TIMERS | MAC_PFC_TX | MAC_CLASS_MAP | MAC_TXQ_MAP | MAC_EEE_CTRL
  | MAC_EEE_STATUS | MAC_SA_LO | MAC_SA_HI | MAC_MCAST_FILTER | MAC_STAT_HALF | MAC_STAT_INT_EN | MAC_STAT_LO
  | MAC_STAT_HI | LANE_STATUS | LANE_CTRL | LANE_LAT_OFFSET | LANE_CAL_TEMP | LANE_CAL_AGE
  | LANE_VERIFY_SYMBOLS | LANE_VERIFY_LIMIT | LANE_TX_FACTORY | LANE_TX_EFF | LANE_RX_EQ | LANE_SWAPS
  | LANE_ABANDONED | LANE_UNDECIDED | LANE_LAST_MISMATCH | SHADOW_STATUS | SHADOW_CTRL | SHADOW_INTERVAL
  | SHADOW_TEMP_DELTA | SHADOW_ADAPT_MAX | SHADOW_TURNS | SHADOW_FAILS | SHADOW_RETIRED | PRS_STATUS
  | PRS_CTRL | PRS_LAST_ERR | PRS_LAST_ERR_AT | PRS_PORT_CFG | PRS_CNT_LO | PRS_CNT_HI | PRS_PORT_ERR_LO
  | PRS_PORT_ERR_HI | TBL_STATUS | TBL_CTRL | TBL_AGE_TIME | TBL_L2_COUNT | TBL_L2_CAPACITY | TBL_LPM4_COUNT
  | TBL_LPM6_COUNT | TBL_LPM4_USED | TBL_LPM6_USED | TBL_LAST_PARITY | TBL_SPARES_USED | TBL_HASH_SEED
  | TBL_SCNT_LO | TBL_SCNT_HI | TBL_RING_BASE_LO | TBL_RING_BASE_HI | TBL_RING_SIZE | TBL_RING_TAIL
  | TBL_RING_HEAD | TBL_RING_STATUS | TBL_RING_CTRL | TBL_HOST_PROFILE | TBL_PORT_CFG | TBL_PORT_LEARN_LIMIT
  | TBL_RCNT_LO | TBL_RCNT_HI | TCM_STATUS | TCM_CTRL | TCM_SCAN_LAST | TCM_LAST_FAULT | TCM_MOVE_STATUS
  | TCM_BANK_FAULT_LO | TCM_BANK_FAULT_HI | TCM_SCNT_LO | TCM_SCNT_HI | TCM_PART_INFO | TCM_PART_USED
  | TCM_RING_BASE_LO | TCM_RING_BASE_HI | TCM_RING_SIZE | TCM_RING_TAIL | TCM_RING_HEAD | TCM_RING_STATUS
  | TCM_RING_CTRL | TCM_RCNT_LO | TCM_RCNT_HI | AUT_STATUS | AUT_CTRL | AUT_QUEUE_LIMIT | AUT_LAST_FAULT
  | AUT_FLOW_TYPES | AUT_FLOW_IDLE | AUT_FLOW_COUNT | AUT_CNT_LO | AUT_CNT_HI | ACT_CTRL | ACT_TPID
  | ACT_ROUTER_MAC_LO | ACT_ROUTER_MAC_HI | ACT_CAP_CTRL | ACT_CAP_RATE | ACT_CAP_HOST_LO | ACT_CAP_HOST_HI
  | ACT_CAP_HOST_LOG2 | ACT_CAP_RECORDS | ACT_CAP_HEAD_LO | ACT_CAP_HEAD_HI | ACT_CAP_WRAPS | ACT_CAP_LOST_LO
  | ACT_CAP_LOST_HI | ACT_NH_CAPACITY | ACT_DSCP_COLOUR | ACT_CNT_LO | ACT_CNT_HI | MTR_STATUS | MTR_CTRL
  | MTR_LAST_FAULT | MTR_CNT_LO | MTR_CNT_HI | MIR_CFG | MIR_DEST | MIR_COPIES_LO | MIR_COPIES_HI
  | MIR_SKIPPED_LO | MIR_SKIPPED_HI | MIR_CTRL | BUF_STATUS | BUF_CTRL | BUF_FREE_CELLS | BUF_ARRIVAL_RESERVE
  | BUF_SHARED_SIZE | BUF_SHARED_USED | BUF_DESC_FREE | BUF_LAST_ECC | BUF_SPARES_USED | BUF_RETIRED_CELLS
  | BUF_PEAK_USED | BUF_CNT_LO | BUF_CNT_HI | QUE_PORT_STATUS | QUE_PORT_CFG | QUE_PORT_SHAPER | QUE_FLAP_LEFT
  | QUE_TC_CFG | QUE_TC_SHAPER | QUE_TC_ECN | QUE_TC_PFC | QUE_DEPTH | QUE_INGRESS_DEPTH | QUE_QCNT_LO
  | QUE_QCNT_HI | QUE_PCNT_LO | QUE_PCNT_HI | HLD_STATUS | HLD_CTRL | HLD_FORMAT | HLD_FREE_PAGES
  | HLD_HELD_PAGES | HLD_HELD_FIRST | HLD_CAP_PAGES | HLD_DRAIN_LOW | HLD_SCRUB_HOURS | HLD_GAP_INTERVAL
  | HLD_ZONE_SWAP_DELTA | HLD_PF2_RATE | HLD_WEAR_MAX | HLD_WEAR_MEAN | HLD_LAST_FAULT | HLD_LAST_STRIPE
  | HLD_PF_TIME | HLD_RETRAIN_STATUS | HLD_QSEL | HLD_QINFO0 | HLD_QINFO1 | HLD_QINFO2 | HLD_QINFO3
  | HLD_POLICY_TC | HLD_SPILL_TC | HLD_MAX_AGE_TC | HLD_DRAIN_RATE_TC | HLD_DIE_STATUS | HLD_TCNT_LO
  | HLD_TCNT_HI | HLD_GCNT_LO | HLD_GCNT_HI | HLD_WEAR | TIM_STATUS | TIM_CTRL | TIM_GM_POLICY
  | TIM_JUMP_LIMIT | TIM_FRC_LO | TIM_FRC_HI | TIM_NOW_SEC_LO | TIM_NOW_SEC_HI | TIM_NOW_NS | TIM_NOW_FRAC
  | TIM_ADJ_SEC_LO | TIM_ADJ_SEC_HI | TIM_ADJ_NS | TIM_ADJ_FRAC | TIM_ADJ_RATE_LO | TIM_ADJ_RATE_HI
  | TIM_ADJ_CMD | TIM_EPOCH_NOW | TIM_RATE_LO | TIM_RATE_HI | TIM_CONV_FRC_LO | TIM_CONV_FRC_HI | TIM_CONV_CMD
  | TIM_CONV_SEC_LO | TIM_CONV_SEC_HI | TIM_CONV_NS | TIM_CONV_FRAC | TIM_BUS_DELAY | TIM_EPOCH_TAB
  | TIM_TXTS_POP | TIM_TXTS_FRC_LO | TIM_TXTS_FRC_HI | TIM_TXTS_STATUS | TIM_PULSE_CFG
  | TIM_PULSE_START_SEC_LO | TIM_PULSE_START_SEC_HI | TIM_PULSE_START_NS | TIM_PULSE_PERIOD_LO
  | TIM_PULSE_PERIOD_HI | TIM_PULSE_WIDTH | TIM_PULSE_STATUS | TIM_CAP_CFG | TIM_CAP_POP | TIM_CAP_FRC_LO
  | TIM_CAP_FRC_HI | TIM_CNT_LO | TIM_CNT_HI | TIM_LINK_DELAY | FAB_STATUS | FAB_CTRL | FAB_ETHERTYPE
  | FAB_HELLO_CFG | FAB_HOP_LIMIT | FAB_HASH_SEED | FAB_LSDB_COUNT | FAB_LSA_SEQ | FAB_SPF_LAST | FAB_SRC_SEL
  | FAB_SRC_GAP | FAB_SRC_LATE | FAB_REPLACED | FAB_CNT_LO | FAB_CNT_HI | FAB_ADJ | FAB_ROUTE0 | FAB_ROUTE1
  | FAB_ROUTE2 | PAIR_STATUS | PAIR_CTRL | PAIR_LEASE_CMD | PAIR_EPOCH | PAIR_LEASE_LEFT | PAIR_TIMERS
  | PAIR_ALIGN_GUARD | PAIR_SAMPLE_RATE | PAIR_WIT_STATUS | PAIR_EXEMPT | PAIR_CMP_STATUS | PAIR_CMP_BLOCK
  | PAIR_DIG_SEL | PAIR_DIG_INFO | PAIR_CNT_LO | PAIR_CNT_HI | HLT_STATE | HLT_STATE_SECS | HLT_CAUSE
  | HLT_AUTUMN_CAUSE | HLT_WINTER_REQ | HLT_WINTER_EXIT | HLT_WINTER_LAT | HLT_WDOG | HLT_EXIT_RESP
  | HLT_SUM_UNIT | HLT_SUM_LANE | HLT_SUM_ENGINE | HLT_SUM_REGION | HLT_SUM_DIE | HLT_SUM_PKG | HLT_SUM_SYSTEM
  | HLT_WINTER_IN_DISCARD | MON_STATUS | MON_TEMP_WARN | MON_AVS_CTRL | MON_AVS_STATUS | MON_TEMP | MON_VOLT
  | MON_PROC | CAL_STATUS | CAL_CMD | INT_LEVEL_SUM | INT_PEND | INT_MASK | INT_VEC | DMA_LINK | DMA_CTRL
  | DMA_INJECT_PPS | DMA_RX_STEER | DMA_CNT_LO | DMA_CNT_HI | DMA_MSIX_TABLE | DMA_MSIX_PBA | DMA_RING_BASE_LO
  | DMA_RING_BASE_HI | DMA_RING_SIZE | DMA_RING_HEAD | DMA_RING_TAIL | DMA_RING_CTRL | DMA_RING_STATUS
  | DMA_RING_MOD | IND_ADDR | IND_STATUS | IND_CMD | IND_DATA | GLB_ID | GLB_SERIAL | GLB_BASE_MAC_LO
  | GLB_BASE_MAC_HI | GLB_FW_VERSION | GLB_VER_HIF | GLB_VER_MBX | GLB_VER_IMG | GLB_VER_FAB | GLB_VER_PAIR
  | GLB_HIF_SELECT | GLB_HIF_ACTIVE | GLB_CAP0 | GLB_CAP1 | GLB_SCRATCH | GLB_SCRATCH_M | GLB_WO_STATUS
  | GLB_ACCESS_LAST | GLB_SMB_CNT | GLB_FUSE_COMMIT | MBX_H2F_DATA | MBX_H2F_CTRL | MBX_H2F_STATUS
  | MBX_F2H_DATA | MBX_F2H_CTRL | MBX_F2H_STATUS | MBX_DB_H2F_LO | MBX_DB_H2F_HI | MBX_DB_F2H_LO
  | MBX_DB_F2H_HI | MBX_STATUS | MBX_CNT_LO | MBX_CNT_HI | LCK_LOCK | LCK_HELD_LO | LCK_HELD_HI
  | LCK_BAD_RELEASE | LCK_PEEK | EVR_STATUS | EVR_CTRL | EVR_NEXT_SEQ | EVR_HEAD | EVR_OLDEST | EVR_STAGED
  | EVR_FREEZE_LEFT | EVR_LAST_FLUSH | EVR_STAGE_SEQ | EVR_STAGE_RELEASE | EVR_STAGE_DATA | EVR_LOST_PEND
  | EVR_CNT_LO | EVR_CNT_HI | PMC_CTRL | PMC_BW_WINDOW | PMC_BW_CTRL | PMC_BW_SEQ | PMC_CTL | PMC_OVF
  | PMC_CYC_LO | PMC_CYC_HI | PMC_SEL | PMC_CNT_LO | PMC_CNT_HI | PMC_SNAP_CYC_LO | PMC_SNAP_CYC_HI
  | PMC_SNAP_LO | PMC_SNAP_HI | PMC_BW_RX | PMC_BW_TX | PMC_BW_RX_PEAK | PMC_BW_TX_PEAK | CAL_TEMP_OFS
  | CAL_TEMP_GAIN | CAL_VMON_GAIN | CAL_TBUS_DELAY | CAL_TX_DELTA | CAL_TS_RX | CAL_TS_TX | CAL_HOLD_TRIM
  deriving DecidableEq, Repr

/-- One field of a register: bits `[lo + width - 1 : lo]`. -/
structure Field where
  id : Nat
  reg : Reg
  lo : Nat
  width : Nat
  access : Access
  reset : Nat
  min : Nat
  max : Nat
  deriving DecidableEq, Repr

def Field.HLT_D2D_STATUS_BUNDLES : Field := ⟨0, .HLT_D2D_STATUS, 12, 4, .ro, 0, 0, 15⟩
def Field.HLT_D2D_STATUS_DIAG : Field := ⟨1, .HLT_D2D_STATUS, 4, 1, .ro, 0, 0, 1⟩
def Field.HLT_D2D_STATUS_STATE : Field := ⟨2, .HLT_D2D_STATUS, 2, 2, .ro, 0, 0, 3⟩
def Field.HLT_D2D_STATUS_SPARE_EXHAUSTED : Field := ⟨3, .HLT_D2D_STATUS, 1, 1, .ro, 0, 0, 1⟩
def Field.HLT_D2D_STATUS_RETRAINING : Field := ⟨4, .HLT_D2D_STATUS, 0, 1, .ro, 0, 0, 1⟩
def Field.HLT_D2D_SPARE_OUT_USED : Field := ⟨5, .HLT_D2D_SPARE_OUT, 0, 20, .ro, 0, 0, 0xfffff⟩
def Field.HLT_D2D_SPARE_IN_USED : Field := ⟨6, .HLT_D2D_SPARE_IN, 0, 20, .ro, 0, 0, 0xfffff⟩
def Field.HLT_D2D_CRC_ERR : Field := ⟨7, .HLT_D2D_CRC_ERR, 0, 32, .ro, 0, 0, 0xffffffff⟩
def Field.HLT_D2D_REPLAY : Field := ⟨8, .HLT_D2D_REPLAY, 0, 32, .ro, 0, 0, 0xffffffff⟩
def Field.HLT_D2D_REPAIR : Field := ⟨9, .HLT_D2D_REPAIR, 0, 32, .ro, 0, 0, 0xffffffff⟩
def Field.HLT_D2D_CTRL_CLR_CNT : Field := ⟨10, .HLT_D2D_CTRL, 0, 1, .w1s, 0, 0, 1⟩
def Field.HLT_REGION_DISCARD : Field := ⟨11, .HLT_REGION_DISCARD, 0, 32, .ro, 0, 0, 0xffffffff⟩
def Field.CLK_STATUS_LANE_PLL_LOCK : Field := ⟨12, .CLK_STATUS, 12, 4, .ro, 0, 0, 15⟩
def Field.CLK_STATUS_ON_RING : Field := ⟨13, .CLK_STATUS, 4, 1, .ro, 0, 0, 1⟩
def Field.CLK_STATUS_ROOT_LOST : Field := ⟨14, .CLK_STATUS, 3, 1, .ro, 0, 0, 1⟩
def Field.CLK_STATUS_PCIE_REF_OK : Field := ⟨15, .CLK_STATUS, 2, 1, .ro, 0, 0, 1⟩
def Field.CLK_STATUS_REF_OK : Field := ⟨16, .CLK_STATUS, 1, 1, .ro, 0, 0, 1⟩
def Field.CLK_STATUS_ROOT_LOCK : Field := ⟨17, .CLK_STATUS, 0, 1, .ro, 0, 0, 1⟩
def Field.CLK_DIV_BUSY : Field := ⟨18, .CLK_DIV, 31, 1, .ro, 0, 0, 1⟩
def Field.CLK_DIV_COLLISION : Field := ⟨19, .CLK_DIV, 30, 1, .w1c, 0, 0, 1⟩
def Field.CLK_DIV_REFUSED : Field := ⟨20, .CLK_DIV, 29, 1, .w1c, 0, 0, 1⟩
def Field.CLK_DIV_CORE_HALF : Field := ⟨21, .CLK_DIV, 0, 1, .pw, 0, 0, 1⟩
def Field.CLK_FREQ_FREQ_KHZ : Field := ⟨22, .CLK_FREQ, 0, 32, .ro, 0, 0, 0xffffffff⟩
def Field.IMG_STATUS_BUSY : Field := ⟨23, .IMG_STATUS, 31, 1, .ro, 0, 0, 1⟩
def Field.IMG_STATUS_COLLISION : Field := ⟨24, .IMG_STATUS, 30, 1, .ro, 0, 0, 1⟩
def Field.IMG_STATUS_DIVERGED : Field := ⟨25, .IMG_STATUS, 29, 1, .ro, 0, 0, 1⟩
def Field.IMG_STATUS_DONE_OK : Field := ⟨26, .IMG_STATUS, 28, 1, .ro, 0, 0, 1⟩
def Field.IMG_STATUS_SECTION : Field := ⟨27, .IMG_STATUS, 16, 6, .ro, 0, 0, 63⟩
def Field.IMG_STATUS_REASON : Field := ⟨28, .IMG_STATUS, 0, 8, .ro, 0, 0, 255⟩
def Field.IMG_CMD_GO : Field := ⟨29, .IMG_CMD, 31, 1, .w1s, 0, 0, 1⟩
def Field.IMG_CMD_SRC_HOST : Field := ⟨30, .IMG_CMD, 12, 1, .rw, 0, 0, 1⟩
def Field.IMG_CMD_REGION_MASK : Field := ⟨31, .IMG_CMD, 8, 4, .rw, 0, 0, 15⟩
def Field.IMG_CMD_SLOT : Field := ⟨32, .IMG_CMD, 4, 2, .rw, 0, 0, 3⟩
def Field.IMG_CMD_OP : Field := ⟨33, .IMG_CMD, 0, 4, .rw, 0, 0, 15⟩
def Field.IMG_SRC_LO : Field := ⟨34, .IMG_SRC_LO, 0, 32, .rw, 0, 0, 0xffffffff⟩
def Field.IMG_SRC_HI : Field := ⟨35, .IMG_SRC_HI, 0, 32, .rw, 0, 0, 0xffffffff⟩
def Field.IMG_LEN : Field := ⟨36, .IMG_LEN, 0, 32, .rw, 0, 0, 0xffffffff⟩
def Field.IMG_TRIAL_TIME : Field := ⟨37, .IMG_TRIAL_TIME, 0, 32, .rw, 0x3c, 10, 3600⟩
def Field.IMG_SLOT_STATE_FROM_SLOT : Field := ⟨38, .IMG_SLOT_STATE, 20, 1, .ro, 0, 0, 1⟩
def Field.IMG_SLOT_STATE_STARTED : Field := ⟨39, .IMG_SLOT_STATE, 16, 2, .ro, 0, 0, 3⟩
def Field.IMG_SLOT_STATE_STATES : Field := ⟨40, .IMG_SLOT_STATE, 0, 16, .ro, 0, 0, 65535⟩
def Field.IMG_RUN_SERIAL : Field := ⟨41, .IMG_RUN_SERIAL, 0, 32, .ro, 0, 0, 0xffffffff⟩
def Field.IMG_OWNER_STATUS_KEY_SET : Field := ⟨42, .IMG_OWNER_STATUS, 0, 1, .ro, 0, 0, 1⟩
def Field.IMG_AMEND_COUNT : Field := ⟨43, .IMG_AMEND_COUNT, 0, 32, .ro, 0, 0, 0xffffffff⟩
def Field.IMG_RUN_DIGEST : Field := ⟨44, .IMG_RUN_DIGEST, 0, 32, .ro, 0, 0, 0xffffffff⟩
def Field.IMG_OWNER_HASH : Field := ⟨45, .IMG_OWNER_HASH, 0, 32, .ro, 0, 0, 0xffffffff⟩
def Field.IMG_RELOAD_DISCARD : Field := ⟨46, .IMG_RELOAD_DISCARD, 0, 32, .ro, 0, 0, 0xffffffff⟩
def Field.CLK_RST_CAUSE_WINTER_BEFORE : Field := ⟨47, .CLK_RST_CAUSE, 4, 1, .ro, 0, 0, 1⟩
def Field.CLK_RST_CAUSE_CAUSE : Field := ⟨48, .CLK_RST_CAUSE, 0, 4, .ro, 0, 0, 15⟩
def Field.CLK_RST_CMD_KEY : Field := ⟨49, .CLK_RST_CMD, 8, 8, .rw, 0, 0, 255⟩
def Field.CLK_RST_CMD_FULL : Field := ⟨50, .CLK_RST_CMD, 0, 1, .rw, 0, 0, 1⟩
def Field.CLK_BOOT_STATUS_PHASE : Field := ⟨51, .CLK_BOOT_STATUS, 20, 4, .ro, 0, 0, 15⟩
def Field.CLK_BOOT_STATUS_FW_SLOT : Field := ⟨52, .CLK_BOOT_STATUS, 16, 1, .ro, 0, 0, 1⟩
def Field.CLK_BOOT_STATUS_IMG_SOURCE : Field := ⟨53, .CLK_BOOT_STATUS, 10, 2, .ro, 0, 0, 3⟩
def Field.CLK_BOOT_STATUS_FW_SOURCE : Field := ⟨54, .CLK_BOOT_STATUS, 8, 2, .ro, 0, 0, 3⟩
def Field.CLK_BOOT_STATUS_STRAP : Field := ⟨55, .CLK_BOOT_STATUS, 0, 3, .ro, 0, 0, 7⟩
def Field.CLK_POWER_CYCLES : Field := ⟨56, .CLK_POWER_CYCLES, 0, 32, .ro, 0, 0, 0xffffffff⟩
def Field.CLK_BOOT_FW_LO : Field := ⟨57, .CLK_BOOT_FW_LO, 0, 32, .rw, 0, 0, 0xffffffff⟩
def Field.CLK_BOOT_FW_HI : Field := ⟨58, .CLK_BOOT_FW_HI, 0, 32, .rw, 0, 0, 0xffffffff⟩
def Field.CLK_BOOT_FW_LEN : Field := ⟨59, .CLK_BOOT_FW_LEN, 0, 32, .rw, 0, 0, 0xffffffff⟩
def Field.CLK_BOOT_FW_CMD_GO : Field := ⟨60, .CLK_BOOT_FW_CMD, 31, 1, .w1s, 0, 0, 1⟩
def Field.CLK_BOOT_FW_CMD_BUSY : Field := ⟨61, .CLK_BOOT_FW_CMD, 30, 1, .ro, 0, 0, 1⟩
def Field.CLK_BOOT_FW_CMD_ERR : Field := ⟨62, .CLK_BOOT_FW_CMD, 29, 1, .ro, 0, 0, 1⟩
def Field.CLK_BOOT_FW_CMD_REASON : Field := ⟨63, .CLK_BOOT_FW_CMD, 0, 8, .ro, 0, 0, 255⟩
def Field.CLK_BOOT_TIME : Field := ⟨64, .CLK_BOOT_TIME, 0, 32, .ro, 0, 0, 0xffffffff⟩
def Field.CLK_SPRING_DISCARD : Field := ⟨65, .CLK_SPRING_DISCARD, 0, 32, .ro, 0, 0, 0xffffffff⟩
def Field.MAC_STATUS_STORM : Field := ⟨66, .MAC_STATUS, 16, 8, .ro, 0, 0, 255⟩
def Field.MAC_STATUS_PAUSED : Field := ⟨67, .MAC_STATUS, 8, 8, .ro, 0, 0, 255⟩
def Field.MAC_STATUS_TX_LPI : Field := ⟨68, .MAC_STATUS, 7, 1, .ro, 0, 0, 1⟩
def Field.MAC_STATUS_RX_LPI : Field := ⟨69, .MAC_STATUS, 6, 1, .ro, 0, 0, 1⟩
def Field.MAC_STATUS_FLAP_ISOLATED : Field := ⟨70, .MAC_STATUS, 5, 1, .ro, 0, 0, 1⟩
def Field.MAC_STATUS_REMOTE_FAULT : Field := ⟨71, .MAC_STATUS, 4, 1, .ro, 0, 0, 1⟩
def Field.MAC_STATUS_LOCAL_FAULT : Field := ⟨72, .MAC_STATUS, 3, 1, .ro, 0, 0, 1⟩
def Field.MAC_STATUS_AN_DONE : Field := ⟨73, .MAC_STATUS, 2, 1, .ro, 0, 0, 1⟩
def Field.MAC_STATUS_PCS_LOCK : Field := ⟨74, .MAC_STATUS, 1, 1, .ro, 0, 0, 1⟩
def Field.MAC_STATUS_LINK_UP : Field := ⟨75, .MAC_STATUS, 0, 1, .ro, 0, 0, 1⟩
def Field.MAC_PORT_INFO_ROLE : Field := ⟨76, .MAC_PORT_INFO, 10, 2, .ro, 0, 0, 3⟩
def Field.MAC_PORT_INFO_ISOLATED : Field := ⟨77, .MAC_PORT_INFO, 9, 1, .ro, 0, 0, 1⟩
def Field.MAC_PORT_INFO_FEC_ACTIVE : Field := ⟨78, .MAC_PORT_INFO, 6, 2, .ro, 0, 0, 3⟩
def Field.MAC_PORT_INFO_LANES : Field := ⟨79, .MAC_PORT_INFO, 3, 3, .ro, 0, 0, 7⟩
def Field.MAC_PORT_INFO_MODE : Field := ⟨80, .MAC_PORT_INFO, 0, 3, .ro, 0, 0, 7⟩
def Field.MAC_CTRL_CLR_STATS : Field := ⟨81, .MAC_CTRL, 15, 1, .w1s, 0, 0, 1⟩
def Field.MAC_CTRL_BCAST_DROP : Field := ⟨82, .MAC_CTRL, 9, 1, .rw, 0, 0, 1⟩
def Field.MAC_CTRL_FILTER_EN : Field := ⟨83, .MAC_CTRL, 8, 1, .rw, 1, 0, 1⟩
def Field.MAC_CTRL_PAUSE_MODE : Field := ⟨84, .MAC_CTRL, 4, 2, .rw, 0, 0, 2⟩
def Field.MAC_CTRL_TX_PAUSE_EN : Field := ⟨85, .MAC_CTRL, 3, 1, .rw, 0, 0, 1⟩
def Field.MAC_CTRL_RX_PAUSE_EN : Field := ⟨86, .MAC_CTRL, 2, 1, .rw, 0, 0, 1⟩
def Field.MAC_CTRL_EEE_EN : Field := ⟨87, .MAC_CTRL, 1, 1, .rw, 0, 0, 1⟩
def Field.MAC_CTRL_PORT_EN : Field := ⟨88, .MAC_CTRL, 0, 1, .rw, 0, 0, 1⟩
def Field.MAC_MAX_FRAME : Field := ⟨89, .MAC_MAX_FRAME, 0, 15, .rw, 0x5f2, 64, 16384⟩
def Field.MAC_LINK_CTRL_UP_DELAY : Field := ⟨90, .MAC_LINK_CTRL, 0, 16, .rw, 1, 0, 1000⟩
def Field.MAC_FLAP_CTRL_HOLDOFF : Field := ⟨91, .MAC_FLAP_CTRL, 16, 16, .rw, 0xa, 1, 3600⟩
def Field.MAC_FLAP_CTRL_LIMIT : Field := ⟨92, .MAC_FLAP_CTRL, 0, 8, .rw, 0x14, 0, 255⟩
def Field.MAC_PAUSE_TIMERS_RECOVERY : Field := ⟨93, .MAC_PAUSE_TIMERS, 16, 16, .rw, 0x3e8, 100, 60000⟩
def Field.MAC_PAUSE_TIMERS_WATCHDOG : Field := ⟨94, .MAC_PAUSE_TIMERS, 0, 16, .rw, 0xc8, 10, 10000⟩
def Field.MAC_PFC_TX_REFRESH : Field := ⟨95, .MAC_PFC_TX, 16, 16, .rw, 0x8000, 0, 65535⟩
def Field.MAC_PFC_TX_QUANTA : Field := ⟨96, .MAC_PFC_TX, 0, 16, .rw, 0xffff, 0, 65535⟩
def Field.MAC_CLASS_MAP_PFC_MAP : Field := ⟨97, .MAC_CLASS_MAP, 0, 24, .rw, 0xfac688, 0, 0xffffff⟩
def Field.MAC_TXQ_MAP_CTRL_TC : Field := ⟨98, .MAC_TXQ_MAP, 16, 3, .rw, 7, 0, 7⟩
def Field.MAC_TXQ_MAP_QMAP : Field := ⟨99, .MAC_TXQ_MAP, 0, 16, .rw, 0xa540, 0, 65535⟩
def Field.MAC_EEE_CTRL_PTP_GUARD : Field := ⟨100, .MAC_EEE_CTRL, 16, 8, .rw, 2, 0, 255⟩
def Field.MAC_EEE_CTRL_IDLE : Field := ⟨101, .MAC_EEE_CTRL, 0, 16, .rw, 0xa, 1, 65535⟩
def Field.MAC_EEE_STATUS_TW_SYS_TX : Field := ⟨102, .MAC_EEE_STATUS, 16, 16, .ro, 0, 0, 65535⟩
def Field.MAC_EEE_STATUS_NEGOTIATED : Field := ⟨103, .MAC_EEE_STATUS, 2, 1, .ro, 0, 0, 1⟩
def Field.MAC_EEE_STATUS_CAPABLE : Field := ⟨104, .MAC_EEE_STATUS, 1, 1, .ro, 0, 0, 1⟩
def Field.MAC_EEE_STATUS_BLOCKED : Field := ⟨105, .MAC_EEE_STATUS, 0, 1, .ro, 0, 0, 1⟩
def Field.MAC_SA_LO : Field := ⟨106, .MAC_SA_LO, 0, 32, .rw, 0, 0, 0xffffffff⟩
def Field.MAC_SA_HI : Field := ⟨107, .MAC_SA_HI, 0, 16, .rw, 0, 0, 65535⟩
def Field.MAC_MCAST_FILTER : Field := ⟨108, .MAC_MCAST_FILTER, 0, 32, .rw, 0xffffffff, 0, 0xffffffff⟩
def Field.MAC_STAT_HALF : Field := ⟨109, .MAC_STAT_HALF, 0, 32, .ro, 0, 0, 0xffffffff⟩
def Field.MAC_STAT_INT_EN : Field := ⟨110, .MAC_STAT_INT_EN, 0, 32, .rw, 0xffffffff, 0, 0xffffffff⟩
def Field.LANE_STATUS_ISOLATED : Field := ⟨111, .LANE_STATUS, 9, 1, .ro, 0, 0, 1⟩
def Field.LANE_STATUS_ELIGIBLE : Field := ⟨112, .LANE_STATUS, 8, 1, .ro, 0, 0, 1⟩
def Field.LANE_STATUS_RX_LPI : Field := ⟨113, .LANE_STATUS, 7, 1, .ro, 0, 0, 1⟩
def Field.LANE_STATUS_SIGNAL : Field := ⟨114, .LANE_STATUS, 6, 1, .ro, 0, 0, 1⟩
def Field.LANE_STATUS_CDR_LOCK : Field := ⟨115, .LANE_STATUS, 5, 1, .ro, 0, 0, 1⟩
def Field.LANE_STATUS_TAPPED : Field := ⟨116, .LANE_STATUS, 4, 1, .ro, 0, 0, 1⟩
def Field.LANE_STATUS_PERMANENT : Field := ⟨117, .LANE_STATUS, 3, 1, .ro, 0, 0, 1⟩
def Field.LANE_STATUS_SLICE : Field := ⟨118, .LANE_STATUS, 0, 3, .ro, 0, 0, 7⟩
def Field.LANE_CTRL_CLR_CNT : Field := ⟨119, .LANE_CTRL, 1, 1, .w1s, 0, 0, 1⟩
def Field.LANE_CTRL_ROTATE_EN : Field := ⟨120, .LANE_CTRL, 0, 1, .rw, 1, 0, 1⟩
def Field.LANE_LAT_OFFSET : Field := ⟨121, .LANE_LAT_OFFSET, 0, 16, .ro, 0, 0, 65535⟩
def Field.LANE_CAL_TEMP : Field := ⟨122, .LANE_CAL_TEMP, 0, 16, .ro, 0, 0, 65535⟩
def Field.LANE_CAL_AGE : Field := ⟨123, .LANE_CAL_AGE, 0, 32, .ro, 0, 0, 0xffffffff⟩
def Field.LANE_VERIFY_SYMBOLS_LOG2 : Field := ⟨124, .LANE_VERIFY_SYMBOLS, 0, 6, .rw, 0x20, 24, 36⟩
def Field.LANE_VERIFY_LIMIT : Field := ⟨125, .LANE_VERIFY_LIMIT, 0, 32, .rw, 0x100000, 1, 0x80000000⟩
def Field.LANE_TX_FACTORY_PRE3 : Field := ⟨126, .LANE_TX_FACTORY, 24, 6, .ro, 0, 0, 63⟩
def Field.LANE_TX_FACTORY_PRE2 : Field := ⟨127, .LANE_TX_FACTORY, 18, 6, .ro, 0, 0, 63⟩
def Field.LANE_TX_FACTORY_PRE1 : Field := ⟨128, .LANE_TX_FACTORY, 12, 6, .ro, 0, 0, 63⟩
def Field.LANE_TX_FACTORY_MAIN : Field := ⟨129, .LANE_TX_FACTORY, 6, 6, .ro, 0, 0, 63⟩
def Field.LANE_TX_FACTORY_POST1 : Field := ⟨130, .LANE_TX_FACTORY, 0, 6, .ro, 0, 0, 63⟩
def Field.LANE_TX_EFF_PRE3 : Field := ⟨131, .LANE_TX_EFF, 24, 6, .ro, 0, 0, 63⟩
def Field.LANE_TX_EFF_PRE2 : Field := ⟨132, .LANE_TX_EFF, 18, 6, .ro, 0, 0, 63⟩
def Field.LANE_TX_EFF_PRE1 : Field := ⟨133, .LANE_TX_EFF, 12, 6, .ro, 0, 0, 63⟩
def Field.LANE_TX_EFF_MAIN : Field := ⟨134, .LANE_TX_EFF, 6, 6, .ro, 0, 0, 63⟩
def Field.LANE_TX_EFF_POST1 : Field := ⟨135, .LANE_TX_EFF, 0, 6, .ro, 0, 0, 63⟩
def Field.LANE_RX_EQ_CTLE : Field := ⟨136, .LANE_RX_EQ, 24, 8, .ro, 0, 0, 255⟩
def Field.LANE_RX_EQ_DFE1 : Field := ⟨137, .LANE_RX_EQ, 16, 8, .ro, 0, 0, 255⟩
def Field.LANE_RX_EQ_DFE2 : Field := ⟨138, .LANE_RX_EQ, 8, 8, .ro, 0, 0, 255⟩
def Field.LANE_SWAPS : Field := ⟨139, .LANE_SWAPS, 0, 32, .ro, 0, 0, 0xffffffff⟩
def Field.LANE_ABANDONED : Field := ⟨140, .LANE_ABANDONED, 0, 32, .ro, 0, 0, 0xffffffff⟩
def Field.LANE_UNDECIDED : Field := ⟨141, .LANE_UNDECIDED, 0, 32, .ro, 0, 0, 0xffffffff⟩
def Field.LANE_LAST_MISMATCH : Field := ⟨142, .LANE_LAST_MISMATCH, 0, 32, .ro, 0, 0, 0xffffffff⟩
def Field.SHADOW_STATUS_ADVANCED : Field := ⟨143, .SHADOW_STATUS, 10, 1, .ro, 0, 0, 1⟩
def Field.SHADOW_STATUS_RETRY : Field := ⟨144, .SHADOW_STATUS, 9, 1, .ro, 0, 0, 1⟩
def Field.SHADOW_STATUS_SPARE_USED : Field := ⟨145, .SHADOW_STATUS, 8, 1, .ro, 0, 0, 1⟩
def Field.SHADOW_STATUS_SLICE : Field := ⟨146, .SHADOW_STATUS, 5, 3, .ro, 4, 0, 7⟩
def Field.SHADOW_STATUS_TARGET : Field := ⟨147, .SHADOW_STATUS, 3, 2, .ro, 0, 0, 3⟩
def Field.SHADOW_STATUS_PHASE : Field := ⟨148, .SHADOW_STATUS, 0, 3, .ro, 0, 0, 7⟩
def Field.SHADOW_CTRL_TURN_NOW : Field := ⟨149, .SHADOW_CTRL, 2, 1, .w1s, 0, 0, 1⟩
def Field.SHADOW_CTRL_CLR_CNT : Field := ⟨150, .SHADOW_CTRL, 1, 1, .w1s, 0, 0, 1⟩
def Field.SHADOW_CTRL_ROTATE_EN : Field := ⟨151, .SHADOW_CTRL, 0, 1, .rw, 1, 0, 1⟩
def Field.SHADOW_INTERVAL : Field := ⟨152, .SHADOW_INTERVAL, 0, 32, .rw, 0x7d0, 500, 60000⟩
def Field.SHADOW_TEMP_DELTA : Field := ⟨153, .SHADOW_TEMP_DELTA, 0, 8, .rw, 5, 1, 30⟩
def Field.SHADOW_ADAPT_MAX : Field := ⟨154, .SHADOW_ADAPT_MAX, 0, 32, .rw, 0xfa, 10, 1000⟩
def Field.SHADOW_TURNS : Field := ⟨155, .SHADOW_TURNS, 0, 32, .ro, 0, 0, 0xffffffff⟩
def Field.SHADOW_FAILS : Field := ⟨156, .SHADOW_FAILS, 0, 32, .ro, 0, 0, 0xffffffff⟩
def Field.SHADOW_RETIRED_CAUSE : Field := ⟨157, .SHADOW_RETIRED, 8, 2, .ro, 0, 0, 3⟩
def Field.SHADOW_RETIRED_LANE : Field := ⟨158, .SHADOW_RETIRED, 4, 2, .ro, 0, 0, 3⟩
def Field.SHADOW_RETIRED_SLICE : Field := ⟨159, .SHADOW_RETIRED, 0, 3, .ro, 0, 0, 7⟩
def Field.PRS_STATUS_NODES : Field := ⟨160, .PRS_STATUS, 8, 7, .ro, 0, 0, 127⟩
def Field.PRS_STATUS_REWRITING : Field := ⟨161, .PRS_STATUS, 2, 1, .ro, 0, 0, 1⟩
def Field.PRS_STATUS_FAULT : Field := ⟨162, .PRS_STATUS, 1, 1, .ro, 0, 0, 1⟩
def Field.PRS_STATUS_READY : Field := ⟨163, .PRS_STATUS, 0, 1, .ro, 0, 0, 1⟩
def Field.PRS_CTRL_CLR_LAST : Field := ⟨164, .PRS_CTRL, 1, 1, .w1s, 0, 0, 1⟩
def Field.PRS_CTRL_CLR_CNT : Field := ⟨165, .PRS_CTRL, 0, 1, .w1s, 0, 0, 1⟩
def Field.PRS_LAST_ERR_REASON : Field := ⟨166, .PRS_LAST_ERR, 29, 3, .ro, 0, 0, 7⟩
def Field.PRS_LAST_ERR_PASS : Field := ⟨167, .PRS_LAST_ERR, 26, 1, .ro, 0, 0, 1⟩
def Field.PRS_LAST_ERR_NODE : Field := ⟨168, .PRS_LAST_ERR, 20, 6, .ro, 0, 0, 63⟩
def Field.PRS_LAST_ERR_HDR_INDEX : Field := ⟨169, .PRS_LAST_ERR, 16, 4, .ro, 0, 0, 15⟩
def Field.PRS_LAST_ERR_PORT : Field := ⟨170, .PRS_LAST_ERR, 0, 6, .ro, 0, 0, 63⟩
def Field.PRS_LAST_ERR_AT_FRAME_LEN : Field := ⟨171, .PRS_LAST_ERR_AT, 16, 15, .ro, 0, 0, 32767⟩
def Field.PRS_LAST_ERR_AT_OFFSET : Field := ⟨172, .PRS_LAST_ERR_AT, 0, 10, .ro, 0, 0, 1023⟩
def Field.PRS_PORT_CFG_DEFAULT_ACTION : Field := ⟨173, .PRS_PORT_CFG, 0, 2, .rw, 0, 0, 3⟩
def Field.TBL_STATUS_ENGINE_SPARE_USED : Field := ⟨174, .TBL_STATUS, 3, 1, .ro, 0, 0, 1⟩
def Field.TBL_STATUS_AGEING : Field := ⟨175, .TBL_STATUS, 2, 1, .ro, 0, 0, 1⟩
def Field.TBL_STATUS_LEARN_BACKLOG : Field := ⟨176, .TBL_STATUS, 1, 1, .ro, 0, 0, 1⟩
def Field.TBL_STATUS_READY : Field := ⟨177, .TBL_STATUS, 0, 1, .ro, 0, 0, 1⟩
def Field.TBL_CTRL_CLR_LAST : Field := ⟨178, .TBL_CTRL, 1, 1, .w1s, 0, 0, 1⟩
def Field.TBL_CTRL_CLR_CNT : Field := ⟨179, .TBL_CTRL, 0, 1, .w1s, 0, 0, 1⟩
def Field.TBL_AGE_TIME : Field := ⟨180, .TBL_AGE_TIME, 0, 32, .rw, 0x12c, 1, 0xf4240⟩
def Field.TBL_L2_COUNT : Field := ⟨181, .TBL_L2_COUNT, 0, 32, .ro, 0, 0, 0xffffffff⟩
def Field.TBL_L2_CAPACITY : Field := ⟨182, .TBL_L2_CAPACITY, 0, 32, .ro, 0, 0, 0xffffffff⟩
def Field.TBL_LPM4_COUNT : Field := ⟨183, .TBL_LPM4_COUNT, 0, 32, .ro, 0, 0, 0xffffffff⟩
def Field.TBL_LPM6_COUNT : Field := ⟨184, .TBL_LPM6_COUNT, 0, 32, .ro, 0, 0, 0xffffffff⟩
def Field.TBL_LPM4_USED : Field := ⟨185, .TBL_LPM4_USED, 0, 32, .ro, 0, 0, 0xffffffff⟩
def Field.TBL_LPM6_USED : Field := ⟨186, .TBL_LPM6_USED, 0, 32, .ro, 0, 0, 0xffffffff⟩
def Field.TBL_LAST_PARITY_TABLE : Field := ⟨187, .TBL_LAST_PARITY, 29, 3, .ro, 0, 0, 7⟩
def Field.TBL_LAST_PARITY_REGION : Field := ⟨188, .TBL_LAST_PARITY, 27, 2, .ro, 0, 0, 3⟩
def Field.TBL_LAST_PARITY_WORD : Field := ⟨189, .TBL_LAST_PARITY, 0, 27, .ro, 0, 0, 0x7ffffff⟩
def Field.TBL_SPARES_USED : Field := ⟨190, .TBL_SPARES_USED, 0, 32, .ro, 0, 0, 0xffffffff⟩
def Field.TBL_HASH_SEED : Field := ⟨191, .TBL_HASH_SEED, 0, 32, .ro, 0, 0, 0xffffffff⟩
def Field.TBL_RING_BASE_LO : Field := ⟨192, .TBL_RING_BASE_LO, 6, 26, .rw, 0, 0, 0x3ffffff⟩
def Field.TBL_RING_BASE_LO_ALIGN : Field := ⟨193, .TBL_RING_BASE_LO, 0, 6, .ro, 0, 0, 63⟩
def Field.TBL_RING_BASE_HI : Field := ⟨194, .TBL_RING_BASE_HI, 0, 32, .rw, 0, 0, 0xffffffff⟩
def Field.TBL_RING_SIZE : Field := ⟨195, .TBL_RING_SIZE, 0, 32, .rw, 0x10, 16, 65536⟩
def Field.TBL_RING_TAIL : Field := ⟨196, .TBL_RING_TAIL, 0, 32, .rw, 0, 0, 0xffffffff⟩
def Field.TBL_RING_HEAD : Field := ⟨197, .TBL_RING_HEAD, 0, 32, .ro, 0, 0, 0xffffffff⟩
def Field.TBL_RING_STATUS_HALTED : Field := ⟨198, .TBL_RING_STATUS, 31, 1, .ro, 0, 0, 1⟩
def Field.TBL_RING_STATUS_ENABLED : Field := ⟨199, .TBL_RING_STATUS, 30, 1, .ro, 0, 0, 1⟩
def Field.TBL_RING_STATUS_HALT_INDEX : Field := ⟨200, .TBL_RING_STATUS, 0, 16, .ro, 0, 0, 65535⟩
def Field.TBL_RING_CTRL_RESTART : Field := ⟨201, .TBL_RING_CTRL, 1, 1, .w1s, 0, 0, 1⟩
def Field.TBL_RING_CTRL_ENABLE : Field := ⟨202, .TBL_RING_CTRL, 0, 1, .rw, 0, 0, 1⟩
def Field.TBL_HOST_PROFILE : Field := ⟨203, .TBL_HOST_PROFILE, 0, 6, .rw, 0, 0, 63⟩
def Field.TBL_PORT_CFG_KEY_PROFILE : Field := ⟨204, .TBL_PORT_CFG, 18, 6, .rw, 0, 0, 63⟩
def Field.TBL_PORT_CFG_PVID : Field := ⟨205, .TBL_PORT_CFG, 4, 12, .rw, 1, 0, 4095⟩
def Field.TBL_PORT_CFG_LOCKED : Field := ⟨206, .TBL_PORT_CFG, 1, 1, .rw, 0, 0, 1⟩
def Field.TBL_PORT_CFG_LEARN_EN : Field := ⟨207, .TBL_PORT_CFG, 0, 1, .rw, 1, 0, 1⟩
def Field.TBL_PORT_LEARN_LIMIT : Field := ⟨208, .TBL_PORT_LEARN_LIMIT, 0, 26, .rw, 0x100000, 1, 0x2000000⟩
def Field.TCM_STATUS_HARD_FAULT : Field := ⟨209, .TCM_STATUS, 2, 1, .ro, 0, 0, 1⟩
def Field.TCM_STATUS_MOVING : Field := ⟨210, .TCM_STATUS, 1, 1, .ro, 0, 0, 1⟩
def Field.TCM_STATUS_READY : Field := ⟨211, .TCM_STATUS, 0, 1, .ro, 0, 0, 1⟩
def Field.TCM_CTRL_CLR_LOST : Field := ⟨212, .TCM_CTRL, 1, 1, .w1s, 0, 0, 1⟩
def Field.TCM_CTRL_CLR_CNT : Field := ⟨213, .TCM_CTRL, 0, 1, .w1s, 0, 0, 1⟩
def Field.TCM_SCAN_LAST : Field := ⟨214, .TCM_SCAN_LAST, 0, 32, .ro, 0, 0, 0xffffffff⟩
def Field.TCM_LAST_FAULT_KIND : Field := ⟨215, .TCM_LAST_FAULT, 30, 2, .ro, 0, 0, 3⟩
def Field.TCM_LAST_FAULT_ADDR : Field := ⟨216, .TCM_LAST_FAULT, 0, 16, .ro, 0, 0, 65535⟩
def Field.TCM_MOVE_STATUS_ACTIVE : Field := ⟨217, .TCM_MOVE_STATUS, 31, 1, .ro, 0, 0, 1⟩
def Field.TCM_MOVE_STATUS_PARTITION : Field := ⟨218, .TCM_MOVE_STATUS, 24, 6, .ro, 0, 0, 63⟩
def Field.TCM_MOVE_STATUS_STEPS : Field := ⟨219, .TCM_MOVE_STATUS, 0, 16, .ro, 0, 0, 65535⟩
def Field.TCM_BANK_FAULT_LO : Field := ⟨220, .TCM_BANK_FAULT_LO, 0, 32, .ro, 0, 0, 0xffffffff⟩
def Field.TCM_BANK_FAULT_HI : Field := ⟨221, .TCM_BANK_FAULT_HI, 0, 32, .ro, 0, 0, 0xffffffff⟩
def Field.TCM_PART_INFO_DEFINED : Field := ⟨222, .TCM_PART_INFO, 31, 1, .ro, 0, 0, 1⟩
def Field.TCM_PART_INFO_LOST : Field := ⟨223, .TCM_PART_INFO, 30, 1, .ro, 0, 0, 1⟩
def Field.TCM_PART_INFO_REGION_MASK : Field := ⟨224, .TCM_PART_INFO, 22, 4, .ro, 0, 0, 15⟩
def Field.TCM_PART_INFO_MODE : Field := ⟨225, .TCM_PART_INFO, 21, 1, .ro, 0, 0, 1⟩
def Field.TCM_PART_INFO_WIDTH : Field := ⟨226, .TCM_PART_INFO, 20, 1, .ro, 0, 0, 1⟩
def Field.TCM_PART_INFO_BANKS : Field := ⟨227, .TCM_PART_INFO, 13, 7, .ro, 0, 0, 127⟩
def Field.TCM_PART_INFO_FIRST_BANK : Field := ⟨228, .TCM_PART_INFO, 0, 6, .ro, 0, 0, 63⟩
def Field.TCM_PART_USED : Field := ⟨229, .TCM_PART_USED, 0, 32, .ro, 0, 0, 0xffffffff⟩
def Field.TCM_RING_BASE_LO : Field := ⟨230, .TCM_RING_BASE_LO, 6, 26, .rw, 0, 0, 0x3ffffff⟩
def Field.TCM_RING_BASE_LO_ALIGN : Field := ⟨231, .TCM_RING_BASE_LO, 0, 6, .ro, 0, 0, 63⟩
def Field.TCM_RING_BASE_HI : Field := ⟨232, .TCM_RING_BASE_HI, 0, 32, .rw, 0, 0, 0xffffffff⟩
def Field.TCM_RING_SIZE : Field := ⟨233, .TCM_RING_SIZE, 0, 32, .rw, 0x10, 16, 65536⟩
def Field.TCM_RING_TAIL : Field := ⟨234, .TCM_RING_TAIL, 0, 32, .rw, 0, 0, 0xffffffff⟩
def Field.TCM_RING_HEAD : Field := ⟨235, .TCM_RING_HEAD, 0, 32, .ro, 0, 0, 0xffffffff⟩
def Field.TCM_RING_STATUS_HALTED : Field := ⟨236, .TCM_RING_STATUS, 31, 1, .ro, 0, 0, 1⟩
def Field.TCM_RING_STATUS_ENABLED : Field := ⟨237, .TCM_RING_STATUS, 30, 1, .ro, 0, 0, 1⟩
def Field.TCM_RING_STATUS_HALT_INDEX : Field := ⟨238, .TCM_RING_STATUS, 0, 16, .ro, 0, 0, 65535⟩
def Field.TCM_RING_CTRL_RESTART : Field := ⟨239, .TCM_RING_CTRL, 1, 1, .w1s, 0, 0, 1⟩
def Field.TCM_RING_CTRL_ENABLE : Field := ⟨240, .TCM_RING_CTRL, 0, 1, .rw, 0, 0, 1⟩
def Field.AUT_STATUS_QUEUE : Field := ⟨241, .AUT_STATUS, 16, 9, .ro, 0, 0, 511⟩
def Field.AUT_STATUS_SPARE_FOR : Field := ⟨242, .AUT_STATUS, 8, 4, .ro, 0xf, 0, 15⟩
def Field.AUT_STATUS_FAULT : Field := ⟨243, .AUT_STATUS, 2, 1, .ro, 0, 0, 1⟩
def Field.AUT_STATUS_SPARE_USED : Field := ⟨244, .AUT_STATUS, 1, 1, .ro, 0, 0, 1⟩
def Field.AUT_STATUS_READY : Field := ⟨245, .AUT_STATUS, 0, 1, .ro, 0, 0, 1⟩
def Field.AUT_CTRL_CLR_CNT : Field := ⟨246, .AUT_CTRL, 0, 1, .w1s, 0, 0, 1⟩
def Field.AUT_QUEUE_LIMIT : Field := ⟨247, .AUT_QUEUE_LIMIT, 0, 9, .rw, 0x100, 16, 256⟩
def Field.AUT_LAST_FAULT_KIND : Field := ⟨248, .AUT_LAST_FAULT, 30, 2, .ro, 0, 0, 3⟩
def Field.AUT_LAST_FAULT_ENGINE : Field := ⟨249, .AUT_LAST_FAULT, 24, 4, .ro, 0, 0, 15⟩
def Field.AUT_LAST_FAULT_WORD : Field := ⟨250, .AUT_LAST_FAULT, 0, 21, .ro, 0, 0, 0x1fffff⟩
def Field.AUT_FLOW_TYPES_TCP : Field := ⟨251, .AUT_FLOW_TYPES, 16, 8, .rw, 0xff, 0, 255⟩
def Field.AUT_FLOW_TYPES_IP6 : Field := ⟨252, .AUT_FLOW_TYPES, 8, 8, .rw, 0xff, 0, 255⟩
def Field.AUT_FLOW_TYPES_IP4 : Field := ⟨253, .AUT_FLOW_TYPES, 0, 8, .rw, 0xff, 0, 255⟩
def Field.AUT_FLOW_IDLE : Field := ⟨254, .AUT_FLOW_IDLE, 0, 32, .rw, 0x3c, 1, 3600⟩
def Field.AUT_FLOW_COUNT : Field := ⟨255, .AUT_FLOW_COUNT, 0, 32, .ro, 0, 0, 0xffffffff⟩
def Field.ACT_CTRL_TTL_ACTION : Field := ⟨256, .ACT_CTRL, 1, 1, .rw, 0, 0, 1⟩
def Field.ACT_CTRL_CLR_CNT : Field := ⟨257, .ACT_CTRL, 0, 1, .w1s, 0, 0, 1⟩
def Field.ACT_TPID : Field := ⟨258, .ACT_TPID, 0, 16, .rw, 0x8100, 0, 65535⟩
def Field.ACT_ROUTER_MAC_LO : Field := ⟨259, .ACT_ROUTER_MAC_LO, 0, 32, .rw, 0, 0, 0xffffffff⟩
def Field.ACT_ROUTER_MAC_HI : Field := ⟨260, .ACT_ROUTER_MAC_HI, 0, 16, .rw, 0, 0, 65535⟩
def Field.ACT_CAP_CTRL_HOST_STOPPED : Field := ⟨261, .ACT_CAP_CTRL, 2, 1, .w1c, 0, 0, 1⟩
def Field.ACT_CAP_CTRL_TARGET : Field := ⟨262, .ACT_CAP_CTRL, 1, 1, .rw, 0, 0, 1⟩
def Field.ACT_CAP_CTRL_ENABLE : Field := ⟨263, .ACT_CAP_CTRL, 0, 1, .rw, 0, 0, 1⟩
def Field.ACT_CAP_RATE : Field := ⟨264, .ACT_CAP_RATE, 0, 32, .rw, 0x5f5e100, 1, 0x5f5e100⟩
def Field.ACT_CAP_HOST_LO : Field := ⟨265, .ACT_CAP_HOST_LO, 12, 20, .rw, 0, 0, 0xfffff⟩
def Field.ACT_CAP_HOST_LO_ALIGN : Field := ⟨266, .ACT_CAP_HOST_LO, 0, 12, .ro, 0, 0, 4095⟩
def Field.ACT_CAP_HOST_HI : Field := ⟨267, .ACT_CAP_HOST_HI, 0, 32, .rw, 0, 0, 0xffffffff⟩
def Field.ACT_CAP_HOST_LOG2 : Field := ⟨268, .ACT_CAP_HOST_LOG2, 0, 5, .rw, 0x10, 10, 26⟩
def Field.ACT_CAP_RECORDS : Field := ⟨269, .ACT_CAP_RECORDS, 0, 32, .ro, 0, 0, 0xffffffff⟩
def Field.ACT_CAP_HEAD_LO : Field := ⟨270, .ACT_CAP_HEAD_LO, 0, 32, .ro, 0, 0, 0xffffffff⟩
def Field.ACT_CAP_HEAD_HI : Field := ⟨271, .ACT_CAP_HEAD_HI, 0, 32, .ro, 0, 0, 0xffffffff⟩
def Field.ACT_CAP_WRAPS : Field := ⟨272, .ACT_CAP_WRAPS, 0, 32, .ro, 0, 0, 0xffffffff⟩
def Field.ACT_NH_CAPACITY : Field := ⟨273, .ACT_NH_CAPACITY, 0, 32, .ro, 0, 0, 0xffffffff⟩
def Field.ACT_DSCP_COLOUR : Field := ⟨274, .ACT_DSCP_COLOUR, 0, 32, .rw, 0, 0, 0xffffffff⟩
def Field.MTR_STATUS_READY : Field := ⟨275, .MTR_STATUS, 4, 1, .ro, 0, 0, 1⟩
def Field.MTR_STATUS_BANK_FAULT : Field := ⟨276, .MTR_STATUS, 0, 4, .ro, 0, 0, 15⟩
def Field.MTR_CTRL_CLR_CNT : Field := ⟨277, .MTR_CTRL, 0, 1, .w1s, 0, 0, 1⟩
def Field.MTR_LAST_FAULT_KIND : Field := ⟨278, .MTR_LAST_FAULT, 30, 2, .ro, 0, 0, 3⟩
def Field.MTR_LAST_FAULT_METER : Field := ⟨279, .MTR_LAST_FAULT, 0, 14, .ro, 0, 0, 16383⟩
def Field.MIR_CFG_EN : Field := ⟨280, .MIR_CFG, 31, 1, .rw, 0, 0, 1⟩
def Field.MIR_CFG_TYPE : Field := ⟨281, .MIR_CFG, 28, 2, .rw, 0, 0, 2⟩
def Field.MIR_CFG_TC : Field := ⟨282, .MIR_CFG, 24, 3, .rw, 0, 0, 7⟩
def Field.MIR_CFG_SAMPLE_LOG2 : Field := ⟨283, .MIR_CFG, 16, 4, .rw, 0, 0, 15⟩
def Field.MIR_CFG_TRUNC : Field := ⟨284, .MIR_CFG, 0, 15, .rw, 0, 0, 16384⟩
def Field.MIR_DEST : Field := ⟨285, .MIR_DEST, 0, 16, .rw, 0, 0, 65535⟩
def Field.MIR_CTRL_CLR_CNT : Field := ⟨286, .MIR_CTRL, 0, 1, .w1s, 0, 0, 1⟩
def Field.BUF_STATUS_POOL_LOW : Field := ⟨287, .BUF_STATUS, 5, 1, .ro, 0, 0, 1⟩
def Field.BUF_STATUS_FROZEN : Field := ⟨288, .BUF_STATUS, 4, 1, .ro, 0, 0, 1⟩
def Field.BUF_STATUS_LINK_MEM_FAULT : Field := ⟨289, .BUF_STATUS, 3, 1, .ro, 0, 0, 1⟩
def Field.BUF_STATUS_SPARE_USED : Field := ⟨290, .BUF_STATUS, 2, 1, .ro, 0, 0, 1⟩
def Field.BUF_STATUS_CFG_REFUSED : Field := ⟨291, .BUF_STATUS, 1, 1, .w1c, 0, 0, 1⟩
def Field.BUF_STATUS_READY : Field := ⟨292, .BUF_STATUS, 0, 1, .ro, 0, 0, 1⟩
def Field.BUF_CTRL_CLR_PEAK : Field := ⟨293, .BUF_CTRL, 1, 1, .w1s, 0, 0, 1⟩
def Field.BUF_CTRL_CLR_CNT : Field := ⟨294, .BUF_CTRL, 0, 1, .w1s, 0, 0, 1⟩
def Field.BUF_FREE_CELLS : Field := ⟨295, .BUF_FREE_CELLS, 0, 32, .ro, 0, 0, 0xffffffff⟩
def Field.BUF_ARRIVAL_RESERVE : Field := ⟨296, .BUF_ARRIVAL_RESERVE, 0, 32, .rw, 0x4000, 4096, 65536⟩
def Field.BUF_SHARED_SIZE : Field := ⟨297, .BUF_SHARED_SIZE, 0, 32, .ro, 0, 0, 0xffffffff⟩
def Field.BUF_SHARED_USED : Field := ⟨298, .BUF_SHARED_USED, 0, 32, .ro, 0, 0, 0xffffffff⟩
def Field.BUF_DESC_FREE : Field := ⟨299, .BUF_DESC_FREE, 0, 32, .ro, 0, 0, 0xffffffff⟩
def Field.BUF_LAST_ECC_KIND : Field := ⟨300, .BUF_LAST_ECC, 30, 2, .ro, 0, 0, 3⟩
def Field.BUF_LAST_ECC_MEMORY : Field := ⟨301, .BUF_LAST_ECC, 28, 2, .ro, 0, 0, 3⟩
def Field.BUF_LAST_ECC_BANK : Field := ⟨302, .BUF_LAST_ECC, 20, 6, .ro, 0, 0, 63⟩
def Field.BUF_LAST_ECC_WORD : Field := ⟨303, .BUF_LAST_ECC, 0, 16, .ro, 0, 0, 65535⟩
def Field.BUF_SPARES_USED : Field := ⟨304, .BUF_SPARES_USED, 0, 32, .ro, 0, 0, 0xffffffff⟩
def Field.BUF_RETIRED_CELLS : Field := ⟨305, .BUF_RETIRED_CELLS, 0, 32, .ro, 0, 0, 0xffffffff⟩
def Field.BUF_PEAK_USED : Field := ⟨306, .BUF_PEAK_USED, 0, 32, .ro, 0, 0, 0xffffffff⟩
def Field.QUE_PORT_STATUS_DOWN_HOLD : Field := ⟨307, .QUE_PORT_STATUS, 31, 1, .ro, 0, 0, 1⟩
def Field.QUE_PORT_STATUS_EXPIRED : Field := ⟨308, .QUE_PORT_STATUS, 30, 1, .ro, 0, 0, 1⟩
def Field.QUE_PORT_STATUS_PFC_XOFF : Field := ⟨309, .QUE_PORT_STATUS, 16, 8, .ro, 0, 0, 255⟩
def Field.QUE_PORT_STATUS_NONEMPTY : Field := ⟨310, .QUE_PORT_STATUS, 0, 10, .ro, 0, 0, 1023⟩
def Field.QUE_PORT_CFG_CLR_CNT : Field := ⟨311, .QUE_PORT_CFG, 16, 1, .w1s, 0, 0, 1⟩
def Field.QUE_PORT_CFG_MC_MAP : Field := ⟨312, .QUE_PORT_CFG, 8, 8, .rw, 0xf0, 0, 255⟩
def Field.QUE_PORT_CFG_MC_TC1 : Field := ⟨313, .QUE_PORT_CFG, 4, 3, .rw, 7, 0, 7⟩
def Field.QUE_PORT_CFG_MC_TC0 : Field := ⟨314, .QUE_PORT_CFG, 0, 3, .rw, 3, 0, 7⟩
def Field.QUE_PORT_SHAPER_BURST : Field := ⟨315, .QUE_PORT_SHAPER, 24, 8, .rw, 0x10, 1, 255⟩
def Field.QUE_PORT_SHAPER_RATE : Field := ⟨316, .QUE_PORT_SHAPER, 0, 24, .rw, 0, 0, 0x61a80⟩
def Field.QUE_FLAP_LEFT : Field := ⟨317, .QUE_FLAP_LEFT, 0, 32, .ro, 0, 0, 0xffffffff⟩
def Field.QUE_TC_CFG_ALPHA : Field := ⟨318, .QUE_TC_CFG, 16, 4, .rw, 8, 0, 15⟩
def Field.QUE_TC_CFG_MIN : Field := ⟨319, .QUE_TC_CFG, 0, 16, .rw, 0x20, 0, 65535⟩
def Field.QUE_TC_SHAPER_BURST : Field := ⟨320, .QUE_TC_SHAPER, 24, 8, .rw, 0x10, 1, 255⟩
def Field.QUE_TC_SHAPER_RATE : Field := ⟨321, .QUE_TC_SHAPER, 0, 24, .rw, 0, 0, 0x61a80⟩
def Field.QUE_TC_ECN_ECN_MAX : Field := ⟨322, .QUE_TC_ECN, 16, 16, .rw, 0, 0, 65535⟩
def Field.QUE_TC_ECN_ECN_MIN : Field := ⟨323, .QUE_TC_ECN, 0, 16, .rw, 0, 0, 65535⟩
def Field.QUE_TC_PFC_HEADROOM : Field := ⟨324, .QUE_TC_PFC, 16, 16, .rw, 0x200, 0, 65535⟩
def Field.QUE_TC_PFC_XOFF : Field := ⟨325, .QUE_TC_PFC, 0, 16, .rw, 0x400, 0, 65535⟩
def Field.QUE_DEPTH : Field := ⟨326, .QUE_DEPTH, 0, 32, .ro, 0, 0, 0xffffffff⟩
def Field.QUE_INGRESS_DEPTH : Field := ⟨327, .QUE_INGRESS_DEPTH, 0, 32, .ro, 0, 0, 0xffffffff⟩
def Field.HLD_STATUS_MOUNTED : Field := ⟨328, .HLD_STATUS, 31, 1, .ro, 0, 0, 1⟩
def Field.HLD_STATUS_OUT_OF_SERVICE : Field := ⟨329, .HLD_STATUS, 30, 1, .ro, 0, 0, 1⟩
def Field.HLD_STATUS_FROZEN : Field := ⟨330, .HLD_STATUS, 29, 1, .ro, 0, 0, 1⟩
def Field.HLD_STATUS_WEAR_MARGIN : Field := ⟨331, .HLD_STATUS, 28, 1, .ro, 0, 0, 1⟩
def Field.HLD_STATUS_META_LOST : Field := ⟨332, .HLD_STATUS, 27, 1, .w1c, 0, 0, 1⟩
def Field.HLD_STATUS_SWEEPING : Field := ⟨333, .HLD_STATUS, 26, 1, .ro, 0, 0, 1⟩
def Field.HLD_STATUS_SWAPPING : Field := ⟨334, .HLD_STATUS, 25, 1, .ro, 0, 0, 1⟩
def Field.HLD_STATUS_SCRUBBING : Field := ⟨335, .HLD_STATUS, 24, 1, .ro, 0, 0, 1⟩
def Field.HLD_STATUS_BASE_FAILED : Field := ⟨336, .HLD_STATUS, 3, 1, .ro, 0, 0, 1⟩
def Field.HLD_STATUS_FAILED_DIES : Field := ⟨337, .HLD_STATUS, 0, 2, .ro, 0, 0, 3⟩
def Field.HLD_CTRL_SWEEP : Field := ⟨338, .HLD_CTRL, 1, 1, .w1s, 0, 0, 1⟩
def Field.HLD_CTRL_CLR_CNT : Field := ⟨339, .HLD_CTRL, 0, 1, .w1s, 0, 0, 1⟩
def Field.HLD_FORMAT_BUSY : Field := ⟨340, .HLD_FORMAT, 31, 1, .ro, 0, 0, 1⟩
def Field.HLD_FORMAT_COLLISION : Field := ⟨341, .HLD_FORMAT, 30, 1, .w1c, 0, 0, 1⟩
def Field.HLD_FORMAT_REFUSED : Field := ⟨342, .HLD_FORMAT, 29, 1, .w1c, 0, 0, 1⟩
def Field.HLD_FORMAT_KEY : Field := ⟨343, .HLD_FORMAT, 16, 8, .rw, 0, 0, 255⟩
def Field.HLD_FORMAT_CAP_GIB : Field := ⟨344, .HLD_FORMAT, 0, 12, .pw, 0x40, 0, 4095⟩
def Field.HLD_FREE_PAGES : Field := ⟨345, .HLD_FREE_PAGES, 0, 32, .ro, 0, 0, 0xffffffff⟩
def Field.HLD_HELD_PAGES : Field := ⟨346, .HLD_HELD_PAGES, 0, 32, .ro, 0, 0, 0xffffffff⟩
def Field.HLD_HELD_FIRST : Field := ⟨347, .HLD_HELD_FIRST, 0, 32, .ro, 0x9900, 0, 0xffffffff⟩
def Field.HLD_CAP_PAGES : Field := ⟨348, .HLD_CAP_PAGES, 0, 32, .ro, 0, 0, 0xffffffff⟩
def Field.HLD_DRAIN_LOW : Field := ⟨349, .HLD_DRAIN_LOW, 0, 32, .rw, 0x400, 64, 65535⟩
def Field.HLD_SCRUB_HOURS : Field := ⟨350, .HLD_SCRUB_HOURS, 0, 32, .rw, 0x18, 1, 168⟩
def Field.HLD_GAP_INTERVAL : Field := ⟨351, .HLD_GAP_INTERVAL, 0, 32, .rw, 0x64, 16, 1024⟩
def Field.HLD_ZONE_SWAP_DELTA : Field := ⟨352, .HLD_ZONE_SWAP_DELTA, 0, 32, .rw, 0xf4240, 100000, 0x989680⟩
def Field.HLD_PF2_RATE : Field := ⟨353, .HLD_PF2_RATE, 0, 32, .rw, 0x190, 1, 1600⟩
def Field.HLD_WEAR_MAX : Field := ⟨354, .HLD_WEAR_MAX, 0, 32, .ro, 0, 0, 0xffffffff⟩
def Field.HLD_WEAR_MEAN : Field := ⟨355, .HLD_WEAR_MEAN, 0, 32, .ro, 0, 0, 0xffffffff⟩
def Field.HLD_LAST_FAULT_KIND : Field := ⟨356, .HLD_LAST_FAULT, 30, 2, .ro, 0, 0, 3⟩
def Field.HLD_LAST_FAULT_DIE : Field := ⟨357, .HLD_LAST_FAULT, 24, 5, .ro, 0, 0, 31⟩
def Field.HLD_LAST_STRIPE : Field := ⟨358, .HLD_LAST_STRIPE, 0, 32, .ro, 0, 0, 0xffffffff⟩
def Field.HLD_PF_TIME : Field := ⟨359, .HLD_PF_TIME, 0, 32, .ro, 0, 0, 0xffffffff⟩
def Field.HLD_RETRAIN_STATUS_ACTIVE : Field := ⟨360, .HLD_RETRAIN_STATUS, 31, 1, .ro, 0, 0, 1⟩
def Field.HLD_RETRAIN_STATUS_SUSPENDED : Field := ⟨361, .HLD_RETRAIN_STATUS, 30, 1, .ro, 0, 0, 1⟩
def Field.HLD_RETRAIN_STATUS_DIE : Field := ⟨362, .HLD_RETRAIN_STATUS, 24, 5, .ro, 0, 0, 31⟩
def Field.HLD_RETRAIN_STATUS_DEFERRED : Field := ⟨363, .HLD_RETRAIN_STATUS, 0, 13, .ro, 0, 0, 8191⟩
def Field.HLD_QSEL : Field := ⟨364, .HLD_QSEL, 0, 12, .rw, 0, 0, 3055⟩
def Field.HLD_QINFO0 : Field := ⟨365, .HLD_QINFO0, 0, 32, .ro, 0, 0, 0xffffffff⟩
def Field.HLD_QINFO1 : Field := ⟨366, .HLD_QINFO1, 0, 32, .ro, 0, 0, 0xffffffff⟩
def Field.HLD_QINFO2 : Field := ⟨367, .HLD_QINFO2, 0, 32, .ro, 0, 0, 0xffffffff⟩
def Field.HLD_QINFO3_ACTIVE : Field := ⟨368, .HLD_QINFO3, 31, 1, .ro, 0, 0, 1⟩
def Field.HLD_QINFO3_DRAINING : Field := ⟨369, .HLD_QINFO3, 30, 1, .ro, 0, 0, 1⟩
def Field.HLD_QINFO3_RESTORED : Field := ⟨370, .HLD_QINFO3, 29, 1, .ro, 0, 0, 1⟩
def Field.HLD_QINFO3_HEAD_CHAIN : Field := ⟨371, .HLD_QINFO3, 28, 1, .ro, 0, 0, 1⟩
def Field.HLD_QINFO3_PENDING : Field := ⟨372, .HLD_QINFO3, 0, 16, .ro, 0, 0, 65535⟩
def Field.HLD_POLICY_TC_DURABLE : Field := ⟨373, .HLD_POLICY_TC, 8, 1, .ro, 0, 0, 1⟩
def Field.HLD_POLICY_TC_HOLD_FULL_POLICY : Field := ⟨374, .HLD_POLICY_TC, 4, 1, .ro, 0, 0, 1⟩
def Field.HLD_POLICY_TC_HOLD_POLICY : Field := ⟨375, .HLD_POLICY_TC, 0, 2, .ro, 0, 0, 3⟩
def Field.HLD_SPILL_TC : Field := ⟨376, .HLD_SPILL_TC, 0, 32, .ro, 0, 0, 0xffffffff⟩
def Field.HLD_MAX_AGE_TC : Field := ⟨377, .HLD_MAX_AGE_TC, 0, 32, .ro, 0, 0, 0xffffffff⟩
def Field.HLD_DRAIN_RATE_TC : Field := ⟨378, .HLD_DRAIN_RATE_TC, 0, 32, .ro, 0, 0, 0xffffffff⟩
def Field.HLD_DIE_STATUS_STATE : Field := ⟨379, .HLD_DIE_STATUS, 30, 2, .ro, 0, 0, 3⟩
def Field.HLD_DIE_STATUS_RETRAIN_TEMP : Field := ⟨380, .HLD_DIE_STATUS, 16, 8, .ro, 0, 0, 255⟩
def Field.HLD_DIE_STATUS_INNER_UNCORR : Field := ⟨381, .HLD_DIE_STATUS, 0, 16, .ro, 0, 0, 65535⟩
def Field.HLD_WEAR : Field := ⟨382, .HLD_WEAR, 0, 32, .ro, 0, 0, 0xffffffff⟩
def Field.TIM_STATUS_FRC_VALID : Field := ⟨383, .TIM_STATUS, 31, 1, .ro, 1, 0, 1⟩
def Field.TIM_STATUS_BUS_FAULT : Field := ⟨384, .TIM_STATUS, 24, 4, .ro, 0, 0, 15⟩
def Field.TIM_STATUS_STATE : Field := ⟨385, .TIM_STATUS, 0, 3, .ro, 0, 0, 7⟩
def Field.TIM_CTRL_CLR_CNT : Field := ⟨386, .TIM_CTRL, 3, 1, .w1s, 0, 0, 1⟩
def Field.TIM_CTRL_ACCEPT_JUMP : Field := ⟨387, .TIM_CTRL, 2, 1, .w1s, 0, 0, 1⟩
def Field.TIM_CTRL_SERVO_EN : Field := ⟨388, .TIM_CTRL, 1, 1, .rw, 0, 0, 1⟩
def Field.TIM_CTRL_CLOCK_MODE : Field := ⟨389, .TIM_CTRL, 0, 1, .rw, 0, 0, 1⟩
def Field.TIM_GM_POLICY_FREE_RUN : Field := ⟨390, .TIM_GM_POLICY, 1, 1, .rw, 1, 0, 1⟩
def Field.TIM_GM_POLICY_REFUSE_JUMP : Field := ⟨391, .TIM_GM_POLICY, 0, 1, .rw, 1, 0, 1⟩
def Field.TIM_JUMP_LIMIT : Field := ⟨392, .TIM_JUMP_LIMIT, 0, 32, .rw, 0x3e8, 1, 0x3b9aca00⟩
def Field.TIM_FRC_LO : Field := ⟨393, .TIM_FRC_LO, 0, 32, .ro, 0, 0, 0xffffffff⟩
def Field.TIM_FRC_HI : Field := ⟨394, .TIM_FRC_HI, 0, 32, .ro, 0, 0, 0xffffffff⟩
def Field.TIM_NOW_SEC_LO : Field := ⟨395, .TIM_NOW_SEC_LO, 0, 32, .ro, 0, 0, 0xffffffff⟩
def Field.TIM_NOW_SEC_HI : Field := ⟨396, .TIM_NOW_SEC_HI, 0, 32, .ro, 0, 0, 0xffffffff⟩
def Field.TIM_NOW_NS : Field := ⟨397, .TIM_NOW_NS, 0, 32, .ro, 0, 0, 0xffffffff⟩
def Field.TIM_NOW_FRAC : Field := ⟨398, .TIM_NOW_FRAC, 0, 32, .ro, 0, 0, 0xffffffff⟩
def Field.TIM_ADJ_SEC_LO : Field := ⟨399, .TIM_ADJ_SEC_LO, 0, 32, .rw, 0, 0, 0xffffffff⟩
def Field.TIM_ADJ_SEC_HI : Field := ⟨400, .TIM_ADJ_SEC_HI, 0, 32, .rw, 0, 0, 0xffffffff⟩
def Field.TIM_ADJ_NS : Field := ⟨401, .TIM_ADJ_NS, 0, 32, .rw, 0, 0, 0x3b9ac9ff⟩
def Field.TIM_ADJ_FRAC : Field := ⟨402, .TIM_ADJ_FRAC, 0, 16, .rw, 0, 0, 65535⟩
def Field.TIM_ADJ_RATE_LO : Field := ⟨403, .TIM_ADJ_RATE_LO, 0, 32, .rw, 0, 0, 0xffffffff⟩
def Field.TIM_ADJ_RATE_HI : Field := ⟨404, .TIM_ADJ_RATE_HI, 0, 8, .rw, 0, 0, 255⟩
def Field.TIM_ADJ_CMD_GO : Field := ⟨405, .TIM_ADJ_CMD, 31, 1, .w1s, 0, 0, 1⟩
def Field.TIM_ADJ_CMD_BUSY : Field := ⟨406, .TIM_ADJ_CMD, 30, 1, .ro, 0, 0, 1⟩
def Field.TIM_ADJ_CMD_COLLISION : Field := ⟨407, .TIM_ADJ_CMD, 29, 1, .w1c, 0, 0, 1⟩
def Field.TIM_ADJ_CMD_REFUSED : Field := ⟨408, .TIM_ADJ_CMD, 28, 1, .w1c, 0, 0, 1⟩
def Field.TIM_ADJ_CMD_OP : Field := ⟨409, .TIM_ADJ_CMD, 0, 3, .rw, 0, 0, 7⟩
def Field.TIM_EPOCH_NOW : Field := ⟨410, .TIM_EPOCH_NOW, 0, 8, .ro, 0, 0, 255⟩
def Field.TIM_RATE_LO : Field := ⟨411, .TIM_RATE_LO, 0, 32, .ro, 0, 0, 0xffffffff⟩
def Field.TIM_RATE_HI : Field := ⟨412, .TIM_RATE_HI, 0, 8, .ro, 0, 0, 255⟩
def Field.TIM_CONV_FRC_LO : Field := ⟨413, .TIM_CONV_FRC_LO, 0, 32, .rw, 0, 0, 0xffffffff⟩
def Field.TIM_CONV_FRC_HI : Field := ⟨414, .TIM_CONV_FRC_HI, 0, 32, .rw, 0, 0, 0xffffffff⟩
def Field.TIM_CONV_CMD_GO : Field := ⟨415, .TIM_CONV_CMD, 31, 1, .w1s, 0, 0, 1⟩
def Field.TIM_CONV_CMD_DONE : Field := ⟨416, .TIM_CONV_CMD, 30, 1, .ro, 0, 0, 1⟩
def Field.TIM_CONV_CMD_EXPIRED : Field := ⟨417, .TIM_CONV_CMD, 29, 1, .ro, 0, 0, 1⟩
def Field.TIM_CONV_CMD_SUBTICK : Field := ⟨418, .TIM_CONV_CMD, 24, 3, .rw, 0, 0, 7⟩
def Field.TIM_CONV_CMD_EPOCH : Field := ⟨419, .TIM_CONV_CMD, 0, 8, .rw, 0, 0, 255⟩
def Field.TIM_CONV_SEC_LO : Field := ⟨420, .TIM_CONV_SEC_LO, 0, 32, .ro, 0, 0, 0xffffffff⟩
def Field.TIM_CONV_SEC_HI : Field := ⟨421, .TIM_CONV_SEC_HI, 0, 32, .ro, 0, 0, 0xffffffff⟩
def Field.TIM_CONV_NS : Field := ⟨422, .TIM_CONV_NS, 0, 32, .ro, 0, 0, 0xffffffff⟩
def Field.TIM_CONV_FRAC : Field := ⟨423, .TIM_CONV_FRAC, 0, 32, .ro, 0, 0, 0xffffffff⟩
def Field.TIM_BUS_DELAY : Field := ⟨424, .TIM_BUS_DELAY, 0, 32, .ro, 0, 0, 0xffffffff⟩
def Field.TIM_EPOCH_TAB : Field := ⟨425, .TIM_EPOCH_TAB, 0, 32, .ro, 0, 0, 0xffffffff⟩
def Field.TIM_TXTS_POP_VALID : Field := ⟨426, .TIM_TXTS_POP, 31, 1, .ro, 0, 0, 1⟩
def Field.TIM_TXTS_POP_INVALID : Field := ⟨427, .TIM_TXTS_POP, 30, 1, .ro, 0, 0, 1⟩
def Field.TIM_TXTS_POP_PORT : Field := ⟨428, .TIM_TXTS_POP, 28, 2, .ro, 0, 0, 3⟩
def Field.TIM_TXTS_POP_SUBTICK : Field := ⟨429, .TIM_TXTS_POP, 24, 3, .ro, 0, 0, 7⟩
def Field.TIM_TXTS_POP_EPOCH : Field := ⟨430, .TIM_TXTS_POP, 16, 8, .ro, 0, 0, 255⟩
def Field.TIM_TXTS_POP_ID : Field := ⟨431, .TIM_TXTS_POP, 0, 16, .ro, 0, 0, 65535⟩
def Field.TIM_TXTS_FRC_LO : Field := ⟨432, .TIM_TXTS_FRC_LO, 0, 32, .ro, 0, 0, 0xffffffff⟩
def Field.TIM_TXTS_FRC_HI : Field := ⟨433, .TIM_TXTS_FRC_HI, 0, 32, .ro, 0, 0, 0xffffffff⟩
def Field.TIM_TXTS_STATUS_OVF : Field := ⟨434, .TIM_TXTS_STATUS, 31, 1, .w1c, 0, 0, 1⟩
def Field.TIM_TXTS_STATUS_COUNT : Field := ⟨435, .TIM_TXTS_STATUS, 16, 7, .ro, 0, 0, 127⟩
def Field.TIM_TXTS_STATUS_LOST_ID : Field := ⟨436, .TIM_TXTS_STATUS, 0, 16, .ro, 0, 0, 65535⟩
def Field.TIM_PULSE_CFG_ARMED : Field := ⟨437, .TIM_PULSE_CFG, 31, 1, .ro, 0, 0, 1⟩
def Field.TIM_PULSE_CFG_LOCKED_ONLY : Field := ⟨438, .TIM_PULSE_CFG, 29, 1, .rw, 0, 0, 1⟩
def Field.TIM_PULSE_CFG_START_SUB : Field := ⟨439, .TIM_PULSE_CFG, 24, 3, .rw, 0, 0, 7⟩
def Field.TIM_PULSE_CFG_MODE : Field := ⟨440, .TIM_PULSE_CFG, 0, 2, .rw, 0, 0, 2⟩
def Field.TIM_PULSE_START_SEC_LO : Field := ⟨441, .TIM_PULSE_START_SEC_LO, 0, 32, .rw, 0, 0, 0xffffffff⟩
def Field.TIM_PULSE_START_SEC_HI : Field := ⟨442, .TIM_PULSE_START_SEC_HI, 0, 32, .rw, 0, 0, 0xffffffff⟩
def Field.TIM_PULSE_START_NS : Field := ⟨443, .TIM_PULSE_START_NS, 0, 32, .rw, 0, 0, 0x3b9ac9ff⟩
def Field.TIM_PULSE_PERIOD_LO : Field := ⟨444, .TIM_PULSE_PERIOD_LO, 0, 32, .rw, 0, 0, 0xffffffff⟩
def Field.TIM_PULSE_PERIOD_HI : Field := ⟨445, .TIM_PULSE_PERIOD_HI, 0, 16, .rw, 0, 0, 65535⟩
def Field.TIM_PULSE_WIDTH : Field := ⟨446, .TIM_PULSE_WIDTH, 0, 32, .rw, 0, 0, 0xffffffff⟩
def Field.TIM_PULSE_STATUS_HIGH : Field := ⟨447, .TIM_PULSE_STATUS, 31, 1, .ro, 0, 0, 1⟩
def Field.TIM_PULSE_STATUS_MISSED : Field := ⟨448, .TIM_PULSE_STATUS, 30, 1, .w1c, 0, 0, 1⟩
def Field.TIM_PULSE_STATUS_DONE : Field := ⟨449, .TIM_PULSE_STATUS, 29, 1, .ro, 0, 0, 1⟩
def Field.TIM_CAP_CFG_COUNT : Field := ⟨450, .TIM_CAP_CFG, 16, 5, .ro, 0, 0, 31⟩
def Field.TIM_CAP_CFG_OVF : Field := ⟨451, .TIM_CAP_CFG, 8, 1, .w1c, 0, 0, 1⟩
def Field.TIM_CAP_CFG_FLUSH : Field := ⟨452, .TIM_CAP_CFG, 2, 1, .w1s, 0, 0, 1⟩
def Field.TIM_CAP_CFG_EDGE : Field := ⟨453, .TIM_CAP_CFG, 0, 2, .rw, 0, 0, 3⟩
def Field.TIM_CAP_POP_VALID : Field := ⟨454, .TIM_CAP_POP, 31, 1, .ro, 0, 0, 1⟩
def Field.TIM_CAP_POP_RISING : Field := ⟨455, .TIM_CAP_POP, 30, 1, .ro, 0, 0, 1⟩
def Field.TIM_CAP_POP_SUBTICK : Field := ⟨456, .TIM_CAP_POP, 24, 3, .ro, 0, 0, 7⟩
def Field.TIM_CAP_POP_EPOCH : Field := ⟨457, .TIM_CAP_POP, 0, 8, .ro, 0, 0, 255⟩
def Field.TIM_CAP_FRC_LO : Field := ⟨458, .TIM_CAP_FRC_LO, 0, 32, .ro, 0, 0, 0xffffffff⟩
def Field.TIM_CAP_FRC_HI : Field := ⟨459, .TIM_CAP_FRC_HI, 0, 32, .ro, 0, 0, 0xffffffff⟩
def Field.TIM_LINK_DELAY : Field := ⟨460, .TIM_LINK_DELAY, 0, 32, .ro, 0, 0, 0xffffffff⟩
def Field.FAB_STATUS_MEMBER : Field := ⟨461, .FAB_STATUS, 31, 1, .ro, 0, 0, 1⟩
def Field.FAB_STATUS_CONFLICT : Field := ⟨462, .FAB_STATUS, 30, 1, .ro, 0, 0, 1⟩
def Field.FAB_STATUS_ELECTED : Field := ⟨463, .FAB_STATUS, 29, 1, .ro, 0, 0, 1⟩
def Field.FAB_STATUS_LSDB_FULL : Field := ⟨464, .FAB_STATUS, 28, 1, .ro, 0, 0, 1⟩
def Field.FAB_STATUS_FULL_ADJ : Field := ⟨465, .FAB_STATUS, 8, 8, .ro, 0, 0, 255⟩
def Field.FAB_STATUS_ADDRESS : Field := ⟨466, .FAB_STATUS, 0, 8, .ro, 0, 0, 255⟩
def Field.FAB_CTRL_CLR_CNT : Field := ⟨467, .FAB_CTRL, 0, 1, .w1s, 0, 0, 1⟩
def Field.FAB_ETHERTYPE : Field := ⟨468, .FAB_ETHERTYPE, 0, 16, .ro, 0, 0, 65535⟩
def Field.FAB_HELLO_CFG_DEAD_TIME : Field := ⟨469, .FAB_HELLO_CFG, 16, 16, .ro, 0, 0, 65535⟩
def Field.FAB_HELLO_CFG_HELLO_INTERVAL : Field := ⟨470, .FAB_HELLO_CFG, 0, 16, .ro, 0, 0, 65535⟩
def Field.FAB_HOP_LIMIT : Field := ⟨471, .FAB_HOP_LIMIT, 0, 6, .rw, 0x10, 2, 63⟩
def Field.FAB_HASH_SEED : Field := ⟨472, .FAB_HASH_SEED, 0, 32, .rw, 0x6a09e667, 0, 0xffffffff⟩
def Field.FAB_LSDB_COUNT : Field := ⟨473, .FAB_LSDB_COUNT, 0, 32, .ro, 0, 0, 0xffffffff⟩
def Field.FAB_LSA_SEQ : Field := ⟨474, .FAB_LSA_SEQ, 0, 32, .ro, 0, 0, 0xffffffff⟩
def Field.FAB_SPF_LAST : Field := ⟨475, .FAB_SPF_LAST, 0, 32, .ro, 0, 0, 0xffffffff⟩
def Field.FAB_SRC_SEL_CLASS : Field := ⟨476, .FAB_SRC_SEL, 8, 3, .rw, 0, 0, 7⟩
def Field.FAB_SRC_SEL_SOURCE : Field := ⟨477, .FAB_SRC_SEL, 0, 8, .rw, 0, 0, 255⟩
def Field.FAB_SRC_GAP : Field := ⟨478, .FAB_SRC_GAP, 0, 32, .ro, 0, 0, 0xffffffff⟩
def Field.FAB_SRC_LATE : Field := ⟨479, .FAB_SRC_LATE, 0, 32, .ro, 0, 0, 0xffffffff⟩
def Field.FAB_REPLACED : Field := ⟨480, .FAB_REPLACED, 0, 32, .w1c, 0, 0, 0xffffffff⟩
def Field.FAB_ADJ_STATE : Field := ⟨481, .FAB_ADJ, 29, 3, .ro, 0, 0, 7⟩
def Field.FAB_ADJ_VERSION : Field := ⟨482, .FAB_ADJ, 16, 8, .ro, 0, 0, 255⟩
def Field.FAB_ADJ_NEIGH_PORT : Field := ⟨483, .FAB_ADJ, 8, 8, .ro, 0, 0, 255⟩
def Field.FAB_ADJ_NEIGH_DEV : Field := ⟨484, .FAB_ADJ, 0, 8, .ro, 0, 0, 255⟩
def Field.FAB_ROUTE0_UP : Field := ⟨485, .FAB_ROUTE0, 31, 1, .ro, 0, 0, 1⟩
def Field.FAB_ROUTE0_COUNT : Field := ⟨486, .FAB_ROUTE0, 16, 4, .ro, 0, 0, 15⟩
def Field.FAB_ROUTE0_COST : Field := ⟨487, .FAB_ROUTE0, 0, 16, .ro, 0, 0, 65535⟩
def Field.FAB_ROUTE1 : Field := ⟨488, .FAB_ROUTE1, 0, 32, .ro, 0, 0, 0xffffffff⟩
def Field.FAB_ROUTE2 : Field := ⟨489, .FAB_ROUTE2, 0, 32, .ro, 0, 0, 0xffffffff⟩
def Field.PAIR_STATUS_VERSION : Field := ⟨490, .PAIR_STATUS, 24, 8, .ro, 0, 0, 255⟩
def Field.PAIR_STATUS_CMP_ACTIVE : Field := ⟨491, .PAIR_STATUS, 11, 1, .ro, 0, 0, 1⟩
def Field.PAIR_STATUS_SYNCED : Field := ⟨492, .PAIR_STATUS, 10, 1, .ro, 0, 0, 1⟩
def Field.PAIR_STATUS_HB_OK : Field := ⟨493, .PAIR_STATUS, 9, 1, .ro, 0, 0, 1⟩
def Field.PAIR_STATUS_HOLD_OFF : Field := ⟨494, .PAIR_STATUS, 8, 1, .ro, 0, 0, 1⟩
def Field.PAIR_STATUS_LEASE_IN_B : Field := ⟨495, .PAIR_STATUS, 6, 1, .ro, 0, 0, 1⟩
def Field.PAIR_STATUS_LEASE_IN : Field := ⟨496, .PAIR_STATUS, 5, 1, .ro, 0, 0, 1⟩
def Field.PAIR_STATUS_LEASE_OUT : Field := ⟨497, .PAIR_STATUS, 4, 1, .ro, 0, 0, 1⟩
def Field.PAIR_STATUS_ROLE : Field := ⟨498, .PAIR_STATUS, 0, 3, .ro, 0, 0, 7⟩
def Field.PAIR_CTRL_CLR_CNT : Field := ⟨499, .PAIR_CTRL, 0, 1, .w1s, 0, 0, 1⟩
def Field.PAIR_LEASE_CMD_BUSY : Field := ⟨500, .PAIR_LEASE_CMD, 31, 1, .ro, 0, 0, 1⟩
def Field.PAIR_LEASE_CMD_COLLISION : Field := ⟨501, .PAIR_LEASE_CMD, 30, 1, .w1c, 0, 0, 1⟩
def Field.PAIR_LEASE_CMD_REFUSED : Field := ⟨502, .PAIR_LEASE_CMD, 29, 1, .w1c, 0, 0, 1⟩
def Field.PAIR_LEASE_CMD_OP : Field := ⟨503, .PAIR_LEASE_CMD, 0, 2, .pw, 0, 0, 3⟩
def Field.PAIR_EPOCH : Field := ⟨504, .PAIR_EPOCH, 0, 32, .ro, 0, 0, 0xffffffff⟩
def Field.PAIR_LEASE_LEFT : Field := ⟨505, .PAIR_LEASE_LEFT, 0, 32, .ro, 0, 0, 0xffffffff⟩
def Field.PAIR_TIMERS_HB_MISS : Field := ⟨506, .PAIR_TIMERS, 8, 8, .rw, 3, 2, 20⟩
def Field.PAIR_TIMERS_GUARD : Field := ⟨507, .PAIR_TIMERS, 0, 8, .rw, 5, 2, 50⟩
def Field.PAIR_ALIGN_GUARD : Field := ⟨508, .PAIR_ALIGN_GUARD, 0, 32, .rw, 0x14, 2, 500⟩
def Field.PAIR_SAMPLE_RATE : Field := ⟨509, .PAIR_SAMPLE_RATE, 0, 32, .rw, 0x989680, 1, 0x1312d00⟩
def Field.PAIR_WIT_STATUS_ANSWERED : Field := ⟨510, .PAIR_WIT_STATUS, 0, 3, .ro, 0, 0, 7⟩
def Field.PAIR_EXEMPT : Field := ⟨511, .PAIR_EXEMPT, 0, 32, .rw, 0, 0, 0xffffffff⟩
def Field.PAIR_CMP_STATUS_STAGE : Field := ⟨512, .PAIR_CMP_STATUS, 30, 2, .ro, 0, 0, 3⟩
def Field.PAIR_CMP_STATUS_RESULT : Field := ⟨513, .PAIR_CMP_STATUS, 27, 3, .ro, 0, 0, 7⟩
def Field.PAIR_CMP_STATUS_SIDE : Field := ⟨514, .PAIR_CMP_STATUS, 26, 1, .ro, 0, 0, 1⟩
def Field.PAIR_CMP_STATUS_PORT : Field := ⟨515, .PAIR_CMP_STATUS, 0, 7, .ro, 0, 0, 127⟩
def Field.PAIR_CMP_BLOCK_TABLE : Field := ⟨516, .PAIR_CMP_BLOCK, 28, 4, .ro, 0, 0, 15⟩
def Field.PAIR_CMP_BLOCK_BLOCK : Field := ⟨517, .PAIR_CMP_BLOCK, 0, 28, .ro, 0, 0, 0xfffffff⟩
def Field.PAIR_DIG_SEL : Field := ⟨518, .PAIR_DIG_SEL, 0, 7, .rw, 0, 0, 127⟩
def Field.PAIR_DIG_INFO_RESULT : Field := ⟨519, .PAIR_DIG_INFO, 30, 2, .ro, 0, 0, 3⟩
def Field.PAIR_DIG_INFO_CONSECUTIVE : Field := ⟨520, .PAIR_DIG_INFO, 0, 2, .ro, 0, 0, 3⟩
def Field.HLT_STATE_PREV : Field := ⟨521, .HLT_STATE, 4, 2, .ro, 0, 0, 3⟩
def Field.HLT_STATE_STATE : Field := ⟨522, .HLT_STATE, 0, 2, .ro, 0, 0, 3⟩
def Field.HLT_STATE_SECS : Field := ⟨523, .HLT_STATE_SECS, 0, 32, .ro, 0, 0, 0xffffffff⟩
def Field.HLT_CAUSE_CONFIG : Field := ⟨524, .HLT_CAUSE, 11, 1, .w1c, 0, 0, 1⟩
def Field.HLT_CAUSE_MON_LOST : Field := ⟨525, .HLT_CAUSE, 10, 1, .ro, 0, 0, 1⟩
def Field.HLT_CAUSE_SMBUS_REQUEST : Field := ⟨526, .HLT_CAUSE, 9, 1, .w1c, 0, 0, 1⟩
def Field.HLT_CAUSE_HOST_REQUEST : Field := ⟨527, .HLT_CAUSE, 8, 1, .w1c, 0, 0, 1⟩
def Field.HLT_CAUSE_INTERLOCK : Field := ⟨528, .HLT_CAUSE, 7, 1, .w1c, 0, 0, 1⟩
def Field.HLT_CAUSE_D2D_LINK : Field := ⟨529, .HLT_CAUSE, 6, 1, .ro, 0, 0, 1⟩
def Field.HLT_CAUSE_WATCHDOG : Field := ⟨530, .HLT_CAUSE, 5, 1, .w1c, 0, 0, 1⟩
def Field.HLT_CAUSE_VOLTAGE : Field := ⟨531, .HLT_CAUSE, 4, 1, .w1c, 0, 0, 1⟩
def Field.HLT_CAUSE_THERMAL : Field := ⟨532, .HLT_CAUSE, 3, 1, .w1c, 0, 0, 1⟩
def Field.HLT_CAUSE_ROOT_CLOCK : Field := ⟨533, .HLT_CAUSE, 2, 1, .ro, 0, 0, 1⟩
def Field.HLT_CAUSE_MGMT_FATAL : Field := ⟨534, .HLT_CAUSE, 1, 1, .ro, 0, 0, 1⟩
def Field.HLT_CAUSE_CORE_FATAL : Field := ⟨535, .HLT_CAUSE, 0, 1, .ro, 0, 0, 1⟩
def Field.HLT_AUTUMN_CAUSE_FUSE : Field := ⟨536, .HLT_AUTUMN_CAUSE, 10, 1, .ro, 0, 0, 1⟩
def Field.HLT_AUTUMN_CAUSE_PAIR_FAULT : Field := ⟨537, .HLT_AUTUMN_CAUSE, 9, 1, .ro, 0, 0, 1⟩
def Field.HLT_AUTUMN_CAUSE_LEASE_PIN : Field := ⟨538, .HLT_AUTUMN_CAUSE, 8, 1, .ro, 0, 0, 1⟩
def Field.HLT_AUTUMN_CAUSE_TIME_BUS : Field := ⟨539, .HLT_AUTUMN_CAUSE, 7, 1, .ro, 0, 0, 1⟩
def Field.HLT_AUTUMN_CAUSE_WEAR : Field := ⟨540, .HLT_AUTUMN_CAUSE, 6, 1, .ro, 0, 0, 1⟩
def Field.HLT_AUTUMN_CAUSE_AVS : Field := ⟨541, .HLT_AUTUMN_CAUSE, 5, 1, .ro, 0, 0, 1⟩
def Field.HLT_AUTUMN_CAUSE_MONITOR : Field := ⟨542, .HLT_AUTUMN_CAUSE, 4, 1, .ro, 0, 0, 1⟩
def Field.HLT_AUTUMN_CAUSE_HOLD : Field := ⟨543, .HLT_AUTUMN_CAUSE, 3, 1, .ro, 0, 0, 1⟩
def Field.HLT_AUTUMN_CAUSE_UNIT : Field := ⟨544, .HLT_AUTUMN_CAUSE, 2, 1, .ro, 0, 0, 1⟩
def Field.HLT_AUTUMN_CAUSE_REGION : Field := ⟨545, .HLT_AUTUMN_CAUSE, 1, 1, .ro, 0, 0, 1⟩
def Field.HLT_AUTUMN_CAUSE_SPARE : Field := ⟨546, .HLT_AUTUMN_CAUSE, 0, 1, .ro, 0, 0, 1⟩
def Field.HLT_WINTER_REQ_KEY : Field := ⟨547, .HLT_WINTER_REQ, 8, 8, .rw, 0, 0, 255⟩
def Field.HLT_WINTER_REQ_REQ : Field := ⟨548, .HLT_WINTER_REQ, 0, 1, .rw, 0, 0, 1⟩
def Field.HLT_WINTER_EXIT_BUSY : Field := ⟨549, .HLT_WINTER_EXIT, 31, 1, .ro, 0, 0, 1⟩
def Field.HLT_WINTER_EXIT_COLLISION : Field := ⟨550, .HLT_WINTER_EXIT, 30, 1, .w1c, 0, 0, 1⟩
def Field.HLT_WINTER_EXIT_REFUSED : Field := ⟨551, .HLT_WINTER_EXIT, 29, 1, .w1c, 0, 0, 1⟩
def Field.HLT_WINTER_EXIT_REASON : Field := ⟨552, .HLT_WINTER_EXIT, 4, 4, .ro, 0, 0, 15⟩
def Field.HLT_WINTER_EXIT_GO : Field := ⟨553, .HLT_WINTER_EXIT, 0, 1, .pw, 0, 0, 1⟩
def Field.HLT_WINTER_LAT : Field := ⟨554, .HLT_WINTER_LAT, 0, 32, .ro, 0, 0, 0xffffffff⟩
def Field.HLT_WDOG_PERIOD : Field := ⟨555, .HLT_WDOG, 16, 16, .ro, 0x64, 0, 65535⟩
def Field.HLT_WDOG_CORE_EXPIRED : Field := ⟨556, .HLT_WDOG, 0, 4, .ro, 0, 0, 15⟩
def Field.HLT_EXIT_RESP : Field := ⟨557, .HLT_EXIT_RESP, 0, 32, .rw, 0, 0, 0xffffffff⟩
def Field.HLT_SUM_UNIT_HOLD_DIE : Field := ⟨558, .HLT_SUM_UNIT, 5, 1, .ro, 0, 0, 1⟩
def Field.HLT_SUM_UNIT_MONITOR : Field := ⟨559, .HLT_SUM_UNIT, 4, 1, .ro, 0, 0, 1⟩
def Field.HLT_SUM_UNIT_REGION_UNIT : Field := ⟨560, .HLT_SUM_UNIT, 0, 4, .ro, 0, 0, 15⟩
def Field.HLT_SUM_LANE : Field := ⟨561, .HLT_SUM_LANE, 0, 32, .ro, 0, 0, 0xffffffff⟩
def Field.HLT_SUM_ENGINE_METER : Field := ⟨562, .HLT_SUM_ENGINE, 12, 4, .ro, 0, 0, 15⟩
def Field.HLT_SUM_ENGINE_TCAM : Field := ⟨563, .HLT_SUM_ENGINE, 8, 4, .ro, 0, 0, 15⟩
def Field.HLT_SUM_ENGINE_AUTOMATA : Field := ⟨564, .HLT_SUM_ENGINE, 4, 4, .ro, 0, 0, 15⟩
def Field.HLT_SUM_ENGINE_LOOKUP : Field := ⟨565, .HLT_SUM_ENGINE, 0, 4, .ro, 0, 0, 15⟩
def Field.HLT_SUM_REGION_ISOLATED : Field := ⟨566, .HLT_SUM_REGION, 0, 4, .ro, 0, 0, 15⟩
def Field.HLT_SUM_DIE_DIES : Field := ⟨567, .HLT_SUM_DIE, 0, 26, .ro, 0, 0, 0x3ffffff⟩
def Field.HLT_SUM_PKG_THERMTRIP : Field := ⟨568, .HLT_SUM_PKG, 5, 1, .ro, 0, 0, 1⟩
def Field.HLT_SUM_PKG_COVERAGE : Field := ⟨569, .HLT_SUM_PKG, 4, 1, .ro, 0, 0, 1⟩
def Field.HLT_SUM_PKG_WEAR : Field := ⟨570, .HLT_SUM_PKG, 3, 1, .ro, 0, 0, 1⟩
def Field.HLT_SUM_PKG_AVS : Field := ⟨571, .HLT_SUM_PKG, 2, 1, .ro, 0, 0, 1⟩
def Field.HLT_SUM_PKG_VOLT_WARN : Field := ⟨572, .HLT_SUM_PKG, 1, 1, .ro, 0, 0, 1⟩
def Field.HLT_SUM_PKG_TEMP_WARN : Field := ⟨573, .HLT_SUM_PKG, 0, 1, .ro, 0, 0, 1⟩
def Field.HLT_SUM_SYSTEM_REPLACED : Field := ⟨574, .HLT_SUM_SYSTEM, 3, 1, .ro, 0, 0, 1⟩
def Field.HLT_SUM_SYSTEM_CONFLICT : Field := ⟨575, .HLT_SUM_SYSTEM, 2, 1, .ro, 0, 0, 1⟩
def Field.HLT_SUM_SYSTEM_LEASE_PIN : Field := ⟨576, .HLT_SUM_SYSTEM, 1, 1, .ro, 0, 0, 1⟩
def Field.HLT_SUM_SYSTEM_PAIR_FAULT : Field := ⟨577, .HLT_SUM_SYSTEM, 0, 1, .ro, 0, 0, 1⟩
def Field.HLT_WINTER_IN_DISCARD : Field := ⟨578, .HLT_WINTER_IN_DISCARD, 0, 32, .ro, 0, 0, 0xffffffff⟩
def Field.MON_STATUS_AVS : Field := ⟨579, .MON_STATUS, 7, 1, .ro, 0, 0, 1⟩
def Field.MON_STATUS_COVERAGE : Field := ⟨580, .MON_STATUS, 6, 1, .ro, 0, 0, 1⟩
def Field.MON_STATUS_THERMTRIP : Field := ⟨581, .MON_STATUS, 5, 1, .ro, 0, 0, 1⟩
def Field.MON_STATUS_HARD : Field := ⟨582, .MON_STATUS, 4, 1, .ro, 0, 0, 1⟩
def Field.MON_STATUS_VOLT_WARN : Field := ⟨583, .MON_STATUS, 3, 1, .ro, 0, 0, 1⟩
def Field.MON_STATUS_TEMP_WARN : Field := ⟨584, .MON_STATUS, 2, 1, .ro, 0, 0, 1⟩
def Field.MON_STATUS_ALERT : Field := ⟨585, .MON_STATUS, 1, 1, .ro, 0, 0, 1⟩
def Field.MON_STATUS_READY : Field := ⟨586, .MON_STATUS, 0, 1, .ro, 0, 0, 1⟩
def Field.MON_TEMP_WARN : Field := ⟨587, .MON_TEMP_WARN, 0, 8, .rw, 0x73, 85, 115⟩
def Field.MON_AVS_CTRL_MODE : Field := ⟨588, .MON_AVS_CTRL, 31, 1, .rw, 0, 0, 1⟩
def Field.MON_AVS_CTRL_FIXED_MV : Field := ⟨589, .MON_AVS_CTRL, 0, 10, .rw, 0x320, 650, 800⟩
def Field.MON_AVS_STATUS_FAULT : Field := ⟨590, .MON_AVS_STATUS, 31, 1, .ro, 0, 0, 1⟩
def Field.MON_AVS_STATUS_ACTIVE : Field := ⟨591, .MON_AVS_STATUS, 30, 1, .ro, 0, 0, 1⟩
def Field.MON_AVS_STATUS_REQ_MV : Field := ⟨592, .MON_AVS_STATUS, 16, 10, .ro, 0, 0, 1023⟩
def Field.MON_AVS_STATUS_READ_MV : Field := ⟨593, .MON_AVS_STATUS, 0, 10, .ro, 0, 0, 1023⟩
def Field.MON_TEMP_STATE : Field := ⟨594, .MON_TEMP, 30, 2, .ro, 0, 0, 3⟩
def Field.MON_TEMP : Field := ⟨595, .MON_TEMP, 0, 16, .ro, 0, 0, 65535⟩
def Field.MON_VOLT_STATE : Field := ⟨596, .MON_VOLT, 30, 2, .ro, 0, 0, 3⟩
def Field.MON_VOLT_RAIL : Field := ⟨597, .MON_VOLT, 16, 4, .ro, 0, 0, 15⟩
def Field.MON_VOLT_MV : Field := ⟨598, .MON_VOLT, 0, 16, .ro, 0, 0, 65535⟩
def Field.MON_PROC_FAILED : Field := ⟨599, .MON_PROC, 31, 1, .ro, 0, 0, 1⟩
def Field.MON_PROC_COUNT : Field := ⟨600, .MON_PROC, 0, 16, .ro, 0, 0, 65535⟩
def Field.CAL_STATUS_CLAMPED : Field := ⟨601, .CAL_STATUS, 31, 1, .w1c, 0, 0, 1⟩
def Field.CAL_STATUS_BUSY : Field := ⟨602, .CAL_STATUS, 30, 1, .ro, 0, 0, 1⟩
def Field.CAL_STATUS_SAVED : Field := ⟨603, .CAL_STATUS, 29, 1, .ro, 0, 0, 1⟩
def Field.CAL_STATUS_RESTORED : Field := ⟨604, .CAL_STATUS, 28, 1, .ro, 0, 0, 1⟩
def Field.CAL_STATUS_SAVE_FAILED : Field := ⟨605, .CAL_STATUS, 27, 1, .w1c, 0, 0, 1⟩
def Field.CAL_STATUS_LAST_OFFSET : Field := ⟨606, .CAL_STATUS, 0, 16, .ro, 0, 0, 65535⟩
def Field.CAL_CMD_KEY : Field := ⟨607, .CAL_CMD, 8, 8, .rw, 0, 0, 255⟩
def Field.CAL_CMD_CLEAR_SAVED : Field := ⟨608, .CAL_CMD, 2, 1, .w1s, 0, 0, 1⟩
def Field.CAL_CMD_CLEAR_USER : Field := ⟨609, .CAL_CMD, 1, 1, .w1s, 0, 0, 1⟩
def Field.CAL_CMD_SAVE : Field := ⟨610, .CAL_CMD, 0, 1, .w1s, 0, 0, 1⟩
def Field.INT_LEVEL_SUM : Field := ⟨611, .INT_LEVEL_SUM, 0, 8, .ro, 0, 0, 255⟩
def Field.INT_PEND : Field := ⟨612, .INT_PEND, 0, 32, .w1c, 0, 0, 0xffffffff⟩
def Field.INT_MASK : Field := ⟨613, .INT_MASK, 0, 32, .rw, 0xffffffff, 0, 0xffffffff⟩
def Field.INT_VEC_EN3 : Field := ⟨614, .INT_VEC, 31, 1, .rw, 0, 0, 1⟩
def Field.INT_VEC_VEC3 : Field := ⟨615, .INT_VEC, 16, 4, .rw, 0, 0, 15⟩
def Field.INT_VEC_VEC0 : Field := ⟨616, .INT_VEC, 0, 8, .rw, 0, 0, 255⟩
def Field.DMA_LINK_DL_UP : Field := ⟨617, .DMA_LINK, 31, 1, .ro, 0, 0, 1⟩
def Field.DMA_LINK_FLIT : Field := ⟨618, .DMA_LINK, 30, 1, .ro, 0, 0, 1⟩
def Field.DMA_LINK_SPEED : Field := ⟨619, .DMA_LINK, 16, 4, .ro, 0, 0, 15⟩
def Field.DMA_LINK_WIDTH : Field := ⟨620, .DMA_LINK, 0, 5, .ro, 0, 0, 31⟩
def Field.DMA_CTRL_CLR_CNT : Field := ⟨621, .DMA_CTRL, 0, 1, .w1s, 0, 0, 1⟩
def Field.DMA_INJECT_PPS : Field := ⟨622, .DMA_INJECT_PPS, 0, 32, .rw, 0x17d78400, 1000000, 0x17d78400⟩
def Field.DMA_RX_STEER_COUNT : Field := ⟨623, .DMA_RX_STEER, 8, 7, .rw, 1, 1, 64⟩
def Field.DMA_RX_STEER_BASE : Field := ⟨624, .DMA_RX_STEER, 0, 6, .rw, 0, 0, 63⟩
def Field.DMA_MSIX_TABLE : Field := ⟨625, .DMA_MSIX_TABLE, 0, 32, .rw, 0, 0, 0xffffffff⟩
def Field.DMA_MSIX_PBA : Field := ⟨626, .DMA_MSIX_PBA, 0, 32, .ro, 0, 0, 0xffffffff⟩
def Field.DMA_RING_BASE_LO : Field := ⟨627, .DMA_RING_BASE_LO, 12, 20, .rw, 0, 0, 0xfffff⟩
def Field.DMA_RING_BASE_LO_ALIGN : Field := ⟨628, .DMA_RING_BASE_LO, 0, 12, .ro, 0, 0, 4095⟩
def Field.DMA_RING_BASE_HI : Field := ⟨629, .DMA_RING_BASE_HI, 0, 32, .rw, 0, 0, 0xffffffff⟩
def Field.DMA_RING_SIZE : Field := ⟨630, .DMA_RING_SIZE, 0, 32, .rw, 0x10, 16, 65536⟩
def Field.DMA_RING_HEAD : Field := ⟨631, .DMA_RING_HEAD, 0, 32, .ro, 0, 0, 0xffffffff⟩
def Field.DMA_RING_TAIL : Field := ⟨632, .DMA_RING_TAIL, 0, 32, .ro, 0, 0, 0xffffffff⟩
def Field.DMA_RING_CTRL_ENABLE : Field := ⟨633, .DMA_RING_CTRL, 31, 1, .rw, 0, 0, 1⟩
def Field.DMA_RING_CTRL_RESTART : Field := ⟨634, .DMA_RING_CTRL, 30, 1, .w1s, 0, 0, 1⟩
def Field.DMA_RING_CTRL_VECTOR : Field := ⟨635, .DMA_RING_CTRL, 16, 10, .rw, 0, 0, 1023⟩
def Field.DMA_RING_STATUS_HALTED : Field := ⟨636, .DMA_RING_STATUS, 31, 1, .ro, 0, 0, 1⟩
def Field.DMA_RING_STATUS_RUNNING : Field := ⟨637, .DMA_RING_STATUS, 30, 1, .ro, 0, 0, 1⟩
def Field.DMA_RING_STATUS_CODE : Field := ⟨638, .DMA_RING_STATUS, 16, 8, .ro, 0, 0, 255⟩
def Field.DMA_RING_STATUS_HALT_INDEX : Field := ⟨639, .DMA_RING_STATUS, 0, 16, .ro, 0, 0, 65535⟩
def Field.DMA_RING_MOD_USEC : Field := ⟨640, .DMA_RING_MOD, 16, 16, .rw, 0, 0, 65535⟩
def Field.DMA_RING_MOD_COUNT : Field := ⟨641, .DMA_RING_MOD, 0, 16, .rw, 0, 0, 1024⟩
def Field.IND_ADDR_SPACE : Field := ⟨642, .IND_ADDR, 24, 8, .rw, 0, 0, 255⟩
def Field.IND_ADDR_AUTO_INC : Field := ⟨643, .IND_ADDR, 23, 1, .rw, 0, 0, 1⟩
def Field.IND_ADDR_STRIDE : Field := ⟨644, .IND_ADDR, 19, 4, .rw, 0, 0, 15⟩
def Field.IND_ADDR_WORD : Field := ⟨645, .IND_ADDR, 0, 19, .rw, 0, 0, 0x7ffff⟩
def Field.IND_STATUS_READY : Field := ⟨646, .IND_STATUS, 31, 1, .ro, 0, 0, 1⟩
def Field.IND_STATUS_BUSY : Field := ⟨647, .IND_STATUS, 30, 1, .ro, 0, 0, 1⟩
def Field.IND_STATUS_COLLISION : Field := ⟨648, .IND_STATUS, 29, 1, .w1c, 0, 0, 1⟩
def Field.IND_STATUS_EARLY_READ : Field := ⟨649, .IND_STATUS, 28, 1, .w1c, 0, 0, 1⟩
def Field.IND_STATUS_ERR : Field := ⟨650, .IND_STATUS, 24, 4, .ro, 0, 0, 15⟩
def Field.IND_CMD_GO : Field := ⟨651, .IND_CMD, 31, 1, .w1s, 0, 0, 1⟩
def Field.IND_CMD_COUNT : Field := ⟨652, .IND_CMD, 0, 5, .rw, 0, 0, 31⟩
def Field.IND_DATA : Field := ⟨653, .IND_DATA, 0, 32, .rw, 0, 0, 0xffffffff⟩
def Field.GLB_ID_DEVICE : Field := ⟨654, .GLB_ID, 16, 16, .ro, 0x1240, 0, 65535⟩
def Field.GLB_ID_GRADE : Field := ⟨655, .GLB_ID, 12, 4, .ro, 1, 0, 15⟩
def Field.GLB_ID_STEP : Field := ⟨656, .GLB_ID, 0, 8, .ro, 0x11, 0, 255⟩
def Field.GLB_SERIAL : Field := ⟨657, .GLB_SERIAL, 0, 32, .ro, 0, 0, 0xffffffff⟩
def Field.GLB_BASE_MAC_LO : Field := ⟨658, .GLB_BASE_MAC_LO, 0, 32, .ro, 0, 0, 0xffffffff⟩
def Field.GLB_BASE_MAC_HI : Field := ⟨659, .GLB_BASE_MAC_HI, 0, 16, .ro, 0, 0, 65535⟩
def Field.GLB_FW_VERSION : Field := ⟨660, .GLB_FW_VERSION, 0, 32, .ro, 0, 0, 0xffffffff⟩
def Field.GLB_VER_HIF : Field := ⟨661, .GLB_VER_HIF, 0, 32, .ro, 0x3040200, 0, 0xffffffff⟩
def Field.GLB_VER_MBX : Field := ⟨662, .GLB_VER_MBX, 0, 32, .ro, 0x3000100, 0, 0xffffffff⟩
def Field.GLB_VER_IMG : Field := ⟨663, .GLB_VER_IMG, 0, 32, .ro, 0x4020300, 0, 0xffffffff⟩
def Field.GLB_VER_FAB : Field := ⟨664, .GLB_VER_FAB, 0, 32, .ro, 0x2010100, 0, 0xffffffff⟩
def Field.GLB_VER_PAIR : Field := ⟨665, .GLB_VER_PAIR, 0, 32, .ro, 0x1030100, 0, 0xffffffff⟩
def Field.GLB_HIF_SELECT_MAJOR : Field := ⟨666, .GLB_HIF_SELECT, 8, 8, .wo1, 0, 0, 255⟩
def Field.GLB_HIF_SELECT_MINOR : Field := ⟨667, .GLB_HIF_SELECT, 0, 8, .wo1, 0, 0, 255⟩
def Field.GLB_HIF_ACTIVE_BAD : Field := ⟨668, .GLB_HIF_ACTIVE, 17, 1, .ro, 0, 0, 1⟩
def Field.GLB_HIF_ACTIVE_SELECTED : Field := ⟨669, .GLB_HIF_ACTIVE, 16, 1, .ro, 0, 0, 1⟩
def Field.GLB_HIF_ACTIVE_MAJOR : Field := ⟨670, .GLB_HIF_ACTIVE, 8, 8, .ro, 0, 0, 255⟩
def Field.GLB_HIF_ACTIVE_MINOR : Field := ⟨671, .GLB_HIF_ACTIVE, 0, 8, .ro, 0, 0, 255⟩
def Field.GLB_CAP0_PORTS : Field := ⟨672, .GLB_CAP0, 24, 8, .ro, 0x80, 0, 255⟩
def Field.GLB_CAP0_TCAM_BANKS : Field := ⟨673, .GLB_CAP0, 16, 8, .ro, 0x40, 0, 255⟩
def Field.GLB_CAP0_REGIONS : Field := ⟨674, .GLB_CAP0, 8, 4, .ro, 0xf, 0, 15⟩
def Field.GLB_CAP0_PAIR : Field := ⟨675, .GLB_CAP0, 4, 1, .ro, 1, 0, 1⟩
def Field.GLB_CAP0_FABRIC : Field := ⟨676, .GLB_CAP0, 3, 1, .ro, 1, 0, 1⟩
def Field.GLB_CAP0_AUTOMATA : Field := ⟨677, .GLB_CAP0, 2, 1, .ro, 1, 0, 1⟩
def Field.GLB_CAP0_HOLD : Field := ⟨678, .GLB_CAP0, 1, 1, .ro, 1, 0, 1⟩
def Field.GLB_CAP0_PTP : Field := ⟨679, .GLB_CAP0, 0, 1, .ro, 1, 0, 1⟩
def Field.GLB_CAP1_HOLD_DIES : Field := ⟨680, .GLB_CAP1, 16, 16, .ro, 0x12, 0, 65535⟩
def Field.GLB_CAP1_MIRROR_SESSIONS : Field := ⟨681, .GLB_CAP1, 8, 8, .ro, 0x10, 0, 255⟩
def Field.GLB_CAP1_FUNCTIONS : Field := ⟨682, .GLB_CAP1, 0, 8, .ro, 4, 0, 255⟩
def Field.GLB_SCRATCH : Field := ⟨683, .GLB_SCRATCH, 0, 32, .rw, 0, 0, 0xffffffff⟩
def Field.GLB_SCRATCH_M : Field := ⟨684, .GLB_SCRATCH_M, 0, 16, .rwm, 0, 0, 65535⟩
def Field.GLB_WO_STATUS_HI : Field := ⟨685, .GLB_WO_STATUS, 16, 10, .w1c, 0, 0, 1023⟩
def Field.GLB_WO_STATUS_LO : Field := ⟨686, .GLB_WO_STATUS, 0, 15, .w1c, 0, 0, 32767⟩
def Field.GLB_ACCESS_LAST_MASTER : Field := ⟨687, .GLB_ACCESS_LAST, 28, 4, .ro, 0, 0, 15⟩
def Field.GLB_ACCESS_LAST_KIND : Field := ⟨688, .GLB_ACCESS_LAST, 24, 4, .ro, 0, 0, 15⟩
def Field.GLB_ACCESS_LAST_OFFSET : Field := ⟨689, .GLB_ACCESS_LAST, 0, 24, .ro, 0, 0, 0xffffff⟩
def Field.GLB_SMB_CNT_PEC_ERR : Field := ⟨690, .GLB_SMB_CNT, 16, 16, .ro, 0, 0, 65535⟩
def Field.GLB_SMB_CNT_REFUSED : Field := ⟨691, .GLB_SMB_CNT, 0, 16, .ro, 0, 0, 65535⟩
def Field.GLB_FUSE_COMMIT_BUSY : Field := ⟨692, .GLB_FUSE_COMMIT, 31, 1, .ro, 0, 0, 1⟩
def Field.GLB_FUSE_COMMIT_COLLISION : Field := ⟨693, .GLB_FUSE_COMMIT, 30, 1, .w1c, 0, 0, 1⟩
def Field.GLB_FUSE_COMMIT_REFUSED : Field := ⟨694, .GLB_FUSE_COMMIT, 29, 1, .w1c, 0, 0, 1⟩
def Field.GLB_FUSE_COMMIT_FACTORY_LOCKED : Field := ⟨695, .GLB_FUSE_COMMIT, 28, 1, .ro, 1, 0, 1⟩
def Field.GLB_FUSE_COMMIT_GO : Field := ⟨696, .GLB_FUSE_COMMIT, 0, 1, .pw, 0, 0, 1⟩
def Field.MBX_H2F_DATA : Field := ⟨697, .MBX_H2F_DATA, 0, 32, .rw, 0, 0, 0xffffffff⟩
def Field.MBX_H2F_CTRL_GO : Field := ⟨698, .MBX_H2F_CTRL, 31, 1, .w1s, 0, 0, 1⟩
def Field.MBX_H2F_STATUS_FULL : Field := ⟨699, .MBX_H2F_STATUS, 31, 1, .ro, 0, 0, 1⟩
def Field.MBX_H2F_STATUS_COLLISION : Field := ⟨700, .MBX_H2F_STATUS, 30, 1, .w1c, 0, 0, 1⟩
def Field.MBX_H2F_STATUS_LOST : Field := ⟨701, .MBX_H2F_STATUS, 29, 1, .w1c, 0, 0, 1⟩
def Field.MBX_H2F_STATUS_LOST_SEQ : Field := ⟨702, .MBX_H2F_STATUS, 0, 12, .ro, 0, 0, 4095⟩
def Field.MBX_F2H_DATA : Field := ⟨703, .MBX_F2H_DATA, 0, 32, .ro, 0, 0, 0xffffffff⟩
def Field.MBX_F2H_CTRL_ACK : Field := ⟨704, .MBX_F2H_CTRL, 31, 1, .w1s, 0, 0, 1⟩
def Field.MBX_F2H_STATUS_FULL : Field := ⟨705, .MBX_F2H_STATUS, 31, 1, .ro, 0, 0, 1⟩
def Field.MBX_F2H_STATUS_STALE : Field := ⟨706, .MBX_F2H_STATUS, 30, 1, .ro, 0, 0, 1⟩
def Field.MBX_F2H_STATUS_QUEUED : Field := ⟨707, .MBX_F2H_STATUS, 16, 4, .ro, 0, 0, 15⟩
def Field.MBX_F2H_STATUS_LOST_COUNT : Field := ⟨708, .MBX_F2H_STATUS, 0, 16, .ro, 0, 0, 65535⟩
def Field.MBX_DB_H2F_LO : Field := ⟨709, .MBX_DB_H2F_LO, 0, 32, .w1s, 0, 0, 0xffffffff⟩
def Field.MBX_DB_H2F_HI : Field := ⟨710, .MBX_DB_H2F_HI, 0, 32, .w1s, 0, 0, 0xffffffff⟩
def Field.MBX_DB_F2H_LO : Field := ⟨711, .MBX_DB_F2H_LO, 0, 32, .w1c, 0, 0, 0xffffffff⟩
def Field.MBX_DB_F2H_HI : Field := ⟨712, .MBX_DB_F2H_HI, 0, 32, .w1c, 0, 0, 0xffffffff⟩
def Field.MBX_STATUS_FW_UP : Field := ⟨713, .MBX_STATUS, 31, 1, .ro, 0, 0, 1⟩
def Field.MBX_STATUS_DOMAIN_DOWN : Field := ⟨714, .MBX_STATUS, 30, 1, .w1c, 0, 0, 1⟩
def Field.MBX_STATUS_CRED_HOLDOFF : Field := ⟨715, .MBX_STATUS, 29, 1, .ro, 0, 0, 1⟩
def Field.MBX_STATUS_CLR_CNT : Field := ⟨716, .MBX_STATUS, 0, 1, .w1s, 0, 0, 1⟩
def Field.LCK_LOCK_ACQUIRED : Field := ⟨717, .LCK_LOCK, 31, 1, .ro, 0, 0, 1⟩
def Field.LCK_LOCK_OWN : Field := ⟨718, .LCK_LOCK, 30, 1, .ro, 0, 0, 1⟩
def Field.LCK_LOCK_HOLDER : Field := ⟨719, .LCK_LOCK, 0, 4, .rw, 0xf, 0, 15⟩
def Field.LCK_HELD_LO : Field := ⟨720, .LCK_HELD_LO, 0, 32, .ro, 0, 0, 0xffffffff⟩
def Field.LCK_HELD_HI : Field := ⟨721, .LCK_HELD_HI, 0, 32, .ro, 0, 0, 0xffffffff⟩
def Field.LCK_BAD_RELEASE : Field := ⟨722, .LCK_BAD_RELEASE, 0, 32, .ro, 0, 0, 0xffffffff⟩
def Field.LCK_PEEK : Field := ⟨723, .LCK_PEEK, 0, 32, .ro, 0, 0, 0xffffffff⟩
def Field.EVR_STATUS_MOUNTED : Field := ⟨724, .EVR_STATUS, 31, 1, .ro, 0, 0, 1⟩
def Field.EVR_STATUS_NO_STORE : Field := ⟨725, .EVR_STATUS, 30, 1, .ro, 1, 0, 1⟩
def Field.EVR_STATUS_FROZEN : Field := ⟨726, .EVR_STATUS, 29, 1, .ro, 0, 0, 1⟩
def Field.EVR_STATUS_ERASING : Field := ⟨727, .EVR_STATUS, 28, 1, .ro, 0, 0, 1⟩
def Field.EVR_STATUS_FLUSHING : Field := ⟨728, .EVR_STATUS, 27, 1, .ro, 0, 0, 1⟩
def Field.EVR_STATUS_SEQ_UNANCHORED : Field := ⟨729, .EVR_STATUS, 26, 1, .ro, 0, 0, 1⟩
def Field.EVR_STATUS_STAGE_MISS : Field := ⟨730, .EVR_STATUS, 25, 1, .w1c, 0, 0, 1⟩
def Field.EVR_STATUS_FREEZE_REFUSED : Field := ⟨731, .EVR_STATUS, 24, 1, .w1c, 0, 0, 1⟩
def Field.EVR_STATUS_FREEZE_OWNER : Field := ⟨732, .EVR_STATUS, 20, 4, .ro, 0xf, 0, 15⟩
def Field.EVR_CTRL_FLUSH : Field := ⟨733, .EVR_CTRL, 31, 1, .w1s, 0, 0, 1⟩
def Field.EVR_CTRL_FREEZE : Field := ⟨734, .EVR_CTRL, 30, 1, .w1s, 0, 0, 1⟩
def Field.EVR_CTRL_THAW : Field := ⟨735, .EVR_CTRL, 29, 1, .w1s, 0, 0, 1⟩
def Field.EVR_CTRL_INT_SEV : Field := ⟨736, .EVR_CTRL, 0, 3, .rw, 3, 0, 4⟩
def Field.EVR_NEXT_SEQ : Field := ⟨737, .EVR_NEXT_SEQ, 0, 32, .ro, 0, 0, 0xffffffff⟩
def Field.EVR_HEAD : Field := ⟨738, .EVR_HEAD, 0, 32, .ro, 0, 0, 0xffffffff⟩
def Field.EVR_OLDEST : Field := ⟨739, .EVR_OLDEST, 0, 32, .ro, 0, 0, 0xffffffff⟩
def Field.EVR_STAGED_SEVERE : Field := ⟨740, .EVR_STAGED, 16, 13, .ro, 0, 0, 8191⟩
def Field.EVR_STAGED_RECORDS : Field := ⟨741, .EVR_STAGED, 0, 13, .ro, 0, 0, 8191⟩
def Field.EVR_FREEZE_LEFT : Field := ⟨742, .EVR_FREEZE_LEFT, 0, 32, .ro, 0, 0, 0xffffffff⟩
def Field.EVR_LAST_FLUSH : Field := ⟨743, .EVR_LAST_FLUSH, 0, 32, .ro, 0, 0, 0xffffffff⟩
def Field.EVR_STAGE_SEQ : Field := ⟨744, .EVR_STAGE_SEQ, 0, 32, .rw, 0, 0, 0xffffffff⟩
def Field.EVR_STAGE_RELEASE : Field := ⟨745, .EVR_STAGE_RELEASE, 0, 32, .rw, 0, 0, 0xffffffff⟩
def Field.EVR_STAGE_DATA : Field := ⟨746, .EVR_STAGE_DATA, 0, 32, .ro, 0, 0, 0xffffffff⟩
def Field.EVR_LOST_PEND : Field := ⟨747, .EVR_LOST_PEND, 0, 32, .ro, 0, 0, 0xffffffff⟩
def Field.PMC_CTRL_SNAP : Field := ⟨748, .PMC_CTRL, 3, 1, .w1s, 0, 0, 1⟩
def Field.PMC_CTRL_CLR_ALL : Field := ⟨749, .PMC_CTRL, 2, 1, .w1s, 0, 0, 1⟩
def Field.PMC_CTRL_STOP_ALL : Field := ⟨750, .PMC_CTRL, 1, 1, .w1s, 0, 0, 1⟩
def Field.PMC_CTRL_START_ALL : Field := ⟨751, .PMC_CTRL, 0, 1, .w1s, 0, 0, 1⟩
def Field.PMC_BW_WINDOW : Field := ⟨752, .PMC_BW_WINDOW, 0, 32, .rw, 0xf4240, 1, 0x989680⟩
def Field.PMC_BW_CTRL_CLR_PEAK : Field := ⟨753, .PMC_BW_CTRL, 0, 1, .w1s, 0, 0, 1⟩
def Field.PMC_BW_SEQ : Field := ⟨754, .PMC_BW_SEQ, 0, 32, .ro, 0, 0, 0xffffffff⟩
def Field.PMC_CTL_CLR : Field := ⟨755, .PMC_CTL, 1, 1, .w1s, 0, 0, 1⟩
def Field.PMC_CTL_EN : Field := ⟨756, .PMC_CTL, 0, 1, .rw, 0, 0, 1⟩
def Field.PMC_OVF : Field := ⟨757, .PMC_OVF, 0, 8, .w1c, 0, 0, 255⟩
def Field.PMC_CYC_LO : Field := ⟨758, .PMC_CYC_LO, 0, 32, .ro, 0, 0, 0xffffffff⟩
def Field.PMC_CYC_HI : Field := ⟨759, .PMC_CYC_HI, 0, 32, .ro, 0, 0, 0xffffffff⟩
def Field.PMC_SEL_CHAIN : Field := ⟨760, .PMC_SEL, 31, 1, .rw, 0, 0, 1⟩
def Field.PMC_SEL_QUAL : Field := ⟨761, .PMC_SEL, 16, 8, .rw, 0xff, 0, 255⟩
def Field.PMC_SEL_EVENT : Field := ⟨762, .PMC_SEL, 0, 10, .rw, 0, 0, 1023⟩
def Field.PMC_CNT_LO : Field := ⟨763, .PMC_CNT_LO, 0, 32, .ro, 0, 0, 0xffffffff⟩
def Field.PMC_CNT_HI : Field := ⟨764, .PMC_CNT_HI, 0, 32, .ro, 0, 0, 0xffffffff⟩
def Field.PMC_SNAP_CYC_LO : Field := ⟨765, .PMC_SNAP_CYC_LO, 0, 32, .ro, 0, 0, 0xffffffff⟩
def Field.PMC_SNAP_CYC_HI : Field := ⟨766, .PMC_SNAP_CYC_HI, 0, 32, .ro, 0, 0, 0xffffffff⟩
def Field.PMC_SNAP_LO : Field := ⟨767, .PMC_SNAP_LO, 0, 32, .ro, 0, 0, 0xffffffff⟩
def Field.PMC_SNAP_HI : Field := ⟨768, .PMC_SNAP_HI, 0, 32, .ro, 0, 0, 0xffffffff⟩
def Field.PMC_BW_RX : Field := ⟨769, .PMC_BW_RX, 0, 32, .ro, 0, 0, 0xffffffff⟩
def Field.PMC_BW_TX : Field := ⟨770, .PMC_BW_TX, 0, 32, .ro, 0, 0, 0xffffffff⟩
def Field.PMC_BW_RX_PEAK : Field := ⟨771, .PMC_BW_RX_PEAK, 0, 32, .ro, 0, 0, 0xffffffff⟩
def Field.PMC_BW_TX_PEAK : Field := ⟨772, .PMC_BW_TX_PEAK, 0, 32, .ro, 0, 0, 0xffffffff⟩
def Field.CAL_TEMP_OFS : Field := ⟨773, .CAL_TEMP_OFS, 0, 12, .rw, 0, 0, 4095⟩
def Field.CAL_TEMP_GAIN : Field := ⟨774, .CAL_TEMP_GAIN, 0, 16, .rw, 0, 0, 65535⟩
def Field.CAL_VMON_GAIN : Field := ⟨775, .CAL_VMON_GAIN, 0, 16, .rw, 0, 0, 65535⟩
def Field.CAL_TBUS_DELAY : Field := ⟨776, .CAL_TBUS_DELAY, 0, 16, .rw, 0, 0, 65535⟩
def Field.CAL_TX_DELTA_PRE3 : Field := ⟨777, .CAL_TX_DELTA, 24, 6, .rw, 0, 0, 63⟩
def Field.CAL_TX_DELTA_PRE2 : Field := ⟨778, .CAL_TX_DELTA, 18, 6, .rw, 0, 0, 63⟩
def Field.CAL_TX_DELTA_PRE1 : Field := ⟨779, .CAL_TX_DELTA, 12, 6, .rw, 0, 0, 63⟩
def Field.CAL_TX_DELTA_MAIN : Field := ⟨780, .CAL_TX_DELTA, 6, 6, .rw, 0, 0, 63⟩
def Field.CAL_TX_DELTA_POST1 : Field := ⟨781, .CAL_TX_DELTA, 0, 6, .rw, 0, 0, 63⟩
def Field.CAL_TS_RX : Field := ⟨782, .CAL_TS_RX, 0, 16, .rw, 0, 0, 65535⟩
def Field.CAL_TS_TX : Field := ⟨783, .CAL_TS_TX, 0, 16, .rw, 0, 0, 65535⟩
def Field.CAL_HOLD_TRIM : Field := ⟨784, .CAL_HOLD_TRIM, 0, 8, .rw, 0, 0, 255⟩

/-- Where a register stands: `base + i * s1 + j * s2` for `i < n1`, `j < n2`.  `aliased` says that the first
index numbers aliases of one register (R201, R222, R223, R247, R249). -/
structure RegDesc where
  base : Nat
  s1 : Nat
  n1 : Nat
  s2 : Nat
  n2 : Nat
  aliased : Bool
  safety : Bool
  fields : List Field
  deriving Repr

/-- The catalogue (Tables 1-3 to 20-4). -/
def Reg.desc : Reg → RegDesc
  | .HLT_D2D_STATUS => ⟨0x10800, 0x40, 7, 0x1000000, 1, false, false,
     [.HLT_D2D_STATUS_BUNDLES, .HLT_D2D_STATUS_DIAG, .HLT_D2D_STATUS_STATE, .HLT_D2D_STATUS_SPARE_EXHAUSTED,
      .HLT_D2D_STATUS_RETRAINING]⟩
  | .HLT_D2D_SPARE_OUT => ⟨0x10804, 0x40, 7, 0x1000000, 1, false, false, [.HLT_D2D_SPARE_OUT_USED]⟩
  | .HLT_D2D_SPARE_IN => ⟨0x10808, 0x40, 7, 0x1000000, 1, false, false, [.HLT_D2D_SPARE_IN_USED]⟩
  | .HLT_D2D_CRC_ERR => ⟨0x1080C, 0x40, 7, 0x1000000, 1, false, false, [.HLT_D2D_CRC_ERR]⟩
  | .HLT_D2D_REPLAY => ⟨0x10810, 0x40, 7, 0x1000000, 1, false, false, [.HLT_D2D_REPLAY]⟩
  | .HLT_D2D_REPAIR => ⟨0x10814, 0x40, 7, 0x1000000, 1, false, false, [.HLT_D2D_REPAIR]⟩
  | .HLT_D2D_CTRL => ⟨0x10818, 0x40, 7, 0x1000000, 1, false, false, [.HLT_D2D_CTRL_CLR_CNT]⟩
  | .HLT_REGION_DISCARD => ⟨0x10A00, 0x4, 4, 0x1000000, 1, false, false, [.HLT_REGION_DISCARD]⟩
  | .CLK_STATUS => ⟨0x20000, 0x1000000, 1, 0x1000000, 1, false, false,
     [.CLK_STATUS_LANE_PLL_LOCK, .CLK_STATUS_ON_RING, .CLK_STATUS_ROOT_LOST, .CLK_STATUS_PCIE_REF_OK,
      .CLK_STATUS_REF_OK, .CLK_STATUS_ROOT_LOCK]⟩
  | .CLK_DIV => ⟨0x20004, 0x1000000, 1, 0x1000000, 1, false, false,
     [.CLK_DIV_BUSY, .CLK_DIV_COLLISION, .CLK_DIV_REFUSED, .CLK_DIV_CORE_HALF]⟩
  | .CLK_FREQ => ⟨0x20010, 0x4, 6, 0x1000000, 1, false, false, [.CLK_FREQ_FREQ_KHZ]⟩
  | .IMG_STATUS => ⟨0x90000, 0x1000000, 1, 0x1000000, 1, false, false,
     [.IMG_STATUS_BUSY, .IMG_STATUS_COLLISION, .IMG_STATUS_DIVERGED, .IMG_STATUS_DONE_OK, .IMG_STATUS_SECTION,
      .IMG_STATUS_REASON]⟩
  | .IMG_CMD => ⟨0x90004, 0x1000000, 1, 0x1000000, 1, false, false,
     [.IMG_CMD_GO, .IMG_CMD_SRC_HOST, .IMG_CMD_REGION_MASK, .IMG_CMD_SLOT, .IMG_CMD_OP]⟩
  | .IMG_SRC_LO => ⟨0x90008, 0x1000000, 1, 0x1000000, 1, false, false, [.IMG_SRC_LO]⟩
  | .IMG_SRC_HI => ⟨0x9000C, 0x1000000, 1, 0x1000000, 1, false, false, [.IMG_SRC_HI]⟩
  | .IMG_LEN => ⟨0x90010, 0x1000000, 1, 0x1000000, 1, false, false, [.IMG_LEN]⟩
  | .IMG_TRIAL_TIME => ⟨0x90014, 0x1000000, 1, 0x1000000, 1, false, false, [.IMG_TRIAL_TIME]⟩
  | .IMG_SLOT_STATE => ⟨0x90018, 0x1000000, 1, 0x1000000, 1, false, false,
     [.IMG_SLOT_STATE_FROM_SLOT, .IMG_SLOT_STATE_STARTED, .IMG_SLOT_STATE_STATES]⟩
  | .IMG_RUN_SERIAL => ⟨0x9001C, 0x1000000, 1, 0x1000000, 1, false, false, [.IMG_RUN_SERIAL]⟩
  | .IMG_OWNER_STATUS => ⟨0x90020, 0x1000000, 1, 0x1000000, 1, false, false, [.IMG_OWNER_STATUS_KEY_SET]⟩
  | .IMG_AMEND_COUNT => ⟨0x90024, 0x1000000, 1, 0x1000000, 1, false, false, [.IMG_AMEND_COUNT]⟩
  | .IMG_RUN_DIGEST => ⟨0x90040, 0x4, 12, 0x1000000, 1, false, false, [.IMG_RUN_DIGEST]⟩
  | .IMG_OWNER_HASH => ⟨0x90080, 0x4, 12, 0x1000000, 1, false, false, [.IMG_OWNER_HASH]⟩
  | .IMG_RELOAD_DISCARD => ⟨0x900C0, 0x4, 4, 0x1000000, 1, false, false, [.IMG_RELOAD_DISCARD]⟩
  | .CLK_RST_CAUSE => ⟨0x20100, 0x1000000, 1, 0x1000000, 1, false, false,
     [.CLK_RST_CAUSE_WINTER_BEFORE, .CLK_RST_CAUSE_CAUSE]⟩
  | .CLK_RST_CMD => ⟨0x20104, 0x1000000, 1, 0x1000000, 1, false, false, [.CLK_RST_CMD_KEY, .CLK_RST_CMD_FULL]⟩
  | .CLK_BOOT_STATUS => ⟨0x20108, 0x1000000, 1, 0x1000000, 1, false, false,
     [.CLK_BOOT_STATUS_PHASE, .CLK_BOOT_STATUS_FW_SLOT, .CLK_BOOT_STATUS_IMG_SOURCE, .CLK_BOOT_STATUS_FW_SOURCE,
      .CLK_BOOT_STATUS_STRAP]⟩
  | .CLK_POWER_CYCLES => ⟨0x2010C, 0x1000000, 1, 0x1000000, 1, false, false, [.CLK_POWER_CYCLES]⟩
  | .CLK_BOOT_FW_LO => ⟨0x20110, 0x1000000, 1, 0x1000000, 1, false, false, [.CLK_BOOT_FW_LO]⟩
  | .CLK_BOOT_FW_HI => ⟨0x20114, 0x1000000, 1, 0x1000000, 1, false, false, [.CLK_BOOT_FW_HI]⟩
  | .CLK_BOOT_FW_LEN => ⟨0x20118, 0x1000000, 1, 0x1000000, 1, false, false, [.CLK_BOOT_FW_LEN]⟩
  | .CLK_BOOT_FW_CMD => ⟨0x2011C, 0x1000000, 1, 0x1000000, 1, false, false,
     [.CLK_BOOT_FW_CMD_GO, .CLK_BOOT_FW_CMD_BUSY, .CLK_BOOT_FW_CMD_ERR, .CLK_BOOT_FW_CMD_REASON]⟩
  | .CLK_BOOT_TIME => ⟨0x20120, 0x1000000, 1, 0x1000000, 1, false, false, [.CLK_BOOT_TIME]⟩
  | .CLK_SPRING_DISCARD => ⟨0x20130, 0x4, 4, 0x1000000, 1, false, false, [.CLK_SPRING_DISCARD]⟩
  | .MAC_STATUS => ⟨0x800000, 0x2000, 128, 0x1000000, 1, false, false,
     [.MAC_STATUS_STORM, .MAC_STATUS_PAUSED, .MAC_STATUS_TX_LPI, .MAC_STATUS_RX_LPI, .MAC_STATUS_FLAP_ISOLATED,
      .MAC_STATUS_REMOTE_FAULT, .MAC_STATUS_LOCAL_FAULT, .MAC_STATUS_AN_DONE, .MAC_STATUS_PCS_LOCK,
      .MAC_STATUS_LINK_UP]⟩
  | .MAC_PORT_INFO => ⟨0x800004, 0x2000, 128, 0x1000000, 1, false, false,
     [.MAC_PORT_INFO_ROLE, .MAC_PORT_INFO_ISOLATED, .MAC_PORT_INFO_FEC_ACTIVE, .MAC_PORT_INFO_LANES,
      .MAC_PORT_INFO_MODE]⟩
  | .MAC_CTRL => ⟨0x800008, 0x2000, 128, 0x1000000, 1, false, true,
     [.MAC_CTRL_CLR_STATS, .MAC_CTRL_BCAST_DROP, .MAC_CTRL_FILTER_EN, .MAC_CTRL_PAUSE_MODE, .MAC_CTRL_TX_PAUSE_EN,
      .MAC_CTRL_RX_PAUSE_EN, .MAC_CTRL_EEE_EN, .MAC_CTRL_PORT_EN]⟩
  | .MAC_MAX_FRAME => ⟨0x80000C, 0x2000, 128, 0x1000000, 1, false, true, [.MAC_MAX_FRAME]⟩
  | .MAC_LINK_CTRL => ⟨0x800010, 0x2000, 128, 0x1000000, 1, false, false, [.MAC_LINK_CTRL_UP_DELAY]⟩
  | .MAC_FLAP_CTRL => ⟨0x800014, 0x2000, 128, 0x1000000, 1, false, false,
     [.MAC_FLAP_CTRL_HOLDOFF, .MAC_FLAP_CTRL_LIMIT]⟩
  | .MAC_PAUSE_TIMERS => ⟨0x800018, 0x2000, 128, 0x1000000, 1, false, false,
     [.MAC_PAUSE_TIMERS_RECOVERY, .MAC_PAUSE_TIMERS_WATCHDOG]⟩
  | .MAC_PFC_TX => ⟨0x80001C, 0x2000, 128, 0x1000000, 1, false, false, [.MAC_PFC_TX_REFRESH, .MAC_PFC_TX_QUANTA]⟩
  | .MAC_CLASS_MAP => ⟨0x800020, 0x2000, 128, 0x1000000, 1, false, false, [.MAC_CLASS_MAP_PFC_MAP]⟩
  | .MAC_TXQ_MAP => ⟨0x800024, 0x2000, 128, 0x1000000, 1, false, true, [.MAC_TXQ_MAP_CTRL_TC, .MAC_TXQ_MAP_QMAP]⟩
  | .MAC_EEE_CTRL => ⟨0x800028, 0x2000, 128, 0x1000000, 1, false, false,
     [.MAC_EEE_CTRL_PTP_GUARD, .MAC_EEE_CTRL_IDLE]⟩
  | .MAC_EEE_STATUS => ⟨0x80002C, 0x2000, 128, 0x1000000, 1, false, false,
     [.MAC_EEE_STATUS_TW_SYS_TX, .MAC_EEE_STATUS_NEGOTIATED, .MAC_EEE_STATUS_CAPABLE, .MAC_EEE_STATUS_BLOCKED]⟩
  | .MAC_SA_LO => ⟨0x800030, 0x2000, 128, 0x1000000, 1, false, false, [.MAC_SA_LO]⟩
  | .MAC_SA_HI => ⟨0x800034, 0x2000, 128, 0x1000000, 1, false, false, [.MAC_SA_HI]⟩
  | .MAC_MCAST_FILTER => ⟨0x800040, 0x2000, 128, 0x4, 16, false, false, [.MAC_MCAST_FILTER]⟩
  | .MAC_STAT_HALF => ⟨0x800080, 0x2000, 128, 0x4, 3, false, false, [.MAC_STAT_HALF]⟩
  | .MAC_STAT_INT_EN => ⟨0x800090, 0x2000, 128, 0x4, 3, false, false, [.MAC_STAT_INT_EN]⟩
  | .MAC_STAT_LO => ⟨0x800400, 0x2000, 128, 0x8, 85, false, false, []⟩
  | .MAC_STAT_HI => ⟨0x800404, 0x2000, 128, 0x8, 85, false, false, []⟩
  | .LANE_STATUS => ⟨0x900000, 0x800, 128, 0x1000000, 1, false, false,
     [.LANE_STATUS_ISOLATED, .LANE_STATUS_ELIGIBLE, .LANE_STATUS_RX_LPI, .LANE_STATUS_SIGNAL, .LANE_STATUS_CDR_LOCK,
      .LANE_STATUS_TAPPED, .LANE_STATUS_PERMANENT, .LANE_STATUS_SLICE]⟩
  | .LANE_CTRL => ⟨0x900004, 0x800, 128, 0x1000000, 1, false, false, [.LANE_CTRL_CLR_CNT, .LANE_CTRL_ROTATE_EN]⟩
  | .LANE_LAT_OFFSET => ⟨0x900008, 0x800, 128, 0x1000000, 1, false, false, [.LANE_LAT_OFFSET]⟩
  | .LANE_CAL_TEMP => ⟨0x90000C, 0x800, 128, 0x1000000, 1, false, false, [.LANE_CAL_TEMP]⟩
  | .LANE_CAL_AGE => ⟨0x900010, 0x800, 128, 0x1000000, 1, false, false, [.LANE_CAL_AGE]⟩
  | .LANE_VERIFY_SYMBOLS => ⟨0x900014, 0x800, 128, 0x1000000, 1, false, false, [.LANE_VERIFY_SYMBOLS_LOG2]⟩
  | .LANE_VERIFY_LIMIT => ⟨0x900018, 0x800, 128, 0x1000000, 1, false, false, [.LANE_VERIFY_LIMIT]⟩
  | .LANE_TX_FACTORY => ⟨0x90001C, 0x800, 128, 0x1000000, 1, false, false,
     [.LANE_TX_FACTORY_PRE3, .LANE_TX_FACTORY_PRE2, .LANE_TX_FACTORY_PRE1, .LANE_TX_FACTORY_MAIN,
      .LANE_TX_FACTORY_POST1]⟩
  | .LANE_TX_EFF => ⟨0x900020, 0x800, 128, 0x1000000, 1, false, false,
     [.LANE_TX_EFF_PRE3, .LANE_TX_EFF_PRE2, .LANE_TX_EFF_PRE1, .LANE_TX_EFF_MAIN, .LANE_TX_EFF_POST1]⟩
  | .LANE_RX_EQ => ⟨0x900024, 0x800, 128, 0x1000000, 1, false, false,
     [.LANE_RX_EQ_CTLE, .LANE_RX_EQ_DFE1, .LANE_RX_EQ_DFE2]⟩
  | .LANE_SWAPS => ⟨0x900040, 0x800, 128, 0x1000000, 1, false, false, [.LANE_SWAPS]⟩
  | .LANE_ABANDONED => ⟨0x900044, 0x800, 128, 0x1000000, 1, false, false, [.LANE_ABANDONED]⟩
  | .LANE_UNDECIDED => ⟨0x900048, 0x800, 128, 0x1000000, 1, false, false, [.LANE_UNDECIDED]⟩
  | .LANE_LAST_MISMATCH => ⟨0x90004C, 0x800, 128, 0x1000000, 1, false, false, [.LANE_LAST_MISMATCH]⟩
  | .SHADOW_STATUS => ⟨0x940000, 0x800, 32, 0x1000000, 1, false, false,
     [.SHADOW_STATUS_ADVANCED, .SHADOW_STATUS_RETRY, .SHADOW_STATUS_SPARE_USED, .SHADOW_STATUS_SLICE,
      .SHADOW_STATUS_TARGET, .SHADOW_STATUS_PHASE]⟩
  | .SHADOW_CTRL => ⟨0x940004, 0x800, 32, 0x1000000, 1, false, false,
     [.SHADOW_CTRL_TURN_NOW, .SHADOW_CTRL_CLR_CNT, .SHADOW_CTRL_ROTATE_EN]⟩
  | .SHADOW_INTERVAL => ⟨0x940008, 0x800, 32, 0x1000000, 1, false, false, [.SHADOW_INTERVAL]⟩
  | .SHADOW_TEMP_DELTA => ⟨0x94000C, 0x800, 32, 0x1000000, 1, false, false, [.SHADOW_TEMP_DELTA]⟩
  | .SHADOW_ADAPT_MAX => ⟨0x940010, 0x800, 32, 0x1000000, 1, false, false, [.SHADOW_ADAPT_MAX]⟩
  | .SHADOW_TURNS => ⟨0x940014, 0x800, 32, 0x1000000, 1, false, false, [.SHADOW_TURNS]⟩
  | .SHADOW_FAILS => ⟨0x940018, 0x800, 32, 0x1000000, 1, false, false, [.SHADOW_FAILS]⟩
  | .SHADOW_RETIRED => ⟨0x94001C, 0x800, 32, 0x1000000, 1, false, false,
     [.SHADOW_RETIRED_CAUSE, .SHADOW_RETIRED_LANE, .SHADOW_RETIRED_SLICE]⟩
  | .PRS_STATUS => ⟨0x100000, 0x100000, 4, 0x1000000, 1, false, false,
     [.PRS_STATUS_NODES, .PRS_STATUS_REWRITING, .PRS_STATUS_FAULT, .PRS_STATUS_READY]⟩
  | .PRS_CTRL => ⟨0x100004, 0x100000, 4, 0x1000000, 1, false, false, [.PRS_CTRL_CLR_LAST, .PRS_CTRL_CLR_CNT]⟩
  | .PRS_LAST_ERR => ⟨0x100010, 0x100000, 4, 0x1000000, 1, false, false,
     [.PRS_LAST_ERR_REASON, .PRS_LAST_ERR_PASS, .PRS_LAST_ERR_NODE, .PRS_LAST_ERR_HDR_INDEX, .PRS_LAST_ERR_PORT]⟩
  | .PRS_LAST_ERR_AT => ⟨0x100014, 0x100000, 4, 0x1000000, 1, false, false,
     [.PRS_LAST_ERR_AT_FRAME_LEN, .PRS_LAST_ERR_AT_OFFSET]⟩
  | .PRS_PORT_CFG => ⟨0x100100, 0x100000, 4, 0x4, 33, false, true, [.PRS_PORT_CFG_DEFAULT_ACTION]⟩
  | .PRS_CNT_LO => ⟨0x100200, 0x100000, 4, 0x8, 15, false, false, []⟩
  | .PRS_CNT_HI => ⟨0x100204, 0x100000, 4, 0x8, 15, false, false, []⟩
  | .PRS_PORT_ERR_LO => ⟨0x100400, 0x100000, 4, 0x8, 33, false, false, []⟩
  | .PRS_PORT_ERR_HI => ⟨0x100404, 0x100000, 4, 0x8, 33, false, false, []⟩
  | .TBL_STATUS => ⟨0x102000, 0x100000, 4, 0x1000000, 1, true, false,
     [.TBL_STATUS_ENGINE_SPARE_USED, .TBL_STATUS_AGEING, .TBL_STATUS_LEARN_BACKLOG, .TBL_STATUS_READY]⟩
  | .TBL_CTRL => ⟨0x102004, 0x100000, 4, 0x1000000, 1, true, false, [.TBL_CTRL_CLR_LAST, .TBL_CTRL_CLR_CNT]⟩
  | .TBL_AGE_TIME => ⟨0x102008, 0x100000, 4, 0x1000000, 1, true, false, [.TBL_AGE_TIME]⟩
  | .TBL_L2_COUNT => ⟨0x10200C, 0x100000, 4, 0x1000000, 1, true, false, [.TBL_L2_COUNT]⟩
  | .TBL_L2_CAPACITY => ⟨0x102010, 0x100000, 4, 0x1000000, 1, true, false, [.TBL_L2_CAPACITY]⟩
  | .TBL_LPM4_COUNT => ⟨0x102014, 0x100000, 4, 0x1000000, 1, true, false, [.TBL_LPM4_COUNT]⟩
  | .TBL_LPM6_COUNT => ⟨0x102018, 0x100000, 4, 0x1000000, 1, true, false, [.TBL_LPM6_COUNT]⟩
  | .TBL_LPM4_USED => ⟨0x10201C, 0x100000, 4, 0x1000000, 1, true, false, [.TBL_LPM4_USED]⟩
  | .TBL_LPM6_USED => ⟨0x102020, 0x100000, 4, 0x1000000, 1, true, false, [.TBL_LPM6_USED]⟩
  | .TBL_LAST_PARITY => ⟨0x102024, 0x100000, 4, 0x1000000, 1, true, false,
     [.TBL_LAST_PARITY_TABLE, .TBL_LAST_PARITY_REGION, .TBL_LAST_PARITY_WORD]⟩
  | .TBL_SPARES_USED => ⟨0x102028, 0x100000, 4, 0x1000000, 1, true, false, [.TBL_SPARES_USED]⟩
  | .TBL_HASH_SEED => ⟨0x102040, 0x100000, 4, 0x4, 8, true, false, [.TBL_HASH_SEED]⟩
  | .TBL_SCNT_LO => ⟨0x102080, 0x100000, 4, 0x8, 8, true, false, []⟩
  | .TBL_SCNT_HI => ⟨0x102084, 0x100000, 4, 0x8, 8, true, false, []⟩
  | .TBL_RING_BASE_LO => ⟨0x102100, 0x100000, 4, 0x1000000, 1, false, false,
     [.TBL_RING_BASE_LO, .TBL_RING_BASE_LO_ALIGN]⟩
  | .TBL_RING_BASE_HI => ⟨0x102104, 0x100000, 4, 0x1000000, 1, false, false, [.TBL_RING_BASE_HI]⟩
  | .TBL_RING_SIZE => ⟨0x102108, 0x100000, 4, 0x1000000, 1, false, false, [.TBL_RING_SIZE]⟩
  | .TBL_RING_TAIL => ⟨0x10210C, 0x100000, 4, 0x1000000, 1, false, false, [.TBL_RING_TAIL]⟩
  | .TBL_RING_HEAD => ⟨0x102110, 0x100000, 4, 0x1000000, 1, false, false, [.TBL_RING_HEAD]⟩
  | .TBL_RING_STATUS => ⟨0x102114, 0x100000, 4, 0x1000000, 1, false, false,
     [.TBL_RING_STATUS_HALTED, .TBL_RING_STATUS_ENABLED, .TBL_RING_STATUS_HALT_INDEX]⟩
  | .TBL_RING_CTRL => ⟨0x102118, 0x100000, 4, 0x1000000, 1, false, false,
     [.TBL_RING_CTRL_RESTART, .TBL_RING_CTRL_ENABLE]⟩
  | .TBL_HOST_PROFILE => ⟨0x10211C, 0x100000, 4, 0x1000000, 1, false, false, [.TBL_HOST_PROFILE]⟩
  | .TBL_PORT_CFG => ⟨0x102200, 0x100000, 4, 0x4, 32, false, true,
     [.TBL_PORT_CFG_KEY_PROFILE, .TBL_PORT_CFG_PVID, .TBL_PORT_CFG_LOCKED, .TBL_PORT_CFG_LEARN_EN]⟩
  | .TBL_PORT_LEARN_LIMIT => ⟨0x102300, 0x100000, 4, 0x4, 32, false, false, [.TBL_PORT_LEARN_LIMIT]⟩
  | .TBL_RCNT_LO => ⟨0x102400, 0x100000, 4, 0x8, 9, false, false, []⟩
  | .TBL_RCNT_HI => ⟨0x102404, 0x100000, 4, 0x8, 9, false, false, []⟩
  | .TCM_STATUS => ⟨0x104000, 0x100000, 4, 0x1000000, 1, true, false,
     [.TCM_STATUS_HARD_FAULT, .TCM_STATUS_MOVING, .TCM_STATUS_READY]⟩
  | .TCM_CTRL => ⟨0x104004, 0x100000, 4, 0x1000000, 1, true, false, [.TCM_CTRL_CLR_LOST, .TCM_CTRL_CLR_CNT]⟩
  | .TCM_SCAN_LAST => ⟨0x104008, 0x100000, 4, 0x1000000, 1, true, false, [.TCM_SCAN_LAST]⟩
  | .TCM_LAST_FAULT => ⟨0x10400C, 0x100000, 4, 0x1000000, 1, true, false,
     [.TCM_LAST_FAULT_KIND, .TCM_LAST_FAULT_ADDR]⟩
  | .TCM_MOVE_STATUS => ⟨0x104010, 0x100000, 4, 0x1000000, 1, true, false,
     [.TCM_MOVE_STATUS_ACTIVE, .TCM_MOVE_STATUS_PARTITION, .TCM_MOVE_STATUS_STEPS]⟩
  | .TCM_BANK_FAULT_LO => ⟨0x104014, 0x100000, 4, 0x1000000, 1, true, false, [.TCM_BANK_FAULT_LO]⟩
  | .TCM_BANK_FAULT_HI => ⟨0x104018, 0x100000, 4, 0x1000000, 1, true, false, [.TCM_BANK_FAULT_HI]⟩
  | .TCM_SCNT_LO => ⟨0x104080, 0x100000, 4, 0x8, 4, true, false, []⟩
  | .TCM_SCNT_HI => ⟨0x104084, 0x100000, 4, 0x8, 4, true, false, []⟩
  | .TCM_PART_INFO => ⟨0x104100, 0x100000, 4, 0x4, 64, true, false,
     [.TCM_PART_INFO_DEFINED, .TCM_PART_INFO_LOST, .TCM_PART_INFO_REGION_MASK, .TCM_PART_INFO_MODE,
      .TCM_PART_INFO_WIDTH, .TCM_PART_INFO_BANKS, .TCM_PART_INFO_FIRST_BANK]⟩
  | .TCM_PART_USED => ⟨0x104200, 0x100000, 4, 0x4, 64, true, false, [.TCM_PART_USED]⟩
  | .TCM_RING_BASE_LO => ⟨0x104300, 0x100000, 4, 0x1000000, 1, false, false,
     [.TCM_RING_BASE_LO, .TCM_RING_BASE_LO_ALIGN]⟩
  | .TCM_RING_BASE_HI => ⟨0x104304, 0x100000, 4, 0x1000000, 1, false, false, [.TCM_RING_BASE_HI]⟩
  | .TCM_RING_SIZE => ⟨0x104308, 0x100000, 4, 0x1000000, 1, false, false, [.TCM_RING_SIZE]⟩
  | .TCM_RING_TAIL => ⟨0x10430C, 0x100000, 4, 0x1000000, 1, false, false, [.TCM_RING_TAIL]⟩
  | .TCM_RING_HEAD => ⟨0x104310, 0x100000, 4, 0x1000000, 1, false, false, [.TCM_RING_HEAD]⟩
  | .TCM_RING_STATUS => ⟨0x104314, 0x100000, 4, 0x1000000, 1, false, false,
     [.TCM_RING_STATUS_HALTED, .TCM_RING_STATUS_ENABLED, .TCM_RING_STATUS_HALT_INDEX]⟩
  | .TCM_RING_CTRL => ⟨0x104318, 0x100000, 4, 0x1000000, 1, false, false,
     [.TCM_RING_CTRL_RESTART, .TCM_RING_CTRL_ENABLE]⟩
  | .TCM_RCNT_LO => ⟨0x104400, 0x100000, 4, 0x8, 3, false, false, []⟩
  | .TCM_RCNT_HI => ⟨0x104404, 0x100000, 4, 0x8, 3, false, false, []⟩
  | .AUT_STATUS => ⟨0x106000, 0x100000, 4, 0x1000000, 1, false, false,
     [.AUT_STATUS_QUEUE, .AUT_STATUS_SPARE_FOR, .AUT_STATUS_FAULT, .AUT_STATUS_SPARE_USED, .AUT_STATUS_READY]⟩
  | .AUT_CTRL => ⟨0x106004, 0x100000, 4, 0x1000000, 1, false, false, [.AUT_CTRL_CLR_CNT]⟩
  | .AUT_QUEUE_LIMIT => ⟨0x106008, 0x100000, 4, 0x1000000, 1, false, false, [.AUT_QUEUE_LIMIT]⟩
  | .AUT_LAST_FAULT => ⟨0x10600C, 0x100000, 4, 0x1000000, 1, false, false,
     [.AUT_LAST_FAULT_KIND, .AUT_LAST_FAULT_ENGINE, .AUT_LAST_FAULT_WORD]⟩
  | .AUT_FLOW_TYPES => ⟨0x106010, 0x100000, 4, 0x1000000, 1, true, false,
     [.AUT_FLOW_TYPES_TCP, .AUT_FLOW_TYPES_IP6, .AUT_FLOW_TYPES_IP4]⟩
  | .AUT_FLOW_IDLE => ⟨0x106014, 0x100000, 4, 0x1000000, 1, true, false, [.AUT_FLOW_IDLE]⟩
  | .AUT_FLOW_COUNT => ⟨0x106018, 0x100000, 4, 0x1000000, 1, true, false, [.AUT_FLOW_COUNT]⟩
  | .AUT_CNT_LO => ⟨0x106040, 0x100000, 4, 0x8, 10, false, false, []⟩
  | .AUT_CNT_HI => ⟨0x106044, 0x100000, 4, 0x8, 10, false, false, []⟩
  | .ACT_CTRL => ⟨0x108000, 0x100000, 4, 0x1000000, 1, true, false, [.ACT_CTRL_TTL_ACTION, .ACT_CTRL_CLR_CNT]⟩
  | .ACT_TPID => ⟨0x108004, 0x100000, 4, 0x1000000, 1, true, false, [.ACT_TPID]⟩
  | .ACT_ROUTER_MAC_LO => ⟨0x108008, 0x100000, 4, 0x1000000, 1, true, false, [.ACT_ROUTER_MAC_LO]⟩
  | .ACT_ROUTER_MAC_HI => ⟨0x10800C, 0x100000, 4, 0x1000000, 1, true, false, [.ACT_ROUTER_MAC_HI]⟩
  | .ACT_CAP_CTRL => ⟨0x108010, 0x100000, 4, 0x1000000, 1, true, false,
     [.ACT_CAP_CTRL_HOST_STOPPED, .ACT_CAP_CTRL_TARGET, .ACT_CAP_CTRL_ENABLE]⟩
  | .ACT_CAP_RATE => ⟨0x108014, 0x100000, 4, 0x1000000, 1, true, false, [.ACT_CAP_RATE]⟩
  | .ACT_CAP_HOST_LO => ⟨0x108018, 0x100000, 4, 0x1000000, 1, true, false, [.ACT_CAP_HOST_LO, .ACT_CAP_HOST_LO_ALIGN]⟩
  | .ACT_CAP_HOST_HI => ⟨0x10801C, 0x100000, 4, 0x1000000, 1, true, false, [.ACT_CAP_HOST_HI]⟩
  | .ACT_CAP_HOST_LOG2 => ⟨0x108020, 0x100000, 4, 0x1000000, 1, true, false, [.ACT_CAP_HOST_LOG2]⟩
  | .ACT_CAP_RECORDS => ⟨0x108024, 0x100000, 4, 0x1000000, 1, true, false, [.ACT_CAP_RECORDS]⟩
  | .ACT_CAP_HEAD_LO => ⟨0x108028, 0x100000, 4, 0x1000000, 1, true, false, [.ACT_CAP_HEAD_LO]⟩
  | .ACT_CAP_HEAD_HI => ⟨0x10802C, 0x100000, 4, 0x1000000, 1, true, false, [.ACT_CAP_HEAD_HI]⟩
  | .ACT_CAP_WRAPS => ⟨0x108030, 0x100000, 4, 0x1000000, 1, true, false, [.ACT_CAP_WRAPS]⟩
  | .ACT_CAP_LOST_LO => ⟨0x108038, 0x100000, 4, 0x1000000, 1, true, false, []⟩
  | .ACT_CAP_LOST_HI => ⟨0x10803C, 0x100000, 4, 0x1000000, 1, true, false, []⟩
  | .ACT_NH_CAPACITY => ⟨0x108100, 0x100000, 4, 0x1000000, 1, false, false, [.ACT_NH_CAPACITY]⟩
  | .ACT_DSCP_COLOUR => ⟨0x108110, 0x100000, 4, 0x4, 4, false, false, [.ACT_DSCP_COLOUR]⟩
  | .ACT_CNT_LO => ⟨0x108200, 0x100000, 4, 0x8, 9, false, false, []⟩
  | .ACT_CNT_HI => ⟨0x108204, 0x100000, 4, 0x8, 9, false, false, []⟩
  | .MTR_STATUS => ⟨0x10A000, 0x100000, 4, 0x1000000, 1, false, false, [.MTR_STATUS_READY, .MTR_STATUS_BANK_FAULT]⟩
  | .MTR_CTRL => ⟨0x10A004, 0x100000, 4, 0x1000000, 1, false, false, [.MTR_CTRL_CLR_CNT]⟩
  | .MTR_LAST_FAULT => ⟨0x10A008, 0x100000, 4, 0x1000000, 1, false, false,
     [.MTR_LAST_FAULT_KIND, .MTR_LAST_FAULT_METER]⟩
  | .MTR_CNT_LO => ⟨0x10A100, 0x100000, 4, 0x8, 5, false, false, []⟩
  | .MTR_CNT_HI => ⟨0x10A104, 0x100000, 4, 0x8, 5, false, false, []⟩
  | .MIR_CFG => ⟨0x10C000, 0x100000, 4, 0x8, 16, true, false,
     [.MIR_CFG_EN, .MIR_CFG_TYPE, .MIR_CFG_TC, .MIR_CFG_SAMPLE_LOG2, .MIR_CFG_TRUNC]⟩
  | .MIR_DEST => ⟨0x10C004, 0x100000, 4, 0x8, 16, true, false, [.MIR_DEST]⟩
  | .MIR_COPIES_LO => ⟨0x10C100, 0x100000, 4, 0x10, 16, true, false, []⟩
  | .MIR_COPIES_HI => ⟨0x10C104, 0x100000, 4, 0x10, 16, true, false, []⟩
  | .MIR_SKIPPED_LO => ⟨0x10C108, 0x100000, 4, 0x10, 16, true, false, []⟩
  | .MIR_SKIPPED_HI => ⟨0x10C10C, 0x100000, 4, 0x10, 16, true, false, []⟩
  | .MIR_CTRL => ⟨0x10C200, 0x100000, 4, 0x1000000, 1, true, false, [.MIR_CTRL_CLR_CNT]⟩
  | .BUF_STATUS => ⟨0x500000, 0x1000000, 1, 0x1000000, 1, false, false,
     [.BUF_STATUS_POOL_LOW, .BUF_STATUS_FROZEN, .BUF_STATUS_LINK_MEM_FAULT, .BUF_STATUS_SPARE_USED,
      .BUF_STATUS_CFG_REFUSED, .BUF_STATUS_READY]⟩
  | .BUF_CTRL => ⟨0x500004, 0x1000000, 1, 0x1000000, 1, false, false, [.BUF_CTRL_CLR_PEAK, .BUF_CTRL_CLR_CNT]⟩
  | .BUF_FREE_CELLS => ⟨0x500008, 0x1000000, 1, 0x1000000, 1, false, false, [.BUF_FREE_CELLS]⟩
  | .BUF_ARRIVAL_RESERVE => ⟨0x50000C, 0x1000000, 1, 0x1000000, 1, false, true, [.BUF_ARRIVAL_RESERVE]⟩
  | .BUF_SHARED_SIZE => ⟨0x500010, 0x1000000, 1, 0x1000000, 1, false, false, [.BUF_SHARED_SIZE]⟩
  | .BUF_SHARED_USED => ⟨0x500014, 0x1000000, 1, 0x1000000, 1, false, false, [.BUF_SHARED_USED]⟩
  | .BUF_DESC_FREE => ⟨0x500018, 0x1000000, 1, 0x1000000, 1, false, false, [.BUF_DESC_FREE]⟩
  | .BUF_LAST_ECC => ⟨0x50001C, 0x1000000, 1, 0x1000000, 1, false, false,
     [.BUF_LAST_ECC_KIND, .BUF_LAST_ECC_MEMORY, .BUF_LAST_ECC_BANK, .BUF_LAST_ECC_WORD]⟩
  | .BUF_SPARES_USED => ⟨0x500020, 0x1000000, 1, 0x1000000, 1, false, false, [.BUF_SPARES_USED]⟩
  | .BUF_RETIRED_CELLS => ⟨0x500024, 0x1000000, 1, 0x1000000, 1, false, false, [.BUF_RETIRED_CELLS]⟩
  | .BUF_PEAK_USED => ⟨0x500028, 0x1000000, 1, 0x1000000, 1, false, false, [.BUF_PEAK_USED]⟩
  | .BUF_CNT_LO => ⟨0x500080, 0x8, 9, 0x1000000, 1, false, false, []⟩
  | .BUF_CNT_HI => ⟨0x500084, 0x8, 9, 0x1000000, 1, false, false, []⟩
  | .QUE_PORT_STATUS => ⟨0x510000, 0x400, 135, 0x1000000, 1, false, false,
     [.QUE_PORT_STATUS_DOWN_HOLD, .QUE_PORT_STATUS_EXPIRED, .QUE_PORT_STATUS_PFC_XOFF, .QUE_PORT_STATUS_NONEMPTY]⟩
  | .QUE_PORT_CFG => ⟨0x510004, 0x400, 135, 0x1000000, 1, false, true,
     [.QUE_PORT_CFG_CLR_CNT, .QUE_PORT_CFG_MC_MAP, .QUE_PORT_CFG_MC_TC1, .QUE_PORT_CFG_MC_TC0]⟩
  | .QUE_PORT_SHAPER => ⟨0x510008, 0x400, 135, 0x1000000, 1, false, false,
     [.QUE_PORT_SHAPER_BURST, .QUE_PORT_SHAPER_RATE]⟩
  | .QUE_FLAP_LEFT => ⟨0x51000C, 0x400, 135, 0x1000000, 1, false, false, [.QUE_FLAP_LEFT]⟩
  | .QUE_TC_CFG => ⟨0x510040, 0x400, 135, 0x4, 8, false, false, [.QUE_TC_CFG_ALPHA, .QUE_TC_CFG_MIN]⟩
  | .QUE_TC_SHAPER => ⟨0x510060, 0x400, 135, 0x4, 8, false, false, [.QUE_TC_SHAPER_BURST, .QUE_TC_SHAPER_RATE]⟩
  | .QUE_TC_ECN => ⟨0x510080, 0x400, 135, 0x4, 8, false, false, [.QUE_TC_ECN_ECN_MAX, .QUE_TC_ECN_ECN_MIN]⟩
  | .QUE_TC_PFC => ⟨0x5100A0, 0x400, 135, 0x4, 8, false, true, [.QUE_TC_PFC_HEADROOM, .QUE_TC_PFC_XOFF]⟩
  | .QUE_DEPTH => ⟨0x5100C0, 0x400, 135, 0x4, 10, false, false, [.QUE_DEPTH]⟩
  | .QUE_INGRESS_DEPTH => ⟨0x5100F0, 0x400, 135, 0x4, 8, false, false, [.QUE_INGRESS_DEPTH]⟩
  | .QUE_QCNT_LO => ⟨0x510200, 0x400, 135, 0x8, 40, false, false, []⟩
  | .QUE_QCNT_HI => ⟨0x510204, 0x400, 135, 0x8, 40, false, false, []⟩
  | .QUE_PCNT_LO => ⟨0x510380, 0x400, 135, 0x8, 8, false, false, []⟩
  | .QUE_PCNT_HI => ⟨0x510384, 0x400, 135, 0x8, 8, false, false, []⟩
  | .HLD_STATUS => ⟨0x600000, 0x1000000, 1, 0x1000000, 1, false, false,
     [.HLD_STATUS_MOUNTED, .HLD_STATUS_OUT_OF_SERVICE, .HLD_STATUS_FROZEN, .HLD_STATUS_WEAR_MARGIN,
      .HLD_STATUS_META_LOST, .HLD_STATUS_SWEEPING, .HLD_STATUS_SWAPPING, .HLD_STATUS_SCRUBBING,
      .HLD_STATUS_BASE_FAILED, .HLD_STATUS_FAILED_DIES]⟩
  | .HLD_CTRL => ⟨0x600004, 0x1000000, 1, 0x1000000, 1, false, false, [.HLD_CTRL_SWEEP, .HLD_CTRL_CLR_CNT]⟩
  | .HLD_FORMAT => ⟨0x600008, 0x1000000, 1, 0x1000000, 1, false, false,
     [.HLD_FORMAT_BUSY, .HLD_FORMAT_COLLISION, .HLD_FORMAT_REFUSED, .HLD_FORMAT_KEY, .HLD_FORMAT_CAP_GIB]⟩
  | .HLD_FREE_PAGES => ⟨0x60000C, 0x1000000, 1, 0x1000000, 1, false, false, [.HLD_FREE_PAGES]⟩
  | .HLD_HELD_PAGES => ⟨0x600010, 0x1000000, 1, 0x1000000, 1, false, false, [.HLD_HELD_PAGES]⟩
  | .HLD_HELD_FIRST => ⟨0x600014, 0x1000000, 1, 0x1000000, 1, false, false, [.HLD_HELD_FIRST]⟩
  | .HLD_CAP_PAGES => ⟨0x600018, 0x1000000, 1, 0x1000000, 1, false, false, [.HLD_CAP_PAGES]⟩
  | .HLD_DRAIN_LOW => ⟨0x60001C, 0x1000000, 1, 0x1000000, 1, false, false, [.HLD_DRAIN_LOW]⟩
  | .HLD_SCRUB_HOURS => ⟨0x600020, 0x1000000, 1, 0x1000000, 1, false, false, [.HLD_SCRUB_HOURS]⟩
  | .HLD_GAP_INTERVAL => ⟨0x600024, 0x1000000, 1, 0x1000000, 1, false, false, [.HLD_GAP_INTERVAL]⟩
  | .HLD_ZONE_SWAP_DELTA => ⟨0x600028, 0x1000000, 1, 0x1000000, 1, false, false, [.HLD_ZONE_SWAP_DELTA]⟩
  | .HLD_PF2_RATE => ⟨0x60002C, 0x1000000, 1, 0x1000000, 1, false, false, [.HLD_PF2_RATE]⟩
  | .HLD_WEAR_MAX => ⟨0x600030, 0x1000000, 1, 0x1000000, 1, false, false, [.HLD_WEAR_MAX]⟩
  | .HLD_WEAR_MEAN => ⟨0x600034, 0x1000000, 1, 0x1000000, 1, false, false, [.HLD_WEAR_MEAN]⟩
  | .HLD_LAST_FAULT => ⟨0x600038, 0x1000000, 1, 0x1000000, 1, false, false,
     [.HLD_LAST_FAULT_KIND, .HLD_LAST_FAULT_DIE]⟩
  | .HLD_LAST_STRIPE => ⟨0x60003C, 0x1000000, 1, 0x1000000, 1, false, false, [.HLD_LAST_STRIPE]⟩
  | .HLD_PF_TIME => ⟨0x600040, 0x1000000, 1, 0x1000000, 1, false, false, [.HLD_PF_TIME]⟩
  | .HLD_RETRAIN_STATUS => ⟨0x600044, 0x1000000, 1, 0x1000000, 1, false, false,
     [.HLD_RETRAIN_STATUS_ACTIVE, .HLD_RETRAIN_STATUS_SUSPENDED, .HLD_RETRAIN_STATUS_DIE,
      .HLD_RETRAIN_STATUS_DEFERRED]⟩
  | .HLD_QSEL => ⟨0x600048, 0x1000000, 1, 0x1000000, 1, false, false, [.HLD_QSEL]⟩
  | .HLD_QINFO0 => ⟨0x60004C, 0x1000000, 1, 0x1000000, 1, false, false, [.HLD_QINFO0]⟩
  | .HLD_QINFO1 => ⟨0x600050, 0x1000000, 1, 0x1000000, 1, false, false, [.HLD_QINFO1]⟩
  | .HLD_QINFO2 => ⟨0x600054, 0x1000000, 1, 0x1000000, 1, false, false, [.HLD_QINFO2]⟩
  | .HLD_QINFO3 => ⟨0x600058, 0x1000000, 1, 0x1000000, 1, false, false,
     [.HLD_QINFO3_ACTIVE, .HLD_QINFO3_DRAINING, .HLD_QINFO3_RESTORED, .HLD_QINFO3_HEAD_CHAIN, .HLD_QINFO3_PENDING]⟩
  | .HLD_POLICY_TC => ⟨0x600080, 0x4, 8, 0x1000000, 1, false, false,
     [.HLD_POLICY_TC_DURABLE, .HLD_POLICY_TC_HOLD_FULL_POLICY, .HLD_POLICY_TC_HOLD_POLICY]⟩
  | .HLD_SPILL_TC => ⟨0x6000A0, 0x4, 8, 0x1000000, 1, false, false, [.HLD_SPILL_TC]⟩
  | .HLD_MAX_AGE_TC => ⟨0x6000C0, 0x4, 8, 0x1000000, 1, false, false, [.HLD_MAX_AGE_TC]⟩
  | .HLD_DRAIN_RATE_TC => ⟨0x6000E0, 0x4, 8, 0x1000000, 1, false, false, [.HLD_DRAIN_RATE_TC]⟩
  | .HLD_DIE_STATUS => ⟨0x600100, 0x4, 18, 0x1000000, 1, false, false,
     [.HLD_DIE_STATUS_STATE, .HLD_DIE_STATUS_RETRAIN_TEMP, .HLD_DIE_STATUS_INNER_UNCORR]⟩
  | .HLD_TCNT_LO => ⟨0x600200, 0x40, 8, 0x8, 8, false, false, []⟩
  | .HLD_TCNT_HI => ⟨0x600204, 0x40, 8, 0x8, 8, false, false, []⟩
  | .HLD_GCNT_LO => ⟨0x600400, 0x8, 10, 0x1000000, 1, false, false, []⟩
  | .HLD_GCNT_HI => ⟨0x600404, 0x8, 10, 0x1000000, 1, false, false, []⟩
  | .HLD_WEAR => ⟨0x604000, 0x4, 4096, 0x1000000, 1, false, false, [.HLD_WEAR]⟩
  | .TIM_STATUS => ⟨0xA0000, 0x1000000, 1, 0x1000000, 1, false, false,
     [.TIM_STATUS_FRC_VALID, .TIM_STATUS_BUS_FAULT, .TIM_STATUS_STATE]⟩
  | .TIM_CTRL => ⟨0xA0004, 0x1000000, 1, 0x1000000, 1, false, true,
     [.TIM_CTRL_CLR_CNT, .TIM_CTRL_ACCEPT_JUMP, .TIM_CTRL_SERVO_EN, .TIM_CTRL_CLOCK_MODE]⟩
  | .TIM_GM_POLICY => ⟨0xA0008, 0x1000000, 1, 0x1000000, 1, false, true,
     [.TIM_GM_POLICY_FREE_RUN, .TIM_GM_POLICY_REFUSE_JUMP]⟩
  | .TIM_JUMP_LIMIT => ⟨0xA000C, 0x1000000, 1, 0x1000000, 1, false, false, [.TIM_JUMP_LIMIT]⟩
  | .TIM_FRC_LO => ⟨0xA0010, 0x1000000, 1, 0x1000000, 1, false, false, [.TIM_FRC_LO]⟩
  | .TIM_FRC_HI => ⟨0xA0014, 0x1000000, 1, 0x1000000, 1, false, false, [.TIM_FRC_HI]⟩
  | .TIM_NOW_SEC_LO => ⟨0xA0018, 0x1000000, 1, 0x1000000, 1, false, false, [.TIM_NOW_SEC_LO]⟩
  | .TIM_NOW_SEC_HI => ⟨0xA001C, 0x1000000, 1, 0x1000000, 1, false, false, [.TIM_NOW_SEC_HI]⟩
  | .TIM_NOW_NS => ⟨0xA0020, 0x1000000, 1, 0x1000000, 1, false, false, [.TIM_NOW_NS]⟩
  | .TIM_NOW_FRAC => ⟨0xA0024, 0x1000000, 1, 0x1000000, 1, false, false, [.TIM_NOW_FRAC]⟩
  | .TIM_ADJ_SEC_LO => ⟨0xA0030, 0x1000000, 1, 0x1000000, 1, false, false, [.TIM_ADJ_SEC_LO]⟩
  | .TIM_ADJ_SEC_HI => ⟨0xA0034, 0x1000000, 1, 0x1000000, 1, false, false, [.TIM_ADJ_SEC_HI]⟩
  | .TIM_ADJ_NS => ⟨0xA0038, 0x1000000, 1, 0x1000000, 1, false, false, [.TIM_ADJ_NS]⟩
  | .TIM_ADJ_FRAC => ⟨0xA003C, 0x1000000, 1, 0x1000000, 1, false, false, [.TIM_ADJ_FRAC]⟩
  | .TIM_ADJ_RATE_LO => ⟨0xA0040, 0x1000000, 1, 0x1000000, 1, false, false, [.TIM_ADJ_RATE_LO]⟩
  | .TIM_ADJ_RATE_HI => ⟨0xA0044, 0x1000000, 1, 0x1000000, 1, false, false, [.TIM_ADJ_RATE_HI]⟩
  | .TIM_ADJ_CMD => ⟨0xA0048, 0x1000000, 1, 0x1000000, 1, false, false,
     [.TIM_ADJ_CMD_GO, .TIM_ADJ_CMD_BUSY, .TIM_ADJ_CMD_COLLISION, .TIM_ADJ_CMD_REFUSED, .TIM_ADJ_CMD_OP]⟩
  | .TIM_EPOCH_NOW => ⟨0xA004C, 0x1000000, 1, 0x1000000, 1, false, false, [.TIM_EPOCH_NOW]⟩
  | .TIM_RATE_LO => ⟨0xA0050, 0x1000000, 1, 0x1000000, 1, false, false, [.TIM_RATE_LO]⟩
  | .TIM_RATE_HI => ⟨0xA0054, 0x1000000, 1, 0x1000000, 1, false, false, [.TIM_RATE_HI]⟩
  | .TIM_CONV_FRC_LO => ⟨0xA0060, 0x1000000, 1, 0x1000000, 1, false, false, [.TIM_CONV_FRC_LO]⟩
  | .TIM_CONV_FRC_HI => ⟨0xA0064, 0x1000000, 1, 0x1000000, 1, false, false, [.TIM_CONV_FRC_HI]⟩
  | .TIM_CONV_CMD => ⟨0xA0068, 0x1000000, 1, 0x1000000, 1, false, false,
     [.TIM_CONV_CMD_GO, .TIM_CONV_CMD_DONE, .TIM_CONV_CMD_EXPIRED, .TIM_CONV_CMD_SUBTICK, .TIM_CONV_CMD_EPOCH]⟩
  | .TIM_CONV_SEC_LO => ⟨0xA006C, 0x1000000, 1, 0x1000000, 1, false, false, [.TIM_CONV_SEC_LO]⟩
  | .TIM_CONV_SEC_HI => ⟨0xA0070, 0x1000000, 1, 0x1000000, 1, false, false, [.TIM_CONV_SEC_HI]⟩
  | .TIM_CONV_NS => ⟨0xA0074, 0x1000000, 1, 0x1000000, 1, false, false, [.TIM_CONV_NS]⟩
  | .TIM_CONV_FRAC => ⟨0xA0078, 0x1000000, 1, 0x1000000, 1, false, false, [.TIM_CONV_FRAC]⟩
  | .TIM_BUS_DELAY => ⟨0xA0080, 0x4, 4, 0x1000000, 1, false, false, [.TIM_BUS_DELAY]⟩
  | .TIM_EPOCH_TAB => ⟨0xA0100, 0x20, 16, 0x4, 8, false, false, [.TIM_EPOCH_TAB]⟩
  | .TIM_TXTS_POP => ⟨0xA0300, 0x10, 32, 0x1000000, 1, false, false,
     [.TIM_TXTS_POP_VALID, .TIM_TXTS_POP_INVALID, .TIM_TXTS_POP_PORT, .TIM_TXTS_POP_SUBTICK, .TIM_TXTS_POP_EPOCH,
      .TIM_TXTS_POP_ID]⟩
  | .TIM_TXTS_FRC_LO => ⟨0xA0304, 0x10, 32, 0x1000000, 1, false, false, [.TIM_TXTS_FRC_LO]⟩
  | .TIM_TXTS_FRC_HI => ⟨0xA0308, 0x10, 32, 0x1000000, 1, false, false, [.TIM_TXTS_FRC_HI]⟩
  | .TIM_TXTS_STATUS => ⟨0xA030C, 0x10, 32, 0x1000000, 1, false, false,
     [.TIM_TXTS_STATUS_OVF, .TIM_TXTS_STATUS_COUNT, .TIM_TXTS_STATUS_LOST_ID]⟩
  | .TIM_PULSE_CFG => ⟨0xA0500, 0x20, 4, 0x1000000, 1, false, false,
     [.TIM_PULSE_CFG_ARMED, .TIM_PULSE_CFG_LOCKED_ONLY, .TIM_PULSE_CFG_START_SUB, .TIM_PULSE_CFG_MODE]⟩
  | .TIM_PULSE_START_SEC_LO => ⟨0xA0504, 0x20, 4, 0x1000000, 1, false, false, [.TIM_PULSE_START_SEC_LO]⟩
  | .TIM_PULSE_START_SEC_HI => ⟨0xA0508, 0x20, 4, 0x1000000, 1, false, false, [.TIM_PULSE_START_SEC_HI]⟩
  | .TIM_PULSE_START_NS => ⟨0xA050C, 0x20, 4, 0x1000000, 1, false, false, [.TIM_PULSE_START_NS]⟩
  | .TIM_PULSE_PERIOD_LO => ⟨0xA0510, 0x20, 4, 0x1000000, 1, false, false, [.TIM_PULSE_PERIOD_LO]⟩
  | .TIM_PULSE_PERIOD_HI => ⟨0xA0514, 0x20, 4, 0x1000000, 1, false, false, [.TIM_PULSE_PERIOD_HI]⟩
  | .TIM_PULSE_WIDTH => ⟨0xA0518, 0x20, 4, 0x1000000, 1, false, false, [.TIM_PULSE_WIDTH]⟩
  | .TIM_PULSE_STATUS => ⟨0xA051C, 0x20, 4, 0x1000000, 1, false, false,
     [.TIM_PULSE_STATUS_HIGH, .TIM_PULSE_STATUS_MISSED, .TIM_PULSE_STATUS_DONE]⟩
  | .TIM_CAP_CFG => ⟨0xA0600, 0x10, 2, 0x1000000, 1, false, false,
     [.TIM_CAP_CFG_COUNT, .TIM_CAP_CFG_OVF, .TIM_CAP_CFG_FLUSH, .TIM_CAP_CFG_EDGE]⟩
  | .TIM_CAP_POP => ⟨0xA0604, 0x10, 2, 0x1000000, 1, false, false,
     [.TIM_CAP_POP_VALID, .TIM_CAP_POP_RISING, .TIM_CAP_POP_SUBTICK, .TIM_CAP_POP_EPOCH]⟩
  | .TIM_CAP_FRC_LO => ⟨0xA0608, 0x10, 2, 0x1000000, 1, false, false, [.TIM_CAP_FRC_LO]⟩
  | .TIM_CAP_FRC_HI => ⟨0xA060C, 0x10, 2, 0x1000000, 1, false, false, [.TIM_CAP_FRC_HI]⟩
  | .TIM_CNT_LO => ⟨0xA0700, 0x8, 13, 0x1000000, 1, false, false, []⟩
  | .TIM_CNT_HI => ⟨0xA0704, 0x8, 13, 0x1000000, 1, false, false, []⟩
  | .TIM_LINK_DELAY => ⟨0xA0800, 0x4, 128, 0x1000000, 1, false, false, [.TIM_LINK_DELAY]⟩
  | .FAB_STATUS => ⟨0xC0000, 0x1000000, 1, 0x1000000, 1, false, false,
     [.FAB_STATUS_MEMBER, .FAB_STATUS_CONFLICT, .FAB_STATUS_ELECTED, .FAB_STATUS_LSDB_FULL, .FAB_STATUS_FULL_ADJ,
      .FAB_STATUS_ADDRESS]⟩
  | .FAB_CTRL => ⟨0xC0004, 0x1000000, 1, 0x1000000, 1, false, false, [.FAB_CTRL_CLR_CNT]⟩
  | .FAB_ETHERTYPE => ⟨0xC0008, 0x1000000, 1, 0x1000000, 1, false, false, [.FAB_ETHERTYPE]⟩
  | .FAB_HELLO_CFG => ⟨0xC000C, 0x1000000, 1, 0x1000000, 1, false, false,
     [.FAB_HELLO_CFG_DEAD_TIME, .FAB_HELLO_CFG_HELLO_INTERVAL]⟩
  | .FAB_HOP_LIMIT => ⟨0xC0010, 0x1000000, 1, 0x1000000, 1, false, false, [.FAB_HOP_LIMIT]⟩
  | .FAB_HASH_SEED => ⟨0xC0014, 0x1000000, 1, 0x1000000, 1, false, false, [.FAB_HASH_SEED]⟩
  | .FAB_LSDB_COUNT => ⟨0xC0018, 0x1000000, 1, 0x1000000, 1, false, false, [.FAB_LSDB_COUNT]⟩
  | .FAB_LSA_SEQ => ⟨0xC001C, 0x1000000, 1, 0x1000000, 1, false, false, [.FAB_LSA_SEQ]⟩
  | .FAB_SPF_LAST => ⟨0xC0020, 0x1000000, 1, 0x1000000, 1, false, false, [.FAB_SPF_LAST]⟩
  | .FAB_SRC_SEL => ⟨0xC0024, 0x1000000, 1, 0x1000000, 1, false, false, [.FAB_SRC_SEL_CLASS, .FAB_SRC_SEL_SOURCE]⟩
  | .FAB_SRC_GAP => ⟨0xC0028, 0x1000000, 1, 0x1000000, 1, false, false, [.FAB_SRC_GAP]⟩
  | .FAB_SRC_LATE => ⟨0xC002C, 0x1000000, 1, 0x1000000, 1, false, false, [.FAB_SRC_LATE]⟩
  | .FAB_REPLACED => ⟨0xC0040, 0x4, 8, 0x1000000, 1, false, false, [.FAB_REPLACED]⟩
  | .FAB_CNT_LO => ⟨0xC0080, 0x8, 18, 0x1000000, 1, false, false, []⟩
  | .FAB_CNT_HI => ⟨0xC0084, 0x8, 18, 0x1000000, 1, false, false, []⟩
  | .FAB_ADJ => ⟨0xC0400, 0x4, 128, 0x1000000, 1, false, false,
     [.FAB_ADJ_STATE, .FAB_ADJ_VERSION, .FAB_ADJ_NEIGH_PORT, .FAB_ADJ_NEIGH_DEV]⟩
  | .FAB_ROUTE0 => ⟨0xC1000, 0x10, 256, 0x1000000, 1, false, false,
     [.FAB_ROUTE0_UP, .FAB_ROUTE0_COUNT, .FAB_ROUTE0_COST]⟩
  | .FAB_ROUTE1 => ⟨0xC1004, 0x10, 256, 0x1000000, 1, false, false, [.FAB_ROUTE1]⟩
  | .FAB_ROUTE2 => ⟨0xC1008, 0x10, 256, 0x1000000, 1, false, false, [.FAB_ROUTE2]⟩
  | .PAIR_STATUS => ⟨0xB0000, 0x1000000, 1, 0x1000000, 1, false, false,
     [.PAIR_STATUS_VERSION, .PAIR_STATUS_CMP_ACTIVE, .PAIR_STATUS_SYNCED, .PAIR_STATUS_HB_OK, .PAIR_STATUS_HOLD_OFF,
      .PAIR_STATUS_LEASE_IN_B, .PAIR_STATUS_LEASE_IN, .PAIR_STATUS_LEASE_OUT, .PAIR_STATUS_ROLE]⟩
  | .PAIR_CTRL => ⟨0xB0004, 0x1000000, 1, 0x1000000, 1, false, false, [.PAIR_CTRL_CLR_CNT]⟩
  | .PAIR_LEASE_CMD => ⟨0xB0008, 0x1000000, 1, 0x1000000, 1, false, false,
     [.PAIR_LEASE_CMD_BUSY, .PAIR_LEASE_CMD_COLLISION, .PAIR_LEASE_CMD_REFUSED, .PAIR_LEASE_CMD_OP]⟩
  | .PAIR_EPOCH => ⟨0xB000C, 0x1000000, 1, 0x1000000, 1, false, false, [.PAIR_EPOCH]⟩
  | .PAIR_LEASE_LEFT => ⟨0xB0010, 0x1000000, 1, 0x1000000, 1, false, false, [.PAIR_LEASE_LEFT]⟩
  | .PAIR_TIMERS => ⟨0xB0014, 0x1000000, 1, 0x1000000, 1, false, false, [.PAIR_TIMERS_HB_MISS, .PAIR_TIMERS_GUARD]⟩
  | .PAIR_ALIGN_GUARD => ⟨0xB0018, 0x1000000, 1, 0x1000000, 1, false, false, [.PAIR_ALIGN_GUARD]⟩
  | .PAIR_SAMPLE_RATE => ⟨0xB001C, 0x1000000, 1, 0x1000000, 1, false, false, [.PAIR_SAMPLE_RATE]⟩
  | .PAIR_WIT_STATUS => ⟨0xB0020, 0x1000000, 1, 0x1000000, 1, false, false, [.PAIR_WIT_STATUS_ANSWERED]⟩
  | .PAIR_EXEMPT => ⟨0xB0024, 0x4, 4, 0x1000000, 1, false, true, [.PAIR_EXEMPT]⟩
  | .PAIR_CMP_STATUS => ⟨0xB0040, 0x1000000, 1, 0x1000000, 1, false, false,
     [.PAIR_CMP_STATUS_STAGE, .PAIR_CMP_STATUS_RESULT, .PAIR_CMP_STATUS_SIDE, .PAIR_CMP_STATUS_PORT]⟩
  | .PAIR_CMP_BLOCK => ⟨0xB0044, 0x1000000, 1, 0x1000000, 1, false, false,
     [.PAIR_CMP_BLOCK_TABLE, .PAIR_CMP_BLOCK_BLOCK]⟩
  | .PAIR_DIG_SEL => ⟨0xB0048, 0x1000000, 1, 0x1000000, 1, false, false, [.PAIR_DIG_SEL]⟩
  | .PAIR_DIG_INFO => ⟨0xB004C, 0x1000000, 1, 0x1000000, 1, false, false,
     [.PAIR_DIG_INFO_RESULT, .PAIR_DIG_INFO_CONSECUTIVE]⟩
  | .PAIR_CNT_LO => ⟨0xB0080, 0x8, 18, 0x1000000, 1, false, false, []⟩
  | .PAIR_CNT_HI => ⟨0xB0084, 0x8, 18, 0x1000000, 1, false, false, []⟩
  | .HLT_STATE => ⟨0x10000, 0x1000000, 1, 0x1000000, 1, false, false, [.HLT_STATE_PREV, .HLT_STATE_STATE]⟩
  | .HLT_STATE_SECS => ⟨0x10004, 0x1000000, 1, 0x1000000, 1, false, false, [.HLT_STATE_SECS]⟩
  | .HLT_CAUSE => ⟨0x10008, 0x1000000, 1, 0x1000000, 1, false, false,
     [.HLT_CAUSE_CONFIG, .HLT_CAUSE_MON_LOST, .HLT_CAUSE_SMBUS_REQUEST, .HLT_CAUSE_HOST_REQUEST,
      .HLT_CAUSE_INTERLOCK, .HLT_CAUSE_D2D_LINK, .HLT_CAUSE_WATCHDOG, .HLT_CAUSE_VOLTAGE, .HLT_CAUSE_THERMAL,
      .HLT_CAUSE_ROOT_CLOCK, .HLT_CAUSE_MGMT_FATAL, .HLT_CAUSE_CORE_FATAL]⟩
  | .HLT_AUTUMN_CAUSE => ⟨0x1000C, 0x1000000, 1, 0x1000000, 1, false, false,
     [.HLT_AUTUMN_CAUSE_FUSE, .HLT_AUTUMN_CAUSE_PAIR_FAULT, .HLT_AUTUMN_CAUSE_LEASE_PIN, .HLT_AUTUMN_CAUSE_TIME_BUS,
      .HLT_AUTUMN_CAUSE_WEAR, .HLT_AUTUMN_CAUSE_AVS, .HLT_AUTUMN_CAUSE_MONITOR, .HLT_AUTUMN_CAUSE_HOLD,
      .HLT_AUTUMN_CAUSE_UNIT, .HLT_AUTUMN_CAUSE_REGION, .HLT_AUTUMN_CAUSE_SPARE]⟩
  | .HLT_WINTER_REQ => ⟨0x10010, 0x1000000, 1, 0x1000000, 1, false, false, [.HLT_WINTER_REQ_KEY, .HLT_WINTER_REQ_REQ]⟩
  | .HLT_WINTER_EXIT => ⟨0x10014, 0x1000000, 1, 0x1000000, 1, false, false,
     [.HLT_WINTER_EXIT_BUSY, .HLT_WINTER_EXIT_COLLISION, .HLT_WINTER_EXIT_REFUSED, .HLT_WINTER_EXIT_REASON,
      .HLT_WINTER_EXIT_GO]⟩
  | .HLT_WINTER_LAT => ⟨0x10018, 0x1000000, 1, 0x1000000, 1, false, false, [.HLT_WINTER_LAT]⟩
  | .HLT_WDOG => ⟨0x1001C, 0x1000000, 1, 0x1000000, 1, false, false, [.HLT_WDOG_PERIOD, .HLT_WDOG_CORE_EXPIRED]⟩
  | .HLT_EXIT_RESP => ⟨0x10020, 0x4, 8, 0x1000000, 1, false, false, [.HLT_EXIT_RESP]⟩
  | .HLT_SUM_UNIT => ⟨0x10040, 0x1000000, 1, 0x1000000, 1, false, false,
     [.HLT_SUM_UNIT_HOLD_DIE, .HLT_SUM_UNIT_MONITOR, .HLT_SUM_UNIT_REGION_UNIT]⟩
  | .HLT_SUM_LANE => ⟨0x10044, 0x1000000, 1, 0x1000000, 1, false, false, [.HLT_SUM_LANE]⟩
  | .HLT_SUM_ENGINE => ⟨0x10048, 0x1000000, 1, 0x1000000, 1, false, false,
     [.HLT_SUM_ENGINE_METER, .HLT_SUM_ENGINE_TCAM, .HLT_SUM_ENGINE_AUTOMATA, .HLT_SUM_ENGINE_LOOKUP]⟩
  | .HLT_SUM_REGION => ⟨0x1004C, 0x1000000, 1, 0x1000000, 1, false, false, [.HLT_SUM_REGION_ISOLATED]⟩
  | .HLT_SUM_DIE => ⟨0x10050, 0x1000000, 1, 0x1000000, 1, false, false, [.HLT_SUM_DIE_DIES]⟩
  | .HLT_SUM_PKG => ⟨0x10054, 0x1000000, 1, 0x1000000, 1, false, false,
     [.HLT_SUM_PKG_THERMTRIP, .HLT_SUM_PKG_COVERAGE, .HLT_SUM_PKG_WEAR, .HLT_SUM_PKG_AVS, .HLT_SUM_PKG_VOLT_WARN,
      .HLT_SUM_PKG_TEMP_WARN]⟩
  | .HLT_SUM_SYSTEM => ⟨0x10058, 0x1000000, 1, 0x1000000, 1, false, false,
     [.HLT_SUM_SYSTEM_REPLACED, .HLT_SUM_SYSTEM_CONFLICT, .HLT_SUM_SYSTEM_LEASE_PIN, .HLT_SUM_SYSTEM_PAIR_FAULT]⟩
  | .HLT_WINTER_IN_DISCARD => ⟨0x10060, 0x4, 4, 0x1000000, 1, false, false, [.HLT_WINTER_IN_DISCARD]⟩
  | .MON_STATUS => ⟨0x30000, 0x1000000, 1, 0x1000000, 1, false, false,
     [.MON_STATUS_AVS, .MON_STATUS_COVERAGE, .MON_STATUS_THERMTRIP, .MON_STATUS_HARD, .MON_STATUS_VOLT_WARN,
      .MON_STATUS_TEMP_WARN, .MON_STATUS_ALERT, .MON_STATUS_READY]⟩
  | .MON_TEMP_WARN => ⟨0x30008, 0x1000000, 1, 0x1000000, 1, false, true, [.MON_TEMP_WARN]⟩
  | .MON_AVS_CTRL => ⟨0x30010, 0x1000000, 1, 0x1000000, 1, false, true, [.MON_AVS_CTRL_MODE, .MON_AVS_CTRL_FIXED_MV]⟩
  | .MON_AVS_STATUS => ⟨0x30014, 0x1000000, 1, 0x1000000, 1, false, false,
     [.MON_AVS_STATUS_FAULT, .MON_AVS_STATUS_ACTIVE, .MON_AVS_STATUS_REQ_MV, .MON_AVS_STATUS_READ_MV]⟩
  | .MON_TEMP => ⟨0x30100, 0x4, 74, 0x1000000, 1, false, false, [.MON_TEMP_STATE, .MON_TEMP]⟩
  | .MON_VOLT => ⟨0x30300, 0x4, 40, 0x1000000, 1, false, false, [.MON_VOLT_STATE, .MON_VOLT_RAIL, .MON_VOLT_MV]⟩
  | .MON_PROC => ⟨0x30400, 0x4, 26, 0x1000000, 1, false, false, [.MON_PROC_FAILED, .MON_PROC_COUNT]⟩
  | .CAL_STATUS => ⟨0x40000, 0x1000000, 1, 0x1000000, 1, false, false,
     [.CAL_STATUS_CLAMPED, .CAL_STATUS_BUSY, .CAL_STATUS_SAVED, .CAL_STATUS_RESTORED, .CAL_STATUS_SAVE_FAILED,
      .CAL_STATUS_LAST_OFFSET]⟩
  | .CAL_CMD => ⟨0x40004, 0x1000000, 1, 0x1000000, 1, false, false,
     [.CAL_CMD_KEY, .CAL_CMD_CLEAR_SAVED, .CAL_CMD_CLEAR_USER, .CAL_CMD_SAVE]⟩
  | .INT_LEVEL_SUM => ⟨0x50000, 0x1000000, 1, 0x1000000, 1, false, false, [.INT_LEVEL_SUM]⟩
  | .INT_PEND => ⟨0x50010, 0x4, 16, 0x1000000, 1, false, false, [.INT_PEND]⟩
  | .INT_MASK => ⟨0x50050, 0x4, 16, 0x1000000, 1, false, false, [.INT_MASK]⟩
  | .INT_VEC => ⟨0x50400, 0x4, 512, 0x1000000, 1, false, false, [.INT_VEC_EN3, .INT_VEC_VEC3, .INT_VEC_VEC0]⟩
  | .DMA_LINK => ⟨0xE0000, 0x1000000, 1, 0x1000000, 1, false, false,
     [.DMA_LINK_DL_UP, .DMA_LINK_FLIT, .DMA_LINK_SPEED, .DMA_LINK_WIDTH]⟩
  | .DMA_CTRL => ⟨0xE0004, 0x1000000, 1, 0x1000000, 1, false, false, [.DMA_CTRL_CLR_CNT]⟩
  | .DMA_INJECT_PPS => ⟨0xE0008, 0x1000000, 1, 0x1000000, 1, false, false, [.DMA_INJECT_PPS]⟩
  | .DMA_RX_STEER => ⟨0xE0040, 0x4, 8, 0x1000000, 1, false, false, [.DMA_RX_STEER_COUNT, .DMA_RX_STEER_BASE]⟩
  | .DMA_CNT_LO => ⟨0xE0080, 0x8, 11, 0x1000000, 1, false, false, []⟩
  | .DMA_CNT_HI => ⟨0xE0084, 0x8, 11, 0x1000000, 1, false, false, []⟩
  | .DMA_MSIX_TABLE => ⟨0xF0000, 0x10, 256, 0x4, 4, false, false, [.DMA_MSIX_TABLE]⟩
  | .DMA_MSIX_PBA => ⟨0xF8000, 0x4, 8, 0x1000000, 1, false, false, [.DMA_MSIX_PBA]⟩
  | .DMA_RING_BASE_LO => ⟨0xE1000, 0x20, 132, 0x1000000, 1, false, false,
     [.DMA_RING_BASE_LO, .DMA_RING_BASE_LO_ALIGN]⟩
  | .DMA_RING_BASE_HI => ⟨0xE1004, 0x20, 132, 0x1000000, 1, false, false, [.DMA_RING_BASE_HI]⟩
  | .DMA_RING_SIZE => ⟨0xE1008, 0x20, 132, 0x1000000, 1, false, false, [.DMA_RING_SIZE]⟩
  | .DMA_RING_HEAD => ⟨0xE100C, 0x20, 132, 0x1000000, 1, false, false, [.DMA_RING_HEAD]⟩
  | .DMA_RING_TAIL => ⟨0xE1010, 0x20, 132, 0x1000000, 1, false, false, [.DMA_RING_TAIL]⟩
  | .DMA_RING_CTRL => ⟨0xE1014, 0x20, 132, 0x1000000, 1, false, false,
     [.DMA_RING_CTRL_ENABLE, .DMA_RING_CTRL_RESTART, .DMA_RING_CTRL_VECTOR]⟩
  | .DMA_RING_STATUS => ⟨0xE1018, 0x20, 132, 0x1000000, 1, false, false,
     [.DMA_RING_STATUS_HALTED, .DMA_RING_STATUS_RUNNING, .DMA_RING_STATUS_CODE, .DMA_RING_STATUS_HALT_INDEX]⟩
  | .DMA_RING_MOD => ⟨0xE101C, 0x20, 132, 0x1000000, 1, false, false, [.DMA_RING_MOD_USEC, .DMA_RING_MOD_COUNT]⟩
  | .IND_ADDR => ⟨0x10E000, 0x100000, 4, 0x1000000, 1, false, false,
     [.IND_ADDR_SPACE, .IND_ADDR_AUTO_INC, .IND_ADDR_STRIDE, .IND_ADDR_WORD]⟩
  | .IND_STATUS => ⟨0x10E004, 0x100000, 4, 0x1000000, 1, false, false,
     [.IND_STATUS_READY, .IND_STATUS_BUSY, .IND_STATUS_COLLISION, .IND_STATUS_EARLY_READ, .IND_STATUS_ERR]⟩
  | .IND_CMD => ⟨0x10E008, 0x100000, 4, 0x1000000, 1, false, false, [.IND_CMD_GO, .IND_CMD_COUNT]⟩
  | .IND_DATA => ⟨0x10E040, 0x100000, 4, 0x4, 16, false, false, [.IND_DATA]⟩
  | .GLB_ID => ⟨0x0, 0x1000000, 1, 0x1000000, 1, false, false, [.GLB_ID_DEVICE, .GLB_ID_GRADE, .GLB_ID_STEP]⟩
  | .GLB_SERIAL => ⟨0x10, 0x4, 4, 0x1000000, 1, false, false, [.GLB_SERIAL]⟩
  | .GLB_BASE_MAC_LO => ⟨0x20, 0x1000000, 1, 0x1000000, 1, false, false, [.GLB_BASE_MAC_LO]⟩
  | .GLB_BASE_MAC_HI => ⟨0x24, 0x1000000, 1, 0x1000000, 1, false, false, [.GLB_BASE_MAC_HI]⟩
  | .GLB_FW_VERSION => ⟨0x28, 0x1000000, 1, 0x1000000, 1, false, false, [.GLB_FW_VERSION]⟩
  | .GLB_VER_HIF => ⟨0x30, 0x1000000, 1, 0x1000000, 1, false, false, [.GLB_VER_HIF]⟩
  | .GLB_VER_MBX => ⟨0x34, 0x1000000, 1, 0x1000000, 1, false, false, [.GLB_VER_MBX]⟩
  | .GLB_VER_IMG => ⟨0x38, 0x1000000, 1, 0x1000000, 1, false, false, [.GLB_VER_IMG]⟩
  | .GLB_VER_FAB => ⟨0x3C, 0x1000000, 1, 0x1000000, 1, false, false, [.GLB_VER_FAB]⟩
  | .GLB_VER_PAIR => ⟨0x40, 0x1000000, 1, 0x1000000, 1, false, false, [.GLB_VER_PAIR]⟩
  | .GLB_HIF_SELECT => ⟨0x44, 0x1000000, 1, 0x1000000, 1, false, false,
     [.GLB_HIF_SELECT_MAJOR, .GLB_HIF_SELECT_MINOR]⟩
  | .GLB_HIF_ACTIVE => ⟨0x48, 0x1000000, 1, 0x1000000, 1, false, false,
     [.GLB_HIF_ACTIVE_BAD, .GLB_HIF_ACTIVE_SELECTED, .GLB_HIF_ACTIVE_MAJOR, .GLB_HIF_ACTIVE_MINOR]⟩
  | .GLB_CAP0 => ⟨0x50, 0x1000000, 1, 0x1000000, 1, false, false,
     [.GLB_CAP0_PORTS, .GLB_CAP0_TCAM_BANKS, .GLB_CAP0_REGIONS, .GLB_CAP0_PAIR, .GLB_CAP0_FABRIC, .GLB_CAP0_AUTOMATA,
      .GLB_CAP0_HOLD, .GLB_CAP0_PTP]⟩
  | .GLB_CAP1 => ⟨0x54, 0x1000000, 1, 0x1000000, 1, false, false,
     [.GLB_CAP1_HOLD_DIES, .GLB_CAP1_MIRROR_SESSIONS, .GLB_CAP1_FUNCTIONS]⟩
  | .GLB_SCRATCH => ⟨0x60, 0x1000000, 1, 0x1000000, 1, false, false, [.GLB_SCRATCH]⟩
  | .GLB_SCRATCH_M => ⟨0x64, 0x1000000, 1, 0x1000000, 1, false, false, [.GLB_SCRATCH_M]⟩
  | .GLB_WO_STATUS => ⟨0x70, 0x1000000, 1, 0x1000000, 1, false, false, [.GLB_WO_STATUS_HI, .GLB_WO_STATUS_LO]⟩
  | .GLB_ACCESS_LAST => ⟨0x80, 0x1000000, 1, 0x1000000, 1, false, false,
     [.GLB_ACCESS_LAST_MASTER, .GLB_ACCESS_LAST_KIND, .GLB_ACCESS_LAST_OFFSET]⟩
  | .GLB_SMB_CNT => ⟨0x90, 0x1000000, 1, 0x1000000, 1, false, false, [.GLB_SMB_CNT_PEC_ERR, .GLB_SMB_CNT_REFUSED]⟩
  | .GLB_FUSE_COMMIT => ⟨0xA0, 0x1000000, 1, 0x1000000, 1, false, false,
     [.GLB_FUSE_COMMIT_BUSY, .GLB_FUSE_COMMIT_COLLISION, .GLB_FUSE_COMMIT_REFUSED, .GLB_FUSE_COMMIT_FACTORY_LOCKED,
      .GLB_FUSE_COMMIT_GO]⟩
  | .MBX_H2F_DATA => ⟨0x60000, 0x80, 8, 0x4, 16, false, false, [.MBX_H2F_DATA]⟩
  | .MBX_H2F_CTRL => ⟨0x60040, 0x80, 8, 0x1000000, 1, false, false, [.MBX_H2F_CTRL_GO]⟩
  | .MBX_H2F_STATUS => ⟨0x60044, 0x80, 8, 0x1000000, 1, false, false,
     [.MBX_H2F_STATUS_FULL, .MBX_H2F_STATUS_COLLISION, .MBX_H2F_STATUS_LOST, .MBX_H2F_STATUS_LOST_SEQ]⟩
  | .MBX_F2H_DATA => ⟨0x60400, 0x80, 8, 0x4, 16, false, false, [.MBX_F2H_DATA]⟩
  | .MBX_F2H_CTRL => ⟨0x60440, 0x80, 8, 0x1000000, 1, false, false, [.MBX_F2H_CTRL_ACK]⟩
  | .MBX_F2H_STATUS => ⟨0x60444, 0x80, 8, 0x1000000, 1, false, false,
     [.MBX_F2H_STATUS_FULL, .MBX_F2H_STATUS_STALE, .MBX_F2H_STATUS_QUEUED, .MBX_F2H_STATUS_LOST_COUNT]⟩
  | .MBX_DB_H2F_LO => ⟨0x60800, 0x1000000, 1, 0x1000000, 1, false, false, [.MBX_DB_H2F_LO]⟩
  | .MBX_DB_H2F_HI => ⟨0x60804, 0x1000000, 1, 0x1000000, 1, false, false, [.MBX_DB_H2F_HI]⟩
  | .MBX_DB_F2H_LO => ⟨0x60808, 0x1000000, 1, 0x1000000, 1, false, false, [.MBX_DB_F2H_LO]⟩
  | .MBX_DB_F2H_HI => ⟨0x6080C, 0x1000000, 1, 0x1000000, 1, false, false, [.MBX_DB_F2H_HI]⟩
  | .MBX_STATUS => ⟨0x60810, 0x1000000, 1, 0x1000000, 1, false, false,
     [.MBX_STATUS_FW_UP, .MBX_STATUS_DOMAIN_DOWN, .MBX_STATUS_CRED_HOLDOFF, .MBX_STATUS_CLR_CNT]⟩
  | .MBX_CNT_LO => ⟨0x60880, 0x8, 8, 0x1000000, 1, false, false, []⟩
  | .MBX_CNT_HI => ⟨0x60884, 0x8, 8, 0x1000000, 1, false, false, []⟩
  | .LCK_LOCK => ⟨0x70000, 0x4, 64, 0x1000000, 1, false, false, [.LCK_LOCK_ACQUIRED, .LCK_LOCK_OWN, .LCK_LOCK_HOLDER]⟩
  | .LCK_HELD_LO => ⟨0x70100, 0x1000000, 1, 0x1000000, 1, false, false, [.LCK_HELD_LO]⟩
  | .LCK_HELD_HI => ⟨0x70104, 0x1000000, 1, 0x1000000, 1, false, false, [.LCK_HELD_HI]⟩
  | .LCK_BAD_RELEASE => ⟨0x70108, 0x1000000, 1, 0x1000000, 1, false, false, [.LCK_BAD_RELEASE]⟩
  | .LCK_PEEK => ⟨0x70200, 0x4, 64, 0x1000000, 1, false, false, [.LCK_PEEK]⟩
  | .EVR_STATUS => ⟨0x80000, 0x1000000, 1, 0x1000000, 1, false, false,
     [.EVR_STATUS_MOUNTED, .EVR_STATUS_NO_STORE, .EVR_STATUS_FROZEN, .EVR_STATUS_ERASING, .EVR_STATUS_FLUSHING,
      .EVR_STATUS_SEQ_UNANCHORED, .EVR_STATUS_STAGE_MISS, .EVR_STATUS_FREEZE_REFUSED, .EVR_STATUS_FREEZE_OWNER]⟩
  | .EVR_CTRL => ⟨0x80004, 0x1000000, 1, 0x1000000, 1, false, false,
     [.EVR_CTRL_FLUSH, .EVR_CTRL_FREEZE, .EVR_CTRL_THAW, .EVR_CTRL_INT_SEV]⟩
  | .EVR_NEXT_SEQ => ⟨0x80008, 0x1000000, 1, 0x1000000, 1, false, false, [.EVR_NEXT_SEQ]⟩
  | .EVR_HEAD => ⟨0x8000C, 0x1000000, 1, 0x1000000, 1, false, false, [.EVR_HEAD]⟩
  | .EVR_OLDEST => ⟨0x80010, 0x1000000, 1, 0x1000000, 1, false, false, [.EVR_OLDEST]⟩
  | .EVR_STAGED => ⟨0x80014, 0x1000000, 1, 0x1000000, 1, false, false, [.EVR_STAGED_SEVERE, .EVR_STAGED_RECORDS]⟩
  | .EVR_FREEZE_LEFT => ⟨0x80018, 0x1000000, 1, 0x1000000, 1, false, false, [.EVR_FREEZE_LEFT]⟩
  | .EVR_LAST_FLUSH => ⟨0x8001C, 0x1000000, 1, 0x1000000, 1, false, false, [.EVR_LAST_FLUSH]⟩
  | .EVR_STAGE_SEQ => ⟨0x80020, 0x1000000, 1, 0x1000000, 1, false, false, [.EVR_STAGE_SEQ]⟩
  | .EVR_STAGE_RELEASE => ⟨0x80024, 0x1000000, 1, 0x1000000, 1, false, false, [.EVR_STAGE_RELEASE]⟩
  | .EVR_STAGE_DATA => ⟨0x80040, 0x4, 16, 0x1000000, 1, false, false, [.EVR_STAGE_DATA]⟩
  | .EVR_LOST_PEND => ⟨0x80080, 0x4, 6, 0x1000000, 1, false, false, [.EVR_LOST_PEND]⟩
  | .EVR_CNT_LO => ⟨0x80100, 0x8, 9, 0x1000000, 1, false, false, []⟩
  | .EVR_CNT_HI => ⟨0x80104, 0x8, 9, 0x1000000, 1, false, false, []⟩
  | .PMC_CTRL => ⟨0xD0000, 0x1000000, 1, 0x1000000, 1, false, false,
     [.PMC_CTRL_SNAP, .PMC_CTRL_CLR_ALL, .PMC_CTRL_STOP_ALL, .PMC_CTRL_START_ALL]⟩
  | .PMC_BW_WINDOW => ⟨0xD0010, 0x1000000, 1, 0x1000000, 1, false, false, [.PMC_BW_WINDOW]⟩
  | .PMC_BW_CTRL => ⟨0xD0014, 0x1000000, 1, 0x1000000, 1, false, false, [.PMC_BW_CTRL_CLR_PEAK]⟩
  | .PMC_BW_SEQ => ⟨0xD0018, 0x1000000, 1, 0x1000000, 1, false, false, [.PMC_BW_SEQ]⟩
  | .PMC_CTL => ⟨0xD0100, 0x100, 6, 0x1000000, 1, false, false, [.PMC_CTL_CLR, .PMC_CTL_EN]⟩
  | .PMC_OVF => ⟨0xD0104, 0x100, 6, 0x1000000, 1, false, false, [.PMC_OVF]⟩
  | .PMC_CYC_LO => ⟨0xD0108, 0x100, 6, 0x1000000, 1, false, false, [.PMC_CYC_LO]⟩
  | .PMC_CYC_HI => ⟨0xD010C, 0x100, 6, 0x1000000, 1, false, false, [.PMC_CYC_HI]⟩
  | .PMC_SEL => ⟨0xD0110, 0x100, 6, 0x4, 8, false, false, [.PMC_SEL_CHAIN, .PMC_SEL_QUAL, .PMC_SEL_EVENT]⟩
  | .PMC_CNT_LO => ⟨0xD0140, 0x100, 6, 0x8, 8, false, false, [.PMC_CNT_LO]⟩
  | .PMC_CNT_HI => ⟨0xD0144, 0x100, 6, 0x8, 8, false, false, [.PMC_CNT_HI]⟩
  | .PMC_SNAP_CYC_LO => ⟨0xD0180, 0x100, 6, 0x1000000, 1, false, false, [.PMC_SNAP_CYC_LO]⟩
  | .PMC_SNAP_CYC_HI => ⟨0xD0184, 0x100, 6, 0x1000000, 1, false, false, [.PMC_SNAP_CYC_HI]⟩
  | .PMC_SNAP_LO => ⟨0xD0188, 0x100, 6, 0x8, 8, false, false, [.PMC_SNAP_LO]⟩
  | .PMC_SNAP_HI => ⟨0xD018C, 0x100, 6, 0x8, 8, false, false, [.PMC_SNAP_HI]⟩
  | .PMC_BW_RX => ⟨0xD1000, 0x10, 128, 0x1000000, 1, false, false, [.PMC_BW_RX]⟩
  | .PMC_BW_TX => ⟨0xD1004, 0x10, 128, 0x1000000, 1, false, false, [.PMC_BW_TX]⟩
  | .PMC_BW_RX_PEAK => ⟨0xD1008, 0x10, 128, 0x1000000, 1, false, false, [.PMC_BW_RX_PEAK]⟩
  | .PMC_BW_TX_PEAK => ⟨0xD100C, 0x10, 128, 0x1000000, 1, false, false, [.PMC_BW_TX_PEAK]⟩
  | .CAL_TEMP_OFS => ⟨0x40100, 0x8, 74, 0x1000000, 1, false, false, [.CAL_TEMP_OFS]⟩
  | .CAL_TEMP_GAIN => ⟨0x40104, 0x8, 74, 0x1000000, 1, false, false, [.CAL_TEMP_GAIN]⟩
  | .CAL_VMON_GAIN => ⟨0x40400, 0x4, 40, 0x1000000, 1, false, false, [.CAL_VMON_GAIN]⟩
  | .CAL_TBUS_DELAY => ⟨0x40500, 0x4, 4, 0x1000000, 1, false, false, [.CAL_TBUS_DELAY]⟩
  | .CAL_TX_DELTA => ⟨0x40800, 0x4, 128, 0x1000000, 1, false, false,
     [.CAL_TX_DELTA_PRE3, .CAL_TX_DELTA_PRE2, .CAL_TX_DELTA_PRE1, .CAL_TX_DELTA_MAIN, .CAL_TX_DELTA_POST1]⟩
  | .CAL_TS_RX => ⟨0x41000, 0x40, 128, 0x8, 7, false, false, [.CAL_TS_RX]⟩
  | .CAL_TS_TX => ⟨0x41004, 0x40, 128, 0x8, 7, false, false, [.CAL_TS_TX]⟩
  | .CAL_HOLD_TRIM => ⟨0x43000, 0x4, 18, 0x1000000, 1, false, false, [.CAL_HOLD_TRIM]⟩

/-- Every register, in the order of the chapters. -/
def Reg.all : List Reg := (List.range 442).map Reg.ofNat

/-- The blocks of counters. -/
inductive CtrBlock | MAC_STAT | PRS_CNT | PRS_PORT_ERR | TBL_SCNT | TBL_RCNT | TCM_SCNT | TCM_RCNT | AUT_CNT | ACT_CNT | ACT_CAP_LOST | MTR_CNT | MIR_COPIES | MIR_SKIPPED | BUF_CNT | QUE_QCNT | QUE_PCNT | HLD_TCNT | HLD_GCNT | TIM_CNT | FAB_CNT | PAIR_CNT | DMA_CNT | MBX_CNT | EVR_CNT
  deriving DecidableEq, Repr

/-- One counter of a block, by its index. -/
structure Ctr where
  block : CtrBlock
  k : Nat
  deriving DecidableEq, Repr

def Ctr.MAC_RX_OCTETS : Ctr := ⟨.MAC_STAT, 0⟩
def Ctr.MAC_RX_OCTETS_ALL : Ctr := ⟨.MAC_STAT, 1⟩
def Ctr.MAC_RX_FRAMES : Ctr := ⟨.MAC_STAT, 2⟩
def Ctr.MAC_RX_UCAST : Ctr := ⟨.MAC_STAT, 3⟩
def Ctr.MAC_RX_MCAST : Ctr := ⟨.MAC_STAT, 4⟩
def Ctr.MAC_RX_BCAST : Ctr := ⟨.MAC_STAT, 5⟩
def Ctr.MAC_RX_PAUSE : Ctr := ⟨.MAC_STAT, 6⟩
def Ctr.MAC_RX_PFC : Ctr := ⟨.MAC_STAT, 7⟩
def Ctr.MAC_RX_PTP : Ctr := ⟨.MAC_STAT, 15⟩
def Ctr.MAC_RX_64 : Ctr := ⟨.MAC_STAT, 16⟩
def Ctr.MAC_RX_65_127 : Ctr := ⟨.MAC_STAT, 17⟩
def Ctr.MAC_RX_128_255 : Ctr := ⟨.MAC_STAT, 18⟩
def Ctr.MAC_RX_256_511 : Ctr := ⟨.MAC_STAT, 19⟩
def Ctr.MAC_RX_512_1023 : Ctr := ⟨.MAC_STAT, 20⟩
def Ctr.MAC_RX_1024_1518 : Ctr := ⟨.MAC_STAT, 21⟩
def Ctr.MAC_RX_1519_2047 : Ctr := ⟨.MAC_STAT, 22⟩
def Ctr.MAC_RX_2048_4095 : Ctr := ⟨.MAC_STAT, 23⟩
def Ctr.MAC_RX_4096_9216 : Ctr := ⟨.MAC_STAT, 24⟩
def Ctr.MAC_RX_9217_16384 : Ctr := ⟨.MAC_STAT, 25⟩
def Ctr.MAC_RX_UNDERSIZE : Ctr := ⟨.MAC_STAT, 26⟩
def Ctr.MAC_RX_FRAGMENT : Ctr := ⟨.MAC_STAT, 27⟩
def Ctr.MAC_RX_OVERSIZE : Ctr := ⟨.MAC_STAT, 28⟩
def Ctr.MAC_RX_JABBER : Ctr := ⟨.MAC_STAT, 29⟩
def Ctr.MAC_RX_FCS_ERR : Ctr := ⟨.MAC_STAT, 30⟩
def Ctr.MAC_RX_PCS_ERR : Ctr := ⟨.MAC_STAT, 31⟩
def Ctr.MAC_RX_MCAST_FILTERED : Ctr := ⟨.MAC_STAT, 32⟩
def Ctr.MAC_RX_CTRL_UNKNOWN : Ctr := ⟨.MAC_STAT, 33⟩
def Ctr.MAC_RX_PAUSE_IGNORED : Ctr := ⟨.MAC_STAT, 34⟩
def Ctr.MAC_RX_PAUSE_ZERO_IDLE : Ctr := ⟨.MAC_STAT, 35⟩
def Ctr.MAC_RX_LPI : Ctr := ⟨.MAC_STAT, 36⟩
def Ctr.MAC_TX_OCTETS : Ctr := ⟨.MAC_STAT, 40⟩
def Ctr.MAC_TX_FRAMES : Ctr := ⟨.MAC_STAT, 41⟩
def Ctr.MAC_TX_UCAST : Ctr := ⟨.MAC_STAT, 42⟩
def Ctr.MAC_TX_MCAST : Ctr := ⟨.MAC_STAT, 43⟩
def Ctr.MAC_TX_BCAST : Ctr := ⟨.MAC_STAT, 44⟩
def Ctr.MAC_TX_PAUSE : Ctr := ⟨.MAC_STAT, 45⟩
def Ctr.MAC_TX_PFC : Ctr := ⟨.MAC_STAT, 46⟩
def Ctr.MAC_TX_PTP : Ctr := ⟨.MAC_STAT, 54⟩
def Ctr.MAC_TX_64 : Ctr := ⟨.MAC_STAT, 55⟩
def Ctr.MAC_TX_65_127 : Ctr := ⟨.MAC_STAT, 56⟩
def Ctr.MAC_TX_128_255 : Ctr := ⟨.MAC_STAT, 57⟩
def Ctr.MAC_TX_256_511 : Ctr := ⟨.MAC_STAT, 58⟩
def Ctr.MAC_TX_512_1023 : Ctr := ⟨.MAC_STAT, 59⟩
def Ctr.MAC_TX_1024_1518 : Ctr := ⟨.MAC_STAT, 60⟩
def Ctr.MAC_TX_1519_2047 : Ctr := ⟨.MAC_STAT, 61⟩
def Ctr.MAC_TX_2048_4095 : Ctr := ⟨.MAC_STAT, 62⟩
def Ctr.MAC_TX_4096_9216 : Ctr := ⟨.MAC_STAT, 63⟩
def Ctr.MAC_TX_9217_16384 : Ctr := ⟨.MAC_STAT, 64⟩
def Ctr.MAC_TX_OVERSIZE_DROP : Ctr := ⟨.MAC_STAT, 65⟩
def Ctr.MAC_TX_PADDED : Ctr := ⟨.MAC_STAT, 66⟩
def Ctr.MAC_TX_ABORTED : Ctr := ⟨.MAC_STAT, 67⟩
def Ctr.MAC_TX_LPI : Ctr := ⟨.MAC_STAT, 68⟩
def Ctr.MAC_PFC_WITHDRAW : Ctr := ⟨.MAC_STAT, 69⟩
def Ctr.MAC_FEC_CORR_CW : Ctr := ⟨.MAC_STAT, 72⟩
def Ctr.MAC_FEC_UNCORR_CW : Ctr := ⟨.MAC_STAT, 73⟩
def Ctr.MAC_FEC_CORR_SYMB : Ctr := ⟨.MAC_STAT, 74⟩
def Ctr.MAC_LINK_DOWN : Ctr := ⟨.MAC_STAT, 75⟩
def Ctr.MAC_PAUSE_STORM : Ctr := ⟨.MAC_STAT, 76⟩
def Ctr.MAC_PAUSE_STORM_LINK : Ctr := ⟨.MAC_STAT, 84⟩
def Ctr.PRS_PASS1_FRAMES : Ctr := ⟨.PRS_CNT, 0⟩
def Ctr.PRS_PASS2_FRAMES : Ctr := ⟨.PRS_CNT, 1⟩
def Ctr.PRS_ERR : Ctr := ⟨.PRS_CNT, 2⟩
def Ctr.PRS_TRUNC_DEPTH : Ctr := ⟨.PRS_CNT, 9⟩
def Ctr.PRS_TRUNC_WINDOW : Ctr := ⟨.PRS_CNT, 10⟩
def Ctr.PRS_TRUNC_STEPS : Ctr := ⟨.PRS_CNT, 11⟩
def Ctr.PRS_FRAG : Ctr := ⟨.PRS_CNT, 12⟩
def Ctr.PRS_FRAG_FIRST : Ctr := ⟨.PRS_CNT, 13⟩
def Ctr.PRS_RECIRC_LIMIT : Ctr := ⟨.PRS_CNT, 14⟩
def Ctr.PRS_PORT_ERR : Ctr := ⟨.PRS_PORT_ERR, 0⟩
def Ctr.TBL_LEARNED : Ctr := ⟨.TBL_SCNT, 0⟩
def Ctr.TBL_LEARN_RATE_DROP : Ctr := ⟨.TBL_SCNT, 1⟩
def Ctr.TBL_LEARN_TABLE_FULL : Ctr := ⟨.TBL_SCNT, 2⟩
def Ctr.TBL_STATION_MOVE : Ctr := ⟨.TBL_SCNT, 3⟩
def Ctr.TBL_AGED : Ctr := ⟨.TBL_SCNT, 4⟩
def Ctr.TBL_RELOCATIONS : Ctr := ⟨.TBL_SCNT, 5⟩
def Ctr.TBL_PARITY_L2 : Ctr := ⟨.TBL_SCNT, 6⟩
def Ctr.TBL_PARITY_LPM : Ctr := ⟨.TBL_SCNT, 7⟩
def Ctr.TBL_LEARN_REQ : Ctr := ⟨.TBL_RCNT, 0⟩
def Ctr.TBL_STATIC_MOVE_DROP : Ctr := ⟨.TBL_RCNT, 1⟩
def Ctr.TBL_MOVE_SKIPPED_LOCKED : Ctr := ⟨.TBL_RCNT, 2⟩
def Ctr.TBL_LOCKED_DROP : Ctr := ⟨.TBL_RCNT, 3⟩
def Ctr.TBL_DA_MISS : Ctr := ⟨.TBL_RCNT, 4⟩
def Ctr.TBL_LPM_MISS : Ctr := ⟨.TBL_RCNT, 5⟩
def Ctr.TBL_EXACT_MISS : Ctr := ⟨.TBL_RCNT, 6⟩
def Ctr.TBL_PARITY_EXACT : Ctr := ⟨.TBL_RCNT, 7⟩
def Ctr.TBL_ENGINE_DROP : Ctr := ⟨.TBL_RCNT, 8⟩
def Ctr.TCM_ROWS_REWRITTEN : Ctr := ⟨.TCM_SCNT, 0⟩
def Ctr.TCM_ENTRIES_LOST : Ctr := ⟨.TCM_SCNT, 1⟩
def Ctr.TCM_SHADOW_REBUILT : Ctr := ⟨.TCM_SCNT, 2⟩
def Ctr.TCM_ENTRIES_MOVED : Ctr := ⟨.TCM_SCNT, 3⟩
def Ctr.TCM_SEARCHES : Ctr := ⟨.TCM_RCNT, 0⟩
def Ctr.TCM_HITS : Ctr := ⟨.TCM_RCNT, 1⟩
def Ctr.TCM_MISSES : Ctr := ⟨.TCM_RCNT, 2⟩
def Ctr.AUT_FRAMES_SCANNED : Ctr := ⟨.AUT_CNT, 0⟩
def Ctr.AUT_BYTES_SCANNED : Ctr := ⟨.AUT_CNT, 1⟩
def Ctr.AUT_MATCHED : Ctr := ⟨.AUT_CNT, 2⟩
def Ctr.AUT_NO_MATCH : Ctr := ⟨.AUT_CNT, 3⟩
def Ctr.AUT_OVERLOAD : Ctr := ⟨.AUT_CNT, 4⟩
def Ctr.AUT_TRUNC_SKIP : Ctr := ⟨.AUT_CNT, 5⟩
def Ctr.AUT_STREAM_FALLBACK : Ctr := ⟨.AUT_CNT, 6⟩
def Ctr.AUT_FLOW_TABLE_FULL : Ctr := ⟨.AUT_CNT, 7⟩
def Ctr.AUT_ENGINE_DROP : Ctr := ⟨.AUT_CNT, 8⟩
def Ctr.AUT_ECC_CORRECTED : Ctr := ⟨.AUT_CNT, 9⟩
def Ctr.ACT_RESOLVED : Ctr := ⟨.ACT_CNT, 0⟩
def Ctr.ACT_NO_DECISION : Ctr := ⟨.ACT_CNT, 1⟩
def Ctr.ACT_DROPPED : Ctr := ⟨.ACT_CNT, 2⟩
def Ctr.ACT_TTL_EXPIRED : Ctr := ⟨.ACT_CNT, 3⟩
def Ctr.ACT_EDIT_SKIPPED : Ctr := ⟨.ACT_CNT, 4⟩
def Ctr.ACT_MC_EMPTY : Ctr := ⟨.ACT_CNT, 5⟩
def Ctr.ACT_COPY_TO_HOST : Ctr := ⟨.ACT_CNT, 6⟩
def Ctr.ACT_NH_PARITY : Ctr := ⟨.ACT_CNT, 7⟩
def Ctr.ACT_PROFILE_PARITY : Ctr := ⟨.ACT_CNT, 8⟩
def Ctr.ACT_CAP_LOST : Ctr := ⟨.ACT_CAP_LOST, 0⟩
def Ctr.MTR_GREEN : Ctr := ⟨.MTR_CNT, 0⟩
def Ctr.MTR_YELLOW : Ctr := ⟨.MTR_CNT, 1⟩
def Ctr.MTR_RED : Ctr := ⟨.MTR_CNT, 2⟩
def Ctr.MTR_METER_DROP : Ctr := ⟨.MTR_CNT, 3⟩
def Ctr.MTR_METERS_LOST : Ctr := ⟨.MTR_CNT, 4⟩
def Ctr.MIR_COPIES : Ctr := ⟨.MIR_COPIES, 0⟩
def Ctr.MIR_SKIPPED : Ctr := ⟨.MIR_SKIPPED, 0⟩
def Ctr.BUF_ECC_CORRECTED : Ctr := ⟨.BUF_CNT, 0⟩
def Ctr.BUF_ECC_UNCORRECTED : Ctr := ⟨.BUF_CNT, 1⟩
def Ctr.BUF_E2E_CRC_ERR : Ctr := ⟨.BUF_CNT, 2⟩
def Ctr.BUF_E2E_FCS_ERR : Ctr := ⟨.BUF_CNT, 3⟩
def Ctr.BUF_ALLOC_RACE_LOSS : Ctr := ⟨.BUF_CNT, 4⟩
def Ctr.BUF_ALLOC_EMPTY : Ctr := ⟨.BUF_CNT, 5⟩
def Ctr.BUF_DESC_EMPTY : Ctr := ⟨.BUF_CNT, 6⟩
def Ctr.BUF_FREE_REFUSED : Ctr := ⟨.BUF_CNT, 7⟩
def Ctr.BUF_WINTER_DISCARD : Ctr := ⟨.BUF_CNT, 8⟩
def Ctr.QUE_ENQ_FRAMES : Ctr := ⟨.QUE_QCNT, 0⟩
def Ctr.QUE_DROP_FRAMES : Ctr := ⟨.QUE_QCNT, 1⟩
def Ctr.QUE_ECN_MARKED : Ctr := ⟨.QUE_QCNT, 2⟩
def Ctr.QUE_FLUSHED : Ctr := ⟨.QUE_QCNT, 3⟩
def Ctr.QUE_THRESHOLD_DROP : Ctr := ⟨.QUE_PCNT, 0⟩
def Ctr.QUE_LINK_DOWN_DROP : Ctr := ⟨.QUE_PCNT, 1⟩
def Ctr.QUE_MC_EGRESS_DROP : Ctr := ⟨.QUE_PCNT, 2⟩
def Ctr.QUE_FLAP_RESUMED : Ctr := ⟨.QUE_PCNT, 3⟩
def Ctr.QUE_FLAP_EXPIRED : Ctr := ⟨.QUE_PCNT, 4⟩
def Ctr.QUE_FLAP_TO_HOLD : Ctr := ⟨.QUE_PCNT, 5⟩
def Ctr.QUE_HEADROOM_OVERFLOW : Ctr := ⟨.QUE_PCNT, 6⟩
def Ctr.QUE_PFC_XOFF : Ctr := ⟨.QUE_PCNT, 7⟩
def Ctr.HLD_T_HELD_FRAMES : Ctr := ⟨.HLD_TCNT, 0⟩
def Ctr.HLD_T_HELD_BYTES : Ctr := ⟨.HLD_TCNT, 1⟩
def Ctr.HLD_T_DRAINED_FRAMES : Ctr := ⟨.HLD_TCNT, 2⟩
def Ctr.HLD_T_AGE_DISCARD : Ctr := ⟨.HLD_TCNT, 3⟩
def Ctr.HLD_T_FULL_DROP : Ctr := ⟨.HLD_TCNT, 4⟩
def Ctr.HLD_T_INELIGIBLE_DROP : Ctr := ⟨.HLD_TCNT, 5⟩
def Ctr.HLD_T_DISCARDED : Ctr := ⟨.HLD_TCNT, 6⟩
def Ctr.HLD_T_LOST : Ctr := ⟨.HLD_TCNT, 7⟩
def Ctr.HLD_OUTER_CORRECTED : Ctr := ⟨.HLD_GCNT, 0⟩
def Ctr.HLD_OUTER_UNCORRECTABLE : Ctr := ⟨.HLD_GCNT, 1⟩
def Ctr.HLD_INNER_CORRECTED_BITS : Ctr := ⟨.HLD_GCNT, 2⟩
def Ctr.HLD_SCRUB_REWRITES : Ctr := ⟨.HLD_GCNT, 3⟩
def Ctr.HLD_GAP_MOVES : Ctr := ⟨.HLD_GCNT, 4⟩
def Ctr.HLD_ZONE_SWAPS : Ctr := ⟨.HLD_GCNT, 5⟩
def Ctr.HLD_FREE_REFUSED : Ctr := ⟨.HLD_GCNT, 6⟩
def Ctr.HLD_ROWS_PADDED : Ctr := ⟨.HLD_GCNT, 7⟩
def Ctr.HLD_HEAD_CHAINS : Ctr := ⟨.HLD_GCNT, 8⟩
def Ctr.HLD_PF_FLUSHES : Ctr := ⟨.HLD_GCNT, 9⟩
def Ctr.TIM_EPOCHS_OPENED : Ctr := ⟨.TIM_CNT, 0⟩
def Ctr.TIM_STEPS : Ctr := ⟨.TIM_CNT, 1⟩
def Ctr.TIM_TXTS_OVF : Ctr := ⟨.TIM_CNT, 2⟩
def Ctr.TIM_EPOCH_EXPIRED : Ctr := ⟨.TIM_CNT, 3⟩
def Ctr.TIM_ONE_STEP_UPDATES : Ctr := ⟨.TIM_CNT, 4⟩
def Ctr.TIM_CORR_SATURATED : Ctr := ⟨.TIM_CNT, 5⟩
def Ctr.TIM_PTP_DISCARD : Ctr := ⟨.TIM_CNT, 6⟩
def Ctr.TIM_PTP_IGNORED : Ctr := ⟨.TIM_CNT, 7⟩
def Ctr.TIM_PTP_ISOLATED : Ctr := ⟨.TIM_CNT, 8⟩
def Ctr.TIM_JUMP_REFUSED : Ctr := ⟨.TIM_CNT, 9⟩
def Ctr.TIM_PULSE_MISSED : Ctr := ⟨.TIM_CNT, 10⟩
def Ctr.TIM_CAP_OVF : Ctr := ⟨.TIM_CNT, 11⟩
def Ctr.TIM_TIME_BUS_ERR : Ctr := ⟨.TIM_CNT, 12⟩
def Ctr.FAB_HELLO_TX : Ctr := ⟨.FAB_CNT, 0⟩
def Ctr.FAB_HELLO_RX : Ctr := ⟨.FAB_CNT, 1⟩
def Ctr.FAB_BAD_FRAME : Ctr := ⟨.FAB_CNT, 2⟩
def Ctr.FAB_BAD_TAG : Ctr := ⟨.FAB_CNT, 3⟩
def Ctr.FAB_REPLAYED : Ctr := ⟨.FAB_CNT, 4⟩
def Ctr.FAB_INTERVAL_REFUSED : Ctr := ⟨.FAB_CNT, 5⟩
def Ctr.FAB_VERSION_MISMATCH : Ctr := ⟨.FAB_CNT, 6⟩
def Ctr.FAB_NOT_MEMBER_DROP : Ctr := ⟨.FAB_CNT, 7⟩
def Ctr.FAB_TRANSIT_FRAMES : Ctr := ⟨.FAB_CNT, 8⟩
def Ctr.FAB_HOP_LIMIT_DROP : Ctr := ⟨.FAB_CNT, 9⟩
def Ctr.FAB_RPF_DROP : Ctr := ⟨.FAB_CNT, 10⟩
def Ctr.FAB_SEQ_GAP : Ctr := ⟨.FAB_CNT, 11⟩
def Ctr.FAB_SEQ_LATE : Ctr := ⟨.FAB_CNT, 12⟩
def Ctr.FAB_LSA_RX : Ctr := ⟨.FAB_CNT, 13⟩
def Ctr.FAB_SPF_RUNS : Ctr := ⟨.FAB_CNT, 14⟩
def Ctr.FAB_CONFLICTS : Ctr := ⟨.FAB_CNT, 15⟩
def Ctr.FAB_LSDB_FULL_IGNORED : Ctr := ⟨.FAB_CNT, 16⟩
def Ctr.FAB_ROUTE_PARITY : Ctr := ⟨.FAB_CNT, 17⟩
def Ctr.PAIR_HB_TX : Ctr := ⟨.PAIR_CNT, 0⟩
def Ctr.PAIR_HB_RX : Ctr := ⟨.PAIR_CNT, 1⟩
def Ctr.PAIR_RENEW_OK : Ctr := ⟨.PAIR_CNT, 2⟩
def Ctr.PAIR_RENEW_FAILED : Ctr := ⟨.PAIR_CNT, 3⟩
def Ctr.PAIR_CLAIMS : Ctr := ⟨.PAIR_CNT, 4⟩
def Ctr.PAIR_CLAIMS_REFUSED : Ctr := ⟨.PAIR_CNT, 5⟩
def Ctr.PAIR_EQUINOXES : Ctr := ⟨.PAIR_CNT, 6⟩
def Ctr.PAIR_STANDBY_DISCARD : Ctr := ⟨.PAIR_CNT, 7⟩
def Ctr.PAIR_WITNESS_ANSWERS : Ctr := ⟨.PAIR_CNT, 8⟩
def Ctr.PAIR_NON_PAIR_DROP : Ctr := ⟨.PAIR_CNT, 9⟩
def Ctr.PAIR_BAD_MSG : Ctr := ⟨.PAIR_CNT, 10⟩
def Ctr.PAIR_BAD_TAG : Ctr := ⟨.PAIR_CNT, 11⟩
def Ctr.PAIR_WINDOWS_MATCHED : Ctr := ⟨.PAIR_CNT, 12⟩
def Ctr.PAIR_WINDOWS_MISMATCHED : Ctr := ⟨.PAIR_CNT, 13⟩
def Ctr.PAIR_WINDOWS_UNJUDGED : Ctr := ⟨.PAIR_CNT, 14⟩
def Ctr.PAIR_SAMPLES : Ctr := ⟨.PAIR_CNT, 15⟩
def Ctr.PAIR_SYNC_RECORDS : Ctr := ⟨.PAIR_CNT, 16⟩
def Ctr.PAIR_COMPARES : Ctr := ⟨.PAIR_CNT, 17⟩
def Ctr.DMA_TX_FRAMES : Ctr := ⟨.DMA_CNT, 0⟩
def Ctr.DMA_TX_BYTES : Ctr := ⟨.DMA_CNT, 1⟩
def Ctr.DMA_RX_FRAMES : Ctr := ⟨.DMA_CNT, 2⟩
def Ctr.DMA_RX_BYTES : Ctr := ⟨.DMA_CNT, 3⟩
def Ctr.DMA_RX_NO_DESC : Ctr := ⟨.DMA_CNT, 4⟩
def Ctr.DMA_TX_DROPPED : Ctr := ⟨.DMA_CNT, 5⟩
def Ctr.DMA_RING_HALTS : Ctr := ⟨.DMA_CNT, 6⟩
def Ctr.DMA_DMA_ERRORS : Ctr := ⟨.DMA_CNT, 7⟩
def Ctr.DMA_HOST_VIOLATIONS : Ctr := ⟨.DMA_CNT, 8⟩
def Ctr.DMA_FLR_COUNT : Ctr := ⟨.DMA_CNT, 9⟩
def Ctr.DMA_AER_CORRECTED : Ctr := ⟨.DMA_CNT, 10⟩
def Ctr.MBX_H2F_MESSAGES : Ctr := ⟨.MBX_CNT, 0⟩
def Ctr.MBX_F2H_MESSAGES : Ctr := ⟨.MBX_CNT, 1⟩
def Ctr.MBX_H2F_LOST : Ctr := ⟨.MBX_CNT, 2⟩
def Ctr.MBX_F2H_LOST : Ctr := ⟨.MBX_CNT, 3⟩
def Ctr.MBX_COLLISIONS : Ctr := ⟨.MBX_CNT, 4⟩
def Ctr.MBX_CRED_FAILURES : Ctr := ⟨.MBX_CNT, 5⟩
def Ctr.MBX_DOMAIN_DOWN_ACCESSES : Ctr := ⟨.MBX_CNT, 6⟩
def Ctr.MBX_WITNESS_LATE : Ctr := ⟨.MBX_CNT, 7⟩
def Ctr.EVR_RECORDED : Ctr := ⟨.EVR_CNT, 0⟩
def Ctr.EVR_DROPPED : Ctr := ⟨.EVR_CNT, 1⟩
def Ctr.EVR_CORRUPT : Ctr := ⟨.EVR_CNT, 2⟩
def Ctr.EVR_FLUSHES : Ctr := ⟨.EVR_CNT, 3⟩
def Ctr.EVR_FREEZES : Ctr := ⟨.EVR_CNT, 4⟩
def Ctr.EVR_FREEZE_EARLY : Ctr := ⟨.EVR_CNT, 5⟩
def Ctr.EVR_CLEARS : Ctr := ⟨.EVR_CNT, 6⟩
def Ctr.EVR_RELEASED : Ctr := ⟨.EVR_CNT, 7⟩
def Ctr.EVR_SUPPRESSED : Ctr := ⟨.EVR_CNT, 8⟩

/-- Which half of a counter pair a register shows. -/
inductive Half | lo | hi
  deriving DecidableEq, Repr

/-- The counter block and half that a LO or HI register shows. -/
def Reg.counter : Reg → Option (CtrBlock × Half)
  | .MAC_STAT_LO => some (.MAC_STAT, .lo)
  | .MAC_STAT_HI => some (.MAC_STAT, .hi)
  | .PRS_CNT_LO => some (.PRS_CNT, .lo)
  | .PRS_CNT_HI => some (.PRS_CNT, .hi)
  | .PRS_PORT_ERR_LO => some (.PRS_PORT_ERR, .lo)
  | .PRS_PORT_ERR_HI => some (.PRS_PORT_ERR, .hi)
  | .TBL_SCNT_LO => some (.TBL_SCNT, .lo)
  | .TBL_SCNT_HI => some (.TBL_SCNT, .hi)
  | .TBL_RCNT_LO => some (.TBL_RCNT, .lo)
  | .TBL_RCNT_HI => some (.TBL_RCNT, .hi)
  | .TCM_SCNT_LO => some (.TCM_SCNT, .lo)
  | .TCM_SCNT_HI => some (.TCM_SCNT, .hi)
  | .TCM_RCNT_LO => some (.TCM_RCNT, .lo)
  | .TCM_RCNT_HI => some (.TCM_RCNT, .hi)
  | .AUT_CNT_LO => some (.AUT_CNT, .lo)
  | .AUT_CNT_HI => some (.AUT_CNT, .hi)
  | .ACT_CNT_LO => some (.ACT_CNT, .lo)
  | .ACT_CNT_HI => some (.ACT_CNT, .hi)
  | .ACT_CAP_LOST_LO => some (.ACT_CAP_LOST, .lo)
  | .ACT_CAP_LOST_HI => some (.ACT_CAP_LOST, .hi)
  | .MTR_CNT_LO => some (.MTR_CNT, .lo)
  | .MTR_CNT_HI => some (.MTR_CNT, .hi)
  | .MIR_COPIES_LO => some (.MIR_COPIES, .lo)
  | .MIR_COPIES_HI => some (.MIR_COPIES, .hi)
  | .MIR_SKIPPED_LO => some (.MIR_SKIPPED, .lo)
  | .MIR_SKIPPED_HI => some (.MIR_SKIPPED, .hi)
  | .BUF_CNT_LO => some (.BUF_CNT, .lo)
  | .BUF_CNT_HI => some (.BUF_CNT, .hi)
  | .QUE_QCNT_LO => some (.QUE_QCNT, .lo)
  | .QUE_QCNT_HI => some (.QUE_QCNT, .hi)
  | .QUE_PCNT_LO => some (.QUE_PCNT, .lo)
  | .QUE_PCNT_HI => some (.QUE_PCNT, .hi)
  | .HLD_TCNT_LO => some (.HLD_TCNT, .lo)
  | .HLD_TCNT_HI => some (.HLD_TCNT, .hi)
  | .HLD_GCNT_LO => some (.HLD_GCNT, .lo)
  | .HLD_GCNT_HI => some (.HLD_GCNT, .hi)
  | .TIM_CNT_LO => some (.TIM_CNT, .lo)
  | .TIM_CNT_HI => some (.TIM_CNT, .hi)
  | .FAB_CNT_LO => some (.FAB_CNT, .lo)
  | .FAB_CNT_HI => some (.FAB_CNT, .hi)
  | .PAIR_CNT_LO => some (.PAIR_CNT, .lo)
  | .PAIR_CNT_HI => some (.PAIR_CNT, .hi)
  | .DMA_CNT_LO => some (.DMA_CNT, .lo)
  | .DMA_CNT_HI => some (.DMA_CNT, .hi)
  | .MBX_CNT_LO => some (.MBX_CNT, .lo)
  | .MBX_CNT_HI => some (.MBX_CNT, .hi)
  | .EVR_CNT_LO => some (.EVR_CNT, .lo)
  | .EVR_CNT_HI => some (.EVR_CNT, .hi)
  | _ => none

/-- Severities of records (R486). -/
inductive Severity | info | notice | warning | error | fatal
  deriving DecidableEq, Repr

/-- The event codes the device records (R500). -/
inductive EvCode
  | REGION_ISOLATED | D2D_WIRE_SPARED | D2D_LINK_FAILED | LANE_DIE_FAILED | HOLD_DIE_FAILED | WINTER_ENTERED
  | WINTER_LEFT | WINTER_CAUSE_ADDED | WINTER_EXIT_REFUSED | AUTUMN_ENTERED | WATCHDOG_EXPIRED
  | SPRING_CHECK_FAILED | SPRING_STALLED | SPRING_LEFT | WINTER_REQUESTED | ROOT_CLOCK_LOST | AVS_FAULT
  | PFAIL_ASSERTED | START | FW_SLOT_FALLBACK | BOOT_SOURCE_FALLBACK | BOOT_WAIT_HOST | BOOT_SEL_RESERVED
  | MON_WARNING | MON_WARNING_CLEARED | MON_SENSOR_FAILED | MON_HARD_LIMIT | MON_COVERAGE_LOST | THERMTRIP
  | REGION_RELOAD_START | REGION_RELOAD_DONE | REGION_RELOAD_FAILED | IMAGE_COMMITTED | IMAGE_REFUSED
  | IMAGE_UNSIGNED | IMAGE_TRIAL_PASSED | IMAGE_TRIAL_FAILED | IMAGE_FALLBACK | AMENDMENT_APPLIED
  | SECTION_UNCORRECTABLE | OWNER_KEY_SET | LANE_TURN_ABANDONED | LANE_VERIFY_UNDECIDED | HOLD_RETRAIN_ABORTED
  | HOLD_RETRAIN_SUSPENDED | HOLD_RETRAIN_FAILED | LANE_SLICE_RETIRED | SHADOW_SLICE_RETIRED
  | LANE_CLUSTER_EXHAUSTED | D2D_RETRAIN_FAILED | CAL_CLAMPED | CAL_SAVED | CAL_RESTORED | CAL_RESTORE_FAILED
  | LINK_UP | LINK_DOWN | PAUSE_STORM | MAC_FRAME_VIOLATION | MAC_CTRL_VIOLATION | AN_DUPLEX_REFUSED
  | LINK_FLAP_ISOLATED | MAC_UNIT_ISOLATED | PARSE_ERROR | RECIRC_LIMIT | PARSE_NODE_REWRITTEN | PARSER_FAILED
  | TBL_PARITY | TRIE_NODE_REBUILT | TCAM_ROW_REWRITTEN | TCAM_ENTRY_LOST | AUT_OVERLOAD | AUT_STATE_ECC
  | AUT_FLOW_TABLE_FULL | ACT_PROFILE_PARITY | NEXT_HOP_PARITY | METER_STATE_ECC | METER_LOST
  | FLOW_COUNTER_LOST | LOOKUP_ENGINE_SPARED | AUT_ENGINE_SPARED | LOOKUP_CLUSTER_EXHAUSTED
  | TBL_REGION_MEMORY_FAILED | TCAM_BANK_FAILED | AUT_CLUSTER_EXHAUSTED | AUT_STATE_MEMORY_FAILED
  | ACT_MEMORY_FAILED | METER_BANK_FAILED | TBL_WORD_SPARED | TBL_SHARED_MEMORY_FAILED | TBL_LEARN_TABLE_FULL
  | TBL_LEARN_RATE_LIMITED | MC_GROUP_LOST | TBL_RING_HALTED | TCM_RING_HALTED | LINK_FLAP_EXPIRED
  | HEADROOM_OVERFLOW | BUF_ECC_UNCORRECTABLE | E2E_CHECK_FAILED | BUF_FREE_REFUSED | BUF_WORD_SPARED
  | BUF_CELL_RETIRED | BUF_LINK_MEMORY_FAILED | BUF_POOL_LOW | BUF_CFG_REFUSED | HOLD_STRIPE_LOST
  | HOLD_FREE_REFUSED | HOLD_FULL | HOLD_AGE_DISCARD | HOLD_INELIGIBLE_DROP | HOLD_DRAIN_DONE
  | HOLD_OUT_OF_SERVICE | HOLD_WEAR_MARGIN | DURABLE_RESTORED | DURABLE_DISCARDED | HOLD_MOUNTED
  | HOLD_METADATA_LOST | HOLD_FORMATTED | HOLD_PF_FLUSH | CAPTURE_LOST | CAPTURE_HOST_STOPPED | TXTS_OVERFLOW
  | PTP_VIOLATION | PULSE_MISSED | CAPTURE_OVERFLOW | TIME_BUS_FAULT | TIME_STEPPED | TIME_JUMP_REFUSED
  | GM_CHANGED | GM_LOST | TIME_LOCKED | FAB_VIOLATION | FAB_ADJ_UP | FAB_ADJ_DOWN | FAB_VERSION_ISOLATED
  | FAB_ADDRESS_ELECTED | FAB_ADDRESS_CONFLICT | FAB_MEMBER_REPLACED | FAB_DEVICE_UNREACHABLE
  | FAB_MEMBER_NOTICE | FAB_LSDB_FULL | LEASE_INTERLOCK | LEASE_PIN_MISMATCH | PAIR_UP | PAIR_HB_LOST
  | PAIR_EQUINOX | PAIR_LEASE_EXPIRED | PAIR_CLAIM_REFUSED | PAIR_DIGEST_MISMATCH | PAIR_FAULT_LOCATED
  | PAIR_TABLES_DIVERGED | PAIR_COMPARE_UNRESOLVED | PAIR_RESYNC_DONE | PAIR_STRUCTURE_MISMATCH
  | PAIR_VERSION_ISOLATED | PAIR_VIOLATION | PAIR_LINKS_LOST | HOST_LINK_UP | HOST_LINK_DEGRADED
  | PERST_ASSERTED | HOST_RING_HALTED | HOST_VIOLATION | HOST_DMA_ERROR | HOST_FLR | HOST_LINK_LOST
  | HOST_LOCK_RELEASED | CFG_PARITY_UNIT | CFG_PARITY_SAFETY | REG_INTERNAL_VIOLATION | MBX_MESSAGE_LOST
  | LOCK_BAD_RELEASE | LOCK_RELEASED_BY_RESET | MBX_CREDENTIAL_REFUSED | MBX_CRED_HOLDOFF | ATTEST_ISSUED
  | SMBUS_VIOLATION | FUSE_COMMIT_REFUSED | MBX_VIOLATION | LOST | CLEARED | FREEZE_RELEASED_EARLY
  | EVR_SEQ_RECOVERED | EVR_ERASE_RESUMED | EVR_STAGE_RELEASED
  deriving DecidableEq, Repr

/-- The code of an event (Table 19-6). -/
def EvCode.code : EvCode → Nat
  | .REGION_ISOLATED => 0x2014
  | .D2D_WIRE_SPARED => 0x3010
  | .D2D_LINK_FAILED => 0x3011
  | .LANE_DIE_FAILED => 0x3012
  | .HOLD_DIE_FAILED => 0x3013
  | .WINTER_ENTERED => 0x4001
  | .WINTER_LEFT => 0x4002
  | .WINTER_CAUSE_ADDED => 0x4003
  | .WINTER_EXIT_REFUSED => 0x4004
  | .AUTUMN_ENTERED => 0x4005
  | .WATCHDOG_EXPIRED => 0x4006
  | .SPRING_CHECK_FAILED => 0x6010
  | .SPRING_STALLED => 0x6011
  | .SPRING_LEFT => 0x6012
  | .WINTER_REQUESTED => 0x7001
  | .ROOT_CLOCK_LOST => 0x4101
  | .AVS_FAULT => 0x4102
  | .PFAIL_ASSERTED => 0x4103
  | .START => 0x6110
  | .FW_SLOT_FALLBACK => 0x6111
  | .BOOT_SOURCE_FALLBACK => 0x6112
  | .BOOT_WAIT_HOST => 0x6113
  | .BOOT_SEL_RESERVED => 0x6114
  | .MON_WARNING => 0x0201
  | .MON_WARNING_CLEARED => 0x0202
  | .MON_SENSOR_FAILED => 0x0203
  | .MON_HARD_LIMIT => 0x4201
  | .MON_COVERAGE_LOST => 0x4202
  | .THERMTRIP => 0x4203
  | .REGION_RELOAD_START => 0x2301
  | .REGION_RELOAD_DONE => 0x2302
  | .REGION_RELOAD_FAILED => 0x2303
  | .IMAGE_COMMITTED => 0x6301
  | .IMAGE_REFUSED => 0x6302
  | .IMAGE_UNSIGNED => 0x6303
  | .IMAGE_TRIAL_PASSED => 0x6304
  | .IMAGE_TRIAL_FAILED => 0x6305
  | .IMAGE_FALLBACK => 0x6306
  | .AMENDMENT_APPLIED => 0x6307
  | .SECTION_UNCORRECTABLE => 0x6308
  | .OWNER_KEY_SET => 0x6309
  | .LANE_TURN_ABANDONED => 0x0401
  | .LANE_VERIFY_UNDECIDED => 0x0402
  | .HOLD_RETRAIN_ABORTED => 0x0410
  | .HOLD_RETRAIN_SUSPENDED => 0x0411
  | .HOLD_RETRAIN_FAILED => 0x0412
  | .LANE_SLICE_RETIRED => 0x1401
  | .SHADOW_SLICE_RETIRED => 0x1402
  | .LANE_CLUSTER_EXHAUSTED => 0x1403
  | .D2D_RETRAIN_FAILED => 0x3401
  | .CAL_CLAMPED => 0x6401
  | .CAL_SAVED => 0x6402
  | .CAL_RESTORED => 0x6403
  | .CAL_RESTORE_FAILED => 0x6404
  | .LINK_UP => 0x0501
  | .LINK_DOWN => 0x0502
  | .PAUSE_STORM => 0x0503
  | .MAC_FRAME_VIOLATION => 0x0504
  | .MAC_CTRL_VIOLATION => 0x0505
  | .AN_DUPLEX_REFUSED => 0x0506
  | .LINK_FLAP_ISOLATED => 0x0507
  | .MAC_UNIT_ISOLATED => 0x0508
  | .PARSE_ERROR => 0x0601
  | .RECIRC_LIMIT => 0x0602
  | .PARSE_NODE_REWRITTEN => 0x0603
  | .PARSER_FAILED => 0x2601
  | .TBL_PARITY => 0x0701
  | .TRIE_NODE_REBUILT => 0x0702
  | .TCAM_ROW_REWRITTEN => 0x0710
  | .TCAM_ENTRY_LOST => 0x0711
  | .AUT_OVERLOAD => 0x0720
  | .AUT_STATE_ECC => 0x0721
  | .AUT_FLOW_TABLE_FULL => 0x0722
  | .ACT_PROFILE_PARITY => 0x0730
  | .NEXT_HOP_PARITY => 0x0731
  | .METER_STATE_ECC => 0x0732
  | .METER_LOST => 0x0733
  | .FLOW_COUNTER_LOST => 0x0734
  | .LOOKUP_ENGINE_SPARED => 0x1701
  | .AUT_ENGINE_SPARED => 0x1720
  | .LOOKUP_CLUSTER_EXHAUSTED => 0x2701
  | .TBL_REGION_MEMORY_FAILED => 0x2702
  | .TCAM_BANK_FAILED => 0x2710
  | .AUT_CLUSTER_EXHAUSTED => 0x2720
  | .AUT_STATE_MEMORY_FAILED => 0x2721
  | .ACT_MEMORY_FAILED => 0x2730
  | .METER_BANK_FAILED => 0x2731
  | .TBL_WORD_SPARED => 0x3701
  | .TBL_SHARED_MEMORY_FAILED => 0x3702
  | .TBL_LEARN_TABLE_FULL => 0x6701
  | .TBL_LEARN_RATE_LIMITED => 0x6702
  | .MC_GROUP_LOST => 0x6730
  | .TBL_RING_HALTED => 0x7701
  | .TCM_RING_HALTED => 0x7710
  | .LINK_FLAP_EXPIRED => 0x0801
  | .HEADROOM_OVERFLOW => 0x0802
  | .BUF_ECC_UNCORRECTABLE => 0x0803
  | .E2E_CHECK_FAILED => 0x0804
  | .BUF_FREE_REFUSED => 0x0805
  | .BUF_WORD_SPARED => 0x3801
  | .BUF_CELL_RETIRED => 0x3802
  | .BUF_LINK_MEMORY_FAILED => 0x3803
  | .BUF_POOL_LOW => 0x3804
  | .BUF_CFG_REFUSED => 0x6801
  | .HOLD_STRIPE_LOST => 0x0901
  | .HOLD_FREE_REFUSED => 0x0902
  | .HOLD_FULL => 0x0903
  | .HOLD_AGE_DISCARD => 0x0904
  | .HOLD_INELIGIBLE_DROP => 0x0905
  | .HOLD_DRAIN_DONE => 0x0906
  | .HOLD_OUT_OF_SERVICE => 0x3901
  | .HOLD_WEAR_MARGIN => 0x3902
  | .DURABLE_RESTORED => 0x6901
  | .DURABLE_DISCARDED => 0x6902
  | .HOLD_MOUNTED => 0x6903
  | .HOLD_METADATA_LOST => 0x6904
  | .HOLD_FORMATTED => 0x6905
  | .HOLD_PF_FLUSH => 0x6906
  | .CAPTURE_LOST => 0x6930
  | .CAPTURE_HOST_STOPPED => 0x6931
  | .TXTS_OVERFLOW => 0x0A01
  | .PTP_VIOLATION => 0x0A02
  | .PULSE_MISSED => 0x0A03
  | .CAPTURE_OVERFLOW => 0x0A04
  | .TIME_BUS_FAULT => 0x3A01
  | .TIME_STEPPED => 0x6A01
  | .TIME_JUMP_REFUSED => 0x6A02
  | .GM_CHANGED => 0x6A03
  | .GM_LOST => 0x6A04
  | .TIME_LOCKED => 0x6A05
  | .FAB_VIOLATION => 0x0B01
  | .FAB_ADJ_UP => 0x0B02
  | .FAB_ADJ_DOWN => 0x0B03
  | .FAB_VERSION_ISOLATED => 0x0B04
  | .FAB_ADDRESS_ELECTED => 0x5B01
  | .FAB_ADDRESS_CONFLICT => 0x5B02
  | .FAB_MEMBER_REPLACED => 0x5B03
  | .FAB_DEVICE_UNREACHABLE => 0x5B04
  | .FAB_MEMBER_NOTICE => 0x5B05
  | .FAB_LSDB_FULL => 0x5B06
  | .LEASE_INTERLOCK => 0x4C01
  | .LEASE_PIN_MISMATCH => 0x4C02
  | .PAIR_UP => 0x5C01
  | .PAIR_HB_LOST => 0x5C02
  | .PAIR_EQUINOX => 0x5C03
  | .PAIR_LEASE_EXPIRED => 0x5C04
  | .PAIR_CLAIM_REFUSED => 0x5C05
  | .PAIR_DIGEST_MISMATCH => 0x5C06
  | .PAIR_FAULT_LOCATED => 0x5C07
  | .PAIR_TABLES_DIVERGED => 0x5C08
  | .PAIR_COMPARE_UNRESOLVED => 0x5C09
  | .PAIR_RESYNC_DONE => 0x5C0A
  | .PAIR_STRUCTURE_MISMATCH => 0x5C0B
  | .PAIR_VERSION_ISOLATED => 0x5C0C
  | .PAIR_VIOLATION => 0x5C0D
  | .PAIR_LINKS_LOST => 0x5C0E
  | .HOST_LINK_UP => 0x6D03
  | .HOST_LINK_DEGRADED => 0x6D04
  | .PERST_ASSERTED => 0x7D01
  | .HOST_RING_HALTED => 0x7D02
  | .HOST_VIOLATION => 0x7D03
  | .HOST_DMA_ERROR => 0x7D04
  | .HOST_FLR => 0x7D05
  | .HOST_LINK_LOST => 0x7D06
  | .HOST_LOCK_RELEASED => 0x7D07
  | .CFG_PARITY_UNIT => 0x0E01
  | .CFG_PARITY_SAFETY => 0x4E01
  | .REG_INTERNAL_VIOLATION => 0x6E02
  | .MBX_MESSAGE_LOST => 0x6E03
  | .LOCK_BAD_RELEASE => 0x6E04
  | .LOCK_RELEASED_BY_RESET => 0x6E05
  | .MBX_CREDENTIAL_REFUSED => 0x6E06
  | .MBX_CRED_HOLDOFF => 0x6E07
  | .ATTEST_ISSUED => 0x6E08
  | .SMBUS_VIOLATION => 0x7E01
  | .FUSE_COMMIT_REFUSED => 0x7E02
  | .MBX_VIOLATION => 0x7E03
  | .LOST => 0x6F01
  | .CLEARED => 0x6F02
  | .FREEZE_RELEASED_EARLY => 0x6F03
  | .EVR_SEQ_RECOVERED => 0x6F04
  | .EVR_ERASE_RESUMED => 0x6F05
  | .EVR_STAGE_RELEASED => 0x6F06

/-- The severity of an event (Table 19-6). -/
def EvCode.severity : EvCode → Severity
  | .REGION_ISOLATED => .error
  | .D2D_WIRE_SPARED => .warning
  | .D2D_LINK_FAILED => .fatal
  | .LANE_DIE_FAILED => .error
  | .HOLD_DIE_FAILED => .error
  | .WINTER_ENTERED => .fatal
  | .WINTER_LEFT => .notice
  | .WINTER_CAUSE_ADDED => .error
  | .WINTER_EXIT_REFUSED => .warning
  | .AUTUMN_ENTERED => .error
  | .WATCHDOG_EXPIRED => .fatal
  | .SPRING_CHECK_FAILED => .error
  | .SPRING_STALLED => .warning
  | .SPRING_LEFT => .notice
  | .WINTER_REQUESTED => .notice
  | .ROOT_CLOCK_LOST => .fatal
  | .AVS_FAULT => .error
  | .PFAIL_ASSERTED => .warning
  | .START => .info
  | .FW_SLOT_FALLBACK => .warning
  | .BOOT_SOURCE_FALLBACK => .warning
  | .BOOT_WAIT_HOST => .notice
  | .BOOT_SEL_RESERVED => .error
  | .MON_WARNING => .warning
  | .MON_WARNING_CLEARED => .info
  | .MON_SENSOR_FAILED => .error
  | .MON_HARD_LIMIT => .fatal
  | .MON_COVERAGE_LOST => .fatal
  | .THERMTRIP => .fatal
  | .REGION_RELOAD_START => .info
  | .REGION_RELOAD_DONE => .info
  | .REGION_RELOAD_FAILED => .error
  | .IMAGE_COMMITTED => .info
  | .IMAGE_REFUSED => .error
  | .IMAGE_UNSIGNED => .notice
  | .IMAGE_TRIAL_PASSED => .notice
  | .IMAGE_TRIAL_FAILED => .error
  | .IMAGE_FALLBACK => .warning
  | .AMENDMENT_APPLIED => .notice
  | .SECTION_UNCORRECTABLE => .fatal
  | .OWNER_KEY_SET => .notice
  | .LANE_TURN_ABANDONED => .notice
  | .LANE_VERIFY_UNDECIDED => .warning
  | .HOLD_RETRAIN_ABORTED => .notice
  | .HOLD_RETRAIN_SUSPENDED => .warning
  | .HOLD_RETRAIN_FAILED => .error
  | .LANE_SLICE_RETIRED => .error
  | .SHADOW_SLICE_RETIRED => .error
  | .LANE_CLUSTER_EXHAUSTED => .error
  | .D2D_RETRAIN_FAILED => .warning
  | .CAL_CLAMPED => .notice
  | .CAL_SAVED => .info
  | .CAL_RESTORED => .info
  | .CAL_RESTORE_FAILED => .warning
  | .LINK_UP => .info
  | .LINK_DOWN => .notice
  | .PAUSE_STORM => .warning
  | .MAC_FRAME_VIOLATION => .notice
  | .MAC_CTRL_VIOLATION => .notice
  | .AN_DUPLEX_REFUSED => .warning
  | .LINK_FLAP_ISOLATED => .warning
  | .MAC_UNIT_ISOLATED => .error
  | .PARSE_ERROR => .notice
  | .RECIRC_LIMIT => .notice
  | .PARSE_NODE_REWRITTEN => .warning
  | .PARSER_FAILED => .error
  | .TBL_PARITY => .warning
  | .TRIE_NODE_REBUILT => .notice
  | .TCAM_ROW_REWRITTEN => .warning
  | .TCAM_ENTRY_LOST => .error
  | .AUT_OVERLOAD => .notice
  | .AUT_STATE_ECC => .warning
  | .AUT_FLOW_TABLE_FULL => .notice
  | .ACT_PROFILE_PARITY => .warning
  | .NEXT_HOP_PARITY => .warning
  | .METER_STATE_ECC => .warning
  | .METER_LOST => .error
  | .FLOW_COUNTER_LOST => .warning
  | .LOOKUP_ENGINE_SPARED => .error
  | .AUT_ENGINE_SPARED => .error
  | .LOOKUP_CLUSTER_EXHAUSTED => .error
  | .TBL_REGION_MEMORY_FAILED => .error
  | .TCAM_BANK_FAILED => .error
  | .AUT_CLUSTER_EXHAUSTED => .error
  | .AUT_STATE_MEMORY_FAILED => .error
  | .ACT_MEMORY_FAILED => .error
  | .METER_BANK_FAILED => .error
  | .TBL_WORD_SPARED => .warning
  | .TBL_SHARED_MEMORY_FAILED => .fatal
  | .TBL_LEARN_TABLE_FULL => .warning
  | .TBL_LEARN_RATE_LIMITED => .notice
  | .MC_GROUP_LOST => .warning
  | .TBL_RING_HALTED => .error
  | .TCM_RING_HALTED => .error
  | .LINK_FLAP_EXPIRED => .notice
  | .HEADROOM_OVERFLOW => .warning
  | .BUF_ECC_UNCORRECTABLE => .warning
  | .E2E_CHECK_FAILED => .warning
  | .BUF_FREE_REFUSED => .error
  | .BUF_WORD_SPARED => .warning
  | .BUF_CELL_RETIRED => .error
  | .BUF_LINK_MEMORY_FAILED => .fatal
  | .BUF_POOL_LOW => .error
  | .BUF_CFG_REFUSED => .notice
  | .HOLD_STRIPE_LOST => .error
  | .HOLD_FREE_REFUSED => .error
  | .HOLD_FULL => .warning
  | .HOLD_AGE_DISCARD => .notice
  | .HOLD_INELIGIBLE_DROP => .notice
  | .HOLD_DRAIN_DONE => .info
  | .HOLD_OUT_OF_SERVICE => .error
  | .HOLD_WEAR_MARGIN => .error
  | .DURABLE_RESTORED => .info
  | .DURABLE_DISCARDED => .warning
  | .HOLD_MOUNTED => .info
  | .HOLD_METADATA_LOST => .error
  | .HOLD_FORMATTED => .notice
  | .HOLD_PF_FLUSH => .notice
  | .CAPTURE_LOST => .notice
  | .CAPTURE_HOST_STOPPED => .warning
  | .TXTS_OVERFLOW => .notice
  | .PTP_VIOLATION => .notice
  | .PULSE_MISSED => .notice
  | .CAPTURE_OVERFLOW => .notice
  | .TIME_BUS_FAULT => .error
  | .TIME_STEPPED => .notice
  | .TIME_JUMP_REFUSED => .warning
  | .GM_CHANGED => .notice
  | .GM_LOST => .warning
  | .TIME_LOCKED => .info
  | .FAB_VIOLATION => .notice
  | .FAB_ADJ_UP => .info
  | .FAB_ADJ_DOWN => .notice
  | .FAB_VERSION_ISOLATED => .warning
  | .FAB_ADDRESS_ELECTED => .notice
  | .FAB_ADDRESS_CONFLICT => .error
  | .FAB_MEMBER_REPLACED => .warning
  | .FAB_DEVICE_UNREACHABLE => .notice
  | .FAB_MEMBER_NOTICE => .warning
  | .FAB_LSDB_FULL => .warning
  | .LEASE_INTERLOCK => .fatal
  | .LEASE_PIN_MISMATCH => .error
  | .PAIR_UP => .info
  | .PAIR_HB_LOST => .warning
  | .PAIR_EQUINOX => .notice
  | .PAIR_LEASE_EXPIRED => .warning
  | .PAIR_CLAIM_REFUSED => .notice
  | .PAIR_DIGEST_MISMATCH => .warning
  | .PAIR_FAULT_LOCATED => .error
  | .PAIR_TABLES_DIVERGED => .warning
  | .PAIR_COMPARE_UNRESOLVED => .notice
  | .PAIR_RESYNC_DONE => .notice
  | .PAIR_STRUCTURE_MISMATCH => .error
  | .PAIR_VERSION_ISOLATED => .warning
  | .PAIR_VIOLATION => .notice
  | .PAIR_LINKS_LOST => .warning
  | .HOST_LINK_UP => .info
  | .HOST_LINK_DEGRADED => .warning
  | .PERST_ASSERTED => .notice
  | .HOST_RING_HALTED => .error
  | .HOST_VIOLATION => .notice
  | .HOST_DMA_ERROR => .error
  | .HOST_FLR => .notice
  | .HOST_LINK_LOST => .warning
  | .HOST_LOCK_RELEASED => .notice
  | .CFG_PARITY_UNIT => .error
  | .CFG_PARITY_SAFETY => .fatal
  | .REG_INTERNAL_VIOLATION => .error
  | .MBX_MESSAGE_LOST => .notice
  | .LOCK_BAD_RELEASE => .notice
  | .LOCK_RELEASED_BY_RESET => .notice
  | .MBX_CREDENTIAL_REFUSED => .warning
  | .MBX_CRED_HOLDOFF => .warning
  | .ATTEST_ISSUED => .info
  | .SMBUS_VIOLATION => .notice
  | .FUSE_COMMIT_REFUSED => .notice
  | .MBX_VIOLATION => .notice
  | .LOST => .warning
  | .CLEARED => .notice
  | .FREEZE_RELEASED_EARLY => .notice
  | .EVR_SEQ_RECOVERED => .warning
  | .EVR_ERASE_RESUMED => .notice
  | .EVR_STAGE_RELEASED => .notice

end Sys2Proof.Machine
end

