-- ==== Sys2Proof/Machine/State.lean ====
section
/-! DEFINITION. The state of the block, as plain data.  Register fields live in `flds`, counters in `ctrs`; what
the spec gives the machine beside its registers lives in one structure per subsystem.  Tables are sparse maps
(`Sys2Proof.Machine.Map`), so equal states are equal data. -/

namespace Sys2Proof.Machine

/-! ### Outputs -/

/-- What leaves the device: the model's record of what the outside sees (log 10). -/
inductive Output
  /-- A frame sent on a front port, with its FCS; `good` is false for an inverted or failing FCS. -/
  | frame (port : Nat) (bytes : Bytes) (good : Bool)
  /-- A PAUSE frame the port generated (R119). -/
  | pause (port quanta : Nat)
  /-- A PFC frame the port generated: class-enable bits and quanta (R119). -/
  | pfc (port enable quanta : Nat)
  /-- An MSI-X message of a function (R429, R430, R435). -/
  | msix (fn vector : Nat)
  /-- Bytes written to host memory by DMA. -/
  | hostWrite (addr : Nat) (bytes : Bytes)
  /-- A flit or a NAK on a bundle of a die-to-die link (R18). -/
  | flit (link bundle dir seq : Nat)
  | nak (link bundle dir expected : Nat)
  /-- A frame the firmware sends on a port, by its protocol, its type and its fields in order (log 12): protocol 1
  fabric, 2 pair, 3 PTP, 4 LLDP, 5 management. -/
  | message (port proto type : Nat) (fields : List Nat)
  /-- A frame handed to the management firmware from port 134. -/
  | toFirmware (bytes : Bytes)
  deriving DecidableEq, Repr

/-- How the bus completed the last register access (R442). -/
inductive Completion
  | none
  | ok (data : Nat)
  | abort
  deriving DecidableEq, Repr

/-! ### Event recorder (spec/19) -/

/-- One event record (Table 19-1).  `seq` is absent while the record waits for its number (R487). -/
structure EvRec where
  seq : Option Nat
  code : EvCode
  srcKind : Nat
  srcIdx : Nat
  payload : Bytes
  powerCycles : Nat
  opMs : Nat
  flags : Nat
  ptpSec : Nat
  ptpNs : Nat
  epoch : Nat
  deriving DecidableEq, Repr

/-- A rate limit of one code and instance (R488): when its interval began and how many it suppressed. -/
structure RateSt where
  start : Nat
  suppressed : Nat
  deriving DecidableEq, Repr

/-- The recorder beside its registers (R485 to R498). -/
structure Recorder where
  fifo : List EvRec
  nextSeq : Nat
  head : Nat
  oldest : Nat
  /-- Numbers are assigned: the area has mounted, or numbering started unanchored (R487). -/
  numbering : Bool
  /-- Slot to record of the persistent area (R494). -/
  area : Map (Option EvRec)
  limits : Map (Option RateSt)
  /-- Start of the freeze, if frozen (R496). -/
  freezeAt : Option Nat
  /-- A release whose flush has not ended (R496). -/
  releaseFlush : Bool
  /-- Records of the running flush (the SEQ it stops before), if one runs (R492). -/
  flushTo : Option Nat
  flushStart : Nat
  flushAgain : Bool
  /-- An ERROR or FATAL record waits for its flush (R492). -/
  flushDue : Bool
  lastFlushEnd : Nat
  /-- Range of SEQ being erased: first and last (R497); it outlives a power failure. -/
  erase : Option (Nat × Nat)
  deriving DecidableEq, Repr

/-- MSI-X moderation of a ring (R435): pending write-backs and the time of the first. -/
structure ModSt where
  pending : Nat
  first : Nat
  deriving DecidableEq, Repr

/-! ### Frames, descriptors and queues (spec/04, spec/06 to spec/10) -/

/-- A time-stamp capture: FRC value, sub-tick and epoch (R331). -/
structure Capture where
  frc : Nat
  sub : Nat
  epoch : Nat
  valid : Bool
  deriving DecidableEq, Repr

/-- A header placed by the walk (Table 6-2, STACK). -/
structure Hdr where
  node : Nat
  type : Nat
  layer : Nat
  start : Nat
  len : Nat
  deriving DecidableEq, Repr

/-- The parse result (Table 6-2) with the bound of R155. -/
structure ParseRes where
  port : Nat
  pass : Nat
  stack : List Hdr
  payload : Nat
  trunc : Nat
  frag : Bool
  fragFirst : Bool
  err : Nat
  errNode : Nat
  bound : Nat
  deriving DecidableEq, Repr

/-- What becomes of a frame (FWD of Table 9-1 with DEST). -/
inductive Fwd
  | none
  | port (p : Nat)
  | group (g : Nat)
  | device (d : Nat)
  | drop
  | recirc (profile node : Nat)
  | host
  deriving DecidableEq, Repr

/-- A next-hop record (Table 9-4); a record that is not VALID is not listed. -/
structure NextHop where
  ttlDec : Bool
  setDmac : Bool
  setSmac : Bool
  destType : Nat
  dest : Nat
  vid : Nat
  vidReplace : Bool
  action : Nat
  dmac : Nat
  deriving DecidableEq, Repr

/-- One source of actions of a frame (Table 9-3). -/
structure Source where
  rank : Nat
  profile : Nat
  fwd : Fwd
  cls : Nat
  copyHost : Bool
  data : Nat
  hop : Option NextHop
  deriving DecidableEq, Repr

/-- The edits a descriptor carries (R43, R237), with the headers they apply to. -/
structure Edits where
  vlanOp : Nat
  vid : Nat
  pcp : Nat
  dscp : Nat
  ecn : Bool
  hop : Option NextHop
  l2At : Option Nat
  vlanAt : Option Nat
  ipAt : Option Nat
  ipv6 : Bool
  deriving DecidableEq, Repr

/-- Meter colour (R238). -/
inductive Colour | green | yellow | red
  deriving DecidableEq, Repr

/-- The outcome of action resolution for one frame (R227 to R239). -/
structure Resolved where
  fwd : Fwd
  /-- Ports of the group, as resolved (R235). -/
  mask : Nat
  cls : Nat
  holdOk : Bool
  colour : Colour
  edits : Edits
  mirrors : Nat
  copyHost : Bool
  copyProfile : Nat
  profile : Nat
  reason : Nat
  parse : ParseRes
  deriving DecidableEq, Repr

/-- A frame in a region's pipeline: received or injected and not yet linked (R42). -/
structure Rx where
  /-- Bytes as received; with the FCS when `hasFcs` (a host frame has none, R432). -/
  bytes : Bytes
  hasFcs : Bool
  /-- INGRESS_PORT, kept on a second pass (R166). -/
  port : Nat
  region : Nat
  pass : Nat
  startNode : Nat
  profile : Nat
  cap : Capture
  /-- Cell allocation (R257): 0 all granted, 1 lost to another writer, 2 none free. -/
  lost : Nat
  /-- Source device of a fabric frame (R181). -/
  srcDev : Option Nat
  /-- Internal class and hold eligibility that a fabric header gives as defaults (R351). -/
  dflt : Option (Nat × Bool)
  /-- Transmit time-stamp request of the host (R335, R432). -/
  tsId : Option Nat
  /-- Waits in the inspection queue for the automata with these sources and this pattern set (R216). -/
  wait : Option (List Source × Nat)
  parse : Option ParseRes
  res : Option Resolved
  /-- On a second pass, the bytes as received and whether they end in an FCS (R242, R243, R384). -/
  orig : Option (Bytes × Bool)
  /-- DEFAULT_ACTION as it stood when the parse result became final (R165). -/
  dfltAct : Option Nat
  /-- The first match of its scan: pattern, and offset of the match's last byte (R215). -/
  hit : Option (Nat × Nat)
  deriving DecidableEq, Repr

/-- A frame held in the shared buffer: one set of cells (R251, R254, R264). -/
structure Chain where
  bytes : Bytes
  hasFcs : Bool
  /-- A word of its cells that a read found uncorrectable, as bank and word: copies not yet sent are marked by it (R276). -/
  marked : Option (Nat × Nat)
  port : Nat
  region : Nat
  tc : Nat
  cells : Nat
  refs : Nat
  lastOwner : Option Nat
  crc32c : Nat
  cap : Capture
  parse : ParseRes
  /-- FLOW_HASH (R356). -/
  hash : Nat
  /-- The defaults of its fabric header, kept for a second pass (R351). -/
  dflt : Option (Nat × Bool)
  deriving DecidableEq, Repr

/-- The fabric header a frame leaves with (Table 13-1); its SEQ is given at egress by the source device (R357). -/
structure FabHdr where
  type : Nat
  cls : Nat
  hold : Bool
  hop : Nat
  src : Nat
  dst : Nat
  aux : Nat
  hash : Nat
  seq : Option Nat
  deriving DecidableEq, Repr

/-- A descriptor: one entry of one queue (R254); `no` numbers descriptors in the order in which they were linked. -/
structure Desc where
  chain : Nat
  no : Nat
  len : Nat
  cells : Nat
  tc : Nat
  cls : Nat
  colour : Colour
  edits : Edits
  holdOk : Bool
  /-- A multicast, flooded or mirrored copy (R264). -/
  copy : Bool
  /-- Truncation of a mirror copy, 0 none (R242). -/
  trunc : Nat
  /-- Second pass: key profile and start node of a recirculated frame (R166). -/
  recirc : Option (Nat × Nat)
  /-- Transmit time-stamp request of the host (R335). -/
  tsId : Option Nat
  /-- The fabric header of a frame that leaves in the fabric (R350, R351). -/
  fab : Option FabHdr
  /-- The queue of port 133 that a hold-bound frame belongs to: hold queue number (R295). -/
  holdQ : Option Nat
  /-- Marked HEAD_CHAIN at a flap expiry (R299). -/
  headChain : Bool
  /-- REASON and PROFILE of a receive descriptor (Table 16-14). -/
  reason : Nat
  profile : Nat
  /-- A drained frame with the time of its first linking (R298). -/
  drained : Bool
  deriving DecidableEq, Repr

/-- A token bucket: level in units of its rate per tick, and when it was last filled. -/
structure Bucket where
  level : Int
  at_ : Nat
  deriving DecidableEq, Repr

/-- A frame waiting in a MAC transmit queue or being sent (R112), with the buffer queue it came from. -/
structure TxFrame where
  desc : Desc
  queue : Nat
  start : Nat
  /-- The class-3 frames of queue 3: from port 134, or a PTP event message (R112). -/
  fromFw : Bool
  deriving DecidableEq, Repr

/-- A frame of the firmware for a port, in decoded fields (log 12): what `Output.message` says of it once sent, and its
length. -/
structure OwnFrame where
  proto : Nat
  type : Nat
  len : Nat
  fields : List Nat
  /-- When its transmission started. -/
  start : Nat
  deriving DecidableEq, Repr

/-- What a transmitter drives (R103, R107, Table 3-4): `running` is frames, and idle between them or without a link;
`remoteFault` answers a local fault. -/
inductive TxDrive | electricalIdle | running | remoteFault | lossOfSignal
  deriving DecidableEq, Repr

/-- The MAC of a port beside its registers (R103 to R121).  Index 8 of the pause tables is PAUSE itself. -/
structure MacSt where
  downs : List Nat
  holdoffEnd : Option Nat
  disabledOnce : Bool
  drive : TxDrive
  pauseEnd : Map Nat
  pausePend : Map Nat
  pausedSince : Map Nat
  recoverEnd : Map Nat
  xoffAt : Map Nat
  lastTx : Nat
  ptpAt : Nat
  followOwed : Bool
  wakeAt : Option Nat
  /-- Violations by row of Table 4-2 since the last record (R124). -/
  viol : Map Nat
  /-- Frames of the firmware that wait for MAC queue 3, oldest first, and the one being sent (R112). -/
  own : List OwnFrame
  ownTx : Option OwnFrame
  /-- The low-power idle entered last is fast wake, not deep sleep (R120). -/
  fastWake : Bool
  /-- What the deskew adds to the latest-arriving lane since the last link-up, in 1/64 ns (R137). -/
  deskew : Int
  deriving DecidableEq, Repr

/-- The flap timer of a port or of a fabric destination (R271, R275): its end, and whether it has expired. -/
structure FlapSt where
  endAt : Option Nat
  expired : Bool
  deriving DecidableEq, Repr

/-- The shared buffer, its queues and its schedulers (spec/10). -/
structure BufSt where
  nextId : Nat
  /-- Descriptors linked so far. -/
  links : Nat
  rx : Map (Option Rx)
  chains : Map (Option Chain)
  queues : Map (List Desc)
  macq : Map (Option TxFrame)
  inflight : Map (Option TxFrame)
  flap : Map FlapSt
  fabFlap : Map FlapSt
  deficit : Map Nat
  visit : Map Nat
  lastSent : Map Nat
  portBkt : Map (Option Bucket)
  tcBkt : Map (Option Bucket)
  /-- The writer, W0 to W6, that the allocator serves first in this cycle (R257). -/
  rotation : Nat
  frozen : Bool
  spares : Map Nat
  linkFailed : Bool
  deriving DecidableEq, Repr

/-- A layer-2 entry (Table 7-5); VALID is being listed. -/
structure L2Entry where
  mac : Nat
  vid : Nat
  static_ : Bool
  lock : Bool
  hit : Bool
  moving : Bool
  daDrop : Bool
  saDrop : Bool
  copyHost : Bool
  destType : Nat
  dest : Nat
  action : Nat
  cls : Nat
  learnTime : Nat
  moves : Nat
  deriving DecidableEq, Repr

/-- An exact-match entry (Table 7-8); VALID is being listed. -/
structure ExEntry where
  key : Nat
  action : Nat
  lock : Bool
  hit : Bool
  moving : Bool
  data : Bytes
  deriving DecidableEq, Repr

/-- A queued learn request (R183). -/
structure LearnReq where
  mac : Nat
  vid : Nat
  destType : Nat
  dest : Nat
  port : Nat
  deriving DecidableEq, Repr

/-- A relocation in progress (R186): the moves still to make, far end first, then the entry to write.
`table` is 4 for layer 2 and the region of an exact-match table; `open_` is the move whose old row is not yet
invalidated, with the time of its write; `back` is the ring and the descriptor that wait for the end. -/
structure Reloc where
  table : Nat
  moves : List (Nat × Nat)
  open_ : Option (Nat × Nat × Nat)
  target : Nat
  l2 : Option L2Entry
  ex : Option ExEntry
  back : Option (Nat × Bytes)
  deriving DecidableEq, Repr

/-- A trie node that is down for a rebuild (R198): family, path length and path. -/
structure TrieNode where
  v6 : Bool
  bits : Nat
  path : Nat
  deriving DecidableEq, Repr

/-- The tables of spec/07. -/
structure TblSt where
  l2 : Map (Option L2Entry)
  exact : Map (Option ExEntry)
  lpm4 : Map (Option Nat)
  lpm6 : Map (Option Nat)
  hops : Map (Option NextHop)
  nodesDown : List (TrieNode × Nat)
  /-- Rows that WRITE_ROW gave to a trie's node memory, at `k2 family row`: whether they still stand as written since the
  nodes last changed, and their bytes (R195). -/
  nodeRows : Map (Option (Bool × Bytes))
  oldNodes : List (Nat × Bool × Nat)
  learnQ : List LearnReq
  learnBkt : Map (Option Bucket)
  learnDev : Option Bucket
  /-- Learns refused per port since the last TBL_LEARN_RATE_LIMITED (R183). -/
  refused : Map Nat
  reloc : Option Reloc
  agePos : Nat
  spares : Map Nat
  deriving DecidableEq, Repr

/-- A TCAM entry (R206); a VALID entry is listed. -/
structure TcamEntry where
  value : Nat
  mask : Nat
  prio : Nat
  action : Nat
  param : Nat
  deriving DecidableEq, Repr

/-- A block move of ordered insertion (R210, R211): entries move by `up` towards the free place; `at_` is the
place to be copied next, `last` the place of the new entry. -/
structure TcamMove where
  part : Nat
  up : Bool
  at_ : Nat
  last : Nat
  open_ : Option Nat
  entry : TcamEntry
  ring : Nat
  desc : Bytes
  wide : Bool
  nextAt : Nat
  deriving DecidableEq, Repr

/-- A stream flow of the automata (R219). -/
structure AutFlow where
  key : Nat
  state : Nat
  expect : Nat
  offset : Nat
  last : Nat
  deriving DecidableEq, Repr

/-- TCAM and automata (spec/08). -/
structure SearchSt where
  tcam : Map (Option TcamEntry)
  move : Option TcamMove
  inspect : Map (List Nat)
  flows : Map (Option AutFlow)
  deriving DecidableEq, Repr

/-- A meter (Table 9-6) with its buckets in units of 1/3,200,000 byte; `lost` marks lost parameters (R246). -/
structure Meter where
  cir : Nat
  pir : Nat
  cbs : Nat
  pbs : Nat
  mode : Nat
  aware : Bool
  lenAdj : Nat
  actG : Nat
  actY : Nat
  actR : Nat
  clsY : Nat
  clsR : Nat
  tc : Nat
  tp : Nat
  at_ : Nat
  lost : Bool
  deriving DecidableEq, Repr

/-- A multicast group record (R235); `lost` until it is rewritten (R246). -/
structure Group where
  mask : Nat
  prune : Bool
  lost : Bool
  deriving DecidableEq, Repr

/-- Actions, meters, mirrors and capture (spec/09). -/
structure ActSt where
  meters : Map Meter
  flows : Map (Nat × Nat)
  groups : Map Group
  mirrorReq : Map Nat
  capFifo : List Bytes
  capBkt : Option Bucket
  capHead : Nat
  deriving DecidableEq, Repr

/-- Words of protected memories, at `k3 kind region word` (kinds of `WordKind`): the time after which a second error
counts as a hard fault (R169, R199, R221, R246, R278), one more than the instant of the last one, and the rows that are
down until they are rewritten. -/
structure WordSt where
  seen : Map Nat
  down : List (Nat × Nat × Nat)
  deriving DecidableEq, Repr

/-! ### The hold store (spec/11) -/

/-- A frame held in the store: its bytes with a fresh FCS, and its arrival in operating milliseconds (R292). -/
structure Held where
  bytes : Bytes
  opMs : Nat
  /-- Its page and its offset in the page. -/
  page : Nat
  off : Nat
  /-- The descriptor facts that linking at the drain needs: class, fabric header, and where its IP header stands now, for
  the mark of R263. -/
  cls : Nat
  fab : Option FabHdr
  ipAt : Option Nat
  ipv6 : Bool
  deriving DecidableEq, Repr

/-- A page that a hold queue owns: its number, its PAGE_SEQ, and whether a head chain placed it (Table 11-3). -/
structure HoldPage where
  no : Nat
  seq : Nat
  chain : Bool
  deriving DecidableEq, Repr

/-- The row a queue is packing into a row buffer (R293, R294). -/
structure OpenRow where
  page : Nat
  row : Nat
  used : Nat
  starts : Nat
  time : Nat
  since : Nat
  deriving DecidableEq, Repr

/-- A hold queue (R295 to R302). -/
structure HoldQ where
  active : Bool
  restored : Bool
  frames : List Held
  pages : List HoldPage
  row : Option OpenRow
  /-- A head chain being written (R299): frames, pages and open row ahead of the head. -/
  chain : List Held
  chainPages : List HoldPage
  chainRow : Option OpenRow
  pending : Nat
  bucket : Option Bucket
  /-- Since it became ACTIVE: when, the frames drained and the oldest age drained, in milliseconds (HOLD_DRAIN_DONE). -/
  since : Nat
  drained : Nat
  oldest : Nat
  /-- PAGE_SEQ of its next page. -/
  nextSeq : Nat
  deriving DecidableEq, Repr

/-- The free ring and its cache (R290): pages never used since the last format in ascending order, then the
spilled pages, with the two cached halves. -/
structure FreeRing where
  freshNext : Nat
  freshEnd : Nat
  spilled : List Nat
  allocHalf : List Nat
  freeHalf : List Nat
  headCnt : Nat
  tailCnt : Nat
  /-- Entries lost with a stripe of the ring area, by their count from the format (Table 11-9). -/
  holes : List Nat
  deriving DecidableEq, Repr

/-- Wear levelling of a physical zone (R310, R312). -/
structure Zone where
  start : Nat
  gap : Nat
  sinceGap : Nat
  writes : Nat
  wear : Nat
  saved : Nat
  deriving DecidableEq, Repr

/-- What a commit record names (R304, R305): the state the next mount restores. -/
structure Commit where
  seq : Nat
  consumed : Bool
  queues : Map HoldQ
  ring : FreeRing
  durable : Nat
  rows : Nat
  us : Nat
  deriving DecidableEq, Repr

/-- The hold store beside its registers. -/
structure HldSt where
  queues : Map HoldQ
  ring : FreeRing
  zoneMap : Map Nat
  zones : Map Zone
  /-- Two logical zones that exchange places, and the page pairs exchanged so far (R311). -/
  swapping : Option (Nat × Nat × Nat)
  lastSwap : Nat
  lastWearSave : Nat
  failedDies : List Nat
  failedBases : List Nat
  outOfService : Bool
  mounted : Bool
  frozen : Bool
  fenced : Bool
  commitA : Option Commit
  commitB : Option Commit
  scrubAt : Nat
  lastScrub : Nat
  formatting : Option Nat
  fullAt : Option Nat
  fullDrops : Nat
  /-- Rows full or closed that wait for their write: queue, page and row (R294). -/
  due : List (Nat × Nat × Nat)
  /-- Pages that no ring entry and no live queue accounts for (R306). -/
  strays : List Nat
  /-- GiB of the capture area as last formatted (R289). -/
  capGib : Nat
  capArea : Map (Option Bytes)
  innerFails : Map (List Nat)
  retrain : Option (Nat × Nat)
  /-- The next die of the pass (18 once it has ended), the start of the last pass, and when the next die may start. -/
  retrainPos : Nat
  passAt : Option Nat
  retrainNext : Nat
  retrainFails : Map Nat
  deferral : List Nat
  suspended : Bool
  rebuild : Option Nat
  deriving DecidableEq, Repr

/-! ### Time (spec/12) -/

/-- One entry of the epoch table (R322, R326): `rate` is RATE_ADJ. -/
structure Epoch where
  id : Nat
  frcStart : Nat
  sec : Nat
  ns : Nat
  frac : Nat
  rate : Int
  deriving DecidableEq, Repr

/-- An entry of a transmit time-stamp queue (R335). -/
structure TxTs where
  id : Nat
  portIn : Nat
  cap : Capture
  firmware : Bool
  deriving DecidableEq, Repr

/-- An entry of a capture-input FIFO (R345). -/
structure EdgeCap where
  cap : Capture
  rising : Bool
  deriving DecidableEq, Repr

/-- A pulse output beside its registers (R342, R343): `next` is the next edge index, `fall` the FRC67 value of the
falling edge of a high phase. -/
structure PulseSt where
  armed : Bool
  high : Bool
  done : Bool
  next : Nat
  fall : Nat
  deriving DecidableEq, Repr

/-- A bank of the TIM_CONV registers (R346: one per master). -/
structure ConvBank where
  frcLo : Nat
  frcHi : Nat
  sub : Nat
  epoch : Nat
  done : Bool
  expired : Bool
  sec : Nat
  ns : Nat
  frac : Nat
  deriving DecidableEq, Repr

/-- A PTP port of the firmware (R337 to R340, R347): its state (0 listening, 1 master, 2 slave, 3 passive), the last
announce with the grandmaster it named and that one's place in the best-master order (lower is better), the last Sync
as (sequence, time), the responder of the last delay request as (sequence, identity), and the messages counted by type
in the second that began at `since`. -/
structure PtpPort where
  state : Nat
  announcedAt : Option Nat
  gmId : Nat
  gmRank : Nat
  sync : Option (Nat × Nat)
  responder : Option (Nat × Nat)
  isolatedUntil : Option Nat
  since : Nat
  msgs : Map Nat
  txSeq : Nat
  deriving DecidableEq, Repr

/-- The time unit beside its registers (R320 to R347).  `pending` is the epoch that opens at its F_s, `step` the step
it makes, in 2^-16 ns, with the master that asked for it; `awaiting` the lane dies that wait for a good full value, and
`goodAt` the FRC of the last good one; `jump` the refused step of JUMP_HELD. -/
structure TimSt where
  frc : Nat
  stopped : Bool
  epochs : Map (Option Epoch)
  cur : Nat
  pending : Option Epoch
  step : Option (Int × Nat)
  busErrs : Map (List Nat)
  awaiting : List Nat
  goodAt : Map Nat
  txts : Map (List TxTs)
  caps : Map (List EdgeCap)
  pulses : Map PulseSt
  conv : Map ConvBank
  ptp : Map PtpPort
  lockedOnce : Bool
  gm : Option Nat
  best : Option Nat
  jump : Option Int
  /-- The grandmaster was lost while an adjustment was pending: RATE_ADJ goes to 0 once it has opened (Table 12-2). -/
  zeroDue : Bool
  deriving DecidableEq, Repr

/-! ### The Neren fabric (spec/13) -/

/-- The adjacency of a fabric-role port beside FAB_ADJ (R352 to R354). -/
structure AdjSt where
  neighId : Nat
  neighMac : Nat
  /-- POWER_CYCLES and SEQ of the last accepted hello, by the FACTORY_ID it came from. -/
  last : Map (Nat × Nat)
  heardAt : Nat
  tagFails : Nat
  refusedAt : Option Nat
  /-- Control frames sent per TYPE. -/
  sent : Map Nat
  /-- The last hello sent since the link came up (R352). -/
  helloAt : Option Nat
  deriving DecidableEq, Repr

/-- A link-state record (Table 13-4) with the time of its last refresh. -/
structure LsaRec where
  origin : Nat
  health : Nat
  conflict : Bool
  elected : Bool
  seq : Nat
  age : Nat
  factory : Nat
  /-- NEIGH_DEV, LOCAL_PORT, COST. -/
  links : List (Nat × Nat × Nat)
  refreshed : Nat
  deriving DecidableEq, Repr

/-- A send of a record that waits for its acknowledgement: port, FACTORY_ID, LSA_SEQ, time of the last send. -/
structure LsaSend where
  port : Nat
  factory : Nat
  seq : Nat
  at_ : Nat
  deriving DecidableEq, Repr

/-- A route table entry (Table 13-7); `bad` while a parity error keeps it down (R364). -/
structure Route where
  ports : List Nat
  cost : Nat
  bad : Bool
  deriving DecidableEq, Repr

/-- The fabric beside its registers. -/
structure FabSt where
  adj : Map AdjSt
  /-- FACTORY_ID to record; the device's own record is not listed. -/
  lsdb : List LsaRec
  own : Option LsaRec
  originateDue : Bool
  originatedAt : Option Nat
  firstFull : Option Nat
  sends : List LsaSend
  /-- The database changed and routes are due (R356). -/
  changedAt : Option Nat
  routes : Map Route
  seqTx : Map Nat
  seqRx : Map Nat
  gap : Map Nat
  late : Map Nat
  lastId : Map Nat
  notices : List (Nat × Nat)
  deriving DecidableEq, Repr

/-! ### The structure image (spec/02) -/

/-- A slot of the hold store (R62, R63): its image, its state of Table 2-7, and the state it held before it was
marked TRIAL. -/
structure Slot where
  image : Bytes
  state : Nat
  back : Nat
  /-- A stripe of the slot is lost: the next verification fails (R315). -/
  lost : Bool
  deriving DecidableEq, Repr

/-- One of the two copies of a slot record (R62): its sequence number, the state of the slot, the state it held before it
was marked TRIAL (R63), and the length of its image (R57). -/
structure SlotCopy where
  seq : Nat
  state : Nat
  back : Nat
  len : Nat
  deriving DecidableEq, Repr

/-- A region reload in progress (R67, R68): its mask and the new sections; once the regions are
stopped, the previous sections, which a failed bring-up restores; the frames it has discarded. -/
structure Reload where
  mask : Nat
  sections : Map Bytes
  stopped : Bool
  gone : Nat
  deriving DecidableEq, Repr

/-- The loader beside its registers.  Section bodies are kept as they stand in the image, at `k2 type region`
(region 4 for a section of the whole device). -/
structure ImgSt where
  sections : Map Bytes
  /-- FMT_MAJOR * 256 + FMT_MINOR of the running image (R46). -/
  fmt : Nat
  slots : Map (Option Slot)
  /-- The two copies of each slot record (R62). -/
  recA : Map SlotCopy
  recB : Map SlotCopy
  image : Bytes
  /-- Slot in trial and the end of IMG_TRIAL_TIME (R65). -/
  trial : Option (Nat × Nat)
  reload : Option Reload
  amend : Option (Map Bytes)
  ownerKey : Option Nat
  /-- The verified image of a start-up that awaits its commit: source (0 slot, 1 SPI, 2 host), slot, bytes. -/
  next : Option (Nat × Nat × Bytes)
  deriving DecidableEq, Repr

/-! ### The redundant pair (spec/14) -/

/-- A port's decision digest over one window (R384, R385): the sum, the frames, the INCOMPLETE flag and the identity of
the window's first frame. -/
structure Win where
  digest : Nat
  frames : Nat
  incomplete : Bool
  opener : Option Nat
  deriving DecidableEq, Repr

/-- A pair link: agreed version (0 none), end of its isolation, and the messages counted in the present second by kind
(R368, R393). -/
structure PairLink where
  version : Nat
  isolatedUntil : Option Nat
  since : Nat
  msgs : Map Nat
  /-- Its partner's versions have nothing in common with the device's. -/
  refused : Bool
  /-- Its last heartbeat sent (R368). -/
  hbSent : Option Nat
  deriving DecidableEq, Repr

/-- What the partner's last valid heartbeat said (R368, R389). -/
structure Partner where
  active : Bool
  claiming : Bool
  synced : Bool
  health : Nat
  epoch : Nat
  structCrc : Nat
  deriving DecidableEq, Repr

/-- A frame that the logic check of a comparison keeps (R387): its identity, its length, its automata pattern, its first
512 bytes and its decision record. -/
structure Kept where
  id : Nat
  len : Nat
  aut : Nat
  bytes : List (BitVec 8)
  record : List (BitVec 8)
  deriving DecidableEq, Repr

/-- A renewal or a claim in progress: its send instant and sequence, whether the partner answered, and the witness slots
that did; `done` once it has succeeded or failed. -/
structure Poll where
  at_ : Nat
  seq : Nat
  slots : List Nat
  done : Bool
  deriving DecidableEq, Repr

/-- What this device keeps as a witness of a pair (R375, R376): the epoch it knows, its holder, the instant of its last
acknowledgement with the L + G carried in ticks, whether a RELEASE freed the next epoch, and the claim it holds. -/
structure WitSt where
  epoch : Nat
  holder : Nat
  ackAt : Option Nat
  wait : Nat
  released : Bool
  /-- Claimant, its L + G in ticks, and the SEQ of its claim. -/
  held : Option (Nat × Nat × Nat)
  deriving DecidableEq, Repr

/-- The pair beside its registers. -/
structure PairSt where
  /-- When the hardware lease timer expires, while it runs (R370). -/
  lease : Option Nat
  epoch : Nat
  startAt : Nat
  /-- Last valid heartbeat. -/
  hbAt : Option Nat
  linksLost : Bool
  partner : Option Partner
  links : Map PairLink
  /-- Last RENEW_ACK sent to the partner, with the L + G of its renewal in ticks (R375). -/
  acked : Option (Nat × Nat)
  renewal : Option Poll
  claim : Option Poll
  handOver : Bool
  lastRenewed : Option Nat
  /-- LEASE_IN has read low since then. -/
  lowSince : Option Nat
  pinsDiffer : Option Nat
  witAt : Map Nat
  wits : Map WitSt
  seqTx : Map Nat
  /-- Windows by port and number, and frames near a boundary by port and later window (R385). -/
  wins : Map Win
  band : Map (List (Nat × Nat))
  sampled : Map Nat
  sampleBkt : Option Bucket
  sent : List Nat
  /-- Last result and consecutive mismatches of a port (PAIR_DIG_INFO). -/
  runs : Map (Nat × Nat)
  /-- A comparison: stage, when it began, and the port. -/
  compare : Option (Nat × Nat × Nat)
  faults : List Nat
  /-- The last SAMPLE sequence received (R386). -/
  sampleSeq : Option Nat
  /-- A resynchronisation: when it began and the records taken. -/
  resync : Option (Nat × Nat)
  /-- The window whose frames the logic check keeps, and those kept (R387). -/
  keepWin : Option Nat
  kept : List Kept
  deriving DecidableEq, Repr

/-! ### Dies, pins, power and health (spec/01, spec/03, spec/15, spec/21) -/

/-- One direction of one bundle of a die-to-die link (R18, R19): what the receiving end expects, whether it
discards until a replay, how often the expected flit has failed, and the sender's retry buffer (oldest
unacknowledged and next sequence number). -/
structure FlitDir where
  expected : Nat
  discarding : Bool
  fails : Nat
  oldest : Nat
  next : Nat
  /-- Start of the diagnosis, while the bundle is out of rotation (R19). -/
  diag : Option Nat
  deriving DecidableEq, Repr

/-- One direction of a die-to-die link (R16): the bundle that the next flit is sent on, the bundles of the flits sent and
not yet delivered in the order of sending, the flits that each bundle has accepted ahead of their turn, and the flits
delivered. -/
structure LinkDir where
  turn : Nat
  order : List Nat
  ready : Map Nat
  delivered : Nat
  deriving DecidableEq, Repr

/-- The package's pins (R84, R522): outputs driven, inputs as last seen. -/
structure Pins where
  /-- The open-drain outputs: true while asserted (driven low). -/
  safeN : Bool
  alertN : Bool
  replaceN : Bool
  thermtripN : Bool
  leaseOut : Bool
  /-- The two copies of the safe-state line, asserted (R21). -/
  safeLineA : Bool
  safeLineB : Bool
  spiCs : Bool
  /-- SYS_RESET_N is low. -/
  resetLow : Bool
  pfail : Bool
  bootSel : Nat
  leaseIn : Bool
  leaseInB : Bool
  jtag : Nat
  deriving DecidableEq, Repr

/-- A monitor's run of samples (R407 to R409): samples beyond the warning and the hard limit in a row, since when
it has been inside its window, and since when it has been implausible; `last` is 1 once it has delivered a sample, for a process monitor one more than its
count; `lastAt` is the time of that sample, or of the count's last change. -/
structure MonSt where
  warns : Nat
  hards : Nat
  inside : Option Nat
  odd : Option Nat
  last : Nat
  lastAt : Nat
  deriving DecidableEq, Repr

/-- Reset, boot and power sequencing (R75 to R98, R516 to R519). -/
structure BootSt where
  powered : Bool
  powerGoodAt : Option Nat
  /-- The internal reset holds. -/
  inReset : Bool
  /-- A flush that PFAIL_N or a reset started runs since then (R76, R77). -/
  flushAt : Option Nat
  flushDone : Bool
  /-- The reset that waits for its flush: CLK_RST_CAUSE code (R76). -/
  resetCause : Option Nat
  pfailLow : Option Nat
  pfailHighAt : Option Nat
  resetLowAt : Option Nat
  /-- The boot ROM has started (R79, R517). -/
  romRuns : Bool
  fwRuns : Bool
  waitFw : Bool
  /-- Version of the firmware that the host has loaded (R82). -/
  hostFw : Option Nat
  waitImg : Bool
  committed : Bool
  t0 : Nat
  /-- When the fuses will have been read, and when the die links are trained and the reserved area is mounted, once the
  root PLL has locked (Table 3-6). -/
  startAt : Option Nat
  mountAt : Option Nat
  areaMounted : Bool
  /-- When the host's firmware buffer will have been read (R96). -/
  fwReadAt : Option Nat
  /-- The device was in WINTER when the reset in progress began (Table 3-8). -/
  winterBefore : Bool
  lastStall : Option Nat
  /-- SPRING checks passed so far (R87). -/
  checks : Nat
  /-- Whether this SPRING follows an accepted WINTER_EXIT (R75, R404). -/
  afterExit : Bool
  deriving DecidableEq, Repr

/-- Health beside its registers. -/
structure HltSt where
  /-- Detection of the WINTER cause while the sequence runs (R400). -/
  detect : Option Nat
  winterSecs : Nat
  mon : Map MonSt
  failed : List Nat
  /-- Configuration registers found bad and rewritten once (R413), by offset; a condition that persists. -/
  rewritten : List Nat
  cfgBad : Bool
  cfgStuck : Bool
  /-- Offsets of registers of isolated units that later passes no longer judge (R413). -/
  unjudged : List Nat
  avsFails : Nat
  avsOff : Option Nat
  avsTarget : Nat
  avsStep : Nat
  avsPrev : Nat
  avsReqAt : Nat
  /-- The event of the latest AUTUMN cause (R88). -/
  lastCode : Nat
  calBusy : Bool
  /-- The saved calibration: deltas by CAL offset, and the sequence number (R416). -/
  calSaved : Option (Map Int × Nat)
  deriving DecidableEq, Repr

/-! ### Lanes and retraining (spec/05) -/

/-- A lane cluster beside SHADOW_STATUS (R128 to R141). -/
structure TurnSt where
  /-- Group lane of the previous target. -/
  prev : Option Nat
  startAt : Option Nat
  phaseAt : Nat
  deferred : Nat
  /-- LOG2, LIMIT and ADAPT_MAX in force for the turn (Table 5-5). -/
  log2 : Nat
  limit : Nat
  adaptMax : Nat
  /-- Why the swap takes place: 0 an ordinary swap, 1 the serving slice failed verification (R139), 3 it is isolated
  and the shadow replaces it (R141). -/
  kind : Nat
  /-- Latency of the new slice against the serving one, in 1/64 ns, measured in VERIFY (R135). -/
  latency : Int
  /-- Consecutive undecided turns per group lane (R133). -/
  undecided : Map Nat
  /-- Time of each lane's last calibration. -/
  calAt : Map Nat
  /-- Per group lane, in 1/64 ns: the adaptive part of the latency of the slice that serves it, and how late its signal
  reaches the pins against the port's other lanes (R135, R137). -/
  adapt : Map Int
  arrive : Map Int
  deriving DecidableEq, Repr

/-- Wire retraining of a die-to-die link (R145 to R147): the next wire, and the wire under retraining with the spare
that carries its bits (none when its bundle left the rotation or the wire is an unused spare). -/
structure WireSt where
  next : Nat
  nextAt : Nat
  wire : Option (Nat × Option Nat)
  again : Bool
  /-- Bundles out of rotation for a retraining. -/
  out : Option Nat
  /-- Wires out of use, and spare wires in service, by wire number. -/
  dead : List Nat
  inService : List Nat
  deriving DecidableEq, Repr


/-! ### Host, register bridge and mailboxes (spec/16 to spec/18) -/

/-- The host attachment beside its registers. -/
structure HostSt where
  /-- Ring to a doorbell value stored while the ring was halted or disabled (R431). -/
  doorbell : Map (Option Nat)
  /-- Ring to its moderation (R435). -/
  mods : Map (Option ModSt)
  /-- Functions in D3hot (R426). -/
  d3hot : List Nat
  /-- The host is lost, or has not yet come (R94). -/
  lost : Bool
  /-- PERST_N is asserted. -/
  perst : Bool
  /-- MSI-X tables and pending bits of PF1 to PF3: word `4 * vector + w` of function `f` at `k2 f (4 * vector + w)`;
  the vector-control word of an unlisted vector reads 1 (masked). -/
  msixTab : Map Nat
  msixPba : Map Nat
  /-- The injection token bucket of R437. -/
  inject : Option Bucket
  /-- Uncorrectable errors logged in the AER status (R436). -/
  aerUncorr : Nat
  /-- Corrected link errors logged in the AER status (R436). -/
  aerCorr : Nat
  /-- When the PF2 read path has sent what it read at HLD_PF2_RATE (R313, R434), and each ring may read again. -/
  pf2Free : Nat
  /-- Subsystem Vendor ID and Subsystem ID of the four functions (R45, R422). -/
  svid : Nat
  ssid : Nat
  deriving DecidableEq, Repr

/-- One bank of an indirect window (R457, Tables 17-4 to 17-7). -/
structure IndBank where
  space : Nat
  autoInc : Bool
  stride : Nat
  word : Nat
  ready : Bool
  /-- A fetch is under way. -/
  fetching : Bool
  busy : Bool
  collision : Bool
  early : Bool
  err : Nat
  count : Nat
  data : List Nat
  /-- Words staged before the fetch completed (R458), as a bit mask. -/
  staged : Nat
  deriving DecidableEq, Repr

/-- The register bridge beside its registers. -/
structure RegSt where
  /-- High-half latches of R122, keyed by master and by register, instance and index. -/
  latch : Map Nat
  ind : Map IndBank
  /-- WO1 registers written since their unwritten state (R447), by register number. -/
  written : List Nat
  /-- The SMBus slave (R462): ADDR and the status of the last access. -/
  smbAddr : Nat
  smbStatus : Nat
  last : Completion
  /-- Completer Abort logged by a function's AER for a posted write (R442), by function. -/
  aerAbort : List Nat
  deriving DecidableEq, Repr

/-- A message of a mailbox: its words and the time it was posted or queued (R467 to R469). -/
structure Msg where
  words : List Nat
  stale : Bool
  deriving DecidableEq, Repr

/-- A credential challenge (R472): identifier of the CRED section, its 32 bytes, and when its reply was delivered. -/
structure Challenge where
  bytes : Bytes
  deliveredAt : Option Nat
  deriving DecidableEq, Repr

/-- Messages lost on a pair and direction, for the LOST_NOTICE (R468): count, first and last sequence. -/
structure LostMsgs where
  count : Nat
  first : Nat
  last : Nat
  deriving DecidableEq, Repr

/-- The mailboxes beside their registers. -/
structure MbxSt where
  /-- Requests the firmware has taken and not yet answered, per pair (R467); stale ones are marked (Table 18-6). -/
  requests : Map (List Msg)
  /-- H2F mailboxes whose message was posted before its sender's domain went down (Table 18-6). -/
  h2fStale : List Nat
  /-- The queue of 8 behind each F2H mailbox (R468). -/
  queue : Map (List Msg)
  /-- Version of the last request answered on pairs 0 to 5 (R470). -/
  version : Nat
  noticeSeq : Nat
  /-- Challenges by master and purpose (R472). -/
  challenges : Map (Option Challenge)
  badTimes : List Nat
  holdoffEnd : Option Nat
  lostMsgs : Map (Option LostMsgs)
  /-- EVR_FLUSH requests that wait: pair, whether the flush they wait for is still to start, and the request (R471). -/
  flushReply : List (Nat × Bool × Msg)
  /-- An EVR_CLEAR waits for its erase: pair and request. -/
  eraseReply : Option (Nat × Msg)
  fuseBroken : Bool
  /-- Host-witness requests outstanding: sequence, opcode, pair link, deadline (R477). -/
  witness : List (Nat × Nat × Nat × Nat)
  /-- Cores being restarted (R406). -/
  coreDown : List Nat
  deriving DecidableEq, Repr

/-- The performance monitors and bandwidth windows beside their registers (spec/20). -/
structure PmcSt where
  cyc : Map Nat
  cnt : Map Nat
  snapCyc : Map Nat
  snap : Map Nat
  windowStart : Nat
  rxBytes : Map Nat
  txBytes : Map Nat
  deriving DecidableEq, Repr

/-! ### The block -/

/-- The device: every register, table, queue, buffer, mode and pin, in one piece of plain data. -/
structure Dev where
  /-- CLK_REG ticks of 2.5 ns since the model's reset (log 4). -/
  now : Nat
  /-- Register fields, at `k3 field i j`; an unlisted field holds its reset value. -/
  flds : Map Nat
  /-- Counters, at `k3 block i k`; an unlisted counter holds 0. -/
  ctrs : Map Nat
  /-- The model's own field: how many free values have been drawn (log 8). -/
  draws : Nat
  /-- The model's own field: what has left the device, newest first (log 10). -/
  out : List Output
  evr : Recorder
  mac : Map MacSt
  buf : BufSt
  tbl : TblSt
  search : SearchSt
  act : ActSt
  hld : HldSt
  tim : TimSt
  /-- Operating milliseconds at `now = 0` (R307). -/
  opBase : Nat
  flits : Map FlitDir
  links : Map LinkDir
  pins : Pins
  boot : BootSt
  hlt : HltSt
  img : ImgSt
  fab : FabSt
  turns : Map TurnSt
  wires : Map WireSt
  pair : PairSt
  words : WordSt
  host : HostSt
  reg : RegSt
  mbx : MbxSt
  pmc : PmcSt
  deriving DecidableEq, Repr

/-- Tables, groups and counters with nothing listed. -/
def Recorder.reset : Recorder :=
  ⟨[], 0, 0, 0, false, [], [], none, false, none, 0, false, false, 0, none⟩

def MacSt.reset : MacSt :=
  ⟨[], none, false, .electricalIdle, [], [], [], [], [], 0, 0, false, none, [], [], none, false, 0⟩

def BufSt.reset : BufSt :=
  ⟨0, 0, [], [], [], [], [], [], [], [], [], [], [], [], 0, false, [], false⟩

def TblSt.reset : TblSt := ⟨[], [], [], [], [], [], [], [], [], [], none, [], none, 0, []⟩

def WordSt.reset : WordSt := ⟨[], []⟩

def SearchSt.reset : SearchSt := ⟨[], none, [], []⟩

def ActSt.reset : ActSt := ⟨[], [], [], [], [], none, 0⟩

def FreeRing.reset : FreeRing := ⟨0, 0, [], [], [], 0, 0, []⟩

def HldSt.reset : HldSt :=
  ⟨[], .reset, [], [], none, 0, 0, [], [], false, false, false, false, none, none, 0, 0, none, none, 0, [], [], 64, [],
   [], none, 18, none, 0, [], [], false, none⟩

def TimSt.reset : TimSt :=
  ⟨0, false, [(0, some ⟨0, 0, 0, 0, 0, 0⟩)], 0, none, none, [], [], [], [], [], [], [], [], false, none, none, none, false⟩

def PulseSt.reset : PulseSt := ⟨false, false, false, 0, 0⟩
def ConvBank.reset : ConvBank := ⟨0, 0, 0, 0, false, false, 0, 0, 0⟩
def PtpPort.reset : PtpPort := ⟨0, none, 0, 0, none, none, none, 0, [], 0⟩

def HostSt.reset : HostSt := ⟨[], [], [], true, false, [], [], none, 0, 0, 0, 0x1E9C, 0x0012⟩

def IndBank.reset : IndBank := ⟨0, false, 1, 0, false, false, false, false, false, 0, 0, List.replicate 16 0, 0⟩

def RegSt.reset : RegSt := ⟨[], [], [], 0, 0, .none, []⟩

def MbxSt.reset : MbxSt := ⟨[], [], [], 1, 0, [], [], none, [], [], none, false, [], []⟩

def PmcSt.reset : PmcSt := ⟨[], [], [], [], 0, [], []⟩

def FlitDir.reset : FlitDir := ⟨0, false, 0, 0, 0, none⟩

def LinkDir.reset : LinkDir := ⟨0, [], [], 0⟩

/-- The "SYS_RESET_N low" column of Table 3-4: SAFE_N asserted, the other open-drain outputs released. -/
def Pins.reset : Pins := ⟨true, false, false, false, false, false, false, false, false, false, 0, false, true, 0⟩

def BootSt.reset : BootSt :=
  ⟨true, none, false, none, false, none, none, none, none, true, false, false, none, false, false, 0, none, none, false, none, false, none, 0, false⟩

def MonSt.reset : MonSt := ⟨0, 0, none, none, 0, 0⟩

def HltSt.reset : HltSt := ⟨none, 0, [], [], [], false, false, [], 0, none, 750, 0, 750, 0, 0, false, none⟩

def SlotCopy.reset : SlotCopy := ⟨0, 0, 0, 0⟩

def ImgSt.reset : ImgSt := ⟨[], 0, [], [], [], [], none, none, none, none, none⟩

def AdjSt.reset : AdjSt := ⟨0, 0, [], 0, 0, none, [], none⟩

def FabSt.reset : FabSt :=
  ⟨[], [], none, false, none, none, [], none, [], [], [], [], [], [], []⟩

def TurnSt.reset : TurnSt := ⟨none, none, 0, 0, 32, 0, 0, 0, 0, [], [], [], []⟩
def WireSt.reset : WireSt := ⟨0, 0, none, false, none, [], []⟩
def PairSt.reset : PairSt :=
  ⟨none, 0, 0, none, false, none, [], none, none, none, false, none, some 0, none, [], [], [], [], [], [], none, [],
   [], none, [], none, none, none, []⟩

/-- The device right after reset, as the registers' reset values and log 1 and 2 give it. -/
def Dev.reset : Dev :=
  ⟨0, [], [], 0, [], .reset, [], .reset, .reset, .reset, .reset, .reset, .reset,
   0, [], [], .reset, .reset, .reset, .reset, .reset, [], [], .reset, .reset,
   .reset, .reset, .reset, .reset⟩

/-- The state of the model: the device and the queue of waiting commands, first in, first out. -/
structure State where
  dev : Dev
  pending : List Instr
  deriving DecidableEq, Repr

/-- The machine right after reset: no command waits. -/
def State.reset : State := ⟨.reset, []⟩

/-- Why the block stops with a fault.  No command of the model does: every case the spec leaves open takes a free
value or leaves the device as it is (NOTES.md, Stops). -/
inductive Fault
  /-- Raised by nothing; the type is closed.  Safe. -/
  | unreached
  deriving DecidableEq, Repr

/-- Why a command is refused. -/
inductive Refusal
  /-- A command that has no meaning yet: raised by `exec` alone.  Safe. -/
  | notModelled (mnemonic : String)
  deriving DecidableEq, Repr

end Sys2Proof.Machine
end

