-- ==== Sys2Proof/Machine/Edit.lean ====
section
/-! DEFINITION. What the egress editor does to the bytes of a frame (R111, R234, R237), as functions of the bytes. -/

namespace Sys2Proof.Machine

/-! ### Byte edits -/

def setByte (bs : Bytes) (o v : Nat) : Bytes := patch bs o [BitVec.ofNat 8 v]
def setBe (bs : Bytes) (o n v : Nat) : Bytes := patch bs o (beBytes n v)
def insertAt (bs : Bytes) (o : Nat) (x : Bytes) : Bytes := bs.take o ++ x ++ bs.drop o
def removeAt (bs : Bytes) (o n : Nat) : Bytes := bs.take o ++ bs.drop (o + n)

/-- An internet checksum after one word of its data changed, updated incrementally. -/
def inetUpdate (sum old new : Nat) : Nat :=
  let t := (65535 - sum) + (65535 - old) + new
  let t1 := t % 65536 + t / 65536
  65535 - (t1 % 65536 + t1 / 65536)

/-- A word of an IPv4 header at `ip + o` changes, and the header checksum with it. -/
def ip4Set (bs : Bytes) (ip o new : Nat) : Bytes :=
  let sum := inetUpdate (beAt bs (ip + 10) 2) (beAt bs (ip + o) 2) new
  setBe (setBe bs (ip + o) 2 new) (ip + 10) 2 sum

/-- A frame under edit: its bytes, where its headers stand now, and the edits skipped. -/
structure EdSt where
  bs : Bytes
  l2 : Option Nat
  vlan : Option Nat
  ip : Option Nat
  skipped : Nat
  deriving DecidableEq, Repr

def EdSt.skip (e : EdSt) : EdSt := { e with skipped := e.skipped + 1 }

/-- VLAN_OP: 1 pop, 2 push, 3 replace. -/
def EdSt.vlanOp (e : EdSt) (op vid tpid : Nat) : EdSt :=
  match op with
  | 0 => e
  | 1 => match e.l2, e.vlan with
    | some l, some v =>
      if v = l + 14 then { e with bs := removeAt e.bs (v - 2) 4, vlan := none, ip := e.ip.map (fun i => if v < i then i - 4 else i) }
      else e.skip
    | _, _ => e.skip
  | 2 => match e.l2 with
    | some l =>
      let sh (o : Nat) : Nat := if l < o then o + 4 else o
      { e with bs := insertAt e.bs (l + 12) (beBytes 2 tpid ++ beBytes 2 (vid % 4096)), vlan := e.vlan.map sh, ip := e.ip.map sh }
    | none => e.skip
  | _ => match e.vlan with
    | some v => { e with bs := setBe e.bs v 2 (beAt e.bs v 2 / 4096 * 4096 + vid % 4096) }
    | none => e.skip

/-- PCP of the outermost tag present. -/
def EdSt.pcp (e : EdSt) (pcp tpid : Nat) : EdSt :=
  if pcp = 255 then e
  else match e.l2 with
    | some l =>
      let t := beAt e.bs (l + 12) 2
      if t = tpid ∨ t = 0x8100 ∨ t = 0x88A8 then
        { e with bs := setBe e.bs (l + 14) 2 (pcp * 8192 + beAt e.bs (l + 14) 2 % 8192) }
      else e.skip
    | none => e.skip

/-- DSCP of the IP_SEL header. -/
def EdSt.dscp (e : EdSt) (dscp : Nat) (v6 : Bool) : EdSt :=
  if dscp = 255 then e
  else match e.ip with
    | some i =>
      let w := beAt e.bs i 2
      if v6 then { e with bs := setBe e.bs i 2 (w / 4096 * 4096 + dscp * 64 + w % 64) }
      else { e with bs := ip4Set e.bs i 0 (w / 256 * 256 + dscp * 4 + w % 4) }
    | none => e.skip

/-- ECN_MARK: CE where the field holds ECT(0) or ECT(1). -/
def EdSt.ecn (e : EdSt) (on v6 : Bool) : EdSt :=
  if !on then e
  else match e.ip with
    | some i =>
      let w := beAt e.bs i 2
      let f := if v6 then w / 16 % 4 else w % 4
      if f = 0 then e.skip
      else if f = 3 then e
      else if v6 then { e with bs := setBe e.bs i 2 (w + (3 - f) * 16) }
      else { e with bs := ip4Set e.bs i 0 (w + (3 - f)) }
    | none => e.skip

/-- The routing edits of a next hop (R234); `sa` is MAC_SA of the egress port. -/
def EdSt.route (e : EdSt) (hop : Option NextHop) (sa : Nat) (v6 : Bool) : EdSt :=
  match hop with
  | none => e
  | some h =>
    let e1 := if !h.setDmac then e else match e.l2 with
      | some l => { e with bs := setBe e.bs l 6 h.dmac }
      | none => e.skip
    let e2 := if !h.setSmac then e1 else match e1.l2 with
      | some l => { e1 with bs := setBe e1.bs (l + 6) 6 sa }
      | none => e1.skip
    let e3 := if !h.vidReplace then e2 else match e2.vlan with
      | some v => { e2 with bs := setBe e2.bs v 2 (beAt e2.bs v 2 / 4096 * 4096 + h.vid % 4096) }
      | none => e2.skip
    if !h.ttlDec then e3 else match e3.ip with
      | some i =>
        if v6 then { e3 with bs := setByte e3.bs (i + 7) (beAt e3.bs (i + 7) 1 - 1) }
        else { e3 with bs := ip4Set e3.bs i 8 (beAt e3.bs (i + 8) 2 - 256) }
      | none => e3.skip

/-- Whether a descriptor carries an edit. -/
def Edits.any (e : Edits) : Bool :=
  decide (e.vlanOp ≠ 0) || decide (e.pcp ≠ 255) || decide (e.dscp ≠ 255) || e.ecn || e.hop.isSome

/-- The frame without its FCS after its edits, in the order of R237, and where its headers stand then. -/
def editState (body : Bytes) (e : Edits) (tpid sa : Nat) : EdSt :=
  let s : EdSt := ⟨body, e.l2At, e.vlanAt, e.ipAt, 0⟩
  ((((s.vlanOp e.vlanOp e.vid tpid).pcp e.pcp tpid).dscp e.dscp e.ipv6).ecn e.ecn e.ipv6).route e.hop sa e.ipv6

/-- The frame after its edits, with the number of edits skipped. -/
def applyEdits (body : Bytes) (e : Edits) (tpid sa : Nat) : Bytes × Nat :=
  let r := editState body e tpid sa
  (r.bs, r.skipped)

/-- A frame of the chain without its FCS. -/
def Chain.body (c : Chain) : Bytes := if c.hasFcs then c.bytes.take (c.bytes.length - 4) else c.bytes

/-- Truncation of a mirror copy. -/
def Desc.truncates (de : Desc) (c : Chain) : Bool := decide (de.trunc ≠ 0) && decide (de.trunc < c.body.length)

/-- A frame shorter than 60 bytes without its FCS is padded. -/
def padded (bs : Bytes) : Bytes := bs ++ List.replicate (60 - bs.length) 0

/-- Bytes of the fabric header of Table 13-1, with the outer Ethernet header. -/
def fabOverhead : Nat := 30

/-- The length with its FCS of what a copy becomes on the wire: after every edit, padded. -/
def Desc.wireLen (de : Desc) (c : Chain) (tpid sa : Nat) : Nat :=
  let b := (applyEdits c.body de.edits tpid sa).1
  let cut := if de.truncates c then de.trunc else b.length
  max 60 (cut + if de.fab.isSome then fabOverhead else 0) + 4

end Sys2Proof.Machine
end

