-- ==== Sys2Proof/Config.lean ====
section
/-! DEFINITION. What an implementation fixes and the values the spec leaves open.  Every constant here is opaque:
no proof can see what it is, so a statement that is proved holds whatever it is. -/

namespace Sys2Proof.Config

/-- The factory serial number (R461), 128 bits. -/
opaque serial : BitVec 128
/-- The fused base MAC address, as the number of R534. -/
opaque baseMac : BitVec 48
/-- The version of a firmware image the boot chain accepted (R461, R80). -/
opaque fwVersion : Nat → BitVec 32
/-- SHA-384 of a byte string (R54, R60, R475): 48 bytes. -/
opaque sha384 : List (BitVec 8) → BitVec 384
/-- HMAC-SHA-256 under a key of a byte string (R403, R474). -/
opaque hmac256 : List (BitVec 8) → List (BitVec 8) → BitVec 256
/-- Whether an ECDSA P-384 signature verifies (R57, R60): point, digest, signature. -/
opaque ecdsaOk : List (BitVec 8) → BitVec 384 → List (BitVec 8) → Bool
/-- The factory public point (Table 18-3, GET_ID_KEY), 97 bytes. -/
opaque idPoint : Nat → BitVec 8
/-- The factory signature of an attestation report (R475): report to SIG_R and SIG_S. -/
opaque attestSig : List (BitVec 8) → BitVec 768
/-- A fresh value of the management die's random generator, or of a quantity the spec leaves open; the argument is
the count of values drawn before (log 8). -/
opaque free : Nat → Nat
/-- The CLASS of the fabric frames that carry what the firmware itself sends (Table 13-1), which the spec does not give. -/
opaque ownClass : BitVec 6
/-- The measured frequency of a clock in kHz (CLK_FREQ): clock index, whether CORE_HALF is in force. -/
opaque clkFreq : Nat → Bool → BitVec 32
/-- Factory values of a lane's transmitter (LANE_TX_FACTORY). -/
opaque laneTxFactory : Nat → BitVec 32
/-- The factory value of a calibrated quantity, by its CAL offset, in the unit of Table 15-6 (R415). -/
opaque calFactory : Nat → Int
/-- The fused voltage table (R411): slowest core process count and highest core-die temperature in 1/16 °C to mV. -/
opaque avsTable : Nat → Int → Nat
/-- KiB of node memory that the trie of a set of prefixes takes (R193): whether it is the IPv6 trie, and the prefixes
as (length, bits). -/
opaque trieNodes : Bool → List (Nat × Nat) → Nat
/-- What a lookup finds where WRITE_ROW has changed node memory (R195), whose layout the spec does not give: whether the trie
is IPv6, its prefixes, the rows written and the address; the next hop, or a miss. -/
opaque trieRaw : Bool → List (Nat × Nat) → List (Nat × List Nat) → Nat → Option Nat
/-- Whether the clause of a port mode's PHY type defines fast wake (R120). -/
opaque fastWake : Nat → Bool
/-- Factory latency of a path from the pins to the capture point, in 1/64 ns, by mode, slice and lane (R135). -/
opaque sliceLatency : (mode slice lane : Nat) → Nat
/-- The duration in CLK_REG ticks of work the spec bounds but does not time; the argument as for `free`. -/
opaque duration : Nat → Nat

end Sys2Proof.Config
end

