-- ==== Sys2Proof/Machine/Ops.lean ====
section
/-! DEFINITION. The named operations over the device that every command shares: register fields, counters, time,
outputs, interrupts, performance events, the event recorder and the answer to a failed access. -/

namespace Sys2Proof.Machine

/-- A command whose effect is a function of the device: everything but the queue (log 4). -/
def State.run (s : State) (f : Dev → Dev) : Host.Outcome State Fault Refusal :=
  .next { s with dev := f s.dev }

/-! ### Register fields -/

/-- The reset value of a field at an instance; some depend on the index (Tables 1-3, 5-5, 15-4, 16-9, 16-12). -/
def Field.resetAt (f : Field) (i j : Nat) : Nat :=
  if f.reg = .LANE_STATUS ∧ f = .LANE_STATUS_SLICE then i % 4
  else if f.reg = .LANE_TX_EFF then bitsOf (Config.laneTxFactory i).toNat f.lo f.width
  else if f = .DMA_RX_STEER_BASE then i
  else if f = .INT_VEC_EN3 then (if i = 321 then 1 else 0)
  else if f = .HLT_D2D_STATUS_BUNDLES then (if i < 4 then 10 else if i = 4 then 6 else 3)
  else if f = .DMA_MSIX_TABLE then (if j = 3 then 1 else 0)
  else f.reset

/-- The value of a field of instance `(i, j)` of its register. -/
def Dev.fld (d : Dev) (f : Field) (i j : Nat) : Nat := Map.get (f.resetAt i j) d.flds (k3 f.id i j)

/-- A field takes a value, cut to its width. -/
def Dev.setFld (d : Dev) (f : Field) (i j v : Nat) : Dev :=
  { d with flds := Map.set (f.resetAt i j) d.flds (k3 f.id i j) (v % 2 ^ f.width) }

/-- A field of a register that stands once. -/
def Dev.f0 (d : Dev) (f : Field) : Nat := d.fld f 0 0

/-- Whether a one-bit field of a register that stands once is set. -/
def Dev.b0 (d : Dev) (f : Field) : Bool := decide (d.fld f 0 0 ≠ 0)

/-- A field of instance `i`. -/
def Dev.f1 (d : Dev) (f : Field) (i : Nat) : Nat := d.fld f i 0

/-- Whether a one-bit field of instance `i` is set. -/
def Dev.b1 (d : Dev) (f : Field) (i : Nat) : Bool := decide (d.fld f i 0 ≠ 0)

def Dev.set0 (d : Dev) (f : Field) (v : Nat) : Dev := d.setFld f 0 0 v
def Dev.set1 (d : Dev) (f : Field) (i v : Nat) : Dev := d.setFld f i 0 v

/-- Sets bit `b` of a field. -/
def Dev.setBit (d : Dev) (f : Field) (i b : Nat) (v : Bool) : Dev :=
  d.setFld f i 0 (putBit (d.fld f i 0) b v)

/-- A saturating count held in a field (classes C and D, R501). -/
def Dev.satInc (d : Dev) (f : Field) (i j n : Nat) : Dev :=
  d.setFld f i j (satAdd f.width (d.fld f i j) n)

/-- Every field of the registers that satisfy `p` returns to its reset value. -/
def Dev.resetFlds (d : Dev) (p : Nat → Bool) : Dev :=
  { d with flds := d.flds.filter (fun x => !(p (Nat.unpair x.1).1)) }

/-- Whether a field, by its number, belongs to one of the listed registers. -/
def Dev.isFldOf (rs : List Reg) (id : Nat) : Bool :=
  rs.any (fun r => r.desc.fields.any (fun f => f.id == id))

/-! ### Counters (R501 to R505) -/

/-- The width of a counter block: class A counters are 48 bits, the others 64. -/
def CtrBlock.width : CtrBlock → Nat
  | .MAC_STAT => 48
  | _ => 64

/-- The value of a counter of instance `i` of its block. -/
def Dev.ctr (d : Dev) (c : Ctr) (i : Nat) : Nat := Map.get 0 d.ctrs (k3 c.block.ctorIdx i c.k)

/-- A counter takes a value. -/
def Dev.setCtr (d : Dev) (c : Ctr) (i v : Nat) : Dev :=
  { d with ctrs := Map.set 0 d.ctrs (k3 c.block.ctorIdx i c.k) (v % 2 ^ c.block.width) }

/-- A counter counts `n`, wrapping at its width (R501). -/
def Dev.countN (d : Dev) (c : Ctr) (i n : Nat) : Dev := d.setCtr c i (d.ctr c i + n)

def Dev.count (d : Dev) (c : Ctr) (i : Nat) : Dev := d.countN c i 1

/-- The counter `n` places after `c` in its block (an array such as RX_PFC[c]). -/
def Ctr.at (c : Ctr) (n : Nat) : Ctr := ⟨c.block, c.k + n⟩

/-- Every counter of instance `i` of a block reads 0 (R503). -/
def Dev.clearCtrs (d : Dev) (b : CtrBlock) (i : Nat) : Dev :=
  { d with ctrs := d.ctrs.filter (fun x =>
      !((Nat.unpair x.1).1 == b.ctorIdx && (Nat.unpair (Nat.unpair x.1).2).1 == i)) }

/-- Every counter of a block reads 0, at every instance. -/
def Dev.clearBlock (d : Dev) (b : CtrBlock) : Dev :=
  { d with ctrs := d.ctrs.filter (fun x => !((Nat.unpair x.1).1 == b.ctorIdx)) }

/-! ### Time and free values -/

/-- Ticks of 2.5 ns in a microsecond, a millisecond and a second. -/
def tUs : Nat := 400
def tMs : Nat := 400000
def tSec : Nat := 400000000

/-- One free value is drawn: the device goes on with the next one (log 8). -/
def Dev.draw (d : Dev) : Nat × Dev := (Config.free d.draws, { d with draws := d.draws + 1 })

/-- Something leaves the device. -/
def Dev.emit (d : Dev) (o : Output) : Dev := { d with out := o :: d.out }

/-- The total of R321 in units of 2^-16 ns, for a capture at `frc67` under an epoch's values. -/
def ptpUnits (e : Epoch) (frc67 : Nat) : Int :=
  ((e.sec * 1000000000 + e.ns) * 65536 + e.frac : Int) +
    ((frc67 : Int) * 20480 * (2 ^ 48 + e.rate)) / 2 ^ 48

/-- Seconds (64 bits), nanoseconds and fractional nanoseconds of a time in units of 2^-16 ns. -/
def ptpSplit (t : Int) : Nat × Nat × Nat :=
  let u := (t % (2 ^ 64 * 1000000000 * 65536)).toNat
  (u / (1000000000 * 65536), u / 65536 % 1000000000, u % 65536)

/-- The epoch in force (R323). -/
def Dev.epochNow (d : Dev) : Epoch :=
  (Map.get none d.tim.epochs (d.tim.cur % 16)).getD ⟨d.tim.cur, 0, 0, 0, 0, 0⟩

/-- The epoch a capture at FRC value `frc` belongs to (R325). -/
def Dev.epochAt (d : Dev) (frc : Nat) : Nat :=
  if d.tim.pending.any (fun e => decide (e.frcStart ≤ frc)) then (d.tim.cur + 1) % 256
  else if frc < d.epochNow.frcStart then (d.tim.cur + 255) % 256 else d.tim.cur

/-- Lane die `n` makes valid captures: the FRC runs, the die has no time-bus fault and its copy is good (R329, R341). -/
def Dev.stamps (d : Dev) (n : Nat) : Bool :=
  !d.tim.stopped && !bitOf (d.f0 .TIM_STATUS_BUS_FAULT) n && !d.tim.awaiting.contains n

/-- FRC67 now (R320). -/
def Dev.frc67 (d : Dev) : Nat := d.tim.frc * 8

/-- The device's time now: seconds, nanoseconds, fraction. -/
def Dev.timeNow (d : Dev) : Nat × Nat × Nat := ptpSplit (ptpUnits d.epochNow d.frc67)

/-- Operating milliseconds (R307, R485). -/
def Dev.opMs (d : Dev) : Nat := d.opBase + d.now / tMs

/-! ### Interrupts (R429, R430) -/

/-- An MSI-X message of a function: sent, or noted in the PBA while its vector is masked (R429). -/
def Dev.msix (d : Dev) (f v : Nat) : Dev :=
  if f ∈ d.host.d3hot ∨ d.host.lost then d
  else if f = 0 then
    if bitOf (d.fld .DMA_MSIX_TABLE v 3) 0 then d.setBit .DMA_MSIX_PBA (v / 32) (v % 32) true
    else d.emit (.msix 0 v)
  else if bitOf (Map.get 1 d.host.msixTab (k2 f (4 * v + 3))) 0 then
    { d with host := { d.host with msixPba := Map.set 0 d.host.msixPba (k2 f v) 1 } }
  else d.emit (.msix f v)

/-- Source `s` raises: its pending bit, and the messages of its 0 to 1 edge. -/
def Dev.raise (d : Dev) (s : Nat) : Dev :=
  if bitOf (d.f1 .INT_PEND (s / 32)) (s % 32) then d
  else
    let d1 := d.setBit .INT_PEND (s / 32) (s % 32) true
    let d2 := if bitOf (d.f1 .INT_MASK (s / 32)) (s % 32) then d1 else d1.msix 0 (d.f1 .INT_VEC_VEC0 s)
    if d.b1 .INT_VEC_EN3 s then d2.msix 3 (d.f1 .INT_VEC_VEC3 s) else d2

/-- A firmware-to-host doorbell bit is set and raises source 335 (R479). -/
def Dev.doorbell (d : Dev) (b : Nat) : Dev :=
  ((if b < 32 then d.setBit .MBX_DB_F2H_LO 0 b true else d.setBit .MBX_DB_F2H_HI 0 (b - 32) true)).raise 335

/-! ### Performance events (R506, R507) -/

/-- Counter `n` of monitor `m` adds `v`; a carry out of bit 47 goes to a chained neighbour or sets OVF. -/
def Dev.perfAdd (m v : Nat) : Nat → Nat → Dev → Dev
  | 0, _, d => d
  | fuel + 1, n, d =>
    let x := Map.get 0 d.pmc.cnt (k2 m n) + v
    let d1 := { d with pmc := { d.pmc with cnt := Map.set 0 d.pmc.cnt (k2 m n) (x % 2 ^ 48) } }
    if x < 2 ^ 48 then d1
    else if n < 7 ∧ d.fld .PMC_SEL_CHAIN m (n + 1) = 1 then Dev.perfAdd m (x / 2 ^ 48) fuel (n + 1) d1
    else d1.setBit .PMC_OVF m n true

/-- Event `ev` with qualifier `q` occurs `v` times on monitor `m`; an isolated region and a hold store out of service
have no events (R509). -/
def Dev.perf (d : Dev) (m ev q v : Nat) : Dev :=
  if d.f1 .PMC_CTL_EN m = 0 ∨ v = 0 ∨ (m < 4 ∧ bitOf (d.f0 .HLT_SUM_REGION_ISOLATED) m) ∨
      (m = 5 ∧ d.hld.outOfService ∧ ev ≠ 1) then d
  else (List.range 8).foldl (fun d n =>
    if d.fld .PMC_SEL_CHAIN m n = 0 ∧ d.fld .PMC_SEL_EVENT m n = ev ∧
        (d.fld .PMC_SEL_QUAL m n = 0xFF ∨ d.fld .PMC_SEL_QUAL m n = q)
    then Dev.perfAdd m v 8 n d else d) d

/-- CLK_CORE cycles in one tick of CLK_REG: 1.6 GHz, or 800 MHz under CORE_HALF; none before the root locks
or once it is lost (R33, R37, R40). -/
def Dev.coreCycles (d : Dev) : Nat :=
  if d.b0 .CLK_STATUS_ROOT_LOST ∨ !d.b0 .CLK_STATUS_ROOT_LOCK then 0 else if d.b0 .CLK_DIV_CORE_HALF then 2 else 4

/-! ### The event recorder (R485 to R491) -/

def Severity.toNat : Severity → Nat
  | .info => 0 | .notice => 1 | .warning => 2 | .error => 3 | .fatal => 4

/-- ERROR and FATAL may take a reserved slot (R489). -/
def Severity.severe (s : Severity) : Bool := decide (3 ≤ s.toNat)

/-- A payload: fields of 1, 2, 4 or 8 bytes, least significant byte first, padded to 24 bytes (R488). -/
def payloadOf (fs : List (Nat × Nat)) : Bytes :=
  let b := fs.flatMap (fun x => leBytes x.1 x.2)
  b ++ List.replicate (24 - b.length) 0

/-- Payload bytes 20 to 23 take the suppressed count of a limited code (R488). -/
def withSuppressed (b : Bytes) (n : Nat) : Bytes := patch b 20 (leBytes 4 n)

/-- The record of an event accepted now, without its number. -/
def Dev.mkRecord (d : Dev) (c : EvCode) (kind idx : Nat) (payload : Bytes) : EvRec :=
  let valid := d.b0 .TIM_STATUS_FRC_VALID && d.tim.lockedOnce
  let t := d.timeNow
  { seq := none, code := c, srcKind := kind, srcIdx := idx, payload := payload,
    powerCycles := d.f0 .CLK_POWER_CYCLES, opMs := d.opMs,
    flags := b2n valid + 2 * b2n (decide (d.f0 .TIM_STATUS_STATE = 1)) + 4 * b2n (d.b0 .EVR_STATUS_SEQ_UNANCHORED),
    ptpSec := if valid then t.1 else 0, ptpNs := if valid then t.2.1 else 0, epoch := d.tim.cur }

/-- A record enters the staging FIFO: it takes its SEQ once numbering runs (R486, R487), raises source 324 at or
above INT_SEV, and an ERROR or FATAL one rings F2H doorbell 2 and calls for a flush (R491, R492). -/
def Dev.accept (d : Dev) (r : EvRec) : Dev :=
  let sev := r.code.severity
  let r1 := if d.evr.numbering then { r with seq := some d.evr.nextSeq } else r
  let e := { d.evr with
    fifo := d.evr.fifo ++ [r1]
    nextSeq := if d.evr.numbering then (d.evr.nextSeq + 1) % 2 ^ 32 else d.evr.nextSeq
    flushDue := d.evr.flushDue || sev.severe }
  let d1 := { d with evr := e }.count .EVR_RECORDED 0
  let d2 := if d.f0 .EVR_CTRL_INT_SEV ≤ sev.toNat then d1.raise 324 else d1
  if sev.severe then d2.doorbell 2 else d2

/-- Free slots of the staging FIFO (R489). -/
def Dev.evrFree (d : Dev) : Nat := 4096 - d.evr.fifo.length

/-- The pending LOST record, once more than 256 slots are free (R490). -/
def Dev.acceptLost (d : Dev) : Dev :=
  let counts := (List.range 6).map (fun s => d.f1 .EVR_LOST_PEND s)
  if counts.any (· ≠ 0) ∧ 256 < d.evrFree then
    let d1 := d.accept (d.mkRecord .LOST 0 0 (payloadOf (counts.map (fun n => (4, n)))))
    (List.range 6).foldl (fun d s => d.set1 .EVR_LOST_PEND s 0) d1
  else d

/-- The interrupt source of the block that reports an event (Table 16-7): bits [11:8] of a code name its chapter. -/
def EvCode.source (c : EvCode) (kind idx : Nat) : Option Nat :=
  match c.code / 256 % 16, kind with
  | 0, _ => if 0x4001 ≤ c.code ∧ c.code ≤ 0x4006 then some 321 else none
  | 1, _ => if c = .AVS_FAULT then some 321 else none
  | 2, _ => some 321
  | 3, _ => if 0x6301 ≤ c.code then some 325 else none
  | 4, 2 => some (128 + idx)
  | 4, 3 => some (256 + idx)
  | 4, _ => if 0x6401 ≤ c.code then some 326 else if 0x0410 ≤ c.code ∧ c.code ≤ 0x0412 then some 319 else none
  | 5, 1 => some idx
  | 6, 4 => some (288 + idx)
  | 7, 4 => some (288 + idx)
  | 8, _ => some 318
  | 9, _ => if c = .CAPTURE_LOST ∨ c = .CAPTURE_HOST_STOPPED then none else some 319
  | 10, _ => some 320
  | 11, _ => some 322
  | 12, _ => some 323
  | 13, _ => if c = .HOST_RING_HALTED ∨ c = .HOST_DMA_ERROR then some 336 else none
  | _, _ => none

/-- An event is recorded, or dropped and counted (R489, R490), and its block's interrupt source raises (R428); nothing is recorded while the internal reset holds
(R77). -/
def Dev.record (d : Dev) (c : EvCode) (kind idx : Nat) (payload : Bytes) : Dev :=
  let d0 := match c.source kind idx with
    | some s => d.raise s
    | none => d
  let d1 := d0.acceptLost
  let sev := c.severity
  if d.boot.inReset then d
  else if (if sev.severe then 0 else 256) < d1.evrFree then d1.accept (d1.mkRecord c kind idx payload)
  else (d1.satInc .EVR_LOST_PEND sev.toNat 0 1).count .EVR_DROPPED 0

/-- Whether the next event of a limited code and instance is recorded and not suppressed (R488). -/
def Dev.limitDue (d : Dev) (c : EvCode) (inst interval : Nat) : Bool :=
  (Map.get none d.evr.limits (k2 c.code inst)).all (fun r => decide (r.start + interval ≤ d.now))

/-- An event whose code is limited to one record per instance and interval: the record carries the count suppressed
since the last one (R488). -/
def Dev.recordLimited (d : Dev) (c : EvCode) (inst interval kind idx : Nat) (payload : Bytes) : Dev :=
  let key := k2 c.code inst
  let again (d : Dev) (sup : Nat) : Dev :=
    { d with evr := { d.evr with limits := Map.set none d.evr.limits key (some ⟨d.now, sup⟩) } }
  match Map.get none d.evr.limits key with
  | none => (again d 0).record c kind idx (withSuppressed payload 0)
  | some r =>
    if r.start + interval ≤ d.now then (again d 0).record c kind idx (withSuppressed payload r.suppressed)
    else { d with evr := { d.evr with
            limits := Map.set none d.evr.limits key (some ⟨r.start, r.suppressed + 1⟩) } }.count .EVR_SUPPRESSED 0

/-- An event limited like `recordLimited` whose payload carries the number of occurrences since its last record. -/
def Dev.recordCounted (d : Dev) (c : EvCode) (inst interval kind idx : Nat) (fs : Nat → List (Nat × Nat)) : Dev :=
  let n := ((Map.get none d.evr.limits (k2 c.code inst)).map (·.suppressed)).getD 0
  d.recordLimited c inst interval kind idx (payloadOf (fs (n + 1)))

/-! ### Token buckets -/

/-- A bucket refilled at `rate` units a tick up to `depth` units; an unlisted bucket is full. -/
def refill (b : Option Bucket) (rate depth now : Nat) : Int :=
  match b with
  | none => depth
  | some x => min (depth : Int) (x.level + rate * (now - x.at_ : Nat))

/-- Takes `cost` units if the bucket holds them. -/
def takeTokens (b : Option Bucket) (rate depth cost now : Nat) : Bool × Option Bucket :=
  let l := refill b rate depth now
  if (cost : Int) ≤ l then (true, some ⟨l - cost, now⟩) else (false, some ⟨l, now⟩)

/-! ### Failed and ignored accesses (R442) -/

/-- The kinds of GLB_ACCESS_LAST (Table 17-12). -/
inductive AccessKind
  | reserved | byteEnables | rpBurst | unreachable | isolated | pwMaster | highHalf | pf3Write | woLck | pf3RpRead
  | badKey | master | domainDown
  deriving DecidableEq, Repr

/-- The code of a kind (Table 17-12). -/
def AccessKind.code : AccessKind → Nat
  | .reserved => 1 | .byteEnables => 2 | .rpBurst => 3 | .unreachable => 4 | .isolated => 5 | .pwMaster => 6
  | .highHalf => 7 | .pf3Write => 8 | .woLck => 9 | .pf3RpRead => 10 | .badKey => 11 | .master => 12
  | .domainDown => 13

/-- GLB_ACCESS_LAST takes the master, kind and offset of an access. -/
def Dev.accessLast (d : Dev) (m kind off : Nat) : Dev :=
  ((d.set0 .GLB_ACCESS_LAST_MASTER m).set0 .GLB_ACCESS_LAST_KIND kind).set0 .GLB_ACCESS_LAST_OFFSET off

/-- The word GLB_ACCESS_LAST. -/
def Dev.accessLastWord (d : Dev) : Nat :=
  d.f0 .GLB_ACCESS_LAST_MASTER * 2 ^ 28 + d.f0 .GLB_ACCESS_LAST_KIND * 2 ^ 24 + d.f0 .GLB_ACCESS_LAST_OFFSET

/-- The violation of a master: HOST_VIOLATION for PF0 to PF3, SMBUS_VIOLATION for the SMBus slave and
REG_INTERNAL_VIOLATION for the others, with their counters (R439, R442, R463). -/
def Dev.violation (d : Dev) (m reason off : Nat) : Dev :=
  if 4 ≤ m ∧ m ≤ 7 then
    (d.recordLimited .HOST_VIOLATION (k2 m reason) tSec 9 m (payloadOf [(1, m - 4), (1, reason), (4, off)])).count
      .DMA_HOST_VIOLATIONS 0
  else if m = 8 then
    (d.recordLimited .SMBUS_VIOLATION reason tSec 9 8 (payloadOf [(1, reason), (4, d.accessLastWord)])).satInc
      .GLB_SMB_CNT_REFUSED 0 0 1
  else d.record .REG_INTERNAL_VIOLATION 9 m (payloadOf [(4, d.accessLastWord)])

/-- A failed or ignored access: no effect beyond GLB_ACCESS_LAST and the violation (R442). -/
def Dev.accessFailed (d : Dev) (m : Nat) (k : AccessKind) (off : Nat) : Dev :=
  (d.accessLast m k.code off).violation m k.code off

end Sys2Proof.Machine
end

