-- ==== Sys2Proof/Machine/FrameOps.lean ====
section
/-! DEFINITION. Frames in the shared buffer (spec/10): the class map, cells, queues, admission, the pause requests
of lossless classes, and what happens to a port's frames when its link goes down. -/

namespace Sys2Proof.Machine

/-! ### The running image's class map (Table 2-5) -/

/-- The body of a section of the running image; `n` is the region, 4 for a section of the device. -/
def Dev.section (d : Dev) (ty n : Nat) : Bytes := Map.get [] d.img.sections (k2 ty n)

/-- A field of the CLASSES record of class `t`. -/
def Dev.clsField (d : Dev) (t off size : Nat) : Nat := leAt (d.section 8 4) (0x60 + 32 * t + off) size

/-- HOLD_POLICY of a class in force: NONE while the hold store is out of service (R31). -/
def Dev.holdPolicy (d : Dev) (t : Nat) : Nat := if d.hld.outOfService then 0 else d.clsField t 0 1

def Dev.holdDropOldest (d : Dev) (t : Nat) : Bool := decide (d.clsField t 1 1 = 1)
def Dev.clsDurable (d : Dev) (t : Nat) : Bool := bitOf (d.clsField t 2 1) 0
def Dev.clsLossless (d : Dev) (t : Nat) : Bool := bitOf (d.clsField t 2 1) 1
def Dev.clsStrict (d : Dev) (t : Nat) : Bool := bitOf (d.clsField t 2 1) 2
def Dev.clsMaxAge (d : Dev) (t : Nat) : Nat := d.clsField t 4 4
def Dev.clsSpill (d : Dev) (t : Nat) : Nat := d.clsField t 8 4
def Dev.clsDrainRate (d : Dev) (t : Nat) : Nat := d.clsField t 0xC 4
def Dev.clsWeight (d : Dev) (t : Nat) : Nat := d.clsField t 0x10 4

/-- LINK_FLAP_HOLD in milliseconds (Table 2-5). -/
def Dev.flapHold (d : Dev) : Nat := leAt (d.section 8 4) 0x40 2

/-- The traffic class of an internal class value (CLASS_MAP). -/
def Dev.classMap (d : Dev) (c : Nat) : Nat := leAt (d.section 8 4) (c % 64) 1 % 8

/-! ### Ports -/

/-- The port's mode code, 0 for an unused port (R99). -/
def Dev.portMode (d : Dev) (p : Nat) : Nat := d.f1 .MAC_PORT_INFO_MODE p

def Dev.portUsed (d : Dev) (p : Nat) : Bool := decide (d.portMode p ≠ 0)

def Dev.linkUp (d : Dev) (p : Nat) : Bool := d.b1 .MAC_STATUS_LINK_UP p

/-- MAC_SA of a port as a 48-bit number (R534). -/
def Dev.macSa (d : Dev) (p : Nat) : Nat := d.f1 .MAC_SA_HI p * 2 ^ 32 + d.f1 .MAC_SA_LO p

/-- MAC rate of a mode in Mb/s (Table 4-1). -/
def modeRate : Nat → Nat
  | 1 => 400000 | 2 => 200000 | 3 => 100000 | 4 => 50000 | 5 => 25000 | 6 => 10000 | 7 => 1000 | _ => 0

/-- The region a port belongs to (R14): front ports and recirculation ports. -/
def portRegion (q : Nat) : Nat := if q < 128 then q / 32 else q - 128

def Dev.regionIsolated (d : Dev) (n : Nat) : Bool := bitOf (d.f0 .HLT_SUM_REGION_ISOLATED) n

/-- A front port isolated by itself or with its region (R27, R106). -/
def Dev.portIsolated (d : Dev) (p : Nat) : Bool := d.b1 .MAC_PORT_INFO_ISOLATED p || d.regionIsolated (p / 32)

def Dev.flapSt (d : Dev) (q : Nat) : FlapSt := Map.get ⟨none, false⟩ d.buf.flap q

/-- The port state of rows 1 and 2 of Table 10-1: down past LINK_FLAP_HOLD, or isolated; a recirculation port out of
service (R27); a front port the running image does not use (R99, log 11).  Index 256 + a stands for fabric device `a` while no
route leads to it (R275). -/
def Dev.portPast (d : Dev) (q : Nat) : Bool :=
  if q < 128 then (d.flapSt q).expired || d.portIsolated q || !d.portUsed q
  else if q < 132 then d.regionIsolated (q - 128)
  else if 256 ≤ q then (Map.get ⟨none, false⟩ d.buf.fabFlap (q - 256)).expired else false

/-- Health state (Table 0-2). -/
def Dev.health (d : Dev) : Nat := d.f0 .HLT_STATE_STATE
def Dev.winter (d : Dev) : Bool := decide (d.health = 3)
def Dev.spring (d : Dev) : Bool := decide (d.health = 0)
/-- SUMMER or AUTUMN: the device forwards. -/
def Dev.forwards (d : Dev) : Bool := decide (d.health = 1 ∨ d.health = 2)

/-! ### MAC counters (R122) -/

/-- A MAC counter of port `p` counts `n`, on an unused port nothing (R99); bit 47 becoming set raises the port's interrupt where enabled. -/
def Dev.macCountN (d : Dev) (c : Ctr) (p n : Nat) : Dev :=
  let d1 := d.countN c p n
  if !d.portUsed p then d
  else if !bitOf (d.ctr c p) 47 && bitOf (d1.ctr c p) 47 && bitOf (d.fld .MAC_STAT_INT_EN p (c.k / 32)) (c.k % 32)
  then d1.raise p else d1

def Dev.macCount (d : Dev) (c : Ctr) (p : Nat) : Dev := d.macCountN c p 1

def Dev.macSt (d : Dev) (p : Nat) : MacSt := Map.get .reset d.mac p
def Dev.setMac (d : Dev) (p : Nat) (m : MacSt) : Dev := { d with mac := Map.set .reset d.mac p m }

/-! ### Cells and queues (R251 to R258) -/

/-- Cells of a frame: 256 bytes each. -/
def cellsFor (len : Nat) : Nat := (len + 255) / 256

def Dev.chain (d : Dev) (id : Nat) : Option Chain := Map.get none d.buf.chains id
def Dev.setChain (d : Dev) (id : Nat) (c : Option Chain) : Dev :=
  { d with buf := { d.buf with chains := Map.set none d.buf.chains id c } }
def Dev.rxFrame (d : Dev) (id : Nat) : Option Rx := Map.get none d.buf.rx id
def Dev.setRx (d : Dev) (id : Nat) (r : Option Rx) : Dev :=
  { d with buf := { d.buf with rx := Map.set none d.buf.rx id r } }

/-- Cells in use: linked frames and frames arriving. -/
def Dev.cellsUsed (d : Dev) : Nat :=
  d.buf.chains.foldl (fun n x => n + (x.2.map (·.cells)).getD 0) 0 +
  d.buf.rx.foldl (fun n x => n + (x.2.map (fun r => cellsFor r.bytes.length)).getD 0) 0

/-- Cells on the free list (BUF_FREE_CELLS). -/
def Dev.freeCells (d : Dev) : Nat := 1048576 - d.f0 .BUF_RETIRED_CELLS - d.cellsUsed

/-- BUF_PEAK_USED follows the cells in use. -/
def Dev.notePeak (d : Dev) : Dev :=
  if d.f0 .BUF_PEAK_USED < d.cellsUsed then d.set0 .BUF_PEAK_USED d.cellsUsed else d

def Dev.queue (d : Dev) (q i : Nat) : List Desc := Map.get [] d.buf.queues (k2 q i)
def Dev.setQueue (d : Dev) (q i : Nat) (l : List Desc) : Dev :=
  { d with buf := { d.buf with queues := Map.set [] d.buf.queues (k2 q i) l } }

/-- Occupancy of a queue in cells (QUE_DEPTH). -/
def cellsOf (l : List Desc) : Nat := l.foldl (fun n x => n + x.cells) 0
def Dev.depth (d : Dev) (q i : Nat) : Nat := cellsOf (d.queue q i)

/-- Descriptors in use (R255). -/
def Dev.descUsed (d : Dev) : Nat := d.buf.queues.foldl (fun n x => n + x.2.length) 0

/-- The class a queue belongs to: multicast queues are attached to a class (R268). -/
def Dev.queueClass (d : Dev) (q i : Nat) : Nat :=
  if i < 8 then i else if i = 8 then d.f1 .QUE_PORT_CFG_MC_TC0 q else d.f1 .QUE_PORT_CFG_MC_TC1 q

/-- MIN of a queue; multicast queues have none (R259). -/
def Dev.minCells (d : Dev) (q i : Nat) : Nat := if i < 8 ∧ q < 135 then d.fld .QUE_TC_CFG_MIN q i else 0

/-- U of R259: the cells of every queue beyond its minimum. -/
def Dev.sharedUsed (d : Dev) : Nat :=
  d.buf.queues.foldl (fun n x =>
    let k := Nat.unpair x.1
    n + (cellsOf x.2 - d.minCells k.1 k.2)) 0

/-- S of R260 before the floor: the terms are subtracted in the order of the rule. -/
def Dev.sharedSize (d : Dev) : Nat :=
  let front := (List.range 128).filter d.portUsed
  let mins := (front ++ [128, 129, 130, 131, 132, 133]).foldl
    (fun n q => (List.range 8).foldl (fun n t => n + d.minCells q t) n) (d.minCells 134 0)
  let heads := front.foldl (fun n p => (List.range 8).foldl
    (fun n t => if d.clsLossless t then n + d.fld .QUE_TC_PFC_HEADROOM p t else n) n) 0
  1048576 - d.f0 .BUF_ARRIVAL_RESERVE - mins - heads - d.f0 .BUF_RETIRED_CELLS

/-- I(p, c) of R261: cells of frames of class `c` received on port `p`. -/
def Dev.ingressCells (d : Dev) (p c : Nat) : Nat :=
  d.buf.chains.foldl (fun n x => n + (x.2.map (fun k => if k.port = p ∧ k.tc = c then k.cells else 0)).getD 0) 0

/-! ### Frames sent (R122, R510) -/

/-- The length bucket of Table 4-3, 0 to 9. -/
def lenBucket (n : Nat) : Nat :=
  if n ≤ 64 then 0 else if n ≤ 127 then 1 else if n ≤ 255 then 2 else if n ≤ 511 then 3 else if n ≤ 1023 then 4
  else if n ≤ 1518 then 5 else if n ≤ 2047 then 6 else if n ≤ 4095 then 7 else if n ≤ 9216 then 8 else 9

/-- A frame of `len` bytes has left port `p` with a good FCS; `kind` is 0 unicast, 1 multicast, 2 broadcast. -/
def Dev.noteSent (d : Dev) (p len kind : Nat) : Dev :=
  let d1 := (((d.macCountN .MAC_TX_OCTETS p len).macCount .MAC_TX_FRAMES p).macCount (Ctr.MAC_TX_UCAST.at kind)
    p).macCount (Ctr.MAC_TX_64.at (lenBucket len)) p
  let d2 := { d1 with pmc := { d1.pmc with txBytes := Map.update 0 d1.pmc.txBytes p (· + len + 20) } }
  let m := d2.macSt p
  d2.setMac p { m with lastTx := d2.now }

/-! ### Pause requests (R119, R261) -/

/-- The class-enable bits of every priority that maps to a class (R119). -/
def Dev.pfcEnable (d : Dev) (p c : Nat) : Nat :=
  (List.range 8).foldl (fun n i => if bitsOf (d.f1 .MAC_CLASS_MAP_PFC_MAP p) (3 * i) 3 = c then n + 2 ^ i else n) 0

/-- The port sends PFC, or PAUSE in PAUSE mode, for a class, as a 64-byte multicast frame; nothing with TX_PAUSE_EN = 0 or
the mode OFF. -/
def Dev.sendPause (d : Dev) (p c quanta : Nat) : Dev :=
  if d.f1 .MAC_CTRL_TX_PAUSE_EN p = 0 ∨ !d.linkUp p then d
  else if d.f1 .MAC_CTRL_PAUSE_MODE p = 2 then
    let en := d.pfcEnable p c
    (List.range 8).foldl (fun d i => if bitOf en i then d.macCount (Ctr.MAC_TX_PFC.at i) p else d)
      ((d.noteSent p 64 1).emit (.pfc p en quanta))
  else if d.f1 .MAC_CTRL_PAUSE_MODE p = 1 then ((d.noteSent p 64 1).emit (.pause p quanta)).macCount .MAC_TX_PAUSE p
  else d

/-- The pause request of class `c` asserts when I passes XOFF (R261). -/
def Dev.checkXoff (d : Dev) (p c : Nat) : Dev :=
  if p < 128 ∧ d.clsLossless c ∧ !bitOf (d.f1 .QUE_PORT_STATUS_PFC_XOFF p) c ∧
      d.fld .QUE_TC_PFC_XOFF p c < d.ingressCells p c then
    let d1 := (d.setBit .QUE_PORT_STATUS_PFC_XOFF p c true).count .QUE_PFC_XOFF p
    let m := d1.macSt p
    (d1.setMac p { m with xoffAt := Map.set 0 m.xoffAt c (d.now + 1) }).sendPause p c (d.f1 .MAC_PFC_TX_QUANTA p)
  else d

/-- The request is released when I falls to XOFF / 2, with a frame of quanta 0 (R119, R261). -/
def Dev.checkXon (d : Dev) (p c : Nat) : Dev :=
  if p < 128 ∧ bitOf (d.f1 .QUE_PORT_STATUS_PFC_XOFF p) c ∧
      d.ingressCells p c ≤ d.fld .QUE_TC_PFC_XOFF p c / 2 then
    let d1 := d.setBit .QUE_PORT_STATUS_PFC_XOFF p c false
    let m := d1.macSt p
    (d1.setMac p { m with xoffAt := Map.set 0 m.xoffAt c 0 }).sendPause p c 0
  else d

/-! ### References (R264, R265) -/

/-- Port `by_` asks for the cells of a chain to be freed: done where it is the last owner of a chain whose count is zero;
any other request is refused and counted, and the cells stay (R265). -/
def Dev.freeRequest (d : Dev) (id by_ : Nat) : Dev :=
  match d.chain id with
  | none => d
  | some c =>
    if c.refs = 0 ∧ c.lastOwner = some by_ then (d.setChain id none).checkXon c.port c.tc
    else (d.count .BUF_FREE_REFUSED 0).record .BUF_FREE_REFUSED 1 by_
      (payloadOf [(4, id), (1, by_), (1, c.lastOwner.getD 0xFF)])

/-- One copy releases its reference; the release that brings the count to zero makes its port the last owner. -/
def Dev.dropRef (d : Dev) (id port : Nat) : Dev :=
  match d.chain id with
  | none => d
  | some c =>
    if c.refs ≤ 1 then d.setChain id (some { c with refs := 0, lastOwner := some port })
    else d.setChain id (some { c with refs := c.refs - 1 })

/-- A copy releases its reference at `port`, and the last owner frees the cells. -/
def Dev.release (d : Dev) (id port : Nat) : Dev :=
  let d1 := d.dropRef id port
  if (d1.chain id).any (fun c => c.refs == 0) then d1.freeRequest id port else d1

/-- The traffic class of a frame under the class map, as the ingress side counts it (R261). -/
def Dev.frameTc (d : Dev) (id dflt : Nat) : Nat := ((d.chain id).map (·.tc)).getD dflt

/-! ### Hold queues (R295 to R297) -/

/-- The hold queue of a front port's class, or of a fabric device's class. -/
def holdQueueOf (q t : Nat) (fab : Option FabHdr) : Option Nat :=
  match fab with
  | some f => if 1 ≤ f.dst ∧ f.dst ≤ 254 then some (1024 + 8 * (f.dst - 1) + t) else none
  | none => if q < 128 then some (8 * q + t) else none

def HoldQ.reset : HoldQ := ⟨false, false, [], [], none, [], [], none, 0, none, 0, 0, 0, 0⟩
def Dev.holdQ (d : Dev) (h : Nat) : HoldQ := Map.get .reset d.hld.queues h
def Dev.setHoldQ (d : Dev) (h : Nat) (x : HoldQ) : Dev :=
  { d with hld := { d.hld with queues := Map.set .reset d.hld.queues h x } }

/-! ### Admission (R259, Table 10-1) -/

inductive Admit
  | ok | down | hold | ineligible | headroom | threshold
  deriving DecidableEq, Repr

/-- Rows 5 to 9 of Table 10-1 for `k` cells of a colour. -/
def Dev.threshold (d : Dev) (q i k : Nat) (c : Colour) : Bool :=
  let dep := d.depth q i
  let m := d.minCells q i
  let room := 2 ^ d.fld .QUE_TC_CFG_ALPHA q (d.queueClass q i) * (d.sharedSize - d.sharedUsed)
  match c with
  | .green => decide (dep + k ≤ m) || decide ((dep + k - m) * 256 ≤ room)
  | .yellow => decide ((dep + k) * 512 ≤ room)
  | .red => decide ((dep + k) * 1024 ≤ room)

/-- Row 4: a lossless class is admitted on its ingress count (R261); the cells of the frame itself, `id`, may be counted
already. -/
def Dev.lossless (d : Dev) (id ing t k : Nat) : Bool :=
  let own := (d.chain id).any (fun c => c.port == ing && c.tc == t)
  decide (d.ingressCells ing t + (if own then 0 else k) ≤ d.fld .QUE_TC_PFC_XOFF ing t + d.fld .QUE_TC_PFC_HEADROOM ing t)

/-- Rows 4 to 9 of Table 10-1 for a frame received on port `ing`: `ok`, `headroom` or `threshold`. -/
def Dev.admitRows (d : Dev) (q i ing : Nat) (de : Desc) : Admit :=
  let t := d.frameTc de.chain de.tc
  if d.clsLossless t ∧ ing < 128 then (if d.lossless de.chain ing t de.cells then .ok else .headroom)
  else if d.threshold q i de.cells de.colour then .ok else .threshold

/-- The first row of Table 10-1 that applies to a frame of `de.cells` cells for queue `i` of port `q`, received on
port `ing`.  Copies are never held (R264), nor is a frame for a front port that the image does not use (R99, log 11). -/
def Dev.admission (d : Dev) (q i ing : Nat) (de : Desc) : Admit :=
  let t := d.queueClass q i
  let pol := if de.copy ∨ 8 ≤ i ∨ (holdQueueOf q t de.fab).isNone ∨ (q < 128 ∧ !d.portUsed q) then 0 else d.holdPolicy t
  let active := (holdQueueOf q t de.fab).any (fun h => (d.holdQ h).active)
  if d.portPast q then (if pol = 0 ∨ !de.holdOk then .down else .hold)
  else if pol ≠ 0 ∧ active then (if de.holdOk then .hold else .ineligible)
  else if pol = 2 ∧ de.holdOk ∧ d.clsSpill t < d.depth q i + de.cells then .hold
  else d.admitRows q i ing de

/-- A frame for a port in transmit low-power idle starts the wake time TW_SYS_TX (R121). -/
def Dev.startWake (d : Dev) (p : Nat) : Dev :=
  let m := d.macSt p
  if d.b1 .MAC_STATUS_TX_LPI p ∧ m.wakeAt.isNone then
    d.setMac p { m with wakeAt := some (d.now + d.f1 .MAC_EEE_STATUS_TW_SYS_TX p * tUs) }
  else d

/-- A descriptor joins the tail of a queue and takes the next link number. -/
def Dev.enqueue (d : Dev) (q i : Nat) (de : Desc) : Dev :=
  let d0 := { d with buf := { d.buf with links := d.buf.links + 1 } }
  let d1 := ((d0.setQueue q i (d.queue q i ++ [{ de with no := d.buf.links }])).count .QUE_ENQ_FRAMES (q * 10 + i)).perf 4
    0x204 0xFF 1
  if q < 128 then d1.startWake q else d1

/-- A descriptor goes back to the head of its queue: ahead of every descriptor linked after it (R116, R254, R271). -/
def Dev.putBack (d : Dev) (q i : Nat) (de : Desc) : Dev :=
  let l := d.queue q i
  d.setQueue q i (l.takeWhile (fun x => decide (x.no < de.no)) ++ de :: l.dropWhile (fun x => decide (x.no < de.no)))

/-- A frame refused at a queue: DROP_FRAMES, and its reference is released. -/
def Dev.refuse (d : Dev) (q i : Nat) (de : Desc) : Dev :=
  (((d.count .QUE_DROP_FRAMES (q * 10 + i)).perf 4 0x205 0xFF 1).release de.chain q)


/-- ECN marking at linking (R263); between the limits the generator's value is free (log 8). -/
def Dev.ecnMark (d : Dev) (q i : Nat) (de : Desc) : Dev × Desc :=
  let t := d.queueClass q i
  let hi := d.fld .QUE_TC_ECN_ECN_MAX q t
  let lo := d.fld .QUE_TC_ECN_ECN_MIN q t
  let dep := d.depth q i
  let mark (d : Dev) : Dev × Desc :=
    (d.count .QUE_ECN_MARKED (q * 10 + i), { de with edits := { de.edits with ecn := true } })
  if hi = 0 ∨ dep < lo then (d, de)
  else if hi ≤ dep then mark d
  else
    let r := d.draw
    if (r.1 % 65536) * (hi - lo) < (dep - lo) * 65536 then mark r.2 else (r.2, de)

/-- A descriptor for which rows 1 to 3 of Table 10-1 do not apply joins queue `i` of port `q` under the others, marked
under R263, or is refused.  `ing` is the port the frame was received on.  Answers whether it is still in the buffer. -/
def Dev.join (d : Dev) (q i ing : Nat) (de : Desc) : Dev × Bool :=
  let t := d.frameTc de.chain de.tc
  let mc (d : Dev) : Dev := if de.copy then d.count .QUE_MC_EGRESS_DROP q else d
  match d.admitRows q i ing de with
  | .headroom =>
    ((((mc d).count .QUE_HEADROOM_OVERFLOW ing).recordCounted .HEADROOM_OVERFLOW ing tSec 1 ing
      (fun n => [(1, ing), (1, t), (4, n)])).refuse q i de, false)
  | .ok =>
    if d.descUsed < 1572864 then
      let m := d.ecnMark q i de
      ((m.1.enqueue q i m.2).checkXoff ing t, true)
    else (((mc d).count .BUF_DESC_EMPTY 0).refuse q i de, false)
  | _ => (((mc d).count .QUE_THRESHOLD_DROP q).refuse q i de, false)

/-- A frame passes to port 133 for hold queue `h` (R297): it joins the unicast queue of its class under R259 and the
hold queue becomes ACTIVE; refused there, it is lost. -/
def Dev.passToHold (d : Dev) (h ing : Nat) (de : Desc) (head : Bool) : Dev × Bool :=
  let r := d.join 133 de.tc ing { de with holdQ := some h, headChain := head }
  if r.2 then
    let x := r.1.holdQ h
    let y := if x.active then x else { x with active := true, since := d.now, drained := 0, oldest := 0 }
    (r.1.setHoldQ h { y with pending := y.pending + 1 }, true)
  else r

/-! ### Flushing, and a port past its flap timer (R271 to R273) -/

/-- The queues that share class `t`'s turn (R268): unicast, then the multicast queues attached to it. -/
def Dev.classQueues (d : Dev) (p t : Nat) : List Nat :=
  if p < 128 then t :: ([8, 9].filter (fun i => d.queueClass p i == t)) else [t]

def Dev.deficit (d : Dev) (p t : Nat) : Nat := Map.get 0 d.buf.deficit (k2 p t)
def Dev.setDeficit (d : Dev) (p t v : Nat) : Dev :=
  { d with buf := { d.buf with deficit := Map.set 0 d.buf.deficit (k2 p t) v } }

/-- A class with no frame left has a deficit of 0 (R267). -/
def Dev.emptied (d : Dev) (q i : Nat) : Dev :=
  let t := d.queueClass q i
  if (d.classQueues q t).all (fun k => (d.queue q k).isEmpty) then d.setDeficit q t 0 else d

/-- Every frame of a queue is flushed and counted. -/
def Dev.flushQueue (d : Dev) (q i : Nat) : Dev :=
  let l := d.queue q i
  let d1 := ((d.setQueue q i []).countN .QUE_FLUSHED (q * 10 + i) l.length).emptied q i
  let d2 := if 8 ≤ i then d1.countN .QUE_MC_EGRESS_DROP q l.length else d1
  l.foldl (fun d de => d.release de.chain q) d2

/-- A place of a MAC transmit queue. -/
def Dev.macqAt (d : Dev) (p m : Nat) : Option TxFrame := Map.get none d.buf.macq (k2 p m)
def Dev.setMacq (d : Dev) (p m : Nat) (f : Option TxFrame) : Dev :=
  { d with buf := { d.buf with macq := Map.set none d.buf.macq (k2 p m) f } }

/-- The frame in flight of a port. -/
def Dev.inflight (d : Dev) (p : Nat) : Option TxFrame := Map.get none d.buf.inflight p
def Dev.setInflight (d : Dev) (p : Nat) (f : Option TxFrame) : Dev :=
  { d with buf := { d.buf with inflight := Map.set none d.buf.inflight p f } }

/-- The MAC queues of a port give their waiting frames back to the heads of their class queues. -/
def Dev.returnMacq (d : Dev) (p : Nat) : Dev :=
  (List.range 4).foldl (fun d m =>
    match d.macqAt p m with
    | none => d
    | some f => (d.setMacq p m none).putBack p f.queue f.desc) d

/-! ### Transmitters (R111, R112, R115, R116) -/

/-- A class is paused by the partner. -/
def Dev.classPaused (d : Dev) (p c : Nat) : Bool := bitOf (d.f1 .MAC_STATUS_PAUSED p) c

/-- The pause class of the frame in MAC queue `m`: CTRL_TC for queue 3 (R112). -/
def Dev.txClass (d : Dev) (p m : Nat) (f : TxFrame) : Nat :=
  if m = 3 then d.f1 .MAC_TXQ_MAP_CTRL_TC p else d.queueClass p f.queue

/-- Waiting frames of paused classes go back to the heads of their class queues in their order, counted in PFC_WITHDRAW
(R116). -/
def Dev.withdraw (d : Dev) (p : Nat) : Dev :=
  (List.range 4).foldl (fun d m =>
    match d.macqAt p m with
    | none => d
    | some f =>
      if d.classPaused p (d.txClass p m f) then
        ((d.setMacq p m none).putBack p f.queue f.desc).macCount .MAC_PFC_WITHDRAW p
      else d) d

/-- The safe-state line as a lane die reads it: either copy asserts it (R21). -/
def Dev.safeLine (d : Dev) : Bool := d.pins.safeLineA || d.pins.safeLineB

/-- The transmitter may start a frame: its link is up, it runs, and no pause waits for the end of a frame. -/
def Dev.txReady (d : Dev) (p : Nat) : Bool :=
  let m := d.macSt p
  d.linkUp p && !d.winter && !d.safeLine && decide (m.drive = .running) && m.pausePend.isEmpty &&
  !d.b1 .MAC_STATUS_TX_LPI p && (d.inflight p).isNone && m.ownTx.isNone

/-- MAC queue `m` holds a frame that may start: one of the device's own frames waits in queue 3 behind a frame there. -/
def Dev.macqReady (d : Dev) (p m : Nat) : Bool :=
  match d.macqAt p m with
  | some f => !d.classPaused p (d.txClass p m f)
  | none => m == 3 && !(d.macSt p).own.isEmpty && !d.classPaused p (d.f1 .MAC_TXQ_MAP_CTRL_TC p)

/-- The frame would leave longer than MAC_MAX_FRAME (R111). -/
def Dev.oversize (d : Dev) (p : Nat) (de : Desc) : Bool :=
  match d.chain de.chain with
  | none => false
  | some c => decide (d.f1 .MAC_MAX_FRAME p < de.wireLen c (d.f0 .ACT_TPID) (d.macSa p))

/-- The transmitter takes frames from the highest MAC queue that holds one not paused: one that is too long is dropped
before its first byte, the first other one starts (R111, R112). -/
def Dev.startFrom (p : Nat) : Nat → Dev → Dev
  | 0, d => d
  | n + 1, d =>
    if !d.txReady p then d
    else match [3, 2, 1, 0].find? (d.macqReady p) with
      | none => d
      | some m =>
        match d.macqAt p m, (d.macSt p).own with
        | some f, _ =>
          if d.oversize p f.desc
          then Dev.startFrom p n (((d.setMacq p m none).macCount .MAC_TX_OVERSIZE_DROP p).release f.desc.chain p)
          else (d.setMacq p m none).setInflight p (some { f with start := d.now })
        | none, x :: rest => d.setMac p { d.macSt p with own := rest, ownTx := some { x with start := d.now } }
        | none, [] => d

/-- An idle transmitter starts its next frame. -/
def Dev.startNext (d : Dev) (p : Nat) : Dev := Dev.startFrom p 5 d

/-- The firmware hands over a control frame of `len` bytes for a port whose link is up: it waits for MAC queue 3, in every
health state but WINTER (R86, R107, R112), and wakes a port in low-power idle (R121). -/
def Dev.sendMsg (d : Dev) (p proto type len : Nat) (fields : List Nat) : Dev :=
  if d.linkUp p ∧ !d.winter then
    let m := d.macSt p
    ((d.setMac p { m with own := m.own ++ [⟨proto, type, len, fields, 0⟩] }).startWake p).startNext p
  else d

/-- The frames of the firmware that a port holds: the one being sent, then those that wait. -/
def Dev.ownFrames (d : Dev) (p : Nat) : List OwnFrame := (d.macSt p).ownTx.toList ++ (d.macSt p).own

/-! ### A port without its link -/

/-- The eligible frames of a hold class pass to port 133 in queue order, the others are flushed; a queue already
ACTIVE takes them as a head chain (R273, R299).  Answers (flushed, moved). -/
def Dev.queueToHold (d : Dev) (q i : Nat) : Dev × Nat × Nat :=
  let l := d.queue q i
  let d0 := (d.setQueue q i []).emptied q i
  l.foldl (fun (acc : Dev × Nat × Nat) de =>
    match holdQueueOf q i de.fab, de.holdOk with
    | some h, true =>
      let was := (d.holdQ h).active
      let ing := ((acc.1.chain de.chain).map (·.port)).getD 133
      let d1 := (acc.1.count .QUE_FLAP_TO_HOLD q).passToHold h ing de was
      (d1.1, acc.2.1, acc.2.2 + 1)
    | _, _ => ((acc.1.count .QUE_FLUSHED (q * 10 + i)).release de.chain q, acc.2.1 + 1, acc.2.2)) (d0, 0, 0)

/-- Every queue of a front port is flushed or passes to port 133 (R273); answers the frames flushed and moved. -/
def Dev.emptyPort (d : Dev) (p : Nat) : Dev × Nat × Nat :=
  let d0 := { d with buf := { d.buf with flap := Map.set ⟨none, false⟩ d.buf.flap p ⟨none, true⟩ } }
  let r := (List.range 8).foldl (fun (acc : Dev × Nat × Nat) t =>
    if d.holdPolicy t = 0 then
      (acc.1.flushQueue p t, acc.2.1 + (acc.1.queue p t).length, acc.2.2)
    else
      let x := acc.1.queueToHold p t
      let chained := decide (x.2.2 ≠ 0) && (d.holdQ (8 * p + t)).active
      (if chained then x.1.count .HLD_HEAD_CHAINS 0 else x.1, acc.2.1 + x.2.1, acc.2.2 + x.2.2)) (d0, 0, 0)
  ((r.1.flushQueue p 8).flushQueue p 9, r.2)

/-- Flap expiry of a front port (R273). -/
def Dev.expirePort (d : Dev) (p : Nat) : Dev :=
  let r := d.emptyPort p
  let copies := (d.queue p 8).length + (d.queue p 9).length
  (r.1.count .QUE_FLAP_EXPIRED p).record .LINK_FLAP_EXPIRED 1 p
    (payloadOf [(1, p), (4, r.2.1), (4, r.2.2), (4, copies)])

/-- The frame a port is sending is cut: it ends with an inverted FCS and counts in TX_ABORTED (R104, R107). -/
def Dev.cutFrame (d : Dev) (p : Nat) : Dev × Option TxFrame :=
  match d.inflight p with
  | none =>
    let m := d.macSt p
    (match m.ownTx with
     | none => d
     | some x =>
       let pmc := { d.pmc with txBytes := Map.update 0 d.pmc.txBytes p (· + x.len + 20) }
       ({ d with pmc := pmc }.setMac p { m with ownTx := none }).macCount .MAC_TX_ABORTED p, none)
  | some f =>
    let bytes := ((d.chain f.desc.chain).map (·.bytes)).getD []
    let pmc := { d.pmc with txBytes := Map.update 0 d.pmc.txBytes p (· + bytes.length + 20) }
    ((({ d with pmc := pmc }.setInflight p none).macCount .MAC_TX_ABORTED p).emit (.frame p bytes false), some f)

/-- The frame in flight is cut, and goes back to the head of its queue if its class holds and it is eligible, else it is
freed (R271); frames that wait in the MAC queues go back too, and the firmware's frames are dropped. -/
def Dev.stopSending (d : Dev) (p : Nat) : Dev :=
  let c := d.cutFrame p
  let d1 := match c.2 with
    | none => c.1
    | some f =>
      if f.queue < 8 ∧ d.holdPolicy f.queue ≠ 0 ∧ f.desc.holdOk ∧ !f.desc.copy then c.1.putBack p f.queue f.desc
      else c.1.release f.desc.chain p
  let d2 := d1.returnMacq p
  d2.setMac p { d2.macSt p with own := [] }

/-- A port goes down with `hold` milliseconds of LINK_FLAP_HOLD (R27, R103, R104, R106, R271): its transmitter stops and
the flap timer starts, or the port expires at once.  A port that is past its timer already does not expire again, and one
without a timer (`up` is false, its link was not up) is emptied without an expiry. -/
def Dev.portDown (d : Dev) (p hold : Nat) (up : Bool) : Dev :=
  let d1 := d.stopSending p
  let f := d1.flapSt p
  if hold ≠ 0 then
    { d1 with buf := { d1.buf with
        flap := Map.set ⟨none, false⟩ d1.buf.flap p ⟨some (d.now + hold * tMs), false⟩ } }
  else if f.expired then d1
  else if up ∨ f.endAt.isSome then d1.expirePort p
  else (d1.emptyPort p).1

/-! ### Linking (R42, R259, R263, R264) -/

/-- The cells of a frame of `need` cells for writer `w` (R257): how many the allocator grants, and what the frame has lost by,
0 nothing, 1 to the other writers, 2 to an empty buffer.  `rivals` are the other writers that ask in the cycle of its last
cell: those ahead of it in the rotation are granted one first. -/
def Dev.allocate (d : Dev) (w need : Nat) (rivals : List (Fin 7)) : Nat × Nat :=
  let free := d.freeCells
  let turn (x : Nat) : Nat := (x + 7 - d.buf.rotation) % 7
  let ahead := (List.range 7).countP (fun x => rivals.any (fun r => r.val == x) && decide (turn x < turn w))
  if free < need then (free, 2)
  else if free + 1 ≤ need + ahead ∧ 0 < need then (need - 1, 1)
  else (need, 0)

/-- The bytes of a frame that its granted cells hold: a frame that lost a cell keeps none of the rest (R257). -/
def keptBytes (bytes : Bytes) (got : Nat × Nat) : Bytes := if got.2 = 0 then bytes else bytes.take (256 * got.1)

/-- A new set of cells, written by writer W0 to W6, takes the next chain number. -/
def Dev.newChain (d : Dev) (writer : Nat) (c : Chain) : Dev × Nat :=
  (({ d with buf := { d.buf with nextId := d.buf.nextId + 1 } }.setChain d.buf.nextId (some c)).notePeak.perf 4 0x200
    writer c.cells, d.buf.nextId)

/-- A descriptor whose chain is held with one reference for it is admitted to queue `i` of port `q`, passed to port
133, or refused (Table 10-1).  `ing` is the port it was received on.  Answers whether it is still in the buffer. -/
def Dev.link (d : Dev) (q i ing : Nat) (de : Desc) : Dev × Bool :=
  let t := d.queueClass q i
  let mc (d : Dev) : Dev := if de.copy then d.count .QUE_MC_EGRESS_DROP q else d
  match d.admission q i ing de with
  | .down => (((mc d).count .QUE_LINK_DOWN_DROP q).refuse q i de, false)
  | .hold =>
    match holdQueueOf q t de.fab with
    | some h => d.passToHold h ing { de with tc := t } false
    | none => (d.refuse q i de, false)
  | .ineligible => ((d.count .HLD_T_INELIGIBLE_DROP t).recordCounted .HOLD_INELIGIBLE_DROP t tSec 0 0
      (fun n => [(1, t), (4, n)]) |>.release de.chain q, false)
  | _ => d.join q i ing de

/-! ### Frames for the management firmware -/

def Edits.none : Edits := ⟨0, 0, 255, 255, false, .none, .none, .none, .none, false⟩

def ParseRes.empty (port : Nat) : ParseRes := ⟨port, 0, [], 0, 0, false, false, 0, 0, 0⟩

/-- A plain descriptor of chain `id` with `len` bytes, green, hold-eligible, without edits. -/
def Desc.plain (id len tc cls : Nat) : Desc :=
  { chain := id, no := 0, len := len, cells := cellsFor len, tc := tc, cls := cls, colour := .green, edits := .none
    holdOk := true, copy := false, trunc := 0, recirc := none, tsId := none, fab := none, holdQ := none
    headChain := false, reason := 0, profile := 0xFFFF, drained := false }

/-- A received frame for port 134: linked to its queue 0 without parsing (R154, R253), or dropped where no cell is free
(R257). -/
def Dev.toPort134 (d : Dev) (p : Nat) (bytes : Bytes) (cap : Capture) : Dev :=
  let need := cellsFor bytes.length
  if d.freeCells < need then (d.count .BUF_ALLOC_EMPTY 0).count .QUE_DROP_FRAMES 1340
  else
    let c := d.newChain (portRegion p)
      { bytes := bytes, hasFcs := true, marked := none, port := p, region := portRegion p, tc := 0, cells := need, refs := 1
        lastOwner := none, crc32c := crc32c bytes, cap := cap, parse := .empty p, hash := 0, dflt := none }
    (c.1.link 134 0 p { Desc.plain c.2 bytes.length 0 0 with holdOk := false }).1

end Sys2Proof.Machine
end

