-- ==== Sys2Proof/Machine/LinkOps.lean ====
section
/-! DEFINITION. What a port's link carries with it: the fabric adjacency (R354), the shadow turn on its lanes (R138),
the flap count (R105), and the link going down (R103, R104); and the queues of firmware messages (R468). -/

namespace Sys2Proof.Machine

/-! ### Firmware-to-host messages (R467 to R469) -/

def Dev.f2hFull (d : Dev) (m : Nat) : Bool := d.b1 .MBX_F2H_STATUS_FULL m

/-- Messages were lost on a pair: counted for the lost-message notice of pair 5 (R468), `dir` 0 H2F and 1 F2H. -/
def Dev.noteLost (d : Dev) (m dir seq : Nat) : Dev :=
  let key := k2 m dir
  let x := match Map.get none d.mbx.lostMsgs key with
    | none => (⟨1, seq, seq⟩ : LostMsgs)
    | some l => ⟨l.count + 1, l.first, seq⟩
  ({ d with mbx := { d.mbx with lostMsgs := Map.set none d.mbx.lostMsgs key (some x) } }).doorbell 4

/-- A message joins the queue of 8 behind F2H mailbox `m`, or is lost (R468). -/
def Dev.f2hPost (d : Dev) (m : Nat) (msg : Msg) : Dev :=
  let q := Map.get [] d.mbx.queue m
  if q.length < 8 then
    let d1 := { d with mbx := { d.mbx with queue := Map.set [] d.mbx.queue m (q ++ [msg]) } }
    d1.set1 .MBX_F2H_STATUS_QUEUED m (q.length + 1)
  else
    (((d.satInc .MBX_F2H_STATUS_LOST_COUNT m 0 1).count .MBX_F2H_LOST 0).noteLost m 1 (msg.words.headD 0 % 4096))

/-- Word 1 of a reply or notice (Table 18-2). -/
def word1 (status stale notice part last len : Nat) : Nat :=
  status * 2 ^ 24 + stale * 2 ^ 23 + notice * 2 ^ 22 + part * 2 ^ 12 + last * 2 ^ 8 + len

/-- A notice on pair 5, with the firmware's own sequence (R469, R470). -/
def Dev.notice (d : Dev) (opcode : Nat) (payload : List Nat) : Dev :=
  let w0 := d.mbx.version * 2 ^ 24 + opcode * 2 ^ 12 + d.mbx.noticeSeq
  let d1 := { d with mbx := { d.mbx with noticeSeq := (d.mbx.noticeSeq + 1) % 4096 } }
  d1.f2hPost 5 ⟨w0 :: word1 0 0 1 0 0 payload.length :: payload, false⟩

/-! ### The PORTS record of a port (Table 2-5) -/

/-- A byte of the PORTS record of a port's group. -/
def Dev.portRec (d : Dev) (p off : Nat) : Nat := leAt (d.section 1 (p / 32)) (16 * (p / 4 % 8) + off) 1

/-- Auto-negotiation or link training is enabled on the port. -/
def Dev.portNeg (d : Dev) (p : Nat) : Bool := decide (d.portRec p 4 % 4 ≠ 0)
def Dev.portTrains (d : Dev) (p : Nat) : Bool := bitOf (d.portRec p 4) 1
def Dev.portAn (d : Dev) (p : Nat) : Bool := bitOf (d.portRec p 4) 0

/-- Negotiation and training have to run again: AN_DONE falls, unless neither is enabled (Table 4-5). -/
def Dev.dropAn (d : Dev) (p : Nat) : Dev := d.set1 .MAC_STATUS_AN_DONE p (b2n (!d.portNeg p))

/-! ### The fabric adjacency (R354) -/

def Dev.adjSt (d : Dev) (p : Nat) : AdjSt := Map.get .reset d.fab.adj p
def Dev.setAdj (d : Dev) (p : Nat) (a : AdjSt) : Dev :=
  { d with fab := { d.fab with adj := Map.set .reset d.fab.adj p a } }
def Dev.adjState (d : Dev) (p : Nat) : Nat := d.f1 .FAB_ADJ_STATE p

/-- A port of the fabric: fabric role, and a FABRIC section running (R349). -/
def Dev.fabMember (d : Dev) : Bool := !(d.section 9 4).isEmpty
def Dev.fabPort (d : Dev) (p : Nat) : Bool := d.fabMember && decide (d.f1 .MAC_PORT_INFO_ROLE p = 1)

/-- The device's own fabric address, 0 while it has none. -/
def Dev.fabAddr (d : Dev) : Nat := d.f0 .FAB_STATUS_ADDRESS

/-- A new adjacency state.  A change to or from FULL records FAB_ADJ_UP or FAB_ADJ_DOWN and calls for a new link-state
record; below FULL the version reads 0 (Table 13-3, Table 13-7).  `cause`: 0 link down, 1 dead time, 2 identity,
3 NEIGH_ID. -/
def Dev.adjGo (d : Dev) (p st cause : Nat) : Dev :=
  let old := d.adjState p
  let a := d.adjSt p
  let d1 := d.set1 .FAB_ADJ_STATE p st
  let d2 := if old = 2 ∧ st ≠ 2 then
      let d2 := d1.record .FAB_ADJ_DOWN 1 p (payloadOf [(1, p), (1, d.f1 .FAB_ADJ_NEIGH_DEV p), (1, cause)])
      { d2 with fab := { d2.fab with
          originateDue := true, sends := d2.fab.sends.filter (fun x => x.port ≠ p) } }
    else if old ≠ 2 ∧ st = 2 then
      let d2 := d1.record .FAB_ADJ_UP 1 p (payloadOf [(1, p), (1, d.f1 .FAB_ADJ_NEIGH_DEV p),
        (8, a.neighId % 2 ^ 64), (8, a.neighId / 2 ^ 64), (1, d.f1 .FAB_ADJ_VERSION p)])
      { d2 with fab := { d2.fab with
          originateDue := true, firstFull := (match d2.fab.firstFull with | none => some d2.now | x => x) } }
    else d1
  let d3 := if st = 2 then d2 else d2.set1 .FAB_ADJ_VERSION p 0
  let n := (List.range 128).foldl (fun n q => if d3.adjState q = 2 then n + 1 else n) 0
  (d3.set0 .FAB_STATUS_FULL_ADJ n).raise 322

/-- The adjacency goes DOWN: the neighbour is forgotten. -/
def Dev.adjDown (d : Dev) (p cause : Nat) : Dev :=
  if d.adjState p = 0 then d
  else
    let d1 := (d.adjGo p 0 cause)
    let a := d1.adjSt p
    ((d1.setAdj p { a with neighId := 0, refusedAt := none, tagFails := 0 }).set1 .FAB_ADJ_NEIGH_DEV p 0).set1
      .FAB_ADJ_NEIGH_PORT p 0

/-- A control frame of a TYPE for port `p`: VERSION, SRC_DEV, SEQ (Table 13-1) and the fields of its body.  A hello gives
the device's maximum version, any other frame that of the link. -/
def Dev.fabControl (d : Dev) (p type len : Nat) (fields : List Nat) : Dev :=
  let a := d.adjSt p
  let n := Map.get 0 a.sent type
  (d.setAdj p { a with sent := Map.set 0 a.sent type ((n + 1) % 2 ^ 32) }).sendMsg p 1 type len
    ((if type = 4 then 0x21 else d.f1 .FAB_ADJ_VERSION p) :: d.fabAddr :: n :: fields)

/-- The notice of R363, over every FULL adjacency of version 2.1. -/
def Dev.floodNotice (d : Dev) (code : Nat) : Dev :=
  (List.range 128).foldl (fun d p =>
    if d.adjState p = 2 ∧ d.f1 .FAB_ADJ_VERSION p = 0x21
    then d.fabControl p 5 70 [d.fabAddr, d.health, code, Config.serial.toNat] else d) d

/-! ### Shadow turns (R128 to R138) -/

def Dev.turn (d : Dev) (c : Nat) : TurnSt := Map.get .reset d.turns c
def Dev.setTurn (d : Dev) (c : Nat) (t : TurnSt) : Dev := { d with turns := Map.set .reset d.turns c t }

/-- The physical lane of a cluster's target. -/
def Dev.turnLane (d : Dev) (c : Nat) : Nat := 4 * c + d.f1 .SHADOW_STATUS_TARGET c

/-- A turn ends: the tap detaches and the phase returns to IDLE, or to STOPPED once the spare is consumed or rotation
is disabled (Table 5-1, R138). -/
def Dev.detach (d : Dev) (c : Nat) : Dev :=
  let ph := if d.b1 .SHADOW_STATUS_SPARE_USED c ∨ !d.b1 .SHADOW_CTRL_ROTATE_EN c then 4 else 0
  ((d.set1 .LANE_STATUS_TAPPED (d.turnLane c) 0).set1 .SHADOW_STATUS_PHASE c ph).set1 .SHADOW_STATUS_RETRY c 0

/-- A turn in progress is abandoned: LANE_ABANDONED counts it, no spare is consumed, and LANE_TURN_ABANDONED is
limited to one record per cluster and minute (R138, R153).  The shadow that replaces an isolated slice is no turn (R141).  `reason` is the row of Table 5-5. -/
def Dev.abandonTurn (d : Dev) (c reason : Nat) : Dev :=
  let ph := d.f1 .SHADOW_STATUS_PHASE c
  if 1 ≤ ph ∧ ph ≤ 3 ∧ (d.turn c).kind ≠ 3 then
    let l := d.turnLane c
    ((d.detach c).satInc .LANE_ABANDONED l 0 1).recordLimited .LANE_TURN_ABANDONED c (60 * tSec) 2 l
      (payloadOf [(1, l), (1, ph), (1, reason)])
  else d

/-- The port that a physical lane carries, by the LANE_MAP and the mode of its group (R99, R100). -/
def Dev.lanePort (d : Dev) (l : Nat) : Nat :=
  let g := l / 4
  let map := leAt (d.section 1 (g / 8)) (16 * (g % 8) + 2) 1
  let logical := ((List.range 4).find? (fun i => bitsOf map (2 * i) 2 = l % 4)).getD 0
  match leAt (d.section 1 (g / 8)) (16 * (g % 8)) 1 with
  | 1 => 4 * g
  | 2 => 4 * g + 2 * (logical / 2)
  | _ => 4 * g + logical

/-- Turns whose target lane belongs to a port are abandoned (Table 5-5). -/
def Dev.abandonPortTurn (d : Dev) (p reason : Nat) : Dev :=
  let c := p / 4
  if d.lanePort (d.turnLane c) = p then d.abandonTurn c reason else d

/-! ### A link going down (R103 to R105) -/

/-- Causes of LINK_DOWN in the order of Table 4-13. -/
inductive DownCause | signal | pcsLock | localFault | remoteFault | portEn | holdoff | isolation
  deriving DecidableEq, Repr

def DownCause.code : DownCause → Nat
  | .signal => 0 | .pcsLock => 1 | .localFault => 2 | .remoteFault => 3 | .portEn => 4 | .holdoff => 5
  | .isolation => 6

/-- Too many downs within 10 s hold the port down for HOLDOFF, with its transmitter at electrical idle (R105); the record
is limited as R124 says. -/
def Dev.flapCheck (d : Dev) (p : Nat) : Dev :=
  let m := d.macSt p
  let lim := d.f1 .MAC_FLAP_CTRL_LIMIT p
  if lim ≠ 0 ∧ lim ≤ m.downs.length ∧ m.holdoffEnd.isNone then
    let hold := d.f1 .MAC_FLAP_CTRL_HOLDOFF p
    let d1 := d.setMac p { m with
      holdoffEnd := some (d.now + hold * tSec), disabledOnce := false
      drive := if m.drive = .lossOfSignal then m.drive else .electricalIdle }
    ((d1.dropAn p).set1 .MAC_STATUS_FLAP_ISOLATED p 1).recordLimited .LINK_FLAP_ISOLATED p tSec 1 p
      (payloadOf [(1, p), (1, m.downs.length), (2, hold)])
  else d

/-- The link of a port goes down with `hold` milliseconds of LINK_FLAP_HOLD: its queues, its pause state, its
low-power idle, its adjacency and its turns follow in the same cycle. -/
def Dev.linkDown (d : Dev) (p : Nat) (cause : DownCause) (hold : Nat) : Dev :=
  if d.linkUp p then
    let d1 := (d.set1 .MAC_STATUS_LINK_UP p 0).macCount .MAC_LINK_DOWN p
    let d2 := (d1.set1 .MAC_STATUS_PAUSED p 0).set1 .MAC_STATUS_TX_LPI p 0
    let m := d2.macSt p
    let d3 := d2.setMac p { m with
      pauseEnd := [], pausePend := [], pausedSince := [], wakeAt := none,
      downs := d2.now :: m.downs.filter (fun t => d2.now < t + 10 * tSec) }
    let d4 := (if d3.winter then d3 else d3.portDown p hold true).adjDown p 0
    let d4 := (d4.setAdj p { d4.adjSt p with helloAt := none })
    let d4 := { d4 with pair := { d4.pair with links := Map.erase d4.pair.links p } }
    let d5 := (d4.abandonPortTurn p 0).record .LINK_DOWN 1 p (payloadOf [(1, p), (1, cause.code)])
    (d5.raise p).flapCheck p
  else d

end Sys2Proof.Machine
end

