-- ==== Sys2Proof/Machine/HealthOps.lean ====
section
/-! DEFINITION. The health state machine (spec/15): entering AUTUMN, the WINTER sequence, the isolation of a port, of
a region and of the hold store, and the start of a full reset. -/

namespace Sys2Proof.Machine

/-! ### Changes of health state -/

/-- The word HLT_AUTUMN_CAUSE. -/
def Dev.autumnWord (d : Dev) : Nat :=
  d.f0 .HLT_AUTUMN_CAUSE_SPARE + 2 * d.f0 .HLT_AUTUMN_CAUSE_REGION + 4 * d.f0 .HLT_AUTUMN_CAUSE_UNIT +
  8 * d.f0 .HLT_AUTUMN_CAUSE_HOLD + 16 * d.f0 .HLT_AUTUMN_CAUSE_MONITOR + 32 * d.f0 .HLT_AUTUMN_CAUSE_AVS +
  64 * d.f0 .HLT_AUTUMN_CAUSE_WEAR + 128 * d.f0 .HLT_AUTUMN_CAUSE_TIME_BUS +
  256 * d.f0 .HLT_AUTUMN_CAUSE_LEASE_PIN + 512 * d.f0 .HLT_AUTUMN_CAUSE_PAIR_FAULT +
  1024 * d.f0 .HLT_AUTUMN_CAUSE_FUSE

/-- The word HLT_CAUSE. -/
def Dev.causeWord (d : Dev) : Nat :=
  d.f0 .HLT_CAUSE_CORE_FATAL + 2 * d.f0 .HLT_CAUSE_MGMT_FATAL + 4 * d.f0 .HLT_CAUSE_ROOT_CLOCK +
  8 * d.f0 .HLT_CAUSE_THERMAL + 16 * d.f0 .HLT_CAUSE_VOLTAGE + 32 * d.f0 .HLT_CAUSE_WATCHDOG +
  64 * d.f0 .HLT_CAUSE_D2D_LINK + 128 * d.f0 .HLT_CAUSE_INTERLOCK + 256 * d.f0 .HLT_CAUSE_HOST_REQUEST +
  512 * d.f0 .HLT_CAUSE_SMBUS_REQUEST + 1024 * d.f0 .HLT_CAUSE_MON_LOST + 2048 * d.f0 .HLT_CAUSE_CONFIG

/-- A new health state: PREV and the operating seconds follow, F2H doorbell 0 rings and a HEALTH_NOTICE is queued
(Table 15-7, Table 18-3, Table 18-7); `code` is the causing event. -/
def Dev.setHealth (d : Dev) (st code : Nat) : Dev :=
  let d1 := ((d.set0 .HLT_STATE_PREV d.health).set0 .HLT_STATE_STATE st).set0 .HLT_STATE_SECS (d.opMs / 1000)
  ((d1.doorbell 0).notice 0x050 [16 * d.health + st, d1.causeWord, d1.autumnWord, code]).raise 321

/-- The device enters AUTUMN from SUMMER or at the end of SPRING (R88, R397). -/
def Dev.enterAutumn (d : Dev) (code : Nat) : Dev :=
  let d1 := ({ d with pins := { d.pins with replaceN := true }, fab := { d.fab with originateDue := true } }).setHealth
    2 code
  (d1.record .AUTUMN_ENTERED 0 0 (payloadOf [(2, d1.autumnWord), (2, code)])).floodNotice code

/-- An AUTUMN cause (R397, R401): its bit, and by the state: from SUMMER the device enters AUTUMN; in WINTER
REPLACE_N is asserted and the state stays; in SPRING REPLACE_N shows a consumed spare (Table 3-4). -/
def Dev.autumn (d : Dev) (f : Field) (code : EvCode) : Dev :=
  let d1 := { (d.set0 f 1) with hlt := { d.hlt with lastCode := code.code } }
  if d.health = 1 then d1.enterAutumn code.code
  else if d.health = 3 ∨ (d.health = 0 ∧ d.boot.committed ∧ f = .HLT_AUTUMN_CAUSE_SPARE)
  then { d1 with pins := { d1.pins with replaceN := true } }
  else d1

/-- A die identifier has an open fault (HLT_SUM_DIE): a new bit raises its source (Table 16-7). -/
def Dev.dieFault (d : Dev) (die : Nat) : Dev :=
  if bitOf (d.f0 .HLT_SUM_DIE_DIES) die then d
  else (d.setBit .HLT_SUM_DIE_DIES 0 die true).raise (292 + die)

/-! ### The lease and the pulses in WINTER -/

/-- The lease timer stops and LEASE_OUT, LEASE_OUT_B fall with it; an ACTIVE member becomes STANDBY (R370, R372). -/
def Dev.leaseStop (d : Dev) : Dev :=
  let d1 := { d with pair := { d.pair with lease := none }, pins := { d.pins with leaseOut := false } }
  let d2 := d1.set0 .PAIR_STATUS_LEASE_OUT 0
  if d2.f0 .PAIR_STATUS_ROLE = 4 then (d2.set0 .PAIR_STATUS_ROLE 2).doorbell 5 else d2

/-- PULSE_OUT[3:0] are driven low (R344, R400). -/
def Dev.pulsesLow (d : Dev) : Dev :=
  { d with tim := { d.tim with pulses := Map.mapV .reset (fun _ x => { x with high := false }) d.tim.pulses } }

/-! ### Image trial (R65) -/

/-- The state of a slot changes (IMG_SLOT_STATE shows 4 bits per slot); the older copy of its record is written (R62). -/
def Dev.slotState (d : Dev) (s st : Nat) : Dev :=
  let x := match Map.get none d.img.slots s with
    | some sl => some { sl with state := st }
    | none => if st = 0 then none else some ⟨[], st, st, false⟩
  let a := Map.get SlotCopy.reset d.img.recA s
  let b := Map.get SlotCopy.reset d.img.recB s
  let c : SlotCopy := ⟨max a.seq b.seq + 1, st, (x.map (·.back)).getD 0, (x.map (·.image.length)).getD 0⟩
  let toB := decide (b.seq < a.seq)
  let d1 := { d with img := { d.img with
    slots := Map.set none d.img.slots s x
    recA := if toB then d.img.recA else Map.set .reset d.img.recA s c
    recB := if toB then Map.set .reset d.img.recB s c else d.img.recB } }
  let w := d1.f0 .IMG_SLOT_STATE_STATES
  d1.set0 .IMG_SLOT_STATE_STATES (w - bitsOf w (4 * s) 4 * 2 ^ (4 * s) + st * 2 ^ (4 * s))

/-- `k` frames of a region are discards of the reload in progress (R68, REGION_RELOAD_DONE). -/
def Dev.reloadDiscard (d : Dev) (n k : Nat) : Dev :=
  ({ d with img := { d.img with reload := d.img.reload.map (fun (r : Reload) => { r with gone := r.gone + k }) } }).satInc
    .IMG_RELOAD_DISCARD n 0 k

/-- LOS_MASK of the SAFE profile for a front port. -/
def Dev.losMask (d : Dev) (p : Nat) : Bool := bitOf (leNat (slice (d.section 12 4) 0 16)) p

/-! ### Retraining of a memory die (R148 to R150) -/

/-- The retraining of a die ends: it serves again, and the pages deferred meanwhile await their rebuild. -/
def Dev.endRetrain (d : Dev) : Dev :=
  match d.hld.retrain with
  | none => d
  | some (die, _) =>
    let d1 := { d with hld := { d.hld with
      retrain := none, rebuild := if d.hld.deferral.isEmpty then d.hld.rebuild else some die } }
    (d1.set1 .HLD_DIE_STATUS_STATE die (if die ∈ d1.hld.failedDies then 2 else 0)).set0 .HLD_RETRAIN_STATUS_ACTIVE 0

/-- A retraining is abandoned and its previous trims are restored: HOLD_RETRAIN_ABORTED names the die and the reason, 0
time, 1 deferral list, 2 third-die error, 3 power fail (Table 5-16). -/
def Dev.abortRetrain (d : Dev) (reason : Nat) : Dev :=
  match d.hld.retrain with
  | none => d
  | some (die, _) => d.endRetrain.record .HOLD_RETRAIN_ABORTED 7 die (payloadOf [(1, die), (1, reason)])

/-! ### Full reset -/

/-- The transmitters of R400 steps 1 and 2, as every lane die carries them out on the safe-state line (R21): a frame in
flight ends with an inverted FCS and its descriptor stays at the head of its queue (R280), then idle, or loss of signal
where LOS_MASK selects it. -/
def Dev.safeTx (d : Dev) : Dev :=
  (List.range 128).foldl (fun d p =>
    let c := d.cutFrame p
    let d1 := match c.2 with
      | some f => c.1.putBack p f.queue f.desc
      | none => c.1
    let m := d1.macSt p
    let drive := if d1.losMask p ∧ m.drive ≠ .electricalIdle then .lossOfSignal else m.drive
    d1.setMac p { m with own := [], drive := drive }) d

/-- Steps 1 to 6 of the WINTER sequence (R400), which a full reset carries out too (R76): transmitters, pulses, pins with
both copies of the safe-state line, lease, and the frozen queues and hold store; ingress is discarded from now on. -/
def Dev.quiesce (d : Dev) : Dev :=
  let d2 := (d.safeTx.pulsesLow.leaseStop).set0 .BUF_STATUS_FROZEN 1 |>.set0 .HLD_STATUS_FROZEN 1
  { d2 with buf := { d2.buf with frozen := true }, hld := { d2.hld with frozen := true },
            pins := { d2.pins with safeN := true, alertN := true, safeLineA := true, safeLineB := true } }

/-- A full reset begins: steps 1 to 6 of the WINTER sequence, then the flush (R76, R77). -/
def Dev.beginReset (d : Dev) (cause : Nat) : Dev :=
  if d.boot.inReset ∨ d.boot.resetCause.isSome then d
  else
    let d1 := (d.abortRetrain 3).quiesce
    { d1 with boot := { d1.boot with
        resetCause := some cause
        winterBefore := d.winter
        flushAt := (match d1.boot.flushAt with | none => some d1.now | x => x) } }

/-- A trial in progress fails: the slot becomes BAD, and TRIAL_RESET performs a full reset (R65). -/
def Dev.trialFailed (d : Dev) : Dev :=
  match d.img.trial with
  | none => d
  | some (slot, _) =>
    let d1 := { d with img := { d.img with trial := none } }
    let d2 := (d1.slotState slot 5).record .IMAGE_TRIAL_FAILED 0 0 (payloadOf [(1, d1.health)])
    if bitOf (leAt d2.img.image 6 2) 1 then d2.beginReset 4 else d2

/-! ### WINTER (R399 to R401) -/

/-- The result of a loader command: BUSY clears, REASON and SECTION show it (Table 2-10), and F2H doorbell 7 rings. -/
def Dev.imgEnd (d : Dev) (reason sec : Nat) : Dev :=
  ((((d.set0 .IMG_STATUS_BUSY 0).set0 .IMG_STATUS_DONE_OK (b2n (decide (reason = 0)))).set0 .IMG_STATUS_REASON
    reason).set0 .IMG_STATUS_SECTION sec).doorbell 7

/-- A reload or an amendment that has not switched is abandoned on WINTER; regions that it had stopped take their previous
sections back (R72). -/
def Dev.abandonImage (d : Dev) : Dev :=
  if d.img.reload.isNone ∧ d.img.amend.isNone then d
  else
    let secs := match d.img.reload with
      | some r => if r.stopped then r.sections else d.img.sections
      | none => d.img.sections
    ({ d with img := { d.img with sections := secs, reload := none, amend := none } }).imgEnd 16 0

/-- A cause bit of HLT_CAUSE is set; the first one of a stay in WINTER starts the sequence of R400, a later one
records WINTER_CAUSE_ADDED (R401).  `code` is the causing event, 0 where the cause has none of its own. -/
def Dev.winterCause (d : Dev) (f : Field) (code : Nat) : Dev :=
  let fatal : Bool := decide (f = .HLT_CAUSE_CORE_FATAL ∨ f = .HLT_CAUSE_MGMT_FATAL ∨ f = .HLT_CAUSE_D2D_LINK)
  let d0 := d.set0 f 1
  if d.winter then
    let d1 := d0.record .WINTER_CAUSE_ADDED 0 0 (payloadOf [(1, f.lo)])
    if fatal then { d1 with pins := { d1.pins with replaceN := true } } else d1
  else
    let d2 := (d0.setHealth 3 code).quiesce
    let d3 := { d2 with
      pins := { d2.pins with replaceN := d2.pins.replaceN || fatal }
      hlt := { d2.hlt with detect := some d2.now, winterSecs := d2.opMs / 1000 } }
    let d4 := (List.range 32).foldl (fun d c => d.abandonTurn c 8) (d3.set0 .MON_STATUS_ALERT 1)
    d4.abandonImage.trialFailed

/-! ### The hold store out of service (R31, R316) -/

/-- A capture record is lost: ACT_CAP_LOST, and CAPTURE_LOST at most once per second. -/
def Dev.loseCapture (d : Dev) : Dev :=
  (d.count .ACT_CAP_LOST 0).recordCounted .CAPTURE_LOST 0 tSec 0 0 (fun n => [(4, n), (1, d.f0 .ACT_CAP_CTRL_TARGET)])

/-- Frames that wait in port 133's queues are lost with the store and counted; in WINTER the queues stand still (R31,
R280). -/
def Dev.loseHoldQueues (d : Dev) : Dev :=
  if d.buf.frozen then d
  else (List.range 8).foldl (fun d t =>
    let l := d.queue 133 t
    l.foldl (fun d de => d.release de.chain 133) ((d.setQueue 133 t []).countN .HLD_T_LOST t l.length)) d

/-- Records staged for the hold-store target are lost (R245). -/
def Dev.loseCaptures (d : Dev) : Dev :=
  if d.f0 .ACT_CAP_CTRL_TARGET = 0
  then d.act.capFifo.foldl (fun d _ => d.loseCapture) { d with act := { d.act with capFifo := [] } } else d

/-- The hold store leaves service: held frames and those on their way are counted in LOST, every queue returns to DIRECT,
a retraining ends, staged records are lost, the recorder has no store (R150, R245, R498).  `die` is the identifier of the
die whose failure caused it (R13). -/
def Dev.holdOutOfService (d : Dev) (die : Option Nat) : Dev :=
  if d.hld.outOfService then d
  else
    let lost := d.endRetrain.hld.queues.foldl (fun (d : Dev) x =>
      d.countN .HLD_T_LOST (x.1 % 8) (x.2.frames.length + x.2.chain.length)) d.endRetrain
    let d1 := { lost with hld := { lost.hld with queues := [], outOfService := true, formatting := none } }
    let d1 := { d1 with evr := { d1.evr with
      flushTo := none, flushAgain := d1.evr.flushAgain || d1.evr.flushTo.isSome } }.set0 .EVR_STATUS_FLUSHING 0
    let d2 := ((d1.loseHoldQueues.loseCaptures.set0 .HLD_STATUS_OUT_OF_SERVICE 1).set0 .EVR_STATUS_NO_STORE 1).record
      .HOLD_OUT_OF_SERVICE 5 (die.getD 0)
      (payloadOf [(1, d1.hld.failedDies.length), (1, d1.hld.failedBases.length)])
    (d2.raise 319).autumn .HLT_AUTUMN_CAUSE_HOLD .HOLD_OUT_OF_SERVICE

/-! ### Isolation (R27, R106) -/

/-- A MAC, PCS or FEC unit is isolated: loss of signal, its queues as a link down with no LINK_FLAP_HOLD, AUTUMN
(R106). -/
def Dev.isolatePort (d : Dev) (p : Nat) : Dev :=
  if d.b1 .MAC_PORT_INFO_ISOLATED p then d
  else
    let d1 := d.set1 .MAC_PORT_INFO_ISOLATED p 1
    let m := d1.macSt p
    let d2 := d1.setMac p { m with drive := .lossOfSignal }
    let d3 := if d2.linkUp p then d2.linkDown p .isolation 0
      else if d2.winter then d2 else d2.portDown p 0 false
    let d4 := (d3.setBit .HLT_SUM_UNIT_REGION_UNIT 0 (p / 32) true).record .MAC_UNIT_ISOLATED 0 0 (payloadOf [])
    (d4.raise p).autumn .HLT_AUTUMN_CAUSE_UNIT .MAC_UNIT_ISOLATED

/-- A recirculation port leaves service: what waits in its queues and the frame leaving it are dropped and counted (R27). -/
def Dev.dropRecirc (d : Dev) (n : Nat) : Dev :=
  let q := 128 + n
  let d1 := (List.range 8).foldl (fun d t => d.flushQueue q t) d
  match d1.inflight q with
  | none => d1
  | some f => (((d1.setInflight q none).count .QUE_FLUSHED (q * 10 + f.queue))).release f.desc.chain q

/-- A region is isolated in the order of R27: its pipeline is discarded and counted, its 32 lanes go to loss of signal and
frames in flight are cut, its ports are links down with no LINK_FLAP_HOLD, its recirculation port leaves service,
REGION_ISOLATED is recorded and AUTUMN follows.  In WINTER the port steps are abandoned (R33). -/
def Dev.isolateRegion (d : Dev) (n : Nat) (cause : Nat) : Dev :=
  if d.regionIsolated n then d
  else
    let mine := d.buf.rx.filter (fun x => x.2.any (fun r => decide (r.region = n)))
    let d0 := { d with search := { d.search with inspect := Map.set [] d.search.inspect n [] } }
    let d1 := mine.foldl (fun d x => d.setRx x.1 none) d0
    let d2 := (d1.satInc .HLT_REGION_DISCARD n 0 mine.length).setBit .HLT_SUM_REGION_ISOLATED 0 n true
    let ports := (List.range 32).map (fun i => 32 * n + i)
    let d3 := ports.foldl (fun d p =>
      let d1 := d.setMac p { d.macSt p with drive := .lossOfSignal }
      if !d.portUsed p then d1
      else if d1.linkUp p then d1.linkDown p .isolation 0
      else if d1.winter then d1 else d1.portDown p 0 false) d2
    let d4 := (List.range 8).foldl (fun d i =>
      let c := 8 * n + i
      (d.abandonTurn c 9).set1 .SHADOW_STATUS_PHASE c 4) d3
    let d5 := if d4.winter then d4 else d4.dropRecirc n
    let d6 := d5.record .REGION_ISOLATED 0 0 (payloadOf [(2, cause), (4, mine.length)])
    (d6.raise (288 + n)).autumn .HLT_AUTUMN_CAUSE_REGION .REGION_ISOLATED

end Sys2Proof.Machine
end

