-- ==== Sys2Proof/Machine/RegOps.lean ====
section
/-! DEFINITION. The checks every register access passes before it has any effect (R442, R453, R454, R83), with the
address of each register (R456). -/

namespace Sys2Proof.Machine

/-- The offset of a register instance in PF0 BAR0. -/
def Reg.addr (r : Reg) (i j : Nat) : Nat := r.desc.base + i * r.desc.s1 + j * r.desc.s2

/-- The instance of a register at an offset, if it stands there. -/
def Reg.instanceAt (r : Reg) (off : Nat) : Option (Nat × Nat) :=
  let x := r.desc
  if off < x.base then none
  else
    let o := off - x.base
    let try2 (i : Nat) : Option (Nat × Nat) :=
      if i < x.n1 ∧ i * x.s1 ≤ o ∧ (o - i * x.s1) % x.s2 = 0 ∧ (o - i * x.s1) / x.s2 < x.n2
      then some (i, (o - i * x.s1) / x.s2) else none
    if x.s1 ≤ x.s2 then
      (if (o % x.s2) % x.s1 = 0 ∧ (o % x.s2) / x.s1 < x.n1 ∧ o / x.s2 < x.n2
       then some ((o % x.s2) / x.s1, o / x.s2) else none)
    else try2 (o / x.s1)

/-- A block of the management die (R453). -/
def mgmtOffset (off : Nat) : Bool := decide (off < 0xA0000) || (decide (0xE0000 ≤ off) && decide (off < 0x100000))

/-- The lane die whose link an offset needs: MAC, LANE and SHADOW blocks (R453). -/
def laneDieOf (off : Nat) : Option Nat :=
  if 0x800000 ≤ off ∧ off < 0x900000 then some ((off - 0x800000) / 0x2000 / 32)
  else if 0x900000 ≤ off ∧ off < 0x940000 then some ((off - 0x900000) / 0x800 / 32)
  else if 0x940000 ≤ off ∧ off < 0x950000 then some ((off - 0x940000) / 0x800 / 8)
  else none

/-- A host load of firmware still reads the host's buffer (R96). -/
def Dev.fwReading (d : Dev) : Bool := d.b0 .CLK_BOOT_FW_CMD_BUSY && !d.boot.fwReadAt.any (fun t => decide (t ≤ d.now))

/-- A link has FAILED (R20). -/
def Dev.linkFailed (d : Dev) (k : Nat) : Bool := decide (d.f1 .HLT_D2D_STATUS_STATE k = 3)

/-- The register at an offset is unreachable (R453). -/
def Dev.unreachable (d : Dev) (off : Nat) : Bool :=
  ((d.b0 .CLK_STATUS_ROOT_LOST || d.linkFailed 4) && !mgmtOffset off) ||
  (laneDieOf off).any (fun n => d.linkFailed n)

/-- The register belongs to an isolated unit or region; the indirect window is the exception (R454). -/
def Dev.isolatedAt (d : Dev) (off : Nat) : Bool :=
  if 0x100000 ≤ off ∧ off < 0x500000 then
    d.regionIsolated ((off - 0x100000) / 0x100000) && !decide (0xE000 ≤ off % 0x100000 ∧ off % 0x100000 < 0x10000)
  else if 0x510000 ≤ off ∧ off < 0x530000 then
    let q := (off - 0x510000) / 0x400
    if q < 128 then d.portIsolated q else if q < 132 then d.regionIsolated (q - 128) else false
  else if 0x800000 ≤ off ∧ off < 0x900000 then d.portIsolated ((off - 0x800000) / 0x2000)
  else if 0x900000 ≤ off ∧ off < 0x940000 then d.regionIsolated ((off - 0x900000) / 0x800 / 32)
  else if 0x940000 ≤ off ∧ off < 0x950000 then d.regionIsolated ((off - 0x940000) / 0x800 / 8)
  else false

/-- No register answers without power or while the internal reset holds; before the firmware runs PF0 answers only for GLB
and the registers of Table 3-7 (R83). -/
def Dev.preBootAbort (d : Dev) (m off : Nat) : Bool :=
  !d.boot.powered || d.boot.inReset || !d.boot.fwRuns && decide (m = 4) &&
  !(decide (off < 0x10000) || (decide (0x20100 ≤ off) && decide (off < 0x20124)) ||
    (decide (0x20130 ≤ off) && decide (off < 0x20140)))

/-- The bus completes an access. -/
def Dev.complete (d : Dev) (c : Completion) : Dev := { d with reg := { d.reg with last := c } }

/-- A failed access: Completer Abort; a function's posted write is logged in its AER status (R442). -/
def Dev.abortAccess (d : Dev) (m : Nat) (k : AccessKind) (off : Nat) (isWrite : Bool) : Dev :=
  let d1 := (d.accessFailed m k off).complete .abort
  if isWrite ∧ 4 ≤ m ∧ m ≤ 7 then { d1 with reg := { d1.reg with aerAbort :=
    if m - 4 ∈ d1.reg.aerAbort then d1.reg.aerAbort else (m - 4) :: d1.reg.aerAbort } } else d1

/-- An ignored access: it completes without effect and is recorded (R442). -/
def Dev.ignoreAccess (d : Dev) (m : Nat) (k : AccessKind) (off : Nat) : Dev :=
  (d.accessFailed m k off).complete (.ok 0)

/-- A write that reaches a register at an offset: refused for PF3, before boot, unreachable or isolated, else `f`. -/
def Dev.gateWrite (d : Dev) (m off : Nat) (f : Dev → Dev) : Dev :=
  if m = 7 then d.abortAccess m .pf3Write off true
  else if d.preBootAbort m off then d.complete .abort
  else if d.unreachable off then d.abortAccess m .unreachable off true
  else if d.isolatedAt off then d.ignoreAccess m .isolated off
  else (f d).complete (.ok 0)

/-- A read that reaches a register: `f` answers the data and the device after its side effects. -/
def Dev.gateRead (d : Dev) (m off : Nat) (f : Dev → Nat × Dev) : Dev :=
  if d.preBootAbort m off then d.complete .abort
  else if d.unreachable off then d.abortAccess m .unreachable off false
  else
    let r := f d
    r.2.complete (.ok r.1)

/-- A read of an RP register: through PF3 it pops nothing and fails (R425, R450). -/
def Dev.onPop (d : Dev) (m : Nat) (r : Reg) (i : Nat) (f : Dev → Nat × Dev) : Dev :=
  if m = 7 then d.abortAccess m .pf3RpRead (r.addr i 0) false else d.gateRead m (r.addr i 0) f

/-- A companion register is latched for a master, and read from its latch (R122, R450). -/
def Dev.latch (d : Dev) (m : Nat) (r : Reg) (i j v : Nat) : Dev :=
  { d with reg := { d.reg with latch := Map.set 0 d.reg.latch (k2 m (r.addr i j)) (v % 2 ^ 32) } }
def Dev.latched (d : Dev) (m : Nat) (r : Reg) (i j : Nat) : Nat := Map.get 0 d.reg.latch (k2 m (r.addr i j))

/-- A write to a named register instance. -/
def Dev.onWrite (d : Dev) (m : Nat) (r : Reg) (i j : Nat) (f : Dev → Dev) : Dev := d.gateWrite m (r.addr i j) f

/-- Masters privileged for PW fields (R449). -/
def pwMaster (m : Nat) : Bool := decide (m ≤ 4) || decide (m = 8)

/-- A write of a PW field (R449): ignored from an unprivileged master, COLLISION while BUSY, else `f` runs. -/
def Dev.pwWrite (d : Dev) (m off : Nat) (busy collision : Field) (f : Dev → Dev) : Dev :=
  if !pwMaster m then d.accessFailed m .pwMaster off
  else if d.b0 busy then d.set0 collision 1
  else f d

end Sys2Proof.Machine
end

