-- ==== Sys2Proof/Machine/CalOps.lean ====
section
/-! DEFINITION. Calibrated quantities (R143, R415): factory value plus user delta, clamped to the effective range. -/

namespace Sys2Proof.Machine

/-- A clamping is reported: CLAMPED, LAST_OFFSET, and CAL_CLAMPED at most once per second (R415). -/
def Dev.noteClamp (d : Dev) (off : Nat) : Dev :=
  ((d.set0 .CAL_STATUS_CLAMPED 1).set0 .CAL_STATUS_LAST_OFFSET off).recordCounted .CAL_CLAMPED 0 tSec 0 0
    (fun n => [(4, off), (4, n)])

/-- The value nearest to `v` in a range. -/
def clampInt (lo hi v : Int) : Int := if v < lo then lo else if hi < v then hi else v

/-- The effective range of the quantity at a CAL offset (Table 15-6), for a factory value. -/
def calRange (off : Nat) (fac : Int) : Int × Int :=
  if off < 0x400 then (if off / 4 % 2 = 0 then (fac - 320, fac + 320) else (58983, 72089))
  else if off < 0x500 then (62260, 68812)
  else if off < 0x800 then (0, 1280)
  else if off < 0x3000 then (fac - 640, fac + 640)
  else (0, 63)

/-- The effective value of a quantity other than a transmit preset: factory plus delta, clamped (R415). -/
def calEffective (off : Nat) (delta : Int) : Int :=
  let fac := Config.calFactory off
  let r := calRange off fac
  clampInt r.1 r.2 (fac + delta)

/-- Whether a delta is clamped. -/
def calClamped (off : Nat) (delta : Int) : Bool := decide (calEffective off delta ≠ Config.calFactory off + delta)

/-! ### Transmit presets (R143) -/

/-- The five taps of a transmitter, in 1/64 of the swing (Table 5-6). -/
structure Taps where
  pre3 : Int
  pre2 : Int
  pre1 : Int
  main : Int
  post1 : Int
  deriving DecidableEq, Repr

/-- A tap moved towards 0 by at most `e`. -/
def shrink (x : Int) (e : Nat) : Int :=
  if 0 ≤ x then x - min x e else x + min (-x) e

def Taps.sum (t : Taps) : Nat :=
  t.pre3.natAbs + t.pre2.natAbs + t.pre1.natAbs + t.main.natAbs + t.post1.natAbs

/-- Each tap cut to its range; PRE3 and PRE2 are 0 on NRZ lanes. -/
def Taps.cut (t : Taps) (nrz : Bool) : Taps :=
  { pre3 := if nrz then 0 else clampInt (-4) 4 t.pre3
    pre2 := if nrz then 0 else clampInt (-8) 8 t.pre2
    pre1 := clampInt (-24) 0 t.pre1
    main := clampInt 24 63 t.main
    post1 := clampInt (-16) 0 t.post1 }

/-- The magnitudes brought to a sum of 63: MAIN first, not below 24, then PRE3, PRE2, POST1 and PRE1. -/
def Taps.fit (t : Taps) : Taps :=
  let t1 := { t with main := max 24 (t.main - (t.sum - 63 : Nat)) }
  let t2 := { t1 with pre3 := shrink t1.pre3 (t1.sum - 63) }
  let t3 := { t2 with pre2 := shrink t2.pre2 (t2.sum - 63) }
  let t4 := { t3 with post1 := shrink t3.post1 (t3.sum - 63) }
  if t.sum ≤ 63 then t else { t4 with pre1 := shrink t4.pre1 (t4.sum - 63) }

/-- The factory preset of a lane (LANE_TX_FACTORY, Table 5-10). -/
def factoryTaps (l : Nat) : Taps :=
  let w := (Config.laneTxFactory l).toNat
  ⟨signed 6 (bitsOf w 24 6), signed 6 (bitsOf w 18 6), signed 6 (bitsOf w 12 6), bitsOf w 6 6, signed 6 (bitsOf w 0 6)⟩

/-- The sum of the factory preset and the user delta of a lane. -/
def Dev.wantedTaps (d : Dev) (l : Nat) : Taps :=
  let f := factoryTaps l
  ⟨f.pre3 + signed 6 (d.f1 .CAL_TX_DELTA_PRE3 l), f.pre2 + signed 6 (d.f1 .CAL_TX_DELTA_PRE2 l),
   f.pre1 + signed 6 (d.f1 .CAL_TX_DELTA_PRE1 l), f.main + signed 6 (d.f1 .CAL_TX_DELTA_MAIN l),
   f.post1 + signed 6 (d.f1 .CAL_TX_DELTA_POST1 l)⟩

/-- The coefficients in use stand in LANE_TX_EFF. -/
def Dev.setTaps (d : Dev) (l : Nat) (t : Taps) : Dev :=
  ((((d.set1 .LANE_TX_EFF_PRE3 l (unsigned 6 t.pre3)).set1 .LANE_TX_EFF_PRE2 l (unsigned 6 t.pre2)).set1
    .LANE_TX_EFF_PRE1 l (unsigned 6 t.pre1)).set1 .LANE_TX_EFF_MAIN l (unsigned 6 t.main)).set1
    .LANE_TX_EFF_POST1 l (unsigned 6 t.post1)

/-- A lane takes its effective preset, moved as link training asks within the same ranges; a clamping of the preset
itself is reported (R143). -/
def Dev.trainTx (d : Dev) (l : Nat) (nrz : Bool) (move : Taps) : Dev :=
  let w := d.wantedTaps l
  let e := (w.cut nrz).fit
  let m : Taps := ⟨e.pre3 + move.pre3, e.pre2 + move.pre2, e.pre1 + move.pre1, e.main + move.main, e.post1 + move.post1⟩
  let d1 := if e = w then d else d.noteClamp (0x800 + 4 * l)
  d1.setTaps l ((m.cut nrz).fit)

/-- The receiver of a lane has adapted: its equaliser settings are what the adaptation found (log 8). -/
def Dev.adaptRx (d : Dev) (l : Nat) : Dev :=
  let r := d.draw
  ((r.2.set1 .LANE_RX_EQ_CTLE l (r.1 / 65536)).set1 .LANE_RX_EQ_DFE1 l (r.1 / 256)).set1 .LANE_RX_EQ_DFE2 l r.1

/-! ### Calibration of lanes (R130) -/

/-- Temperature in 1/16 °C of a cluster: sensor k of its lane die, or the nearest sensor of the die that has not failed
(R130, R409). -/
def Dev.clusterTemp (d : Dev) (c : Nat) : Int :=
  let k := c % 8 / 2
  let near : List Nat := match k with
    | 0 => [0, 1, 2, 3] | 1 => [1, 0, 2, 3] | 2 => [2, 1, 3, 0] | _ => [3, 2, 1, 0]
  let i := 32 + 4 * (c / 8) + ((near.find? (fun j => 32 + 4 * (c / 8) + j ∉ d.hlt.failed)).getD k)
  signed 16 (d.f1 .MON_TEMP i)

/-- A lane has a calibration now: LANE_CAL_TEMP takes the cluster temperature and LANE_CAL_AGE restarts (R130). -/
def Dev.calibrated (d : Dev) (l : Nat) : Dev :=
  let t := d.turn (l / 4)
  (d.setTurn (l / 4) { t with calAt := Map.set 0 t.calAt (l % 4) d.now }).set1 .LANE_CAL_TEMP l
    (unsigned 16 (d.clusterTemp (l / 4)))

/-! ### Time-stamp latency (R135 to R137, R332, R415) -/

/-- The physical lanes of a port. -/
def Dev.portLanes (d : Dev) (p : Nat) : List Nat :=
  ((List.range 4).map (fun i => 4 * (p / 4) + i)).filter (fun l => d.lanePort l == p)

/-- The factory latency of a slice on a lane in the mode of its port, from the pins to the capture point, in 1/64 ns. -/
def Dev.factoryLatency (d : Dev) (slice l : Nat) : Int := Config.sliceLatency (d.portMode (d.lanePort l)) slice l

/-- The latency of a lane: the factory value of the slice that serves it, and that slice's adaptive part.  The value is
absolute, not a running sum (R135). -/
def Dev.laneLatency (d : Dev) (l : Nat) : Int :=
  d.factoryLatency (d.f1 .LANE_STATUS_SLICE l) l + Map.get 0 (d.turn (l / 4)).adapt (l % 4)

/-- LANE_LAT_OFFSET: against the factory latency of the home slice. -/
def Dev.latOffset (d : Dev) (l : Nat) : Int := d.laneLatency l - d.factoryLatency (l % 4) l

/-- How late a lane's stream reaches the deskew. -/
def Dev.laneArrival (d : Dev) (l : Nat) : Int := Map.get 0 (d.turn (l / 4)).arrive (l % 4) + d.laneLatency l

/-- The latency of a port: that of its lane, or of its latest-arriving lane plus the deskew (R137). -/
def Dev.portLatency (d : Dev) (p : Nat) : Int :=
  match d.portLanes p with
  | [] => 0
  | [l] => d.laneLatency l
  | l :: ls => d.laneLatency (ls.foldl (fun b x => if d.laneArrival b < d.laneArrival x then x else b) l) + (d.macSt p).deskew

/-- The capture of the instant `t`, in 1/64 ns of the FRC, rounded down to a sub-tick (log 78). -/
def Dev.captureAt (d : Dev) (p : Nat) (t : Int) : Capture :=
  let q := ((t / 20) % 2 ^ 67).toNat
  ⟨q / 8, q % 8, d.epochAt (q / 8), d.stamps (p / 32)⟩

/-- The CAL offset of a port's time-stamp latency in its mode (Table 15-6). -/
def Dev.tsOffset (d : Dev) (p : Nat) (tx : Bool) : Nat := 0x1000 + 0x40 * p + 8 * (d.portMode p - 1) + 4 * b2n tx

/-- The receive capture of a port: the SFD reaches the capture point now, in sub-tick `sub`, and is corrected to the instant
at which it crossed the pins (R135 to R137, R325, R331); on a faulted or stopped time base it is invalid. -/
def Dev.rxCapture (d : Dev) (p sub : Nat) : Capture :=
  let off := d.tsOffset p false
  let user := calEffective off (signed 16 (d.fld .CAL_TS_RX p (d.portMode p - 1))) - Config.calFactory off
  d.captureAt p (20 * (8 * d.tim.frc + sub : Nat) - d.portLatency p - user)

/-- The transmit capture of a frame whose transmission began at `start`: for the SFD at the pins (R325, R332). -/
def Dev.txCapture (d : Dev) (p start sub : Nat) : Capture :=
  let path := calEffective (d.tsOffset p true) (signed 16 (d.fld .CAL_TS_TX p (d.portMode p - 1)))
  d.captureAt p (20 * (8 * (d.tim.frc - (d.now - start)) + sub : Nat) + path)

/-- A link comes up on a lane: its slice adapts, which sets the adaptive part of its latency, and the lane's arrival against
the others is measured; both are as the hardware finds them (R135, R137). -/
def Dev.adaptLatency (d : Dev) (l : Nat) : Dev :=
  let a := d.draw
  let b := a.2.draw
  let t := b.2.turn (l / 4)
  b.2.setTurn (l / 4) { t with adapt := Map.set 0 t.adapt (l % 4) (a.1 : Int), arrive := Map.set 0 t.arrive (l % 4) (b.1 : Int) }

end Sys2Proof.Machine
end

