-- ==== Sys2Proof/Machine/PairOps.lean ====
section
/-! DEFINITION. The pair as the frame path sees it (spec/14): protected ports, pair links, digest windows and their
values, and the SYNC records of an active member. -/

namespace Sys2Proof.Machine

/-! ### Configuration (R367 to R369) -/

def Dev.paired (d : Dev) : Bool := !(d.section 10 4).isEmpty
def Dev.partnerAddr (d : Dev) : Nat := leAt (d.section 10 4) 0 1
/-- L in milliseconds. -/
def Dev.leasePeriod (d : Dev) : Nat := leAt (d.section 10 4) 2 2
def Dev.witnessCount (d : Dev) : Nat := leAt (d.section 10 4) 4 1
/-- The witness of a slot: a device's address, or 0xFF for the host. -/
def Dev.witness (d : Dev) (s : Nat) : Nat := leAt (d.section 10 4) (5 + s) 1
def Dev.digestMode (d : Dev) : Nat := leAt (d.section 10 4) 8 1
def Dev.sampleN (d : Dev) : Nat := leAt (d.section 10 4) 0xA 2

/-- A port whose forwarding the lease governs (R369). -/
def Dev.protectedPort (d : Dev) (p : Nat) : Bool :=
  d.paired && decide (p < 128) && d.portUsed p && decide (d.f1 .MAC_PORT_INFO_ROLE p = 0) &&
  !bitOf (d.f1 .PAIR_EXEMPT (p / 32)) (p % 32)

/-- ACTIVE of Table 14-2. -/
def Dev.isActive (d : Dev) : Bool := decide (d.f0 .PAIR_STATUS_ROLE = 4)

/-- A member that is not ACTIVE forwards nothing on a protected port (Table 14-2, R373). -/
def Dev.muted (d : Dev) (p : Nat) : Bool := d.protectedPort p && !d.isActive

/-! ### Pair links (R368, R391) -/

def Dev.pairLink (d : Dev) (p : Nat) : PairLink := Map.get ⟨0, none, 0, [], false, none⟩ d.pair.links p
def Dev.setPairLink (d : Dev) (p : Nat) (l : PairLink) : Dev :=
  { d with pair := { d.pair with links := Map.set ⟨0, none, 0, [], false, none⟩ d.pair.links p l } }

/-- The pair-role ports. -/
def Dev.pairPorts (d : Dev) : List Nat :=
  if d.paired then (List.range 128).filter (fun p => decide (d.f1 .MAC_PORT_INFO_ROLE p = 2) && d.portUsed p) else []

/-- The pair links that carry pair messages of version `v` or later. -/
def Dev.pairLinks (d : Dev) (v : Nat) : List Nat :=
  d.pairPorts.filter (fun p =>
    let l := d.pairLink p
    d.linkUp p && decide (l.version ≠ 0) && decide (v ≤ l.version) && l.isolatedUntil.isNone)

/-- The next SEQ of a kind. -/
def Dev.pairSeq (d : Dev) (kind : Nat) : Nat × Dev :=
  let q := Map.get 0 d.pair.seqTx kind
  (q, { d with pair := { d.pair with seqTx := Map.set 0 d.pair.seqTx kind ((q + 1) % 2 ^ 32) } })

/-- FLAGS of a pair message (Table 14-5). -/
def Dev.pairFlags (d : Dev) : Nat :=
  b2n d.isActive + 2 * b2n (decide (d.f0 .PAIR_STATUS_ROLE = 3)) + 4 * d.f0 .PAIR_STATUS_SYNCED + 16 * d.health

/-- The header fields of a pair message to `peer`: version, flags, sender, peer, epoch, sequence, L and G. -/
def Dev.pairHeader (d : Dev) (v peer epoch seq : Nat) : List Nat :=
  [v, d.pairFlags, d.fabAddr, peer, epoch, seq, d.leasePeriod, d.f0 .PAIR_TIMERS_GUARD]

/-- A pair message of `len` body bytes on one pair link.  A heartbeat gives the device's maximum version, as a hello does
(log 12). -/
def Dev.pairSendOn (d : Dev) (p kind epoch seq len : Nat) (body : List Nat) : Dev :=
  let v := if kind = 1 then 0x13 else (d.pairLink p).version
  d.sendMsg p 2 kind (72 + len) (d.pairHeader v d.partnerAddr epoch seq ++ body)

/-- A pair message to the partner on one pair link of version `v` or later. -/
def Dev.pairSend (d : Dev) (v kind epoch len : Nat) (body : List Nat) : Dev :=
  match d.pairLinks v with
  | [] => d
  | p :: _ =>
    let q := d.pairSeq kind
    q.2.pairSendOn p kind epoch q.1 len body

/-! ### SYNC records (R390) -/

/-- The active sends a layer-2 row that changed: TABLE 0, WRITE_ROW, the row and its entry. -/
def Dev.syncRow (d : Dev) (row : Nat) (entry : Bytes) : Dev :=
  if d.isActive ∧ !(d.pairLinks 0x11).isEmpty then
    (d.count .PAIR_SYNC_RECORDS 0).pairSend 0x11 10 d.pair.epoch 56 [0, 2, 0, 0, row, beNat entry]
  else d

/-! ### Windows (R385) -/

/-- The digest window, in milliseconds of the device's time, of a capture; an invalid capture takes the window of now. -/
def Dev.windowOf (d : Dev) (c : Capture) : Nat :=
  let e := (Map.get none d.tim.epochs (c.epoch % 16)).getD d.epochNow
  let t := if c.valid then ptpUnits e (c.frc * 8 + c.sub) else ptpUnits d.epochNow d.frc67
  (t / (65536 * 1000000)).toNat

/-- Nanoseconds from the start of the window to the capture. -/
def Dev.windowAt (d : Dev) (c : Capture) : Nat :=
  let e := (Map.get none d.tim.epochs (c.epoch % 16)).getD d.epochNow
  let t := if c.valid then ptpUnits e (c.frc * 8 + c.sub) else ptpUnits d.epochNow d.frc67
  (t % (65536 * 1000000) / 65536).toNat

/-- The window of now. -/
def Dev.windowNow (d : Dev) : Nat := (ptpUnits d.epochNow d.frc67 / (65536 * 1000000)).toNat

def Win.reset : Win := ⟨0, 0, false, none⟩
def Dev.win (d : Dev) (p w : Nat) : Win := Map.get .reset d.pair.wins (k2 p w)
def Dev.setWin (d : Dev) (p w : Nat) (x : Win) : Dev :=
  { d with pair := { d.pair with wins := Map.set .reset d.pair.wins (k2 p w) x } }

/-- Digests are computed: a mode is chosen, the heartbeat is heard and a link's version carries them. -/
def Dev.digesting (d : Dev) : Bool :=
  d.paired && d.b0 .PAIR_STATUS_HB_OK &&
  (decide (d.digestMode = 1) && !(d.pairLinks 0x11).isEmpty || decide (d.digestMode = 2) && !(d.pairLinks 0x12).isEmpty)

/-- A frame of a protected port was lost: its window is flagged INCOMPLETE (R386). -/
def Dev.noteIncomplete (d : Dev) (p w : Nat) : Dev :=
  if d.digesting ∧ d.protectedPort p then d.setWin p w { d.win p w with incomplete := true } else d

/-! ### Digest values (R384) -/

/-- One bit of the CRC-64, most significant bit first. -/
def crc64Bit (c : Nat) : Nat :=
  if 2 ^ 63 ≤ c then Nat.xor (c * 2 % 2 ^ 64) 0x42F0E1EBA9EA3693 else c * 2

def crc64Byte (c : Nat) (b : Byte) : Nat :=
  let c0 := Nat.xor c (b.toNat * 2 ^ 56)
  let c4 := crc64Bit (crc64Bit (crc64Bit (crc64Bit c0)))
  crc64Bit (crc64Bit (crc64Bit (crc64Bit c4)))

/-- The CRC-64, initial value 0, without reflection or inversion. -/
def crc64 (bs : Bytes) : Nat := bs.foldl crc64Byte 0

/-- The identity of a frame of `len` bytes whose bytes without its FCS are `bs`. -/
def frameIdentity (bs : Bytes) (len : Nat) : Nat :=
  Nat.xor ((bs.take (min (len - 4) 256)).foldl (crcByte 0x82F63B78) len) 0xFFFFFFFF

/-- The value of a frame with identity `i` and a decision record. -/
def frameValue (i : Nat) (record : Bytes) : Nat := crc64 (beBytes 4 i ++ record)

/-- A frame enters the digest of a window. -/
def Dev.addDigest (d : Dev) (p w i v : Nat) : Dev :=
  let x := d.win p w
  d.setWin p w { x with
    digest := (x.digest + v) % 2 ^ 64, frames := x.frames + 1
    opener := (match x.opener with | none => some i | o => o) }

/-- Frames in a region's band buffer. -/
def Dev.bandUsed (d : Dev) (n : Nat) : Nat :=
  d.pair.band.foldl (fun k x => if (Nat.unpair x.1).1 / 32 = n then k + x.2.length else k) 0

/-- The standby assigns a frame by its own time; one near a boundary waits in the band buffer, and one that finds it
full flags the windows on both sides (R385, R386). -/
def Dev.standbyDigest (d : Dev) (p w at_ i v : Nat) : Dev :=
  let g := d.f0 .PAIR_ALIGN_GUARD * 1000
  let edge := if at_ < g then some w else if 1000000 ≤ at_ + g then some (w + 1) else none
  match edge with
  | none => d.addDigest p w i v
  | some b =>
    if 16384 ≤ d.bandUsed (p / 32) then (d.noteIncomplete p (b - 1)).noteIncomplete p b
    else
      { d with pair := { d.pair with band := Map.update [] d.pair.band (k2 p b) (fun l => l ++ [(i, v)]) } }

/-- Whether the active samples this frame of port `p` (R385): every SAMPLE_N-th one, within PAIR_SAMPLE_RATE. -/
def Dev.takeSample (d : Dev) (p : Nat) : Bool × Dev :=
  let n := Map.get 0 d.pair.sampled p + 1
  let d1 := { d with pair := { d.pair with sampled := Map.set 0 d.pair.sampled p (n % max 1 d.sampleN) } }
  if n < d.sampleN then (false, d1)
  else
    let rate := d.f0 .PAIR_SAMPLE_RATE
    let t := takeTokens d1.pair.sampleBkt rate (rate * tSec) tSec d1.now
    (t.1, { d1 with pair := { d1.pair with sampleBkt := t.2 } })

/-- The logic check keeps the first 4,096 frames of its port's window (R387). -/
def Dev.keepFrame (d : Dev) (p w : Nat) (k : Kept) : Dev :=
  if d.pair.compare.any (fun x => x.1 == 3 && x.2.2 == p) ∧ d.pair.keepWin = some w ∧ d.pair.kept.length < 4096
  then { d with pair := { d.pair with kept := d.pair.kept ++ [k] } } else d

/-- A frame of a protected port, received as `bs` without its FCS and of length `len`, with its decision record and its
automata pattern, enters the digests (R384, R385). -/
def Dev.digestFrame (d : Dev) (p : Nat) (bs : Bytes) (len : Nat) (cap : Capture) (record : Bytes) (aut : Nat) : Dev :=
  if !d.digesting ∨ !d.protectedPort p then d
  else
    let i := frameIdentity bs len
    let v := frameValue i record
    let w := d.windowOf cap
    let first := bs.take (min (len - 4) 512)
    let k : Kept := ⟨i, len, aut, first, record⟩
    if d.digestMode = 1 then
      if d.isActive then (d.addDigest p w i v).keepFrame p w k
      else (d.standbyDigest p w (d.windowAt cap) i v).keepFrame p w k
    else if d.isActive then
      let s := d.takeSample p
      let n := (first.length + 3) / 4 * 4
      if s.1 then
        (((s.2.addDigest p w i v).keepFrame p w k).count .PAIR_SAMPLES 0).pairSend 0x12 9 d.pair.epoch (16 + n)
          [p, 0, len, w, aut, 0, beNat (slice first 0 n)]
      else s.2
    else d

/-! ### Leaving ACTIVE (R370, R373, R383) -/

/-- A member that stops being ACTIVE while it forwards discards what its protected ports hold. -/
def Dev.stopForwarding (d : Dev) : Dev :=
  let d1 := d.leaseStop
  (List.range 128).foldl (fun d p =>
    if d.protectedPort p then (List.range 10).foldl (fun d i => d.flushQueue p i) (d.returnMacq p) else d) d1

end Sys2Proof.Machine
end

