-- ==== Sys2Proof/Machine/Ptp.lean ====
section
/-! DEFINITION. Where a frame carries a PTP message (R331), and the EtherType after its VLAN tags. -/

namespace Sys2Proof.Machine

/-- The offset of the EtherType after at most two VLAN tags. -/
def typeOffset (bs : Bytes) : Nat :=
  let tag (o : Nat) : Bool := decide (beAt bs o 2 = 0x8100 ∨ beAt bs o 2 = 0x88A8)
  if tag 12 then (if tag 16 then 20 else 16) else 12

/-- The offset of the PTP message a frame carries, by its EtherType or by UDP port 319 or 320 (R331). -/
def ptpOffset (bs : Bytes) : Option Nat :=
  let o := typeOffset bs
  let dport (at_ : Nat) : Bool := decide (beAt bs (at_ + 2) 2 = 319 ∨ beAt bs (at_ + 2) 2 = 320)
  if bs.length < o + 4 then none
  else match beAt bs o 2 with
    | 0x88F7 => some (o + 2)
    | 0x0800 =>
      if beAt bs (o + 2) 1 = 0x45 ∧ beAt bs (o + 11) 1 = 17 ∧ dport (o + 22) then some (o + 30) else none
    | 0x86DD => if beAt bs (o + 8) 1 = 17 ∧ dport (o + 42) then some (o + 50) else none
    | _ => none

/-- messageType of the PTP message at an offset; 0 to 3 are event messages. -/
def ptpType (bs : Bytes) (o : Nat) : Nat := beAt bs o 1 % 16

/-- versionPTP of the message. -/
def ptpVersion (bs : Bytes) (o : Nat) : Nat := beAt bs (o + 1) 1 % 16

/-- The shortest message of each type (IEEE 1588). -/
def ptpMinLength : Nat → Nat
  | 0 => 44 | 1 => 44 | 2 => 54 | 3 => 54 | 8 => 44 | 9 => 54 | 10 => 54 | 11 => 64 | 12 => 44 | 13 => 48 | _ => 34

/-- messageLength lies inside the frame and is not below the type's minimum (Table 12-8). -/
def ptpLengthOk (bs : Bytes) (hasFcs : Bool) (o : Nat) : Bool :=
  let n := beAt bs (o + 2) 2
  decide (o + n + (if hasFcs then 4 else 0) ≤ bs.length) && decide (ptpMinLength (ptpType bs o) ≤ n)

end Sys2Proof.Machine
end

