-- ==== Sys2Proof/Machine/Mac.lean ====
section
/-! DEFINITION. Ports and MAC (spec/04): receive classification, PAUSE and PFC, link up and down, auto-negotiation,
low-power idle. -/

namespace Sys2Proof.Machine

/-! ### The PORTS record of a port (Table 2-5) -/

/-- FEC_ACTIVE of a port without auto-negotiation: the record's FEC, or what the mode requires (Table 4-1). -/
def Dev.fecDefault (d : Dev) (p : Nat) : Nat :=
  let mode := d.portMode p
  if mode = 0 then 0 else if mode ≤ 4 then 3
  else match d.portRec p 1 with
    | 1 => 0 | 2 => 1 | 3 => 2
    | _ => if mode = 5 then 2 else 0

/-- Ports that run PTP (Table 2-5); a TIME body without PTP_PORTS enables every edge port. -/
def Dev.ptpPort (d : Dev) (p : Nat) : Bool :=
  let b := d.section 11 4
  if b.isEmpty ∨ 128 ≤ p then false
  else if b.length ≤ 0x10 then decide (d.f1 .MAC_PORT_INFO_ROLE p = 0)
  else bitOf (leNat (slice b 0x10 16)) p

/-! ### Violations (R124) -/

/-- A violation of Table 4-2's rows 1 to 7: one record per port and second, with the counts by row since the last. -/
def Dev.frameViolation (d : Dev) (p row : Nat) : Dev :=
  let m := d.macSt p
  let v := Map.update 0 m.viol row (fun n => satAdd 16 n 1)
  let due := d.limitDue .MAC_FRAME_VIOLATION p tSec
  let counts := (List.range 7).map (fun r => (2, Map.get 0 v (r + 1)))
  (d.setMac p { m with viol := if due then [] else v }).recordLimited .MAC_FRAME_VIOLATION p tSec 1 p
    (payloadOf ((1, p) :: counts))

/-- A violation of R114: the reason is 0 an unknown opcode or destination, 1 a pause that does not match PAUSE_MODE. -/
def Dev.ctrlViolation (d : Dev) (p opcode reason : Nat) : Dev :=
  d.recordLimited .MAC_CTRL_VIOLATION p tSec 1 p (payloadOf [(1, p), (2, opcode), (1, reason)])

/-! ### PAUSE and PFC (R114 to R118) -/

/-- Ticks of `q` quanta at a port's rate: 512 bit times each (R115), rounded up. -/
def Dev.quantaTicks (d : Dev) (p q : Nat) : Nat :=
  let r := modeRate (d.portMode p)
  if r = 0 then 0 else (q * 204800 + r - 1) / r

/-- The class of priority `i`. -/
def Dev.pfcClass (d : Dev) (p i : Nat) : Nat := bitsOf (d.f1 .MAC_CLASS_MAP_PFC_MAP p) (3 * i) 3

/-- MAC_STATUS.PAUSED and the start of each continuous pause follow the running pause times; frames that wait for a
class now paused are withdrawn. -/
def Dev.refreshPaused (d : Dev) (p : Nat) : Dev :=
  let m := d.macSt p
  let run (i : Nat) : Bool := decide (Map.get 0 m.pauseEnd i ≠ 0)
  let byPfc (c : Nat) : Bool := (List.range 8).any (fun i => run i && d.pfcClass p i == c)
  let bits := (List.range 8).foldl (fun n c => if byPfc c || run 8 then n + 2 ^ c else n) 0
  let since (c : Nat) (on : Bool) (s : Map Nat) : Map Nat :=
    if !on then Map.set 0 s c 0 else if Map.get 0 s c = 0 then Map.set 0 s c (d.now + 1) else s
  let s := (List.range 8).foldl (fun s c => since c (byPfc c) s) (since 8 (run 8) m.pausedSince)
  ((d.setMac p { m with pausedSince := s }).set1 .MAC_STATUS_PAUSED p bits).withdraw p

/-- A pause time of `q` quanta for priority `i` (8 for PAUSE): it waits for the end of the frame in flight, or starts
at once (R116); a quanta value of 0 ends the pause, or counts in RX_PAUSE_ZERO_IDLE (R117). -/
def Dev.takePause (d : Dev) (p i q : Nat) : Dev :=
  let m := d.macSt p
  if q = 0 then
    if Map.get 0 m.pauseEnd i = 0 ∧ Map.get 0 m.pausePend i = 0 then d.macCount .MAC_RX_PAUSE_ZERO_IDLE p
    else ((d.setMac p { m with pauseEnd := Map.set 0 m.pauseEnd i 0, pausePend := Map.set 0 m.pausePend i 0 }).refreshPaused
      p).startNext p
  else if (d.inflight p).isSome ∨ m.ownTx.isSome then
    d.setMac p { m with pausePend := Map.set 0 m.pausePend i q }
  else (d.setMac p { m with pauseEnd := Map.set 0 m.pauseEnd i (d.now + d.quantaTicks p q) }).refreshPaused p

/-- Whether received pause is ignored for a class in storm recovery (R118). -/
def Dev.inRecovery (d : Dev) (p c : Nat) : Bool := decide (Map.get 0 (d.macSt p).recoverEnd c ≠ 0)

/-- A PFC frame: each enabled priority takes its quanta, but for classes in recovery. -/
def Dev.takePfc (d : Dev) (p : Nat) (bytes : Bytes) : Dev :=
  let en := beAt bytes 16 2 % 256
  let on := (List.range 8).filter (fun i => bitOf en i)
  let d1 := if on.any (fun i => d.inRecovery p (d.pfcClass p i)) then d.macCount .MAC_RX_PAUSE_IGNORED p else d
  on.foldl (fun d i =>
    if d.inRecovery p (d.pfcClass p i) then d else d.takePause p i (beAt bytes (18 + 2 * i) 2)) d1

/-- A MAC control frame (R114): accepted by its destination and opcode, ignored where it does not match PAUSE_MODE. -/
def Dev.macControl (d : Dev) (p : Nat) (bytes : Bytes) : Dev :=
  let da := beAt bytes 0 6
  let op := beAt bytes 14 2
  let own := d.macSa p
  let mode := d.f1 .MAC_CTRL_PAUSE_MODE p
  let ignored (d : Dev) : Dev := (d.macCount .MAC_RX_PAUSE_IGNORED p).ctrlViolation p op 1
  let honoured (k : Nat) : Bool := decide (mode = k) && d.b1 .MAC_CTRL_RX_PAUSE_EN p
  if (da = 0x0180C2000001 ∨ da = own) ∧ op = 1 then
    let d1 := d.macCount .MAC_RX_PAUSE p
    if !honoured 1 then ignored d1
    else if d1.inRecovery p 8 then d1.macCount .MAC_RX_PAUSE_IGNORED p
    else d1.takePause p 8 (beAt bytes 16 2)
  else if (da = 0x0180C2000001 ∨ da = own) ∧ op = 0x101 then
    let en := beAt bytes 16 2 % 256
    let d1 := (List.range 8).foldl (fun d i => if bitOf en i then d.macCount (Ctr.MAC_RX_PFC.at i) p else d) d
    if honoured 2 then d1.takePfc p bytes else ignored d1
  else (d.macCount .MAC_RX_CTRL_UNKNOWN p).ctrlViolation p op 0

/-! ### Reception (R108 to R110) -/

/-- The filter bin of a destination address (R110). -/
def groupBin (da : Bytes) : Nat := crc32 da % 512

/-- Row 9 of Table 4-2: a group address that the hash filter rejects; broadcast and the reserved addresses pass. -/
def Dev.filtered (d : Dev) (p : Nat) (bytes : Bytes) : Bool :=
  let da := beAt bytes 0 6
  let bin := groupBin (slice bytes 0 6)
  bitOf (beAt bytes 0 1) 0 && d.b1 .MAC_CTRL_FILTER_EN p && decide (da ≠ 0xFFFFFFFFFFFF) &&
  !(decide (0x0180C2000000 ≤ da) && decide (da ≤ 0x0180C200000F)) && decide (da ≠ 0x011B19000000) &&
  !bitOf (d.fld .MAC_MCAST_FILTER p (bin / 32)) (bin % 32)

/-- A frame good at the MAC, rows 8 to 11 of Table 4-2. -/
def Dev.countGood (d : Dev) (p : Nat) (bytes : Bytes) : Dev :=
  let da := beAt bytes 0 6
  let kind := if da = 0xFFFFFFFFFFFF then 2 else if bitOf (beAt bytes 0 1) 0 then 1 else 0
  let d1 := (((d.macCount .MAC_RX_FRAMES p).macCountN .MAC_RX_OCTETS p bytes.length).macCount
    (Ctr.MAC_RX_UCAST.at kind) p).macCount (Ctr.MAC_RX_64.at (lenBucket bytes.length)) p
  match ptpOffset bytes with
  | none => d1
  | some o =>
    let m := d1.macSt p
    let d2 := d1.setMac p { m with ptpAt := if ptpType bytes o < 4 then d1.now + 1 else m.ptpAt }
    if d.ptpPort p then d2.macCount .MAC_RX_PTP p else d2

/-- The EtherType of fabric and pair frames (R349). -/
def Dev.fabType (d : Dev) : Nat :=
  let t := leAt (d.section 9 4) 2 2
  if t = 0 then 0x88B5 else t

/-- The time-stamper's answer for a PTP message of a PTP port (R329, R347): a faulted lane die discards event messages,
an isolated port forwards none, and a wrong version or length is discarded in boundary mode. -/
def Dev.ptpRefused (d : Dev) (p : Nat) (bytes : Bytes) : Option (Dev → Dev) :=
  match ptpOffset bytes with
  | none => none
  | some o =>
    if !d.ptpPort p then none
    else
      let bad (reason : Nat) : Dev → Dev := fun d =>
        (d.count .TIM_PTP_DISCARD 0).recordLimited .PTP_VIOLATION (k2 p reason) tSec 1 p (payloadOf [(1, p), (1, reason)])
      if (Map.get .reset d.tim.ptp p).isolatedUntil.isSome then
        some (fun d => d.count .TIM_PTP_ISOLATED 0)
      else if bitOf (d.f0 .TIM_STATUS_BUS_FAULT) (p / 32) ∧ ptpType bytes o < 4 then
        some (fun d => d.count .TIM_PTP_DISCARD 0)
      else if d.b0 .TIM_CTRL_CLOCK_MODE then
        (if ptpVersion bytes o ≠ 2 then some (bad 2) else if !ptpLengthOk bytes true o then some (bad 1) else none)
      else none

/-- An accepted frame: discarded in WINTER; firmware frames of fabric and pair ports go to port 134; any other enters
the region's pipeline, cells allocated as it arrived, unless a reload has stopped it (R68, R86, R257, R349, R368,
R400). -/
def Dev.ingress (d : Dev) (p : Nat) (bytes : Bytes) (sub : Nat) (rivals : List (Fin 7)) : Dev :=
  let fab := decide (beAt bytes 12 2 = d.fabType)
  let role := d.f1 .MAC_PORT_INFO_ROLE p
  if d.winter ∨ d.buf.frozen then d.satInc .HLT_WINTER_IN_DISCARD (p / 32) 0 1
  else if role = 2 then
    if fab ∧ beAt bytes 0 6 = 0x0180C200000E then d.toPort134 p bytes (d.rxCapture p sub)
    else if d.spring then d.satInc .CLK_SPRING_DISCARD (p / 32) 0 1
    else d.count .PAIR_NON_PAIR_DROP 0
  else if d.fabPort p ∧ fab ∧ 4 ≤ beAt bytes 15 1 / 16 ∧ beAt bytes 15 1 / 16 ≤ 7 then
    d.toPort134 p bytes (d.rxCapture p sub)
  else if d.img.reload.any (fun r => r.stopped && bitOf r.mask (p / 32)) then d.reloadDiscard (p / 32) 1
  else match d.ptpRefused p bytes with
    | some f => f d
    | none =>
      let need := cellsFor bytes.length
      let got := d.allocate (p / 32) need rivals
      let r : Rx :=
        { bytes := keptBytes bytes got, hasFcs := decide (got.2 = 0), port := p, region := p / 32, pass := 0, startNode := 0
          profile := d.fld .TBL_PORT_CFG_KEY_PROFILE (p / 32) (p % 32), cap := d.rxCapture p sub, lost := got.2
          srcDev := none, dflt := none, tsId := none, wait := none, parse := none, res := none, orig := none, dfltAct := none, hit := none }
      let d1 := { d with buf := { d.buf with nextId := d.buf.nextId + 1 } }
      let d2 := (d1.setRx d.buf.nextId (some r)).notePeak
      if got.2 = 0 then d2.perf 4 0x200 (p / 32) need else (d2.perf 4 0x200 (p / 32) got.1).perf 4 0x206 (p / 32) 1

/-- FRAME_RECEIVE (R108): a reception of a port whose link is up, from the destination address to the FCS.  `pcsErr` is
a PCS error within it, `fec` what its codewords showed, `sub` the sub-tick of its SFD, and `rivals` the writers that ask
for cells beside its own (R257). -/
def execFrameReceive (p : Port) (bytes : List (BitVec 8)) (pcsErr : Bool) (fec : FecSeen) (sub : Fin 8)
    (rivals : List (Fin 7)) (s : State) : Host.Outcome State Fault Refusal :=
  s.run fun d =>
    let n := bytes.length
    let maxF := d.f1 .MAC_MAX_FRAME p
    if !d.linkUp p then d
    else
      let pmc := { d.pmc with rxBytes := Map.update 0 d.pmc.rxBytes p (· + n + 20) }
      let d0 := ((d.macCountN .MAC_FEC_CORR_CW p fec.corrected).macCountN .MAC_FEC_UNCORR_CW p fec.uncorrectable).macCountN
        .MAC_FEC_CORR_SYMB p fec.symbols
      let d1 := ({ d0 with pmc := pmc }).macCountN .MAC_RX_OCTETS_ALL p (min n 16384)
      let bad (c : Ctr) (row : Nat) : Dev := ((d1.macCount c p).frameViolation p row).noteIncomplete p d1.windowNow
      if pcsErr ∨ fec.uncorrectable ≠ 0 then bad .MAC_RX_PCS_ERR 1
      else if 16384 < n then bad .MAC_RX_JABBER 2
      else if n ≤ 63 then (if fcsGood bytes then bad .MAC_RX_UNDERSIZE 3 else bad .MAC_RX_FRAGMENT 4)
      else if maxF < n then (if fcsGood bytes then bad .MAC_RX_OVERSIZE 5 else bad .MAC_RX_JABBER 6)
      else if !fcsGood bytes then bad .MAC_RX_FCS_ERR 7
      else
        let d2 := d1.countGood p bytes
        if beAt bytes 12 2 = 0x8808 then d2.macControl p bytes
        else if d2.filtered p bytes then d2.macCount .MAC_RX_MCAST_FILTERED p
        else if beAt bytes 0 6 = 0xFFFFFFFFFFFF ∧ d2.b1 .MAC_CTRL_BCAST_DROP p then d2.macCount .MAC_RX_MCAST_FILTERED p
        else d2.ingress p bytes sub rivals

/-! ### Link state (R101 to R106) -/

/-- Whether the port may have a link: used, enabled, not held off or isolated, negotiation done, receivers in service. -/
def Dev.mayLink (d : Dev) (p : Nat) : Bool :=
  d.portUsed p && d.b1 .MAC_CTRL_PORT_EN p && !d.b1 .MAC_STATUS_FLAP_ISOLATED p && !d.portIsolated p &&
  (!d.portNeg p || d.b1 .MAC_STATUS_AN_DONE p) && d.boot.committed && !d.winter &&
  (d.portLanes p).all (fun l => !((d.turn (l / 4)).kind == 3 && d.turnLane (l / 4) == l))

/-- LINK_UP (R103, R272, R274): lock on every lane and no fault have held for UP_DELAY, and the link comes up.  A running
flap timer stops; link-up counts as a calibration of the port's lanes (R130), and without training the lanes take their
effective presets (R144). -/
def execLinkUp (p : Port) (s : State) : Host.Outcome State Fault Refusal :=
  s.run fun d =>
    if d.linkUp p ∨ !d.mayLink p then d
    else
      let d1 := ((((d.set1 .MAC_STATUS_LINK_UP p 1).set1 .MAC_STATUS_PCS_LOCK p 1).set1 .MAC_STATUS_LOCAL_FAULT p 0).set1
        .MAC_STATUS_REMOTE_FAULT p 0).set1 .MAC_STATUS_AN_DONE p 1
      let d2 := if d1.portNeg p then d1 else d1.set1 .MAC_PORT_INFO_FEC_ACTIVE p (d1.fecDefault p)
      let d3 := (d2.portLanes p).foldl (fun d l =>
        let d := if d.portTrains p then d else d.trainTx l (decide (5 ≤ d.portMode p)) ⟨0, 0, 0, 0, 0⟩
        ((((d.set1 .LANE_STATUS_SIGNAL l 1).set1 .LANE_STATUS_CDR_LOCK l 1).calibrated l).adaptRx l).adaptLatency l) d2
      let f := d3.flapSt p
      let d4 := { d3 with buf := { d3.buf with flap := Map.set ⟨none, false⟩ d3.buf.flap p ⟨none, false⟩ } }
      let d5 := if f.endAt.isSome then d4.count .QUE_FLAP_RESUMED p else d4
      let r := d5.draw
      let m := r.2.macSt p
      let d7 := (r.2.setMac p { m with drive := .running, lastTx := d5.now, deskew := r.1 }).record .LINK_UP 1 p
        (payloadOf [(1, p.val), (1, d5.portMode p), (1, d5.f1 .MAC_PORT_INFO_FEC_ACTIVE p)])
      d7.raise p

/-- The status bits of a link condition that ceases; a local fault is answered with remote fault, a received remote fault
with idle (R103). -/
def Dev.loseCondition (d : Dev) (p : Nat) : DownCause → Dev
  | .signal => (d.portLanes p).foldl (fun d l => (d.set1 .LANE_STATUS_SIGNAL l 0).set1 .LANE_STATUS_CDR_LOCK l 0)
      ((d.set1 .MAC_STATUS_PCS_LOCK p 0).dropAn p)
  | .pcsLock => (d.set1 .MAC_STATUS_PCS_LOCK p 0).dropAn p
  | .localFault =>
    let m := d.macSt p
    (d.setMac p { m with drive := if m.drive = .running then .remoteFault else m.drive }).set1 .MAC_STATUS_LOCAL_FAULT p 1
  | .remoteFault => d.set1 .MAC_STATUS_REMOTE_FAULT p 1
  | _ => d

/-- LINK_DOWN (R103, R104): a link condition ceases (0 loss of signal, 1 PCS lock, 2 local fault, 3 remote fault);
`rx` is the bytes received of a frame in progress.  On an enabled port without a link only the condition is shown. -/
def execLinkDown (p : Port) (cause : Fin 4) (rx : Option Nat) (s : State) : Host.Outcome State Fault Refusal :=
  s.run fun d =>
    let c : DownCause := match cause with
      | 0 => .signal | 1 => .pcsLock | 2 => .localFault | 3 => .remoteFault
    if !d.linkUp p then (if d.portUsed p ∧ d.b1 .MAC_CTRL_PORT_EN p then d.loseCondition p c else d)
    else
      let d1 := match rx with
        | none => d
        | some n => (((d.macCountN .MAC_RX_OCTETS_ALL p n).macCount .MAC_RX_PCS_ERR p).frameViolation p 1).noteIncomplete p d.windowNow
      (d1.loseCondition p c).linkDown p c d1.flapHold

/-- The hold-off of a flapping port ends and its count restarts (R105). -/
def Dev.endHoldoff (d : Dev) (p : Nat) : Dev :=
  let m := d.macSt p
  let drive := if m.drive = .lossOfSignal then m.drive else if d.b1 .MAC_CTRL_PORT_EN p then .running else .electricalIdle
  (d.setMac p { m with holdoffEnd := none, disabledOnce := false, downs := [], drive := drive }).set1
    .MAC_STATUS_FLAP_ISOLATED p 0

/-- FLAP_HOLDOFF_END (R105). -/
def execFlapHoldoffEnd (p : Port) (s : State) : Host.Outcome State Fault Refusal :=
  s.run fun d => if (d.macSt p).holdoffEnd.any (fun t => decide (t ≤ d.now)) then d.endHoldoff p else d

/-- A write of PORT_EN: 0 takes the link down and holds the transmitter at electrical idle, 1 lets the link come up;
0 and then 1 ends a hold-off (R103, R105). -/
def Dev.writePortEn (d : Dev) (p : Nat) (en : Bool) : Dev :=
  if !d.portUsed p then d.set1 .MAC_CTRL_PORT_EN p (b2n en)
  else
    let m := d.macSt p
    if !en then
      let d1 := ((d.set1 .MAC_CTRL_PORT_EN p 0).linkDown p .portEn d.flapHold).dropAn p
      let m := d1.macSt p
      d1.setMac p { m with drive := if m.drive = .lossOfSignal then m.drive else .electricalIdle,
                           disabledOnce := m.holdoffEnd.isSome }
    else
      let d1 := d.set1 .MAC_CTRL_PORT_EN p 1
      if m.holdoffEnd.isSome then (if m.disabledOnce then d1.endHoldoff p else d1)
      else d1.setMac p { m with drive := if m.drive = .lossOfSignal then m.drive else .running }

/-- MAC_PORT_EN_WRITE (R103): a master writes PORT_EN, leaving the other fields of MAC_CTRL as they are. -/
def execMacPortEnWrite (m : Master) (p : Port) (en : Bool) (s : State) : Host.Outcome State Fault Refusal :=
  s.run fun d => d.onWrite m .MAC_CTRL p 0 fun d => d.writePortEn p en

/-- MAC_UNIT_ISOLATED (R106, R332): a MAC, PCS, FEC or time-stamper unit has an uncorrectable error. -/
def execMacUnitIsolated (p : Port) (s : State) : Host.Outcome State Fault Refusal :=
  s.run fun d => d.isolatePort p

/-- AUTONEG_COMPLETE (R101, R102): auto-negotiation and training end.  `full` is the partner's full-duplex ability, `adv`
its advertisement and `fec` the FEC resolved in the coding of FEC_ACTIVE, all three of a port that negotiates; and `moves` the taps its training moved on each
logical lane: pre3, pre2, pre1, main, post1. -/
def execAutonegComplete (p : Port) (full : Bool) (adv : Fin 65536) (fec : Fin 4)
    (moves : List (Int × Int × Int × Int × Int)) (s : State) : Host.Outcome State Fault Refusal :=
  s.run fun d =>
    if d.linkUp p ∨ !d.portUsed p ∨ !d.portNeg p ∨ !d.b1 .MAC_CTRL_PORT_EN p then d
    else if d.portAn p ∧ !full then
      ((d.dropAn p).macCount .MAC_LINK_DOWN p).recordLimited .AN_DUPLEX_REFUSED p tSec 1 p (payloadOf [(1, p.val), (2, adv.val)])
    else
      let mode := d.portMode p
      let asked := d.portRec p 1
      let ok : Bool := if mode ≤ 4 then fec.val == 3
        else if asked ≠ 0 then fec.val + 1 == asked
        else if mode = 5 then decide (fec.val ≤ 2) else if mode = 6 then decide (fec.val ≤ 1) else fec.val == 0
      if d.portAn p ∧ !ok then d.dropAn p
      else
        let d1 := (d.set1 .MAC_STATUS_AN_DONE p 1).set1 .MAC_PORT_INFO_FEC_ACTIVE p (if d.portAn p then fec.val else d.fecDefault p)
        if d1.portTrains p then
          (List.range 4).foldl (fun d i =>
            match (d.portLanes p)[i]? with
            | none => d
            | some l =>
              let t := moves.getD i (0, 0, 0, 0, 0)
              (d.trainTx l (decide (5 ≤ mode)) ⟨t.1, t.2.1, t.2.2.1, t.2.2.2.1, t.2.2.2.2⟩).calibrated l) d1
        else d1

/-! ### Pause times (R116 to R119) -/

/-- PAUSE_START (R116): the frame in flight has ended; the pause times that waited for it start, frames of paused
classes are withdrawn, and the transmitter goes on with the others. -/
def execPauseStart (p : Port) (s : State) : Host.Outcome State Fault Refusal :=
  s.run fun d =>
    let m := d.macSt p
    if m.pausePend.isEmpty ∨ (d.inflight p).isSome ∨ m.ownTx.isSome then d
    else
      let ends := m.pausePend.foldl (fun e x => Map.set 0 e x.1 (d.now + d.quantaTicks p x.2)) m.pauseEnd
      ((d.setMac p { m with pausePend := [], pauseEnd := ends }).refreshPaused p).startNext p

/-- PAUSE_EXPIRE (R116): the pause time of a priority (8 for PAUSE) has run out. -/
def execPauseExpire (p : Port) (i : Fin 9) (s : State) : Host.Outcome State Fault Refusal :=
  s.run fun d =>
    let m := d.macSt p
    let e := Map.get 0 m.pauseEnd i
    if e = 0 ∨ d.now < e then d
    else ((d.setMac p { m with pauseEnd := Map.set 0 m.pauseEnd i 0 }).refreshPaused p).startNext p

/-- Whether priority `i` (8 for PAUSE) belongs to storm guard `c`. -/
def Dev.guardOf (d : Dev) (p c i : Nat) : Bool := if c = 8 then i == 8 else i != 8 && d.pfcClass p i == c

/-- PAUSE_STORM (R118): a class (8 for PAUSE) has been paused for WATCHDOG without a break: its pause is cleared and
received pause is ignored for RECOVERY. -/
def execPauseStorm (p : Port) (c : Fin 9) (s : State) : Host.Outcome State Fault Refusal :=
  s.run fun d =>
    let m := d.macSt p
    let since := Map.get 0 m.pausedSince c
    if since = 0 ∨ d.now + 1 < since + d.f1 .MAC_PAUSE_TIMERS_WATCHDOG p * tMs then d
    else
      let drop (t : Map Nat) : Map Nat := (List.range 9).foldl (fun t i => if d.guardOf p c i then Map.set 0 t i 0 else t) t
      let d1 := d.setMac p { m with
        pauseEnd := drop m.pauseEnd, pausePend := drop m.pausePend
        recoverEnd := Map.set 0 m.recoverEnd c (d.now + d.f1 .MAC_PAUSE_TIMERS_RECOVERY p * tMs) }
      let storm := if c.val = 8 then 255 else putBit (d1.f1 .MAC_STATUS_STORM p) c true
      let d2 := (d1.refreshPaused p).set1 .MAC_STATUS_STORM p storm
      let d3 := d2.macCount (if c.val = 8 then .MAC_PAUSE_STORM_LINK else Ctr.MAC_PAUSE_STORM.at c) p
      (d3.recordLimited .PAUSE_STORM p tSec 1 p (payloadOf [(1, p.val), (1, c.val)])).startNext p

/-- PAUSE_RECOVERY_END (R118). -/
def execPauseRecoveryEnd (p : Port) (c : Fin 9) (s : State) : Host.Outcome State Fault Refusal :=
  s.run fun d =>
    let m := d.macSt p
    let e := Map.get 0 m.recoverEnd c
    if e = 0 ∨ d.now < e then d
    else
      let r := Map.set 0 m.recoverEnd c 0
      let bits := if Map.get 0 r 8 ≠ 0 then 255
        else (List.range 8).foldl (fun n k => if Map.get 0 r k ≠ 0 then n + 2 ^ k else n) 0
      (d.setMac p { m with recoverEnd := r }).set1 .MAC_STATUS_STORM p bits

/-- PFC_REFRESH (R119): while a pause request holds, its quanta are sent again every REFRESH quanta. -/
def execPfcRefresh (p : Port) (c : Tc) (s : State) : Host.Outcome State Fault Refusal :=
  s.run fun d =>
    let m := d.macSt p
    let at_ := Map.get 0 m.xoffAt c
    if !bitOf (d.f1 .QUE_PORT_STATUS_PFC_XOFF p) c ∨ at_ = 0 ∨ d.winter ∨
        d.now + 1 < at_ + d.quantaTicks p (d.f1 .MAC_PFC_TX_REFRESH p) then d
    else (d.setMac p { m with xoffAt := Map.set 0 m.xoffAt c (d.now + 1) }).sendPause p c (d.f1 .MAC_PFC_TX_QUANTA p)

/-! ### Energy-Efficient Ethernet (R120, R121) -/

/-- A frame of the port is held in the hold store. -/
def Dev.portHeld (d : Dev) (p : Nat) : Bool :=
  (List.range 8).any (fun t => let h := d.holdQ (8 * p + t); !h.frames.isEmpty || !h.chain.isEmpty || h.active)

/-- The PTP guard runs, or a follow-up is owed. -/
def Dev.ptpGuard (d : Dev) (p : Nat) : Bool :=
  let m := d.macSt p
  m.followOwed || (decide (m.ptpAt ≠ 0) && decide (d.now + 1 < m.ptpAt + d.f1 .MAC_EEE_CTRL_PTP_GUARD p * tMs))

/-- Low-power idle is allowed on the port by its configuration. -/
def Dev.eeeOn (d : Dev) (p : Nat) : Bool :=
  d.b1 .MAC_CTRL_EEE_EN p && d.b1 .MAC_EEE_STATUS_CAPABLE p && d.b1 .MAC_EEE_STATUS_NEGOTIATED p &&
  decide (d.f1 .MAC_PORT_INFO_ROLE p = 0) && d.linkUp p

/-- MAC_EEE_STATUS.BLOCKED: low-power idle withheld by a hold drain or the PTP guard. -/
def Dev.eeeBlocked (d : Dev) (p : Nat) : Bool := d.eeeOn p && (d.portHeld p || d.ptpGuard p)

/-- Nothing waits for the port or is being sent. -/
def Dev.portEmpty (d : Dev) (p : Nat) : Bool :=
  (List.range 10).all (fun i => (d.queue p i).isEmpty) && (d.inflight p).isNone &&
  (List.range 4).all (fun m => (d.macqAt p m).isNone) && (d.ownFrames p).isEmpty

/-- LPI_ENTER (R120): by fast wake where the PHY type's clause defines it (log 73). -/
def execLpiEnter (p : Port) (s : State) : Host.Outcome State Fault Refusal :=
  s.run fun d =>
    let m := d.macSt p
    if d.eeeOn p ∧ !d.eeeBlocked p ∧ d.portEmpty p ∧ !d.b1 .MAC_STATUS_TX_LPI p ∧ !d.winter ∧
        m.lastTx + d.f1 .MAC_EEE_CTRL_IDLE p * tUs ≤ d.now then
      ((d.setMac p { m with fastWake := Config.fastWake (d.portMode p) }).set1 .MAC_STATUS_TX_LPI p 1).macCount .MAC_TX_LPI p
    else d

/-- LPI_WAKE (R121): the wake time of a waiting frame has passed, and transmission resumes. -/
def execLpiWake (p : Port) (s : State) : Host.Outcome State Fault Refusal :=
  s.run fun d =>
    let m := d.macSt p
    if d.b1 .MAC_STATUS_TX_LPI p ∧ m.wakeAt.any (fun t => decide (t ≤ d.now)) then
      ((d.setMac p { m with wakeAt := none, lastTx := d.now }).set1 .MAC_STATUS_TX_LPI p 0).startNext p
    else d

/-- LLDP_RECEIVE (R120): the firmware takes an LLDP frame of a port from port 134; its EEE TLV, where it has one, names
the wake time in µs that the partner's receiver needs.  The device answers with its own LLDP frame. -/
def execLldpReceive (p : Port) (tlv : Option (Fin 65536)) (s : State) : Host.Outcome State Fault Refusal :=
  s.run fun d =>
    if !d.linkUp p ∨ d.winter then d
    else match tlv with
      | none => (d.set1 .MAC_EEE_STATUS_NEGOTIATED p 0).set1 .MAC_EEE_STATUS_TW_SYS_TX p 0
      | some w =>
        if d.b1 .MAC_EEE_STATUS_CAPABLE p then
          ((d.set1 .MAC_EEE_STATUS_NEGOTIATED p 1).set1 .MAC_EEE_STATUS_TW_SYS_TX p w).sendMsg p 4 0 64 [w]
        else d

/-! ### Statistics (R122) -/

/-- Counters of Table 4-3 that exist. -/
def macCtrDefined (i : Nat) : Bool := decide (i < 85) && !(decide (37 ≤ i) && decide (i ≤ 39)) && i != 70 && i != 71

/-- Writing 1 to HALF clears bit 47 of a counter (R122). -/
def Dev.clearHalf (d : Dev) (p i : Nat) : Dev :=
  let c : Ctr := ⟨.MAC_STAT, i⟩
  d.setCtr c p (d.ctr c p % 2 ^ 47)

/-- MAC_STAT_HALF_CLEAR (R122): a master writes 1 to MAC_STAT_HI[i].HALF; a reserved pair has no register. -/
def execMacStatHalfClear (m : Master) (p : Port) (i : Fin 96) (s : State) : Host.Outcome State Fault Refusal :=
  s.run fun d =>
    if macCtrDefined i then d.onWrite m .MAC_STAT_HI p i fun d => d.clearHalf p i
    else d.abortAccess m .reserved (Reg.MAC_STAT_HI.addr p i) true

end Sys2Proof.Machine
end

