-- ==== Sys2Proof/Machine/Parser.lean ====
section
/-! DEFINITION. The parser's walk over the parse graph (R154 to R160): a function of the PARSE section and of the
frame. -/

namespace Sys2Proof.Machine

/-! ### Bit fields of a header (R158) -/

/-- The `w`-bit field at bit offset `o`, bit 0 being the most significant bit of the first byte. -/
def wireBits (bs : Bytes) (o w : Nat) : Nat :=
  if w = 0 then 0
  else
    let first := o / 8
    let n := (o + w + 7) / 8 - first
    beAt bs first n / 2 ^ (8 * n - (o % 8 + w)) % 2 ^ w

/-! ### Section records (R53) -/

/-- Record `i` of a list section with records of `size` bytes. -/
def listRec (body : Bytes) (size i : Nat) : Bytes := slice body (8 + size * i) size

/-- The record whose first `idBytes` bytes are `id`. -/
def findRec (body : Bytes) (size idBytes id : Nat) : Option Bytes :=
  (List.range (leAt body 0 2)).findSome? (fun i =>
    if leAt body (8 + size * i) idBytes = id then some (listRec body size i) else none)

/-! ### Node records (Table 6-1) -/

/-- One parse node. -/
structure PNode where
  type : Nat
  layer : Nat
  nextRequired : Bool
  checksum : Bool
  lenMode : Nat
  lenShift : Nat
  lenAdd : Nat
  lenMin : Nat
  lenOffset : Nat
  lenWidth : Nat
  totalMode : Nat
  totalOffset : Nat
  nextOffset : Nat
  nextWidth : Nat
  trans : List (Nat × Nat × Nat)
  fragMode : Nat
  deriving DecidableEq, Repr

/-- The node a record spells; transitions from TRANS_COUNT on are ignored (R159). -/
def nodeOf (r : Bytes) : PNode :=
  { type := leAt r 1 1, layer := leAt r 2 1, nextRequired := bitOf (leAt r 3 1) 0, checksum := bitOf (leAt r 3 1) 1
    lenMode := leAt r 4 1, lenShift := leAt r 5 1, lenAdd := leAt r 6 2, lenMin := leAt r 8 2
    lenOffset := leAt r 0xA 2, lenWidth := leAt r 0xC 1, totalMode := leAt r 0xD 1, totalOffset := leAt r 0xE 2
    nextOffset := leAt r 0x10 2, nextWidth := leAt r 0x12 1
    trans := (List.range (min 8 (leAt r 0x13 1))).map (fun t =>
      (leAt r (0x14 + 5 * t) 2, leAt r (0x16 + 5 * t) 2, leAt r (0x18 + 5 * t) 1))
    fragMode := leAt r 0x3C 1 }

/-- A node that consumes nothing (R158). -/
def PNode.zero (n : PNode) : Bool := decide (n.lenMode = 0) && decide (n.lenAdd = 0)

/-- The header length L at position `s` (R158). -/
def PNode.len (n : PNode) (bs : Bytes) (s : Nat) : Nat :=
  if n.lenMode = 0 then n.lenAdd else wireBits bs (8 * s + n.lenOffset) n.lenWidth * 2 ^ n.lenShift + n.lenAdd

/-- The node a selector leads to (R159). -/
def PNode.next (n : PNode) (sel : Nat) : Option Nat :=
  (n.trans.find? (fun t => Nat.land sel t.2.1 == t.1)).map (·.2.2)

/-! ### The walk (R156) -/

/-- The walk's progress. -/
structure WalkSt where
  node : Nat
  pos : Nat
  bound : Nat
  stack : List Hdr
  frag : Bool
  fragFirst : Bool
  deriving DecidableEq, Repr

/-- Truncation causes and error reasons (Tables 6-2 and 6-3). -/
def truncDepth : Nat := 1
def truncWindow : Nat := 2
def truncSteps : Nat := 3

/-- The result of a walk that stops at `pos`. -/
def WalkSt.stop (w : WalkSt) (port pass pos trunc err : Nat) : ParseRes :=
  { port := port, pass := pass, stack := w.stack, payload := pos, trunc := trunc, frag := w.frag
    fragFirst := w.fragFirst, err := err, errNode := w.node, bound := w.bound }

/-- Whether a non-zero fragment offset, and whether MF or M, stands in the header (R160). -/
def fragBits (mode : Nat) (bs : Bytes) (s : Nat) : Bool × Bool :=
  if mode = 1 then (decide (wireBits bs (8 * s + 51) 13 ≠ 0), decide (wireBits bs (8 * s + 50) 1 ≠ 0))
  else if mode = 2 then (decide (wireBits bs (8 * s + 16) 13 ≠ 0), decide (wireBits bs (8 * s + 31) 1 ≠ 0))
  else (false, false)

/-- What one node decides: the end of the walk, or the next position. -/
inductive WalkStep
  | done (r : ParseRes)
  | go (w : WalkSt)
  deriving DecidableEq, Repr

/-- Steps 8 to 10 of R156: header placed, fragment mode, selector. -/
def placeStep (n : PNode) (bs : Bytes) (port pass L bound : Nat) (w : WalkSt) : WalkStep :=
  let s := w.pos
  let stack := if L = 0 then w.stack else w.stack ++ [⟨w.node, n.type, n.layer, s, L⟩]
  let f := fragBits n.fragMode bs s
  let w1 := { w with stack := stack, bound := bound, frag := w.frag || f.1, fragFirst := w.fragFirst || (!f.1 && f.2) }
  let selEnd := 8 * s + n.nextOffset + n.nextWidth
  if f.1 then .done (w1.stop port pass (s + L) 0 0)
  else
    let none : WalkStep := .done (w1.stop port pass (s + L) 0 (if n.nextRequired then 6 else 0))
    if 8 * bound < selEnd then none
    else if 8 * 512 < selEnd then .done (w1.stop port pass (s + L) truncWindow 0)
    else match n.next (wireBits bs (8 * s + n.nextOffset) n.nextWidth) with
      | some k => .go { w1 with node := k, pos := s + L }
      | Option.none => none

/-- Steps 2 to 10 of R156 at one node. -/
def nodeStep (n : PNode) (bs : Bytes) (port pass : Nat) (w : WalkSt) : WalkStep :=
  let s := w.pos
  let stop (trunc err : Nat) : WalkStep := .done (w.stop port pass s trunc err)
  if !n.zero ∧ 16 ≤ w.stack.length then stop truncDepth 0
  else if w.bound < s + n.lenMin then stop 0 2
  else if 512 < s + n.lenMin then stop truncWindow 0
  else
    let L := n.len bs s
    if L < n.lenMin then stop 0 1
    else if w.bound < s + L then stop 0 2
    else if 512 < s + L then stop truncWindow 0
    else
      let T := wireBits bs (8 * s + n.totalOffset) 16
      let D := if n.totalMode = 1 then s + T else if n.totalMode = 2 then s + L + T else w.bound
      if n.totalMode ≠ 0 ∧ D < s + L then stop 0 4
      else if n.totalMode ≠ 0 ∧ w.bound < D then stop 0 3
      else if n.checksum ∧ onesSum (slice bs s L) ≠ 0xFFFF then stop 0 5
      else placeStep n bs port pass L D w

/-- The walk, 32 steps at most; a node row in `bad` has a parity error (R169).  A node that the section does not hold
ends the walk as a node whose row cannot be read. -/
def walk (body bs : Bytes) (bad : Nat → Bool) (port pass : Nat) : Nat → WalkSt → ParseRes
  | 0, w => w.stop port pass w.pos truncSteps 0
  | fuel + 1, w =>
    if bad w.node then w.stop port pass w.pos 0 7
    else match findRec body 64 1 w.node with
      | none => w.stop port pass w.pos 0 7
      | some r =>
        match nodeStep (nodeOf r) bs port pass w with
        | .done p => p
        | .go w1 => walk body bs bad port pass fuel w1

/-- The parse of a frame of `len` bytes, FCS included, from node `start` (R154, R155); the walk sees `bs`, the frame
without its FCS. -/
def parseFrame (body bs : Bytes) (len start : Nat) (bad : Nat → Bool) (port pass : Nat) : ParseRes :=
  walk body bs bad port pass 32 ⟨start, 0, len - 4, [], false, false⟩

end Sys2Proof.Machine
end

