-- ==== Sys2Proof/Machine/Keys.lean ====
section
/-! DEFINITION. Key profiles and keys (R173 to R178), and the flow hash (R356). -/

namespace Sys2Proof.Machine

/-! ### Profiles (Table 7-1) -/

/-- The KEYS record of a profile of region `n`; one that the section does not hold selects profile 0 (R173). -/
def Dev.keyProfile (d : Dev) (n id : Nat) : Bytes :=
  let body := d.section 4 n
  match findRec body 128 1 id with
  | some r => r
  | none => (findRec body 128 1 0).getD []

def profileId (r : Bytes) : Nat := leAt r 0 1
def profileFlag (r : Bytes) (b : Nat) : Bool := bitOf (leAt r 1 1) b

/-- The header a selector (KIND, VALUE, OCCUR) names (Table 7-3). -/
def selHdr (stack : List Hdr) (sel : Bytes) : Option Hdr :=
  let value := leAt sel 1 1
  let occur := leAt sel 2 1
  let typed (l : List Hdr) : Option Hdr := (l.filter (fun h => h.type == value))[occur]?
  match leAt sel 0 1 with
  | 0 => stack[value]?
  | 1 => typed stack
  | 2 => typed stack.reverse
  | _ => none

/-- A metadata item: its value and width (Table 7-4). -/
def metaItem (p : ParseRes) : Nat → Nat × Nat
  | 0 => (p.port, 8)
  | 1 => (p.pass, 1)
  | 2 => (4 * b2n (decide (p.trunc ≠ 0)) + p.trunc, 3)
  | 3 => (2 * b2n p.frag + b2n p.fragFirst, 2)
  | 4 => (p.stack.length, 5)
  | _ => (2 ^ p.stack.length - 1, 16)

/-- What an extractor reads (R175): `none` where it is absent.  Bit 0 of a header is its first on the wire (R158); bit 0 of a
metadata item is its least significant, as Table 7-4 numbers header presence (DEDUCED, log 79). -/
def extract (bs : Bytes) (p : ParseRes) (x : Bytes) : Option Nat :=
  let w := leAt x 3 1
  let o := leAt x 4 2
  if leAt x 0 1 = 3 then
    let m := metaItem p (leAt x 1 1)
    some (m.1 / 2 ^ o % 2 ^ w)
  else match selHdr p.stack (slice x 0 3) with
    | none => none
    | some h => if 8 * h.len < o + w then none else some (wireBits bs (8 * h.start + o) w)

/-- A key of `width` bits (R176, R205): profile, ABSENT and the fields of the extractors that `sel` selects. -/
def buildKey (bs : Bytes) (p : ParseRes) (prof : Bytes) (sel width : Nat) : Nat :=
  (List.range 12).foldl (fun key e =>
    let x := slice prof (0x10 + 8 * e) 8
    if !bitOf sel e ∨ leAt x 3 1 = 0 then key
    else match extract bs p x with
      | none => key + 2 ^ (width - 18 + e)
      | some v => key + v * 2 ^ leAt x 6 2) (profileId prof * 2 ^ (width - 6))

/-! ### Layer-2 and IP keys -/

/-- The layer-2 header of the profile. -/
def l2Hdr (p : ParseRes) (prof : Bytes) : Option Hdr := selHdr p.stack (slice prof 4 3)
def vlanHdr (p : ParseRes) (prof : Bytes) : Option Hdr := selHdr p.stack (slice prof 7 3)
def ipHdr (p : ParseRes) (prof : Bytes) : Option Hdr := selHdr p.stack (slice prof 0xA 3)

/-- The VID of a frame: the VLAN_SEL tag's, or PVID where it is absent (R180); an untagged host frame, whose port has no
PVID, takes 1. -/
def Dev.frameVid (d : Dev) (bs : Bytes) (p : ParseRes) (prof : Bytes) : Nat :=
  match vlanHdr p prof with
  | some h => wireBits bs (8 * h.start + 4) 12
  | none => if p.port < 128 then d.fld .TBL_PORT_CFG_PVID (p.port / 32) (p.port % 32) else 1

/-- The trie address of a frame and whether it is IPv6 (Table 7-1). -/
def lpmKey (bs : Bytes) (p : ParseRes) (prof : Bytes) : Option (Bool × Nat) :=
  (ipHdr p prof).map (fun h =>
    if leAt prof 0xD 1 = 0 then (false, wireBits bs (8 * h.start + 128) 32)
    else (true, wireBits bs (8 * h.start + 192) 128))

/-! ### Hash rows (R177, R178) -/

def hashSeed : Nat → Nat
  | 0 => 0x5A827999 | 1 => 0x6ED9EBA1 | 2 => 0x8F1BBCDC | 3 => 0xCA62C1D6
  | 4 => 0x3C6EF372 | 5 => 0xA54FF53A | 6 => 0x510E527F | _ => 0x9B05688C

/-- The hash of a key with the seed of a way. -/
def hashWay (w : Nat) (key : Bytes) : Nat := Nat.xor (key.foldl (crcByte 0x82F63B78) (hashSeed w)) 0xFFFFFFFF

/-- Table row of a key in way `w` of a table with `rows` rows per way. -/
def tableRow (rows w : Nat) (key : Bytes) : Nat := w * rows + hashWay w key * rows / 2 ^ 32

/-- The candidate set: one row in each way. -/
def candidates (rows : Nat) (key : Bytes) : List Nat := (List.range 8).map (fun w => tableRow rows w key)

/-- The eight key bytes of a layer-2 entry. -/
def l2Key (mac vid : Nat) : Bytes := beBytes 6 mac ++ beBytes 2 (vid % 4096)

/-- The 40 key bytes of an exact-match entry. -/
def exactKey (key : Nat) : Bytes := leBytes 40 key

/-! ### Carving (R54 to R56, Table 2-6) -/

/-- MiB of SYSTEM, L2, LPM4, LPM6, EXACT and ACTION. -/
def carveOf (body : Bytes) : List Nat :=
  match leAt body 0 1 with
  | 0 => [16, 16, 32, 48, 48, 32]
  | 1 => [16, 32, 16, 24, 72, 32]
  | 2 => [16, 16, 64, 24, 40, 32]
  | 3 => [16, 16, 16, 96, 16, 32]
  | _ => (List.range 6).map (fun i => leAt body (1 + i) 1)

/-- Preset 0 is the default. -/
def Dev.carve (d : Dev) (i : Nat) : Nat := (carveOf (d.section 2 4)).getD i 0

/-- Rows per way of the layer-2 table and of a region's exact-match table. -/
def Dev.l2Rows (d : Dev) : Nat := d.carve 1 * 4096
def Dev.exactRows (d : Dev) : Nat := d.carve 4 / 4 * 2048

/-- Next-hop records of a region (R233). -/
def Dev.nhCapacity (d : Dev) : Nat := min 262144 ((d.carve 5 / 4 * 1048576 - 131072) / 16)

/-! ### The flow hash (R356) -/

/-- What the flow hash covers: destination and source MAC, VID, and, where the parse result holds them, IP addresses,
protocol and layer-4 ports of the outermost such headers. -/
def flowBytes (bs : Bytes) (p : ParseRes) (vid : Nat) : Bytes :=
  let ip := p.stack.find? (fun h => h.layer == 3)
  let l4 := p.stack.find? (fun h => h.layer == 4)
  let ipb : Bytes := match ip with
    | none => []
    | some h =>
      if wireBits bs (8 * h.start) 4 = 6 then slice bs (h.start + 8) 32 ++ slice bs (h.start + 6) 1
      else slice bs (h.start + 12) 8 ++ slice bs (h.start + 9) 1
  let l4b : Bytes := match l4 with
    | none => []
    | some h => slice bs h.start 4
  slice bs 0 12 ++ beBytes 2 vid ++ ipb ++ l4b

/-- CRC-32C seeded with FAB_HASH_SEED. -/
def Dev.flowHash (d : Dev) (bs : Bytes) (p : ParseRes) (vid : Nat) : Nat :=
  Nat.xor ((flowBytes bs p vid).foldl (crcByte 0x82F63B78) (d.f0 .FAB_HASH_SEED)) 0xFFFFFFFF

/-! ### Routes (R356) -/

/-- The 32-bit word rotated left by the device's own address. -/
def rotl32 (h a : Nat) : Nat := (h * 2 ^ (a % 32) % 2 ^ 32) + h % 2 ^ 32 / 2 ^ (32 - a % 32)

def Dev.route (d : Dev) (a : Nat) : Route := Map.get ⟨[], 0, false⟩ d.fab.routes a

/-- Entry `a` holds no port: 0, 255 and the device's own address never do (R356), nor while a parity error keeps it
down (R364). -/
def Dev.routeDown (d : Dev) (a : Nat) : Bool :=
  let r := d.route a
  r.ports.isEmpty || r.bad || a == 0 || decide (255 ≤ a) || a == d.fabAddr

/-- A member carries fabric data while it has an address and no conflict isolates it (R360, R361). -/
def Dev.carriesData (d : Dev) : Bool := decide (d.fabAddr ≠ 0) && !d.b0 .FAB_STATUS_CONFLICT

/-- The next-hop port of a flow towards device `a`. -/
def Dev.routePort (d : Dev) (a hash : Nat) : Option Nat :=
  if d.routeDown a ∨ !d.carriesData then none
  else
    let r := d.route a
    r.ports[rotl32 hash d.fabAddr * r.ports.length / 2 ^ 32]?

end Sys2Proof.Machine
end

