-- ==== Sys2Proof/Machine/Lookup.lean ====
section
/-! DEFINITION. Lookups in the tables, the tries and the TCAM (R177 to R194, R203 to R207), the layer-2 update port
(R185, R186), and errors of protected words (R198, R199). -/

namespace Sys2Proof.Machine

/-! ### Errors of protected words -/

/-- The kinds of words that keep a history (`WordSt`). -/
inductive WordKind
  | node | l2 | lpm4 | lpm6 | exact | profile | hop | meterBank | group | autState | cell | route
  deriving DecidableEq, Repr

def WordKind.code : WordKind → Nat
  | .node => 0 | .l2 => 1 | .lpm4 => 2 | .lpm6 => 3 | .exact => 4 | .profile => 5 | .hop => 6 | .meterBank => 7
  | .group => 8 | .autState => 9 | .cell => 10 | .route => 11

/-- An error of a word: whether it is the second within 1 s of the last, and the device with its instant kept. -/
def Dev.wordError (d : Dev) (k : WordKind) (n w : Nat) : Bool × Dev :=
  let key := k3 k.code n w
  let last := Map.get 0 d.words.seen key
  (decide (last ≠ 0) && decide (d.now + 1 ≤ last + tSec),
   { d with words := { d.words with seen := Map.set 0 d.words.seen key (d.now + 1) } })

def Dev.wordDown (d : Dev) (k : WordKind) (n w : Nat) : Bool := decide ((k.code, n, w) ∈ d.words.down)
def Dev.setDown (d : Dev) (k : WordKind) (n w : Nat) (on : Bool) : Dev :=
  let rest := d.words.down.filter (fun x => x ≠ (k.code, n, w))
  { d with words := { d.words with down := if on then (k.code, n, w) :: rest else rest } }

/-- A spare unit was consumed (R7). -/
def Dev.spareUsed (d : Dev) (code : EvCode) : Dev := d.autumn .HLT_AUTUMN_CAUSE_SPARE code

/-- The 4 MiB block of table memory that byte `off` of area `i` (Table 2-6) lies in. -/
def Dev.tableBlock (d : Dev) (i off : Nat) : Nat :=
  ((List.range i).foldl (fun s j => s + d.carve j * 1048576) 0 + off) / 4194304

/-- A hard fault of a word of area `i` at byte `off` (R199): a spare word of its block, or, with none left, WINTER for
the areas every region uses and the isolation of region `n` for EXACT and ACTION. -/
def Dev.tableHard (d : Dev) (i off n : Nat) : Dev :=
  let b := d.tableBlock i off
  let used := Map.get 0 d.tbl.spares b
  if used < 64 then
    let d1 := { d with tbl := { d.tbl with spares := Map.set 0 d.tbl.spares b (used + 1) } }
    ((d1.satInc .TBL_SPARES_USED 0 0 1).record .TBL_WORD_SPARED 5 0 (payloadOf [])).spareUsed
      .TBL_WORD_SPARED
  else if i < 4 then
    (d.record .TBL_SHARED_MEMORY_FAILED 5 0 (payloadOf [])).winterCause .HLT_CAUSE_CORE_FATAL
      EvCode.TBL_SHARED_MEMORY_FAILED.code
  else
    (d.record .TBL_REGION_MEMORY_FAILED 0 0 (payloadOf [])).isolateRegion n
      EvCode.TBL_REGION_MEMORY_FAILED.code

/-- TBL_LAST_PARITY and the record of a parity error; `flags` is bit 0 STATIC, bit 1 LOCK. -/
def Dev.noteParity (d : Dev) (table n w flags src : Nat) : Dev :=
  ((((d.set0 .TBL_LAST_PARITY_TABLE table).set0 .TBL_LAST_PARITY_REGION n).set0 .TBL_LAST_PARITY_WORD w).record
    .TBL_PARITY 4 src (payloadOf [(1, table), (1, n), (4, w), (1, flags)])).raise (288 + src)

/-! ### The layer-2 table -/

def Dev.l2Row (d : Dev) (r : Nat) : Option L2Entry := Map.get none d.tbl.l2 r
/-- The 48 bytes of a layer-2 entry (Table 7-5). -/
def l2Bytes (e : L2Entry) : Bytes :=
  let flags := 1 + 2 * b2n e.static_ + 4 * b2n e.lock + 8 * b2n e.hit + 16 * b2n e.moving + 32 * b2n e.daDrop +
    64 * b2n e.saDrop + 128 * b2n e.copyHost
  beBytes 6 e.mac ++ leBytes 2 e.vid ++ leBytes 1 flags ++ leBytes 1 e.destType ++ leBytes 2 e.dest ++
    leBytes 2 e.action ++ leBytes 1 e.cls ++ leBytes 1 0 ++ leBytes 4 e.learnTime ++ leBytes 2 e.moves ++
    List.replicate 26 0

/-- A row takes an entry; a change other than of HIT goes to the standby as a SYNC record (R390). -/
def Dev.setL2 (d : Dev) (r : Nat) (e : Option L2Entry) : Dev :=
  let d1 := { d with tbl := { d.tbl with l2 := Map.set none d.tbl.l2 r e } }
  let bare (x : Option L2Entry) : Option L2Entry := x.map (fun e => { e with hit := false, moving := false })
  if bare (d.l2Row r) = bare e then d1
  else d1.syncRow r ((e.map l2Bytes).getD (List.replicate 48 0))

/-- The candidate rows of a layer-2 key. -/
def Dev.l2Cands (d : Dev) (mac vid : Nat) : List Nat := candidates d.l2Rows (l2Key mac vid)

/-- A layer-2 lookup. -/
def Dev.l2Find (d : Dev) (mac vid : Nat) : Option (Nat × L2Entry) :=
  (d.l2Cands mac vid).findSome? (fun r =>
    match d.l2Row r with
    | some e => if e.mac = mac ∧ e.vid = vid then some (r, e) else none
    | none => none)

/-- Every row that holds the key is changed by `f`: two rows while the entry moves (R187). -/
def Dev.l2Update (d : Dev) (mac vid : Nat) (f : L2Entry → L2Entry) : Dev :=
  (d.l2Cands mac vid).foldl (fun d r =>
    match d.l2Row r with
    | some e => if e.mac = mac ∧ e.vid = vid then d.setL2 r (some (f e)) else d
    | none => d) d

/-- A parity error of a layer-2 row: the row is invalidated (R198). -/
def Dev.l2Parity (d : Dev) (n r : Nat) : Dev :=
  let flags := match d.l2Row r with
    | some e => b2n e.static_ + 2 * b2n e.lock
    | none => 0
  let e := (((d.setL2 r none).count .TBL_PARITY_L2 0).noteParity 0 0 r flags n).wordError .l2 0 r
  if e.1 then e.2.tableHard 1 (32 * r) n else e.2

/-! ### The exact-match tables -/

def Dev.exRow (d : Dev) (n r : Nat) : Option ExEntry := Map.get none d.tbl.exact (k2 n r)
def Dev.setEx (d : Dev) (n r : Nat) (e : Option ExEntry) : Dev :=
  { d with tbl := { d.tbl with exact := Map.set none d.tbl.exact (k2 n r) e } }
def Dev.exCands (d : Dev) (key : Nat) : List Nat := candidates d.exactRows (exactKey key)

def Dev.exFind (d : Dev) (n key : Nat) : Option (Nat × ExEntry) :=
  (d.exCands key).findSome? (fun r =>
    match d.exRow n r with
    | some e => if e.key = key then some (r, e) else none
    | none => none)

def Dev.exUpdate (d : Dev) (n key : Nat) (f : ExEntry → ExEntry) : Dev :=
  (d.exCands key).foldl (fun d r =>
    match d.exRow n r with
    | some e => if e.key = key then d.setEx n r (some (f e)) else d
    | none => d) d

/-- A parity error of an exact-match row (R198). -/
def Dev.exParity (d : Dev) (n r : Nat) : Dev :=
  let lock := (d.exRow n r).any (·.lock)
  let e := (((d.setEx n r none).count .TBL_PARITY_EXACT n).noteParity 3 n r (2 * b2n lock) n).wordError .exact n r
  if e.1 then e.2.tableHard 4 (n * (d.carve 4 / 4) * 1048576 + 64 * r) n else e.2

/-! ### Relocation (R186, R187) -/

/-- A table of the update port: 4 is layer 2, 0 to 3 a region's exact-match table. -/
def Dev.rowFree (d : Dev) (t r : Nat) : Bool := if t = 4 then (d.l2Row r).isNone else (d.exRow t r).isNone
def Dev.rowLocked (d : Dev) (t r : Nat) : Bool :=
  if t = 4 then (d.l2Row r).any (fun e => e.lock || e.moving) else (d.exRow t r).any (fun e => e.lock || e.moving)
def Dev.rowCands (d : Dev) (t r : Nat) : List Nat :=
  if t = 4 then ((d.l2Row r).map (fun e => d.l2Cands e.mac e.vid)).getD []
  else ((d.exRow t r).map (fun e => d.exCands e.key)).getD []

/-- A path of exactly `n` moves that frees row `r`: the rows in order, `r` first; each occupant but the last goes to the
next row of the path.  Ways are tried in ascending order. -/
def Dev.pathOf (d : Dev) (t : Nat) : Nat → Nat → List Nat → Option (List Nat)
  | 0, r, _ => if d.rowFree t r then some [r] else none
  | n + 1, r, seen =>
    if d.rowFree t r ∨ d.rowLocked t r then none
    else (d.rowCands t r).findSome? (fun c =>
      if c ∈ seen then none else (d.pathOf t n c (c :: seen)).map (fun p => r :: p))

/-- The shortest path of at most 3 moves that frees a row of a candidate set (R186). -/
def Dev.findPath (d : Dev) (t : Nat) (cands : List Nat) : Option (List Nat) :=
  [0, 1, 2, 3].findSome? (fun n => cands.findSome? (fun r => d.pathOf t n r [r]))

/-- The moves of a path, far end first. -/
def movesOf (p : List Nat) : List (Nat × Nat) := (p.zip (p.drop 1)).reverse

def Dev.setReloc (d : Dev) (r : Option Reloc) : Dev := { d with tbl := { d.tbl with reloc := r } }

/-- Step 1 of a move: the occupant is written to its new row, and both rows read MOVING. -/
def Dev.moveWrite (d : Dev) (t a b : Nat) : Dev :=
  if t = 4 then
    match d.l2Row a with
    | some e => (d.setL2 b (some { e with moving := true })).setL2 a (some { e with moving := true })
    | none => d
  else match d.exRow t a with
    | some e => (d.setEx t b (some { e with moving := true })).setEx t a (some { e with moving := true })
    | none => d

/-- Step 2 of a move: the old row is invalidated and MOVING clears (R186). -/
def Dev.moveDrop (d : Dev) (t a b : Nat) : Dev :=
  let d1 := if t = 4 then (match d.l2Row b with
      | some e => (d.setL2 b (some { e with moving := false })).setL2 a none
      | none => d.setL2 a none)
    else (match d.exRow t b with
      | some e => (d.setEx t b (some { e with moving := false })).setEx t a none
      | none => d.setEx t a none)
  d1.count .TBL_RELOCATIONS 0

/-- The new entry is written last. -/
def Dev.relocWrite (d : Dev) (r : Reloc) : Dev :=
  match r.l2, r.ex with
  | some e, _ => d.setL2 r.target (some e)
  | none, some e => d.setEx r.table r.target (some e)
  | none, none => d

end Sys2Proof.Machine
end

