-- ==== Sys2Proof/Machine/Search.lean ====
section
/-! DEFINITION. The TCAM's partitions and search (R203 to R207) and the pattern automata's scan (R213 to R219). -/

namespace Sys2Proof.Machine

/-! ### Partitions (Table 2-5, R203, R204) -/

structure TcamPart where
  id : Nat
  first : Nat
  banks : Nat
  wide : Bool
  prio : Bool
  mask : Nat
  deriving DecidableEq, Repr

/-- The partitions of a TCAM section. -/
def partsOf (body : Bytes) : List TcamPart :=
  (List.range (leAt body 0 2)).map (fun i =>
    let o := 8 + 16 * i
    { id := leAt body o 1, first := leAt body (o + 1) 1, banks := leAt body (o + 2) 1, wide := leAt body (o + 3) 1 == 1
      prio := leAt body (o + 4) 1 == 1, mask := leAt body (o + 5) 1 })

def Dev.tcamPart (d : Dev) (id : Nat) : Option TcamPart := (partsOf (d.section 5 4)).find? (fun p => p.id == id)

/-- Logical entries of a partition. -/
def TcamPart.size (p : TcamPart) : Nat := p.banks * (if p.wide then 512 else 1024)

/-- The bank of a logical index; the even one of a pair. -/
def TcamPart.bank (p : TcamPart) (i : Nat) : Nat := p.first + (if p.wide then 2 else 1) * (i / 1024)

/-- The physical address of an entry. -/
def TcamPart.phys (p : TcamPart) (i : Nat) : Nat := p.bank i * 1024 + i % 1024

def Dev.tcamEntry (d : Dev) (part i : Nat) : Option TcamEntry := Map.get none d.search.tcam (k2 part i)
def Dev.setTcam (d : Dev) (part i : Nat) (e : Option TcamEntry) : Dev :=
  { d with search := { d.search with tcam := Map.set none d.search.tcam (k2 part i) e } }

/-- The better of two matches (R207). -/
def TcamPart.better (p : TcamPart) (a b : Nat × TcamEntry) : Bool :=
  if p.prio then decide (b.2.prio < a.2.prio) || (decide (a.2.prio = b.2.prio) && decide (a.1 < b.1))
  else decide (a.1 < b.1)

/-- A search of the partition's banks that are set in `banks`. -/
def Dev.tcamSearch (d : Dev) (p : TcamPart) (key banks : Nat) : Option (Nat × TcamEntry) :=
  d.search.tcam.foldl (fun best x =>
    let k := Nat.unpair x.1
    match x.2 with
    | none => best
    | some e =>
      if k.1 = p.id ∧ bitOf banks (p.bank k.2) ∧ Nat.land (Nat.xor key e.value) e.mask = 0 then
        match best with
        | none => some (k.2, e)
        | some b => if p.better (k.2, e) b then some (k.2, e) else best
      else best) none

/-- The TCAM search of a frame under its profile (R205, R207): `none` not looked up, `some none` a miss. -/
def Dev.tcamLookup (d : Dev) (bs : Bytes) (p : ParseRes) (prof : Bytes) :
    Option (TcamPart × Nat × Option (Nat × TcamEntry)) :=
  if !profileFlag prof 3 then none
  else (d.tcamPart (leAt prof 0xE 1)).map (fun part =>
    let banks := leAt prof 0x70 8
    (part, banks, d.tcamSearch part (buildKey bs p prof (leAt prof 0x7A 2) (if part.wide then 640 else 320)) banks))

/-! ### The automata's image (Tables 8-3, 8-4) -/

/-- Where the state image starts in the AUTO section. -/
def autoBase (body : Bytes) : Nat := 8 + 16 * leAt body 0 2

def autoWord (body : Bytes) (w : Nat) : Nat := leAt body (autoBase body + 4 * w) 4

/-- A pattern set. -/
structure PatSet where
  start : Nat
  map : Nat
  noMatch : Nat
  stream : Bool
  overload : Nat
  limit : Nat
  deriving DecidableEq, Repr

def patSetOf (body : Bytes) (k : Nat) : PatSet :=
  let o := autoBase body + 0x10 + 16 * k
  { start := leAt body o 4, map := leAt body (o + 4) 4, noMatch := leAt body (o + 0xA) 2, stream := leAt body (o + 0xC) 1 == 1
    overload := leAt body (o + 0xD) 1, limit := leAt body (o + 0xE) 2 }

def Dev.patSet (d : Dev) (k : Nat) : PatSet := patSetOf (d.section 6 4) k

/-- The action of a pattern. -/
def Dev.patAction (d : Dev) (pat : Nat) : Nat :=
  match findRec (d.section 6 4) 16 2 pat with
  | some r => leAt r 4 2
  | none => 0xFFFF

/-- One byte: the next state. -/
def autoNext (body : Bytes) (map st : Nat) (b : Byte) : Nat :=
  autoWord body (st + 1 + leAt body (autoBase body + map + b.toNat) 1) % 2 ^ 21

/-- A scan from a state: the end state and the first match, as pattern and number of bytes before its last one
(R215).  With `all` it goes on to the end of the bytes. -/
def autoScan (body : Bytes) (map : Nat) (all : Bool) : Bytes → Nat → Nat → Option (Nat × Nat) → Nat × Option (Nat × Nat)
  | [], st, _, m => (st, m)
  | b :: bs, st, i, m =>
    let nx := autoNext body map st b
    let h := autoWord body nx
    let m1 := match m with
      | some x => some x
      | none => if bitOf h 31 then some (h % 4096, i) else none
    if m1.isSome && !all then (nx, m1) else autoScan body map all bs nx (i + 1) m1

/-! ### Stream flows (R219) -/

/-- Rows per way of the flow table. -/
def flowRows : Nat := 8192

/-- The flow of a frame: its key bytes, and the position of its TCP header. -/
def Dev.flowOf (d : Dev) (bs : Bytes) (p : ParseRes) (set : Nat) : Option (Bytes × Nat) :=
  let t := d.f0 .AUT_FLOW_TYPES_TCP
  let i := (List.range p.stack.length).reverse.find? (fun i => ((p.stack[i]?).map (·.type)) == some t)
  match i with
  | none => none
  | some i =>
    if t = 0xFF ∨ i = 0 then none
    else match p.stack[i - 1]?, p.stack[i]? with
      | some ip, some tcp =>
        let ports := slice bs tcp.start 4
        if ip.type = d.f0 .AUT_FLOW_TYPES_IP4 ∧ ip.type ≠ 0xFF then
          some (slice bs (ip.start + 12) 8 ++ ports ++ leBytes 1 set, tcp.start)
        else if ip.type = d.f0 .AUT_FLOW_TYPES_IP6 ∧ ip.type ≠ 0xFF then
          some (slice bs (ip.start + 8) 32 ++ ports ++ leBytes 1 set, tcp.start)
        else none
      | _, _ => none

/-- The number a flow key stands for: its length distinguishes IPv4 from IPv6. -/
def flowKey (k : Bytes) : Nat := beNat (1 :: k)

def Dev.flowFind (d : Dev) (k : Bytes) : Option (Nat × AutFlow) :=
  (candidates flowRows k).findSome? (fun r =>
    match Map.get none d.search.flows r with
    | some f => if f.key = flowKey k then some (r, f) else none
    | none => none)

def Dev.setFlow (d : Dev) (r : Nat) (f : Option AutFlow) : Dev :=
  { d with search := { d.search with flows := Map.set none d.search.flows r f } }

/-- The flow row that a new flow takes. -/
def Dev.flowFree (d : Dev) (k : Bytes) : Option Nat :=
  (candidates flowRows k).find? (fun r => (Map.get none d.search.flows r).isNone)

/-- The inspection queue of a region: frame numbers in the order in which they entered. -/
def Dev.inspectQ (d : Dev) (n : Nat) : List Nat := Map.get [] d.search.inspect n
def Dev.setInspectQ (d : Dev) (n : Nat) (l : List Nat) : Dev :=
  { d with search := { d.search with inspect := Map.set [] d.search.inspect n l } }

end Sys2Proof.Machine
end

