-- ==== Sys2Proof/Machine/TableOps.lean ====
section
/-! DEFINITION. The layouts of table entries (Tables 7-5, 7-8, 9-4), the transaction rings (R195, R196) and the changes
of the tables that frames, transactions and the learn engine share. -/

namespace Sys2Proof.Machine

/-! ### Layouts -/

/-- The layer-2 entry that bytes spell; MOVING is read only. -/
def l2Of (b : Bytes) : L2Entry :=
  let f := leAt b 8 1
  { mac := beAt b 0 6, vid := leAt b 6 2 % 4096, static_ := bitOf f 1, lock := bitOf f 2, hit := bitOf f 3, moving := false
    daDrop := bitOf f 5, saDrop := bitOf f 6, copyHost := bitOf f 7, destType := leAt b 9 1, dest := leAt b 0xA 2
    action := leAt b 0xC 2, cls := leAt b 0xE 1, learnTime := leAt b 0x10 4, moves := leAt b 0x14 2 }

/-- The 64 bytes of an exact-match entry (Table 7-8). -/
def exBytes (e : ExEntry) : Bytes :=
  leBytes 40 e.key ++ leBytes 2 e.action ++ leBytes 1 (1 + 4 * b2n e.lock + 8 * b2n e.hit + 16 * b2n e.moving) ++
    leBytes 1 0 ++ slice e.data 0 20

def exOf (b : Bytes) : ExEntry :=
  let f := leAt b 0x2A 1
  { key := leAt b 0 40, action := leAt b 0x28 2, lock := bitOf f 2, hit := bitOf f 3, moving := false
    data := slice b 0x2C 20 }

/-- The 16 bytes of a next-hop record (Table 9-4). -/
def hopBytes (h : NextHop) : Bytes :=
  leBytes 1 (1 + 2 * b2n h.ttlDec + 4 * b2n h.setDmac + 8 * b2n h.setSmac) ++ leBytes 1 h.destType ++ leBytes 2 h.dest ++
    leBytes 2 (h.vid + 32768 * b2n h.vidReplace) ++ leBytes 2 h.action ++ beBytes 6 h.dmac ++ leBytes 2 0

def hopOf (b : Bytes) : Option NextHop :=
  let f := leAt b 0 1
  if bitOf f 0 then some
    { ttlDec := bitOf f 1, setDmac := bitOf f 2, setSmac := bitOf f 3, destType := leAt b 1 1, dest := leAt b 2 2
      vid := leAt b 4 2 % 4096, vidReplace := bitOf (leAt b 4 2) 15, action := leAt b 6 2, dmac := beAt b 8 6 }
  else none

def Dev.hop (d : Dev) (n i : Nat) : Option NextHop := Map.get none d.tbl.hops (k2 n i)
def Dev.setHop (d : Dev) (n i : Nat) (h : Option NextHop) : Dev :=
  { d with tbl := { d.tbl with hops := Map.set none d.tbl.hops (k2 n i) h } }

/-! ### Errors that reads meet (R198, R199, R246) -/

/-- A trie node with a parity error: lookups through it take the default route action until it is rebuilt. -/
def Dev.nodeLost (d : Dev) (n : Nat) (x : TrieNode) (w : Nat) : Dev :=
  let t := if x.v6 then 2 else 1
  let d1 := (d.count .TBL_PARITY_LPM 0).noteParity t 0 w 0 n
  let e := d1.wordError (if x.v6 then .lpm6 else .lpm4) 0 w
  let down := if e.2.tbl.nodesDown.any (fun y => y.1 == x) then e.2
    else { e.2 with tbl := { e.2.tbl with nodesDown := (x, w) :: e.2.tbl.nodesDown } }
  if e.1 then down.tableHard (if x.v6 then 3 else 2) (8 * w) n else down

/-- Whether a node lies on the way to an address, whose family is `key.1`. -/
def TrieNode.on (x : TrieNode) (key : Bool × Nat) : Bool :=
  key.1 == x.v6 && decide (key.2 / 2 ^ ((if x.v6 then 128 else 32) - x.bits) = x.path)

/-- The reads of some rows of the layer-2 table, of region `g`'s exact-match table, and of the nodes of the tries that `on`
selects, meet `faults`: what they find in error is invalidated or down before the operation goes on. -/
def Dev.readFaults (d : Dev) (n : Nat) (l2rows : List Nat) (g : Nat) (exrows : List Nat) (on : TrieNode → Nat → Bool)
    (faults : List ReadFault) : Dev :=
  faults.foldl (fun d f => match f with
    | .l2 r => if r ∈ l2rows then d.l2Parity n r else d
    | .exact r => if r ∈ exrows then d.exParity g r else d
    | .trie v6 bits path w => if on ⟨v6, bits, path⟩ w then d.nodeLost n ⟨v6, bits, path⟩ w else d
    | _ => d) d

/-- A read of next-hop record `i` of region `n`: a parity error invalidates it, and the second one of its word within 1 s is
a hard fault of the ACTION quarter (R199, R246). -/
def Dev.hopRead (d : Dev) (n i : Nat) (faults : List ReadFault) : Dev :=
  if .hop i ∈ faults then
    let d1 := (((d.setHop n i none).count .ACT_NH_PARITY n).record .NEXT_HOP_PARITY 4 n (payloadOf [(1, n), (4, i)])).raise
      (288 + n)
    let d2 := ((d1.set0 .TBL_LAST_PARITY_TABLE 4).set0 .TBL_LAST_PARITY_REGION n).set0 .TBL_LAST_PARITY_WORD i
    let e := d2.wordError .hop n i
    if e.1 then e.2.tableHard 5 (n * (d.carve 5 / 4) * 1048576 + 131072 + 16 * i) n else e.2
  else d

/-! ### Transaction rings -/

/-- The host answers DMA: it is attached and PF0 is not in D3hot (R94, R426). -/
def Dev.hostDma (d : Dev) (f : Nat) : Bool := !d.host.lost && decide (f ∉ d.host.d3hot)

/-- Whether region `n`'s TBL ring takes a descriptor: enabled, not halted, one posted, the region in service. -/
def Dev.tblReady (d : Dev) (n : Nat) : Bool :=
  d.b1 .TBL_RING_CTRL_ENABLE n && !d.b1 .TBL_RING_STATUS_HALTED n && d.b1 .TBL_STATUS_READY 0 &&
  decide (d.f1 .TBL_RING_HEAD n ≠ d.f1 .TBL_RING_TAIL n) && !d.regionIsolated n && d.hostDma 0

/-- Where descriptor `i` of region `n`'s TBL ring stands in host memory. -/
def Dev.tblAddr (d : Dev) (n i : Nat) : Nat :=
  d.f1 .TBL_RING_BASE_HI n * 2 ^ 32 + d.f1 .TBL_RING_BASE_LO n * 64 + 64 * i

/-- A descriptor with its STATUS, ROW and DATA written back. -/
def tblBack (desc : Bytes) (status row : Nat) (data : Bytes) : Bytes :=
  patch (patch (patch desc 3 (leBytes 1 status)) 4 (leBytes 4 row)) 0x10 data

/-- HEAD moves on by `k` descriptors. -/
def Dev.tblAdvance (d : Dev) (n k : Nat) : Dev :=
  d.set1 .TBL_RING_HEAD n ((d.f1 .TBL_RING_HEAD n + k) % max 1 (d.f1 .TBL_RING_SIZE n))

/-- The descriptor at index `i` completes; FLAGS bit 2 asks for the region's interrupt (Table 7-9, Table 16-7). -/
def Dev.tblDone (d : Dev) (n i : Nat) (desc : Bytes) (status row : Nat) (data : Bytes) : Dev :=
  let d1 := d.emit (.hostWrite (d.tblAddr n i) (tblBack desc status row data))
  if bitOf (leAt desc 2 1) 2 then d1.raise (288 + n) else d1

/-- Status codes of Table 7-11. -/
def stOk : Nat := 1
def stNotFound : Nat := 2
def stReplaced : Nat := 3
def stNoSpace : Nat := 4
def stMoving : Nat := 5
def stWrongRow : Nat := 6
def stBad : Nat := 7

/-- Rows of a table that ROW may name. -/
def Dev.tableRows (d : Dev) : Nat → Nat
  | 0 => 8 * d.l2Rows
  | 1 => d.carve 2 * 16384
  | 2 => d.carve 3 * 16384
  | 3 => 8 * d.exactRows
  | _ => d.nhCapacity

/-- An exact-match row takes two descriptors; `next` is the second. -/
def tblWide (desc : Bytes) : Bool := decide (leAt desc 0 1 ≤ 2) && decide (leAt desc 1 1 = 3)

/-- Whether the second descriptor belongs to the transaction. -/
def tblCont (desc next : Bytes) : Bool := decide (leAt desc 1 1 = 3) && decide (leAt next 0 1 = 0x0F)

/-- A descriptor that halts its ring (R196). -/
def Dev.tblBad (d : Dev) (desc next : Bytes) : Bool :=
  let op := leAt desc 0 1
  let t := leAt desc 1 1
  let known : Bool := match op with
    | 1 => decide (t ≤ 4) | 2 => decide (t ≤ 4)
    | 3 => t == 0 || t == 3 | 4 => t == 0 || t == 3 | 5 => t == 0 || t == 3
    | 6 => t == 1 || t == 2 | 7 => t == 1 || t == 2 | 8 => t == 1 || t == 2
    | 9 => t == 0
    | _ => false
  !known || decide (3 < leAt desc 0xB 1) || (decide (op ≤ 2) && decide (d.tableRows t ≤ leAt desc 4 4)) ||
  (decide (6 ≤ op) && decide (op ≤ 8) && decide ((if t = 1 then 32 else 128) < leAt desc 0xA 1)) ||
  decide (8 ≤ leAt desc 2 1) || decide (leAt desc 0xC 4 ≠ 0) || (tblWide desc && !tblCont desc next)

/-- A second descriptor that halts its ring: its TABLE or REGION out of range, or reserved bits set. -/
def tblNextBad (desc next : Bytes) : Bool :=
  tblCont desc next && (decide (4 < leAt next 1 1) || decide (3 < leAt next 0xB 1) || decide (8 ≤ leAt next 2 1) ||
    decide (leAt next 0xC 4 ≠ 0))

/-- The data of a transaction: 48 bytes, and 16 of the second descriptor for an exact-match entry. -/
def tblData (desc next : Bytes) : Bytes :=
  slice desc 0x10 48 ++ (if tblCont desc next then slice next 0x10 16 else List.replicate 16 0)

/-! ### The end of a relocation -/

/-- The relocation ends: the new entry is written; a learn is counted, a transaction is written back (R184, R186). -/
def Dev.relocEnd (d : Dev) (r : Reloc) : Dev :=
  let d1 := (d.relocWrite r).setReloc none
  match r.back with
  | none => d1.count .TBL_LEARNED 0
  | some (at_, desc) =>
    let k := Nat.unpair at_
    d1.tblDone k.1 k.2 desc stOk r.target (slice desc 0x10 48)

/-- The relocation in progress is brought to its end: the update port applies one change at a time (R185, R197). -/
def Dev.settle (d : Dev) : Dev :=
  match d.tbl.reloc with
  | none => d
  | some r =>
    let d1 := match r.open_ with
      | none => d
      | some (a, b, _) => d.moveDrop r.table a b
    let d2 := r.moves.foldl (fun d m => (d.moveWrite r.table m.1 m.2).moveDrop r.table m.1 m.2) d1
    d2.relocEnd r

/-! ### Requests of the learn path (R181 to R183) -/

/-- A member that may change its layer-2 table by itself: unpaired or ACTIVE (R390). -/
def Dev.ownTables (d : Dev) : Bool := d.f0 .PAIR_STATUS_ROLE == 0 || d.f0 .PAIR_STATUS_ROLE == 4

/-- The ageing pass runs: in SUMMER and AUTUMN, over loaded tables, on a device that ages on its own (R189, R390). -/
def Dev.ages (d : Dev) : Bool := d.forwards && d.b1 .TBL_STATUS_READY 0 && d.ownTables

/-- A learn that a bucket or the full queue refuses: TBL_LEARN_RATE_LIMITED carries the count and the busiest port. -/
def Dev.refuseLearn (d : Dev) (p : Nat) : Dev :=
  let due := d.limitDue .TBL_LEARN_RATE_LIMITED 0 tSec
  let m := Map.update 0 d.tbl.refused p (· + 1)
  let total := m.foldl (fun n x => n + x.2) 0
  let busiest := (m.foldl (fun (b : Nat × Nat) x => if b.2 < x.2 then x else b) (0, 0)).1
  let d1 := { d with tbl := { d.tbl with refused := if due then [] else m } }
  (d1.count .TBL_LEARN_RATE_DROP 0).recordLimited .TBL_LEARN_RATE_LIMITED 0 tSec 1 busiest
    (payloadOf [(4, total), (1, busiest)])

/-- A learn request: the port's bucket, the device's bucket, then the queue, where a request for a queued key merges. -/
def Dev.learnRequest (d : Dev) (r : LearnReq) : Dev :=
  let d0 := (d.count .TBL_LEARN_REQ (r.port / 32)).perf (r.port / 32) 0x130 0xFF 1
  let pb := takeTokens (Map.get none d0.tbl.learnBkt r.port) (d0.fld .TBL_PORT_LEARN_LIMIT (r.port / 32) (r.port % 32))
    (64 * tSec) tSec d0.now
  let d1 := { d0 with tbl := { d0.tbl with learnBkt := Map.set none d0.tbl.learnBkt r.port pb.2 } }
  if !pb.1 then d1.refuseLearn r.port
  else
    let db := takeTokens d1.tbl.learnDev 32000000 (1024 * tSec) tSec d1.now
    let d2 := { d1 with tbl := { d1.tbl with learnDev := db.2 } }
    if !db.1 then d2.refuseLearn r.port
    else if d2.tbl.learnQ.any (fun q => q.mac == r.mac && q.vid == r.vid) then d2
    else if 4096 ≤ d2.tbl.learnQ.length then d2.refuseLearn r.port
    else { d2 with tbl := { d2.tbl with learnQ := d2.tbl.learnQ ++ [r] } }

/-- A station move (Table 7-6); one that meets its entry's relocation is applied after it. -/
def Dev.stationMove (d : Dev) (mac vid destType dest : Nat) : Dev :=
  let secs := d.opMs / 1000 % 2 ^ 32
  let d1 := if d.tbl.reloc.any (fun r => r.table == 4) then d.settle else d
  (d1.l2Update mac vid (fun e => { e with
    destType := destType, dest := dest, hit := true, learnTime := secs, moves := satAdd 16 e.moves 1 })).count
    .TBL_STATION_MOVE 0

/-! ### Placing an entry (R184, R186, R195) -/

/-- An entry takes a free row of its candidate set, or starts the relocation that frees one; `none` where no path
exists. -/
def Dev.place (d : Dev) (t : Nat) (cands : List Nat) (l2 : Option L2Entry) (ex : Option ExEntry)
    (back : Option (Nat × Bytes)) : Option Dev :=
  (d.findPath t cands).map (fun p =>
    let r : Reloc := { table := t, moves := movesOf p, open_ := none, target := p.headD 0, l2 := l2, ex := ex, back := back }
    if r.moves.isEmpty then d.relocEnd r else d.setReloc (some r))

end Sys2Proof.Machine
end

