-- ==== Sys2Proof/Machine/Resolve.lean ====
section
/-! DEFINITION. Action resolution (R225 to R234), meters (R238 to R240), flow counters (R241) and the staging of
capture records (R243, R245). -/

namespace Sys2Proof.Machine

/-! ### Action profiles (Table 9-1) and port defaults (Table 9-2) -/

structure Profile where
  fwd : Nat
  flags : Nat
  dest : Nat
  cls : Nat
  hold : Nat
  meter : Nat
  precolour : Nat
  counter : Nat
  mirror : Nat
  dscp : Nat
  pcp : Nat
  vlanOp : Nat
  vid : Nat
  inspect : Nat
  recircProfile : Nat
  recircNode : Nat
  deriving DecidableEq, Repr

def profileOf (r : Bytes) : Profile :=
  { fwd := leAt r 2 1, flags := leAt r 3 1, dest := leAt r 4 2, cls := leAt r 6 1, hold := leAt r 7 1, meter := leAt r 8 2
    precolour := leAt r 0xA 1, counter := leAt r 0xC 2, mirror := leAt r 0xE 2, dscp := leAt r 0x10 1, pcp := leAt r 0x11 1
    vlanOp := leAt r 0x12 1, vid := leAt r 0x14 2, inspect := leAt r 0x16 1, recircProfile := leAt r 0x17 1
    recircNode := leAt r 0x18 1 }

/-- The profile of an index; 0xFFFF, or an index the section lacks, contributes nothing. -/
def Dev.profile (d : Dev) (n id : Nat) : Option Profile :=
  if id = 0xFFFF then none else (findRec (d.section 7 n) 32 2 id).map profileOf

/-- The defaults record of a front port. -/
def Dev.defaults (d : Dev) (p : Nat) : Option Bytes :=
  let body := d.section 7 (p / 32)
  if p < 128 ∧ body ≠ [] then some (slice body (8 + 32 * leAt body 0 2 + 16 * (p % 32)) 16) else none

/-- A forwarding value by type: 0 port, 1 group, 2 device (Tables 7-5, 9-2, 9-4). -/
def fwdOf (type dest : Nat) : Fwd := match type with
  | 0 => .port dest
  | 1 => .group dest
  | 2 => .device dest
  | _ => .drop

/-- DEFAULT_TYPE and DEFAULT_DEST (FORWARD_DEFAULT); a frame without a defaults record is dropped (R231). -/
def Dev.defaultFwd (d : Dev) (p : Nat) : Fwd :=
  match d.defaults p with
  | none => .drop
  | some r => fwdOf (leAt r 0 1) (leAt r 2 2)

/-- The default internal class of a frame: CLASS of its fabric header, or DEFAULT_CLASS (R226, R351). -/
def Dev.defaultClass (d : Dev) (rx : Rx) : Nat :=
  match rx.dflt with
  | some c => c.1
  | none => ((d.defaults rx.port).map (fun r => leAt r 1 1)).getD 0

/-- PRS_PORT_CFG.DEFAULT_ACTION of INGRESS_PORT, as it stood when the parse result became final (R165); entry 32 is port
132's. -/
def Dev.defaultAction (d : Dev) (rx : Rx) : Nat :=
  rx.dfltAct.getD <| if rx.port < 128 then d.fld .PRS_PORT_CFG_DEFAULT_ACTION (rx.port / 32) (rx.port % 32)
  else d.fld .PRS_PORT_CFG_DEFAULT_ACTION rx.region 32

/-- The length of R108: with the FCS that a host frame gets at egress. -/
def Rx.len (rx : Rx) : Nat := rx.bytes.length + (if rx.hasFcs then 0 else 4)

/-- The frame without its FCS. -/
def Rx.body (rx : Rx) : Bytes := if rx.hasFcs then rx.bytes.take (rx.bytes.length - 4) else rx.bytes

/-- The frame as received, and whether it had an FCS; a frame on its second pass was edited since. -/
def Rx.received (rx : Rx) : Bytes × Bool := rx.orig.getD (rx.bytes, rx.hasFcs)

/-- The R108 length of the frame as received. -/
def Rx.receivedLen (rx : Rx) : Nat := rx.received.1.length + (if rx.received.2 then 0 else 4)

/-- A frame of a port enters the digests as it was received (R384). -/
def Dev.digestRx (d : Dev) (rx : Rx) (record : Bytes) (aut : Nat) : Dev :=
  let b := rx.received.1
  d.digestFrame rx.port (if rx.received.2 then b.take (b.length - 4) else b) rx.receivedLen rx.cap record aut

/-! ### One source (R228, R229) -/

/-- The forwarding a profile sets, and whether a value from D was out of range. -/
def Profile.fwdValue (p : Profile) (data : Nat) : Fwd × Bool :=
  let fromData := bitOf p.flags 0
  let dest := if fromData then data % 65536 else p.dest
  match p.fwd with
  | 1 => if fromData ∧ 127 < dest then (.none, true) else (.port dest, false)
  | 2 => (.group dest, false)
  | 3 => if fromData ∧ (dest = 0 ∨ 254 < dest) then (.none, true) else (.device dest, false)
  | 4 => (.drop, false)
  | 5 => (.recirc p.recircProfile p.recircNode, false)
  | 6 => (.host, false)
  | _ => (.none, false)

/-- A source with its profile. -/
structure Src where
  s : Source
  p : Option Profile
  deriving DecidableEq, Repr

def Src.fwd (x : Src) : Fwd :=
  match x.p with
  | some p => if (p.fwdValue x.s.data).1 = .none then x.s.fwd else (p.fwdValue x.s.data).1
  | none => x.s.fwd

/-- The profile that sets the forwarding, 0xFFFF where the source itself does. -/
def Src.fwdProfile (x : Src) : Nat :=
  match x.p with
  | some p => if (p.fwdValue x.s.data).1 = .none then 0xFFFF else x.s.profile
  | none => 0xFFFF

def Src.skipped (x : Src) : Bool := x.p.any (fun p => (p.fwdValue x.s.data).2)

def Src.drops (x : Src) : Bool := x.s.fwd == .drop || x.fwd == .drop

/-- The first value that a source sets. -/
def firstSet {α : Type} (l : List Src) (f : Src → Option α) : Option α := l.findSome? f

def Src.cls (x : Src) : Option Nat :=
  let own := if x.s.cls = 0xFF then none else some x.s.cls
  match x.p with
  | some p => if p.cls = 0xFF then own else some p.cls
  | none => own

def Src.hold (x : Src) : Option Bool := x.p.bind (fun p => if p.hold = 0 then none else some (p.hold == 1))

/-- METER with PRECOLOUR. -/
def Src.meter (x : Src) : Option (Nat × Nat) := x.p.bind (fun p =>
  if bitOf p.flags 4 then some (bitsOf x.s.data 16 14, p.precolour)
  else if p.meter = 0xFFFF then none else some (p.meter, p.precolour))

def Src.counter (x : Src) : Option Nat := x.p.bind (fun p =>
  let c := if bitOf p.flags 5 then x.s.data % 65536 else p.counter
  if c = 0xFFFF then none else some c)

def Src.inspect (x : Src) : Option Nat := x.p.bind (fun p =>
  if x.s.rank = 1 ∨ p.inspect = 0xFF then none else some p.inspect)

/-- The counters a frame counts on: those of the two highest-ranked sources that name one (R228). -/
def countersOf (l : List Src) : List Nat := ((l.filterMap Src.counter).take 2).dedup

def mirrorsOf (l : List Src) : Nat := l.foldl (fun m x => Nat.lor m ((x.p.map (·.mirror)).getD 0)) 0

/-- Whether a source sets flag `b` of its profile. -/
def flagOf (l : List Src) (b : Nat) : Bool := l.any (fun x => x.p.any (fun p => bitOf p.flags b))

/-- The pattern set a frame is to be inspected with (R213). -/
def inspectOf (l : List Src) : Option Nat := firstSet l Src.inspect

/-! ### Meters (R238 to R240) -/

/-- Units of a meter's buckets in a byte. -/
def meterUnit : Nat := 3200000

def Meter.reset : Meter := ⟨0, 0, 0, 0, 0, false, 0, 0, 0, 0, 0, 0, 0, 0, 0, false⟩

def Dev.meter (d : Dev) (n i : Nat) : Meter := Map.get .reset d.act.meters (k2 n i)
def Dev.setMeter (d : Dev) (n i : Nat) (m : Meter) : Dev :=
  { d with act := { d.act with meters := Map.set .reset d.act.meters (k2 n i) m } }

/-- The buckets refilled up to now: RFC 2698 in MODE 0; RFC 2697 in MODE 1, where what overflows Tc fills Te. -/
def Meter.refill (m : Meter) (now : Nat) : Meter :=
  let dt := now - m.at_
  let cap := m.cbs * meterUnit
  let capP := m.pbs * meterUnit
  let c := m.tc + m.cir * dt
  if m.mode = 0 then { m with tc := min cap c, tp := min capP (m.tp + m.pir * dt), at_ := now }
  else { m with tc := min cap c, tp := min capP (m.tp + (c - cap)), at_ := now }

/-- The colour of a frame of `b` units and the buckets after it. -/
def Meter.judge (m : Meter) (b : Nat) (pre : Colour) : Colour × Meter :=
  if m.mode = 0 then
    if m.tp < b ∨ pre = .red then (.red, m)
    else if m.tc < b ∨ pre = .yellow then (.yellow, { m with tp := m.tp - b })
    else (.green, { m with tc := m.tc - b, tp := m.tp - b })
  else
    if b ≤ m.tc ∧ pre = .green then (.green, { m with tc := m.tc - b })
    else if b ≤ m.tp ∧ pre ≠ .red then (.yellow, { m with tp := m.tp - b })
    else (.red, m)

/-- The precolour of a frame: blind, from the DEI bit of its tag, or from its DSCP. -/
def Dev.precolour (d : Dev) (n kind : Nat) (bs : Bytes) (vlan ip : Option Hdr) : Colour :=
  let of (v : Nat) : Colour := if v = 0 then .green else if v = 1 then .yellow else .red
  match kind, vlan, ip with
  | 1, some h, _ => of (wireBits bs (8 * h.start + 3) 1)
  | 2, _, some h =>
    let dscp := if wireBits bs (8 * h.start) 4 = 6 then wireBits bs (8 * h.start + 4) 6 else wireBits bs (8 * h.start + 8) 6
    of (bitsOf (d.fld .ACT_DSCP_COLOUR n (dscp / 16)) (2 * (dscp % 16)) 2)
  | _, _, _ => .green

/-- A meter update: the colour, the action (0 pass, 1 drop, 2 reclass) and the class of a reclass.  A meter that lost its
parameters passes every frame green (Table 9-8). -/
def Dev.runMeter (d : Dev) (n i len : Nat) (pre : Colour) : Dev × Colour × Nat × Nat :=
  let m := (d.meter n i).refill d.now
  let b := ((len : Int) + signed 8 m.lenAdj).toNat * meterUnit
  let r := if m.lost then (.green, m) else m.judge b (if m.aware then pre else .green)
  let d1 := d.setMeter n i r.2
  if m.lost then (d1.count .MTR_GREEN n, .green, 0, 0xFF)
  else match r.1 with
  | .green => (d1.count .MTR_GREEN n, .green, m.actG, 0xFF)
  | .yellow => (d1.count .MTR_YELLOW n, .yellow, m.actY, m.clsY)
  | .red => (d1.count .MTR_RED n, .red, m.actR, m.clsR)

/-! ### Flow counters (R241) -/

def Dev.flowCounter (d : Dev) (n c : Nat) : Nat × Nat := Map.get (0, 0) d.act.flows (k2 n c)
def Dev.setFlowCounter (d : Dev) (n c : Nat) (v : Nat × Nat) : Dev :=
  { d with act := { d.act with flows := Map.set (0, 0) d.act.flows (k2 n c) v } }

def Dev.countFlow (d : Dev) (n len : Nat) (c : Nat) : Dev :=
  let v := d.flowCounter n c
  d.setFlowCounter n c ((v.1 + 1) % 2 ^ 64, (v.2 + len) % 2 ^ 64)

/-! ### Groups (R235) -/

def Dev.group (d : Dev) (g : Nat) : Group := Map.get ⟨0, false, false⟩ d.act.groups g

/-- The ports a frame from port `p` is copied to. -/
def Dev.groupMask (d : Dev) (g p : Nat) : Nat :=
  let x := d.group g
  if x.lost then 0 else if x.prune ∧ p < 128 then putBit x.mask p false else x.mask

/-! ### Capture records (R243 to R245) -/

/-- A capture record without its SEQ and CRC, which it takes as it leaves the staging FIFO. -/
def Dev.captureRecord (d : Dev) (rx : Rx) (r : Resolved) (profile egress : Nat) : Bytes :=
  let group : Bool := match r.fwd with
    | .group _ => true
    | _ => false
  let flags := rx.pass + 2 * b2n (r.fwd == .drop) + 4 * b2n (decide (r.mirrors ≠ 0)) + 8 * b2n (decide (r.parse.trunc ≠ 0)) +
    16 * b2n r.parse.frag + 32 * b2n r.copyHost + 64 * b2n group
  slice rx.received.1 0 96 ++ leBytes 8 (if rx.cap.valid then rx.cap.frc else 0) ++ leBytes 1 rx.cap.sub ++
    leBytes 1 rx.cap.epoch ++ leBytes 1 rx.port ++ leBytes 1 flags ++ leBytes 2 rx.receivedLen ++ leBytes 2 profile ++
    leBytes 4 0 ++ leBytes 2 egress ++ leBytes 1 (d.classMap r.cls) ++ leBytes 1 d.fabAddr ++
    leBytes 2 (d.f0 .CLK_POWER_CYCLES) ++ leBytes 6 0

/-- A record passes the rate bucket into the staging FIFO, or is lost. -/
def Dev.stageCapture (d : Dev) (rec : Bytes) : Dev :=
  if !d.b0 .ACT_CAP_CTRL_ENABLE then d
  else
    let t := takeTokens d.act.capBkt (d.f0 .ACT_CAP_RATE) (1024 * tSec) tSec d.now
    let d1 := { d with act := { d.act with capBkt := t.2 } }
    if !t.1 ∨ 65536 ≤ d1.act.capFifo.length ∨ (d1.f0 .ACT_CAP_CTRL_TARGET = 0 ∧ d1.hld.outOfService) then d1.loseCapture
    else { d1 with act := { d1.act with capFifo := d1.act.capFifo ++ [rec] } }

/-! ### The resolution (R227 to R232) -/

/-- The single-valued edits (R228, R237). -/
def editsOf (l : List Src) (hop : Option NextHop) (l2 vlan ip : Option Hdr) (v6 : Bool) : Edits :=
  let vlanOp := firstSet l (fun x => x.p.bind (fun p => if p.vlanOp = 0 then none else some (p.vlanOp, p.vid)))
  { vlanOp := (vlanOp.getD (0, 0)).1, vid := (vlanOp.getD (0, 0)).2
    pcp := (firstSet l (fun x => x.p.bind (fun p => if bitOf p.pcp 7 then some (p.pcp % 8) else none))).getD 255
    dscp := (firstSet l (fun x => x.p.bind (fun p => if bitOf p.dscp 7 then some (p.dscp % 64) else none))).getD 255
    ecn := flagOf l 3, hop := hop, l2At := l2.map (·.start), vlanAt := vlan.map (·.start), ipAt := ip.map (·.start)
    ipv6 := v6 }

/-- The TTL or hop limit of the IP_SEL header. -/
def ttlAt (bs : Bytes) (ip : Option Hdr) (v6 : Bool) : Option Nat :=
  ip.map (fun h => beAt bs (h.start + (if v6 then 7 else 8)) 1)

/-- What a resolution starts from: who forwards. -/
structure Verdict where
  fwd : Fwd
  profile : Nat
  reason : Nat
  hop : Option NextHop
  deriving DecidableEq, Repr

/-- The default action of a frame without a forwarding decision (R231) or in error (R165); BRIDGE_ONLY is the
caller's. -/
def Dev.defaultVerdict (d : Dev) (rx : Rx) : Verdict :=
  match d.defaultAction rx with
  | 2 => ⟨.host, 0xFFFF, 2, none⟩
  | 3 => ⟨d.defaultFwd rx.port, 0xFFFF, 0, none⟩
  | _ => ⟨.drop, 0xFFFF, 0, none⟩

/-- The forwarding of the highest-ranked source that sets it; drop from any source wins (R228, R230, R231). -/
def Dev.verdict (d : Dev) (rx : Rx) (l : List Src) : Verdict × Bool :=
  match l.find? (fun x => x.fwd ≠ .none) with
  | none => if l.any Src.drops then (⟨.drop, 0xFFFF, 0, none⟩, false) else (d.defaultVerdict rx, true)
  | some x => if l.any Src.drops then (⟨.drop, 0xFFFF, 0, none⟩, false) else (⟨x.fwd, x.fwdProfile, 0, x.s.hop⟩, false)

/-- A frame that would be routed with a TTL of 1 or 0 is not (R234). -/
def Dev.ttlCheck (d : Dev) (n : Nat) (bs : Bytes) (ip : Option Hdr) (v6 : Bool) (v : Verdict) : Dev × Verdict :=
  if v.hop.isSome ∧ (ttlAt bs ip v6).any (fun t => decide (t ≤ 1)) then
    (d.count .ACT_TTL_EXPIRED n,
     if d.b0 .ACT_CTRL_TTL_ACTION then ⟨.host, v.profile, 3, none⟩ else ⟨.drop, 0xFFFF, 0, none⟩)
  else (d, v)

/-- A group is resolved against its mask; one that yields no port drops the frame (R235). -/
def Dev.groupCheck (d : Dev) (n p : Nat) (v : Verdict) : Dev × Verdict × Nat :=
  match v.fwd with
  | .group g =>
    let m := d.groupMask g p
    if m = 0 then (d.count .ACT_MC_EMPTY n, { v with fwd := .drop }, 0) else (d, v, m)
  | _ => (d, v, 0)

/-- EGRESS of a capture record. -/
def Dev.egressOf (d : Dev) (rx : Rx) (fwd : Fwd) (hash : Nat) : Nat :=
  match fwd with
  | .port p => p
  | .group g => g
  | .device a => (d.routePort a hash).getD 0xFFFF
  | .recirc _ _ => 128 + rx.region
  | .host => 132
  | _ => 0xFFFF

/-- FWD and DEST of a decision record. -/
def fwdCode : Fwd → Nat × Nat
  | .none => (0, 0)
  | .port p => (1, p)
  | .group g => (2, g)
  | .device a => (3, a)
  | .drop => (4, 0)
  | .recirc _ _ => (5, 0)
  | .host => (6, 0)

/-- A decision record (Table 14-3). -/
def recordBytes (fwd : Fwd) (flags cls mirrors aut : Nat) (e : Edits) : Bytes :=
  let f := fwdCode fwd
  beBytes 1 f.1 ++ beBytes 1 flags ++ beBytes 2 f.2 ++ beBytes 1 cls ++
    beBytes 1 (if e.dscp = 255 then 0 else 128 + e.dscp) ++ beBytes 2 mirrors ++
    beBytes 1 (if e.pcp = 255 then 0 else 128 + e.pcp) ++ beBytes 1 e.vlanOp ++ beBytes 2 e.vid ++ beBytes 2 aut ++
    beBytes 2 0

/-- The decision of a frame before metering and admission (R384), with its automata pattern. -/
def Dev.decision (d : Dev) (rx : Rx) (pr : ParseRes) (prof : Bytes) (l : List Src) (aut : Nat) : Bytes :=
  let v6 := leAt prof 0xD 1 == 1
  let ip := ipHdr pr prof
  let v := (d.ttlCheck rx.region rx.body ip v6 (d.verdict rx l).1).2
  let fwd : Fwd := match v.fwd, rx.pass with
    | .recirc _ _, 1 => .drop
    | _, _ => (d.groupCheck rx.region rx.port v).2.1.fwd
  let hold := (firstSet l Src.hold).getD ((rx.dflt.map (·.2)).getD true)
  let flags := b2n (l.any (fun x => x.s.copyHost) || flagOf l 1) + 2 * b2n (flagOf l 2) + 8 * b2n hold
  recordBytes fwd flags ((firstSet l Src.cls).getD (d.defaultClass rx)) (mirrorsOf l) aut
    (editsOf l v.hop (l2Hdr pr prof) (vlanHdr pr prof) ip v6)

/-- A frame's resolution ends: its decision is kept until it is linked. -/
def Dev.resolved (d : Dev) (id : Nat) (rx : Rx) (r : Resolved) : Dev :=
  let d1 := d.count .ACT_RESOLVED rx.region
  let d2 := if r.fwd = .drop then d1.count .ACT_DROPPED rx.region else d1
  let d3 := if r.copyHost then d2.count .ACT_COPY_TO_HOST rx.region else d2
  d3.setRx id (some { rx with parse := some r.parse, res := some r, wait := none })

/-- The full resolution of a frame from its sources, highest rank first. -/
def Dev.resolve (d : Dev) (id : Nat) (rx : Rx) (pr : ParseRes) (prof : Bytes) (l : List Src) (aut : Nat) : Dev :=
  let n := rx.region
  let bs := rx.body
  let l2 := l2Hdr pr prof
  let vlan := vlanHdr pr prof
  let ip := ipHdr pr prof
  let v6 := leAt prof 0xD 1 == 1
  let v0 := d.verdict rx l
  match v0.1.fwd, rx.pass with
  | .recirc _ _, 1 =>
    let d1 := (d.count .PRS_RECIRC_LIMIT n).recordLimited .RECIRC_LIMIT n tSec 4 n (payloadOf [(1, n), (1, rx.port)])
    (d1.digestRx rx (d.decision rx pr prof l aut) aut).resolved id rx
      { fwd := .drop, mask := 0, cls := d.defaultClass rx, holdOk := true, colour := .green, edits := .none, mirrors := 0
        copyHost := false, copyProfile := 0xFFFF, profile := 0xFFFF, reason := 0, parse := pr }
  | _, _ =>
    let d0 := if v0.2 then d.count .ACT_NO_DECISION n else d
    let d1 := if l.any Src.skipped then d0.count .ACT_EDIT_SKIPPED n else d0
    let t := d1.ttlCheck n bs ip v6 v0.1
    let g := t.1.groupCheck n rx.port t.2
    let cls := (firstSet l Src.cls).getD (d.defaultClass rx)
    let last : Bool := match g.2.1.fwd with
      | .recirc _ _ => false
      | _ => true
    let dg := if last then g.1.digestRx rx (d.decision rx pr prof l aut) aut else g.1
    let met := firstSet l Src.meter
    let m : Dev × Colour × Nat × Nat := match met with
      | none => (dg, .green, 0, 0xFF)
      | some (i, pre) => dg.runMeter n i rx.len (d.precolour n pre bs vlan ip)
    let dropM := m.2.2.1 == 1
    let d2 := if dropM then m.1.count .MTR_METER_DROP n else m.1
    let d3 := (countersOf l).foldl (fun d c => d.countFlow n rx.len c) d2
    let own := l.any (fun x => x.s.copyHost)
    let cp := (l.find? (fun x => x.p.any (fun p => bitOf p.flags 1))).map (·.s.profile)
    let r : Resolved :=
      { fwd := if dropM then .drop else g.2.1.fwd, mask := g.2.2
        cls := if m.2.2.1 = 2 ∧ m.2.1 ≠ .green then m.2.2.2 % 64 else cls
        holdOk := (firstSet l Src.hold).getD ((rx.dflt.map (·.2)).getD true)
        colour := m.2.1, edits := editsOf l g.2.1.hop l2 vlan ip v6, mirrors := mirrorsOf l
        copyHost := own || flagOf l 1, copyProfile := cp.getD 0xFFFF, profile := g.2.1.profile, reason := g.2.1.reason
        parse := pr }
    let hash := d3.flowHash bs pr (d3.frameVid bs pr prof)
    let d4 := match l.find? (fun x => x.p.any (fun p => bitOf p.flags 2)) with
      | none => d3
      | some x => d3.stageCapture (d3.captureRecord rx r x.s.profile (d3.egressOf rx r.fwd hash))
    d4.resolved id rx r

/-- The sources with their profiles, highest rank first. -/
def Dev.withProfiles (d : Dev) (n : Nat) (l : List Source) : List Src := l.map (fun s => ⟨s, d.profile n s.profile⟩)

end Sys2Proof.Machine
end

