-- ==== Sys2Proof/Machine/Pipeline.lean ====
section
/-! DEFINITION. The region pipeline from parse to resolution (spec/06 to spec/09): parse errors and default actions,
lookups, learning, errors of the memories a frame reads, and the inspection queue. -/

namespace Sys2Proof.Machine

/-! ### Frames that resolve without sources -/

/-- The outcome of a frame that no source of actions decides. -/
def plainResult (rx : Rx) (pr : ParseRes) (fwd : Fwd) (mask cls reason : Nat) : Resolved :=
  { fwd := fwd, mask := mask, cls := cls, holdOk := (rx.dflt.map (·.2)).getD true, colour := .green
    edits := .none, mirrors := 0, copyHost := false, copyProfile := 0xFFFF, profile := 0xFFFF, reason := reason, parse := pr }

/-- A frame is dropped in the pipeline: FRAME_LINK frees its cells. -/
def Dev.dropFrame (d : Dev) (id : Nat) (rx : Rx) (pr : ParseRes) : Dev :=
  d.setRx id (some { rx with
    parse := some pr, res := some (plainResult rx pr .drop 0 (d.defaultClass rx) 0), wait := none })

/-! ### Parse (R163 to R165, R169 to R171) -/

/-- Local port of INGRESS_PORT. -/
def localPort (p : Nat) : Nat := if p < 128 then p % 32 else 32

/-- Reads of a frame that meet an error. -/
def nodeFault (l : List ReadFault) (k : Nat) : Bool := decide (.node k ∈ l)

/-- The walk of a frame. -/
def Dev.walkFrame (d : Dev) (rx : Rx) (faults : List ReadFault) : ParseRes :=
  parseFrame (d.section 3 rx.region) rx.body rx.len rx.startNode
    (fun k => nodeFault faults k || d.wordDown .node rx.region k) rx.port rx.pass

/-- The region's counters of a walk (Table 6-6). -/
def Dev.countWalk (d : Dev) (n : Nat) (pr : ParseRes) : Dev :=
  let d1 := d.count (if pr.pass = 0 then .PRS_PASS1_FRAMES else .PRS_PASS2_FRAMES) n
  let d2 := if pr.trunc = 0 then d1
    else (d1.count (Ctr.PRS_TRUNC_DEPTH.at (pr.trunc - 1)) n).perf n 0x131 pr.trunc 1
  let d3 := if pr.frag then d2.count .PRS_FRAG n else d2
  if pr.fragFirst then d3.count .PRS_FRAG_FIRST n else d3

/-- A walk that ended in error: its counters, PRS_LAST_ERR and PARSE_ERROR.  A header that step 10 refuses stands in the
stack; for it the index and the position are its own. -/
def Dev.noteParseErr (d : Dev) (n len : Nat) (pr : ParseRes) : Dev :=
  let k := localPort pr.port
  let d1 := (d.count (Ctr.PRS_ERR.at (pr.err - 1)) n).count (Ctr.PRS_PORT_ERR.at k) n
  let placed := match pr.err, pr.stack.getLast? with
    | 6, some h => if h.node = pr.errNode ∧ h.start + h.len = pr.payload then some h else none
    | _, _ => none
  let index := pr.stack.length - (if placed.isSome then 1 else 0)
  let at_ := (placed.map (·.start)).getD pr.payload
  let d2 := ((((d1.set1 .PRS_LAST_ERR_REASON n pr.err).set1 .PRS_LAST_ERR_PASS n pr.pass).set1 .PRS_LAST_ERR_NODE n
    pr.errNode).set1 .PRS_LAST_ERR_HDR_INDEX n index).set1 .PRS_LAST_ERR_PORT n k
  let d3 := (d2.set1 .PRS_LAST_ERR_AT_FRAME_LEN n len).set1 .PRS_LAST_ERR_AT_OFFSET n at_
  d3.recordLimited .PARSE_ERROR n tSec 4 n (payloadOf [(1, n), (1, pr.err), (1, k), (1, pr.errNode), (2, at_)])

/-- The parser of a region has failed (R170). -/
def Dev.parserFailed (d : Dev) (n : Nat) : Dev :=
  ((d.set1 .PRS_STATUS_FAULT n 1).record .PARSER_FAILED 0 0 (payloadOf [])).isolateRegion n EvCode.PARSER_FAILED.code

/-- A parity error of a node row: frames that read it are dropped until the rewrite; a second one within 1 s of the
rewrite is a hard fault (R169). -/
def Dev.nodeParity (d : Dev) (n k : Nat) : Dev :=
  if d.wordDown .node n k then d
  else
    let last := Map.get 0 d.words.seen (k3 WordKind.node.code n k)
    if last ≠ 0 ∧ d.now + 1 ≤ last + tSec then d.parserFailed n
    else (d.setDown .node n k true).set1 .PRS_STATUS_REWRITING n 1

/-- The layer-2 key of a frame: destination, source and VID. -/
structure L2Keys where
  dst : Nat
  src : Nat
  vid : Nat
  deriving DecidableEq, Repr

def Dev.l2Keys (d : Dev) (rx : Rx) (pr : ParseRes) (prof : Bytes) : Option L2Keys :=
  (l2Hdr pr prof).map (fun h =>
    ⟨beAt rx.body h.start 6, beAt rx.body (h.start + 6) 6, d.frameVid rx.body pr prof⟩)

/-- FLOOD_GROUP, 0xFFFF for none. -/
def Dev.floodGroup (d : Dev) (p : Nat) : Nat := ((d.defaults p).map (fun r => leAt r 6 2)).getD 0xFFFF
def Dev.routeAction (d : Dev) (p : Nat) : Nat := ((d.defaults p).map (fun r => leAt r 4 2)).getD 0xFFFF
def Dev.portProfile (d : Dev) (p : Nat) : Nat := ((d.defaults p).map (fun r => leAt r 8 2)).getD 0xFFFF

/-- BRIDGE_ONLY: the layer-2 table alone forwards the frame (R165). -/
def Dev.bridgeOnly (d : Dev) (rx : Rx) (pr : ParseRes) (prof : Bytes) : Fwd × Nat :=
  let tagged : Bool := leAt prof 7 1 == 0xFF || (vlanHdr pr prof).isSome
  let cls := d.defaultClass rx
  match d.l2Keys rx pr prof with
  | none => (.drop, cls)
  | some k =>
    if !tagged then (.drop, cls)
    else match d.l2Find k.dst k.vid with
      | some (_, e) => if e.daDrop then (.drop, cls) else (fwdOf e.destType e.dest, if e.cls = 0xFF then cls else e.cls)
      | none =>
        let g := d.floodGroup rx.port
        (if g = 0xFFFF then .drop else .group g, cls)

/-- Where the default action of a frame in parse error sends it (R165): its forwarding, class and REASON. -/
def Dev.errorFwd (d : Dev) (rx : Rx) (pr : ParseRes) (prof : Bytes) : Fwd × Nat × Nat :=
  let cls := d.defaultClass rx
  match d.defaultAction rx with
  | 1 => ((d.bridgeOnly rx pr prof).1, (d.bridgeOnly rx pr prof).2, 0)
  | 2 => (.host, cls, 2)
  | 3 => (d.defaultFwd rx.port, cls, 0)
  | _ => (.drop, cls, 0)

/-- The decision record of a frame in parse error. -/
def errorRecord (fwd : Fwd) (cls : Nat) : Bytes := recordBytes fwd 12 cls 0 0xFFFF .none

/-! ### Lookups (R177 to R194, R203 to R207, R233) -/

/-- The result of a trie lookup. -/
inductive LpmRes
  | notMade | down | miss
  | hit (index : Nat)
  deriving DecidableEq, Repr

/-- The longest prefix of a family that covers an address (R190 to R192).  Where a WRITE_ROW has changed node memory, whose
layout the spec does not give, what a lookup finds is a free value (log 8). -/
def Dev.lpmBest (d : Dev) (v6 : Bool) (addr : Nat) : LpmRes :=
  let w := if v6 then 128 else 32
  let m := if v6 then d.tbl.lpm6 else d.tbl.lpm4
  let raw := d.tbl.nodeRows.filter (fun x => (Nat.unpair x.1).1 == b2n v6)
  if d.tbl.nodesDown.any (fun x => x.1.on (v6, addr)) then .down
  else if !raw.isEmpty then
    match Config.trieRaw v6 (m.map (fun x => Nat.unpair x.1)) (raw.map (fun x => (x.1, ((x.2.map (·.2)).getD []).map (·.toNat)))) addr with
    | some h => .hit h
    | none => .miss
  else
    match m.foldl (fun (best : Option (Nat × Nat)) x =>
      let k := Nat.unpair x.1
      match x.2 with
      | none => best
      | some h =>
        if addr / 2 ^ (w - k.1) = k.2 ∧ (best.all (fun b => decide (b.1 ≤ k.1))) then some (k.1, h) else best) none with
    | some (_, h) => .hit h
    | none => .miss

/-- What the lookups of a frame found. -/
structure Looks where
  keys : Option L2Keys
  da : Option (Nat × L2Entry)
  sa : Option (Nat × L2Entry)
  lpm : LpmRes
  hop : Option NextHop
  exact : Option (Option (Nat × ExEntry))
  tcam : Option (TcamPart × Nat × Option (Nat × TcamEntry))
  deriving DecidableEq, Repr

/-- The router's own MAC address. -/
def Dev.routerMac (d : Dev) : Nat := d.f0 .ACT_ROUTER_MAC_HI * 2 ^ 32 + d.f0 .ACT_ROUTER_MAC_LO

def Dev.looks (d : Dev) (rx : Rx) (pr : ParseRes) (prof : Bytes) : Looks :=
  let n := rx.region
  let keys := if profileFlag prof 0 then d.l2Keys rx pr prof else none
  let lpm := if profileFlag prof 1 then ((lpmKey rx.body pr prof).map (fun k => d.lpmBest k.1 k.2)).getD .notMade
    else .notMade
  let hop := match lpm with
    | .hit i => d.hop n i
    | _ => none
  { keys := keys, da := keys.bind (fun k => d.l2Find k.dst k.vid), sa := keys.bind (fun k => d.l2Find k.src k.vid)
    lpm := lpm, hop := hop
    exact := if profileFlag prof 2 then
        some (d.exFind n (buildKey rx.body pr prof (leAt prof 0x78 2) 320)) else none
    tcam := d.tcamLookup rx.body pr prof }

/-- A trie result takes part only without a layer-2 lookup or for the router's own address (R233). -/
def Dev.routes (d : Dev) (rx : Rx) (pr : ParseRes) (prof : Bytes) : Bool :=
  !profileFlag prof 0 || (d.l2Keys rx pr prof).any (fun k => k.dst == d.routerMac)

/-- The counters, performance events and HIT bits of the lookups. -/
def Dev.countLooks (d : Dev) (rx : Rx) (prof : Bytes) (k : Looks) : Dev :=
  let n := rx.region
  let d1 := if k.keys.isSome then
      let d := d.perf n 0x110 0xFF 2
      if k.da.isNone then d.count .TBL_DA_MISS n else d
    else d
  let d2 := if k.lpm = .notMade then d1
    else
      let d := d1.perf n 0x111 (leAt prof 0xD 1) 1
      if k.lpm = .miss ∨ (k.lpm ≠ .down ∧ k.hop.isNone) then d.count .TBL_LPM_MISS n else d
  let d3 := match k.exact with
    | none => d2
    | some none => (d2.perf n 0x112 0xFF 1).count .TBL_EXACT_MISS n
    | some (some (_, e)) => (d2.perf n 0x112 0xFF 1).exUpdate n e.key (fun e => { e with hit := true })
  match k.tcam with
  | none => d3
  | some (_, banks, r) =>
    let d := (d3.count .TCM_SEARCHES n).perf n 0x113 0xFF 1
    let d := (List.range 4).foldl (fun d c =>
      d.perf n 0x114 c ((List.range 16).countP (fun b => bitOf banks (16 * c + b)))) d
    d.count (if r.isSome then .TCM_HITS else .TCM_MISSES) n

/-! ### Learning (R181, R182) -/

/-- The destination a sender is learned against: DEST_TYPE and DEST. -/
def learnDest (rx : Rx) : Nat × Nat := match rx.srcDev with
  | some a => (2, a)
  | none => (0, rx.port)

/-- Whether the source of a frame is submitted for learning (R181). -/
def Dev.learns (d : Dev) (rx : Rx) (prof : Bytes) (k : L2Keys) : Bool :=
  decide (rx.pass = 0) && decide (rx.port < 128) && profileFlag prof 4 &&
  decide (d.fld .TBL_PORT_CFG_LEARN_EN (rx.port / 32) (rx.port % 32) = 1) &&
  decide (d.f1 .MAC_PORT_INFO_ROLE rx.port ≤ 1) && !bitOf k.src 40 && decide (k.src ≠ 0) && d.forwards

/-- Table 7-6: whether the frame is dropped, and the device after the outcome.  A member that does not learn on its own
(R390) changes no entry. -/
def Dev.learnSource (d : Dev) (rx : Rx) (prof : Bytes) (k : L2Keys) (sa : Option (Nat × L2Entry)) : Bool × Dev :=
  if !d.learns rx prof k then (false, d)
  else
    let n := rx.port / 32
    let dest := learnDest rx
    let locked : Bool := decide (d.fld .TBL_PORT_CFG_LOCKED n (rx.port % 32) = 1)
    match sa with
    | none =>
      if locked then (true, d.count .TBL_LOCKED_DROP n)
      else if !d.ownTables then (false, d)
      else (false, d.learnRequest { mac := k.src, vid := k.vid, destType := dest.1, dest := dest.2, port := rx.port })
    | some (_, e) =>
      if e.destType = dest.1 ∧ e.dest = dest.2 then
        (false, if d.ownTables then d.l2Update k.src k.vid (fun e => { e with hit := true }) else d)
      else if e.static_ then (true, d.count .TBL_STATIC_MOVE_DROP n)
      else if locked then (true, d.count .TBL_LOCKED_DROP n)
      else if e.lock then (false, d.count .TBL_MOVE_SKIPPED_LOCKED n)
      else if !d.ownTables then (false, d)
      else (false, d.stationMove k.src k.vid dest.1 dest.2)

/-! ### Sources (Table 9-3) -/

/-- The sources of ranks 2 to 6, highest first; `saDrop` is the drop that the source lookup gives. -/
def Dev.sources (d : Dev) (rx : Rx) (pr : ParseRes) (prof : Bytes) (k : Looks) (saDrop : Bool) : List Source :=
  let src (rank profile : Nat) (fwd : Fwd) (data : Nat) : Source :=
    { rank := rank, profile := profile, fwd := fwd, cls := 0xFF, copyHost := false, data := data, hop := none }
  let tcam := match k.tcam with
    | some (_, _, some (_, e)) => [src 2 e.action .none e.param]
    | _ => []
  let exact := match k.exact with
    | some (some (_, e)) => [src 3 e.action .none (leAt e.data 0 4)]
    | _ => []
  let trie := if !d.routes rx pr prof then []
    else match k.lpm, k.hop with
      | .notMade, _ => []
      | .hit _, some h => [{ src 4 h.action (fwdOf h.destType h.dest) 0 with hop := some h }]
      | _, _ => [src 4 (d.routeAction rx.port) .none 0]
  let drop := if saDrop || k.sa.any (fun x => x.2.saDrop) then [src 5 0xFFFF .drop 0] else []
  let l2 := match k.keys, k.da with
    | none, _ => []
    | some _, some (_, e) =>
      [{ src 5 e.action (if e.daDrop then .drop else fwdOf e.destType e.dest) e.dest with
          cls := e.cls, copyHost := e.copyHost }]
    | some _, none =>
      let g := d.floodGroup rx.port
      if g = 0xFFFF then [] else [src 5 0xFFFF (.group g) 0]
  tcam ++ exact ++ trie ++ l2 ++ drop ++ [src 6 (d.portProfile rx.port) .none 0]

/-! ### Errors of the memories a frame reads (R198, R199, R246) -/

/-- Rows of the hashed tables and trie nodes that the lookups read: invalidated or down before the lookup answers. -/
def Dev.tableFaults (d : Dev) (rx : Rx) (pr : ParseRes) (prof : Bytes) (faults : List ReadFault) : Dev :=
  let n := rx.region
  let keys := if profileFlag prof 0 then d.l2Keys rx pr prof else none
  let l2rows := (keys.map (fun k => d.l2Cands k.dst k.vid ++ d.l2Cands k.src k.vid)).getD []
  let exrows := if profileFlag prof 2 then d.exCands (buildKey rx.body pr prof (leAt prof 0x78 2) 320) else []
  let key := if profileFlag prof 1 then lpmKey rx.body pr prof else none
  d.readFaults n l2rows n exrows (fun x _ => key.any x.on) faults

/-- The next-hop record of a lookup: a parity error invalidates it (R246). -/
def Dev.hopFault (d : Dev) (n : Nat) (l : LpmRes) (faults : List ReadFault) : Dev :=
  match l with
  | .hit i => d.hopRead n i faults
  | _ => d

/-- The first profile among the sources whose row has a parity error. -/
def badProfile (l : List Source) (faults : List ReadFault) : Option Nat :=
  (l.map (·.profile)).find? (fun id => decide (id ≠ 0xFFFF) && decide (.profile id ∈ faults))

/-- A profile's parity error: its row is rewritten from the running section; the second within 1 s isolates the region. -/
def Dev.profileParity (d : Dev) (n id : Nat) : Dev :=
  let e := d.wordError .profile n id
  let d1 := ((e.2.count .ACT_PROFILE_PARITY n).record .ACT_PROFILE_PARITY 4 n (payloadOf [(1, n), (2, id)])).raise (288 + n)
  if e.1 then (d1.record .ACT_MEMORY_FAILED 0 0 (payloadOf [])).isolateRegion n EvCode.ACT_MEMORY_FAILED.code else d1

/-- A word of a meter bank is uncorrectable; the second in the bank within 1 s isolates the region. -/
def Dev.meterBank (d : Dev) (n m kind : Nat) : Dev :=
  let d0 := (d.set1 .MTR_LAST_FAULT_KIND n kind).set1 .MTR_LAST_FAULT_METER n m
  let e := d0.wordError .meterBank n (m / 4096)
  if e.1 then
    let d1 := (((e.2.setBit .MTR_STATUS_BANK_FAULT n (m / 4096) true).setBit .HLT_SUM_ENGINE_METER 0 n true).set1 .MTR_LAST_FAULT_KIND n 3).record .METER_BANK_FAILED
      0 0 (payloadOf [(1, m / 4096)])
    d1.isolateRegion n EvCode.METER_BANK_FAILED.code
  else e.2

/-- A group record is uncorrectable: frames to the group are dropped until it is rewritten; R199 governs the memory. -/
def Dev.groupLost (d : Dev) (n g : Nat) : Dev :=
  let x := d.group g
  let d1 := ({ d with act := { d.act with
    groups := Map.set ⟨0, false, false⟩ d.act.groups g { x with lost := true } } }).record .MC_GROUP_LOST 0 0
    (payloadOf [(2, g)])
  let e := d1.wordError .group 0 g
  if e.1 then e.2.tableHard 0 (32 * g) n else e.2

/-- The words of meters, counters and groups that the resolution of a frame reads (Table 9-8). -/
def Dev.actionFaults (d : Dev) (rx : Rx) (l : List Src) (faults : List ReadFault) : Dev :=
  let n := rx.region
  let met := (firstSet l Src.meter).map (·.1)
  let cts := countersOf l
  faults.foldl (fun d f => match f with
    | .bucket m =>
      if met = some m then
        let x := d.meter n m
        let d1 := ((d.setMeter n m { x with tc := x.cbs * meterUnit, tp := x.pbs * meterUnit, at_ := d.now }).count
          .MTR_METERS_LOST n).record .METER_STATE_ECC 4 n (payloadOf [(1, n), (2, m)])
        d1.meterBank n m 1
      else d
    | .meterParams m =>
      if met = some m then
        let d1 := ((d.setMeter n m { d.meter n m with lost := true }).count .MTR_METERS_LOST n).record .METER_LOST 4 n
          (payloadOf [(1, n), (2, m)])
        d1.meterBank n m 2
      else d
    | .counter c =>
      if c ∈ cts then (d.setFlowCounter n c (0, 0)).record .FLOW_COUNTER_LOST 4 n (payloadOf [(1, n), (2, c)]) else d
    | .group g => if (d.verdict rx l).1.fwd = .group g then d.groupLost n g else d
    | _ => d) d

/-- The default action of a frame in parse error (R165): the rows of its layer-2 lookup and its group are read, and may be
met in error. -/
def Dev.errorDefault (d : Dev) (id : Nat) (rx : Rx) (pr : ParseRes) (prof : Bytes) (faults : List ReadFault) : Dev :=
  let rows := if d.defaultAction rx = 1 then ((d.l2Keys rx pr prof).map (fun k => d.l2Cands k.dst k.vid)).getD [] else []
  let d1 := d.readFaults rx.region rows rx.region [] (fun _ _ => false) faults
  let r := d1.errorFwd rx pr prof
  let d2 : Dev := match r.1 with
    | .group g => if .group g ∈ faults then d1.groupLost rx.region g else d1
    | _ => d1
  if d2.regionIsolated rx.region ∨ d2.winter then d2
  else
    let v := d2.groupCheck rx.region rx.port ⟨r.1, 0xFFFF, r.2.2, none⟩
    (v.1.digestRx rx (errorRecord v.2.1.fwd r.2.1) 0xFFFF).resolved id rx
      (plainResult rx pr v.2.1.fwd v.2.2 r.2.1 r.2.2)

/-! ### Inspection (R213 to R216) -/

/-- A source of rank 1: the profile a scan or its overload gives. -/
def autSource (profile data : Nat) : Source :=
  { rank := 1, profile := profile, fwd := .none, cls := 0xFF, copyHost := false, data := data, hop := none }

/-- The key profile of a frame (R173). -/
def Dev.rxProfile (d : Dev) (rx : Rx) : Bytes := d.keyProfile rx.region rx.profile

/-- A frame resolves from its sources, highest rank first, whose profiles, meters, counters and group are read now: a
profile in error drops it (Table 9-8). -/
def Dev.resolveReading (d : Dev) (id : Nat) (rx : Rx) (pr : ParseRes) (prof : Bytes) (l : List Src) (aut : Nat)
    (faults : List ReadFault) : Dev :=
  match badProfile (l.map (·.s)) faults with
  | some p => (d.dropFrame id rx pr).profileParity rx.region p
  | none =>
    let d1 := d.actionFaults rx l faults
    if d1.regionIsolated rx.region ∨ d1.winter then d1 else d1.resolve id rx pr prof l aut

/-- A frame that finds the inspection queue full takes its set's OVERLOAD action (R216). -/
def Dev.overload (d : Dev) (id : Nat) (rx : Rx) (pr : ParseRes) (prof : Bytes) (l : List Src) (set : Nat)
    (faults : List ReadFault) : Dev :=
  let n := rx.region
  let d1 := (d.count .AUT_OVERLOAD n).recordCounted .AUT_OVERLOAD n tSec 4 n (fun k => [(1, n), (4, k)])
  match (d1.patSet set).overload with
  | 0 => d1.resolveReading id rx pr prof (⟨{ autSource 0xFFFF 0 with fwd := .drop }, none⟩ :: l) 0xFFFF faults
  | 2 =>
    let d2 := d1.resolveReading id rx pr prof (⟨{ autSource 0xFFFF 0 with fwd := .host }, none⟩ :: l) 0xFFFF faults
    match d2.rxFrame id with
    | some x => d2.setRx id (some { x with res := x.res.map (fun r => if r.fwd = .host then { r with reason := 4 } else r) })
    | none => d2
  | _ => d1.resolveReading id rx pr prof l 0xFFFF faults

/-- A frame whose lookups are done resolves, or enters the inspection queue (R213, R214, R232); what decides its default
action is kept with it (R165). -/
def Dev.inspectOrResolve (d : Dev) (id : Nat) (rx : Rx) (pr : ParseRes) (prof : Bytes) (l : List Source)
    (faults : List ReadFault) : Dev :=
  let n := rx.region
  let ls := d.withProfiles n l
  match inspectOf ls with
  | none => d.resolveReading id rx pr prof ls 0xFFFF faults
  | some set =>
    if pr.trunc ≠ 0 then
      (d.count .AUT_TRUNC_SKIP n).resolveReading id rx pr prof
        (d.withProfiles n (autSource (d.patSet set).noMatch 0 :: l)) 0xFFFF faults
    else if d.f1 .AUT_QUEUE_LIMIT n ≤ (d.inspectQ n).length then d.overload id rx pr prof ls set faults
    else
      match badProfile l faults with
      | some p => (d.dropFrame id rx pr).profileParity n p
      | none => (d.setInspectQ n (d.inspectQ n ++ [id])).setRx id
          (some { rx with parse := some pr, wait := some (l, set), dfltAct := some (d.defaultAction rx) })

/-- A frame that has resolved on a protected port of a member that is not ACTIVE is discarded after its digest (R373). -/
def Dev.standbyDiscard (d : Dev) (id : Nat) : Dev :=
  match d.rxFrame id with
  | some rx =>
    let last : Bool := match rx.res with
      | none => false
      | some r => match r.fwd with
        | .recirc _ _ => false
        | _ => true
    if last ∧ d.muted rx.port then (d.setRx id none).count .PAIR_STANDBY_DISCARD 0 else d
  | none => d

/-! ### The pipeline up to resolution -/

/-- The performance events of a pipeline slot (Table 20-3); slots are taken in turn. -/
def Dev.countSlot (d : Dev) (n id : Nat) (rx : Rx) : Dev :=
  let q := id % 4
  let d1 := d.perf n 0x100 q 1
  if rx.pass = 1 then d1.perf n 0x102 q 1
  else if rx.port < 128 then d1.perf n 0x101 q 1 else d1.perf n 0x103 q 1

/-- A frame that a member receives for its firmware: LLDP, and PTP on a PTP port of a boundary clock or in SPRING (R86,
R120, R337). -/
def Dev.forFirmware (d : Dev) (rx : Rx) : Bool :=
  let da := beAt rx.bytes 0 6
  decide (rx.pass = 0) && decide (rx.port < 128) && rx.srcDev.isNone &&
  ((beAt rx.bytes 12 2 == 0x88CC && (da == 0x0180C2000000 || da == 0x0180C2000003 || da == 0x0180C200000E)) ||
   (d.ptpPort rx.port && (ptpOffset rx.bytes).isSome && (d.b0 .TIM_CTRL_CLOCK_MODE || d.spring)))

/-- Lookups, learning and resolution of a frame whose walk ended without error. -/
def Dev.lookupStage (d : Dev) (id : Nat) (rx : Rx) (pr : ParseRes) (faults : List ReadFault) : Dev :=
  let n := rx.region
  let prof := d.rxProfile rx
  let d1 := d.tableFaults rx pr prof faults
  let d2 := d1.hopFault n (d1.looks rx pr prof).lpm faults
  if d2.regionIsolated n ∨ d2.winter then d2
  else
    let k := d2.looks rx pr prof
    let d3 := d2.countLooks rx prof k
    let s : Bool × Dev := match k.keys with
      | some keys => d3.learnSource rx prof keys k.sa
      | none => (false, d3)
    let l := s.2.sources rx pr prof k s.1
    (s.2.inspectOrResolve id rx pr prof l faults).standbyDiscard id

/-- The pipeline of a frame up to its resolution. -/
def Dev.pipeline (d : Dev) (id : Nat) (rx : Rx) (faults : List ReadFault) : Dev :=
  let n := rx.region
  let d0 := d.countSlot n id rx
  if .engine ∈ faults then d0.parserFailed n
  else
    let pr := d0.walkFrame rx faults
    let d1 := d0.countWalk n pr
    if pr.err = 0 then d1.lookupStage id rx pr faults
    else
      let d2 := d1.noteParseErr n rx.len pr
      if pr.err = 7 then
        ((d2.dropFrame id rx pr).nodeParity n pr.errNode)
      else (d2.errorDefault id rx pr (d2.rxProfile rx) faults).standbyDiscard id

/-- FRAME_PARSE (R156): the pipeline of its region takes frame `id`.  `faults` are the errors that the reads made for it
meet.  In SPRING and WINTER only firmware frames go on (R86). -/
def execFrameParse (id : Nat) (faults : List ReadFault) (s : State) : Host.Outcome State Fault Refusal :=
  s.run fun d =>
    match d.rxFrame id with
    | none => d
    | some rx =>
      let fabData : Bool := d.fabPort rx.port && beAt rx.bytes 12 2 == d.fabType && rx.srcDev.isNone && decide (rx.pass = 0)
      if rx.parse.isSome ∨ fabData then d
      else if d.winter then (d.setRx id none).satInc .HLT_WINTER_IN_DISCARD rx.region 0 1
      else if d.forFirmware rx then (d.setRx id none).toPort134 rx.port rx.bytes rx.cap
      else if !d.forwards then (d.setRx id none).satInc .CLK_SPRING_DISCARD rx.region 0 1
      else d.pipeline id rx faults

/-- PARSE_NODE_REWRITE (R169): the row of node `k` is rewritten from the running PARSE section. -/
def execParseNodeRewrite (n : Region) (k : Fin 64) (s : State) : Host.Outcome State Fault Refusal :=
  s.run fun d =>
    if !d.wordDown .node n k then d
    else
      let d1 := d.setDown .node n k false
      let d2 := { d1 with words := { d1.words with
        seen := Map.set 0 d1.words.seen (k3 WordKind.node.code n k) (d1.now + 1) } }
      let more := d2.words.down.any (fun x => x.1 == WordKind.node.code && x.2.1 == n.val)
      (d2.set1 .PRS_STATUS_REWRITING n (b2n more)).record .PARSE_NODE_REWRITTEN 4 n (payloadOf [(1, n.val), (1, k.val)])

/-- CLR_LAST of a region's parser (R171). -/
def Dev.clearLastErr (d : Dev) (n : Nat) : Dev :=
  (((((((d.set1 .PRS_LAST_ERR_REASON n 0).set1 .PRS_LAST_ERR_PASS n 0).set1 .PRS_LAST_ERR_NODE n 0).set1
    .PRS_LAST_ERR_HDR_INDEX n 0).set1 .PRS_LAST_ERR_PORT n 0).set1 .PRS_LAST_ERR_AT_FRAME_LEN n 0).set1
    .PRS_LAST_ERR_AT_OFFSET n 0)

/-- PRS_CLR_LAST (R171): a master writes PRS_CTRL.CLR_LAST. -/
def execPrsClrLast (m : Master) (n : Region) (s : State) : Host.Outcome State Fault Refusal :=
  s.run fun d => d.onWrite m .PRS_CTRL n 0 fun d => d.clearLastErr n

end Sys2Proof.Machine
end

