-- ==== Sys2Proof/Machine/Automata.lean ====
section
/-! DEFINITION. Commands of the pattern automata (spec/08, R213 to R221). -/

namespace Sys2Proof.Machine

/-- The payload bytes of a frame: from PAYLOAD_OFFSET to the bound (R214). -/
def payloadBytes (rx : Rx) (pr : ParseRes) : Bytes := (rx.body.take pr.bound).drop pr.payload

/-- A scan of bytes (R215): the state it ends in, the first match as pattern and offset of its last byte, and the bytes
scanned. -/
structure Scan where
  state : Nat
  hit : Option (Nat × Nat)
  bytes : Nat
  deriving DecidableEq, Repr

/-- A scan from a state, of the bytes under SCAN_LIMIT; with `all` it goes on after a match.  `base` is the offset of the
first byte. -/
def scanBytes (body : Bytes) (set : PatSet) (all : Bool) (st base : Nat) (bs : Bytes) : Scan :=
  let xs := if set.limit = 0 then bs else bs.take set.limit
  let r := autoScan body set.map all xs st 0 none
  let n := match r.2, all with
    | some (_, i), false => i + 1
    | _, _ => xs.length
  { state := r.1, hit := r.2.map (fun m => (m.1, (base + m.2) % 2 ^ 32)), bytes := n }

/-- Per-frame mode. -/
def Dev.scanFrame (d : Dev) (set : PatSet) (bs : Bytes) : Scan := scanBytes (d.section 6 4) set false set.start 0 bs

/-- The flow table is full for a flow: counted, and recorded at most once per second. -/
def Dev.flowFull (d : Dev) (n : Nat) : Dev :=
  ((d.count .AUT_FLOW_TABLE_FULL n).raise (288 + n)).recordCounted .AUT_FLOW_TABLE_FULL 0 tSec 0 0 (fun k => [(4, k)])

/-- Stream mode for a segment with flow key `k` and TCP header at `tcp` (R219).  Offsets count from the first byte scanned in
the flow (R215). -/
def Dev.scanSegment (d : Dev) (n : Nat) (set : PatSet) (bs : Bytes) (k : Bytes) (frame : Bytes) (tcp : Nat) : Dev × Scan :=
  let body := d.section 6 4
  let q := beAt frame (tcp + 4) 4
  let flags := beAt frame (tcp + 13) 1
  let expect (q : Nat) : Nat := (q + bs.length + b2n (bitOf flags 1) + b2n (bitOf flags 0)) % 2 ^ 32
  let ends : Bool := bitOf flags 0 || bitOf flags 2
  let put (d : Dev) (r : Nat) (f : AutFlow) : Dev := d.setFlow r (if ends then none else some f)
  match d.flowFind k with
  | some (r, f) =>
    if f.expect = q then
      let x := scanBytes body set true f.state f.offset bs
      (put d r { f with state := x.state, expect := expect q, offset := (f.offset + x.bytes) % 2 ^ 32, last := d.now }, x)
    else
      (put (d.count .AUT_STREAM_FALLBACK n) r { f with last := d.now }, scanBytes body set true set.start 0 bs)
  | none =>
    match d.flowFree k with
    | some r =>
      let x := scanBytes body set true set.start 0 bs
      (put d r { key := flowKey k, state := x.state, expect := expect q, offset := x.bytes % 2 ^ 32, last := d.now }, x)
    | none => (d.flowFull n, d.scanFrame set bs)

/-- The scan of a frame against set `k`. -/
def Dev.scan (d : Dev) (n : Nat) (rx : Rx) (pr : ParseRes) (k : Nat) : Dev × Scan :=
  let set := d.patSet k
  let bs := payloadBytes rx pr
  if !set.stream then (d, d.scanFrame set bs)
  else match d.flowOf rx.body pr k with
    | none => (d.count .AUT_STREAM_FALLBACK n, d.scanFrame set bs)
    | some (key, tcp) => d.scanSegment n set bs key rx.body tcp

/-- A state word could not be read: the frame is dropped and the word awaits its rewrite; the second error of a word
within 1 s isolates the region (R221). -/
def Dev.stateWordLost (d : Dev) (n id w : Nat) : Dev :=
  let d1 := (d.setRx id none).count .AUT_ENGINE_DROP n
  let e := ((d1.set1 .AUT_LAST_FAULT_KIND n 2).set1 .AUT_LAST_FAULT_WORD n w).wordError .autState n w
  if e.1 then
    (e.2.record .AUT_STATE_MEMORY_FAILED 0 0 (payloadOf [])).isolateRegion n EvCode.AUT_STATE_MEMORY_FAILED.code
  else e.2.setDown .autState n w true

/-- CLK_CORE cycles that an engine is busy with a frame: 16 ns and its bytes at 100 Gb/s (R213), 1.6 cycles a
nanosecond at full rate. -/
def Dev.engineCycles (d : Dev) (bytes : Nat) : Nat := ((3200 + 16 * bytes) * d.coreCycles + 499) / 500

/-- AUTOMATA_SCAN (R215): the frame at the head of region `n`'s inspection queue is scanned and resolves.  `corrected` is
the state words corrected on the way, `bad` a word that could not be; `faults` what the reads of its resolution meet. -/
def execAutomataScan (n : Region) (corrected : Nat) (bad : Option Nat) (faults : List ReadFault) (s : State) :
    Host.Outcome State Fault Refusal :=
  s.run fun d =>
    match d.inspectQ n with
    | [] => d
    | id :: rest =>
      let d1 := (d.setInspectQ n rest).countN .AUT_ECC_CORRECTED n corrected
      match d1.rxFrame id with
      | none => d1
      | some rx =>
        match rx.wait, rx.parse, bad with
        | some _, some _, some w => d1.stateWordLost n id w
        | some (l, set), some pr, none =>
          let r := d1.scan n rx pr set
          let d2 := (((r.1.count .AUT_FRAMES_SCANNED n).countN .AUT_BYTES_SCANNED n r.2.bytes).perf n 0x121 0xFF
            (d.engineCycles r.2.bytes)).count (if r.2.hit.isSome then .AUT_MATCHED else .AUT_NO_MATCH) n
          let a := match r.2.hit with
            | some p => autSource (d2.patAction p.1) p.1
            | none => autSource (d2.patSet set).noMatch 0
          (d2.resolveReading id { rx with hit := r.2.hit } pr (d2.rxProfile rx) (d2.withProfiles n (a :: l))
            ((r.2.hit.map (·.1)).getD 0xFFFF) faults).standbyDiscard id
        | _, _, _ => d1

/-- AUT_STATE_REWRITE (R221): word `w` is rewritten from the running AUTO section. -/
def execAutStateRewrite (n : Region) (w : Nat) (s : State) : Host.Outcome State Fault Refusal :=
  s.run fun d =>
    if d.wordDown .autState n w then
      (d.setDown .autState n w false).record .AUT_STATE_ECC 4 n (payloadOf [(1, n.val), (4, w)])
    else d

/-- STREAM_FLOW_IDLE (R219): the flow in a row has seen no segment for AUT_FLOW_IDLE seconds. -/
def execStreamFlowIdle (row : Fin 65536) (s : State) : Host.Outcome State Fault Refusal :=
  s.run fun d =>
    match Map.get none d.search.flows row with
    | none => d
    | some f => if f.last + d.f0 .AUT_FLOW_IDLE * tSec ≤ d.now then d.setFlow row none else d

/-- AUT_ENGINE_SPARED (R220): engine `e` (8 is the spare) has an uncorrectable error; its frames are dropped, and the
spare takes over or the region is isolated; the spare itself replaces no engine, so SPARE_FOR stays 0xF. -/
def execAutEngineSpared (n : Region) (e : Fin 9) (frames : List Nat) (s : State) : Host.Outcome State Fault Refusal :=
  s.run fun d =>
    if d.regionIsolated n then d
    else
      let held := frames.dedup.filter (fun id => (d.rxFrame id).any (fun r => r.region == n.val && r.wait.isSome))
      let d1 := (held.foldl (fun d id => d.setRx id none) d).countN .AUT_ENGINE_DROP n held.length
      let d2 := (d1.setInspectQ n ((d1.inspectQ n).filter (fun id => id ∉ held)))
      let d3 := (d2.set1 .AUT_LAST_FAULT_KIND n 1).set1 .AUT_LAST_FAULT_ENGINE n e
      if d3.b1 .AUT_STATUS_SPARE_USED n then
        ((d3.set1 .AUT_STATUS_FAULT n 1).record .AUT_CLUSTER_EXHAUSTED 0 0 (payloadOf [])).isolateRegion n
          EvCode.AUT_CLUSTER_EXHAUSTED.code
      else
        let d4 := ((d3.set1 .AUT_STATUS_SPARE_USED n 1).set1 .AUT_STATUS_SPARE_FOR n (if e.val = 8 then 0xF else e.val)).setBit .HLT_SUM_ENGINE_AUTOMATA 0 n
          true |>.setBit .HLT_SUM_UNIT_REGION_UNIT 0 n true
        (d4.record .AUT_ENGINE_SPARED 0 0 (payloadOf [])).spareUsed .AUT_ENGINE_SPARED

end Sys2Proof.Machine
end

