-- ==== Sys2Proof/Machine/Egress.lean ====
section
/-! DEFINITION. The egress editor (R111, R234, R237), fabric encapsulation (R350), the egress corrections and captures of
PTP (R333, R335, R336), and errors of buffer words (R276, R278). -/

namespace Sys2Proof.Machine

/-! ### What leaves (R111, R242, R350) -/

/-- The fabric frame around an inner frame (Table 13-1); HOLD is 0 on a link of version 1.x (R359). -/
def Dev.encapsulate (d : Dev) (p : Nat) (h : FabHdr) (seq : Nat) (inner : Bytes) : Bytes :=
  let v := d.f1 .FAB_ADJ_VERSION p
  beBytes 6 (d.adjSt p).neighMac ++ beBytes 6 (d.macSa p) ++ beBytes 2 d.fabType ++ beBytes 1 v ++ beBytes 1 (h.type * 16) ++
    beBytes 1 (h.cls * 4 + (if h.hold ∧ 0x20 ≤ v then 2 else 0)) ++ beBytes 1 h.hop ++ beBytes 1 h.src ++ beBytes 1 h.dst ++
    beBytes 2 h.aux ++ beBytes 4 h.hash ++ beBytes 4 seq ++ inner

/-- Fields in order, each its width in bytes and its value, most significant byte first (R350, R391). -/
def fieldBytes (l : List (Nat × Nat)) : Bytes := l.flatMap (fun x => beBytes x.1 x.2)

/-- The widths of the fields of a control frame's body, by TYPE (Tables 13-2 and 13-4, R355, R363). -/
def fabWidths : Nat → List Nat
  | 4 => [1, 1, 1, 1, 2, 2, 16, 16, 4, 4]
  | 5 => [1, 1, 2, 16]
  | 6 => [1, 1, 1, 1, 4, 4, 16] ++ (List.replicate 128 [1, 1, 2]).flatten
  | _ => [1, 16, 4]

/-- The widths of the fields of a pair message of `len` body bytes, by KIND (Table 14-6). -/
def pairWidths (kind len : Nat) : List Nat :=
  match kind with
  | 1 => [4, 4]
  | 6 => [1, 3]
  | 8 => [8, 1, 3] ++ (List.replicate 32 [8, 4, 4]).flatten
  | 9 => [1, 1, 2, 8, 2, 2, len - 16]
  | 10 => [1, 1, 1, 1, 4, 48]
  | 11 => (List.replicate (len / 24) [1, 3, 4, 8, 8]).flatten
  | 12 => (List.replicate (len / 20) [4, 16]).flatten
  | _ => []

/-- A control frame of the firmware to 01-80-C2-00-00-0E around what stands at bytes 14 and after, with its TAG (R350, R352,
R391); an acknowledgement (R355) has none. -/
def Dev.controlFrame (d : Dev) (p : Nat) (tag : Bool) (body : Bytes) : Bytes :=
  let key := slice (d.section 9 4) 0x10 32
  fieldBytes [(6, 0x0180C200000E), (6, d.macSa p), (2, d.fabType)] ++ body ++
    (if tag then (beBytes 32 (Config.hmac256 key body).toNat).take 16 else [])

/-- A control frame of the fabric (Table 13-1): its fields are VERSION, SRC_DEV, SEQ and those of its body. -/
def Dev.fabBytes (d : Dev) (p type : Nat) (f : List Nat) : Bytes :=
  let head := [(1, f.getD 0 0), (1, type * 16), (1, Config.ownClass.toNat * 4), (1, 1), (1, f.getD 1 0), (1, 0xFF), (2, 0),
    (4, 0), (4, f.getD 2 0)]
  d.controlFrame p (decide (type ≠ 7)) (fieldBytes (head ++ (fabWidths type).zip (f.drop 3)))

/-- A pair message of `len` body bytes (Table 14-5): its fields are VERSION, FLAGS, SENDER, PEER, EPOCH, SEQ, L, G and those
of its body. -/
def Dev.pairBytes (d : Dev) (p kind len : Nat) (f : List Nat) : Bytes :=
  let g (i : Nat) : Nat := f.getD i 0
  let head := [(1, g 0), (1, kind), (1, g 1), (1, g 2), (1, g 3), (1, 0), (4, g 4), (4, g 5), (2, g 6), (1, g 7), (1, 0),
    (16, Config.serial.toNat), (2, len), (2, 0)]
  d.controlFrame p true (fieldBytes (head ++ (pairWidths kind len).zip (f.drop 8)))

/-- The bytes of a frame of the firmware whose layout the spec gives, without its FCS: protocols 1 fabric, 2 pair, and 6
a pair message in unicast data to the device of its first field, with FLOW_HASH and SEQ (R375). -/
def Dev.ownBytes (d : Dev) (p : Nat) (x : OwnFrame) : Option Bytes :=
  match x.proto with
  | 1 => some (padded (d.fabBytes p x.type x.fields))
  | 2 => some (padded (d.pairBytes p x.type (x.len - 72) x.fields))
  | 6 =>
    let f := x.fields
    let h : FabHdr :=
      { type := 0, cls := Config.ownClass.toNat, hold := false, hop := d.f0 .FAB_HOP_LIMIT, src := f.getD 5 0
        dst := f.getD 0 0, aux := 0, hash := f.getD 1 0, seq := none }
    some (d.encapsulate p h (f.getD 2 0) (d.pairBytes p x.type (x.len - 102) (f.drop 3)))
  | _ => none

/-- The SEQ of a data frame: the source device numbers per destination device and traffic class (R357). -/
def Dev.fabSeq (d : Dev) (h : FabHdr) : Nat × Dev :=
  match h.seq with
  | some q => (q, d)
  | none =>
    let k := k2 h.dst (d.classMap h.cls)
    let q := Map.get 0 d.fab.seqTx k
    (q, { d with fab := { d.fab with seqTx := Map.set 0 d.fab.seqTx k ((q + 1) % 2 ^ 32) } })

/-- What the editor makes of a copy for a port of region `n`, without its FCS; EDIT_SKIPPED counts there.  A frame
without edits and with its FCS keeps it. -/
def Dev.edited (d : Dev) (n p : Nat) (c : Chain) (de : Desc) : Dev × Bytes :=
  let r := applyEdits c.body de.edits (d.f0 .ACT_TPID) (d.macSa p)
  let d1 := d.countN .ACT_EDIT_SKIPPED n r.2
  let b := if de.truncates c then r.1.take de.trunc else r.1
  (d1, b)

/-! ### PTP at the egress MAC (R333 to R336) -/

/-- The epoch of a capture in the table, where it still stands. -/
def Dev.epochOf (d : Dev) (c : Capture) : Epoch := (Map.get none d.tim.epochs (c.epoch % 16)).getD d.epochNow

/-- Peer-to-peer operation (R338). -/
def Dev.peerToPeer (d : Dev) : Bool := decide (leAt (d.section 0xB 4) 0 1 ≠ 0)

/-- A residence in units of 2^-16 ns. -/
def residence (e : Epoch) (din dout : Nat) : Int :=
  ((dout : Int) - (din : Int)) * 20480 * (2 ^ 48 + e.rate) / 2 ^ 48

/-- An 8-byte field is changed, and a non-zero UDP checksum with it, word by word. -/
def setCovered (bs : Bytes) (o n v : Nat) (sumAt : Option Nat) : Bytes :=
  let b1 := setBe bs o n v
  match sumAt with
  | none => b1
  | some s =>
    let old := beAt bs s 2
    if old = 0 then b1
    else
      let sum := (List.range (n / 2)).foldl (fun k i => inetUpdate k (beAt bs (o + 2 * i) 2) (beAt b1 (o + 2 * i) 2)) old
      setBe b1 s 2 sum

/-- Where the UDP checksum of a PTP message over UDP stands. -/
def ptpSumAt (bs : Bytes) (o : Nat) : Option Nat := if beAt bs (typeOffset bs) 2 = 0x88F7 then none else some (o - 2)

/-- The correctionField takes an increase; it saturates at its largest value. -/
def Dev.correct (d : Dev) (bs : Bytes) (o : Nat) (inc : Int) : Dev × Bytes :=
  let top : Int := 0x7FFFFFFFFFFFFFFF
  let old := signed 64 (beAt bs (o + 8) 8)
  let sat : Bool := decide (old = top) || decide (top < old + inc)
  let v := if sat then top else old + inc
  let d1 := d.count .TIM_ONE_STEP_UPDATES 0
  (if sat then d1.count .TIM_CORR_SATURATED 0 else d1, setCovered bs (o + 8) 8 (unsigned 64 v) (ptpSumAt bs o))

/-- An event message between two PTP ports in transparent mode has its residence added, and for a Sync in peer-to-peer
operation the link delay of its ingress port; a wrong version or length leaves it uncorrected. -/
def Dev.ptpResidence (d : Dev) (p : Nat) (c : Chain) (tx : Capture) (bs : Bytes) : Dev × Bytes :=
  match ptpOffset bs with
  | none => (d, bs)
  | some o =>
    if d.ptpPort p ∧ c.port < 128 ∧ d.ptpPort c.port ∧ !d.b0 .TIM_CTRL_CLOCK_MODE ∧ ptpType bs o < 4 ∧ ptpVersion bs o = 2 ∧
        ptpLengthOk bs false o ∧ c.cap.valid ∧ tx.valid then
      let r := residence (d.epochOf tx) (c.cap.frc * 8 + c.cap.sub) (tx.frc * 8 + tx.sub)
      let link : Int := if d.peerToPeer ∧ ptpType bs o = 0 then (d.f1 .TIM_LINK_DELAY c.port * 256 : Nat) else 0
      d.correct bs o (r + link)
    else (d, bs)

/-- An entry joins the transmit time-stamp queue of a port group, or is lost (R335, R336). -/
def Dev.pushTxts (d : Dev) (p id : Nat) (cap : Capture) (fw : Bool) : Dev :=
  let g := p / 4
  let q := Map.get [] d.tim.txts g
  if q.length < 64 then
    { d with tim := { d.tim with txts := Map.set [] d.tim.txts g (q ++ [⟨id, p % 4, cap, fw⟩]) } }
  else
    let d1 := if fw then d else (d.set1 .TIM_TXTS_STATUS_OVF g 1).set1 .TIM_TXTS_STATUS_LOST_ID g id
    (d1.count .TIM_TXTS_OVF 0).recordCounted .TXTS_OVERFLOW g tSec 0 0
      (fun n => [(1, g), (1, b2n fw), (2, id), (4, n)])

/-! ### Buffer words (R276, R278) -/

/-- BUF_LAST_ECC takes an error of the cells. -/
def Dev.noteEcc (d : Dev) (kind bank word : Nat) : Dev :=
  (((d.set0 .BUF_LAST_ECC_KIND kind).set0 .BUF_LAST_ECC_MEMORY 0).set0 .BUF_LAST_ECC_BANK bank).set0 .BUF_LAST_ECC_WORD word

/-- POOL_LOW follows a retirement that brings S below its floor. -/
def Dev.poolCheck (d : Dev) : Dev :=
  if d.sharedSize < 65536 ∧ !d.b0 .BUF_STATUS_POOL_LOW then
    (d.set0 .BUF_STATUS_POOL_LOW 1).record .BUF_POOL_LOW 5 0
      (payloadOf [(4, d.sharedSize), (4, d.f0 .BUF_RETIRED_CELLS)])
  else d

/-- A second uncorrectable error of a word within 1 s: a spare of its bank, or its cell is retired. -/
def Dev.bufHard (d : Dev) (bank word : Nat) : Dev :=
  let used := Map.get 0 d.buf.spares bank
  let d0 := d.noteEcc 3 bank word
  if used < 64 then
    let d1 := { d0 with buf := { d0.buf with spares := Map.set 0 d0.buf.spares bank (used + 1) } }
    (((d1.satInc .BUF_SPARES_USED 0 0 1).set0 .BUF_STATUS_SPARE_USED 1).record .BUF_WORD_SPARED 5 0
      (payloadOf [])).spareUsed .BUF_WORD_SPARED
  else
    let cell := word * 16 + bank / 4
    let d1 := d0.satInc .BUF_RETIRED_CELLS 0 0 1
    (d1.record .BUF_CELL_RETIRED 5 0 (payloadOf [(4, cell), (4, d1.f0 .BUF_RETIRED_CELLS)])).poolCheck

/-- The words corrected on a read: each is counted and stands in BUF_LAST_ECC (R276, R279). -/
def Dev.eccCorrected (d : Dev) (l : List (Fin 4 × Fin 64 × Fin 65536)) : Dev :=
  l.foldl (fun d x => ((d.count .BUF_ECC_CORRECTED 0).noteEcc 1 x.2.1 x.2.2).set0 .BUF_LAST_ECC_MEMORY x.1) d

/-- A frame that leaves by port `p` is lost to an uncorrectable word: counted and recorded (R276). -/
def Dev.eccLost (d : Dev) (p bank word : Nat) : Dev :=
  ((d.count .BUF_ECC_UNCORRECTED 0).noteEcc 2 bank word).record .BUF_ECC_UNCORRECTABLE 1 p
    (payloadOf [(1, 0), (1, bank), (2, word), (1, p)])

/-- An uncorrectable word is read for a frame that leaves by port `p`: copies that are not sent yet are marked (R276), and
a second error of the word within 1 s is a hard fault (R278). -/
def Dev.eccBad (d : Dev) (p id bank word : Nat) : Dev :=
  let d1 := d.eccLost p bank word
  let d2 := d1.setChain id ((d1.chain id).map (fun c => { c with marked := some (bank, word) }))
  let e := d2.wordError .cell bank word
  if e.1 then e.2.bufHard bank word else e.2

/-- The check of R277 on a copy that left by port `p` fails: on its CRC-32C when the editor wrote it, on its FCS
otherwise. -/
def Dev.e2eBad (d : Dev) (p : Nat) (crc : Bool) : Dev :=
  (if crc then d.count .BUF_E2E_CRC_ERR 0 else d.count .BUF_E2E_FCS_ERR 0).record .E2E_CHECK_FAILED 1 p
    (payloadOf [(1, p), (1, b2n (!crc))])

/-- The editor rewrites the frame on its way out: its edits, its fabric header, or an FCS that it does not have. -/
def Desc.rewrites (de : Desc) (c : Chain) : Bool := de.edits.any || de.fab.isSome || !c.hasFcs

/-- The reads of `n` cells, and those of them that wait for a bank group (R252, Table 20-3). -/
def Dev.readTraffic (d : Dev) (n : Nat) (rd : CellRead) : Dev :=
  (d.perf 4 0x201 0xFF n).perf 4 0x202 0xFF (min rd.waits n)

/-- The cells of a copy that leaves for the host, the firmware or the hold writer are read (R276, R277): answers whether
the copy is good.  A marked chain is dropped at its first read. -/
def Dev.readCells (d : Dev) (p : Nat) (de : Desc) (c : Chain) (rd : CellRead) : Dev × Bool :=
  let d1 := (d.eccCorrected rd.corrected).readTraffic c.cells rd
  match c.marked, rd.bad with
  | some (b, w), _ => (d1.eccLost p b w, false)
  | none, some (b, w) => (d1.eccBad p de.chain b w, false)
  | none, none => if rd.corrupt ∧ !de.truncates c then (d1.e2eBad p (de.rewrites c), false) else (d1, true)

/-- A copy gives its reference back, and the cells are freed by its port or, where the reference counting is at fault, by
`rd.freeBy`: refused unless that is the last owner of a chain whose count is zero (R265). -/
def Dev.giveBack (d : Dev) (id p : Nat) (rd : CellRead) : Dev :=
  match rd.freeBy with
  | none => d.release id p
  | some x => (d.dropRef id p).freeRequest id x

end Sys2Proof.Machine
end

