-- ==== Sys2Proof/Machine/Dies.lean ====
section
/-! DEFINITION. Dies, die-to-die links and the clock tree (spec/01): flits and their retry, diagnosis and sparing of
link wires, the isolation of a region, and the core clock. -/

namespace Sys2Proof.Machine

/-! ### Link wires (R19, R20, R145 to R147) -/

/-- The state of one direction of one bundle; direction 0 is away from the core die. -/
def Dev.flitDir (d : Dev) (k b dir : Nat) : FlitDir := Map.get .reset d.flits (k3 k b dir)
def Dev.setFlitDir (d : Dev) (k b dir : Nat) (f : FlitDir) : Dev :=
  { d with flits := Map.set .reset d.flits (k3 k b dir) f }

def Dev.wireSt (d : Dev) (k : Nat) : WireSt := Map.get .reset d.wires k
def Dev.setWire (d : Dev) (k : Nat) (w : WireSt) : Dev := { d with wires := Map.set .reset d.wires k w }

/-- Bundles of a link in each direction (Table 1-2). -/
def linkBundles (k : Nat) : Nat := if k < 4 then 10 else if k = 4 then 6 else 3

/-- The far die of a link (Tables 1-1 and 1-2). -/
def linkDie (k : Nat) : Nat := k + 1

/-- Number of a wire of a link: 66 per bundle direction, the spares last. -/
def wireNo (b dir w : Nat) : Nat := (2 * b + dir) * 66 + w

/-- The spares in use on a bundle direction (Table 1-5). -/
def Dev.sparesUsed (d : Dev) (k b dir : Nat) : Nat :=
  bitsOf (d.f1 (if dir = 0 then .HLT_D2D_SPARE_OUT_USED else .HLT_D2D_SPARE_IN_USED) k) (2 * b) 2

/-- One more spare of a bundle direction is in use; the last one sets SPARE_EXHAUSTED. -/
def Dev.useSpare (d : Dev) (k b dir : Nat) : Dev :=
  let f : Field := if dir = 0 then .HLT_D2D_SPARE_OUT_USED else .HLT_D2D_SPARE_IN_USED
  let d1 := d.set1 f k (d.f1 f k + 2 ^ (2 * b))
  if d1.sparesUsed k b dir = 2 then d1.set1 .HLT_D2D_STATUS_SPARE_EXHAUSTED k 1 else d1

/-- The spare wires (64 or 65) of a bundle direction that carry no bits for good. -/
def Dev.freeSpares (d : Dev) (k b dir : Nat) : List Nat :=
  let w := d.wireSt k
  [64, 65].filter (fun s => wireNo b dir s ∉ w.dead ∧ wireNo b dir s ∉ w.inService)

/-- A free spare wire of a bundle direction: one that a retraining does not use, where there is one. -/
def Dev.freeSpare (d : Dev) (k b dir : Nat) : Option Nat :=
  let busy (s : Nat) : Bool := match (d.wireSt k).wire with
    | some (n, sp) => n == wireNo b dir s || (n / 66 == wireNo b dir 0 / 66 && sp == some s)
    | none => false
  let l := d.freeSpares k b dir
  match l.find? (fun s => !busy s) with
  | some s => some s
  | none => l.head?

/-- A retraining of link `k` that concerns wire `no`, or steers bits onto it, ends without result (log 72). -/
def Dev.endWireRetrain (d : Dev) (k no : Nat) : Dev :=
  let x := d.wireSt k
  match x.wire with
  | none => d
  | some (n, sp) =>
    if n = no ∨ sp.any (fun s => no == n / 66 * 66 + s) then
      (d.setWire k { x with wire := none, again := false, out := none }).set1 .HLT_D2D_STATUS_RETRAINING k 0
    else d

/-- A wire is replaced by a spare: the spare is consumed, D2D_WIRE_SPARED is recorded, and the device moves to AUTUMN
(R19). -/
def Dev.spareWire (d : Dev) (k b dir w s : Nat) : Dev :=
  let d := (d.endWireRetrain k (wireNo b dir w)).endWireRetrain k (wireNo b dir s)
  let x := d.wireSt k
  let d1 := d.setWire k { x with
    dead := wireNo b dir w :: x.dead, inService := wireNo b dir s :: x.inService.erase (wireNo b dir w) }
  let d2 := ((d1.useSpare k b dir).satInc .HLT_D2D_REPAIR k 0 1).record .D2D_WIRE_SPARED 6 k
    (payloadOf [(1, k), (1, b), (1, dir), (1, w), (1, s)])
  (d2.dieFault (linkDie k)).autumn .HLT_AUTUMN_CAUSE_SPARE .D2D_WIRE_SPARED

/-- An unused spare wire found bad is out of use: it counts as consumed (R24). -/
def Dev.loseSpare (d : Dev) (k b dir s : Nat) (code : EvCode) : Dev :=
  let d := d.endWireRetrain k (wireNo b dir s)
  let x := d.wireSt k
  let d1 := (d.setWire k { x with dead := wireNo b dir s :: x.dead }).useSpare k b dir
  (d1.dieFault (linkDie k)).autumn .HLT_AUTUMN_CAUSE_SPARE code

/-- A link fails: WINTER (R20); the record names the far die (R13). -/
def Dev.failLink (d : Dev) (k : Nat) : Dev :=
  if d.linkFailed k then d
  else
    let d1 := ((d.set1 .HLT_D2D_STATUS_STATE k 3).set1 .HLT_D2D_STATUS_DIAG k 0).record .D2D_LINK_FAILED 5 (linkDie k)
      (payloadOf [])
    (d1.dieFault (linkDie k)).winterCause .HLT_CAUSE_D2D_LINK EvCode.D2D_LINK_FAILED.code

/-! ### Flits (R16 to R18) -/

/-- A bundle is out of rotation: under diagnosis (R19), or for the retraining of a wire that no free spare carries
(R146). -/
def Dev.bundleOut (d : Dev) (k b : Nat) : Bool :=
  (d.flitDir k b 0).diag.isSome || (d.flitDir k b 1).diag.isSome || (d.wireSt k).out == some b

/-- The link carries flits: it is up, and the bundle exists and is in rotation. -/
def Dev.bundleUp (d : Dev) (k b : Nat) : Bool :=
  decide (d.f1 .HLT_D2D_STATUS_STATE k = 2) && decide (b < linkBundles k) && !d.bundleOut k b

def Dev.linkDir (d : Dev) (k dir : Nat) : LinkDir := Map.get .reset d.links (k2 k dir)
def Dev.setLinkDir (d : Dev) (k dir : Nat) (x : LinkDir) : Dev :=
  { d with links := Map.set .reset d.links (k2 k dir) x }

/-- How far sequence number `n` lies past the oldest flit of a retry buffer. -/
def FlitDir.ahead (f : FlitDir) (n : Nat) : Nat := (n + 4096 - f.oldest) % 4096

/-- Flit `seq` of a bundle has been sent and is not acknowledged. -/
def FlitDir.holds (f : FlitDir) (seq : Nat) : Bool := decide (f.ahead seq < f.ahead f.next)

/-- The sender of a link direction sends its next flit on the next bundle in rotation, while that bundle's retry buffer of
512 flits has room (R16, R18). -/
def Dev.sendFlit (d : Dev) (k dir : Nat) : Option Dev :=
  let x := d.linkDir k dir
  let n := linkBundles k
  match ((List.range n).map (fun i => (x.turn + i) % n)).find? (d.bundleUp k) with
  | none => none
  | some b =>
    let f := d.flitDir k b dir
    if 512 ≤ f.ahead f.next then none
    else some ((d.setFlitDir k b dir { f with next := (f.next + 1) % 4096 }).setLinkDir k dir
      { x with turn := (b + 1) % n, order := x.order ++ [b] })

/-- A flit that arrives has been sent, and so have those before it in the rotation: the sender sends until it has sent
flit `seq` of bundle `b`, as far as it can (log 72). -/
def Dev.sendUntil (k b dir seq : Nat) : Nat → Dev → Dev
  | 0, d => d
  | n + 1, d =>
    if (d.flitDir k b dir).holds seq then d
    else match d.sendFlit k dir with
      | none => d
      | some e => Dev.sendUntil k b dir seq n e

/-- Flits are delivered in the order of sending, as far as their bundles have accepted them: what remains, what is still
ready, and the flits delivered. -/
def deliverFlits (ready : Map Nat) : List Nat → List Nat × Map Nat × Nat
  | [] => ([], ready, 0)
  | b :: l =>
    if Map.get 0 ready b = 0 then (b :: l, ready, 0)
    else
      let r := deliverFlits (Map.set 0 ready b (Map.get 0 ready b - 1)) l
      (r.1, r.2.1, r.2.2 + 1)

/-- A bundle has accepted one more flit: the receiving end restores the order of the link (R16, R17). -/
def Dev.acceptFlit (d : Dev) (k b dir : Nat) : Dev :=
  let x := d.linkDir k dir
  let r := deliverFlits (Map.set 0 x.ready b (Map.get 0 x.ready b + 1)) x.order
  d.setLinkDir k dir { x with order := r.1, ready := r.2.1, delivered := x.delivered + r.2.2 }

/-- The receiver sends a NAK naming the flit it expects; the eighth failure of one flit starts the diagnosis (R19). -/
def Dev.nakFlit (d : Dev) (k b dir : Nat) (same : Bool) : Dev :=
  let f := d.flitDir k b dir
  let n := if same then f.fails + 1 else f.fails
  let d1 := (d.satInc .HLT_D2D_CRC_ERR k 0 1).emit (.nak k b dir f.expected)
  if n < 8 then d1.setFlitDir k b dir { f with discarding := true, fails := n }
  else (d1.setFlitDir k b dir { f with discarding := true, fails := n, diag := some d.now }).set1
    .HLT_D2D_STATUS_DIAG k 1

/-- An acknowledgement of every flit before `ack` reaches the sender of a bundle direction: it releases those that the
receiver has accepted. -/
def Dev.ackFlits (d : Dev) (k b dir ack : Nat) : Dev :=
  let g := d.flitDir k b dir
  if g.ahead ack ≤ g.ahead g.expected then d.setFlitDir k b dir { g with oldest := ack } else d

/-- FLIT_RECEIVE (R18): flit `seq` arrives on a bundle direction with a good or a bad CRC.  The expected flit with a
good CRC is accepted and its acknowledgement releases the flits before `ack` at the other end; a flit with a bad CRC is
discarded and answered with a NAK; every other flit is discarded.  A flit beyond the sender's buffer cannot arrive. -/
def execFlitReceive (k : Link) (b : Fin 10) (dir : Fin 2) (seq ack : Fin 4096) (crcOk : Bool) (s : State) :
    Host.Outcome State Fault Refusal :=
  s.run fun d =>
    if !d.bundleUp k b then d
    else
      let e := if ((d.flitDir k b dir).ahead seq) < 512 then Dev.sendUntil k b dir seq 5120 d else d
      let f := e.flitDir k b dir
      if !crcOk ∧ !f.holds seq then d
      else if !crcOk then
        if f.discarding ∧ seq.val ≠ f.expected then e.satInc .HLT_D2D_CRC_ERR k 0 1
        else e.nakFlit k b dir (decide (seq.val = f.expected))
      else if seq.val ≠ f.expected ∨ !f.holds seq then e
      else
        let d1 := e.setFlitDir k b dir
          { f with expected := (f.expected + 1) % 4096, discarding := false, fails := 0 }
        (d1.acceptFlit k b dir).ackFlits k b (1 - dir.val) ack

/-- The sender replays from a flit of its retry buffer, 512 flits at most, up to the last one sent. -/
def Dev.replay (d : Dev) (k b dir from_ : Nat) : Dev :=
  let f := d.flitDir k b dir
  (List.range (min 512 ((f.next + 4096 - from_) % 4096))).foldl
    (fun d i => d.emit (.flit k b dir ((from_ + i) % 4096))) (d.satInc .HLT_D2D_REPLAY k 0 1)

/-- NAK_REPLAY (R18): the sender of a bundle direction receives a NAK naming flit `seq` of its retry buffer. -/
def execNakReplay (k : Link) (b : Fin 10) (dir : Fin 2) (seq : Fin 4096) (s : State) :
    Host.Outcome State Fault Refusal :=
  s.run fun d => if d.bundleUp k b ∧ (d.flitDir k b dir).holds seq then d.replay k b dir seq else d

/-- ACK_TIMEOUT_REPLAY (R18): 256 CLK_MEM cycles have passed without an acknowledgement. -/
def execAckTimeoutReplay (k : Link) (b : Fin 10) (dir : Fin 2) (s : State) : Host.Outcome State Fault Refusal :=
  s.run fun d =>
    let f := d.flitDir k b dir
    if d.bundleUp k b ∧ f.oldest ≠ f.next then d.replay k b dir f.oldest else d

/-- Each failing wire of a direction in turn, the lowest first: a spare takes over, or a spare is lost; `false` when
the bundle needs more spares than it has left. -/
def Dev.repairWires (d : Dev) (k b dir : Nat) : List Nat → Dev × Bool
  | [] => (d, true)
  | w :: ws =>
    let x := d.wireSt k
    let no := wireNo b dir w
    if no ∈ x.dead then Dev.repairWires d k b dir ws
    else if 64 ≤ w ∧ no ∉ x.inService then Dev.repairWires (d.loseSpare k b dir w .D2D_WIRE_SPARED) k b dir ws
    else match d.freeSpare k b dir with
      | some s => Dev.repairWires (d.spareWire k b dir w s) k b dir ws
      | none => (d, false)

/-- BUNDLE_DIAGNOSIS_DONE (R19, R20): after 1 µs the diagnosis has found the failing wires of both directions; each is
spared and the bundle rejoins the rotation, or the link fails; `clears` is false when the CRC failures do not clear. -/
def execBundleDiagnosisDone (k : Link) (b : Fin 10) (badOut badIn : List (Fin 66)) (clears : Bool) (s : State) :
    Host.Outcome State Fault Refusal :=
  s.run fun d =>
    let due (dir : Nat) : Bool := (d.flitDir k b dir).diag.any (fun t => decide (t + tUs ≤ d.now))
    if !(due 0 || due 1) then d
    else
      let lows (l : List (Fin 66)) : List Nat := (List.range 66).filter (fun w => l.any (fun x => x.val == w))
      let r0 := d.repairWires k b 0 (lows badOut)
      let r1 := if r0.2 then r0.1.repairWires k b 1 (lows badIn) else r0
      if r1.2 ∧ clears then
        let clear (d : Dev) (dir : Nat) : Dev :=
          d.setFlitDir k b dir { d.flitDir k b dir with fails := 0, diag := Option.none }
        let d2 := clear (clear r1.1 0) 1
        let others := (List.range 10).any (fun c => (d2.flitDir k c 0).diag.isSome || (d2.flitDir k c 1).diag.isSome)
        if others then d2 else d2.set1 .HLT_D2D_STATUS_DIAG k 0
      else r1.1.failLink k

/-! ### Wire retraining (R145 to R147) -/

/-- D2D_WIRE_RETRAIN_START (R145, R146): the link's next wire is retrained.  An active wire is steered onto a free
spare, or its bundle leaves the rotation if no other bundle of the link is out; an unused spare is retrained in place;
a wire out of use, or one that must wait, lets the order move on. -/
def execD2dWireRetrainStart (k : Link) (s : State) : Host.Outcome State Fault Refusal :=
  s.run fun d =>
    let x := d.wireSt k
    if x.wire.isSome ∨ d.now < x.nextAt ∨ d.f1 .HLT_D2D_STATUS_STATE k ≠ 2 then d
    else
      let n := x.next
      let b := n / 132
      let dir := n / 66 % 2
      let y := { x with next := (n + 1) % (132 * linkBundles k), nextAt := d.now + 20 * tMs, again := false }
      let start (y : WireSt) : Dev := (d.setWire k y).set1 .HLT_D2D_STATUS_RETRAINING k 1
      let outs := (List.range 10).any (d.bundleOut k)
      if n ∈ x.dead then d.setWire k y
      else if 64 ≤ n % 66 ∧ n ∉ x.inService then start { y with wire := some (n, none) }
      else match d.freeSpare k b dir with
        | some sp => start { y with wire := some (n, some sp) }
        | none => if outs then d.setWire k y else start { y with wire := some (n, none), out := some b }

/-- D2D_WIRE_RETRAIN_DONE (R147): the wire under retraining meets its eye margins or misses them; a second miss
records D2D_RETRAIN_FAILED with what becomes of the wire: 0 replaced by the spare, 1 left on its previous settings,
2 an unused spare out of use. -/
def execD2dWireRetrainDone (k : Link) (ok : Bool) (s : State) : Host.Outcome State Fault Refusal :=
  s.run fun d =>
    let x := d.wireSt k
    match x.wire with
    | none => d
    | some (n, sp) =>
      let b := n / 132
      let dir := n / 66 % 2
      let w := n % 66
      let ended := (d.setWire k { x with wire := none, again := false, out := none }).set1
        .HLT_D2D_STATUS_RETRAINING k 0
      let failed (act : Nat) : Dev := ended.record .D2D_RETRAIN_FAILED 6 k
        (payloadOf [(1, k), (1, b), (1, dir), (1, w), (1, act)])
      if ok then ended
      else if !x.again then d.setWire k { x with again := true }
      else match sp with
        | some s => (failed 0).spareWire k b dir w s
        | none => if 64 ≤ w ∧ n ∉ x.inService then (failed 2).loseSpare k b dir w .D2D_RETRAIN_FAILED else failed 1

/-! ### Containment (R27 to R32) -/

/-- REGION_ISOLATE (R27): a region is isolated; `cause` is the code of the event that decided it. -/
def execRegionIsolate (n : Region) (cause : Fin 65536) (s : State) : Host.Outcome State Fault Refusal :=
  s.run fun d => d.isolateRegion n cause

/-- LANE_DIE_FAILED (R30): a fatal fault inside a lane die whose link works is recorded and isolates its region.  In a region
already isolated the record and HLT_SUM_DIE are as before and nothing is isolated again (DESIGN CHOICE, log 72). -/
def execLaneDieFailed (n : Region) (s : State) : Host.Outcome State Fault Refusal :=
  s.run fun d =>
    if d.linkFailed n then d
    else ((d.record .LANE_DIE_FAILED 5 (1 + n.val) (payloadOf [])).dieFault (1 + n.val)).isolateRegion n
      EvCode.LANE_DIE_FAILED.code

/-- HOLD_DIE_FAILED (R31, R314): a hold memory die (0 to 17) or a base die (18, 19) is declared failed. -/
def Dev.failHoldDie (d : Dev) (die : Nat) : Dev :=
  let h := d.hld
  if (die < 18 ∧ die ∈ h.failedDies) ∨ (18 ≤ die ∧ die - 18 ∈ h.failedBases) then d
  else
    let d1 : Dev := if die < 18 then
        let d0 := { d with hld := { h with failedDies := die :: h.failedDies } }
        ((d0.set1 .HLD_DIE_STATUS_STATE die 2).set0 .HLD_STATUS_FAILED_DIES (min 3 (h.failedDies.length + 1))).set0
          .HLT_SUM_UNIT_HOLD_DIE 1
      else { d with hld := { h with failedBases := (die - 18) :: h.failedBases } }.set0 .HLD_STATUS_BASE_FAILED 1
    let id := if die < 18 then 8 + die else 6 + (die - 18)
    let d2 := ((d1.record .HOLD_DIE_FAILED 5 id (payloadOf [(1, d1.hld.failedDies.length)])).dieFault id).raise 319
    let d3 := (if d2.hld.retrain.any (fun x => x.1 == die) then d2.endRetrain else d2).autumn .HLT_AUTUMN_CAUSE_HOLD .HOLD_DIE_FAILED
    if 3 ≤ d3.hld.failedDies.length ∨ d3.hld.failedBases ≠ [] then d3.holdOutOfService (some id)
    else if d3.hld.failedDies.length = 2 ∧ !d3.hld.suspended then
      let d4 := d3.abortRetrain 2
      ({ d4 with hld := { d4.hld with suspended := true } }.set0 .HLD_RETRAIN_STATUS_SUSPENDED 1).record
        .HOLD_RETRAIN_SUSPENDED 0 0 (payloadOf [])
    else d3

/-- HOLD_DIE_FAILED (R314). -/
def execHoldDieFailed (die : Fin 20) (s : State) : Host.Outcome State Fault Refusal :=
  s.run fun d => d.failHoldDie die

/-- FATAL_DIE_FAULT (R32): a fatal fault on the core die, or on the management die, moves the device to WINTER.  How far PCI
Express and SMBus stay up after a fault on the management die the spec leaves to the fault; DESIGN CHOICE (log 72): both
stay up fully. -/
def execFatalDieFault (mgmt : Bool) (s : State) : Host.Outcome State Fault Refusal :=
  s.run fun d =>
    if mgmt then (d.dieFault 5).winterCause .HLT_CAUSE_MGMT_FATAL 0
    else (d.dieFault 0).winterCause .HLT_CAUSE_CORE_FATAL 0

/-! ### Clocks (R37, R40) -/

/-- The root has locked and the boot ROM runs: the links train, the fuses will have been read in 1.8 ms and the reserved
area mounted 118 ms later (Table 3-6, log 27). -/
def Dev.afterLock (d : Dev) : Dev :=
  let d1 := { d with boot := { d.boot with startAt := some (d.now + 18 * tMs / 10), mountAt := some (d.now + 1198 * tMs / 10) } }
  (List.range 7).foldl (fun d k => if d.f1 .HLT_D2D_STATUS_STATE k = 0 then d.set1 .HLT_D2D_STATUS_STATE k 1 else d)
    (d1.set0 .CLK_STATUS_ON_RING 0)

/-- ROOT_PLL_FIRST_LOCK (R37): the root PLL locks for the first time since the reset; root-loss detection is armed.
The operands are the other clocks then found: the lock of each lane die's PLLs and PCIE_REFCLK. -/
def execRootPllFirstLock (lanePll : Fin 16) (pcieRef : Bool) (s : State) : Host.Outcome State Fault Refusal :=
  s.run fun d =>
    if d.b0 .CLK_STATUS_ROOT_LOCK ∨ d.b0 .CLK_STATUS_ROOT_LOST then d
    else
      let d1 := (((d.set0 .CLK_STATUS_ROOT_LOCK 1).set0 .CLK_STATUS_REF_OK 1).set0 .CLK_STATUS_LANE_PLL_LOCK lanePll).set0
        .CLK_STATUS_PCIE_REF_OK (b2n pcieRef)
      if d1.boot.romRuns then d1.afterLock else d1

/-- ROOT_CLOCK_LOST (R37, R341): after the first lock, REFCLK shows no edge or the PLL lost its lock (`ref` is true) for
64 reference cycles: management moves to the ring oscillator, the FRC stops, and the device enters WINTER. -/
def execRootClockLost (ref : Bool) (s : State) : Host.Outcome State Fault Refusal :=
  s.run fun d =>
    if !d.b0 .CLK_STATUS_ROOT_LOCK then d
    else
      let d1 := (((d.set0 .CLK_STATUS_ROOT_LOCK 0).set0 .CLK_STATUS_REF_OK (b2n ref)).set0 .CLK_STATUS_ROOT_LOST 1).set0
        .CLK_STATUS_ON_RING 1
      let d2 := ({ d1 with tim := { d1.tim with stopped := true } }).set0 .TIM_STATUS_FRC_VALID 0
      (d2.record .ROOT_CLOCK_LOST 0 0 (payloadOf [])).winterCause .HLT_CAUSE_ROOT_CLOCK
        EvCode.ROOT_CLOCK_LOST.code

/-- A PW write of CLK_DIV (R40): CORE_HALF = 1 is refused outside WINTER once an image is committed. -/
def Dev.writeClkDiv (d : Dev) (m : Nat) (half : Bool) : Dev :=
  d.pwWrite m (Reg.CLK_DIV.addr 0 0) .CLK_DIV_BUSY .CLK_DIV_COLLISION fun d =>
    if half ∧ !d.winter ∧ d.boot.committed then d.set0 .CLK_DIV_REFUSED 1
    else (d.set0 .CLK_DIV_CORE_HALF (b2n half)).set0 .CLK_DIV_BUSY 1

/-- CLK_DIV_CORE_HALF (R40): a master writes CLK_DIV. -/
def execClkDivCoreHalf (m : Master) (half : Bool) (s : State) : Host.Outcome State Fault Refusal :=
  s.run fun d => d.onWrite m .CLK_DIV 0 0 fun d => d.writeClkDiv m half

/-- CORE_CLOCK_REDIVIDED (R40): the re-division ends. -/
def execCoreClockRedivided (s : State) : Host.Outcome State Fault Refusal :=
  s.run fun d => if d.b0 .CLK_DIV_BUSY then d.set0 .CLK_DIV_BUSY 0 else d

end Sys2Proof.Machine
end

