-- ==== Sys2Proof/Machine/HoldOps.lean ====
section
/-! DEFINITION. The hold store's operations (spec/11): the free ring, zones and wear, the outer code, the placing of frames
in pages, and the discard of held frames. -/

namespace Sys2Proof.Machine

/-! ### The free ring (R289, R290) -/

/-- First held-traffic page, and the end of the area below a capture area of `gib` GiB. -/
def heldFirst : Nat := 39168
def heldEnd (gib : Nat) : Nat := 67108864 - gib * 16384

/-- The ring that a format fills. -/
def ringFor (gib : Nat) : FreeRing := ⟨heldFirst, heldEnd gib, [], [], [], 0, heldEnd gib - heldFirst, []⟩

/-- TAIL - HEAD. -/
def FreeRing.entries (r : FreeRing) : Nat := (r.freshEnd - r.freshNext) + r.spilled.length

/-- HLD_FREE_PAGES: ring and cache, without the entries lost. -/
def FreeRing.free (r : FreeRing) : Nat := r.entries + r.allocHalf.length + r.freeHalf.length - r.holes.length

/-- The entry `k` places behind the ring head. -/
def FreeRing.entry (r : FreeRing) (k : Nat) : Option Nat :=
  if k < r.freshEnd - r.freshNext then some (r.freshNext + k) else r.spilled[k - (r.freshEnd - r.freshNext)]?

/-- Entries of a list that starts at count `c`, without the lost ones. -/
def FreeRing.sound (r : FreeRing) (c : Nat) (l : List Nat) : List Nat :=
  (l.zipIdx.filter (fun x => !r.holes.contains (c + x.2))).map (·.1)

/-- The allocation half takes 1,024 entries, or as many as there are, from the ring head. -/
def FreeRing.refill (r : FreeRing) : FreeRing :=
  let a := min 1024 (r.freshEnd - r.freshNext)
  let b := min (1024 - a) r.spilled.length
  let l := (List.range a).map (· + r.freshNext) ++ r.spilled.take b
  { r with freshNext := r.freshNext + a, spilled := r.spilled.drop b, headCnt := r.headCnt + a + b
           allocHalf := r.allocHalf ++ r.sound r.headCnt l, holes := r.holes.filter (fun c => decide (r.headCnt + a + b ≤ c)) }

/-- The oldest 1,024 entries of the free half go to the ring tail. -/
def FreeRing.spill (r : FreeRing) : FreeRing :=
  let l := r.freeHalf.take 1024
  { r with freeHalf := r.freeHalf.drop 1024, spilled := r.spilled ++ l, tailCnt := r.tailCnt + l.length }

/-- The whole free half goes to the ring tail. -/
def FreeRing.spillAll (r : FreeRing) : FreeRing :=
  { r with freeHalf := [], spilled := r.spilled ++ r.freeHalf, tailCnt := r.tailCnt + r.freeHalf.length }

/-- One page is taken: from the allocation half, or, with the ring empty, from the free half. -/
def FreeRing.alloc (r : FreeRing) : Option (Nat × FreeRing) :=
  let r1 := if r.allocHalf.isEmpty then r.refill else r
  match r1.allocHalf, r1.freeHalf with
  | p :: ps, _ => some (p, { r1 with allocHalf := ps })
  | [], p :: ps => some (p, { r1 with freeHalf := ps })
  | [], [] => none

def Dev.setRing (d : Dev) (r : FreeRing) : Dev := { d with hld := { d.hld with ring := r } }

/-- Pages return to the free half. -/
def Dev.freePages (d : Dev) (ps : List Nat) : Dev :=
  if ps.isEmpty then d
  else { d with hld := { d.hld with fullAt := none, ring := { d.hld.ring with freeHalf := d.hld.ring.freeHalf ++ ps } } }

/-- Pages owned by hold queues (HLD_HELD_PAGES). -/
def Dev.heldPages (d : Dev) : Nat :=
  d.hld.queues.foldl (fun n x => n + x.2.pages.length + x.2.chainPages.length) 0

/-! ### Zones (R288, R310, R312) -/

def Zone.reset : Zone := ⟨0, 16384, 0, 0, 0, 0⟩
def Dev.zone (d : Dev) (z : Nat) : Zone := Map.get .reset d.hld.zones z
def Dev.setZone (d : Dev) (z : Nat) (x : Zone) : Dev := { d with hld := { d.hld with zones := Map.set .reset d.hld.zones z x } }

/-- The physical zone of a logical one; the map lists exchanged zones, one more than their number. -/
def Dev.physZone (d : Dev) (z : Nat) : Nat :=
  let v := Map.get 0 d.hld.zoneMap z
  if v = 0 then z else v - 1

def Dev.setPhysZone (d : Dev) (z ph : Nat) : Dev :=
  { d with hld := { d.hld with zoneMap := Map.set 0 d.hld.zoneMap z (if ph = z then 0 else ph + 1) } }

/-- The physical zone that holds a page now: of two zones that exchange places, the pairs below the progress pointer lie in
the other one already (R311). -/
def Dev.zoneOf (d : Dev) (page : Nat) : Nat :=
  let z := page / 16384
  let other : Nat := match d.hld.swapping with
    | some (a, b, n) => if page % 16384 < n then (if z = a then b else if z = b then a else z) else z
    | none => z
  d.physZone other

/-- The slot of a page within its zone. -/
def Zone.slot (x : Zone) (page : Nat) : Nat :=
  let s := (page + x.start) % 16384
  if x.gap ≤ s then s + 1 else s

/-- The stripe of a row of a page. -/
def Dev.stripeOf (d : Dev) (page row : Nat) : Nat :=
  let z := d.zoneOf page
  16 * (16385 * z + (d.zone z).slot (page % 16384)) + row

/-- The page and row that a stripe holds, below the control area; the gap slot holds none. -/
def Dev.pageOfStripe (d : Dev) (stripe : Nat) : Option (Nat × Nat) :=
  let ph := stripe / 16 / 16385
  let s := stripe / 16 % 16385
  let x := d.zone ph
  let logical := ((d.hld.zoneMap.find? (fun m => m.2 == ph + 1)).map (·.1)).getD ph
  let k := ((if x.gap < s then s - 1 else s) + 16384 - x.start) % 16384
  let home : Nat := match d.hld.swapping with
    | some (a, b, n) => if k < n then (if logical = a then b else if logical = b then a else logical) else logical
    | none => logical
  if 4096 ≤ ph ∨ s = x.gap then none else some (home * 16384 + k, stripe % 16)

/-- WEAR_MARGIN follows the highest wear counter (R312). -/
def Dev.wearCheck (d : Dev) (z : Nat) : Dev :=
  if 80000000 ≤ (d.zone z).wear ∧ !d.b0 .HLD_STATUS_WEAR_MARGIN then
    (((d.set0 .HLD_STATUS_WEAR_MARGIN 1).set0 .HLT_SUM_PKG_WEAR 1).record .HOLD_WEAR_MARGIN 5 0 (payloadOf [(2, z), (4, (d.zone z).wear)])).autumn
      .HLT_AUTUMN_CAUSE_WEAR .HOLD_WEAR_MARGIN
  else d

/-- `n` rows are written to a physical zone: 16 rows make a page write, 16,384 page writes a step of wear. -/
def Dev.wearRows (d : Dev) (z n : Nat) : Dev :=
  let x := d.zone z
  let w := x.writes + n
  (d.setZone z { x with writes := w % 262144, wear := x.wear + w / 262144, sinceGap := x.sinceGap + n }).wearCheck z

/-! ### Retraining and deferral (R148 to R150) -/

/-- A page written while a die is retrained enters the deferral list; a full list abandons the retraining. -/
def Dev.defer (d : Dev) (page : Nat) : Dev :=
  if d.hld.retrain.isNone ∨ page ∈ d.hld.deferral then d
  else if 4096 ≤ d.hld.deferral.length then d.abortRetrain 1
  else
    ({ d with hld := { d.hld with deferral := d.hld.deferral ++ [page] } }).set0 .HLD_RETRAIN_STATUS_DEFERRED
      (d.hld.deferral.length + 1)

/-- A row of a page is written; `kind` as the QUAL of ROW_WRITES.  Its symbols on a die under retraining are deferred. -/
def Dev.noteRowWrite (d : Dev) (page kind : Nat) : Dev := ((d.perf 5 0x300 kind 1).wearRows (d.zoneOf page) 1).defer page

/-- A stripe is written again in place (R309), in whatever page or hidden slot it lies: its physical zone wears, a page's
symbols on a die under retraining are deferred. -/
def Dev.rewriteStripe (d : Dev) (stripe : Nat) : Dev :=
  let z := stripe / 16 / 16385
  let d1 := d.perf 5 0x300 3 1
  if 4096 ≤ z then d1
  else match d1.pageOfStripe stripe with
    | some x => (d1.wearRows z 1).defer x.1
    | none => d1.wearRows z 1

/-- A page is copied to another slot or zone. -/
def Dev.notePageCopy (d : Dev) (page : Nat) : Dev := ((d.perf 5 0x300 3 16).wearRows (d.zoneOf page) 16).defer page

/-! ### The outer code (R284 to R286) -/

/-- Multiplication by α in GF(2^8) with field polynomial 0x11D. -/
def gfAlpha (v : Nat) : Nat := if 128 ≤ v then Nat.xor (2 * v) 0x11D else 2 * v

/-- Multiplication by α^i. -/
def gfPow : Nat → Nat → Nat
  | 0, v => v
  | i + 1, v => gfPow i (gfAlpha v)

/-- The symbol that a die carries. -/
def dieSymbol (die : Nat) : Nat := if die < 8 then die else if die = 8 then 16 else if die < 17 then die - 1 else 17

/-- The two syndromes of the bytes at one position of the 18 sectors, listed by symbol. -/
def syndromes (l : List (Nat × Nat)) : Nat × Nat :=
  l.foldl (fun s e => (Nat.xor s.1 e.2, Nat.xor s.2 (gfPow e.1 e.2))) (0, 0)

inductive Outer | good | fixed | lost
  deriving DecidableEq, Repr

/-- A wrong byte that the inner code of a die lets through: die, byte position in the sector, and error value. -/
structure ByteErr where
  die : Nat
  pos : Nat
  val : Nat
  deriving DecidableEq, Repr

/-- The syndromes of every byte position that holds a wrong byte on a die that is not erased (R285): the code is applied byte
by byte, and a good byte adds nothing to either sum. -/
def allSyndromes (erased : List Nat) (err : List ByteErr) : List (Nat × Nat) :=
  let l := err.filter (fun e => e.die ∉ erased)
  ((l.map (·.pos)).dedup).map (fun p => syndromes ((l.filter (fun e => e.pos == p)).map (fun e => (dieSymbol e.die, e.val))))

/-- Table 11-1, from the erased dies and the wrong bytes of the other dies: one bad symbol is a sector, the same one at
every byte position (log 40). -/
def outerDecode (erased : List Nat) (err : List ByteErr) : Outer :=
  let s := allSyndromes erased err
  match erased with
  | [] =>
    if s.all (fun x => x == (0, 0)) then .good
    else if (List.range 18).any (fun i => s.all (fun x => gfPow i x.1 == x.2)) then .fixed else .lost
  | [die] => if s.all (fun x => gfPow (dieSymbol die) x.1 == x.2) then .fixed else .lost
  | [_, _] => .fixed
  | _ => .lost

/-- What the inner codes report for a read: bits corrected, sectors beyond correction, and undetected wrong bytes. -/
structure StripeRead where
  bits : Nat
  bad : List Nat
  err : List ByteErr
  deriving DecidableEq, Repr

def StripeRead.of (r : RowRead) : StripeRead :=
  ⟨r.bits, (r.bad.map (·.val)).dedup, r.err.map (fun e => ⟨e.1.val, e.2.1.val, e.2.2.val⟩)⟩

/-- The dies that are erasures of a page: failed dies, the die under retraining, and for a deferred page the die whose
symbols are not written yet (R149). -/
def Dev.erasures (d : Dev) (page : Nat) (bad : List Nat) : List Nat :=
  let busy := match d.hld.retrain with
    | some (die, _) => [die]
    | none => []
  let late := match d.hld.rebuild with
    | some die => if page ∈ d.hld.deferral then [die] else []
    | none => []
  (bad ++ busy ++ late ++ d.hld.failedDies).dedup

/-- A sector beyond the inner code: counted; 256 stripes within 1 s fail the die (R314). -/
def Dev.innerFailed (d : Dev) (die : Nat) : Dev :=
  let l := d.now :: (Map.get [] d.hld.innerFails die).filter (fun t => d.now < t + tSec)
  let d1 := ({ d with hld := { d.hld with innerFails := Map.set [] d.hld.innerFails die l } }).satInc
    .HLD_DIE_STATUS_INNER_UNCORR die 0 1
  if 256 ≤ l.length then d1.failHoldDie die else d1

/-- HLD_LAST_FAULT and HLD_LAST_STRIPE. -/
def Dev.lastFault (d : Dev) (kind die stripe : Nat) : Dev :=
  ((d.set0 .HLD_LAST_FAULT_KIND kind).set0 .HLD_LAST_FAULT_DIE die).set0 .HLD_LAST_STRIPE stripe

/-- A stripe of a page is read (R286): counters, and its outcome; one that held a single bad symbol is rewritten.  An uncorrectable sector on a third die abandons a
retraining, and the read is tried again with that die back (R150). -/
def Dev.readStripe (d : Dev) (page stripe : Nat) (r : StripeRead) : Dev × Outer :=
  let d0 := d.countN .HLD_INNER_CORRECTED_BITS 0 r.bits
  let third := d0.hld.retrain.any (fun x => r.bad.any (fun b => b != x.1 && decide (b ∉ d0.hld.failedDies)))
  let d1 := if third ∧ d0.hld.failedDies.length = 1 then d0.abortRetrain 2 else d0
  let es := d1.erasures page r.bad
  let d2 := r.bad.foldl (fun d die => if die ∈ d.hld.failedDies then d else d.innerFailed die) d1
  let first := (es.head?).getD 31
  match outerDecode es r.err with
  | .good => (d2, .good)
  | .fixed =>
    let d3 := ((d2.count .HLD_OUTER_CORRECTED 0).lastFault 1 first stripe).perf 5 0x305 0xFF 1
    (if es.isEmpty ∧ !d3.hld.frozen then d3.rewriteStripe stripe else d3, .fixed)
  | .lost => ((d2.count .HLD_OUTER_UNCORRECTABLE 0).lastFault 2 31 stripe, .lost)

/-! ### Held frames -/

/-- Rows that a held frame spans. -/
def Held.inRow (f : Held) (row : Nat) : Bool := decide (f.off / 4096 ≤ row) && decide (row ≤ (f.off + f.bytes.length - 1) / 4096)

/-- The pages of a queue and of its head chain that hold no frame and no open row are freed. -/
def Dev.trimPages (d : Dev) (h : Nat) : Dev :=
  let x := d.holdQ h
  let live (p : HoldPage) : Bool := (x.frames ++ x.chain).any (fun f => f.page == p.no) ||
    x.row.any (fun r => r.page == p.no) || x.chainRow.any (fun r => r.page == p.no)
  (d.setHoldQ h { x with pages := x.pages.filter live, chainPages := x.chainPages.filter live }).freePages
    (((x.pages ++ x.chainPages).filter (fun p => !live p)).map (·.no))

/-- An ACTIVE queue that holds nothing and has nothing on its way returns to DIRECT (R296). -/
def Dev.holdSettle (d : Dev) (h : Nat) : Dev :=
  let x := d.holdQ h
  if x.active ∧ x.frames.isEmpty ∧ x.chain.isEmpty ∧ x.pending = 0 then
    let d1 := (d.setHoldQ h { HoldQ.reset with bucket := x.bucket, nextSeq := x.nextSeq }).freePages
      ((x.pages ++ x.chainPages).map (·.no))
    let d2 := { d1 with hld := { d1.hld with due := d1.hld.due.filter (fun r => r.1 ≠ h) } }
    d2.recordLimited .HOLD_DRAIN_DONE h (60 * tSec) 10 h
      (payloadOf [(2, h), (4, x.drained), (4, (d.now - x.since) / tSec), (4, x.oldest)])
  else d

/-- Every frame of a queue is discarded and counted in `c`; its pages are freed, or left to the free sweep. -/
def Dev.emptyQueue (d : Dev) (h : Nat) (c : Ctr) (sweep : Bool) : Dev :=
  let x := d.holdQ h
  let ps := (x.pages ++ x.chainPages).map (·.no)
  let d1 := (d.setHoldQ h { HoldQ.reset with
    active := decide (x.pending ≠ 0), pending := x.pending, since := d.now, nextSeq := x.nextSeq }).countN c
    (h % 8) (x.frames.length + x.chain.length)
  let d2 := { d1 with hld := { d1.hld with due := d1.hld.due.filter (fun r => r.1 ≠ h) } }
  if sweep then { d2 with hld := { d2.hld with strays := d2.hld.strays ++ ps } } else d2.freePages ps

/-- The pages of a chain that a lost row cuts off (Table 11-9): those after its page, where the row is the LAST of it. -/
def cutOff (frames : List Held) (pages : List HoldPage) (open_ : Option OpenRow) (page row : Nat) : List Nat :=
  if open_.any (fun r => r.page == page) || frames.any (fun f => f.page == page && f.inRow (row + 1)) then []
  else ((pages.map (·.no)).dropWhile (· ≠ page)).drop 1

/-- A row of a queue's page is lost (Table 11-9): the frames with a byte in it, and, with the last row of a full page,
the later pages of the queue or of its head chain, which the free sweep finds. -/
def Dev.loseRow (d : Dev) (h page row : Nat) : Dev × Nat :=
  let x := d.holdQ h
  let later := cutOff x.frames x.pages x.row page row ++ cutOff x.chain x.chainPages x.chainRow page row
  let gone (f : Held) : Bool := (f.page == page && f.inRow row) || decide (f.page ∈ later)
  let left (r : Option OpenRow) : Option OpenRow := if r.any (fun r => decide (r.page ∈ later)) then none else r
  let n := x.frames.countP gone + x.chain.countP gone
  let d1 := d.setHoldQ h { x with
    frames := x.frames.filter (fun f => !gone f), pages := x.pages.filter (fun p => p.no ∉ later), row := left x.row
    chain := x.chain.filter (fun f => !gone f), chainPages := x.chainPages.filter (fun p => p.no ∉ later)
    chainRow := left x.chainRow }
  let d2 := { d1 with hld := { d1.hld with strays := d1.hld.strays ++ later } }
  (((d2.countN .HLD_T_LOST (h % 8) n).trimPages h).holdSettle h, n)

/-- The area of a page: 0 recorder, 1 image slots, 2 firmware, 3 calibration, 4 capture, 5 held traffic, 6 free ring
(Table 11-2); 7 is the control area. -/
def Dev.areaOf (d : Dev) (page : Nat) : Nat :=
  if page < 16384 then 0 else if page < 32768 then 1 else if page < 34816 then 2 else if page < 35072 then 3
  else if page < 39168 then 6 else if page < heldEnd d.hld.capGib then 5 else 4

/-- A refused free request: counted and recorded. -/
def Dev.freeRefused (d : Dev) (page owner by_ : Nat) : Dev :=
  (d.count .HLD_FREE_REFUSED 0).record .HOLD_FREE_REFUSED 10 (if owner < 3056 then owner else by_) (payloadOf [(4, page), (2, owner), (2, by_)])

/-- The queue that owns a page. -/
def Dev.pageOwner (d : Dev) (page : Nat) : Option Nat :=
  (d.hld.queues.find? (fun x => (x.2.pages ++ x.2.chainPages).any (fun p => p.no == page))).map (·.1)

/-- A free request by queue `by_` that is not its owner's, or for a page that is free, is refused; the page stays (R291). -/
def Dev.refuseFree (d : Dev) (by_ page : Nat) : Dev :=
  match d.pageOwner page with
  | some o => if o = by_ then d else d.freeRefused page o by_
  | none => d.freeRefused page 0xFFFF by_

/-- The ring entries that a row of the free-ring area holds are lost until a free sweep finds their pages: entry i stands at
byte 4i (R290, Table 11-9). -/
def Dev.loseEntries (d : Dev) (page row : Nat) : Dev :=
  let r := d.hld.ring
  let cap := heldEnd d.hld.capGib - heldFirst
  let first := ((page - 35072) * 16 + row) * 1024
  let hit := (List.range 1024).filterMap (fun i =>
    let k := (first + i + cap - r.headCnt % cap) % cap
    if first + i < cap ∧ k < r.entries ∧ !r.holes.contains (r.headCnt + k) then (r.entry k).map (fun p => (r.headCnt + k, p)) else none)
  { d with hld := { d.hld with ring := { r with holes := r.holes ++ hit.map (·.1) }, strays := d.hld.strays ++ hit.map (·.2) } }

/-- A row of an image slot is lost: it reads zeros, and the slot fails its next verification. -/
def Dev.loseSlotRow (d : Dev) (page row : Nat) : Dev :=
  let s := (page - 16384) / 4096
  let at_ := ((page - 16384) % 4096 * 16 + row) * 4096
  match Map.get none d.img.slots s with
  | none => d
  | some x =>
    if x.image.length ≤ at_ then d
    else
      let img := patch x.image at_ (List.replicate (min 4096 (x.image.length - at_)) 0)
      { d with img := { d.img with slots := Map.set none d.img.slots s (some { x with image := img, lost := true }) } }

/-- A stripe of the control area is lost: the first half holds one copy of what a mount restores, the second the other
(log 40). -/
def Dev.loseControl (d : Dev) (stripe : Nat) : Dev :=
  if stripe < 16 * 16385 * 4096 + 2048 then { d with hld := { d.hld with commitA := none } }
  else { d with hld := { d.hld with commitB := none } }

/-- The effect of a lost stripe on what it holds (Table 11-9), with the held frames lost. -/
def Dev.stripeEffect (d : Dev) (stripe area : Nat) : Option (Nat × Nat) → Dev × Nat
  | none => (if 16 * 16385 * 4096 ≤ stripe then d.loseControl stripe else d, 0)
  | some (page, row) =>
    match area with
    | 0 =>
      let first := (page * 16 + row) * 64
      ((List.range 64).foldl (fun d i => { d with evr := { d.evr with area := Map.set none d.evr.area (first + i) none } }) d, 0)
    | 1 => (d.loseSlotRow page row, 0)
    | 3 => ({ d with hlt := { d.hlt with calSaved := none } }, 0)
    | 4 =>
      let first := (page - heldEnd d.hld.capGib) * 512 + row * 32
      ((List.range 32).foldl (fun d i => { d with hld := { d.hld with capArea := Map.set none d.hld.capArea (first + i) none } }) d, 0)
    | 5 => (match d.pageOwner page with
      | some h => d.loseRow h page row
      | none => (d, 0))
    | 6 => ((d.loseEntries page row).set0 .HLD_STATUS_SWEEPING 1, 0)
    | _ => (d, 0)

/-- HOLD_STRIPE_LOST with the effect of Table 11-9. -/
def Dev.stripeLost (d : Dev) (stripe : Nat) (at_ : Option (Nat × Nat)) : Dev :=
  let area := (at_.map (fun x => d.areaOf x.1)).getD 7
  let r := d.stripeEffect stripe area at_
  r.1.record .HOLD_STRIPE_LOST 0 0 (payloadOf [(4, stripe), (1, area), (4, r.2)])

/-! ### Placing frames (R292 to R294) -/

/-- The offset in the open page where a frame of `len` bytes goes, `none` for a new page. -/
def placeAt (r : Option OpenRow) (len ms : Nat) : Option Nat :=
  match r with
  | none => none
  | some r =>
    let off := if 56 ≤ r.starts ∨ (r.starts ≠ 0 ∧ r.time + 131071 < ms) then (r.row + 1) * 4096 else r.row * 4096 + r.used
    if off + len ≤ 65536 then some off else none

/-- The open row after a frame at an offset of a page, and the rows of that page that it completes. -/
def rowAfter (r : Option OpenRow) (page off len ms now : Nat) : Option OpenRow × List Nat :=
  let from_ := off / 4096
  let last := (off + len) / 4096
  let same := r.bind (fun r => if r.page = page ∧ r.row = last then some r else none)
  let begin_ := match r with
    | some r => if r.page = page then r.row else from_
    | none => from_
  let starts := if from_ = last then (same.map (·.starts)).getD 0 + 1 else 0
  let time := match same with
    | some r => if r.starts ≠ 0 then r.time else ms
    | none => ms
  let open_ : OpenRow := { page := page, row := last, used := (off + len) % 4096, starts := starts, time := time
                           since := (same.map (·.since)).getD now }
  (if last = 16 then none else some open_, (List.range last).filter (fun i => decide (begin_ ≤ i)))

/-- Row buffers in use: rows to be written and open rows. -/
def Dev.rowBuffers (d : Dev) : Nat :=
  d.hld.queues.foldl (fun n x => n + b2n x.2.row.isSome + b2n x.2.chainRow.isSome) d.hld.due.length

/-- The class policy finds a page for a full store (R302): the head page of the queue itself, or of the queue of the
class with the oldest head page.  Answers the queue. -/
def Dev.oldestVictim (d : Dev) (h : Nat) : Option Nat :=
  if 2 ≤ (d.holdQ h).pages.length then some h
  else
    let head (q : Nat) : Nat := (((d.holdQ q).frames.head?).map (·.opMs)).getD 0
    let qs := (d.hld.queues.map (·.1)).filter (fun q => decide (q % 8 = h % 8) && q != h &&
      decide ((d.holdQ q).pages ≠ []) && decide ((d.holdQ q).frames ≠ []))
    qs.foldl (fun (b : Option Nat) q => match b with
      | none => some q
      | some v => if head q < head v then some q else some v) none

/-- HOLD_FULL is recorded, then again at most once per minute while no page is free. -/
def Dev.noteFull (d : Dev) (t dropped : Nat) : Dev :=
  let n := d.hld.fullDrops + dropped
  if d.hld.fullAt.all (fun x => decide (x + 60 * tSec ≤ d.now)) then
    ({ d with hld := { d.hld with fullAt := some d.now, fullDrops := 0 } }).record .HOLD_FULL 0 0
      (payloadOf [(1, t), (1, b2n (d.holdDropOldest t)), (4, n)])
  else { d with hld := { d.hld with fullDrops := n } }

/-- The head page of a queue is freed and its remaining frames are counted in FULL_DROP. -/
def Dev.dropHeadPage (d : Dev) (v : Nat) : Dev :=
  let x := d.holdQ v
  match x.pages with
  | [] => d
  | p :: ps =>
    let n := x.frames.countP (fun f => f.page == p.no)
    let d1 := d.setHoldQ v { x with
      frames := x.frames.filter (fun f => f.page ≠ p.no), pages := ps
      row := if x.row.any (fun r => r.page == p.no) then none else x.row }
    let ring := { d1.hld.ring with freeHalf := d1.hld.ring.freeHalf ++ [p.no] }
    ((d1.countN .HLD_T_FULL_DROP (v % 8) n).setRing ring).noteFull (v % 8) n

/-- A page for a frame of queue `h`, by the full policy where none is free; `none` drops the frame. -/
def Dev.takePage (d : Dev) (h : Nat) : Dev × Option Nat :=
  match d.hld.ring.alloc with
  | some (p, r) => (d.setRing r, some p)
  | none =>
    if d.holdDropOldest (h % 8) then
      match d.oldestVictim h with
      | some v =>
        let d1 := (d.dropHeadPage v).holdSettle v
        (match d1.hld.ring.alloc with
         | some (p, r) => (d1.setRing r, some p)
         | none => (d1, none))
      | none => (d.noteFull (h % 8) 1, none)
    else (d.noteFull (h % 8) 1, none)

/-- A frame is stored at the tail of a queue, or in its head chain; answers whether it found a page.  `f0` gives all but its
place and its time. -/
def Dev.storeFrame (d : Dev) (h : Nat) (head : Bool) (f0 : Held) : Dev × Bool :=
  let bytes := f0.bytes
  let row (x : HoldQ) : Option OpenRow := if head then x.chainRow else x.row
  let at_ := placeAt (row (d.holdQ h)) bytes.length d.opMs
  let got : Dev × Option (Nat × Nat) := match at_, row (d.holdQ h) with
    | some off, some r => (d, some (r.page, off))
    | _, _ => let p := d.takePage h; (p.1, p.2.map (fun p => (p, 0)))
  match got.2 with
  | none => (got.1, false)
  | some (page, off) =>
    let x := got.1.holdQ h
    let old := row x
    let r := rowAfter old page off bytes.length d.opMs d.now
    let closed : List (Nat × Nat × Nat) := match old with
      | some o => if o.page ≠ page ∧ o.used ≠ 0 then [(h, o.page, o.row)] else []
      | none => []
    let f : Held := { f0 with opMs := d.opMs, page := page, off := off }
    let fresh := at_.isNone
    let more : List HoldPage := if fresh then [⟨page, x.nextSeq, head⟩] else []
    let z : HoldQ := { x with nextSeq := (x.nextSeq + more.length) % 2 ^ 32 }
    let y : HoldQ := if head then
        { z with chain := x.chain ++ [f], chainRow := r.1, chainPages := x.chainPages ++ more }
      else { z with frames := x.frames ++ [f], row := r.1, pages := x.pages ++ more }
    let d1 := got.1.setHoldQ h y
    ({ d1 with hld := { d1.hld with due := d1.hld.due ++ closed ++ r.2.map (fun i => (h, page, i)) } }, true)

/-- The head chain is complete: it is linked ahead of the head page (R299). -/
def Dev.linkChain (d : Dev) (h : Nat) : Dev :=
  let x := d.holdQ h
  let more := (d.queue 133 (h % 8)).any (fun de => de.headChain && de.holdQ == some h)
  if x.chain.isEmpty ∨ more then d
  else
    let closed : List (Nat × Nat × Nat) := match x.chainRow with
      | some o => if o.used ≠ 0 then [(h, o.page, o.row)] else []
      | none => []
    let d1 := d.setHoldQ h { x with
      frames := x.chain ++ x.frames, pages := x.chainPages ++ x.pages, chain := [], chainPages := [], chainRow := none }
    { d1 with hld := { d1.hld with due := d1.hld.due ++ closed } }

/-- The store accepts writes: mounted, in service, not frozen and not fenced. -/
def Dev.holdRuns (d : Dev) : Bool := d.hld.mounted && !d.hld.outOfService && !d.hld.frozen && !d.hld.fenced

/-! ### The power-fail flush (R304) -/

/-- DURABLE flags of the classes, a bit each. -/
def Dev.durableBits (d : Dev) : Nat := (List.range 8).foldl (fun n t => if d.clsDurable t then n + 2 ^ t else n) 0

/-- What the flush of a queue leaves: a DURABLE queue's open row is written PADDED, any other is abandoned with its
frames. -/
def flushedQueue (x : HoldQ) (durable : Bool) : HoldQ :=
  let y := { x with frames := x.chain ++ x.frames, pages := x.chainPages ++ x.pages, chain := [], chainPages := []
                    chainRow := none, pending := 0, row := none, bucket := none }
  if durable then y
  else
    let inOpen (o : Option OpenRow) (f : Held) : Bool := o.any (fun r => f.page == r.page && f.inRow r.row)
    { y with frames := y.frames.filter (fun f => !inOpen x.row f && !inOpen x.chainRow f) }

/-- Steps 1 to 6 and 8 of Table 11-6, in `us` microseconds: a commit record names what was written; the base dies are
fenced. -/
def Dev.holdFlush (d : Dev) (us : Nat) : Dev :=
  if !d.hld.mounted ∨ d.hld.outOfService then d
  else
    let dur := d.durableBits
    let rows := d.hld.queues.foldl (fun n x => n + (if bitOf dur (x.1 % 8) then b2n x.2.row.isSome + b2n x.2.chainRow.isSome else 0)) 0
    let d1 := d.abortRetrain 3
    let zones := d1.hld.zones.map (fun x => (x.1, { x.2 with saved := x.2.wear }))
    let ring := d1.hld.ring.spillAll
    let qs := Map.mapV .reset (fun h x => flushedQueue x (bitOf dur (h % 8))) d1.hld.queues
    let seq := max ((d1.hld.commitA.map (·.seq)).getD 0) ((d1.hld.commitB.map (·.seq)).getD 0) + 1
    let c : Commit := { seq := seq, consumed := false, queues := qs, ring := ring, durable := dur, rows := rows
                        us := us }
    let lastA := decide ((d1.hld.commitB.map (·.seq)).getD 0 < (d1.hld.commitA.map (·.seq)).getD 0)
    let d2 := { d1 with hld := { d1.hld with
      zones := zones, ring := ring, fenced := true
      commitA := if lastA then d1.hld.commitA else some c
      commitB := if lastA then some c else d1.hld.commitB } }
    (d2.countN .HLD_PF_FLUSHES 0 1).set0 .HLD_PF_TIME us

end Sys2Proof.Machine
end

