-- ==== Sys2Proof/Machine/TimeOps.lean ====
section
/-! DEFINITION. The time unit (spec/12): times in units of 2^-16 ns, adjustments and epochs, conversions, pulse edges,
and the best-master choice. -/

namespace Sys2Proof.Machine

/-! ### Times (R321, R322) -/

/-- A time of seconds, nanoseconds and fractional nanoseconds in units of 2^-16 ns. -/
def timeUnits (sec ns frac : Nat) : Int := ((sec * 1000000000 + ns) * 65536 + frac : Nat)

/-- OFFSET of an epoch. -/
def Epoch.offset (e : Epoch) : Int := timeUnits e.sec e.ns e.frac

/-- The epoch with another OFFSET, modulo 2^64 seconds. -/
def Epoch.withOffset (e : Epoch) (t : Int) : Epoch :=
  let x := ptpSplit t
  { e with sec := x.1, ns := x.2.1, frac := x.2.2 }

/-- ±1,000 ppm (R322). -/
def rateLimit : Int := 281474977

/-! ### Adjustments (R323, R324) -/

/-- An operation of TIM_ADJ_CMD with its operands. -/
structure Adjust where
  op : Nat
  /-- SET: the time; STEP: the signed step, in 2^-16 ns. -/
  time : Int
  rate : Int
  deriving DecidableEq, Repr

/-- F_s: the first multiple of 256 ticks at least 512 ticks ahead. -/
def switchAt (frc : Nat) : Nat := (frc + 512 + 255) / 256 * 256

/-- The epoch an adjustment opens at `fs`, and the step it makes. -/
def Epoch.next (e : Epoch) (a : Adjust) (fs : Nat) : Epoch × Option Int :=
  let f67 := fs * 8
  let e0 : Epoch := { e with id := (e.id + 1) % 256, frcStart := fs }
  let cont : Int := e.offset + ((f67 : Int) * 20480 * (e.rate - a.rate)) / 2 ^ 48
  match a.op with
  | 1 =>
    let o := a.time - (ptpUnits e f67 - e.offset)
    (e0.withOffset o, some (o - e.offset))
  | 2 => (e0.withOffset (e.offset + a.time), some a.time)
  | 3 => ({ e0.withOffset cont with rate := a.rate }, none)
  | _ => ({ e0.withOffset (cont + a.time) with rate := a.rate }, some a.time)

/-- An accepted adjustment waits for its F_s. -/
def Dev.schedule (d : Dev) (m : Nat) (a : Adjust) : Dev :=
  let x := d.epochNow.next a (switchAt d.tim.frc)
  ({ d with tim := { d.tim with pending := some x.1, step := x.2.map (fun s => (s, m)) } }).set0 .TIM_ADJ_CMD_BUSY 1

/-- The operands that stand in TIM_ADJ_*. -/
def Dev.adjustRegs (d : Dev) (op : Nat) : Adjust :=
  let hi := d.f0 .TIM_ADJ_SEC_HI * 2 ^ 32 + d.f0 .TIM_ADJ_SEC_LO
  let low := timeUnits 0 (d.f0 .TIM_ADJ_NS) (d.f0 .TIM_ADJ_FRAC)
  { op := op
    time := (if op = 1 then timeUnits hi 0 0 else signed 64 hi * (1000000000 * 65536)) + low
    rate := signed 40 (d.f0 .TIM_ADJ_RATE_HI * 2 ^ 32 + d.f0 .TIM_ADJ_RATE_LO) }

/-- GO of TIM_ADJ_CMD with an OP, from master `m` (R324, R340). -/
def Dev.adjust (d : Dev) (m op : Nat) : Dev :=
  if d.b0 .TIM_ADJ_CMD_BUSY then d.set0 .TIM_ADJ_CMD_COLLISION 1
  else
    let d1 := d.set0 .TIM_ADJ_CMD_OP op
    let a := d1.adjustRegs op
    if (d.b0 .TIM_CTRL_SERVO_EN ∧ 4 ≤ m) ∨ op = 0 ∨ 4 < op ∨ (3 ≤ op ∧ (rateLimit < a.rate ∨ a.rate < -rateLimit))
    then d1.set0 .TIM_ADJ_CMD_REFUSED 1
    else
      let d2 := d1.schedule m a
      if !d.b0 .TIM_CTRL_SERVO_EN ∧ d.f0 .TIM_STATUS_STATE = 3 then
        ({ d2 with tim := { d2.tim with jump := none } }).set0 .TIM_STATUS_STATE 0
      else d2

/-! ### Conversions (R321, R326) -/

/-- The time of a capture at `frc` of epoch `id`, or none where R326 refuses it. -/
def Dev.convert (d : Dev) (id frc sub : Nat) : Option (Nat × Nat × Nat) :=
  match (Map.get none d.tim.epochs (id % 16) : Option Epoch) with
  | none => none
  | some e =>
    let past : Bool := match (Map.get none d.tim.epochs ((id + 1) % 16) : Option Epoch) with
      | some n => decide (id ≠ d.tim.cur) && decide (n.frcStart ≤ frc)
      | none => false
    if e.id != id || decide (frc < e.frcStart) || past then none else some (ptpSplit (ptpUnits e (frc * 8 + sub)))

/-! ### Pulses (R342 to R344) -/

def Dev.pulse (d : Dev) (k : Nat) : PulseSt := Map.get .reset d.tim.pulses k
def Dev.setPulse (d : Dev) (k : Nat) (x : PulseSt) : Dev :=
  { d with tim := { d.tim with pulses := Map.set .reset d.tim.pulses k x } }

def Dev.pulsePeriod (d : Dev) (k : Nat) : Nat := d.f1 .TIM_PULSE_PERIOD_HI k * 2 ^ 32 + d.f1 .TIM_PULSE_PERIOD_LO k

/-- The time of rising edge `j`: START + j × PERIOD for a periodic output. -/
def Dev.edgeTime (d : Dev) (k j : Nat) : Int :=
  let start := timeUnits (d.f1 .TIM_PULSE_START_SEC_HI k * 2 ^ 32 + d.f1 .TIM_PULSE_START_SEC_LO k)
    (d.f1 .TIM_PULSE_START_NS k) 0 + (d.f1 .TIM_PULSE_CFG_START_SUB k * 20480 : Nat)
  if d.f1 .TIM_PULSE_CFG_MODE k = 2 then start + (j * d.pulsePeriod k * 20480 : Nat) else start

/-- The FRC67 unit nearest to a time in an epoch. -/
def Epoch.nearest (e : Epoch) (t : Int) : Int :=
  let den : Int := 20480 * (2 ^ 48 + e.rate)
  ((t - e.offset) * 2 ^ 49 + den) / (2 * den)

/-- When edge `j` is emitted, in FRC67. -/
def Dev.edgeAt (d : Dev) (k j : Nat) : Int := d.epochNow.nearest (d.edgeTime k j)

/-- Edges of output `k` are not emitted: counted, shown and recorded.  `cause`: 0 armed too late, 1 a forward step, 2
not locked, 3 the health state or no commit. -/
def Dev.missEdges (d : Dev) (k n cause : Nat) : Dev :=
  if n = 0 then d
  else ((d.countN .TIM_PULSE_MISSED 0 n).set1 .TIM_PULSE_STATUS_MISSED k 1).recordLimited .PULSE_MISSED k tSec 0 0
    (payloadOf [(1, k), (4, n), (1, cause)])

/-- Edges that a time now past has passed over: those of an armed output from `next` on that lie before `t`. -/
def Dev.edgesBefore (d : Dev) (k : Nat) (t : Int) : Nat :=
  let x := d.pulse k
  let first := d.edgeTime k x.next
  if !x.armed ∨ t ≤ first then 0
  else if d.f1 .TIM_PULSE_CFG_MODE k = 2 then ((t - first - 1) / (max 1 (d.pulsePeriod k) * 20480 : Nat)).toNat + 1
  else 1

/-- The first `n` pending edges of an output are passed over; a one-shot output is then no longer armed. -/
def Dev.skipEdges (d : Dev) (k n : Nat) : Dev :=
  let x := d.pulse k
  if n = 0 then d
  else if d.f1 .TIM_PULSE_CFG_MODE k = 2 then d.setPulse k { x with next := x.next + n }
  else d.setPulse k { x with armed := false }

/-- The fields of an arming lie in their ranges (R342). -/
def Dev.pulseRanges (d : Dev) (k mode : Nat) : Bool :=
  let per := d.pulsePeriod k
  let w := d.f1 .TIM_PULSE_WIDTH k
  decide (32 ≤ w) && (decide (mode = 1) || (decide (32 ≤ per) && decide (w + 32 ≤ per)))

/-- MODE of TIM_PULSE_CFG[k] is written (R342 to R344). -/
def Dev.armPulse (d : Dev) (k mode : Nat) (locked : Bool) (sub : Nat) : Dev :=
  if 3 ≤ mode then d
  else if mode = 0 then
    (((d.set1 .TIM_PULSE_CFG_MODE k 0).set1 .TIM_PULSE_CFG_LOCKED_ONLY k (b2n locked)).set1 .TIM_PULSE_CFG_START_SUB k
      sub).setPulse k { d.pulse k with armed := false, high := false }
  else if !d.pulseRanges k mode then d
  else
    let d1 := ((d.set1 .TIM_PULSE_CFG_MODE k mode).set1 .TIM_PULSE_CFG_LOCKED_ONLY k (b2n locked)).set1
      .TIM_PULSE_CFG_START_SUB k sub
    let now := ptpUnits d.epochNow d.frc67
    let soon := now + 1000 * 65536
    let d2 := d1.setPulse k { d.pulse k with armed := true, done := false, next := 0 }
    if mode = 1 then
      if d1.edgeTime k 0 < soon then (d1.setPulse k { d.pulse k with armed := false, done := false }).missEdges k 1 0 else d2
    else if d1.edgeTime k 0 < now then d2.skipEdges k (d2.edgesBefore k soon)
    else d2

/-! ### The firmware's ports (R337 to R340) -/

def Dev.ptpSt (d : Dev) (p : Nat) : PtpPort := Map.get .reset d.tim.ptp p
def Dev.setPtp (d : Dev) (p : Nat) (x : PtpPort) : Dev :=
  { d with tim := { d.tim with ptp := Map.set .reset d.tim.ptp p x } }

/-- A violation of Table 12-8 that is recorded. -/
def Dev.ptpViolation (d : Dev) (p reason : Nat) : Dev :=
  d.recordLimited .PTP_VIOLATION (k2 p reason) tSec 1 p (payloadOf [(1, p), (1, reason)])

/-- The port whose announced grandmaster stands first in the best-master order, the lowest port on a tie. -/
def bestPort (ports : Map PtpPort) : Option (Nat × PtpPort) :=
  ports.foldl (fun b x =>
    if x.2.announcedAt.isNone then b
    else match b with
      | none => some x
      | some y => if x.2.gmRank < y.2.gmRank then some x else b) none

/-- The best-master choice: the chosen port is SLAVE; in boundary mode the others are MASTER, in transparent mode
PASSIVE; another grandmaster is recorded (R337, R339). -/
def Dev.chooseMaster (d : Dev) : Dev :=
  match bestPort d.tim.ptp with
  | none => { d with tim := { d.tim with best := none } }
  | some (p, x) =>
    let other := if d.b0 .TIM_CTRL_CLOCK_MODE then 1 else 3
    let ports := Map.mapV .reset (fun q y => { y with state := if q = p then 2 else other }) d.tim.ptp
    let d1 := { d with tim := { d.tim with ptp := ports, best := some p, gm := some x.gmId } }
    match d.tim.gm with
    | some g => if g = x.gmId then d1 else d1.record .GM_CHANGED 1 p (payloadOf [(8, g), (8, x.gmId), (1, p)])
    | none => d1

/-- CLOCK_MODE is written: every port's PTP state restarts; an isolation runs on (R337, R347). -/
def Dev.writeClockMode (d : Dev) (mode : Nat) : Dev :=
  let again (_ : Nat) (x : PtpPort) : PtpPort := { PtpPort.reset with isolatedUntil := x.isolatedUntil }
  ({ d with tim := { d.tim with ptp := Map.mapV .reset again d.tim.ptp, best := none } }).set0 .TIM_CTRL_CLOCK_MODE mode

/-- A write of ACCEPT_JUMP: in JUMP_HELD the pending step is applied as one STEP (R340). -/
def Dev.acceptJump (d : Dev) : Dev :=
  match d.tim.jump with
  | some s =>
    if d.f0 .TIM_STATUS_STATE = 3 ∧ !d.b0 .TIM_ADJ_CMD_BUSY then
      ({ (d.schedule 0 ⟨2, s, 0⟩) with tim := { (d.schedule 0 ⟨2, s, 0⟩).tim with jump := none } }).set0 .TIM_STATUS_STATE 0
    else d
  | none => d

end Sys2Proof.Machine
end

