-- ==== Sys2Proof/Machine/Buffer.lean ====
section
/-! DEFINITION. The commands of the shared buffer (spec/10): linking, scheduling, transmission, flap expiry and the
buffer's registers; and the writing of capture records (R244, R245). -/

namespace Sys2Proof.Machine

/-! ### Linking (R42, R257, R264) -/

/-- One queue entry to be made. -/
structure Copy where
  q : Nat
  i : Nat
  de : Desc
  deriving DecidableEq, Repr

/-- The fabric header a source device gives a frame. -/
def Dev.fabHdr (d : Dev) (type cls : Nat) (hold : Bool) (dst aux hash : Nat) : FabHdr :=
  { type := type, cls := cls, hold := hold, hop := d.f0 .FAB_HOP_LIMIT, src := d.fabAddr, dst := dst, aux := aux
    hash := hash, seq := none }

/-- The flap timer of a fabric device runs while no route leads to it (R275, R357). -/
def Dev.startFabFlap (d : Dev) (a : Nat) : Dev :=
  let x := Map.get ⟨none, false⟩ d.buf.fabFlap a
  if x.expired ∨ x.endAt.isSome then d
  else
    let y : FlapSt := if d.flapHold = 0 then ⟨none, true⟩ else ⟨some (d.now + d.flapHold * tMs), false⟩
    { d with buf := { d.buf with fabFlap := Map.set ⟨none, false⟩ d.buf.fabFlap a y } }

/-- The entry of a frame for fabric device `a`: the queue of its next-hop port, or, with every route down, of the device
itself (R275). -/
def Dev.deviceCopy (d : Dev) (a t : Nat) (de : Desc) : Dev × Copy :=
  match d.routePort a ((de.fab.map (·.hash)).getD 0) with
  | some p => (d, ⟨p, t, de⟩)
  | none => (d.startFabFlap a, ⟨256 + a, t, de⟩)

/-- A copy on port `p` of a group or of a flood: the multicast queue of its class, encapsulated on a port of the fabric
(R253, R264, R358); nothing on a fabric port without a neighbour, or on a protected port of a member that is not ACTIVE. -/
def Dev.groupCopy (d : Dev) (de : Desc) (h : FabHdr) (p : Nat) : Option Copy :=
  let i := if bitOf (d.f1 .QUE_PORT_CFG_MC_MAP p) de.tc then 9 else 8
  if d.muted p then none
  else if d.fabPort p then
    (if d.adjState p = 2 ∧ d.carriesData then some ⟨p, i, { de with copy := true, fab := some h }⟩ else none)
  else some ⟨p, i, { de with copy := true }⟩

/-- The entries that the forwarding of a frame names. -/
def Dev.forwardCopies (d : Dev) (rx : Rx) (r : Resolved) (de : Desc) (hash : Nat) : Dev × List Copy :=
  match r.fwd with
  | .port p => (d, if p = 132 then [⟨132, de.tc, de⟩] else if p = 134 then [⟨134, 0, de⟩]
      else if p < 128 ∧ !d.muted p then [⟨p, de.tc, de⟩] else [])
  | .group g =>
    let h := d.fabHdr 1 r.cls r.holdOk 0xFF g hash
    (d, ((List.range 128).filter (fun p => bitOf r.mask p)).filterMap (d.groupCopy de h))
  | .device a =>
    let c := d.deviceCopy a de.tc { de with fab := some (d.fabHdr 0 r.cls r.holdOk a 0 hash) }
    (c.1, [c.2])
  | .recirc prof node => (d, [⟨128 + rx.region, de.tc, { de with recirc := some (prof, node) }⟩])
  | .host => (d, [⟨132, de.tc, { de with reason := r.reason, profile := r.profile }⟩])
  | .drop => (d, [])
  | .none => (d, [])

/-- The copy of COPY_TO_HOST, where the frame is not forwarded there. -/
def hostCopy (r : Resolved) (de : Desc) : List Copy :=
  if r.copyHost ∧ r.fwd ≠ .host then
    [⟨132, de.tc, { de with copy := true, reason := 1, profile := r.copyProfile, edits := .none, tsId := none }⟩]
  else []

/-- Whether the next request of session `s` passes its sampling: the first of every 2^k does (R242). -/
def Dev.sampled (d : Dev) (s : Nat) : Bool := decide (Map.get 0 d.act.mirrorReq s % 2 ^ d.f1 .MIR_CFG_SAMPLE_LOG2 s = 0)

/-- Mirror session `s` is asked for a copy: the one it makes, if it makes one (R242).  `taken` is how many of the frame's
four places lower sessions that passed sampling have taken. -/
def Dev.mirrorCopy (d : Dev) (de : Desc) (hash taken s : Nat) : Dev × Option Copy :=
  let n := Map.get 0 d.act.mirrorReq s
  let k := d.f1 .MIR_CFG_SAMPLE_LOG2 s
  let d1 := { d with act := { d.act with mirrorReq := Map.set 0 d.act.mirrorReq s ((n + 1) % 2 ^ k) } }
  let dest := d.f1 .MIR_DEST s
  let tc := d.f1 .MIR_CFG_TC s
  let copy : Desc := { de with tc := tc, copy := true, edits := .none, trunc := d.f1 .MIR_CFG_TRUNC s, holdOk := false
                               tsId := none }
  if n % 2 ^ k ≠ 0 then (d1, none)
  else if 4 ≤ taken ∨ d.f1 .MIR_CFG_TYPE s = 2 then (d1.count .MIR_SKIPPED s, none)
  else if d.f1 .MIR_CFG_TYPE s = 1 then
    match d.routePort dest hash with
    | some p =>
      if d.f1 .FAB_ADJ_VERSION p < 0x20 then (d1.count .MIR_SKIPPED s, none)
      else (d1.count .MIR_COPIES s, some ⟨p, tc, { copy with fab := some (d.fabHdr 2 de.cls false dest s hash) }⟩)
    | none => (d1.count .MIR_SKIPPED s, none)
  else if dest = 134 then (d1.count .MIR_COPIES s, some ⟨134, 0, copy⟩)
  else if dest = 132 ∨ (dest < 128 ∧ !d.muted dest) then (d1.count .MIR_COPIES s, some ⟨dest, tc, copy⟩)
  else (d1, none)

/-- The mirror copies of a frame, in session order: the four places go to the lowest-numbered requested sessions that pass
sampling (R242). -/
def Dev.mirrorCopies (d : Dev) (mirrors : Nat) (de : Desc) (hash : Nat) : Dev × List Copy :=
  let r := (List.range 16).foldl (fun (acc : Dev × List Copy × Nat) s =>
    if bitOf mirrors s ∧ acc.1.b1 .MIR_CFG_EN s then
      let r := acc.1.mirrorCopy de hash acc.2.2 s
      (r.1, acc.2.1 ++ r.2.toList, acc.2.2 + b2n (acc.1.sampled s))
    else acc) (d, [], 0)
  (r.1, r.2.1)

/-- The copies of a stored frame are linked one by one, each with its reference; with none the frame is not kept. -/
def Dev.linkAll (d : Dev) (id ing : Nat) (c : Chain) (l : List Copy) : Dev :=
  if l.isEmpty then d
  else l.foldl (fun d x => (d.link x.q x.i ing x.de).1) (d.setChain id (some { c with refs := l.length }))

/-- The mirror copies of a frame are linked.  They are the frame as received (R242): they share its cells, but on a second
pass, whose cells hold the edited frame, they take cells of their own (log 80), or are lost where none are free. -/
def Dev.linkMirrors (d : Dev) (id : Nat) (rx : Rx) (c : Chain) (main mirrors : List Copy) : Dev :=
  match rx.orig with
  | none => d.linkAll id rx.port c (main ++ mirrors)
  | some b =>
    let d1 := d.linkAll id rx.port c main
    if mirrors.isEmpty then d1
    else
      let id2 := d1.buf.nextId
      let d2 := { d1 with buf := { d1.buf with nextId := id2 + 1 } }
      let got := d2.allocate rx.region (cellsFor b.1.length) []
      if got.2 ≠ 0 then d2.count .BUF_ALLOC_EMPTY 0
      else
        let c2 : Chain := { c with bytes := b.1, hasFcs := b.2, cells := cellsFor b.1.length, crc32c := crc32c b.1 }
        d2.linkAll id2 rx.port c2 (mirrors.map (fun x =>
          { x with de := { x.de with chain := id2, len := rx.receivedLen, cells := cellsFor b.1.length } }))

/-- A frame whose cells were lost to allocation (R257): dropped at each queue its resolution named. -/
def Dev.dropLost (d : Dev) (rx : Rx) (l : List Copy) : Dev :=
  let d1 := l.foldl (fun d x => (d.count .QUE_DROP_FRAMES (x.q * 10 + x.i)).perf 4 0x205 0xFF 1) d
  let d2 := if rx.lost = 1 then d1.count .BUF_ALLOC_RACE_LOSS 0 else d1.count .BUF_ALLOC_EMPTY 0
  if rx.pass = 0 then d2.noteIncomplete rx.port (d2.windowOf rx.cap) else d2

/-- FRAME_LINK (R42): frame `id`, checked and resolved, is linked to every queue its resolution names, or refused. -/
def execFrameLink (id : Nat) (s : State) : Host.Outcome State Fault Refusal :=
  s.run fun d =>
    match d.rxFrame id with
    | none => d
    | some rx =>
      match rx.res with
      | none => d
      | some r =>
        if d.winter then d
        else
          let prof := d.rxProfile rx
          let hash := d.flowHash rx.body r.parse (d.frameVid rx.body r.parse prof)
          let tc := d.classMap r.cls
          let de := { Desc.plain id rx.len tc r.cls with
            colour := r.colour, edits := r.edits, holdOk := r.holdOk, tsId := rx.tsId }
          let f := (d.setRx id none).forwardCopies rx r de hash
          if rx.lost ≠ 0 then f.1.dropLost rx f.2
          else
            let m := f.1.mirrorCopies r.mirrors de hash
            let c : Chain :=
              { bytes := rx.bytes, hasFcs := rx.hasFcs, marked := none, port := rx.port, region := rx.region, tc := tc
                cells := cellsFor rx.bytes.length, refs := 0, lastOwner := none, crc32c := crc32c rx.bytes, cap := rx.cap
                parse := r.parse, hash := hash, dflt := rx.dflt }
            m.1.linkMirrors id rx c (f.2 ++ hostCopy r de) m.2

/-! ### Scheduling (R112, R266 to R270) -/

/-- The rate in Mb/s and the burst in bytes of a port's shaper; recirculation and host ports are fixed. -/
def Dev.portShaper (d : Dev) (p : Nat) : Nat × Nat :=
  let burst := d.f1 .QUE_PORT_SHAPER_BURST p * 1024
  if p < 128 then (d.f1 .QUE_PORT_SHAPER_RATE p, burst)
  else if p < 132 then (200000, 16384) else if p = 132 then (1600000, 16384) else (0, burst)

def Dev.tcShaper (d : Dev) (p t : Nat) : Nat × Nat :=
  if p < 133 then (d.fld .QUE_TC_SHAPER_RATE p t, d.fld .QUE_TC_SHAPER_BURST p t * 1024) else (0, 0)

/-- The tokens of a shaper now; a rate of 0 does not shape. -/
def shaperOpen (b : Option Bucket) (s : Nat × Nat) (now : Nat) : Bool :=
  decide (s.1 = 0) || decide (0 ≤ refill b s.1 (s.2 * 3200) now)

/-- A frame of `len` bytes starts: its length and 20 bytes are deducted in full. -/
def shaperTake (b : Option Bucket) (s : Nat × Nat) (len now : Nat) : Option Bucket :=
  if s.1 = 0 then b else some ⟨refill b s.1 (s.2 * 3200) now - ((len + 20) * 3200 : Nat), now⟩

/-- The queue of a class whose head goes next: they take turns, starting after the one that sent last. -/
def Dev.classHead (d : Dev) (p t : Nat) : Option (Nat × Desc) :=
  let qs := d.classQueues p t
  let last := Map.get 0 d.buf.lastSent (k2 p t)
  let k := match qs.findIdx? (fun i => i + 1 == last) with
    | some j => j + 1
    | none => 0
  ((qs.drop k) ++ (qs.take k)).findSome? (fun i => (d.queue p i).head?.map (fun de => (i, de)))

/-- Whether a frame is a PTP event message on a port where PTP is enabled: it takes MAC queue 3 (R112). -/
def Dev.ptpEvent (d : Dev) (p : Nat) (de : Desc) : Bool :=
  d.ptpPort p && (match d.chain de.chain with
    | some c => (match ptpOffset c.bytes with
      | some o => decide (ptpType c.bytes o < 4)
      | none => false)
    | none => false)

/-- The MAC queue a head takes. -/
def Dev.macQueueOf (d : Dev) (p t : Nat) (de : Desc) : Nat :=
  if 128 ≤ p then 0 else if d.ptpEvent p de then 3 else bitsOf (d.f1 .MAC_TXQ_MAP_QMAP p) (2 * t) 2

/-- A class's head is a candidate for MAC queue `m`: not paused, and its shaper and the port's have tokens (R266). -/
def Dev.candidate (d : Dev) (p m t : Nat) : Option (Nat × Desc) :=
  match d.classHead p t with
  | none => none
  | some h =>
    let paused := decide (p < 128) &&
      (if d.ptpEvent p h.2 then d.classPaused p (d.f1 .MAC_TXQ_MAP_CTRL_TC p)
       else d.classPaused p t || (decide (m = 3) && d.classPaused p (d.f1 .MAC_TXQ_MAP_CTRL_TC p)))
    if d.macQueueOf p t h.2 = m ∧ !paused ∧ shaperOpen (Map.get none d.buf.tcBkt (k2 p t)) (d.tcShaper p t) d.now
    then some h else none

/-- DWRR (R267): the class being visited goes on while its deficit covers its head; else the next candidate class in
ascending order is visited and its deficit grows.  `fuel` bounds the visits. -/
def Dev.dwrr (d : Dev) (p m : Nat) (cands : List (Nat × Nat × Desc)) : Nat → Nat → Dev → Option (Dev × Nat × Nat × Desc)
  | 0, _, _ => none
  | fuel + 1, v, e =>
    match cands.find? (fun c => decide (v ≤ c.1)) with
    | none => if v = 0 then none else Dev.dwrr d p m cands fuel 0 e
    | some c =>
      let grown := e.setDeficit p c.1 (e.deficit p c.1 + d.clsWeight c.1 * 1024)
      if c.2.2.len ≤ grown.deficit p c.1 then
        some ({ grown with buf := { grown.buf with visit := Map.set 0 grown.buf.visit (k2 p m) (c.1 + 1) } }, c)
      else Dev.dwrr d p m cands fuel (c.1 + 1) grown

/-- The frame that the scheduler chooses for a MAC queue. -/
def Dev.choose (d : Dev) (p m : Nat) : Option (Dev × Nat × Nat × Desc) :=
  let cands := (List.range 8).filterMap (fun t => (d.candidate p m t).map (fun h => (t, h)))
  match cands.reverse.find? (fun c => d.clsStrict c.1) with
  | some c => some (d, c)
  | none =>
    let v := Map.get 0 d.buf.visit (k2 p m)
    match cands.find? (fun c => c.1 + 1 == v) with
    | some c =>
      if c.2.2.len ≤ d.deficit p c.1 then some (d, c) else Dev.dwrr d p m cands 160 v d
    | none => Dev.dwrr d p m cands 160 v d

/-- The chosen head leaves its queue: shapers and deficit are debited. -/
def Dev.takeHead (d : Dev) (p t i : Nat) (de : Desc) : Dev :=
  let d1 := d.setQueue p i ((d.queue p i).drop 1)
  let pb := shaperTake (Map.get none d1.buf.portBkt p) (d1.portShaper p) de.len d1.now
  let tb := shaperTake (Map.get none d1.buf.tcBkt (k2 p t)) (d1.tcShaper p t) de.len d1.now
  let d2 := { d1 with buf := { d1.buf with
    portBkt := Map.set none d1.buf.portBkt p pb, tcBkt := Map.set none d1.buf.tcBkt (k2 p t) tb
    lastSent := Map.set 0 d1.buf.lastSent (k2 p t) (i + 1) } }
  if d2.clsStrict t then d2
  else d2.setDeficit p t (if (d2.classHead p t).isNone then 0 else d2.deficit p t - de.len)

/-- The port may be given a frame for a MAC queue. -/
def Dev.mayPick (d : Dev) (p m : Nat) : Bool :=
  !d.winter && !d.buf.frozen &&
  (if p < 128 then d.linkUp p && !d.muted p && (d.macqAt p m).isNone &&
      (m != 3 || (d.macSt p).own.isEmpty)
   else decide (m = 0) && (d.inflight p).isNone) &&
  shaperOpen (Map.get none d.buf.portBkt p) (d.portShaper p) d.now

/-- SCHEDULER_PICK (R266): the scheduler of port `p` fills MAC queue `m`; the recirculation ports and port 132 have one
place (m = 0), and the firmware takes port 134's head.  Port 133 is the hold writer's (HOLD_WRITE). -/
def execSchedulerPick (p : Fin 135) (m : Fin 4) (rd : CellRead) (s : State) : Host.Outcome State Fault Refusal :=
  s.run fun d =>
    if p.val = 133 then d
    else if p.val = 134 then
      match d.queue 134 0 with
      | de :: rest =>
        if d.winter ∨ d.buf.frozen ∨ !d.boot.fwRuns then d
        else match d.chain de.chain with
          | none => d.setQueue 134 0 rest
          | some c =>
            let r := (d.setQueue 134 0 rest).readCells 134 de c rd
            let d1 := r.1.giveBack de.chain 134 rd
            if r.2 then d1.emit (.toFirmware c.body) else d1
      | [] => d
    else if !d.mayPick p m then d
    else match d.choose p m with
      | none => d
      | some (d1, t, i, de) =>
        let d2 := d1.takeHead p t i de
        let f : TxFrame := { desc := de, queue := i, start := d2.now, fromFw := d2.ptpEvent p de }
        if p.val < 128 then
          (d2.setMacq p m (some f)).startNext p
        else d2.setInflight p (some f)

/-! ### Transmission (R111, R276, R277) -/

/-- The destination kind of a frame: 0 unicast, 1 multicast, 2 broadcast. -/
def destKind (bs : Bytes) : Nat :=
  if beAt bs 0 6 = 0xFFFFFFFFFFFF then 2 else if beAt bs 0 1 % 2 = 1 then 1 else 0

/-- Bytes a port sends, with preamble and gap (R510). -/
def Dev.countTxBytes (d : Dev) (p n : Nat) : Dev :=
  { d with pmc := { d.pmc with txBytes := Map.update 0 d.pmc.txBytes p (· + n + 20) } }

/-- The frame is cut short by an error: inverted FCS, TX_ABORTED. -/
def Dev.abortTx (d : Dev) (p : Nat) (bs : Bytes) : Dev :=
  ((d.macCount .MAC_TX_ABORTED p).countTxBytes p (bs.length + 4)).emit (.frame p (bs ++ fcsOf bs) false)

/-- A PTP message leaves port `p`: it is counted on a PTP port, and an event message starts the guard of R120. -/
def Dev.notePtpSent (d : Dev) (p : Nat) (event : Bool) : Dev :=
  let m := d.macSt p
  let d1 := d.setMac p { m with ptpAt := if event then d.now + 1 else m.ptpAt }
  if d.ptpPort p then d1.macCount .MAC_TX_PTP p else d1

/-- A frame leaves a front port.  `sub` is the sub-tick of its SFD, `bad` an uncorrectable word met, `corrupt` a change
of its bytes that only the check of R277 sees.  A frame that was marked before is dropped (R276). -/
def Dev.sendFrame (d : Dev) (p : Nat) (f : TxFrame) (c : Chain) (sub : Nat) (bad : Option (Fin 64 × Fin 65536)) (corrupt : Bool) :
    Dev :=
  let de := f.desc
  let e := d.edited (p / 32) p c de
  let w : Dev × Bytes := match de.fab with
    | none => e
    | some h => let q := e.1.fabSeq h; (q.2, q.2.encapsulate p h q.1 e.2)
  let short := decide (w.2.length < 60)
  let keep := c.hasFcs && !de.edits.any && de.fab.isNone && !de.truncates c && !short
  let body := padded w.2
  let d1 := if short then w.1.macCount .MAC_TX_PADDED p else w.1
  let o := ptpOffset body
  match c.marked, bad with
  | some (b, word), _ => (d.macCount .MAC_TX_ABORTED p).eccLost p b word
  | none, some (b, word) => (d1.abortTx p body).eccBad p de.chain b word
  | none, none =>
    if bitOf (d.f0 .TIM_STATUS_BUS_FAULT) (p / 32) ∧ d.ptpPort p ∧ o.any (fun o => decide (ptpType body o < 4)) then
      d1.count .TIM_PTP_DISCARD 0
    else if corrupt ∧ !de.truncates c then
      if keep then ((d1.e2eBad p false).countTxBytes p (body.length + 4)).emit (.frame p (body ++ fcsOf body) false)
      else (d1.abortTx p body).e2eBad p true
    else
      let tx := d1.txCapture p f.start sub
      let r := d1.ptpResidence p c tx body
      let d2 := match de.tsId with
        | some id => r.1.pushTxts p id tx false
        | none => r.1
      let d3 := match o with
        | some o => d2.notePtpSent p (decide (ptpType body o < 4))
        | none => d2
      (d3.noteSent p (r.2.length + 4) (destKind r.2)).emit (.frame p (r.2 ++ fcsOf r.2) true)

/-- A frame leaves recirculation port 128 + `n` for its second pass (R166): its cells are asked of the region's writer.  An
error of its words, or a failing check, ends it: the port has no MAC, so TX_ABORTED has no counter there (log 74). -/
def Dev.recirculate (d : Dev) (n : Nat) (f : TxFrame) (c : Chain) (rd : CellRead) (rivals : List (Fin 7)) : Dev :=
  let e := d.edited n (128 + n) c f.desc
  let g := e.1.readCells (128 + n) f.desc c rd
  if !g.2 then g.1
  else
    let bytes := padded e.2 ++ fcsOf (padded e.2)
    let need := cellsFor bytes.length
    let k := f.desc.recirc.getD (0, 0)
    let got := g.1.allocate n need rivals
    let r : Rx :=
      { bytes := keptBytes bytes got, hasFcs := decide (got.2 = 0), port := c.port, region := n, pass := 1, startNode := k.2
        profile := k.1, cap := c.cap, lost := got.2
        srcDev := none, dflt := c.dflt, tsId := f.desc.tsId, wait := none, parse := none, res := none
        orig := some (c.bytes, c.hasFcs), dfltAct := none, hit := none }
    let d1 := { g.1 with buf := { g.1.buf with nextId := g.1.buf.nextId + 1 } }
    let d2 := ((d1.setRx g.1.buf.nextId (some r)).notePeak).perf 4 0x200 n got.1
    if got.2 = 0 then d2 else d2.perf 4 0x206 n 1

/-- A frame of the firmware leaves port `p` (R112): a one-step PTP message is stamped from its own capture, a two-step event
message leaves its capture to the firmware and owes a follow-up (R334, R335).  `fields` of a PTP message: sequence, whether
it is two-step, and the capture of the request it answers. -/
def Dev.sendOwn (d : Dev) (p : Nat) (x : OwnFrame) (sub : Nat) : Dev :=
  if x.proto ≠ 3 then
    match d.ownBytes p x with
    | some b =>
      let d1 := if b.length + 4 ≠ x.len then d.macCount .MAC_TX_PADDED p else d
      (d1.noteSent p (b.length + 4) (destKind b)).emit (.frame p (b ++ fcsOf b) true)
    | none => (d.noteSent p x.len 1).emit (.message p x.proto x.type x.fields)
  else if bitOf (d.f0 .TIM_STATUS_BUS_FAULT) (p / 32) ∧ x.type < 4 then d.count .TIM_PTP_DISCARD 0
  else
    let seq := x.fields.getD 0 0
    let twoStep := decide (x.fields.getD 1 0 = 1)
    let stamped := decide (x.type = 0 ∨ x.type = 3)
    let tx := d.txCapture p x.start sub
    let t := (d.convert tx.epoch tx.frc tx.sub).getD (0, 0, 0)
    let turn := residence (d.epochOf tx) (x.fields.getD 2 0) (tx.frc * 8 + tx.sub)
    let stamp : Nat × Nat × Nat :=
      if twoStep ∨ !tx.valid then (0, 0, 0)
      else if x.type = 0 then t else if x.type = 3 then (0, 0, unsigned 64 turn) else (0, 0, 0)
    let d1 := if stamped ∧ !twoStep then d.count .TIM_ONE_STEP_UPDATES 0 else d
    let d2 := if stamped ∧ twoStep ∧ 64 ≤ (Map.get [] d.tim.txts (p / 4)).length then d1.pushTxts p seq tx true else d1
    let y := d2.macSt p
    let owes := if stamped then twoStep else if x.type = 8 ∨ x.type = 10 then false else y.followOwed
    ((((d2.setMac p { y with followOwed := owes }).notePtpSent p (decide (x.type < 4))).noteSent p x.len 1)).emit
      (.message p 3 x.type [seq, stamp.1, stamp.2.1, stamp.2.2, b2n twoStep])

/-- FRAME_TRANSMIT (R111): the frame that port `p` is sending ends, the firmware's own or one of the buffer.  `rd` is what
the reads of its cells met, `rivals` the writers that ask for cells beside the recirculation port (R257). -/
def execFrameTransmit (p : Fin 132) (sub : Fin 8) (rd : CellRead) (rivals : List (Fin 7)) (s : State) :
    Host.Outcome State Fault Refusal :=
  s.run fun d =>
    if d.winter ∨ d.buf.frozen then d
    else match d.inflight p, (d.macSt p).ownTx with
      | none, none => d
      | none, some x => ((d.setMac p { d.macSt p with ownTx := none }).sendOwn p x sub).startNext p
      | some f, _ =>
        let d1 := d.setInflight p none
        match d1.chain f.desc.chain with
        | none => d1.startNext p
        | some c =>
          let d2 := if p.val < 128 then
              ((d1.eccCorrected rd.corrected).readTraffic c.cells rd).sendFrame p f c sub rd.bad rd.corrupt
            else d1.recirculate (p.val - 128) f c rd rivals
          (d2.giveBack f.desc.chain p rd).startNext p

/-! ### Flap timers (R273, R275, R357) -/

/-- FLAP_TIMER_EXPIRE (R273). -/
def execFlapTimerExpire (p : Port) (s : State) : Host.Outcome State Fault Refusal :=
  s.run fun d =>
    if (d.flapSt p).endAt.any (fun t => decide (t ≤ d.now)) ∧ !d.winter then d.expirePort p else d

/-- The frames that wait for a fabric device are flushed or pass to its hold queues. -/
def Dev.expireDevice (d : Dev) (a : Nat) : Dev :=
  let d0 := { d with buf := { d.buf with fabFlap := Map.set ⟨none, false⟩ d.buf.fabFlap a ⟨none, true⟩ } }
  (List.range 8).foldl (fun d t =>
    if d.holdPolicy t = 0 then d.flushQueue (256 + a) t else (d.queueToHold (256 + a) t).1) d0

/-- FABRIC_DEST_FLAP_EXPIRE (R357): the flap timer of fabric device `a` ends. -/
def execFabricDestFlapExpire (a : Fin 256) (s : State) : Host.Outcome State Fault Refusal :=
  s.run fun d =>
    if (Map.get ⟨none, false⟩ d.buf.fabFlap a).endAt.any (fun t => decide (t ≤ d.now)) ∧ !d.winter
    then d.expireDevice a else d

/-! ### Faults and registers of the buffer -/

/-- BUF_LINK_MEMORY_FAILED (R279): an uncorrectable error in the link memory (1), the descriptor memory (2) or the free
list (3). -/
def execBufLinkMemoryFailed (mem : Fin 4) (s : State) : Host.Outcome State Fault Refusal :=
  s.run fun d =>
    let d1 := { d with buf := { d.buf with linkFailed := true } }
    let d2 := ((d1.set0 .BUF_STATUS_LINK_MEM_FAULT 1).set0 .BUF_LAST_ECC_KIND 2).set0 .BUF_LAST_ECC_MEMORY mem
    (d2.record .BUF_LINK_MEMORY_FAILED 5 0 (payloadOf [])).winterCause .HLT_CAUSE_CORE_FATAL
      EvCode.BUF_LINK_MEMORY_FAILED.code

/-- A write subject to R260: refused where it would bring BUF_SHARED_SIZE below its floor. -/
def Dev.floorWrite (d : Dev) (off v : Nat) (f : Dev → Dev) : Dev :=
  if (f d).sharedSize < 65536 then
    (d.set0 .BUF_STATUS_CFG_REFUSED 1).record .BUF_CFG_REFUSED 0 0 (payloadOf [(4, off), (4, v)])
  else f d

def Dev.writeReserve (d : Dev) (v : Nat) : Dev :=
  if 4096 ≤ v ∧ v ≤ 65536 then d.floorWrite (Reg.addr .BUF_ARRIVAL_RESERVE 0 0) v (fun d => d.set0 .BUF_ARRIVAL_RESERVE v)
  else d

/-- BUF_ARRIVAL_RESERVE_WRITE (R260). -/
def execBufArrivalReserveWrite (m : Master) (v : Fin 4294967296) (s : State) : Host.Outcome State Fault Refusal :=
  s.run fun d => d.onWrite m .BUF_ARRIVAL_RESERVE 0 0 fun d => d.writeReserve v

/-! ### Capture records (R244, R245) -/

/-- A staged record with its number and its check. -/
def sealRecord (rec : Bytes) (k : Nat) : Bytes :=
  let b := patch rec 0x70 (leBytes 4 (k % 2 ^ 32))
  patch b 0x7C (leBytes 4 (crc32c (b.take 0x7C)))

/-- The head of the staging FIFO takes number `k` and its slot of a ring of `n` records. -/
def Dev.nextCapture (d : Dev) (n : Nat) : Dev :=
  let k := d.act.capHead + 1
  let d1 := { d with act := { d.act with capFifo := d.act.capFifo.drop 1, capHead := k } }
  if k % n = 0 then d1.set0 .ACT_CAP_WRAPS (d1.f0 .ACT_CAP_WRAPS + 1) else d1

/-- CAPTURE_RECORD_WRITE (R244): the oldest staged record is written to its target; `fail` is a failed PF2 write. -/
def execCaptureRecordWrite (fail : Bool) (s : State) : Host.Outcome State Fault Refusal :=
  s.run fun d =>
    match d.act.capFifo with
    | [] => d
    | rec :: _ =>
      let k := d.act.capHead
      let b := sealRecord rec k
      if d.f0 .ACT_CAP_CTRL_TARGET = 0 then
        let n := d.hld.capGib * 8388608
        if !d.hld.mounted ∨ d.hld.outOfService ∨ d.hld.frozen ∨ n = 0 then d
        else
          let d1 := { d with hld := { d.hld with capArea := Map.set none d.hld.capArea (k % n) (some b) } }
          let page := heldEnd d.hld.capGib + k % n / 512
          (if k % 32 = 31 then d1.noteRowWrite page 1 else d1.defer page).nextCapture n
      else if !d.b0 .ACT_CAP_CTRL_ENABLE then d
      else if fail ∨ d.host.lost ∨ 2 ∈ d.host.d3hot then
        ((d.set0 .ACT_CAP_CTRL_ENABLE 0).set0 .ACT_CAP_CTRL_HOST_STOPPED 1).record .CAPTURE_HOST_STOPPED 0 0 (payloadOf [])
      else
        let n := 2 ^ d.f0 .ACT_CAP_HOST_LOG2
        let base := d.f0 .ACT_CAP_HOST_HI * 2 ^ 32 + d.f0 .ACT_CAP_HOST_LO * 4096
        (d.nextCapture n).emit (.hostWrite (base + k % n * 128) b)

end Sys2Proof.Machine
end

