-- ==== Sys2Proof/Machine/Hold.lean ====
section
/-! DEFINITION. The commands of the hold store (spec/11) but its mount: writing, draining, the free ring, scrubbing, wear,
the format, and the retraining of memory dies (R148 to R150). -/

namespace Sys2Proof.Machine

/-! ### Writing (R293, R294, R297) -/

/-- The first frame of port 133's queues in strict priority, TC7 first. -/
def Dev.holdNext (d : Dev) : Option Desc := [7, 6, 5, 4, 3, 2, 1, 0].findSome? (fun t => (d.queue 133 t).head?)

/-- The port whose editor settings a frame of a hold queue is stored under: its own, or its present next hop. -/
def Dev.holdPort (d : Dev) (h : Nat) (fab : Option FabHdr) : Nat :=
  if h < 1024 then h / 8 else (d.routePort ((h - 1024) / 8 + 1) ((fab.map (·.hash)).getD 0)).getD 0

/-- A frame taken from port 133 is stored, or dropped by a check or by the full policy; for a port that the image does not
use it is discarded as R91 orders (R99). -/
def Dev.holdWrite (d : Dev) (de : Desc) (h : Nat) (c : Chain) (rd : CellRead) : Dev :=
  let p := d.holdPort h de.fab
  let g := d.readCells 133 de c rd
  if !g.2 then g.1
  else if h < 1024 ∧ !g.1.portUsed p then g.1.count .HLD_T_DISCARDED (h % 8)
  else
    let e := g.1.edited c.region p c de
    let ed := editState c.body de.edits (d.f0 .ACT_TPID) (d.macSa p)
    let bytes := padded e.2 ++ fcsOf (padded e.2)
    let d1 := if e.2.length < 60 ∧ h < 1024 then e.1.macCount .MAC_TX_PADDED p else e.1
    if h < 1024 ∧ d1.f1 .MAC_MAX_FRAME p < bytes.length then d1.macCount .MAC_TX_OVERSIZE_DROP p
    else
      let r := d1.storeFrame h de.headChain
        { bytes := bytes, opMs := 0, page := 0, off := 0, cls := de.cls, fab := de.fab, ipAt := ed.ip, ipv6 := de.edits.ipv6 }
      if r.2 then (r.1.count .HLD_T_HELD_FRAMES (h % 8)).countN .HLD_T_HELD_BYTES (h % 8) bytes.length
      else r.1.count .HLD_T_FULL_DROP (h % 8)

/-- HOLD_WRITE (R297): the hold writer takes the next frame of port 133 while a row buffer is free; `rd` is what the reads of
its cells meet (R276, R277). -/
def execHoldWrite (rd : CellRead) (s : State) : Host.Outcome State Fault Refusal :=
  s.run fun d =>
    if !d.holdRuns ∨ 1024 < d.rowBuffers + 5 then d
    else match d.holdNext with
      | none => d
      | some de =>
        match de.holdQ, d.chain de.chain with
        | some h, some c =>
          let d1 := d.setQueue 133 de.tc ((d.queue 133 de.tc).drop 1)
          let x := d1.holdQ h
          let d2 := (d1.setHoldQ h { x with pending := x.pending - 1 }).holdWrite de h c rd
          ((d2.linkChain h).giveBack de.chain 133 rd).holdSettle h
        | _, _ => d.setQueue 133 de.tc ((d.queue 133 de.tc).drop 1)

/-- The partial row that has waited longest: its queue, whether it is a head chain's, and the row. -/
def Dev.oldestRow (d : Dev) : Option (Nat × Bool × OpenRow) :=
  let rows := d.hld.queues.flatMap (fun x =>
    (x.2.row.toList.map (fun r => (x.1, false, r))) ++ (x.2.chainRow.toList.map (fun r => (x.1, true, r))))
  rows.foldl (fun (b : Option (Nat × Bool × OpenRow)) r => match b with
    | none => some r
    | some y => if r.2.2.since < y.2.2.since then some r else some y) none

/-- HOLD_ROW_WRITE (R294): a full or closed row is written; with the row buffers used up, the oldest partial row is
written PADDED. -/
def execHoldRowWrite (s : State) : Host.Outcome State Fault Refusal :=
  s.run fun d =>
    if !d.holdRuns then d
    else match d.hld.due with
      | (_, page, _) :: rest =>
        ({ d with hld := { d.hld with due := rest } }).noteRowWrite page 0
      | [] =>
        if d.rowBuffers + 5 ≤ 1024 then d
        else match d.oldestRow with
          | none => d
          | some (h, head, r) =>
            let x := d.holdQ h
            let next : Option OpenRow := if r.row = 15 then none else some { r with row := r.row + 1, used := 0, starts := 0, since := d.now }
            let y := if head then { x with chainRow := next } else { x with row := next }
            ((d.setHoldQ h y).count .HLD_ROWS_PADDED 0).noteRowWrite r.page 0

/-! ### Draining (R298 to R301) -/

/-- The device forwards, and R93 does not withhold the drain: a member of a pair that is not ACTIVE keeps its restored
queues. -/
def Dev.drainState (d : Dev) (h : Nat) : Bool := d.forwards && !(d.paired && !d.isActive && (d.holdQ h).restored)

/-- Where the head frame of a queue goes: the port and its hold conditions of R298 that concern it. -/
def Dev.drainPort (d : Dev) (h : Nat) (f : Held) : Option Nat :=
  if h < 1024 then
    let p := h / 8
    if d.linkUp p ∧ (d.flapSt p).endAt.isNone ∧ !d.portPast p ∧ !d.muted p then some p else none
  else d.routePort ((h - 1024) / 8 + 1) ((f.fab.map (·.hash)).getD 0)

/-- The drain bucket of a queue (R302). -/
def Dev.drainShaper (d : Dev) (h : Nat) : Nat × Nat := (d.clsDrainRate (h % 8), 65536)

/-- Room for a frame on the way: the buffer queue is low, the bucket holds tokens, and W5 is granted every cell. -/
def Dev.drainRoom (d : Dev) (h p : Nat) (f : Held) : Bool :=
  decide (d.depth p (h % 8) < d.f0 .HLD_DRAIN_LOW) && shaperOpen (d.holdQ h).bucket (d.drainShaper h) d.now &&
  decide (cellsFor f.bytes.length ≤ d.freeCells) && decide (d.descUsed < 1572864)

/-- The head frame leaves its queue for the buffer queue of port `p`: linked at the tail, marked under R263, and not tested
against Table 10-1. -/
def Dev.drainTo (d : Dev) (h p : Nat) (f : Held) : Dev :=
  let n := f.bytes.length
  let c := d.newChain 5
    { bytes := f.bytes, hasFcs := true, marked := none, port := 133, region := p / 32, tc := h % 8, cells := cellsFor n, refs := 1
      lastOwner := none, crc32c := crc32c f.bytes, cap := ⟨0, 0, 0, false⟩, parse := .empty 133, hash := 0, dflt := none }
  let de := { Desc.plain c.2 n (h % 8) f.cls with
    fab := f.fab, drained := true, edits := { Edits.none with ipAt := f.ipAt, ipv6 := f.ipv6 } }
  let x := c.1.holdQ h
  let d1 := c.1.setHoldQ h { x with
    frames := x.frames.drop 1, bucket := shaperTake x.bucket (d.drainShaper h) n d.now
    drained := x.drained + 1, oldest := max x.oldest (d.opMs - f.opMs) }
  let m := d1.ecnMark p (h % 8) de
  ((m.1.enqueue p (h % 8) m.2).count .HLD_T_DRAINED_FRAMES (h % 8)).perf (p / 32) 0x104 (c.2 % 4) 1

/-- The rows of its page that a frame lies in and that stand on the dies: neither open nor waiting for their write. -/
def Dev.rowsOnDies (d : Dev) (h : Nat) (f : Held) : List Nat :=
  (List.range 16).filter (fun row => f.inRow row && !((d.holdQ h).row.any (fun r => r.page == f.page && r.row == row)) &&
    !d.hld.due.contains (h, f.page, row))

/-- The rows of a frame are read, each with what its read meets: the first one that is lost ends the read (R286, R315). -/
def Dev.readRows (f : Held) : List Nat → List RowRead → Dev → Dev × Bool
  | [], _, d => (d, true)
  | row :: rest, l, d =>
    let stripe := d.stripeOf f.page row
    let r := (d.perf 5 0x301 0 1).readStripe f.page stripe (.of (l.headD ⟨0, [], []⟩))
    if r.1.hld.outOfService then (r.1, false)
    else if r.2 = .lost then (r.1.stripeLost stripe (some (f.page, row)), false)
    else Dev.readRows f rest l.tail r.1

/-- HOLD_DRAIN (R298): the head frame of hold queue `h` is drained, or discarded for its age (R301).  `reads` is what the
reads of its rows meet, in order, and `badFree` a free request for a page that another queue, or nobody, owns (R291). -/
def execHoldDrain (h : Fin 3056) (reads : List RowRead) (badFree : Option (Fin 3056 × Fin 67108864)) (s : State) :
    Host.Outcome State Fault Refusal :=
  s.run fun d =>
    let x := d.holdQ h
    match x.frames with
    | [] => d
    | f :: rest =>
      let t := h.val % 8
      let chaining := (d.queue 133 t).any (fun de => de.headChain && de.holdQ == some h.val)
      let claim (d : Dev) : Dev := match badFree with
        | some (q, page) => d.refuseFree q page
        | none => d
      match d.drainPort h f with
      | none => d
      | some p =>
        if !x.active ∨ !d.holdRuns ∨ !d.drainState h ∨ chaining ∨ !x.chain.isEmpty then d
        else if d.clsMaxAge t ≠ 0 ∧ d.clsMaxAge t * 1000 < d.opMs - f.opMs then
          let d1 := (d.setHoldQ h { x with frames := rest }).count .HLD_T_AGE_DISCARD t
          (((claim d1).recordCounted .HOLD_AGE_DISCARD t tSec 0 0 (fun n => [(1, t), (4, n)])).trimPages h).holdSettle h
        else if !d.drainRoom h p f then d
        else
          let r := Dev.readRows f (d.rowsOnDies h f) reads d
          if r.2 then ((claim (r.1.drainTo h p f)).trimPages h).holdSettle h else r.1

/-! ### The free ring (R290, R306) -/

/-- FREE_RING_REFILL (R290). -/
def execFreeRingRefill (s : State) : Host.Outcome State Fault Refusal :=
  s.run fun d =>
    if d.holdRuns ∧ d.hld.ring.allocHalf.length < 512 ∧ d.hld.ring.entries ≠ 0
    then (d.setRing d.hld.ring.refill).perf 5 0x303 0xFF 1 else d

/-- FREE_RING_SPILL (R290). -/
def execFreeRingSpill (s : State) : Host.Outcome State Fault Refusal :=
  s.run fun d =>
    if d.holdRuns ∧ 1536 < d.hld.ring.freeHalf.length then
      ((d.setRing d.hld.ring.spill).perf 5 0x304 0xFF 1).noteRowWrite
        (35072 + d.hld.ring.tailCnt % (heldEnd d.hld.capGib - heldFirst) / 16384) 3
    else d

/-- FREE_SWEEP (R306): the sweep ends; every page without a live owner has gone to the ring, in the order of its reads. -/
def execFreeSweep (s : State) : Host.Outcome State Fault Refusal :=
  s.run fun d =>
    if !d.holdRuns ∨ !d.b0 .HLD_STATUS_SWEEPING then d
    else
      let r := d.hld.ring
      let found := d.hld.strays.insertionSort (· ≤ ·)
      let ring := { r with spilled := r.spilled ++ found, tailCnt := r.tailCnt + found.length }
      ({ d with hld := { d.hld with
          ring := ring, strays := [], fullAt := if d.hld.strays.isEmpty then d.hld.fullAt else none } }).set0 .HLD_STATUS_SWEEPING 0

def Dev.startSweep (d : Dev) : Dev :=
  if d.hld.mounted ∧ !d.hld.outOfService then d.set0 .HLD_STATUS_SWEEPING 1 else d

/-- HLD_SWEEP_CMD (R306): a master writes HLD_CTRL.SWEEP. -/
def execHldSweepCmd (m : Master) (s : State) : Host.Outcome State Fault Refusal :=
  s.run fun d => d.onWrite m .HLD_CTRL 0 0 fun d => d.startSweep

/-! ### Scrubbing and wear (R309 to R312) -/

/-- Stripes of the store: the physical zones, then the control area. -/
def stripeCount : Nat := 4096 * 16385 * 16 + 4096

/-- HOLD_SCRUB (R309): the scrub reads its next stripe; `corr` lists the sectors with corrected bits. -/
def execHoldScrub (corr : List (HoldDie × Fin 9)) (bad : List HoldDie) (err : List (HoldDie × Fin 272 × Fin 256))
    (s : State) :
    Host.Outcome State Fault Refusal :=
  s.run fun d =>
    let k := d.hld.scrubAt
    if !d.holdRuns ∨ (k = 0 ∧ d.hld.lastScrub ≠ 0 ∧ d.now < d.hld.lastScrub + d.f0 .HLD_SCRUB_HOURS * 3600 * tSec) then d
    else
      let at_ := if k < 4096 * 16385 * 16 then d.pageOfStripe k else none
      let page := (at_.map (·.1)).getD (2 ^ 26)
      let next := (k + 1) % stripeCount
      let d1 := ({ d with hld := { d.hld with scrubAt := next, lastScrub := if k = 0 then d.now + 1 else d.hld.lastScrub } }).set0
        .HLD_STATUS_SCRUBBING (b2n (decide (next ≠ 0)))
      let r := (d1.perf 5 0x301 2 1).readStripe page k
        (.of ⟨corr.foldl (fun n x => n + x.2.val) 0, bad, err⟩)
      let n := corr.countP (fun x => decide (4 ≤ x.2.val))
      let d2 := r.1.countN .HLD_SCRUB_REWRITES 0 n
      if d2.hld.outOfService then d2
      else match r.2 with
        | .lost => d2.stripeLost k at_
        | .fixed => if (d1.erasures page (bad.map (·.val))).isEmpty then d2 else d2.rewriteStripe k
        | .good => if n = 0 then d2 else d2.rewriteStripe k

/-- GAP_MOVE (R310): the empty slot of a physical zone moves by one page. -/
def execGapMove (z : Fin 4096) (s : State) : Host.Outcome State Fault Refusal :=
  s.run fun d =>
    let x := d.zone z
    if !d.holdRuns ∨ x.sinceGap < d.f0 .HLD_GAP_INTERVAL * 16 then d
    else
      let y : Zone := if x.gap = 0 then { x with gap := 16384, start := (x.start + 1) % 16384 } else { x with gap := x.gap - 1 }
      let from_ := if x.gap = 0 then 16384 else x.gap - 1
      let page := ((d.pageOfStripe (16 * (16385 * z + from_))).map (·.1)).getD (2 ^ 26)
      let d1 := ((((d.setZone z y).count .HLD_GAP_MOVES 0).perf 5 0x300 3 16).wearRows z 16).defer page
      d1.setZone z { d1.zone z with sinceGap := 0 }

/-- The most-worn and the least-worn physical zones, the lowest-numbered first. -/
def Dev.wornZones (d : Dev) : Nat × Nat :=
  (List.range 4096).foldl (fun b z =>
    (if (d.zone b.1).wear < (d.zone z).wear then z else b.1, if (d.zone z).wear < (d.zone b.2).wear then z else b.2)) (0, 0)

/-- The logical zone mapped to a physical one. -/
def Dev.logicalZone (d : Dev) (ph : Nat) : Nat := ((d.hld.zoneMap.find? (fun m => m.2 == ph + 1)).map (·.1)).getD ph

/-- The exchange of two zones goes on by one page pair: both copies are written, and the progress pointer moves on. -/
def Dev.swapPair (d : Dev) : Dev :=
  match d.hld.swapping with
  | none => d
  | some (a, b, n) =>
    if 16384 ≤ n then d
    else
      let d1 := { d with hld := { d.hld with swapping := some (a, b, n + 1) } }
      (d1.notePageCopy (16384 * a + n)).notePageCopy (16384 * b + n)

def Dev.swapPairs : Nat → Dev → Dev
  | 0, d => d
  | k + 1, d => Dev.swapPairs k d.swapPair

/-- ZONE_SWAP (R311): the hourly comparison starts an exchange of the most-worn and the least-worn zone; one in progress goes
on by `pairs` page pairs, and with the last one the map follows. -/
def execZoneSwap (pairs : Fin 16385) (s : State) : Host.Outcome State Fault Refusal :=
  s.run fun d =>
    if !d.holdRuns then d
    else match d.hld.swapping with
      | some _ =>
        let d1 := Dev.swapPairs pairs d
        (match d1.hld.swapping with
         | some (a, b, 16384) =>
           let pa := d1.physZone a
           let pb := d1.physZone b
           let d2 := ({ d1 with hld := { d1.hld with swapping := none } }).set0 .HLD_STATUS_SWAPPING 0
           ((d2.setPhysZone a pb).setPhysZone b pa).count .HLD_ZONE_SWAPS 0
         | _ => d1)
      | none =>
        if d.now < d.hld.lastSwap + 3600 * tSec then d
        else
          let w := d.wornZones
          let d1 := { d with hld := { d.hld with lastSwap := d.now } }
          if (d.zone w.2).wear + d.f0 .HLD_ZONE_SWAP_DELTA ≤ (d.zone w.1).wear then
            ({ d1 with hld := { d1.hld with swapping := some (d.logicalZone w.1, d.logicalZone w.2, 0) } }).set0
              .HLD_STATUS_SWAPPING 1
          else d1

/-- WEAR_COUNTER_SAVE (R312): the wear counters are saved hourly. -/
def execWearCounterSave (s : State) : Host.Outcome State Fault Refusal :=
  s.run fun d =>
    if !d.holdRuns ∨ d.now < d.hld.lastWearSave + 3600 * tSec then d
    else
      let zones := d.hld.zones.map (fun x => (x.1, { x.2 with saved := x.2.wear }))
      { d with hld := { d.hld with zones := zones, lastWearSave := d.now } }

/-! ### The format (R317) -/

/-- A write of HLD_FORMAT. -/
def Dev.writeFormat (d : Dev) (m key cap : Nat) : Dev :=
  let off := Reg.HLD_FORMAT.addr 0 0
  d.pwWrite m off .HLD_FORMAT_BUSY .HLD_FORMAT_COLLISION fun d =>
    if key ≠ 0x5A then (d.set0 .HLD_FORMAT_REFUSED 1).accessFailed m .badKey off
    else if (!d.winter ∧ d.boot.committed) ∨ d.hld.outOfService then d.set0 .HLD_FORMAT_REFUSED 1
    else if 2048 < cap then d
    else ({ d with hld := { d.hld with formatting := some cap } }).set0 .HLD_FORMAT_BUSY 1

/-- HLD_FORMAT (R317): a master writes HLD_FORMAT. -/
def execHldFormat (m : Master) (key : Fin 256) (cap : Fin 4096) (s : State) : Host.Outcome State Fault Refusal :=
  s.run fun d => d.onWrite m .HLD_FORMAT 0 0 fun d => d.writeFormat m key cap

/-- The size of the capture area as last formatted shows in HLD_FORMAT (R289). -/
def Dev.showCapture (d : Dev) : Dev :=
  d.set0 .HLD_FORMAT_CAP_GIB d.hld.capGib

/-- The newest valid commit that is not consumed, and the copies with it marked consumed. -/
def HldSt.takeCommit (h : HldSt) (okA okB : Bool) : Option Commit × HldSt :=
  let ok (c : Option Commit) (v : Bool) : Option Commit := if v then c.filter (fun x => !x.consumed) else none
  let used (c : Commit) : Option Commit := some { c with consumed := true }
  match ok h.commitA okA, ok h.commitB okB with
  | some a, some b => if b.seq < a.seq then (some a, { h with commitA := used a }) else (some b, { h with commitB := used b })
  | some a, none => (some a, { h with commitA := used a })
  | none, some b => (some b, { h with commitB := used b })
  | none, none => (none, h)

/-- What a format does to a commit that no mount has taken yet (R317): its queues are emptied, its ring is rebuilt. -/
def Commit.formatted (gib : Nat) (c : Commit) : Commit := { c with queues := [], ring := ringFor gib }

/-- The queues that a format empties: before the mount they stand in the newest commit not consumed. -/
def HldSt.formatQueues (h : HldSt) : Map HoldQ :=
  match if h.mounted then none else (h.takeCommit true true).1 with
  | some c => c.queues
  | none => h.queues

/-- HLD_FORMAT_DONE (R317): the format ends. -/
def execHldFormatDone (s : State) : Host.Outcome State Fault Refusal :=
  s.run fun d0 =>
    match d0.hld.formatting with
    | none => d0
    | some cap =>
      let d := { d0 with hld := { d0.hld with queues := d0.hld.formatQueues } }
      let n := d.hld.queues.foldl (fun n x => n + x.2.frames.length + x.2.chain.length) 0
      let d1 := (d.hld.queues.map (·.1)).foldl (fun d h => d.emptyQueue h .HLD_T_DISCARDED false) d
      let area := if cap = d1.hld.capGib then d1.hld.capArea else []
      let d2 := { d1 with
        hld := { d1.hld with formatting := none, capGib := cap, ring := ringFor cap, strays := [], due := [], fullAt := none
                             capArea := area, commitA := d1.hld.commitA.map (Commit.formatted cap)
                             commitB := d1.hld.commitB.map (Commit.formatted cap) }
        act := { d1.act with capHead := 0 } }
      (((d2.showCapture).set0 .HLD_FORMAT_BUSY 0).set0 .HLD_STATUS_SWEEPING 0).record .HOLD_FORMATTED 0 0
        (payloadOf [(2, cap), (4, n)])

/-! ### Retraining of memory dies (R148 to R150) -/

/-- The next die of the pass that is in service, from a position on; 18 ends the pass. -/
def Dev.retrainDie (d : Dev) (from_ : Nat) : Nat :=
  ((List.range 18).find? (fun i => decide (from_ ≤ i) && decide (i ∉ d.hld.failedDies))).getD 18

/-- The temperature in °C of a die, in 1/16 °C of MON_TEMP: its own sensor, or with that one failed the mean of its
neighbours in the stack (R407, R409). -/
def Dev.holdTemp (d : Dev) (die : Nat) : Int :=
  let at_ (j : Nat) : Nat := 52 + 11 * (die / 9) + j
  let j := die % 9
  let own := at_ j
  let near := ((if j = 0 then [] else [j - 1]) ++ (if j = 8 then [] else [j + 1])).filter (fun k => at_ k ∉ d.hlt.failed)
  if own ∉ d.hlt.failed ∨ near.isEmpty then signed 16 (d.f1 .MON_TEMP own)
  else (near.map (fun k => signed 16 (d.f1 .MON_TEMP (at_ k)))).sum / near.length

/-- A die whose sensor has moved 5 °C or more since its last retraining; a die never retrained is compared with the reset
value of RETRAIN_TEMP (DESIGN CHOICE, log 77). -/
def Dev.holdMoved (d : Dev) (die : Nat) : Bool :=
  decide (80 ≤ (d.holdTemp die - 16 * signed 8 (d.f1 .HLD_DIE_STATUS_RETRAIN_TEMP die)).natAbs)

/-- HOLD_RETRAIN_START (R148): the retraining of a die begins: of one whose sensor has moved 5 °C or more, ahead of the order
of the 10-minute pass, or of the next one of the pass. -/
def execHoldRetrainStart (die : HoldDie) (s : State) : Host.Outcome State Fault Refusal :=
  s.run fun d =>
    let h := d.hld
    let passDue := h.passAt.all (fun t => decide (t + 600 * tSec ≤ d.now))
    let newPass := decide (d.retrainDie h.retrainPos = 18) && passDue
    let pos := if newPass then d.retrainDie 0 else d.retrainDie h.retrainPos
    let anyHot := (List.range 18).any (fun i => decide (i ∉ h.failedDies) && d.holdMoved i)
    if h.retrain.isSome ∨ h.rebuild.isSome ∨ d.now < h.retrainNext ∨ h.suspended ∨ h.outOfService ∨ h.fenced ∨ h.frozen ∨
        die.val ∈ h.failedDies ∨ !(if anyHot then d.holdMoved die else pos == die.val) then d
    else
      let inPass := pos == die.val
      let d1 := { d with hld := { h with
        retrain := some (die, d.now), retrainNext := d.now + 10 * tMs
        retrainPos := if inPass then die + 1 else h.retrainPos
        passAt := if inPass && newPass then some d.now else h.passAt } }
      (((d1.set1 .HLD_DIE_STATUS_STATE die 1).set1 .HLD_DIE_STATUS_RETRAIN_TEMP die (unsigned 8 (d.holdTemp die / 16))).set0
        .HLD_RETRAIN_STATUS_ACTIVE 1).set0 .HLD_RETRAIN_STATUS_DIE die

/-- A retraining of a die failed: the second in a row fails the die (R150). -/
def Dev.retrainFailed (d : Dev) (die : Nat) : Dev :=
  let n := Map.get 0 d.hld.retrainFails die + 1
  let d1 := { d with hld := { d.hld with retrainFails := Map.set 0 d.hld.retrainFails die n } }
  if n < 2 then d1
  else (d1.record .HOLD_RETRAIN_FAILED 0 0 (payloadOf [])).failHoldDie die

/-- HOLD_RETRAIN_DONE (R149): the retraining under way ends, well or not. -/
def execHoldRetrainDone (ok : Bool) (s : State) : Host.Outcome State Fault Refusal :=
  s.run fun d =>
    match d.hld.retrain with
    | none => d
    | some (die, _) =>
      let d1 := d.endRetrain
      if ok then { d1 with hld := { d1.hld with retrainFails := Map.set 0 d1.hld.retrainFails die 0 } }
      else d1.retrainFailed die

/-- HOLD_RETRAIN_TIMEOUT (R148): a retraining that has run for 1 ms is abandoned. -/
def execHoldRetrainTimeout (s : State) : Host.Outcome State Fault Refusal :=
  s.run fun d =>
    match d.hld.retrain with
    | none => d
    | some (die, at_) => if at_ + tMs ≤ d.now then (d.abortRetrain 0).retrainFailed die else d

/-- The listed pages are complete on every die. -/
def Dev.clearDeferral (d : Dev) : Dev :=
  ({ d with hld := { d.hld with deferral := [], rebuild := none } }).set0 .HLD_RETRAIN_STATUS_DEFERRED 0

/-- DEFERRAL_LIST_REBUILD (R149): the missing symbols of the listed pages have been rebuilt and written. -/
def execDeferralListRebuild (s : State) : Host.Outcome State Fault Refusal :=
  s.run fun d => if d.hld.rebuild.isSome ∧ d.holdRuns then d.clearDeferral else d

end Sys2Proof.Machine
end

