-- ==== Sys2Proof/Machine/ImageCheck.lean ====
section
/-! DEFINITION. The structure image: its layout and the checks of the loader (R44 to R60, and the semantic rules of the
chapters that own the sections). -/

namespace Sys2Proof.Machine

/-! ### Layout (Tables 2-1 to 2-4) -/

def imgSig (img : Bytes) : Nat := leAt img 0x18 4
def imgCount (img : Bytes) : Nat := leAt img 0x10 2
/-- FMT_MAJOR * 256 + FMT_MINOR. -/
def imgFmt (img : Bytes) : Nat := leAt img 4 2
def imgSerial (img : Bytes) : Nat := leAt img 0xC 4
def imgAmends (img : Bytes) : Bool := bitOf (leAt img 6 2) 0
def imgDigest (img : Bytes) : Bytes := slice img (imgSig img + 8) 48

/-- One section table entry (Table 2-2); `version` is VER_MAJOR * 256 + VER_MINOR. -/
structure Sec where
  type : Nat
  version : Nat
  mask : Nat
  off : Nat
  len : Nat
  crc : Nat
  reserved : Nat
  deriving DecidableEq, Repr

def secOf (img : Bytes) (i : Nat) : Sec :=
  let e := 64 + 24 * i
  { type := leAt img e 2, version := leAt img (e + 2) 2, mask := leAt img (e + 4) 1, off := leAt img (e + 8) 4
    len := leAt img (e + 12) 4, crc := leAt img (e + 16) 4, reserved := leAt img (e + 5) 3 + leAt img (e + 20) 4 }

def secsOf (img : Bytes) : List Sec := (List.range (min 64 (imgCount img))).map (secOf img)

def Sec.body (s : Sec) (img : Bytes) : Bytes := slice img s.off s.len

/-- Kinds of sections (Table 2-3). -/
inductive SecKind
  | structural | live | atBoot | info
  deriving DecidableEq, Repr

/-- Kind, whether its scope is the region, and its versions (Table 2-3). -/
def secType : Nat → Option (SecKind × Bool × Nat × Nat)
  | 1 => some (.structural, true, 0x300, 0x402)
  | 2 => some (.structural, false, 0x300, 0x401)
  | 3 => some (.structural, true, 0x300, 0x402)
  | 4 => some (.structural, true, 0x301, 0x402)
  | 5 => some (.structural, false, 0x300, 0x400)
  | 6 => some (.structural, false, 0x400, 0x402)
  | 7 => some (.structural, true, 0x300, 0x402)
  | 8 => some (.live, false, 0x302, 0x402)
  | 9 => some (.atBoot, false, 0x300, 0x401)
  | 10 => some (.atBoot, false, 0x303, 0x402)
  | 11 => some (.live, false, 0x300, 0x402)
  | 12 => some (.live, false, 0x300, 0x400)
  | 13 => some (.live, false, 0x300, 0x400)
  | 14 => some (.live, false, 0x401, 0x402)
  | 255 => some (.info, false, 0, 0xFFFF)
  | _ => none

/-- Whether the type's scope is the region. -/
def regionScope (ty : Nat) : Bool := (secType ty).any (fun k => k.2.1)

/-- Whether a section's LENGTH is one its description permits (R50, R52, R53, R226). -/
def lengthOk (ty : Nat) (b : Bytes) : Bool :=
  let n := b.length
  let count := leAt b 0 2
  let listed := 8 + count * leAt b 2 2
  match ty with
  | 1 => n == 128
  | 2 => n == 7
  | 3 => n == listed
  | 4 => n == listed
  | 5 => n == 8 + 16 * count
  | 6 => decide (listed ≤ n)
  | 7 => n == listed + 512
  | 8 => n == 352
  | 9 => n == 48
  | 10 => n == 12
  | 11 => n == 16 || n == 32
  | 12 => n == 16
  | 13 => n == 4 + 8 * count
  | 14 => n == 36
  | _ => true

/-- Whether the bytes `[a, z)` are all zero. -/
def zeros (b : Bytes) (a z : Nat) : Bool := (slice b a (z - a)).all (fun x => x == 0)

/-! ### Steps 1 to 4: header, section table, gaps and body checks -/

/-- A failed check: REASON (Table 2-10) and section index. -/
abbrev Refused := Option (Nat × Nat)

/-- The first check of a list that fails. -/
def firstBad (l : List (Bool × Nat × Nat)) : Refused := l.findSome? (fun x => if x.1 then none else some x.2)

def headerChecks (img : Bytes) (len : Nat) : Refused :=
  let fmt := imgFmt img
  let size := leAt img 8 4
  let sig := imgSig img
  firstBad [
    (leAt img 0 4 == 0x48544C56, 1, 0),
    (crc32c (img.take 60) == leAt img 0x3C 4, 2, 0),
    ((decide (0x300 ≤ fmt) && decide (fmt ≤ 0x304)) || (decide (0x400 ≤ fmt) && decide (fmt ≤ 0x402)), 3, 0),
    (size == sig + 256 && size == len && decide (size ≤ 268369920) && sig % 64 == 0 &&
      decide (64 + 24 * imgCount img ≤ sig), 4, 0),
    (leAt img 0x14 4 == 64 && decide (1 ≤ imgCount img) && decide (imgCount img ≤ 64) &&
      decide (leAt img 6 2 < 4) && leAt img 0x12 2 == 0, 5, 0)]

/-- Where the body before entry `i` ends, or the section table. -/
def prevEnd (img : Bytes) (i : Nat) : Nat :=
  if i = 0 then 64 + 24 * imgCount img else (secOf img (i - 1)).off + (secOf img (i - 1)).len

/-- R47 and R48 for entry `i`. -/
def entryOk (img : Bytes) (i : Nat) : Bool :=
  let s := secOf img i
  let same := ((secsOf img).take i).filter (fun t => t.type == s.type)
  (secType s.type).isSome && s.reserved == 0 && decide (s.mask < 16) && s.off % 64 == 0 && decide (1 ≤ s.len) &&
    decide (prevEnd img i ≤ s.off) && decide (s.off + s.len ≤ imgSig img) && (regionScope s.type == decide (s.mask ≠ 0)) &&
    (if regionScope s.type then same.all (fun t => Nat.land t.mask s.mask == 0) else same.isEmpty)

/-- R49 and R50 for entry `i`. -/
def versionOk (img : Bytes) (i : Nat) : Bool :=
  let s := secOf img i
  match secType s.type with
  | none => false
  | some (k, _, lo, hi) =>
    decide (lo ≤ s.version) && decide (s.version ≤ hi) && (k == .info || decide (s.version ≤ imgFmt img)) &&
      lengthOk s.type (s.body img)

def tableChecks (img : Bytes) : Refused :=
  let idx := List.range (imgCount img)
  let entries := idx.flatMap (fun i => [(entryOk img i, 5, i), (versionOk img i, 7, i)])
  let gaps := idx.map (fun i => (zeros img (prevEnd img i) (secOf img i).off, 5, i - 1))
  let last := imgCount img - 1
  (firstBad entries).or ((firstBad gaps).or ((firstBad [(zeros img (prevEnd img (last + 1)) (imgSig img), 5, last)]).or
    (firstBad (idx.map (fun i => (crc32c ((secOf img i).body img) == (secOf img i).crc, 6, i))))))

/-! ### Steps 5 and 6: signature block and owner key (R51, R58 to R60) -/

/-- `owner` is the fused owner-key hash. -/
def signChecks (img : Bytes) (owner : Option Bytes) : Refused :=
  let b := imgSig img
  let alg := leAt img (b + 4) 2
  let dig := Config.sha384 (img.take b)
  let key := slice img (b + 0x38) 97
  let good := Config.ecdsaOk key dig (slice img (b + 0xA0) 96)
  firstBad [
    (leAt img b 4 == 0x4E474953 && decide (alg ≤ 1) && leAt img (b + 6) 2 == 0 && zeros img (b + 0x99) (b + 0xA0) &&
      (alg == 1 || zeros img (b + 0x38) (b + 0x100)), 9, 0),
    (imgDigest img == beBytes 48 dig.toNat, 8, 0),
    (alg == 0 || good, 9, 0),
    (alg == 0 || owner.all (fun h => h == beBytes 48 (Config.sha384 key).toNat), 10, 0),
    (owner.isNone || alg == 1, 11, 0)]

/-! ### The sections of an image -/

/-- The bodies of an image, at `k2 type region` (region 4 for the whole device). -/
def imgSections (img : Bytes) : Map Bytes :=
  (secsOf img).foldl (fun m s =>
    if s.mask = 0 then Map.insert m (k2 s.type 4) (s.body img)
    else (List.range 4).foldl (fun m n => if bitOf s.mask n then Map.insert m (k2 s.type n) (s.body img) else m) m) []

def secGet (m : Map Bytes) (ty n : Nat) : Bytes := Map.get [] m (k2 ty n)

/-- The table index of the section that gives a type and region. -/
def secIndex (img : Bytes) (ty n : Nat) : Nat :=
  ((secsOf img).findIdx? (fun s => s.type == ty && (s.mask == 0 || bitOf s.mask n))).getD 0

/-! ### Semantic rules (step 8) -/

/-- No two of a list's elements are equal. -/
def distinct (l : List Nat) : Bool := l.dedup.length == l.length

/-- R54 and R55. -/
def carveOk (b : Bytes) : Bool :=
  let v (i : Nat) : Nat := leAt b (1 + i) 1
  let p := leAt b 0 1
  decide (p < 4) || (p == 0xFF && v 0 == 16 && (v 1 == 16 || v 1 == 32) && decide (v 2 ≤ 64) && decide (v 3 ≤ 96) &&
    v 4 % 4 == 0 && v 5 % 4 == 0 && decide (8 ≤ v 5) && v 0 + v 1 + v 2 + v 3 + v 4 + v 5 == 192)

/-- R203. -/
def tcamOk (b : Bytes) : Bool :=
  let ps := partsOf b
  let raw := (List.range (leAt b 0 2)).all (fun i =>
    let o := 8 + 16 * i
    decide (leAt b o 1 < 64) && decide (leAt b (o + 3) 1 ≤ 1) && decide (leAt b (o + 4) 1 ≤ 1) && zeros b (o + 6) (o + 16))
  decide (1 ≤ ps.length) && decide (ps.length ≤ 64) && zeros b 2 8 && raw && distinct (ps.map (·.id)) &&
    ps.all (fun p => decide (1 ≤ p.banks) && decide (p.first + p.banks ≤ 64) &&
      (!p.wide || (p.first % 2 == 0 && p.banks % 2 == 0)) && (!p.prio || decide (p.size ≤ 16384)) &&
      decide (1 ≤ p.mask) && decide (p.mask < 16)) &&
    distinct (ps.flatMap (fun p => (List.range p.banks).map (fun i => p.first + i)))

/-- Whether port `i` of a group runs in a mode (Table 4-1). -/
def modeUses (mode i : Nat) : Bool :=
  match mode with
  | 0 => false
  | 1 => i == 0
  | 2 => i == 0 || i == 2
  | _ => true

/-- FEC values a mode accepts (Table 4-1). -/
def fecOk (mode fec : Nat) : Bool :=
  fec == 0 || (mode == 5 && decide (fec ≤ 3)) || (mode == 6 && decide (fec ≤ 2)) || (mode == 7 && fec == 1)

/-- A PORTS body (Table 2-5, R100). -/
def portsOk (b : Bytes) : Bool :=
  (List.range 8).all (fun g =>
    let o := 16 * g
    let mode := leAt b o 1
    let map_ := leAt b (o + 2) 1
    let role := leAt b (o + 5) 1
    decide (mode ≤ 7) && fecOk mode (leAt b (o + 1) 1) && decide (leAt b (o + 4) 1 < 4) && leAt b (o + 7) 1 == 0 &&
      distinct ((List.range 4).map (fun i => bitsOf map_ (2 * i) 2)) &&
      (List.range 4).all (fun i =>
        let r := bitsOf role (2 * i) 2
        let m := leAt b (o + 8 + 2 * i) 2
        decide (r ≤ 2) && (modeUses mode i || r == 0) && (m == 0 || (decide (64 ≤ m) && decide (m ≤ 16384)))))

/-- A CLASSES body. -/
def classesOk (b : Bytes) : Bool :=
  (slice b 0 64).all (fun x => decide (x.toNat < 8)) && decide (leAt b 0x40 2 ≤ 10000) && zeros b 0x42 0x60 &&
    (List.range 8).all (fun t =>
      let o := 0x60 + 32 * t
      decide (leAt b o 1 ≤ 2) && decide (leAt b (o + 1) 1 ≤ 1) && decide (leAt b (o + 2) 1 < 8) &&
        leAt b (o + 3) 1 == 0 && decide (1 ≤ leAt b (o + 0x10) 4) && decide (leAt b (o + 0x10) 4 ≤ 255) &&
        zeros b (o + 0x14) (o + 0x20))

/-- A TIME body. -/
def timeOk (b : Bytes) : Bool :=
  decide (leAt b 0 1 ≤ 2) && decide (leAt b 2 1 < 4) && leAt b 3 1 == 0 && decide (leAt b 4 4 ≤ 1000000000) && zeros b 8 16

/-- A FABRIC body. -/
def fabricOk (b : Bytes) : Bool := decide (leAt b 0 1 ≤ 254) && leAt b 1 1 == 0 && zeros b 8 16

/-- Ports with the pair role in the PORTS sections of a configuration. -/
def pairPortCount (m : Map Bytes) : Nat :=
  (List.range 128).countP (fun p =>
    bitsOf (leAt (secGet m 1 (p / 32)) (16 * (p % 32 / 4) + 5) 1) (2 * (p % 4)) 2 == 2)

/-- A PAIR body within its configuration (R367). -/
def pairOk (m : Map Bytes) (b : Bytes) : Bool :=
  let fab := secGet m 9 4
  let own := leAt fab 0 1
  let partner := leAt b 0 1
  let n := leAt b 4 1
  let wits := (List.range n).map (fun s => leAt b (5 + s) 1)
  fab != [] && own != 0 && partner != 0 && partner != 255 && partner != own && decide (2 ≤ pairPortCount m) &&
    decide (n ≤ 3) && wits.all (fun w => w != own && w != partner) && distinct wits && decide (leAt b 8 1 ≤ 2) &&
    leAt b 0xA 2 != 0 && decide (10 ≤ leAt b 2 2) && decide (leAt b 2 2 ≤ 1000) && leAt b 1 1 == 0 && leAt b 9 1 == 0

/-- The CAL offsets of Table 15-6. -/
def calOffsetOk (o : Nat) : Bool :=
  o % 4 == 0 && ((decide (0x100 ≤ o) && decide (o < 0x350)) || (decide (0x400 ≤ o) && decide (o < 0x4A0)) ||
    (decide (0x500 ≤ o) && decide (o < 0x510)) || (decide (0x800 ≤ o) && decide (o < 0xA00)) ||
    (decide (0x1000 ≤ o) && decide (o < 0x3000) && decide ((o - 0x1000) % 0x40 < 56)) ||
    (decide (0x3000 ≤ o) && decide (o < 0x3048)))

/-- A CAL body. -/
def calOk (b : Bytes) : Bool :=
  leAt b 2 2 == 0 && (List.range (leAt b 0 2)).all (fun i => calOffsetOk (leAt b (4 + 8 * i) 4))

/-- DEST of a forwarding type: 0 port, 1 group, 2 device. -/
def destOk (type dest : Nat) : Bool :=
  match type with
  | 0 => decide (dest < 128)
  | 1 => true
  | 2 => decide (1 ≤ dest) && decide (dest ≤ 254)
  | _ => true

/-- An ACTIONS profile record (Table 9-1, R225); `sets` is SET_COUNT of the AUTO section, 0 without one. -/
def actionOk (r : Bytes) (sets : Nat) : Bool :=
  let fwd := leAt r 2 1
  let flags := leAt r 3 1
  let ins := leAt r 0x16 1
  decide (leAt r 0 2 < 4096) && decide (fwd ≤ 6) && decide (flags < 64) && !(bitOf flags 0 && bitOf flags 5) &&
    (decide (fwd = 0 ∨ 3 < fwd) || destOk (fwd - 1) (leAt r 4 2)) &&
    (leAt r 6 1 == 0xFF || decide (leAt r 6 1 < 64)) && decide (leAt r 7 1 ≤ 2) &&
    (leAt r 8 2 == 0xFFFF || decide (leAt r 8 2 < 16384)) && decide (leAt r 0xA 1 ≤ 2) && leAt r 0xB 1 == 0 &&
    decide (leAt r 0x12 1 ≤ 3) && leAt r 0x13 1 == 0 && decide (leAt r 0x14 2 < 4096) &&
    (ins == 0xFF || decide (ins < sets)) && decide (leAt r 0x17 1 < 64) && decide (leAt r 0x18 1 < 64) &&
    zeros r 0x19 0x20

/-- A port defaults record (Table 9-2). -/
def defaultsOk (r : Bytes) : Bool :=
  decide (leAt r 0 1 ≤ 3) && decide (leAt r 1 1 < 64) && destOk (leAt r 0 1) (leAt r 2 2) && zeros r 0xA 16

def actionsOk (b : Bytes) (sets : Nat) : Bool :=
  let n := leAt b 0 2
  decide (n ≤ 4096) && leAt b 2 2 == 32 && distinct ((List.range n).map (fun i => leAt b (8 + 32 * i) 2)) &&
    (List.range n).all (fun i => actionOk (slice b (8 + 32 * i) 32) sets) &&
    (List.range 32).all (fun i => defaultsOk (slice b (8 + 32 * n + 16 * i) 16))

/-! ### The parse graph (R161) -/

/-- The ranges of Table 6-1, and the fields that must lie within the first LEN_MIN bytes. -/
def nodeOk (r : Bytes) (ids : List Nat) : Bool :=
  let n := nodeOf r
  let bits := 8 * n.lenMin
  decide (leAt r 0 1 < 64) && (n.layer == 0 || n.layer == 2 || n.layer == 3 || n.layer == 4) && decide (leAt r 3 1 < 4) &&
    decide (n.lenMode ≤ 1) && decide (n.lenShift ≤ 4) && decide (n.lenAdd ≤ 512) && decide (n.lenMin ≤ 512) &&
    (if n.lenMode = 0 then n.lenMin == n.lenAdd && n.lenWidth == 0
     else decide (1 ≤ n.lenMin) && decide (1 ≤ n.lenWidth) && decide (n.lenWidth ≤ 16) &&
       decide (n.lenOffset + n.lenWidth ≤ bits)) &&
    decide (n.totalMode ≤ 2) && (n.totalMode == 0 || decide (n.totalOffset + 16 ≤ bits)) &&
    decide (n.nextWidth ≤ 16) && (n.zero || decide (n.nextOffset + n.nextWidth ≤ bits)) && decide (leAt r 0x13 1 ≤ 8) &&
    n.trans.all (fun t => decide (t.2.1 < 2 ^ n.nextWidth) && Nat.land t.1 t.2.1 == t.1 && decide (t.2.2 ∈ ids)) &&
    decide (n.fragMode ≤ 2) && (n.fragMode != 1 || decide (20 ≤ n.lenMin)) && (n.fragMode != 2 || decide (8 ≤ n.lenMin)) &&
    zeros r 0x3D 0x40

/-- Zero-length nodes left after removing, `k` times, those without a transition to another that is left. -/
def zeroCycle (nodes : List (Nat × PNode)) : Nat → List Nat → List Nat
  | 0, l => l
  | k + 1, l => zeroCycle nodes k (l.filter (fun i =>
      nodes.any (fun x => x.1 == i && x.2.trans.any (fun t => decide (t.2.2 ∈ l)))))

def parseOk (b : Bytes) : Bool :=
  let n := leAt b 0 2
  let recs := (List.range (min n 64)).map (fun i => slice b (8 + 64 * i) 64)
  let ids := recs.map (fun r => leAt r 0 1)
  let nodes := recs.map (fun r => (leAt r 0 1, nodeOf r))
  decide (1 ≤ n) && decide (n ≤ 64) && leAt b 2 2 == 64 && distinct ids && decide (0 ∈ ids) &&
    recs.all (fun r => nodeOk r ids) &&
    (zeroCycle nodes 64 ((nodes.filter (fun x => x.2.zero)).map (·.1))).isEmpty

/-! ### Key profiles (R176, R205) -/

/-- A selector within Table 7-3; `meta` allows kind 3. -/
def selectorOk (s : Bytes) : Bool :=
  let v := leAt s 1 1
  let o := leAt s 2 1
  match leAt s 0 1 with
  | 0 => decide (v ≤ 15) && o == 0
  | 1 => decide (o ≤ 15)
  | 2 => decide (o ≤ 15)
  | 3 => decide (v ≤ 5) && o == 0
  | 0xFF => v == 0 && o == 0
  | _ => false

/-- Widths of the metadata items (Table 7-4). -/
def metaWidth (v : Nat) : Nat := [8, 1, 3, 2, 5, 16].getD v 0

/-- Extractor `e` of a profile. -/
def extractor (r : Bytes) (e : Nat) : Bytes := slice r (0x10 + 8 * e) 8

def extractorOk (x : Bytes) : Bool :=
  let w := leAt x 3 1
  decide (w ≤ 64) && selectorOk x &&
    (leAt x 0 1 != 3 || w == 0 || decide (leAt x 4 2 + w ≤ metaWidth (leAt x 1 1)))

/-- The extractors a selection names end at or below a bit and do not overlap. -/
def placedOk (r : Bytes) (sel top : Nat) : Bool :=
  let used := (List.range 12).filter (fun e => bitOf sel e && leAt (extractor r e) 3 1 != 0)
  let at_ (e : Nat) : Nat := leAt (extractor r e) 6 2
  let end_ (e : Nat) : Nat := at_ e + leAt (extractor r e) 3 1
  used.all (fun e => decide (end_ e ≤ top + 1)) &&
    used.all (fun e => used.all (fun f => decide (f ≤ e) || decide (end_ e ≤ at_ f) || decide (end_ f ≤ at_ e)))

def keyOk (r : Bytes) (parts : List TcamPart) (regions : Nat) : Bool :=
  let flags := leAt r 1 1
  let bm := leAt r 0x70 8
  let tcam := match parts.find? (fun p => p.id == leAt r 0xE 1) with
    | none => false
    | some p =>
      let own := (2 ^ p.banks - 1) * 2 ^ p.first
      Nat.land p.mask regions == regions && placedOk r (leAt r 0x7A 2) (if p.wide then 621 else 301) &&
        Nat.land bm own != 0 && Nat.land bm own == bm &&
        (!p.wide || (List.range 32).all (fun i => bitOf bm (2 * i) == bitOf bm (2 * i + 1)))
  decide (leAt r 0 1 < 64) && decide (flags < 32) && leAt r 2 2 == 0 && selectorOk (slice r 4 3) && selectorOk (slice r 7 3) &&
    selectorOk (slice r 0xA 3) && decide (leAt r 0xD 1 ≤ 1) && leAt r 0xF 1 == 0 &&
    (List.range 12).all (fun e => extractorOk (extractor r e)) && decide (leAt r 0x78 2 < 4096) &&
    decide (leAt r 0x7A 2 < 4096) && leAt r 0x7C 4 == 0 && placedOk r (leAt r 0x78 2) 301 && (!bitOf flags 3 || tcam)

def keysOk (b : Bytes) (parts : List TcamPart) (regions : Nat) : Bool :=
  let n := leAt b 0 2
  let recs := (List.range (min n 64)).map (fun i => slice b (8 + 128 * i) 128)
  let ids := recs.map (fun r => leAt r 0 1)
  decide (1 ≤ n) && decide (n ≤ 64) && leAt b 2 2 == 128 && distinct ids && decide (0 ∈ ids) &&
    recs.all (fun r => keyOk r parts regions)

/-! ### The automata (R217, R218) -/

/-- Words of the state image. -/
def autoWords (b : Bytes) : Nat := (b.length - autoBase b) / 4

/-- The set of a pattern's record. -/
def patternSet (b : Bytes) (pat : Nat) : Option Nat :=
  (List.range (leAt b 0 2)).findSome? (fun i =>
    if leAt b (8 + 16 * i) 2 = pat then some (leAt b (10 + 16 * i) 1) else none)

/-- Whether the state at word `s` of set `k` is sound. -/
def stateOk (b : Bytes) (k classes s : Nat) : Bool :=
  let h := autoWord b s
  decide (s + classes < autoWords b) && (!bitOf h 31 || patternSet b (h % 4096) == some k) &&
    decide (bitsOf h 12 19 = 0) && (List.range classes).all (fun c => decide (autoWord b (s + 1 + c) < autoWords b))

/-- The walk over every state reachable from `todo`; each step takes one state. -/
def statesOk (b : Bytes) (k classes : Nat) : Nat → List Nat → List Nat → Bool
  | 0, _, _ => true
  | _, [], _ => true
  | fuel + 1, s :: rest, seen =>
    if s ∈ seen then statesOk b k classes fuel rest seen
    else
      stateOk b k classes s && statesOk b k classes fuel
        ((List.range classes).map (fun c => autoWord b (s + 1 + c)) ++ rest) (s :: seen)

def autoSetOk (b : Bytes) (k : Nat) : Bool :=
  let o := autoBase b + 0x10 + 16 * k
  let classes := leAt b (o + 8) 2
  let map_ := leAt b (o + 4) 4
  decide (1 ≤ classes) && decide (classes ≤ 256) && map_ % 4 == 0 && decide (leAt b (o + 0xC) 1 ≤ 1) &&
    decide (leAt b (o + 0xD) 1 ≤ 2) && decide (map_ + 256 ≤ 4 * autoWords b) &&
    (slice b (autoBase b + map_) 256).all (fun x => decide (x.toNat < classes)) &&
    statesOk b k classes ((autoWords b + 1) * (classes + 1)) [leAt b o 4] []

def autoSets (b : Bytes) : Nat := if b.isEmpty then 0 else leAt b (autoBase b + 6) 2

def autoOk (b : Bytes) : Bool :=
  let n := leAt b 0 2
  let base := autoBase b
  let sets := autoSets b
  decide (n ≤ 4096) && leAt b 2 2 == 16 && distinct ((List.range n).map (fun i => leAt b (8 + 16 * i) 2)) &&
    (List.range n).all (fun i => decide (leAt b (8 + 16 * i) 2 < 4096) && decide (leAt b (10 + 16 * i) 1 < sets) &&
      leAt b (11 + 16 * i) 1 == 0 && zeros b (14 + 16 * i) (24 + 16 * i)) &&
    leAt b base 4 == 0x31464144 && leAt b (base + 4) 2 == 1 && decide (1 ≤ sets) && decide (sets ≤ 16) &&
    b.length - base == 4 * leAt b (base + 8) 4 && decide (b.length - base ≤ 8388608) && leAt b (base + 12) 4 == 0 &&
    zeros b (base + 0x10 + 16 * sets) (base + 0x110) && (List.range sets).all (fun k => autoSetOk b k)

/-! ### The semantic step -/

/-- The checks of step 8 but the buffer floor, for the sections an image holds, `m` being the whole configuration with
them; `fw` is the running firmware's version. -/
def semanticChecks (img : Bytes) (m : Map Bytes) (fw : Nat) : Refused :=
  let idx := (List.range (imgCount img)).map (fun i => (i, secOf img i))
  let each (ty : Nat) (f : Sec → Bytes → Bool) : List (Bool × Nat × Nat) :=
    (idx.filter (fun x => x.2.type == ty)).map (fun x => (f x.2 (x.2.body img), 13, x.1))
  firstBad (each 2 (fun _ b => carveOk b) ++ each 5 (fun _ b => tcamOk b) ++ each 1 (fun _ b => portsOk b) ++
    each 8 (fun _ b => classesOk b) ++ each 11 (fun _ b => timeOk b) ++ each 9 (fun _ b => fabricOk b) ++
    each 10 (fun _ b => pairOk m b) ++ each 13 (fun _ b => calOk b) ++ each 6 (fun _ b => autoOk b) ++
    each 7 (fun _ b => actionsOk b (autoSets (secGet m 6 4))) ++
    [(!imgAmends img || leAt img 0x38 4 == 0, 13, 0), (imgAmends img || zeros img 0x20 0x30, 13, 0)] ++
    each 3 (fun _ b => parseOk b) ++ each 4 (fun s b => keysOk b (partsOf (secGet m 5 4)) s.mask) ++
    [(leAt img 0x1C 4 == 0 || decide (leAt img 0x1C 4 ≤ fw), 13, 0)])

/-! ### Step 7: the kind of image against the command -/

/-- What a command takes: a full image, a reload of the regions of a mask, an amendment. -/
inductive LoadKind
  | full | reload (mask : Nat) | amend
  deriving DecidableEq, Repr

/-- The sections Table 2-3 requires of a full image. -/
def requiredOk (m : Map Bytes) : Bool :=
  [1, 3, 4, 7].all (fun ty => (List.range 4).all (fun n => secGet m ty n != [])) &&
    [2, 5, 8, 12].all (fun ty => secGet m ty 4 != [])

/-- The partitions of two TCAM sections differ only in those that lie inside the reload mask, with banks no other
partition has (R67). -/
def tcamScopeOk (new old : Bytes) (mask : Nat) : Bool :=
  let a := partsOf new
  let b := partsOf old
  let within (l other : List TcamPart) : Bool := l.all (fun p => decide (p ∈ other) ||
    (Nat.land p.mask mask == p.mask && other.all (fun q => q.id == p.id || decide (p.first + p.banks ≤ q.first) ||
      decide (q.first + q.banks ≤ p.first))))
  within a b && within b a

/-- The scope check of a region reload: the first section out of scope (R67). -/
def reloadScope (img : Bytes) (new run : Map Bytes) (mask : Nat) : Refused :=
  let all_ := mask == 0xF
  let region := [1, 3, 4].flatMap (fun ty => (List.range 4).map (fun n =>
    (bitOf mask n || secGet new ty n == secGet run ty n, 14, secIndex img ty n)))
  let acts := (List.range 4).map (fun n =>
    let k := 8 + 32 * leAt (secGet run 7 n) 0 2
    (bitOf mask n || (secGet new 7 n).take k == (secGet run 7 n).take k, 14, secIndex img 7 n))
  firstBad (region ++ acts ++ [
    (all_ || secGet new 2 4 == secGet run 2 4, 14, secIndex img 2 4),
    (all_ || tcamScopeOk (secGet new 5 4) (secGet run 5 4) mask, 14, secIndex img 5 4),
    (all_ || secGet new 6 4 == secGet run 6 4, 14, secIndex img 6 4),
    (secGet new 9 4 == secGet run 9 4, 14, secIndex img 9 4),
    (secGet new 10 4 == secGet run 10 4, 14, secIndex img 10 4)])

/-- The scope of an amendment (R69): `base` is the first 16 bytes of IMG_RUN_DIGEST. -/
def amendScope (img : Bytes) (new run : Map Bytes) (base : Bytes) : Refused :=
  let idx := (List.range (imgCount img)).map (fun i => (i, secOf img i))
  let kinds := idx.map (fun x =>
    (x.2.type == 7 || (secType x.2.type).any (fun k => k.1 == .live || k.1 == .info), 14, x.1))
  let acts := (List.range 4).map (fun n =>
    let k := 8 + 32 * leAt (secGet run 7 n) 0 2
    (secGet new 7 n == [] || (secGet new 7 n).take k == (secGet run 7 n).take k, 14, secIndex img 7 n))
  firstBad ([(imgAmends img, 14, 0)] ++ kinds ++ [(slice img 0x20 16 == base, 15, 0)] ++ acts)

end Sys2Proof.Machine
end

