-- ==== Sys2Proof/Machine/ImageOps.lean ====
section
/-! DEFINITION. The loader (spec/02): verification in the order of R57, the commit of a full image, slots, the selection
of a slot at start-up, and what a loader command does to IMG_STATUS. -/

namespace Sys2Proof.Machine

/-! ### Verification (R57) -/

/-- The device with the sections of a configuration, and with the ports that they use. -/
def Dev.withSections (d : Dev) (m : Map Bytes) : Dev := { d with img := { d.img with sections := m } }

/-- MODE of a port in a configuration, 0 where its group's mode does not use it (R99). -/
def secMode (m : Map Bytes) (p : Nat) : Nat :=
  let mode := leAt (secGet m 1 (p / 32)) (16 * (p / 4 % 8)) 1
  if modeUses mode (p % 4) then mode else 0

/-- MAC_PORT_INFO of a port follows the PORTS record in force (R99, Table 4-6); `fec` what its mode requires. -/
def Dev.portInfo (d : Dev) (p : Nat) : Dev :=
  let mode := secMode d.img.sections p
  let r := d.section 1 (p / 32)
  let o := 16 * (p / 4 % 8)
  let lanes := if mode = 0 then 0 else if mode = 1 then 4 else if mode = 2 then 2 else 1
  let fec := if mode = 0 then 0 else if mode ≤ 4 then 3
    else match leAt r (o + 1) 1 with
      | 1 => 0 | 2 => 1 | 3 => 2
      | _ => if mode = 5 then 2 else 0
  let role := if mode = 0 then 0 else bitsOf (leAt r (o + 5) 1) (2 * (p % 4)) 2
  let d1 := (((d.set1 .MAC_PORT_INFO_MODE p mode).set1 .MAC_PORT_INFO_LANES p lanes).set1 .MAC_PORT_INFO_FEC_ACTIVE p
    fec).set1 .MAC_PORT_INFO_ROLE p role
  if d.linkUp p then d1 else if mode = 0 then d1.set1 .MAC_STATUS_AN_DONE p 0 else d1.dropAn p

/-- BUF_SHARED_SIZE stays at or above its floor under a configuration, with the QUE values in force (R260). -/
def Dev.floorOk (d : Dev) (m : Map Bytes) : Bool :=
  decide (65536 ≤ ((List.range 128).foldl Dev.portInfo (d.withSections m)).sharedSize)

/-- The sections an image leads to: those it holds for a full image, and over the running ones for an amendment. -/
def Dev.configOf (d : Dev) (img : Bytes) (kind : LoadKind) : Map Bytes :=
  match kind with
  | .amend => (imgSections img).foldl (fun m x => Map.insert m x.1 x.2) d.img.sections
  | _ => imgSections img

/-- The fused owner-key hash. -/
def Dev.ownerHash (d : Dev) : Option Bytes := d.img.ownerKey.map (leBytes 48)

/-- Step 7: the kind of image against the command. -/
def Dev.kindChecks (d : Dev) (img : Bytes) (kind : LoadKind) : Refused :=
  let new := imgSections img
  match kind with
  | .amend => amendScope img new d.img.sections (slice (imgDigest d.img.image) 0 16)
  | .full => firstBad [(!imgAmends img, 14, 0), (requiredOk new, 12, 0)]
  | .reload mask =>
    (firstBad [(!imgAmends img, 14, 0), (requiredOk new, 12, 0)]).or (reloadScope img new d.img.sections mask)

/-- The loader's checks of an image of `len` bytes, in order (R57): the first failure, as REASON and section. -/
def Dev.verify (d : Dev) (img : Bytes) (len : Nat) (kind : LoadKind) : Refused :=
  let m := d.configOf img kind
  (headerChecks img len).or ((tableChecks img).or ((signChecks img d.ownerHash).or ((d.kindChecks img kind).or
    ((semanticChecks img m (d.f0 .GLB_FW_VERSION)).or
      (firstBad [(d.floorOk m, 13, if secGet (imgSections img) 8 4 = [] then 0 else secIndex img 8 4)])))))

/-- An image is loaded: IMAGE_UNSIGNED for an unsigned one while no owner key is fused (R59). -/
def Dev.noteLoad (d : Dev) (img : Bytes) : Dev :=
  if d.img.ownerKey.isNone ∧ leAt img (imgSig img + 4) 2 = 0 then d.record .IMAGE_UNSIGNED 0 0 (payloadOf [])
  else d

/-- IMAGE_REFUSED: the reason, the section and the source (0 slot, 1 SPI, 2 host). -/
def Dev.noteRefused (d : Dev) (r : Nat × Nat) (src : Nat) : Dev :=
  d.record .IMAGE_REFUSED 0 0 (payloadOf [(1, r.1), (1, r.2), (1, src)])

/-! ### What a commit sets (R66, R99, R114, R415) -/

/-- MAC_MAX_FRAME and PRS_PORT_CFG.DEFAULT_ACTION from the PORTS record. -/
def Dev.portLimits (d : Dev) (p : Nat) : Dev :=
  let r := d.section 1 (p / 32)
  let o := 16 * (p / 4 % 8)
  let mf := leAt r (o + 8 + 2 * (p % 4)) 2
  (d.set1 .MAC_MAX_FRAME p (if mf = 0 then 1522 else mf)).setFld .PRS_PORT_CFG_DEFAULT_ACTION (p / 32) (p % 32)
    (bitsOf (leAt r (o + 6) 1) (2 * (p % 4)) 2)

/-- The other values that a commit sets on a port: PORT_EN with its transmitter out of electrical idle, the pause mode
(R114), MAC_SA (R534), and the EEE capability of its mode. -/
def Dev.portStart (d : Dev) (p : Nat) : Dev :=
  if !d.portUsed p then d
  else
    let lossless := (List.range 8).any d.clsLossless
    let sa := Config.baseMac.toNat + p
    let m := d.macSt p
    let d1 := d.setMac p { m with drive := if m.drive = .lossOfSignal then m.drive else .running }
    let d2 := (((d1.set1 .MAC_CTRL_PORT_EN p 1).set1 .MAC_CTRL_PAUSE_MODE p (if lossless then 2 else 0)).set1
      .MAC_CTRL_RX_PAUSE_EN p 1).set1 .MAC_CTRL_TX_PAUSE_EN p 1
    ((d2.set1 .MAC_SA_LO p (sa % 2 ^ 32)).set1 .MAC_SA_HI p (sa / 2 ^ 32)).set1 .MAC_EEE_STATUS_CAPABLE p
      (b2n (decide (3 ≤ d.portMode p)))

/-- TIM_GM_POLICY and TIM_JUMP_LIMIT take the values of a TIME section (R346). -/
def Dev.takeTime (d : Dev) : Dev :=
  let b := d.section 11 4
  if b.isEmpty then d
  else
    let lim := leAt b 4 4
    ((d.set0 .TIM_GM_POLICY_REFUSE_JUMP (leAt b 2 1 % 2)).set0 .TIM_GM_POLICY_FREE_RUN (leAt b 2 1 / 2 % 2)).set0
      .TIM_JUMP_LIMIT (if lim = 0 then 1000 else lim)

/-- A user delta takes its place in the CAL register at an offset; a clamping of its effective value is reported (R415). -/
def Dev.takeCal (d : Dev) (off : Nat) (delta : Int) : Dev :=
  let w16 := unsigned 16 delta
  let clamp (d : Dev) : Dev := if calClamped off delta then d.noteClamp off else d
  if off < 0x400 then
    let s := (off - 0x100) / 8
    clamp (if off / 4 % 2 = 0 then d.set1 .CAL_TEMP_OFS s (unsigned 12 delta) else d.set1 .CAL_TEMP_GAIN s w16)
  else if off < 0x500 then clamp (d.set1 .CAL_VMON_GAIN ((off - 0x400) / 4) w16)
  else if off < 0x800 then clamp (d.set1 .CAL_TBUS_DELAY ((off - 0x500) / 4) w16)
  else if off < 0x1000 then
    let l := (off - 0x800) / 4
    let v := unsigned 32 delta
    ((((d.set1 .CAL_TX_DELTA_PRE3 l (bitsOf v 24 6)).set1 .CAL_TX_DELTA_PRE2 l (bitsOf v 18 6)).set1 .CAL_TX_DELTA_PRE1 l
      (bitsOf v 12 6)).set1 .CAL_TX_DELTA_MAIN l (bitsOf v 6 6)).set1 .CAL_TX_DELTA_POST1 l (bitsOf v 0 6)
  else if off < 0x3000 then
    let p := (off - 0x1000) / 0x40
    let m := (off - 0x1000) % 0x40 / 8
    clamp (if off / 4 % 2 = 0 then d.setFld .CAL_TS_RX p m w16 else d.setFld .CAL_TS_TX p m w16)
  else clamp (d.set1 .CAL_HOLD_TRIM ((off - 0x3000) / 4) (unsigned 8 delta))

/-- The records of a CAL body. -/
def calRecords (b : Bytes) : List (Nat × Int) :=
  if b.isEmpty then [] else (List.range (leAt b 0 2)).map (fun i => (leAt b (4 + 8 * i) 4, signed 32 (leAt b (8 + 8 * i) 4)))

def Dev.takeCals (d : Dev) (l : List (Nat × Int)) : Dev := l.foldl (fun d x => d.takeCal x.1 x.2) d

/-- Fabric and pair start anew with the sections of an image (R349, R360, R372). -/
def Dev.startMembers (d : Dev) : Dev :=
  let fab := d.section 9 4
  let d1 := ((d.set0 .FAB_STATUS_ADDRESS (if fab.isEmpty then 0 else leAt fab 0 1)).set0 .FAB_STATUS_MEMBER
    (b2n (!fab.isEmpty))).set0 .FAB_STATUS_ELECTED 0
  let paired := !(d.section 10 4).isEmpty
  let d2 : Dev := { d1 with fab := { d1.fab with originateDue := true }, pair := { d1.pair with startAt := d.now } }
  d2.set0 .PAIR_STATUS_ROLE (if paired then 2 else 0)

/-- The sections of an image come into force in every region. -/
def Dev.install (d : Dev) (img : Bytes) : Dev :=
  (List.range 128).foldl Dev.portInfo
    { d with img := { d.img with sections := imgSections img, fmt := imgFmt img, image := img, reload := none, amend := none
                                 next := none } }

/-- IMG_RUN_SERIAL, IMG_RUN_DIGEST and IMG_SLOT_STATE name the full image committed (Table 2-8); the running
configuration no longer differs from it (R71). -/
def Dev.nameImage (d : Dev) (src slot : Nat) (img : Bytes) : Dev :=
  let d1 := (((d.set0 .IMG_RUN_SERIAL (imgSerial img)).set0 .IMG_AMEND_COUNT 0).set0 .IMG_STATUS_DIVERGED 0).set0
    .CLK_BOOT_STATUS_IMG_SOURCE src
  let d2 := (List.range 12).foldl (fun d i => d.set1 .IMG_RUN_DIGEST i (leAt (imgDigest img) (4 * i) 4)) d1
  (d2.set0 .IMG_SLOT_STATE_FROM_SLOT (b2n (decide (src = 0)))).set0 .IMG_SLOT_STATE_STARTED (if src = 0 then slot else 0)

/-- The image continues into region bring-up: lanes leave electrical idle (Table 3-6), the safe-state line is released
(R404). -/
def Dev.startBringup (d : Dev) : Dev :=
  ({ d with
      boot := { d.boot with committed := true, waitImg := false, checks := 0 }
      pins := { d.pins with safeLineA := false, safeLineB := false } }).set0 .CLK_BOOT_STATUS_PHASE 6

/-- The subsystem identifiers take the board's values where the header gives them, else the defaults (R45, R422). -/
def Dev.takeBoard (d : Dev) (img : Bytes) : Dev :=
  let v := leAt img 0x38 2
  let s := leAt img 0x3A 2
  { d with host := { d.host with svid := if v = 0 then 0x1E9C else v, ssid := if s = 0 then 0x0012 else s } }

/-- An image commits as at start-up (R66): its sections, what they set, its names and IMAGE_COMMITTED; a slot in TRYING is
on trial from now (R65).  `keepCal` keeps the live calibration (R404). -/
def Dev.commit (d : Dev) (src slot : Nat) (img : Bytes) (keepCal : Bool) : Dev :=
  let d1 := (List.range 128).foldl (fun d p => (d.portLimits p).portStart p) (d.install img)
  let d2 := d1.takeTime
  let d3 := if (d2.section 11 4).isEmpty then d2 else d2.set0 .TIM_CTRL_SERVO_EN 1
  let d4 := if keepCal then d3 else d3.takeCals (calRecords (d3.section 13 4))
  let d5 := (d4.startMembers.nameImage src slot img).startBringup.takeBoard img
  let trying : Bool := decide (src = 0) && (Map.get none d5.img.slots slot).any (fun s => s.state == 3)
  let trial := if trying then some (slot, d5.now + d5.f0 .IMG_TRIAL_TIME * tSec) else none
  (({ d5 with img := { d5.img with trial := trial } }).set0 .MON_AVS_STATUS_ACTIVE 1).record .IMAGE_COMMITTED 0 0
    (payloadOf [(4, imgSerial img), (1, src), (1, slot)])

/-- The image that was running comes into force again after a WINTER_EXIT (R75): amendments and reloads lapse; ports keep
the settings that no section gives. -/
def Dev.recommit (d : Dev) (img : Bytes) : Dev :=
  let src := d.f0 .CLK_BOOT_STATUS_IMG_SOURCE
  let changed := (List.range 128).filter (fun p => secMode d.img.sections p ≠ secMode (imgSections img) p)
  let d1 := (List.range 128).foldl Dev.portLimits (d.install img)
  let d2 := changed.foldl Dev.portStart d1
  (d2.takeTime.nameImage src (d.f0 .IMG_SLOT_STATE_STARTED) img).startBringup

/-! ### Sources of a start-up image (R64, R81) -/

/-- An image slot of the hold store, read and verified: the REASON and section that a lost stripe makes fail come with
`lost` (R315); a slot whose stripe was lost before fails too, with SECTION_CRC where the check of its zeros names none
(log 62). -/
def Dev.verifySlot (d : Dev) (s : Nat) (kind : LoadKind) (lost : List (Nat × Nat × Nat)) : Refused :=
  match lost.find? (fun x => x.1 == s) with
  | some x => some x.2
  | none => match Map.get none d.img.slots s with
    | some sl => if sl.lost then some ((d.verify sl.image sl.image.length kind).getD (6, 0)) else d.verify sl.image sl.image.length kind
    | none => some (1, 0)

/-- A slot found TRYING at a start is BAD: its trial ended in a restart (R64 step 1). -/
def Dev.endTrying (d : Dev) : Dev :=
  (List.range 4).foldl (fun d s => if (Map.get none d.img.slots s).any (fun x => x.state == 3) then d.slotState s 5 else d) d

/-- A slot that fails at start-up is CORRUPT, and another source is used (R64 step 4). -/
def Dev.slotFailed (d : Dev) (s : Nat) (r : Nat × Nat) : Dev :=
  ((d.slotState s 6).noteRefused r 0).record .IMAGE_FALLBACK 0 0 (payloadOf [])

/-- Slots in a state, in descending order of SERIAL, the lower slot first among equals. -/
def Dev.slotsBySerial (d : Dev) (st : Nat) : List Nat :=
  let key (s : Nat) : Nat := ((Map.get none d.img.slots s).map (fun x => imgSerial x.image)).getD 0
  ((List.range 4).filter (fun s => (Map.get none d.img.slots s).any (fun x => x.state == st))).insertionSort
    (fun a b => key b ≤ key a)

/-- The slots of a list are tried until one verifies (R64 step 3). -/
def Dev.trySlots (lost : List (Nat × Nat × Nat)) : List Nat → Dev → Dev × Option (Nat × Bytes)
  | [], d => (d, none)
  | s :: l, d => match d.verifySlot s .full lost with
    | some r => Dev.trySlots lost l (d.slotFailed s r)
    | none =>
      let img := ((Map.get none d.img.slots s).map (·.image)).getD []
      (d.noteLoad img, some (s, img))

/-- SLOT_SELECT at a start (R64): a TRIAL slot becomes TRYING and is loaded, else the GOOD slots. -/
def Dev.slotSelect (d : Dev) (lost : List (Nat × Nat × Nat)) : Dev × Option (Nat × Bytes) :=
  if d.hld.outOfService then (d, none)
  else
    let d1 := d.endTrying
    let trial := d1.slotsBySerial 2
    let r := Dev.trySlots lost trial (trial.foldl (fun d s => d.slotState s 3) d1)
    match r.2 with
    | some x => (r.1, some x)
    | none => Dev.trySlots lost (r.1.slotsBySerial 4) r.1

/-- A directory copy is valid (R81). -/
def dirOk (b : Bytes) : Bool :=
  let f := leAt b 4 4
  let fl := leAt b 8 4
  let i := leAt b 0xC 4
  let il := leAt b 0x10 4
  let apart (a la z lz : Nat) : Bool := decide (a + la ≤ z) || decide (z + lz ≤ a)
  let clear (a la : Nat) : Bool := apart a la 0 0x1000 && apart a la 0x1000 0x1000
  crc32c (b.take 0x14) == leAt b 0x14 4 && leAt b 0 4 == 0x31445053 && f % 4096 == 0 && i % 4096 == 0 &&
    decide (1 ≤ fl) && decide (fl ≤ 67108864) && decide (1 ≤ il) && decide (il ≤ 268369920) && apart f fl i il &&
    clear f fl && clear i il

/-- IMG_LENGTH of the first valid copy. -/
def spiLength (s : Spi) : Option Nat :=
  if dirOk s.dirA then some (leAt s.dirA 0x10 4) else if dirOk s.dirB then some (leAt s.dirB 0x10 4) else none

/-- The image of SPI is read and verified as at start-up. -/
def Dev.spiImage (d : Dev) (s : Spi) : Dev × Option Bytes :=
  match spiLength s with
  | none => (d, none)
  | some len => match d.verify (s.image.take len) len .full with
    | some r => (d.noteRefused r 1, none)
    | none => (d.noteLoad (s.image.take len), some (s.image.take len))

end Sys2Proof.Machine
end

