-- ==== Sys2Proof/Machine/Lanes.lean ====
section
/-! DEFINITION. Lanes and calibration under live traffic (spec/05): the turns of the shadow slices, swaps at codeword
boundaries, and the sparing of slices. -/

namespace Sys2Proof.Machine

/-! ### Eligibility and scheduling (R129, R130) -/

/-- LANE_STATUS.ELIGIBLE (R129). -/
def Dev.laneEligible (d : Dev) (l : Nat) : Bool :=
  let p := d.lanePort l
  d.portUsed p && d.linkUp p && d.b1 .LANE_CTRL_ROTATE_EN l && d.b1 .SHADOW_CTRL_ROTATE_EN (l / 4) &&
  !d.b1 .LANE_STATUS_RX_LPI l && !d.winter

/-- How far a cluster's temperature is from a lane's last calibration, in 1/16 °C. -/
def Dev.tempOff (d : Dev) (l : Nat) : Nat := (d.clusterTemp (l / 4) - signed 16 (d.f1 .LANE_CAL_TEMP l)).natAbs

/-- An eligible lane that SHADOW_TEMP_DELTA advances. -/
def Dev.laneAdvanced (d : Dev) (l : Nat) : Bool :=
  d.laneEligible l && decide (16 * d.f1 .SHADOW_TEMP_DELTA (l / 4) ≤ d.tempOff l)

/-- The advanced lane of a cluster with the largest difference, the lowest on a tie. -/
def Dev.advancedLane (d : Dev) (c : Nat) : Option Nat :=
  (List.range 4).foldl (fun (b : Option Nat) g =>
    if d.laneAdvanced (4 * c + g) then
      match b with
      | none => some g
      | some h => if d.tempOff (4 * c + h) < d.tempOff (4 * c + g) then some g else b
    else b) none

/-- The target of the next turn: an advanced lane, else the next eligible lane after the previous target (R130). -/
def Dev.nextTarget (d : Dev) (c : Nat) : Option (Nat × Bool) :=
  match d.advancedLane c with
  | some g => some (g, true)
  | none =>
    let first := match (d.turn c).prev with
      | some g => g + 1
      | none => 0
    (((List.range 4).map (fun i => (first + i) % 4)).find? (fun g => d.laneEligible (4 * c + g))).map (·, false)

/-- A turn begins on the next target: the tap attaches and the phase becomes ADAPT; the limits of this turn are those
in force now (R128, Table 5-5).  With no eligible lane the next start instant is SHADOW_INTERVAL later. -/
def Dev.startTurn (d : Dev) (c : Nat) : Dev :=
  let t := d.turn c
  match d.nextTarget c with
  | none => d.setTurn c { t with startAt := some d.now }
  | some (g, adv) =>
    let l := 4 * c + g
    let d1 := d.setTurn c { t with
      prev := some g, startAt := some d.now, phaseAt := d.now, deferred := 0, kind := 0
      log2 := d.f1 .LANE_VERIFY_SYMBOLS_LOG2 l, limit := d.f1 .LANE_VERIFY_LIMIT l
      adaptMax := d.f1 .SHADOW_ADAPT_MAX c }
    let d2 := ((d1.set1 .SHADOW_STATUS_TARGET c g).set1 .SHADOW_STATUS_PHASE c 1).set1 .SHADOW_STATUS_RETRY c 0
    ((d2.set1 .SHADOW_STATUS_ADVANCED c (b2n adv)).set1 .LANE_STATUS_TAPPED l 1).satInc .SHADOW_TURNS c 0 1

/-- SHADOW_TURN_START (R130): a start instant, or an advanced lane waiting at the end of a turn. -/
def execShadowTurnStart (c : Cluster) (s : State) : Host.Outcome State Fault Refusal :=
  s.run fun d =>
    let due := (d.turn c).startAt.all (fun t => decide (t + d.f1 .SHADOW_INTERVAL c * tMs ≤ d.now))
    if d.f1 .SHADOW_STATUS_PHASE c = 0 ∧ (due ∨ (d.advancedLane c).isSome) then d.startTurn c else d

/-- A write of SHADOW_CTRL: TURN_NOW starts a turn if the phase is IDLE, CLR_CNT clears the two counters, and a clear
ROTATE_EN stops the cluster once its turn has ended (Table 5-1, R130, R142). -/
def Dev.writeShadowCtrl (d : Dev) (c : Nat) (turnNow clr rotate : Bool) : Dev :=
  let d1 := d.set1 .SHADOW_CTRL_ROTATE_EN c (b2n rotate)
  let d2 := if clr then (d1.set1 .SHADOW_TURNS c 0).set1 .SHADOW_FAILS c 0 else d1
  let d3 := if !rotate ∧ d2.f1 .SHADOW_STATUS_PHASE c = 0 then d2.set1 .SHADOW_STATUS_PHASE c 4 else d2
  if turnNow ∧ d3.f1 .SHADOW_STATUS_PHASE c = 0 ∧ (d3.nextTarget c).isSome then d3.startTurn c else d3

/-- SHADOW_TURN_NOW (R130): a master writes TURN_NOW, leaving ROTATE_EN as it is. -/
def execShadowTurnNow (m : Master) (c : Cluster) (s : State) : Host.Outcome State Fault Refusal :=
  s.run fun d => d.onWrite m .SHADOW_CTRL c 0 fun d =>
    d.writeShadowCtrl c true false (d.b1 .SHADOW_CTRL_ROTATE_EN c)

/-! ### Adaptation and verification (R128 to R135) -/

/-- SHADOW_ADAPT_DONE (R128, R131): adaptation converges within its bound, and VERIFY begins. -/
def execShadowAdaptDone (c : Cluster) (s : State) : Host.Outcome State Fault Refusal :=
  s.run fun d =>
    let t := d.turn c
    if d.f1 .SHADOW_STATUS_PHASE c = 1 ∧ t.kind ≠ 3 ∧ d.now < t.phaseAt + t.adaptMax * tMs then
      (d.setTurn c { t with phaseAt := d.now }).set1 .SHADOW_STATUS_PHASE c 2
    else d

/-- SHADOW_ADAPT_TIMEOUT (R128): ADAPT reaches SHADOW_ADAPT_MAX, and the turn is abandoned. -/
def execShadowAdaptTimeout (c : Cluster) (s : State) : Host.Outcome State Fault Refusal :=
  s.run fun d =>
    let t := d.turn c
    if d.f1 .SHADOW_STATUS_PHASE c = 1 ∧ t.phaseAt + t.adaptMax * tMs ≤ d.now then d.abandonTurn c 3 else d

/-- Symbol rate of a mode in kilobaud (Table 5-3). -/
def symbolRate : Nat → Nat
  | 1 => 53125000 | 2 => 53125000 | 3 => 53125000 | 4 => 26562500 | 5 => 25781250 | 6 => 10312500 | _ => 1250000

/-- Ticks in which a lane of a mode carries 2^n symbols. -/
def verifyTicks (mode n : Nat) : Nat := 2 ^ n * 400000 / symbolRate mode

/-- The cluster's spare is consumed on group lane `g`: the retired slice and the cause stand in SHADOW_RETIRED, the event
is recorded, and the device moves to AUTUMN (R139 to R141). -/
def Dev.consumeSpare (d : Dev) (c g slice cause : Nat) (ev : EvCode) : Dev :=
  let d1 := ((d.set1 .SHADOW_RETIRED_SLICE c slice).set1 .SHADOW_RETIRED_LANE c g).set1 .SHADOW_RETIRED_CAUSE c cause
  let d2 := (d1.set1 .SHADOW_STATUS_SPARE_USED c 1).setBit .HLT_SUM_LANE 0 c true
  let d3 := d2.record ev 3 c (payloadOf [(1, c), (1, 4 * c + g), (1, slice), (1, cause)])
  (d3.raise (256 + c)).autumn .HLT_AUTUMN_CAUSE_SPARE ev

/-- An undecided turn (Table 5-2): the third in a row on a lane is recorded. -/
def Dev.undecided (d : Dev) (c m cm cs : Nat) : Dev :=
  let t := d.turn c
  let g := d.f1 .SHADOW_STATUS_TARGET c
  let l := 4 * c + g
  let n := Map.get 0 t.undecided g + 1
  let d1 := (d.setTurn c { t with undecided := Map.set 0 t.undecided g (n % 3) }).satInc .LANE_UNDECIDED l 0 1
  let d2 := if n = 3 then (d1.record .LANE_VERIFY_UNDECIDED 2 l
    (payloadOf [(1, l), (4, m), (4, cm), (4, cs)])).raise (128 + l) else d1
  d2.detach c

/-- The lane's run of undecided turns ends. -/
def Dev.decided (d : Dev) (c : Nat) : Dev :=
  let t := d.turn c
  d.setTurn c { t with undecided := Map.set 0 t.undecided (d.f1 .SHADOW_STATUS_TARGET c) 0 }

/-- Mismatches, and those charged to the serving slice and to the shadow: to both where both or neither are in the wrong
(R132). -/
def chargeOf (x : VerifySeen) : Nat × Nat × Nat :=
  (x.serving + x.shadow + x.both + x.unknown, x.serving + x.both + x.unknown, x.shadow + x.both + x.unknown)

/-- SHADOW_VERIFY_END (R132, R133): VERIFY ends.  `a` is the latency of the new slice against the serving one by the
alignment shift, `own` the adaptive part that the new slice reports of itself, in 1/64 ns (R135).  A turn that retries is
not decided yet, and an R139 swap consumes the spare only at its boundary (R138). -/
def execShadowVerifyEnd (c : Cluster) (seen : VerifySeen) (a own : Int) (s : State) : Host.Outcome State Fault Refusal :=
  s.run fun d =>
    let t := d.turn c
    let g := d.f1 .SHADOW_STATUS_TARGET c
    let l := 4 * c.val + g
    let k := chargeOf seen
    let m := k.1
    let cm := k.2.1
    let cs := k.2.2
    let b := d.factoryLatency (d.f1 .SHADOW_STATUS_SLICE c) l + own - d.laneLatency l
    if d.f1 .SHADOW_STATUS_PHASE c ≠ 2 ∨ d.now < t.phaseAt + verifyTicks (d.portMode (d.lanePort l)) t.log2 then d
    else
      let d1 := d.set1 .LANE_LAST_MISMATCH l (min m (2 ^ 32 - 1))
      let d2 := if 4 * cm ≤ cs then d1.satInc .SHADOW_FAILS c 0 1 else d1
      let swap (d : Dev) (kind : Nat) : Dev :=
        let t := d.turn c
        (d.setTurn c { t with phaseAt := d.now, kind := kind, latency := own, deferred := 0 }).set1
          .SHADOW_STATUS_PHASE c 3
      if 3200 < (a - b).natAbs * 1000 ∨ 256 < a.natAbs ∨ 256 < b.natAbs then d2.undecided c m cm cs
      else if m < t.limit then swap (d2.decided c) 0
      else if 4 * cs ≤ cm then
        swap (d2.decided c) 1
      else if 4 * cm ≤ cs then
        if !d2.b1 .SHADOW_STATUS_RETRY c then
          let t := d2.turn c
          ((d2.setTurn c { t with phaseAt := d.now }).set1 .SHADOW_STATUS_PHASE c 1).set1 .SHADOW_STATUS_RETRY c 1
        else
          (((d2.decided c).consumeSpare c g (d.f1 .SHADOW_STATUS_SLICE c) 2 .SHADOW_SLICE_RETIRED).detach c).set1
            .SHADOW_STATUS_SLICE c 7
      else d2.undecided c m cm cs

/-! ### Swaps (R134 to R136) -/

/-- LANE_SWAP (R134, R135): a swap boundary.  While a codeword at the boundary is uncorrectable, or the lane receives
low-power idle, the swap is deferred; else the shadow serves the lane from the boundary on and the time-stamp
correction changes with it.  The displaced slice takes the shadow role, or is retired (R139). -/
def execLaneSwap (c : Cluster) (uncorrectable : Bool) (s : State) : Host.Outcome State Fault Refusal :=
  s.run fun d =>
    let t := d.turn c
    let g := d.f1 .SHADOW_STATUS_TARGET c
    let l := 4 * c.val + g
    if d.f1 .SHADOW_STATUS_PHASE c ≠ 3 ∨ 1000 ≤ t.deferred then d
    else if uncorrectable ∨ d.b1 .LANE_STATUS_RX_LPI l then d.setTurn c { t with deferred := t.deferred + 1 }
    else
      let old := d.f1 .LANE_STATUS_SLICE l
      let d0 := (d.setTurn c { t with adapt := Map.set 0 t.adapt g t.latency }).set1 .LANE_STATUS_SLICE l (d.f1 .SHADOW_STATUS_SLICE c)
      let d1 := ((d0.satInc .LANE_SWAPS l 0 1).calibrated l).adaptRx l
      if t.kind = 1 then
        (((d1.consumeSpare c g old 1 .LANE_SLICE_RETIRED).detach c).set1 .LANE_STATUS_PERMANENT l 1).set1 .SHADOW_STATUS_SLICE c 7
      else (d1.detach c).set1 .SHADOW_STATUS_SLICE c old

/-- SWAP_DEFER_EXHAUSTED (R134): 1,000 boundaries have been deferred, and the turn is abandoned. -/
def execSwapDeferExhausted (c : Cluster) (s : State) : Host.Outcome State Fault Refusal :=
  s.run fun d =>
    if d.f1 .SHADOW_STATUS_PHASE c = 3 ∧ 1000 ≤ (d.turn c).deferred then d.abandonTurn c 4 else d

/-! ### Slice faults (R25, R141) -/

/-- A slice fault beyond the cluster's spare isolates the region (R25, R27, R141). -/
def Dev.exhaustCluster (d : Dev) (c l : Nat) : Dev :=
  let d1 := ((d.set1 .LANE_STATUS_ISOLATED l 1).setBit .HLT_SUM_UNIT_REGION_UNIT 0 (c / 8) true).record .LANE_CLUSTER_EXHAUSTED
    0 0 (payloadOf [])
  (d1.raise (256 + c)).isolateRegion (c / 8) EvCode.LANE_CLUSTER_EXHAUSTED.code

/-- One faulty slice of a cluster is isolated: the shadow is retired as R140 says, or, standing in for a slice already, is
beyond the spares (R25); a serving slice is replaced by the shadow while the spare is unused, its link down until the new
slice has lock; else the region is isolated.  A turn in progress on another lane then ends with neither LANE_ABANDONED nor
its event (DESIGN CHOICE, log 49: Table 5-5 has no row for it).  A slice whose replacement is under way stays isolated. -/
def Dev.isolateSlice (d : Dev) (c sl : Nat) : Dev :=
  let serves := (List.range 4).find? (fun g => d.f1 .LANE_STATUS_SLICE (4 * c + g) == sl)
  let replacing := decide (d.f1 .SHADOW_STATUS_PHASE c = 1 ∧ (d.turn c).kind = 3)
  if replacing ∧ d.f1 .SHADOW_RETIRED_SLICE c = sl then d
  else if d.f1 .SHADOW_STATUS_SLICE c = sl ∧ d.b1 .SHADOW_STATUS_SPARE_USED c then
    if replacing then d.exhaustCluster c (d.turnLane c) else d
  else if d.f1 .SHADOW_STATUS_SLICE c = sl then
    (((d.consumeSpare c (d.f1 .SHADOW_STATUS_TARGET c) sl 2 .SHADOW_SLICE_RETIRED).detach c).set1 .SHADOW_STATUS_SLICE c 7).setBit
      .HLT_SUM_UNIT_REGION_UNIT 0 (c / 8) true
  else match serves with
    | none => d
    | some g =>
      let l := 4 * c + g
      let down (d : Dev) : Dev := (d.set1 .LANE_STATUS_CDR_LOCK l 0).linkDown (d.lanePort l) .pcsLock d.flapHold
      if d.b1 .SHADOW_STATUS_SPARE_USED c then d.exhaustCluster c l
      else
        let d1 := ((down d).detach c).setBit .HLT_SUM_UNIT_REGION_UNIT 0 (c / 8) true
        let t := d1.turn c
        let d2 := d1.setTurn c { t with prev := some g, phaseAt := d.now, kind := 3, deferred := 0 }
        let d3 := ((d2.set1 .SHADOW_STATUS_TARGET c g).set1 .SHADOW_STATUS_PHASE c 1).set1 .LANE_STATUS_TAPPED l 1
        d3.consumeSpare c g sl 3 .SHADOW_SLICE_RETIRED

/-- SLICE_FAULT_ISOLATE (R141): the slices of a cluster found faulty in one scan, the lowest first (R25). -/
def execSliceFaultIsolate (c : Cluster) (faulty : List (Fin 5)) (s : State) : Host.Outcome State Fault Refusal :=
  s.run fun d => (List.range 5).foldl (fun d sl => if faulty.any (fun x => x.val == sl) then d.isolateSlice c sl else d) d

/-- SHADOW_TAKEOVER_LOCK (R141): the shadow that replaces an isolated slice has lock and serves the lane; `own` is the
adaptive part of its latency, in 1/64 ns (R135). -/
def execShadowTakeoverLock (c : Cluster) (own : Int) (s : State) : Host.Outcome State Fault Refusal :=
  s.run fun d =>
    let t := d.turn c
    let l := d.turnLane c
    if d.f1 .SHADOW_STATUS_PHASE c ≠ 1 ∨ t.kind ≠ 3 then d
    else
      let d1 := (d.set1 .LANE_STATUS_SLICE l (d.f1 .SHADOW_STATUS_SLICE c)).set1 .LANE_STATUS_CDR_LOCK l 1
      ((d1.setTurn c { t with kind := 0, adapt := Map.set 0 t.adapt (l % 4) own }).detach c).set1 .SHADOW_STATUS_SLICE c 7

/-! ### Receive low-power idle (R121, R129) -/

/-- RX_LPI_CHANGE (R121): the receive side of a lane enters or leaves the partner's low-power idle.  With EEE_EN = 0 it
is treated as idle.  A turn in ADAPT or VERIFY on the lane is abandoned; a swap defers (Table 5-5). -/
def execRxLpiChange (l : Lane) (on : Bool) (s : State) : Host.Outcome State Fault Refusal :=
  s.run fun d =>
    let p := d.lanePort l
    let lpi := on && d.b1 .MAC_CTRL_EEE_EN p && d.b1 .MAC_EEE_STATUS_NEGOTIATED p
    let d1 := d.set1 .LANE_STATUS_RX_LPI l (b2n lpi)
    let was := d.b1 .MAC_STATUS_RX_LPI p
    let now := (List.range 128).any (fun k => d1.lanePort k == p && d1.b1 .LANE_STATUS_RX_LPI k)
    let d2 := d1.set1 .MAC_STATUS_RX_LPI p (b2n now)
    let d3 := if d2.portUsed p ∧ ((now ∧ !was) ∨ (on ∧ !lpi)) then d2.macCount .MAC_RX_LPI p else d2
    let c := l.val / 4
    let ph := d3.f1 .SHADOW_STATUS_PHASE c
    if lpi ∧ d3.turnLane c = l ∧ (ph = 1 ∨ ph = 2) then d3.abandonTurn c 1 else d3

end Sys2Proof.Machine
end

