-- ==== Sys2Proof/Machine/MbxOps.lean ====
section
/-! DEFINITION. Mailbox operations that several commands share (spec/18): replies and their parts, domains going down,
credentials and challenges, lost messages. -/

namespace Sys2Proof.Machine

/-! ### The fields of a message (R469) -/

def Msg.word (x : Msg) (i : Nat) : Nat := x.words.getD i 0
def Msg.version (x : Msg) : Nat := x.word 0 / 2 ^ 24 % 256
def Msg.opcode (x : Msg) : Nat := x.word 0 / 2 ^ 12 % 4096
def Msg.seq (x : Msg) : Nat := x.word 0 % 4096
def Msg.len (x : Msg) : Nat := x.word 1 % 256
def Msg.status (x : Msg) : Nat := x.word 1 / 2 ^ 24 % 256
/-- Payload word `j`. -/
def Msg.arg (x : Msg) (j : Nat) : Nat := x.word (2 + j)

/-- The master that owns a pair (Table 18-1). -/
def pairMaster (m : Nat) : Nat := if m = 7 then 8 else 4

/-- The version a reply carries (R470). -/
def replyVersion (x : Msg) : Nat := if x.version = 0 then 1 else min x.version 3

/-- The reply to a request, in parts of at most 14 words (R469). -/
def Dev.reply (d : Dev) (m : Nat) (req : Msg) (status : Nat) (payload : List Nat) : Dev :=
  let v := replyVersion req
  let d1 := if m ≤ 5 then { d with mbx := { d.mbx with version := v } } else d
  let w0 := v * 2 ^ 24 + req.opcode * 2 ^ 12 + req.seq
  let parts := max 1 ((payload.length + 13) / 14)
  (List.range parts).foldl (fun d i =>
    let chunk := (payload.drop (14 * i)).take 14
    d.f2hPost m ⟨w0 :: word1 status (b2n req.stale) 0 i (parts - 1) chunk.length :: chunk, req.stale⟩) d1

/-- A violation of a mailbox partner (R483): reason 0 a write while FULL, 1 a bad opcode, length or version, 2 an
undefined doorbell bit, 3 a witness reply with an unknown sequence. -/
def Dev.mbxViolation (d : Dev) (m pair reason : Nat) : Dev :=
  d.recordLimited .MBX_VIOLATION (k2 m reason) tSec 9 m (payloadOf [(1, m), (1, pair), (1, reason)])

/-! ### Domains (R478, Table 18-6) -/

def Dev.fwUp (d : Dev) : Bool := d.b0 .MBX_STATUS_FW_UP

/-- The domain of a pair's sender is up. -/
def Dev.senderUp (d : Dev) (m : Nat) : Bool := decide (m = 7) || (!d.host.lost && !d.host.d3hot.contains 0)

/-- An F2H message delivered and not acknowledged is discarded with its domain. -/
def Dev.dropDelivered (d : Dev) (m : Nat) : Dev :=
  if !d.f2hFull m then d
  else
    let seq := d.fld .MBX_F2H_DATA m 0 % 4096
    let d1 := ((d.set1 .MBX_F2H_STATUS_FULL m 0).set1 .MBX_F2H_STATUS_STALE m 0).count .MBX_F2H_LOST 0
    (d1.noteLost m 1 seq).record .MBX_MESSAGE_LOST 13 m (payloadOf [(1, m), (1, 1), (2, 1), (2, seq), (2, seq)])

/-- The domain of the listed pairs' senders goes down: replies to what they sent will be STALE. -/
def Dev.senderDown (d : Dev) (pairs : List Nat) : Dev :=
  let mark (x : Msg) : Msg := { x with stale := true }
  let inBox := pairs.filter (fun m => d.b1 .MBX_H2F_STATUS_FULL m && !d.mbx.h2fStale.contains m)
  let reqs := d.mbx.requests.map (fun x => (x.1, if x.1 ∈ pairs then x.2.map mark else x.2))
  let fl := d.mbx.flushReply.map (fun x => if x.1 ∈ pairs then (x.1, x.2.1, mark x.2.2) else x)
  let er := d.mbx.eraseReply.map (fun x => if x.1 ∈ pairs then (x.1, mark x.2) else x)
  pairs.foldl Dev.dropDelivered { d with mbx := { d.mbx with
    requests := reqs, flushReply := fl, eraseReply := er, h2fStale := d.mbx.h2fStale ++ inBox } }

/-- The host domain goes down: pairs 0 to 6. -/
def Dev.hostDomainDown (d : Dev) : Dev := d.senderDown [0, 1, 2, 3, 4, 5, 6]

/-- A held H2F message is discarded with the firmware domain: LOST, LOST_SEQ and H2F_LOST. -/
def Dev.loseRequest (d : Dev) (m : Nat) (x : Msg) : Dev :=
  (((d.set1 .MBX_H2F_STATUS_LOST m 1).set1 .MBX_H2F_STATUS_LOST_SEQ m x.seq).count .MBX_H2F_LOST 0).noteLost m 0 x.seq

/-- The words that stand in H2F mailbox `m`. -/
def Dev.h2fWords (d : Dev) (m : Nat) : List Nat := (List.range 16).map (fun i => d.fld .MBX_H2F_DATA m i)

/-- The firmware domain goes down: what it holds of requests is lost (R478). -/
def Dev.firmwareDown (d : Dev) : Dev :=
  if !d.fwUp then d
  else
    let d1 := (d.set0 .MBX_STATUS_FW_UP 0)
    let held (m : Nat) : List Msg :=
      (d.mbx.flushReply.filter (fun x => x.1 = m)).map (fun x => x.2.2) ++
      ((d.mbx.eraseReply.filter (fun x => x.1 = m)).map (·.2)).toList ++ Map.get [] d.mbx.requests m ++
      (if d.b1 .MBX_H2F_STATUS_FULL m then [⟨d.h2fWords m, false⟩] else [])
    let d2 := (List.range 8).foldl (fun d m =>
      ((held m).foldl (fun d x => d.loseRequest m x) d).set1 .MBX_H2F_STATUS_FULL m 0) d1
    { d2 with mbx := { d2.mbx with requests := [], flushReply := [], eraseReply := none, h2fStale := [] } }

/-- The firmware domain comes up, and F2H doorbell 3 rings (Table 18-7). -/
def Dev.firmwareUp (d : Dev) : Dev := (d.set0 .MBX_STATUS_FW_UP 1).doorbell 3

/-- A notice of lost messages once pair 5 has room (R468). -/
def Dev.postLostNotice (d : Dev) : Dev :=
  match d.mbx.lostMsgs with
  | (k, some l) :: rest =>
    if d.fwUp ∧ (Map.get [] d.mbx.queue 5).length < 8 then
      let p := Nat.unpair k
      ({ d with mbx := { d.mbx with lostMsgs := rest } }).notice 0x051 [p.1 + 256 * p.2, l.count, l.first * 65536 + l.last]
    else d
  | _ => d

/-! ### Credentials (R72, R403, R472 to R474) -/

/-- The running CRED section: its identifier and its key. -/
def Dev.credential (d : Dev) : Option (Nat × Bytes) :=
  let s := d.section 14 4
  if s.isEmpty then none else some (leAt s 0 4, slice s 4 32)

/-- The challenge of a master and purpose while it is valid: 10 s from the delivery of its reply. -/
def Dev.challenge (d : Dev) (m purpose : Nat) : Option Bytes :=
  match Map.get none d.mbx.challenges (k2 m purpose) with
  | some c => if c.deliveredAt.all (fun t => decide (d.now < t + 10 * tSec)) then some c.bytes else none
  | none => none

def Dev.dropChallenge (d : Dev) (m purpose : Nat) : Dev :=
  { d with mbx := { d.mbx with challenges := Map.set none d.mbx.challenges (k2 m purpose) none } }

/-- The response that a challenge asks for: the MAC over the challenge, the serial number and the purpose (R403, R474). -/
def response (key challenge : Bytes) (purpose : Nat) : Bytes :=
  beBytes 32 (Config.hmac256 key (challenge ++ leBytes 16 Config.serial.toNat ++ beBytes 2 purpose)).toNat

/-- A response that does not verify is counted and recorded; five within 60 s hold challenges off for 60 s (R474). -/
def Dev.badResponse (d : Dev) (m purpose : Nat) : Dev :=
  let d1 := (d.count .MBX_CRED_FAILURES 0).record .MBX_CREDENTIAL_REFUSED 9 m (payloadOf [(1, m), (1, purpose)])
  let times := d1.now :: d1.mbx.badTimes.filter (fun t => decide (d1.now < t + 60 * tSec))
  if 5 ≤ times.length ∧ d1.mbx.holdoffEnd.isNone then
    ({ d1 with mbx := { d1.mbx with badTimes := [], holdoffEnd := some (d1.now + 60 * tSec) } }.set0
      .MBX_STATUS_CRED_HOLDOFF 1).record .MBX_CRED_HOLDOFF 9 m (payloadOf [(1, m)])
  else { d1 with mbx := { d1.mbx with badTimes := times } }

/-! ### Locks (R480, R481) -/

/-- The holder of a lock, 15 for a free one. -/
def Dev.lockHolder (d : Dev) (i : Nat) : Nat := d.f1 .LCK_LOCK_HOLDER i

/-- The locks a master holds are released without a write: HOST_LOCK_RELEASED for the host (R94, R427), else
LOCK_RELEASED_BY_RESET (R481). -/
def Dev.releaseLocks (d : Dev) (m cause : Nat) : Dev :=
  (List.range 64).foldl (fun d i =>
    if d.lockHolder i = m then
      let d1 := d.set1 .LCK_LOCK_HOLDER i 0xF
      if 4 ≤ m ∧ m ≤ 7 then d1.record .HOST_LOCK_RELEASED 9 m (payloadOf [(1, i), (1, m)])
      else d1.record .LOCK_RELEASED_BY_RESET 9 m (payloadOf [(1, i), (1, m), (1, cause)])
    else d) d

end Sys2Proof.Machine
end

