-- ==== Sys2Proof/Machine/Monitors.lean ====
section
/-! DEFINITION. Monitors, core voltage control, the parity scrub of the configuration registers and the calibration store
(R407 to R416). -/

namespace Sys2Proof.Machine

/-! ### Monitors (R407 to R409)

A monitor has the number of Table 19-2: temperature s, voltage 0x100 + v, process 0x200 + k. -/

def Dev.monSt (d : Dev) (i : Nat) : MonSt := Map.get .reset d.hlt.mon i
def Dev.setMon (d : Dev) (i : Nat) (x : MonSt) : Dev := { d with hlt := { d.hlt with mon := Map.set .reset d.hlt.mon i x } }

/-- A monitor that has not failed and has delivered a sample. -/
def Dev.monLive (d : Dev) (i : Nat) : Bool := !d.hlt.failed.contains i && decide ((d.monSt i).last ≠ 0)

/-- The RAIL code of a voltage point (Table 15-5). -/
def railOf (v : Nat) : Nat :=
  if v < 12 then 0 else if v < 16 then 1 else if v < 20 then 2 else if v < 28 then 3 else if v < 30 then 4
  else if v < 34 then 5 else if v < 36 then 6 else if v < 38 then 7 else 8

/-- The sensors of the die or stack of a sensor (Table 15-4), and the die's identifier (R419). -/
def tempGroup (s : Nat) : List Nat × Nat :=
  if s < 32 then (List.range 32, 0)
  else if s < 48 then ((List.range 4).map (fun k => 32 + 4 * ((s - 32) / 4) + k), 1 + (s - 32) / 4)
  else if s < 52 then ((List.range 4).map (fun k => 48 + k), 5)
  else ((List.range 11).map (fun j => 52 + 11 * ((s - 52) / 11) + j), 6 + (s - 52) / 11)

def Dev.tempOf (d : Dev) (s : Nat) : Int := signed 16 (d.f1 .MON_TEMP s)
/-- MON_TEMP_WARN in 1/16 °C. -/
def Dev.tempWarn (d : Dev) : Int := 16 * d.f0 .MON_TEMP_WARN

/-- The voltage the device has asked for: 750 mV until its first AVSBus request (R515). -/
def Dev.avsReq (d : Dev) : Nat := if d.f0 .MON_AVS_STATUS_REQ_MV = 0 then 750 else d.f0 .MON_AVS_STATUS_REQ_MV

/-- Nominal voltage of a rail in mV (Table 15-5). -/
def Dev.nominal (d : Dev) (rail : Nat) : Nat :=
  [d.avsReq, 800, 750, 1200, 750, 1100, 2500, 1800, 800].getD rail 0

/-- A reading lies inside a window: ±20 or ±40 mV of the request on VDD_CORE, of the old one too for 1 ms after a request;
±3 % or ±6 % of nominal on the other rails (Table 15-5). -/
def Dev.inWindow (d : Dev) (v mv : Nat) (hard : Bool) : Bool :=
  let near (c w : Nat) : Bool := decide (c ≤ mv + w) && decide (mv ≤ c + w)
  if v < 12 then
    let w := if hard then 40 else 20
    near d.avsReq w || (decide (d.now < d.hlt.avsReqAt + tMs) && near d.hlt.avsPrev w)
  else
    let n := d.nominal (railOf v)
    let w := n * (if hard then 6 else 3)
    decide (100 * n ≤ 100 * mv + w) && decide (100 * mv ≤ 100 * n + w)

/-- The calibrated reading of a sensor: gain in 2^-16, then offset (R407, R415). -/
def Dev.calTemp (d : Dev) (s : Nat) (raw : Int) : Int :=
  raw * calEffective (0x104 + 8 * s) (signed 16 (d.f1 .CAL_TEMP_GAIN s)) / 65536 +
    calEffective (0x100 + 8 * s) (signed 12 (d.f1 .CAL_TEMP_OFS s))
def Dev.calVolt (d : Dev) (v raw : Nat) : Nat :=
  (raw * calEffective (0x400 + 4 * v) (signed 16 (d.f1 .CAL_VMON_GAIN v)) / 65536 : Int).toNat

/-! ### Warnings, ALERT_N and the summary bits -/

/-- STATE of a temperature sensor or a voltage point. -/
def Dev.monState (d : Dev) (i : Nat) : Nat :=
  if i < 0x100 then d.f1 .MON_TEMP_STATE i else d.f1 .MON_VOLT_STATE (i - 0x100)
def Dev.setMonState (d : Dev) (i st : Nat) : Dev :=
  if i < 0x100 then d.set1 .MON_TEMP_STATE i st else d.set1 .MON_VOLT_STATE (i - 0x100) st

/-- The live bits follow the monitors, and ALERT_N is asserted in WINTER, at a hard limit, and once an image is committed at
a warning (R408, Table 3-4, Table 15-7). -/
def Dev.settleAlert (d : Dev) : Dev :=
  let temps := (List.range 74).map (fun s => d.monState s)
  let volts := (List.range 40).map (fun v => d.monState (0x100 + v))
  let tw := temps.any (fun x => decide (x = 1 ∨ x = 2))
  let vw := volts.any (fun x => decide (x = 1 ∨ x = 2))
  let hard := (temps ++ volts).any (fun x => x == 2)
  let alert := d.winter || hard || (d.boot.committed && (tw || vw))
  let d1 := ((d.set0 .MON_STATUS_TEMP_WARN (b2n tw)).set0 .MON_STATUS_VOLT_WARN (b2n vw)).set0 .MON_STATUS_HARD (b2n hard)
  let d2 := ((d1.set0 .HLT_SUM_PKG_TEMP_WARN (b2n tw)).set0 .HLT_SUM_PKG_VOLT_WARN (b2n vw)).set0 .MON_STATUS_ALERT (b2n alert)
  { d2 with pins := { d2.pins with alertN := alert } }

/-- KIND and INDEX of a monitor in a payload. -/
def monName (i : Nat) : List (Nat × Nat) := [(1, i / 256), (1, i % 256)]

/-- The AVS fault (R412): 800 mV is requested once and adjusting stops; `reason` as Table 15-12 gives it. -/
def Dev.avsFault (d : Dev) (reason : Nat) : Dev :=
  if d.b0 .MON_AVS_STATUS_FAULT then d
  else
    let last := d.avsReq
    let d1 := { d with hlt := { d.hlt with avsPrev := last, avsReqAt := d.now } }
    let d2 := (((d1.set0 .MON_AVS_STATUS_REQ_MV 800).set0 .MON_AVS_STATUS_FAULT 1).set0 .MON_STATUS_AVS 1).set0 .HLT_SUM_PKG_AVS 1
    (d2.record .AVS_FAULT 0 0 (payloadOf [(1, reason), (2, last)])).autumn .HLT_AUTUMN_CAUSE_AVS .AVS_FAULT

/-- Coverage of a die, a stack, a rail or by the aggregator is lost: WINTER (R409). -/
def Dev.coverageLost (d : Dev) (kind idx : Nat) : Dev :=
  let d1 := (d.set0 .MON_STATUS_COVERAGE 1).set0 .HLT_SUM_PKG_COVERAGE 1
  (d1.record .MON_COVERAGE_LOST (if kind = 0 then 5 else 0) (if kind = 0 then idx else 0)
    (payloadOf [(1, kind), (1, idx)])).winterCause .HLT_CAUSE_MON_LOST EvCode.MON_COVERAGE_LOST.code

/-- A monitor is declared failed and excluded (R409); `test`: 1 range, 2 no longer updated, 3 against the median. -/
def Dev.monFail (d : Dev) (i test : Nat) : Dev :=
  if i ∈ d.hlt.failed then d
  else
    let d1 := { d with hlt := { d.hlt with failed := i :: d.hlt.failed } }
    let d2 := (if i < 0x200 then d1.setMonState i 3 else d1.set1 .MON_PROC_FAILED (i - 0x200) 1).set0 .HLT_SUM_UNIT_MONITOR 1
    let d3 := (d2.record .MON_SENSOR_FAILED 8 i (payloadOf (monName i ++ [(1, test)]))).autumn .HLT_AUTUMN_CAUSE_MONITOR
      .MON_SENSOR_FAILED
    let gone (l : List Nat) : Bool := l.all (fun j => d3.hlt.failed.contains j)
    let d4 :=
      if i < 0x100 then
        let g := tempGroup i
        if gone g.1 then d3.coverageLost 0 g.2 else d3
      else if i < 0x200 then
        let rail := railOf (i - 0x100)
        if gone (((List.range 40).filter (fun v => railOf v == rail)).map (fun v => 0x100 + v)) then d3.coverageLost 1 rail
        else d3
      else if gone ((List.range 16).map (fun k => 0x200 + k)) then d3.avsFault 3 else d3
    d4.settleAlert

/-- The limits are judged: `warns` and `hards` samples in a row lie beyond them, `n` of which cross, and `clear` says that a
warning ends (R407, R408). -/
def Dev.judge (d : Dev) (i n : Nat) (x : MonSt) (reading : Nat) (clear : Bool) : Dev :=
  let old := d.monState i
  let d0 := d.setMon i x
  let st := if n ≤ x.hards then 2 else if n ≤ x.warns ∨ old = 1 ∨ old = 2 then (if clear then 0 else 1) else 0
  let d1 := d0.setMonState i st
  let name := monName i ++ [(2, reading)]
  let d2 := if old = 0 ∧ st ≠ 0 then d1.record .MON_WARNING 8 i (payloadOf name) else d1
  let d3 := if old ≠ 0 ∧ st = 0 then d2.record .MON_WARNING_CLEARED 8 i (payloadOf (monName i)) else d2
  let d4 := if old ≠ 2 ∧ st = 2 then
      (d3.record .MON_HARD_LIMIT 8 i (payloadOf name)).winterCause
        (if i < 0x100 then .HLT_CAUSE_THERMAL else .HLT_CAUSE_VOLTAGE) EvCode.MON_HARD_LIMIT.code
    else d3
  d4.settleAlert

/-- The median of a list, times two. -/
def median2 (l : List Int) : Int :=
  let s := l.insertionSort (· ≤ ·)
  s.getD ((s.length - 1) / 2) 0 + s.getD (s.length / 2) 0

/-- The other live sensors of a sensor's die or stack agree with it within 25 °C (R409). -/
def Dev.plausible (d : Dev) (s : Nat) (t : Int) : Bool :=
  let others := (tempGroup s).1.filter (fun o => decide (o ≠ s) && d.monLive o)
  others.isEmpty || decide ((2 * t - median2 (others.map d.tempOf)).natAbs ≤ 800)

/-- A calibrated temperature sample, in 1/16 °C: a reading beyond the hard limit takes effect before the plausibility tests
can judge it (R409). -/
def Dev.tempSample (d : Dev) (s : Nat) (t : Int) : Dev :=
  let d0 := d.set1 .MON_TEMP s (unsigned 16 t)
  let x := d.monSt s
  let warn := d.tempWarn
  let ok := d0.plausible s t
  let odd := if ok then none else some (x.odd.getD d.now)
  let y : MonSt := { x with
    warns := if warn ≤ t then x.warns + 1 else 0
    hards := if 2000 ≤ t then x.hards + 1 else 0
    odd := odd, last := 1, lastAt := d.now }
  let d1 := d0.judge s 2 y (unsigned 16 t) (decide (t ≤ warn - 80))
  if y.hards = 1 then d1
  else if t < -880 ∨ 2400 < t then d1.monFail s 1
  else if odd.any (fun a => decide (a + tSec ≤ d.now)) then d1.monFail s 3
  else d1

/-- A calibrated voltage sample, in mV. -/
def Dev.voltSample (d : Dev) (v mv : Nat) : Dev :=
  let i := 0x100 + v
  let d0 := (d.set1 .MON_VOLT_MV v mv).set1 .MON_VOLT_RAIL v (railOf v)
  let x := d.monSt i
  let inWarn := d.inWindow v mv false
  let inside := if inWarn then some (x.inside.getD d.now) else none
  let y : MonSt := { x with
    warns := if inWarn then 0 else x.warns + 1
    hards := if d.inWindow v mv true then 0 else x.hards + 1
    inside := inside, last := 1, lastAt := d.now }
  let d1 := d0.judge i 3 y mv (inside.any (fun a => decide (a + 10 * tMs ≤ d.now)))
  if 0 < y.hards ∧ y.hards < 3 then d1
  else if 3 * d.nominal (railOf v) < 2 * mv then d1.monFail i 1 else d1

/-- A process count (R409): a count that has not changed over 100 µs fails the monitor. -/
def Dev.procSample (d : Dev) (k count : Nat) : Dev :=
  let i := 0x200 + k
  let x := d.monSt i
  let d0 := d.set1 .MON_PROC_COUNT k count
  if x.last = count + 1 then (if x.lastAt + 100 * tUs ≤ d.now then d0.monFail i 2 else d0)
  else d0.setMon i { x with last := count + 1, lastAt := d.now }

/-- MON_SAMPLE (R407 to R409): a monitor is judged against its limits and its plausibility tests; a failed one is no
longer judged. -/
def execMonSample (x : MonRead) (s : State) : Host.Outcome State Fault Refusal :=
  s.run fun d =>
    let live (i : Nat) (e : Dev) : Dev := if i ∈ d.hlt.failed then d else e
    match x with
    | .temp n raw => live n (d.tempSample n (d.calTemp n raw))
    | .volt v raw => live (0x100 + v) (d.voltSample v (d.calVolt v raw))
    | .proc k c => live (0x200 + k) (d.procSample k c)
    | .silentTemp n => if (d.monSt n).lastAt + tMs ≤ d.now then d.monFail n 2 else d
    | .silentVolt v => if (d.monSt (0x100 + v)).lastAt + 100 * tUs ≤ d.now then d.monFail (0x100 + v) 2 else d
    | .aggregator => if d.b0 .MON_STATUS_COVERAGE ∧ d.b0 .HLT_CAUSE_MON_LOST then d else (d.coverageLost 2 0).settleAlert

/-- THERMTRIP (R410): a comparator finds a sensor at 130 °C; THERMTRIP_N stays latched. -/
def execThermtrip (x : Fin 52) (s : State) : Host.Outcome State Fault Refusal :=
  s.run fun d =>
    if d.pins.thermtripN then d
    else
      let d1 := ({ d with pins := { d.pins with thermtripN := true } }).set0 .MON_STATUS_THERMTRIP 1
      ((d1.set0 .HLT_SUM_PKG_THERMTRIP 1).record .THERMTRIP 8 x (payloadOf [(1, x)])).winterCause .HLT_CAUSE_THERMAL
        EvCode.THERMTRIP.code

/-! ### Core voltage control (R411, R412) -/

/-- Control runs: from the first commit until a fault. -/
def Dev.avsRuns (d : Dev) : Bool := d.b0 .MON_AVS_STATUS_ACTIVE && !d.b0 .MON_AVS_STATUS_FAULT

/-- The target of the fused table, rounded up to 5 mV and clamped (R411). -/
def Dev.avsTarget (d : Dev) : Nat :=
  let counts := ((List.range 16).filter (fun k => d.monLive (0x200 + k))).map (fun k => d.f1 .MON_PROC_COUNT k)
  let temps := ((List.range 32).filter d.monLive).map d.tempOf
  let slow := counts.foldl min (counts.headD 0)
  let hot := temps.foldl max (temps.headD 0)
  min 800 (max 650 ((Config.avsTable slow hot + 4) / 5 * 5))

/-- AVS_UPDATE (R411): every 10 ms in automatic mode. -/
def execAvsUpdate (s : State) : Host.Outcome State Fault Refusal :=
  s.run fun d =>
    if !d.avsRuns ∨ d.b0 .MON_AVS_CTRL_MODE then d
    else { d with hlt := { d.hlt with avsTarget := d.avsTarget } }

/-- The outcome of an AVSBus transaction: the third failure in a row is the fault. -/
def Dev.avsBus (d : Dev) (ok : Bool) : Dev :=
  let n := if ok then 0 else d.hlt.avsFails + 1
  let d1 := { d with hlt := { d.hlt with avsFails := n } }
  if 3 ≤ n then d1.avsFault 1 else d1

/-- The next request: 5 mV towards the target, or FIXED_MV (R411, R412). -/
def Dev.avsNext (d : Dev) : Nat :=
  let r := d.avsReq
  let t := d.hlt.avsTarget
  if d.b0 .MON_AVS_CTRL_MODE then d.f0 .MON_AVS_CTRL_FIXED_MV
  else if r + 5 ≤ t then r + 5 else if r < t then t else if t + 5 ≤ r then r - 5 else t

/-- AVS_STEP (R411, R412): at most one per 1 ms.  `written` says whether the write of the request succeeded, `vout` is the
VOUT read back after it, if that transaction succeeded. -/
def execAvsStep (written : Bool) (vout : Option (Fin 1024)) (s : State) : Host.Outcome State Fault Refusal :=
  s.run fun d =>
    if !d.avsRuns ∨ (d.hlt.avsStep ≠ 0 ∧ d.now < d.hlt.avsStep + tMs) then d
    else
      let mv := d.avsNext
      let h := { d.hlt with avsStep := d.now }
      let d1 : Dev := if mv = d.avsReq then { d with hlt := h }
        else { d with hlt := { h with avsPrev := d.avsReq, avsReqAt := d.now } }
      let d2 := ((d1.set0 .MON_AVS_STATUS_REQ_MV mv).avsBus written).avsBus vout.isSome
      match vout with
      | none => d2
      | some v =>
        let d3 := d2.set0 .MON_AVS_STATUS_READ_MV v
        let off : Option Nat := if v.val + 20 < mv ∨ mv + 20 < v.val then some (d3.hlt.avsOff.getD d3.now) else none
        let d4 := { d3 with hlt := { d3.hlt with avsOff := off } }
        if off.any (fun a => decide (a + 10 * tMs ≤ d4.now)) then d4.avsFault 2 else d4

/-! ### Configuration-register parity (R413, R414) -/

/-- The register instance at an offset. -/
def regAt (off : Nat) : Option (Reg × Nat × Nat) :=
  Reg.all.findSome? (fun r => (r.instanceAt off).map (fun x => (r, x.1, x.2)))

/-- A configuration register (R455). -/
def Reg.isConfig (r : Reg) : Bool :=
  r.desc.fields.any (fun f => f.access == .rw || f.access == .rwm || f.access == .lck ||
    (f.access == .pw && !decide (f.lo = 0 ∧ f.width = 1 ∧ r = .HLT_WINTER_EXIT))) &&
  r != .GLB_SCRATCH && r != .GLB_SCRATCH_M

/-- A register takes a word as it stands: every field its bits. -/
def Dev.putWord (d : Dev) (r : Reg) (i j w : Nat) : Dev :=
  r.desc.fields.foldl (fun d f => d.setFld f i j (bitsOf w f.lo f.width)) d

/-- The unit a register configures is isolated (R413, R414): the MAC of a port, a lane's slice, a cluster's shadow slice, a
monitor, a time-stamper's port or a hold memory die; `none` where the register configures no single unit. -/
def Dev.isolateUnit (d : Dev) (off : Nat) : Option Dev :=
  let slice (l : Nat) : Dev := d.isolateSlice (l / 4) (d.f1 .LANE_STATUS_SLICE l)
  if 0x800000 ≤ off ∧ off < 0x900000 then some (d.isolatePort ((off - 0x800000) / 0x2000))
  else if 0x900000 ≤ off ∧ off < 0x940000 then some (slice ((off - 0x900000) / 0x800))
  else if 0x940000 ≤ off ∧ off < 0x950000 then
    let c := (off - 0x940000) / 0x800
    some (d.isolateSlice c (d.f1 .SHADOW_STATUS_SLICE c))
  else if 0x40100 ≤ off ∧ off < 0x40400 then some (d.monFail ((off - 0x40100) / 8) 1)
  else if 0x40400 ≤ off ∧ off < 0x40500 then some (d.monFail (0x100 + (off - 0x40400) / 4) 1)
  else if 0x40800 ≤ off ∧ off < 0x41000 then some (slice ((off - 0x40800) / 4))
  else if 0x41000 ≤ off ∧ off < 0x43000 then some (d.isolatePort ((off - 0x41000) / 0x40))
  else if 0x43000 ≤ off ∧ off < 0x43048 then some (d.failHoldDie ((off - 0x43000) / 4))
  else none

/-- Block (64 KiB of the register map) and offset of a register. -/
def parityPayload (off : Nat) : Bytes := payloadOf [(1, off / 0x10000), (4, off)]

/-- One mismatch of the scrub: `word` is what the register is found to hold. -/
def Dev.scrubBad (d : Dev) (off word : Nat) : Dev :=
  match regAt off with
  | none => d
  | some (r, i, j) =>
    if !r.isConfig ∨ off ∈ d.hlt.unjudged then d
    else if r.desc.safety then
      let again : Bool := d.hlt.rewritten.contains off
      let h := { d.hlt with
        cfgBad := true, cfgStuck := d.hlt.cfgStuck || again
        rewritten := if again then d.hlt.rewritten else off :: d.hlt.rewritten }
      let d1 := { d with hlt := h }.record .CFG_PARITY_SAFETY 0 0 (parityPayload off)
      let d2 := if 0x800000 ≤ off ∧ off < 0x900000 then d1.isolatePort ((off - 0x800000) / 0x2000) else d1
      d2.winterCause .HLT_CAUSE_CONFIG EvCode.CFG_PARITY_SAFETY.code
    else
      let d1 := (d.record .CFG_PARITY_UNIT 0 0 (parityPayload off)).autumn .HLT_AUTUMN_CAUSE_UNIT .CFG_PARITY_UNIT
      match d1.isolateUnit off with
      | none => d1
      | some d2 => ({ d2 with hlt := { d2.hlt with unjudged := off :: d2.hlt.unjudged } }).putWord r i j word

/-- CFG_SCRUB (R413): one full pass, with the offsets that mismatch and the words found there.  A pass that finds every
safety-relevant register good ends the CONFIG condition, unless it persists. -/
def execCfgScrub (bad : List (Fin 16777216 × BitVec 32)) (s : State) : Host.Outcome State Fault Refusal :=
  s.run fun d =>
    let safety := bad.any (fun x => (regAt x.1).any (fun r => r.1.isConfig && r.1.desc.safety))
    let d1 := bad.foldl (fun d x => d.scrubBad x.1 x.2.toNat) d
    if safety then d1 else { d1 with hlt := { d1.hlt with cfgBad := d1.hlt.cfgStuck } }

/-! ### Calibration store (R415, R416) -/

/-- The signed value that a word writes to the CAL register at an offset (Table 15-6). -/
def calValue (off w : Nat) : Int :=
  if off < 0x400 ∧ off / 4 % 2 = 0 then signed 12 (w % 2 ^ 12)
  else if 0x3000 ≤ off then signed 8 (w % 2 ^ 8)
  else if 0x800 ≤ off ∧ off < 0x1000 then signed 32 w
  else signed 16 (w % 2 ^ 16)

/-- CAL_REGISTER_WRITE (R415): a master writes the delta at an offset of the CAL block; an offset that no register has is
reserved. -/
def execCalRegisterWrite (m : Master) (off : Fin 65536) (w : BitVec 32) (s : State) : Host.Outcome State Fault Refusal :=
  s.run fun d =>
    if !calOffsetOk off then d.abortAccess m .reserved (0x40000 + off) true
    else d.gateWrite m (0x40000 + off) fun d => d.takeCal off (calValue off w.toNat)

/-- The CAL registers. -/
def calRegs : List Reg :=
  [.CAL_TEMP_OFS, .CAL_TEMP_GAIN, .CAL_VMON_GAIN, .CAL_TBUS_DELAY, .CAL_TX_DELTA, .CAL_TS_RX, .CAL_TS_TX, .CAL_HOLD_TRIM]

/-- The non-zero user deltas by CAL offset, in order. -/
def Dev.userDeltas (d : Dev) : List (Nat × Int) :=
  let one (off : Nat) (f : Field) (i j w : Nat) : Nat × Int := (off, signed w (d.fld f i j))
  let temps := (List.range 74).flatMap (fun s =>
    [one (0x100 + 8 * s) .CAL_TEMP_OFS s 0 12, one (0x104 + 8 * s) .CAL_TEMP_GAIN s 0 16])
  let volts := (List.range 40).map (fun v => one (0x400 + 4 * v) .CAL_VMON_GAIN v 0 16)
  let bus := (List.range 4).map (fun n => one (0x500 + 4 * n) .CAL_TBUS_DELAY n 0 16)
  let tx := (List.range 128).map (fun l => (0x800 + 4 * l, signed 32 (d.f1 .CAL_TX_DELTA_PRE3 l * 2 ^ 24 +
    d.f1 .CAL_TX_DELTA_PRE2 l * 2 ^ 18 + d.f1 .CAL_TX_DELTA_PRE1 l * 2 ^ 12 + d.f1 .CAL_TX_DELTA_MAIN l * 2 ^ 6 +
    d.f1 .CAL_TX_DELTA_POST1 l)))
  let ts := (List.range 128).flatMap (fun p => (List.range 7).flatMap (fun m =>
    [one (0x1000 + 0x40 * p + 8 * m) .CAL_TS_RX p m 16, one (0x1004 + 0x40 * p + 8 * m) .CAL_TS_TX p m 16]))
  let trim := (List.range 18).map (fun n => one (0x3000 + 4 * n) .CAL_HOLD_TRIM n 0 8)
  (temps ++ volts ++ bus ++ tx ++ ts ++ trim).filter (fun x => x.2 ≠ 0)

/-- CAL_CMD.SAVE: both copies take every non-zero delta and the next sequence number; refused while the hold store cannot
be written. -/
def Dev.calSave (d : Dev) : Dev :=
  if d.hld.outOfService ∨ !d.hld.mounted ∨ d.hld.fenced then d.set0 .CAL_STATUS_SAVE_FAILED 1
  else
    let l := d.userDeltas
    let seq := (d.hlt.calSaved.elim 0 (·.2) + 1) % 2 ^ 32
    let d1 := { d with hlt := { d.hlt with calSaved := some (l, seq) } }
    (d1.set0 .CAL_STATUS_SAVED 1).record .CAL_SAVED 0 0 (payloadOf [(2, l.length), (4, seq)])

/-- CAL_CMD.CLEAR_USER: every delta is zero. -/
def Dev.calClearUser (d : Dev) : Dev := d.resetFlds (Dev.isFldOf calRegs)

/-- CAL_CMD.CLEAR_SAVED: both copies are erased. -/
def Dev.calClearSaved (d : Dev) : Dev :=
  if d.hld.outOfService ∨ !d.hld.mounted ∨ d.hld.fenced then d
  else ({ d with hlt := { d.hlt with calSaved := none } }).set0 .CAL_STATUS_SAVED 0

/-- A write of CAL_CMD by master `m`; ignored while BUSY (Table 15-11).  CLEAR_SAVED needs KEY 0x3C: a write with another
one is an ignored access (R442). -/
def Dev.calCmd (d : Dev) (m key : Nat) (save clearUser clearSaved : Bool) : Dev :=
  if d.b0 .CAL_STATUS_BUSY then d
  else if clearSaved ∧ key ≠ 0x3C then d.accessFailed m .badKey (Reg.CAL_CMD.addr 0 0)
  else
    let d1 := if save then d.calSave else d
    let d2 := if clearUser then d1.calClearUser else d1
    if clearSaved then d2.calClearSaved else d2

/-- CAL_SAVE (R416). -/
def execCalSave (m : Master) (s : State) : Host.Outcome State Fault Refusal :=
  s.run fun d => d.onWrite m .CAL_CMD 0 0 fun d => d.calCmd m 0 true false false

/-- CAL_CLEAR_USER (R416). -/
def execCalClearUser (m : Master) (s : State) : Host.Outcome State Fault Refusal :=
  s.run fun d => d.onWrite m .CAL_CMD 0 0 fun d => d.calCmd m 0 false true false

/-- CAL_CLEAR_SAVED (R416): a write with a KEY. -/
def execCalClearSaved (m : Master) (key : BitVec 8) (s : State) : Host.Outcome State Fault Refusal :=
  s.run fun d => d.onWrite m .CAL_CMD 0 0 fun d => d.calCmd m key.toNat false false true

end Sys2Proof.Machine
end

