-- ==== Sys2Proof/Machine/RecorderOps.lean ====
section
/-! DEFINITION. The persistent area of the event recorder (spec/19): the bytes of a record, flushes, the freeze, the
erase and the anchor of the sequence. -/

namespace Sys2Proof.Machine

/-! ### Records as bytes (Table 19-1) -/

def EvRec.bytes (r : EvRec) : Bytes :=
  let b := leBytes 4 (r.seq.getD 0) ++ leBytes 4 r.powerCycles ++ leBytes 5 (r.opMs / 1000) ++ leBytes 2 (r.opMs % 1000) ++
    leBytes 1 r.flags ++ leBytes 8 r.ptpSec ++ leBytes 4 r.ptpNs ++ leBytes 1 r.epoch ++
    leBytes 1 (r.code.code / 4096 * 16 + r.code.severity.toNat) ++ leBytes 2 r.code.code ++
    leBytes 4 (r.srcKind * 2 ^ 24 + r.srcIdx) ++ (r.payload ++ List.replicate (24 - r.payload.length) 0).take 24
  b ++ leBytes 4 (crc32c b)

/-- Slots of the area (R494). -/
def evrSlots : Nat := 16777216

/-- The bytes of an area slot; an erased one reads zeros. -/
def Dev.slotBytes (d : Dev) (s : Nat) : Bytes :=
  match Map.get none d.evr.area s with
  | some r => r.bytes
  | none => List.replicate 64 0

/-- The distance of `s` behind the head, modulo 2^32. -/
def Dev.behind (d : Dev) (s : Nat) : Nat := (d.evr.head + 2 ^ 32 - s % 2 ^ 32) % 2 ^ 32

/-- Whether a SEQ lies in the range from `a` to `b`, modulo 2^32. -/
def inRange (a b s : Nat) : Bool := decide ((s + 2 ^ 32 - a) % 2 ^ 32 ≤ (b + 2 ^ 32 - a) % 2 ^ 32)

/-- EVR_OLDEST: the oldest record still held below the head (R494). -/
def Dev.findOldest (d : Dev) : Nat :=
  let far := d.evr.area.foldl (fun n x => match x.2 with
    | some r => let b := d.behind (r.seq.getD 0)
                if b ≤ evrSlots then max n b else n
    | none => n) 0
  (d.evr.head + 2 ^ 32 - far) % 2 ^ 32

/-! ### Flushes (R492 to R494) -/

/-- The area can be written: mounted, the hold store in service and its base dies not fenced. -/
def Dev.evrStore (d : Dev) : Bool := d.b0 .EVR_STATUS_MOUNTED && !d.b0 .EVR_STATUS_NO_STORE && !d.hld.fenced

/-- Numbered records are written, each in its slot; each touched row is written whole. -/
def Dev.evrWrite (d : Dev) (rs : List EvRec) : Dev :=
  let d1 := rs.foldl (fun d r => match r.seq with
    | some s => { d with evr := { d.evr with
        area := Map.set none d.evr.area (s % evrSlots) (some r), head := (s + 1) % 2 ^ 32 } }
    | none => d) d
  let rows := (rs.map (fun r => r.seq.getD 0 % evrSlots / 64)).eraseDups
  let d2 := rows.foldl (fun d row => d.noteRowWrite (row / 16) 2) d1
  if evrSlots < d2.behind d2.evr.oldest
  then { d2 with evr := { d2.evr with oldest := (d2.evr.head + 2 ^ 32 - evrSlots) % 2 ^ 32 } } else d2

/-- The records staged before SEQ `q`. -/
def Dev.stagedBefore (d : Dev) (q : Nat) : List EvRec := d.evr.fifo.takeWhile (fun r => decide (r.seq ≠ some q))

/-- A flush starts over everything staged; with the store absent, during a flush, a freeze or an erase it waits (R492,
R496 to R498). -/
def Dev.evrTrigger (d : Dev) : Dev :=
  if !d.evrStore ∨ d.evr.flushTo.isSome ∨ d.evr.freezeAt.isSome ∨ d.evr.erase.isSome
  then { d with evr := { d.evr with flushAgain := true } }
  else
    let d1 := { d with evr := { d.evr with
      flushTo := some d.evr.nextSeq, flushStart := d.now, flushAgain := false, flushDue := false } }
    let replies := d1.mbx.flushReply.map (fun x => (x.1, false, x.2.2))
    { d1 with mbx := { d1.mbx with flushReply := replies } }.set0 .EVR_STATUS_FLUSHING 1

/-- The flush of `n` records is over: EVR_LAST_FLUSH takes its microseconds. -/
def Dev.flushOver (d : Dev) (n : Nat) : Dev :=
  let d1 := { d with evr := { d.evr with
    fifo := d.evr.fifo.drop n, flushTo := none, lastFlushEnd := d.now, releaseFlush := false } }
  ((d1.set0 .EVR_STATUS_FLUSHING 0).set0 .EVR_LAST_FLUSH ((d.now - d.evr.flushStart) / tUs)).count .EVR_FLUSHES 0

/-- The flush requests that wait for it are answered with the last sequence number written. -/
def Dev.answerFlush (d : Dev) : Dev :=
  let last := (d.evr.head + 2 ^ 32 - 1) % 2 ^ 32
  (d.mbx.flushReply.filter (fun x => !x.2.1)).foldl (fun d x => d.reply x.1 x.2.2 0 [last])
    { d with mbx := { d.mbx with flushReply := d.mbx.flushReply.filter (fun x => x.2.1) } }

/-- Staged records found uncorrectable, by their places in the FIFO, are discarded and counted (R489). -/
def Dev.dropCorrupt (d : Dev) (bad : List (Fin 4096)) : Dev :=
  let keep := (d.evr.fifo.zipIdx.filter (fun x => !bad.any (fun b => decide (b.val = x.2)))).map (·.1)
  let n := d.evr.fifo.length - keep.length
  ({ d with evr := { d.evr with fifo := keep } }.countN .EVR_CORRUPT 0 n).satInc .EVR_LOST_PEND 5 0 n

/-- The flush in progress ends: its records are in the area, the requests that waited for it are answered with the last
SEQ flushed, and a pending LOST record follows (R490 to R492). -/
def Dev.evrFlushEnd (d : Dev) : Dev :=
  match d.evr.flushTo with
  | none => d
  | some q =>
    let rs := d.stagedBefore q
    (((d.evrWrite rs).flushOver rs.length).answerFlush).acceptLost

/-- Everything staged is written at once (R493, R497): a flush in progress ends with it. -/
def Dev.evrWriteAll (d : Dev) : Dev :=
  let d1 := { d with evr := { d.evr with flushTo := some d.evr.nextSeq, flushStart := d.evr.flushTo.elim d.now (fun _ => d.evr.flushStart) } }
  d1.evrFlushEnd

/-- Step 7 of Table 11-6: every record accepted before it is written, whatever the freeze and the erase (R493). -/
def Dev.evrPowerFlush (d : Dev) : Dev := if d.evrStore then d.evrWriteAll else d

/-! ### The freeze (R496) -/

/-- The freeze is released; an early release, for cause 1 (FIFO) or 2 (PFAIL_N), is counted and recorded.  A flush
starts. -/
def Dev.evrRelease (d : Dev) (early : Nat) : Dev :=
  let owner := d.f0 .EVR_STATUS_FREEZE_OWNER
  let d1 := ({ d with evr := { d.evr with freezeAt := none, releaseFlush := true } }.set0 .EVR_STATUS_FROZEN 0).set0
    .EVR_STATUS_FREEZE_OWNER 0xF
  let d2 := if early = 0 then d1
    else (d1.count .EVR_FREEZE_EARLY 0).record .FREEZE_RELEASED_EARLY 9 owner (payloadOf [(1, early), (1, owner)])
  d2.evrTrigger

/-- FREEZE by a master. -/
def Dev.evrFreeze (d : Dev) (m : Nat) : Dev :=
  if d.evr.freezeAt.isSome ∧ d.f0 .EVR_STATUS_FREEZE_OWNER = m then d
  else if !pwMaster m ∨ d.evr.freezeAt.isSome ∨ d.evr.releaseFlush then d.set0 .EVR_STATUS_FREEZE_REFUSED 1
  else
    let running := d.evr.flushTo.isSome
    let d1 := { d with evr := { d.evr with
      freezeAt := some d.now, flushTo := none, flushAgain := d.evr.flushAgain || running } }
    (((d1.set0 .EVR_STATUS_FLUSHING 0).set0 .EVR_STATUS_FROZEN 1).set0 .EVR_STATUS_FREEZE_OWNER m).count .EVR_FREEZES 0

/-- THAW by a master: its own freeze is released; any other THAW is refused. -/
def Dev.evrThaw (d : Dev) (m : Nat) : Dev :=
  if d.evr.freezeAt.isSome ∧ d.f0 .EVR_STATUS_FREEZE_OWNER = m then d.evrRelease 0
  else d.set0 .EVR_STATUS_FREEZE_REFUSED 1

/-- A write of EVR_CTRL (Table 19-5), INT_SEV apart. -/
def Dev.evrCtrl (d : Dev) (m : Nat) (flush freeze thaw : Bool) : Dev :=
  let d1 := if flush then d.evrTrigger else d
  let d2 := if freeze then d1.evrFreeze m else d1
  if thaw then d2.evrThaw m else d2

/-! ### The erase (R497) -/

/-- The slots that still hold a record of the range under erasure. -/
def Dev.eraseLeft (d : Dev) (a b : Nat) : Nat :=
  (d.evr.area.filter (fun x => x.2.any (fun r => inRange a b (r.seq.getD 0)))).length

/-- The erase of its range completes. -/
def Dev.eraseEnd (d : Dev) : Dev :=
  match d.evr.erase with
  | none => d
  | some (a, b) =>
    let keep := d.evr.area.filter (fun x => !x.2.any (fun r => inRange a b (r.seq.getD 0)))
    let d1 := { d with evr := { d.evr with area := keep, erase := none } }
    let d2 := { d1 with evr := { d1.evr with oldest := d1.findOldest } }.set0 .EVR_STATUS_ERASING 0
    match d2.mbx.eraseReply with
    | some (m, req) => { d2 with mbx := { d2.mbx with eraseReply := none } }.reply m req 0 [a, b]
    | none => d2

/-! ### Numbering (R486, R487) -/

/-- The records that were staged before numbering take their numbers in staging order. -/
def Dev.numberStaged (d : Dev) (from_ : Nat) : Dev :=
  let r := d.evr.fifo.foldl (fun (a : List EvRec × Nat) r => match r.seq with
    | some _ => (a.1 ++ [r], a.2)
    | none => (a.1 ++ [{ r with
        seq := some a.2
        flags := r.flags % 4 + 4 * b2n (d.b0 .EVR_STATUS_SEQ_UNANCHORED) }], (a.2 + 1) % 2 ^ 32)) ([], from_)
  { d with evr := { d.evr with fifo := r.1, nextSeq := r.2, numbering := true } }

/-- The newest valid record that lies in its own slot, modulo 2^32 (R487). -/
def Dev.newestHeld (d : Dev) : Option Nat :=
  d.evr.area.foldl (fun best x => match x.2 with
    | some r =>
      let s := r.seq.getD 0
      if s % evrSlots ≠ x.1 then best
      else match best with
        | none => some s
        | some b => if (s + 2 ^ 32 - b) % 2 ^ 32 < 2 ^ 31 then some s else some b
    | none => best) none

/-- The event area mounts (R487, R497): the head comes from the commit, or is recovered by a scan; what is staged is
numbered; an interrupted erase resumes. -/
def Dev.evrMount (d : Dev) (valid : Bool) : Dev :=
  let d0 := (d.set0 .EVR_STATUS_MOUNTED 1).set0 .EVR_STATUS_NO_STORE 0
  let found := d0.newestHeld
  let d1 := if valid then d0
    else
      let h := match found with
        | some s => (s + 1) % 2 ^ 32
        | none => d0.evr.head
      let e := { d0 with evr := { d0.evr with head := h } }
      { e with evr := { e.evr with oldest := e.findOldest } }
  let d2 := if d1.evr.numbering then d1 else d1.numberStaged d1.evr.head
  let d3 := { d2 with evr := { d2.evr with lastFlushEnd := d2.now } }
  let d4 := if valid then d3
    else d3.record .EVR_SEQ_RECOVERED 0 0 (payloadOf [(4, found.getD ((d3.evr.head + 2 ^ 32 - 1) % 2 ^ 32))])
  match d4.evr.erase with
  | some (a, b) => (d4.set0 .EVR_STATUS_ERASING 1).record .EVR_ERASE_RESUMED 0 0 (payloadOf [(4, d4.eraseLeft a b)])
  | none => if d4.evr.flushAgain then d4.evrTrigger else d4

/-! ### Staged records (R498) -/

/-- A write of EVR_STAGE_SEQ: EVR_STAGE_DATA takes the staged record of that SEQ, or zeros with STAGE_MISS. -/
def Dev.stageLoad (d : Dev) (s : Nat) : Dev :=
  let d0 := d.set0 .EVR_STAGE_SEQ s
  let load (d : Dev) (b : Bytes) : Dev := (List.range 16).foldl (fun d i => d.set1 .EVR_STAGE_DATA i (leAt b (4 * i) 4)) d
  match d0.evr.fifo.find? (fun r => decide (r.seq = some s)) with
  | some r => load d0 r.bytes
  | none => (load d0 []).set0 .EVR_STATUS_STAGE_MISS 1

/-- A write of EVR_STAGE_RELEASE: with no store, staged records up to and including SEQ `s` are discarded. -/
def Dev.stageRelease (d : Dev) (m s : Nat) : Dev :=
  if !d.b0 .EVR_STATUS_NO_STORE then d
  else
    let d0 := d.set0 .EVR_STAGE_RELEASE s
    let goes (r : EvRec) : Bool := match r.seq with
      | some q => decide ((s + 2 ^ 32 - q) % 2 ^ 32 < 2 ^ 31)
      | none => false
    let gone := d0.evr.fifo.filter goes
    match gone.head?, gone.getLast? with
    | some a, some b =>
      let d1 := { d0 with evr := { d0.evr with fifo := d0.evr.fifo.filter (fun r => !goes r) } }
      ((d1.countN .EVR_RELEASED 0 gone.length)).record .EVR_STAGE_RELEASED 9 m
        (payloadOf [(4, a.seq.getD 0), (4, b.seq.getD 0), (1, m)])
    | _, _ => d0

end Sys2Proof.Machine
end

