-- ==== Sys2Proof/Machine/Winter.lean ====
section
/-! DEFINITION. WINTER: the end of its sequence, the clearing of causes, the exit and the request; watchdogs
(R400 to R406). -/

namespace Sys2Proof.Machine

/-- WINTER_SEQUENCE_DONE (R400): management is confirmed up, the latency is written, WINTER_ENTERED recorded and
flushed. -/
def execWinterSequenceDone (s : State) : Host.Outcome State Fault Refusal :=
  s.run fun d => match d.hlt.detect with
    | none => d
    | some t =>
      let lat := (d.now - t) * 5 / 2
      let d1 := ({ d with hlt := { d.hlt with detect := none } }).set0 .HLT_WINTER_LAT lat
      (d1.record .WINTER_ENTERED 0 0 (payloadOf [(2, d1.causeWord), (4, lat)])).evrTrigger

/-! ### Causes (R402) -/

/-- The condition of a cause is still present (R402). -/
def Dev.causePresent (d : Dev) (f : Field) : Bool :=
  if f = .HLT_CAUSE_THERMAL then
    (List.range 74).any (fun s => d.monLive s && decide (d.tempWarn ≤ d.tempOf s))
  else if f = .HLT_CAUSE_VOLTAGE then
    (List.range 40).any (fun v => d.monLive (0x100 + v) && !d.inWindow v (d.f1 .MON_VOLT_MV v) false)
  else if f = .HLT_CAUSE_INTERLOCK then d.pins.leaseIn || d.pins.leaseInB
  else if f = .HLT_CAUSE_CONFIG then d.hlt.cfgBad || d.hlt.cfgStuck
  else false

/-- The cause bits that software can clear. -/
def clearableCauses : List Field :=
  [.HLT_CAUSE_THERMAL, .HLT_CAUSE_VOLTAGE, .HLT_CAUSE_WATCHDOG, .HLT_CAUSE_INTERLOCK, .HLT_CAUSE_HOST_REQUEST,
   .HLT_CAUSE_SMBUS_REQUEST, .HLT_CAUSE_CONFIG]

/-- A write of 1 to bits of HLT_CAUSE clears those whose condition has gone. -/
def Dev.clearCauses (d : Dev) (w : Nat) : Dev :=
  clearableCauses.foldl (fun d f => if bitOf w f.lo ∧ !d.causePresent f then d.set0 f 0 else d) d

/-- HLT_CAUSE_CLEAR (R402). -/
def execHltCauseClear (m : Master) (w : BitVec 32) (s : State) : Host.Outcome State Fault Refusal :=
  s.run fun d => d.onWrite m .HLT_CAUSE 0 0 fun d => d.clearCauses w.toNat

/-! ### The exit (R403, R404, R75) -/

/-- Frames frozen in the buffer are discarded into WINTER_DISCARD, and the buffer and the store thaw (R280, R404). -/
def Dev.thaw (d : Dev) : Dev :=
  let queued := d.buf.queues.foldl (fun n x => n + x.2.length) 0
  let sending := d.buf.macq.length + d.buf.inflight.length
  let b := { d.buf with queues := [], macq := [], inflight := [], chains := [], rx := [], frozen := false }
  let qs := Map.mapV .reset (fun _ (x : HoldQ) => { x with pending := 0 }) d.hld.queues
  let d1 := { d with buf := b, hld := { d.hld with queues := qs, frozen := false },
                     search := { d.search with inspect := [] } }
  ((d1.countN .BUF_WINTER_DISCARD 0 (queued + sending)).set0 .BUF_STATUS_FROZEN 0).set0 .HLD_STATUS_FROZEN 0

/-- Readiness of the regions, before their bring-up. -/
def Dev.setReady (d : Dev) (n v : Nat) : Dev :=
  ((d.set1 .PRS_STATUS_READY n v).set1 .AUT_STATUS_READY n (if (d.section 6 4).isEmpty then 0 else v)).set1 .MTR_STATUS_READY n v

/-- Readiness of the memories that every region shares. -/
def Dev.setSharedReady (d : Dev) (v : Nat) : Dev := (d.set0 .TBL_STATUS_READY v).set0 .TCM_STATUS_READY v

/-- Transmitters that LOS_MASK took to loss of signal come back with region bring-up, those of isolated ports stay. -/
def Dev.lightUp (d : Dev) : Dev :=
  (List.range 128).foldl (fun d p =>
    let m := d.macSt p
    if d.losMask p ∧ m.drive = .lossOfSignal ∧ !d.portIsolated p then d.setMac p { m with drive := .running } else d) d

/-- SPRING after an accepted exit: what R404 does beside the image. -/
def Dev.leaveWinter (d : Dev) (m : Nat) : Dev :=
  let secs := d.opMs / 1000 - d.hlt.winterSecs
  let d1 := (d.record .WINTER_LEFT 9 m (payloadOf [(4, secs), (1, m)])).setHealth 0 EvCode.WINTER_LEFT.code
  let d2 := ((d1.thaw.lightUp.set0 .CLK_DIV_CORE_HALF 0).set0 .CLK_BOOT_TIME 0).set0 .PAIR_STATUS_SYNCED 0
  let d3 := (List.range 4).foldl (fun d n => d.setReady n 0) (d2.setSharedReady 0)
  let off := Map.mapV .reset (fun _ (x : PulseSt) => { x with armed := false, high := false }) d3.tim.pulses
  let d4 := { d3 with
    tim := { d3.tim with pulses := off }
    hlt := { d3.hlt with detect := none }
    boot := { d3.boot with t0 := d3.now, checks := 0, lastStall := none, afterExit := true }
    pins := { d3.pins with replaceN := d3.b0 .HLT_AUTUMN_CAUSE_SPARE } }
  d4.settleAlert

/-- The device waits in SPRING for a LOAD_AND_COMMIT of the host. -/
def Dev.waitImage (d : Dev) : Dev :=
  ({ d with boot := { d.boot with waitImg := true } }).set0 .CLK_BOOT_STATUS_PHASE 4

/-- No source is left: the device waits for the host (Table 3-2). -/
def Dev.waitHost (d : Dev) : Dev := (d.record .BOOT_WAIT_HOST 0 0 (payloadOf [])).waitImage

/-- The image read again is the one that was running. -/
def Dev.sameImage (d : Dev) (img : Bytes) : Bool := imgDigest img == imgDigest d.img.image

/-- The image that a source gives comes into force: again, or as at start-up with the live calibration kept (R75, R404). -/
def Dev.takeAgain (d : Dev) (src slot : Nat) (img : Bytes) : Dev :=
  if d.sameImage img ∧ src = d.f0 .CLK_BOOT_STATUS_IMG_SOURCE then d.recommit img else d.commit src slot img true

/-- SPI is read, or the device waits for the host. -/
def Dev.fromSpi (d : Dev) (spi : Spi) (fallback : Bool) : Dev :=
  match d.spiImage spi with
  | (d1, some img) => d1.takeAgain 1 0 img
  | (d1, none) => (if fallback then d1.record .IMAGE_FALLBACK 0 0 (payloadOf []) else d1).waitHost

/-- The running image is read again from its source; one that no longer verifies is replaced (R75). -/
def Dev.rereadImage (d : Dev) (spi : Spi) (lost : List (Nat × Nat × Nat)) : Dev :=
  let src := d.f0 .CLK_BOOT_STATUS_IMG_SOURCE
  if src = 0 then
    let slot := d.f0 .IMG_SLOT_STATE_STARTED
    let first := if d.hld.outOfService then (d.record .IMAGE_FALLBACK 0 0 (payloadOf []), none)
      else Dev.trySlots lost [slot] d
    match first with
    | (d1, some x) => d1.takeAgain 0 x.1 x.2
    | (d1, none) =>
      match (if d1.hld.outOfService then (d1, none) else Dev.trySlots lost (d1.slotsBySerial 4) d1) with
      | (d2, some x) => d2.takeAgain 0 x.1 x.2
      | (d2, none) =>
        if d2.f0 .CLK_BOOT_STATUS_STRAP = 3 then (d2.record .BOOT_SOURCE_FALLBACK 0 0 (payloadOf [])).fromSpi spi false
        else d2.waitHost
  else if src = 1 then d.fromSpi spi true
  else d.waitImage

/-- HLT_EXIT_RESP as 32 bytes (R403). -/
def Dev.exitResponse (d : Dev) : Bytes := (List.range 8).flatMap (fun i => leBytes 4 (d.f1 .HLT_EXIT_RESP i))

/-- Why a GO of HLT_WINTER_EXIT is refused (Table 15-10), 0 if it is not. -/
def Dev.exitReason (d : Dev) (m : Nat) : Nat :=
  if m ≠ 4 ∧ m ≠ 8 then 6
  else if !d.winter then 1
  else if d.causeWord ≠ 0 then 2
  else match d.credential, d.challenge m 1 with
    | none, _ => 3
    | some _, none => 4
    | some (_, key), some ch => if d.exitResponse = response key ch 1 then 0 else 5

/-- GO of HLT_WINTER_EXIT by master `m` (R403, R404). -/
def Dev.exitGo (d : Dev) (m : Nat) (spi : Spi) (lost : List (Nat × Nat × Nat)) : Dev :=
  let r := d.exitReason m
  let d1 := (d.dropChallenge m 1).set0 .HLT_WINTER_EXIT_REASON r
  if r = 0 then ((d1.set0 .HLT_WINTER_EXIT_REFUSED 0).leaveWinter m).rereadImage spi lost
  else
    let d2 := if r = 5 then d1.badResponse m 1 else d1
    (d2.set0 .HLT_WINTER_EXIT_REFUSED 1).record .WINTER_EXIT_REFUSED 9 m (payloadOf [(1, r), (1, m)])

/-- WINTER_EXIT (R403): GO of HLT_WINTER_EXIT; `spi` is what SPI holds, `lost` the slots with a lost stripe. -/
def execWinterExit (m : Master) (spi : Spi) (lost : List (Nat × Nat × Nat)) (s : State) :
    Host.Outcome State Fault Refusal :=
  s.run fun d => d.onWrite m .HLT_WINTER_EXIT 0 0 fun d =>
    d.pwWrite m (Reg.HLT_WINTER_EXIT.addr 0 0) .HLT_WINTER_EXIT_BUSY .HLT_WINTER_EXIT_COLLISION fun d => d.exitGo m spi lost

/-! ### Requests and watchdogs (R405, R406) -/

/-- A write of HLT_WINTER_REQ (R405). -/
def Dev.winterReq (d : Dev) (m key : Nat) (req : Bool) : Dev :=
  let off := Reg.HLT_WINTER_REQ.addr 0 0
  if m ≠ 4 ∧ m ≠ 8 then d.accessFailed m .master off
  else if key ≠ 0xC3 then d.accessFailed m .badKey off
  else if !req then d
  else (d.record .WINTER_REQUESTED 9 m (payloadOf [(1, m)])).winterCause
    (if m = 4 then .HLT_CAUSE_HOST_REQUEST else .HLT_CAUSE_SMBUS_REQUEST) EvCode.WINTER_REQUESTED.code

/-- WINTER_REQ (R405). -/
def execWinterReq (m : Master) (key : BitVec 8) (req : Bool) (s : State) : Host.Outcome State Fault Refusal :=
  s.run fun d => d.onWrite m .HLT_WINTER_REQ 0 0 fun d => d.winterReq m key.toNat req

/-- WATCHDOG_EXPIRED (R406): the watchdog of a management core expires; the core restarts from the running firmware slot. -/
def execWatchdogExpired (core : Fin 4) (s : State) : Host.Outcome State Fault Refusal :=
  s.run fun d =>
    let d1 := (d.setBit .HLT_WDOG_CORE_EXPIRED 0 core true).record .WATCHDOG_EXPIRED 9 core (payloadOf [(1, core)])
    let d2 := (d1.winterCause .HLT_CAUSE_WATCHDOG EvCode.WATCHDOG_EXPIRED.code).releaseLocks core 0
    let down := if core.val ∈ d2.mbx.coreDown then d2.mbx.coreDown else core.val :: d2.mbx.coreDown
    let d3 := { d2 with mbx := { d2.mbx with coreDown := down } }
    if core.val = 0 then d3.firmwareDown else d3

/-- CORE_RESTART_DONE (R478): a core that a watchdog restarted runs again; core 0 brings the firmware domain up. -/
def execCoreRestartDone (core : Fin 4) (s : State) : Host.Outcome State Fault Refusal :=
  s.run fun d =>
    if core.val ∉ d.mbx.coreDown then d
    else
      let d1 := { d with mbx := { d.mbx with coreDown := d.mbx.coreDown.filter (fun c => c ≠ core.val) } }
      if core.val = 0 then d1.firmwareUp else d1

end Sys2Proof.Machine
end

