-- ==== Sys2Proof/Machine/Boot.lean ====
section
/-! DEFINITION. Resets, power, boot sources and SPRING (R63 to R66, R75 to R98, R304, R305, R514 to R519, R527). -/

namespace Sys2Proof.Machine

/-! ### What a reset leaves (R75, R398) -/

/-- A field of the instances 0 to `n - 1` keeps its value across a reset. -/
def keepFld (old : Dev) (f : Field) (n : Nat) (d : Dev) : Dev :=
  (List.range n).foldl (fun d i => d.set1 f i (old.f1 f i)) d

/-- A cluster whose spare is used up stays STOPPED, each slice on the lane it serves (R126, R142, R398). -/
def Dev.keepCluster (old d : Dev) (c : Nat) : Dev :=
  let fs : List Field := [.SHADOW_STATUS_SPARE_USED, .SHADOW_STATUS_SLICE, .SHADOW_RETIRED_SLICE, .SHADOW_RETIRED_LANE,
    .SHADOW_RETIRED_CAUSE]
  let d1 := fs.foldl (fun d f => d.set1 f c (old.f1 f c)) (d.set1 .SHADOW_STATUS_PHASE c 4)
  (List.range 4).foldl (fun d g => (d.set1 .LANE_STATUS_SLICE (4 * c + g) (old.f1 .LANE_STATUS_SLICE (4 * c + g))).set1
    .LANE_STATUS_PERMANENT (4 * c + g) (old.f1 .LANE_STATUS_PERMANENT (4 * c + g))) d1

/-- The turns after a reset: none has been made, and the age of every lane's calibration counts from now (R142). -/
def turnsAt (now : Nat) : Map TurnSt :=
  (List.range 32).foldl (fun m c => Map.set .reset m c
    { TurnSt.reset with calAt := (List.range 4).foldl (fun m g => Map.set 0 m g now) [] }) []

/-- What stands in fuses or in the hold store, and spares that are used up: they do not return (R398). -/
def Dev.keptFields (old d : Dev) : Dev :=
  let kept : List (Field × Nat) :=
    [(.CLK_POWER_CYCLES, 1), (.IMG_SLOT_STATE_STATES, 1), (.IMG_OWNER_STATUS_KEY_SET, 1), (.IMG_OWNER_HASH, 12),
     (.HLT_SUM_LANE, 1), (.HLT_SUM_ENGINE_LOOKUP, 1), (.HLT_SUM_ENGINE_AUTOMATA, 1), (.TBL_STATUS_ENGINE_SPARE_USED, 4),
     (.AUT_STATUS_SPARE_USED, 4), (.AUT_STATUS_SPARE_FOR, 4), (.BUF_RETIRED_CELLS, 1), (.BUF_SPARES_USED, 1),
     (.BUF_STATUS_SPARE_USED, 1), (.HLT_D2D_SPARE_OUT_USED, 7), (.HLT_D2D_SPARE_IN_USED, 7),
     (.HLT_D2D_STATUS_SPARE_EXHAUSTED, 7)]
  ((List.range 32).filter (fun c => old.b1 .SHADOW_STATUS_SPARE_USED c)).foldl (Dev.keepCluster old)
    (kept.foldl (fun d x => keepFld old x.1 x.2 d) d)

/-- The hold store's contents, and what a mount restores. -/
def HldSt.keep (h : HldSt) : HldSt :=
  { HldSt.reset with
    zones := h.zones, zoneMap := h.zoneMap, swapping := h.swapping, lastSwap := h.lastSwap
    lastWearSave := h.lastWearSave, failedDies := h.failedDies, failedBases := h.failedBases
    commitA := h.commitA, commitB := h.commitB, capGib := h.capGib, capArea := h.capArea, deferral := h.deferral }

/-- The device after its reset: everything at its reset value but the contents of the hold store, fuses, the time since
the model's reset, and the levels on its input pins (Table 3-1). -/
def Dev.afterReset (d : Dev) : Dev :=
  let spareWires := d.wires.map (fun x => (x.1, { WireSt.reset with dead := x.2.dead, inService := x.2.inService }))
  let r : Dev := Dev.reset
  let img : ImgSt := { ImgSt.reset with slots := d.img.slots, recA := d.img.recA, recB := d.img.recB, ownerKey := d.img.ownerKey }
  let evr : Recorder := { Recorder.reset with
    area := d.evr.area, head := d.evr.head, oldest := d.evr.oldest, erase := d.evr.erase }
  let pins : Pins := { Pins.reset with
    thermtripN := d.pins.thermtripN, resetLow := d.pins.resetLow, pfail := d.pins.pfail, bootSel := d.pins.bootSel
    leaseIn := d.pins.leaseIn, leaseInB := d.pins.leaseInB, jtag := d.pins.jtag }
  let boot : BootSt := { BootSt.reset with
    powered := d.boot.powered, powerGoodAt := d.boot.powerGoodAt, inReset := true, romRuns := false
    resetCause := d.boot.resetCause, pfailLow := d.boot.pfailLow, pfailHighAt := d.boot.pfailHighAt
    resetLowAt := d.boot.resetLowAt }
  d.keptFields { r with
    now := d.now, opBase := d.opBase, draws := d.draws, out := d.out, evr := evr, hld := d.hld.keep
    buf := { r.buf with spares := d.buf.spares }, tbl := { r.tbl with spares := d.tbl.spares }
    wires := spareWires, img := img, pins := pins, boot := boot, turns := turnsAt d.now
    hlt := { r.hlt with calSaved := d.hlt.calSaved }
    fab := { r.fab with lastId := d.fab.lastId }
    mbx := { r.mbx with fuseBroken := d.mbx.fuseBroken } }

/-! ### Starting the boot ROM (R79, R517) -/

/-- The boot ROM starts, on the ring oscillator until the root PLL has locked: this instant is t0 of Table 3-6. -/
def Dev.romStart (d : Dev) : Dev :=
  let d0 := { d with boot := { d.boot with inReset := false, resetCause := none, romRuns := true, t0 := d.now, flushAt := none
                                           flushDone := false } }
  let d1 := if d0.b0 .CLK_STATUS_ROOT_LOCK then d0.afterLock else d0.set0 .CLK_STATUS_ON_RING 1
  if 4 ≤ d1.f0 .CLK_BOOT_STATUS_STRAP then d1.record .BOOT_SEL_RESERVED 0 0 (payloadOf []) else d1

/-- A release: BOOT_SEL is latched; with PFAIL_N asserted, or deasserted for less than 10 ms, the ROM waits (R517); with a
TAP instruction loaded the reset goes on (R527). -/
def Dev.released (d : Dev) (sel : Nat) : Dev :=
  let d1 := ({ d with pins := { d.pins with bootSel := sel } }).set0 .CLK_BOOT_STATUS_STRAP sel
  if d1.pins.jtag ≠ 0 then { d1 with boot := { d1.boot with resetCause := some 6 } }
  else if d1.pins.pfail ∨ d1.boot.pfailHighAt.any (fun t => decide (d1.now < t + 10 * tMs))
  then { d1 with boot := { d1.boot with resetCause := none } }
  else d1.romStart

/-- POWER_ON_RESET (R75, R516): power-good; the internal reset holds until the release.  `low` is the level of SYS_RESET_N
then. -/
def execPowerOnReset (low : Bool) (s : State) : Host.Outcome State Fault Refusal :=
  s.run fun d =>
    if d.boot.powered then d
    else
      let d1 := d.afterReset
      let pins := { d1.pins with thermtripN := false, resetLow := low }
      let boot := { d1.boot with powered := true, powerGoodAt := some d1.now, resetCause := some 0, resetLowAt := none }
      let d2 : Dev := { d1 with pins := pins, boot := boot }
      d2.set0 .CLK_POWER_CYCLES (d2.f0 .CLK_POWER_CYCLES + 1)

/-- SYS_RESET_ASSERT (R76, R517): SYS_RESET_N has been low for `ns`; a pulse shorter than 1 µs is ignored. -/
def execSysResetAssert (ns : Nat) (s : State) : Host.Outcome State Fault Refusal :=
  s.run fun d =>
    if !d.boot.powered ∨ ns < 1000 then d
    else ({ d with pins := { d.pins with resetLow := true }, boot := { d.boot with resetLowAt := some d.now } }).beginReset 1

/-- A write of CLK_RST_CMD (Table 3-9). -/
def Dev.clkRstCmd (d : Dev) (m key : Nat) (full : Bool) : Dev :=
  let off := Reg.CLK_RST_CMD.addr 0 0
  if !full then d
  else if m ≠ 4 ∧ m ≠ 8 then d.accessFailed m .master off
  else if key ≠ 0xA5 then d.accessFailed m .badKey off
  else d.beginReset (if m = 4 then 2 else 3)

/-- CLK_RST_CMD_FULL (R76). -/
def execClkRstCmdFull (m : Master) (key : BitVec 8) (s : State) : Host.Outcome State Fault Refusal :=
  s.run fun d => d.onWrite m .CLK_RST_CMD 0 0 fun d => d.clkRstCmd m key.toNat true

/-- CLK_RST_CAUSE of a reset: 5 stands for the hold after PFAIL_N was withdrawn, which reads as SYS_RESET_N (R519); the
spec gives no code for a TAP instruction, 6. -/
def Dev.showCause (d : Dev) (c : Nat) (winter : Bool) : Dev :=
  let r := d.draw
  let d1 := if c = 6 then r.2.set0 .CLK_RST_CAUSE_CAUSE r.1 else d.set0 .CLK_RST_CAUSE_CAUSE (if c = 5 then 1 else c)
  d1.set0 .CLK_RST_CAUSE_WINTER_BEFORE (b2n winter)

/-- FULL_RESET_TAKE_HOLD (R76): the internal reset takes hold after the flush.  A SYS_RESET_N that has risen before starts
the boot ROM at once. -/
def execFullResetTakeHold (s : State) : Host.Outcome State Fault Refusal :=
  s.run fun d => match d.boot.resetCause with
    | none => d
    | some c =>
      if d.boot.inReset ∨ !d.boot.flushDone then d
      else
        let d1 := d.afterReset.showCause c d.boot.winterBefore
        if c = 1 ∧ !d1.pins.resetLow then d1.released d1.pins.bootSel else d1

/-- SYS_RESET_RELEASE (R79): the rising edge of SYS_RESET_N with the levels of BOOT_SEL.  After PFAIL_N was withdrawn it
counts only once SYS_RESET_N has been low for 2 ms (R519). -/
def execSysResetRelease (sel : Fin 8) (s : State) : Host.Outcome State Fault Refusal :=
  s.run fun d =>
    if !d.boot.powered ∨ !d.pins.resetLow then d
    else
      let d1 := { d with pins := { d.pins with resetLow := false, bootSel := sel } }
      let early : Bool := decide (d.boot.resetCause = some 5) &&
        !d.boot.resetLowAt.any (fun t => decide (t + 2 * tMs ≤ d.now))
      if !d1.boot.inReset ∨ early then d1 else d1.released sel

/-- POWER_GOOD_RELEASE_TIMER (R79): SYS_RESET_N was high at power-good and is high 10 ms later. -/
def execPowerGoodReleaseTimer (sel : Fin 8) (s : State) : Host.Outcome State Fault Refusal :=
  s.run fun d =>
    if d.boot.powered ∧ d.boot.inReset ∧ d.boot.resetCause = some 0 ∧ !d.pins.resetLow ∧
        d.boot.powerGoodAt.any (fun t => decide (t + 10 * tMs ≤ d.now)) then d.released sel else d

/-- INTERNAL_RESET_RELEASE (R79): the internal reset of a CLK_RST_CMD, a TRIAL_RESET or a TAP instruction ends with
SYS_RESET_N high. -/
def execInternalResetRelease (sel : Fin 8) (s : State) : Host.Outcome State Fault Refusal :=
  s.run fun d =>
    if d.boot.powered ∧ d.boot.inReset ∧ d.boot.resetCause.any (fun c => decide (c ∈ [2, 3, 4, 6])) ∧ !d.pins.resetLow ∧
        d.pins.jtag = 0 then d.released sel else d

/-- BOOT_START_AFTER_PFAIL (R517): PFAIL_N has been deasserted for 10 ms since a release. -/
def execBootStartAfterPfail (s : State) : Host.Outcome State Fault Refusal :=
  s.run fun d =>
    if d.boot.powered ∧ d.boot.inReset ∧ d.boot.resetCause.isNone ∧ !d.pins.pfail ∧ d.pins.jtag = 0 ∧
        d.boot.pfailHighAt.all (fun t => decide (t + 10 * tMs ≤ d.now)) then d.romStart else d

/-- JTAG_INSTRUCTION (R527): a TAP instruction is loaded; one other than BYPASS or IDCODE holds the device in full reset. -/
def execJtagInstruction (scan : Bool) (s : State) : Host.Outcome State Fault Refusal :=
  s.run fun d =>
    if !d.boot.powered then d
    else
      let d1 := { d with pins := { d.pins with jtag := b2n scan } }
      if scan then d1.beginReset 6 else d1

/-! ### Power fail (R76, R77, R304, R517 to R519) -/

/-- DURABLE queues that are ACTIVE, and their open rows (PFAIL_ASSERTED). -/
def Dev.durableOpen (d : Dev) : Nat × Nat :=
  let qs := d.hld.queues.filter (fun x => x.2.active && d.clsDurable (x.1 % 8))
  (qs.length, qs.foldl (fun n x => n + b2n x.2.row.isSome + b2n x.2.chainRow.isSome) 0)

def Dev.pfailRecord (d : Dev) : Dev :=
  let x := d.durableOpen
  d.record .PFAIL_ASSERTED 0 0 (payloadOf [(2, x.1), (2, x.2)])

/-- PFAIL_ASSERT (R77, R304, R493): PFAIL_N has been low for `ns`; shorter than 200 ns is ignored.  One flush runs; `late`
says that step 7 of a running flush has begun. -/
def execPfailAssert (ns : Nat) (late : Bool) (s : State) : Host.Outcome State Fault Refusal :=
  s.run fun d =>
    if !d.boot.powered ∨ d.pins.pfail ∨ ns < 200 then d
    else
      let d1 := { d with pins := { d.pins with pfail := true }, boot := { d.boot with pfailLow := some d.now } }
      if d1.boot.inReset ∨ d1.boot.flushDone then d1
      else if d1.boot.flushAt.isSome then (if late then d1 else d1.pfailRecord)
      else
        let d2 := d1.pfailRecord
        let d3 := (if d2.evr.freezeAt.isSome then d2.evrRelease 2 else d2).abortRetrain 3
        { d3 with
          boot := { d3.boot with flushAt := some d3.now }
          hld := { d3.hld with frozen := true }
          act := { d3.act with capFifo := [] } }

/-- POWER_FAIL_FLUSH_DONE (Table 11-6): the flush ends; the event FIFO is written at step 7, the base dies are fenced. -/
def execPowerFailFlushDone (s : State) : Host.Outcome State Fault Refusal :=
  s.run fun d => match d.boot.flushAt with
    | none => d
    | some t =>
      if d.boot.flushDone then d
      else
        let d1 := d.evrPowerFlush.holdFlush ((d.now - t) / tUs)
        { d1 with boot := { d1.boot with flushDone := true }, act := { d1.act with capFifo := [] } }

/-- PFAIL_DEASSERT (R517, R519): after a flush that PFAIL_N started, the internal reset takes hold as under R76. -/
def execPfailDeassert (s : State) : Host.Outcome State Fault Refusal :=
  s.run fun d =>
    if !d.pins.pfail then d
    else
      let d1 := { d with pins := { d.pins with pfail := false }, boot := { d.boot with pfailHighAt := some d.now } }
      if d1.boot.flushAt.isSome ∧ !d1.boot.inReset ∧ d1.boot.resetCause.isNone then
        { d1 with boot := { d1.boot with resetCause := some 5, winterBefore := d.winter } }
      else d1

/-- POWER_LOST (R518): the rails leave their range; only the hold store and the fuses keep what they hold. -/
def execPowerLost (s : State) : Host.Outcome State Fault Refusal :=
  s.run fun d =>
    if !d.boot.powered then d
    else
      let d1 := d.afterReset
      { d1 with boot := { d1.boot with powered := false, powerGoodAt := none, resetCause := none } }

/-! ### Firmware and image (R64, R79 to R82, Table 3-2) -/

/-- Three failed memory dies or a failed base die: nothing in the store can be loaded (R31). -/
def Dev.storeDead (d : Dev) : Bool :=
  d.hld.outOfService || decide (3 ≤ d.hld.failedDies.length) || !d.hld.failedBases.isEmpty

/-- The start-up image: from the slots, SPI or the host, by the strap. -/
def Dev.findImage (d : Dev) (spi : Spi) (lost : List (Nat × Nat × Nat)) : Dev :=
  let strap := d.f0 .CLK_BOOT_STATUS_STRAP
  let found (d : Dev) (src slot : Nat) (img : Bytes) : Dev :=
    ({ d with img := { d.img with next := some (src, slot, img) } }).set0 .CLK_BOOT_STATUS_PHASE 5
  let trySpi (d : Dev) : Dev := match d.spiImage spi with
    | (d1, some img) => found d1 1 0 img
    | (d1, none) => d1.waitHost
  if strap = 1 then trySpi d
  else if strap = 0 ∨ strap = 3 then
    match (if d.storeDead then (d, none) else d.slotSelect lost) with
    | (d1, some x) => found d1 0 x.1 x.2
    | (d1, none) => if strap = 3 then trySpi (d1.record .BOOT_SOURCE_FALLBACK 0 0 (payloadOf [])) else d1.waitHost
  else d.waitImage

/-- Firmware starts on core 0: the monitors are up, the firmware domain too, and the image is looked for (R80, R478). -/
def Dev.startFirmware (d : Dev) (src slot version : Nat) (spi : Spi) (lost : List (Nat × Nat × Nat)) : Dev :=
  let d1 := { d with boot := { d.boot with fwRuns := true, waitFw := false, hostFw := none } }
  let d2 := ((d1.set0 .CLK_BOOT_STATUS_FW_SOURCE src).set0 .CLK_BOOT_STATUS_FW_SLOT slot).set0 .GLB_FW_VERSION version
  let d3 := { d2 with pins := { d2.pins with spiCs := false } }
  (d3.set0 .MON_STATUS_READY 1).firmwareUp.findImage spi lost

/-- The firmware slots in descending order of version, the lower slot first among equals (R80). -/
def fwOrder (a b : Option (Nat × Bool)) : List (Nat × Nat × Bool) :=
  let l := (a.map (fun x => (0, x))).toList ++ (b.map (fun x => (1, x))).toList
  match l with
  | [x, y] => if x.2.1 < y.2.1 then [y, x] else [x, y]
  | _ => l

/-- The boot ROM is ready to take firmware: the root has locked, the fuses are read, and the reserved area is mounted where
the strap names the hold store (R37, Table 3-6). -/
def Dev.romReady (d : Dev) : Bool :=
  let strap := d.f0 .CLK_BOOT_STATUS_STRAP
  d.boot.romRuns && !d.boot.inReset && !d.boot.fwRuns && (d.b0 .CLK_STATUS_ROOT_LOCK || d.b0 .CLK_STATUS_ROOT_LOST) &&
    d.boot.startAt.isNone && (d.boot.areaMounted || (strap ≠ 0 && strap ≠ 3) || d.storeDead)

/-- FIRMWARE_START (R80): the boot ROM takes the firmware of its source.  `a` and `b` are what the firmware slots hold: the
version and whether the signature verifies; `spi` is what SPI holds; `lost` the image slots with a lost stripe. -/
def execFirmwareStart (a b : Option (Nat × Bool)) (spi : Spi) (lost : List (Nat × Nat × Nat)) (s : State) :
    Host.Outcome State Fault Refusal :=
  s.run fun d =>
    if !d.romReady then d
    else
      let strap := d.f0 .CLK_BOOT_STATUS_STRAP
      let wait (d : Dev) : Dev := ({ d with boot := { d.boot with waitFw := true }, pins := { d.pins with spiCs := false } }).set0 .CLK_BOOT_STATUS_PHASE 2
      let noSource (d : Dev) : Dev := wait (d.record .BOOT_WAIT_HOST 0 0 (payloadOf []))
      let trySpi (d : Dev) : Dev := match spi.fw with
        | some v => if (spiLength spi).isSome then d.startFirmware 1 0 v spi lost else noSource d
        | none => noSource d
      match d.boot.hostFw with
      | some v => d.startFirmware 2 0 v spi lost
      | none =>
        if d.boot.waitFw then d
        else if strap = 1 then trySpi d
        else if strap = 0 ∨ strap = 3 then
          let l := if d.storeDead then [] else fwOrder a b
          let bad := (l.takeWhile (fun x => !x.2.2)).length
          let d1 := (List.range bad).foldl (fun d _ => d.record .FW_SLOT_FALLBACK 0 0 (payloadOf [])) d
          match l.find? (fun x => x.2.2) with
          | some x => d1.startFirmware 0 x.1 x.2.1 spi lost
          | none => if strap = 3 then trySpi (d1.record .BOOT_SOURCE_FALLBACK 0 0 (payloadOf [])) else noSource d1
        else wait d

/-- A host load of firmware ends: `reason` of Table 3-11, 0 for none. -/
def Dev.fwLoadEnd (d : Dev) (reason : Nat) : Dev :=
  ((d.set0 .CLK_BOOT_FW_CMD_BUSY 0).set0 .CLK_BOOT_FW_CMD_ERR (b2n (decide (reason ≠ 0)))).set0 .CLK_BOOT_FW_CMD_REASON reason

/-- The boot ROM waits for firmware from the host: BOOT_SEL names the host, or no other source held any (R82). -/
def Dev.waitsForHost (d : Dev) : Bool :=
  let strap := d.f0 .CLK_BOOT_STATUS_STRAP
  d.boot.romRuns && !d.boot.inReset && !d.boot.fwRuns && d.boot.hostFw.isNone &&
    (d.boot.waitFw || decide (strap = 2 ∨ 4 ≤ strap))

/-- GO of CLK_BOOT_FW_CMD (R82, Table 3-11): LENGTH is checked before ALIGNMENT (DESIGN CHOICE, log 27).  Reading the host's
buffer takes a time of its own. -/
def Dev.fwLoadGo (d : Dev) : Dev :=
  let len := d.f0 .CLK_BOOT_FW_LEN
  if !d.waitsForHost ∨ d.b0 .CLK_BOOT_FW_CMD_BUSY then
    (d.set0 .CLK_BOOT_FW_CMD_ERR 1).set0 .CLK_BOOT_FW_CMD_REASON 5
  else if len = 0 ∨ 67108864 < len then d.fwLoadEnd 2
  else if d.f0 .CLK_BOOT_FW_LO % 64 ≠ 0 then d.fwLoadEnd 3
  else
    let d1 := ((d.set0 .CLK_BOOT_FW_CMD_BUSY 1).set0 .CLK_BOOT_FW_CMD_ERR 0).set0 .CLK_BOOT_FW_CMD_REASON 0
    { d1 with draws := d1.draws + 1, boot := { d1.boot with fwReadAt := some (d1.now + Config.duration d1.draws) } }

/-- HOST_FW_LOAD (R82): a master sets GO. -/
def execHostFwLoad (m : Master) (s : State) : Host.Outcome State Fault Refusal :=
  s.run fun d => d.onWrite m .CLK_BOOT_FW_CMD 0 0 Dev.fwLoadGo

/-- HOST_FW_LOAD_DONE (R82): the buffer was read in full (`dma`), its signed header states `len` bytes and `version`, and
its signature verifies (`signed`).  Once the buffer has been read, the host is needed no longer (R96). -/
def execHostFwLoadDone (dma : Bool) (len version : Nat) (signed : Bool) (s : State) : Host.Outcome State Fault Refusal :=
  s.run fun d =>
    if !d.b0 .CLK_BOOT_FW_CMD_BUSY then d
    else if !dma ∨ (d.fwReading ∧ !d.hostDma 0) then d.fwLoadEnd 4
    else if d.fwReading then d
    else if len ≠ d.f0 .CLK_BOOT_FW_LEN then d.fwLoadEnd 2
    else if !signed then d.fwLoadEnd 1
    else { (d.fwLoadEnd 0) with boot := { d.boot with hostFw := some version } }

/-- IMAGE_COMMIT (R66): the verified start-up image commits and SPRING is entered. -/
def execImageCommit (s : State) : Host.Outcome State Fault Refusal :=
  s.run fun d => match d.img.next with
    | none => d
    | some (src, slot, img) =>
      if !d.boot.fwRuns ∨ !d.spring then d else (d.commit src slot img false).settleAlert

/-! ### Mounting the hold store (R91, R305 to R307, R316, R398, R416) -/

/-- Dies that failed before are found failed again (R398). -/
def Dev.refindDies (d : Dev) : Dev :=
  let dies := d.hld.failedDies.reverse ++ d.hld.failedBases.reverse.map (· + 18)
  dies.foldl Dev.failHoldDie { d with hld := { d.hld with failedDies := [], failedBases := [] } }

/-- A queue of the last run at the mount: one that was not DURABLE starts empty; one whose port or class no longer holds is
discarded; any other is restored as an ACTIVE queue (R91, R305). -/
def Dev.restoreQueue (durable : Nat) (d : Dev) (x : Nat × HoldQ) : Dev :=
  let t := x.1 % 8
  let q := x.2
  let n := q.frames.length
  let drop (d : Dev) : Dev :=
    ({ d with hld := { d.hld with strays := d.hld.strays ++ (q.pages.map HoldPage.no) } }).countN .HLD_T_DISCARDED t n
  if !bitOf durable t then drop d
  else if d.holdPolicy t = 0 ∨ (x.1 < 1024 ∧ !d.portUsed (x.1 / 8)) then
    (drop d).record .DURABLE_DISCARDED 1 (x.1 / 8) (payloadOf [(2, x.1 / 8), (1, t), (8, n)])
  else d.setHoldQ x.1 { q with active := true, restored := true, since := d.now, drained := 0, oldest := 0 }

/-- The queues and the ring of a commit, or R307 where there is none. -/
def Dev.restoreMeta (d : Dev) : Option Commit → Dev
  | some c =>
    let d1 := { d with hld := { d.hld with ring := c.ring, queues := [], strays := [] } }
    c.queues.foldl (Dev.restoreQueue c.durable) d1
  | none =>
    let zones := d.hld.zones.map (fun x => (x.1, { x.2 with wear := x.2.saved }))
    (({ d with hld := { d.hld with queues := [], strays := [], ring := ringFor d.hld.capGib, zones := zones } }).set0
      .HLD_STATUS_META_LOST 1).record .HOLD_METADATA_LOST 0 0 (payloadOf [])

/-- A saved calibration is restored over the image's entries; a bad copy is reported and skipped (R415, R416). -/
def Dev.restoreCal (d : Dev) (okA okB : Bool) : Dev :=
  match d.hlt.calSaved with
  | none => d
  | some (l, _) =>
    let bad (d : Dev) (ok : Bool) (n : Nat) : Dev :=
      if ok then d else d.record .CAL_RESTORE_FAILED 0 0 (payloadOf [(1, n), (1, 1)])
    let d1 := bad (bad d okA 0) okB 1
    if okA ∨ okB then
      (((d1.takeCals l).set0 .CAL_STATUS_SAVED 1).set0 .CAL_STATUS_RESTORED 1).record .CAL_RESTORED 0 0
        (payloadOf [(2, l.length)])
    else d1

/-- HOLD_MOUNT (R305): SPRING check 5 mounts the store.  `okA` and `okB` say that the commit copies are valid, `calA` and
`calB` that the copies of the saved calibration are. -/
def execHoldMount (okA okB calA calB : Bool) (s : State) : Host.Outcome State Fault Refusal :=
  s.run fun d =>
    if d.hld.mounted ∨ d.hld.outOfService ∨ !d.boot.committed ∨ !d.spring then d
    else
      let d0 := d.refindDies
      if d0.hld.outOfService then d0
      else
        let c := d0.hld.takeCommit okA okB
        let d1 := ({ d0 with hld := c.2 }).clearDeferral.restoreMeta c.1
        let live := d1.hld.queues.filter (fun x => x.2.restored)
        let frames := live.foldl (fun n x => n + x.2.frames.length) 0
        let h := { d1.hld with mounted := true, frozen := false, fenced := false }
        let d2 := ({ d1 with hld := h, act := { d1.act with capHead := 0 } }).set0 .HLD_STATUS_MOUNTED 1
        let d3 := d2.showCapture.record .HOLD_MOUNTED 0 0
          (payloadOf [(4, d2.hld.ring.free), (2, live.length), (8, frames)])
        let d4 := match c.1 with
          | some x => d3.record .HOLD_PF_FLUSH 0 0 (payloadOf [(2, x.us), (2, x.rows), (2, x.queues.length)])
          | none => d3
        let d5 := if live.isEmpty then d4 else d4.record .DURABLE_RESTORED 0 0 (payloadOf [(2, live.length), (8, frames)])
        let d6 := if d5.hld.strays.isEmpty then d5 else d5.startSweep
        (d6.evrMount c.1.isSome).restoreCal calA calB

/-! ### SPRING (R87 to R90) -/

/-- Spares used before this start, of any kind: check 3 reports them all (DESIGN CHOICE, log 27; Table 3-5 names memories). -/
def Dev.sparesGone (d : Dev) : Bool :=
  (List.range 32).any (fun c => d.b1 .SHADOW_STATUS_SPARE_USED c) || !d.buf.spares.isEmpty || !d.tbl.spares.isEmpty ||
    decide (d.f0 .BUF_RETIRED_CELLS ≠ 0) || d.b0 .HLT_SUM_ENGINE_LOOKUP || d.b0 .HLT_SUM_ENGINE_AUTOMATA ||
    d.wires.any (fun x => !x.2.inService.isEmpty)

/-- A SPRING check failed (Table 3-12). -/
def Dev.checkFailed (d : Dev) (n outcome mask : Nat) : Dev :=
  d.record .SPRING_CHECK_FAILED 0 0 (payloadOf [(1, n), (1, outcome), (1, mask)])

/-- A failed check that means WINTER. -/
def Dev.checkWinter (d : Dev) (n : Nat) (f : Field) : Dev :=
  let d1 := if f = .HLT_CAUSE_CONFIG then { d with hlt := { d.hlt with cfgBad := true } } else d
  (d1.checkFailed n 1 0).winterCause f EvCode.SPRING_CHECK_FAILED.code

/-- Regions that a check finds beyond use are isolated (R27). -/
def Dev.checkRegions (d : Dev) (n mask : Nat) : Dev :=
  if mask = 0 then d
  else ((List.range 4).filter (fun r => bitOf mask r)).foldl (fun d r => d.isolateRegion r EvCode.SPRING_CHECK_FAILED.code)
    (d.checkFailed n 3 mask)

/-- Check 8 passes: no pair, a resynchronised member, or no active partner found. -/
def Dev.pairChecked (d : Dev) : Bool :=
  !d.paired || d.b0 .PAIR_STATUS_SYNCED || !d.pair.partner.any (fun p => p.active)

/-- The checks passed, and the phase of CLK_BOOT_STATUS. -/
def Dev.passed (d : Dev) (n : Nat) : Dev :=
  ({ d with boot := { d.boot with checks := n } }).set0 .CLK_BOOT_STATUS_PHASE (if n < 4 then 6 else if n = 4 then 7 else 8)

/-- The outcome of check `n` (Table 3-5). -/
def Dev.springCheck (d : Dev) (n : Nat) (ok : Bool) (mask : Nat) : Dev :=
  match n with
  | 1 => if ok then d.passed 1 else d.checkWinter 1 .HLT_CAUSE_CONFIG
  | 2 => if ok then d.passed 2 else d.checkWinter 2 .HLT_CAUSE_CONFIG
  | 3 =>
    let d1 := if ok ∧ !d.sparesGone then d
      else (d.checkFailed 3 2 0).autumn .HLT_AUTUMN_CAUSE_SPARE .SPRING_CHECK_FAILED
    ((d1.checkRegions 3 mask).set0 .BUF_STATUS_READY 1).passed 3
  | 4 =>
    let d1 := d.checkRegions 4 mask
    let up := (List.range 4).filter (fun r => !d1.regionIsolated r)
    (up.foldl (fun d r => d.setReady r 1) (d1.setSharedReady 1)).passed 4
  | 5 =>
    if ok ∧ d.hld.mounted ∧ !d.hld.outOfService then d.passed 5 else ((d.checkFailed 5 4 0).holdOutOfService none).passed 5
  | 6 =>
    if (List.range 74).any (fun x => d.monState x = 2) then d.checkWinter 6 .HLT_CAUSE_THERMAL
    else if (List.range 40).any (fun v => d.monState (0x100 + v) = 2) then d.checkWinter 6 .HLT_CAUSE_VOLTAGE
    else d.passed 6
  | 7 => if (List.range 7).any (fun k => d.linkFailed k) then d.checkWinter 7 .HLT_CAUSE_D2D_LINK else d.passed 7
  | 8 => if d.pairChecked then d.passed 8 else d.checkFailed 8 5 0
  | _ => d

/-- SPRING_CHECK (R87): the next check completes.  `ok` is what the device finds by reading back (checks 1 and 2), in the
memory self-test (3: no spare consumed by it) and in the free ring and queues (5); `mask` the regions that checks 3 and 4
find beyond use. -/
def execSpringCheck (ok : Bool) (mask : Fin 16) (s : State) : Host.Outcome State Fault Refusal :=
  s.run fun d =>
    if !d.spring ∨ !d.boot.committed ∨ d.boot.waitImg ∨ d.boot.inReset then d else d.springCheck (d.boot.checks + 1) ok mask

/-- SUMMER or AUTUMN is reached: within IMG_TRIAL_TIME the trial passes and the slot is GOOD, later it has failed (R65). -/
def Dev.trialPassed (d : Dev) : Dev :=
  match d.img.trial with
  | none => d
  | some (slot, end_) =>
    if end_ < d.now then d.trialFailed
    else (({ d with img := { d.img with trial := none } }).slotState slot 4).record .IMAGE_TRIAL_PASSED 0 0 (payloadOf [])

/-- SPRING_LEFT (R88): SUMMER, or AUTUMN with an AUTUMN cause present. -/
def execSpringLeft (s : State) : Host.Outcome State Fault Refusal :=
  s.run fun d =>
    if !d.spring ∨ !d.boot.committed ∨ d.boot.waitImg ∨ d.boot.inReset ∨ d.boot.checks ≠ 8 then d
    else
      let ms := (d.now - d.boot.t0) / tMs
      let st := if d.autumnWord = 0 then 1 else 2
      let d1 := (d.set0 .CLK_BOOT_TIME ms).set0 .CLK_BOOT_STATUS_PHASE 9
      let d2 : Dev := { d1 with
        boot := { d1.boot with afterExit := false }
        fab := { d1.fab with originateDue := true }
        pins := { d1.pins with safeN := false, replaceN := false } }
      let d3 := d2.record .SPRING_LEFT 0 0 (payloadOf [(1, st), (4, ms)])
      let d4 := if st = 2 then d3.enterAutumn d3.hlt.lastCode else d3.setHealth 1 EvCode.SPRING_LEFT.code
      d4.trialPassed.settleAlert

/-- SPRING_STALLED (R90): 60 s after t0 and every 10 s from then on. -/
def execSpringStalled (s : State) : Host.Outcome State Fault Refusal :=
  s.run fun d =>
    let due := match d.boot.lastStall with
      | none => d.boot.t0 + 60 * tSec
      | some t => t + 10 * tSec
    if !d.spring ∨ !d.boot.romRuns ∨ d.boot.inReset ∨ d.now < due then d
    else ({ d with boot := { d.boot with lastStall := some d.now } }).record .SPRING_STALLED 0 0 (payloadOf [])

end Sys2Proof.Machine
end

