-- ==== Sys2Proof/Machine/Fabric.lean ====
section
/-! DEFINITION. Commands of the Neren fabric (spec/13): hellos and adjacencies, link state and routes, data frames,
addresses and notices. -/

namespace Sys2Proof.Machine

/-! ### Configuration and control frames (R349 to R352) -/

def Dev.fabInterval (d : Dev) : Nat := leAt (d.section 9 4) 4 2
def Dev.fabDead (d : Dev) : Nat := leAt (d.section 9 4) 6 2
/-- This device's FACTORY_ID. -/
def ownId : Nat := Config.serial.toNat

/-- A violation of Table 13-8; the reason is its row. -/
def Dev.fabViolation (d : Dev) (p reason : Nat) : Dev :=
  d.recordLimited .FAB_VIOLATION (k2 p reason) tSec 1 p (payloadOf [(1, p), (1, reason)])

/-- FLAGS of a hello. -/
def Dev.helloFlags (d : Dev) : Nat :=
  d.f0 .FAB_STATUS_ELECTED + 2 * d.f0 .FAB_STATUS_CONFLICT + 16 * d.health

/-- The port's hello is due: the first once its link is up, then one every HELLO_INTERVAL (R352). -/
def Dev.helloDue (d : Dev) (p : Nat) : Bool := (d.adjSt p).helloAt.all (fun t => decide (t + d.fabInterval * tMs ≤ d.now))

/-- FAB_HELLO_SEND (R352): a fabric port whose link is up sends its hello when it is due; in WINTER front ports carry
nothing (R364). -/
def execFabHelloSend (p : Port) (s : State) : Host.Outcome State Fault Refusal :=
  s.run fun d =>
    if !d.boot.fwRuns ∨ !d.fabPort p ∨ !d.linkUp p ∨ d.winter ∨ !d.helloDue p then d
    else
      ((d.setAdj p { d.adjSt p with helloAt := some d.now }).fabControl p 4 98 [0x21, 0x10, d.helloFlags, p, d.fabInterval, d.fabDead, ownId, (d.adjSt p).neighId,
        d.f0 .FAB_LSA_SEQ, d.f0 .CLK_POWER_CYCLES]).count .FAB_HELLO_TX 0

/-! ### Hellos and adjacencies (R353, R354, R359) -/

/-- The version two ranges agree on: the lower maximum, if it is not below either minimum. -/
def agreed (max1 min1 max2 min2 : Nat) : Option Nat :=
  let v := min max1 max2
  if min1 ≤ v ∧ min2 ≤ v then some v else none

/-- A pair (POWER_CYCLES, SEQ) lies after another. -/
def laterHello (p q : Nat × Nat) : Bool :=
  if p.1 = q.1 then decide (0 < (p.2 + 2 ^ 32 - q.2) % 2 ^ 32 ∧ (p.2 + 2 ^ 32 - q.2) % 2 ^ 32 < 2 ^ 31) else decide (q.1 < p.1)

/-- A hello whose TAG fails; the third in a row refuses the port for 10 s. -/
def Dev.badHelloTag (d : Dev) (p : Nat) : Dev :=
  let a := d.adjSt p
  let d1 := ((d.setAdj p { a with tagFails := a.tagFails + 1 }).count .FAB_BAD_TAG 0).fabViolation p 2
  if a.tagFails < 2 then d1
  else
    let d2 := d1.adjGo p 4 1
    d2.setAdj p { d2.adjSt p with tagFails := 0, refusedAt := some d2.now }

/-- An accepted hello drives the adjacency (Table 13-3). -/
def Dev.helloAccepted (d : Dev) (p : Nat) (h : Hello) : Dev :=
  let a := d.adjSt p
  if a.neighId ≠ 0 ∧ a.neighId ≠ h.factory then d.adjDown p 2
  else
    let st := d.adjState p
    let moved := decide (d.f1 .FAB_ADJ_NEIGH_DEV p ≠ h.srcDev)
    let d1 := ((d.setAdj p { a with neighId := h.factory, neighMac := h.srcMac }).set1 .FAB_ADJ_NEIGH_DEV p h.srcDev).set1
      .FAB_ADJ_NEIGH_PORT p h.port
    let slow := decide (d.fabDead < h.interval * 2)
    let d2 := if slow then (d1.count .FAB_INTERVAL_REFUSED 0).fabViolation p 4 else d1
    let v := agreed 0x21 0x10 h.verMax h.verMin
    match st with
    | 0 => d2.adjGo p 1 0
    | 1 =>
      if slow ∨ h.neigh ≠ ownId then d2
      else match v with
        | some v => (d2.set1 .FAB_ADJ_VERSION p v).adjGo p 2 0
        | none => ((d2.count .FAB_VERSION_MISMATCH 0).record .FAB_VERSION_ISOLATED 1 p
            (payloadOf [(1, p), (1, h.verMin), (1, h.verMax)])).adjGo p 3 0
    | 2 =>
      if slow ∨ h.neigh ≠ ownId then d2.adjGo p 1 3
      else if moved then { d2 with fab := { d2.fab with originateDue := true } } else d2
    | 3 => if v.isSome then d2.adjGo p 1 0 else d2
    | _ => d2

/-- FAB_HELLO_RECEIVE (R353, R354): a hello received on port `p` is checked and drives its adjacency. -/
def execFabHelloReceive (p : Port) (h : Hello) (s : State) : Host.Outcome State Fault Refusal :=
  s.run fun d =>
    if !d.fabPort p ∨ !d.linkUp p ∨ d.winter ∨ d.adjState p = 4 then d
    else if !h.formOk ∨ h.interval < 10 ∨ h.dead < 2 * h.interval then (d.count .FAB_BAD_FRAME 0).fabViolation p 1
    else if !h.tagOk then d.badHelloTag p
    else
      let a := d.adjSt p
      if (Map.find? a.last h.factory).any (fun q => !laterHello (h.power, h.seq) q) then d.count .FAB_REPLAYED 0
      else
        let d1 := d.setAdj p { a with
          last := Map.insert a.last h.factory (h.power, h.seq), heardAt := d.now, tagFails := 0 }
        (d1.count .FAB_HELLO_RX 0).helloAccepted p h

/-- FAB_DEAD_TIME (R354): no accepted hello for DEAD_TIME. -/
def execFabDeadTime (p : Port) (s : State) : Host.Outcome State Fault Refusal :=
  s.run fun d =>
    if d.adjState p ≠ 0 ∧ d.adjState p ≠ 4 ∧ (d.adjSt p).heardAt + d.fabDead * tMs ≤ d.now then d.adjDown p 1 else d

/-- FAB_REFUSED_END (R354). -/
def execFabRefusedEnd (p : Port) (s : State) : Host.Outcome State Fault Refusal :=
  s.run fun d =>
    if d.adjState p = 4 ∧ (d.adjSt p).refusedAt.any (fun t => decide (t + 10 * tSec ≤ d.now)) then d.adjDown p 1 else d

/-! ### Link state (R355, R361, R362) -/

/-- COST of a port's mode. -/
def modeCost : Nat → Nat
  | 1 => 1 | 2 => 2 | 3 => 4 | 4 => 8 | 5 => 16 | 6 => 40 | _ => 400

def Dev.fullPorts (d : Dev) : List Nat := (List.range 128).filter (fun p => decide (d.adjState p = 2))

/-- Milliseconds since the first FULL adjacency, saturating (Table 13-4). -/
def Dev.fabAge (d : Dev) : Nat := (d.fab.firstFull.map (fun t => min ((d.now - t) / tMs) (2 ^ 32 - 1))).getD 0

/-- A record is sent on port `p` and waits for its acknowledgement. -/
def Dev.lsaSend (d : Dev) (r : LsaRec) (p : Nat) : Dev :=
  let others := d.fab.sends.filter (fun x => x.port ≠ p ∨ x.factory ≠ r.factory)
  let d1 := { d with fab := { d.fab with sends := ⟨p, r.factory, r.seq, d.now⟩ :: others } }
  d1.fabControl p 6 (78 + 4 * r.links.length)
    ([r.origin, r.health + 4 * b2n r.conflict, r.links.length, 0, r.seq, r.age, r.factory] ++
      r.links.flatMap (fun l => [l.1, l.2.1, l.2.2]))

/-- A record is sent on every FULL adjacency but one (128 for none). -/
def Dev.lsaFlood (d : Dev) (r : LsaRec) (not : Nat) : Dev :=
  (d.fullPorts.filter (fun p => decide (p ≠ not))).foldl (fun d p => d.lsaSend r p) d

/-- The record this device originates now. -/
def Dev.ownRecord (d : Dev) : LsaRec :=
  { origin := d.fabAddr, health := d.health, conflict := d.b0 .FAB_STATUS_CONFLICT, elected := d.b0 .FAB_STATUS_ELECTED
    seq := ((d.fab.own.map (·.seq)).getD 0 + 1) % 2 ^ 32, age := d.fabAge, factory := ownId
    links := d.fullPorts.map (fun p => (d.f1 .FAB_ADJ_NEIGH_DEV p, p, modeCost (d.portMode p))), refreshed := d.now }

/-- FAB_LSA_ORIGINATE (R355): on a change, or after 10 s; two originations lie at least 20 ms apart.  The later arrival of
a conflict sends one record that says so, and no other (R361). -/
def execFabLsaOriginate (s : State) : Host.Outcome State Fault Refusal :=
  s.run fun d =>
    let due := d.fab.originateDue || d.fab.originatedAt.all (fun t => decide (t + 10 * tSec ≤ d.now))
    if !d.boot.fwRuns ∨ !d.fabMember ∨ d.winter ∨ !due ∨ (d.b0 .FAB_STATUS_CONFLICT ∧ d.fab.own.any (·.conflict)) ∨
        d.fab.originatedAt.any (fun t => decide (d.now < t + 20 * tMs)) then d
    else
      let r := d.ownRecord
      let d1 := { d with fab := { d.fab with
        own := some r, originateDue := false, originatedAt := some d.now, changedAt := some d.now } }
      (d1.set0 .FAB_LSA_SEQ r.seq).lsaFlood r 128

/-- This device gives its elected address up, and elects again (R360). -/
def Dev.giveUpAddress (d : Dev) : Dev :=
  ({ d with fab := { d.fab with originateDue := true, changedAt := some d.now } }).set0 .FAB_STATUS_ADDRESS 0 |>.set0
    .FAB_STATUS_ELECTED 0

/-- This device is the later arrival of an address conflict (R361). -/
def Dev.laterArrival (d : Dev) (r : Lsa) : Bool :=
  let own := d.fabAge
  if own + 1000 ≤ r.age then true else if r.age + 1000 ≤ own then false else decide (r.factory < ownId)

/-- Another member holds this device's address (R360, R361). -/
def Dev.addressClash (d : Dev) (r : Lsa) : Dev :=
  if r.origin = 0 ∨ r.origin ≠ d.fabAddr ∨ r.factory = ownId ∨ r.conflict then d
  else if d.b0 .FAB_STATUS_ELECTED then
    if !r.elected ∨ r.factory < ownId then d.giveUpAddress else d
  else if r.elected ∨ d.b0 .FAB_STATUS_CONFLICT ∨ !d.laterArrival r then d
  else
    let d1 := ({ d with fab := { d.fab with originateDue := true, changedAt := some d.now } }.set0 .FAB_STATUS_CONFLICT
      1).set0 .HLT_SUM_SYSTEM_CONFLICT 1
    (d1.count .FAB_CONFLICTS 0).record .FAB_ADDRESS_CONFLICT 11 r.origin
      (payloadOf [(1, r.origin), (8, ownId), (8, r.factory), (1, 0)])

/-- Another identity at a known address (R362). -/
def Dev.noteMember (d : Dev) (origin factory : Nat) : Dev :=
  if origin = 0 ∨ 254 < origin then d
  else
    let old := Map.get 0 d.fab.lastId origin
    let d1 := { d with fab := { d.fab with lastId := Map.set 0 d.fab.lastId origin factory } }
    if old = factory then d
    else if old = 0 then d1
    else ((d1.setBit .FAB_REPLACED (origin / 32) (origin % 32) true).set0 .HLT_SUM_SYSTEM_REPLACED 1).record
      .FAB_MEMBER_REPLACED 11 origin (payloadOf [(1, origin), (8, old), (8, factory)])

/-- SEQ `a` lies after `b`, modulo 2^32. -/
def seqAfter (a b : Nat) : Bool :=
  decide (0 < (a + 2 ^ 32 - b) % 2 ^ 32 ∧ (a + 2 ^ 32 - b) % 2 ^ 32 < 2 ^ 31)

/-- A record is acknowledged (TYPE 7). -/
def Dev.lsaAck (d : Dev) (p : Nat) (r : Lsa) : Dev := d.fabControl p 7 55 [r.origin, r.factory, r.seq]

/-- FAB_LSA_RECEIVE (R355): a link-state record received on port `p`. -/
def execFabLsaReceive (p : Port) (r : Lsa) (s : State) : Host.Outcome State Fault Refusal :=
  s.run fun d =>
    if !d.fabPort p ∨ d.adjState p ≠ 2 ∨ d.winter then d
    else if !r.formOk then (d.count .FAB_BAD_FRAME 0).fabViolation p 1
    else if !r.tagOk then (d.count .FAB_BAD_TAG 0).fabViolation p 2
    else if r.factory = ownId then d.lsaAck p r
    else
      let held := d.fab.lsdb.find? (fun x => x.factory == r.factory)
      if held.any (fun x => !seqAfter r.seq x.seq) then (d.count .FAB_REPLAYED 0).lsaAck p r
      else if held.isNone ∧ 256 ≤ d.fab.lsdb.length + b2n d.fab.own.isSome then
        ((d.count .FAB_LSDB_FULL_IGNORED 0).recordLimited .FAB_LSDB_FULL 0 (60 * tSec) 0 0 (payloadOf [])).lsaAck
          p r
      else
        let x : LsaRec := ⟨r.origin, r.health, r.conflict, r.elected, r.seq, r.age, r.factory, r.links, d.now⟩
        let db := x :: d.fab.lsdb.filter (fun y => y.factory ≠ r.factory)
        let d1 := { d with fab := { d.fab with lsdb := db, changedAt := some d.now } }
        let d2 := ((d1.count .FAB_LSA_RX 0).lsaAck p r).lsaFlood x p
        (d2.noteMember r.origin r.factory).addressClash r

/-- FAB_LSA_ACK_RECEIVE (R355): the acknowledgement of a record sent on port `p`. -/
def execFabLsaAckReceive (p : Port) (factory seq : Nat) (s : State) : Host.Outcome State Fault Refusal :=
  s.run fun d =>
    { d with fab := { d.fab with
      sends := d.fab.sends.filter (fun x => x.port ≠ p.val ∨ x.factory ≠ factory ∨ x.seq ≠ seq) } }

/-- FAB_LSA_RETRANSMIT (R355): sends on port `p` not acknowledged for 100 ms are repeated. -/
def execFabLsaRetransmit (p : Port) (s : State) : Host.Outcome State Fault Refusal :=
  s.run fun d =>
    let due := d.fab.sends.filter (fun x => x.port == p.val && decide (x.at_ + 100 * tMs ≤ d.now))
    due.foldl (fun d x =>
      match (d.fab.own.toList ++ d.fab.lsdb).find? (fun r => r.factory == x.factory) with
      | some r => d.lsaSend r p
      | none => { d with fab := { d.fab with sends := d.fab.sends.filter (fun y => y ≠ x) } }) d

/-- FAB_LSA_EXPIRE (R355): records not refreshed within 40 s are removed. -/
def execFabLsaExpire (s : State) : Host.Outcome State Fault Refusal :=
  s.run fun d =>
    let keep := d.fab.lsdb.filter (fun x => decide (d.now < x.refreshed + 40 * tSec))
    if keep.length = d.fab.lsdb.length then d
    else { d with fab := { d.fab with lsdb := keep, changedAt := some d.now } }

/-! ### Routes (R356, R357, R364) -/

/-- The links that both ends list, between members that routes may use: from, to, cost. -/
def fabEdges (rs : List LsaRec) : List (Nat × Nat × Nat) :=
  rs.flatMap (fun r => r.links.filterMap (fun l =>
    if rs.any (fun n => n.origin == l.1 && n.links.any (fun b => b.1 == r.origin)) then some (r.origin, l.1, l.2.2)
    else none))

/-- One round of relaxation of the distances to a destination. -/
def relax (es : List (Nat × Nat × Nat)) (m : Map Nat) : Map Nat :=
  es.foldl (fun m e =>
    match Map.find? m e.2.1, Map.find? m e.1 with
    | some x, some y => if x + e.2.2 < y then Map.insert m e.1 (x + e.2.2) else m
    | some x, none => Map.insert m e.1 (x + e.2.2)
    | none, _ => m) m

def relaxN (es : List (Nat × Nat × Nat)) : Nat → Map Nat → Map Nat
  | 0, m => m
  | n + 1, m => relaxN es n (relax es m)

/-- The members that routes may use. -/
def Dev.routable (d : Dev) : List LsaRec :=
  d.fab.own.toList ++ d.fab.lsdb.filter (fun r =>
    decide (r.origin ≠ 0) && decide (r.health ≠ 0) && decide (r.health ≠ 3) && !r.conflict)

/-- The route entry of device `a`: every next-hop port on an equal-cost shortest path, the 8 lowest. -/
def Dev.routeTo (d : Dev) (rs : List LsaRec) (a : Nat) : Route :=
  let none_ : Route := ⟨[], 0xFFFF, false⟩
  if a = 0 ∨ 255 ≤ a ∨ a = d.fabAddr ∨ d.fabAddr = 0 ∨ d.b0 .FAB_STATUS_CONFLICT then none_
  else
    let es := fabEdges rs
    let dist := relaxN es (rs.length + 1) [(a, 0)]
    let hops : List (Nat × Nat) := ((d.fab.own.map (·.links)).getD []).filterMap (fun l =>
      if es.contains (d.fabAddr, l.1, l.2.2) then (Map.find? dist l.1).map (fun x => (l.2.1, x + l.2.2)) else none)
    match (hops.map (·.2)).min? with
    | none => none_
    | some c => ⟨(((hops.filter (fun h => h.2 == c)).map (·.1)).mergeSort (· ≤ ·)).take 8, min c 0xFFFE, false⟩

/-- A route comes up: what waits for the device joins its next-hop port, and its flap timer stops (R275). -/
def Dev.routeUp (d : Dev) (a : Nat) : Dev :=
  let d0 := { d with buf := { d.buf with fabFlap := Map.set ⟨none, false⟩ d.buf.fabFlap a ⟨none, false⟩ } }
  (List.range 8).foldl (fun d t =>
    let l := d.queue (256 + a) t
    l.foldl (fun d de =>
      match d.routePort a ((de.fab.map (·.hash)).getD 0) with
      | some p => d.setQueue p t (d.queue p t ++ [de])
      | none => d.release de.chain (256 + a)) (d.setQueue (256 + a) t [])) d0

/-- A route goes down: it is recorded at most once per device and minute, and the device's flap timer starts. -/
def Dev.routeLost (d : Dev) (a : Nat) : Dev :=
  (d.recordLimited .FAB_DEVICE_UNREACHABLE a (60 * tSec) 0 0 (payloadOf [])).startFabFlap a

/-- FAB_ROUTE_COMPUTE (R356): shortest paths are computed, in `us` microseconds, and the table is switched in one
write. -/
def execFabRouteCompute (us : Nat) (s : State) : Host.Outcome State Fault Refusal :=
  s.run fun d =>
    if d.fab.changedAt.isNone then d
    else
      let rs := d.routable
      let new : Map Route := (List.range 256).filterMap (fun a =>
        let r := d.routeTo rs a
        if r.ports.isEmpty then none else some (a, r))
      let d1 := { d with fab := { d.fab with routes := new, changedAt := none } }
      let d2 := (d1.set0 .FAB_SPF_LAST us).count .FAB_SPF_RUNS 0
      (List.range 256).foldl (fun d' a =>
        match (d.routeDown a), (d'.routeDown a) with
        | false, true => d'.routeLost a
        | true, false => d'.routeUp a
        | _, _ => d') d2

/-- FAB_ROUTE_PARITY (R364): a parity error takes entry `a` down until the firmware rewrites the table. -/
def execFabRouteParity (a : Fin 256) (s : State) : Host.Outcome State Fault Refusal :=
  s.run fun d =>
    match Map.find? d.fab.routes a with
    | none => d
    | some r =>
      let d1 := { d with fab := { d.fab with
        routes := Map.insert d.fab.routes a { r with bad := true }
        changedAt := (match d.fab.changedAt with | none => some d.now | x => x) } }
      (d1.count .FAB_ROUTE_PARITY 0)

/-! ### Data frames (R351, R357 to R359) -/

/-- The fabric header of a received frame. -/
def fabHdrOf (bs : Bytes) : FabHdr :=
  { type := beAt bs 15 1 / 16, cls := beAt bs 16 1 / 4, hold := bitOf (beAt bs 16 1) 1, hop := beAt bs 17 1
    src := beAt bs 18 1, dst := beAt bs 19 1, aux := beAt bs 20 2, hash := beAt bs 22 4, seq := some (beAt bs 26 4) }

/-- A frame that the pipeline holds as fabric data. -/
def Dev.fabFrame (d : Dev) (id : Nat) : Option Rx :=
  (d.rxFrame id).bind (fun rx =>
    if d.fabPort rx.port ∧ beAt rx.bytes 12 2 = d.fabType ∧ rx.srcDev.isNone ∧ rx.pass = 0 ∧ rx.parse.isNone
    then some rx else none)

/-- Why a data frame is not carried, on a port not in FULL or by a member without an address or isolated by a conflict
(R354, R360, R361) among others: its counter and its row of Table 13-8. -/
def Dev.fabRefuses (d : Dev) (rx : Rx) : Option (Ctr × Nat) :=
  let bs := rx.bytes
  if d.adjState rx.port ≠ 2 ∨ !d.carriesData then some (.FAB_NOT_MEMBER_DROP, 6)
  else if 3 ≤ beAt bs 15 1 / 16 ∨ beAt bs 15 1 % 16 ≠ 0 ∨ beAt bs 14 1 / 16 ≠ d.f1 .FAB_ADJ_VERSION rx.port / 16 ∨
      beAt bs 18 1 = 0 ∨ bs.length < 34 then some (.FAB_BAD_FRAME, 7)
  else none

/-- HOLD as received: a link of version 1.x leaves it to the class (R359). -/
def Dev.fabHold (d : Dev) (p : Nat) (h : FabHdr) : Bool := decide (d.f1 .FAB_ADJ_VERSION p < 0x20) || h.hold

/-- SEQ at the destination: gaps and late frames per source device and class (R357). -/
def Dev.seqCheck (d : Dev) (h : FabHdr) : Dev :=
  let k := k2 h.src (d.classMap h.cls)
  let e := Map.get 0 d.fab.seqRx k
  let q := h.seq.getD 0
  let gap := (q + 2 ^ 32 - e) % 2 ^ 32
  if gap < 2 ^ 31 then
    let d1 := { d with fab := { d.fab with
      seqRx := Map.set 0 d.fab.seqRx k ((q + 1) % 2 ^ 32)
      gap := Map.update 0 d.fab.gap k (fun n => satAdd 32 n gap) } }
    d1.countN .FAB_SEQ_GAP 0 gap
  else
    ({ d with fab := { d.fab with late := Map.update 0 d.fab.late k (fun n => satAdd 32 n 1) } }).count .FAB_SEQ_LATE 0

/-- The inner frame of a fabric data frame, without its FCS. -/
def innerOf (bs : Bytes) : Bytes := (bs.drop 30).take (bs.length - 34)

/-- An inner frame is stored with the copies made of it, or is dropped where its cells were lost. -/
def Dev.storeInner (d : Dev) (id : Nat) (rx : Rx) (h : FabHdr) (l : List Copy) : Dev :=
  let inner := innerOf rx.bytes
  let d1 := d.setRx id none
  if rx.lost ≠ 0 then d1.dropLost rx l
  else
    d1.linkAll id rx.port
      { bytes := inner, hasFcs := false, marked := none, port := rx.port, region := rx.region, tc := d.classMap h.cls
        cells := cellsFor inner.length, refs := 0, lastOwner := none, crc32c := crc32c inner, cap := rx.cap
        parse := .empty rx.port, hash := h.hash, dflt := none } l

/-- The descriptor of an inner frame. -/
def Dev.innerDesc (d : Dev) (id : Nat) (rx : Rx) (h : FabHdr) : Desc :=
  { Desc.plain id (rx.bytes.length - 30) (d.classMap h.cls) h.cls with holdOk := d.fabHold rx.port h }

/-- A frame for this device: the inner frame enters the pipeline, or goes to the firmware (R351, R375); a mirror copy
goes to the port of its terminating session (R242). -/
def Dev.fabDeliver (d : Dev) (id : Nat) (rx : Rx) (h : FabHdr) : Dev :=
  let d1 := d.seqCheck h
  let inner := innerOf rx.bytes
  if h.type = 2 then
    let s := h.aux % 16
    if d.b1 .MIR_CFG_EN s ∧ d.f1 .MIR_CFG_TYPE s = 2 ∧ h.aux < 16 then
      let tc := d.f1 .MIR_CFG_TC s
      let de := { d.innerDesc id rx h with tc := tc, copy := true, holdOk := false }
      let p := d.f1 .MIR_DEST s
      d1.storeInner id rx h (if d.muted p then [] else [⟨p, if p = 134 then 0 else tc, de⟩])
    else (d1.setRx id none).count .MIR_SKIPPED (h.aux % 16)
  else if beAt inner 0 6 = 0x0180C200000E ∧ beAt inner 12 2 = d.fabType then
    (d1.setRx id none).toPort134 rx.port inner rx.cap
  else d1.setRx id (some { rx with
    bytes := inner, hasFcs := false, srcDev := some h.src, dflt := some (h.cls, d.fabHold rx.port h) })

/-- A frame in transit (R351); a mirror copy is not sent over a link of version 1.x (R359). -/
def Dev.fabTransit (d : Dev) (id : Nat) (rx : Rx) (h : FabHdr) : Dev :=
  if h.hop ≤ 1 then ((d.setRx id none).count .FAB_HOP_LIMIT_DROP 0).fabViolation rx.port 8
  else
    let d1 := d.count .FAB_TRANSIT_FRAMES 0
    let de := { d.innerDesc id rx h with fab := some { h with hop := h.hop - 1 } }
    let c := d1.deviceCopy h.dst de.tc de
    if h.type = 2 ∧ c.2.q < 128 ∧ d.f1 .FAB_ADJ_VERSION c.2.q < 0x20
    then (c.1.setRx id none).count .MIR_SKIPPED (h.aux % 16)
    else c.1.storeInner id rx h [c.2]

/-- FAB_DATA_RECEIVE (R351): the pipeline takes unicast data or a mirror copy that fabric port received as frame `id`. -/
def execFabDataReceive (id : Nat) (s : State) : Host.Outcome State Fault Refusal :=
  s.run fun d =>
    match d.fabFrame id with
    | none => d
    | some rx =>
      let h := fabHdrOf rx.bytes
      if h.type = 1 then d
      else if d.winter then (d.setRx id none).satInc .HLT_WINTER_IN_DISCARD rx.region 0 1
      else if !d.forwards then (d.setRx id none).satInc .CLK_SPRING_DISCARD rx.region 0 1
      else match d.fabRefuses rx with
        | some (c, reason) => ((d.setRx id none).count c 0).fabViolation rx.port reason
        | none =>
          let d1 := d.countSlot rx.region id rx
          if h.dst = d.fabAddr then d1.fabDeliver id rx h else d1.fabTransit id rx h

/-- FAB_MC_COPY_RECEIVE (R358): a multicast copy passes the reverse-path check and is delivered to the local mask of its
group, less the ingress port; copies for fabric ports have one hop less. -/
def execFabMcCopyReceive (id : Nat) (s : State) : Host.Outcome State Fault Refusal :=
  s.run fun d =>
    match d.fabFrame id with
    | none => d
    | some rx =>
      let h := fabHdrOf rx.bytes
      if h.type ≠ 1 then d
      else if d.winter then (d.setRx id none).satInc .HLT_WINTER_IN_DISCARD rx.region 0 1
      else if !d.forwards then (d.setRx id none).satInc .CLK_SPRING_DISCARD rx.region 0 1
      else match d.fabRefuses rx with
        | some (c, reason) => ((d.setRx id none).count c 0).fabViolation rx.port reason
        | none =>
          let d1 := d.countSlot rx.region id rx
          if d.routeDown h.src ∨ (d.route h.src).ports.head? ≠ some rx.port then (d1.setRx id none).count .FAB_RPF_DROP 0
          else
            let x := d.group h.aux
            let mask := if x.lost then 0 else putBit x.mask rx.port false
            let de := { d.innerDesc id rx h with copy := true, holdOk := false }
            let on (p : Nat) : Bool := bitOf mask p && (!d.fabPort p || decide (2 ≤ h.hop))
            let l := ((List.range 128).filter on).filterMap (d.groupCopy de { h with hop := h.hop - 1 })
            (if mask = 0 then d1.count .ACT_MC_EMPTY rx.region else d1).storeInner id rx h l

/-! ### Addresses and notices (R360, R363) -/

/-- FAB_ADDRESS_ELECT (R360): three DEAD_TIMEs after its first FULL adjacency an unaddressed member elects its
address. -/
def execFabAddressElect (s : State) : Host.Outcome State Fault Refusal :=
  s.run fun d =>
    if !d.fabMember ∨ d.fabAddr ≠ 0 ∨ leAt (d.section 9 4) 0 1 ≠ 0 ∨
        !d.fab.firstFull.any (fun t => decide (t + 3 * d.fabDead * tMs ≤ d.now)) then d
    else
      let rank := d.fab.lsdb.countP (fun r => decide (r.origin = 0) && decide (r.factory < ownId))
      let free := ((List.range 254).map (· + 1)).filter (fun a => d.fab.lsdb.all (fun r => decide (r.origin ≠ a)))
      match free[rank]? with
      | none => d.recordLimited .FAB_LSDB_FULL 0 (60 * tSec) 0 0 (payloadOf [])
      | some a =>
        let d1 := { d with fab := { d.fab with originateDue := true, changedAt := some d.now } }
        ((d1.set0 .FAB_STATUS_ADDRESS a).set0 .FAB_STATUS_ELECTED 1).record .FAB_ADDRESS_ELECTED 11 a
          (payloadOf [(1, a), (1, rank)])

/-- FAB_NOTICE_RECEIVE (R363): a notice of a member in AUTUMN is recorded once per origin and cause, and flooded on. -/
def execFabNoticeReceive (p : Port) (formOk tagOk : Bool) (origin health : Fin 256) (cause : Fin 65536) (factory : Nat)
    (s : State) : Host.Outcome State Fault Refusal :=
  s.run fun d =>
    if !d.fabPort p ∨ d.adjState p ≠ 2 ∨ d.f1 .FAB_ADJ_VERSION p ≠ 0x21 ∨ d.winter ∨ factory = ownId then d
    else if !formOk then (d.count .FAB_BAD_FRAME 0).fabViolation p 1
    else if !tagOk then (d.count .FAB_BAD_TAG 0).fabViolation p 2
    else if (origin.val, cause.val) ∈ d.fab.notices then d
    else
      let d1 := ({ d with fab := { d.fab with notices := (origin.val, cause.val) :: d.fab.notices } }).record
        .FAB_MEMBER_NOTICE 11 origin (payloadOf [(1, origin.val), (1, health.val), (2, cause.val)])
      (d1.fullPorts.filter (fun q => decide (q ≠ p.val) && decide (d1.f1 .FAB_ADJ_VERSION q = 0x21))).foldl
        (fun d q => d.fabControl q 5 70 [origin, health, cause, factory]) d1

end Sys2Proof.Machine
end

