-- ==== Sys2Proof/Machine/Lease.lean ====
section
/-! DEFINITION. The lease of a pair (spec/14): pair messages and heartbeats, renewals, claims and witnesses, the pins,
and the planned equinox. -/

namespace Sys2Proof.Machine

/-! ### Messages (R367, R368, R391, R393) -/

/-- L in ticks, and L + G in ticks. -/
def Dev.leaseTicks (d : Dev) : Nat := d.leasePeriod * tMs
def Dev.waitTicks (d : Dev) : Nat := (d.leasePeriod + d.f0 .PAIR_TIMERS_GUARD) * tMs
def pairWait (m : PairMsg) : Nat := (m.lease + m.guard) * tMs

/-- Violation rows of Table 14-12. -/
def Dev.pairViolation (d : Dev) (p reason : Nat) : Dev :=
  d.recordLimited .PAIR_VIOLATION (k2 p reason) tSec 1 p (payloadOf [(1, p), (1, reason)])
def Dev.badMsg (d : Dev) (p reason : Nat) : Dev := (d.count .PAIR_BAD_MSG 0).pairViolation p reason

/-- A role is entered: it shows in PAIR_STATUS and rings doorbell 5. -/
def Dev.setRole (d : Dev) (r : Nat) : Dev :=
  if d.f0 .PAIR_STATUS_ROLE = r then d else (d.set0 .PAIR_STATUS_ROLE r).doorbell 5

def Dev.role (d : Dev) : Nat := d.f0 .PAIR_STATUS_ROLE

/-- A higher epoch is known. -/
def Dev.learnEpoch (d : Dev) (e : Nat) : Dev :=
  if seqAfter e d.pair.epoch then { d with pair := { d.pair with epoch := e } } else d

/-- Messages of a kind on a pair link in the present second: beyond 5,000 the link is isolated for 1 s. -/
def Dev.pairRate (d : Dev) (p kind : Nat) : Dev × Bool :=
  let l := d.pairLink p
  let x := if d.now < l.since + tSec then l else { l with since := d.now, msgs := [] }
  let n := Map.get 0 x.msgs kind + 1
  let y := { x with msgs := Map.set 0 x.msgs kind n }
  if n ≤ 5000 then (d.setPairLink p y, true)
  else (((d.setPairLink p { y with isolatedUntil := some (d.now + tSec) })).badMsg p 7, false)

/-- A pair message of a kind that arrives on port `p`: whether it is taken, and what its checks leave.  `fromPartner` asks
for PARTNER as its sender. -/
def Dev.pairTake (d : Dev) (p kind : Nat) (m : PairMsg) (fromPartner : Bool) : Dev × Bool :=
  let onLink := decide (p ∈ d.pairPorts)
  if !d.boot.fwRuns ∨ !d.linkUp p ∨ d.winter ∨ (onLink ∧ (d.pairLink p).isolatedUntil.isSome) ∨ (!onLink ∧ !d.fabPort p)
  then (d, false)
  else
    let r := if onLink then d.pairRate p kind else (d, true)
    if !r.2 then r
    else if !m.formOk then (r.1.badMsg p 1, false)
    else if !m.tagOk then ((r.1.count .PAIR_BAD_TAG 0).pairViolation p 2, false)
    else if fromPartner ∧ (!d.paired ∨ m.sender ≠ d.partnerAddr) then (r.1.badMsg p 5, false)
    else r

/-- The used witness slots. -/
def Dev.witSlots (d : Dev) : List Nat := List.range d.witnessCount

/-- A message to a fabric device travels as unicast data over its route (R375); FLOW_HASH is that of its inner frame, with
the MAC address of the route's first port (log 12). -/
def Dev.pairTo (d : Dev) (a kind peer epoch seq : Nat) (body : List Nat) : Dev :=
  let p0 := (d.route a).ports.headD 0
  let hash := d.flowHash (fieldBytes [(6, 0x0180C200000E), (6, d.macSa p0), (2, d.fabType)]) (.empty p0) 0
  match d.routePort a hash with
  | some p =>
    let q := d.fabSeq (d.fabHdr 0 Config.ownClass.toNat false a 0 hash)
    q.2.sendMsg p 6 kind (102 + 4 * (body.length / 2)) (a :: hash :: q.1 :: (d.pairHeader 0x13 peer epoch seq ++ body))
  | none => d

/-- W_RENEW, W_CLAIM or W_RELEASE to the host witness through F2H mailbox 6 (R477); its reply is awaited for `wait`
ticks. -/
def Dev.hostWitness (d : Dev) (op epoch wait : Nat) : Dev :=
  let seq := d.mbx.noticeSeq
  let f (i : Nat) : Nat := ownId / 2 ^ (32 * i) % 2 ^ 32
  let body := [d.fabAddr * 256 + d.partnerAddr, epoch, d.leasePeriod * 65536 + d.f0 .PAIR_TIMERS_GUARD, f 0, f 1, f 2, f 3]
  let d1 := { d with mbx := { d.mbx with
    noticeSeq := (seq + 1) % 4096, witness := (seq, op, epoch, d.now + wait) :: d.mbx.witness } }
  d1.f2hPost 6 ⟨(3 * 2 ^ 24 + op * 2 ^ 12 + seq) :: word1 0 0 0 0 0 7 :: body, false⟩

/-- A message of a kind to every witness: RENEW 2, CLAIM 4, RELEASE 7. -/
def Dev.toWitnesses (d : Dev) (kind epoch seq : Nat) : Dev :=
  d.witSlots.foldl (fun d s =>
    if d.witness s = 0xFF then
      d.hostWitness (if kind = 2 then 0x040 else if kind = 4 then 0x041 else 0x042) epoch (if kind = 2 then 2 * tMs else 20 * tMs)
    else d.pairTo (d.witness s) kind d.partnerAddr epoch seq []) d

/-- A message of a kind to the partner over every pair link. -/
def Dev.toPartner (d : Dev) (kind epoch seq : Nat) : Dev :=
  (d.pairLinks 0x10).foldl (fun d p => d.pairSendOn p kind epoch seq 0 []) d

/-! ### Heartbeats (R368, R378, R380, R381, R389) -/

/-- STRUCT_CRC: over the BODY_CRCs of the kind S sections in section table order. -/
def Dev.structCrc (d : Dev) : Nat :=
  let img := d.img.image
  crc32c ((List.range (leAt img 0x10 2)).flatMap (fun i =>
    let e := 64 + 24 * i
    let ty := leAt img e 2
    let mask := leAt img (e + 4) 1
    let n := if mask = 0 then 4 else ((List.range 4).find? (fun j => bitOf mask j)).getD 4
    if 1 ≤ ty ∧ ty ≤ 7 then leBytes 4 (crc32c (d.section ty n)) else []))

/-- PAIR_STATUS.VERSION: the lowest version across the pair links. -/
def Dev.showVersion (d : Dev) : Dev :=
  d.set0 .PAIR_STATUS_VERSION ((((d.pairLinks 0).map (fun p => (d.pairLink p).version)).min?).getD 0)

/-- PAIR_HEARTBEAT_SEND (R368): a pair port sends its heartbeat, 1 ms after the one before, also in SPRING. -/
def execPairHeartbeatSend (p : Port) (s : State) : Host.Outcome State Fault Refusal :=
  s.run fun d =>
    let l := d.pairLink p
    let early := l.hbSent.any (fun t => decide (d.now < t + tMs))
    if p.val ∉ d.pairPorts ∨ !d.linkUp p ∨ d.winter ∨ !d.boot.fwRuns ∨ l.isolatedUntil.isSome ∨ l.refused ∨ early then d
    else
      let q := (d.setPairLink p { l with hbSent := some d.now }).pairSeq 1
      let left := (d.pair.lease.map (fun t => (t - d.now) / tUs)).getD 0
      (q.2.pairSendOn p 1 d.pair.epoch q.1 8 [left, d.structCrc]).count .PAIR_HB_TX 0

/-- A link's first heartbeat agrees its version, or refuses the link. -/
def Dev.pairNegotiate (d : Dev) (p : Nat) (m : PairMsg) : Dev × Bool :=
  let l := d.pairLink p
  if l.version ≠ 0 then (d, true)
  else match agreed 0x13 0x10 m.verMax m.verMin with
    | some v => ((d.setPairLink p { l with version := v }).showVersion, true)
    | none =>
      if l.refused then (d, false)
      else (((d.setPairLink p { l with refused := true }).count .PAIR_BAD_MSG 0).record .PAIR_VERSION_ISOLATED 1 p
        (payloadOf [(1, p), (1, m.verMin), (1, m.verMax)]), false)

/-- What a valid heartbeat says is kept; a new or changed STRUCT_CRC that differs is recorded (R389). -/
def Dev.hbHeard (d : Dev) (p : Nat) (m : PairMsg) : Dev :=
  let old := d.pair.partner
  let x : Partner := ⟨m.active, m.claiming, m.synced, m.health, m.epoch, m.structCrc⟩
  let d1 := ({ d with pair := { d.pair with hbAt := some d.now, linksLost := false, partner := some x } }).count .PAIR_HB_RX 0
  let up := !d.b0 .PAIR_STATUS_HB_OK
  let d2 := if up then (d1.set0 .PAIR_STATUS_HB_OK 1).record .PAIR_UP 0 0
      (payloadOf [(1, (d.pairLink p).version), (8, m.factory % 2 ^ 64), (8, m.factory / 2 ^ 64)]) else d1
  if m.structCrc ≠ d.structCrc ∧ (up ∨ old.all (fun y => y.structCrc ≠ m.structCrc)) then
    d2.record .PAIR_STRUCTURE_MISMATCH 0 0 (payloadOf [(4, d.structCrc), (4, m.structCrc)])
  else d2

/-- What the partner's role does to this member's: supersession, withdrawal, and the resynchronisation of a member that is
not synced from an ACTIVE partner, in SPRING or when the pair links have returned (Table 14-2, R382). -/
def Dev.hbRoles (d : Dev) (m : PairMsg) : Dev :=
  if d.isActive ∧ m.active ∧ seqAfter m.epoch d.pair.epoch then
    (((d.stopForwarding).learnEpoch m.epoch).set0 .PAIR_STATUS_SYNCED 0).record .PAIR_EQUINOX 0 0
      (payloadOf [(4, m.epoch), (1, 2), (1, 3)])
  else
    let d1 := if m.active then d.learnEpoch m.epoch else d
    if d1.role = 3 ∧ m.claiming ∧ d1.partnerAddr < d1.fabAddr then
      ({ d1 with pair := { d1.pair with claim := none } }).setRole 2
    else if d1.role = 2 ∧ m.active ∧ !d1.b0 .PAIR_STATUS_SYNCED then d1.setRole 1
    else d1

/-- PAIR_HEARTBEAT_RECEIVE (R368, R378, R380): a heartbeat received on pair port `p`. -/
def execPairHeartbeatReceive (p : Port) (m : PairMsg) (s : State) : Host.Outcome State Fault Refusal :=
  s.run fun d =>
    if p.val ∉ d.pairPorts then d
    else
      let r := d.pairTake p 1 m true
      if !r.2 then r.1
      else
        let n := r.1.pairNegotiate p m
        if n.2 then (n.1.hbHeard p m).hbRoles m else n.1

/-- PAIR_HB_LOST (R381): no valid heartbeat on any pair link for HB_MISS ms. -/
def execPairHbLost (s : State) : Host.Outcome State Fault Refusal :=
  s.run fun d =>
    if d.b0 .PAIR_STATUS_HB_OK ∧ d.pair.hbAt.any (fun t => decide (t + d.f0 .PAIR_TIMERS_HB_MISS * tMs ≤ d.now)) then
      ((d.set0 .PAIR_STATUS_HB_OK 0).record .PAIR_HB_LOST 0 0 (payloadOf [])).showVersion
    else d

/-- Both links are lost while the active goes on through its witnesses: recorded once, and SYNCED of the standby
clears. -/
def Dev.linksLost (d : Dev) : Dev :=
  if d.b0 .PAIR_STATUS_HB_OK ∨ d.pair.linksLost ∨ d.pair.hbAt.isNone then d
  else
    let d1 := ({ d with pair := { d.pair with linksLost := true } }).record .PAIR_LINKS_LOST 0 0 (payloadOf [])
    if d.isActive then d1 else d1.set0 .PAIR_STATUS_SYNCED 0

/-! ### Renewals (R374) -/

/-- The interval of renewals: 10 ms, or L / 5 below 50 ms. -/
def Dev.renewTicks (d : Dev) : Nat := if d.leasePeriod < 50 then d.leaseTicks / 5 else 10 * tMs

/-- A renewal succeeds: the timer is set to end at r + L. -/
def Dev.renewed (d : Dev) (x : Poll) : Dev :=
  ({ d with pair := { d.pair with
    lease := some (x.at_ + d.leaseTicks), renewal := some { x with done := true }, lastRenewed := some d.now } }).count
    .PAIR_RENEW_OK 0

/-- PAIR_RENEW_SEND (R374): the active sends RENEW to its partner over every pair link and to every witness. -/
def execPairRenewSend (s : State) : Host.Outcome State Fault Refusal :=
  s.run fun d =>
    if !d.isActive ∨ d.pair.lease.isNone ∨ d.winter ∨ d.pair.renewal.any (fun x => decide (d.now < x.at_ + d.renewTicks)) then d
    else
      let q := d.pairSeq 2
      let x : Poll := ⟨d.now, q.1, [], false⟩
      let d1 := { q.2 with pair := { q.2.pair with renewal := some x } }
      let d2 := (d1.toPartner 2 d.pair.epoch q.1).toWitnesses 2 d.pair.epoch q.1
      let low : Bool := match d.pair.lowSince, d.pair.lastRenewed with
        | some a, some b => decide (a ≤ b)
        | _, _ => false
      if d.witnessCount = 0 ∧ low then d2.renewed x else d2

/-- A slot has answered: PAIR_WIT_STATUS and WITNESS_ANSWERS follow. -/
def Dev.witAnswered (d : Dev) (slot : Nat) : Dev :=
  ({ d with pair := { d.pair with witAt := Map.insert d.pair.witAt slot d.now } }).count .PAIR_WITNESS_ANSWERS 0

/-- An acknowledgement of the renewal in progress, from the partner (`none`) or a witness slot. -/
def Dev.renewAck (d : Dev) (slot : Option Nat) (epoch seq : Nat) : Dev :=
  match d.pair.renewal with
  | none => d
  | some x =>
    if !d.isActive ∨ x.done ∨ x.seq ≠ seq ∨ epoch ≠ d.pair.epoch ∨ x.at_ + 2 * tMs < d.now then d
    else match slot with
      | none => d.renewed x
      | some s =>
        let slots := if s ∈ x.slots then x.slots else s :: x.slots
        if d.witnessCount < 2 * slots.length then (d.renewed { x with slots := slots }).linksLost
        else { d with pair := { d.pair with renewal := some { x with slots := slots } } }

/-- The slot of a configured witness. -/
def Dev.witSlot (d : Dev) (a : Nat) : Option Nat := d.witSlots.find? (fun s => d.witness s == a && a != 0xFF)

/-- PAIR_RENEW_ACK_RECEIVE (R374): an acknowledgement from the partner or a witness. -/
def execPairRenewAckReceive (p : Port) (m : PairMsg) (s : State) : Host.Outcome State Fault Refusal :=
  s.run fun d =>
    let r := d.pairTake p 3 m false
    if !r.2 then r.1
    else if d.paired ∧ m.sender = d.partnerAddr then r.1.renewAck none m.epoch m.seq
    else match d.witSlot m.sender with
      | some k => (r.1.witAnswered k).renewAck (some k) m.epoch m.seq
      | none => r.1.badMsg p 4

/-- PAIR_RENEW_DEADLINE (R374): a renewal not acknowledged within 2 ms has failed. -/
def execPairRenewDeadline (s : State) : Host.Outcome State Fault Refusal :=
  s.run fun d =>
    match d.pair.renewal with
    | some x =>
      if !x.done ∧ x.at_ + 2 * tMs ≤ d.now then
        ({ d with pair := { d.pair with renewal := some { x with done := true } } }).count .PAIR_RENEW_FAILED 0
      else d
    | none => d

/-- LEASE_TIMER_EXPIRE (R370, R382): the timer ends, LEASE_OUT falls and the active becomes STANDBY, which resynchronises
from the next active. -/
def execLeaseTimerExpire (s : State) : Host.Outcome State Fault Refusal :=
  s.run fun d =>
    if d.pair.lease.any (fun t => decide (t ≤ d.now)) then
      (d.stopForwarding.set0 .PAIR_STATUS_SYNCED 0).record .PAIR_LEASE_EXPIRED 0 0 (payloadOf [])
    else d

/-! ### The pins (R370, R371) -/

/-- LEASE_IN is asserted: either copy is. -/
def Dev.leaseIn (d : Dev) : Bool := d.pins.leaseIn || d.pins.leaseInB

/-- The filtered pins take their levels. -/
def Dev.setLeaseIn (d : Dev) (a b : Bool) : Dev :=
  let low := if a || b then none else match d.pair.lowSince with
    | none => some d.now
    | x => x
  let diff := if a = b then none else match d.pair.pinsDiffer with
    | none => some d.now
    | x => x
  (({ d with pins := { d.pins with leaseIn := a, leaseInB := b }
             pair := { d.pair with lowSince := low, pinsDiffer := diff } }).set0 .PAIR_STATUS_LEASE_IN (b2n a)).set0
    .PAIR_STATUS_LEASE_IN_B (b2n b)

/-- LEASE_INTERLOCK (R370, R371): the LEASE_IN copies have held their levels for 1 µs; asserted while the own timer runs
they are a WINTER cause. -/
def execLeaseInterlock (a b : Bool) (s : State) : Host.Outcome State Fault Refusal :=
  s.run fun d =>
    let d1 := d.setLeaseIn a b
    if d1.leaseIn ∧ d1.pair.lease.isSome then
      (d1.record .LEASE_INTERLOCK 0 0 (payloadOf [])).winterCause .HLT_CAUSE_INTERLOCK
        EvCode.LEASE_INTERLOCK.code
    else d1

/-- LEASE_PIN_MISMATCH (R370): the two copies have disagreed for more than 1 ms. -/
def execLeasePinMismatch (s : State) : Host.Outcome State Fault Refusal :=
  s.run fun d =>
    if d.pair.pinsDiffer.any (fun t => decide (t + tMs < d.now)) ∧ !d.b0 .HLT_AUTUMN_CAUSE_LEASE_PIN then
      ((d.set0 .HLT_SUM_SYSTEM_LEASE_PIN 1).record .LEASE_PIN_MISMATCH 0 0 (payloadOf [(1, b2n d.pins.leaseIn), (1, b2n d.pins.leaseInB)])).autumn
        .HLT_AUTUMN_CAUSE_LEASE_PIN .LEASE_PIN_MISMATCH
    else d

/-! ### Claims (R372, R377, R378) -/

/-- The claim has succeeded and LEASE_IN is low: the timer starts, and the member becomes ACTIVE. -/
def Dev.equinox (d : Dev) (x : Poll) (epoch : Nat) : Dev :=
  if d.leaseIn then d
  else
    let cause := if d.pair.handOver then 1 else 0
    let d1 := { d with
      pair := { d.pair with
        lease := some (x.at_ + d.leaseTicks), epoch := epoch, claim := none, handOver := false, lastRenewed := some d.now
        renewal := none }
      pins := { d.pins with leaseOut := true } }
    (((d1.set0 .PAIR_STATUS_LEASE_OUT 1).setRole 4).count .PAIR_EQUINOXES 0).record .PAIR_EQUINOX 0 0
      (payloadOf [(4, epoch), (1, 4), (1, cause)])

/-- The partner is silent, or neither ACTIVE nor CLAIMING. -/
def Dev.partnerQuiet (d : Dev) : Bool :=
  !d.b0 .PAIR_STATUS_HB_OK || d.pair.partner.all (fun x => !x.active && !x.claiming)

/-- The claim conditions of R377, those of R383 after a RELEASE, the delay of R378 at start-up, and the structure check of
R389. -/
def Dev.mayClaim (d : Dev) : Bool :=
  let low := d.pair.lowSince.any (fun t =>
    decide (t + (if d.witnessCount = 0 ∧ !d.pair.handOver then d.f0 .PAIR_TIMERS_GUARD * tMs else tUs) ≤ d.now))
  let waited := d.pair.handOver || d.pair.acked.all (fun x => decide (x.1 + x.2 < d.now))
  let first := d.pair.hbAt.isSome || decide (d.fabAddr < d.partnerAddr) ||
    decide (d.pair.startAt + d.waitTicks ≤ d.now)
  let alike := d.pair.partner.all (fun x => x.structCrc == d.structCrc)
  d.role == 2 && d.partnerQuiet && waited && low && !d.b0 .PAIR_STATUS_HOLD_OFF && d.forwards && d.pair.resync.isNone &&
    first && alike

/-- PAIR_CLAIM (R377): a STANDBY member whose conditions hold sends CLAIM for the next epoch; without witnesses the pins
alone decide. -/
def execPairClaim (s : State) : Host.Outcome State Fault Refusal :=
  s.run fun d =>
    if !d.mayClaim then d
    else
      let q := d.pairSeq 4
      let e := (d.pair.epoch + 1) % 2 ^ 32
      let x : Poll := ⟨d.now, q.1, [], false⟩
      let d1 := { (q.2.setRole 3) with pair := { q.2.pair with claim := some x } }
      let d2 := ((d1.count .PAIR_CLAIMS 0).toPartner 4 e q.1).toWitnesses 4 e q.1
      if d.witnessCount = 0 then d2.equinox x e else d2

/-- The claim ends without a majority: STANDBY. -/
def Dev.claimFailed (d : Dev) : Dev :=
  (({ d with pair := { d.pair with claim := none, handOver := false } }).setRole 2).linksLost

/-- PAIR_CLAIM_TIMEOUT (R372): 20 ms without a majority. -/
def execPairClaimTimeout (s : State) : Host.Outcome State Fault Refusal :=
  s.run fun d =>
    if d.role = 3 ∧ d.pair.claim.all (fun x => decide (x.at_ + 20 * tMs ≤ d.now)) then d.claimFailed else d

/-- A grant of a slot for the claim in progress. -/
def Dev.granted (d : Dev) (slot epoch : Nat) : Dev :=
  match d.pair.claim with
  | none => d
  | some x =>
    if d.role ≠ 3 ∨ epoch ≠ (d.pair.epoch + 1) % 2 ^ 32 then d
    else
      let y := { x with slots := if slot ∈ x.slots then x.slots else slot :: x.slots }
      let d1 := { d with pair := { d.pair with claim := some y } }
      if d.witnessCount < 2 * y.slots.length then d1.equinox y epoch else d1

/-- PAIR_GRANT_RECEIVE (R377): a grant from a witness; a majority with LEASE_IN low is the equinox. -/
def execPairGrantReceive (p : Port) (m : PairMsg) (s : State) : Host.Outcome State Fault Refusal :=
  s.run fun d =>
    let r := d.pairTake p 5 m false
    if !r.2 then r.1
    else match d.witSlot m.sender with
      | some k => (r.1.witAnswered k).granted k m.epoch
      | none => r.1.badMsg p 4

/-- A witness refuses: the epoch it knows is learnt, and a claimant returns to STANDBY. -/
def Dev.refusedBy (d : Dev) (epoch reason witness : Nat) : Dev :=
  let d1 := (d.count .PAIR_CLAIMS_REFUSED 0).record .PAIR_CLAIM_REFUSED (if 1 ≤ witness ∧ witness ≤ 254 then 11 else 0)
    (if 1 ≤ witness ∧ witness ≤ 254 then witness else 0) (payloadOf [(4, epoch), (1, reason), (1, witness)])
  if d.role = 3 then (d1.claimFailed).learnEpoch epoch else if d.isActive then d1 else d1.learnEpoch epoch

/-- PAIR_REFUSE_RECEIVE (R376): a refusal from the partner or a witness. -/
def execPairRefuseReceive (p : Port) (m : PairMsg) (s : State) : Host.Outcome State Fault Refusal :=
  s.run fun d =>
    let r := d.pairTake p 6 m false
    if !r.2 then r.1
    else match d.witSlot m.sender with
      | some k => (r.1.witAnswered k).refusedBy m.epoch m.reason m.sender
      | none => if d.paired ∧ m.sender = d.partnerAddr ∧ d.role ≠ 3 then r.1 else r.1.badMsg p 4

/-! ### Acknowledging and witnessing (R375, R376) -/

def WitSt.none_ : WitSt := ⟨0, 0, none, 0, false, none⟩

/-- The pair that a message belongs to. -/
def pairKey (a b : Nat) : Nat := k2 (min a b) (max a b)

def Dev.wit (d : Dev) (k : Nat) : WitSt := Map.get .none_ d.pair.wits k
def Dev.setWit (d : Dev) (k : Nat) (w : WitSt) : Dev :=
  { d with pair := { d.pair with wits := Map.set .none_ d.pair.wits k w } }

/-- An answer to a member: to the partner over the pair link it came on, to another member over its route. -/
def Dev.answer (d : Dev) (p : Nat) (m : PairMsg) (kind epoch : Nat) (body : List Nat) : Dev :=
  if p ∈ d.pairPorts then d.sendMsg p 2 kind (72 + 4 * (body.length / 2))
      (d.pairHeader (d.pairLink p).version m.sender epoch m.seq ++ body)
  else d.pairTo m.sender kind m.peer epoch m.seq body

/-- A renewal or claim is refused with the epoch known here. -/
def Dev.refuseMsg (d : Dev) (p : Nat) (m : PairMsg) (known reason : Nat) : Dev :=
  ((d.answer p m 6 known [reason, 0]).count .PAIR_CLAIMS_REFUSED 0).record .PAIR_CLAIM_REFUSED 11 d.fabAddr
    (payloadOf [(4, m.epoch), (1, reason), (1, d.fabAddr)])

/-- The wait restarts with an acknowledgement (R375, R377). -/
def Dev.noteAck (d : Dev) (m : PairMsg) : Dev :=
  { d with pair := { d.pair with acked := some (d.now, pairWait m), handOver := false } }

/-- The partner's renewal: it is acknowledged, and the own wait restarts (R377). -/
def Dev.ackPartner (d : Dev) (p : Nat) (m : PairMsg) : Dev :=
  if seqAfter d.pair.epoch m.epoch then d.refuseMsg p m d.pair.epoch 1
  else ((d.learnEpoch m.epoch).noteAck m).answer p m 3 m.epoch []

/-- WITNESS_RENEW (R376): a renewal reaches this device as the partner or as a witness. -/
def execWitnessRenew (p : Port) (m : PairMsg) (s : State) : Host.Outcome State Fault Refusal :=
  s.run fun d =>
    let r := d.pairTake p 2 m false
    if !r.2 then r.1
    else if p.val ∈ d.pairPorts then
      (if m.sender = d.partnerAddr then r.1.ackPartner p m else r.1.badMsg p 5)
    else
      let k := pairKey m.sender m.peer
      let w := d.wit k
      if seqAfter w.epoch m.epoch then r.1.refuseMsg p m w.epoch 1
      else if m.epoch = w.epoch ∧ w.holder ≠ 0 ∧ w.holder ≠ m.sender then r.1.refuseMsg p m w.epoch 2
      else
        let w1 := if m.epoch = w.epoch then { w with holder := m.sender }
          else { w with epoch := m.epoch, holder := m.sender, released := false, held := none }
        (r.1.setWit k { w1 with ackAt := some d.now, wait := (pairWait m) }).answer p m 3 m.epoch []

/-- The instant from which a witness may grant the next epoch. -/
def Dev.grantAt (d : Dev) (w : WitSt) : Nat :=
  let own := d.pair.startAt + 1005 * tMs
  if w.released then own else max own ((w.ackAt.map (fun t => t + w.wait + 1)).getD 0)

/-- A witness grants E + 1 to a claimant. -/
def Dev.grant (d : Dev) (p k : Nat) (w : WitSt) (m : PairMsg) : Dev :=
  let e := (w.epoch + 1) % 2 ^ 32
  (d.setWit k ⟨e, m.sender, some d.now, (pairWait m), false, none⟩).answer p m 5 e []

/-- WITNESS_CLAIM (R376): a claim for E + 1 is granted, or held until it may be; any other is refused. -/
def execWitnessClaim (p : Port) (m : PairMsg) (s : State) : Host.Outcome State Fault Refusal :=
  s.run fun d =>
    let r := d.pairTake p 4 m false
    if !r.2 ∨ p.val ∈ d.pairPorts then r.1
    else
      let k := pairKey m.sender m.peer
      let w := d.wit k
      if m.epoch ≠ (w.epoch + 1) % 2 ^ 32 then
        r.1.refuseMsg p m w.epoch (if seqAfter m.epoch w.epoch then 4 else 1)
      else if w.held.any (fun h => h.1 ≠ m.sender) then r.1.refuseMsg p m w.epoch 2
      else if d.grantAt w ≤ d.now then r.1.grant p k w m
      else r.1.setWit k { w with held := some (m.sender, (pairWait m), m.seq) }

/-- The held claim of a pair is granted. -/
def Dev.grantHeld (d : Dev) (a b : Nat) : Dev :=
  let k := pairKey a b
  let w := d.wit k
  match w.held with
  | some (c, wait, seq) =>
    if d.grantAt w ≤ d.now then
      let e := (w.epoch + 1) % 2 ^ 32
      (d.setWit k ⟨e, c, some d.now, wait, false, none⟩).pairTo c 5 (if c = a then b else a) e seq []
    else d
  | none => d

/-- WITNESS_CLAIM_GRANT (R376): the claim that the witness of the pair of devices `a` and `b` holds is due. -/
def execWitnessClaimGrant (a b : Fin 256) (s : State) : Host.Outcome State Fault Refusal :=
  s.run fun d => if d.winter ∨ !d.boot.fwRuns then d else d.grantHeld a b

/-- WITNESS_RELEASE (R376): the holder releases the current epoch. -/
def execWitnessRelease (p : Port) (m : PairMsg) (s : State) : Host.Outcome State Fault Refusal :=
  s.run fun d =>
    let r := d.pairTake p 7 m false
    if !r.2 ∨ p.val ∈ d.pairPorts then r.1
    else
      let k := pairKey m.sender m.peer
      let w := d.wit k
      if m.epoch = w.epoch ∧ m.sender = w.holder then (r.1.setWit k { w with released := true }).grantHeld m.sender m.peer
      else r.1

/-! ### Planned equinox and PAIR_LEASE_CMD (R383) -/

/-- The partner is STANDBY and synced, and every pair link runs version 1.3. -/
def Dev.mayRelease (d : Dev) : Bool :=
  d.isActive && d.pair.partner.any (fun x => !x.active && !x.claiming && x.synced) &&
  !(d.pairLinks 0).isEmpty && (d.pairLinks 0).all (fun p => (d.pairLink p).version == 0x13)

/-- The hand-over of the lease: the timer stops, RELEASE goes out, and the member becomes STANDBY; `cause` is that of
PAIR_EQUINOX. -/
def Dev.release_ (d : Dev) (cause : Nat) : Dev :=
  let q := d.stopForwarding.pairSeq 7
  ((q.2.toPartner 7 d.pair.epoch q.1).toWitnesses 7 d.pair.epoch q.1).record .PAIR_EQUINOX 0 0
    (payloadOf [(4, d.pair.epoch), (1, 2), (1, cause)])

/-- PAIR_LEASE_CMD is written with an OP (R383, R377); 0 does nothing. -/
def Dev.leaseCmd (d : Dev) (m op : Nat) : Dev :=
  d.pwWrite m (Reg.addr .PAIR_LEASE_CMD 0 0) .PAIR_LEASE_CMD_BUSY .PAIR_LEASE_CMD_COLLISION fun d =>
    match op with
    | 1 => if d.mayRelease then d.release_ 1 else d.set0 .PAIR_LEASE_CMD_REFUSED 1
    | 2 => d.set0 .PAIR_STATUS_HOLD_OFF 1
    | 3 => d.set0 .PAIR_STATUS_HOLD_OFF 0
    | _ => d

/-- PAIR_RELEASE (R383). -/
def execPairRelease (m : Master) (s : State) : Host.Outcome State Fault Refusal :=
  s.run fun d => d.onWrite m .PAIR_LEASE_CMD 0 0 fun d => d.leaseCmd m 1

/-- PAIR_HOLD_OFF (R377). -/
def execPairHoldOff (m : Master) (s : State) : Host.Outcome State Fault Refusal :=
  s.run fun d => d.onWrite m .PAIR_LEASE_CMD 0 0 fun d => d.leaseCmd m 2

/-- PAIR_ALLOW_CLAIMS (R377). -/
def execPairAllowClaims (m : Master) (s : State) : Host.Outcome State Fault Refusal :=
  s.run fun d => d.onWrite m .PAIR_LEASE_CMD 0 0 fun d => d.leaseCmd m 3

/-- PAIR_RELEASE_RECEIVE (R383): the partner hands over; the claim follows without the wait of R377. -/
def execPairReleaseReceive (p : Port) (m : PairMsg) (s : State) : Host.Outcome State Fault Refusal :=
  s.run fun d =>
    let r := d.pairTake p 7 m true
    if !r.2 ∨ d.role ≠ 2 ∨ m.epoch ≠ d.pair.epoch then r.1
    else { r.1 with pair := { r.1.pair with handOver := true, partner := r.1.pair.partner.map (fun x => { x with active := false }) } }

/-- PAIR_LINK_ISOLATE_END (R393). -/
def execPairLinkIsolateEnd (p : Port) (s : State) : Host.Outcome State Fault Refusal :=
  s.run fun d =>
    let l := d.pairLink p
    if l.isolatedUntil.any (fun t => decide (t ≤ d.now)) then d.setPairLink p { l with isolatedUntil := none } else d

end Sys2Proof.Machine
end

