-- ==== Sys2Proof/Machine/Spaces.lean ====
section
/-! DEFINITION. The spaces of the indirect windows (R236, R457): entries of the running image's tables, meters, flow
counters and multicast groups, as bytes. -/

namespace Sys2Proof.Machine

/-! ### Records -/

/-- A meter record (Table 9-6), with its tokens now. -/
def meterBytes (m0 : Meter) (now : Nat) : Bytes :=
  let m := m0.refill now
  leBytes 4 m.cir ++ leBytes 4 m.pir ++ leBytes 3 m.cbs ++ leBytes 1 (m.mode + 2 * b2n m.aware) ++ leBytes 3 m.pbs ++
    leBytes 1 m.lenAdj ++ leBytes 1 m.actG ++ leBytes 1 m.actY ++ leBytes 1 m.actR ++ leBytes 1 m.clsY ++
    leBytes 1 m.clsR ++ leBytes 3 0 ++ leBytes 4 (m.tc / meterUnit) ++ leBytes 4 (m.tp / meterUnit)

/-- A meter after a write of its record: the buckets keep their tokens, clipped to the new sizes, or are filled
(R240). -/
def meterOf (m0 : Meter) (now : Nat) (b : Bytes) : Meter :=
  let m := m0.refill now
  let flags := leAt b 0xB 1
  let cbs := leAt b 8 3
  let pbs := leAt b 0xC 3
  let fill := bitOf flags 2
  let tok (old size : Nat) : Nat := if fill then size * meterUnit else min old (size * meterUnit)
  { cir := leAt b 0 4, pir := leAt b 4 4, cbs := cbs, pbs := pbs, mode := flags % 2, aware := bitOf flags 1
    lenAdj := leAt b 0xF 1, actG := leAt b 0x10 1, actY := leAt b 0x11 1, actR := leAt b 0x12 1, clsY := leAt b 0x13 1
    clsR := leAt b 0x14 1, tc := tok m.tc cbs, tp := tok m.tp pbs, at_ := now, lost := false }

/-- A multicast group record (R235). -/
def groupBytes (g : Group) : Bytes := leBytes 16 g.mask ++ leBytes 1 (b2n g.prune) ++ leBytes 15 0
def groupOf (b : Bytes) : Group := ⟨leAt b 0 16, bitOf (leAt b 0x10 1) 0, false⟩

def Dev.setGroup (d : Dev) (g : Nat) (x : Group) : Dev :=
  { d with act := { d.act with groups := Map.set ⟨0, false, false⟩ d.act.groups g x } }

/-! ### Spaces (Table 17-3, Table 9-5) -/

/-- Words of an entry and entries of a space; none for an undefined SPACE. -/
def spaceShape : Nat → Option (Nat × Nat)
  | 0x01 => some (16, 64)
  | 0x02 => some (32, 64)
  | 0x03 => some (8, 4096)
  | 0x10 => some (8, 16384)
  | 0x11 => some (4, 65536)
  | 0x12 => some (8, 65536)
  | _ => none

/-- A space marked read only. -/
def spaceReadOnly (sp : Nat) : Bool := decide (sp < 0x10)

/-- The bytes of entry `i` of a space of region `n`; a record the running image lacks reads 0. -/
def Dev.spaceEntry (d : Dev) (n sp i : Nat) : Bytes :=
  match sp with
  | 0x01 => (findRec (d.section 3 n) 64 1 i).getD []
  | 0x02 => (findRec (d.section 4 n) 128 1 i).getD []
  | 0x03 => (findRec (d.section 7 n) 32 2 i).getD []
  | 0x10 => meterBytes (d.meter n i) d.now
  | 0x11 => let c := d.flowCounter n i; leBytes 8 c.1 ++ leBytes 8 c.2
  | _ => groupBytes (d.group i)

/-- Word `w` of a space; beyond the space it reads 0. -/
def Dev.spaceWord (d : Dev) (n sp w : Nat) : Nat :=
  match spaceShape sp with
  | none => 0
  | some (k, m) => if w < k * m then leAt (d.spaceEntry n sp (w / k)) (4 * (w % k)) 4 else 0

/-- An entry of a writable space is written in one update; words its format marks read only are ignored. -/
def Dev.writeEntry (d : Dev) (n sp i : Nat) (b : Bytes) : Dev :=
  match sp with
  | 0x10 => d.setMeter n i (meterOf (d.meter n i) d.now b)
  | 0x11 => d.setFlowCounter n i (leAt b 0 8, leAt b 8 8)
  | 0x12 => d.setGroup i (groupOf b)
  | _ => d

end Sys2Proof.Machine
end

