-- ==== Sys2Proof/Machine/Tables.lean ====
section
/-! DEFINITION. Commands of the forwarding tables (spec/07): learning, relocation, ageing, table transactions, trie
nodes and lookup engines. -/

namespace Sys2Proof.Machine

/-! ### Learning, relocation, ageing (R184 to R189) -/

/-- LEARN_INSERT (R184): the learn engine takes the oldest request and inserts its entry, by relocation where the
candidate set is full, or refuses it. -/
def execLearnInsert (faults : List ReadFault) (s : State) : Host.Outcome State Fault Refusal :=
  s.run fun d0 =>
    let d := d0.settle
    match d.tbl.learnQ with
    | [] => d0
    | r :: rest =>
      let d1 := ({ d with tbl := { d.tbl with learnQ := rest } }).readFaults (r.port / 32) (d.l2Cands r.mac r.vid) 0 []
        (fun _ _ => false) faults
      if (d1.l2Find r.mac r.vid).isSome then d1
      else
        let e : L2Entry :=
          { mac := r.mac, vid := r.vid, static_ := false, lock := false, hit := true, moving := false, daDrop := false
            saDrop := false, copyHost := false, destType := r.destType, dest := r.dest, action := 0xFFFF, cls := 0xFF
            learnTime := d1.opMs / 1000 % 2 ^ 32, moves := 0 }
        match d1.place 4 (d1.l2Cands r.mac r.vid) (some e) none none with
        | some d2 => d2
        | none => (d1.count .TBL_LEARN_TABLE_FULL 0).recordCounted .TBL_LEARN_TABLE_FULL 0 tSec 0 0 (fun n => [(4, n)])

/-- RELOCATION_MOVE (R186): the next occupant of the path is written to its new row, and both rows read MOVING.  A
row that meets a parity error is invalidated, and nothing moves from it (R198). -/
def execRelocationMove (faults : List ReadFault) (s : State) : Host.Outcome State Fault Refusal :=
  s.run fun d =>
    match d.tbl.reloc with
    | none => d
    | some r =>
      match r.open_, r.moves with
      | none, (a, b) :: rest =>
        let d1 := if r.table = 4 then d.readFaults 0 [a] 0 [] (fun _ _ => false) faults
          else d.readFaults r.table [] r.table [a] (fun _ _ => false) faults
        if d1.tbl.reloc.isNone then d1
        else (d1.moveWrite r.table a b).setReloc (some { r with moves := rest, open_ := some (a, b, d.now) })
      | _, _ => d

/-- RELOCATION_INVALIDATE (R186): 4 CLK_MEM cycles after the write the old row is invalidated and MOVING clears; after
the last move the new entry is written. -/
def execRelocationInvalidate (s : State) : Host.Outcome State Fault Refusal :=
  s.run fun d =>
    match d.tbl.reloc with
    | none => d
    | some r =>
      match r.open_ with
      | none => d
      | some (a, b, at_) =>
        if d.now < at_ + 2 then d
        else
          let d1 := d.moveDrop r.table a b
          let r1 := { r with open_ := none }
          if r.moves.isEmpty then d1.relocEnd r1 else d1.setReloc (some r1)

/-- AGEING_VISIT (R188): the pass visits the next row: it clears HIT, or invalidates the row.  It stops in SPRING and
WINTER, and on a member that does not age on its own (R390).  An error of a shared row is region 0's to report where no
region reads it (log 79). -/
def execAgeingVisit (faults : List ReadFault) (s : State) : Host.Outcome State Fault Refusal :=
  s.run fun d0 =>
    if !d0.ages then d0
    else
      let d := if d0.tbl.reloc.any (fun r => r.table == 4) then d0.settle else d0
      let r := d.tbl.agePos
      let d1 := { d with tbl := { d.tbl with agePos := if r + 1 < 8 * d.l2Rows then r + 1 else 0 } }
      let d1 := d1.readFaults 0 [r] 0 [] (fun _ _ => false) faults
      match d1.l2Row r with
      | none => d1
      | some e =>
        if e.static_ ∨ e.lock then d1
        else if e.hit then d1.setL2 r (some { e with hit := false })
        else (d1.setL2 r none).count .TBL_AGED 0

/-! ### Table transactions (R195 to R197) -/

/-- The descriptor at index `i` halts its ring: written back with BAD_DESCRIPTOR (R196). -/
def Dev.tblHalt (d : Dev) (n i : Nat) (desc : Bytes) : Dev :=
  let d1 := d.emit (.hostWrite (d.tblAddr n i) (patch desc 3 (leBytes 1 stBad)))
  let d2 := ((d1.set1 .TBL_RING_STATUS_HALTED n 1).set1 .TBL_RING_STATUS_HALT_INDEX n i).set1 .TBL_RING_STATUS_ENABLED n 0
  (d2.record .TBL_RING_HALTED 4 n (payloadOf [(1, n), (2, i), (1, leAt desc 0 1), (1, leAt desc 1 1)])).raise (288 + n)

/-- The ring of region `n` halts at the descriptor at HEAD, or, where that is sound, at the second of the pair: HEAD then
stands at the second, so that a restart goes on after both (DEDUCED, log 79). -/
def Dev.tblStop (d : Dev) (n : Nat) (desc next : Bytes) : Dev :=
  if d.tblBad desc next then d.tblHalt n (d.f1 .TBL_RING_HEAD n) desc
  else
    let d1 := d.tblAdvance n 1
    d1.tblHalt n (d1.f1 .TBL_RING_HEAD n) next

/-- An INSERT of region `n`'s ring that relocates entries is brought to its end: a ring's descriptors complete in ring
order (R195). -/
def Dev.tblOrder (d : Dev) (n : Nat) : Dev :=
  match d.tbl.reloc with
  | some r => if r.back.any (fun b => (Nat.unpair b.1).1 == n) then d.settle else d
  | none => d

/-- The ring of region `n` takes the descriptor at HEAD, whose operation is `op`; a bad one halts the ring.  `f` answers
the status, the row and the data to write back, or nothing where the transaction completes later. -/
def Dev.tblTake (d : Dev) (n op : Nat) (desc next : Bytes)
    (f : Dev → Nat → Dev × Option (Nat × Nat × Bytes)) : Dev :=
  if !d.tblReady n ∨ leAt desc 0 1 ≠ op then d
  else if d.tblBad desc next ∨ tblNextBad desc next then (d.tblOrder n).tblStop n desc next
  else
    let d0 := d.tblOrder n
    let i := d0.f1 .TBL_RING_HEAD n
    let r := f d0 i
    let d1 := r.1.tblAdvance n (if tblCont desc next then 2 else 1)
    match r.2 with
    | none => d1
    | some (st, row, data) =>
      let d2 := d1.tblDone n i desc st row (data.take 48)
      if tblCont desc next ∧ op ≠ 2 ∧ op ≠ 3 then
        d2.emit (.hostWrite (d0.tblAddr n (i + 1)) (patch next 0x10 (data.drop 48)))
      else d2

/-- An entry's bytes with MOVING where it moves, and the status that goes with them (R187). -/
def Dev.readEntry (d : Dev) (t n row : Nat) : Bytes × Bool :=
  if t = 0 then
    match d.l2Row row with
    | some e => (l2Bytes e ++ List.replicate 16 0, e.moving)
    | none => (List.replicate 64 0, false)
  else
    match d.exRow n row with
    | some e => (exBytes e, e.moving)
    | none => (List.replicate 64 0, false)

/-- CLEAR_HIT of a READ_ROW or LOOKUP (R194): in both rows of an entry that moves. -/
def Dev.clearHit (d : Dev) (t n row : Nat) (desc : Bytes) : Dev :=
  if !bitOf (leAt desc 2 1) 1 then d
  else if t = 0 then (match d.l2Row row with
    | some e => d.l2Update e.mac e.vid (fun e => { e with hit := false })
    | none => d)
  else (match d.exRow n row with
    | some e => d.exUpdate n e.key (fun e => { e with hit := false })
    | none => d)

/-- The rows that a key operation on a hashed table reads: the candidates of its key. -/
def Dev.keyRows (d : Dev) (t : Nat) (data : Bytes) : List Nat :=
  if t = 0 then d.l2Cands (beAt data 0 6) (leAt data 6 2 % 4096) else d.exCands (leAt data 0 40)

/-- The reads of a key operation on table `t` (0 layer 2, 3 region `g`'s exact match) meet `faults` (R198). -/
def Dev.keyReads (d : Dev) (n t g : Nat) (data : Bytes) (faults : List ReadFault) : Dev :=
  if t = 0 then d.readFaults n (d.keyRows t data) g [] (fun _ _ => false) faults
  else d.readFaults n [] g (d.keyRows t data) (fun _ _ => false) faults

/-- Contents that a row of a trie's node memory shows: what the last WRITE_ROW gave it, or, not written since the nodes
last changed, a free value: the spec gives no layout for the node memory (log 8). -/
def Dev.nodeRow (d : Dev) (v6 : Bool) (row : Nat) : Dev × Bytes :=
  match Map.get none d.tbl.nodeRows (k2 (b2n v6) row) with
  | some (true, b) => (d, b)
  | _ => let r := d.draw; (r.2, leBytes 48 r.1)

/-- TBL_READ_ROW (R195): a row of any table.  A row that meets a parity error is read invalidated (R198, R246). -/
def execTblReadRow (n : Region) (desc next : List (BitVec 8)) (faults : List ReadFault) (s : State) :
    Host.Outcome State Fault Refusal :=
  s.run fun d => d.tblTake n 1 desc next fun d _ =>
    let t := leAt desc 1 1
    let g := leAt desc 0xB 1
    let row := leAt desc 4 4
    if t = 0 ∨ t = 3 then
      let d1 := d.readFaults n (if t = 0 then [row] else []) g (if t = 3 then [row] else []) (fun _ _ => false) faults
      let e := d1.readEntry t g row
      (d1.clearHit t g row desc, some (if e.2 then stMoving else stOk, row, e.1))
    else if t = 4 then
      let d1 := d.hopRead g row faults
      (d1, some (stOk, row, ((d1.hop g row).map hopBytes).getD [] ++ List.replicate 48 0))
    else
      let d1 := d.readFaults n [] g [] (fun x w => x.v6 == (t == 2) && w == row) faults
      let r := d1.nodeRow (t == 2) row
      (r.1, some (stOk, row, r.2))

/-- TBL_WRITE_ROW (R195, R197): the entry takes its row, or invalidates it; a key that does not belong there is
WRONG_ROW.  A row that a move uses is written after the move.  A row of a trie's node memory takes the bytes as they are. -/
def execTblWriteRow (n : Region) (desc next : List (BitVec 8)) (s : State) : Host.Outcome State Fault Refusal :=
  s.run fun d => d.tblTake n 2 desc next fun d0 _ =>
    let t := leAt desc 1 1
    let g := leAt desc 0xB 1
    let row := leAt desc 4 4
    let data := tblData desc next
    let d := d0.settle
    let back (d : Dev) (st : Nat) : Dev × Option (Nat × Nat × Bytes) := (d, some (st, row, data))
    if t = 0 then
      let e := l2Of data
      if !bitOf (leAt data 8 1) 0 then back (d.setL2 row none) stOk
      else if row ∈ d.l2Cands e.mac e.vid then back (d.setL2 row (some e)) stOk
      else back d stWrongRow
    else if t = 3 then
      let e := exOf data
      if !bitOf (leAt data 0x2A 1) 0 then back (d.setEx g row none) stOk
      else if row ∈ d.exCands e.key then back (d.setEx g row (some e)) stOk
      else back d stWrongRow
    else if t = 4 then back (d.setHop g row (hopOf data)) stOk
    else back { d with tbl := { d.tbl with
      nodeRows := Map.set none d.tbl.nodeRows (k2 (b2n (t == 2)) row) (some (true, data.take 48)) } } stOk

/-- TBL_INSERT (R195): an entry with the key is replaced in its row; a new one is placed by R186. -/
def execTblInsert (n : Region) (desc next : List (BitVec 8)) (faults : List ReadFault) (s : State) :
    Host.Outcome State Fault Refusal :=
  s.run fun d => d.tblTake n 3 desc next fun d0 i =>
    let t := leAt desc 1 1
    let g := leAt desc 0xB 1
    let data := tblData desc next
    let lock := bitOf (leAt desc 2 1) 0
    let d := d0.settle.keyReads n t g data faults
    let ended (r : Option Dev) : Dev × Option (Nat × Nat × Bytes) := match r with
      | some d1 => (d1, none)
      | none => (d, some (stNoSpace, leAt desc 4 4, data))
    if t = 0 then
      let e := l2Of data
      let e := { e with lock := e.lock || lock }
      match d.l2Find e.mac e.vid with
      | some (r, _) => (d.setL2 r (some e), some (stReplaced, r, data))
      | none => ended (d.place 4 (d.l2Cands e.mac e.vid) (some e) none (some (k2 n i, desc)))
    else
      let e := exOf data
      let e := { e with lock := e.lock || lock }
      match d.exFind g e.key with
      | some (r, _) => (d.setEx g r (some e), some (stReplaced, r, data))
      | none => ended (d.place g (d.exCands e.key) none (some e) (some (k2 n i, desc)))

/-- TBL_DELETE (R195): the entry with the key is invalidated, locked or not. -/
def execTblDelete (n : Region) (desc next : List (BitVec 8)) (faults : List ReadFault) (s : State) :
    Host.Outcome State Fault Refusal :=
  s.run fun d => d.tblTake n 4 desc next fun d0 _ =>
    let t := leAt desc 1 1
    let g := leAt desc 0xB 1
    let data := tblData desc next
    let d := d0.settle.keyReads n t g data faults
    if t = 0 then
      match d.l2Find (beAt data 0 6) (leAt data 6 2 % 4096) with
      | some (r, _) => (d.setL2 r none, some (stOk, r, data))
      | none => (d, some (stNotFound, leAt desc 4 4, data))
    else
      match d.exFind g (leAt data 0 40) with
      | some (r, _) => (d.setEx g r none, some (stOk, r, data))
      | none => (d, some (stNotFound, leAt desc 4 4, data))

/-- TBL_LOOKUP (R195): the entry with the key, and its row. -/
def execTblLookup (n : Region) (desc next : List (BitVec 8)) (faults : List ReadFault) (s : State) :
    Host.Outcome State Fault Refusal :=
  s.run fun d => d.tblTake n 5 desc next fun d0 _ =>
    let t := leAt desc 1 1
    let g := leAt desc 0xB 1
    let data := tblData desc next
    let d := d0.keyReads n t g data faults
    let r := if t = 0 then (d.l2Find (beAt data 0 6) (leAt data 6 2 % 4096)).map (·.1)
      else (d.exFind g (leAt data 0 40)).map (·.1)
    match r with
    | none => (d, some (stNotFound, leAt desc 4 4, data))
    | some row =>
      let e := d.readEntry t g row
      (d.clearHit t g row desc, some (if e.2 then stMoving else stOk, row, e.1))

/-! ### Prefixes (R190 to R193) -/

/-- The prefixes of a family, at `k2 length bits`. -/
def Dev.lpm (d : Dev) (v6 : Bool) : Map (Option Nat) := if v6 then d.tbl.lpm6 else d.tbl.lpm4
def Dev.setLpm (d : Dev) (v6 : Bool) (m : Map (Option Nat)) : Dev :=
  { d with tbl := if v6 then { d.tbl with lpm6 := m } else { d.tbl with lpm4 := m } }

/-- The prefix a descriptor names: family, length and its leading bits. -/
def prefixOf (desc : Bytes) : Bool × Nat × Nat :=
  let v6 := leAt desc 1 1 == 2
  let len := leAt desc 0xA 1
  (v6, len, if v6 then beAt desc 0x10 16 / 2 ^ (128 - len) else beAt desc 0x10 4 / 2 ^ (32 - len))

/-- Node memory in use, KiB: the nodes of the prefixes, and old nodes not yet freed. -/
def Dev.lpmUsed (d : Dev) (v6 : Bool) : Nat :=
  Config.trieNodes v6 ((d.lpm v6).map (fun x => Nat.unpair x.1)) +
    d.tbl.oldNodes.foldl (fun n x => if x.2.1 == v6 then n + x.2.2 else n) 0

/-- The changed nodes are switched in by one write: the old ones, of `old` KiB, are freed 1 µs later, and a node under
rebuild on the prefix's path is replaced with them (R193, R198).  Node rows that WRITE_ROW gave are no longer known. -/
def Dev.lpmSwitch (d : Dev) (old : Nat) (v6 : Bool) (len bits : Nat) (m : Map (Option Nat)) : Dev :=
  let on (x : TrieNode) : Bool := x.v6 == v6 && decide (x.bits ≤ len) && decide (bits / 2 ^ (len - x.bits) = x.path)
  let d1 := d.setLpm v6 m
  { d1 with tbl := { d1.tbl with
      oldNodes := (d.now, v6, old) :: d1.tbl.oldNodes, nodesDown := d1.tbl.nodesDown.filter (fun x => !on x.1)
      nodeRows := d1.tbl.nodeRows.map (fun x => if (Nat.unpair x.1).1 = b2n v6 then (x.1, x.2.map (fun y => (false, y.2))) else x) } }

/-- The nodes that a prefix operation reads: those on the prefix's path (R198). -/
def Dev.prefixReads (d : Dev) (n : Nat) (p : Bool × Nat × Nat) (faults : List ReadFault) : Dev :=
  d.readFaults n [] n [] (fun x _ => decide (x.bits ≤ p.2.1) &&
    x.on (p.1, p.2.2 * 2 ^ ((if p.1 then 128 else 32) - p.2.1))) faults

/-- Whether a /64 leaf bucket already holds 8 prefixes. -/
def Dev.bucketFull (d : Dev) (len bits : Nat) : Bool :=
  let top := bits / 2 ^ (len - 64)
  let n := (d.lpm true).countP (fun x =>
    let k := Nat.unpair x.1
    decide (64 < k.1) && decide (k.2 / 2 ^ (k.1 - 64) = top))
  decide (64 < len) && decide (8 ≤ n)

/-- TBL_PREFIX_ADD (R193): the prefix takes its next hop, or NO_SPACE: where a leaf bucket is full, or where the nodes after
the change do not fit beside the old ones that stand until they are freed (how much the change replaces is a free value). -/
def execTblPrefixAdd (n : Region) (desc next : List (BitVec 8)) (faults : List ReadFault) (s : State) :
    Host.Outcome State Fault Refusal :=
  s.run fun d => d.tblTake n 6 desc next fun d0 _ =>
    let p := prefixOf desc
    let d := d0.prefixReads n p faults
    let key := k2 p.2.1 p.2.2
    let m := Map.set none (d.lpm p.1) key (some (leAt desc 0x20 3 % 2 ^ 18))
    let data := tblData desc next
    let row := leAt desc 4 4
    let old := d.draw
    let new := (Map.get none (d.lpm p.1) key).isNone
    if (new ∧ p.1 ∧ d.bucketFull p.2.1 p.2.2) ∨ d.carve (if p.1 then 3 else 2) * 1024 < (d.setLpm p.1 m).lpmUsed p.1 + old.1
    then (old.2, some (stNoSpace, row, data))
    else (old.2.lpmSwitch old.1 p.1 p.2.1 p.2.2 m, some (stOk, row, data))

/-- TBL_PREFIX_DEL (R193). -/
def execTblPrefixDel (n : Region) (desc next : List (BitVec 8)) (faults : List ReadFault) (s : State) :
    Host.Outcome State Fault Refusal :=
  s.run fun d => d.tblTake n 7 desc next fun d0 _ =>
    let p := prefixOf desc
    let d := d0.prefixReads n p faults
    let key := k2 p.2.1 p.2.2
    let data := tblData desc next
    if (Map.get none (d.lpm p.1) key).isNone then (d, some (stNotFound, leAt desc 4 4, data))
    else
      let old := d.draw
      (old.2.lpmSwitch old.1 p.1 p.2.1 p.2.2 (Map.set none (d.lpm p.1) key none), some (stOk, leAt desc 4 4, data))

/-- TBL_PREFIX_GET (R195): the next hop of the exact prefix, in DATA bytes 0x10 to 0x12. -/
def execTblPrefixGet (n : Region) (desc next : List (BitVec 8)) (faults : List ReadFault) (s : State) :
    Host.Outcome State Fault Refusal :=
  s.run fun d => d.tblTake n 8 desc next fun d0 _ =>
    let p := prefixOf desc
    let d := d0.prefixReads n p faults
    let data := tblData desc next
    match Map.get none (d.lpm p.1) (k2 p.2.1 p.2.2) with
    | none => (d, some (stNotFound, leAt desc 4 4, data))
    | some h => (d, some (stOk, leAt desc 4 4, patch data 0x10 (leBytes 3 h)))

/-- TBL_FLUSH (R195): dynamic, unlocked entries whose DEST and VID match DATA bytes 0x00 to 0x03 under the masks of
bytes 0x04 to 0x07 are invalidated. -/
def execTblFlush (n : Region) (desc next : List (BitVec 8)) (s : State) : Host.Outcome State Fault Refusal :=
  s.run fun d => d.tblTake n 9 desc next fun d0 _ =>
    let d := d0.settle
    let data := tblData desc next
    let same (v off : Nat) : Bool := Nat.land (Nat.xor v (leAt data off 2)) (leAt data (off + 4) 2) == 0
    let gone (e : L2Entry) : Bool := !e.static_ && !e.lock && same e.dest 0 && same e.vid 2
    ((d.tbl.l2.filter (fun x => x.2.any gone)).foldl (fun d x => d.setL2 x.1 none) d, some (stOk, leAt desc 4 4, data))

/-- TBL_BAD_DESCRIPTOR (R196): the ring of a region takes a descriptor, or a pair, that halts it. -/
def execTblBadDescriptor (n : Region) (desc next : List (BitVec 8)) (s : State) : Host.Outcome State Fault Refusal :=
  s.run fun d => if d.tblReady n ∧ (d.tblBad desc next ∨ tblNextBad desc next) then (d.tblOrder n).tblStop n desc next else d

/-- A write of RESTART: a halted ring resumes at the next descriptor (R196). -/
def Dev.tblRestart (d : Dev) (n : Nat) : Dev :=
  if d.b1 .TBL_RING_STATUS_HALTED n then
    ((d.set1 .TBL_RING_STATUS_HALTED n 0).set1 .TBL_RING_STATUS_ENABLED n (d.f1 .TBL_RING_CTRL_ENABLE n)).tblAdvance n 1
  else d

/-- TBL_RING_RESTART (R196). -/
def execTblRingRestart (m : Master) (n : Region) (s : State) : Host.Outcome State Fault Refusal :=
  s.run fun d => d.onWrite m .TBL_RING_CTRL n 0 fun d => d.tblRestart n

/-! ### Trie nodes (R193, R198) -/

/-- TRIE_OLD_NODES_FREE (R193): nodes replaced 1 µs ago are freed. -/
def execTrieOldNodesFree (s : State) : Host.Outcome State Fault Refusal :=
  s.run fun d =>
    { d with tbl := { d.tbl with oldNodes := d.tbl.oldNodes.filter (fun x => decide (d.now < x.1 + tUs)) } }

/-- TRIE_NODE_REBUILT (R198): the node with `bits` leading bits `path` is rebuilt from its prefix records.  The
payload codes the family as LPM_FAMILY does, 0 IPv4 and 1 IPv6 (DEDUCED, log 79). -/
def execTrieNodeRebuilt (v6 : Bool) (bits path : Nat) (s : State) : Host.Outcome State Fault Refusal :=
  s.run fun d =>
    match d.tbl.nodesDown.find? (fun x => x.1 == ⟨v6, bits, path⟩) with
    | none => d
    | some x =>
      ({ d with tbl := { d.tbl with nodesDown := d.tbl.nodesDown.filter (fun y => y.1 ≠ x.1) } }).record
        .TRIE_NODE_REBUILT 0 0 (payloadOf [(1, b2n v6), (4, x.2)])

/-! ### Lookup engines (R200) -/

/-- LOOKUP_ENGINE_SPARED (R200): a lookup engine of region `n` has an uncorrectable error.  The frames whose lookups it
held (`frames`) are dropped; the spare takes over, or the region is isolated. -/
def execLookupEngineSpared (n : Region) (frames : List Nat) (s : State) : Host.Outcome State Fault Refusal :=
  s.run fun d =>
    if d.regionIsolated n then d
    else
      let held := frames.dedup.filter (fun id => (d.rxFrame id).any (fun r => r.region == n.val && r.res.isNone))
      let d1 := (held.foldl (fun d id => d.setRx id none) d).countN .TBL_ENGINE_DROP n held.length
      if d1.b1 .TBL_STATUS_ENGINE_SPARE_USED n then
        (d1.record .LOOKUP_CLUSTER_EXHAUSTED 0 0 (payloadOf [])).isolateRegion n
          EvCode.LOOKUP_CLUSTER_EXHAUSTED.code
      else
        let d2 := ((d1.set1 .TBL_STATUS_ENGINE_SPARE_USED n 1).setBit .HLT_SUM_ENGINE_LOOKUP 0 n true).setBit
          .HLT_SUM_UNIT_REGION_UNIT 0 n true
        ((d2.record .LOOKUP_ENGINE_SPARED 0 0 (payloadOf [])).raise (288 + n)).spareUsed .LOOKUP_ENGINE_SPARED

end Sys2Proof.Machine
end

