-- ==== Sys2Proof/Machine/Tcam.lean ====
section
/-! DEFINITION. Commands of the TCAM (spec/08): transactions, ordered insertion and the shadow scan (R208 to R212). -/

namespace Sys2Proof.Machine

/-! ### Layout of an entry (Table 8-1) -/

/-- The key of a descriptor and, for a 640-bit partition, of its second half, at offset `o`. -/
def tcmKey (wide : Bool) (desc next : Bytes) (o : Nat) : Nat :=
  leAt desc o 40 + (if wide then leAt next o 40 * 2 ^ 320 else 0)

/-- The entry that a descriptor spells; VALUE AND MASK is stored (R206). -/
def tcmEntry (wide : Bool) (desc next : Bytes) : TcamEntry :=
  let mask := tcmKey wide desc next 0x48
  { value := Nat.land (tcmKey wide desc next 0x20) mask, mask := mask, prio := leAt desc 0xA 2, action := leAt desc 0xC 2
    param := leAt desc 0x10 4 }

/-- A descriptor with an entry, its index and STATUS written back. -/
def tcmBack (desc : Bytes) (status index : Nat) (e : Option TcamEntry) : Bytes :=
  let d1 := patch (patch desc 3 (leBytes 1 status)) 4 (leBytes 4 index)
  match e with
  | none => d1
  | some e => patch (patch (patch d1 0xA (leBytes 2 e.prio ++ leBytes 2 e.action)) 0x10 (leBytes 4 e.param)) 0x20
      (leBytes 40 e.value ++ leBytes 40 e.mask)

/-- The second half of a 640-bit entry. -/
def tcmBackHi (next : Bytes) (e : Option TcamEntry) : Bytes :=
  match e with
  | none => next
  | some e => patch next 0x20 (leBytes 40 (e.value / 2 ^ 320) ++ leBytes 40 (e.mask / 2 ^ 320))

/-- Status WRONG_MODE, added to Table 7-11 (R209). -/
def stWrongMode : Nat := 9

/-! ### Rings (R209) -/

/-- Whether region `n`'s TCM ring takes a descriptor. -/
def Dev.tcmReady (d : Dev) (n : Nat) : Bool :=
  d.b1 .TCM_RING_CTRL_ENABLE n && !d.b1 .TCM_RING_STATUS_HALTED n && d.b0 .TCM_STATUS_READY &&
  decide (d.f1 .TCM_RING_HEAD n ≠ d.f1 .TCM_RING_TAIL n) && !d.regionIsolated n && d.hostDma 0

def Dev.tcmAddr (d : Dev) (n i : Nat) : Nat :=
  d.f1 .TCM_RING_BASE_HI n * 2 ^ 32 + d.f1 .TCM_RING_BASE_LO n * 64 + 128 * i

def Dev.tcmAdvance (d : Dev) (n k : Nat) : Dev :=
  d.set1 .TCM_RING_HEAD n ((d.f1 .TCM_RING_HEAD n + k) % max 1 (d.f1 .TCM_RING_SIZE n))

/-- Whether an operation of a 640-bit partition carries an entry or a key, and so takes two descriptors. -/
def tcmWideOp (op : Nat) : Bool := op == 1 || op == 2 || op == 3 || op == 5

/-- The descriptor names a 640-bit partition and takes two descriptors. -/
def Dev.tcmWide (d : Dev) (desc : Bytes) : Bool :=
  (d.tcamPart (leAt desc 1 1)).any (·.wide) && tcmWideOp (leAt desc 0 1)

/-- A descriptor that halts its ring. -/
def Dev.tcmBad (d : Dev) (desc next : Bytes) : Bool :=
  let op := leAt desc 0 1
  match d.tcamPart (leAt desc 1 1) with
  | none => true
  | some p =>
    !(decide (1 ≤ op) && decide (op ≤ 6)) || (decide (op ≤ 4) && decide (p.size ≤ leAt desc 4 4)) ||
    (d.tcmWide desc && leAt next 0 1 != 0x0F) || Nat.land (leAt desc 2 1) 0xFB != 0 || leAt desc 0xE 2 != 0 ||
    leAt desc 0x14 12 != 0 || leAt desc 0x70 16 != 0

def Dev.tcmDone (d : Dev) (n i : Nat) (desc : Bytes) (status index : Nat) (e : Option TcamEntry) : Dev :=
  let d1 := d.emit (.hostWrite (d.tcmAddr n i) (tcmBack desc status index e))
  if bitOf (leAt desc 2 1) 2 then d1.raise (288 + n) else d1

def Dev.tcmHalt (d : Dev) (n : Nat) (desc : Bytes) : Dev :=
  let i := d.f1 .TCM_RING_HEAD n
  let d1 := d.emit (.hostWrite (d.tcmAddr n i) (patch desc 3 (leBytes 1 stBad)))
  let d2 := ((d1.set1 .TCM_RING_STATUS_HALTED n 1).set1 .TCM_RING_STATUS_HALT_INDEX n i).set1 .TCM_RING_STATUS_ENABLED n 0
  d2.record .TCM_RING_HALTED 4 n (payloadOf [(1, n), (2, i), (1, leAt desc 0 1)])

/-! ### Block moves (R210, R211) -/

def Dev.setMove (d : Dev) (m : Option TcamMove) : Dev := { d with search := { d.search with move := m } }

/-- The place that a step copies into. -/
def TcamMove.into (m : TcamMove) : Nat := if m.up then m.at_ + 1 else m.at_ - 1

/-- A step begins: a copy of the entry into its new place. -/
def Dev.moveCopy (d : Dev) (m : TcamMove) : Dev :=
  ((d.setTcam m.part m.into (d.tcamEntry m.part m.at_)).count .TCM_ENTRIES_MOVED 0).setMove
    (some { m with open_ := some d.now, nextAt := d.now + 8 })

/-- A step ends: the old place is invalidated, or in the last step takes the new entry and the transaction completes. -/
def Dev.moveClose (d : Dev) (m : TcamMove) : Dev :=
  if m.at_ = m.last then
    let k := Nat.unpair m.ring
    ((d.setTcam m.part m.at_ (some m.entry)).setMove none).tcmDone k.1 k.2 m.desc stOk m.last none
  else (d.setTcam m.part m.at_ none).setMove (some { m with
    open_ := none, at_ := if m.up then m.at_ - 1 else m.at_ + 1 })

/-- Steps left of a move. -/
def TcamMove.steps (m : TcamMove) : Nat := (if m.up then m.at_ - m.last else m.last - m.at_) + 1

/-- The move in progress is brought to its end: every later change waits for it (R211). -/
def Dev.finishMove : Nat → Dev → Dev
  | 0, d => d
  | fuel + 1, d =>
    match d.search.move with
    | none => d
    | some m =>
      let d1 := if m.open_.isSome then d else d.moveCopy m
      Dev.finishMove fuel (d1.moveClose m)

def Dev.settleMove (d : Dev) : Dev := Dev.finishMove ((d.search.move.map TcamMove.steps).getD 0) d

/-- A place of an open step reads MOVING. -/
def Dev.tcamMoving (d : Dev) (part i : Nat) : Bool :=
  d.search.move.any (fun m => m.part == part && m.open_.isSome && (i == m.at_ || i == m.into))

/-- The ring of region `n` takes the descriptor at HEAD, whose operation is `op`.  A change, or a descriptor behind the
ring's own move, waits for the move.  `f` answers status, index and entry, or nothing where completion comes later. -/
def Dev.tcmTake (d : Dev) (n op : Nat) (change : Bool) (desc next : Bytes)
    (f : Dev → TcamPart → Nat → Dev × Option (Nat × Nat × Option TcamEntry)) : Dev :=
  if !d.tcmReady n ∨ leAt desc 0 1 ≠ op then d
  else if d.tcmBad desc next then d.tcmHalt n desc
  else match d.tcamPart (leAt desc 1 1) with
    | none => d
    | some p =>
      let i := d.f1 .TCM_RING_HEAD n
      let own : Bool := d.search.move.any (fun m => (Nat.unpair m.ring).1 == n)
      let d0 := if change || own then d.settleMove else d
      let r := f d0 p i
      let wide := d.tcmWide desc
      let d1 := r.1.tcmAdvance n (if wide then 2 else 1)
      match r.2 with
      | none => d1
      | some (st, index, e) =>
        let d2 := d1.tcmDone n i desc st index e
        if wide && (op == 1 || op == 5) then d2.emit (.hostWrite (d.tcmAddr n (i + 1)) (tcmBackHi next e)) else d2

/-- TCM_READ_ENTRY (R209): the entry at INDEX, with FLAGS bit 7 when it is VALID. -/
def execTcmReadEntry (n : Region) (desc next : List (BitVec 8)) (s : State) : Host.Outcome State Fault Refusal :=
  s.run fun d =>
    let e := match d.tcamPart (leAt desc 1 1) with
      | some p => d.tcamEntry p.id (leAt desc 4 4)
      | none => none
    let desc1 := if e.isSome ∧ !d.tcmBad desc next then patch desc 2 (leBytes 1 (leAt desc 2 1 + 128)) else desc
    if d.tcmBad desc next then d.tcmTake n 1 false desc next (fun d _ _ => (d, none))
    else d.tcmTake n 1 false desc next fun d p i =>
      let index := leAt desc 4 4
      let st := if d.tcamMoving p.id index then stMoving else stOk
      let e := (d.tcamEntry p.id index).getD ⟨0, 0, 0, 0, 0⟩
      let d1 := d.tcmDone n i desc1 st index (some e)
      (if p.wide then d1.emit (.hostWrite (d.tcmAddr n (i + 1)) (tcmBackHi next (some e))) else d1, none)

/-- TCM_WRITE_ENTRY (R208): the entry at INDEX is written, valid, as a whole. -/
def execTcmWriteEntry (n : Region) (desc next : List (BitVec 8)) (s : State) : Host.Outcome State Fault Refusal :=
  s.run fun d => d.tcmTake n 2 true desc next fun d p _ =>
    (d.setTcam p.id (leAt desc 4 4) (some (tcmEntry p.wide desc next)), some (stOk, leAt desc 4 4, none))

/-- The nearest invalid entry above, and the nearest below, an index. -/
def Dev.freeAbove (d : Dev) (p : TcamPart) (i : Nat) : Option Nat :=
  ((List.range (p.size - (i + 1))).find? (fun k => (d.tcamEntry p.id (i + 1 + k)).isNone)).map (· + (i + 1))
def Dev.freeBelow (d : Dev) (p : TcamPart) (i : Nat) : Option Nat :=
  (List.range i).reverse.find? (fun k => (d.tcamEntry p.id k).isNone)

/-- TCM_INSERT_AT (R210): an ordered insertion; the block between INDEX and the nearer invalid entry moves by one. -/
def execTcmInsertAt (n : Region) (desc next : List (BitVec 8)) (s : State) : Host.Outcome State Fault Refusal :=
  s.run fun d => d.tcmTake n 3 true desc next fun d p i =>
    let x := leAt desc 4 4
    let e := tcmEntry p.wide desc next
    let start (up : Bool) (at_ last : Nat) : Dev × Option (Nat × Nat × Option TcamEntry) :=
      (d.setMove (some { part := p.id, up := up, at_ := at_, last := last, open_ := none, entry := e, ring := k2 n i
                         desc := desc, wide := p.wide, nextAt := d.now }), none)
    let above (f : Nat) := start true (f - 1) x
    let below (f : Nat) :=
      if f = x - 1 then (d.setTcam p.id f (some e), some (stOk, f, none)) else start false (f + 1) (x - 1)
    if p.prio then (d, some (stWrongMode, x, none))
    else if (d.tcamEntry p.id x).isNone then (d.setTcam p.id x (some e), some (stOk, x, none))
    else match d.freeAbove p x, d.freeBelow p x with
      | none, none => (d, some (stNoSpace, x, none))
      | some f, none => above f
      | none, some f => below f
      | some f, some g => if f - x ≤ x - g then above f else below g

/-- TCM_DELETE_AT (R209): the entry at INDEX is invalidated; nothing moves. -/
def execTcmDeleteAt (n : Region) (desc next : List (BitVec 8)) (s : State) : Host.Outcome State Fault Refusal :=
  s.run fun d => d.tcmTake n 4 true desc next fun d p _ =>
    (d.setTcam p.id (leAt desc 4 4) none, some (stOk, leAt desc 4 4, none))

/-- TCM_LOOKUP (R209): VALUE is searched in the partition's banks under R207. -/
def execTcmLookup (n : Region) (desc next : List (BitVec 8)) (s : State) : Host.Outcome State Fault Refusal :=
  s.run fun d => d.tcmTake n 5 false desc next fun d p _ =>
    match d.tcamSearch p (tcmKey p.wide desc next 0x20) (2 ^ 64 - 1) with
    | none => (d, some (stNotFound, leAt desc 4 4, none))
    | some (i, e) => (d, some (if d.tcamMoving p.id i then stMoving else stOk, i, some e))

/-- TCM_CLEAR_PARTITION (R209): every entry of the partition is invalidated. -/
def execTcmClearPartition (n : Region) (desc next : List (BitVec 8)) (s : State) : Host.Outcome State Fault Refusal :=
  s.run fun d => d.tcmTake n 6 true desc next fun d p _ =>
    let keep := d.search.tcam.filter (fun x => (Nat.unpair x.1).1 ≠ p.id)
    ({ d with search := { d.search with tcam := keep } }, some (stOk, leAt desc 4 4, none))

/-- TCM_BAD_DESCRIPTOR (R209): the ring of a region takes a descriptor that halts it. -/
def execTcmBadDescriptor (n : Region) (desc next : List (BitVec 8)) (s : State) : Host.Outcome State Fault Refusal :=
  s.run fun d => if d.tcmReady n ∧ d.tcmBad desc next then d.tcmHalt n desc else d

/-- A write of RESTART to a TCM ring. -/
def Dev.tcmRestart (d : Dev) (n : Nat) : Dev :=
  if d.b1 .TCM_RING_STATUS_HALTED n then
    ((d.set1 .TCM_RING_STATUS_HALTED n 0).set1 .TCM_RING_STATUS_ENABLED n (d.f1 .TCM_RING_CTRL_ENABLE n)).tcmAdvance n 1
  else d

/-- TCM_RING_RESTART (R209). -/
def execTcmRingRestart (m : Master) (n : Region) (s : State) : Host.Outcome State Fault Refusal :=
  s.run fun d => d.onWrite m .TCM_RING_CTRL n 0 fun d => d.tcmRestart n

/-- TCM_MOVE_STEP (R211): 16 CLK_MEM cycles after the last step began, the next one copies its entry. -/
def execTcmMoveStep (s : State) : Host.Outcome State Fault Refusal :=
  s.run fun d =>
    match d.search.move with
    | none => d
    | some m => if m.open_.isSome ∨ d.now < m.nextAt then d else d.moveCopy m

/-- TCM_MOVE_INVALIDATE (R211): 8 CLK_MEM cycles after a step's copy. -/
def execTcmMoveInvalidate (s : State) : Host.Outcome State Fault Refusal :=
  s.run fun d =>
    match d.search.move with
    | none => d
    | some m => if m.open_.any (fun t => decide (t + 4 ≤ d.now)) then d.moveClose m else d

/-! ### The shadow scan (R212) -/

/-- The partition and logical index of a physical address, if its bank is in one. -/
def Dev.tcamAt (d : Dev) (phys : Nat) : Option (TcamPart × Nat) :=
  let bank := phys / 1024
  ((partsOf (d.section 5 4)).find? (fun p => decide (p.first ≤ bank) && decide (bank < p.first + p.banks))).map (fun p =>
    (p, (bank - p.first) / (if p.wide then 2 else 1) * 1024 + phys % 1024))

/-- Regions whose key profiles search a bank (R26). -/
def Dev.bankUsers (d : Dev) (bank : Nat) : List Nat :=
  (List.range 4).filter (fun n =>
    let body := d.section 4 n
    (List.range (leAt body 0 2)).any (fun i =>
      let r := listRec body 128 i
      profileFlag r 3 && bitOf (leAt r 0x70 8) bank))

/-- A hard fault of a bank: every region that searches it is isolated (R26). -/
def Dev.bankFailed (d : Dev) (bank : Nat) : Dev :=
  let users := d.bankUsers bank
  let d1 := if bank < 32 then d.setBit .TCM_BANK_FAULT_LO 0 bank true else d.setBit .TCM_BANK_FAULT_HI 0 (bank - 32) true
  let d2 := ((d1.set0 .TCM_STATUS_HARD_FAULT 1).setBit .HLT_SUM_ENGINE_TCAM 0 (bank / 16) true).record .TCAM_BANK_FAILED 12 bank
    (payloadOf [(1, bank), (1, users.foldl (fun k n => k + 2 ^ n) 0)])
  users.foldl (fun d n => d.isolateRegion n EvCode.TCAM_BANK_FAILED.code) d2

/-- What the scan finds at a row. -/
def Dev.scanRow (d : Dev) (row kind : Nat) : Dev :=
  let part := d.tcamAt row
  let last (k : Nat) (d : Dev) : Dev := (d.set0 .TCM_LAST_FAULT_KIND k).set0 .TCM_LAST_FAULT_ADDR row
  let pid := (part.map (·.1.id)).getD 0xFF
  let rewritten := (last 1 (d.count .TCM_ROWS_REWRITTEN 0)).record .TCAM_ROW_REWRITTEN 0 0 (payloadOf [(2, row), (1, pid)])
  match kind with
  | 1 => rewritten
  | 2 => (last 3 rewritten).bankFailed (row / 1024)
  | 4 => d.count .TCM_SHADOW_REBUILT 0
  | 5 =>
    match part with
    | none => d
    | some (p, i) =>
      let d1 := ((last 2 (d.setTcam p.id i none)).count .TCM_ENTRIES_LOST 0).set1 .TCM_PART_INFO_LOST p.id 1
      d1.record .TCAM_ENTRY_LOST 0 0 (payloadOf [(1, p.id), (2, i)])
  | _ => d

/-- TCAM_SCAN_ROW (R212): the scan reads physical row `row` and finds it 0 equal to its shadow, 1 different and cured by
the rewrite, 2 still different after it, 3 with a correctable shadow error, 4 with an uncorrectable shadow error and good
row parity, 5 with bad row parity too.  `pass` is the duration in µs of the full pass that ends here, if one does. -/
def execTcamScanRow (row : Fin 65536) (kind : Fin 6) (pass : Option Nat) (s : State) : Host.Outcome State Fault Refusal :=
  s.run fun d =>
    if !d.b0 .TCM_STATUS_READY then d
    else
      let d1 := match pass with
        | none => d
        | some t => d.set0 .TCM_SCAN_LAST t
      d1.scanRow row kind

end Sys2Proof.Machine
end

