-- ==== Sys2Proof/Machine/Digest.lean ====
section
/-! DEFINITION. Decision digests, comparison and resynchronisation of a pair (spec/14). -/

namespace Sys2Proof.Machine

/-! ### Re-resolution without effects (R385, R387) -/

/-- The sources of a frame whose automata result is given (0xFFFF for none). -/
def Dev.sampleSources (d : Dev) (rx : Rx) (pr : ParseRes) (prof : Bytes) (aut : Nat) : List Src :=
  let n := rx.region
  let k := d.looks rx pr prof
  let saDrop := (k.keys.map (fun x => (d.learnSource rx prof x k.sa).1)).getD false
  let l := d.sources rx pr prof k saDrop
  match inspectOf (d.withProfiles n l) with
  | none => d.withProfiles n l
  | some set =>
    let a := if aut ≠ 0xFFFF then autSource (d.patAction aut) aut else autSource (d.patSet set).noMatch 0
    d.withProfiles n (a :: l)

/-- What a frame of length `len` resolves to: its forwarding, its edits and its decision record. -/
def Dev.reResolve (d : Dev) (rx : Rx) (len aut : Nat) : Fwd × Edits × Bytes :=
  let n := rx.region
  let pr := parseFrame (d.section 3 n) rx.body len rx.startNode (fun k => d.wordDown .node n k) rx.port rx.pass
  let prof := d.rxProfile rx
  if pr.err ≠ 0 then
    let r := d.errorFwd rx pr prof
    let v := d.groupCheck n rx.port ⟨r.1, 0xFFFF, r.2.2, none⟩
    (v.2.1.fwd, .none, errorRecord v.2.1.fwd r.2.1)
  else
    let l := d.sampleSources rx pr prof aut
    let v := (d.verdict rx l).1
    (v.fwd, editsOf l v.hop (l2Hdr pr prof) (vlanHdr pr prof) (ipHdr pr prof) (leAt prof 0xD 1 == 1),
      d.decision rx pr prof l aut)

/-- The decision record of a sampled frame of port `p`, at its last resolution (R166, R385). -/
def Dev.sampleRecord (d : Dev) (p len aut : Nat) (bytes : Bytes) : Bytes :=
  let rx : Rx :=
    { bytes := bytes, hasFcs := false, port := p, region := p / 32, pass := 0, startNode := 0
      profile := d.fld .TBL_PORT_CFG_KEY_PROFILE (p / 32) (p % 32), cap := ⟨0, 0, 0, false⟩, lost := 0, srcDev := none
      dflt := none, tsId := none, wait := none, parse := none, res := none, orig := none, dfltAct := none, hit := none }
  let a := d.reResolve rx len aut
  match a.1 with
  | .recirc profile node =>
    let b := padded (applyEdits bytes a.2.1 (d.f0 .ACT_TPID) (d.macSa (128 + p / 32))).1
    let r2 := { rx with bytes := b, pass := 1, startNode := node, profile := profile }
    (d.reResolve r2 (len - bytes.length + b.length) aut).2.2
  | _ => a.2.2

/-! ### Digests (R386) -/

/-- An entry of a DIGEST as received (Table 14-6). -/
structure DigestEntry where
  digest : Nat
  frames : Nat
  incomplete : Bool
  opener : Nat
  deriving DecidableEq, Repr

/-- A window is over with: it is sent or judged. -/
def Dev.windowDone (d : Dev) (key : Nat) : Dev :=
  { d with pair := { d.pair with sent := (key :: d.pair.sent).take 64 } }

def Dev.dropWin (d : Dev) (p w : Nat) : Dev := d.setWin p w .reset

/-- The entries of region `n` for window `w`: digest, frames with INCOMPLETE at bit 31, and the opener of the next
window. -/
def Dev.digestBody (d : Dev) (n w : Nat) : List Nat :=
  [w, n, 0] ++ (List.range 32).flatMap (fun i =>
    let x := d.win (32 * n + i) w
    [x.digest, x.frames % 2 ^ 31 + b2n x.incomplete * 2 ^ 31, (d.win (32 * n + i) (w + 1)).opener.getD 0])

/-- PAIR_DIGEST_SEND (R386): the active sends one DIGEST per region of the window that ended 2 ms ago. -/
def execPairDigestSend (s : State) : Host.Outcome State Fault Refusal :=
  s.run fun d =>
    let w := d.windowNow - 3
    if !d.isActive ∨ !d.digesting ∨ d.windowNow < 3 ∨ w ∈ d.pair.sent then d
    else
      let v := if d.digestMode = 1 then 0x11 else 0x12
      let d1 := (List.range 4).foldl (fun d n => d.pairSend v 8 d.pair.epoch 524 (d.digestBody n w)) d
      ((List.range 128).foldl (fun d p => d.dropWin p w) d1).windowDone w

/-- The band of boundary `b` of a port is split at the opener: the frames before it belong to the window before.  A band
without the opener flags the windows on both sides. -/
def Dev.splitBand (d : Dev) (p b opener : Nat) : Dev :=
  let l := Map.get [] d.pair.band (k2 p b)
  if l.isEmpty then d
  else
    let d1 := { d with pair := { d.pair with band := Map.set [] d.pair.band (k2 p b) [] } }
    let before := l.takeWhile (fun x => x.1 != opener)
    let after := l.drop before.length
    let d2 := before.foldl (fun d x => d.addDigest p (b - 1) x.1 x.2) d1
    if after.isEmpty then (d2.noteIncomplete p (b - 1)).noteIncomplete p b
    else after.foldl (fun d x => d.addDigest p b x.1 x.2) d2

/-- The last result of a port and its run of mismatches: result 0 matched, 1 mismatched, 2 unjudged. -/
def Dev.digestRun (d : Dev) (p : Nat) : Nat × Nat := Map.get (0, 0) d.pair.runs p
def Dev.setRun (d : Dev) (p : Nat) (x : Nat × Nat) : Dev :=
  { d with pair := { d.pair with runs := Map.set (0, 0) d.pair.runs p x } }

/-- A comparison begins (R387). -/
def Dev.startCompare (d : Dev) (p : Nat) : Dev :=
  let d1 := { d with pair := { d.pair with compare := some (1, d.now, p) } }
  ((((d1.set0 .PAIR_STATUS_CMP_ACTIVE 1).set0 .PAIR_CMP_STATUS_STAGE 1).set0 .PAIR_CMP_STATUS_RESULT 0).set0
    .PAIR_CMP_STATUS_PORT p).count .PAIR_COMPARES 0

/-- Three consecutive mismatches of a port start a comparison, unless one runs or no link's version has it (Table 14-1). -/
def Dev.thirdMismatch (d : Dev) (p : Nat) : Dev :=
  if (d.digestRun p).2 < 3 ∨ d.pair.compare.isSome ∨ (d.pairLinks 0x12).isEmpty then d
  else (d.record .PAIR_DIGEST_MISMATCH 1 p (payloadOf [(1, p), (4, (d.digestRun p).2)])).startCompare p

/-- The logic check keeps the frames of the window after this one. -/
def Dev.keepNext (d : Dev) : Dev := { d with pair := { d.pair with keepWin := some (d.windowNow + 1), kept := [] } }

/-- Window `w` of a port is not judged: the logic check takes a later one. -/
def Dev.unjudged (d : Dev) (p w : Nat) : Dev :=
  let d1 := (d.setRun p (2, (d.digestRun p).2)).count .PAIR_WINDOWS_UNJUDGED 0
  if d.pair.keepWin = some w ∧ d.pair.compare.any (fun x => x.2.2 == p) then d1.keepNext else d1

/-- The standby judges window `w` of a port. -/
def Dev.judgeDigest (d : Dev) (p w : Nat) (e : DigestEntry) : Dev :=
  let d0 := if d.digestMode = 1 then d.splitBand p (w + 1) e.opener else d
  let x := d0.win p w
  let d1 := d0.dropWin p w
  if e.incomplete ∨ x.incomplete then d1.unjudged p w
  else if x.digest = e.digest ∧ x.frames = e.frames then (d1.setRun p (0, 0)).count .PAIR_WINDOWS_MATCHED 0
  else ((d1.setRun p (1, min 3 ((d1.digestRun p).2 + 1))).count .PAIR_WINDOWS_MISMATCHED 0).thirdMismatch p

/-- PAIR_DIGEST_RECEIVE (R386): the DIGEST of window `w` and region `n`, with its entries by port. -/
def execPairDigestReceive (p : Port) (m : PairMsg) (w : Nat) (n : Region) (entries : List (Nat × Nat × Bool × Nat))
    (s : State) : Host.Outcome State Fault Refusal :=
  s.run fun d =>
    let r := d.pairTake p 8 m true
    if !r.2 ∨ d.role ≠ 2 then r.1
    else if k2 w n ∈ d.pair.sent then r.1.count .PAIR_WINDOWS_UNJUDGED 0
    else
      ((List.range 32).foldl (fun d i =>
        let q := 32 * n.val + i
        match entries[i]? with
        | some e => if d.protectedPort q then d.judgeDigest q w ⟨e.1, e.2.1, e.2.2.1, e.2.2.2⟩ else d
        | none => d) r.1).windowDone (k2 w n)

/-- PAIR_DIGEST_TIMEOUT (R386): the DIGEST of a window has not arrived within 10 ms; the next boundary is not known. -/
def execPairDigestTimeout (w : Nat) (n : Region) (s : State) : Host.Outcome State Fault Refusal :=
  s.run fun d =>
    if d.role ≠ 2 ∨ !d.digesting ∨ k2 w n ∈ d.pair.sent then d
    else
      ((List.range 32).foldl (fun d i =>
        let q := 32 * n.val + i
        if d.protectedPort q then
          let d1 := if (Map.get [] d.pair.band (k2 q (w + 1))).isEmpty then d
            else ({ d with pair := { d.pair with band := Map.set [] d.pair.band (k2 q (w + 1)) [] } }).noteIncomplete q (w + 1)
          (d1.dropWin q w).unjudged q w
        else d) d).windowDone (k2 w n)

/-- PAIR_SAMPLE_RECEIVE (R385): a sample of protected port `q`: its frame's length, window, automata pattern and first
bytes.  A gap in the message sequence leaves the window unjudged (R386). -/
def execPairSampleReceive (p : Port) (m : PairMsg) (q : Port) (len w aut : Nat) (bytes : List (BitVec 8)) (s : State) :
    Host.Outcome State Fault Refusal :=
  s.run fun d =>
    let r := d.pairTake p 9 m true
    if !r.2 ∨ d.role ≠ 2 ∨ d.digestMode ≠ 2 then r.1
    else
      let gap : Bool := r.1.pair.sampleSeq.any (fun x => m.seq != x && m.seq != (x + 1) % 2 ^ 32)
      let d1 := { r.1 with pair := { r.1.pair with sampleSeq := some m.seq } }
      let d2 : Dev := if gap then (List.range 128).foldl (fun d i => d.noteIncomplete i w) d1 else d1
      if !d2.protectedPort q ∨ d2.regionIsolated (q.val / 32) then d2
      else
        let i := frameIdentity bytes len
        let record := d2.sampleRecord q len aut bytes
        (d2.addDigest q w i (frameValue i record)).keepFrame q w ⟨i, len, aut, bytes, record⟩

/-! ### Rows (R387, R390) -/

/-- A row of a table takes what a record says; without data the row is invalid.  TABLE as in Table 7-10, and of the
model's own: 5 the TCAM (partition in REGION), 6 meters, 7 multicast groups. -/
def Dev.syncApply (d : Dev) (r : SyncRec) : Dev :=
  let none_ := r.data.isEmpty
  let valid (i : Nat) : Bool := bitOf (leAt r.data i 1) 0
  match r.table with
  | 0 => d.setL2 r.row (if !none_ && valid 8 then some (l2Of r.data) else none)
  | 1 | 2 =>
    let v6 := r.table == 2
    let w := if v6 then 128 else 32
    let key := k2 r.row (beAt r.data 0 (w / 8) / 2 ^ (w - min w r.row))
    let old := d.draw
    old.2.lpmSwitch old.1 v6 r.row (beAt r.data 0 (w / 8) / 2 ^ (w - min w r.row))
      (Map.set none (d.lpm v6) key (if r.data.length < w / 8 + 3 then none else some (leAt r.data (w / 8) 3 % 2 ^ 18)))
  | 3 => d.setEx r.region r.row (if !none_ && valid 0x2A then some (exOf r.data) else none)
  | 4 => d.setHop r.region r.row (hopOf r.data)
  | 5 => d.setTcam r.region r.row (if none_ then none else some
      { prio := leAt r.data 0 2, action := leAt r.data 2 2, param := leAt r.data 4 4, value := leAt r.data 8 80
        mask := leAt r.data 88 80 })
  | 6 => d.writeEntry r.region 0x10 r.row r.data
  | 7 => d.writeEntry r.region 0x12 r.row r.data
  | _ => d

/-- The standby writes the same rows in the same order. -/
def Dev.syncAll (d : Dev) (rows : List SyncRec) : Dev := rows.foldl Dev.syncApply d

/-! ### Block sums (R387) -/

/-- The listed rows of a table of regions or partitions, as (block, row, content); a block has 4,096 rows of one region. -/
def rowsOf {α : Type} (m : Map α) (f : α → Option Bytes) : List (Nat × Nat × Bytes) :=
  m.filterMap (fun x =>
    let k := Nat.unpair x.1
    (f x.2).map (fun b => (k.1 * 2 ^ 20 + k.2 / 4096, k.2, b)))

/-- The rows of a compared table, numbered as in `Dev.syncApply`, and 8 the action profiles.  HIT and MOVING of a row are
the member's own; the tries are compared by their prefixes, a block being a length (log 80). -/
def Dev.comparedRows (d : Dev) (t : Nat) : List (Nat × Nat × Bytes) :=
  let prefixes (m : Map (Option Nat)) : List (Nat × Nat × Bytes) :=
    m.filterMap (fun x => x.2.map (fun h => ((Nat.unpair x.1).1, (Nat.unpair x.1).2, leBytes 3 h)))
  match t with
  | 0 => d.tbl.l2.filterMap (fun x =>
      x.2.map (fun e => (x.1 / 4096, x.1, l2Bytes { e with hit := false, moving := false })))
  | 1 => prefixes d.tbl.lpm4
  | 2 => prefixes d.tbl.lpm6
  | 3 => rowsOf d.tbl.exact (fun x => x.map (fun e => exBytes { e with hit := false, moving := false }))
  | 4 => rowsOf d.tbl.hops (fun x => x.map hopBytes)
  | 5 => rowsOf d.search.tcam (fun x => x.map (fun e =>
      leBytes 2 e.prio ++ leBytes 2 e.action ++ leBytes 4 e.param ++ leBytes 80 e.value ++ leBytes 80 e.mask))
  | 6 => rowsOf d.act.meters (fun m => some ((meterBytes m m.at_).take 24))
  | 7 => d.act.groups.map (fun x => (x.1 / 4096, x.1, groupBytes x.2))
  | _ => (List.range 4).flatMap (fun n =>
      let body := d.section 7 n
      (List.range (leAt body 0 2)).map (fun i =>
        let r := slice body (8 + 32 * i) 32
        (n * 2 ^ 20 + leAt r 0 2 / 4096, leAt r 0 2, r)))

/-- The write sum of each block that lists a row: over the rows as they were last written, of the CRC-64 of row number and
content (R387). -/
def Dev.writeSums (d : Dev) : List (Nat × Nat × Nat) :=
  (List.range 9).flatMap (fun t =>
    let m : Map Nat := (d.comparedRows t).foldl (fun (m : Map Nat) x =>
      Map.update 0 m x.1 (fun k => (k + crc64 (beBytes 16 x.2.1 ++ x.2.2)) % 2 ^ 64)) []
    m.map (fun x => (t, x.1, x.2)))

/-- The sums of this member's blocks: each reads as it was written, but for those that `own` lists with another sum. -/
def Dev.ownSums (d : Dev) (own : List (Nat × Nat × Nat)) : List BlockSum :=
  let w := d.writeSums
  let same (x y : Nat × Nat × Nat) : Bool := x.1 == y.1 && x.2.1 == y.2.1
  w.map (fun x => ⟨x.1, x.2.1, ((own.find? (same x)).map (·.2.2)).getD x.2.2, x.2.2⟩) ++
    (own.filter (fun o => !w.any (same o))).map (fun o => ⟨o.1, o.2.1, o.2.2, 0⟩)

/-- The sums of the block `x` names among `l`; a block without rows has 0. -/
def sumAmong (x : BlockSum) (l : List BlockSum) : BlockSum :=
  (l.find? (fun y => x.table == y.table && x.block == y.block)).getD ⟨x.table, x.block, 0, 0⟩

/-- The blocks whose read sums differ: this member's and the partner's. -/
def diffBlocks (own partner : List BlockSum) : List (BlockSum × BlockSum) :=
  let known (y : BlockSum) : Bool := own.any (fun x => x.table == y.table && x.block == y.block)
  (own.map (fun (x : BlockSum) => (x, sumAmong x partner)) ++ (partner.filter (fun y => !known y)).map (fun (y : BlockSum) => (sumAmong y own, y))).filter
    (fun x => x.1.read != x.2.read)

/-- A list in pieces of `n`. -/
def pieces {α : Type} (n : Nat) (l : List α) : List (List α) :=
  (List.range ((l.length + n - 1) / n)).map (fun i => (l.drop (n * i)).take n)

/-- The sums go to the partner, 60 records to a COMPARE message. -/
def Dev.sendSums (d : Dev) (l : List BlockSum) : Dev :=
  (pieces 60 l).foldl (fun d c => d.pairSend 0x12 11 d.pair.epoch (24 * c.length)
    (c.flatMap (fun x => [x.table, 0, x.block, x.read, x.write]))) d

/-- The decision records kept go to the partner, 72 to a DECISIONS message. -/
def Dev.sendDecisions (d : Dev) : Dev :=
  (pieces 72 d.pair.kept).foldl (fun d c => d.pairSend 0x12 12 d.pair.epoch (20 * c.length)
    (c.flatMap (fun k => [k.id, beNat k.record]))) d

/-- The record that removes a row of a compared table. -/
def goneRow (t block row : Nat) : SyncRec :=
  match t with
  | 1 => ⟨1, 0, block, beBytes 4 (row * 2 ^ (32 - block))⟩
  | 2 => ⟨2, 0, block, beBytes 16 (row * 2 ^ (128 - block))⟩
  | 5 | 3 | 4 | 6 => ⟨t, block / 2 ^ 20, row, []⟩
  | _ => ⟨t, 0, row, []⟩

/-- The standby takes the active's rows of a block in place of its own. -/
def Dev.copyBlock (d : Dev) (rows : List SyncRec) (x : BlockSum) : Dev :=
  let block (r : SyncRec) : Nat :=
    if r.table = 1 ∨ r.table = 2 then r.row else if r.table = 0 ∨ r.table = 7 then r.row / 4096
    else r.region * 2 ^ 20 + r.row / 4096
  let d1 := ((d.comparedRows x.table).filter (fun y => y.1 == x.block)).foldl
    (fun d y => d.syncApply (goneRow x.table y.1 y.2.1)) d
  d1.syncAll (rows.filter (fun r => r.table == x.table && block r == x.block))

/-! ### Comparison (R387, R388) -/

/-- The comparison ends with a RESULT and a SIDE. -/
def Dev.compareEnd (d : Dev) (result side : Nat) : Dev :=
  let d1 := { d with pair := { d.pair with compare := none, keepWin := none, kept := [] } }
  (((d1.set0 .PAIR_STATUS_CMP_ACTIVE 0).set0 .PAIR_CMP_STATUS_STAGE 0).set0 .PAIR_CMP_STATUS_RESULT result).set0
    .PAIR_CMP_STATUS_SIDE side

def Dev.compareStage (d : Dev) (stage : Nat) : Dev :=
  match d.pair.compare with
  | some (_, _, p) =>
    let d1 := if stage = 3 then d.keepNext else d
    ({ d1 with pair := { d1.pair with compare := some (stage, d.now, p) } }).set0 .PAIR_CMP_STATUS_STAGE stage
  | none => d

/-- A member starts to resynchronise: SYNCING until the copy is complete. -/
def Dev.beginResync (d : Dev) : Dev :=
  (({ d with pair := { d.pair with resync := none, claim := none } }).set0 .PAIR_STATUS_SYNCED 0).setRole 1

/-- A fault located in this member: a standby resynchronises, an active hands over and moves to AUTUMN; the second within
1 h moves it to AUTUMN whatever its role (R388). -/
def Dev.ownFault (d : Dev) : Dev :=
  let again := d.pair.faults.any (fun t => decide (d.now ≤ t + 3600 * tSec))
  let d1 := { d with pair := { d.pair with faults := [d.now] } }
  let d2 := if d1.isActive then (if d1.mayRelease then d1.release_ 2 else d1) else d1.beginResync
  if again ∨ d.isActive then
    (d2.set0 .HLT_SUM_SYSTEM_PAIR_FAULT 1).autumn .HLT_AUTUMN_CAUSE_PAIR_FAULT .PAIR_FAULT_LOCATED
  else d2

/-- A fault is located on a side: 0 this member, 1 the partner. -/
def Dev.faultLocated (d : Dev) (side table block : Nat) : Dev :=
  let d1 := ((((d.compareEnd 1 side).set0 .PAIR_CMP_BLOCK_TABLE table).set0 .PAIR_CMP_BLOCK_BLOCK block).record
    .PAIR_FAULT_LOCATED 0 0 (payloadOf [(1, side), (1, table), (4, block)]))
  if side = 0 then d1.ownFault else d1

/-- The blocks that still differ are judged (Table 14-4). -/
def Dev.judgeBlocks (d : Dev) (diff : List (BlockSum × BlockSum)) (rows : List SyncRec) : Dev :=
  match diff.find? (fun x => x.1.read != x.1.write), diff.find? (fun x => x.2.read != x.2.write), diff with
  | some x, _, _ => d.faultLocated 0 x.1.table x.1.block
  | none, some x, _ => d.faultLocated 1 x.2.table x.2.block
  | none, none, x :: _ =>
    let d1 := (((d.compareEnd 2 0).set0 .PAIR_CMP_BLOCK_TABLE x.1.table).set0 .PAIR_CMP_BLOCK_BLOCK x.1.block).record
      .PAIR_TABLES_DIVERGED 0 0 (payloadOf [(1, x.1.table), (4, diff.length)])
    if d.isActive then d1 else diff.foldl (fun d y => d.copyBlock rows y.1) d1
  | none, none, [] => d

/-- A kept frame resolves again to its own decision record. -/
def Dev.resolvesAlike (d : Dev) (p : Nat) (k : Kept) : Bool := decide (d.sampleRecord p k.len k.aut k.bytes = k.record)

/-- The logic check: the kept frames that the partner decided otherwise are resolved again (R387).  `partnerFault` says that
a re-resolution of the partner disagrees with the partner's own decision. -/
def Dev.judgeDecisions (d : Dev) (p : Nat) (decisions : List (Nat × Bytes)) (partnerFault : Bool) : Dev :=
  let diff := d.pair.kept.filter (fun k => decisions.any (fun x => x.1 == k.id && x.2 != k.record))
  match diff.find? (fun k => !d.resolvesAlike p k), diff with
  | some k, _ => d.faultLocated 0 15 k.id
  | none, k :: _ =>
    if partnerFault then d.faultLocated 1 15 k.id
    else (d.compareEnd 3 0).record .PAIR_COMPARE_UNRESOLVED 1 p (payloadOf [(1, p)])
  | none, [] => d.compareEnd 4 0

/-- A comparison runs in this member: its own, or one that an active joins for port `q` because its partner began it. -/
def Dev.comparing (d : Dev) (q : Nat) : Dev :=
  if d.isActive ∧ d.pair.compare.isNone ∧ d.b0 .PAIR_STATUS_HB_OK ∧ !(d.pairLinks 0x12).isEmpty then d.startCompare q else d

/-- PAIR_COMPARE_STAGE (R387, R388, Table 14-4): a stage of the running comparison ends.  `own` are blocks of this member that
read with another sum than they were written with, `partner` the sums the partner sent, `decisions` its decision records,
`partnerFault` what its re-resolutions found, and `rows` the rows that a standby copies when the tables diverge.  Blocks that
differ are read again after 10 ms; the logic check ends once its window has. -/
def execPairCompareStage (q : Port) (own : List (Nat × Nat × Nat)) (partner : List BlockSum)
    (decisions : List (Nat × List (BitVec 8))) (partnerFault : Bool) (rows : List SyncRec) (s : State) :
    Host.Outcome State Fault Refusal :=
  s.run fun d =>
    if d.winter ∨ !d.boot.fwRuns ∨ (d.role ≠ 2 ∧ d.role ≠ 4) then d
    else
      let d0 := d.comparing q
      match d0.pair.compare with
      | none => d0
      | some (stage, at_, port) =>
        let sums := d0.ownSums own
        let diff := diffBlocks sums partner
        match stage with
        | 1 => (d0.sendSums sums).compareStage (if diff.isEmpty then 3 else 2)
        | 2 =>
          if d0.now < at_ + 10 * tMs then d0
          else if diff.isEmpty then (d0.sendSums sums).compareStage 3 else (d0.sendSums sums).judgeBlocks diff rows
        | _ =>
          if d0.pair.keepWin.any (fun w => decide (w < d0.windowNow))
          then d0.sendDecisions.judgeDecisions port decisions partnerFault else d0

/-! ### Resynchronisation (R389, R390) -/

/-- The tables of R387 with nothing listed. -/
def Dev.clearTables (d : Dev) : Dev :=
  { d with
    tbl := { d.tbl with l2 := [], exact := [], lpm4 := [], lpm6 := [], hops := [], nodesDown := [], nodeRows := [], reloc := none, learnQ := [] }
    search := { d.search with tcam := [], move := none }
    act := { d.act with groups := [] } }

/-- PAIR_RESYNC (R389): a SYNCING member whose structure is the active's takes the bulk copy of every table. -/
def execPairResync (rows : List SyncRec) (s : State) : Host.Outcome State Fault Refusal :=
  s.run fun d =>
    let ready : Bool := d.b0 .PAIR_STATUS_HB_OK && d.pair.partner.any (fun x => x.active && x.structCrc == d.structCrc) &&
      !(d.pairLinks 0x11).isEmpty
    if d.role ≠ 1 ∨ !ready ∨ d.winter then d
    else
      let d1 := d.clearTables.syncAll rows
      { d1 with pair := { d1.pair with resync := some (d.now, rows.length) } }

/-- PAIR_RESYNC_DONE (R389): the records sent since the copy began are applied too: SYNCED and STANDBY. -/
def execPairResyncDone (s : State) : Host.Outcome State Fault Refusal :=
  s.run fun d =>
    match d.pair.resync with
    | some (t, n) =>
      if d.role = 1 ∧ !d.winter then
        ((({ d with pair := { d.pair with resync := none } }).set0 .PAIR_STATUS_SYNCED 1).record .PAIR_RESYNC_DONE 0 0
          (payloadOf [(4, (d.now - t) / tSec), (4, n)])).setRole 2
      else d
    | none => d

/-- PAIR_SYNC_RECORD (R390): a SYNC record of the active. -/
def execPairSyncRecord (p : Port) (m : PairMsg) (rec_ : SyncRec) (s : State) : Host.Outcome State Fault Refusal :=
  s.run fun d =>
    let r := d.pairTake p 10 m true
    if !r.2 ∨ (d.role ≠ 1 ∧ d.role ≠ 2) ∨ (d.role = 1 ∧ d.pair.resync.isNone) then r.1
    else
      let d1 := r.1.syncApply rec_
      { d1 with pair := { d1.pair with resync := d1.pair.resync.map (fun x => (x.1, x.2 + 1)) } }

end Sys2Proof.Machine
end

