-- ==== Sys2Proof/Machine/Image.lean ====
section
/-! DEFINITION. The commands of the loader (spec/02): slots, trials, region reloads, amendments, LOAD_AND_COMMIT, and the
scrub of the running sections. -/

namespace Sys2Proof.Machine

/-! ### GO of IMG_CMD (R72, R73) -/

/-- The fields that a write of IMG_CMD with GO carries. -/
structure ImgCmd where
  op : Nat
  slot : Nat
  mask : Nat
  host : Bool
  deriving DecidableEq, Repr

/-- OPs that read the host buffer. -/
def ImgCmd.readsHost (c : ImgCmd) : Bool := c.op == 1 || c.op == 4 || c.op == 7 || (c.op == 3 && c.host)

/-- A GO that is refused with BAD_COMMAND. -/
def Dev.badCommand (d : Dev) (c : ImgCmd) : Bool :=
  let len := d.f0 .IMG_LEN
  c.op == 0 || decide (7 < c.op) || (c.op == 3 && c.mask == 0) ||
    (c.readsHost && (d.f0 .IMG_SRC_LO % 64 != 0 || decide (len < 448) || decide (268369920 < len)))

/-- A command that the state of the device refuses (R72, R82). -/
def Dev.imgState (d : Dev) (c : ImgCmd) : Bool :=
  let slots := c.op == 1 || c.op == 2 || c.op == 5 || c.op == 6
  (d.winter && !slots) || ((c.op == 3 || c.op == 4) && !d.boot.committed) ||
    ((slots || (c.op == 3 && !c.host)) && (d.hld.outOfService || !d.hld.mounted)) ||
    (c.op == 3 && (List.range 4).any (fun n => bitOf c.mask n && d.regionIsolated n)) ||
    (c.op == 7 && d.boot.committed && !d.boot.waitImg)

/-- The device once a GO that is not a collision is taken: IMG_CMD holds its fields, and BUSY is set. -/
def Dev.goTaken (d : Dev) (c : ImgCmd) : Dev :=
  let d1 := (((d.set0 .IMG_CMD_OP c.op).set0 .IMG_CMD_SLOT c.slot).set0 .IMG_CMD_REGION_MASK c.mask).set0
    .IMG_CMD_SRC_HOST (b2n c.host)
  (d1.set0 .IMG_STATUS_BUSY 1).set0 .IMG_STATUS_DONE_OK 0

/-- A write of IMG_CMD with GO by master `m`: COLLISION while BUSY, BAD_COMMAND and STATE, else `f` runs the command.  A GO
that is not refused clears COLLISION (Table 2-10). -/
def Dev.imgGo (d : Dev) (m : Nat) (c : ImgCmd) (f : Dev → Dev) : Dev :=
  d.onWrite m .IMG_CMD 0 0 fun d =>
    if d.b0 .IMG_STATUS_BUSY then d.set0 .IMG_STATUS_COLLISION 1
    else
      let d2 := d.goTaken c
      if d2.badCommand c then d2.imgEnd 19 0
      else if d2.imgState c then d2.imgEnd 16 0
      else
        let r := f (d2.set0 .IMG_STATUS_COLLISION 0)
        if !r.b0 .IMG_STATUS_BUSY ∧ r.f0 .IMG_STATUS_REASON = 17 then
          r.set0 .IMG_STATUS_COLLISION (d.f0 .IMG_STATUS_COLLISION) else r

/-- The slot started from (Table 2-9). -/
def Dev.startedFrom (d : Dev) (s : Nat) : Bool :=
  d.b0 .IMG_SLOT_STATE_FROM_SLOT && decide (d.f0 .IMG_SLOT_STATE_STARTED = s)

/-- A slot holds an image in a state. -/
def Dev.setSlot (d : Dev) (s : Nat) (img : Bytes) (st : Nat) : Dev :=
  let x := if st = 0 then none else some ⟨img, st, st, false⟩
  ({ d with img := { d.img with slots := Map.set none d.img.slots s x } }).slotState s st

/-- The host buffer is read in full, or the command ends with HOST_DMA (R96). -/
def Dev.withBuffer (d : Dev) (host : Option Bytes) (fail : Dev → Dev) (f : Dev → Bytes → Dev) : Dev :=
  match host, d.hostDma 0 with
  | some img, true => f d (img.take (d.f0 .IMG_LEN))
  | _, _ => (fail d).imgEnd 18 0

/-- A refused image (R57). -/
def Dev.imgRefuse (d : Dev) (r : Nat × Nat) (src : Nat) : Dev := (d.noteRefused r src).imgEnd r.1 r.2

/-- LOAD_SLOT (R63): a host buffer is verified and stored in a slot. -/
def Dev.imgLoadSlot (d : Dev) (m : Nat) (slot : Nat) (host : Option Bytes) : Dev :=
  d.imgGo m ⟨1, slot, 0, false⟩ fun d =>
    if d.startedFrom slot then d.imgEnd 17 0
    else d.withBuffer host (fun d => d.setSlot slot [] 0) fun d img =>
      match d.verify img (d.f0 .IMG_LEN) .full with
      | some r => (d.setSlot slot [] 0).imgRefuse r 2
      | none => ((d.noteLoad img).setSlot slot img 1).imgEnd 0 0

/-- IMG_LOAD_SLOT (R57): `host` is the buffer as the DMA reads it, if it can be read in full. -/
def execImgLoadSlot (m : Master) (slot : Fin 4) (host : Option (List (BitVec 8))) (s : State) :
    Host.Outcome State Fault Refusal :=
  s.run fun d => d.imgLoadSlot m slot host

/-- MARK_TRIAL (R63). -/
def Dev.imgMarkTrial (d : Dev) (m : Nat) (slot : Nat) : Dev :=
  d.imgGo m ⟨2, slot, 0, false⟩ fun d =>
    let st (i : Nat) : Nat := ((Map.get none d.img.slots i).map (·.state)).getD 0
    let others := (List.range 4).filter (fun i => i ≠ slot)
    if st slot = 2 then d.imgEnd 0 0
    else if others.any (fun i => st i == 3) || !(st slot == 1 || st slot == 4) then d.imgEnd 17 0
    else
      let back := others.foldl (fun (d : Dev) i =>
        if st i = 2 then d.slotState i (((Map.get none d.img.slots i).map (·.back)).getD 1) else d) d
      let keep : Slot := { (Map.get none back.img.slots slot).getD ⟨[], 2, 0, false⟩ with back := st slot }
      (({ back with img := { back.img with slots := Map.set none back.img.slots slot (some keep) } }).slotState slot
        2).imgEnd 0 0

/-- IMG_MARK_TRIAL (R63). -/
def execImgMarkTrial (m : Master) (slot : Fin 4) (s : State) : Host.Outcome State Fault Refusal :=
  s.run fun d => d.imgMarkTrial m slot

/-- RELOAD (R67). -/
def Dev.imgReload (d : Dev) (m : Nat) (mask : Nat) (fromHost : Bool) (slot : Nat) (host : Option Bytes)
    (lost : Option (Nat × Nat)) : Dev :=
  d.imgGo m ⟨3, slot, mask, fromHost⟩ fun d =>
    let start (d : Dev) : Dev := d.record .REGION_RELOAD_START 0 0 (payloadOf [(1, mask)])
    let take (d : Dev) (img : Bytes) : Dev :=
      let r : Reload := ⟨mask, imgSections img, false, 0⟩
      { (d.noteLoad img) with img := { (d.noteLoad img).img with reload := some r } }
    if fromHost then
      (start d).withBuffer host id fun e img =>
        match d.verify img (d.f0 .IMG_LEN) (.reload mask) with
        | some r => e.imgRefuse r 2
        | none => take e img
    else match Map.get none d.img.slots slot with
      | none => d.imgEnd 17 0
      | some sl =>
        match d.verifySlot slot (.reload mask) ((lost.map (fun r => (slot, r))).toList) with
        | some r => (start d).imgRefuse r 0
        | none => take (start d) sl.image

/-- IMG_RELOAD (R67): the image of a host buffer or of a slot is verified with its scope; a lost stripe makes the check
`lost` fail. -/
def execImgReload (m : Master) (mask : Fin 16) (fromHost : Bool) (slot : Fin 4) (host : Option (List (BitVec 8)))
    (lost : Option (Nat × Nat)) (s : State) : Host.Outcome State Fault Refusal :=
  s.run fun d => d.imgReload m mask fromHost slot host lost

/-! ### Region reload (R67, R68) -/

/-- The sections that a reload puts in force: the structural ones of the regions of the mask, with the running ACTIONS
defaults; CARVE, TCAM and AUTO where the mask allows them to differ. -/
def reloadSections (run new : Map Bytes) (mask : Nat) : Map Bytes :=
  let regions := (List.range 4).filter (fun n => bitOf mask n)
  let plain := regions.foldl (fun m n => [1, 3, 4].foldl (fun m ty => Map.insert m (k2 ty n) (secGet new ty n)) m) run
  let acts := regions.foldl (fun m n =>
    let b := secGet new 7 n
    let old := secGet run 7 n
    Map.insert m (k2 7 n) (b.take (8 + 32 * leAt b 0 2) ++ old.drop (8 + 32 * leAt old 0 2))) plain
  let tcam := Map.insert acts (k2 5 4) (secGet new 5 4)
  if mask = 0xF then
    let m := Map.insert tcam (k2 2 4) (secGet new 2 4)
    if secGet new 6 4 = [] then Map.erase m (k2 6 4) else Map.insert m (k2 6 4) (secGet new 6 4)
  else tcam

/-- Ports of the regions of a mask. -/
def maskPorts (mask : Nat) : List Nat := (List.range 128).filter (fun p => bitOf mask (p / 32))

/-- The PORTS record of a port's group differs between two configurations. -/
def recordChanged (a b : Map Bytes) (p : Nat) : Bool :=
  slice (secGet a 1 (p / 32)) (16 * (p / 4 % 8)) 16 != slice (secGet b 1 (p / 32)) (16 * (p / 4 % 8)) 16

/-- A region stops: the frames of its second-pass queue, being sent there or resolved to it, and the frames not yet resolved
are discards of the reload, and its turns are abandoned (R68, R168, Table 5-5). -/
def Dev.stopRegion (d : Dev) (n : Nat) : Dev :=
  let queued := (List.range 8).foldl (fun k t => k + (d.queue (128 + n) t).length) (b2n (d.inflight (128 + n)).isSome)
  let d1 := d.dropRecirc n
  let again (r : Rx) : Bool := r.res.all (fun x => match x.fwd with | .recirc _ _ => true | _ => false)
  let waiting := d1.buf.rx.filter (fun x => x.2.any (fun r => decide (r.region = n) && again r))
  let d2 := waiting.foldl (fun d x => d.setRx x.1 none) d1
  let d3 := { d2 with search := { d2.search with inspect := Map.set [] d2.search.inspect n [] } }
  let d4 := d3.reloadDiscard n (queued + waiting.length)
  (List.range 8).foldl (fun d i => d.abandonTurn (8 * n + i) 5) d4

/-- A port whose record changes goes down and retrains, under LINK_FLAP_HOLD. -/
def Dev.retrainPort (d : Dev) (p : Nat) : Dev :=
  ((d.set1 .MAC_STATUS_PCS_LOCK p 0).set1 .MAC_STATUS_AN_DONE p (b2n (!d.portNeg p))).linkDown p .pcsLock d.flapHold

/-- REGION_RELOAD_APPLY (R68): ingress of the masked regions stops and their new sections are written. -/
def execRegionReloadApply (s : State) : Host.Outcome State Fault Refusal :=
  s.run fun d => match d.img.reload with
    | none => d
    | some r =>
      if r.stopped then d
      else
        let new := reloadSections d.img.sections r.sections r.mask
        let d0 : Dev := { d with img := { d.img with reload := some ⟨r.mask, d.img.sections, true, 0⟩ } }
        let d1 := ((List.range 4).filter (fun n => bitOf r.mask n)).foldl Dev.stopRegion d0
        let d2 := ((maskPorts r.mask).filter (recordChanged d.img.sections new)).foldl Dev.retrainPort d1
        { d2 with img := { d2.img with sections := new } }

/-- The hold queues of a port that is unused are emptied into DISCARDED (R316). -/
def Dev.dropPortHold (d : Dev) (p : Nat) : Dev :=
  (List.range 8).foldl (fun d t =>
    let x := d.holdQ (8 * p + t)
    if x.active then (d.emptyQueue (8 * p + t) .HLD_T_DISCARDED false).holdSettle (8 * p + t) else d) d

/-- The ports of a reloaded region after its bring-up (R68, R99, R511): the limits of every port, and on a port whose
record changed all that a commit sets; a changed mode zeroes the bandwidth peaks. -/
def Dev.reloadPorts (d : Dev) (old : Map Bytes) (mask : Nat) : Dev :=
  (maskPorts mask).foldl (fun d p =>
    let d1 := d.portLimits p
    if recordChanged old d.img.sections p then
      let was := d1.portMode p
      let d2 := (d1.portInfo p).portStart p
      let d3 := if d2.portMode p = was then d2 else (d2.set1 .PMC_BW_RX_PEAK p 0).set1 .PMC_BW_TX_PEAK p 0
      if d3.portUsed p then d3
      else ((d3.setMac p { d3.macSt p with drive := .electricalIdle }).dropPortHold p).clearCtrs .MAC_STAT p
    else d1) d

/-- REGION_RELOAD_BRINGUP (R68): the bring-up of the stopped regions passes, or the previous sections are restored, or,
where they fail too, the regions are isolated. -/
def execRegionReloadBringup (ok restored : Bool) (s : State) : Host.Outcome State Fault Refusal :=
  s.run fun d => match d.img.reload with
    | none => d
    | some r =>
      if !r.stopped then d
      else
        let regions := (List.range 4).filter (fun n => bitOf r.mask n)
        let d0 := { d with img := { d.img with reload := none } }
        if ok then
          let d1 := (d0.reloadPorts r.sections r.mask).set0 .IMG_STATUS_DIVERGED 1
          ((d1.set0 .IMG_AMEND_COUNT 0).record .REGION_RELOAD_DONE 0 0 (payloadOf [(4, r.gone)])).imgEnd 0 0
        else
          let d1 := ({ d0 with img := { d0.img with sections := r.sections } }).record .REGION_RELOAD_FAILED 0 0
            (payloadOf [])
          let d2 := if restored then d1 else regions.foldl (fun d n => d.isolateRegion n EvCode.REGION_RELOAD_FAILED.code) d1
          (d2.imgEnd 0 0).set0 .IMG_STATUS_DONE_OK 0

/-! ### Amendments (R69, R70) -/

/-- AMEND (R70). -/
def Dev.imgAmend (d : Dev) (m : Nat) (host : Option Bytes) : Dev :=
  d.imgGo m ⟨4, 0, 0, false⟩ fun d =>
    d.withBuffer host id fun d img =>
      match d.verify img (d.f0 .IMG_LEN) .amend with
      | some r => d.imgRefuse r 2
      | none =>
        let d1 := d.noteLoad img
        { d1 with img := { d1.img with amend := some (imgSections img) } }

/-- IMG_AMEND (R69): an amendment is read from the host buffer and verified. -/
def execImgAmend (m : Master) (host : Option (List (BitVec 8))) (s : State) : Host.Outcome State Fault Refusal :=
  s.run fun d => d.imgAmend m host

/-- AMENDMENT_APPLY (R70): the live sections of an amendment come into force. -/
def execAmendmentApply (s : State) : Host.Outcome State Fault Refusal :=
  s.run fun d => match d.img.amend with
    | none => d
    | some new =>
      let live := new.filter (fun x => (secType (Nat.unpair x.1).1).any (fun k => k.1 != .info))
      let m := live.foldl (fun m x => Map.insert m x.1 x.2) d.img.sections
      let d1 := { d with img := { d.img with sections := m, amend := none } }
      let d2 := if (secGet new 11 4).isEmpty then d1 else d1.takeTime
      let d3 := d2.takeCals (calRecords (secGet new 13 4))
      let types := (live.map (fun x => (Nat.unpair x.1).1)).dedup
      let mask := types.foldl (fun n t => n + 2 ^ t) 0
      let d4 := (d3.satInc .IMG_AMEND_COUNT 0 0 1).set0 .IMG_STATUS_DIVERGED 1
      (d4.record .AMENDMENT_APPLIED 0 0 (payloadOf [(2, mask)])).imgEnd 0 0

/-! ### Slots, LOAD_AND_COMMIT and refusals (R72, R73, R82) -/

/-- ERASE_SLOT. -/
def Dev.imgEraseSlot (d : Dev) (m : Nat) (slot : Nat) : Dev :=
  d.imgGo m ⟨5, slot, 0, false⟩ fun d =>
    if d.startedFrom slot then d.imgEnd 17 0 else (d.setSlot slot [] 0).imgEnd 0 0

/-- IMG_ERASE_SLOT (R73): a slot but the one started from is erased. -/
def execImgEraseSlot (m : Master) (slot : Fin 4) (s : State) : Host.Outcome State Fault Refusal :=
  s.run fun d => d.imgEraseSlot m slot

/-- VERIFY_SLOT (R57). -/
def Dev.imgVerifySlot (d : Dev) (m : Nat) (slot : Nat) (lost : Option (Nat × Nat)) : Dev :=
  d.imgGo m ⟨6, slot, 0, false⟩ fun d =>
    if (Map.get none d.img.slots slot).isNone then d.imgEnd 17 0
    else match d.verifySlot slot .full ((lost.map (fun r => (slot, r))).toList) with
      | some r => (d.slotState slot 6).imgRefuse r 0
      | none => d.imgEnd 0 0

/-- IMG_VERIFY_SLOT (R57): a slot is verified as it is read back; one that fails is CORRUPT. -/
def execImgVerifySlot (m : Master) (slot : Fin 4) (lost : Option (Nat × Nat)) (s : State) :
    Host.Outcome State Fault Refusal :=
  s.run fun d => d.imgVerifySlot m slot lost

/-- LOAD_AND_COMMIT (R82). -/
def Dev.imgLoadAndCommit (d : Dev) (m : Nat) (host : Option Bytes) : Dev :=
  d.imgGo m ⟨7, 0, 0, false⟩ fun d =>
    if !d.boot.fwRuns then d.imgEnd 16 0
    else d.withBuffer host id fun d img =>
      match d.verify img (d.f0 .IMG_LEN) .full with
      | some r => d.imgRefuse r 2
      | none => ((d.noteLoad img).commit 2 0 img d.boot.afterExit).imgEnd 0 0

/-- IMG_LOAD_AND_COMMIT (R82): the image of the host is verified and commits without a trial; after a WINTER_EXIT the live
calibration stays (R404). -/
def execImgLoadAndCommit (m : Master) (host : Option (List (BitVec 8))) (s : State) : Host.Outcome State Fault Refusal :=
  s.run fun d => d.imgLoadAndCommit m host

/-- IMG_BAD_COMMAND (R73): a GO that is refused with BAD_COMMAND; nothing is read. -/
def execImgBadCommand (m : Master) (op : Fin 16) (slot : Fin 4) (mask : Fin 16) (fromHost : Bool) (s : State) :
    Host.Outcome State Fault Refusal :=
  s.run fun d =>
    if d.badCommand ⟨op, slot, mask, fromHost⟩ then d.imgGo m ⟨op, slot, mask, fromHost⟩ id else d

/-- IMAGE_TRIAL_TIMEOUT (R65): IMG_TRIAL_TIME ends with neither SUMMER nor AUTUMN reached. -/
def execImageTrialTimeout (s : State) : Host.Outcome State Fault Refusal :=
  s.run fun d => if d.img.trial.any (fun t => decide (t.2 ≤ d.now)) then d.trialFailed else d

/-- SECTION_SCRUB (R61): the 1 ms scrub of the running sections; an uncorrectable error causes WINTER. -/
def execSectionScrub (bad : Bool) (s : State) : Host.Outcome State Fault Refusal :=
  s.run fun d =>
    if !bad ∨ !d.boot.committed then d
    else
      let d1 := (d.record .SECTION_UNCORRECTABLE 0 0 (payloadOf [])).winterCause .HLT_CAUSE_CONFIG
        EvCode.SECTION_UNCORRECTABLE.code
      { d1 with hlt := { d1.hlt with cfgBad := true } }

end Sys2Proof.Machine
end

