-- ==== Sys2Proof/Machine/Indirect.lean ====
section
/-! DEFINITION. The indirect windows (R457 to R459): one bank of registers per region and master. -/

namespace Sys2Proof.Machine

/-- The bank of a master in a region's window; a read through PF3 sees master 4's (R457). -/
def Dev.indBank (d : Dev) (n m : Nat) : IndBank := Map.get .reset d.reg.ind (k2 n (if m = 7 then 4 else m))

def Dev.setInd (d : Dev) (n m : Nat) (b : IndBank) : Dev :=
  { d with reg := { d.reg with ind := Map.set .reset d.reg.ind (k2 n m) b } }

/-- The host interface version in force for a master: it governs PF0 and PF3 only (R460). -/
def Dev.hif (d : Dev) (m : Nat) : Nat × Nat :=
  if m = 4 ∨ m = 7 then (d.f0 .GLB_HIF_ACTIVE_MAJOR, d.f0 .GLB_HIF_ACTIVE_MINOR) else (3, 4)

/-- AUTO_INC exists from version 3.2 on (Table 17-8). -/
def Dev.autoIncIn (d : Dev) (m : Nat) : Bool := decide ((d.hif m).1 = 3 ∧ 2 ≤ (d.hif m).2)

/-- AUTO_INC as a master reads it. -/
def Dev.autoInc (d : Dev) (m : Nat) (b : IndBank) : Bool := b.autoInc && d.autoIncIn m

/-- A fetch of 16 words starts (R458). -/
def IndBank.fetch (b : IndBank) : IndBank := { b with ready := false, fetching := true }

/-- WORD advances by s, and the next fetch starts. -/
def IndBank.advance (b : IndBank) : IndBank := { b with word := (b.word + b.stride) % 2 ^ 19 }.fetch

/-- A write to a register of the window: while BUSY it only sets COLLISION (Table 17-6). -/
def Dev.indWrite (d : Dev) (n m : Nat) (f : IndBank → IndBank) : Dev :=
  let b := d.indBank n m
  d.setInd n m (if b.busy then { b with collision := true } else f b)

/-- The words IND_ADDR, IND_STATUS, IND_CMD and IND_DATA[i] as a master reads them (Tables 17-5 to 17-7). -/
def Dev.indAddr (d : Dev) (n m : Nat) : Nat :=
  let b := d.indBank n m
  b.space * 2 ^ 24 + b2n (d.autoInc m b) * 2 ^ 23 + (b.stride - 1) * 2 ^ 19 + b.word
def Dev.indStatus (d : Dev) (n m : Nat) : Nat :=
  let b := d.indBank n m
  b2n b.ready * 2 ^ 31 + b2n b.busy * 2 ^ 30 + b2n b.collision * 2 ^ 29 + b2n b.early * 2 ^ 28 + b.err * 2 ^ 24

/-- A write of IND_ADDR. -/
def Dev.indAddrWrite (d : Dev) (n m w : Nat) : Dev :=
  d.indWrite n m fun b => { b with
    space := bitsOf w 24 8, autoInc := if d.autoIncIn m then bitOf w 23 else b.autoInc
    stride := bitsOf w 19 4 + 1, word := bitsOf w 0 19 }.fetch

/-- A write of IND_STATUS: COLLISION and EARLY_READ are W1C. -/
def Dev.indStatusWrite (d : Dev) (n m w : Nat) : Dev :=
  let b := d.indBank n m
  d.setInd n m { b with collision := b.collision && !bitOf w 29, early := b.early && !bitOf w 28 }

/-- A write of IND_DATA[i]; before the fetch completes the word is staged (R458). -/
def Dev.indDataWrite (d : Dev) (n m i w : Nat) : Dev :=
  d.indWrite n m fun b => { b with
    data := b.data.set i (w % 2 ^ 32), staged := if b.ready then b.staged else putBit b.staged i true }

/-- A read of IND_DATA[i] (R458); through PF3 nothing advances and EARLY_READ stays. -/
def Dev.indDataRead (d : Dev) (n m i : Nat) : Nat × Dev :=
  let b := d.indBank n m
  if !b.ready then (0, if m = 7 then d else d.setInd n m { b with early := true })
  else
    let v := b.data.getD i 0
    if m ≠ 7 ∧ d.autoInc m b ∧ i + 1 = b.stride then (v, d.setInd n m b.advance) else (v, d)

/-- The fetch completes (R458). -/
def Dev.indFetched (d : Dev) (n m : Nat) : Dev :=
  let b := d.indBank n m
  if !b.fetching then d
  else match spaceShape b.space with
    | none => d.setInd n m { b with fetching := false, err := 1 }
    | some (k, c) =>
      let data := (List.range 16).map (fun i =>
        if bitOf b.staged i then b.data.getD i 0 else d.spaceWord n b.space (b.word + i))
      d.setInd n m { b with
        fetching := false, ready := true, data := data, staged := 0, err := if b.word < k * c then b.err else 2 }

/-- IND_CMD.GO (R459): the checks in the rule's order, then each entry in one update. -/
def Dev.indGo (d : Dev) (n m : Nat) : Dev :=
  let b := d.indBank n m
  let fail (e : Nat) : Dev := d.setInd n m { b with err := e }
  match spaceShape b.space with
  | none => fail 1
  | some (k, c) =>
    if b.word % k ≠ 0 ∨ b.count % k ≠ 0 then fail 3
    else if spaceReadOnly b.space then fail 4
    else if d.regionIsolated n then (fail 5).accessFailed m .isolated (Reg.IND_CMD.addr n 0)
    else if k * c < b.word + b.count then fail 2
    else
      let d1 := (List.range (b.count / k)).foldl (fun (d : Dev) e =>
        d.writeEntry n b.space (b.word / k + e) ((b.data.drop (e * k)).take k |>.flatMap (leBytes 4))) d
      d1.setInd n m { b with busy := true }

/-- A write of IND_CMD; a COUNT outside 1 to 16 has no effect (R444). -/
def Dev.indCmdWrite (d : Dev) (n m w : Nat) : Dev :=
  let c := bitsOf w 0 5
  if c = 0 ∨ 16 < c then d
  else
    let busy := (d.indBank n m).busy
    let d1 := d.indWrite n m fun b => { b with count := c }
    if bitOf w 31 && !busy then d1.indGo n m else d1

/-- IND_ADDR_WRITE (R458). -/
def execIndAddrWrite (m : Master) (n : Region) (w : BitVec 32) (s : State) : Host.Outcome State Fault Refusal :=
  s.run fun d => d.onWrite m .IND_ADDR n 0 fun d => d.indAddrWrite n m w.toNat

/-- IND_FETCH_DONE (R458). -/
def execIndFetchDone (m : Master) (n : Region) (s : State) : Host.Outcome State Fault Refusal :=
  s.run fun d => d.indFetched n m

/-- IND_DATA_READ_ADVANCE (R458): a master reads IND_DATA[s − 1]. -/
def execIndDataReadAdvance (m : Master) (n : Region) (s : State) : Host.Outcome State Fault Refusal :=
  s.run fun d =>
    let i := (d.indBank n m).stride - 1
    d.gateRead m (Reg.IND_DATA.addr n i) fun d => d.indDataRead n m i

/-- IND_CMD_GO (R459). -/
def execIndCmdGo (m : Master) (n : Region) (count : Fin 32) (s : State) : Host.Outcome State Fault Refusal :=
  s.run fun d => d.onWrite m .IND_CMD n 0 fun d => d.indCmdWrite n m (2 ^ 31 + count)

/-- IND_WRITE_DONE (R459): BUSY clears, and with AUTO_INC the window advances. -/
def execIndWriteDone (m : Master) (n : Region) (s : State) : Host.Outcome State Fault Refusal :=
  s.run fun d =>
    let b := d.indBank n m
    if !b.busy then d
    else
      let b1 := { b with busy := false }
      d.setInd n m (if d.autoInc m b then b1.advance else b1)

end Sys2Proof.Machine
end

