-- ==== Sys2Proof/Machine/Mailbox.lean ====
section
/-! DEFINITION. The commands of the mailboxes, doorbells and locks (spec/18). -/

namespace Sys2Proof.Machine

/-! ### Posting, taking, delivering and acknowledging -/

/-- A write to an H2F mailbox (R466, R478): the owner alone, with the firmware domain up; otherwise it fails. -/
def Dev.h2fWrite (d : Dev) (m pair off : Nat) (f : Dev → Dev) : Dev :=
  if m = 7 ∨ d.preBootAbort m off then d.gateWrite m off f
  else if m ≠ pairMaster pair then d.abortAccess m .reserved off true
  else if !d.fwUp then
    let d1 := ((d.set0 .MBX_STATUS_DOMAIN_DOWN 1).count .MBX_DOMAIN_DOWN_ACCESSES 0).accessLast m 13 off
    { d1 with reg := { d1.reg with
      aerAbort := if m = 8 ∨ m - 4 ∈ d1.reg.aerAbort then d1.reg.aerAbort else (m - 4) :: d1.reg.aerAbort } }.complete .abort
  else d.gateWrite m off f

/-- A write while FULL has no effect and sets COLLISION (R467). -/
def Dev.h2fFree (d : Dev) (m pair : Nat) (f : Dev → Dev) : Dev :=
  if d.b1 .MBX_H2F_STATUS_FULL pair
  then ((d.set1 .MBX_H2F_STATUS_COLLISION pair 1).count .MBX_COLLISIONS 0).mbxViolation m pair 0
  else f d

/-- GO: the message waits for the firmware. -/
def Dev.h2fGo (d : Dev) (m pair : Nat) : Dev :=
  d.h2fWrite m pair (Reg.MBX_H2F_CTRL.addr pair 0) fun d => d.h2fFree m pair fun d =>
    (d.set1 .MBX_H2F_STATUS_FULL pair 1).count .MBX_H2F_MESSAGES 0

/-- MBX_H2F_POST (R467). -/
def execMbxH2fPost (m : Master) (pair : Fin 8) (s : State) : Host.Outcome State Fault Refusal :=
  s.run fun d => d.h2fGo m pair

/-- A write of MBX_H2F_DATA. -/
def Dev.h2fData (d : Dev) (m pair i v : Nat) : Dev :=
  d.h2fWrite m pair (Reg.MBX_H2F_DATA.addr pair i) fun d => d.h2fFree m pair fun d => d.setFld .MBX_H2F_DATA pair i v

/-- MBX_H2F_TAKE (R467): the firmware copies the message and FULL clears. -/
def execMbxH2fTake (pair : Fin 8) (s : State) : Host.Outcome State Fault Refusal :=
  s.run fun d =>
    if !d.fwUp ∨ !d.b1 .MBX_H2F_STATUS_FULL pair then d
    else
      let x : Msg := ⟨d.h2fWords pair, d.mbx.h2fStale.contains pair.val⟩
      { d with mbx := { d.mbx with
        requests := Map.update [] d.mbx.requests pair (· ++ [x])
        h2fStale := d.mbx.h2fStale.filter (fun q => decide (q ≠ pair.val)) } }.set1 .MBX_H2F_STATUS_FULL pair 0

/-- The challenge whose reply is delivered begins its 10 s (R472). -/
def Dev.challengeDelivered (d : Dev) (pair : Nat) (x : Msg) : Dev :=
  if x.opcode ≠ 0x010 ∨ x.status ≠ 0 ∨ bitOf (x.word 1) 22 then d
  else
    let bytes := ((x.words.drop 3).take 8).flatMap (leBytes 4)
    let key (p : Nat) : Nat := k2 (pairMaster pair) p
    [1, 2].foldl (fun (d : Dev) p => match Map.get none d.mbx.challenges (key p) with
      | some c => if c.bytes = bytes then { d with mbx := { d.mbx with
          challenges := Map.set none d.mbx.challenges (key p) (some { c with deliveredAt := some d.now }) } } else d
      | none => d) d

/-- MBX_F2H_DELIVER (R468): the front of the queue goes into the mailbox while it is free and its reader's domain is
up. -/
def execMbxF2hDeliver (pair : Fin 8) (s : State) : Host.Outcome State Fault Refusal :=
  s.run fun d =>
    match Map.get [] d.mbx.queue pair with
    | x :: rest =>
      if !d.fwUp ∨ d.f2hFull pair ∨ !d.senderUp pair then d
      else
        let d1 := { d with mbx := { d.mbx with queue := Map.set [] d.mbx.queue pair rest } }
        let d2 := (List.range 16).foldl (fun d i => d.setFld .MBX_F2H_DATA pair i (x.word i)) d1
        let d3 := ((d2.set1 .MBX_F2H_STATUS_FULL pair 1).set1 .MBX_F2H_STATUS_STALE pair (b2n (bitOf (x.word 1) 23))).set1
          .MBX_F2H_STATUS_QUEUED pair rest.length
        (((d3.count .MBX_F2H_MESSAGES 0).raise (327 + pair)).challengeDelivered pair x).postLostNotice
    | [] => d

/-- ACK of an F2H mailbox by its owner. -/
def Dev.f2hAck (d : Dev) (m pair : Nat) : Dev :=
  let off := Reg.MBX_F2H_CTRL.addr pair 0
  if m = 7 ∨ d.preBootAbort m off ∨ m = pairMaster pair then
    d.gateWrite m off fun d => ((d.set1 .MBX_F2H_STATUS_FULL pair 0).set1 .MBX_F2H_STATUS_STALE pair 0).postLostNotice
  else d.abortAccess m .reserved off true

/-- MBX_F2H_ACK (R466, R468). -/
def execMbxF2hAck (m : Master) (pair : Fin 8) (s : State) : Host.Outcome State Fault Refusal :=
  s.run fun d => d.f2hAck m pair

/-! ### Requests (R469 to R477) -/

/-- The opcodes of Table 18-3 from the version that introduces them: pairs and lengths of a request. -/
def opcodeRow (op : Nat) : Option (Nat × List Nat × Nat × Nat) :=
  let all := [0, 1, 2, 3, 4, 5, 7]
  match op with
  | 0x001 => some (1, all, 0, 0)
  | 0x002 => some (1, all, 0, 14)
  | 0x003 => some (1, all, 0, 0)
  | 0x010 => some (2, all, 1, 1)
  | 0x011 => some (2, all, 8, 8)
  | 0x020 => some (2, all, 0, 0)
  | 0x021 => some (2, all, 8, 8)
  | 0x030 => some (2, [0], 13, 13)
  | 0x040 => some (3, [], 0, 14)
  | 0x041 => some (3, [], 0, 14)
  | 0x042 => some (3, [], 0, 14)
  | 0x050 => some (1, [], 0, 14)
  | 0x051 => some (1, [], 0, 14)
  | _ => none

/-- The first four checks of R471: the status of the first that fails. -/
def requestCheck (m : Nat) (x : Msg) : Option Nat :=
  if x.version = 0 then some 3
  else match opcodeRow x.opcode with
    | none => some 1
    | some (v, pairs, lo, hi) =>
      if min x.version 3 < v then some 1
      else if m ∉ pairs then some 4
      else if x.len < lo ∨ hi < x.len then some 2
      else none

/-- The firmware serves the front request of a pair: one that `mine` selects.  It is served when no earlier one of the
pair waits (R467); a request that fails a check is answered with its status and nothing else happens (R471), a bad
opcode, length or version being a violation (R483). -/
def Dev.serve (d : Dev) (m : Nat) (mine : Msg → Bool) (f : Dev → Msg → Dev) : Dev :=
  match Map.get [] d.mbx.requests m with
  | [] => d
  | x :: rest =>
    if !d.fwUp ∨ !mine x ∨ d.mbx.flushReply.any (fun y => decide (y.1 = m)) ∨ d.mbx.eraseReply.any (fun y => decide (y.1 = m))
    then d
    else
      let d1 := { d with mbx := { d.mbx with requests := Map.set [] d.mbx.requests m rest } }
      match requestCheck m x with
      | some st =>
        let d2 := if st = 4 then d1 else d1.mbxViolation (pairMaster m) m 1
        d2.reply m x st []
      | none => f d1 x

def Msg.isOp (op : Nat) (x : Msg) : Bool := decide (x.opcode = op)

/-- MBX_GET_INFO (R471). -/
def execMbxGetInfo (pair : Fin 8) (s : State) : Host.Outcome State Fault Refusal :=
  s.run fun d => d.serve pair (Msg.isOp 0x001) fun d x =>
    d.reply pair x 0 [d.f0 .GLB_FW_VERSION, d.f0 .GLB_VER_MBX, d.health + 16 * d.f0 .PAIR_STATUS_ROLE,
      (d.credential.map (·.1)).getD 0]

/-- MBX_ECHO (R471). -/
def execMbxEcho (pair : Fin 8) (s : State) : Host.Outcome State Fault Refusal :=
  s.run fun d => d.serve pair (Msg.isOp 0x002) fun d x => d.reply pair x 0 ((List.range x.len).map x.arg)

/-- MBX_EVR_FLUSH (R471, R492): the reply waits for the end of the flush. -/
def execMbxEvrFlush (pair : Fin 8) (s : State) : Host.Outcome State Fault Refusal :=
  s.run fun d => d.serve pair (Msg.isOp 0x003) fun d x =>
    { d with mbx := { d.mbx with flushReply := d.mbx.flushReply ++ [(pair.val, true, x)] } }.evrTrigger

/-- MBX_CHALLENGE (R472, R473, R474): PURPOSE, then the hold-off, the credential and the state (log 61). -/
def execMbxChallenge (pair : Fin 8) (s : State) : Host.Outcome State Fault Refusal :=
  s.run fun d => d.serve pair (Msg.isOp 0x010) fun d x =>
    let purpose := x.arg 0
    if purpose ≠ 1 ∧ purpose ≠ 2 then d.reply pair x 11 []
    else if d.b0 .MBX_STATUS_CRED_HOLDOFF then d.reply pair x 12 []
    else match d.credential with
      | none => d.reply pair x 6 []
      | some (id, _) =>
        if purpose = 1 ∧ !d.winter then d.reply pair x 5 []
        else
          let r := d.draw
          let bytes := leBytes 32 r.1
          let fresh : Challenge := ⟨bytes, none⟩
          let cs := Map.set none r.2.mbx.challenges (k2 (pairMaster pair) purpose) (some fresh)
          let d1 := { r.2 with mbx := { r.2.mbx with challenges := cs } }
          d1.reply pair x 0 (id :: (List.range 8).map (fun i => leAt bytes (4 * i) 4) ++ [10000])

/-- MBX_EVR_CLEAR (R474, R497): with a valid response the FIFO is flushed, CLEARED is written and the erase starts. -/
def execMbxEvrClear (pair : Fin 8) (s : State) : Host.Outcome State Fault Refusal :=
  s.run fun d => d.serve pair (Msg.isOp 0x011) fun d x =>
    let m := pairMaster pair
    let ch := d.challenge m 2
    let d0 := d.dropChallenge m 2
    match d0.credential, ch with
    | none, _ => d0.reply pair x 6 []
    | some _, none => d0.reply pair x 8 []
    | some (id, key), some c =>
      let resp := (List.range 8).flatMap (fun i => leBytes 4 (x.arg i))
      if resp ≠ response key c 2 then (d0.badResponse m 2).reply pair x 7 []
      else if d0.evr.freezeAt.isSome ∨ d0.evr.erase.isSome ∨ !d0.evrStore then d0.reply pair x 5 []
      else
        let d1 := d0.evrWriteAll
        let a := d1.evr.oldest
        let b := (d1.evr.head + 2 ^ 32 - 1) % 2 ^ 32
        let d2 := (d1.record .CLEARED 9 m (payloadOf [(4, a), (4, b), (1, m), (4, id)])).evrWriteAll
        let d3 := (d2.count .EVR_CLEARS 0).set0 .EVR_STATUS_ERASING 1
        let owed := some (pair.val, x)
        { d3 with evr := { d3.evr with erase := some (a, b) }, mbx := { d3.mbx with eraseReply := owed } }

/-- A byte string as message words, each word least significant byte first. -/
def wordsOf (b : Bytes) : List Nat := (List.range ((b.length + 3) / 4)).map (fun i => leAt b (4 * i) 4)

/-- MBX_GET_ID_KEY (R475). -/
def execMbxGetIdKey (pair : Fin 8) (s : State) : Host.Outcome State Fault Refusal :=
  s.run fun d => d.serve pair (Msg.isOp 0x020) fun d x =>
    d.reply pair x 0 (wordsOf ((List.range 97).map Config.idPoint ++ [0, 0, 0]))

/-- The attestation report (Table 18-5). -/
def Dev.report (d : Dev) (nonce : Bytes) : Bytes :=
  let id := d.f0 .GLB_ID_DEVICE * 65536 + d.f0 .GLB_ID_GRADE * 4096 + d.f0 .GLB_ID_STEP
  let flags := d.health + 4 * d.f0 .IMG_OWNER_STATUS_KEY_SET + 8 * d.f0 .IMG_STATUS_DIVERGED
  leBytes 4 1 ++ leBytes 4 id ++ leBytes 16 Config.serial.toNat ++ nonce ++
    (List.range 12).flatMap (fun i => leBytes 4 (d.f1 .IMG_RUN_DIGEST i)) ++ leBytes 4 (d.f0 .GLB_FW_VERSION) ++
    leBytes 4 flags ++ leBytes 4 (d.f0 .CLK_POWER_CYCLES) ++ leBytes 8 (d.opMs / 1000 % 2 ^ 40) ++ leBytes 4 0

/-- MBX_ATTEST (R475). -/
def execMbxAttest (pair : Fin 8) (s : State) : Host.Outcome State Fault Refusal :=
  s.run fun d => d.serve pair (Msg.isOp 0x021) fun d x =>
    let nonce := (List.range 8).flatMap (fun i => leBytes 4 (x.arg i))
    let rep := d.report nonce
    let d1 := d.record .ATTEST_ISSUED 9 (pairMaster pair) (payloadOf [(1, pairMaster pair), (8, leAt nonce 0 8)])
    d1.reply pair x 0 (wordsOf (rep ++ beBytes 96 (Config.attestSig rep).toNat))

/-- MBX_FUSE_OWNER_KEY (R58, R476); `readback` says whether the fuse reads as it was written. -/
def execMbxFuseOwnerKey (pair : Fin 8) (readback : Bool) (s : State) : Host.Outcome State Fault Refusal :=
  s.run fun d => d.serve pair (Msg.isOp 0x030) fun d x =>
    let hash := leNat ((List.range 12).flatMap (fun i => leBytes 4 (x.arg i)))
    if x.arg 12 ≠ 0xF05E then d.reply pair x 11 []
    else if !d.winter ∧ d.boot.committed then d.reply pair x 5 []
    else if d.b0 .IMG_STATUS_BUSY then d.reply pair x 10 []
    else if d.b0 .IMG_OWNER_STATUS_KEY_SET then d.reply pair x 9 []
    else if !readback ∨ d.mbx.fuseBroken then
      let d1 := { d with mbx := { d.mbx with fuseBroken := true } }.autumn .HLT_AUTUMN_CAUSE_FUSE .AUTUMN_ENTERED
      d1.reply pair x 5 []
    else
      let d1 := { d with img := { d.img with ownerKey := some hash } }.set0 .IMG_OWNER_STATUS_KEY_SET 1
      let d2 := (List.range 12).foldl (fun d i => d.set1 .IMG_OWNER_HASH i (x.arg i)) d1
      (d2.record .OWNER_KEY_SET 0 0 (payloadOf [])).reply pair x 0 []

/-- MBX_UNKNOWN_OPCODE (R470, R471): the front request of a pair, where no other command serves it, or where its opcode is
above the version in force. -/
def execMbxUnknownOpcode (pair : Fin 8) (s : State) : Host.Outcome State Fault Refusal :=
  s.run fun d => d.serve pair
    (fun x => decide (requestCheck pair x = some 1) ||
      (decide (pair.val ≠ 6) && !([0x001, 0x002, 0x003, 0x010, 0x011, 0x020, 0x021, 0x030].contains x.opcode))) fun d x =>
    d.reply pair x 1 []

/-! ### The host witness (R477) -/

/-- What a reply of the host witness to a request at `epoch` does: an acknowledgement, a grant or a refusal. -/
def Dev.hostAnswer (d : Dev) (op epoch : Nat) (x : Msg) : Dev :=
  let slot := (d.witSlots.find? (fun k => decide (d.witness k = 0xFF))).getD 0
  let d1 := d.witAnswered slot
  if x.status = 0 then
    if op = 0x040 then d1.renewAck (some slot) epoch ((d1.pair.renewal.map (·.seq)).getD 0)
    else if op = 0x041 then d1.granted slot epoch else d1
  else if x.status = 13 then d1.refusedBy (x.arg 1) (x.arg 0) 0xFF
  else d1

/-- MBX_WITNESS_REPLY (R477): the front message of pair 6 is matched to its request; a late reply is discarded and
counted, one with an unknown sequence is a violation. -/
def execMbxWitnessReply (s : State) : Host.Outcome State Fault Refusal :=
  s.run fun d =>
    match Map.get [] d.mbx.requests 6 with
    | [] => d
    | x :: rest =>
      if !d.fwUp ∨ x.opcode ∉ [0x040, 0x041, 0x042] then d
      else
        let d1 := { d with mbx := { d.mbx with requests := Map.set [] d.mbx.requests 6 rest } }
        match d1.mbx.witness.find? (fun w => decide (w.1 = x.seq)) with
        | none => (d1.count .DMA_HOST_VIOLATIONS 0).mbxViolation 4 6 3
        | some (_, op, epoch, deadline) =>
          let d2 := { d1 with mbx := { d1.mbx with witness := d1.mbx.witness.filter (fun w => decide (w.1 ≠ x.seq)) } }
          if deadline < d2.now then d2.count .MBX_WITNESS_LATE 0 else d2.hostAnswer op epoch x

/-! ### Timers and doorbells -/

/-- CHALLENGE_EXPIRE (R472): 10 s after the delivery of its reply. -/
def execChallengeExpire (m : Master) (purpose : Fin 3) (s : State) : Host.Outcome State Fault Refusal :=
  s.run fun d => if (d.challenge m purpose).isSome then d else d.dropChallenge m purpose

/-- CRED_HOLDOFF_END (R474). -/
def execCredHoldoffEnd (s : State) : Host.Outcome State Fault Refusal :=
  s.run fun d =>
    if d.mbx.holdoffEnd.any (fun t => decide (t ≤ d.now))
    then { d with mbx := { d.mbx with holdoffEnd := none } }.set0 .MBX_STATUS_CRED_HOLDOFF 0 else d

/-- A write of 1s to MBX_DB_H2F: the defined bits are set, an undefined one counts as a host violation (R479). -/
def Dev.ringH2f (d : Dev) (m v : Nat) (high : Bool) : Dev :=
  let good := if high then 0 else v % 4
  let d1 := if v = good then d else (d.count .DMA_HOST_VIOLATIONS 0).mbxViolation m 0xFF 2
  if high then d1
  else [0, 1].foldl (fun d b => if bitOf good b then d.setBit .MBX_DB_H2F_LO 0 b true else d) d1

/-- DOORBELL_EVR_FLUSH (R479): the firmware acts on H2F bit 0 and clears it. -/
def execDoorbellEvrFlush (s : State) : Host.Outcome State Fault Refusal :=
  s.run fun d =>
    if d.fwUp ∧ bitOf (d.f0 .MBX_DB_H2F_LO) 0 then (d.setBit .MBX_DB_H2F_LO 0 0 false).evrTrigger else d

/-- DOORBELL_HOST_ALIVE (R479): the firmware answers H2F bit 1 with F2H bit 1. -/
def execDoorbellHostAlive (s : State) : Host.Outcome State Fault Refusal :=
  s.run fun d =>
    if d.fwUp ∧ bitOf (d.f0 .MBX_DB_H2F_LO) 1 then (d.setBit .MBX_DB_H2F_LO 0 1 false).doorbell 1 else d

/-! ### Locks (R480, R481) -/

/-- A read of LCK_LOCK[i] by a master: a free lock becomes its own. -/
def Dev.lockRead (d : Dev) (m i : Nat) : Nat × Dev :=
  let h := d.lockHolder i
  if m = 7 then (h, d)
  else if h = 0xF then (2 ^ 31 + m, d.set1 .LCK_LOCK_HOLDER i m)
  else (b2n (decide (h = m)) * 2 ^ 30 + h, d)

/-- LOCK_ACQUIRE_READ (R480); a read through PF3 acquires nothing (R425). -/
def execLockAcquireRead (m : Master) (i : Fin 64) (s : State) : Host.Outcome State Fault Refusal :=
  s.run fun d => d.gateRead m (Reg.LCK_LOCK.addr i 0) fun d => d.lockRead m i

/-- A write of LCK_LOCK[i]: the holder's identifier by the holder releases it (R481). -/
def Dev.lockWrite (d : Dev) (m i v : Nat) : Dev :=
  let h := d.lockHolder i
  if h = m ∧ v % 16 = m then d.set1 .LCK_LOCK_HOLDER i 0xF
  else (d.satInc .LCK_BAD_RELEASE 0 0 1).recordLimited .LOCK_BAD_RELEASE i tSec 9 m (payloadOf [(1, i), (1, m), (1, h)])

/-- LOCK_RELEASE_WRITE (R481). -/
def execLockReleaseWrite (m : Master) (i : Fin 64) (v : Fin 16) (s : State) : Host.Outcome State Fault Refusal :=
  s.run fun d => d.onWrite m .LCK_LOCK i 0 fun d => d.lockWrite m i v

end Sys2Proof.Machine
end

