-- ==== Sys2Proof/Machine/HoldBytes.lean ====
section
/-! DEFINITION. The bytes of the hold store as its rules lay them out (spec/11): pages, row metadata, ring entries, slot
records, and the 18 sectors of a stripe with their check symbols.  State holds what these bytes say, each fact once; the
definitions here give the bytes. -/

namespace Sys2Proof.Machine

/-! ### Rows of held traffic (R292, R293) -/

/-- The frames that a page holds, by offset. -/
def Dev.pageFrames (d : Dev) (h page : Nat) : List Held :=
  ((d.holdQ h).frames ++ (d.holdQ h).chain).filter (fun f => f.page == page)

/-- Whether a row of a queue's page is written: neither open in a row buffer nor waiting there for its write. -/
def Dev.rowWritten (d : Dev) (h page row : Nat) : Bool :=
  let x := d.holdQ h
  let isOpen (o : Option OpenRow) : Bool := o.any (fun r => r.page == page && decide (r.row ≤ row))
  !isOpen x.row && !isOpen x.chainRow && !d.hld.due.contains (h, page, row)

/-- Bytes of frame data in a row (USED). -/
def rowUsed (l : List Held) (row : Nat) : Nat :=
  l.foldl (fun n f => n + (min (f.off + f.bytes.length) (4096 * row + 4096) - max f.off (4096 * row))) 0

/-- The row metadata of Table 11-3, 256 bytes; a row not written reads zeros (log 76). -/
def Dev.rowMeta (d : Dev) (h page row : Nat) : Bytes :=
  let x := d.holdQ h
  let l := d.pageFrames h page
  let starts := (l.filter (fun f => f.off / 4096 == row)).take 56
  let used := rowUsed l row
  let ps := x.pages ++ x.chainPages
  let me := ps.find? (fun p => p.no == page)
  let next := ((ps.dropWhile (fun p => p.no ≠ page)).drop 1).head?
  let last := next.isSome && !l.any (fun f => f.inRow (row + 1))
  let time := ((starts.head?).map (·.opMs)).getD 0
  let flags := b2n (decide (used < 4096)) + 2 * b2n last + 4 * b2n (me.any (·.chain))
  let entries := starts.flatMap (fun f => leBytes 4 ((f.opMs - time) * 2 ^ 15 + f.bytes.length))
  let body := leBytes 1 0x5A ++ leBytes 1 row ++ leBytes 1 starts.length ++ leBytes 1 flags ++ leBytes 2 h ++
    leBytes 2 (((starts.head?).map (fun f => f.off % 4096)).getD 0xFFFF) ++ leBytes 6 time ++ leBytes 2 used ++
    leBytes 4 (if last then (next.map (·.no)).getD 0xFFFFFFFF else 0xFFFFFFFF) ++ leBytes 4 ((me.map (·.seq)).getD 0) ++ leBytes 4 0
  let tail := entries ++ List.replicate (224 - entries.length) 0
  if d.rowWritten h page row ∧ used ≠ 0 then body ++ leBytes 4 (crc32c (body ++ tail)) ++ tail else List.replicate 256 0

/-- Byte `o` of a page of held traffic. -/
def Dev.heldByte (d : Dev) (h page o : Nat) : Byte :=
  match (d.pageFrames h page).find? (fun f => decide (f.off ≤ o) && decide (o < f.off + f.bytes.length)) with
  | some f => f.bytes.getD (o - f.off) 0
  | none => 0

/-! ### The free ring and the slot records (R62, R290) -/

/-- Byte `o` of the free-ring area: entry i stands at byte 4i, least significant byte first; a place that holds no entry
reads zeros. -/
def Dev.ringByte (d : Dev) (o : Nat) : Byte :=
  let r := d.hld.ring
  let cap := heldEnd d.hld.capGib - heldFirst
  let i := o / 4
  let k := (i + cap - r.headCnt % cap) % cap
  if i < cap ∧ k < r.entries then (leBytes 4 ((r.entry k).getD 0)).getD (o % 4) 0 else 0

/-- The bytes of one copy of a slot record: sequence number, length of the image, state, state before it was marked,
CRC-32C (log 62). -/
def SlotCopy.bytes (x : SlotCopy) : Bytes :=
  let b := leBytes 4 x.seq ++ leBytes 4 x.len ++ leBytes 1 x.state ++ leBytes 1 x.back ++ leBytes 2 0
  b ++ leBytes 4 (crc32c b)

/-- Byte `o` of the last page of image slot `s`: its record, copy A at byte 0 and copy B at byte 32,768 (R62, log 62). -/
def Dev.recordByte (d : Dev) (s o : Nat) : Byte :=
  if o < 32768 then (Map.get SlotCopy.reset d.img.recA s).bytes.getD o 0
  else (Map.get SlotCopy.reset d.img.recB s).bytes.getD (o - 32768) 0

/-! ### The areas of bulk reads (R289, R313) -/

/-- The size in bytes of a read area (Table 11-8). -/
def Dev.areaSize (d : Dev) : Nat → Nat
  | 0 => 2 ^ 30
  | 1 => 2 ^ 30
  | 2 => 2 ^ 27
  | 3 => 2 ^ 24
  | 4 => d.hld.capGib * 2 ^ 30
  | _ => 0

/-- The first page of a read area (Table 11-2). -/
def Dev.areaPage (d : Dev) : Nat → Nat
  | 0 => 0
  | 1 => 16384
  | 2 => 32768
  | 3 => 34816
  | _ => heldEnd d.hld.capGib

/-- Byte `o` of an area; `fill` is what stands in the firmware slots and the calibration area, which the model does not
hold as bytes (log 62). -/
def Dev.areaByte (d : Dev) (area o : Nat) (fill : Byte) : Byte :=
  match area with
  | 0 => (d.slotBytes (o / 64)).getD (o % 64) 0
  | 1 =>
    if 2 ^ 28 - 65536 ≤ o % 2 ^ 28 then d.recordByte (o / 2 ^ 28) (o % 2 ^ 28 - (2 ^ 28 - 65536))
    else ((Map.get none d.img.slots (o / 2 ^ 28)).map (fun x => x.image.getD (o % 2 ^ 28) 0)).getD 0
  | 4 => ((Map.get none d.hld.capArea (o / 128)).map (fun b => b.getD (o % 128) 0)).getD 0
  | _ => fill

/-! ### Stripes (R284, R285, R287, R288) -/

/-- Byte `o` of a page: an area's, the free ring's, or a frame's of the queue that owns it. -/
def Dev.pageByte (d : Dev) (page o : Nat) : Byte :=
  match d.areaOf page with
  | 5 => (match d.pageOwner page with
    | some h => d.heldByte h page o
    | none => 0)
  | 6 => d.ringByte (65536 * (page - 35072) + o)
  | a => d.areaByte a (65536 * (page - d.areaPage a) + o) 0

/-- Byte `b` of data symbol `k` of a row: 256 bytes of its page, then 16 spare bytes of row metadata (R288, R292). -/
def Dev.dataByte (d : Dev) (page row k b : Nat) : Byte :=
  if b < 256 then d.pageByte page (4096 * row + 256 * k + b)
  else match d.areaOf page, d.pageOwner page with
    | 5, some h => (d.rowMeta h page row).getD (16 * k + (b - 256)) 0
    | _, _ => 0

/-- The two check symbols at one byte position of 16 data symbols: the values that make both sums of R285 zero. -/
def checkSymbols (data : List Nat) : Nat × Nat :=
  let s := syndromes (data.zipIdx.map (fun x => (x.2, x.1)))
  let c16 := ((List.range 256).find? (fun v => Nat.xor (gfPow 16 v) (gfPow 17 (Nat.xor s.1 v)) == s.2)).getD 0
  (c16, Nat.xor s.1 c16)

/-- Byte `b` of the sector that die `die` holds of a row (R284): a data symbol, or a check symbol over the 16 of them. -/
def Dev.sectorByte (d : Dev) (page row die b : Nat) : Nat :=
  let sym := dieSymbol die
  if sym < 16 then (d.dataByte page row sym b).toNat
  else
    let c := checkSymbols ((List.range 16).map (fun k => (d.dataByte page row k b).toNat))
    if sym = 16 then c.1 else c.2

end Sys2Proof.Machine
end

