-- ==== Sys2Proof/Machine/Pcie.lean ====
section
/-! DEFINITION. The PCI Express host attachment (spec/16): interrupts, the rings of PF1 and PF2, host frames, bulk reads,
power states, resets of a function and the loss of the host.  Ring `r` is transmit ring `r` for 0 to 63, receive ring
`r - 64` for 64 to 127 and request ring `r - 128` for 128 to 131. -/

namespace Sys2Proof.Machine

/-! ### Rings (R431, R435) -/

/-- The function of a ring, and its number within the function. -/
def ringFn (r : Nat) : Nat := if r < 128 then 1 else 2
def ringNo (r : Nat) : Nat := if r < 128 then r else r - 128

def Dev.ringHead (d : Dev) (r : Nat) : Nat := d.f1 .DMA_RING_HEAD r
def Dev.ringSize (d : Dev) (r : Nat) : Nat := max 1 (d.f1 .DMA_RING_SIZE r)

/-- Descriptors posted and not yet fetched. -/
def Dev.ringPosted (d : Dev) (r : Nat) : Nat := (d.f1 .DMA_RING_TAIL r + d.ringSize r - d.ringHead r) % d.ringSize r

/-- The host address of descriptor `i`, 32 bytes each. -/
def Dev.ringAddr (d : Dev) (r i : Nat) : Nat :=
  d.f1 .DMA_RING_BASE_HI r * 2 ^ 32 + d.f1 .DMA_RING_BASE_LO r * 4096 + 32 * (i % d.ringSize r)

def Dev.ringOn (d : Dev) (r : Nat) : Bool := d.b1 .DMA_RING_CTRL_ENABLE r && !d.b1 .DMA_RING_STATUS_HALTED r

/-- The ring fetches: enabled, not halted, its function in D0 and the host present (R94, R426). -/
def Dev.ringRuns (d : Dev) (r : Nat) : Bool := d.ringOn r && !d.host.lost && !d.host.d3hot.contains (ringFn r)

def Dev.ringAdvance (d : Dev) (r n : Nat) : Dev := d.set1 .DMA_RING_HEAD r ((d.ringHead r + n) % d.ringSize r)

/-- A ring stops with a code at an index. -/
def Dev.ringStop (d : Dev) (r code idx : Nat) : Dev :=
  (((d.set1 .DMA_RING_STATUS_HALTED r 1).set1 .DMA_RING_STATUS_RUNNING r 0).set1 .DMA_RING_STATUS_CODE r code).set1
    .DMA_RING_STATUS_HALT_INDEX r idx

/-- A ring halts: HOST_RING_HALTED, RING_HALTS and source 336. -/
def Dev.ringHalt (d : Dev) (r code idx : Nat) : Dev :=
  (((d.ringStop r code idx).count .DMA_RING_HALTS 0).record .HOST_RING_HALTED 14 (ringFn r * 256 + ringNo r)
    (payloadOf [(1, ringFn r), (1, ringNo r), (1, code), (2, idx)])).raise 336

/-- Descriptor `i` is written back with DONE and its status: FLAGS and STATUS stand at byte `o`. -/
def Dev.writeBack (d : Dev) (r i o flags status : Nat) : Dev :=
  d.emit (.hostWrite (d.ringAddr r i + o) (leBytes 1 (if bitOf flags 7 then flags else flags + 128) ++ leBytes 1 status))

def ModSt.reset : ModSt := ⟨0, 0⟩
def Dev.ringMod (d : Dev) (r : Nat) : ModSt := (Map.get none d.host.mods r).getD .reset
def Dev.setRingMod (d : Dev) (r : Nat) (m : Option ModSt) : Dev :=
  { d with host := { d.host with mods := Map.set none d.host.mods r m } }

/-- The ring's vector is signalled, and no write-back is pending. -/
def Dev.ringSignal (d : Dev) (r : Nat) : Dev := (d.msix (ringFn r) (d.f1 .DMA_RING_CTRL_VECTOR r)).setRingMod r none

/-- A write-back with INTERRUPT set, moderated by MOD (R435). -/
def Dev.ringIntr (d : Dev) (r : Nat) : Dev :=
  let count := d.f1 .DMA_RING_MOD_COUNT r
  let m := d.ringMod r
  let n := m.pending + 1
  if count ≤ n then d.ringSignal r
  else d.setRingMod r (some ⟨n, if m.pending = 0 then d.now else m.first⟩)

/-- MSIX_MODERATION_TIMER (R435): USEC after the first pending write-back. -/
def execMsixModerationTimer (r : Fin 132) (s : State) : Host.Outcome State Fault Refusal :=
  s.run fun d =>
    match Map.get none d.host.mods r with
    | some m => if m.first + d.f1 .DMA_RING_MOD_USEC r * tUs ≤ d.now then d.ringSignal r else d
    | none => d

/-- A tail value: at most SIZE - 1 descriptors may be posted ahead of HEAD; one that would exceed that halts the ring and
is not taken; a halted or disabled ring stores it (R431). -/
def Dev.ringTail (d : Dev) (r tail : Nat) : Dev :=
  let size := d.ringSize r
  if !d.ringOn r then { d with host := { d.host with doorbell := Map.set none d.host.doorbell r (some tail) } }
  else
    let added := (tail + size - d.f1 .DMA_RING_TAIL r) % size
    if size ≤ tail ∨ size ≤ d.ringPosted r + added then d.ringHalt r 7 (d.ringHead r)
    else d.set1 .DMA_RING_TAIL r tail

/-- A stored doorbell value is acted on. -/
def Dev.ringStored (d : Dev) (r : Nat) : Dev :=
  match Map.get none d.host.doorbell r with
  | some t => ({ d with host := { d.host with doorbell := Map.set none d.host.doorbell r none } }).ringTail r t
  | none => d

/-- RING_DOORBELL (R431): the host writes a tail through PF1 or PF2. -/
def execRingDoorbell (r : Fin 132) (tail : BitVec 32) (s : State) : Host.Outcome State Fault Refusal :=
  s.run fun d => if d.host.lost ∨ d.host.d3hot.contains (ringFn r) ∨ !d.boot.fwRuns then d else d.ringTail r tail.toNat

/-- RESTART of a halted ring: it resumes at HALT_INDEX + 1, or at HEAD after TAIL_OVERRUN (R435). -/
def Dev.ringRestart (d : Dev) (r : Nat) : Dev :=
  if !d.b1 .DMA_RING_STATUS_HALTED r then d
  else
    let d1 := if d.f1 .DMA_RING_STATUS_CODE r = 7 then d
      else d.set1 .DMA_RING_HEAD r ((d.f1 .DMA_RING_STATUS_HALT_INDEX r + 1) % d.ringSize r)
    let d2 := (d1.set1 .DMA_RING_STATUS_HALTED r 0).set1 .DMA_RING_STATUS_RUNNING r (d1.f1 .DMA_RING_CTRL_ENABLE r)
    if d2.ringOn r then d2.ringStored r else d2

/-- A write of a ring's CTRL: a VECTOR out of the function's range is ignored as a whole (R438). -/
def Dev.ringCtrl (d : Dev) (r vector : Nat) (enable restart : Bool) : Dev :=
  if 128 ≤ r ∧ 64 ≤ vector then d
  else
    let d1 := (d.set1 .DMA_RING_CTRL_VECTOR r vector).set1 .DMA_RING_CTRL_ENABLE r (b2n enable)
    let d2 := d1.set1 .DMA_RING_STATUS_RUNNING r (b2n (d1.ringOn r))
    let d3 := if restart then d2.ringRestart r else d2
    if d3.ringOn r then d3.ringStored r else d3

/-- RING_ENABLE (R431): a write of CTRL with RESTART = 0. -/
def execRingEnable (m : Master) (r : Fin 132) (enable : Bool) (vector : Fin 1024) (s : State) :
    Host.Outcome State Fault Refusal :=
  s.run fun d => d.onWrite m .DMA_RING_CTRL r 0 fun d => d.ringCtrl r vector enable false

/-- RING_RESTART (R435): a write of CTRL with RESTART = 1, ENABLE and VECTOR as they stand. -/
def execRingRestart (m : Master) (r : Fin 132) (s : State) : Host.Outcome State Fault Refusal :=
  s.run fun d => d.onWrite m .DMA_RING_CTRL r 0 fun d => d.ringRestart r

/-- A write of BASE or SIZE, only while ENABLE = 0; SIZE is a power of two from 16 to 65,536. -/
def Dev.ringSetup (d : Dev) (f : Field) (r v : Nat) : Dev :=
  if d.b1 .DMA_RING_CTRL_ENABLE r then d
  else if f = .DMA_RING_SIZE ∧ !((List.range 13).map (fun k => 16 * 2 ^ k)).contains v then d
  else d.set1 f r v

/-! ### Transmit rings (R432, R437) -/

/-- The fields of a transmit descriptor (Table 16-10) that may not hold what they hold. -/
def txReserved (b : Bytes) : Bool :=
  let fl := leAt b 0xA 1
  decide (leAt b 0x12 14 ≠ 0) || decide (32 ≤ fl) || decide (leAt b 0xB 1 ≠ 0) || decide (leAt b 8 2 = 0) ||
    decide (16380 < leAt b 8 2)

/-- The descriptors from SOF to EOF among those given, at most 16. -/
def txFrame : List (Bytes × Bytes) → Nat → List (Bytes × Bytes)
  | [], _ => []
  | _, 0 => []
  | x :: rest, n + 1 => if bitOf (leAt x.1 0xA 1) 1 then [x] else x :: txFrame rest n

/-- The index of the first descriptor that makes a frame malformed (R432): reserved bits or a length out of range, no SOF
first or one within, a total beyond 16,380, REGION, EGRESS or TC out of range, no EOF within 16. -/
def txBad (fr : List (Bytes × Bytes)) : Option Nat :=
  let sof := (fr.head?.map (·.1)).getD []
  let direct := bitOf (leAt sof 0xA 1) 4
  let head := if direct then decide (128 ≤ leAt sof 0xC 2) || decide (8 ≤ leAt sof 0xE 1) else decide (4 ≤ leAt sof 0xF 1)
  let total (i : Nat) : Nat := (fr.take (i + 1)).foldl (fun n x => n + leAt x.1 8 2) 0
  (List.range fr.length).find? (fun i =>
    let b := ((fr[i]?).map (·.1)).getD []
    let fl := leAt b 0xA 1
    txReserved b || (bitOf fl 0 != decide (i = 0)) || (decide (i = 0) && head) || decide (16380 < total i) ||
      (decide (i = 15) && !bitOf fl 1))

/-- The descriptors of a frame complete in ring order with one status. -/
def Dev.txDone (d : Dev) (r status : Nat) (fr : List (Bytes × Bytes)) : Dev :=
  let h := d.ringHead r
  let d1 := (List.range fr.length).foldl (fun d i =>
    let fl := leAt (((fr[i]?).map (·.1)).getD []) 0xA 1
    let d1 := d.writeBack r (h + i) 0xA fl status
    if bitOf fl 3 then d1.ringIntr r else d1) d
  d1.ringAdvance r fr.length

/-- A host frame enters region `n`'s pipeline as a frame from port 132, its cells asked for by writer W4 (R257). -/
def Dev.inject (d : Dev) (n : Nat) (bytes : Bytes) (ts : Option Nat) (rivals : List (Fin 7)) : Dev :=
  if d.img.reload.any (fun x => x.stopped && bitOf x.mask n) then d.reloadDiscard n 1
  else
    let need := cellsFor bytes.length
    let got := d.allocate 4 need rivals
    let r : Rx :=
      { bytes := keptBytes bytes got, hasFcs := false, port := 132, region := n, pass := 0, startNode := 0
        profile := d.f1 .TBL_HOST_PROFILE n, cap := ⟨0, 0, 0, false⟩
        lost := got.2
        srcDev := none, dflt := none, tsId := ts, wait := none, parse := none, res := none, orig := none, dfltAct := none, hit := none }
    let d1 := { d with buf := { d.buf with nextId := d.buf.nextId + 1 } }
    let d2 := (d1.setRx d.buf.nextId (some r)).notePeak
    if got.2 = 0 then d2.perf 4 0x200 4 need else (d2.perf 4 0x200 4 got.1).perf 4 0x206 4 1

/-- A host frame is linked to a port's queue without parsing, under R259. -/
def Dev.linkDirect (d : Dev) (p t : Nat) (bytes : Bytes) (ts : Option Nat) (rivals : List (Fin 7)) : Dev :=
  let need := cellsFor bytes.length
  let got := d.allocate 4 need rivals
  if got.2 ≠ 0 then
    let d1 := ((d.count .QUE_DROP_FRAMES (p * 10 + t)).perf 4 0x205 0xFF 1).perf 4 0x206 4 1
    if got.2 = 1 then d1.count .BUF_ALLOC_RACE_LOSS 0 else d1.count .BUF_ALLOC_EMPTY 0
  else
    let c := d.newChain 4
      { bytes := bytes, hasFcs := false, marked := none, port := 132, region := p / 32, tc := t, cells := need, refs := 1, lastOwner := none
        crc32c := crc32c bytes, cap := ⟨0, 0, 0, false⟩, parse := .empty 132, hash := 0, dflt := none }
    ((c.1.perf (p / 32) 0x104 (c.2 % 4) 1).link p t 132 { Desc.plain c.2 (bytes.length + 4) t 0 with tsId := ts }).1

/-- PF1_TX_FRAME (R431, R432, R437): transmit ring `r` fetches a frame.  `descs` are the descriptors that stand in host
memory from HEAD on, each with the bytes at its BUF_ADDR; `rivals` are the writers that ask for cells beside its own (R257). -/
def execPf1TxFrame (r : Fin 64) (descs : List (List (BitVec 8) × List (BitVec 8))) (rivals : List (Fin 7)) (s : State) :
    Host.Outcome State Fault Refusal :=
  s.run fun d =>
    let fr := txFrame (descs.take (d.ringPosted r)) 16
    let tok := takeTokens d.host.inject (d.f0 .DMA_INJECT_PPS) (4096 * tSec) tSec d.now
    let closed := fr.getLast?.any (fun x => bitOf (leAt x.1 0xA 1) 1)
    if !d.ringRuns r ∨ fr.isEmpty ∨ !tok.1 then d
    else match txBad fr with
      | some i =>
        let idx := (d.ringHead r + i) % d.ringSize r
        (d.writeBack r idx 0xA (leAt (((fr[i]?).map (·.1)).getD []) 0xA 1) 6).ringHalt r 6 idx
      | none =>
        if !closed then d
        else
          let sof := (fr.head?.map (·.1)).getD []
          let fl := leAt sof 0xA 1
          let bytes := fr.flatMap (fun x => slice x.2 0 (leAt x.1 8 2))
          let ts := if bitOf fl 2 then some (leAt sof 0x10 2) else none
          let p := leAt sof 0xC 2
          let n := leAt sof 0xF 1
          let d1 := { d with host := { d.host with inject := tok.2 } }
          if !d1.forwards ∨ (if bitOf fl 4 then !d1.portUsed p || d1.portIsolated p else d1.regionIsolated n) then
            (d1.count .DMA_TX_DROPPED 0).txDone r 2 fr
          else
            let d2 := (d1.count .DMA_TX_FRAMES 0).countN .DMA_TX_BYTES 0 bytes.length
            let d3 := if bitOf fl 4 then d2.linkDirect p (leAt sof 0xE 1) bytes ts rivals else d2.inject n bytes ts rivals
            d3.txDone r 1 fr

/-! ### Receive rings (R433) -/

/-- A receive descriptor that may not hold what it holds: a buffer of 256 to 16,384 bytes, both 64-byte aligned. -/
def rxBad (b : Bytes) : Bool :=
  let n := leAt b 8 2
  decide (leAt b 0 8 % 64 ≠ 0) || decide (n % 64 ≠ 0) || decide (n < 256) || decide (16384 < n)

/-- The buffers a frame of `len` bytes takes, as sizes placed; `none` where the posted ones do not hold it. -/
def rxPlaces : List Bytes → Nat → Option (List (Nat × Nat))
  | [], _ => none
  | b :: rest, len =>
    let n := leAt b 8 2
    if len ≤ n then some [(leAt b 0 8, len)] else (rxPlaces rest (len - n)).map ((leAt b 0 8, n) :: ·)

/-- The frame that port 132 sends leaves the buffer. -/
def Dev.hostFrameGone (d : Dev) (f : TxFrame) : Dev :=
  ({ d with buf := { d.buf with inflight := Map.set none d.buf.inflight 132 none } }).release f.desc.chain 132

/-- The frame goes into the receive ring's buffers, each descriptor with the same metadata (Table 16-14). -/
def Dev.rxWrite (d : Dev) (r : Nat) (f : TxFrame) (c : Chain) (body : Bytes) (places : List (Nat × Nat)) : Dev :=
  let h := d.ringHead r
  let n := places.length
  let meta_ := leBytes 1 c.port ++ leBytes 1 f.desc.reason ++ leBytes 1 (d.queueClass 132 f.queue) ++ leBytes 1 c.cap.epoch ++
    leBytes 8 c.cap.frc ++ leBytes 1 c.cap.sub ++ leBytes 1 0 ++ leBytes 2 f.desc.profile ++ leBytes 4 c.hash
  let common := 4 * b2n c.cap.valid + 8 * b2n (decide (c.parse.err ≠ 0)) + 16 * b2n (decide (c.parse.trunc ≠ 0)) + 128
  let r1 := (List.range n).foldl (fun (a : Dev × Nat) i =>
    let pl := places.getD i (0, 0)
    let fl := common + b2n (decide (i = 0)) + 2 * b2n (decide (i + 1 = n))
    let d1 := a.1.emit (.hostWrite pl.1 (slice body a.2 pl.2))
    (d1.emit (.hostWrite (d.ringAddr r (h + i) + 8) (leBytes 2 pl.2 ++ leBytes 1 fl ++ leBytes 1 1 ++ meta_)), a.2 + pl.2)) (d, 0)
  r1.1.ringAdvance r n

/-- The frame that port 132 sends goes to the ring its class and FLOW_HASH select (R433). -/
def Dev.rxDeliver (d : Dev) (f : TxFrame) (c : Chain) (descs : List Bytes) : Dev :=
  let t := d.queueClass 132 f.queue
  let r := 64 + (d.f1 .DMA_RX_STEER_BASE t + c.hash * d.f1 .DMA_RX_STEER_COUNT t / 2 ^ 32) % 64
  let body := if f.desc.truncates c then c.body.take f.desc.trunc else c.body
  let posted := descs.take (d.ringPosted r)
  if !d.ringRuns r then d.count .DMA_RX_NO_DESC 0
  else match rxPlaces posted body.length with
    | none => d.count .DMA_RX_NO_DESC 0
    | some places =>
      match (List.range places.length).find? (fun i => rxBad (posted.getD i [])) with
      | some i =>
        let idx := (d.ringHead r + i) % d.ringSize r
        ((d.count .DMA_RX_NO_DESC 0).writeBack r idx 0xA 0 6).ringHalt r 6 idx
      | none => ((d.rxWrite r f c body places).count .DMA_RX_FRAMES 0).countN .DMA_RX_BYTES 0 body.length

/-- PF1_RX_DELIVER (R433): `descs` are the descriptors that stand in host memory from the ring's HEAD on; `rd` is what the
reads of the frame's cells meet.  A frame that the checks of R276 or R277 find bad is not delivered (log 74). -/
def execPf1RxDeliver (descs : List (List (BitVec 8))) (rd : CellRead) (s : State) : Host.Outcome State Fault Refusal :=
  s.run fun d =>
    match Map.get none d.buf.inflight 132 with
    | none => d
    | some f =>
      if d.winter ∨ d.buf.frozen then d
      else match d.chain f.desc.chain with
        | none => d
        | some c =>
          let g := d.readCells 132 f.desc c rd
          let d1 := if g.2 then g.1.rxDeliver f c descs else g.1
          ({ d1 with buf := { d1.buf with inflight := Map.set none d1.buf.inflight 132 none } }).giveBack f.desc.chain 132 rd

/-! ### Bulk reads (R313, R434) -/

/-- A held frame as an area 5 read gives it; the bytes of lost rows read zeros. -/
def heldBytes (h : Nat) (lost : List (Nat × Nat)) (f : Held) : Bytes :=
  let body := f.bytes.zipIdx.map (fun x => if lost.contains (f.page, (f.off + x.2) / 4096) then 0 else x.1)
  let b := leBytes 2 f.bytes.length ++ leBytes 2 h ++ leBytes 6 f.opMs ++ List.replicate 6 0 ++ body
  b ++ List.replicate ((16 - b.length % 16) % 16) 0

/-- The frames of a queue that fit whole. -/
def heldFit (h room : Nat) : List Held → List Held
  | [] => []
  | f :: rest =>
    let n := (heldBytes h [] f).length
    if n ≤ room then f :: heldFit h (room - n) rest else []

/-- Rows are read, each by page and row (R286): what the inner codes report of one stands in `reads` by its number, 16 times
the page plus the row.  Answers the lost ones, whose effects are those of Table 11-9. -/
def Dev.readRowList (reads : List (Nat × RowRead)) : List (Nat × Nat) → Dev → Dev × List (Nat × Nat)
  | [], d => (d, [])
  | (page, row) :: rest, d =>
    let stripe := d.stripeOf page row
    let rr := ((reads.find? (fun x => x.1 == 16 * page + row)).map (·.2)).getD ⟨0, [], []⟩
    let r := d.readStripe page stripe (.of rr)
    let lost := decide (r.2 = .lost)
    let next := Dev.readRowList reads rest (if lost then r.1.stripeLost stripe (some (page, row)) else r.1)
    (next.1, if lost then (page, row) :: next.2 else next.2)

/-- The written rows that a bulk read of `len` bytes from offset `off` takes, by page and row. -/
def Dev.readRowsOf (d : Dev) (area off len : Nat) : List (Nat × Nat) :=
  if area = 5 then
    ((heldFit off len (d.holdQ off).frames).flatMap (fun f =>
      ((List.range 16).filter (fun row => f.inRow row && d.rowWritten off f.page row)).map (fun row => (f.page, row)))).dedup
  else
    let n := min len (d.areaSize area - off)
    if n = 0 then []
    else (List.range ((off + n - 1) / 4096 + 1 - off / 4096)).map (fun i =>
      (d.areaPage area + (off / 4096 + i) / 16, (off / 4096 + i) % 16))

/-- The bytes of a bulk read; `fill` stands for the areas not held as bytes, from the offset on. -/
def Dev.readBytes (d : Dev) (area off len : Nat) (fill : Bytes) (lost : List (Nat × Nat)) : Bytes :=
  if area = 5 then (heldFit off len (d.holdQ off).frames).flatMap (heldBytes off lost)
  else (List.range (min len (d.areaSize area - off))).map (fun i =>
    let o := off + i
    if lost.contains (d.areaPage area + o / 65536, o / 4096 % 16) then 0 else d.areaByte area o (fill.getD i 0))

/-- A request descriptor that may not hold what it holds (Table 16-15). -/
def reqBad (b : Bytes) : Bool :=
  let len := leAt b 4 4
  let area := leAt b 1 1
  decide (leAt b 0 1 ≠ 1) || decide (5 < area) || decide (leAt b 2 1 ≠ 0 ∧ leAt b 2 1 ≠ 8) || decide (leAt b 3 1 ≠ 0) ||
    decide (len % 16 ≠ 0) || decide (len = 0) || decide (67108864 < len) || decide (leAt b 0x10 8 % 64 ≠ 0) ||
    decide (leAt b 0x1E 2 ≠ 0) || (decide (area = 5) && decide (3056 ≤ leAt b 8 8))

/-- Ticks that the PF2 read path spends on `n` bytes at HLD_PF2_RATE Gb/s: 8 bits a byte, 2.5 bits a tick and Gb/s. -/
def Dev.pf2Ticks (d : Dev) (n : Nat) : Nat := (n * 16 + 5 * d.f0 .HLD_PF2_RATE - 1) / (5 * d.f0 .HLD_PF2_RATE)

/-- PF2_READ (R434): request ring `q` reads its head descriptor, which stands as `desc` in host memory.  `reads` says what
the inner codes report of rows that do not read clean; a lost stripe reads zeros (R313). -/
def execPf2Read (q : Fin 4) (desc : List (BitVec 8)) (fill : List (BitVec 8)) (reads : List (Nat × RowRead)) (s : State) :
    Host.Outcome State Fault Refusal :=
  s.run fun d =>
    let r := 128 + q.val
    if !d.ringRuns r ∨ d.ringPosted r = 0 ∨ d.now < d.host.pf2Free then d
    else if reqBad desc then (d.writeBack r (d.ringHead r) 2 (leAt desc 2 1) 6).ringHalt r 6 (d.ringHead r)
    else
      let area := leAt desc 1 1
      let off := leAt desc 8 8
      let len := leAt desc 4 4
      let out := d.hld.outOfService || !d.hld.mounted
      let g := if out then (d, []) else Dev.readRowList reads (d.readRowsOf area off len) d
      let got : Bytes := if out then [] else d.readBytes area off len fill g.2
      let d1 := if got.isEmpty then g.1 else g.1.emit (.hostWrite (leAt desc 0x10 8) got)
      let d2 := d1.perf 5 0x301 1 ((got.length + 4095) / 4096)
      let d3 := d2.emit (.hostWrite (d2.ringAddr r (d2.ringHead r) + 0x18) (leBytes 4 got.length))
      let d4 := d3.writeBack r (d3.ringHead r) 2 (leAt desc 2 1) (if out then 4 else if g.2.isEmpty then 1 else 3)
      let d5 := if bitOf (leAt desc 2 1) 3 then d4.ringIntr r else d4
      { d5.ringAdvance r 1 with host := { d5.host with pf2Free := d5.now + d5.pf2Ticks got.length } }

/-! ### The identity of the functions (R422) -/

/-- What the configuration space of a function identifies it by (Table 16-3). -/
structure PciIdent where
  vendor : Nat
  device : Nat
  classCode : Nat
  svid : Nat
  ssid : Nat
  /-- The Device Serial Number capability. -/
  dsn : BitVec 64
  deriving DecidableEq, Repr

/-- The identity that function `f` reads (R422): the subsystem identifiers follow the last committed full image. -/
def Dev.pciIdent (d : Dev) (f : Fin 4) : PciIdent :=
  ⟨0x1E9C, 0x1240 + f.val, [0x028000, 0x020000, 0x058000, 0x088000].getD f.val 0, d.host.svid, d.host.ssid,
    Config.serial.setWidth 64⟩

/-! ### Host errors (R436) -/

/-- HOST_DMA_ERROR (R436): an error, timeout or poisoned completion (`status` of the completion) to a read that ring `r`
issued; a transmit or request ring writes FLAGS at its own place. With no status it is a corrected link error: it is logged
in AER and counted in AER_CORRECTED, and no ring is affected. -/
def execHostDmaError (r : Fin 132) (status : Option (Fin 8)) (s : State) : Host.Outcome State Fault Refusal :=
  s.run fun d =>
    match status with
    | none => if d.host.lost then d else ({ d with host := { d.host with aerCorr := d.host.aerCorr + 1 } }).count .DMA_AER_CORRECTED 0
    | some code =>
    if !d.ringRuns r then d
    else
      let h := d.ringHead r
      let d1 := (d.writeBack r h (if r.val < 128 then 0xA else 2) 0 5).ringStop r 5 h
      let d2 := { d1 with host := { d1.host with aerUncorr := d1.host.aerUncorr + 1 } }
      ((d2.count .DMA_DMA_ERRORS 0).record .HOST_DMA_ERROR 14 (ringFn r * 256 + ringNo r)
        (payloadOf [(1, ringFn r), (1, ringNo r), (1, code)])).raise 336

/-- HOST_POISONED_WRITE (R436): the write is discarded, logged in AER and recorded as a violation of its function. -/
def execHostPoisonedWrite (f : Fin 4) (off : BitVec 24) (s : State) : Host.Outcome State Fault Refusal :=
  s.run fun d =>
    if d.host.lost then d
    else ({ d with host := { d.host with aerUncorr := d.host.aerUncorr + 1 } }).violation (4 + f) 14 off.toNat

/-! ### The link, power states and resets of functions -/

/-- HOST_LINK_UP (R421): the data link is up at a speed code of Table 16-12 and a width. -/
def execHostLinkUp (speed : Fin 8) (width : Fin 17) (flit : Bool) (s : State) : Host.Outcome State Fault Refusal :=
  s.run fun d =>
    if speed.val = 0 ∨ width.val ∉ [1, 4, 8, 16] ∨ d.boot.inReset ∨ !d.boot.powered then d
    else
      let fl := flit || decide (6 ≤ speed.val)
      let d1 := { d with host := { d.host with lost := false, perst := false } }
      let d2 := (((d1.set0 .DMA_LINK_DL_UP 1).set0 .DMA_LINK_FLIT (b2n fl)).set0 .DMA_LINK_SPEED speed).set0 .DMA_LINK_WIDTH width
      let d3 := d2.record .HOST_LINK_UP 0 0 (payloadOf [(1, speed), (1, width), (1, b2n fl)])
      if speed.val < 7 ∨ width.val < 16 then d3.record .HOST_LINK_DEGRADED 0 0 (payloadOf []) else d3

/-- PCIE_D3HOT_ENTER (R426, R478). -/
def execPcieD3hotEnter (f : Fin 4) (s : State) : Host.Outcome State Fault Refusal :=
  s.run fun d =>
    if d.host.lost ∨ d.host.d3hot.contains f.val then d
    else
      let d1 := { d with host := { d.host with d3hot := f.val :: d.host.d3hot } }
      if f.val = 0 then d1.hostDomainDown else d1

/-- PCIE_D0_RETURN (R426): the rings resume from where they stopped. -/
def execPcieD0Return (f : Fin 4) (s : State) : Host.Outcome State Fault Refusal :=
  s.run fun d => { d with host := { d.host with d3hot := d.host.d3hot.filter (fun g => decide (g ≠ f.val)) } }

/-- Port 132's queues and the frame it is sending are flushed and counted (R94, R427); a frozen buffer flushes nothing
(R280). -/
def Dev.flushHostPort (d : Dev) : Dev :=
  if d.winter ∨ d.buf.frozen then d
  else
    let d1 := (List.range 10).foldl (fun d i => d.flushQueue 132 i) d
    match Map.get none d1.buf.inflight 132 with
    | some f => (d1.count .QUE_FLUSHED (1320 + f.queue)).hostFrameGone f
    | none => d1

/-- Capture to the host stops (R245). -/
def Dev.stopHostCapture (d : Dev) : Dev :=
  if d.b0 .ACT_CAP_CTRL_ENABLE ∧ d.f0 .ACT_CAP_CTRL_TARGET ≠ 0 then
    ((d.set0 .ACT_CAP_CTRL_ENABLE 0).set0 .ACT_CAP_CTRL_HOST_STOPPED 1).record .CAPTURE_HOST_STOPPED 0 0 (payloadOf [])
  else d

/-- The rings of a range halt where they stand: no code, resuming at HEAD. -/
def Dev.stopRings (d : Dev) (rs : List Nat) : Dev :=
  rs.foldl (fun d r =>
    if d.ringOn r then d.ringStop r 0 ((d.ringHead r + d.ringSize r - 1) % d.ringSize r) else d) d

/-- The registers, stored doorbells and moderation of rings return to their reset values. -/
def Dev.resetRings (d : Dev) (rs : List Nat) : Dev :=
  let regs : List Reg := [.DMA_RING_BASE_LO, .DMA_RING_BASE_HI, .DMA_RING_SIZE, .DMA_RING_HEAD, .DMA_RING_TAIL, .DMA_RING_CTRL,
    .DMA_RING_STATUS, .DMA_RING_MOD]
  let mine (k : Nat) : Bool := Dev.isFldOf regs (Nat.unpair k).1 && rs.contains (Nat.unpair (Nat.unpair k).2).1
  { d with
    flds := d.flds.filter (fun x => !mine x.1)
    host := { d.host with
      doorbell := d.host.doorbell.filter (fun x => !rs.contains x.1), mods := d.host.mods.filter (fun x => !rs.contains x.1) } }

/-- The MSI-X state of a function returns to its reset value. -/
def Dev.resetMsix (d : Dev) (f : Nat) : Dev :=
  if f = 0 then d.resetFlds (Dev.isFldOf [.DMA_MSIX_TABLE, .DMA_MSIX_PBA])
  else { d with host := { d.host with
    msixTab := d.host.msixTab.filter (fun x => decide ((Nat.unpair x.1).1 ≠ f))
    msixPba := d.host.msixPba.filter (fun x => decide ((Nat.unpair x.1).1 ≠ f)) } }

/-- GLB_HIF_SELECT returns to the unwritten state (R460). -/
def Dev.hifUnwritten (d : Dev) : Dev :=
  { d.resetFlds (Dev.isFldOf [.GLB_HIF_SELECT, .GLB_HIF_ACTIVE]) with
    reg := { d.reg with written := d.reg.written.filter (fun r => decide (r ≠ Reg.GLB_HIF_SELECT.ctorIdx)) } }

/-- HOST_FLR (R427): a function-level reset (Table 16-6). -/
def execHostFlr (f : Fin 4) (s : State) : Host.Outcome State Fault Refusal :=
  s.run fun d =>
    if d.host.lost then d
    else
      let d0 := { d with host := { d.host with d3hot := d.host.d3hot.filter (fun g => decide (g ≠ f.val)) } }
      let d1 := d0.resetMsix f
      let d2 := match f.val with
        | 0 => ((d1.releaseLocks 4 0).resetFlds (Dev.isFldOf [.INT_MASK])).hifUnwritten.hostDomainDown
        | 1 => (d1.flushHostPort).resetRings (List.range 128)
        | 2 => (d1.stopHostCapture).resetRings [128, 129, 130, 131]
        | _ => d1
      (d2.count .DMA_FLR_COUNT 0).record .HOST_FLR 9 (4 + f) (payloadOf [(1, f)])

/-- The host is lost (R94 to R96): port 132 is flushed, the rings of PF1 halt, the mailboxes hold their messages, the
host's locks are released, and a host load in progress is abandoned. -/
def Dev.hostLost (d : Dev) : Dev :=
  if d.host.lost then d
  else
    let d1 := { d with host := { d.host with lost := true } }
    let d2 := (d1.flushHostPort.stopRings (List.range 128)).stopHostCapture
    let d3 := (([4, 5, 6, 7] : List Nat).foldl (fun d m => d.releaseLocks m 0) d2).hostDomainDown
    let d4 := d3.set0 .DMA_LINK_DL_UP 0
    if d4.fwReading then
      ((d4.set0 .CLK_BOOT_FW_CMD_BUSY 0).set0 .CLK_BOOT_FW_CMD_ERR 1).set0 .CLK_BOOT_FW_CMD_REASON 4
    else d4

/-- HOST_LOST_PERST (R94, Table 3-1): PERST_N asserts; the PCI Express controller and the host DMA are reset as well. -/
def execHostLostPerst (s : State) : Host.Outcome State Fault Refusal :=
  s.run fun d =>
    if d.host.perst then d
    else
      let d1 := ({ d with host := { d.host with perst := true } }.record .PERST_ASSERTED 0 0 (payloadOf [])).hostLost
      let d2 := ([0, 1, 2, 3] : List Nat).foldl Dev.resetMsix d1
      let d3 := (d2.resetRings (List.range 132)).resetFlds
        (Dev.isFldOf [.DMA_LINK, .DMA_INJECT_PPS, .DMA_RX_STEER])
      { d3.hifUnwritten with host := { d3.host with d3hot := [], inject := none } }

/-- HOST_LINK_LOST (R94): the data link has been down for 1 ms. -/
def execHostLinkLost (s : State) : Host.Outcome State Fault Refusal :=
  s.run fun d => if d.host.lost then d else (d.record .HOST_LINK_LOST 0 0 (payloadOf [])).hostLost

/-! ### Interrupt registers (R429) -/

/-- INT_PEND_CLEAR (R429). -/
def Dev.pendClear (d : Dev) (i v : Nat) : Dev :=
  (List.range 32).foldl (fun d b => if bitOf v b then d.setBit .INT_PEND i b false else d) d

def execIntPendClear (m : Master) (i : Fin 16) (v : BitVec 32) (s : State) : Host.Outcome State Fault Refusal :=
  s.run fun d => d.onWrite m .INT_PEND i 0 fun d => d.pendClear i v.toNat

/-- A write of INT_MASK[i]: each source that becomes unmasked while it is pending sends its message; sources that share
a vector send one. -/
def Dev.maskWrite (d : Dev) (i v : Nat) : Dev :=
  let old := d.f1 .INT_MASK i
  let freed := (List.range 32).filter (fun b => bitOf old b && !bitOf v b && bitOf (d.f1 .INT_PEND i) b)
  let vecs := (freed.map (fun b => d.f1 .INT_VEC_VEC0 (32 * i + b))).eraseDups
  vecs.foldl (fun d w => d.msix 0 w) (d.set1 .INT_MASK i v)

/-- INT_MASK_WRITE (R429). -/
def execIntMaskWrite (m : Master) (i : Fin 16) (v : BitVec 32) (s : State) : Host.Outcome State Fault Refusal :=
  s.run fun d => d.onWrite m .INT_MASK i 0 fun d => d.maskWrite i v.toNat

/-- A write of an MSI-X table word of a function: clearing the mask of a pending vector sends it. -/
def Dev.msixWrite (d : Dev) (f v w x : Nat) : Dev :=
  if f = 0 then
    let d1 := d.setFld .DMA_MSIX_TABLE v w x
    if w = 3 ∧ !bitOf x 0 ∧ bitOf (d1.f1 .DMA_MSIX_PBA (v / 32)) (v % 32) then
      (d1.setBit .DMA_MSIX_PBA (v / 32) (v % 32) false).msix 0 v else d1
  else
    let d1 := { d with host := { d.host with
      msixTab := Map.set (if w = 3 then 1 else 0) d.host.msixTab (k2 f (4 * v + w)) (x % 2 ^ 32) } }
    if w = 3 ∧ !bitOf x 0 ∧ Map.get 0 d1.host.msixPba (k2 f v) = 1 then
      ({ d1 with host := { d1.host with msixPba := Map.set 0 d1.host.msixPba (k2 f v) 0 } }).msix f v else d1

end Sys2Proof.Machine
end

