-- ==== Sys2Proof/Machine/Pmc.lean ====
section
/-! DEFINITION. The performance monitors and the bandwidth windows (spec/20). -/

namespace Sys2Proof.Machine

/-- A performance monitor: regions 0 to 3, the shared buffer 4, the hold store 5 (R506). -/
def monitors : List Nat := [0, 1, 2, 3, 4, 5]

/-! ### Operations the commands and the register map share -/

/-- Every counter and OVF bit of monitor `m` reads 0; its cycle counter is one of its counters (R503, R506). -/
def Dev.pmcClear (d : Dev) (m : Nat) : Dev :=
  let keep (x : Nat × Nat) : Bool := decide ((Nat.unpair x.1).1 ≠ m)
  { d with pmc := { d.pmc with cyc := Map.set 0 d.pmc.cyc m 0, cnt := d.pmc.cnt.filter keep } }.set1 .PMC_OVF m 0

/-- CLR_ALL (R508). -/
def Dev.pmcClearAll (d : Dev) : Dev := monitors.foldl Dev.pmcClear d

/-- START_ALL and STOP_ALL: every EN takes a value in one cycle (R508). -/
def Dev.pmcEnAll (d : Dev) (v : Nat) : Dev := monitors.foldl (fun d m => d.set1 .PMC_CTL_EN m v) d

/-- SNAP: the snapshot registers take every counter; the previous snapshot is overwritten (R508). -/
def Dev.pmcSnap (d : Dev) : Dev := { d with pmc := { d.pmc with snapCyc := d.pmc.cyc, snap := d.pmc.cnt } }

/-- A write of PMC_CTRL: SNAP before START_ALL (R508), and a clear after both, so that the snapshot holds the counts
(log 60). -/
def Dev.pmcCtrl (d : Dev) (start stop clr snap : Bool) : Dev :=
  let d1 := if snap then d.pmcSnap else d
  let d2 := if start then d1.pmcEnAll 1 else d1
  let d3 := if stop then d2.pmcEnAll 0 else d2
  if clr then d3.pmcClearAll else d3

/-- The largest QUAL of an event of monitor `m` (Table 20-3), 0 with no values given; `none` for an event the monitor
does not have. -/
def perfQuals (m ev : Nat) : Option (List Nat) :=
  let four := [0, 1, 2, 3]
  if ev = 0x000 ∨ ev = 0x001 then some []
  else if m < 4 then
    if 0x100 ≤ ev ∧ ev ≤ 0x104 then some four
    else if ev = 0x111 then some [0, 1]
    else if ev = 0x114 then some four
    else if ev = 0x131 then some [1, 2, 3]
    else if ev ∈ [0x110, 0x112, 0x113, 0x120, 0x121, 0x130] then some []
    else none
  else if m = 4 then
    if ev = 0x200 ∨ ev = 0x206 then some [0, 1, 2, 3, 4, 5, 6]
    else if ev = 0x207 then some [0, 1, 2, 3, 4, 5, 6, 7]
    else if ev ∈ [0x201, 0x202, 0x203, 0x204, 0x205] then some []
    else none
  else if m = 5 then
    if ev = 0x300 then some four
    else if ev = 0x301 then some [0, 1, 2]
    else if 0x302 ≤ ev ∧ ev ≤ 0x307 then some []
    else none
  else none

/-- A write of PMC_SEL[m][n] (R507, R509): CHAIN = 1 at counter 0, an event not of the monitor or a QUAL outside its
range leaves the register as it is. -/
def Dev.pmcSel (d : Dev) (m n ev qual : Nat) (chain : Bool) : Dev :=
  if chain ∧ n = 0 then d
  else match perfQuals m ev with
    | none => d
    | some qs =>
      if qual ≠ 0xFF ∧ qual ∉ qs then d
      else ((d.setFld .PMC_SEL_CHAIN m n (b2n chain)).setFld .PMC_SEL_QUAL m n qual).setFld .PMC_SEL_EVENT m n ev

/-- A window of the bandwidth registers begins now, with no bytes (R510). -/
def Dev.bwStart (d : Dev) : Dev :=
  { d with pmc := { d.pmc with windowStart := d.now, rxBytes := [], txBytes := [] } }

/-- A port's value at the end of a window: bytes × 8 ÷ window length in Mb/s, rounded down; 0 with no link (R510). -/
def Dev.bwValue (d : Dev) (p bytes : Nat) : Nat :=
  if d.portUsed p ∧ d.linkUp p then bytes * 8 / d.f0 .PMC_BW_WINDOW else 0

/-- The end of a window (R510, R511). -/
def Dev.bwEnd (d : Dev) : Dev :=
  let d1 := (List.range 128).foldl (fun d p =>
    let rx := d.bwValue p (Map.get 0 d.pmc.rxBytes p)
    let tx := d.bwValue p (Map.get 0 d.pmc.txBytes p)
    (((d.set1 .PMC_BW_RX p rx).set1 .PMC_BW_TX p tx).set1 .PMC_BW_RX_PEAK p (max rx (d.f1 .PMC_BW_RX_PEAK p))).set1
      .PMC_BW_TX_PEAK p (max tx (d.f1 .PMC_BW_TX_PEAK p))) d
  (d1.set0 .PMC_BW_SEQ (d1.f0 .PMC_BW_SEQ + 1)).bwStart

/-- Every peak reads 0 (R511). -/
def Dev.bwClearPeaks (d : Dev) : Dev :=
  d.resetFlds (Dev.isFldOf [.PMC_BW_RX_PEAK, .PMC_BW_TX_PEAK])

/-- A write of PMC_BW_WINDOW (R511); a value out of range is ignored (R512). -/
def Dev.bwWindow (d : Dev) (us : Nat) : Dev :=
  if us < 1 ∨ 10000000 < us then d
  else (((d.set0 .PMC_BW_WINDOW us).resetFlds
    (Dev.isFldOf [.PMC_BW_RX, .PMC_BW_TX, .PMC_BW_RX_PEAK, .PMC_BW_TX_PEAK])).set0 .PMC_BW_SEQ 0).bwStart

/-! ### The commands -/

/-- PMC_START_ALL (R508). -/
def execPmcStartAll (m : Master) (s : State) : Host.Outcome State Fault Refusal :=
  s.run fun d => d.onWrite m .PMC_CTRL 0 0 fun d => d.pmcCtrl true false false false

/-- PMC_STOP_ALL (R508). -/
def execPmcStopAll (m : Master) (s : State) : Host.Outcome State Fault Refusal :=
  s.run fun d => d.onWrite m .PMC_CTRL 0 0 fun d => d.pmcCtrl false true false false

/-- PMC_CLR_ALL (R508). -/
def execPmcClrAll (m : Master) (s : State) : Host.Outcome State Fault Refusal :=
  s.run fun d => d.onWrite m .PMC_CTRL 0 0 fun d => d.pmcCtrl false false true false

/-- PMC_SNAP (R508). -/
def execPmcSnap (m : Master) (s : State) : Host.Outcome State Fault Refusal :=
  s.run fun d => d.onWrite m .PMC_CTRL 0 0 fun d => d.pmcCtrl false false false true

/-- PMC_MONITOR_CLR (R506): PMC_CTL[m].CLR of monitor `n`, with the EN that the same write carries. -/
def execPmcMonitorClr (m : Master) (n : Fin 6) (en : Bool) (s : State) : Host.Outcome State Fault Refusal :=
  s.run fun d => d.onWrite m .PMC_CTL n 0 fun d => (d.pmcClear n).set1 .PMC_CTL_EN n (b2n en)

/-- PMC_SEL_WRITE (R509). -/
def execPmcSelWrite (m : Master) (n : Fin 6) (c : Fin 8) (chain : Bool) (qual : Fin 256) (ev : Fin 1024) (s : State) :
    Host.Outcome State Fault Refusal :=
  s.run fun d => d.onWrite m .PMC_SEL n c fun d => d.pmcSel n c ev qual chain

/-- PMC_BW_WINDOW_END (R510): nothing happens before the window's length has passed. -/
def execPmcBwWindowEnd (s : State) : Host.Outcome State Fault Refusal :=
  s.run fun d => if d.now < d.pmc.windowStart + d.f0 .PMC_BW_WINDOW * tUs then d else d.bwEnd

/-- PMC_BW_WINDOW_WRITE (R511). -/
def execPmcBwWindowWrite (m : Master) (us : BitVec 32) (s : State) : Host.Outcome State Fault Refusal :=
  s.run fun d => d.onWrite m .PMC_BW_WINDOW 0 0 fun d => d.bwWindow us.toNat

/-- PMC_BW_CLR_PEAK (R511). -/
def execPmcBwClrPeak (m : Master) (s : State) : Host.Outcome State Fault Refusal :=
  s.run fun d => d.onWrite m .PMC_BW_CTRL 0 0 Dev.bwClearPeaks

end Sys2Proof.Machine
end

