-- ==== Sys2Proof/Machine/Recorder.lean ====
section
/-! DEFINITION. The commands of the event recorder (spec/19). -/

namespace Sys2Proof.Machine

/-- EVR_FLUSH_TIMER (R492): one second after the previous flush ended a flush starts. -/
def execEvrFlushTimer (s : State) : Host.Outcome State Fault Refusal :=
  s.run fun d => if d.evr.flushTo.isSome ∨ d.now < d.evr.lastFlushEnd + tSec then d else d.evrTrigger

/-- EVR_CTRL_FLUSH (R492): the write of EVR_CTRL.FLUSH, which carries INT_SEV. -/
def execEvrCtrlFlush (m : Master) (s : State) : Host.Outcome State Fault Refusal :=
  s.run fun d => d.onWrite m .EVR_CTRL 0 0 fun d => d.evrCtrl m true false false

/-- EVR_FLUSH_ERROR_TRIGGER (R492): an accepted ERROR or FATAL record starts a flush. -/
def execEvrFlushErrorTrigger (s : State) : Host.Outcome State Fault Refusal :=
  s.run fun d =>
    if d.evr.flushDue then { d with evr := { d.evr with flushDue := false } }.evrTrigger else d

/-- EVR_FLUSH_DONE (R489, R490, R492, R494): the flush ends, and one that waited starts; `bad` are the places of staged
records that its reads find uncorrectable. -/
def execEvrFlushDone (bad : List (Fin 4096)) (s : State) : Host.Outcome State Fault Refusal :=
  s.run fun d =>
    if d.evr.flushTo.isNone then d
    else
      let d1 := (d.dropCorrupt bad).evrFlushEnd
      if d1.evr.flushAgain then d1.evrTrigger else d1

/-- EVR_FREEZE (R496). -/
def execEvrFreeze (m : Master) (s : State) : Host.Outcome State Fault Refusal :=
  s.run fun d => d.onWrite m .EVR_CTRL 0 0 fun d => d.evrCtrl m false true false

/-- EVR_THAW (R496). -/
def execEvrThaw (m : Master) (s : State) : Host.Outcome State Fault Refusal :=
  s.run fun d => d.onWrite m .EVR_CTRL 0 0 fun d => d.evrCtrl m false false true

/-- EVR_FREEZE_AUTO_RELEASE (R496): after 10 s, or with fewer than 512 free slots; the assertion of PFAIL_N releases it
in its own command. -/
def execEvrFreezeAutoRelease (s : State) : Host.Outcome State Fault Refusal :=
  s.run fun d =>
    match d.evr.freezeAt with
    | none => d
    | some t =>
      if t + 10 * tSec ≤ d.now then d.evrRelease 0
      else if d.evrFree < 512 then d.evrRelease 1
      else d

/-- EVR_ERASE_DONE (R497): the erase completes, the request is answered, and the flushes that waited start; an erase that
PFAIL_N has suspended stays. -/
def execEvrEraseDone (s : State) : Host.Outcome State Fault Refusal :=
  s.run fun d =>
    if d.evr.erase.isNone ∨ !d.evrStore ∨ d.pins.pfail ∨ d.boot.flushAt.isSome then d
    else
      let d1 := d.eraseEnd
      if d1.evr.flushAgain then d1.evrTrigger else d1

/-- EVR_UNANCHORED (R487): the area has not mounted 5 s after t0. -/
def execEvrUnanchored (s : State) : Host.Outcome State Fault Refusal :=
  s.run fun d =>
    if d.evr.numbering ∨ d.b0 .EVR_STATUS_MOUNTED ∨ d.boot.inReset ∨ d.now < d.boot.t0 + 5 * tSec then d
    else (d.set0 .EVR_STATUS_SEQ_UNANCHORED 1).numberStaged 0

/-- EVR_STAGE_SEQ_WRITE (R498). -/
def execEvrStageSeqWrite (m : Master) (seq : BitVec 32) (s : State) : Host.Outcome State Fault Refusal :=
  s.run fun d => d.onWrite m .EVR_STAGE_SEQ 0 0 fun d => d.stageLoad seq.toNat

/-- EVR_STAGE_RELEASE (R498): the records go, a pending LOST record follows (R490), and the release is recorded. -/
def execEvrStageRelease (m : Master) (seq : BitVec 32) (s : State) : Host.Outcome State Fault Refusal :=
  s.run fun d => d.onWrite m .EVR_STAGE_RELEASE 0 0 fun d => d.stageRelease m seq.toNat

end Sys2Proof.Machine
end

