-- ==== Sys2Proof/Machine/Time.lean ====
section
/-! DEFINITION. Commands of the time unit (spec/12): adjustments and epochs, the time bus, time-stamp queues,
conversions, pulses, capture inputs, and the firmware's PTP. -/

namespace Sys2Proof.Machine

/-! ### Adjustments and epochs (R323 to R325) -/

/-- TIM_ADJ_SET (R323): GO with OP 1 over the values of TIM_ADJ_*. -/
def execTimAdjSet (m : Master) (s : State) : Host.Outcome State Fault Refusal :=
  s.run fun d => d.onWrite m .TIM_ADJ_CMD 0 0 fun d => d.adjust m 1

/-- TIM_ADJ_STEP (R323). -/
def execTimAdjStep (m : Master) (s : State) : Host.Outcome State Fault Refusal :=
  s.run fun d => d.onWrite m .TIM_ADJ_CMD 0 0 fun d => d.adjust m 2

/-- TIM_ADJ_RATE (R323). -/
def execTimAdjRate (m : Master) (s : State) : Host.Outcome State Fault Refusal :=
  s.run fun d => d.onWrite m .TIM_ADJ_CMD 0 0 fun d => d.adjust m 3

/-- TIM_ADJ_STEP_RATE (R323). -/
def execTimAdjStepRate (m : Master) (s : State) : Host.Outcome State Fault Refusal :=
  s.run fun d => d.onWrite m .TIM_ADJ_CMD 0 0 fun d => d.adjust m 4

/-- TIM_ADJ_REFUSED (R324): GO with any OP; an undefined one, a rate beyond 1,000 ppm and a master shut out by the servo
are refused. -/
def execTimAdjRefused (m : Master) (op : Fin 8) (s : State) : Host.Outcome State Fault Refusal :=
  s.run fun d => d.onWrite m .TIM_ADJ_CMD 0 0 fun d => d.adjust m op

/-- EPOCH_SWITCH (R323, R343): at F_s the pending epoch opens; a forward step passes over the edges between.  A rate change that
the loss of the grandmaster owes follows (Table 12-2). -/
def execEpochSwitch (s : State) : Host.Outcome State Fault Refusal :=
  s.run fun d =>
    match d.tim.pending with
    | none => d
    | some e =>
      if d.tim.frc < e.frcStart ∨ d.tim.stopped then d
      else
        let t := { d.tim with
          epochs := Map.set none d.tim.epochs (e.id % 16) (some e), cur := e.id, pending := none, step := none }
        let d0 := (({ d with tim := t }).set0 .TIM_ADJ_CMD_BUSY 0).count .TIM_EPOCHS_OPENED 0
        let d1 := if d.tim.zeroDue
          then ({ d0 with tim := { d0.tim with zeroDue := false } }).schedule 0 ⟨3, 0, 0⟩ else d0
        match d.tim.step with
        | none => d1
        | some (n, m) =>
          let d2 := (d1.count .TIM_STEPS 0).record .TIME_STEPPED 9 m
            (payloadOf [(1, d.tim.cur), (1, e.id), (8, unsigned 64 n), (1, m)])
          if n ≤ 0 then d2
          else
            let now := ptpUnits e (e.frcStart * 8)
            (List.range 4).foldl (fun d k => let c := d.edgesBefore k now; (d.missEdges k c 1).skipEdges k c) d2

/-! ### The time bus (R328, R329) -/

/-- The captures of lane die `n` since `frc` become invalid, wherever they stand: time-stamp queues, frames, and staged
capture records, which read FRC 0. -/
def Dev.invalidate (d : Dev) (n frc : Nat) : Dev :=
  let bad (p : Nat) (c : Capture) : Capture := if p / 32 = n ∧ frc ≤ c.frc then { c with valid := false } else c
  let txts := Map.mapV [] (fun g l => l.map (fun x => { x with cap := bad (4 * g) x.cap })) d.tim.txts
  let rx := d.buf.rx.map (fun x => (x.1, x.2.map (fun r => { r with cap := bad r.port r.cap })))
  let ch := d.buf.chains.map (fun x => (x.1, x.2.map (fun c => { c with cap := bad c.port c.cap })))
  let recs := d.act.capFifo.map (fun b =>
    if leAt b 0x6A 1 / 32 = n ∧ frc ≤ leAt b 0x60 8 then patch b 0x60 (leBytes 8 0) else b)
  { d with tim := { d.tim with txts := txts }, buf := { d.buf with rx := rx, chains := ch }
           act := { d.act with capFifo := recs } }

/-- TIME_BUS_FULL_VALUE (R329): the full value of the time bus reaches lane die `n`; `ok` says that it passes its CRC
and agrees with the die's copy. -/
def execTimeBusFullValue (n : Region) (ok : Bool) (s : State) : Host.Outcome State Fault Refusal :=
  s.run fun d =>
    if d.tim.stopped then d
    else if ok then
      { d with tim := { d.tim with awaiting := d.tim.awaiting.filter (fun k => k ≠ n.val)
                                   goodAt := Map.set 0 d.tim.goodAt n d.tim.frc } }
    else
      let d1 := (d.count .TIM_TIME_BUS_ERR 0).invalidate n (Map.get 0 d.tim.goodAt n)
      let errs := d.now :: (Map.get [] d.tim.busErrs n).filter (fun t => decide (d.now < t + tSec))
      let aw := if n.val ∈ d.tim.awaiting then d.tim.awaiting else n.val :: d.tim.awaiting
      let d2 := { d1 with tim := { d1.tim with busErrs := Map.set [] d1.tim.busErrs n errs, awaiting := aw } }
      if 3 ≤ errs.length ∧ !bitOf (d.f0 .TIM_STATUS_BUS_FAULT) n then
        (((d2.setBit .TIM_STATUS_BUS_FAULT 0 n true).record .TIME_BUS_FAULT 5 (1 + n.val) (payloadOf [(1, n.val)])).autumn
          .HLT_AUTUMN_CAUSE_TIME_BUS .TIME_BUS_FAULT)
      else d2

/-! ### Time-stamp queues and conversions (R326, R335, R336) -/

/-- TIM_TXTS_POP[g] is read: the oldest host entry, with its companions latched for the master. -/
def Dev.popTxts (d : Dev) (m g : Nat) : Nat × Dev :=
  let q := Map.get [] d.tim.txts g
  match q.find? (fun x => !x.firmware) with
  | none => (0, d)
  | some x =>
    let d1 := { d with tim := { d.tim with txts := Map.set [] d.tim.txts g (q.eraseP (fun x => !x.firmware)) } }
    let d2 := (d1.latch m .TIM_TXTS_FRC_LO g 0 x.cap.frc).latch m .TIM_TXTS_FRC_HI g 0 (x.cap.frc / 2 ^ 32)
    (2 ^ 31 + b2n (!x.cap.valid) * 2 ^ 30 + x.portIn * 2 ^ 28 + x.cap.sub * 2 ^ 24 + x.cap.epoch * 2 ^ 16 + x.id, d2)

/-- TXTS_POP (R335): a read of TIM_TXTS_POP[g]. -/
def execTxtsPop (m : Master) (g : Fin 32) (s : State) : Host.Outcome State Fault Refusal :=
  s.run fun d => d.onPop m .TIM_TXTS_POP g fun d => d.popTxts m g

def Dev.convBank (d : Dev) (m : Nat) : ConvBank := Map.get .reset d.tim.conv m
def Dev.setConv (d : Dev) (m : Nat) (b : ConvBank) : Dev :=
  { d with tim := { d.tim with conv := Map.set .reset d.tim.conv m b } }

/-- GO of a master's TIM_CONV_CMD. -/
def Dev.convGo (d : Dev) (m epoch sub : Nat) : Dev :=
  let b := d.convBank m
  match d.convert epoch (b.frcHi * 2 ^ 32 + b.frcLo) sub with
  | some (sec, ns, frac) =>
    d.setConv m { b with sub := sub, epoch := epoch, done := true, expired := false, sec := sec, ns := ns, frac := frac }
  | none =>
    (d.setConv m { b with sub := sub, epoch := epoch, done := false, expired := true, sec := 0, ns := 0, frac := 0 }).count
      .TIM_EPOCH_EXPIRED 0

/-- TIM_CONV (R326): GO of the master's TIM_CONV_CMD for a capture of `epoch` and `sub`. -/
def execTimConv (m : Master) (epoch : Fin 256) (sub : Fin 8) (s : State) : Host.Outcome State Fault Refusal :=
  s.run fun d => d.onWrite m .TIM_CONV_CMD 0 0 fun d => d.convGo m epoch sub

/-! ### Pulses (R342 to R344) -/

/-- PULSE_ARM (R342): a write of TIM_PULSE_CFG[k]. -/
def execPulseArm (m : Master) (k : Fin 4) (mode : Fin 4) (lockedOnly : Bool) (sub : Fin 8) (s : State) :
    Host.Outcome State Fault Refusal :=
  s.run fun d => d.onWrite m .TIM_PULSE_CFG k 0 fun d => d.armPulse k mode lockedOnly sub

/-- PULSE_EDGE (R342 to R344): the next edge of output `k` is due; it rises, or is suppressed and counted. -/
def execPulseEdge (k : Fin 4) (s : State) : Host.Outcome State Fault Refusal :=
  s.run fun d =>
    let x := d.pulse k
    let f := d.edgeAt k x.next
    if !x.armed ∨ d.tim.stopped ∨ (d.frc67 : Int) < f then d
    else
      let d1 := d.skipEdges k 1
      if !d.boot.committed ∨ !d.forwards then d1.missEdges k 1 3
      else if d.b1 .TIM_PULSE_CFG_LOCKED_ONLY k ∧ d.f0 .TIM_STATUS_STATE ≠ 1 then d1.missEdges k 1 2
      else
        let y := d1.pulse k
        d1.setPulse k { y with
          high := true, done := d.f1 .TIM_PULSE_CFG_MODE k == 1, fall := f.toNat + d.f1 .TIM_PULSE_WIDTH k }

/-- PULSE_FALL (R342): output `k` falls WIDTH after its rising edge. -/
def execPulseFall (k : Fin 4) (s : State) : Host.Outcome State Fault Refusal :=
  s.run fun d =>
    let x := d.pulse k
    if x.high ∧ x.fall ≤ d.frc67 then d.setPulse k { x with high := false } else d

/-! ### Capture inputs (R345) -/

/-- CAPTURE_INPUT_EDGE (R345): an edge on CAPTURE_IN[i], at sub-tick `sub`. -/
def execCaptureInputEdge (i : Fin 2) (rising : Bool) (sub : Fin 8) (s : State) : Host.Outcome State Fault Refusal :=
  s.run fun d =>
    if !d.boot.committed ∨ d.tim.stopped ∨ !bitOf (d.f1 .TIM_CAP_CFG_EDGE i) (if rising then 0 else 1) then d
    else
      let q := Map.get [] d.tim.caps i
      if q.length < 16 then
        { d with tim := { d.tim with
          caps := Map.set [] d.tim.caps i (q ++ [⟨⟨d.tim.frc, sub, d.epochAt d.tim.frc, true⟩, rising⟩]) } }
      else ((d.set1 .TIM_CAP_CFG_OVF i 1).count .TIM_CAP_OVF 0).record .CAPTURE_OVERFLOW 0 0 (payloadOf [(1, i)])

/-- TIM_CAP_POP[i] is read: the oldest capture, with its companions latched for the master. -/
def Dev.popCap (d : Dev) (m i : Nat) : Nat × Dev :=
  match Map.get [] d.tim.caps i with
  | [] => (0, d)
  | x :: rest =>
    let d1 := { d with tim := { d.tim with caps := Map.set [] d.tim.caps i rest } }
    let d2 := (d1.latch m .TIM_CAP_FRC_LO i 0 x.cap.frc).latch m .TIM_CAP_FRC_HI i 0 (x.cap.frc / 2 ^ 32)
    (2 ^ 31 + b2n x.rising * 2 ^ 30 + x.cap.sub * 2 ^ 24 + x.cap.epoch, d2)

/-- CAP_POP (R345): a read of TIM_CAP_POP[i]. -/
def execCapPop (m : Master) (i : Fin 2) (s : State) : Host.Outcome State Fault Refusal :=
  s.run fun d => d.onPop m .TIM_CAP_POP i fun d => d.popCap m i

/-- TIM_CAP_CFG[i].FLUSH empties the FIFO. -/
def Dev.flushCaps (d : Dev) (i : Nat) : Dev := { d with tim := { d.tim with caps := Map.set [] d.tim.caps i [] } }

/-- CAP_FLUSH (R345). -/
def execCapFlush (m : Master) (i : Fin 2) (s : State) : Host.Outcome State Fault Refusal :=
  s.run fun d => d.onWrite m .TIM_CAP_CFG i 0 fun d => d.flushCaps i

/-! ### The firmware's PTP (R334, R337 to R341, R347) -/

/-- DOMAIN of the TIME section. -/
def Dev.ptpDomain (d : Dev) : Nat := leAt (d.section 11 4) 1 1

/-- The messages of one type on a port in the present second, this one included; a new second begins 1 s after the
last one did. -/
def Dev.ptpCount (d : Dev) (p type : Nat) : Dev × Nat :=
  let x := d.ptpSt p
  let y := if d.now < x.since + tSec then x else { x with since := d.now, msgs := [] }
  let n := Map.get 0 y.msgs type + 1
  (d.setPtp p { y with msgs := Map.set 0 y.msgs type n }, n)

/-- A message that no rule of Table 12-8 turns away. -/
def Dev.ptpAccept (d : Dev) (p : Nat) (msg : PtpMsg) : Dev :=
  let x := d.ptpSt p
  let learn (d : Dev) : Dev := match msg.delay with
    | some v => d.set1 .TIM_LINK_DELAY p v
    | none => d
  match msg.type with
  | 0xB => (d.setPtp p { x with announcedAt := some d.now, gmId := msg.gm, gmRank := msg.rank }).chooseMaster
  | 0 => d.setPtp p { x with sync := some (msg.seq, d.now) }
  | 3 => learn (d.setPtp p { x with responder := some (msg.seq, msg.sender) })
  | 10 => learn d
  | _ => d

/-- PTP_RX_FIRMWARE (R337 to R339, R347): the firmware takes a PTP message received on port `p`. -/
def execPtpRxFirmware (p : Port) (msg : PtpMsg) (s : State) : Host.Outcome State Fault Refusal :=
  s.run fun d0 =>
    if !d0.boot.fwRuns ∨ d0.winter ∨ !d0.ptpPort p ∨ (d0.ptpSt p).isolatedUntil.isSome then d0
    else
      let c := d0.ptpCount p msg.type
      let d := c.1
      let x := d.ptpSt p
      if 64 < c.2 then
        ((d.setPtp p { x with isolatedUntil := some (d.now + 10 * tSec) }).count .TIM_PTP_ISOLATED 0).ptpViolation p 7
      else if !msg.lengthOk then (d.count .TIM_PTP_DISCARD 0).ptpViolation p 1
      else if msg.domain ≠ d.ptpDomain then d.count .TIM_PTP_IGNORED 0
      else if msg.type = 0xB ∧ 255 ≤ msg.steps then (d.count .TIM_PTP_DISCARD 0).ptpViolation p 3
      else if (msg.type = 0 ∨ msg.type = 8) ∧ x.state ≠ 2 then d.count .TIM_PTP_IGNORED 0
      else if msg.type = 8 ∧ !x.sync.any (fun y => y.1 = msg.seq ∧ d.now < y.2 + tSec) then
        (d.count .TIM_PTP_DISCARD 0).ptpViolation p 5
      else if msg.type = 3 ∧ x.responder.any (fun y => y.1 = msg.seq ∧ y.2 ≠ msg.sender) then
        (d.count .TIM_PTP_IGNORED 0).ptpViolation p 6
      else d.ptpAccept p msg

/-- The servo's offset lies within TIM_JUMP_LIMIT. -/
def Dev.withinLimit (d : Dev) (off : Int) : Bool := decide (off.natAbs < d.f0 .TIM_JUMP_LIMIT * 65536)

/-- PTP_SERVO_UPDATE (R339, R340): the servo has measured the offset of local time from the grandmaster's, in 2^-16 ns;
it slews with a new rate, steps, or refuses the step; `locked` says that it follows the grandmaster now. -/
def execPtpServoUpdate (off rate : Int) (locked : Bool) (s : State) : Host.Outcome State Fault Refusal :=
  s.run fun d =>
    match d.tim.best with
    | none => d
    | some p =>
      if !d.b0 .TIM_CTRL_SERVO_EN ∨ d.winter ∨ d.tim.stopped ∨ d.b0 .TIM_ADJ_CMD_BUSY then d
      else if d.withinLimit off then
        let d1 := d.schedule 0 ⟨3, 0, clampInt (-rateLimit) rateLimit rate⟩
        let d2 := ({ d1 with tim := { d1.tim with jump := none, lockedOnce := d1.tim.lockedOnce || locked } }).set0
          .TIM_STATUS_STATE (b2n locked)
        if locked ∧ d.f0 .TIM_STATUS_STATE ≠ 1 then
          d2.record .TIME_LOCKED 1 p (payloadOf [(1, p), (8, unsigned 64 off)])
        else d2
      else if d.tim.lockedOnce ∧ d.b0 .TIM_GM_POLICY_REFUSE_JUMP then
        let d1 := ({ d with tim := { d.tim with jump := some (-off) } }).count .TIM_JUMP_REFUSED 0
        if d.f0 .TIM_STATUS_STATE = 3 then d1
        else (d1.set0 .TIM_STATUS_STATE 3).record .TIME_JUMP_REFUSED 0 0
          (payloadOf [(8, unsigned 64 off), (8, (d.tim.gm.getD 0))])
      else d.schedule 0 ⟨2, -off, 0⟩

/-- GM_LOST (R339): announce receipt has timed out on every candidate port, and Table 12-2 applies. -/
def execGmLost (s : State) : Host.Outcome State Fault Refusal :=
  s.run fun d =>
    if d.tim.best.isNone ∨ d.winter ∨ d.tim.stopped then d
    else
      let lose (_ : Nat) (x : PtpPort) : PtpPort := { x with announcedAt := none, state := 0 }
      let d1 := { d with tim := { d.tim with best := none, jump := none, ptp := Map.mapV .reset lose d.tim.ptp } }
      let st := if d.b0 .TIM_GM_POLICY_FREE_RUN then 2 else 0
      let d2 : Dev := if st ≠ 0 ∨ !d.b0 .TIM_CTRL_SERVO_EN then d1
        else if d.b0 .TIM_ADJ_CMD_BUSY then { d1 with tim := { d1.tim with zeroDue := true } }
        else d1.schedule 0 ⟨3, 0, 0⟩
      (d2.set0 .TIM_STATUS_STATE st).record .GM_LOST 0 0 (payloadOf [(1, st)])

/-- ACCEPT_JUMP (R340): a write of TIM_CTRL.ACCEPT_JUMP. -/
def execAcceptJump (m : Master) (s : State) : Host.Outcome State Fault Refusal :=
  s.run fun d => d.onWrite m .TIM_CTRL 0 0 fun d => d.acceptJump

/-- CLOCK_MODE_WRITE (R337). -/
def execClockModeWrite (m : Master) (mode : Fin 2) (s : State) : Host.Outcome State Fault Refusal :=
  s.run fun d => d.onWrite m .TIM_CTRL 0 0 fun d => d.writeClockMode mode

/-- PTP_ISOLATE_END (R347). -/
def execPtpIsolateEnd (p : Port) (s : State) : Host.Outcome State Fault Refusal :=
  s.run fun d =>
    let x := d.ptpSt p
    if x.isolatedUntil.any (fun t => decide (t ≤ d.now)) then d.setPtp p { x with isolatedUntil := none } else d

/-- Whether the firmware sends a message of a type on a port (R337): as master in boundary mode, as requester of
delays, and the peer delay exchange in either peer-to-peer mode. -/
def Dev.ptpSends (d : Dev) (p type : Nat) : Bool :=
  let x := d.ptpSt p
  match type with
  | 2 | 3 | 10 => d.peerToPeer
  | 1 => d.b0 .TIM_CTRL_CLOCK_MODE && !d.peerToPeer && decide (x.state = 2)
  | 0 | 8 | 9 | 0xB => d.b0 .TIM_CTRL_CLOCK_MODE && decide (x.state = 1)
  | _ => false

/-- PTP_MESSAGE_SEND (R334, R335, R337): the firmware hands over a message for port `p`; a Pdelay_Resp names the request
capture `req` (FRC67).  It takes MAC queue 3 and is stamped when it leaves (R112). -/
def execPtpMessageSend (p : Port) (type : Fin 16) (twoStep : Bool) (req : Nat) (s : State) : Host.Outcome State Fault Refusal :=
  s.run fun d =>
    if !d.boot.fwRuns ∨ d.winter ∨ !d.ptpPort p ∨ !d.linkUp p ∨ (d.ptpSt p).isolatedUntil.isSome ∨ !d.ptpSends p type then d
    else
      let x := d.ptpSt p
      let d1 := d.setPtp p { x with
        txSeq := (x.txSeq + 1) % 65536, responder := if type.val = 2 then none else x.responder }
      d1.sendMsg p 3 type (max 64 (ptpMinLength type + 18)) [x.txSeq, b2n twoStep, req]

end Sys2Proof.Machine
end

