-- ==== Sys2Proof/Machine/Views.lean ====
section
/-! DEFINITION. What a read of each register returns: the stored fields, and the registers that show other state (the
register tables of each chapter). -/

namespace Sys2Proof.Machine

/-- A word of (lowest bit, value) parts. -/
def wordOf (l : List (Nat × Nat)) : Nat := l.foldl (fun a x => a + x.2 * 2 ^ x.1) 0

/-- Bits of a list of flags, the first in bit 0. -/
def flagsOf (l : List Bool) : Nat := (l.zipIdx).foldl (fun a x => a + b2n x.1 * 2 ^ x.2) 0

/-- Where the fields of a register instance stand: an alias of a shared set (R201, R222, R223, R247, R249) shows the one
set. -/
def Reg.place (r : Reg) (i j : Nat) : Nat × Nat := if r.desc.aliased then (j, 0) else (i, j)

/-- The word of the stored fields; W1S bits read 0 (R446), except those of the doorbells. -/
def Dev.storedWord (d : Dev) (r : Reg) (i j : Nat) : Nat :=
  let p := r.place i j
  wordOf (r.desc.fields.map (fun f =>
    (f.lo, if f.access == .w1s && f.width == 1 then 0 else d.fld f p.1 p.2)))

/-! ### Counters -/

/-- The counter and instance of a register of a counter pair. -/
def Reg.counterAt (r : Reg) (i j : Nat) : Option (Ctr × Nat) :=
  r.counter.map (fun x =>
    if x.1 == .MIR_COPIES || x.1 == .MIR_SKIPPED then (⟨x.1, 0⟩, j)
    else if r.desc.n2 = 1 then (if r.desc.aliased then (⟨x.1, 0⟩, 0) else (⟨x.1, i⟩, 0))
    else if r.desc.aliased then (⟨x.1, j⟩, 0) else (⟨x.1, j⟩, i))

/-- A register of the low half of a 64-bit pair under R122 (R451), with the value of the pair now. -/
def Dev.pairAt (d : Dev) (r : Reg) (i j : Nat) : Option Nat :=
  match r.counter with
  | some (_, .lo) => (r.counterAt i j).map (fun c => d.ctr c.1 c.2)
  | some (_, .hi) => none
  | none =>
    match r with
    | .ACT_CAP_HEAD_LO => some (d.act.capHead % 2 ^ 64)
    | .PMC_CYC_LO => some (Map.get 0 d.pmc.cyc i)
    | .PMC_CNT_LO => some (Map.get 0 d.pmc.cnt (k2 i j))
    | .PMC_SNAP_CYC_LO => some (Map.get 0 d.pmc.snapCyc i)
    | .PMC_SNAP_LO => some (Map.get 0 d.pmc.snap (k2 i j))
    | _ => none

/-- A register read from the latch of the reading master (R122, R346, R450). -/
def Reg.isLatched (r : Reg) : Bool :=
  match r.counter with
  | some (_, .hi) => true
  | some (_, .lo) => false
  | none =>
    match r with
    | .ACT_CAP_HEAD_HI | .PMC_CYC_HI | .PMC_CNT_HI | .PMC_SNAP_CYC_HI | .PMC_SNAP_HI | .TIM_FRC_HI | .TIM_NOW_SEC_LO
    | .TIM_NOW_SEC_HI | .TIM_NOW_NS | .TIM_NOW_FRAC | .TIM_TXTS_FRC_LO | .TIM_TXTS_FRC_HI | .TIM_CAP_FRC_LO
    | .TIM_CAP_FRC_HI => true
    | _ => false

/-- A latch by the address of its register. -/
def Dev.latchAt (d : Dev) (m off v : Nat) : Dev :=
  { d with reg := { d.reg with latch := Map.set 0 d.reg.latch (k2 m off) (v % 2 ^ 32) } }

/-- A read of TIM_FRC_LO latches the next five registers for the reading master (R346). -/
def Dev.latchTime (d : Dev) (m : Nat) : Dev :=
  let t := d.timeNow
  let put (r : Reg) (v : Nat) (d : Dev) : Dev := d.latch m r 0 0 v
  put .TIM_NOW_FRAC (t.2.2 * 2 ^ 16 + d.tim.cur) (put .TIM_NOW_NS t.2.1 (put .TIM_NOW_SEC_HI (t.1 / 2 ^ 32)
    (put .TIM_NOW_SEC_LO t.1 (put .TIM_FRC_HI (d.tim.frc / 2 ^ 32) d))))

/-! ### Registers that show other state -/

/-- Clock `k` of Table 1-12 is present: the divided clocks of the root while it is locked, REFCLK and PCIE_REFCLK as found. -/
def Dev.clockRuns (d : Dev) (k : Nat) : Bool :=
  if k < 4 then d.b0 .CLK_STATUS_ROOT_LOCK && !d.b0 .CLK_STATUS_ROOT_LOST
  else if k = 4 then d.b0 .CLK_STATUS_REF_OK else d.b0 .CLK_STATUS_PCIE_REF_OK

/-- Ports, lanes and the parser. -/
def Dev.viewPort (d : Dev) (r : Reg) (i j : Nat) : Option Nat :=
  match r with
  | .MAC_STAT_HALF =>
    some (flagsOf ((List.range 32).map (fun k => bitOf (d.ctr ⟨.MAC_STAT, 32 * j + k⟩ i) 47)))
  | .MAC_EEE_STATUS => some (d.storedWord r i j + b2n (d.eeeBlocked i))
  | .LANE_STATUS => some (d.storedWord r i j + b2n (d.laneEligible i) * 2 ^ 8)
  | .LANE_CAL_AGE =>
    let at_ := Map.get 0 (d.turn (i / 4)).calAt (i % 4)
    some (min (2 ^ 32 - 1) ((d.now - at_) / tMs))
  | .LANE_LAT_OFFSET => some (unsigned 16 (d.latOffset i))
  | .LANE_TX_FACTORY => some (Config.laneTxFactory i).toNat
  | .PMC_BW_RX | .PMC_BW_TX => if d.portUsed i && d.linkUp i then none else some 0
  | .PRS_STATUS => some (d.storedWord r i j + leAt (d.section 3 i) 0 2 * 2 ^ 8)
  | .CLK_FREQ => some (if d.clockRuns i then (Config.clkFreq i (d.b0 .CLK_DIV_CORE_HALF)).toNat else 0)
  | .HLT_EXIT_RESP => some 0
  | _ => none

/-- Tables, TCAM, automata and actions. -/
def Dev.viewTables (d : Dev) (r : Reg) (i j : Nat) : Option Nat :=
  match r with
  | .TBL_STATUS =>
    some (wordOf [(3, d.f1 .TBL_STATUS_ENGINE_SPARE_USED i), (2, b2n d.ages),
      (1, b2n (decide (3072 < d.tbl.learnQ.length))), (0, d.f0 .TBL_STATUS_READY)])
  | .TBL_L2_COUNT => some d.tbl.l2.length
  | .TBL_L2_CAPACITY => some (8 * d.l2Rows)
  | .TBL_LPM4_COUNT => some d.tbl.lpm4.length
  | .TBL_LPM6_COUNT => some d.tbl.lpm6.length
  | .TBL_LPM4_USED => some (d.lpmUsed false)
  | .TBL_LPM6_USED => some (d.lpmUsed true)
  | .TBL_HASH_SEED => some (hashSeed j)
  | .TCM_STATUS =>
    some (wordOf [(2, d.f0 .TCM_STATUS_HARD_FAULT), (1, b2n d.search.move.isSome), (0, d.f0 .TCM_STATUS_READY)])
  | .TCM_MOVE_STATUS =>
    some (match d.search.move with
      | none => 0
      | some x => 2 ^ 31 + x.part * 2 ^ 24 + x.steps % 2 ^ 16)
  | .TCM_PART_INFO =>
    some (match d.tcamPart j with
      | none => 0
      | some p => wordOf [(31, 1), (30, d.f1 .TCM_PART_INFO_LOST j), (22, p.mask % 16), (21, b2n p.prio),
          (20, b2n p.wide), (13, p.banks), (0, p.first)])
  | .TCM_PART_USED => some (d.search.tcam.countP (fun x => (Nat.unpair x.1).1 == j))
  | .AUT_STATUS => some (d.storedWord r i j + (d.inspectQ i).length * 2 ^ 16)
  | .AUT_FLOW_COUNT => some d.search.flows.length
  | .ACT_NH_CAPACITY => some d.nhCapacity
  | _ => none

/-- The buffer and its queues; ports 128 to 134 have no multicast registers, and port 134 has TC 0 alone (R282). -/
def Dev.viewBuffer (d : Dev) (r : Reg) (i j : Nat) : Option Nat :=
  match r with
  | .BUF_FREE_CELLS => some d.freeCells
  | .BUF_SHARED_SIZE => some d.sharedSize
  | .BUF_SHARED_USED => some d.sharedUsed
  | .BUF_DESC_FREE => some (1572864 - d.descUsed)
  | .QUE_PORT_STATUS =>
    let f := d.flapSt i
    some (wordOf [(31, b2n f.endAt.isSome), (30, b2n f.expired), (16, d.f1 .QUE_PORT_STATUS_PFC_XOFF i),
      (0, flagsOf ((List.range 10).map (fun k => !(d.queue i k).isEmpty)))])
  | .QUE_PORT_CFG => if 128 ≤ i then some 0 else none
  | .QUE_FLAP_LEFT => some (((d.flapSt i).endAt.map (fun t => (t - d.now + tMs - 1) / tMs)).getD 0)
  | .QUE_TC_CFG | .QUE_TC_SHAPER | .QUE_TC_ECN | .QUE_TC_PFC => if i = 134 ∧ j ≠ 0 then some 0 else none
  | .QUE_DEPTH => some (d.depth i j)
  | .QUE_INGRESS_DEPTH => some (d.ingressCells i j)
  | _ => none

/-- Frames that wait in a queue, its oldest first, ahead of the rest (R299). -/
def Dev.heldFrames (d : Dev) (h : Nat) : List Held := (d.holdQ h).chain ++ (d.holdQ h).frames

/-- The conditions of R298 hold for the head frame of a queue now. -/
def Dev.drainingNow (d : Dev) (h : Nat) : Bool :=
  match (d.holdQ h).frames with
  | [] => false
  | f :: _ =>
    (d.holdQ h).active && d.holdRuns && d.forwards && (d.holdQ h).chain.isEmpty &&
      (d.drainPort h f).any (fun p => d.drainRoom h p f)

/-- The wear of every physical zone summed. -/
def Dev.wearSum (d : Dev) : Nat := d.hld.zones.foldl (fun n x => n + x.2.wear) 0

/-- The hold store. -/
def Dev.viewHold (d : Dev) (r : Reg) (i : Nat) : Option Nat :=
  let h := d.f0 .HLD_QSEL
  let q := d.holdQ h
  match r with
  | .HLD_FREE_PAGES => some d.hld.ring.free
  | .HLD_HELD_PAGES => some d.heldPages
  | .HLD_HELD_FIRST => some heldFirst
  | .HLD_CAP_PAGES => some (d.hld.capGib * 16384)
  | .ACT_CAP_RECORDS => some (d.hld.capGib * 8388608)
  | .HLD_WEAR_MAX => some (d.hld.zones.foldl (fun n x => max n x.2.wear) 0)
  | .HLD_WEAR_MEAN => some (d.wearSum / 4096)
  | .HLD_QINFO0 => some (min (2 ^ 32 - 1) (d.heldFrames h).length)
  | .HLD_QINFO1 => some (q.pages.length + q.chainPages.length)
  | .HLD_QINFO2 =>
    some (min (2 ^ 32 - 1) (((d.heldFrames h).head?.map (fun f => (d.opMs - f.opMs) / 1000)).getD 0))
  | .HLD_QINFO3 =>
    some (wordOf [(31, b2n q.active), (30, b2n (d.drainingNow h)), (29, b2n q.restored), (28, b2n (!q.chain.isEmpty)),
      (0, min 65535 q.pending)])
  | .HLD_POLICY_TC =>
    some (wordOf [(8, b2n (d.clsDurable i)), (4, b2n (d.holdDropOldest i)), (0, d.holdPolicy i)])
  | .HLD_SPILL_TC => some (d.clsSpill i)
  | .HLD_MAX_AGE_TC => some (d.clsMaxAge i)
  | .HLD_DRAIN_RATE_TC => some (d.clsDrainRate i)
  | .HLD_WEAR => some (d.zone i).wear
  | _ => none

/-- RATE_ADJ as its 40-bit pattern. -/
def Epoch.rateBits (e : Epoch) : Nat := unsigned 40 e.rate

/-- Word `w` of an epoch-table entry (Table 12-3). -/
def epochWord (e : Option Epoch) (w : Nat) : Nat :=
  match e with
  | none => 0
  | some x =>
    ([2 ^ 31 + x.frac * 2 ^ 8 + x.id, x.frcStart % 2 ^ 32, x.frcStart / 2 ^ 32, x.sec % 2 ^ 32, x.sec / 2 ^ 32, x.ns,
      x.rateBits % 2 ^ 32, x.rateBits / 2 ^ 32] : List Nat).getD w 0 % 2 ^ 32

/-- Time. -/
def Dev.viewTime (d : Dev) (m : Nat) (r : Reg) (i j : Nat) : Option Nat :=
  let b := d.convBank m
  match r with
  | .TIM_FRC_LO => some (d.tim.frc % 2 ^ 32)
  | .TIM_EPOCH_NOW => some d.tim.cur
  | .TIM_RATE_LO => some (d.epochNow.rateBits % 2 ^ 32)
  | .TIM_RATE_HI => some (d.epochNow.rateBits / 2 ^ 32)
  | .TIM_CONV_FRC_LO => some b.frcLo
  | .TIM_CONV_FRC_HI => some b.frcHi
  | .TIM_CONV_CMD => some (wordOf [(30, b2n b.done), (29, b2n b.expired), (24, b.sub), (0, b.epoch)])
  | .TIM_CONV_SEC_LO => some (b.sec % 2 ^ 32)
  | .TIM_CONV_SEC_HI => some (b.sec / 2 ^ 32 % 2 ^ 32)
  | .TIM_CONV_NS => some b.ns
  | .TIM_CONV_FRAC => some b.frac
  | .TIM_BUS_DELAY =>
    some (unsigned 32 (calEffective (0x500 + 4 * i) (signed 16 (d.f1 .CAL_TBUS_DELAY i))))
  | .TIM_EPOCH_TAB => some (epochWord (Map.get none d.tim.epochs i) j)
  | .TIM_TXTS_STATUS =>
    some (d.storedWord r i j + ((Map.get [] d.tim.txts i).countP (fun x => !x.firmware)) * 2 ^ 16)
  | .TIM_PULSE_CFG => some (d.storedWord r i j + b2n (d.pulse i).armed * 2 ^ 31)
  | .TIM_PULSE_STATUS =>
    some (d.storedWord r i j + b2n (d.pulse i).high * 2 ^ 31 + b2n (d.pulse i).done * 2 ^ 29)
  | .TIM_CAP_CFG => some (d.storedWord r i j + (Map.get [] d.tim.caps i).length * 2 ^ 16)
  | _ => none

/-- The key of a sequence-gap count: source device and class. -/
def Dev.srcSel (d : Dev) : Nat := k2 (d.f0 .FAB_SRC_SEL_SOURCE) (d.f0 .FAB_SRC_SEL_CLASS)

/-- Microseconds left on the lease timer. -/
def Dev.leaseLeft (d : Dev) : Nat := (d.pair.lease.map (fun t => (t - d.now) / tUs)).getD 0

/-- The fabric and the pair. -/
def Dev.viewSystem (d : Dev) (r : Reg) (i : Nat) : Option Nat :=
  match r with
  | .FAB_STATUS =>
    some (wordOf [(31, b2n d.fabMember), (30, d.f0 .FAB_STATUS_CONFLICT), (29, d.f0 .FAB_STATUS_ELECTED),
      (28, b2n (decide (256 ≤ d.fab.lsdb.length + b2n d.fab.own.isSome))), (8, min 255 d.fullPorts.length), (0, d.fabAddr)])
  | .FAB_ETHERTYPE => some (leAt (d.section 9 4) 2 2)
  | .FAB_HELLO_CFG => some (d.fabDead * 2 ^ 16 + d.fabInterval)
  | .FAB_LSDB_COUNT => some (d.fab.lsdb.length + b2n d.fab.own.isSome)
  | .FAB_SRC_GAP => some (min (2 ^ 32 - 1) (Map.get 0 d.fab.gap d.srcSel))
  | .FAB_SRC_LATE => some (min (2 ^ 32 - 1) (Map.get 0 d.fab.late d.srcSel))
  | .FAB_ROUTE0 =>
    let x := d.route i
    some (wordOf [(31, b2n (!x.ports.isEmpty && !x.bad)), (16, x.ports.length), (0, x.cost % 2 ^ 16)])
  | .FAB_ROUTE1 => some (leNat ((d.route i).ports.take 4 |>.map (BitVec.ofNat 8)))
  | .FAB_ROUTE2 => some (leNat (((d.route i).ports.drop 4).take 4 |>.map (BitVec.ofNat 8)))
  | .PAIR_EPOCH => some d.pair.epoch
  | .PAIR_LEASE_LEFT => some d.leaseLeft
  | .PAIR_WIT_STATUS =>
    some (flagsOf ([0, 1, 2].map (fun s =>
      (Map.find? d.pair.witAt s).any (fun a => decide (d.now ≤ a + 100 * tMs)))))
  | .PAIR_DIG_INFO =>
    let x := d.digestRun (d.f0 .PAIR_DIG_SEL)
    some (x.1 * 2 ^ 30 + x.2)
  | _ => none

/-- The level of an interrupt source (Table 16-7). -/
def sourceLevel (s : Nat) : Option Nat :=
  if s < 256 then some 0 else if s < 288 then some 1 else if s < 292 then some 2 else if s < 321 then some 3
  else if s = 321 then some 4 else if s < 324 then some 5 else if s < 336 then some 6 else if s = 336 then some 7
  else none

/-- Source `s` is pending and not masked. -/
def Dev.pendingOpen (d : Dev) (s : Nat) : Bool :=
  bitOf (d.f1 .INT_PEND (s / 32)) (s % 32) && !bitOf (d.f1 .INT_MASK (s / 32)) (s % 32)

/-- The host side: interrupts, mailboxes, locks, the recorder and GLB. -/
def Dev.viewHost (d : Dev) (m : Nat) (r : Reg) (i j : Nat) : Option Nat :=
  match r with
  | .INT_LEVEL_SUM =>
    some (flagsOf ((List.range 8).map (fun l =>
      (List.range 512).any (fun s => d.pendingOpen s && decide (sourceLevel s = some l)))))
  | .IND_ADDR => some (d.indAddr i m)
  | .IND_STATUS => some (d.indStatus i m)
  | .IND_CMD => some (d.indBank i m).count
  | .GLB_SERIAL => some (Config.serial.toNat / 2 ^ (32 * i) % 2 ^ 32)
  | .GLB_BASE_MAC_LO => some (Config.baseMac.toNat % 2 ^ 32)
  | .GLB_BASE_MAC_HI => some (Config.baseMac.toNat / 2 ^ 32)
  | .GLB_SCRATCH_M => some (d.f0 .GLB_SCRATCH_M)
  | .LCK_HELD_LO => some (flagsOf ((List.range 32).map (fun k => d.lockHolder k != 0xF)))
  | .LCK_HELD_HI => some (flagsOf ((List.range 32).map (fun k => d.lockHolder (32 + k) != 0xF)))
  | .LCK_PEEK => some (d.lockHolder i)
  | .EVR_NEXT_SEQ => some d.evr.nextSeq
  | .EVR_HEAD => some d.evr.head
  | .EVR_OLDEST => some d.evr.oldest
  | .EVR_STAGED =>
    some (d.evr.fifo.countP (fun x => x.code.severity.severe) * 2 ^ 16 + d.evr.fifo.length)
  | .EVR_FREEZE_LEFT => some ((d.evr.freezeAt.map (fun t => (t + 10 * tSec - d.now) / tMs)).getD 0)
  | .MON_VOLT => some (d.storedWord r i j % 2 ^ 16 + railOf i * 2 ^ 16 + d.f1 .MON_VOLT_STATE i * 2 ^ 30)
  | _ => none

/-- The word of a register as a master reads it, side effects apart. -/
def Dev.word (d : Dev) (m : Nat) (r : Reg) (i j : Nat) : Nat :=
  let v := (d.viewPort r i j).or ((d.viewTables r i j).or ((d.viewBuffer r i j).or ((d.viewHold r i).or
    ((d.viewTime m r i j).or ((d.viewSystem r i).or (d.viewHost m r i j))))))
  (v.getD (d.storedWord r i j)) % 2 ^ 32

/-- A read of a register by a master: its word, and what the read itself does (R122, R346, R443, R450, R458, R480). -/
def Dev.readReg (d : Dev) (m : Nat) (r : Reg) (i j : Nat) : Nat × Dev :=
  match d.pairAt r i j with
  | some v => (v % 2 ^ 32, d.latchAt m (r.addr i j + 4) (v / 2 ^ 32))
  | none =>
    if r.isLatched then (d.latched m r i j, d)
    else match r with
      | .TIM_FRC_LO => (d.word m r i j, d.latchTime m)
      | .TIM_TXTS_POP => d.popTxts m i
      | .TIM_CAP_POP => d.popCap m i
      | .LCK_LOCK => d.lockRead m i
      | .IND_DATA => d.indDataRead i m j
      | _ => (d.word m r i j, d)

/-- A register whose read removes an entry (RP). -/
def Reg.isPop (r : Reg) : Bool := r == .TIM_TXTS_POP || r == .TIM_CAP_POP

/-- A register that no burst may read: RP registers, and the locks, which count as such (R452, R480). -/
def Reg.noBurst (r : Reg) : Bool := r.isPop || r == .LCK_LOCK

end Sys2Proof.Machine
end

