-- ==== Sys2Proof/Machine/RegWrite.lean ====
section
/-! DEFINITION. What a write of each register does once it has passed the checks of R442: the access types of R444 to R449,
and the registers whose write acts. -/

namespace Sys2Proof.Machine

/-! ### Plain fields (R444 to R446) -/

/-- The bits of a field in a written word. -/
def Field.of (f : Field) (w : Nat) : Nat := bitsOf w f.lo f.width

/-- The value that a write gives a field. -/
def Dev.fieldAfter (d : Dev) (f : Field) (i j w : Nat) : Nat :=
  let old := d.fld f i j
  match f.access with
  | .rw => f.of w
  | .rwm =>
    let mask := bitsOf w (16 + f.lo) f.width
    Nat.lor (Nat.land (f.of w) mask) (old - Nat.land old mask)
  | .w1c => old - Nat.land old (f.of w)
  | _ => old

/-- No field of a word lies outside its stated range. -/
def Reg.inRange (r : Reg) (w : Nat) : Bool :=
  r.desc.fields.all (fun f => f.access != .rw || (decide (f.min ≤ f.of w) && decide (f.of w ≤ f.max)))

/-- The fields of an instance take their values. -/
def Dev.putFields (d : Dev) (r : Reg) (i j w : Nat) : Dev :=
  let p := r.place i j
  r.desc.fields.foldl (fun d f => d.setFld f p.1 p.2 (d.fieldAfter f p.1 p.2 w)) d

/-- A write of plain fields: out of range it has no effect (R444). -/
def Dev.plainWrite (d : Dev) (r : Reg) (i j w : Nat) : Dev := if r.inRange w then d.putFields r i j w else d

/-- The W1C bits of a register with a PW field, and then the PW write itself (R449); only a privileged master's write
reaches them. -/
def Dev.pwRegister (d : Dev) (m : Nat) (r : Reg) (w : Nat) (go : Bool) (f : Dev → Dev) : Dev :=
  if !pwMaster m then d.accessFailed m .pwMaster (r.addr 0 0)
  else
    let d1 := r.desc.fields.foldl (fun (d : Dev) x => if x.access == .w1c then d.set0 x (d.fieldAfter x 0 0 w) else d) d
    if go then f d1 else d1

/-! ### Clearing of counters (R502, R503) -/

/-- What the clear bit of a control register clears; nothing for a register without one. -/
def Dev.clearOf (d : Dev) (r : Reg) (i : Nat) : Dev :=
  match r with
  | .HLT_D2D_CTRL => ((d.set1 .HLT_D2D_CRC_ERR i 0).set1 .HLT_D2D_REPLAY i 0).set1 .HLT_D2D_REPAIR i 0
  | .MAC_CTRL => d.clearCtrs .MAC_STAT i
  | .LANE_CTRL =>
    (((d.set1 .LANE_SWAPS i 0).set1 .LANE_ABANDONED i 0).set1 .LANE_UNDECIDED i 0).set1 .LANE_LAST_MISMATCH i 0
  | .SHADOW_CTRL => (d.set1 .SHADOW_TURNS i 0).set1 .SHADOW_FAILS i 0
  | .PRS_CTRL => (d.clearCtrs .PRS_CNT i).clearCtrs .PRS_PORT_ERR i
  | .TBL_CTRL => (d.clearBlock .TBL_SCNT).clearBlock .TBL_RCNT
  | .TCM_CTRL => (d.clearBlock .TCM_SCNT).clearBlock .TCM_RCNT
  | .AUT_CTRL => d.clearCtrs .AUT_CNT i
  | .ACT_CTRL => (d.clearBlock .ACT_CNT).clearBlock .ACT_CAP_LOST
  | .MTR_CTRL => d.clearCtrs .MTR_CNT i
  | .MIR_CTRL => (d.clearBlock .MIR_COPIES).clearBlock .MIR_SKIPPED
  | .BUF_CTRL => d.clearBlock .BUF_CNT
  | .QUE_PORT_CFG => (d.clearCtrs .QUE_QCNT i).clearCtrs .QUE_PCNT i
  | .HLD_CTRL => (d.clearBlock .HLD_TCNT).clearBlock .HLD_GCNT
  | .TIM_CTRL => d.clearBlock .TIM_CNT
  | .FAB_CTRL => let d1 := d.clearBlock .FAB_CNT; { d1 with fab := { d1.fab with gap := [], late := [] } }
  | .PAIR_CTRL => d.clearBlock .PAIR_CNT
  | .DMA_CTRL => d.clearBlock .DMA_CNT
  | .MBX_STATUS => d.clearBlock .MBX_CNT
  | _ => d

/-- The bit of a control register that clears its counters. -/
def Reg.clearBit (r : Reg) : Option Nat :=
  match r with
  | .HLT_D2D_CTRL | .PRS_CTRL | .TBL_CTRL | .TCM_CTRL | .AUT_CTRL | .ACT_CTRL | .MTR_CTRL | .MIR_CTRL | .BUF_CTRL
  | .HLD_CTRL | .FAB_CTRL | .PAIR_CTRL | .DMA_CTRL | .MBX_STATUS => some 0
  | .LANE_CTRL | .SHADOW_CTRL => some 1
  | .TIM_CTRL => some 3
  | .MAC_CTRL => some 15
  | .QUE_PORT_CFG => some 16
  | _ => none

/-- The clear bit of a written word acts. -/
def Dev.clearBy (d : Dev) (r : Reg) (i w : Nat) : Dev :=
  if r.clearBit.any (fun b => bitOf w b) then d.clearOf r i else d

/-! ### Registers whose write acts, block by block -/

/-- Clocks, image loader and boot. -/
def Dev.writeBoot (d : Dev) (m : Nat) (r : Reg) (w : Nat) (env : WriteEnv) : Option Dev :=
  match r with
  | .CLK_DIV => some (d.pwRegister m r w true fun d => d.writeClkDiv m (bitOf w 0))
  | .CLK_RST_CMD => some (d.clkRstCmd m (bitsOf w 8 8) (bitOf w 0))
  | .CLK_BOOT_FW_CMD => some (if bitOf w 31 then d.fwLoadGo else d)
  | .IMG_CMD =>
    let slot := bitsOf w 4 2
    let mask := bitsOf w 8 4
    let op := bitsOf w 0 4
    let host := bitOf w 12
    let lost := (env.lost.find? (fun x => x.1 == slot)).map (·.2)
    some (if !bitOf w 31 then (if d.b0 .IMG_STATUS_BUSY then d.set0 .IMG_STATUS_COLLISION 1 else d.plainWrite r 0 0 w)
      else if d.badCommand ⟨op, slot, mask, host⟩ then d.imgGo m ⟨op, slot, mask, host⟩ id
      else match op with
        | 1 => d.imgLoadSlot m slot env.host
        | 2 => d.imgMarkTrial m slot
        | 3 => d.imgReload m mask host slot env.host lost
        | 4 => d.imgAmend m env.host
        | 5 => d.imgEraseSlot m slot
        | 6 => d.imgVerifySlot m slot lost
        | 7 => d.imgLoadAndCommit m env.host
        | _ => d.imgGo m ⟨op, slot, mask, host⟩ id)
  | _ => none

/-- Ports and lanes. -/
def Dev.writePort (d : Dev) (r : Reg) (i j w : Nat) : Option Dev :=
  match r with
  | .MAC_CTRL =>
    let en := d.f1 .MAC_CTRL_PORT_EN i
    let d1 := (d.putFields r i j w).set1 .MAC_CTRL_PORT_EN i en
    some (if !r.inRange w then d
      else (if w % 2 = en then d1 else d1.writePortEn i (bitOf w 0)).clearBy r i w)
  | .MAC_CLASS_MAP => some (if r.inRange w then ((d.putFields r i j w).refreshPaused i).startNext i else d)
  | .MAC_TXQ_MAP => some (if r.inRange w ∧ (List.range 8).all (fun t => decide (bitsOf w (2 * t) 2 ≠ 3))
      then (d.putFields r i j w).startNext i else d)
  | .MAC_PFC_TX => some (if bitsOf w 16 16 < bitsOf w 0 16 then d.putFields r i j w else d)
  | .MAC_STAT_HI => some (if bitOf w 15 then d.clearHalf i j else d)
  | .SHADOW_CTRL => some (d.writeShadowCtrl i (bitOf w 2) (bitOf w 1) (bitOf w 0))
  | _ => none

/-- A ring of a region's TBL or TCM sub-block: base and size may be written only while ENABLE is 0 (Table 7-14). -/
def Dev.regionRing (d : Dev) (r : Reg) (en : Field) (n w : Nat) : Dev :=
  if d.b1 en n then d
  else if (r = .TBL_RING_SIZE ∨ r = .TCM_RING_SIZE) ∧ !((List.range 13).map (fun k => 16 * 2 ^ k)).contains w then d
  else d.putFields r n 0 w

/-- ENABLE and RESTART of such a ring. -/
def Dev.regionRingCtrl (d : Dev) (en halted enabled : Field) (n w : Nat) (restart : Dev → Dev) : Dev :=
  let d1 := d.set1 en n (w % 2)
  let d2 := d1.set1 enabled n (b2n (bitOf w 0 && !d1.b1 halted n))
  if bitOf w 1 then restart d2 else d2

/-- The parser, the tables and the actions of the regions. -/
def Dev.writeRegion (d : Dev) (r : Reg) (i w : Nat) : Option Dev :=
  match r with
  | .PRS_CTRL => some (if bitOf w 1 then (d.clearBy r i w).clearLastErr i else d.clearBy r i w)
  | .TBL_CTRL =>
    some (if bitOf w 1 then
      (((d.clearBy r i w).set0 .TBL_LAST_PARITY_TABLE 0).set0 .TBL_LAST_PARITY_REGION 0).set0 .TBL_LAST_PARITY_WORD 0
      else d.clearBy r i w)
  | .TBL_RING_BASE_LO | .TBL_RING_BASE_HI | .TBL_RING_SIZE => some (d.regionRing r .TBL_RING_CTRL_ENABLE i w)
  | .TBL_RING_CTRL =>
    some (d.regionRingCtrl .TBL_RING_CTRL_ENABLE .TBL_RING_STATUS_HALTED .TBL_RING_STATUS_ENABLED i w
      fun d => d.tblRestart i)
  | .TCM_CTRL =>
    some (if bitOf w 1 then (List.range 64).foldl (fun (d : Dev) p => d.set1 .TCM_PART_INFO_LOST p 0) (d.clearBy r i w)
      else d.clearBy r i w)
  | .TCM_RING_BASE_LO | .TCM_RING_BASE_HI | .TCM_RING_SIZE => some (d.regionRing r .TCM_RING_CTRL_ENABLE i w)
  | .TCM_RING_CTRL =>
    some (d.regionRingCtrl .TCM_RING_CTRL_ENABLE .TCM_RING_STATUS_HALTED .TCM_RING_STATUS_ENABLED i w
      fun d => d.tcmRestart i)
  | .ACT_TPID => some (if w % 2 ^ 16 = 0x8100 ∨ w % 2 ^ 16 = 0x88A8 then d.putFields r 0 0 w else d)
  | .ACT_CAP_CTRL =>
    some (if d.b0 .ACT_CAP_CTRL_ENABLE ∧ bitsOf w 1 1 ≠ d.f0 .ACT_CAP_CTRL_TARGET then d else d.putFields r 0 0 w)
  | .MIR_CFG => if 0 < bitsOf w 0 15 ∧ bitsOf w 0 15 < 64 then some d else none
  | .ACT_DSCP_COLOUR => if (List.range 16).any (fun k => bitsOf w (2 * k) 2 == 3) then some d else none
  | _ => none

/-- A shaper takes a new rate and burst: the tokens in its bucket are kept, clipped to the new burst (R269). -/
def reshape (b : Option Bucket) (old new : Nat × Nat) (now : Nat) : Option Bucket :=
  some ⟨min (refill b old.1 (old.2 * 3200) now) (new.2 * 3200 : Nat), now⟩

/-- The shared buffer and its queues. -/
def Dev.writeBuffer (d : Dev) (r : Reg) (i j w : Nat) : Option Dev :=
  match r with
  | .BUF_CTRL => some (if bitOf w 1 then (d.clearBy r i w).set0 .BUF_PEAK_USED d.cellsUsed else d.clearBy r i w)
  | .BUF_ARRIVAL_RESERVE => some (d.writeReserve w)
  | .QUE_PORT_CFG => some (if i < 128 then (d.putFields r i j w).clearBy r i w else d.clearBy r i w)
  | .QUE_PORT_SHAPER =>
    let d1 := d.putFields r i j w
    let x := reshape (Map.get none d.buf.portBkt i) (d.portShaper i) (d1.portShaper i) d.now
    some (if 128 ≤ i ∨ !r.inRange w then d
      else { d1 with buf := { d1.buf with portBkt := Map.set none d1.buf.portBkt i x } })
  | .QUE_TC_SHAPER =>
    let d1 := d.putFields r i j w
    let x := reshape (Map.get none d.buf.tcBkt (k2 i j)) (d.tcShaper i j) (d1.tcShaper i j) d.now
    some (if 128 ≤ i ∨ !r.inRange w then d
      else { d1 with buf := { d1.buf with tcBkt := Map.set none d1.buf.tcBkt (k2 i j) x } })
  | .QUE_TC_CFG => some (if i = 134 ∧ j ≠ 0 then d else d.floorWrite (r.addr i j) w (fun d => d.putFields r i j w))
  | .QUE_TC_PFC => some (if i = 134 ∧ j ≠ 0 then d else d.floorWrite (r.addr i j) w (fun d => d.putFields r i j w))
  | .QUE_TC_ECN =>
    some (if (i = 134 ∧ j ≠ 0) ∨ (bitsOf w 16 16 ≠ 0 ∧ bitsOf w 16 16 ≤ bitsOf w 0 16) then d else d.putFields r i j w)
  | .HLD_CTRL => some (if bitOf w 1 then (d.clearBy r i w).startSweep else d.clearBy r i w)
  | _ => none

/-- Time. -/
def Dev.writeTime (d : Dev) (m : Nat) (r : Reg) (i w : Nat) : Option Dev :=
  match r with
  | .TIM_CTRL =>
    let d1 := (d.clearBy r i w).set0 .TIM_CTRL_SERVO_EN (bitsOf w 1 1)
    let d2 := if bitOf w 2 then d1.acceptJump else d1
    some (if w % 2 = d.f0 .TIM_CTRL_CLOCK_MODE then d2 else d2.writeClockMode (w % 2))
  | .TIM_ADJ_CMD =>
    let d1 := (d.set0 .TIM_ADJ_CMD_COLLISION (d.fieldAfter .TIM_ADJ_CMD_COLLISION 0 0 w)).set0 .TIM_ADJ_CMD_REFUSED
      (d.fieldAfter .TIM_ADJ_CMD_REFUSED 0 0 w)
    some (if bitOf w 31 then d1.adjust m (w % 8) else d1.set0 .TIM_ADJ_CMD_OP (w % 8))
  | .TIM_CONV_FRC_LO => some (d.setConv m { d.convBank m with frcLo := w })
  | .TIM_CONV_FRC_HI => some (d.setConv m { d.convBank m with frcHi := w })
  | .TIM_CONV_CMD =>
    some (if bitOf w 31 then d.convGo m (w % 256) (bitsOf w 24 3)
      else d.setConv m { d.convBank m with sub := bitsOf w 24 3, epoch := w % 256 })
  | .TIM_PULSE_CFG => some (d.armPulse i (w % 4) (bitOf w 29) (bitsOf w 24 3))
  | .TIM_CAP_CFG => some (let d1 := d.putFields r i 0 w; if bitOf w 2 then d1.flushCaps i else d1)
  | _ => none

/-- Pair, hold format, health and calibration. -/
def Dev.writeHealth (d : Dev) (m : Nat) (r : Reg) (i j w : Nat) (env : WriteEnv) : Option Dev :=
  match r with
  | .HLD_FORMAT => some (d.pwRegister m r w true fun d => d.writeFormat m (bitsOf w 16 8) (bitsOf w 0 12))
  | .PAIR_LEASE_CMD => some (d.pwRegister m r w (decide (w % 4 ≠ 0)) fun d => d.leaseCmd m (w % 4))
  | .HLT_CAUSE => some (d.clearCauses w)
  | .HLT_WINTER_REQ => some (d.winterReq m (bitsOf w 8 8) (bitOf w 0))
  | .HLT_WINTER_EXIT =>
    some (d.pwRegister m r w (bitOf w 0) fun d =>
      d.pwWrite m (r.addr 0 0) .HLT_WINTER_EXIT_BUSY .HLT_WINTER_EXIT_COLLISION fun d => d.exitGo m env.spi env.lost)
  | .CAL_CMD => some (d.calCmd m (bitsOf w 8 8) (bitOf w 0) (bitOf w 1) (bitOf w 2))
  | .CAL_TEMP_OFS | .CAL_TEMP_GAIN | .CAL_VMON_GAIN | .CAL_TBUS_DELAY | .CAL_TX_DELTA | .CAL_TS_RX | .CAL_TS_TX
  | .CAL_HOLD_TRIM =>
    let off := r.addr i j - 0x40000
    some (d.takeCal off (calValue off w))
  | _ => none

/-- The host side. -/
def Dev.writeHost (d : Dev) (m : Nat) (r : Reg) (i j w : Nat) : Option Dev :=
  match r with
  | .INT_PEND => some (d.pendClear i w)
  | .INT_MASK => some (d.maskWrite i w)
  | .DMA_RX_STEER => if 64 < bitsOf w 8 7 + bitsOf w 0 6 then some d else none
  | .DMA_MSIX_TABLE => some (d.msixWrite 0 i j w)
  | .DMA_RING_BASE_LO => some (d.ringSetup .DMA_RING_BASE_LO i (w / 2 ^ 12))
  | .DMA_RING_BASE_HI => some (d.ringSetup .DMA_RING_BASE_HI i w)
  | .DMA_RING_SIZE => some (d.ringSetup .DMA_RING_SIZE i w)
  | .DMA_RING_CTRL => some (d.ringCtrl i (bitsOf w 16 10) (bitOf w 31) (bitOf w 30))
  | .MBX_H2F_DATA => some (d.h2fData m i j w)
  | .MBX_H2F_CTRL => some (if bitOf w 31 then d.h2fGo m i else d.h2fWrite m i (r.addr i 0) id)
  | .MBX_F2H_CTRL => some (if bitOf w 31 then d.f2hAck m i else d)
  | .MBX_DB_H2F_LO => some (d.ringH2f m w false)
  | .MBX_DB_H2F_HI => some (d.ringH2f m w true)
  | .LCK_LOCK => some (d.lockWrite m i w)
  | .EVR_CTRL =>
    some (if 4 < w % 8 then d
      else (d.set0 .EVR_CTRL_INT_SEV (w % 8)).evrCtrl m (bitOf w 31) (bitOf w 30) (bitOf w 29))
  | .EVR_STAGE_SEQ => some (d.stageLoad w)
  | .EVR_STAGE_RELEASE => some (d.stageRelease m w)
  | .PMC_CTRL => some (d.pmcCtrl (bitOf w 0) (bitOf w 1) (bitOf w 2) (bitOf w 3))
  | .PMC_BW_WINDOW => some (d.bwWindow w)
  | .PMC_BW_CTRL => some (if bitOf w 0 then d.bwClearPeaks else d)
  | .PMC_CTL => some ((if bitOf w 1 then d.pmcClear i else d).set1 .PMC_CTL_EN i (w % 2))
  | .PMC_SEL => some (d.pmcSel i j (w % 1024) (bitsOf w 16 8) (bitOf w 31))
  | .IND_ADDR => some (d.indAddrWrite i m w)
  | .IND_STATUS => some (d.indStatusWrite i m w)
  | .IND_CMD => some (d.indCmdWrite i m w)
  | .IND_DATA => some (d.indDataWrite i m j w)
  | _ => none

/-! ### GLB (R447, R460, R461) -/

/-- The bit of GLB_WO_STATUS of the block at an offset (Table 17-9): bits 0 to 14 in LO, 16 to 25 in HI. -/
def woBit (off : Nat) : Nat :=
  if off < 0xF0000 then off / 0x10000
  else if 0x100000 ≤ off ∧ off < 0x500000 then 16 + (off - 0x100000) / 0x100000
  else if off < 0x510000 then 20 else if off < 0x600000 then 21 else if off < 0x800000 then 22
  else if off < 0x900000 then 23 else if off < 0x940000 then 24 else 25

/-- A second write of a WO1 register (R447). -/
def Dev.woViolation (d : Dev) (m off : Nat) : Dev :=
  let b := woBit off
  let d1 := if b < 16 then d.setBit .GLB_WO_STATUS_LO 0 b true else d.setBit .GLB_WO_STATUS_HI 0 (b - 16) true
  d1.accessFailed m .woLck off

/-- A write of GLB_HIF_SELECT (R447, R460). -/
def Dev.hifSelect (d : Dev) (m w : Nat) : Dev :=
  let major := bitsOf w 8 8
  let minor := bitsOf w 0 8
  let key := Reg.GLB_HIF_SELECT.ctorIdx
  if d.reg.written.contains key then d.woViolation m (Reg.GLB_HIF_SELECT.addr 0 0)
  else if (major = 2 ∧ minor ≤ 15) ∨ (major = 3 ∧ minor ≤ 4) then
    let d1 := (d.set0 .GLB_HIF_SELECT_MAJOR major).set0 .GLB_HIF_SELECT_MINOR minor
    let d2 := ((d1.set0 .GLB_HIF_ACTIVE_SELECTED 1).set0 .GLB_HIF_ACTIVE_MAJOR major).set0 .GLB_HIF_ACTIVE_MINOR minor
    { d2 with reg := { d2.reg with written := key :: d2.reg.written } }
  else d.set0 .GLB_HIF_ACTIVE_BAD 1

/-- GO of GLB_FUSE_COMMIT: FACTORY_LOCKED reads 1, and the GO is refused (R461). -/
def Dev.fuseCommit (d : Dev) (m w : Nat) : Dev :=
  d.pwRegister m .GLB_FUSE_COMMIT w (bitOf w 0) fun d =>
    (d.set0 .GLB_FUSE_COMMIT_REFUSED 1).record .FUSE_COMMIT_REFUSED 9 m (payloadOf [(1, m)])

/-- A write of a register: one that acts, or plain fields with the counters that its clear bit names. -/
def Dev.writeReg (d : Dev) (m : Nat) (r : Reg) (i j w : Nat) (env : WriteEnv) : Dev :=
  match r with
  | .GLB_HIF_SELECT => d.hifSelect m w
  | .GLB_FUSE_COMMIT => d.fuseCommit m w
  | _ =>
    let x := (d.writeBoot m r w env).or ((d.writePort r i j w).or ((d.writeRegion r i w).or ((d.writeBuffer r i j w).or
      ((d.writeTime m r i w).or ((d.writeHealth m r i j w env).or (d.writeHost m r i j w))))))
    x.getD (if r.inRange w then (d.putFields r i j w).clearBy r i w else d)

end Sys2Proof.Machine
end

