-- ==== Sys2Proof/Machine/Registers.lean ====
section
/-! DEFINITION. The register bus (R441 to R455): what an access addresses, the checks it passes, its forms, and the commands
that read and write registers. -/

namespace Sys2Proof.Machine

/-! ### What an access addresses (R424, R442, R456) -/

/-- A register of the map, or a place in the own BAR of PF1, PF2 or PF3 (Table 16-5): a doorbell of a ring, a word of an
MSI-X vector, a word of the PBA. -/
inductive Target
  | reg (r : Reg) (i j : Nat)
  | doorbell (ring : Nat)
  | vector (f v w : Nat)
  | pba (f k : Nat)
  deriving DecidableEq, Repr

/-- The register at an offset of the map; a reserved pair of Table 4-3 has none. -/
def regOf (off : Nat) : Option (Reg × Nat × Nat) :=
  match regAt off with
  | some (.MAC_STAT_LO, i, j) => if macCtrDefined j then some (.MAC_STAT_LO, i, j) else none
  | some (.MAC_STAT_HI, i, j) => if macCtrDefined j then some (.MAC_STAT_HI, i, j) else none
  | x => x

/-- MSI-X of a function's own BAR: offset of the table, number of vectors, offset of the PBA (Table 16-5). -/
def msixShape : Nat → Nat × Nat × Nat
  | 1 => (0x10000, 1024, 0x20000)
  | 2 => (0x4000, 64, 0x8000)
  | _ => (0, 16, 0x1000)

/-- What stands at an offset of the own BAR of function `f` (Tables 16-5 and 16-11). -/
def ownTarget (f off : Nat) : Option Target :=
  let x := msixShape f
  if off % 4 ≠ 0 then none
  else if f = 1 ∧ off < 0x200 then some (.doorbell (off / 4))
  else if f = 2 ∧ off < 0x10 then some (.doorbell (128 + off / 4))
  else if x.1 ≤ off ∧ off < x.1 + 16 * x.2.1 then some (.vector f ((off - x.1) / 16) ((off - x.1) / 4 % 4))
  else if x.2.2 ≤ off ∧ off < x.2.2 + x.2.1 / 64 * 8 + (if x.2.1 % 64 = 0 then 0 else 8) then
    some (.pba f ((off - x.2.2) / 4))
  else none

/-- An offset inside the span of an implemented block (Tables 17-1 and 17-2). -/
def inSpan (off : Nat) : Bool :=
  decide (off < 0x100000) ||
  (decide (off < 0x500000) && decide (off % 0x100000 < 0x10000)) ||
  (decide (0x500000 ≤ off) && decide (off < 0x510000 + 135 * 0x400)) ||
  (decide (0x600000 ≤ off) && decide (off < 0x610000)) ||
  (decide (0x800000 ≤ off) && decide (off < 0x950000))

/-! ### The checks (R425, R442, R450, R452, R453, R460, R466, R478) -/

/-- What the checks say of one 32-bit access: what it reaches, a read of 0 under version 2.x, silence, a failure of a kind,
or a mailbox of a domain that is down. -/
inductive Check
  | pass (t : Target)
  | zero
  | silent
  | fail (k : AccessKind)
  | domainDown
  deriving DecidableEq, Repr

/-- Whether a master reaches its own BAR, and not the map: PF1 and PF2 have no other; PF3 has one beside its alias. -/
def ownBar (m : Nat) (bar2 : Bool) : Bool := m == 5 || m == 6 || (m == 7 && bar2)

/-- The checks of one 32-bit access. -/
def Dev.checkAt (d : Dev) (m : Nat) (bar2 : Bool) (off : Nat) (write burst : Bool) : Check :=
  if d.preBootAbort m off then .silent
  else if ownBar m bar2 then (match ownTarget (m - 4) off with | some t => .pass t | none => .fail .reserved)
  else if write && m == 7 then .fail .pf3Write
  else match regOf off with
    | none => if !write && (d.hif m).1 == 2 && inSpan off then .zero else .fail .reserved
    | some (r, i, j) =>
      if d.unreachable off then .fail .unreachable
      else if !write && r.isPop && m == 7 then .fail .pf3RpRead
      else if !write && r.noBurst && burst then .fail .rpBurst
      else if write && (r == .MBX_H2F_DATA || r == .MBX_H2F_CTRL) then
        (if m ≠ pairMaster i then .fail .reserved else if !d.fwUp then .domainDown else .pass (.reg r i j))
      else if write && r == .MBX_F2H_CTRL && m != pairMaster i then .fail .reserved
      else .pass (.reg r i j)

/-- A write to a mailbox while the firmware domain is down (R442, R478). -/
def Dev.noDomain (d : Dev) (m off : Nat) : Dev :=
  let d1 := ((d.set0 .MBX_STATUS_DOMAIN_DOWN 1).count .MBX_DOMAIN_DOWN_ACCESSES 0).accessLast m 13 off
  (if m = 8 ∨ m - 4 ∈ d1.reg.aerAbort then d1
    else { d1 with reg := { d1.reg with aerAbort := (m - 4) :: d1.reg.aerAbort } }).complete .abort

/-- What an access that the checks turn away does. -/
def Dev.turnAway (d : Dev) (m off : Nat) (write : Bool) : Check → Dev
  | .silent => d.complete .abort
  | .fail k => d.abortAccess m k off write
  | .domainDown => d.noDomain m off
  | _ => d

/-- The checks let an access through. -/
def Check.lets : Check → Bool
  | .pass _ => true
  | .zero => true
  | _ => false

/-! ### One 32-bit access -/

/-- The word of a target as a master reads it, and the device after the read. -/
def Dev.readTarget (d : Dev) (m : Nat) : Target → Nat × Dev
  | .reg r i j => d.readReg m r i j
  | .doorbell ring => (d.f1 .DMA_RING_TAIL ring, d)
  | .vector f v w => (Map.get (if w = 3 then 1 else 0) d.host.msixTab (k2 f (4 * v + w)), d)
  | .pba f k => (flagsOf ((List.range 32).map (fun b => decide (Map.get 0 d.host.msixPba (k2 f (32 * k + b)) = 1))), d)

/-- A read that passed its check. -/
def Dev.readChecked (d : Dev) (m off : Nat) : Check → Nat × Dev
  | .pass t => d.readTarget m t
  | .zero => (0, d.accessLast m AccessKind.reserved.code off)
  | _ => (0, d)

/-- A write that passed its check; one to an isolated unit or region is ignored (R454). -/
def Dev.writeChecked (d : Dev) (m off w : Nat) (env : WriteEnv) : Check → Dev
  | .pass (.reg r i j) =>
    if d.isolatedAt off then d.ignoreAccess m .isolated off else (d.writeReg m r i j w env).complete (.ok 0)
  | .pass (.doorbell ring) => (d.ringTail ring w).complete (.ok 0)
  | .pass (.vector f v x) => (d.msixWrite f v x w).complete (.ok 0)
  | _ => d.complete (.ok 0)

/-! ### Wide accesses and bursts (R451, R452) -/

/-- The low half of a designated pair stands at an offset. -/
def Dev.designated (d : Dev) (m : Nat) (bar2 : Bool) (off : Nat) : Bool :=
  !ownBar m bar2 && off % 8 == 0 &&
    (regOf off).any (fun x => (d.pairAt x.1 x.2.1 x.2.2).isSome || x.1 == .TIM_FRC_LO)

/-- The high half of a 64-bit access fails after the low half took effect: KIND HIGH_HALF, with its own kind as the reason
of the violation. -/
def Dev.highHalf (d : Dev) (m off : Nat) (write : Bool) : Check → Dev
  | .fail k =>
    let d1 := ((d.accessLast m AccessKind.highHalf.code off).violation m k.code off).complete .abort
    if write ∧ 4 ≤ m ∧ m ≤ 7 ∧ !(m - 4 ∈ d1.reg.aerAbort)
    then { d1 with reg := { d1.reg with aerAbort := (m - 4) :: d1.reg.aerAbort } } else d1
  | c => d.turnAway m off write c

/-- The first address of a burst that fails its check. -/
def Dev.firstBad (d : Dev) (m : Nat) (bar2 : Bool) (off n : Nat) (write : Bool) : Option (Nat × Check) :=
  ((List.range n).map (fun k => (off + 4 * k, d.checkAt m bar2 (off + 4 * k) write true))).find? (fun x => !x.2.lets)

/-- A read by a master (R442, R451, R452): its completion stands in `reg.last`, the first word in the low bits. -/
def Dev.busRead (d : Dev) (m : Nat) (bar2 : Bool) (off : Nat) (form : BusForm) : Dev :=
  let one (d : Dev) (off : Nat) : Nat × Dev := d.readChecked m off (d.checkAt m bar2 off false false)
  let check (off : Nat) : Check := d.checkAt m bar2 off false false
  match form with
  | .odd => if d.preBootAbort m off then d.complete .abort else d.abortAccess m .byteEnables off false
  | .dword =>
    let c := check off
    if !c.lets then d.turnAway m off false c else let r := one d off; r.2.complete (.ok r.1)
  | .qword =>
    let c := check off
    if !c.lets then d.turnAway m off false c
    else
      let lo := one d off
      let hi := lo.2.checkAt m bar2 (off + 4) false false
      if !hi.lets then lo.2.highHalf m (off + 4) false hi
      else let r := one lo.2 (off + 4); r.2.complete (.ok (lo.1 + r.1 * 2 ^ 32))
  | .burst n =>
    match d.firstBad m bar2 off n false with
    | some x => d.turnAway m x.1 false x.2
    | none =>
      let r := (List.range n).foldl (fun (x : Nat × Dev) k =>
        let y := one x.2 (off + 4 * k); (x.1 + y.1 * 2 ^ (32 * k), y.2)) (0, d)
      r.2.complete (.ok r.1)

/-- A write by a master (R442, R451, R452). -/
def Dev.busWrite (d : Dev) (m : Nat) (bar2 : Bool) (off : Nat) (form : BusForm) (data : List Nat) (env : WriteEnv) : Dev :=
  let one (d : Dev) (off w : Nat) : Dev := d.writeChecked m off w env (d.checkAt m bar2 off true false)
  let check (off : Nat) : Check := d.checkAt m bar2 off true false
  match form with
  | .odd =>
    if d.preBootAbort m off then d.complete .abort
    else d.abortAccess m (if m == 7 && !bar2 then .pf3Write else .byteEnables) off true
  | .dword => if !(check off).lets then d.turnAway m off true (check off) else one d off (data.getD 0 0)
  | .qword =>
    if !(check off).lets then d.turnAway m off true (check off)
    else
      let lo := one d off (data.getD 0 0)
      let hi := lo.checkAt m bar2 (off + 4) true false
      if !hi.lets then lo.highHalf m (off + 4) true hi else one lo (off + 4) (data.getD 1 0)
  | .burst n =>
    match d.firstBad m bar2 off n true with
    | some x => d.turnAway m x.1 true x.2
    | none => (List.range n).foldl (fun d k => one d (off + 4 * k) (data.getD k 0)) d

/-! ### The commands -/

/-- REGISTER_READ (R442, R443, R450 to R452). -/
def execRegisterRead (m : Master) (bar2 : Bool) (off : Fin 16777216) (form : BusForm) (s : State) :
    Host.Outcome State Fault Refusal :=
  s.run fun d => d.busRead m bar2 off form

/-- REGISTER_WRITE (R442, R444 to R455). -/
def execRegisterWrite (m : Master) (bar2 : Bool) (off : Fin 16777216) (form : BusForm) (data : List (BitVec 32))
    (env : WriteEnv) (s : State) : Host.Outcome State Fault Refusal :=
  s.run fun d => d.busWrite m bar2 off form (data.map (·.toNat)) env

/-- COUNTER_LO_READ (R122, R451): a read of the LO register of a pair, alone or as the 64-bit snapshot; any other offset
has no such register. -/
def execCounterLoRead (m : Master) (off : Fin 16777216) (wide : Bool) (s : State) : Host.Outcome State Fault Refusal :=
  s.run fun d =>
    if d.designated m false off then d.busRead m false off (if wide then .qword else .dword) else d

/-- COUNTER_CLEAR (R503): a write of 1 to the clear bit of the control register at an offset, its other fields left as they
stand. -/
def execCounterClear (m : Master) (off : Fin 16777216) (s : State) : Host.Outcome State Fault Refusal :=
  s.run fun d =>
    match regOf off with
    | none => d
    | some (r, i, _) => if r.clearBit.isNone then d else d.gateWrite m off fun d => d.clearOf r i

/-- GLB_HIF_SELECT (R460). -/
def execGlbHifSelect (m : Master) (major minor : Fin 256) (s : State) : Host.Outcome State Fault Refusal :=
  s.run fun d => d.onWrite m .GLB_HIF_SELECT 0 0 fun d => d.hifSelect m (major * 256 + minor)

/-- GLB_FUSE_COMMIT (R461): a write of GO. -/
def execGlbFuseCommit (m : Master) (s : State) : Host.Outcome State Fault Refusal :=
  s.run fun d => d.onWrite m .GLB_FUSE_COMMIT 0 0 fun d => d.fuseCommit m 1

end Sys2Proof.Machine
end

