-- ==== Sys2Proof/Machine/Smbus.lean ====
section
/-! DEFINITION. The SMBus slave (R462, R463): master 8, with one register address. -/

namespace Sys2Proof.Machine

/-- The slave answers. -/
def Dev.smbUp (d : Dev) : Bool := d.boot.powered && !d.boot.inReset

/-- ADDR, and STATUS of the last access: 0 OK, 1 ABORT, 2 PEC_ERROR (Table 17-14). -/
def Dev.smbSet (d : Dev) (addr status : Nat) : Dev := { d with reg := { d.reg with smbAddr := addr, smbStatus := status } }

/-- A violation of Table 17-15; `reason` 16 is a PEC mismatch, 17 an undefined command code, 18 a wrong byte count (log 63). -/
def Dev.smbViolation (d : Dev) (reason : Nat) : Dev :=
  d.recordLimited .SMBUS_VIOLATION reason tSec 9 8 (payloadOf [(1, reason), (4, d.accessLastWord)])

/-- A refused transaction: not acknowledged, without effect, counted in REFUSED. -/
def Dev.smbRefuse (d : Dev) (reason : Nat) : Dev :=
  ((d.smbViolation reason).satInc .GLB_SMB_CNT_REFUSED 0 0 1).complete .abort

/-- A block write of 4 bytes: its count and its PEC are checked before it has an effect (Table 17-15). -/
def Dev.smbWrite4 (d : Dev) (count : Nat) (pecOk : Bool) (f : Dev → Dev) : Dev :=
  if !d.smbUp then d
  else if count ≠ 4 then d.smbRefuse 18
  else if !pecOk then
    (((d.smbSet d.reg.smbAddr 2).smbViolation 16).satInc .GLB_SMB_CNT_PEC_ERR 0 0 1).complete .abort
  else f d

/-- SMBUS_SET_ADDR: command 0x10. -/
def execSmbusSetAddr (count : Fin 256) (addr : BitVec 32) (pecOk : Bool) (s : State) : Host.Outcome State Fault Refusal :=
  s.run fun d => d.smbWrite4 count pecOk fun d => (d.smbSet addr.toNat d.reg.smbStatus).complete (.ok 0)

/-- The read of the register at ADDR; ADDR advances after one that ends with OK. -/
def Dev.smbRead (d : Dev) : Dev :=
  let d1 := d.busRead 8 false d.reg.smbAddr .dword
  if d1.reg.last = .abort then d1.smbSet d.reg.smbAddr 1 else d1.smbSet ((d.reg.smbAddr + 4) % 2 ^ 32) 0

/-- SMBUS_READ: command 0x11. -/
def execSmbusRead (s : State) : Host.Outcome State Fault Refusal :=
  s.run fun d => if d.smbUp then d.smbRead else d

/-- The write of the register at ADDR.  STATUS is ABORT where the access fails or is ignored (R442, R447, R449); a write to an
isolated unit completes (R454). -/
def Dev.smbWrite (d : Dev) (w : Nat) (env : WriteEnv) : Dev :=
  let old := (d.f0 .GLB_ACCESS_LAST_MASTER, d.f0 .GLB_ACCESS_LAST_KIND, d.f0 .GLB_ACCESS_LAST_OFFSET)
  let d1 := (d.accessLast 0 0 0).busWrite 8 false d.reg.smbAddr .dword [w] env
  let kind := d1.f0 .GLB_ACCESS_LAST_KIND
  let d2 := if kind = 0 then d1.accessLast old.1 old.2.1 old.2.2 else d1
  if d1.reg.last = .abort ∨ (kind ≠ 0 ∧ kind ≠ 5) then d2.smbSet d.reg.smbAddr 1
  else d2.smbSet ((d.reg.smbAddr + 4) % 2 ^ 32) 0

/-- SMBUS_WRITE: command 0x12. -/
def execSmbusWrite (count : Fin 256) (w : BitVec 32) (pecOk : Bool) (env : WriteEnv) (s : State) :
    Host.Outcome State Fault Refusal :=
  s.run fun d => d.smbWrite4 count pecOk fun d => d.smbWrite w.toNat env

/-- SMBUS_STATUS: command 0x13. -/
def execSmbusStatus (s : State) : Host.Outcome State Fault Refusal :=
  s.run fun d => if d.smbUp then d.complete (.ok d.reg.smbStatus) else d

/-- SMBUS_TIMEOUT (R463, R478, R481): the slave resets; its locks are released and the domain of pair 7 goes down. -/
def execSmbusTimeout (s : State) : Host.Outcome State Fault Refusal :=
  s.run fun d => if d.smbUp then ((d.smbSet 0 0).releaseLocks 8 1).senderDown [7] else d

/-- SMBUS_UNDEFINED_COMMAND (R463). -/
def execSmbusUndefinedCommand (s : State) : Host.Outcome State Fault Refusal :=
  s.run fun d => if d.smbUp then d.smbRefuse 17 else d

end Sys2Proof.Machine
end

