-- ==== Sys2Proof/Machine/Dispatch.lean ====
section
/-! DEFINITION. One arm per command: each a direct call of the command's meaning. -/

namespace Sys2Proof.Machine

def exec (i : Instr) (s : State) : Host.Outcome State Fault Refusal :=
  match i with
  | .flitReceive k b dir seq ack crcOk => Sys2Proof.Machine.execFlitReceive k b dir seq ack crcOk s
  | .nakReplay k b dir seq => Sys2Proof.Machine.execNakReplay k b dir seq s
  | .ackTimeoutReplay k b dir => Sys2Proof.Machine.execAckTimeoutReplay k b dir s
  | .bundleDiagnosisDone k b badOut badIn clears => Sys2Proof.Machine.execBundleDiagnosisDone k b badOut badIn clears s
  | .regionIsolate n cause => Sys2Proof.Machine.execRegionIsolate n cause s
  | .laneDieFailed n => Sys2Proof.Machine.execLaneDieFailed n s
  | .holdDieFailed die => Sys2Proof.Machine.execHoldDieFailed die s
  | .rootPllFirstLock lanePll pcieRef => Sys2Proof.Machine.execRootPllFirstLock lanePll pcieRef s
  | .rootClockLost ref => Sys2Proof.Machine.execRootClockLost ref s
  | .clkDivCoreHalf m half => Sys2Proof.Machine.execClkDivCoreHalf m half s
  | .coreClockRedivided => Sys2Proof.Machine.execCoreClockRedivided s
  | .frameReceive p bytes pcsErr fec sub rivals => Sys2Proof.Machine.execFrameReceive p bytes pcsErr fec sub rivals s
  | .frameParse id faults => Sys2Proof.Machine.execFrameParse id faults s
  | .frameLink id => Sys2Proof.Machine.execFrameLink id s
  | .schedulerPick p m rd => Sys2Proof.Machine.execSchedulerPick p m rd s
  | .frameTransmit p sub rd rivals => Sys2Proof.Machine.execFrameTransmit p sub rd rivals s
  | .bufLinkMemoryFailed mem => Sys2Proof.Machine.execBufLinkMemoryFailed mem s
  | .imgLoadSlot m slot host => Sys2Proof.Machine.execImgLoadSlot m slot host s
  | .imgMarkTrial m slot => Sys2Proof.Machine.execImgMarkTrial m slot s
  | .imgReload m mask fromHost slot host lost => Sys2Proof.Machine.execImgReload m mask fromHost slot host lost s
  | .regionReloadApply => Sys2Proof.Machine.execRegionReloadApply s
  | .regionReloadBringup ok restored => Sys2Proof.Machine.execRegionReloadBringup ok restored s
  | .imgAmend m host => Sys2Proof.Machine.execImgAmend m host s
  | .amendmentApply => Sys2Proof.Machine.execAmendmentApply s
  | .imgEraseSlot m slot => Sys2Proof.Machine.execImgEraseSlot m slot s
  | .imgVerifySlot m slot lost => Sys2Proof.Machine.execImgVerifySlot m slot lost s
  | .imgLoadAndCommit m host => Sys2Proof.Machine.execImgLoadAndCommit m host s
  | .imgBadCommand m op slot mask fromHost => Sys2Proof.Machine.execImgBadCommand m op slot mask fromHost s
  | .imageTrialTimeout => Sys2Proof.Machine.execImageTrialTimeout s
  | .sectionScrub bad => Sys2Proof.Machine.execSectionScrub bad s
  | .powerOnReset low => Sys2Proof.Machine.execPowerOnReset low s
  | .sysResetAssert ns => Sys2Proof.Machine.execSysResetAssert ns s
  | .clkRstCmdFull m key => Sys2Proof.Machine.execClkRstCmdFull m key s
  | .fullResetTakeHold => Sys2Proof.Machine.execFullResetTakeHold s
  | .sysResetRelease sel => Sys2Proof.Machine.execSysResetRelease sel s
  | .powerGoodReleaseTimer sel => Sys2Proof.Machine.execPowerGoodReleaseTimer sel s
  | .pfailAssert ns late => Sys2Proof.Machine.execPfailAssert ns late s
  | .powerFailFlushDone => Sys2Proof.Machine.execPowerFailFlushDone s
  | .pfailDeassert => Sys2Proof.Machine.execPfailDeassert s
  | .firmwareStart a b spi lost => Sys2Proof.Machine.execFirmwareStart a b spi lost s
  | .hostFwLoad m => Sys2Proof.Machine.execHostFwLoad m s
  | .hostFwLoadDone dma len version signed => Sys2Proof.Machine.execHostFwLoadDone dma len version signed s
  | .imageCommit => Sys2Proof.Machine.execImageCommit s
  | .springCheck ok mask => Sys2Proof.Machine.execSpringCheck ok mask s
  | .springLeft => Sys2Proof.Machine.execSpringLeft s
  | .springStalled => Sys2Proof.Machine.execSpringStalled s
  | .hostLostPerst => Sys2Proof.Machine.execHostLostPerst s
  | .hostLinkLost => Sys2Proof.Machine.execHostLinkLost s
  | .linkUp p => Sys2Proof.Machine.execLinkUp p s
  | .linkDown p cause rx => Sys2Proof.Machine.execLinkDown p cause rx s
  | .flapHoldoffEnd p => Sys2Proof.Machine.execFlapHoldoffEnd p s
  | .macPortEnWrite m p en => Sys2Proof.Machine.execMacPortEnWrite m p en s
  | .macUnitIsolated p => Sys2Proof.Machine.execMacUnitIsolated p s
  | .autonegComplete p full adv fec moves => Sys2Proof.Machine.execAutonegComplete p full adv fec moves s
  | .pauseStart p => Sys2Proof.Machine.execPauseStart p s
  | .pauseExpire p idx => Sys2Proof.Machine.execPauseExpire p idx s
  | .pauseStorm p c => Sys2Proof.Machine.execPauseStorm p c s
  | .pauseRecoveryEnd p c => Sys2Proof.Machine.execPauseRecoveryEnd p c s
  | .pfcRefresh p c => Sys2Proof.Machine.execPfcRefresh p c s
  | .lpiEnter p => Sys2Proof.Machine.execLpiEnter p s
  | .lpiWake p => Sys2Proof.Machine.execLpiWake p s
  | .macStatHalfClear m p idx => Sys2Proof.Machine.execMacStatHalfClear m p idx s
  | .counterLoRead m off wide => Sys2Proof.Machine.execCounterLoRead m off wide s
  | .counterClear m off => Sys2Proof.Machine.execCounterClear m off s
  | .shadowTurnStart c => Sys2Proof.Machine.execShadowTurnStart c s
  | .shadowTurnNow m c => Sys2Proof.Machine.execShadowTurnNow m c s
  | .shadowAdaptDone c => Sys2Proof.Machine.execShadowAdaptDone c s
  | .shadowAdaptTimeout c => Sys2Proof.Machine.execShadowAdaptTimeout c s
  | .shadowVerifyEnd c seen a own => Sys2Proof.Machine.execShadowVerifyEnd c seen a own s
  | .laneSwap c uncorrectable => Sys2Proof.Machine.execLaneSwap c uncorrectable s
  | .swapDeferExhausted c => Sys2Proof.Machine.execSwapDeferExhausted c s
  | .sliceFaultIsolate c faulty => Sys2Proof.Machine.execSliceFaultIsolate c faulty s
  | .shadowTakeoverLock c own => Sys2Proof.Machine.execShadowTakeoverLock c own s
  | .d2dWireRetrainStart k => Sys2Proof.Machine.execD2dWireRetrainStart k s
  | .d2dWireRetrainDone k ok => Sys2Proof.Machine.execD2dWireRetrainDone k ok s
  | .holdRetrainStart die => Sys2Proof.Machine.execHoldRetrainStart die s
  | .holdRetrainDone ok => Sys2Proof.Machine.execHoldRetrainDone ok s
  | .holdRetrainTimeout => Sys2Proof.Machine.execHoldRetrainTimeout s
  | .deferralListRebuild => Sys2Proof.Machine.execDeferralListRebuild s
  | .parseNodeRewrite n k => Sys2Proof.Machine.execParseNodeRewrite n k s
  | .prsClrLast m n => Sys2Proof.Machine.execPrsClrLast m n s
  | .learnInsert faults => Sys2Proof.Machine.execLearnInsert faults s
  | .relocationMove faults => Sys2Proof.Machine.execRelocationMove faults s
  | .relocationInvalidate => Sys2Proof.Machine.execRelocationInvalidate s
  | .ageingVisit faults => Sys2Proof.Machine.execAgeingVisit faults s
  | .tblReadRow n desc next faults => Sys2Proof.Machine.execTblReadRow n desc next faults s
  | .tblWriteRow n desc next => Sys2Proof.Machine.execTblWriteRow n desc next s
  | .tblInsert n desc next faults => Sys2Proof.Machine.execTblInsert n desc next faults s
  | .tblDelete n desc next faults => Sys2Proof.Machine.execTblDelete n desc next faults s
  | .tblLookup n desc next faults => Sys2Proof.Machine.execTblLookup n desc next faults s
  | .tblPrefixAdd n desc next faults => Sys2Proof.Machine.execTblPrefixAdd n desc next faults s
  | .tblPrefixDel n desc next faults => Sys2Proof.Machine.execTblPrefixDel n desc next faults s
  | .tblPrefixGet n desc next faults => Sys2Proof.Machine.execTblPrefixGet n desc next faults s
  | .tblFlush n desc next => Sys2Proof.Machine.execTblFlush n desc next s
  | .tblBadDescriptor n desc next => Sys2Proof.Machine.execTblBadDescriptor n desc next s
  | .tblRingRestart m n => Sys2Proof.Machine.execTblRingRestart m n s
  | .trieOldNodesFree => Sys2Proof.Machine.execTrieOldNodesFree s
  | .trieNodeRebuilt v6 bits path => Sys2Proof.Machine.execTrieNodeRebuilt v6 bits path s
  | .lookupEngineSpared n frames => Sys2Proof.Machine.execLookupEngineSpared n frames s
  | .tcmReadEntry n desc next => Sys2Proof.Machine.execTcmReadEntry n desc next s
  | .tcmWriteEntry n desc next => Sys2Proof.Machine.execTcmWriteEntry n desc next s
  | .tcmInsertAt n desc next => Sys2Proof.Machine.execTcmInsertAt n desc next s
  | .tcmDeleteAt n desc next => Sys2Proof.Machine.execTcmDeleteAt n desc next s
  | .tcmLookup n desc next => Sys2Proof.Machine.execTcmLookup n desc next s
  | .tcmClearPartition n desc next => Sys2Proof.Machine.execTcmClearPartition n desc next s
  | .tcmBadDescriptor n desc next => Sys2Proof.Machine.execTcmBadDescriptor n desc next s
  | .tcmRingRestart m n => Sys2Proof.Machine.execTcmRingRestart m n s
  | .tcmMoveStep => Sys2Proof.Machine.execTcmMoveStep s
  | .tcmMoveInvalidate => Sys2Proof.Machine.execTcmMoveInvalidate s
  | .tcamScanRow row kind pass => Sys2Proof.Machine.execTcamScanRow row kind pass s
  | .automataScan n corrected bad faults => Sys2Proof.Machine.execAutomataScan n corrected bad faults s
  | .autStateRewrite n w => Sys2Proof.Machine.execAutStateRewrite n w s
  | .streamFlowIdle row => Sys2Proof.Machine.execStreamFlowIdle row s
  | .autEngineSpared n e frames => Sys2Proof.Machine.execAutEngineSpared n e frames s
  | .captureRecordWrite fail => Sys2Proof.Machine.execCaptureRecordWrite fail s
  | .bufArrivalReserveWrite m v => Sys2Proof.Machine.execBufArrivalReserveWrite m v s
  | .flapTimerExpire p => Sys2Proof.Machine.execFlapTimerExpire p s
  | .fabricDestFlapExpire a => Sys2Proof.Machine.execFabricDestFlapExpire a s
  | .holdWrite rd => Sys2Proof.Machine.execHoldWrite rd s
  | .holdRowWrite => Sys2Proof.Machine.execHoldRowWrite s
  | .holdDrain h reads badFree => Sys2Proof.Machine.execHoldDrain h reads badFree s
  | .freeRingRefill => Sys2Proof.Machine.execFreeRingRefill s
  | .freeRingSpill => Sys2Proof.Machine.execFreeRingSpill s
  | .holdMount okA okB calA calB => Sys2Proof.Machine.execHoldMount okA okB calA calB s
  | .freeSweep => Sys2Proof.Machine.execFreeSweep s
  | .hldSweepCmd m => Sys2Proof.Machine.execHldSweepCmd m s
  | .holdScrub corr bad err => Sys2Proof.Machine.execHoldScrub corr bad err s
  | .gapMove z => Sys2Proof.Machine.execGapMove z s
  | .zoneSwap pairs => Sys2Proof.Machine.execZoneSwap pairs s
  | .wearCounterSave => Sys2Proof.Machine.execWearCounterSave s
  | .hldFormat m key cap => Sys2Proof.Machine.execHldFormat m key cap s
  | .hldFormatDone => Sys2Proof.Machine.execHldFormatDone s
  | .timAdjSet m => Sys2Proof.Machine.execTimAdjSet m s
  | .timAdjStep m => Sys2Proof.Machine.execTimAdjStep m s
  | .timAdjRate m => Sys2Proof.Machine.execTimAdjRate m s
  | .timAdjStepRate m => Sys2Proof.Machine.execTimAdjStepRate m s
  | .epochSwitch => Sys2Proof.Machine.execEpochSwitch s
  | .timeBusFullValue n ok => Sys2Proof.Machine.execTimeBusFullValue n ok s
  | .txtsPop m g => Sys2Proof.Machine.execTxtsPop m g s
  | .timConv m epoch sub => Sys2Proof.Machine.execTimConv m epoch sub s
  | .pulseArm m k mode lockedOnly sub => Sys2Proof.Machine.execPulseArm m k mode lockedOnly sub s
  | .pulseEdge k => Sys2Proof.Machine.execPulseEdge k s
  | .pulseFall k => Sys2Proof.Machine.execPulseFall k s
  | .captureInputEdge idx rising sub => Sys2Proof.Machine.execCaptureInputEdge idx rising sub s
  | .capPop m idx => Sys2Proof.Machine.execCapPop m idx s
  | .capFlush m idx => Sys2Proof.Machine.execCapFlush m idx s
  | .ptpRxFirmware p msg => Sys2Proof.Machine.execPtpRxFirmware p msg s
  | .ptpServoUpdate off rate locked => Sys2Proof.Machine.execPtpServoUpdate off rate locked s
  | .gmLost => Sys2Proof.Machine.execGmLost s
  | .acceptJump m => Sys2Proof.Machine.execAcceptJump m s
  | .clockModeWrite m mode => Sys2Proof.Machine.execClockModeWrite m mode s
  | .ptpIsolateEnd p => Sys2Proof.Machine.execPtpIsolateEnd p s
  | .fabHelloSend p => Sys2Proof.Machine.execFabHelloSend p s
  | .fabHelloReceive p h => Sys2Proof.Machine.execFabHelloReceive p h s
  | .fabDeadTime p => Sys2Proof.Machine.execFabDeadTime p s
  | .fabRefusedEnd p => Sys2Proof.Machine.execFabRefusedEnd p s
  | .fabLsaOriginate => Sys2Proof.Machine.execFabLsaOriginate s
  | .fabLsaReceive p r => Sys2Proof.Machine.execFabLsaReceive p r s
  | .fabLsaAckReceive p factory seq => Sys2Proof.Machine.execFabLsaAckReceive p factory seq s
  | .fabLsaRetransmit p => Sys2Proof.Machine.execFabLsaRetransmit p s
  | .fabLsaExpire => Sys2Proof.Machine.execFabLsaExpire s
  | .fabRouteCompute us => Sys2Proof.Machine.execFabRouteCompute us s
  | .fabDataReceive id => Sys2Proof.Machine.execFabDataReceive id s
  | .fabMcCopyReceive id => Sys2Proof.Machine.execFabMcCopyReceive id s
  | .fabAddressElect => Sys2Proof.Machine.execFabAddressElect s
  | .fabNoticeReceive p formOk tagOk origin health cause factory => Sys2Proof.Machine.execFabNoticeReceive p formOk tagOk origin health cause factory s
  | .fabRouteParity a => Sys2Proof.Machine.execFabRouteParity a s
  | .pairHeartbeatSend p => Sys2Proof.Machine.execPairHeartbeatSend p s
  | .pairHeartbeatReceive p m => Sys2Proof.Machine.execPairHeartbeatReceive p m s
  | .pairHbLost => Sys2Proof.Machine.execPairHbLost s
  | .pairRenewSend => Sys2Proof.Machine.execPairRenewSend s
  | .pairRenewAckReceive p m => Sys2Proof.Machine.execPairRenewAckReceive p m s
  | .pairRenewDeadline => Sys2Proof.Machine.execPairRenewDeadline s
  | .leaseTimerExpire => Sys2Proof.Machine.execLeaseTimerExpire s
  | .leaseInterlock a b => Sys2Proof.Machine.execLeaseInterlock a b s
  | .leasePinMismatch => Sys2Proof.Machine.execLeasePinMismatch s
  | .pairClaim => Sys2Proof.Machine.execPairClaim s
  | .pairClaimTimeout => Sys2Proof.Machine.execPairClaimTimeout s
  | .pairGrantReceive p m => Sys2Proof.Machine.execPairGrantReceive p m s
  | .pairRefuseReceive p m => Sys2Proof.Machine.execPairRefuseReceive p m s
  | .witnessRenew p m => Sys2Proof.Machine.execWitnessRenew p m s
  | .witnessClaim p m => Sys2Proof.Machine.execWitnessClaim p m s
  | .witnessClaimGrant a b => Sys2Proof.Machine.execWitnessClaimGrant a b s
  | .witnessRelease p m => Sys2Proof.Machine.execWitnessRelease p m s
  | .pairRelease m => Sys2Proof.Machine.execPairRelease m s
  | .pairReleaseReceive p m => Sys2Proof.Machine.execPairReleaseReceive p m s
  | .pairHoldOff m => Sys2Proof.Machine.execPairHoldOff m s
  | .pairAllowClaims m => Sys2Proof.Machine.execPairAllowClaims m s
  | .pairDigestSend => Sys2Proof.Machine.execPairDigestSend s
  | .pairDigestReceive p m w n entries => Sys2Proof.Machine.execPairDigestReceive p m w n entries s
  | .pairCompareStage q own partner decisions partnerFault rows => Sys2Proof.Machine.execPairCompareStage q own partner decisions partnerFault rows s
  | .pairSampleReceive p m q len w aut bytes => Sys2Proof.Machine.execPairSampleReceive p m q len w aut bytes s
  | .pairResync rows => Sys2Proof.Machine.execPairResync rows s
  | .pairResyncDone => Sys2Proof.Machine.execPairResyncDone s
  | .pairSyncRecord p m rec_ => Sys2Proof.Machine.execPairSyncRecord p m rec_ s
  | .winterSequenceDone => Sys2Proof.Machine.execWinterSequenceDone s
  | .hltCauseClear m w => Sys2Proof.Machine.execHltCauseClear m w s
  | .winterExit m spi lost => Sys2Proof.Machine.execWinterExit m spi lost s
  | .winterReq m key req => Sys2Proof.Machine.execWinterReq m key req s
  | .watchdogExpired core => Sys2Proof.Machine.execWatchdogExpired core s
  | .monSample x => Sys2Proof.Machine.execMonSample x s
  | .thermtrip x => Sys2Proof.Machine.execThermtrip x s
  | .avsUpdate => Sys2Proof.Machine.execAvsUpdate s
  | .avsStep written vout => Sys2Proof.Machine.execAvsStep written vout s
  | .cfgScrub bad => Sys2Proof.Machine.execCfgScrub bad s
  | .calRegisterWrite m off w => Sys2Proof.Machine.execCalRegisterWrite m off w s
  | .calSave m => Sys2Proof.Machine.execCalSave m s
  | .calClearUser m => Sys2Proof.Machine.execCalClearUser m s
  | .calClearSaved m key => Sys2Proof.Machine.execCalClearSaved m key s
  | .hostLinkUp speed width flit => Sys2Proof.Machine.execHostLinkUp speed width flit s
  | .hostFlr f => Sys2Proof.Machine.execHostFlr f s
  | .pcieD3hotEnter f => Sys2Proof.Machine.execPcieD3hotEnter f s
  | .pcieD0Return f => Sys2Proof.Machine.execPcieD0Return f s
  | .intPendClear m idx v => Sys2Proof.Machine.execIntPendClear m idx v s
  | .intMaskWrite m idx v => Sys2Proof.Machine.execIntMaskWrite m idx v s
  | .ringDoorbell r tail => Sys2Proof.Machine.execRingDoorbell r tail s
  | .ringEnable m r enable vector => Sys2Proof.Machine.execRingEnable m r enable vector s
  | .ringRestart m r => Sys2Proof.Machine.execRingRestart m r s
  | .pf1TxFrame r descs rivals => Sys2Proof.Machine.execPf1TxFrame r descs rivals s
  | .pf1RxDeliver descs rd => Sys2Proof.Machine.execPf1RxDeliver descs rd s
  | .pf2Read q desc fill reads => Sys2Proof.Machine.execPf2Read q desc fill reads s
  | .msixModerationTimer r => Sys2Proof.Machine.execMsixModerationTimer r s
  | .hostDmaError r status => Sys2Proof.Machine.execHostDmaError r status s
  | .hostPoisonedWrite f off => Sys2Proof.Machine.execHostPoisonedWrite f off s
  | .registerWrite m bar2 off form data env => Sys2Proof.Machine.execRegisterWrite m bar2 off form data env s
  | .indAddrWrite m n w => Sys2Proof.Machine.execIndAddrWrite m n w s
  | .indFetchDone m n => Sys2Proof.Machine.execIndFetchDone m n s
  | .indDataReadAdvance m n => Sys2Proof.Machine.execIndDataReadAdvance m n s
  | .indCmdGo m n count => Sys2Proof.Machine.execIndCmdGo m n count s
  | .indWriteDone m n => Sys2Proof.Machine.execIndWriteDone m n s
  | .glbHifSelect m major minor => Sys2Proof.Machine.execGlbHifSelect m major minor s
  | .glbFuseCommit m => Sys2Proof.Machine.execGlbFuseCommit m s
  | .smbusSetAddr count addr pecOk => Sys2Proof.Machine.execSmbusSetAddr count addr pecOk s
  | .smbusRead => Sys2Proof.Machine.execSmbusRead s
  | .smbusWrite count w pecOk env => Sys2Proof.Machine.execSmbusWrite count w pecOk env s
  | .smbusStatus => Sys2Proof.Machine.execSmbusStatus s
  | .smbusTimeout => Sys2Proof.Machine.execSmbusTimeout s
  | .lockAcquireRead m idx => Sys2Proof.Machine.execLockAcquireRead m idx s
  | .lockReleaseWrite m idx v => Sys2Proof.Machine.execLockReleaseWrite m idx v s
  | .mbxH2fPost m pair => Sys2Proof.Machine.execMbxH2fPost m pair s
  | .mbxH2fTake pair => Sys2Proof.Machine.execMbxH2fTake pair s
  | .mbxF2hDeliver pair => Sys2Proof.Machine.execMbxF2hDeliver pair s
  | .mbxF2hAck m pair => Sys2Proof.Machine.execMbxF2hAck m pair s
  | .mbxGetInfo pair => Sys2Proof.Machine.execMbxGetInfo pair s
  | .mbxEcho pair => Sys2Proof.Machine.execMbxEcho pair s
  | .mbxEvrFlush pair => Sys2Proof.Machine.execMbxEvrFlush pair s
  | .mbxChallenge pair => Sys2Proof.Machine.execMbxChallenge pair s
  | .mbxEvrClear pair => Sys2Proof.Machine.execMbxEvrClear pair s
  | .mbxGetIdKey pair => Sys2Proof.Machine.execMbxGetIdKey pair s
  | .mbxAttest pair => Sys2Proof.Machine.execMbxAttest pair s
  | .mbxFuseOwnerKey pair readback => Sys2Proof.Machine.execMbxFuseOwnerKey pair readback s
  | .mbxWitnessReply => Sys2Proof.Machine.execMbxWitnessReply s
  | .challengeExpire m purpose => Sys2Proof.Machine.execChallengeExpire m purpose s
  | .credHoldoffEnd => Sys2Proof.Machine.execCredHoldoffEnd s
  | .doorbellEvrFlush => Sys2Proof.Machine.execDoorbellEvrFlush s
  | .doorbellHostAlive => Sys2Proof.Machine.execDoorbellHostAlive s
  | .evrFlushTimer => Sys2Proof.Machine.execEvrFlushTimer s
  | .evrCtrlFlush m => Sys2Proof.Machine.execEvrCtrlFlush m s
  | .evrFlushErrorTrigger => Sys2Proof.Machine.execEvrFlushErrorTrigger s
  | .evrFlushDone bad => Sys2Proof.Machine.execEvrFlushDone bad s
  | .evrFreeze m => Sys2Proof.Machine.execEvrFreeze m s
  | .evrThaw m => Sys2Proof.Machine.execEvrThaw m s
  | .evrFreezeAutoRelease => Sys2Proof.Machine.execEvrFreezeAutoRelease s
  | .evrEraseDone => Sys2Proof.Machine.execEvrEraseDone s
  | .evrUnanchored => Sys2Proof.Machine.execEvrUnanchored s
  | .evrStageSeqWrite m seq => Sys2Proof.Machine.execEvrStageSeqWrite m seq s
  | .evrStageRelease m seq => Sys2Proof.Machine.execEvrStageRelease m seq s
  | .pmcStartAll m => Sys2Proof.Machine.execPmcStartAll m s
  | .pmcStopAll m => Sys2Proof.Machine.execPmcStopAll m s
  | .pmcClrAll m => Sys2Proof.Machine.execPmcClrAll m s
  | .pmcSnap m => Sys2Proof.Machine.execPmcSnap m s
  | .pmcMonitorClr m n en => Sys2Proof.Machine.execPmcMonitorClr m n en s
  | .pmcSelWrite m n c chain qual ev => Sys2Proof.Machine.execPmcSelWrite m n c chain qual ev s
  | .pmcBwWindowEnd => Sys2Proof.Machine.execPmcBwWindowEnd s
  | .pmcBwWindowWrite m us => Sys2Proof.Machine.execPmcBwWindowWrite m us s
  | .pmcBwClrPeak m => Sys2Proof.Machine.execPmcBwClrPeak m s
  | .jtagInstruction scan => Sys2Proof.Machine.execJtagInstruction scan s
  | .fatalDieFault mgmt => Sys2Proof.Machine.execFatalDieFault mgmt s
  | .powerLost => Sys2Proof.Machine.execPowerLost s
  | .internalResetRelease sel => Sys2Proof.Machine.execInternalResetRelease sel s
  | .bootStartAfterPfail => Sys2Proof.Machine.execBootStartAfterPfail s
  | .rxLpiChange l on => Sys2Proof.Machine.execRxLpiChange l on s
  | .pairDigestTimeout w n => Sys2Proof.Machine.execPairDigestTimeout w n s
  | .pairLinkIsolateEnd p => Sys2Proof.Machine.execPairLinkIsolateEnd p s
  | .coreRestartDone core => Sys2Proof.Machine.execCoreRestartDone core s
  | .mbxUnknownOpcode pair => Sys2Proof.Machine.execMbxUnknownOpcode pair s
  | .smbusUndefinedCommand => Sys2Proof.Machine.execSmbusUndefinedCommand s
  | .timAdjRefused m op => Sys2Proof.Machine.execTimAdjRefused m op s
  | .registerRead m bar2 off form => Sys2Proof.Machine.execRegisterRead m bar2 off form s
  | .lldpReceive p tlv => Sys2Proof.Machine.execLldpReceive p tlv s
  | .ptpMessageSend p type twoStep req => Sys2Proof.Machine.execPtpMessageSend p type twoStep req s

end Sys2Proof.Machine
end

