-- ==== Sys2Proof/Machine/Tick.lean ====
section
/-! DEFINITION. What one tick of CLK_REG, 2.5 ns, does by itself (log 4): the FRC counts, START is recorded at its time, and
the performance monitors count cycles and levels. -/

namespace Sys2Proof.Machine

/-- Some drain waits for cells alone (R258). -/
def Dev.drainWaits (d : Dev) : Bool :=
  d.hld.queues.any (fun q =>
    match q.2.frames with
    | [] => false
    | f :: _ => q.2.active && d.holdRuns && d.forwards && q.2.chain.isEmpty && (d.drainPort q.1 f).isSome &&
        decide (d.freeCells < cellsFor f.bytes.length))

/-- Front ports with a pause request of class `t` asserted. -/
def Dev.xoffPorts (d : Dev) (t : Nat) : Nat :=
  (List.range 128).countP (fun p => bitOf (d.f1 .QUE_PORT_STATUS_PFC_XOFF p) t)

/-- The level events of monitor `m` in one cycle: event, QUAL, value (Table 20-3). -/
def Dev.levels (d : Dev) (m : Nat) : List (Nat × Nat × Nat) :=
  if m < 4 then [(0x001, 0xFF, 1), (0x120, 0xFF, (d.inspectQ m).length)]
  else if m = 4 then
    (0x001, 0xFF, 1) :: (0x203, 0xFF, d.cellsUsed / 4096) :: (List.range 8).map (fun t => (0x207, t, d.xoffPorts t))
  else
    [(0x001, 0xFF, 1), (0x302, 0xFF, b2n d.hld.retrain.isSome), (0x306, 0xFF, b2n d.drainWaits),
      (0x307, 0xFF, d.rowBuffers)]

/-- One monitor counts a tick's cycles (R506).  In WINTER the frozen buffer and hold store have no level of their own
(R280, R316, R509). -/
def Dev.monitorTick (d : Dev) (m : Nat) : Dev :=
  if d.f1 .PMC_CTL_EN m = 0 then d
  else
    let n := d.coreCycles
    let d1 := { d with pmc := { d.pmc with cyc := Map.set 0 d.pmc.cyc m ((Map.get 0 d.pmc.cyc m + n) % 2 ^ 64) } }
    let ls := if d.winter ∧ 4 ≤ m then [(0x001, 0xFF, 1)] else d.levels m
    ls.foldl (fun (d : Dev) x => d.perf m x.1 x.2.1 (x.2.2 * n)) d1

/-- The reserved area is mounted, and the links that have not failed are up. -/
def Dev.areaMount (d : Dev) : Dev :=
  let d1 := (List.range 7).foldl (fun d k => if d.linkFailed k then d else d.set1 .HLT_D2D_STATUS_STATE k 2)
    { d with boot := { d.boot with areaMounted := true, mountAt := none } }
  if d1.boot.fwRuns then d1
  else { d1 with pins := { d1.pins with spiCs := decide (d1.f0 .CLK_BOOT_STATUS_STRAP = 1) && !d1.boot.waitFw } }.set0
    .CLK_BOOT_STATUS_PHASE 2

/-- What start-up does at its times (Table 3-6): the fuses have been read and START is recorded; the reserved area is
mounted and the links are up, SPI_CS_N low from then while firmware comes from SPI (Table 3-4); a host load has read its
buffer (PHASE of Table 3-10). -/
def Dev.startTick (d : Dev) : Dev :=
  let d1 := if d.boot.romRuns ∧ d.boot.startAt = some d.now then
      ({ d with boot := { d.boot with startAt := none } }.set0 .CLK_BOOT_STATUS_PHASE 1).record .START 0 0
        (payloadOf [(4, d.storedWord .CLK_RST_CAUSE 0 0), (1, d.f0 .CLK_BOOT_STATUS_STRAP), (4, d.f0 .CLK_POWER_CYCLES)])
    else d
  let d2 := if d1.boot.romRuns ∧ d1.boot.mountAt = some d1.now then d1.areaMount else d1
  if d2.b0 .CLK_BOOT_FW_CMD_BUSY ∧ d2.boot.fwReadAt = some d2.now then d2.set0 .CLK_BOOT_STATUS_PHASE 3 else d2

/-- The FRC counts, unless the root has not locked or is lost, or the internal reset holds it at 0 (R320, R37). -/
def Dev.frcTick (d : Dev) : Dev :=
  if d.tim.stopped ∨ d.boot.inReset ∨ !d.b0 .CLK_STATUS_ROOT_LOCK then d
  else { d with tim := { d.tim with frc := (d.tim.frc + 1) % 2 ^ 64 } }

/-- One tick; without power nothing advances. -/
def Dev.tick (d : Dev) : Dev :=
  if !d.boot.powered then d
  else
    let d1 := ({ d with now := d.now + 1 }).frcTick.startTick
    let d2 := { d1 with buf := { d1.buf with rotation := (d1.buf.rotation + d1.coreCycles) % 7 } }
    if d2.boot.inReset then d2 else monitors.foldl Dev.monitorTick d2

end Sys2Proof.Machine
end

