-- ==== Sys2Proof/Machine/Step.lean ====
section
/-! DEFINITION. One step of the block: the command at the front of the queue, or one CLK_REG tick where none waits. -/

namespace Sys2Proof.Machine

/-- One tick of CLK_REG, 2.5 ns: the model's time and the FRC advance, and the monitors' cycle counters count the
edges of CLK_CORE (R320, R506, log 4). -/
def State.tick (s : State) : State := { s with dev := s.dev.tick }

/-- The command at the front of the queue acts on the device with the queue's rest; an empty queue passes one tick. -/
def step (s : State) : Host.Outcome State Fault Refusal :=
  match s.pending with
  | [] => .next s.tick
  | c :: rest => exec c { s with pending := rest }

/-- The command that a word spells, put at the front of the queue. -/
def State.withFetchWord (s : State) (nbits w : Nat) : State :=
  match decodeTableWord nbits w with
  | some c => { s with pending := c :: s.pending }
  | none => s

end Sys2Proof.Machine
end

