-- ==== Sys2Proof/Safety.lean ====
section
/-! DEFINITION. What counts as a safe run, and the vocabulary of the statements: which accesses get through the checks of the
register bus, and what it means that a command completes. -/

namespace Sys2Proof.Machine

/-- A step is safe when it answers a next state: neither a fault nor a refusal. -/
def SafeStep (s : State) : Prop := ∃ t, step s = .next t

/-- A command completes: it answers a next state with the queue as it was, and what `P` says holds of the device then. -/
def Completes (c : Instr) (s : State) (P : Dev → Prop) : Prop :=
  ∃ t, exec c s = .next t ∧ t.pending = s.pending ∧ P t.dev

/-- An access of master `m` to the register at `off` passes every check of the bus (R442, R453, R454, R83), and a write is not
PF3's (R425). -/
def Dev.Open (d : Dev) (m off : Nat) : Prop :=
  m ≠ 7 ∧ d.preBootAbort m off = false ∧ d.unreachable off = false ∧ d.isolatedAt off = false

/-- The state with another device. -/
def State.on (s : State) (d : Dev) : State := { s with dev := d }

/-- A pair's front request, alone and with nothing queued for its reply, of a version that has its opcode, and the firmware
up. -/
def Dev.asks (d : Dev) (k op : Nat) (x : Msg) : Prop :=
  d.fwUp = true ∧ k ≠ 6 ∧ Map.get [] d.mbx.requests k = [x] ∧ Map.get [] d.mbx.queue k = [] ∧ d.mbx.flushReply = [] ∧
    d.mbx.eraseReply = none ∧ x.opcode = op ∧
    ((opcodeRow op).map (·.1)).getD 1 ≤ x.version

/-- The one-part reply to a request, in the lower of its version and 3. -/
def Msg.answer (x : Msg) (status : Nat) (payload : List Nat) : Msg :=
  ⟨(replyVersion x * 2 ^ 24 + x.opcode * 2 ^ 12 + x.seq) :: word1 status (b2n x.stale) 0 0 0 payload.length :: payload, x.stale⟩

/-- A pair message of a kind arrives whole on port `p`: on a pair link below its limit, or over the fabric (R368, R391, R393). -/
def Dev.hears (d : Dev) (p kind : Nat) (m : PairMsg) : Prop :=
  d.boot.fwRuns = true ∧ d.linkUp p = true ∧ d.winter = false ∧ m.formOk = true ∧ m.tagOk = true ∧
    ((p ∈ d.pairPorts ∧ (d.pairLink p).isolatedUntil = none ∧ Map.get 0 (d.pairLink p).msgs kind < 5000) ∨
      (p ∉ d.pairPorts ∧ d.fabPort p = true))

/-- The message comes from this member's partner. -/
def Dev.fromPartner (d : Dev) (m : PairMsg) : Prop := d.paired = true ∧ m.sender = d.partnerAddr

/-- A frame of the device's own waits for port `p` or is being sent there, with this protocol, type and fields. -/
def Dev.hasOwn (d : Dev) (p proto type : Nat) (fields : List Nat) : Prop :=
  ∃ x ∈ d.ownFrames p, x.proto = proto ∧ x.type = type ∧ x.fields = fields

/-- A counter has counted `n` more, modulo 2^64. -/
def Dev.counted (d t : Dev) (c : Ctr) (i n : Nat) : Prop := t.ctr c i = (d.ctr c i + n) % 2 ^ 64

/-- The registers and counters stand in their one form: keys strictly rising, no counter listed at 0, and none beyond 64 bits. -/
def Canonical (flds ctrs : Map Nat) : Prop :=
  Map.sorted flds = true ∧ Map.wf (fun _ => 0) ctrs = true ∧ ∀ x ∈ ctrs, x.2 < 2 ^ 64

end Sys2Proof.Machine
end

