-- ==== Sys2Proof/Certificates/Slice0/Obligations.lean ====
section
/-! DEFINITION. The statements for the provers: what each command of the device does, with the rules it formalises, what a step
is, what reset leaves and what every step keeps. -/

section Statements

open Sys2Proof Sys2Proof.Machine

/-- PMC_START_ALL, PMC_STOP_ALL, PMC_CLR_ALL and PMC_SNAP act on all six monitors at once (R508); PMC_MONITOR_CLR clears one
(R506).  Nothing else of the device changes but the bus's completion.
PMC_SEL_WRITE (R507, R509) takes a defined event and a QUAL in its range, and ignores CHAIN at counter 0 as a whole;
PMC_BW_WINDOW_END (R510) closes a window; PMC_BW_WINDOW_WRITE (R511) and PMC_BW_CLR_PEAK (R511) act as their bits say. -/
def Obligations.PerformanceMonitors : Prop :=
  (∀ (m : Master) (s : State), s.dev.Open m (Reg.PMC_CTRL.addr 0 0) →
    exec (.pmcStartAll m) s = .next (s.on
      (([0, 1, 2, 3, 4, 5].foldl (fun (d : Dev) k => d.set1 .PMC_CTL_EN k 1) s.dev).complete (.ok 0)))) ∧
  (∀ (m : Master) (s : State), s.dev.Open m (Reg.PMC_CTRL.addr 0 0) →
    exec (.pmcStopAll m) s = .next (s.on
      (([0, 1, 2, 3, 4, 5].foldl (fun (d : Dev) k => d.set1 .PMC_CTL_EN k 0) s.dev).complete (.ok 0)))) ∧
  (∀ (m : Master) (s : State), s.dev.Open m (Reg.PMC_CTRL.addr 0 0) →
    Completes (.pmcClrAll m) s fun t => t.reg.last = .ok 0 ∧ t.pmc.snap = s.dev.pmc.snap ∧ ∀ k < 6,
      t.f1 .PMC_OVF k = 0 ∧ Map.get 0 t.pmc.cyc k = 0 ∧ ∀ n, Map.get 0 t.pmc.cnt (k2 k n) = 0) ∧
  (∀ (m : Master) (s : State), s.dev.Open m (Reg.PMC_CTRL.addr 0 0) →
    exec (.pmcSnap m) s = .next (s.on (({ s.dev with
      pmc := { s.dev.pmc with snapCyc := s.dev.pmc.cyc, snap := s.dev.pmc.cnt } } : Dev).complete (.ok 0)))) ∧
  (∀ (m : Master) (k : Fin 6) (en : Bool) (s : State), s.dev.Open m (Reg.PMC_CTL.addr k 0) →
    Completes (.pmcMonitorClr m k en) s fun t => t.reg.last = .ok 0 ∧
      t.f1 .PMC_CTL_EN k = b2n en ∧ t.f1 .PMC_OVF k = 0 ∧ Map.get 0 t.pmc.cyc k = 0 ∧
      (∀ n, Map.get 0 t.pmc.cnt (k2 k n) = 0) ∧
      ∀ j n, j ≠ k.val → Map.get 0 t.pmc.cnt (k2 j n) = Map.get 0 s.dev.pmc.cnt (k2 j n)) ∧
  (∀ (m : Master) (k : Fin 6) (c : Fin 8) (chain : Bool) (qual : Fin 256) (ev : Fin 1024) (qs : List Nat) (s : State),
    s.dev.Open m (Reg.PMC_SEL.addr k c) → ¬(chain = true ∧ c.val = 0) → perfQuals k ev = some qs →
    (qual.val = 0xFF ∨ qual.val ∈ qs) →
    exec (.pmcSelWrite m k c chain qual ev) s = .next (s.on
      ((((s.dev.setFld .PMC_SEL_CHAIN k c (b2n chain)).setFld .PMC_SEL_QUAL k c qual).setFld .PMC_SEL_EVENT k c
        ev).complete (.ok 0)))) ∧
  (∀ (m : Master) (k : Fin 6) (qual : Fin 256) (ev : Fin 1024) (s : State), s.dev.Open m (Reg.PMC_SEL.addr k 0) →
    exec (.pmcSelWrite m k 0 true qual ev) s = .next (s.on (s.dev.complete (.ok 0)))) ∧
  (∀ s : State, s.dev.pmc.windowStart + s.dev.f0 .PMC_BW_WINDOW * tUs ≤ s.dev.now →
    Completes .pmcBwWindowEnd s fun t =>
      t.pmc.windowStart = s.dev.now ∧ t.pmc.rxBytes = [] ∧ t.pmc.txBytes = [] ∧
      t.f0 .PMC_BW_SEQ = (s.dev.f0 .PMC_BW_SEQ + 1) % 2 ^ 32) ∧
  (∀ (m : Master) (us : BitVec 32) (s : State), s.dev.Open m (Reg.PMC_BW_WINDOW.addr 0 0) →
    1 ≤ us.toNat → us.toNat ≤ 10000000 →
    Completes (.pmcBwWindowWrite m us) s fun t => t.reg.last = .ok 0 ∧ t.f0 .PMC_BW_WINDOW = us.toNat ∧
      t.f0 .PMC_BW_SEQ = 0 ∧ t.pmc.windowStart = s.dev.now ∧ t.pmc.rxBytes = [] ∧ t.pmc.txBytes = []) ∧
  (∀ (m : Master) (s : State), s.dev.Open m (Reg.PMC_BW_CTRL.addr 0 0) →
    Completes (.pmcBwClrPeak m) s fun t => t.reg.last = .ok 0 ∧
      ∀ p, t.f1 .PMC_BW_RX_PEAK p = 0 ∧ t.f1 .PMC_BW_TX_PEAK p = 0)

/-- Each trigger of R492 starts a flush over everything staged while the event area can be written, neither frozen nor being
erased, and no flush runs.
A flush ends with each of its records in the slot SEQ mod 16,777,216 and their places in the FIFO free; a staged record
found uncorrectable is discarded and counted, and a LOST record tells of it (R489, R490, R492, R494). -/
def Obligations.Flushes : Prop :=
  (∀ s : State, s.dev.evrStore = true → s.dev.evr.flushTo = none → s.dev.evr.freezeAt = none → s.dev.evr.erase = none →
    s.dev.evr.lastFlushEnd + tSec ≤ s.dev.now →
    Completes .evrFlushTimer s fun t => t.evr.flushTo = some s.dev.evr.nextSeq ∧ t.evr.fifo = s.dev.evr.fifo ∧
      t.evr.flushStart = s.dev.now ∧ t.b0 .EVR_STATUS_FLUSHING = true) ∧
  (∀ (m : Master) (s : State), s.dev.Open m (Reg.EVR_CTRL.addr 0 0) → s.dev.evrStore = true → s.dev.evr.flushTo = none →
    s.dev.evr.freezeAt = none → s.dev.evr.erase = none →
    Completes (.evrCtrlFlush m) s fun t => t.evr.flushTo = some s.dev.evr.nextSeq ∧ t.evr.fifo = s.dev.evr.fifo ∧
      t.b0 .EVR_STATUS_FLUSHING = true ∧ t.reg.last = .ok 0) ∧
  (∀ s : State, s.dev.evrStore = true → s.dev.evr.flushTo = none → s.dev.evr.freezeAt = none → s.dev.evr.erase = none →
    s.dev.evr.flushDue = true →
    Completes .evrFlushErrorTrigger s fun t => t.evr.flushTo = some s.dev.evr.nextSeq ∧ t.evr.flushDue = false ∧
      t.b0 .EVR_STATUS_FLUSHING = true) ∧
  (∀ (s : State), s.dev.boot.fwRuns = true → s.dev.boot.inReset = false → s.dev.fwUp = true →
    bitOf (s.dev.f0 .MBX_DB_H2F_LO) 0 = true → s.dev.evrStore = true → s.dev.evr.flushTo = none →
    s.dev.evr.freezeAt = none → s.dev.evr.erase = none →
    Completes .doorbellEvrFlush s fun t => t.evr.flushTo = some s.dev.evr.nextSeq ∧ t.b0 .EVR_STATUS_FLUSHING = true) ∧
  (∀ (s : State) (r : EvRec) (n q : Nat), s.dev.evr.flushTo = some q → s.dev.evr.flushAgain = false →
    r ∈ s.dev.stagedBefore q → r.seq = some n →
    (∀ x ∈ s.dev.stagedBefore q, ∀ k, x.seq = some k → k % 16777216 = n % 16777216 → x = r) →
    Completes (.evrFlushDone []) s fun t => Map.get none t.evr.area (n % 16777216) = some r ∧
      (∃ l, t.evr.fifo = s.dev.evr.fifo.drop (s.dev.stagedBefore q).length ++ l) ∧ t.evr.flushTo = none ∧
      t.b0 .EVR_STATUS_FLUSHING = false ∧ s.dev.counted t .EVR_FLUSHES 0 1) ∧
  (∀ (s : State) (r : EvRec) (q : Nat), s.dev.evr.flushTo = some q → s.dev.evr.flushAgain = false →
    s.dev.evr.fifo = [r] →
    Completes (.evrFlushDone [0]) s fun t => t.evr.area = s.dev.evr.area ∧ t.evr.head = s.dev.evr.head ∧
      s.dev.counted t .EVR_CORRUPT 0 1 ∧ t.evr.fifo.map (·.code) = [.LOST])

/-- FREEZE, THAW and the automatic release (R496); the end of an erase (R497); numbering without an anchor (R487). -/
def Obligations.FreezeEraseAndNumbering : Prop :=
  (∀ (m : Master) (s : State), s.dev.Open m (Reg.EVR_CTRL.addr 0 0) → pwMaster m = true → s.dev.evr.freezeAt = none →
    s.dev.evr.releaseFlush = false →
    Completes (.evrFreeze m) s fun t => t.evr.freezeAt = some s.dev.now ∧ t.evr.flushTo = none ∧
      t.evr.area = s.dev.evr.area ∧ t.evr.head = s.dev.evr.head ∧ t.b0 .EVR_STATUS_FROZEN = true ∧
      t.f0 .EVR_STATUS_FREEZE_OWNER = m.val ∧ t.ctr .EVR_FREEZES 0 = (s.dev.ctr .EVR_FREEZES 0 + 1) % 2 ^ 64) ∧
  (∀ (m : Master) (s : State) (a : Nat), s.dev.Open m (Reg.EVR_CTRL.addr 0 0) → s.dev.evr.freezeAt = some a →
    s.dev.f0 .EVR_STATUS_FREEZE_OWNER = m.val → s.dev.evrStore = true → s.dev.evr.flushTo = none →
    s.dev.evr.erase = none →
    Completes (.evrThaw m) s fun t => t.evr.freezeAt = none ∧ t.b0 .EVR_STATUS_FROZEN = false ∧
      t.f0 .EVR_STATUS_FREEZE_OWNER = 15 ∧ t.evr.flushTo = some s.dev.evr.nextSeq) ∧
  (∀ (s : State) (a : Nat), s.dev.evr.freezeAt = some a → a + 10 * tSec ≤ s.dev.now →
    Completes .evrFreezeAutoRelease s fun t => t.evr.freezeAt = none ∧ t.b0 .EVR_STATUS_FROZEN = false ∧
      t.f0 .EVR_STATUS_FREEZE_OWNER = 15 ∧ t.evr.fifo = s.dev.evr.fifo) ∧
  (∀ (s : State) (a b : Nat), s.dev.evr.erase = some (a, b) → s.dev.evrStore = true → s.dev.pins.pfail = false →
    s.dev.boot.flushAt = none → s.dev.evr.flushAgain = false → s.dev.mbx.eraseReply = none →
    Completes .evrEraseDone s fun t => t.evr.erase = none ∧ t.b0 .EVR_STATUS_ERASING = false ∧
      ∀ k r, (k, some r) ∈ t.evr.area → inRange a b (r.seq.getD 0) = false) ∧
  (∀ (s : State), s.dev.evr.numbering = false → s.dev.b0 .EVR_STATUS_MOUNTED = false → s.dev.boot.inReset = false →
    s.dev.boot.t0 + 5 * tSec ≤ s.dev.now → s.dev.evr.fifo = [] →
    Completes .evrUnanchored s fun t => t.b0 .EVR_STATUS_SEQ_UNANCHORED = true ∧ t.evr.numbering = true ∧
      t.evr.nextSeq = 0) ∧
  (∀ (m : Master) (w : BitVec 32) (s : State), s.dev.Open m (Reg.EVR_STAGE_SEQ.addr 0 0) →
    s.dev.evr.fifo.find? (fun r => decide (r.seq = some w.toNat)) = none →
    Completes (.evrStageSeqWrite m w) s fun t => t.f0 .EVR_STAGE_SEQ = w.toNat ∧ t.b0 .EVR_STATUS_STAGE_MISS = true ∧
      (∀ i < 16, t.f1 .EVR_STAGE_DATA i = 0) ∧ t.evr = s.dev.evr) ∧
  (∀ (m : Master) (w : BitVec 32) (r : EvRec) (s : State), s.dev.Open m (Reg.EVR_STAGE_SEQ.addr 0 0) →
    s.dev.evr.fifo.find? (fun r => decide (r.seq = some w.toNat)) = some r →
    Completes (.evrStageSeqWrite m w) s fun t => t.f0 .EVR_STAGE_SEQ = w.toNat ∧ t.evr = s.dev.evr ∧
      ∀ i < 16, t.f1 .EVR_STAGE_DATA i = leAt r.bytes (4 * i) 4) ∧
  (∀ (m : Master) (w : BitVec 32) (r : EvRec) (s : State), s.dev.Open m (Reg.EVR_STAGE_RELEASE.addr 0 0) →
    s.dev.b0 .EVR_STATUS_NO_STORE = true → s.dev.evr.fifo = [r] → r.seq = some w.toNat → s.dev.boot.inReset = false →
    Completes (.evrStageRelease m w) s fun t => (∀ x ∈ t.evr.fifo, x.code = .LOST ∨ x.code = .EVR_STAGE_RELEASED) ∧
      t.ctr .EVR_RELEASED 0 = (s.dev.ctr .EVR_RELEASED 0 + 1) % 2 ^ 64)

/-- A message posted in a free mailbox of its owner waits there; the firmware takes it; a message queued for the host is
delivered into its free mailbox and raises its source; an acknowledgement frees it (R466 to R468). -/
def Obligations.MailboxHandshake : Prop :=
  (∀ (m : Master) (k : Fin 8) (s : State), s.dev.Open m (Reg.MBX_H2F_CTRL.addr k 0) → m.val = pairMaster k →
    s.dev.fwUp = true → s.dev.b1 .MBX_H2F_STATUS_FULL k = false →
    exec (.mbxH2fPost m k) s = .next (s.on
      (((s.dev.set1 .MBX_H2F_STATUS_FULL k 1).count .MBX_H2F_MESSAGES 0).complete (.ok 0)))) ∧
  (∀ (k : Fin 8) (s : State), s.dev.fwUp = true → s.dev.b1 .MBX_H2F_STATUS_FULL k = true →
    Completes (.mbxH2fTake k) s fun t => t.b1 .MBX_H2F_STATUS_FULL k = false ∧
      Map.get [] t.mbx.requests k = Map.get [] s.dev.mbx.requests k ++
        [⟨s.dev.h2fWords k, s.dev.mbx.h2fStale.contains k.val⟩]) ∧
  (∀ (k : Fin 8) (x : Msg) (rest : List Msg) (s : State), Map.get [] s.dev.mbx.queue k = x :: rest → s.dev.fwUp = true →
    s.dev.f2hFull k = false → s.dev.senderUp k = true → (s.dev.mbx.lostMsgs = [] ∨ k.val ≠ 5) →
    Completes (.mbxF2hDeliver k) s fun t => t.b1 .MBX_F2H_STATUS_FULL k = true ∧ Map.get [] t.mbx.queue k = rest ∧
      (∀ i < 16, t.fld .MBX_F2H_DATA k i = x.word i % 2 ^ 32) ∧ bitOf (t.f1 .INT_PEND ((327 + k) / 32)) ((327 + k) % 32) = true) ∧
  (∀ (m : Master) (k : Fin 8) (s : State), s.dev.Open m (Reg.MBX_F2H_CTRL.addr k 0) → m.val = pairMaster k →
    s.dev.mbx.lostMsgs = [] →
    exec (.mbxF2hAck m k) s = .next (s.on
      (((s.dev.set1 .MBX_F2H_STATUS_FULL k 0).set1 .MBX_F2H_STATUS_STALE k 0).complete (.ok 0)))) ∧
  (∀ (m : Master) (k : Fin 8) (s : State), s.dev.Open m (Reg.MBX_F2H_CTRL.addr k 0) → m.val = pairMaster k →
    Completes (.mbxF2hAck m k) s fun t => t.b1 .MBX_F2H_STATUS_FULL k = false ∧ t.b1 .MBX_F2H_STATUS_STALE k = false ∧
      t.reg.last = .ok 0)

/-- The requests GET_INFO, ECHO, CHALLENGE with a credential in force, and one of an opcode the table does not list are
answered in their pair's queue; EVR_FLUSH waits for its flush (R469 to R472). -/
def Obligations.RequestsAnswered : Prop :=
  (∀ (k : Fin 8) (x : Msg) (s : State), s.dev.asks k 0x001 x → x.len = 0 →
    Completes (.mbxGetInfo k) s fun t => Map.get [] t.mbx.requests k = [] ∧
      Map.get [] t.mbx.queue k = [x.answer 0 [s.dev.f0 .GLB_FW_VERSION, s.dev.f0 .GLB_VER_MBX,
        s.dev.health + 16 * s.dev.f0 .PAIR_STATUS_ROLE, (s.dev.credential.map (·.1)).getD 0]]) ∧
  (∀ (k : Fin 8) (x : Msg) (s : State), s.dev.asks k 0x002 x → x.len ≤ 14 →
    Completes (.mbxEcho k) s fun t => Map.get [] t.mbx.requests k = [] ∧
      Map.get [] t.mbx.queue k = [x.answer 0 ((List.range x.len).map x.arg)]) ∧
  (∀ (k : Fin 8) (x : Msg) (s : State), s.dev.asks k 0x003 x → x.len = 0 → s.dev.evrStore = true →
    s.dev.evr.flushTo = none → s.dev.evr.freezeAt = none → s.dev.evr.erase = none →
    Completes (.mbxEvrFlush k) s fun t => Map.get [] t.mbx.requests k = [] ∧
      t.evr.flushTo = some s.dev.evr.nextSeq ∧ t.mbx.flushReply = [(k.val, false, x)]) ∧
  (∀ (k : Fin 8) (x : Msg) (p id : Nat) (key : Bytes) (s : State), s.dev.asks k 0x010 x → x.len = 1 → x.arg 0 = p →
    (p = 2 ∨ p = 1 ∧ s.dev.winter = true) → s.dev.b0 .MBX_STATUS_CRED_HOLDOFF = false →
    s.dev.credential = some (id, key) →
    Completes (.mbxChallenge k) s fun t => Map.get [] t.mbx.requests k = [] ∧
      (Map.get none t.mbx.challenges (k2 (pairMaster k) p)) = some ⟨leBytes 32 (Config.free s.dev.draws), none⟩ ∧
      Map.get [] t.mbx.queue k = [x.answer 0 (id ::
        (List.range 8).map (fun i => leAt (leBytes 32 (Config.free s.dev.draws)) (4 * i) 4) ++ [10000])]) ∧
  (∀ (k : Fin 8) (op : Nat) (x : Msg) (s : State), opcodeRow op = none → s.dev.asks k op x →
    Completes (.mbxUnknownOpcode k) s fun t => Map.get [] t.mbx.requests k = [] ∧
      Map.get [] t.mbx.queue k = [x.answer 1 []])

/-- GET_ID_KEY, ATTEST and FUSE_OWNER_KEY answer as R475 and R476 say; EVR_CLEAR with a valid response starts the erase
(R497). -/
def Obligations.CredentialRequests : Prop :=
  (∀ (k : Fin 8) (x : Msg) (s : State), s.dev.asks k 0x020 x → x.len = 0 →
    Completes (.mbxGetIdKey k) s fun t => Map.get [] t.mbx.requests k = [] ∧
      ((Map.get [] t.mbx.queue k).flatMap (fun y => y.words.drop 2)) =
        wordsOf ((List.range 97).map Config.idPoint ++ [0, 0, 0]) ∧ (Map.get [] t.mbx.queue k).length = 2) ∧
  (∀ (k : Fin 8) (x : Msg) (s : State), s.dev.asks k 0x021 x → x.len = 8 →
    Completes (.mbxAttest k) s fun t => Map.get [] t.mbx.requests k = [] ∧
      ((Map.get [] t.mbx.queue k).flatMap (fun y => y.words.drop 2)) =
        let rep := s.dev.report ((List.range 8).flatMap (fun i => leBytes 4 (x.arg i)))
        wordsOf (rep ++ beBytes 96 (Config.attestSig rep).toNat)) ∧
  (∀ (x : Msg) (s : State), s.dev.asks 0 0x030 x → x.len = 13 → x.arg 12 = 0xF05E →
    (s.dev.winter = true ∨ s.dev.boot.committed = false) →
    s.dev.b0 .IMG_STATUS_BUSY = false → s.dev.b0 .IMG_OWNER_STATUS_KEY_SET = false → s.dev.mbx.fuseBroken = false →
    Completes (.mbxFuseOwnerKey 0 true) s fun t => t.b0 .IMG_OWNER_STATUS_KEY_SET = true ∧
      t.img.ownerKey = some (leNat ((List.range 12).flatMap (fun i => leBytes 4 (x.arg i)))) ∧
      (∀ i < 12, t.f1 .IMG_OWNER_HASH i = x.arg i % 2 ^ 32) ∧ Map.get [] t.mbx.queue 0 = [x.answer 0 []]) ∧
  (∀ (k : Fin 8) (x : Msg) (id : Nat) (key c : Bytes) (s : State), s.dev.asks k 0x011 x → x.len = 8 →
    s.dev.challenge (pairMaster k) 2 = some c → s.dev.credential = some (id, key) →
    (List.range 8).flatMap (fun i => leBytes 4 (x.arg i)) = response key c 2 → s.dev.evr.freezeAt = none →
    s.dev.evr.erase = none → s.dev.evrStore = true → s.dev.evr.fifo = [] → (∀ j < 6, s.dev.f1 .EVR_LOST_PEND j = 0) →
    s.dev.behind s.dev.evr.oldest ≤ 16777216 →
    Completes (.mbxEvrClear k) s fun t =>
      t.evr.erase = some (s.dev.evr.oldest, (s.dev.evr.head + 2 ^ 32 - 1) % 2 ^ 32) ∧
      t.b0 .EVR_STATUS_ERASING = true ∧ t.mbx.eraseReply = some (k.val, x) ∧
      Map.get none t.mbx.challenges (k2 (pairMaster k) 2) = none)

/-- The timers of challenges and of the credential hold-off, the doorbell HOST_ALIVE, and the locks: a free lock goes to the
master that reads it, a held one to none, and its holder's write alone releases it; the host witness answers its requests, and
a late answer is counted and discarded (R472, R474, R477, R479 to R481). -/
def Obligations.TimersDoorbellsAndLocks : Prop :=
  (∀ (m : Master) (p : Fin 3) (s : State), s.dev.challenge m p = none →
    Completes (.challengeExpire m p) s fun t => Map.get none t.mbx.challenges (k2 m p) = none) ∧
  (∀ (a : Nat) (s : State), s.dev.mbx.holdoffEnd = some a → a ≤ s.dev.now →
    Completes .credHoldoffEnd s fun t => t.mbx.holdoffEnd = none ∧ t.b0 .MBX_STATUS_CRED_HOLDOFF = false) ∧
  (∀ s : State, s.dev.fwUp = true → bitOf (s.dev.f0 .MBX_DB_H2F_LO) 1 = true →
    Completes .doorbellHostAlive s fun t => bitOf (t.f0 .MBX_DB_H2F_LO) 1 = false ∧ bitOf (t.f0 .MBX_DB_F2H_LO) 1 = true) ∧
  (∀ (m : Master) (i : Fin 64) (s : State), s.dev.Open m (Reg.LCK_LOCK.addr i 0) → s.dev.lockHolder i = 15 →
    exec (.lockAcquireRead m i) s = .next (s.on ((s.dev.set1 .LCK_LOCK_HOLDER i m).complete (.ok (2 ^ 31 + m))))) ∧
  (∀ (m : Master) (i : Fin 64) (s : State), s.dev.Open m (Reg.LCK_LOCK.addr i 0) → s.dev.lockHolder i ≠ 15 →
    exec (.lockAcquireRead m i) s = .next (s.on
      (s.dev.complete (.ok (b2n (decide (s.dev.lockHolder i = m.val)) * 2 ^ 30 + s.dev.lockHolder i))))) ∧
  (∀ (m : Master) (i : Fin 64) (v : Fin 16) (s : State), s.dev.Open m (Reg.LCK_LOCK.addr i 0) →
    s.dev.lockHolder i = m.val → v.val = m.val →
    exec (.lockReleaseWrite m i v) s = .next (s.on ((s.dev.set1 .LCK_LOCK_HOLDER i 15).complete (.ok 0)))) ∧
  (∀ (m : Master) (i : Fin 64) (v : Fin 16) (s : State), s.dev.Open m (Reg.LCK_LOCK.addr i 0) →
    ¬(s.dev.lockHolder i = m.val ∧ v.val = m.val) →
    Completes (.lockReleaseWrite m i v) s fun t => t.reg.last = .ok 0 ∧
      t.f0 .LCK_BAD_RELEASE = min (s.dev.f0 .LCK_BAD_RELEASE + 1) (2 ^ 32 - 1) ∧
      ∀ j, t.lockHolder j = s.dev.lockHolder j) ∧
  (∀ (x : Msg) (w : Nat × Nat × Nat × Nat) (s : State), Map.get [] s.dev.mbx.requests 6 = [x] → s.dev.fwUp = true →
    x.opcode = 0x042 → s.dev.mbx.witness = [w] → w.1 = x.seq → w.2.1 = 0x042 → s.dev.now ≤ w.2.2.2 → x.status = 0 →
    Completes .mbxWitnessReply s fun t => t.mbx.witness = [] ∧ Map.get [] t.mbx.requests 6 = [] ∧
      s.dev.counted t .PAIR_WITNESS_ANSWERS 0 1) ∧
  (∀ (x : Msg) (rest : List Msg) (w : Nat × Nat × Nat × Nat) (s : State), Map.get [] s.dev.mbx.requests 6 = x :: rest →
    s.dev.fwUp = true → x.opcode ∈ [0x040, 0x041, 0x042] → s.dev.mbx.witness = [w] → w.1 = x.seq → w.2.2.2 < s.dev.now →
    Completes .mbxWitnessReply s fun t => t.mbx.witness = [] ∧ Map.get [] t.mbx.requests 6 = rest ∧
      s.dev.counted t .MBX_WITNESS_LATE 0 1 ∧ t.pair = s.dev.pair)

/-- A read or a write that passes the checks of the bus runs the effect of its register and completes with its data (R442):
in particular GLB_SCRATCH takes a written word and reads it back, and GLB_SCRATCH_M changes only the bits its mask names
(R444, R445). -/
def Obligations.RegisterAccesses : Prop :=
  (∀ (m : Master) (off : Fin 16777216) (r : Reg) (i j : Nat) (s : State),
    s.dev.checkAt m false off false false = .pass (.reg r i j) →
    exec (.registerRead m false off .dword) s = .next (s.on
      ((s.dev.readReg m r i j).2.complete (.ok (s.dev.readReg m r i j).1)))) ∧
  (∀ (m : Master) (w : BitVec 32) (env : WriteEnv) (s : State), s.dev.checkAt m false 0x60 true false = .pass (.reg .GLB_SCRATCH 0 0) →
    exec (.registerWrite m false 0x60 .dword [w] env) s = .next (s.on
      ((s.dev.set0 .GLB_SCRATCH w.toNat).complete (.ok 0)))) ∧
  (∀ (m : Master) (w : BitVec 32) (env : WriteEnv) (s : State), s.dev.f0 .GLB_SCRATCH_M < 2 ^ 16 →
    s.dev.checkAt m false 0x64 true false = .pass (.reg .GLB_SCRATCH_M 0 0) →
    Completes (.registerWrite m false 0x64 .dword [w] env) s fun t => ∀ b < 16,
      bitOf (t.f0 .GLB_SCRATCH_M) b =
        if bitOf w.toNat (16 + b) then bitOf w.toNat b else bitOf (s.dev.f0 .GLB_SCRATCH_M) b) ∧
  (∀ (m : Master) (off : Fin 16777216) (r : Reg) (i j v : Nat) (s : State), s.dev.designated m false off = true →
    s.dev.checkAt m false off false false = .pass (.reg r i j) → s.dev.pairAt r i j = some v →
    exec (.counterLoRead m off false) s = .next (s.on
      ((s.dev.latchAt m (r.addr i j + 4) (v / 2 ^ 32)).complete (.ok (v % 2 ^ 32))))) ∧
  (∀ (m : Master) (off : Fin 16777216) (r : Reg) (i j : Nat) (s : State), regOf off = some (r, i, j) →
    r.clearBit.isSome = true → s.dev.Open m off →
    exec (.counterClear m off) s = .next (s.on ((s.dev.clearOf r i).complete (.ok 0)))) ∧
  (∀ (m : Master) (s : State), s.dev.Open m (Reg.BUF_CTRL.addr 0 0) →
    Completes (.counterClear m 0x500004) s fun t => ∀ k, t.ctr ⟨.BUF_CNT, k⟩ 0 = 0) ∧
  (∀ (m : Master) (major minor : Fin 256) (s : State), s.dev.Open m (Reg.GLB_HIF_SELECT.addr 0 0) →
    s.dev.reg.written.contains Reg.GLB_HIF_SELECT.ctorIdx = false →
    (major.val = 2 ∧ minor.val ≤ 15 ∨ major.val = 3 ∧ minor.val ≤ 4) →
    Completes (.glbHifSelect m major minor) s fun t => t.f0 .GLB_HIF_ACTIVE_SELECTED = 1 ∧
      t.f0 .GLB_HIF_ACTIVE_MAJOR = major.val ∧ t.f0 .GLB_HIF_ACTIVE_MINOR = minor.val ∧ t.reg.last = .ok 0) ∧
  (∀ (m : Master) (s : State), s.dev.Open m (Reg.GLB_FUSE_COMMIT.addr 0 0) → pwMaster m = true →
    Completes (.glbFuseCommit m) s fun t => t.f0 .GLB_FUSE_COMMIT_REFUSED = 1 ∧ t.reg.last = .ok 0)

/-- The indirect windows: an address starts a fetch, the fetched words are read one after another, and with AUTO_INC the read
of the last one of a stride advances the window; a write updates an entry of a writable space and completes (R457 to R459). -/
def Obligations.IndirectWindows : Prop :=
  (∀ (m : Master) (n : Region) (w : BitVec 32) (s : State), s.dev.Open m (Reg.IND_ADDR.addr n 0) →
    (s.dev.indBank n m).busy = false →
    Completes (.indAddrWrite m n w) s fun t =>
      let b := t.indBank n m
      b.space = bitsOf w.toNat 24 8 ∧ b.word = bitsOf w.toNat 0 19 ∧ b.stride = bitsOf w.toNat 19 4 + 1 ∧ b.ready = false ∧
        b.fetching = true) ∧
  (∀ (m : Master) (n : Region) (k c : Nat) (s : State), (s.dev.indBank n m).fetching = true →
    spaceShape (s.dev.indBank n m).space = some (k, c) → (s.dev.indBank n m).word < k * c → (s.dev.indBank n m).staged = 0 →
    Completes (.indFetchDone m n) s fun t =>
      let b := s.dev.indBank n m
      (t.indBank n m).ready = true ∧ (t.indBank n m).fetching = false ∧ ∀ i < 16,
        (t.indBank n m).data.getD i 0 = s.dev.spaceWord n b.space (b.word + i)) ∧
  (∀ (m : Master) (n : Region) (s : State), m ≠ 7 → s.dev.Open m (Reg.IND_DATA.addr n ((s.dev.indBank n m).stride - 1)) →
    (s.dev.indBank n m).ready = true → s.dev.autoInc m (s.dev.indBank n m) = true → 1 ≤ (s.dev.indBank n m).stride →
    Completes (.indDataReadAdvance m n) s fun t =>
      let b := s.dev.indBank n m
      t.reg.last = .ok (b.data.getD (b.stride - 1) 0) ∧ (t.indBank n m).word = (b.word + b.stride) % 2 ^ 19 ∧
        (t.indBank n m).ready = false ∧ (t.indBank n m).fetching = true) ∧
  (∀ (m : Master) (n : Region) (sp e k c : Nat) (count : Fin 32) (s : State), s.dev.Open m (Reg.IND_CMD.addr n 0) →
    (s.dev.indBank n m).busy = false → (s.dev.indBank n m).space = sp → spaceShape sp = some (k, c) → 0x10 ≤ sp →
    (s.dev.indBank n m).word = k * e → e < c → count.val = k → s.dev.regionIsolated n = false →
    Completes (.indCmdGo m n count) s fun t =>
      let b := ((s.dev.indBank n m).data.take k).flatMap (leBytes 4)
      (t.indBank n m).busy = true ∧
        (if sp = 0x10 then t.meter n e = meterOf (s.dev.meter n e) s.dev.now b
         else if sp = 0x11 then t.flowCounter n e = (leAt b 0 8, leAt b 8 8) else t.group e = groupOf b)) ∧
  (∀ (m : Master) (n : Region) (s : State), (s.dev.indBank n m).busy = true →
    Completes (.indWriteDone m n) s fun t => (t.indBank n m).busy = false ∧
      (t.indBank n m).word = if s.dev.autoInc m (s.dev.indBank n m)
        then ((s.dev.indBank n m).word + (s.dev.indBank n m).stride) % 2 ^ 19 else (s.dev.indBank n m).word)

/-- The SMBus slave answers its commands with the access of master 8 at ADDR, and refuses an undefined command, a wrong byte
count and a bad PEC (R462, R463). -/
def Obligations.SmbusCommands : Prop :=
  (∀ (a : BitVec 32) (s : State), s.dev.smbUp = true →
    exec (.smbusSetAddr 4 a true) s = .next (s.on ((s.dev.smbSet a.toNat s.dev.reg.smbStatus).complete (.ok 0)))) ∧
  (∀ (r : Reg) (i j : Nat) (s : State), s.dev.smbUp = true →
    s.dev.checkAt 8 false s.dev.reg.smbAddr false false = .pass (.reg r i j) →
    exec .smbusRead s = .next (s.on (((s.dev.readReg 8 r i j).2.complete (.ok (s.dev.readReg 8 r i j).1)).smbSet
      ((s.dev.reg.smbAddr + 4) % 2 ^ 32) 0))) ∧
  (∀ (k : AccessKind) (s : State), s.dev.smbUp = true →
    s.dev.checkAt 8 false s.dev.reg.smbAddr false false = .fail k →
    Completes .smbusRead s fun t => t.reg.last = .abort ∧ t.reg.smbStatus = 1 ∧ t.reg.smbAddr = s.dev.reg.smbAddr) ∧
  (∀ (count : Fin 256) (a : BitVec 32) (s : State), s.dev.smbUp = true → count.val ≠ 4 →
    Completes (.smbusSetAddr count a true) s fun t => t.reg.last = .abort ∧ t.reg.smbAddr = s.dev.reg.smbAddr) ∧
  (∀ (a : BitVec 32) (s : State), s.dev.smbUp = true →
    Completes (.smbusSetAddr 4 a false) s fun t => t.reg.last = .abort ∧ t.reg.smbStatus = 2 ∧
      t.f0 .GLB_SMB_CNT_PEC_ERR = satAdd 16 (s.dev.f0 .GLB_SMB_CNT_PEC_ERR) 1) ∧
  (∀ (w : BitVec 32) (env : WriteEnv) (s : State), s.dev.smbUp = true → s.dev.reg.smbAddr = 0x60 →
    s.dev.checkAt 8 false 0x60 true false = .pass (.reg .GLB_SCRATCH 0 0) →
    Completes (.smbusWrite 4 w true env) s fun t => t.f0 .GLB_SCRATCH = w.toNat ∧ t.reg.smbStatus = 0 ∧
      t.reg.smbAddr = 0x64) ∧
  (∀ (s : State), s.dev.smbUp = true →
    exec .smbusStatus s = .next (s.on (s.dev.complete (.ok s.dev.reg.smbStatus)))) ∧
  (∀ (s : State), s.dev.smbUp = true →
    Completes .smbusTimeout s fun t => t.reg.smbAddr = 0 ∧ t.reg.smbStatus = 0) ∧
  (∀ (s : State), s.dev.smbUp = true →
    Completes .smbusUndefinedCommand s fun t => t.reg.last = .abort ∧
      t.f0 .GLB_SMB_CNT_REFUSED = satAdd 16 (s.dev.f0 .GLB_SMB_CNT_REFUSED) 1)

/-- The rings of PF1 and PF2 (R431, R435, R436): a doorbell within the ring moves TAIL, one that overruns it halts the ring with
code 7; ENABLE and RESTART; moderation; an error of a read stops the ring with code 5, and a corrected error of the link only counts. -/
def Obligations.HostRings : Prop :=
  (∀ (r : Fin 132) (tail : BitVec 32) (s : State), s.dev.host.lost = false → s.dev.host.d3hot.contains (ringFn r) = false →
    s.dev.boot.fwRuns = true → s.dev.ringOn r = true → tail.toNat < s.dev.ringSize r →
    s.dev.ringPosted r + (tail.toNat + s.dev.ringSize r - s.dev.f1 .DMA_RING_TAIL r) % s.dev.ringSize r < s.dev.ringSize r →
    exec (.ringDoorbell r tail) s = .next (s.on (s.dev.set1 .DMA_RING_TAIL r tail.toNat))) ∧
  (∀ (r : Fin 132) (tail : BitVec 32) (s : State), s.dev.host.lost = false → s.dev.host.d3hot.contains (ringFn r) = false →
    s.dev.boot.fwRuns = true → s.dev.ringOn r = true → (s.dev.ringSize r ≤ tail.toNat ∨ s.dev.ringSize r ≤
      s.dev.ringPosted r + (tail.toNat + s.dev.ringSize r - s.dev.f1 .DMA_RING_TAIL r) % s.dev.ringSize r) →
    Completes (.ringDoorbell r tail) s fun t => t.b1 .DMA_RING_STATUS_HALTED r = true ∧ t.f1 .DMA_RING_STATUS_CODE r = 7 ∧
      t.f1 .DMA_RING_TAIL r = s.dev.f1 .DMA_RING_TAIL r) ∧
  (∀ (m : Master) (r : Fin 132) (v : Fin 1024) (s : State), s.dev.Open m (Reg.DMA_RING_CTRL.addr r 0) →
    (r.val < 128 ∨ v.val < 64) →
    Completes (.ringEnable m r true v) s fun t => t.b1 .DMA_RING_CTRL_ENABLE r = true ∧ t.f1 .DMA_RING_CTRL_VECTOR r = v.val ∧
      t.reg.last = .ok 0 ∧ (s.dev.b1 .DMA_RING_STATUS_HALTED r = false → Map.get none s.dev.host.doorbell r = none →
        t.b1 .DMA_RING_STATUS_RUNNING r = true)) ∧
  (∀ (m : Master) (r : Fin 132) (v : Fin 1024) (s : State), s.dev.Open m (Reg.DMA_RING_CTRL.addr r 0) →
    (r.val < 128 ∨ v.val < 64) →
    Completes (.ringEnable m r false v) s fun t => t.b1 .DMA_RING_CTRL_ENABLE r = false ∧
      t.f1 .DMA_RING_CTRL_VECTOR r = v.val ∧ t.b1 .DMA_RING_STATUS_RUNNING r = false ∧ t.reg.last = .ok 0) ∧
  (∀ (m : Master) (r : Fin 132) (enable : Bool) (v : Fin 1024) (s : State), s.dev.Open m (Reg.DMA_RING_CTRL.addr r 0) →
    128 ≤ r.val → 64 ≤ v.val → exec (.ringEnable m r enable v) s = .next (s.on (s.dev.complete (.ok 0)))) ∧
  (∀ (m : Master) (r : Fin 132) (s : State), s.dev.Open m (Reg.DMA_RING_CTRL.addr r 0) →
    s.dev.b1 .DMA_RING_STATUS_HALTED r = true → s.dev.b1 .DMA_RING_CTRL_ENABLE r = true →
    Map.get none s.dev.host.doorbell r = none →
    Completes (.ringRestart m r) s fun t => t.b1 .DMA_RING_STATUS_HALTED r = false ∧ t.b1 .DMA_RING_STATUS_RUNNING r = true ∧
      t.ringHead r = if s.dev.f1 .DMA_RING_STATUS_CODE r = 7 then s.dev.ringHead r
        else (s.dev.f1 .DMA_RING_STATUS_HALT_INDEX r + 1) % s.dev.ringSize r % 2 ^ 32) ∧
  (∀ (r : Fin 132) (m : ModSt) (s : State), Map.get none s.dev.host.mods r = some m →
    m.first + s.dev.f1 .DMA_RING_MOD_USEC r * tUs ≤ s.dev.now →
    Completes (.msixModerationTimer r) s fun t => Map.get none t.host.mods r = none) ∧
  (∀ (r : Fin 132) (st : Fin 8) (s : State), s.dev.ringRuns r = true →
    Completes (.hostDmaError r (some st)) s fun t => t.b1 .DMA_RING_STATUS_HALTED r = true ∧ t.f1 .DMA_RING_STATUS_CODE r = 5 ∧
      t.f1 .DMA_RING_STATUS_HALT_INDEX r = s.dev.ringHead r % 2 ^ 16 ∧
      t.ctr .DMA_DMA_ERRORS 0 = (s.dev.ctr .DMA_DMA_ERRORS 0 + 1) % 2 ^ 64) ∧
  (∀ (r : Fin 132) (s : State), s.dev.host.lost = false →
    Completes (.hostDmaError r none) s fun t => t.host.aerCorr = s.dev.host.aerCorr + 1 ∧
      t.ctr .DMA_AER_CORRECTED 0 = (s.dev.ctr .DMA_AER_CORRECTED 0 + 1) % 2 ^ 64 ∧ t.flds = s.dev.flds ∧
      t.evr = s.dev.evr)

/-- PF1_TX_FRAME injects a frame of one descriptor into its region's pipeline and completes the descriptor with status 1 (R432);
PF1_RX_DELIVER writes a frame into one posted buffer (R433); PF2_READ reads bytes of an area (R434). -/
def Obligations.HostTransfers : Prop :=
  (∀ (r : Fin 64) (desc buf : List (BitVec 8)) (rivals : List (Fin 7)) (s : State), s.dev.ringRuns r = true → 1 ≤ s.dev.ringPosted r →
    s.dev.forwards = true → (takeTokens s.dev.host.inject (s.dev.f0 .DMA_INJECT_PPS) (4096 * tSec) tSec s.dev.now).1 = true →
    leAt desc 0xA 1 = 3 → txBad [(desc, buf)] = none → s.dev.regionIsolated (leAt desc 0xF 1) = false → s.dev.img.reload = none →
    cellsFor (leAt desc 8 2) + 7 ≤ s.dev.freeCells →
    Completes (.pf1TxFrame r [(desc, buf)] rivals) s fun t =>
      (t.rxFrame s.dev.buf.nextId).any (fun x => x.bytes == slice buf 0 (leAt desc 8 2) && x.port == 132 && !x.hasFcs &&
        x.region == leAt desc 0xF 1) = true ∧
      t.ringHead r = (s.dev.ringHead r + 1) % s.dev.ringSize r % 2 ^ 32 ∧
      t.out.head? = some (.hostWrite (s.dev.ringAddr r (s.dev.ringHead r) + 0xA) [0x83, 1]) ∧
      t.ctr .DMA_TX_FRAMES 0 = (s.dev.ctr .DMA_TX_FRAMES 0 + 1) % 2 ^ 64) ∧
  (∀ (f : TxFrame) (c : Chain) (desc : List (BitVec 8)) (rd : CellRead) (r : Nat) (s : State),
    Map.get none s.dev.buf.inflight 132 = some f → s.dev.winter = false → s.dev.buf.frozen = false →
    s.dev.chain f.desc.chain = some c → c.marked = none → rd.bad = none → rd.corrupt = false → f.desc.truncates c = false →
    r = 64 + (s.dev.f1 .DMA_RX_STEER_BASE (s.dev.queueClass 132 f.queue) +
      c.hash * s.dev.f1 .DMA_RX_STEER_COUNT (s.dev.queueClass 132 f.queue) / 2 ^ 32) % 64 →
    s.dev.ringRuns r = true → 1 ≤ s.dev.ringPosted r → rxBad desc = false → c.body.length ≤ leAt desc 8 2 →
    Completes (.pf1RxDeliver [desc] rd) s fun t =>
      Output.hostWrite (leAt desc 0 8) (slice c.body 0 c.body.length) ∈ t.out ∧ Map.get none t.buf.inflight 132 = none ∧
      t.ctr .DMA_RX_FRAMES 0 = (s.dev.ctr .DMA_RX_FRAMES 0 + 1) % 2 ^ 64) ∧
  (∀ (q : Fin 4) (desc fill : List (BitVec 8)) (reads : List (Nat × RowRead)) (s : State),
    s.dev.ringRuns (128 + q.val) = true → s.dev.ringPosted (128 + q.val) ≠ 0 → s.dev.host.pf2Free ≤ s.dev.now →
    reqBad desc = false → leAt desc 1 1 ≠ 5 → leAt desc 8 8 + leAt desc 4 4 ≤ s.dev.areaSize (leAt desc 1 1) →
    s.dev.hld.outOfService = false → s.dev.hld.mounted = true →
    (Dev.readRowList reads (s.dev.readRowsOf (leAt desc 1 1) (leAt desc 8 8) (leAt desc 4 4)) s.dev).2 = [] →
    Completes (.pf2Read q desc fill reads) s fun t =>
      Output.hostWrite (leAt desc 0x10 8) ((List.range (leAt desc 4 4)).map (fun i =>
        s.dev.areaByte (leAt desc 1 1) (leAt desc 8 8 + i) (fill.getD i 0))) ∈ t.out ∧
      Output.hostWrite (s.dev.ringAddr (128 + q.val) (s.dev.ringHead (128 + q.val)) + 2)
        (leBytes 1 (leAt desc 2 1 + 128) ++ [1]) ∈ t.out ∧
      t.ringHead (128 + q.val) = (s.dev.ringHead (128 + q.val) + 1) % s.dev.ringSize (128 + q.val) % 2 ^ 32)

/-- The host link, power states, function-level resets and the loss of the host (R94, R421, R426, R427, R436).
INT_PEND bits clear where a 1 is written, and a write of INT_MASK takes the mask (R429). -/
def Obligations.HostLinkAndInterrupts : Prop :=
  (∀ (speed : Fin 8) (width : Fin 17) (flit : Bool) (s : State), 1 ≤ speed.val → width.val ∈ [1, 4, 8, 16] →
    s.dev.boot.inReset = false → s.dev.boot.powered = true →
    Completes (.hostLinkUp speed width flit) s fun t => t.host.lost = false ∧ t.f0 .DMA_LINK_DL_UP = 1 ∧
      t.f0 .DMA_LINK_SPEED = speed.val ∧ t.f0 .DMA_LINK_WIDTH = width.val ∧
      t.b0 .DMA_LINK_FLIT = (flit || decide (6 ≤ speed.val))) ∧
  (∀ (f : Fin 4) (s : State), s.dev.host.lost = false → f.val ∉ s.dev.host.d3hot →
    Completes (.pcieD3hotEnter f) s fun t => t.host.d3hot = f.val :: s.dev.host.d3hot) ∧
  (∀ (f : Fin 4) (s : State), exec (.pcieD0Return f) s = .next (s.on { s.dev with
    host := { s.dev.host with d3hot := s.dev.host.d3hot.filter (fun g => decide (g ≠ f.val)) } })) ∧
  (∀ (f : Fin 4) (s : State), s.dev.host.lost = false →
    Completes (.hostFlr f) s fun t => f.val ∉ t.host.d3hot ∧
      t.ctr .DMA_FLR_COUNT 0 = (s.dev.ctr .DMA_FLR_COUNT 0 + 1) % 2 ^ 64) ∧
  (∀ s : State, s.dev.host.perst = false →
    Completes .hostLostPerst s fun t => t.host.lost = true ∧ t.host.perst = true ∧ t.host.d3hot = []) ∧
  (∀ s : State, s.dev.host.lost = false →
    Completes .hostLinkLost s fun t => t.host.lost = true ∧ t.f0 .DMA_LINK_DL_UP = 0) ∧
  (∀ (f : Fin 4) (off : BitVec 24) (s : State), s.dev.host.lost = false →
    Completes (.hostPoisonedWrite f off) s fun t => t.host.aerUncorr = s.dev.host.aerUncorr + 1 ∧
      t.ctr .DMA_HOST_VIOLATIONS 0 = (s.dev.ctr .DMA_HOST_VIOLATIONS 0 + 1) % 2 ^ 64) ∧
  (∀ (m : Master) (i : Fin 16) (v : BitVec 32) (s : State), s.dev.Open m (Reg.INT_PEND.addr i 0) →
    s.dev.f1 .INT_PEND i < 2 ^ 32 →
    Completes (.intPendClear m i v) s fun t => (∀ b < 32, bitOf (t.f1 .INT_PEND i) b =
      (bitOf (s.dev.f1 .INT_PEND i) b && !bitOf v.toNat b)) ∧ t.out = s.dev.out) ∧
  (∀ (m : Master) (i : Fin 16) (v : BitVec 32) (s : State), s.dev.Open m (Reg.INT_MASK.addr i 0) →
    Completes (.intMaskWrite m i v) s fun t => t.f1 .INT_MASK i = v.toNat ∧ t.f1 .INT_PEND i = s.dev.f1 .INT_PEND i) ∧
  (∀ (m : Master) (i : Fin 16) (v : BitVec 32) (s : State), s.dev.Open m (Reg.INT_MASK.addr i 0) →
    (∀ b < 32, bitOf (s.dev.f1 .INT_PEND i) b = false) →
    exec (.intMaskWrite m i v) s = .next (s.on ((s.dev.set1 .INT_MASK i v.toNat).complete (.ok 0))))

/-- An adjustment through a port of the servo's rank or with the servo off waits for F_s, the first multiple of 256 ticks at
least 512 ticks ahead, under the next epoch identifier; at F_s a SET time stands, a STEP has moved the time by its step, and a
RATE change has moved it by no more than the flooring of one unit (R321 to R324); an undefined OP is refused. -/
def Obligations.AdjustmentsWait : Prop :=
  let free (m : Master) (s : State) := s.dev.Open m (Reg.TIM_ADJ_CMD.addr 0 0) ∧ s.dev.b0 .TIM_ADJ_CMD_BUSY = false ∧
    (s.dev.b0 .TIM_CTRL_SERVO_EN = false ∨ m.val < 4)
  let waits (s : State) (t : Dev) (e : Epoch) := t.tim.pending = some e ∧ t.f0 .TIM_ADJ_CMD_BUSY = 1 ∧
    e.id = (s.dev.tim.cur + 1) % 256 ∧ e.frcStart % 256 = 0 ∧ s.dev.tim.frc + 512 ≤ e.frcStart ∧
    e.frcStart < s.dev.tim.frc + 768
  (∀ (m : Master) (s : State), free m s → s.dev.f0 .TIM_ADJ_NS < 1000000000 → s.dev.f0 .TIM_ADJ_FRAC < 65536 →
    s.dev.f0 .TIM_ADJ_SEC_HI < 2 ^ 32 → s.dev.f0 .TIM_ADJ_SEC_LO < 2 ^ 32 →
    Completes (.timAdjSet m) s fun t => ∃ e, waits s t e ∧ e.rate = s.dev.epochNow.rate ∧
      ptpSplit (ptpUnits e (8 * e.frcStart)) =
        (s.dev.f0 .TIM_ADJ_SEC_HI * 2 ^ 32 + s.dev.f0 .TIM_ADJ_SEC_LO, s.dev.f0 .TIM_ADJ_NS, s.dev.f0 .TIM_ADJ_FRAC)) ∧
  (∀ (m : Master) (s : State), free m s →
    Completes (.timAdjStep m) s fun t => ∃ e, waits s t e ∧ e.rate = s.dev.epochNow.rate ∧
      ptpSplit (ptpUnits e (8 * e.frcStart)) =
        ptpSplit (ptpUnits s.dev.epochNow (8 * e.frcStart) + (s.dev.adjustRegs 2).time)) ∧
  (∀ (m : Master) (s : State), free m s → (s.dev.adjustRegs 3).rate.natAbs ≤ 281474977 →
    Completes (.timAdjRate m) s fun t => ∃ e, waits s t e ∧ e.rate = (s.dev.adjustRegs 3).rate ∧ ∃ x : Nat, x ≤ 1 ∧
      ptpSplit (ptpUnits e (8 * e.frcStart) + x) = ptpSplit (ptpUnits s.dev.epochNow (8 * e.frcStart))) ∧
  (∀ (m : Master) (s : State), free m s → (s.dev.adjustRegs 4).rate.natAbs ≤ 281474977 →
    Completes (.timAdjStepRate m) s fun t => ∃ e, waits s t e ∧ e.rate = (s.dev.adjustRegs 4).rate ∧ ∃ x : Nat, x ≤ 1 ∧
      ptpSplit (ptpUnits e (8 * e.frcStart) + x) =
        ptpSplit (ptpUnits s.dev.epochNow (8 * e.frcStart) + (s.dev.adjustRegs 4).time)) ∧
  (∀ (m : Master) (op : Fin 8) (s : State), free m s → op.val = 0 ∨ 4 < op.val →
    Completes (.timAdjRefused m op) s fun t => t.f0 .TIM_ADJ_CMD_REFUSED = 1 ∧ t.tim = s.dev.tim ∧ t.reg.last = .ok 0)

/-- At F_s the pending epoch opens and enters the table; a good full value of the time bus frees its lane die, a bad one makes
the die wait and is counted; a conversion of a capture whose epoch stands gives its time by R321 (R323, R326, R328, R329). -/
def Obligations.EpochsAndTimeBus : Prop :=
  (∀ (e : Epoch) (s : State), s.dev.tim.pending = some e → e.frcStart ≤ s.dev.tim.frc → s.dev.tim.stopped = false →
    s.dev.tim.zeroDue = false →
    Completes .epochSwitch s fun t => t.tim.cur = e.id ∧ Map.get none t.tim.epochs (e.id % 16) = some e ∧
      t.tim.pending = none ∧ t.f0 .TIM_ADJ_CMD_BUSY = 0 ∧ t.tim.frc = s.dev.tim.frc ∧
      t.ctr .TIM_EPOCHS_OPENED 0 = (s.dev.ctr .TIM_EPOCHS_OPENED 0 + 1) % 2 ^ 64) ∧
  (∀ (n : Region) (s : State), s.dev.tim.stopped = false →
    Completes (.timeBusFullValue n true) s fun t => n.val ∉ t.tim.awaiting ∧ Map.get 0 t.tim.goodAt n = s.dev.tim.frc) ∧
  (∀ (n : Region) (s : State), s.dev.tim.stopped = false →
    Completes (.timeBusFullValue n false) s fun t => n.val ∈ t.tim.awaiting ∧ t.stamps n = false ∧
      t.ctr .TIM_TIME_BUS_ERR 0 = (s.dev.ctr .TIM_TIME_BUS_ERR 0 + 1) % 2 ^ 64 ∧
      (2 ≤ ((Map.get [] s.dev.tim.busErrs n).filter (fun a => decide (s.dev.now < a + tSec))).length →
        bitOf (t.f0 .TIM_STATUS_BUS_FAULT) n = true)) ∧
  (∀ (m : Master) (epoch : Fin 256) (sub : Fin 8) (e : Epoch) (s : State), s.dev.Open m (Reg.TIM_CONV_CMD.addr 0 0) →
    Map.get none s.dev.tim.epochs (epoch.val % 16) = some e → e.id = epoch.val → s.dev.tim.cur = epoch.val →
    e.frcStart ≤ (s.dev.convBank m).frcHi * 2 ^ 32 + (s.dev.convBank m).frcLo →
    Completes (.timConv m epoch sub) s fun t =>
      let b := t.convBank m
      b.done = true ∧ b.expired = false ∧
        (b.sec, b.ns, b.frac) =
          ptpSplit (ptpUnits e (((s.dev.convBank m).frcHi * 2 ^ 32 + (s.dev.convBank m).frcLo) * 8 + sub)))

/-- Pulse outputs: MODE 0 disarms and drives the output low; a one-shot arming at least 1 us ahead and a
periodic one that has not begun are armed; its edge raises the
output for WIDTH and the fall lowers it (R342). -/
def Obligations.PulseOutputs : Prop :=
  (∀ (m : Master) (k : Fin 4) (locked : Bool) (sub : Fin 8) (s : State), s.dev.Open m (Reg.TIM_PULSE_CFG.addr k 0) →
    Completes (.pulseArm m k 0 locked sub) s fun t => t.f1 .TIM_PULSE_CFG_MODE k = 0 ∧ (t.pulse k).armed = false ∧
      (t.pulse k).high = false ∧ t.reg.last = .ok 0) ∧
  (∀ (m : Master) (k : Fin 4) (locked : Bool) (sub : Fin 8) (s : State), s.dev.Open m (Reg.TIM_PULSE_CFG.addr k 0) →
    32 ≤ s.dev.f1 .TIM_PULSE_WIDTH k →
    ptpUnits s.dev.epochNow s.dev.frc67 + 65536000 ≤
      timeUnits (s.dev.f1 .TIM_PULSE_START_SEC_HI k * 2 ^ 32 + s.dev.f1 .TIM_PULSE_START_SEC_LO k)
        (s.dev.f1 .TIM_PULSE_START_NS k) 0 + (sub.val * 20480 : Nat) →
    Completes (.pulseArm m k 1 locked sub) s fun t => t.f1 .TIM_PULSE_CFG_MODE k = 1 ∧ (t.pulse k).armed = true ∧
      (t.pulse k).done = false ∧ (t.pulse k).next = 0) ∧
  (∀ (m : Master) (k : Fin 4) (locked : Bool) (sub : Fin 8) (s : State), s.dev.Open m (Reg.TIM_PULSE_CFG.addr k 0) →
    s.dev.pulseRanges k 2 = true → ptpUnits s.dev.epochNow s.dev.frc67 ≤
      timeUnits (s.dev.f1 .TIM_PULSE_START_SEC_HI k * 2 ^ 32 + s.dev.f1 .TIM_PULSE_START_SEC_LO k)
        (s.dev.f1 .TIM_PULSE_START_NS k) 0 + (sub.val * 20480 : Nat) →
    Completes (.pulseArm m k 2 locked sub) s fun t => t.f1 .TIM_PULSE_CFG_MODE k = 2 ∧ (t.pulse k).armed = true ∧
      (t.pulse k).done = false ∧ (t.pulse k).next = 0) ∧
  (∀ (m : Master) (k : Fin 4) (locked : Bool) (sub : Fin 8) (s : State), s.dev.Open m (Reg.TIM_PULSE_CFG.addr k 0) →
    exec (.pulseArm m k 3 locked sub) s = .next (s.on (s.dev.complete (.ok 0)))) ∧
  (∀ (k : Fin 4) (s : State), (s.dev.pulse k).armed = true → s.dev.tim.stopped = false →
    0 ≤ s.dev.edgeAt k (s.dev.pulse k).next → s.dev.edgeAt k (s.dev.pulse k).next ≤ s.dev.frc67 →
    s.dev.boot.committed = true → s.dev.forwards = true → s.dev.b1 .TIM_PULSE_CFG_LOCKED_ONLY k = false →
    Completes (.pulseEdge k) s fun t => (t.pulse k).high = true ∧
      ((t.pulse k).fall : Int) = s.dev.edgeAt k (s.dev.pulse k).next + s.dev.f1 .TIM_PULSE_WIDTH k) ∧
  (∀ (k : Fin 4) (s : State), (s.dev.pulse k).high = true → (s.dev.pulse k).fall ≤ s.dev.frc67 →
    Completes (.pulseFall k) s fun t => (t.pulse k).high = false ∧ t.flds = s.dev.flds)

/-- Edges captured on an input enter its 16-entry FIFO, a seventeenth is lost and sets OVF; reading the POP registers takes the
oldest entry of a capture FIFO or of a time-stamp queue; FLUSH empties the FIFO (R335, R336, R345). -/
def Obligations.CapturesAndTimeStamps : Prop :=
  (∀ (i : Fin 2) (rising : Bool) (sub : Fin 8) (s : State), s.dev.boot.committed = true → s.dev.tim.stopped = false →
    bitOf (s.dev.f1 .TIM_CAP_CFG_EDGE i) (if rising then 0 else 1) = true →
    (Map.get [] s.dev.tim.caps i).length < 16 →
    Completes (.captureInputEdge i rising sub) s fun t => Map.get [] t.tim.caps i =
      Map.get [] s.dev.tim.caps i ++ [⟨⟨s.dev.tim.frc, sub, s.dev.epochAt s.dev.tim.frc, true⟩, rising⟩]) ∧
  (∀ (i : Fin 2) (rising : Bool) (sub : Fin 8) (s : State), s.dev.boot.committed = true → s.dev.tim.stopped = false →
    bitOf (s.dev.f1 .TIM_CAP_CFG_EDGE i) (if rising then 0 else 1) = true →
    16 ≤ (Map.get [] s.dev.tim.caps i).length →
    Completes (.captureInputEdge i rising sub) s fun t => t.tim.caps = s.dev.tim.caps ∧ t.f1 .TIM_CAP_CFG_OVF i = 1 ∧
      t.ctr .TIM_CAP_OVF 0 = (s.dev.ctr .TIM_CAP_OVF 0 + 1) % 2 ^ 64) ∧
  (∀ (m : Master) (i : Fin 2) (x : EdgeCap) (rest : List EdgeCap) (s : State), s.dev.Open m (Reg.TIM_CAP_POP.addr i 0) →
    Map.get [] s.dev.tim.caps i = x :: rest →
    Completes (.capPop m i) s fun t => Map.get [] t.tim.caps i = rest ∧
      t.reg.last = .ok (2 ^ 31 + b2n x.rising * 2 ^ 30 + x.cap.sub * 2 ^ 24 + x.cap.epoch) ∧
      t.latched m .TIM_CAP_FRC_LO i 0 = x.cap.frc % 2 ^ 32 ∧
      t.latched m .TIM_CAP_FRC_HI i 0 = x.cap.frc / 2 ^ 32 % 2 ^ 32) ∧
  (∀ (m : Master) (i : Fin 2) (s : State), s.dev.Open m (Reg.TIM_CAP_CFG.addr i 0) →
    Completes (.capFlush m i) s fun t => Map.get [] t.tim.caps i = [] ∧ t.flds = s.dev.flds ∧ t.ctrs = s.dev.ctrs) ∧
  (∀ (m : Master) (g : Fin 32) (x : TxTs) (rest : List TxTs) (s : State), s.dev.Open m (Reg.TIM_TXTS_POP.addr g 0) →
    Map.get [] s.dev.tim.txts g = x :: rest → x.firmware = false →
    Completes (.txtsPop m g) s fun t => Map.get [] t.tim.txts g = rest ∧
      t.reg.last = .ok (2 ^ 31 + b2n (!x.cap.valid) * 2 ^ 30 + x.portIn * 2 ^ 28 + x.cap.sub * 2 ^ 24 +
        x.cap.epoch * 2 ^ 16 + x.id) ∧
      t.latched m .TIM_TXTS_FRC_LO g 0 = x.cap.frc % 2 ^ 32 ∧
      t.latched m .TIM_TXTS_FRC_HI g 0 = x.cap.frc / 2 ^ 32 % 2 ^ 32)

/-- The firmware's PTP: a Sync received by a slave port is kept, the sixty-fifth message of a type within a second isolates the
port for 10 s and the isolation ends; the servo slews, steps by the measured offset or refuses the jump; ACCEPT_JUMP applies a refused step;
losing the grandmaster follows GM_POLICY; CLOCK_MODE restarts; a message is handed to the port's MAC (R334, R337 to R341, R347). -/
def Obligations.FirmwarePtp : Prop :=
  let hears (p : Port) (s : State) := s.dev.boot.fwRuns = true ∧ s.dev.winter = false ∧ s.dev.ptpPort p = true ∧
    (s.dev.ptpSt p).isolatedUntil = none
  let servo (p : Nat) (s : State) := s.dev.tim.best = some p ∧ s.dev.b0 .TIM_CTRL_SERVO_EN = true ∧ s.dev.winter = false ∧
    s.dev.tim.stopped = false ∧ s.dev.b0 .TIM_ADJ_CMD_BUSY = false
  (∀ (p : Port) (x : PtpMsg) (s : State), hears p s → (s.dev.ptpSt p).state = 2 → x.type = 0 → x.lengthOk = true →
    x.domain = s.dev.ptpDomain → Map.get 0 (s.dev.ptpSt p).msgs 0 < 64 →
    Completes (.ptpRxFirmware p x) s fun t => (t.ptpSt p).sync = some (x.seq, s.dev.now) ∧ t.flds = s.dev.flds ∧
      t.ctrs = s.dev.ctrs) ∧
  (∀ (p : Port) (x : PtpMsg) (s : State), hears p s → s.dev.now < (s.dev.ptpSt p).since + tSec →
    64 ≤ Map.get 0 (s.dev.ptpSt p).msgs x.type →
    Completes (.ptpRxFirmware p x) s fun t => (t.ptpSt p).isolatedUntil = some (s.dev.now + 10 * tSec) ∧
      t.ctr .TIM_PTP_ISOLATED 0 = (s.dev.ctr .TIM_PTP_ISOLATED 0 + 1) % 2 ^ 64) ∧
  (∀ (p : Port) (a : Nat) (s : State), (s.dev.ptpSt p).isolatedUntil = some a → a ≤ s.dev.now →
    Completes (.ptpIsolateEnd p) s fun t => (t.ptpSt p).isolatedUntil = none) ∧
  (∀ (p : Nat) (off rate : Int) (locked : Bool) (s : State), servo p s →
    off.natAbs < s.dev.f0 .TIM_JUMP_LIMIT * 65536 → rate.natAbs ≤ 281474977 →
    Completes (.ptpServoUpdate off rate locked) s fun t => (t.tim.pending.map (·.rate)) = some rate ∧ t.tim.step = none ∧
      t.f0 .TIM_STATUS_STATE = b2n locked ∧ t.f0 .TIM_ADJ_CMD_BUSY = 1) ∧
  (∀ (p : Nat) (off rate : Int) (locked : Bool) (s : State), servo p s → s.dev.f0 .TIM_JUMP_LIMIT * 65536 ≤ off.natAbs →
    (s.dev.tim.lockedOnce = false ∨ s.dev.b0 .TIM_GM_POLICY_REFUSE_JUMP = false) →
    Completes (.ptpServoUpdate off rate locked) s fun t => t.tim.step = some (-off, 0) ∧ t.f0 .TIM_ADJ_CMD_BUSY = 1) ∧
  (∀ (p : Nat) (off rate : Int) (locked : Bool) (s : State), servo p s → s.dev.f0 .TIM_JUMP_LIMIT * 65536 ≤ off.natAbs →
    s.dev.tim.lockedOnce = true → s.dev.b0 .TIM_GM_POLICY_REFUSE_JUMP = true →
    Completes (.ptpServoUpdate off rate locked) s fun t => t.tim.jump = some (-off) ∧ t.f0 .TIM_STATUS_STATE = 3 ∧
      t.tim.pending = s.dev.tim.pending ∧ t.ctr .TIM_JUMP_REFUSED 0 = (s.dev.ctr .TIM_JUMP_REFUSED 0 + 1) % 2 ^ 64) ∧
  (∀ (p : Nat) (s : State), s.dev.tim.best = some p → s.dev.winter = false → s.dev.tim.stopped = false →
    Completes .gmLost s fun t => t.tim.best = none ∧ t.tim.jump = none ∧
      t.f0 .TIM_STATUS_STATE = if s.dev.b0 .TIM_GM_POLICY_FREE_RUN then 2 else 0) ∧
  (∀ (m : Master) (x : Int) (s : State), s.dev.Open m (Reg.TIM_CTRL.addr 0 0) → s.dev.tim.jump = some x →
    s.dev.f0 .TIM_STATUS_STATE = 3 → s.dev.b0 .TIM_ADJ_CMD_BUSY = false →
    Completes (.acceptJump m) s fun t => t.tim.jump = none ∧ t.tim.step = some (x, 0) ∧ t.f0 .TIM_STATUS_STATE = 0) ∧
  (∀ (m : Master) (mode : Fin 2) (s : State), s.dev.Open m (Reg.TIM_CTRL.addr 0 0) →
    Completes (.clockModeWrite m mode) s fun t => t.f0 .TIM_CTRL_CLOCK_MODE = mode.val ∧ t.tim.best = none ∧
      t.reg.last = .ok 0) ∧
  (∀ (p : Port) (twoStep : Bool) (req : Nat) (s : State), hears p s → s.dev.linkUp p = true →
    s.dev.b0 .TIM_CTRL_CLOCK_MODE = true → (s.dev.ptpSt p).state = 1 →
    Completes (.ptpMessageSend p 0xB twoStep req) s fun t =>
      (t.ptpSt p).txSeq = ((s.dev.ptpSt p).txSeq + 1) % 65536 ∧
        ∃ x ∈ t.ownFrames p, x.proto = 3 ∧ x.type = 0xB ∧ x.fields = [(s.dev.ptpSt p).txSeq, b2n twoStep, req])

/-- A full reset: its commands and pins start it only where their rule lets them, the flush ends, and the internal reset takes
hold, with CLK_RST_CAUSE naming the cause and nothing left but what the hold store and the fuses keep (R75, R76, R398). -/
def Obligations.FullResets : Prop :=
  let idle (s : State) := s.dev.boot.inReset = false ∧ s.dev.boot.resetCause = none
  (∀ (ns : Nat) (s : State), s.dev.boot.powered = true → 1000 ≤ ns → idle s →
    Completes (.sysResetAssert ns) s fun t => t.pins.resetLow = true ∧ t.boot.resetCause = some 1 ∧
      t.boot.flushAt.isSome = true ∧ t.pins.safeN = true) ∧
  (∀ (m : Master) (s : State), s.dev.Open m (Reg.CLK_RST_CMD.addr 0 0) → m.val = 4 ∨ m.val = 8 → idle s →
    Completes (.clkRstCmdFull m 0xA5) s fun t => t.boot.resetCause = some (if m.val = 4 then 2 else 3) ∧
      t.boot.flushAt.isSome = true ∧ t.reg.last = .ok 0) ∧
  (∀ (c : Nat) (s : State), s.dev.boot.resetCause = some c → c ≤ 4 → s.dev.boot.inReset = false →
    s.dev.boot.flushDone = true → (c = 1 → s.dev.pins.resetLow = true) →
    Completes .fullResetTakeHold s fun t => t.boot.inReset = true ∧ t.boot.romRuns = false ∧ t.boot.fwRuns = false ∧
      t.boot.committed = false ∧ t.f0 .CLK_RST_CAUSE_CAUSE = c ∧
      t.f0 .CLK_RST_CAUSE_WINTER_BEFORE = b2n s.dev.boot.winterBefore ∧ t.ctrs = [] ∧ t.evr.area = s.dev.evr.area ∧
      t.hld.commitA = s.dev.hld.commitA ∧ t.hld.commitB = s.dev.hld.commitB ∧
      t.f0 .CLK_POWER_CYCLES = s.dev.f0 .CLK_POWER_CYCLES % 2 ^ 32) ∧
  (∀ (s : State) (a : Nat), s.dev.boot.flushAt = some a → s.dev.boot.flushDone = false →
    Completes .powerFailFlushDone s fun t => t.boot.flushDone = true ∧ t.act.capFifo = []) ∧
  (∀ s : State, s.dev.boot.powered = true →
    Completes (.jtagInstruction false) s fun t => t.pins.jtag = 0 ∧ t.boot = s.dev.boot) ∧
  (∀ s : State, s.dev.boot.powered = true → idle s →
    Completes (.jtagInstruction true) s fun t => t.pins.jtag = 1 ∧ t.boot.resetCause = some 6)

/-- Releases latch BOOT_SEL and start the boot ROM; with PFAIL_N asserted, or deasserted for less than 10 ms, the ROM waits until
it has been deasserted for 10 ms (R79, R517).
Power: power-good counts a power cycle and holds the device in reset; a PFAIL_N low for 200 ns starts the flush and freezes
the hold writer; withdrawn after it, the reset goes on; lost power keeps only the hold store and the fuses (R75, R77, R304,
R516 to R519). -/
def Obligations.ReleasesAndPower : Prop :=
  (let quiet (s : State) := s.dev.pins.jtag = 0 ∧ s.dev.pins.pfail = false ∧ s.dev.boot.pfailHighAt = none
  let runs (s : State) (sel : Nat) (t : Dev) := t.boot.romRuns = true ∧ t.boot.inReset = false ∧ t.boot.t0 = s.dev.now ∧
    t.boot.resetCause = none ∧ t.f0 .CLK_BOOT_STATUS_STRAP = sel
  (∀ (sel : Fin 8) (s : State), s.dev.boot.powered = true → s.dev.pins.resetLow = true → s.dev.boot.inReset = true →
    s.dev.boot.resetCause = some 1 → quiet s →
    Completes (.sysResetRelease sel) s fun t => runs s sel t ∧ t.pins.resetLow = false) ∧
  (∀ (sel : Fin 8) (a : Nat) (s : State), s.dev.boot.powered = true → s.dev.boot.inReset = true →
    s.dev.boot.resetCause = some 0 → s.dev.pins.resetLow = false → s.dev.boot.powerGoodAt = some a →
    a + 10 * tMs ≤ s.dev.now → quiet s →
    Completes (.powerGoodReleaseTimer sel) s fun t => runs s sel t) ∧
  (∀ (sel : Fin 8) (c : Nat) (s : State), s.dev.boot.powered = true → s.dev.boot.inReset = true →
    s.dev.boot.resetCause = some c → c = 2 ∨ c = 3 ∨ c = 4 → s.dev.pins.resetLow = false → quiet s →
    Completes (.internalResetRelease sel) s fun t => runs s sel t) ∧
  (∀ (sel : Fin 8) (s : State), s.dev.boot.powered = true → s.dev.boot.inReset = true → s.dev.boot.resetCause = some 2 →
    s.dev.pins.resetLow = false → s.dev.pins.jtag = 0 → s.dev.pins.pfail = true →
    Completes (.internalResetRelease sel) s fun t => t.boot.inReset = true ∧ t.boot.romRuns = s.dev.boot.romRuns ∧
      t.boot.resetCause = none) ∧
  (∀ (a : Nat) (s : State), s.dev.boot.powered = true → s.dev.boot.inReset = true → s.dev.boot.resetCause = none →
    s.dev.pins.pfail = false → s.dev.pins.jtag = 0 → s.dev.boot.pfailHighAt = some a → a + 10 * tMs ≤ s.dev.now →
    Completes .bootStartAfterPfail s fun t => t.boot.romRuns = true ∧ t.boot.inReset = false ∧ t.boot.t0 = s.dev.now)) ∧
  (∀ (low : Bool) (s : State), s.dev.boot.powered = false → s.dev.f0 .CLK_POWER_CYCLES < 2 ^ 32 - 1 →
    Completes (.powerOnReset low) s fun t => t.boot.powered = true ∧ t.boot.inReset = true ∧
      t.boot.resetCause = some 0 ∧ t.boot.powerGoodAt = some s.dev.now ∧ t.pins.resetLow = low ∧
      t.f0 .CLK_POWER_CYCLES = s.dev.f0 .CLK_POWER_CYCLES + 1) ∧
  (∀ (ns : Nat) (late : Bool) (s : State), s.dev.boot.powered = true → s.dev.pins.pfail = false → 200 ≤ ns →
    s.dev.boot.inReset = false → s.dev.boot.flushDone = false → s.dev.boot.flushAt = none →
    Completes (.pfailAssert ns late) s fun t => t.pins.pfail = true ∧ t.boot.flushAt = some s.dev.now ∧
      t.hld.frozen = true ∧ t.act.capFifo = []) ∧
  (∀ (a : Nat) (s : State), s.dev.pins.pfail = true → s.dev.boot.flushAt = some a → s.dev.boot.inReset = false →
    s.dev.boot.resetCause = none →
    Completes .pfailDeassert s fun t => t.pins.pfail = false ∧ t.boot.pfailHighAt = some s.dev.now ∧
      t.boot.resetCause = some 5) ∧
  (∀ s : State, s.dev.boot.powered = true →
    Completes .powerLost s fun t => t.boot.powered = false ∧ t.boot.fwRuns = false ∧ t.buf = { BufSt.reset with spares := s.dev.buf.spares } ∧
      t.evr.fifo = [] ∧ t.evr.area = s.dev.evr.area ∧ t.hld.commitA = s.dev.hld.commitA ∧ t.img.slots = s.dev.img.slots)

/-- Boot sources: with the root clock there, firmware starts from the host, SPI flash or the first good slot as BOOT_SEL says; with
no source, or a strap that names the host, the ROM waits for the host; GO of a well-formed host load is BUSY until its load is done;
the verified image commits and SPRING goes on with region bring-up (R66, R80 to R82, Table 3-11).
SPRING: a check that passes is counted and moves PHASE; the store is mounted; a failed check 1 or 2 enters WINTER;
with eight checks passed the device enters SUMMER, or AUTUMN with an AUTUMN cause; a start of more than 60 s is reported (R87 to R90, R305). -/
def Obligations.BootAndSpring : Prop :=
  (let rom (s : State) := s.dev.romReady = true ∧ s.dev.boot.hostFw = none ∧ s.dev.boot.waitFw = false
  let starts (src slot v : Nat) (t : Dev) := t.boot.fwRuns = true ∧ t.boot.waitFw = false ∧
    t.f0 .CLK_BOOT_STATUS_FW_SOURCE = src ∧ t.f0 .CLK_BOOT_STATUS_FW_SLOT = slot ∧ t.f0 .GLB_FW_VERSION = v % 2 ^ 32 ∧
    t.f0 .MBX_STATUS_FW_UP = 1
  (∀ (a b : Option (Nat × Bool)) (spi : Spi) (lost : List (Nat × Nat × Nat)) (v : Nat) (s : State), s.dev.romReady = true →
    s.dev.boot.hostFw = some v →
    Completes (.firmwareStart a b spi lost) s fun t => starts 2 0 v t ∧ t.boot.hostFw = none) ∧
  (∀ (a b : Option (Nat × Bool)) (spi : Spi) (lost : List (Nat × Nat × Nat)) (v : Nat) (s : State), rom s →
    s.dev.f0 .CLK_BOOT_STATUS_STRAP = 1 → spi.fw = some v → (spiLength spi).isSome = true →
    Completes (.firmwareStart a b spi lost) s fun t => starts 1 0 v t) ∧
  (∀ (a b : Option (Nat × Bool)) (spi : Spi) (lost : List (Nat × Nat × Nat)) (slot v : Nat) (s : State), rom s →
    s.dev.f0 .CLK_BOOT_STATUS_STRAP = 0 ∨ s.dev.f0 .CLK_BOOT_STATUS_STRAP = 3 → s.dev.storeDead = false →
    (fwOrder a b).find? (fun x => x.2.2) = some (slot, v, true) →
    Completes (.firmwareStart a b spi lost) s fun t => starts 0 slot v t) ∧
  (∀ (a b : Option (Nat × Bool)) (spi : Spi) (lost : List (Nat × Nat × Nat)) (s : State), rom s →
    (s.dev.f0 .CLK_BOOT_STATUS_STRAP = 2 ∨ 4 ≤ s.dev.f0 .CLK_BOOT_STATUS_STRAP) ∨
      (s.dev.f0 .CLK_BOOT_STATUS_STRAP = 0 ∧ (s.dev.storeDead = true ∨ (fwOrder a b).all (fun x => !x.2.2) = true)) →
    Completes (.firmwareStart a b spi lost) s fun t => t.boot.waitFw = true ∧ t.f0 .CLK_BOOT_STATUS_PHASE = 2 ∧
      t.boot.fwRuns = false) ∧
  (∀ (m : Master) (s : State), s.dev.Open m (Reg.CLK_BOOT_FW_CMD.addr 0 0) → s.dev.waitsForHost = true →
    s.dev.b0 .CLK_BOOT_FW_CMD_BUSY = false → 0 < s.dev.f0 .CLK_BOOT_FW_LEN →
    s.dev.f0 .CLK_BOOT_FW_LEN ≤ 67108864 → s.dev.f0 .CLK_BOOT_FW_LO % 64 = 0 →
    Completes (.hostFwLoad m) s fun t => t.f0 .CLK_BOOT_FW_CMD_BUSY = 1 ∧ t.f0 .CLK_BOOT_FW_CMD_ERR = 0 ∧
      t.reg.last = .ok 0) ∧
  (∀ (version : Nat) (s : State), s.dev.b0 .CLK_BOOT_FW_CMD_BUSY = true → s.dev.fwReading = false →
    Completes (.hostFwLoadDone true (s.dev.f0 .CLK_BOOT_FW_LEN) version true) s fun t =>
      t.boot.hostFw = some version ∧ t.f0 .CLK_BOOT_FW_CMD_BUSY = 0 ∧ t.f0 .CLK_BOOT_FW_CMD_ERR = 0 ∧
      t.f0 .CLK_BOOT_FW_CMD_REASON = 0) ∧
  (∀ (src slot : Nat) (img : Bytes) (s : State), s.dev.img.next = some (src, slot, img) → s.dev.boot.fwRuns = true →
    s.dev.spring = true →
    Completes .imageCommit s fun t => t.boot.committed = true ∧ t.img.image = img ∧ t.img.next = none ∧
      t.f0 .CLK_BOOT_STATUS_PHASE = 6)) ∧
  (let inSpring (s : State) := s.dev.spring = true ∧ s.dev.boot.committed = true ∧ s.dev.boot.waitImg = false ∧
    s.dev.boot.inReset = false
  (∀ (mask : Fin 16) (s : State), inSpring s → s.dev.boot.checks = 0 ∨ s.dev.boot.checks = 1 →
    Completes (.springCheck true mask) s fun t => t.boot.checks = s.dev.boot.checks + 1 ∧
      t.f0 .CLK_BOOT_STATUS_PHASE = 6 ∧ t.evr = s.dev.evr) ∧
  (∀ (ok : Bool) (mask : Fin 16) (s : State), inSpring s → s.dev.boot.checks ∈ [2, 3, 4] →
    Completes (.springCheck ok mask) s fun t => t.boot.checks = s.dev.boot.checks + 1 ∧
      t.f0 .CLK_BOOT_STATUS_PHASE = [6, 7, 8].getD (s.dev.boot.checks - 2) 0) ∧
  (∀ (mask : Fin 16) (s : State), inSpring s → s.dev.boot.checks = 0 ∨ s.dev.boot.checks = 1 →
    Completes (.springCheck false mask) s fun t => t.winter = true ∧ t.b0 .HLT_CAUSE_CONFIG = true) ∧
  (∀ (mask : Fin 16) (s : State), inSpring s → s.dev.boot.checks = 7 → s.dev.pairChecked = true →
    Completes (.springCheck true mask) s fun t => t.boot.checks = 8 ∧ t.f0 .CLK_BOOT_STATUS_PHASE = 8) ∧
  (∀ (okA okB calA calB : Bool) (s : State), s.dev.spring = true → s.dev.boot.committed = true →
    s.dev.hld.mounted = false → s.dev.hld.outOfService = false → s.dev.refindDies.hld.outOfService = false →
    Completes (.holdMount okA okB calA calB) s fun t => t.hld.mounted = true ∧ t.hld.frozen = false ∧
      t.f0 .HLD_STATUS_MOUNTED = 1) ∧
  (∀ s : State, inSpring s → s.dev.boot.checks = 8 → s.dev.img.trial.all (fun x => decide (s.dev.now ≤ x.2)) = true →
    Completes .springLeft s fun t => t.health = (if s.dev.autumnWord = 0 then 1 else 2) ∧ t.pins.safeN = false ∧ t.f0 .CLK_BOOT_STATUS_PHASE = 9) ∧
  (∀ s : State, s.dev.spring = true → s.dev.boot.romRuns = true → s.dev.boot.inReset = false →
    s.dev.boot.lastStall = none → s.dev.boot.t0 + 60 * tSec ≤ s.dev.now → s.dev.evr.fifo.length < 3800 →
    Completes .springStalled s fun t => t.boot.lastStall = some s.dev.now ∧
      ∃ r ∈ t.evr.fifo, r.code = .SPRING_STALLED))

/-- WINTER is entered on the request of an allowed master with its key and on a watchdog; the sequence ends with its latency
recorded; software clears a cause that has gone; an exit that R403 accepts leads to SPRING with the frozen frames discarded, any other
is refused with its reason; a restarted core 0 brings the firmware domain up (R400 to R406, R478). -/
def Obligations.WinterEntryAndExit : Prop :=
  (∀ (m : Master) (s : State), s.dev.Open m (Reg.HLT_WINTER_REQ.addr 0 0) → m.val = 4 ∨ m.val = 8 → s.dev.winter = false →
    Completes (.winterReq m 0xC3 true) s fun t => t.health = 3 ∧ t.f0 .HLT_STATE_PREV = s.dev.health % 4 ∧
      t.b0 (if m.val = 4 then .HLT_CAUSE_HOST_REQUEST else .HLT_CAUSE_SMBUS_REQUEST) = true ∧
      t.pins.safeN = true ∧ t.pins.alertN = true ∧ t.pins.leaseOut = false ∧ t.buf.frozen = true) ∧
  (∀ (core : Fin 4) (s : State),
    Completes (.watchdogExpired core) s fun t => t.health = 3 ∧ t.b0 .HLT_CAUSE_WATCHDOG = true ∧
      bitOf (t.f0 .HLT_WDOG_CORE_EXPIRED) core = true ∧ core.val ∈ t.mbx.coreDown) ∧
  (∀ (core : Fin 4) (s : State), core.val ∈ s.dev.mbx.coreDown →
    Completes (.coreRestartDone core) s fun t => core.val ∉ t.mbx.coreDown ∧
      (if core.val = 0 then t.f0 .MBX_STATUS_FW_UP = 1 else t.flds = s.dev.flds)) ∧
  (∀ (a : Nat) (s : State), s.dev.hlt.detect = some a →
    Completes .winterSequenceDone s fun t => t.hlt.detect = none ∧
      t.f0 .HLT_WINTER_LAT = (s.dev.now - a) * 5 / 2 % 2 ^ 32) ∧
  (∀ (m : Master) (w : BitVec 32) (s : State), s.dev.Open m (Reg.HLT_CAUSE.addr 0 0) →
    Completes (.hltCauseClear m w) s fun t => t.reg.last = .ok 0 ∧
      (∀ f ∈ clearableCauses, t.fld f 0 0 =
        if bitOf w.toNat f.lo = true ∧ s.dev.causePresent f = false then 0 else s.dev.fld f 0 0) ∧
      t.f0 .HLT_CAUSE_CORE_FATAL = s.dev.f0 .HLT_CAUSE_CORE_FATAL ∧ t.f0 .HLT_CAUSE_D2D_LINK = s.dev.f0 .HLT_CAUSE_D2D_LINK) ∧
  (∀ (m : Master) (spi : Spi) (lost : List (Nat × Nat × Nat)) (id : Nat) (key c : Bytes) (s : State),
    s.dev.Open m (Reg.HLT_WINTER_EXIT.addr 0 0) → m.val = 4 ∨ m.val = 8 → s.dev.b0 .HLT_WINTER_EXIT_BUSY = false →
    s.dev.winter = true → s.dev.causeWord = 0 → s.dev.credential = some (id, key) → s.dev.challenge m 1 = some c →
    s.dev.exitResponse = response key c 1 → s.dev.f0 .CLK_BOOT_STATUS_IMG_SOURCE = 2 →
    Completes (.winterExit m spi lost) s fun t => t.health = 0 ∧ t.f0 .HLT_WINTER_EXIT_REFUSED = 0 ∧
      t.f0 .HLT_WINTER_EXIT_REASON = 0 ∧ t.buf.queues = [] ∧ t.buf.macq = [] ∧ t.buf.frozen = false ∧ t.hld.frozen = false ∧
      t.boot.waitImg = true ∧ t.boot.t0 = s.dev.now) ∧
  (∀ (m : Master) (spi : Spi) (lost : List (Nat × Nat × Nat)) (s : State), s.dev.Open m (Reg.HLT_WINTER_EXIT.addr 0 0) →
    pwMaster m = true → s.dev.b0 .HLT_WINTER_EXIT_BUSY = false → s.dev.exitReason m ≠ 0 →
    Completes (.winterExit m spi lost) s fun t => t.f0 .HLT_WINTER_EXIT_REFUSED = 1 ∧
      t.f0 .HLT_WINTER_EXIT_REASON = s.dev.exitReason m ∧ t.health = s.dev.health ∧ t.boot = s.dev.boot)

/-- A plausible temperature sample inside its limits is shown and judged; the second sample in a row at the hard limit means
WINTER; a comparator at 130 C latches THERMTRIP_N; voltage control moves its request by 5 mV towards the target (R407 to
R412). -/
def Obligations.MonitorsAndVoltage : Prop :=
  (∀ (n : Fin 74) (raw : Int) (s : State), n.val ∉ s.dev.hlt.failed → s.dev.monState n = 0 →
    s.dev.plausible n (s.dev.calTemp n raw) = true →
    (s.dev.calTemp n raw < s.dev.tempWarn ∧ s.dev.calTemp n raw < 2000 ∧ -880 ≤ s.dev.calTemp n raw) →
    Completes (.monSample (.temp n raw)) s fun t => t.tempOf n = s.dev.calTemp n raw ∧ t.monState n = 0 ∧
      (t.monSt n).warns = 0 ∧ (t.monSt n).hards = 0 ∧ (t.monSt n).lastAt = s.dev.now ∧ t.evr = s.dev.evr) ∧
  (∀ (n : Fin 74) (raw : Int) (s : State), n.val ∉ s.dev.hlt.failed → s.dev.monState n ≠ 2 → s.dev.winter = false →
    2000 ≤ s.dev.calTemp n raw → 1 ≤ (s.dev.monSt n).hards →
    Completes (.monSample (.temp n raw)) s fun t => t.health = 3 ∧ t.b0 .HLT_CAUSE_THERMAL = true ∧
      t.pins.safeN = true) ∧
  (∀ (x : Fin 52) (s : State), s.dev.pins.thermtripN = false →
    Completes (.thermtrip x) s fun t => t.pins.thermtripN = true ∧ t.f0 .MON_STATUS_THERMTRIP = 1 ∧ t.health = 3 ∧
      t.b0 .HLT_CAUSE_THERMAL = true) ∧
  (∀ s : State, s.dev.avsRuns = true → s.dev.b0 .MON_AVS_CTRL_MODE = false →
    Completes .avsUpdate s fun t => 650 ≤ t.hlt.avsTarget ∧ t.hlt.avsTarget ≤ 800 ∧ t.hlt.avsTarget % 5 = 0 ∧
      t.flds = s.dev.flds) ∧
  (∀ (v : Fin 1024) (s : State), s.dev.avsRuns = true → s.dev.hlt.avsStep + tMs ≤ s.dev.now →
    s.dev.b0 .MON_AVS_CTRL_MODE = false → s.dev.avsReq + 5 ≤ s.dev.hlt.avsTarget → s.dev.hlt.avsTarget ≤ 800 →
    s.dev.avsReq ≤ v.val + 15 → v.val ≤ s.dev.avsReq + 25 →
    Completes (.avsStep true (some v)) s fun t => t.f0 .MON_AVS_STATUS_REQ_MV = s.dev.avsReq + 5 ∧
      t.f0 .MON_AVS_STATUS_READ_MV = v.val ∧ t.hlt.avsFails = 0 ∧ t.b0 .MON_AVS_STATUS_FAULT = false)

/-- A parity pass that finds nothing ends the CONFIG condition unless it persists; one that finds a safety-relevant register bad
means WINTER; user calibrations are written, saved with the next sequence number, cleared, and erased with the key (R413 to
R416). -/
def Obligations.ScrubAndCalibration : Prop :=
  (∀ s : State, Completes (.cfgScrub []) s fun t => t.hlt.cfgBad = s.dev.hlt.cfgStuck ∧ t.flds = s.dev.flds) ∧
  (∀ (off : Fin 16777216) (w : BitVec 32) (r : Reg) (i j : Nat) (s : State), regAt off = some (r, i, j) →
    r.isConfig = true → r.desc.safety = true → off.val ∉ s.dev.hlt.unjudged →
    Completes (.cfgScrub [(off, w)]) s fun t => t.health = 3 ∧ t.b0 .HLT_CAUSE_CONFIG = true ∧ t.hlt.cfgBad = true) ∧
  (∀ (m : Master) (k : Fin 74) (w : BitVec 32) (s : State), s.dev.Open m (0x40100 + 8 * k.val) →
    Completes (.calRegisterWrite m ⟨0x100 + 8 * k.val, by omega⟩ w) s fun t =>
      t.f1 .CAL_TEMP_OFS k = w.toNat % 2 ^ 12 ∧ t.reg.last = .ok 0) ∧
  (∀ (m : Master) (s : State), s.dev.Open m (Reg.CAL_CMD.addr 0 0) → s.dev.b0 .CAL_STATUS_BUSY = false →
    s.dev.hld.mounted = true → s.dev.hld.outOfService = false → s.dev.hld.fenced = false →
    Completes (.calSave m) s fun t => t.f0 .CAL_STATUS_SAVED = 1 ∧
      t.hlt.calSaved = some (s.dev.userDeltas, (s.dev.hlt.calSaved.elim 0 (·.2) + 1) % 2 ^ 32)) ∧
  (∀ (m : Master) (s : State), s.dev.Open m (Reg.CAL_CMD.addr 0 0) → s.dev.b0 .CAL_STATUS_BUSY = false →
    (s.dev.hld.mounted = false ∨ s.dev.hld.outOfService = true ∨ s.dev.hld.fenced = true) →
    Completes (.calSave m) s fun t => t.f0 .CAL_STATUS_SAVE_FAILED = 1 ∧ t.hlt = s.dev.hlt) ∧
  (∀ (m : Master) (s : State), s.dev.Open m (Reg.CAL_CMD.addr 0 0) → s.dev.b0 .CAL_STATUS_BUSY = false →
    Completes (.calClearUser m) s fun t => t.userDeltas = [] ∧ t.hlt = s.dev.hlt ∧ t.ctrs = s.dev.ctrs) ∧
  (∀ (m : Master) (s : State), s.dev.Open m (Reg.CAL_CMD.addr 0 0) → s.dev.b0 .CAL_STATUS_BUSY = false →
    s.dev.hld.mounted = true → s.dev.hld.outOfService = false → s.dev.hld.fenced = false →
    Completes (.calClearSaved m 0x3C) s fun t => t.f0 .CAL_STATUS_SAVED = 0 ∧ t.hlt.calSaved = none)

/-- Slots: a GO that is accepted stores a verified image of the host, marks a stored slot for trial, verifies or erases a slot;
a GO that breaks a rule of Table 2-10 is refused with BAD_COMMAND; a trial that times out makes its slot BAD (R57, R63, R65, R72, R73). -/
def Obligations.ImageSlots : Prop :=
  let goes (m : Master) (c : ImgCmd) (s : State) := s.dev.Open m (Reg.IMG_CMD.addr 0 0) ∧
    s.dev.b0 .IMG_STATUS_BUSY = false ∧ (s.dev.goTaken c).badCommand c = false ∧ (s.dev.goTaken c).imgState c = false
  let taken (c : ImgCmd) (s : State) := (s.dev.goTaken c).set0 .IMG_STATUS_COLLISION 0
  let ended (t : Dev) (reason : Nat) := t.f0 .IMG_STATUS_BUSY = 0 ∧ t.f0 .IMG_STATUS_REASON = reason ∧
    t.f0 .IMG_STATUS_DONE_OK = (if reason = 0 then 1 else 0) ∧ t.reg.last = .ok 0
  (∀ (m : Master) (slot : Fin 4) (img : Bytes) (s : State), goes m ⟨1, slot, 0, false⟩ s →
    s.dev.startedFrom slot = false → s.dev.hostDma 0 = true → img.length = s.dev.f0 .IMG_LEN →
    (taken ⟨1, slot, 0, false⟩ s).verify img img.length .full = none →
    Completes (.imgLoadSlot m slot (some img)) s fun t => ended t 0 ∧
      Map.get none t.img.slots slot = some ⟨img, 1, 1, false⟩ ∧ bitsOf (t.f0 .IMG_SLOT_STATE_STATES) (4 * slot) 4 = 1) ∧
  (∀ (m : Master) (slot : Fin 4) (x : Slot) (s : State), goes m ⟨2, slot, 0, false⟩ s →
    Map.get none s.dev.img.slots slot = some x → x.state = 1 ∨ x.state = 4 →
    (∀ i < 4, i ≠ slot.val → ((Map.get none s.dev.img.slots i).map (·.state)).getD 0 ≠ 3) →
    Completes (.imgMarkTrial m slot) s fun t => ended t 0 ∧
      Map.get none t.img.slots slot = some { x with state := 2, back := x.state } ∧ bitsOf (t.f0 .IMG_SLOT_STATE_STATES) (4 * slot) 4 = 2) ∧
  (∀ (m : Master) (slot : Fin 4) (s : State), goes m ⟨5, slot, 0, false⟩ s → s.dev.startedFrom slot = false →
    Completes (.imgEraseSlot m slot) s fun t => ended t 0 ∧ Map.get none t.img.slots slot = none ∧
      bitsOf (t.f0 .IMG_SLOT_STATE_STATES) (4 * slot) 4 = 0) ∧
  (∀ (m : Master) (slot : Fin 4) (lost : Option (Nat × Nat)) (s : State), goes m ⟨6, slot, 0, false⟩ s →
    (Map.get none s.dev.img.slots slot).isSome = true →
    (taken ⟨6, slot, 0, false⟩ s).verifySlot slot .full ((lost.map (fun r => (slot.val, r))).toList) = none →
    Completes (.imgVerifySlot m slot lost) s fun t => ended t 0 ∧ t.img = s.dev.img) ∧
  (∀ (m : Master) (op : Fin 16) (slot : Fin 4) (mask : Fin 16) (h : Bool) (s : State),
    s.dev.Open m (Reg.IMG_CMD.addr 0 0) → s.dev.b0 .IMG_STATUS_BUSY = false →
    s.dev.badCommand ⟨op, slot, mask, h⟩ = true →
    Completes (.imgBadCommand m op slot mask h) s fun t => ended t 19 ∧ t.img = s.dev.img) ∧
  (∀ (slot a : Nat) (x : Slot) (s : State), s.dev.img.trial = some (slot, a) → a ≤ s.dev.now →
    Map.get none s.dev.img.slots slot = some x →
    Completes .imageTrialTimeout s fun t => t.img.trial = none ∧
      Map.get none t.img.slots slot = some { x with state := 5 })

/-- Reloads, amendments and LOAD_AND_COMMIT of a verified image: a reload waits, its regions take their new sections and keep the
old ones, a bring-up that passes ends it, one that fails puts the old ones back; an amendment is applied and counted; LOAD_AND_COMMIT commits; an uncorrectable section means
WINTER (R61, R67 to R71, R82). -/
def Obligations.ReloadsAndAmendments : Prop :=
  let slotGoes (m : Master) (c : ImgCmd) (s : State) := s.dev.Open m (Reg.IMG_CMD.addr 0 0) ∧
    s.dev.b0 .IMG_STATUS_BUSY = false ∧ (s.dev.goTaken c).badCommand c = false ∧ (s.dev.goTaken c).imgState c = false
  let goes (m : Master) (c : ImgCmd) (s : State) := slotGoes m c s ∧ s.dev.hostDma 0 = true
  let taken (c : ImgCmd) (s : State) := (s.dev.goTaken c).set0 .IMG_STATUS_COLLISION 0
  (∀ (m : Master) (mask : Fin 16) (slot : Fin 4) (img : Bytes) (s : State), goes m ⟨3, slot, mask, true⟩ s →
    img.length = s.dev.f0 .IMG_LEN →
    (taken ⟨3, slot, mask, true⟩ s).verify img img.length (.reload mask) = none →
    Completes (.imgReload m mask true slot (some img) none) s fun t => t.f0 .IMG_STATUS_BUSY = 1 ∧
      t.img.reload = some ⟨mask, imgSections img, false, 0⟩ ∧ t.img.sections = s.dev.img.sections) ∧
  (∀ (m : Master) (mask : Fin 16) (slot : Fin 4) (x : Slot) (host : Option Bytes) (lost : Option (Nat × Nat)) (s : State),
    slotGoes m ⟨3, slot, mask, false⟩ s → Map.get none s.dev.img.slots slot = some x →
    (taken ⟨3, slot, mask, false⟩ s).verifySlot slot (.reload mask) ((lost.map (fun r => (slot.val, r))).toList) = none →
    Completes (.imgReload m mask false slot host lost) s fun t => t.f0 .IMG_STATUS_BUSY = 1 ∧
      t.img.reload = some ⟨mask, imgSections x.image, false, 0⟩ ∧ t.img.sections = s.dev.img.sections) ∧
  (∀ (r : Reload) (s : State), s.dev.img.reload = some r → r.stopped = false →
    Completes .regionReloadApply s fun t =>
      t.img.reload.map (fun x => (x.mask, x.sections, x.stopped)) = some (r.mask, s.dev.img.sections, true) ∧
      t.img.sections = reloadSections s.dev.img.sections r.sections r.mask) ∧
  (∀ (r : Reload) (restored : Bool) (s : State), s.dev.img.reload = some r → r.stopped = true →
    Completes (.regionReloadBringup true restored) s fun t => t.img.reload = none ∧ t.f0 .IMG_STATUS_DIVERGED = 1 ∧
      t.f0 .IMG_AMEND_COUNT = 0 ∧ t.f0 .IMG_STATUS_BUSY = 0 ∧ t.f0 .IMG_STATUS_DONE_OK = 1) ∧
  (∀ (r : Reload) (s : State), s.dev.img.reload = some r → r.stopped = true →
    Completes (.regionReloadBringup false true) s fun t => t.img.reload = none ∧ t.img.sections = r.sections ∧
      t.f0 .IMG_STATUS_BUSY = 0 ∧ t.f0 .IMG_STATUS_DONE_OK = 0) ∧
  (∀ (m : Master) (img : Bytes) (s : State), goes m ⟨4, 0, 0, false⟩ s → img.length = s.dev.f0 .IMG_LEN →
    (taken ⟨4, 0, 0, false⟩ s).verify img img.length .amend = none →
    Completes (.imgAmend m (some img)) s fun t => t.img.amend = some (imgSections img) ∧ t.f0 .IMG_STATUS_BUSY = 1) ∧
  (∀ (new : Map Bytes) (s : State), s.dev.img.amend = some new →
    Completes .amendmentApply s fun t => t.img.amend = none ∧ t.f0 .IMG_STATUS_DIVERGED = 1 ∧
      t.f0 .IMG_AMEND_COUNT = satAdd 32 (s.dev.f0 .IMG_AMEND_COUNT) 1 ∧ t.f0 .IMG_STATUS_DONE_OK = 1) ∧
  (∀ (m : Master) (img : Bytes) (s : State), goes m ⟨7, 0, 0, false⟩ s → s.dev.boot.fwRuns = true →
    img.length = s.dev.f0 .IMG_LEN → (taken ⟨7, 0, 0, false⟩ s).verify img img.length .full = none →
    Completes (.imgLoadAndCommit m (some img)) s fun t => t.boot.committed = true ∧ t.boot.waitImg = false ∧
      t.img.image = img ∧ t.f0 .IMG_STATUS_DONE_OK = 1 ∧ t.f0 .IMG_STATUS_BUSY = 0) ∧
  (∀ s : State, s.dev.boot.committed = true →
    Completes (.sectionScrub true) s fun t => t.health = 3 ∧ t.b0 .HLT_CAUSE_CONFIG = true ∧ t.hlt.cfgBad = true)

/-- Flits: the expected flit with a good CRC is accepted and delivered in the order of sending over the bundles, a bad one is answered with a NAK naming it, and a NAK or an
acknowledgement that stays out makes the sender replay from its retry buffer, 512 flits at most (R16 to R19).
Link wires: a diagnosis that finds one bad wire puts a free spare in its place and lets the bundle rejoin,
or with no spare left fails the link; a wire is
steered onto a free spare for its retraining and comes back when it meets its margins, a first miss is tried again (R19, R20, R145 to R147). -/
def Obligations.DieLinks : Prop :=
  (let sent (d : Dev) (k b dir a : Nat) := ((List.range (min 512 (((d.flitDir k b dir).next + 4096 - a) % 4096))).map
    (fun i => Output.flit k b dir ((a + i) % 4096))).reverse ++ d.out
  let onWay (s : State) (k b dir seq : Nat) : Dev :=
    if (s.dev.flitDir k b dir).ahead seq < 512 then Dev.sendUntil k b dir seq 5120 s.dev else s.dev
  let arrives (s : State) (k b dir seq : Nat) := s.dev.bundleUp k b = true ∧
    seq = (s.dev.flitDir k b dir).expected ∧ ((onWay s k b dir seq).flitDir k b dir).holds seq = true
  (∀ (k : Link) (b : Fin 10) (dir : Fin 2) (seq ack : Fin 4096) (s : State), arrives s k b dir seq →
    Completes (.flitReceive k b dir seq ack true) s fun t =>
      let x := (onWay s k b dir seq).linkDir k dir
      (t.flitDir k b dir).expected = (seq.val + 1) % 4096 ∧ (t.flitDir k b dir).discarding = false ∧
      (t.flitDir k b dir).fails = 0 ∧ t.out = s.dev.out ∧ t.flds = s.dev.flds ∧
      (∀ l, x.order = b.val :: l → x.delivered + 1 ≤ (t.linkDir k dir).delivered) ∧
      ∀ c l, x.order = c :: l → c ≠ b.val → Map.get 0 x.ready c = 0 → (t.linkDir k dir).delivered = x.delivered) ∧
  (∀ (k : Link) (b : Fin 10) (dir : Fin 2) (seq ack : Fin 4096) (s : State), arrives s k b dir seq →
    Completes (.flitReceive k b dir seq ack false) s fun t =>
      (t.flitDir k b dir).expected = seq.val ∧ (t.flitDir k b dir).discarding = true ∧
      (t.flitDir k b dir).fails = (s.dev.flitDir k b dir).fails + 1 ∧ t.out = .nak k b dir seq.val :: s.dev.out ∧
      (7 ≤ (s.dev.flitDir k b dir).fails →
        (t.flitDir k b dir).diag = some s.dev.now ∧ t.f1 .HLT_D2D_STATUS_DIAG k = 1)) ∧
  (∀ (k : Link) (b : Fin 10) (dir : Fin 2) (seq : Fin 4096) (s : State), s.dev.bundleUp k b = true →
    (seq.val + 4096 - (s.dev.flitDir k b dir).oldest) % 4096 <
      ((s.dev.flitDir k b dir).next + 4096 - (s.dev.flitDir k b dir).oldest) % 4096 →
    Completes (.nakReplay k b dir seq) s fun t => t.out = sent s.dev k b dir seq ∧ t.flits = s.dev.flits) ∧
  (∀ (k : Link) (b : Fin 10) (dir : Fin 2) (s : State), s.dev.bundleUp k b = true →
    (s.dev.flitDir k b dir).oldest ≠ (s.dev.flitDir k b dir).next →
    Completes (.ackTimeoutReplay k b dir) s fun t =>
      t.out = sent s.dev k b dir (s.dev.flitDir k b dir).oldest ∧ t.flits = s.dev.flits)) ∧
  (∀ (k : Link) (b : Fin 10) (a : Nat) (s : State), (s.dev.flitDir k b 0).diag = some a → a + tUs ≤ s.dev.now →
    Completes (.bundleDiagnosisDone k b [] [] true) s fun t => (t.flitDir k b 0).diag = none ∧ (t.flitDir k b 0).fails = 0 ∧
      (t.flitDir k b 1).diag = none ∧ (t.flitDir k b 1).fails = 0 ∧ t.wires = s.dev.wires) ∧
  (∀ (k : Link) (b : Fin 10) (w : Fin 64) (a sp : Nat) (s : State), (s.dev.flitDir k b 0).diag = some a →
    a + tUs ≤ s.dev.now → wireNo b 0 w ∉ (s.dev.wireSt k).dead → s.dev.freeSpare k b 0 = some sp →
    Completes (.bundleDiagnosisDone k b [⟨w, by omega⟩] [] true) s fun t => (t.flitDir k b 0).diag = none ∧
      (t.wireSt k).dead = wireNo b 0 w :: (s.dev.wireSt k).dead ∧
      (t.wireSt k).inService = wireNo b 0 sp :: (s.dev.wireSt k).inService.erase (wireNo b 0 w)) ∧
  (∀ (k : Link) (b : Fin 10) (w : Fin 64) (a : Nat) (s : State), (s.dev.flitDir k b 0).diag = some a →
    a + tUs ≤ s.dev.now → wireNo b 0 w ∉ (s.dev.wireSt k).dead → s.dev.freeSpare k b 0 = none →
    s.dev.linkFailed k = false →
    Completes (.bundleDiagnosisDone k b [⟨w, by omega⟩] [] true) s fun t => t.f1 .HLT_D2D_STATUS_STATE k = 3 ∧
      t.health = 3 ∧ t.b0 .HLT_CAUSE_D2D_LINK = true) ∧
  (∀ (k : Link) (sp : Nat) (s : State), (s.dev.wireSt k).wire = none → (s.dev.wireSt k).nextAt ≤ s.dev.now →
    s.dev.f1 .HLT_D2D_STATUS_STATE k = 2 → (s.dev.wireSt k).next ∉ (s.dev.wireSt k).dead →
    (s.dev.wireSt k).next % 66 < 64 →
    s.dev.freeSpare k ((s.dev.wireSt k).next / 132) ((s.dev.wireSt k).next / 66 % 2) = some sp →
    Completes (.d2dWireRetrainStart k) s fun t =>
      (t.wireSt k).wire = some ((s.dev.wireSt k).next, some sp) ∧ (t.wireSt k).nextAt = s.dev.now + 20 * tMs ∧
      (t.wireSt k).next = ((s.dev.wireSt k).next + 1) % (132 * linkBundles k) ∧ t.f1 .HLT_D2D_STATUS_RETRAINING k = 1) ∧
  (∀ (k : Link) (x : Nat × Option Nat) (s : State), (s.dev.wireSt k).wire = some x →
    Completes (.d2dWireRetrainDone k true) s fun t => (t.wireSt k).wire = none ∧ (t.wireSt k).out = none ∧
      t.f1 .HLT_D2D_STATUS_RETRAINING k = 0 ∧ t.evr = s.dev.evr) ∧
  (∀ (k : Link) (x : Nat × Option Nat) (s : State), (s.dev.wireSt k).wire = some x → (s.dev.wireSt k).again = false →
    Completes (.d2dWireRetrainDone k false) s fun t => (t.wireSt k).again = true ∧ (t.wireSt k).wire = some x ∧
      t.flds = s.dev.flds)

/-- Containment: a region is isolated by itself or with its lane die, a hold memory die leaves use, a third
one or a base die takes the hold store out of service, a fatal fault of the core or
the management die and the loss of the root clock mean WINTER (R27, R30 to R32, R37, R314).
The clock tree: the first lock of the root PLL is shown and management leaves the ring; CORE_HALF is taken in WINTER or before a commit, refused otherwise
when it asks for half the clock, and BUSY ends with the re-division (R37, R40). -/
def Obligations.ContainmentAndClocks : Prop :=
  (∀ (n : Region) (cause : Fin 65536) (s : State),
    Completes (.regionIsolate n cause) s fun t => t.regionIsolated n = true) ∧
  (∀ (n : Region) (s : State), s.dev.linkFailed n = false →
    Completes (.laneDieFailed n) s fun t => t.regionIsolated n = true ∧ bitOf (t.f0 .HLT_SUM_DIE_DIES) (1 + n) = true) ∧
  (∀ (die : Fin 18) (s : State), s.dev.hld.failedDies = [] → s.dev.hld.failedBases = [] →
    Completes (.holdDieFailed ⟨die, by omega⟩) s fun t => t.hld.failedDies = [die.val] ∧
      t.f1 .HLD_DIE_STATUS_STATE die = 2 ∧ t.f0 .HLD_STATUS_FAILED_DIES = 1 ∧ t.hld.queues = s.dev.hld.queues ∧
      t.hld.outOfService = s.dev.hld.outOfService) ∧
  (∀ (die : Fin 20) (s : State), (die.val < 18 ∧ die.val ∉ s.dev.hld.failedDies ∧ 2 ≤ s.dev.hld.failedDies.length) ∨
      (18 ≤ die.val ∧ die.val - 18 ∉ s.dev.hld.failedBases) →
    Completes (.holdDieFailed die) s fun t => t.hld.outOfService = true) ∧
  (∀ (mgmt : Bool) (s : State),
    Completes (.fatalDieFault mgmt) s fun t => t.health = 3 ∧
      t.b0 (if mgmt then .HLT_CAUSE_MGMT_FATAL else .HLT_CAUSE_CORE_FATAL) = true ∧ t.pins.replaceN = true) ∧
  (∀ (ref : Bool) (s : State), s.dev.b0 .CLK_STATUS_ROOT_LOCK = true →
    Completes (.rootClockLost ref) s fun t => t.health = 3 ∧ t.b0 .HLT_CAUSE_ROOT_CLOCK = true ∧ t.tim.stopped = true ∧
      t.f0 .TIM_STATUS_FRC_VALID = 0 ∧ t.f0 .CLK_STATUS_ON_RING = 1) ∧
  (∀ (l : Fin 16) (p : Bool) (s : State), s.dev.b0 .CLK_STATUS_ROOT_LOCK = false → s.dev.b0 .CLK_STATUS_ROOT_LOST = false →
    Completes (.rootPllFirstLock l p) s fun t => t.f0 .CLK_STATUS_ROOT_LOCK = 1 ∧ t.f0 .CLK_STATUS_REF_OK = 1 ∧
      t.f0 .CLK_STATUS_LANE_PLL_LOCK = l.val ∧ t.f0 .CLK_STATUS_PCIE_REF_OK = b2n p ∧
      (s.dev.boot.romRuns = true → t.f0 .CLK_STATUS_ON_RING = 0)) ∧
  (∀ (m : Master) (half : Bool) (s : State), s.dev.Open m (Reg.CLK_DIV.addr 0 0) → pwMaster m = true →
    s.dev.b0 .CLK_DIV_BUSY = false → half = false ∨ s.dev.winter = true ∨ s.dev.boot.committed = false →
    exec (.clkDivCoreHalf m half) s = .next (s.on
      (((s.dev.set0 .CLK_DIV_CORE_HALF (b2n half)).set0 .CLK_DIV_BUSY 1).complete (.ok 0)))) ∧
  (∀ (m : Master) (s : State), s.dev.Open m (Reg.CLK_DIV.addr 0 0) → pwMaster m = true →
    s.dev.b0 .CLK_DIV_BUSY = false → s.dev.winter = false → s.dev.boot.committed = true →
    exec (.clkDivCoreHalf m true) s = .next (s.on ((s.dev.set0 .CLK_DIV_REFUSED 1).complete (.ok 0)))) ∧
  (∀ s : State, s.dev.b0 .CLK_DIV_BUSY = true →
    exec .coreClockRedivided s = .next (s.on (s.dev.set0 .CLK_DIV_BUSY 0)))

/-- A turn of a cluster: it starts on its next target, adapts, verifies with too few mismatches to matter, is undecided when
the two latencies disagree, retries once when the shadow is charged, and the swap lets the shadow serve the lane and the
displaced slice take the shadow role; a turn that runs out of time or of swap boundaries is abandoned with no spare consumed
(R128 to R138). -/
def Obligations.ShadowTurns : Prop :=
  let begun (s : State) (c g : Nat) (adv : Bool) (t : Dev) := t.f1 .SHADOW_STATUS_TARGET c = g ∧
    t.f1 .SHADOW_STATUS_PHASE c = 1 ∧ t.f1 .SHADOW_STATUS_ADVANCED c = b2n adv ∧ t.f1 .LANE_STATUS_TAPPED (4 * c + g) = 1 ∧
    (t.turn c).prev = some g ∧ (t.turn c).phaseAt = s.dev.now ∧ (t.turn c).startAt = some s.dev.now
  let rest (s : State) (c : Nat) : Nat :=
    if s.dev.b1 .SHADOW_STATUS_SPARE_USED c = true ∨ s.dev.b1 .SHADOW_CTRL_ROTATE_EN c = false then 4 else 0
  let ended (s : State) (c : Nat) (t : Dev) := t.f1 .SHADOW_STATUS_PHASE c = rest s c ∧
    t.f1 .LANE_STATUS_TAPPED (s.dev.turnLane c) = 0 ∧
    t.f1 .SHADOW_STATUS_SPARE_USED c = s.dev.f1 .SHADOW_STATUS_SPARE_USED c ∧
    t.f1 .LANE_ABANDONED (s.dev.turnLane c) = satAdd 32 (s.dev.f1 .LANE_ABANDONED (s.dev.turnLane c)) 1
  let verified (s : State) (c : Nat) := s.dev.f1 .SHADOW_STATUS_PHASE c = 2 ∧ (s.dev.turn c).phaseAt +
    verifyTicks (s.dev.portMode (s.dev.lanePort (s.dev.turnLane c))) (s.dev.turn c).log2 ≤ s.dev.now
  let ofAdapt (s : State) (c : Nat) (own : Int) : Int :=
    s.dev.factoryLatency (s.dev.f1 .SHADOW_STATUS_SLICE c) (s.dev.turnLane c) + own - s.dev.laneLatency (s.dev.turnLane c)
  let aligned (s : State) (c : Nat) (a own : Int) := (a - ofAdapt s c own).natAbs * 1000 ≤ 3200 ∧ a.natAbs ≤ 256 ∧
    (ofAdapt s c own).natAbs ≤ 256
  (∀ (c : Cluster) (g : Fin 4) (adv : Bool) (s : State), s.dev.f1 .SHADOW_STATUS_PHASE c = 0 →
    (s.dev.turn c).startAt = none → s.dev.nextTarget c = some (g.val, adv) →
    Completes (.shadowTurnStart c) s fun t => begun s c g adv t) ∧
  (∀ (m : Master) (c : Cluster) (g : Fin 4) (adv : Bool) (s : State), s.dev.Open m (Reg.SHADOW_CTRL.addr c 0) →
    s.dev.f1 .SHADOW_STATUS_PHASE c = 0 → s.dev.nextTarget c = some (g.val, adv) →
    Completes (.shadowTurnNow m c) s fun t => begun s c g adv t ∧ t.reg.last = .ok 0) ∧
  (∀ (c : Cluster) (s : State), s.dev.f1 .SHADOW_STATUS_PHASE c = 1 → (s.dev.turn c).kind ≠ 3 →
    s.dev.now < (s.dev.turn c).phaseAt + (s.dev.turn c).adaptMax * tMs →
    Completes (.shadowAdaptDone c) s fun t => t.f1 .SHADOW_STATUS_PHASE c = 2 ∧ (t.turn c).phaseAt = s.dev.now) ∧
  (∀ (c : Cluster) (s : State), s.dev.f1 .SHADOW_STATUS_PHASE c = 1 → (s.dev.turn c).kind ≠ 3 →
    (s.dev.turn c).phaseAt + (s.dev.turn c).adaptMax * tMs ≤ s.dev.now →
    Completes (.shadowAdaptTimeout c) s fun t => ended s c t) ∧
  (∀ (c : Cluster) (seen : VerifySeen) (a own : Int) (s : State), verified s c → aligned s c a own →
    (chargeOf seen).1 < (s.dev.turn c).limit →
    Completes (.shadowVerifyEnd c seen a own) s fun t => t.f1 .SHADOW_STATUS_PHASE c = 3 ∧ (t.turn c).kind = 0 ∧
      (t.turn c).latency = own ∧ t.f1 .LANE_LAST_MISMATCH (s.dev.turnLane c) = min (chargeOf seen).1 (2 ^ 32 - 1)) ∧
  (∀ (c : Cluster) (seen : VerifySeen) (a own : Int) (s : State), verified s c → ¬aligned s c a own →
    Completes (.shadowVerifyEnd c seen a own) s fun t => t.f1 .SHADOW_STATUS_PHASE c = rest s c ∧
      t.f1 .LANE_STATUS_TAPPED (s.dev.turnLane c) = 0 ∧
      t.f1 .LANE_UNDECIDED (s.dev.turnLane c) = satAdd 32 (s.dev.f1 .LANE_UNDECIDED (s.dev.turnLane c)) 1) ∧
  (∀ (c : Cluster) (seen : VerifySeen) (a own : Int) (s : State), verified s c → aligned s c a own →
    (s.dev.turn c).limit ≤ (chargeOf seen).1 → (chargeOf seen).2.1 < 4 * (chargeOf seen).2.2 →
    4 * (chargeOf seen).2.1 ≤ (chargeOf seen).2.2 → s.dev.b1 .SHADOW_STATUS_RETRY c = false →
    Completes (.shadowVerifyEnd c seen a own) s fun t => t.f1 .SHADOW_STATUS_PHASE c = 1 ∧ t.f1 .SHADOW_STATUS_RETRY c = 1 ∧
      (t.turn c).phaseAt = s.dev.now ∧ t.f1 .SHADOW_FAILS c = satAdd 32 (s.dev.f1 .SHADOW_FAILS c) 1) ∧
  (∀ (c : Cluster) (s : State), s.dev.f1 .SHADOW_STATUS_PHASE c = 3 → (s.dev.turn c).deferred < 1000 →
    (s.dev.turn c).kind ≠ 1 → s.dev.b1 .LANE_STATUS_RX_LPI (s.dev.turnLane c) = false → s.dev.f1 .SHADOW_STATUS_TARGET c < 4 →
    Completes (.laneSwap c false) s fun t =>
      t.f1 .LANE_STATUS_SLICE (s.dev.turnLane c) = s.dev.f1 .SHADOW_STATUS_SLICE c % 8 ∧
      t.f1 .SHADOW_STATUS_SLICE c = s.dev.f1 .LANE_STATUS_SLICE (s.dev.turnLane c) % 8 ∧
      t.f1 .SHADOW_STATUS_PHASE c = rest s c ∧
      t.f1 .LANE_SWAPS (s.dev.turnLane c) = satAdd 32 (s.dev.f1 .LANE_SWAPS (s.dev.turnLane c)) 1) ∧
  (∀ (c : Cluster) (bad : Bool) (s : State), s.dev.f1 .SHADOW_STATUS_PHASE c = 3 → (s.dev.turn c).deferred < 1000 →
    bad = true ∨ s.dev.b1 .LANE_STATUS_RX_LPI (s.dev.turnLane c) = true →
    Completes (.laneSwap c bad) s fun t => (t.turn c).deferred = (s.dev.turn c).deferred + 1 ∧ t.flds = s.dev.flds) ∧
  (∀ (c : Cluster) (s : State), s.dev.f1 .SHADOW_STATUS_PHASE c = 3 → (s.dev.turn c).kind ≠ 3 →
    1000 ≤ (s.dev.turn c).deferred →
    Completes (.swapDeferExhausted c) s fun t => ended s c t)

/-- Spares: after a verification that charges the serving slice four to one the swap consumes the spare; a faulty shadow
slice is retired; a faulty serving slice is replaced by the shadow, or with the spare used isolates the region; a shadow
that replaces an isolated slice takes the lane over once it has lock; a lane in the partner's low-power idle shows it (R121,
R139 to R141). -/
def Obligations.SliceSparing : Prop :=
  let verified (s : State) (c : Nat) := s.dev.f1 .SHADOW_STATUS_PHASE c = 2 ∧ (s.dev.turn c).phaseAt +
    verifyTicks (s.dev.portMode (s.dev.lanePort (s.dev.turnLane c))) (s.dev.turn c).log2 ≤ s.dev.now
  let ofAdapt (s : State) (c : Nat) (own : Int) : Int :=
    s.dev.factoryLatency (s.dev.f1 .SHADOW_STATUS_SLICE c) (s.dev.turnLane c) + own - s.dev.laneLatency (s.dev.turnLane c)
  let aligned (s : State) (c : Nat) (a own : Int) := (a - ofAdapt s c own).natAbs * 1000 ≤ 3200 ∧ a.natAbs ≤ 256 ∧
    (ofAdapt s c own).natAbs ≤ 256
  let replacing (s : State) (c : Nat) := s.dev.f1 .SHADOW_STATUS_PHASE c = 1 ∧ (s.dev.turn c).kind = 3
  (∀ (c : Cluster) (seen : VerifySeen) (a own : Int) (s : State), verified s c → aligned s c a own →
    (s.dev.turn c).limit ≤ (chargeOf seen).1 → 4 * (chargeOf seen).2.2 ≤ (chargeOf seen).2.1 →
    Completes (.shadowVerifyEnd c seen a own) s fun t => t.f1 .SHADOW_STATUS_PHASE c = 3 ∧ (t.turn c).kind = 1 ∧
      t.f1 .SHADOW_STATUS_SPARE_USED c = s.dev.f1 .SHADOW_STATUS_SPARE_USED c) ∧
  (∀ (c : Cluster) (s : State), s.dev.f1 .SHADOW_STATUS_PHASE c = 3 → (s.dev.turn c).deferred < 1000 →
    (s.dev.turn c).kind = 1 → s.dev.b1 .LANE_STATUS_RX_LPI (s.dev.turnLane c) = false → s.dev.f1 .SHADOW_STATUS_TARGET c < 4 →
    Completes (.laneSwap c false) s fun t =>
      t.f1 .LANE_STATUS_SLICE (s.dev.turnLane c) = s.dev.f1 .SHADOW_STATUS_SLICE c % 8 ∧
      t.f1 .LANE_STATUS_PERMANENT (s.dev.turnLane c) = 1 ∧ t.f1 .SHADOW_STATUS_SPARE_USED c = 1 ∧
      t.f1 .SHADOW_RETIRED_SLICE c = s.dev.f1 .LANE_STATUS_SLICE (s.dev.turnLane c) % 8 ∧
      t.f1 .SHADOW_RETIRED_CAUSE c = 1 ∧ t.f1 .SHADOW_STATUS_SLICE c = 7 ∧ t.f1 .SHADOW_STATUS_PHASE c = 4 ∧
      t.b0 .HLT_AUTUMN_CAUSE_SPARE = true) ∧
  (∀ (c : Cluster) (x : Fin 5) (s : State), ¬replacing s c → s.dev.f1 .SHADOW_STATUS_SLICE c = x.val →
    s.dev.b1 .SHADOW_STATUS_SPARE_USED c = false →
    Completes (.sliceFaultIsolate c [x]) s fun t => t.f1 .SHADOW_STATUS_SPARE_USED c = 1 ∧ t.f1 .SHADOW_STATUS_SLICE c = 7 ∧
      t.f1 .SHADOW_RETIRED_SLICE c = x.val ∧ t.f1 .SHADOW_RETIRED_CAUSE c = 2 ∧ t.b0 .HLT_AUTUMN_CAUSE_SPARE = true) ∧
  (∀ (c : Cluster) (x : Fin 5) (g : Fin 4) (s : State), ¬replacing s c → s.dev.f1 .SHADOW_STATUS_SLICE c ≠ x.val →
    s.dev.b1 .SHADOW_STATUS_SPARE_USED c = false → s.dev.f1 .LANE_STATUS_SLICE (4 * c + g) = x.val →
    (∀ h < g.val, s.dev.f1 .LANE_STATUS_SLICE (4 * c + h) ≠ x.val) →
    Completes (.sliceFaultIsolate c [x]) s fun t => t.f1 .SHADOW_STATUS_SPARE_USED c = 1 ∧
      t.f1 .SHADOW_STATUS_PHASE c = 1 ∧ (t.turn c).kind = 3 ∧ t.f1 .SHADOW_STATUS_TARGET c = g.val ∧
      t.f1 .LANE_STATUS_CDR_LOCK (4 * c + g) = 0 ∧ t.linkUp (s.dev.lanePort (4 * c + g)) = false ∧
      t.f1 .SHADOW_RETIRED_SLICE c = x.val ∧ t.f1 .SHADOW_RETIRED_CAUSE c = 3) ∧
  (∀ (c : Cluster) (x : Fin 5) (g : Fin 4) (s : State), ¬replacing s c → s.dev.f1 .SHADOW_STATUS_SLICE c ≠ x.val →
    s.dev.b1 .SHADOW_STATUS_SPARE_USED c = true → s.dev.f1 .LANE_STATUS_SLICE (4 * c + g) = x.val →
    Completes (.sliceFaultIsolate c [x]) s fun t => t.regionIsolated (c / 8) = true) ∧
  (∀ (c : Cluster) (own : Int) (s : State), replacing s c →
    Completes (.shadowTakeoverLock c own) s fun t =>
      t.f1 .LANE_STATUS_SLICE (s.dev.turnLane c) = s.dev.f1 .SHADOW_STATUS_SLICE c % 8 ∧
      t.f1 .LANE_STATUS_CDR_LOCK (s.dev.turnLane c) = 1 ∧
      Map.get 0 (t.turn c).adapt (s.dev.turnLane c % 4) = own ∧
      t.f1 .SHADOW_STATUS_SLICE c = 7 ∧ (t.turn c).kind = 0) ∧
  (∀ (l : Lane) (on : Bool) (s : State),
    Completes (.rxLpiChange l on) s fun t => t.f1 .LANE_STATUS_RX_LPI l =
      b2n (on && s.dev.b1 .MAC_CTRL_EEE_EN (s.dev.lanePort l) && s.dev.b1 .MAC_EEE_STATUS_NEGOTIATED (s.dev.lanePort l)))

/-- Reception: a frame with a bad FCS or an error of the PCS is counted and does not enter the device; a good one that no rule turns away enters the
region's pipeline with its bytes (R108 to R110). -/
def Obligations.FrameReception : Prop :=
  (∀ (p : Port) (bytes : Bytes) (fec : FecSeen) (sub : Fin 8) (rivals : List (Fin 7)) (s : State), s.dev.linkUp p = true →
    s.dev.portUsed p = true → fec.uncorrectable = 0 → 64 ≤ bytes.length →
    bytes.length ≤ s.dev.f1 .MAC_MAX_FRAME p → bytes.length ≤ 16384 → fcsGood bytes = false →
    Completes (.frameReceive p bytes false fec sub rivals) s fun t => t.buf = s.dev.buf ∧
      t.ctr .MAC_RX_FCS_ERR p = (s.dev.ctr .MAC_RX_FCS_ERR p + 1) % 2 ^ 48 ∧
      t.ctr .MAC_RX_OCTETS_ALL p = (s.dev.ctr .MAC_RX_OCTETS_ALL p + bytes.length) % 2 ^ 48 ∧
      t.ctr .MAC_RX_FRAMES p = s.dev.ctr .MAC_RX_FRAMES p) ∧
  (∀ (p : Port) (bytes : Bytes) (bad : Bool) (fec : FecSeen) (sub : Fin 8) (rivals : List (Fin 7)) (s : State),
    s.dev.linkUp p = true → s.dev.portUsed p = true → bad = true ∨ fec.uncorrectable ≠ 0 →
    Completes (.frameReceive p bytes bad fec sub rivals) s fun t => t.buf = s.dev.buf ∧
      t.ctr .MAC_RX_PCS_ERR p = (s.dev.ctr .MAC_RX_PCS_ERR p + 1) % 2 ^ 48 ∧
      t.ctr .MAC_RX_FRAMES p = s.dev.ctr .MAC_RX_FRAMES p) ∧
  (∀ (p : Port) (bytes : Bytes) (fec : FecSeen) (sub : Fin 8) (rivals : List (Fin 7)) (s : State), s.dev.linkUp p = true →
    s.dev.portUsed p = true → fec.uncorrectable = 0 → 64 ≤ bytes.length →
    bytes.length ≤ s.dev.f1 .MAC_MAX_FRAME p → bytes.length ≤ 16384 → fcsGood bytes = true →
    beAt bytes 12 2 ≠ 0x8808 → s.dev.filtered p bytes = false →
    (beAt bytes 0 6 = 0xFFFFFFFFFFFF → s.dev.b1 .MAC_CTRL_BCAST_DROP p = false) →
    s.dev.winter = false → s.dev.buf.frozen = false → s.dev.f1 .MAC_PORT_INFO_ROLE p ≠ 2 →
    ¬(s.dev.fabPort p = true ∧ beAt bytes 12 2 = s.dev.fabType ∧ 4 ≤ beAt bytes 15 1 / 16 ∧ beAt bytes 15 1 / 16 ≤ 7) →
    s.dev.img.reload.any (fun r => r.stopped && bitOf r.mask (p.val / 32)) = false → (s.dev.ptpRefused p bytes).isNone = true →
    cellsFor bytes.length + 7 ≤ s.dev.freeCells →
    Completes (.frameReceive p bytes false fec sub rivals) s fun t =>
      (∃ r, Map.get none t.buf.rx s.dev.buf.nextId = some r ∧ r.bytes = bytes ∧ r.port = p.val ∧ r.lost = 0 ∧
        r.parse = none) ∧
      t.buf.nextId = s.dev.buf.nextId + 1 ∧
      t.ctr .MAC_RX_FRAMES p = (s.dev.ctr .MAC_RX_FRAMES p + 1) % 2 ^ 48 ∧
      t.ctr .MAC_RX_OCTETS p = (s.dev.ctr .MAC_RX_OCTETS p + bytes.length) % 2 ^ 48)

/-- Links: a port that may have one comes up; a link condition that ceases takes it down and counts it; a write of PORT_EN
enables a used port; a hold-off ends with its count restarted; a failed unit isolates its port; auto-negotiation records its
result, and refuses a partner without full duplex (R101 to R106). -/
def Obligations.LinkStates : Prop :=
  (∀ (p : Port) (s : State), s.dev.linkUp p = false → s.dev.mayLink p = true →
    Completes (.linkUp p) s fun t => t.linkUp p = true ∧ t.f1 .MAC_STATUS_PCS_LOCK p = 1 ∧
      t.f1 .MAC_STATUS_LOCAL_FAULT p = 0 ∧ t.f1 .MAC_STATUS_REMOTE_FAULT p = 0 ∧ (t.flapSt p) = ⟨none, false⟩ ∧
      (t.macSt p).drive = .running) ∧
  (∀ (p : Port) (cause : Fin 4) (rx : Option Nat) (s : State), s.dev.linkUp p = true → s.dev.portUsed p = true →
    Completes (.linkDown p cause rx) s fun t => t.linkUp p = false ∧ t.f1 .MAC_STATUS_PAUSED p = 0 ∧
      t.f1 .MAC_STATUS_TX_LPI p = 0 ∧ t.ctr .MAC_LINK_DOWN p = (s.dev.ctr .MAC_LINK_DOWN p + 1) % 2 ^ 48) ∧
  (∀ (m : Master) (p : Port) (s : State), s.dev.Open m (Reg.MAC_CTRL.addr p 0) → s.dev.portUsed p = true →
    (s.dev.macSt p).holdoffEnd = none → (s.dev.macSt p).drive ≠ .lossOfSignal →
    Completes (.macPortEnWrite m p true) s fun t => t.f1 .MAC_CTRL_PORT_EN p = 1 ∧ (t.macSt p).drive = .running ∧
      t.reg.last = .ok 0) ∧
  (∀ (m : Master) (p : Port) (s : State), s.dev.Open m (Reg.MAC_CTRL.addr p 0) → s.dev.portUsed p = true →
    (s.dev.macSt p).drive ≠ .lossOfSignal →
    Completes (.macPortEnWrite m p false) s fun t => t.linkUp p = false ∧ t.f1 .MAC_CTRL_PORT_EN p = 0 ∧
      (t.macSt p).drive = .electricalIdle ∧ t.reg.last = .ok 0) ∧
  (∀ (p : Port) (a : Nat) (s : State), (s.dev.macSt p).holdoffEnd = some a → a ≤ s.dev.now →
    Completes (.flapHoldoffEnd p) s fun t => (t.macSt p).holdoffEnd = none ∧ (t.macSt p).downs = [] ∧
      t.f1 .MAC_STATUS_FLAP_ISOLATED p = 0) ∧
  (∀ (p : Port) (s : State), s.dev.b1 .MAC_PORT_INFO_ISOLATED p = false →
    Completes (.macUnitIsolated p) s fun t => t.portIsolated p = true ∧ (t.macSt p).drive = .lossOfSignal ∧
      t.b0 .HLT_AUTUMN_CAUSE_UNIT = true) ∧
  (∀ (p : Port) (adv : Fin 65536) (moves : List (Int × Int × Int × Int × Int)) (s : State), s.dev.linkUp p = false →
    s.dev.portUsed p = true → s.dev.portNeg p = true → s.dev.b1 .MAC_CTRL_PORT_EN p = true →
    s.dev.portMode p ≤ 4 →
    Completes (.autonegComplete p true adv 3 moves) s fun t => t.f1 .MAC_STATUS_AN_DONE p = 1 ∧
      t.f1 .MAC_PORT_INFO_FEC_ACTIVE p = 3) ∧
  (∀ (p : Port) (adv : Fin 65536) (fec : Fin 4) (moves : List (Int × Int × Int × Int × Int)) (s : State),
    s.dev.linkUp p = false → s.dev.portUsed p = true → s.dev.portNeg p = true → s.dev.portAn p = true →
    s.dev.b1 .MAC_CTRL_PORT_EN p = true →
    Completes (.autonegComplete p false adv fec moves) s fun t => t.linkUp p = false ∧
      t.f1 .MAC_STATUS_AN_DONE p = 0 ∧ t.ctr .MAC_LINK_DOWN p = (s.dev.ctr .MAC_LINK_DOWN p + 1) % 2 ^ 48)

/-- Pause times: one that waited for the frame in flight starts when it has ended, one that has run out ends; a storm clears the
pause for its recovery, which ends; a refresh is sent again while the request holds (R116 to R119).
Low-power idle is entered and left, an LLDP frame without an EEE TLV ends its negotiation and one with it is answered, and the
HALF bit of a counter is cleared (R120 to R122). -/
def Obligations.PauseAndLowPower : Prop :=
  (∀ (p : Port) (i q : Nat) (l r : Map Nat) (s : State), (s.dev.macSt p).pausePend = l ++ (i, q) :: r →
    (∀ x ∈ r, x.1 ≠ i) → s.dev.inflight p = none → (s.dev.macSt p).ownTx = none →
    Completes (.pauseStart p) s fun t => (t.macSt p).pausePend = [] ∧
      Map.get 0 (t.macSt p).pauseEnd i = s.dev.now + s.dev.quantaTicks p q) ∧
  (∀ (p : Port) (i : Fin 9) (s : State), Map.get 0 (s.dev.macSt p).pauseEnd i ≠ 0 →
    Map.get 0 (s.dev.macSt p).pauseEnd i ≤ s.dev.now →
    Completes (.pauseExpire p i) s fun t => Map.get 0 (t.macSt p).pauseEnd i = 0 ∧
      ∀ j, j ≠ i.val → Map.get 0 (t.macSt p).pauseEnd j = Map.get 0 (s.dev.macSt p).pauseEnd j) ∧
  (∀ (p : Port) (c : Fin 9) (s : State), s.dev.portUsed p = true → Map.get 0 (s.dev.macSt p).pausedSince c ≠ 0 →
    Map.get 0 (s.dev.macSt p).pausedSince c + s.dev.f1 .MAC_PAUSE_TIMERS_WATCHDOG p * tMs ≤ s.dev.now + 1 →
    Completes (.pauseStorm p c) s fun t =>
      (∀ i < 9, s.dev.guardOf p c i = true → Map.get 0 (t.macSt p).pauseEnd i = 0 ∧ Map.get 0 (t.macSt p).pausePend i = 0) ∧
      Map.get 0 (t.macSt p).recoverEnd c = s.dev.now + s.dev.f1 .MAC_PAUSE_TIMERS_RECOVERY p * tMs ∧
      (if c.val = 8 then t.f1 .MAC_STATUS_STORM p = 255 else bitOf (t.f1 .MAC_STATUS_STORM p) c = true) ∧
      let k : Ctr := if c.val = 8 then .MAC_PAUSE_STORM_LINK else Ctr.MAC_PAUSE_STORM.at c
      t.ctr k p = (s.dev.ctr k p + 1) % 2 ^ 48) ∧
  (∀ (p : Port) (c : Fin 9) (s : State), Map.get 0 (s.dev.macSt p).recoverEnd c ≠ 0 →
    Map.get 0 (s.dev.macSt p).recoverEnd c ≤ s.dev.now →
    Completes (.pauseRecoveryEnd p c) s fun t => Map.get 0 (t.macSt p).recoverEnd c = 0) ∧
  (∀ (p : Port) (c : Tc) (s : State), bitOf (s.dev.f1 .QUE_PORT_STATUS_PFC_XOFF p) c = true →
    Map.get 0 (s.dev.macSt p).xoffAt c ≠ 0 → s.dev.winter = false → s.dev.linkUp p = true →
    s.dev.f1 .MAC_CTRL_TX_PAUSE_EN p ≠ 0 →
    Map.get 0 (s.dev.macSt p).xoffAt c + s.dev.quantaTicks p (s.dev.f1 .MAC_PFC_TX_REFRESH p) ≤ s.dev.now + 1 →
    Completes (.pfcRefresh p c) s fun t => Map.get 0 (t.macSt p).xoffAt c = s.dev.now + 1 ∧
      (s.dev.f1 .MAC_CTRL_PAUSE_MODE p = 2 →
        Output.pfc p (s.dev.pfcEnable p c) (s.dev.f1 .MAC_PFC_TX_QUANTA p) ∈ t.out) ∧
      (s.dev.f1 .MAC_CTRL_PAUSE_MODE p = 1 → Output.pause p (s.dev.f1 .MAC_PFC_TX_QUANTA p) ∈ t.out)) ∧
  (∀ (p : Port) (s : State), s.dev.portUsed p = true → s.dev.eeeOn p = true → s.dev.eeeBlocked p = false → s.dev.portEmpty p = true →
    s.dev.b1 .MAC_STATUS_TX_LPI p = false → s.dev.winter = false →
    (s.dev.macSt p).lastTx + s.dev.f1 .MAC_EEE_CTRL_IDLE p * tUs ≤ s.dev.now →
    Completes (.lpiEnter p) s fun t => t.f1 .MAC_STATUS_TX_LPI p = 1 ∧
      t.ctr .MAC_TX_LPI p = (s.dev.ctr .MAC_TX_LPI p + 1) % 2 ^ 48) ∧
  (∀ (p : Port) (a : Nat) (s : State), s.dev.b1 .MAC_STATUS_TX_LPI p = true → (s.dev.macSt p).wakeAt = some a →
    a ≤ s.dev.now →
    Completes (.lpiWake p) s fun t => t.f1 .MAC_STATUS_TX_LPI p = 0 ∧ (t.macSt p).wakeAt = none) ∧
  (∀ (p : Port) (s : State), s.dev.linkUp p = true → s.dev.winter = false →
    exec (.lldpReceive p none) s = .next (s.on
      ((s.dev.set1 .MAC_EEE_STATUS_NEGOTIATED p 0).set1 .MAC_EEE_STATUS_TW_SYS_TX p 0))) ∧
  (∀ (p : Port) (w : Fin 65536) (s : State), s.dev.linkUp p = true → s.dev.winter = false →
    s.dev.b1 .MAC_EEE_STATUS_CAPABLE p = true →
    Completes (.lldpReceive p (some w)) s fun t => t.f1 .MAC_EEE_STATUS_NEGOTIATED p = 1 ∧
      t.f1 .MAC_EEE_STATUS_TW_SYS_TX p = w.val ∧ ∃ x ∈ t.ownFrames p, x.proto = 4 ∧ x.fields = [w.val]) ∧
  (∀ (p : Port) (w : Fin 65536) (s : State), s.dev.b1 .MAC_EEE_STATUS_CAPABLE p = false →
    exec (.lldpReceive p (some w)) s = .next s) ∧
  (∀ (m : Master) (p : Port) (i : Fin 96) (s : State), s.dev.Open m (Reg.MAC_STAT_HI.addr p i) → macCtrDefined i = true →
    Completes (.macStatHalfClear m p i) s fun t =>
      t.ctr ⟨.MAC_STAT, i⟩ p = s.dev.ctr ⟨.MAC_STAT, i⟩ p % 2 ^ 47 ∧ t.flds = s.dev.flds)

/-- The pipeline: a frame in SPRING that is not the firmware's is discarded and counted; the row of a parse node that is down is
rewritten and reported; CLR_LAST clears the last parse error (R86, R169, R171).
The automata: the frame at the head of an inspection queue leaves it and is scanned; a state word is rewritten; an idle flow
leaves its row; the spare engine takes over and the frames of the failed one are dropped, or with the spare used the
region is isolated (R213 to R221). -/
def Obligations.ParserAndAutomata : Prop :=
  (let fabData (s : State) (rx : Rx) : Bool :=
    s.dev.fabPort rx.port && beAt rx.bytes 12 2 == s.dev.fabType && rx.srcDev.isNone && decide (rx.pass = 0)
  (∀ (id : Nat) (faults : List ReadFault) (rx : Rx) (s : State), s.dev.rxFrame id = some rx → rx.parse = none →
    fabData s rx = false → s.dev.spring = true → s.dev.forFirmware rx = false →
    Completes (.frameParse id faults) s fun t => t.rxFrame id = none ∧
      t.f1 .CLK_SPRING_DISCARD rx.region = satAdd 32 (s.dev.f1 .CLK_SPRING_DISCARD rx.region) 1) ∧
  (∀ (id : Nat) (rx : Rx) (s : State), s.dev.rxFrame id = some rx → rx.parse = none → fabData s rx = false →
    s.dev.forwards = true → s.dev.forFirmware rx = false → s.dev.regionIsolated rx.region = false → (s.dev.walkFrame rx []).err = 1 → rx.port < 128 → rx.region < 4 →
    rx.port / 32 = rx.region → s.dev.defaultAction rx = 0 → s.dev.paired = false →
    Completes (.frameParse id []) s fun t => t.f1 .PRS_LAST_ERR_REASON rx.region = 1 ∧
      ∃ r, t.rxFrame id = some r ∧ (r.res.map (·.fwd)) = some .drop ∧ (r.parse.map (·.err)) = some 1) ∧
  (∀ (n : Region) (k : Fin 64) (s : State), s.dev.wordDown .node n k = true →
    Completes (.parseNodeRewrite n k) s fun t => t.wordDown .node n k = false ∧
      Map.get 0 t.words.seen (k3 WordKind.node.code n k) = s.dev.now + 1) ∧
  (∀ (m : Master) (n : Region) (s : State), s.dev.Open m (Reg.PRS_CTRL.addr n 0) →
    Completes (.prsClrLast m n) s fun t => t.f1 .PRS_LAST_ERR_REASON n = 0 ∧ t.f1 .PRS_LAST_ERR_PASS n = 0 ∧
      t.f1 .PRS_LAST_ERR_NODE n = 0 ∧ t.f1 .PRS_LAST_ERR_HDR_INDEX n = 0 ∧ t.f1 .PRS_LAST_ERR_PORT n = 0 ∧
      t.f1 .PRS_LAST_ERR_AT_FRAME_LEN n = 0 ∧ t.f1 .PRS_LAST_ERR_AT_OFFSET n = 0 ∧ t.ctrs = s.dev.ctrs)) ∧
  (∀ (n : Region) (corrected id w : Nat) (faults : List ReadFault) (rest : List Nat) (rx : Rx) (l : List Source) (set : Nat) (pr : ParseRes) (s : State),
    s.dev.inspectQ n = id :: rest → s.dev.rxFrame id = some rx → rx.wait = some (l, set) → rx.parse = some pr →
    Map.get 0 s.dev.words.seen (k3 WordKind.autState.code n w) = 0 →
    Completes (.automataScan n corrected (some w) faults) s fun t => t.inspectQ n = rest ∧ t.rxFrame id = none ∧
      t.wordDown .autState n w = true ∧ t.ctr .AUT_ENGINE_DROP n = (s.dev.ctr .AUT_ENGINE_DROP n + 1) % 2 ^ 64) ∧
  (∀ (n : Region) (corrected id : Nat) (rest : List Nat) (rx : Rx) (l : List Source) (set : Nat) (pr : ParseRes) (s : State),
    s.dev.inspectQ n = id :: rest → s.dev.rxFrame id = some rx → rx.wait = some (l, set) → rx.parse = some pr →
    s.dev.paired = false → s.dev.winter = false → s.dev.regionIsolated rx.region = false →
    Completes (.automataScan n corrected none []) s fun t => t.inspectQ n = rest ∧
      t.ctr .AUT_FRAMES_SCANNED n = (s.dev.ctr .AUT_FRAMES_SCANNED n + 1) % 2 ^ 64 ∧
      (∃ r, t.rxFrame id = some r ∧ r.res.isSome = true ∧ r.wait = none)) ∧
  (∀ (n : Region) (w : Nat) (s : State), s.dev.wordDown .autState n w = true →
    Completes (.autStateRewrite n w) s fun t => t.wordDown .autState n w = false ∧ t.search = s.dev.search) ∧
  (∀ (row : Fin 65536) (f : AutFlow) (s : State), Map.get none s.dev.search.flows row = some f →
    f.last + s.dev.f0 .AUT_FLOW_IDLE * tSec ≤ s.dev.now →
    Completes (.streamFlowIdle row) s fun t => Map.get none t.search.flows row = none ∧
      ∀ k, k ≠ row.val → Map.get none t.search.flows k = Map.get none s.dev.search.flows k) ∧
  (∀ (n : Region) (e : Fin 9) (frames : List Nat) (s : State), s.dev.regionIsolated n = false →
    s.dev.b1 .AUT_STATUS_SPARE_USED n = true →
    Completes (.autEngineSpared n e frames) s fun t => t.regionIsolated n = true ∧ t.f1 .AUT_STATUS_FAULT n = 1) ∧
  (∀ (n : Region) (e : Fin 9) (frames : List Nat) (s : State), s.dev.regionIsolated n = false →
    s.dev.b1 .AUT_STATUS_SPARE_USED n = false →
    Completes (.autEngineSpared n e frames) s fun t => t.f1 .AUT_STATUS_SPARE_USED n = 1 ∧
      t.f1 .AUT_STATUS_SPARE_FOR n = (if e.val = 8 then 15 else e.val) ∧ t.f1 .AUT_LAST_FAULT_ENGINE n = e.val ∧ t.b0 .HLT_AUTUMN_CAUSE_SPARE = true)

/-- Transactions of a region's table ring that is ready: each well-formed descriptor of the operations over rows and keys has its
effect and is written back with its STATUS of Table 7-11, row and data, HEAD moves on; a bad one halts the ring, and RESTART
resumes behind it (R195 to R197, Tables 7-9 to 7-11). -/
def Obligations.TableTransactions : Prop :=
  let takes (s : State) (n op : Nat) (desc next : Bytes) := s.dev.tblReady n = true ∧ leAt desc 0 1 = op ∧
    s.dev.tblBad desc next = false ∧ tblNextBad desc next = false ∧ s.dev.tbl.reloc = none
  let wrote (s : State) (n : Nat) (desc next : Bytes) (status row : Nat) (data : Bytes) (t : Dev) :=
    Output.hostWrite (s.dev.tblAddr n (s.dev.f1 .TBL_RING_HEAD n)) (tblBack desc status row (data.take 48)) ∈ t.out ∧
    t.f1 .TBL_RING_HEAD n = (s.dev.f1 .TBL_RING_HEAD n + (if tblCont desc next then 2 else 1)) %
      max 1 (s.dev.f1 .TBL_RING_SIZE n) % 2 ^ 32
  (∀ (n : Region) (desc next : Bytes) (s : State), takes s n 1 desc next → leAt desc 1 1 = 4 →
    Completes (.tblReadRow n desc next []) s fun t => t.tbl = s.dev.tbl ∧ wrote s n desc next 1 (leAt desc 4 4)
      (((s.dev.hop (leAt desc 0xB 1) (leAt desc 4 4)).map hopBytes).getD [] ++ List.replicate 48 0) t) ∧
  (∀ (n : Region) (desc next : Bytes) (s : State), takes s n 1 desc next → leAt desc 1 1 = 0 ∨ leAt desc 1 1 = 3 →
    bitOf (leAt desc 2 1) 1 = false →
    Completes (.tblReadRow n desc next []) s fun t =>
      let e := s.dev.readEntry (leAt desc 1 1) (leAt desc 0xB 1) (leAt desc 4 4)
      t.tbl = s.dev.tbl ∧ wrote s n desc next (if e.2 then stMoving else stOk) (leAt desc 4 4) e.1 t) ∧
  (∀ (n : Region) (desc next : Bytes) (s : State), takes s n 2 desc next → leAt desc 1 1 = 4 →
    Completes (.tblWriteRow n desc next) s fun t =>
      t.hop (leAt desc 0xB 1) (leAt desc 4 4) = hopOf (tblData desc next) ∧
      wrote s n desc next 1 (leAt desc 4 4) (tblData desc next) t) ∧
  (∀ (n : Region) (desc next : Bytes) (s : State), takes s n 2 desc next → leAt desc 1 1 = 0 →
    bitOf (leAt (tblData desc next) 8 1) 0 = true →
    leAt desc 4 4 ∈ s.dev.l2Cands (l2Of (tblData desc next)).mac (l2Of (tblData desc next)).vid →
    Completes (.tblWriteRow n desc next) s fun t => t.l2Row (leAt desc 4 4) = some (l2Of (tblData desc next)) ∧
      wrote s n desc next 1 (leAt desc 4 4) (tblData desc next) t) ∧
  (∀ (n : Region) (desc next : Bytes) (row : Nat) (s : State), takes s n 3 desc next → leAt desc 1 1 = 0 →
    let e := l2Of (tblData desc next)
    s.dev.l2Find e.mac e.vid = none → s.dev.findPath 4 (s.dev.l2Cands e.mac e.vid) = some [row] →
    Completes (.tblInsert n desc next []) s fun t =>
      t.l2Row row = some { e with lock := e.lock || bitOf (leAt desc 2 1) 0 } ∧
      wrote s n desc next 1 row (slice desc 0x10 48) t) ∧
  (∀ (n : Region) (desc next : Bytes) (r : Nat) (e : L2Entry) (s : State), takes s n 3 desc next → leAt desc 1 1 = 0 →
    s.dev.l2Find (beAt (tblData desc next) 0 6) (leAt (tblData desc next) 6 2 % 4096) = some (r, e) →
    Completes (.tblInsert n desc next []) s fun t =>
      t.l2Row r = some { l2Of (tblData desc next) with
        lock := (l2Of (tblData desc next)).lock || bitOf (leAt desc 2 1) 0 } ∧
      wrote s n desc next 3 r (tblData desc next) t) ∧
  (∀ (n : Region) (desc next : Bytes) (r : Nat) (e : L2Entry) (s : State), takes s n 4 desc next → leAt desc 1 1 = 0 →
    s.dev.l2Find (beAt (tblData desc next) 0 6) (leAt (tblData desc next) 6 2 % 4096) = some (r, e) →
    Completes (.tblDelete n desc next []) s fun t => t.l2Row r = none ∧
      wrote s n desc next 1 r (tblData desc next) t) ∧
  (∀ (n : Region) (desc next : Bytes) (r : Nat) (e : L2Entry) (s : State), takes s n 5 desc next → leAt desc 1 1 = 0 →
    s.dev.l2Find (beAt (tblData desc next) 0 6) (leAt (tblData desc next) 6 2 % 4096) = some (r, e) →
    e.moving = false → bitOf (leAt desc 2 1) 1 = false →
    Completes (.tblLookup n desc next []) s fun t => t.tbl = s.dev.tbl ∧ wrote s n desc next 1 r (l2Bytes e) t) ∧
  (∀ (n : Region) (desc next : Bytes) (s : State), takes s n 9 desc next → leAt desc 1 1 = 0 →
    Map.sorted s.dev.tbl.l2 = true →
    Completes (.tblFlush n desc next) s fun t =>
      let data := tblData desc next
      let same (v off : Nat) := Nat.land (Nat.xor v (leAt data off 2)) (leAt data (off + 4) 2) = 0
      let gone (e : L2Entry) := e.static_ = false ∧ e.lock = false ∧ same e.dest 0 ∧ same e.vid 2
      (∀ r e, t.l2Row r = some e → ¬gone e) ∧ (∀ r e, s.dev.l2Row r = some e → ¬gone e → t.l2Row r = some e) ∧
        wrote s n desc next 1 (leAt desc 4 4) data t) ∧
  (∀ (n : Region) (desc next : Bytes) (s : State), s.dev.tblReady n = true → s.dev.tblBad desc next = true →
    Completes (.tblBadDescriptor n desc next) s fun t => t.f1 .TBL_RING_STATUS_HALTED n = 1 ∧
      t.f1 .TBL_RING_STATUS_HALT_INDEX n = s.dev.f1 .TBL_RING_HEAD n % 2 ^ 16 ∧ t.f1 .TBL_RING_STATUS_ENABLED n = 0 ∧
      t.f1 .TBL_RING_HEAD n = s.dev.f1 .TBL_RING_HEAD n ∧ t.tbl = (s.dev.tblOrder n).tbl) ∧
  (∀ (n : Region) (desc next : Bytes) (s : State), s.dev.tblReady n = true → s.dev.tblBad desc next = false →
    tblNextBad desc next = true →
    Completes (.tblBadDescriptor n desc next) s fun t =>
      let second := (s.dev.f1 .TBL_RING_HEAD n + 1) % max 1 (s.dev.f1 .TBL_RING_SIZE n) % 2 ^ 32
      t.f1 .TBL_RING_STATUS_HALTED n = 1 ∧ t.f1 .TBL_RING_STATUS_HALT_INDEX n = second % 2 ^ 16 ∧
      t.f1 .TBL_RING_STATUS_ENABLED n = 0 ∧ t.f1 .TBL_RING_HEAD n = second) ∧
  (∀ (m : Master) (n : Region) (s : State), s.dev.Open m (Reg.TBL_RING_CTRL.addr n 0) →
    s.dev.b1 .TBL_RING_STATUS_HALTED n = true →
    Completes (.tblRingRestart m n) s fun t => t.f1 .TBL_RING_STATUS_HALTED n = 0 ∧
      t.f1 .TBL_RING_HEAD n = (s.dev.f1 .TBL_RING_HEAD n + 1) % max 1 (s.dev.f1 .TBL_RING_SIZE n) % 2 ^ 32 ∧
      t.reg.last = .ok 0)

/-- Prefixes: a transaction gives a prefix its next hop where the node memory has room, removes it, and reads it back; the nodes that a change replaced
are freed 1 us later; a rebuilt node answers again (R190 to R193, R198). -/
def Obligations.PrefixesAndTries : Prop :=
  let takes (s : State) (n op : Nat) (desc next : Bytes) := s.dev.tblReady n = true ∧ leAt desc 0 1 = op ∧
    s.dev.tblBad desc next = false ∧ tblNextBad desc next = false ∧ s.dev.tbl.reloc = none
  let wrote (s : State) (n : Nat) (desc : Bytes) (status : Nat) (data : Bytes) (t : Dev) :=
    Output.hostWrite (s.dev.tblAddr n (s.dev.f1 .TBL_RING_HEAD n)) (tblBack desc status (leAt desc 4 4) (data.take 48)) ∈ t.out
  let key (desc : Bytes) := k2 (prefixOf desc).2.1 (prefixOf desc).2.2
  (∀ (n : Region) (desc next : Bytes) (s : State), takes s n 6 desc next →
    let v6 := (prefixOf desc).1
    (Map.get none (s.dev.lpm v6) (key desc) = none → v6 = true →
      s.dev.bucketFull (prefixOf desc).2.1 (prefixOf desc).2.2 = false) →
    (s.dev.setLpm v6 (Map.set none (s.dev.lpm v6) (key desc) (some (leAt desc 0x20 3 % 2 ^ 18)))).lpmUsed v6 + s.dev.draw.1 ≤
      s.dev.carve (if v6 then 3 else 2) * 1024 →
    Completes (.tblPrefixAdd n desc next []) s fun t =>
      Map.get none (t.lpm (prefixOf desc).1) (key desc) = some (leAt desc 0x20 3 % 2 ^ 18) ∧
      (∀ k, k ≠ key desc → Map.get none (t.lpm (prefixOf desc).1) k = Map.get none (s.dev.lpm (prefixOf desc).1) k) ∧
      t.lpm (!(prefixOf desc).1) = s.dev.lpm (!(prefixOf desc).1) ∧ wrote s n desc 1 (tblData desc next) t) ∧
  (∀ (n : Region) (desc next : Bytes) (h : Nat) (s : State), takes s n 7 desc next →
    Map.get none (s.dev.lpm (prefixOf desc).1) (key desc) = some h →
    Completes (.tblPrefixDel n desc next []) s fun t => Map.get none (t.lpm (prefixOf desc).1) (key desc) = none ∧
      (∀ k, k ≠ key desc → Map.get none (t.lpm (prefixOf desc).1) k = Map.get none (s.dev.lpm (prefixOf desc).1) k) ∧
      wrote s n desc 1 (tblData desc next) t) ∧
  (∀ (n : Region) (desc next : Bytes) (h : Nat) (s : State), takes s n 8 desc next →
    Map.get none (s.dev.lpm (prefixOf desc).1) (key desc) = some h →
    Completes (.tblPrefixGet n desc next []) s fun t => t.tbl = s.dev.tbl ∧
      wrote s n desc 1 (patch (tblData desc next) 0x10 (leBytes 3 h)) t) ∧
  (∀ s : State, Completes .trieOldNodesFree s fun t => t.flds = s.dev.flds ∧
      ∀ x, x ∈ t.tbl.oldNodes ↔ x ∈ s.dev.tbl.oldNodes ∧ s.dev.now < x.1 + tUs) ∧
  (∀ (v6 : Bool) (bits path w : Nat) (s : State), (⟨v6, bits, path⟩, w) ∈ s.dev.tbl.nodesDown →
    Completes (.trieNodeRebuilt v6 bits path) s fun t => ∀ x, x ∈ t.tbl.nodesDown ↔
      x ∈ s.dev.tbl.nodesDown ∧ x.1 ≠ ⟨v6, bits, path⟩)

/-- Learning and the update port: a request is inserted into a free row, a relocation writes an occupant to its new row and then
drops the old one, the ageing pass clears HIT and then ages the entry; a failed lookup engine is spared, or with the
spare used isolates its region (R181 to R188, R200). -/
def Obligations.LearningAndAgeing : Prop :=
  (∀ (q : LearnReq) (rest : List LearnReq) (row : Nat) (s : State), s.dev.tbl.reloc = none →
    s.dev.tbl.learnQ = q :: rest → s.dev.l2Find q.mac q.vid = none →
    s.dev.findPath 4 (s.dev.l2Cands q.mac q.vid) = some [row] →
    Completes (.learnInsert []) s fun t => t.tbl.learnQ = rest ∧
      t.l2Row row = some ⟨q.mac, q.vid, false, false, true, false, false, false, false, q.destType, q.dest, 0xFFFF, 0xFF,
        s.dev.opMs / 1000 % 2 ^ 32, 0⟩ ∧
      t.ctr .TBL_LEARNED 0 = (s.dev.ctr .TBL_LEARNED 0 + 1) % 2 ^ 64) ∧
  (∀ (r : Reloc) (a b : Nat) (rest : List (Nat × Nat)) (e : L2Entry) (s : State), s.dev.tbl.reloc = some r →
    r.open_ = none → r.moves = (a, b) :: rest → r.table = 4 → s.dev.l2Row a = some e → a ≠ b →
    Completes (.relocationMove []) s fun t => t.l2Row a = some { e with moving := true } ∧
      t.l2Row b = some { e with moving := true } ∧
      t.tbl.reloc = some { r with moves := rest, open_ := some (a, b, s.dev.now) }) ∧
  (∀ (r : Reloc) (a b c : Nat) (e : L2Entry) (s : State), s.dev.tbl.reloc = some r → r.open_ = some (a, b, c) →
    c + 2 ≤ s.dev.now → r.table = 4 → s.dev.l2Row b = some e → a ≠ b → r.moves ≠ [] →
    Completes .relocationInvalidate s fun t => t.l2Row a = none ∧ t.l2Row b = some { e with moving := false } ∧
      t.tbl.reloc = some { r with open_ := none } ∧
      t.ctr .TBL_RELOCATIONS 0 = (s.dev.ctr .TBL_RELOCATIONS 0 + 1) % 2 ^ 64) ∧
  (∀ (e : L2Entry) (s : State), s.dev.ages = true → s.dev.tbl.reloc = none → s.dev.l2Row s.dev.tbl.agePos = some e → e.static_ = false → e.lock = false →
    Completes (.ageingVisit []) s fun t => t.l2Row s.dev.tbl.agePos = (if e.hit then some { e with hit := false } else none) ∧
      t.ctr .TBL_AGED 0 = (if e.hit then s.dev.ctr .TBL_AGED 0 else (s.dev.ctr .TBL_AGED 0 + 1) % 2 ^ 64) ∧
      t.tbl.agePos = (if s.dev.tbl.agePos + 1 < 8 * s.dev.l2Rows then s.dev.tbl.agePos + 1 else 0)) ∧
  (∀ (n : Region) (frames : List Nat) (s : State), s.dev.regionIsolated n = false →
    s.dev.b1 .TBL_STATUS_ENGINE_SPARE_USED n = true →
    Completes (.lookupEngineSpared n frames) s fun t => t.regionIsolated n = true) ∧
  (∀ (n : Region) (frames : List Nat) (s : State), s.dev.regionIsolated n = false →
    s.dev.b1 .TBL_STATUS_ENGINE_SPARE_USED n = false →
    Completes (.lookupEngineSpared n frames) s fun t => t.f1 .TBL_STATUS_ENGINE_SPARE_USED n = 1 ∧
      t.b0 .HLT_AUTUMN_CAUSE_SPARE = true ∧ t.tbl.l2 = s.dev.tbl.l2)

/-- Transactions of a region's TCAM ring that is ready and where no move runs: each well-formed descriptor of a
320-bit or 640-bit partition has its effect and is written back with its STATUS, HEAD moves on; a bad one halts the ring, and RESTART resumes behind it
(R205 to R209). -/
def Obligations.TcamTransactions : Prop :=
  let takes (s : State) (n op : Nat) (p : TcamPart) (desc next : Bytes) := s.dev.tcmReady n = true ∧ leAt desc 0 1 = op ∧
    s.dev.tcmBad desc next = false ∧ s.dev.tcamPart (leAt desc 1 1) = some p ∧ s.dev.search.move = none
  let wrote (s : State) (n : Nat) (desc : Bytes) (status index : Nat) (e : Option TcamEntry) (t : Dev) :=
    Output.hostWrite (s.dev.tcmAddr n (s.dev.f1 .TCM_RING_HEAD n)) (tcmBack desc status index e) ∈ t.out ∧
    t.f1 .TCM_RING_HEAD n = (s.dev.f1 .TCM_RING_HEAD n + (if s.dev.tcmWide desc then 2 else 1)) %
      max 1 (s.dev.f1 .TCM_RING_SIZE n) % 2 ^ 32
  (∀ (n : Region) (desc next : Bytes) (p : TcamPart) (s : State), takes s n 1 p desc next →
    s.dev.tcamEntry p.id (leAt desc 4 4) = none →
    Completes (.tcmReadEntry n desc next) s fun t => t.search = s.dev.search ∧
      wrote s n desc 1 (leAt desc 4 4) (some ⟨0, 0, 0, 0, 0⟩) t) ∧
  (∀ (n : Region) (desc next : Bytes) (p : TcamPart) (e : TcamEntry) (s : State), takes s n 1 p desc next →
    s.dev.tcamEntry p.id (leAt desc 4 4) = some e →
    Completes (.tcmReadEntry n desc next) s fun t => t.search = s.dev.search ∧
      wrote s n (patch desc 2 (leBytes 1 (leAt desc 2 1 + 128))) 1 (leAt desc 4 4) (some e) t ∧
      (p.wide = true → Output.hostWrite (s.dev.tcmAddr n (s.dev.f1 .TCM_RING_HEAD n + 1)) (tcmBackHi next (some e)) ∈ t.out)) ∧
  (∀ (n : Region) (desc next : Bytes) (p : TcamPart) (s : State), takes s n 2 p desc next →
    Completes (.tcmWriteEntry n desc next) s fun t =>
      (∃ e, t.tcamEntry p.id (leAt desc 4 4) = some e ∧ e.mask = tcmKey p.wide desc next 0x48 ∧
        e.value = Nat.land (tcmKey p.wide desc next 0x20) (tcmKey p.wide desc next 0x48) ∧ e.prio = leAt desc 0xA 2 ∧
        e.action = leAt desc 0xC 2 ∧ e.param = leAt desc 0x10 4) ∧
      (∀ i, i ≠ leAt desc 4 4 → t.tcamEntry p.id i = s.dev.tcamEntry p.id i) ∧
      wrote s n desc 1 (leAt desc 4 4) none t) ∧
  (∀ (n : Region) (desc next : Bytes) (p : TcamPart) (s : State), takes s n 3 p desc next → p.prio = false →
    s.dev.tcamEntry p.id (leAt desc 4 4) = none →
    Completes (.tcmInsertAt n desc next) s fun t =>
      t.tcamEntry p.id (leAt desc 4 4) = some (tcmEntry p.wide desc next) ∧ t.search.move = none ∧
      wrote s n desc 1 (leAt desc 4 4) none t) ∧
  (∀ (n : Region) (desc next : Bytes) (p : TcamPart) (s : State), takes s n 3 p desc next → p.prio = true →
    Completes (.tcmInsertAt n desc next) s fun t => t.search = s.dev.search ∧
      wrote s n desc stWrongMode (leAt desc 4 4) none t) ∧
  (∀ (n : Region) (desc next : Bytes) (p : TcamPart) (f : Nat) (s : State), takes s n 3 p desc next → p.prio = false →
    s.dev.tcamEntry p.id (leAt desc 4 4) ≠ none → s.dev.freeAbove p (leAt desc 4 4) = some f →
    s.dev.freeBelow p (leAt desc 4 4) = none →
    Completes (.tcmInsertAt n desc next) s fun t => t.search.tcam = s.dev.search.tcam ∧
      (t.search.move.map fun m => (m.part, m.up, m.at_, m.last, m.open_)) =
        some (p.id, true, f - 1, leAt desc 4 4, none)) ∧
  (∀ (n : Region) (desc next : Bytes) (p : TcamPart) (s : State), takes s n 4 p desc next →
    Completes (.tcmDeleteAt n desc next) s fun t => t.tcamEntry p.id (leAt desc 4 4) = none ∧
      (∀ i, i ≠ leAt desc 4 4 → t.tcamEntry p.id i = s.dev.tcamEntry p.id i) ∧ wrote s n desc 1 (leAt desc 4 4) none t) ∧
  (∀ (n : Region) (desc next : Bytes) (p : TcamPart) (i : Nat) (e : TcamEntry) (s : State), takes s n 5 p desc next →
    s.dev.tcamSearch p (tcmKey p.wide desc next 0x20) (2 ^ 64 - 1) = some (i, e) →
    Completes (.tcmLookup n desc next) s fun t => t.search = s.dev.search ∧ wrote s n desc 1 i (some e) t) ∧
  (∀ (n : Region) (desc next : Bytes) (p : TcamPart) (s : State), takes s n 6 p desc next →
    Completes (.tcmClearPartition n desc next) s fun t => (∀ i, t.tcamEntry p.id i = none) ∧
      (∀ q i, q ≠ p.id → t.tcamEntry q i = s.dev.tcamEntry q i) ∧ wrote s n desc 1 (leAt desc 4 4) none t) ∧
  (∀ (n : Region) (desc next : Bytes) (s : State), s.dev.tcmReady n = true → s.dev.tcmBad desc next = true →
    Completes (.tcmBadDescriptor n desc next) s fun t => t.f1 .TCM_RING_STATUS_HALTED n = 1 ∧
      t.f1 .TCM_RING_STATUS_HALT_INDEX n = s.dev.f1 .TCM_RING_HEAD n % 2 ^ 16 ∧ t.f1 .TCM_RING_STATUS_ENABLED n = 0 ∧
      t.search = s.dev.search) ∧
  (∀ (m : Master) (n : Region) (s : State), s.dev.Open m (Reg.TCM_RING_CTRL.addr n 0) →
    s.dev.b1 .TCM_RING_STATUS_HALTED n = true →
    Completes (.tcmRingRestart m n) s fun t => t.f1 .TCM_RING_STATUS_HALTED n = 0 ∧
      t.f1 .TCM_RING_HEAD n = (s.dev.f1 .TCM_RING_HEAD n + 1) % max 1 (s.dev.f1 .TCM_RING_SIZE n) % 2 ^ 32)

/-- Block moves and the scan: a step copies its entry into the next place, and ends by invalidating the old one, or in the last
step by writing the new entry there; a row that differs from its shadow is rewritten and counted, a bank that
stays bad isolates the regions that search it, an entry lost with both is
invalidated (R210 to R212). -/
def Obligations.TcamMovesAndScan : Prop :=
  (∀ (x : TcamMove) (s : State), s.dev.search.move = some x → x.open_ = none → x.nextAt ≤ s.dev.now →
    Completes .tcmMoveStep s fun t => t.tcamEntry x.part x.into = s.dev.tcamEntry x.part x.at_ ∧
      t.search.move = some { x with open_ := some s.dev.now, nextAt := s.dev.now + 8 } ∧
      t.ctr .TCM_ENTRIES_MOVED 0 = (s.dev.ctr .TCM_ENTRIES_MOVED 0 + 1) % 2 ^ 64) ∧
  (∀ (x : TcamMove) (a : Nat) (s : State), s.dev.search.move = some x → x.open_ = some a → a + 4 ≤ s.dev.now →
    Completes .tcmMoveInvalidate s fun t =>
      if x.at_ = x.last then t.tcamEntry x.part x.at_ = some x.entry ∧ t.search.move = none
      else t.tcamEntry x.part x.at_ = none ∧
        t.search.move = some { x with open_ := none, at_ := if x.up then x.at_ - 1 else x.at_ + 1 }) ∧
  (∀ (row : Fin 65536) (s : State), s.dev.b0 .TCM_STATUS_READY = true →
    exec (.tcamScanRow row 0 none) s = .next s) ∧
  (∀ (row : Fin 65536) (us : Nat) (s : State), s.dev.b0 .TCM_STATUS_READY = true →
    exec (.tcamScanRow row 0 (some us)) s = .next (s.on (s.dev.set0 .TCM_SCAN_LAST us))) ∧
  (∀ (row : Fin 65536) (pass : Option Nat) (s : State), s.dev.b0 .TCM_STATUS_READY = true →
    Completes (.tcamScanRow row 2 pass) s fun t => t.f0 .TCM_STATUS_HARD_FAULT = 1 ∧ t.f0 .TCM_LAST_FAULT_KIND = 3 ∧
      ∀ n ∈ s.dev.bankUsers (row.val / 1024), t.regionIsolated n = true) ∧
  (∀ (row : Fin 65536) (s : State), s.dev.b0 .TCM_STATUS_READY = true →
    Completes (.tcamScanRow row 1 none) s fun t => t.search = s.dev.search ∧ t.f0 .TCM_LAST_FAULT_KIND = 1 ∧
      t.f0 .TCM_LAST_FAULT_ADDR = row.val ∧
      t.ctr .TCM_ROWS_REWRITTEN 0 = (s.dev.ctr .TCM_ROWS_REWRITTEN 0 + 1) % 2 ^ 64) ∧
  (∀ (row : Fin 65536) (p : TcamPart) (i : Nat) (s : State), s.dev.b0 .TCM_STATUS_READY = true →
    s.dev.tcamAt row = some (p, i) →
    Completes (.tcamScanRow row 5 none) s fun t => t.tcamEntry p.id i = none ∧ t.f0 .TCM_LAST_FAULT_KIND = 2 ∧
      t.ctr .TCM_ENTRIES_LOST 0 = (s.dev.ctr .TCM_ENTRIES_LOST 0 + 1) % 2 ^ 64)

/-- The way of a frame through the buffer: a resolved frame that a port admits joins its class queue with its cells, one that is
dropped leaves nothing; the scheduler takes the head of the highest strict class; the port sends the bytes with a good FCS and
the last reference frees the cells; a second pass keeps the bytes as received, and a frame of the device's own is sent padded
(R42, R109, R111, R166, R242, R259, R264 to R266). -/
def Obligations.FrameThroughBuffer : Prop :=
  (∀ (id : Nat) (rx : Rx) (r : Resolved) (s : State), s.dev.rxFrame id = some rx → rx.res = some r →
    s.dev.winter = false → rx.lost = 0 → r.fwd = .drop → r.mirrors = 0 → r.copyHost = false →
    Completes (.frameLink id) s fun t => t.rxFrame id = none ∧ t.buf.chains = s.dev.buf.chains ∧
      t.buf.queues = s.dev.buf.queues ∧ t.flds = s.dev.flds) ∧
  (∀ (id p tc : Nat) (rx : Rx) (r : Resolved) (s : State), s.dev.rxFrame id = some rx → rx.res = some r →
    s.dev.winter = false → rx.lost = 0 → r.fwd = .port p → r.mirrors = 0 → r.copyHost = false → p < 128 →
    s.dev.classMap r.cls = tc → tc < 8 → s.dev.muted p = false → s.dev.portPast p = false → s.dev.holdPolicy tc = 0 →
    s.dev.clsLossless tc = false → s.dev.threshold p tc (cellsFor rx.len) r.colour = true →
    s.dev.descUsed < 1572864 → s.dev.fld .QUE_TC_ECN_ECN_MAX p tc = 0 →
    Completes (.frameLink id) s fun t => t.rxFrame id = none ∧
      t.queue p tc = s.dev.queue p tc ++ [{ Desc.plain id rx.len tc r.cls with
        no := s.dev.buf.links, colour := r.colour, edits := r.edits, holdOk := r.holdOk, tsId := rx.tsId }] ∧
      (∃ c, t.chain id = some c ∧ c.bytes = rx.bytes ∧ c.refs = 1 ∧ c.tc = tc) ∧
      t.ctr .QUE_ENQ_FRAMES (p * 10 + tc) = (s.dev.ctr .QUE_ENQ_FRAMES (p * 10 + tc) + 1) % 2 ^ 64) ∧
  (∀ (p : Port) (m : Fin 4) (rd : CellRead) (k i : Nat) (de : Desc) (s : State), s.dev.mayPick p m = true → k < 8 →
    s.dev.candidate p m k = some (i, de) → s.dev.clsStrict k = true →
    (∀ u < 8, k < u → s.dev.clsStrict u = false ∨ s.dev.candidate p m u = none) → s.dev.oversize p de = false →
    Completes (.schedulerPick ⟨p, by omega⟩ m rd) s fun t => t.queue p i = (s.dev.queue p i).drop 1 ∧
      ((Map.get none t.buf.macq (k2 p m)).map (·.desc) = some de ∨
        (Map.get none t.buf.inflight p).map (·.desc) = some de)) ∧
  (∀ (de : Desc) (rest : List Desc) (c : Chain) (m : Fin 4) (rd : CellRead) (s : State), s.dev.queue 134 0 = de :: rest →
    s.dev.chain de.chain = some c → c.marked = none → rd.bad = none → rd.corrupt = false ∨ de.truncates c = true →
    s.dev.winter = false → s.dev.buf.frozen = false → s.dev.boot.fwRuns = true →
    Completes (.schedulerPick 134 m rd) s fun t => t.queue 134 0 = rest ∧ Output.toFirmware c.body ∈ t.out) ∧
  (∀ (p : Port) (sub : Fin 8) (rd : CellRead) (rivals : List (Fin 7)) (f : TxFrame) (c : Chain) (s : State),
    s.dev.inflight p = some f → s.dev.winter = false → s.dev.buf.frozen = false → s.dev.chain f.desc.chain = some c →
    c.refs = 1 → c.hasFcs = true → c.marked = none → rd.bad = none → rd.corrupt = false → rd.freeBy = none →
    f.desc.edits.any = false → f.desc.fab = none → f.desc.trunc = 0 → f.desc.tsId = none → ptpOffset c.body = none →
    60 ≤ c.body.length → s.dev.portUsed p = true →
    Completes (.frameTransmit ⟨p, by omega⟩ sub rd rivals) s fun t =>
      Output.frame p (c.body ++ fcsOf c.body) true ∈ t.out ∧ t.chain f.desc.chain = none ∧
      t.ctr .MAC_TX_FRAMES p = (s.dev.ctr .MAC_TX_FRAMES p + 1) % 2 ^ 48 ∧
      t.ctr .MAC_TX_OCTETS p = (s.dev.ctr .MAC_TX_OCTETS p + (c.body.length + 4)) % 2 ^ 48) ∧
  (∀ (p : Port) (sub : Fin 8) (rd : CellRead) (rivals : List (Fin 7)) (x : OwnFrame) (b : Bytes) (s : State),
    s.dev.inflight p = none → (s.dev.macSt p).ownTx = some x → x.proto ≠ 3 → s.dev.ownBytes p x = some b →
    s.dev.winter = false → s.dev.buf.frozen = false →
    Completes (.frameTransmit ⟨p, by omega⟩ sub rd rivals) s fun t => Output.frame p (b ++ fcsOf b) true ∈ t.out) ∧
  (∀ (n : Region) (sub : Fin 8) (rd : CellRead) (rivals : List (Fin 7)) (f : TxFrame) (c : Chain) (s : State),
    s.dev.inflight (128 + n.val) = some f → s.dev.winter = false → s.dev.buf.frozen = false →
    s.dev.chain f.desc.chain = some c → c.marked = none → rd.bad = none → rd.corrupt = false → f.desc.edits.any = false →
    f.desc.trunc = 0 → cellsFor (max 60 c.body.length + 4) + 7 ≤ s.dev.freeCells →
    Completes (.frameTransmit ⟨128 + n, by omega⟩ sub rd rivals) s fun t => ∃ rx, t.rxFrame s.dev.buf.nextId = some rx ∧
      rx.bytes = padded c.body ++ fcsOf (padded c.body) ∧ rx.lost = 0 ∧ rx.pass = 1 ∧ rx.port = c.port ∧ rx.region = n.val ∧
      rx.startNode = (f.desc.recirc.getD (0, 0)).2 ∧ rx.profile = (f.desc.recirc.getD (0, 0)).1 ∧
      rx.orig = some (c.bytes, c.hasFcs))

/-- Flap timers that expire empty the queues they guard; an uncorrectable link memory means WINTER; the arrival reserve is
written above the floor; a staged capture record is sealed into its slot, of the hold store or of the host's ring, whose loss
stops it (R244, R245, R260, R273, R279, R357). -/
def Obligations.BufferEvents : Prop :=
  (∀ (p : Port) (a : Nat) (s : State), (s.dev.flapSt p).endAt = some a → a ≤ s.dev.now → s.dev.winter = false →
    Completes (.flapTimerExpire p) s fun t => t.flapSt p = ⟨none, true⟩ ∧ (∀ i < 10, t.queue p i = []) ∧
      t.ctr .QUE_FLAP_EXPIRED p = (s.dev.ctr .QUE_FLAP_EXPIRED p + 1) % 2 ^ 64) ∧
  (∀ (a : Fin 256) (x : Nat) (s : State), (Map.get ⟨none, false⟩ s.dev.buf.fabFlap a).endAt = some x → x ≤ s.dev.now →
    s.dev.winter = false →
    Completes (.fabricDestFlapExpire a) s fun t => Map.get ⟨none, false⟩ t.buf.fabFlap a = ⟨none, true⟩ ∧
      ∀ i < 8, t.queue (256 + a) i = []) ∧
  (∀ (k : Fin 4) (s : State),
    Completes (.bufLinkMemoryFailed k) s fun t => t.buf.linkFailed = true ∧ t.health = 3 ∧
      t.b0 .HLT_CAUSE_CORE_FATAL = true ∧ t.f0 .BUF_LAST_ECC_MEMORY = k.val) ∧
  (∀ (m : Master) (v : Fin 4294967296) (s : State), s.dev.Open m (Reg.BUF_ARRIVAL_RESERVE.addr 0 0) → 4096 ≤ v.val →
    v.val ≤ 65536 → 65536 ≤ (s.dev.set0 .BUF_ARRIVAL_RESERVE v).sharedSize →
    exec (.bufArrivalReserveWrite m v) s = .next (s.on ((s.dev.set0 .BUF_ARRIVAL_RESERVE v).complete (.ok 0)))) ∧
  (∀ (rec : Bytes) (rest : List Bytes) (s : State), s.dev.act.capFifo = rec :: rest → s.dev.f0 .ACT_CAP_CTRL_TARGET = 0 →
    s.dev.hld.mounted = true → s.dev.hld.outOfService = false → s.dev.hld.frozen = false → 0 < s.dev.hld.capGib →
    Completes (.captureRecordWrite false) s fun t => t.act.capFifo = rest ∧ t.act.capHead = s.dev.act.capHead + 1 ∧
      Map.get none t.hld.capArea (s.dev.act.capHead % (s.dev.hld.capGib * 8388608)) =
        some (sealRecord rec s.dev.act.capHead)) ∧
  (∀ (rec : Bytes) (rest : List Bytes) (s : State), s.dev.act.capFifo = rec :: rest → s.dev.f0 .ACT_CAP_CTRL_TARGET ≠ 0 →
    s.dev.b0 .ACT_CAP_CTRL_ENABLE = true → s.dev.host.lost = false → 2 ∉ s.dev.host.d3hot →
    Completes (.captureRecordWrite false) s fun t => t.act.capFifo = rest ∧ t.act.capHead = s.dev.act.capHead + 1 ∧
      Output.hostWrite (s.dev.f0 .ACT_CAP_HOST_HI * 2 ^ 32 + s.dev.f0 .ACT_CAP_HOST_LO * 4096 +
        s.dev.act.capHead % 2 ^ s.dev.f0 .ACT_CAP_HOST_LOG2 * 128) (sealRecord rec s.dev.act.capHead) ∈ t.out) ∧
  (∀ (rec : Bytes) (rest : List Bytes) (s : State), s.dev.act.capFifo = rec :: rest → s.dev.f0 .ACT_CAP_CTRL_TARGET ≠ 0 →
    s.dev.b0 .ACT_CAP_CTRL_ENABLE = true →
    Completes (.captureRecordWrite true) s fun t => t.f0 .ACT_CAP_CTRL_ENABLE = 0 ∧ t.f0 .ACT_CAP_CTRL_HOST_STOPPED = 1 ∧
      t.act.capFifo = s.dev.act.capFifo ∧ t.act.capHead = s.dev.act.capHead)

/-- Held frames: the hold writer stores the next frame of port 133 at the tail of its queue or, of a chain marked at a flap
expiry, ahead of its head; a row that is due is written and the oldest open row gives way; the head frame is drained to the
queue of its port, or dropped for its age (R293, R294, R297 to R299, R302). -/
def Obligations.HoldingAndDraining : Prop :=
  (∀ (rd : CellRead) (de : Desc) (h : Nat) (c : Chain) (b : Bytes) (s : State), s.dev.holdRuns = true →
    s.dev.rowBuffers + 5 ≤ 1024 → s.dev.holdNext = some de → de.holdQ = some h → s.dev.chain de.chain = some c →
    de.tc = h % 8 → c.marked = none → rd.bad = none → rd.corrupt = false → de.trunc = 0 →
    b = padded (applyEdits c.body de.edits (s.dev.f0 .ACT_TPID) (s.dev.macSa (s.dev.holdPort h de.fab))).1 →
    (h < 1024 → s.dev.portUsed (h / 8) = true ∧ b.length + 4 ≤ s.dev.f1 .MAC_MAX_FRAME (h / 8)) →
    s.dev.hld.ring.alloc.isSome = true →
    Completes (.holdWrite rd) s fun t =>
      (∃ f : Held, f.bytes = b ++ fcsOf b ∧ f.opMs = s.dev.opMs ∧ f.cls = de.cls ∧ f.fab = de.fab ∧
        let x := s.dev.holdQ h
        let more := ((s.dev.queue 133 (h % 8)).drop 1).any (fun e => e.headChain && e.holdQ == some h)
        let chain := if de.headChain then x.chain ++ [f] else x.chain
        let tail := if de.headChain then x.frames else x.frames ++ [f]
        if more then (t.holdQ h).chain = chain ∧ (t.holdQ h).frames = tail
        else (t.holdQ h).chain = [] ∧ (t.holdQ h).frames = chain ++ tail) ∧
      t.queue 133 de.tc = (s.dev.queue 133 de.tc).drop 1 ∧
      t.ctr .HLD_T_HELD_FRAMES (h % 8) = (s.dev.ctr .HLD_T_HELD_FRAMES (h % 8) + 1) % 2 ^ 64) ∧
  (∀ (x : Nat × Nat × Nat) (rest : List (Nat × Nat × Nat)) (s : State), s.dev.holdRuns = true →
    s.dev.hld.due = x :: rest →
    Completes .holdRowWrite s fun t => t.hld.due = rest ∧ t.hld.queues = s.dev.hld.queues) ∧
  (∀ (h : Nat) (head : Bool) (r : OpenRow) (s : State), s.dev.holdRuns = true → s.dev.hld.due = [] →
    1024 < s.dev.rowBuffers + 5 → s.dev.oldestRow = some (h, head, r) →
    Completes .holdRowWrite s fun t =>
      (if head then (t.holdQ h).chainRow else (t.holdQ h).row) =
        (if r.row = 15 then none else some { r with row := r.row + 1, used := 0, starts := 0, since := s.dev.now }) ∧
      t.ctr .HLD_ROWS_PADDED 0 = (s.dev.ctr .HLD_ROWS_PADDED 0 + 1) % 2 ^ 64) ∧
  (∀ (h : Fin 3056) (reads : List RowRead) (badFree : Option (Fin 3056 × Fin 67108864)) (p : Nat) (f : Held)
    (rest : List Held) (s : State), (s.dev.holdQ h).frames = f :: rest → (s.dev.holdQ h).active = true →
    (s.dev.holdQ h).chain = [] → s.dev.holdRuns = true → s.dev.drainState h = true → s.dev.drainPort h f = some p →
    (∀ de ∈ s.dev.queue 133 (h % 8), de.headChain = true → de.holdQ ≠ some h.val) →
    s.dev.clsMaxAge (h % 8) = 0 ∨ s.dev.opMs - f.opMs ≤ s.dev.clsMaxAge (h % 8) * 1000 → s.dev.drainRoom h p f = true →
    (Dev.readRows f (s.dev.rowsOnDies h f) reads s.dev).2 = true →
    Completes (.holdDrain h reads badFree) s fun t => (t.holdQ h).frames = rest ∧
      (∃ de, t.queue p (h % 8) = s.dev.queue p (h % 8) ++ [de] ∧ de.len = f.bytes.length ∧ de.drained = true ∧
        de.cls = f.cls ∧ de.fab = f.fab) ∧
      t.ctr .HLD_T_DRAINED_FRAMES (h % 8) = (s.dev.ctr .HLD_T_DRAINED_FRAMES (h % 8) + 1) % 2 ^ 64) ∧
  (∀ (h : Fin 3056) (reads : List RowRead) (badFree : Option (Fin 3056 × Fin 67108864)) (p : Nat) (f : Held)
    (rest : List Held) (s : State), (s.dev.holdQ h).frames = f :: rest → (s.dev.holdQ h).active = true →
    (s.dev.holdQ h).chain = [] → s.dev.holdRuns = true → s.dev.drainState h = true → s.dev.drainPort h f = some p →
    (∀ de ∈ s.dev.queue 133 (h % 8), de.headChain = true → de.holdQ ≠ some h.val) → s.dev.clsMaxAge (h % 8) ≠ 0 →
    s.dev.clsMaxAge (h % 8) * 1000 < s.dev.opMs - f.opMs →
    Completes (.holdDrain h reads badFree) s fun t => (t.holdQ h).frames = rest ∧ t.buf.queues = s.dev.buf.queues ∧
      t.ctr .HLD_T_AGE_DISCARD (h % 8) = (s.dev.ctr .HLD_T_AGE_DISCARD (h % 8) + 1) % 2 ^ 64)

/-- The free ring, the free sweep and the scrub: refills and spills move entries and lose none, the sweep returns the strays,
the scrub goes on by one stripe (R290, R306, R309). -/
def Obligations.FreeRingAndScrub : Prop :=
  (∀ s : State, s.dev.holdRuns = true → s.dev.hld.ring.allocHalf.length < 512 → 0 < s.dev.hld.ring.entries →
    Completes .freeRingRefill s fun t => t.hld.ring.entries = s.dev.hld.ring.entries - min 1024 s.dev.hld.ring.entries ∧
      t.hld.ring.headCnt = s.dev.hld.ring.headCnt + min 1024 s.dev.hld.ring.entries ∧
      (s.dev.hld.ring.holes = [] → t.hld.ring.free = s.dev.hld.ring.free ∧
        t.hld.ring.allocHalf.length = s.dev.hld.ring.allocHalf.length + min 1024 s.dev.hld.ring.entries)) ∧
  (∀ s : State, s.dev.holdRuns = true → 1536 < s.dev.hld.ring.freeHalf.length →
    Completes .freeRingSpill s fun t => t.hld.ring.free = s.dev.hld.ring.free ∧
      t.hld.ring.freeHalf = s.dev.hld.ring.freeHalf.drop 1024 ∧
      t.hld.ring.spilled = s.dev.hld.ring.spilled ++ s.dev.hld.ring.freeHalf.take 1024) ∧
  (∀ s : State, s.dev.holdRuns = true → s.dev.b0 .HLD_STATUS_SWEEPING = true →
    Completes .freeSweep s fun t => t.f0 .HLD_STATUS_SWEEPING = 0 ∧ t.hld.strays = [] ∧
      t.hld.ring.spilled = s.dev.hld.ring.spilled ++ s.dev.hld.strays.insertionSort (· ≤ ·)) ∧
  (∀ (m : Master) (s : State), s.dev.Open m (Reg.HLD_CTRL.addr 0 0) → s.dev.hld.mounted = true →
    s.dev.hld.outOfService = false →
    exec (.hldSweepCmd m) s = .next (s.on ((s.dev.set0 .HLD_STATUS_SWEEPING 1).complete (.ok 0)))) ∧
  (∀ (corr : List (HoldDie × Fin 9)) (bad : List HoldDie) (err : List (HoldDie × Fin 272 × Fin 256)) (s : State),
    s.dev.holdRuns = true →
    ¬(s.dev.hld.scrubAt = 0 ∧ s.dev.hld.lastScrub ≠ 0 ∧
      s.dev.now < s.dev.hld.lastScrub + s.dev.f0 .HLD_SCRUB_HOURS * 3600 * tSec) →
    Completes (.holdScrub corr bad err) s fun t => t.hld.scrubAt = (s.dev.hld.scrubAt + 1) % stripeCount ∧
      (bad = [] → err = [] → t.hld.queues = s.dev.hld.queues ∧
        t.ctr .HLD_SCRUB_REWRITES 0 =
          (s.dev.ctr .HLD_SCRUB_REWRITES 0 + corr.countP (fun x => decide (4 ≤ x.2.val))) % 2 ^ 64))

/-- Wear and format: a gap moves by one page, an exchange of two zones starts between the most and the least worn, goes on
page pair by page pair and ends with their places swapped, the wear counters are
saved, a format with its key starts and ends with an empty store (R310 to R312, R317).
Retraining of memory dies: it starts on a die whose temperature has moved by 5 C or whose turn in a pass it is, ends well
or badly or is abandoned after 1 ms, and the pages deferred meanwhile are rebuilt (R148 to R150). -/
def Obligations.HoldMaintenance : Prop :=
  (∀ (z : Fin 4096) (s : State), s.dev.holdRuns = true → s.dev.f0 .HLD_GAP_INTERVAL * 16 ≤ (s.dev.zone z).sinceGap →
    Completes (.gapMove z) s fun t =>
      (t.zone z).gap = (if (s.dev.zone z).gap = 0 then 16384 else (s.dev.zone z).gap - 1) ∧ (t.zone z).sinceGap = 0 ∧
      t.ctr .HLD_GAP_MOVES 0 = (s.dev.ctr .HLD_GAP_MOVES 0 + 1) % 2 ^ 64) ∧
  (∀ (a b n : Nat) (pairs : Fin 16385) (s : State), s.dev.holdRuns = true → s.dev.hld.swapping = some (a, b, n) →
    n + pairs.val < 16384 →
    Completes (.zoneSwap pairs) s fun t => t.hld.swapping = some (a, b, n + pairs.val) ∧ t.hld.zoneMap = s.dev.hld.zoneMap) ∧
  (∀ (a b n : Nat) (pairs : Fin 16385) (s : State), s.dev.holdRuns = true → s.dev.hld.swapping = some (a, b, n) →
    n ≤ 16384 → 16384 ≤ n + pairs.val → a ≠ b →
    Completes (.zoneSwap pairs) s fun t => t.physZone a = s.dev.physZone b ∧ t.physZone b = s.dev.physZone a ∧
      t.hld.swapping = none ∧ t.f0 .HLD_STATUS_SWAPPING = 0 ∧
      t.ctr .HLD_ZONE_SWAPS 0 = (s.dev.ctr .HLD_ZONE_SWAPS 0 + 1) % 2 ^ 64) ∧
  (∀ (pairs : Fin 16385) (s : State), s.dev.holdRuns = true → s.dev.hld.swapping = none →
    s.dev.hld.lastSwap + 3600 * tSec ≤ s.dev.now →
    (s.dev.zone s.dev.wornZones.2).wear + s.dev.f0 .HLD_ZONE_SWAP_DELTA ≤ (s.dev.zone s.dev.wornZones.1).wear →
    Completes (.zoneSwap pairs) s fun t => t.hld.lastSwap = s.dev.now ∧ t.f0 .HLD_STATUS_SWAPPING = 1 ∧
      t.hld.swapping = some (s.dev.logicalZone s.dev.wornZones.1, s.dev.logicalZone s.dev.wornZones.2, 0)) ∧
  (∀ s : State, s.dev.holdRuns = true → s.dev.hld.lastWearSave + 3600 * tSec ≤ s.dev.now →
    Completes .wearCounterSave s fun t => t.hld.lastWearSave = s.dev.now ∧
      (∀ z, (t.zone z).saved = (s.dev.zone z).wear ∧ (t.zone z).wear = (s.dev.zone z).wear) ∧ t.flds = s.dev.flds) ∧
  (∀ (m : Master) (cap : Fin 4096) (s : State), s.dev.Open m (Reg.HLD_FORMAT.addr 0 0) → pwMaster m = true →
    s.dev.b0 .HLD_FORMAT_BUSY = false → s.dev.winter = true ∨ s.dev.boot.committed = false →
    s.dev.hld.outOfService = false → cap.val ≤ 2048 →
    Completes (.hldFormat m 0x5A cap) s fun t => t.f0 .HLD_FORMAT_BUSY = 1 ∧ t.hld.formatting = some cap.val ∧
      t.reg.last = .ok 0) ∧
  (∀ (cap : Nat) (s : State), s.dev.hld.formatting = some cap →
    Completes .hldFormatDone s fun t => t.hld.formatting = none ∧ t.hld.capGib = cap ∧ t.hld.ring = ringFor cap ∧
      t.f0 .HLD_FORMAT_BUSY = 0 ∧ ∀ h, (t.holdQ h).frames = [] ∧ (t.holdQ h).chain = []) ∧
  (∀ (die : HoldDie) (s : State), s.dev.hld.retrain = none → s.dev.hld.rebuild = none → s.dev.hld.retrainNext ≤ s.dev.now →
    s.dev.hld.suspended = false → s.dev.hld.outOfService = false → s.dev.hld.fenced = false → s.dev.hld.frozen = false →
    die.val ∉ s.dev.hld.failedDies →
    s.dev.holdMoved die = true ∨ ((∀ i < 18, i ∉ s.dev.hld.failedDies → s.dev.holdMoved i = false) ∧
      (if s.dev.retrainDie s.dev.hld.retrainPos = 18 ∧
          (∀ t ∈ s.dev.hld.passAt, t + 600 * tSec ≤ s.dev.now) then s.dev.retrainDie 0
        else s.dev.retrainDie s.dev.hld.retrainPos) = die.val) →
    Completes (.holdRetrainStart die) s fun t => t.hld.retrain = some (die.val, s.dev.now) ∧
      t.hld.retrainNext = s.dev.now + 10 * tMs ∧ t.f1 .HLD_DIE_STATUS_STATE die = 1 ∧ t.f0 .HLD_RETRAIN_STATUS_ACTIVE = 1 ∧
      t.f0 .HLD_RETRAIN_STATUS_DIE = die.val ∧
      t.f1 .HLD_DIE_STATUS_RETRAIN_TEMP die = unsigned 8 (s.dev.holdTemp die / 16)) ∧
  (∀ (die : HoldDie) (a : Nat) (s : State), s.dev.hld.retrain = some (die.val, a) →
    Completes (.holdRetrainDone true) s fun t => t.hld.retrain = none ∧ Map.get 0 t.hld.retrainFails die = 0 ∧
      t.f1 .HLD_DIE_STATUS_STATE die = (if die.val ∈ s.dev.hld.failedDies then 2 else 0) ∧
      t.f0 .HLD_RETRAIN_STATUS_ACTIVE = 0) ∧
  (∀ (die : HoldDie) (a : Nat) (s : State), s.dev.hld.retrain = some (die.val, a) →
    Map.get 0 s.dev.hld.retrainFails die = 0 →
    Completes (.holdRetrainDone false) s fun t => t.hld.retrain = none ∧ Map.get 0 t.hld.retrainFails die = 1 ∧
      t.f0 .HLD_RETRAIN_STATUS_ACTIVE = 0 ∧ t.hld.failedDies = s.dev.hld.failedDies) ∧
  (∀ (die : HoldDie) (a : Nat) (s : State), s.dev.hld.retrain = some (die.val, a) →
    1 ≤ Map.get 0 s.dev.hld.retrainFails die →
    Completes (.holdRetrainDone false) s fun t => t.hld.retrain = none ∧ die.val ∈ t.hld.failedDies) ∧
  (∀ (die : HoldDie) (a : Nat) (s : State), s.dev.hld.retrain = some (die.val, a) → a + tMs ≤ s.dev.now →
    Map.get 0 s.dev.hld.retrainFails die = 0 →
    Completes .holdRetrainTimeout s fun t => t.hld.retrain = none ∧ Map.get 0 t.hld.retrainFails die = 1 ∧
      t.f0 .HLD_RETRAIN_STATUS_ACTIVE = 0 ∧ t.hld.failedDies = s.dev.hld.failedDies) ∧
  (∀ (die : Nat) (s : State), s.dev.hld.rebuild = some die → s.dev.holdRuns = true →
    Completes .deferralListRebuild s fun t => t.hld.deferral = [] ∧ t.hld.rebuild = none ∧
      t.f0 .HLD_RETRAIN_STATUS_DEFERRED = 0)

/-- The adjacency of a fabric port: hellos go out with this device's identity; accepted ones take it from DOWN to HEARD and, once
they name this device, to FULL with the agreed version; one that no longer names it takes it back to HEARD, one not later than
the last is counted as replayed; DEAD_TIME takes it down, a third bad tag in a row refuses it, and 10 s
end that (R352 to R354, R359). -/
def Obligations.FabricAdjacencies : Prop :=
  let sound (p : Port) (h : Hello) (s : State) := s.dev.fabPort p = true ∧ s.dev.linkUp p = true ∧ s.dev.winter = false ∧
    h.formOk = true ∧ 10 ≤ h.interval ∧ 2 * h.interval ≤ h.dead
  let fresh (p : Port) (h : Hello) (s : State) :=
    h.tagOk = true ∧ (∀ q, Map.find? (s.dev.adjSt p).last h.factory = some q → laterHello (h.power, h.seq) q = true) ∧ h.interval * 2 ≤ s.dev.fabDead ∧
      ((s.dev.adjSt p).neighId = 0 ∨ (s.dev.adjSt p).neighId = h.factory)
  (∀ (p : Port) (s : State), s.dev.boot.fwRuns = true → s.dev.fabPort p = true → s.dev.linkUp p = true →
    s.dev.winter = false → s.dev.helloDue p = true →
    Completes (.fabHelloSend p) s fun t => (t.adjSt p).helloAt = some s.dev.now ∧
      t.hasOwn p 1 4 [0x21, s.dev.fabAddr, Map.get 0 (s.dev.adjSt p).sent 4, 0x21, 0x10, s.dev.helloFlags, p,
        s.dev.fabInterval, s.dev.fabDead, ownId, (s.dev.adjSt p).neighId, s.dev.f0 .FAB_LSA_SEQ, s.dev.f0 .CLK_POWER_CYCLES] ∧
      s.dev.counted t .FAB_HELLO_TX 0 1) ∧
  (∀ (p : Port) (h : Hello) (s : State), sound p h s → fresh p h s → s.dev.adjState p = 0 →
    Completes (.fabHelloReceive p h) s fun t => t.adjState p = 1 ∧ (t.adjSt p).neighId = h.factory ∧
      (t.adjSt p).heardAt = s.dev.now ∧ s.dev.counted t .FAB_HELLO_RX 0 1) ∧
  (∀ (p : Port) (h : Hello) (v : Nat) (s : State), sound p h s → fresh p h s → s.dev.adjState p = 1 → h.neigh = ownId →
    v = min 0x21 h.verMax → 0x10 ≤ v → h.verMin ≤ v →
    Completes (.fabHelloReceive p h) s fun t => t.adjState p = 2 ∧ t.f1 .FAB_ADJ_VERSION p = v ∧
      t.f1 .FAB_ADJ_NEIGH_DEV p = h.srcDev % 256 ∧ t.fab.originateDue = true) ∧
  (∀ (p : Port) (h : Hello) (s : State), sound p h s → fresh p h s → s.dev.adjState p = 1 → h.neigh = ownId →
    min 0x21 h.verMax < 0x10 ∨ min 0x21 h.verMax < h.verMin →
    Completes (.fabHelloReceive p h) s fun t => t.adjState p = 3 ∧ s.dev.counted t .FAB_VERSION_MISMATCH 0 1) ∧
  (∀ (p : Port) (h : Hello) (s : State), sound p h s → fresh p h s → s.dev.adjState p = 2 → h.neigh ≠ ownId →
    Completes (.fabHelloReceive p h) s fun t => t.adjState p = 1 ∧ t.fab.originateDue = true ∧
      ∀ x ∈ t.fab.sends, x.port ≠ p.val) ∧
  (∀ (p : Port) (h : Hello) (q : Nat × Nat) (s : State), sound p h s → s.dev.adjState p ≠ 4 → h.tagOk = true →
    Map.find? (s.dev.adjSt p).last h.factory = some q → laterHello (h.power, h.seq) q = false →
    Completes (.fabHelloReceive p h) s fun t => s.dev.counted t .FAB_REPLAYED 0 1 ∧ t.adjState p = s.dev.adjState p ∧
      (t.adjSt p).heardAt = (s.dev.adjSt p).heardAt) ∧
  (∀ (p : Port) (h : Hello) (s : State), sound p h s → s.dev.adjState p ≠ 4 → h.tagOk = false →
    Completes (.fabHelloReceive p h) s fun t => s.dev.counted t .FAB_BAD_TAG 0 1 ∧
      (t.adjState p = if (s.dev.adjSt p).tagFails < 2 then s.dev.adjState p else 4)) ∧
  (∀ (p : Port) (s : State), s.dev.adjState p ≠ 0 → s.dev.adjState p ≠ 4 →
    (s.dev.adjSt p).heardAt + s.dev.fabDead * tMs ≤ s.dev.now →
    Completes (.fabDeadTime p) s fun t => t.adjState p = 0 ∧ (t.adjSt p).neighId = 0) ∧
  (∀ (p : Port) (a : Nat) (s : State), s.dev.adjState p = 4 → (s.dev.adjSt p).refusedAt = some a → a + 10 * tSec ≤ s.dev.now →
    Completes (.fabRefusedEnd p) s fun t => t.adjState p = 0 ∧ (t.adjSt p).refusedAt = none)

/-- Link state: a due record is originated and sent on every FULL adjacency, a newer one received replaces the older, is
acknowledged and flooded, an acknowledgement ends its repetition, an unacknowledged send is repeated, and a record not refreshed
for 40 s goes; then routes are computed in one write, and a parity error takes an entry down (R355, R356, R364). -/
def Obligations.FabricLinkState : Prop :=
  (∀ (s : State), s.dev.boot.fwRuns = true → s.dev.fabMember = true → s.dev.winter = false →
    s.dev.fab.originateDue = true → ¬(s.dev.b0 .FAB_STATUS_CONFLICT = true ∧ s.dev.fab.own.any (·.conflict) = true) →
    s.dev.fab.originatedAt.all (fun a => decide (a + 20 * tMs ≤ s.dev.now)) = true →
    Completes .fabLsaOriginate s fun t => t.fab.own = some s.dev.ownRecord ∧ t.fab.originateDue = false ∧
      t.fab.originatedAt = some s.dev.now ∧ t.fab.changedAt = some s.dev.now ∧
      t.f0 .FAB_LSA_SEQ = s.dev.ownRecord.seq ∧
      ∀ p < 128, s.dev.adjState p = 2 → ⟨p, ownId, s.dev.ownRecord.seq, s.dev.now⟩ ∈ t.fab.sends ∧
        (s.dev.linkUp p = true → ∃ x ∈ t.ownFrames p, x.proto = 1 ∧ x.type = 6)) ∧
  (∀ (p : Port) (r : Lsa) (s : State), s.dev.fabPort p = true → s.dev.adjState p = 2 → s.dev.winter = false →
    s.dev.linkUp p = true → r.formOk = true → r.tagOk = true → r.factory ≠ ownId →
    (∀ x ∈ s.dev.fab.lsdb, x.factory = r.factory → seqAfter r.seq x.seq = true) →
    s.dev.fab.lsdb.length + b2n s.dev.fab.own.isSome < 256 ∨ (∃ x ∈ s.dev.fab.lsdb, x.factory = r.factory) →
    Completes (.fabLsaReceive p r) s fun t =>
      (∃ x ∈ t.fab.lsdb, x = ⟨r.origin, r.health, r.conflict, r.elected, r.seq, r.age, r.factory, r.links, s.dev.now⟩) ∧
      (∀ x ∈ t.fab.lsdb, x.factory = r.factory → x.seq = r.seq) ∧ t.fab.changedAt = some s.dev.now ∧
      t.hasOwn p 1 7 [s.dev.f1 .FAB_ADJ_VERSION p, s.dev.fabAddr, Map.get 0 (s.dev.adjSt p).sent 7, r.origin, r.factory, r.seq] ∧
      ∀ q < 128, q ≠ p.val → s.dev.adjState q = 2 → ⟨q, r.factory, r.seq, s.dev.now⟩ ∈ t.fab.sends) ∧
  (∀ (p : Port) (factory seq : Nat) (s : State),
    Completes (.fabLsaAckReceive p factory seq) s fun t => t.flds = s.dev.flds ∧ t.fab.lsdb = s.dev.fab.lsdb ∧
      ∀ x, x ∈ t.fab.sends ↔ x ∈ s.dev.fab.sends ∧ ¬(x.port = p.val ∧ x.factory = factory ∧ x.seq = seq)) ∧
  (∀ (p : Port) (x : LsaSend) (r : LsaRec) (s : State), x ∈ s.dev.fab.sends → x.port = p.val →
    x.at_ + 100 * tMs ≤ s.dev.now →
    (s.dev.fab.own.toList ++ s.dev.fab.lsdb).find? (fun y => y.factory == x.factory) = some r →
    Completes (.fabLsaRetransmit p) s fun t => ⟨p.val, x.factory, r.seq, s.dev.now⟩ ∈ t.fab.sends) ∧
  (∀ (s : State), Completes .fabLsaExpire s fun t => t.fab.own = s.dev.fab.own ∧
    ∀ x, x ∈ t.fab.lsdb ↔ x ∈ s.dev.fab.lsdb ∧ s.dev.now < x.refreshed + 40 * tSec) ∧
  (∀ (us : Nat) (s : State), s.dev.fab.changedAt.isSome = true → us < 2 ^ 16 →
    Completes (.fabRouteCompute us) s fun t => t.fab.changedAt = none ∧ t.f0 .FAB_SPF_LAST = us ∧
      s.dev.counted t .FAB_SPF_RUNS 0 1 ∧
      ∀ a, (t.route a).bad = false ∧ (t.route a).ports.length ≤ 8 ∧
        ((a = 0 ∨ 255 ≤ a ∨ a = s.dev.fabAddr) → (t.route a).ports = [])) ∧
  (∀ (a : Fin 256) (r : Route) (s : State), Map.find? s.dev.fab.routes a = some r →
    Completes (.fabRouteParity a) s fun t => t.routeDown a = true ∧ t.fab.changedAt.isSome = true ∧
      s.dev.counted t .FAB_ROUTE_PARITY 0 1)

/-- Data frames of the fabric: one for this device enters the pipeline as its inner frame, one in transit is counted, one out of
hops or on a port that is not FULL is dropped and counted, as is a mirror copy for a session that does not take it; a multicast copy passes the reverse-path check and joins its local
group's queue, and is dropped and counted on another port (R351, R354, R357, R358).
Addresses and notices: an unaddressed member elects the unused address whose rank among the unused ones is the number of
unaddressed members with a lower identity; a notice is taken once per origin and cause (R360, R363). -/
def Obligations.FabricTraffic : Prop :=
  (let sound (id : Nat) (rx : Rx) (h : FabHdr) (s : State) := s.dev.fabFrame id = some rx ∧ h = fabHdrOf rx.bytes ∧
    s.dev.winter = false ∧ s.dev.forwards = true ∧ s.dev.fabRefuses rx = none
  (∀ (id : Nat) (rx : Rx) (h : FabHdr) (s : State), sound id rx h s → h.type = 0 → h.dst = s.dev.fabAddr →
    beAt (innerOf rx.bytes) 0 6 ≠ 0x0180C200000E ∨ beAt (innerOf rx.bytes) 12 2 ≠ s.dev.fabType →
    Completes (.fabDataReceive id) s fun t => t.rxFrame id = some { rx with
        bytes := innerOf rx.bytes, hasFcs := false, srcDev := some h.src, dflt := some (h.cls, s.dev.fabHold rx.port h) } ∧
      (h.seq = some (Map.get 0 s.dev.fab.seqRx (k2 h.src (s.dev.classMap h.cls))) →
        t.ctr .FAB_SEQ_GAP 0 = s.dev.ctr .FAB_SEQ_GAP 0 % 2 ^ 64 ∧ Map.get 0 t.fab.seqRx (k2 h.src (s.dev.classMap h.cls)) =
          (Map.get 0 s.dev.fab.seqRx (k2 h.src (s.dev.classMap h.cls)) + 1) % 2 ^ 32)) ∧
  (∀ (id : Nat) (rx : Rx) (h : FabHdr) (s : State), sound id rx h s → h.type = 0 → h.dst ≠ s.dev.fabAddr →
    Completes (.fabDataReceive id) s fun t => t.rxFrame id = none ∧
      (if 2 ≤ h.hop then s.dev.counted t .FAB_TRANSIT_FRAMES 0 1 else s.dev.counted t .FAB_HOP_LIMIT_DROP 0 1)) ∧
  (∀ (id : Nat) (rx : Rx) (h : FabHdr) (s : State), sound id rx h s → h.type = 2 → h.dst = s.dev.fabAddr →
    s.dev.b1 .MIR_CFG_EN (h.aux % 16) = false ∨ s.dev.f1 .MIR_CFG_TYPE (h.aux % 16) ≠ 2 ∨ 16 ≤ h.aux →
    Completes (.fabDataReceive id) s fun t => t.rxFrame id = none ∧ s.dev.counted t .MIR_SKIPPED (h.aux % 16) 1) ∧
  (∀ (id : Nat) (rx : Rx) (s : State), s.dev.fabFrame id = some rx → (fabHdrOf rx.bytes).type ≠ 1 → s.dev.forwards = true →
    s.dev.adjState rx.port ≠ 2 →
    Completes (.fabDataReceive id) s fun t => t.rxFrame id = none ∧ s.dev.counted t .FAB_NOT_MEMBER_DROP 0 1) ∧
  (∀ (id : Nat) (rx : Rx) (h : FabHdr) (p : Port) (s : State), sound id rx h s → h.type = 1 → s.dev.routeDown h.src = false →
    (s.dev.route h.src).ports.head? = some rx.port → s.dev.group h.aux = ⟨2 ^ p.val, false, false⟩ → p.val ≠ rx.port →
    rx.lost = 0 → s.dev.fabPort p = false → s.dev.muted p = false → s.dev.portPast p = false →
    bitOf (s.dev.f1 .QUE_PORT_CFG_MC_MAP p) (s.dev.classMap h.cls) = false →
    s.dev.clsLossless (s.dev.classMap h.cls) = false → s.dev.threshold p 8 (cellsFor (rx.bytes.length - 30)) .green = true →
    s.dev.descUsed < 1572864 → s.dev.fld .QUE_TC_ECN_ECN_MAX p (s.dev.queueClass p 8) = 0 →
    Completes (.fabMcCopyReceive id) s fun t => t.rxFrame id = none ∧
      (∃ de, t.queue p 8 = s.dev.queue p 8 ++ [de] ∧ de.chain = id ∧ de.copy = true) ∧
      (∃ c, t.chain id = some c ∧ c.bytes = innerOf rx.bytes ∧ c.refs = 1)) ∧
  (∀ (id : Nat) (rx : Rx) (h : FabHdr) (s : State), sound id rx h s → h.type = 1 →
    (s.dev.route h.src).ports.head? ≠ some rx.port →
    Completes (.fabMcCopyReceive id) s fun t => t.rxFrame id = none ∧ s.dev.counted t .FAB_RPF_DROP 0 1 ∧
      t.buf.queues = s.dev.buf.queues)) ∧
  (∀ (f : Nat) (s : State), s.dev.fabMember = true → s.dev.fabAddr = 0 → leAt (s.dev.section 9 4) 0 1 = 0 →
    s.dev.fab.firstFull = some f → f + 3 * s.dev.fabDead * tMs ≤ s.dev.now → s.dev.fab.lsdb.length < 127 →
    Completes .fabAddressElect s fun t => t.f0 .FAB_STATUS_ELECTED = 1 ∧ t.fab.originateDue = true ∧
      1 ≤ t.fabAddr ∧ t.fabAddr ≤ 254 ∧ (∀ r ∈ s.dev.fab.lsdb, r.origin ≠ t.fabAddr) ∧
      ((List.range t.fabAddr).filter (fun a => decide (1 ≤ a) && s.dev.fab.lsdb.all (fun r => decide (r.origin ≠ a)))).length =
        s.dev.fab.lsdb.countP (fun r => decide (r.origin = 0) && decide (r.factory < ownId))) ∧
  (∀ (p : Port) (origin health : Fin 256) (cause : Fin 65536) (factory : Nat) (s : State), s.dev.fabPort p = true →
    s.dev.adjState p = 2 → s.dev.f1 .FAB_ADJ_VERSION p = 0x21 → s.dev.winter = false → factory ≠ ownId →
    (origin.val, cause.val) ∉ s.dev.fab.notices →
    Completes (.fabNoticeReceive p true true origin health cause factory) s fun t =>
      t.fab.notices = (origin.val, cause.val) :: s.dev.fab.notices ∧
      ∀ q < 128, q ≠ p.val → s.dev.adjState q = 2 → s.dev.f1 .FAB_ADJ_VERSION q = 0x21 → s.dev.linkUp q = true →
        t.hasOwn q 1 5 [0x21, s.dev.fabAddr, Map.get 0 (s.dev.adjSt q).sent 5, origin, health, cause, factory]) ∧
  (∀ (p : Port) (origin health : Fin 256) (cause : Fin 65536) (factory : Nat) (s : State),
    (origin.val, cause.val) ∈ s.dev.fab.notices →
    exec (.fabNoticeReceive p true true origin health cause factory) s = .next s)

/-- Heartbeats and the pins: a pair link carries a heartbeat and a valid one is kept; a higher epoch of an active partner
supersedes; a lost heartbeat clears HB_OK; an isolated link resumes; LEASE_IN against the own timer means WINTER, and copies
that disagree mean AUTUMN (R368, R370, R371, R380, R381, R393). -/
def Obligations.HeartbeatsAndPins : Prop :=
  (∀ (p : Port) (s : State), p.val ∈ s.dev.pairPorts → s.dev.linkUp p = true → s.dev.winter = false →
    s.dev.boot.fwRuns = true → (s.dev.pairLink p).isolatedUntil = none → (s.dev.pairLink p).refused = false →
    (∀ a ∈ (s.dev.pairLink p).hbSent, a + tMs ≤ s.dev.now) →
    Completes (.pairHeartbeatSend p) s fun t => s.dev.counted t .PAIR_HB_TX 0 1 ∧
      (t.pairLink p).hbSent = some s.dev.now ∧
      t.hasOwn p 2 1 (s.dev.pairHeader 0x13 s.dev.partnerAddr s.dev.pair.epoch (Map.get 0 s.dev.pair.seqTx 1) ++
        [(s.dev.pair.lease.map (fun a => (a - s.dev.now) / tUs)).getD 0, s.dev.structCrc])) ∧
  (∀ (p : Port) (m : PairMsg) (s : State), s.dev.hears p 1 m → s.dev.fromPartner m → p.val ∈ s.dev.pairPorts →
    (s.dev.pairLink p).version ≠ 0 ∨ (agreed 0x13 0x10 m.verMax m.verMin).isSome = true →
    Completes (.pairHeartbeatReceive p m) s fun t => t.b0 .PAIR_STATUS_HB_OK = true ∧ t.pair.hbAt = some s.dev.now ∧
      t.pair.partner = some ⟨m.active, m.claiming, m.synced, m.health, m.epoch, m.structCrc⟩ ∧
      s.dev.counted t .PAIR_HB_RX 0 1 ∧
      (s.dev.isActive = true → m.active = true → seqAfter m.epoch s.dev.pair.epoch = true →
        t.role = 2 ∧ t.pair.lease = none ∧ t.pins.leaseOut = false ∧ t.pair.epoch = m.epoch)) ∧
  (∀ (a : Nat) (s : State), s.dev.b0 .PAIR_STATUS_HB_OK = true → s.dev.pair.hbAt = some a →
    a + s.dev.f0 .PAIR_TIMERS_HB_MISS * tMs ≤ s.dev.now →
    Completes .pairHbLost s fun t => t.b0 .PAIR_STATUS_HB_OK = false ∧ t.pair = s.dev.pair) ∧
  (∀ (p : Port) (a : Nat) (s : State), (s.dev.pairLink p).isolatedUntil = some a → a ≤ s.dev.now →
    Completes (.pairLinkIsolateEnd p) s fun t => t.pairLink p = { s.dev.pairLink p with isolatedUntil := none }) ∧
  (∀ (a b : Bool) (s : State), (s.dev.pair.lease = none ∨ (a || b) = false) →
    Completes (.leaseInterlock a b) s fun t => t.leaseIn = (a || b) ∧ t.b0 .PAIR_STATUS_LEASE_IN = a ∧
      t.b0 .PAIR_STATUS_LEASE_IN_B = b ∧ t.pair.lease = s.dev.pair.lease) ∧
  (∀ (a b : Bool) (s : State), s.dev.pair.lease.isSome = true → (a || b) = true → s.dev.winter = false →
    Completes (.leaseInterlock a b) s fun t => t.health = 3 ∧ t.b0 .HLT_CAUSE_INTERLOCK = true ∧ t.pair.lease = none ∧
      t.pins.leaseOut = false) ∧
  (∀ (a : Nat) (s : State), s.dev.pair.pinsDiffer = some a → a + tMs < s.dev.now →
    s.dev.b0 .HLT_AUTUMN_CAUSE_LEASE_PIN = false → s.dev.health = 1 →
    Completes .leasePinMismatch s fun t => t.health = 2 ∧ t.b0 .HLT_AUTUMN_CAUSE_LEASE_PIN = true)

/-- The lease of the active: a renewal goes out on every pair link, an acknowledgement in time sets the timer to its send instant
plus L, a missed one is counted and leaves the timer; a timer that expires, and a release, leave a STANDBY member with LEASE_OUT
low; claims are held off and allowed by command (R370, R374, R377, R383). -/
def Obligations.LeaseOfTheActive : Prop :=
  let cmd (m : Master) (s : State) := s.dev.Open m (Reg.PAIR_LEASE_CMD.addr 0 0) ∧ pwMaster m = true ∧
    s.dev.b0 .PAIR_LEASE_CMD_BUSY = false
  (∀ (s : State), s.dev.isActive = true → s.dev.pair.lease.isSome = true → s.dev.winter = false →
    (∀ x ∈ s.dev.pair.renewal, x.at_ + s.dev.renewTicks ≤ s.dev.now) → s.dev.witnessCount ≠ 0 →
    Completes .pairRenewSend s fun t =>
      t.pair.renewal = some ⟨s.dev.now, Map.get 0 s.dev.pair.seqTx 2, [], false⟩ ∧ t.pair.lease = s.dev.pair.lease ∧
      ∀ p ∈ s.dev.pairLinks 0x10, t.hasOwn p 2 2 (s.dev.pairHeader (s.dev.pairLink p).version s.dev.partnerAddr
        s.dev.pair.epoch (Map.get 0 s.dev.pair.seqTx 2))) ∧
  (∀ (a b : Nat) (s : State), s.dev.isActive = true → s.dev.pair.lease.isSome = true → s.dev.winter = false →
    (∀ x ∈ s.dev.pair.renewal, x.at_ + s.dev.renewTicks ≤ s.dev.now) → s.dev.witnessCount = 0 →
    s.dev.pair.lowSince = some a → s.dev.pair.lastRenewed = some b → a ≤ b →
    Completes .pairRenewSend s fun t => t.pair.lease = some (s.dev.now + s.dev.leaseTicks) ∧
      s.dev.counted t .PAIR_RENEW_OK 0 1) ∧
  (∀ (p : Port) (m : PairMsg) (x : Poll) (s : State), s.dev.hears p 3 m → s.dev.fromPartner m → s.dev.isActive = true →
    s.dev.pair.renewal = some x → x.done = false → m.seq = x.seq → m.epoch = s.dev.pair.epoch →
    s.dev.now ≤ x.at_ + 2 * tMs →
    Completes (.pairRenewAckReceive p m) s fun t => t.pair.lease = some (x.at_ + s.dev.leaseTicks) ∧
      s.dev.counted t .PAIR_RENEW_OK 0 1) ∧
  (∀ (x : Poll) (s : State), s.dev.pair.renewal = some x → x.done = false → x.at_ + 2 * tMs ≤ s.dev.now →
    Completes .pairRenewDeadline s fun t => t.pair.lease = s.dev.pair.lease ∧ s.dev.counted t .PAIR_RENEW_FAILED 0 1 ∧
      t.pair.renewal = some { x with done := true }) ∧
  (∀ (a : Nat) (s : State), s.dev.pair.lease = some a → a ≤ s.dev.now → s.dev.isActive = true →
    Completes .leaseTimerExpire s fun t => t.pair.lease = none ∧ t.pins.leaseOut = false ∧ t.role = 2 ∧
      t.b0 .PAIR_STATUS_LEASE_OUT = false ∧ t.health = s.dev.health) ∧
  (∀ (m : Master) (s : State), cmd m s → s.dev.mayRelease = true →
    Completes (.pairRelease m) s fun t => t.pair.lease = none ∧ t.pins.leaseOut = false ∧ t.role = 2 ∧
      t.health = s.dev.health ∧ t.pair.epoch = s.dev.pair.epoch ∧
      (s.dev.winter = false → ∀ p ∈ s.dev.pairLinks 0x10, ∃ x ∈ t.ownFrames p, x.proto = 2 ∧ x.type = 7)) ∧
  (∀ (m : Master) (s : State), cmd m s → s.dev.mayRelease = false →
    exec (.pairRelease m) s = .next (s.on ((s.dev.set0 .PAIR_LEASE_CMD_REFUSED 1).complete (.ok 0)))) ∧
  (∀ (m : Master) (s : State), cmd m s →
    exec (.pairHoldOff m) s = .next (s.on ((s.dev.set0 .PAIR_STATUS_HOLD_OFF 1).complete (.ok 0)))) ∧
  (∀ (m : Master) (s : State), cmd m s →
    exec (.pairAllowClaims m) s = .next (s.on ((s.dev.set0 .PAIR_STATUS_HOLD_OFF 0).complete (.ok 0)))) ∧
  (∀ (p : Port) (m : PairMsg) (s : State), s.dev.hears p 7 m → s.dev.fromPartner m → s.dev.role = 2 →
    m.epoch = s.dev.pair.epoch →
    Completes (.pairReleaseReceive p m) s fun t => t.pair.handOver = true ∧ t.pair.epoch = s.dev.pair.epoch ∧ t.role = 2)

/-- Claims: a member whose conditions hold becomes CLAIMING, or ACTIVE at once where the pins alone decide; a majority of grants
starts the timer at the claim's send instant plus L; a refusal or 20 ms return it to STANDBY (R372, R376, R377). -/
def Obligations.Claims : Prop :=
  (∀ (s : State), s.dev.mayClaim = true → s.dev.witnessCount ≠ 0 →
    Completes .pairClaim s fun t => t.role = 3 ∧ t.pair.epoch = s.dev.pair.epoch ∧ t.pair.lease = s.dev.pair.lease ∧
      t.pair.claim = some ⟨s.dev.now, Map.get 0 s.dev.pair.seqTx 4, [], false⟩ ∧ s.dev.counted t .PAIR_CLAIMS 0 1) ∧
  (∀ (s : State), s.dev.mayClaim = true → s.dev.witnessCount = 0 → s.dev.leaseIn = false →
    Completes .pairClaim s fun t => t.role = 4 ∧ t.pair.epoch = (s.dev.pair.epoch + 1) % 2 ^ 32 ∧
      t.pair.lease = some (s.dev.now + s.dev.leaseTicks) ∧ t.pins.leaseOut = true ∧
      s.dev.counted t .PAIR_EQUINOXES 0 1) ∧
  (∀ (s : State), s.dev.role = 3 → s.dev.pair.claim.all (fun x => decide (x.at_ + 20 * tMs ≤ s.dev.now)) = true →
    Completes .pairClaimTimeout s fun t => t.role = 2 ∧ t.pair.claim = none ∧ t.pair.lease = s.dev.pair.lease) ∧
  (∀ (p : Port) (m : PairMsg) (k : Nat) (x : Poll) (s : State), s.dev.hears p 5 m → s.dev.witSlot m.sender = some k →
    s.dev.role = 3 → s.dev.pair.claim = some x → m.epoch = (s.dev.pair.epoch + 1) % 2 ^ 32 →
    Completes (.pairGrantReceive p m) s fun t => s.dev.counted t .PAIR_WITNESS_ANSWERS 0 1 ∧
      (if s.dev.witnessCount < 2 * (if k ∈ x.slots then x.slots.length else x.slots.length + 1) ∧ s.dev.leaseIn = false then
        t.role = 4 ∧ t.pair.lease = some (x.at_ + s.dev.leaseTicks) ∧ t.pair.epoch = m.epoch ∧ t.pins.leaseOut = true
      else t.role = 3 ∧ t.pair.lease = s.dev.pair.lease)) ∧
  (∀ (p : Port) (m : PairMsg) (k : Nat) (s : State), s.dev.hears p 6 m → s.dev.witSlot m.sender = some k → s.dev.role = 3 →
    Completes (.pairRefuseReceive p m) s fun t => t.role = 2 ∧ t.pair.claim = none ∧
      s.dev.counted t .PAIR_CLAIMS_REFUSED 0 1 ∧
      t.pair.epoch = if seqAfter m.epoch s.dev.pair.epoch then m.epoch else s.dev.pair.epoch)

/-- Acknowledging and witnessing: a renewal that is not stale is acknowledged and starts the wait, a stale one is refused; a
claim for the next epoch is granted only after the wait, and held until then; a release frees it (R374 to R377). -/
def Obligations.Witnessing : Prop :=
  (∀ (p : Port) (m : PairMsg) (s : State), s.dev.hears p 2 m → p.val ∈ s.dev.pairPorts → s.dev.fromPartner m →
    seqAfter s.dev.pair.epoch m.epoch = false →
    Completes (.witnessRenew p m) s fun t => t.pair.acked = some (s.dev.now, pairWait m) ∧
      t.hasOwn p 2 3 (s.dev.pairHeader (s.dev.pairLink p).version m.sender m.epoch m.seq)) ∧
  (∀ (p : Port) (m : PairMsg) (w : WitSt) (s : State), s.dev.hears p 2 m → p.val ∉ s.dev.pairPorts →
    w = s.dev.wit (pairKey m.sender m.peer) →
    Completes (.witnessRenew p m) s fun t =>
      let u := t.wit (pairKey m.sender m.peer)
      if seqAfter w.epoch m.epoch = true ∨ (m.epoch = w.epoch ∧ w.holder ≠ 0 ∧ w.holder ≠ m.sender) then
        u = w ∧ s.dev.counted t .PAIR_CLAIMS_REFUSED 0 1
      else u.epoch = m.epoch ∧ u.holder = m.sender ∧ u.ackAt = some s.dev.now ∧ u.wait = pairWait m) ∧
  (∀ (p : Port) (m : PairMsg) (w : WitSt) (s : State), s.dev.hears p 4 m → p.val ∉ s.dev.pairPorts →
    w = s.dev.wit (pairKey m.sender m.peer) →
    Completes (.witnessClaim p m) s fun t =>
      let u := t.wit (pairKey m.sender m.peer)
      if m.epoch ≠ (w.epoch + 1) % 2 ^ 32 then u = w ∧ s.dev.counted t .PAIR_CLAIMS_REFUSED 0 1
      else if (∃ x ∈ w.held, x.1 ≠ m.sender) then u = w ∧ s.dev.counted t .PAIR_CLAIMS_REFUSED 0 1
      else if s.dev.grantAt w ≤ s.dev.now then u = ⟨m.epoch, m.sender, some s.dev.now, pairWait m, false, none⟩
      else u = { w with held := some (m.sender, pairWait m, m.seq) }) ∧
  (∀ (a b : Fin 256) (c wait seq : Nat) (w : WitSt) (s : State), s.dev.winter = false → s.dev.boot.fwRuns = true →
    w = s.dev.wit (pairKey a b) → w.held = some (c, wait, seq) →
    Completes (.witnessClaimGrant a b) s fun t =>
      t.wit (pairKey a b) =
        if s.dev.grantAt w ≤ s.dev.now then ⟨(w.epoch + 1) % 2 ^ 32, c, some s.dev.now, wait, false, none⟩ else w) ∧
  (∀ (p : Port) (m : PairMsg) (w : WitSt) (s : State), s.dev.hears p 7 m → p.val ∉ s.dev.pairPorts →
    w = s.dev.wit (pairKey m.sender m.peer) → m.epoch = w.epoch → m.sender = w.holder →
    Completes (.witnessRelease p m) s fun t => t.grantAt { w with released := true } = s.dev.pair.startAt + 1005 * tMs ∧
      t.wit (pairKey m.sender m.peer) = match w.held with
        | some (c, wait, _) =>
          if s.dev.pair.startAt + 1005 * tMs ≤ s.dev.now then ⟨(w.epoch + 1) % 2 ^ 32, c, some s.dev.now, wait, false, none⟩
          else { w with released := true }
        | none => { w with released := true })

/-- Digests: the active sends the digest of the window that ended, once; the standby judges each protected port's window as
matched, mismatched or unjudged, and leaves one whose digest did not come unjudged; a sample in order enters its window, one
out of order leaves the windows unjudged (R384 to R386). -/
def Obligations.Digests : Prop :=
  (∀ (w q v : Nat) (rest : List Nat) (s : State), s.dev.isActive = true → s.dev.digesting = true → 3 ≤ s.dev.windowNow →
    w = s.dev.windowNow - 3 → w ∉ s.dev.pair.sent → v = (if s.dev.digestMode = 1 then 0x11 else 0x12) →
    s.dev.pairLinks v = q :: rest → s.dev.winter = false →
    Completes .pairDigestSend s fun t => w ∈ t.pair.sent ∧ (∀ p < 128, t.win p w = .reset) ∧
      ∀ n < 4, ∃ seq, t.hasOwn q 2 8 (s.dev.pairHeader (s.dev.pairLink q).version s.dev.partnerAddr s.dev.pair.epoch seq ++
        s.dev.digestBody n w)) ∧
  (∀ (p : Port) (m : PairMsg) (w i : Nat) (n : Region) (l : List (Nat × Nat × Bool × Nat)) (e : Nat × Nat × Bool × Nat)
    (x : Win) (s : State), s.dev.hears p 8 m → s.dev.fromPartner m → s.dev.role = 2 →
    k2 w n ∉ s.dev.pair.sent → i < 32 → l[i]? = some e → s.dev.protectedPort (32 * n + i) = true →
    x = (if s.dev.digestMode = 1 then s.dev.splitBand (32 * n + i) (w + 1) e.2.2.2 else s.dev).win (32 * n + i) w →
    Completes (.pairDigestReceive p m w n l) s fun t => k2 w n ∈ t.pair.sent ∧ t.win (32 * n + i) w = .reset ∧
      t.digestRun (32 * n + i) =
        if e.2.2.1 = true ∨ x.incomplete = true then (2, (s.dev.digestRun (32 * n + i)).2)
        else if x.digest = e.1 ∧ x.frames = e.2.1 then (0, 0)
        else (1, min 3 ((s.dev.digestRun (32 * n + i)).2 + 1))) ∧
  (∀ (w i : Nat) (n : Region) (s : State), s.dev.role = 2 → s.dev.digesting = true → k2 w n ∉ s.dev.pair.sent → i < 32 →
    s.dev.protectedPort (32 * n + i) = true →
    Completes (.pairDigestTimeout w n) s fun t => k2 w n ∈ t.pair.sent ∧ t.win (32 * n + i) w = .reset ∧
      t.digestRun (32 * n + i) = (2, (s.dev.digestRun (32 * n + i)).2)) ∧
  (∀ (p : Port) (m : PairMsg) (q : Port) (len w aut : Nat) (bytes : Bytes) (s : State), s.dev.hears p 9 m →
    s.dev.fromPartner m → s.dev.role = 2 → s.dev.digestMode = 2 →
    s.dev.pair.sampleSeq.all (fun x => m.seq == x || m.seq == (x + 1) % 2 ^ 32) = true → s.dev.protectedPort q = true →
    s.dev.regionIsolated (q.val / 32) = false →
    Completes (.pairSampleReceive p m q len w aut bytes) s fun t => t.pair.sampleSeq = some m.seq ∧
      (t.win q w).frames = (s.dev.win q w).frames + 1 ∧ (t.win q w).incomplete = (s.dev.win q w).incomplete ∧
      ∃ u : Dev, u.flds = s.dev.flds ∧ u.tbl = s.dev.tbl ∧ u.search = s.dev.search ∧ u.act = s.dev.act ∧
        u.img = s.dev.img ∧ (t.win q w).digest = ((s.dev.win q w).digest +
          frameValue (frameIdentity bytes len) (u.sampleRecord q len aut bytes)) % 2 ^ 64) ∧
  (∀ (p : Port) (m : PairMsg) (q : Port) (x len w aut : Nat) (bytes : Bytes) (s : State), s.dev.hears p 9 m →
    s.dev.fromPartner m → s.dev.role = 2 → s.dev.digestMode = 2 → s.dev.digesting = true →
    s.dev.pair.sampleSeq = some x → m.seq ≠ x → m.seq ≠ (x + 1) % 2 ^ 32 →
    Completes (.pairSampleReceive p m q len w aut bytes) s fun t => t.pair.sampleSeq = some m.seq ∧
      ∀ i < 128, s.dev.protectedPort i = true → (t.win i w).incomplete = true)

/-- Comparison and resynchronisation: the stages of a comparison and its four results; an active joins its partner's; a SYNCING
member copies the active's tables and becomes STANDBY and SYNCED; a SYNC record writes its row (R387 to R390). -/
def Obligations.ComparisonAndResync : Prop :=
  let runs (s : State) (stage a port : Nat) := s.dev.winter = false ∧ s.dev.boot.fwRuns = true ∧
    (s.dev.role = 2 ∨ s.dev.role = 4) ∧ s.dev.pair.compare = some (stage, a, port)
  let second (s : State) (own : List (Nat × Nat × Nat)) (partner : List BlockSum) (diff : List (BlockSum × BlockSum)) :=
    (∃ a port, runs s 2 a port ∧ a + 10 * tMs ≤ s.dev.now) ∧ diff = diffBlocks (s.dev.ownSums own) partner
  let third (s : State) (port : Nat) := ∃ a w, runs s 3 a port ∧ s.dev.pair.keepWin = some w ∧ w < s.dev.windowNow
  let unlike (s : State) (decisions : List (Nat × Bytes)) (k : Kept) :=
    k ∈ s.dev.pair.kept ∧ ∃ x ∈ decisions, x.1 = k.id ∧ x.2 ≠ k.record
  let ended (t : Dev) (result side : Nat) := t.pair.compare = none ∧ t.f0 .PAIR_CMP_STATUS_RESULT = result ∧
    t.f0 .PAIR_CMP_STATUS_SIDE = side ∧ t.b0 .PAIR_STATUS_CMP_ACTIVE = false ∧ t.f0 .PAIR_CMP_STATUS_STAGE = 0
  let stands (t : Dev) (stage port : Nat) := t.f0 .PAIR_CMP_STATUS_STAGE = stage ∧
    (t.pair.compare.map (fun x => (x.1, x.2.2))) = some (stage, port)
  let rare (s : State) := ∀ a ∈ s.dev.pair.faults, a + 3600 * tSec < s.dev.now
  let cmd (q : Port) (own : List (Nat × Nat × Nat)) (partner : List BlockSum) (decisions : List (Nat × Bytes)) (fault : Bool)
      (rows : List SyncRec) := Instr.pairCompareStage q own partner decisions fault rows
  (∀ (q : Port) (own : List (Nat × Nat × Nat)) (partner : List BlockSum) (dec : List (Nat × Bytes)) (fault : Bool)
    (rows : List SyncRec) (a port : Nat) (s : State), runs s 1 a port →
    Completes (cmd q own partner dec fault rows) s fun t =>
      stands t (if diffBlocks (s.dev.ownSums own) partner = [] then 3 else 2) port) ∧
  (∀ (q : Port) (own : List (Nat × Nat × Nat)) (partner : List BlockSum) (dec : List (Nat × Bytes)) (fault : Bool)
    (rows : List SyncRec) (s : State), second s own partner [] →
    Completes (cmd q own partner dec fault rows) s fun t => t.f0 .PAIR_CMP_STATUS_STAGE = 3) ∧
  (∀ (q : Port) (own : List (Nat × Nat × Nat)) (partner : List BlockSum) (dec : List (Nat × Bytes)) (fault : Bool)
    (rows : List SyncRec) (diff : List (BlockSum × BlockSum)) (x : BlockSum × BlockSum) (s : State),
    second s own partner diff → diff.find? (fun y => y.1.read != y.1.write) = some x →
    Completes (cmd q own partner dec fault rows) s fun t => ended t 1 0 ∧
      t.f0 .PAIR_CMP_BLOCK_TABLE = x.1.table % 2 ^ 4 ∧ t.f0 .PAIR_CMP_BLOCK_BLOCK = x.1.block % 2 ^ 28 ∧
      (s.dev.role = 2 → t.role = 1 ∧ t.b0 .PAIR_STATUS_SYNCED = false) ∧
      (s.dev.role = 2 → rare s → t.health = s.dev.health) ∧
      (s.dev.role = 4 → s.dev.mayRelease = true → t.role = 2 ∧ t.pair.lease = none) ∧
      (s.dev.role = 4 ∨ ¬rare s → t.b0 .HLT_AUTUMN_CAUSE_PAIR_FAULT = true ∧ (s.dev.health = 1 → t.health = 2))) ∧
  (∀ (q : Port) (own : List (Nat × Nat × Nat)) (partner : List BlockSum) (dec : List (Nat × Bytes)) (fault : Bool)
    (rows : List SyncRec) (diff : List (BlockSum × BlockSum)) (x : BlockSum × BlockSum) (s : State),
    second s own partner diff → (∀ y ∈ diff, y.1.read = y.1.write) →
    diff.find? (fun y => y.2.read != y.2.write) = some x →
    Completes (cmd q own partner dec fault rows) s fun t => ended t 1 1 ∧
      t.f0 .PAIR_CMP_BLOCK_TABLE = x.2.table % 2 ^ 4 ∧ t.f0 .PAIR_CMP_BLOCK_BLOCK = x.2.block % 2 ^ 28 ∧
      t.role = s.dev.role ∧ t.health = s.dev.health) ∧
  (∀ (q : Port) (own : List (Nat × Nat × Nat)) (partner : List BlockSum) (dec : List (Nat × Bytes)) (fault : Bool)
    (rows : List SyncRec) (diff : List (BlockSum × BlockSum)) (x : BlockSum × BlockSum) (s : State),
    second s own partner (x :: diff) → (∀ y ∈ x :: diff, y.1.read = y.1.write ∧ y.2.read = y.2.write) →
    Completes (cmd q own partner dec fault rows) s fun t => ended t 2 0 ∧ t.role = s.dev.role ∧
      (s.dev.role = 4 → t.tbl = s.dev.tbl ∧ t.search = s.dev.search ∧ t.act = s.dev.act)) ∧
  (∀ (q : Port) (own : List (Nat × Nat × Nat)) (partner : List BlockSum) (dec : List (Nat × Bytes)) (fault : Bool)
    (rows : List SyncRec) (port : Nat) (s : State), third s port → (∀ k, ¬unlike s dec k) →
    Completes (cmd q own partner dec fault rows) s fun t => ended t 4 0 ∧ t.role = s.dev.role) ∧
  (∀ (q : Port) (own : List (Nat × Nat × Nat)) (partner : List BlockSum) (dec : List (Nat × Bytes)) (fault : Bool)
    (rows : List SyncRec) (port : Nat) (k : Kept) (s : State), third s port → unlike s dec k →
    (∀ k, unlike s dec k → s.dev.sendDecisions.resolvesAlike port k = true) →
    Completes (cmd q own partner dec fault rows) s fun t => t.role = s.dev.role ∧
      (if fault then ended t 1 1 ∧ t.f0 .PAIR_CMP_BLOCK_TABLE = 15 else ended t 3 0)) ∧
  (∀ (q : Port) (own : List (Nat × Nat × Nat)) (partner : List BlockSum) (dec : List (Nat × Bytes)) (fault : Bool)
    (rows : List SyncRec) (port : Nat) (k : Kept) (s : State), third s port → unlike s dec k →
    s.dev.sendDecisions.resolvesAlike port k = false →
    Completes (cmd q own partner dec fault rows) s fun t => ended t 1 0 ∧ t.f0 .PAIR_CMP_BLOCK_TABLE = 15 ∧
      (s.dev.role = 2 → t.role = 1)) ∧
  (∀ (q : Port) (own : List (Nat × Nat × Nat)) (partner : List BlockSum) (dec : List (Nat × Bytes)) (fault : Bool)
    (rows : List SyncRec) (s : State), s.dev.winter = false → s.dev.boot.fwRuns = true → s.dev.role = 4 →
    s.dev.pair.compare = none → s.dev.b0 .PAIR_STATUS_HB_OK = true → s.dev.pairLinks 0x12 ≠ [] →
    Completes (cmd q own partner dec fault rows) s fun t => t.b0 .PAIR_STATUS_CMP_ACTIVE = true ∧
      (stands t 2 q ∨ stands t 3 q) ∧ s.dev.counted t .PAIR_COMPARES 0 1) ∧
  (∀ (rows : List SyncRec) (x : Partner) (s : State), s.dev.role = 1 → s.dev.winter = false →
    s.dev.b0 .PAIR_STATUS_HB_OK = true → s.dev.pair.partner = some x → x.active = true → x.structCrc = s.dev.structCrc →
    s.dev.pairLinks 0x11 ≠ [] →
    Completes (.pairResync rows) s fun t => t.pair.resync = some (s.dev.now, rows.length) ∧ t.role = 1 ∧
      (rows = [] → t.tbl.l2 = [] ∧ t.tbl.lpm4 = [] ∧ t.tbl.lpm6 = [] ∧ t.tbl.exact = [] ∧ t.tbl.hops = [] ∧
        t.search.tcam = [] ∧ t.act.groups = []) ∧
      ∀ row data, rows = [⟨0, 0, row, data⟩] → bitOf (leAt data 8 1) 0 = true → t.tbl.l2 = [(row, some (l2Of data))]) ∧
  (∀ (a n : Nat) (s : State), s.dev.pair.resync = some (a, n) → s.dev.role = 1 → s.dev.winter = false →
    Completes .pairResyncDone s fun t => t.b0 .PAIR_STATUS_SYNCED = true ∧ t.role = 2 ∧ t.pair.resync = none ∧
      t.tbl = s.dev.tbl) ∧
  (∀ (p : Port) (m : PairMsg) (row : Nat) (data : Bytes) (s : State), s.dev.hears p 10 m → s.dev.fromPartner m →
    s.dev.role = 2 ∨ (s.dev.role = 1 ∧ s.dev.pair.resync.isSome = true) → bitOf (leAt data 8 1) 0 = true →
    Completes (.pairSyncRecord p m ⟨0, 0, row, data⟩) s fun t => Map.get none t.tbl.l2 row = some (l2Of data) ∧
      ∀ k, k ≠ row → Map.get none t.tbl.l2 k = Map.get none s.dev.tbl.l2 k)

/-- One step takes the command at the front of the queue and runs it on the device with the queue's rest; an empty queue passes
one tick of CLK_REG, as the model chooses (log 4).
No command faults or is refused: each answers a next state with the queue as it was. -/
def Obligations.StepTakesTheFront : Prop :=
  (∀ (c : Instr) (q : List Instr) (s : State), step { s with pending := c :: q } = exec c { s with pending := q }) ∧
  (∀ (s : State), s.pending = [] → step s = .next (s.on s.dev.tick)) ∧
  (∀ (c : Instr) (s : State), ∃ d, exec c s = .next (s.on d))

/-- At reset the registers stand at the values the spec gives, no counter has counted, no event is staged, no frame is held, no
command waits, SAFE_N is asserted and LEASE_OUT is not (Tables 0-2, 3-4, 14-9, 16-9, 19-3, R2, R282, R430). -/
def Obligations.ResetValues : Prop :=
  let d := State.reset.dev
  d.health = 0 ∧ d.f0 .GLB_ID_STEP = 0x11 ∧ (∀ s < 512, d.f1 .INT_VEC_EN3 s = if s = 321 then 1 else 0) ∧
    d.f0 .EVR_CTRL_INT_SEV = 3 ∧ d.f0 .PAIR_TIMERS_GUARD = 5 ∧ d.f0 .PAIR_TIMERS_HB_MISS = 3 ∧
    d.f0 .PAIR_ALIGN_GUARD = 20 ∧ d.f0 .PAIR_SAMPLE_RATE = 10000000 ∧ d.f0 .BUF_ARRIVAL_RESERVE = 16384 ∧
    d.f0 .PMC_BW_WINDOW = 1000000 ∧ d.role = 0 ∧ (∀ (c : Ctr) (i : Nat), d.ctr c i = 0) ∧ d.evr.fifo = [] ∧
    (∀ id, d.rxFrame id = none ∧ d.chain id = none) ∧ (∀ p i, d.queue p i = []) ∧ State.reset.pending = [] ∧
    d.pins.safeN = true ∧ d.pins.leaseOut = false

/-- The canonical form of registers and counters holds at reset. -/
def Obligations.ResetIsCanonical : Prop :=
  Canonical State.reset.dev.flds State.reset.dev.ctrs

/-- Every step keeps the canonical form of registers and counters: keys strictly rising, no counter listed at 0, and none beyond
64 bits (R122, R501). -/
def Obligations.StepKeepsCanonical : Prop :=
  ∀ s t : State, Canonical s.dev.flds s.dev.ctrs → step s = .next t → Canonical t.dev.flds t.dev.ctrs

/-- A write through PF3 BAR0, whatever its offset, form and data, ends with Completer Abort and leaves the device as it was but
for the report of the failed access: the recorder, the counters and outputs, and the fields that say so (R425, R442). -/
def Obligations.Pf3WritesChangeNothing : Prop :=
  ∀ (off : Fin 16777216) (form : BusForm) (data : List (BitVec 32)) (env : WriteEnv) (s : State), form ≠ .burst 0 →
    Completes (.registerWrite 7 false off form data env) s fun t => t.reg.last = .abort ∧ t.now = s.dev.now ∧
      t.mac = s.dev.mac ∧ t.buf = s.dev.buf ∧ t.tbl = s.dev.tbl ∧ t.search = s.dev.search ∧ t.act = s.dev.act ∧
      t.hld = s.dev.hld ∧ t.tim = s.dev.tim ∧ t.pins = s.dev.pins ∧ t.boot = s.dev.boot ∧ t.hlt = s.dev.hlt ∧
      t.img = s.dev.img ∧ t.fab = s.dev.fab ∧ t.pair = s.dev.pair ∧ t.mbx = s.dev.mbx ∧
      ∀ (f : Field) (i j : Nat), f ∉ [.INT_PEND, .DMA_MSIX_PBA, .EVR_LOST_PEND, .MBX_DB_F2H_LO, .MBX_DB_F2H_HI, .PMC_OVF,
        .GLB_ACCESS_LAST_MASTER, .GLB_ACCESS_LAST_KIND, .GLB_ACCESS_LAST_OFFSET, .GLB_SMB_CNT_REFUSED] →
        t.fld f i j = s.dev.fld f i j

/-- A WINTER_EXIT challenge is issued only in WINTER, and answered with STATE in any other state; an EVR_CLEAR challenge is issued
in any state (R473).  The credential is in force and no hold-off runs. -/
def Obligations.ChallengeOnlyInItsState : Prop :=
  let asked (k : Fin 8) (x : Msg) (purpose : Nat) (s : State) (id : Nat) := s.dev.asks k 0x010 x ∧ x.len = 1 ∧
    x.arg 0 = purpose ∧ s.dev.b0 .MBX_STATUS_CRED_HOLDOFF = false ∧ ∃ key, s.dev.credential = some (id, key)
  let issued (k : Fin 8) (x : Msg) (purpose : Nat) (s : State) (id : Nat) (t : Dev) :=
    let c := leBytes 32 (Config.free s.dev.draws)
    Map.get none t.mbx.challenges (k2 (pairMaster k) purpose) = some ⟨c, none⟩ ∧
      Map.get [] t.mbx.queue k = [x.answer 0 (id :: (List.range 8).map (fun i => leAt c (4 * i) 4) ++ [10000])]
  (∀ (k : Fin 8) (x : Msg) (id : Nat) (s : State), asked k x 1 s id → s.dev.health = 3 →
    Completes (.mbxChallenge k) s fun t => issued k x 1 s id t) ∧
  (∀ (k : Fin 8) (x : Msg) (id : Nat) (s : State), asked k x 1 s id → s.dev.health ≠ 3 →
    Completes (.mbxChallenge k) s fun t => t.mbx.challenges = s.dev.mbx.challenges ∧
      Map.get [] t.mbx.queue k = [x.answer 5 []]) ∧
  (∀ (k : Fin 8) (x : Msg) (id : Nat) (s : State), asked k x 2 s id →
    Completes (.mbxChallenge k) s fun t => issued k x 2 s id t)

/-- Accepting a record with severity at or above EVR_CTRL.INT_SEV raises interrupt source 324, and accepting an ERROR or FATAL
record sets F2H doorbell bit 2; a record below them does neither (R491). -/
def Obligations.AcceptedRecordsSignal : Prop :=
  ∀ (d : Dev) (r : EvRec),
    (d.f0 .EVR_CTRL_INT_SEV ≤ r.code.severity.toNat → bitOf ((d.accept r).f1 .INT_PEND 10) 4 = true) ∧
    (r.code.severity.toNat < d.f0 .EVR_CTRL_INT_SEV →
      bitOf ((d.accept r).f1 .INT_PEND 10) 4 = bitOf (d.f1 .INT_PEND 10) 4) ∧
    (3 ≤ r.code.severity.toNat → bitOf ((d.accept r).f1 .MBX_DB_F2H_LO 0) 2 = true) ∧
    (r.code.severity.toNat < 3 → (d.accept r).f1 .MBX_DB_F2H_LO 0 = d.f1 .MBX_DB_F2H_LO 0)

end Statements
end

