-- ==== Sys2Proof/Laws/Map.lean ====
section
/-! SUPPORT. What the sparse tables do: a read after a write, and the canonical form kept by every operation. -/

namespace Sys2Proof.Machine

variable {V : Type}

theorem Map.find?_insert_same (m : Map V) (k : Nat) (v : V) : Map.find? (Map.insert m k v) k = some v := by
  induction m with
  | nil => simp [Map.insert, Map.find?]
  | cons x m ih =>
    obtain ⟨a, w⟩ := x
    simp only [Map.insert]
    split
    · simp [Map.find?]
    · split
      · simp [Map.find?]
      · simp_all [Map.find?]

theorem Map.find?_insert_other (m : Map V) (k j : Nat) (v : V) (h : j ≠ k) :
    Map.find? (Map.insert m k v) j = Map.find? m j := by
  induction m with
  | nil => simp [Map.insert, Map.find?, Ne.symm h]
  | cons x m ih =>
    obtain ⟨a, w⟩ := x
    simp only [Map.insert]
    split
    · simp [Map.find?, Ne.symm h]
    · split
      · subst_vars; simp [Map.find?, Ne.symm h]
      · simp [Map.find?, ih]

theorem Map.find?_erase_same (m : Map V) (k : Nat) : Map.find? (Map.erase m k) k = none := by
  induction m with
  | nil => rfl
  | cons x m ih =>
    obtain ⟨a, w⟩ := x
    simp only [Map.erase]
    split
    · exact ih
    · simp [Map.find?, *]

theorem Map.find?_erase_other (m : Map V) (k j : Nat) (h : j ≠ k) : Map.find? (Map.erase m k) j = Map.find? m j := by
  induction m with
  | nil => rfl
  | cons x m ih =>
    obtain ⟨a, w⟩ := x
    simp only [Map.erase]
    split
    · subst_vars; simp [Map.find?, Ne.symm h, ih]
    · simp [Map.find?, ih]

/-- A read after a write of the same entry gives the value written. -/
@[simp] theorem Map.get_set_same [DecidableEq V] (d : V) (m : Map V) (k : Nat) (v : V) :
    Map.get d (Map.set d m k v) k = v := by
  simp only [Map.set, Map.get]
  split
  · simp [Map.find?_erase_same, *]
  · simp [Map.find?_insert_same]

/-- A write leaves every other entry alone. -/
theorem Map.get_set_other [DecidableEq V] (d e : V) (m : Map V) (k j : Nat) (v : V) (h : j ≠ k) :
    Map.get e (Map.set d m k v) j = Map.get e m j := by
  simp only [Map.set, Map.get]
  split
  · rw [Map.find?_erase_other m k j h]
  · rw [Map.find?_insert_other m k j v h]

theorem Map.get_set [DecidableEq V] (d : V) (m : Map V) (k j : Nat) (v : V) :
    Map.get d (Map.set d m k v) j = if j = k then v else Map.get d m j := by
  split
  · subst_vars; simp
  · exact Map.get_set_other d d m k j v ‹_›

@[simp] theorem Map.get_nil (d : V) (k : Nat) : Map.get d [] k = d := rfl

@[simp] theorem k2_inj (i j a b : Nat) : k2 i j = k2 a b ↔ i = a ∧ j = b := by
  simp [k2, Nat.pair_eq_pair]

@[simp] theorem k3_inj (i j k a b c : Nat) : k3 i j k = k3 a b c ↔ i = a ∧ j = b ∧ k = c := by
  simp [k3, Nat.pair_eq_pair]

/-! ### The canonical form -/

theorem Map.sorted_cons (x : Nat × V) (m : Map V) :
    Map.sorted (x :: m) = true ↔ Map.sorted m = true ∧ ∀ y ∈ m.head?, x.1 < y.1 := by
  cases m with
  | nil => simp [Map.sorted]
  | cons y m => simp [Map.sorted]; tauto

theorem Map.sorted_pairwise (m : Map V) : Map.sorted m = true ↔ m.Pairwise (fun x y => x.1 < y.1) := by
  induction m with
  | nil => simp [Map.sorted]
  | cons x m ih =>
    rw [Map.sorted_cons, List.pairwise_cons, ih]
    constructor
    · rintro ⟨h, hx⟩
      refine ⟨fun y hy => ?_, h⟩
      cases m with
      | nil => simp at hy
      | cons z m =>
        have hz : x.1 < z.1 := hx z (by simp)
        rcases List.mem_cons.1 hy with rfl | hy'
        · exact hz
        · exact lt_trans hz ((List.pairwise_cons.1 h).1 y hy')
    · rintro ⟨hx, h⟩
      exact ⟨h, fun y hy => hx y (List.mem_of_mem_head? hy)⟩

theorem Map.mem_insert (m : Map V) (k : Nat) (v : V) (x : Nat × V) (h : x ∈ Map.insert m k v) : x = (k, v) ∨ x ∈ m := by
  induction m with
  | nil => simpa [Map.insert] using h
  | cons y m ih =>
    obtain ⟨a, w⟩ := y
    simp only [Map.insert] at h
    split at h
    · simpa using h
    · split at h
      · rcases List.mem_cons.1 h with h | h
        · exact .inl h
        · exact .inr (List.mem_cons_of_mem _ h)
      · rcases List.mem_cons.1 h with h | h
        · exact .inr (h ▸ List.mem_cons_self)
        · exact (ih h).imp id (List.mem_cons_of_mem _)

theorem Map.insert_pairwise (m : Map V) (k : Nat) (v : V) (h : m.Pairwise (fun x y => x.1 < y.1)) :
    (Map.insert m k v).Pairwise (fun x y => x.1 < y.1) := by
  induction m with
  | nil => simp [Map.insert]
  | cons y m ih =>
    obtain ⟨a, w⟩ := y
    rw [List.pairwise_cons] at h
    simp only [Map.insert]
    split
    · rw [List.pairwise_cons, List.pairwise_cons]
      refine ⟨fun x hx => ?_, h⟩
      rcases List.mem_cons.1 hx with rfl | hx
      · assumption
      · exact lt_trans ‹k < a› (h.1 x hx)
    · split
      · subst_vars; rw [List.pairwise_cons]; exact h
      · rw [List.pairwise_cons]
        refine ⟨fun x hx => ?_, ih h.2⟩
        rcases Map.mem_insert m k v x hx with rfl | hx
        · simp only; omega
        · exact h.1 x hx

theorem Map.erase_eq_filter (m : Map V) (k : Nat) : Map.erase m k = m.filter (fun x => decide (x.1 ≠ k)) := by
  induction m with
  | nil => rfl
  | cons y m ih =>
    obtain ⟨a, w⟩ := y
    simp only [Map.erase, List.filter_cons]
    split <;> simp_all

theorem Map.wf_iff [DecidableEq V] (d : Nat → V) (m : Map V) :
    Map.wf d m = true ↔ m.Pairwise (fun x y => x.1 < y.1) ∧ ∀ x ∈ m, x.2 ≠ d x.1 := by
  simp [Map.wf, Map.sorted_pairwise]

@[simp] theorem Map.wf_nil [DecidableEq V] (d : Nat → V) : Map.wf d [] = true := rfl

/-- A write keeps the canonical form, where the table's default at the key is the one that the write leaves out. -/
theorem Map.wf_set [DecidableEq V] (f : Nat → V) (m : Map V) (k : Nat) (v : V) (h : Map.wf f m = true) :
    Map.wf f (Map.set (f k) m k v) = true := by
  rw [Map.wf_iff] at h ⊢
  unfold Map.set
  split
  · rw [Map.erase_eq_filter]
    exact ⟨h.1.filter _, fun x hx => h.2 x (List.mem_filter.1 hx).1⟩
  · refine ⟨Map.insert_pairwise m k v h.1, fun x hx => ?_⟩
    rcases Map.mem_insert m k v x hx with rfl | hx
    · assumption
    · exact h.2 x hx

/-- Entries left out keep the canonical form. -/
theorem Map.wf_filter [DecidableEq V] (f : Nat → V) (m : Map V) (p : Nat × V → Bool) (h : Map.wf f m = true) :
    Map.wf f (m.filter p) = true := by
  rw [Map.wf_iff] at h ⊢
  exact ⟨h.1.filter _, fun x hx => h.2 x (List.mem_filter.1 hx).1⟩

end Sys2Proof.Machine
end

