-- ==== Sys2Proof/Laws/CanonicalBase.lean ====
section
/-! SUPPORT. The one form of the registers and counters: setting a field and counting keep it, and so does whatever is built of
steps that keep it. -/

namespace Sys2Proof.Machine

variable {α β : Type}

theorem setFld_canonical {d : Dev} {f : Field} {i j v : Nat} (h : Canonical d.flds d.ctrs) :
    Canonical (d.setFld f i j v).flds (d.setFld f i j v).ctrs := by
  refine ⟨?_, h.2⟩
  have hs := (Map.sorted_pairwise _).1 h.1
  rw [Map.sorted_pairwise]
  simp only [Dev.setFld, Map.set]
  split
  · rw [Map.erase_eq_filter]; exact hs.filter _
  · exact Map.insert_pairwise _ _ _ hs

theorem Dev.setFld_canonical {a1 : Dev} {a2 a3 a4 a5} (h : Canonical a1.flds a1.ctrs) :
    Canonical (Dev.setFld a1 a2 a3 a4 a5).flds (Dev.setFld a1 a2 a3 a4 a5).ctrs := Sys2Proof.Machine.setFld_canonical h

theorem Dev.reset_canonical : Canonical Dev.reset.flds Dev.reset.ctrs :=
  ⟨rfl, rfl, fun _ h => by cases h⟩

theorem filter_canonical {flds ctrs : Map Nat} (p q : Nat × Nat → Bool) (h : Canonical flds ctrs) :
    Canonical (flds.filter p) (ctrs.filter q) := by
  refine ⟨?_, Map.wf_filter _ _ _ h.2.1, fun x hx => h.2.2 x (List.mem_filter.1 hx).1⟩
  rw [Map.sorted_pairwise]
  exact ((Map.sorted_pairwise _).1 h.1).filter _

theorem filterFlds_canonical {flds ctrs : Map Nat} (p : Nat × Nat → Bool) (h : Canonical flds ctrs) :
    Canonical (flds.filter p) ctrs := by
  have := filter_canonical p (fun _ => true) h
  simpa using this

theorem filterCtrs_canonical {flds ctrs : Map Nat} (q : Nat × Nat → Bool) (h : Canonical flds ctrs) :
    Canonical flds (ctrs.filter q) := by
  have := filter_canonical (fun _ => true) q h
  simpa using this

theorem Dev.resetFlds_canonical {a1 : Dev} {a2} (h : Canonical a1.flds a1.ctrs) :
    Canonical (Dev.resetFlds a1 a2).flds (Dev.resetFlds a1 a2).ctrs := filterFlds_canonical _ h

theorem Dev.resetRings_canonical {a1 : Dev} {a2} (h : Canonical a1.flds a1.ctrs) :
    Canonical (Dev.resetRings a1 a2).flds (Dev.resetRings a1 a2).ctrs := filterFlds_canonical _ h

theorem Dev.clearCtrs_canonical {a1 : Dev} {a2 a3} (h : Canonical a1.flds a1.ctrs) :
    Canonical (Dev.clearCtrs a1 a2 a3).flds (Dev.clearCtrs a1 a2 a3).ctrs := filterCtrs_canonical _ h

theorem Dev.clearBlock_canonical {a1 : Dev} {a2} (h : Canonical a1.flds a1.ctrs) :
    Canonical (Dev.clearBlock a1 a2).flds (Dev.clearBlock a1 a2).ctrs := filterCtrs_canonical _ h

theorem CtrBlock.width_le (b : CtrBlock) : b.width ≤ 64 := by cases b <;> decide

theorem Dev.setCtr_canonical {a1 : Dev} {a2 a3 a4} (h : Canonical a1.flds a1.ctrs) :
    Canonical (Dev.setCtr a1 a2 a3 a4).flds (Dev.setCtr a1 a2 a3 a4).ctrs := by
  refine ⟨h.1, Map.wf_set (fun _ => 0) _ _ _ h.2.1, fun x hx => ?_⟩
  simp only [Dev.setCtr, Map.set] at hx
  split at hx
  · rw [Map.erase_eq_filter] at hx
    exact h.2.2 x (List.mem_filter.1 hx).1
  · rcases Map.mem_insert _ _ _ _ hx with rfl | hx
    · exact lt_of_lt_of_le (Nat.mod_lt _ (by positivity)) (Nat.pow_le_pow_right (by omega) a2.block.width_le)
    · exact h.2.2 x hx

theorem ite_canonical {c : Prop} [Decidable c] {a b : Dev} (ha : Canonical a.flds a.ctrs) (hb : Canonical b.flds b.ctrs) :
    Canonical (if c then a else b).flds (if c then a else b).ctrs := by split <;> assumption

theorem dite_canonical {c : Prop} [Decidable c] {a : c → Dev} {b : ¬c → Dev}
    (ha : ∀ h, Canonical (a h).flds (a h).ctrs) (hb : ∀ h, Canonical (b h).flds (b h).ctrs) :
    Canonical (dite c a b).flds (dite c a b).ctrs := by split <;> simp_all

theorem fst_ite_canonical {c : Prop} [Decidable c] {a b : Dev × α} (ha : Canonical a.1.flds a.1.ctrs)
    (hb : Canonical b.1.flds b.1.ctrs) : Canonical (if c then a else b).1.flds (if c then a else b).1.ctrs := by
  split <;> assumption

theorem snd_ite_canonical {c : Prop} [Decidable c] {a b : α × Dev} (ha : Canonical a.2.flds a.2.ctrs)
    (hb : Canonical b.2.flds b.2.ctrs) : Canonical (if c then a else b).2.flds (if c then a else b).2.ctrs := by
  split <;> assumption

theorem opt_ite_canonical {c : Prop} [Decidable c] {a b : Option Dev} (ha : ∀ e, a = some e → Canonical e.flds e.ctrs)
    (hb : ∀ e, b = some e → Canonical e.flds e.ctrs) :
    ∀ e, (if c then a else b) = some e → Canonical e.flds e.ctrs := by split <;> assumption

theorem some_canonical {d : Dev} (h : Canonical d.flds d.ctrs) : ∀ e, some d = some e → Canonical e.flds e.ctrs := by
  rintro e ⟨⟩; exact h

theorem none_canonical : ∀ e : Dev, none = some e → Canonical e.flds e.ctrs := by rintro e ⟨⟩

theorem or_canonical {a b : Option Dev} (ha : ∀ e, a = some e → Canonical e.flds e.ctrs)
    (hb : ∀ e, b = some e → Canonical e.flds e.ctrs) : ∀ e, a.or b = some e → Canonical e.flds e.ctrs := by
  cases a <;> simp_all

theorem getD_canonical {a : Option Dev} {d : Dev} (ha : ∀ e, a = some e → Canonical e.flds e.ctrs)
    (h : Canonical d.flds d.ctrs) : Canonical (a.getD d).flds (a.getD d).ctrs := by
  cases a <;> simp_all

theorem fst_of_eq {x : Dev × α} {a : Dev} {b : α} (e : x = (a, b)) (h : Canonical x.1.flds x.1.ctrs) :
    Canonical a.flds a.ctrs := by subst e; exact h

theorem snd_of_eq {x : α × Dev} {a : Dev} {b : α} (e : x = (b, a)) (h : Canonical x.2.flds x.2.ctrs) :
    Canonical a.flds a.ctrs := by subst e; exact h

theorem foldl_canonical {l : List α} {f : Dev → α → Dev} {d : Dev}
    (hf : ∀ d x, Canonical d.flds d.ctrs → Canonical (f d x).flds (f d x).ctrs) (h : Canonical d.flds d.ctrs) :
    Canonical (l.foldl f d).flds (l.foldl f d).ctrs := by
  induction l generalizing d with
  | nil => exact h
  | cons x l ih => exact ih (hf _ _ h)

theorem fst_foldl_canonical {l : List α} {f : Dev × β → α → Dev × β} {d : Dev × β}
    (hf : ∀ d x, Canonical d.1.flds d.1.ctrs → Canonical (f d x).1.flds (f d x).1.ctrs)
    (h : Canonical d.1.flds d.1.ctrs) : Canonical (l.foldl f d).1.flds (l.foldl f d).1.ctrs := by
  induction l generalizing d with
  | nil => exact h
  | cons x l ih => exact ih (hf _ _ h)

theorem snd_foldl_canonical {l : List α} {f : β × Dev → α → β × Dev} {d : β × Dev}
    (hf : ∀ d x, Canonical d.2.flds d.2.ctrs → Canonical (f d x).2.flds (f d x).2.ctrs)
    (h : Canonical d.2.flds d.2.ctrs) : Canonical (l.foldl f d).2.flds (l.foldl f d).2.ctrs := by
  induction l generalizing d with
  | nil => exact h
  | cons x l ih => exact ih (hf _ _ h)

theorem run_canonical {s t : State} {f : Dev → Dev} (hf : ∀ d, Canonical d.flds d.ctrs → Canonical (f d).flds (f d).ctrs)
    (h : Canonical s.dev.flds s.dev.ctrs) (e : s.run f = .next t) : Canonical t.dev.flds t.dev.ctrs := by
  cases e; exact hf _ h

end Sys2Proof.Machine
end

