-- ==== Sys2Proof/Laws/CanonicalShared.lean ====
section
/-! SUPPORT. Each function of one kind keeps the registers and counters in their one form: the operations on
registers, events, frames, links, health, lookups and the bus. -/

set_option linter.all false
namespace Sys2Proof.Machine

/-! ### `Ops` -/

theorem Dev.set0_canonical {a1 a2 a3} (ha1 : Canonical a1.flds a1.ctrs) :
    Canonical (Dev.set0 a1 a2 a3).flds (Dev.set0 a1 a2 a3).ctrs := by
  unfold Dev.set0; exact (Dev.setFld_canonical ha1)

theorem Dev.set1_canonical {a1 a2 a3 a4} (ha1 : Canonical a1.flds a1.ctrs) :
    Canonical (Dev.set1 a1 a2 a3 a4).flds (Dev.set1 a1 a2 a3 a4).ctrs := by
  unfold Dev.set1; exact (Dev.setFld_canonical ha1)

theorem Dev.setBit_canonical {a1 a2 a3 a4 a5} (ha1 : Canonical a1.flds a1.ctrs) :
    Canonical (Dev.setBit a1 a2 a3 a4 a5).flds (Dev.setBit a1 a2 a3 a4 a5).ctrs := by
  unfold Dev.setBit; exact (Dev.setFld_canonical ha1)

theorem Dev.satInc_canonical {a1 a2 a3 a4 a5} (ha1 : Canonical a1.flds a1.ctrs) :
    Canonical (Dev.satInc a1 a2 a3 a4 a5).flds (Dev.satInc a1 a2 a3 a4 a5).ctrs := by
  unfold Dev.satInc; exact (Dev.setFld_canonical ha1)

theorem Dev.countN_canonical {a1 a2 a3 a4} (ha1 : Canonical a1.flds a1.ctrs) :
    Canonical (Dev.countN a1 a2 a3 a4).flds (Dev.countN a1 a2 a3 a4).ctrs := by
  unfold Dev.countN; exact (Dev.setCtr_canonical ha1)

theorem Dev.count_canonical {a1 a2 a3} (ha1 : Canonical a1.flds a1.ctrs) :
    Canonical (Dev.count a1 a2 a3).flds (Dev.count a1 a2 a3).ctrs := by
  unfold Dev.count; exact (Dev.countN_canonical ha1)

theorem Dev.draw_canonical {a1} (ha1 : Canonical a1.flds a1.ctrs) :
    Canonical (Dev.draw a1).2.flds (Dev.draw a1).2.ctrs := by
  unfold Dev.draw; exact (by (try dsimp only); exact (by (try dsimp only); exact ha1))

theorem Dev.emit_canonical {a1 a2} (ha1 : Canonical a1.flds a1.ctrs) :
    Canonical (Dev.emit a1 a2).flds (Dev.emit a1 a2).ctrs := by
  unfold Dev.emit; exact (by (try dsimp only); exact ha1)

theorem Dev.msix_canonical {a1 a2 a3} (ha1 : Canonical a1.flds a1.ctrs) :
    Canonical (Dev.msix a1 a2 a3).flds (Dev.msix a1 a2 a3).ctrs := by
  unfold Dev.msix; exact (ite_canonical ha1 (ite_canonical (ite_canonical (Dev.setBit_canonical ha1) (Dev.emit_canonical ha1)) (ite_canonical (by (try dsimp only); exact ha1) (Dev.emit_canonical ha1))))

theorem Dev.raise_canonical {a1 a2} (ha1 : Canonical a1.flds a1.ctrs) :
    Canonical (Dev.raise a1 a2).flds (Dev.raise a1 a2).ctrs := by
  unfold Dev.raise; exact (ite_canonical ha1 (ite_canonical (Dev.msix_canonical (ite_canonical (Dev.setBit_canonical ha1) (Dev.msix_canonical (Dev.setBit_canonical ha1)))) (ite_canonical (Dev.setBit_canonical ha1) (Dev.msix_canonical (Dev.setBit_canonical ha1)))))

theorem Dev.doorbell_canonical {a1 a2} (ha1 : Canonical a1.flds a1.ctrs) :
    Canonical (Dev.doorbell a1 a2).flds (Dev.doorbell a1 a2).ctrs := by
  unfold Dev.doorbell; exact (Dev.raise_canonical (ite_canonical (Dev.setBit_canonical ha1) (Dev.setBit_canonical ha1)))

theorem Dev.perfAdd_canonical {m v fuel n d} (h : Canonical d.flds d.ctrs) :
    Canonical (Dev.perfAdd m v fuel n d).flds (Dev.perfAdd m v fuel n d).ctrs := by
  induction fuel generalizing v n d with
  | zero => exact h
  | succ k ih =>
    simp only [Dev.perfAdd]
    split
    · exact h
    · split
      · exact ih h
      · exact Dev.setBit_canonical h

theorem Dev.perf_canonical {a1 a2 a3 a4 a5} (ha1 : Canonical a1.flds a1.ctrs) :
    Canonical (Dev.perf a1 a2 a3 a4 a5).flds (Dev.perf a1 a2 a3 a4 a5).ctrs := by
  unfold Dev.perf; exact (ite_canonical ha1 (foldl_canonical (fun _ _ h1 => (ite_canonical (Dev.perfAdd_canonical h1) h1)) ha1))

theorem Dev.accept_canonical {a1 a2} (ha1 : Canonical a1.flds a1.ctrs) :
    Canonical (Dev.accept a1 a2).flds (Dev.accept a1 a2).ctrs := by
  unfold Dev.accept; exact (ite_canonical (Dev.doorbell_canonical (ite_canonical (Dev.raise_canonical (Dev.count_canonical (by (try dsimp only); exact ha1))) (Dev.count_canonical (by (try dsimp only); exact ha1)))) (ite_canonical (Dev.raise_canonical (Dev.count_canonical (by (try dsimp only); exact ha1))) (Dev.count_canonical (by (try dsimp only); exact ha1))))

theorem Dev.acceptLost_canonical {a1} (ha1 : Canonical a1.flds a1.ctrs) :
    Canonical (Dev.acceptLost a1).flds (Dev.acceptLost a1).ctrs := by
  unfold Dev.acceptLost; exact (ite_canonical (foldl_canonical (fun _ _ h1 => (Dev.set1_canonical h1)) (Dev.accept_canonical ha1)) ha1)

theorem Dev.record_canonical {a1 a2 a3 a4 a5} (ha1 : Canonical a1.flds a1.ctrs) :
    Canonical (Dev.record a1 a2 a3 a4 a5).flds (Dev.record a1 a2 a3 a4 a5).ctrs := by
  unfold Dev.record; exact (ite_canonical ha1 (ite_canonical (Dev.accept_canonical (Dev.acceptLost_canonical (by split; (· exact (Dev.raise_canonical ha1)); (· exact ha1)))) (Dev.count_canonical (Dev.satInc_canonical (Dev.acceptLost_canonical (by split; (· exact (Dev.raise_canonical ha1)); (· exact ha1)))))))

theorem Dev.recordLimited_canonical {a1 a2 a3 a4 a5 a6 a7} (ha1 : Canonical a1.flds a1.ctrs) :
    Canonical (Dev.recordLimited a1 a2 a3 a4 a5 a6 a7).flds (Dev.recordLimited a1 a2 a3 a4 a5 a6 a7).ctrs := by
  unfold Dev.recordLimited; exact (by (try dsimp only); split; (· exact (Dev.record_canonical (by (try dsimp only); exact ha1))); (· exact (ite_canonical (Dev.record_canonical (by (try dsimp only); exact ha1)) (Dev.count_canonical (by (try dsimp only); exact ha1)))))

theorem Dev.recordCounted_canonical {a1 a2 a3 a4 a5 a6 a7} (ha1 : Canonical a1.flds a1.ctrs) :
    Canonical (Dev.recordCounted a1 a2 a3 a4 a5 a6 a7).flds (Dev.recordCounted a1 a2 a3 a4 a5 a6 a7).ctrs := by
  unfold Dev.recordCounted; exact (Dev.recordLimited_canonical ha1)

theorem Dev.accessLast_canonical {a1 a2 a3 a4} (ha1 : Canonical a1.flds a1.ctrs) :
    Canonical (Dev.accessLast a1 a2 a3 a4).flds (Dev.accessLast a1 a2 a3 a4).ctrs := by
  unfold Dev.accessLast; exact (Dev.set0_canonical (Dev.set0_canonical (Dev.set0_canonical ha1)))

theorem Dev.violation_canonical {a1 a2 a3 a4} (ha1 : Canonical a1.flds a1.ctrs) :
    Canonical (Dev.violation a1 a2 a3 a4).flds (Dev.violation a1 a2 a3 a4).ctrs := by
  unfold Dev.violation; exact (ite_canonical (Dev.count_canonical (Dev.recordLimited_canonical ha1)) (ite_canonical (Dev.satInc_canonical (Dev.recordLimited_canonical ha1)) (Dev.record_canonical ha1)))

theorem Dev.accessFailed_canonical {a1 a2 a3 a4} (ha1 : Canonical a1.flds a1.ctrs) :
    Canonical (Dev.accessFailed a1 a2 a3 a4).flds (Dev.accessFailed a1 a2 a3 a4).ctrs := by
  unfold Dev.accessFailed; exact (Dev.violation_canonical (Dev.accessLast_canonical ha1))

/-! ### `FrameOps` -/

theorem Dev.macCountN_canonical {a1 a2 a3 a4} (ha1 : Canonical a1.flds a1.ctrs) :
    Canonical (Dev.macCountN a1 a2 a3 a4).flds (Dev.macCountN a1 a2 a3 a4).ctrs := by
  unfold Dev.macCountN; exact (ite_canonical ha1 (ite_canonical (Dev.raise_canonical (Dev.countN_canonical ha1)) (Dev.countN_canonical ha1)))

theorem Dev.macCount_canonical {a1 a2 a3} (ha1 : Canonical a1.flds a1.ctrs) :
    Canonical (Dev.macCount a1 a2 a3).flds (Dev.macCount a1 a2 a3).ctrs := by
  unfold Dev.macCount; exact (Dev.macCountN_canonical ha1)

theorem Dev.setMac_canonical {a1 a2 a3} (ha1 : Canonical a1.flds a1.ctrs) :
    Canonical (Dev.setMac a1 a2 a3).flds (Dev.setMac a1 a2 a3).ctrs := by
  unfold Dev.setMac; exact (by (try dsimp only); exact ha1)

theorem Dev.setChain_canonical {a1 a2 a3} (ha1 : Canonical a1.flds a1.ctrs) :
    Canonical (Dev.setChain a1 a2 a3).flds (Dev.setChain a1 a2 a3).ctrs := by
  unfold Dev.setChain; exact (by (try dsimp only); exact ha1)

theorem Dev.setRx_canonical {a1 a2 a3} (ha1 : Canonical a1.flds a1.ctrs) :
    Canonical (Dev.setRx a1 a2 a3).flds (Dev.setRx a1 a2 a3).ctrs := by
  unfold Dev.setRx; exact (by (try dsimp only); exact ha1)

theorem Dev.notePeak_canonical {a1} (ha1 : Canonical a1.flds a1.ctrs) :
    Canonical (Dev.notePeak a1).flds (Dev.notePeak a1).ctrs := by
  unfold Dev.notePeak; exact (ite_canonical (Dev.set0_canonical ha1) ha1)

theorem Dev.setQueue_canonical {a1 a2 a3 a4} (ha1 : Canonical a1.flds a1.ctrs) :
    Canonical (Dev.setQueue a1 a2 a3 a4).flds (Dev.setQueue a1 a2 a3 a4).ctrs := by
  unfold Dev.setQueue; exact (by (try dsimp only); exact ha1)

theorem Dev.noteSent_canonical {a1 a2 a3 a4} (ha1 : Canonical a1.flds a1.ctrs) :
    Canonical (Dev.noteSent a1 a2 a3 a4).flds (Dev.noteSent a1 a2 a3 a4).ctrs := by
  unfold Dev.noteSent; exact (Dev.setMac_canonical (by (try dsimp only); exact (Dev.macCount_canonical (Dev.macCount_canonical (Dev.macCount_canonical (Dev.macCountN_canonical ha1))))))

theorem Dev.sendPause_canonical {a1 a2 a3 a4} (ha1 : Canonical a1.flds a1.ctrs) :
    Canonical (Dev.sendPause a1 a2 a3 a4).flds (Dev.sendPause a1 a2 a3 a4).ctrs := by
  unfold Dev.sendPause; exact (ite_canonical ha1 (ite_canonical (foldl_canonical (fun _ _ h1 => (ite_canonical (Dev.macCount_canonical h1) h1)) (Dev.emit_canonical (Dev.noteSent_canonical ha1))) (ite_canonical (Dev.macCount_canonical (Dev.emit_canonical (Dev.noteSent_canonical ha1))) ha1)))

theorem Dev.checkXoff_canonical {a1 a2 a3} (ha1 : Canonical a1.flds a1.ctrs) :
    Canonical (Dev.checkXoff a1 a2 a3).flds (Dev.checkXoff a1 a2 a3).ctrs := by
  unfold Dev.checkXoff; exact (ite_canonical (Dev.sendPause_canonical (Dev.setMac_canonical (Dev.count_canonical (Dev.setBit_canonical ha1)))) ha1)

theorem Dev.checkXon_canonical {a1 a2 a3} (ha1 : Canonical a1.flds a1.ctrs) :
    Canonical (Dev.checkXon a1 a2 a3).flds (Dev.checkXon a1 a2 a3).ctrs := by
  unfold Dev.checkXon; exact (ite_canonical (Dev.sendPause_canonical (Dev.setMac_canonical (Dev.setBit_canonical ha1))) ha1)

theorem Dev.freeRequest_canonical {a1 a2 a3} (ha1 : Canonical a1.flds a1.ctrs) :
    Canonical (Dev.freeRequest a1 a2 a3).flds (Dev.freeRequest a1 a2 a3).ctrs := by
  unfold Dev.freeRequest; exact (by split; (· exact ha1); (· exact (ite_canonical (Dev.checkXon_canonical (Dev.setChain_canonical ha1)) (Dev.record_canonical (Dev.count_canonical ha1)))))

theorem Dev.dropRef_canonical {a1 a2 a3} (ha1 : Canonical a1.flds a1.ctrs) :
    Canonical (Dev.dropRef a1 a2 a3).flds (Dev.dropRef a1 a2 a3).ctrs := by
  unfold Dev.dropRef; exact (by split; (· exact ha1); (· exact (ite_canonical (Dev.setChain_canonical ha1) (Dev.setChain_canonical ha1))))

theorem Dev.release_canonical {a1 a2 a3} (ha1 : Canonical a1.flds a1.ctrs) :
    Canonical (Dev.release a1 a2 a3).flds (Dev.release a1 a2 a3).ctrs := by
  unfold Dev.release; exact (ite_canonical (Dev.freeRequest_canonical (Dev.dropRef_canonical ha1)) (Dev.dropRef_canonical ha1))

theorem Dev.setHoldQ_canonical {a1 a2 a3} (ha1 : Canonical a1.flds a1.ctrs) :
    Canonical (Dev.setHoldQ a1 a2 a3).flds (Dev.setHoldQ a1 a2 a3).ctrs := by
  unfold Dev.setHoldQ; exact (by (try dsimp only); exact ha1)

theorem Dev.startWake_canonical {a1 a2} (ha1 : Canonical a1.flds a1.ctrs) :
    Canonical (Dev.startWake a1 a2).flds (Dev.startWake a1 a2).ctrs := by
  unfold Dev.startWake; exact (ite_canonical (Dev.setMac_canonical ha1) ha1)

theorem Dev.enqueue_canonical {a1 a2 a3 a4} (ha1 : Canonical a1.flds a1.ctrs) :
    Canonical (Dev.enqueue a1 a2 a3 a4).flds (Dev.enqueue a1 a2 a3 a4).ctrs := by
  unfold Dev.enqueue; exact (ite_canonical (Dev.startWake_canonical (Dev.perf_canonical (Dev.count_canonical (Dev.setQueue_canonical (by (try dsimp only); exact ha1))))) (Dev.perf_canonical (Dev.count_canonical (Dev.setQueue_canonical (by (try dsimp only); exact ha1)))))

theorem Dev.putBack_canonical {a1 a2 a3 a4} (ha1 : Canonical a1.flds a1.ctrs) :
    Canonical (Dev.putBack a1 a2 a3 a4).flds (Dev.putBack a1 a2 a3 a4).ctrs := by
  unfold Dev.putBack; exact (Dev.setQueue_canonical ha1)

theorem Dev.refuse_canonical {a1 a2 a3 a4} (ha1 : Canonical a1.flds a1.ctrs) :
    Canonical (Dev.refuse a1 a2 a3 a4).flds (Dev.refuse a1 a2 a3 a4).ctrs := by
  unfold Dev.refuse; exact (Dev.release_canonical (Dev.perf_canonical (Dev.count_canonical ha1)))

theorem Dev.ecnMark_canonical {a1 a2 a3 a4} (ha1 : Canonical a1.flds a1.ctrs) :
    Canonical (Dev.ecnMark a1 a2 a3 a4).1.flds (Dev.ecnMark a1 a2 a3 a4).1.ctrs := by
  unfold Dev.ecnMark; exact (fst_ite_canonical (by (try dsimp only); exact ha1) (fst_ite_canonical (by (try dsimp only); exact (Dev.count_canonical ha1)) (fst_ite_canonical (by (try dsimp only); exact (Dev.count_canonical (Dev.draw_canonical ha1))) (by (try dsimp only); exact (Dev.draw_canonical ha1)))))

theorem Dev.join_canonical {d : Dev} {q i ing de} (h : Canonical d.flds d.ctrs) :
    Canonical (Dev.join d q i ing de).1.flds (Dev.join d q i ing de).1.ctrs := by
  unfold Dev.join
  have hm : Canonical (if de.copy then d.count .QUE_MC_EGRESS_DROP q else d).flds
      (if de.copy then d.count .QUE_MC_EGRESS_DROP q else d).ctrs := ite_canonical (Dev.count_canonical h) h
  cases d.admitRows q i ing de <;> dsimp only
  case headroom => exact Dev.refuse_canonical (Dev.recordCounted_canonical (Dev.count_canonical hm))
  case ok => split <;> dsimp only <;> first
    | exact Dev.checkXoff_canonical (Dev.enqueue_canonical (Dev.ecnMark_canonical h))
    | exact Dev.refuse_canonical (Dev.count_canonical hm)
  all_goals exact Dev.refuse_canonical (Dev.count_canonical hm)

theorem Dev.passToHold_canonical {a1 a2 a3 a4 a5} (ha1 : Canonical a1.flds a1.ctrs) :
    Canonical (Dev.passToHold a1 a2 a3 a4 a5).1.flds (Dev.passToHold a1 a2 a3 a4 a5).1.ctrs := by
  unfold Dev.passToHold; exact (fst_ite_canonical (by (try dsimp only); exact (Dev.setHoldQ_canonical (Dev.join_canonical ha1))) (Dev.join_canonical ha1))

theorem Dev.setDeficit_canonical {a1 a2 a3 a4} (ha1 : Canonical a1.flds a1.ctrs) :
    Canonical (Dev.setDeficit a1 a2 a3 a4).flds (Dev.setDeficit a1 a2 a3 a4).ctrs := by
  unfold Dev.setDeficit; exact (by (try dsimp only); exact ha1)

theorem Dev.emptied_canonical {a1 a2 a3} (ha1 : Canonical a1.flds a1.ctrs) :
    Canonical (Dev.emptied a1 a2 a3).flds (Dev.emptied a1 a2 a3).ctrs := by
  unfold Dev.emptied; exact (ite_canonical (Dev.setDeficit_canonical ha1) ha1)

theorem Dev.flushQueue_canonical {a1 a2 a3} (ha1 : Canonical a1.flds a1.ctrs) :
    Canonical (Dev.flushQueue a1 a2 a3).flds (Dev.flushQueue a1 a2 a3).ctrs := by
  unfold Dev.flushQueue; exact (foldl_canonical (fun _ _ h1 => (Dev.release_canonical h1)) (ite_canonical (Dev.countN_canonical (Dev.emptied_canonical (Dev.countN_canonical (Dev.setQueue_canonical ha1)))) (Dev.emptied_canonical (Dev.countN_canonical (Dev.setQueue_canonical ha1)))))

theorem Dev.setMacq_canonical {a1 a2 a3 a4} (ha1 : Canonical a1.flds a1.ctrs) :
    Canonical (Dev.setMacq a1 a2 a3 a4).flds (Dev.setMacq a1 a2 a3 a4).ctrs := by
  unfold Dev.setMacq; exact (by (try dsimp only); exact ha1)

theorem Dev.setInflight_canonical {a1 a2 a3} (ha1 : Canonical a1.flds a1.ctrs) :
    Canonical (Dev.setInflight a1 a2 a3).flds (Dev.setInflight a1 a2 a3).ctrs := by
  unfold Dev.setInflight; exact (by (try dsimp only); exact ha1)

theorem Dev.returnMacq_canonical {a1 a2} (ha1 : Canonical a1.flds a1.ctrs) :
    Canonical (Dev.returnMacq a1 a2).flds (Dev.returnMacq a1 a2).ctrs := by
  unfold Dev.returnMacq; exact (foldl_canonical (fun _ _ h1 => (by split; (· exact h1); (· exact (Dev.putBack_canonical (Dev.setMacq_canonical h1))))) ha1)

theorem Dev.withdraw_canonical {a1 a2} (ha1 : Canonical a1.flds a1.ctrs) :
    Canonical (Dev.withdraw a1 a2).flds (Dev.withdraw a1 a2).ctrs := by
  unfold Dev.withdraw; exact (foldl_canonical (fun _ _ h1 => (by split; (· exact h1); (· exact (ite_canonical (Dev.macCount_canonical (Dev.putBack_canonical (Dev.setMacq_canonical h1))) h1)))) ha1)

theorem Dev.startFrom_canonical {p n} {d : Dev} (h : Canonical d.flds d.ctrs) :
    Canonical (Dev.startFrom p n d).flds (Dev.startFrom p n d).ctrs := by
  induction n generalizing d with
  | zero => exact h
  | succ n ih =>
    simp only [Dev.startFrom]
    repeat' split
    all_goals first
      | exact h
      | exact ih (Dev.release_canonical (Dev.macCount_canonical (Dev.setMacq_canonical h)))
      | exact Dev.setInflight_canonical (Dev.setMacq_canonical h)
      | exact Dev.setMac_canonical h

theorem Dev.startNext_canonical {a1 a2} (ha1 : Canonical a1.flds a1.ctrs) :
    Canonical (Dev.startNext a1 a2).flds (Dev.startNext a1 a2).ctrs := by
  unfold Dev.startNext; exact (Dev.startFrom_canonical ha1)

theorem Dev.sendMsg_canonical {a1 a2 a3 a4 a5 a6} (ha1 : Canonical a1.flds a1.ctrs) :
    Canonical (Dev.sendMsg a1 a2 a3 a4 a5 a6).flds (Dev.sendMsg a1 a2 a3 a4 a5 a6).ctrs := by
  unfold Dev.sendMsg; exact (ite_canonical (Dev.startNext_canonical (Dev.startWake_canonical (Dev.setMac_canonical ha1))) ha1)

theorem Dev.queueToHold_canonical {a1 a2 a3} (ha1 : Canonical a1.flds a1.ctrs) :
    Canonical (Dev.queueToHold a1 a2 a3).1.flds (Dev.queueToHold a1 a2 a3).1.ctrs := by
  unfold Dev.queueToHold; exact (fst_foldl_canonical (fun _ _ h1 => (by split; (· exact (by (try dsimp only); exact (Dev.passToHold_canonical (Dev.count_canonical h1)))); (· exact (by (try dsimp only); exact (Dev.release_canonical (Dev.count_canonical h1)))))) (by (try dsimp only); exact (Dev.emptied_canonical (Dev.setQueue_canonical ha1))))

theorem Dev.emptyPort_canonical {a1 a2} (ha1 : Canonical a1.flds a1.ctrs) :
    Canonical (Dev.emptyPort a1 a2).1.flds (Dev.emptyPort a1 a2).1.ctrs := by
  unfold Dev.emptyPort; exact (by (try dsimp only); exact (Dev.flushQueue_canonical (Dev.flushQueue_canonical (fst_foldl_canonical (fun _ _ h1 => (fst_ite_canonical (by (try dsimp only); exact (Dev.flushQueue_canonical h1)) (by (try dsimp only); exact (ite_canonical (Dev.count_canonical (Dev.queueToHold_canonical h1)) (Dev.queueToHold_canonical h1))))) (by (try dsimp only); exact (by (try dsimp only); exact ha1))))))

theorem Dev.expirePort_canonical {a1 a2} (ha1 : Canonical a1.flds a1.ctrs) :
    Canonical (Dev.expirePort a1 a2).flds (Dev.expirePort a1 a2).ctrs := by
  unfold Dev.expirePort; exact (Dev.record_canonical (Dev.count_canonical (Dev.emptyPort_canonical ha1)))

theorem Dev.cutFrame_canonical {a1 a2} (ha1 : Canonical a1.flds a1.ctrs) :
    Canonical (Dev.cutFrame a1 a2).1.flds (Dev.cutFrame a1 a2).1.ctrs := by
  unfold Dev.cutFrame; exact (by split; (· exact (by (try dsimp only); exact (by split; (· exact ha1); (· exact (Dev.macCount_canonical (Dev.setMac_canonical (by (try dsimp only); exact ha1))))))); (· exact (by (try dsimp only); exact (Dev.emit_canonical (Dev.macCount_canonical (Dev.setInflight_canonical (by (try dsimp only); exact ha1)))))))

theorem Dev.stopSending_canonical {a1 a2} (ha1 : Canonical a1.flds a1.ctrs) :
    Canonical (Dev.stopSending a1 a2).flds (Dev.stopSending a1 a2).ctrs := by
  unfold Dev.stopSending; exact (Dev.setMac_canonical (Dev.returnMacq_canonical (by split; (· exact (Dev.cutFrame_canonical ha1)); (· exact (ite_canonical (Dev.putBack_canonical (Dev.cutFrame_canonical ha1)) (Dev.release_canonical (Dev.cutFrame_canonical ha1)))))))

theorem Dev.portDown_canonical {a1 a2 a3 a4} (ha1 : Canonical a1.flds a1.ctrs) :
    Canonical (Dev.portDown a1 a2 a3 a4).flds (Dev.portDown a1 a2 a3 a4).ctrs := by
  unfold Dev.portDown; exact (ite_canonical (by (try dsimp only); exact (Dev.stopSending_canonical ha1)) (ite_canonical (Dev.stopSending_canonical ha1) (ite_canonical (Dev.expirePort_canonical (Dev.stopSending_canonical ha1)) (Dev.emptyPort_canonical (Dev.stopSending_canonical ha1)))))

theorem Dev.newChain_canonical {a1 a2 a3} (ha1 : Canonical a1.flds a1.ctrs) :
    Canonical (Dev.newChain a1 a2 a3).1.flds (Dev.newChain a1 a2 a3).1.ctrs := by
  unfold Dev.newChain; exact (by (try dsimp only); exact (Dev.perf_canonical (Dev.notePeak_canonical (Dev.setChain_canonical (by (try dsimp only); exact ha1)))))

theorem Dev.link_canonical {a1 a2 a3 a4 a5} (ha1 : Canonical a1.flds a1.ctrs) :
    Canonical (Dev.link a1 a2 a3 a4 a5).1.flds (Dev.link a1 a2 a3 a4 a5).1.ctrs := by
  unfold Dev.link; exact (by (try dsimp only); split; (· exact (by (try dsimp only); exact (Dev.refuse_canonical (Dev.count_canonical (ite_canonical (Dev.count_canonical ha1) ha1))))); (· exact (by (try dsimp only); split; (· exact (Dev.passToHold_canonical ha1)); (· exact (by (try dsimp only); exact (Dev.refuse_canonical ha1))))); (· exact (by (try dsimp only); exact (Dev.release_canonical (Dev.recordCounted_canonical (Dev.count_canonical ha1))))); (· exact (Dev.join_canonical ha1)))

theorem Dev.toPort134_canonical {a1 a2 a3 a4} (ha1 : Canonical a1.flds a1.ctrs) :
    Canonical (Dev.toPort134 a1 a2 a3 a4).flds (Dev.toPort134 a1 a2 a3 a4).ctrs := by
  unfold Dev.toPort134; exact (ite_canonical (Dev.count_canonical (Dev.count_canonical ha1)) (Dev.link_canonical (Dev.newChain_canonical ha1)))

/-! ### `LinkOps` -/

theorem Dev.noteLost_canonical {a1 a2 a3 a4} (ha1 : Canonical a1.flds a1.ctrs) :
    Canonical (Dev.noteLost a1 a2 a3 a4).flds (Dev.noteLost a1 a2 a3 a4).ctrs := by
  unfold Dev.noteLost; exact (Dev.doorbell_canonical (by (try dsimp only); exact ha1))

theorem Dev.f2hPost_canonical {a1 a2 a3} (ha1 : Canonical a1.flds a1.ctrs) :
    Canonical (Dev.f2hPost a1 a2 a3).flds (Dev.f2hPost a1 a2 a3).ctrs := by
  unfold Dev.f2hPost; exact (ite_canonical (Dev.set1_canonical (by (try dsimp only); exact ha1)) (Dev.noteLost_canonical (Dev.count_canonical (Dev.satInc_canonical ha1))))

theorem Dev.notice_canonical {a1 a2 a3} (ha1 : Canonical a1.flds a1.ctrs) :
    Canonical (Dev.notice a1 a2 a3).flds (Dev.notice a1 a2 a3).ctrs := by
  unfold Dev.notice; exact (Dev.f2hPost_canonical (by (try dsimp only); exact ha1))

theorem Dev.dropAn_canonical {a1 a2} (ha1 : Canonical a1.flds a1.ctrs) :
    Canonical (Dev.dropAn a1 a2).flds (Dev.dropAn a1 a2).ctrs := by
  unfold Dev.dropAn; exact (Dev.set1_canonical ha1)

theorem Dev.setAdj_canonical {a1 a2 a3} (ha1 : Canonical a1.flds a1.ctrs) :
    Canonical (Dev.setAdj a1 a2 a3).flds (Dev.setAdj a1 a2 a3).ctrs := by
  unfold Dev.setAdj; exact (by (try dsimp only); exact ha1)

theorem Dev.adjGo_canonical {a1 a2 a3 a4} (ha1 : Canonical a1.flds a1.ctrs) :
    Canonical (Dev.adjGo a1 a2 a3 a4).flds (Dev.adjGo a1 a2 a3 a4).ctrs := by
  unfold Dev.adjGo; exact (Dev.raise_canonical (Dev.set0_canonical (ite_canonical (ite_canonical (by (try dsimp only); exact (Dev.record_canonical (Dev.set1_canonical ha1))) (ite_canonical (by (try dsimp only); exact (Dev.record_canonical (Dev.set1_canonical ha1))) (Dev.set1_canonical ha1))) (Dev.set1_canonical (ite_canonical (by (try dsimp only); exact (Dev.record_canonical (Dev.set1_canonical ha1))) (ite_canonical (by (try dsimp only); exact (Dev.record_canonical (Dev.set1_canonical ha1))) (Dev.set1_canonical ha1)))))))

theorem Dev.adjDown_canonical {a1 a2 a3} (ha1 : Canonical a1.flds a1.ctrs) :
    Canonical (Dev.adjDown a1 a2 a3).flds (Dev.adjDown a1 a2 a3).ctrs := by
  unfold Dev.adjDown; exact (ite_canonical ha1 (Dev.set1_canonical (Dev.set1_canonical (Dev.setAdj_canonical (Dev.adjGo_canonical ha1)))))

theorem Dev.fabControl_canonical {a1 a2 a3 a4 a5} (ha1 : Canonical a1.flds a1.ctrs) :
    Canonical (Dev.fabControl a1 a2 a3 a4 a5).flds (Dev.fabControl a1 a2 a3 a4 a5).ctrs := by
  unfold Dev.fabControl; exact (Dev.sendMsg_canonical (Dev.setAdj_canonical ha1))

theorem Dev.floodNotice_canonical {a1 a2} (ha1 : Canonical a1.flds a1.ctrs) :
    Canonical (Dev.floodNotice a1 a2).flds (Dev.floodNotice a1 a2).ctrs := by
  unfold Dev.floodNotice; exact (foldl_canonical (fun _ _ h1 => (ite_canonical (Dev.fabControl_canonical h1) h1)) ha1)

theorem Dev.setTurn_canonical {a1 a2 a3} (ha1 : Canonical a1.flds a1.ctrs) :
    Canonical (Dev.setTurn a1 a2 a3).flds (Dev.setTurn a1 a2 a3).ctrs := by
  unfold Dev.setTurn; exact (by (try dsimp only); exact ha1)

theorem Dev.detach_canonical {a1 a2} (ha1 : Canonical a1.flds a1.ctrs) :
    Canonical (Dev.detach a1 a2).flds (Dev.detach a1 a2).ctrs := by
  unfold Dev.detach; exact (Dev.set1_canonical (Dev.set1_canonical (Dev.set1_canonical ha1)))

theorem Dev.abandonTurn_canonical {a1 a2 a3} (ha1 : Canonical a1.flds a1.ctrs) :
    Canonical (Dev.abandonTurn a1 a2 a3).flds (Dev.abandonTurn a1 a2 a3).ctrs := by
  unfold Dev.abandonTurn; exact (ite_canonical (Dev.recordLimited_canonical (Dev.satInc_canonical (Dev.detach_canonical ha1))) ha1)

theorem Dev.abandonPortTurn_canonical {a1 a2 a3} (ha1 : Canonical a1.flds a1.ctrs) :
    Canonical (Dev.abandonPortTurn a1 a2 a3).flds (Dev.abandonPortTurn a1 a2 a3).ctrs := by
  unfold Dev.abandonPortTurn; exact (ite_canonical (Dev.abandonTurn_canonical ha1) ha1)

theorem Dev.flapCheck_canonical {a1 a2} (ha1 : Canonical a1.flds a1.ctrs) :
    Canonical (Dev.flapCheck a1 a2).flds (Dev.flapCheck a1 a2).ctrs := by
  unfold Dev.flapCheck; exact (ite_canonical (Dev.recordLimited_canonical (Dev.set1_canonical (Dev.dropAn_canonical (Dev.setMac_canonical ha1)))) ha1)

theorem Dev.linkDown_canonical {a1 a2 a3 a4} (ha1 : Canonical a1.flds a1.ctrs) :
    Canonical (Dev.linkDown a1 a2 a3 a4).flds (Dev.linkDown a1 a2 a3 a4).ctrs := by
  unfold Dev.linkDown; exact (ite_canonical (Dev.flapCheck_canonical (Dev.raise_canonical (Dev.record_canonical (Dev.abandonPortTurn_canonical (by (try dsimp only); exact (Dev.setAdj_canonical (Dev.adjDown_canonical (ite_canonical (Dev.setMac_canonical (Dev.set1_canonical (Dev.set1_canonical (Dev.macCount_canonical (Dev.set1_canonical ha1))))) (Dev.portDown_canonical (Dev.setMac_canonical (Dev.set1_canonical (Dev.set1_canonical (Dev.macCount_canonical (Dev.set1_canonical ha1)))))))))))))) ha1)

/-! ### `HealthOps` -/

theorem Dev.setHealth_canonical {a1 a2 a3} (ha1 : Canonical a1.flds a1.ctrs) :
    Canonical (Dev.setHealth a1 a2 a3).flds (Dev.setHealth a1 a2 a3).ctrs := by
  unfold Dev.setHealth; exact (Dev.raise_canonical (Dev.notice_canonical (Dev.doorbell_canonical (Dev.set0_canonical (Dev.set0_canonical (Dev.set0_canonical ha1))))))

theorem Dev.enterAutumn_canonical {a1 a2} (ha1 : Canonical a1.flds a1.ctrs) :
    Canonical (Dev.enterAutumn a1 a2).flds (Dev.enterAutumn a1 a2).ctrs := by
  unfold Dev.enterAutumn; exact (Dev.floodNotice_canonical (Dev.record_canonical (Dev.setHealth_canonical (by (try dsimp only); exact ha1))))

theorem Dev.autumn_canonical {a1 a2 a3} (ha1 : Canonical a1.flds a1.ctrs) :
    Canonical (Dev.autumn a1 a2 a3).flds (Dev.autumn a1 a2 a3).ctrs := by
  unfold Dev.autumn; exact (ite_canonical (Dev.enterAutumn_canonical (by (try dsimp only); exact (Dev.set0_canonical ha1))) (ite_canonical (by (try dsimp only); exact (by (try dsimp only); exact (Dev.set0_canonical ha1))) (by (try dsimp only); exact (Dev.set0_canonical ha1))))

theorem Dev.dieFault_canonical {a1 a2} (ha1 : Canonical a1.flds a1.ctrs) :
    Canonical (Dev.dieFault a1 a2).flds (Dev.dieFault a1 a2).ctrs := by
  unfold Dev.dieFault; exact (ite_canonical ha1 (Dev.raise_canonical (Dev.setBit_canonical ha1)))

theorem Dev.leaseStop_canonical {a1} (ha1 : Canonical a1.flds a1.ctrs) :
    Canonical (Dev.leaseStop a1).flds (Dev.leaseStop a1).ctrs := by
  unfold Dev.leaseStop; exact (ite_canonical (Dev.doorbell_canonical (Dev.set0_canonical (Dev.set0_canonical (by (try dsimp only); exact ha1)))) (Dev.set0_canonical (by (try dsimp only); exact ha1)))

theorem Dev.pulsesLow_canonical {a1} (ha1 : Canonical a1.flds a1.ctrs) :
    Canonical (Dev.pulsesLow a1).flds (Dev.pulsesLow a1).ctrs := by
  unfold Dev.pulsesLow; exact (by (try dsimp only); exact ha1)

theorem Dev.slotState_canonical {a1 a2 a3} (ha1 : Canonical a1.flds a1.ctrs) :
    Canonical (Dev.slotState a1 a2 a3).flds (Dev.slotState a1 a2 a3).ctrs := by
  unfold Dev.slotState; exact (Dev.set0_canonical (by (try dsimp only); exact ha1))

theorem Dev.reloadDiscard_canonical {a1 a2 a3} (ha1 : Canonical a1.flds a1.ctrs) :
    Canonical (Dev.reloadDiscard a1 a2 a3).flds (Dev.reloadDiscard a1 a2 a3).ctrs := by
  unfold Dev.reloadDiscard; exact (Dev.satInc_canonical (by (try dsimp only); exact ha1))

theorem Dev.endRetrain_canonical {a1} (ha1 : Canonical a1.flds a1.ctrs) :
    Canonical (Dev.endRetrain a1).flds (Dev.endRetrain a1).ctrs := by
  unfold Dev.endRetrain; exact (by split; (· exact ha1); (· exact (Dev.set0_canonical (Dev.set1_canonical (by (try dsimp only); exact ha1)))))

theorem Dev.abortRetrain_canonical {a1 a2} (ha1 : Canonical a1.flds a1.ctrs) :
    Canonical (Dev.abortRetrain a1 a2).flds (Dev.abortRetrain a1 a2).ctrs := by
  unfold Dev.abortRetrain; exact (by split; (· exact ha1); (· exact (Dev.record_canonical (Dev.endRetrain_canonical ha1))))

theorem Dev.safeTx_canonical {a1} (ha1 : Canonical a1.flds a1.ctrs) :
    Canonical (Dev.safeTx a1).flds (Dev.safeTx a1).ctrs := by
  unfold Dev.safeTx; exact (foldl_canonical (fun _ _ h1 => (Dev.setMac_canonical (by split; (· exact (Dev.putBack_canonical (Dev.cutFrame_canonical h1))); (· exact (Dev.cutFrame_canonical h1))))) ha1)

theorem Dev.quiesce_canonical {a1} (ha1 : Canonical a1.flds a1.ctrs) :
    Canonical (Dev.quiesce a1).flds (Dev.quiesce a1).ctrs := by
  unfold Dev.quiesce; exact (by (try dsimp only); exact (Dev.set0_canonical (Dev.set0_canonical (Dev.leaseStop_canonical (Dev.pulsesLow_canonical (Dev.safeTx_canonical ha1))))))

theorem Dev.beginReset_canonical {a1 a2} (ha1 : Canonical a1.flds a1.ctrs) :
    Canonical (Dev.beginReset a1 a2).flds (Dev.beginReset a1 a2).ctrs := by
  unfold Dev.beginReset; exact (ite_canonical ha1 (by (try dsimp only); exact (Dev.quiesce_canonical (Dev.abortRetrain_canonical ha1))))

theorem Dev.trialFailed_canonical {a1} (ha1 : Canonical a1.flds a1.ctrs) :
    Canonical (Dev.trialFailed a1).flds (Dev.trialFailed a1).ctrs := by
  unfold Dev.trialFailed; exact (by split; (· exact ha1); (· exact (ite_canonical (Dev.beginReset_canonical (Dev.record_canonical (Dev.slotState_canonical (by (try dsimp only); exact ha1)))) (Dev.record_canonical (Dev.slotState_canonical (by (try dsimp only); exact ha1))))))

theorem Dev.imgEnd_canonical {a1 a2 a3} (ha1 : Canonical a1.flds a1.ctrs) :
    Canonical (Dev.imgEnd a1 a2 a3).flds (Dev.imgEnd a1 a2 a3).ctrs := by
  unfold Dev.imgEnd; exact (Dev.doorbell_canonical (Dev.set0_canonical (Dev.set0_canonical (Dev.set0_canonical (Dev.set0_canonical ha1)))))

theorem Dev.abandonImage_canonical {a1} (ha1 : Canonical a1.flds a1.ctrs) :
    Canonical (Dev.abandonImage a1).flds (Dev.abandonImage a1).ctrs := by
  unfold Dev.abandonImage; exact (ite_canonical ha1 (Dev.imgEnd_canonical (by (try dsimp only); exact ha1)))

theorem Dev.winterCause_canonical {a1 a2 a3} (ha1 : Canonical a1.flds a1.ctrs) :
    Canonical (Dev.winterCause a1 a2 a3).flds (Dev.winterCause a1 a2 a3).ctrs := by
  unfold Dev.winterCause; exact (ite_canonical (ite_canonical (by (try dsimp only); exact (Dev.record_canonical (Dev.set0_canonical ha1))) (Dev.record_canonical (Dev.set0_canonical ha1))) (Dev.trialFailed_canonical (Dev.abandonImage_canonical (foldl_canonical (fun _ _ h1 => (Dev.abandonTurn_canonical h1)) (Dev.set0_canonical (by (try dsimp only); exact (Dev.quiesce_canonical (Dev.setHealth_canonical (Dev.set0_canonical ha1)))))))))

theorem Dev.loseCapture_canonical {a1} (ha1 : Canonical a1.flds a1.ctrs) :
    Canonical (Dev.loseCapture a1).flds (Dev.loseCapture a1).ctrs := by
  unfold Dev.loseCapture; exact (Dev.recordCounted_canonical (Dev.count_canonical ha1))

theorem Dev.loseHoldQueues_canonical {a1} (ha1 : Canonical a1.flds a1.ctrs) :
    Canonical (Dev.loseHoldQueues a1).flds (Dev.loseHoldQueues a1).ctrs := by
  unfold Dev.loseHoldQueues; exact (ite_canonical ha1 (foldl_canonical (fun _ _ h1 => (foldl_canonical (fun _ _ h2 => (Dev.release_canonical h2)) (Dev.countN_canonical (Dev.setQueue_canonical h1)))) ha1))

theorem Dev.loseCaptures_canonical {a1} (ha1 : Canonical a1.flds a1.ctrs) :
    Canonical (Dev.loseCaptures a1).flds (Dev.loseCaptures a1).ctrs := by
  unfold Dev.loseCaptures; exact (ite_canonical (foldl_canonical (fun _ _ h1 => (Dev.loseCapture_canonical h1)) (by (try dsimp only); exact ha1)) ha1)

theorem Dev.holdOutOfService_canonical {a1 a2} (ha1 : Canonical a1.flds a1.ctrs) :
    Canonical (Dev.holdOutOfService a1 a2).flds (Dev.holdOutOfService a1 a2).ctrs := by
  unfold Dev.holdOutOfService; exact (ite_canonical ha1 (Dev.autumn_canonical (Dev.raise_canonical (Dev.record_canonical (Dev.set0_canonical (Dev.set0_canonical (Dev.loseCaptures_canonical (Dev.loseHoldQueues_canonical (Dev.set0_canonical (by (try dsimp only); exact (by (try dsimp only); exact (foldl_canonical (fun _ _ h1 => (Dev.countN_canonical h1)) (Dev.endRetrain_canonical ha1)))))))))))))

theorem Dev.isolatePort_canonical {a1 a2} (ha1 : Canonical a1.flds a1.ctrs) :
    Canonical (Dev.isolatePort a1 a2).flds (Dev.isolatePort a1 a2).ctrs := by
  unfold Dev.isolatePort; exact (ite_canonical ha1 (Dev.autumn_canonical (Dev.raise_canonical (Dev.record_canonical (Dev.setBit_canonical (ite_canonical (Dev.linkDown_canonical (Dev.setMac_canonical (Dev.set1_canonical ha1))) (ite_canonical (Dev.setMac_canonical (Dev.set1_canonical ha1)) (Dev.portDown_canonical (Dev.setMac_canonical (Dev.set1_canonical ha1))))))))))

theorem Dev.dropRecirc_canonical {a1 a2} (ha1 : Canonical a1.flds a1.ctrs) :
    Canonical (Dev.dropRecirc a1 a2).flds (Dev.dropRecirc a1 a2).ctrs := by
  unfold Dev.dropRecirc; exact (by (try dsimp only); split; (· exact (foldl_canonical (fun _ _ h1 => (Dev.flushQueue_canonical h1)) ha1)); (· exact (Dev.release_canonical (Dev.count_canonical (Dev.setInflight_canonical (foldl_canonical (fun _ _ h2 => (Dev.flushQueue_canonical h2)) ha1))))))

theorem Dev.isolateRegion_canonical {a1 a2 a3} (ha1 : Canonical a1.flds a1.ctrs) :
    Canonical (Dev.isolateRegion a1 a2 a3).flds (Dev.isolateRegion a1 a2 a3).ctrs := by
  unfold Dev.isolateRegion; exact (ite_canonical ha1 (Dev.autumn_canonical (Dev.raise_canonical (Dev.record_canonical (ite_canonical (foldl_canonical (fun _ _ h1 => (Dev.set1_canonical (Dev.abandonTurn_canonical h1))) (foldl_canonical (fun _ _ h2 => (ite_canonical (Dev.setMac_canonical h2) (ite_canonical (Dev.linkDown_canonical (Dev.setMac_canonical h2)) (ite_canonical (Dev.setMac_canonical h2) (Dev.portDown_canonical (Dev.setMac_canonical h2)))))) (Dev.setBit_canonical (Dev.satInc_canonical (foldl_canonical (fun _ _ h3 => (Dev.setRx_canonical h3)) (by (try dsimp only); exact ha1)))))) (Dev.dropRecirc_canonical (foldl_canonical (fun _ _ h4 => (Dev.set1_canonical (Dev.abandonTurn_canonical h4))) (foldl_canonical (fun _ _ h5 => (ite_canonical (Dev.setMac_canonical h5) (ite_canonical (Dev.linkDown_canonical (Dev.setMac_canonical h5)) (ite_canonical (Dev.setMac_canonical h5) (Dev.portDown_canonical (Dev.setMac_canonical h5)))))) (Dev.setBit_canonical (Dev.satInc_canonical (foldl_canonical (fun _ _ h6 => (Dev.setRx_canonical h6)) (by (try dsimp only); exact ha1))))))))))))

/-! ### `PairOps` -/

theorem Dev.setPairLink_canonical {a1 a2 a3} (ha1 : Canonical a1.flds a1.ctrs) :
    Canonical (Dev.setPairLink a1 a2 a3).flds (Dev.setPairLink a1 a2 a3).ctrs := by
  unfold Dev.setPairLink; exact (by (try dsimp only); exact ha1)

theorem Dev.pairSeq_canonical {a1 a2} (ha1 : Canonical a1.flds a1.ctrs) :
    Canonical (Dev.pairSeq a1 a2).2.flds (Dev.pairSeq a1 a2).2.ctrs := by
  unfold Dev.pairSeq; exact (by (try dsimp only); exact (by (try dsimp only); exact ha1))

theorem Dev.pairSendOn_canonical {a1 a2 a3 a4 a5 a6 a7} (ha1 : Canonical a1.flds a1.ctrs) :
    Canonical (Dev.pairSendOn a1 a2 a3 a4 a5 a6 a7).flds (Dev.pairSendOn a1 a2 a3 a4 a5 a6 a7).ctrs := by
  unfold Dev.pairSendOn; exact (Dev.sendMsg_canonical ha1)

theorem Dev.pairSend_canonical {a1 a2 a3 a4 a5 a6} (ha1 : Canonical a1.flds a1.ctrs) :
    Canonical (Dev.pairSend a1 a2 a3 a4 a5 a6).flds (Dev.pairSend a1 a2 a3 a4 a5 a6).ctrs := by
  unfold Dev.pairSend; exact (by split; (· exact ha1); (· exact (Dev.pairSendOn_canonical (Dev.pairSeq_canonical ha1))))

theorem Dev.syncRow_canonical {a1 a2 a3} (ha1 : Canonical a1.flds a1.ctrs) :
    Canonical (Dev.syncRow a1 a2 a3).flds (Dev.syncRow a1 a2 a3).ctrs := by
  unfold Dev.syncRow; exact (ite_canonical (Dev.pairSend_canonical (Dev.count_canonical ha1)) ha1)

theorem Dev.setWin_canonical {a1 a2 a3 a4} (ha1 : Canonical a1.flds a1.ctrs) :
    Canonical (Dev.setWin a1 a2 a3 a4).flds (Dev.setWin a1 a2 a3 a4).ctrs := by
  unfold Dev.setWin; exact (by (try dsimp only); exact ha1)

theorem Dev.noteIncomplete_canonical {a1 a2 a3} (ha1 : Canonical a1.flds a1.ctrs) :
    Canonical (Dev.noteIncomplete a1 a2 a3).flds (Dev.noteIncomplete a1 a2 a3).ctrs := by
  unfold Dev.noteIncomplete; exact (ite_canonical (Dev.setWin_canonical ha1) ha1)

theorem Dev.addDigest_canonical {a1 a2 a3 a4 a5} (ha1 : Canonical a1.flds a1.ctrs) :
    Canonical (Dev.addDigest a1 a2 a3 a4 a5).flds (Dev.addDigest a1 a2 a3 a4 a5).ctrs := by
  unfold Dev.addDigest; exact (Dev.setWin_canonical ha1)

theorem Dev.standbyDigest_canonical {a1 a2 a3 a4 a5 a6} (ha1 : Canonical a1.flds a1.ctrs) :
    Canonical (Dev.standbyDigest a1 a2 a3 a4 a5 a6).flds (Dev.standbyDigest a1 a2 a3 a4 a5 a6).ctrs := by
  unfold Dev.standbyDigest; exact (by (try dsimp only); split; (· exact (Dev.addDigest_canonical ha1)); (· exact (ite_canonical (Dev.noteIncomplete_canonical (Dev.noteIncomplete_canonical ha1)) (by (try dsimp only); exact ha1))))

theorem Dev.takeSample_canonical {a1 a2} (ha1 : Canonical a1.flds a1.ctrs) :
    Canonical (Dev.takeSample a1 a2).2.flds (Dev.takeSample a1 a2).2.ctrs := by
  unfold Dev.takeSample; exact (snd_ite_canonical (by (try dsimp only); exact (by (try dsimp only); exact ha1)) (by (try dsimp only); exact (by (try dsimp only); exact (by (try dsimp only); exact ha1))))

theorem Dev.keepFrame_canonical {a1 a2 a3 a4} (ha1 : Canonical a1.flds a1.ctrs) :
    Canonical (Dev.keepFrame a1 a2 a3 a4).flds (Dev.keepFrame a1 a2 a3 a4).ctrs := by
  unfold Dev.keepFrame; exact (ite_canonical (by (try dsimp only); exact ha1) ha1)

theorem Dev.digestFrame_canonical {a1 a2 a3 a4 a5 a6 a7} (ha1 : Canonical a1.flds a1.ctrs) :
    Canonical (Dev.digestFrame a1 a2 a3 a4 a5 a6 a7).flds (Dev.digestFrame a1 a2 a3 a4 a5 a6 a7).ctrs := by
  unfold Dev.digestFrame; exact (ite_canonical ha1 (ite_canonical (ite_canonical (Dev.keepFrame_canonical (Dev.addDigest_canonical ha1)) (Dev.keepFrame_canonical (Dev.standbyDigest_canonical ha1))) (ite_canonical (ite_canonical (Dev.pairSend_canonical (Dev.count_canonical (Dev.keepFrame_canonical (Dev.addDigest_canonical (Dev.takeSample_canonical ha1))))) (Dev.takeSample_canonical ha1)) ha1)))

theorem Dev.stopForwarding_canonical {a1} (ha1 : Canonical a1.flds a1.ctrs) :
    Canonical (Dev.stopForwarding a1).flds (Dev.stopForwarding a1).ctrs := by
  unfold Dev.stopForwarding; exact (foldl_canonical (fun _ _ h1 => (ite_canonical (foldl_canonical (fun _ _ h2 => (Dev.flushQueue_canonical h2)) (Dev.returnMacq_canonical h1)) h1)) (Dev.leaseStop_canonical ha1))

/-! ### `Lookup` -/

theorem Dev.wordError_canonical {a1 a2 a3 a4} (ha1 : Canonical a1.flds a1.ctrs) :
    Canonical (Dev.wordError a1 a2 a3 a4).2.flds (Dev.wordError a1 a2 a3 a4).2.ctrs := by
  unfold Dev.wordError; exact (by (try dsimp only); exact (by (try dsimp only); exact ha1))

theorem Dev.setDown_canonical {a1 a2 a3 a4 a5} (ha1 : Canonical a1.flds a1.ctrs) :
    Canonical (Dev.setDown a1 a2 a3 a4 a5).flds (Dev.setDown a1 a2 a3 a4 a5).ctrs := by
  unfold Dev.setDown; exact (by (try dsimp only); exact ha1)

theorem Dev.spareUsed_canonical {a1 a2} (ha1 : Canonical a1.flds a1.ctrs) :
    Canonical (Dev.spareUsed a1 a2).flds (Dev.spareUsed a1 a2).ctrs := by
  unfold Dev.spareUsed; exact (Dev.autumn_canonical ha1)

theorem Dev.tableHard_canonical {a1 a2 a3 a4} (ha1 : Canonical a1.flds a1.ctrs) :
    Canonical (Dev.tableHard a1 a2 a3 a4).flds (Dev.tableHard a1 a2 a3 a4).ctrs := by
  unfold Dev.tableHard; exact (ite_canonical (Dev.spareUsed_canonical (Dev.record_canonical (Dev.satInc_canonical (by (try dsimp only); exact ha1)))) (ite_canonical (Dev.winterCause_canonical (Dev.record_canonical ha1)) (Dev.isolateRegion_canonical (Dev.record_canonical ha1))))

theorem Dev.noteParity_canonical {a1 a2 a3 a4 a5 a6} (ha1 : Canonical a1.flds a1.ctrs) :
    Canonical (Dev.noteParity a1 a2 a3 a4 a5 a6).flds (Dev.noteParity a1 a2 a3 a4 a5 a6).ctrs := by
  unfold Dev.noteParity; exact (Dev.raise_canonical (Dev.record_canonical (Dev.set0_canonical (Dev.set0_canonical (Dev.set0_canonical ha1)))))

theorem Dev.setL2_canonical {a1 a2 a3} (ha1 : Canonical a1.flds a1.ctrs) :
    Canonical (Dev.setL2 a1 a2 a3).flds (Dev.setL2 a1 a2 a3).ctrs := by
  unfold Dev.setL2; exact (ite_canonical (by (try dsimp only); exact ha1) (Dev.syncRow_canonical (by (try dsimp only); exact ha1)))

theorem Dev.l2Update_canonical {a1 a2 a3 a4} (ha1 : Canonical a1.flds a1.ctrs) :
    Canonical (Dev.l2Update a1 a2 a3 a4).flds (Dev.l2Update a1 a2 a3 a4).ctrs := by
  unfold Dev.l2Update; exact (foldl_canonical (fun _ _ h1 => (by split; (· exact (ite_canonical (Dev.setL2_canonical h1) h1)); (· exact h1))) ha1)

theorem Dev.l2Parity_canonical {a1 a2 a3} (ha1 : Canonical a1.flds a1.ctrs) :
    Canonical (Dev.l2Parity a1 a2 a3).flds (Dev.l2Parity a1 a2 a3).ctrs := by
  unfold Dev.l2Parity; exact (ite_canonical (Dev.tableHard_canonical (Dev.wordError_canonical (Dev.noteParity_canonical (Dev.count_canonical (Dev.setL2_canonical ha1))))) (Dev.wordError_canonical (Dev.noteParity_canonical (Dev.count_canonical (Dev.setL2_canonical ha1)))))

theorem Dev.setEx_canonical {a1 a2 a3 a4} (ha1 : Canonical a1.flds a1.ctrs) :
    Canonical (Dev.setEx a1 a2 a3 a4).flds (Dev.setEx a1 a2 a3 a4).ctrs := by
  unfold Dev.setEx; exact (by (try dsimp only); exact ha1)

theorem Dev.exUpdate_canonical {a1 a2 a3 a4} (ha1 : Canonical a1.flds a1.ctrs) :
    Canonical (Dev.exUpdate a1 a2 a3 a4).flds (Dev.exUpdate a1 a2 a3 a4).ctrs := by
  unfold Dev.exUpdate; exact (foldl_canonical (fun _ _ h1 => (by split; (· exact (ite_canonical (Dev.setEx_canonical h1) h1)); (· exact h1))) ha1)

theorem Dev.exParity_canonical {a1 a2 a3} (ha1 : Canonical a1.flds a1.ctrs) :
    Canonical (Dev.exParity a1 a2 a3).flds (Dev.exParity a1 a2 a3).ctrs := by
  unfold Dev.exParity; exact (ite_canonical (Dev.tableHard_canonical (Dev.wordError_canonical (Dev.noteParity_canonical (Dev.count_canonical (Dev.setEx_canonical ha1))))) (Dev.wordError_canonical (Dev.noteParity_canonical (Dev.count_canonical (Dev.setEx_canonical ha1)))))

theorem Dev.setReloc_canonical {a1 a2} (ha1 : Canonical a1.flds a1.ctrs) :
    Canonical (Dev.setReloc a1 a2).flds (Dev.setReloc a1 a2).ctrs := by
  unfold Dev.setReloc; exact (by (try dsimp only); exact ha1)

theorem Dev.moveWrite_canonical {a1 a2 a3 a4} (ha1 : Canonical a1.flds a1.ctrs) :
    Canonical (Dev.moveWrite a1 a2 a3 a4).flds (Dev.moveWrite a1 a2 a3 a4).ctrs := by
  unfold Dev.moveWrite; exact (ite_canonical (by split; (· exact (Dev.setL2_canonical (Dev.setL2_canonical ha1))); (· exact ha1)) (by split; (· exact (Dev.setEx_canonical (Dev.setEx_canonical ha1))); (· exact ha1)))

theorem Dev.moveDrop_canonical {a1 a2 a3 a4} (ha1 : Canonical a1.flds a1.ctrs) :
    Canonical (Dev.moveDrop a1 a2 a3 a4).flds (Dev.moveDrop a1 a2 a3 a4).ctrs := by
  unfold Dev.moveDrop; exact (Dev.count_canonical (ite_canonical (by split; (· exact (Dev.setL2_canonical (Dev.setL2_canonical ha1))); (· exact (Dev.setL2_canonical ha1))) (by split; (· exact (Dev.setEx_canonical (Dev.setEx_canonical ha1))); (· exact (Dev.setEx_canonical ha1)))))

theorem Dev.relocWrite_canonical {a1 a2} (ha1 : Canonical a1.flds a1.ctrs) :
    Canonical (Dev.relocWrite a1 a2).flds (Dev.relocWrite a1 a2).ctrs := by
  unfold Dev.relocWrite; exact (by split; (· exact (Dev.setL2_canonical ha1)); (· exact (Dev.setEx_canonical ha1)); (· exact ha1))

/-! ### `Search` -/

theorem Dev.setTcam_canonical {a1 a2 a3 a4} (ha1 : Canonical a1.flds a1.ctrs) :
    Canonical (Dev.setTcam a1 a2 a3 a4).flds (Dev.setTcam a1 a2 a3 a4).ctrs := by
  unfold Dev.setTcam; exact (by (try dsimp only); exact ha1)

theorem Dev.setFlow_canonical {a1 a2 a3} (ha1 : Canonical a1.flds a1.ctrs) :
    Canonical (Dev.setFlow a1 a2 a3).flds (Dev.setFlow a1 a2 a3).ctrs := by
  unfold Dev.setFlow; exact (by (try dsimp only); exact ha1)

theorem Dev.setInspectQ_canonical {a1 a2 a3} (ha1 : Canonical a1.flds a1.ctrs) :
    Canonical (Dev.setInspectQ a1 a2 a3).flds (Dev.setInspectQ a1 a2 a3).ctrs := by
  unfold Dev.setInspectQ; exact (by (try dsimp only); exact ha1)

/-! ### `TableOps` -/

theorem Dev.setHop_canonical {a1 a2 a3 a4} (ha1 : Canonical a1.flds a1.ctrs) :
    Canonical (Dev.setHop a1 a2 a3 a4).flds (Dev.setHop a1 a2 a3 a4).ctrs := by
  unfold Dev.setHop; exact (by (try dsimp only); exact ha1)

theorem Dev.nodeLost_canonical {a1 a2 a3 a4} (ha1 : Canonical a1.flds a1.ctrs) :
    Canonical (Dev.nodeLost a1 a2 a3 a4).flds (Dev.nodeLost a1 a2 a3 a4).ctrs := by
  unfold Dev.nodeLost; exact (ite_canonical (Dev.tableHard_canonical (ite_canonical (Dev.wordError_canonical (Dev.noteParity_canonical (Dev.count_canonical ha1))) (by (try dsimp only); exact (Dev.wordError_canonical (Dev.noteParity_canonical (Dev.count_canonical ha1)))))) (ite_canonical (Dev.wordError_canonical (Dev.noteParity_canonical (Dev.count_canonical ha1))) (by (try dsimp only); exact (Dev.wordError_canonical (Dev.noteParity_canonical (Dev.count_canonical ha1))))))

theorem Dev.readFaults_canonical {a1 a2 a3 a4 a5 a6 a7} (ha1 : Canonical a1.flds a1.ctrs) :
    Canonical (Dev.readFaults a1 a2 a3 a4 a5 a6 a7).flds (Dev.readFaults a1 a2 a3 a4 a5 a6 a7).ctrs := by
  unfold Dev.readFaults; exact (foldl_canonical (fun _ _ h1 => (by split; (· exact (ite_canonical (Dev.l2Parity_canonical h1) h1)); (· exact (ite_canonical (Dev.exParity_canonical h1) h1)); (· exact (ite_canonical (Dev.nodeLost_canonical h1) h1)); (· exact h1))) ha1)

theorem Dev.hopRead_canonical {a1 a2 a3 a4} (ha1 : Canonical a1.flds a1.ctrs) :
    Canonical (Dev.hopRead a1 a2 a3 a4).flds (Dev.hopRead a1 a2 a3 a4).ctrs := by
  unfold Dev.hopRead; exact (ite_canonical (ite_canonical (Dev.tableHard_canonical (Dev.wordError_canonical (Dev.set0_canonical (Dev.set0_canonical (Dev.set0_canonical (Dev.raise_canonical (Dev.record_canonical (Dev.count_canonical (Dev.setHop_canonical ha1))))))))) (Dev.wordError_canonical (Dev.set0_canonical (Dev.set0_canonical (Dev.set0_canonical (Dev.raise_canonical (Dev.record_canonical (Dev.count_canonical (Dev.setHop_canonical ha1))))))))) ha1)

theorem Dev.tblAdvance_canonical {a1 a2 a3} (ha1 : Canonical a1.flds a1.ctrs) :
    Canonical (Dev.tblAdvance a1 a2 a3).flds (Dev.tblAdvance a1 a2 a3).ctrs := by
  unfold Dev.tblAdvance; exact (Dev.set1_canonical ha1)

theorem Dev.tblDone_canonical {a1 a2 a3 a4 a5 a6 a7} (ha1 : Canonical a1.flds a1.ctrs) :
    Canonical (Dev.tblDone a1 a2 a3 a4 a5 a6 a7).flds (Dev.tblDone a1 a2 a3 a4 a5 a6 a7).ctrs := by
  unfold Dev.tblDone; exact (ite_canonical (Dev.raise_canonical (Dev.emit_canonical ha1)) (Dev.emit_canonical ha1))

theorem Dev.relocEnd_canonical {a1 a2} (ha1 : Canonical a1.flds a1.ctrs) :
    Canonical (Dev.relocEnd a1 a2).flds (Dev.relocEnd a1 a2).ctrs := by
  unfold Dev.relocEnd; exact (by split; (· exact (Dev.count_canonical (Dev.setReloc_canonical (Dev.relocWrite_canonical ha1)))); (· exact (Dev.tblDone_canonical (Dev.setReloc_canonical (Dev.relocWrite_canonical ha1)))))

theorem Dev.settle_canonical {a1} (ha1 : Canonical a1.flds a1.ctrs) :
    Canonical (Dev.settle a1).flds (Dev.settle a1).ctrs := by
  unfold Dev.settle; exact (by split; (· exact ha1); (· exact (Dev.relocEnd_canonical (foldl_canonical (fun _ _ h1 => (Dev.moveDrop_canonical (Dev.moveWrite_canonical h1))) (by split; (· exact ha1); (· exact (Dev.moveDrop_canonical ha1)))))))

theorem Dev.refuseLearn_canonical {a1 a2} (ha1 : Canonical a1.flds a1.ctrs) :
    Canonical (Dev.refuseLearn a1 a2).flds (Dev.refuseLearn a1 a2).ctrs := by
  unfold Dev.refuseLearn; exact (Dev.recordLimited_canonical (Dev.count_canonical (by (try dsimp only); exact ha1)))

theorem Dev.learnRequest_canonical {a1 a2} (ha1 : Canonical a1.flds a1.ctrs) :
    Canonical (Dev.learnRequest a1 a2).flds (Dev.learnRequest a1 a2).ctrs := by
  unfold Dev.learnRequest; exact (ite_canonical (Dev.refuseLearn_canonical (by (try dsimp only); exact (Dev.perf_canonical (Dev.count_canonical ha1)))) (ite_canonical (Dev.refuseLearn_canonical (by (try dsimp only); exact (by (try dsimp only); exact (Dev.perf_canonical (Dev.count_canonical ha1))))) (ite_canonical (by (try dsimp only); exact (by (try dsimp only); exact (Dev.perf_canonical (Dev.count_canonical ha1)))) (ite_canonical (Dev.refuseLearn_canonical (by (try dsimp only); exact (by (try dsimp only); exact (Dev.perf_canonical (Dev.count_canonical ha1))))) (by (try dsimp only); exact (by (try dsimp only); exact (by (try dsimp only); exact (Dev.perf_canonical (Dev.count_canonical ha1)))))))))

theorem Dev.stationMove_canonical {a1 a2 a3 a4 a5} (ha1 : Canonical a1.flds a1.ctrs) :
    Canonical (Dev.stationMove a1 a2 a3 a4 a5).flds (Dev.stationMove a1 a2 a3 a4 a5).ctrs := by
  unfold Dev.stationMove; exact (Dev.count_canonical (Dev.l2Update_canonical (ite_canonical (Dev.settle_canonical ha1) ha1)))

theorem Dev.place_canonical {d : Dev} {t c l2 ex back} (h : Canonical d.flds d.ctrs) :
    ∀ e, Dev.place d t c l2 ex back = some e → Canonical e.flds e.ctrs := by
  intro e he
  simp only [Dev.place, Option.map_eq_some_iff] at he
  obtain ⟨p, -, rfl⟩ := he
  exact ite_canonical (Dev.relocEnd_canonical h) (Dev.setReloc_canonical h)

/-! ### `Resolve` -/

theorem Dev.digestRx_canonical {a1 a2 a3 a4} (ha1 : Canonical a1.flds a1.ctrs) :
    Canonical (Dev.digestRx a1 a2 a3 a4).flds (Dev.digestRx a1 a2 a3 a4).ctrs := by
  unfold Dev.digestRx; exact (Dev.digestFrame_canonical ha1)

theorem Dev.setMeter_canonical {a1 a2 a3 a4} (ha1 : Canonical a1.flds a1.ctrs) :
    Canonical (Dev.setMeter a1 a2 a3 a4).flds (Dev.setMeter a1 a2 a3 a4).ctrs := by
  unfold Dev.setMeter; exact (by (try dsimp only); exact ha1)

theorem Dev.runMeter_canonical {a1 a2 a3 a4 a5} (ha1 : Canonical a1.flds a1.ctrs) :
    Canonical (Dev.runMeter a1 a2 a3 a4 a5).1.flds (Dev.runMeter a1 a2 a3 a4 a5).1.ctrs := by
  unfold Dev.runMeter; exact (fst_ite_canonical (by (try dsimp only); exact (Dev.count_canonical (Dev.setMeter_canonical ha1))) (by (try dsimp only); split <;> exact (by (try dsimp only); exact (Dev.count_canonical (Dev.setMeter_canonical ha1)))))

theorem Dev.setFlowCounter_canonical {a1 a2 a3 a4} (ha1 : Canonical a1.flds a1.ctrs) :
    Canonical (Dev.setFlowCounter a1 a2 a3 a4).flds (Dev.setFlowCounter a1 a2 a3 a4).ctrs := by
  unfold Dev.setFlowCounter; exact (by (try dsimp only); exact ha1)

theorem Dev.countFlow_canonical {a1 a2 a3 a4} (ha1 : Canonical a1.flds a1.ctrs) :
    Canonical (Dev.countFlow a1 a2 a3 a4).flds (Dev.countFlow a1 a2 a3 a4).ctrs := by
  unfold Dev.countFlow; exact (Dev.setFlowCounter_canonical ha1)

theorem Dev.stageCapture_canonical {a1 a2} (ha1 : Canonical a1.flds a1.ctrs) :
    Canonical (Dev.stageCapture a1 a2).flds (Dev.stageCapture a1 a2).ctrs := by
  unfold Dev.stageCapture; exact (ite_canonical ha1 (ite_canonical (Dev.loseCapture_canonical (by (try dsimp only); exact ha1)) (by (try dsimp only); exact (by (try dsimp only); exact ha1))))

theorem Dev.ttlCheck_canonical {a1 a2 a3 a4 a5 a6} (ha1 : Canonical a1.flds a1.ctrs) :
    Canonical (Dev.ttlCheck a1 a2 a3 a4 a5 a6).1.flds (Dev.ttlCheck a1 a2 a3 a4 a5 a6).1.ctrs := by
  unfold Dev.ttlCheck; exact (fst_ite_canonical (by (try dsimp only); exact (Dev.count_canonical ha1)) (by (try dsimp only); exact ha1))

theorem Dev.groupCheck_canonical {a1 a2 a3 a4} (ha1 : Canonical a1.flds a1.ctrs) :
    Canonical (Dev.groupCheck a1 a2 a3 a4).1.flds (Dev.groupCheck a1 a2 a3 a4).1.ctrs := by
  unfold Dev.groupCheck; exact (by split; (· exact (fst_ite_canonical (by (try dsimp only); exact (Dev.count_canonical ha1)) (by (try dsimp only); exact ha1))); (· exact (by (try dsimp only); exact ha1)))

theorem Dev.resolved_canonical {a1 a2 a3 a4} (ha1 : Canonical a1.flds a1.ctrs) :
    Canonical (Dev.resolved a1 a2 a3 a4).flds (Dev.resolved a1 a2 a3 a4).ctrs := by
  unfold Dev.resolved; exact (Dev.setRx_canonical (ite_canonical (Dev.count_canonical (ite_canonical (Dev.count_canonical (Dev.count_canonical ha1)) (Dev.count_canonical ha1))) (ite_canonical (Dev.count_canonical (Dev.count_canonical ha1)) (Dev.count_canonical ha1))))

theorem Dev.resolve_canonical {a1 a2 a3 a4 a5 a6 a7} (ha1 : Canonical a1.flds a1.ctrs) :
    Canonical (Dev.resolve a1 a2 a3 a4 a5 a6 a7).flds (Dev.resolve a1 a2 a3 a4 a5 a6 a7).ctrs := by
  unfold Dev.resolve; exact (by (try dsimp only); split; (· exact (Dev.resolved_canonical (Dev.digestRx_canonical (Dev.recordLimited_canonical (Dev.count_canonical ha1))))); (· exact (Dev.resolved_canonical (by (try dsimp only); split; (· exact (foldl_canonical (fun _ _ h1 => (Dev.countFlow_canonical h1)) (ite_canonical (Dev.count_canonical (by (try dsimp only); split; (· exact (by (try dsimp only); exact (ite_canonical (Dev.digestRx_canonical (Dev.groupCheck_canonical (Dev.ttlCheck_canonical (ite_canonical (Dev.count_canonical (ite_canonical (Dev.count_canonical ha1) ha1)) (ite_canonical (Dev.count_canonical ha1) ha1))))) (Dev.groupCheck_canonical (Dev.ttlCheck_canonical (ite_canonical (Dev.count_canonical (ite_canonical (Dev.count_canonical ha1) ha1)) (ite_canonical (Dev.count_canonical ha1) ha1))))))); (· exact (Dev.runMeter_canonical (ite_canonical (Dev.digestRx_canonical (Dev.groupCheck_canonical (Dev.ttlCheck_canonical (ite_canonical (Dev.count_canonical (ite_canonical (Dev.count_canonical ha1) ha1)) (ite_canonical (Dev.count_canonical ha1) ha1))))) (Dev.groupCheck_canonical (Dev.ttlCheck_canonical (ite_canonical (Dev.count_canonical (ite_canonical (Dev.count_canonical ha1) ha1)) (ite_canonical (Dev.count_canonical ha1) ha1))))))))) (by (try dsimp only); split; (· exact (by (try dsimp only); exact (ite_canonical (Dev.digestRx_canonical (Dev.groupCheck_canonical (Dev.ttlCheck_canonical (ite_canonical (Dev.count_canonical (ite_canonical (Dev.count_canonical ha1) ha1)) (ite_canonical (Dev.count_canonical ha1) ha1))))) (Dev.groupCheck_canonical (Dev.ttlCheck_canonical (ite_canonical (Dev.count_canonical (ite_canonical (Dev.count_canonical ha1) ha1)) (ite_canonical (Dev.count_canonical ha1) ha1))))))); (· exact (Dev.runMeter_canonical (ite_canonical (Dev.digestRx_canonical (Dev.groupCheck_canonical (Dev.ttlCheck_canonical (ite_canonical (Dev.count_canonical (ite_canonical (Dev.count_canonical ha1) ha1)) (ite_canonical (Dev.count_canonical ha1) ha1))))) (Dev.groupCheck_canonical (Dev.ttlCheck_canonical (ite_canonical (Dev.count_canonical (ite_canonical (Dev.count_canonical ha1) ha1)) (ite_canonical (Dev.count_canonical ha1) ha1))))))))))); (· exact (Dev.stageCapture_canonical (foldl_canonical (fun _ _ h2 => (Dev.countFlow_canonical h2)) (ite_canonical (Dev.count_canonical (by (try dsimp only); split; (· exact (by (try dsimp only); exact (ite_canonical (Dev.digestRx_canonical (Dev.groupCheck_canonical (Dev.ttlCheck_canonical (ite_canonical (Dev.count_canonical (ite_canonical (Dev.count_canonical ha1) ha1)) (ite_canonical (Dev.count_canonical ha1) ha1))))) (Dev.groupCheck_canonical (Dev.ttlCheck_canonical (ite_canonical (Dev.count_canonical (ite_canonical (Dev.count_canonical ha1) ha1)) (ite_canonical (Dev.count_canonical ha1) ha1))))))); (· exact (Dev.runMeter_canonical (ite_canonical (Dev.digestRx_canonical (Dev.groupCheck_canonical (Dev.ttlCheck_canonical (ite_canonical (Dev.count_canonical (ite_canonical (Dev.count_canonical ha1) ha1)) (ite_canonical (Dev.count_canonical ha1) ha1))))) (Dev.groupCheck_canonical (Dev.ttlCheck_canonical (ite_canonical (Dev.count_canonical (ite_canonical (Dev.count_canonical ha1) ha1)) (ite_canonical (Dev.count_canonical ha1) ha1))))))))) (by (try dsimp only); split; (· exact (by (try dsimp only); exact (ite_canonical (Dev.digestRx_canonical (Dev.groupCheck_canonical (Dev.ttlCheck_canonical (ite_canonical (Dev.count_canonical (ite_canonical (Dev.count_canonical ha1) ha1)) (ite_canonical (Dev.count_canonical ha1) ha1))))) (Dev.groupCheck_canonical (Dev.ttlCheck_canonical (ite_canonical (Dev.count_canonical (ite_canonical (Dev.count_canonical ha1) ha1)) (ite_canonical (Dev.count_canonical ha1) ha1))))))); (· exact (Dev.runMeter_canonical (ite_canonical (Dev.digestRx_canonical (Dev.groupCheck_canonical (Dev.ttlCheck_canonical (ite_canonical (Dev.count_canonical (ite_canonical (Dev.count_canonical ha1) ha1)) (ite_canonical (Dev.count_canonical ha1) ha1))))) (Dev.groupCheck_canonical (Dev.ttlCheck_canonical (ite_canonical (Dev.count_canonical (ite_canonical (Dev.count_canonical ha1) ha1)) (ite_canonical (Dev.count_canonical ha1) ha1))))))))))))))))

/-! ### `RegOps` -/

theorem Dev.complete_canonical {a1 a2} (ha1 : Canonical a1.flds a1.ctrs) :
    Canonical (Dev.complete a1 a2).flds (Dev.complete a1 a2).ctrs := by
  unfold Dev.complete; exact (by (try dsimp only); exact ha1)

theorem Dev.abortAccess_canonical {a1 a2 a3 a4 a5} (ha1 : Canonical a1.flds a1.ctrs) :
    Canonical (Dev.abortAccess a1 a2 a3 a4 a5).flds (Dev.abortAccess a1 a2 a3 a4 a5).ctrs := by
  unfold Dev.abortAccess; exact (ite_canonical (by (try dsimp only); exact (Dev.complete_canonical (Dev.accessFailed_canonical ha1))) (Dev.complete_canonical (Dev.accessFailed_canonical ha1)))

theorem Dev.ignoreAccess_canonical {a1 a2 a3 a4} (ha1 : Canonical a1.flds a1.ctrs) :
    Canonical (Dev.ignoreAccess a1 a2 a3 a4).flds (Dev.ignoreAccess a1 a2 a3 a4).ctrs := by
  unfold Dev.ignoreAccess; exact (Dev.complete_canonical (Dev.accessFailed_canonical ha1))

theorem Dev.gateWrite_canonical {a1 a2 a3 a4} (ha1 : Canonical a1.flds a1.ctrs) (ha4 : ∀ x1, Canonical x1.flds x1.ctrs → Canonical (a4 x1).flds (a4 x1).ctrs) :
    Canonical (Dev.gateWrite a1 a2 a3 a4).flds (Dev.gateWrite a1 a2 a3 a4).ctrs := by
  unfold Dev.gateWrite; exact (ite_canonical (Dev.abortAccess_canonical ha1) (ite_canonical (Dev.complete_canonical ha1) (ite_canonical (Dev.abortAccess_canonical ha1) (ite_canonical (Dev.ignoreAccess_canonical ha1) (Dev.complete_canonical (ha4 _ ha1))))))

theorem Dev.gateRead_canonical {a1 a2 a3 a4} (ha1 : Canonical a1.flds a1.ctrs) (ha4 : ∀ x1, Canonical x1.flds x1.ctrs → Canonical (a4 x1).2.flds (a4 x1).2.ctrs) :
    Canonical (Dev.gateRead a1 a2 a3 a4).flds (Dev.gateRead a1 a2 a3 a4).ctrs := by
  unfold Dev.gateRead; exact (ite_canonical (Dev.complete_canonical ha1) (ite_canonical (Dev.abortAccess_canonical ha1) (Dev.complete_canonical (ha4 _ ha1))))

theorem Dev.onPop_canonical {a1 a2 a3 a4 a5} (ha1 : Canonical a1.flds a1.ctrs) (ha5 : ∀ x1, Canonical x1.flds x1.ctrs → Canonical (a5 x1).2.flds (a5 x1).2.ctrs) :
    Canonical (Dev.onPop a1 a2 a3 a4 a5).flds (Dev.onPop a1 a2 a3 a4 a5).ctrs := by
  unfold Dev.onPop; exact (ite_canonical (Dev.abortAccess_canonical ha1) (Dev.gateRead_canonical ha1 (fun _ h1 => (ha5 _ h1))))

theorem Dev.latch_canonical {a1 a2 a3 a4 a5 a6} (ha1 : Canonical a1.flds a1.ctrs) :
    Canonical (Dev.latch a1 a2 a3 a4 a5 a6).flds (Dev.latch a1 a2 a3 a4 a5 a6).ctrs := by
  unfold Dev.latch; exact (by (try dsimp only); exact ha1)

theorem Dev.onWrite_canonical {a1 a2 a3 a4 a5 a6} (ha1 : Canonical a1.flds a1.ctrs) (ha6 : ∀ x1, Canonical x1.flds x1.ctrs → Canonical (a6 x1).flds (a6 x1).ctrs) :
    Canonical (Dev.onWrite a1 a2 a3 a4 a5 a6).flds (Dev.onWrite a1 a2 a3 a4 a5 a6).ctrs := by
  unfold Dev.onWrite; exact (Dev.gateWrite_canonical ha1 (fun _ h1 => (ha6 _ h1)))

theorem Dev.pwWrite_canonical {a1 a2 a3 a4 a5 a6} (ha1 : Canonical a1.flds a1.ctrs) (ha6 : ∀ x1, Canonical x1.flds x1.ctrs → Canonical (a6 x1).flds (a6 x1).ctrs) :
    Canonical (Dev.pwWrite a1 a2 a3 a4 a5 a6).flds (Dev.pwWrite a1 a2 a3 a4 a5 a6).ctrs := by
  unfold Dev.pwWrite; exact (ite_canonical (Dev.accessFailed_canonical ha1) (ite_canonical (Dev.set0_canonical ha1) (ha6 _ ha1)))

/-! ### `CalOps` -/

theorem Dev.noteClamp_canonical {a1 a2} (ha1 : Canonical a1.flds a1.ctrs) :
    Canonical (Dev.noteClamp a1 a2).flds (Dev.noteClamp a1 a2).ctrs := by
  unfold Dev.noteClamp; exact (Dev.recordCounted_canonical (Dev.set0_canonical (Dev.set0_canonical ha1)))

theorem Dev.setTaps_canonical {a1 a2 a3} (ha1 : Canonical a1.flds a1.ctrs) :
    Canonical (Dev.setTaps a1 a2 a3).flds (Dev.setTaps a1 a2 a3).ctrs := by
  unfold Dev.setTaps; exact (Dev.set1_canonical (Dev.set1_canonical (Dev.set1_canonical (Dev.set1_canonical (Dev.set1_canonical ha1)))))

theorem Dev.trainTx_canonical {a1 a2 a3 a4} (ha1 : Canonical a1.flds a1.ctrs) :
    Canonical (Dev.trainTx a1 a2 a3 a4).flds (Dev.trainTx a1 a2 a3 a4).ctrs := by
  unfold Dev.trainTx; exact (Dev.setTaps_canonical (ite_canonical ha1 (Dev.noteClamp_canonical ha1)))

theorem Dev.adaptRx_canonical {a1 a2} (ha1 : Canonical a1.flds a1.ctrs) :
    Canonical (Dev.adaptRx a1 a2).flds (Dev.adaptRx a1 a2).ctrs := by
  unfold Dev.adaptRx; exact (Dev.set1_canonical (Dev.set1_canonical (Dev.set1_canonical (Dev.draw_canonical ha1))))

theorem Dev.calibrated_canonical {a1 a2} (ha1 : Canonical a1.flds a1.ctrs) :
    Canonical (Dev.calibrated a1 a2).flds (Dev.calibrated a1 a2).ctrs := by
  unfold Dev.calibrated; exact (Dev.set1_canonical (Dev.setTurn_canonical ha1))

theorem Dev.adaptLatency_canonical {a1 a2} (ha1 : Canonical a1.flds a1.ctrs) :
    Canonical (Dev.adaptLatency a1 a2).flds (Dev.adaptLatency a1 a2).ctrs := by
  unfold Dev.adaptLatency; exact (Dev.setTurn_canonical (Dev.draw_canonical (Dev.draw_canonical ha1)))

end Sys2Proof.Machine
end

