-- ==== Sys2Proof/Laws/CanonicalFrames.lean ====
section
/-! SUPPORT. Each function of one kind keeps the registers and counters in their one form: the MAC, the pipeline, the
automata, the hold store and the buffer. -/

set_option linter.all false
namespace Sys2Proof.Machine

/-! ### `Mac` -/

theorem Dev.frameViolation_canonical {a1 a2 a3} (ha1 : Canonical a1.flds a1.ctrs) :
    Canonical (Dev.frameViolation a1 a2 a3).flds (Dev.frameViolation a1 a2 a3).ctrs := by
  unfold Dev.frameViolation; exact (Dev.recordLimited_canonical (Dev.setMac_canonical ha1))

theorem Dev.ctrlViolation_canonical {a1 a2 a3 a4} (ha1 : Canonical a1.flds a1.ctrs) :
    Canonical (Dev.ctrlViolation a1 a2 a3 a4).flds (Dev.ctrlViolation a1 a2 a3 a4).ctrs := by
  unfold Dev.ctrlViolation; exact (Dev.recordLimited_canonical ha1)

theorem Dev.refreshPaused_canonical {a1 a2} (ha1 : Canonical a1.flds a1.ctrs) :
    Canonical (Dev.refreshPaused a1 a2).flds (Dev.refreshPaused a1 a2).ctrs := by
  unfold Dev.refreshPaused; exact (Dev.withdraw_canonical (Dev.set1_canonical (Dev.setMac_canonical ha1)))

theorem Dev.takePause_canonical {a1 a2 a3 a4} (ha1 : Canonical a1.flds a1.ctrs) :
    Canonical (Dev.takePause a1 a2 a3 a4).flds (Dev.takePause a1 a2 a3 a4).ctrs := by
  unfold Dev.takePause; exact (ite_canonical (ite_canonical (Dev.macCount_canonical ha1) (Dev.startNext_canonical (Dev.refreshPaused_canonical (Dev.setMac_canonical ha1)))) (ite_canonical (Dev.setMac_canonical ha1) (Dev.refreshPaused_canonical (Dev.setMac_canonical ha1))))

theorem Dev.takePfc_canonical {a1 a2 a3} (ha1 : Canonical a1.flds a1.ctrs) :
    Canonical (Dev.takePfc a1 a2 a3).flds (Dev.takePfc a1 a2 a3).ctrs := by
  unfold Dev.takePfc; exact (foldl_canonical (fun _ _ h1 => (ite_canonical h1 (Dev.takePause_canonical h1))) (ite_canonical (Dev.macCount_canonical ha1) ha1))

theorem Dev.macControl_canonical {a1 a2 a3} (ha1 : Canonical a1.flds a1.ctrs) :
    Canonical (Dev.macControl a1 a2 a3).flds (Dev.macControl a1 a2 a3).ctrs := by
  unfold Dev.macControl; exact (ite_canonical (ite_canonical (Dev.ctrlViolation_canonical (Dev.macCount_canonical (Dev.macCount_canonical ha1))) (ite_canonical (Dev.macCount_canonical (Dev.macCount_canonical ha1)) (Dev.takePause_canonical (Dev.macCount_canonical ha1)))) (ite_canonical (ite_canonical (Dev.takePfc_canonical (foldl_canonical (fun _ _ h1 => (ite_canonical (Dev.macCount_canonical h1) h1)) ha1)) (Dev.ctrlViolation_canonical (Dev.macCount_canonical (foldl_canonical (fun _ _ h2 => (ite_canonical (Dev.macCount_canonical h2) h2)) ha1)))) (Dev.ctrlViolation_canonical (Dev.macCount_canonical ha1))))

theorem Dev.countGood_canonical {a1 a2 a3} (ha1 : Canonical a1.flds a1.ctrs) :
    Canonical (Dev.countGood a1 a2 a3).flds (Dev.countGood a1 a2 a3).ctrs := by
  unfold Dev.countGood; exact (by (try dsimp only); split; (· exact (Dev.macCount_canonical (Dev.macCount_canonical (Dev.macCountN_canonical (Dev.macCount_canonical ha1))))); (· exact (ite_canonical (Dev.macCount_canonical (Dev.setMac_canonical (Dev.macCount_canonical (Dev.macCount_canonical (Dev.macCountN_canonical (Dev.macCount_canonical ha1)))))) (Dev.setMac_canonical (Dev.macCount_canonical (Dev.macCount_canonical (Dev.macCountN_canonical (Dev.macCount_canonical ha1))))))))

theorem Dev.ptpRefused_canonical {d e : Dev} {p bytes f} (hf : d.ptpRefused p bytes = some f)
    (h : Canonical e.flds e.ctrs) : Canonical (f e).flds (f e).ctrs := by
  simp only [Dev.ptpRefused] at hf
  repeat' split at hf
  all_goals first
    | cases hf; done
    | (cases hf; first
        | exact Dev.recordLimited_canonical (Dev.count_canonical h)
        | exact Dev.count_canonical h)

theorem Dev.ingress_canonical {d : Dev} {p bytes sub rivals} (h : Canonical d.flds d.ctrs) :
    Canonical (Dev.ingress d p bytes sub rivals).flds (Dev.ingress d p bytes sub rivals).ctrs := by
  unfold Dev.ingress
  refine ite_canonical (Dev.satInc_canonical h) (ite_canonical (ite_canonical (Dev.toPort134_canonical h)
    (ite_canonical (Dev.satInc_canonical h) (Dev.count_canonical h))) (ite_canonical (Dev.toPort134_canonical h)
    (ite_canonical (Dev.reloadDiscard_canonical h) ?_)))
  split
  · rename_i f e
    exact Dev.ptpRefused_canonical e h
  · dsimp only
    have hn (r) : Canonical (({ d with buf := { d.buf with nextId := d.buf.nextId + 1 } } : Dev).setRx d.buf.nextId r).notePeak.flds
        (({ d with buf := { d.buf with nextId := d.buf.nextId + 1 } } : Dev).setRx d.buf.nextId r).notePeak.ctrs :=
      Dev.notePeak_canonical (Dev.setRx_canonical (by dsimp only; exact h))
    exact ite_canonical (Dev.perf_canonical (hn _)) (Dev.perf_canonical (Dev.perf_canonical (hn _)))

theorem execFrameReceive_canonical {a1 a2 a3 a4 a5 a6 s t} (h : Canonical s.dev.flds s.dev.ctrs) (e : execFrameReceive a1 a2 a3 a4 a5 a6 s = .next t) :
    Canonical t.dev.flds t.dev.ctrs := by
  unfold execFrameReceive at e; exact run_canonical (fun _ h1 => (ite_canonical h1 (ite_canonical (Dev.noteIncomplete_canonical (Dev.frameViolation_canonical (Dev.macCount_canonical (Dev.macCountN_canonical (by (try dsimp only); exact (Dev.macCountN_canonical (Dev.macCountN_canonical (Dev.macCountN_canonical h1)))))))) (ite_canonical (Dev.noteIncomplete_canonical (Dev.frameViolation_canonical (Dev.macCount_canonical (Dev.macCountN_canonical (by (try dsimp only); exact (Dev.macCountN_canonical (Dev.macCountN_canonical (Dev.macCountN_canonical h1)))))))) (ite_canonical (ite_canonical (Dev.noteIncomplete_canonical (Dev.frameViolation_canonical (Dev.macCount_canonical (Dev.macCountN_canonical (by (try dsimp only); exact (Dev.macCountN_canonical (Dev.macCountN_canonical (Dev.macCountN_canonical h1)))))))) (Dev.noteIncomplete_canonical (Dev.frameViolation_canonical (Dev.macCount_canonical (Dev.macCountN_canonical (by (try dsimp only); exact (Dev.macCountN_canonical (Dev.macCountN_canonical (Dev.macCountN_canonical h1))))))))) (ite_canonical (ite_canonical (Dev.noteIncomplete_canonical (Dev.frameViolation_canonical (Dev.macCount_canonical (Dev.macCountN_canonical (by (try dsimp only); exact (Dev.macCountN_canonical (Dev.macCountN_canonical (Dev.macCountN_canonical h1)))))))) (Dev.noteIncomplete_canonical (Dev.frameViolation_canonical (Dev.macCount_canonical (Dev.macCountN_canonical (by (try dsimp only); exact (Dev.macCountN_canonical (Dev.macCountN_canonical (Dev.macCountN_canonical h1))))))))) (ite_canonical (Dev.noteIncomplete_canonical (Dev.frameViolation_canonical (Dev.macCount_canonical (Dev.macCountN_canonical (by (try dsimp only); exact (Dev.macCountN_canonical (Dev.macCountN_canonical (Dev.macCountN_canonical h1)))))))) (ite_canonical (Dev.macControl_canonical (Dev.countGood_canonical (Dev.macCountN_canonical (by (try dsimp only); exact (Dev.macCountN_canonical (Dev.macCountN_canonical (Dev.macCountN_canonical h1))))))) (ite_canonical (Dev.macCount_canonical (Dev.countGood_canonical (Dev.macCountN_canonical (by (try dsimp only); exact (Dev.macCountN_canonical (Dev.macCountN_canonical (Dev.macCountN_canonical h1))))))) (ite_canonical (Dev.macCount_canonical (Dev.countGood_canonical (Dev.macCountN_canonical (by (try dsimp only); exact (Dev.macCountN_canonical (Dev.macCountN_canonical (Dev.macCountN_canonical h1))))))) (Dev.ingress_canonical (Dev.countGood_canonical (Dev.macCountN_canonical (by (try dsimp only); exact (Dev.macCountN_canonical (Dev.macCountN_canonical (Dev.macCountN_canonical h1))))))))))))))))) h e

theorem execLinkUp_canonical {a1 s t} (h : Canonical s.dev.flds s.dev.ctrs) (e : execLinkUp a1 s = .next t) :
    Canonical t.dev.flds t.dev.ctrs := by
  unfold execLinkUp at e; exact run_canonical (fun _ h1 => (ite_canonical h1 (Dev.raise_canonical (Dev.record_canonical (Dev.setMac_canonical (Dev.draw_canonical (ite_canonical (Dev.count_canonical (by (try dsimp only); exact (foldl_canonical (fun _ _ h2 => (Dev.adaptLatency_canonical (Dev.adaptRx_canonical (Dev.calibrated_canonical (Dev.set1_canonical (Dev.set1_canonical (ite_canonical h2 (Dev.trainTx_canonical h2)))))))) (ite_canonical (Dev.set1_canonical (Dev.set1_canonical (Dev.set1_canonical (Dev.set1_canonical (Dev.set1_canonical h1))))) (Dev.set1_canonical (Dev.set1_canonical (Dev.set1_canonical (Dev.set1_canonical (Dev.set1_canonical (Dev.set1_canonical h1)))))))))) (by (try dsimp only); exact (foldl_canonical (fun _ _ h3 => (Dev.adaptLatency_canonical (Dev.adaptRx_canonical (Dev.calibrated_canonical (Dev.set1_canonical (Dev.set1_canonical (ite_canonical h3 (Dev.trainTx_canonical h3)))))))) (ite_canonical (Dev.set1_canonical (Dev.set1_canonical (Dev.set1_canonical (Dev.set1_canonical (Dev.set1_canonical h1))))) (Dev.set1_canonical (Dev.set1_canonical (Dev.set1_canonical (Dev.set1_canonical (Dev.set1_canonical (Dev.set1_canonical h1)))))))))))))))) h e

theorem Dev.loseCondition_canonical {a1 a2 a3} (ha1 : Canonical a1.flds a1.ctrs) :
    Canonical (Dev.loseCondition a1 a2 a3).flds (Dev.loseCondition a1 a2 a3).ctrs := by
  unfold Dev.loseCondition; exact (by split; (· exact (foldl_canonical (fun _ _ h1 => (Dev.set1_canonical (Dev.set1_canonical h1))) (Dev.dropAn_canonical (Dev.set1_canonical ha1)))); (· exact (Dev.dropAn_canonical (Dev.set1_canonical ha1))); (· exact (Dev.set1_canonical (Dev.setMac_canonical ha1))); (· exact (Dev.set1_canonical ha1)); (· exact ha1))

theorem execLinkDown_canonical {a1 a2 a3 s t} (h : Canonical s.dev.flds s.dev.ctrs) (e : execLinkDown a1 a2 a3 s = .next t) :
    Canonical t.dev.flds t.dev.ctrs := by
  unfold execLinkDown at e; exact run_canonical (fun _ h1 => (ite_canonical (ite_canonical (Dev.loseCondition_canonical h1) h1) (Dev.linkDown_canonical (Dev.loseCondition_canonical (by split; (· exact h1); (· exact (Dev.noteIncomplete_canonical (Dev.frameViolation_canonical (Dev.macCount_canonical (Dev.macCountN_canonical h1)))))))))) h e

theorem Dev.endHoldoff_canonical {a1 a2} (ha1 : Canonical a1.flds a1.ctrs) :
    Canonical (Dev.endHoldoff a1 a2).flds (Dev.endHoldoff a1 a2).ctrs := by
  unfold Dev.endHoldoff; exact (Dev.set1_canonical (Dev.setMac_canonical ha1))

theorem execFlapHoldoffEnd_canonical {a1 s t} (h : Canonical s.dev.flds s.dev.ctrs) (e : execFlapHoldoffEnd a1 s = .next t) :
    Canonical t.dev.flds t.dev.ctrs := by
  unfold execFlapHoldoffEnd at e; exact run_canonical (fun _ h1 => (ite_canonical (Dev.endHoldoff_canonical h1) h1)) h e

theorem Dev.writePortEn_canonical {a1 a2 a3} (ha1 : Canonical a1.flds a1.ctrs) :
    Canonical (Dev.writePortEn a1 a2 a3).flds (Dev.writePortEn a1 a2 a3).ctrs := by
  unfold Dev.writePortEn; exact (ite_canonical (Dev.set1_canonical ha1) (ite_canonical (Dev.setMac_canonical (Dev.dropAn_canonical (Dev.linkDown_canonical (Dev.set1_canonical ha1)))) (ite_canonical (ite_canonical (Dev.endHoldoff_canonical (Dev.set1_canonical ha1)) (Dev.set1_canonical ha1)) (Dev.setMac_canonical (Dev.set1_canonical ha1)))))

theorem execMacPortEnWrite_canonical {a1 a2 a3 s t} (h : Canonical s.dev.flds s.dev.ctrs) (e : execMacPortEnWrite a1 a2 a3 s = .next t) :
    Canonical t.dev.flds t.dev.ctrs := by
  unfold execMacPortEnWrite at e; exact run_canonical (fun _ h1 => (Dev.onWrite_canonical h1 (fun _ h2 => (Dev.writePortEn_canonical h2)))) h e

theorem execMacUnitIsolated_canonical {a1 s t} (h : Canonical s.dev.flds s.dev.ctrs) (e : execMacUnitIsolated a1 s = .next t) :
    Canonical t.dev.flds t.dev.ctrs := by
  unfold execMacUnitIsolated at e; exact run_canonical (fun _ h1 => (Dev.isolatePort_canonical h1)) h e

theorem execAutonegComplete_canonical {a1 a2 a3 a4 a5 s t} (h : Canonical s.dev.flds s.dev.ctrs) (e : execAutonegComplete a1 a2 a3 a4 a5 s = .next t) :
    Canonical t.dev.flds t.dev.ctrs := by
  unfold execAutonegComplete at e; exact run_canonical (fun _ h1 => (ite_canonical h1 (ite_canonical (Dev.recordLimited_canonical (Dev.macCount_canonical (Dev.dropAn_canonical h1))) (ite_canonical (Dev.dropAn_canonical h1) (ite_canonical (foldl_canonical (fun _ _ h2 => (by split; (· exact h2); (· exact (Dev.calibrated_canonical (Dev.trainTx_canonical h2))))) (Dev.set1_canonical (Dev.set1_canonical h1))) (Dev.set1_canonical (Dev.set1_canonical h1))))))) h e

theorem execPauseStart_canonical {a1 s t} (h : Canonical s.dev.flds s.dev.ctrs) (e : execPauseStart a1 s = .next t) :
    Canonical t.dev.flds t.dev.ctrs := by
  unfold execPauseStart at e; exact run_canonical (fun _ h1 => (ite_canonical h1 (Dev.startNext_canonical (Dev.refreshPaused_canonical (Dev.setMac_canonical h1))))) h e

theorem execPauseExpire_canonical {a1 a2 s t} (h : Canonical s.dev.flds s.dev.ctrs) (e : execPauseExpire a1 a2 s = .next t) :
    Canonical t.dev.flds t.dev.ctrs := by
  unfold execPauseExpire at e; exact run_canonical (fun _ h1 => (ite_canonical h1 (Dev.startNext_canonical (Dev.refreshPaused_canonical (Dev.setMac_canonical h1))))) h e

theorem execPauseStorm_canonical {a1 a2 s t} (h : Canonical s.dev.flds s.dev.ctrs) (e : execPauseStorm a1 a2 s = .next t) :
    Canonical t.dev.flds t.dev.ctrs := by
  unfold execPauseStorm at e; exact run_canonical (fun _ h1 => (ite_canonical h1 (Dev.startNext_canonical (Dev.recordLimited_canonical (Dev.macCount_canonical (Dev.set1_canonical (Dev.refreshPaused_canonical (Dev.setMac_canonical h1)))))))) h e

theorem execPauseRecoveryEnd_canonical {a1 a2 s t} (h : Canonical s.dev.flds s.dev.ctrs) (e : execPauseRecoveryEnd a1 a2 s = .next t) :
    Canonical t.dev.flds t.dev.ctrs := by
  unfold execPauseRecoveryEnd at e; exact run_canonical (fun _ h1 => (ite_canonical h1 (Dev.set1_canonical (Dev.setMac_canonical h1)))) h e

theorem execPfcRefresh_canonical {a1 a2 s t} (h : Canonical s.dev.flds s.dev.ctrs) (e : execPfcRefresh a1 a2 s = .next t) :
    Canonical t.dev.flds t.dev.ctrs := by
  unfold execPfcRefresh at e; exact run_canonical (fun _ h1 => (ite_canonical h1 (Dev.sendPause_canonical (Dev.setMac_canonical h1)))) h e

theorem execLpiEnter_canonical {a1 s t} (h : Canonical s.dev.flds s.dev.ctrs) (e : execLpiEnter a1 s = .next t) :
    Canonical t.dev.flds t.dev.ctrs := by
  unfold execLpiEnter at e; exact run_canonical (fun _ h1 => (ite_canonical (Dev.macCount_canonical (Dev.set1_canonical (Dev.setMac_canonical h1))) h1)) h e

theorem execLpiWake_canonical {a1 s t} (h : Canonical s.dev.flds s.dev.ctrs) (e : execLpiWake a1 s = .next t) :
    Canonical t.dev.flds t.dev.ctrs := by
  unfold execLpiWake at e; exact run_canonical (fun _ h1 => (ite_canonical (Dev.startNext_canonical (Dev.set1_canonical (Dev.setMac_canonical h1))) h1)) h e

theorem execLldpReceive_canonical {a1 a2 s t} (h : Canonical s.dev.flds s.dev.ctrs) (e : execLldpReceive a1 a2 s = .next t) :
    Canonical t.dev.flds t.dev.ctrs := by
  unfold execLldpReceive at e; exact run_canonical (fun _ h1 => (ite_canonical h1 (by split; (· exact (Dev.set1_canonical (Dev.set1_canonical h1))); (· exact (ite_canonical (Dev.sendMsg_canonical (Dev.set1_canonical (Dev.set1_canonical h1))) h1))))) h e

theorem Dev.clearHalf_canonical {a1 a2 a3} (ha1 : Canonical a1.flds a1.ctrs) :
    Canonical (Dev.clearHalf a1 a2 a3).flds (Dev.clearHalf a1 a2 a3).ctrs := by
  unfold Dev.clearHalf; exact (Dev.setCtr_canonical ha1)

theorem execMacStatHalfClear_canonical {a1 a2 a3 s t} (h : Canonical s.dev.flds s.dev.ctrs) (e : execMacStatHalfClear a1 a2 a3 s = .next t) :
    Canonical t.dev.flds t.dev.ctrs := by
  unfold execMacStatHalfClear at e; exact run_canonical (fun _ h1 => (ite_canonical (Dev.onWrite_canonical h1 (fun _ h2 => (Dev.clearHalf_canonical h2))) (Dev.abortAccess_canonical h1))) h e

/-! ### `Pipeline` -/

theorem Dev.dropFrame_canonical {a1 a2 a3 a4} (ha1 : Canonical a1.flds a1.ctrs) :
    Canonical (Dev.dropFrame a1 a2 a3 a4).flds (Dev.dropFrame a1 a2 a3 a4).ctrs := by
  unfold Dev.dropFrame; exact (Dev.setRx_canonical ha1)

theorem Dev.countWalk_canonical {a1 a2 a3} (ha1 : Canonical a1.flds a1.ctrs) :
    Canonical (Dev.countWalk a1 a2 a3).flds (Dev.countWalk a1 a2 a3).ctrs := by
  unfold Dev.countWalk; exact (ite_canonical (Dev.count_canonical (ite_canonical (Dev.count_canonical (ite_canonical (Dev.count_canonical ha1) (Dev.perf_canonical (Dev.count_canonical (Dev.count_canonical ha1))))) (ite_canonical (Dev.count_canonical ha1) (Dev.perf_canonical (Dev.count_canonical (Dev.count_canonical ha1)))))) (ite_canonical (Dev.count_canonical (ite_canonical (Dev.count_canonical ha1) (Dev.perf_canonical (Dev.count_canonical (Dev.count_canonical ha1))))) (ite_canonical (Dev.count_canonical ha1) (Dev.perf_canonical (Dev.count_canonical (Dev.count_canonical ha1))))))

theorem Dev.noteParseErr_canonical {a1 a2 a3 a4} (ha1 : Canonical a1.flds a1.ctrs) :
    Canonical (Dev.noteParseErr a1 a2 a3 a4).flds (Dev.noteParseErr a1 a2 a3 a4).ctrs := by
  unfold Dev.noteParseErr; exact (Dev.recordLimited_canonical (Dev.set1_canonical (Dev.set1_canonical (Dev.set1_canonical (Dev.set1_canonical (Dev.set1_canonical (Dev.set1_canonical (Dev.set1_canonical (Dev.count_canonical (Dev.count_canonical ha1))))))))))

theorem Dev.parserFailed_canonical {a1 a2} (ha1 : Canonical a1.flds a1.ctrs) :
    Canonical (Dev.parserFailed a1 a2).flds (Dev.parserFailed a1 a2).ctrs := by
  unfold Dev.parserFailed; exact (Dev.isolateRegion_canonical (Dev.record_canonical (Dev.set1_canonical ha1)))

theorem Dev.nodeParity_canonical {a1 a2 a3} (ha1 : Canonical a1.flds a1.ctrs) :
    Canonical (Dev.nodeParity a1 a2 a3).flds (Dev.nodeParity a1 a2 a3).ctrs := by
  unfold Dev.nodeParity; exact (ite_canonical ha1 (ite_canonical (Dev.parserFailed_canonical ha1) (Dev.set1_canonical (Dev.setDown_canonical ha1))))

theorem Dev.countLooks_canonical {a1 a2 a3 a4} (ha1 : Canonical a1.flds a1.ctrs) :
    Canonical (Dev.countLooks a1 a2 a3 a4).flds (Dev.countLooks a1 a2 a3 a4).ctrs := by
  unfold Dev.countLooks; exact (by (try dsimp only); split; (· exact (by (try dsimp only); split; (· exact (ite_canonical (ite_canonical (ite_canonical (Dev.count_canonical (Dev.perf_canonical ha1)) (Dev.perf_canonical ha1)) ha1) (ite_canonical (Dev.count_canonical (Dev.perf_canonical (ite_canonical (ite_canonical (Dev.count_canonical (Dev.perf_canonical ha1)) (Dev.perf_canonical ha1)) ha1))) (Dev.perf_canonical (ite_canonical (ite_canonical (Dev.count_canonical (Dev.perf_canonical ha1)) (Dev.perf_canonical ha1)) ha1))))); (· exact (Dev.count_canonical (Dev.perf_canonical (ite_canonical (ite_canonical (ite_canonical (Dev.count_canonical (Dev.perf_canonical ha1)) (Dev.perf_canonical ha1)) ha1) (ite_canonical (Dev.count_canonical (Dev.perf_canonical (ite_canonical (ite_canonical (Dev.count_canonical (Dev.perf_canonical ha1)) (Dev.perf_canonical ha1)) ha1))) (Dev.perf_canonical (ite_canonical (ite_canonical (Dev.count_canonical (Dev.perf_canonical ha1)) (Dev.perf_canonical ha1)) ha1))))))); (· exact (Dev.exUpdate_canonical (Dev.perf_canonical (ite_canonical (ite_canonical (ite_canonical (Dev.count_canonical (Dev.perf_canonical ha1)) (Dev.perf_canonical ha1)) ha1) (ite_canonical (Dev.count_canonical (Dev.perf_canonical (ite_canonical (ite_canonical (Dev.count_canonical (Dev.perf_canonical ha1)) (Dev.perf_canonical ha1)) ha1))) (Dev.perf_canonical (ite_canonical (ite_canonical (Dev.count_canonical (Dev.perf_canonical ha1)) (Dev.perf_canonical ha1)) ha1))))))))); (· exact (Dev.count_canonical (foldl_canonical (fun _ _ h1 => (Dev.perf_canonical h1)) (Dev.perf_canonical (Dev.count_canonical (by (try dsimp only); split; (· exact (ite_canonical (ite_canonical (ite_canonical (Dev.count_canonical (Dev.perf_canonical ha1)) (Dev.perf_canonical ha1)) ha1) (ite_canonical (Dev.count_canonical (Dev.perf_canonical (ite_canonical (ite_canonical (Dev.count_canonical (Dev.perf_canonical ha1)) (Dev.perf_canonical ha1)) ha1))) (Dev.perf_canonical (ite_canonical (ite_canonical (Dev.count_canonical (Dev.perf_canonical ha1)) (Dev.perf_canonical ha1)) ha1))))); (· exact (Dev.count_canonical (Dev.perf_canonical (ite_canonical (ite_canonical (ite_canonical (Dev.count_canonical (Dev.perf_canonical ha1)) (Dev.perf_canonical ha1)) ha1) (ite_canonical (Dev.count_canonical (Dev.perf_canonical (ite_canonical (ite_canonical (Dev.count_canonical (Dev.perf_canonical ha1)) (Dev.perf_canonical ha1)) ha1))) (Dev.perf_canonical (ite_canonical (ite_canonical (Dev.count_canonical (Dev.perf_canonical ha1)) (Dev.perf_canonical ha1)) ha1))))))); (· exact (Dev.exUpdate_canonical (Dev.perf_canonical (ite_canonical (ite_canonical (ite_canonical (Dev.count_canonical (Dev.perf_canonical ha1)) (Dev.perf_canonical ha1)) ha1) (ite_canonical (Dev.count_canonical (Dev.perf_canonical (ite_canonical (ite_canonical (Dev.count_canonical (Dev.perf_canonical ha1)) (Dev.perf_canonical ha1)) ha1))) (Dev.perf_canonical (ite_canonical (ite_canonical (Dev.count_canonical (Dev.perf_canonical ha1)) (Dev.perf_canonical ha1)) ha1))))))))))))))

theorem Dev.learnSource_canonical {a1 a2 a3 a4 a5} (ha1 : Canonical a1.flds a1.ctrs) :
    Canonical (Dev.learnSource a1 a2 a3 a4 a5).2.flds (Dev.learnSource a1 a2 a3 a4 a5).2.ctrs := by
  unfold Dev.learnSource; exact (snd_ite_canonical (by (try dsimp only); exact ha1) (by split; (· exact (snd_ite_canonical (by (try dsimp only); exact (Dev.count_canonical ha1)) (snd_ite_canonical (by (try dsimp only); exact ha1) (by (try dsimp only); exact (Dev.learnRequest_canonical ha1))))); (· exact (snd_ite_canonical (by (try dsimp only); exact (ite_canonical (Dev.l2Update_canonical ha1) ha1)) (snd_ite_canonical (by (try dsimp only); exact (Dev.count_canonical ha1)) (snd_ite_canonical (by (try dsimp only); exact (Dev.count_canonical ha1)) (snd_ite_canonical (by (try dsimp only); exact (Dev.count_canonical ha1)) (snd_ite_canonical (by (try dsimp only); exact ha1) (by (try dsimp only); exact (Dev.stationMove_canonical ha1))))))))))

theorem Dev.tableFaults_canonical {a1 a2 a3 a4 a5} (ha1 : Canonical a1.flds a1.ctrs) :
    Canonical (Dev.tableFaults a1 a2 a3 a4 a5).flds (Dev.tableFaults a1 a2 a3 a4 a5).ctrs := by
  unfold Dev.tableFaults; exact (Dev.readFaults_canonical ha1)

theorem Dev.hopFault_canonical {a1 a2 a3 a4} (ha1 : Canonical a1.flds a1.ctrs) :
    Canonical (Dev.hopFault a1 a2 a3 a4).flds (Dev.hopFault a1 a2 a3 a4).ctrs := by
  unfold Dev.hopFault; exact (by split; (· exact (Dev.hopRead_canonical ha1)); (· exact ha1))

theorem Dev.profileParity_canonical {a1 a2 a3} (ha1 : Canonical a1.flds a1.ctrs) :
    Canonical (Dev.profileParity a1 a2 a3).flds (Dev.profileParity a1 a2 a3).ctrs := by
  unfold Dev.profileParity; exact (ite_canonical (Dev.isolateRegion_canonical (Dev.record_canonical (Dev.raise_canonical (Dev.record_canonical (Dev.count_canonical (Dev.wordError_canonical ha1)))))) (Dev.raise_canonical (Dev.record_canonical (Dev.count_canonical (Dev.wordError_canonical ha1)))))

theorem Dev.meterBank_canonical {a1 a2 a3 a4} (ha1 : Canonical a1.flds a1.ctrs) :
    Canonical (Dev.meterBank a1 a2 a3 a4).flds (Dev.meterBank a1 a2 a3 a4).ctrs := by
  unfold Dev.meterBank; exact (ite_canonical (Dev.isolateRegion_canonical (Dev.record_canonical (Dev.set1_canonical (Dev.setBit_canonical (Dev.setBit_canonical (Dev.wordError_canonical (Dev.set1_canonical (Dev.set1_canonical ha1)))))))) (Dev.wordError_canonical (Dev.set1_canonical (Dev.set1_canonical ha1))))

theorem Dev.groupLost_canonical {a1 a2 a3} (ha1 : Canonical a1.flds a1.ctrs) :
    Canonical (Dev.groupLost a1 a2 a3).flds (Dev.groupLost a1 a2 a3).ctrs := by
  unfold Dev.groupLost; exact (ite_canonical (Dev.tableHard_canonical (Dev.wordError_canonical (Dev.record_canonical (by (try dsimp only); exact ha1)))) (Dev.wordError_canonical (Dev.record_canonical (by (try dsimp only); exact ha1))))

theorem Dev.actionFaults_canonical {a1 a2 a3 a4} (ha1 : Canonical a1.flds a1.ctrs) :
    Canonical (Dev.actionFaults a1 a2 a3 a4).flds (Dev.actionFaults a1 a2 a3 a4).ctrs := by
  unfold Dev.actionFaults; exact (foldl_canonical (fun _ _ h1 => (by split; (· exact (ite_canonical (Dev.meterBank_canonical (Dev.record_canonical (Dev.count_canonical (Dev.setMeter_canonical h1)))) h1)); (· exact (ite_canonical (Dev.meterBank_canonical (Dev.record_canonical (Dev.count_canonical (Dev.setMeter_canonical h1)))) h1)); (· exact (ite_canonical (Dev.record_canonical (Dev.setFlowCounter_canonical h1)) h1)); (· exact (ite_canonical (Dev.groupLost_canonical h1) h1)); (· exact h1))) ha1)

theorem Dev.errorDefault_canonical {a1 a2 a3 a4 a5 a6} (ha1 : Canonical a1.flds a1.ctrs) :
    Canonical (Dev.errorDefault a1 a2 a3 a4 a5 a6).flds (Dev.errorDefault a1 a2 a3 a4 a5 a6).ctrs := by
  unfold Dev.errorDefault; exact (ite_canonical (by split; (· exact (ite_canonical (Dev.groupLost_canonical (Dev.readFaults_canonical ha1)) (Dev.readFaults_canonical ha1))); (· exact (Dev.readFaults_canonical ha1))) (Dev.resolved_canonical (Dev.digestRx_canonical (Dev.groupCheck_canonical (by split; (· exact (ite_canonical (Dev.groupLost_canonical (Dev.readFaults_canonical ha1)) (Dev.readFaults_canonical ha1))); (· exact (Dev.readFaults_canonical ha1)))))))

theorem Dev.resolveReading_canonical {a1 a2 a3 a4 a5 a6 a7 a8} (ha1 : Canonical a1.flds a1.ctrs) :
    Canonical (Dev.resolveReading a1 a2 a3 a4 a5 a6 a7 a8).flds (Dev.resolveReading a1 a2 a3 a4 a5 a6 a7 a8).ctrs := by
  unfold Dev.resolveReading; exact (by split; (· exact (Dev.profileParity_canonical (Dev.dropFrame_canonical ha1))); (· exact (ite_canonical (Dev.actionFaults_canonical ha1) (Dev.resolve_canonical (Dev.actionFaults_canonical ha1)))))

theorem Dev.overload_canonical {a1 a2 a3 a4 a5 a6 a7 a8} (ha1 : Canonical a1.flds a1.ctrs) :
    Canonical (Dev.overload a1 a2 a3 a4 a5 a6 a7 a8).flds (Dev.overload a1 a2 a3 a4 a5 a6 a7 a8).ctrs := by
  unfold Dev.overload; exact (by (try dsimp only); split; (· exact (Dev.resolveReading_canonical (Dev.recordCounted_canonical (Dev.count_canonical ha1)))); (· exact (by (try dsimp only); split; (· exact (Dev.setRx_canonical (Dev.resolveReading_canonical (Dev.recordCounted_canonical (Dev.count_canonical ha1))))); (· exact (Dev.resolveReading_canonical (Dev.recordCounted_canonical (Dev.count_canonical ha1)))))); (· exact (Dev.resolveReading_canonical (Dev.recordCounted_canonical (Dev.count_canonical ha1)))))

theorem Dev.inspectOrResolve_canonical {a1 a2 a3 a4 a5 a6 a7} (ha1 : Canonical a1.flds a1.ctrs) :
    Canonical (Dev.inspectOrResolve a1 a2 a3 a4 a5 a6 a7).flds (Dev.inspectOrResolve a1 a2 a3 a4 a5 a6 a7).ctrs := by
  unfold Dev.inspectOrResolve; exact (by (try dsimp only); split; (· exact (Dev.resolveReading_canonical ha1)); (· exact (ite_canonical (Dev.resolveReading_canonical (Dev.count_canonical ha1)) (ite_canonical (Dev.overload_canonical ha1) (by (try dsimp only); split; (· exact (Dev.profileParity_canonical (Dev.dropFrame_canonical ha1))); (· exact (Dev.setRx_canonical (Dev.setInspectQ_canonical ha1))))))))

theorem Dev.standbyDiscard_canonical {a1 a2} (ha1 : Canonical a1.flds a1.ctrs) :
    Canonical (Dev.standbyDiscard a1 a2).flds (Dev.standbyDiscard a1 a2).ctrs := by
  unfold Dev.standbyDiscard; exact (by split; (· exact (ite_canonical (Dev.count_canonical (Dev.setRx_canonical ha1)) ha1)); (· exact ha1))

theorem Dev.countSlot_canonical {a1 a2 a3 a4} (ha1 : Canonical a1.flds a1.ctrs) :
    Canonical (Dev.countSlot a1 a2 a3 a4).flds (Dev.countSlot a1 a2 a3 a4).ctrs := by
  unfold Dev.countSlot; exact (ite_canonical (Dev.perf_canonical (Dev.perf_canonical ha1)) (ite_canonical (Dev.perf_canonical (Dev.perf_canonical ha1)) (Dev.perf_canonical (Dev.perf_canonical ha1))))

theorem Dev.lookupStage_canonical {a1 a2 a3 a4 a5} (ha1 : Canonical a1.flds a1.ctrs) :
    Canonical (Dev.lookupStage a1 a2 a3 a4 a5).flds (Dev.lookupStage a1 a2 a3 a4 a5).ctrs := by
  unfold Dev.lookupStage; exact (ite_canonical (Dev.hopFault_canonical (Dev.tableFaults_canonical ha1)) (Dev.standbyDiscard_canonical (Dev.inspectOrResolve_canonical (by (try dsimp only); split; (· exact (Dev.learnSource_canonical (Dev.countLooks_canonical (Dev.hopFault_canonical (Dev.tableFaults_canonical ha1))))); (· exact (by (try dsimp only); exact (Dev.countLooks_canonical (Dev.hopFault_canonical (Dev.tableFaults_canonical ha1)))))))))

theorem Dev.pipeline_canonical {a1 a2 a3 a4} (ha1 : Canonical a1.flds a1.ctrs) :
    Canonical (Dev.pipeline a1 a2 a3 a4).flds (Dev.pipeline a1 a2 a3 a4).ctrs := by
  unfold Dev.pipeline; exact (ite_canonical (Dev.parserFailed_canonical (Dev.countSlot_canonical ha1)) (ite_canonical (Dev.lookupStage_canonical (Dev.countWalk_canonical (Dev.countSlot_canonical ha1))) (ite_canonical (Dev.nodeParity_canonical (Dev.dropFrame_canonical (Dev.noteParseErr_canonical (Dev.countWalk_canonical (Dev.countSlot_canonical ha1))))) (Dev.standbyDiscard_canonical (Dev.errorDefault_canonical (Dev.noteParseErr_canonical (Dev.countWalk_canonical (Dev.countSlot_canonical ha1))))))))

theorem execFrameParse_canonical {a1 a2 s t} (h : Canonical s.dev.flds s.dev.ctrs) (e : execFrameParse a1 a2 s = .next t) :
    Canonical t.dev.flds t.dev.ctrs := by
  unfold execFrameParse at e; exact run_canonical (fun _ h1 => (by split; (· exact h1); (· exact (ite_canonical h1 (ite_canonical (Dev.satInc_canonical (Dev.setRx_canonical h1)) (ite_canonical (Dev.toPort134_canonical (Dev.setRx_canonical h1)) (ite_canonical (Dev.satInc_canonical (Dev.setRx_canonical h1)) (Dev.pipeline_canonical h1)))))))) h e

theorem execParseNodeRewrite_canonical {a1 a2 s t} (h : Canonical s.dev.flds s.dev.ctrs) (e : execParseNodeRewrite a1 a2 s = .next t) :
    Canonical t.dev.flds t.dev.ctrs := by
  unfold execParseNodeRewrite at e; exact run_canonical (fun _ h1 => (ite_canonical h1 (Dev.record_canonical (Dev.set1_canonical (by (try dsimp only); exact (Dev.setDown_canonical h1)))))) h e

theorem Dev.clearLastErr_canonical {a1 a2} (ha1 : Canonical a1.flds a1.ctrs) :
    Canonical (Dev.clearLastErr a1 a2).flds (Dev.clearLastErr a1 a2).ctrs := by
  unfold Dev.clearLastErr; exact (Dev.set1_canonical (Dev.set1_canonical (Dev.set1_canonical (Dev.set1_canonical (Dev.set1_canonical (Dev.set1_canonical (Dev.set1_canonical ha1)))))))

theorem execPrsClrLast_canonical {a1 a2 s t} (h : Canonical s.dev.flds s.dev.ctrs) (e : execPrsClrLast a1 a2 s = .next t) :
    Canonical t.dev.flds t.dev.ctrs := by
  unfold execPrsClrLast at e; exact run_canonical (fun _ h1 => (Dev.onWrite_canonical h1 (fun _ h2 => (Dev.clearLastErr_canonical h2)))) h e

/-! ### `Automata` -/

theorem Dev.flowFull_canonical {a1 a2} (ha1 : Canonical a1.flds a1.ctrs) :
    Canonical (Dev.flowFull a1 a2).flds (Dev.flowFull a1 a2).ctrs := by
  unfold Dev.flowFull; exact (Dev.recordCounted_canonical (Dev.raise_canonical (Dev.count_canonical ha1)))

theorem Dev.scanSegment_canonical {a1 a2 a3 a4 a5 a6 a7} (ha1 : Canonical a1.flds a1.ctrs) :
    Canonical (Dev.scanSegment a1 a2 a3 a4 a5 a6 a7).1.flds (Dev.scanSegment a1 a2 a3 a4 a5 a6 a7).1.ctrs := by
  unfold Dev.scanSegment; exact (by split; (· exact (fst_ite_canonical (by (try dsimp only); exact (Dev.setFlow_canonical ha1)) (by (try dsimp only); exact (Dev.setFlow_canonical (Dev.count_canonical ha1))))); (· exact (by split; (· exact (by (try dsimp only); exact (Dev.setFlow_canonical ha1))); (· exact (by (try dsimp only); exact (Dev.flowFull_canonical ha1))))))

theorem Dev.scan_canonical {a1 a2 a3 a4 a5} (ha1 : Canonical a1.flds a1.ctrs) :
    Canonical (Dev.scan a1 a2 a3 a4 a5).1.flds (Dev.scan a1 a2 a3 a4 a5).1.ctrs := by
  unfold Dev.scan; exact (fst_ite_canonical (by (try dsimp only); exact ha1) (by split; (· exact (by (try dsimp only); exact (Dev.count_canonical ha1))); (· exact (Dev.scanSegment_canonical ha1))))

theorem Dev.stateWordLost_canonical {a1 a2 a3 a4} (ha1 : Canonical a1.flds a1.ctrs) :
    Canonical (Dev.stateWordLost a1 a2 a3 a4).flds (Dev.stateWordLost a1 a2 a3 a4).ctrs := by
  unfold Dev.stateWordLost; exact (ite_canonical (Dev.isolateRegion_canonical (Dev.record_canonical (Dev.wordError_canonical (Dev.set1_canonical (Dev.set1_canonical (Dev.count_canonical (Dev.setRx_canonical ha1))))))) (Dev.setDown_canonical (Dev.wordError_canonical (Dev.set1_canonical (Dev.set1_canonical (Dev.count_canonical (Dev.setRx_canonical ha1)))))))

theorem execAutomataScan_canonical {a1 a2 a3 a4 s t} (h : Canonical s.dev.flds s.dev.ctrs) (e : execAutomataScan a1 a2 a3 a4 s = .next t) :
    Canonical t.dev.flds t.dev.ctrs := by
  unfold execAutomataScan at e; exact run_canonical (fun _ h1 => (by (try dsimp only); split; (· exact h1); (· exact (by (try dsimp only); split; (· exact (Dev.countN_canonical (Dev.setInspectQ_canonical h1))); (· exact (by (try dsimp only); split; (· exact (Dev.stateWordLost_canonical (Dev.countN_canonical (Dev.setInspectQ_canonical h1)))); (· exact (Dev.standbyDiscard_canonical (Dev.resolveReading_canonical (Dev.count_canonical (Dev.perf_canonical (Dev.countN_canonical (Dev.count_canonical (Dev.scan_canonical (Dev.countN_canonical (Dev.setInspectQ_canonical h1)))))))))); (· exact (Dev.countN_canonical (Dev.setInspectQ_canonical h1))))))))) h e

theorem execAutStateRewrite_canonical {a1 a2 s t} (h : Canonical s.dev.flds s.dev.ctrs) (e : execAutStateRewrite a1 a2 s = .next t) :
    Canonical t.dev.flds t.dev.ctrs := by
  unfold execAutStateRewrite at e; exact run_canonical (fun _ h1 => (ite_canonical (Dev.record_canonical (Dev.setDown_canonical h1)) h1)) h e

theorem execStreamFlowIdle_canonical {a1 s t} (h : Canonical s.dev.flds s.dev.ctrs) (e : execStreamFlowIdle a1 s = .next t) :
    Canonical t.dev.flds t.dev.ctrs := by
  unfold execStreamFlowIdle at e; exact run_canonical (fun _ h1 => (by split; (· exact h1); (· exact (ite_canonical (Dev.setFlow_canonical h1) h1)))) h e

theorem execAutEngineSpared_canonical {a1 a2 a3 s t} (h : Canonical s.dev.flds s.dev.ctrs) (e : execAutEngineSpared a1 a2 a3 s = .next t) :
    Canonical t.dev.flds t.dev.ctrs := by
  unfold execAutEngineSpared at e; exact run_canonical (fun _ h1 => (ite_canonical h1 (ite_canonical (Dev.isolateRegion_canonical (Dev.record_canonical (Dev.set1_canonical (Dev.set1_canonical (Dev.set1_canonical (Dev.setInspectQ_canonical (Dev.countN_canonical (foldl_canonical (fun _ _ h2 => (Dev.setRx_canonical h2)) h1)))))))) (Dev.spareUsed_canonical (Dev.record_canonical (Dev.setBit_canonical (Dev.setBit_canonical (Dev.set1_canonical (Dev.set1_canonical (Dev.set1_canonical (Dev.set1_canonical (Dev.setInspectQ_canonical (Dev.countN_canonical (foldl_canonical (fun _ _ h3 => (Dev.setRx_canonical h3)) h1)))))))))))))) h e

/-! ### `Egress` -/

theorem Dev.fabSeq_canonical {a1 a2} (ha1 : Canonical a1.flds a1.ctrs) :
    Canonical (Dev.fabSeq a1 a2).2.flds (Dev.fabSeq a1 a2).2.ctrs := by
  unfold Dev.fabSeq; exact (by split; (· exact (by (try dsimp only); exact ha1)); (· exact (by (try dsimp only); exact (by (try dsimp only); exact ha1))))

theorem Dev.edited_canonical {a1 a2 a3 a4 a5} (ha1 : Canonical a1.flds a1.ctrs) :
    Canonical (Dev.edited a1 a2 a3 a4 a5).1.flds (Dev.edited a1 a2 a3 a4 a5).1.ctrs := by
  unfold Dev.edited; exact (by (try dsimp only); exact (Dev.countN_canonical ha1))

theorem Dev.correct_canonical {a1 a2 a3 a4} (ha1 : Canonical a1.flds a1.ctrs) :
    Canonical (Dev.correct a1 a2 a3 a4).1.flds (Dev.correct a1 a2 a3 a4).1.ctrs := by
  unfold Dev.correct; exact (by (try dsimp only); exact (ite_canonical (Dev.count_canonical (Dev.count_canonical ha1)) (Dev.count_canonical ha1)))

theorem Dev.ptpResidence_canonical {a1 a2 a3 a4 a5} (ha1 : Canonical a1.flds a1.ctrs) :
    Canonical (Dev.ptpResidence a1 a2 a3 a4 a5).1.flds (Dev.ptpResidence a1 a2 a3 a4 a5).1.ctrs := by
  unfold Dev.ptpResidence; exact (by split; (· exact (by (try dsimp only); exact ha1)); (· exact (fst_ite_canonical (Dev.correct_canonical ha1) (by (try dsimp only); exact ha1))))

theorem Dev.pushTxts_canonical {a1 a2 a3 a4 a5} (ha1 : Canonical a1.flds a1.ctrs) :
    Canonical (Dev.pushTxts a1 a2 a3 a4 a5).flds (Dev.pushTxts a1 a2 a3 a4 a5).ctrs := by
  unfold Dev.pushTxts; exact (ite_canonical (by (try dsimp only); exact ha1) (Dev.recordCounted_canonical (Dev.count_canonical (ite_canonical ha1 (Dev.set1_canonical (Dev.set1_canonical ha1))))))

theorem Dev.noteEcc_canonical {a1 a2 a3 a4} (ha1 : Canonical a1.flds a1.ctrs) :
    Canonical (Dev.noteEcc a1 a2 a3 a4).flds (Dev.noteEcc a1 a2 a3 a4).ctrs := by
  unfold Dev.noteEcc; exact (Dev.set0_canonical (Dev.set0_canonical (Dev.set0_canonical (Dev.set0_canonical ha1))))

theorem Dev.poolCheck_canonical {a1} (ha1 : Canonical a1.flds a1.ctrs) :
    Canonical (Dev.poolCheck a1).flds (Dev.poolCheck a1).ctrs := by
  unfold Dev.poolCheck; exact (ite_canonical (Dev.record_canonical (Dev.set0_canonical ha1)) ha1)

theorem Dev.bufHard_canonical {a1 a2 a3} (ha1 : Canonical a1.flds a1.ctrs) :
    Canonical (Dev.bufHard a1 a2 a3).flds (Dev.bufHard a1 a2 a3).ctrs := by
  unfold Dev.bufHard; exact (ite_canonical (Dev.spareUsed_canonical (Dev.record_canonical (Dev.set0_canonical (Dev.satInc_canonical (by (try dsimp only); exact (Dev.noteEcc_canonical ha1)))))) (Dev.poolCheck_canonical (Dev.record_canonical (Dev.satInc_canonical (Dev.noteEcc_canonical ha1)))))

theorem Dev.eccCorrected_canonical {a1 a2} (ha1 : Canonical a1.flds a1.ctrs) :
    Canonical (Dev.eccCorrected a1 a2).flds (Dev.eccCorrected a1 a2).ctrs := by
  unfold Dev.eccCorrected; exact (foldl_canonical (fun _ _ h1 => (Dev.set0_canonical (Dev.noteEcc_canonical (Dev.count_canonical h1)))) ha1)

theorem Dev.eccLost_canonical {a1 a2 a3 a4} (ha1 : Canonical a1.flds a1.ctrs) :
    Canonical (Dev.eccLost a1 a2 a3 a4).flds (Dev.eccLost a1 a2 a3 a4).ctrs := by
  unfold Dev.eccLost; exact (Dev.record_canonical (Dev.noteEcc_canonical (Dev.count_canonical ha1)))

theorem Dev.eccBad_canonical {a1 a2 a3 a4 a5} (ha1 : Canonical a1.flds a1.ctrs) :
    Canonical (Dev.eccBad a1 a2 a3 a4 a5).flds (Dev.eccBad a1 a2 a3 a4 a5).ctrs := by
  unfold Dev.eccBad; exact (ite_canonical (Dev.bufHard_canonical (Dev.wordError_canonical (Dev.setChain_canonical (Dev.eccLost_canonical ha1)))) (Dev.wordError_canonical (Dev.setChain_canonical (Dev.eccLost_canonical ha1))))

theorem Dev.e2eBad_canonical {a1 a2 a3} (ha1 : Canonical a1.flds a1.ctrs) :
    Canonical (Dev.e2eBad a1 a2 a3).flds (Dev.e2eBad a1 a2 a3).ctrs := by
  unfold Dev.e2eBad; exact (Dev.record_canonical (ite_canonical (Dev.count_canonical ha1) (Dev.count_canonical ha1)))

theorem Dev.readTraffic_canonical {a1 a2 a3} (ha1 : Canonical a1.flds a1.ctrs) :
    Canonical (Dev.readTraffic a1 a2 a3).flds (Dev.readTraffic a1 a2 a3).ctrs := by
  unfold Dev.readTraffic; exact (Dev.perf_canonical (Dev.perf_canonical ha1))

theorem Dev.readCells_canonical {a1 a2 a3 a4 a5} (ha1 : Canonical a1.flds a1.ctrs) :
    Canonical (Dev.readCells a1 a2 a3 a4 a5).1.flds (Dev.readCells a1 a2 a3 a4 a5).1.ctrs := by
  unfold Dev.readCells; exact (by split; (· exact (by (try dsimp only); exact (Dev.eccLost_canonical (Dev.readTraffic_canonical (Dev.eccCorrected_canonical ha1))))); (· exact (by (try dsimp only); exact (Dev.eccBad_canonical (Dev.readTraffic_canonical (Dev.eccCorrected_canonical ha1))))); (· exact (fst_ite_canonical (by (try dsimp only); exact (Dev.e2eBad_canonical (Dev.readTraffic_canonical (Dev.eccCorrected_canonical ha1)))) (by (try dsimp only); exact (Dev.readTraffic_canonical (Dev.eccCorrected_canonical ha1))))))

theorem Dev.giveBack_canonical {a1 a2 a3 a4} (ha1 : Canonical a1.flds a1.ctrs) :
    Canonical (Dev.giveBack a1 a2 a3 a4).flds (Dev.giveBack a1 a2 a3 a4).ctrs := by
  unfold Dev.giveBack; exact (by split; (· exact (Dev.release_canonical ha1)); (· exact (Dev.freeRequest_canonical (Dev.dropRef_canonical ha1))))

/-! ### `Dies` -/

theorem Dev.setFlitDir_canonical {a1 a2 a3 a4 a5} (ha1 : Canonical a1.flds a1.ctrs) :
    Canonical (Dev.setFlitDir a1 a2 a3 a4 a5).flds (Dev.setFlitDir a1 a2 a3 a4 a5).ctrs := by
  unfold Dev.setFlitDir; exact (by (try dsimp only); exact ha1)

theorem Dev.setWire_canonical {a1 a2 a3} (ha1 : Canonical a1.flds a1.ctrs) :
    Canonical (Dev.setWire a1 a2 a3).flds (Dev.setWire a1 a2 a3).ctrs := by
  unfold Dev.setWire; exact (by (try dsimp only); exact ha1)

theorem Dev.useSpare_canonical {a1 a2 a3 a4} (ha1 : Canonical a1.flds a1.ctrs) :
    Canonical (Dev.useSpare a1 a2 a3 a4).flds (Dev.useSpare a1 a2 a3 a4).ctrs := by
  unfold Dev.useSpare; exact (ite_canonical (Dev.set1_canonical (Dev.set1_canonical ha1)) (Dev.set1_canonical ha1))

theorem Dev.endWireRetrain_canonical {a1 a2 a3} (ha1 : Canonical a1.flds a1.ctrs) :
    Canonical (Dev.endWireRetrain a1 a2 a3).flds (Dev.endWireRetrain a1 a2 a3).ctrs := by
  unfold Dev.endWireRetrain; exact (by (try dsimp only); split; (· exact ha1); (· exact (ite_canonical (Dev.set1_canonical (Dev.setWire_canonical ha1)) ha1)))

theorem Dev.spareWire_canonical {a1 a2 a3 a4 a5 a6} (ha1 : Canonical a1.flds a1.ctrs) :
    Canonical (Dev.spareWire a1 a2 a3 a4 a5 a6).flds (Dev.spareWire a1 a2 a3 a4 a5 a6).ctrs := by
  unfold Dev.spareWire; exact (Dev.autumn_canonical (Dev.dieFault_canonical (Dev.record_canonical (Dev.satInc_canonical (Dev.useSpare_canonical (Dev.setWire_canonical (Dev.endWireRetrain_canonical (Dev.endWireRetrain_canonical ha1))))))))

theorem Dev.loseSpare_canonical {a1 a2 a3 a4 a5 a6} (ha1 : Canonical a1.flds a1.ctrs) :
    Canonical (Dev.loseSpare a1 a2 a3 a4 a5 a6).flds (Dev.loseSpare a1 a2 a3 a4 a5 a6).ctrs := by
  unfold Dev.loseSpare; exact (Dev.autumn_canonical (Dev.dieFault_canonical (Dev.useSpare_canonical (Dev.setWire_canonical (Dev.endWireRetrain_canonical ha1)))))

theorem Dev.failLink_canonical {a1 a2} (ha1 : Canonical a1.flds a1.ctrs) :
    Canonical (Dev.failLink a1 a2).flds (Dev.failLink a1 a2).ctrs := by
  unfold Dev.failLink; exact (ite_canonical ha1 (Dev.winterCause_canonical (Dev.dieFault_canonical (Dev.record_canonical (Dev.set1_canonical (Dev.set1_canonical ha1))))))

theorem Dev.setLinkDir_canonical {a1 a2 a3 a4} (ha1 : Canonical a1.flds a1.ctrs) :
    Canonical (Dev.setLinkDir a1 a2 a3 a4).flds (Dev.setLinkDir a1 a2 a3 a4).ctrs := by
  unfold Dev.setLinkDir; exact (by (try dsimp only); exact ha1)

theorem Dev.sendFlit_canonical {a1 a2 a3} (ha1 : Canonical a1.flds a1.ctrs) :
    ∀ e, (Dev.sendFlit a1 a2 a3) = some e → Canonical e.flds e.ctrs := by
  unfold Dev.sendFlit; exact (by (try dsimp only); split; (· exact none_canonical); (· exact (opt_ite_canonical none_canonical (some_canonical (Dev.setLinkDir_canonical (Dev.setFlitDir_canonical ha1))))))

theorem Dev.sendUntil_canonical {k b dir seq n} {d : Dev} (h : Canonical d.flds d.ctrs) :
    Canonical (Dev.sendUntil k b dir seq n d).flds (Dev.sendUntil k b dir seq n d).ctrs := by
  induction n generalizing d with
  | zero => exact h
  | succ n ih =>
    simp only [Dev.sendUntil]
    split
    · exact h
    · split
      · exact h
      · rename_i e; exact ih (Dev.sendFlit_canonical h _ e)

theorem Dev.acceptFlit_canonical {a1 a2 a3 a4} (ha1 : Canonical a1.flds a1.ctrs) :
    Canonical (Dev.acceptFlit a1 a2 a3 a4).flds (Dev.acceptFlit a1 a2 a3 a4).ctrs := by
  unfold Dev.acceptFlit; exact (Dev.setLinkDir_canonical ha1)

theorem Dev.nakFlit_canonical {a1 a2 a3 a4 a5} (ha1 : Canonical a1.flds a1.ctrs) :
    Canonical (Dev.nakFlit a1 a2 a3 a4 a5).flds (Dev.nakFlit a1 a2 a3 a4 a5).ctrs := by
  unfold Dev.nakFlit; exact (ite_canonical (Dev.setFlitDir_canonical (Dev.emit_canonical (Dev.satInc_canonical ha1))) (Dev.set1_canonical (Dev.setFlitDir_canonical (Dev.emit_canonical (Dev.satInc_canonical ha1)))))

theorem Dev.ackFlits_canonical {a1 a2 a3 a4 a5} (ha1 : Canonical a1.flds a1.ctrs) :
    Canonical (Dev.ackFlits a1 a2 a3 a4 a5).flds (Dev.ackFlits a1 a2 a3 a4 a5).ctrs := by
  unfold Dev.ackFlits; exact (ite_canonical (Dev.setFlitDir_canonical ha1) ha1)

theorem execFlitReceive_canonical {a1 a2 a3 a4 a5 a6 s t} (h : Canonical s.dev.flds s.dev.ctrs) (e : execFlitReceive a1 a2 a3 a4 a5 a6 s = .next t) :
    Canonical t.dev.flds t.dev.ctrs := by
  unfold execFlitReceive at e; exact run_canonical (fun _ h1 => (ite_canonical h1 (ite_canonical h1 (ite_canonical (ite_canonical (Dev.satInc_canonical (ite_canonical (Dev.sendUntil_canonical h1) h1)) (Dev.nakFlit_canonical (ite_canonical (Dev.sendUntil_canonical h1) h1))) (ite_canonical (ite_canonical (Dev.sendUntil_canonical h1) h1) (Dev.ackFlits_canonical (Dev.acceptFlit_canonical (Dev.setFlitDir_canonical (ite_canonical (Dev.sendUntil_canonical h1) h1))))))))) h e

theorem Dev.replay_canonical {a1 a2 a3 a4 a5} (ha1 : Canonical a1.flds a1.ctrs) :
    Canonical (Dev.replay a1 a2 a3 a4 a5).flds (Dev.replay a1 a2 a3 a4 a5).ctrs := by
  unfold Dev.replay; exact (foldl_canonical (fun _ _ h1 => (Dev.emit_canonical h1)) (Dev.satInc_canonical ha1))

theorem execNakReplay_canonical {a1 a2 a3 a4 s t} (h : Canonical s.dev.flds s.dev.ctrs) (e : execNakReplay a1 a2 a3 a4 s = .next t) :
    Canonical t.dev.flds t.dev.ctrs := by
  unfold execNakReplay at e; exact run_canonical (fun _ h1 => (ite_canonical (Dev.replay_canonical h1) h1)) h e

theorem execAckTimeoutReplay_canonical {a1 a2 a3 s t} (h : Canonical s.dev.flds s.dev.ctrs) (e : execAckTimeoutReplay a1 a2 a3 s = .next t) :
    Canonical t.dev.flds t.dev.ctrs := by
  unfold execAckTimeoutReplay at e; exact run_canonical (fun _ h1 => (ite_canonical (Dev.replay_canonical h1) h1)) h e

theorem Dev.repairWires_canonical {d : Dev} {k b dir ws} (h : Canonical d.flds d.ctrs) :
    Canonical (Dev.repairWires d k b dir ws).1.flds (Dev.repairWires d k b dir ws).1.ctrs := by
  induction ws generalizing d with
  | nil => exact h
  | cons w ws ih =>
    simp only [Dev.repairWires]
    refine fst_ite_canonical (ih h) (fst_ite_canonical (ih (Dev.loseSpare_canonical h)) ?_)
    split
    · exact ih (Dev.spareWire_canonical h)
    · exact h

theorem execBundleDiagnosisDone_canonical {a1 a2 a3 a4 a5 s t} (h : Canonical s.dev.flds s.dev.ctrs) (e : execBundleDiagnosisDone a1 a2 a3 a4 a5 s = .next t) :
    Canonical t.dev.flds t.dev.ctrs := by
  unfold execBundleDiagnosisDone at e; exact run_canonical (fun _ h1 => (ite_canonical h1 (ite_canonical (ite_canonical (Dev.setFlitDir_canonical (Dev.setFlitDir_canonical (fst_ite_canonical (Dev.repairWires_canonical (Dev.repairWires_canonical h1)) (Dev.repairWires_canonical h1)))) (Dev.set1_canonical (Dev.setFlitDir_canonical (Dev.setFlitDir_canonical (fst_ite_canonical (Dev.repairWires_canonical (Dev.repairWires_canonical h1)) (Dev.repairWires_canonical h1)))))) (Dev.failLink_canonical (fst_ite_canonical (Dev.repairWires_canonical (Dev.repairWires_canonical h1)) (Dev.repairWires_canonical h1)))))) h e

theorem execD2dWireRetrainStart_canonical {a1 s t} (h : Canonical s.dev.flds s.dev.ctrs) (e : execD2dWireRetrainStart a1 s = .next t) :
    Canonical t.dev.flds t.dev.ctrs := by
  unfold execD2dWireRetrainStart at e; exact run_canonical (fun _ h1 => (ite_canonical h1 (ite_canonical (Dev.setWire_canonical h1) (ite_canonical (Dev.set1_canonical (Dev.setWire_canonical h1)) (by split; (· exact (Dev.set1_canonical (Dev.setWire_canonical h1))); (· exact (ite_canonical (Dev.setWire_canonical h1) (Dev.set1_canonical (Dev.setWire_canonical h1))))))))) h e

theorem execD2dWireRetrainDone_canonical {a1 a2 s t} (h : Canonical s.dev.flds s.dev.ctrs) (e : execD2dWireRetrainDone a1 a2 s = .next t) :
    Canonical t.dev.flds t.dev.ctrs := by
  unfold execD2dWireRetrainDone at e; exact run_canonical (fun _ h1 => (by (try dsimp only); split; (· exact h1); (· exact (ite_canonical (Dev.set1_canonical (Dev.setWire_canonical h1)) (ite_canonical (Dev.setWire_canonical h1) (by (try dsimp only); split; (· exact (Dev.spareWire_canonical (Dev.record_canonical (Dev.set1_canonical (Dev.setWire_canonical h1))))); (· exact (ite_canonical (Dev.loseSpare_canonical (Dev.record_canonical (Dev.set1_canonical (Dev.setWire_canonical h1)))) (Dev.record_canonical (Dev.set1_canonical (Dev.setWire_canonical h1))))))))))) h e

theorem execRegionIsolate_canonical {a1 a2 s t} (h : Canonical s.dev.flds s.dev.ctrs) (e : execRegionIsolate a1 a2 s = .next t) :
    Canonical t.dev.flds t.dev.ctrs := by
  unfold execRegionIsolate at e; exact run_canonical (fun _ h1 => (Dev.isolateRegion_canonical h1)) h e

theorem execLaneDieFailed_canonical {a1 s t} (h : Canonical s.dev.flds s.dev.ctrs) (e : execLaneDieFailed a1 s = .next t) :
    Canonical t.dev.flds t.dev.ctrs := by
  unfold execLaneDieFailed at e; exact run_canonical (fun _ h1 => (ite_canonical h1 (Dev.isolateRegion_canonical (Dev.dieFault_canonical (Dev.record_canonical h1))))) h e

theorem Dev.failHoldDie_canonical {a1 a2} (ha1 : Canonical a1.flds a1.ctrs) :
    Canonical (Dev.failHoldDie a1 a2).flds (Dev.failHoldDie a1 a2).ctrs := by
  unfold Dev.failHoldDie; exact (ite_canonical ha1 (ite_canonical (Dev.holdOutOfService_canonical (Dev.autumn_canonical (ite_canonical (Dev.endRetrain_canonical (Dev.raise_canonical (Dev.dieFault_canonical (Dev.record_canonical (ite_canonical (Dev.set0_canonical (Dev.set0_canonical (Dev.set1_canonical (by (try dsimp only); exact ha1)))) (Dev.set0_canonical (by (try dsimp only); exact ha1))))))) (Dev.raise_canonical (Dev.dieFault_canonical (Dev.record_canonical (ite_canonical (Dev.set0_canonical (Dev.set0_canonical (Dev.set1_canonical (by (try dsimp only); exact ha1)))) (Dev.set0_canonical (by (try dsimp only); exact ha1))))))))) (ite_canonical (Dev.record_canonical (Dev.set0_canonical (by (try dsimp only); exact (Dev.abortRetrain_canonical (Dev.autumn_canonical (ite_canonical (Dev.endRetrain_canonical (Dev.raise_canonical (Dev.dieFault_canonical (Dev.record_canonical (ite_canonical (Dev.set0_canonical (Dev.set0_canonical (Dev.set1_canonical (by (try dsimp only); exact ha1)))) (Dev.set0_canonical (by (try dsimp only); exact ha1))))))) (Dev.raise_canonical (Dev.dieFault_canonical (Dev.record_canonical (ite_canonical (Dev.set0_canonical (Dev.set0_canonical (Dev.set1_canonical (by (try dsimp only); exact ha1)))) (Dev.set0_canonical (by (try dsimp only); exact ha1)))))))))))) (Dev.autumn_canonical (ite_canonical (Dev.endRetrain_canonical (Dev.raise_canonical (Dev.dieFault_canonical (Dev.record_canonical (ite_canonical (Dev.set0_canonical (Dev.set0_canonical (Dev.set1_canonical (by (try dsimp only); exact ha1)))) (Dev.set0_canonical (by (try dsimp only); exact ha1))))))) (Dev.raise_canonical (Dev.dieFault_canonical (Dev.record_canonical (ite_canonical (Dev.set0_canonical (Dev.set0_canonical (Dev.set1_canonical (by (try dsimp only); exact ha1)))) (Dev.set0_canonical (by (try dsimp only); exact ha1)))))))))))

theorem execHoldDieFailed_canonical {a1 s t} (h : Canonical s.dev.flds s.dev.ctrs) (e : execHoldDieFailed a1 s = .next t) :
    Canonical t.dev.flds t.dev.ctrs := by
  unfold execHoldDieFailed at e; exact run_canonical (fun _ h1 => (Dev.failHoldDie_canonical h1)) h e

theorem execFatalDieFault_canonical {a1 s t} (h : Canonical s.dev.flds s.dev.ctrs) (e : execFatalDieFault a1 s = .next t) :
    Canonical t.dev.flds t.dev.ctrs := by
  unfold execFatalDieFault at e; exact run_canonical (fun _ h1 => (ite_canonical (Dev.winterCause_canonical (Dev.dieFault_canonical h1)) (Dev.winterCause_canonical (Dev.dieFault_canonical h1)))) h e

theorem Dev.afterLock_canonical {a1} (ha1 : Canonical a1.flds a1.ctrs) :
    Canonical (Dev.afterLock a1).flds (Dev.afterLock a1).ctrs := by
  unfold Dev.afterLock; exact (foldl_canonical (fun _ _ h1 => (ite_canonical (Dev.set1_canonical h1) h1)) (Dev.set0_canonical (by (try dsimp only); exact ha1)))

theorem execRootPllFirstLock_canonical {a1 a2 s t} (h : Canonical s.dev.flds s.dev.ctrs) (e : execRootPllFirstLock a1 a2 s = .next t) :
    Canonical t.dev.flds t.dev.ctrs := by
  unfold execRootPllFirstLock at e; exact run_canonical (fun _ h1 => (ite_canonical h1 (ite_canonical (Dev.afterLock_canonical (Dev.set0_canonical (Dev.set0_canonical (Dev.set0_canonical (Dev.set0_canonical h1))))) (Dev.set0_canonical (Dev.set0_canonical (Dev.set0_canonical (Dev.set0_canonical h1))))))) h e

theorem execRootClockLost_canonical {a1 s t} (h : Canonical s.dev.flds s.dev.ctrs) (e : execRootClockLost a1 s = .next t) :
    Canonical t.dev.flds t.dev.ctrs := by
  unfold execRootClockLost at e; exact run_canonical (fun _ h1 => (ite_canonical h1 (Dev.winterCause_canonical (Dev.record_canonical (Dev.set0_canonical (by (try dsimp only); exact (Dev.set0_canonical (Dev.set0_canonical (Dev.set0_canonical (Dev.set0_canonical h1)))))))))) h e

theorem Dev.writeClkDiv_canonical {a1 a2 a3} (ha1 : Canonical a1.flds a1.ctrs) :
    Canonical (Dev.writeClkDiv a1 a2 a3).flds (Dev.writeClkDiv a1 a2 a3).ctrs := by
  unfold Dev.writeClkDiv; exact (Dev.pwWrite_canonical ha1 (fun _ h1 => (ite_canonical (Dev.set0_canonical h1) (Dev.set0_canonical (Dev.set0_canonical h1)))))

theorem execClkDivCoreHalf_canonical {a1 a2 s t} (h : Canonical s.dev.flds s.dev.ctrs) (e : execClkDivCoreHalf a1 a2 s = .next t) :
    Canonical t.dev.flds t.dev.ctrs := by
  unfold execClkDivCoreHalf at e; exact run_canonical (fun _ h1 => (Dev.onWrite_canonical h1 (fun _ h2 => (Dev.writeClkDiv_canonical h2)))) h e

theorem execCoreClockRedivided_canonical {s t} (h : Canonical s.dev.flds s.dev.ctrs) (e : execCoreClockRedivided s = .next t) :
    Canonical t.dev.flds t.dev.ctrs := by
  unfold execCoreClockRedivided at e; exact run_canonical (fun _ h1 => (ite_canonical (Dev.set0_canonical h1) h1)) h e

/-! ### `HoldOps` -/

theorem Dev.setRing_canonical {a1 a2} (ha1 : Canonical a1.flds a1.ctrs) :
    Canonical (Dev.setRing a1 a2).flds (Dev.setRing a1 a2).ctrs := by
  unfold Dev.setRing; exact (by (try dsimp only); exact ha1)

theorem Dev.freePages_canonical {a1 a2} (ha1 : Canonical a1.flds a1.ctrs) :
    Canonical (Dev.freePages a1 a2).flds (Dev.freePages a1 a2).ctrs := by
  unfold Dev.freePages; exact (ite_canonical ha1 (by (try dsimp only); exact ha1))

theorem Dev.setZone_canonical {a1 a2 a3} (ha1 : Canonical a1.flds a1.ctrs) :
    Canonical (Dev.setZone a1 a2 a3).flds (Dev.setZone a1 a2 a3).ctrs := by
  unfold Dev.setZone; exact (by (try dsimp only); exact ha1)

theorem Dev.setPhysZone_canonical {a1 a2 a3} (ha1 : Canonical a1.flds a1.ctrs) :
    Canonical (Dev.setPhysZone a1 a2 a3).flds (Dev.setPhysZone a1 a2 a3).ctrs := by
  unfold Dev.setPhysZone; exact (by (try dsimp only); exact ha1)

theorem Dev.wearCheck_canonical {a1 a2} (ha1 : Canonical a1.flds a1.ctrs) :
    Canonical (Dev.wearCheck a1 a2).flds (Dev.wearCheck a1 a2).ctrs := by
  unfold Dev.wearCheck; exact (ite_canonical (Dev.autumn_canonical (Dev.record_canonical (Dev.set0_canonical (Dev.set0_canonical ha1)))) ha1)

theorem Dev.wearRows_canonical {a1 a2 a3} (ha1 : Canonical a1.flds a1.ctrs) :
    Canonical (Dev.wearRows a1 a2 a3).flds (Dev.wearRows a1 a2 a3).ctrs := by
  unfold Dev.wearRows; exact (Dev.wearCheck_canonical (Dev.setZone_canonical ha1))

theorem Dev.defer_canonical {a1 a2} (ha1 : Canonical a1.flds a1.ctrs) :
    Canonical (Dev.defer a1 a2).flds (Dev.defer a1 a2).ctrs := by
  unfold Dev.defer; exact (ite_canonical ha1 (ite_canonical (Dev.abortRetrain_canonical ha1) (Dev.set0_canonical (by (try dsimp only); exact ha1))))

theorem Dev.noteRowWrite_canonical {a1 a2 a3} (ha1 : Canonical a1.flds a1.ctrs) :
    Canonical (Dev.noteRowWrite a1 a2 a3).flds (Dev.noteRowWrite a1 a2 a3).ctrs := by
  unfold Dev.noteRowWrite; exact (Dev.defer_canonical (Dev.wearRows_canonical (Dev.perf_canonical ha1)))

theorem Dev.notePageCopy_canonical {a1 a2} (ha1 : Canonical a1.flds a1.ctrs) :
    Canonical (Dev.notePageCopy a1 a2).flds (Dev.notePageCopy a1 a2).ctrs := by
  unfold Dev.notePageCopy; exact (Dev.defer_canonical (Dev.wearRows_canonical (Dev.perf_canonical ha1)))

theorem Dev.innerFailed_canonical {a1 a2} (ha1 : Canonical a1.flds a1.ctrs) :
    Canonical (Dev.innerFailed a1 a2).flds (Dev.innerFailed a1 a2).ctrs := by
  unfold Dev.innerFailed; exact (ite_canonical (Dev.failHoldDie_canonical (Dev.satInc_canonical (by (try dsimp only); exact ha1))) (Dev.satInc_canonical (by (try dsimp only); exact ha1)))

theorem Dev.lastFault_canonical {a1 a2 a3 a4} (ha1 : Canonical a1.flds a1.ctrs) :
    Canonical (Dev.lastFault a1 a2 a3 a4).flds (Dev.lastFault a1 a2 a3 a4).ctrs := by
  unfold Dev.lastFault; exact (Dev.set0_canonical (Dev.set0_canonical (Dev.set0_canonical ha1)))

theorem Dev.rewriteStripe_canonical {a1 a2} (ha1 : Canonical a1.flds a1.ctrs) :
    Canonical (Dev.rewriteStripe a1 a2).flds (Dev.rewriteStripe a1 a2).ctrs := by
  unfold Dev.rewriteStripe; exact (ite_canonical (Dev.perf_canonical ha1) (by split; (· exact (Dev.defer_canonical (Dev.wearRows_canonical (Dev.perf_canonical ha1)))); (· exact (Dev.wearRows_canonical (Dev.perf_canonical ha1)))))

theorem Dev.readStripe_canonical {a1 a2 a3 a4} (ha1 : Canonical a1.flds a1.ctrs) :
    Canonical (Dev.readStripe a1 a2 a3 a4).1.flds (Dev.readStripe a1 a2 a3 a4).1.ctrs := by
  unfold Dev.readStripe; exact (by (try dsimp only); split; (· exact (by (try dsimp only); exact (foldl_canonical (fun _ _ h1 => (ite_canonical h1 (Dev.innerFailed_canonical h1))) (ite_canonical (Dev.abortRetrain_canonical (Dev.countN_canonical ha1)) (Dev.countN_canonical ha1))))); (· exact (by (try dsimp only); exact (ite_canonical (Dev.rewriteStripe_canonical (Dev.perf_canonical (Dev.lastFault_canonical (Dev.count_canonical (foldl_canonical (fun _ _ h2 => (ite_canonical h2 (Dev.innerFailed_canonical h2))) (ite_canonical (Dev.abortRetrain_canonical (Dev.countN_canonical ha1)) (Dev.countN_canonical ha1))))))) (Dev.perf_canonical (Dev.lastFault_canonical (Dev.count_canonical (foldl_canonical (fun _ _ h3 => (ite_canonical h3 (Dev.innerFailed_canonical h3))) (ite_canonical (Dev.abortRetrain_canonical (Dev.countN_canonical ha1)) (Dev.countN_canonical ha1))))))))); (· exact (by (try dsimp only); exact (Dev.lastFault_canonical (Dev.count_canonical (foldl_canonical (fun _ _ h4 => (ite_canonical h4 (Dev.innerFailed_canonical h4))) (ite_canonical (Dev.abortRetrain_canonical (Dev.countN_canonical ha1)) (Dev.countN_canonical ha1))))))))

theorem Dev.trimPages_canonical {a1 a2} (ha1 : Canonical a1.flds a1.ctrs) :
    Canonical (Dev.trimPages a1 a2).flds (Dev.trimPages a1 a2).ctrs := by
  unfold Dev.trimPages; exact (Dev.freePages_canonical (Dev.setHoldQ_canonical ha1))

theorem Dev.holdSettle_canonical {a1 a2} (ha1 : Canonical a1.flds a1.ctrs) :
    Canonical (Dev.holdSettle a1 a2).flds (Dev.holdSettle a1 a2).ctrs := by
  unfold Dev.holdSettle; exact (ite_canonical (Dev.recordLimited_canonical (by (try dsimp only); exact (Dev.freePages_canonical (Dev.setHoldQ_canonical ha1)))) ha1)

theorem Dev.emptyQueue_canonical {a1 a2 a3 a4} (ha1 : Canonical a1.flds a1.ctrs) :
    Canonical (Dev.emptyQueue a1 a2 a3 a4).flds (Dev.emptyQueue a1 a2 a3 a4).ctrs := by
  unfold Dev.emptyQueue; exact (ite_canonical (by (try dsimp only); exact (by (try dsimp only); exact (Dev.countN_canonical (Dev.setHoldQ_canonical ha1)))) (Dev.freePages_canonical (by (try dsimp only); exact (Dev.countN_canonical (Dev.setHoldQ_canonical ha1)))))

theorem Dev.loseRow_canonical {a1 a2 a3 a4} (ha1 : Canonical a1.flds a1.ctrs) :
    Canonical (Dev.loseRow a1 a2 a3 a4).1.flds (Dev.loseRow a1 a2 a3 a4).1.ctrs := by
  unfold Dev.loseRow; exact (by (try dsimp only); exact (Dev.holdSettle_canonical (Dev.trimPages_canonical (Dev.countN_canonical (by (try dsimp only); exact (Dev.setHoldQ_canonical ha1))))))

theorem Dev.freeRefused_canonical {a1 a2 a3 a4} (ha1 : Canonical a1.flds a1.ctrs) :
    Canonical (Dev.freeRefused a1 a2 a3 a4).flds (Dev.freeRefused a1 a2 a3 a4).ctrs := by
  unfold Dev.freeRefused; exact (Dev.record_canonical (Dev.count_canonical ha1))

theorem Dev.refuseFree_canonical {a1 a2 a3} (ha1 : Canonical a1.flds a1.ctrs) :
    Canonical (Dev.refuseFree a1 a2 a3).flds (Dev.refuseFree a1 a2 a3).ctrs := by
  unfold Dev.refuseFree; exact (by split; (· exact (ite_canonical ha1 (Dev.freeRefused_canonical ha1))); (· exact (Dev.freeRefused_canonical ha1)))

theorem Dev.loseEntries_canonical {a1 a2 a3} (ha1 : Canonical a1.flds a1.ctrs) :
    Canonical (Dev.loseEntries a1 a2 a3).flds (Dev.loseEntries a1 a2 a3).ctrs := by
  unfold Dev.loseEntries; exact (by (try dsimp only); exact ha1)

theorem Dev.loseSlotRow_canonical {a1 a2 a3} (ha1 : Canonical a1.flds a1.ctrs) :
    Canonical (Dev.loseSlotRow a1 a2 a3).flds (Dev.loseSlotRow a1 a2 a3).ctrs := by
  unfold Dev.loseSlotRow; exact (by (try dsimp only); split; (· exact ha1); (· exact (ite_canonical ha1 (by (try dsimp only); exact ha1))))

theorem Dev.loseControl_canonical {a1 a2} (ha1 : Canonical a1.flds a1.ctrs) :
    Canonical (Dev.loseControl a1 a2).flds (Dev.loseControl a1 a2).ctrs := by
  unfold Dev.loseControl; exact (ite_canonical (by (try dsimp only); exact ha1) (by (try dsimp only); exact ha1))

theorem Dev.stripeEffect_canonical {a1 a2 a3 a4} (ha1 : Canonical a1.flds a1.ctrs) :
    Canonical (Dev.stripeEffect a1 a2 a3 a4).1.flds (Dev.stripeEffect a1 a2 a3 a4).1.ctrs := by
  unfold Dev.stripeEffect; exact (by split; (· exact (by (try dsimp only); exact (ite_canonical (Dev.loseControl_canonical ha1) ha1))); (· exact (by split; (· exact (by (try dsimp only); exact (foldl_canonical (fun _ _ h1 => (by (try dsimp only); exact h1)) ha1))); (· exact (by (try dsimp only); exact (Dev.loseSlotRow_canonical ha1))); (· exact (by (try dsimp only); exact (by (try dsimp only); exact ha1))); (· exact (by (try dsimp only); exact (foldl_canonical (fun _ _ h2 => (by (try dsimp only); exact h2)) ha1))); (· exact (by split; (· exact (Dev.loseRow_canonical ha1)); (· exact (by (try dsimp only); exact ha1)))); (· exact (by (try dsimp only); exact (Dev.set0_canonical (Dev.loseEntries_canonical ha1)))); (· exact (by (try dsimp only); exact ha1)))))

theorem Dev.stripeLost_canonical {a1 a2 a3} (ha1 : Canonical a1.flds a1.ctrs) :
    Canonical (Dev.stripeLost a1 a2 a3).flds (Dev.stripeLost a1 a2 a3).ctrs := by
  unfold Dev.stripeLost; exact (Dev.record_canonical (Dev.stripeEffect_canonical ha1))

theorem Dev.noteFull_canonical {a1 a2 a3} (ha1 : Canonical a1.flds a1.ctrs) :
    Canonical (Dev.noteFull a1 a2 a3).flds (Dev.noteFull a1 a2 a3).ctrs := by
  unfold Dev.noteFull; exact (ite_canonical (Dev.record_canonical (by (try dsimp only); exact ha1)) (by (try dsimp only); exact ha1))

theorem Dev.dropHeadPage_canonical {a1 a2} (ha1 : Canonical a1.flds a1.ctrs) :
    Canonical (Dev.dropHeadPage a1 a2).flds (Dev.dropHeadPage a1 a2).ctrs := by
  unfold Dev.dropHeadPage; exact (by (try dsimp only); split; (· exact ha1); (· exact (Dev.noteFull_canonical (Dev.setRing_canonical (Dev.countN_canonical (Dev.setHoldQ_canonical ha1))))))

theorem Dev.takePage_canonical {a1 a2} (ha1 : Canonical a1.flds a1.ctrs) :
    Canonical (Dev.takePage a1 a2).1.flds (Dev.takePage a1 a2).1.ctrs := by
  unfold Dev.takePage; exact (by (try dsimp only); split; (· exact (by (try dsimp only); exact (Dev.setRing_canonical ha1))); (· exact (fst_ite_canonical (by (try dsimp only); split; (· exact (by (try dsimp only); split; (· exact (by (try dsimp only); exact (Dev.setRing_canonical (Dev.holdSettle_canonical (Dev.dropHeadPage_canonical ha1))))); (· exact (by (try dsimp only); exact (Dev.holdSettle_canonical (Dev.dropHeadPage_canonical ha1)))))); (· exact (by (try dsimp only); exact (Dev.noteFull_canonical ha1)))) (by (try dsimp only); exact (Dev.noteFull_canonical ha1)))))

theorem Dev.storeFrame_canonical {a1 a2 a3 a4} (ha1 : Canonical a1.flds a1.ctrs) :
    Canonical (Dev.storeFrame a1 a2 a3 a4).1.flds (Dev.storeFrame a1 a2 a3 a4).1.ctrs := by
  unfold Dev.storeFrame; exact (by (try dsimp only); split; (· exact (by (try dsimp only); exact (by (try dsimp only); split; (· exact (by (try dsimp only); exact ha1)); (· exact (by (try dsimp only); exact (Dev.takePage_canonical ha1)))))); (· exact (by (try dsimp only); exact (by (try dsimp only); exact (Dev.setHoldQ_canonical (by (try dsimp only); split; (· exact (by (try dsimp only); exact ha1)); (· exact (by (try dsimp only); exact (Dev.takePage_canonical ha1)))))))))

theorem Dev.linkChain_canonical {a1 a2} (ha1 : Canonical a1.flds a1.ctrs) :
    Canonical (Dev.linkChain a1 a2).flds (Dev.linkChain a1 a2).ctrs := by
  unfold Dev.linkChain; exact (ite_canonical ha1 (by (try dsimp only); exact (Dev.setHoldQ_canonical ha1)))

theorem Dev.holdFlush_canonical {a1 a2} (ha1 : Canonical a1.flds a1.ctrs) :
    Canonical (Dev.holdFlush a1 a2).flds (Dev.holdFlush a1 a2).ctrs := by
  unfold Dev.holdFlush; exact (ite_canonical ha1 (Dev.set0_canonical (Dev.countN_canonical (by (try dsimp only); exact (Dev.abortRetrain_canonical ha1)))))

/-! ### `TimeOps` -/

theorem Dev.schedule_canonical {a1 a2 a3} (ha1 : Canonical a1.flds a1.ctrs) :
    Canonical (Dev.schedule a1 a2 a3).flds (Dev.schedule a1 a2 a3).ctrs := by
  unfold Dev.schedule; exact (Dev.set0_canonical (by (try dsimp only); exact ha1))

theorem Dev.adjust_canonical {a1 a2 a3} (ha1 : Canonical a1.flds a1.ctrs) :
    Canonical (Dev.adjust a1 a2 a3).flds (Dev.adjust a1 a2 a3).ctrs := by
  unfold Dev.adjust; exact (ite_canonical (Dev.set0_canonical ha1) (ite_canonical (Dev.set0_canonical (Dev.set0_canonical ha1)) (ite_canonical (Dev.set0_canonical (by (try dsimp only); exact (Dev.schedule_canonical (Dev.set0_canonical ha1)))) (Dev.schedule_canonical (Dev.set0_canonical ha1)))))

theorem Dev.setPulse_canonical {a1 a2 a3} (ha1 : Canonical a1.flds a1.ctrs) :
    Canonical (Dev.setPulse a1 a2 a3).flds (Dev.setPulse a1 a2 a3).ctrs := by
  unfold Dev.setPulse; exact (by (try dsimp only); exact ha1)

theorem Dev.missEdges_canonical {a1 a2 a3 a4} (ha1 : Canonical a1.flds a1.ctrs) :
    Canonical (Dev.missEdges a1 a2 a3 a4).flds (Dev.missEdges a1 a2 a3 a4).ctrs := by
  unfold Dev.missEdges; exact (ite_canonical ha1 (Dev.recordLimited_canonical (Dev.set1_canonical (Dev.countN_canonical ha1))))

theorem Dev.skipEdges_canonical {a1 a2 a3} (ha1 : Canonical a1.flds a1.ctrs) :
    Canonical (Dev.skipEdges a1 a2 a3).flds (Dev.skipEdges a1 a2 a3).ctrs := by
  unfold Dev.skipEdges; exact (ite_canonical ha1 (ite_canonical (Dev.setPulse_canonical ha1) (Dev.setPulse_canonical ha1)))

theorem Dev.armPulse_canonical {a1 a2 a3 a4 a5} (ha1 : Canonical a1.flds a1.ctrs) :
    Canonical (Dev.armPulse a1 a2 a3 a4 a5).flds (Dev.armPulse a1 a2 a3 a4 a5).ctrs := by
  unfold Dev.armPulse; exact (ite_canonical ha1 (ite_canonical (Dev.setPulse_canonical (Dev.set1_canonical (Dev.set1_canonical (Dev.set1_canonical ha1)))) (ite_canonical ha1 (ite_canonical (ite_canonical (Dev.missEdges_canonical (Dev.setPulse_canonical (Dev.set1_canonical (Dev.set1_canonical (Dev.set1_canonical ha1))))) (Dev.setPulse_canonical (Dev.set1_canonical (Dev.set1_canonical (Dev.set1_canonical ha1))))) (ite_canonical (Dev.skipEdges_canonical (Dev.setPulse_canonical (Dev.set1_canonical (Dev.set1_canonical (Dev.set1_canonical ha1))))) (Dev.setPulse_canonical (Dev.set1_canonical (Dev.set1_canonical (Dev.set1_canonical ha1)))))))))

theorem Dev.setPtp_canonical {a1 a2 a3} (ha1 : Canonical a1.flds a1.ctrs) :
    Canonical (Dev.setPtp a1 a2 a3).flds (Dev.setPtp a1 a2 a3).ctrs := by
  unfold Dev.setPtp; exact (by (try dsimp only); exact ha1)

theorem Dev.ptpViolation_canonical {a1 a2 a3} (ha1 : Canonical a1.flds a1.ctrs) :
    Canonical (Dev.ptpViolation a1 a2 a3).flds (Dev.ptpViolation a1 a2 a3).ctrs := by
  unfold Dev.ptpViolation; exact (Dev.recordLimited_canonical ha1)

theorem Dev.chooseMaster_canonical {a1} (ha1 : Canonical a1.flds a1.ctrs) :
    Canonical (Dev.chooseMaster a1).flds (Dev.chooseMaster a1).ctrs := by
  unfold Dev.chooseMaster; exact (by (try dsimp only); split; (· exact (by (try dsimp only); exact ha1)); (· exact (by (try dsimp only); split; (· exact (ite_canonical (by (try dsimp only); exact ha1) (Dev.record_canonical (by (try dsimp only); exact ha1)))); (· exact (by (try dsimp only); exact ha1)))))

theorem Dev.writeClockMode_canonical {a1 a2} (ha1 : Canonical a1.flds a1.ctrs) :
    Canonical (Dev.writeClockMode a1 a2).flds (Dev.writeClockMode a1 a2).ctrs := by
  unfold Dev.writeClockMode; exact (Dev.set0_canonical (by (try dsimp only); exact ha1))

theorem Dev.acceptJump_canonical {a1} (ha1 : Canonical a1.flds a1.ctrs) :
    Canonical (Dev.acceptJump a1).flds (Dev.acceptJump a1).ctrs := by
  unfold Dev.acceptJump; exact (by split; (· exact (ite_canonical (Dev.set0_canonical (by (try dsimp only); exact (Dev.schedule_canonical ha1))) ha1)); (· exact ha1))

/-! ### `Buffer` -/

theorem Dev.startFabFlap_canonical {a1 a2} (ha1 : Canonical a1.flds a1.ctrs) :
    Canonical (Dev.startFabFlap a1 a2).flds (Dev.startFabFlap a1 a2).ctrs := by
  unfold Dev.startFabFlap; exact (ite_canonical ha1 (by (try dsimp only); exact ha1))

theorem Dev.deviceCopy_canonical {a1 a2 a3 a4} (ha1 : Canonical a1.flds a1.ctrs) :
    Canonical (Dev.deviceCopy a1 a2 a3 a4).1.flds (Dev.deviceCopy a1 a2 a3 a4).1.ctrs := by
  unfold Dev.deviceCopy; exact (by split; (· exact (by (try dsimp only); exact ha1)); (· exact (by (try dsimp only); exact (Dev.startFabFlap_canonical ha1))))

theorem Dev.forwardCopies_canonical {a1 a2 a3 a4 a5} (ha1 : Canonical a1.flds a1.ctrs) :
    Canonical (Dev.forwardCopies a1 a2 a3 a4 a5).1.flds (Dev.forwardCopies a1 a2 a3 a4 a5).1.ctrs := by
  unfold Dev.forwardCopies; exact (by split; (· exact (by (try dsimp only); exact ha1)); (· exact (by (try dsimp only); exact ha1)); (· exact (by (try dsimp only); exact (Dev.deviceCopy_canonical ha1))); (· exact (by (try dsimp only); exact ha1)); (· exact (by (try dsimp only); exact ha1)); (· exact (by (try dsimp only); exact ha1)); (· exact (by (try dsimp only); exact ha1)))

theorem Dev.mirrorCopy_canonical {a1 a2 a3 a4 a5} (ha1 : Canonical a1.flds a1.ctrs) :
    Canonical (Dev.mirrorCopy a1 a2 a3 a4 a5).1.flds (Dev.mirrorCopy a1 a2 a3 a4 a5).1.ctrs := by
  unfold Dev.mirrorCopy; exact (fst_ite_canonical (by (try dsimp only); exact (by (try dsimp only); exact ha1)) (fst_ite_canonical (by (try dsimp only); exact (Dev.count_canonical (by (try dsimp only); exact ha1))) (fst_ite_canonical (by split; (· exact (fst_ite_canonical (by (try dsimp only); exact (Dev.count_canonical (by (try dsimp only); exact ha1))) (by (try dsimp only); exact (Dev.count_canonical (by (try dsimp only); exact ha1))))); (· exact (by (try dsimp only); exact (Dev.count_canonical (by (try dsimp only); exact ha1))))) (fst_ite_canonical (by (try dsimp only); exact (Dev.count_canonical (by (try dsimp only); exact ha1))) (fst_ite_canonical (by (try dsimp only); exact (Dev.count_canonical (by (try dsimp only); exact ha1))) (by (try dsimp only); exact (by (try dsimp only); exact ha1)))))))

theorem Dev.mirrorCopies_canonical {a1 a2 a3 a4} (ha1 : Canonical a1.flds a1.ctrs) :
    Canonical (Dev.mirrorCopies a1 a2 a3 a4).1.flds (Dev.mirrorCopies a1 a2 a3 a4).1.ctrs := by
  unfold Dev.mirrorCopies; exact (by (try dsimp only); exact (fst_foldl_canonical (fun _ _ h1 => (fst_ite_canonical (by (try dsimp only); exact (Dev.mirrorCopy_canonical h1)) h1)) (by (try dsimp only); exact ha1)))

theorem Dev.linkAll_canonical {a1 a2 a3 a4 a5} (ha1 : Canonical a1.flds a1.ctrs) :
    Canonical (Dev.linkAll a1 a2 a3 a4 a5).flds (Dev.linkAll a1 a2 a3 a4 a5).ctrs := by
  unfold Dev.linkAll; exact (ite_canonical ha1 (foldl_canonical (fun _ _ h1 => (Dev.link_canonical h1)) (Dev.setChain_canonical ha1)))

theorem Dev.linkMirrors_canonical {a1 a2 a3 a4 a5 a6} (ha1 : Canonical a1.flds a1.ctrs) :
    Canonical (Dev.linkMirrors a1 a2 a3 a4 a5 a6).flds (Dev.linkMirrors a1 a2 a3 a4 a5 a6).ctrs := by
  unfold Dev.linkMirrors; exact (by split; (· exact (Dev.linkAll_canonical ha1)); (· exact (ite_canonical (Dev.linkAll_canonical ha1) (ite_canonical (Dev.count_canonical (by (try dsimp only); exact (Dev.linkAll_canonical ha1))) (Dev.linkAll_canonical (by (try dsimp only); exact (Dev.linkAll_canonical ha1)))))))

theorem Dev.dropLost_canonical {a1 a2 a3} (ha1 : Canonical a1.flds a1.ctrs) :
    Canonical (Dev.dropLost a1 a2 a3).flds (Dev.dropLost a1 a2 a3).ctrs := by
  unfold Dev.dropLost; exact (ite_canonical (Dev.noteIncomplete_canonical (ite_canonical (Dev.count_canonical (foldl_canonical (fun _ _ h1 => (Dev.perf_canonical (Dev.count_canonical h1))) ha1)) (Dev.count_canonical (foldl_canonical (fun _ _ h2 => (Dev.perf_canonical (Dev.count_canonical h2))) ha1)))) (ite_canonical (Dev.count_canonical (foldl_canonical (fun _ _ h3 => (Dev.perf_canonical (Dev.count_canonical h3))) ha1)) (Dev.count_canonical (foldl_canonical (fun _ _ h4 => (Dev.perf_canonical (Dev.count_canonical h4))) ha1))))

theorem execFrameLink_canonical {a1 s t} (h : Canonical s.dev.flds s.dev.ctrs) (e : execFrameLink a1 s = .next t) :
    Canonical t.dev.flds t.dev.ctrs := by
  unfold execFrameLink at e; exact run_canonical (fun _ h1 => (by split; (· exact h1); (· exact (by split; (· exact h1); (· exact (ite_canonical h1 (ite_canonical (Dev.dropLost_canonical (Dev.forwardCopies_canonical (Dev.setRx_canonical h1))) (Dev.linkMirrors_canonical (Dev.mirrorCopies_canonical (Dev.forwardCopies_canonical (Dev.setRx_canonical h1))))))))))) h e

theorem Dev.takeHead_canonical {a1 a2 a3 a4 a5} (ha1 : Canonical a1.flds a1.ctrs) :
    Canonical (Dev.takeHead a1 a2 a3 a4 a5).flds (Dev.takeHead a1 a2 a3 a4 a5).ctrs := by
  unfold Dev.takeHead; exact (ite_canonical (by (try dsimp only); exact (Dev.setQueue_canonical ha1)) (Dev.setDeficit_canonical (by (try dsimp only); exact (Dev.setQueue_canonical ha1))))

theorem Dev.dwrr_canonical {d : Dev} {p m cands n v} {e : Dev} (h : Canonical e.flds e.ctrs) :
    ∀ x, Dev.dwrr d p m cands n v e = some x → Canonical x.1.flds x.1.ctrs := by
  induction n generalizing v e with
  | zero => intro x hx; rw [Dev.dwrr] at hx; cases hx
  | succ n ih =>
    intro x hx
    rw [Dev.dwrr] at hx
    generalize cands.find? (fun c => decide (v ≤ c.1)) = o at hx
    cases o with
    | none =>
      by_cases hv : v = 0
      · rw [if_pos hv] at hx; cases hx
      · rw [if_neg hv] at hx; exact ih h x hx
    | some c =>
      dsimp only at hx
      have h1 : ∀ k, Canonical (e.setDeficit p c.1 k).flds (e.setDeficit p c.1 k).ctrs := fun k => Dev.setDeficit_canonical h
      split at hx
      · rw [Option.some.injEq] at hx; rw [← hx]; dsimp only; exact h1 _
      · exact ih (h1 _) x hx

theorem Dev.choose_canonical {d : Dev} {p m} (h : Canonical d.flds d.ctrs) :
    ∀ x, Dev.choose d p m = some x → Canonical x.1.flds x.1.ctrs := by
  intro x hx
  simp only [Dev.choose] at hx
  repeat' split at hx
  all_goals first
    | (cases hx; exact h)
    | exact Dev.dwrr_canonical h x hx

theorem execSchedulerPick_canonical {p m rd s t} (h : Canonical s.dev.flds s.dev.ctrs) (e : execSchedulerPick p m rd s = .next t) :
    Canonical t.dev.flds t.dev.ctrs := by
  unfold execSchedulerPick at e
  refine run_canonical (fun d h => ?_) h e
  refine ite_canonical h (ite_canonical ?_ (ite_canonical h ?_))
  · split
    · refine ite_canonical h ?_
      split
      · exact Dev.setQueue_canonical h
      · exact ite_canonical (Dev.emit_canonical (Dev.giveBack_canonical (Dev.readCells_canonical (Dev.setQueue_canonical h))))
          (Dev.giveBack_canonical (Dev.readCells_canonical (Dev.setQueue_canonical h)))
    · exact h
  · split
    · exact h
    · rename_i e
      exact ite_canonical (Dev.startNext_canonical (Dev.setMacq_canonical (Dev.takeHead_canonical (Dev.choose_canonical h _ e))))
        (Dev.setInflight_canonical (Dev.takeHead_canonical (Dev.choose_canonical h _ e)))

theorem Dev.countTxBytes_canonical {a1 a2 a3} (ha1 : Canonical a1.flds a1.ctrs) :
    Canonical (Dev.countTxBytes a1 a2 a3).flds (Dev.countTxBytes a1 a2 a3).ctrs := by
  unfold Dev.countTxBytes; exact (by (try dsimp only); exact ha1)

theorem Dev.abortTx_canonical {a1 a2 a3} (ha1 : Canonical a1.flds a1.ctrs) :
    Canonical (Dev.abortTx a1 a2 a3).flds (Dev.abortTx a1 a2 a3).ctrs := by
  unfold Dev.abortTx; exact (Dev.emit_canonical (Dev.countTxBytes_canonical (Dev.macCount_canonical ha1)))

theorem Dev.notePtpSent_canonical {a1 a2 a3} (ha1 : Canonical a1.flds a1.ctrs) :
    Canonical (Dev.notePtpSent a1 a2 a3).flds (Dev.notePtpSent a1 a2 a3).ctrs := by
  unfold Dev.notePtpSent; exact (ite_canonical (Dev.macCount_canonical (Dev.setMac_canonical ha1)) (Dev.setMac_canonical ha1))

theorem Dev.sendFrame_canonical {a1 a2 a3 a4 a5 a6 a7} (ha1 : Canonical a1.flds a1.ctrs) :
    Canonical (Dev.sendFrame a1 a2 a3 a4 a5 a6 a7).flds (Dev.sendFrame a1 a2 a3 a4 a5 a6 a7).ctrs := by
  unfold Dev.sendFrame; exact (by split; (· exact (Dev.eccLost_canonical (Dev.macCount_canonical ha1))); (· exact (Dev.eccBad_canonical (Dev.abortTx_canonical (ite_canonical (Dev.macCount_canonical (by split; (· exact (Dev.edited_canonical ha1)); (· exact (by (try dsimp only); exact (Dev.fabSeq_canonical (Dev.edited_canonical ha1)))))) (by split; (· exact (Dev.edited_canonical ha1)); (· exact (by (try dsimp only); exact (Dev.fabSeq_canonical (Dev.edited_canonical ha1))))))))); (· exact (ite_canonical (Dev.count_canonical (ite_canonical (Dev.macCount_canonical (by split; (· exact (Dev.edited_canonical ha1)); (· exact (by (try dsimp only); exact (Dev.fabSeq_canonical (Dev.edited_canonical ha1)))))) (by split; (· exact (Dev.edited_canonical ha1)); (· exact (by (try dsimp only); exact (Dev.fabSeq_canonical (Dev.edited_canonical ha1))))))) (ite_canonical (ite_canonical (Dev.emit_canonical (Dev.countTxBytes_canonical (Dev.e2eBad_canonical (ite_canonical (Dev.macCount_canonical (by split; (· exact (Dev.edited_canonical ha1)); (· exact (by (try dsimp only); exact (Dev.fabSeq_canonical (Dev.edited_canonical ha1)))))) (by split; (· exact (Dev.edited_canonical ha1)); (· exact (by (try dsimp only); exact (Dev.fabSeq_canonical (Dev.edited_canonical ha1))))))))) (Dev.e2eBad_canonical (Dev.abortTx_canonical (ite_canonical (Dev.macCount_canonical (by split; (· exact (Dev.edited_canonical ha1)); (· exact (by (try dsimp only); exact (Dev.fabSeq_canonical (Dev.edited_canonical ha1)))))) (by split; (· exact (Dev.edited_canonical ha1)); (· exact (by (try dsimp only); exact (Dev.fabSeq_canonical (Dev.edited_canonical ha1))))))))) (Dev.emit_canonical (Dev.noteSent_canonical (by split; (· exact (Dev.notePtpSent_canonical (by split; (· exact (Dev.pushTxts_canonical (Dev.ptpResidence_canonical (ite_canonical (Dev.macCount_canonical (by split; (· exact (Dev.edited_canonical ha1)); (· exact (by (try dsimp only); exact (Dev.fabSeq_canonical (Dev.edited_canonical ha1)))))) (by split; (· exact (Dev.edited_canonical ha1)); (· exact (by (try dsimp only); exact (Dev.fabSeq_canonical (Dev.edited_canonical ha1))))))))); (· exact (Dev.ptpResidence_canonical (ite_canonical (Dev.macCount_canonical (by split; (· exact (Dev.edited_canonical ha1)); (· exact (by (try dsimp only); exact (Dev.fabSeq_canonical (Dev.edited_canonical ha1)))))) (by split; (· exact (Dev.edited_canonical ha1)); (· exact (by (try dsimp only); exact (Dev.fabSeq_canonical (Dev.edited_canonical ha1))))))))))); (· exact (by split; (· exact (Dev.pushTxts_canonical (Dev.ptpResidence_canonical (ite_canonical (Dev.macCount_canonical (by split; (· exact (Dev.edited_canonical ha1)); (· exact (by (try dsimp only); exact (Dev.fabSeq_canonical (Dev.edited_canonical ha1)))))) (by split; (· exact (Dev.edited_canonical ha1)); (· exact (by (try dsimp only); exact (Dev.fabSeq_canonical (Dev.edited_canonical ha1))))))))); (· exact (Dev.ptpResidence_canonical (ite_canonical (Dev.macCount_canonical (by split; (· exact (Dev.edited_canonical ha1)); (· exact (by (try dsimp only); exact (Dev.fabSeq_canonical (Dev.edited_canonical ha1)))))) (by split; (· exact (Dev.edited_canonical ha1)); (· exact (by (try dsimp only); exact (Dev.fabSeq_canonical (Dev.edited_canonical ha1)))))))))))))))))

theorem Dev.recirculate_canonical {a1 a2 a3 a4 a5 a6} (ha1 : Canonical a1.flds a1.ctrs) :
    Canonical (Dev.recirculate a1 a2 a3 a4 a5 a6).flds (Dev.recirculate a1 a2 a3 a4 a5 a6).ctrs := by
  unfold Dev.recirculate; exact (ite_canonical (Dev.readCells_canonical (Dev.edited_canonical ha1)) (ite_canonical (Dev.perf_canonical (Dev.notePeak_canonical (Dev.setRx_canonical (by (try dsimp only); exact (Dev.readCells_canonical (Dev.edited_canonical ha1)))))) (Dev.perf_canonical (Dev.perf_canonical (Dev.notePeak_canonical (Dev.setRx_canonical (by (try dsimp only); exact (Dev.readCells_canonical (Dev.edited_canonical ha1)))))))))

theorem Dev.sendOwn_canonical {a1 a2 a3 a4} (ha1 : Canonical a1.flds a1.ctrs) :
    Canonical (Dev.sendOwn a1 a2 a3 a4).flds (Dev.sendOwn a1 a2 a3 a4).ctrs := by
  unfold Dev.sendOwn; exact (ite_canonical (by split; (· exact (Dev.emit_canonical (Dev.noteSent_canonical (ite_canonical (Dev.macCount_canonical ha1) ha1)))); (· exact (Dev.emit_canonical (Dev.noteSent_canonical ha1)))) (ite_canonical (Dev.count_canonical ha1) (Dev.emit_canonical (Dev.noteSent_canonical (Dev.notePtpSent_canonical (Dev.setMac_canonical (ite_canonical (Dev.pushTxts_canonical (ite_canonical (Dev.count_canonical ha1) ha1)) (ite_canonical (Dev.count_canonical ha1) ha1))))))))

theorem execFrameTransmit_canonical {a1 a2 a3 a4 s t} (h : Canonical s.dev.flds s.dev.ctrs) (e : execFrameTransmit a1 a2 a3 a4 s = .next t) :
    Canonical t.dev.flds t.dev.ctrs := by
  unfold execFrameTransmit at e; exact run_canonical (fun _ h1 => (ite_canonical h1 (by (try dsimp only); split; (· exact h1); (· exact (Dev.startNext_canonical (Dev.sendOwn_canonical (Dev.setMac_canonical h1)))); (· exact (by (try dsimp only); split; (· exact (Dev.startNext_canonical (Dev.setInflight_canonical h1))); (· exact (Dev.startNext_canonical (Dev.giveBack_canonical (ite_canonical (Dev.sendFrame_canonical (Dev.readTraffic_canonical (Dev.eccCorrected_canonical (Dev.setInflight_canonical h1)))) (Dev.recirculate_canonical (Dev.setInflight_canonical h1))))))))))) h e

theorem execFlapTimerExpire_canonical {a1 s t} (h : Canonical s.dev.flds s.dev.ctrs) (e : execFlapTimerExpire a1 s = .next t) :
    Canonical t.dev.flds t.dev.ctrs := by
  unfold execFlapTimerExpire at e; exact run_canonical (fun _ h1 => (ite_canonical (Dev.expirePort_canonical h1) h1)) h e

theorem Dev.expireDevice_canonical {a1 a2} (ha1 : Canonical a1.flds a1.ctrs) :
    Canonical (Dev.expireDevice a1 a2).flds (Dev.expireDevice a1 a2).ctrs := by
  unfold Dev.expireDevice; exact (foldl_canonical (fun _ _ h1 => (ite_canonical (Dev.flushQueue_canonical h1) (Dev.queueToHold_canonical h1))) (by (try dsimp only); exact ha1))

theorem execFabricDestFlapExpire_canonical {a1 s t} (h : Canonical s.dev.flds s.dev.ctrs) (e : execFabricDestFlapExpire a1 s = .next t) :
    Canonical t.dev.flds t.dev.ctrs := by
  unfold execFabricDestFlapExpire at e; exact run_canonical (fun _ h1 => (ite_canonical (Dev.expireDevice_canonical h1) h1)) h e

theorem execBufLinkMemoryFailed_canonical {a1 s t} (h : Canonical s.dev.flds s.dev.ctrs) (e : execBufLinkMemoryFailed a1 s = .next t) :
    Canonical t.dev.flds t.dev.ctrs := by
  unfold execBufLinkMemoryFailed at e; exact run_canonical (fun _ h1 => (Dev.winterCause_canonical (Dev.record_canonical (Dev.set0_canonical (Dev.set0_canonical (Dev.set0_canonical (by (try dsimp only); exact h1))))))) h e

theorem Dev.floorWrite_canonical {a1 a2 a3 a4} (ha1 : Canonical a1.flds a1.ctrs) (ha4 : ∀ x1, Canonical x1.flds x1.ctrs → Canonical (a4 x1).flds (a4 x1).ctrs) :
    Canonical (Dev.floorWrite a1 a2 a3 a4).flds (Dev.floorWrite a1 a2 a3 a4).ctrs := by
  unfold Dev.floorWrite; exact (ite_canonical (Dev.record_canonical (Dev.set0_canonical ha1)) (ha4 _ ha1))

theorem Dev.writeReserve_canonical {a1 a2} (ha1 : Canonical a1.flds a1.ctrs) :
    Canonical (Dev.writeReserve a1 a2).flds (Dev.writeReserve a1 a2).ctrs := by
  unfold Dev.writeReserve; exact (ite_canonical (Dev.floorWrite_canonical ha1 (fun _ h1 => (Dev.set0_canonical h1))) ha1)

theorem execBufArrivalReserveWrite_canonical {a1 a2 s t} (h : Canonical s.dev.flds s.dev.ctrs) (e : execBufArrivalReserveWrite a1 a2 s = .next t) :
    Canonical t.dev.flds t.dev.ctrs := by
  unfold execBufArrivalReserveWrite at e; exact run_canonical (fun _ h1 => (Dev.onWrite_canonical h1 (fun _ h2 => (Dev.writeReserve_canonical h2)))) h e

theorem Dev.nextCapture_canonical {a1 a2} (ha1 : Canonical a1.flds a1.ctrs) :
    Canonical (Dev.nextCapture a1 a2).flds (Dev.nextCapture a1 a2).ctrs := by
  unfold Dev.nextCapture; exact (ite_canonical (Dev.set0_canonical (by (try dsimp only); exact ha1)) (by (try dsimp only); exact ha1))

theorem execCaptureRecordWrite_canonical {a1 s t} (h : Canonical s.dev.flds s.dev.ctrs) (e : execCaptureRecordWrite a1 s = .next t) :
    Canonical t.dev.flds t.dev.ctrs := by
  unfold execCaptureRecordWrite at e; exact run_canonical (fun _ h1 => (by (try dsimp only); split; (· exact h1); (· exact (ite_canonical (ite_canonical h1 (Dev.nextCapture_canonical (ite_canonical (Dev.noteRowWrite_canonical (by (try dsimp only); exact h1)) (Dev.defer_canonical (by (try dsimp only); exact h1))))) (ite_canonical h1 (ite_canonical (Dev.record_canonical (Dev.set0_canonical (Dev.set0_canonical h1))) (Dev.emit_canonical (Dev.nextCapture_canonical h1)))))))) h e

end Sys2Proof.Machine
end

