-- ==== Sys2Proof/Laws/CanonicalSystem.lean ====
section
/-! SUPPORT. Each function of one kind keeps the registers and counters in their one form: the mailbox, images, lanes,
monitors, recorder and WINTER. -/

set_option linter.all false
namespace Sys2Proof.Machine

/-! ### `MbxOps` -/

theorem Dev.reply_canonical {a1 a2 a3 a4 a5} (ha1 : Canonical a1.flds a1.ctrs) :
    Canonical (Dev.reply a1 a2 a3 a4 a5).flds (Dev.reply a1 a2 a3 a4 a5).ctrs := by
  unfold Dev.reply; exact (foldl_canonical (fun _ _ h1 => (Dev.f2hPost_canonical h1)) (ite_canonical (by (try dsimp only); exact ha1) ha1))

theorem Dev.mbxViolation_canonical {a1 a2 a3 a4} (ha1 : Canonical a1.flds a1.ctrs) :
    Canonical (Dev.mbxViolation a1 a2 a3 a4).flds (Dev.mbxViolation a1 a2 a3 a4).ctrs := by
  unfold Dev.mbxViolation; exact (Dev.recordLimited_canonical ha1)

theorem Dev.dropDelivered_canonical {a1 a2} (ha1 : Canonical a1.flds a1.ctrs) :
    Canonical (Dev.dropDelivered a1 a2).flds (Dev.dropDelivered a1 a2).ctrs := by
  unfold Dev.dropDelivered; exact (ite_canonical ha1 (Dev.record_canonical (Dev.noteLost_canonical (Dev.count_canonical (Dev.set1_canonical (Dev.set1_canonical ha1))))))

theorem Dev.senderDown_canonical {a1 a2} (ha1 : Canonical a1.flds a1.ctrs) :
    Canonical (Dev.senderDown a1 a2).flds (Dev.senderDown a1 a2).ctrs := by
  unfold Dev.senderDown; exact (foldl_canonical (fun _ _ h1 => (Dev.dropDelivered_canonical h1)) (by (try dsimp only); exact ha1))

theorem Dev.hostDomainDown_canonical {a1} (ha1 : Canonical a1.flds a1.ctrs) :
    Canonical (Dev.hostDomainDown a1).flds (Dev.hostDomainDown a1).ctrs := by
  unfold Dev.hostDomainDown; exact (Dev.senderDown_canonical ha1)

theorem Dev.loseRequest_canonical {a1 a2 a3} (ha1 : Canonical a1.flds a1.ctrs) :
    Canonical (Dev.loseRequest a1 a2 a3).flds (Dev.loseRequest a1 a2 a3).ctrs := by
  unfold Dev.loseRequest; exact (Dev.noteLost_canonical (Dev.count_canonical (Dev.set1_canonical (Dev.set1_canonical ha1))))

theorem Dev.firmwareDown_canonical {a1} (ha1 : Canonical a1.flds a1.ctrs) :
    Canonical (Dev.firmwareDown a1).flds (Dev.firmwareDown a1).ctrs := by
  unfold Dev.firmwareDown; exact (ite_canonical ha1 (by (try dsimp only); exact (foldl_canonical (fun _ _ h1 => (Dev.set1_canonical (foldl_canonical (fun _ _ h2 => (Dev.loseRequest_canonical h2)) h1))) (Dev.set0_canonical ha1))))

theorem Dev.firmwareUp_canonical {a1} (ha1 : Canonical a1.flds a1.ctrs) :
    Canonical (Dev.firmwareUp a1).flds (Dev.firmwareUp a1).ctrs := by
  unfold Dev.firmwareUp; exact (Dev.doorbell_canonical (Dev.set0_canonical ha1))

theorem Dev.postLostNotice_canonical {a1} (ha1 : Canonical a1.flds a1.ctrs) :
    Canonical (Dev.postLostNotice a1).flds (Dev.postLostNotice a1).ctrs := by
  unfold Dev.postLostNotice; exact (by split; (· exact (ite_canonical (Dev.notice_canonical (by (try dsimp only); exact ha1)) ha1)); (· exact ha1))

theorem Dev.dropChallenge_canonical {a1 a2 a3} (ha1 : Canonical a1.flds a1.ctrs) :
    Canonical (Dev.dropChallenge a1 a2 a3).flds (Dev.dropChallenge a1 a2 a3).ctrs := by
  unfold Dev.dropChallenge; exact (by (try dsimp only); exact ha1)

theorem Dev.badResponse_canonical {a1 a2 a3} (ha1 : Canonical a1.flds a1.ctrs) :
    Canonical (Dev.badResponse a1 a2 a3).flds (Dev.badResponse a1 a2 a3).ctrs := by
  unfold Dev.badResponse; exact (ite_canonical (Dev.record_canonical (Dev.set0_canonical (by (try dsimp only); exact (Dev.record_canonical (Dev.count_canonical ha1))))) (by (try dsimp only); exact (Dev.record_canonical (Dev.count_canonical ha1))))

theorem Dev.releaseLocks_canonical {a1 a2 a3} (ha1 : Canonical a1.flds a1.ctrs) :
    Canonical (Dev.releaseLocks a1 a2 a3).flds (Dev.releaseLocks a1 a2 a3).ctrs := by
  unfold Dev.releaseLocks; exact (foldl_canonical (fun _ _ h1 => (ite_canonical (ite_canonical (Dev.record_canonical (Dev.set1_canonical h1)) (Dev.record_canonical (Dev.set1_canonical h1))) h1)) ha1)

/-! ### `ImageOps` -/

theorem Dev.withSections_canonical {a1 a2} (ha1 : Canonical a1.flds a1.ctrs) :
    Canonical (Dev.withSections a1 a2).flds (Dev.withSections a1 a2).ctrs := by
  unfold Dev.withSections; exact (by (try dsimp only); exact ha1)

theorem Dev.portInfo_canonical {a1 a2} (ha1 : Canonical a1.flds a1.ctrs) :
    Canonical (Dev.portInfo a1 a2).flds (Dev.portInfo a1 a2).ctrs := by
  unfold Dev.portInfo; exact (ite_canonical (Dev.set1_canonical (Dev.set1_canonical (Dev.set1_canonical (Dev.set1_canonical ha1)))) (ite_canonical (Dev.set1_canonical (Dev.set1_canonical (Dev.set1_canonical (Dev.set1_canonical (Dev.set1_canonical ha1))))) (Dev.dropAn_canonical (Dev.set1_canonical (Dev.set1_canonical (Dev.set1_canonical (Dev.set1_canonical ha1)))))))

theorem Dev.noteLoad_canonical {a1 a2} (ha1 : Canonical a1.flds a1.ctrs) :
    Canonical (Dev.noteLoad a1 a2).flds (Dev.noteLoad a1 a2).ctrs := by
  unfold Dev.noteLoad; exact (ite_canonical (Dev.record_canonical ha1) ha1)

theorem Dev.noteRefused_canonical {a1 a2 a3} (ha1 : Canonical a1.flds a1.ctrs) :
    Canonical (Dev.noteRefused a1 a2 a3).flds (Dev.noteRefused a1 a2 a3).ctrs := by
  unfold Dev.noteRefused; exact (Dev.record_canonical ha1)

theorem Dev.portLimits_canonical {a1 a2} (ha1 : Canonical a1.flds a1.ctrs) :
    Canonical (Dev.portLimits a1 a2).flds (Dev.portLimits a1 a2).ctrs := by
  unfold Dev.portLimits; exact (Dev.setFld_canonical (Dev.set1_canonical ha1))

theorem Dev.portStart_canonical {a1 a2} (ha1 : Canonical a1.flds a1.ctrs) :
    Canonical (Dev.portStart a1 a2).flds (Dev.portStart a1 a2).ctrs := by
  unfold Dev.portStart; exact (ite_canonical ha1 (Dev.set1_canonical (Dev.set1_canonical (Dev.set1_canonical (Dev.set1_canonical (Dev.set1_canonical (Dev.set1_canonical (Dev.set1_canonical (Dev.setMac_canonical ha1)))))))))

theorem Dev.takeTime_canonical {a1} (ha1 : Canonical a1.flds a1.ctrs) :
    Canonical (Dev.takeTime a1).flds (Dev.takeTime a1).ctrs := by
  unfold Dev.takeTime; exact (ite_canonical ha1 (Dev.set0_canonical (Dev.set0_canonical (Dev.set0_canonical ha1))))

theorem Dev.takeCal_canonical {a1 a2 a3} (ha1 : Canonical a1.flds a1.ctrs) :
    Canonical (Dev.takeCal a1 a2 a3).flds (Dev.takeCal a1 a2 a3).ctrs := by
  unfold Dev.takeCal; exact (ite_canonical (ite_canonical (Dev.noteClamp_canonical (ite_canonical (Dev.set1_canonical ha1) (Dev.set1_canonical ha1))) (ite_canonical (Dev.set1_canonical ha1) (Dev.set1_canonical ha1))) (ite_canonical (ite_canonical (Dev.noteClamp_canonical (Dev.set1_canonical ha1)) (Dev.set1_canonical ha1)) (ite_canonical (ite_canonical (Dev.noteClamp_canonical (Dev.set1_canonical ha1)) (Dev.set1_canonical ha1)) (ite_canonical (Dev.set1_canonical (Dev.set1_canonical (Dev.set1_canonical (Dev.set1_canonical (Dev.set1_canonical ha1))))) (ite_canonical (ite_canonical (Dev.noteClamp_canonical (ite_canonical (Dev.setFld_canonical ha1) (Dev.setFld_canonical ha1))) (ite_canonical (Dev.setFld_canonical ha1) (Dev.setFld_canonical ha1))) (ite_canonical (Dev.noteClamp_canonical (Dev.set1_canonical ha1)) (Dev.set1_canonical ha1)))))))

theorem Dev.takeCals_canonical {a1 a2} (ha1 : Canonical a1.flds a1.ctrs) :
    Canonical (Dev.takeCals a1 a2).flds (Dev.takeCals a1 a2).ctrs := by
  unfold Dev.takeCals; exact (foldl_canonical (fun _ _ h1 => (Dev.takeCal_canonical h1)) ha1)

theorem Dev.startMembers_canonical {a1} (ha1 : Canonical a1.flds a1.ctrs) :
    Canonical (Dev.startMembers a1).flds (Dev.startMembers a1).ctrs := by
  unfold Dev.startMembers; exact (Dev.set0_canonical (by (try dsimp only); exact (Dev.set0_canonical (Dev.set0_canonical (Dev.set0_canonical ha1)))))

theorem Dev.install_canonical {a1 a2} (ha1 : Canonical a1.flds a1.ctrs) :
    Canonical (Dev.install a1 a2).flds (Dev.install a1 a2).ctrs := by
  unfold Dev.install; exact (foldl_canonical (fun _ _ h1 => (Dev.portInfo_canonical h1)) (by (try dsimp only); exact ha1))

theorem Dev.nameImage_canonical {a1 a2 a3 a4} (ha1 : Canonical a1.flds a1.ctrs) :
    Canonical (Dev.nameImage a1 a2 a3 a4).flds (Dev.nameImage a1 a2 a3 a4).ctrs := by
  unfold Dev.nameImage; exact (Dev.set0_canonical (Dev.set0_canonical (foldl_canonical (fun _ _ h1 => (Dev.set1_canonical h1)) (Dev.set0_canonical (Dev.set0_canonical (Dev.set0_canonical (Dev.set0_canonical ha1)))))))

theorem Dev.startBringup_canonical {a1} (ha1 : Canonical a1.flds a1.ctrs) :
    Canonical (Dev.startBringup a1).flds (Dev.startBringup a1).ctrs := by
  unfold Dev.startBringup; exact (Dev.set0_canonical (by (try dsimp only); exact ha1))

theorem Dev.takeBoard_canonical {a1 a2} (ha1 : Canonical a1.flds a1.ctrs) :
    Canonical (Dev.takeBoard a1 a2).flds (Dev.takeBoard a1 a2).ctrs := by
  unfold Dev.takeBoard; exact (by (try dsimp only); exact ha1)

theorem Dev.commit_canonical {a1 a2 a3 a4 a5} (ha1 : Canonical a1.flds a1.ctrs) :
    Canonical (Dev.commit a1 a2 a3 a4 a5).flds (Dev.commit a1 a2 a3 a4 a5).ctrs := by
  unfold Dev.commit; exact (Dev.record_canonical (Dev.set0_canonical (by (try dsimp only); exact (Dev.takeBoard_canonical (Dev.startBringup_canonical (Dev.nameImage_canonical (Dev.startMembers_canonical (ite_canonical (ite_canonical (Dev.takeTime_canonical (foldl_canonical (fun _ _ h1 => (Dev.portStart_canonical (Dev.portLimits_canonical h1))) (Dev.install_canonical ha1))) (Dev.set0_canonical (Dev.takeTime_canonical (foldl_canonical (fun _ _ h2 => (Dev.portStart_canonical (Dev.portLimits_canonical h2))) (Dev.install_canonical ha1))))) (Dev.takeCals_canonical (ite_canonical (Dev.takeTime_canonical (foldl_canonical (fun _ _ h3 => (Dev.portStart_canonical (Dev.portLimits_canonical h3))) (Dev.install_canonical ha1))) (Dev.set0_canonical (Dev.takeTime_canonical (foldl_canonical (fun _ _ h4 => (Dev.portStart_canonical (Dev.portLimits_canonical h4))) (Dev.install_canonical ha1))))))))))))))

theorem Dev.recommit_canonical {a1 a2} (ha1 : Canonical a1.flds a1.ctrs) :
    Canonical (Dev.recommit a1 a2).flds (Dev.recommit a1 a2).ctrs := by
  unfold Dev.recommit; exact (Dev.startBringup_canonical (Dev.nameImage_canonical (Dev.takeTime_canonical (foldl_canonical (fun _ _ h1 => (Dev.portStart_canonical h1)) (foldl_canonical (fun _ _ h2 => (Dev.portLimits_canonical h2)) (Dev.install_canonical ha1))))))

theorem Dev.endTrying_canonical {a1} (ha1 : Canonical a1.flds a1.ctrs) :
    Canonical (Dev.endTrying a1).flds (Dev.endTrying a1).ctrs := by
  unfold Dev.endTrying; exact (foldl_canonical (fun _ _ h1 => (ite_canonical (Dev.slotState_canonical h1) h1)) ha1)

theorem Dev.slotFailed_canonical {a1 a2 a3} (ha1 : Canonical a1.flds a1.ctrs) :
    Canonical (Dev.slotFailed a1 a2 a3).flds (Dev.slotFailed a1 a2 a3).ctrs := by
  unfold Dev.slotFailed; exact (Dev.record_canonical (Dev.noteRefused_canonical (Dev.slotState_canonical ha1)))

theorem Dev.trySlots_canonical {lost l} {d : Dev} (h : Canonical d.flds d.ctrs) :
    Canonical (Dev.trySlots lost l d).1.flds (Dev.trySlots lost l d).1.ctrs := by
  induction l generalizing d with
  | nil => exact h
  | cons s l ih =>
    simp only [Dev.trySlots]
    split
    · exact ih (Dev.slotFailed_canonical h)
    · exact Dev.noteLoad_canonical h

theorem Dev.slotSelect_canonical {a1 a2} (ha1 : Canonical a1.flds a1.ctrs) :
    Canonical (Dev.slotSelect a1 a2).1.flds (Dev.slotSelect a1 a2).1.ctrs := by
  unfold Dev.slotSelect; exact (fst_ite_canonical (by (try dsimp only); exact ha1) (by (try dsimp only); split; (· exact (by (try dsimp only); exact (Dev.trySlots_canonical (foldl_canonical (fun _ _ h1 => (Dev.slotState_canonical h1)) (Dev.endTrying_canonical ha1))))); (· exact (Dev.trySlots_canonical (Dev.trySlots_canonical (foldl_canonical (fun _ _ h2 => (Dev.slotState_canonical h2)) (Dev.endTrying_canonical ha1)))))))

theorem Dev.spiImage_canonical {a1 a2} (ha1 : Canonical a1.flds a1.ctrs) :
    Canonical (Dev.spiImage a1 a2).1.flds (Dev.spiImage a1 a2).1.ctrs := by
  unfold Dev.spiImage; exact (by split; (· exact (by (try dsimp only); exact ha1)); (· exact (by split; (· exact (by (try dsimp only); exact (Dev.noteRefused_canonical ha1))); (· exact (by (try dsimp only); exact (Dev.noteLoad_canonical ha1))))))

/-! ### `Lanes` -/

theorem Dev.startTurn_canonical {a1 a2} (ha1 : Canonical a1.flds a1.ctrs) :
    Canonical (Dev.startTurn a1 a2).flds (Dev.startTurn a1 a2).ctrs := by
  unfold Dev.startTurn; exact (by split; (· exact (Dev.setTurn_canonical ha1)); (· exact (Dev.satInc_canonical (Dev.set1_canonical (Dev.set1_canonical (Dev.set1_canonical (Dev.set1_canonical (Dev.set1_canonical (Dev.setTurn_canonical ha1)))))))))

theorem execShadowTurnStart_canonical {a1 s t} (h : Canonical s.dev.flds s.dev.ctrs) (e : execShadowTurnStart a1 s = .next t) :
    Canonical t.dev.flds t.dev.ctrs := by
  unfold execShadowTurnStart at e; exact run_canonical (fun _ h1 => (ite_canonical (Dev.startTurn_canonical h1) h1)) h e

theorem Dev.writeShadowCtrl_canonical {a1 a2 a3 a4 a5} (ha1 : Canonical a1.flds a1.ctrs) :
    Canonical (Dev.writeShadowCtrl a1 a2 a3 a4 a5).flds (Dev.writeShadowCtrl a1 a2 a3 a4 a5).ctrs := by
  unfold Dev.writeShadowCtrl; exact (ite_canonical (Dev.startTurn_canonical (ite_canonical (Dev.set1_canonical (ite_canonical (Dev.set1_canonical (Dev.set1_canonical (Dev.set1_canonical ha1))) (Dev.set1_canonical ha1))) (ite_canonical (Dev.set1_canonical (Dev.set1_canonical (Dev.set1_canonical ha1))) (Dev.set1_canonical ha1)))) (ite_canonical (Dev.set1_canonical (ite_canonical (Dev.set1_canonical (Dev.set1_canonical (Dev.set1_canonical ha1))) (Dev.set1_canonical ha1))) (ite_canonical (Dev.set1_canonical (Dev.set1_canonical (Dev.set1_canonical ha1))) (Dev.set1_canonical ha1))))

theorem execShadowTurnNow_canonical {a1 a2 s t} (h : Canonical s.dev.flds s.dev.ctrs) (e : execShadowTurnNow a1 a2 s = .next t) :
    Canonical t.dev.flds t.dev.ctrs := by
  unfold execShadowTurnNow at e; exact run_canonical (fun _ h1 => (Dev.onWrite_canonical h1 (fun _ h2 => (Dev.writeShadowCtrl_canonical h2)))) h e

theorem execShadowAdaptDone_canonical {a1 s t} (h : Canonical s.dev.flds s.dev.ctrs) (e : execShadowAdaptDone a1 s = .next t) :
    Canonical t.dev.flds t.dev.ctrs := by
  unfold execShadowAdaptDone at e; exact run_canonical (fun _ h1 => (ite_canonical (Dev.set1_canonical (Dev.setTurn_canonical h1)) h1)) h e

theorem execShadowAdaptTimeout_canonical {a1 s t} (h : Canonical s.dev.flds s.dev.ctrs) (e : execShadowAdaptTimeout a1 s = .next t) :
    Canonical t.dev.flds t.dev.ctrs := by
  unfold execShadowAdaptTimeout at e; exact run_canonical (fun _ h1 => (ite_canonical (Dev.abandonTurn_canonical h1) h1)) h e

theorem Dev.consumeSpare_canonical {a1 a2 a3 a4 a5 a6} (ha1 : Canonical a1.flds a1.ctrs) :
    Canonical (Dev.consumeSpare a1 a2 a3 a4 a5 a6).flds (Dev.consumeSpare a1 a2 a3 a4 a5 a6).ctrs := by
  unfold Dev.consumeSpare; exact (Dev.autumn_canonical (Dev.raise_canonical (Dev.record_canonical (Dev.setBit_canonical (Dev.set1_canonical (Dev.set1_canonical (Dev.set1_canonical (Dev.set1_canonical ha1))))))))

theorem Dev.undecided_canonical {a1 a2 a3 a4 a5} (ha1 : Canonical a1.flds a1.ctrs) :
    Canonical (Dev.undecided a1 a2 a3 a4 a5).flds (Dev.undecided a1 a2 a3 a4 a5).ctrs := by
  unfold Dev.undecided; exact (Dev.detach_canonical (ite_canonical (Dev.raise_canonical (Dev.record_canonical (Dev.satInc_canonical (Dev.setTurn_canonical ha1)))) (Dev.satInc_canonical (Dev.setTurn_canonical ha1))))

theorem Dev.decided_canonical {a1 a2} (ha1 : Canonical a1.flds a1.ctrs) :
    Canonical (Dev.decided a1 a2).flds (Dev.decided a1 a2).ctrs := by
  unfold Dev.decided; exact (Dev.setTurn_canonical ha1)

theorem execShadowVerifyEnd_canonical {a1 a2 a3 a4 s t} (h : Canonical s.dev.flds s.dev.ctrs) (e : execShadowVerifyEnd a1 a2 a3 a4 s = .next t) :
    Canonical t.dev.flds t.dev.ctrs := by
  unfold execShadowVerifyEnd at e; exact run_canonical (fun _ h1 => (ite_canonical h1 (ite_canonical (Dev.undecided_canonical (ite_canonical (Dev.satInc_canonical (Dev.set1_canonical h1)) (Dev.set1_canonical h1))) (ite_canonical (Dev.set1_canonical (Dev.setTurn_canonical (Dev.decided_canonical (ite_canonical (Dev.satInc_canonical (Dev.set1_canonical h1)) (Dev.set1_canonical h1))))) (ite_canonical (Dev.set1_canonical (Dev.setTurn_canonical (Dev.decided_canonical (ite_canonical (Dev.satInc_canonical (Dev.set1_canonical h1)) (Dev.set1_canonical h1))))) (ite_canonical (ite_canonical (Dev.set1_canonical (Dev.set1_canonical (Dev.setTurn_canonical (ite_canonical (Dev.satInc_canonical (Dev.set1_canonical h1)) (Dev.set1_canonical h1))))) (Dev.set1_canonical (Dev.detach_canonical (Dev.consumeSpare_canonical (Dev.decided_canonical (ite_canonical (Dev.satInc_canonical (Dev.set1_canonical h1)) (Dev.set1_canonical h1))))))) (Dev.undecided_canonical (ite_canonical (Dev.satInc_canonical (Dev.set1_canonical h1)) (Dev.set1_canonical h1))))))))) h e

theorem execLaneSwap_canonical {a1 a2 s t} (h : Canonical s.dev.flds s.dev.ctrs) (e : execLaneSwap a1 a2 s = .next t) :
    Canonical t.dev.flds t.dev.ctrs := by
  unfold execLaneSwap at e; exact run_canonical (fun _ h1 => (ite_canonical h1 (ite_canonical (Dev.setTurn_canonical h1) (ite_canonical (Dev.set1_canonical (Dev.set1_canonical (Dev.detach_canonical (Dev.consumeSpare_canonical (Dev.adaptRx_canonical (Dev.calibrated_canonical (Dev.satInc_canonical (Dev.set1_canonical (Dev.setTurn_canonical h1))))))))) (Dev.set1_canonical (Dev.detach_canonical (Dev.adaptRx_canonical (Dev.calibrated_canonical (Dev.satInc_canonical (Dev.set1_canonical (Dev.setTurn_canonical h1))))))))))) h e

theorem execSwapDeferExhausted_canonical {a1 s t} (h : Canonical s.dev.flds s.dev.ctrs) (e : execSwapDeferExhausted a1 s = .next t) :
    Canonical t.dev.flds t.dev.ctrs := by
  unfold execSwapDeferExhausted at e; exact run_canonical (fun _ h1 => (ite_canonical (Dev.abandonTurn_canonical h1) h1)) h e

theorem Dev.exhaustCluster_canonical {a1 a2 a3} (ha1 : Canonical a1.flds a1.ctrs) :
    Canonical (Dev.exhaustCluster a1 a2 a3).flds (Dev.exhaustCluster a1 a2 a3).ctrs := by
  unfold Dev.exhaustCluster; exact (Dev.isolateRegion_canonical (Dev.raise_canonical (Dev.record_canonical (Dev.setBit_canonical (Dev.set1_canonical ha1)))))

theorem Dev.isolateSlice_canonical {a1 a2 a3} (ha1 : Canonical a1.flds a1.ctrs) :
    Canonical (Dev.isolateSlice a1 a2 a3).flds (Dev.isolateSlice a1 a2 a3).ctrs := by
  unfold Dev.isolateSlice; exact (ite_canonical ha1 (ite_canonical (ite_canonical (Dev.exhaustCluster_canonical ha1) ha1) (ite_canonical (Dev.setBit_canonical (Dev.set1_canonical (Dev.detach_canonical (Dev.consumeSpare_canonical ha1)))) (by split; (· exact ha1); (· exact (ite_canonical (Dev.exhaustCluster_canonical ha1) (Dev.consumeSpare_canonical (Dev.set1_canonical (Dev.set1_canonical (Dev.set1_canonical (Dev.setTurn_canonical (Dev.setBit_canonical (Dev.detach_canonical (Dev.linkDown_canonical (Dev.set1_canonical ha1)))))))))))))))

theorem execSliceFaultIsolate_canonical {a1 a2 s t} (h : Canonical s.dev.flds s.dev.ctrs) (e : execSliceFaultIsolate a1 a2 s = .next t) :
    Canonical t.dev.flds t.dev.ctrs := by
  unfold execSliceFaultIsolate at e; exact run_canonical (fun _ h1 => (foldl_canonical (fun _ _ h2 => (ite_canonical (Dev.isolateSlice_canonical h2) h2)) h1)) h e

theorem execShadowTakeoverLock_canonical {a1 a2 s t} (h : Canonical s.dev.flds s.dev.ctrs) (e : execShadowTakeoverLock a1 a2 s = .next t) :
    Canonical t.dev.flds t.dev.ctrs := by
  unfold execShadowTakeoverLock at e; exact run_canonical (fun _ h1 => (ite_canonical h1 (Dev.set1_canonical (Dev.detach_canonical (Dev.setTurn_canonical (Dev.set1_canonical (Dev.set1_canonical h1))))))) h e

theorem execRxLpiChange_canonical {a1 a2 s t} (h : Canonical s.dev.flds s.dev.ctrs) (e : execRxLpiChange a1 a2 s = .next t) :
    Canonical t.dev.flds t.dev.ctrs := by
  unfold execRxLpiChange at e; exact run_canonical (fun _ h1 => (ite_canonical (Dev.abandonTurn_canonical (ite_canonical (Dev.macCount_canonical (Dev.set1_canonical (Dev.set1_canonical h1))) (Dev.set1_canonical (Dev.set1_canonical h1)))) (ite_canonical (Dev.macCount_canonical (Dev.set1_canonical (Dev.set1_canonical h1))) (Dev.set1_canonical (Dev.set1_canonical h1))))) h e

/-! ### `Monitors` -/

theorem Dev.setMon_canonical {a1 a2 a3} (ha1 : Canonical a1.flds a1.ctrs) :
    Canonical (Dev.setMon a1 a2 a3).flds (Dev.setMon a1 a2 a3).ctrs := by
  unfold Dev.setMon; exact (by (try dsimp only); exact ha1)

theorem Dev.setMonState_canonical {a1 a2 a3} (ha1 : Canonical a1.flds a1.ctrs) :
    Canonical (Dev.setMonState a1 a2 a3).flds (Dev.setMonState a1 a2 a3).ctrs := by
  unfold Dev.setMonState; exact (ite_canonical (Dev.set1_canonical ha1) (Dev.set1_canonical ha1))

theorem Dev.settleAlert_canonical {a1} (ha1 : Canonical a1.flds a1.ctrs) :
    Canonical (Dev.settleAlert a1).flds (Dev.settleAlert a1).ctrs := by
  unfold Dev.settleAlert; exact (by (try dsimp only); exact (Dev.set0_canonical (Dev.set0_canonical (Dev.set0_canonical (Dev.set0_canonical (Dev.set0_canonical (Dev.set0_canonical ha1)))))))

theorem Dev.avsFault_canonical {a1 a2} (ha1 : Canonical a1.flds a1.ctrs) :
    Canonical (Dev.avsFault a1 a2).flds (Dev.avsFault a1 a2).ctrs := by
  unfold Dev.avsFault; exact (ite_canonical ha1 (Dev.autumn_canonical (Dev.record_canonical (Dev.set0_canonical (Dev.set0_canonical (Dev.set0_canonical (Dev.set0_canonical (by (try dsimp only); exact ha1))))))))

theorem Dev.coverageLost_canonical {a1 a2 a3} (ha1 : Canonical a1.flds a1.ctrs) :
    Canonical (Dev.coverageLost a1 a2 a3).flds (Dev.coverageLost a1 a2 a3).ctrs := by
  unfold Dev.coverageLost; exact (Dev.winterCause_canonical (Dev.record_canonical (Dev.set0_canonical (Dev.set0_canonical ha1))))

theorem Dev.monFail_canonical {a1 a2 a3} (ha1 : Canonical a1.flds a1.ctrs) :
    Canonical (Dev.monFail a1 a2 a3).flds (Dev.monFail a1 a2 a3).ctrs := by
  unfold Dev.monFail; exact (ite_canonical ha1 (Dev.settleAlert_canonical (ite_canonical (ite_canonical (Dev.coverageLost_canonical (Dev.autumn_canonical (Dev.record_canonical (Dev.set0_canonical (ite_canonical (Dev.setMonState_canonical (by (try dsimp only); exact ha1)) (Dev.set1_canonical (by (try dsimp only); exact ha1))))))) (Dev.autumn_canonical (Dev.record_canonical (Dev.set0_canonical (ite_canonical (Dev.setMonState_canonical (by (try dsimp only); exact ha1)) (Dev.set1_canonical (by (try dsimp only); exact ha1))))))) (ite_canonical (ite_canonical (Dev.coverageLost_canonical (Dev.autumn_canonical (Dev.record_canonical (Dev.set0_canonical (ite_canonical (Dev.setMonState_canonical (by (try dsimp only); exact ha1)) (Dev.set1_canonical (by (try dsimp only); exact ha1))))))) (Dev.autumn_canonical (Dev.record_canonical (Dev.set0_canonical (ite_canonical (Dev.setMonState_canonical (by (try dsimp only); exact ha1)) (Dev.set1_canonical (by (try dsimp only); exact ha1))))))) (ite_canonical (Dev.avsFault_canonical (Dev.autumn_canonical (Dev.record_canonical (Dev.set0_canonical (ite_canonical (Dev.setMonState_canonical (by (try dsimp only); exact ha1)) (Dev.set1_canonical (by (try dsimp only); exact ha1))))))) (Dev.autumn_canonical (Dev.record_canonical (Dev.set0_canonical (ite_canonical (Dev.setMonState_canonical (by (try dsimp only); exact ha1)) (Dev.set1_canonical (by (try dsimp only); exact ha1)))))))))))

theorem Dev.judge_canonical {a1 a2 a3 a4 a5 a6} (ha1 : Canonical a1.flds a1.ctrs) :
    Canonical (Dev.judge a1 a2 a3 a4 a5 a6).flds (Dev.judge a1 a2 a3 a4 a5 a6).ctrs := by
  unfold Dev.judge; exact (Dev.settleAlert_canonical (ite_canonical (Dev.winterCause_canonical (Dev.record_canonical (ite_canonical (Dev.record_canonical (ite_canonical (Dev.record_canonical (Dev.setMonState_canonical (Dev.setMon_canonical ha1))) (Dev.setMonState_canonical (Dev.setMon_canonical ha1)))) (ite_canonical (Dev.record_canonical (Dev.setMonState_canonical (Dev.setMon_canonical ha1))) (Dev.setMonState_canonical (Dev.setMon_canonical ha1)))))) (ite_canonical (Dev.record_canonical (ite_canonical (Dev.record_canonical (Dev.setMonState_canonical (Dev.setMon_canonical ha1))) (Dev.setMonState_canonical (Dev.setMon_canonical ha1)))) (ite_canonical (Dev.record_canonical (Dev.setMonState_canonical (Dev.setMon_canonical ha1))) (Dev.setMonState_canonical (Dev.setMon_canonical ha1))))))

theorem Dev.tempSample_canonical {a1 a2 a3} (ha1 : Canonical a1.flds a1.ctrs) :
    Canonical (Dev.tempSample a1 a2 a3).flds (Dev.tempSample a1 a2 a3).ctrs := by
  unfold Dev.tempSample; exact (ite_canonical (Dev.judge_canonical (Dev.set1_canonical ha1)) (ite_canonical (Dev.monFail_canonical (Dev.judge_canonical (Dev.set1_canonical ha1))) (ite_canonical (Dev.monFail_canonical (Dev.judge_canonical (Dev.set1_canonical ha1))) (Dev.judge_canonical (Dev.set1_canonical ha1)))))

theorem Dev.voltSample_canonical {a1 a2 a3} (ha1 : Canonical a1.flds a1.ctrs) :
    Canonical (Dev.voltSample a1 a2 a3).flds (Dev.voltSample a1 a2 a3).ctrs := by
  unfold Dev.voltSample; exact (ite_canonical (Dev.judge_canonical (Dev.set1_canonical (Dev.set1_canonical ha1))) (ite_canonical (Dev.monFail_canonical (Dev.judge_canonical (Dev.set1_canonical (Dev.set1_canonical ha1)))) (Dev.judge_canonical (Dev.set1_canonical (Dev.set1_canonical ha1)))))

theorem Dev.procSample_canonical {a1 a2 a3} (ha1 : Canonical a1.flds a1.ctrs) :
    Canonical (Dev.procSample a1 a2 a3).flds (Dev.procSample a1 a2 a3).ctrs := by
  unfold Dev.procSample; exact (ite_canonical (ite_canonical (Dev.monFail_canonical (Dev.set1_canonical ha1)) (Dev.set1_canonical ha1)) (Dev.setMon_canonical (Dev.set1_canonical ha1)))

theorem execMonSample_canonical {a1 s t} (h : Canonical s.dev.flds s.dev.ctrs) (e : execMonSample a1 s = .next t) :
    Canonical t.dev.flds t.dev.ctrs := by
  unfold execMonSample at e; exact run_canonical (fun _ h1 => (by split; (· exact (ite_canonical h1 (Dev.tempSample_canonical h1))); (· exact (ite_canonical h1 (Dev.voltSample_canonical h1))); (· exact (ite_canonical h1 (Dev.procSample_canonical h1))); (· exact (ite_canonical (Dev.monFail_canonical h1) h1)); (· exact (ite_canonical (Dev.monFail_canonical h1) h1)); (· exact (ite_canonical h1 (Dev.settleAlert_canonical (Dev.coverageLost_canonical h1)))))) h e

theorem execThermtrip_canonical {a1 s t} (h : Canonical s.dev.flds s.dev.ctrs) (e : execThermtrip a1 s = .next t) :
    Canonical t.dev.flds t.dev.ctrs := by
  unfold execThermtrip at e; exact run_canonical (fun _ h1 => (ite_canonical h1 (Dev.winterCause_canonical (Dev.record_canonical (Dev.set0_canonical (Dev.set0_canonical (by (try dsimp only); exact h1))))))) h e

theorem execAvsUpdate_canonical {s t} (h : Canonical s.dev.flds s.dev.ctrs) (e : execAvsUpdate s = .next t) :
    Canonical t.dev.flds t.dev.ctrs := by
  unfold execAvsUpdate at e; exact run_canonical (fun _ h1 => (ite_canonical h1 (by (try dsimp only); exact h1))) h e

theorem Dev.avsBus_canonical {a1 a2} (ha1 : Canonical a1.flds a1.ctrs) :
    Canonical (Dev.avsBus a1 a2).flds (Dev.avsBus a1 a2).ctrs := by
  unfold Dev.avsBus; exact (ite_canonical (Dev.avsFault_canonical (by (try dsimp only); exact ha1)) (by (try dsimp only); exact ha1))

theorem execAvsStep_canonical {a1 a2 s t} (h : Canonical s.dev.flds s.dev.ctrs) (e : execAvsStep a1 a2 s = .next t) :
    Canonical t.dev.flds t.dev.ctrs := by
  unfold execAvsStep at e; exact run_canonical (fun _ h1 => (ite_canonical h1 (by split; (· exact (Dev.avsBus_canonical (Dev.avsBus_canonical (Dev.set0_canonical (ite_canonical (by (try dsimp only); exact h1) (by (try dsimp only); exact h1)))))); (· exact (ite_canonical (Dev.avsFault_canonical (by (try dsimp only); exact (Dev.set0_canonical (Dev.avsBus_canonical (Dev.avsBus_canonical (Dev.set0_canonical (ite_canonical (by (try dsimp only); exact h1) (by (try dsimp only); exact h1)))))))) (by (try dsimp only); exact (Dev.set0_canonical (Dev.avsBus_canonical (Dev.avsBus_canonical (Dev.set0_canonical (ite_canonical (by (try dsimp only); exact h1) (by (try dsimp only); exact h1)))))))))))) h e

theorem Dev.putWord_canonical {a1 a2 a3 a4 a5} (ha1 : Canonical a1.flds a1.ctrs) :
    Canonical (Dev.putWord a1 a2 a3 a4 a5).flds (Dev.putWord a1 a2 a3 a4 a5).ctrs := by
  unfold Dev.putWord; exact (foldl_canonical (fun _ _ h1 => (Dev.setFld_canonical h1)) ha1)

theorem Dev.isolateUnit_canonical {a1 a2} (ha1 : Canonical a1.flds a1.ctrs) :
    ∀ e, (Dev.isolateUnit a1 a2) = some e → Canonical e.flds e.ctrs := by
  unfold Dev.isolateUnit; exact (opt_ite_canonical (some_canonical (Dev.isolatePort_canonical ha1)) (opt_ite_canonical (some_canonical (Dev.isolateSlice_canonical ha1)) (opt_ite_canonical (some_canonical (Dev.isolateSlice_canonical ha1)) (opt_ite_canonical (some_canonical (Dev.monFail_canonical ha1)) (opt_ite_canonical (some_canonical (Dev.monFail_canonical ha1)) (opt_ite_canonical (some_canonical (Dev.isolateSlice_canonical ha1)) (opt_ite_canonical (some_canonical (Dev.isolatePort_canonical ha1)) (opt_ite_canonical (some_canonical (Dev.failHoldDie_canonical ha1)) none_canonical))))))))

theorem Dev.scrubBad_canonical {a1 a2 a3} (ha1 : Canonical a1.flds a1.ctrs) :
    Canonical (Dev.scrubBad a1 a2 a3).flds (Dev.scrubBad a1 a2 a3).ctrs := by
  unfold Dev.scrubBad; exact (by (try dsimp only); split; (· exact ha1); (· exact (ite_canonical ha1 (ite_canonical (Dev.winterCause_canonical (ite_canonical (Dev.isolatePort_canonical (Dev.record_canonical (by (try dsimp only); exact ha1))) (Dev.record_canonical (by (try dsimp only); exact ha1)))) (by (try dsimp only); split; (· exact (Dev.autumn_canonical (Dev.record_canonical ha1))); (· rename_i vh2 eh2; have h2 := ((Dev.isolateUnit_canonical (Dev.autumn_canonical (Dev.record_canonical ha1))) _ eh2); exact (Dev.putWord_canonical (by (try dsimp only); exact h2))))))))

theorem execCfgScrub_canonical {a1 s t} (h : Canonical s.dev.flds s.dev.ctrs) (e : execCfgScrub a1 s = .next t) :
    Canonical t.dev.flds t.dev.ctrs := by
  unfold execCfgScrub at e; exact run_canonical (fun _ h1 => (ite_canonical (foldl_canonical (fun _ _ h2 => (Dev.scrubBad_canonical h2)) h1) (by (try dsimp only); exact (foldl_canonical (fun _ _ h3 => (Dev.scrubBad_canonical h3)) h1)))) h e

theorem execCalRegisterWrite_canonical {a1 a2 a3 s t} (h : Canonical s.dev.flds s.dev.ctrs) (e : execCalRegisterWrite a1 a2 a3 s = .next t) :
    Canonical t.dev.flds t.dev.ctrs := by
  unfold execCalRegisterWrite at e; exact run_canonical (fun _ h1 => (ite_canonical (Dev.abortAccess_canonical h1) (Dev.gateWrite_canonical h1 (fun _ h2 => (Dev.takeCal_canonical h2))))) h e

theorem Dev.calSave_canonical {a1} (ha1 : Canonical a1.flds a1.ctrs) :
    Canonical (Dev.calSave a1).flds (Dev.calSave a1).ctrs := by
  unfold Dev.calSave; exact (ite_canonical (Dev.set0_canonical ha1) (Dev.record_canonical (Dev.set0_canonical (by (try dsimp only); exact ha1))))

theorem Dev.calClearUser_canonical {a1} (ha1 : Canonical a1.flds a1.ctrs) :
    Canonical (Dev.calClearUser a1).flds (Dev.calClearUser a1).ctrs := by
  unfold Dev.calClearUser; exact (Dev.resetFlds_canonical ha1)

theorem Dev.calClearSaved_canonical {a1} (ha1 : Canonical a1.flds a1.ctrs) :
    Canonical (Dev.calClearSaved a1).flds (Dev.calClearSaved a1).ctrs := by
  unfold Dev.calClearSaved; exact (ite_canonical ha1 (Dev.set0_canonical (by (try dsimp only); exact ha1)))

theorem Dev.calCmd_canonical {a1 a2 a3 a4 a5 a6} (ha1 : Canonical a1.flds a1.ctrs) :
    Canonical (Dev.calCmd a1 a2 a3 a4 a5 a6).flds (Dev.calCmd a1 a2 a3 a4 a5 a6).ctrs := by
  unfold Dev.calCmd; exact (ite_canonical ha1 (ite_canonical (Dev.accessFailed_canonical ha1) (ite_canonical (Dev.calClearSaved_canonical (ite_canonical (Dev.calClearUser_canonical (ite_canonical (Dev.calSave_canonical ha1) ha1)) (ite_canonical (Dev.calSave_canonical ha1) ha1))) (ite_canonical (Dev.calClearUser_canonical (ite_canonical (Dev.calSave_canonical ha1) ha1)) (ite_canonical (Dev.calSave_canonical ha1) ha1)))))

theorem execCalSave_canonical {a1 s t} (h : Canonical s.dev.flds s.dev.ctrs) (e : execCalSave a1 s = .next t) :
    Canonical t.dev.flds t.dev.ctrs := by
  unfold execCalSave at e; exact run_canonical (fun _ h1 => (Dev.onWrite_canonical h1 (fun _ h2 => (Dev.calCmd_canonical h2)))) h e

theorem execCalClearUser_canonical {a1 s t} (h : Canonical s.dev.flds s.dev.ctrs) (e : execCalClearUser a1 s = .next t) :
    Canonical t.dev.flds t.dev.ctrs := by
  unfold execCalClearUser at e; exact run_canonical (fun _ h1 => (Dev.onWrite_canonical h1 (fun _ h2 => (Dev.calCmd_canonical h2)))) h e

theorem execCalClearSaved_canonical {a1 a2 s t} (h : Canonical s.dev.flds s.dev.ctrs) (e : execCalClearSaved a1 a2 s = .next t) :
    Canonical t.dev.flds t.dev.ctrs := by
  unfold execCalClearSaved at e; exact run_canonical (fun _ h1 => (Dev.onWrite_canonical h1 (fun _ h2 => (Dev.calCmd_canonical h2)))) h e

/-! ### `RecorderOps` -/

theorem Dev.evrWrite_canonical {a1 a2} (ha1 : Canonical a1.flds a1.ctrs) :
    Canonical (Dev.evrWrite a1 a2).flds (Dev.evrWrite a1 a2).ctrs := by
  unfold Dev.evrWrite; exact (ite_canonical (by (try dsimp only); exact (foldl_canonical (fun _ _ h1 => (Dev.noteRowWrite_canonical h1)) (foldl_canonical (fun _ _ h2 => (by split; (· exact (by (try dsimp only); exact h2)); (· exact h2))) ha1))) (foldl_canonical (fun _ _ h3 => (Dev.noteRowWrite_canonical h3)) (foldl_canonical (fun _ _ h4 => (by split; (· exact (by (try dsimp only); exact h4)); (· exact h4))) ha1)))

theorem Dev.evrTrigger_canonical {a1} (ha1 : Canonical a1.flds a1.ctrs) :
    Canonical (Dev.evrTrigger a1).flds (Dev.evrTrigger a1).ctrs := by
  unfold Dev.evrTrigger; exact (ite_canonical (by (try dsimp only); exact ha1) (Dev.set0_canonical (by (try dsimp only); exact (by (try dsimp only); exact ha1))))

theorem Dev.flushOver_canonical {a1 a2} (ha1 : Canonical a1.flds a1.ctrs) :
    Canonical (Dev.flushOver a1 a2).flds (Dev.flushOver a1 a2).ctrs := by
  unfold Dev.flushOver; exact (Dev.count_canonical (Dev.set0_canonical (Dev.set0_canonical (by (try dsimp only); exact ha1))))

theorem Dev.answerFlush_canonical {a1} (ha1 : Canonical a1.flds a1.ctrs) :
    Canonical (Dev.answerFlush a1).flds (Dev.answerFlush a1).ctrs := by
  unfold Dev.answerFlush; exact (foldl_canonical (fun _ _ h1 => (Dev.reply_canonical h1)) (by (try dsimp only); exact ha1))

theorem Dev.dropCorrupt_canonical {a1 a2} (ha1 : Canonical a1.flds a1.ctrs) :
    Canonical (Dev.dropCorrupt a1 a2).flds (Dev.dropCorrupt a1 a2).ctrs := by
  unfold Dev.dropCorrupt; exact (Dev.satInc_canonical (Dev.countN_canonical (by (try dsimp only); exact ha1)))

theorem Dev.evrFlushEnd_canonical {a1} (ha1 : Canonical a1.flds a1.ctrs) :
    Canonical (Dev.evrFlushEnd a1).flds (Dev.evrFlushEnd a1).ctrs := by
  unfold Dev.evrFlushEnd; exact (by (try dsimp only); split <;> first | exact ha1 | exact (Dev.acceptLost_canonical (Dev.answerFlush_canonical (Dev.flushOver_canonical (Dev.evrWrite_canonical ha1)))))

theorem Dev.evrWriteAll_canonical {a1} (ha1 : Canonical a1.flds a1.ctrs) :
    Canonical (Dev.evrWriteAll a1).flds (Dev.evrWriteAll a1).ctrs := by
  unfold Dev.evrWriteAll; exact (Dev.evrFlushEnd_canonical (by (try dsimp only); exact ha1))

theorem Dev.evrPowerFlush_canonical {a1} (ha1 : Canonical a1.flds a1.ctrs) :
    Canonical (Dev.evrPowerFlush a1).flds (Dev.evrPowerFlush a1).ctrs := by
  unfold Dev.evrPowerFlush; exact (ite_canonical (Dev.evrWriteAll_canonical ha1) ha1)

theorem Dev.evrRelease_canonical {a1 a2} (ha1 : Canonical a1.flds a1.ctrs) :
    Canonical (Dev.evrRelease a1 a2).flds (Dev.evrRelease a1 a2).ctrs := by
  unfold Dev.evrRelease; exact (Dev.evrTrigger_canonical (ite_canonical (Dev.set0_canonical (Dev.set0_canonical (by (try dsimp only); exact ha1))) (Dev.record_canonical (Dev.count_canonical (Dev.set0_canonical (Dev.set0_canonical (by (try dsimp only); exact ha1)))))))

theorem Dev.evrFreeze_canonical {a1 a2} (ha1 : Canonical a1.flds a1.ctrs) :
    Canonical (Dev.evrFreeze a1 a2).flds (Dev.evrFreeze a1 a2).ctrs := by
  unfold Dev.evrFreeze; exact (ite_canonical ha1 (ite_canonical (Dev.set0_canonical ha1) (Dev.count_canonical (Dev.set0_canonical (Dev.set0_canonical (Dev.set0_canonical (by (try dsimp only); exact ha1)))))))

theorem Dev.evrThaw_canonical {a1 a2} (ha1 : Canonical a1.flds a1.ctrs) :
    Canonical (Dev.evrThaw a1 a2).flds (Dev.evrThaw a1 a2).ctrs := by
  unfold Dev.evrThaw; exact (ite_canonical (Dev.evrRelease_canonical ha1) (Dev.set0_canonical ha1))

theorem Dev.evrCtrl_canonical {a1 a2 a3 a4 a5} (ha1 : Canonical a1.flds a1.ctrs) :
    Canonical (Dev.evrCtrl a1 a2 a3 a4 a5).flds (Dev.evrCtrl a1 a2 a3 a4 a5).ctrs := by
  unfold Dev.evrCtrl; exact (ite_canonical (Dev.evrThaw_canonical (ite_canonical (Dev.evrFreeze_canonical (ite_canonical (Dev.evrTrigger_canonical ha1) ha1)) (ite_canonical (Dev.evrTrigger_canonical ha1) ha1))) (ite_canonical (Dev.evrFreeze_canonical (ite_canonical (Dev.evrTrigger_canonical ha1) ha1)) (ite_canonical (Dev.evrTrigger_canonical ha1) ha1)))

theorem Dev.eraseEnd_canonical {a1} (ha1 : Canonical a1.flds a1.ctrs) :
    Canonical (Dev.eraseEnd a1).flds (Dev.eraseEnd a1).ctrs := by
  unfold Dev.eraseEnd; exact (by (try dsimp only); split; (· exact ha1); (· exact (by (try dsimp only); split; (· exact (Dev.reply_canonical (by (try dsimp only); exact (Dev.set0_canonical (by (try dsimp only); exact (by (try dsimp only); exact ha1)))))); (· exact (Dev.set0_canonical (by (try dsimp only); exact (by (try dsimp only); exact ha1)))))))

theorem Dev.numberStaged_canonical {a1 a2} (ha1 : Canonical a1.flds a1.ctrs) :
    Canonical (Dev.numberStaged a1 a2).flds (Dev.numberStaged a1 a2).ctrs := by
  unfold Dev.numberStaged; exact (by (try dsimp only); exact ha1)

theorem Dev.evrMount_canonical {a1 a2} (ha1 : Canonical a1.flds a1.ctrs) :
    Canonical (Dev.evrMount a1 a2).flds (Dev.evrMount a1 a2).ctrs := by
  unfold Dev.evrMount; exact (by (try dsimp only); split; (· exact (Dev.record_canonical (Dev.set0_canonical (ite_canonical (by (try dsimp only); exact (ite_canonical (ite_canonical (Dev.set0_canonical (Dev.set0_canonical ha1)) (by (try dsimp only); exact (by (try dsimp only); exact (Dev.set0_canonical (Dev.set0_canonical ha1))))) (Dev.numberStaged_canonical (ite_canonical (Dev.set0_canonical (Dev.set0_canonical ha1)) (by (try dsimp only); exact (by (try dsimp only); exact (Dev.set0_canonical (Dev.set0_canonical ha1)))))))) (Dev.record_canonical (by (try dsimp only); exact (ite_canonical (ite_canonical (Dev.set0_canonical (Dev.set0_canonical ha1)) (by (try dsimp only); exact (by (try dsimp only); exact (Dev.set0_canonical (Dev.set0_canonical ha1))))) (Dev.numberStaged_canonical (ite_canonical (Dev.set0_canonical (Dev.set0_canonical ha1)) (by (try dsimp only); exact (by (try dsimp only); exact (Dev.set0_canonical (Dev.set0_canonical ha1))))))))))))); (· exact (ite_canonical (Dev.evrTrigger_canonical (ite_canonical (by (try dsimp only); exact (ite_canonical (ite_canonical (Dev.set0_canonical (Dev.set0_canonical ha1)) (by (try dsimp only); exact (by (try dsimp only); exact (Dev.set0_canonical (Dev.set0_canonical ha1))))) (Dev.numberStaged_canonical (ite_canonical (Dev.set0_canonical (Dev.set0_canonical ha1)) (by (try dsimp only); exact (by (try dsimp only); exact (Dev.set0_canonical (Dev.set0_canonical ha1)))))))) (Dev.record_canonical (by (try dsimp only); exact (ite_canonical (ite_canonical (Dev.set0_canonical (Dev.set0_canonical ha1)) (by (try dsimp only); exact (by (try dsimp only); exact (Dev.set0_canonical (Dev.set0_canonical ha1))))) (Dev.numberStaged_canonical (ite_canonical (Dev.set0_canonical (Dev.set0_canonical ha1)) (by (try dsimp only); exact (by (try dsimp only); exact (Dev.set0_canonical (Dev.set0_canonical ha1))))))))))) (ite_canonical (by (try dsimp only); exact (ite_canonical (ite_canonical (Dev.set0_canonical (Dev.set0_canonical ha1)) (by (try dsimp only); exact (by (try dsimp only); exact (Dev.set0_canonical (Dev.set0_canonical ha1))))) (Dev.numberStaged_canonical (ite_canonical (Dev.set0_canonical (Dev.set0_canonical ha1)) (by (try dsimp only); exact (by (try dsimp only); exact (Dev.set0_canonical (Dev.set0_canonical ha1)))))))) (Dev.record_canonical (by (try dsimp only); exact (ite_canonical (ite_canonical (Dev.set0_canonical (Dev.set0_canonical ha1)) (by (try dsimp only); exact (by (try dsimp only); exact (Dev.set0_canonical (Dev.set0_canonical ha1))))) (Dev.numberStaged_canonical (ite_canonical (Dev.set0_canonical (Dev.set0_canonical ha1)) (by (try dsimp only); exact (by (try dsimp only); exact (Dev.set0_canonical (Dev.set0_canonical ha1)))))))))))))

theorem Dev.stageLoad_canonical {a1 a2} (ha1 : Canonical a1.flds a1.ctrs) :
    Canonical (Dev.stageLoad a1 a2).flds (Dev.stageLoad a1 a2).ctrs := by
  unfold Dev.stageLoad; exact (by (try dsimp only); split; (· exact (foldl_canonical (fun _ _ h1 => (Dev.set1_canonical h1)) (Dev.set0_canonical ha1))); (· exact (Dev.set0_canonical (foldl_canonical (fun _ _ h2 => (Dev.set1_canonical h2)) (Dev.set0_canonical ha1)))))

theorem Dev.stageRelease_canonical {a1 a2 a3} (ha1 : Canonical a1.flds a1.ctrs) :
    Canonical (Dev.stageRelease a1 a2 a3).flds (Dev.stageRelease a1 a2 a3).ctrs := by
  unfold Dev.stageRelease; exact (ite_canonical ha1 (by (try dsimp only); split; (· exact (Dev.record_canonical (Dev.countN_canonical (by (try dsimp only); exact (Dev.set0_canonical ha1))))); (· exact (Dev.set0_canonical ha1))))

/-! ### `Winter` -/

theorem execWinterSequenceDone_canonical {s t} (h : Canonical s.dev.flds s.dev.ctrs) (e : execWinterSequenceDone s = .next t) :
    Canonical t.dev.flds t.dev.ctrs := by
  unfold execWinterSequenceDone at e; exact run_canonical (fun _ h1 => (by split; (· exact h1); (· exact (Dev.evrTrigger_canonical (Dev.record_canonical (Dev.set0_canonical (by (try dsimp only); exact h1))))))) h e

theorem Dev.clearCauses_canonical {a1 a2} (ha1 : Canonical a1.flds a1.ctrs) :
    Canonical (Dev.clearCauses a1 a2).flds (Dev.clearCauses a1 a2).ctrs := by
  unfold Dev.clearCauses; exact (foldl_canonical (fun _ _ h1 => (ite_canonical (Dev.set0_canonical h1) h1)) ha1)

theorem execHltCauseClear_canonical {a1 a2 s t} (h : Canonical s.dev.flds s.dev.ctrs) (e : execHltCauseClear a1 a2 s = .next t) :
    Canonical t.dev.flds t.dev.ctrs := by
  unfold execHltCauseClear at e; exact run_canonical (fun _ h1 => (Dev.onWrite_canonical h1 (fun _ h2 => (Dev.clearCauses_canonical h2)))) h e

theorem Dev.thaw_canonical {a1} (ha1 : Canonical a1.flds a1.ctrs) :
    Canonical (Dev.thaw a1).flds (Dev.thaw a1).ctrs := by
  unfold Dev.thaw; exact (Dev.set0_canonical (Dev.set0_canonical (Dev.countN_canonical (by (try dsimp only); exact ha1))))

theorem Dev.setReady_canonical {a1 a2 a3} (ha1 : Canonical a1.flds a1.ctrs) :
    Canonical (Dev.setReady a1 a2 a3).flds (Dev.setReady a1 a2 a3).ctrs := by
  unfold Dev.setReady; exact (Dev.set1_canonical (Dev.set1_canonical (Dev.set1_canonical ha1)))

theorem Dev.setSharedReady_canonical {a1 a2} (ha1 : Canonical a1.flds a1.ctrs) :
    Canonical (Dev.setSharedReady a1 a2).flds (Dev.setSharedReady a1 a2).ctrs := by
  unfold Dev.setSharedReady; exact (Dev.set0_canonical (Dev.set0_canonical ha1))

theorem Dev.lightUp_canonical {a1} (ha1 : Canonical a1.flds a1.ctrs) :
    Canonical (Dev.lightUp a1).flds (Dev.lightUp a1).ctrs := by
  unfold Dev.lightUp; exact (foldl_canonical (fun _ _ h1 => (ite_canonical (Dev.setMac_canonical h1) h1)) ha1)

theorem Dev.leaveWinter_canonical {a1 a2} (ha1 : Canonical a1.flds a1.ctrs) :
    Canonical (Dev.leaveWinter a1 a2).flds (Dev.leaveWinter a1 a2).ctrs := by
  unfold Dev.leaveWinter; exact (Dev.settleAlert_canonical (by (try dsimp only); exact (foldl_canonical (fun _ _ h1 => (Dev.setReady_canonical h1)) (Dev.setSharedReady_canonical (Dev.set0_canonical (Dev.set0_canonical (Dev.set0_canonical (Dev.lightUp_canonical (Dev.thaw_canonical (Dev.setHealth_canonical (Dev.record_canonical ha1)))))))))))

theorem Dev.waitImage_canonical {a1} (ha1 : Canonical a1.flds a1.ctrs) :
    Canonical (Dev.waitImage a1).flds (Dev.waitImage a1).ctrs := by
  unfold Dev.waitImage; exact (Dev.set0_canonical (by (try dsimp only); exact ha1))

theorem Dev.waitHost_canonical {a1} (ha1 : Canonical a1.flds a1.ctrs) :
    Canonical (Dev.waitHost a1).flds (Dev.waitHost a1).ctrs := by
  unfold Dev.waitHost; exact (Dev.waitImage_canonical (Dev.record_canonical ha1))

theorem Dev.takeAgain_canonical {a1 a2 a3 a4} (ha1 : Canonical a1.flds a1.ctrs) :
    Canonical (Dev.takeAgain a1 a2 a3 a4).flds (Dev.takeAgain a1 a2 a3 a4).ctrs := by
  unfold Dev.takeAgain; exact (ite_canonical (Dev.recommit_canonical ha1) (Dev.commit_canonical ha1))

theorem Dev.fromSpi_canonical {a1 a2 a3} (ha1 : Canonical a1.flds a1.ctrs) :
    Canonical (Dev.fromSpi a1 a2 a3).flds (Dev.fromSpi a1 a2 a3).ctrs := by
  unfold Dev.fromSpi; exact (by split; (· rename_i vh1 vh2 eh1; have h1 := (fst_of_eq eh1 (Dev.spiImage_canonical ha1)); exact (Dev.takeAgain_canonical h1)); (· rename_i vh3 eh3; have h3 := (fst_of_eq eh3 (Dev.spiImage_canonical ha1)); exact (Dev.waitHost_canonical (ite_canonical (Dev.record_canonical h3) h3))))

theorem Dev.rereadImage_canonical {a1 a2 a3} (ha1 : Canonical a1.flds a1.ctrs) :
    Canonical (Dev.rereadImage a1 a2 a3).flds (Dev.rereadImage a1 a2 a3).ctrs := by
  unfold Dev.rereadImage; exact (ite_canonical (by (try dsimp only); split; (· rename_i vh1 vh2 eh1; have h1 := (fst_of_eq eh1 (fst_ite_canonical (by (try dsimp only); exact (Dev.record_canonical ha1)) (Dev.trySlots_canonical ha1))); exact (Dev.takeAgain_canonical h1)); (· rename_i vh3 eh3; have h3 := (fst_of_eq eh3 (fst_ite_canonical (by (try dsimp only); exact (Dev.record_canonical ha1)) (Dev.trySlots_canonical ha1))); exact (by (try dsimp only); split; (· rename_i vh4 vh5 eh4; have h4 := (fst_of_eq eh4 (fst_ite_canonical (by (try dsimp only); exact h3) (Dev.trySlots_canonical h3))); exact (Dev.takeAgain_canonical h4)); (· rename_i vh6 eh6; have h6 := (fst_of_eq eh6 (fst_ite_canonical (by (try dsimp only); exact h3) (Dev.trySlots_canonical h3))); exact (ite_canonical (Dev.fromSpi_canonical (Dev.record_canonical h6)) (Dev.waitHost_canonical h6)))))) (ite_canonical (Dev.fromSpi_canonical ha1) (Dev.waitImage_canonical ha1)))

theorem Dev.exitGo_canonical {a1 a2 a3 a4} (ha1 : Canonical a1.flds a1.ctrs) :
    Canonical (Dev.exitGo a1 a2 a3 a4).flds (Dev.exitGo a1 a2 a3 a4).ctrs := by
  unfold Dev.exitGo; exact (ite_canonical (Dev.rereadImage_canonical (Dev.leaveWinter_canonical (Dev.set0_canonical (Dev.set0_canonical (Dev.dropChallenge_canonical ha1))))) (Dev.record_canonical (Dev.set0_canonical (ite_canonical (Dev.badResponse_canonical (Dev.set0_canonical (Dev.dropChallenge_canonical ha1))) (Dev.set0_canonical (Dev.dropChallenge_canonical ha1))))))

theorem execWinterExit_canonical {a1 a2 a3 s t} (h : Canonical s.dev.flds s.dev.ctrs) (e : execWinterExit a1 a2 a3 s = .next t) :
    Canonical t.dev.flds t.dev.ctrs := by
  unfold execWinterExit at e; exact run_canonical (fun _ h1 => (Dev.onWrite_canonical h1 (fun _ h2 => (Dev.pwWrite_canonical h2 (fun _ h3 => (Dev.exitGo_canonical h3)))))) h e

theorem Dev.winterReq_canonical {a1 a2 a3 a4} (ha1 : Canonical a1.flds a1.ctrs) :
    Canonical (Dev.winterReq a1 a2 a3 a4).flds (Dev.winterReq a1 a2 a3 a4).ctrs := by
  unfold Dev.winterReq; exact (ite_canonical (Dev.accessFailed_canonical ha1) (ite_canonical (Dev.accessFailed_canonical ha1) (ite_canonical ha1 (Dev.winterCause_canonical (Dev.record_canonical ha1)))))

theorem execWinterReq_canonical {a1 a2 a3 s t} (h : Canonical s.dev.flds s.dev.ctrs) (e : execWinterReq a1 a2 a3 s = .next t) :
    Canonical t.dev.flds t.dev.ctrs := by
  unfold execWinterReq at e; exact run_canonical (fun _ h1 => (Dev.onWrite_canonical h1 (fun _ h2 => (Dev.winterReq_canonical h2)))) h e

theorem execWatchdogExpired_canonical {a1 s t} (h : Canonical s.dev.flds s.dev.ctrs) (e : execWatchdogExpired a1 s = .next t) :
    Canonical t.dev.flds t.dev.ctrs := by
  unfold execWatchdogExpired at e; exact run_canonical (fun _ h1 => (ite_canonical (Dev.firmwareDown_canonical (by (try dsimp only); exact (Dev.releaseLocks_canonical (Dev.winterCause_canonical (Dev.record_canonical (Dev.setBit_canonical h1)))))) (by (try dsimp only); exact (Dev.releaseLocks_canonical (Dev.winterCause_canonical (Dev.record_canonical (Dev.setBit_canonical h1))))))) h e

theorem execCoreRestartDone_canonical {a1 s t} (h : Canonical s.dev.flds s.dev.ctrs) (e : execCoreRestartDone a1 s = .next t) :
    Canonical t.dev.flds t.dev.ctrs := by
  unfold execCoreRestartDone at e; exact run_canonical (fun _ h1 => (ite_canonical h1 (ite_canonical (Dev.firmwareUp_canonical (by (try dsimp only); exact h1)) (by (try dsimp only); exact h1)))) h e

end Sys2Proof.Machine
end

