-- ==== Sys2Proof/Laws/CanonicalBoot.lean ====
section
/-! SUPPORT. Each function of one kind keeps the registers and counters in their one form: the hold store, the boot,
image loading, the performance monitors, the recorder and time. -/

set_option linter.all false
namespace Sys2Proof.Machine

/-! ### `Hold` -/

theorem Dev.holdWrite_canonical {a1 a2 a3 a4 a5} (ha1 : Canonical a1.flds a1.ctrs) :
    Canonical (Dev.holdWrite a1 a2 a3 a4 a5).flds (Dev.holdWrite a1 a2 a3 a4 a5).ctrs := by
  unfold Dev.holdWrite; exact (ite_canonical (Dev.readCells_canonical ha1) (ite_canonical (Dev.count_canonical (Dev.readCells_canonical ha1)) (ite_canonical (Dev.macCount_canonical (ite_canonical (Dev.macCount_canonical (Dev.edited_canonical (Dev.readCells_canonical ha1))) (Dev.edited_canonical (Dev.readCells_canonical ha1)))) (ite_canonical (Dev.countN_canonical (Dev.count_canonical (Dev.storeFrame_canonical (ite_canonical (Dev.macCount_canonical (Dev.edited_canonical (Dev.readCells_canonical ha1))) (Dev.edited_canonical (Dev.readCells_canonical ha1)))))) (Dev.count_canonical (Dev.storeFrame_canonical (ite_canonical (Dev.macCount_canonical (Dev.edited_canonical (Dev.readCells_canonical ha1))) (Dev.edited_canonical (Dev.readCells_canonical ha1)))))))))

theorem execHoldWrite_canonical {a1 s t} (h : Canonical s.dev.flds s.dev.ctrs) (e : execHoldWrite a1 s = .next t) :
    Canonical t.dev.flds t.dev.ctrs := by
  unfold execHoldWrite at e; exact run_canonical (fun _ h1 => (ite_canonical h1 (by split; (· exact h1); (· exact (by split; (· exact (Dev.holdSettle_canonical (Dev.giveBack_canonical (Dev.linkChain_canonical (Dev.holdWrite_canonical (Dev.setHoldQ_canonical (Dev.setQueue_canonical h1))))))); (· exact (Dev.setQueue_canonical h1))))))) h e

theorem execHoldRowWrite_canonical {s t} (h : Canonical s.dev.flds s.dev.ctrs) (e : execHoldRowWrite s = .next t) :
    Canonical t.dev.flds t.dev.ctrs := by
  unfold execHoldRowWrite at e; exact run_canonical (fun _ h1 => (ite_canonical h1 (by split; (· exact (Dev.noteRowWrite_canonical (by (try dsimp only); exact h1))); (· exact (ite_canonical h1 (by split; (· exact h1); (· exact (Dev.noteRowWrite_canonical (Dev.count_canonical (Dev.setHoldQ_canonical h1)))))))))) h e

theorem Dev.drainTo_canonical {a1 a2 a3 a4} (ha1 : Canonical a1.flds a1.ctrs) :
    Canonical (Dev.drainTo a1 a2 a3 a4).flds (Dev.drainTo a1 a2 a3 a4).ctrs := by
  unfold Dev.drainTo; exact (Dev.perf_canonical (Dev.count_canonical (Dev.enqueue_canonical (Dev.ecnMark_canonical (Dev.setHoldQ_canonical (Dev.newChain_canonical ha1))))))

theorem Dev.readRows_canonical {f rows l} {d : Dev} (h : Canonical d.flds d.ctrs) :
    Canonical (Dev.readRows f rows l d).1.flds (Dev.readRows f rows l d).1.ctrs := by
  induction rows generalizing d l with
  | nil => exact h
  | cons row rest ih =>
    simp only [Dev.readRows]
    have h1 := Dev.readStripe_canonical (a2 := f.page) (a3 := d.stripeOf f.page row) (a4 := .of (l.headD ⟨0, [], []⟩)) (Dev.perf_canonical (a2 := 5) (a3 := 0x301) (a4 := 0) (a5 := 1) h)
    exact fst_ite_canonical h1 (fst_ite_canonical (Dev.stripeLost_canonical h1) (ih h1))

theorem execHoldDrain_canonical {a1 a2 a3 s t} (h : Canonical s.dev.flds s.dev.ctrs) (e : execHoldDrain a1 a2 a3 s = .next t) :
    Canonical t.dev.flds t.dev.ctrs := by
  unfold execHoldDrain at e; exact run_canonical (fun _ h1 => (by (try dsimp only); split; (· exact h1); (· exact (by (try dsimp only); split; (· exact h1); (· exact (ite_canonical h1 (ite_canonical (Dev.holdSettle_canonical (Dev.trimPages_canonical (Dev.recordCounted_canonical (by (try dsimp only); split; (· exact (Dev.refuseFree_canonical (Dev.count_canonical (Dev.setHoldQ_canonical h1)))); (· exact (Dev.count_canonical (Dev.setHoldQ_canonical h1))))))) (ite_canonical h1 (ite_canonical (Dev.holdSettle_canonical (Dev.trimPages_canonical (by (try dsimp only); split; (· exact (Dev.refuseFree_canonical (Dev.drainTo_canonical (Dev.readRows_canonical h1)))); (· exact (Dev.drainTo_canonical (Dev.readRows_canonical h1)))))) (Dev.readRows_canonical h1)))))))))) h e

theorem execFreeRingRefill_canonical {s t} (h : Canonical s.dev.flds s.dev.ctrs) (e : execFreeRingRefill s = .next t) :
    Canonical t.dev.flds t.dev.ctrs := by
  unfold execFreeRingRefill at e; exact run_canonical (fun _ h1 => (ite_canonical (Dev.perf_canonical (Dev.setRing_canonical h1)) h1)) h e

theorem execFreeRingSpill_canonical {s t} (h : Canonical s.dev.flds s.dev.ctrs) (e : execFreeRingSpill s = .next t) :
    Canonical t.dev.flds t.dev.ctrs := by
  unfold execFreeRingSpill at e; exact run_canonical (fun _ h1 => (ite_canonical (Dev.noteRowWrite_canonical (Dev.perf_canonical (Dev.setRing_canonical h1))) h1)) h e

theorem execFreeSweep_canonical {s t} (h : Canonical s.dev.flds s.dev.ctrs) (e : execFreeSweep s = .next t) :
    Canonical t.dev.flds t.dev.ctrs := by
  unfold execFreeSweep at e; exact run_canonical (fun _ h1 => (ite_canonical h1 (Dev.set0_canonical (by (try dsimp only); exact h1)))) h e

theorem Dev.startSweep_canonical {a1} (ha1 : Canonical a1.flds a1.ctrs) :
    Canonical (Dev.startSweep a1).flds (Dev.startSweep a1).ctrs := by
  unfold Dev.startSweep; exact (ite_canonical (Dev.set0_canonical ha1) ha1)

theorem execHldSweepCmd_canonical {a1 s t} (h : Canonical s.dev.flds s.dev.ctrs) (e : execHldSweepCmd a1 s = .next t) :
    Canonical t.dev.flds t.dev.ctrs := by
  unfold execHldSweepCmd at e; exact run_canonical (fun _ h1 => (Dev.onWrite_canonical h1 (fun _ h2 => (Dev.startSweep_canonical h2)))) h e

theorem execHoldScrub_canonical {a1 a2 a3 s t} (h : Canonical s.dev.flds s.dev.ctrs) (e : execHoldScrub a1 a2 a3 s = .next t) :
    Canonical t.dev.flds t.dev.ctrs := by
  unfold execHoldScrub at e; exact run_canonical (fun _ h1 => (ite_canonical h1 (ite_canonical (Dev.countN_canonical (Dev.readStripe_canonical (Dev.perf_canonical (Dev.set0_canonical (by (try dsimp only); exact h1))))) (by split; (· exact (Dev.stripeLost_canonical (Dev.countN_canonical (Dev.readStripe_canonical (Dev.perf_canonical (Dev.set0_canonical (by (try dsimp only); exact h1))))))); (· exact (ite_canonical (Dev.countN_canonical (Dev.readStripe_canonical (Dev.perf_canonical (Dev.set0_canonical (by (try dsimp only); exact h1))))) (Dev.rewriteStripe_canonical (Dev.countN_canonical (Dev.readStripe_canonical (Dev.perf_canonical (Dev.set0_canonical (by (try dsimp only); exact h1)))))))); (· exact (ite_canonical (Dev.countN_canonical (Dev.readStripe_canonical (Dev.perf_canonical (Dev.set0_canonical (by (try dsimp only); exact h1))))) (Dev.rewriteStripe_canonical (Dev.countN_canonical (Dev.readStripe_canonical (Dev.perf_canonical (Dev.set0_canonical (by (try dsimp only); exact h1)))))))))))) h e

theorem execGapMove_canonical {a1 s t} (h : Canonical s.dev.flds s.dev.ctrs) (e : execGapMove a1 s = .next t) :
    Canonical t.dev.flds t.dev.ctrs := by
  unfold execGapMove at e; exact run_canonical (fun _ h1 => (ite_canonical h1 (Dev.setZone_canonical (Dev.defer_canonical (Dev.wearRows_canonical (Dev.perf_canonical (Dev.count_canonical (Dev.setZone_canonical h1)))))))) h e

theorem Dev.swapPair_canonical {a1} (ha1 : Canonical a1.flds a1.ctrs) :
    Canonical (Dev.swapPair a1).flds (Dev.swapPair a1).ctrs := by
  unfold Dev.swapPair; exact (by split; (· exact ha1); (· exact (ite_canonical ha1 (Dev.notePageCopy_canonical (Dev.notePageCopy_canonical (by (try dsimp only); exact ha1))))))

theorem Dev.swapPairs_canonical {n} {d : Dev} (h : Canonical d.flds d.ctrs) :
    Canonical (Dev.swapPairs n d).flds (Dev.swapPairs n d).ctrs := by
  induction n generalizing d with
  | zero => exact h
  | succ n ih => exact ih (Dev.swapPair_canonical h)

theorem execZoneSwap_canonical {a1 s t} (h : Canonical s.dev.flds s.dev.ctrs) (e : execZoneSwap a1 s = .next t) :
    Canonical t.dev.flds t.dev.ctrs := by
  unfold execZoneSwap at e; exact run_canonical (fun _ h1 => (ite_canonical h1 (by (try dsimp only); split; (· exact (by (try dsimp only); split; (· exact (Dev.count_canonical (Dev.setPhysZone_canonical (Dev.setPhysZone_canonical (Dev.set0_canonical (by (try dsimp only); exact (Dev.swapPairs_canonical h1))))))); (· exact (Dev.swapPairs_canonical h1)))); (· exact (ite_canonical h1 (ite_canonical (Dev.set0_canonical (by (try dsimp only); exact (by (try dsimp only); exact h1))) (by (try dsimp only); exact h1))))))) h e

theorem execWearCounterSave_canonical {s t} (h : Canonical s.dev.flds s.dev.ctrs) (e : execWearCounterSave s = .next t) :
    Canonical t.dev.flds t.dev.ctrs := by
  unfold execWearCounterSave at e; exact run_canonical (fun _ h1 => (ite_canonical h1 (by (try dsimp only); exact h1))) h e

theorem Dev.writeFormat_canonical {a1 a2 a3 a4} (ha1 : Canonical a1.flds a1.ctrs) :
    Canonical (Dev.writeFormat a1 a2 a3 a4).flds (Dev.writeFormat a1 a2 a3 a4).ctrs := by
  unfold Dev.writeFormat; exact (Dev.pwWrite_canonical ha1 (fun _ h1 => (ite_canonical (Dev.accessFailed_canonical (Dev.set0_canonical h1)) (ite_canonical (Dev.set0_canonical h1) (ite_canonical h1 (Dev.set0_canonical (by (try dsimp only); exact h1)))))))

theorem execHldFormat_canonical {a1 a2 a3 s t} (h : Canonical s.dev.flds s.dev.ctrs) (e : execHldFormat a1 a2 a3 s = .next t) :
    Canonical t.dev.flds t.dev.ctrs := by
  unfold execHldFormat at e; exact run_canonical (fun _ h1 => (Dev.onWrite_canonical h1 (fun _ h2 => (Dev.writeFormat_canonical h2)))) h e

theorem Dev.showCapture_canonical {a1} (ha1 : Canonical a1.flds a1.ctrs) :
    Canonical (Dev.showCapture a1).flds (Dev.showCapture a1).ctrs := by
  unfold Dev.showCapture; exact (Dev.set0_canonical ha1)

theorem execHldFormatDone_canonical {s t} (h : Canonical s.dev.flds s.dev.ctrs) (e : execHldFormatDone s = .next t) :
    Canonical t.dev.flds t.dev.ctrs := by
  unfold execHldFormatDone at e; exact run_canonical (fun _ h1 => (by split; (· exact h1); (· exact (Dev.record_canonical (Dev.set0_canonical (Dev.set0_canonical (Dev.showCapture_canonical (by (try dsimp only); exact (foldl_canonical (fun _ _ h2 => (Dev.emptyQueue_canonical h2)) h1))))))))) h e

theorem execHoldRetrainStart_canonical {a1 s t} (h : Canonical s.dev.flds s.dev.ctrs) (e : execHoldRetrainStart a1 s = .next t) :
    Canonical t.dev.flds t.dev.ctrs := by
  unfold execHoldRetrainStart at e; exact run_canonical (fun _ h1 => (ite_canonical h1 (Dev.set0_canonical (Dev.set0_canonical (Dev.set1_canonical (Dev.set1_canonical (by (try dsimp only); exact h1))))))) h e

theorem Dev.retrainFailed_canonical {a1 a2} (ha1 : Canonical a1.flds a1.ctrs) :
    Canonical (Dev.retrainFailed a1 a2).flds (Dev.retrainFailed a1 a2).ctrs := by
  unfold Dev.retrainFailed; exact (ite_canonical (by (try dsimp only); exact ha1) (Dev.failHoldDie_canonical (Dev.record_canonical (by (try dsimp only); exact ha1))))

theorem execHoldRetrainDone_canonical {a1 s t} (h : Canonical s.dev.flds s.dev.ctrs) (e : execHoldRetrainDone a1 s = .next t) :
    Canonical t.dev.flds t.dev.ctrs := by
  unfold execHoldRetrainDone at e; exact run_canonical (fun _ h1 => (by split; (· exact h1); (· exact (ite_canonical (by (try dsimp only); exact (Dev.endRetrain_canonical h1)) (Dev.retrainFailed_canonical (Dev.endRetrain_canonical h1)))))) h e

theorem execHoldRetrainTimeout_canonical {s t} (h : Canonical s.dev.flds s.dev.ctrs) (e : execHoldRetrainTimeout s = .next t) :
    Canonical t.dev.flds t.dev.ctrs := by
  unfold execHoldRetrainTimeout at e; exact run_canonical (fun _ h1 => (by split; (· exact h1); (· exact (ite_canonical (Dev.retrainFailed_canonical (Dev.abortRetrain_canonical h1)) h1)))) h e

theorem Dev.clearDeferral_canonical {a1} (ha1 : Canonical a1.flds a1.ctrs) :
    Canonical (Dev.clearDeferral a1).flds (Dev.clearDeferral a1).ctrs := by
  unfold Dev.clearDeferral; exact (Dev.set0_canonical (by (try dsimp only); exact ha1))

theorem execDeferralListRebuild_canonical {s t} (h : Canonical s.dev.flds s.dev.ctrs) (e : execDeferralListRebuild s = .next t) :
    Canonical t.dev.flds t.dev.ctrs := by
  unfold execDeferralListRebuild at e; exact run_canonical (fun _ h1 => (ite_canonical (Dev.clearDeferral_canonical h1) h1)) h e

/-! ### `Boot` -/

theorem keepFld_canonical {a1 a2 a3 a4} (ha1 : Canonical a1.flds a1.ctrs) (ha4 : Canonical a4.flds a4.ctrs) :
    Canonical (keepFld a1 a2 a3 a4).flds (keepFld a1 a2 a3 a4).ctrs := by
  unfold keepFld; exact (foldl_canonical (fun _ _ h1 => (Dev.set1_canonical h1)) ha4)

theorem Dev.keepCluster_canonical {a1 a2 a3} (ha1 : Canonical a1.flds a1.ctrs) (ha2 : Canonical a2.flds a2.ctrs) :
    Canonical (Dev.keepCluster a1 a2 a3).flds (Dev.keepCluster a1 a2 a3).ctrs := by
  unfold Dev.keepCluster; exact (foldl_canonical (fun _ _ h1 => (Dev.set1_canonical (Dev.set1_canonical h1))) (foldl_canonical (fun _ _ h2 => (Dev.set1_canonical h2)) (Dev.set1_canonical ha2)))

theorem Dev.keptFields_canonical {a1 a2} (ha1 : Canonical a1.flds a1.ctrs) (ha2 : Canonical a2.flds a2.ctrs) :
    Canonical (Dev.keptFields a1 a2).flds (Dev.keptFields a1 a2).ctrs := by
  unfold Dev.keptFields; exact (foldl_canonical (fun _ _ h1 => (Dev.keepCluster_canonical ha1 h1)) (foldl_canonical (fun _ _ h2 => (keepFld_canonical ha1 h2)) ha2))

theorem Dev.afterReset_canonical {a1} (ha1 : Canonical a1.flds a1.ctrs) :
    Canonical (Dev.afterReset a1).flds (Dev.afterReset a1).ctrs := by
  unfold Dev.afterReset; exact (Dev.keptFields_canonical ha1 (by (try dsimp only); exact (Dev.reset_canonical)))

theorem Dev.romStart_canonical {a1} (ha1 : Canonical a1.flds a1.ctrs) :
    Canonical (Dev.romStart a1).flds (Dev.romStart a1).ctrs := by
  unfold Dev.romStart; exact (ite_canonical (Dev.record_canonical (ite_canonical (Dev.afterLock_canonical (by (try dsimp only); exact ha1)) (Dev.set0_canonical (by (try dsimp only); exact ha1)))) (ite_canonical (Dev.afterLock_canonical (by (try dsimp only); exact ha1)) (Dev.set0_canonical (by (try dsimp only); exact ha1))))

theorem Dev.released_canonical {a1 a2} (ha1 : Canonical a1.flds a1.ctrs) :
    Canonical (Dev.released a1 a2).flds (Dev.released a1 a2).ctrs := by
  unfold Dev.released; exact (ite_canonical (by (try dsimp only); exact (Dev.set0_canonical (by (try dsimp only); exact ha1))) (ite_canonical (by (try dsimp only); exact (Dev.set0_canonical (by (try dsimp only); exact ha1))) (Dev.romStart_canonical (Dev.set0_canonical (by (try dsimp only); exact ha1)))))

theorem execPowerOnReset_canonical {a1 s t} (h : Canonical s.dev.flds s.dev.ctrs) (e : execPowerOnReset a1 s = .next t) :
    Canonical t.dev.flds t.dev.ctrs := by
  unfold execPowerOnReset at e; exact run_canonical (fun _ h1 => (ite_canonical h1 (Dev.set0_canonical (by (try dsimp only); exact (Dev.afterReset_canonical h1))))) h e

theorem execSysResetAssert_canonical {a1 s t} (h : Canonical s.dev.flds s.dev.ctrs) (e : execSysResetAssert a1 s = .next t) :
    Canonical t.dev.flds t.dev.ctrs := by
  unfold execSysResetAssert at e; exact run_canonical (fun _ h1 => (ite_canonical h1 (Dev.beginReset_canonical (by (try dsimp only); exact h1)))) h e

theorem Dev.clkRstCmd_canonical {a1 a2 a3 a4} (ha1 : Canonical a1.flds a1.ctrs) :
    Canonical (Dev.clkRstCmd a1 a2 a3 a4).flds (Dev.clkRstCmd a1 a2 a3 a4).ctrs := by
  unfold Dev.clkRstCmd; exact (ite_canonical ha1 (ite_canonical (Dev.accessFailed_canonical ha1) (ite_canonical (Dev.accessFailed_canonical ha1) (Dev.beginReset_canonical ha1))))

theorem execClkRstCmdFull_canonical {a1 a2 s t} (h : Canonical s.dev.flds s.dev.ctrs) (e : execClkRstCmdFull a1 a2 s = .next t) :
    Canonical t.dev.flds t.dev.ctrs := by
  unfold execClkRstCmdFull at e; exact run_canonical (fun _ h1 => (Dev.onWrite_canonical h1 (fun _ h2 => (Dev.clkRstCmd_canonical h2)))) h e

theorem Dev.showCause_canonical {a1 a2 a3} (ha1 : Canonical a1.flds a1.ctrs) :
    Canonical (Dev.showCause a1 a2 a3).flds (Dev.showCause a1 a2 a3).ctrs := by
  unfold Dev.showCause; exact (Dev.set0_canonical (ite_canonical (Dev.set0_canonical (Dev.draw_canonical ha1)) (Dev.set0_canonical ha1)))

theorem execFullResetTakeHold_canonical {s t} (h : Canonical s.dev.flds s.dev.ctrs) (e : execFullResetTakeHold s = .next t) :
    Canonical t.dev.flds t.dev.ctrs := by
  unfold execFullResetTakeHold at e; exact run_canonical (fun _ h1 => (by split; (· exact h1); (· exact (ite_canonical h1 (ite_canonical (Dev.released_canonical (Dev.showCause_canonical (Dev.afterReset_canonical h1))) (Dev.showCause_canonical (Dev.afterReset_canonical h1))))))) h e

theorem execSysResetRelease_canonical {a1 s t} (h : Canonical s.dev.flds s.dev.ctrs) (e : execSysResetRelease a1 s = .next t) :
    Canonical t.dev.flds t.dev.ctrs := by
  unfold execSysResetRelease at e; exact run_canonical (fun _ h1 => (ite_canonical h1 (ite_canonical (by (try dsimp only); exact h1) (Dev.released_canonical (by (try dsimp only); exact h1))))) h e

theorem execPowerGoodReleaseTimer_canonical {a1 s t} (h : Canonical s.dev.flds s.dev.ctrs) (e : execPowerGoodReleaseTimer a1 s = .next t) :
    Canonical t.dev.flds t.dev.ctrs := by
  unfold execPowerGoodReleaseTimer at e; exact run_canonical (fun _ h1 => (ite_canonical (Dev.released_canonical h1) h1)) h e

theorem execInternalResetRelease_canonical {a1 s t} (h : Canonical s.dev.flds s.dev.ctrs) (e : execInternalResetRelease a1 s = .next t) :
    Canonical t.dev.flds t.dev.ctrs := by
  unfold execInternalResetRelease at e; exact run_canonical (fun _ h1 => (ite_canonical (Dev.released_canonical h1) h1)) h e

theorem execBootStartAfterPfail_canonical {s t} (h : Canonical s.dev.flds s.dev.ctrs) (e : execBootStartAfterPfail s = .next t) :
    Canonical t.dev.flds t.dev.ctrs := by
  unfold execBootStartAfterPfail at e; exact run_canonical (fun _ h1 => (ite_canonical (Dev.romStart_canonical h1) h1)) h e

theorem execJtagInstruction_canonical {a1 s t} (h : Canonical s.dev.flds s.dev.ctrs) (e : execJtagInstruction a1 s = .next t) :
    Canonical t.dev.flds t.dev.ctrs := by
  unfold execJtagInstruction at e; exact run_canonical (fun _ h1 => (ite_canonical h1 (ite_canonical (Dev.beginReset_canonical (by (try dsimp only); exact h1)) (by (try dsimp only); exact h1)))) h e

theorem Dev.pfailRecord_canonical {a1} (ha1 : Canonical a1.flds a1.ctrs) :
    Canonical (Dev.pfailRecord a1).flds (Dev.pfailRecord a1).ctrs := by
  unfold Dev.pfailRecord; exact (Dev.record_canonical ha1)

theorem execPfailAssert_canonical {a1 a2 s t} (h : Canonical s.dev.flds s.dev.ctrs) (e : execPfailAssert a1 a2 s = .next t) :
    Canonical t.dev.flds t.dev.ctrs := by
  unfold execPfailAssert at e; exact run_canonical (fun _ h1 => (ite_canonical h1 (ite_canonical (by (try dsimp only); exact h1) (ite_canonical (ite_canonical (by (try dsimp only); exact h1) (Dev.pfailRecord_canonical (by (try dsimp only); exact h1))) (by (try dsimp only); exact (Dev.abortRetrain_canonical (ite_canonical (Dev.evrRelease_canonical (Dev.pfailRecord_canonical (by (try dsimp only); exact h1))) (Dev.pfailRecord_canonical (by (try dsimp only); exact h1))))))))) h e

theorem execPowerFailFlushDone_canonical {s t} (h : Canonical s.dev.flds s.dev.ctrs) (e : execPowerFailFlushDone s = .next t) :
    Canonical t.dev.flds t.dev.ctrs := by
  unfold execPowerFailFlushDone at e; exact run_canonical (fun _ h1 => (by split; (· exact h1); (· exact (ite_canonical h1 (by (try dsimp only); exact (Dev.holdFlush_canonical (Dev.evrPowerFlush_canonical h1))))))) h e

theorem execPfailDeassert_canonical {s t} (h : Canonical s.dev.flds s.dev.ctrs) (e : execPfailDeassert s = .next t) :
    Canonical t.dev.flds t.dev.ctrs := by
  unfold execPfailDeassert at e; exact run_canonical (fun _ h1 => (ite_canonical h1 (ite_canonical (by (try dsimp only); exact (by (try dsimp only); exact h1)) (by (try dsimp only); exact h1)))) h e

theorem execPowerLost_canonical {s t} (h : Canonical s.dev.flds s.dev.ctrs) (e : execPowerLost s = .next t) :
    Canonical t.dev.flds t.dev.ctrs := by
  unfold execPowerLost at e; exact run_canonical (fun _ h1 => (ite_canonical h1 (by (try dsimp only); exact (Dev.afterReset_canonical h1)))) h e

theorem Dev.findImage_canonical {a1 a2 a3} (ha1 : Canonical a1.flds a1.ctrs) :
    Canonical (Dev.findImage a1 a2 a3).flds (Dev.findImage a1 a2 a3).ctrs := by
  unfold Dev.findImage; exact (ite_canonical (by (try dsimp only); split; (· rename_i vh1 vh2 eh1; have h1 := (fst_of_eq eh1 (Dev.spiImage_canonical ha1)); exact (Dev.set0_canonical (by (try dsimp only); exact h1))); (· rename_i vh3 eh3; have h3 := (fst_of_eq eh3 (Dev.spiImage_canonical ha1)); exact (Dev.waitHost_canonical h3))) (ite_canonical (by (try dsimp only); split; (· rename_i vh4 vh5 eh4; have h4 := (fst_of_eq eh4 (fst_ite_canonical (by (try dsimp only); exact ha1) (Dev.slotSelect_canonical ha1))); exact (Dev.set0_canonical (by (try dsimp only); exact h4))); (· rename_i vh6 eh6; have h6 := (fst_of_eq eh6 (fst_ite_canonical (by (try dsimp only); exact ha1) (Dev.slotSelect_canonical ha1))); exact (ite_canonical (by (try dsimp only); split; (· rename_i vh7 vh8 eh7; have h7 := (fst_of_eq eh7 (Dev.spiImage_canonical (Dev.record_canonical h6))); exact (Dev.set0_canonical (by (try dsimp only); exact h7))); (· rename_i vh9 eh9; have h9 := (fst_of_eq eh9 (Dev.spiImage_canonical (Dev.record_canonical h6))); exact (Dev.waitHost_canonical h9))) (Dev.waitHost_canonical h6)))) (Dev.waitImage_canonical ha1)))

theorem Dev.startFirmware_canonical {a1 a2 a3 a4 a5 a6} (ha1 : Canonical a1.flds a1.ctrs) :
    Canonical (Dev.startFirmware a1 a2 a3 a4 a5 a6).flds (Dev.startFirmware a1 a2 a3 a4 a5 a6).ctrs := by
  unfold Dev.startFirmware; exact (Dev.findImage_canonical (Dev.firmwareUp_canonical (Dev.set0_canonical (by (try dsimp only); exact (Dev.set0_canonical (Dev.set0_canonical (Dev.set0_canonical (by (try dsimp only); exact ha1))))))))

theorem execFirmwareStart_canonical {a b spi lost s t} (h : Canonical s.dev.flds s.dev.ctrs)
    (e : execFirmwareStart a b spi lost s = .next t) : Canonical t.dev.flds t.dev.ctrs := by
  unfold execFirmwareStart at e
  refine run_canonical (fun d h => ?_) h e
  have hs (a b c : Nat) {d : Dev} (h : Canonical d.flds d.ctrs) : Canonical (d.startFirmware a b c spi lost).flds
    (d.startFirmware a b c spi lost).ctrs := Dev.startFirmware_canonical h
  have hn {d : Dev} (h : Canonical d.flds d.ctrs) : Canonical (({ (d.record .BOOT_WAIT_HOST 0 0 (payloadOf [])) with boot := { (d.record .BOOT_WAIT_HOST 0 0 (payloadOf [])).boot with waitFw := true } } : Dev).set0 .CLK_BOOT_STATUS_PHASE 2).flds
    (({ (d.record .BOOT_WAIT_HOST 0 0 (payloadOf [])) with boot := { (d.record .BOOT_WAIT_HOST 0 0 (payloadOf [])).boot with waitFw := true } } : Dev).set0 .CLK_BOOT_STATUS_PHASE 2).ctrs :=
    Dev.set0_canonical (a1 := ({ (d.record .BOOT_WAIT_HOST 0 0 (payloadOf [])) with boot := { (d.record .BOOT_WAIT_HOST 0 0 (payloadOf [])).boot with waitFw := true } } : Dev)) (Dev.record_canonical h)
  dsimp only
  refine ite_canonical h ?_
  split
  · exact hs _ _ _ h
  · refine ite_canonical h (ite_canonical ?_ (ite_canonical ?_ ?_))
    · split
      · exact ite_canonical (hs _ _ _ h) (hn h)
      · exact hn h
    · have hf : ∀ k, Canonical ((List.range k).foldl (fun d _ => d.record .FW_SLOT_FALLBACK 0 0 (payloadOf [])) d).flds
          ((List.range k).foldl (fun d _ => d.record .FW_SLOT_FALLBACK 0 0 (payloadOf [])) d).ctrs :=
        fun k => foldl_canonical (fun _ _ h => Dev.record_canonical h) h
      split
      · exact hs _ _ _ (hf _)
      · refine ite_canonical ?_ (hn (hf _))
        split
        · exact ite_canonical (hs _ _ _ (Dev.record_canonical (hf _))) (hn (Dev.record_canonical (hf _)))
        · exact hn (Dev.record_canonical (hf _))
    · exact Dev.set0_canonical (a1 := ({ d with boot := { d.boot with waitFw := true } } : Dev)) h

theorem Dev.fwLoadEnd_canonical {a1 a2} (ha1 : Canonical a1.flds a1.ctrs) :
    Canonical (Dev.fwLoadEnd a1 a2).flds (Dev.fwLoadEnd a1 a2).ctrs := by
  unfold Dev.fwLoadEnd; exact (Dev.set0_canonical (Dev.set0_canonical (Dev.set0_canonical ha1)))

theorem Dev.fwLoadGo_canonical {a1} (ha1 : Canonical a1.flds a1.ctrs) :
    Canonical (Dev.fwLoadGo a1).flds (Dev.fwLoadGo a1).ctrs := by
  unfold Dev.fwLoadGo; exact (ite_canonical (Dev.set0_canonical (Dev.set0_canonical ha1)) (ite_canonical (Dev.fwLoadEnd_canonical ha1) (ite_canonical (Dev.fwLoadEnd_canonical ha1) (by (try dsimp only); exact (Dev.set0_canonical (Dev.set0_canonical (Dev.set0_canonical ha1)))))))

theorem execHostFwLoad_canonical {a1 s t} (h : Canonical s.dev.flds s.dev.ctrs) (e : execHostFwLoad a1 s = .next t) :
    Canonical t.dev.flds t.dev.ctrs := by
  unfold execHostFwLoad at e; exact run_canonical (fun _ h1 => (Dev.onWrite_canonical h1 (fun _ h2 => (Dev.fwLoadGo_canonical h2)))) h e

theorem execHostFwLoadDone_canonical {a1 a2 a3 a4 s t} (h : Canonical s.dev.flds s.dev.ctrs) (e : execHostFwLoadDone a1 a2 a3 a4 s = .next t) :
    Canonical t.dev.flds t.dev.ctrs := by
  unfold execHostFwLoadDone at e; exact run_canonical (fun _ h1 => (ite_canonical h1 (ite_canonical (Dev.fwLoadEnd_canonical h1) (ite_canonical h1 (ite_canonical (Dev.fwLoadEnd_canonical h1) (ite_canonical (Dev.fwLoadEnd_canonical h1) (by (try dsimp only); exact (Dev.fwLoadEnd_canonical h1)))))))) h e

theorem execImageCommit_canonical {s t} (h : Canonical s.dev.flds s.dev.ctrs) (e : execImageCommit s = .next t) :
    Canonical t.dev.flds t.dev.ctrs := by
  unfold execImageCommit at e; exact run_canonical (fun _ h1 => (by split; (· exact h1); (· exact (ite_canonical h1 (Dev.settleAlert_canonical (Dev.commit_canonical h1)))))) h e

theorem Dev.refindDies_canonical {a1} (ha1 : Canonical a1.flds a1.ctrs) :
    Canonical (Dev.refindDies a1).flds (Dev.refindDies a1).ctrs := by
  unfold Dev.refindDies; exact (foldl_canonical (fun _ _ h1 => (Dev.failHoldDie_canonical h1)) (by (try dsimp only); exact ha1))

theorem Dev.restoreQueue_canonical {a1 a2 a3} (ha2 : Canonical a2.flds a2.ctrs) :
    Canonical (Dev.restoreQueue a1 a2 a3).flds (Dev.restoreQueue a1 a2 a3).ctrs := by
  unfold Dev.restoreQueue; exact (ite_canonical (Dev.countN_canonical (by (try dsimp only); exact ha2)) (ite_canonical (Dev.record_canonical (Dev.countN_canonical (by (try dsimp only); exact ha2))) (Dev.setHoldQ_canonical ha2)))

theorem Dev.restoreMeta_canonical {a1 a2} (ha1 : Canonical a1.flds a1.ctrs) :
    Canonical (Dev.restoreMeta a1 a2).flds (Dev.restoreMeta a1 a2).ctrs := by
  unfold Dev.restoreMeta; exact (by split; (· exact (foldl_canonical (fun _ _ h1 => (Dev.restoreQueue_canonical h1)) (by (try dsimp only); exact ha1))); (· exact (Dev.record_canonical (Dev.set0_canonical (by (try dsimp only); exact ha1)))))

theorem Dev.restoreCal_canonical {a1 a2 a3} (ha1 : Canonical a1.flds a1.ctrs) :
    Canonical (Dev.restoreCal a1 a2 a3).flds (Dev.restoreCal a1 a2 a3).ctrs := by
  unfold Dev.restoreCal; exact (by split; (· exact ha1); (· exact (ite_canonical (Dev.record_canonical (Dev.set0_canonical (Dev.set0_canonical (Dev.takeCals_canonical (ite_canonical (ite_canonical ha1 (Dev.record_canonical ha1)) (Dev.record_canonical (ite_canonical ha1 (Dev.record_canonical ha1)))))))) (ite_canonical (ite_canonical ha1 (Dev.record_canonical ha1)) (Dev.record_canonical (ite_canonical ha1 (Dev.record_canonical ha1)))))))

theorem execHoldMount_canonical {a1 a2 a3 a4 s t} (h : Canonical s.dev.flds s.dev.ctrs) (e : execHoldMount a1 a2 a3 a4 s = .next t) :
    Canonical t.dev.flds t.dev.ctrs := by
  unfold execHoldMount at e; exact run_canonical (fun _ h1 => (ite_canonical h1 (ite_canonical (Dev.refindDies_canonical h1) (Dev.restoreCal_canonical (Dev.evrMount_canonical (ite_canonical (ite_canonical (by split; (· exact (Dev.record_canonical (Dev.record_canonical (Dev.showCapture_canonical (Dev.set0_canonical (by (try dsimp only); exact (Dev.restoreMeta_canonical (Dev.clearDeferral_canonical (by (try dsimp only); exact (Dev.refindDies_canonical h1)))))))))); (· exact (Dev.record_canonical (Dev.showCapture_canonical (Dev.set0_canonical (by (try dsimp only); exact (Dev.restoreMeta_canonical (Dev.clearDeferral_canonical (by (try dsimp only); exact (Dev.refindDies_canonical h1)))))))))) (Dev.record_canonical (by split; (· exact (Dev.record_canonical (Dev.record_canonical (Dev.showCapture_canonical (Dev.set0_canonical (by (try dsimp only); exact (Dev.restoreMeta_canonical (Dev.clearDeferral_canonical (by (try dsimp only); exact (Dev.refindDies_canonical h1)))))))))); (· exact (Dev.record_canonical (Dev.showCapture_canonical (Dev.set0_canonical (by (try dsimp only); exact (Dev.restoreMeta_canonical (Dev.clearDeferral_canonical (by (try dsimp only); exact (Dev.refindDies_canonical h1)))))))))))) (Dev.startSweep_canonical (ite_canonical (by split; (· exact (Dev.record_canonical (Dev.record_canonical (Dev.showCapture_canonical (Dev.set0_canonical (by (try dsimp only); exact (Dev.restoreMeta_canonical (Dev.clearDeferral_canonical (by (try dsimp only); exact (Dev.refindDies_canonical h1)))))))))); (· exact (Dev.record_canonical (Dev.showCapture_canonical (Dev.set0_canonical (by (try dsimp only); exact (Dev.restoreMeta_canonical (Dev.clearDeferral_canonical (by (try dsimp only); exact (Dev.refindDies_canonical h1)))))))))) (Dev.record_canonical (by split; (· exact (Dev.record_canonical (Dev.record_canonical (Dev.showCapture_canonical (Dev.set0_canonical (by (try dsimp only); exact (Dev.restoreMeta_canonical (Dev.clearDeferral_canonical (by (try dsimp only); exact (Dev.refindDies_canonical h1)))))))))); (· exact (Dev.record_canonical (Dev.showCapture_canonical (Dev.set0_canonical (by (try dsimp only); exact (Dev.restoreMeta_canonical (Dev.clearDeferral_canonical (by (try dsimp only); exact (Dev.refindDies_canonical h1))))))))))))))))))) h e

theorem Dev.checkFailed_canonical {a1 a2 a3 a4} (ha1 : Canonical a1.flds a1.ctrs) :
    Canonical (Dev.checkFailed a1 a2 a3 a4).flds (Dev.checkFailed a1 a2 a3 a4).ctrs := by
  unfold Dev.checkFailed; exact (Dev.record_canonical ha1)

theorem Dev.checkWinter_canonical {a1 a2 a3} (ha1 : Canonical a1.flds a1.ctrs) :
    Canonical (Dev.checkWinter a1 a2 a3).flds (Dev.checkWinter a1 a2 a3).ctrs := by
  unfold Dev.checkWinter; exact (Dev.winterCause_canonical (Dev.checkFailed_canonical (ite_canonical (by (try dsimp only); exact ha1) ha1)))

theorem Dev.checkRegions_canonical {a1 a2 a3} (ha1 : Canonical a1.flds a1.ctrs) :
    Canonical (Dev.checkRegions a1 a2 a3).flds (Dev.checkRegions a1 a2 a3).ctrs := by
  unfold Dev.checkRegions; exact (ite_canonical ha1 (foldl_canonical (fun _ _ h1 => (Dev.isolateRegion_canonical h1)) (Dev.checkFailed_canonical ha1)))

theorem Dev.passed_canonical {a1 a2} (ha1 : Canonical a1.flds a1.ctrs) :
    Canonical (Dev.passed a1 a2).flds (Dev.passed a1 a2).ctrs := by
  unfold Dev.passed; exact (Dev.set0_canonical (by (try dsimp only); exact ha1))

theorem Dev.springCheck_canonical {a1 a2 a3 a4} (ha1 : Canonical a1.flds a1.ctrs) :
    Canonical (Dev.springCheck a1 a2 a3 a4).flds (Dev.springCheck a1 a2 a3 a4).ctrs := by
  unfold Dev.springCheck; exact (by split; (· exact (ite_canonical (Dev.passed_canonical ha1) (Dev.checkWinter_canonical ha1))); (· exact (ite_canonical (Dev.passed_canonical ha1) (Dev.checkWinter_canonical ha1))); (· exact (Dev.passed_canonical (Dev.set0_canonical (Dev.checkRegions_canonical (ite_canonical ha1 (Dev.autumn_canonical (Dev.checkFailed_canonical ha1))))))); (· exact (Dev.passed_canonical (foldl_canonical (fun _ _ h1 => (Dev.setReady_canonical h1)) (Dev.setSharedReady_canonical (Dev.checkRegions_canonical ha1))))); (· exact (ite_canonical (Dev.passed_canonical ha1) (Dev.passed_canonical (Dev.holdOutOfService_canonical (Dev.checkFailed_canonical ha1))))); (· exact (ite_canonical (Dev.checkWinter_canonical ha1) (ite_canonical (Dev.checkWinter_canonical ha1) (Dev.passed_canonical ha1)))); (· exact (ite_canonical (Dev.checkWinter_canonical ha1) (Dev.passed_canonical ha1))); (· exact (ite_canonical (Dev.passed_canonical ha1) (Dev.checkFailed_canonical ha1))); (· exact ha1))

theorem execSpringCheck_canonical {a1 a2 s t} (h : Canonical s.dev.flds s.dev.ctrs) (e : execSpringCheck a1 a2 s = .next t) :
    Canonical t.dev.flds t.dev.ctrs := by
  unfold execSpringCheck at e; exact run_canonical (fun _ h1 => (ite_canonical h1 (Dev.springCheck_canonical h1))) h e

theorem Dev.trialPassed_canonical {a1} (ha1 : Canonical a1.flds a1.ctrs) :
    Canonical (Dev.trialPassed a1).flds (Dev.trialPassed a1).ctrs := by
  unfold Dev.trialPassed; exact (by split; (· exact ha1); (· exact (ite_canonical (Dev.trialFailed_canonical ha1) (Dev.record_canonical (Dev.slotState_canonical (by (try dsimp only); exact ha1))))))

theorem execSpringLeft_canonical {s t} (h : Canonical s.dev.flds s.dev.ctrs) (e : execSpringLeft s = .next t) :
    Canonical t.dev.flds t.dev.ctrs := by
  unfold execSpringLeft at e; exact run_canonical (fun _ h1 => (ite_canonical h1 (Dev.settleAlert_canonical (Dev.trialPassed_canonical (ite_canonical (Dev.enterAutumn_canonical (Dev.record_canonical (by (try dsimp only); exact (Dev.set0_canonical (Dev.set0_canonical h1))))) (Dev.setHealth_canonical (Dev.record_canonical (by (try dsimp only); exact (Dev.set0_canonical (Dev.set0_canonical h1)))))))))) h e

theorem execSpringStalled_canonical {s t} (h : Canonical s.dev.flds s.dev.ctrs) (e : execSpringStalled s = .next t) :
    Canonical t.dev.flds t.dev.ctrs := by
  unfold execSpringStalled at e; exact run_canonical (fun _ h1 => (ite_canonical h1 (Dev.record_canonical (by (try dsimp only); exact h1)))) h e

/-! ### `Image` -/

theorem Dev.goTaken_canonical {a1 a2} (ha1 : Canonical a1.flds a1.ctrs) :
    Canonical (Dev.goTaken a1 a2).flds (Dev.goTaken a1 a2).ctrs := by
  unfold Dev.goTaken; exact (Dev.set0_canonical (Dev.set0_canonical (Dev.set0_canonical (Dev.set0_canonical (Dev.set0_canonical (Dev.set0_canonical ha1))))))

theorem Dev.imgGo_canonical {a1 a2 a3 a4} (ha1 : Canonical a1.flds a1.ctrs) (ha4 : ∀ x1, Canonical x1.flds x1.ctrs → Canonical (a4 x1).flds (a4 x1).ctrs) :
    Canonical (Dev.imgGo a1 a2 a3 a4).flds (Dev.imgGo a1 a2 a3 a4).ctrs := by
  unfold Dev.imgGo; exact (Dev.onWrite_canonical ha1 (fun _ h1 => (ite_canonical (Dev.set0_canonical h1) (ite_canonical (Dev.imgEnd_canonical (Dev.goTaken_canonical h1)) (ite_canonical (Dev.imgEnd_canonical (Dev.goTaken_canonical h1)) (ite_canonical (Dev.set0_canonical (ha4 _ (Dev.set0_canonical (Dev.goTaken_canonical h1)))) (ha4 _ (Dev.set0_canonical (Dev.goTaken_canonical h1)))))))))

theorem Dev.setSlot_canonical {a1 a2 a3 a4} (ha1 : Canonical a1.flds a1.ctrs) :
    Canonical (Dev.setSlot a1 a2 a3 a4).flds (Dev.setSlot a1 a2 a3 a4).ctrs := by
  unfold Dev.setSlot; exact (Dev.slotState_canonical (by (try dsimp only); exact ha1))

theorem Dev.withBuffer_canonical {a1 a2 a3 a4} (ha1 : Canonical a1.flds a1.ctrs) (ha3 : ∀ x1, Canonical x1.flds x1.ctrs → Canonical (a3 x1).flds (a3 x1).ctrs) (ha4 : ∀ x1 x2, Canonical x1.flds x1.ctrs → Canonical (a4 x1 x2).flds (a4 x1 x2).ctrs) :
    Canonical (Dev.withBuffer a1 a2 a3 a4).flds (Dev.withBuffer a1 a2 a3 a4).ctrs := by
  unfold Dev.withBuffer; exact (by split; (· exact (ha4 _ _ ha1)); (· exact (Dev.imgEnd_canonical (ha3 _ ha1))))

theorem Dev.imgRefuse_canonical {a1 a2 a3} (ha1 : Canonical a1.flds a1.ctrs) :
    Canonical (Dev.imgRefuse a1 a2 a3).flds (Dev.imgRefuse a1 a2 a3).ctrs := by
  unfold Dev.imgRefuse; exact (Dev.imgEnd_canonical (Dev.noteRefused_canonical ha1))

theorem Dev.imgLoadSlot_canonical {a1 a2 a3 a4} (ha1 : Canonical a1.flds a1.ctrs) :
    Canonical (Dev.imgLoadSlot a1 a2 a3 a4).flds (Dev.imgLoadSlot a1 a2 a3 a4).ctrs := by
  unfold Dev.imgLoadSlot; exact (Dev.imgGo_canonical ha1 (fun _ h1 => (ite_canonical (Dev.imgEnd_canonical h1) (Dev.withBuffer_canonical h1 (fun _ h2 => (Dev.setSlot_canonical h2)) (fun _ _ h3 => (by split; (· exact (Dev.imgRefuse_canonical (Dev.setSlot_canonical h3))); (· exact (Dev.imgEnd_canonical (Dev.setSlot_canonical (Dev.noteLoad_canonical h3))))))))))

theorem execImgLoadSlot_canonical {a1 a2 a3 s t} (h : Canonical s.dev.flds s.dev.ctrs) (e : execImgLoadSlot a1 a2 a3 s = .next t) :
    Canonical t.dev.flds t.dev.ctrs := by
  unfold execImgLoadSlot at e; exact run_canonical (fun _ h1 => (Dev.imgLoadSlot_canonical h1)) h e

theorem Dev.imgMarkTrial_canonical {a1 a2 a3} (ha1 : Canonical a1.flds a1.ctrs) :
    Canonical (Dev.imgMarkTrial a1 a2 a3).flds (Dev.imgMarkTrial a1 a2 a3).ctrs := by
  unfold Dev.imgMarkTrial; exact (Dev.imgGo_canonical ha1 (fun _ h1 => (ite_canonical (Dev.imgEnd_canonical h1) (ite_canonical (Dev.imgEnd_canonical h1) (Dev.imgEnd_canonical (Dev.slotState_canonical (by (try dsimp only); exact (foldl_canonical (fun _ _ h2 => (ite_canonical (Dev.slotState_canonical h2) h2)) h1))))))))

theorem execImgMarkTrial_canonical {a1 a2 s t} (h : Canonical s.dev.flds s.dev.ctrs) (e : execImgMarkTrial a1 a2 s = .next t) :
    Canonical t.dev.flds t.dev.ctrs := by
  unfold execImgMarkTrial at e; exact run_canonical (fun _ h1 => (Dev.imgMarkTrial_canonical h1)) h e

theorem Dev.imgReload_canonical {a1 a2 a3 a4 a5 a6 a7} (ha1 : Canonical a1.flds a1.ctrs) :
    Canonical (Dev.imgReload a1 a2 a3 a4 a5 a6 a7).flds (Dev.imgReload a1 a2 a3 a4 a5 a6 a7).ctrs := by
  unfold Dev.imgReload; exact (Dev.imgGo_canonical ha1 (fun _ h1 => (ite_canonical (Dev.withBuffer_canonical (Dev.record_canonical h1) (fun _ h2 => h2) (fun _ _ h3 => (by split; (· exact (Dev.imgRefuse_canonical h3)); (· exact (by (try dsimp only); exact (Dev.noteLoad_canonical h3)))))) (by split; (· exact (Dev.imgEnd_canonical h1)); (· exact (by split; (· exact (Dev.imgRefuse_canonical (Dev.record_canonical h1))); (· exact (by (try dsimp only); exact (Dev.noteLoad_canonical (Dev.record_canonical h1))))))))))

theorem execImgReload_canonical {a1 a2 a3 a4 a5 a6 s t} (h : Canonical s.dev.flds s.dev.ctrs) (e : execImgReload a1 a2 a3 a4 a5 a6 s = .next t) :
    Canonical t.dev.flds t.dev.ctrs := by
  unfold execImgReload at e; exact run_canonical (fun _ h1 => (Dev.imgReload_canonical h1)) h e

theorem Dev.stopRegion_canonical {a1 a2} (ha1 : Canonical a1.flds a1.ctrs) :
    Canonical (Dev.stopRegion a1 a2).flds (Dev.stopRegion a1 a2).ctrs := by
  unfold Dev.stopRegion; exact (foldl_canonical (fun _ _ h1 => (Dev.abandonTurn_canonical h1)) (Dev.reloadDiscard_canonical (by (try dsimp only); exact (foldl_canonical (fun _ _ h2 => (Dev.setRx_canonical h2)) (Dev.dropRecirc_canonical ha1)))))

theorem Dev.retrainPort_canonical {a1 a2} (ha1 : Canonical a1.flds a1.ctrs) :
    Canonical (Dev.retrainPort a1 a2).flds (Dev.retrainPort a1 a2).ctrs := by
  unfold Dev.retrainPort; exact (Dev.linkDown_canonical (Dev.set1_canonical (Dev.set1_canonical ha1)))

theorem execRegionReloadApply_canonical {s t} (h : Canonical s.dev.flds s.dev.ctrs) (e : execRegionReloadApply s = .next t) :
    Canonical t.dev.flds t.dev.ctrs := by
  unfold execRegionReloadApply at e; exact run_canonical (fun _ h1 => (by split; (· exact h1); (· exact (ite_canonical h1 (by (try dsimp only); exact (foldl_canonical (fun _ _ h2 => (Dev.retrainPort_canonical h2)) (foldl_canonical (fun _ _ h3 => (Dev.stopRegion_canonical h3)) (by (try dsimp only); exact h1)))))))) h e

theorem Dev.dropPortHold_canonical {a1 a2} (ha1 : Canonical a1.flds a1.ctrs) :
    Canonical (Dev.dropPortHold a1 a2).flds (Dev.dropPortHold a1 a2).ctrs := by
  unfold Dev.dropPortHold; exact (foldl_canonical (fun _ _ h1 => (ite_canonical (Dev.holdSettle_canonical (Dev.emptyQueue_canonical h1)) h1)) ha1)

theorem Dev.reloadPorts_canonical {a1 a2 a3} (ha1 : Canonical a1.flds a1.ctrs) :
    Canonical (Dev.reloadPorts a1 a2 a3).flds (Dev.reloadPorts a1 a2 a3).ctrs := by
  unfold Dev.reloadPorts; exact (foldl_canonical (fun _ _ h1 => (ite_canonical (ite_canonical (ite_canonical (Dev.portStart_canonical (Dev.portInfo_canonical (Dev.portLimits_canonical h1))) (Dev.set1_canonical (Dev.set1_canonical (Dev.portStart_canonical (Dev.portInfo_canonical (Dev.portLimits_canonical h1)))))) (Dev.clearCtrs_canonical (Dev.dropPortHold_canonical (Dev.setMac_canonical (ite_canonical (Dev.portStart_canonical (Dev.portInfo_canonical (Dev.portLimits_canonical h1))) (Dev.set1_canonical (Dev.set1_canonical (Dev.portStart_canonical (Dev.portInfo_canonical (Dev.portLimits_canonical h1)))))))))) (Dev.portLimits_canonical h1))) ha1)

theorem execRegionReloadBringup_canonical {a1 a2 s t} (h : Canonical s.dev.flds s.dev.ctrs) (e : execRegionReloadBringup a1 a2 s = .next t) :
    Canonical t.dev.flds t.dev.ctrs := by
  unfold execRegionReloadBringup at e; exact run_canonical (fun _ h1 => (by split; (· exact h1); (· exact (ite_canonical h1 (ite_canonical (Dev.imgEnd_canonical (Dev.record_canonical (Dev.set0_canonical (Dev.set0_canonical (Dev.reloadPorts_canonical (by (try dsimp only); exact h1)))))) (Dev.set0_canonical (Dev.imgEnd_canonical (ite_canonical (Dev.record_canonical (by (try dsimp only); exact (by (try dsimp only); exact h1))) (foldl_canonical (fun _ _ h2 => (Dev.isolateRegion_canonical h2)) (Dev.record_canonical (by (try dsimp only); exact (by (try dsimp only); exact h1)))))))))))) h e

theorem Dev.imgAmend_canonical {a1 a2 a3} (ha1 : Canonical a1.flds a1.ctrs) :
    Canonical (Dev.imgAmend a1 a2 a3).flds (Dev.imgAmend a1 a2 a3).ctrs := by
  unfold Dev.imgAmend; exact (Dev.imgGo_canonical ha1 (fun _ h1 => (Dev.withBuffer_canonical h1 (fun _ h2 => h2) (fun _ _ h3 => (by split; (· exact (Dev.imgRefuse_canonical h3)); (· exact (by (try dsimp only); exact (Dev.noteLoad_canonical h3))))))))

theorem execImgAmend_canonical {a1 a2 s t} (h : Canonical s.dev.flds s.dev.ctrs) (e : execImgAmend a1 a2 s = .next t) :
    Canonical t.dev.flds t.dev.ctrs := by
  unfold execImgAmend at e; exact run_canonical (fun _ h1 => (Dev.imgAmend_canonical h1)) h e

theorem execAmendmentApply_canonical {s t} (h : Canonical s.dev.flds s.dev.ctrs) (e : execAmendmentApply s = .next t) :
    Canonical t.dev.flds t.dev.ctrs := by
  unfold execAmendmentApply at e; exact run_canonical (fun _ h1 => (by split; (· exact h1); (· exact (Dev.imgEnd_canonical (Dev.record_canonical (Dev.set0_canonical (Dev.satInc_canonical (Dev.takeCals_canonical (ite_canonical (by (try dsimp only); exact h1) (Dev.takeTime_canonical (by (try dsimp only); exact h1))))))))))) h e

theorem Dev.imgEraseSlot_canonical {a1 a2 a3} (ha1 : Canonical a1.flds a1.ctrs) :
    Canonical (Dev.imgEraseSlot a1 a2 a3).flds (Dev.imgEraseSlot a1 a2 a3).ctrs := by
  unfold Dev.imgEraseSlot; exact (Dev.imgGo_canonical ha1 (fun _ h1 => (ite_canonical (Dev.imgEnd_canonical h1) (Dev.imgEnd_canonical (Dev.setSlot_canonical h1)))))

theorem execImgEraseSlot_canonical {a1 a2 s t} (h : Canonical s.dev.flds s.dev.ctrs) (e : execImgEraseSlot a1 a2 s = .next t) :
    Canonical t.dev.flds t.dev.ctrs := by
  unfold execImgEraseSlot at e; exact run_canonical (fun _ h1 => (Dev.imgEraseSlot_canonical h1)) h e

theorem Dev.imgVerifySlot_canonical {a1 a2 a3 a4} (ha1 : Canonical a1.flds a1.ctrs) :
    Canonical (Dev.imgVerifySlot a1 a2 a3 a4).flds (Dev.imgVerifySlot a1 a2 a3 a4).ctrs := by
  unfold Dev.imgVerifySlot; exact (Dev.imgGo_canonical ha1 (fun _ h1 => (ite_canonical (Dev.imgEnd_canonical h1) (by split; (· exact (Dev.imgRefuse_canonical (Dev.slotState_canonical h1))); (· exact (Dev.imgEnd_canonical h1))))))

theorem execImgVerifySlot_canonical {a1 a2 a3 s t} (h : Canonical s.dev.flds s.dev.ctrs) (e : execImgVerifySlot a1 a2 a3 s = .next t) :
    Canonical t.dev.flds t.dev.ctrs := by
  unfold execImgVerifySlot at e; exact run_canonical (fun _ h1 => (Dev.imgVerifySlot_canonical h1)) h e

theorem Dev.imgLoadAndCommit_canonical {a1 a2 a3} (ha1 : Canonical a1.flds a1.ctrs) :
    Canonical (Dev.imgLoadAndCommit a1 a2 a3).flds (Dev.imgLoadAndCommit a1 a2 a3).ctrs := by
  unfold Dev.imgLoadAndCommit; exact (Dev.imgGo_canonical ha1 (fun _ h1 => (ite_canonical (Dev.imgEnd_canonical h1) (Dev.withBuffer_canonical h1 (fun _ h2 => h2) (fun _ _ h3 => (by split; (· exact (Dev.imgRefuse_canonical h3)); (· exact (Dev.imgEnd_canonical (Dev.commit_canonical (Dev.noteLoad_canonical h3))))))))))

theorem execImgLoadAndCommit_canonical {a1 a2 s t} (h : Canonical s.dev.flds s.dev.ctrs) (e : execImgLoadAndCommit a1 a2 s = .next t) :
    Canonical t.dev.flds t.dev.ctrs := by
  unfold execImgLoadAndCommit at e; exact run_canonical (fun _ h1 => (Dev.imgLoadAndCommit_canonical h1)) h e

theorem execImgBadCommand_canonical {a1 a2 a3 a4 a5 s t} (h : Canonical s.dev.flds s.dev.ctrs) (e : execImgBadCommand a1 a2 a3 a4 a5 s = .next t) :
    Canonical t.dev.flds t.dev.ctrs := by
  unfold execImgBadCommand at e; exact run_canonical (fun _ h1 => (ite_canonical (Dev.imgGo_canonical h1 (fun _ h2 => h2)) h1)) h e

theorem execImageTrialTimeout_canonical {s t} (h : Canonical s.dev.flds s.dev.ctrs) (e : execImageTrialTimeout s = .next t) :
    Canonical t.dev.flds t.dev.ctrs := by
  unfold execImageTrialTimeout at e; exact run_canonical (fun _ h1 => (ite_canonical (Dev.trialFailed_canonical h1) h1)) h e

theorem execSectionScrub_canonical {a1 s t} (h : Canonical s.dev.flds s.dev.ctrs) (e : execSectionScrub a1 s = .next t) :
    Canonical t.dev.flds t.dev.ctrs := by
  unfold execSectionScrub at e; exact run_canonical (fun _ h1 => (ite_canonical h1 (by (try dsimp only); exact (Dev.winterCause_canonical (Dev.record_canonical h1))))) h e

/-! ### `Pmc` -/

theorem Dev.pmcClear_canonical {a1 a2} (ha1 : Canonical a1.flds a1.ctrs) :
    Canonical (Dev.pmcClear a1 a2).flds (Dev.pmcClear a1 a2).ctrs := by
  unfold Dev.pmcClear; exact (Dev.set1_canonical (by (try dsimp only); exact ha1))

theorem Dev.pmcClearAll_canonical {a1} (ha1 : Canonical a1.flds a1.ctrs) :
    Canonical (Dev.pmcClearAll a1).flds (Dev.pmcClearAll a1).ctrs := by
  unfold Dev.pmcClearAll; exact (foldl_canonical (fun _ _ h1 => (Dev.pmcClear_canonical h1)) ha1)

theorem Dev.pmcEnAll_canonical {a1 a2} (ha1 : Canonical a1.flds a1.ctrs) :
    Canonical (Dev.pmcEnAll a1 a2).flds (Dev.pmcEnAll a1 a2).ctrs := by
  unfold Dev.pmcEnAll; exact (foldl_canonical (fun _ _ h1 => (Dev.set1_canonical h1)) ha1)

theorem Dev.pmcSnap_canonical {a1} (ha1 : Canonical a1.flds a1.ctrs) :
    Canonical (Dev.pmcSnap a1).flds (Dev.pmcSnap a1).ctrs := by
  unfold Dev.pmcSnap; exact (by (try dsimp only); exact ha1)

theorem Dev.pmcCtrl_canonical {a1 a2 a3 a4 a5} (ha1 : Canonical a1.flds a1.ctrs) :
    Canonical (Dev.pmcCtrl a1 a2 a3 a4 a5).flds (Dev.pmcCtrl a1 a2 a3 a4 a5).ctrs := by
  unfold Dev.pmcCtrl; exact (ite_canonical (Dev.pmcClearAll_canonical (ite_canonical (Dev.pmcEnAll_canonical (ite_canonical (Dev.pmcEnAll_canonical (ite_canonical (Dev.pmcSnap_canonical ha1) ha1)) (ite_canonical (Dev.pmcSnap_canonical ha1) ha1))) (ite_canonical (Dev.pmcEnAll_canonical (ite_canonical (Dev.pmcSnap_canonical ha1) ha1)) (ite_canonical (Dev.pmcSnap_canonical ha1) ha1)))) (ite_canonical (Dev.pmcEnAll_canonical (ite_canonical (Dev.pmcEnAll_canonical (ite_canonical (Dev.pmcSnap_canonical ha1) ha1)) (ite_canonical (Dev.pmcSnap_canonical ha1) ha1))) (ite_canonical (Dev.pmcEnAll_canonical (ite_canonical (Dev.pmcSnap_canonical ha1) ha1)) (ite_canonical (Dev.pmcSnap_canonical ha1) ha1))))

theorem Dev.pmcSel_canonical {a1 a2 a3 a4 a5 a6} (ha1 : Canonical a1.flds a1.ctrs) :
    Canonical (Dev.pmcSel a1 a2 a3 a4 a5 a6).flds (Dev.pmcSel a1 a2 a3 a4 a5 a6).ctrs := by
  unfold Dev.pmcSel; exact (ite_canonical ha1 (by split; (· exact ha1); (· exact (ite_canonical ha1 (Dev.setFld_canonical (Dev.setFld_canonical (Dev.setFld_canonical ha1)))))))

theorem Dev.bwStart_canonical {a1} (ha1 : Canonical a1.flds a1.ctrs) :
    Canonical (Dev.bwStart a1).flds (Dev.bwStart a1).ctrs := by
  unfold Dev.bwStart; exact (by (try dsimp only); exact ha1)

theorem Dev.bwEnd_canonical {a1} (ha1 : Canonical a1.flds a1.ctrs) :
    Canonical (Dev.bwEnd a1).flds (Dev.bwEnd a1).ctrs := by
  unfold Dev.bwEnd; exact (Dev.bwStart_canonical (Dev.set0_canonical (foldl_canonical (fun _ _ h1 => (Dev.set1_canonical (Dev.set1_canonical (Dev.set1_canonical (Dev.set1_canonical h1))))) ha1)))

theorem Dev.bwClearPeaks_canonical {a1} (ha1 : Canonical a1.flds a1.ctrs) :
    Canonical (Dev.bwClearPeaks a1).flds (Dev.bwClearPeaks a1).ctrs := by
  unfold Dev.bwClearPeaks; exact (Dev.resetFlds_canonical ha1)

theorem Dev.bwWindow_canonical {a1 a2} (ha1 : Canonical a1.flds a1.ctrs) :
    Canonical (Dev.bwWindow a1 a2).flds (Dev.bwWindow a1 a2).ctrs := by
  unfold Dev.bwWindow; exact (ite_canonical ha1 (Dev.bwStart_canonical (Dev.set0_canonical (Dev.resetFlds_canonical (Dev.set0_canonical ha1)))))

theorem execPmcStartAll_canonical {a1 s t} (h : Canonical s.dev.flds s.dev.ctrs) (e : execPmcStartAll a1 s = .next t) :
    Canonical t.dev.flds t.dev.ctrs := by
  unfold execPmcStartAll at e; exact run_canonical (fun _ h1 => (Dev.onWrite_canonical h1 (fun _ h2 => (Dev.pmcCtrl_canonical h2)))) h e

theorem execPmcStopAll_canonical {a1 s t} (h : Canonical s.dev.flds s.dev.ctrs) (e : execPmcStopAll a1 s = .next t) :
    Canonical t.dev.flds t.dev.ctrs := by
  unfold execPmcStopAll at e; exact run_canonical (fun _ h1 => (Dev.onWrite_canonical h1 (fun _ h2 => (Dev.pmcCtrl_canonical h2)))) h e

theorem execPmcClrAll_canonical {a1 s t} (h : Canonical s.dev.flds s.dev.ctrs) (e : execPmcClrAll a1 s = .next t) :
    Canonical t.dev.flds t.dev.ctrs := by
  unfold execPmcClrAll at e; exact run_canonical (fun _ h1 => (Dev.onWrite_canonical h1 (fun _ h2 => (Dev.pmcCtrl_canonical h2)))) h e

theorem execPmcSnap_canonical {a1 s t} (h : Canonical s.dev.flds s.dev.ctrs) (e : execPmcSnap a1 s = .next t) :
    Canonical t.dev.flds t.dev.ctrs := by
  unfold execPmcSnap at e; exact run_canonical (fun _ h1 => (Dev.onWrite_canonical h1 (fun _ h2 => (Dev.pmcCtrl_canonical h2)))) h e

theorem execPmcMonitorClr_canonical {a1 a2 a3 s t} (h : Canonical s.dev.flds s.dev.ctrs) (e : execPmcMonitorClr a1 a2 a3 s = .next t) :
    Canonical t.dev.flds t.dev.ctrs := by
  unfold execPmcMonitorClr at e; exact run_canonical (fun _ h1 => (Dev.onWrite_canonical h1 (fun _ h2 => (Dev.set1_canonical (Dev.pmcClear_canonical h2))))) h e

theorem execPmcSelWrite_canonical {a1 a2 a3 a4 a5 a6 s t} (h : Canonical s.dev.flds s.dev.ctrs) (e : execPmcSelWrite a1 a2 a3 a4 a5 a6 s = .next t) :
    Canonical t.dev.flds t.dev.ctrs := by
  unfold execPmcSelWrite at e; exact run_canonical (fun _ h1 => (Dev.onWrite_canonical h1 (fun _ h2 => (Dev.pmcSel_canonical h2)))) h e

theorem execPmcBwWindowEnd_canonical {s t} (h : Canonical s.dev.flds s.dev.ctrs) (e : execPmcBwWindowEnd s = .next t) :
    Canonical t.dev.flds t.dev.ctrs := by
  unfold execPmcBwWindowEnd at e; exact run_canonical (fun _ h1 => (ite_canonical h1 (Dev.bwEnd_canonical h1))) h e

theorem execPmcBwWindowWrite_canonical {a1 a2 s t} (h : Canonical s.dev.flds s.dev.ctrs) (e : execPmcBwWindowWrite a1 a2 s = .next t) :
    Canonical t.dev.flds t.dev.ctrs := by
  unfold execPmcBwWindowWrite at e; exact run_canonical (fun _ h1 => (Dev.onWrite_canonical h1 (fun _ h2 => (Dev.bwWindow_canonical h2)))) h e

theorem execPmcBwClrPeak_canonical {a1 s t} (h : Canonical s.dev.flds s.dev.ctrs) (e : execPmcBwClrPeak a1 s = .next t) :
    Canonical t.dev.flds t.dev.ctrs := by
  unfold execPmcBwClrPeak at e; exact run_canonical (fun _ h1 => (Dev.onWrite_canonical h1 (fun _ h2 => (Dev.bwClearPeaks_canonical h2)))) h e

/-! ### `Recorder` -/

theorem execEvrFlushTimer_canonical {s t} (h : Canonical s.dev.flds s.dev.ctrs) (e : execEvrFlushTimer s = .next t) :
    Canonical t.dev.flds t.dev.ctrs := by
  unfold execEvrFlushTimer at e; exact run_canonical (fun _ h1 => (ite_canonical h1 (Dev.evrTrigger_canonical h1))) h e

theorem execEvrCtrlFlush_canonical {a1 s t} (h : Canonical s.dev.flds s.dev.ctrs) (e : execEvrCtrlFlush a1 s = .next t) :
    Canonical t.dev.flds t.dev.ctrs := by
  unfold execEvrCtrlFlush at e; exact run_canonical (fun _ h1 => (Dev.onWrite_canonical h1 (fun _ h2 => (Dev.evrCtrl_canonical h2)))) h e

theorem execEvrFlushErrorTrigger_canonical {s t} (h : Canonical s.dev.flds s.dev.ctrs) (e : execEvrFlushErrorTrigger s = .next t) :
    Canonical t.dev.flds t.dev.ctrs := by
  unfold execEvrFlushErrorTrigger at e; exact run_canonical (fun _ h1 => (ite_canonical (Dev.evrTrigger_canonical (by (try dsimp only); exact h1)) h1)) h e

theorem execEvrFlushDone_canonical {a1 s t} (h : Canonical s.dev.flds s.dev.ctrs) (e : execEvrFlushDone a1 s = .next t) :
    Canonical t.dev.flds t.dev.ctrs := by
  unfold execEvrFlushDone at e; exact run_canonical (fun _ h1 => (ite_canonical h1 (ite_canonical (Dev.evrTrigger_canonical (Dev.evrFlushEnd_canonical (Dev.dropCorrupt_canonical h1))) (Dev.evrFlushEnd_canonical (Dev.dropCorrupt_canonical h1))))) h e

theorem execEvrFreeze_canonical {a1 s t} (h : Canonical s.dev.flds s.dev.ctrs) (e : execEvrFreeze a1 s = .next t) :
    Canonical t.dev.flds t.dev.ctrs := by
  unfold execEvrFreeze at e; exact run_canonical (fun _ h1 => (Dev.onWrite_canonical h1 (fun _ h2 => (Dev.evrCtrl_canonical h2)))) h e

theorem execEvrThaw_canonical {a1 s t} (h : Canonical s.dev.flds s.dev.ctrs) (e : execEvrThaw a1 s = .next t) :
    Canonical t.dev.flds t.dev.ctrs := by
  unfold execEvrThaw at e; exact run_canonical (fun _ h1 => (Dev.onWrite_canonical h1 (fun _ h2 => (Dev.evrCtrl_canonical h2)))) h e

theorem execEvrFreezeAutoRelease_canonical {s t} (h : Canonical s.dev.flds s.dev.ctrs) (e : execEvrFreezeAutoRelease s = .next t) :
    Canonical t.dev.flds t.dev.ctrs := by
  unfold execEvrFreezeAutoRelease at e; exact run_canonical (fun _ h1 => (by split; (· exact h1); (· exact (ite_canonical (Dev.evrRelease_canonical h1) (ite_canonical (Dev.evrRelease_canonical h1) h1))))) h e

theorem execEvrEraseDone_canonical {s t} (h : Canonical s.dev.flds s.dev.ctrs) (e : execEvrEraseDone s = .next t) :
    Canonical t.dev.flds t.dev.ctrs := by
  unfold execEvrEraseDone at e; exact run_canonical (fun _ h1 => (ite_canonical h1 (ite_canonical (Dev.evrTrigger_canonical (Dev.eraseEnd_canonical h1)) (Dev.eraseEnd_canonical h1)))) h e

theorem execEvrUnanchored_canonical {s t} (h : Canonical s.dev.flds s.dev.ctrs) (e : execEvrUnanchored s = .next t) :
    Canonical t.dev.flds t.dev.ctrs := by
  unfold execEvrUnanchored at e; exact run_canonical (fun _ h1 => (ite_canonical h1 (Dev.numberStaged_canonical (Dev.set0_canonical h1)))) h e

theorem execEvrStageSeqWrite_canonical {a1 a2 s t} (h : Canonical s.dev.flds s.dev.ctrs) (e : execEvrStageSeqWrite a1 a2 s = .next t) :
    Canonical t.dev.flds t.dev.ctrs := by
  unfold execEvrStageSeqWrite at e; exact run_canonical (fun _ h1 => (Dev.onWrite_canonical h1 (fun _ h2 => (Dev.stageLoad_canonical h2)))) h e

theorem execEvrStageRelease_canonical {a1 a2 s t} (h : Canonical s.dev.flds s.dev.ctrs) (e : execEvrStageRelease a1 a2 s = .next t) :
    Canonical t.dev.flds t.dev.ctrs := by
  unfold execEvrStageRelease at e; exact run_canonical (fun _ h1 => (Dev.onWrite_canonical h1 (fun _ h2 => (Dev.stageRelease_canonical h2)))) h e

/-! ### `Time` -/

theorem execTimAdjSet_canonical {a1 s t} (h : Canonical s.dev.flds s.dev.ctrs) (e : execTimAdjSet a1 s = .next t) :
    Canonical t.dev.flds t.dev.ctrs := by
  unfold execTimAdjSet at e; exact run_canonical (fun _ h1 => (Dev.onWrite_canonical h1 (fun _ h2 => (Dev.adjust_canonical h2)))) h e

theorem execTimAdjStep_canonical {a1 s t} (h : Canonical s.dev.flds s.dev.ctrs) (e : execTimAdjStep a1 s = .next t) :
    Canonical t.dev.flds t.dev.ctrs := by
  unfold execTimAdjStep at e; exact run_canonical (fun _ h1 => (Dev.onWrite_canonical h1 (fun _ h2 => (Dev.adjust_canonical h2)))) h e

theorem execTimAdjRate_canonical {a1 s t} (h : Canonical s.dev.flds s.dev.ctrs) (e : execTimAdjRate a1 s = .next t) :
    Canonical t.dev.flds t.dev.ctrs := by
  unfold execTimAdjRate at e; exact run_canonical (fun _ h1 => (Dev.onWrite_canonical h1 (fun _ h2 => (Dev.adjust_canonical h2)))) h e

theorem execTimAdjStepRate_canonical {a1 s t} (h : Canonical s.dev.flds s.dev.ctrs) (e : execTimAdjStepRate a1 s = .next t) :
    Canonical t.dev.flds t.dev.ctrs := by
  unfold execTimAdjStepRate at e; exact run_canonical (fun _ h1 => (Dev.onWrite_canonical h1 (fun _ h2 => (Dev.adjust_canonical h2)))) h e

theorem execTimAdjRefused_canonical {a1 a2 s t} (h : Canonical s.dev.flds s.dev.ctrs) (e : execTimAdjRefused a1 a2 s = .next t) :
    Canonical t.dev.flds t.dev.ctrs := by
  unfold execTimAdjRefused at e; exact run_canonical (fun _ h1 => (Dev.onWrite_canonical h1 (fun _ h2 => (Dev.adjust_canonical h2)))) h e

theorem execEpochSwitch_canonical {s t} (h : Canonical s.dev.flds s.dev.ctrs) (e : execEpochSwitch s = .next t) :
    Canonical t.dev.flds t.dev.ctrs := by
  unfold execEpochSwitch at e; exact run_canonical (fun _ h1 => (by (try dsimp only); split; (· exact h1); (· exact (ite_canonical h1 (by (try dsimp only); split; (· exact (ite_canonical (Dev.schedule_canonical (by (try dsimp only); exact (Dev.count_canonical (Dev.set0_canonical (by (try dsimp only); exact h1))))) (Dev.count_canonical (Dev.set0_canonical (by (try dsimp only); exact h1))))); (· exact (ite_canonical (Dev.record_canonical (Dev.count_canonical (ite_canonical (Dev.schedule_canonical (by (try dsimp only); exact (Dev.count_canonical (Dev.set0_canonical (by (try dsimp only); exact h1))))) (Dev.count_canonical (Dev.set0_canonical (by (try dsimp only); exact h1)))))) (foldl_canonical (fun _ _ h2 => (Dev.skipEdges_canonical (Dev.missEdges_canonical h2))) (Dev.record_canonical (Dev.count_canonical (ite_canonical (Dev.schedule_canonical (by (try dsimp only); exact (Dev.count_canonical (Dev.set0_canonical (by (try dsimp only); exact h1))))) (Dev.count_canonical (Dev.set0_canonical (by (try dsimp only); exact h1)))))))))))))) h e

theorem Dev.invalidate_canonical {a1 a2 a3} (ha1 : Canonical a1.flds a1.ctrs) :
    Canonical (Dev.invalidate a1 a2 a3).flds (Dev.invalidate a1 a2 a3).ctrs := by
  unfold Dev.invalidate; exact (by (try dsimp only); exact ha1)

theorem execTimeBusFullValue_canonical {a1 a2 s t} (h : Canonical s.dev.flds s.dev.ctrs) (e : execTimeBusFullValue a1 a2 s = .next t) :
    Canonical t.dev.flds t.dev.ctrs := by
  unfold execTimeBusFullValue at e; exact run_canonical (fun _ h1 => (ite_canonical h1 (ite_canonical (by (try dsimp only); exact h1) (ite_canonical (Dev.autumn_canonical (Dev.record_canonical (Dev.setBit_canonical (by (try dsimp only); exact (Dev.invalidate_canonical (Dev.count_canonical h1)))))) (by (try dsimp only); exact (Dev.invalidate_canonical (Dev.count_canonical h1))))))) h e

theorem Dev.popTxts_canonical {a1 a2 a3} (ha1 : Canonical a1.flds a1.ctrs) :
    Canonical (Dev.popTxts a1 a2 a3).2.flds (Dev.popTxts a1 a2 a3).2.ctrs := by
  unfold Dev.popTxts; exact (by (try dsimp only); split; (· exact (by (try dsimp only); exact ha1)); (· exact (by (try dsimp only); exact (Dev.latch_canonical (Dev.latch_canonical (by (try dsimp only); exact ha1))))))

theorem execTxtsPop_canonical {a1 a2 s t} (h : Canonical s.dev.flds s.dev.ctrs) (e : execTxtsPop a1 a2 s = .next t) :
    Canonical t.dev.flds t.dev.ctrs := by
  unfold execTxtsPop at e; exact run_canonical (fun _ h1 => (Dev.onPop_canonical h1 (fun _ h2 => (Dev.popTxts_canonical h2)))) h e

theorem Dev.setConv_canonical {a1 a2 a3} (ha1 : Canonical a1.flds a1.ctrs) :
    Canonical (Dev.setConv a1 a2 a3).flds (Dev.setConv a1 a2 a3).ctrs := by
  unfold Dev.setConv; exact (by (try dsimp only); exact ha1)

theorem Dev.convGo_canonical {a1 a2 a3 a4} (ha1 : Canonical a1.flds a1.ctrs) :
    Canonical (Dev.convGo a1 a2 a3 a4).flds (Dev.convGo a1 a2 a3 a4).ctrs := by
  unfold Dev.convGo; exact (by (try dsimp only); split; (· exact (Dev.setConv_canonical ha1)); (· exact (Dev.count_canonical (Dev.setConv_canonical ha1))))

theorem execTimConv_canonical {a1 a2 a3 s t} (h : Canonical s.dev.flds s.dev.ctrs) (e : execTimConv a1 a2 a3 s = .next t) :
    Canonical t.dev.flds t.dev.ctrs := by
  unfold execTimConv at e; exact run_canonical (fun _ h1 => (Dev.onWrite_canonical h1 (fun _ h2 => (Dev.convGo_canonical h2)))) h e

theorem execPulseArm_canonical {a1 a2 a3 a4 a5 s t} (h : Canonical s.dev.flds s.dev.ctrs) (e : execPulseArm a1 a2 a3 a4 a5 s = .next t) :
    Canonical t.dev.flds t.dev.ctrs := by
  unfold execPulseArm at e; exact run_canonical (fun _ h1 => (Dev.onWrite_canonical h1 (fun _ h2 => (Dev.armPulse_canonical h2)))) h e

theorem execPulseEdge_canonical {a1 s t} (h : Canonical s.dev.flds s.dev.ctrs) (e : execPulseEdge a1 s = .next t) :
    Canonical t.dev.flds t.dev.ctrs := by
  unfold execPulseEdge at e; exact run_canonical (fun _ h1 => (ite_canonical h1 (ite_canonical (Dev.missEdges_canonical (Dev.skipEdges_canonical h1)) (ite_canonical (Dev.missEdges_canonical (Dev.skipEdges_canonical h1)) (Dev.setPulse_canonical (Dev.skipEdges_canonical h1)))))) h e

theorem execPulseFall_canonical {a1 s t} (h : Canonical s.dev.flds s.dev.ctrs) (e : execPulseFall a1 s = .next t) :
    Canonical t.dev.flds t.dev.ctrs := by
  unfold execPulseFall at e; exact run_canonical (fun _ h1 => (ite_canonical (Dev.setPulse_canonical h1) h1)) h e

theorem execCaptureInputEdge_canonical {a1 a2 a3 s t} (h : Canonical s.dev.flds s.dev.ctrs) (e : execCaptureInputEdge a1 a2 a3 s = .next t) :
    Canonical t.dev.flds t.dev.ctrs := by
  unfold execCaptureInputEdge at e; exact run_canonical (fun _ h1 => (ite_canonical h1 (ite_canonical (by (try dsimp only); exact h1) (Dev.record_canonical (Dev.count_canonical (Dev.set1_canonical h1)))))) h e

theorem Dev.popCap_canonical {a1 a2 a3} (ha1 : Canonical a1.flds a1.ctrs) :
    Canonical (Dev.popCap a1 a2 a3).2.flds (Dev.popCap a1 a2 a3).2.ctrs := by
  unfold Dev.popCap; exact (by split; (· exact (by (try dsimp only); exact ha1)); (· exact (by (try dsimp only); exact (Dev.latch_canonical (Dev.latch_canonical (by (try dsimp only); exact ha1))))))

theorem execCapPop_canonical {a1 a2 s t} (h : Canonical s.dev.flds s.dev.ctrs) (e : execCapPop a1 a2 s = .next t) :
    Canonical t.dev.flds t.dev.ctrs := by
  unfold execCapPop at e; exact run_canonical (fun _ h1 => (Dev.onPop_canonical h1 (fun _ h2 => (Dev.popCap_canonical h2)))) h e

theorem Dev.flushCaps_canonical {a1 a2} (ha1 : Canonical a1.flds a1.ctrs) :
    Canonical (Dev.flushCaps a1 a2).flds (Dev.flushCaps a1 a2).ctrs := by
  unfold Dev.flushCaps; exact (by (try dsimp only); exact ha1)

theorem execCapFlush_canonical {a1 a2 s t} (h : Canonical s.dev.flds s.dev.ctrs) (e : execCapFlush a1 a2 s = .next t) :
    Canonical t.dev.flds t.dev.ctrs := by
  unfold execCapFlush at e; exact run_canonical (fun _ h1 => (Dev.onWrite_canonical h1 (fun _ h2 => (Dev.flushCaps_canonical h2)))) h e

theorem Dev.ptpCount_canonical {a1 a2 a3} (ha1 : Canonical a1.flds a1.ctrs) :
    Canonical (Dev.ptpCount a1 a2 a3).1.flds (Dev.ptpCount a1 a2 a3).1.ctrs := by
  unfold Dev.ptpCount; exact (by (try dsimp only); exact (Dev.setPtp_canonical ha1))

theorem Dev.ptpAccept_canonical {a1 a2 a3} (ha1 : Canonical a1.flds a1.ctrs) :
    Canonical (Dev.ptpAccept a1 a2 a3).flds (Dev.ptpAccept a1 a2 a3).ctrs := by
  unfold Dev.ptpAccept; exact (by (try dsimp only); split; (· exact (Dev.chooseMaster_canonical (Dev.setPtp_canonical ha1))); (· exact (Dev.setPtp_canonical ha1)); (· exact (by (try dsimp only); split; (· exact (Dev.set1_canonical (Dev.setPtp_canonical ha1))); (· exact (Dev.setPtp_canonical ha1)))); (· exact (by (try dsimp only); split; (· exact (Dev.set1_canonical ha1)); (· exact ha1))); (· exact ha1))

theorem execPtpRxFirmware_canonical {a1 a2 s t} (h : Canonical s.dev.flds s.dev.ctrs) (e : execPtpRxFirmware a1 a2 s = .next t) :
    Canonical t.dev.flds t.dev.ctrs := by
  unfold execPtpRxFirmware at e; exact run_canonical (fun _ h1 => (ite_canonical h1 (ite_canonical (Dev.ptpViolation_canonical (Dev.count_canonical (Dev.setPtp_canonical (Dev.ptpCount_canonical h1)))) (ite_canonical (Dev.ptpViolation_canonical (Dev.count_canonical (Dev.ptpCount_canonical h1))) (ite_canonical (Dev.count_canonical (Dev.ptpCount_canonical h1)) (ite_canonical (Dev.ptpViolation_canonical (Dev.count_canonical (Dev.ptpCount_canonical h1))) (ite_canonical (Dev.count_canonical (Dev.ptpCount_canonical h1)) (ite_canonical (Dev.ptpViolation_canonical (Dev.count_canonical (Dev.ptpCount_canonical h1))) (ite_canonical (Dev.ptpViolation_canonical (Dev.count_canonical (Dev.ptpCount_canonical h1))) (Dev.ptpAccept_canonical (Dev.ptpCount_canonical h1))))))))))) h e

theorem execPtpServoUpdate_canonical {a1 a2 a3 s t} (h : Canonical s.dev.flds s.dev.ctrs) (e : execPtpServoUpdate a1 a2 a3 s = .next t) :
    Canonical t.dev.flds t.dev.ctrs := by
  unfold execPtpServoUpdate at e; exact run_canonical (fun _ h1 => (by split; (· exact h1); (· exact (ite_canonical h1 (ite_canonical (ite_canonical (Dev.record_canonical (Dev.set0_canonical (by (try dsimp only); exact (Dev.schedule_canonical h1)))) (Dev.set0_canonical (by (try dsimp only); exact (Dev.schedule_canonical h1)))) (ite_canonical (ite_canonical (Dev.count_canonical (by (try dsimp only); exact h1)) (Dev.record_canonical (Dev.set0_canonical (Dev.count_canonical (by (try dsimp only); exact h1))))) (Dev.schedule_canonical h1))))))) h e

theorem execGmLost_canonical {s t} (h : Canonical s.dev.flds s.dev.ctrs) (e : execGmLost s = .next t) :
    Canonical t.dev.flds t.dev.ctrs := by
  unfold execGmLost at e; exact run_canonical (fun _ h1 => (ite_canonical h1 (Dev.record_canonical (Dev.set0_canonical (ite_canonical (by (try dsimp only); exact h1) (ite_canonical (by (try dsimp only); exact (by (try dsimp only); exact h1)) (Dev.schedule_canonical (by (try dsimp only); exact h1)))))))) h e

theorem execAcceptJump_canonical {a1 s t} (h : Canonical s.dev.flds s.dev.ctrs) (e : execAcceptJump a1 s = .next t) :
    Canonical t.dev.flds t.dev.ctrs := by
  unfold execAcceptJump at e; exact run_canonical (fun _ h1 => (Dev.onWrite_canonical h1 (fun _ h2 => (Dev.acceptJump_canonical h2)))) h e

theorem execClockModeWrite_canonical {a1 a2 s t} (h : Canonical s.dev.flds s.dev.ctrs) (e : execClockModeWrite a1 a2 s = .next t) :
    Canonical t.dev.flds t.dev.ctrs := by
  unfold execClockModeWrite at e; exact run_canonical (fun _ h1 => (Dev.onWrite_canonical h1 (fun _ h2 => (Dev.writeClockMode_canonical h2)))) h e

theorem execPtpIsolateEnd_canonical {a1 s t} (h : Canonical s.dev.flds s.dev.ctrs) (e : execPtpIsolateEnd a1 s = .next t) :
    Canonical t.dev.flds t.dev.ctrs := by
  unfold execPtpIsolateEnd at e; exact run_canonical (fun _ h1 => (ite_canonical (Dev.setPtp_canonical h1) h1)) h e

theorem execPtpMessageSend_canonical {a1 a2 a3 a4 s t} (h : Canonical s.dev.flds s.dev.ctrs) (e : execPtpMessageSend a1 a2 a3 a4 s = .next t) :
    Canonical t.dev.flds t.dev.ctrs := by
  unfold execPtpMessageSend at e; exact run_canonical (fun _ h1 => (ite_canonical h1 (Dev.sendMsg_canonical (Dev.setPtp_canonical h1)))) h e

end Sys2Proof.Machine
end

