-- ==== Sys2Proof/Laws/CanonicalPair.lean ====
section
/-! SUPPORT. Each function of one kind keeps the registers and counters in their one form: the fabric, the lease, the
tables, the TCAM and the digests. -/

set_option linter.all false
namespace Sys2Proof.Machine

/-! ### `Fabric` -/

theorem Dev.fabViolation_canonical {a1 a2 a3} (ha1 : Canonical a1.flds a1.ctrs) :
    Canonical (Dev.fabViolation a1 a2 a3).flds (Dev.fabViolation a1 a2 a3).ctrs := by
  unfold Dev.fabViolation; exact (Dev.recordLimited_canonical ha1)

theorem execFabHelloSend_canonical {a1 s t} (h : Canonical s.dev.flds s.dev.ctrs) (e : execFabHelloSend a1 s = .next t) :
    Canonical t.dev.flds t.dev.ctrs := by
  unfold execFabHelloSend at e; exact run_canonical (fun _ h1 => (ite_canonical h1 (Dev.count_canonical (Dev.fabControl_canonical (Dev.setAdj_canonical h1))))) h e

theorem Dev.badHelloTag_canonical {a1 a2} (ha1 : Canonical a1.flds a1.ctrs) :
    Canonical (Dev.badHelloTag a1 a2).flds (Dev.badHelloTag a1 a2).ctrs := by
  unfold Dev.badHelloTag; exact (ite_canonical (Dev.fabViolation_canonical (Dev.count_canonical (Dev.setAdj_canonical ha1))) (Dev.setAdj_canonical (Dev.adjGo_canonical (Dev.fabViolation_canonical (Dev.count_canonical (Dev.setAdj_canonical ha1))))))

theorem Dev.helloAccepted_canonical {a1 a2 a3} (ha1 : Canonical a1.flds a1.ctrs) :
    Canonical (Dev.helloAccepted a1 a2 a3).flds (Dev.helloAccepted a1 a2 a3).ctrs := by
  unfold Dev.helloAccepted; exact (ite_canonical (Dev.adjDown_canonical ha1) (by (try dsimp only); split; (· exact (Dev.adjGo_canonical (ite_canonical (Dev.fabViolation_canonical (Dev.count_canonical (Dev.set1_canonical (Dev.set1_canonical (Dev.setAdj_canonical ha1))))) (Dev.set1_canonical (Dev.set1_canonical (Dev.setAdj_canonical ha1)))))); (· exact (ite_canonical (ite_canonical (Dev.fabViolation_canonical (Dev.count_canonical (Dev.set1_canonical (Dev.set1_canonical (Dev.setAdj_canonical ha1))))) (Dev.set1_canonical (Dev.set1_canonical (Dev.setAdj_canonical ha1)))) (by (try dsimp only); split; (· exact (Dev.adjGo_canonical (Dev.set1_canonical (ite_canonical (Dev.fabViolation_canonical (Dev.count_canonical (Dev.set1_canonical (Dev.set1_canonical (Dev.setAdj_canonical ha1))))) (Dev.set1_canonical (Dev.set1_canonical (Dev.setAdj_canonical ha1))))))); (· exact (Dev.adjGo_canonical (Dev.record_canonical (Dev.count_canonical (ite_canonical (Dev.fabViolation_canonical (Dev.count_canonical (Dev.set1_canonical (Dev.set1_canonical (Dev.setAdj_canonical ha1))))) (Dev.set1_canonical (Dev.set1_canonical (Dev.setAdj_canonical ha1))))))))))); (· exact (ite_canonical (Dev.adjGo_canonical (ite_canonical (Dev.fabViolation_canonical (Dev.count_canonical (Dev.set1_canonical (Dev.set1_canonical (Dev.setAdj_canonical ha1))))) (Dev.set1_canonical (Dev.set1_canonical (Dev.setAdj_canonical ha1))))) (ite_canonical (by (try dsimp only); exact (ite_canonical (Dev.fabViolation_canonical (Dev.count_canonical (Dev.set1_canonical (Dev.set1_canonical (Dev.setAdj_canonical ha1))))) (Dev.set1_canonical (Dev.set1_canonical (Dev.setAdj_canonical ha1))))) (ite_canonical (Dev.fabViolation_canonical (Dev.count_canonical (Dev.set1_canonical (Dev.set1_canonical (Dev.setAdj_canonical ha1))))) (Dev.set1_canonical (Dev.set1_canonical (Dev.setAdj_canonical ha1))))))); (· exact (ite_canonical (Dev.adjGo_canonical (ite_canonical (Dev.fabViolation_canonical (Dev.count_canonical (Dev.set1_canonical (Dev.set1_canonical (Dev.setAdj_canonical ha1))))) (Dev.set1_canonical (Dev.set1_canonical (Dev.setAdj_canonical ha1))))) (ite_canonical (Dev.fabViolation_canonical (Dev.count_canonical (Dev.set1_canonical (Dev.set1_canonical (Dev.setAdj_canonical ha1))))) (Dev.set1_canonical (Dev.set1_canonical (Dev.setAdj_canonical ha1)))))); (· exact (ite_canonical (Dev.fabViolation_canonical (Dev.count_canonical (Dev.set1_canonical (Dev.set1_canonical (Dev.setAdj_canonical ha1))))) (Dev.set1_canonical (Dev.set1_canonical (Dev.setAdj_canonical ha1)))))))

theorem execFabHelloReceive_canonical {a1 a2 s t} (h : Canonical s.dev.flds s.dev.ctrs) (e : execFabHelloReceive a1 a2 s = .next t) :
    Canonical t.dev.flds t.dev.ctrs := by
  unfold execFabHelloReceive at e; exact run_canonical (fun _ h1 => (ite_canonical h1 (ite_canonical (Dev.fabViolation_canonical (Dev.count_canonical h1)) (ite_canonical (Dev.badHelloTag_canonical h1) (ite_canonical (Dev.count_canonical h1) (Dev.helloAccepted_canonical (Dev.count_canonical (Dev.setAdj_canonical h1)))))))) h e

theorem execFabDeadTime_canonical {a1 s t} (h : Canonical s.dev.flds s.dev.ctrs) (e : execFabDeadTime a1 s = .next t) :
    Canonical t.dev.flds t.dev.ctrs := by
  unfold execFabDeadTime at e; exact run_canonical (fun _ h1 => (ite_canonical (Dev.adjDown_canonical h1) h1)) h e

theorem execFabRefusedEnd_canonical {a1 s t} (h : Canonical s.dev.flds s.dev.ctrs) (e : execFabRefusedEnd a1 s = .next t) :
    Canonical t.dev.flds t.dev.ctrs := by
  unfold execFabRefusedEnd at e; exact run_canonical (fun _ h1 => (ite_canonical (Dev.adjDown_canonical h1) h1)) h e

theorem Dev.lsaSend_canonical {a1 a2 a3} (ha1 : Canonical a1.flds a1.ctrs) :
    Canonical (Dev.lsaSend a1 a2 a3).flds (Dev.lsaSend a1 a2 a3).ctrs := by
  unfold Dev.lsaSend; exact (Dev.fabControl_canonical (by (try dsimp only); exact ha1))

theorem Dev.lsaFlood_canonical {a1 a2 a3} (ha1 : Canonical a1.flds a1.ctrs) :
    Canonical (Dev.lsaFlood a1 a2 a3).flds (Dev.lsaFlood a1 a2 a3).ctrs := by
  unfold Dev.lsaFlood; exact (foldl_canonical (fun _ _ h1 => (Dev.lsaSend_canonical h1)) ha1)

theorem execFabLsaOriginate_canonical {s t} (h : Canonical s.dev.flds s.dev.ctrs) (e : execFabLsaOriginate s = .next t) :
    Canonical t.dev.flds t.dev.ctrs := by
  unfold execFabLsaOriginate at e; exact run_canonical (fun _ h1 => (ite_canonical h1 (Dev.lsaFlood_canonical (Dev.set0_canonical (by (try dsimp only); exact h1))))) h e

theorem Dev.giveUpAddress_canonical {a1} (ha1 : Canonical a1.flds a1.ctrs) :
    Canonical (Dev.giveUpAddress a1).flds (Dev.giveUpAddress a1).ctrs := by
  unfold Dev.giveUpAddress; exact (Dev.set0_canonical (Dev.set0_canonical (by (try dsimp only); exact ha1)))

theorem Dev.addressClash_canonical {a1 a2} (ha1 : Canonical a1.flds a1.ctrs) :
    Canonical (Dev.addressClash a1 a2).flds (Dev.addressClash a1 a2).ctrs := by
  unfold Dev.addressClash; exact (ite_canonical ha1 (ite_canonical (ite_canonical (Dev.giveUpAddress_canonical ha1) ha1) (ite_canonical ha1 (Dev.record_canonical (Dev.count_canonical (Dev.set0_canonical (Dev.set0_canonical (by (try dsimp only); exact ha1))))))))

theorem Dev.noteMember_canonical {a1 a2 a3} (ha1 : Canonical a1.flds a1.ctrs) :
    Canonical (Dev.noteMember a1 a2 a3).flds (Dev.noteMember a1 a2 a3).ctrs := by
  unfold Dev.noteMember; exact (ite_canonical ha1 (ite_canonical ha1 (ite_canonical (by (try dsimp only); exact ha1) (Dev.record_canonical (Dev.set0_canonical (Dev.setBit_canonical (by (try dsimp only); exact ha1)))))))

theorem Dev.lsaAck_canonical {a1 a2 a3} (ha1 : Canonical a1.flds a1.ctrs) :
    Canonical (Dev.lsaAck a1 a2 a3).flds (Dev.lsaAck a1 a2 a3).ctrs := by
  unfold Dev.lsaAck; exact (Dev.fabControl_canonical ha1)

theorem execFabLsaReceive_canonical {a1 a2 s t} (h : Canonical s.dev.flds s.dev.ctrs) (e : execFabLsaReceive a1 a2 s = .next t) :
    Canonical t.dev.flds t.dev.ctrs := by
  unfold execFabLsaReceive at e; exact run_canonical (fun _ h1 => (ite_canonical h1 (ite_canonical (Dev.fabViolation_canonical (Dev.count_canonical h1)) (ite_canonical (Dev.fabViolation_canonical (Dev.count_canonical h1)) (ite_canonical (Dev.lsaAck_canonical h1) (ite_canonical (Dev.lsaAck_canonical (Dev.count_canonical h1)) (ite_canonical (Dev.lsaAck_canonical (Dev.recordLimited_canonical (Dev.count_canonical h1))) (Dev.addressClash_canonical (Dev.noteMember_canonical (Dev.lsaFlood_canonical (Dev.lsaAck_canonical (Dev.count_canonical (by (try dsimp only); exact h1))))))))))))) h e

theorem execFabLsaAckReceive_canonical {a1 a2 a3 s t} (h : Canonical s.dev.flds s.dev.ctrs) (e : execFabLsaAckReceive a1 a2 a3 s = .next t) :
    Canonical t.dev.flds t.dev.ctrs := by
  unfold execFabLsaAckReceive at e; exact run_canonical (fun _ h1 => (by (try dsimp only); exact h1)) h e

theorem execFabLsaRetransmit_canonical {a1 s t} (h : Canonical s.dev.flds s.dev.ctrs) (e : execFabLsaRetransmit a1 s = .next t) :
    Canonical t.dev.flds t.dev.ctrs := by
  unfold execFabLsaRetransmit at e; exact run_canonical (fun _ h1 => (foldl_canonical (fun _ _ h2 => (by split; (· exact (Dev.lsaSend_canonical h2)); (· exact (by (try dsimp only); exact h2)))) h1)) h e

theorem execFabLsaExpire_canonical {s t} (h : Canonical s.dev.flds s.dev.ctrs) (e : execFabLsaExpire s = .next t) :
    Canonical t.dev.flds t.dev.ctrs := by
  unfold execFabLsaExpire at e; exact run_canonical (fun _ h1 => (ite_canonical h1 (by (try dsimp only); exact h1))) h e

theorem Dev.routeUp_canonical {a1 a2} (ha1 : Canonical a1.flds a1.ctrs) :
    Canonical (Dev.routeUp a1 a2).flds (Dev.routeUp a1 a2).ctrs := by
  unfold Dev.routeUp; exact (foldl_canonical (fun _ _ h1 => (foldl_canonical (fun _ _ h2 => (by split; (· exact (Dev.setQueue_canonical h2)); (· exact (Dev.release_canonical h2)))) (Dev.setQueue_canonical h1))) (by (try dsimp only); exact ha1))

theorem Dev.routeLost_canonical {a1 a2} (ha1 : Canonical a1.flds a1.ctrs) :
    Canonical (Dev.routeLost a1 a2).flds (Dev.routeLost a1 a2).ctrs := by
  unfold Dev.routeLost; exact (Dev.startFabFlap_canonical (Dev.recordLimited_canonical ha1))

theorem execFabRouteCompute_canonical {a1 s t} (h : Canonical s.dev.flds s.dev.ctrs) (e : execFabRouteCompute a1 s = .next t) :
    Canonical t.dev.flds t.dev.ctrs := by
  unfold execFabRouteCompute at e; exact run_canonical (fun _ h1 => (ite_canonical h1 (foldl_canonical (fun _ _ h2 => (by split; (· exact (Dev.routeLost_canonical h2)); (· exact (Dev.routeUp_canonical h2)); (· exact h2))) (Dev.count_canonical (Dev.set0_canonical (by (try dsimp only); exact h1)))))) h e

theorem execFabRouteParity_canonical {a1 s t} (h : Canonical s.dev.flds s.dev.ctrs) (e : execFabRouteParity a1 s = .next t) :
    Canonical t.dev.flds t.dev.ctrs := by
  unfold execFabRouteParity at e; exact run_canonical (fun _ h1 => (by split; (· exact h1); (· exact (Dev.count_canonical (by (try dsimp only); exact h1))))) h e

theorem Dev.seqCheck_canonical {a1 a2} (ha1 : Canonical a1.flds a1.ctrs) :
    Canonical (Dev.seqCheck a1 a2).flds (Dev.seqCheck a1 a2).ctrs := by
  unfold Dev.seqCheck; exact (ite_canonical (Dev.countN_canonical (by (try dsimp only); exact ha1)) (Dev.count_canonical (by (try dsimp only); exact ha1)))

theorem Dev.storeInner_canonical {a1 a2 a3 a4 a5} (ha1 : Canonical a1.flds a1.ctrs) :
    Canonical (Dev.storeInner a1 a2 a3 a4 a5).flds (Dev.storeInner a1 a2 a3 a4 a5).ctrs := by
  unfold Dev.storeInner; exact (ite_canonical (Dev.dropLost_canonical (Dev.setRx_canonical ha1)) (Dev.linkAll_canonical (Dev.setRx_canonical ha1)))

theorem Dev.fabDeliver_canonical {a1 a2 a3 a4} (ha1 : Canonical a1.flds a1.ctrs) :
    Canonical (Dev.fabDeliver a1 a2 a3 a4).flds (Dev.fabDeliver a1 a2 a3 a4).ctrs := by
  unfold Dev.fabDeliver; exact (ite_canonical (ite_canonical (Dev.storeInner_canonical (Dev.seqCheck_canonical ha1)) (Dev.count_canonical (Dev.setRx_canonical (Dev.seqCheck_canonical ha1)))) (ite_canonical (Dev.toPort134_canonical (Dev.setRx_canonical (Dev.seqCheck_canonical ha1))) (Dev.setRx_canonical (Dev.seqCheck_canonical ha1))))

theorem Dev.fabTransit_canonical {a1 a2 a3 a4} (ha1 : Canonical a1.flds a1.ctrs) :
    Canonical (Dev.fabTransit a1 a2 a3 a4).flds (Dev.fabTransit a1 a2 a3 a4).ctrs := by
  unfold Dev.fabTransit; exact (ite_canonical (Dev.fabViolation_canonical (Dev.count_canonical (Dev.setRx_canonical ha1))) (ite_canonical (Dev.count_canonical (Dev.setRx_canonical (Dev.deviceCopy_canonical (Dev.count_canonical ha1)))) (Dev.storeInner_canonical (Dev.deviceCopy_canonical (Dev.count_canonical ha1)))))

theorem execFabDataReceive_canonical {a1 s t} (h : Canonical s.dev.flds s.dev.ctrs) (e : execFabDataReceive a1 s = .next t) :
    Canonical t.dev.flds t.dev.ctrs := by
  unfold execFabDataReceive at e; exact run_canonical (fun _ h1 => (by split; (· exact h1); (· exact (ite_canonical h1 (ite_canonical (Dev.satInc_canonical (Dev.setRx_canonical h1)) (ite_canonical (Dev.satInc_canonical (Dev.setRx_canonical h1)) (by split; (· exact (Dev.fabViolation_canonical (Dev.count_canonical (Dev.setRx_canonical h1)))); (· exact (ite_canonical (Dev.fabDeliver_canonical (Dev.countSlot_canonical h1)) (Dev.fabTransit_canonical (Dev.countSlot_canonical h1))))))))))) h e

theorem execFabMcCopyReceive_canonical {a1 s t} (h : Canonical s.dev.flds s.dev.ctrs) (e : execFabMcCopyReceive a1 s = .next t) :
    Canonical t.dev.flds t.dev.ctrs := by
  unfold execFabMcCopyReceive at e; exact run_canonical (fun _ h1 => (by split; (· exact h1); (· exact (ite_canonical h1 (ite_canonical (Dev.satInc_canonical (Dev.setRx_canonical h1)) (ite_canonical (Dev.satInc_canonical (Dev.setRx_canonical h1)) (by split; (· exact (Dev.fabViolation_canonical (Dev.count_canonical (Dev.setRx_canonical h1)))); (· exact (ite_canonical (Dev.count_canonical (Dev.setRx_canonical (Dev.countSlot_canonical h1))) (Dev.storeInner_canonical (ite_canonical (Dev.count_canonical (Dev.countSlot_canonical h1)) (Dev.countSlot_canonical h1)))))))))))) h e

theorem execFabAddressElect_canonical {s t} (h : Canonical s.dev.flds s.dev.ctrs) (e : execFabAddressElect s = .next t) :
    Canonical t.dev.flds t.dev.ctrs := by
  unfold execFabAddressElect at e; exact run_canonical (fun _ h1 => (ite_canonical h1 (by (try dsimp only); split; (· exact (Dev.recordLimited_canonical h1)); (· exact (Dev.record_canonical (Dev.set0_canonical (Dev.set0_canonical (by (try dsimp only); exact h1)))))))) h e

theorem execFabNoticeReceive_canonical {a1 a2 a3 a4 a5 a6 a7 s t} (h : Canonical s.dev.flds s.dev.ctrs) (e : execFabNoticeReceive a1 a2 a3 a4 a5 a6 a7 s = .next t) :
    Canonical t.dev.flds t.dev.ctrs := by
  unfold execFabNoticeReceive at e; exact run_canonical (fun _ h1 => (ite_canonical h1 (ite_canonical (Dev.fabViolation_canonical (Dev.count_canonical h1)) (ite_canonical (Dev.fabViolation_canonical (Dev.count_canonical h1)) (ite_canonical h1 (foldl_canonical (fun _ _ h2 => (Dev.fabControl_canonical h2)) (Dev.record_canonical (by (try dsimp only); exact h1)))))))) h e

/-! ### `Lease` -/

theorem Dev.pairViolation_canonical {a1 a2 a3} (ha1 : Canonical a1.flds a1.ctrs) :
    Canonical (Dev.pairViolation a1 a2 a3).flds (Dev.pairViolation a1 a2 a3).ctrs := by
  unfold Dev.pairViolation; exact (Dev.recordLimited_canonical ha1)

theorem Dev.badMsg_canonical {a1 a2 a3} (ha1 : Canonical a1.flds a1.ctrs) :
    Canonical (Dev.badMsg a1 a2 a3).flds (Dev.badMsg a1 a2 a3).ctrs := by
  unfold Dev.badMsg; exact (Dev.pairViolation_canonical (Dev.count_canonical ha1))

theorem Dev.setRole_canonical {a1 a2} (ha1 : Canonical a1.flds a1.ctrs) :
    Canonical (Dev.setRole a1 a2).flds (Dev.setRole a1 a2).ctrs := by
  unfold Dev.setRole; exact (ite_canonical ha1 (Dev.doorbell_canonical (Dev.set0_canonical ha1)))

theorem Dev.learnEpoch_canonical {a1 a2} (ha1 : Canonical a1.flds a1.ctrs) :
    Canonical (Dev.learnEpoch a1 a2).flds (Dev.learnEpoch a1 a2).ctrs := by
  unfold Dev.learnEpoch; exact (ite_canonical (by (try dsimp only); exact ha1) ha1)

theorem Dev.pairRate_canonical {d : Dev} {p kind} (h : Canonical d.flds d.ctrs) :
    Canonical (Dev.pairRate d p kind).1.flds (Dev.pairRate d p kind).1.ctrs := by
  unfold Dev.pairRate
  exact fst_ite_canonical (Dev.setPairLink_canonical h) (Dev.badMsg_canonical (Dev.setPairLink_canonical h))

theorem Dev.pairTake_canonical {a1 a2 a3 a4 a5} (ha1 : Canonical a1.flds a1.ctrs) :
    Canonical (Dev.pairTake a1 a2 a3 a4 a5).1.flds (Dev.pairTake a1 a2 a3 a4 a5).1.ctrs := by
  unfold Dev.pairTake; exact (fst_ite_canonical (by (try dsimp only); exact ha1) (fst_ite_canonical (fst_ite_canonical (Dev.pairRate_canonical ha1) (by (try dsimp only); exact ha1)) (fst_ite_canonical (by (try dsimp only); exact (Dev.badMsg_canonical (fst_ite_canonical (Dev.pairRate_canonical ha1) (by (try dsimp only); exact ha1)))) (fst_ite_canonical (by (try dsimp only); exact (Dev.pairViolation_canonical (Dev.count_canonical (fst_ite_canonical (Dev.pairRate_canonical ha1) (by (try dsimp only); exact ha1))))) (fst_ite_canonical (by (try dsimp only); exact (Dev.badMsg_canonical (fst_ite_canonical (Dev.pairRate_canonical ha1) (by (try dsimp only); exact ha1)))) (fst_ite_canonical (Dev.pairRate_canonical ha1) (by (try dsimp only); exact ha1)))))))

theorem Dev.pairTo_canonical {a1 a2 a3 a4 a5 a6 a7} (ha1 : Canonical a1.flds a1.ctrs) :
    Canonical (Dev.pairTo a1 a2 a3 a4 a5 a6 a7).flds (Dev.pairTo a1 a2 a3 a4 a5 a6 a7).ctrs := by
  unfold Dev.pairTo; exact (by (try dsimp only); split; (· exact (Dev.sendMsg_canonical (Dev.fabSeq_canonical ha1))); (· exact ha1))

theorem Dev.hostWitness_canonical {a1 a2 a3 a4} (ha1 : Canonical a1.flds a1.ctrs) :
    Canonical (Dev.hostWitness a1 a2 a3 a4).flds (Dev.hostWitness a1 a2 a3 a4).ctrs := by
  unfold Dev.hostWitness; exact (Dev.f2hPost_canonical (by (try dsimp only); exact ha1))

theorem Dev.toWitnesses_canonical {a1 a2 a3 a4} (ha1 : Canonical a1.flds a1.ctrs) :
    Canonical (Dev.toWitnesses a1 a2 a3 a4).flds (Dev.toWitnesses a1 a2 a3 a4).ctrs := by
  unfold Dev.toWitnesses; exact (foldl_canonical (fun _ _ h1 => (ite_canonical (Dev.hostWitness_canonical h1) (Dev.pairTo_canonical h1))) ha1)

theorem Dev.toPartner_canonical {a1 a2 a3 a4} (ha1 : Canonical a1.flds a1.ctrs) :
    Canonical (Dev.toPartner a1 a2 a3 a4).flds (Dev.toPartner a1 a2 a3 a4).ctrs := by
  unfold Dev.toPartner; exact (foldl_canonical (fun _ _ h1 => (Dev.pairSendOn_canonical h1)) ha1)

theorem Dev.showVersion_canonical {a1} (ha1 : Canonical a1.flds a1.ctrs) :
    Canonical (Dev.showVersion a1).flds (Dev.showVersion a1).ctrs := by
  unfold Dev.showVersion; exact (Dev.set0_canonical ha1)

theorem execPairHeartbeatSend_canonical {a1 s t} (h : Canonical s.dev.flds s.dev.ctrs) (e : execPairHeartbeatSend a1 s = .next t) :
    Canonical t.dev.flds t.dev.ctrs := by
  unfold execPairHeartbeatSend at e; exact run_canonical (fun _ h1 => (ite_canonical h1 (Dev.count_canonical (Dev.pairSendOn_canonical (Dev.pairSeq_canonical (Dev.setPairLink_canonical h1)))))) h e

theorem Dev.pairNegotiate_canonical {a1 a2 a3} (ha1 : Canonical a1.flds a1.ctrs) :
    Canonical (Dev.pairNegotiate a1 a2 a3).1.flds (Dev.pairNegotiate a1 a2 a3).1.ctrs := by
  unfold Dev.pairNegotiate; exact (fst_ite_canonical (by (try dsimp only); exact ha1) (by split; (· exact (by (try dsimp only); exact (Dev.showVersion_canonical (Dev.setPairLink_canonical ha1)))); (· exact (fst_ite_canonical (by (try dsimp only); exact ha1) (by (try dsimp only); exact (Dev.record_canonical (Dev.count_canonical (Dev.setPairLink_canonical ha1))))))))

theorem Dev.hbHeard_canonical {a1 a2 a3} (ha1 : Canonical a1.flds a1.ctrs) :
    Canonical (Dev.hbHeard a1 a2 a3).flds (Dev.hbHeard a1 a2 a3).ctrs := by
  unfold Dev.hbHeard; exact (ite_canonical (Dev.record_canonical (ite_canonical (Dev.record_canonical (Dev.set0_canonical (Dev.count_canonical (by (try dsimp only); exact ha1)))) (Dev.count_canonical (by (try dsimp only); exact ha1)))) (ite_canonical (Dev.record_canonical (Dev.set0_canonical (Dev.count_canonical (by (try dsimp only); exact ha1)))) (Dev.count_canonical (by (try dsimp only); exact ha1))))

theorem Dev.hbRoles_canonical {a1 a2} (ha1 : Canonical a1.flds a1.ctrs) :
    Canonical (Dev.hbRoles a1 a2).flds (Dev.hbRoles a1 a2).ctrs := by
  unfold Dev.hbRoles; exact (ite_canonical (Dev.record_canonical (Dev.set0_canonical (Dev.learnEpoch_canonical (Dev.stopForwarding_canonical ha1)))) (ite_canonical (Dev.setRole_canonical (by (try dsimp only); exact (ite_canonical (Dev.learnEpoch_canonical ha1) ha1))) (ite_canonical (Dev.setRole_canonical (ite_canonical (Dev.learnEpoch_canonical ha1) ha1)) (ite_canonical (Dev.learnEpoch_canonical ha1) ha1))))

theorem execPairHeartbeatReceive_canonical {a1 a2 s t} (h : Canonical s.dev.flds s.dev.ctrs) (e : execPairHeartbeatReceive a1 a2 s = .next t) :
    Canonical t.dev.flds t.dev.ctrs := by
  unfold execPairHeartbeatReceive at e; exact run_canonical (fun _ h1 => (ite_canonical h1 (ite_canonical (Dev.pairTake_canonical h1) (ite_canonical (Dev.hbRoles_canonical (Dev.hbHeard_canonical (Dev.pairNegotiate_canonical (Dev.pairTake_canonical h1)))) (Dev.pairNegotiate_canonical (Dev.pairTake_canonical h1)))))) h e

theorem execPairHbLost_canonical {s t} (h : Canonical s.dev.flds s.dev.ctrs) (e : execPairHbLost s = .next t) :
    Canonical t.dev.flds t.dev.ctrs := by
  unfold execPairHbLost at e; exact run_canonical (fun _ h1 => (ite_canonical (Dev.showVersion_canonical (Dev.record_canonical (Dev.set0_canonical h1))) h1)) h e

theorem Dev.linksLost_canonical {a1} (ha1 : Canonical a1.flds a1.ctrs) :
    Canonical (Dev.linksLost a1).flds (Dev.linksLost a1).ctrs := by
  unfold Dev.linksLost; exact (ite_canonical ha1 (ite_canonical (Dev.record_canonical (by (try dsimp only); exact ha1)) (Dev.set0_canonical (Dev.record_canonical (by (try dsimp only); exact ha1)))))

theorem Dev.renewed_canonical {a1 a2} (ha1 : Canonical a1.flds a1.ctrs) :
    Canonical (Dev.renewed a1 a2).flds (Dev.renewed a1 a2).ctrs := by
  unfold Dev.renewed; exact (Dev.count_canonical (by (try dsimp only); exact ha1))

theorem execPairRenewSend_canonical {s t} (h : Canonical s.dev.flds s.dev.ctrs) (e : execPairRenewSend s = .next t) :
    Canonical t.dev.flds t.dev.ctrs := by
  unfold execPairRenewSend at e; exact run_canonical (fun _ h1 => (ite_canonical h1 (ite_canonical (Dev.renewed_canonical (Dev.toWitnesses_canonical (Dev.toPartner_canonical (by (try dsimp only); exact (Dev.pairSeq_canonical h1))))) (Dev.toWitnesses_canonical (Dev.toPartner_canonical (by (try dsimp only); exact (Dev.pairSeq_canonical h1))))))) h e

theorem Dev.witAnswered_canonical {a1 a2} (ha1 : Canonical a1.flds a1.ctrs) :
    Canonical (Dev.witAnswered a1 a2).flds (Dev.witAnswered a1 a2).ctrs := by
  unfold Dev.witAnswered; exact (Dev.count_canonical (by (try dsimp only); exact ha1))

theorem Dev.renewAck_canonical {a1 a2 a3 a4} (ha1 : Canonical a1.flds a1.ctrs) :
    Canonical (Dev.renewAck a1 a2 a3 a4).flds (Dev.renewAck a1 a2 a3 a4).ctrs := by
  unfold Dev.renewAck; exact (by split; (· exact ha1); (· exact (ite_canonical ha1 (by split; (· exact (Dev.renewed_canonical ha1)); (· exact (ite_canonical (Dev.linksLost_canonical (Dev.renewed_canonical ha1)) (by (try dsimp only); exact ha1)))))))

theorem execPairRenewAckReceive_canonical {a1 a2 s t} (h : Canonical s.dev.flds s.dev.ctrs) (e : execPairRenewAckReceive a1 a2 s = .next t) :
    Canonical t.dev.flds t.dev.ctrs := by
  unfold execPairRenewAckReceive at e; exact run_canonical (fun _ h1 => (ite_canonical (Dev.pairTake_canonical h1) (ite_canonical (Dev.renewAck_canonical (Dev.pairTake_canonical h1)) (by split; (· exact (Dev.renewAck_canonical (Dev.witAnswered_canonical (Dev.pairTake_canonical h1)))); (· exact (Dev.badMsg_canonical (Dev.pairTake_canonical h1))))))) h e

theorem execPairRenewDeadline_canonical {s t} (h : Canonical s.dev.flds s.dev.ctrs) (e : execPairRenewDeadline s = .next t) :
    Canonical t.dev.flds t.dev.ctrs := by
  unfold execPairRenewDeadline at e; exact run_canonical (fun _ h1 => (by split; (· exact (ite_canonical (Dev.count_canonical (by (try dsimp only); exact h1)) h1)); (· exact h1))) h e

theorem execLeaseTimerExpire_canonical {s t} (h : Canonical s.dev.flds s.dev.ctrs) (e : execLeaseTimerExpire s = .next t) :
    Canonical t.dev.flds t.dev.ctrs := by
  unfold execLeaseTimerExpire at e; exact run_canonical (fun _ h1 => (ite_canonical (Dev.record_canonical (Dev.set0_canonical (Dev.stopForwarding_canonical h1))) h1)) h e

theorem Dev.setLeaseIn_canonical {a1 a2 a3} (ha1 : Canonical a1.flds a1.ctrs) :
    Canonical (Dev.setLeaseIn a1 a2 a3).flds (Dev.setLeaseIn a1 a2 a3).ctrs := by
  unfold Dev.setLeaseIn; exact (Dev.set0_canonical (Dev.set0_canonical (by (try dsimp only); exact ha1)))

theorem execLeaseInterlock_canonical {a1 a2 s t} (h : Canonical s.dev.flds s.dev.ctrs) (e : execLeaseInterlock a1 a2 s = .next t) :
    Canonical t.dev.flds t.dev.ctrs := by
  unfold execLeaseInterlock at e; exact run_canonical (fun _ h1 => (ite_canonical (Dev.winterCause_canonical (Dev.record_canonical (Dev.setLeaseIn_canonical h1))) (Dev.setLeaseIn_canonical h1))) h e

theorem execLeasePinMismatch_canonical {s t} (h : Canonical s.dev.flds s.dev.ctrs) (e : execLeasePinMismatch s = .next t) :
    Canonical t.dev.flds t.dev.ctrs := by
  unfold execLeasePinMismatch at e; exact run_canonical (fun _ h1 => (ite_canonical (Dev.autumn_canonical (Dev.record_canonical (Dev.set0_canonical h1))) h1)) h e

theorem Dev.equinox_canonical {a1 a2 a3} (ha1 : Canonical a1.flds a1.ctrs) :
    Canonical (Dev.equinox a1 a2 a3).flds (Dev.equinox a1 a2 a3).ctrs := by
  unfold Dev.equinox; exact (ite_canonical ha1 (Dev.record_canonical (Dev.count_canonical (Dev.setRole_canonical (Dev.set0_canonical (by (try dsimp only); exact ha1))))))

theorem execPairClaim_canonical {s t} (h : Canonical s.dev.flds s.dev.ctrs) (e : execPairClaim s = .next t) :
    Canonical t.dev.flds t.dev.ctrs := by
  unfold execPairClaim at e; exact run_canonical (fun _ h1 => (ite_canonical h1 (ite_canonical (Dev.equinox_canonical (Dev.toWitnesses_canonical (Dev.toPartner_canonical (Dev.count_canonical (by (try dsimp only); exact (Dev.setRole_canonical (Dev.pairSeq_canonical h1))))))) (Dev.toWitnesses_canonical (Dev.toPartner_canonical (Dev.count_canonical (by (try dsimp only); exact (Dev.setRole_canonical (Dev.pairSeq_canonical h1))))))))) h e

theorem Dev.claimFailed_canonical {a1} (ha1 : Canonical a1.flds a1.ctrs) :
    Canonical (Dev.claimFailed a1).flds (Dev.claimFailed a1).ctrs := by
  unfold Dev.claimFailed; exact (Dev.linksLost_canonical (Dev.setRole_canonical (by (try dsimp only); exact ha1)))

theorem execPairClaimTimeout_canonical {s t} (h : Canonical s.dev.flds s.dev.ctrs) (e : execPairClaimTimeout s = .next t) :
    Canonical t.dev.flds t.dev.ctrs := by
  unfold execPairClaimTimeout at e; exact run_canonical (fun _ h1 => (ite_canonical (Dev.claimFailed_canonical h1) h1)) h e

theorem Dev.granted_canonical {a1 a2 a3} (ha1 : Canonical a1.flds a1.ctrs) :
    Canonical (Dev.granted a1 a2 a3).flds (Dev.granted a1 a2 a3).ctrs := by
  unfold Dev.granted; exact (by split; (· exact ha1); (· exact (ite_canonical ha1 (ite_canonical (Dev.equinox_canonical (by (try dsimp only); exact ha1)) (by (try dsimp only); exact ha1)))))

theorem execPairGrantReceive_canonical {a1 a2 s t} (h : Canonical s.dev.flds s.dev.ctrs) (e : execPairGrantReceive a1 a2 s = .next t) :
    Canonical t.dev.flds t.dev.ctrs := by
  unfold execPairGrantReceive at e; exact run_canonical (fun _ h1 => (ite_canonical (Dev.pairTake_canonical h1) (by split; (· exact (Dev.granted_canonical (Dev.witAnswered_canonical (Dev.pairTake_canonical h1)))); (· exact (Dev.badMsg_canonical (Dev.pairTake_canonical h1)))))) h e

theorem Dev.refusedBy_canonical {a1 a2 a3 a4} (ha1 : Canonical a1.flds a1.ctrs) :
    Canonical (Dev.refusedBy a1 a2 a3 a4).flds (Dev.refusedBy a1 a2 a3 a4).ctrs := by
  unfold Dev.refusedBy; exact (ite_canonical (Dev.learnEpoch_canonical (Dev.claimFailed_canonical (Dev.record_canonical (Dev.count_canonical ha1)))) (ite_canonical (Dev.record_canonical (Dev.count_canonical ha1)) (Dev.learnEpoch_canonical (Dev.record_canonical (Dev.count_canonical ha1)))))

theorem execPairRefuseReceive_canonical {a1 a2 s t} (h : Canonical s.dev.flds s.dev.ctrs) (e : execPairRefuseReceive a1 a2 s = .next t) :
    Canonical t.dev.flds t.dev.ctrs := by
  unfold execPairRefuseReceive at e; exact run_canonical (fun _ h1 => (ite_canonical (Dev.pairTake_canonical h1) (by split; (· exact (Dev.refusedBy_canonical (Dev.witAnswered_canonical (Dev.pairTake_canonical h1)))); (· exact (ite_canonical (Dev.pairTake_canonical h1) (Dev.badMsg_canonical (Dev.pairTake_canonical h1))))))) h e

theorem Dev.setWit_canonical {a1 a2 a3} (ha1 : Canonical a1.flds a1.ctrs) :
    Canonical (Dev.setWit a1 a2 a3).flds (Dev.setWit a1 a2 a3).ctrs := by
  unfold Dev.setWit; exact (by (try dsimp only); exact ha1)

theorem Dev.answer_canonical {a1 a2 a3 a4 a5 a6} (ha1 : Canonical a1.flds a1.ctrs) :
    Canonical (Dev.answer a1 a2 a3 a4 a5 a6).flds (Dev.answer a1 a2 a3 a4 a5 a6).ctrs := by
  unfold Dev.answer; exact (ite_canonical (Dev.sendMsg_canonical ha1) (Dev.pairTo_canonical ha1))

theorem Dev.refuseMsg_canonical {a1 a2 a3 a4 a5} (ha1 : Canonical a1.flds a1.ctrs) :
    Canonical (Dev.refuseMsg a1 a2 a3 a4 a5).flds (Dev.refuseMsg a1 a2 a3 a4 a5).ctrs := by
  unfold Dev.refuseMsg; exact (Dev.record_canonical (Dev.count_canonical (Dev.answer_canonical ha1)))

theorem Dev.noteAck_canonical {a1 a2} (ha1 : Canonical a1.flds a1.ctrs) :
    Canonical (Dev.noteAck a1 a2).flds (Dev.noteAck a1 a2).ctrs := by
  unfold Dev.noteAck; exact (by (try dsimp only); exact ha1)

theorem Dev.ackPartner_canonical {a1 a2 a3} (ha1 : Canonical a1.flds a1.ctrs) :
    Canonical (Dev.ackPartner a1 a2 a3).flds (Dev.ackPartner a1 a2 a3).ctrs := by
  unfold Dev.ackPartner; exact (ite_canonical (Dev.refuseMsg_canonical ha1) (Dev.answer_canonical (Dev.noteAck_canonical (Dev.learnEpoch_canonical ha1))))

theorem execWitnessRenew_canonical {a1 a2 s t} (h : Canonical s.dev.flds s.dev.ctrs) (e : execWitnessRenew a1 a2 s = .next t) :
    Canonical t.dev.flds t.dev.ctrs := by
  unfold execWitnessRenew at e; exact run_canonical (fun _ h1 => (ite_canonical (Dev.pairTake_canonical h1) (ite_canonical (ite_canonical (Dev.ackPartner_canonical (Dev.pairTake_canonical h1)) (Dev.badMsg_canonical (Dev.pairTake_canonical h1))) (ite_canonical (Dev.refuseMsg_canonical (Dev.pairTake_canonical h1)) (ite_canonical (Dev.refuseMsg_canonical (Dev.pairTake_canonical h1)) (Dev.answer_canonical (Dev.setWit_canonical (Dev.pairTake_canonical h1)))))))) h e

theorem Dev.grant_canonical {a1 a2 a3 a4 a5} (ha1 : Canonical a1.flds a1.ctrs) :
    Canonical (Dev.grant a1 a2 a3 a4 a5).flds (Dev.grant a1 a2 a3 a4 a5).ctrs := by
  unfold Dev.grant; exact (Dev.answer_canonical (Dev.setWit_canonical ha1))

theorem execWitnessClaim_canonical {a1 a2 s t} (h : Canonical s.dev.flds s.dev.ctrs) (e : execWitnessClaim a1 a2 s = .next t) :
    Canonical t.dev.flds t.dev.ctrs := by
  unfold execWitnessClaim at e; exact run_canonical (fun _ h1 => (ite_canonical (Dev.pairTake_canonical h1) (ite_canonical (Dev.refuseMsg_canonical (Dev.pairTake_canonical h1)) (ite_canonical (Dev.refuseMsg_canonical (Dev.pairTake_canonical h1)) (ite_canonical (Dev.grant_canonical (Dev.pairTake_canonical h1)) (Dev.setWit_canonical (Dev.pairTake_canonical h1))))))) h e

theorem Dev.grantHeld_canonical {a1 a2 a3} (ha1 : Canonical a1.flds a1.ctrs) :
    Canonical (Dev.grantHeld a1 a2 a3).flds (Dev.grantHeld a1 a2 a3).ctrs := by
  unfold Dev.grantHeld; exact (by (try dsimp only); split; (· exact (ite_canonical (Dev.pairTo_canonical (Dev.setWit_canonical ha1)) ha1)); (· exact ha1))

theorem execWitnessClaimGrant_canonical {a1 a2 s t} (h : Canonical s.dev.flds s.dev.ctrs) (e : execWitnessClaimGrant a1 a2 s = .next t) :
    Canonical t.dev.flds t.dev.ctrs := by
  unfold execWitnessClaimGrant at e; exact run_canonical (fun _ h1 => (ite_canonical h1 (Dev.grantHeld_canonical h1))) h e

theorem execWitnessRelease_canonical {a1 a2 s t} (h : Canonical s.dev.flds s.dev.ctrs) (e : execWitnessRelease a1 a2 s = .next t) :
    Canonical t.dev.flds t.dev.ctrs := by
  unfold execWitnessRelease at e; exact run_canonical (fun _ h1 => (ite_canonical (Dev.pairTake_canonical h1) (ite_canonical (Dev.grantHeld_canonical (Dev.setWit_canonical (Dev.pairTake_canonical h1))) (Dev.pairTake_canonical h1)))) h e

theorem Dev.release__canonical {a1 a2} (ha1 : Canonical a1.flds a1.ctrs) :
    Canonical (Dev.release_ a1 a2).flds (Dev.release_ a1 a2).ctrs := by
  unfold Dev.release_; exact (Dev.record_canonical (Dev.toWitnesses_canonical (Dev.toPartner_canonical (Dev.pairSeq_canonical (Dev.stopForwarding_canonical ha1)))))

theorem Dev.leaseCmd_canonical {a1 a2 a3} (ha1 : Canonical a1.flds a1.ctrs) :
    Canonical (Dev.leaseCmd a1 a2 a3).flds (Dev.leaseCmd a1 a2 a3).ctrs := by
  unfold Dev.leaseCmd; exact (Dev.pwWrite_canonical ha1 (fun _ h1 => (by split; (· exact (ite_canonical (Dev.release__canonical h1) (Dev.set0_canonical h1))); (· exact (Dev.set0_canonical h1)); (· exact (Dev.set0_canonical h1)); (· exact h1))))

theorem execPairRelease_canonical {a1 s t} (h : Canonical s.dev.flds s.dev.ctrs) (e : execPairRelease a1 s = .next t) :
    Canonical t.dev.flds t.dev.ctrs := by
  unfold execPairRelease at e; exact run_canonical (fun _ h1 => (Dev.onWrite_canonical h1 (fun _ h2 => (Dev.leaseCmd_canonical h2)))) h e

theorem execPairHoldOff_canonical {a1 s t} (h : Canonical s.dev.flds s.dev.ctrs) (e : execPairHoldOff a1 s = .next t) :
    Canonical t.dev.flds t.dev.ctrs := by
  unfold execPairHoldOff at e; exact run_canonical (fun _ h1 => (Dev.onWrite_canonical h1 (fun _ h2 => (Dev.leaseCmd_canonical h2)))) h e

theorem execPairAllowClaims_canonical {a1 s t} (h : Canonical s.dev.flds s.dev.ctrs) (e : execPairAllowClaims a1 s = .next t) :
    Canonical t.dev.flds t.dev.ctrs := by
  unfold execPairAllowClaims at e; exact run_canonical (fun _ h1 => (Dev.onWrite_canonical h1 (fun _ h2 => (Dev.leaseCmd_canonical h2)))) h e

theorem execPairReleaseReceive_canonical {a1 a2 s t} (h : Canonical s.dev.flds s.dev.ctrs) (e : execPairReleaseReceive a1 a2 s = .next t) :
    Canonical t.dev.flds t.dev.ctrs := by
  unfold execPairReleaseReceive at e; exact run_canonical (fun _ h1 => (ite_canonical (Dev.pairTake_canonical h1) (by (try dsimp only); exact (Dev.pairTake_canonical h1)))) h e

theorem execPairLinkIsolateEnd_canonical {a1 s t} (h : Canonical s.dev.flds s.dev.ctrs) (e : execPairLinkIsolateEnd a1 s = .next t) :
    Canonical t.dev.flds t.dev.ctrs := by
  unfold execPairLinkIsolateEnd at e; exact run_canonical (fun _ h1 => (ite_canonical (Dev.setPairLink_canonical h1) h1)) h e

/-! ### `Spaces` -/

theorem Dev.setGroup_canonical {a1 a2 a3} (ha1 : Canonical a1.flds a1.ctrs) :
    Canonical (Dev.setGroup a1 a2 a3).flds (Dev.setGroup a1 a2 a3).ctrs := by
  unfold Dev.setGroup; exact (by (try dsimp only); exact ha1)

theorem Dev.writeEntry_canonical {a1 a2 a3 a4 a5} (ha1 : Canonical a1.flds a1.ctrs) :
    Canonical (Dev.writeEntry a1 a2 a3 a4 a5).flds (Dev.writeEntry a1 a2 a3 a4 a5).ctrs := by
  unfold Dev.writeEntry; exact (by split; (· exact (Dev.setMeter_canonical ha1)); (· exact (Dev.setFlowCounter_canonical ha1)); (· exact (Dev.setGroup_canonical ha1)); (· exact ha1))

/-! ### `Tables` -/

theorem execLearnInsert_canonical {a1 s t} (h : Canonical s.dev.flds s.dev.ctrs) (e : execLearnInsert a1 s = .next t) :
    Canonical t.dev.flds t.dev.ctrs := by
  unfold execLearnInsert at e; exact run_canonical (fun _ h1 => (by (try dsimp only); split; (· exact h1); (· exact (ite_canonical (Dev.readFaults_canonical (by (try dsimp only); exact (Dev.settle_canonical h1))) (by (try dsimp only); split; (· rename_i vh2 eh2; have h2 := ((Dev.place_canonical (Dev.readFaults_canonical (by (try dsimp only); exact (Dev.settle_canonical h1)))) _ eh2); exact h2); (· exact (Dev.recordCounted_canonical (Dev.count_canonical (Dev.readFaults_canonical (by (try dsimp only); exact (Dev.settle_canonical h1))))))))))) h e

theorem execRelocationMove_canonical {a1 s t} (h : Canonical s.dev.flds s.dev.ctrs) (e : execRelocationMove a1 s = .next t) :
    Canonical t.dev.flds t.dev.ctrs := by
  unfold execRelocationMove at e; exact run_canonical (fun _ h1 => (by split; (· exact h1); (· exact (by split; (· exact (ite_canonical (ite_canonical (Dev.readFaults_canonical h1) (Dev.readFaults_canonical h1)) (Dev.setReloc_canonical (Dev.moveWrite_canonical (ite_canonical (Dev.readFaults_canonical h1) (Dev.readFaults_canonical h1)))))); (· exact h1))))) h e

theorem execRelocationInvalidate_canonical {s t} (h : Canonical s.dev.flds s.dev.ctrs) (e : execRelocationInvalidate s = .next t) :
    Canonical t.dev.flds t.dev.ctrs := by
  unfold execRelocationInvalidate at e; exact run_canonical (fun _ h1 => (by split; (· exact h1); (· exact (by split; (· exact h1); (· exact (ite_canonical h1 (ite_canonical (Dev.relocEnd_canonical (Dev.moveDrop_canonical h1)) (Dev.setReloc_canonical (Dev.moveDrop_canonical h1))))))))) h e

theorem execAgeingVisit_canonical {a1 s t} (h : Canonical s.dev.flds s.dev.ctrs) (e : execAgeingVisit a1 s = .next t) :
    Canonical t.dev.flds t.dev.ctrs := by
  unfold execAgeingVisit at e; exact run_canonical (fun _ h1 => (ite_canonical h1 (by (try dsimp only); split; (· exact (Dev.readFaults_canonical (by (try dsimp only); exact (ite_canonical (Dev.settle_canonical h1) h1)))); (· exact (ite_canonical (Dev.readFaults_canonical (by (try dsimp only); exact (ite_canonical (Dev.settle_canonical h1) h1))) (ite_canonical (Dev.setL2_canonical (Dev.readFaults_canonical (by (try dsimp only); exact (ite_canonical (Dev.settle_canonical h1) h1)))) (Dev.count_canonical (Dev.setL2_canonical (Dev.readFaults_canonical (by (try dsimp only); exact (ite_canonical (Dev.settle_canonical h1) h1))))))))))) h e

theorem Dev.tblHalt_canonical {a1 a2 a3 a4} (ha1 : Canonical a1.flds a1.ctrs) :
    Canonical (Dev.tblHalt a1 a2 a3 a4).flds (Dev.tblHalt a1 a2 a3 a4).ctrs := by
  unfold Dev.tblHalt; exact (Dev.raise_canonical (Dev.record_canonical (Dev.set1_canonical (Dev.set1_canonical (Dev.set1_canonical (Dev.emit_canonical ha1))))))

theorem Dev.tblStop_canonical {a1 a2 a3 a4} (ha1 : Canonical a1.flds a1.ctrs) :
    Canonical (Dev.tblStop a1 a2 a3 a4).flds (Dev.tblStop a1 a2 a3 a4).ctrs := by
  unfold Dev.tblStop; exact (ite_canonical (Dev.tblHalt_canonical ha1) (Dev.tblHalt_canonical (Dev.tblAdvance_canonical ha1)))

theorem Dev.tblOrder_canonical {a1 a2} (ha1 : Canonical a1.flds a1.ctrs) :
    Canonical (Dev.tblOrder a1 a2).flds (Dev.tblOrder a1 a2).ctrs := by
  unfold Dev.tblOrder; exact (by split; (· exact (ite_canonical (Dev.settle_canonical ha1) ha1)); (· exact ha1))

theorem Dev.tblTake_canonical {a1 a2 a3 a4 a5 a6} (ha1 : Canonical a1.flds a1.ctrs) (ha6 : ∀ x1 x2, Canonical x1.flds x1.ctrs → Canonical (a6 x1 x2).1.flds (a6 x1 x2).1.ctrs) :
    Canonical (Dev.tblTake a1 a2 a3 a4 a5 a6).flds (Dev.tblTake a1 a2 a3 a4 a5 a6).ctrs := by
  unfold Dev.tblTake; exact (ite_canonical ha1 (ite_canonical (Dev.tblStop_canonical (Dev.tblOrder_canonical ha1)) (by (try dsimp only); split; (· exact (Dev.tblAdvance_canonical (ha6 _ _ (Dev.tblOrder_canonical ha1)))); (· exact (ite_canonical (Dev.emit_canonical (Dev.tblDone_canonical (Dev.tblAdvance_canonical (ha6 _ _ (Dev.tblOrder_canonical ha1))))) (Dev.tblDone_canonical (Dev.tblAdvance_canonical (ha6 _ _ (Dev.tblOrder_canonical ha1)))))))))

theorem Dev.clearHit_canonical {a1 a2 a3 a4 a5} (ha1 : Canonical a1.flds a1.ctrs) :
    Canonical (Dev.clearHit a1 a2 a3 a4 a5).flds (Dev.clearHit a1 a2 a3 a4 a5).ctrs := by
  unfold Dev.clearHit; exact (ite_canonical ha1 (ite_canonical (by split; (· exact (Dev.l2Update_canonical ha1)); (· exact ha1)) (by split; (· exact (Dev.exUpdate_canonical ha1)); (· exact ha1))))

theorem Dev.keyReads_canonical {a1 a2 a3 a4 a5 a6} (ha1 : Canonical a1.flds a1.ctrs) :
    Canonical (Dev.keyReads a1 a2 a3 a4 a5 a6).flds (Dev.keyReads a1 a2 a3 a4 a5 a6).ctrs := by
  unfold Dev.keyReads; exact (ite_canonical (Dev.readFaults_canonical ha1) (Dev.readFaults_canonical ha1))

theorem Dev.nodeRow_canonical {a1 a2 a3} (ha1 : Canonical a1.flds a1.ctrs) :
    Canonical (Dev.nodeRow a1 a2 a3).1.flds (Dev.nodeRow a1 a2 a3).1.ctrs := by
  unfold Dev.nodeRow; exact (by split; (· exact (by (try dsimp only); exact ha1)); (· exact (by (try dsimp only); exact (Dev.draw_canonical ha1))))

theorem execTblReadRow_canonical {a1 a2 a3 a4 s t} (h : Canonical s.dev.flds s.dev.ctrs) (e : execTblReadRow a1 a2 a3 a4 s = .next t) :
    Canonical t.dev.flds t.dev.ctrs := by
  unfold execTblReadRow at e; exact run_canonical (fun _ h1 => (Dev.tblTake_canonical h1 (fun _ _ h2 => (fst_ite_canonical (by (try dsimp only); exact (Dev.clearHit_canonical (Dev.readFaults_canonical h2))) (fst_ite_canonical (by (try dsimp only); exact (Dev.hopRead_canonical h2)) (by (try dsimp only); exact (Dev.nodeRow_canonical (Dev.readFaults_canonical h2)))))))) h e

theorem execTblWriteRow_canonical {a1 a2 a3 s t} (h : Canonical s.dev.flds s.dev.ctrs) (e : execTblWriteRow a1 a2 a3 s = .next t) :
    Canonical t.dev.flds t.dev.ctrs := by
  unfold execTblWriteRow at e; exact run_canonical (fun _ h1 => (Dev.tblTake_canonical h1 (fun _ _ h2 => (fst_ite_canonical (fst_ite_canonical (by (try dsimp only); exact (Dev.setL2_canonical (Dev.settle_canonical h2))) (fst_ite_canonical (by (try dsimp only); exact (Dev.setL2_canonical (Dev.settle_canonical h2))) (by (try dsimp only); exact (Dev.settle_canonical h2)))) (fst_ite_canonical (fst_ite_canonical (by (try dsimp only); exact (Dev.setEx_canonical (Dev.settle_canonical h2))) (fst_ite_canonical (by (try dsimp only); exact (Dev.setEx_canonical (Dev.settle_canonical h2))) (by (try dsimp only); exact (Dev.settle_canonical h2)))) (fst_ite_canonical (by (try dsimp only); exact (Dev.setHop_canonical (Dev.settle_canonical h2))) (by (try dsimp only); exact (by (try dsimp only); exact (Dev.settle_canonical h2))))))))) h e

theorem execTblInsert_canonical {a1 a2 a3 a4 s t} (h : Canonical s.dev.flds s.dev.ctrs) (e : execTblInsert a1 a2 a3 a4 s = .next t) :
    Canonical t.dev.flds t.dev.ctrs := by
  unfold execTblInsert at e; exact run_canonical (fun _ h1 => (Dev.tblTake_canonical h1 (fun _ _ h2 => (fst_ite_canonical (by (try dsimp only); split; (· exact (by (try dsimp only); exact (Dev.setL2_canonical (Dev.keyReads_canonical (Dev.settle_canonical h2))))); (· exact (by (try dsimp only); split; (· rename_i vh3 eh3; have h3 := ((Dev.place_canonical (Dev.keyReads_canonical (Dev.settle_canonical h2))) _ eh3); exact (by (try dsimp only); exact h3)); (· exact (by (try dsimp only); exact (Dev.keyReads_canonical (Dev.settle_canonical h2))))))) (by (try dsimp only); split; (· exact (by (try dsimp only); exact (Dev.setEx_canonical (Dev.keyReads_canonical (Dev.settle_canonical h2))))); (· exact (by (try dsimp only); split; (· rename_i vh5 eh5; have h5 := ((Dev.place_canonical (Dev.keyReads_canonical (Dev.settle_canonical h2))) _ eh5); exact (by (try dsimp only); exact h5)); (· exact (by (try dsimp only); exact (Dev.keyReads_canonical (Dev.settle_canonical h2))))))))))) h e

theorem execTblDelete_canonical {a1 a2 a3 a4 s t} (h : Canonical s.dev.flds s.dev.ctrs) (e : execTblDelete a1 a2 a3 a4 s = .next t) :
    Canonical t.dev.flds t.dev.ctrs := by
  unfold execTblDelete at e; exact run_canonical (fun _ h1 => (Dev.tblTake_canonical h1 (fun _ _ h2 => (fst_ite_canonical (by split; (· exact (by (try dsimp only); exact (Dev.setL2_canonical (Dev.keyReads_canonical (Dev.settle_canonical h2))))); (· exact (by (try dsimp only); exact (Dev.keyReads_canonical (Dev.settle_canonical h2))))) (by split; (· exact (by (try dsimp only); exact (Dev.setEx_canonical (Dev.keyReads_canonical (Dev.settle_canonical h2))))); (· exact (by (try dsimp only); exact (Dev.keyReads_canonical (Dev.settle_canonical h2))))))))) h e

theorem execTblLookup_canonical {a1 a2 a3 a4 s t} (h : Canonical s.dev.flds s.dev.ctrs) (e : execTblLookup a1 a2 a3 a4 s = .next t) :
    Canonical t.dev.flds t.dev.ctrs := by
  unfold execTblLookup at e; exact run_canonical (fun _ h1 => (Dev.tblTake_canonical h1 (fun _ _ h2 => (by (try dsimp only); split; (· exact (by (try dsimp only); exact (Dev.keyReads_canonical h2))); (· exact (by (try dsimp only); exact (Dev.clearHit_canonical (Dev.keyReads_canonical h2)))))))) h e

theorem Dev.setLpm_canonical {a1 a2 a3} (ha1 : Canonical a1.flds a1.ctrs) :
    Canonical (Dev.setLpm a1 a2 a3).flds (Dev.setLpm a1 a2 a3).ctrs := by
  unfold Dev.setLpm; exact (by (try dsimp only); exact ha1)

theorem Dev.lpmSwitch_canonical {a1 a2 a3 a4 a5 a6} (ha1 : Canonical a1.flds a1.ctrs) :
    Canonical (Dev.lpmSwitch a1 a2 a3 a4 a5 a6).flds (Dev.lpmSwitch a1 a2 a3 a4 a5 a6).ctrs := by
  unfold Dev.lpmSwitch; exact (by (try dsimp only); exact (Dev.setLpm_canonical ha1))

theorem Dev.prefixReads_canonical {a1 a2 a3 a4} (ha1 : Canonical a1.flds a1.ctrs) :
    Canonical (Dev.prefixReads a1 a2 a3 a4).flds (Dev.prefixReads a1 a2 a3 a4).ctrs := by
  unfold Dev.prefixReads; exact (Dev.readFaults_canonical ha1)

theorem execTblPrefixAdd_canonical {a1 a2 a3 a4 s t} (h : Canonical s.dev.flds s.dev.ctrs) (e : execTblPrefixAdd a1 a2 a3 a4 s = .next t) :
    Canonical t.dev.flds t.dev.ctrs := by
  unfold execTblPrefixAdd at e; exact run_canonical (fun _ h1 => (Dev.tblTake_canonical h1 (fun _ _ h2 => (fst_ite_canonical (by (try dsimp only); exact (Dev.draw_canonical (Dev.prefixReads_canonical h2))) (by (try dsimp only); exact (Dev.lpmSwitch_canonical (Dev.draw_canonical (Dev.prefixReads_canonical h2)))))))) h e

theorem execTblPrefixDel_canonical {a1 a2 a3 a4 s t} (h : Canonical s.dev.flds s.dev.ctrs) (e : execTblPrefixDel a1 a2 a3 a4 s = .next t) :
    Canonical t.dev.flds t.dev.ctrs := by
  unfold execTblPrefixDel at e; exact run_canonical (fun _ h1 => (Dev.tblTake_canonical h1 (fun _ _ h2 => (fst_ite_canonical (by (try dsimp only); exact (Dev.prefixReads_canonical h2)) (by (try dsimp only); exact (Dev.lpmSwitch_canonical (Dev.draw_canonical (Dev.prefixReads_canonical h2)))))))) h e

theorem execTblPrefixGet_canonical {a1 a2 a3 a4 s t} (h : Canonical s.dev.flds s.dev.ctrs) (e : execTblPrefixGet a1 a2 a3 a4 s = .next t) :
    Canonical t.dev.flds t.dev.ctrs := by
  unfold execTblPrefixGet at e; exact run_canonical (fun _ h1 => (Dev.tblTake_canonical h1 (fun _ _ h2 => (by (try dsimp only); split <;> exact (by (try dsimp only); exact (Dev.prefixReads_canonical h2)))))) h e

theorem execTblFlush_canonical {a1 a2 a3 s t} (h : Canonical s.dev.flds s.dev.ctrs) (e : execTblFlush a1 a2 a3 s = .next t) :
    Canonical t.dev.flds t.dev.ctrs := by
  unfold execTblFlush at e; exact run_canonical (fun _ h1 => (Dev.tblTake_canonical h1 (fun _ _ h2 => (by (try dsimp only); exact (foldl_canonical (fun _ _ h3 => (Dev.setL2_canonical h3)) (Dev.settle_canonical h2)))))) h e

theorem execTblBadDescriptor_canonical {a1 a2 a3 s t} (h : Canonical s.dev.flds s.dev.ctrs) (e : execTblBadDescriptor a1 a2 a3 s = .next t) :
    Canonical t.dev.flds t.dev.ctrs := by
  unfold execTblBadDescriptor at e; exact run_canonical (fun _ h1 => (ite_canonical (Dev.tblStop_canonical (Dev.tblOrder_canonical h1)) h1)) h e

theorem Dev.tblRestart_canonical {a1 a2} (ha1 : Canonical a1.flds a1.ctrs) :
    Canonical (Dev.tblRestart a1 a2).flds (Dev.tblRestart a1 a2).ctrs := by
  unfold Dev.tblRestart; exact (ite_canonical (Dev.tblAdvance_canonical (Dev.set1_canonical (Dev.set1_canonical ha1))) ha1)

theorem execTblRingRestart_canonical {a1 a2 s t} (h : Canonical s.dev.flds s.dev.ctrs) (e : execTblRingRestart a1 a2 s = .next t) :
    Canonical t.dev.flds t.dev.ctrs := by
  unfold execTblRingRestart at e; exact run_canonical (fun _ h1 => (Dev.onWrite_canonical h1 (fun _ h2 => (Dev.tblRestart_canonical h2)))) h e

theorem execTrieOldNodesFree_canonical {s t} (h : Canonical s.dev.flds s.dev.ctrs) (e : execTrieOldNodesFree s = .next t) :
    Canonical t.dev.flds t.dev.ctrs := by
  unfold execTrieOldNodesFree at e; exact run_canonical (fun _ h1 => (by (try dsimp only); exact h1)) h e

theorem execTrieNodeRebuilt_canonical {a1 a2 a3 s t} (h : Canonical s.dev.flds s.dev.ctrs) (e : execTrieNodeRebuilt a1 a2 a3 s = .next t) :
    Canonical t.dev.flds t.dev.ctrs := by
  unfold execTrieNodeRebuilt at e; exact run_canonical (fun _ h1 => (by split; (· exact h1); (· exact (Dev.record_canonical (by (try dsimp only); exact h1))))) h e

theorem execLookupEngineSpared_canonical {a1 a2 s t} (h : Canonical s.dev.flds s.dev.ctrs) (e : execLookupEngineSpared a1 a2 s = .next t) :
    Canonical t.dev.flds t.dev.ctrs := by
  unfold execLookupEngineSpared at e; exact run_canonical (fun _ h1 => (ite_canonical h1 (ite_canonical (Dev.isolateRegion_canonical (Dev.record_canonical (Dev.countN_canonical (foldl_canonical (fun _ _ h2 => (Dev.setRx_canonical h2)) h1)))) (Dev.spareUsed_canonical (Dev.raise_canonical (Dev.record_canonical (Dev.setBit_canonical (Dev.setBit_canonical (Dev.set1_canonical (Dev.countN_canonical (foldl_canonical (fun _ _ h3 => (Dev.setRx_canonical h3)) h1))))))))))) h e

/-! ### `Tcam` -/

theorem Dev.tcmAdvance_canonical {a1 a2 a3} (ha1 : Canonical a1.flds a1.ctrs) :
    Canonical (Dev.tcmAdvance a1 a2 a3).flds (Dev.tcmAdvance a1 a2 a3).ctrs := by
  unfold Dev.tcmAdvance; exact (Dev.set1_canonical ha1)

theorem Dev.tcmDone_canonical {a1 a2 a3 a4 a5 a6 a7} (ha1 : Canonical a1.flds a1.ctrs) :
    Canonical (Dev.tcmDone a1 a2 a3 a4 a5 a6 a7).flds (Dev.tcmDone a1 a2 a3 a4 a5 a6 a7).ctrs := by
  unfold Dev.tcmDone; exact (ite_canonical (Dev.raise_canonical (Dev.emit_canonical ha1)) (Dev.emit_canonical ha1))

theorem Dev.tcmHalt_canonical {a1 a2 a3} (ha1 : Canonical a1.flds a1.ctrs) :
    Canonical (Dev.tcmHalt a1 a2 a3).flds (Dev.tcmHalt a1 a2 a3).ctrs := by
  unfold Dev.tcmHalt; exact (Dev.record_canonical (Dev.set1_canonical (Dev.set1_canonical (Dev.set1_canonical (Dev.emit_canonical ha1)))))

theorem Dev.setMove_canonical {a1 a2} (ha1 : Canonical a1.flds a1.ctrs) :
    Canonical (Dev.setMove a1 a2).flds (Dev.setMove a1 a2).ctrs := by
  unfold Dev.setMove; exact (by (try dsimp only); exact ha1)

theorem Dev.moveCopy_canonical {a1 a2} (ha1 : Canonical a1.flds a1.ctrs) :
    Canonical (Dev.moveCopy a1 a2).flds (Dev.moveCopy a1 a2).ctrs := by
  unfold Dev.moveCopy; exact (Dev.setMove_canonical (Dev.count_canonical (Dev.setTcam_canonical ha1)))

theorem Dev.moveClose_canonical {a1 a2} (ha1 : Canonical a1.flds a1.ctrs) :
    Canonical (Dev.moveClose a1 a2).flds (Dev.moveClose a1 a2).ctrs := by
  unfold Dev.moveClose; exact (ite_canonical (Dev.tcmDone_canonical (Dev.setMove_canonical (Dev.setTcam_canonical ha1))) (Dev.setMove_canonical (Dev.setTcam_canonical ha1)))

theorem Dev.finishMove_canonical {n} {d : Dev} (h : Canonical d.flds d.ctrs) :
    Canonical (Dev.finishMove n d).flds (Dev.finishMove n d).ctrs := by
  induction n generalizing d with
  | zero => exact h
  | succ n ih =>
    simp only [Dev.finishMove]
    split
    · exact h
    · exact ih (Dev.moveClose_canonical (ite_canonical h (Dev.moveCopy_canonical h)))

theorem Dev.settleMove_canonical {a1} (ha1 : Canonical a1.flds a1.ctrs) :
    Canonical (Dev.settleMove a1).flds (Dev.settleMove a1).ctrs := by
  unfold Dev.settleMove; exact (Dev.finishMove_canonical ha1)

theorem Dev.tcmTake_canonical {a1 a2 a3 a4 a5 a6 a7} (ha1 : Canonical a1.flds a1.ctrs) (ha7 : ∀ x1 x2 x3, Canonical x1.flds x1.ctrs → Canonical (a7 x1 x2 x3).1.flds (a7 x1 x2 x3).1.ctrs) :
    Canonical (Dev.tcmTake a1 a2 a3 a4 a5 a6 a7).flds (Dev.tcmTake a1 a2 a3 a4 a5 a6 a7).ctrs := by
  unfold Dev.tcmTake; exact (ite_canonical ha1 (ite_canonical (Dev.tcmHalt_canonical ha1) (by (try dsimp only); split; (· exact ha1); (· exact (by (try dsimp only); split; (· exact (Dev.tcmAdvance_canonical (ha7 _ _ _ (ite_canonical (Dev.settleMove_canonical ha1) ha1)))); (· exact (ite_canonical (Dev.emit_canonical (Dev.tcmDone_canonical (Dev.tcmAdvance_canonical (ha7 _ _ _ (ite_canonical (Dev.settleMove_canonical ha1) ha1))))) (Dev.tcmDone_canonical (Dev.tcmAdvance_canonical (ha7 _ _ _ (ite_canonical (Dev.settleMove_canonical ha1) ha1)))))))))))

theorem execTcmReadEntry_canonical {a1 a2 a3 s t} (h : Canonical s.dev.flds s.dev.ctrs) (e : execTcmReadEntry a1 a2 a3 s = .next t) :
    Canonical t.dev.flds t.dev.ctrs := by
  unfold execTcmReadEntry at e; exact run_canonical (fun _ h1 => (ite_canonical (Dev.tcmTake_canonical h1 (fun _ _ _ h2 => (by (try dsimp only); exact h2))) (Dev.tcmTake_canonical h1 (fun _ _ _ h3 => (by (try dsimp only); exact (ite_canonical (Dev.emit_canonical (Dev.tcmDone_canonical h3)) (Dev.tcmDone_canonical h3))))))) h e

theorem execTcmWriteEntry_canonical {a1 a2 a3 s t} (h : Canonical s.dev.flds s.dev.ctrs) (e : execTcmWriteEntry a1 a2 a3 s = .next t) :
    Canonical t.dev.flds t.dev.ctrs := by
  unfold execTcmWriteEntry at e; exact run_canonical (fun _ h1 => (Dev.tcmTake_canonical h1 (fun _ _ _ h2 => (by (try dsimp only); exact (Dev.setTcam_canonical h2))))) h e

theorem execTcmInsertAt_canonical {n desc next s t} (h : Canonical s.dev.flds s.dev.ctrs)
    (e : execTcmInsertAt n desc next s = .next t) : Canonical t.dev.flds t.dev.ctrs := by
  unfold execTcmInsertAt at e
  refine run_canonical (fun d h => Dev.tcmTake_canonical h (fun d p i h => ?_)) h e
  have hm (x) : Canonical (d.setMove x).flds (d.setMove x).ctrs := Dev.setMove_canonical h
  have ht (a b c) : Canonical (d.setTcam a b c).flds (d.setTcam a b c).ctrs := Dev.setTcam_canonical h
  refine fst_ite_canonical h (fst_ite_canonical (ht _ _ _) ?_)
  split
  · exact h
  · exact hm _
  · exact fst_ite_canonical (ht _ _ _) (hm _)
  · exact fst_ite_canonical (hm _) (fst_ite_canonical (ht _ _ _) (hm _))

theorem execTcmDeleteAt_canonical {a1 a2 a3 s t} (h : Canonical s.dev.flds s.dev.ctrs) (e : execTcmDeleteAt a1 a2 a3 s = .next t) :
    Canonical t.dev.flds t.dev.ctrs := by
  unfold execTcmDeleteAt at e; exact run_canonical (fun _ h1 => (Dev.tcmTake_canonical h1 (fun _ _ _ h2 => (by (try dsimp only); exact (Dev.setTcam_canonical h2))))) h e

theorem execTcmLookup_canonical {a1 a2 a3 s t} (h : Canonical s.dev.flds s.dev.ctrs) (e : execTcmLookup a1 a2 a3 s = .next t) :
    Canonical t.dev.flds t.dev.ctrs := by
  unfold execTcmLookup at e; exact run_canonical (fun _ h1 => (Dev.tcmTake_canonical h1 (fun _ _ _ h2 => (by split <;> exact (by (try dsimp only); exact h2))))) h e

theorem execTcmClearPartition_canonical {a1 a2 a3 s t} (h : Canonical s.dev.flds s.dev.ctrs) (e : execTcmClearPartition a1 a2 a3 s = .next t) :
    Canonical t.dev.flds t.dev.ctrs := by
  unfold execTcmClearPartition at e; exact run_canonical (fun _ h1 => (Dev.tcmTake_canonical h1 (fun _ _ _ h2 => (by (try dsimp only); exact (by (try dsimp only); exact h2))))) h e

theorem execTcmBadDescriptor_canonical {a1 a2 a3 s t} (h : Canonical s.dev.flds s.dev.ctrs) (e : execTcmBadDescriptor a1 a2 a3 s = .next t) :
    Canonical t.dev.flds t.dev.ctrs := by
  unfold execTcmBadDescriptor at e; exact run_canonical (fun _ h1 => (ite_canonical (Dev.tcmHalt_canonical h1) h1)) h e

theorem Dev.tcmRestart_canonical {a1 a2} (ha1 : Canonical a1.flds a1.ctrs) :
    Canonical (Dev.tcmRestart a1 a2).flds (Dev.tcmRestart a1 a2).ctrs := by
  unfold Dev.tcmRestart; exact (ite_canonical (Dev.tcmAdvance_canonical (Dev.set1_canonical (Dev.set1_canonical ha1))) ha1)

theorem execTcmRingRestart_canonical {a1 a2 s t} (h : Canonical s.dev.flds s.dev.ctrs) (e : execTcmRingRestart a1 a2 s = .next t) :
    Canonical t.dev.flds t.dev.ctrs := by
  unfold execTcmRingRestart at e; exact run_canonical (fun _ h1 => (Dev.onWrite_canonical h1 (fun _ h2 => (Dev.tcmRestart_canonical h2)))) h e

theorem execTcmMoveStep_canonical {s t} (h : Canonical s.dev.flds s.dev.ctrs) (e : execTcmMoveStep s = .next t) :
    Canonical t.dev.flds t.dev.ctrs := by
  unfold execTcmMoveStep at e; exact run_canonical (fun _ h1 => (by split; (· exact h1); (· exact (ite_canonical h1 (Dev.moveCopy_canonical h1))))) h e

theorem execTcmMoveInvalidate_canonical {s t} (h : Canonical s.dev.flds s.dev.ctrs) (e : execTcmMoveInvalidate s = .next t) :
    Canonical t.dev.flds t.dev.ctrs := by
  unfold execTcmMoveInvalidate at e; exact run_canonical (fun _ h1 => (by split; (· exact h1); (· exact (ite_canonical (Dev.moveClose_canonical h1) h1)))) h e

theorem Dev.bankFailed_canonical {a1 a2} (ha1 : Canonical a1.flds a1.ctrs) :
    Canonical (Dev.bankFailed a1 a2).flds (Dev.bankFailed a1 a2).ctrs := by
  unfold Dev.bankFailed; exact (foldl_canonical (fun _ _ h1 => (Dev.isolateRegion_canonical h1)) (Dev.record_canonical (Dev.setBit_canonical (Dev.set0_canonical (ite_canonical (Dev.setBit_canonical ha1) (Dev.setBit_canonical ha1))))))

theorem Dev.scanRow_canonical {a1 a2 a3} (ha1 : Canonical a1.flds a1.ctrs) :
    Canonical (Dev.scanRow a1 a2 a3).flds (Dev.scanRow a1 a2 a3).ctrs := by
  unfold Dev.scanRow; exact (by (try dsimp only); split; (· exact (Dev.record_canonical (Dev.set0_canonical (Dev.set0_canonical (Dev.count_canonical ha1))))); (· exact (Dev.bankFailed_canonical (Dev.set0_canonical (Dev.set0_canonical (Dev.record_canonical (Dev.set0_canonical (Dev.set0_canonical (Dev.count_canonical ha1)))))))); (· exact (Dev.count_canonical ha1)); (· exact (by (try dsimp only); split; (· exact ha1); (· exact (Dev.record_canonical (Dev.set1_canonical (Dev.count_canonical (Dev.set0_canonical (Dev.set0_canonical (Dev.setTcam_canonical ha1))))))))); (· exact ha1))

theorem execTcamScanRow_canonical {a1 a2 a3 s t} (h : Canonical s.dev.flds s.dev.ctrs) (e : execTcamScanRow a1 a2 a3 s = .next t) :
    Canonical t.dev.flds t.dev.ctrs := by
  unfold execTcamScanRow at e; exact run_canonical (fun _ h1 => (ite_canonical h1 (Dev.scanRow_canonical (by split; (· exact h1); (· exact (Dev.set0_canonical h1)))))) h e

/-! ### `Digest` -/

theorem Dev.windowDone_canonical {a1 a2} (ha1 : Canonical a1.flds a1.ctrs) :
    Canonical (Dev.windowDone a1 a2).flds (Dev.windowDone a1 a2).ctrs := by
  unfold Dev.windowDone; exact (by (try dsimp only); exact ha1)

theorem Dev.dropWin_canonical {a1 a2 a3} (ha1 : Canonical a1.flds a1.ctrs) :
    Canonical (Dev.dropWin a1 a2 a3).flds (Dev.dropWin a1 a2 a3).ctrs := by
  unfold Dev.dropWin; exact (Dev.setWin_canonical ha1)

theorem execPairDigestSend_canonical {s t} (h : Canonical s.dev.flds s.dev.ctrs) (e : execPairDigestSend s = .next t) :
    Canonical t.dev.flds t.dev.ctrs := by
  unfold execPairDigestSend at e; exact run_canonical (fun _ h1 => (ite_canonical h1 (Dev.windowDone_canonical (foldl_canonical (fun _ _ h2 => (Dev.dropWin_canonical h2)) (foldl_canonical (fun _ _ h3 => (Dev.pairSend_canonical h3)) h1))))) h e

theorem Dev.splitBand_canonical {a1 a2 a3 a4} (ha1 : Canonical a1.flds a1.ctrs) :
    Canonical (Dev.splitBand a1 a2 a3 a4).flds (Dev.splitBand a1 a2 a3 a4).ctrs := by
  unfold Dev.splitBand; exact (ite_canonical ha1 (ite_canonical (Dev.noteIncomplete_canonical (Dev.noteIncomplete_canonical (foldl_canonical (fun _ _ h1 => (Dev.addDigest_canonical h1)) (by (try dsimp only); exact ha1)))) (foldl_canonical (fun _ _ h2 => (Dev.addDigest_canonical h2)) (foldl_canonical (fun _ _ h3 => (Dev.addDigest_canonical h3)) (by (try dsimp only); exact ha1)))))

theorem Dev.setRun_canonical {a1 a2 a3} (ha1 : Canonical a1.flds a1.ctrs) :
    Canonical (Dev.setRun a1 a2 a3).flds (Dev.setRun a1 a2 a3).ctrs := by
  unfold Dev.setRun; exact (by (try dsimp only); exact ha1)

theorem Dev.startCompare_canonical {a1 a2} (ha1 : Canonical a1.flds a1.ctrs) :
    Canonical (Dev.startCompare a1 a2).flds (Dev.startCompare a1 a2).ctrs := by
  unfold Dev.startCompare; exact (Dev.count_canonical (Dev.set0_canonical (Dev.set0_canonical (Dev.set0_canonical (Dev.set0_canonical (by (try dsimp only); exact ha1))))))

theorem Dev.thirdMismatch_canonical {a1 a2} (ha1 : Canonical a1.flds a1.ctrs) :
    Canonical (Dev.thirdMismatch a1 a2).flds (Dev.thirdMismatch a1 a2).ctrs := by
  unfold Dev.thirdMismatch; exact (ite_canonical ha1 (Dev.startCompare_canonical (Dev.record_canonical ha1)))

theorem Dev.keepNext_canonical {a1} (ha1 : Canonical a1.flds a1.ctrs) :
    Canonical (Dev.keepNext a1).flds (Dev.keepNext a1).ctrs := by
  unfold Dev.keepNext; exact (by (try dsimp only); exact ha1)

theorem Dev.unjudged_canonical {a1 a2 a3} (ha1 : Canonical a1.flds a1.ctrs) :
    Canonical (Dev.unjudged a1 a2 a3).flds (Dev.unjudged a1 a2 a3).ctrs := by
  unfold Dev.unjudged; exact (ite_canonical (Dev.keepNext_canonical (Dev.count_canonical (Dev.setRun_canonical ha1))) (Dev.count_canonical (Dev.setRun_canonical ha1)))

theorem Dev.judgeDigest_canonical {a1 a2 a3 a4} (ha1 : Canonical a1.flds a1.ctrs) :
    Canonical (Dev.judgeDigest a1 a2 a3 a4).flds (Dev.judgeDigest a1 a2 a3 a4).ctrs := by
  unfold Dev.judgeDigest; exact (ite_canonical (Dev.unjudged_canonical (Dev.dropWin_canonical (ite_canonical (Dev.splitBand_canonical ha1) ha1))) (ite_canonical (Dev.count_canonical (Dev.setRun_canonical (Dev.dropWin_canonical (ite_canonical (Dev.splitBand_canonical ha1) ha1)))) (Dev.thirdMismatch_canonical (Dev.count_canonical (Dev.setRun_canonical (Dev.dropWin_canonical (ite_canonical (Dev.splitBand_canonical ha1) ha1)))))))

theorem execPairDigestReceive_canonical {a1 a2 a3 a4 a5 s t} (h : Canonical s.dev.flds s.dev.ctrs) (e : execPairDigestReceive a1 a2 a3 a4 a5 s = .next t) :
    Canonical t.dev.flds t.dev.ctrs := by
  unfold execPairDigestReceive at e; exact run_canonical (fun _ h1 => (ite_canonical (Dev.pairTake_canonical h1) (ite_canonical (Dev.count_canonical (Dev.pairTake_canonical h1)) (Dev.windowDone_canonical (foldl_canonical (fun _ _ h2 => (by split; (· exact (ite_canonical (Dev.judgeDigest_canonical h2) h2)); (· exact h2))) (Dev.pairTake_canonical h1)))))) h e

theorem execPairDigestTimeout_canonical {a1 a2 s t} (h : Canonical s.dev.flds s.dev.ctrs) (e : execPairDigestTimeout a1 a2 s = .next t) :
    Canonical t.dev.flds t.dev.ctrs := by
  unfold execPairDigestTimeout at e; exact run_canonical (fun _ h1 => (ite_canonical h1 (Dev.windowDone_canonical (foldl_canonical (fun _ _ h2 => (ite_canonical (Dev.unjudged_canonical (Dev.dropWin_canonical (ite_canonical h2 (Dev.noteIncomplete_canonical (by (try dsimp only); exact h2))))) h2)) h1)))) h e

theorem execPairSampleReceive_canonical {a1 a2 a3 a4 a5 a6 a7 s t} (h : Canonical s.dev.flds s.dev.ctrs) (e : execPairSampleReceive a1 a2 a3 a4 a5 a6 a7 s = .next t) :
    Canonical t.dev.flds t.dev.ctrs := by
  unfold execPairSampleReceive at e; exact run_canonical (fun _ h1 => (ite_canonical (Dev.pairTake_canonical h1) (ite_canonical (ite_canonical (foldl_canonical (fun _ _ h2 => (Dev.noteIncomplete_canonical h2)) (by (try dsimp only); exact (Dev.pairTake_canonical h1))) (by (try dsimp only); exact (Dev.pairTake_canonical h1))) (Dev.keepFrame_canonical (Dev.addDigest_canonical (ite_canonical (foldl_canonical (fun _ _ h3 => (Dev.noteIncomplete_canonical h3)) (by (try dsimp only); exact (Dev.pairTake_canonical h1))) (by (try dsimp only); exact (Dev.pairTake_canonical h1)))))))) h e

theorem Dev.syncApply_canonical {a1 a2} (ha1 : Canonical a1.flds a1.ctrs) :
    Canonical (Dev.syncApply a1 a2).flds (Dev.syncApply a1 a2).ctrs := by
  unfold Dev.syncApply; exact (by split; (· exact (Dev.setL2_canonical ha1)); (· exact (Dev.lpmSwitch_canonical (Dev.draw_canonical ha1))); (· exact (Dev.lpmSwitch_canonical (Dev.draw_canonical ha1))); (· exact (Dev.setEx_canonical ha1)); (· exact (Dev.setHop_canonical ha1)); (· exact (Dev.setTcam_canonical ha1)); (· exact (Dev.writeEntry_canonical ha1)); (· exact (Dev.writeEntry_canonical ha1)); (· exact ha1))

theorem Dev.syncAll_canonical {a1 a2} (ha1 : Canonical a1.flds a1.ctrs) :
    Canonical (Dev.syncAll a1 a2).flds (Dev.syncAll a1 a2).ctrs := by
  unfold Dev.syncAll; exact (foldl_canonical (fun _ _ h1 => (Dev.syncApply_canonical h1)) ha1)

theorem Dev.sendSums_canonical {a1 a2} (ha1 : Canonical a1.flds a1.ctrs) :
    Canonical (Dev.sendSums a1 a2).flds (Dev.sendSums a1 a2).ctrs := by
  unfold Dev.sendSums; exact (foldl_canonical (fun _ _ h1 => (Dev.pairSend_canonical h1)) ha1)

theorem Dev.sendDecisions_canonical {a1} (ha1 : Canonical a1.flds a1.ctrs) :
    Canonical (Dev.sendDecisions a1).flds (Dev.sendDecisions a1).ctrs := by
  unfold Dev.sendDecisions; exact (foldl_canonical (fun _ _ h1 => (Dev.pairSend_canonical h1)) ha1)

theorem Dev.copyBlock_canonical {a1 a2 a3} (ha1 : Canonical a1.flds a1.ctrs) :
    Canonical (Dev.copyBlock a1 a2 a3).flds (Dev.copyBlock a1 a2 a3).ctrs := by
  unfold Dev.copyBlock; exact (Dev.syncAll_canonical (foldl_canonical (fun _ _ h1 => (Dev.syncApply_canonical h1)) ha1))

theorem Dev.compareEnd_canonical {a1 a2 a3} (ha1 : Canonical a1.flds a1.ctrs) :
    Canonical (Dev.compareEnd a1 a2 a3).flds (Dev.compareEnd a1 a2 a3).ctrs := by
  unfold Dev.compareEnd; exact (Dev.set0_canonical (Dev.set0_canonical (Dev.set0_canonical (Dev.set0_canonical (by (try dsimp only); exact ha1)))))

theorem Dev.compareStage_canonical {a1 a2} (ha1 : Canonical a1.flds a1.ctrs) :
    Canonical (Dev.compareStage a1 a2).flds (Dev.compareStage a1 a2).ctrs := by
  unfold Dev.compareStage; exact (by split; (· exact (Dev.set0_canonical (by (try dsimp only); exact (ite_canonical (Dev.keepNext_canonical ha1) ha1)))); (· exact ha1))

theorem Dev.beginResync_canonical {a1} (ha1 : Canonical a1.flds a1.ctrs) :
    Canonical (Dev.beginResync a1).flds (Dev.beginResync a1).ctrs := by
  unfold Dev.beginResync; exact (Dev.setRole_canonical (Dev.set0_canonical (by (try dsimp only); exact ha1)))

theorem Dev.ownFault_canonical {a1} (ha1 : Canonical a1.flds a1.ctrs) :
    Canonical (Dev.ownFault a1).flds (Dev.ownFault a1).ctrs := by
  unfold Dev.ownFault; exact (ite_canonical (Dev.autumn_canonical (Dev.set0_canonical (ite_canonical (ite_canonical (Dev.release__canonical (by (try dsimp only); exact ha1)) (by (try dsimp only); exact ha1)) (Dev.beginResync_canonical (by (try dsimp only); exact ha1))))) (ite_canonical (ite_canonical (Dev.release__canonical (by (try dsimp only); exact ha1)) (by (try dsimp only); exact ha1)) (Dev.beginResync_canonical (by (try dsimp only); exact ha1))))

theorem Dev.faultLocated_canonical {a1 a2 a3 a4} (ha1 : Canonical a1.flds a1.ctrs) :
    Canonical (Dev.faultLocated a1 a2 a3 a4).flds (Dev.faultLocated a1 a2 a3 a4).ctrs := by
  unfold Dev.faultLocated; exact (ite_canonical (Dev.ownFault_canonical (Dev.record_canonical (Dev.set0_canonical (Dev.set0_canonical (Dev.compareEnd_canonical ha1))))) (Dev.record_canonical (Dev.set0_canonical (Dev.set0_canonical (Dev.compareEnd_canonical ha1)))))

theorem Dev.judgeBlocks_canonical {a1 a2 a3} (ha1 : Canonical a1.flds a1.ctrs) :
    Canonical (Dev.judgeBlocks a1 a2 a3).flds (Dev.judgeBlocks a1 a2 a3).ctrs := by
  unfold Dev.judgeBlocks; exact (by split; (· exact (Dev.faultLocated_canonical ha1)); (· exact (Dev.faultLocated_canonical ha1)); (· exact (ite_canonical (Dev.record_canonical (Dev.set0_canonical (Dev.set0_canonical (Dev.compareEnd_canonical ha1)))) (foldl_canonical (fun _ _ h1 => (Dev.copyBlock_canonical h1)) (Dev.record_canonical (Dev.set0_canonical (Dev.set0_canonical (Dev.compareEnd_canonical ha1))))))); (· exact ha1))

theorem Dev.judgeDecisions_canonical {a1 a2 a3 a4} (ha1 : Canonical a1.flds a1.ctrs) :
    Canonical (Dev.judgeDecisions a1 a2 a3 a4).flds (Dev.judgeDecisions a1 a2 a3 a4).ctrs := by
  unfold Dev.judgeDecisions; exact (by (try dsimp only); split; (· exact (Dev.faultLocated_canonical ha1)); (· exact (ite_canonical (Dev.faultLocated_canonical ha1) (Dev.record_canonical (Dev.compareEnd_canonical ha1)))); (· exact (Dev.compareEnd_canonical ha1)))

theorem Dev.comparing_canonical {a1 a2} (ha1 : Canonical a1.flds a1.ctrs) :
    Canonical (Dev.comparing a1 a2).flds (Dev.comparing a1 a2).ctrs := by
  unfold Dev.comparing; exact (ite_canonical (Dev.startCompare_canonical ha1) ha1)

theorem execPairCompareStage_canonical {a1 a2 a3 a4 a5 a6 s t} (h : Canonical s.dev.flds s.dev.ctrs) (e : execPairCompareStage a1 a2 a3 a4 a5 a6 s = .next t) :
    Canonical t.dev.flds t.dev.ctrs := by
  unfold execPairCompareStage at e; exact run_canonical (fun _ h1 => (ite_canonical h1 (by (try dsimp only); split; (· exact (Dev.comparing_canonical h1)); (· exact (by (try dsimp only); split; (· exact (Dev.compareStage_canonical (Dev.sendSums_canonical (Dev.comparing_canonical h1)))); (· exact (ite_canonical (Dev.comparing_canonical h1) (ite_canonical (Dev.compareStage_canonical (Dev.sendSums_canonical (Dev.comparing_canonical h1))) (Dev.judgeBlocks_canonical (Dev.sendSums_canonical (Dev.comparing_canonical h1)))))); (· exact (ite_canonical (Dev.judgeDecisions_canonical (Dev.sendDecisions_canonical (Dev.comparing_canonical h1))) (Dev.comparing_canonical h1)))))))) h e

theorem Dev.clearTables_canonical {a1} (ha1 : Canonical a1.flds a1.ctrs) :
    Canonical (Dev.clearTables a1).flds (Dev.clearTables a1).ctrs := by
  unfold Dev.clearTables; exact (by (try dsimp only); exact ha1)

theorem execPairResync_canonical {a1 s t} (h : Canonical s.dev.flds s.dev.ctrs) (e : execPairResync a1 s = .next t) :
    Canonical t.dev.flds t.dev.ctrs := by
  unfold execPairResync at e; exact run_canonical (fun _ h1 => (ite_canonical h1 (by (try dsimp only); exact (Dev.syncAll_canonical (Dev.clearTables_canonical h1))))) h e

theorem execPairResyncDone_canonical {s t} (h : Canonical s.dev.flds s.dev.ctrs) (e : execPairResyncDone s = .next t) :
    Canonical t.dev.flds t.dev.ctrs := by
  unfold execPairResyncDone at e; exact run_canonical (fun _ h1 => (by split; (· exact (ite_canonical (Dev.setRole_canonical (Dev.record_canonical (Dev.set0_canonical (by (try dsimp only); exact h1)))) h1)); (· exact h1))) h e

theorem execPairSyncRecord_canonical {a1 a2 a3 s t} (h : Canonical s.dev.flds s.dev.ctrs) (e : execPairSyncRecord a1 a2 a3 s = .next t) :
    Canonical t.dev.flds t.dev.ctrs := by
  unfold execPairSyncRecord at e; exact run_canonical (fun _ h1 => (ite_canonical (Dev.pairTake_canonical h1) (by (try dsimp only); exact (Dev.syncApply_canonical (Dev.pairTake_canonical h1))))) h e

end Sys2Proof.Machine
end

