-- ==== Sys2Proof/Laws/CanonicalHost.lean ====
section
/-! SUPPORT. Each function of one kind keeps the registers and counters in their one form: the indirect windows, the
mailbox, PCI Express, register accesses, SMBus and the tick. -/

set_option linter.all false
namespace Sys2Proof.Machine

/-! ### `Indirect` -/

theorem Dev.setInd_canonical {a1 a2 a3 a4} (ha1 : Canonical a1.flds a1.ctrs) :
    Canonical (Dev.setInd a1 a2 a3 a4).flds (Dev.setInd a1 a2 a3 a4).ctrs := by
  unfold Dev.setInd; exact (by (try dsimp only); exact ha1)

theorem Dev.indWrite_canonical {a1 a2 a3 a4} (ha1 : Canonical a1.flds a1.ctrs) :
    Canonical (Dev.indWrite a1 a2 a3 a4).flds (Dev.indWrite a1 a2 a3 a4).ctrs := by
  unfold Dev.indWrite; exact (Dev.setInd_canonical ha1)

theorem Dev.indAddrWrite_canonical {a1 a2 a3 a4} (ha1 : Canonical a1.flds a1.ctrs) :
    Canonical (Dev.indAddrWrite a1 a2 a3 a4).flds (Dev.indAddrWrite a1 a2 a3 a4).ctrs := by
  unfold Dev.indAddrWrite; exact (Dev.indWrite_canonical ha1)

theorem Dev.indStatusWrite_canonical {a1 a2 a3 a4} (ha1 : Canonical a1.flds a1.ctrs) :
    Canonical (Dev.indStatusWrite a1 a2 a3 a4).flds (Dev.indStatusWrite a1 a2 a3 a4).ctrs := by
  unfold Dev.indStatusWrite; exact (Dev.setInd_canonical ha1)

theorem Dev.indDataWrite_canonical {a1 a2 a3 a4 a5} (ha1 : Canonical a1.flds a1.ctrs) :
    Canonical (Dev.indDataWrite a1 a2 a3 a4 a5).flds (Dev.indDataWrite a1 a2 a3 a4 a5).ctrs := by
  unfold Dev.indDataWrite; exact (Dev.indWrite_canonical ha1)

theorem Dev.indDataRead_canonical {a1 a2 a3 a4} (ha1 : Canonical a1.flds a1.ctrs) :
    Canonical (Dev.indDataRead a1 a2 a3 a4).2.flds (Dev.indDataRead a1 a2 a3 a4).2.ctrs := by
  unfold Dev.indDataRead; exact (snd_ite_canonical (by (try dsimp only); exact (ite_canonical ha1 (Dev.setInd_canonical ha1))) (snd_ite_canonical (by (try dsimp only); exact (Dev.setInd_canonical ha1)) (by (try dsimp only); exact ha1)))

theorem Dev.indFetched_canonical {a1 a2 a3} (ha1 : Canonical a1.flds a1.ctrs) :
    Canonical (Dev.indFetched a1 a2 a3).flds (Dev.indFetched a1 a2 a3).ctrs := by
  unfold Dev.indFetched; exact (ite_canonical ha1 (by split <;> exact (Dev.setInd_canonical ha1)))

theorem Dev.indGo_canonical {a1 a2 a3} (ha1 : Canonical a1.flds a1.ctrs) :
    Canonical (Dev.indGo a1 a2 a3).flds (Dev.indGo a1 a2 a3).ctrs := by
  unfold Dev.indGo; exact (by (try dsimp only); split; (· exact (Dev.setInd_canonical ha1)); (· exact (ite_canonical (Dev.setInd_canonical ha1) (ite_canonical (Dev.setInd_canonical ha1) (ite_canonical (Dev.accessFailed_canonical (Dev.setInd_canonical ha1)) (ite_canonical (Dev.setInd_canonical ha1) (Dev.setInd_canonical (foldl_canonical (fun _ _ h1 => (Dev.writeEntry_canonical h1)) ha1))))))))

theorem Dev.indCmdWrite_canonical {a1 a2 a3 a4} (ha1 : Canonical a1.flds a1.ctrs) :
    Canonical (Dev.indCmdWrite a1 a2 a3 a4).flds (Dev.indCmdWrite a1 a2 a3 a4).ctrs := by
  unfold Dev.indCmdWrite; exact (ite_canonical ha1 (ite_canonical (Dev.indGo_canonical (Dev.indWrite_canonical ha1)) (Dev.indWrite_canonical ha1)))

theorem execIndAddrWrite_canonical {a1 a2 a3 s t} (h : Canonical s.dev.flds s.dev.ctrs) (e : execIndAddrWrite a1 a2 a3 s = .next t) :
    Canonical t.dev.flds t.dev.ctrs := by
  unfold execIndAddrWrite at e; exact run_canonical (fun _ h1 => (Dev.onWrite_canonical h1 (fun _ h2 => (Dev.indAddrWrite_canonical h2)))) h e

theorem execIndFetchDone_canonical {a1 a2 s t} (h : Canonical s.dev.flds s.dev.ctrs) (e : execIndFetchDone a1 a2 s = .next t) :
    Canonical t.dev.flds t.dev.ctrs := by
  unfold execIndFetchDone at e; exact run_canonical (fun _ h1 => (Dev.indFetched_canonical h1)) h e

theorem execIndDataReadAdvance_canonical {a1 a2 s t} (h : Canonical s.dev.flds s.dev.ctrs) (e : execIndDataReadAdvance a1 a2 s = .next t) :
    Canonical t.dev.flds t.dev.ctrs := by
  unfold execIndDataReadAdvance at e; exact run_canonical (fun _ h1 => (Dev.gateRead_canonical h1 (fun _ h2 => (Dev.indDataRead_canonical h2)))) h e

theorem execIndCmdGo_canonical {a1 a2 a3 s t} (h : Canonical s.dev.flds s.dev.ctrs) (e : execIndCmdGo a1 a2 a3 s = .next t) :
    Canonical t.dev.flds t.dev.ctrs := by
  unfold execIndCmdGo at e; exact run_canonical (fun _ h1 => (Dev.onWrite_canonical h1 (fun _ h2 => (Dev.indCmdWrite_canonical h2)))) h e

theorem execIndWriteDone_canonical {a1 a2 s t} (h : Canonical s.dev.flds s.dev.ctrs) (e : execIndWriteDone a1 a2 s = .next t) :
    Canonical t.dev.flds t.dev.ctrs := by
  unfold execIndWriteDone at e; exact run_canonical (fun _ h1 => (ite_canonical h1 (Dev.setInd_canonical h1))) h e

/-! ### `Mailbox` -/

theorem Dev.h2fWrite_canonical {a1 a2 a3 a4 a5} (ha1 : Canonical a1.flds a1.ctrs) (ha5 : ∀ x1, Canonical x1.flds x1.ctrs → Canonical (a5 x1).flds (a5 x1).ctrs) :
    Canonical (Dev.h2fWrite a1 a2 a3 a4 a5).flds (Dev.h2fWrite a1 a2 a3 a4 a5).ctrs := by
  unfold Dev.h2fWrite; exact (ite_canonical (Dev.gateWrite_canonical ha1 (fun _ h1 => (ha5 _ h1))) (ite_canonical (Dev.abortAccess_canonical ha1) (ite_canonical (Dev.complete_canonical (by (try dsimp only); exact (Dev.accessLast_canonical (Dev.count_canonical (Dev.set0_canonical ha1))))) (Dev.gateWrite_canonical ha1 (fun _ h2 => (ha5 _ h2))))))

theorem Dev.h2fFree_canonical {a1 a2 a3 a4} (ha1 : Canonical a1.flds a1.ctrs) (ha4 : ∀ x1, Canonical x1.flds x1.ctrs → Canonical (a4 x1).flds (a4 x1).ctrs) :
    Canonical (Dev.h2fFree a1 a2 a3 a4).flds (Dev.h2fFree a1 a2 a3 a4).ctrs := by
  unfold Dev.h2fFree; exact (ite_canonical (Dev.mbxViolation_canonical (Dev.count_canonical (Dev.set1_canonical ha1))) (ha4 _ ha1))

theorem Dev.h2fGo_canonical {a1 a2 a3} (ha1 : Canonical a1.flds a1.ctrs) :
    Canonical (Dev.h2fGo a1 a2 a3).flds (Dev.h2fGo a1 a2 a3).ctrs := by
  unfold Dev.h2fGo; exact (Dev.h2fWrite_canonical ha1 (fun _ h1 => (Dev.h2fFree_canonical h1 (fun _ h2 => (Dev.count_canonical (Dev.set1_canonical h2))))))

theorem execMbxH2fPost_canonical {a1 a2 s t} (h : Canonical s.dev.flds s.dev.ctrs) (e : execMbxH2fPost a1 a2 s = .next t) :
    Canonical t.dev.flds t.dev.ctrs := by
  unfold execMbxH2fPost at e; exact run_canonical (fun _ h1 => (Dev.h2fGo_canonical h1)) h e

theorem Dev.h2fData_canonical {a1 a2 a3 a4 a5} (ha1 : Canonical a1.flds a1.ctrs) :
    Canonical (Dev.h2fData a1 a2 a3 a4 a5).flds (Dev.h2fData a1 a2 a3 a4 a5).ctrs := by
  unfold Dev.h2fData; exact (Dev.h2fWrite_canonical ha1 (fun _ h1 => (Dev.h2fFree_canonical h1 (fun _ h2 => (Dev.setFld_canonical h2)))))

theorem execMbxH2fTake_canonical {a1 s t} (h : Canonical s.dev.flds s.dev.ctrs) (e : execMbxH2fTake a1 s = .next t) :
    Canonical t.dev.flds t.dev.ctrs := by
  unfold execMbxH2fTake at e; exact run_canonical (fun _ h1 => (ite_canonical h1 (Dev.set1_canonical (by (try dsimp only); exact h1)))) h e

theorem Dev.challengeDelivered_canonical {a1 a2 a3} (ha1 : Canonical a1.flds a1.ctrs) :
    Canonical (Dev.challengeDelivered a1 a2 a3).flds (Dev.challengeDelivered a1 a2 a3).ctrs := by
  unfold Dev.challengeDelivered; exact (ite_canonical ha1 (foldl_canonical (fun _ _ h1 => (by split; (· exact (ite_canonical (by (try dsimp only); exact h1) h1)); (· exact h1))) ha1))

theorem execMbxF2hDeliver_canonical {a1 s t} (h : Canonical s.dev.flds s.dev.ctrs) (e : execMbxF2hDeliver a1 s = .next t) :
    Canonical t.dev.flds t.dev.ctrs := by
  unfold execMbxF2hDeliver at e; exact run_canonical (fun _ h1 => (by split; (· exact (ite_canonical h1 (Dev.postLostNotice_canonical (Dev.challengeDelivered_canonical (Dev.raise_canonical (Dev.count_canonical (Dev.set1_canonical (Dev.set1_canonical (Dev.set1_canonical (foldl_canonical (fun _ _ h2 => (Dev.setFld_canonical h2)) (by (try dsimp only); exact h1))))))))))); (· exact h1))) h e

theorem Dev.f2hAck_canonical {a1 a2 a3} (ha1 : Canonical a1.flds a1.ctrs) :
    Canonical (Dev.f2hAck a1 a2 a3).flds (Dev.f2hAck a1 a2 a3).ctrs := by
  unfold Dev.f2hAck; exact (ite_canonical (Dev.gateWrite_canonical ha1 (fun _ h1 => (Dev.postLostNotice_canonical (Dev.set1_canonical (Dev.set1_canonical h1))))) (Dev.abortAccess_canonical ha1))

theorem execMbxF2hAck_canonical {a1 a2 s t} (h : Canonical s.dev.flds s.dev.ctrs) (e : execMbxF2hAck a1 a2 s = .next t) :
    Canonical t.dev.flds t.dev.ctrs := by
  unfold execMbxF2hAck at e; exact run_canonical (fun _ h1 => (Dev.f2hAck_canonical h1)) h e

theorem Dev.serve_canonical {a1 a2 a3 a4} (ha1 : Canonical a1.flds a1.ctrs) (ha4 : ∀ x1 x2, Canonical x1.flds x1.ctrs → Canonical (a4 x1 x2).flds (a4 x1 x2).ctrs) :
    Canonical (Dev.serve a1 a2 a3 a4).flds (Dev.serve a1 a2 a3 a4).ctrs := by
  unfold Dev.serve; exact (by split; (· exact ha1); (· exact (ite_canonical ha1 (by split; (· exact (Dev.reply_canonical (ite_canonical (by (try dsimp only); exact ha1) (Dev.mbxViolation_canonical (by (try dsimp only); exact ha1))))); (· exact (ha4 _ _ (by (try dsimp only); exact ha1)))))))

theorem execMbxGetInfo_canonical {a1 s t} (h : Canonical s.dev.flds s.dev.ctrs) (e : execMbxGetInfo a1 s = .next t) :
    Canonical t.dev.flds t.dev.ctrs := by
  unfold execMbxGetInfo at e; exact run_canonical (fun _ h1 => (Dev.serve_canonical h1 (fun _ _ h2 => (Dev.reply_canonical h2)))) h e

theorem execMbxEcho_canonical {a1 s t} (h : Canonical s.dev.flds s.dev.ctrs) (e : execMbxEcho a1 s = .next t) :
    Canonical t.dev.flds t.dev.ctrs := by
  unfold execMbxEcho at e; exact run_canonical (fun _ h1 => (Dev.serve_canonical h1 (fun _ _ h2 => (Dev.reply_canonical h2)))) h e

theorem execMbxEvrFlush_canonical {a1 s t} (h : Canonical s.dev.flds s.dev.ctrs) (e : execMbxEvrFlush a1 s = .next t) :
    Canonical t.dev.flds t.dev.ctrs := by
  unfold execMbxEvrFlush at e; exact run_canonical (fun _ h1 => (Dev.serve_canonical h1 (fun _ _ h2 => (Dev.evrTrigger_canonical (by (try dsimp only); exact h2))))) h e

theorem execMbxChallenge_canonical {a1 s t} (h : Canonical s.dev.flds s.dev.ctrs) (e : execMbxChallenge a1 s = .next t) :
    Canonical t.dev.flds t.dev.ctrs := by
  unfold execMbxChallenge at e; exact run_canonical (fun _ h1 => (Dev.serve_canonical h1 (fun _ _ h2 => (ite_canonical (Dev.reply_canonical h2) (ite_canonical (Dev.reply_canonical h2) (by split; (· exact (Dev.reply_canonical h2)); (· exact (ite_canonical (Dev.reply_canonical h2) (Dev.reply_canonical (by (try dsimp only); exact (Dev.draw_canonical h2))))))))))) h e

theorem execMbxEvrClear_canonical {a1 s t} (h : Canonical s.dev.flds s.dev.ctrs) (e : execMbxEvrClear a1 s = .next t) :
    Canonical t.dev.flds t.dev.ctrs := by
  unfold execMbxEvrClear at e; exact run_canonical (fun _ h1 => (Dev.serve_canonical h1 (fun _ _ h2 => (by (try dsimp only); split; (· exact (Dev.reply_canonical (Dev.dropChallenge_canonical h2))); (· exact (Dev.reply_canonical (Dev.dropChallenge_canonical h2))); (· exact (ite_canonical (Dev.reply_canonical (Dev.badResponse_canonical (Dev.dropChallenge_canonical h2))) (ite_canonical (Dev.reply_canonical (Dev.dropChallenge_canonical h2)) (by (try dsimp only); exact (Dev.set0_canonical (Dev.count_canonical (Dev.evrWriteAll_canonical (Dev.record_canonical (Dev.evrWriteAll_canonical (Dev.dropChallenge_canonical h2)))))))))))))) h e

theorem execMbxGetIdKey_canonical {a1 s t} (h : Canonical s.dev.flds s.dev.ctrs) (e : execMbxGetIdKey a1 s = .next t) :
    Canonical t.dev.flds t.dev.ctrs := by
  unfold execMbxGetIdKey at e; exact run_canonical (fun _ h1 => (Dev.serve_canonical h1 (fun _ _ h2 => (Dev.reply_canonical h2)))) h e

theorem execMbxAttest_canonical {a1 s t} (h : Canonical s.dev.flds s.dev.ctrs) (e : execMbxAttest a1 s = .next t) :
    Canonical t.dev.flds t.dev.ctrs := by
  unfold execMbxAttest at e; exact run_canonical (fun _ h1 => (Dev.serve_canonical h1 (fun _ _ h2 => (Dev.reply_canonical (Dev.record_canonical h2))))) h e

theorem execMbxFuseOwnerKey_canonical {a1 a2 s t} (h : Canonical s.dev.flds s.dev.ctrs) (e : execMbxFuseOwnerKey a1 a2 s = .next t) :
    Canonical t.dev.flds t.dev.ctrs := by
  unfold execMbxFuseOwnerKey at e; exact run_canonical (fun _ h1 => (Dev.serve_canonical h1 (fun _ _ h2 => (ite_canonical (Dev.reply_canonical h2) (ite_canonical (Dev.reply_canonical h2) (ite_canonical (Dev.reply_canonical h2) (ite_canonical (Dev.reply_canonical h2) (ite_canonical (Dev.reply_canonical (Dev.autumn_canonical (by (try dsimp only); exact h2))) (Dev.reply_canonical (Dev.record_canonical (foldl_canonical (fun _ _ h3 => (Dev.set1_canonical h3)) (Dev.set0_canonical (by (try dsimp only); exact h2))))))))))))) h e

theorem execMbxUnknownOpcode_canonical {a1 s t} (h : Canonical s.dev.flds s.dev.ctrs) (e : execMbxUnknownOpcode a1 s = .next t) :
    Canonical t.dev.flds t.dev.ctrs := by
  unfold execMbxUnknownOpcode at e; exact run_canonical (fun _ h1 => (Dev.serve_canonical h1 (fun _ _ h2 => (Dev.reply_canonical h2)))) h e

theorem Dev.hostAnswer_canonical {a1 a2 a3 a4} (ha1 : Canonical a1.flds a1.ctrs) :
    Canonical (Dev.hostAnswer a1 a2 a3 a4).flds (Dev.hostAnswer a1 a2 a3 a4).ctrs := by
  unfold Dev.hostAnswer; exact (ite_canonical (ite_canonical (Dev.renewAck_canonical (Dev.witAnswered_canonical ha1)) (ite_canonical (Dev.granted_canonical (Dev.witAnswered_canonical ha1)) (Dev.witAnswered_canonical ha1))) (ite_canonical (Dev.refusedBy_canonical (Dev.witAnswered_canonical ha1)) (Dev.witAnswered_canonical ha1)))

theorem execMbxWitnessReply_canonical {s t} (h : Canonical s.dev.flds s.dev.ctrs) (e : execMbxWitnessReply s = .next t) :
    Canonical t.dev.flds t.dev.ctrs := by
  unfold execMbxWitnessReply at e; exact run_canonical (fun _ h1 => (by (try dsimp only); split; (· exact h1); (· exact (ite_canonical h1 (by (try dsimp only); split; (· exact (Dev.mbxViolation_canonical (Dev.count_canonical (by (try dsimp only); exact h1)))); (· exact (ite_canonical (Dev.count_canonical (by (try dsimp only); exact (by (try dsimp only); exact h1))) (Dev.hostAnswer_canonical (by (try dsimp only); exact (by (try dsimp only); exact h1)))))))))) h e

theorem execChallengeExpire_canonical {a1 a2 s t} (h : Canonical s.dev.flds s.dev.ctrs) (e : execChallengeExpire a1 a2 s = .next t) :
    Canonical t.dev.flds t.dev.ctrs := by
  unfold execChallengeExpire at e; exact run_canonical (fun _ h1 => (ite_canonical h1 (Dev.dropChallenge_canonical h1))) h e

theorem execCredHoldoffEnd_canonical {s t} (h : Canonical s.dev.flds s.dev.ctrs) (e : execCredHoldoffEnd s = .next t) :
    Canonical t.dev.flds t.dev.ctrs := by
  unfold execCredHoldoffEnd at e; exact run_canonical (fun _ h1 => (ite_canonical (Dev.set0_canonical (by (try dsimp only); exact h1)) h1)) h e

theorem Dev.ringH2f_canonical {a1 a2 a3 a4} (ha1 : Canonical a1.flds a1.ctrs) :
    Canonical (Dev.ringH2f a1 a2 a3 a4).flds (Dev.ringH2f a1 a2 a3 a4).ctrs := by
  unfold Dev.ringH2f; exact (ite_canonical (ite_canonical ha1 (Dev.mbxViolation_canonical (Dev.count_canonical ha1))) (foldl_canonical (fun _ _ h1 => (ite_canonical (Dev.setBit_canonical h1) h1)) (ite_canonical ha1 (Dev.mbxViolation_canonical (Dev.count_canonical ha1)))))

theorem execDoorbellEvrFlush_canonical {s t} (h : Canonical s.dev.flds s.dev.ctrs) (e : execDoorbellEvrFlush s = .next t) :
    Canonical t.dev.flds t.dev.ctrs := by
  unfold execDoorbellEvrFlush at e; exact run_canonical (fun _ h1 => (ite_canonical (Dev.evrTrigger_canonical (Dev.setBit_canonical h1)) h1)) h e

theorem execDoorbellHostAlive_canonical {s t} (h : Canonical s.dev.flds s.dev.ctrs) (e : execDoorbellHostAlive s = .next t) :
    Canonical t.dev.flds t.dev.ctrs := by
  unfold execDoorbellHostAlive at e; exact run_canonical (fun _ h1 => (ite_canonical (Dev.doorbell_canonical (Dev.setBit_canonical h1)) h1)) h e

theorem Dev.lockRead_canonical {a1 a2 a3} (ha1 : Canonical a1.flds a1.ctrs) :
    Canonical (Dev.lockRead a1 a2 a3).2.flds (Dev.lockRead a1 a2 a3).2.ctrs := by
  unfold Dev.lockRead; exact (snd_ite_canonical (by (try dsimp only); exact ha1) (snd_ite_canonical (by (try dsimp only); exact (Dev.set1_canonical ha1)) (by (try dsimp only); exact ha1)))

theorem execLockAcquireRead_canonical {a1 a2 s t} (h : Canonical s.dev.flds s.dev.ctrs) (e : execLockAcquireRead a1 a2 s = .next t) :
    Canonical t.dev.flds t.dev.ctrs := by
  unfold execLockAcquireRead at e; exact run_canonical (fun _ h1 => (Dev.gateRead_canonical h1 (fun _ h2 => (Dev.lockRead_canonical h2)))) h e

theorem Dev.lockWrite_canonical {a1 a2 a3 a4} (ha1 : Canonical a1.flds a1.ctrs) :
    Canonical (Dev.lockWrite a1 a2 a3 a4).flds (Dev.lockWrite a1 a2 a3 a4).ctrs := by
  unfold Dev.lockWrite; exact (ite_canonical (Dev.set1_canonical ha1) (Dev.recordLimited_canonical (Dev.satInc_canonical ha1)))

theorem execLockReleaseWrite_canonical {a1 a2 a3 s t} (h : Canonical s.dev.flds s.dev.ctrs) (e : execLockReleaseWrite a1 a2 a3 s = .next t) :
    Canonical t.dev.flds t.dev.ctrs := by
  unfold execLockReleaseWrite at e; exact run_canonical (fun _ h1 => (Dev.onWrite_canonical h1 (fun _ h2 => (Dev.lockWrite_canonical h2)))) h e

/-! ### `Pcie` -/

theorem Dev.ringAdvance_canonical {a1 a2 a3} (ha1 : Canonical a1.flds a1.ctrs) :
    Canonical (Dev.ringAdvance a1 a2 a3).flds (Dev.ringAdvance a1 a2 a3).ctrs := by
  unfold Dev.ringAdvance; exact (Dev.set1_canonical ha1)

theorem Dev.ringStop_canonical {a1 a2 a3 a4} (ha1 : Canonical a1.flds a1.ctrs) :
    Canonical (Dev.ringStop a1 a2 a3 a4).flds (Dev.ringStop a1 a2 a3 a4).ctrs := by
  unfold Dev.ringStop; exact (Dev.set1_canonical (Dev.set1_canonical (Dev.set1_canonical (Dev.set1_canonical ha1))))

theorem Dev.ringHalt_canonical {a1 a2 a3 a4} (ha1 : Canonical a1.flds a1.ctrs) :
    Canonical (Dev.ringHalt a1 a2 a3 a4).flds (Dev.ringHalt a1 a2 a3 a4).ctrs := by
  unfold Dev.ringHalt; exact (Dev.raise_canonical (Dev.record_canonical (Dev.count_canonical (Dev.ringStop_canonical ha1))))

theorem Dev.writeBack_canonical {a1 a2 a3 a4 a5 a6} (ha1 : Canonical a1.flds a1.ctrs) :
    Canonical (Dev.writeBack a1 a2 a3 a4 a5 a6).flds (Dev.writeBack a1 a2 a3 a4 a5 a6).ctrs := by
  unfold Dev.writeBack; exact (Dev.emit_canonical ha1)

theorem Dev.setRingMod_canonical {a1 a2 a3} (ha1 : Canonical a1.flds a1.ctrs) :
    Canonical (Dev.setRingMod a1 a2 a3).flds (Dev.setRingMod a1 a2 a3).ctrs := by
  unfold Dev.setRingMod; exact (by (try dsimp only); exact ha1)

theorem Dev.ringSignal_canonical {a1 a2} (ha1 : Canonical a1.flds a1.ctrs) :
    Canonical (Dev.ringSignal a1 a2).flds (Dev.ringSignal a1 a2).ctrs := by
  unfold Dev.ringSignal; exact (Dev.setRingMod_canonical (Dev.msix_canonical ha1))

theorem Dev.ringIntr_canonical {a1 a2} (ha1 : Canonical a1.flds a1.ctrs) :
    Canonical (Dev.ringIntr a1 a2).flds (Dev.ringIntr a1 a2).ctrs := by
  unfold Dev.ringIntr; exact (ite_canonical (Dev.ringSignal_canonical ha1) (Dev.setRingMod_canonical ha1))

theorem execMsixModerationTimer_canonical {a1 s t} (h : Canonical s.dev.flds s.dev.ctrs) (e : execMsixModerationTimer a1 s = .next t) :
    Canonical t.dev.flds t.dev.ctrs := by
  unfold execMsixModerationTimer at e; exact run_canonical (fun _ h1 => (by split; (· exact (ite_canonical (Dev.ringSignal_canonical h1) h1)); (· exact h1))) h e

theorem Dev.ringTail_canonical {a1 a2 a3} (ha1 : Canonical a1.flds a1.ctrs) :
    Canonical (Dev.ringTail a1 a2 a3).flds (Dev.ringTail a1 a2 a3).ctrs := by
  unfold Dev.ringTail; exact (ite_canonical (by (try dsimp only); exact ha1) (ite_canonical (Dev.ringHalt_canonical ha1) (Dev.set1_canonical ha1)))

theorem Dev.ringStored_canonical {a1 a2} (ha1 : Canonical a1.flds a1.ctrs) :
    Canonical (Dev.ringStored a1 a2).flds (Dev.ringStored a1 a2).ctrs := by
  unfold Dev.ringStored; exact (by split; (· exact (Dev.ringTail_canonical (by (try dsimp only); exact ha1))); (· exact ha1))

theorem execRingDoorbell_canonical {a1 a2 s t} (h : Canonical s.dev.flds s.dev.ctrs) (e : execRingDoorbell a1 a2 s = .next t) :
    Canonical t.dev.flds t.dev.ctrs := by
  unfold execRingDoorbell at e; exact run_canonical (fun _ h1 => (ite_canonical h1 (Dev.ringTail_canonical h1))) h e

theorem Dev.ringRestart_canonical {a1 a2} (ha1 : Canonical a1.flds a1.ctrs) :
    Canonical (Dev.ringRestart a1 a2).flds (Dev.ringRestart a1 a2).ctrs := by
  unfold Dev.ringRestart; exact (ite_canonical ha1 (ite_canonical (Dev.ringStored_canonical (Dev.set1_canonical (Dev.set1_canonical (ite_canonical ha1 (Dev.set1_canonical ha1))))) (Dev.set1_canonical (Dev.set1_canonical (ite_canonical ha1 (Dev.set1_canonical ha1))))))

theorem Dev.ringCtrl_canonical {a1 a2 a3 a4 a5} (ha1 : Canonical a1.flds a1.ctrs) :
    Canonical (Dev.ringCtrl a1 a2 a3 a4 a5).flds (Dev.ringCtrl a1 a2 a3 a4 a5).ctrs := by
  unfold Dev.ringCtrl; exact (ite_canonical ha1 (ite_canonical (Dev.ringStored_canonical (ite_canonical (Dev.ringRestart_canonical (Dev.set1_canonical (Dev.set1_canonical (Dev.set1_canonical ha1)))) (Dev.set1_canonical (Dev.set1_canonical (Dev.set1_canonical ha1))))) (ite_canonical (Dev.ringRestart_canonical (Dev.set1_canonical (Dev.set1_canonical (Dev.set1_canonical ha1)))) (Dev.set1_canonical (Dev.set1_canonical (Dev.set1_canonical ha1))))))

theorem execRingEnable_canonical {a1 a2 a3 a4 s t} (h : Canonical s.dev.flds s.dev.ctrs) (e : execRingEnable a1 a2 a3 a4 s = .next t) :
    Canonical t.dev.flds t.dev.ctrs := by
  unfold execRingEnable at e; exact run_canonical (fun _ h1 => (Dev.onWrite_canonical h1 (fun _ h2 => (Dev.ringCtrl_canonical h2)))) h e

theorem execRingRestart_canonical {a1 a2 s t} (h : Canonical s.dev.flds s.dev.ctrs) (e : execRingRestart a1 a2 s = .next t) :
    Canonical t.dev.flds t.dev.ctrs := by
  unfold execRingRestart at e; exact run_canonical (fun _ h1 => (Dev.onWrite_canonical h1 (fun _ h2 => (Dev.ringRestart_canonical h2)))) h e

theorem Dev.ringSetup_canonical {a1 a2 a3 a4} (ha1 : Canonical a1.flds a1.ctrs) :
    Canonical (Dev.ringSetup a1 a2 a3 a4).flds (Dev.ringSetup a1 a2 a3 a4).ctrs := by
  unfold Dev.ringSetup; exact (ite_canonical ha1 (ite_canonical ha1 (Dev.set1_canonical ha1)))

theorem Dev.txDone_canonical {a1 a2 a3 a4} (ha1 : Canonical a1.flds a1.ctrs) :
    Canonical (Dev.txDone a1 a2 a3 a4).flds (Dev.txDone a1 a2 a3 a4).ctrs := by
  unfold Dev.txDone; exact (Dev.ringAdvance_canonical (foldl_canonical (fun _ _ h1 => (ite_canonical (Dev.ringIntr_canonical (Dev.writeBack_canonical h1)) (Dev.writeBack_canonical h1))) ha1))

theorem Dev.inject_canonical {a1 a2 a3 a4 a5} (ha1 : Canonical a1.flds a1.ctrs) :
    Canonical (Dev.inject a1 a2 a3 a4 a5).flds (Dev.inject a1 a2 a3 a4 a5).ctrs := by
  unfold Dev.inject; exact (ite_canonical (Dev.reloadDiscard_canonical ha1) (ite_canonical (Dev.perf_canonical (Dev.notePeak_canonical (Dev.setRx_canonical (by (try dsimp only); exact ha1)))) (Dev.perf_canonical (Dev.perf_canonical (Dev.notePeak_canonical (Dev.setRx_canonical (by (try dsimp only); exact ha1)))))))

theorem Dev.linkDirect_canonical {a1 a2 a3 a4 a5 a6} (ha1 : Canonical a1.flds a1.ctrs) :
    Canonical (Dev.linkDirect a1 a2 a3 a4 a5 a6).flds (Dev.linkDirect a1 a2 a3 a4 a5 a6).ctrs := by
  unfold Dev.linkDirect; exact (ite_canonical (ite_canonical (Dev.count_canonical (Dev.perf_canonical (Dev.perf_canonical (Dev.count_canonical ha1)))) (Dev.count_canonical (Dev.perf_canonical (Dev.perf_canonical (Dev.count_canonical ha1))))) (Dev.link_canonical (Dev.perf_canonical (Dev.newChain_canonical ha1))))

theorem execPf1TxFrame_canonical {a1 a2 a3 s t} (h : Canonical s.dev.flds s.dev.ctrs) (e : execPf1TxFrame a1 a2 a3 s = .next t) :
    Canonical t.dev.flds t.dev.ctrs := by
  unfold execPf1TxFrame at e; exact run_canonical (fun _ h1 => (ite_canonical h1 (by split; (· exact (Dev.ringHalt_canonical (Dev.writeBack_canonical h1))); (· exact (ite_canonical h1 (ite_canonical (Dev.txDone_canonical (Dev.count_canonical (by (try dsimp only); exact h1))) (Dev.txDone_canonical (ite_canonical (Dev.linkDirect_canonical (Dev.countN_canonical (Dev.count_canonical (by (try dsimp only); exact h1)))) (Dev.inject_canonical (Dev.countN_canonical (Dev.count_canonical (by (try dsimp only); exact h1)))))))))))) h e

theorem Dev.hostFrameGone_canonical {a1 a2} (ha1 : Canonical a1.flds a1.ctrs) :
    Canonical (Dev.hostFrameGone a1 a2).flds (Dev.hostFrameGone a1 a2).ctrs := by
  unfold Dev.hostFrameGone; exact (Dev.release_canonical (by (try dsimp only); exact ha1))

theorem Dev.rxWrite_canonical {a1 a2 a3 a4 a5 a6} (ha1 : Canonical a1.flds a1.ctrs) :
    Canonical (Dev.rxWrite a1 a2 a3 a4 a5 a6).flds (Dev.rxWrite a1 a2 a3 a4 a5 a6).ctrs := by
  unfold Dev.rxWrite; exact (Dev.ringAdvance_canonical (fst_foldl_canonical (fun _ _ h1 => (by (try dsimp only); exact (Dev.emit_canonical (Dev.emit_canonical h1)))) (by (try dsimp only); exact ha1)))

theorem Dev.rxDeliver_canonical {a1 a2 a3 a4} (ha1 : Canonical a1.flds a1.ctrs) :
    Canonical (Dev.rxDeliver a1 a2 a3 a4).flds (Dev.rxDeliver a1 a2 a3 a4).ctrs := by
  unfold Dev.rxDeliver; exact (ite_canonical (Dev.count_canonical ha1) (by split; (· exact (Dev.count_canonical ha1)); (· exact (by split; (· exact (Dev.ringHalt_canonical (Dev.writeBack_canonical (Dev.count_canonical ha1)))); (· exact (Dev.countN_canonical (Dev.count_canonical (Dev.rxWrite_canonical ha1))))))))

theorem execPf1RxDeliver_canonical {a1 a2 s t} (h : Canonical s.dev.flds s.dev.ctrs) (e : execPf1RxDeliver a1 a2 s = .next t) :
    Canonical t.dev.flds t.dev.ctrs := by
  unfold execPf1RxDeliver at e; exact run_canonical (fun _ h1 => (by split; (· exact h1); (· exact (ite_canonical h1 (by split; (· exact h1); (· exact (Dev.giveBack_canonical (by (try dsimp only); exact (ite_canonical (Dev.rxDeliver_canonical (Dev.readCells_canonical h1)) (Dev.readCells_canonical h1)))))))))) h e

theorem Dev.readRowList_canonical {reads l} {d : Dev} (h : Canonical d.flds d.ctrs) :
    Canonical (Dev.readRowList reads l d).1.flds (Dev.readRowList reads l d).1.ctrs := by
  induction l generalizing d with
  | nil => exact h
  | cons x rest ih =>
    simp only [Dev.readRowList]
    exact ih (ite_canonical (Dev.stripeLost_canonical (Dev.readStripe_canonical h)) (Dev.readStripe_canonical h))

theorem execPf2Read_canonical {a1 a2 a3 a4 s t} (h : Canonical s.dev.flds s.dev.ctrs) (e : execPf2Read a1 a2 a3 a4 s = .next t) :
    Canonical t.dev.flds t.dev.ctrs := by
  unfold execPf2Read at e; exact run_canonical (fun _ h1 => (ite_canonical h1 (ite_canonical (Dev.ringHalt_canonical (Dev.writeBack_canonical h1)) (by (try dsimp only); exact (Dev.ringAdvance_canonical (ite_canonical (Dev.ringIntr_canonical (Dev.writeBack_canonical (Dev.emit_canonical (Dev.perf_canonical (ite_canonical (fst_ite_canonical (by (try dsimp only); exact h1) (Dev.readRowList_canonical h1)) (Dev.emit_canonical (fst_ite_canonical (by (try dsimp only); exact h1) (Dev.readRowList_canonical h1)))))))) (Dev.writeBack_canonical (Dev.emit_canonical (Dev.perf_canonical (ite_canonical (fst_ite_canonical (by (try dsimp only); exact h1) (Dev.readRowList_canonical h1)) (Dev.emit_canonical (fst_ite_canonical (by (try dsimp only); exact h1) (Dev.readRowList_canonical h1))))))))))))) h e

theorem execHostDmaError_canonical {a1 a2 s t} (h : Canonical s.dev.flds s.dev.ctrs) (e : execHostDmaError a1 a2 s = .next t) :
    Canonical t.dev.flds t.dev.ctrs := by
  unfold execHostDmaError at e; exact run_canonical (fun _ h1 => (by split; (· exact (ite_canonical h1 (Dev.count_canonical (by (try dsimp only); exact h1)))); (· exact (ite_canonical h1 (Dev.raise_canonical (Dev.record_canonical (Dev.count_canonical (by (try dsimp only); exact (Dev.ringStop_canonical (Dev.writeBack_canonical h1)))))))))) h e

theorem execHostPoisonedWrite_canonical {a1 a2 s t} (h : Canonical s.dev.flds s.dev.ctrs) (e : execHostPoisonedWrite a1 a2 s = .next t) :
    Canonical t.dev.flds t.dev.ctrs := by
  unfold execHostPoisonedWrite at e; exact run_canonical (fun _ h1 => (ite_canonical h1 (Dev.violation_canonical (by (try dsimp only); exact h1)))) h e

theorem execHostLinkUp_canonical {a1 a2 a3 s t} (h : Canonical s.dev.flds s.dev.ctrs) (e : execHostLinkUp a1 a2 a3 s = .next t) :
    Canonical t.dev.flds t.dev.ctrs := by
  unfold execHostLinkUp at e; exact run_canonical (fun _ h1 => (ite_canonical h1 (ite_canonical (Dev.record_canonical (Dev.record_canonical (Dev.set0_canonical (Dev.set0_canonical (Dev.set0_canonical (Dev.set0_canonical (by (try dsimp only); exact h1))))))) (Dev.record_canonical (Dev.set0_canonical (Dev.set0_canonical (Dev.set0_canonical (Dev.set0_canonical (by (try dsimp only); exact h1))))))))) h e

theorem execPcieD3hotEnter_canonical {a1 s t} (h : Canonical s.dev.flds s.dev.ctrs) (e : execPcieD3hotEnter a1 s = .next t) :
    Canonical t.dev.flds t.dev.ctrs := by
  unfold execPcieD3hotEnter at e; exact run_canonical (fun _ h1 => (ite_canonical h1 (ite_canonical (Dev.hostDomainDown_canonical (by (try dsimp only); exact h1)) (by (try dsimp only); exact h1)))) h e

theorem execPcieD0Return_canonical {a1 s t} (h : Canonical s.dev.flds s.dev.ctrs) (e : execPcieD0Return a1 s = .next t) :
    Canonical t.dev.flds t.dev.ctrs := by
  unfold execPcieD0Return at e; exact run_canonical (fun _ h1 => (by (try dsimp only); exact h1)) h e

theorem Dev.flushHostPort_canonical {a1} (ha1 : Canonical a1.flds a1.ctrs) :
    Canonical (Dev.flushHostPort a1).flds (Dev.flushHostPort a1).ctrs := by
  unfold Dev.flushHostPort; exact (ite_canonical ha1 (by (try dsimp only); split; (· exact (Dev.hostFrameGone_canonical (Dev.count_canonical (foldl_canonical (fun _ _ h1 => (Dev.flushQueue_canonical h1)) ha1)))); (· exact (foldl_canonical (fun _ _ h2 => (Dev.flushQueue_canonical h2)) ha1))))

theorem Dev.stopHostCapture_canonical {a1} (ha1 : Canonical a1.flds a1.ctrs) :
    Canonical (Dev.stopHostCapture a1).flds (Dev.stopHostCapture a1).ctrs := by
  unfold Dev.stopHostCapture; exact (ite_canonical (Dev.record_canonical (Dev.set0_canonical (Dev.set0_canonical ha1))) ha1)

theorem Dev.stopRings_canonical {a1 a2} (ha1 : Canonical a1.flds a1.ctrs) :
    Canonical (Dev.stopRings a1 a2).flds (Dev.stopRings a1 a2).ctrs := by
  unfold Dev.stopRings; exact (foldl_canonical (fun _ _ h1 => (ite_canonical (Dev.ringStop_canonical h1) h1)) ha1)

theorem Dev.resetMsix_canonical {a1 a2} (ha1 : Canonical a1.flds a1.ctrs) :
    Canonical (Dev.resetMsix a1 a2).flds (Dev.resetMsix a1 a2).ctrs := by
  unfold Dev.resetMsix; exact (ite_canonical (Dev.resetFlds_canonical ha1) (by (try dsimp only); exact ha1))

theorem Dev.hifUnwritten_canonical {a1} (ha1 : Canonical a1.flds a1.ctrs) :
    Canonical (Dev.hifUnwritten a1).flds (Dev.hifUnwritten a1).ctrs := by
  unfold Dev.hifUnwritten; exact (by (try dsimp only); exact (Dev.resetFlds_canonical ha1))

theorem execHostFlr_canonical {a1 s t} (h : Canonical s.dev.flds s.dev.ctrs) (e : execHostFlr a1 s = .next t) :
    Canonical t.dev.flds t.dev.ctrs := by
  unfold execHostFlr at e; exact run_canonical (fun _ h1 => (ite_canonical h1 (Dev.record_canonical (Dev.count_canonical (by split; (· exact (Dev.hostDomainDown_canonical (Dev.hifUnwritten_canonical (Dev.resetFlds_canonical (Dev.releaseLocks_canonical (Dev.resetMsix_canonical (by (try dsimp only); exact h1))))))); (· exact (Dev.resetRings_canonical (Dev.flushHostPort_canonical (Dev.resetMsix_canonical (by (try dsimp only); exact h1))))); (· exact (Dev.resetRings_canonical (Dev.stopHostCapture_canonical (Dev.resetMsix_canonical (by (try dsimp only); exact h1))))); (· exact (Dev.resetMsix_canonical (by (try dsimp only); exact h1)))))))) h e

theorem Dev.hostLost_canonical {a1} (ha1 : Canonical a1.flds a1.ctrs) :
    Canonical (Dev.hostLost a1).flds (Dev.hostLost a1).ctrs := by
  unfold Dev.hostLost; exact (ite_canonical ha1 (ite_canonical (Dev.set0_canonical (Dev.set0_canonical (Dev.set0_canonical (Dev.set0_canonical (Dev.hostDomainDown_canonical (foldl_canonical (fun _ _ h1 => (Dev.releaseLocks_canonical h1)) (Dev.stopHostCapture_canonical (Dev.stopRings_canonical (Dev.flushHostPort_canonical (by (try dsimp only); exact ha1)))))))))) (Dev.set0_canonical (Dev.hostDomainDown_canonical (foldl_canonical (fun _ _ h2 => (Dev.releaseLocks_canonical h2)) (Dev.stopHostCapture_canonical (Dev.stopRings_canonical (Dev.flushHostPort_canonical (by (try dsimp only); exact ha1)))))))))

theorem execHostLostPerst_canonical {s t} (h : Canonical s.dev.flds s.dev.ctrs) (e : execHostLostPerst s = .next t) :
    Canonical t.dev.flds t.dev.ctrs := by
  unfold execHostLostPerst at e; exact run_canonical (fun _ h1 => (ite_canonical h1 (by (try dsimp only); exact (Dev.hifUnwritten_canonical (Dev.resetFlds_canonical (Dev.resetRings_canonical (foldl_canonical (fun _ _ h2 => (Dev.resetMsix_canonical h2)) (Dev.hostLost_canonical (Dev.record_canonical (by (try dsimp only); exact h1)))))))))) h e

theorem execHostLinkLost_canonical {s t} (h : Canonical s.dev.flds s.dev.ctrs) (e : execHostLinkLost s = .next t) :
    Canonical t.dev.flds t.dev.ctrs := by
  unfold execHostLinkLost at e; exact run_canonical (fun _ h1 => (ite_canonical h1 (Dev.hostLost_canonical (Dev.record_canonical h1)))) h e

theorem Dev.pendClear_canonical {a1 a2 a3} (ha1 : Canonical a1.flds a1.ctrs) :
    Canonical (Dev.pendClear a1 a2 a3).flds (Dev.pendClear a1 a2 a3).ctrs := by
  unfold Dev.pendClear; exact (foldl_canonical (fun _ _ h1 => (ite_canonical (Dev.setBit_canonical h1) h1)) ha1)

theorem execIntPendClear_canonical {a1 a2 a3 s t} (h : Canonical s.dev.flds s.dev.ctrs) (e : execIntPendClear a1 a2 a3 s = .next t) :
    Canonical t.dev.flds t.dev.ctrs := by
  unfold execIntPendClear at e; exact run_canonical (fun _ h1 => (Dev.onWrite_canonical h1 (fun _ h2 => (Dev.pendClear_canonical h2)))) h e

theorem Dev.maskWrite_canonical {a1 a2 a3} (ha1 : Canonical a1.flds a1.ctrs) :
    Canonical (Dev.maskWrite a1 a2 a3).flds (Dev.maskWrite a1 a2 a3).ctrs := by
  unfold Dev.maskWrite; exact (foldl_canonical (fun _ _ h1 => (Dev.msix_canonical h1)) (Dev.set1_canonical ha1))

theorem execIntMaskWrite_canonical {a1 a2 a3 s t} (h : Canonical s.dev.flds s.dev.ctrs) (e : execIntMaskWrite a1 a2 a3 s = .next t) :
    Canonical t.dev.flds t.dev.ctrs := by
  unfold execIntMaskWrite at e; exact run_canonical (fun _ h1 => (Dev.onWrite_canonical h1 (fun _ h2 => (Dev.maskWrite_canonical h2)))) h e

theorem Dev.msixWrite_canonical {a1 a2 a3 a4 a5} (ha1 : Canonical a1.flds a1.ctrs) :
    Canonical (Dev.msixWrite a1 a2 a3 a4 a5).flds (Dev.msixWrite a1 a2 a3 a4 a5).ctrs := by
  unfold Dev.msixWrite; exact (ite_canonical (ite_canonical (Dev.msix_canonical (Dev.setBit_canonical (Dev.setFld_canonical ha1))) (Dev.setFld_canonical ha1)) (ite_canonical (Dev.msix_canonical (by (try dsimp only); exact (by (try dsimp only); exact ha1))) (by (try dsimp only); exact ha1)))

/-! ### `Views` -/

theorem Dev.latchAt_canonical {a1 a2 a3 a4} (ha1 : Canonical a1.flds a1.ctrs) :
    Canonical (Dev.latchAt a1 a2 a3 a4).flds (Dev.latchAt a1 a2 a3 a4).ctrs := by
  unfold Dev.latchAt; exact (by (try dsimp only); exact ha1)

theorem Dev.latchTime_canonical {a1 a2} (ha1 : Canonical a1.flds a1.ctrs) :
    Canonical (Dev.latchTime a1 a2).flds (Dev.latchTime a1 a2).ctrs := by
  unfold Dev.latchTime; exact (Dev.latch_canonical (Dev.latch_canonical (Dev.latch_canonical (Dev.latch_canonical (Dev.latch_canonical ha1)))))

theorem Dev.readReg_canonical {a1 a2 a3 a4 a5} (ha1 : Canonical a1.flds a1.ctrs) :
    Canonical (Dev.readReg a1 a2 a3 a4 a5).2.flds (Dev.readReg a1 a2 a3 a4 a5).2.ctrs := by
  unfold Dev.readReg; exact (by split; (· exact (by (try dsimp only); exact (Dev.latchAt_canonical ha1))); (· exact (snd_ite_canonical (by (try dsimp only); exact ha1) (by split; (· exact (by (try dsimp only); exact (Dev.latchTime_canonical ha1))); (· exact (Dev.popTxts_canonical ha1)); (· exact (Dev.popCap_canonical ha1)); (· exact (Dev.lockRead_canonical ha1)); (· exact (Dev.indDataRead_canonical ha1)); (· exact (by (try dsimp only); exact ha1))))))

/-! ### `RegWrite` -/

theorem Dev.putFields_canonical {a1 a2 a3 a4 a5} (ha1 : Canonical a1.flds a1.ctrs) :
    Canonical (Dev.putFields a1 a2 a3 a4 a5).flds (Dev.putFields a1 a2 a3 a4 a5).ctrs := by
  unfold Dev.putFields; exact (foldl_canonical (fun _ _ h1 => (Dev.setFld_canonical h1)) ha1)

theorem Dev.plainWrite_canonical {a1 a2 a3 a4 a5} (ha1 : Canonical a1.flds a1.ctrs) :
    Canonical (Dev.plainWrite a1 a2 a3 a4 a5).flds (Dev.plainWrite a1 a2 a3 a4 a5).ctrs := by
  unfold Dev.plainWrite; exact (ite_canonical (Dev.putFields_canonical ha1) ha1)

theorem Dev.pwRegister_canonical {a1 a2 a3 a4 a5 a6} (ha1 : Canonical a1.flds a1.ctrs) (ha6 : ∀ x1, Canonical x1.flds x1.ctrs → Canonical (a6 x1).flds (a6 x1).ctrs) :
    Canonical (Dev.pwRegister a1 a2 a3 a4 a5 a6).flds (Dev.pwRegister a1 a2 a3 a4 a5 a6).ctrs := by
  unfold Dev.pwRegister; exact (ite_canonical (Dev.accessFailed_canonical ha1) (ite_canonical (ha6 _ (foldl_canonical (fun _ _ h1 => (ite_canonical (Dev.set0_canonical h1) h1)) ha1)) (foldl_canonical (fun _ _ h2 => (ite_canonical (Dev.set0_canonical h2) h2)) ha1)))

theorem Dev.clearOf_canonical {a1 a2 a3} (ha1 : Canonical a1.flds a1.ctrs) :
    Canonical (Dev.clearOf a1 a2 a3).flds (Dev.clearOf a1 a2 a3).ctrs := by
  unfold Dev.clearOf; exact (by split; (· exact (Dev.set1_canonical (Dev.set1_canonical (Dev.set1_canonical ha1)))); (· exact (Dev.clearCtrs_canonical ha1)); (· exact (Dev.set1_canonical (Dev.set1_canonical (Dev.set1_canonical (Dev.set1_canonical ha1))))); (· exact (Dev.set1_canonical (Dev.set1_canonical ha1))); (· exact (Dev.clearCtrs_canonical (Dev.clearCtrs_canonical ha1))); (· exact (Dev.clearBlock_canonical (Dev.clearBlock_canonical ha1))); (· exact (Dev.clearBlock_canonical (Dev.clearBlock_canonical ha1))); (· exact (Dev.clearCtrs_canonical ha1)); (· exact (Dev.clearBlock_canonical (Dev.clearBlock_canonical ha1))); (· exact (Dev.clearCtrs_canonical ha1)); (· exact (Dev.clearBlock_canonical (Dev.clearBlock_canonical ha1))); (· exact (Dev.clearBlock_canonical ha1)); (· exact (Dev.clearCtrs_canonical (Dev.clearCtrs_canonical ha1))); (· exact (Dev.clearBlock_canonical (Dev.clearBlock_canonical ha1))); (· exact (Dev.clearBlock_canonical ha1)); (· exact (by (try dsimp only); exact (Dev.clearBlock_canonical ha1))); (· exact (Dev.clearBlock_canonical ha1)); (· exact (Dev.clearBlock_canonical ha1)); (· exact (Dev.clearBlock_canonical ha1)); (· exact ha1))

theorem Dev.clearBy_canonical {a1 a2 a3 a4} (ha1 : Canonical a1.flds a1.ctrs) :
    Canonical (Dev.clearBy a1 a2 a3 a4).flds (Dev.clearBy a1 a2 a3 a4).ctrs := by
  unfold Dev.clearBy; exact (ite_canonical (Dev.clearOf_canonical ha1) ha1)

theorem Dev.writeBoot_canonical {a1 a2 a3 a4 a5} (ha1 : Canonical a1.flds a1.ctrs) :
    ∀ e, (Dev.writeBoot a1 a2 a3 a4 a5) = some e → Canonical e.flds e.ctrs := by
  unfold Dev.writeBoot; exact (by split; (· exact (some_canonical (Dev.pwRegister_canonical ha1 (fun _ h1 => (Dev.writeClkDiv_canonical h1))))); (· exact (some_canonical (Dev.clkRstCmd_canonical ha1))); (· exact (some_canonical (ite_canonical (Dev.fwLoadGo_canonical ha1) ha1))); (· exact (some_canonical (ite_canonical (ite_canonical (Dev.set0_canonical ha1) (Dev.plainWrite_canonical ha1)) (ite_canonical (Dev.imgGo_canonical ha1 (fun _ h2 => h2)) (by split; (· exact (Dev.imgLoadSlot_canonical ha1)); (· exact (Dev.imgMarkTrial_canonical ha1)); (· exact (Dev.imgReload_canonical ha1)); (· exact (Dev.imgAmend_canonical ha1)); (· exact (Dev.imgEraseSlot_canonical ha1)); (· exact (Dev.imgVerifySlot_canonical ha1)); (· exact (Dev.imgLoadAndCommit_canonical ha1)); (· exact (Dev.imgGo_canonical ha1 (fun _ h3 => h3)))))))); (· exact none_canonical))

theorem Dev.writePort_canonical {a1 a2 a3 a4 a5} (ha1 : Canonical a1.flds a1.ctrs) :
    ∀ e, (Dev.writePort a1 a2 a3 a4 a5) = some e → Canonical e.flds e.ctrs := by
  unfold Dev.writePort; exact (by split; (· exact (some_canonical (ite_canonical ha1 (Dev.clearBy_canonical (ite_canonical (Dev.set1_canonical (Dev.putFields_canonical ha1)) (Dev.writePortEn_canonical (Dev.set1_canonical (Dev.putFields_canonical ha1)))))))); (· exact (some_canonical (ite_canonical (Dev.startNext_canonical (Dev.refreshPaused_canonical (Dev.putFields_canonical ha1))) ha1))); (· exact (some_canonical (ite_canonical (Dev.startNext_canonical (Dev.putFields_canonical ha1)) ha1))); (· exact (some_canonical (ite_canonical (Dev.putFields_canonical ha1) ha1))); (· exact (some_canonical (ite_canonical (Dev.clearHalf_canonical ha1) ha1))); (· exact (some_canonical (Dev.writeShadowCtrl_canonical ha1))); (· exact none_canonical))

theorem Dev.regionRing_canonical {a1 a2 a3 a4 a5} (ha1 : Canonical a1.flds a1.ctrs) :
    Canonical (Dev.regionRing a1 a2 a3 a4 a5).flds (Dev.regionRing a1 a2 a3 a4 a5).ctrs := by
  unfold Dev.regionRing; exact (ite_canonical ha1 (ite_canonical ha1 (Dev.putFields_canonical ha1)))

theorem Dev.regionRingCtrl_canonical {a1 a2 a3 a4 a5 a6 a7} (ha1 : Canonical a1.flds a1.ctrs) (ha7 : ∀ x1, Canonical x1.flds x1.ctrs → Canonical (a7 x1).flds (a7 x1).ctrs) :
    Canonical (Dev.regionRingCtrl a1 a2 a3 a4 a5 a6 a7).flds (Dev.regionRingCtrl a1 a2 a3 a4 a5 a6 a7).ctrs := by
  unfold Dev.regionRingCtrl; exact (ite_canonical (ha7 _ (Dev.set1_canonical (Dev.set1_canonical ha1))) (Dev.set1_canonical (Dev.set1_canonical ha1)))

theorem Dev.writeRegion_canonical {a1 a2 a3 a4} (ha1 : Canonical a1.flds a1.ctrs) :
    ∀ e, (Dev.writeRegion a1 a2 a3 a4) = some e → Canonical e.flds e.ctrs := by
  unfold Dev.writeRegion; exact (by split; (· exact (some_canonical (ite_canonical (Dev.clearLastErr_canonical (Dev.clearBy_canonical ha1)) (Dev.clearBy_canonical ha1)))); (· exact (some_canonical (ite_canonical (Dev.set0_canonical (Dev.set0_canonical (Dev.set0_canonical (Dev.clearBy_canonical ha1)))) (Dev.clearBy_canonical ha1)))); (· exact (some_canonical (Dev.regionRing_canonical ha1))); (· exact (some_canonical (Dev.regionRing_canonical ha1))); (· exact (some_canonical (Dev.regionRing_canonical ha1))); (· exact (some_canonical (Dev.regionRingCtrl_canonical ha1 (fun _ h1 => (Dev.tblRestart_canonical h1))))); (· exact (some_canonical (ite_canonical (foldl_canonical (fun _ _ h2 => (Dev.set1_canonical h2)) (Dev.clearBy_canonical ha1)) (Dev.clearBy_canonical ha1)))); (· exact (some_canonical (Dev.regionRing_canonical ha1))); (· exact (some_canonical (Dev.regionRing_canonical ha1))); (· exact (some_canonical (Dev.regionRing_canonical ha1))); (· exact (some_canonical (Dev.regionRingCtrl_canonical ha1 (fun _ h3 => (Dev.tcmRestart_canonical h3))))); (· exact (some_canonical (ite_canonical (Dev.putFields_canonical ha1) ha1))); (· exact (some_canonical (ite_canonical ha1 (Dev.putFields_canonical ha1)))); (· exact (opt_ite_canonical (some_canonical ha1) none_canonical)); (· exact (opt_ite_canonical (some_canonical ha1) none_canonical)); (· exact none_canonical))

theorem Dev.writeBuffer_canonical {a1 a2 a3 a4 a5} (ha1 : Canonical a1.flds a1.ctrs) :
    ∀ e, (Dev.writeBuffer a1 a2 a3 a4 a5) = some e → Canonical e.flds e.ctrs := by
  unfold Dev.writeBuffer; exact (by split; (· exact (some_canonical (ite_canonical (Dev.set0_canonical (Dev.clearBy_canonical ha1)) (Dev.clearBy_canonical ha1)))); (· exact (some_canonical (Dev.writeReserve_canonical ha1))); (· exact (some_canonical (ite_canonical (Dev.clearBy_canonical (Dev.putFields_canonical ha1)) (Dev.clearBy_canonical ha1)))); (· exact (some_canonical (ite_canonical ha1 (by (try dsimp only); exact (Dev.putFields_canonical ha1))))); (· exact (some_canonical (ite_canonical ha1 (by (try dsimp only); exact (Dev.putFields_canonical ha1))))); (· exact (some_canonical (ite_canonical ha1 (Dev.floorWrite_canonical ha1 (fun _ h1 => (Dev.putFields_canonical h1)))))); (· exact (some_canonical (ite_canonical ha1 (Dev.floorWrite_canonical ha1 (fun _ h2 => (Dev.putFields_canonical h2)))))); (· exact (some_canonical (ite_canonical ha1 (Dev.putFields_canonical ha1)))); (· exact (some_canonical (ite_canonical (Dev.startSweep_canonical (Dev.clearBy_canonical ha1)) (Dev.clearBy_canonical ha1)))); (· exact none_canonical))

theorem Dev.writeTime_canonical {a1 a2 a3 a4 a5} (ha1 : Canonical a1.flds a1.ctrs) :
    ∀ e, (Dev.writeTime a1 a2 a3 a4 a5) = some e → Canonical e.flds e.ctrs := by
  unfold Dev.writeTime; exact (by split; (· exact (some_canonical (ite_canonical (ite_canonical (Dev.acceptJump_canonical (Dev.set0_canonical (Dev.clearBy_canonical ha1))) (Dev.set0_canonical (Dev.clearBy_canonical ha1))) (Dev.writeClockMode_canonical (ite_canonical (Dev.acceptJump_canonical (Dev.set0_canonical (Dev.clearBy_canonical ha1))) (Dev.set0_canonical (Dev.clearBy_canonical ha1))))))); (· exact (some_canonical (ite_canonical (Dev.adjust_canonical (Dev.set0_canonical (Dev.set0_canonical ha1))) (Dev.set0_canonical (Dev.set0_canonical (Dev.set0_canonical ha1)))))); (· exact (some_canonical (Dev.setConv_canonical ha1))); (· exact (some_canonical (Dev.setConv_canonical ha1))); (· exact (some_canonical (ite_canonical (Dev.convGo_canonical ha1) (Dev.setConv_canonical ha1)))); (· exact (some_canonical (Dev.armPulse_canonical ha1))); (· exact (some_canonical (ite_canonical (Dev.flushCaps_canonical (Dev.putFields_canonical ha1)) (Dev.putFields_canonical ha1)))); (· exact none_canonical))

theorem Dev.writeHealth_canonical {a1 a2 a3 a4 a5 a6 a7} (ha1 : Canonical a1.flds a1.ctrs) :
    ∀ e, (Dev.writeHealth a1 a2 a3 a4 a5 a6 a7) = some e → Canonical e.flds e.ctrs := by
  unfold Dev.writeHealth; exact (by split; (· exact (some_canonical (Dev.pwRegister_canonical ha1 (fun _ h1 => (Dev.writeFormat_canonical h1))))); (· exact (some_canonical (Dev.pwRegister_canonical ha1 (fun _ h2 => (Dev.leaseCmd_canonical h2))))); (· exact (some_canonical (Dev.clearCauses_canonical ha1))); (· exact (some_canonical (Dev.winterReq_canonical ha1))); (· exact (some_canonical (Dev.pwRegister_canonical ha1 (fun _ h3 => (Dev.pwWrite_canonical h3 (fun _ h4 => (Dev.exitGo_canonical h4))))))); (· exact (some_canonical (Dev.calCmd_canonical ha1))); (· exact (some_canonical (Dev.takeCal_canonical ha1))); (· exact (some_canonical (Dev.takeCal_canonical ha1))); (· exact (some_canonical (Dev.takeCal_canonical ha1))); (· exact (some_canonical (Dev.takeCal_canonical ha1))); (· exact (some_canonical (Dev.takeCal_canonical ha1))); (· exact (some_canonical (Dev.takeCal_canonical ha1))); (· exact (some_canonical (Dev.takeCal_canonical ha1))); (· exact (some_canonical (Dev.takeCal_canonical ha1))); (· exact none_canonical))

theorem Dev.writeHost_canonical {a1 a2 a3 a4 a5 a6} (ha1 : Canonical a1.flds a1.ctrs) :
    ∀ e, (Dev.writeHost a1 a2 a3 a4 a5 a6) = some e → Canonical e.flds e.ctrs := by
  unfold Dev.writeHost; exact (by split; (· exact (some_canonical (Dev.pendClear_canonical ha1))); (· exact (some_canonical (Dev.maskWrite_canonical ha1))); (· exact (opt_ite_canonical (some_canonical ha1) none_canonical)); (· exact (some_canonical (Dev.msixWrite_canonical ha1))); (· exact (some_canonical (Dev.ringSetup_canonical ha1))); (· exact (some_canonical (Dev.ringSetup_canonical ha1))); (· exact (some_canonical (Dev.ringSetup_canonical ha1))); (· exact (some_canonical (Dev.ringCtrl_canonical ha1))); (· exact (some_canonical (Dev.h2fData_canonical ha1))); (· exact (some_canonical (ite_canonical (Dev.h2fGo_canonical ha1) (Dev.h2fWrite_canonical ha1 (fun _ h1 => h1))))); (· exact (some_canonical (ite_canonical (Dev.f2hAck_canonical ha1) ha1))); (· exact (some_canonical (Dev.ringH2f_canonical ha1))); (· exact (some_canonical (Dev.ringH2f_canonical ha1))); (· exact (some_canonical (Dev.lockWrite_canonical ha1))); (· exact (some_canonical (ite_canonical ha1 (Dev.evrCtrl_canonical (Dev.set0_canonical ha1))))); (· exact (some_canonical (Dev.stageLoad_canonical ha1))); (· exact (some_canonical (Dev.stageRelease_canonical ha1))); (· exact (some_canonical (Dev.pmcCtrl_canonical ha1))); (· exact (some_canonical (Dev.bwWindow_canonical ha1))); (· exact (some_canonical (ite_canonical (Dev.bwClearPeaks_canonical ha1) ha1))); (· exact (some_canonical (Dev.set1_canonical (ite_canonical (Dev.pmcClear_canonical ha1) ha1)))); (· exact (some_canonical (Dev.pmcSel_canonical ha1))); (· exact (some_canonical (Dev.indAddrWrite_canonical ha1))); (· exact (some_canonical (Dev.indStatusWrite_canonical ha1))); (· exact (some_canonical (Dev.indCmdWrite_canonical ha1))); (· exact (some_canonical (Dev.indDataWrite_canonical ha1))); (· exact none_canonical))

theorem Dev.woViolation_canonical {a1 a2 a3} (ha1 : Canonical a1.flds a1.ctrs) :
    Canonical (Dev.woViolation a1 a2 a3).flds (Dev.woViolation a1 a2 a3).ctrs := by
  unfold Dev.woViolation; exact (Dev.accessFailed_canonical (ite_canonical (Dev.setBit_canonical ha1) (Dev.setBit_canonical ha1)))

theorem Dev.hifSelect_canonical {a1 a2 a3} (ha1 : Canonical a1.flds a1.ctrs) :
    Canonical (Dev.hifSelect a1 a2 a3).flds (Dev.hifSelect a1 a2 a3).ctrs := by
  unfold Dev.hifSelect; exact (ite_canonical (Dev.woViolation_canonical ha1) (ite_canonical (by (try dsimp only); exact (Dev.set0_canonical (Dev.set0_canonical (Dev.set0_canonical (Dev.set0_canonical (Dev.set0_canonical ha1)))))) (Dev.set0_canonical ha1)))

theorem Dev.fuseCommit_canonical {a1 a2 a3} (ha1 : Canonical a1.flds a1.ctrs) :
    Canonical (Dev.fuseCommit a1 a2 a3).flds (Dev.fuseCommit a1 a2 a3).ctrs := by
  unfold Dev.fuseCommit; exact (Dev.pwRegister_canonical ha1 (fun _ h1 => (Dev.record_canonical (Dev.set0_canonical h1))))

theorem Dev.writeReg_canonical {a1 a2 a3 a4 a5 a6 a7} (ha1 : Canonical a1.flds a1.ctrs) :
    Canonical (Dev.writeReg a1 a2 a3 a4 a5 a6 a7).flds (Dev.writeReg a1 a2 a3 a4 a5 a6 a7).ctrs := by
  unfold Dev.writeReg; exact (by split; (· exact (Dev.hifSelect_canonical ha1)); (· exact (Dev.fuseCommit_canonical ha1)); (· exact (getD_canonical (or_canonical (Dev.writeBoot_canonical ha1) (or_canonical (Dev.writePort_canonical ha1) (or_canonical (Dev.writeRegion_canonical ha1) (or_canonical (Dev.writeBuffer_canonical ha1) (or_canonical (Dev.writeTime_canonical ha1) (or_canonical (Dev.writeHealth_canonical ha1) (Dev.writeHost_canonical ha1))))))) (ite_canonical (Dev.clearBy_canonical (Dev.putFields_canonical ha1)) ha1))))

/-! ### `Registers` -/

theorem Dev.noDomain_canonical {a1 a2 a3} (ha1 : Canonical a1.flds a1.ctrs) :
    Canonical (Dev.noDomain a1 a2 a3).flds (Dev.noDomain a1 a2 a3).ctrs := by
  unfold Dev.noDomain; exact (Dev.complete_canonical (ite_canonical (Dev.accessLast_canonical (Dev.count_canonical (Dev.set0_canonical ha1))) (by (try dsimp only); exact (Dev.accessLast_canonical (Dev.count_canonical (Dev.set0_canonical ha1))))))

theorem Dev.turnAway_canonical {a1 a2 a3 a4 a5} (ha1 : Canonical a1.flds a1.ctrs) :
    Canonical (Dev.turnAway a1 a2 a3 a4 a5).flds (Dev.turnAway a1 a2 a3 a4 a5).ctrs := by
  unfold Dev.turnAway; exact (by split; (· exact (Dev.complete_canonical ha1)); (· exact (Dev.abortAccess_canonical ha1)); (· exact (Dev.noDomain_canonical ha1)); (· exact ha1))

theorem Dev.readTarget_canonical {a1 a2 a3} (ha1 : Canonical a1.flds a1.ctrs) :
    Canonical (Dev.readTarget a1 a2 a3).2.flds (Dev.readTarget a1 a2 a3).2.ctrs := by
  unfold Dev.readTarget; exact (by split; (· exact (Dev.readReg_canonical ha1)); (· exact (by (try dsimp only); exact ha1)); (· exact (by (try dsimp only); exact ha1)); (· exact (by (try dsimp only); exact ha1)))

theorem Dev.readChecked_canonical {a1 a2 a3 a4} (ha1 : Canonical a1.flds a1.ctrs) :
    Canonical (Dev.readChecked a1 a2 a3 a4).2.flds (Dev.readChecked a1 a2 a3 a4).2.ctrs := by
  unfold Dev.readChecked; exact (by split; (· exact (Dev.readTarget_canonical ha1)); (· exact (by (try dsimp only); exact (Dev.accessLast_canonical ha1))); (· exact (by (try dsimp only); exact ha1)))

theorem Dev.writeChecked_canonical {a1 a2 a3 a4 a5 a6} (ha1 : Canonical a1.flds a1.ctrs) :
    Canonical (Dev.writeChecked a1 a2 a3 a4 a5 a6).flds (Dev.writeChecked a1 a2 a3 a4 a5 a6).ctrs := by
  unfold Dev.writeChecked; exact (by split; (· exact (ite_canonical (Dev.ignoreAccess_canonical ha1) (Dev.complete_canonical (Dev.writeReg_canonical ha1)))); (· exact (Dev.complete_canonical (Dev.ringTail_canonical ha1))); (· exact (Dev.complete_canonical (Dev.msixWrite_canonical ha1))); (· exact (Dev.complete_canonical ha1)))

theorem Dev.highHalf_canonical {a1 a2 a3 a4 a5} (ha1 : Canonical a1.flds a1.ctrs) :
    Canonical (Dev.highHalf a1 a2 a3 a4 a5).flds (Dev.highHalf a1 a2 a3 a4 a5).ctrs := by
  unfold Dev.highHalf; exact (by split; (· exact (ite_canonical (by (try dsimp only); exact (Dev.complete_canonical (Dev.violation_canonical (Dev.accessLast_canonical ha1)))) (Dev.complete_canonical (Dev.violation_canonical (Dev.accessLast_canonical ha1))))); (· exact (Dev.turnAway_canonical ha1)))

theorem Dev.busRead_canonical {a1 a2 a3 a4 a5} (ha1 : Canonical a1.flds a1.ctrs) :
    Canonical (Dev.busRead a1 a2 a3 a4 a5).flds (Dev.busRead a1 a2 a3 a4 a5).ctrs := by
  unfold Dev.busRead; exact (by split; (· exact (ite_canonical (Dev.complete_canonical ha1) (Dev.abortAccess_canonical ha1))); (· exact (ite_canonical (Dev.turnAway_canonical ha1) (Dev.complete_canonical (Dev.readChecked_canonical ha1)))); (· exact (ite_canonical (Dev.turnAway_canonical ha1) (ite_canonical (Dev.highHalf_canonical (Dev.readChecked_canonical ha1)) (Dev.complete_canonical (Dev.readChecked_canonical (Dev.readChecked_canonical ha1)))))); (· exact (by split; (· exact (Dev.turnAway_canonical ha1)); (· exact (Dev.complete_canonical (snd_foldl_canonical (fun _ _ h1 => (by (try dsimp only); exact (Dev.readChecked_canonical h1))) (by (try dsimp only); exact ha1)))))))

theorem Dev.busWrite_canonical {a1 a2 a3 a4 a5 a6 a7} (ha1 : Canonical a1.flds a1.ctrs) :
    Canonical (Dev.busWrite a1 a2 a3 a4 a5 a6 a7).flds (Dev.busWrite a1 a2 a3 a4 a5 a6 a7).ctrs := by
  unfold Dev.busWrite; exact (by split; (· exact (ite_canonical (Dev.complete_canonical ha1) (Dev.abortAccess_canonical ha1))); (· exact (ite_canonical (Dev.turnAway_canonical ha1) (Dev.writeChecked_canonical ha1))); (· exact (ite_canonical (Dev.turnAway_canonical ha1) (ite_canonical (Dev.highHalf_canonical (Dev.writeChecked_canonical ha1)) (Dev.writeChecked_canonical (Dev.writeChecked_canonical ha1))))); (· exact (by split; (· exact (Dev.turnAway_canonical ha1)); (· exact (foldl_canonical (fun _ _ h1 => (Dev.writeChecked_canonical h1)) ha1)))))

theorem execRegisterRead_canonical {a1 a2 a3 a4 s t} (h : Canonical s.dev.flds s.dev.ctrs) (e : execRegisterRead a1 a2 a3 a4 s = .next t) :
    Canonical t.dev.flds t.dev.ctrs := by
  unfold execRegisterRead at e; exact run_canonical (fun _ h1 => (Dev.busRead_canonical h1)) h e

theorem execRegisterWrite_canonical {a1 a2 a3 a4 a5 a6 s t} (h : Canonical s.dev.flds s.dev.ctrs) (e : execRegisterWrite a1 a2 a3 a4 a5 a6 s = .next t) :
    Canonical t.dev.flds t.dev.ctrs := by
  unfold execRegisterWrite at e; exact run_canonical (fun _ h1 => (Dev.busWrite_canonical h1)) h e

theorem execCounterLoRead_canonical {a1 a2 a3 s t} (h : Canonical s.dev.flds s.dev.ctrs) (e : execCounterLoRead a1 a2 a3 s = .next t) :
    Canonical t.dev.flds t.dev.ctrs := by
  unfold execCounterLoRead at e; exact run_canonical (fun _ h1 => (ite_canonical (Dev.busRead_canonical h1) h1)) h e

theorem execCounterClear_canonical {a1 a2 s t} (h : Canonical s.dev.flds s.dev.ctrs) (e : execCounterClear a1 a2 s = .next t) :
    Canonical t.dev.flds t.dev.ctrs := by
  unfold execCounterClear at e; exact run_canonical (fun _ h1 => (by split; (· exact h1); (· exact (ite_canonical h1 (Dev.gateWrite_canonical h1 (fun _ h2 => (Dev.clearOf_canonical h2))))))) h e

theorem execGlbHifSelect_canonical {a1 a2 a3 s t} (h : Canonical s.dev.flds s.dev.ctrs) (e : execGlbHifSelect a1 a2 a3 s = .next t) :
    Canonical t.dev.flds t.dev.ctrs := by
  unfold execGlbHifSelect at e; exact run_canonical (fun _ h1 => (Dev.onWrite_canonical h1 (fun _ h2 => (Dev.hifSelect_canonical h2)))) h e

theorem execGlbFuseCommit_canonical {a1 s t} (h : Canonical s.dev.flds s.dev.ctrs) (e : execGlbFuseCommit a1 s = .next t) :
    Canonical t.dev.flds t.dev.ctrs := by
  unfold execGlbFuseCommit at e; exact run_canonical (fun _ h1 => (Dev.onWrite_canonical h1 (fun _ h2 => (Dev.fuseCommit_canonical h2)))) h e

/-! ### `Smbus` -/

theorem Dev.smbSet_canonical {a1 a2 a3} (ha1 : Canonical a1.flds a1.ctrs) :
    Canonical (Dev.smbSet a1 a2 a3).flds (Dev.smbSet a1 a2 a3).ctrs := by
  unfold Dev.smbSet; exact (by (try dsimp only); exact ha1)

theorem Dev.smbViolation_canonical {a1 a2} (ha1 : Canonical a1.flds a1.ctrs) :
    Canonical (Dev.smbViolation a1 a2).flds (Dev.smbViolation a1 a2).ctrs := by
  unfold Dev.smbViolation; exact (Dev.recordLimited_canonical ha1)

theorem Dev.smbRefuse_canonical {a1 a2} (ha1 : Canonical a1.flds a1.ctrs) :
    Canonical (Dev.smbRefuse a1 a2).flds (Dev.smbRefuse a1 a2).ctrs := by
  unfold Dev.smbRefuse; exact (Dev.complete_canonical (Dev.satInc_canonical (Dev.smbViolation_canonical ha1)))

theorem Dev.smbWrite4_canonical {a1 a2 a3 a4} (ha1 : Canonical a1.flds a1.ctrs) (ha4 : ∀ x1, Canonical x1.flds x1.ctrs → Canonical (a4 x1).flds (a4 x1).ctrs) :
    Canonical (Dev.smbWrite4 a1 a2 a3 a4).flds (Dev.smbWrite4 a1 a2 a3 a4).ctrs := by
  unfold Dev.smbWrite4; exact (ite_canonical ha1 (ite_canonical (Dev.smbRefuse_canonical ha1) (ite_canonical (Dev.complete_canonical (Dev.satInc_canonical (Dev.smbViolation_canonical (Dev.smbSet_canonical ha1)))) (ha4 _ ha1))))

theorem execSmbusSetAddr_canonical {a1 a2 a3 s t} (h : Canonical s.dev.flds s.dev.ctrs) (e : execSmbusSetAddr a1 a2 a3 s = .next t) :
    Canonical t.dev.flds t.dev.ctrs := by
  unfold execSmbusSetAddr at e; exact run_canonical (fun _ h1 => (Dev.smbWrite4_canonical h1 (fun _ h2 => (Dev.complete_canonical (Dev.smbSet_canonical h2))))) h e

theorem Dev.smbRead_canonical {a1} (ha1 : Canonical a1.flds a1.ctrs) :
    Canonical (Dev.smbRead a1).flds (Dev.smbRead a1).ctrs := by
  unfold Dev.smbRead; exact (ite_canonical (Dev.smbSet_canonical (Dev.busRead_canonical ha1)) (Dev.smbSet_canonical (Dev.busRead_canonical ha1)))

theorem execSmbusRead_canonical {s t} (h : Canonical s.dev.flds s.dev.ctrs) (e : execSmbusRead s = .next t) :
    Canonical t.dev.flds t.dev.ctrs := by
  unfold execSmbusRead at e; exact run_canonical (fun _ h1 => (ite_canonical (Dev.smbRead_canonical h1) h1)) h e

theorem Dev.smbWrite_canonical {a1 a2 a3} (ha1 : Canonical a1.flds a1.ctrs) :
    Canonical (Dev.smbWrite a1 a2 a3).flds (Dev.smbWrite a1 a2 a3).ctrs := by
  unfold Dev.smbWrite; exact (ite_canonical (Dev.smbSet_canonical (ite_canonical (Dev.accessLast_canonical (Dev.busWrite_canonical (Dev.accessLast_canonical ha1))) (Dev.busWrite_canonical (Dev.accessLast_canonical ha1)))) (Dev.smbSet_canonical (ite_canonical (Dev.accessLast_canonical (Dev.busWrite_canonical (Dev.accessLast_canonical ha1))) (Dev.busWrite_canonical (Dev.accessLast_canonical ha1)))))

theorem execSmbusWrite_canonical {a1 a2 a3 a4 s t} (h : Canonical s.dev.flds s.dev.ctrs) (e : execSmbusWrite a1 a2 a3 a4 s = .next t) :
    Canonical t.dev.flds t.dev.ctrs := by
  unfold execSmbusWrite at e; exact run_canonical (fun _ h1 => (Dev.smbWrite4_canonical h1 (fun _ h2 => (Dev.smbWrite_canonical h2)))) h e

theorem execSmbusStatus_canonical {s t} (h : Canonical s.dev.flds s.dev.ctrs) (e : execSmbusStatus s = .next t) :
    Canonical t.dev.flds t.dev.ctrs := by
  unfold execSmbusStatus at e; exact run_canonical (fun _ h1 => (ite_canonical (Dev.complete_canonical h1) h1)) h e

theorem execSmbusTimeout_canonical {s t} (h : Canonical s.dev.flds s.dev.ctrs) (e : execSmbusTimeout s = .next t) :
    Canonical t.dev.flds t.dev.ctrs := by
  unfold execSmbusTimeout at e; exact run_canonical (fun _ h1 => (ite_canonical (Dev.senderDown_canonical (Dev.releaseLocks_canonical (Dev.smbSet_canonical h1))) h1)) h e

theorem execSmbusUndefinedCommand_canonical {s t} (h : Canonical s.dev.flds s.dev.ctrs) (e : execSmbusUndefinedCommand s = .next t) :
    Canonical t.dev.flds t.dev.ctrs := by
  unfold execSmbusUndefinedCommand at e; exact run_canonical (fun _ h1 => (ite_canonical (Dev.smbRefuse_canonical h1) h1)) h e

/-! ### `Tick` -/

theorem Dev.monitorTick_canonical {a1 a2} (ha1 : Canonical a1.flds a1.ctrs) :
    Canonical (Dev.monitorTick a1 a2).flds (Dev.monitorTick a1 a2).ctrs := by
  unfold Dev.monitorTick; exact (ite_canonical ha1 (foldl_canonical (fun _ _ h1 => (Dev.perf_canonical h1)) (by (try dsimp only); exact ha1)))

theorem Dev.areaMount_canonical {a1} (ha1 : Canonical a1.flds a1.ctrs) :
    Canonical (Dev.areaMount a1).flds (Dev.areaMount a1).ctrs := by
  unfold Dev.areaMount; exact (ite_canonical (foldl_canonical (fun _ _ h1 => (ite_canonical h1 (Dev.set1_canonical h1))) (by (try dsimp only); exact ha1)) (Dev.set0_canonical (by (try dsimp only); exact (foldl_canonical (fun _ _ h2 => (ite_canonical h2 (Dev.set1_canonical h2))) (by (try dsimp only); exact ha1)))))

theorem Dev.startTick_canonical {a1} (ha1 : Canonical a1.flds a1.ctrs) :
    Canonical (Dev.startTick a1).flds (Dev.startTick a1).ctrs := by
  unfold Dev.startTick; exact (ite_canonical (Dev.set0_canonical (ite_canonical (Dev.areaMount_canonical (ite_canonical (Dev.record_canonical (Dev.set0_canonical (by (try dsimp only); exact ha1))) ha1)) (ite_canonical (Dev.record_canonical (Dev.set0_canonical (by (try dsimp only); exact ha1))) ha1))) (ite_canonical (Dev.areaMount_canonical (ite_canonical (Dev.record_canonical (Dev.set0_canonical (by (try dsimp only); exact ha1))) ha1)) (ite_canonical (Dev.record_canonical (Dev.set0_canonical (by (try dsimp only); exact ha1))) ha1)))

theorem Dev.frcTick_canonical {a1} (ha1 : Canonical a1.flds a1.ctrs) :
    Canonical (Dev.frcTick a1).flds (Dev.frcTick a1).ctrs := by
  unfold Dev.frcTick; exact (ite_canonical ha1 (by (try dsimp only); exact ha1))

theorem Dev.tick_canonical {a1} (ha1 : Canonical a1.flds a1.ctrs) :
    Canonical (Dev.tick a1).flds (Dev.tick a1).ctrs := by
  unfold Dev.tick; exact (ite_canonical ha1 (ite_canonical (by (try dsimp only); exact (Dev.startTick_canonical (Dev.frcTick_canonical (by (try dsimp only); exact ha1)))) (foldl_canonical (fun _ _ h1 => (Dev.monitorTick_canonical h1)) (by (try dsimp only); exact (Dev.startTick_canonical (Dev.frcTick_canonical (by (try dsimp only); exact ha1)))))))

end Sys2Proof.Machine
end

