-- ==== Sys2Proof/Laws/Dispatch.lean ====
section
/-! SUPPORT. The meaning that each command dispatches to. -/

namespace Sys2Proof.Machine

@[simp] theorem exec_flitReceive (k : Link) (b : Fin 10) (dir : Fin 2) (seq : Fin 4096) (ack : Fin 4096) (crcOk : Bool) (s : State) :
    exec (.flitReceive k b dir seq ack crcOk) s = execFlitReceive k b dir seq ack crcOk s := rfl
@[simp] theorem exec_nakReplay (k : Link) (b : Fin 10) (dir : Fin 2) (seq : Fin 4096) (s : State) :
    exec (.nakReplay k b dir seq) s = execNakReplay k b dir seq s := rfl
@[simp] theorem exec_ackTimeoutReplay (k : Link) (b : Fin 10) (dir : Fin 2) (s : State) :
    exec (.ackTimeoutReplay k b dir) s = execAckTimeoutReplay k b dir s := rfl
@[simp] theorem exec_bundleDiagnosisDone (k : Link) (b : Fin 10) (badOut : List (Fin 66)) (badIn : List (Fin 66)) (clears : Bool) (s : State) :
    exec (.bundleDiagnosisDone k b badOut badIn clears) s = execBundleDiagnosisDone k b badOut badIn clears s := rfl
@[simp] theorem exec_regionIsolate (n : Region) (cause : Fin 65536) (s : State) :
    exec (.regionIsolate n cause) s = execRegionIsolate n cause s := rfl
@[simp] theorem exec_laneDieFailed (n : Region) (s : State) :
    exec (.laneDieFailed n) s = execLaneDieFailed n s := rfl
@[simp] theorem exec_holdDieFailed (die : Fin 20) (s : State) :
    exec (.holdDieFailed die) s = execHoldDieFailed die s := rfl
@[simp] theorem exec_rootPllFirstLock (lanePll : Fin 16) (pcieRef : Bool) (s : State) :
    exec (.rootPllFirstLock lanePll pcieRef) s = execRootPllFirstLock lanePll pcieRef s := rfl
@[simp] theorem exec_rootClockLost (ref : Bool) (s : State) :
    exec (.rootClockLost ref) s = execRootClockLost ref s := rfl
@[simp] theorem exec_clkDivCoreHalf (m : Master) (half : Bool) (s : State) :
    exec (.clkDivCoreHalf m half) s = execClkDivCoreHalf m half s := rfl
@[simp] theorem exec_coreClockRedivided (s : State) :
    exec (.coreClockRedivided) s = execCoreClockRedivided s := rfl
@[simp] theorem exec_frameReceive (p : Port) (bytes : List (BitVec 8)) (pcsErr : Bool) (fec : FecSeen) (sub : Fin 8) (rivals : List (Fin 7)) (s : State) :
    exec (.frameReceive p bytes pcsErr fec sub rivals) s = execFrameReceive p bytes pcsErr fec sub rivals s := rfl
@[simp] theorem exec_frameParse (id : Nat) (faults : List ReadFault) (s : State) :
    exec (.frameParse id faults) s = execFrameParse id faults s := rfl
@[simp] theorem exec_frameLink (id : Nat) (s : State) :
    exec (.frameLink id) s = execFrameLink id s := rfl
@[simp] theorem exec_schedulerPick (p : Fin 135) (m : Fin 4) (rd : CellRead) (s : State) :
    exec (.schedulerPick p m rd) s = execSchedulerPick p m rd s := rfl
@[simp] theorem exec_frameTransmit (p : Fin 132) (sub : Fin 8) (rd : CellRead) (rivals : List (Fin 7)) (s : State) :
    exec (.frameTransmit p sub rd rivals) s = execFrameTransmit p sub rd rivals s := rfl
@[simp] theorem exec_bufLinkMemoryFailed (mem : Fin 4) (s : State) :
    exec (.bufLinkMemoryFailed mem) s = execBufLinkMemoryFailed mem s := rfl
@[simp] theorem exec_imgLoadSlot (m : Master) (slot : Fin 4) (host : Option (List (BitVec 8))) (s : State) :
    exec (.imgLoadSlot m slot host) s = execImgLoadSlot m slot host s := rfl
@[simp] theorem exec_imgMarkTrial (m : Master) (slot : Fin 4) (s : State) :
    exec (.imgMarkTrial m slot) s = execImgMarkTrial m slot s := rfl
@[simp] theorem exec_imgReload (m : Master) (mask : Fin 16) (fromHost : Bool) (slot : Fin 4) (host : Option (List (BitVec 8))) (lost : Option (Nat × Nat)) (s : State) :
    exec (.imgReload m mask fromHost slot host lost) s = execImgReload m mask fromHost slot host lost s := rfl
@[simp] theorem exec_regionReloadApply (s : State) :
    exec (.regionReloadApply) s = execRegionReloadApply s := rfl
@[simp] theorem exec_regionReloadBringup (ok : Bool) (restored : Bool) (s : State) :
    exec (.regionReloadBringup ok restored) s = execRegionReloadBringup ok restored s := rfl
@[simp] theorem exec_imgAmend (m : Master) (host : Option (List (BitVec 8))) (s : State) :
    exec (.imgAmend m host) s = execImgAmend m host s := rfl
@[simp] theorem exec_amendmentApply (s : State) :
    exec (.amendmentApply) s = execAmendmentApply s := rfl
@[simp] theorem exec_imgEraseSlot (m : Master) (slot : Fin 4) (s : State) :
    exec (.imgEraseSlot m slot) s = execImgEraseSlot m slot s := rfl
@[simp] theorem exec_imgVerifySlot (m : Master) (slot : Fin 4) (lost : Option (Nat × Nat)) (s : State) :
    exec (.imgVerifySlot m slot lost) s = execImgVerifySlot m slot lost s := rfl
@[simp] theorem exec_imgLoadAndCommit (m : Master) (host : Option (List (BitVec 8))) (s : State) :
    exec (.imgLoadAndCommit m host) s = execImgLoadAndCommit m host s := rfl
@[simp] theorem exec_imgBadCommand (m : Master) (op : Fin 16) (slot : Fin 4) (mask : Fin 16) (fromHost : Bool) (s : State) :
    exec (.imgBadCommand m op slot mask fromHost) s = execImgBadCommand m op slot mask fromHost s := rfl
@[simp] theorem exec_imageTrialTimeout (s : State) :
    exec (.imageTrialTimeout) s = execImageTrialTimeout s := rfl
@[simp] theorem exec_sectionScrub (bad : Bool) (s : State) :
    exec (.sectionScrub bad) s = execSectionScrub bad s := rfl
@[simp] theorem exec_powerOnReset (low : Bool) (s : State) :
    exec (.powerOnReset low) s = execPowerOnReset low s := rfl
@[simp] theorem exec_sysResetAssert (ns : Nat) (s : State) :
    exec (.sysResetAssert ns) s = execSysResetAssert ns s := rfl
@[simp] theorem exec_clkRstCmdFull (m : Master) (key : BitVec 8) (s : State) :
    exec (.clkRstCmdFull m key) s = execClkRstCmdFull m key s := rfl
@[simp] theorem exec_fullResetTakeHold (s : State) :
    exec (.fullResetTakeHold) s = execFullResetTakeHold s := rfl
@[simp] theorem exec_sysResetRelease (sel : Fin 8) (s : State) :
    exec (.sysResetRelease sel) s = execSysResetRelease sel s := rfl
@[simp] theorem exec_powerGoodReleaseTimer (sel : Fin 8) (s : State) :
    exec (.powerGoodReleaseTimer sel) s = execPowerGoodReleaseTimer sel s := rfl
@[simp] theorem exec_pfailAssert (ns : Nat) (late : Bool) (s : State) :
    exec (.pfailAssert ns late) s = execPfailAssert ns late s := rfl
@[simp] theorem exec_powerFailFlushDone (s : State) :
    exec (.powerFailFlushDone) s = execPowerFailFlushDone s := rfl
@[simp] theorem exec_pfailDeassert (s : State) :
    exec (.pfailDeassert) s = execPfailDeassert s := rfl
@[simp] theorem exec_firmwareStart (a : Option (Nat × Bool)) (b : Option (Nat × Bool)) (spi : Spi) (lost : List (Nat × Nat × Nat)) (s : State) :
    exec (.firmwareStart a b spi lost) s = execFirmwareStart a b spi lost s := rfl
@[simp] theorem exec_hostFwLoad (m : Master) (s : State) :
    exec (.hostFwLoad m) s = execHostFwLoad m s := rfl
@[simp] theorem exec_hostFwLoadDone (dma : Bool) (len : Nat) (version : Nat) (signed : Bool) (s : State) :
    exec (.hostFwLoadDone dma len version signed) s = execHostFwLoadDone dma len version signed s := rfl
@[simp] theorem exec_imageCommit (s : State) :
    exec (.imageCommit) s = execImageCommit s := rfl
@[simp] theorem exec_springCheck (ok : Bool) (mask : Fin 16) (s : State) :
    exec (.springCheck ok mask) s = execSpringCheck ok mask s := rfl
@[simp] theorem exec_springLeft (s : State) :
    exec (.springLeft) s = execSpringLeft s := rfl
@[simp] theorem exec_springStalled (s : State) :
    exec (.springStalled) s = execSpringStalled s := rfl
@[simp] theorem exec_hostLostPerst (s : State) :
    exec (.hostLostPerst) s = execHostLostPerst s := rfl
@[simp] theorem exec_hostLinkLost (s : State) :
    exec (.hostLinkLost) s = execHostLinkLost s := rfl
@[simp] theorem exec_linkUp (p : Port) (s : State) :
    exec (.linkUp p) s = execLinkUp p s := rfl
@[simp] theorem exec_linkDown (p : Port) (cause : Fin 4) (rx : Option Nat) (s : State) :
    exec (.linkDown p cause rx) s = execLinkDown p cause rx s := rfl
@[simp] theorem exec_flapHoldoffEnd (p : Port) (s : State) :
    exec (.flapHoldoffEnd p) s = execFlapHoldoffEnd p s := rfl
@[simp] theorem exec_macPortEnWrite (m : Master) (p : Port) (en : Bool) (s : State) :
    exec (.macPortEnWrite m p en) s = execMacPortEnWrite m p en s := rfl
@[simp] theorem exec_macUnitIsolated (p : Port) (s : State) :
    exec (.macUnitIsolated p) s = execMacUnitIsolated p s := rfl
@[simp] theorem exec_autonegComplete (p : Port) (full : Bool) (adv : Fin 65536) (fec : Fin 4) (moves : List (Int × Int × Int × Int × Int)) (s : State) :
    exec (.autonegComplete p full adv fec moves) s = execAutonegComplete p full adv fec moves s := rfl
@[simp] theorem exec_pauseStart (p : Port) (s : State) :
    exec (.pauseStart p) s = execPauseStart p s := rfl
@[simp] theorem exec_pauseExpire (p : Port) (i : Fin 9) (s : State) :
    exec (.pauseExpire p i) s = execPauseExpire p i s := rfl
@[simp] theorem exec_pauseStorm (p : Port) (c : Fin 9) (s : State) :
    exec (.pauseStorm p c) s = execPauseStorm p c s := rfl
@[simp] theorem exec_pauseRecoveryEnd (p : Port) (c : Fin 9) (s : State) :
    exec (.pauseRecoveryEnd p c) s = execPauseRecoveryEnd p c s := rfl
@[simp] theorem exec_pfcRefresh (p : Port) (c : Tc) (s : State) :
    exec (.pfcRefresh p c) s = execPfcRefresh p c s := rfl
@[simp] theorem exec_lpiEnter (p : Port) (s : State) :
    exec (.lpiEnter p) s = execLpiEnter p s := rfl
@[simp] theorem exec_lpiWake (p : Port) (s : State) :
    exec (.lpiWake p) s = execLpiWake p s := rfl
@[simp] theorem exec_macStatHalfClear (m : Master) (p : Port) (i : Fin 96) (s : State) :
    exec (.macStatHalfClear m p i) s = execMacStatHalfClear m p i s := rfl
@[simp] theorem exec_counterLoRead (m : Master) (off : Fin 16777216) (wide : Bool) (s : State) :
    exec (.counterLoRead m off wide) s = execCounterLoRead m off wide s := rfl
@[simp] theorem exec_counterClear (m : Master) (off : Fin 16777216) (s : State) :
    exec (.counterClear m off) s = execCounterClear m off s := rfl
@[simp] theorem exec_shadowTurnStart (c : Cluster) (s : State) :
    exec (.shadowTurnStart c) s = execShadowTurnStart c s := rfl
@[simp] theorem exec_shadowTurnNow (m : Master) (c : Cluster) (s : State) :
    exec (.shadowTurnNow m c) s = execShadowTurnNow m c s := rfl
@[simp] theorem exec_shadowAdaptDone (c : Cluster) (s : State) :
    exec (.shadowAdaptDone c) s = execShadowAdaptDone c s := rfl
@[simp] theorem exec_shadowAdaptTimeout (c : Cluster) (s : State) :
    exec (.shadowAdaptTimeout c) s = execShadowAdaptTimeout c s := rfl
@[simp] theorem exec_shadowVerifyEnd (c : Cluster) (seen : VerifySeen) (a : Int) (own : Int) (s : State) :
    exec (.shadowVerifyEnd c seen a own) s = execShadowVerifyEnd c seen a own s := rfl
@[simp] theorem exec_laneSwap (c : Cluster) (uncorrectable : Bool) (s : State) :
    exec (.laneSwap c uncorrectable) s = execLaneSwap c uncorrectable s := rfl
@[simp] theorem exec_swapDeferExhausted (c : Cluster) (s : State) :
    exec (.swapDeferExhausted c) s = execSwapDeferExhausted c s := rfl
@[simp] theorem exec_sliceFaultIsolate (c : Cluster) (faulty : List (Fin 5)) (s : State) :
    exec (.sliceFaultIsolate c faulty) s = execSliceFaultIsolate c faulty s := rfl
@[simp] theorem exec_shadowTakeoverLock (c : Cluster) (own : Int) (s : State) :
    exec (.shadowTakeoverLock c own) s = execShadowTakeoverLock c own s := rfl
@[simp] theorem exec_d2dWireRetrainStart (k : Link) (s : State) :
    exec (.d2dWireRetrainStart k) s = execD2dWireRetrainStart k s := rfl
@[simp] theorem exec_d2dWireRetrainDone (k : Link) (ok : Bool) (s : State) :
    exec (.d2dWireRetrainDone k ok) s = execD2dWireRetrainDone k ok s := rfl
@[simp] theorem exec_holdRetrainStart (die : HoldDie) (s : State) :
    exec (.holdRetrainStart die) s = execHoldRetrainStart die s := rfl
@[simp] theorem exec_holdRetrainDone (ok : Bool) (s : State) :
    exec (.holdRetrainDone ok) s = execHoldRetrainDone ok s := rfl
@[simp] theorem exec_holdRetrainTimeout (s : State) :
    exec (.holdRetrainTimeout) s = execHoldRetrainTimeout s := rfl
@[simp] theorem exec_deferralListRebuild (s : State) :
    exec (.deferralListRebuild) s = execDeferralListRebuild s := rfl
@[simp] theorem exec_parseNodeRewrite (n : Region) (k : Fin 64) (s : State) :
    exec (.parseNodeRewrite n k) s = execParseNodeRewrite n k s := rfl
@[simp] theorem exec_prsClrLast (m : Master) (n : Region) (s : State) :
    exec (.prsClrLast m n) s = execPrsClrLast m n s := rfl
@[simp] theorem exec_learnInsert (faults : List ReadFault) (s : State) :
    exec (.learnInsert faults) s = execLearnInsert faults s := rfl
@[simp] theorem exec_relocationMove (faults : List ReadFault) (s : State) :
    exec (.relocationMove faults) s = execRelocationMove faults s := rfl
@[simp] theorem exec_relocationInvalidate (s : State) :
    exec (.relocationInvalidate) s = execRelocationInvalidate s := rfl
@[simp] theorem exec_ageingVisit (faults : List ReadFault) (s : State) :
    exec (.ageingVisit faults) s = execAgeingVisit faults s := rfl
@[simp] theorem exec_tblReadRow (n : Region) (desc : List (BitVec 8)) (next : List (BitVec 8)) (faults : List ReadFault) (s : State) :
    exec (.tblReadRow n desc next faults) s = execTblReadRow n desc next faults s := rfl
@[simp] theorem exec_tblWriteRow (n : Region) (desc : List (BitVec 8)) (next : List (BitVec 8)) (s : State) :
    exec (.tblWriteRow n desc next) s = execTblWriteRow n desc next s := rfl
@[simp] theorem exec_tblInsert (n : Region) (desc : List (BitVec 8)) (next : List (BitVec 8)) (faults : List ReadFault) (s : State) :
    exec (.tblInsert n desc next faults) s = execTblInsert n desc next faults s := rfl
@[simp] theorem exec_tblDelete (n : Region) (desc : List (BitVec 8)) (next : List (BitVec 8)) (faults : List ReadFault) (s : State) :
    exec (.tblDelete n desc next faults) s = execTblDelete n desc next faults s := rfl
@[simp] theorem exec_tblLookup (n : Region) (desc : List (BitVec 8)) (next : List (BitVec 8)) (faults : List ReadFault) (s : State) :
    exec (.tblLookup n desc next faults) s = execTblLookup n desc next faults s := rfl
@[simp] theorem exec_tblPrefixAdd (n : Region) (desc : List (BitVec 8)) (next : List (BitVec 8)) (faults : List ReadFault) (s : State) :
    exec (.tblPrefixAdd n desc next faults) s = execTblPrefixAdd n desc next faults s := rfl
@[simp] theorem exec_tblPrefixDel (n : Region) (desc : List (BitVec 8)) (next : List (BitVec 8)) (faults : List ReadFault) (s : State) :
    exec (.tblPrefixDel n desc next faults) s = execTblPrefixDel n desc next faults s := rfl
@[simp] theorem exec_tblPrefixGet (n : Region) (desc : List (BitVec 8)) (next : List (BitVec 8)) (faults : List ReadFault) (s : State) :
    exec (.tblPrefixGet n desc next faults) s = execTblPrefixGet n desc next faults s := rfl
@[simp] theorem exec_tblFlush (n : Region) (desc : List (BitVec 8)) (next : List (BitVec 8)) (s : State) :
    exec (.tblFlush n desc next) s = execTblFlush n desc next s := rfl
@[simp] theorem exec_tblBadDescriptor (n : Region) (desc : List (BitVec 8)) (next : List (BitVec 8)) (s : State) :
    exec (.tblBadDescriptor n desc next) s = execTblBadDescriptor n desc next s := rfl
@[simp] theorem exec_tblRingRestart (m : Master) (n : Region) (s : State) :
    exec (.tblRingRestart m n) s = execTblRingRestart m n s := rfl
@[simp] theorem exec_trieOldNodesFree (s : State) :
    exec (.trieOldNodesFree) s = execTrieOldNodesFree s := rfl
@[simp] theorem exec_trieNodeRebuilt (v6 : Bool) (bits : Nat) (path : Nat) (s : State) :
    exec (.trieNodeRebuilt v6 bits path) s = execTrieNodeRebuilt v6 bits path s := rfl
@[simp] theorem exec_lookupEngineSpared (n : Region) (frames : List Nat) (s : State) :
    exec (.lookupEngineSpared n frames) s = execLookupEngineSpared n frames s := rfl
@[simp] theorem exec_tcmReadEntry (n : Region) (desc : List (BitVec 8)) (next : List (BitVec 8)) (s : State) :
    exec (.tcmReadEntry n desc next) s = execTcmReadEntry n desc next s := rfl
@[simp] theorem exec_tcmWriteEntry (n : Region) (desc : List (BitVec 8)) (next : List (BitVec 8)) (s : State) :
    exec (.tcmWriteEntry n desc next) s = execTcmWriteEntry n desc next s := rfl
@[simp] theorem exec_tcmInsertAt (n : Region) (desc : List (BitVec 8)) (next : List (BitVec 8)) (s : State) :
    exec (.tcmInsertAt n desc next) s = execTcmInsertAt n desc next s := rfl
@[simp] theorem exec_tcmDeleteAt (n : Region) (desc : List (BitVec 8)) (next : List (BitVec 8)) (s : State) :
    exec (.tcmDeleteAt n desc next) s = execTcmDeleteAt n desc next s := rfl
@[simp] theorem exec_tcmLookup (n : Region) (desc : List (BitVec 8)) (next : List (BitVec 8)) (s : State) :
    exec (.tcmLookup n desc next) s = execTcmLookup n desc next s := rfl
@[simp] theorem exec_tcmClearPartition (n : Region) (desc : List (BitVec 8)) (next : List (BitVec 8)) (s : State) :
    exec (.tcmClearPartition n desc next) s = execTcmClearPartition n desc next s := rfl
@[simp] theorem exec_tcmBadDescriptor (n : Region) (desc : List (BitVec 8)) (next : List (BitVec 8)) (s : State) :
    exec (.tcmBadDescriptor n desc next) s = execTcmBadDescriptor n desc next s := rfl
@[simp] theorem exec_tcmRingRestart (m : Master) (n : Region) (s : State) :
    exec (.tcmRingRestart m n) s = execTcmRingRestart m n s := rfl
@[simp] theorem exec_tcmMoveStep (s : State) :
    exec (.tcmMoveStep) s = execTcmMoveStep s := rfl
@[simp] theorem exec_tcmMoveInvalidate (s : State) :
    exec (.tcmMoveInvalidate) s = execTcmMoveInvalidate s := rfl
@[simp] theorem exec_tcamScanRow (row : Fin 65536) (kind : Fin 6) (pass : Option Nat) (s : State) :
    exec (.tcamScanRow row kind pass) s = execTcamScanRow row kind pass s := rfl
@[simp] theorem exec_automataScan (n : Region) (corrected : Nat) (bad : Option Nat) (faults : List ReadFault) (s : State) :
    exec (.automataScan n corrected bad faults) s = execAutomataScan n corrected bad faults s := rfl
@[simp] theorem exec_autStateRewrite (n : Region) (w : Nat) (s : State) :
    exec (.autStateRewrite n w) s = execAutStateRewrite n w s := rfl
@[simp] theorem exec_streamFlowIdle (row : Fin 65536) (s : State) :
    exec (.streamFlowIdle row) s = execStreamFlowIdle row s := rfl
@[simp] theorem exec_autEngineSpared (n : Region) (e : Fin 9) (frames : List Nat) (s : State) :
    exec (.autEngineSpared n e frames) s = execAutEngineSpared n e frames s := rfl
@[simp] theorem exec_captureRecordWrite (fail : Bool) (s : State) :
    exec (.captureRecordWrite fail) s = execCaptureRecordWrite fail s := rfl
@[simp] theorem exec_bufArrivalReserveWrite (m : Master) (v : Fin 4294967296) (s : State) :
    exec (.bufArrivalReserveWrite m v) s = execBufArrivalReserveWrite m v s := rfl
@[simp] theorem exec_flapTimerExpire (p : Port) (s : State) :
    exec (.flapTimerExpire p) s = execFlapTimerExpire p s := rfl
@[simp] theorem exec_fabricDestFlapExpire (a : Fin 256) (s : State) :
    exec (.fabricDestFlapExpire a) s = execFabricDestFlapExpire a s := rfl
@[simp] theorem exec_holdWrite (rd : CellRead) (s : State) :
    exec (.holdWrite rd) s = execHoldWrite rd s := rfl
@[simp] theorem exec_holdRowWrite (s : State) :
    exec (.holdRowWrite) s = execHoldRowWrite s := rfl
@[simp] theorem exec_holdDrain (h : Fin 3056) (reads : List RowRead) (badFree : Option (Fin 3056 × Fin 67108864)) (s : State) :
    exec (.holdDrain h reads badFree) s = execHoldDrain h reads badFree s := rfl
@[simp] theorem exec_freeRingRefill (s : State) :
    exec (.freeRingRefill) s = execFreeRingRefill s := rfl
@[simp] theorem exec_freeRingSpill (s : State) :
    exec (.freeRingSpill) s = execFreeRingSpill s := rfl
@[simp] theorem exec_holdMount (okA : Bool) (okB : Bool) (calA : Bool) (calB : Bool) (s : State) :
    exec (.holdMount okA okB calA calB) s = execHoldMount okA okB calA calB s := rfl
@[simp] theorem exec_freeSweep (s : State) :
    exec (.freeSweep) s = execFreeSweep s := rfl
@[simp] theorem exec_hldSweepCmd (m : Master) (s : State) :
    exec (.hldSweepCmd m) s = execHldSweepCmd m s := rfl
@[simp] theorem exec_holdScrub (corr : List (HoldDie × Fin 9)) (bad : List HoldDie) (err : List (HoldDie × Fin 272 × Fin 256)) (s : State) :
    exec (.holdScrub corr bad err) s = execHoldScrub corr bad err s := rfl
@[simp] theorem exec_gapMove (z : Fin 4096) (s : State) :
    exec (.gapMove z) s = execGapMove z s := rfl
@[simp] theorem exec_zoneSwap (pairs : Fin 16385) (s : State) :
    exec (.zoneSwap pairs) s = execZoneSwap pairs s := rfl
@[simp] theorem exec_wearCounterSave (s : State) :
    exec (.wearCounterSave) s = execWearCounterSave s := rfl
@[simp] theorem exec_hldFormat (m : Master) (key : Fin 256) (cap : Fin 4096) (s : State) :
    exec (.hldFormat m key cap) s = execHldFormat m key cap s := rfl
@[simp] theorem exec_hldFormatDone (s : State) :
    exec (.hldFormatDone) s = execHldFormatDone s := rfl
@[simp] theorem exec_timAdjSet (m : Master) (s : State) :
    exec (.timAdjSet m) s = execTimAdjSet m s := rfl
@[simp] theorem exec_timAdjStep (m : Master) (s : State) :
    exec (.timAdjStep m) s = execTimAdjStep m s := rfl
@[simp] theorem exec_timAdjRate (m : Master) (s : State) :
    exec (.timAdjRate m) s = execTimAdjRate m s := rfl
@[simp] theorem exec_timAdjStepRate (m : Master) (s : State) :
    exec (.timAdjStepRate m) s = execTimAdjStepRate m s := rfl
@[simp] theorem exec_epochSwitch (s : State) :
    exec (.epochSwitch) s = execEpochSwitch s := rfl
@[simp] theorem exec_timeBusFullValue (n : Region) (ok : Bool) (s : State) :
    exec (.timeBusFullValue n ok) s = execTimeBusFullValue n ok s := rfl
@[simp] theorem exec_txtsPop (m : Master) (g : Fin 32) (s : State) :
    exec (.txtsPop m g) s = execTxtsPop m g s := rfl
@[simp] theorem exec_timConv (m : Master) (epoch : Fin 256) (sub : Fin 8) (s : State) :
    exec (.timConv m epoch sub) s = execTimConv m epoch sub s := rfl
@[simp] theorem exec_pulseArm (m : Master) (k : Fin 4) (mode : Fin 4) (lockedOnly : Bool) (sub : Fin 8) (s : State) :
    exec (.pulseArm m k mode lockedOnly sub) s = execPulseArm m k mode lockedOnly sub s := rfl
@[simp] theorem exec_pulseEdge (k : Fin 4) (s : State) :
    exec (.pulseEdge k) s = execPulseEdge k s := rfl
@[simp] theorem exec_pulseFall (k : Fin 4) (s : State) :
    exec (.pulseFall k) s = execPulseFall k s := rfl
@[simp] theorem exec_captureInputEdge (i : Fin 2) (rising : Bool) (sub : Fin 8) (s : State) :
    exec (.captureInputEdge i rising sub) s = execCaptureInputEdge i rising sub s := rfl
@[simp] theorem exec_capPop (m : Master) (i : Fin 2) (s : State) :
    exec (.capPop m i) s = execCapPop m i s := rfl
@[simp] theorem exec_capFlush (m : Master) (i : Fin 2) (s : State) :
    exec (.capFlush m i) s = execCapFlush m i s := rfl
@[simp] theorem exec_ptpRxFirmware (p : Port) (msg : PtpMsg) (s : State) :
    exec (.ptpRxFirmware p msg) s = execPtpRxFirmware p msg s := rfl
@[simp] theorem exec_ptpServoUpdate (off : Int) (rate : Int) (locked : Bool) (s : State) :
    exec (.ptpServoUpdate off rate locked) s = execPtpServoUpdate off rate locked s := rfl
@[simp] theorem exec_gmLost (s : State) :
    exec (.gmLost) s = execGmLost s := rfl
@[simp] theorem exec_acceptJump (m : Master) (s : State) :
    exec (.acceptJump m) s = execAcceptJump m s := rfl
@[simp] theorem exec_clockModeWrite (m : Master) (mode : Fin 2) (s : State) :
    exec (.clockModeWrite m mode) s = execClockModeWrite m mode s := rfl
@[simp] theorem exec_ptpIsolateEnd (p : Port) (s : State) :
    exec (.ptpIsolateEnd p) s = execPtpIsolateEnd p s := rfl
@[simp] theorem exec_fabHelloSend (p : Port) (s : State) :
    exec (.fabHelloSend p) s = execFabHelloSend p s := rfl
@[simp] theorem exec_fabHelloReceive (p : Port) (h : Hello) (s : State) :
    exec (.fabHelloReceive p h) s = execFabHelloReceive p h s := rfl
@[simp] theorem exec_fabDeadTime (p : Port) (s : State) :
    exec (.fabDeadTime p) s = execFabDeadTime p s := rfl
@[simp] theorem exec_fabRefusedEnd (p : Port) (s : State) :
    exec (.fabRefusedEnd p) s = execFabRefusedEnd p s := rfl
@[simp] theorem exec_fabLsaOriginate (s : State) :
    exec (.fabLsaOriginate) s = execFabLsaOriginate s := rfl
@[simp] theorem exec_fabLsaReceive (p : Port) (r : Lsa) (s : State) :
    exec (.fabLsaReceive p r) s = execFabLsaReceive p r s := rfl
@[simp] theorem exec_fabLsaAckReceive (p : Port) (factory : Nat) (seq : Nat) (s : State) :
    exec (.fabLsaAckReceive p factory seq) s = execFabLsaAckReceive p factory seq s := rfl
@[simp] theorem exec_fabLsaRetransmit (p : Port) (s : State) :
    exec (.fabLsaRetransmit p) s = execFabLsaRetransmit p s := rfl
@[simp] theorem exec_fabLsaExpire (s : State) :
    exec (.fabLsaExpire) s = execFabLsaExpire s := rfl
@[simp] theorem exec_fabRouteCompute (us : Nat) (s : State) :
    exec (.fabRouteCompute us) s = execFabRouteCompute us s := rfl
@[simp] theorem exec_fabDataReceive (id : Nat) (s : State) :
    exec (.fabDataReceive id) s = execFabDataReceive id s := rfl
@[simp] theorem exec_fabMcCopyReceive (id : Nat) (s : State) :
    exec (.fabMcCopyReceive id) s = execFabMcCopyReceive id s := rfl
@[simp] theorem exec_fabAddressElect (s : State) :
    exec (.fabAddressElect) s = execFabAddressElect s := rfl
@[simp] theorem exec_fabNoticeReceive (p : Port) (formOk : Bool) (tagOk : Bool) (origin : Fin 256) (health : Fin 256) (cause : Fin 65536) (factory : Nat) (s : State) :
    exec (.fabNoticeReceive p formOk tagOk origin health cause factory) s = execFabNoticeReceive p formOk tagOk origin health cause factory s := rfl
@[simp] theorem exec_fabRouteParity (a : Fin 256) (s : State) :
    exec (.fabRouteParity a) s = execFabRouteParity a s := rfl
@[simp] theorem exec_pairHeartbeatSend (p : Port) (s : State) :
    exec (.pairHeartbeatSend p) s = execPairHeartbeatSend p s := rfl
@[simp] theorem exec_pairHeartbeatReceive (p : Port) (m : PairMsg) (s : State) :
    exec (.pairHeartbeatReceive p m) s = execPairHeartbeatReceive p m s := rfl
@[simp] theorem exec_pairHbLost (s : State) :
    exec (.pairHbLost) s = execPairHbLost s := rfl
@[simp] theorem exec_pairRenewSend (s : State) :
    exec (.pairRenewSend) s = execPairRenewSend s := rfl
@[simp] theorem exec_pairRenewAckReceive (p : Port) (m : PairMsg) (s : State) :
    exec (.pairRenewAckReceive p m) s = execPairRenewAckReceive p m s := rfl
@[simp] theorem exec_pairRenewDeadline (s : State) :
    exec (.pairRenewDeadline) s = execPairRenewDeadline s := rfl
@[simp] theorem exec_leaseTimerExpire (s : State) :
    exec (.leaseTimerExpire) s = execLeaseTimerExpire s := rfl
@[simp] theorem exec_leaseInterlock (a : Bool) (b : Bool) (s : State) :
    exec (.leaseInterlock a b) s = execLeaseInterlock a b s := rfl
@[simp] theorem exec_leasePinMismatch (s : State) :
    exec (.leasePinMismatch) s = execLeasePinMismatch s := rfl
@[simp] theorem exec_pairClaim (s : State) :
    exec (.pairClaim) s = execPairClaim s := rfl
@[simp] theorem exec_pairClaimTimeout (s : State) :
    exec (.pairClaimTimeout) s = execPairClaimTimeout s := rfl
@[simp] theorem exec_pairGrantReceive (p : Port) (m : PairMsg) (s : State) :
    exec (.pairGrantReceive p m) s = execPairGrantReceive p m s := rfl
@[simp] theorem exec_pairRefuseReceive (p : Port) (m : PairMsg) (s : State) :
    exec (.pairRefuseReceive p m) s = execPairRefuseReceive p m s := rfl
@[simp] theorem exec_witnessRenew (p : Port) (m : PairMsg) (s : State) :
    exec (.witnessRenew p m) s = execWitnessRenew p m s := rfl
@[simp] theorem exec_witnessClaim (p : Port) (m : PairMsg) (s : State) :
    exec (.witnessClaim p m) s = execWitnessClaim p m s := rfl
@[simp] theorem exec_witnessClaimGrant (a : Fin 256) (b : Fin 256) (s : State) :
    exec (.witnessClaimGrant a b) s = execWitnessClaimGrant a b s := rfl
@[simp] theorem exec_witnessRelease (p : Port) (m : PairMsg) (s : State) :
    exec (.witnessRelease p m) s = execWitnessRelease p m s := rfl
@[simp] theorem exec_pairRelease (m : Master) (s : State) :
    exec (.pairRelease m) s = execPairRelease m s := rfl
@[simp] theorem exec_pairReleaseReceive (p : Port) (m : PairMsg) (s : State) :
    exec (.pairReleaseReceive p m) s = execPairReleaseReceive p m s := rfl
@[simp] theorem exec_pairHoldOff (m : Master) (s : State) :
    exec (.pairHoldOff m) s = execPairHoldOff m s := rfl
@[simp] theorem exec_pairAllowClaims (m : Master) (s : State) :
    exec (.pairAllowClaims m) s = execPairAllowClaims m s := rfl
@[simp] theorem exec_pairDigestSend (s : State) :
    exec (.pairDigestSend) s = execPairDigestSend s := rfl
@[simp] theorem exec_pairDigestReceive (p : Port) (m : PairMsg) (w : Nat) (n : Region) (entries : List (Nat × Nat × Bool × Nat)) (s : State) :
    exec (.pairDigestReceive p m w n entries) s = execPairDigestReceive p m w n entries s := rfl
@[simp] theorem exec_pairCompareStage (q : Port) (own : List (Nat × Nat × Nat)) (partner : List BlockSum) (decisions : List (Nat × List (BitVec 8))) (partnerFault : Bool) (rows : List SyncRec) (s : State) :
    exec (.pairCompareStage q own partner decisions partnerFault rows) s = execPairCompareStage q own partner decisions partnerFault rows s := rfl
@[simp] theorem exec_pairSampleReceive (p : Port) (m : PairMsg) (q : Port) (len : Nat) (w : Nat) (aut : Nat) (bytes : List (BitVec 8)) (s : State) :
    exec (.pairSampleReceive p m q len w aut bytes) s = execPairSampleReceive p m q len w aut bytes s := rfl
@[simp] theorem exec_pairResync (rows : List SyncRec) (s : State) :
    exec (.pairResync rows) s = execPairResync rows s := rfl
@[simp] theorem exec_pairResyncDone (s : State) :
    exec (.pairResyncDone) s = execPairResyncDone s := rfl
@[simp] theorem exec_pairSyncRecord (p : Port) (m : PairMsg) (rec_ : SyncRec) (s : State) :
    exec (.pairSyncRecord p m rec_) s = execPairSyncRecord p m rec_ s := rfl
@[simp] theorem exec_winterSequenceDone (s : State) :
    exec (.winterSequenceDone) s = execWinterSequenceDone s := rfl
@[simp] theorem exec_hltCauseClear (m : Master) (w : BitVec 32) (s : State) :
    exec (.hltCauseClear m w) s = execHltCauseClear m w s := rfl
@[simp] theorem exec_winterExit (m : Master) (spi : Spi) (lost : List (Nat × Nat × Nat)) (s : State) :
    exec (.winterExit m spi lost) s = execWinterExit m spi lost s := rfl
@[simp] theorem exec_winterReq (m : Master) (key : BitVec 8) (req : Bool) (s : State) :
    exec (.winterReq m key req) s = execWinterReq m key req s := rfl
@[simp] theorem exec_watchdogExpired (core : Fin 4) (s : State) :
    exec (.watchdogExpired core) s = execWatchdogExpired core s := rfl
@[simp] theorem exec_monSample (x : MonRead) (s : State) :
    exec (.monSample x) s = execMonSample x s := rfl
@[simp] theorem exec_thermtrip (x : Fin 52) (s : State) :
    exec (.thermtrip x) s = execThermtrip x s := rfl
@[simp] theorem exec_avsUpdate (s : State) :
    exec (.avsUpdate) s = execAvsUpdate s := rfl
@[simp] theorem exec_avsStep (written : Bool) (vout : Option (Fin 1024)) (s : State) :
    exec (.avsStep written vout) s = execAvsStep written vout s := rfl
@[simp] theorem exec_cfgScrub (bad : List (Fin 16777216 × BitVec 32)) (s : State) :
    exec (.cfgScrub bad) s = execCfgScrub bad s := rfl
@[simp] theorem exec_calRegisterWrite (m : Master) (off : Fin 65536) (w : BitVec 32) (s : State) :
    exec (.calRegisterWrite m off w) s = execCalRegisterWrite m off w s := rfl
@[simp] theorem exec_calSave (m : Master) (s : State) :
    exec (.calSave m) s = execCalSave m s := rfl
@[simp] theorem exec_calClearUser (m : Master) (s : State) :
    exec (.calClearUser m) s = execCalClearUser m s := rfl
@[simp] theorem exec_calClearSaved (m : Master) (key : BitVec 8) (s : State) :
    exec (.calClearSaved m key) s = execCalClearSaved m key s := rfl
@[simp] theorem exec_hostLinkUp (speed : Fin 8) (width : Fin 17) (flit : Bool) (s : State) :
    exec (.hostLinkUp speed width flit) s = execHostLinkUp speed width flit s := rfl
@[simp] theorem exec_hostFlr (f : Fin 4) (s : State) :
    exec (.hostFlr f) s = execHostFlr f s := rfl
@[simp] theorem exec_pcieD3hotEnter (f : Fin 4) (s : State) :
    exec (.pcieD3hotEnter f) s = execPcieD3hotEnter f s := rfl
@[simp] theorem exec_pcieD0Return (f : Fin 4) (s : State) :
    exec (.pcieD0Return f) s = execPcieD0Return f s := rfl
@[simp] theorem exec_intPendClear (m : Master) (i : Fin 16) (v : BitVec 32) (s : State) :
    exec (.intPendClear m i v) s = execIntPendClear m i v s := rfl
@[simp] theorem exec_intMaskWrite (m : Master) (i : Fin 16) (v : BitVec 32) (s : State) :
    exec (.intMaskWrite m i v) s = execIntMaskWrite m i v s := rfl
@[simp] theorem exec_ringDoorbell (r : Fin 132) (tail : BitVec 32) (s : State) :
    exec (.ringDoorbell r tail) s = execRingDoorbell r tail s := rfl
@[simp] theorem exec_ringEnable (m : Master) (r : Fin 132) (enable : Bool) (vector : Fin 1024) (s : State) :
    exec (.ringEnable m r enable vector) s = execRingEnable m r enable vector s := rfl
@[simp] theorem exec_ringRestart (m : Master) (r : Fin 132) (s : State) :
    exec (.ringRestart m r) s = execRingRestart m r s := rfl
@[simp] theorem exec_pf1TxFrame (r : Fin 64) (descs : List (List (BitVec 8) × List (BitVec 8))) (rivals : List (Fin 7)) (s : State) :
    exec (.pf1TxFrame r descs rivals) s = execPf1TxFrame r descs rivals s := rfl
@[simp] theorem exec_pf1RxDeliver (descs : List (List (BitVec 8))) (rd : CellRead) (s : State) :
    exec (.pf1RxDeliver descs rd) s = execPf1RxDeliver descs rd s := rfl
@[simp] theorem exec_pf2Read (q : Fin 4) (desc : List (BitVec 8)) (fill : List (BitVec 8)) (reads : List (Nat × RowRead)) (s : State) :
    exec (.pf2Read q desc fill reads) s = execPf2Read q desc fill reads s := rfl
@[simp] theorem exec_msixModerationTimer (r : Fin 132) (s : State) :
    exec (.msixModerationTimer r) s = execMsixModerationTimer r s := rfl
@[simp] theorem exec_hostDmaError (r : Fin 132) (status : Option (Fin 8)) (s : State) :
    exec (.hostDmaError r status) s = execHostDmaError r status s := rfl
@[simp] theorem exec_hostPoisonedWrite (f : Fin 4) (off : BitVec 24) (s : State) :
    exec (.hostPoisonedWrite f off) s = execHostPoisonedWrite f off s := rfl
@[simp] theorem exec_registerWrite (m : Master) (bar2 : Bool) (off : Fin 16777216) (form : BusForm) (data : List (BitVec 32)) (env : WriteEnv) (s : State) :
    exec (.registerWrite m bar2 off form data env) s = execRegisterWrite m bar2 off form data env s := rfl
@[simp] theorem exec_indAddrWrite (m : Master) (n : Region) (w : BitVec 32) (s : State) :
    exec (.indAddrWrite m n w) s = execIndAddrWrite m n w s := rfl
@[simp] theorem exec_indFetchDone (m : Master) (n : Region) (s : State) :
    exec (.indFetchDone m n) s = execIndFetchDone m n s := rfl
@[simp] theorem exec_indDataReadAdvance (m : Master) (n : Region) (s : State) :
    exec (.indDataReadAdvance m n) s = execIndDataReadAdvance m n s := rfl
@[simp] theorem exec_indCmdGo (m : Master) (n : Region) (count : Fin 32) (s : State) :
    exec (.indCmdGo m n count) s = execIndCmdGo m n count s := rfl
@[simp] theorem exec_indWriteDone (m : Master) (n : Region) (s : State) :
    exec (.indWriteDone m n) s = execIndWriteDone m n s := rfl
@[simp] theorem exec_glbHifSelect (m : Master) (major : Fin 256) (minor : Fin 256) (s : State) :
    exec (.glbHifSelect m major minor) s = execGlbHifSelect m major minor s := rfl
@[simp] theorem exec_glbFuseCommit (m : Master) (s : State) :
    exec (.glbFuseCommit m) s = execGlbFuseCommit m s := rfl
@[simp] theorem exec_smbusSetAddr (count : Fin 256) (addr : BitVec 32) (pecOk : Bool) (s : State) :
    exec (.smbusSetAddr count addr pecOk) s = execSmbusSetAddr count addr pecOk s := rfl
@[simp] theorem exec_smbusRead (s : State) :
    exec (.smbusRead) s = execSmbusRead s := rfl
@[simp] theorem exec_smbusWrite (count : Fin 256) (w : BitVec 32) (pecOk : Bool) (env : WriteEnv) (s : State) :
    exec (.smbusWrite count w pecOk env) s = execSmbusWrite count w pecOk env s := rfl
@[simp] theorem exec_smbusStatus (s : State) :
    exec (.smbusStatus) s = execSmbusStatus s := rfl
@[simp] theorem exec_smbusTimeout (s : State) :
    exec (.smbusTimeout) s = execSmbusTimeout s := rfl
@[simp] theorem exec_lockAcquireRead (m : Master) (i : Fin 64) (s : State) :
    exec (.lockAcquireRead m i) s = execLockAcquireRead m i s := rfl
@[simp] theorem exec_lockReleaseWrite (m : Master) (i : Fin 64) (v : Fin 16) (s : State) :
    exec (.lockReleaseWrite m i v) s = execLockReleaseWrite m i v s := rfl
@[simp] theorem exec_mbxH2fPost (m : Master) (pair : Fin 8) (s : State) :
    exec (.mbxH2fPost m pair) s = execMbxH2fPost m pair s := rfl
@[simp] theorem exec_mbxH2fTake (pair : Fin 8) (s : State) :
    exec (.mbxH2fTake pair) s = execMbxH2fTake pair s := rfl
@[simp] theorem exec_mbxF2hDeliver (pair : Fin 8) (s : State) :
    exec (.mbxF2hDeliver pair) s = execMbxF2hDeliver pair s := rfl
@[simp] theorem exec_mbxF2hAck (m : Master) (pair : Fin 8) (s : State) :
    exec (.mbxF2hAck m pair) s = execMbxF2hAck m pair s := rfl
@[simp] theorem exec_mbxGetInfo (pair : Fin 8) (s : State) :
    exec (.mbxGetInfo pair) s = execMbxGetInfo pair s := rfl
@[simp] theorem exec_mbxEcho (pair : Fin 8) (s : State) :
    exec (.mbxEcho pair) s = execMbxEcho pair s := rfl
@[simp] theorem exec_mbxEvrFlush (pair : Fin 8) (s : State) :
    exec (.mbxEvrFlush pair) s = execMbxEvrFlush pair s := rfl
@[simp] theorem exec_mbxChallenge (pair : Fin 8) (s : State) :
    exec (.mbxChallenge pair) s = execMbxChallenge pair s := rfl
@[simp] theorem exec_mbxEvrClear (pair : Fin 8) (s : State) :
    exec (.mbxEvrClear pair) s = execMbxEvrClear pair s := rfl
@[simp] theorem exec_mbxGetIdKey (pair : Fin 8) (s : State) :
    exec (.mbxGetIdKey pair) s = execMbxGetIdKey pair s := rfl
@[simp] theorem exec_mbxAttest (pair : Fin 8) (s : State) :
    exec (.mbxAttest pair) s = execMbxAttest pair s := rfl
@[simp] theorem exec_mbxFuseOwnerKey (pair : Fin 8) (readback : Bool) (s : State) :
    exec (.mbxFuseOwnerKey pair readback) s = execMbxFuseOwnerKey pair readback s := rfl
@[simp] theorem exec_mbxWitnessReply (s : State) :
    exec (.mbxWitnessReply) s = execMbxWitnessReply s := rfl
@[simp] theorem exec_challengeExpire (m : Master) (purpose : Fin 3) (s : State) :
    exec (.challengeExpire m purpose) s = execChallengeExpire m purpose s := rfl
@[simp] theorem exec_credHoldoffEnd (s : State) :
    exec (.credHoldoffEnd) s = execCredHoldoffEnd s := rfl
@[simp] theorem exec_doorbellEvrFlush (s : State) :
    exec (.doorbellEvrFlush) s = execDoorbellEvrFlush s := rfl
@[simp] theorem exec_doorbellHostAlive (s : State) :
    exec (.doorbellHostAlive) s = execDoorbellHostAlive s := rfl
@[simp] theorem exec_evrFlushTimer (s : State) :
    exec (.evrFlushTimer) s = execEvrFlushTimer s := rfl
@[simp] theorem exec_evrCtrlFlush (m : Master) (s : State) :
    exec (.evrCtrlFlush m) s = execEvrCtrlFlush m s := rfl
@[simp] theorem exec_evrFlushErrorTrigger (s : State) :
    exec (.evrFlushErrorTrigger) s = execEvrFlushErrorTrigger s := rfl
@[simp] theorem exec_evrFlushDone (bad : List (Fin 4096)) (s : State) :
    exec (.evrFlushDone bad) s = execEvrFlushDone bad s := rfl
@[simp] theorem exec_evrFreeze (m : Master) (s : State) :
    exec (.evrFreeze m) s = execEvrFreeze m s := rfl
@[simp] theorem exec_evrThaw (m : Master) (s : State) :
    exec (.evrThaw m) s = execEvrThaw m s := rfl
@[simp] theorem exec_evrFreezeAutoRelease (s : State) :
    exec (.evrFreezeAutoRelease) s = execEvrFreezeAutoRelease s := rfl
@[simp] theorem exec_evrEraseDone (s : State) :
    exec (.evrEraseDone) s = execEvrEraseDone s := rfl
@[simp] theorem exec_evrUnanchored (s : State) :
    exec (.evrUnanchored) s = execEvrUnanchored s := rfl
@[simp] theorem exec_evrStageSeqWrite (m : Master) (seq : BitVec 32) (s : State) :
    exec (.evrStageSeqWrite m seq) s = execEvrStageSeqWrite m seq s := rfl
@[simp] theorem exec_evrStageRelease (m : Master) (seq : BitVec 32) (s : State) :
    exec (.evrStageRelease m seq) s = execEvrStageRelease m seq s := rfl
@[simp] theorem exec_pmcStartAll (m : Master) (s : State) :
    exec (.pmcStartAll m) s = execPmcStartAll m s := rfl
@[simp] theorem exec_pmcStopAll (m : Master) (s : State) :
    exec (.pmcStopAll m) s = execPmcStopAll m s := rfl
@[simp] theorem exec_pmcClrAll (m : Master) (s : State) :
    exec (.pmcClrAll m) s = execPmcClrAll m s := rfl
@[simp] theorem exec_pmcSnap (m : Master) (s : State) :
    exec (.pmcSnap m) s = execPmcSnap m s := rfl
@[simp] theorem exec_pmcMonitorClr (m : Master) (n : Fin 6) (en : Bool) (s : State) :
    exec (.pmcMonitorClr m n en) s = execPmcMonitorClr m n en s := rfl
@[simp] theorem exec_pmcSelWrite (m : Master) (n : Fin 6) (c : Fin 8) (chain : Bool) (qual : Fin 256) (ev : Fin 1024) (s : State) :
    exec (.pmcSelWrite m n c chain qual ev) s = execPmcSelWrite m n c chain qual ev s := rfl
@[simp] theorem exec_pmcBwWindowEnd (s : State) :
    exec (.pmcBwWindowEnd) s = execPmcBwWindowEnd s := rfl
@[simp] theorem exec_pmcBwWindowWrite (m : Master) (us : BitVec 32) (s : State) :
    exec (.pmcBwWindowWrite m us) s = execPmcBwWindowWrite m us s := rfl
@[simp] theorem exec_pmcBwClrPeak (m : Master) (s : State) :
    exec (.pmcBwClrPeak m) s = execPmcBwClrPeak m s := rfl
@[simp] theorem exec_jtagInstruction (scan : Bool) (s : State) :
    exec (.jtagInstruction scan) s = execJtagInstruction scan s := rfl
@[simp] theorem exec_fatalDieFault (mgmt : Bool) (s : State) :
    exec (.fatalDieFault mgmt) s = execFatalDieFault mgmt s := rfl
@[simp] theorem exec_powerLost (s : State) :
    exec (.powerLost) s = execPowerLost s := rfl
@[simp] theorem exec_internalResetRelease (sel : Fin 8) (s : State) :
    exec (.internalResetRelease sel) s = execInternalResetRelease sel s := rfl
@[simp] theorem exec_bootStartAfterPfail (s : State) :
    exec (.bootStartAfterPfail) s = execBootStartAfterPfail s := rfl
@[simp] theorem exec_rxLpiChange (l : Lane) (on : Bool) (s : State) :
    exec (.rxLpiChange l on) s = execRxLpiChange l on s := rfl
@[simp] theorem exec_pairDigestTimeout (w : Nat) (n : Region) (s : State) :
    exec (.pairDigestTimeout w n) s = execPairDigestTimeout w n s := rfl
@[simp] theorem exec_pairLinkIsolateEnd (p : Port) (s : State) :
    exec (.pairLinkIsolateEnd p) s = execPairLinkIsolateEnd p s := rfl
@[simp] theorem exec_coreRestartDone (core : Fin 4) (s : State) :
    exec (.coreRestartDone core) s = execCoreRestartDone core s := rfl
@[simp] theorem exec_mbxUnknownOpcode (pair : Fin 8) (s : State) :
    exec (.mbxUnknownOpcode pair) s = execMbxUnknownOpcode pair s := rfl
@[simp] theorem exec_smbusUndefinedCommand (s : State) :
    exec (.smbusUndefinedCommand) s = execSmbusUndefinedCommand s := rfl
@[simp] theorem exec_timAdjRefused (m : Master) (op : Fin 8) (s : State) :
    exec (.timAdjRefused m op) s = execTimAdjRefused m op s := rfl
@[simp] theorem exec_registerRead (m : Master) (bar2 : Bool) (off : Fin 16777216) (form : BusForm) (s : State) :
    exec (.registerRead m bar2 off form) s = execRegisterRead m bar2 off form s := rfl
@[simp] theorem exec_lldpReceive (p : Port) (tlv : Option (Fin 65536)) (s : State) :
    exec (.lldpReceive p tlv) s = execLldpReceive p tlv s := rfl
@[simp] theorem exec_ptpMessageSend (p : Port) (type : Fin 16) (twoStep : Bool) (req : Nat) (s : State) :
    exec (.ptpMessageSend p type twoStep req) s = execPtpMessageSend p type twoStep req s := rfl

end Sys2Proof.Machine
end

