-- ==== Sys2Proof/Laws/State.lean ====
section
/-! SUPPORT. What each update of a field, a counter or an output leaves alone: one lemma per field per update. -/

namespace Sys2Proof.Machine

/-- Every command answers the next state that its effect gives, with the queue as it was. -/
@[simp] theorem State.run_eq (s : State) (f : Dev → Dev) : s.run f = .next { s with dev := f s.dev } := rfl

/-! ### setFld -/

@[simp] theorem Dev.setFld_now (d : Dev) (f : Field) (i j v : Nat) : (d.setFld f i j v).now = d.now := rfl
@[simp] theorem Dev.setFld_ctrs (d : Dev) (f : Field) (i j v : Nat) : (d.setFld f i j v).ctrs = d.ctrs := rfl
@[simp] theorem Dev.setFld_draws (d : Dev) (f : Field) (i j v : Nat) : (d.setFld f i j v).draws = d.draws := rfl
@[simp] theorem Dev.setFld_out (d : Dev) (f : Field) (i j v : Nat) : (d.setFld f i j v).out = d.out := rfl
@[simp] theorem Dev.setFld_evr (d : Dev) (f : Field) (i j v : Nat) : (d.setFld f i j v).evr = d.evr := rfl
@[simp] theorem Dev.setFld_mac (d : Dev) (f : Field) (i j v : Nat) : (d.setFld f i j v).mac = d.mac := rfl
@[simp] theorem Dev.setFld_buf (d : Dev) (f : Field) (i j v : Nat) : (d.setFld f i j v).buf = d.buf := rfl
@[simp] theorem Dev.setFld_tbl (d : Dev) (f : Field) (i j v : Nat) : (d.setFld f i j v).tbl = d.tbl := rfl
@[simp] theorem Dev.setFld_search (d : Dev) (f : Field) (i j v : Nat) : (d.setFld f i j v).search = d.search := rfl
@[simp] theorem Dev.setFld_act (d : Dev) (f : Field) (i j v : Nat) : (d.setFld f i j v).act = d.act := rfl
@[simp] theorem Dev.setFld_hld (d : Dev) (f : Field) (i j v : Nat) : (d.setFld f i j v).hld = d.hld := rfl
@[simp] theorem Dev.setFld_tim (d : Dev) (f : Field) (i j v : Nat) : (d.setFld f i j v).tim = d.tim := rfl
@[simp] theorem Dev.setFld_opBase (d : Dev) (f : Field) (i j v : Nat) : (d.setFld f i j v).opBase = d.opBase := rfl
@[simp] theorem Dev.setFld_flits (d : Dev) (f : Field) (i j v : Nat) : (d.setFld f i j v).flits = d.flits := rfl
@[simp] theorem Dev.setFld_pins (d : Dev) (f : Field) (i j v : Nat) : (d.setFld f i j v).pins = d.pins := rfl
@[simp] theorem Dev.setFld_boot (d : Dev) (f : Field) (i j v : Nat) : (d.setFld f i j v).boot = d.boot := rfl
@[simp] theorem Dev.setFld_hlt (d : Dev) (f : Field) (i j v : Nat) : (d.setFld f i j v).hlt = d.hlt := rfl
@[simp] theorem Dev.setFld_img (d : Dev) (f : Field) (i j v : Nat) : (d.setFld f i j v).img = d.img := rfl
@[simp] theorem Dev.setFld_fab (d : Dev) (f : Field) (i j v : Nat) : (d.setFld f i j v).fab = d.fab := rfl
@[simp] theorem Dev.setFld_turns (d : Dev) (f : Field) (i j v : Nat) : (d.setFld f i j v).turns = d.turns := rfl
@[simp] theorem Dev.setFld_wires (d : Dev) (f : Field) (i j v : Nat) : (d.setFld f i j v).wires = d.wires := rfl
@[simp] theorem Dev.setFld_pair (d : Dev) (f : Field) (i j v : Nat) : (d.setFld f i j v).pair = d.pair := rfl
@[simp] theorem Dev.setFld_words (d : Dev) (f : Field) (i j v : Nat) : (d.setFld f i j v).words = d.words := rfl
@[simp] theorem Dev.setFld_host (d : Dev) (f : Field) (i j v : Nat) : (d.setFld f i j v).host = d.host := rfl
@[simp] theorem Dev.setFld_reg (d : Dev) (f : Field) (i j v : Nat) : (d.setFld f i j v).reg = d.reg := rfl
@[simp] theorem Dev.setFld_mbx (d : Dev) (f : Field) (i j v : Nat) : (d.setFld f i j v).mbx = d.mbx := rfl
@[simp] theorem Dev.setFld_pmc (d : Dev) (f : Field) (i j v : Nat) : (d.setFld f i j v).pmc = d.pmc := rfl

/-! ### set0 -/

@[simp] theorem Dev.set0_now (d : Dev) (f : Field) (v : Nat) : (d.set0 f v).now = d.now := rfl
@[simp] theorem Dev.set0_ctrs (d : Dev) (f : Field) (v : Nat) : (d.set0 f v).ctrs = d.ctrs := rfl
@[simp] theorem Dev.set0_draws (d : Dev) (f : Field) (v : Nat) : (d.set0 f v).draws = d.draws := rfl
@[simp] theorem Dev.set0_out (d : Dev) (f : Field) (v : Nat) : (d.set0 f v).out = d.out := rfl
@[simp] theorem Dev.set0_evr (d : Dev) (f : Field) (v : Nat) : (d.set0 f v).evr = d.evr := rfl
@[simp] theorem Dev.set0_mac (d : Dev) (f : Field) (v : Nat) : (d.set0 f v).mac = d.mac := rfl
@[simp] theorem Dev.set0_buf (d : Dev) (f : Field) (v : Nat) : (d.set0 f v).buf = d.buf := rfl
@[simp] theorem Dev.set0_tbl (d : Dev) (f : Field) (v : Nat) : (d.set0 f v).tbl = d.tbl := rfl
@[simp] theorem Dev.set0_search (d : Dev) (f : Field) (v : Nat) : (d.set0 f v).search = d.search := rfl
@[simp] theorem Dev.set0_act (d : Dev) (f : Field) (v : Nat) : (d.set0 f v).act = d.act := rfl
@[simp] theorem Dev.set0_hld (d : Dev) (f : Field) (v : Nat) : (d.set0 f v).hld = d.hld := rfl
@[simp] theorem Dev.set0_tim (d : Dev) (f : Field) (v : Nat) : (d.set0 f v).tim = d.tim := rfl
@[simp] theorem Dev.set0_opBase (d : Dev) (f : Field) (v : Nat) : (d.set0 f v).opBase = d.opBase := rfl
@[simp] theorem Dev.set0_flits (d : Dev) (f : Field) (v : Nat) : (d.set0 f v).flits = d.flits := rfl
@[simp] theorem Dev.set0_pins (d : Dev) (f : Field) (v : Nat) : (d.set0 f v).pins = d.pins := rfl
@[simp] theorem Dev.set0_boot (d : Dev) (f : Field) (v : Nat) : (d.set0 f v).boot = d.boot := rfl
@[simp] theorem Dev.set0_hlt (d : Dev) (f : Field) (v : Nat) : (d.set0 f v).hlt = d.hlt := rfl
@[simp] theorem Dev.set0_img (d : Dev) (f : Field) (v : Nat) : (d.set0 f v).img = d.img := rfl
@[simp] theorem Dev.set0_fab (d : Dev) (f : Field) (v : Nat) : (d.set0 f v).fab = d.fab := rfl
@[simp] theorem Dev.set0_turns (d : Dev) (f : Field) (v : Nat) : (d.set0 f v).turns = d.turns := rfl
@[simp] theorem Dev.set0_wires (d : Dev) (f : Field) (v : Nat) : (d.set0 f v).wires = d.wires := rfl
@[simp] theorem Dev.set0_pair (d : Dev) (f : Field) (v : Nat) : (d.set0 f v).pair = d.pair := rfl
@[simp] theorem Dev.set0_words (d : Dev) (f : Field) (v : Nat) : (d.set0 f v).words = d.words := rfl
@[simp] theorem Dev.set0_host (d : Dev) (f : Field) (v : Nat) : (d.set0 f v).host = d.host := rfl
@[simp] theorem Dev.set0_reg (d : Dev) (f : Field) (v : Nat) : (d.set0 f v).reg = d.reg := rfl
@[simp] theorem Dev.set0_mbx (d : Dev) (f : Field) (v : Nat) : (d.set0 f v).mbx = d.mbx := rfl
@[simp] theorem Dev.set0_pmc (d : Dev) (f : Field) (v : Nat) : (d.set0 f v).pmc = d.pmc := rfl

/-! ### set1 -/

@[simp] theorem Dev.set1_now (d : Dev) (f : Field) (i v : Nat) : (d.set1 f i v).now = d.now := rfl
@[simp] theorem Dev.set1_ctrs (d : Dev) (f : Field) (i v : Nat) : (d.set1 f i v).ctrs = d.ctrs := rfl
@[simp] theorem Dev.set1_draws (d : Dev) (f : Field) (i v : Nat) : (d.set1 f i v).draws = d.draws := rfl
@[simp] theorem Dev.set1_out (d : Dev) (f : Field) (i v : Nat) : (d.set1 f i v).out = d.out := rfl
@[simp] theorem Dev.set1_evr (d : Dev) (f : Field) (i v : Nat) : (d.set1 f i v).evr = d.evr := rfl
@[simp] theorem Dev.set1_mac (d : Dev) (f : Field) (i v : Nat) : (d.set1 f i v).mac = d.mac := rfl
@[simp] theorem Dev.set1_buf (d : Dev) (f : Field) (i v : Nat) : (d.set1 f i v).buf = d.buf := rfl
@[simp] theorem Dev.set1_tbl (d : Dev) (f : Field) (i v : Nat) : (d.set1 f i v).tbl = d.tbl := rfl
@[simp] theorem Dev.set1_search (d : Dev) (f : Field) (i v : Nat) : (d.set1 f i v).search = d.search := rfl
@[simp] theorem Dev.set1_act (d : Dev) (f : Field) (i v : Nat) : (d.set1 f i v).act = d.act := rfl
@[simp] theorem Dev.set1_hld (d : Dev) (f : Field) (i v : Nat) : (d.set1 f i v).hld = d.hld := rfl
@[simp] theorem Dev.set1_tim (d : Dev) (f : Field) (i v : Nat) : (d.set1 f i v).tim = d.tim := rfl
@[simp] theorem Dev.set1_opBase (d : Dev) (f : Field) (i v : Nat) : (d.set1 f i v).opBase = d.opBase := rfl
@[simp] theorem Dev.set1_flits (d : Dev) (f : Field) (i v : Nat) : (d.set1 f i v).flits = d.flits := rfl
@[simp] theorem Dev.set1_pins (d : Dev) (f : Field) (i v : Nat) : (d.set1 f i v).pins = d.pins := rfl
@[simp] theorem Dev.set1_boot (d : Dev) (f : Field) (i v : Nat) : (d.set1 f i v).boot = d.boot := rfl
@[simp] theorem Dev.set1_hlt (d : Dev) (f : Field) (i v : Nat) : (d.set1 f i v).hlt = d.hlt := rfl
@[simp] theorem Dev.set1_img (d : Dev) (f : Field) (i v : Nat) : (d.set1 f i v).img = d.img := rfl
@[simp] theorem Dev.set1_fab (d : Dev) (f : Field) (i v : Nat) : (d.set1 f i v).fab = d.fab := rfl
@[simp] theorem Dev.set1_turns (d : Dev) (f : Field) (i v : Nat) : (d.set1 f i v).turns = d.turns := rfl
@[simp] theorem Dev.set1_wires (d : Dev) (f : Field) (i v : Nat) : (d.set1 f i v).wires = d.wires := rfl
@[simp] theorem Dev.set1_pair (d : Dev) (f : Field) (i v : Nat) : (d.set1 f i v).pair = d.pair := rfl
@[simp] theorem Dev.set1_words (d : Dev) (f : Field) (i v : Nat) : (d.set1 f i v).words = d.words := rfl
@[simp] theorem Dev.set1_host (d : Dev) (f : Field) (i v : Nat) : (d.set1 f i v).host = d.host := rfl
@[simp] theorem Dev.set1_reg (d : Dev) (f : Field) (i v : Nat) : (d.set1 f i v).reg = d.reg := rfl
@[simp] theorem Dev.set1_mbx (d : Dev) (f : Field) (i v : Nat) : (d.set1 f i v).mbx = d.mbx := rfl
@[simp] theorem Dev.set1_pmc (d : Dev) (f : Field) (i v : Nat) : (d.set1 f i v).pmc = d.pmc := rfl

/-! ### setBit -/

@[simp] theorem Dev.setBit_now (d : Dev) (f : Field) (i b : Nat) (v : Bool) : (d.setBit f i b v).now = d.now := rfl
@[simp] theorem Dev.setBit_ctrs (d : Dev) (f : Field) (i b : Nat) (v : Bool) : (d.setBit f i b v).ctrs = d.ctrs := rfl
@[simp] theorem Dev.setBit_draws (d : Dev) (f : Field) (i b : Nat) (v : Bool) : (d.setBit f i b v).draws = d.draws := rfl
@[simp] theorem Dev.setBit_out (d : Dev) (f : Field) (i b : Nat) (v : Bool) : (d.setBit f i b v).out = d.out := rfl
@[simp] theorem Dev.setBit_evr (d : Dev) (f : Field) (i b : Nat) (v : Bool) : (d.setBit f i b v).evr = d.evr := rfl
@[simp] theorem Dev.setBit_mac (d : Dev) (f : Field) (i b : Nat) (v : Bool) : (d.setBit f i b v).mac = d.mac := rfl
@[simp] theorem Dev.setBit_buf (d : Dev) (f : Field) (i b : Nat) (v : Bool) : (d.setBit f i b v).buf = d.buf := rfl
@[simp] theorem Dev.setBit_tbl (d : Dev) (f : Field) (i b : Nat) (v : Bool) : (d.setBit f i b v).tbl = d.tbl := rfl
@[simp] theorem Dev.setBit_search (d : Dev) (f : Field) (i b : Nat) (v : Bool) : (d.setBit f i b v).search = d.search := rfl
@[simp] theorem Dev.setBit_act (d : Dev) (f : Field) (i b : Nat) (v : Bool) : (d.setBit f i b v).act = d.act := rfl
@[simp] theorem Dev.setBit_hld (d : Dev) (f : Field) (i b : Nat) (v : Bool) : (d.setBit f i b v).hld = d.hld := rfl
@[simp] theorem Dev.setBit_tim (d : Dev) (f : Field) (i b : Nat) (v : Bool) : (d.setBit f i b v).tim = d.tim := rfl
@[simp] theorem Dev.setBit_opBase (d : Dev) (f : Field) (i b : Nat) (v : Bool) : (d.setBit f i b v).opBase = d.opBase := rfl
@[simp] theorem Dev.setBit_flits (d : Dev) (f : Field) (i b : Nat) (v : Bool) : (d.setBit f i b v).flits = d.flits := rfl
@[simp] theorem Dev.setBit_pins (d : Dev) (f : Field) (i b : Nat) (v : Bool) : (d.setBit f i b v).pins = d.pins := rfl
@[simp] theorem Dev.setBit_boot (d : Dev) (f : Field) (i b : Nat) (v : Bool) : (d.setBit f i b v).boot = d.boot := rfl
@[simp] theorem Dev.setBit_hlt (d : Dev) (f : Field) (i b : Nat) (v : Bool) : (d.setBit f i b v).hlt = d.hlt := rfl
@[simp] theorem Dev.setBit_img (d : Dev) (f : Field) (i b : Nat) (v : Bool) : (d.setBit f i b v).img = d.img := rfl
@[simp] theorem Dev.setBit_fab (d : Dev) (f : Field) (i b : Nat) (v : Bool) : (d.setBit f i b v).fab = d.fab := rfl
@[simp] theorem Dev.setBit_turns (d : Dev) (f : Field) (i b : Nat) (v : Bool) : (d.setBit f i b v).turns = d.turns := rfl
@[simp] theorem Dev.setBit_wires (d : Dev) (f : Field) (i b : Nat) (v : Bool) : (d.setBit f i b v).wires = d.wires := rfl
@[simp] theorem Dev.setBit_pair (d : Dev) (f : Field) (i b : Nat) (v : Bool) : (d.setBit f i b v).pair = d.pair := rfl
@[simp] theorem Dev.setBit_words (d : Dev) (f : Field) (i b : Nat) (v : Bool) : (d.setBit f i b v).words = d.words := rfl
@[simp] theorem Dev.setBit_host (d : Dev) (f : Field) (i b : Nat) (v : Bool) : (d.setBit f i b v).host = d.host := rfl
@[simp] theorem Dev.setBit_reg (d : Dev) (f : Field) (i b : Nat) (v : Bool) : (d.setBit f i b v).reg = d.reg := rfl
@[simp] theorem Dev.setBit_mbx (d : Dev) (f : Field) (i b : Nat) (v : Bool) : (d.setBit f i b v).mbx = d.mbx := rfl
@[simp] theorem Dev.setBit_pmc (d : Dev) (f : Field) (i b : Nat) (v : Bool) : (d.setBit f i b v).pmc = d.pmc := rfl

/-! ### satInc -/

@[simp] theorem Dev.satInc_now (d : Dev) (f : Field) (i j n : Nat) : (d.satInc f i j n).now = d.now := rfl
@[simp] theorem Dev.satInc_ctrs (d : Dev) (f : Field) (i j n : Nat) : (d.satInc f i j n).ctrs = d.ctrs := rfl
@[simp] theorem Dev.satInc_draws (d : Dev) (f : Field) (i j n : Nat) : (d.satInc f i j n).draws = d.draws := rfl
@[simp] theorem Dev.satInc_out (d : Dev) (f : Field) (i j n : Nat) : (d.satInc f i j n).out = d.out := rfl
@[simp] theorem Dev.satInc_evr (d : Dev) (f : Field) (i j n : Nat) : (d.satInc f i j n).evr = d.evr := rfl
@[simp] theorem Dev.satInc_mac (d : Dev) (f : Field) (i j n : Nat) : (d.satInc f i j n).mac = d.mac := rfl
@[simp] theorem Dev.satInc_buf (d : Dev) (f : Field) (i j n : Nat) : (d.satInc f i j n).buf = d.buf := rfl
@[simp] theorem Dev.satInc_tbl (d : Dev) (f : Field) (i j n : Nat) : (d.satInc f i j n).tbl = d.tbl := rfl
@[simp] theorem Dev.satInc_search (d : Dev) (f : Field) (i j n : Nat) : (d.satInc f i j n).search = d.search := rfl
@[simp] theorem Dev.satInc_act (d : Dev) (f : Field) (i j n : Nat) : (d.satInc f i j n).act = d.act := rfl
@[simp] theorem Dev.satInc_hld (d : Dev) (f : Field) (i j n : Nat) : (d.satInc f i j n).hld = d.hld := rfl
@[simp] theorem Dev.satInc_tim (d : Dev) (f : Field) (i j n : Nat) : (d.satInc f i j n).tim = d.tim := rfl
@[simp] theorem Dev.satInc_opBase (d : Dev) (f : Field) (i j n : Nat) : (d.satInc f i j n).opBase = d.opBase := rfl
@[simp] theorem Dev.satInc_flits (d : Dev) (f : Field) (i j n : Nat) : (d.satInc f i j n).flits = d.flits := rfl
@[simp] theorem Dev.satInc_pins (d : Dev) (f : Field) (i j n : Nat) : (d.satInc f i j n).pins = d.pins := rfl
@[simp] theorem Dev.satInc_boot (d : Dev) (f : Field) (i j n : Nat) : (d.satInc f i j n).boot = d.boot := rfl
@[simp] theorem Dev.satInc_hlt (d : Dev) (f : Field) (i j n : Nat) : (d.satInc f i j n).hlt = d.hlt := rfl
@[simp] theorem Dev.satInc_img (d : Dev) (f : Field) (i j n : Nat) : (d.satInc f i j n).img = d.img := rfl
@[simp] theorem Dev.satInc_fab (d : Dev) (f : Field) (i j n : Nat) : (d.satInc f i j n).fab = d.fab := rfl
@[simp] theorem Dev.satInc_turns (d : Dev) (f : Field) (i j n : Nat) : (d.satInc f i j n).turns = d.turns := rfl
@[simp] theorem Dev.satInc_wires (d : Dev) (f : Field) (i j n : Nat) : (d.satInc f i j n).wires = d.wires := rfl
@[simp] theorem Dev.satInc_pair (d : Dev) (f : Field) (i j n : Nat) : (d.satInc f i j n).pair = d.pair := rfl
@[simp] theorem Dev.satInc_words (d : Dev) (f : Field) (i j n : Nat) : (d.satInc f i j n).words = d.words := rfl
@[simp] theorem Dev.satInc_host (d : Dev) (f : Field) (i j n : Nat) : (d.satInc f i j n).host = d.host := rfl
@[simp] theorem Dev.satInc_reg (d : Dev) (f : Field) (i j n : Nat) : (d.satInc f i j n).reg = d.reg := rfl
@[simp] theorem Dev.satInc_mbx (d : Dev) (f : Field) (i j n : Nat) : (d.satInc f i j n).mbx = d.mbx := rfl
@[simp] theorem Dev.satInc_pmc (d : Dev) (f : Field) (i j n : Nat) : (d.satInc f i j n).pmc = d.pmc := rfl

/-! ### resetFlds -/

@[simp] theorem Dev.resetFlds_now (d : Dev) (p : Nat → Bool) : (d.resetFlds p).now = d.now := rfl
@[simp] theorem Dev.resetFlds_ctrs (d : Dev) (p : Nat → Bool) : (d.resetFlds p).ctrs = d.ctrs := rfl
@[simp] theorem Dev.resetFlds_draws (d : Dev) (p : Nat → Bool) : (d.resetFlds p).draws = d.draws := rfl
@[simp] theorem Dev.resetFlds_out (d : Dev) (p : Nat → Bool) : (d.resetFlds p).out = d.out := rfl
@[simp] theorem Dev.resetFlds_evr (d : Dev) (p : Nat → Bool) : (d.resetFlds p).evr = d.evr := rfl
@[simp] theorem Dev.resetFlds_mac (d : Dev) (p : Nat → Bool) : (d.resetFlds p).mac = d.mac := rfl
@[simp] theorem Dev.resetFlds_buf (d : Dev) (p : Nat → Bool) : (d.resetFlds p).buf = d.buf := rfl
@[simp] theorem Dev.resetFlds_tbl (d : Dev) (p : Nat → Bool) : (d.resetFlds p).tbl = d.tbl := rfl
@[simp] theorem Dev.resetFlds_search (d : Dev) (p : Nat → Bool) : (d.resetFlds p).search = d.search := rfl
@[simp] theorem Dev.resetFlds_act (d : Dev) (p : Nat → Bool) : (d.resetFlds p).act = d.act := rfl
@[simp] theorem Dev.resetFlds_hld (d : Dev) (p : Nat → Bool) : (d.resetFlds p).hld = d.hld := rfl
@[simp] theorem Dev.resetFlds_tim (d : Dev) (p : Nat → Bool) : (d.resetFlds p).tim = d.tim := rfl
@[simp] theorem Dev.resetFlds_opBase (d : Dev) (p : Nat → Bool) : (d.resetFlds p).opBase = d.opBase := rfl
@[simp] theorem Dev.resetFlds_flits (d : Dev) (p : Nat → Bool) : (d.resetFlds p).flits = d.flits := rfl
@[simp] theorem Dev.resetFlds_pins (d : Dev) (p : Nat → Bool) : (d.resetFlds p).pins = d.pins := rfl
@[simp] theorem Dev.resetFlds_boot (d : Dev) (p : Nat → Bool) : (d.resetFlds p).boot = d.boot := rfl
@[simp] theorem Dev.resetFlds_hlt (d : Dev) (p : Nat → Bool) : (d.resetFlds p).hlt = d.hlt := rfl
@[simp] theorem Dev.resetFlds_img (d : Dev) (p : Nat → Bool) : (d.resetFlds p).img = d.img := rfl
@[simp] theorem Dev.resetFlds_fab (d : Dev) (p : Nat → Bool) : (d.resetFlds p).fab = d.fab := rfl
@[simp] theorem Dev.resetFlds_turns (d : Dev) (p : Nat → Bool) : (d.resetFlds p).turns = d.turns := rfl
@[simp] theorem Dev.resetFlds_wires (d : Dev) (p : Nat → Bool) : (d.resetFlds p).wires = d.wires := rfl
@[simp] theorem Dev.resetFlds_pair (d : Dev) (p : Nat → Bool) : (d.resetFlds p).pair = d.pair := rfl
@[simp] theorem Dev.resetFlds_words (d : Dev) (p : Nat → Bool) : (d.resetFlds p).words = d.words := rfl
@[simp] theorem Dev.resetFlds_host (d : Dev) (p : Nat → Bool) : (d.resetFlds p).host = d.host := rfl
@[simp] theorem Dev.resetFlds_reg (d : Dev) (p : Nat → Bool) : (d.resetFlds p).reg = d.reg := rfl
@[simp] theorem Dev.resetFlds_mbx (d : Dev) (p : Nat → Bool) : (d.resetFlds p).mbx = d.mbx := rfl
@[simp] theorem Dev.resetFlds_pmc (d : Dev) (p : Nat → Bool) : (d.resetFlds p).pmc = d.pmc := rfl

/-! ### setCtr -/

@[simp] theorem Dev.setCtr_now (d : Dev) (c : Ctr) (i v : Nat) : (d.setCtr c i v).now = d.now := rfl
@[simp] theorem Dev.setCtr_flds (d : Dev) (c : Ctr) (i v : Nat) : (d.setCtr c i v).flds = d.flds := rfl
@[simp] theorem Dev.setCtr_draws (d : Dev) (c : Ctr) (i v : Nat) : (d.setCtr c i v).draws = d.draws := rfl
@[simp] theorem Dev.setCtr_out (d : Dev) (c : Ctr) (i v : Nat) : (d.setCtr c i v).out = d.out := rfl
@[simp] theorem Dev.setCtr_evr (d : Dev) (c : Ctr) (i v : Nat) : (d.setCtr c i v).evr = d.evr := rfl
@[simp] theorem Dev.setCtr_mac (d : Dev) (c : Ctr) (i v : Nat) : (d.setCtr c i v).mac = d.mac := rfl
@[simp] theorem Dev.setCtr_buf (d : Dev) (c : Ctr) (i v : Nat) : (d.setCtr c i v).buf = d.buf := rfl
@[simp] theorem Dev.setCtr_tbl (d : Dev) (c : Ctr) (i v : Nat) : (d.setCtr c i v).tbl = d.tbl := rfl
@[simp] theorem Dev.setCtr_search (d : Dev) (c : Ctr) (i v : Nat) : (d.setCtr c i v).search = d.search := rfl
@[simp] theorem Dev.setCtr_act (d : Dev) (c : Ctr) (i v : Nat) : (d.setCtr c i v).act = d.act := rfl
@[simp] theorem Dev.setCtr_hld (d : Dev) (c : Ctr) (i v : Nat) : (d.setCtr c i v).hld = d.hld := rfl
@[simp] theorem Dev.setCtr_tim (d : Dev) (c : Ctr) (i v : Nat) : (d.setCtr c i v).tim = d.tim := rfl
@[simp] theorem Dev.setCtr_opBase (d : Dev) (c : Ctr) (i v : Nat) : (d.setCtr c i v).opBase = d.opBase := rfl
@[simp] theorem Dev.setCtr_flits (d : Dev) (c : Ctr) (i v : Nat) : (d.setCtr c i v).flits = d.flits := rfl
@[simp] theorem Dev.setCtr_pins (d : Dev) (c : Ctr) (i v : Nat) : (d.setCtr c i v).pins = d.pins := rfl
@[simp] theorem Dev.setCtr_boot (d : Dev) (c : Ctr) (i v : Nat) : (d.setCtr c i v).boot = d.boot := rfl
@[simp] theorem Dev.setCtr_hlt (d : Dev) (c : Ctr) (i v : Nat) : (d.setCtr c i v).hlt = d.hlt := rfl
@[simp] theorem Dev.setCtr_img (d : Dev) (c : Ctr) (i v : Nat) : (d.setCtr c i v).img = d.img := rfl
@[simp] theorem Dev.setCtr_fab (d : Dev) (c : Ctr) (i v : Nat) : (d.setCtr c i v).fab = d.fab := rfl
@[simp] theorem Dev.setCtr_turns (d : Dev) (c : Ctr) (i v : Nat) : (d.setCtr c i v).turns = d.turns := rfl
@[simp] theorem Dev.setCtr_wires (d : Dev) (c : Ctr) (i v : Nat) : (d.setCtr c i v).wires = d.wires := rfl
@[simp] theorem Dev.setCtr_pair (d : Dev) (c : Ctr) (i v : Nat) : (d.setCtr c i v).pair = d.pair := rfl
@[simp] theorem Dev.setCtr_words (d : Dev) (c : Ctr) (i v : Nat) : (d.setCtr c i v).words = d.words := rfl
@[simp] theorem Dev.setCtr_host (d : Dev) (c : Ctr) (i v : Nat) : (d.setCtr c i v).host = d.host := rfl
@[simp] theorem Dev.setCtr_reg (d : Dev) (c : Ctr) (i v : Nat) : (d.setCtr c i v).reg = d.reg := rfl
@[simp] theorem Dev.setCtr_mbx (d : Dev) (c : Ctr) (i v : Nat) : (d.setCtr c i v).mbx = d.mbx := rfl
@[simp] theorem Dev.setCtr_pmc (d : Dev) (c : Ctr) (i v : Nat) : (d.setCtr c i v).pmc = d.pmc := rfl

/-! ### countN -/

@[simp] theorem Dev.countN_now (d : Dev) (c : Ctr) (i n : Nat) : (d.countN c i n).now = d.now := rfl
@[simp] theorem Dev.countN_flds (d : Dev) (c : Ctr) (i n : Nat) : (d.countN c i n).flds = d.flds := rfl
@[simp] theorem Dev.countN_draws (d : Dev) (c : Ctr) (i n : Nat) : (d.countN c i n).draws = d.draws := rfl
@[simp] theorem Dev.countN_out (d : Dev) (c : Ctr) (i n : Nat) : (d.countN c i n).out = d.out := rfl
@[simp] theorem Dev.countN_evr (d : Dev) (c : Ctr) (i n : Nat) : (d.countN c i n).evr = d.evr := rfl
@[simp] theorem Dev.countN_mac (d : Dev) (c : Ctr) (i n : Nat) : (d.countN c i n).mac = d.mac := rfl
@[simp] theorem Dev.countN_buf (d : Dev) (c : Ctr) (i n : Nat) : (d.countN c i n).buf = d.buf := rfl
@[simp] theorem Dev.countN_tbl (d : Dev) (c : Ctr) (i n : Nat) : (d.countN c i n).tbl = d.tbl := rfl
@[simp] theorem Dev.countN_search (d : Dev) (c : Ctr) (i n : Nat) : (d.countN c i n).search = d.search := rfl
@[simp] theorem Dev.countN_act (d : Dev) (c : Ctr) (i n : Nat) : (d.countN c i n).act = d.act := rfl
@[simp] theorem Dev.countN_hld (d : Dev) (c : Ctr) (i n : Nat) : (d.countN c i n).hld = d.hld := rfl
@[simp] theorem Dev.countN_tim (d : Dev) (c : Ctr) (i n : Nat) : (d.countN c i n).tim = d.tim := rfl
@[simp] theorem Dev.countN_opBase (d : Dev) (c : Ctr) (i n : Nat) : (d.countN c i n).opBase = d.opBase := rfl
@[simp] theorem Dev.countN_flits (d : Dev) (c : Ctr) (i n : Nat) : (d.countN c i n).flits = d.flits := rfl
@[simp] theorem Dev.countN_pins (d : Dev) (c : Ctr) (i n : Nat) : (d.countN c i n).pins = d.pins := rfl
@[simp] theorem Dev.countN_boot (d : Dev) (c : Ctr) (i n : Nat) : (d.countN c i n).boot = d.boot := rfl
@[simp] theorem Dev.countN_hlt (d : Dev) (c : Ctr) (i n : Nat) : (d.countN c i n).hlt = d.hlt := rfl
@[simp] theorem Dev.countN_img (d : Dev) (c : Ctr) (i n : Nat) : (d.countN c i n).img = d.img := rfl
@[simp] theorem Dev.countN_fab (d : Dev) (c : Ctr) (i n : Nat) : (d.countN c i n).fab = d.fab := rfl
@[simp] theorem Dev.countN_turns (d : Dev) (c : Ctr) (i n : Nat) : (d.countN c i n).turns = d.turns := rfl
@[simp] theorem Dev.countN_wires (d : Dev) (c : Ctr) (i n : Nat) : (d.countN c i n).wires = d.wires := rfl
@[simp] theorem Dev.countN_pair (d : Dev) (c : Ctr) (i n : Nat) : (d.countN c i n).pair = d.pair := rfl
@[simp] theorem Dev.countN_words (d : Dev) (c : Ctr) (i n : Nat) : (d.countN c i n).words = d.words := rfl
@[simp] theorem Dev.countN_host (d : Dev) (c : Ctr) (i n : Nat) : (d.countN c i n).host = d.host := rfl
@[simp] theorem Dev.countN_reg (d : Dev) (c : Ctr) (i n : Nat) : (d.countN c i n).reg = d.reg := rfl
@[simp] theorem Dev.countN_mbx (d : Dev) (c : Ctr) (i n : Nat) : (d.countN c i n).mbx = d.mbx := rfl
@[simp] theorem Dev.countN_pmc (d : Dev) (c : Ctr) (i n : Nat) : (d.countN c i n).pmc = d.pmc := rfl

/-! ### count -/

@[simp] theorem Dev.count_now (d : Dev) (c : Ctr) (i : Nat) : (d.count c i).now = d.now := rfl
@[simp] theorem Dev.count_flds (d : Dev) (c : Ctr) (i : Nat) : (d.count c i).flds = d.flds := rfl
@[simp] theorem Dev.count_draws (d : Dev) (c : Ctr) (i : Nat) : (d.count c i).draws = d.draws := rfl
@[simp] theorem Dev.count_out (d : Dev) (c : Ctr) (i : Nat) : (d.count c i).out = d.out := rfl
@[simp] theorem Dev.count_evr (d : Dev) (c : Ctr) (i : Nat) : (d.count c i).evr = d.evr := rfl
@[simp] theorem Dev.count_mac (d : Dev) (c : Ctr) (i : Nat) : (d.count c i).mac = d.mac := rfl
@[simp] theorem Dev.count_buf (d : Dev) (c : Ctr) (i : Nat) : (d.count c i).buf = d.buf := rfl
@[simp] theorem Dev.count_tbl (d : Dev) (c : Ctr) (i : Nat) : (d.count c i).tbl = d.tbl := rfl
@[simp] theorem Dev.count_search (d : Dev) (c : Ctr) (i : Nat) : (d.count c i).search = d.search := rfl
@[simp] theorem Dev.count_act (d : Dev) (c : Ctr) (i : Nat) : (d.count c i).act = d.act := rfl
@[simp] theorem Dev.count_hld (d : Dev) (c : Ctr) (i : Nat) : (d.count c i).hld = d.hld := rfl
@[simp] theorem Dev.count_tim (d : Dev) (c : Ctr) (i : Nat) : (d.count c i).tim = d.tim := rfl
@[simp] theorem Dev.count_opBase (d : Dev) (c : Ctr) (i : Nat) : (d.count c i).opBase = d.opBase := rfl
@[simp] theorem Dev.count_flits (d : Dev) (c : Ctr) (i : Nat) : (d.count c i).flits = d.flits := rfl
@[simp] theorem Dev.count_pins (d : Dev) (c : Ctr) (i : Nat) : (d.count c i).pins = d.pins := rfl
@[simp] theorem Dev.count_boot (d : Dev) (c : Ctr) (i : Nat) : (d.count c i).boot = d.boot := rfl
@[simp] theorem Dev.count_hlt (d : Dev) (c : Ctr) (i : Nat) : (d.count c i).hlt = d.hlt := rfl
@[simp] theorem Dev.count_img (d : Dev) (c : Ctr) (i : Nat) : (d.count c i).img = d.img := rfl
@[simp] theorem Dev.count_fab (d : Dev) (c : Ctr) (i : Nat) : (d.count c i).fab = d.fab := rfl
@[simp] theorem Dev.count_turns (d : Dev) (c : Ctr) (i : Nat) : (d.count c i).turns = d.turns := rfl
@[simp] theorem Dev.count_wires (d : Dev) (c : Ctr) (i : Nat) : (d.count c i).wires = d.wires := rfl
@[simp] theorem Dev.count_pair (d : Dev) (c : Ctr) (i : Nat) : (d.count c i).pair = d.pair := rfl
@[simp] theorem Dev.count_words (d : Dev) (c : Ctr) (i : Nat) : (d.count c i).words = d.words := rfl
@[simp] theorem Dev.count_host (d : Dev) (c : Ctr) (i : Nat) : (d.count c i).host = d.host := rfl
@[simp] theorem Dev.count_reg (d : Dev) (c : Ctr) (i : Nat) : (d.count c i).reg = d.reg := rfl
@[simp] theorem Dev.count_mbx (d : Dev) (c : Ctr) (i : Nat) : (d.count c i).mbx = d.mbx := rfl
@[simp] theorem Dev.count_pmc (d : Dev) (c : Ctr) (i : Nat) : (d.count c i).pmc = d.pmc := rfl

/-! ### clearCtrs -/

@[simp] theorem Dev.clearCtrs_now (d : Dev) (b : CtrBlock) (i : Nat) : (d.clearCtrs b i).now = d.now := rfl
@[simp] theorem Dev.clearCtrs_flds (d : Dev) (b : CtrBlock) (i : Nat) : (d.clearCtrs b i).flds = d.flds := rfl
@[simp] theorem Dev.clearCtrs_draws (d : Dev) (b : CtrBlock) (i : Nat) : (d.clearCtrs b i).draws = d.draws := rfl
@[simp] theorem Dev.clearCtrs_out (d : Dev) (b : CtrBlock) (i : Nat) : (d.clearCtrs b i).out = d.out := rfl
@[simp] theorem Dev.clearCtrs_evr (d : Dev) (b : CtrBlock) (i : Nat) : (d.clearCtrs b i).evr = d.evr := rfl
@[simp] theorem Dev.clearCtrs_mac (d : Dev) (b : CtrBlock) (i : Nat) : (d.clearCtrs b i).mac = d.mac := rfl
@[simp] theorem Dev.clearCtrs_buf (d : Dev) (b : CtrBlock) (i : Nat) : (d.clearCtrs b i).buf = d.buf := rfl
@[simp] theorem Dev.clearCtrs_tbl (d : Dev) (b : CtrBlock) (i : Nat) : (d.clearCtrs b i).tbl = d.tbl := rfl
@[simp] theorem Dev.clearCtrs_search (d : Dev) (b : CtrBlock) (i : Nat) : (d.clearCtrs b i).search = d.search := rfl
@[simp] theorem Dev.clearCtrs_act (d : Dev) (b : CtrBlock) (i : Nat) : (d.clearCtrs b i).act = d.act := rfl
@[simp] theorem Dev.clearCtrs_hld (d : Dev) (b : CtrBlock) (i : Nat) : (d.clearCtrs b i).hld = d.hld := rfl
@[simp] theorem Dev.clearCtrs_tim (d : Dev) (b : CtrBlock) (i : Nat) : (d.clearCtrs b i).tim = d.tim := rfl
@[simp] theorem Dev.clearCtrs_opBase (d : Dev) (b : CtrBlock) (i : Nat) : (d.clearCtrs b i).opBase = d.opBase := rfl
@[simp] theorem Dev.clearCtrs_flits (d : Dev) (b : CtrBlock) (i : Nat) : (d.clearCtrs b i).flits = d.flits := rfl
@[simp] theorem Dev.clearCtrs_pins (d : Dev) (b : CtrBlock) (i : Nat) : (d.clearCtrs b i).pins = d.pins := rfl
@[simp] theorem Dev.clearCtrs_boot (d : Dev) (b : CtrBlock) (i : Nat) : (d.clearCtrs b i).boot = d.boot := rfl
@[simp] theorem Dev.clearCtrs_hlt (d : Dev) (b : CtrBlock) (i : Nat) : (d.clearCtrs b i).hlt = d.hlt := rfl
@[simp] theorem Dev.clearCtrs_img (d : Dev) (b : CtrBlock) (i : Nat) : (d.clearCtrs b i).img = d.img := rfl
@[simp] theorem Dev.clearCtrs_fab (d : Dev) (b : CtrBlock) (i : Nat) : (d.clearCtrs b i).fab = d.fab := rfl
@[simp] theorem Dev.clearCtrs_turns (d : Dev) (b : CtrBlock) (i : Nat) : (d.clearCtrs b i).turns = d.turns := rfl
@[simp] theorem Dev.clearCtrs_wires (d : Dev) (b : CtrBlock) (i : Nat) : (d.clearCtrs b i).wires = d.wires := rfl
@[simp] theorem Dev.clearCtrs_pair (d : Dev) (b : CtrBlock) (i : Nat) : (d.clearCtrs b i).pair = d.pair := rfl
@[simp] theorem Dev.clearCtrs_words (d : Dev) (b : CtrBlock) (i : Nat) : (d.clearCtrs b i).words = d.words := rfl
@[simp] theorem Dev.clearCtrs_host (d : Dev) (b : CtrBlock) (i : Nat) : (d.clearCtrs b i).host = d.host := rfl
@[simp] theorem Dev.clearCtrs_reg (d : Dev) (b : CtrBlock) (i : Nat) : (d.clearCtrs b i).reg = d.reg := rfl
@[simp] theorem Dev.clearCtrs_mbx (d : Dev) (b : CtrBlock) (i : Nat) : (d.clearCtrs b i).mbx = d.mbx := rfl
@[simp] theorem Dev.clearCtrs_pmc (d : Dev) (b : CtrBlock) (i : Nat) : (d.clearCtrs b i).pmc = d.pmc := rfl

/-! ### clearBlock -/

@[simp] theorem Dev.clearBlock_now (d : Dev) (b : CtrBlock) : (d.clearBlock b).now = d.now := rfl
@[simp] theorem Dev.clearBlock_flds (d : Dev) (b : CtrBlock) : (d.clearBlock b).flds = d.flds := rfl
@[simp] theorem Dev.clearBlock_draws (d : Dev) (b : CtrBlock) : (d.clearBlock b).draws = d.draws := rfl
@[simp] theorem Dev.clearBlock_out (d : Dev) (b : CtrBlock) : (d.clearBlock b).out = d.out := rfl
@[simp] theorem Dev.clearBlock_evr (d : Dev) (b : CtrBlock) : (d.clearBlock b).evr = d.evr := rfl
@[simp] theorem Dev.clearBlock_mac (d : Dev) (b : CtrBlock) : (d.clearBlock b).mac = d.mac := rfl
@[simp] theorem Dev.clearBlock_buf (d : Dev) (b : CtrBlock) : (d.clearBlock b).buf = d.buf := rfl
@[simp] theorem Dev.clearBlock_tbl (d : Dev) (b : CtrBlock) : (d.clearBlock b).tbl = d.tbl := rfl
@[simp] theorem Dev.clearBlock_search (d : Dev) (b : CtrBlock) : (d.clearBlock b).search = d.search := rfl
@[simp] theorem Dev.clearBlock_act (d : Dev) (b : CtrBlock) : (d.clearBlock b).act = d.act := rfl
@[simp] theorem Dev.clearBlock_hld (d : Dev) (b : CtrBlock) : (d.clearBlock b).hld = d.hld := rfl
@[simp] theorem Dev.clearBlock_tim (d : Dev) (b : CtrBlock) : (d.clearBlock b).tim = d.tim := rfl
@[simp] theorem Dev.clearBlock_opBase (d : Dev) (b : CtrBlock) : (d.clearBlock b).opBase = d.opBase := rfl
@[simp] theorem Dev.clearBlock_flits (d : Dev) (b : CtrBlock) : (d.clearBlock b).flits = d.flits := rfl
@[simp] theorem Dev.clearBlock_pins (d : Dev) (b : CtrBlock) : (d.clearBlock b).pins = d.pins := rfl
@[simp] theorem Dev.clearBlock_boot (d : Dev) (b : CtrBlock) : (d.clearBlock b).boot = d.boot := rfl
@[simp] theorem Dev.clearBlock_hlt (d : Dev) (b : CtrBlock) : (d.clearBlock b).hlt = d.hlt := rfl
@[simp] theorem Dev.clearBlock_img (d : Dev) (b : CtrBlock) : (d.clearBlock b).img = d.img := rfl
@[simp] theorem Dev.clearBlock_fab (d : Dev) (b : CtrBlock) : (d.clearBlock b).fab = d.fab := rfl
@[simp] theorem Dev.clearBlock_turns (d : Dev) (b : CtrBlock) : (d.clearBlock b).turns = d.turns := rfl
@[simp] theorem Dev.clearBlock_wires (d : Dev) (b : CtrBlock) : (d.clearBlock b).wires = d.wires := rfl
@[simp] theorem Dev.clearBlock_pair (d : Dev) (b : CtrBlock) : (d.clearBlock b).pair = d.pair := rfl
@[simp] theorem Dev.clearBlock_words (d : Dev) (b : CtrBlock) : (d.clearBlock b).words = d.words := rfl
@[simp] theorem Dev.clearBlock_host (d : Dev) (b : CtrBlock) : (d.clearBlock b).host = d.host := rfl
@[simp] theorem Dev.clearBlock_reg (d : Dev) (b : CtrBlock) : (d.clearBlock b).reg = d.reg := rfl
@[simp] theorem Dev.clearBlock_mbx (d : Dev) (b : CtrBlock) : (d.clearBlock b).mbx = d.mbx := rfl
@[simp] theorem Dev.clearBlock_pmc (d : Dev) (b : CtrBlock) : (d.clearBlock b).pmc = d.pmc := rfl

/-! ### emit -/

@[simp] theorem Dev.emit_now (d : Dev) (x : Output) : (d.emit x).now = d.now := rfl
@[simp] theorem Dev.emit_flds (d : Dev) (x : Output) : (d.emit x).flds = d.flds := rfl
@[simp] theorem Dev.emit_ctrs (d : Dev) (x : Output) : (d.emit x).ctrs = d.ctrs := rfl
@[simp] theorem Dev.emit_draws (d : Dev) (x : Output) : (d.emit x).draws = d.draws := rfl
@[simp] theorem Dev.emit_evr (d : Dev) (x : Output) : (d.emit x).evr = d.evr := rfl
@[simp] theorem Dev.emit_mac (d : Dev) (x : Output) : (d.emit x).mac = d.mac := rfl
@[simp] theorem Dev.emit_buf (d : Dev) (x : Output) : (d.emit x).buf = d.buf := rfl
@[simp] theorem Dev.emit_tbl (d : Dev) (x : Output) : (d.emit x).tbl = d.tbl := rfl
@[simp] theorem Dev.emit_search (d : Dev) (x : Output) : (d.emit x).search = d.search := rfl
@[simp] theorem Dev.emit_act (d : Dev) (x : Output) : (d.emit x).act = d.act := rfl
@[simp] theorem Dev.emit_hld (d : Dev) (x : Output) : (d.emit x).hld = d.hld := rfl
@[simp] theorem Dev.emit_tim (d : Dev) (x : Output) : (d.emit x).tim = d.tim := rfl
@[simp] theorem Dev.emit_opBase (d : Dev) (x : Output) : (d.emit x).opBase = d.opBase := rfl
@[simp] theorem Dev.emit_flits (d : Dev) (x : Output) : (d.emit x).flits = d.flits := rfl
@[simp] theorem Dev.emit_pins (d : Dev) (x : Output) : (d.emit x).pins = d.pins := rfl
@[simp] theorem Dev.emit_boot (d : Dev) (x : Output) : (d.emit x).boot = d.boot := rfl
@[simp] theorem Dev.emit_hlt (d : Dev) (x : Output) : (d.emit x).hlt = d.hlt := rfl
@[simp] theorem Dev.emit_img (d : Dev) (x : Output) : (d.emit x).img = d.img := rfl
@[simp] theorem Dev.emit_fab (d : Dev) (x : Output) : (d.emit x).fab = d.fab := rfl
@[simp] theorem Dev.emit_turns (d : Dev) (x : Output) : (d.emit x).turns = d.turns := rfl
@[simp] theorem Dev.emit_wires (d : Dev) (x : Output) : (d.emit x).wires = d.wires := rfl
@[simp] theorem Dev.emit_pair (d : Dev) (x : Output) : (d.emit x).pair = d.pair := rfl
@[simp] theorem Dev.emit_words (d : Dev) (x : Output) : (d.emit x).words = d.words := rfl
@[simp] theorem Dev.emit_host (d : Dev) (x : Output) : (d.emit x).host = d.host := rfl
@[simp] theorem Dev.emit_reg (d : Dev) (x : Output) : (d.emit x).reg = d.reg := rfl
@[simp] theorem Dev.emit_mbx (d : Dev) (x : Output) : (d.emit x).mbx = d.mbx := rfl
@[simp] theorem Dev.emit_pmc (d : Dev) (x : Output) : (d.emit x).pmc = d.pmc := rfl

/-! ### draw -/

@[simp] theorem Dev.draw_fst (d : Dev) : d.draw.1 = Config.free d.draws := rfl
@[simp] theorem Dev.draw_now (d : Dev) : d.draw.2.now = d.now := rfl
@[simp] theorem Dev.draw_flds (d : Dev) : d.draw.2.flds = d.flds := rfl
@[simp] theorem Dev.draw_ctrs (d : Dev) : d.draw.2.ctrs = d.ctrs := rfl
@[simp] theorem Dev.draw_out (d : Dev) : d.draw.2.out = d.out := rfl
@[simp] theorem Dev.draw_evr (d : Dev) : d.draw.2.evr = d.evr := rfl
@[simp] theorem Dev.draw_mac (d : Dev) : d.draw.2.mac = d.mac := rfl
@[simp] theorem Dev.draw_buf (d : Dev) : d.draw.2.buf = d.buf := rfl
@[simp] theorem Dev.draw_tbl (d : Dev) : d.draw.2.tbl = d.tbl := rfl
@[simp] theorem Dev.draw_search (d : Dev) : d.draw.2.search = d.search := rfl
@[simp] theorem Dev.draw_act (d : Dev) : d.draw.2.act = d.act := rfl
@[simp] theorem Dev.draw_hld (d : Dev) : d.draw.2.hld = d.hld := rfl
@[simp] theorem Dev.draw_tim (d : Dev) : d.draw.2.tim = d.tim := rfl
@[simp] theorem Dev.draw_opBase (d : Dev) : d.draw.2.opBase = d.opBase := rfl
@[simp] theorem Dev.draw_flits (d : Dev) : d.draw.2.flits = d.flits := rfl
@[simp] theorem Dev.draw_pins (d : Dev) : d.draw.2.pins = d.pins := rfl
@[simp] theorem Dev.draw_boot (d : Dev) : d.draw.2.boot = d.boot := rfl
@[simp] theorem Dev.draw_hlt (d : Dev) : d.draw.2.hlt = d.hlt := rfl
@[simp] theorem Dev.draw_img (d : Dev) : d.draw.2.img = d.img := rfl
@[simp] theorem Dev.draw_fab (d : Dev) : d.draw.2.fab = d.fab := rfl
@[simp] theorem Dev.draw_turns (d : Dev) : d.draw.2.turns = d.turns := rfl
@[simp] theorem Dev.draw_wires (d : Dev) : d.draw.2.wires = d.wires := rfl
@[simp] theorem Dev.draw_pair (d : Dev) : d.draw.2.pair = d.pair := rfl
@[simp] theorem Dev.draw_words (d : Dev) : d.draw.2.words = d.words := rfl
@[simp] theorem Dev.draw_host (d : Dev) : d.draw.2.host = d.host := rfl
@[simp] theorem Dev.draw_reg (d : Dev) : d.draw.2.reg = d.reg := rfl
@[simp] theorem Dev.draw_mbx (d : Dev) : d.draw.2.mbx = d.mbx := rfl
@[simp] theorem Dev.draw_pmc (d : Dev) : d.draw.2.pmc = d.pmc := rfl
@[simp] theorem Dev.draw_draws (d : Dev) : d.draw.2.draws = d.draws + 1 := rfl

end Sys2Proof.Machine
end

