-- ==== Sys2Proof/Laws/Ops.lean ====
section
/-! SUPPORT. What each shared operation can do: reads after writes of fields and counters, and for the operations that report
(interrupts, performance events, events, failed accesses) everything they leave alone. -/

namespace Sys2Proof.Machine

/-! ### Fields -/

@[simp] theorem Dev.fld_setFld_same (d : Dev) (f : Field) (i j v : Nat) :
    (d.setFld f i j v).fld f i j = v % 2 ^ f.width := by
  simp [Dev.fld, Dev.setFld]

/-- A write of a field leaves every other field and instance alone. -/
theorem Dev.fld_setFld_other (d : Dev) (f g : Field) (i j a b v : Nat) (h : ¬(g.id = f.id ∧ a = i ∧ b = j)) :
    (d.setFld f i j v).fld g a b = d.fld g a b := by
  simp only [Dev.fld, Dev.setFld]
  exact Map.get_set_other _ _ _ _ _ _ (by simpa using h)

theorem Dev.fld_setFld_id (d : Dev) (f g : Field) (i j a b v : Nat) (h : g.id ≠ f.id) :
    (d.setFld f i j v).fld g a b = d.fld g a b := Dev.fld_setFld_other d f g i j a b v (fun x => h x.1)

@[simp] theorem Dev.f0_set0_same (d : Dev) (f : Field) (v : Nat) : (d.set0 f v).f0 f = v % 2 ^ f.width := by
  simp [Dev.f0, Dev.set0]

theorem Dev.b0_set0_same (d : Dev) (f : Field) (v : Nat) : (d.set0 f v).b0 f = decide (v % 2 ^ f.width ≠ 0) := by
  simp [Dev.b0, Dev.set0]

@[simp] theorem Dev.f1_set1_same (d : Dev) (f : Field) (i v : Nat) : (d.set1 f i v).f1 f i = v % 2 ^ f.width := by
  simp [Dev.f1, Dev.set1]

theorem Dev.b1_set1_same (d : Dev) (f : Field) (i v : Nat) : (d.set1 f i v).b1 f i = decide (v % 2 ^ f.width ≠ 0) := by
  simp [Dev.b1, Dev.set1]

theorem Dev.fld_congr (d e : Dev) (f : Field) (i j : Nat) (h : e.flds = d.flds) : e.fld f i j = d.fld f i j := by
  simp [Dev.fld, h]

theorem Dev.ctr_congr (d e : Dev) (c : Ctr) (i : Nat) (h : e.ctrs = d.ctrs) : e.ctr c i = d.ctr c i := by
  simp [Dev.ctr, h]

/-! ### Counters -/

@[simp] theorem Dev.ctr_setCtr_same (d : Dev) (c : Ctr) (i v : Nat) :
    (d.setCtr c i v).ctr c i = v % 2 ^ c.block.width := by
  simp [Dev.ctr, Dev.setCtr]

theorem Dev.ctr_setCtr_other (d : Dev) (c e : Ctr) (i a v : Nat)
    (h : ¬(e.block.ctorIdx = c.block.ctorIdx ∧ a = i ∧ e.k = c.k)) : (d.setCtr c i v).ctr e a = d.ctr e a := by
  simp only [Dev.ctr, Dev.setCtr]
  exact Map.get_set_other _ _ _ _ _ _ (by simpa using h)

@[simp] theorem Dev.ctr_countN_same (d : Dev) (c : Ctr) (i n : Nat) :
    (d.countN c i n).ctr c i = (d.ctr c i + n) % 2 ^ c.block.width := by simp [Dev.countN]

@[simp] theorem Dev.ctr_count_same (d : Dev) (c : Ctr) (i : Nat) :
    (d.count c i).ctr c i = (d.ctr c i + 1) % 2 ^ c.block.width := by simp [Dev.count]

/-! ### Reporting -/

/-- The fields that reporting may write: pending interrupts, the PBA, pending LOST counts, the doorbells, PMC_OVF, the last
access and the count of refused SMBus accesses. -/
def reportFields : List Nat :=
  [Field.INT_PEND.id, Field.DMA_MSIX_PBA.id, Field.EVR_LOST_PEND.id, Field.MBX_DB_F2H_LO.id, Field.MBX_DB_F2H_HI.id,
    Field.PMC_OVF.id, Field.GLB_ACCESS_LAST_MASTER.id, Field.GLB_ACCESS_LAST_KIND.id, Field.GLB_ACCESS_LAST_OFFSET.id,
    Field.GLB_SMB_CNT_REFUSED.id]

/-- Device `e` is device `d` after reports alone: everything but the recorder, the counters, the outputs, the host's PBA, the
monitors' counts and the report fields stands as it was. -/
structure Dev.Reports (d e : Dev) : Prop where
  now : e.now = d.now
  draws : e.draws = d.draws
  mac : e.mac = d.mac
  buf : e.buf = d.buf
  tbl : e.tbl = d.tbl
  search : e.search = d.search
  act : e.act = d.act
  hld : e.hld = d.hld
  tim : e.tim = d.tim
  opBase : e.opBase = d.opBase
  flits : e.flits = d.flits
  pins : e.pins = d.pins
  boot : e.boot = d.boot
  hlt : e.hlt = d.hlt
  img : e.img = d.img
  fab : e.fab = d.fab
  turns : e.turns = d.turns
  wires : e.wires = d.wires
  pair : e.pair = d.pair
  words : e.words = d.words
  reg : e.reg = d.reg
  mbx : e.mbx = d.mbx
  hostRest : { e.host with msixPba := [] } = { d.host with msixPba := [] }
  pmcRest : { e.pmc with cnt := [] } = { d.pmc with cnt := [] }
  fld : ∀ f i j, f.id ∉ reportFields → e.fld f i j = d.fld f i j

theorem Dev.Reports.refl (d : Dev) : d.Reports d := by constructor <;> intros <;> rfl

theorem Dev.Reports.trans {d e g : Dev} (h : d.Reports e) (k : e.Reports g) : d.Reports g where
  now := k.now.trans h.now
  draws := k.draws.trans h.draws
  mac := k.mac.trans h.mac
  buf := k.buf.trans h.buf
  tbl := k.tbl.trans h.tbl
  search := k.search.trans h.search
  act := k.act.trans h.act
  hld := k.hld.trans h.hld
  tim := k.tim.trans h.tim
  opBase := k.opBase.trans h.opBase
  flits := k.flits.trans h.flits
  pins := k.pins.trans h.pins
  boot := k.boot.trans h.boot
  hlt := k.hlt.trans h.hlt
  img := k.img.trans h.img
  fab := k.fab.trans h.fab
  turns := k.turns.trans h.turns
  wires := k.wires.trans h.wires
  pair := k.pair.trans h.pair
  words := k.words.trans h.words
  reg := k.reg.trans h.reg
  mbx := k.mbx.trans h.mbx
  hostRest := k.hostRest.trans h.hostRest
  pmcRest := k.pmcRest.trans h.pmcRest
  fld := fun f i j hf => (k.fld f i j hf).trans (h.fld f i j hf)

theorem Dev.reports_setFld (d : Dev) (f : Field) (i j v : Nat) (h : f.id ∈ reportFields) : d.Reports (d.setFld f i j v) := by
  constructor <;> try (intros; rfl)
  intro g a b hg
  exact Dev.fld_setFld_id d f g i j a b v (fun e => hg (e ▸ h))

theorem Dev.reports_setBit (d : Dev) (f : Field) (i b : Nat) (v : Bool) (h : f.id ∈ reportFields) :
    d.Reports (d.setBit f i b v) := Dev.reports_setFld d f i 0 _ h

theorem Dev.reports_setCtr (d : Dev) (c : Ctr) (i v : Nat) : d.Reports (d.setCtr c i v) := by
  constructor <;> intros <;> rfl

theorem Dev.reports_count (d : Dev) (c : Ctr) (i : Nat) : d.Reports (d.count c i) := Dev.reports_setCtr d c i _

theorem Dev.reports_evr (d : Dev) (e : Recorder) : d.Reports { d with evr := e } := by
  constructor <;> intros <;> rfl

theorem Dev.reports_emit (d : Dev) (o : Output) : d.Reports (d.emit o) := by constructor <;> intros <;> rfl

theorem Dev.reports_ite {d a b : Dev} {c : Prop} [Decidable c] (h1 : d.Reports a) (h2 : d.Reports b) :
    d.Reports (if c then a else b) := by
  split
  · exact h1
  · exact h2

theorem Dev.reports_foldl {α : Type} (l : List α) (f : Dev → α → Dev) (h : ∀ (e : Dev) (x : α), e.Reports (f e x)) (d : Dev) :
    d.Reports (l.foldl f d) := by
  induction l generalizing d with
  | nil => exact .refl d
  | cons x l ih => exact (h d x).trans (ih _)

theorem Dev.reports_msix (d : Dev) (f v : Nat) : d.Reports (d.msix f v) := by
  unfold Dev.msix
  split
  · exact .refl d
  · split
    · split
      · exact Dev.reports_setBit d _ _ _ _ (by decide)
      · exact Dev.reports_emit d _
    · split
      · constructor <;> intros <;> rfl
      · exact Dev.reports_emit d _

theorem Dev.reports_raise (d : Dev) (s : Nat) : d.Reports (d.raise s) := by
  have h1 := Dev.reports_setBit d .INT_PEND (s / 32) (s % 32) true (by decide)
  exact Dev.reports_ite (.refl d) (Dev.reports_ite
    (Dev.Reports.trans (Dev.reports_ite h1 (h1.trans (Dev.reports_msix _ _ _))) (Dev.reports_msix _ _ _))
    (Dev.reports_ite h1 (h1.trans (Dev.reports_msix _ _ _))))

theorem Dev.reports_doorbell (d : Dev) (b : Nat) : d.Reports (d.doorbell b) := by
  unfold Dev.doorbell
  refine Dev.Reports.trans ?_ (Dev.reports_raise _ _)
  split
  · exact Dev.reports_setBit d _ _ _ _ (by decide)
  · exact Dev.reports_setBit d _ _ _ _ (by decide)

theorem Dev.reports_perfAdd (m v fuel n : Nat) (d : Dev) : d.Reports (Dev.perfAdd m v fuel n d) := by
  induction fuel generalizing v n d with
  | zero => exact .refl d
  | succ k ih =>
    have h : d.Reports { d with pmc := { d.pmc with
        cnt := Map.set 0 d.pmc.cnt (k2 m n) ((Map.get 0 d.pmc.cnt (k2 m n) + v) % 2 ^ 48) } } := by
      constructor <;> intros <;> rfl
    exact Dev.reports_ite h
      (Dev.reports_ite (h.trans (ih _ _ _)) (h.trans (Dev.reports_setBit _ _ _ _ _ (by decide))))

theorem Dev.reports_perf (d : Dev) (m ev q v : Nat) : d.Reports (d.perf m ev q v) :=
  Dev.reports_ite (.refl d)
    (Dev.reports_foldl _ _ (fun _ _ => Dev.reports_ite (Dev.reports_perfAdd _ _ _ _ _) (.refl _)) d)

theorem Dev.reports_accept (d : Dev) (r : EvRec) : d.Reports (d.accept r) := by
  have base (e : Recorder) : d.Reports (({ d with evr := e } : Dev).count .EVR_RECORDED 0) :=
    (Dev.reports_evr d e).trans (Dev.reports_count _ .EVR_RECORDED 0)
  have up (e : Recorder) := (base e).trans (Dev.reports_raise _ 324)
  exact Dev.reports_ite ((Dev.reports_ite (up _) (base _)).trans (Dev.reports_doorbell _ _)) (Dev.reports_ite (up _) (base _))

theorem Dev.reports_acceptLost (d : Dev) : d.Reports d.acceptLost :=
  Dev.reports_ite
    ((Dev.reports_accept _ _).trans
      (Dev.reports_foldl _ _ (fun e s => Dev.reports_setFld e .EVR_LOST_PEND s 0 0 (by decide)) _))
    (.refl d)

/-- Recording an event is a report. -/
theorem Dev.reports_record (d : Dev) (c : EvCode) (k i : Nat) (p : Bytes) : d.Reports (d.record c k i p) := by
  have h0 : d.Reports (match c.source k i with | some s => d.raise s | none => d) := by
    split
    · exact Dev.reports_raise _ _
    · exact .refl d
  have h1 := h0.trans (Dev.reports_acceptLost _)
  exact Dev.reports_ite (.refl d) (Dev.reports_ite (h1.trans (Dev.reports_accept _ _))
    ((h1.trans (Dev.reports_setFld _ .EVR_LOST_PEND _ _ _ (by decide))).trans (Dev.reports_count _ _ _)))

theorem Dev.reports_recordLimited (d : Dev) (c : EvCode) (inst interval k i : Nat) (p : Bytes) :
    d.Reports (d.recordLimited c inst interval k i p) := by
  unfold Dev.recordLimited
  dsimp only
  split
  · exact (Dev.reports_evr d _).trans (Dev.reports_record _ _ _ _ _)
  · split
    · exact (Dev.reports_evr d _).trans (Dev.reports_record _ _ _ _ _)
    · exact (Dev.reports_evr d _).trans (Dev.reports_count _ _ _)

theorem Dev.reports_recordCounted (d : Dev) (c : EvCode) (inst interval k i : Nat) (fs : Nat → List (Nat × Nat)) :
    d.Reports (d.recordCounted c inst interval k i fs) := Dev.reports_recordLimited _ _ _ _ _ _ _

theorem Dev.reports_accessLast (d : Dev) (m k off : Nat) : d.Reports (d.accessLast m k off) :=
  ((Dev.reports_setFld d _ _ _ _ (by decide)).trans (Dev.reports_setFld _ _ _ _ _ (by decide))).trans
    (Dev.reports_setFld _ _ _ _ _ (by decide))

theorem Dev.reports_violation (d : Dev) (m r off : Nat) : d.Reports (d.violation m r off) := by
  unfold Dev.violation
  split
  · exact (Dev.reports_recordLimited _ _ _ _ _ _ _).trans (Dev.reports_count _ _ _)
  · split
    · exact (Dev.reports_recordLimited _ _ _ _ _ _ _).trans (Dev.reports_setFld _ _ _ _ _ (by decide))
    · exact Dev.reports_record _ _ _ _ _

/-- A failed or ignored access is a report (R442). -/
theorem Dev.reports_accessFailed (d : Dev) (m : Nat) (k : AccessKind) (off : Nat) : d.Reports (d.accessFailed m k off) :=
  (Dev.reports_accessLast d _ _ _).trans (Dev.reports_violation _ _ _ _)

/-! ### Every component after each report -/

@[simp] theorem Dev.msix_now (d : Dev) (f v : Nat) : (d.msix f v).now = d.now := (Dev.reports_msix d f v).now
@[simp] theorem Dev.msix_draws (d : Dev) (f v : Nat) : (d.msix f v).draws = d.draws := (Dev.reports_msix d f v).draws
@[simp] theorem Dev.msix_mac (d : Dev) (f v : Nat) : (d.msix f v).mac = d.mac := (Dev.reports_msix d f v).mac
@[simp] theorem Dev.msix_buf (d : Dev) (f v : Nat) : (d.msix f v).buf = d.buf := (Dev.reports_msix d f v).buf
@[simp] theorem Dev.msix_tbl (d : Dev) (f v : Nat) : (d.msix f v).tbl = d.tbl := (Dev.reports_msix d f v).tbl
@[simp] theorem Dev.msix_search (d : Dev) (f v : Nat) : (d.msix f v).search = d.search := (Dev.reports_msix d f v).search
@[simp] theorem Dev.msix_act (d : Dev) (f v : Nat) : (d.msix f v).act = d.act := (Dev.reports_msix d f v).act
@[simp] theorem Dev.msix_hld (d : Dev) (f v : Nat) : (d.msix f v).hld = d.hld := (Dev.reports_msix d f v).hld
@[simp] theorem Dev.msix_tim (d : Dev) (f v : Nat) : (d.msix f v).tim = d.tim := (Dev.reports_msix d f v).tim
@[simp] theorem Dev.msix_opBase (d : Dev) (f v : Nat) : (d.msix f v).opBase = d.opBase := (Dev.reports_msix d f v).opBase
@[simp] theorem Dev.msix_flits (d : Dev) (f v : Nat) : (d.msix f v).flits = d.flits := (Dev.reports_msix d f v).flits
@[simp] theorem Dev.msix_pins (d : Dev) (f v : Nat) : (d.msix f v).pins = d.pins := (Dev.reports_msix d f v).pins
@[simp] theorem Dev.msix_boot (d : Dev) (f v : Nat) : (d.msix f v).boot = d.boot := (Dev.reports_msix d f v).boot
@[simp] theorem Dev.msix_hlt (d : Dev) (f v : Nat) : (d.msix f v).hlt = d.hlt := (Dev.reports_msix d f v).hlt
@[simp] theorem Dev.msix_img (d : Dev) (f v : Nat) : (d.msix f v).img = d.img := (Dev.reports_msix d f v).img
@[simp] theorem Dev.msix_fab (d : Dev) (f v : Nat) : (d.msix f v).fab = d.fab := (Dev.reports_msix d f v).fab
@[simp] theorem Dev.msix_turns (d : Dev) (f v : Nat) : (d.msix f v).turns = d.turns := (Dev.reports_msix d f v).turns
@[simp] theorem Dev.msix_wires (d : Dev) (f v : Nat) : (d.msix f v).wires = d.wires := (Dev.reports_msix d f v).wires
@[simp] theorem Dev.msix_pair (d : Dev) (f v : Nat) : (d.msix f v).pair = d.pair := (Dev.reports_msix d f v).pair
@[simp] theorem Dev.msix_words (d : Dev) (f v : Nat) : (d.msix f v).words = d.words := (Dev.reports_msix d f v).words
@[simp] theorem Dev.msix_reg (d : Dev) (f v : Nat) : (d.msix f v).reg = d.reg := (Dev.reports_msix d f v).reg
@[simp] theorem Dev.msix_mbx (d : Dev) (f v : Nat) : (d.msix f v).mbx = d.mbx := (Dev.reports_msix d f v).mbx
theorem Dev.msix_fld (d : Dev) (f v : Nat) (x : Field) (u w : Nat) (h : x.id ∉ reportFields) :
    (d.msix f v).fld x u w = d.fld x u w := (Dev.reports_msix d f v).fld x u w h

@[simp] theorem Dev.raise_now (d : Dev) (s : Nat) : (d.raise s).now = d.now := (Dev.reports_raise d s).now
@[simp] theorem Dev.raise_draws (d : Dev) (s : Nat) : (d.raise s).draws = d.draws := (Dev.reports_raise d s).draws
@[simp] theorem Dev.raise_mac (d : Dev) (s : Nat) : (d.raise s).mac = d.mac := (Dev.reports_raise d s).mac
@[simp] theorem Dev.raise_buf (d : Dev) (s : Nat) : (d.raise s).buf = d.buf := (Dev.reports_raise d s).buf
@[simp] theorem Dev.raise_tbl (d : Dev) (s : Nat) : (d.raise s).tbl = d.tbl := (Dev.reports_raise d s).tbl
@[simp] theorem Dev.raise_search (d : Dev) (s : Nat) : (d.raise s).search = d.search := (Dev.reports_raise d s).search
@[simp] theorem Dev.raise_act (d : Dev) (s : Nat) : (d.raise s).act = d.act := (Dev.reports_raise d s).act
@[simp] theorem Dev.raise_hld (d : Dev) (s : Nat) : (d.raise s).hld = d.hld := (Dev.reports_raise d s).hld
@[simp] theorem Dev.raise_tim (d : Dev) (s : Nat) : (d.raise s).tim = d.tim := (Dev.reports_raise d s).tim
@[simp] theorem Dev.raise_opBase (d : Dev) (s : Nat) : (d.raise s).opBase = d.opBase := (Dev.reports_raise d s).opBase
@[simp] theorem Dev.raise_flits (d : Dev) (s : Nat) : (d.raise s).flits = d.flits := (Dev.reports_raise d s).flits
@[simp] theorem Dev.raise_pins (d : Dev) (s : Nat) : (d.raise s).pins = d.pins := (Dev.reports_raise d s).pins
@[simp] theorem Dev.raise_boot (d : Dev) (s : Nat) : (d.raise s).boot = d.boot := (Dev.reports_raise d s).boot
@[simp] theorem Dev.raise_hlt (d : Dev) (s : Nat) : (d.raise s).hlt = d.hlt := (Dev.reports_raise d s).hlt
@[simp] theorem Dev.raise_img (d : Dev) (s : Nat) : (d.raise s).img = d.img := (Dev.reports_raise d s).img
@[simp] theorem Dev.raise_fab (d : Dev) (s : Nat) : (d.raise s).fab = d.fab := (Dev.reports_raise d s).fab
@[simp] theorem Dev.raise_turns (d : Dev) (s : Nat) : (d.raise s).turns = d.turns := (Dev.reports_raise d s).turns
@[simp] theorem Dev.raise_wires (d : Dev) (s : Nat) : (d.raise s).wires = d.wires := (Dev.reports_raise d s).wires
@[simp] theorem Dev.raise_pair (d : Dev) (s : Nat) : (d.raise s).pair = d.pair := (Dev.reports_raise d s).pair
@[simp] theorem Dev.raise_words (d : Dev) (s : Nat) : (d.raise s).words = d.words := (Dev.reports_raise d s).words
@[simp] theorem Dev.raise_reg (d : Dev) (s : Nat) : (d.raise s).reg = d.reg := (Dev.reports_raise d s).reg
@[simp] theorem Dev.raise_mbx (d : Dev) (s : Nat) : (d.raise s).mbx = d.mbx := (Dev.reports_raise d s).mbx
theorem Dev.raise_fld (d : Dev) (s : Nat) (x : Field) (u w : Nat) (h : x.id ∉ reportFields) :
    (d.raise s).fld x u w = d.fld x u w := (Dev.reports_raise d s).fld x u w h

@[simp] theorem Dev.doorbell_now (d : Dev) (b : Nat) : (d.doorbell b).now = d.now := (Dev.reports_doorbell d b).now
@[simp] theorem Dev.doorbell_draws (d : Dev) (b : Nat) : (d.doorbell b).draws = d.draws := (Dev.reports_doorbell d b).draws
@[simp] theorem Dev.doorbell_mac (d : Dev) (b : Nat) : (d.doorbell b).mac = d.mac := (Dev.reports_doorbell d b).mac
@[simp] theorem Dev.doorbell_buf (d : Dev) (b : Nat) : (d.doorbell b).buf = d.buf := (Dev.reports_doorbell d b).buf
@[simp] theorem Dev.doorbell_tbl (d : Dev) (b : Nat) : (d.doorbell b).tbl = d.tbl := (Dev.reports_doorbell d b).tbl
@[simp] theorem Dev.doorbell_search (d : Dev) (b : Nat) : (d.doorbell b).search = d.search := (Dev.reports_doorbell d b).search
@[simp] theorem Dev.doorbell_act (d : Dev) (b : Nat) : (d.doorbell b).act = d.act := (Dev.reports_doorbell d b).act
@[simp] theorem Dev.doorbell_hld (d : Dev) (b : Nat) : (d.doorbell b).hld = d.hld := (Dev.reports_doorbell d b).hld
@[simp] theorem Dev.doorbell_tim (d : Dev) (b : Nat) : (d.doorbell b).tim = d.tim := (Dev.reports_doorbell d b).tim
@[simp] theorem Dev.doorbell_opBase (d : Dev) (b : Nat) : (d.doorbell b).opBase = d.opBase := (Dev.reports_doorbell d b).opBase
@[simp] theorem Dev.doorbell_flits (d : Dev) (b : Nat) : (d.doorbell b).flits = d.flits := (Dev.reports_doorbell d b).flits
@[simp] theorem Dev.doorbell_pins (d : Dev) (b : Nat) : (d.doorbell b).pins = d.pins := (Dev.reports_doorbell d b).pins
@[simp] theorem Dev.doorbell_boot (d : Dev) (b : Nat) : (d.doorbell b).boot = d.boot := (Dev.reports_doorbell d b).boot
@[simp] theorem Dev.doorbell_hlt (d : Dev) (b : Nat) : (d.doorbell b).hlt = d.hlt := (Dev.reports_doorbell d b).hlt
@[simp] theorem Dev.doorbell_img (d : Dev) (b : Nat) : (d.doorbell b).img = d.img := (Dev.reports_doorbell d b).img
@[simp] theorem Dev.doorbell_fab (d : Dev) (b : Nat) : (d.doorbell b).fab = d.fab := (Dev.reports_doorbell d b).fab
@[simp] theorem Dev.doorbell_turns (d : Dev) (b : Nat) : (d.doorbell b).turns = d.turns := (Dev.reports_doorbell d b).turns
@[simp] theorem Dev.doorbell_wires (d : Dev) (b : Nat) : (d.doorbell b).wires = d.wires := (Dev.reports_doorbell d b).wires
@[simp] theorem Dev.doorbell_pair (d : Dev) (b : Nat) : (d.doorbell b).pair = d.pair := (Dev.reports_doorbell d b).pair
@[simp] theorem Dev.doorbell_words (d : Dev) (b : Nat) : (d.doorbell b).words = d.words := (Dev.reports_doorbell d b).words
@[simp] theorem Dev.doorbell_reg (d : Dev) (b : Nat) : (d.doorbell b).reg = d.reg := (Dev.reports_doorbell d b).reg
@[simp] theorem Dev.doorbell_mbx (d : Dev) (b : Nat) : (d.doorbell b).mbx = d.mbx := (Dev.reports_doorbell d b).mbx
theorem Dev.doorbell_fld (d : Dev) (b : Nat) (x : Field) (u w : Nat) (h : x.id ∉ reportFields) :
    (d.doorbell b).fld x u w = d.fld x u w := (Dev.reports_doorbell d b).fld x u w h

@[simp] theorem Dev.perf_now (d : Dev) (m ev q v : Nat) : (d.perf m ev q v).now = d.now := (Dev.reports_perf d m ev q v).now
@[simp] theorem Dev.perf_draws (d : Dev) (m ev q v : Nat) : (d.perf m ev q v).draws = d.draws := (Dev.reports_perf d m ev q v).draws
@[simp] theorem Dev.perf_mac (d : Dev) (m ev q v : Nat) : (d.perf m ev q v).mac = d.mac := (Dev.reports_perf d m ev q v).mac
@[simp] theorem Dev.perf_buf (d : Dev) (m ev q v : Nat) : (d.perf m ev q v).buf = d.buf := (Dev.reports_perf d m ev q v).buf
@[simp] theorem Dev.perf_tbl (d : Dev) (m ev q v : Nat) : (d.perf m ev q v).tbl = d.tbl := (Dev.reports_perf d m ev q v).tbl
@[simp] theorem Dev.perf_search (d : Dev) (m ev q v : Nat) : (d.perf m ev q v).search = d.search := (Dev.reports_perf d m ev q v).search
@[simp] theorem Dev.perf_act (d : Dev) (m ev q v : Nat) : (d.perf m ev q v).act = d.act := (Dev.reports_perf d m ev q v).act
@[simp] theorem Dev.perf_hld (d : Dev) (m ev q v : Nat) : (d.perf m ev q v).hld = d.hld := (Dev.reports_perf d m ev q v).hld
@[simp] theorem Dev.perf_tim (d : Dev) (m ev q v : Nat) : (d.perf m ev q v).tim = d.tim := (Dev.reports_perf d m ev q v).tim
@[simp] theorem Dev.perf_opBase (d : Dev) (m ev q v : Nat) : (d.perf m ev q v).opBase = d.opBase := (Dev.reports_perf d m ev q v).opBase
@[simp] theorem Dev.perf_flits (d : Dev) (m ev q v : Nat) : (d.perf m ev q v).flits = d.flits := (Dev.reports_perf d m ev q v).flits
@[simp] theorem Dev.perf_pins (d : Dev) (m ev q v : Nat) : (d.perf m ev q v).pins = d.pins := (Dev.reports_perf d m ev q v).pins
@[simp] theorem Dev.perf_boot (d : Dev) (m ev q v : Nat) : (d.perf m ev q v).boot = d.boot := (Dev.reports_perf d m ev q v).boot
@[simp] theorem Dev.perf_hlt (d : Dev) (m ev q v : Nat) : (d.perf m ev q v).hlt = d.hlt := (Dev.reports_perf d m ev q v).hlt
@[simp] theorem Dev.perf_img (d : Dev) (m ev q v : Nat) : (d.perf m ev q v).img = d.img := (Dev.reports_perf d m ev q v).img
@[simp] theorem Dev.perf_fab (d : Dev) (m ev q v : Nat) : (d.perf m ev q v).fab = d.fab := (Dev.reports_perf d m ev q v).fab
@[simp] theorem Dev.perf_turns (d : Dev) (m ev q v : Nat) : (d.perf m ev q v).turns = d.turns := (Dev.reports_perf d m ev q v).turns
@[simp] theorem Dev.perf_wires (d : Dev) (m ev q v : Nat) : (d.perf m ev q v).wires = d.wires := (Dev.reports_perf d m ev q v).wires
@[simp] theorem Dev.perf_pair (d : Dev) (m ev q v : Nat) : (d.perf m ev q v).pair = d.pair := (Dev.reports_perf d m ev q v).pair
@[simp] theorem Dev.perf_words (d : Dev) (m ev q v : Nat) : (d.perf m ev q v).words = d.words := (Dev.reports_perf d m ev q v).words
@[simp] theorem Dev.perf_reg (d : Dev) (m ev q v : Nat) : (d.perf m ev q v).reg = d.reg := (Dev.reports_perf d m ev q v).reg
@[simp] theorem Dev.perf_mbx (d : Dev) (m ev q v : Nat) : (d.perf m ev q v).mbx = d.mbx := (Dev.reports_perf d m ev q v).mbx
theorem Dev.perf_fld (d : Dev) (m ev q v : Nat) (x : Field) (u w : Nat) (h : x.id ∉ reportFields) :
    (d.perf m ev q v).fld x u w = d.fld x u w := (Dev.reports_perf d m ev q v).fld x u w h

@[simp] theorem Dev.record_now (d : Dev) (c : EvCode) (k i : Nat) (p : Bytes) : (d.record c k i p).now = d.now := (Dev.reports_record d c k i p).now
@[simp] theorem Dev.record_draws (d : Dev) (c : EvCode) (k i : Nat) (p : Bytes) : (d.record c k i p).draws = d.draws := (Dev.reports_record d c k i p).draws
@[simp] theorem Dev.record_mac (d : Dev) (c : EvCode) (k i : Nat) (p : Bytes) : (d.record c k i p).mac = d.mac := (Dev.reports_record d c k i p).mac
@[simp] theorem Dev.record_buf (d : Dev) (c : EvCode) (k i : Nat) (p : Bytes) : (d.record c k i p).buf = d.buf := (Dev.reports_record d c k i p).buf
@[simp] theorem Dev.record_tbl (d : Dev) (c : EvCode) (k i : Nat) (p : Bytes) : (d.record c k i p).tbl = d.tbl := (Dev.reports_record d c k i p).tbl
@[simp] theorem Dev.record_search (d : Dev) (c : EvCode) (k i : Nat) (p : Bytes) : (d.record c k i p).search = d.search := (Dev.reports_record d c k i p).search
@[simp] theorem Dev.record_act (d : Dev) (c : EvCode) (k i : Nat) (p : Bytes) : (d.record c k i p).act = d.act := (Dev.reports_record d c k i p).act
@[simp] theorem Dev.record_hld (d : Dev) (c : EvCode) (k i : Nat) (p : Bytes) : (d.record c k i p).hld = d.hld := (Dev.reports_record d c k i p).hld
@[simp] theorem Dev.record_tim (d : Dev) (c : EvCode) (k i : Nat) (p : Bytes) : (d.record c k i p).tim = d.tim := (Dev.reports_record d c k i p).tim
@[simp] theorem Dev.record_opBase (d : Dev) (c : EvCode) (k i : Nat) (p : Bytes) : (d.record c k i p).opBase = d.opBase := (Dev.reports_record d c k i p).opBase
@[simp] theorem Dev.record_flits (d : Dev) (c : EvCode) (k i : Nat) (p : Bytes) : (d.record c k i p).flits = d.flits := (Dev.reports_record d c k i p).flits
@[simp] theorem Dev.record_pins (d : Dev) (c : EvCode) (k i : Nat) (p : Bytes) : (d.record c k i p).pins = d.pins := (Dev.reports_record d c k i p).pins
@[simp] theorem Dev.record_boot (d : Dev) (c : EvCode) (k i : Nat) (p : Bytes) : (d.record c k i p).boot = d.boot := (Dev.reports_record d c k i p).boot
@[simp] theorem Dev.record_hlt (d : Dev) (c : EvCode) (k i : Nat) (p : Bytes) : (d.record c k i p).hlt = d.hlt := (Dev.reports_record d c k i p).hlt
@[simp] theorem Dev.record_img (d : Dev) (c : EvCode) (k i : Nat) (p : Bytes) : (d.record c k i p).img = d.img := (Dev.reports_record d c k i p).img
@[simp] theorem Dev.record_fab (d : Dev) (c : EvCode) (k i : Nat) (p : Bytes) : (d.record c k i p).fab = d.fab := (Dev.reports_record d c k i p).fab
@[simp] theorem Dev.record_turns (d : Dev) (c : EvCode) (k i : Nat) (p : Bytes) : (d.record c k i p).turns = d.turns := (Dev.reports_record d c k i p).turns
@[simp] theorem Dev.record_wires (d : Dev) (c : EvCode) (k i : Nat) (p : Bytes) : (d.record c k i p).wires = d.wires := (Dev.reports_record d c k i p).wires
@[simp] theorem Dev.record_pair (d : Dev) (c : EvCode) (k i : Nat) (p : Bytes) : (d.record c k i p).pair = d.pair := (Dev.reports_record d c k i p).pair
@[simp] theorem Dev.record_words (d : Dev) (c : EvCode) (k i : Nat) (p : Bytes) : (d.record c k i p).words = d.words := (Dev.reports_record d c k i p).words
@[simp] theorem Dev.record_reg (d : Dev) (c : EvCode) (k i : Nat) (p : Bytes) : (d.record c k i p).reg = d.reg := (Dev.reports_record d c k i p).reg
@[simp] theorem Dev.record_mbx (d : Dev) (c : EvCode) (k i : Nat) (p : Bytes) : (d.record c k i p).mbx = d.mbx := (Dev.reports_record d c k i p).mbx
theorem Dev.record_fld (d : Dev) (c : EvCode) (k i : Nat) (p : Bytes) (x : Field) (u w : Nat) (h : x.id ∉ reportFields) :
    (d.record c k i p).fld x u w = d.fld x u w := (Dev.reports_record d c k i p).fld x u w h

@[simp] theorem Dev.recordLimited_now (d : Dev) (c : EvCode) (t n k i : Nat) (p : Bytes) : (d.recordLimited c t n k i p).now = d.now := (Dev.reports_recordLimited d c t n k i p).now
@[simp] theorem Dev.recordLimited_draws (d : Dev) (c : EvCode) (t n k i : Nat) (p : Bytes) : (d.recordLimited c t n k i p).draws = d.draws := (Dev.reports_recordLimited d c t n k i p).draws
@[simp] theorem Dev.recordLimited_mac (d : Dev) (c : EvCode) (t n k i : Nat) (p : Bytes) : (d.recordLimited c t n k i p).mac = d.mac := (Dev.reports_recordLimited d c t n k i p).mac
@[simp] theorem Dev.recordLimited_buf (d : Dev) (c : EvCode) (t n k i : Nat) (p : Bytes) : (d.recordLimited c t n k i p).buf = d.buf := (Dev.reports_recordLimited d c t n k i p).buf
@[simp] theorem Dev.recordLimited_tbl (d : Dev) (c : EvCode) (t n k i : Nat) (p : Bytes) : (d.recordLimited c t n k i p).tbl = d.tbl := (Dev.reports_recordLimited d c t n k i p).tbl
@[simp] theorem Dev.recordLimited_search (d : Dev) (c : EvCode) (t n k i : Nat) (p : Bytes) : (d.recordLimited c t n k i p).search = d.search := (Dev.reports_recordLimited d c t n k i p).search
@[simp] theorem Dev.recordLimited_act (d : Dev) (c : EvCode) (t n k i : Nat) (p : Bytes) : (d.recordLimited c t n k i p).act = d.act := (Dev.reports_recordLimited d c t n k i p).act
@[simp] theorem Dev.recordLimited_hld (d : Dev) (c : EvCode) (t n k i : Nat) (p : Bytes) : (d.recordLimited c t n k i p).hld = d.hld := (Dev.reports_recordLimited d c t n k i p).hld
@[simp] theorem Dev.recordLimited_tim (d : Dev) (c : EvCode) (t n k i : Nat) (p : Bytes) : (d.recordLimited c t n k i p).tim = d.tim := (Dev.reports_recordLimited d c t n k i p).tim
@[simp] theorem Dev.recordLimited_opBase (d : Dev) (c : EvCode) (t n k i : Nat) (p : Bytes) : (d.recordLimited c t n k i p).opBase = d.opBase := (Dev.reports_recordLimited d c t n k i p).opBase
@[simp] theorem Dev.recordLimited_flits (d : Dev) (c : EvCode) (t n k i : Nat) (p : Bytes) : (d.recordLimited c t n k i p).flits = d.flits := (Dev.reports_recordLimited d c t n k i p).flits
@[simp] theorem Dev.recordLimited_pins (d : Dev) (c : EvCode) (t n k i : Nat) (p : Bytes) : (d.recordLimited c t n k i p).pins = d.pins := (Dev.reports_recordLimited d c t n k i p).pins
@[simp] theorem Dev.recordLimited_boot (d : Dev) (c : EvCode) (t n k i : Nat) (p : Bytes) : (d.recordLimited c t n k i p).boot = d.boot := (Dev.reports_recordLimited d c t n k i p).boot
@[simp] theorem Dev.recordLimited_hlt (d : Dev) (c : EvCode) (t n k i : Nat) (p : Bytes) : (d.recordLimited c t n k i p).hlt = d.hlt := (Dev.reports_recordLimited d c t n k i p).hlt
@[simp] theorem Dev.recordLimited_img (d : Dev) (c : EvCode) (t n k i : Nat) (p : Bytes) : (d.recordLimited c t n k i p).img = d.img := (Dev.reports_recordLimited d c t n k i p).img
@[simp] theorem Dev.recordLimited_fab (d : Dev) (c : EvCode) (t n k i : Nat) (p : Bytes) : (d.recordLimited c t n k i p).fab = d.fab := (Dev.reports_recordLimited d c t n k i p).fab
@[simp] theorem Dev.recordLimited_turns (d : Dev) (c : EvCode) (t n k i : Nat) (p : Bytes) : (d.recordLimited c t n k i p).turns = d.turns := (Dev.reports_recordLimited d c t n k i p).turns
@[simp] theorem Dev.recordLimited_wires (d : Dev) (c : EvCode) (t n k i : Nat) (p : Bytes) : (d.recordLimited c t n k i p).wires = d.wires := (Dev.reports_recordLimited d c t n k i p).wires
@[simp] theorem Dev.recordLimited_pair (d : Dev) (c : EvCode) (t n k i : Nat) (p : Bytes) : (d.recordLimited c t n k i p).pair = d.pair := (Dev.reports_recordLimited d c t n k i p).pair
@[simp] theorem Dev.recordLimited_words (d : Dev) (c : EvCode) (t n k i : Nat) (p : Bytes) : (d.recordLimited c t n k i p).words = d.words := (Dev.reports_recordLimited d c t n k i p).words
@[simp] theorem Dev.recordLimited_reg (d : Dev) (c : EvCode) (t n k i : Nat) (p : Bytes) : (d.recordLimited c t n k i p).reg = d.reg := (Dev.reports_recordLimited d c t n k i p).reg
@[simp] theorem Dev.recordLimited_mbx (d : Dev) (c : EvCode) (t n k i : Nat) (p : Bytes) : (d.recordLimited c t n k i p).mbx = d.mbx := (Dev.reports_recordLimited d c t n k i p).mbx
theorem Dev.recordLimited_fld (d : Dev) (c : EvCode) (t n k i : Nat) (p : Bytes) (x : Field) (u w : Nat) (h : x.id ∉ reportFields) :
    (d.recordLimited c t n k i p).fld x u w = d.fld x u w := (Dev.reports_recordLimited d c t n k i p).fld x u w h

@[simp] theorem Dev.recordCounted_now (d : Dev) (c : EvCode) (t n k i : Nat) (g : Nat → List (Nat × Nat)) : (d.recordCounted c t n k i g).now = d.now := (Dev.reports_recordCounted d c t n k i g).now
@[simp] theorem Dev.recordCounted_draws (d : Dev) (c : EvCode) (t n k i : Nat) (g : Nat → List (Nat × Nat)) : (d.recordCounted c t n k i g).draws = d.draws := (Dev.reports_recordCounted d c t n k i g).draws
@[simp] theorem Dev.recordCounted_mac (d : Dev) (c : EvCode) (t n k i : Nat) (g : Nat → List (Nat × Nat)) : (d.recordCounted c t n k i g).mac = d.mac := (Dev.reports_recordCounted d c t n k i g).mac
@[simp] theorem Dev.recordCounted_buf (d : Dev) (c : EvCode) (t n k i : Nat) (g : Nat → List (Nat × Nat)) : (d.recordCounted c t n k i g).buf = d.buf := (Dev.reports_recordCounted d c t n k i g).buf
@[simp] theorem Dev.recordCounted_tbl (d : Dev) (c : EvCode) (t n k i : Nat) (g : Nat → List (Nat × Nat)) : (d.recordCounted c t n k i g).tbl = d.tbl := (Dev.reports_recordCounted d c t n k i g).tbl
@[simp] theorem Dev.recordCounted_search (d : Dev) (c : EvCode) (t n k i : Nat) (g : Nat → List (Nat × Nat)) : (d.recordCounted c t n k i g).search = d.search := (Dev.reports_recordCounted d c t n k i g).search
@[simp] theorem Dev.recordCounted_act (d : Dev) (c : EvCode) (t n k i : Nat) (g : Nat → List (Nat × Nat)) : (d.recordCounted c t n k i g).act = d.act := (Dev.reports_recordCounted d c t n k i g).act
@[simp] theorem Dev.recordCounted_hld (d : Dev) (c : EvCode) (t n k i : Nat) (g : Nat → List (Nat × Nat)) : (d.recordCounted c t n k i g).hld = d.hld := (Dev.reports_recordCounted d c t n k i g).hld
@[simp] theorem Dev.recordCounted_tim (d : Dev) (c : EvCode) (t n k i : Nat) (g : Nat → List (Nat × Nat)) : (d.recordCounted c t n k i g).tim = d.tim := (Dev.reports_recordCounted d c t n k i g).tim
@[simp] theorem Dev.recordCounted_opBase (d : Dev) (c : EvCode) (t n k i : Nat) (g : Nat → List (Nat × Nat)) : (d.recordCounted c t n k i g).opBase = d.opBase := (Dev.reports_recordCounted d c t n k i g).opBase
@[simp] theorem Dev.recordCounted_flits (d : Dev) (c : EvCode) (t n k i : Nat) (g : Nat → List (Nat × Nat)) : (d.recordCounted c t n k i g).flits = d.flits := (Dev.reports_recordCounted d c t n k i g).flits
@[simp] theorem Dev.recordCounted_pins (d : Dev) (c : EvCode) (t n k i : Nat) (g : Nat → List (Nat × Nat)) : (d.recordCounted c t n k i g).pins = d.pins := (Dev.reports_recordCounted d c t n k i g).pins
@[simp] theorem Dev.recordCounted_boot (d : Dev) (c : EvCode) (t n k i : Nat) (g : Nat → List (Nat × Nat)) : (d.recordCounted c t n k i g).boot = d.boot := (Dev.reports_recordCounted d c t n k i g).boot
@[simp] theorem Dev.recordCounted_hlt (d : Dev) (c : EvCode) (t n k i : Nat) (g : Nat → List (Nat × Nat)) : (d.recordCounted c t n k i g).hlt = d.hlt := (Dev.reports_recordCounted d c t n k i g).hlt
@[simp] theorem Dev.recordCounted_img (d : Dev) (c : EvCode) (t n k i : Nat) (g : Nat → List (Nat × Nat)) : (d.recordCounted c t n k i g).img = d.img := (Dev.reports_recordCounted d c t n k i g).img
@[simp] theorem Dev.recordCounted_fab (d : Dev) (c : EvCode) (t n k i : Nat) (g : Nat → List (Nat × Nat)) : (d.recordCounted c t n k i g).fab = d.fab := (Dev.reports_recordCounted d c t n k i g).fab
@[simp] theorem Dev.recordCounted_turns (d : Dev) (c : EvCode) (t n k i : Nat) (g : Nat → List (Nat × Nat)) : (d.recordCounted c t n k i g).turns = d.turns := (Dev.reports_recordCounted d c t n k i g).turns
@[simp] theorem Dev.recordCounted_wires (d : Dev) (c : EvCode) (t n k i : Nat) (g : Nat → List (Nat × Nat)) : (d.recordCounted c t n k i g).wires = d.wires := (Dev.reports_recordCounted d c t n k i g).wires
@[simp] theorem Dev.recordCounted_pair (d : Dev) (c : EvCode) (t n k i : Nat) (g : Nat → List (Nat × Nat)) : (d.recordCounted c t n k i g).pair = d.pair := (Dev.reports_recordCounted d c t n k i g).pair
@[simp] theorem Dev.recordCounted_words (d : Dev) (c : EvCode) (t n k i : Nat) (g : Nat → List (Nat × Nat)) : (d.recordCounted c t n k i g).words = d.words := (Dev.reports_recordCounted d c t n k i g).words
@[simp] theorem Dev.recordCounted_reg (d : Dev) (c : EvCode) (t n k i : Nat) (g : Nat → List (Nat × Nat)) : (d.recordCounted c t n k i g).reg = d.reg := (Dev.reports_recordCounted d c t n k i g).reg
@[simp] theorem Dev.recordCounted_mbx (d : Dev) (c : EvCode) (t n k i : Nat) (g : Nat → List (Nat × Nat)) : (d.recordCounted c t n k i g).mbx = d.mbx := (Dev.reports_recordCounted d c t n k i g).mbx
theorem Dev.recordCounted_fld (d : Dev) (c : EvCode) (t n k i : Nat) (g : Nat → List (Nat × Nat)) (x : Field) (u w : Nat) (h : x.id ∉ reportFields) :
    (d.recordCounted c t n k i g).fld x u w = d.fld x u w := (Dev.reports_recordCounted d c t n k i g).fld x u w h

@[simp] theorem Dev.accessLast_now (d : Dev) (m k o : Nat) : (d.accessLast m k o).now = d.now := (Dev.reports_accessLast d m k o).now
@[simp] theorem Dev.accessLast_draws (d : Dev) (m k o : Nat) : (d.accessLast m k o).draws = d.draws := (Dev.reports_accessLast d m k o).draws
@[simp] theorem Dev.accessLast_mac (d : Dev) (m k o : Nat) : (d.accessLast m k o).mac = d.mac := (Dev.reports_accessLast d m k o).mac
@[simp] theorem Dev.accessLast_buf (d : Dev) (m k o : Nat) : (d.accessLast m k o).buf = d.buf := (Dev.reports_accessLast d m k o).buf
@[simp] theorem Dev.accessLast_tbl (d : Dev) (m k o : Nat) : (d.accessLast m k o).tbl = d.tbl := (Dev.reports_accessLast d m k o).tbl
@[simp] theorem Dev.accessLast_search (d : Dev) (m k o : Nat) : (d.accessLast m k o).search = d.search := (Dev.reports_accessLast d m k o).search
@[simp] theorem Dev.accessLast_act (d : Dev) (m k o : Nat) : (d.accessLast m k o).act = d.act := (Dev.reports_accessLast d m k o).act
@[simp] theorem Dev.accessLast_hld (d : Dev) (m k o : Nat) : (d.accessLast m k o).hld = d.hld := (Dev.reports_accessLast d m k o).hld
@[simp] theorem Dev.accessLast_tim (d : Dev) (m k o : Nat) : (d.accessLast m k o).tim = d.tim := (Dev.reports_accessLast d m k o).tim
@[simp] theorem Dev.accessLast_opBase (d : Dev) (m k o : Nat) : (d.accessLast m k o).opBase = d.opBase := (Dev.reports_accessLast d m k o).opBase
@[simp] theorem Dev.accessLast_flits (d : Dev) (m k o : Nat) : (d.accessLast m k o).flits = d.flits := (Dev.reports_accessLast d m k o).flits
@[simp] theorem Dev.accessLast_pins (d : Dev) (m k o : Nat) : (d.accessLast m k o).pins = d.pins := (Dev.reports_accessLast d m k o).pins
@[simp] theorem Dev.accessLast_boot (d : Dev) (m k o : Nat) : (d.accessLast m k o).boot = d.boot := (Dev.reports_accessLast d m k o).boot
@[simp] theorem Dev.accessLast_hlt (d : Dev) (m k o : Nat) : (d.accessLast m k o).hlt = d.hlt := (Dev.reports_accessLast d m k o).hlt
@[simp] theorem Dev.accessLast_img (d : Dev) (m k o : Nat) : (d.accessLast m k o).img = d.img := (Dev.reports_accessLast d m k o).img
@[simp] theorem Dev.accessLast_fab (d : Dev) (m k o : Nat) : (d.accessLast m k o).fab = d.fab := (Dev.reports_accessLast d m k o).fab
@[simp] theorem Dev.accessLast_turns (d : Dev) (m k o : Nat) : (d.accessLast m k o).turns = d.turns := (Dev.reports_accessLast d m k o).turns
@[simp] theorem Dev.accessLast_wires (d : Dev) (m k o : Nat) : (d.accessLast m k o).wires = d.wires := (Dev.reports_accessLast d m k o).wires
@[simp] theorem Dev.accessLast_pair (d : Dev) (m k o : Nat) : (d.accessLast m k o).pair = d.pair := (Dev.reports_accessLast d m k o).pair
@[simp] theorem Dev.accessLast_words (d : Dev) (m k o : Nat) : (d.accessLast m k o).words = d.words := (Dev.reports_accessLast d m k o).words
@[simp] theorem Dev.accessLast_reg (d : Dev) (m k o : Nat) : (d.accessLast m k o).reg = d.reg := (Dev.reports_accessLast d m k o).reg
@[simp] theorem Dev.accessLast_mbx (d : Dev) (m k o : Nat) : (d.accessLast m k o).mbx = d.mbx := (Dev.reports_accessLast d m k o).mbx
theorem Dev.accessLast_fld (d : Dev) (m k o : Nat) (x : Field) (u w : Nat) (h : x.id ∉ reportFields) :
    (d.accessLast m k o).fld x u w = d.fld x u w := (Dev.reports_accessLast d m k o).fld x u w h

@[simp] theorem Dev.violation_now (d : Dev) (m r o : Nat) : (d.violation m r o).now = d.now := (Dev.reports_violation d m r o).now
@[simp] theorem Dev.violation_draws (d : Dev) (m r o : Nat) : (d.violation m r o).draws = d.draws := (Dev.reports_violation d m r o).draws
@[simp] theorem Dev.violation_mac (d : Dev) (m r o : Nat) : (d.violation m r o).mac = d.mac := (Dev.reports_violation d m r o).mac
@[simp] theorem Dev.violation_buf (d : Dev) (m r o : Nat) : (d.violation m r o).buf = d.buf := (Dev.reports_violation d m r o).buf
@[simp] theorem Dev.violation_tbl (d : Dev) (m r o : Nat) : (d.violation m r o).tbl = d.tbl := (Dev.reports_violation d m r o).tbl
@[simp] theorem Dev.violation_search (d : Dev) (m r o : Nat) : (d.violation m r o).search = d.search := (Dev.reports_violation d m r o).search
@[simp] theorem Dev.violation_act (d : Dev) (m r o : Nat) : (d.violation m r o).act = d.act := (Dev.reports_violation d m r o).act
@[simp] theorem Dev.violation_hld (d : Dev) (m r o : Nat) : (d.violation m r o).hld = d.hld := (Dev.reports_violation d m r o).hld
@[simp] theorem Dev.violation_tim (d : Dev) (m r o : Nat) : (d.violation m r o).tim = d.tim := (Dev.reports_violation d m r o).tim
@[simp] theorem Dev.violation_opBase (d : Dev) (m r o : Nat) : (d.violation m r o).opBase = d.opBase := (Dev.reports_violation d m r o).opBase
@[simp] theorem Dev.violation_flits (d : Dev) (m r o : Nat) : (d.violation m r o).flits = d.flits := (Dev.reports_violation d m r o).flits
@[simp] theorem Dev.violation_pins (d : Dev) (m r o : Nat) : (d.violation m r o).pins = d.pins := (Dev.reports_violation d m r o).pins
@[simp] theorem Dev.violation_boot (d : Dev) (m r o : Nat) : (d.violation m r o).boot = d.boot := (Dev.reports_violation d m r o).boot
@[simp] theorem Dev.violation_hlt (d : Dev) (m r o : Nat) : (d.violation m r o).hlt = d.hlt := (Dev.reports_violation d m r o).hlt
@[simp] theorem Dev.violation_img (d : Dev) (m r o : Nat) : (d.violation m r o).img = d.img := (Dev.reports_violation d m r o).img
@[simp] theorem Dev.violation_fab (d : Dev) (m r o : Nat) : (d.violation m r o).fab = d.fab := (Dev.reports_violation d m r o).fab
@[simp] theorem Dev.violation_turns (d : Dev) (m r o : Nat) : (d.violation m r o).turns = d.turns := (Dev.reports_violation d m r o).turns
@[simp] theorem Dev.violation_wires (d : Dev) (m r o : Nat) : (d.violation m r o).wires = d.wires := (Dev.reports_violation d m r o).wires
@[simp] theorem Dev.violation_pair (d : Dev) (m r o : Nat) : (d.violation m r o).pair = d.pair := (Dev.reports_violation d m r o).pair
@[simp] theorem Dev.violation_words (d : Dev) (m r o : Nat) : (d.violation m r o).words = d.words := (Dev.reports_violation d m r o).words
@[simp] theorem Dev.violation_reg (d : Dev) (m r o : Nat) : (d.violation m r o).reg = d.reg := (Dev.reports_violation d m r o).reg
@[simp] theorem Dev.violation_mbx (d : Dev) (m r o : Nat) : (d.violation m r o).mbx = d.mbx := (Dev.reports_violation d m r o).mbx
theorem Dev.violation_fld (d : Dev) (m r o : Nat) (x : Field) (u w : Nat) (h : x.id ∉ reportFields) :
    (d.violation m r o).fld x u w = d.fld x u w := (Dev.reports_violation d m r o).fld x u w h

@[simp] theorem Dev.accessFailed_now (d : Dev) (m : Nat) (k : AccessKind) (o : Nat) : (d.accessFailed m k o).now = d.now := (Dev.reports_accessFailed d m k o).now
@[simp] theorem Dev.accessFailed_draws (d : Dev) (m : Nat) (k : AccessKind) (o : Nat) : (d.accessFailed m k o).draws = d.draws := (Dev.reports_accessFailed d m k o).draws
@[simp] theorem Dev.accessFailed_mac (d : Dev) (m : Nat) (k : AccessKind) (o : Nat) : (d.accessFailed m k o).mac = d.mac := (Dev.reports_accessFailed d m k o).mac
@[simp] theorem Dev.accessFailed_buf (d : Dev) (m : Nat) (k : AccessKind) (o : Nat) : (d.accessFailed m k o).buf = d.buf := (Dev.reports_accessFailed d m k o).buf
@[simp] theorem Dev.accessFailed_tbl (d : Dev) (m : Nat) (k : AccessKind) (o : Nat) : (d.accessFailed m k o).tbl = d.tbl := (Dev.reports_accessFailed d m k o).tbl
@[simp] theorem Dev.accessFailed_search (d : Dev) (m : Nat) (k : AccessKind) (o : Nat) : (d.accessFailed m k o).search = d.search := (Dev.reports_accessFailed d m k o).search
@[simp] theorem Dev.accessFailed_act (d : Dev) (m : Nat) (k : AccessKind) (o : Nat) : (d.accessFailed m k o).act = d.act := (Dev.reports_accessFailed d m k o).act
@[simp] theorem Dev.accessFailed_hld (d : Dev) (m : Nat) (k : AccessKind) (o : Nat) : (d.accessFailed m k o).hld = d.hld := (Dev.reports_accessFailed d m k o).hld
@[simp] theorem Dev.accessFailed_tim (d : Dev) (m : Nat) (k : AccessKind) (o : Nat) : (d.accessFailed m k o).tim = d.tim := (Dev.reports_accessFailed d m k o).tim
@[simp] theorem Dev.accessFailed_opBase (d : Dev) (m : Nat) (k : AccessKind) (o : Nat) : (d.accessFailed m k o).opBase = d.opBase := (Dev.reports_accessFailed d m k o).opBase
@[simp] theorem Dev.accessFailed_flits (d : Dev) (m : Nat) (k : AccessKind) (o : Nat) : (d.accessFailed m k o).flits = d.flits := (Dev.reports_accessFailed d m k o).flits
@[simp] theorem Dev.accessFailed_pins (d : Dev) (m : Nat) (k : AccessKind) (o : Nat) : (d.accessFailed m k o).pins = d.pins := (Dev.reports_accessFailed d m k o).pins
@[simp] theorem Dev.accessFailed_boot (d : Dev) (m : Nat) (k : AccessKind) (o : Nat) : (d.accessFailed m k o).boot = d.boot := (Dev.reports_accessFailed d m k o).boot
@[simp] theorem Dev.accessFailed_hlt (d : Dev) (m : Nat) (k : AccessKind) (o : Nat) : (d.accessFailed m k o).hlt = d.hlt := (Dev.reports_accessFailed d m k o).hlt
@[simp] theorem Dev.accessFailed_img (d : Dev) (m : Nat) (k : AccessKind) (o : Nat) : (d.accessFailed m k o).img = d.img := (Dev.reports_accessFailed d m k o).img
@[simp] theorem Dev.accessFailed_fab (d : Dev) (m : Nat) (k : AccessKind) (o : Nat) : (d.accessFailed m k o).fab = d.fab := (Dev.reports_accessFailed d m k o).fab
@[simp] theorem Dev.accessFailed_turns (d : Dev) (m : Nat) (k : AccessKind) (o : Nat) : (d.accessFailed m k o).turns = d.turns := (Dev.reports_accessFailed d m k o).turns
@[simp] theorem Dev.accessFailed_wires (d : Dev) (m : Nat) (k : AccessKind) (o : Nat) : (d.accessFailed m k o).wires = d.wires := (Dev.reports_accessFailed d m k o).wires
@[simp] theorem Dev.accessFailed_pair (d : Dev) (m : Nat) (k : AccessKind) (o : Nat) : (d.accessFailed m k o).pair = d.pair := (Dev.reports_accessFailed d m k o).pair
@[simp] theorem Dev.accessFailed_words (d : Dev) (m : Nat) (k : AccessKind) (o : Nat) : (d.accessFailed m k o).words = d.words := (Dev.reports_accessFailed d m k o).words
@[simp] theorem Dev.accessFailed_reg (d : Dev) (m : Nat) (k : AccessKind) (o : Nat) : (d.accessFailed m k o).reg = d.reg := (Dev.reports_accessFailed d m k o).reg
@[simp] theorem Dev.accessFailed_mbx (d : Dev) (m : Nat) (k : AccessKind) (o : Nat) : (d.accessFailed m k o).mbx = d.mbx := (Dev.reports_accessFailed d m k o).mbx
theorem Dev.accessFailed_fld (d : Dev) (m : Nat) (k : AccessKind) (o : Nat) (x : Field) (u w : Nat) (h : x.id ∉ reportFields) :
    (d.accessFailed m k o).fld x u w = d.fld x u w := (Dev.reports_accessFailed d m k o).fld x u w h

end Sys2Proof.Machine
end

