-- ==== Sys2Proof/Laws/Registers.lean ====
section
/-! SUPPORT. What the checks of the register bus let through, and what they leave of the device otherwise. -/

namespace Sys2Proof.Machine

@[simp] theorem Dev.complete_flds (d : Dev) (c : Completion) : (d.complete c).flds = d.flds := rfl
@[simp] theorem Dev.complete_ctrs (d : Dev) (c : Completion) : (d.complete c).ctrs = d.ctrs := rfl
@[simp] theorem Dev.complete_last (d : Dev) (c : Completion) : (d.complete c).reg.last = c := rfl

/-- An open access runs its effect and completes. -/
theorem Dev.gateWrite_open (d : Dev) (m off : Nat) (f : Dev → Dev) (h : d.Open m off) :
    d.gateWrite m off f = (f d).complete (.ok 0) := by
  obtain ⟨h1, h2, h3, h4⟩ := h
  simp [Dev.gateWrite, h1, h2, h3, h4]

theorem Dev.onWrite_open (d : Dev) (m : Nat) (r : Reg) (i j : Nat) (f : Dev → Dev) (h : d.Open m (r.addr i j)) :
    d.onWrite m r i j f = (f d).complete (.ok 0) := Dev.gateWrite_open d m _ f h

theorem Dev.gateRead_open (d : Dev) (m off : Nat) (f : Dev → Nat × Dev) (h : d.Open m off) :
    d.gateRead m off f = (f d).2.complete (.ok (f d).1) := by
  obtain ⟨_, h2, h3, _⟩ := h
  simp [Dev.gateRead, h2, h3]

theorem Dev.onPop_open (d : Dev) (m : Nat) (r : Reg) (i : Nat) (f : Dev → Nat × Dev) (h : d.Open m (r.addr i 0)) :
    d.onPop m r i f = (f d).2.complete (.ok (f d).1) := by
  have h1 := h.1
  simp [Dev.onPop, h1, Dev.gateRead_open d m _ f h]

end Sys2Proof.Machine
end

