-- ==== Sys2Proof/Machine/Package.lean ====
section
/-! DEFINITION. The balls of the package (R531 to R533): their names and the signals that the lane dies, PCI Express, the
clocks and the control pins bring to them.  No command changes them. -/

namespace Sys2Proof.Machine

/-- A ball by its row `i` and column `j`, 1 to 82 from the A1 corner (R531). -/
structure Ball where
  i : Nat
  j : Nat
  deriving DecidableEq, Repr

/-- The 19 letters of row names. -/
def rowLetters : List String :=
  ["A", "B", "C", "D", "E", "F", "G", "H", "J", "K", "L", "M", "N", "P", "T", "U", "V", "W", "Y"]

def rowLetter (n : Nat) : String := rowLetters.getD n ""

/-- The name of row `i`: one letter for rows 1 to 19, then two, the first taken in turn from A to D (R531). -/
def rowName (i : Nat) : String :=
  if i ≤ 19 then rowLetter (i - 1) else rowLetter ((i - 20) / 19) ++ rowLetter ((i - 20) % 19)

/-- The name of a ball: its row name followed by its column (R531). -/
def Ball.name (b : Ball) : String := rowName b.i ++ toString b.j

/-- A ball of edge 0 carried to edge `n`, `n` quarter-turns clockwise (R533). -/
def Ball.toEdge (b : Ball) (n : Nat) : Ball :=
  match n with
  | 0 => b
  | 1 => ⟨b.j, 83 - b.i⟩
  | 2 => ⟨83 - b.i, 83 - b.j⟩
  | _ => ⟨83 - b.j, b.i⟩

/-- The ball of a lane's signal: transmit or receive, its positive or negative half (R533). -/
def laneBall (l : Nat) (tx positive : Bool) : Ball :=
  (Ball.mk (if tx then 2 else 6) (10 + 2 * (l % 32) + (if positive then 0 else 1))).toEdge (l / 32)

/-- The ball of a PCI Express lane's signal: rows 66 (CJ) and 68 (CL) (R532). -/
def pcieBall (i : Nat) (tx positive : Bool) : Ball :=
  ⟨if tx then 66 else 68, 20 + 2 * i + (if positive then 0 else 1)⟩

/-- The control pins in the order of row 60 (CC), from column 20 (R532). -/
def controlPins : List String :=
  ["SYS_RESET_N", "BOOT_SEL[0]", "BOOT_SEL[1]", "BOOT_SEL[2]", "PFAIL_N", "SAFE_N", "REPLACE_N", "ALERT_N",
    "THERMTRIP_N", "LEASE_OUT", "LEASE_IN", "LEASE_OUT_B", "LEASE_IN_B", "PULSE_OUT[0]", "PULSE_OUT[1]", "PULSE_OUT[2]",
    "PULSE_OUT[3]", "CAPTURE_IN[0]", "CAPTURE_IN[1]", "SPI_CLK", "SPI_CS_N", "SPI_IO[0]", "SPI_IO[1]"] ++
  ["SPI_IO[2]", "SPI_IO[3]", "SMB_CLK", "SMB_DAT", "AVS_CLK", "AVS_MDATA", "AVS_SDATA", "TCK", "TMS", "TDI", "TDO",
    "TRST_N"]

/-- The clock and host control pins of their rows: 70 (CN) and 62 (CE), from column 20 (R532). -/
def clockPins : List (String × Ball) :=
  [("PCIE_REFCLK_P", ⟨70, 20⟩), ("PCIE_REFCLK_N", ⟨70, 21⟩), ("PERST_N", ⟨70, 22⟩), ("REFCLK_P", ⟨62, 20⟩),
    ("REFCLK_N", ⟨62, 21⟩), ("VDD_CORE_SENSE_P", ⟨62, 22⟩), ("VDD_CORE_SENSE_N", ⟨62, 23⟩)]

/-- The ball of a control pin by its place in the list: row 60 (CC) (R532). -/
def controlBall (k : Nat) : Ball := ⟨60, 20 + k⟩

end Sys2Proof.Machine
end

