-- ==== Sys2Proof/WellFormed.lean ====
section
/-! DEFINITION. Which commands are well formed: the shapes that the operands' types do not say. -/

namespace Sys2Proof

/-- A descriptor of a ring and the one behind it, of a size: 64 bytes in a table ring (R195), 128 in a TCAM ring (R209). -/
def ringPair (size : Nat) (desc next : List (BitVec 8)) : Bool := desc.length == size && next.length == size

/-- The words that an access of a form carries (R442): one, two, or the words of a burst. -/
def BusForm.carries (f : BusForm) (data : List (BitVec 32)) : Bool :=
  match f with
  | .odd => true
  | .dword => data.length == 1
  | .qword => data.length == 2
  | .burst n => decide (2 ≤ n) && data.length == n

/-- No two entries of a list are about the same thing. -/
def noRepeat {α β : Type} [DecidableEq β] (l : List α) (key : α → β) : Bool := decide (l.map key).Nodup

/-- The command's operands have the shapes of the things they stand for.  The commands not named have no operand whose type
admits another shape. -/
def Instr.wf : Instr → Bool
  | .tblReadRow _ a b _ | .tblWriteRow _ a b | .tblInsert _ a b _ | .tblDelete _ a b _ | .tblLookup _ a b _
  | .tblPrefixAdd _ a b _ | .tblPrefixDel _ a b _ | .tblPrefixGet _ a b _ | .tblFlush _ a b | .tblBadDescriptor _ a b =>
    ringPair 64 a b
  | .tcmReadEntry _ a b | .tcmWriteEntry _ a b | .tcmInsertAt _ a b | .tcmDeleteAt _ a b | .tcmLookup _ a b
  | .tcmClearPartition _ a b | .tcmBadDescriptor _ a b => ringPair 128 a b
  | .pf1TxFrame _ ds _ => ds.all (fun x => x.1.length == 32)
  | .pf1RxDeliver ds _ => ds.all (fun x => x.length == 32)
  | .registerWrite _ _ _ form data _ => form.carries data
  | .bundleDiagnosisDone _ _ o i _ => noRepeat o id && noRepeat i id
  | .sliceFaultIsolate _ fs => noRepeat fs id
  | .holdDrain _ reads _ => reads.all (fun r => noRepeat r.bad id && noRepeat r.err (fun e => (e.1, e.2.1)))
  | .pf2Read _ desc _ reads => desc.length == 32 && reads.all (fun r => noRepeat r.2.bad id && noRepeat r.2.err (fun e => (e.1, e.2.1)))
  | .holdScrub corr bad err => noRepeat corr id && noRepeat bad id && noRepeat err (fun e => (e.1, e.2.1))
  | .evrFlushDone bad => noRepeat bad id
  | .cfgScrub bad => noRepeat bad (·.1) && bad.all (fun x => x.1.val % 4 == 0)
  | _ => true

end Sys2Proof
end

