-- ==== Sys2Proof/Tests/Slice0.lean ====
section
/-! SUPPORT. Tests: ill-formed commands are refused; check values of the codes; single steps; and for every statement with
hypotheses, operands and a state that meet those of each of its clauses. -/

set_option Elab.async false

namespace Sys2Proof.Tests
open Sys2Proof Sys2Proof.Machine

/-! ### Ill-formed commands (one for each check) -/

theorem test_wf_ring_descriptor : (Instr.tblReadRow 3 (List.replicate 63 0) (List.replicate 64 0) []).wf = false := by decide
theorem test_wf_ring_next : (Instr.tblFlush 0 (List.replicate 64 0) []).wf = false := by decide
theorem test_wf_tcam_descriptor : (Instr.tcmLookup 3 (List.replicate 64 0) (List.replicate 128 0)).wf = false := by decide
theorem test_wf_tx_descriptor : (Instr.pf1TxFrame 0 [(List.replicate 16 0, [])] []).wf = false := by decide
theorem test_wf_rx_descriptor : (Instr.pf1RxDeliver [List.replicate 33 0] ⟨[], none, false, none, 0⟩).wf = false := by decide
theorem test_wf_read_descriptor : (Instr.pf2Read 3 [] [] []).wf = false := by decide
theorem test_wf_dword_of_two : BusForm.dword.carries [1, 2] = false := by decide
theorem test_wf_qword_of_one : BusForm.qword.carries [1] = false := by decide
theorem test_wf_burst_of_one : (BusForm.burst 1).carries [1] = false := by decide
theorem test_wf_burst_short : (BusForm.burst 3).carries [1, 2] = false := by decide
theorem test_wf_write_data (env : WriteEnv) : (Instr.registerWrite 4 false 0x60 .dword [] env).wf = false := rfl
theorem test_wf_wires_repeat : (Instr.bundleDiagnosisDone 0 0 [65, 65] [] true).wf = false := by decide
theorem test_wf_wires_repeat_in : (Instr.bundleDiagnosisDone 0 0 [] [0, 0] true).wf = false := by decide
theorem test_wf_slices_repeat : (Instr.sliceFaultIsolate 31 [4, 4]).wf = false := by decide
theorem test_wf_drain_dies_repeat : (Instr.holdDrain 0 [⟨0, [17, 17], []⟩] none).wf = false := by decide
theorem test_wf_drain_errors_repeat : (Instr.holdDrain 0 [⟨0, [], [(3, 7, 1), (3, 7, 2)]⟩] none).wf = false := by decide
theorem test_wf_scrub_repeat : (Instr.holdScrub [(3, 1), (3, 1)] [] []).wf = false := by decide
theorem test_wf_scrub_dies_repeat : (Instr.holdScrub [] [5, 5] []).wf = false := by decide
theorem test_wf_scrub_errors_repeat : (Instr.holdScrub [] [] [(5, 9, 1), (5, 9, 2)]).wf = false := by decide
theorem test_wf_flush_repeat : (Instr.evrFlushDone [3, 3]).wf = false := by decide
theorem test_wf_log_read_repeat : (Instr.pf2Read 3 (List.replicate 32 0) [] [(0, ⟨0, [4, 4], []⟩)]).wf = false := by decide
theorem test_wf_config_repeat : (Instr.cfgScrub [(0x60, 1), (0x60, 2)]).wf = false := by decide
theorem test_wf_config_unaligned : (Instr.cfgScrub [(0x61, 1)]).wf = false := by decide

/-! ### Check values of the codes, of the nine digits (IEEE 802.3, and the CRC catalogue for CRC-32C) -/

def nineDigits : Bytes := (List.range 9).map (fun i => BitVec.ofNat 8 (0x31 + i))
theorem test_crc32 : crc32 nineDigits = 0xCBF43926 := by decide +kernel
theorem test_crc32c : crc32c nineDigits = 0xE3069283 := by decide +kernel

/-- A powered device whose firmware runs with an image committed, in SUMMER, 20 s after reset. -/
def running : Dev :=
  let b := { BootSt.reset with powered := true, inReset := false, romRuns := true, fwRuns := true, committed := true }
  let d : Dev := { Dev.reset with now := 8000000000, host := { HostSt.reset with lost := false }, boot := b }
  (d.set0 .MBX_STATUS_FW_UP 1).set0 .HLT_STATE_STATE 1
def st (d : Dev) : State := ⟨d, []⟩
def up : State := st running
/-- The event area mounted. -/
def evrUp : Dev := (running.set0 .EVR_STATUS_MOUNTED 1).set0 .EVR_STATUS_NO_STORE 0
def rec1 (n : Nat) : EvRec := ⟨some n, .START, 1, 0, [1], 1, 5, 0, 0, 0, 0⟩
/-- A request of `ws` waiting alone on pair `k`. -/
def asking (d : Dev) (k : Nat) (x : Msg) : Dev := { d with mbx := { d.mbx with requests := [(k, [x])] } }
/-- A request message: version 3, opcode `op`, arguments `as`. -/
def req (op : Nat) (as : List Nat) : Msg := ⟨(3 * 2 ^ 24 + op * 2 ^ 12 + 5) :: (as.length) :: as, false⟩

/-! An image: its sections, and the image around them. -/

def portsBody : Bytes := (List.range 8).flatMap (fun _ => [0, 0, 0xE4, 0, 0, 0, 0, 0] ++ List.replicate 8 0)
def classesBody : Bytes := List.replicate 64 0 ++ leBytes 2 50 ++ List.replicate 30 0 ++
    (List.range 8).flatMap (fun _ => List.replicate 16 0 ++ leBytes 4 1 ++ List.replicate 12 0)
def actionsBody : Bytes := leBytes 2 0 ++ leBytes 2 32 ++ leBytes 4 0 ++ (List.range 32).flatMap (fun _ => [3, 0, 0, 0] ++ leBytes 2 0xFFFF ++ leBytes 2 0xFFFF ++ leBytes 2 0xFFFF ++ List.replicate 6 0)
def parseBody : Bytes := leBytes 2 1 ++ leBytes 2 64 ++ leBytes 4 0 ++ [0, 1, 2, 0, 0, 0] ++ leBytes 2 14 ++ leBytes 2 14 ++ leBytes 2 0 ++ [0, 0] ++ leBytes 2 0 ++ leBytes 2 96 ++ [16, 0] ++ List.replicate 44 0
def keysBody : Bytes := leBytes 2 1 ++ leBytes 2 128 ++ leBytes 4 0 ++ [0, 0, 0, 0] ++ List.replicate 124 0
def tcamBody : Bytes := leBytes 2 1 ++ List.replicate 6 0 ++ [0, 0, 1, 0, 0, 15] ++ List.replicate 10 0
/-- `n` bytes of zero. -/
def zeroes (n : Nat) : Bytes := List.replicate n 0
/-- The header of an image whose signature block is at `sig`, of `n` sections, with its check `crc` (Table 2-1). -/
def header (flags sig n crc : Nat) : Bytes :=
  [leBytes 4 0x48544C56, leBytes 2 0x402, leBytes 2 flags, leBytes 4 (sig + 256), leBytes 4 7, leBytes 2 n, zeroes 2, leBytes 4 64,
    leBytes 4 sig, zeroes 32, leBytes 4 crc].flatten
/-- An entry of the section table (Table 2-2). -/
def entry (type version mask off len crc : Nat) : Bytes :=
  [leBytes 2 type, leBytes 2 version, leBytes 4 mask, leBytes 4 off, leBytes 4 len, leBytes 4 crc, zeroes 4].flatten
/-- The image without its signature block, and an unsigned block behind it (Table 2-4). -/
def unsigned_ (front : Bytes) : Bytes :=
  front ++ ([leBytes 4 0x4E474953, zeroes 4, beBytes 48 (Config.sha384 front).toNat, zeroes 200].flatten : Bytes)
/-- A full image of the smallest sections, up to its signature block. -/
def fullFront : Bytes :=
  [header 0 1856 8 55672834, entry 1 0x402 15 256 128 1990050215, entry 2 0x401 0 384 7 3141429869, entry 3 0x402 15 448 72 996689438, entry 4 0x402 15 576 136 1760397237, entry 5 0x400 0 768 24 753681086, entry 7 0x402 15 832 520 3970878551, entry 8 0x402 0 1408 352 3446032218, entry 12 0x400 0 1792 16 1114675946, portsBody, zeroes 7, zeroes 57, parseBody, zeroes 56, keysBody, zeroes 56, tcamBody, zeroes 40, actionsBody, zeroes 56, classesBody, zeroes 32, zeroes 16, zeroes 48].flatten
/-- An amendment of the CLASSES section. -/
def amendFront : Bytes :=
  [header 1 512 1 51985678, entry 8 0x402 0 128 352 3446032218, zeroes 40, classesBody, zeroes 32].flatten
def fullImage : Bytes := unsigned_ fullFront
def amendImage : Bytes := unsigned_ amendFront

/-- The bytes of a number that fits them. -/
theorem leBytes_leNat (bs : Bytes) : leBytes bs.length (leNat bs) = bs := by
  induction bs with
  | nil => rfl
  | cons b l ih =>
    have q : (b.toNat + 256 * leNat l) / 256 = leNat l := by have := b.isLt; omega
    have r : BitVec.ofNat 8 (b.toNat + 256 * leNat l) = b := by
      apply BitVec.eq_of_toNat_eq
      have := b.isLt
      simp only [BitVec.toNat_ofNat]
      omega
    simp only [leNat, List.length_cons, leBytes, q, r, ih]

theorem leBytes_leAt (bs : Bytes) (o : Nat) : leBytes 4 (leAt bs o 4) = slice bs o 4 := by
  have h := leBytes_leNat (slice bs o 4)
  rwa [show (slice bs o 4).length = 4 from List.takeD_length ..] at h

/-- Eight words of a 32-byte number spell it. -/
theorem words_spell (v : Nat) : (List.range 8).flatMap (fun i => slice (beBytes 32 v) (4 * i) 4) = beBytes 32 v := rfl

theorem response_words (key c : Bytes) (p : Nat) (f : Nat → Nat)
    (h : ∀ i < 8, f i = leAt (response key c p) (4 * i) 4) :
    (List.range 8).flatMap (fun i => leBytes 4 (f i)) = response key c p := by
  have e : ∀ i ∈ List.range 8, leBytes 4 (f i) = slice (response key c p) (4 * i) 4 := fun i hi => by
    rw [h i (List.mem_range.1 hi), leBytes_leAt]
  rw [List.flatMap_congr e]
  exact words_spell _

theorem find_first {A : Type} (k : Nat) (v : A) (l : Map A) : Map.find? ((k, v) :: l) k = some v := by simp [Map.find?]

end Sys2Proof.Tests

namespace Sys2Proof.Tests.Recording
open Sys2Proof Sys2Proof.Machine Sys2Proof.Tests

def infoReq : Msg := req 0x001 []
def withKey (d : Dev) : Dev := { d with img := { d.img with sections := [(k2 14 4, leBytes 4 77 ++ leBytes 32 12345)] } }
def fuseReq : Msg := req 0x030 (List.range 12 ++ [0xF05E])
def uncommitted (d : Dev) : Dev := { d with boot := { d.boot with committed := false } }
def chal (d : Dev) (m p : Nat) : Dev := { d with mbx := { d.mbx with challenges := Map.set none d.mbx.challenges (k2 m p) (some ⟨leBytes 32 5, some 7999999999⟩) } }
def resp (p : Nat) : List Nat := (List.range 8).map (fun i => leAt (response (leBytes 32 12345) (leBytes 32 5) p) (4 * i) 4)
def clearD : Dev := { evrUp with evr := { evrUp.evr with area := [(4, some (rec1 4))], head := 5, oldest := 4, nextSeq := 5 } }
def clearAsk : Dev := chal (asking (withKey clearD) 0 (req 0x011 (resp 2))) 4 2
def env0 : WriteEnv := ⟨none, ⟨[], [], [], none⟩, []⟩
def ind (d : Dev) (b : IndBank) : Dev := d.setInd 0 4 b
def smb : Dev := { running with reg := { running.reg with smbAddr := 0x60 } }

theorem witness_performanceMonitors_1 :
    ∃ (m : Master) (s : State), s.dev.Open m (Reg.PMC_CTRL.addr 0 0) :=
  ⟨4, up, by simp only [Dev.Open]; decide +kernel⟩

theorem witness_performanceMonitors_2 :
    ∃ (m : Master) (s : State), s.dev.Open m (Reg.PMC_CTRL.addr 0 0) :=
  ⟨4, up, by simp only [Dev.Open]; decide +kernel⟩

theorem witness_performanceMonitors_3 :
    ∃ (m : Master) (s : State), s.dev.Open m (Reg.PMC_CTRL.addr 0 0) :=
  ⟨4, up, by simp only [Dev.Open]; decide +kernel⟩

theorem witness_performanceMonitors_4 :
    ∃ (m : Master) (s : State), s.dev.Open m (Reg.PMC_CTRL.addr 0 0) :=
  ⟨4, up, by simp only [Dev.Open]; decide +kernel⟩

theorem witness_performanceMonitors_5 :
    ∃ (m : Master) (k : Fin 6) (_en : Bool) (s : State), s.dev.Open m (Reg.PMC_CTL.addr k 0) :=
  ⟨4, 5, true, up, by simp only [Dev.Open]; decide +kernel⟩

theorem witness_performanceMonitors_6 :
    ∃ (m : Master) (k : Fin 6) (c : Fin 8) (chain : Bool) (qual : Fin 256) (ev : Fin 1024) (qs : List Nat) (s : State), s.dev.Open m (Reg.PMC_SEL.addr k c) ∧
      (¬(chain = true ∧ c.val = 0)) ∧ perfQuals k ev = some qs ∧ (qual.val = 0xFF ∨ qual.val ∈ qs) :=
  ⟨4, 0, 1, true, 0xFF, 0x001, (perfQuals 0 0x001).getD [], up, by simp only [Dev.Open]; decide +kernel⟩

theorem witness_performanceMonitors_7 :
    ∃ (m : Master) (k : Fin 6) (_qual : Fin 256) (_ev : Fin 1024) (s : State), s.dev.Open m (Reg.PMC_SEL.addr k 0) :=
  ⟨4, 5, 0xFF, 0x001, up, by simp only [Dev.Open]; decide +kernel⟩

theorem witness_performanceMonitors_8 :
    ∃ s : State, s.dev.pmc.windowStart + s.dev.f0 .PMC_BW_WINDOW * tUs ≤ s.dev.now :=
  ⟨up, by decide +kernel⟩

theorem witness_performanceMonitors_9 :
    ∃ (m : Master) (us : BitVec 32) (s : State), s.dev.Open m (Reg.PMC_BW_WINDOW.addr 0 0) ∧ 1 ≤ us.toNat ∧
      us.toNat ≤ 10000000 :=
  ⟨4, 1, up, by simp only [Dev.Open]; decide +kernel⟩

theorem witness_performanceMonitors_9_2 :
    ∃ (m : Master) (us : BitVec 32) (s : State), s.dev.Open m (Reg.PMC_BW_WINDOW.addr 0 0) ∧ 1 ≤ us.toNat ∧
      us.toNat ≤ 10000000 :=
  ⟨4, 10000000, up, by simp only [Dev.Open]; decide +kernel⟩

theorem witness_performanceMonitors_10 :
    ∃ (m : Master) (s : State), s.dev.Open m (Reg.PMC_BW_CTRL.addr 0 0) :=
  ⟨4, up, by simp only [Dev.Open]; decide +kernel⟩

theorem witness_flushes_1 :
    ∃ s : State, s.dev.evrStore = true ∧ s.dev.evr.flushTo = none ∧ s.dev.evr.freezeAt = none ∧ s.dev.evr.erase = none ∧
      s.dev.evr.lastFlushEnd + tSec ≤ s.dev.now :=
  ⟨st evrUp, by decide +kernel⟩

theorem witness_flushes_2 :
    ∃ (m : Master) (s : State), s.dev.Open m (Reg.EVR_CTRL.addr 0 0) ∧ s.dev.evrStore = true ∧ s.dev.evr.flushTo = none ∧
      s.dev.evr.freezeAt = none ∧ s.dev.evr.erase = none :=
  ⟨4, st evrUp, by simp only [Dev.Open]; decide +kernel⟩

theorem witness_flushes_3 :
    ∃ s : State, s.dev.evrStore = true ∧ s.dev.evr.flushTo = none ∧ s.dev.evr.freezeAt = none ∧ s.dev.evr.erase = none ∧
      s.dev.evr.flushDue = true :=
  ⟨st { evrUp with evr := { evrUp.evr with flushDue := true } }, by decide +kernel⟩

theorem witness_flushes_4 :
    ∃ (s : State), s.dev.boot.fwRuns = true ∧ s.dev.boot.inReset = false ∧ s.dev.fwUp = true ∧
      bitOf (s.dev.f0 .MBX_DB_H2F_LO) 0 = true ∧ s.dev.evrStore = true ∧ s.dev.evr.flushTo = none ∧
      s.dev.evr.freezeAt = none ∧ s.dev.evr.erase = none :=
  ⟨st (evrUp.set0 .MBX_DB_H2F_LO 1), by decide +kernel⟩

theorem witness_flushes_5 :
    ∃ (s : State) (r : EvRec) (n q : Nat), s.dev.evr.flushTo = some q ∧ s.dev.evr.flushAgain = false ∧
      r ∈ s.dev.stagedBefore q ∧ r.seq = some n ∧
      (∀ x ∈ s.dev.stagedBefore q, ∀ k, x.seq = some k → k % 16777216 = n % 16777216 → x = r) :=
  ⟨st { evrUp with evr := { evrUp.evr with flushTo := some 16777216, fifo := [rec1 16777215], head := 16777215 } },
    rec1 16777215, 16777215, 16777216, by decide +kernel⟩

theorem witness_flushes_6 :
    ∃ (s : State) (r : EvRec) (q : Nat), s.dev.evr.flushTo = some q ∧ s.dev.evr.flushAgain = false ∧ s.dev.evr.fifo = [r] :=
  ⟨st { evrUp with evr := { evrUp.evr with flushTo := some 16777216, fifo := [rec1 16777215], head := 16777215 } },
    rec1 16777215, 16777216, by decide +kernel⟩

theorem witness_freezeEraseAndNumbering_1 :
    ∃ (m : Master) (s : State), s.dev.Open m (Reg.EVR_CTRL.addr 0 0) ∧ pwMaster m = true ∧ s.dev.evr.freezeAt = none ∧
      s.dev.evr.releaseFlush = false :=
  ⟨4, st evrUp, by simp only [Dev.Open]; decide +kernel⟩

theorem witness_freezeEraseAndNumbering_2 :
    ∃ (m : Master) (s : State) (a : Nat), s.dev.Open m (Reg.EVR_CTRL.addr 0 0) ∧ s.dev.evr.freezeAt = some a ∧
      s.dev.f0 .EVR_STATUS_FREEZE_OWNER = m.val ∧ s.dev.evrStore = true ∧ s.dev.evr.flushTo = none ∧ s.dev.evr.erase = none :=
  ⟨4, st (({ evrUp with evr := { evrUp.evr with freezeAt := some 1 } }).set0 .EVR_STATUS_FREEZE_OWNER 4), 1,
    by simp only [Dev.Open]; decide +kernel⟩

theorem witness_freezeEraseAndNumbering_3 :
    ∃ (s : State) (a : Nat), s.dev.evr.freezeAt = some a ∧ a + 10 * tSec ≤ s.dev.now :=
  ⟨st (({ evrUp with evr := { evrUp.evr with freezeAt := some 4000000000 } }).set0 .EVR_STATUS_FREEZE_OWNER 4), 4000000000,
    by decide +kernel⟩

theorem witness_freezeEraseAndNumbering_4 :
    ∃ (s : State) (a b : Nat), s.dev.evr.erase = some (a, b) ∧ s.dev.evrStore = true ∧ s.dev.pins.pfail = false ∧
      s.dev.boot.flushAt = none ∧ s.dev.evr.flushAgain = false ∧ s.dev.mbx.eraseReply = none :=
  ⟨st { evrUp with evr := { evrUp.evr with erase := some (0, 4), area := [(4, some (rec1 4)), (5, some (rec1 5))], head := 6 } },
    0, 4, by decide +kernel⟩

theorem witness_freezeEraseAndNumbering_5 :
    ∃ (s : State), s.dev.evr.numbering = false ∧ s.dev.b0 .EVR_STATUS_MOUNTED = false ∧ s.dev.boot.inReset = false ∧
      s.dev.boot.t0 + 5 * tSec ≤ s.dev.now ∧ s.dev.evr.fifo = [] :=
  ⟨st running, by decide +kernel⟩

theorem witness_freezeEraseAndNumbering_6 :
    ∃ (m : Master) (w : BitVec 32) (s : State), s.dev.Open m (Reg.EVR_STAGE_SEQ.addr 0 0) ∧
      (s.dev.evr.fifo.find? (fun r => decide (r.seq = some w.toNat)) = none) :=
  ⟨4, 7, st { evrUp with evr := { evrUp.evr with fifo := [rec1 8] } }, by simp only [Dev.Open]; decide +kernel⟩

theorem witness_freezeEraseAndNumbering_7 :
    ∃ (m : Master) (w : BitVec 32) (r : EvRec) (s : State), s.dev.Open m (Reg.EVR_STAGE_SEQ.addr 0 0) ∧
      (s.dev.evr.fifo.find? (fun r => decide (r.seq = some w.toNat)) = some r) :=
  ⟨4, 8, rec1 8, st { evrUp with evr := { evrUp.evr with fifo := [rec1 8] } }, by simp only [Dev.Open]; decide +kernel⟩

theorem witness_freezeEraseAndNumbering_8 :
    ∃ (m : Master) (w : BitVec 32) (r : EvRec) (s : State), s.dev.Open m (Reg.EVR_STAGE_RELEASE.addr 0 0) ∧
      s.dev.b0 .EVR_STATUS_NO_STORE = true ∧ s.dev.evr.fifo = [r] ∧ r.seq = some w.toNat ∧ s.dev.boot.inReset = false :=
  ⟨4, 8, rec1 8, st ({ running with evr := { running.evr with fifo := [rec1 8] } }.set0 .EVR_STATUS_NO_STORE 1),
    by simp only [Dev.Open]; decide +kernel⟩

theorem witness_mailboxHandshake_1 :
    ∃ (m : Master) (k : Fin 8) (s : State), s.dev.Open m (Reg.MBX_H2F_CTRL.addr k 0) ∧ m.val = pairMaster k ∧
      s.dev.fwUp = true ∧ s.dev.b1 .MBX_H2F_STATUS_FULL k = false :=
  ⟨4, 0, up, by simp only [Dev.Open]; decide +kernel⟩

theorem witness_mailboxHandshake_2 :
    ∃ (k : Fin 8) (s : State), s.dev.fwUp = true ∧ s.dev.b1 .MBX_H2F_STATUS_FULL k = true :=
  ⟨0, st (running.set1 .MBX_H2F_STATUS_FULL 0 1), by decide +kernel⟩

theorem witness_mailboxHandshake_3 :
    ∃ (k : Fin 8) (x : Msg) (rest : List Msg) (s : State), Map.get [] s.dev.mbx.queue k = x :: rest ∧ s.dev.fwUp = true ∧
      s.dev.f2hFull k = false ∧ s.dev.senderUp k = true ∧ (s.dev.mbx.lostMsgs = [] ∨ k.val ≠ 5) :=
  ⟨5, infoReq, [], st { running with mbx := { running.mbx with queue := [(5, [infoReq])] } }, by decide +kernel⟩

theorem witness_mailboxHandshake_4 :
    ∃ (m : Master) (k : Fin 8) (s : State), s.dev.Open m (Reg.MBX_F2H_CTRL.addr k 0) ∧ m.val = pairMaster k ∧
      s.dev.mbx.lostMsgs = [] :=
  ⟨8, 7, st (running.set1 .MBX_F2H_STATUS_FULL 7 1), by simp only [Dev.Open]; decide +kernel⟩

theorem witness_mailboxHandshake_5 :
    ∃ (m : Master) (k : Fin 8) (s : State), s.dev.Open m (Reg.MBX_F2H_CTRL.addr k 0) ∧ m.val = pairMaster k :=
  ⟨8, 7, st (running.set1 .MBX_F2H_STATUS_FULL 7 1), by simp only [Dev.Open]; decide +kernel⟩

theorem witness_requestsAnswered_1 :
    ∃ (k : Fin 8) (x : Msg) (s : State), s.dev.asks k 0x001 x ∧ x.len = 0 :=
  ⟨0, infoReq, st (asking running 0 infoReq), by simp only [Dev.asks]; decide +kernel⟩

theorem witness_requestsAnswered_2 :
    ∃ (k : Fin 8) (x : Msg) (s : State), s.dev.asks k 0x002 x ∧ x.len ≤ 14 :=
  ⟨7, req 0x002 (List.range 14), st (asking running 7 (req 0x002 (List.range 14))), by simp only [Dev.asks]; decide +kernel⟩

theorem witness_requestsAnswered_3 :
    ∃ (k : Fin 8) (x : Msg) (s : State), s.dev.asks k 0x003 x ∧ x.len = 0 ∧ s.dev.evrStore = true ∧
      s.dev.evr.flushTo = none ∧ s.dev.evr.freezeAt = none ∧ s.dev.evr.erase = none :=
  ⟨0, req 0x003 [], st (asking evrUp 0 (req 0x003 [])), by simp only [Dev.asks]; decide +kernel⟩

theorem witness_requestsAnswered_4 :
    ∃ (k : Fin 8) (x : Msg) (p id : Nat) (key : Bytes) (s : State), s.dev.asks k 0x010 x ∧ x.len = 1 ∧ x.arg 0 = p ∧
      (p = 2 ∨ p = 1 ∧ s.dev.winter = true) ∧ s.dev.b0 .MBX_STATUS_CRED_HOLDOFF = false ∧ s.dev.credential = some (id, key) :=
  ⟨0, req 0x010 [2], 2, 77, leBytes 32 12345, st (asking (withKey running) 0 (req 0x010 [2])),
    by simp only [Dev.asks]; decide +kernel⟩

theorem witness_requestsAnswered_4_2 :
    ∃ (k : Fin 8) (x : Msg) (p id : Nat) (key : Bytes) (s : State), s.dev.asks k 0x010 x ∧ x.len = 1 ∧ x.arg 0 = p ∧
      (p = 2 ∨ p = 1 ∧ s.dev.winter = true) ∧ s.dev.b0 .MBX_STATUS_CRED_HOLDOFF = false ∧ s.dev.credential = some (id, key) :=
  ⟨0, req 0x010 [1], 1, 77, leBytes 32 12345, st ((asking (withKey running) 0 (req 0x010 [1])).set0 .HLT_STATE_STATE 3),
    by simp only [Dev.asks]; decide +kernel⟩

theorem witness_requestsAnswered_5 :
    ∃ (k : Fin 8) (op : Nat) (x : Msg) (s : State), opcodeRow op = none ∧ s.dev.asks k op x :=
  ⟨5, 0x123, req 0x123 [], st (asking running 5 (req 0x123 [])), by simp only [Dev.asks]; decide +kernel⟩

theorem witness_credentialRequests_1 :
    ∃ (k : Fin 8) (x : Msg) (s : State), s.dev.asks k 0x020 x ∧ x.len = 0 :=
  ⟨0, req 0x020 [], st (asking running 0 (req 0x020 [])), by simp only [Dev.asks]; decide +kernel⟩

theorem witness_credentialRequests_2 :
    ∃ (k : Fin 8) (x : Msg) (s : State), s.dev.asks k 0x021 x ∧ x.len = 8 :=
  ⟨0, req 0x021 (List.range 8), st (asking running 0 (req 0x021 (List.range 8))), by simp only [Dev.asks]; decide +kernel⟩

theorem witness_credentialRequests_3 :
    ∃ (x : Msg) (s : State), s.dev.asks 0 0x030 x ∧ x.len = 13 ∧ x.arg 12 = 0xF05E ∧
      (s.dev.winter = true ∨ s.dev.boot.committed = false) ∧ s.dev.b0 .IMG_STATUS_BUSY = false ∧
      s.dev.b0 .IMG_OWNER_STATUS_KEY_SET = false ∧ s.dev.mbx.fuseBroken = false :=
  ⟨fuseReq, st (asking (uncommitted running) 0 fuseReq), by simp only [Dev.asks]; decide +kernel⟩

theorem witness_credentialRequests_4 :
    ∃ (k : Fin 8) (x : Msg) (id : Nat) (key c : Bytes) (s : State), s.dev.asks k 0x011 x ∧ x.len = 8 ∧
      s.dev.challenge (pairMaster k) 2 = some c ∧ s.dev.credential = some (id, key) ∧
      (List.range 8).flatMap (fun i => leBytes 4 (x.arg i)) = response key c 2 ∧ s.dev.evr.freezeAt = none ∧
      s.dev.evr.erase = none ∧ s.dev.evrStore = true ∧ s.dev.evr.fifo = [] ∧ (∀ j < 6, s.dev.f1 .EVR_LOST_PEND j = 0) ∧
      s.dev.behind s.dev.evr.oldest ≤ 16777216 :=
  ⟨0, req 0x011 (resp 2), 77, leBytes 32 12345, leBytes 32 5, st clearAsk, by
    have h : (List.range 8).flatMap (fun i => leBytes 4 ((req 0x011 (resp 2)).arg i)) =
        response (leBytes 32 12345) (leBytes 32 5) 2 :=
      response_words _ _ _ _ (by intro i hi; interval_cases i <;> rfl)
    have a : (st clearAsk).dev.asks 0 0x011 (req 0x011 (resp 2)) :=
      ⟨by decide +kernel, by decide, rfl, by decide +kernel, by decide +kernel, by decide +kernel, rfl, by decide⟩
    exact ⟨a, rfl, by decide +kernel, by decide +kernel, h, by decide +kernel⟩⟩

theorem witness_timersDoorbellsAndLocks_1 :
    ∃ (m : Master) (p : Fin 3) (s : State), s.dev.challenge m p = none :=
  ⟨4, 2, up, by decide +kernel⟩

theorem witness_timersDoorbellsAndLocks_2 :
    ∃ (a : Nat) (s : State), s.dev.mbx.holdoffEnd = some a ∧ a ≤ s.dev.now :=
  ⟨8000000000,
    st ({ running with mbx := { running.mbx with holdoffEnd := some 8000000000 } }.set0 .MBX_STATUS_CRED_HOLDOFF 1),
    by decide +kernel⟩

theorem witness_timersDoorbellsAndLocks_3 :
    ∃ s : State, s.dev.fwUp = true ∧ bitOf (s.dev.f0 .MBX_DB_H2F_LO) 1 = true :=
  ⟨st (running.set0 .MBX_DB_H2F_LO 2), by decide +kernel⟩

theorem witness_timersDoorbellsAndLocks_4 :
    ∃ (m : Master) (i : Fin 64) (s : State), s.dev.Open m (Reg.LCK_LOCK.addr i 0) ∧ s.dev.lockHolder i = 15 :=
  ⟨4, 63, up, by simp only [Dev.Open]; decide +kernel⟩

theorem witness_timersDoorbellsAndLocks_5 :
    ∃ (m : Master) (i : Fin 64) (s : State), s.dev.Open m (Reg.LCK_LOCK.addr i 0) ∧ s.dev.lockHolder i ≠ 15 :=
  ⟨5, 63, st (running.set1 .LCK_LOCK_HOLDER 63 4), by simp only [Dev.Open]; decide +kernel⟩

theorem witness_timersDoorbellsAndLocks_6 :
    ∃ (m : Master) (i : Fin 64) (v : Fin 16) (s : State), s.dev.Open m (Reg.LCK_LOCK.addr i 0) ∧ s.dev.lockHolder i = m.val ∧
      v.val = m.val :=
  ⟨4, 63, 4, st (running.set1 .LCK_LOCK_HOLDER 63 4), by simp only [Dev.Open]; decide +kernel⟩

theorem witness_timersDoorbellsAndLocks_7 :
    ∃ (m : Master) (i : Fin 64) (v : Fin 16) (s : State), s.dev.Open m (Reg.LCK_LOCK.addr i 0) ∧
      (¬(s.dev.lockHolder i = m.val ∧ v.val = m.val)) :=
  ⟨5, 63, 4, st (running.set1 .LCK_LOCK_HOLDER 63 4), by simp only [Dev.Open]; decide +kernel⟩

theorem witness_timersDoorbellsAndLocks_7_2 :
    ∃ (m : Master) (i : Fin 64) (v : Fin 16) (s : State), s.dev.Open m (Reg.LCK_LOCK.addr i 0) ∧
      (¬(s.dev.lockHolder i = m.val ∧ v.val = m.val)) :=
  ⟨4, 63, 4, up, by simp only [Dev.Open]; decide +kernel⟩

theorem witness_timersDoorbellsAndLocks_8 :
    ∃ (x : Msg) (w : Nat × Nat × Nat × Nat) (s : State), Map.get [] s.dev.mbx.requests 6 = [x] ∧ s.dev.fwUp = true ∧
      x.opcode = 0x042 ∧ s.dev.mbx.witness = [w] ∧ w.1 = x.seq ∧ w.2.1 = 0x042 ∧ s.dev.now ≤ w.2.2.2 ∧ x.status = 0 :=
  ⟨req 0x042 [], (5, 0x042, 0, 8000000000),
    st { running with mbx := { running.mbx with requests := [(6, [req 0x042 []])], witness := [(5, 0x042, 0, 8000000000)] } },
    by decide +kernel⟩

theorem witness_timersDoorbellsAndLocks_9 :
    ∃ (x : Msg) (rest : List Msg) (w : Nat × Nat × Nat × Nat) (s : State), Map.get [] s.dev.mbx.requests 6 = x :: rest ∧
      s.dev.fwUp = true ∧ x.opcode ∈ [0x040, 0x041, 0x042] ∧ s.dev.mbx.witness = [w] ∧ w.1 = x.seq ∧ w.2.2.2 < s.dev.now :=
  ⟨req 0x040 [], [], (5, 0x040, 0, 7999999999),
    st { running with mbx := { running.mbx with requests := [(6, [req 0x040 []])], witness := [(5, 0x040, 0, 7999999999)] } },
    by decide +kernel⟩

theorem witness_registerAccesses_1 :
    ∃ (m : Master) (off : Fin 16777216) (r : Reg) (i j : Nat) (s : State), s.dev.checkAt m false off false false = .pass (.reg r i j) :=
  ⟨4, 0x60, .GLB_SCRATCH, 0, 0, up, by decide +kernel⟩

theorem witness_registerAccesses_2 :
    ∃ (m : Master) (_w : BitVec 32) (_env : WriteEnv) (s : State), s.dev.checkAt m false 0x60 true false = .pass (.reg .GLB_SCRATCH 0 0) :=
  ⟨4, 0xFFFFFFFF, env0, up, by decide +kernel⟩

theorem witness_registerAccesses_3 :
    ∃ (m : Master) (_w : BitVec 32) (_env : WriteEnv) (s : State), s.dev.f0 .GLB_SCRATCH_M < 2 ^ 16 ∧
      s.dev.checkAt m false 0x64 true false = .pass (.reg .GLB_SCRATCH_M 0 0) :=
  ⟨4, 0xFFFF1234, env0, st (running.set0 .GLB_SCRATCH_M 0xFFFF), by decide +kernel⟩

theorem witness_registerAccesses_4 :
    ∃ (m : Master) (off : Fin 16777216) (r : Reg) (i j v : Nat) (s : State), s.dev.designated m false off = true ∧
      s.dev.checkAt m false off false false = .pass (.reg r i j) ∧ s.dev.pairAt r i j = some v :=
  ⟨4, 0x500080, .BUF_CNT_LO, 0, 0, 0, up, by decide +kernel⟩

theorem witness_registerAccesses_5 :
    ∃ (m : Master) (off : Fin 16777216) (r : Reg) (i j : Nat) (s : State), regOf off = some (r, i, j) ∧
      r.clearBit.isSome = true ∧ s.dev.Open m off :=
  ⟨4, 0x500004, .BUF_CTRL, 0, 0, up, by simp only [Dev.Open]; decide +kernel⟩

theorem witness_registerAccesses_6 :
    ∃ (m : Master) (s : State), s.dev.Open m (Reg.BUF_CTRL.addr 0 0) :=
  ⟨4, up, by simp only [Dev.Open]; decide +kernel⟩

theorem witness_registerAccesses_7 :
    ∃ (m : Master) (major minor : Fin 256) (s : State), s.dev.Open m (Reg.GLB_HIF_SELECT.addr 0 0) ∧
      s.dev.reg.written.contains Reg.GLB_HIF_SELECT.ctorIdx = false ∧ (major.val = 2 ∧ minor.val ≤ 15 ∨ major.val = 3 ∧
      minor.val ≤ 4) :=
  ⟨4, 2, 15, up, by simp only [Dev.Open]; decide +kernel⟩

theorem witness_registerAccesses_7_2 :
    ∃ (m : Master) (major minor : Fin 256) (s : State), s.dev.Open m (Reg.GLB_HIF_SELECT.addr 0 0) ∧
      s.dev.reg.written.contains Reg.GLB_HIF_SELECT.ctorIdx = false ∧ (major.val = 2 ∧ minor.val ≤ 15 ∨ major.val = 3 ∧
      minor.val ≤ 4) :=
  ⟨4, 3, 4, up, by simp only [Dev.Open]; decide +kernel⟩

theorem witness_registerAccesses_8 :
    ∃ (m : Master) (s : State), s.dev.Open m (Reg.GLB_FUSE_COMMIT.addr 0 0) ∧ pwMaster m = true :=
  ⟨8, up, by simp only [Dev.Open]; decide +kernel⟩

theorem witness_indirectWindows_1 :
    ∃ (m : Master) (n : Region) (_w : BitVec 32) (s : State), s.dev.Open m (Reg.IND_ADDR.addr n 0) ∧
      (s.dev.indBank n m).busy = false :=
  ⟨4, 0, 0x12780005, up, by simp only [Dev.Open]; decide +kernel⟩

theorem witness_indirectWindows_2 :
    ∃ (m : Master) (n : Region) (k c : Nat) (s : State), (s.dev.indBank n m).fetching = true ∧
      spaceShape (s.dev.indBank n m).space = some (k, c) ∧ (s.dev.indBank n m).word < k * c ∧
      (s.dev.indBank n m).staged = 0 :=
  ⟨4, 0, 16, 64, st (ind running { IndBank.reset with space := 1, fetching := true, word := 1023 }), by decide +kernel⟩

theorem witness_indirectWindows_3 :
    ∃ (m : Master) (n : Region) (s : State), m ≠ 7 ∧ s.dev.Open m (Reg.IND_DATA.addr n ((s.dev.indBank n m).stride - 1)) ∧
      (s.dev.indBank n m).ready = true ∧ s.dev.autoInc m (s.dev.indBank n m) = true ∧ 1 ≤ (s.dev.indBank n m).stride :=
  ⟨4, 0, st (ind ((running.set0 .GLB_HIF_ACTIVE_MINOR 4).set0 .GLB_HIF_ACTIVE_MAJOR 3) { IndBank.reset with space := 1, ready := true, autoInc := true, stride := 16, word := 524280 }),
    by simp only [Dev.Open]; decide +kernel⟩

theorem witness_indirectWindows_4 :
    ∃ (m : Master) (n : Region) (sp e k c : Nat) (count : Fin 32) (s : State), s.dev.Open m (Reg.IND_CMD.addr n 0) ∧
      (s.dev.indBank n m).busy = false ∧ (s.dev.indBank n m).space = sp ∧ spaceShape sp = some (k, c) ∧ 0x10 ≤ sp ∧
      (s.dev.indBank n m).word = k * e ∧ e < c ∧ count.val = k ∧ s.dev.regionIsolated n = false :=
  ⟨4, 0, 0x12, 65535, 8, 65536, 8,
    st (ind running { IndBank.reset with space := 0x12, word := 8 * 65535, ready := true, data := (List.range 16).map (· + 1) }),
    by simp only [Dev.Open]; decide +kernel⟩

theorem witness_indirectWindows_5 :
    ∃ (m : Master) (n : Region) (s : State), (s.dev.indBank n m).busy = true :=
  ⟨4, 0, st (ind running { IndBank.reset with busy := true, space := 0x12 }), by decide +kernel⟩

theorem witness_smbusCommands_1 :
    ∃ (_a : BitVec 32) (s : State), s.dev.smbUp = true :=
  ⟨0x60, up, by decide +kernel⟩

theorem witness_smbusCommands_2 :
    ∃ (r : Reg) (i j : Nat) (s : State), s.dev.smbUp = true ∧
      s.dev.checkAt 8 false s.dev.reg.smbAddr false false = .pass (.reg r i j) :=
  ⟨.GLB_SCRATCH, 0, 0, st smb, by decide +kernel⟩

theorem witness_smbusCommands_3 :
    ∃ (k : AccessKind) (s : State), s.dev.smbUp = true ∧ s.dev.checkAt 8 false s.dev.reg.smbAddr false false = .fail k :=
  ⟨.reserved, st { running with reg := { running.reg with smbAddr := 0x3 } }, by decide +kernel⟩

theorem witness_smbusCommands_4 :
    ∃ (count : Fin 256) (_a : BitVec 32) (s : State), s.dev.smbUp = true ∧ count.val ≠ 4 :=
  ⟨5, 0x60, up, by decide +kernel⟩

theorem witness_smbusCommands_5 :
    ∃ (_a : BitVec 32) (s : State), s.dev.smbUp = true :=
  ⟨0x60, up, by decide +kernel⟩

theorem witness_smbusCommands_6 :
    ∃ (_w : BitVec 32) (_env : WriteEnv) (s : State), s.dev.smbUp = true ∧ s.dev.reg.smbAddr = 0x60 ∧
      s.dev.checkAt 8 false 0x60 true false = .pass (.reg .GLB_SCRATCH 0 0) :=
  ⟨0xFFFFFFFF, env0, st smb, by decide +kernel⟩

theorem witness_smbusCommands_7 :
    ∃ (s : State), s.dev.smbUp = true :=
  ⟨up, by decide +kernel⟩

theorem witness_smbusCommands_8 :
    ∃ (s : State), s.dev.smbUp = true :=
  ⟨st smb, by decide +kernel⟩

theorem witness_smbusCommands_9 :
    ∃ (s : State), s.dev.smbUp = true :=
  ⟨up, by decide +kernel⟩

end Sys2Proof.Tests.Recording

namespace Sys2Proof.Tests.HostRings
open Sys2Proof Sys2Proof.Machine Sys2Proof.Tests

def ring (d : Dev) (r tail : Nat) : Dev := ((d.set1 .DMA_RING_CTRL_ENABLE r 1).set1 .DMA_RING_TAIL r tail).set1 .DMA_RING_SIZE r 64
def txDesc : Bytes := leBytes 8 0x1000 ++ leBytes 2 60 ++ [3, 0] ++ leBytes 2 0 ++ [0, 2] ++ leBytes 16 0
def chn (bs : Bytes) : Chain := { bytes := bs, hasFcs := true, marked := none, port := 0, region := 0, tc := 0, cells := 1, refs := 1, lastOwner := none, crc32c := 0, cap := ⟨0, 0, 0, false⟩, parse := .empty 0, hash := 4000000000, dflt := none }
def txf (id len : Nat) : TxFrame := ⟨.plain id len 0 0, 0, 0, false⟩
def rxDesc : Bytes := leBytes 8 0x1000 ++ leBytes 2 256 ++ leBytes 22 0
def pf1D : Dev :=
  let b := { running.buf with inflight := [(132, some (txf 3 64))], chains := [(3, some (chn (List.replicate 64 9)))] }
  ring ({ running with buf := b }.set1 .DMA_RX_STEER_COUNT 0 64) 123 1
def rdDesc : Bytes := [1, 0, 0, 0] ++ leBytes 4 16 ++ leBytes 8 (2 ^ 30 - 16) ++ leBytes 8 0x40 ++ leBytes 8 0
def pf2D : Dev := ring { running with hld := { running.hld with mounted := true } } 131 1

theorem witness_hostRings_1 :
    ∃ (r : Fin 132) (tail : BitVec 32) (s : State), s.dev.host.lost = false ∧ s.dev.host.d3hot.contains (ringFn r) = false ∧
      s.dev.boot.fwRuns = true ∧ s.dev.ringOn r = true ∧ tail.toNat < s.dev.ringSize r ∧
      s.dev.ringPosted r + (tail.toNat + s.dev.ringSize r - s.dev.f1 .DMA_RING_TAIL r) % s.dev.ringSize r < s.dev.ringSize r :=
  ⟨131, 63, st (ring running 131 0), by decide +kernel⟩

theorem witness_hostRings_2 :
    ∃ (r : Fin 132) (tail : BitVec 32) (s : State), s.dev.host.lost = false ∧ s.dev.host.d3hot.contains (ringFn r) = false ∧
      s.dev.boot.fwRuns = true ∧ s.dev.ringOn r = true ∧
      (s.dev.ringSize r ≤ tail.toNat ∨ s.dev.ringSize r ≤ s.dev.ringPosted r + (tail.toNat + s.dev.ringSize r - s.dev.f1 .DMA_RING_TAIL r) % s.dev.ringSize r) :=
  ⟨0, 64, st (ring running 0 5), by decide +kernel⟩

theorem witness_hostRings_3 :
    ∃ (m : Master) (r : Fin 132) (v : Fin 1024) (s : State), s.dev.Open m (Reg.DMA_RING_CTRL.addr r 0) ∧
      (r.val < 128 ∨ v.val < 64) :=
  ⟨4, 131, 63, up, by simp only [Dev.Open]; decide +kernel⟩

theorem witness_hostRings_4 :
    ∃ (m : Master) (r : Fin 132) (v : Fin 1024) (s : State), s.dev.Open m (Reg.DMA_RING_CTRL.addr r 0) ∧
      (r.val < 128 ∨ v.val < 64) :=
  ⟨4, 131, 63, st (ring running 131 5), by simp only [Dev.Open]; decide +kernel⟩

theorem witness_hostRings_5 :
    ∃ (m : Master) (r : Fin 132) (_enable : Bool) (v : Fin 1024) (s : State), s.dev.Open m (Reg.DMA_RING_CTRL.addr r 0) ∧
      128 ≤ r.val ∧ 64 ≤ v.val :=
  ⟨4, 131, false, 64, up, by simp only [Dev.Open]; decide +kernel⟩

theorem witness_hostRings_6 :
    ∃ (m : Master) (r : Fin 132) (s : State), s.dev.Open m (Reg.DMA_RING_CTRL.addr r 0) ∧
      s.dev.b1 .DMA_RING_STATUS_HALTED r = true ∧ s.dev.b1 .DMA_RING_CTRL_ENABLE r = true ∧
      Map.get none s.dev.host.doorbell r = none :=
  ⟨4, 5, st (((((ring running 5 9).set1 .DMA_RING_STATUS_HALTED 5 1).set1 .DMA_RING_STATUS_CODE 5 5)).set1 .DMA_RING_STATUS_HALT_INDEX 5 63),
    by simp only [Dev.Open]; decide +kernel⟩

theorem witness_hostRings_7 :
    ∃ (r : Fin 132) (m : ModSt) (s : State), Map.get none s.dev.host.mods r = some m ∧
      m.first + s.dev.f1 .DMA_RING_MOD_USEC r * tUs ≤ s.dev.now :=
  ⟨5, ⟨3, 8000000000⟩, st { running with host := { running.host with mods := [(5, some ⟨3, 8000000000⟩)] } },
    by decide +kernel⟩

theorem witness_hostRings_8 :
    ∃ (r : Fin 132) (_st : Fin 8) (s : State), s.dev.ringRuns r = true :=
  ⟨64, 4, st (ring running 64 3), by decide +kernel⟩

theorem witness_hostRings_9 :
    ∃ (_r : Fin 132) (s : State), s.dev.host.lost = false :=
  ⟨131, up, by decide +kernel⟩

theorem witness_hostTransfers_1 :
    ∃ (r : Fin 64) (desc buf : List (BitVec 8)) (_rivals : List (Fin 7)) (s : State), s.dev.ringRuns r = true ∧
      1 ≤ s.dev.ringPosted r ∧ s.dev.forwards = true ∧
      (takeTokens s.dev.host.inject (s.dev.f0 .DMA_INJECT_PPS) (4096 * tSec) tSec s.dev.now).1 = true ∧ leAt desc 0xA 1 = 3 ∧
      txBad [(desc, buf)] = none ∧ s.dev.regionIsolated (leAt desc 0xF 1) = false ∧ s.dev.img.reload = none ∧
      cellsFor (leAt desc 8 2) + 7 ≤ s.dev.freeCells :=
  ⟨0, txDesc, List.replicate 60 7, [0, 6], st (ring running 0 1), by decide +kernel⟩

theorem witness_hostTransfers_2 :
    ∃ (f : TxFrame) (c : Chain) (desc : List (BitVec 8)) (rd : CellRead) (r : Nat) (s : State), Map.get none s.dev.buf.inflight 132 = some f ∧
      s.dev.winter = false ∧ s.dev.buf.frozen = false ∧ s.dev.chain f.desc.chain = some c ∧ c.marked = none ∧ rd.bad = none ∧
      rd.corrupt = false ∧ f.desc.truncates c = false ∧
      r = 64 + (s.dev.f1 .DMA_RX_STEER_BASE (s.dev.queueClass 132 f.queue) + c.hash * s.dev.f1 .DMA_RX_STEER_COUNT (s.dev.queueClass 132 f.queue) / 2 ^ 32) % 64 ∧
      s.dev.ringRuns r = true ∧ 1 ≤ s.dev.ringPosted r ∧ rxBad desc = false ∧ c.body.length ≤ leAt desc 8 2 :=
  ⟨txf 3 64, chn (List.replicate 64 9), rxDesc, ⟨[], none, false, none, 0⟩, 64 + 59 % 64, st pf1D, by decide +kernel⟩

theorem witness_hostTransfers_3 :
    ∃ (q : Fin 4) (desc _fill : List (BitVec 8)) (reads : List (Nat × RowRead)) (s : State), s.dev.ringRuns (128 + q.val) = true ∧
      s.dev.ringPosted (128 + q.val) ≠ 0 ∧ s.dev.host.pf2Free ≤ s.dev.now ∧ reqBad desc = false ∧ leAt desc 1 1 ≠ 5 ∧
      leAt desc 8 8 + leAt desc 4 4 ≤ s.dev.areaSize (leAt desc 1 1) ∧ s.dev.hld.outOfService = false ∧
      s.dev.hld.mounted = true ∧
      (Dev.readRowList reads (s.dev.readRowsOf (leAt desc 1 1) (leAt desc 8 8) (leAt desc 4 4)) s.dev).2 = [] :=
  ⟨3, rdDesc, List.replicate 16 5, [], st pf2D, by decide +kernel⟩

theorem witness_hostLinkAndInterrupts_1 :
    ∃ (speed : Fin 8) (width : Fin 17) (_flit : Bool) (s : State), 1 ≤ speed.val ∧ width.val ∈ [1, 4, 8, 16] ∧
      s.dev.boot.inReset = false ∧ s.dev.boot.powered = true :=
  ⟨6, 16, false, st { running with host := { running.host with lost := true } }, by decide +kernel⟩

theorem witness_hostLinkAndInterrupts_1_2 :
    ∃ (speed : Fin 8) (width : Fin 17) (_flit : Bool) (s : State), 1 ≤ speed.val ∧ width.val ∈ [1, 4, 8, 16] ∧
      s.dev.boot.inReset = false ∧ s.dev.boot.powered = true :=
  ⟨1, 1, false, st { running with host := { running.host with lost := true } }, by decide +kernel⟩

theorem witness_hostLinkAndInterrupts_2 :
    ∃ (f : Fin 4) (s : State), s.dev.host.lost = false ∧ f.val ∉ s.dev.host.d3hot :=
  ⟨3, up, by decide +kernel⟩

theorem witness_hostLinkAndInterrupts_4 :
    ∃ (_f : Fin 4) (s : State), s.dev.host.lost = false :=
  ⟨2, up, by decide +kernel⟩

theorem witness_hostLinkAndInterrupts_5 :
    ∃ s : State, s.dev.host.perst = false :=
  ⟨up, by decide +kernel⟩

theorem witness_hostLinkAndInterrupts_6 :
    ∃ s : State, s.dev.host.lost = false :=
  ⟨up, by decide +kernel⟩

theorem witness_hostLinkAndInterrupts_7 :
    ∃ (_f : Fin 4) (_off : BitVec 24) (s : State), s.dev.host.lost = false :=
  ⟨1, 0x123456, up, by decide +kernel⟩

theorem witness_hostLinkAndInterrupts_8 :
    ∃ (m : Master) (i : Fin 16) (_v : BitVec 32) (s : State), s.dev.Open m (Reg.INT_PEND.addr i 0) ∧
      s.dev.f1 .INT_PEND i < 2 ^ 32 :=
  ⟨4, 15, 0x80000001, st (running.set1 .INT_PEND 15 0x80000003), by simp only [Dev.Open]; decide +kernel⟩

theorem witness_hostLinkAndInterrupts_9 :
    ∃ (m : Master) (i : Fin 16) (_v : BitVec 32) (s : State), s.dev.Open m (Reg.INT_MASK.addr i 0) :=
  ⟨4, 0, 0xFFFFFFFF, up, by simp only [Dev.Open]; decide +kernel⟩

theorem witness_hostLinkAndInterrupts_10 :
    ∃ (m : Master) (i : Fin 16) (_v : BitVec 32) (s : State), s.dev.Open m (Reg.INT_MASK.addr i 0) ∧
      (∀ b < 32, bitOf (s.dev.f1 .INT_PEND i) b = false) :=
  ⟨4, 15, 0, up, by simp only [Dev.Open]; decide +kernel⟩

end Sys2Proof.Tests.HostRings

namespace Sys2Proof.Tests.TimeBase
open Sys2Proof Sys2Proof.Machine Sys2Proof.Tests

def frcD (d : Dev) (frc : Nat) : Dev := { d with tim := { d.tim with frc := frc } }
def ep (n f : Nat) : Epoch := ⟨n, f, 100, 5, 6, -7⟩
def pulD (a h : Bool) (fall : Nat) : Dev := frcD ({ running with tim := { running.tim with pulses := [(3, ⟨a, h, false, 0, fall⟩)] } }.set1 .TIM_PULSE_WIDTH 3 32) 800
def capD (n : Nat) : Dev := ({ running with tim := { running.tim with frc := 1024, caps := [(1, (List.range n).map (fun i => ⟨⟨i + 2 ^ 33, 7, 3, true⟩, true⟩))] } }).set1 .TIM_CAP_CFG_EDGE 1 3
def ts (fw : Bool) : TxTs := ⟨0xFFFF, 3, ⟨2 ^ 33 + 1, 7, 255, false⟩, fw⟩
def ptpD (p : PtpPort) : Dev :=
  let d : Dev := { running with tim := { running.tim with ptp := [(127, p)] }, img := { running.img with sections := [(k2 11 4, [1, 24] ++ leBytes 14 0 ++ leBytes 16 (2 ^ 127))] } }
  (d.set1 .MAC_STATUS_LINK_UP 127 1).set0 .TIM_CTRL_CLOCK_MODE 1
def msg (t : Nat) : PtpMsg := ⟨t, 24, true, 9, 5, 1, 5, 3, none⟩
def servoD : Dev := ({ ptpD { PtpPort.reset with state := 2 } with tim := { (ptpD { PtpPort.reset with state := 2 }).tim with best := some 127, frc := 1000000 } }.set0 .TIM_CTRL_SERVO_EN 1).set0 .TIM_JUMP_LIMIT 100

theorem witness_adjustmentsWait_1 :
  let free (m : Master) (s : State) := s.dev.Open m (Reg.TIM_ADJ_CMD.addr 0 0) ∧ s.dev.b0 .TIM_ADJ_CMD_BUSY = false ∧
    (s.dev.b0 .TIM_CTRL_SERVO_EN = false ∨ m.val < 4)
    ∃ (m : Master) (s : State), free m s ∧ s.dev.f0 .TIM_ADJ_NS < 1000000000 ∧ s.dev.f0 .TIM_ADJ_FRAC < 65536 ∧
      s.dev.f0 .TIM_ADJ_SEC_HI < 2 ^ 32 ∧ s.dev.f0 .TIM_ADJ_SEC_LO < 2 ^ 32 :=
  ⟨4, st ((((frcD running 1000).set0 .TIM_ADJ_NS 999999999).set0 .TIM_ADJ_FRAC 65535).set0 .TIM_ADJ_SEC_LO 77),
    by simp only [Dev.Open]; decide +kernel⟩

theorem witness_adjustmentsWait_2 :
  let free (m : Master) (s : State) := s.dev.Open m (Reg.TIM_ADJ_CMD.addr 0 0) ∧ s.dev.b0 .TIM_ADJ_CMD_BUSY = false ∧
    (s.dev.b0 .TIM_CTRL_SERVO_EN = false ∨ m.val < 4)
    ∃ (m : Master) (s : State), free m s :=
  ⟨4, st (((frcD running 1280).set0 .TIM_ADJ_SEC_HI 0).set0 .TIM_ADJ_SEC_LO 5), by simp only [Dev.Open]; decide +kernel⟩

theorem witness_adjustmentsWait_3 :
  let free (m : Master) (s : State) := s.dev.Open m (Reg.TIM_ADJ_CMD.addr 0 0) ∧ s.dev.b0 .TIM_ADJ_CMD_BUSY = false ∧
    (s.dev.b0 .TIM_CTRL_SERVO_EN = false ∨ m.val < 4)
    ∃ (m : Master) (s : State), free m s ∧ (s.dev.adjustRegs 3).rate.natAbs ≤ 281474977 :=
  ⟨0, st ((frcD running 1281).set0 .TIM_ADJ_RATE_LO 281474977), by simp only [Dev.Open]; decide +kernel⟩

theorem witness_adjustmentsWait_4 :
  let free (m : Master) (s : State) := s.dev.Open m (Reg.TIM_ADJ_CMD.addr 0 0) ∧ s.dev.b0 .TIM_ADJ_CMD_BUSY = false ∧
    (s.dev.b0 .TIM_CTRL_SERVO_EN = false ∨ m.val < 4)
    ∃ (m : Master) (s : State), free m s ∧ (s.dev.adjustRegs 4).rate.natAbs ≤ 281474977 :=
  ⟨4, st ((frcD running 255).set0 .TIM_ADJ_RATE_LO 5), by simp only [Dev.Open]; decide +kernel⟩

theorem witness_adjustmentsWait_5 :
  let free (m : Master) (s : State) := s.dev.Open m (Reg.TIM_ADJ_CMD.addr 0 0) ∧ s.dev.b0 .TIM_ADJ_CMD_BUSY = false ∧
    (s.dev.b0 .TIM_CTRL_SERVO_EN = false ∨ m.val < 4)
    ∃ (m : Master) (op : Fin 8) (s : State), free m s ∧ (op.val = 0 ∨ 4 < op.val) :=
  ⟨4, 7, up, by simp only [Dev.Open]; decide +kernel⟩

theorem witness_epochsAndTimeBus_1 :
    ∃ (e : Epoch) (s : State), s.dev.tim.pending = some e ∧ e.frcStart ≤ s.dev.tim.frc ∧ s.dev.tim.stopped = false ∧
      s.dev.tim.zeroDue = false :=
  ⟨ep 17 1024, st { running with tim := { running.tim with frc := 1024, pending := some (ep 17 1024), cur := 16 } },
    by decide +kernel⟩

theorem witness_epochsAndTimeBus_2 :
    ∃ (_n : Region) (s : State), s.dev.tim.stopped = false :=
  ⟨3, st { running with tim := { running.tim with frc := 5, awaiting := [3, 1] } }, by decide +kernel⟩

theorem witness_epochsAndTimeBus_3 :
    ∃ (_n : Region) (s : State), s.dev.tim.stopped = false :=
  ⟨3, up, by decide +kernel⟩

theorem witness_epochsAndTimeBus_4 :
    ∃ (m : Master) (epoch : Fin 256) (_sub : Fin 8) (e : Epoch) (s : State), s.dev.Open m (Reg.TIM_CONV_CMD.addr 0 0) ∧
      Map.get none s.dev.tim.epochs (epoch.val % 16) = some e ∧ e.id = epoch.val ∧ s.dev.tim.cur = epoch.val ∧
      e.frcStart ≤ (s.dev.convBank m).frcHi * 2 ^ 32 + (s.dev.convBank m).frcLo :=
  ⟨4, 255, 7, ep 255 1024,
    st { running with tim := { running.tim with frc := 5000, cur := 255, epochs := [(15, some (ep 255 1024))], conv := [(4, ⟨1024, 0, 0, 0, false, false, 0, 0, 0⟩)] } },
    by simp only [Dev.Open]; decide +kernel⟩

theorem witness_pulseOutputs_1 :
    ∃ (m : Master) (k : Fin 4) (_locked : Bool) (_sub : Fin 8) (s : State), s.dev.Open m (Reg.TIM_PULSE_CFG.addr k 0) :=
  ⟨4, 3, false, 0, up, by simp only [Dev.Open]; decide +kernel⟩

theorem witness_pulseOutputs_2 :
    ∃ (m : Master) (k : Fin 4) (_locked : Bool) (sub : Fin 8) (s : State), s.dev.Open m (Reg.TIM_PULSE_CFG.addr k 0) ∧
      32 ≤ s.dev.f1 .TIM_PULSE_WIDTH k ∧
      ptpUnits s.dev.epochNow s.dev.frc67 + 65536000 ≤ timeUnits (s.dev.f1 .TIM_PULSE_START_SEC_HI k * 2 ^ 32 + s.dev.f1 .TIM_PULSE_START_SEC_LO k) (s.dev.f1 .TIM_PULSE_START_NS k) 0 + (sub.val * 20480 : Nat) :=
  ⟨4, 3, true, 7, st ((running.set1 .TIM_PULSE_WIDTH 3 32).set1 .TIM_PULSE_START_NS 3 2000),
    by simp only [Dev.Open]; decide +kernel⟩

theorem witness_pulseOutputs_3 :
    ∃ (m : Master) (k : Fin 4) (_locked : Bool) (sub : Fin 8) (s : State), s.dev.Open m (Reg.TIM_PULSE_CFG.addr k 0) ∧
      s.dev.pulseRanges k 2 = true ∧
      ptpUnits s.dev.epochNow s.dev.frc67 ≤ timeUnits (s.dev.f1 .TIM_PULSE_START_SEC_HI k * 2 ^ 32 + s.dev.f1 .TIM_PULSE_START_SEC_LO k) (s.dev.f1 .TIM_PULSE_START_NS k) 0 + (sub.val * 20480 : Nat) :=
  ⟨4, 3, true, 7,
    st (((running.set1 .TIM_PULSE_WIDTH 3 32).set1 .TIM_PULSE_START_NS 3 2000).set1 .TIM_PULSE_PERIOD_LO 3 1000),
    by simp only [Dev.Open]; decide +kernel⟩

theorem witness_pulseOutputs_4 :
    ∃ (m : Master) (k : Fin 4) (_locked : Bool) (_sub : Fin 8) (s : State), s.dev.Open m (Reg.TIM_PULSE_CFG.addr k 0) :=
  ⟨4, 3, true, 7, up, by simp only [Dev.Open]; decide +kernel⟩

theorem witness_pulseOutputs_5 :
    ∃ (k : Fin 4) (s : State), (s.dev.pulse k).armed = true ∧ s.dev.tim.stopped = false ∧
      0 ≤ s.dev.edgeAt k (s.dev.pulse k).next ∧ s.dev.edgeAt k (s.dev.pulse k).next ≤ s.dev.frc67 ∧
      s.dev.boot.committed = true ∧ s.dev.forwards = true ∧ s.dev.b1 .TIM_PULSE_CFG_LOCKED_ONLY k = false :=
  ⟨3, st ((pulD true false 0).set1 .TIM_PULSE_START_NS 3 2000), by decide +kernel⟩

theorem witness_pulseOutputs_6 :
    ∃ (k : Fin 4) (s : State), (s.dev.pulse k).high = true ∧ (s.dev.pulse k).fall ≤ s.dev.frc67 :=
  ⟨3, st (pulD true true 6400), by decide +kernel⟩

theorem witness_capturesAndTimeStamps_1 :
    ∃ (i : Fin 2) (rising : Bool) (_sub : Fin 8) (s : State), s.dev.boot.committed = true ∧ s.dev.tim.stopped = false ∧
      bitOf (s.dev.f1 .TIM_CAP_CFG_EDGE i) (if rising then 0 else 1) = true ∧ (Map.get [] s.dev.tim.caps i).length < 16 :=
  ⟨1, false, 7, st (capD 15), by decide +kernel⟩

theorem witness_capturesAndTimeStamps_2 :
    ∃ (i : Fin 2) (rising : Bool) (_sub : Fin 8) (s : State), s.dev.boot.committed = true ∧ s.dev.tim.stopped = false ∧
      bitOf (s.dev.f1 .TIM_CAP_CFG_EDGE i) (if rising then 0 else 1) = true ∧ 16 ≤ (Map.get [] s.dev.tim.caps i).length :=
  ⟨1, true, 7, st (capD 16), by decide +kernel⟩

theorem witness_capturesAndTimeStamps_3 :
    ∃ (m : Master) (i : Fin 2) (x : EdgeCap) (rest : List EdgeCap) (s : State), s.dev.Open m (Reg.TIM_CAP_POP.addr i 0) ∧
      Map.get [] s.dev.tim.caps i = x :: rest :=
  ⟨4, 1, ⟨⟨2 ^ 33, 7, 3, true⟩, true⟩, [], st (capD 1), by simp only [Dev.Open]; decide +kernel⟩

theorem witness_capturesAndTimeStamps_4 :
    ∃ (m : Master) (i : Fin 2) (s : State), s.dev.Open m (Reg.TIM_CAP_CFG.addr i 0) :=
  ⟨4, 1, st (capD 16), by simp only [Dev.Open]; decide +kernel⟩

theorem witness_capturesAndTimeStamps_5 :
    ∃ (m : Master) (g : Fin 32) (x : TxTs) (rest : List TxTs) (s : State), s.dev.Open m (Reg.TIM_TXTS_POP.addr g 0) ∧
      Map.get [] s.dev.tim.txts g = x :: rest ∧ x.firmware = false :=
  ⟨4, 31, ts false, [], st { running with tim := { running.tim with txts := [(31, [ts false])] } },
    by simp only [Dev.Open]; decide +kernel⟩

theorem witness_firmwarePtp_1 :
  let hears (p : Port) (s : State) := s.dev.boot.fwRuns = true ∧ s.dev.winter = false ∧ s.dev.ptpPort p = true ∧
    (s.dev.ptpSt p).isolatedUntil = none
    ∃ (p : Port) (x : PtpMsg) (s : State), hears p s ∧ (s.dev.ptpSt p).state = 2 ∧ x.type = 0 ∧ x.lengthOk = true ∧
      x.domain = s.dev.ptpDomain ∧ Map.get 0 (s.dev.ptpSt p).msgs 0 < 64 :=
  ⟨127, msg 0, st (ptpD { PtpPort.reset with state := 2, msgs := [(0, 63)] }), by decide +kernel⟩

theorem witness_firmwarePtp_2 :
  let hears (p : Port) (s : State) := s.dev.boot.fwRuns = true ∧ s.dev.winter = false ∧ s.dev.ptpPort p = true ∧
    (s.dev.ptpSt p).isolatedUntil = none
    ∃ (p : Port) (x : PtpMsg) (s : State), hears p s ∧ s.dev.now < (s.dev.ptpSt p).since + tSec ∧
      64 ≤ Map.get 0 (s.dev.ptpSt p).msgs x.type :=
  ⟨127, msg 11, st (ptpD { PtpPort.reset with state := 2, since := 7900000000, msgs := [(11, 64)] }), by decide +kernel⟩

theorem witness_firmwarePtp_3 :
    ∃ (p : Port) (a : Nat) (s : State), (s.dev.ptpSt p).isolatedUntil = some a ∧ a ≤ s.dev.now :=
  ⟨127, 8000000000, st (ptpD { PtpPort.reset with isolatedUntil := some 8000000000 }), by decide +kernel⟩

theorem witness_firmwarePtp_4 :
  let servo (p : Nat) (s : State) := s.dev.tim.best = some p ∧ s.dev.b0 .TIM_CTRL_SERVO_EN = true ∧ s.dev.winter = false ∧
    s.dev.tim.stopped = false ∧ s.dev.b0 .TIM_ADJ_CMD_BUSY = false
    ∃ (p : Nat) (off rate : Int) (_locked : Bool) (s : State), servo p s ∧ off.natAbs < s.dev.f0 .TIM_JUMP_LIMIT * 65536 ∧
      rate.natAbs ≤ 281474977 :=
  ⟨127, -6553599, 281474977, true, st servoD, by decide +kernel⟩

theorem witness_firmwarePtp_5 :
  let servo (p : Nat) (s : State) := s.dev.tim.best = some p ∧ s.dev.b0 .TIM_CTRL_SERVO_EN = true ∧ s.dev.winter = false ∧
    s.dev.tim.stopped = false ∧ s.dev.b0 .TIM_ADJ_CMD_BUSY = false
    ∃ (p : Nat) (off _rate : Int) (_locked : Bool) (s : State), servo p s ∧ s.dev.f0 .TIM_JUMP_LIMIT * 65536 ≤ off.natAbs ∧
      (s.dev.tim.lockedOnce = false ∨ s.dev.b0 .TIM_GM_POLICY_REFUSE_JUMP = false) :=
  ⟨127, 6553600, 0, true, st servoD, by decide +kernel⟩

theorem witness_firmwarePtp_6 :
  let servo (p : Nat) (s : State) := s.dev.tim.best = some p ∧ s.dev.b0 .TIM_CTRL_SERVO_EN = true ∧ s.dev.winter = false ∧
    s.dev.tim.stopped = false ∧ s.dev.b0 .TIM_ADJ_CMD_BUSY = false
    ∃ (p : Nat) (off _rate : Int) (_locked : Bool) (s : State), servo p s ∧ s.dev.f0 .TIM_JUMP_LIMIT * 65536 ≤ off.natAbs ∧
      s.dev.tim.lockedOnce = true ∧ s.dev.b0 .TIM_GM_POLICY_REFUSE_JUMP = true :=
  ⟨127, -6553600, 0, true,
    st ({ servoD with tim := { servoD.tim with lockedOnce := true } }.set0 .TIM_GM_POLICY_REFUSE_JUMP 1), by decide +kernel⟩

theorem witness_firmwarePtp_7 :
    ∃ (p : Nat) (s : State), s.dev.tim.best = some p ∧ s.dev.winter = false ∧ s.dev.tim.stopped = false :=
  ⟨127, st servoD, by decide +kernel⟩

theorem witness_firmwarePtp_8 :
    ∃ (m : Master) (x : Int) (s : State), s.dev.Open m (Reg.TIM_CTRL.addr 0 0) ∧ s.dev.tim.jump = some x ∧
      s.dev.f0 .TIM_STATUS_STATE = 3 ∧ s.dev.b0 .TIM_ADJ_CMD_BUSY = false :=
  ⟨4, 5, st ({ servoD with tim := { servoD.tim with jump := some 5 } }.set0 .TIM_STATUS_STATE 3),
    by simp only [Dev.Open]; decide +kernel⟩

theorem witness_firmwarePtp_9 :
    ∃ (m : Master) (_mode : Fin 2) (s : State), s.dev.Open m (Reg.TIM_CTRL.addr 0 0) :=
  ⟨4, 1, st servoD, by simp only [Dev.Open]; decide +kernel⟩

theorem witness_firmwarePtp_10 :
  let hears (p : Port) (s : State) := s.dev.boot.fwRuns = true ∧ s.dev.winter = false ∧ s.dev.ptpPort p = true ∧
    (s.dev.ptpSt p).isolatedUntil = none
    ∃ (p : Port) (_twoStep : Bool) (_req : Nat) (s : State), hears p s ∧ s.dev.linkUp p = true ∧
      s.dev.b0 .TIM_CTRL_CLOCK_MODE = true ∧ (s.dev.ptpSt p).state = 1 :=
  ⟨127, true, 5, st (ptpD { PtpPort.reset with state := 1, txSeq := 65535 }), by decide +kernel⟩

end Sys2Proof.Tests.TimeBase

namespace Sys2Proof.Tests.BootUp
open Sys2Proof Sys2Proof.Machine Sys2Proof.Tests

def bt (d : Dev) (f : BootSt → BootSt) : Dev := { d with boot := f d.boot }
def pn (d : Dev) (f : Pins → Pins) : Dev := { d with pins := f d.pins }
def held (c : Option Nat) : Dev := bt running fun b => { b with inReset := true, resetCause := c, fwRuns := false, romRuns := false, committed := false, powerGoodAt := some 4 }
def rom : Dev := bt running fun b => { b with fwRuns := false, committed := false }
def spi0 : Spi := ⟨[], [], [], none⟩
def spr (n : Nat) : Dev := (bt running fun b => { b with checks := n }).set0 .HLT_STATE_STATE 0
def locked (d : Dev) : Dev := d.set0 .CLK_STATUS_ROOT_LOCK 1
def spiDir : Bytes := leBytes 4 0x31445053 ++ leBytes 4 0x2000 ++ leBytes 4 4096 ++ leBytes 4 0x4000 ++ leBytes 4 268369920
def spi1 : Spi := ⟨[], spiDir ++ leBytes 4 (crc32c spiDir), [], some 12⟩

theorem witness_fullResets_1 :
  let idle (s : State) := s.dev.boot.inReset = false ∧ s.dev.boot.resetCause = none
    ∃ (ns : Nat) (s : State), s.dev.boot.powered = true ∧ 1000 ≤ ns ∧ idle s :=
  ⟨1000, up, by decide +kernel⟩

theorem witness_fullResets_2 :
  let idle (s : State) := s.dev.boot.inReset = false ∧ s.dev.boot.resetCause = none
    ∃ (m : Master) (s : State), s.dev.Open m (Reg.CLK_RST_CMD.addr 0 0) ∧ (m.val = 4 ∨ m.val = 8) ∧ idle s :=
  ⟨4, up, by simp only [Dev.Open]; decide +kernel⟩

theorem witness_fullResets_2_2 :
  let idle (s : State) := s.dev.boot.inReset = false ∧ s.dev.boot.resetCause = none
    ∃ (m : Master) (s : State), s.dev.Open m (Reg.CLK_RST_CMD.addr 0 0) ∧ (m.val = 4 ∨ m.val = 8) ∧ idle s :=
  ⟨8, up, by simp only [Dev.Open]; decide +kernel⟩

theorem witness_fullResets_3 :
    ∃ (c : Nat) (s : State), s.dev.boot.resetCause = some c ∧ c ≤ 4 ∧ s.dev.boot.inReset = false ∧
      s.dev.boot.flushDone = true ∧ (c = 1 → s.dev.pins.resetLow = true) :=
  ⟨1, st ((pn (bt running fun b => { b with resetCause := some 1, flushDone := true }) fun p => { p with resetLow := true }).set0 .CLK_POWER_CYCLES 9),
    by decide +kernel⟩

theorem witness_fullResets_3_2 :
    ∃ (c : Nat) (s : State), s.dev.boot.resetCause = some c ∧ c ≤ 4 ∧ s.dev.boot.inReset = false ∧
      s.dev.boot.flushDone = true ∧ (c = 1 → s.dev.pins.resetLow = true) :=
  ⟨4, st ((bt running fun b => { b with resetCause := some 4, flushDone := true, winterBefore := true }).set0 .CLK_POWER_CYCLES 9),
    by decide +kernel⟩

theorem witness_fullResets_4 :
    ∃ (s : State) (a : Nat), s.dev.boot.flushAt = some a ∧ s.dev.boot.flushDone = false :=
  ⟨st (bt running fun b => { b with flushAt := some 5 }), 5, by decide +kernel⟩

theorem witness_fullResets_5 :
    ∃ s : State, s.dev.boot.powered = true :=
  ⟨st (pn running fun p => { p with jtag := 1 }), by decide +kernel⟩

theorem witness_fullResets_6 :
  let idle (s : State) := s.dev.boot.inReset = false ∧ s.dev.boot.resetCause = none
    ∃ s : State, s.dev.boot.powered = true ∧ idle s :=
  ⟨up, by decide +kernel⟩

theorem witness_releasesAndPower_1 :
  let quiet (s : State) := s.dev.pins.jtag = 0 ∧ s.dev.pins.pfail = false ∧ s.dev.boot.pfailHighAt = none
    ∃ (_sel : Fin 8) (s : State), s.dev.boot.powered = true ∧ s.dev.pins.resetLow = true ∧ s.dev.boot.inReset = true ∧
      s.dev.boot.resetCause = some 1 ∧ quiet s :=
  ⟨7, st (pn (held (some 1)) fun p => { p with resetLow := true }), by decide +kernel⟩

theorem witness_releasesAndPower_2 :
  let quiet (s : State) := s.dev.pins.jtag = 0 ∧ s.dev.pins.pfail = false ∧ s.dev.boot.pfailHighAt = none
    ∃ (_sel : Fin 8) (a : Nat) (s : State), s.dev.boot.powered = true ∧ s.dev.boot.inReset = true ∧
      s.dev.boot.resetCause = some 0 ∧ s.dev.pins.resetLow = false ∧ s.dev.boot.powerGoodAt = some a ∧
      a + 10 * tMs ≤ s.dev.now ∧ quiet s :=
  ⟨7, 4, st (held (some 0)), by decide +kernel⟩

theorem witness_releasesAndPower_3 :
  let quiet (s : State) := s.dev.pins.jtag = 0 ∧ s.dev.pins.pfail = false ∧ s.dev.boot.pfailHighAt = none
    ∃ (_sel : Fin 8) (c : Nat) (s : State), s.dev.boot.powered = true ∧ s.dev.boot.inReset = true ∧
      s.dev.boot.resetCause = some c ∧ (c = 2 ∨ c = 3 ∨ c = 4) ∧ s.dev.pins.resetLow = false ∧ quiet s :=
  ⟨5, 4, st (held (some 4)), by decide +kernel⟩

theorem witness_releasesAndPower_4 :
    ∃ (_sel : Fin 8) (s : State), s.dev.boot.powered = true ∧ s.dev.boot.inReset = true ∧ s.dev.boot.resetCause = some 2 ∧
      s.dev.pins.resetLow = false ∧ s.dev.pins.jtag = 0 ∧ s.dev.pins.pfail = true :=
  ⟨5, st (pn (held (some 2)) fun p => { p with pfail := true }), by decide +kernel⟩

theorem witness_releasesAndPower_5 :
    ∃ (a : Nat) (s : State), s.dev.boot.powered = true ∧ s.dev.boot.inReset = true ∧ s.dev.boot.resetCause = none ∧
      s.dev.pins.pfail = false ∧ s.dev.pins.jtag = 0 ∧ s.dev.boot.pfailHighAt = some a ∧ a + 10 * tMs ≤ s.dev.now :=
  ⟨7996000000, st (bt (held none) fun b => { b with pfailHighAt := some 7996000000 }), by decide +kernel⟩

theorem witness_releasesAndPower_6 :
    ∃ (_low : Bool) (s : State), s.dev.boot.powered = false ∧ s.dev.f0 .CLK_POWER_CYCLES < 2 ^ 32 - 1 :=
  ⟨true, st ((bt running fun b => { b with powered := false }).set0 .CLK_POWER_CYCLES 4294967294), by decide +kernel⟩

theorem witness_releasesAndPower_7 :
    ∃ (ns : Nat) (_late : Bool) (s : State), s.dev.boot.powered = true ∧ s.dev.pins.pfail = false ∧ 200 ≤ ns ∧
      s.dev.boot.inReset = false ∧ s.dev.boot.flushDone = false ∧ s.dev.boot.flushAt = none :=
  ⟨200, true, up, by decide +kernel⟩

theorem witness_releasesAndPower_8 :
    ∃ (a : Nat) (s : State), s.dev.pins.pfail = true ∧ s.dev.boot.flushAt = some a ∧ s.dev.boot.inReset = false ∧
      s.dev.boot.resetCause = none :=
  ⟨5, st (pn (bt running fun b => { b with flushAt := some 5 }) fun p => { p with pfail := true }), by decide +kernel⟩

theorem witness_releasesAndPower_9 :
    ∃ s : State, s.dev.boot.powered = true :=
  ⟨up, by decide +kernel⟩

theorem witness_bootAndSpring_1 :
    ∃ (_a _b : Option (Nat × Bool)) (_spi : Spi) (_lost : List (Nat × Nat × Nat)) (v : Nat) (s : State), s.dev.romReady = true ∧
      s.dev.boot.hostFw = some v :=
  ⟨none, none, spi0, [], 12, st (locked ((bt rom fun b => { b with hostFw := some 12, areaMounted := true }))),
    by decide +kernel⟩

theorem witness_bootAndSpring_2 :
  let rom (s : State) := s.dev.romReady = true ∧ s.dev.boot.hostFw = none ∧ s.dev.boot.waitFw = false
    ∃ (_a _b : Option (Nat × Bool)) (spi : Spi) (_lost : List (Nat × Nat × Nat)) (v : Nat) (s : State), rom s ∧
      s.dev.f0 .CLK_BOOT_STATUS_STRAP = 1 ∧ spi.fw = some v ∧ (spiLength spi).isSome = true :=
  ⟨none, none, spi1, [], 12, st ((locked rom).set0 .CLK_BOOT_STATUS_STRAP 1), by decide +kernel⟩

theorem witness_bootAndSpring_3 :
  let rom (s : State) := s.dev.romReady = true ∧ s.dev.boot.hostFw = none ∧ s.dev.boot.waitFw = false
    ∃ (a b : Option (Nat × Bool)) (_spi : Spi) (_lost : List (Nat × Nat × Nat)) (slot v : Nat) (s : State), rom s ∧
      (s.dev.f0 .CLK_BOOT_STATUS_STRAP = 0 ∨ s.dev.f0 .CLK_BOOT_STATUS_STRAP = 3) ∧ s.dev.storeDead = false ∧
      (fwOrder a b).find? (fun x => x.2.2) = some (slot, v, true) :=
  ⟨some (7, true), some (9, true), spi0, [], 1, 9, st (locked (bt rom fun b => { b with areaMounted := true })),
    by decide +kernel⟩

theorem witness_bootAndSpring_3_2 :
  let rom (s : State) := s.dev.romReady = true ∧ s.dev.boot.hostFw = none ∧ s.dev.boot.waitFw = false
    ∃ (a b : Option (Nat × Bool)) (_spi : Spi) (_lost : List (Nat × Nat × Nat)) (slot v : Nat) (s : State), rom s ∧
      (s.dev.f0 .CLK_BOOT_STATUS_STRAP = 0 ∨ s.dev.f0 .CLK_BOOT_STATUS_STRAP = 3) ∧ s.dev.storeDead = false ∧
      (fwOrder a b).find? (fun x => x.2.2) = some (slot, v, true) :=
  ⟨some (7, true), some (9, false), spi0, [], 0, 7,
    st ((locked (bt rom fun b => { b with areaMounted := true })).set0 .CLK_BOOT_STATUS_STRAP 3), by decide +kernel⟩

theorem witness_bootAndSpring_4 :
  let rom (s : State) := s.dev.romReady = true ∧ s.dev.boot.hostFw = none ∧ s.dev.boot.waitFw = false
    ∃ (a b : Option (Nat × Bool)) (_spi : Spi) (_lost : List (Nat × Nat × Nat)) (s : State), rom s ∧
      (s.dev.f0 .CLK_BOOT_STATUS_STRAP = 2 ∨ 4 ≤ s.dev.f0 .CLK_BOOT_STATUS_STRAP) ∨ (s.dev.f0 .CLK_BOOT_STATUS_STRAP = 0 ∧
      (s.dev.storeDead = true ∨ (fwOrder a b).all (fun x => !x.2.2) = true)) :=
  ⟨none, none, spi0, [], st ((locked rom).set0 .CLK_BOOT_STATUS_STRAP 2), by decide +kernel⟩

theorem witness_bootAndSpring_4_2 :
  let rom (s : State) := s.dev.romReady = true ∧ s.dev.boot.hostFw = none ∧ s.dev.boot.waitFw = false
    ∃ (a b : Option (Nat × Bool)) (_spi : Spi) (_lost : List (Nat × Nat × Nat)) (s : State), rom s ∧
      (s.dev.f0 .CLK_BOOT_STATUS_STRAP = 2 ∨ 4 ≤ s.dev.f0 .CLK_BOOT_STATUS_STRAP) ∨ (s.dev.f0 .CLK_BOOT_STATUS_STRAP = 0 ∧
      (s.dev.storeDead = true ∨ (fwOrder a b).all (fun x => !x.2.2) = true)) :=
  ⟨none, none, spi0, [], st ((locked rom).set0 .CLK_BOOT_STATUS_STRAP 7), by decide +kernel⟩

theorem witness_bootAndSpring_4_3 :
  let rom (s : State) := s.dev.romReady = true ∧ s.dev.boot.hostFw = none ∧ s.dev.boot.waitFw = false
    ∃ (a b : Option (Nat × Bool)) (_spi : Spi) (_lost : List (Nat × Nat × Nat)) (s : State), rom s ∧
      (s.dev.f0 .CLK_BOOT_STATUS_STRAP = 2 ∨ 4 ≤ s.dev.f0 .CLK_BOOT_STATUS_STRAP) ∨ (s.dev.f0 .CLK_BOOT_STATUS_STRAP = 0 ∧
      (s.dev.storeDead = true ∨ (fwOrder a b).all (fun x => !x.2.2) = true)) :=
  ⟨none, some (9, false), spi0, [], st (locked (bt rom fun b => { b with areaMounted := true })), by decide +kernel⟩

theorem witness_bootAndSpring_5 :
    ∃ (m : Master) (s : State), s.dev.Open m (Reg.CLK_BOOT_FW_CMD.addr 0 0) ∧ s.dev.waitsForHost = true ∧
      s.dev.b0 .CLK_BOOT_FW_CMD_BUSY = false ∧ 0 < s.dev.f0 .CLK_BOOT_FW_LEN ∧ s.dev.f0 .CLK_BOOT_FW_LEN ≤ 67108864 ∧
      s.dev.f0 .CLK_BOOT_FW_LO % 64 = 0 :=
  ⟨4, st (((bt rom fun b => { b with waitFw := true }).set0 .CLK_BOOT_FW_LEN 67108864).set0 .CLK_BOOT_FW_LO 64),
    by simp only [Dev.Open]; decide +kernel⟩

theorem witness_bootAndSpring_6 :
    ∃ (_version : Nat) (s : State), s.dev.b0 .CLK_BOOT_FW_CMD_BUSY = true ∧ s.dev.fwReading = false :=
  ⟨7, st (((bt rom fun b => { b with waitFw := true, fwReadAt := some 8000000000 }).set0 .CLK_BOOT_FW_LEN 4096).set0 .CLK_BOOT_FW_CMD_BUSY 1),
    by decide +kernel⟩

theorem witness_bootAndSpring_7 :
    ∃ (src slot : Nat) (img : Bytes) (s : State), s.dev.img.next = some (src, slot, img) ∧ s.dev.boot.fwRuns = true ∧
      s.dev.spring = true :=
  ⟨1, 2, [1, 2],
    st (({ bt running (fun b => { b with committed := false }) with img := { running.img with next := some (1, 2, [1, 2]) } }).set0 .HLT_STATE_STATE 0),
    by decide +kernel⟩

theorem witness_bootAndSpring_8 :
  let inSpring (s : State) := s.dev.spring = true ∧ s.dev.boot.committed = true ∧ s.dev.boot.waitImg = false ∧
    s.dev.boot.inReset = false
    ∃ (_mask : Fin 16) (s : State), inSpring s ∧ (s.dev.boot.checks = 0 ∨ s.dev.boot.checks = 1) :=
  ⟨15, st (spr 0), by decide +kernel⟩

theorem witness_bootAndSpring_8_2 :
  let inSpring (s : State) := s.dev.spring = true ∧ s.dev.boot.committed = true ∧ s.dev.boot.waitImg = false ∧
    s.dev.boot.inReset = false
    ∃ (_mask : Fin 16) (s : State), inSpring s ∧ (s.dev.boot.checks = 0 ∨ s.dev.boot.checks = 1) :=
  ⟨15, st (spr 1), by decide +kernel⟩

theorem witness_bootAndSpring_9 :
  let inSpring (s : State) := s.dev.spring = true ∧ s.dev.boot.committed = true ∧ s.dev.boot.waitImg = false ∧
    s.dev.boot.inReset = false
    ∃ (_ok : Bool) (_mask : Fin 16) (s : State), inSpring s ∧ s.dev.boot.checks ∈ [2, 3, 4] :=
  ⟨false, 15, st (spr 2), by decide +kernel⟩

theorem witness_bootAndSpring_9_2 :
  let inSpring (s : State) := s.dev.spring = true ∧ s.dev.boot.committed = true ∧ s.dev.boot.waitImg = false ∧
    s.dev.boot.inReset = false
    ∃ (_ok : Bool) (_mask : Fin 16) (s : State), inSpring s ∧ s.dev.boot.checks ∈ [2, 3, 4] :=
  ⟨true, 15, st (spr 4), by decide +kernel⟩

theorem witness_bootAndSpring_10 :
  let inSpring (s : State) := s.dev.spring = true ∧ s.dev.boot.committed = true ∧ s.dev.boot.waitImg = false ∧
    s.dev.boot.inReset = false
    ∃ (_mask : Fin 16) (s : State), inSpring s ∧ (s.dev.boot.checks = 0 ∨ s.dev.boot.checks = 1) :=
  ⟨15, st (spr 0), by decide +kernel⟩

theorem witness_bootAndSpring_10_2 :
  let inSpring (s : State) := s.dev.spring = true ∧ s.dev.boot.committed = true ∧ s.dev.boot.waitImg = false ∧
    s.dev.boot.inReset = false
    ∃ (_mask : Fin 16) (s : State), inSpring s ∧ (s.dev.boot.checks = 0 ∨ s.dev.boot.checks = 1) :=
  ⟨15, st (spr 1), by decide +kernel⟩

theorem witness_bootAndSpring_11 :
  let inSpring (s : State) := s.dev.spring = true ∧ s.dev.boot.committed = true ∧ s.dev.boot.waitImg = false ∧
    s.dev.boot.inReset = false
    ∃ (_mask : Fin 16) (s : State), inSpring s ∧ s.dev.boot.checks = 7 ∧ s.dev.pairChecked = true :=
  ⟨15, st (spr 7), by decide +kernel⟩

theorem witness_bootAndSpring_12 :
    ∃ (_okA _okB _calA _calB : Bool) (s : State), s.dev.spring = true ∧ s.dev.boot.committed = true ∧
      s.dev.hld.mounted = false ∧ s.dev.hld.outOfService = false ∧ s.dev.refindDies.hld.outOfService = false :=
  ⟨true, false, true, false, st (spr 4), by decide +kernel⟩

theorem witness_bootAndSpring_13 :
  let inSpring (s : State) := s.dev.spring = true ∧ s.dev.boot.committed = true ∧ s.dev.boot.waitImg = false ∧
    s.dev.boot.inReset = false
    ∃ s : State, inSpring s ∧ s.dev.boot.checks = 8 ∧ (s.dev.img.trial.all (fun x => decide (s.dev.now ≤ x.2)) = true) :=
  ⟨st (spr 8), by decide +kernel⟩

theorem witness_bootAndSpring_13_2 :
  let inSpring (s : State) := s.dev.spring = true ∧ s.dev.boot.committed = true ∧ s.dev.boot.waitImg = false ∧
    s.dev.boot.inReset = false
    ∃ s : State, inSpring s ∧ s.dev.boot.checks = 8 ∧ (s.dev.img.trial.all (fun x => decide (s.dev.now ≤ x.2)) = true) :=
  ⟨st ((spr 8).set0 .HLT_AUTUMN_CAUSE_SPARE 1), by decide +kernel⟩

theorem witness_bootAndSpring_14 :
    ∃ s : State, s.dev.spring = true ∧ s.dev.boot.romRuns = true ∧ s.dev.boot.inReset = false ∧ s.dev.boot.lastStall = none ∧
      s.dev.boot.t0 + 60 * tSec ≤ s.dev.now ∧ s.dev.evr.fifo.length < 3800 :=
  ⟨st { spr 3 with now := 24000000000 }, by decide +kernel⟩

end Sys2Proof.Tests.BootUp

namespace Sys2Proof.Tests.WinterMode
open Sys2Proof Sys2Proof.Machine Sys2Proof.Tests

def withKey (d : Dev) : Dev := { d with img := { d.img with sections := [(k2 14 4, leBytes 4 77 ++ leBytes 32 12345)] } }
def chal (d : Dev) (m p : Nat) : Dev := { d with mbx := { d.mbx with challenges := Map.set none d.mbx.challenges (k2 m p) (some ⟨leBytes 32 5, some 7999999999⟩) } }
def exD (m : Nat) : Dev :=
  let d := chal (withKey running) m 1
  let d := (List.range 8).foldl (fun (d : Dev) i => { d with flds := Map.insert d.flds (k3 Field.HLT_EXIT_RESP.id i 0) (leAt (response (leBytes 32 12345) (leBytes 32 5) 1) (4 * i) 4) }) d
  (d.set0 .HLT_STATE_STATE 3).set0 .CLK_BOOT_STATUS_IMG_SOURCE 2

theorem witness_winterEntryAndExit_1 :
    ∃ (m : Master) (s : State), s.dev.Open m (Reg.HLT_WINTER_REQ.addr 0 0) ∧ (m.val = 4 ∨ m.val = 8) ∧ s.dev.winter = false :=
  ⟨4, up, by simp only [Dev.Open]; decide +kernel⟩

theorem witness_winterEntryAndExit_1_2 :
    ∃ (m : Master) (s : State), s.dev.Open m (Reg.HLT_WINTER_REQ.addr 0 0) ∧ (m.val = 4 ∨ m.val = 8) ∧ s.dev.winter = false :=
  ⟨8, up, by simp only [Dev.Open]; decide +kernel⟩

theorem witness_winterEntryAndExit_3 :
    ∃ (core : Fin 4) (s : State), core.val ∈ s.dev.mbx.coreDown :=
  ⟨2, st { running with mbx := { running.mbx with coreDown := [2] } }, by decide +kernel⟩

theorem witness_winterEntryAndExit_3_2 :
    ∃ (core : Fin 4) (s : State), core.val ∈ s.dev.mbx.coreDown :=
  ⟨0, st { running with mbx := { running.mbx with coreDown := [0, 2] } }, by decide +kernel⟩

theorem witness_winterEntryAndExit_4 :
    ∃ (a : Nat) (s : State), s.dev.hlt.detect = some a :=
  ⟨7999999999, st { running with hlt := { running.hlt with detect := some 7999999999 } }, by decide +kernel⟩

theorem witness_winterEntryAndExit_5 :
    ∃ (m : Master) (_w : BitVec 32) (s : State), s.dev.Open m (Reg.HLT_CAUSE.addr 0 0) :=
  ⟨4, 0xFFFFFFFF,
    st ((((running.set0 .HLT_CAUSE_THERMAL 1).set0 .HLT_CAUSE_CORE_FATAL 1).set0 .HLT_CAUSE_WATCHDOG 1).set0 .HLT_CAUSE_CONFIG 1),
    by simp only [Dev.Open]; decide +kernel⟩

theorem witness_winterEntryAndExit_6 :
    ∃ (m : Master) (_spi : Spi) (_lost : List (Nat × Nat × Nat)) (id : Nat) (key c : Bytes) (s : State), s.dev.Open m (Reg.HLT_WINTER_EXIT.addr 0 0) ∧
      (m.val = 4 ∨ m.val = 8) ∧ s.dev.b0 .HLT_WINTER_EXIT_BUSY = false ∧ s.dev.winter = true ∧ s.dev.causeWord = 0 ∧
      s.dev.credential = some (id, key) ∧ s.dev.challenge m 1 = some c ∧ s.dev.exitResponse = response key c 1 ∧
      s.dev.f0 .CLK_BOOT_STATUS_IMG_SOURCE = 2 :=
  ⟨4, ⟨[], [], [], none⟩, [], 77, leBytes 32 12345, leBytes 32 5, st (exD 4), by
    have h : (exD 4).exitResponse = response (leBytes 32 12345) (leBytes 32 5) 1 :=
      response_words _ _ _ _ (by intro i hi; interval_cases i <;> rfl)
    exact ⟨⟨by decide, by decide +kernel, by decide +kernel, by decide +kernel⟩, by decide +kernel, by decide +kernel,
      by decide +kernel, by decide +kernel, by decide +kernel, by decide +kernel, h, by decide +kernel⟩⟩

theorem witness_winterEntryAndExit_6_2 :
    ∃ (m : Master) (_spi : Spi) (_lost : List (Nat × Nat × Nat)) (id : Nat) (key c : Bytes) (s : State), s.dev.Open m (Reg.HLT_WINTER_EXIT.addr 0 0) ∧
      (m.val = 4 ∨ m.val = 8) ∧ s.dev.b0 .HLT_WINTER_EXIT_BUSY = false ∧ s.dev.winter = true ∧ s.dev.causeWord = 0 ∧
      s.dev.credential = some (id, key) ∧ s.dev.challenge m 1 = some c ∧ s.dev.exitResponse = response key c 1 ∧
      s.dev.f0 .CLK_BOOT_STATUS_IMG_SOURCE = 2 :=
  ⟨8, ⟨[], [], [], none⟩, [], 77, leBytes 32 12345, leBytes 32 5, st (exD 8), by
    have h : (exD 8).exitResponse = response (leBytes 32 12345) (leBytes 32 5) 1 :=
      response_words _ _ _ _ (by intro i hi; interval_cases i <;> rfl)
    exact ⟨⟨by decide, by decide +kernel, by decide +kernel, by decide +kernel⟩, by decide +kernel, by decide +kernel,
      by decide +kernel, by decide +kernel, by decide +kernel, by decide +kernel, h, by decide +kernel⟩⟩

theorem witness_winterEntryAndExit_7 :
    ∃ (m : Master) (_spi : Spi) (_lost : List (Nat × Nat × Nat)) (s : State), s.dev.Open m (Reg.HLT_WINTER_EXIT.addr 0 0) ∧
      pwMaster m = true ∧ s.dev.b0 .HLT_WINTER_EXIT_BUSY = false ∧ s.dev.exitReason m ≠ 0 :=
  ⟨8, ⟨[], [], [], none⟩, [], st ((exD 8).set0 .HLT_CAUSE_CORE_FATAL 1), by simp only [Dev.Open]; decide +kernel⟩

theorem witness_winterEntryAndExit_7_2 :
    ∃ (m : Master) (_spi : Spi) (_lost : List (Nat × Nat × Nat)) (s : State), s.dev.Open m (Reg.HLT_WINTER_EXIT.addr 0 0) ∧
      pwMaster m = true ∧ s.dev.b0 .HLT_WINTER_EXIT_BUSY = false ∧ s.dev.exitReason m ≠ 0 :=
  ⟨4, ⟨[], [], [], none⟩, [], up, by simp only [Dev.Open]; decide +kernel⟩

end Sys2Proof.Tests.WinterMode

namespace Sys2Proof.Tests.Sensors
open Sys2Proof Sys2Proof.Machine Sys2Proof.Tests

def rawAt (d : Dev) (n : Nat) (x : Int) : Int := 
  (x - calEffective (0x100 + 8 * n) (signed 12 (d.f1 .CAL_TEMP_OFS n))) * 65536 / calEffective (0x104 + 8 * n) (signed 16 (d.f1 .CAL_TEMP_GAIN n))
def hardD : Dev := { running with hlt := { running.hlt with mon := [(73, ⟨0, 1, none, none, 5, 5⟩)] } }

theorem gain_near (g : Int) (h : 58983 ≤ g ∧ g ≤ 72089) (x o : Int) :
    x - 3 ≤ (x - o) * 65536 / g * g / 65536 + o ∧ (x - o) * 65536 / g * g / 65536 + o ≤ x := by
  have a := Int.ediv_mul_le ((x - o) * 65536) (b := g) (by omega)
  have b := Int.lt_ediv_add_one_mul_self ((x - o) * 65536) (b := g) (by omega)
  rw [Int.add_mul, Int.one_mul] at b
  generalize (x - o) * 65536 / g * g = q at *
  omega

theorem clamp_gain (v : Int) : 58983 ≤ clampInt 58983 72089 v ∧ clampInt 58983 72089 v ≤ 72089 := by
  unfold clampInt
  split
  · omega
  · split <;> omega

/-- The reading of a sample chosen for `x` lies within three units of it, whatever the factory values are. -/
theorem calTemp_rawAt (d : Dev) (n : Nat) (h : n < 74) (x : Int) :
    x - 3 ≤ d.calTemp n (rawAt d n x) ∧ d.calTemp n (rawAt d n x) ≤ x := by
  have g : ∀ v, calEffective (0x104 + 8 * n) v = clampInt 58983 72089 (Config.calFactory (0x104 + 8 * n) + v) := by
    intro v
    have : (0x104 + 8 * n) / 4 % 2 = 1 := by omega
    have : 0x104 + 8 * n < 0x400 := by omega
    simp [calEffective, calRange, *]
  unfold Dev.calTemp rawAt
  exact gain_near _ (by rw [g]; exact clamp_gain _) _ _

theorem witness_monitorsAndVoltage_1 :
    ∃ (n : Fin 74) (raw : Int) (s : State), n.val ∉ s.dev.hlt.failed ∧ s.dev.monState n = 0 ∧
      s.dev.plausible n (s.dev.calTemp n raw) = true ∧ (s.dev.calTemp n raw < s.dev.tempWarn ∧ s.dev.calTemp n raw < 2000 ∧
      -880 ≤ s.dev.calTemp n raw) :=
  ⟨73, rawAt running 73 0, up, by
    have c := calTemp_rawAt running 73 (by decide) 0
    have w : running.tempWarn = 1840 := by decide +kernel
    refine ⟨by decide +kernel, by decide +kernel, by decide +kernel, ?_⟩
    change running.calTemp 73 (rawAt running 73 0) < running.tempWarn ∧ running.calTemp 73 (rawAt running 73 0) < 2000 ∧
      -880 ≤ running.calTemp 73 (rawAt running 73 0)
    omega⟩

theorem witness_monitorsAndVoltage_2 :
    ∃ (n : Fin 74) (raw : Int) (s : State), n.val ∉ s.dev.hlt.failed ∧ s.dev.monState n ≠ 2 ∧ s.dev.winter = false ∧
      2000 ≤ s.dev.calTemp n raw ∧ 1 ≤ (s.dev.monSt n).hards :=
  ⟨73, rawAt hardD 73 3000, st hardD, by
    have c := calTemp_rawAt hardD 73 (by decide) 3000
    refine ⟨by decide +kernel, by decide +kernel, by decide +kernel, ?_, by decide +kernel⟩
    change 2000 ≤ hardD.calTemp 73 (rawAt hardD 73 3000)
    omega⟩

theorem witness_monitorsAndVoltage_3 :
    ∃ (_x : Fin 52) (s : State), s.dev.pins.thermtripN = false :=
  ⟨51, up, by decide +kernel⟩

theorem witness_monitorsAndVoltage_4 :
    ∃ s : State, s.dev.avsRuns = true ∧ s.dev.b0 .MON_AVS_CTRL_MODE = false :=
  ⟨st (running.set0 .MON_AVS_STATUS_ACTIVE 1), by decide +kernel⟩

theorem witness_monitorsAndVoltage_5 :
    ∃ (v : Fin 1024) (s : State), s.dev.avsRuns = true ∧ s.dev.hlt.avsStep + tMs ≤ s.dev.now ∧
      s.dev.b0 .MON_AVS_CTRL_MODE = false ∧ s.dev.avsReq + 5 ≤ s.dev.hlt.avsTarget ∧ s.dev.hlt.avsTarget ≤ 800 ∧
      s.dev.avsReq ≤ v.val + 15 ∧ v.val ≤ s.dev.avsReq + 25 :=
  ⟨740, st ({ running with hlt := { running.hlt with avsTarget := 800 } }.set0 .MON_AVS_STATUS_ACTIVE 1), by decide +kernel⟩

theorem witness_scrubAndCalibration_2 :
    ∃ (off : Fin 16777216) (_w : BitVec 32) (r : Reg) (i j : Nat) (s : State), regAt off = some (r, i, j) ∧
      r.isConfig = true ∧ r.desc.safety = true ∧ off.val ∉ s.dev.hlt.unjudged :=
  ⟨⟨0x80000C, by decide⟩, 5, .MAC_MAX_FRAME, 0, 0, up, by decide +kernel⟩

theorem witness_scrubAndCalibration_3 :
    ∃ (m : Master) (k : Fin 74) (_w : BitVec 32) (s : State), s.dev.Open m (0x40100 + 8 * k.val) :=
  ⟨4, 73, 0xFFFFFFFF, up, by simp only [Dev.Open]; decide +kernel⟩

theorem witness_scrubAndCalibration_4 :
    ∃ (m : Master) (s : State), s.dev.Open m (Reg.CAL_CMD.addr 0 0) ∧ s.dev.b0 .CAL_STATUS_BUSY = false ∧
      s.dev.hld.mounted = true ∧ s.dev.hld.outOfService = false ∧ s.dev.hld.fenced = false :=
  ⟨4, st { running with hld := { running.hld with mounted := true } }, by simp only [Dev.Open]; decide +kernel⟩

theorem witness_scrubAndCalibration_5 :
    ∃ (m : Master) (s : State), s.dev.Open m (Reg.CAL_CMD.addr 0 0) ∧ s.dev.b0 .CAL_STATUS_BUSY = false ∧
      (s.dev.hld.mounted = false ∨ s.dev.hld.outOfService = true ∨ s.dev.hld.fenced = true) :=
  ⟨4, up, by simp only [Dev.Open]; decide +kernel⟩

theorem witness_scrubAndCalibration_5_2 :
    ∃ (m : Master) (s : State), s.dev.Open m (Reg.CAL_CMD.addr 0 0) ∧ s.dev.b0 .CAL_STATUS_BUSY = false ∧
      (s.dev.hld.mounted = false ∨ s.dev.hld.outOfService = true ∨ s.dev.hld.fenced = true) :=
  ⟨4, st { running with hld := { running.hld with mounted := true, fenced := true } },
    by simp only [Dev.Open]; decide +kernel⟩

theorem witness_scrubAndCalibration_6 :
    ∃ (m : Master) (s : State), s.dev.Open m (Reg.CAL_CMD.addr 0 0) ∧ s.dev.b0 .CAL_STATUS_BUSY = false :=
  ⟨4, st (running.set1 .CAL_TEMP_OFS 3 5), by simp only [Dev.Open]; decide +kernel⟩

theorem witness_scrubAndCalibration_7 :
    ∃ (m : Master) (s : State), s.dev.Open m (Reg.CAL_CMD.addr 0 0) ∧ s.dev.b0 .CAL_STATUS_BUSY = false ∧
      s.dev.hld.mounted = true ∧ s.dev.hld.outOfService = false ∧ s.dev.hld.fenced = false :=
  ⟨4, st ({ running with hld := { running.hld with mounted := true } }.set0 .CAL_STATUS_SAVED 1),
    by simp only [Dev.Open]; decide +kernel⟩

end Sys2Proof.Tests.Sensors

namespace Sys2Proof.Tests.Images
open Sys2Proof Sys2Proof.Machine Sys2Proof.Tests

def imgD (d : Dev) (n : Nat) : Dev := { d with hld := { d.hld with mounted := true } }.set0 .IMG_LEN n
def slots (d : Dev) (l : Map (Option Slot)) : Dev := { d with img := { d.img with slots := l } }
def runImg (d : Dev) (img : Bytes) : Dev := { d with img := { d.img with sections := imgSections fullImage, image := img } }
def uncommitted (d : Dev) : Dev := { d with boot := { d.boot with committed := false, waitImg := true } }

/-- `f n`, the number evaluated first. -/
def forced {A : Type} (f : Nat → A) : Nat → A
  | 0 => f 0
  | n + 1 => f (n + 1)
theorem forced_eq {A : Type} (f : Nat → A) (n : Nat) : forced f n = f n := by cases n <;> rfl
def crcFold (poly : Nat) : Bytes → Nat → Nat
  | [], c => c
  | b :: bs, c => forced (crcFold poly bs) (crcByte poly c b)
theorem crcFold_eq (poly : Nat) (bs : Bytes) (c : Nat) : crcFold poly bs c = bs.foldl (crcByte poly) c := by
  induction bs generalizing c with
  | nil => rfl
  | cons b bs ih => rw [crcFold, forced_eq, ih]; rfl
def crcNow (bs : Bytes) : Nat := Nat.xor (crcFold 0x82F63B78 bs 0xFFFFFFFF) 0xFFFFFFFF
theorem crcNow_eq : crc32c = crcNow := by
  funext bs; simp only [crc32c, crcOf, crcNow, crcFold_eq]
theorem takeD_append {A : Type} (x : A) (a b : List A) : List.takeD a.length (a ++ b) x = a := by
  induction a with
  | nil => rfl
  | cons y l ih => simp [ih]

theorem beBytes_length (n v : Nat) : (beBytes n v).length = n := by
  have h : ∀ n v, (leBytes n v).length = n := by
    intro n
    induction n with
    | zero => intro v; rfl
    | succ n ih => intro v; simp [leBytes, ih]
  simp [beBytes, h]

theorem unsigned_digest (front : Bytes) (h : imgSig (unsigned_ front) = front.length) :
    imgDigest (unsigned_ front) = beBytes 48 (Config.sha384 front).toNat := by
  have e : (unsigned_ front).drop (front.length + 8) = beBytes 48 (Config.sha384 front).toNat ++ zeroes 200 := by
    rw [unsigned_, List.drop_append, List.drop_eq_nil_of_le (by omega)]
    simp [zeroes, leBytes]
  have l := takeD_append (0 : Byte) (beBytes 48 (Config.sha384 front).toNat) (zeroes 200)
  rw [beBytes_length] at l
  rw [imgDigest, slice, h, e, l]

/-- An image with an unsigned block passes the checks of the signature while no owner key is fused. -/
theorem unsigned_signChecks (front : Bytes) (h : imgSig (unsigned_ front) = front.length)
    (b : (leAt (unsigned_ front) front.length 4 == 0x4E474953 && leAt (unsigned_ front) (front.length + 6) 2 == 0 &&
      zeros (unsigned_ front) (front.length + 0x99) (front.length + 0xA0) &&
      zeros (unsigned_ front) (front.length + 0x38) (front.length + 0x100)) = true)
    (a : leAt (unsigned_ front) (front.length + 4) 2 = 0) : signChecks (unsigned_ front) none = none := by
  have d := unsigned_digest front h
  have t : (unsigned_ front).take front.length = front := by rw [unsigned_, List.take_left']; rfl
  simp only [Bool.and_eq_true] at b
  simp [signChecks, firstBad, h, d, t, a, b]

theorem verifies (d : Dev) (front : Bytes) (n : Nat) (k : LoadKind) (h : imgSig (unsigned_ front) = front.length)
    (b : (leAt (unsigned_ front) front.length 4 == 0x4E474953 && leAt (unsigned_ front) (front.length + 6) 2 == 0 &&
      zeros (unsigned_ front) (front.length + 0x99) (front.length + 0xA0) &&
      zeros (unsigned_ front) (front.length + 0x38) (front.length + 0x100)) = true)
    (a : leAt (unsigned_ front) (front.length + 4) 2 = 0) (o : d.ownerHash = none)
    (hh : headerChecks (unsigned_ front) n = none) (ht : tableChecks (unsigned_ front) = none)
    (hk : d.kindChecks (unsigned_ front) k = none)
    (hs : semanticChecks (unsigned_ front) (d.configOf (unsigned_ front) k) (d.f0 .GLB_FW_VERSION) = none)
    (hf : d.floorOk (d.configOf (unsigned_ front) k) = true) : d.verify (unsigned_ front) n k = none := by
  simp [Dev.verify, hh, ht, o, unsigned_signChecks front h b a, hk, hs, hf, firstBad]

theorem full_sig : imgSig fullImage = fullFront.length := by decide +kernel
theorem full_header : headerChecks fullImage 2112 = none := by unfold headerChecks; rw [crcNow_eq]; decide +kernel
theorem full_table : tableChecks fullImage = none := by unfold tableChecks; rw [crcNow_eq]; decide +kernel
theorem amend_sig : imgSig amendImage = amendFront.length := by decide +kernel
theorem amend_header : headerChecks amendImage 768 = none := by unfold headerChecks; rw [crcNow_eq]; decide +kernel
theorem amend_table : tableChecks amendImage = none := by unfold tableChecks; rw [crcNow_eq]; decide +kernel

/-- The full image verifies on a device without an owner key that takes it. -/
theorem full_verifies (d : Dev) (k : LoadKind) (o : d.ownerHash = none) (hk : d.kindChecks fullImage k = none)
    (hs : semanticChecks fullImage (d.configOf fullImage k) (d.f0 .GLB_FW_VERSION) = none)
    (hf : d.floorOk (d.configOf fullImage k) = true) : d.verify fullImage fullImage.length k = none := by
  rw [show fullImage.length = 2112 by decide +kernel]
  exact verifies d fullFront 2112 k full_sig (by decide +kernel) (by decide +kernel) o full_header full_table hk hs hf

/-- An image whose slot is whole verifies as it does by itself. -/
theorem verifySlot_held (d : Dev) (s : Nat) (x : Slot) (k : LoadKind) (h : Map.get none d.img.slots s = some x)
    (l : x.lost = false) (v : d.verify x.image x.image.length k = none) : d.verifySlot s k [] = none := by
  simp [Dev.verifySlot, h, l, v]

/-- The amendment verifies likewise. -/
theorem amend_verifies (d : Dev) (o : d.ownerHash = none) (hk : d.kindChecks amendImage .amend = none)
    (hs : semanticChecks amendImage (d.configOf amendImage .amend) (d.f0 .GLB_FW_VERSION) = none)
    (hf : d.floorOk (d.configOf amendImage .amend) = true) : d.verify amendImage amendImage.length .amend = none := by
  rw [show amendImage.length = 768 by decide +kernel]
  exact verifies d amendFront 768 .amend amend_sig (by decide +kernel) (by decide +kernel) o amend_header amend_table hk hs hf

theorem witness_imageSlots_1 :
  let goes (m : Master) (c : ImgCmd) (s : State) := s.dev.Open m (Reg.IMG_CMD.addr 0 0) ∧
    s.dev.b0 .IMG_STATUS_BUSY = false ∧ (s.dev.goTaken c).badCommand c = false ∧ (s.dev.goTaken c).imgState c = false
  let taken (c : ImgCmd) (s : State) := (s.dev.goTaken c).set0 .IMG_STATUS_COLLISION 0
    ∃ (m : Master) (slot : Fin 4) (img : Bytes) (s : State), goes m ⟨1, slot, 0, false⟩ s ∧ s.dev.startedFrom slot = false ∧
      s.dev.hostDma 0 = true ∧ img.length = s.dev.f0 .IMG_LEN ∧
      (taken ⟨1, slot, 0, false⟩ s).verify img img.length .full = none :=
  ⟨4, 3, fullImage, st (imgD running 2112), ⟨⟨by decide, by decide +kernel, by decide +kernel, by decide +kernel⟩,
    by decide +kernel, by decide +kernel, by decide +kernel⟩, by decide +kernel, by decide +kernel,
    by decide +kernel, full_verifies _ _ (by rfl) (by decide +kernel) (by decide +kernel) (by decide +kernel)⟩

theorem witness_imageSlots_2 :
  let goes (m : Master) (c : ImgCmd) (s : State) := s.dev.Open m (Reg.IMG_CMD.addr 0 0) ∧
    s.dev.b0 .IMG_STATUS_BUSY = false ∧ (s.dev.goTaken c).badCommand c = false ∧ (s.dev.goTaken c).imgState c = false
    ∃ (m : Master) (slot : Fin 4) (x : Slot) (s : State), goes m ⟨2, slot, 0, false⟩ s ∧
      Map.get none s.dev.img.slots slot = some x ∧ (x.state = 1 ∨ x.state = 4) ∧
      (∀ i < 4, i ≠ slot.val → ((Map.get none s.dev.img.slots i).map (·.state)).getD 0 ≠ 3) :=
  ⟨4, 3, ⟨[1], 4, 4, false⟩, st (slots (imgD running 2112) [(3, some ⟨[1], 4, 4, false⟩)]),
    by simp only [Dev.Open]; decide +kernel⟩

theorem witness_imageSlots_3 :
  let goes (m : Master) (c : ImgCmd) (s : State) := s.dev.Open m (Reg.IMG_CMD.addr 0 0) ∧
    s.dev.b0 .IMG_STATUS_BUSY = false ∧ (s.dev.goTaken c).badCommand c = false ∧ (s.dev.goTaken c).imgState c = false
    ∃ (m : Master) (slot : Fin 4) (s : State), goes m ⟨5, slot, 0, false⟩ s ∧ s.dev.startedFrom slot = false :=
  ⟨4, 0, st (slots (imgD running 2112) [(0, some ⟨[1], 4, 4, false⟩)]), by simp only [Dev.Open]; decide +kernel⟩

theorem witness_imageSlots_4 :
  let goes (m : Master) (c : ImgCmd) (s : State) := s.dev.Open m (Reg.IMG_CMD.addr 0 0) ∧
    s.dev.b0 .IMG_STATUS_BUSY = false ∧ (s.dev.goTaken c).badCommand c = false ∧ (s.dev.goTaken c).imgState c = false
  let taken (c : ImgCmd) (s : State) := (s.dev.goTaken c).set0 .IMG_STATUS_COLLISION 0
    ∃ (m : Master) (slot : Fin 4) (lost : Option (Nat × Nat)) (s : State), goes m ⟨6, slot, 0, false⟩ s ∧
      (Map.get none s.dev.img.slots slot).isSome = true ∧
      (taken ⟨6, slot, 0, false⟩ s).verifySlot slot .full ((lost.map (fun r => (slot.val, r))).toList) = none :=
  ⟨4, 0, none, st (slots (imgD running 0) [(0, some ⟨fullImage, 1, 1, false⟩)]), ⟨⟨by decide, by decide +kernel,
    by decide +kernel, by decide +kernel⟩, by decide +kernel, by decide +kernel, by decide +kernel⟩, by rfl,
    verifySlot_held _ _ ⟨fullImage, 1, 1, false⟩ _ (by rfl) rfl (full_verifies _ _ (by rfl) (by decide +kernel) (by decide +kernel) (by decide +kernel))⟩

theorem witness_imageSlots_5 :
    ∃ (m : Master) (op : Fin 16) (slot : Fin 4) (mask : Fin 16) (h : Bool) (s : State), s.dev.Open m (Reg.IMG_CMD.addr 0 0) ∧
      s.dev.b0 .IMG_STATUS_BUSY = false ∧ s.dev.badCommand ⟨op, slot, mask, h⟩ = true :=
  ⟨4, 8, 0, 0, false, up, by simp only [Dev.Open]; decide +kernel⟩

theorem witness_imageSlots_5_2 :
    ∃ (m : Master) (op : Fin 16) (slot : Fin 4) (mask : Fin 16) (h : Bool) (s : State), s.dev.Open m (Reg.IMG_CMD.addr 0 0) ∧
      s.dev.b0 .IMG_STATUS_BUSY = false ∧ s.dev.badCommand ⟨op, slot, mask, h⟩ = true :=
  ⟨4, 0, 0, 0, false, up, by simp only [Dev.Open]; decide +kernel⟩

theorem witness_imageSlots_6 :
    ∃ (slot a : Nat) (x : Slot) (s : State), s.dev.img.trial = some (slot, a) ∧ a ≤ s.dev.now ∧
      Map.get none s.dev.img.slots slot = some x :=
  ⟨2, 8000000000, ⟨[1], 3, 1, false⟩,
    st (slots { running with img := { running.img with trial := some (2, 8000000000) } } [(2, some ⟨[1], 3, 1, false⟩)]),
    by decide +kernel⟩

theorem witness_reloadsAndAmendments_1 :
  let slotGoes (m : Master) (c : ImgCmd) (s : State) := s.dev.Open m (Reg.IMG_CMD.addr 0 0) ∧
    s.dev.b0 .IMG_STATUS_BUSY = false ∧ (s.dev.goTaken c).badCommand c = false ∧ (s.dev.goTaken c).imgState c = false
  let goes (m : Master) (c : ImgCmd) (s : State) := slotGoes m c s ∧ s.dev.hostDma 0 = true
  let taken (c : ImgCmd) (s : State) := (s.dev.goTaken c).set0 .IMG_STATUS_COLLISION 0
    ∃ (m : Master) (mask : Fin 16) (slot : Fin 4) (img : Bytes) (s : State), goes m ⟨3, slot, mask, true⟩ s ∧
      img.length = s.dev.f0 .IMG_LEN ∧ (taken ⟨3, slot, mask, true⟩ s).verify img img.length (.reload mask) = none :=
  ⟨4, 5, 0, fullImage, st (runImg (imgD running 2112) []), ⟨⟨⟨by decide, by decide +kernel, by decide +kernel,
    by decide +kernel⟩, by decide +kernel, by decide +kernel, by decide +kernel⟩, by decide +kernel⟩,
    by decide +kernel, full_verifies _ _ (by rfl) (by decide +kernel) (by decide +kernel) (by decide +kernel)⟩

theorem witness_reloadsAndAmendments_2 :
  let slotGoes (m : Master) (c : ImgCmd) (s : State) := s.dev.Open m (Reg.IMG_CMD.addr 0 0) ∧
    s.dev.b0 .IMG_STATUS_BUSY = false ∧ (s.dev.goTaken c).badCommand c = false ∧ (s.dev.goTaken c).imgState c = false
  let taken (c : ImgCmd) (s : State) := (s.dev.goTaken c).set0 .IMG_STATUS_COLLISION 0
    ∃ (m : Master) (mask : Fin 16) (slot : Fin 4) (x : Slot) (_host : Option Bytes) (lost : Option (Nat × Nat)) (s : State), slotGoes m ⟨3, slot, mask, false⟩ s ∧
      Map.get none s.dev.img.slots slot = some x ∧
      (taken ⟨3, slot, mask, false⟩ s).verifySlot slot (.reload mask) ((lost.map (fun r => (slot.val, r))).toList) = none :=
  ⟨4, 5, 3, ⟨fullImage, 1, 1, false⟩, none, none,
    st (slots (runImg (imgD running 0) []) [(3, some ⟨fullImage, 1, 1, false⟩)]), ⟨⟨by decide, by decide +kernel, by decide +kernel, by decide +kernel⟩, by decide +kernel, by decide +kernel, by decide +kernel⟩,
    by rfl, verifySlot_held _ _ ⟨fullImage, 1, 1, false⟩ _ (by rfl) rfl (full_verifies _ _ (by rfl) (by decide +kernel) (by decide +kernel) (by decide +kernel))⟩

theorem witness_reloadsAndAmendments_3 :
    ∃ (r : Reload) (s : State), s.dev.img.reload = some r ∧ r.stopped = false :=
  ⟨⟨15, imgSections fullImage, false, 0⟩,
    st { running with img := { running.img with reload := some ⟨15, imgSections fullImage, false, 0⟩ } }, by decide +kernel⟩

theorem witness_reloadsAndAmendments_4 :
    ∃ (r : Reload) (_restored : Bool) (s : State), s.dev.img.reload = some r ∧ r.stopped = true :=
  ⟨⟨5, imgSections fullImage, true, 3⟩, true,
    st { runImg running [] with img := { (runImg running []).img with reload := some ⟨5, imgSections fullImage, true, 3⟩ } },
    by decide +kernel⟩

theorem witness_reloadsAndAmendments_5 :
    ∃ (r : Reload) (s : State), s.dev.img.reload = some r ∧ r.stopped = true :=
  ⟨⟨5, imgSections fullImage, true, 3⟩,
    st { runImg running [] with img := { (runImg running []).img with reload := some ⟨5, imgSections fullImage, true, 3⟩ } },
    by decide +kernel⟩

theorem witness_reloadsAndAmendments_6 :
  let slotGoes (m : Master) (c : ImgCmd) (s : State) := s.dev.Open m (Reg.IMG_CMD.addr 0 0) ∧
    s.dev.b0 .IMG_STATUS_BUSY = false ∧ (s.dev.goTaken c).badCommand c = false ∧ (s.dev.goTaken c).imgState c = false
  let goes (m : Master) (c : ImgCmd) (s : State) := slotGoes m c s ∧ s.dev.hostDma 0 = true
  let taken (c : ImgCmd) (s : State) := (s.dev.goTaken c).set0 .IMG_STATUS_COLLISION 0
    ∃ (m : Master) (img : Bytes) (s : State), goes m ⟨4, 0, 0, false⟩ s ∧ img.length = s.dev.f0 .IMG_LEN ∧
      (taken ⟨4, 0, 0, false⟩ s).verify img img.length .amend = none :=
  ⟨4, amendImage, st (runImg (imgD running 768) (List.replicate 64 0)), ⟨⟨⟨by decide, by decide +kernel, by decide +kernel,
    by decide +kernel⟩, by decide +kernel, by decide +kernel, by decide +kernel⟩, by decide +kernel⟩, by decide +kernel,
    amend_verifies _ (by rfl) (by decide +kernel) (by decide +kernel) (by decide +kernel)⟩

theorem witness_reloadsAndAmendments_7 :
    ∃ (new : Map Bytes) (s : State), s.dev.img.amend = some new :=
  ⟨imgSections amendImage,
    st { runImg running [] with img := { (runImg running []).img with amend := some (imgSections amendImage) } },
    by decide +kernel⟩

theorem witness_reloadsAndAmendments_8 :
  let slotGoes (m : Master) (c : ImgCmd) (s : State) := s.dev.Open m (Reg.IMG_CMD.addr 0 0) ∧
    s.dev.b0 .IMG_STATUS_BUSY = false ∧ (s.dev.goTaken c).badCommand c = false ∧ (s.dev.goTaken c).imgState c = false
  let goes (m : Master) (c : ImgCmd) (s : State) := slotGoes m c s ∧ s.dev.hostDma 0 = true
  let taken (c : ImgCmd) (s : State) := (s.dev.goTaken c).set0 .IMG_STATUS_COLLISION 0
    ∃ (m : Master) (img : Bytes) (s : State), goes m ⟨7, 0, 0, false⟩ s ∧ s.dev.boot.fwRuns = true ∧
      img.length = s.dev.f0 .IMG_LEN ∧ (taken ⟨7, 0, 0, false⟩ s).verify img img.length .full = none :=
  ⟨4, fullImage,
    st (({ imgD running 2112 with boot := { running.boot with committed := false, waitImg := true } }).set0 .HLT_STATE_STATE 0),
    ⟨⟨⟨by decide, by decide +kernel, by decide +kernel, by decide +kernel⟩, by decide +kernel, by decide +kernel, by decide +kernel⟩, by decide +kernel⟩, by rfl, by decide +kernel,
    full_verifies _ _ (by rfl) (by decide +kernel) (by decide +kernel) (by decide +kernel)⟩

theorem witness_reloadsAndAmendments_9 :
    ∃ s : State, s.dev.boot.committed = true :=
  ⟨up, by decide +kernel⟩

end Sys2Proof.Tests.Images

namespace Sys2Proof.Tests.DieWork
open Sys2Proof Sys2Proof.Machine Sys2Proof.Tests

def lk (f : FlitDir) : Dev := { running with flits := [(k3 6 2 1, f)] }.set1 .HLT_D2D_STATUS_STATE 6 2
def dg : Dev := { running with flits := [(k3 6 2 0, ⟨0, false, 8, 0, 0, some 7999999600⟩)] }.set1 .HLT_D2D_STATUS_STATE 6 2

theorem witness_dieLinks_1 :
  let onWay (s : State) (k b dir seq : Nat) : Dev :=
    if (s.dev.flitDir k b dir).ahead seq < 512 then Dev.sendUntil k b dir seq 5120 s.dev else s.dev
  let arrives (s : State) (k b dir seq : Nat) := s.dev.bundleUp k b = true ∧
    seq = (s.dev.flitDir k b dir).expected ∧ ((onWay s k b dir seq).flitDir k b dir).holds seq = true
    ∃ (k : Link) (b : Fin 10) (dir : Fin 2) (seq _ack : Fin 4096) (s : State), arrives s k b dir seq :=
  ⟨6, 2, 1, 4095, 0, st (lk ⟨4095, true, 3, 4000, 4000, none⟩), by decide +kernel⟩

theorem witness_dieLinks_2 :
  let onWay (s : State) (k b dir seq : Nat) : Dev :=
    if (s.dev.flitDir k b dir).ahead seq < 512 then Dev.sendUntil k b dir seq 5120 s.dev else s.dev
  let arrives (s : State) (k b dir seq : Nat) := s.dev.bundleUp k b = true ∧
    seq = (s.dev.flitDir k b dir).expected ∧ ((onWay s k b dir seq).flitDir k b dir).holds seq = true
    ∃ (k : Link) (b : Fin 10) (dir : Fin 2) (seq _ack : Fin 4096) (s : State), arrives s k b dir seq :=
  ⟨6, 2, 1, 4095, 0, st (lk ⟨4095, false, 6, 4000, 4000, none⟩), by decide +kernel⟩

theorem witness_dieLinks_2_2 :
  let onWay (s : State) (k b dir seq : Nat) : Dev :=
    if (s.dev.flitDir k b dir).ahead seq < 512 then Dev.sendUntil k b dir seq 5120 s.dev else s.dev
  let arrives (s : State) (k b dir seq : Nat) := s.dev.bundleUp k b = true ∧
    seq = (s.dev.flitDir k b dir).expected ∧ ((onWay s k b dir seq).flitDir k b dir).holds seq = true
    ∃ (k : Link) (b : Fin 10) (dir : Fin 2) (seq _ack : Fin 4096) (s : State), arrives s k b dir seq :=
  ⟨6, 2, 1, 4095, 0, st (lk ⟨4095, false, 7, 4000, 4000, none⟩), by decide +kernel⟩

theorem witness_dieLinks_3 :
    ∃ (k : Link) (b : Fin 10) (dir : Fin 2) (seq : Fin 4096) (s : State), s.dev.bundleUp k b = true ∧
      (seq.val + 4096 - (s.dev.flitDir k b dir).oldest) % 4096 < ((s.dev.flitDir k b dir).next + 4096 - (s.dev.flitDir k b dir).oldest) % 4096 :=
  ⟨6, 2, 1, 4095, st (lk ⟨0, false, 0, 4095, 3, none⟩), by decide +kernel⟩

theorem witness_dieLinks_4 :
    ∃ (k : Link) (b : Fin 10) (dir : Fin 2) (s : State), s.dev.bundleUp k b = true ∧
      (s.dev.flitDir k b dir).oldest ≠ (s.dev.flitDir k b dir).next :=
  ⟨6, 2, 1, st (lk ⟨0, false, 0, 4095, 3, none⟩), by decide +kernel⟩

theorem witness_dieLinks_5 :
    ∃ (k : Link) (b : Fin 10) (a : Nat) (s : State), (s.dev.flitDir k b 0).diag = some a ∧ a + tUs ≤ s.dev.now :=
  ⟨6, 2, 7999999600, st dg, by decide +kernel⟩

theorem witness_dieLinks_6 :
    ∃ (k : Link) (b : Fin 10) (w : Fin 64) (a sp : Nat) (s : State), (s.dev.flitDir k b 0).diag = some a ∧
      a + tUs ≤ s.dev.now ∧ wireNo b 0 w ∉ (s.dev.wireSt k).dead ∧ s.dev.freeSpare k b 0 = some sp :=
  ⟨6, 2, 63, 7999999600, 64, st dg, by decide +kernel⟩

theorem witness_dieLinks_7 :
    ∃ (k : Link) (b : Fin 10) (w : Fin 64) (a : Nat) (s : State), (s.dev.flitDir k b 0).diag = some a ∧ a + tUs ≤ s.dev.now ∧
      wireNo b 0 w ∉ (s.dev.wireSt k).dead ∧ s.dev.freeSpare k b 0 = none ∧ s.dev.linkFailed k = false :=
  ⟨6, 2, 63, 7999999600, st { dg with wires := [(6, { WireSt.reset with inService := [wireNo 2 0 64, wireNo 2 0 65] })] },
    by decide +kernel⟩

theorem witness_dieLinks_8 :
    ∃ (k : Link) (sp : Nat) (s : State), (s.dev.wireSt k).wire = none ∧ (s.dev.wireSt k).nextAt ≤ s.dev.now ∧
      s.dev.f1 .HLT_D2D_STATUS_STATE k = 2 ∧ (s.dev.wireSt k).next ∉ (s.dev.wireSt k).dead ∧
      (s.dev.wireSt k).next % 66 < 64 ∧
      s.dev.freeSpare k ((s.dev.wireSt k).next / 132) ((s.dev.wireSt k).next / 66 % 2) = some sp :=
  ⟨6, 64, st ({ running with wires := [(6, { WireSt.reset with next := 63 })] }.set1 .HLT_D2D_STATUS_STATE 6 2),
    by decide +kernel⟩

theorem witness_dieLinks_9 :
    ∃ (k : Link) (x : Nat × Option Nat) (s : State), (s.dev.wireSt k).wire = some x :=
  ⟨6, (63, some 64),
    st ({ running with wires := [(6, { WireSt.reset with next := 64, wire := some (63, some 64), out := some 0 })] }.set1 .HLT_D2D_STATUS_STATE 6 2),
    by decide +kernel⟩

theorem witness_dieLinks_10 :
    ∃ (k : Link) (x : Nat × Option Nat) (s : State), (s.dev.wireSt k).wire = some x ∧ (s.dev.wireSt k).again = false :=
  ⟨6, (63, some 64),
    st ({ running with wires := [(6, { WireSt.reset with next := 64, wire := some (63, some 64), out := some 0 })] }.set1 .HLT_D2D_STATUS_STATE 6 2),
    by decide +kernel⟩

theorem witness_containmentAndClocks_2 :
    ∃ (n : Region) (s : State), s.dev.linkFailed n = false :=
  ⟨3, up, by decide +kernel⟩

theorem witness_containmentAndClocks_3 :
    ∃ (_die : Fin 18) (s : State), s.dev.hld.failedDies = [] ∧ s.dev.hld.failedBases = [] :=
  ⟨15, up, by decide +kernel⟩

theorem witness_containmentAndClocks_3_2 :
    ∃ (_die : Fin 18) (s : State), s.dev.hld.failedDies = [] ∧ s.dev.hld.failedBases = [] :=
  ⟨0, up, by decide +kernel⟩

theorem witness_containmentAndClocks_4 :
    ∃ (die : Fin 20) (s : State), (die.val < 18 ∧ die.val ∉ s.dev.hld.failedDies ∧
      2 ≤ s.dev.hld.failedDies.length) ∨ (18 ≤ die.val ∧ die.val - 18 ∉ s.dev.hld.failedBases) :=
  ⟨17, st { running with hld := { running.hld with failedDies := [3, 4] } }, by decide +kernel⟩

theorem witness_containmentAndClocks_4_2 :
    ∃ (die : Fin 20) (s : State), (die.val < 18 ∧ die.val ∉ s.dev.hld.failedDies ∧
      2 ≤ s.dev.hld.failedDies.length) ∨ (18 ≤ die.val ∧ die.val - 18 ∉ s.dev.hld.failedBases) :=
  ⟨19, up, by decide +kernel⟩

theorem witness_containmentAndClocks_6 :
    ∃ (_ref : Bool) (s : State), s.dev.b0 .CLK_STATUS_ROOT_LOCK = true :=
  ⟨true, st (running.set0 .CLK_STATUS_ROOT_LOCK 1), by decide +kernel⟩

theorem witness_containmentAndClocks_7 :
    ∃ (_l : Fin 16) (_p : Bool) (s : State), s.dev.b0 .CLK_STATUS_ROOT_LOCK = false ∧
      s.dev.b0 .CLK_STATUS_ROOT_LOST = false :=
  ⟨15, true, up, by decide +kernel⟩

theorem witness_containmentAndClocks_8 :
    ∃ (m : Master) (half : Bool) (s : State), s.dev.Open m (Reg.CLK_DIV.addr 0 0) ∧ pwMaster m = true ∧
      s.dev.b0 .CLK_DIV_BUSY = false ∧ (half = false ∨ s.dev.winter = true ∨ s.dev.boot.committed = false) :=
  ⟨4, true, st (running.set0 .HLT_STATE_STATE 3), by simp only [Dev.Open]; decide +kernel⟩

theorem witness_containmentAndClocks_8_2 :
    ∃ (m : Master) (half : Bool) (s : State), s.dev.Open m (Reg.CLK_DIV.addr 0 0) ∧ pwMaster m = true ∧
      s.dev.b0 .CLK_DIV_BUSY = false ∧ (half = false ∨ s.dev.winter = true ∨ s.dev.boot.committed = false) :=
  ⟨4, false, up, by simp only [Dev.Open]; decide +kernel⟩

theorem witness_containmentAndClocks_9 :
    ∃ (m : Master) (s : State), s.dev.Open m (Reg.CLK_DIV.addr 0 0) ∧ pwMaster m = true ∧ s.dev.b0 .CLK_DIV_BUSY = false ∧
      s.dev.winter = false ∧ s.dev.boot.committed = true :=
  ⟨4, up, by simp only [Dev.Open]; decide +kernel⟩

theorem witness_containmentAndClocks_10 :
    ∃ s : State, s.dev.b0 .CLK_DIV_BUSY = true :=
  ⟨st (running.set0 .CLK_DIV_BUSY 1), by decide +kernel⟩

end Sys2Proof.Tests.DieWork

namespace Sys2Proof.Tests.LaneWork
open Sys2Proof Sys2Proof.Machine Sys2Proof.Tests

def ports4 : Bytes := (List.range 8).flatMap (fun _ => [4, 0, 0xE4, 0, 0, 0, 0, 0] ++ List.replicate 8 0)
def elig : Dev :=
  let d : Dev := { running with img := { running.img with sections := [(k2 1 3, ports4)] } }
  (List.range 4).foldl (fun (d : Dev) i => (d.set1 .MAC_STATUS_LINK_UP (124 + i) 1).set1 .MAC_PORT_INFO_MODE (124 + i) 4) d
def trn (t : TurnSt) (ph g : Nat) : Dev := (({ elig with turns := [(31, t)] }.set1 .SHADOW_STATUS_PHASE 31 ph).set1 .SHADOW_STATUS_SLICE 31 4).set1 .SHADOW_STATUS_TARGET 31 g
def verifying : Dev := trn { TurnSt.reset with phaseAt := 5, log2 := 3, limit := 16 } 2 3
def balance : Int := verifying.laneLatency 127 - verifying.factoryLatency 4 127

/-- With the chosen adaptive part the shadow's latency is the serving slice's. -/
theorem balanced : (st verifying).dev.factoryLatency ((st verifying).dev.f1 .SHADOW_STATUS_SLICE 31) ((st verifying).dev.turnLane 31) +
    balance - (st verifying).dev.laneLatency ((st verifying).dev.turnLane 31) = 0 := by
  rw [show (st verifying).dev.f1 .SHADOW_STATUS_SLICE 31 = 4 by decide +kernel,
    show (st verifying).dev.turnLane 31 = 127 by decide +kernel]
  have h : (st verifying).dev = verifying := rfl
  rw [h, balance]
  omega

theorem balanced_aligned (a : Int) (x : Int) (h : x = 0) :
    ((a - x).natAbs * 1000 ≤ 3200 ∧ a.natAbs ≤ 256 ∧ x.natAbs ≤ 256) ↔ a.natAbs * 1000 ≤ 3200 := by
  subst h
  omega

theorem witness_shadowTurns_1 :
    ∃ (c : Cluster) (g : Fin 4) (adv : Bool) (s : State), s.dev.f1 .SHADOW_STATUS_PHASE c = 0 ∧
      (s.dev.turn c).startAt = none ∧ s.dev.nextTarget c = some (g.val, adv) :=
  ⟨31, 3, false, st (trn { TurnSt.reset with prev := some 2 } 0 0), by decide +kernel⟩

theorem witness_shadowTurns_2 :
    ∃ (m : Master) (c : Cluster) (g : Fin 4) (adv : Bool) (s : State), s.dev.Open m (Reg.SHADOW_CTRL.addr c 0) ∧
      s.dev.f1 .SHADOW_STATUS_PHASE c = 0 ∧ s.dev.nextTarget c = some (g.val, adv) :=
  ⟨4, 31, 0, true, st ((trn { TurnSt.reset with prev := some 2, startAt := some 5 } 0 0).set1 .LANE_CAL_TEMP 124 1600),
    by simp only [Dev.Open]; decide +kernel⟩

theorem witness_shadowTurns_3 :
    ∃ (c : Cluster) (s : State), s.dev.f1 .SHADOW_STATUS_PHASE c = 1 ∧ (s.dev.turn c).kind ≠ 3 ∧
      s.dev.now < (s.dev.turn c).phaseAt + (s.dev.turn c).adaptMax * tMs :=
  ⟨31, st (trn { TurnSt.reset with phaseAt := 7999999999, adaptMax := 1 } 1 3), by decide +kernel⟩

theorem witness_shadowTurns_4 :
    ∃ (c : Cluster) (s : State), s.dev.f1 .SHADOW_STATUS_PHASE c = 1 ∧ (s.dev.turn c).kind ≠ 3 ∧
      (s.dev.turn c).phaseAt + (s.dev.turn c).adaptMax * tMs ≤ s.dev.now :=
  ⟨31, st (trn { TurnSt.reset with phaseAt := 5, adaptMax := 1 } 1 3), by decide +kernel⟩

theorem witness_shadowTurns_5 :
  let verified (s : State) (c : Nat) := s.dev.f1 .SHADOW_STATUS_PHASE c = 2 ∧ (s.dev.turn c).phaseAt +
    verifyTicks (s.dev.portMode (s.dev.lanePort (s.dev.turnLane c))) (s.dev.turn c).log2 ≤ s.dev.now
  let ofAdapt (s : State) (c : Nat) (own : Int) : Int :=
    s.dev.factoryLatency (s.dev.f1 .SHADOW_STATUS_SLICE c) (s.dev.turnLane c) + own - s.dev.laneLatency (s.dev.turnLane c)
  let aligned (s : State) (c : Nat) (a own : Int) := (a - ofAdapt s c own).natAbs * 1000 ≤ 3200 ∧ a.natAbs ≤ 256 ∧
    (ofAdapt s c own).natAbs ≤ 256
    ∃ (c : Cluster) (seen : VerifySeen) (a own : Int) (s : State), verified s c ∧ aligned s c a own ∧
      (chargeOf seen).1 < (s.dev.turn c).limit :=
  ⟨31, ⟨15, 0, 0, 0⟩, 0, balance, st verifying, by decide +kernel, (balanced_aligned 0 _ balanced).2 (by decide),
    by decide +kernel⟩

theorem witness_shadowTurns_6 :
  let verified (s : State) (c : Nat) := s.dev.f1 .SHADOW_STATUS_PHASE c = 2 ∧ (s.dev.turn c).phaseAt +
    verifyTicks (s.dev.portMode (s.dev.lanePort (s.dev.turnLane c))) (s.dev.turn c).log2 ≤ s.dev.now
  let ofAdapt (s : State) (c : Nat) (own : Int) : Int :=
    s.dev.factoryLatency (s.dev.f1 .SHADOW_STATUS_SLICE c) (s.dev.turnLane c) + own - s.dev.laneLatency (s.dev.turnLane c)
  let aligned (s : State) (c : Nat) (a own : Int) := (a - ofAdapt s c own).natAbs * 1000 ≤ 3200 ∧ a.natAbs ≤ 256 ∧
    (ofAdapt s c own).natAbs ≤ 256
    ∃ (c : Cluster) (_seen : VerifySeen) (a own : Int) (s : State), verified s c ∧ (¬aligned s c a own) :=
  ⟨31, ⟨15, 0, 0, 0⟩, 4, balance, st verifying, by decide +kernel,
    fun h => absurd ((balanced_aligned 4 _ balanced).1 h) (by decide)⟩

theorem witness_shadowTurns_7 :
  let verified (s : State) (c : Nat) := s.dev.f1 .SHADOW_STATUS_PHASE c = 2 ∧ (s.dev.turn c).phaseAt +
    verifyTicks (s.dev.portMode (s.dev.lanePort (s.dev.turnLane c))) (s.dev.turn c).log2 ≤ s.dev.now
  let ofAdapt (s : State) (c : Nat) (own : Int) : Int :=
    s.dev.factoryLatency (s.dev.f1 .SHADOW_STATUS_SLICE c) (s.dev.turnLane c) + own - s.dev.laneLatency (s.dev.turnLane c)
  let aligned (s : State) (c : Nat) (a own : Int) := (a - ofAdapt s c own).natAbs * 1000 ≤ 3200 ∧ a.natAbs ≤ 256 ∧
    (ofAdapt s c own).natAbs ≤ 256
    ∃ (c : Cluster) (seen : VerifySeen) (a own : Int) (s : State), verified s c ∧ aligned s c a own ∧
      (s.dev.turn c).limit ≤ (chargeOf seen).1 ∧ (chargeOf seen).2.1 < 4 * (chargeOf seen).2.2 ∧
      4 * (chargeOf seen).2.1 ≤ (chargeOf seen).2.2 ∧ s.dev.b1 .SHADOW_STATUS_RETRY c = false :=
  ⟨31, ⟨3, 13, 0, 0⟩, 3, balance, st verifying, by decide +kernel, (balanced_aligned 3 _ balanced).2 (by decide),
    by decide +kernel⟩

theorem witness_shadowTurns_8 :
    ∃ (c : Cluster) (s : State), s.dev.f1 .SHADOW_STATUS_PHASE c = 3 ∧ (s.dev.turn c).deferred < 1000 ∧
      (s.dev.turn c).kind ≠ 1 ∧ s.dev.b1 .LANE_STATUS_RX_LPI (s.dev.turnLane c) = false ∧
      s.dev.f1 .SHADOW_STATUS_TARGET c < 4 :=
  ⟨31, st (trn { TurnSt.reset with deferred := 999 } 3 3), by decide +kernel⟩

theorem witness_shadowTurns_9 :
    ∃ (c : Cluster) (bad : Bool) (s : State), s.dev.f1 .SHADOW_STATUS_PHASE c = 3 ∧ (s.dev.turn c).deferred < 1000 ∧
      (bad = true ∨ s.dev.b1 .LANE_STATUS_RX_LPI (s.dev.turnLane c) = true) :=
  ⟨31, true, st (trn { TurnSt.reset with deferred := 999 } 3 3), by decide +kernel⟩

theorem witness_shadowTurns_10 :
    ∃ (c : Cluster) (s : State), s.dev.f1 .SHADOW_STATUS_PHASE c = 3 ∧ (s.dev.turn c).kind ≠ 3 ∧
      1000 ≤ (s.dev.turn c).deferred :=
  ⟨31, st (trn { TurnSt.reset with deferred := 1000, kind := 1 } 3 3), by decide +kernel⟩

theorem witness_sliceSparing_1 :
  let verified (s : State) (c : Nat) := s.dev.f1 .SHADOW_STATUS_PHASE c = 2 ∧ (s.dev.turn c).phaseAt +
    verifyTicks (s.dev.portMode (s.dev.lanePort (s.dev.turnLane c))) (s.dev.turn c).log2 ≤ s.dev.now
  let ofAdapt (s : State) (c : Nat) (own : Int) : Int :=
    s.dev.factoryLatency (s.dev.f1 .SHADOW_STATUS_SLICE c) (s.dev.turnLane c) + own - s.dev.laneLatency (s.dev.turnLane c)
  let aligned (s : State) (c : Nat) (a own : Int) := (a - ofAdapt s c own).natAbs * 1000 ≤ 3200 ∧ a.natAbs ≤ 256 ∧
    (ofAdapt s c own).natAbs ≤ 256
    ∃ (c : Cluster) (seen : VerifySeen) (a own : Int) (s : State), verified s c ∧ aligned s c a own ∧
      (s.dev.turn c).limit ≤ (chargeOf seen).1 ∧ 4 * (chargeOf seen).2.2 ≤ (chargeOf seen).2.1 :=
  ⟨31, ⟨13, 3, 0, 0⟩, 0, balance, st verifying, by decide +kernel, (balanced_aligned 0 _ balanced).2 (by decide),
    by decide +kernel⟩

theorem witness_sliceSparing_2 :
    ∃ (c : Cluster) (s : State), s.dev.f1 .SHADOW_STATUS_PHASE c = 3 ∧ (s.dev.turn c).deferred < 1000 ∧
      (s.dev.turn c).kind = 1 ∧ s.dev.b1 .LANE_STATUS_RX_LPI (s.dev.turnLane c) = false ∧
      s.dev.f1 .SHADOW_STATUS_TARGET c < 4 :=
  ⟨31, st (trn { TurnSt.reset with deferred := 999, kind := 1 } 3 3), by decide +kernel⟩

theorem witness_sliceSparing_3 :
  let replacing (s : State) (c : Nat) := s.dev.f1 .SHADOW_STATUS_PHASE c = 1 ∧ (s.dev.turn c).kind = 3
    ∃ (c : Cluster) (x : Fin 5) (s : State), (¬replacing s c) ∧ s.dev.f1 .SHADOW_STATUS_SLICE c = x.val ∧
      s.dev.b1 .SHADOW_STATUS_SPARE_USED c = false :=
  ⟨31, 4, st (trn TurnSt.reset 0 0), by decide +kernel⟩

theorem witness_sliceSparing_4 :
  let replacing (s : State) (c : Nat) := s.dev.f1 .SHADOW_STATUS_PHASE c = 1 ∧ (s.dev.turn c).kind = 3
    ∃ (c : Cluster) (x : Fin 5) (g : Fin 4) (s : State), (¬replacing s c) ∧ s.dev.f1 .SHADOW_STATUS_SLICE c ≠ x.val ∧
      s.dev.b1 .SHADOW_STATUS_SPARE_USED c = false ∧ s.dev.f1 .LANE_STATUS_SLICE (4 * c + g) = x.val ∧
      (∀ h < g.val, s.dev.f1 .LANE_STATUS_SLICE (4 * c + h) ≠ x.val) :=
  ⟨31, 2, 2, st (trn TurnSt.reset 0 0), by decide +kernel⟩

theorem witness_sliceSparing_5 :
  let replacing (s : State) (c : Nat) := s.dev.f1 .SHADOW_STATUS_PHASE c = 1 ∧ (s.dev.turn c).kind = 3
    ∃ (c : Cluster) (x : Fin 5) (g : Fin 4) (s : State), (¬replacing s c) ∧ s.dev.f1 .SHADOW_STATUS_SLICE c ≠ x.val ∧
      s.dev.b1 .SHADOW_STATUS_SPARE_USED c = true ∧ s.dev.f1 .LANE_STATUS_SLICE (4 * c + g) = x.val :=
  ⟨31, 2, 2, st ((trn TurnSt.reset 4 0).set1 .SHADOW_STATUS_SPARE_USED 31 1), by decide +kernel⟩

theorem witness_sliceSparing_6 :
  let replacing (s : State) (c : Nat) := s.dev.f1 .SHADOW_STATUS_PHASE c = 1 ∧ (s.dev.turn c).kind = 3
    ∃ (c : Cluster) (_own : Int) (s : State), replacing s c :=
  ⟨31, 100, st (trn { TurnSt.reset with kind := 3 } 1 3), by decide +kernel⟩

end Sys2Proof.Tests.LaneWork

namespace Sys2Proof.Tests.Ports
open Sys2Proof Sys2Proof.Machine Sys2Proof.Tests

def lnk (p : Nat) : Dev := ((running.set1 .MAC_STATUS_LINK_UP p 1).set1 .MAC_PORT_INFO_MODE p 4).set1 .MAC_CTRL_PORT_EN p 1
def frm (n : Nat) : Bytes := List.replicate n 3
def mc (d : Dev) (p : Nat) (m : MacSt) : Dev := { d with mac := [(p, m)] }
def negPorts : Bytes := (List.range 8).flatMap (fun _ => [4, 0, 0xE4, 0, 1, 0, 0, 0] ++ List.replicate 8 0)
def eee (p : Nat) : Dev := (((lnk p).set1 .MAC_CTRL_EEE_EN p 1).set1 .MAC_EEE_STATUS_CAPABLE p 1).set1 .MAC_EEE_STATUS_NEGOTIATED p 1

theorem witness_frameReception_1 :
    ∃ (p : Port) (bytes : Bytes) (fec : FecSeen) (_sub : Fin 8) (_rivals : List (Fin 7)) (s : State), s.dev.linkUp p = true ∧
      s.dev.portUsed p = true ∧ fec.uncorrectable = 0 ∧ 64 ≤ bytes.length ∧ bytes.length ≤ s.dev.f1 .MAC_MAX_FRAME p ∧
      bytes.length ≤ 16384 ∧ fcsGood bytes = false :=
  ⟨127, frm 64, ⟨3, 0, 4⟩, 7, [], st (lnk 127), by decide +kernel⟩

theorem witness_frameReception_2 :
    ∃ (p : Port) (_bytes : Bytes) (bad : Bool) (fec : FecSeen) (_sub : Fin 8) (_rivals : List (Fin 7)) (s : State), s.dev.linkUp p = true ∧
      s.dev.portUsed p = true ∧ (bad = true ∨ fec.uncorrectable ≠ 0) :=
  ⟨0, frm 65, false, ⟨3, 1, 4⟩, 7, [], st (lnk 0), by decide +kernel⟩

theorem witness_frameReception_2_2 :
    ∃ (p : Port) (_bytes : Bytes) (bad : Bool) (fec : FecSeen) (_sub : Fin 8) (_rivals : List (Fin 7)) (s : State), s.dev.linkUp p = true ∧
      s.dev.portUsed p = true ∧ (bad = true ∨ fec.uncorrectable ≠ 0) :=
  ⟨127, frm 65, true, ⟨0, 0, 0⟩, 7, [], st (lnk 127), by decide +kernel⟩

theorem witness_frameReception_3 :
    ∃ (p : Port) (bytes : Bytes) (fec : FecSeen) (_sub : Fin 8) (_rivals : List (Fin 7)) (s : State), s.dev.linkUp p = true ∧
      s.dev.portUsed p = true ∧ fec.uncorrectable = 0 ∧ 64 ≤ bytes.length ∧ bytes.length ≤ s.dev.f1 .MAC_MAX_FRAME p ∧
      bytes.length ≤ 16384 ∧ fcsGood bytes = true ∧ beAt bytes 12 2 ≠ 0x8808 ∧ s.dev.filtered p bytes = false ∧
      (beAt bytes 0 6 = 0xFFFFFFFFFFFF → s.dev.b1 .MAC_CTRL_BCAST_DROP p = false) ∧ s.dev.winter = false ∧
      s.dev.buf.frozen = false ∧ s.dev.f1 .MAC_PORT_INFO_ROLE p ≠ 2 ∧ (¬(s.dev.fabPort p = true ∧
      beAt bytes 12 2 = s.dev.fabType ∧ 4 ≤ beAt bytes 15 1 / 16 ∧ beAt bytes 15 1 / 16 ≤ 7)) ∧
      (s.dev.img.reload.any (fun r => r.stopped && bitOf r.mask (p.val / 32)) = false) ∧
      (s.dev.ptpRefused p bytes).isNone = true ∧ cellsFor bytes.length + 7 ≤ s.dev.freeCells :=
  ⟨127, frm 60 ++ fcsOf (frm 60), ⟨3, 0, 4⟩, 7, [6, 5], st ((lnk 127).set1 .MAC_CTRL_FILTER_EN 127 0), by decide +kernel⟩

theorem witness_frameReception_3_2 :
    ∃ (p : Port) (bytes : Bytes) (fec : FecSeen) (_sub : Fin 8) (_rivals : List (Fin 7)) (s : State), s.dev.linkUp p = true ∧
      s.dev.portUsed p = true ∧ fec.uncorrectable = 0 ∧ 64 ≤ bytes.length ∧ bytes.length ≤ s.dev.f1 .MAC_MAX_FRAME p ∧
      bytes.length ≤ 16384 ∧ fcsGood bytes = true ∧ beAt bytes 12 2 ≠ 0x8808 ∧ s.dev.filtered p bytes = false ∧
      (beAt bytes 0 6 = 0xFFFFFFFFFFFF → s.dev.b1 .MAC_CTRL_BCAST_DROP p = false) ∧ s.dev.winter = false ∧
      s.dev.buf.frozen = false ∧ s.dev.f1 .MAC_PORT_INFO_ROLE p ≠ 2 ∧ (¬(s.dev.fabPort p = true ∧
      beAt bytes 12 2 = s.dev.fabType ∧ 4 ≤ beAt bytes 15 1 / 16 ∧ beAt bytes 15 1 / 16 ≤ 7)) ∧
      (s.dev.img.reload.any (fun r => r.stopped && bitOf r.mask (p.val / 32)) = false) ∧
      (s.dev.ptpRefused p bytes).isNone = true ∧ cellsFor bytes.length + 7 ≤ s.dev.freeCells :=
  ⟨0, frm 61 ++ fcsOf (frm 61), ⟨0, 0, 0⟩, 7, [], st ((lnk 0).set1 .MAC_CTRL_FILTER_EN 0 0), by decide +kernel⟩

theorem witness_linkStates_1 :
    ∃ (p : Port) (s : State), s.dev.linkUp p = false ∧ s.dev.mayLink p = true :=
  ⟨127, st ((lnk 127).set1 .MAC_STATUS_LINK_UP 127 0), by decide +kernel⟩

theorem witness_linkStates_2 :
    ∃ (p : Port) (_cause : Fin 4) (_rx : Option Nat) (s : State), s.dev.linkUp p = true ∧ s.dev.portUsed p = true :=
  ⟨127, 3, some 5, st (lnk 127), by decide +kernel⟩

theorem witness_linkStates_3 :
    ∃ (m : Master) (p : Port) (s : State), s.dev.Open m (Reg.MAC_CTRL.addr p 0) ∧ s.dev.portUsed p = true ∧
      (s.dev.macSt p).holdoffEnd = none ∧ (s.dev.macSt p).drive ≠ .lossOfSignal :=
  ⟨4, 127, st ((lnk 127).set1 .MAC_CTRL_PORT_EN 127 0), by simp only [Dev.Open]; decide +kernel⟩

theorem witness_linkStates_4 :
    ∃ (m : Master) (p : Port) (s : State), s.dev.Open m (Reg.MAC_CTRL.addr p 0) ∧ s.dev.portUsed p = true ∧
      (s.dev.macSt p).drive ≠ .lossOfSignal :=
  ⟨4, 127, st (lnk 127), by simp only [Dev.Open]; decide +kernel⟩

theorem witness_linkStates_5 :
    ∃ (p : Port) (a : Nat) (s : State), (s.dev.macSt p).holdoffEnd = some a ∧ a ≤ s.dev.now :=
  ⟨127, 8000000000,
    st (mc ((lnk 127).set1 .MAC_STATUS_FLAP_ISOLATED 127 1) 127 { MacSt.reset with holdoffEnd := some 8000000000, downs := [3, 4] }),
    by decide +kernel⟩

theorem witness_linkStates_6 :
    ∃ (p : Port) (s : State), s.dev.b1 .MAC_PORT_INFO_ISOLATED p = false :=
  ⟨127, st (lnk 127), by decide +kernel⟩

theorem witness_linkStates_7 :
    ∃ (p : Port) (_adv : Fin 65536) (_moves : List (Int × Int × Int × Int × Int)) (s : State), s.dev.linkUp p = false ∧
      s.dev.portUsed p = true ∧ s.dev.portNeg p = true ∧ s.dev.b1 .MAC_CTRL_PORT_EN p = true ∧ s.dev.portMode p ≤ 4 :=
  ⟨127, 65535, [],
    st { ((lnk 127).set1 .MAC_STATUS_LINK_UP 127 0) with img := { running.img with sections := [(k2 1 3, negPorts)] } },
    by decide +kernel⟩

theorem witness_linkStates_8 :
    ∃ (p : Port) (_adv : Fin 65536) (_fec : Fin 4) (_moves : List (Int × Int × Int × Int × Int)) (s : State), s.dev.linkUp p = false ∧
      s.dev.portUsed p = true ∧ s.dev.portNeg p = true ∧ s.dev.portAn p = true ∧ s.dev.b1 .MAC_CTRL_PORT_EN p = true :=
  ⟨127, 65535, 3, [],
    st { ((lnk 127).set1 .MAC_STATUS_LINK_UP 127 0) with img := { running.img with sections := [(k2 1 3, negPorts)] } },
    by decide +kernel⟩

theorem witness_pauseAndLowPower_1 :
    ∃ (p : Port) (i q : Nat) (l r : Map Nat) (s : State), (s.dev.macSt p).pausePend = l ++ (i, q) :: r ∧ (∀ x ∈ r, x.1 ≠ i) ∧
      s.dev.inflight p = none ∧ (s.dev.macSt p).ownTx = none :=
  ⟨127, 8, 65535, [], [(3, 4)], st (mc (lnk 127) 127 { MacSt.reset with pausePend := [(8, 65535), (3, 4)] }),
    by decide +kernel⟩

theorem witness_pauseAndLowPower_2 :
    ∃ (p : Port) (i : Fin 9) (s : State), Map.get 0 (s.dev.macSt p).pauseEnd i ≠ 0 ∧
      Map.get 0 (s.dev.macSt p).pauseEnd i ≤ s.dev.now :=
  ⟨127, 8, st (mc (lnk 127) 127 { MacSt.reset with pauseEnd := [(8, 8000000000)] }), by decide +kernel⟩

theorem witness_pauseAndLowPower_3 :
    ∃ (p : Port) (c : Fin 9) (s : State), s.dev.portUsed p = true ∧ Map.get 0 (s.dev.macSt p).pausedSince c ≠ 0 ∧
      Map.get 0 (s.dev.macSt p).pausedSince c + s.dev.f1 .MAC_PAUSE_TIMERS_WATCHDOG p * tMs ≤ s.dev.now + 1 :=
  ⟨127, 8,
    st (mc ((lnk 127).set1 .MAC_PAUSE_TIMERS_WATCHDOG 127 10) 127 { MacSt.reset with pauseEnd := [(8, 9000000000)], pausedSince := [(8, 7996000001)] }),
    by decide +kernel⟩

theorem witness_pauseAndLowPower_4 :
    ∃ (p : Port) (c : Fin 9) (s : State), Map.get 0 (s.dev.macSt p).recoverEnd c ≠ 0 ∧
      Map.get 0 (s.dev.macSt p).recoverEnd c ≤ s.dev.now :=
  ⟨127, 8, st (mc (lnk 127) 127 { MacSt.reset with recoverEnd := [(8, 8000000000)] }), by decide +kernel⟩

theorem witness_pauseAndLowPower_5 :
    ∃ (p : Port) (c : Tc) (s : State), bitOf (s.dev.f1 .QUE_PORT_STATUS_PFC_XOFF p) c = true ∧
      Map.get 0 (s.dev.macSt p).xoffAt c ≠ 0 ∧ s.dev.winter = false ∧ s.dev.linkUp p = true ∧
      s.dev.f1 .MAC_CTRL_TX_PAUSE_EN p ≠ 0 ∧
      Map.get 0 (s.dev.macSt p).xoffAt c + s.dev.quantaTicks p (s.dev.f1 .MAC_PFC_TX_REFRESH p) ≤ s.dev.now + 1 :=
  ⟨127, 7,
    st (mc ((((lnk 127).set1 .QUE_PORT_STATUS_PFC_XOFF 127 0x80).set1 .MAC_CTRL_TX_PAUSE_EN 127 1).set1 .MAC_CTRL_PAUSE_MODE 127 2) 127 { MacSt.reset with xoffAt := [(7, 7900000000)] }),
    by decide +kernel⟩

theorem witness_pauseAndLowPower_6 :
    ∃ (p : Port) (s : State), s.dev.portUsed p = true ∧ s.dev.eeeOn p = true ∧ s.dev.eeeBlocked p = false ∧
      s.dev.portEmpty p = true ∧ s.dev.b1 .MAC_STATUS_TX_LPI p = false ∧ s.dev.winter = false ∧
      (s.dev.macSt p).lastTx + s.dev.f1 .MAC_EEE_CTRL_IDLE p * tUs ≤ s.dev.now :=
  ⟨127, st (eee 127), by decide +kernel⟩

theorem witness_pauseAndLowPower_7 :
    ∃ (p : Port) (a : Nat) (s : State), s.dev.b1 .MAC_STATUS_TX_LPI p = true ∧ (s.dev.macSt p).wakeAt = some a ∧
      a ≤ s.dev.now :=
  ⟨127, 8000000000, st (mc ((eee 127).set1 .MAC_STATUS_TX_LPI 127 1) 127 { MacSt.reset with wakeAt := some 8000000000 }),
    by decide +kernel⟩

theorem witness_pauseAndLowPower_8 :
    ∃ (p : Port) (s : State), s.dev.linkUp p = true ∧ s.dev.winter = false :=
  ⟨127, st (eee 127), by decide +kernel⟩

theorem witness_pauseAndLowPower_9 :
    ∃ (p : Port) (_w : Fin 65536) (s : State), s.dev.linkUp p = true ∧ s.dev.winter = false ∧
      s.dev.b1 .MAC_EEE_STATUS_CAPABLE p = true :=
  ⟨127, 65535, st (eee 127), by decide +kernel⟩

theorem witness_pauseAndLowPower_10 :
    ∃ (p : Port) (_w : Fin 65536) (s : State), s.dev.b1 .MAC_EEE_STATUS_CAPABLE p = false :=
  ⟨127, 65535, st (lnk 127), by decide +kernel⟩

theorem witness_pauseAndLowPower_11 :
    ∃ (m : Master) (p : Port) (i : Fin 96) (s : State), s.dev.Open m (Reg.MAC_STAT_HI.addr p i) ∧ macCtrDefined i = true :=
  ⟨4, 127, 84, st ({ running with ctrs := [] }.countN ⟨.MAC_STAT, 84⟩ 127 (2 ^ 48 - 1)),
    by simp only [Dev.Open]; decide +kernel⟩

end Sys2Proof.Tests.Ports

namespace Sys2Proof.Tests.ParseWork
open Sys2Proof Sys2Proof.Machine Sys2Proof.Tests

def rx0 (bs : Bytes) (p : Nat) : Rx := { bytes := bs, hasFcs := true, port := p, region := p / 32, pass := 0, startNode := 0, profile := 0, cap := ⟨0, 0, 0, false⟩, lost := 0, srcDev := none, dflt := none, tsId := none, wait := none, parse := none, res := none, orig := none, dfltAct := none, hit := none }
def withRx (d : Dev) (r : Rx) : Dev := { d with buf := { d.buf with rx := [(9, some r)] } }
def imgR (d : Dev) : Dev := { d with img := { d.img with sections := imgSections fullImage } }
def varParse : Bytes := leBytes 2 1 ++ leBytes 2 64 ++ leBytes 4 0 ++ [0, 1, 2, 0, 1, 0] ++ leBytes 2 0 ++ leBytes 2 14 ++ leBytes 2 0 ++ [8, 0] ++ leBytes 2 0 ++ leBytes 2 96 ++ [16, 0] ++ List.replicate 44 0
def imgV (d : Dev) : Dev := { d with img := { d.img with sections := [(k2 3 3, varParse)] } }
def scn (w : Option (List Source × Nat)) : Dev :=
  let r := { rx0 (List.replicate 64 3) 127 with wait := w, parse := some (.empty 127) }
  { withRx running r with search := { running.search with inspect := [(3, [9, 10])] } }

theorem witness_parserAndAutomata_1 :
  let fabData (s : State) (rx : Rx) : Bool :=
    s.dev.fabPort rx.port && beAt rx.bytes 12 2 == s.dev.fabType && rx.srcDev.isNone && decide (rx.pass = 0)
    ∃ (id : Nat) (_faults : List ReadFault) (rx : Rx) (s : State), s.dev.rxFrame id = some rx ∧ rx.parse = none ∧
      fabData s rx = false ∧ s.dev.spring = true ∧ s.dev.forFirmware rx = false :=
  ⟨9, [], rx0 (List.replicate 64 3) 127, st ((withRx running (rx0 (List.replicate 64 3) 127)).set0 .HLT_STATE_STATE 0),
    by decide +kernel⟩

theorem witness_parserAndAutomata_2 :
  let fabData (s : State) (rx : Rx) : Bool :=
    s.dev.fabPort rx.port && beAt rx.bytes 12 2 == s.dev.fabType && rx.srcDev.isNone && decide (rx.pass = 0)
    ∃ (id : Nat) (rx : Rx) (s : State), s.dev.rxFrame id = some rx ∧ rx.parse = none ∧ fabData s rx = false ∧
      s.dev.forwards = true ∧ s.dev.forFirmware rx = false ∧ s.dev.regionIsolated rx.region = false ∧
      (s.dev.walkFrame rx []).err = 1 ∧ rx.port < 128 ∧ rx.region < 4 ∧ rx.port / 32 = rx.region ∧
      s.dev.defaultAction rx = 0 ∧ s.dev.paired = false :=
  ⟨9, rx0 (List.replicate 64 3) 127,
    st ((imgV (withRx running (rx0 (List.replicate 64 3) 127))).setFld .PRS_PORT_CFG_DEFAULT_ACTION 3 31 0),
    by decide +kernel⟩

theorem witness_parserAndAutomata_3 :
    ∃ (n : Region) (k : Fin 64) (s : State), s.dev.wordDown .node n k = true :=
  ⟨3, 63, st { running with words := { running.words with down := [(0, 3, 63)] } }, by decide +kernel⟩

theorem witness_parserAndAutomata_4 :
    ∃ (m : Master) (n : Region) (s : State), s.dev.Open m (Reg.PRS_CTRL.addr n 0) :=
  ⟨4, 3, st (running.set1 .PRS_LAST_ERR_REASON 3 5), by simp only [Dev.Open]; decide +kernel⟩

theorem witness_parserAndAutomata_5 :
    ∃ (n : Region) (_corrected id w : Nat) (_faults : List ReadFault) (rest : List Nat) (rx : Rx) (l : List Source) (set : Nat) (pr : ParseRes) (s : State), s.dev.inspectQ n = id :: rest ∧
      s.dev.rxFrame id = some rx ∧ rx.wait = some (l, set) ∧ rx.parse = some pr ∧
      Map.get 0 s.dev.words.seen (k3 WordKind.autState.code n w) = 0 :=
  ⟨3, 4, 9, 7, [], [10], { rx0 (List.replicate 64 3) 127 with wait := some ([], 0), parse := some (.empty 127) }, [], 0,
    .empty 127, st (scn (some ([], 0))), by decide +kernel⟩

theorem witness_parserAndAutomata_6 :
    ∃ (n : Region) (_corrected id : Nat) (rest : List Nat) (rx : Rx) (l : List Source) (set : Nat) (pr : ParseRes) (s : State), s.dev.inspectQ n = id :: rest ∧
      s.dev.rxFrame id = some rx ∧ rx.wait = some (l, set) ∧ rx.parse = some pr ∧ s.dev.paired = false ∧
      s.dev.winter = false ∧ s.dev.regionIsolated rx.region = false :=
  ⟨3, 4, 9, [10], { rx0 (List.replicate 64 3) 127 with wait := some ([], 0), parse := some (.empty 127) }, [], 0, .empty 127,
    st (scn (some ([], 0))), by decide +kernel⟩

theorem witness_parserAndAutomata_7 :
    ∃ (n : Region) (w : Nat) (s : State), s.dev.wordDown .autState n w = true :=
  ⟨3, 8, st { running with words := { running.words with down := [(9, 3, 8)] } }, by decide +kernel⟩

theorem witness_parserAndAutomata_8 :
    ∃ (row : Fin 65536) (f : AutFlow) (s : State), Map.get none s.dev.search.flows row = some f ∧
      f.last + s.dev.f0 .AUT_FLOW_IDLE * tSec ≤ s.dev.now :=
  ⟨65535, ⟨5, 5, 5, 5, 1⟩,
    st ({ running with search := { running.search with flows := [(65535, some ⟨5, 5, 5, 5, 1⟩)] } }.set0 .AUT_FLOW_IDLE 19),
    by decide +kernel⟩

theorem witness_parserAndAutomata_9 :
    ∃ (n : Region) (_e : Fin 9) (_frames : List Nat) (s : State), s.dev.regionIsolated n = false ∧
      s.dev.b1 .AUT_STATUS_SPARE_USED n = true :=
  ⟨3, 8, [9], st (running.set1 .AUT_STATUS_SPARE_USED 3 1), by decide +kernel⟩

theorem witness_parserAndAutomata_10 :
    ∃ (n : Region) (_e : Fin 9) (_frames : List Nat) (s : State), s.dev.regionIsolated n = false ∧
      s.dev.b1 .AUT_STATUS_SPARE_USED n = false :=
  ⟨3, 8, [], up, by decide +kernel⟩

theorem witness_parserAndAutomata_10_2 :
    ∃ (n : Region) (_e : Fin 9) (_frames : List Nat) (s : State), s.dev.regionIsolated n = false ∧
      s.dev.b1 .AUT_STATUS_SPARE_USED n = false :=
  ⟨3, 2, [9], up, by decide +kernel⟩

end Sys2Proof.Tests.ParseWork

namespace Sys2Proof.Tests.TableWork
open Sys2Proof Sys2Proof.Machine Sys2Proof.Tests

def imgR (d : Dev) : Dev := { d with img := { d.img with sections := imgSections fullImage } }
def tblD : Dev := ((((imgR running).set1 .TBL_RING_CTRL_ENABLE 3 1).set1 .TBL_STATUS_READY 0 1).set1 .TBL_RING_TAIL 3 0).set1 .TBL_RING_HEAD 3 63 |>.set1 .TBL_RING_SIZE 3 64
def desc (op t fl row len reg : Nat) (data : Bytes) : Bytes := leBytes 1 op ++ leBytes 1 t ++ leBytes 2 fl ++
    leBytes 4 row ++ leBytes 2 7 ++ leBytes 1 len ++ leBytes 1 reg ++ leBytes 4 0 ++ data ++
    List.replicate (48 - data.length) 0
def nx : Bytes := List.replicate 64 0
def hop1 : NextHop := ⟨true, true, false, 1, 5, 6, true, 0xFFFF, 99⟩
def ent (m v : Nat) : L2Entry := ⟨m, v, false, false, true, false, false, false, false, 0, 5, 0xFFFF, 0xFF, 7, 1⟩
def row0 : Nat := (tblD.l2Cands 0x123456789A 4095).headD 0
def l2d (e : L2Entry) : Dev := { tblD with tbl := { tblD.tbl with l2 := [(row0, some e)] } }
def pd (op : Nat) : Bytes := desc op 1 0 0 32 0 (beBytes 4 0x0A000001 ++ List.replicate 12 0 ++ leBytes 3 0x3FFFF)
def lpD : Dev := { tblD with tbl := { tblD.tbl with lpm4 := [(k2 32 0x0A000001, some 77)] } }
def rl (ms : List (Nat × Nat)) (o : Option (Nat × Nat × Nat)) : Reloc := ⟨4, ms, o, 9, none, none, none⟩
def rl2 : Reloc := rl [(9, 3)] (some (8, row0, 7999999998))

theorem witness_tableTransactions_1 :
  let takes (s : State) (n op : Nat) (desc next : Bytes) := s.dev.tblReady n = true ∧ leAt desc 0 1 = op ∧
    s.dev.tblBad desc next = false ∧ tblNextBad desc next = false ∧ s.dev.tbl.reloc = none
    ∃ (n : Region) (desc next : Bytes) (s : State), takes s n 1 desc next ∧ leAt desc 1 1 = 4 :=
  ⟨3, desc 1 4 0 262143 0 3 [], nx, st { tblD with tbl := { tblD.tbl with hops := [(k2 3 262143, some hop1)] } },
    by decide +kernel⟩

theorem witness_tableTransactions_2 :
  let takes (s : State) (n op : Nat) (desc next : Bytes) := s.dev.tblReady n = true ∧ leAt desc 0 1 = op ∧
    s.dev.tblBad desc next = false ∧ tblNextBad desc next = false ∧ s.dev.tbl.reloc = none
    ∃ (n : Region) (desc next : Bytes) (s : State), takes s n 1 desc next ∧ (leAt desc 1 1 = 0 ∨ leAt desc 1 1 = 3) ∧
      bitOf (leAt desc 2 1) 1 = false :=
  ⟨3, desc 1 0 1 row0 0 0 [], nx, st (l2d (ent 0x123456789A 4095)), by decide +kernel⟩

theorem witness_tableTransactions_3 :
  let takes (s : State) (n op : Nat) (desc next : Bytes) := s.dev.tblReady n = true ∧ leAt desc 0 1 = op ∧
    s.dev.tblBad desc next = false ∧ tblNextBad desc next = false ∧ s.dev.tbl.reloc = none
    ∃ (n : Region) (desc next : Bytes) (s : State), takes s n 2 desc next ∧ leAt desc 1 1 = 4 :=
  ⟨3, desc 2 4 4 262143 0 0 (hopBytes hop1), nx, st tblD, by decide +kernel⟩

theorem witness_tableTransactions_4 :
  let takes (s : State) (n op : Nat) (desc next : Bytes) := s.dev.tblReady n = true ∧ leAt desc 0 1 = op ∧
    s.dev.tblBad desc next = false ∧ tblNextBad desc next = false ∧ s.dev.tbl.reloc = none
    ∃ (n : Region) (desc next : Bytes) (s : State), takes s n 2 desc next ∧ leAt desc 1 1 = 0 ∧
      bitOf (leAt (tblData desc next) 8 1) 0 = true ∧
      leAt desc 4 4 ∈ s.dev.l2Cands (l2Of (tblData desc next)).mac (l2Of (tblData desc next)).vid :=
  ⟨3, desc 2 0 0 row0 0 0 (l2Bytes (ent 0x123456789A 4095)), nx, st tblD, by decide +kernel⟩

theorem witness_tableTransactions_5 :
  let takes (s : State) (n op : Nat) (desc next : Bytes) := s.dev.tblReady n = true ∧ leAt desc 0 1 = op ∧
    s.dev.tblBad desc next = false ∧ tblNextBad desc next = false ∧ s.dev.tbl.reloc = none
    ∃ (n : Region) (desc next : Bytes) (_row : Nat) (s : State), takes s n 3 desc next ∧ leAt desc 1 1 = 0 :=
  ⟨3, desc 3 0 1 0 0 0 (l2Bytes (ent 0x123456789A 4095)), nx, row0, st tblD, by decide +kernel⟩

theorem witness_tableTransactions_6 :
  let takes (s : State) (n op : Nat) (desc next : Bytes) := s.dev.tblReady n = true ∧ leAt desc 0 1 = op ∧
    s.dev.tblBad desc next = false ∧ tblNextBad desc next = false ∧ s.dev.tbl.reloc = none
    ∃ (n : Region) (desc next : Bytes) (r : Nat) (e : L2Entry) (s : State), takes s n 3 desc next ∧ leAt desc 1 1 = 0 ∧
      s.dev.l2Find (beAt (tblData desc next) 0 6) (leAt (tblData desc next) 6 2 % 4096) = some (r, e) :=
  ⟨3, desc 3 0 1 0 0 0 (l2Bytes (ent 0x123456789A 4095)), nx, row0, ent 0x123456789A 4095, st (l2d (ent 0x123456789A 4095)),
    by decide +kernel⟩

theorem witness_tableTransactions_7 :
  let takes (s : State) (n op : Nat) (desc next : Bytes) := s.dev.tblReady n = true ∧ leAt desc 0 1 = op ∧
    s.dev.tblBad desc next = false ∧ tblNextBad desc next = false ∧ s.dev.tbl.reloc = none
    ∃ (n : Region) (desc next : Bytes) (r : Nat) (e : L2Entry) (s : State), takes s n 4 desc next ∧ leAt desc 1 1 = 0 ∧
      s.dev.l2Find (beAt (tblData desc next) 0 6) (leAt (tblData desc next) 6 2 % 4096) = some (r, e) :=
  ⟨3, desc 4 0 0 0 0 0 (l2Bytes (ent 0x123456789A 4095)), nx, row0, ent 0x123456789A 4095, st (l2d (ent 0x123456789A 4095)),
    by decide +kernel⟩

theorem witness_tableTransactions_8 :
  let takes (s : State) (n op : Nat) (desc next : Bytes) := s.dev.tblReady n = true ∧ leAt desc 0 1 = op ∧
    s.dev.tblBad desc next = false ∧ tblNextBad desc next = false ∧ s.dev.tbl.reloc = none
    ∃ (n : Region) (desc next : Bytes) (r : Nat) (e : L2Entry) (s : State), takes s n 5 desc next ∧ leAt desc 1 1 = 0 ∧
      s.dev.l2Find (beAt (tblData desc next) 0 6) (leAt (tblData desc next) 6 2 % 4096) = some (r, e) ∧ e.moving = false ∧
      bitOf (leAt desc 2 1) 1 = false :=
  ⟨3, desc 5 0 0 0 0 0 (l2Bytes (ent 0x123456789A 4095)), nx, row0, ent 0x123456789A 4095, st (l2d (ent 0x123456789A 4095)),
    by decide +kernel⟩

theorem witness_tableTransactions_9 :
  let takes (s : State) (n op : Nat) (desc next : Bytes) := s.dev.tblReady n = true ∧ leAt desc 0 1 = op ∧
    s.dev.tblBad desc next = false ∧ tblNextBad desc next = false ∧ s.dev.tbl.reloc = none
    ∃ (n : Region) (desc next : Bytes) (s : State), takes s n 9 desc next ∧ leAt desc 1 1 = 0 ∧
      Map.sorted s.dev.tbl.l2 = true :=
  ⟨3, desc 9 0 0 0 0 0 (leBytes 2 5 ++ leBytes 2 4095 ++ leBytes 2 0xFFFF ++ leBytes 2 0xFFFF), nx,
    st (l2d (ent 0x123456789A 4095)), by decide +kernel⟩

theorem witness_tableTransactions_10 :
    ∃ (n : Region) (desc next : Bytes) (s : State), s.dev.tblReady n = true ∧ s.dev.tblBad desc next = true :=
  ⟨3, desc 10 0 0 0 0 0 [], nx, st tblD, by decide +kernel⟩

theorem witness_tableTransactions_10_2 :
    ∃ (n : Region) (desc next : Bytes) (s : State), s.dev.tblReady n = true ∧ s.dev.tblBad desc next = true :=
  ⟨3, desc 0 0 0 0 0 0 [], nx, st tblD, by decide +kernel⟩

theorem witness_tableTransactions_11 :
    ∃ (n : Region) (desc next : Bytes) (s : State), s.dev.tblReady n = true ∧ s.dev.tblBad desc next = false ∧
      tblNextBad desc next = true :=
  ⟨3, desc 3 3 4 0 0 0 [], [15, 0] ++ List.replicate 10 0 ++ [1] ++ List.replicate 51 0, st tblD, by decide +kernel⟩

theorem witness_tableTransactions_12 :
    ∃ (m : Master) (n : Region) (s : State), s.dev.Open m (Reg.TBL_RING_CTRL.addr n 0) ∧
      s.dev.b1 .TBL_RING_STATUS_HALTED n = true :=
  ⟨4, 3, st (tblD.set1 .TBL_RING_STATUS_HALTED 3 1), by simp only [Dev.Open]; decide +kernel⟩

theorem witness_prefixesAndTries_1 :
  let takes (s : State) (n op : Nat) (desc next : Bytes) := s.dev.tblReady n = true ∧ leAt desc 0 1 = op ∧
    s.dev.tblBad desc next = false ∧ tblNextBad desc next = false ∧ s.dev.tbl.reloc = none
    ∃ (n : Region) (desc next : Bytes) (s : State), takes s n 6 desc next :=
  ⟨3, pd 6, nx, st lpD, by decide +kernel⟩

theorem witness_prefixesAndTries_2 :
  let takes (s : State) (n op : Nat) (desc next : Bytes) := s.dev.tblReady n = true ∧ leAt desc 0 1 = op ∧
    s.dev.tblBad desc next = false ∧ tblNextBad desc next = false ∧ s.dev.tbl.reloc = none
  let key (desc : Bytes) := k2 (prefixOf desc).2.1 (prefixOf desc).2.2
    ∃ (n : Region) (desc next : Bytes) (h : Nat) (s : State), takes s n 7 desc next ∧
      Map.get none (s.dev.lpm (prefixOf desc).1) (key desc) = some h :=
  ⟨3, pd 7, nx, 77, st lpD, by decide +kernel⟩

theorem witness_prefixesAndTries_3 :
  let takes (s : State) (n op : Nat) (desc next : Bytes) := s.dev.tblReady n = true ∧ leAt desc 0 1 = op ∧
    s.dev.tblBad desc next = false ∧ tblNextBad desc next = false ∧ s.dev.tbl.reloc = none
  let key (desc : Bytes) := k2 (prefixOf desc).2.1 (prefixOf desc).2.2
    ∃ (n : Region) (desc next : Bytes) (h : Nat) (s : State), takes s n 8 desc next ∧
      Map.get none (s.dev.lpm (prefixOf desc).1) (key desc) = some h :=
  ⟨3, pd 8, nx, 77, st lpD, by decide +kernel⟩

theorem witness_prefixesAndTries_5 :
    ∃ (v6 : Bool) (bits path w : Nat) (s : State), (⟨v6, bits, path⟩, w) ∈ s.dev.tbl.nodesDown :=
  ⟨true, 128, 5, 0,
    st { lpD with tbl := { lpD.tbl with nodesDown := [(⟨true, 128, 5⟩, 0), (⟨true, 128, 5⟩, 1), (⟨true, 127, 5⟩, 1)] } },
    by decide +kernel⟩

theorem witness_learningAndAgeing_1 :
    ∃ (q : LearnReq) (rest : List LearnReq) (row : Nat) (s : State), s.dev.tbl.reloc = none ∧ s.dev.tbl.learnQ = q :: rest ∧
      s.dev.l2Find q.mac q.vid = none ∧ s.dev.findPath 4 (s.dev.l2Cands q.mac q.vid) = some [row] :=
  ⟨⟨0x123456789A, 4095, 0, 5, 5⟩, [], row0,
    st { tblD with tbl := { tblD.tbl with learnQ := [⟨0x123456789A, 4095, 0, 5, 5⟩] } }, by decide +kernel⟩

theorem witness_learningAndAgeing_2 :
    ∃ (r : Reloc) (a b : Nat) (rest : List (Nat × Nat)) (e : L2Entry) (s : State), s.dev.tbl.reloc = some r ∧
      r.open_ = none ∧ r.moves = (a, b) :: rest ∧ r.table = 4 ∧ s.dev.l2Row a = some e ∧ a ≠ b :=
  ⟨rl [(row0, 8)] none, row0, 8, [], ent 0x123456789A 4095,
    st { l2d (ent 0x123456789A 4095) with tbl := { (l2d (ent 0x123456789A 4095)).tbl with reloc := some (rl [(row0, 8)] none) } },
    by decide +kernel⟩

theorem witness_learningAndAgeing_3 :
    ∃ (r : Reloc) (a b c : Nat) (e : L2Entry) (s : State), s.dev.tbl.reloc = some r ∧ r.open_ = some (a, b, c) ∧
      c + 2 ≤ s.dev.now ∧ r.table = 4 ∧ s.dev.l2Row b = some e ∧ a ≠ b ∧ r.moves ≠ [] :=
  ⟨rl2, 8, row0, 7999999998, ent 0x123456789A 4095,
    st { l2d (ent 0x123456789A 4095) with tbl := { (l2d (ent 0x123456789A 4095)).tbl with reloc := some rl2 } },
    by decide +kernel⟩

theorem witness_learningAndAgeing_4 :
    ∃ (e : L2Entry) (s : State), s.dev.ages = true ∧ s.dev.tbl.reloc = none ∧ s.dev.l2Row s.dev.tbl.agePos = some e ∧
      e.static_ = false ∧ e.lock = false :=
  ⟨ent 0x123456789A 4095,
    st { l2d (ent 0x123456789A 4095) with tbl := { (l2d (ent 0x123456789A 4095)).tbl with agePos := row0 } },
    by decide +kernel⟩

theorem witness_learningAndAgeing_4_2 :
    ∃ (e : L2Entry) (s : State), s.dev.ages = true ∧ s.dev.tbl.reloc = none ∧ s.dev.l2Row s.dev.tbl.agePos = some e ∧
      e.static_ = false ∧ e.lock = false :=
  ⟨{ ent 0x123456789A 4095 with hit := false },
    st { l2d { ent 0x123456789A 4095 with hit := false } with tbl := { (l2d { ent 0x123456789A 4095 with hit := false }).tbl with agePos := row0 } },
    by decide +kernel⟩

theorem witness_learningAndAgeing_5 :
    ∃ (n : Region) (_frames : List Nat) (s : State), s.dev.regionIsolated n = false ∧
      s.dev.b1 .TBL_STATUS_ENGINE_SPARE_USED n = true :=
  ⟨3, [9], st (running.set1 .TBL_STATUS_ENGINE_SPARE_USED 3 1), by decide +kernel⟩

theorem witness_learningAndAgeing_6 :
    ∃ (n : Region) (_frames : List Nat) (s : State), s.dev.regionIsolated n = false ∧
      s.dev.b1 .TBL_STATUS_ENGINE_SPARE_USED n = false :=
  ⟨3, [9], up, by decide +kernel⟩

end Sys2Proof.Tests.TableWork

namespace Sys2Proof.Tests.TcamWork
open Sys2Proof Sys2Proof.Machine Sys2Proof.Tests

def tp : TcamPart := ⟨0, 0, 1, false, false, 15⟩
def imgR (d : Dev) : Dev := { d with img := { d.img with sections := imgSections fullImage } }
def tcD (m : Map (Option TcamEntry)) : Dev := { (((((imgR running).set1 .TCM_RING_CTRL_ENABLE 3 1).set0 .TCM_STATUS_READY 1).set1 .TCM_RING_SIZE 3 64).set1 .TCM_RING_HEAD 3 63) with search := { running.search with tcam := m } }
def tde (op idx : Nat) (v m : Nat) : Bytes := leBytes 4 op ++ leBytes 4 idx ++ leBytes 2 7 ++ leBytes 2 9 ++ leBytes 2 77 ++
    leBytes 2 0 ++ leBytes 4 123 ++ List.replicate 12 0 ++ leBytes 40 v ++ leBytes 40 m ++ List.replicate 16 0
def nx : Bytes := List.replicate 128 0
def tpP : TcamPart := ⟨0, 0, 1, false, true, 15⟩
def priBody : Bytes := leBytes 2 1 ++ List.replicate 6 0 ++ [0, 0, 1, 0, 1, 15] ++ List.replicate 10 0
def tcP (m : Map (Option TcamEntry)) : Dev := { tcD m with img := { running.img with sections := [(k2 5 4, priBody)] } }
def te : TcamEntry := ⟨5, 15, 9, 77, 3⟩
def mv (o : Option Nat) (last : Nat) : TcamMove := ⟨0, true, 8, last, o, te, 3, tde 3 8 5 5, false, 8000000000⟩
def mvD (o : Option Nat) (last : Nat) : Dev := { tcD [(k2 0 8, some te)] with search := { (tcD [(k2 0 8, some te)]).search with move := some (mv o last) } }

theorem witness_tcamTransactions_1 :
  let takes (s : State) (n op : Nat) (p : TcamPart) (desc next : Bytes) := s.dev.tcmReady n = true ∧ leAt desc 0 1 = op ∧
    s.dev.tcmBad desc next = false ∧ s.dev.tcamPart (leAt desc 1 1) = some p ∧ s.dev.search.move = none
    ∃ (n : Region) (desc next : Bytes) (p : TcamPart) (s : State), takes s n 1 p desc next ∧
      s.dev.tcamEntry p.id (leAt desc 4 4) = none :=
  ⟨3, tde 1 1023 0 0, nx, tp, st (tcD []), by decide +kernel⟩

theorem witness_tcamTransactions_2 :
  let takes (s : State) (n op : Nat) (p : TcamPart) (desc next : Bytes) := s.dev.tcmReady n = true ∧ leAt desc 0 1 = op ∧
    s.dev.tcmBad desc next = false ∧ s.dev.tcamPart (leAt desc 1 1) = some p ∧ s.dev.search.move = none
    ∃ (n : Region) (desc next : Bytes) (p : TcamPart) (e : TcamEntry) (s : State), takes s n 1 p desc next ∧
      s.dev.tcamEntry p.id (leAt desc 4 4) = some e :=
  ⟨3, tde 1 1023 0 0, nx, tp, te, st (tcD [(k2 0 1023, some te)]), by decide +kernel⟩

theorem witness_tcamTransactions_3 :
  let takes (s : State) (n op : Nat) (p : TcamPart) (desc next : Bytes) := s.dev.tcmReady n = true ∧ leAt desc 0 1 = op ∧
    s.dev.tcmBad desc next = false ∧ s.dev.tcamPart (leAt desc 1 1) = some p ∧ s.dev.search.move = none
    ∃ (n : Region) (desc next : Bytes) (p : TcamPart) (s : State), takes s n 2 p desc next :=
  ⟨3, tde 2 1023 21 15, nx, tp, st (tcD [(k2 0 7, some te)]), by decide +kernel⟩

theorem witness_tcamTransactions_4 :
  let takes (s : State) (n op : Nat) (p : TcamPart) (desc next : Bytes) := s.dev.tcmReady n = true ∧ leAt desc 0 1 = op ∧
    s.dev.tcmBad desc next = false ∧ s.dev.tcamPart (leAt desc 1 1) = some p ∧ s.dev.search.move = none
    ∃ (n : Region) (desc next : Bytes) (p : TcamPart) (s : State), takes s n 3 p desc next ∧ p.prio = false ∧
      s.dev.tcamEntry p.id (leAt desc 4 4) = none :=
  ⟨3, tde 3 1023 21 15, nx, tp, st (tcD [(k2 0 7, some te)]), by decide +kernel⟩

theorem witness_tcamTransactions_5 :
  let takes (s : State) (n op : Nat) (p : TcamPart) (desc next : Bytes) := s.dev.tcmReady n = true ∧ leAt desc 0 1 = op ∧
    s.dev.tcmBad desc next = false ∧ s.dev.tcamPart (leAt desc 1 1) = some p ∧ s.dev.search.move = none
    ∃ (n : Region) (desc next : Bytes) (p : TcamPart) (s : State), takes s n 3 p desc next ∧ p.prio = true :=
  ⟨3, tde 3 1023 21 15, nx, tpP, st (tcP [(k2 0 7, some te)]), by decide +kernel⟩

theorem witness_tcamTransactions_6 :
  let takes (s : State) (n op : Nat) (p : TcamPart) (desc next : Bytes) := s.dev.tcmReady n = true ∧ leAt desc 0 1 = op ∧
    s.dev.tcmBad desc next = false ∧ s.dev.tcamPart (leAt desc 1 1) = some p ∧ s.dev.search.move = none
    ∃ (n : Region) (desc next : Bytes) (p : TcamPart) (f : Nat) (s : State), takes s n 3 p desc next ∧ p.prio = false ∧
      s.dev.tcamEntry p.id (leAt desc 4 4) ≠ none ∧ s.dev.freeAbove p (leAt desc 4 4) = some f ∧
      s.dev.freeBelow p (leAt desc 4 4) = none :=
  ⟨3, tde 3 0 21 15, nx, tp, 3, st (tcD ((List.range 3).map fun i => (k2 0 i, some te))), by decide +kernel⟩

theorem witness_tcamTransactions_7 :
  let takes (s : State) (n op : Nat) (p : TcamPart) (desc next : Bytes) := s.dev.tcmReady n = true ∧ leAt desc 0 1 = op ∧
    s.dev.tcmBad desc next = false ∧ s.dev.tcamPart (leAt desc 1 1) = some p ∧ s.dev.search.move = none
    ∃ (n : Region) (desc next : Bytes) (p : TcamPart) (s : State), takes s n 4 p desc next :=
  ⟨3, tde 4 1023 21 15, nx, tp, st (tcD [(k2 0 1023, some te)]), by decide +kernel⟩

theorem witness_tcamTransactions_8 :
  let takes (s : State) (n op : Nat) (p : TcamPart) (desc next : Bytes) := s.dev.tcmReady n = true ∧ leAt desc 0 1 = op ∧
    s.dev.tcmBad desc next = false ∧ s.dev.tcamPart (leAt desc 1 1) = some p ∧ s.dev.search.move = none
    ∃ (n : Region) (desc next : Bytes) (p : TcamPart) (i : Nat) (e : TcamEntry) (s : State), takes s n 5 p desc next ∧
      s.dev.tcamSearch p (tcmKey p.wide desc next 0x20) (2 ^ 64 - 1) = some (i, e) :=
  ⟨3, tde 5 0 21 0, nx, tp, 1023, te, st (tcD [(k2 0 1023, some te)]), by decide +kernel⟩

theorem witness_tcamTransactions_9 :
  let takes (s : State) (n op : Nat) (p : TcamPart) (desc next : Bytes) := s.dev.tcmReady n = true ∧ leAt desc 0 1 = op ∧
    s.dev.tcmBad desc next = false ∧ s.dev.tcamPart (leAt desc 1 1) = some p ∧ s.dev.search.move = none
    ∃ (n : Region) (desc next : Bytes) (p : TcamPart) (s : State), takes s n 6 p desc next :=
  ⟨3, tde 6 0 21 0, nx, tp, st (tcD [(k2 0 1023, some te)]), by decide +kernel⟩

theorem witness_tcamTransactions_10 :
    ∃ (n : Region) (desc next : Bytes) (s : State), s.dev.tcmReady n = true ∧ s.dev.tcmBad desc next = true :=
  ⟨3, tde 7 0 21 0, nx, st (tcD []), by decide +kernel⟩

theorem witness_tcamTransactions_10_2 :
    ∃ (n : Region) (desc next : Bytes) (s : State), s.dev.tcmReady n = true ∧ s.dev.tcmBad desc next = true :=
  ⟨3, tde 1 1024 21 0, nx, st (tcD []), by decide +kernel⟩

theorem witness_tcamTransactions_11 :
    ∃ (m : Master) (n : Region) (s : State), s.dev.Open m (Reg.TCM_RING_CTRL.addr n 0) ∧
      s.dev.b1 .TCM_RING_STATUS_HALTED n = true :=
  ⟨4, 3, st ((tcD []).set1 .TCM_RING_STATUS_HALTED 3 1), by simp only [Dev.Open]; decide +kernel⟩

theorem witness_tcamMovesAndScan_1 :
    ∃ (x : TcamMove) (s : State), s.dev.search.move = some x ∧ x.open_ = none ∧ x.nextAt ≤ s.dev.now :=
  ⟨mv none 6, st (mvD none 6), by decide +kernel⟩

theorem witness_tcamMovesAndScan_2 :
    ∃ (x : TcamMove) (a : Nat) (s : State), s.dev.search.move = some x ∧ x.open_ = some a ∧ a + 4 ≤ s.dev.now :=
  ⟨mv (some 7999999996) 6, 7999999996, st (mvD (some 7999999996) 6), by decide +kernel⟩

theorem witness_tcamMovesAndScan_2_2 :
    ∃ (x : TcamMove) (a : Nat) (s : State), s.dev.search.move = some x ∧ x.open_ = some a ∧ a + 4 ≤ s.dev.now :=
  ⟨mv (some 7999999996) 8, 7999999996, st (mvD (some 7999999996) 8), by decide +kernel⟩

theorem witness_tcamMovesAndScan_3 :
    ∃ (_row : Fin 65536) (s : State), s.dev.b0 .TCM_STATUS_READY = true :=
  ⟨65535, st (tcD []), by decide +kernel⟩

theorem witness_tcamMovesAndScan_4 :
    ∃ (_row : Fin 65536) (_us : Nat) (s : State), s.dev.b0 .TCM_STATUS_READY = true :=
  ⟨65535, 77, st (tcD []), by decide +kernel⟩

theorem witness_tcamMovesAndScan_5 :
    ∃ (_row : Fin 65536) (_pass : Option Nat) (s : State), s.dev.b0 .TCM_STATUS_READY = true :=
  ⟨1023, some 5, st (tcD []), by decide +kernel⟩

theorem witness_tcamMovesAndScan_6 :
    ∃ (_row : Fin 65536) (s : State), s.dev.b0 .TCM_STATUS_READY = true :=
  ⟨65535, st (tcD []), by decide +kernel⟩

theorem witness_tcamMovesAndScan_7 :
    ∃ (row : Fin 65536) (p : TcamPart) (i : Nat) (s : State), s.dev.b0 .TCM_STATUS_READY = true ∧
      s.dev.tcamAt row = some (p, i) :=
  ⟨1023, tp, 1023, st (tcD [(k2 0 1023, some te)]), by decide +kernel⟩

end Sys2Proof.Tests.TcamWork

namespace Sys2Proof.Tests.BufferWork
open Sys2Proof Sys2Proof.Machine Sys2Proof.Tests

def imgR (d : Dev) : Dev := { d with img := { d.img with sections := imgSections fullImage } }
def rs (f : Fwd) : Resolved := { fwd := f, mask := 0, cls := 63, holdOk := true, colour := .green, edits := .none, mirrors := 0, copyHost := false, copyProfile := 0, profile := 0xFFFF, reason := 0, parse := .empty 127 }
def rxr (f : Fwd) : Rx := { bytes := List.replicate 64 3, hasFcs := true, port := 127, region := 3, pass := 0, startNode := 0, profile := 0, cap := ⟨0, 0, 0, false⟩, lost := 0, srcDev := none, dflt := none, tsId := none, wait := none, parse := some (.empty 127), res := some (rs f), orig := none, dfltAct := none, hit := none }
def frD (f : Fwd) : Dev := (imgR { running with buf := { running.buf with rx := [(9, some (rxr f))], nextId := 10 } }).set1 .MAC_PORT_INFO_MODE 127 4
def strictClasses : Bytes := List.replicate 64 0 ++ leBytes 2 50 ++ List.replicate 30 0 ++ (List.range 8).flatMap (fun _ => [0, 0, 4, 0] ++ List.replicate 12 0 ++ leBytes 4 1 ++ List.replicate 12 0)
def dsc : Desc := Desc.plain 9 64 5 0
def chn : Chain := { bytes := List.replicate 64 3, hasFcs := true, port := 0, region := 0, tc := 5, cells := 1, refs := 1, lastOwner := none, crc32c := 0, cap := ⟨0, 0, 0, false⟩, parse := .empty 0, hash := 0, dflt := none, marked := none }
def rd0 : CellRead := ⟨[], none, false, none, 0⟩
def qD : Dev := ({ running with img := { running.img with sections := [(k2 8 4, strictClasses)] }, buf := { running.buf with queues := [(k2 127 5, [dsc])], chains := [(9, some chn)] } }.set1 .MAC_STATUS_LINK_UP 127 1).set1 .MAC_PORT_INFO_MODE 127 4
def txD (sz : Nat) : Dev := { qD with buf := { qD.buf with inflight := [(127, some ⟨dsc, 5, 5, false⟩)], chains := [(9, some { chn with bytes := List.replicate sz 3 })], queues := [] } }
def own4 : OwnFrame := ⟨1, 4, 64, [77, 5, 6, 7, 8], 5⟩
def lldpD : Dev := { qD with buf := { qD.buf with queues := [] }, mac := [(127, { MacSt.reset with drive := .running, ownTx := some own4 })] }
def rcD : Dev := { qD with buf := { qD.buf with inflight := [(131, some ⟨{ dsc with recirc := some (5, 6) }, 5, 5, false⟩)], queues := [], nextId := 10 } }
def flD (q : Nat) : Dev := { qD with buf := { qD.buf with flap := [(q, ⟨some 8000000000, false⟩)] } }
def capH : Dev := ((({ running with act := { running.act with capFifo := [List.replicate 128 1], capHead := 2 ^ 32 + 5 } }.set0 .ACT_CAP_CTRL_TARGET 1).set0 .ACT_CAP_CTRL_ENABLE 1).set0 .ACT_CAP_HOST_LO 5).set0 .ACT_CAP_HOST_LOG2 13

theorem witness_frameThroughBuffer_1 :
    ∃ (id : Nat) (rx : Rx) (r : Resolved) (s : State), s.dev.rxFrame id = some rx ∧ rx.res = some r ∧ s.dev.winter = false ∧
      rx.lost = 0 ∧ r.fwd = .drop ∧ r.mirrors = 0 ∧ r.copyHost = false :=
  ⟨9, rxr .drop, rs .drop, st (frD .drop), by decide +kernel⟩

theorem witness_frameThroughBuffer_2 :
    ∃ (id p tc : Nat) (rx : Rx) (r : Resolved) (s : State), s.dev.rxFrame id = some rx ∧ rx.res = some r ∧
      s.dev.winter = false ∧ rx.lost = 0 ∧ r.fwd = .port p ∧ r.mirrors = 0 ∧ r.copyHost = false ∧ p < 128 ∧
      s.dev.classMap r.cls = tc ∧ tc < 8 ∧ s.dev.muted p = false ∧ s.dev.portPast p = false ∧ s.dev.holdPolicy tc = 0 ∧
      s.dev.clsLossless tc = false ∧ s.dev.threshold p tc (cellsFor rx.len) r.colour = true ∧ s.dev.descUsed < 1572864 ∧
      s.dev.fld .QUE_TC_ECN_ECN_MAX p tc = 0 :=
  ⟨9, 127, 0, rxr (.port 127), rs (.port 127), st (frD (.port 127)), by decide +kernel⟩

theorem witness_frameThroughBuffer_3 :
    ∃ (p : Port) (m : Fin 4) (_rd : CellRead) (k i : Nat) (de : Desc) (s : State), s.dev.mayPick p m = true ∧ k < 8 ∧
      s.dev.candidate p m k = some (i, de) ∧ s.dev.clsStrict k = true ∧
      (∀ u < 8, k < u → s.dev.clsStrict u = false ∨ s.dev.candidate p m u = none) ∧ s.dev.oversize p de = false :=
  ⟨127, ((List.range 4).find? (fun m => (qD.candidate 127 m 5).isSome)).elim 0 (Fin.ofNat 4), rd0, 5, 5, dsc, st qD,
    by decide +kernel⟩

theorem witness_frameThroughBuffer_4 :
    ∃ (de : Desc) (rest : List Desc) (c : Chain) (_m : Fin 4) (rd : CellRead) (s : State), s.dev.queue 134 0 = de :: rest ∧
      s.dev.chain de.chain = some c ∧ c.marked = none ∧ rd.bad = none ∧ (rd.corrupt = false ∨ de.truncates c = true) ∧
      s.dev.winter = false ∧ s.dev.buf.frozen = false ∧ s.dev.boot.fwRuns = true :=
  ⟨{ dsc with trunc := 20 }, [], chn, 3, ⟨[(3, 63, 65535)], none, true, none, 0⟩,
    st { qD with buf := { qD.buf with queues := [(k2 134 0, [{ dsc with trunc := 20 }])] } }, by decide +kernel⟩

theorem witness_frameThroughBuffer_4_2 :
    ∃ (de : Desc) (rest : List Desc) (c : Chain) (_m : Fin 4) (rd : CellRead) (s : State), s.dev.queue 134 0 = de :: rest ∧
      s.dev.chain de.chain = some c ∧ c.marked = none ∧ rd.bad = none ∧ (rd.corrupt = false ∨ de.truncates c = true) ∧
      s.dev.winter = false ∧ s.dev.buf.frozen = false ∧ s.dev.boot.fwRuns = true :=
  ⟨dsc, [], chn, 3, rd0, st { qD with buf := { qD.buf with queues := [(k2 134 0, [dsc])] } }, by decide +kernel⟩

theorem witness_frameThroughBuffer_5 :
    ∃ (p : Port) (_sub : Fin 8) (rd : CellRead) (_rivals : List (Fin 7)) (f : TxFrame) (c : Chain) (s : State), s.dev.inflight p = some f ∧
      s.dev.winter = false ∧ s.dev.buf.frozen = false ∧ s.dev.chain f.desc.chain = some c ∧ c.refs = 1 ∧ c.hasFcs = true ∧
      c.marked = none ∧ rd.bad = none ∧ rd.corrupt = false ∧ rd.freeBy = none ∧ f.desc.edits.any = false ∧
      f.desc.fab = none ∧ f.desc.trunc = 0 ∧ f.desc.tsId = none ∧ ptpOffset c.body = none ∧ 60 ≤ c.body.length ∧
      s.dev.portUsed p = true :=
  ⟨127, 7, rd0, [6], ⟨dsc, 5, 5, false⟩, { chn with bytes := List.replicate 64 3 }, st (txD 64), by decide +kernel⟩

theorem witness_frameThroughBuffer_5_2 :
    ∃ (p : Port) (_sub : Fin 8) (rd : CellRead) (_rivals : List (Fin 7)) (f : TxFrame) (c : Chain) (s : State), s.dev.inflight p = some f ∧
      s.dev.winter = false ∧ s.dev.buf.frozen = false ∧ s.dev.chain f.desc.chain = some c ∧ c.refs = 1 ∧ c.hasFcs = true ∧
      c.marked = none ∧ rd.bad = none ∧ rd.corrupt = false ∧ rd.freeBy = none ∧ f.desc.edits.any = false ∧
      f.desc.fab = none ∧ f.desc.trunc = 0 ∧ f.desc.tsId = none ∧ ptpOffset c.body = none ∧ 60 ≤ c.body.length ∧
      s.dev.portUsed p = true :=
  ⟨127, 7, ⟨[(1, 0, 5)], none, false, none, 0⟩, [], ⟨dsc, 5, 5, false⟩, { chn with bytes := List.replicate 1518 3 },
    st (txD 1518), by decide +kernel⟩

theorem witness_frameThroughBuffer_6 :
    ∃ (p : Port) (_sub : Fin 8) (_rd : CellRead) (_rivals : List (Fin 7)) (x : OwnFrame) (b : Bytes) (s : State), s.dev.inflight p = none ∧
      (s.dev.macSt p).ownTx = some x ∧ x.proto ≠ 3 ∧ s.dev.ownBytes p x = some b ∧ s.dev.winter = false ∧
      s.dev.buf.frozen = false :=
  ⟨127, 7, rd0, [], own4, (lldpD.ownBytes 127 own4).getD [], st lldpD, by
    repeat' apply And.intro
    all_goals first | decide +kernel | rfl⟩

theorem witness_frameThroughBuffer_7 :
    ∃ (n : Region) (_sub : Fin 8) (rd : CellRead) (_rivals : List (Fin 7)) (f : TxFrame) (c : Chain) (s : State), s.dev.inflight (128 + n.val) = some f ∧
      s.dev.winter = false ∧ s.dev.buf.frozen = false ∧ s.dev.chain f.desc.chain = some c ∧ c.marked = none ∧ rd.bad = none ∧
      rd.corrupt = false ∧ f.desc.edits.any = false ∧ f.desc.trunc = 0 ∧
      cellsFor (max 60 c.body.length + 4) + 7 ≤ s.dev.freeCells :=
  ⟨3, 7, rd0, [], ⟨{ dsc with recirc := some (5, 6) }, 5, 5, false⟩, { chn with bytes := List.replicate 64 3 }, st rcD,
    by decide +kernel⟩

theorem witness_bufferEvents_1 :
    ∃ (p : Port) (a : Nat) (s : State), (s.dev.flapSt p).endAt = some a ∧ a ≤ s.dev.now ∧ s.dev.winter = false :=
  ⟨127, 8000000000, st (flD 127), by decide +kernel⟩

theorem witness_bufferEvents_2 :
    ∃ (a : Fin 256) (x : Nat) (s : State), (Map.get ⟨none, false⟩ s.dev.buf.fabFlap a).endAt = some x ∧ x ≤ s.dev.now ∧
      s.dev.winter = false :=
  ⟨255, 8000000000,
    st { qD with buf := { qD.buf with queues := [(k2 511 7, [dsc])], fabFlap := [(255, ⟨some 8000000000, false⟩)] } },
    by decide +kernel⟩

theorem witness_bufferEvents_4 :
    ∃ (m : Master) (v : Fin 4294967296) (s : State), s.dev.Open m (Reg.BUF_ARRIVAL_RESERVE.addr 0 0) ∧ 4096 ≤ v.val ∧
      v.val ≤ 65536 ∧ 65536 ≤ (s.dev.set0 .BUF_ARRIVAL_RESERVE v).sharedSize :=
  ⟨4, 4096, up, by simp only [Dev.Open]; decide +kernel⟩

theorem witness_bufferEvents_4_2 :
    ∃ (m : Master) (v : Fin 4294967296) (s : State), s.dev.Open m (Reg.BUF_ARRIVAL_RESERVE.addr 0 0) ∧ 4096 ≤ v.val ∧
      v.val ≤ 65536 ∧ 65536 ≤ (s.dev.set0 .BUF_ARRIVAL_RESERVE v).sharedSize :=
  ⟨4, 65536, up, by simp only [Dev.Open]; decide +kernel⟩

theorem witness_bufferEvents_5 :
    ∃ (rec : Bytes) (rest : List Bytes) (s : State), s.dev.act.capFifo = rec :: rest ∧ s.dev.f0 .ACT_CAP_CTRL_TARGET = 0 ∧
      s.dev.hld.mounted = true ∧ s.dev.hld.outOfService = false ∧ s.dev.hld.frozen = false ∧ 0 < s.dev.hld.capGib :=
  ⟨List.replicate 128 1, [],
    st { running with hld := { running.hld with mounted := true, capGib := 1 }, act := { running.act with capFifo := [List.replicate 128 1], capHead := 2 ^ 32 + 5 } },
    by decide +kernel⟩

theorem witness_bufferEvents_6 :
    ∃ (rec : Bytes) (rest : List Bytes) (s : State), s.dev.act.capFifo = rec :: rest ∧ s.dev.f0 .ACT_CAP_CTRL_TARGET ≠ 0 ∧
      s.dev.b0 .ACT_CAP_CTRL_ENABLE = true ∧ s.dev.host.lost = false ∧ 2 ∉ s.dev.host.d3hot :=
  ⟨List.replicate 128 1, [], st capH, by decide +kernel⟩

theorem witness_bufferEvents_7 :
    ∃ (rec : Bytes) (rest : List Bytes) (s : State), s.dev.act.capFifo = rec :: rest ∧ s.dev.f0 .ACT_CAP_CTRL_TARGET ≠ 0 ∧
      s.dev.b0 .ACT_CAP_CTRL_ENABLE = true :=
  ⟨List.replicate 128 1, [], st capH, by decide +kernel⟩

end Sys2Proof.Tests.BufferWork

namespace Sys2Proof.Tests.HoldStore
open Sys2Proof Sys2Proof.Machine Sys2Proof.Tests

def hr (f : HldSt → HldSt) : Dev := { running with hld := f { running.hld with mounted := true } }
def dsc : Desc := { Desc.plain 9 64 7 63 with holdQ := some 1023 }
def chn (n : Nat) : Chain := { bytes := List.replicate n 3, hasFcs := true, port := 0, region := 0, tc := 7, cells := 1, refs := 1, lastOwner := none, crc32c := 0, cap := ⟨0, 0, 0, false⟩, parse := .empty 0, hash := 0, dflt := none, marked := none }
def rd0 : CellRead := ⟨[], none, false, none, 0⟩
def hw (n : Nat) : Dev := let d := (hr fun h => { h with ring := ringFor 64 }).set1 .MAC_PORT_INFO_MODE 127 4
  { d with buf := { d.buf with queues := [(k2 133 7, [dsc])], chains := [(9, some (chn n))] } }
def hf : Held := ⟨List.replicate 64 3, 5, 20, 0, 63, none, none, false⟩
def drD : Dev := let d := hr fun h => { h with ring := ringFor 64, queues := [(1023, { HoldQ.reset with active := true, frames := [hf], pages := [⟨20, 0, false⟩] })] }
  ((({ d with img := { d.img with sections := imgSections fullImage } }).set1 .MAC_STATUS_LINK_UP 127 1).set1 .MAC_PORT_INFO_MODE 127 4)
def rowOf (p r t : Nat) : OpenRow := ⟨p, r, 200, 3, 5, t⟩
def busyD : Dev := hr fun h => { h with queues := (1, { HoldQ.reset with active := true, row := some (rowOf 33 4 7), chainRow := some (rowOf 34 15 6), pages := [⟨34, 0, true⟩, ⟨33, 1, false⟩] }) :: (List.range 509).map (fun i => (2 + i, { HoldQ.reset with active := true, row := some (rowOf (40 + i) 4 8), chainRow := some (rowOf (600 + i) 5 9) })) }
def agedClasses : Bytes := List.replicate 64 0 ++ leBytes 2 50 ++ List.replicate 30 0 ++ (List.range 8).flatMap (fun _ => [0, 0, 4, 0] ++ leBytes 4 1 ++ List.replicate 24 0)
def oldD : Dev := { drD with img := { drD.img with sections := Map.insert drD.img.sections (k2 8 4) agedClasses } }
def die : HoldDie := 17
def wornD : Dev := { hr (fun h => { h with zones := [(4095, ⟨0, 0, 10000000, 5, 50000000, 0⟩)] }) with now := 1440000000000 }

theorem worn_fold (w : Nat → Nat) (l : List Nat) (b : Nat × Nat) :
    (∀ z ∈ l, w z ≤ w (l.foldl (fun b z => (if w b.1 < w z then z else b.1, if w z < w b.2 then z else b.2)) b).1 ∧
      w (l.foldl (fun b z => (if w b.1 < w z then z else b.1, if w z < w b.2 then z else b.2)) b).2 ≤ w z) ∧
    w b.1 ≤ w (l.foldl (fun b z => (if w b.1 < w z then z else b.1, if w z < w b.2 then z else b.2)) b).1 ∧
      w (l.foldl (fun b z => (if w b.1 < w z then z else b.1, if w z < w b.2 then z else b.2)) b).2 ≤ w b.2 := by
  induction l generalizing b with
  | nil => exact ⟨nofun, Nat.le_refl _, Nat.le_refl _⟩
  | cons x l ih =>
    obtain ⟨h, lo, hi⟩ := ih (if w b.1 < w x then x else b.1, if w x < w b.2 then x else b.2)
    dsimp only at lo hi
    have p : w b.1 ≤ w (if w b.1 < w x then x else b.1) ∧ w x ≤ w (if w b.1 < w x then x else b.1) := by split <;> omega
    have q : w (if w x < w b.2 then x else b.2) ≤ w b.2 ∧ w (if w x < w b.2 then x else b.2) ≤ w x := by split <;> omega
    rw [List.foldl_cons]
    refine ⟨fun z hz => ?_, by omega, by omega⟩
    rcases List.mem_cons.1 hz with rfl | hz
    · exact ⟨by omega, by omega⟩
    · exact h z hz

/-- No zone is worn more than the one, or less than the other, that a zone swap chooses. -/
theorem worn_extremes (d : Dev) (z : Nat) (h : z < 4096) : (d.zone z).wear ≤ (d.zone d.wornZones.1).wear ∧
    (d.zone d.wornZones.2).wear ≤ (d.zone z).wear :=
  (worn_fold (fun z => (d.zone z).wear) (List.range 4096) (0, 0)).1 z (List.mem_range.2 h)

theorem worn_apart (d : Dev) (a : (d.zone 4095).wear = 50000000) (b : (d.zone 0).wear = 0)
    (e : d.f0 .HLD_ZONE_SWAP_DELTA ≤ 50000000) :
    (d.zone d.wornZones.2).wear + d.f0 .HLD_ZONE_SWAP_DELTA ≤ (d.zone d.wornZones.1).wear := by
  have p := (worn_extremes d 4095 (by decide)).1
  have q := (worn_extremes d 0 (by decide)).2
  omega

theorem witness_holdingAndDraining_1 :
    ∃ (rd : CellRead) (de : Desc) (h : Nat) (c : Chain) (b : Bytes) (s : State), s.dev.holdRuns = true ∧
      s.dev.rowBuffers + 5 ≤ 1024 ∧ s.dev.holdNext = some de ∧ de.holdQ = some h ∧ s.dev.chain de.chain = some c ∧
      de.tc = h % 8 ∧ c.marked = none ∧ rd.bad = none ∧ rd.corrupt = false ∧ de.trunc = 0 ∧
      b = padded (applyEdits c.body de.edits (s.dev.f0 .ACT_TPID) (s.dev.macSa (s.dev.holdPort h de.fab))).1 ∧
      (h < 1024 → s.dev.portUsed (h / 8) = true ∧ b.length + 4 ≤ s.dev.f1 .MAC_MAX_FRAME (h / 8)) ∧
      s.dev.hld.ring.alloc.isSome = true :=
  ⟨rd0, dsc, 1023, chn 64, (chn 64).body, st (hw 64), by decide +kernel⟩

theorem witness_holdingAndDraining_1_2 :
    ∃ (rd : CellRead) (de : Desc) (h : Nat) (c : Chain) (b : Bytes) (s : State), s.dev.holdRuns = true ∧
      s.dev.rowBuffers + 5 ≤ 1024 ∧ s.dev.holdNext = some de ∧ de.holdQ = some h ∧ s.dev.chain de.chain = some c ∧
      de.tc = h % 8 ∧ c.marked = none ∧ rd.bad = none ∧ rd.corrupt = false ∧ de.trunc = 0 ∧
      b = padded (applyEdits c.body de.edits (s.dev.f0 .ACT_TPID) (s.dev.macSa (s.dev.holdPort h de.fab))).1 ∧
      (h < 1024 → s.dev.portUsed (h / 8) = true ∧ b.length + 4 ≤ s.dev.f1 .MAC_MAX_FRAME (h / 8)) ∧
      s.dev.hld.ring.alloc.isSome = true :=
  ⟨rd0, dsc, 1023, chn 1518, (chn 1518).body, st (hw 1518), by decide +kernel⟩

theorem witness_holdingAndDraining_2 :
    ∃ (x : Nat × Nat × Nat) (rest : List (Nat × Nat × Nat)) (s : State), s.dev.holdRuns = true ∧ s.dev.hld.due = x :: rest :=
  ⟨(1, 2, 3), [(4, 5, 6)], st (hr fun h => { h with due := [(1, 2, 3), (4, 5, 6)] }), by decide +kernel⟩

theorem witness_holdingAndDraining_3 :
    ∃ (h : Nat) (head : Bool) (r : OpenRow) (s : State), s.dev.holdRuns = true ∧ s.dev.hld.due = [] ∧
      1024 < s.dev.rowBuffers + 5 ∧ s.dev.oldestRow = some (h, head, r) :=
  ⟨1, true, ⟨34, 15, 200, 3, 5, 6⟩, st busyD, by decide +kernel⟩

theorem witness_holdingAndDraining_4 :
    ∃ (h : Fin 3056) (reads : List RowRead) (_badFree : Option (Fin 3056 × Fin 67108864)) (p : Nat) (f : Held)
    (rest : List Held) (s : State), (s.dev.holdQ h).frames = f :: rest ∧ (s.dev.holdQ h).active = true ∧ (s.dev.holdQ h).chain = [] ∧ s.dev.holdRuns = true ∧ s.dev.drainState h = true ∧ s.dev.drainPort h f = some p ∧ (∀ de ∈ s.dev.queue 133 (h % 8), de.headChain = true → de.holdQ ≠ some h.val) ∧ (s.dev.clsMaxAge (h % 8) = 0 ∨ s.dev.opMs - f.opMs ≤ s.dev.clsMaxAge (h % 8) * 1000) ∧ s.dev.drainRoom h p f = true ∧ (Dev.readRows f (s.dev.rowsOnDies h f) reads s.dev).2 = true :=
  ⟨1023, [⟨3, [], []⟩], none, 127, hf, [], st drD, by decide +kernel⟩

theorem witness_holdingAndDraining_5 :
    ∃ (h : Fin 3056) (_reads : List RowRead) (_badFree : Option (Fin 3056 × Fin 67108864)) (p : Nat) (f : Held)
    (rest : List Held) (s : State), (s.dev.holdQ h).frames = f :: rest ∧ (s.dev.holdQ h).active = true ∧ (s.dev.holdQ h).chain = [] ∧ s.dev.holdRuns = true ∧ s.dev.drainState h = true ∧ s.dev.drainPort h f = some p ∧ (∀ de ∈ s.dev.queue 133 (h % 8), de.headChain = true → de.holdQ ≠ some h.val) ∧ s.dev.clsMaxAge (h % 8) ≠ 0 ∧ s.dev.clsMaxAge (h % 8) * 1000 < s.dev.opMs - f.opMs :=
  ⟨1023, [], none, 127, hf, [], st oldD, by decide +kernel⟩

theorem witness_freeRingAndScrub_1 :
    ∃ s : State, s.dev.holdRuns = true ∧ s.dev.hld.ring.allocHalf.length < 512 ∧ 0 < s.dev.hld.ring.entries :=
  ⟨st (hr fun h => { h with ring := { ringFor 64 with allocHalf := List.range 511 } }), by decide +kernel⟩

theorem witness_freeRingAndScrub_2 :
    ∃ s : State, s.dev.holdRuns = true ∧ 1536 < s.dev.hld.ring.freeHalf.length :=
  ⟨st (hr fun h => { h with ring := { ringFor 64 with freeHalf := List.range 1537 } }), by decide +kernel⟩

theorem witness_freeRingAndScrub_3 :
    ∃ s : State, s.dev.holdRuns = true ∧ s.dev.b0 .HLD_STATUS_SWEEPING = true :=
  ⟨st ((hr fun h => { h with strays := [77, 78], ring := ringFor 64 }).set0 .HLD_STATUS_SWEEPING 1), by decide +kernel⟩

theorem witness_freeRingAndScrub_4 :
    ∃ (m : Master) (s : State), s.dev.Open m (Reg.HLD_CTRL.addr 0 0) ∧ s.dev.hld.mounted = true ∧
      s.dev.hld.outOfService = false :=
  ⟨4, st (hr id), by simp only [Dev.Open]; decide +kernel⟩

theorem witness_freeRingAndScrub_5 :
    ∃ (_corr : List (HoldDie × Fin 9)) (_bad : List HoldDie) (_err : List (HoldDie × Fin 272 × Fin 256)) (s : State), s.dev.holdRuns = true ∧
      (¬(s.dev.hld.scrubAt = 0 ∧ s.dev.hld.lastScrub ≠ 0 ∧
      s.dev.now < s.dev.hld.lastScrub + s.dev.f0 .HLD_SCRUB_HOURS * 3600 * tSec)) :=
  ⟨[(17, 4), (16, 3)], [], [], st (hr fun h => { h with scrubAt := stripeCount - 1 }), by decide +kernel⟩

theorem witness_freeRingAndScrub_5_2 :
    ∃ (_corr : List (HoldDie × Fin 9)) (_bad : List HoldDie) (_err : List (HoldDie × Fin 272 × Fin 256)) (s : State), s.dev.holdRuns = true ∧
      (¬(s.dev.hld.scrubAt = 0 ∧ s.dev.hld.lastScrub ≠ 0 ∧
      s.dev.now < s.dev.hld.lastScrub + s.dev.f0 .HLD_SCRUB_HOURS * 3600 * tSec)) :=
  ⟨[], [3], [(4, 271, 255)], st (hr id), by decide +kernel⟩

theorem witness_holdMaintenance_1 :
    ∃ (z : Fin 4096) (s : State), s.dev.holdRuns = true ∧ s.dev.f0 .HLD_GAP_INTERVAL * 16 ≤ (s.dev.zone z).sinceGap :=
  ⟨4095, st (hr fun h => { h with zones := [(4095, ⟨0, 0, 10000000, 5, 5, 0⟩)] }), by decide +kernel⟩

theorem witness_holdMaintenance_1_2 :
    ∃ (z : Fin 4096) (s : State), s.dev.holdRuns = true ∧ s.dev.f0 .HLD_GAP_INTERVAL * 16 ≤ (s.dev.zone z).sinceGap :=
  ⟨4095, st (hr fun h => { h with zones := [(4095, ⟨0, 16384, 10000000, 5, 5, 0⟩)] }), by decide +kernel⟩

theorem witness_holdMaintenance_2 :
    ∃ (a b n : Nat) (pairs : Fin 16385) (s : State), s.dev.holdRuns = true ∧ s.dev.hld.swapping = some (a, b, n) ∧
      n + pairs.val < 16384 :=
  ⟨3, 4095, 16380, 3, st (hr fun h => { h with swapping := some (3, 4095, 16380) }), by decide +kernel⟩

theorem witness_holdMaintenance_3 :
    ∃ (a b n : Nat) (pairs : Fin 16385) (s : State), s.dev.holdRuns = true ∧ s.dev.hld.swapping = some (a, b, n) ∧
      n ≤ 16384 ∧ 16384 ≤ n + pairs.val ∧ a ≠ b :=
  ⟨3, 4095, 16380, 16384, st (hr fun h => { h with swapping := some (3, 4095, 16380) }), by decide +kernel⟩

theorem witness_holdMaintenance_4 :
    ∃ (_pairs : Fin 16385) (s : State), s.dev.holdRuns = true ∧ s.dev.hld.swapping = none ∧
      s.dev.hld.lastSwap + 3600 * tSec ≤ s.dev.now ∧
      (s.dev.zone s.dev.wornZones.2).wear + s.dev.f0 .HLD_ZONE_SWAP_DELTA ≤ (s.dev.zone s.dev.wornZones.1).wear :=
  ⟨16384, st wornD, by decide +kernel, by decide +kernel, by decide +kernel,
    worn_apart (st wornD).dev (by decide +kernel) (by decide +kernel) (by decide +kernel)⟩

theorem witness_holdMaintenance_5 :
    ∃ s : State, s.dev.holdRuns = true ∧ s.dev.hld.lastWearSave + 3600 * tSec ≤ s.dev.now :=
  ⟨st { hr (fun h => { h with zones := [(4095, ⟨0, 0, 10000000, 5, 50, 0⟩)] }) with now := 1440000000000 }, by decide +kernel⟩

theorem witness_holdMaintenance_6 :
    ∃ (m : Master) (cap : Fin 4096) (s : State), s.dev.Open m (Reg.HLD_FORMAT.addr 0 0) ∧ pwMaster m = true ∧
      s.dev.b0 .HLD_FORMAT_BUSY = false ∧ (s.dev.winter = true ∨ s.dev.boot.committed = false) ∧
      s.dev.hld.outOfService = false ∧ cap.val ≤ 2048 :=
  ⟨4, 2048, st ((hr id).set0 .HLT_STATE_STATE 3), by simp only [Dev.Open]; decide +kernel⟩

theorem witness_holdMaintenance_7 :
    ∃ (cap : Nat) (s : State), s.dev.hld.formatting = some cap :=
  ⟨2048, st (hr fun h => { h with formatting := some 2048, queues := [(1023, { HoldQ.reset with active := true, frames := [hf], pages := [⟨20, 0, false⟩] })] }),
    by decide +kernel⟩

theorem witness_holdMaintenance_8 :
    ∃ (die : HoldDie) (s : State), s.dev.hld.retrain = none ∧ s.dev.hld.rebuild = none ∧ s.dev.hld.retrainNext ≤ s.dev.now ∧
      s.dev.hld.suspended = false ∧ s.dev.hld.outOfService = false ∧ s.dev.hld.fenced = false ∧ s.dev.hld.frozen = false ∧
      die.val ∉ s.dev.hld.failedDies ∧
      (s.dev.holdMoved die = true ∨ ((∀ i < 18, i ∉ s.dev.hld.failedDies → s.dev.holdMoved i = false) ∧
      (if s.dev.retrainDie s.dev.hld.retrainPos = 18 ∧
      (∀ t ∈ s.dev.hld.passAt, t + 600 * tSec ≤ s.dev.now) then s.dev.retrainDie 0 else s.dev.retrainDie s.dev.hld.retrainPos) = die.val)) :=
  ⟨die, st ((hr fun h => { h with retrainNext := 8000000000, retrainPos := 17 })), by decide +kernel⟩

theorem witness_holdMaintenance_8_2 :
    ∃ (die : HoldDie) (s : State), s.dev.hld.retrain = none ∧ s.dev.hld.rebuild = none ∧ s.dev.hld.retrainNext ≤ s.dev.now ∧
      s.dev.hld.suspended = false ∧ s.dev.hld.outOfService = false ∧ s.dev.hld.fenced = false ∧ s.dev.hld.frozen = false ∧
      die.val ∉ s.dev.hld.failedDies ∧
      (s.dev.holdMoved die = true ∨ ((∀ i < 18, i ∉ s.dev.hld.failedDies → s.dev.holdMoved i = false) ∧
      (if s.dev.retrainDie s.dev.hld.retrainPos = 18 ∧
      (∀ t ∈ s.dev.hld.passAt, t + 600 * tSec ≤ s.dev.now) then s.dev.retrainDie 0 else s.dev.retrainDie s.dev.hld.retrainPos) = die.val)) :=
  ⟨die, st ((hr fun h => { h with retrainNext := 8000000000, retrainPos := 3 }).set1 .HLD_DIE_STATUS_RETRAIN_TEMP 17 251),
    by decide +kernel⟩

theorem witness_holdMaintenance_9 :
    ∃ (die : HoldDie) (a : Nat) (s : State), s.dev.hld.retrain = some (die.val, a) :=
  ⟨die, 7999999999, st (hr fun h => { h with retrain := some (17, 7999999999) }), by decide +kernel⟩

theorem witness_holdMaintenance_10 :
    ∃ (die : HoldDie) (a : Nat) (s : State), s.dev.hld.retrain = some (die.val, a) ∧
      Map.get 0 s.dev.hld.retrainFails die = 0 :=
  ⟨die, 7999999999, st (hr fun h => { h with retrain := some (17, 7999999999) }), by decide +kernel⟩

theorem witness_holdMaintenance_11 :
    ∃ (die : HoldDie) (a : Nat) (s : State), s.dev.hld.retrain = some (die.val, a) ∧
      1 ≤ Map.get 0 s.dev.hld.retrainFails die :=
  ⟨die, 7999999999, st (hr fun h => { h with retrain := some (17, 7999999999), retrainFails := [(17, 1)] }),
    by decide +kernel⟩

theorem witness_holdMaintenance_12 :
    ∃ (die : HoldDie) (a : Nat) (s : State), s.dev.hld.retrain = some (die.val, a) ∧ a + tMs ≤ s.dev.now ∧
      Map.get 0 s.dev.hld.retrainFails die = 0 :=
  ⟨die, 7999600000, st (hr fun h => { h with retrain := some (17, 7999600000) }), by decide +kernel⟩

theorem witness_holdMaintenance_13 :
    ∃ (die : Nat) (s : State), s.dev.hld.rebuild = some die ∧ s.dev.holdRuns = true :=
  ⟨17, st (hr fun h => { h with rebuild := some 17, deferral := [33, 34] }), by decide +kernel⟩

end Sys2Proof.Tests.HoldStore

namespace Sys2Proof.Tests.FabricWork
open Sys2Proof Sys2Proof.Machine Sys2Proof.Tests

def fabSec : Bytes := [7, 0] ++ leBytes 2 0x88B5 ++ leBytes 2 100 ++ leBytes 2 400 ++ List.replicate 40 0
def fb (sec : Bytes) (adj v : Nat) (f : FabSt → FabSt) : Dev :=
  let d : Dev := { running with img := { running.img with sections := Map.insert (imgSections fullImage) (k2 9 4) sec }, fab := f running.fab }
  let d := [126, 127].foldl (fun (d : Dev) p => ((((d.set1 .MAC_PORT_INFO_ROLE p 1).set1 .MAC_STATUS_LINK_UP p 1).set1 .MAC_PORT_INFO_MODE p 4).set1 .FAB_ADJ_STATE p adj).set1 .FAB_ADJ_VERSION p v) d
  d.set0 .FAB_STATUS_ADDRESS 7
def hello (ok : Bool) (n : Nat) : Hello := ⟨true, ok, 0x21, 0x10, 9, 99, 5, 100, 400, ownId + 1, n, 3, 4⟩
def as (a : AdjSt) (f : FabSt) : FabSt := { f with adj := [(127, a)] }
def lsa : Lsa := ⟨true, true, 9, 1, false, false, 0, 5, ownId + 1, [(7, 3, 10)]⟩
def lrec (q : Nat) : LsaRec := ⟨9, 1, false, false, q, 5, ownId + 1, [(7, 3, 10)], 7000000000⟩
def fh (ty cls hop src dst aux seq : Nat) (hold : Bool) : Bytes := List.replicate 12 1 ++ beBytes 2 0x88B5 ++ [0x20, BitVec.ofNat 8 (16 * ty), BitVec.ofNat 8 (4 * cls + 2 * b2n hold), BitVec.ofNat 8 hop, BitVec.ofNat 8 src, BitVec.ofNat 8 dst] ++ beBytes 2 aux ++ beBytes 4 5 ++ beBytes 4 seq ++ List.replicate 68 3
def rxf (bs : Bytes) : Rx := { bytes := bs, hasFcs := true, port := 127, region := 3, pass := 0, startNode := 0, profile := 0, cap := ⟨0, 0, 0, false⟩, lost := 0, srcDev := none, dflt := none, tsId := none, wait := none, parse := none, res := none, orig := none, dfltAct := none, hit := none }
def fr (bs : Bytes) (adj : Nat) (f : FabSt → FabSt) : Dev := let d := fb fabSec adj 0x21 f
  { d with buf := { d.buf with rx := [(9, some (rxf bs))], nextId := 10 } }
def mcD : Dev := let d := fr (fh 1 63 5 9 255 70 0 true) 2 fun f => { f with routes := [(9, ⟨[127, 126], 10, false⟩)] }
  { d.set1 .MAC_PORT_INFO_MODE 0 4 with act := { d.act with groups := [(70, ⟨1, false, false⟩)] } }
def fabSec0 : Bytes := [0, 0] ++ leBytes 2 0x88B5 ++ leBytes 2 100 ++ leBytes 2 400 ++ List.replicate 40 0

theorem witness_fabricAdjacencies_1 :
    ∃ (p : Port) (s : State), s.dev.boot.fwRuns = true ∧ s.dev.fabPort p = true ∧ s.dev.linkUp p = true ∧
      s.dev.winter = false ∧ s.dev.helloDue p = true :=
  ⟨127, st (fb fabSec 2 0x21 (as { AdjSt.reset with helloAt := some 7960000000 })), by decide +kernel⟩

theorem witness_fabricAdjacencies_2 :
  let sound (p : Port) (h : Hello) (s : State) := s.dev.fabPort p = true ∧ s.dev.linkUp p = true ∧ s.dev.winter = false ∧
    h.formOk = true ∧ 10 ≤ h.interval ∧ 2 * h.interval ≤ h.dead
  let fresh (p : Port) (h : Hello) (s : State) :=
    h.tagOk = true ∧ (∀ q, Map.find? (s.dev.adjSt p).last h.factory = some q → laterHello (h.power, h.seq) q = true) ∧ h.interval * 2 ≤ s.dev.fabDead ∧
      ((s.dev.adjSt p).neighId = 0 ∨ (s.dev.adjSt p).neighId = h.factory)
    ∃ (p : Port) (h : Hello) (s : State), sound p h s ∧ fresh p h s ∧ s.dev.adjState p = 0 :=
  ⟨127, hello true 0, st (fb fabSec 0 0 id), by decide +kernel⟩

theorem witness_fabricAdjacencies_3 :
  let sound (p : Port) (h : Hello) (s : State) := s.dev.fabPort p = true ∧ s.dev.linkUp p = true ∧ s.dev.winter = false ∧
    h.formOk = true ∧ 10 ≤ h.interval ∧ 2 * h.interval ≤ h.dead
  let fresh (p : Port) (h : Hello) (s : State) :=
    h.tagOk = true ∧ (∀ q, Map.find? (s.dev.adjSt p).last h.factory = some q → laterHello (h.power, h.seq) q = true) ∧ h.interval * 2 ≤ s.dev.fabDead ∧
      ((s.dev.adjSt p).neighId = 0 ∨ (s.dev.adjSt p).neighId = h.factory)
    ∃ (p : Port) (h : Hello) (v : Nat) (s : State), sound p h s ∧ fresh p h s ∧ s.dev.adjState p = 1 ∧ h.neigh = ownId ∧
      v = min 0x21 h.verMax ∧ 0x10 ≤ v ∧ h.verMin ≤ v :=
  ⟨127, hello true ownId, 0x21, st (fb fabSec 1 0 (as { AdjSt.reset with neighId := ownId + 1 })), by
    dsimp only
    repeat' apply And.intro
    all_goals first | decide +kernel | rfl | exact .inr rfl⟩

theorem witness_fabricAdjacencies_4 :
  let sound (p : Port) (h : Hello) (s : State) := s.dev.fabPort p = true ∧ s.dev.linkUp p = true ∧ s.dev.winter = false ∧
    h.formOk = true ∧ 10 ≤ h.interval ∧ 2 * h.interval ≤ h.dead
  let fresh (p : Port) (h : Hello) (s : State) :=
    h.tagOk = true ∧ (∀ q, Map.find? (s.dev.adjSt p).last h.factory = some q → laterHello (h.power, h.seq) q = true) ∧ h.interval * 2 ≤ s.dev.fabDead ∧
      ((s.dev.adjSt p).neighId = 0 ∨ (s.dev.adjSt p).neighId = h.factory)
    ∃ (p : Port) (h : Hello) (s : State), sound p h s ∧ fresh p h s ∧ s.dev.adjState p = 1 ∧ h.neigh = ownId ∧
      (min 0x21 h.verMax < 0x10 ∨ min 0x21 h.verMax < h.verMin) :=
  ⟨127, { hello true ownId with verMax := 0x0F }, st (fb fabSec 1 0 (as { AdjSt.reset with neighId := ownId + 1 })), by
    dsimp only
    repeat' apply And.intro
    all_goals first | decide +kernel | rfl | exact .inr rfl⟩

theorem witness_fabricAdjacencies_4_2 :
  let sound (p : Port) (h : Hello) (s : State) := s.dev.fabPort p = true ∧ s.dev.linkUp p = true ∧ s.dev.winter = false ∧
    h.formOk = true ∧ 10 ≤ h.interval ∧ 2 * h.interval ≤ h.dead
  let fresh (p : Port) (h : Hello) (s : State) :=
    h.tagOk = true ∧ (∀ q, Map.find? (s.dev.adjSt p).last h.factory = some q → laterHello (h.power, h.seq) q = true) ∧ h.interval * 2 ≤ s.dev.fabDead ∧
      ((s.dev.adjSt p).neighId = 0 ∨ (s.dev.adjSt p).neighId = h.factory)
    ∃ (p : Port) (h : Hello) (s : State), sound p h s ∧ fresh p h s ∧ s.dev.adjState p = 1 ∧ h.neigh = ownId ∧
      (min 0x21 h.verMax < 0x10 ∨ min 0x21 h.verMax < h.verMin) :=
  ⟨127, { hello true ownId with verMax := 0x30, verMin := 0x22 },
    st (fb fabSec 1 0 (as { AdjSt.reset with neighId := ownId + 1 })), by
    dsimp only
    repeat' apply And.intro
    all_goals first | decide +kernel | rfl | exact .inr rfl⟩

theorem witness_fabricAdjacencies_5 :
  let sound (p : Port) (h : Hello) (s : State) := s.dev.fabPort p = true ∧ s.dev.linkUp p = true ∧ s.dev.winter = false ∧
    h.formOk = true ∧ 10 ≤ h.interval ∧ 2 * h.interval ≤ h.dead
  let fresh (p : Port) (h : Hello) (s : State) :=
    h.tagOk = true ∧ (∀ q, Map.find? (s.dev.adjSt p).last h.factory = some q → laterHello (h.power, h.seq) q = true) ∧ h.interval * 2 ≤ s.dev.fabDead ∧
      ((s.dev.adjSt p).neighId = 0 ∨ (s.dev.adjSt p).neighId = h.factory)
    ∃ (p : Port) (h : Hello) (s : State), sound p h s ∧ fresh p h s ∧ s.dev.adjState p = 2 ∧ h.neigh ≠ ownId :=
  ⟨127, hello true (ownId + 1), st (fb fabSec 2 0x21 (as { AdjSt.reset with neighId := ownId + 1 })), by
    dsimp only
    repeat' apply And.intro
    all_goals first | decide +kernel | exact .inr rfl | exact Nat.succ_ne_self _⟩

theorem witness_fabricAdjacencies_6 :
  let sound (p : Port) (h : Hello) (s : State) := s.dev.fabPort p = true ∧ s.dev.linkUp p = true ∧ s.dev.winter = false ∧
    h.formOk = true ∧ 10 ≤ h.interval ∧ 2 * h.interval ≤ h.dead
    ∃ (p : Port) (h : Hello) (q : Nat × Nat) (s : State), sound p h s ∧ s.dev.adjState p ≠ 4 ∧ h.tagOk = true ∧
      Map.find? (s.dev.adjSt p).last h.factory = some q ∧ laterHello (h.power, h.seq) q = false :=
  ⟨127, hello true ownId, (3, 4),
    st (fb fabSec 2 0x21 (as { AdjSt.reset with neighId := ownId + 1, last := [(ownId + 1, (3, 4))] })), by
    dsimp only
    repeat' apply And.intro
    all_goals first | decide +kernel | rfl | exact find_first _ _ _⟩

theorem witness_fabricAdjacencies_7 :
  let sound (p : Port) (h : Hello) (s : State) := s.dev.fabPort p = true ∧ s.dev.linkUp p = true ∧ s.dev.winter = false ∧
    h.formOk = true ∧ 10 ≤ h.interval ∧ 2 * h.interval ≤ h.dead
    ∃ (p : Port) (h : Hello) (s : State), sound p h s ∧ s.dev.adjState p ≠ 4 ∧ h.tagOk = false :=
  ⟨127, hello false 0, st (fb fabSec 2 0x21 (as { AdjSt.reset with tagFails := 2 })), by decide +kernel⟩

theorem witness_fabricAdjacencies_7_2 :
  let sound (p : Port) (h : Hello) (s : State) := s.dev.fabPort p = true ∧ s.dev.linkUp p = true ∧ s.dev.winter = false ∧
    h.formOk = true ∧ 10 ≤ h.interval ∧ 2 * h.interval ≤ h.dead
    ∃ (p : Port) (h : Hello) (s : State), sound p h s ∧ s.dev.adjState p ≠ 4 ∧ h.tagOk = false :=
  ⟨127, hello false 0, st (fb fabSec 2 0x21 (as { AdjSt.reset with tagFails := 1 })), by decide +kernel⟩

theorem witness_fabricAdjacencies_8 :
    ∃ (p : Port) (s : State), s.dev.adjState p ≠ 0 ∧ s.dev.adjState p ≠ 4 ∧
      (s.dev.adjSt p).heardAt + s.dev.fabDead * tMs ≤ s.dev.now :=
  ⟨127, st (fb fabSec 2 0x21 (as { AdjSt.reset with heardAt := 7840000000, neighId := 5 })), by decide +kernel⟩

theorem witness_fabricAdjacencies_9 :
    ∃ (p : Port) (a : Nat) (s : State), s.dev.adjState p = 4 ∧ (s.dev.adjSt p).refusedAt = some a ∧
      a + 10 * tSec ≤ s.dev.now :=
  ⟨127, 4000000000, st (fb fabSec 4 0 (as { AdjSt.reset with refusedAt := some 4000000000 })), by decide +kernel⟩

theorem witness_fabricLinkState_1 :
    ∃ (s : State), s.dev.boot.fwRuns = true ∧ s.dev.fabMember = true ∧ s.dev.winter = false ∧ s.dev.fab.originateDue = true ∧
      (¬(s.dev.b0 .FAB_STATUS_CONFLICT = true ∧ s.dev.fab.own.any (·.conflict) = true)) ∧
      (s.dev.fab.originatedAt.all (fun a => decide (a + 20 * tMs ≤ s.dev.now)) = true) :=
  ⟨st (fb fabSec 2 0x21 fun f => { f with originateDue := true, originatedAt := some 7992000000 }), by decide +kernel⟩

theorem witness_fabricLinkState_2 :
    ∃ (p : Port) (r : Lsa) (s : State), s.dev.fabPort p = true ∧ s.dev.adjState p = 2 ∧ s.dev.winter = false ∧
      s.dev.linkUp p = true ∧ r.formOk = true ∧ r.tagOk = true ∧ r.factory ≠ ownId ∧
      (∀ x ∈ s.dev.fab.lsdb, x.factory = r.factory → seqAfter r.seq x.seq = true) ∧
      (s.dev.fab.lsdb.length + b2n s.dev.fab.own.isSome < 256 ∨ (∃ x ∈ s.dev.fab.lsdb, x.factory = r.factory)) :=
  ⟨127, lsa, st (fb fabSec 2 0x21 fun f => { f with lsdb := [lrec (2 ^ 32 - 1)] }),
    by decide +kernel, by decide +kernel, by decide +kernel, by decide +kernel, rfl, rfl, Nat.succ_ne_self _,
    fun x h _ => (by decide +kernel : ∀ x ∈ (fb fabSec 2 0x21 fun f => { f with lsdb := [lrec (2 ^ 32 - 1)] }).fab.lsdb,
      seqAfter lsa.seq x.seq = true) x h, by decide +kernel⟩

theorem witness_fabricLinkState_4 :
    ∃ (p : Port) (x : LsaSend) (r : LsaRec) (s : State), x ∈ s.dev.fab.sends ∧ x.port = p.val ∧
      x.at_ + 100 * tMs ≤ s.dev.now ∧
      (s.dev.fab.own.toList ++ s.dev.fab.lsdb).find? (fun y => y.factory == x.factory) = some r :=
  ⟨127, ⟨127, ownId + 1, 6, 7960000000⟩, lrec 8,
    st (fb fabSec 2 0x21 fun f => { f with sends := [⟨127, ownId + 1, 6, 7960000000⟩], lsdb := [lrec 8] }),
    List.Mem.head _, rfl, by decide +kernel, List.find?_cons_of_pos (by exact beq_self_eq_true (ownId + 1))⟩

theorem witness_fabricLinkState_6 :
    ∃ (us : Nat) (s : State), s.dev.fab.changedAt.isSome = true ∧ us < 2 ^ 16 :=
  ⟨65535, st (fb fabSec 2 0x21 fun f => { f with changedAt := some 5, lsdb := [lrec 8] }), by decide +kernel⟩

theorem witness_fabricLinkState_7 :
    ∃ (a : Fin 256) (r : Route) (s : State), Map.find? s.dev.fab.routes a = some r :=
  ⟨255, ⟨[5], 10, false⟩, st (fb fabSec 2 0x21 fun f => { f with routes := [(255, ⟨[5], 10, false⟩)] }), by decide +kernel⟩

theorem witness_fabricTraffic_1 :
  let sound (id : Nat) (rx : Rx) (h : FabHdr) (s : State) := s.dev.fabFrame id = some rx ∧ h = fabHdrOf rx.bytes ∧
    s.dev.winter = false ∧ s.dev.forwards = true ∧ s.dev.fabRefuses rx = none
    ∃ (id : Nat) (rx : Rx) (h : FabHdr) (s : State), sound id rx h s ∧ h.type = 0 ∧ h.dst = s.dev.fabAddr ∧
      (beAt (innerOf rx.bytes) 0 6 ≠ 0x0180C200000E ∨ beAt (innerOf rx.bytes) 12 2 ≠ s.dev.fabType) :=
  ⟨9, rxf (fh 0 63 5 9 7 0 0 true), fabHdrOf (fh 0 63 5 9 7 0 0 true), st (fr (fh 0 63 5 9 7 0 0 true) 2 id),
    by decide +kernel⟩

theorem witness_fabricTraffic_2 :
  let sound (id : Nat) (rx : Rx) (h : FabHdr) (s : State) := s.dev.fabFrame id = some rx ∧ h = fabHdrOf rx.bytes ∧
    s.dev.winter = false ∧ s.dev.forwards = true ∧ s.dev.fabRefuses rx = none
    ∃ (id : Nat) (rx : Rx) (h : FabHdr) (s : State), sound id rx h s ∧ h.type = 0 ∧ h.dst ≠ s.dev.fabAddr :=
  ⟨9, rxf (fh 0 63 1 9 8 0 0 true), fabHdrOf (fh 0 63 1 9 8 0 0 true), st (fr (fh 0 63 1 9 8 0 0 true) 2 id),
    by decide +kernel⟩

theorem witness_fabricTraffic_2_2 :
  let sound (id : Nat) (rx : Rx) (h : FabHdr) (s : State) := s.dev.fabFrame id = some rx ∧ h = fabHdrOf rx.bytes ∧
    s.dev.winter = false ∧ s.dev.forwards = true ∧ s.dev.fabRefuses rx = none
    ∃ (id : Nat) (rx : Rx) (h : FabHdr) (s : State), sound id rx h s ∧ h.type = 0 ∧ h.dst ≠ s.dev.fabAddr :=
  ⟨9, rxf (fh 0 63 2 9 8 0 0 true), fabHdrOf (fh 0 63 2 9 8 0 0 true), st (fr (fh 0 63 2 9 8 0 0 true) 2 id),
    by decide +kernel⟩

theorem witness_fabricTraffic_3 :
  let sound (id : Nat) (rx : Rx) (h : FabHdr) (s : State) := s.dev.fabFrame id = some rx ∧ h = fabHdrOf rx.bytes ∧
    s.dev.winter = false ∧ s.dev.forwards = true ∧ s.dev.fabRefuses rx = none
    ∃ (id : Nat) (rx : Rx) (h : FabHdr) (s : State), sound id rx h s ∧ h.type = 2 ∧ h.dst = s.dev.fabAddr ∧
      (s.dev.b1 .MIR_CFG_EN (h.aux % 16) = false ∨ s.dev.f1 .MIR_CFG_TYPE (h.aux % 16) ≠ 2 ∨ 16 ≤ h.aux) :=
  ⟨9, rxf (fh 2 63 5 9 7 15 0 true), fabHdrOf (fh 2 63 5 9 7 15 0 true), st (fr (fh 2 63 5 9 7 15 0 true) 2 id),
    by decide +kernel⟩

theorem witness_fabricTraffic_4 :
    ∃ (id : Nat) (rx : Rx) (s : State), s.dev.fabFrame id = some rx ∧ (fabHdrOf rx.bytes).type ≠ 1 ∧ s.dev.forwards = true ∧
      s.dev.adjState rx.port ≠ 2 :=
  ⟨9, rxf (fh 0 63 2 9 8 0 0 true), st (fr (fh 0 63 2 9 8 0 0 true) 1 id), by decide +kernel⟩

theorem witness_fabricTraffic_5 :
  let sound (id : Nat) (rx : Rx) (h : FabHdr) (s : State) := s.dev.fabFrame id = some rx ∧ h = fabHdrOf rx.bytes ∧
    s.dev.winter = false ∧ s.dev.forwards = true ∧ s.dev.fabRefuses rx = none
    ∃ (id : Nat) (rx : Rx) (h : FabHdr) (p : Port) (s : State), sound id rx h s ∧ h.type = 1 ∧
      s.dev.routeDown h.src = false ∧ (s.dev.route h.src).ports.head? = some rx.port ∧
      s.dev.group h.aux = ⟨2 ^ p.val, false, false⟩ ∧ p.val ≠ rx.port ∧ rx.lost = 0 ∧ s.dev.fabPort p = false ∧
      s.dev.muted p = false ∧ s.dev.portPast p = false ∧
      bitOf (s.dev.f1 .QUE_PORT_CFG_MC_MAP p) (s.dev.classMap h.cls) = false ∧
      s.dev.clsLossless (s.dev.classMap h.cls) = false ∧
      s.dev.threshold p 8 (cellsFor (rx.bytes.length - 30)) .green = true ∧ s.dev.descUsed < 1572864 ∧
      s.dev.fld .QUE_TC_ECN_ECN_MAX p (s.dev.queueClass p 8) = 0 :=
  ⟨9, rxf (fh 1 63 5 9 255 70 0 true), fabHdrOf (fh 1 63 5 9 255 70 0 true), 0, st mcD, by decide +kernel⟩

theorem witness_fabricTraffic_6 :
  let sound (id : Nat) (rx : Rx) (h : FabHdr) (s : State) := s.dev.fabFrame id = some rx ∧ h = fabHdrOf rx.bytes ∧
    s.dev.winter = false ∧ s.dev.forwards = true ∧ s.dev.fabRefuses rx = none
    ∃ (id : Nat) (rx : Rx) (h : FabHdr) (s : State), sound id rx h s ∧ h.type = 1 ∧
      (s.dev.route h.src).ports.head? ≠ some rx.port :=
  ⟨9, rxf (fh 1 63 5 9 255 70 0 true), fabHdrOf (fh 1 63 5 9 255 70 0 true),
    st (fr (fh 1 63 5 9 255 70 0 true) 2 fun f => { f with routes := [(9, ⟨[126], 10, false⟩)] }), by decide +kernel⟩

theorem witness_fabricTraffic_7 :
    ∃ (f : Nat) (s : State), s.dev.fabMember = true ∧ s.dev.fabAddr = 0 ∧ leAt (s.dev.section 9 4) 0 1 = 0 ∧
      s.dev.fab.firstFull = some f ∧ f + 3 * s.dev.fabDead * tMs ≤ s.dev.now ∧ s.dev.fab.lsdb.length < 127 :=
  ⟨7520000000,
    st ((fb fabSec0 2 0x21 fun f => { f with firstFull := some 7520000000, lsdb := [{ lrec 8 with origin := 1 }] }).set0 .FAB_STATUS_ADDRESS 0),
    by decide +kernel⟩

theorem witness_fabricTraffic_7_2 :
    ∃ (f : Nat) (s : State), s.dev.fabMember = true ∧ s.dev.fabAddr = 0 ∧ leAt (s.dev.section 9 4) 0 1 = 0 ∧
      s.dev.fab.firstFull = some f ∧ f + 3 * s.dev.fabDead * tMs ≤ s.dev.now ∧ s.dev.fab.lsdb.length < 127 :=
  ⟨7520000000,
    st ((fb fabSec0 2 0x21 fun f => { f with firstFull := some 7520000000, lsdb := [] }).set0 .FAB_STATUS_ADDRESS 0),
    by decide +kernel⟩

theorem witness_fabricTraffic_8 :
    ∃ (p : Port) (origin _health : Fin 256) (cause : Fin 65536) (factory : Nat) (s : State), s.dev.fabPort p = true ∧
      s.dev.adjState p = 2 ∧ s.dev.f1 .FAB_ADJ_VERSION p = 0x21 ∧ s.dev.winter = false ∧ factory ≠ ownId ∧
      (origin.val, cause.val) ∉ s.dev.fab.notices :=
  ⟨127, 255, 3, 65535, ownId + 1, st (fb fabSec 2 0x21 id), by
    repeat' apply And.intro
    all_goals first | decide +kernel | exact Nat.succ_ne_self _⟩

theorem witness_fabricTraffic_9 :
    ∃ (_p : Port) (origin _health : Fin 256) (cause : Fin 65536) (_factory : Nat) (s : State), (origin.val, cause.val) ∈ s.dev.fab.notices :=
  ⟨127, 255, 3, 65535, ownId + 1, st (fb fabSec 2 0x21 fun f => { f with notices := [(255, 65535)] }), by decide +kernel⟩

end Sys2Proof.Tests.FabricWork

namespace Sys2Proof.Tests.LeaseWork
open Sys2Proof Sys2Proof.Machine Sys2Proof.Tests

def fabSec : Bytes := [7, 0] ++ leBytes 2 0x88B5 ++ leBytes 2 100 ++ leBytes 2 400 ++ List.replicate 40 0
def pairSec (wits : Nat) (mode : Nat) : Bytes := [9, 0] ++ leBytes 2 50 ++ leBytes 1 wits ++ [33, 34, 0xFF] ++ leBytes 1 mode ++ [0] ++ leBytes 2 64
def pr (wits mode role v : Nat) (f : PairSt → PairSt) : Dev :=
  let secs := Map.insert (Map.insert (imgSections fullImage) (k2 9 4) fabSec) (k2 10 4) (pairSec wits mode)
  let d : Dev := { running with pins := { running.pins with leaseInB := false }, img := { running.img with sections := secs, image := fullImage }, pair := f { running.pair with links := [(126, ⟨v, none, 0, [], false, none⟩), (127, ⟨v, none, 0, [], false, some 7999600000⟩)] } }
  let d := [(64, 1), (66, 0), (126, 2), (127, 2)].foldl (fun (d : Dev) p => ((d.set1 .MAC_PORT_INFO_ROLE p.1 p.2).set1 .MAC_STATUS_LINK_UP p.1 1).set1 .MAC_PORT_INFO_MODE p.1 4) d
  ((d.set0 .FAB_STATUS_ADDRESS 7).set0 .PAIR_STATUS_ROLE role).set1 .MAC_PORT_INFO_MODE 3 4
def pm (sender epoch seq : Nat) : PairMsg := ⟨true, true, false, false, true, 1, sender, 7, epoch, seq, 50, 5, 99, 0x10,
    0x13, 0, 5⟩
def ren (t : Nat) (dn : Bool) (x : PairSt) : PairSt := { x with lease := some 8004000000, renewal := some ⟨t, 5, [], dn⟩, epoch := 6 }
def part (a c s : Bool) : Option Partner := some ⟨a, c, s, 1, 6, 5⟩
def ws (w : WitSt) (x : PairSt) : PairSt := { x with wits := [(pairKey 20 7, w)] }

theorem witness_heartbeatsAndPins_1 :
    ∃ (p : Port) (s : State), p.val ∈ s.dev.pairPorts ∧ s.dev.linkUp p = true ∧ s.dev.winter = false ∧
      s.dev.boot.fwRuns = true ∧ (s.dev.pairLink p).isolatedUntil = none ∧ (s.dev.pairLink p).refused = false ∧
      (∀ a ∈ (s.dev.pairLink p).hbSent, a + tMs ≤ s.dev.now) :=
  ⟨127, st (pr 3 2 4 0x13 fun x => { x with seqTx := [(1, 2 ^ 32 - 1)] }), by decide +kernel⟩

theorem witness_heartbeatsAndPins_2 :
    ∃ (p : Port) (m : PairMsg) (s : State), s.dev.hears p 1 m ∧ s.dev.fromPartner m ∧ p.val ∈ s.dev.pairPorts ∧
      (s.dev.pairLink p).version ≠ 0 ∨ (agreed 0x13 0x10 m.verMax m.verMin).isSome = true :=
  ⟨127, { pm 9 6 1 with active := true }, st (pr 3 2 4 0x13 fun x => { x with epoch := 5, lease := some 9000000000 }),
    by simp only [Dev.hears, Dev.fromPartner]; decide +kernel⟩

theorem witness_heartbeatsAndPins_2_2 :
    ∃ (p : Port) (m : PairMsg) (s : State), s.dev.hears p 1 m ∧ s.dev.fromPartner m ∧ p.val ∈ s.dev.pairPorts ∧
      (s.dev.pairLink p).version ≠ 0 ∨ (agreed 0x13 0x10 m.verMax m.verMin).isSome = true :=
  ⟨127, pm 9 6 1, st (pr 3 2 2 0x13 fun x => { x with epoch := 5 }),
    by simp only [Dev.hears, Dev.fromPartner]; decide +kernel⟩

theorem witness_heartbeatsAndPins_3 :
    ∃ (a : Nat) (s : State), s.dev.b0 .PAIR_STATUS_HB_OK = true ∧ s.dev.pair.hbAt = some a ∧
      a + s.dev.f0 .PAIR_TIMERS_HB_MISS * tMs ≤ s.dev.now :=
  ⟨7998800000, st ((pr 3 2 2 0x13 fun x => { x with hbAt := some 7998800000 }).set0 .PAIR_STATUS_HB_OK 1), by decide +kernel⟩

theorem witness_heartbeatsAndPins_4 :
    ∃ (p : Port) (a : Nat) (s : State), (s.dev.pairLink p).isolatedUntil = some a ∧ a ≤ s.dev.now :=
  ⟨127, 8000000000, st (pr 3 2 2 0x13 fun x => { x with links := [(127, ⟨0x13, some 8000000000, 0, [], false, none⟩)] }),
    by decide +kernel⟩

theorem witness_heartbeatsAndPins_5 :
    ∃ (a b : Bool) (s : State), (s.dev.pair.lease = none ∨ (a || b) = false) :=
  ⟨true, false, st (pr 3 2 2 0x13 id), by decide +kernel⟩

theorem witness_heartbeatsAndPins_5_2 :
    ∃ (a b : Bool) (s : State), (s.dev.pair.lease = none ∨ (a || b) = false) :=
  ⟨false, false, st (pr 3 2 4 0x13 fun x => { x with lease := some 9000000000 }), by decide +kernel⟩

theorem witness_heartbeatsAndPins_6 :
    ∃ (a b : Bool) (s : State), s.dev.pair.lease.isSome = true ∧ (a || b) = true ∧ s.dev.winter = false :=
  ⟨false, true, st (pr 3 2 4 0x13 fun x => { x with lease := some 9000000000 }), by decide +kernel⟩

theorem witness_heartbeatsAndPins_7 :
    ∃ (a : Nat) (s : State), s.dev.pair.pinsDiffer = some a ∧ a + tMs < s.dev.now ∧
      s.dev.b0 .HLT_AUTUMN_CAUSE_LEASE_PIN = false ∧ s.dev.health = 1 :=
  ⟨7999599999, st (pr 3 2 4 0x13 fun x => { x with pinsDiffer := some 7999599999 }), by decide +kernel⟩

theorem witness_leaseOfTheActive_1 :
    ∃ (s : State), s.dev.isActive = true ∧ s.dev.pair.lease.isSome = true ∧ s.dev.winter = false ∧
      (∀ x ∈ s.dev.pair.renewal, x.at_ + s.dev.renewTicks ≤ s.dev.now) ∧ s.dev.witnessCount ≠ 0 :=
  ⟨st (pr 3 2 4 0x13 fun x => { x with lease := some 8004000000, seqTx := [(2, 2 ^ 32 - 1)] }), by decide +kernel⟩

theorem witness_leaseOfTheActive_2 :
    ∃ (a b : Nat) (s : State), s.dev.isActive = true ∧ s.dev.pair.lease.isSome = true ∧ s.dev.winter = false ∧
      (∀ x ∈ s.dev.pair.renewal, x.at_ + s.dev.renewTicks ≤ s.dev.now) ∧ s.dev.witnessCount = 0 ∧
      s.dev.pair.lowSince = some a ∧ s.dev.pair.lastRenewed = some b ∧ a ≤ b :=
  ⟨7990000000, 7999000000,
    st (pr 0 2 4 0x13 fun x => { x with lease := some 8004000000, lowSince := some 7990000000, lastRenewed := some 7999000000 }),
    by decide +kernel⟩

theorem witness_leaseOfTheActive_3 :
    ∃ (p : Port) (m : PairMsg) (x : Poll) (s : State), s.dev.hears p 3 m ∧ s.dev.fromPartner m ∧ s.dev.isActive = true ∧
      s.dev.pair.renewal = some x ∧ x.done = false ∧ m.seq = x.seq ∧ m.epoch = s.dev.pair.epoch ∧
      s.dev.now ≤ x.at_ + 2 * tMs :=
  ⟨127, pm 9 6 5, ⟨7999200000, 5, [], false⟩, st (pr 3 2 4 0x13 (ren 7999200000 false)),
    by simp only [Dev.hears, Dev.fromPartner]; decide +kernel⟩

theorem witness_leaseOfTheActive_4 :
    ∃ (x : Poll) (s : State), s.dev.pair.renewal = some x ∧ x.done = false ∧ x.at_ + 2 * tMs ≤ s.dev.now :=
  ⟨⟨7999200000, 5, [], false⟩, st (pr 3 2 4 0x13 (ren 7999200000 false)), by decide +kernel⟩

theorem witness_leaseOfTheActive_5 :
    ∃ (a : Nat) (s : State), s.dev.pair.lease = some a ∧ a ≤ s.dev.now ∧ s.dev.isActive = true :=
  ⟨8000000000, st (pr 3 2 4 0x13 fun x => { x with lease := some 8000000000 }), by decide +kernel⟩

theorem witness_leaseOfTheActive_6 :
  let cmd (m : Master) (s : State) := s.dev.Open m (Reg.PAIR_LEASE_CMD.addr 0 0) ∧ pwMaster m = true ∧
    s.dev.b0 .PAIR_LEASE_CMD_BUSY = false
    ∃ (m : Master) (s : State), cmd m s ∧ s.dev.mayRelease = true :=
  ⟨4, st (pr 3 2 4 0x13 fun x => { x with lease := some 8004000000, partner := part false false true }),
    by simp only [Dev.Open]; decide +kernel⟩

theorem witness_leaseOfTheActive_7 :
  let cmd (m : Master) (s : State) := s.dev.Open m (Reg.PAIR_LEASE_CMD.addr 0 0) ∧ pwMaster m = true ∧
    s.dev.b0 .PAIR_LEASE_CMD_BUSY = false
    ∃ (m : Master) (s : State), cmd m s ∧ s.dev.mayRelease = false :=
  ⟨4, st (pr 3 2 4 0x12 fun x => { x with lease := some 8004000000, partner := part false false true }),
    by simp only [Dev.Open]; decide +kernel⟩

theorem witness_leaseOfTheActive_8 :
  let cmd (m : Master) (s : State) := s.dev.Open m (Reg.PAIR_LEASE_CMD.addr 0 0) ∧ pwMaster m = true ∧
    s.dev.b0 .PAIR_LEASE_CMD_BUSY = false
    ∃ (m : Master) (s : State), cmd m s :=
  ⟨4, up, by simp only [Dev.Open]; decide +kernel⟩

theorem witness_leaseOfTheActive_9 :
  let cmd (m : Master) (s : State) := s.dev.Open m (Reg.PAIR_LEASE_CMD.addr 0 0) ∧ pwMaster m = true ∧
    s.dev.b0 .PAIR_LEASE_CMD_BUSY = false
    ∃ (m : Master) (s : State), cmd m s :=
  ⟨4, up, by simp only [Dev.Open]; decide +kernel⟩

theorem witness_leaseOfTheActive_10 :
    ∃ (p : Port) (m : PairMsg) (s : State), s.dev.hears p 7 m ∧ s.dev.fromPartner m ∧ s.dev.role = 2 ∧
      m.epoch = s.dev.pair.epoch :=
  ⟨127, pm 9 6 5, st (pr 3 2 2 0x13 fun x => { x with epoch := 6 }),
    by simp only [Dev.hears, Dev.fromPartner]; decide +kernel⟩

theorem witness_claims_1 :
    ∃ (s : State), s.dev.mayClaim = true ∧ s.dev.witnessCount ≠ 0 :=
  ⟨st (pr 3 2 2 0x13 fun x => { x with lowSince := some 7999999600 }), by decide +kernel⟩

theorem witness_claims_2 :
    ∃ (s : State), s.dev.mayClaim = true ∧ s.dev.witnessCount = 0 ∧ s.dev.leaseIn = false :=
  ⟨st (pr 0 2 2 0x13 fun x => { x with lowSince := some 7998000000, epoch := 2 ^ 32 - 1 }), by decide +kernel⟩

theorem witness_claims_3 :
    ∃ (s : State), s.dev.role = 3 ∧ (s.dev.pair.claim.all (fun x => decide (x.at_ + 20 * tMs ≤ s.dev.now)) = true) :=
  ⟨st (pr 3 2 3 0x13 fun x => { x with claim := some ⟨7992000000, 5, [], false⟩ }), by decide +kernel⟩

theorem witness_claims_4 :
    ∃ (p : Port) (m : PairMsg) (k : Nat) (x : Poll) (s : State), s.dev.hears p 5 m ∧ s.dev.witSlot m.sender = some k ∧
      s.dev.role = 3 ∧ s.dev.pair.claim = some x ∧ m.epoch = (s.dev.pair.epoch + 1) % 2 ^ 32 :=
  ⟨64, pm 34 7 5, 1, ⟨7999999000, 5, [0], false⟩,
    st (pr 3 2 3 0x13 fun x => { x with epoch := 6, claim := some ⟨7999999000, 5, [0], false⟩ }),
    by simp only [Dev.hears]; decide +kernel⟩

theorem witness_claims_4_2 :
    ∃ (p : Port) (m : PairMsg) (k : Nat) (x : Poll) (s : State), s.dev.hears p 5 m ∧ s.dev.witSlot m.sender = some k ∧
      s.dev.role = 3 ∧ s.dev.pair.claim = some x ∧ m.epoch = (s.dev.pair.epoch + 1) % 2 ^ 32 :=
  ⟨64, pm 34 7 5, 1, ⟨7999999000, 5, [], false⟩,
    st (pr 3 2 3 0x13 fun x => { x with epoch := 6, claim := some ⟨7999999000, 5, [], false⟩ }),
    by simp only [Dev.hears]; decide +kernel⟩

theorem witness_claims_5 :
    ∃ (p : Port) (m : PairMsg) (k : Nat) (s : State), s.dev.hears p 6 m ∧ s.dev.witSlot m.sender = some k ∧ s.dev.role = 3 :=
  ⟨64, pm 34 9 5, 1, st (pr 3 2 3 0x13 fun x => { x with epoch := 6, claim := some ⟨7999999000, 5, [], false⟩ }),
    by simp only [Dev.hears]; decide +kernel⟩

theorem witness_witnessing_1 :
    ∃ (p : Port) (m : PairMsg) (s : State), s.dev.hears p 2 m ∧ p.val ∈ s.dev.pairPorts ∧ s.dev.fromPartner m ∧
      seqAfter s.dev.pair.epoch m.epoch = false :=
  ⟨127, pm 9 6 5, st (pr 3 2 2 0x13 fun x => { x with epoch := 6 }),
    by simp only [Dev.hears, Dev.fromPartner]; decide +kernel⟩

theorem witness_witnessing_2 :
    ∃ (p : Port) (m : PairMsg) (w : WitSt) (s : State), s.dev.hears p 2 m ∧ p.val ∉ s.dev.pairPorts ∧
      w = s.dev.wit (pairKey m.sender m.peer) :=
  ⟨64, pm 20 6 5, ⟨7, 20, some 5, 5, false, none⟩, st (pr 3 2 2 0x13 (ws ⟨7, 20, some 5, 5, false, none⟩)),
    by simp only [Dev.hears]; decide +kernel⟩

theorem witness_witnessing_2_2 :
    ∃ (p : Port) (m : PairMsg) (w : WitSt) (s : State), s.dev.hears p 2 m ∧ p.val ∉ s.dev.pairPorts ∧
      w = s.dev.wit (pairKey m.sender m.peer) :=
  ⟨64, pm 20 7 5, ⟨7, 20, some 5, 5, false, none⟩, st (pr 3 2 2 0x13 (ws ⟨7, 20, some 5, 5, false, none⟩)),
    by simp only [Dev.hears]; decide +kernel⟩

theorem witness_witnessing_2_3 :
    ∃ (p : Port) (m : PairMsg) (w : WitSt) (s : State), s.dev.hears p 2 m ∧ p.val ∉ s.dev.pairPorts ∧
      w = s.dev.wit (pairKey m.sender m.peer) :=
  ⟨64, pm 20 7 5, ⟨7, 21, some 5, 5, false, none⟩, st (pr 3 2 2 0x13 (ws ⟨7, 21, some 5, 5, false, none⟩)),
    by simp only [Dev.hears]; decide +kernel⟩

theorem witness_witnessing_3 :
    ∃ (p : Port) (m : PairMsg) (w : WitSt) (s : State), s.dev.hears p 4 m ∧ p.val ∉ s.dev.pairPorts ∧
      w = s.dev.wit (pairKey m.sender m.peer) :=
  ⟨64, pm 20 8 5, ⟨7, 21, some 5, 5, false, none⟩, st (pr 3 2 2 0x13 (ws ⟨7, 21, some 5, 5, false, none⟩)),
    by simp only [Dev.hears]; decide +kernel⟩

theorem witness_witnessing_3_2 :
    ∃ (p : Port) (m : PairMsg) (w : WitSt) (s : State), s.dev.hears p 4 m ∧ p.val ∉ s.dev.pairPorts ∧
      w = s.dev.wit (pairKey m.sender m.peer) :=
  ⟨64, pm 20 9 5, ⟨7, 21, some 5, 5, false, none⟩, st (pr 3 2 2 0x13 (ws ⟨7, 21, some 5, 5, false, none⟩)),
    by simp only [Dev.hears]; decide +kernel⟩

theorem witness_witnessing_3_3 :
    ∃ (p : Port) (m : PairMsg) (w : WitSt) (s : State), s.dev.hears p 4 m ∧ p.val ∉ s.dev.pairPorts ∧
      w = s.dev.wit (pairKey m.sender m.peer) :=
  ⟨64, pm 20 8 5, ⟨7, 21, some 7999999999, 50, false, none⟩, st (pr 3 2 2 0x13 (ws ⟨7, 21, some 7999999999, 50, false,
    none⟩)), by simp only [Dev.hears]; decide +kernel⟩

theorem witness_witnessing_4 :
    ∃ (a b : Fin 256) (c wait seq : Nat) (w : WitSt) (s : State), s.dev.winter = false ∧ s.dev.boot.fwRuns = true ∧
      w = s.dev.wit (pairKey a b) ∧ w.held = some (c, wait, seq) :=
  ⟨20, 7, 20, 55, 5, ⟨7, 21, some 5, 5, false, some (20, 55, 5)⟩, st (pr 3 2 2 0x13 (ws ⟨7, 21, some 5, 5, false, some (20,
    55, 5)⟩)), by decide +kernel⟩

theorem witness_witnessing_5 :
    ∃ (p : Port) (m : PairMsg) (w : WitSt) (s : State), s.dev.hears p 7 m ∧ p.val ∉ s.dev.pairPorts ∧
      w = s.dev.wit (pairKey m.sender m.peer) ∧ m.epoch = w.epoch ∧ m.sender = w.holder :=
  ⟨64, pm 20 7 5, ⟨7, 20, some 5, 5, false, none⟩, st (pr 3 2 2 0x13 (ws ⟨7, 20, some 5, 5, false, none⟩)),
    by simp only [Dev.hears]; decide +kernel⟩

end Sys2Proof.Tests.LeaseWork

namespace Sys2Proof.Tests.DigestWork
open Sys2Proof Sys2Proof.Machine Sys2Proof.Tests

def fabSec : Bytes := [7, 0] ++ leBytes 2 0x88B5 ++ leBytes 2 100 ++ leBytes 2 400 ++ List.replicate 40 0
def pairSec (wits : Nat) (mode : Nat) : Bytes := [9, 0] ++ leBytes 2 50 ++ leBytes 1 wits ++ [33, 34, 0xFF] ++ leBytes 1 mode ++ [0] ++ leBytes 2 64
def pr (wits mode role v : Nat) (f : PairSt → PairSt) : Dev :=
  let secs := Map.insert (Map.insert (imgSections fullImage) (k2 9 4) fabSec) (k2 10 4) (pairSec wits mode)
  let d : Dev := { running with pins := { running.pins with leaseInB := false }, img := { running.img with sections := secs, image := fullImage }, pair := f { running.pair with links := [(126, ⟨v, none, 0, [], false, none⟩), (127, ⟨v, none, 0, [], false, some 7999600000⟩)] } }
  let d := [(64, 1), (66, 0), (126, 2), (127, 2)].foldl (fun (d : Dev) p => ((d.set1 .MAC_PORT_INFO_ROLE p.1 p.2).set1 .MAC_STATUS_LINK_UP p.1 1).set1 .MAC_PORT_INFO_MODE p.1 4) d
  ((d.set0 .FAB_STATUS_ADDRESS 7).set0 .PAIR_STATUS_ROLE role).set1 .MAC_PORT_INFO_MODE 3 4
def pm (sender epoch seq : Nat) : PairMsg := ⟨true, true, false, false, true, 1, sender, 7, epoch, seq, 50, 5, 99, 0x10,
    0x13, 0, 5⟩
def dig (role : Nat) (f : PairSt → PairSt) : Dev := let d := (pr 3 2 role 0x13 f).set0 .PAIR_STATUS_HB_OK 1
  { d with tim := { d.tim with frc := 40000000 } }
def es : List (Nat × Nat × Bool × Nat) := List.replicate 32 (5, 3, false, 0)
def cm (stage : Nat) (f : PairSt → PairSt) : Dev := (pr 3 2 2 0x13 fun x => f { x with compare := some (stage, 5, 64) }).set0 .PAIR_STATUS_SYNCED 1 |> fun d => { d with tim := { d.tim with frc := 40000000 } }
def kp (r : Bytes) (x : PairSt) : PairSt := { x with keepWin := some 5, kept := [⟨9, 64, 0, List.replicate 64 3, r⟩] }
def alike : Bytes := (cm 3 id).sampleRecord 64 64 0 (List.replicate 64 3)
def row : Bytes := beBytes 6 5 ++ leBytes 2 7 ++ [9, 0] ++ List.replicate 22 0
def act1 : Partner := ⟨true, false, true, 1, 6, (pr 3 2 1 0x13 id).structCrc⟩
def syncer : Dev := (pr 3 2 1 0x13 fun x => { x with partner := some act1 }).set0 .PAIR_STATUS_HB_OK 1

theorem structCrc_image (d e : Dev) (h : d.img = e.img) : d.structCrc = e.structCrc := by
  unfold Dev.structCrc Dev.section
  rw [h]

theorem syncer_partner : syncer.pair.partner = some act1 := by
  simp only [syncer, pr, List.foldl, Dev.set0, Dev.set1, Dev.setFld]

theorem syncer_crc : act1.structCrc = syncer.structCrc := by
  have h : (pr 3 2 1 0x13 id).img = syncer.img := by simp only [syncer, pr, List.foldl, Dev.set0, Dev.set1, Dev.setFld]
  rw [← structCrc_image _ _ h, act1]

theorem witness_digests_1 :
    ∃ (w q v : Nat) (rest : List Nat) (s : State), s.dev.isActive = true ∧ s.dev.digesting = true ∧ 3 ≤ s.dev.windowNow ∧
      w = s.dev.windowNow - 3 ∧ w ∉ s.dev.pair.sent ∧ v = (if s.dev.digestMode = 1 then 0x11 else 0x12) ∧
      s.dev.pairLinks v = q :: rest ∧ s.dev.winter = false :=
  ⟨97, 126, 0x12, [127], st (dig 4 id), by decide +kernel⟩

theorem witness_digests_2 :
    ∃ (p : Port) (m : PairMsg) (w i : Nat) (n : Region) (l : List (Nat × Nat × Bool × Nat)) (e : Nat × Nat × Bool × Nat)
    (x : Win) (s : State), s.dev.hears p 8 m ∧ s.dev.fromPartner m ∧ s.dev.role = 2 ∧ k2 w n ∉ s.dev.pair.sent ∧ i < 32 ∧ l[i]? = some e ∧ s.dev.protectedPort (32 * n + i) = true ∧ x = (if s.dev.digestMode = 1 then s.dev.splitBand (32 * n + i) (w + 1) e.2.2.2 else s.dev).win (32 * n + i) w :=
  ⟨127, pm 9 6 5, 90, 2, 2, es, (5, 3, false, 0), ⟨5, 3, false, none⟩,
    st (dig 2 fun x => { x with wins := [(k2 66 90, ⟨5, 3, false, none⟩)] }),
    by simp only [Dev.hears, Dev.fromPartner]; decide +kernel⟩

theorem witness_digests_2_2 :
    ∃ (p : Port) (m : PairMsg) (w i : Nat) (n : Region) (l : List (Nat × Nat × Bool × Nat)) (e : Nat × Nat × Bool × Nat)
    (x : Win) (s : State), s.dev.hears p 8 m ∧ s.dev.fromPartner m ∧ s.dev.role = 2 ∧ k2 w n ∉ s.dev.pair.sent ∧ i < 32 ∧ l[i]? = some e ∧ s.dev.protectedPort (32 * n + i) = true ∧ x = (if s.dev.digestMode = 1 then s.dev.splitBand (32 * n + i) (w + 1) e.2.2.2 else s.dev).win (32 * n + i) w :=
  ⟨127, pm 9 6 5, 90, 2, 2, es, (5, 3, false, 0), ⟨6, 3, false, none⟩,
    st (dig 2 fun x => { x with wins := [(k2 66 90, ⟨6, 3, false, none⟩)], runs := [(66, (1, 3))] }),
    by simp only [Dev.hears, Dev.fromPartner]; decide +kernel⟩

theorem witness_digests_2_3 :
    ∃ (p : Port) (m : PairMsg) (w i : Nat) (n : Region) (l : List (Nat × Nat × Bool × Nat)) (e : Nat × Nat × Bool × Nat)
    (x : Win) (s : State), s.dev.hears p 8 m ∧ s.dev.fromPartner m ∧ s.dev.role = 2 ∧ k2 w n ∉ s.dev.pair.sent ∧ i < 32 ∧ l[i]? = some e ∧ s.dev.protectedPort (32 * n + i) = true ∧ x = (if s.dev.digestMode = 1 then s.dev.splitBand (32 * n + i) (w + 1) e.2.2.2 else s.dev).win (32 * n + i) w :=
  ⟨127, pm 9 6 5, 90, 2, 2, es, (5, 3, false, 0), ⟨6, 3, true, none⟩,
    st (dig 2 fun x => { x with wins := [(k2 66 90, ⟨6, 3, true, none⟩)], runs := [(66, (1, 2))] }),
    by simp only [Dev.hears, Dev.fromPartner]; decide +kernel⟩

theorem witness_digests_3 :
    ∃ (w i : Nat) (n : Region) (s : State), s.dev.role = 2 ∧ s.dev.digesting = true ∧ k2 w n ∉ s.dev.pair.sent ∧ i < 32 ∧
      s.dev.protectedPort (32 * n + i) = true :=
  ⟨90, 2, 2, st (dig 2 fun x => { x with wins := [(k2 66 90, ⟨6, 3, false, none⟩)], runs := [(66, (1, 2))] }),
    by decide +kernel⟩

theorem witness_digests_4 :
    ∃ (p : Port) (m : PairMsg) (q : Port) (_len _w _aut : Nat) (_bytes : Bytes) (s : State), s.dev.hears p 9 m ∧
      s.dev.fromPartner m ∧ s.dev.role = 2 ∧ s.dev.digestMode = 2 ∧
      (s.dev.pair.sampleSeq.all (fun x => m.seq == x || m.seq == (x + 1) % 2 ^ 32) = true) ∧ s.dev.protectedPort q = true ∧
      s.dev.regionIsolated (q.val / 32) = false :=
  ⟨127, pm 9 6 5, 66, 64, 90, 0, List.replicate 64 3, st (dig 2 fun x => { x with sampleSeq := some 4 }),
    by simp only [Dev.hears, Dev.fromPartner]; decide +kernel⟩

theorem witness_digests_5 :
    ∃ (p : Port) (m : PairMsg) (_q : Port) (x _len _w _aut : Nat) (_bytes : Bytes) (s : State), s.dev.hears p 9 m ∧
      s.dev.fromPartner m ∧ s.dev.role = 2 ∧ s.dev.digestMode = 2 ∧ s.dev.digesting = true ∧ s.dev.pair.sampleSeq = some x ∧
      m.seq ≠ x ∧ m.seq ≠ (x + 1) % 2 ^ 32 :=
  ⟨127, pm 9 6 5, 66, 3, 64, 90, 0, List.replicate 64 3, st (dig 2 fun x => { x with sampleSeq := some 3 }),
    by simp only [Dev.hears, Dev.fromPartner]; decide +kernel⟩

theorem witness_comparisonAndResync_1 :
  let runs (s : State) (stage a port : Nat) := s.dev.winter = false ∧ s.dev.boot.fwRuns = true ∧
    (s.dev.role = 2 ∨ s.dev.role = 4) ∧ s.dev.pair.compare = some (stage, a, port)
    ∃ (_q : Port) (_own : List (Nat × Nat × Nat)) (_partner : List BlockSum) (_dec : List (Nat × Bytes)) (_fault : Bool)
    (_rows : List SyncRec) (a port : Nat) (s : State), runs s 1 a port :=
  ⟨127, [], [], [], false, [], 5, 64, st (cm 1 id), by decide +kernel⟩

theorem witness_comparisonAndResync_1_2 :
  let runs (s : State) (stage a port : Nat) := s.dev.winter = false ∧ s.dev.boot.fwRuns = true ∧
    (s.dev.role = 2 ∨ s.dev.role = 4) ∧ s.dev.pair.compare = some (stage, a, port)
    ∃ (_q : Port) (_own : List (Nat × Nat × Nat)) (_partner : List BlockSum) (_dec : List (Nat × Bytes)) (_fault : Bool)
    (_rows : List SyncRec) (a port : Nat) (s : State), runs s 1 a port :=
  ⟨127, [], [⟨1, 5, 8, 8⟩], [], false, [], 5, 64, st (cm 1 id), by decide +kernel⟩

theorem witness_comparisonAndResync_2 :
  let runs (s : State) (stage a port : Nat) := s.dev.winter = false ∧ s.dev.boot.fwRuns = true ∧
    (s.dev.role = 2 ∨ s.dev.role = 4) ∧ s.dev.pair.compare = some (stage, a, port)
  let second (s : State) (own : List (Nat × Nat × Nat)) (partner : List BlockSum) (diff : List (BlockSum × BlockSum)) :=
    (∃ a port, runs s 2 a port ∧ a + 10 * tMs ≤ s.dev.now) ∧ diff = diffBlocks (s.dev.ownSums own) partner
    ∃ (_q : Port) (own : List (Nat × Nat × Nat)) (partner : List BlockSum) (_dec : List (Nat × Bytes)) (_fault : Bool)
    (_rows : List SyncRec) (s : State), second s own partner [] :=
  ⟨127, [], [], [], false, [], st (cm 2 id),
    ⟨⟨5, 64, by decide +kernel, by decide +kernel⟩, by decide +kernel⟩⟩

theorem witness_comparisonAndResync_3 :
  let runs (s : State) (stage a port : Nat) := s.dev.winter = false ∧ s.dev.boot.fwRuns = true ∧
    (s.dev.role = 2 ∨ s.dev.role = 4) ∧ s.dev.pair.compare = some (stage, a, port)
  let second (s : State) (own : List (Nat × Nat × Nat)) (partner : List BlockSum) (diff : List (BlockSum × BlockSum)) :=
    (∃ a port, runs s 2 a port ∧ a + 10 * tMs ≤ s.dev.now) ∧ diff = diffBlocks (s.dev.ownSums own) partner
    ∃ (_q : Port) (own : List (Nat × Nat × Nat)) (partner : List BlockSum) (_dec : List (Nat × Bytes)) (_fault : Bool)
    (_rows : List SyncRec) (diff : List (BlockSum × BlockSum)) (x : BlockSum × BlockSum) (s : State), second s own partner diff ∧ (diff.find? (fun y => y.1.read != y.1.write) = some x) :=
  ⟨127, [(1, 2 ^ 28 - 1, 77)], [⟨1, 2 ^ 28 - 1, 78, 78⟩], [], false, [], [(⟨1, 2 ^ 28 - 1, 77, 0⟩, ⟨1, 2 ^ 28 - 1, 78, 78⟩)],
    (⟨1, 2 ^ 28 - 1, 77, 0⟩, ⟨1, 2 ^ 28 - 1, 78, 78⟩), st (cm 2 id),
    ⟨⟨5, 64, by decide +kernel, by decide +kernel⟩, by decide +kernel⟩, by decide +kernel⟩

theorem witness_comparisonAndResync_3_2 :
  let runs (s : State) (stage a port : Nat) := s.dev.winter = false ∧ s.dev.boot.fwRuns = true ∧
    (s.dev.role = 2 ∨ s.dev.role = 4) ∧ s.dev.pair.compare = some (stage, a, port)
  let second (s : State) (own : List (Nat × Nat × Nat)) (partner : List BlockSum) (diff : List (BlockSum × BlockSum)) :=
    (∃ a port, runs s 2 a port ∧ a + 10 * tMs ≤ s.dev.now) ∧ diff = diffBlocks (s.dev.ownSums own) partner
    ∃ (_q : Port) (own : List (Nat × Nat × Nat)) (partner : List BlockSum) (_dec : List (Nat × Bytes)) (_fault : Bool)
    (_rows : List SyncRec) (diff : List (BlockSum × BlockSum)) (x : BlockSum × BlockSum) (s : State), second s own partner diff ∧ (diff.find? (fun y => y.1.read != y.1.write) = some x) :=
  ⟨127, [(1, 2 ^ 28 - 1, 77)], [⟨1, 2 ^ 28 - 1, 78, 78⟩], [], false, [], [(⟨1, 2 ^ 28 - 1, 77, 0⟩, ⟨1, 2 ^ 28 - 1, 78, 78⟩)],
    (⟨1, 2 ^ 28 - 1, 77, 0⟩, ⟨1, 2 ^ 28 - 1, 78, 78⟩), st ((cm 2 id).set0 .PAIR_STATUS_ROLE 4),
    ⟨⟨5, 64, by decide +kernel, by decide +kernel⟩, by decide +kernel⟩, by decide +kernel⟩

theorem witness_comparisonAndResync_4 :
  let runs (s : State) (stage a port : Nat) := s.dev.winter = false ∧ s.dev.boot.fwRuns = true ∧
    (s.dev.role = 2 ∨ s.dev.role = 4) ∧ s.dev.pair.compare = some (stage, a, port)
  let second (s : State) (own : List (Nat × Nat × Nat)) (partner : List BlockSum) (diff : List (BlockSum × BlockSum)) :=
    (∃ a port, runs s 2 a port ∧ a + 10 * tMs ≤ s.dev.now) ∧ diff = diffBlocks (s.dev.ownSums own) partner
    ∃ (_q : Port) (own : List (Nat × Nat × Nat)) (partner : List BlockSum) (_dec : List (Nat × Bytes)) (_fault : Bool)
    (_rows : List SyncRec) (diff : List (BlockSum × BlockSum)) (x : BlockSum × BlockSum) (s : State), second s own partner diff ∧ (∀ y ∈ diff, y.1.read = y.1.write) ∧ (diff.find? (fun y => y.2.read != y.2.write) = some x) :=
  ⟨127, [], [⟨1, 5, 8, 9⟩], [], false, [], [(⟨1, 5, 0, 0⟩, ⟨1, 5, 8, 9⟩)], (⟨1, 5, 0, 0⟩, ⟨1, 5, 8, 9⟩), st (cm 2 id),
    ⟨⟨5, 64, by decide +kernel, by decide +kernel⟩, by decide +kernel⟩, by decide +kernel, by decide +kernel⟩

theorem witness_comparisonAndResync_5 :
  let runs (s : State) (stage a port : Nat) := s.dev.winter = false ∧ s.dev.boot.fwRuns = true ∧
    (s.dev.role = 2 ∨ s.dev.role = 4) ∧ s.dev.pair.compare = some (stage, a, port)
  let second (s : State) (own : List (Nat × Nat × Nat)) (partner : List BlockSum) (diff : List (BlockSum × BlockSum)) :=
    (∃ a port, runs s 2 a port ∧ a + 10 * tMs ≤ s.dev.now) ∧ diff = diffBlocks (s.dev.ownSums own) partner
    ∃ (_q : Port) (own : List (Nat × Nat × Nat)) (partner : List BlockSum) (_dec : List (Nat × Bytes)) (_fault : Bool)
    (_rows : List SyncRec) (diff : List (BlockSum × BlockSum)) (x : BlockSum × BlockSum) (s : State), second s own partner (x :: diff) ∧ (∀ y ∈ x :: diff, y.1.read = y.1.write ∧ y.2.read = y.2.write) :=
  ⟨127, [], [⟨1, 5, 8, 8⟩], [], false, [], [], (⟨1, 5, 0, 0⟩, ⟨1, 5, 8, 8⟩), st (cm 2 id),
    ⟨⟨5, 64, by decide +kernel, by decide +kernel⟩, by decide +kernel⟩, by decide +kernel⟩

theorem witness_comparisonAndResync_6 :
  let runs (s : State) (stage a port : Nat) := s.dev.winter = false ∧ s.dev.boot.fwRuns = true ∧
    (s.dev.role = 2 ∨ s.dev.role = 4) ∧ s.dev.pair.compare = some (stage, a, port)
  let third (s : State) (port : Nat) := ∃ a w, runs s 3 a port ∧ s.dev.pair.keepWin = some w ∧ w < s.dev.windowNow
  let unlike (s : State) (decisions : List (Nat × Bytes)) (k : Kept) :=
    k ∈ s.dev.pair.kept ∧ ∃ x ∈ decisions, x.1 = k.id ∧ x.2 ≠ k.record
    ∃ (_q : Port) (_own : List (Nat × Nat × Nat)) (_partner : List BlockSum) (dec : List (Nat × Bytes)) (_fault : Bool)
    (_rows : List SyncRec) (port : Nat) (s : State), third s port ∧ (∀ k, ¬unlike s dec k) :=
  ⟨127, [], [], [(9, [4])], false, [], 64, st (cm 3 (kp [4])), ⟨5, 5, by decide +kernel, by decide +kernel,
    by decide +kernel⟩,
    fun k h => absurd h (by rw [List.mem_singleton.1 h.1]; decide +kernel)⟩

theorem witness_comparisonAndResync_7 :
  let runs (s : State) (stage a port : Nat) := s.dev.winter = false ∧ s.dev.boot.fwRuns = true ∧
    (s.dev.role = 2 ∨ s.dev.role = 4) ∧ s.dev.pair.compare = some (stage, a, port)
  let third (s : State) (port : Nat) := ∃ a w, runs s 3 a port ∧ s.dev.pair.keepWin = some w ∧ w < s.dev.windowNow
  let unlike (s : State) (decisions : List (Nat × Bytes)) (k : Kept) :=
    k ∈ s.dev.pair.kept ∧ ∃ x ∈ decisions, x.1 = k.id ∧ x.2 ≠ k.record
    ∃ (_q : Port) (_own : List (Nat × Nat × Nat)) (_partner : List BlockSum) (dec : List (Nat × Bytes)) (_fault : Bool)
    (_rows : List SyncRec) (port : Nat) (k : Kept) (s : State), third s port ∧ unlike s dec k ∧ (∀ k, unlike s dec k → s.dev.sendDecisions.resolvesAlike port k = true) :=
  ⟨127, [], [], [(9, [4])], true, [], 64, ⟨9, 64, 0, List.replicate 64 3, alike⟩, st (cm 3 (kp alike)),
    ⟨5, 5, by decide +kernel, by decide +kernel, by decide +kernel⟩, by decide +kernel,
    fun k h => by rw [List.mem_singleton.1 h.1]; decide +kernel⟩

theorem witness_comparisonAndResync_7_2 :
  let runs (s : State) (stage a port : Nat) := s.dev.winter = false ∧ s.dev.boot.fwRuns = true ∧
    (s.dev.role = 2 ∨ s.dev.role = 4) ∧ s.dev.pair.compare = some (stage, a, port)
  let third (s : State) (port : Nat) := ∃ a w, runs s 3 a port ∧ s.dev.pair.keepWin = some w ∧ w < s.dev.windowNow
  let unlike (s : State) (decisions : List (Nat × Bytes)) (k : Kept) :=
    k ∈ s.dev.pair.kept ∧ ∃ x ∈ decisions, x.1 = k.id ∧ x.2 ≠ k.record
    ∃ (_q : Port) (_own : List (Nat × Nat × Nat)) (_partner : List BlockSum) (dec : List (Nat × Bytes)) (_fault : Bool)
    (_rows : List SyncRec) (port : Nat) (k : Kept) (s : State), third s port ∧ unlike s dec k ∧ (∀ k, unlike s dec k → s.dev.sendDecisions.resolvesAlike port k = true) :=
  ⟨127, [], [], [(9, [4])], false, [], 64, ⟨9, 64, 0, List.replicate 64 3, alike⟩, st (cm 3 (kp alike)),
    ⟨5, 5, by decide +kernel, by decide +kernel, by decide +kernel⟩, by decide +kernel,
    fun k h => by rw [List.mem_singleton.1 h.1]; decide +kernel⟩

theorem witness_comparisonAndResync_8 :
  let runs (s : State) (stage a port : Nat) := s.dev.winter = false ∧ s.dev.boot.fwRuns = true ∧
    (s.dev.role = 2 ∨ s.dev.role = 4) ∧ s.dev.pair.compare = some (stage, a, port)
  let third (s : State) (port : Nat) := ∃ a w, runs s 3 a port ∧ s.dev.pair.keepWin = some w ∧ w < s.dev.windowNow
  let unlike (s : State) (decisions : List (Nat × Bytes)) (k : Kept) :=
    k ∈ s.dev.pair.kept ∧ ∃ x ∈ decisions, x.1 = k.id ∧ x.2 ≠ k.record
    ∃ (_q : Port) (_own : List (Nat × Nat × Nat)) (_partner : List BlockSum) (dec : List (Nat × Bytes)) (_fault : Bool)
    (_rows : List SyncRec) (port : Nat) (k : Kept) (s : State), third s port ∧ unlike s dec k ∧ s.dev.sendDecisions.resolvesAlike port k = false :=
  ⟨127, [], [], [(9, [4])], false, [], 64, ⟨9, 64, 0, List.replicate 64 3, [5]⟩, st (cm 3 (kp [5])),
    ⟨5, 5, by decide +kernel, by decide +kernel, by decide +kernel⟩, by decide +kernel, by decide +kernel⟩

theorem witness_comparisonAndResync_9 :
    ∃ (_q : Port) (_own : List (Nat × Nat × Nat)) (_partner : List BlockSum) (_dec : List (Nat × Bytes)) (_fault : Bool)
    (_rows : List SyncRec) (s : State), s.dev.winter = false ∧ s.dev.boot.fwRuns = true ∧ s.dev.role = 4 ∧ s.dev.pair.compare = none ∧ s.dev.b0 .PAIR_STATUS_HB_OK = true ∧ s.dev.pairLinks 0x12 ≠ [] :=
  ⟨66, [], [], [], false, [],
    st (((cm 3 fun x => { x with compare := none }).set0 .PAIR_STATUS_ROLE 4).set0 .PAIR_STATUS_HB_OK 1), by decide +kernel⟩

theorem witness_comparisonAndResync_10 :
    ∃ (_rows : List SyncRec) (x : Partner) (s : State), s.dev.role = 1 ∧ s.dev.winter = false ∧
      s.dev.b0 .PAIR_STATUS_HB_OK = true ∧ s.dev.pair.partner = some x ∧ x.active = true ∧ x.structCrc = s.dev.structCrc ∧
      s.dev.pairLinks 0x11 ≠ [] :=
  ⟨[], act1, st syncer, by decide +kernel, by decide +kernel, by decide +kernel, syncer_partner, by decide +kernel,
    syncer_crc, by decide +kernel⟩

theorem witness_comparisonAndResync_10_2 :
    ∃ (_rows : List SyncRec) (x : Partner) (s : State), s.dev.role = 1 ∧ s.dev.winter = false ∧
      s.dev.b0 .PAIR_STATUS_HB_OK = true ∧ s.dev.pair.partner = some x ∧ x.active = true ∧ x.structCrc = s.dev.structCrc ∧
      s.dev.pairLinks 0x11 ≠ [] :=
  ⟨[⟨0, 0, 5, row⟩], act1, st syncer, by decide +kernel, by decide +kernel, by decide +kernel, syncer_partner,
    by decide +kernel,
    syncer_crc, by decide +kernel⟩

theorem witness_comparisonAndResync_11 :
    ∃ (a n : Nat) (s : State), s.dev.pair.resync = some (a, n) ∧ s.dev.role = 1 ∧ s.dev.winter = false :=
  ⟨7, 9, st (pr 3 2 1 0x13 fun x => { x with resync := some (7, 9) }), by decide +kernel⟩

theorem witness_comparisonAndResync_12 :
    ∃ (p : Port) (m : PairMsg) (_row : Nat) (data : Bytes) (s : State), s.dev.hears p 10 m ∧ s.dev.fromPartner m ∧
      (s.dev.role = 2 ∨ (s.dev.role = 1 ∧ s.dev.pair.resync.isSome = true)) ∧ bitOf (leAt data 8 1) 0 = true :=
  ⟨127, pm 9 6 5, 5, row, st (pr 3 2 2 0x13 id), by simp only [Dev.hears, Dev.fromPartner]; decide +kernel⟩

end Sys2Proof.Tests.DigestWork

namespace Sys2Proof.Tests.General
open Sys2Proof Sys2Proof.Machine Sys2Proof.Tests

def env0 : WriteEnv := ⟨none, ⟨[], [], [], none⟩, []⟩
def infoReq : Msg := req 0x001 []
def withKey (d : Dev) : Dev := { d with img := { d.img with sections := [(k2 14 4, leBytes 4 77 ++ leBytes 32 12345)] } }

theorem witness_pf3WritesChangeNothing_1 :
    ∃ (_off : Fin 16777216) (form : BusForm) (_data : List (BitVec 32)) (_env : WriteEnv) (_s : State), form ≠ .burst 0 :=
  ⟨16777215, .burst 1, [5], env0, up, by decide⟩

theorem witness_stepTakesTheFront_2 :
    ∃ (s : State), s.pending = [] :=
  ⟨up, by decide +kernel⟩

theorem witness_stepKeepsCanonical_1 :
    ∃ s t : State, Canonical s.dev.flds s.dev.ctrs ∧ step s = .next t :=
  ⟨up, up.on up.dev.tick, by unfold Canonical; decide +kernel, rfl⟩

theorem witness_challengeOnlyInItsState_1 :
  let asked (k : Fin 8) (x : Msg) (purpose : Nat) (s : State) (id : Nat) := s.dev.asks k 0x010 x ∧ x.len = 1 ∧
    x.arg 0 = purpose ∧ s.dev.b0 .MBX_STATUS_CRED_HOLDOFF = false ∧ ∃ key, s.dev.credential = some (id, key)
    ∃ (k : Fin 8) (x : Msg) (id : Nat) (s : State), asked k x 1 s id ∧ s.dev.health = 3 :=
  ⟨0, req 0x010 [1], 77, st ((asking (withKey running) 0 (req 0x010 [1])).set0 .HLT_STATE_STATE 3), by
    simp only [Dev.asks]
    repeat' apply And.intro
    all_goals first | decide +kernel | exact ⟨_, rfl⟩⟩

theorem witness_challengeOnlyInItsState_2 :
  let asked (k : Fin 8) (x : Msg) (purpose : Nat) (s : State) (id : Nat) := s.dev.asks k 0x010 x ∧ x.len = 1 ∧
    x.arg 0 = purpose ∧ s.dev.b0 .MBX_STATUS_CRED_HOLDOFF = false ∧ ∃ key, s.dev.credential = some (id, key)
    ∃ (k : Fin 8) (x : Msg) (id : Nat) (s : State), asked k x 1 s id ∧ s.dev.health ≠ 3 :=
  ⟨0, req 0x010 [1], 77, st ((asking (withKey running) 0 (req 0x010 [1])).set0 .HLT_STATE_STATE 2), by
    simp only [Dev.asks]
    repeat' apply And.intro
    all_goals first | decide +kernel | exact ⟨_, rfl⟩⟩

theorem witness_challengeOnlyInItsState_3 :
  let asked (k : Fin 8) (x : Msg) (purpose : Nat) (s : State) (id : Nat) := s.dev.asks k 0x010 x ∧ x.len = 1 ∧
    x.arg 0 = purpose ∧ s.dev.b0 .MBX_STATUS_CRED_HOLDOFF = false ∧ ∃ key, s.dev.credential = some (id, key)
    ∃ (k : Fin 8) (x : Msg) (id : Nat) (s : State), asked k x 2 s id :=
  ⟨7, req 0x010 [2], 77, st ((asking (withKey running) 7 (req 0x010 [2])).set0 .HLT_STATE_STATE 3), by
    simp only [Dev.asks]
    repeat' apply And.intro
    all_goals first | decide +kernel | exact ⟨_, rfl⟩⟩

end Sys2Proof.Tests.General
end

