-- ==== Sys2Proof/Proofs/Reset.lean ====
section
/-! What reads of the state at reset return, and the obligation on the reset values (O55). -/

namespace Sys2Proof.Machine

/-! ### Reads at reset: a table that holds no entry gives its default -/

@[simp] theorem State.reset_dev : State.reset.dev = Dev.reset := rfl
@[simp] theorem Dev.fld_reset (f : Field) (i j : Nat) : Dev.reset.fld f i j = f.resetAt i j := Map.get_nil _ _
@[simp] theorem Dev.f0_reset (f : Field) : Dev.reset.f0 f = f.resetAt 0 0 := Dev.fld_reset f 0 0
@[simp] theorem Dev.f1_reset (f : Field) (i : Nat) : Dev.reset.f1 f i = f.resetAt i 0 := Dev.fld_reset f i 0
@[simp] theorem Dev.ctr_reset (c : Ctr) (i : Nat) : Dev.reset.ctr c i = 0 := Map.get_nil _ _
@[simp] theorem Dev.rxFrame_reset (id : Nat) : Dev.reset.rxFrame id = none := Map.get_nil _ _
@[simp] theorem Dev.chain_reset (id : Nat) : Dev.reset.chain id = none := Map.get_nil _ _
@[simp] theorem Dev.queue_reset (q i : Nat) : Dev.reset.queue q i = [] := Map.get_nil _ _

/-! ### Reset values of fields -/

/-- Only `LANE_TX_EFF` and five fields more reset to a value that depends on the index: any other has the one of the catalogue. -/
theorem Field.resetAt_eq_reset {f : Field} (i j : Nat) (hreg : f.reg ≠ .LANE_TX_EFF)
    (hf : f ∉ [.LANE_STATUS_SLICE, .DMA_RX_STEER_BASE, .INT_VEC_EN3, .HLT_D2D_STATUS_BUNDLES, .DMA_MSIX_TABLE]) :
    f.resetAt i j = f.reset := by
  simp only [List.mem_cons, List.not_mem_nil, or_false, not_or] at hf
  obtain ⟨hslice, hsteer, hvec, hbundles, hmsix⟩ := hf
  simp only [Field.resetAt, hreg, hslice, hsteer, hvec, hbundles, hmsix, and_false, if_false]

/-- R430: of all interrupt sources, 321 alone is enabled for PF3 at reset. -/
theorem Field.resetAt_intVecEn3 (i j : Nat) :
    Field.resetAt .INT_VEC_EN3 i j = if i = 321 then 1 else 0 := by
  have hslice : Field.INT_VEC_EN3 ≠ .LANE_STATUS_SLICE := by decide
  have hreg : Field.INT_VEC_EN3.reg ≠ .LANE_TX_EFF := by decide
  have hsteer : Field.INT_VEC_EN3 ≠ .DMA_RX_STEER_BASE := by decide
  simp only [Field.resetAt, hslice, hreg, hsteer, and_false, if_true, if_false]

/-- Settles O55: every table of the device is empty at reset (log 2), so each register, counter, frame and queue reads its
default; the pins are those of Table 3-4 (log 16). -/
theorem resetValues : Obligations.ResetValues := by
  unfold Obligations.ResetValues
  rw [State.reset_dev]
  refine ⟨?health, ?step, ?vectors, ?severity, ?guard, ?hbMiss, ?align, ?rate, ?reserve, ?window, ?role,
    Dev.ctr_reset, ?events, fun id => ⟨Dev.rxFrame_reset id, Dev.chain_reset id⟩, Dev.queue_reset, ?pending,
    ?safeN, ?leaseOut⟩
  case vectors => exact fun s _ => (Dev.f1_reset _ s).trans (Field.resetAt_intVecEn3 s 0)
  case events | pending | safeN | leaseOut => rfl
  all_goals exact (Dev.f0_reset _).trans (Field.resetAt_eq_reset 0 0 (by decide) (by decide))

end Sys2Proof.Machine
end

