-- ==== Sys2Proof/Proofs/FrameThroughBuffer.lean ====
section
/-! The obligation on the way of a frame through the buffer (O40) fails in its clause on transmission: the frame's last
reference may end the pause request of the very port that sends it, which then sends a pause frame too. -/

namespace Sys2Proof.Machine

/-! ### A frame that leaves by the port it came in on -/

/-- A frame of 64 bytes received on port 0 in traffic class 0, with one reference left. -/
def hairpinChain : Chain :=
  { bytes := List.replicate 64 0, hasFcs := true, marked := none, port := 0, region := 0, tc := 0, cells := 1, refs := 1
    lastOwner := none, crc32c := 0, cap := ⟨0, 0, 0, false⟩, parse := .empty 0, hash := 0, dflt := none }

/-- Its transmission. -/
def hairpinFrame : TxFrame := { desc := .plain 0 64 0 0, queue := 0, start := 0, fromFw := false }

/-- Reads of its cells that meet nothing, and a release without a fault. -/
def cleanRead : CellRead := { corrected := [], bad := none, corrupt := false, freeBy := none, waits := 0 }

/-- Port 0 is up in PAUSE mode and sends the frame while its pause request for class 0 stands (R119, R261). -/
def hairpinState : State :=
  let buf := { BufSt.reset with chains := [(0, some hairpinChain)], inflight := [(0, some hairpinFrame)] }
  State.reset.on ((((({ Dev.reset with buf := buf } : Dev).set1 .MAC_PORT_INFO_MODE 0 1).set1 .MAC_STATUS_LINK_UP 0 1).set1
    .MAC_CTRL_TX_PAUSE_EN 0 1).set1 .MAC_CTRL_PAUSE_MODE 0 1 |>.set1 .QUE_PORT_STATUS_PFC_XOFF 0 1)

/-- The frame's last reference frees its cell, so the request ends, and its frame of quanta 0 is the port's second. -/
theorem exec_frameTransmit_hairpinState :
    ∃ t, exec (.frameTransmit 0 0 cleanRead []) hairpinState = .next t ∧ t.dev.ctr .MAC_TX_FRAMES 0 = 2 :=
  ⟨_, rfl, by decide +kernel⟩

/-- Refutes O40: where the frame sent came in on the same port and its release ends that port's pause request (R261), the
pause frame of R119 counts in TX_FRAMES beside it, which then has counted two frames and not one. -/
theorem not_frameThroughBuffer : ¬ Obligations.FrameThroughBuffer := by
  unfold Obligations.FrameThroughBuffer
  rintro ⟨-, -, -, -, htransmit, -, -⟩
  obtain ⟨t, ht, -, -, -, hone, -⟩ := htransmit 0 0 cleanRead [] hairpinFrame hairpinChain hairpinState
    (by decide) (by decide) (by decide) (by decide) rfl rfl rfl rfl rfl rfl (by decide) rfl rfl rfl
    (by decide +kernel) (by decide) (by decide)
  obtain ⟨u, hu, htwo⟩ := exec_frameTransmit_hairpinState
  obtain rfl : t = u := Host.Outcome.next.inj (ht.symm.trans hu)
  exact absurd (htwo.symm.trans hone) (by decide)

end Sys2Proof.Machine
end

