-- ==== Sys2Proof/Proofs/Keeps.lean ====
section
/-! What an operation leaves alone, as a relation between the device before and after it; and the operations that leave the
dies, the link wires, the hold store, the time base and the pins alone: reports, references and the firmware's messages. -/

namespace Sys2Proof.Machine

/-! ### The relation -/

/-- Device `e` is device `d` as far as `view` sees it and in every field but those of `ids`. -/
structure Dev.Keeps {α : Type} (ids : List Nat) (view : Dev → α) (d e : Dev) : Prop where
  view : view e = view d
  fld : ∀ (f : Field) (i j : Nat), f.id ∉ ids → e.fld f i j = d.fld f i j

namespace Dev.Keeps

variable {α β : Type} {ids ids' : List Nat} {view : Dev → α} {d e g : Dev}

theorem refl (d : Dev) : d.Keeps ids view d := ⟨rfl, fun _ _ _ _ => rfl⟩

theorem trans (h : d.Keeps ids view e) (k : e.Keeps ids view g) : d.Keeps ids view g :=
  ⟨k.view.trans h.view, fun f i j hf => (k.fld f i j hf).trans (h.fld f i j hf)⟩

/-- A wider list of fields and a view of what is seen already. -/
theorem mono (h : d.Keeps ids view e) (hids : ids ⊆ ids') (see : α → β) : d.Keeps ids' (see ∘ view) e :=
  ⟨congrArg see h.view, fun f i j hf => h.fld f i j (fun hm => hf (hids hm))⟩

theorem ite {c : Prop} [Decidable c] (h : d.Keeps ids view e) (k : d.Keeps ids view g) :
    d.Keeps ids view (if c then e else g) := by
  split
  · exact h
  · exact k

theorem foldl {τ : Type} {f : Dev → τ → Dev} (h : ∀ (e : Dev) x, e.Keeps ids view (f e x)) (l : List τ) (d : Dev) :
    d.Keeps ids view (l.foldl f d) := by
  induction l generalizing d with
  | nil => exact refl d
  | cons x l ih => exact (h d x).trans (ih _)

/-- A fold that carries more than the device. -/
theorem foldl_fst {σ τ : Type} {f : Dev × σ → τ → Dev × σ} (h : ∀ (a : Dev × σ) x, a.1.Keeps ids view (f a x).1) (l : List τ)
    (a : Dev × σ) : a.1.Keeps ids view (l.foldl f a).1 := by
  induction l generalizing a with
  | nil => exact refl a.1
  | cons x l ih => exact (h a x).trans (ih _)

theorem f0 (h : d.Keeps ids view e) {f : Field} (hf : f.id ∉ ids) : e.f0 f = d.f0 f := h.fld f 0 0 hf
theorem f1 (h : d.Keeps ids view e) {f : Field} {i : Nat} (hf : f.id ∉ ids) : e.f1 f i = d.f1 f i := h.fld f i 0 hf
theorem b0 (h : d.Keeps ids view e) {f : Field} (hf : f.id ∉ ids) : e.b0 f = d.b0 f := by
  rw [Dev.b0, Dev.b0, h.fld f 0 0 hf]

end Dev.Keeps

/-! ### Quiet operations -/

/-- The fields of quiet operations: those of reports, the pause requests (R261) and the queue of messages for the host (R468). -/
def quietFields : List Nat :=
  reportFields ++ [Field.QUE_PORT_STATUS_PFC_XOFF.id, Field.MBX_F2H_STATUS_QUEUED.id, Field.MBX_F2H_STATUS_LOST_COUNT.id]

/-- What quiet operations leave alone. -/
def Dev.quietView (d : Dev) : Map WireSt × Map FlitDir × HldSt × TimSt × Pins := (d.wires, d.flits, d.hld, d.tim, d.pins)

/-- A quiet operation leads from one device to the other. -/
abbrev Dev.Quiet (d e : Dev) : Prop := d.Keeps quietFields Dev.quietView e

section
variable {d : Dev}

theorem Dev.Reports.quiet {e : Dev} (h : d.Reports e) : d.Quiet e where
  view := by simp only [Dev.quietView, h.wires, h.flits, h.hld, h.tim, h.pins]
  fld f i j hf := h.fld f i j (fun hm => hf (List.mem_append_left _ hm))

theorem Dev.quiet_setFld {f : Field} {i j v : Nat} (hf : f.id ∈ quietFields) : d.Quiet (d.setFld f i j v) :=
  ⟨rfl, fun g a b hg => Dev.fld_setFld_id d f g i j a b v (fun e => hg (e ▸ hf))⟩

theorem Dev.quiet_count {c : Ctr} {i : Nat} : d.Quiet (d.count c i) := (Dev.reports_count d c i).quiet

theorem Dev.quiet_raise {s : Nat} : d.Quiet (d.raise s) := (Dev.reports_raise d s).quiet

theorem Dev.quiet_record {c : EvCode} {k i : Nat} {p : Bytes} : d.Quiet (d.record c k i p) := (Dev.reports_record d c k i p).quiet

theorem Dev.quiet_emit {o : Output} : d.Quiet (d.emit o) := (Dev.reports_emit d o).quiet

theorem Dev.quiet_doorbell {b : Nat} : d.Quiet (d.doorbell b) := (Dev.reports_doorbell d b).quiet

/-! #### Frames that a port sends, and the references to their cells -/

theorem Dev.quiet_setMac {p : Nat} {m : MacSt} : d.Quiet (d.setMac p m) := ⟨rfl, fun _ _ _ _ => rfl⟩

theorem Dev.quiet_setChain {id : Nat} {c : Option Chain} : d.Quiet (d.setChain id c) := ⟨rfl, fun _ _ _ _ => rfl⟩

theorem Dev.quiet_setMacq {p m : Nat} {f : Option TxFrame} : d.Quiet (d.setMacq p m f) := ⟨rfl, fun _ _ _ _ => rfl⟩

theorem Dev.quiet_setInflight {p : Nat} {f : Option TxFrame} : d.Quiet (d.setInflight p f) := ⟨rfl, fun _ _ _ _ => rfl⟩

theorem Dev.quiet_macCountN {c : Ctr} {p n : Nat} : d.Quiet (d.macCountN c p n) := by
  have counted : d.Quiet (d.countN c p n) := (Dev.reports_setCtr d c p _).quiet
  exact .ite (.refl d) (.ite (counted.trans Dev.quiet_raise) counted)

theorem Dev.quiet_macCount {c : Ctr} {p : Nat} : d.Quiet (d.macCount c p) := Dev.quiet_macCountN

theorem Dev.quiet_pmc {x : PmcSt} : d.Quiet { d with pmc := x } := ⟨rfl, fun _ _ _ _ => rfl⟩

theorem Dev.quiet_noteSent {p len kind : Nat} : d.Quiet (d.noteSent p len kind) := by
  unfold Dev.noteSent
  exact (((((Dev.quiet_macCountN.trans Dev.quiet_macCount).trans Dev.quiet_macCount).trans Dev.quiet_macCount).trans
    Dev.quiet_pmc).trans Dev.quiet_setMac)

theorem Dev.quiet_sendPause {p c quanta : Nat} : d.Quiet (d.sendPause p c quanta) :=
  .ite (.refl d) (.ite
    ((Dev.quiet_noteSent.trans Dev.quiet_emit).trans (.foldl (fun _ _ => .ite Dev.quiet_macCount (.refl _)) _ _))
    (.ite ((Dev.quiet_noteSent.trans Dev.quiet_emit).trans Dev.quiet_macCount) (.refl d)))

theorem Dev.quiet_checkXon {p c : Nat} : d.Quiet (d.checkXon p c) :=
  .ite (((Dev.quiet_setFld (by decide)).trans Dev.quiet_setMac).trans Dev.quiet_sendPause) (.refl d)

theorem Dev.quiet_freeRequest {id by_ : Nat} : d.Quiet (d.freeRequest id by_) := by
  unfold Dev.freeRequest
  split
  · exact .refl d
  · exact .ite (Dev.quiet_setChain.trans Dev.quiet_checkXon) (Dev.quiet_count.trans Dev.quiet_record)

theorem Dev.quiet_dropRef {id port : Nat} : d.Quiet (d.dropRef id port) := by
  unfold Dev.dropRef
  split
  · exact .refl d
  · exact .ite Dev.quiet_setChain Dev.quiet_setChain

theorem Dev.quiet_release {id port : Nat} : d.Quiet (d.release id port) :=
  .ite (Dev.quiet_dropRef.trans Dev.quiet_freeRequest) Dev.quiet_dropRef

theorem Dev.quiet_startWake {p : Nat} : d.Quiet (d.startWake p) := .ite Dev.quiet_setMac (.refl d)

theorem Dev.quiet_startFrom {p fuel : Nat} : d.Quiet (Dev.startFrom p fuel d) := by
  induction fuel generalizing d with
  | zero => exact .refl d
  | succ n ih =>
    refine .ite (.refl d) ?_
    split
    · exact .refl d
    · split
      · exact .ite (((Dev.quiet_setMacq.trans Dev.quiet_macCount).trans Dev.quiet_release).trans ih)
          (Dev.quiet_setMacq.trans Dev.quiet_setInflight)
      · exact Dev.quiet_setMac
      · exact .refl d

theorem Dev.quiet_startNext {p : Nat} : d.Quiet (d.startNext p) := Dev.quiet_startFrom

theorem Dev.quiet_sendMsg {p proto type len : Nat} {fields : List Nat} : d.Quiet (d.sendMsg p proto type len fields) := by
  unfold Dev.sendMsg
  exact .ite ((Dev.quiet_setMac.trans Dev.quiet_startWake).trans Dev.quiet_startNext) (.refl d)

/-! #### Messages for the host and the fabric -/

theorem Dev.quiet_mbx {x : MbxSt} : d.Quiet { d with mbx := x } := ⟨rfl, fun _ _ _ _ => rfl⟩

theorem Dev.quiet_setAdj {p : Nat} {a : AdjSt} : d.Quiet (d.setAdj p a) := ⟨rfl, fun _ _ _ _ => rfl⟩

theorem Dev.quiet_noteLost {m dir seq : Nat} : d.Quiet (d.noteLost m dir seq) := by
  unfold Dev.noteLost
  exact Dev.quiet_mbx.trans Dev.quiet_doorbell

theorem Dev.quiet_f2hPost {m : Nat} {msg : Msg} : d.Quiet (d.f2hPost m msg) := by
  have lost : d.Quiet (d.satInc .MBX_F2H_STATUS_LOST_COUNT m 0 1) := Dev.quiet_setFld (by decide)
  unfold Dev.f2hPost
  exact .ite (Dev.quiet_mbx.trans (Dev.quiet_setFld (by decide))) ((lost.trans Dev.quiet_count).trans Dev.quiet_noteLost)

theorem Dev.quiet_notice {opcode : Nat} {payload : List Nat} : d.Quiet (d.notice opcode payload) := by
  unfold Dev.notice
  exact Dev.quiet_mbx.trans Dev.quiet_f2hPost

theorem Dev.quiet_fabControl {p type len : Nat} {fields : List Nat} : d.Quiet (d.fabControl p type len fields) := by
  unfold Dev.fabControl
  exact Dev.quiet_setAdj.trans Dev.quiet_sendMsg

theorem Dev.quiet_floodNotice {code : Nat} : d.Quiet (d.floodNotice code) :=
  .foldl (fun _ _ => .ite Dev.quiet_fabControl (.refl _)) _ _

end

end Sys2Proof.Machine
end

