-- ==== Sys2Proof/Proofs/Steady.lean ====
section
/-! What stands when ports go down, turns are abandoned and the device quiesces (R27, R103, R138, R400): the FRC, REPLACE_N
and every field that these do not name. -/

namespace Sys2Proof.Machine

/-- The fields that a port or a region leaving service writes, a quiescing device or an image that is given up. -/
def steadyFields : List Nat :=
  quietFields ++ [Field.MAC_STATUS_LINK_UP.id, Field.MAC_STATUS_PAUSED.id, Field.MAC_STATUS_TX_LPI.id, Field.MAC_STATUS_AN_DONE.id,
    Field.MAC_STATUS_FLAP_ISOLATED.id, Field.FAB_ADJ_STATE.id, Field.FAB_ADJ_VERSION.id, Field.FAB_ADJ_NEIGH_DEV.id,
    Field.FAB_ADJ_NEIGH_PORT.id, Field.FAB_STATUS_FULL_ADJ.id, Field.LANE_STATUS_TAPPED.id, Field.SHADOW_STATUS_PHASE.id,
    Field.SHADOW_STATUS_RETRY.id, Field.LANE_ABANDONED.id, Field.PAIR_STATUS_LEASE_OUT.id, Field.PAIR_STATUS_ROLE.id,
    Field.BUF_STATUS_FROZEN.id, Field.HLD_STATUS_FROZEN.id, Field.HLD_DIE_STATUS_STATE.id,
    Field.HLD_RETRAIN_STATUS_ACTIVE.id, Field.IMG_STATUS_BUSY.id, Field.IMG_STATUS_DONE_OK.id, Field.IMG_STATUS_REASON.id,
    Field.IMG_STATUS_SECTION.id, Field.IMG_SLOT_STATE_STATES.id, Field.HLT_REGION_DISCARD.id]

/-- Whether the FRC has stopped, and REPLACE_N. -/
def Dev.steadyView (d : Dev) : Bool × Bool := (d.tim.stopped, d.pins.replaceN)

abbrev Dev.Steady (d e : Dev) : Prop := d.Keeps steadyFields Dev.steadyView e

section
variable {d : Dev}

theorem Dev.Keeps.steady {e : Dev} (h : d.Quiet e) : d.Steady e :=
  h.mono (List.subset_append_left _ _) (fun x => (x.2.2.2.1.stopped, x.2.2.2.2.replaceN))

theorem Dev.Keeps.stopped {e : Dev} (h : d.Steady e) : e.tim.stopped = d.tim.stopped := congrArg Prod.fst h.view

theorem Dev.Keeps.replaceN {e : Dev} (h : d.Steady e) : e.pins.replaceN = d.pins.replaceN := congrArg Prod.snd h.view

theorem Dev.Reports.steady {e : Dev} (h : d.Reports e) : d.Steady e := h.quiet.steady

theorem Dev.steady_setFld {f : Field} {i j v : Nat} (hf : f.id ∈ steadyFields) : d.Steady (d.setFld f i j v) :=
  ⟨rfl, fun g a b hg => Dev.fld_setFld_id d f g i j a b v (fun e => hg (e ▸ hf))⟩

theorem Dev.steady_setCtr {c : Ctr} {i v : Nat} : d.Steady (d.setCtr c i v) := (Dev.reports_setCtr d c i v).steady

theorem Dev.steady_record {c : EvCode} {k i : Nat} {p : Bytes} : d.Steady (d.record c k i p) := (Dev.reports_record d c k i p).steady

theorem Dev.steady_recordLimited {c : EvCode} {t n k i : Nat} {p : Bytes} : d.Steady (d.recordLimited c t n k i p) :=
  (Dev.reports_recordLimited d c t n k i p).steady

theorem Dev.steady_recordCounted {c : EvCode} {t n k i : Nat} {fs : Nat → List (Nat × Nat)} :
    d.Steady (d.recordCounted c t n k i fs) := (Dev.reports_recordCounted d c t n k i fs).steady

theorem Dev.steady_perf {m ev q v : Nat} : d.Steady (d.perf m ev q v) := (Dev.reports_perf d m ev q v).steady

theorem Dev.steady_release {id port : Nat} : d.Steady (d.release id port) := Dev.quiet_release.steady

theorem Dev.steady_setMac {p : Nat} {m : MacSt} : d.Steady (d.setMac p m) := Dev.quiet_setMac.steady

/-! ### Tables of the buffer and the hold store -/

theorem Dev.steady_buf {b : BufSt} : d.Steady { d with buf := b } := ⟨rfl, fun _ _ _ _ => rfl⟩

theorem Dev.steady_fab {x : FabSt} : d.Steady { d with fab := x } := ⟨rfl, fun _ _ _ _ => rfl⟩

theorem Dev.steady_img {x : ImgSt} : d.Steady { d with img := x } := ⟨rfl, fun _ _ _ _ => rfl⟩

theorem Dev.steady_hld {x : HldSt} : d.Steady { d with hld := x } := ⟨rfl, fun _ _ _ _ => rfl⟩

theorem Dev.steady_setQueue {q i : Nat} {l : List Desc} : d.Steady (d.setQueue q i l) := Dev.steady_buf

theorem Dev.steady_setDeficit {p t v : Nat} : d.Steady (d.setDeficit p t v) := Dev.steady_buf

theorem Dev.steady_setInflight {p : Nat} {f : Option TxFrame} : d.Steady (d.setInflight p f) := Dev.steady_buf

theorem Dev.steady_setMacq {p m : Nat} {f : Option TxFrame} : d.Steady (d.setMacq p m f) := Dev.steady_buf

theorem Dev.steady_setRx {id : Nat} {r : Option Rx} : d.Steady (d.setRx id r) := Dev.steady_buf

theorem Dev.steady_putBack {q i : Nat} {de : Desc} : d.Steady (d.putBack q i de) := Dev.steady_setQueue

/-! ### Frames that pass to the hold writer (R273, R297) -/

theorem Dev.steady_enqueue {q i : Nat} {de : Desc} : d.Steady (d.enqueue q i de) := by
  have linked : d.Steady ((((({ d with buf := { d.buf with links := d.buf.links + 1 } } : Dev).setQueue q i
      (d.queue q i ++ [{ de with no := d.buf.links }])).count .QUE_ENQ_FRAMES (q * 10 + i)).perf 4 0x204 0xFF 1)) :=
    ((Dev.steady_buf.trans Dev.steady_setQueue).trans Dev.steady_setCtr).trans Dev.steady_perf
  exact .ite (linked.trans Dev.quiet_startWake.steady) linked

theorem Dev.steady_refuse {q i : Nat} {de : Desc} : d.Steady (d.refuse q i de) :=
  (Dev.steady_setCtr.trans Dev.steady_perf).trans Dev.steady_release

theorem Dev.steady_checkXoff {p c : Nat} : d.Steady (d.checkXoff p c) := by
  unfold Dev.checkXoff
  exact .ite (((Dev.Keeps.trans (Dev.steady_setFld (by decide)) Dev.steady_setCtr).trans Dev.steady_setMac).trans
    Dev.quiet_sendPause.steady) (.refl d)

theorem Dev.steady_draw : d.Steady d.draw.2 := ⟨rfl, fun _ _ _ _ => rfl⟩

theorem Dev.steady_ecnMark {q i : Nat} {de : Desc} : d.Steady (d.ecnMark q i de).1 := by
  unfold Dev.ecnMark
  dsimp only
  split
  · exact .refl d
  · split
    · exact Dev.steady_setCtr
    · split
      · exact Dev.steady_draw.trans Dev.steady_setCtr
      · exact Dev.steady_draw

theorem Dev.steady_join {q i ing : Nat} {de : Desc} : d.Steady (d.join q i ing de).1 := by
  have copied : d.Steady (if de.copy then d.count .QUE_MC_EGRESS_DROP q else d) := .ite Dev.steady_setCtr (.refl d)
  unfold Dev.join
  dsimp only
  split
  · exact ((copied.trans Dev.steady_setCtr).trans Dev.steady_recordCounted).trans Dev.steady_refuse
  · split
    · exact (Dev.steady_ecnMark.trans Dev.steady_enqueue).trans Dev.steady_checkXoff
    · exact (copied.trans Dev.steady_setCtr).trans Dev.steady_refuse
  · exact (copied.trans Dev.steady_setCtr).trans Dev.steady_refuse

theorem Dev.steady_passToHold {h ing : Nat} {de : Desc} {head : Bool} : d.Steady (d.passToHold h ing de head).1 := by
  unfold Dev.passToHold
  dsimp only
  split
  · exact Dev.steady_join.trans Dev.steady_hld
  · exact Dev.steady_join

theorem Dev.steady_emptied {q i : Nat} : d.Steady (d.emptied q i) := .ite Dev.steady_setDeficit (.refl d)

theorem Dev.steady_flushQueue {q i : Nat} : d.Steady (d.flushQueue q i) := by
  have gone : d.Steady (((d.setQueue q i []).countN .QUE_FLUSHED (q * 10 + i) (d.queue q i).length).emptied q i) :=
    (Dev.steady_setQueue.trans Dev.steady_setCtr).trans Dev.steady_emptied
  exact (Dev.Keeps.ite (gone.trans Dev.steady_setCtr) gone).trans (.foldl (fun _ _ => Dev.steady_release) _ _)

theorem Dev.steady_queueToHold {q i : Nat} : d.Steady (d.queueToHold q i).1 := by
  unfold Dev.queueToHold
  refine (Dev.steady_setQueue.trans Dev.steady_emptied).trans (Dev.Keeps.foldl_fst (fun a de => ?_) _ (_, 0, 0))
  split
  · exact Dev.steady_setCtr.trans Dev.steady_passToHold
  · exact Dev.steady_setCtr.trans Dev.steady_release

theorem Dev.steady_emptyPort {p : Nat} : d.Steady (d.emptyPort p).1 := by
  unfold Dev.emptyPort
  refine ((Dev.steady_buf.trans (Dev.Keeps.foldl_fst (fun a t => ?_) _ (_, 0, 0))).trans Dev.steady_flushQueue).trans
    Dev.steady_flushQueue
  split
  · exact Dev.steady_flushQueue
  · exact .ite (Dev.steady_queueToHold.trans Dev.steady_setCtr) Dev.steady_queueToHold

theorem Dev.steady_expirePort {p : Nat} : d.Steady (d.expirePort p) :=
  (Dev.steady_emptyPort.trans Dev.steady_setCtr).trans Dev.steady_record

/-! ### A port without its link (R103 to R105, R271) -/

theorem Dev.steady_cutFrame {p : Nat} : d.Steady (d.cutFrame p).1 := by
  unfold Dev.cutFrame
  split
  · dsimp only
    split
    · exact .refl d
    · exact (Dev.quiet_pmc.trans (Dev.quiet_setMac.trans Dev.quiet_macCount)).steady
  · exact (Dev.quiet_pmc.trans ((Dev.quiet_setInflight.trans Dev.quiet_macCount).trans Dev.quiet_emit)).steady

theorem Dev.steady_returnMacq {p : Nat} : d.Steady (d.returnMacq p) := by
  refine .foldl (fun e m => ?_) _ _
  split
  · exact .refl e
  · exact Dev.steady_setMacq.trans Dev.steady_putBack

theorem Dev.steady_stopSending {p : Nat} : d.Steady (d.stopSending p) := by
  refine Dev.Keeps.trans (Dev.Keeps.trans ?_ Dev.steady_returnMacq) Dev.steady_setMac
  split
  · exact Dev.steady_cutFrame
  · exact .ite (Dev.steady_cutFrame.trans Dev.steady_putBack) (Dev.steady_cutFrame.trans Dev.steady_release)

theorem Dev.steady_portDown {p hold : Nat} {up : Bool} : d.Steady (d.portDown p hold up) := by
  unfold Dev.portDown
  exact .ite (Dev.steady_stopSending.trans Dev.steady_buf) (.ite Dev.steady_stopSending
    (.ite (Dev.steady_stopSending.trans Dev.steady_expirePort) (Dev.steady_stopSending.trans Dev.steady_emptyPort)))

theorem Dev.steady_adjGo {p st cause : Nat} : d.Steady (d.adjGo p st cause) := by
  have moved : d.Steady (d.set1 .FAB_ADJ_STATE p st) := Dev.steady_setFld (by decide)
  have noted {e : Dev} : e.Steady (e.set1 .FAB_ADJ_VERSION p 0) := Dev.steady_setFld (by decide)
  have full {e : Dev} {n : Nat} : e.Steady (e.set0 .FAB_STATUS_FULL_ADJ n) := Dev.steady_setFld (by decide)
  have told {c : EvCode} {l : Bytes} {x : FabSt} :
      d.Steady { (d.set1 .FAB_ADJ_STATE p st).record c 1 p l with fab := x } :=
    (moved.trans Dev.steady_record).trans Dev.steady_fab
  unfold Dev.adjGo
  refine Dev.Keeps.trans (Dev.Keeps.trans ?_ full) Dev.quiet_raise.steady
  split
  · exact .ite told (.ite told moved)
  · exact Dev.Keeps.trans (.ite told (.ite told moved)) noted

theorem Dev.steady_adjDown {p cause : Nat} : d.Steady (d.adjDown p cause) := by
  have port {e : Dev} : e.Steady ((e.set1 .FAB_ADJ_NEIGH_DEV p 0).set1 .FAB_ADJ_NEIGH_PORT p 0) :=
    Dev.Keeps.trans (Dev.steady_setFld (by decide)) (Dev.steady_setFld (by decide))
  exact .ite (.refl d) ((Dev.steady_adjGo.trans Dev.quiet_setAdj.steady).trans port)

theorem Dev.steady_detach {c : Nat} : d.Steady (d.detach c) := by
  have tap : d.Steady (d.set1 .LANE_STATUS_TAPPED (d.turnLane c) 0) := Dev.steady_setFld (by decide)
  unfold Dev.detach
  exact (tap.trans (Dev.steady_setFld (by decide))).trans (Dev.steady_setFld (by decide))

theorem Dev.steady_abandonTurn {c reason : Nat} : d.Steady (d.abandonTurn c reason) := by
  unfold Dev.abandonTurn
  exact .ite ((Dev.steady_detach.trans (Dev.steady_setFld (by decide))).trans Dev.steady_recordLimited) (.refl d)

theorem Dev.steady_abandonPortTurn {p reason : Nat} : d.Steady (d.abandonPortTurn p reason) :=
  .ite Dev.steady_abandonTurn (.refl d)

theorem Dev.steady_flapCheck {p : Nat} : d.Steady (d.flapCheck p) := by
  have an {e : Dev} : e.Steady (e.dropAn p) := Dev.steady_setFld (by decide)
  have held {e : Dev} : e.Steady (e.set1 .MAC_STATUS_FLAP_ISOLATED p 1) := Dev.steady_setFld (by decide)
  unfold Dev.flapCheck
  exact .ite (((Dev.steady_setMac.trans an).trans held).trans Dev.steady_recordLimited) (.refl d)

theorem Dev.steady_linkDown {p hold : Nat} {cause : DownCause} : d.Steady (d.linkDown p cause hold) := by
  have dark : d.Steady (d.set1 .MAC_STATUS_LINK_UP p 0) := Dev.steady_setFld (by decide)
  have still {e : Dev} : e.Steady ((e.set1 .MAC_STATUS_PAUSED p 0).set1 .MAC_STATUS_TX_LPI p 0) :=
    Dev.Keeps.trans (Dev.steady_setFld (by decide)) (Dev.steady_setFld (by decide))
  have down {m : MacSt} : d.Steady (((((d.set1 .MAC_STATUS_LINK_UP p 0).macCount .MAC_LINK_DOWN p).set1 .MAC_STATUS_PAUSED p
      0).set1 .MAC_STATUS_TX_LPI p 0).setMac p m) :=
    ((dark.trans Dev.quiet_macCount.steady).trans still).trans Dev.steady_setMac
  have pair {e : Dev} {x : PairSt} : e.Steady { e with pair := x } := ⟨rfl, fun _ _ _ _ => rfl⟩
  unfold Dev.linkDown
  exact .ite ((((((((Dev.Keeps.ite down (down.trans Dev.steady_portDown)).trans Dev.steady_adjDown).trans
    Dev.quiet_setAdj.steady).trans pair).trans Dev.steady_abandonPortTurn).trans Dev.steady_record).trans
    Dev.quiet_raise.steady).trans Dev.steady_flapCheck) (.refl d)

theorem Dev.steady_dropRecirc {n : Nat} : d.Steady (d.dropRecirc n) := by
  have flushed : d.Steady ((List.range 8).foldl (fun d t => d.flushQueue (128 + n) t) d) :=
    .foldl (fun _ _ => Dev.steady_flushQueue) _ _
  unfold Dev.dropRecirc
  dsimp only
  split
  · exact flushed
  · exact ((flushed.trans Dev.steady_setInflight).trans Dev.steady_setCtr).trans Dev.steady_release

end

end Sys2Proof.Machine
end

