-- ==== Sys2Proof/Proofs/Health.lean ====
section
/-! AUTUMN and WINTER (R397, R400, R401): what a cause of either sets, and what it leaves alone. -/

namespace Sys2Proof.Machine

section
variable {d : Dev}

/-! ### The new health state -/

/-- A new health state writes HLT_STATE; the rest of it is messages and an interrupt. -/
theorem Dev.quiet_setHealth {st code : Nat} :
    (((d.set0 .HLT_STATE_PREV d.health).set0 .HLT_STATE_STATE st).set0 .HLT_STATE_SECS (d.opMs / 1000)).Quiet
      (d.setHealth st code) :=
  (Dev.quiet_doorbell.trans Dev.quiet_notice).trans Dev.quiet_raise

theorem Dev.setHealth_quietView {st code : Nat} : (d.setHealth st code).quietView = d.quietView := Dev.quiet_setHealth.view

theorem Dev.setHealth_tim {st code : Nat} : (d.setHealth st code).tim = d.tim :=
  congrArg (fun x => x.2.2.2.1) (Dev.setHealth_quietView (d := d) (st := st) (code := code))

/-- The fields of HLT_STATE. -/
def healthFields : List Nat := [Field.HLT_STATE_PREV.id, Field.HLT_STATE_STATE.id, Field.HLT_STATE_SECS.id]

theorem Dev.setHealth_fld {st code : Nat} {g : Field} {i j : Nat} (hg : g.id ∉ healthFields ++ quietFields) :
    (d.setHealth st code).fld g i j = d.fld g i j := by
  simp only [healthFields, List.mem_append, List.mem_cons, List.not_mem_nil, or_false, not_or] at hg
  obtain ⟨⟨hprev, hstate, hsecs⟩, hquiet⟩ := hg
  rw [Dev.quiet_setHealth.fld g i j hquiet, Dev.set0, Dev.fld_setFld_id _ _ _ _ _ _ _ _ hsecs, Dev.set0,
    Dev.fld_setFld_id _ _ _ _ _ _ _ _ hstate, Dev.set0, Dev.fld_setFld_id _ _ _ _ _ _ _ _ hprev]

theorem Dev.health_setHealth {st code : Nat} (hst : st < 4) : (d.setHealth st code).health = st := by
  have secs : Field.HLT_STATE_STATE.id ≠ Field.HLT_STATE_SECS.id := by decide
  have width : Field.HLT_STATE_STATE.width = 2 := by decide
  rw [Dev.health, Dev.quiet_setHealth.f0 (by decide), Dev.f0, Dev.set0, Dev.fld_setFld_id _ _ _ _ _ _ _ _ secs, Dev.set0,
    Dev.fld_setFld_same, width]
  exact Nat.mod_eq_of_lt hst

/-! ### AUTUMN (R397) -/

/-- The fields of a cause of AUTUMN. -/
def autumnFields : List Nat :=
  healthFields ++ quietFields ++ [Field.HLT_AUTUMN_CAUSE_SPARE.id, Field.HLT_AUTUMN_CAUSE_REGION.id,
    Field.HLT_AUTUMN_CAUSE_HOLD.id]

/-- The link wires, the flits and the hold store. -/
def Dev.autumnView (d : Dev) : Map WireSt × Map FlitDir × HldSt := (d.wires, d.flits, d.hld)

/-- At most a cause of AUTUMN leads from one device to the other. -/
abbrev Dev.Autumnal (d e : Dev) : Prop := d.Keeps autumnFields Dev.autumnView e

theorem Dev.Keeps.autumnal {e : Dev} (h : d.Quiet e) : d.Autumnal e :=
  h.mono (fun _ hm => List.mem_append_left _ (List.mem_append_right _ hm)) (fun x => (x.1, x.2.1, x.2.2.1))

theorem Dev.autumnal_setHealth {st code : Nat} : d.Autumnal (d.setHealth st code) where
  view := congrArg (fun x => (x.1, x.2.1, x.2.2.1)) Dev.setHealth_quietView
  fld _ _ _ hg := Dev.setHealth_fld (fun hm => hg (List.mem_append_left _ hm))

theorem Dev.autumnal_enterAutumn {code : Nat} : d.Autumnal (d.enterAutumn code) := by
  have told {x : Pins} {y : FabSt} : d.Autumnal { d with pins := x, fab := y } := ⟨rfl, fun _ _ _ _ => rfl⟩
  exact ((told.trans Dev.autumnal_setHealth).trans Dev.quiet_record.autumnal).trans Dev.quiet_floodNotice.autumnal

theorem Dev.autumnal_autumn {f : Field} {code : EvCode} (hf : f.id ∈ autumnFields) : d.Autumnal (d.autumn f code) := by
  have pins {e : Dev} {x : Pins} : e.Autumnal { e with pins := x } := ⟨rfl, fun _ _ _ _ => rfl⟩
  have caused : d.Autumnal { (d.set0 f 1) with hlt := { d.hlt with lastCode := code.code } } :=
    ⟨rfl, fun g i j hg => Dev.fld_setFld_id d f g 0 0 i j 1 (fun e => hg (e ▸ hf))⟩
  exact .ite (caused.trans Dev.autumnal_enterAutumn) (.ite (caused.trans pins) caused)

/-! ### A die's open fault (R13) -/

/-- The bit of a die that is set stays, another's is set; the bits of HLT_SUM_DIE reach as far as the dies. -/
theorem bitOf_putBit_mod {v i w : Nat} (hi : i < w) : bitOf (putBit v i true % 2 ^ w) i = true := by
  have bit {n : Nat} : bitOf n i = n.testBit i := by
    rw [bitOf, Nat.testBit_eq_decide_div_mod_eq]
  rw [bit, Nat.testBit_mod_two_pow, decide_eq_true hi, Bool.true_and]
  unfold putBit
  rw [bit]
  split
  · assumption
  · rw [if_pos rfl, Nat.add_comm, Nat.testBit_two_pow_add_eq]
    exact Bool.not_eq_true' _ ▸ Bool.eq_false_iff.2 ‹¬v.testBit i = true›

theorem Dev.dieFault_bit {die : Nat} (hdie : die < Field.HLT_SUM_DIE_DIES.width) :
    bitOf ((d.dieFault die).f0 .HLT_SUM_DIE_DIES) die = true := by
  unfold Dev.dieFault
  split
  · assumption
  · rw [Dev.quiet_raise.f0 (by decide), Dev.f0, Dev.setBit, Dev.fld_setFld_same]
    exact bitOf_putBit_mod hdie

theorem Dev.keeps_dieFault {die : Nat} :
    d.Keeps (Field.HLT_SUM_DIE_DIES.id :: quietFields) Dev.quietView (d.dieFault die) := by
  have set : d.Keeps (Field.HLT_SUM_DIE_DIES.id :: quietFields) Dev.quietView (d.setBit .HLT_SUM_DIE_DIES 0 die true) :=
    ⟨rfl, fun g i j hg => Dev.fld_setFld_id d _ g _ _ i j _ (fun e => hg (e ▸ List.mem_cons_self))⟩
  exact .ite (.refl d) (set.trans (Dev.quiet_raise.mono (List.subset_cons_self _ _) id))

/-! ### The device quiesces (R400) -/

theorem Dev.steady_safeTx : d.Steady d.safeTx := by
  refine .foldl (fun e p => ?_) _ _
  refine Dev.Keeps.trans ?_ Dev.steady_setMac
  split
  · exact Dev.steady_cutFrame.trans Dev.steady_putBack
  · exact Dev.steady_cutFrame

theorem Dev.steady_leaseStop : d.Steady d.leaseStop := by
  have stopped {x : PairSt} : d.Steady { d with pair := x, pins := { d.pins with leaseOut := false } } :=
    ⟨rfl, fun _ _ _ _ => rfl⟩
  have out {e : Dev} : e.Steady (e.set0 .PAIR_STATUS_LEASE_OUT 0) := Dev.steady_setFld (by decide)
  have role {e : Dev} : e.Steady (e.set0 .PAIR_STATUS_ROLE 2) := Dev.steady_setFld (by decide)
  unfold Dev.leaseStop
  exact .ite (((stopped.trans out).trans role).trans Dev.quiet_doorbell.steady) (stopped.trans out)

theorem Dev.steady_quiesce : d.Steady d.quiesce := by
  have pulses {e : Dev} : e.Steady e.pulsesLow := ⟨rfl, fun _ _ _ _ => rfl⟩
  have buffer {e : Dev} : e.Steady (e.set0 .BUF_STATUS_FROZEN 1) := Dev.steady_setFld (by decide)
  have store {e : Dev} : e.Steady (e.set0 .HLD_STATUS_FROZEN 1) := Dev.steady_setFld (by decide)
  have lines {e : Dev} {b : BufSt} {h : HldSt} : e.Steady { e with
      buf := b, hld := h
      pins := { e.pins with safeN := true, alertN := true, safeLineA := true, safeLineB := true } } :=
    ⟨rfl, fun _ _ _ _ => rfl⟩
  exact (((((Dev.steady_safeTx.trans pulses).trans Dev.steady_leaseStop).trans buffer).trans store).trans lines)

/-! ### What WINTER gives up: a retraining, a reload, a trial (R65, R72, R150) -/

theorem Dev.steady_abortRetrain {reason : Nat} : d.Steady (d.abortRetrain reason) := by
  have state {e : Dev} {i v : Nat} : e.Steady (e.set1 .HLD_DIE_STATUS_STATE i v) := Dev.steady_setFld (by decide)
  have active {e : Dev} : e.Steady (e.set0 .HLD_RETRAIN_STATUS_ACTIVE 0) := Dev.steady_setFld (by decide)
  unfold Dev.abortRetrain Dev.endRetrain
  split
  · exact .refl d
  · exact ((Dev.steady_hld.trans state).trans active).trans Dev.steady_record

theorem Dev.steady_beginReset {cause : Nat} : d.Steady (d.beginReset cause) := by
  have reset {e : Dev} {x : BootSt} : e.Steady { e with boot := x } := ⟨rfl, fun _ _ _ _ => rfl⟩
  exact .ite (.refl d) ((Dev.steady_abortRetrain.trans Dev.steady_quiesce).trans reset)

theorem Dev.steady_trialFailed : d.Steady d.trialFailed := by
  have slot {e : Dev} {s st : Nat} : e.Steady (e.slotState s st) :=
    Dev.steady_img.trans (Dev.steady_setFld (f := .IMG_SLOT_STATE_STATES) (by decide))
  unfold Dev.trialFailed
  split
  · exact .refl d
  · exact .ite (((Dev.steady_img.trans slot).trans Dev.steady_record).trans Dev.steady_beginReset)
      ((Dev.steady_img.trans slot).trans Dev.steady_record)

theorem Dev.steady_imgEnd {reason sec : Nat} : d.Steady (d.imgEnd reason sec) := by
  have busy : d.Steady (d.set0 .IMG_STATUS_BUSY 0) := Dev.steady_setFld (by decide)
  unfold Dev.imgEnd
  exact (((busy.trans (Dev.steady_setFld (by decide))).trans (Dev.steady_setFld (by decide))).trans
    (Dev.steady_setFld (by decide))).trans Dev.quiet_doorbell.steady

theorem Dev.steady_abandonImage : d.Steady d.abandonImage := .ite (.refl d) (Dev.steady_img.trans Dev.steady_imgEnd)

/-! ### A cause of WINTER (R400, R401) -/

/-- The causes that assert REPLACE_N. -/
def fatalCauses : List Field := [.HLT_CAUSE_CORE_FATAL, .HLT_CAUSE_MGMT_FATAL, .HLT_CAUSE_D2D_LINK]

/-- The fields of the WINTER sequence after HLT_STATE and the cause. -/
def winterFields : List Nat := Field.MON_STATUS_ALERT.id :: steadyFields

/-- In WINTER a further cause is its bit and a record, and REPLACE_N where it is fatal (R401). -/
theorem Dev.winterCause_again {f : Field} {code : Nat} (hw : d.winter = true) :
    (∀ (g : Field) (i j : Nat), g.id ∉ winterFields → (d.winterCause f code).fld g i j = (d.set0 f 1).fld g i j) ∧
    (d.winterCause f code).tim.stopped = d.tim.stopped ∧
    (f ∈ fatalCauses → (d.winterCause f code).pins.replaceN = true) := by
  have noted : (d.set0 f 1).Reports ((d.set0 f 1).record .WINTER_CAUSE_ADDED 0 0 (payloadOf [(1, f.lo)])) :=
    Dev.reports_record _ _ _ _ _
  have unreported {g : Field} (hg : g.id ∉ winterFields) : g.id ∉ reportFields := fun hm =>
    hg (List.mem_cons_of_mem _ (List.mem_append_left _ (List.mem_append_left _ hm)))
  simp only [Dev.winterCause, hw, if_true, fatalCauses, List.mem_cons, List.not_mem_nil, or_false]
  refine ⟨fun g i j hg => ?_, ?_, fun hf => ?_⟩
  · split
    · exact noted.fld g i j (unreported hg)
    · exact noted.fld g i j (unreported hg)
  · split
    · exact congrArg TimSt.stopped noted.tim
    · exact congrArg TimSt.stopped noted.tim
  · rw [if_pos (decide_eq_true hf)]

/-- The device has quiesced for its first cause `f`: when, and REPLACE_N where the cause is fatal (R400). -/
def Dev.noteWinter (d : Dev) (f : Field) : Dev :=
  { d with
    pins := { d.pins with replaceN := d.pins.replaceN || decide (f ∈ fatalCauses) }
    hlt := { d.hlt with detect := some d.now, winterSecs := d.opMs / 1000 } }

theorem Dev.noteWinter_fld {f g : Field} {i j : Nat} : (d.noteWinter f).fld g i j = d.fld g i j := rfl

theorem Dev.noteWinter_tim {f : Field} : (d.noteWinter f).tim = d.tim := rfl

theorem Dev.noteWinter_replaceN {f : Field} :
    (d.noteWinter f).pins.replaceN = (d.pins.replaceN || decide (f ∈ fatalCauses)) := rfl

theorem Dev.steady_winterCause {f : Field} {code : Nat} (hw : d.winter = false) :
    ((((d.set0 f 1).setHealth 3 code).quiesce.noteWinter f).set0 .MON_STATUS_ALERT 1).Steady (d.winterCause f code) := by
  have fatal : decide (f ∈ fatalCauses) = decide (f = .HLT_CAUSE_CORE_FATAL ∨ f = .HLT_CAUSE_MGMT_FATAL ∨
      f = .HLT_CAUSE_D2D_LINK) := by
    simp only [fatalCauses, List.mem_cons, List.not_mem_nil, or_false]
  simp only [Dev.winterCause, Dev.noteWinter, hw, fatal, Bool.false_eq_true, if_false]
  exact ((Dev.Keeps.foldl (fun _ _ => Dev.steady_abandonTurn) _ _).trans Dev.steady_abandonImage).trans
    Dev.steady_trialFailed

/-- The first cause starts WINTER: what the sequence sets beside the cause and HLT_STATE is named by `winterFields` (R400). -/
theorem Dev.winterCause_first {f : Field} {code : Nat} (hw : d.winter = false) :
    (∀ (g : Field) (i j : Nat), g.id ∉ winterFields →
      (d.winterCause f code).fld g i j = ((d.set0 f 1).setHealth 3 code).fld g i j) ∧
    (d.winterCause f code).tim.stopped = d.tim.stopped ∧
    (f ∈ fatalCauses → (d.winterCause f code).pins.replaceN = true) := by
  have quiesced : ((d.set0 f 1).setHealth 3 code).Steady ((d.set0 f 1).setHealth 3 code).quiesce := Dev.steady_quiesce
  have after := Dev.steady_winterCause (f := f) (code := code) hw
  refine ⟨fun g i j hg => ?_, ?_, fun hf => ?_⟩
  · simp only [winterFields, List.mem_cons, not_or] at hg
    obtain ⟨halert, hsteady⟩ := hg
    exact (after.fld g i j hsteady).trans ((Dev.fld_setFld_id _ _ _ _ _ _ _ _ halert).trans
      (Dev.noteWinter_fld.trans (quiesced.fld g i j hsteady)))
  · rw [after.stopped, Dev.set0_tim, Dev.noteWinter_tim, quiesced.stopped, Dev.setHealth_tim, Dev.set0_tim]
  · rw [after.replaceN, Dev.set0_pins, Dev.noteWinter_replaceN, decide_eq_true hf, Bool.or_true]

/-- A cause of WINTER leaves every field but its own, HLT_STATE and those of `winterFields` as it was. -/
theorem Dev.winterCause_fld {f g : Field} {code i j : Nat} (hf : g.id ≠ f.id)
    (hg : g.id ∉ winterFields ++ (healthFields ++ quietFields)) : (d.winterCause f code).fld g i j = d.fld g i j := by
  rw [List.mem_append, not_or] at hg
  have caused : (d.set0 f 1).fld g i j = d.fld g i j := Dev.fld_setFld_id _ _ _ _ _ _ _ _ hf
  by_cases hw : d.winter = true
  · exact ((Dev.winterCause_again hw).1 g i j hg.1).trans caused
  · exact ((Dev.winterCause_first (by simpa using hw)).1 g i j hg.1).trans ((Dev.setHealth_fld hg.2).trans caused)

theorem Dev.winterCause_set {f : Field} {code : Nat} (hw : 0 < f.width)
    (hf : f.id ∉ winterFields ++ (healthFields ++ quietFields)) : (d.winterCause f code).b0 f = true := by
  rw [List.mem_append, not_or] at hf
  have caused : (d.set0 f 1).fld f 0 0 = 1 :=
    (Dev.fld_setFld_same d f 0 0 1).trans (Nat.mod_eq_of_lt (Nat.one_lt_two_pow hw.ne'))
  have kept : (d.winterCause f code).fld f 0 0 = 1 := by
    by_cases hw : d.winter = true
    · exact ((Dev.winterCause_again hw).1 f 0 0 hf.1).trans caused
    · exact ((Dev.winterCause_first (by simpa using hw)).1 f 0 0 hf.1).trans ((Dev.setHealth_fld hf.2).trans caused)
  rw [Dev.b0, kept]
  rfl

theorem Dev.health_winterCause {f : Field} {code : Nat} (hf : Field.HLT_STATE_STATE.id ≠ f.id) :
    (d.winterCause f code).health = 3 := by
  have unnamed : Field.HLT_STATE_STATE.id ∉ winterFields := by decide
  by_cases hw : d.winter = true
  · rw [Dev.health, Dev.f0, (Dev.winterCause_again hw).1 _ 0 0 unnamed, Dev.set0, Dev.fld_setFld_id _ _ _ _ _ _ _ _ hf]
    exact of_decide_eq_true hw
  · exact ((Dev.winterCause_first (by simpa using hw)).1 _ 0 0 unnamed).trans (Dev.health_setHealth (by decide))

theorem Dev.winterCause_stopped {f : Field} {code : Nat} : (d.winterCause f code).tim.stopped = d.tim.stopped := by
  by_cases hw : d.winter = true
  · exact (Dev.winterCause_again hw).2.1
  · exact (Dev.winterCause_first (by simpa using hw)).2.1

theorem Dev.winterCause_replaceN {f : Field} {code : Nat} (hf : f ∈ fatalCauses) :
    (d.winterCause f code).pins.replaceN = true := by
  by_cases hw : d.winter = true
  · exact (Dev.winterCause_again hw).2.2 hf
  · exact (Dev.winterCause_first (by simpa using hw)).2.2 hf

end

end Sys2Proof.Machine
end

