-- ==== Sys2Proof/Proofs/Containment.lean ====
section
/-! Containment and the clock tree (O28): regions, lane dies, hold memory dies, fatal dies, the root clock and CLK_DIV. -/

namespace Sys2Proof.Machine

/-- A command that is a function of the device completes with what holds of its value. -/
theorem completes_of_run {c : Instr} {s : State} {P : Dev → Prop} (f : Dev → Dev) (h : exec c s = s.run f) (hP : P (f s.dev)) :
    Completes c s P := ⟨s.on (f s.dev), h, rfl, hP⟩

section
variable {d : Dev}

/-! ### Reads after writes of other registers -/

theorem Dev.f0_set0_other {f g : Field} {v : Nat} (h : g.id ≠ f.id) : (d.set0 f v).f0 g = d.f0 g :=
  Dev.fld_setFld_id d f g 0 0 0 0 v h

theorem Dev.f1_set0_other {f g : Field} {i v : Nat} (h : g.id ≠ f.id) : (d.set0 f v).f1 g i = d.f1 g i :=
  Dev.fld_setFld_id d f g 0 0 i 0 v h

/-! ### A region (R27) -/

/-- The frames in the pipeline of a region. -/
def Dev.regionFrames (d : Dev) (n : Nat) : Map (Option Rx) := d.buf.rx.filter (fun x => x.2.any (fun r => decide (r.region = n)))

/-- The pipeline of a region is discarded and counted, and the region shows as isolated. -/
def Dev.discardRegion (d : Dev) (n : Nat) : Dev :=
  ((d.regionFrames n).foldl (fun (d : Dev) x => d.setRx x.1 none)
    { d with search := { d.search with inspect := Map.set [] d.search.inspect n [] } }).satInc .HLT_REGION_DISCARD n 0
    (d.regionFrames n).length

/-- The lanes, ports and turns of a region leave service. -/
def Dev.darkenPorts (d : Dev) (n : Nat) : Dev :=
  (List.range 8).foldl (fun d i =>
    let c := 8 * n + i
    (d.abandonTurn c 9).set1 .SHADOW_STATUS_PHASE c 4)
    (((List.range 32).map (fun i => 32 * n + i)).foldl (fun d p =>
      let d1 := d.setMac p { d.macSt p with drive := .lossOfSignal }
      if !d.portUsed p then d1
      else if d1.linkUp p then d1.linkDown p .isolation 0
      else if d1.winter then d1 else d1.portDown p 0 false) d)

/-- Its recirculation port leaves service, but in WINTER (R33). -/
def Dev.stopRecirc (d : Dev) (n : Nat) : Dev := if d.winter then d else d.dropRecirc n

/-- The isolation of a region is its bit in HLT_SUM_REGION between what its leaving service does, and a cause of AUTUMN. -/
theorem Dev.isolateRegion_eq {n cause : Nat} (h : d.regionIsolated n = false) : d.isolateRegion n cause =
    ((((((d.discardRegion n).setBit .HLT_SUM_REGION_ISOLATED 0 n true).darkenPorts n).stopRecirc n).record .REGION_ISOLATED 0 0
      (payloadOf [(2, cause), (4, (d.regionFrames n).length)])).raise (288 + n)).autumn .HLT_AUTUMN_CAUSE_REGION
      .REGION_ISOLATED := by
  rw [Dev.isolateRegion, h]
  rfl

theorem Dev.steady_discardRegion {n : Nat} : d.Steady (d.discardRegion n) := by
  have scans {x : SearchSt} : d.Steady { d with search := x } := ⟨rfl, fun _ _ _ _ => rfl⟩
  have counted {e : Dev} {k : Nat} : e.Steady (e.satInc .HLT_REGION_DISCARD n 0 k) := Dev.steady_setFld (by decide)
  unfold Dev.discardRegion
  exact (scans.trans (.foldl (fun _ _ => Dev.steady_setRx) _ _)).trans counted

theorem Dev.steady_darkenPorts {n : Nat} : d.Steady (d.darkenPorts n) := by
  have stopped {e : Dev} {c : Nat} : e.Steady (e.set1 .SHADOW_STATUS_PHASE c 4) := Dev.steady_setFld (by decide)
  refine Dev.Keeps.trans (.foldl (fun e p => ?_) _ _) (.foldl (fun _ _ => Dev.steady_abandonTurn.trans stopped) _ _)
  exact .ite Dev.steady_setMac (.ite (Dev.steady_setMac.trans Dev.steady_linkDown) (.ite Dev.steady_setMac
    (Dev.steady_setMac.trans Dev.steady_portDown)))

theorem Dev.steady_stopRecirc {n : Nat} : d.Steady (d.stopRecirc n) := .ite (.refl d) Dev.steady_dropRecirc

/-- From the bit of the region on, only what leaving service and AUTUMN write changes. -/
theorem Dev.isolateRegion_fld_after {n cause : Nat} {g : Field} {i j : Nat} (h : d.regionIsolated n = false)
    (hg : g.id ∉ steadyFields) (ha : g.id ∉ autumnFields) : (d.isolateRegion n cause).fld g i j =
      ((d.discardRegion n).setBit .HLT_SUM_REGION_ISOLATED 0 n true).fld g i j := by
  rw [Dev.isolateRegion_eq h, (Dev.autumnal_autumn (by decide)).fld g i j ha]
  exact (((Dev.steady_darkenPorts.trans Dev.steady_stopRecirc).trans Dev.steady_record).trans
    Dev.quiet_raise.steady).fld g i j hg

theorem Dev.regionIsolated_isolateRegion {n cause : Nat} (hn : n < 4) : (d.isolateRegion n cause).regionIsolated n = true := by
  cases h : d.regionIsolated n with
  | true => rwa [Dev.isolateRegion, h]
  | false =>
    rw [Dev.regionIsolated, Dev.f0, Dev.isolateRegion_fld_after h (by decide) (by decide), Dev.setBit, Dev.fld_setFld_same]
    exact bitOf_putBit_mod hn

theorem Dev.isolateRegion_fld {n cause : Nat} {g : Field} {i j : Nat} (hg : g.id ∉ steadyFields) (ha : g.id ∉ autumnFields)
    (hr : g.id ≠ Field.HLT_SUM_REGION_ISOLATED.id) : (d.isolateRegion n cause).fld g i j = d.fld g i j := by
  cases h : d.regionIsolated n with
  | true => simp only [Dev.isolateRegion, h, if_true]
  | false =>
    rw [Dev.isolateRegion_fld_after h hg ha, Dev.setBit, Dev.fld_setFld_id _ _ _ _ _ _ _ _ hr,
      Dev.steady_discardRegion.fld g i j hg]

/-- A lane die that fails isolates its region and stands in HLT_SUM_DIE (R30). -/
theorem Dev.laneDie_isolated {n cause : Nat} (hn : n < 4) :
    ((d.dieFault (1 + n)).isolateRegion n cause).regionIsolated n = true ∧
    bitOf (((d.dieFault (1 + n)).isolateRegion n cause).f0 .HLT_SUM_DIE_DIES) (1 + n) = true := by
  have width : Field.HLT_SUM_DIE_DIES.width = 26 := by decide
  refine ⟨Dev.regionIsolated_isolateRegion hn, ?_⟩
  rw [Dev.f0, Dev.isolateRegion_fld (by decide) (by decide) (by decide)]
  exact Dev.dieFault_bit (by omega)

end

end Sys2Proof.Machine
end

