-- ==== Sys2Proof/Proofs/HoldDies.lean ====
section
/-! The failure of a hold memory die or a base die (R31, R314), and the hold store leaving service (R31). -/

namespace Sys2Proof.Machine

section
variable {d : Dev}

/-! ### A die that fails -/

/-- A hold memory die (below 18) or a base die has failed already. -/
def Dev.holdDieGone (d : Dev) (die : Nat) : Prop := (die < 18 ∧ die ∈ d.hld.failedDies) ∨ (18 ≤ die ∧ die - 18 ∈ d.hld.failedBases)

/-- The die stands as failed. -/
def Dev.markHoldDie (d : Dev) (die : Nat) : Dev :=
  if die < 18 then
    (({ d with hld := { d.hld with failedDies := die :: d.hld.failedDies } }.set1 .HLD_DIE_STATUS_STATE die 2).set0
      .HLD_STATUS_FAILED_DIES (min 3 (d.hld.failedDies.length + 1))).set0 .HLT_SUM_UNIT_HOLD_DIE 1
  else { d with hld := { d.hld with failedBases := (die - 18) :: d.hld.failedBases } }.set0 .HLD_STATUS_BASE_FAILED 1

/-- Identifier of the die (R13). -/
def holdDieId (die : Nat) : Nat := if die < 18 then 8 + die else 6 + (die - 18)

/-- The failure is reported. -/
def Dev.tellHoldDie (d : Dev) (die : Nat) : Dev :=
  ((d.record .HOLD_DIE_FAILED 5 (holdDieId die) (payloadOf [(1, d.hld.failedDies.length)])).dieFault (holdDieId die)).raise 319

/-- A retraining of the die ends, and AUTUMN follows. -/
def Dev.dropHoldDie (d : Dev) (die : Nat) : Dev :=
  (if d.hld.retrain.any (fun x => x.1 == die) then d.endRetrain else d).autumn .HLT_AUTUMN_CAUSE_HOLD .HOLD_DIE_FAILED

/-- What follows from how many dies have failed. -/
theorem Dev.failHoldDie_eq {die : Nat} (h : ¬d.holdDieGone die) : d.failHoldDie die =
    let e := ((d.markHoldDie die).tellHoldDie die).dropHoldDie die
    if 3 ≤ e.hld.failedDies.length ∨ e.hld.failedBases ≠ [] then e.holdOutOfService (some (holdDieId die))
    else if e.hld.failedDies.length = 2 ∧ !e.hld.suspended then
      ({ e.abortRetrain 2 with hld := { (e.abortRetrain 2).hld with suspended := true } }.set0 .HLD_RETRAIN_STATUS_SUSPENDED
        1).record .HOLD_RETRAIN_SUSPENDED 0 0 (payloadOf [])
    else e := by
  unfold Dev.failHoldDie
  simp only [Dev.holdDieGone] at h
  rw [if_neg h]
  rfl

/-! ### What the report leaves of the hold store -/

/-- The hold store but for its retraining. -/
def Dev.storeView (d : Dev) : List Nat × List Nat × Map HoldQ × Bool :=
  (d.hld.failedDies, d.hld.failedBases, d.hld.queues, d.hld.outOfService)

theorem Dev.quietView_tellHoldDie {die : Nat} : (d.tellHoldDie die).quietView = d.quietView :=
  (Dev.quiet_raise.view.trans Dev.keeps_dieFault.view).trans Dev.quiet_record.view

theorem Dev.tellHoldDie_fld {die : Nat} {g : Field} {i j : Nat} (hq : g.id ∉ quietFields)
    (hg : g.id ≠ Field.HLT_SUM_DIE_DIES.id) : (d.tellHoldDie die).fld g i j = d.fld g i j := by
  have hd : g.id ∉ Field.HLT_SUM_DIE_DIES.id :: quietFields := by simp only [List.mem_cons, hg, hq, or_self, not_false_eq_true]
  exact ((Dev.quiet_raise.fld g i j hq).trans (Dev.keeps_dieFault.fld g i j hd)).trans (Dev.quiet_record.fld g i j hq)

theorem Dev.endRetrain_storeView : d.endRetrain.storeView = d.storeView := by
  unfold Dev.endRetrain
  split
  · rfl
  · rfl

theorem Dev.endRetrain_fld {g : Field} {i j : Nat} (hs : g.id ≠ Field.HLD_DIE_STATUS_STATE.id)
    (ha : g.id ≠ Field.HLD_RETRAIN_STATUS_ACTIVE.id) : d.endRetrain.fld g i j = d.fld g i j := by
  unfold Dev.endRetrain
  split
  · rfl
  · exact (Dev.fld_setFld_id _ _ _ _ _ _ _ _ ha).trans (Dev.fld_setFld_id _ _ _ _ _ _ _ _ hs)

/-- A retraining that ends leaves a failed die as failed. -/
theorem Dev.endRetrain_failed {die : Nat} (hdie : die ∈ d.hld.failedDies) (h : d.f1 .HLD_DIE_STATUS_STATE die = 2) :
    d.endRetrain.f1 .HLD_DIE_STATUS_STATE die = 2 := by
  unfold Dev.endRetrain
  split
  · exact h
  · next x _ _ =>
    refine (Dev.fld_setFld_id _ _ _ _ _ _ _ _ (by decide)).trans ?_
    by_cases hx : die = x
    · subst hx
      simp only [hdie, if_true]
      exact Dev.fld_setFld_same _ _ _ _ _
    · exact (Dev.fld_setFld_other _ _ _ _ _ _ _ _ (fun hc => hx hc.2.1)).trans h

theorem Dev.dropHoldDie_storeView {die : Nat} : (d.dropHoldDie die).storeView = d.storeView := by
  have autumn {e : Dev} : (e.autumn .HLT_AUTUMN_CAUSE_HOLD .HOLD_DIE_FAILED).hld = e.hld :=
    congrArg (fun x => x.2.2) (Dev.autumnal_autumn (d := e) (by decide)).view
  unfold Dev.dropHoldDie Dev.storeView
  rw [autumn]
  split
  · exact Dev.endRetrain_storeView
  · rfl

theorem Dev.reported_storeView {die : Nat} : ((d.tellHoldDie die).dropHoldDie die).storeView = d.storeView := by
  have hld : (d.tellHoldDie die).hld = d.hld := congrArg (fun x => x.2.2.1) Dev.quietView_tellHoldDie
  rw [Dev.dropHoldDie_storeView, Dev.storeView, hld]
  rfl

theorem Dev.reported_fld {die : Nat} {g : Field} {i j : Nat} (ha : g.id ∉ autumnFields)
    (hg : g.id ∉ [Field.HLT_SUM_DIE_DIES.id, Field.HLD_DIE_STATUS_STATE.id, Field.HLD_RETRAIN_STATUS_ACTIVE.id]) :
    ((d.tellHoldDie die).dropHoldDie die).fld g i j = d.fld g i j := by
  simp only [List.mem_cons, List.not_mem_nil, or_false, not_or] at hg
  obtain ⟨hdie, hstate, hactive⟩ := hg
  have hq : g.id ∉ quietFields := fun hm => ha (List.mem_append_left _ (List.mem_append_right _ hm))
  rw [Dev.dropHoldDie, (Dev.autumnal_autumn (by decide)).fld g i j ha]
  split
  · rw [Dev.endRetrain_fld hstate hactive, Dev.tellHoldDie_fld hq hdie]
  · exact Dev.tellHoldDie_fld hq hdie

theorem Dev.reported_failed {die : Nat} (hdie : die ∈ d.hld.failedDies) (h : d.f1 .HLD_DIE_STATUS_STATE die = 2) :
    ((d.tellHoldDie die).dropHoldDie die).f1 .HLD_DIE_STATUS_STATE die = 2 := by
  have hld : (d.tellHoldDie die).hld = d.hld := congrArg (fun x => x.2.2.1) Dev.quietView_tellHoldDie
  have told : (d.tellHoldDie die).f1 .HLD_DIE_STATUS_STATE die = 2 := (Dev.tellHoldDie_fld (by decide) (by decide)).trans h
  rw [Dev.dropHoldDie, (Dev.autumnal_autumn (by decide)).f1 (by decide)]
  split
  · exact Dev.endRetrain_failed (hld ▸ hdie) told
  · exact told

/-! ### The hold store out of service (R31) -/

theorem Dev.quiet_loseHoldQueues : d.Quiet d.loseHoldQueues := by
  have emptied {e : Dev} {t : Nat} {l : List Desc} {n : Nat} : e.Quiet ((e.setQueue 133 t l).countN .HLD_T_LOST t n) :=
    ⟨rfl, fun _ _ _ _ => rfl⟩
  exact .ite (.refl d) (.foldl (fun _ _ => emptied.trans (.foldl (fun _ _ => Dev.quiet_release) _ _)) _ _)

theorem Dev.quiet_loseCaptures : d.Quiet d.loseCaptures := by
  have lost {e : Dev} : e.Quiet e.loseCapture := Dev.quiet_count.trans (Dev.reports_recordCounted _ _ _ _ _ _ _).quiet
  have cleared {x : ActSt} : d.Quiet { d with act := x } := ⟨rfl, fun _ _ _ _ => rfl⟩
  exact .ite (cleared.trans (.foldl (fun _ _ => lost) _ _)) (.refl d)

/-- The hold store has left service when it is taken out of service. -/
theorem Dev.outOfService_holdOutOfService {die : Option Nat} : (d.holdOutOfService die).hld.outOfService = true := by
  have autumn {e : Dev} : (e.autumn .HLT_AUTUMN_CAUSE_HOLD .HOLD_OUT_OF_SERVICE).hld = e.hld :=
    congrArg (fun x => x.2.2) (Dev.autumnal_autumn (d := e) (by decide)).view
  have quiet {e g : Dev} (h : e.Quiet g) : g.hld = e.hld := congrArg (fun x => x.2.2.1) h.view
  unfold Dev.holdOutOfService
  split
  · assumption
  · simp only [autumn, quiet Dev.quiet_raise, quiet Dev.quiet_record, Dev.set0_hld, quiet Dev.quiet_loseCaptures,
      quiet Dev.quiet_loseHoldQueues]

end

end Sys2Proof.Machine
end

