-- ==== Sys2Proof/Proofs/ContainmentAndClocks.lean ====
section
/-! The obligation on containment and the clock tree (O28). -/

namespace Sys2Proof.Machine

section
variable {d : Dev}

/-! ### Hold memory dies and base dies (R31, R314) -/

theorem Dev.reported_hld {die : Nat} : ((d.tellHoldDie die).dropHoldDie die).hld.failedDies = d.hld.failedDies ∧
    ((d.tellHoldDie die).dropHoldDie die).hld.failedBases = d.hld.failedBases ∧
    ((d.tellHoldDie die).dropHoldDie die).hld.queues = d.hld.queues ∧
    ((d.tellHoldDie die).dropHoldDie die).hld.outOfService = d.hld.outOfService := by
  have h := Dev.reported_storeView (d := d) (die := die)
  simpa only [Dev.storeView, Prod.mk.injEq] using h

theorem Dev.markHoldDie_memory {die : Nat} (h : die < 18) : (d.markHoldDie die).hld.failedDies = die :: d.hld.failedDies ∧
    (d.markHoldDie die).hld.failedBases = d.hld.failedBases ∧ (d.markHoldDie die).hld.queues = d.hld.queues ∧
    (d.markHoldDie die).hld.outOfService = d.hld.outOfService := by
  rw [Dev.markHoldDie, if_pos h]
  exact ⟨rfl, rfl, rfl, rfl⟩

theorem Dev.markHoldDie_base {die : Nat} (h : 18 ≤ die) :
    (d.markHoldDie die).hld.failedBases = (die - 18) :: d.hld.failedBases := by
  rw [Dev.markHoldDie, if_neg (Nat.not_lt.2 h)]
  rfl

theorem Dev.markHoldDie_state {die : Nat} (h : die < 18) : (d.markHoldDie die).f1 .HLD_DIE_STATUS_STATE die = 2 := by
  rw [Dev.markHoldDie, if_pos h, Dev.f1_set0_other (by decide), Dev.f1_set0_other (by decide)]
  exact Dev.f1_set1_same _ _ _ _

theorem Dev.markHoldDie_count {die : Nat} (h : die < 18) :
    (d.markHoldDie die).f0 .HLD_STATUS_FAILED_DIES = min 3 (d.hld.failedDies.length + 1) := by
  have width : Field.HLD_STATUS_FAILED_DIES.width = 2 := by decide
  rw [Dev.markHoldDie, if_pos h, Dev.f0_set0_other (by decide), Dev.f0_set0_same, width]
  omega

/-- The first hold memory die to fail leaves use; the store goes on (R314). -/
theorem Dev.failHoldDie_first {die : Nat} (h : die < 18) (hdies : d.hld.failedDies = []) (hbases : d.hld.failedBases = []) :
    d.failHoldDie die = ((d.markHoldDie die).tellHoldDie die).dropHoldDie die := by
  have gone : ¬d.holdDieGone die := by simp [Dev.holdDieGone, hdies, hbases]
  obtain ⟨marked, bases, -, -⟩ := Dev.markHoldDie_memory (d := d) h
  obtain ⟨dies', bases', -, -⟩ := Dev.reported_hld (d := d.markHoldDie die) (die := die)
  simp [Dev.failHoldDie_eq gone, dies', marked, hdies, bases', bases, hbases]

/-- A third hold memory die or a base die takes the store out of service (R31). -/
theorem Dev.failHoldDie_outOfService {die : Nat} (h : (die < 18 ∧ die ∉ d.hld.failedDies ∧ 2 ≤ d.hld.failedDies.length) ∨
    (18 ≤ die ∧ die - 18 ∉ d.hld.failedBases)) : (d.failHoldDie die).hld.outOfService = true := by
  have gone : ¬d.holdDieGone die := by
    unfold Dev.holdDieGone
    rintro (⟨hlt, hmem⟩ | ⟨hle, hmem⟩)
    · exact h.elim (fun k => k.2.1 hmem) (fun k => absurd hlt (Nat.not_lt.2 k.1))
    · exact h.elim (fun k => absurd k.1 (Nat.not_lt.2 hle)) (fun k => k.2 hmem)
  obtain ⟨dies', bases', -, -⟩ := Dev.reported_hld (d := d.markHoldDie die) (die := die)
  have enough : 3 ≤ (((d.markHoldDie die).tellHoldDie die).dropHoldDie die).hld.failedDies.length ∨
      (((d.markHoldDie die).tellHoldDie die).dropHoldDie die).hld.failedBases ≠ [] := by
    rw [dies', bases']
    obtain ⟨hdie, -, htwo⟩ | ⟨hdie, -⟩ := h
    · left
      rw [(Dev.markHoldDie_memory hdie).1, List.length_cons]
      omega
    · right
      rw [Dev.markHoldDie_base hdie]
      exact List.cons_ne_nil _ _
  rw [Dev.failHoldDie_eq gone]
  simp only [enough, if_true]
  exact Dev.outOfService_holdOutOfService

/-! ### The clock tree (R37, R40) -/

/-- The loss of the root clock, before the cause of WINTER (R37, R341). -/
def Dev.loseRoot (d : Dev) (ref : Bool) : Dev :=
  let d1 := (((d.set0 .CLK_STATUS_ROOT_LOCK 0).set0 .CLK_STATUS_REF_OK (b2n ref)).set0 .CLK_STATUS_ROOT_LOST 1).set0
    .CLK_STATUS_ON_RING 1
  (({ d1 with tim := { d1.tim with stopped := true } }).set0 .TIM_STATUS_FRC_VALID 0).record .ROOT_CLOCK_LOST 0 0 (payloadOf [])

theorem execRootClockLost_locked {ref : Bool} {s : State} (h : s.dev.b0 .CLK_STATUS_ROOT_LOCK = true) :
    execRootClockLost ref s = s.run fun d =>
      if d.b0 .CLK_STATUS_ROOT_LOCK then (d.loseRoot ref).winterCause .HLT_CAUSE_ROOT_CLOCK EvCode.ROOT_CLOCK_LOST.code else d := by
  simp only [execRootClockLost, State.run_eq, h, Bool.not_true, Bool.false_eq_true, if_false, if_true]
  rfl

theorem Dev.f0_tim {x : TimSt} {g : Field} : ({ d with tim := x } : Dev).f0 g = d.f0 g := rfl

theorem Dev.loseRoot_stopped {ref : Bool} : (d.loseRoot ref).tim.stopped = true :=
  congrArg TimSt.stopped (Dev.reports_record _ _ _ _ _).tim

theorem Dev.loseRoot_frcValid {ref : Bool} : (d.loseRoot ref).f0 .TIM_STATUS_FRC_VALID = 0 :=
  (Dev.quiet_record.f0 (by decide)).trans (Dev.f0_set0_same _ _ _)

theorem Dev.loseRoot_onRing {ref : Bool} : (d.loseRoot ref).f0 .CLK_STATUS_ON_RING = 1 :=
  (((Dev.quiet_record.f0 (by decide)).trans (Dev.f0_set0_other (by decide))).trans Dev.f0_tim).trans (Dev.f0_set0_same _ _ _)

/-- What the first lock shows of the clocks. -/
def Dev.showLock (d : Dev) (l : Nat) (p : Bool) : Dev :=
  (((d.set0 .CLK_STATUS_ROOT_LOCK 1).set0 .CLK_STATUS_REF_OK 1).set0 .CLK_STATUS_LANE_PLL_LOCK l).set0 .CLK_STATUS_PCIE_REF_OK
    (b2n p)

theorem Dev.showLock_fields {l : Nat} {p : Bool} (hl : l < 16) : (d.showLock l p).f0 .CLK_STATUS_ROOT_LOCK = 1 ∧
    (d.showLock l p).f0 .CLK_STATUS_REF_OK = 1 ∧ (d.showLock l p).f0 .CLK_STATUS_LANE_PLL_LOCK = l ∧
    (d.showLock l p).f0 .CLK_STATUS_PCIE_REF_OK = b2n p := by
  have width : Field.CLK_STATUS_LANE_PLL_LOCK.width = 4 := by decide
  have one : b2n p % 2 ^ Field.CLK_STATUS_PCIE_REF_OK.width = b2n p := by cases p <;> rfl
  refine ⟨?_, ?_, ?_, ?_⟩
  · simp (disch := decide) only [Dev.showLock, Dev.f0_set0_other, Dev.f0_set0_same]
    rfl
  · simp (disch := decide) only [Dev.showLock, Dev.f0_set0_other, Dev.f0_set0_same]
    rfl
  · simp (disch := decide) only [Dev.showLock, Dev.f0_set0_other, Dev.f0_set0_same, width]
    exact Nat.mod_eq_of_lt hl
  · rw [Dev.showLock, Dev.f0_set0_same, one]

/-- After the lock only the links' states and ON_RING change among the fields. -/
theorem Dev.afterLock_fld {g : Field} {i j : Nat} (hs : g.id ≠ Field.HLT_D2D_STATUS_STATE.id)
    (hr : g.id ≠ Field.CLK_STATUS_ON_RING.id) : d.afterLock.fld g i j = d.fld g i j := by
  have trained (e : Dev) (k : Nat) : e.Keeps [Field.HLT_D2D_STATUS_STATE.id] (fun _ => ())
      (if e.f1 .HLT_D2D_STATUS_STATE k = 0 then e.set1 .HLT_D2D_STATUS_STATE k 1 else e) :=
    .ite ⟨rfl, fun f a b hf => Dev.fld_setFld_id e _ f k 0 a b 1 (fun h => hf (h ▸ List.mem_cons_self))⟩ (.refl e)
  unfold Dev.afterLock
  refine ((Dev.Keeps.foldl trained _ _).fld g i j (by simpa using hs)).trans ?_
  exact Dev.fld_setFld_id _ _ _ _ _ _ _ _ hr

theorem Dev.afterLock_onRing : d.afterLock.f0 .CLK_STATUS_ON_RING = 0 := by
  have trained (e : Dev) (k : Nat) : e.Keeps [Field.HLT_D2D_STATUS_STATE.id] (fun _ => ())
      (if e.f1 .HLT_D2D_STATUS_STATE k = 0 then e.set1 .HLT_D2D_STATUS_STATE k 1 else e) :=
    .ite ⟨rfl, fun f a b hf => Dev.fld_setFld_id e _ f k 0 a b 1 (fun h => hf (h ▸ List.mem_cons_self))⟩ (.refl e)
  unfold Dev.afterLock
  exact ((Dev.Keeps.foldl trained _ _).f0 (by decide)).trans (Dev.f0_set0_same _ _ _)

/-- A PW write of CLK_DIV by a master that may, while no re-division runs (R40). -/
theorem execClkDivCoreHalf_open {m : Master} {half : Bool} {s : State} (ho : s.dev.Open m (Reg.CLK_DIV.addr 0 0))
    (hm : pwMaster m = true) (hb : s.dev.b0 .CLK_DIV_BUSY = false) : exec (.clkDivCoreHalf m half) s =
      .next (s.on ((if half ∧ !s.dev.winter ∧ s.dev.boot.committed then s.dev.set0 .CLK_DIV_REFUSED 1
        else (s.dev.set0 .CLK_DIV_CORE_HALF (b2n half)).set0 .CLK_DIV_BUSY 1).complete (.ok 0))) := by
  simp only [exec_clkDivCoreHalf, execClkDivCoreHalf, State.run_eq, Dev.onWrite_open _ _ _ _ _ _ ho, Dev.writeClkDiv,
    Dev.pwWrite, hm, hb, Bool.not_true, Bool.false_eq_true, if_false, State.on]

end

/-- Settles O28: the isolation of a region, AUTUMN and WINTER each leave alone what the clauses name, and CLK_DIV is written
through its gate. -/
theorem containmentAndClocks : Obligations.ContainmentAndClocks := by
  unfold Obligations.ContainmentAndClocks
  refine ⟨fun n cause s => ?region, fun n s hlink => ?laneDie, fun die s hdies hbases => ?holdDie, fun die s h => ?store,
    fun mgmt s => ?fatal, fun ref s hlock => ?rootLost, fun l p s hlock hlost => ?firstLock,
    fun m half s ho hm hb hmay => ?taken, fun m s ho hm hb hw hc => ?refused, fun s hb => ?redivided⟩
  case region =>
    exact completes_of_run (fun d => d.isolateRegion n cause) rfl (Dev.regionIsolated_isolateRegion n.isLt)
  case laneDie =>
    refine completes_of_run (fun d => if d.linkFailed n then d else ((d.record .LANE_DIE_FAILED 5 (1 + n.val)
      (payloadOf [])).dieFault (1 + n.val)).isolateRegion n EvCode.LANE_DIE_FAILED.code) rfl ?_
    simp only [hlink, Bool.false_eq_true, if_false]
    exact Dev.laneDie_isolated n.isLt
  case holdDie =>
    obtain ⟨dies, -, queues, service⟩ := Dev.markHoldDie_memory (d := s.dev) die.isLt
    obtain ⟨dies', -, queues', service'⟩ := Dev.reported_hld (d := s.dev.markHoldDie die) (die := die)
    refine completes_of_run (fun d => d.failHoldDie die) rfl ?_
    rw [Dev.failHoldDie_first die.isLt hdies hbases]
    refine ⟨?_, ?_, ?_, queues'.trans queues, service'.trans service⟩
    · rw [dies', dies, hdies]
    · exact Dev.reported_failed (dies ▸ List.mem_cons_self) (Dev.markHoldDie_state die.isLt)
    · rw [Dev.f0, Dev.reported_fld (by decide) (by decide)]
      exact (Dev.markHoldDie_count die.isLt).trans (by rw [hdies]; rfl)
  case store => exact completes_of_run (fun d => d.failHoldDie die) rfl (Dev.failHoldDie_outOfService h)
  case fatal =>
    refine completes_of_run (fun d => if mgmt then (d.dieFault 5).winterCause .HLT_CAUSE_MGMT_FATAL 0
      else (d.dieFault 0).winterCause .HLT_CAUSE_CORE_FATAL 0) rfl ?_
    cases mgmt
    · exact ⟨Dev.health_winterCause (by decide), Dev.winterCause_set (by decide) (by decide),
        Dev.winterCause_replaceN (by decide)⟩
    · exact ⟨Dev.health_winterCause (by decide), Dev.winterCause_set (by decide) (by decide),
        Dev.winterCause_replaceN (by decide)⟩
  case rootLost =>
    refine completes_of_run _ (execRootClockLost_locked hlock) ?_
    rw [if_pos hlock]
    refine ⟨Dev.health_winterCause (by decide), Dev.winterCause_set (by decide) (by decide),
      Dev.winterCause_stopped.trans Dev.loseRoot_stopped, ?_, ?_⟩
    · exact (Dev.winterCause_fld (by decide) (by decide)).trans Dev.loseRoot_frcValid
    · exact (Dev.winterCause_fld (by decide) (by decide)).trans Dev.loseRoot_onRing
  case firstLock =>
    obtain ⟨lock, ref, lane, pcie⟩ := Dev.showLock_fields (d := s.dev) (p := p) l.isLt
    refine completes_of_run (fun d => if d.b0 .CLK_STATUS_ROOT_LOCK ∨ d.b0 .CLK_STATUS_ROOT_LOST then d
      else if (d.showLock l p).boot.romRuns then (d.showLock l p).afterLock else d.showLock l p) rfl ?_
    simp only [hlock, hlost, Bool.false_eq_true, or_self, if_false]
    split
    · refine ⟨?_, ?_, ?_, ?_, fun _ => Dev.afterLock_onRing⟩
      · exact (Dev.afterLock_fld (by decide) (by decide)).trans lock
      · exact (Dev.afterLock_fld (by decide) (by decide)).trans ref
      · exact (Dev.afterLock_fld (by decide) (by decide)).trans lane
      · exact (Dev.afterLock_fld (by decide) (by decide)).trans pcie
    · next hrom => exact ⟨lock, ref, lane, pcie, fun h => absurd h hrom⟩
  case taken =>
    have kept : ¬(half = true ∧ (!s.dev.winter) = true ∧ s.dev.boot.committed = true) := by
      rcases hmay with h | h | h
      · simp [h]
      · simp [h]
      · simp [h]
    rw [execClkDivCoreHalf_open ho hm hb, if_neg kept]
  case refused =>
    rw [execClkDivCoreHalf_open ho hm hb, if_pos ⟨rfl, by rw [hw]; rfl, hc⟩]
  case redivided =>
    simp only [exec_coreClockRedivided, execCoreClockRedivided, State.run_eq, hb, if_true, State.on]

end Sys2Proof.Machine
end

