-- ==== Sys2Proof/Proofs/Flits.lean ====
section
/-! Flits over a die-to-die link (R16 to R18): sending in rotation, acceptance and delivery in order, NAK and replay. -/

namespace Sys2Proof.Machine

/-- A command completes with what holds of the device it gives. -/
theorem completes_of_eq {c : Instr} {s : State} {P : Dev → Prop} {t : Dev} (h : exec c s = .next (s.on t)) (hP : P t) :
    Completes c s P := ⟨s.on t, h, rfl, hP⟩

section
variable {d : Dev}

/-! ### The state of a link direction and of a bundle direction -/

@[simp] theorem Dev.flitDir_setFlitDir_same {k b dir : Nat} {f : FlitDir} : (d.setFlitDir k b dir f).flitDir k b dir = f :=
  Map.get_set_same _ _ _ _

theorem Dev.flitDir_setFlitDir_other {k b dir l c dir' : Nat} {f : FlitDir} (h : ¬(l = k ∧ c = b ∧ dir' = dir)) :
    (d.setFlitDir k b dir f).flitDir l c dir' = d.flitDir l c dir' :=
  Map.get_set_other _ _ _ _ _ _ (fun e => h ((k3_inj _ _ _ _ _ _).1 e))

@[simp] theorem Dev.linkDir_setFlitDir {k b dir l dir' : Nat} {f : FlitDir} :
    (d.setFlitDir k b dir f).linkDir l dir' = d.linkDir l dir' := rfl

@[simp] theorem Dev.linkDir_setLinkDir_same {k dir : Nat} {x : LinkDir} : (d.setLinkDir k dir x).linkDir k dir = x :=
  Map.get_set_same _ _ _ _

@[simp] theorem Dev.flitDir_setLinkDir {k dir l c dir' : Nat} {x : LinkDir} :
    (d.setLinkDir k dir x).flitDir l c dir' = d.flitDir l c dir' := rfl

/-! ### Sending (R16, R18) -/

/-- Device `e` is device `d` after flits have been sent: only retry buffers and rotations have gone on. -/
structure Dev.Sends (d e : Dev) : Prop where
  flds : e.flds = d.flds
  out : e.out = d.out
  now : e.now = d.now
  expected : ∀ k b dir, (e.flitDir k b dir).expected = (d.flitDir k b dir).expected
  fails : ∀ k b dir, (e.flitDir k b dir).fails = (d.flitDir k b dir).fails

theorem Dev.Sends.refl (d : Dev) : d.Sends d := ⟨rfl, rfl, rfl, fun _ _ _ => rfl, fun _ _ _ => rfl⟩

theorem Dev.Sends.trans {e g : Dev} (h : d.Sends e) (k : e.Sends g) : d.Sends g :=
  ⟨k.flds.trans h.flds, k.out.trans h.out, k.now.trans h.now, fun a b c => (k.expected a b c).trans (h.expected a b c),
    fun a b c => (k.fails a b c).trans (h.fails a b c)⟩

theorem Dev.sends_setFlitDir {k b dir n : Nat} : d.Sends (d.setFlitDir k b dir { d.flitDir k b dir with next := n }) := by
  have kept (l c dir' : Nat) : (d.setFlitDir k b dir { d.flitDir k b dir with next := n }).flitDir l c dir' =
      { d.flitDir l c dir' with next := if l = k ∧ c = b ∧ dir' = dir then n else (d.flitDir l c dir').next } := by
    by_cases h : l = k ∧ c = b ∧ dir' = dir
    · obtain ⟨rfl, rfl, rfl⟩ := h
      simp only [Dev.flitDir_setFlitDir_same, and_self, if_true]
    · simp only [Dev.flitDir_setFlitDir_other h, h, if_false]
  exact ⟨rfl, rfl, rfl, fun l c dir' => by rw [kept], fun l c dir' => by rw [kept]⟩

theorem Dev.sends_sendFlit {k dir : Nat} {e : Dev} (h : d.sendFlit k dir = some e) : d.Sends e := by
  unfold Dev.sendFlit at h
  dsimp only at h
  split at h
  · cases h
  · split at h
    · cases h
    · cases h
      exact Dev.sends_setFlitDir.trans ⟨rfl, rfl, rfl, fun _ _ _ => rfl, fun _ _ _ => rfl⟩

theorem Dev.sends_sendUntil {k b dir seq fuel : Nat} : d.Sends (Dev.sendUntil k b dir seq fuel d) := by
  induction fuel generalizing d with
  | zero => exact .refl d
  | succ n ih =>
    unfold Dev.sendUntil
    split
    · exact .refl d
    · split
      · exact .refl d
      · next h => exact (Dev.sends_sendFlit h).trans ih

/-- A flit that arrives has been sent by then (log 72). -/
def Dev.onWay (d : Dev) (k b dir seq : Nat) : Dev :=
  if (d.flitDir k b dir).ahead seq < 512 then Dev.sendUntil k b dir seq 5120 d else d

theorem Dev.sends_onWay {k b dir seq : Nat} : d.Sends (d.onWay k b dir seq) := by
  unfold Dev.onWay
  split
  · exact Dev.sends_sendUntil
  · exact .refl d

/-! ### Acceptance and delivery (R16, R17) -/

theorem deliverFlits_ready {ready : Map Nat} {b : Nat} {l : List Nat} (h : Map.get 0 ready b ≠ 0) :
    1 ≤ (deliverFlits ready (b :: l)).2.2 := by
  simp only [deliverFlits, if_neg h]
  omega

theorem deliverFlits_waits {ready : Map Nat} {c : Nat} {l : List Nat} (h : Map.get 0 ready c = 0) :
    (deliverFlits ready (c :: l)).2.2 = 0 := by
  simp only [deliverFlits, if_pos h]

theorem Dev.acceptFlit_delivered {k b dir : Nat} {l : List Nat} (h : (d.linkDir k dir).order = b :: l) :
    (d.linkDir k dir).delivered + 1 ≤ ((d.acceptFlit k b dir).linkDir k dir).delivered := by
  unfold Dev.acceptFlit
  simp only [Dev.linkDir_setLinkDir_same, h]
  exact Nat.add_le_add_left (deliverFlits_ready (by rw [Map.get_set_same]; omega)) _

theorem Dev.acceptFlit_waits {k b c dir : Nat} {l : List Nat} (h : (d.linkDir k dir).order = c :: l) (hc : c ≠ b)
    (hr : Map.get 0 (d.linkDir k dir).ready c = 0) :
    ((d.acceptFlit k b dir).linkDir k dir).delivered = (d.linkDir k dir).delivered := by
  unfold Dev.acceptFlit
  simp only [Dev.linkDir_setLinkDir_same, h]
  rw [deliverFlits_waits (by rw [Map.get_set_other _ _ _ _ _ _ hc, hr]), Nat.add_zero]

/-- The acknowledgement goes to the other direction of the bundle. -/
theorem Dev.flitDir_ackFlits {k b dir ack l c dir' : Nat} (h : dir' ≠ dir) :
    (d.ackFlits k b dir ack).flitDir l c dir' = d.flitDir l c dir' := by
  unfold Dev.ackFlits
  dsimp only
  split
  · exact Dev.flitDir_setFlitDir_other (fun e => h e.2.2)
  · rfl

theorem Dev.ackFlits_rest {k b dir ack : Nat} : (d.ackFlits k b dir ack).links = d.links ∧
    (d.ackFlits k b dir ack).out = d.out ∧ (d.ackFlits k b dir ack).flds = d.flds := by
  unfold Dev.ackFlits
  dsimp only
  split
  · exact ⟨rfl, rfl, rfl⟩
  · exact ⟨rfl, rfl, rfl⟩

/-- The expected flit is accepted. -/
def Dev.acceptNext (d : Dev) (k b dir ack : Nat) : Dev :=
  let f := d.flitDir k b dir
  ((d.setFlitDir k b dir { f with expected := (f.expected + 1) % 4096, discarding := false, fails := 0 }).acceptFlit k b
    dir).ackFlits k b (1 - dir) ack

theorem Dev.flitDir_acceptNext {k b dir ack : Nat} (h : dir < 2) : (d.acceptNext k b dir ack).flitDir k b dir =
    { d.flitDir k b dir with expected := ((d.flitDir k b dir).expected + 1) % 4096, discarding := false, fails := 0 } := by
  unfold Dev.acceptNext
  rw [Dev.flitDir_ackFlits (by omega), Dev.acceptFlit]
  simp only [Dev.flitDir_setLinkDir, Dev.flitDir_setFlitDir_same]

theorem Dev.acceptNext_rest {k b dir ack : Nat} :
    (d.acceptNext k b dir ack).out = d.out ∧ (d.acceptNext k b dir ack).flds = d.flds := Dev.ackFlits_rest.2

theorem Dev.linkDir_acceptNext {k b dir ack : Nat} : ∃ e : Dev, e.linkDir k dir = d.linkDir k dir ∧
    (d.acceptNext k b dir ack).linkDir k dir = (e.acceptFlit k b dir).linkDir k dir :=
  ⟨_, Dev.linkDir_setFlitDir, congrArg (fun m => Map.get LinkDir.reset m (k2 k dir)) Dev.ackFlits_rest.1⟩

theorem exec_flitReceive_good {k : Link} {b : Fin 10} {dir : Fin 2} {seq ack : Fin 4096} {s : State}
    (hup : s.dev.bundleUp k b = true) (hseq : seq.val = (s.dev.flitDir k b dir).expected)
    (hholds : ((s.dev.onWay k b dir seq).flitDir k b dir).holds seq = true) :
    exec (.flitReceive k b dir seq ack true) s = .next (s.on ((s.dev.onWay k b dir seq).acceptNext k b dir ack)) := by
  have hexp : seq.val = ((s.dev.onWay k b dir seq).flitDir k b dir).expected := hseq.trans (Dev.sends_onWay.expected k b dir).symm
  unfold Dev.onWay at *
  simp only [exec_flitReceive, execFlitReceive, State.run_eq, hup, ← hexp, hholds, Bool.not_true, Bool.false_eq_true,
    false_and, ne_eq, not_true_eq_false, or_self, if_false]
  simp only [Dev.acceptNext, ← hexp, State.on]

/-- The expected flit with a good CRC is accepted, and what stands first in the order of sending is delivered (R16, R18). -/
theorem flitReceive_good {k : Link} {b : Fin 10} {dir : Fin 2} {seq ack : Fin 4096} {s : State}
    (hup : s.dev.bundleUp k b = true) (hseq : seq.val = (s.dev.flitDir k b dir).expected)
    (hholds : ((s.dev.onWay k b dir seq).flitDir k b dir).holds seq = true) :
    Completes (.flitReceive k b dir seq ack true) s fun t =>
      let x := (s.dev.onWay k b dir seq).linkDir k dir
      (t.flitDir k b dir).expected = (seq.val + 1) % 4096 ∧ (t.flitDir k b dir).discarding = false ∧
      (t.flitDir k b dir).fails = 0 ∧ t.out = s.dev.out ∧ t.flds = s.dev.flds ∧
      (∀ l, x.order = b.val :: l → x.delivered + 1 ≤ (t.linkDir k dir).delivered) ∧
      ∀ c l, x.order = c :: l → c ≠ b.val → Map.get 0 x.ready c = 0 → (t.linkDir k dir).delivered = x.delivered := by
  have sent : s.dev.Sends (s.dev.onWay k b dir seq) := Dev.sends_onWay
  obtain ⟨e, he, hlink⟩ := Dev.linkDir_acceptNext (d := s.dev.onWay k b dir seq) (k := k) (b := b) (dir := dir) (ack := ack)
  refine completes_of_eq (exec_flitReceive_good hup hseq hholds) ?_
  simp only [Dev.flitDir_acceptNext dir.isLt, sent.expected, ← hseq, hlink, ← he, true_and]
  exact ⟨Dev.acceptNext_rest.1.trans sent.out, Dev.acceptNext_rest.2.trans sent.flds,
    fun l h => Dev.acceptFlit_delivered h, fun c l h hc hr => Dev.acceptFlit_waits h hc hr⟩

/-! ### NAK (R18, R19) -/

theorem exec_flitReceive_bad {k : Link} {b : Fin 10} {dir : Fin 2} {seq ack : Fin 4096} {s : State}
    (hup : s.dev.bundleUp k b = true) (hseq : seq.val = (s.dev.flitDir k b dir).expected)
    (hholds : ((s.dev.onWay k b dir seq).flitDir k b dir).holds seq = true) :
    exec (.flitReceive k b dir seq ack false) s = .next (s.on ((s.dev.onWay k b dir seq).nakFlit k b dir true)) := by
  have hexp : seq.val = ((s.dev.onWay k b dir seq).flitDir k b dir).expected := hseq.trans (Dev.sends_onWay.expected k b dir).symm
  unfold Dev.onWay at *
  simp only [exec_flitReceive, execFlitReceive, State.run_eq, hup, ← hexp, hholds, Bool.not_true, Bool.not_false,
    Bool.false_eq_true, and_false, ne_eq, not_true_eq_false, if_false, if_true, decide_true]
  rfl

theorem Dev.nakFlit_flitDir {k b dir : Nat} : ((d.nakFlit k b dir true).flitDir k b dir).expected = (d.flitDir k b dir).expected ∧
    ((d.nakFlit k b dir true).flitDir k b dir).discarding = true ∧
    ((d.nakFlit k b dir true).flitDir k b dir).fails = (d.flitDir k b dir).fails + 1 ∧
    (d.nakFlit k b dir true).out = .nak k b dir (d.flitDir k b dir).expected :: d.out := by
  unfold Dev.nakFlit
  simp only [if_true]
  split
  · simp only [Dev.flitDir_setFlitDir_same, true_and]
    rfl
  · have diagnosed {e : Dev} {f : FlitDir} {v : Nat} :
        ((e.setFlitDir k b dir f).set1 .HLT_D2D_STATUS_DIAG k v).flitDir k b dir = f := Dev.flitDir_setFlitDir_same
    simp only [diagnosed, true_and]
    rfl

/-- The eighth failure of one flit starts the diagnosis (R19). -/
theorem Dev.nakFlit_eighth {k b dir : Nat} (h : 7 ≤ (d.flitDir k b dir).fails) :
    ((d.nakFlit k b dir true).flitDir k b dir).diag = some d.now ∧ (d.nakFlit k b dir true).f1 .HLT_D2D_STATUS_DIAG k = 1 := by
  have diagnosed {e : Dev} {f : FlitDir} {v : Nat} :
      ((e.setFlitDir k b dir f).set1 .HLT_D2D_STATUS_DIAG k v).flitDir k b dir = f := Dev.flitDir_setFlitDir_same
  have eighth : ¬(d.flitDir k b dir).fails + 1 < 8 := by omega
  unfold Dev.nakFlit
  simp only [if_true, eighth, if_false, diagnosed]
  exact ⟨trivial, Dev.f1_set1_same _ _ _ _⟩

/-- The expected flit with a bad CRC is answered with a NAK that names it (R18). -/
theorem flitReceive_bad {k : Link} {b : Fin 10} {dir : Fin 2} {seq ack : Fin 4096} {s : State}
    (hup : s.dev.bundleUp k b = true) (hseq : seq.val = (s.dev.flitDir k b dir).expected)
    (hholds : ((s.dev.onWay k b dir seq).flitDir k b dir).holds seq = true) :
    Completes (.flitReceive k b dir seq ack false) s fun t =>
      (t.flitDir k b dir).expected = seq.val ∧ (t.flitDir k b dir).discarding = true ∧
      (t.flitDir k b dir).fails = (s.dev.flitDir k b dir).fails + 1 ∧ t.out = .nak k b dir seq.val :: s.dev.out ∧
      (7 ≤ (s.dev.flitDir k b dir).fails →
        (t.flitDir k b dir).diag = some s.dev.now ∧ t.f1 .HLT_D2D_STATUS_DIAG k = 1) := by
  have sent : s.dev.Sends (s.dev.onWay k b dir seq) := Dev.sends_onWay
  obtain ⟨hexp, hdisc, hfails, hout⟩ := Dev.nakFlit_flitDir (d := s.dev.onWay k b dir seq) (k := k) (b := b) (dir := dir)
  rw [sent.expected, ← hseq] at hexp hout
  rw [sent.fails] at hfails
  rw [sent.out] at hout
  refine completes_of_eq (exec_flitReceive_bad hup hseq hholds) ⟨hexp, hdisc, hfails, hout, fun h => ?_⟩
  rw [← sent.fails] at h
  rw [← sent.now]
  exact Dev.nakFlit_eighth h

/-! ### Replay (R18) -/

theorem foldl_emit {α : Type} (g : α → Output) (l : List α) (d : Dev) :
    l.foldl (fun (d : Dev) i => d.emit (g i)) d = { d with out := (l.map g).reverse ++ d.out } := by
  induction l generalizing d with
  | nil => rfl
  | cons x l ih =>
    rw [List.foldl_cons, ih]
    simp only [Dev.emit, List.map_cons, List.reverse_cons, List.append_assoc, List.cons_append, List.nil_append]

/-- The flits of a replay from `a`, newest first. -/
def Dev.replayed (d : Dev) (k b dir a : Nat) : List Output :=
  ((List.range (min 512 (((d.flitDir k b dir).next + 4096 - a) % 4096))).map
    (fun i => Output.flit k b dir ((a + i) % 4096))).reverse

theorem Dev.replay_out {k b dir a : Nat} : (d.replay k b dir a).out = d.replayed k b dir a ++ d.out ∧
    (d.replay k b dir a).flits = d.flits := by
  unfold Dev.replay
  rw [foldl_emit]
  exact ⟨rfl, rfl⟩

/-- A NAK naming a flit of the retry buffer, and an acknowledgement that stays out, make the sender replay. -/
theorem nakReplay_completes {k : Link} {b : Fin 10} {dir : Fin 2} {seq : Fin 4096} {s : State}
    (hup : s.dev.bundleUp k b = true) (hholds : (s.dev.flitDir k b dir).holds seq = true) :
    Completes (.nakReplay k b dir seq) s fun t =>
      t.out = s.dev.replayed k b dir seq ++ s.dev.out ∧ t.flits = s.dev.flits := by
  refine completes_of_eq (t := s.dev.replay k b dir seq) ?_ Dev.replay_out
  simp only [exec_nakReplay, execNakReplay, State.run_eq, hup, hholds, and_self, if_true, State.on]

theorem ackTimeoutReplay_completes {k : Link} {b : Fin 10} {dir : Fin 2} {s : State} (hup : s.dev.bundleUp k b = true)
    (hne : (s.dev.flitDir k b dir).oldest ≠ (s.dev.flitDir k b dir).next) :
    Completes (.ackTimeoutReplay k b dir) s fun t =>
      t.out = s.dev.replayed k b dir (s.dev.flitDir k b dir).oldest ++ s.dev.out ∧ t.flits = s.dev.flits := by
  refine completes_of_eq (t := s.dev.replay k b dir (s.dev.flitDir k b dir).oldest) ?_ Dev.replay_out
  simp only [exec_ackTimeoutReplay, execAckTimeoutReplay, State.run_eq, hup, ne_eq, hne, not_false_eq_true, and_self,
    if_true, State.on]

end

end Sys2Proof.Machine
end

