-- ==== Sys2Proof/Proofs/LinkWires.lean ====
section
/-! The wires of a die-to-die link: the end of a diagnosis (R19, R20) and the retraining of a wire (R145 to R147). -/

namespace Sys2Proof.Machine

section
variable {d : Dev}

@[simp] theorem Dev.wireSt_setWire_same {k : Nat} {w : WireSt} : (d.setWire k w).wireSt k = w := Map.get_set_same _ _ _ _

/-! ### A spare takes over (R19) -/

/-- The wires out of use and the spares in service stay, and so do the flits, when a retraining ends without result. -/
theorem Dev.endWireRetrain_keeps {k no : Nat} : ((d.endWireRetrain k no).wireSt k).dead = (d.wireSt k).dead ∧
    ((d.endWireRetrain k no).wireSt k).inService = (d.wireSt k).inService ∧ (d.endWireRetrain k no).flits = d.flits := by
  have ended {w : WireSt} {v : Nat} : ((d.setWire k w).set1 .HLT_D2D_STATUS_RETRAINING k v).wireSt k = w :=
    Dev.wireSt_setWire_same
  unfold Dev.endWireRetrain
  dsimp only
  split
  · exact ⟨rfl, rfl, rfl⟩
  · split
    · rw [ended]
      exact ⟨rfl, rfl, rfl⟩
    · exact ⟨rfl, rfl, rfl⟩

theorem Dev.useSpare_keeps {k b dir : Nat} : (d.useSpare k b dir).wires = d.wires ∧ (d.useSpare k b dir).flits = d.flits := by
  unfold Dev.useSpare
  generalize (if dir = 0 then Field.HLT_D2D_SPARE_OUT_USED else .HLT_D2D_SPARE_IN_USED) = f
  dsimp only
  split
  · exact ⟨rfl, rfl⟩
  · exact ⟨rfl, rfl⟩

/-- What follows a replacement: the spare is counted and recorded, and AUTUMN follows. -/
def Dev.tellSpared (d : Dev) (k b dir w s : Nat) : Dev :=
  ((((d.useSpare k b dir).satInc .HLT_D2D_REPAIR k 0 1).record .D2D_WIRE_SPARED 6 k
    (payloadOf [(1, k), (1, b), (1, dir), (1, w), (1, s)])).dieFault (linkDie k)).autumn .HLT_AUTUMN_CAUSE_SPARE .D2D_WIRE_SPARED

theorem Dev.tellSpared_keeps {k b dir w s : Nat} : (d.tellSpared k b dir w s).wires = d.wires ∧
    (d.tellSpared k b dir w s).flits = d.flits := by
  have autumn {e : Dev} {c : EvCode} : (e.autumn .HLT_AUTUMN_CAUSE_SPARE c).autumnView = e.autumnView :=
    (Dev.autumnal_autumn (by decide)).view
  have fault {e : Dev} : (e.dieFault (linkDie k)).quietView = e.quietView := Dev.keeps_dieFault.view
  have wires {e : Dev} {c : EvCode} : ((e.dieFault (linkDie k)).autumn .HLT_AUTUMN_CAUSE_SPARE c).wires = e.wires :=
    (congrArg (fun x => x.1) autumn).trans (congrArg (fun x => x.1) fault)
  have flits {e : Dev} {c : EvCode} : ((e.dieFault (linkDie k)).autumn .HLT_AUTUMN_CAUSE_SPARE c).flits = e.flits :=
    (congrArg (fun x => x.2.1) autumn).trans (congrArg (fun x => x.2.1) fault)
  unfold Dev.tellSpared
  rw [wires, flits, Dev.record_wires, Dev.record_flits, Dev.satInc_wires, Dev.satInc_flits]
  exact Dev.useSpare_keeps

/-- A wire is out of use and a spare is in service. -/
def Dev.swapWire (d : Dev) (k no sp : Nat) : Dev :=
  d.setWire k { d.wireSt k with
    dead := no :: (d.wireSt k).dead, inService := sp :: (d.wireSt k).inService.erase no }

theorem Dev.spareWire_keeps {k b dir w s : Nat} :
    ((d.spareWire k b dir w s).wireSt k).dead = wireNo b dir w :: (d.wireSt k).dead ∧
    ((d.spareWire k b dir w s).wireSt k).inService = wireNo b dir s :: (d.wireSt k).inService.erase (wireNo b dir w) ∧
    (d.spareWire k b dir w s).flits = d.flits := by
  obtain ⟨dead, service, flits⟩ := Dev.endWireRetrain_keeps (d := d) (k := k) (no := wireNo b dir w)
  obtain ⟨dead', service', flits'⟩ :=
    Dev.endWireRetrain_keeps (d := d.endWireRetrain k (wireNo b dir w)) (k := k) (no := wireNo b dir s)
  have tells : d.spareWire k b dir w s = (((d.endWireRetrain k (wireNo b dir w)).endWireRetrain k
    (wireNo b dir s)).swapWire k (wireNo b dir w) (wireNo b dir s)).tellSpared k b dir w s := rfl
  have told {e : Dev} : (e.tellSpared k b dir w s).wireSt k = e.wireSt k :=
    congrArg (fun m => Map.get WireSt.reset m k) Dev.tellSpared_keeps.1
  rw [tells, told, Dev.tellSpared_keeps.2]
  unfold Dev.swapWire
  rw [Dev.wireSt_setWire_same]
  exact ⟨by rw [dead', dead], by rw [service', service], flits'.trans flits⟩

/-- One failing wire that is in use: a free spare takes over, or none is left. -/
theorem Dev.repairWires_single {k b dir w : Nat} (hw : w < 64) (hdead : wireNo b dir w ∉ (d.wireSt k).dead) :
    d.repairWires k b dir [w] = match d.freeSpare k b dir with
      | some s => (d.spareWire k b dir w s, true)
      | none => (d, false) := by
  have low : ¬(64 ≤ w ∧ wireNo b dir w ∉ (d.wireSt k).inService) := fun h => absurd h.1 (Nat.not_le.2 hw)
  cases hfree : d.freeSpare k b dir with
  | some s => simp only [Dev.repairWires, hdead, low, if_false, hfree]
  | none => simp only [Dev.repairWires, hdead, low, if_false, hfree]

/-! ### The end of a diagnosis (R19, R20) -/

/-- A bundle direction starts afresh. -/
def Dev.clearDir (d : Dev) (k b dir : Nat) : Dev := d.setFlitDir k b dir { d.flitDir k b dir with fails := 0, diag := none }

/-- The bundle rejoins the rotation; DIAG falls with the last diagnosis of the link. -/
def Dev.rejoin (d : Dev) (k b : Nat) : Dev :=
  let e := (d.clearDir k b 0).clearDir k b 1
  if (List.range 10).any (fun c => (e.flitDir k c 0).diag.isSome || (e.flitDir k c 1).diag.isSome) then e
  else e.set1 .HLT_D2D_STATUS_DIAG k 0

theorem Dev.rejoin_wires {k b : Nat} : (d.rejoin k b).wires = d.wires := by
  unfold Dev.rejoin
  dsimp only
  split
  · rfl
  · rfl

theorem Dev.rejoin_flits {k b : Nat} : (d.rejoin k b).flits = ((d.clearDir k b 0).clearDir k b 1).flits := by
  unfold Dev.rejoin
  dsimp only
  split
  · rfl
  · rfl

theorem Dev.rejoin_clear {k b : Nat} : ((d.rejoin k b).flitDir k b 0).diag = none ∧ ((d.rejoin k b).flitDir k b 0).fails = 0 ∧
    ((d.rejoin k b).flitDir k b 1).diag = none ∧ ((d.rejoin k b).flitDir k b 1).fails = 0 := by
  have rejoined (dir : Nat) : (d.rejoin k b).flitDir k b dir = ((d.clearDir k b 0).clearDir k b 1).flitDir k b dir :=
    congrArg (fun m => Map.get FlitDir.reset m (k3 k b dir)) Dev.rejoin_flits
  rw [rejoined, rejoined]
  unfold Dev.clearDir
  rw [Dev.flitDir_setFlitDir_other (dir := 1) (by omega)]
  simp only [Dev.flitDir_setFlitDir_same, and_self]

/-- The failing wires of a direction, the lowest first. -/
def lowsFirst (l : List (Fin 66)) : List Nat := (List.range 66).filter (fun w => l.any (fun x => x.val == w))

theorem lowsFirst_nil : lowsFirst [] = [] := by
  simp only [lowsFirst, List.any_nil, List.filter_false]

theorem lowsFirst_single {w : Fin 66} : lowsFirst [w] = [w.val] := by
  revert w
  decide

/-- The end of a diagnosis: the wires out, then the wires in are repaired, and the bundle rejoins or the link fails. -/
theorem execBundleDiagnosisDone_eq {k : Link} {b : Fin 10} {out inn : List (Fin 66)} {clears : Bool} {s : State} :
    execBundleDiagnosisDone k b out inn clears s = s.run fun d =>
      let due (dir : Nat) : Bool := (d.flitDir k b dir).diag.any (fun t => decide (t + tUs ≤ d.now))
      let r0 := d.repairWires k b 0 (lowsFirst out)
      let r1 := if r0.2 then r0.1.repairWires k b 1 (lowsFirst inn) else r0
      if !(due 0 || due 1) then d else if r1.2 ∧ clears then r1.1.rejoin k b else r1.1.failLink k := rfl

/-- The device after a diagnosis that finds failing wires on their way out alone. -/
def diagnosed (k b : Nat) (r : Dev × Bool) : Dev := if r.2 then r.1.rejoin k b else r.1.failLink k

theorem diagnosed_true {k b : Nat} : diagnosed k b (d, true) = d.rejoin k b := if_pos rfl

theorem diagnosed_false {k b : Nat} : diagnosed k b (d, false) = d.failLink k := if_neg Bool.false_ne_true

theorem exec_bundleDiagnosisDone_out {k : Link} {b : Fin 10} {bad : List (Fin 66)} {a : Nat} {s : State}
    (hdiag : (s.dev.flitDir k b 0).diag = some a) (hdue : a + tUs ≤ s.dev.now) :
    exec (.bundleDiagnosisDone k b bad [] true) s =
      .next (s.on (diagnosed k b (s.dev.repairWires k b 0 (lowsFirst bad)))) := by
  rw [exec_bundleDiagnosisDone, execBundleDiagnosisDone_eq, lowsFirst_nil]
  generalize lowsFirst bad = l
  simp only [State.run_eq, hdiag, Option.any_some, hdue, decide_true, Bool.true_or, Bool.not_true, Bool.false_eq_true,
    if_false, and_true, diagnosed]
  cases h : (s.dev.repairWires k b 0 l).2 with
  | false => simp only [h, Bool.false_eq_true, if_false, State.on]
  | true => simp only [if_true, Dev.repairWires, State.on]

/-- A link that had not failed is FAILED, and WINTER has its cause. -/
theorem Dev.failLink_first {k : Nat} (h : d.linkFailed k = false) : (d.failLink k).f1 .HLT_D2D_STATUS_STATE k = 3 ∧
    (d.failLink k).health = 3 ∧ (d.failLink k).b0 .HLT_CAUSE_D2D_LINK = true := by
  have shown : ((d.set1 .HLT_D2D_STATUS_STATE k 3).set1 .HLT_D2D_STATUS_DIAG k 0).f1 .HLT_D2D_STATUS_STATE k = 3 :=
    (Dev.fld_setFld_id _ _ _ _ _ _ _ _ (by decide)).trans (Dev.f1_set1_same _ _ _ _)
  unfold Dev.failLink
  simp only [h, Bool.false_eq_true, if_false]
  refine ⟨?_, Dev.health_winterCause (by decide), Dev.winterCause_set (by decide) (by decide)⟩
  calc
    _ = _ := Dev.winterCause_fld (by decide) (by decide)
    _ = _ := Dev.keeps_dieFault.fld _ _ _ (by decide)
    _ = _ := Dev.quiet_record.fld _ _ _ (by decide)
    _ = 3 := shown

/-- No failing wire: the bundle rejoins at once. -/
theorem diagnosis_clean {k : Link} {b : Fin 10} {a : Nat} {s : State} (hdiag : (s.dev.flitDir k b 0).diag = some a)
    (hdue : a + tUs ≤ s.dev.now) :
    Completes (.bundleDiagnosisDone k b [] [] true) s fun t => (t.flitDir k b 0).diag = none ∧ (t.flitDir k b 0).fails = 0 ∧
      (t.flitDir k b 1).diag = none ∧ (t.flitDir k b 1).fails = 0 ∧ t.wires = s.dev.wires := by
  have clean : diagnosed k b (s.dev.repairWires k b 0 (lowsFirst [])) = s.dev.rejoin k b := by
    rw [lowsFirst_nil, Dev.repairWires, diagnosed_true]
  obtain ⟨diag0, fails0, diag1, fails1⟩ := Dev.rejoin_clear (d := s.dev) (k := k) (b := b)
  exact completes_of_eq ((exec_bundleDiagnosisDone_out hdiag hdue).trans (by rw [clean]))
    ⟨diag0, fails0, diag1, fails1, Dev.rejoin_wires⟩

section
variable {k : Link} {b : Fin 10} {w : Fin 64} {a : Nat} {s : State}

/-- One failing wire: a free spare takes its place. -/
theorem diagnosis_spares {sp : Nat} (hdiag : (s.dev.flitDir k b 0).diag = some a) (hdue : a + tUs ≤ s.dev.now)
    (hdead : wireNo b 0 w ∉ (s.dev.wireSt k).dead) (hfree : s.dev.freeSpare k b 0 = some sp) :
    Completes (.bundleDiagnosisDone k b [⟨w, by omega⟩] [] true) s fun t => (t.flitDir k b 0).diag = none ∧
      (t.wireSt k).dead = wireNo b 0 w :: (s.dev.wireSt k).dead ∧
      (t.wireSt k).inService = wireNo b 0 sp :: (s.dev.wireSt k).inService.erase (wireNo b 0 w) := by
  have repaired : s.dev.repairWires k b 0 (lowsFirst [⟨w, by omega⟩]) = (s.dev.spareWire k b 0 w sp, true) := by
    rw [lowsFirst_single, Dev.repairWires_single w.isLt hdead, hfree]
  obtain ⟨dead, service, -⟩ := Dev.spareWire_keeps (d := s.dev) (k := k) (b := b) (dir := 0) (w := w) (s := sp)
  have wires : ((s.dev.spareWire k b 0 w sp).rejoin k b).wireSt k = (s.dev.spareWire k b 0 w sp).wireSt k :=
    congrArg (fun m => Map.get WireSt.reset m k) Dev.rejoin_wires
  refine completes_of_eq ((exec_bundleDiagnosisDone_out hdiag hdue).trans (by rw [repaired, diagnosed_true]))
    (t := (s.dev.spareWire k b 0 w sp).rejoin k b) ⟨Dev.rejoin_clear.1, ?_, ?_⟩
  · rw [wires, dead]
  · rw [wires, service]

/-- One failing wire and no spare left: the link fails. -/
theorem diagnosis_fails (hdiag : (s.dev.flitDir k b 0).diag = some a) (hdue : a + tUs ≤ s.dev.now)
    (hdead : wireNo b 0 w ∉ (s.dev.wireSt k).dead) (hfree : s.dev.freeSpare k b 0 = none) (hlink : s.dev.linkFailed k = false) :
    Completes (.bundleDiagnosisDone k b [⟨w, by omega⟩] [] true) s fun t => t.f1 .HLT_D2D_STATUS_STATE k = 3 ∧
      t.health = 3 ∧ t.b0 .HLT_CAUSE_D2D_LINK = true := by
  have unrepaired : s.dev.repairWires k b 0 (lowsFirst [⟨w, by omega⟩]) = (s.dev, false) := by
    rw [lowsFirst_single, Dev.repairWires_single w.isLt hdead, hfree]
  exact completes_of_eq ((exec_bundleDiagnosisDone_out hdiag hdue).trans (by rw [unrepaired, diagnosed_false])) (Dev.failLink_first hlink)

end

/-! ### Retraining (R145 to R147) -/

/-- The wire state once the retraining of the next wire has been considered. -/
def Dev.nextWire (d : Dev) (k : Nat) : WireSt :=
  { d.wireSt k with
    next := ((d.wireSt k).next + 1) % (132 * linkBundles k), nextAt := d.now + 20 * tMs, again := false }

/-- The next wire is steered onto a free spare. -/
theorem retrainStart_steers {k : Link} {sp : Nat} {s : State} (hwire : (s.dev.wireSt k).wire = none)
    (hat : (s.dev.wireSt k).nextAt ≤ s.dev.now) (hstate : s.dev.f1 .HLT_D2D_STATUS_STATE k = 2)
    (hdead : (s.dev.wireSt k).next ∉ (s.dev.wireSt k).dead) (hlow : (s.dev.wireSt k).next % 66 < 64)
    (hfree : s.dev.freeSpare k ((s.dev.wireSt k).next / 132) ((s.dev.wireSt k).next / 66 % 2) = some sp) :
    Completes (.d2dWireRetrainStart k) s fun t =>
      (t.wireSt k).wire = some ((s.dev.wireSt k).next, some sp) ∧ (t.wireSt k).nextAt = s.dev.now + 20 * tMs ∧
      (t.wireSt k).next = ((s.dev.wireSt k).next + 1) % (132 * linkBundles k) ∧ t.f1 .HLT_D2D_STATUS_RETRAINING k = 1 := by
  have steered : ((s.dev.setWire k { s.dev.nextWire k with wire := some ((s.dev.wireSt k).next, some sp) }).set1
      .HLT_D2D_STATUS_RETRAINING k 1).wireSt k = { s.dev.nextWire k with wire := some ((s.dev.wireSt k).next, some sp) } :=
    Dev.wireSt_setWire_same
  refine completes_of_eq (t := (s.dev.setWire k
    { s.dev.nextWire k with wire := some ((s.dev.wireSt k).next, some sp) }).set1 .HLT_D2D_STATUS_RETRAINING k 1) ?_ ?_
  · simp only [exec_d2dWireRetrainStart, execD2dWireRetrainStart, State.run_eq, hwire, Option.isSome_none, Bool.false_eq_true,
      Nat.not_lt.2 hat, hstate, ne_eq, not_true_eq_false, or_self, hdead, Nat.not_le.2 hlow, false_and, if_false, hfree,
      State.on, Dev.nextWire]
  · rw [steered]
    exact ⟨rfl, rfl, rfl, Dev.f1_set1_same _ _ _ _⟩

section
variable {k : Link} {x : Nat × Option Nat} {s : State}

/-- The margins are met: the wire comes back, and nothing is recorded. -/
theorem retrainDone_met (hwire : (s.dev.wireSt k).wire = some x) :
    Completes (.d2dWireRetrainDone k true) s fun t => (t.wireSt k).wire = none ∧ (t.wireSt k).out = none ∧
      t.f1 .HLT_D2D_STATUS_RETRAINING k = 0 ∧ t.evr = s.dev.evr := by
  have back : ((s.dev.setWire k { s.dev.wireSt k with wire := none, again := false, out := none }).set1
      .HLT_D2D_STATUS_RETRAINING k 0).wireSt k = { s.dev.wireSt k with wire := none, again := false, out := none } :=
    Dev.wireSt_setWire_same
  refine completes_of_eq (t := (s.dev.setWire k { s.dev.wireSt k with wire := none, again := false, out := none }).set1
    .HLT_D2D_STATUS_RETRAINING k 0) ?_ ?_
  · simp only [exec_d2dWireRetrainDone, execD2dWireRetrainDone, State.run_eq, hwire, if_true, State.on]
  · rw [back]
    exact ⟨rfl, rfl, Dev.f1_set1_same _ _ _ _, rfl⟩

/-- A first miss: the retraining goes on. -/
theorem retrainDone_missed (hwire : (s.dev.wireSt k).wire = some x) (hagain : (s.dev.wireSt k).again = false) :
    Completes (.d2dWireRetrainDone k false) s fun t => (t.wireSt k).again = true ∧ (t.wireSt k).wire = some x ∧
      t.flds = s.dev.flds := by
  refine completes_of_eq (t := s.dev.setWire k { s.dev.wireSt k with again := true }) ?_ ?_
  · simp only [exec_d2dWireRetrainDone, execD2dWireRetrainDone, State.run_eq, hwire, hagain, Bool.not_false,
      Bool.false_eq_true, if_false, if_true, State.on]
  · rw [Dev.wireSt_setWire_same]
    exact ⟨rfl, hwire, rfl⟩

end

end

end Sys2Proof.Machine
end

