-- ==== Sys2Proof/Proofs/DieLinks.lean ====
section
/-! O27: flits are delivered or replayed, and link wires are spared and retrained. -/

namespace Sys2Proof.Machine

/-- Settles O27: a flit that is on its way meets the receiver in the order of sending, and each end of a diagnosis or of a
retraining is one branch of its rule. -/
theorem dieLinks : Obligations.DieLinks := by
  unfold Obligations.DieLinks
  refine ⟨⟨?good, ?bad, ?nak, ?timeout⟩, ?clean, ?spares, ?fails, ?start, ?met, ?missed⟩
  case good => exact fun _ _ _ _ _ _ ⟨hup, hseq, hholds⟩ => flitReceive_good hup hseq hholds
  case bad => exact fun _ _ _ _ _ _ ⟨hup, hseq, hholds⟩ => flitReceive_bad hup hseq hholds
  case nak => exact fun _ _ _ _ _ hup hin => nakReplay_completes hup (decide_eq_true hin)
  case timeout => exact fun _ _ _ _ hup hne => ackTimeoutReplay_completes hup hne
  case clean => exact fun _ _ _ _ hdiag hdue => diagnosis_clean hdiag hdue
  case spares => exact fun _ _ _ _ _ _ hdiag hdue hdead hfree => diagnosis_spares hdiag hdue hdead hfree
  case fails => exact fun _ _ _ _ _ hdiag hdue hdead hfree hlink => diagnosis_fails hdiag hdue hdead hfree hlink
  case start => exact fun _ _ _ hwire hat hstate hdead hlow hfree => retrainStart_steers hwire hat hstate hdead hlow hfree
  case met => exact fun _ _ _ hwire => retrainDone_met hwire
  case missed => exact fun _ _ _ hwire hagain => retrainDone_missed hwire hagain

end Sys2Proof.Machine
end

