-- ==== Sys2Proof/Proofs/LoaderState.lean ====
section
/-! What leaves the loader, the boot state and the time alone: frames that end or move, messages, ports and regions that leave
service or start, a new health state, a device that quiesces (R68, R76, R104, R273, R397, R400). -/

namespace Sys2Proof.Machine

/-- The loader's state, the boot state and the time stand from one device to the other. -/
structure Dev.Aside (d e : Dev) : Prop where
  img : e.img = d.img
  boot : e.boot = d.boot
  now : e.now = d.now

namespace Dev.Aside

variable {d e g : Dev}

theorem refl (d : Dev) : d.Aside d := ⟨rfl, rfl, rfl⟩

theorem trans (h : d.Aside e) (k : e.Aside g) : d.Aside g :=
  ⟨k.img.trans h.img, k.boot.trans h.boot, k.now.trans h.now⟩

theorem ite {c : Prop} [Decidable c] (h : d.Aside e) (k : d.Aside g) : d.Aside (if c then e else g) := by
  split
  · exact h
  · exact k

theorem foldl {τ : Type} {f : Dev → τ → Dev} (h : ∀ (e : Dev) x, e.Aside (f e x)) (l : List τ) (d : Dev) :
    d.Aside (l.foldl f d) := by
  induction l generalizing d with
  | nil => exact refl d
  | cons x l ih => exact (h d x).trans (ih _)

/-- A fold that carries more than the device. -/
theorem foldl_fst {σ τ : Type} {f : Dev × σ → τ → Dev × σ} (h : ∀ (a : Dev × σ) x, a.1.Aside (f a x).1) (l : List τ)
    (a : Dev × σ) : a.1.Aside (l.foldl f a).1 := by
  induction l generalizing a with
  | nil => exact refl a.1
  | cons x l ih => exact (h a x).trans (ih _)

end Dev.Aside

section
variable {d : Dev}

/-! ### Fields, reports and tables -/

theorem Dev.Reports.aside {e : Dev} (h : d.Reports e) : d.Aside e := ⟨h.img, h.boot, h.now⟩

theorem Dev.aside_setFld {f : Field} {i j v : Nat} : d.Aside (d.setFld f i j v) := ⟨rfl, rfl, rfl⟩

theorem Dev.aside_setCtr {c : Ctr} {i v : Nat} : d.Aside (d.setCtr c i v) := ⟨rfl, rfl, rfl⟩

theorem Dev.aside_raise {s : Nat} : d.Aside (d.raise s) := (Dev.reports_raise d s).aside

theorem Dev.aside_doorbell {b : Nat} : d.Aside (d.doorbell b) := (Dev.reports_doorbell d b).aside

theorem Dev.aside_record {c : EvCode} {k i : Nat} {p : Bytes} : d.Aside (d.record c k i p) := (Dev.reports_record d c k i p).aside

theorem Dev.aside_recordLimited {c : EvCode} {t n k i : Nat} {p : Bytes} : d.Aside (d.recordLimited c t n k i p) :=
  (Dev.reports_recordLimited d c t n k i p).aside

theorem Dev.aside_recordCounted {c : EvCode} {t n k i : Nat} {fs : Nat → List (Nat × Nat)} :
    d.Aside (d.recordCounted c t n k i fs) := (Dev.reports_recordCounted d c t n k i fs).aside

theorem Dev.aside_perf {m ev q v : Nat} : d.Aside (d.perf m ev q v) := (Dev.reports_perf d m ev q v).aside

theorem Dev.aside_emit {o : Output} : d.Aside (d.emit o) := ⟨rfl, rfl, rfl⟩

theorem Dev.aside_mac {m : Map MacSt} : d.Aside { d with mac := m } := ⟨rfl, rfl, rfl⟩

theorem Dev.aside_buf {b : BufSt} : d.Aside { d with buf := b } := ⟨rfl, rfl, rfl⟩

theorem Dev.aside_hld {h : HldSt} : d.Aside { d with hld := h } := ⟨rfl, rfl, rfl⟩

theorem Dev.aside_fab {x : FabSt} : d.Aside { d with fab := x } := ⟨rfl, rfl, rfl⟩

theorem Dev.aside_pair {x : PairSt} : d.Aside { d with pair := x } := ⟨rfl, rfl, rfl⟩

theorem Dev.aside_pmc {x : PmcSt} : d.Aside { d with pmc := x } := ⟨rfl, rfl, rfl⟩

theorem Dev.aside_mbx {x : MbxSt} : d.Aside { d with mbx := x } := ⟨rfl, rfl, rfl⟩

theorem Dev.aside_draw : d.Aside d.draw.2 := ⟨rfl, rfl, rfl⟩

/-! ### Frames a port sends, and the references to their cells -/

theorem Dev.aside_macCountN {c : Ctr} {p n : Nat} : d.Aside (d.macCountN c p n) :=
  .ite (.refl d) (.ite (Dev.aside_setCtr.trans Dev.aside_raise) Dev.aside_setCtr)

theorem Dev.aside_macCount {c : Ctr} {p : Nat} : d.Aside (d.macCount c p) := Dev.aside_macCountN

theorem Dev.aside_noteSent {p len kind : Nat} : d.Aside (d.noteSent p len kind) := by
  unfold Dev.noteSent
  exact ((((Dev.aside_macCountN.trans Dev.aside_macCount).trans Dev.aside_macCount).trans Dev.aside_macCount).trans
    Dev.aside_pmc).trans Dev.aside_mac

theorem Dev.aside_sendPause {p c quanta : Nat} : d.Aside (d.sendPause p c quanta) :=
  .ite (.refl d) (.ite
    ((Dev.aside_noteSent.trans Dev.aside_emit).trans (.foldl (fun _ _ => .ite Dev.aside_macCount (.refl _)) _ _))
    (.ite ((Dev.aside_noteSent.trans Dev.aside_emit).trans Dev.aside_macCount) (.refl d)))

theorem Dev.aside_checkXoff {p c : Nat} : d.Aside (d.checkXoff p c) := by
  unfold Dev.checkXoff
  exact .ite (((Dev.aside_setFld.trans Dev.aside_setCtr).trans Dev.aside_mac).trans Dev.aside_sendPause) (.refl d)

theorem Dev.aside_checkXon {p c : Nat} : d.Aside (d.checkXon p c) :=
  .ite ((Dev.aside_setFld.trans Dev.aside_mac).trans Dev.aside_sendPause) (.refl d)

theorem Dev.aside_freeRequest {id by_ : Nat} : d.Aside (d.freeRequest id by_) := by
  unfold Dev.freeRequest
  split
  · exact .refl d
  · exact .ite (Dev.aside_buf.trans Dev.aside_checkXon) (Dev.aside_setCtr.trans Dev.aside_record)

theorem Dev.aside_dropRef {id port : Nat} : d.Aside (d.dropRef id port) := by
  unfold Dev.dropRef
  split
  · exact .refl d
  · exact .ite Dev.aside_buf Dev.aside_buf

theorem Dev.aside_release {id port : Nat} : d.Aside (d.release id port) :=
  .ite (Dev.aside_dropRef.trans Dev.aside_freeRequest) Dev.aside_dropRef

theorem Dev.aside_startWake {p : Nat} : d.Aside (d.startWake p) := .ite Dev.aside_mac (.refl d)

theorem Dev.aside_startFrom {p fuel : Nat} : d.Aside (Dev.startFrom p fuel d) := by
  induction fuel generalizing d with
  | zero => exact .refl d
  | succ n ih =>
    refine .ite (.refl d) ?_
    split
    · exact .refl d
    · split
      · exact .ite (((Dev.aside_buf.trans Dev.aside_macCount).trans Dev.aside_release).trans ih)
          (Dev.aside_buf.trans Dev.aside_buf)
      · exact Dev.aside_mac
      · exact .refl d

theorem Dev.aside_sendMsg {p proto type len : Nat} {fields : List Nat} : d.Aside (d.sendMsg p proto type len fields) := by
  unfold Dev.sendMsg
  exact .ite ((Dev.aside_mac.trans Dev.aside_startWake).trans Dev.aside_startFrom) (.refl d)

/-! ### Messages for the host and the fabric -/

theorem Dev.aside_noteLost {m dir seq : Nat} : d.Aside (d.noteLost m dir seq) := by
  unfold Dev.noteLost
  exact Dev.aside_mbx.trans Dev.aside_doorbell

theorem Dev.aside_f2hPost {m : Nat} {msg : Msg} : d.Aside (d.f2hPost m msg) := by
  unfold Dev.f2hPost
  exact .ite (Dev.aside_mbx.trans Dev.aside_setFld)
    (((Dev.aside_setFld (f := .MBX_F2H_STATUS_LOST_COUNT)).trans Dev.aside_setCtr).trans Dev.aside_noteLost)

theorem Dev.aside_notice {opcode : Nat} {payload : List Nat} : d.Aside (d.notice opcode payload) := by
  unfold Dev.notice
  exact Dev.aside_mbx.trans Dev.aside_f2hPost

theorem Dev.aside_fabControl {p type len : Nat} {fields : List Nat} : d.Aside (d.fabControl p type len fields) := by
  unfold Dev.fabControl
  exact Dev.aside_fab.trans Dev.aside_sendMsg

theorem Dev.aside_floodNotice {code : Nat} : d.Aside (d.floodNotice code) :=
  .foldl (fun _ _ => .ite Dev.aside_fabControl (.refl _)) _ _

/-! ### A new health state (R397) -/

theorem Dev.aside_setHealth {st code : Nat} : d.Aside (d.setHealth st code) := by
  have shown : d.Aside (((d.set0 .HLT_STATE_PREV d.health).set0 .HLT_STATE_STATE st).set0 .HLT_STATE_SECS (d.opMs / 1000)) :=
    ⟨rfl, rfl, rfl⟩
  exact ((shown.trans Dev.aside_doorbell).trans Dev.aside_notice).trans Dev.aside_raise

theorem Dev.aside_enterAutumn {code : Nat} : d.Aside (d.enterAutumn code) := by
  have told {x : Pins} {y : FabSt} : d.Aside { d with pins := x, fab := y } := ⟨rfl, rfl, rfl⟩
  exact ((told.trans Dev.aside_setHealth).trans Dev.aside_record).trans Dev.aside_floodNotice

/-! ### Queues, and frames that pass to the hold writer (R273, R297) -/

theorem Dev.aside_enqueue {q i : Nat} {de : Desc} : d.Aside (d.enqueue q i de) := by
  have linked : d.Aside ((((({ d with buf := { d.buf with links := d.buf.links + 1 } } : Dev).setQueue q i
      (d.queue q i ++ [{ de with no := d.buf.links }])).count .QUE_ENQ_FRAMES (q * 10 + i)).perf 4 0x204 0xFF 1)) :=
    ((Dev.aside_buf.trans Dev.aside_buf).trans Dev.aside_setCtr).trans Dev.aside_perf
  exact .ite (linked.trans Dev.aside_startWake) linked

theorem Dev.aside_refuse {q i : Nat} {de : Desc} : d.Aside (d.refuse q i de) :=
  (Dev.aside_setCtr.trans Dev.aside_perf).trans Dev.aside_release

theorem Dev.aside_ecnMark {q i : Nat} {de : Desc} : d.Aside (d.ecnMark q i de).1 := by
  unfold Dev.ecnMark
  dsimp only
  split
  · exact .refl d
  · split
    · exact Dev.aside_setCtr
    · split
      · exact Dev.aside_draw.trans Dev.aside_setCtr
      · exact Dev.aside_draw

theorem Dev.aside_join {q i ing : Nat} {de : Desc} : d.Aside (d.join q i ing de).1 := by
  have copied : d.Aside (if de.copy then d.count .QUE_MC_EGRESS_DROP q else d) := .ite Dev.aside_setCtr (.refl d)
  unfold Dev.join
  dsimp only
  split
  · exact ((copied.trans Dev.aside_setCtr).trans Dev.aside_recordCounted).trans Dev.aside_refuse
  · split
    · exact (Dev.aside_ecnMark.trans Dev.aside_enqueue).trans Dev.aside_checkXoff
    · exact (copied.trans Dev.aside_setCtr).trans Dev.aside_refuse
  · exact (copied.trans Dev.aside_setCtr).trans Dev.aside_refuse

theorem Dev.aside_passToHold {h ing : Nat} {de : Desc} {head : Bool} : d.Aside (d.passToHold h ing de head).1 := by
  unfold Dev.passToHold
  dsimp only
  split
  · exact Dev.aside_join.trans Dev.aside_hld
  · exact Dev.aside_join

theorem Dev.aside_emptied {q i : Nat} : d.Aside (d.emptied q i) := .ite Dev.aside_buf (.refl d)

theorem Dev.aside_flushQueue {q i : Nat} : d.Aside (d.flushQueue q i) := by
  have gone : d.Aside (((d.setQueue q i []).countN .QUE_FLUSHED (q * 10 + i) (d.queue q i).length).emptied q i) :=
    (Dev.aside_buf.trans Dev.aside_setCtr).trans Dev.aside_emptied
  exact (Dev.Aside.ite (gone.trans Dev.aside_setCtr) gone).trans (.foldl (fun _ _ => Dev.aside_release) _ _)

theorem Dev.aside_queueToHold {q i : Nat} : d.Aside (d.queueToHold q i).1 := by
  unfold Dev.queueToHold
  refine (Dev.aside_buf.trans Dev.aside_emptied).trans (Dev.Aside.foldl_fst (fun a de => ?_) _ (_, 0, 0))
  split
  · exact Dev.aside_setCtr.trans Dev.aside_passToHold
  · exact Dev.aside_setCtr.trans Dev.aside_release

theorem Dev.aside_emptyPort {p : Nat} : d.Aside (d.emptyPort p).1 := by
  unfold Dev.emptyPort
  refine ((Dev.aside_buf.trans (Dev.Aside.foldl_fst (fun a t => ?_) _ (_, 0, 0))).trans Dev.aside_flushQueue).trans
    Dev.aside_flushQueue
  split
  · exact Dev.aside_flushQueue
  · exact .ite (Dev.aside_queueToHold.trans Dev.aside_setCtr) Dev.aside_queueToHold

theorem Dev.aside_expirePort {p : Nat} : d.Aside (d.expirePort p) :=
  (Dev.aside_emptyPort.trans Dev.aside_setCtr).trans Dev.aside_record

theorem Dev.aside_dropRecirc {n : Nat} : d.Aside (d.dropRecirc n) := by
  have flushed : d.Aside ((List.range 8).foldl (fun d t => d.flushQueue (128 + n) t) d) :=
    .foldl (fun _ _ => Dev.aside_flushQueue) _ _
  unfold Dev.dropRecirc
  dsimp only
  split
  · exact flushed
  · exact ((flushed.trans Dev.aside_buf).trans Dev.aside_setCtr).trans Dev.aside_release

/-! ### A port without its link (R103 to R105, R271) -/

theorem Dev.aside_cutFrame {p : Nat} : d.Aside (d.cutFrame p).1 := by
  unfold Dev.cutFrame
  split
  · dsimp only
    split
    · exact .refl d
    · exact (Dev.aside_pmc.trans Dev.aside_mac).trans Dev.aside_macCount
  · exact ((Dev.aside_pmc.trans Dev.aside_buf).trans Dev.aside_macCount).trans Dev.aside_emit

theorem Dev.aside_putBack {q i : Nat} {de : Desc} : d.Aside (d.putBack q i de) := Dev.aside_buf

theorem Dev.aside_returnMacq {p : Nat} : d.Aside (d.returnMacq p) := by
  refine .foldl (fun e m => ?_) _ _
  split
  · exact .refl e
  · exact Dev.aside_buf.trans Dev.aside_putBack

theorem Dev.aside_stopSending {p : Nat} : d.Aside (d.stopSending p) := by
  refine Dev.Aside.trans (Dev.Aside.trans ?_ Dev.aside_returnMacq) Dev.aside_mac
  split
  · exact Dev.aside_cutFrame
  · exact .ite (Dev.aside_cutFrame.trans Dev.aside_putBack) (Dev.aside_cutFrame.trans Dev.aside_release)

theorem Dev.aside_portDown {p hold : Nat} {up : Bool} : d.Aside (d.portDown p hold up) := by
  unfold Dev.portDown
  exact .ite (Dev.aside_stopSending.trans Dev.aside_buf) (.ite Dev.aside_stopSending
    (.ite (Dev.aside_stopSending.trans Dev.aside_expirePort) (Dev.aside_stopSending.trans Dev.aside_emptyPort)))

theorem Dev.aside_adjGo {p st cause : Nat} : d.Aside (d.adjGo p st cause) := by
  have moved : d.Aside (d.set1 .FAB_ADJ_STATE p st) := Dev.aside_setFld
  have told {c : EvCode} {l : Bytes} {x : FabSt} :
      d.Aside { (d.set1 .FAB_ADJ_STATE p st).record c 1 p l with fab := x } :=
    (moved.trans Dev.aside_record).trans Dev.aside_fab
  unfold Dev.adjGo
  refine Dev.Aside.trans (Dev.Aside.trans ?_ Dev.aside_setFld) Dev.aside_raise
  split
  · exact .ite told (.ite told moved)
  · exact Dev.Aside.trans (.ite told (.ite told moved)) Dev.aside_setFld

theorem Dev.aside_adjDown {p cause : Nat} : d.Aside (d.adjDown p cause) := by
  have port {e : Dev} : e.Aside ((e.set1 .FAB_ADJ_NEIGH_DEV p 0).set1 .FAB_ADJ_NEIGH_PORT p 0) := ⟨rfl, rfl, rfl⟩
  exact .ite (.refl d) ((Dev.aside_adjGo.trans Dev.aside_fab).trans port)

theorem Dev.aside_abandonTurn {c reason : Nat} : d.Aside (d.abandonTurn c reason) := by
  have detached {l : Nat} : d.Aside ((d.detach c).satInc .LANE_ABANDONED l 0 1) := ⟨rfl, rfl, rfl⟩
  exact .ite (detached.trans Dev.aside_recordLimited) (.refl d)

theorem Dev.aside_abandonPortTurn {p reason : Nat} : d.Aside (d.abandonPortTurn p reason) :=
  .ite Dev.aside_abandonTurn (.refl d)

theorem Dev.aside_flapCheck {p : Nat} : d.Aside (d.flapCheck p) := by
  have held {e : Dev} : e.Aside ((e.dropAn p).set1 .MAC_STATUS_FLAP_ISOLATED p 1) := ⟨rfl, rfl, rfl⟩
  unfold Dev.flapCheck
  exact .ite ((Dev.aside_mac.trans held).trans Dev.aside_recordLimited) (.refl d)

theorem Dev.aside_linkDown {p hold : Nat} {cause : DownCause} : d.Aside (d.linkDown p cause hold) := by
  have dark : d.Aside (d.set1 .MAC_STATUS_LINK_UP p 0) := Dev.aside_setFld
  have still {e : Dev} : e.Aside ((e.set1 .MAC_STATUS_PAUSED p 0).set1 .MAC_STATUS_TX_LPI p 0) := ⟨rfl, rfl, rfl⟩
  have down {m : MacSt} : d.Aside (((((d.set1 .MAC_STATUS_LINK_UP p 0).macCount .MAC_LINK_DOWN p).set1 .MAC_STATUS_PAUSED p
      0).set1 .MAC_STATUS_TX_LPI p 0).setMac p m) :=
    ((dark.trans Dev.aside_macCount).trans still).trans Dev.aside_mac
  unfold Dev.linkDown
  exact .ite ((((((((Dev.Aside.ite down (down.trans Dev.aside_portDown)).trans Dev.aside_adjDown).trans
    Dev.aside_fab).trans Dev.aside_pair).trans Dev.aside_abandonPortTurn).trans Dev.aside_record).trans
    Dev.aside_raise).trans Dev.aside_flapCheck) (.refl d)

/-! ### Ports that start (R66, R99) -/

theorem Dev.aside_portLimits {p : Nat} : d.Aside (d.portLimits p) := ⟨rfl, rfl, rfl⟩

theorem Dev.aside_portStart {p : Nat} : d.Aside (d.portStart p) := by
  have settled {e : Dev} {a b : Nat} {l x y : Nat} : e.Aside (((((((e.set1 .MAC_CTRL_PORT_EN p 1).set1 .MAC_CTRL_PAUSE_MODE p
      l).set1 .MAC_CTRL_RX_PAUSE_EN p 1).set1 .MAC_CTRL_TX_PAUSE_EN p 1).set1 .MAC_SA_LO p a).set1 .MAC_SA_HI p b).set1
      .MAC_EEE_STATUS_CAPABLE x y) := ⟨rfl, rfl, rfl⟩
  unfold Dev.portStart
  exact .ite (.refl d) (Dev.aside_mac.trans settled)

theorem Dev.aside_portInfo {p : Nat} : d.Aside (d.portInfo p) := by
  have shown {a b c e : Nat} : d.Aside ((((d.set1 .MAC_PORT_INFO_MODE p a).set1 .MAC_PORT_INFO_LANES p b).set1
      .MAC_PORT_INFO_FEC_ACTIVE p c).set1 .MAC_PORT_INFO_ROLE p e) := ⟨rfl, rfl, rfl⟩
  unfold Dev.portInfo
  exact .ite shown (.ite (shown.trans Dev.aside_setFld) (shown.trans Dev.aside_setFld))

/-! ### Hold queues (R296, R316) -/

theorem Dev.aside_freePages {ps : List Nat} : d.Aside (d.freePages ps) := .ite (.refl d) Dev.aside_hld

theorem Dev.aside_emptyQueue {h : Nat} {c : Ctr} {sweep : Bool} : d.Aside (d.emptyQueue h c sweep) := by
  unfold Dev.emptyQueue
  exact .ite (((Dev.aside_hld.trans Dev.aside_setCtr).trans Dev.aside_hld).trans Dev.aside_hld)
    (((Dev.aside_hld.trans Dev.aside_setCtr).trans Dev.aside_hld).trans Dev.aside_freePages)

theorem Dev.aside_holdSettle {h : Nat} : d.Aside (d.holdSettle h) := by
  unfold Dev.holdSettle
  exact .ite (((Dev.aside_hld.trans Dev.aside_freePages).trans Dev.aside_hld).trans Dev.aside_recordLimited) (.refl d)

theorem Dev.aside_dropPortHold {p : Nat} : d.Aside (d.dropPortHold p) :=
  .foldl (fun _ _ => .ite (Dev.aside_emptyQueue.trans Dev.aside_holdSettle) (.refl _)) _ _

/-! ### The device quiesces (R76, R400) -/

theorem Dev.aside_endRetrain : d.Aside d.endRetrain := by
  unfold Dev.endRetrain
  split
  · exact .refl d
  · exact (Dev.aside_hld.trans Dev.aside_setFld).trans Dev.aside_setFld

theorem Dev.aside_abortRetrain {reason : Nat} : d.Aside (d.abortRetrain reason) := by
  unfold Dev.abortRetrain
  split
  · exact .refl d
  · exact Dev.aside_endRetrain.trans Dev.aside_record

theorem Dev.aside_safeTx : d.Aside d.safeTx := by
  refine .foldl (fun e p => ?_) _ _
  refine Dev.Aside.trans ?_ Dev.aside_mac
  split
  · exact Dev.aside_cutFrame.trans Dev.aside_putBack
  · exact Dev.aside_cutFrame

theorem Dev.aside_leaseStop : d.Aside d.leaseStop := by
  have stopped {x : PairSt} : d.Aside { d with pair := x, pins := { d.pins with leaseOut := false } } := ⟨rfl, rfl, rfl⟩
  unfold Dev.leaseStop
  exact .ite (((stopped.trans Dev.aside_setFld).trans Dev.aside_setFld).trans Dev.aside_doorbell)
    (stopped.trans Dev.aside_setFld)

theorem Dev.aside_quiesce : d.Aside d.quiesce := by
  have pulses {e : Dev} : e.Aside e.pulsesLow := ⟨rfl, rfl, rfl⟩
  have frozen {e : Dev} : e.Aside ((e.set0 .BUF_STATUS_FROZEN 1).set0 .HLD_STATUS_FROZEN 1) := ⟨rfl, rfl, rfl⟩
  have lines {e : Dev} {b : BufSt} {h : HldSt} {x : Pins} : e.Aside { e with buf := b, hld := h, pins := x } := ⟨rfl, rfl, rfl⟩
  exact (((Dev.aside_safeTx.trans pulses).trans Dev.aside_leaseStop).trans frozen).trans lines

/-- A reset that begins leaves the loader's state alone (R76). -/
theorem Dev.beginReset_img {cause : Nat} : (d.beginReset cause).img = d.img := by
  unfold Dev.beginReset
  split
  · rfl
  · rw [Dev.aside_quiesce.img, Dev.aside_abortRetrain.img]

end

end Sys2Proof.Machine
end

