-- ==== Sys2Proof/Proofs/Loader.lean ====
section
/-! The loader: GO of IMG_CMD (R72, R73), the result of its command, and the states of the slots (R62, R65). -/

namespace Sys2Proof.Machine

section
variable {d : Dev}

/-! ### Operations that keep a view and all but some fields -/

theorem Dev.keeps_setFld {α : Type} {ids : List Nat} {view : Dev → α} {f : Field} {i j v : Nat} (hf : f.id ∈ ids)
    (hv : view (d.setFld f i j v) = view d) : d.Keeps ids view (d.setFld f i j v) :=
  ⟨hv, fun g a b hg => Dev.fld_setFld_id d f g i j a b v (fun e => hg (e ▸ hf))⟩

theorem Dev.Reports.keeps {α : Type} {ids : List Nat} {view : Dev → α} {e : Dev} (h : d.Reports e) (hids : reportFields ⊆ ids)
    (hv : view e = view d) : d.Keeps ids view e :=
  ⟨hv, fun f i j hf => h.fld f i j (fun hm => hf (hids hm))⟩

theorem Dev.record_f0 {c : EvCode} {k i : Nat} {p : Bytes} {f : Field} (hf : f.id ∉ reportFields) :
    (d.record c k i p).f0 f = d.f0 f := Dev.record_fld _ _ _ _ _ _ _ _ hf

theorem Dev.f0_img {x : ImgSt} {f : Field} : ({ d with img := x } : Dev).f0 f = d.f0 f := rfl

/-- The host's links are what a report leaves of the host (R96). -/
theorem Dev.Reports.hostDma {e : Dev} (h : d.Reports e) {f : Nat} : e.hostDma f = d.hostDma f := by
  have lost := congrArg HostSt.lost h.hostRest
  have d3hot := congrArg HostSt.d3hot h.hostRest
  dsimp only at lost d3hot
  rw [Dev.hostDma, lost, d3hot]
  rfl

/-! ### The result of a command (Table 2-10) -/

/-- The fields of the result. -/
def resultFields : List Nat :=
  [Field.IMG_STATUS_BUSY.id, Field.IMG_STATUS_DONE_OK.id, Field.IMG_STATUS_REASON.id, Field.IMG_STATUS_SECTION.id] ++ reportFields

@[simp] theorem Dev.imgEnd_img {reason sec : Nat} : (d.imgEnd reason sec).img = d.img := Dev.doorbell_img _ _

@[simp] theorem Dev.imgEnd_boot {reason sec : Nat} : (d.imgEnd reason sec).boot = d.boot := Dev.doorbell_boot _ _

theorem Dev.imgEnd_fld {reason sec : Nat} {g : Field} {i j : Nat} (hg : g.id ∉ resultFields) :
    (d.imgEnd reason sec).fld g i j = d.fld g i j := by
  have set {e : Dev} {f : Field} {v : Nat} (hf : f.id ∈ resultFields) : e.Keeps resultFields (fun _ => ()) (e.set0 f v) :=
    Dev.keeps_setFld hf rfl
  have rung {e : Dev} : e.Keeps resultFields (fun _ => ()) (e.doorbell 7) :=
    (Dev.reports_doorbell _ _).keeps (List.subset_append_right _ _) rfl
  exact (((((set (by decide)).trans (set (by decide))).trans (set (by decide))).trans (set (by decide))).trans rung).fld g i j hg

/-- BUSY, DONE_OK and REASON after a command. -/
theorem Dev.imgEnd_result {reason sec : Nat} (hr : reason < 256) : (d.imgEnd reason sec).f0 .IMG_STATUS_BUSY = 0 ∧
    (d.imgEnd reason sec).f0 .IMG_STATUS_DONE_OK = b2n (decide (reason = 0)) ∧
    (d.imgEnd reason sec).f0 .IMG_STATUS_REASON = reason := by
  have rung {f : Field} (hf : f.id ∉ reportFields) : (d.imgEnd reason sec).f0 f =
      ((((d.set0 .IMG_STATUS_BUSY 0).set0 .IMG_STATUS_DONE_OK (b2n (decide (reason = 0)))).set0 .IMG_STATUS_REASON
        reason).set0 .IMG_STATUS_SECTION sec).f0 f := (Dev.reports_doorbell _ 7).fld f 0 0 hf
  have one : b2n (decide (reason = 0)) < 2 ^ Field.IMG_STATUS_DONE_OK.width := by
    unfold b2n
    split
    · decide
    · decide
  have width : Field.IMG_STATUS_REASON.width = 8 := by decide
  refine ⟨(rung (by decide)).trans ?_, (rung (by decide)).trans ?_, (rung (by decide)).trans ?_⟩
  · simp (disch := decide) only [Dev.f0_set0_other, Dev.f0_set0_same, Nat.zero_mod]
  · simp (disch := decide) only [Dev.f0_set0_other, Dev.f0_set0_same, Nat.mod_eq_of_lt one]
  · simp (disch := decide) only [Dev.f0_set0_other, Dev.f0_set0_same, width]
    exact Nat.mod_eq_of_lt hr

/-- A command has ended with a REASON, and the bus completed the write of IMG_CMD. -/
def Dev.LoaderEnded (t : Dev) (reason : Nat) : Prop :=
  t.f0 .IMG_STATUS_BUSY = 0 ∧ t.f0 .IMG_STATUS_REASON = reason ∧
    t.f0 .IMG_STATUS_DONE_OK = (if reason = 0 then 1 else 0) ∧ t.reg.last = .ok 0

theorem Dev.loaderEnded_imgEnd {reason sec : Nat} (hr : reason < 256) :
    ((d.imgEnd reason sec).complete (.ok 0)).LoaderEnded reason := by
  obtain ⟨busy, done, why⟩ := Dev.imgEnd_result (d := d) (sec := sec) hr
  exact ⟨busy, why, done.trans (by simp [b2n]), rfl⟩

/-- A command that ends with `reason` on a device that has `P` completes with both. -/
theorem completes_of_imgEnd {c : Instr} {s : State} {e : Dev} {reason sec : Nat} {P : Dev → Prop}
    (h : exec c s = .next (s.on ((e.imgEnd reason sec).complete (.ok 0)))) (hr : reason < 256)
    (hP : P ((e.imgEnd reason sec).complete (.ok 0))) : Completes c s fun t => t.LoaderEnded reason ∧ P t :=
  completes_of_eq h ⟨Dev.loaderEnded_imgEnd hr, hP⟩

theorem Dev.imgEnd_slot {n reason sec : Nat} :
    Map.get none ((d.imgEnd reason sec).complete (.ok 0)).img.slots n = Map.get none d.img.slots n :=
  congrArg (fun x : ImgSt => Map.get none x.slots n) Dev.imgEnd_img

theorem Dev.noteLoad_reports {img : Bytes} : d.Reports (d.noteLoad img) :=
  Dev.reports_ite (Dev.reports_record _ _ _ _ _) (.refl d)

/-! ### GO (R72, R73) -/

/-- The device with which an accepted GO runs its command. -/
def Dev.accepted (d : Dev) (c : ImgCmd) : Dev := (d.goTaken c).set0 .IMG_STATUS_COLLISION 0

/-- The fields that a GO writes. -/
def goFields : List Nat :=
  [Field.IMG_CMD_OP.id, Field.IMG_CMD_SLOT.id, Field.IMG_CMD_REGION_MASK.id, Field.IMG_CMD_SRC_HOST.id,
    Field.IMG_STATUS_BUSY.id, Field.IMG_STATUS_DONE_OK.id, Field.IMG_STATUS_COLLISION.id]

@[simp] theorem Dev.accepted_img {c : ImgCmd} : (d.accepted c).img = d.img := rfl
@[simp] theorem Dev.accepted_boot {c : ImgCmd} : (d.accepted c).boot = d.boot := rfl
@[simp] theorem Dev.accepted_hostDma {c : ImgCmd} {f : Nat} : (d.accepted c).hostDma f = d.hostDma f := rfl

theorem Dev.keeps_goTaken {c : ImgCmd} : d.Keeps goFields (fun _ => ()) (d.goTaken c) := by
  have set {e : Dev} {f : Field} {v : Nat} (hf : f.id ∈ goFields) : e.Keeps goFields (fun _ => ()) (e.set0 f v) :=
    Dev.keeps_setFld hf rfl
  exact (((((set (by decide)).trans (set (by decide))).trans (set (by decide))).trans (set (by decide))).trans
    (set (by decide))).trans (set (by decide))

theorem Dev.accepted_fld {c : ImgCmd} {g : Field} {i j : Nat} (hg : g.id ∉ goFields) : (d.accepted c).fld g i j = d.fld g i j :=
  (Dev.keeps_goTaken.trans (Dev.keeps_setFld (by decide) rfl)).fld g i j hg

theorem Dev.accepted_length {c : ImgCmd} : (d.accepted c).f0 .IMG_LEN = d.f0 .IMG_LEN := Dev.accepted_fld (by decide)

theorem Dev.accepted_busy {c : ImgCmd} : (d.accepted c).f0 .IMG_STATUS_BUSY = 1 := by
  unfold Dev.accepted Dev.goTaken
  rw [Dev.f0_set0_other (by decide), Dev.f0_set0_other (by decide), Dev.f0_set0_same]
  rfl

theorem Dev.accepted_startedFrom {c : ImgCmd} {slot : Nat} : (d.accepted c).startedFrom slot = d.startedFrom slot := by
  have shown {f : Field} (hf : f.id ∉ goFields) : (d.accepted c).fld f 0 0 = d.fld f 0 0 := Dev.accepted_fld hf
  rw [Dev.startedFrom, Dev.b0, Dev.f0, shown (by decide), shown (by decide)]
  rfl

theorem Dev.goTaken_badCommand {c c' : ImgCmd} : (d.goTaken c).badCommand c' = d.badCommand c' := by
  have kept {f : Field} (hf : f.id ∉ goFields) : (d.goTaken c).f0 f = d.f0 f := Dev.keeps_goTaken.f0 hf
  rw [Dev.badCommand, kept (by decide), kept (by decide)]
  rfl

/-- A GO that no rule refuses. -/
def Dev.Goes (d : Dev) (m : Nat) (c : ImgCmd) : Prop :=
  d.Open m (Reg.IMG_CMD.addr 0 0) ∧ d.b0 .IMG_STATUS_BUSY = false ∧ (d.goTaken c).badCommand c = false ∧
    (d.goTaken c).imgState c = false

/-- A GO that no rule refuses runs its command; COLLISION falls unless the command ends with SLOT. -/
theorem Dev.imgGo_runs {m : Nat} {c : ImgCmd} {f : Dev → Dev} {e : Dev} (h : d.Goes m c) (hf : f (d.accepted c) = e)
    (hend : e.f0 .IMG_STATUS_BUSY = 1 ∨ e.f0 .IMG_STATUS_REASON ≠ 17) : d.imgGo m c f = e.complete (.ok 0) := by
  obtain ⟨hopen, hbusy, hgood, hstate⟩ := h
  have kept : ¬((!e.b0 .IMG_STATUS_BUSY) = true ∧ e.f0 .IMG_STATUS_REASON = 17) := by
    rintro ⟨hb, hr⟩
    refine hend.elim (fun h => ?_) (fun h => h hr)
    rw [Dev.f0] at h
    simp [Dev.b0, h] at hb
  rw [← hf] at kept ⊢
  rw [Dev.imgGo, Dev.onWrite_open _ _ _ _ _ _ hopen]
  simp only [hbusy, hgood, hstate, Bool.false_eq_true, if_false]
  exact congrArg (fun x : Dev => x.complete (.ok 0)) (if_neg kept)

/-- A command that ends at once, with any REASON but SLOT. -/
theorem Dev.imgGo_ends {m : Nat} {c : ImgCmd} {f : Dev → Dev} {e : Dev} {reason sec : Nat} (h : d.Goes m c)
    (hf : f (d.accepted c) = e.imgEnd reason sec) (hr : reason < 256) (h17 : reason ≠ 17) :
    d.imgGo m c f = (e.imgEnd reason sec).complete (.ok 0) := by
  refine Dev.imgGo_runs h hf (.inr ?_)
  rw [(Dev.imgEnd_result hr).2.2]
  exact h17

/-- A host buffer that is read in full (R96). -/
theorem Dev.withBuffer_full {img : Bytes} {fail : Dev → Dev} {f : Dev → Bytes → Dev} (h : d.hostDma 0 = true)
    (hlen : img.length = d.f0 .IMG_LEN) : d.withBuffer (some img) fail f = f d img := by
  simp only [Dev.withBuffer, h]
  rw [← hlen, List.take_length]

/-! ### Slots (R62, R65) -/

/-- The state of a slot is written over its entry. -/
theorem Dev.slotState_same {n st : Nat} {x : Slot} (h : Map.get none d.img.slots n = some x) :
    Map.get none (d.slotState n st).img.slots n = some { x with state := st } := by
  simp only [Dev.slotState, h, Dev.set0_img, Map.get_set_same]

theorem Dev.slotState_empty {n : Nat} (h : Map.get none d.img.slots n = none) :
    Map.get none (d.slotState n 0).img.slots n = none := by
  simp only [Dev.slotState, h, if_true, Dev.set0_img, Map.get_set_same]

theorem Dev.slotState_other {n st k : Nat} (h : k ≠ n) :
    Map.get none (d.slotState n st).img.slots k = Map.get none d.img.slots k :=
  Map.get_set_other _ _ _ _ _ _ h

/-- IMG_SLOT_STATE shows the state in the 4 bits of the slot. -/
theorem Dev.slotState_shown {n st : Nat} (hn : n < 4) (hst : st < 16) :
    bitsOf ((d.slotState n st).f0 .IMG_SLOT_STATE_STATES) (4 * n) 4 = st := by
  have width : Field.IMG_SLOT_STATE_STATES.width = 16 := by decide
  unfold Dev.slotState
  rw [Dev.f0_set0_same, width]
  generalize Dev.f0 _ .IMG_SLOT_STATE_STATES = w
  simp only [bitsOf]
  interval_cases n
  all_goals omega

theorem Dev.slotState_fld {n st : Nat} {g : Field} {i j : Nat} (hg : g.id ≠ Field.IMG_SLOT_STATE_STATES.id) :
    (d.slotState n st).fld g i j = d.fld g i j := Dev.fld_setFld_id _ _ _ _ _ _ _ _ hg

/-- A slot takes an image in a state. -/
theorem Dev.setSlot_stored {n st : Nat} {img : Bytes} (hst : st ≠ 0) :
    Map.get none (d.setSlot n img st).img.slots n = some ⟨img, st, st, false⟩ := by
  unfold Dev.setSlot
  rw [if_neg hst]
  exact Dev.slotState_same (x := ⟨img, st, st, false⟩) (by simp)

theorem Dev.setSlot_erased {n : Nat} {img : Bytes} : Map.get none (d.setSlot n img 0).img.slots n = none := by
  unfold Dev.setSlot
  rw [if_pos rfl]
  exact Dev.slotState_empty (by simp)

theorem Dev.setSlot_shown {n st : Nat} {img : Bytes} (hn : n < 4) (hst : st < 16) :
    bitsOf ((d.setSlot n img st).f0 .IMG_SLOT_STATE_STATES) (4 * n) 4 = st := Dev.slotState_shown hn hst

/-- Other slots that change their states leave a slot's entry alone. -/
theorem Dev.slotState_foldl_other {n : Nat} {p : Nat → Prop} [DecidablePred p] {st : Dev → Nat → Nat} {l : List Nat}
    (hl : ∀ i ∈ l, n ≠ i) :
    Map.get none (l.foldl (fun (d : Dev) i => if p i then d.slotState i (st d i) else d) d).img.slots n =
      Map.get none d.img.slots n := by
  induction l generalizing d with
  | nil => rfl
  | cons i l ih =>
    refine (ih (fun k hk => hl k (List.mem_cons_of_mem _ hk))).trans ?_
    dsimp only
    split
    · exact Dev.slotState_other (hl i List.mem_cons_self)
    · rfl

/-- A trial that fails: its slot is BAD, and a reset that follows leaves the loader's state alone (R65). -/
theorem Dev.trialFailed_img {n a : Nat} (htrial : d.img.trial = some (n, a)) :
    d.trialFailed.img = (({ d with img := { d.img with trial := none } } : Dev).slotState n 5).img := by
  unfold Dev.trialFailed
  rw [htrial]
  dsimp only
  split
  · rw [Dev.beginReset_img, Dev.record_img]
  · rw [Dev.record_img]

theorem Dev.trialFailed_slot {n a : Nat} {x : Slot} (htrial : d.img.trial = some (n, a))
    (hslot : Map.get none d.img.slots n = some x) : d.trialFailed.img.trial = none ∧
      Map.get none d.trialFailed.img.slots n = some { x with state := 5 } := by
  rw [Dev.trialFailed_img htrial]
  exact ⟨rfl, Dev.slotState_same hslot⟩

end

end Sys2Proof.Machine
end

