-- ==== Sys2Proof/Proofs/ImageSlots.lean ====
section
/-! The obligation on the image slots (O25). -/

namespace Sys2Proof.Machine

section
variable {m : Master} {slot : Fin 4} {s : State}

theorem Dev.imgEnd_shown {d : Dev} {n st reason sec : Nat} (h : bitsOf (d.f0 .IMG_SLOT_STATE_STATES) (4 * n) 4 = st) :
    bitsOf (((d.imgEnd reason sec).complete (.ok 0)).f0 .IMG_SLOT_STATE_STATES) (4 * n) 4 = st := by
  rw [← h]
  exact congrArg (fun v => bitsOf v (4 * n) 4) (Dev.imgEnd_fld (by decide))

/-- LOAD_SLOT stores a verified image of the host (R57, R63). -/
theorem imgLoadSlot_stores {img : Bytes} (hgo : s.dev.Goes m ⟨1, slot, 0, false⟩) (hfrom : s.dev.startedFrom slot = false)
    (hdma : s.dev.hostDma 0 = true) (hlen : img.length = s.dev.f0 .IMG_LEN)
    (hgood : (s.dev.accepted ⟨1, slot, 0, false⟩).verify img img.length .full = none) :
    Completes (.imgLoadSlot m slot (some img)) s fun t => t.LoaderEnded 0 ∧
      Map.get none t.img.slots slot = some ⟨img, 1, 1, false⟩ ∧ bitsOf (t.f0 .IMG_SLOT_STATE_STATES) (4 * slot) 4 = 1 := by
  have dma : (s.dev.accepted ⟨1, slot, 0, false⟩).hostDma 0 = true := hdma
  have len : img.length = (s.dev.accepted ⟨1, slot, 0, false⟩).f0 .IMG_LEN := hlen.trans Dev.accepted_length.symm
  refine completes_of_imgEnd (e := ((s.dev.accepted ⟨1, slot, 0, false⟩).noteLoad img).setSlot slot img 1) (sec := 0) ?_
    (by decide) ⟨?_, ?_⟩
  · refine congrArg (fun e => Host.Outcome.next (s.on e)) (Dev.imgGo_ends hgo ?_ (by decide) (by decide))
    rw [if_neg (by simpa [Dev.accepted_startedFrom] using hfrom), Dev.withBuffer_full dma len, ← len, hgood]
  · exact Dev.imgEnd_slot.trans (Dev.setSlot_stored Nat.one_ne_zero)
  · exact Dev.imgEnd_shown (Dev.setSlot_shown slot.isLt (by decide))

/-! ### MARK_TRIAL (R63) -/

/-- The state of a slot, 0 where it is empty. -/
def Dev.slotSt (d : Dev) (i : Nat) : Nat := ((Map.get none d.img.slots i).map (·.state)).getD 0

/-- The other slots in TRIAL take back the states they had. -/
def Dev.unmarkOthers (d : Dev) (n : Nat) : Dev :=
  ((List.range 4).filter (fun i => i ≠ n)).foldl (fun (e : Dev) i =>
    if d.slotSt i = 2 then e.slotState i (((Map.get none e.img.slots i).map (·.back)).getD 1) else e) d

/-- A slot is marked, and its record keeps the state it had. -/
def Dev.markTrial (d : Dev) (n : Nat) : Dev :=
  let keep : Slot := { (Map.get none (d.unmarkOthers n).img.slots n).getD ⟨[], 2, 0, false⟩ with back := d.slotSt n }
  ({ d.unmarkOthers n with
    img := { (d.unmarkOthers n).img with slots := Map.set none (d.unmarkOthers n).img.slots n (some keep) } }).slotState n 2

theorem Dev.unmarkOthers_slot {d : Dev} {n : Nat} :
    Map.get none (d.unmarkOthers n).img.slots n = Map.get none d.img.slots n :=
  Dev.slotState_foldl_other (fun _ hi => (of_decide_eq_true (List.mem_filter.1 hi).2).symm)

theorem Dev.markTrial_slot {d : Dev} {n : Nat} {x : Slot} (hx : Map.get none d.img.slots n = some x) :
    Map.get none (d.markTrial n).img.slots n = some { x with state := 2, back := x.state } := by
  have state : d.slotSt n = x.state := by simp [Dev.slotSt, hx]
  unfold Dev.markTrial
  rw [Dev.unmarkOthers_slot, hx, state]
  exact Dev.slotState_same (x := { x with back := x.state }) (by simp)

/-- MARK_TRIAL of a STORED or GOOD slot while no other is TRYING. -/
theorem Dev.imgMarkTrial_eq {d : Dev} {m n : Nat} (hgo : d.Goes m ⟨2, n, 0, false⟩) (hst : d.slotSt n = 1 ∨ d.slotSt n = 4)
    (hothers : ∀ i < 4, i ≠ n → d.slotSt i ≠ 3) :
    d.imgMarkTrial m n = (((d.accepted ⟨2, n, 0, false⟩).markTrial n).imgEnd 0 0).complete (.ok 0) := by
  have unmarked : d.slotSt n ≠ 2 := by omega
  have free : ((List.range 4).filter (fun i => i ≠ n)).any (fun i => d.slotSt i == 3) = false := by
    simpa using hothers
  have may : (d.slotSt n == 1 || d.slotSt n == 4) = true := by simpa using hst
  have granted : (((List.range 4).filter (fun i => i ≠ n)).any (fun i => d.slotSt i == 3) ||
      !(d.slotSt n == 1 || d.slotSt n == 4)) = false := by
    rw [free, may]
    rfl
  refine Dev.imgGo_ends hgo ?_ (by decide) (by decide)
  exact (if_neg unmarked).trans (if_neg (Bool.eq_false_iff.1 granted))

/-- MARK_TRIAL marks a STORED or GOOD slot while none is TRYING. -/
theorem imgMarkTrial_marks {x : Slot} (hgo : s.dev.Goes m ⟨2, slot, 0, false⟩) (hx : Map.get none s.dev.img.slots slot = some x)
    (hst : x.state = 1 ∨ x.state = 4) (hothers : ∀ i < 4, i ≠ slot.val → s.dev.slotSt i ≠ 3) :
    Completes (.imgMarkTrial m slot) s fun t => t.LoaderEnded 0 ∧
      Map.get none t.img.slots slot = some { x with state := 2, back := x.state } ∧
      bitsOf (t.f0 .IMG_SLOT_STATE_STATES) (4 * slot) 4 = 2 := by
  have state : s.dev.slotSt slot = x.state := by simp [Dev.slotSt, hx]
  refine completes_of_imgEnd (e := (s.dev.accepted ⟨2, slot, 0, false⟩).markTrial slot) (sec := 0) ?_ (by decide) ⟨?_, ?_⟩
  · exact congrArg (fun e => Host.Outcome.next (s.on e)) (Dev.imgMarkTrial_eq hgo (by rwa [state]) hothers)
  · exact Dev.imgEnd_slot.trans (Dev.markTrial_slot hx)
  · exact Dev.imgEnd_shown (Dev.slotState_shown slot.isLt (by decide))

/-! ### Slots that are erased, verified or refused, and a trial that ends -/

/-- ERASE_SLOT erases a slot but the one started from (R73). -/
theorem imgEraseSlot_erases (hgo : s.dev.Goes m ⟨5, slot, 0, false⟩) (hfrom : s.dev.startedFrom slot = false) :
    Completes (.imgEraseSlot m slot) s fun t => t.LoaderEnded 0 ∧ Map.get none t.img.slots slot = none ∧
      bitsOf (t.f0 .IMG_SLOT_STATE_STATES) (4 * slot) 4 = 0 := by
  refine completes_of_imgEnd (e := (s.dev.accepted ⟨5, slot, 0, false⟩).setSlot slot [] 0) (sec := 0) ?_ (by decide) ⟨?_, ?_⟩
  · refine congrArg (fun e => Host.Outcome.next (s.on e)) (Dev.imgGo_ends hgo ?_ (by decide) (by decide))
    rw [if_neg (by simpa [Dev.accepted_startedFrom] using hfrom)]
  · exact Dev.imgEnd_slot.trans Dev.setSlot_erased
  · exact Dev.imgEnd_shown (Dev.setSlot_shown slot.isLt (by decide))

/-- VERIFY_SLOT leaves the slots alone where the image verifies (R57). -/
theorem imgVerifySlot_passes {lost : Option (Nat × Nat)} (hgo : s.dev.Goes m ⟨6, slot, 0, false⟩)
    (hx : (Map.get none s.dev.img.slots slot).isSome = true)
    (hgood : (s.dev.accepted ⟨6, slot, 0, false⟩).verifySlot slot .full ((lost.map (fun r => (slot.val, r))).toList) = none) :
    Completes (.imgVerifySlot m slot lost) s fun t => t.LoaderEnded 0 ∧ t.img = s.dev.img := by
  refine completes_of_imgEnd (e := s.dev.accepted ⟨6, slot, 0, false⟩) (sec := 0) ?_ (by decide) Dev.imgEnd_img
  refine congrArg (fun e => Host.Outcome.next (s.on e)) (Dev.imgGo_ends hgo ?_ (by decide) (by decide))
  rw [if_neg (by simpa [Option.isSome_iff_ne_none] using hx), hgood]

/-- A GO that breaks a rule of Table 2-10 is refused with BAD_COMMAND (R73). -/
theorem imgBadCommand_refused {op mask : Fin 16} {h : Bool} (hopen : s.dev.Open m (Reg.IMG_CMD.addr 0 0))
    (hbusy : s.dev.b0 .IMG_STATUS_BUSY = false) (hbad : s.dev.badCommand ⟨op, slot, mask, h⟩ = true) :
    Completes (.imgBadCommand m op slot mask h) s fun t => t.LoaderEnded 19 ∧ t.img = s.dev.img := by
  refine completes_of_imgEnd (e := s.dev.goTaken ⟨op, slot, mask, h⟩) (sec := 0) ?_ (by decide) Dev.imgEnd_img
  simp only [exec_imgBadCommand, execImgBadCommand, State.run_eq, hbad, if_true, Dev.imgGo,
    Dev.onWrite_open _ _ _ _ _ _ hopen, hbusy, Bool.false_eq_true, if_false, Dev.goTaken_badCommand, State.on]

/-- A trial that times out makes its slot BAD (R65). -/
theorem imageTrialTimeout_fails {n a : Nat} {x : Slot} (htrial : s.dev.img.trial = some (n, a)) (hdue : a ≤ s.dev.now)
    (hx : Map.get none s.dev.img.slots n = some x) :
    Completes .imageTrialTimeout s fun t => t.img.trial = none ∧ Map.get none t.img.slots n = some { x with state := 5 } := by
  refine completes_of_eq (t := s.dev.trialFailed) ?_ (Dev.trialFailed_slot htrial hx)
  simp only [exec_imageTrialTimeout, execImageTrialTimeout, State.run_eq, htrial, Option.any_some, hdue, decide_true, if_true,
    State.on]

end

/-- Settles O25: a GO that no rule refuses runs its command, which ends with its result over the slot it has changed. -/
theorem imageSlots : Obligations.ImageSlots := by
  unfold Obligations.ImageSlots
  refine ⟨?load, ?mark, ?erase, ?verify, ?bad, ?timeout⟩
  case load => exact fun _ _ _ _ hgo hfrom hdma hlen hgood => imgLoadSlot_stores hgo hfrom hdma hlen hgood
  case mark => exact fun _ _ _ _ hgo hx hst hothers => imgMarkTrial_marks hgo hx hst hothers
  case erase => exact fun _ _ _ hgo hfrom => imgEraseSlot_erases hgo hfrom
  case verify => exact fun _ _ _ _ hgo hx hgood => imgVerifySlot_passes hgo hx hgood
  case bad => exact fun _ _ _ _ _ _ hopen hbusy hbad => imgBadCommand_refused hopen hbusy hbad
  case timeout => exact fun _ _ _ _ htrial hdue hx => imageTrialTimeout_fails htrial hdue hx

end Sys2Proof.Machine
end

