-- ==== Sys2Proof/Proofs/Reloads.lean ====
section
/-! What region reloads, amendments and commits do to the loader's state (R66 to R71). -/

namespace Sys2Proof.Machine

section
variable {d : Dev}

/-! ### A region stops (R68) -/

/-- A reload in progress but for the discards it has counted. -/
def Dev.reloadView (d : Dev) : Option (Nat × Map Bytes × Bool) := d.img.reload.map (fun x => (x.mask, x.sections, x.stopped))

theorem Dev.reloadView_congr {e : Dev} (h : e.img = d.img) : e.reloadView = d.reloadView := by
  rw [Dev.reloadView, h]
  rfl

theorem Dev.reloadView_reloadDiscard {n k : Nat} : (d.reloadDiscard n k).reloadView = d.reloadView := by
  simp [Dev.reloadView, Dev.reloadDiscard, Option.map_map, Function.comp_def]

theorem Dev.reloadView_stopRegion {n : Nat} : (d.stopRegion n).reloadView = d.reloadView := by
  have cleared {l : Map (Option Rx)} {x : SearchSt} :
      d.Aside { l.foldl (fun d x => d.setRx x.1 none) (d.dropRecirc n) with search := x } := by
    have scans {e : Dev} : e.Aside { e with search := x } := ⟨rfl, rfl, rfl⟩
    exact (Dev.aside_dropRecirc.trans (.foldl (fun _ _ => Dev.aside_buf) _ _)).trans scans
  unfold Dev.stopRegion
  rw [Dev.reloadView_congr (Dev.Aside.foldl (fun _ _ => Dev.aside_abandonTurn) _ _).img, Dev.reloadView_reloadDiscard]
  exact Dev.reloadView_congr cleared.img

theorem Dev.reloadView_stopRegions {l : List Nat} : (l.foldl Dev.stopRegion d).reloadView = d.reloadView := by
  induction l generalizing d with
  | nil => rfl
  | cons n l ih => rw [List.foldl_cons, ih, Dev.reloadView_stopRegion]

theorem Dev.aside_retrainPort {p : Nat} : d.Aside (d.retrainPort p) := by
  have unlocked {v : Nat} : d.Aside ((d.set1 .MAC_STATUS_PCS_LOCK p 0).set1 .MAC_STATUS_AN_DONE p v) := ⟨rfl, rfl, rfl⟩
  exact unlocked.trans Dev.aside_linkDown

/-! ### Ports after the bring-up of their regions (R68, R99) -/

theorem Dev.aside_reloadPorts {old : Map Bytes} {mask : Nat} : d.Aside (d.reloadPorts old mask) := by
  refine .foldl (fun e p => ?_) _ _
  have limits : e.Aside (e.portLimits p) := Dev.aside_portLimits
  have started : e.Aside (((e.portLimits p).portInfo p).portStart p) :=
    (limits.trans Dev.aside_portInfo).trans Dev.aside_portStart
  have zeroed {g : Dev} : g.Aside ((g.set1 .PMC_BW_RX_PEAK p 0).set1 .PMC_BW_TX_PEAK p 0) := ⟨rfl, rfl, rfl⟩
  have cleared {g : Dev} : g.Aside (g.clearCtrs .MAC_STAT p) := ⟨rfl, rfl, rfl⟩
  have peaks := Dev.Aside.ite (c := (((e.portLimits p).portInfo p).portStart p).portMode p = (e.portLimits p).portMode p)
    started (started.trans zeroed)
  exact .ite (.ite peaks (((peaks.trans Dev.aside_mac).trans Dev.aside_dropPortHold).trans cleared)) limits

/-! ### The values of a TIME and of a CAL section (R346, R415) -/

/-- The fields that a TIME or a CAL section writes. -/
def liveFields : List Nat :=
  [Field.TIM_GM_POLICY_REFUSE_JUMP.id, Field.TIM_GM_POLICY_FREE_RUN.id, Field.TIM_JUMP_LIMIT.id, Field.CAL_TEMP_OFS.id,
    Field.CAL_TEMP_GAIN.id, Field.CAL_VMON_GAIN.id, Field.CAL_TBUS_DELAY.id, Field.CAL_TX_DELTA_PRE3.id,
    Field.CAL_TX_DELTA_PRE2.id, Field.CAL_TX_DELTA_PRE1.id, Field.CAL_TX_DELTA_MAIN.id, Field.CAL_TX_DELTA_POST1.id,
    Field.CAL_TS_RX.id, Field.CAL_TS_TX.id, Field.CAL_HOLD_TRIM.id, Field.CAL_STATUS_CLAMPED.id,
    Field.CAL_STATUS_LAST_OFFSET.id] ++ reportFields

/-- The loader and the hold store. -/
def Dev.storesView (d : Dev) : ImgSt × HldSt := (d.img, d.hld)

/-- At most the values of a TIME and of a CAL section lead from one device to the other. -/
abbrev Dev.Live (d e : Dev) : Prop := d.Keeps liveFields Dev.storesView e

theorem Dev.live_setFld {f : Field} {i j v : Nat} (hf : f.id ∈ liveFields) : d.Live (d.setFld f i j v) := Dev.keeps_setFld hf rfl

theorem Dev.Keeps.live_img {e : Dev} (h : d.Live e) : e.img = d.img := congrArg Prod.fst h.view

theorem Dev.Keeps.live_hld {e : Dev} (h : d.Live e) : e.hld = d.hld := congrArg Prod.snd h.view

theorem Dev.live_takeTime : d.Live d.takeTime := by
  unfold Dev.takeTime
  exact .ite (.refl d) (((Dev.live_setFld (by decide)).trans (Dev.live_setFld (by decide))).trans (Dev.live_setFld (by decide)))

theorem Dev.live_noteClamp {off : Nat} : d.Live (d.noteClamp off) := by
  have noted : d.Live ((d.set0 .CAL_STATUS_CLAMPED 1).set0 .CAL_STATUS_LAST_OFFSET off) :=
    Dev.Keeps.trans (Dev.live_setFld (by decide)) (Dev.live_setFld (by decide))
  refine noted.trans ((Dev.reports_recordCounted _ _ _ _ _ _ _).keeps (List.subset_append_right _ _) ?_)
  exact congrArg₂ Prod.mk (Dev.recordCounted_img _ _ _ _ _ _ _) (Dev.recordCounted_hld _ _ _ _ _ _ _)

theorem Dev.live_takeCal {off : Nat} {delta : Int} : d.Live (d.takeCal off delta) := by
  have clamp {e : Dev} (h : d.Live e) : d.Live (if calClamped off delta then e.noteClamp off else e) :=
    .ite (h.trans Dev.live_noteClamp) h
  have presets {l a b c x y : Nat} : d.Live (((((d.set1 .CAL_TX_DELTA_PRE3 l a).set1 .CAL_TX_DELTA_PRE2 l b).set1
      .CAL_TX_DELTA_PRE1 l c).set1 .CAL_TX_DELTA_MAIN l x).set1 .CAL_TX_DELTA_POST1 l y) :=
    ((((Dev.live_setFld (by decide)).trans (Dev.live_setFld (by decide))).trans (Dev.live_setFld (by decide))).trans
      (Dev.live_setFld (by decide))).trans (Dev.live_setFld (by decide))
  unfold Dev.takeCal
  exact .ite (clamp (.ite (Dev.live_setFld (by decide)) (Dev.live_setFld (by decide))))
    (.ite (clamp (Dev.live_setFld (by decide))) (.ite (clamp (Dev.live_setFld (by decide))) (.ite presets
      (.ite (clamp (.ite (Dev.live_setFld (by decide)) (Dev.live_setFld (by decide)))) (clamp (Dev.live_setFld (by decide)))))))

theorem Dev.live_takeCals {l : List (Nat × Int)} : d.Live (d.takeCals l) := .foldl (fun _ _ => Dev.live_takeCal) l d

/-! ### A commit (R66) -/

@[simp] theorem Dev.startMembers_img : d.startMembers.img = d.img := by
  unfold Dev.startMembers
  simp only [Dev.set0_img]

@[simp] theorem Dev.nameImage_img {src slot : Nat} {img : Bytes} : (d.nameImage src slot img).img = d.img := by
  unfold Dev.nameImage
  simp only [Dev.set0_img]
  exact (Dev.Aside.foldl (fun _ _ => Dev.aside_setFld) _ _).img.trans (by simp only [Dev.set0_img])

@[simp] theorem Dev.startBringup_img : d.startBringup.img = d.img := rfl

@[simp] theorem Dev.takeBoard_img {img : Bytes} : (d.takeBoard img).img = d.img := rfl

@[simp] theorem Dev.takeBoard_f0 {img : Bytes} {f : Field} : (d.takeBoard img).f0 f = d.f0 f := rfl

theorem Dev.startBringup_phase : d.startBringup.f0 .CLK_BOOT_STATUS_PHASE = 6 := Dev.f0_set0_same _ _ _

/-- The sections of an image are in force, and what they set. -/
def Dev.configured (d : Dev) (img : Bytes) (keepCal : Bool) : Dev :=
  let d1 := (List.range 128).foldl (fun d p => (d.portLimits p).portStart p) (d.install img)
  let d2 := d1.takeTime
  let d3 := if (d2.section 11 4).isEmpty then d2 else d2.set0 .TIM_CTRL_SERVO_EN 1
  if keepCal then d3 else d3.takeCals (calRecords (d3.section 13 4))

theorem Dev.configured_img {img : Bytes} {keepCal : Bool} :
    (d.configured img keepCal).img.image = img ∧ (d.configured img keepCal).img.next = none := by
  have installed : (d.install img).img.image = img ∧ (d.install img).img.next = none := by
    unfold Dev.install
    rw [(Dev.Aside.foldl (fun _ _ => Dev.aside_portInfo) _ _).img]
    exact ⟨rfl, rfl⟩
  have started : ((List.range 128).foldl (fun d p => (d.portLimits p).portStart p) (d.install img)).img = (d.install img).img :=
    (Dev.Aside.foldl (fun _ _ => Dev.aside_portLimits.trans Dev.aside_portStart) _ _).img
  have kept : (d.configured img keepCal).img = (d.install img).img := by
    have timed := Dev.live_takeTime.live_img.trans started
    unfold Dev.configured
    have served {x : Dev} {c : Prop} [Decidable c] (h : x.img = (d.install img).img) :
        (if c then x else x.set0 .TIM_CTRL_SERVO_EN 1).img = (d.install img).img := by
      rw [← h]
      exact (Dev.Aside.ite (.refl x) Dev.aside_setFld).img
    split
    · exact served timed
    · exact Dev.live_takeCals.live_img.trans (served timed)
  rwa [kept]

/-- The device of a commit before its trial and its record. -/
def Dev.committing (d : Dev) (src slot : Nat) (img : Bytes) (keepCal : Bool) : Dev :=
  (((d.configured img keepCal).startMembers.nameImage src slot img).startBringup).takeBoard img

/-- The trial that a commit from a slot in TRYING starts (R65). -/
def Dev.commitTrial (d : Dev) (src slot : Nat) : Option (Nat × Nat) :=
  let trying : Bool := decide (src = 0) && (Map.get none d.img.slots slot).any (fun s => s.state == 3)
  if trying then some (slot, d.now + d.f0 .IMG_TRIAL_TIME * tSec) else none

theorem Dev.commit_eq {src slot : Nat} {img : Bytes} {keepCal : Bool} : d.commit src slot img keepCal =
    let e := d.committing src slot img keepCal
    (({ e with img := { e.img with trial := e.commitTrial src slot } } : Dev).set0 .MON_AVS_STATUS_ACTIVE 1).record
      .IMAGE_COMMITTED 0 0 (payloadOf [(4, imgSerial img), (1, src), (1, slot)]) := rfl

/-- A commit: the image runs, no image waits for its commit, and SPRING goes on with region bring-up. -/
theorem Dev.commit_committed {src slot : Nat} {img : Bytes} {keepCal : Bool} :
    (d.commit src slot img keepCal).boot.committed = true ∧ (d.commit src slot img keepCal).boot.waitImg = false ∧
    (d.commit src slot img keepCal).img.image = img ∧ (d.commit src slot img keepCal).img.next = none ∧
    (d.commit src slot img keepCal).f0 .CLK_BOOT_STATUS_PHASE = 6 := by
  have named : (d.committing src slot img keepCal).img = (d.configured img keepCal).img := by
    rw [Dev.committing, Dev.takeBoard_img, Dev.startBringup_img, Dev.nameImage_img, Dev.startMembers_img]
  have phase : (d.committing src slot img keepCal).f0 .CLK_BOOT_STATUS_PHASE = 6 := by
    rw [Dev.committing, Dev.takeBoard_f0, Dev.startBringup_phase]
  obtain ⟨image, next⟩ := Dev.configured_img (d := d) (img := img) (keepCal := keepCal)
  rw [Dev.commit_eq]
  dsimp only
  rw [Dev.record_boot, Dev.record_img, Dev.record_f0 (by decide), Dev.f0_set0_other (by decide), Dev.f0_img, phase]
  exact ⟨rfl, rfl, (congrArg ImgSt.image named).trans image, (congrArg ImgSt.next named).trans next, rfl⟩

end

end Sys2Proof.Machine
end

