-- ==== Sys2Proof/Proofs/ReloadsAndAmendments.lean ====
section
/-! The obligation on reloads, amendments and commits of verified images (O26). -/

namespace Sys2Proof.Machine

/-! ### RELOAD (R67) -/

/-- REGION_RELOAD_START. -/
def Dev.startReload (d : Dev) (mask : Nat) : Dev := d.record .REGION_RELOAD_START 0 0 (payloadOf [(1, mask)])

/-- A verified image waits for its regions to stop. -/
def Dev.takeReload (d : Dev) (mask : Nat) (img : Bytes) : Dev :=
  { d.noteLoad img with img := { (d.noteLoad img).img with reload := some ⟨mask, imgSections img, false, 0⟩ } }

/-- A verified amendment waits. -/
def Dev.takeAmendment (d : Dev) (img : Bytes) : Dev :=
  { d.noteLoad img with img := { (d.noteLoad img).img with amend := some (imgSections img) } }

section
variable {d : Dev}

theorem Dev.startReload_reports {mask : Nat} : d.Reports (d.startReload mask) := Dev.reports_record _ _ _ _ _

theorem Dev.takeReload_f0 {mask : Nat} {img : Bytes} {f : Field} (hf : f.id ∉ reportFields) :
    (d.takeReload mask img).f0 f = d.f0 f := Dev.noteLoad_reports.fld f 0 0 hf

theorem Dev.takeAmendment_f0 {img : Bytes} {f : Field} (hf : f.id ∉ reportFields) :
    (d.takeAmendment img).f0 f = d.f0 f := Dev.noteLoad_reports.fld f 0 0 hf

/-- A reload whose image is taken: it waits, and the sections stay. -/
theorem Dev.takeReload_waits {mask : Nat} {img : Bytes} {c : ImgCmd} :
    (((d.accepted c).startReload mask).takeReload mask img).f0 .IMG_STATUS_BUSY = 1 ∧
    (((d.accepted c).startReload mask).takeReload mask img).img.reload = some ⟨mask, imgSections img, false, 0⟩ ∧
    (((d.accepted c).startReload mask).takeReload mask img).img.sections = d.img.sections := by
  have noted : (((d.accepted c).startReload mask).noteLoad img).img = d.img :=
    Dev.noteLoad_reports.img.trans Dev.startReload_reports.img
  refine ⟨?_, rfl, ?_⟩
  · rw [Dev.takeReload_f0 (by decide), Dev.startReload, Dev.record_f0 (by decide), Dev.accepted_busy]
  · unfold Dev.takeReload
    rw [noted]

/-- RELOAD from the host (R67). -/
theorem Dev.imgReload_host {m mask slot : Nat} {img : Bytes} {lost : Option (Nat × Nat)}
    (hgo : d.Goes m ⟨3, slot, mask, true⟩) (hdma : d.hostDma 0 = true) (hlen : img.length = d.f0 .IMG_LEN)
    (hgood : (d.accepted ⟨3, slot, mask, true⟩).verify img img.length (.reload mask) = none) :
    d.imgReload m mask true slot (some img) lost =
      (((d.accepted ⟨3, slot, mask, true⟩).startReload mask).takeReload mask img).complete (.ok 0) := by
  have len : img.length = (d.accepted ⟨3, slot, mask, true⟩).f0 .IMG_LEN := hlen.trans Dev.accepted_length.symm
  refine Dev.imgGo_runs hgo ?_ (.inl Dev.takeReload_waits.1)
  refine (if_pos rfl).trans ((Dev.withBuffer_full ?_ ?_).trans ?_)
  · exact Dev.startReload_reports.hostDma.trans hdma
  · exact len.trans (Dev.record_f0 (by decide)).symm
  · rw [← len, hgood]
    rfl

/-- RELOAD from a slot (R67). -/
theorem Dev.imgReload_slot {m mask slot : Nat} {x : Slot} {host : Option Bytes} {lost : Option (Nat × Nat)}
    (hgo : d.Goes m ⟨3, slot, mask, false⟩) (hx : Map.get none d.img.slots slot = some x)
    (hgood : (d.accepted ⟨3, slot, mask, false⟩).verifySlot slot (.reload mask) ((lost.map (fun r => (slot, r))).toList) =
      none) :
    d.imgReload m mask false slot host lost =
      (((d.accepted ⟨3, slot, mask, false⟩).startReload mask).takeReload mask x.image).complete (.ok 0) := by
  refine Dev.imgGo_runs hgo ?_ (.inl Dev.takeReload_waits.1)
  refine (if_neg Bool.false_ne_true).trans ?_
  rw [Dev.accepted_img, hx, hgood]
  rfl

/-! ### Stopped regions (R68) -/

/-- The regions of a mask. -/
def maskRegions (mask : Nat) : List Nat := (List.range 4).filter (fun n => bitOf mask n)

/-- The regions of a reload stop and take their new sections; the reload keeps the old ones. -/
def Dev.switchRegions (d : Dev) (r : Reload) : Dev :=
  let new := reloadSections d.img.sections r.sections r.mask
  let d1 := (maskRegions r.mask).foldl Dev.stopRegion
    { d with img := { d.img with reload := some ⟨r.mask, d.img.sections, true, 0⟩ } }
  let d2 := ((maskPorts r.mask).filter (recordChanged d.img.sections new)).foldl Dev.retrainPort d1
  { d2 with img := { d2.img with sections := new } }

theorem Dev.switchRegions_sections {r : Reload} :
    (d.switchRegions r).img.sections = reloadSections d.img.sections r.sections r.mask := rfl

theorem Dev.switchRegions_reload {r : Reload} :
    (d.switchRegions r).reloadView = some (r.mask, d.img.sections, true) := by
  have kept {e : Dev} {x : Map Bytes} : ({ e with img := { e.img with sections := x } } : Dev).reloadView = e.reloadView := rfl
  unfold Dev.switchRegions
  rw [kept, Dev.reloadView_congr (Dev.Aside.foldl (fun _ _ => Dev.aside_retrainPort) _ _).img, Dev.reloadView_stopRegions]
  rfl

/-- A bring-up that passes: the ports follow the new sections, which differ from the image's (R68, R71). -/
def Dev.reloaded (d : Dev) (r : Reload) : Dev :=
  (((({ d with img := { d.img with reload := none } } : Dev).reloadPorts r.sections r.mask).set0 .IMG_STATUS_DIVERGED 1).set0
    .IMG_AMEND_COUNT 0).record .REGION_RELOAD_DONE 0 0 (payloadOf [(4, r.gone)])

theorem Dev.reloaded_fields {r : Reload} : (d.reloaded r).img.reload = none ∧ (d.reloaded r).f0 .IMG_STATUS_DIVERGED = 1 ∧
    (d.reloaded r).f0 .IMG_AMEND_COUNT = 0 := by
  unfold Dev.reloaded
  rw [Dev.record_img, Dev.record_f0 (by decide), Dev.record_f0 (by decide), Dev.f0_set0_other (by decide), Dev.f0_set0_same,
    Dev.f0_set0_same, Dev.set0_img, Dev.set0_img, Dev.aside_reloadPorts.img]
  exact ⟨rfl, rfl, rfl⟩

/-- A bring-up that fails: the regions have their old sections again. -/
def Dev.restored (d : Dev) (r : Reload) : Dev :=
  ({ d with img := { d.img with reload := none, sections := r.sections } } : Dev).record .REGION_RELOAD_FAILED 0 0 (payloadOf [])

/-! ### Amendments (R69, R70) -/

/-- AMEND of a verified image. -/
theorem Dev.imgAmend_takes {m : Nat} {img : Bytes} (hgo : d.Goes m ⟨4, 0, 0, false⟩) (hdma : d.hostDma 0 = true)
    (hlen : img.length = d.f0 .IMG_LEN) (hgood : (d.accepted ⟨4, 0, 0, false⟩).verify img img.length .amend = none) :
    d.imgAmend m (some img) = ((d.accepted ⟨4, 0, 0, false⟩).takeAmendment img).complete (.ok 0) := by
  have dma : (d.accepted ⟨4, 0, 0, false⟩).hostDma 0 = true := hdma
  have len : img.length = (d.accepted ⟨4, 0, 0, false⟩).f0 .IMG_LEN := hlen.trans Dev.accepted_length.symm
  have busy : ((d.accepted ⟨4, 0, 0, false⟩).takeAmendment img).f0 .IMG_STATUS_BUSY = 1 :=
    (Dev.takeAmendment_f0 (by decide)).trans Dev.accepted_busy
  refine Dev.imgGo_runs hgo ((Dev.withBuffer_full dma len).trans ?_) (.inl busy)
  rw [← len, hgood]
  rfl

/-- The live sections of an amendment. -/
def liveSections (new : Map Bytes) : Map Bytes :=
  new.filter (fun x => (secType (Nat.unpair x.1).1).any (fun k => k.1 != .info))

/-- The types of sections, as the mask of AMENDMENT_APPLIED. -/
def typesMask (l : Map Bytes) : Nat := ((l.map (fun x => (Nat.unpair x.1).1)).dedup).foldl (fun n t => n + 2 ^ t) 0

/-- The live sections of an amendment are in force. -/
def Dev.amended (d : Dev) (new : Map Bytes) : Dev :=
  let m := (liveSections new).foldl (fun m x => Map.insert m x.1 x.2) d.img.sections
  let d1 : Dev := { d with img := { d.img with sections := m, amend := none } }
  (if (secGet new 11 4).isEmpty then d1 else d1.takeTime).takeCals (calRecords (secGet new 13 4))

theorem Dev.amended_img {new : Map Bytes} : (d.amended new).img.amend = none := by
  unfold Dev.amended
  rw [Dev.live_takeCals.live_img]
  split
  · rfl
  · rw [Dev.live_takeTime.live_img]

theorem Dev.amended_f0 {new : Map Bytes} {f : Field} (hf : f.id ∉ liveFields) : (d.amended new).f0 f = d.f0 f := by
  unfold Dev.amended
  rw [Dev.live_takeCals.f0 hf]
  split
  · rfl
  · exact Dev.live_takeTime.f0 hf

/-- An amendment that has been applied is counted and recorded (R70). -/
def Dev.countAmendment (d : Dev) (new : Map Bytes) : Dev :=
  (((d.amended new).satInc .IMG_AMEND_COUNT 0 0 1).set0 .IMG_STATUS_DIVERGED 1).record .AMENDMENT_APPLIED 0 0
    (payloadOf [(2, typesMask (liveSections new))])

theorem Dev.countAmendment_fields {new : Map Bytes} : (d.countAmendment new).img.amend = none ∧
    (d.countAmendment new).f0 .IMG_STATUS_DIVERGED = 1 ∧
    (d.countAmendment new).f0 .IMG_AMEND_COUNT = satAdd 32 (d.f0 .IMG_AMEND_COUNT) 1 := by
  have width : Field.IMG_AMEND_COUNT.width = 32 := by decide
  have counted : ((d.amended new).satInc .IMG_AMEND_COUNT 0 0 1).f0 .IMG_AMEND_COUNT =
      satAdd 32 (d.f0 .IMG_AMEND_COUNT) 1 := by
    rw [Dev.satInc, Dev.f0, Dev.fld_setFld_same, width]
    refine (Nat.mod_eq_of_lt ?_).trans (congrArg (fun v => satAdd 32 v 1) (Dev.amended_f0 (by decide)))
    unfold satAdd
    omega
  unfold Dev.countAmendment
  rw [Dev.record_img, Dev.record_f0 (by decide), Dev.record_f0 (by decide), Dev.f0_set0_same, Dev.f0_set0_other (by decide),
    counted, Dev.set0_img, Dev.satInc_img, Dev.amended_img]
  exact ⟨rfl, rfl, rfl⟩

/-! ### LOAD_AND_COMMIT (R82) -/

/-- LOAD_AND_COMMIT of a verified image. -/
theorem Dev.imgLoadAndCommit_commits {m : Nat} {img : Bytes} (hgo : d.Goes m ⟨7, 0, 0, false⟩) (hdma : d.hostDma 0 = true)
    (hfw : d.boot.fwRuns = true) (hlen : img.length = d.f0 .IMG_LEN)
    (hgood : (d.accepted ⟨7, 0, 0, false⟩).verify img img.length .full = none) :
    d.imgLoadAndCommit m (some img) =
      ((((d.accepted ⟨7, 0, 0, false⟩).noteLoad img).commit 2 0 img (d.accepted ⟨7, 0, 0, false⟩).boot.afterExit).imgEnd 0
        0).complete (.ok 0) := by
  have dma : (d.accepted ⟨7, 0, 0, false⟩).hostDma 0 = true := hdma
  have len : img.length = (d.accepted ⟨7, 0, 0, false⟩).f0 .IMG_LEN := hlen.trans Dev.accepted_length.symm
  refine Dev.imgGo_ends hgo ?_ (by decide) (by decide)
  have runs : ¬(!(d.accepted ⟨7, 0, 0, false⟩).boot.fwRuns) = true := by simp [hfw]
  refine (if_neg runs).trans ((Dev.withBuffer_full dma len).trans ?_)
  rw [← len, hgood]

end

section
variable {m : Master} {mask : Fin 16} {slot : Fin 4} {s : State}

/-- A bring-up that passes ends the reload. -/
theorem regionReloadBringup_passes {r : Reload} {back : Bool} (hr : s.dev.img.reload = some r) (hstop : r.stopped = true) :
    Completes (.regionReloadBringup true back) s fun t => t.img.reload = none ∧ t.f0 .IMG_STATUS_DIVERGED = 1 ∧
      t.f0 .IMG_AMEND_COUNT = 0 ∧ t.f0 .IMG_STATUS_BUSY = 0 ∧ t.f0 .IMG_STATUS_DONE_OK = 1 := by
  obtain ⟨reload, diverged, count⟩ := Dev.reloaded_fields (d := s.dev) (r := r)
  obtain ⟨busy, done, -⟩ := Dev.imgEnd_result (d := s.dev.reloaded r) (reason := 0) (sec := 0) (by decide)
  refine completes_of_eq (t := (s.dev.reloaded r).imgEnd 0 0) ?_ ⟨?_, ?_, ?_, busy, done⟩
  · simp only [exec_regionReloadBringup, execRegionReloadBringup, State.run_eq, hr, hstop, Bool.not_true, Bool.false_eq_true,
      if_false, if_true]
    rfl
  · rw [Dev.imgEnd_img, reload]
  · exact (Dev.imgEnd_fld (by decide)).trans diverged
  · exact (Dev.imgEnd_fld (by decide)).trans count

/-- A bring-up that fails puts the old sections back. -/
theorem regionReloadBringup_fails {r : Reload} (hr : s.dev.img.reload = some r) (hstop : r.stopped = true) :
    Completes (.regionReloadBringup false true) s fun t => t.img.reload = none ∧ t.img.sections = r.sections ∧
      t.f0 .IMG_STATUS_BUSY = 0 ∧ t.f0 .IMG_STATUS_DONE_OK = 0 := by
  have kept : ((s.dev.restored r).imgEnd 0 0).img.reload = none ∧ ((s.dev.restored r).imgEnd 0 0).img.sections = r.sections := by
    rw [Dev.imgEnd_img, Dev.restored, Dev.record_img]
    exact ⟨rfl, rfl⟩
  obtain ⟨busy, -, -⟩ := Dev.imgEnd_result (d := s.dev.restored r) (reason := 0) (sec := 0) (by decide)
  refine completes_of_eq (t := ((s.dev.restored r).imgEnd 0 0).set0 .IMG_STATUS_DONE_OK 0) ?_ ⟨kept.1, kept.2, ?_, ?_⟩
  · simp only [exec_regionReloadBringup, execRegionReloadBringup, State.run_eq, hr, hstop, Bool.not_true, Bool.false_eq_true,
      if_false, if_true]
    rfl
  · exact (Dev.f0_set0_other (by decide)).trans busy
  · exact Dev.f0_set0_same _ _ _

/-- An amendment is applied and counted. -/
theorem amendmentApply_counts {new : Map Bytes} (hnew : s.dev.img.amend = some new) :
    Completes .amendmentApply s fun t => t.img.amend = none ∧ t.f0 .IMG_STATUS_DIVERGED = 1 ∧
      t.f0 .IMG_AMEND_COUNT = satAdd 32 (s.dev.f0 .IMG_AMEND_COUNT) 1 ∧ t.f0 .IMG_STATUS_DONE_OK = 1 := by
  obtain ⟨amend, diverged, count⟩ := Dev.countAmendment_fields (d := s.dev) (new := new)
  obtain ⟨-, done, -⟩ := Dev.imgEnd_result (d := s.dev.countAmendment new) (reason := 0) (sec := 0) (by decide)
  refine completes_of_eq (t := (s.dev.countAmendment new).imgEnd 0 0) ?_ ⟨?_, ?_, ?_, done⟩
  · simp only [exec_amendmentApply, execAmendmentApply, State.run_eq, hnew]
    rfl
  · rw [Dev.imgEnd_img, amend]
  · exact (Dev.imgEnd_fld (by decide)).trans diverged
  · exact (Dev.imgEnd_fld (by decide)).trans count

/-- LOAD_AND_COMMIT commits the image of the host. -/
theorem imgLoadAndCommit_commits {img : Bytes} (hgo : s.dev.Goes m ⟨7, 0, 0, false⟩) (hdma : s.dev.hostDma 0 = true)
    (hfw : s.dev.boot.fwRuns = true) (hlen : img.length = s.dev.f0 .IMG_LEN)
    (hgood : (s.dev.accepted ⟨7, 0, 0, false⟩).verify img img.length .full = none) :
    Completes (.imgLoadAndCommit m (some img)) s fun t => t.boot.committed = true ∧ t.boot.waitImg = false ∧
      t.img.image = img ∧ t.f0 .IMG_STATUS_DONE_OK = 1 ∧ t.f0 .IMG_STATUS_BUSY = 0 := by
  let e := ((s.dev.accepted ⟨7, 0, 0, false⟩).noteLoad img).commit 2 0 img (s.dev.accepted ⟨7, 0, 0, false⟩).boot.afterExit
  obtain ⟨committed, waits, image, -, -⟩ := Dev.commit_committed (d := (s.dev.accepted ⟨7, 0, 0, false⟩).noteLoad img)
    (src := 2) (slot := 0) (img := img) (keepCal := (s.dev.accepted ⟨7, 0, 0, false⟩).boot.afterExit)
  obtain ⟨busy, done, -⟩ := Dev.imgEnd_result (d := e) (reason := 0) (sec := 0) (by decide)
  have boot : (e.imgEnd 0 0).boot = e.boot := Dev.imgEnd_boot
  have loader : (e.imgEnd 0 0).img = e.img := Dev.imgEnd_img
  refine completes_of_eq (t := (e.imgEnd 0 0).complete (.ok 0))
    (congrArg (fun e => Host.Outcome.next (s.on e)) (Dev.imgLoadAndCommit_commits hgo hdma hfw hlen hgood))
    ⟨(congrArg BootSt.committed boot).trans committed, (congrArg BootSt.waitImg boot).trans waits,
      (congrArg ImgSt.image loader).trans image, done, busy⟩

/-- An uncorrectable section of the running image means WINTER (R61). -/
theorem sectionScrub_winter (hcommitted : s.dev.boot.committed = true) :
    Completes (.sectionScrub true) s fun t => t.health = 3 ∧ t.b0 .HLT_CAUSE_CONFIG = true ∧ t.hlt.cfgBad = true := by
  let e := (s.dev.record .SECTION_UNCORRECTABLE 0 0 (payloadOf [])).winterCause .HLT_CAUSE_CONFIG
    EvCode.SECTION_UNCORRECTABLE.code
  have health : e.health = 3 := Dev.health_winterCause (by decide)
  have cause : e.b0 .HLT_CAUSE_CONFIG = true := Dev.winterCause_set (by decide) (by decide)
  refine completes_of_eq (t := { e with hlt := { e.hlt with cfgBad := true } }) ?_ ⟨health, cause, rfl⟩
  simp only [exec_sectionScrub, execSectionScrub, State.run_eq, hcommitted, Bool.not_true, Bool.false_eq_true, or_self, if_false]
  rfl

end

/-- Settles O26: a command whose image verifies leaves it with the loader or commits it, and each end of a reload or an
amendment is one branch of its rule. -/
theorem reloadsAndAmendments : Obligations.ReloadsAndAmendments := by
  unfold Obligations.ReloadsAndAmendments
  refine ⟨?host, ?slot, ?apply, ?passes, ?fails, ?amend, ?applied, ?commit, ?scrub⟩
  case host =>
    exact fun _ _ _ _ s ⟨hgo, hdma⟩ hlen hgood => completes_of_eq
      (congrArg (fun e => Host.Outcome.next (s.on e)) (Dev.imgReload_host hgo hdma hlen hgood)) Dev.takeReload_waits
  case slot =>
    exact fun _ _ _ _ _ _ s hgo hx hgood => completes_of_eq
      (congrArg (fun e => Host.Outcome.next (s.on e)) (Dev.imgReload_slot hgo hx hgood)) Dev.takeReload_waits
  case apply =>
    intro r s hr hstop
    refine completes_of_eq (t := s.dev.switchRegions r) ?_ ⟨Dev.switchRegions_reload, Dev.switchRegions_sections⟩
    simp only [exec_regionReloadApply, execRegionReloadApply, State.run_eq, hr, hstop, Bool.false_eq_true, if_false]
    rfl
  case passes => exact fun _ _ _ hr hstop => regionReloadBringup_passes hr hstop
  case fails => exact fun _ _ hr hstop => regionReloadBringup_fails hr hstop
  case amend =>
    exact fun _ _ s ⟨hgo, hdma⟩ hlen hgood => completes_of_eq
      (congrArg (fun e => Host.Outcome.next (s.on e)) (Dev.imgAmend_takes hgo hdma hlen hgood))
      ⟨rfl, (Dev.takeAmendment_f0 (by decide)).trans Dev.accepted_busy⟩
  case applied => exact fun _ _ hnew => amendmentApply_counts hnew
  case commit => exact fun _ _ _ ⟨hgo, hdma⟩ hfw hlen hgood => imgLoadAndCommit_commits hgo hdma hfw hlen hgood
  case scrub => exact fun _ hcommitted => sectionScrub_winter hcommitted

end Sys2Proof.Machine
end

