-- ==== Sys2Proof/Proofs/Boot.lean ====
section
/-! The boot: the search for the start-up image (R64, R81), the start of the firmware (R80), and the firmware that the host loads
(R82). -/

namespace Sys2Proof.Machine

section
variable {d : Dev}

/-! ### The search for the start-up image (R64, R81) -/

/-- The fields that the search for an image writes. -/
def searchFields : List Nat := [Field.IMG_SLOT_STATE_STATES.id, Field.CLK_BOOT_STATUS_PHASE.id] ++ reportFields

/-- The firmware: whether it runs, whether the boot ROM waits for it, and the one that the host gave. -/
def Dev.fwView (d : Dev) : Bool × Bool × Option Nat := (d.boot.fwRuns, d.boot.waitFw, d.boot.hostFw)

/-- At most a search for an image leads from one device to the other. -/
abbrev Dev.Sought (d e : Dev) : Prop := d.Keeps searchFields Dev.fwView e

theorem Dev.Reports.sought {e : Dev} (h : d.Reports e) : d.Sought e :=
  h.keeps (List.subset_append_right _ _) (by simp only [Dev.fwView, h.boot])

theorem Dev.sought_record {c : EvCode} {k i : Nat} {p : Bytes} : d.Sought (d.record c k i p) := (Dev.reports_record _ _ _ _ _).sought

theorem Dev.sought_noteRefused {r : Nat × Nat} {src : Nat} : d.Sought (d.noteRefused r src) := Dev.sought_record

theorem Dev.sought_noteLoad {img : Bytes} : d.Sought (d.noteLoad img) := Dev.noteLoad_reports.sought

theorem Dev.sought_slotState {n st : Nat} : d.Sought (d.slotState n st) :=
  ⟨rfl, fun _ _ _ hg => Dev.slotState_fld (fun h => hg (h ▸ List.mem_cons_self))⟩

theorem Dev.sought_slotFailed {n : Nat} {r : Nat × Nat} : d.Sought (d.slotFailed n r) :=
  (Dev.sought_slotState.trans Dev.sought_noteRefused).trans Dev.sought_record

theorem Dev.sought_trySlots {lost : List (Nat × Nat × Nat)} {l : List Nat} : d.Sought (Dev.trySlots lost l d).1 := by
  induction l generalizing d with
  | nil => exact .refl d
  | cons n l ih =>
    unfold Dev.trySlots
    split
    · exact Dev.sought_slotFailed.trans ih
    · exact Dev.sought_noteLoad

theorem Dev.sought_slotSelect {lost : List (Nat × Nat × Nat)} : d.Sought (d.slotSelect lost).1 := by
  have ended : d.Sought d.endTrying := .foldl (fun e _ => .ite Dev.sought_slotState (.refl e)) _ _
  unfold Dev.slotSelect
  split
  · exact .refl d
  · have tried : d.Sought (Dev.trySlots lost (d.endTrying.slotsBySerial 2)
        ((d.endTrying.slotsBySerial 2).foldl (fun d s => d.slotState s 3) d.endTrying)).1 :=
      (ended.trans (.foldl (fun _ _ => Dev.sought_slotState) _ _)).trans Dev.sought_trySlots
    dsimp only
    split
    · exact tried
    · exact tried.trans Dev.sought_trySlots

theorem Dev.sought_waitImage : d.Sought d.waitImage :=
  ⟨rfl, fun g i j hg => Dev.fld_setFld_id _ _ g _ _ i j _ (fun h => hg (h ▸ List.mem_cons_of_mem _ List.mem_cons_self))⟩

theorem Dev.sought_waitHost : d.Sought d.waitHost := Dev.sought_record.trans Dev.sought_waitImage

theorem Dev.sought_spiImage {spi : Spi} : d.Sought (d.spiImage spi).1 := by
  unfold Dev.spiImage
  split
  · exact .refl d
  · split
    · exact Dev.sought_noteRefused
    · exact Dev.sought_noteLoad

/-- An image that has been found waits for its commit. -/
theorem Dev.sought_found {x : Nat × Nat × Bytes} :
    d.Sought (({ d with img := { d.img with next := some x } } : Dev).set0 .CLK_BOOT_STATUS_PHASE 5) :=
  ⟨rfl, fun g i j hg => Dev.fld_setFld_id _ _ g _ _ i j _ (fun h => hg (h ▸ List.mem_cons_of_mem _ List.mem_cons_self))⟩

theorem Dev.Sought.spi {e x : Dev} {spi : Spi} {o : Option Bytes} (h : d.Sought e) (hx : e.spiImage spi = (x, o)) :
    d.Sought x := h.trans (by simpa only [hx] using Dev.sought_spiImage (d := e) (spi := spi))

/-- The slots are searched only where the store can be read. -/
theorem Dev.sought_slots {x : Dev} {lost : List (Nat × Nat × Nat)} {o : Option (Nat × Bytes)}
    (hx : (if d.storeDead then (d, none) else d.slotSelect lost) = (x, o)) : d.Sought x := by
  split at hx
  · cases hx
    exact .refl _
  · simpa only [hx] using Dev.sought_slotSelect (d := d) (lost := lost)

theorem Dev.sought_findImage {spi : Spi} {lost : List (Nat × Nat × Nat)} : d.Sought (d.findImage spi lost) := by
  unfold Dev.findImage
  dsimp only
  split
  · split
    next hx => exact (Dev.Sought.spi (.refl d) hx).trans Dev.sought_found
    next hx => exact (Dev.Sought.spi (.refl d) hx).trans Dev.sought_waitHost
  · split
    · split
      next hx => exact (Dev.sought_slots hx).trans Dev.sought_found
      next hx =>
        split
        · have fallback := (Dev.sought_slots hx).trans (Dev.sought_record (c := .BOOT_SOURCE_FALLBACK) (k := 0) (i := 0)
            (p := payloadOf []))
          split
          next hx => exact (Dev.Sought.spi fallback hx).trans Dev.sought_found
          next hx => exact (Dev.Sought.spi fallback hx).trans Dev.sought_waitHost
        · exact (Dev.sought_slots hx).trans Dev.sought_waitHost
    · exact Dev.sought_waitImage

/-! ### The start of the firmware (R80) -/

/-- Firmware of a source runs. -/
def Dev.Starts (t : Dev) (src slot v : Nat) : Prop :=
  t.boot.fwRuns = true ∧ t.boot.waitFw = false ∧ t.f0 .CLK_BOOT_STATUS_FW_SOURCE = src ∧
    t.f0 .CLK_BOOT_STATUS_FW_SLOT = slot ∧ t.f0 .GLB_FW_VERSION = v % 2 ^ 32 ∧ t.f0 .MBX_STATUS_FW_UP = 1

/-- The firmware that starts shows in the registers. -/
def Dev.fwShown (d : Dev) (src slot v : Nat) : Dev :=
  let d1 := { d with boot := { d.boot with fwRuns := true, waitFw := false, hostFw := none } }
  let d2 := ((d1.set0 .CLK_BOOT_STATUS_FW_SOURCE src).set0 .CLK_BOOT_STATUS_FW_SLOT slot).set0 .GLB_FW_VERSION v
  ((({ d2 with pins := { d2.pins with spiCs := false } } : Dev).set0 .MON_STATUS_READY 1).set0 .MBX_STATUS_FW_UP 1)

theorem Dev.f0_pins {x : Pins} {f : Field} : ({ d with pins := x } : Dev).f0 f = d.f0 f := rfl

theorem Dev.fwShown_starts {src slot v : Nat} (hsrc : src < 4) (hslot : slot < 2) :
    (d.fwShown src slot v).Starts src slot v := by
  refine ⟨rfl, rfl, ?_, ?_, ?_, Dev.f0_set0_same _ _ _⟩ <;>
    simp (disch := decide) only [Dev.fwShown, Dev.f0_set0_other, Dev.f0_set0_same, Dev.f0_pins]
  · exact Nat.mod_eq_of_lt hsrc
  · exact Nat.mod_eq_of_lt hslot
  · rfl

/-- Firmware that starts runs, and so it stays while its image is looked for. -/
theorem Dev.startFirmware_starts {src slot v : Nat} {spi : Spi} {lost : List (Nat × Nat × Nat)} (hsrc : src < 4)
    (hslot : slot < 2) :
    (d.startFirmware src slot v spi lost).Starts src slot v ∧ (d.startFirmware src slot v spi lost).boot.hostFw = none := by
  have sought : (d.fwShown src slot v).Sought (d.startFirmware src slot v spi lost) :=
    (Dev.reports_doorbell _ 3).sought.trans Dev.sought_findImage
  have kept {f : Field} (hf : f.id ∉ searchFields) :
      (d.startFirmware src slot v spi lost).f0 f = (d.fwShown src slot v).f0 f := sought.fld f 0 0 hf
  obtain ⟨-, -, source, slot', version, up⟩ := Dev.fwShown_starts (d := d) (v := v) hsrc hslot
  have view := sought.view
  simp only [Dev.fwView, Prod.mk.injEq] at view
  obtain ⟨runs, waits, host⟩ := view
  exact ⟨⟨runs, waits, (kept (by decide)).trans source, (kept (by decide)).trans slot', (kept (by decide)).trans version,
    (kept (by decide)).trans up⟩, host⟩

theorem fwOrder_slot {a b : Option (Nat × Bool)} {x : Nat × Nat × Bool} (h : x ∈ fwOrder a b) : x.1 < 2 := by
  have held : ∀ y ∈ (a.map (fun x => (0, x))).toList ++ (b.map (fun x => (1, x))).toList, y.1 < 2 := by
    intro y hy
    simp only [List.mem_append, Option.mem_toList, Option.map_eq_some_iff] at hy
    obtain ⟨_, -, rfl⟩ | ⟨_, -, rfl⟩ := hy
    · exact Nat.zero_lt_two
    · exact Nat.one_lt_two
  unfold fwOrder at h
  dsimp only at h
  split at h
  next p q hpq =>
    rw [hpq] at held
    split at h
    · exact held x (by simpa [or_comm] using h)
    · exact held x h
  next => exact held x h

/-- The ROM waits for firmware of the host. -/
def Dev.awaitFw (d : Dev) : Dev :=
  ({ d with boot := { d.boot with waitFw := true }, pins := { d.pins with spiCs := false } } : Dev).set0 .CLK_BOOT_STATUS_PHASE 2

theorem Dev.awaitFw_waits (h : d.boot.fwRuns = false) :
    d.awaitFw.boot.waitFw = true ∧ d.awaitFw.f0 .CLK_BOOT_STATUS_PHASE = 2 ∧ d.awaitFw.boot.fwRuns = false :=
  ⟨rfl, Dev.f0_set0_same _ _ _, h⟩

theorem Dev.romReady_rests (h : d.romReady = true) : d.boot.fwRuns = false := by
  simp only [Dev.romReady, Bool.and_eq_true, Bool.not_eq_true'] at h
  obtain ⟨⟨⟨⟨-, rests⟩, -⟩, -⟩, -⟩ := h
  exact rests

/-- The records of the firmware slots that hold none (R80). -/
def Dev.noteSlots (d : Dev) (n : Nat) : Dev :=
  (List.range n).foldl (fun d _ => d.record .FW_SLOT_FALLBACK 0 0 (payloadOf [])) d

theorem Dev.noteSlots_boot {n : Nat} : (d.noteSlots n).boot = d.boot :=
  (Dev.Aside.foldl (fun _ _ => Dev.aside_record) _ _).boot

end

section
variable {a b : Option (Nat × Bool)} {spi : Spi} {lost : List (Nat × Nat × Nat)} {s : State}

/-- The firmware that the host gave starts. -/
theorem firmwareStart_host {v : Nat} (hready : s.dev.romReady = true) (hfw : s.dev.boot.hostFw = some v) :
    exec (.firmwareStart a b spi lost) s = .next (s.on (s.dev.startFirmware 2 0 v spi lost)) := by
  simp only [exec_firmwareStart, execFirmwareStart, State.run_eq, hready, hfw, Bool.not_true, Bool.false_eq_true, if_false]
  rfl

/-- The firmware of SPI starts. -/
theorem firmwareStart_spi {v : Nat} (hready : s.dev.romReady = true) (hfw : s.dev.boot.hostFw = none)
    (hwait : s.dev.boot.waitFw = false) (hstrap : s.dev.f0 .CLK_BOOT_STATUS_STRAP = 1) (hspi : spi.fw = some v)
    (hlen : (spiLength spi).isSome = true) :
    exec (.firmwareStart a b spi lost) s = .next (s.on (s.dev.startFirmware 1 0 v spi lost)) := by
  simp only [exec_firmwareStart, execFirmwareStart, State.run_eq, hready, hfw, hwait, hstrap, hspi, hlen, Bool.not_true,
    Bool.false_eq_true, if_false, if_true]
  rfl

/-- The firmware of the first good slot starts. -/
theorem firmwareStart_slot {slot v : Nat} (hready : s.dev.romReady = true) (hfw : s.dev.boot.hostFw = none)
    (hwait : s.dev.boot.waitFw = false)
    (hstrap : s.dev.f0 .CLK_BOOT_STATUS_STRAP = 0 ∨ s.dev.f0 .CLK_BOOT_STATUS_STRAP = 3) (hdead : s.dev.storeDead = false)
    (hfind : (fwOrder a b).find? (fun x => x.2.2) = some (slot, v, true)) :
    exec (.firmwareStart a b spi lost) s = .next (s.on
      ((s.dev.noteSlots ((fwOrder a b).takeWhile (fun x => !x.2.2)).length).startFirmware 0 slot v spi lost)) := by
  have strap : s.dev.f0 .CLK_BOOT_STATUS_STRAP ≠ 1 := by omega
  simp only [exec_firmwareStart, execFirmwareStart, State.run_eq, hready, hfw, hwait, strap, hstrap, hdead, hfind, Bool.not_true,
    Bool.false_eq_true, if_false, if_true]
  rfl

/-- A strap that names the host. -/
theorem firmwareStart_awaits (hready : s.dev.romReady = true) (hfw : s.dev.boot.hostFw = none)
    (hwait : s.dev.boot.waitFw = false)
    (hstrap : s.dev.f0 .CLK_BOOT_STATUS_STRAP = 2 ∨ 4 ≤ s.dev.f0 .CLK_BOOT_STATUS_STRAP) :
    exec (.firmwareStart a b spi lost) s = .next (s.on s.dev.awaitFw) := by
  have strap : s.dev.f0 .CLK_BOOT_STATUS_STRAP ≠ 1 := by omega
  have slots : ¬(s.dev.f0 .CLK_BOOT_STATUS_STRAP = 0 ∨ s.dev.f0 .CLK_BOOT_STATUS_STRAP = 3) := by omega
  simp only [exec_firmwareStart, execFirmwareStart, State.run_eq, State.on, Dev.awaitFw, hready, hfw, hwait, strap, slots,
    Bool.not_true, Bool.false_eq_true, if_false]

/-- Slots of which none holds firmware that verifies. -/
theorem firmwareStart_noSource (hready : s.dev.romReady = true) (hfw : s.dev.boot.hostFw = none)
    (hwait : s.dev.boot.waitFw = false) (hstrap : s.dev.f0 .CLK_BOOT_STATUS_STRAP = 0)
    (hbad : s.dev.storeDead = true ∨ (fwOrder a b).all (fun x => !x.2.2) = true) :
    ∃ n, exec (.firmwareStart a b spi lost) s = .next (s.on
      ((s.dev.noteSlots n).record .BOOT_WAIT_HOST 0 0 (payloadOf [])).awaitFw) := by
  have none_good : (if s.dev.storeDead then [] else fwOrder a b).find? (fun x => x.2.2) = none := by
    split
    · rfl
    next h => exact List.find?_eq_none.2 (by simpa [h] using hbad)
  refine ⟨((if s.dev.storeDead then [] else fwOrder a b).takeWhile (fun x => !x.2.2)).length, ?_⟩
  simp only [exec_firmwareStart, execFirmwareStart, State.run_eq, hready, hfw, hwait, hstrap, none_good, Bool.not_true,
    Bool.false_eq_true, if_false, if_true, true_or, Nat.zero_ne_one, OfNat.zero_ne_ofNat]
  rfl

theorem firmwareStart_waits (hready : s.dev.romReady = true) (hfw : s.dev.boot.hostFw = none)
    (hwait : s.dev.boot.waitFw = false)
    (hnone : (s.dev.f0 .CLK_BOOT_STATUS_STRAP = 2 ∨ 4 ≤ s.dev.f0 .CLK_BOOT_STATUS_STRAP) ∨
      (s.dev.f0 .CLK_BOOT_STATUS_STRAP = 0 ∧ (s.dev.storeDead = true ∨ (fwOrder a b).all (fun x => !x.2.2) = true))) :
    Completes (.firmwareStart a b spi lost) s fun t =>
      t.boot.waitFw = true ∧ t.f0 .CLK_BOOT_STATUS_PHASE = 2 ∧ t.boot.fwRuns = false := by
  have rests := Dev.romReady_rests hready
  obtain hstrap | ⟨hstrap, hbad⟩ := hnone
  · exact completes_of_eq (firmwareStart_awaits hready hfw hwait hstrap) (Dev.awaitFw_waits rests)
  · obtain ⟨n, h⟩ := firmwareStart_noSource (spi := spi) (lost := lost) hready hfw hwait hstrap hbad
    refine completes_of_eq h (Dev.awaitFw_waits ?_)
    rw [Dev.record_boot, Dev.noteSlots_boot, rests]

/-! ### Firmware of the host (R82) -/

/-- GO of a well-formed load. -/
theorem hostFwLoad_busy {m : Master} (hopen : s.dev.Open m (Reg.CLK_BOOT_FW_CMD.addr 0 0)) (hwaits : s.dev.waitsForHost = true)
    (hbusy : s.dev.b0 .CLK_BOOT_FW_CMD_BUSY = false) (hlen : 0 < s.dev.f0 .CLK_BOOT_FW_LEN)
    (hmax : s.dev.f0 .CLK_BOOT_FW_LEN ≤ 67108864) (halign : s.dev.f0 .CLK_BOOT_FW_LO % 64 = 0) :
    Completes (.hostFwLoad m) s fun t => t.f0 .CLK_BOOT_FW_CMD_BUSY = 1 ∧ t.f0 .CLK_BOOT_FW_CMD_ERR = 0 ∧
      t.reg.last = .ok 0 := by
  let e := ((s.dev.set0 .CLK_BOOT_FW_CMD_BUSY 1).set0 .CLK_BOOT_FW_CMD_ERR 0).set0 .CLK_BOOT_FW_CMD_REASON 0
  have busy : e.f0 .CLK_BOOT_FW_CMD_BUSY = 1 := by
    simp (disch := decide) only [e, Dev.f0_set0_other, Dev.f0_set0_same]
    rfl
  have err : e.f0 .CLK_BOOT_FW_CMD_ERR = 0 := by
    simp (disch := decide) only [e, Dev.f0_set0_other, Dev.f0_set0_same, Nat.zero_mod]
  have length : ¬(s.dev.f0 .CLK_BOOT_FW_LEN = 0 ∨ 67108864 < s.dev.f0 .CLK_BOOT_FW_LEN) := by omega
  refine completes_of_run (fun d => d.onWrite m .CLK_BOOT_FW_CMD 0 0 Dev.fwLoadGo) rfl ?_
  rw [Dev.onWrite_open _ _ _ _ _ _ hopen, Dev.fwLoadGo]
  simp only [hwaits, hbusy, length, halign, Bool.not_true, Bool.false_eq_true, or_self, ne_eq, not_true_eq_false, if_false]
  exact ⟨busy, err, rfl⟩

/-- The load of a buffer read in full with a header and a signature that hold. -/
theorem hostFwLoadDone_given {version : Nat} (hbusy : s.dev.b0 .CLK_BOOT_FW_CMD_BUSY = true) (hread : s.dev.fwReading = false) :
    Completes (.hostFwLoadDone true (s.dev.f0 .CLK_BOOT_FW_LEN) version true) s fun t =>
      t.boot.hostFw = some version ∧ t.f0 .CLK_BOOT_FW_CMD_BUSY = 0 ∧ t.f0 .CLK_BOOT_FW_CMD_ERR = 0 ∧
      t.f0 .CLK_BOOT_FW_CMD_REASON = 0 := by
  have ended : (s.dev.fwLoadEnd 0).f0 .CLK_BOOT_FW_CMD_BUSY = 0 ∧ (s.dev.fwLoadEnd 0).f0 .CLK_BOOT_FW_CMD_ERR = 0 ∧
      (s.dev.fwLoadEnd 0).f0 .CLK_BOOT_FW_CMD_REASON = 0 := by
    unfold Dev.fwLoadEnd
    simp (disch := decide) only [Dev.f0_set0_other, Dev.f0_set0_same]
    decide
  refine completes_of_eq
    (t := { s.dev.fwLoadEnd 0 with boot := { s.dev.boot with hostFw := some version } }) ?_ ⟨rfl, ended⟩
  simp only [exec_hostFwLoadDone, execHostFwLoadDone, State.run_eq, hbusy, hread, Bool.not_true, Bool.false_eq_true, false_and,
    or_self, ne_eq, not_true_eq_false, if_false]
  rfl

end

end Sys2Proof.Machine
end

