-- ==== Sys2Proof/Proofs/Spring.lean ====
section
/-! SPRING (R87 to R90): the records that a check and a stalled start leave, the mount of the hold store (R305), and the device
that leaves SPRING (R65, R88). -/

namespace Sys2Proof.Machine

section
variable {d : Dev}

/-! ### The staging FIFO (R489) -/

@[simp] theorem Dev.msix_evr {f v : Nat} : (d.msix f v).evr = d.evr := by
  unfold Dev.msix
  split
  · rfl
  · split
    · split
      · rfl
      · rfl
    · split
      · rfl
      · rfl

@[simp] theorem Dev.raise_evr {s : Nat} : (d.raise s).evr = d.evr := by
  unfold Dev.raise
  dsimp only
  split
  · rfl
  · split <;> split <;> simp only [Dev.msix_evr, Dev.setBit_evr]

@[simp] theorem Dev.doorbell_evr {b : Nat} : (d.doorbell b).evr = d.evr := by
  unfold Dev.doorbell
  rw [Dev.raise_evr]
  split
  · rfl
  · rfl

/-- A record that is accepted stands last in the FIFO. -/
theorem Dev.accept_fifo {r : EvRec} : ∃ x : EvRec, x.code = r.code ∧ (d.accept r).evr.fifo = d.evr.fifo ++ [x] := by
  refine ⟨if d.evr.numbering then { r with seq := some d.evr.nextSeq } else r, ?_, ?_⟩
  · split
    · rfl
    · rfl
  · unfold Dev.accept
    dsimp only
    split <;> split <;> simp only [Dev.doorbell_evr, Dev.raise_evr, Dev.count_evr]

/-- The pending LOST record takes at most one slot. -/
theorem Dev.acceptLost_fifo : d.acceptLost.evr.fifo.length ≤ d.evr.fifo.length + 1 := by
  have cleared {e : Dev} : ((List.range 6).foldl (fun d s => d.set1 .EVR_LOST_PEND s 0) e).evr = e.evr := rfl
  unfold Dev.acceptLost
  dsimp only
  split
  · obtain ⟨x, -, h⟩ := Dev.accept_fifo (d := d) (r := d.mkRecord .LOST 0 0
      (payloadOf (((List.range 6).map (fun s => d.f1 .EVR_LOST_PEND s)).map (fun n => (4, n)))))
    rw [cleared, h, List.length_append, List.length_singleton]
  · exact Nat.le_succ _

/-- The interrupt source of an event's block is raised (Table 16-7). -/
def Dev.sourced (d : Dev) (c : EvCode) (k i : Nat) : Dev :=
  match c.source k i with
  | some s => d.raise s
  | none => d

@[simp] theorem Dev.sourced_evr {c : EvCode} {k i : Nat} : (d.sourced c k i).evr = d.evr := by
  unfold Dev.sourced
  split
  · exact Dev.raise_evr
  · rfl

theorem Dev.record_eq {c : EvCode} {k i : Nat} {p : Bytes} : d.record c k i p =
    let e := (d.sourced c k i).acceptLost
    if d.boot.inReset then d
    else if (if c.severity.severe then 0 else 256) < e.evrFree then e.accept (e.mkRecord c k i p)
    else (e.satInc .EVR_LOST_PEND c.severity.toNat 0 1).count .EVR_DROPPED 0 := rfl

/-- An event is recorded where the FIFO has room for it and for a LOST record. -/
theorem Dev.record_staged {c : EvCode} {k i : Nat} {p : Bytes} (hreset : d.boot.inReset = false)
    (hroom : d.evr.fifo.length < 3800) : ∃ r ∈ (d.record c k i p).evr.fifo, r.code = c := by
  let e := (d.sourced c k i).acceptLost
  have room : (if c.severity.severe then 0 else 256) < e.evrFree := by
    have held : e.evr.fifo.length ≤ (d.sourced c k i).evr.fifo.length + 1 := Dev.acceptLost_fifo
    rw [Dev.sourced_evr] at held
    unfold Dev.evrFree
    split <;> omega
  have unreset : ¬d.boot.inReset = true := by simp [hreset]
  have accepted : d.record c k i p = e.accept (e.mkRecord c k i p) :=
    Dev.record_eq.trans ((if_neg unreset).trans (if_pos room))
  obtain ⟨x, hcode, hfifo⟩ := Dev.accept_fifo (d := e) (r := e.mkRecord c k i p)
  rw [accepted, hfifo]
  exact ⟨x, List.mem_append_right _ (List.mem_singleton.2 rfl), hcode⟩

/-! ### The checks (R87, Table 3-12) -/

theorem Dev.passed_phase {n : Nat} :
    (d.passed n).f0 .CLK_BOOT_STATUS_PHASE = (if n < 4 then 6 else if n = 4 then 7 else 8) := by
  have phase : (if n < 4 then 6 else if n = 4 then 7 else 8) < 2 ^ Field.CLK_BOOT_STATUS_PHASE.width := by
    split
    · decide
    · split
      · decide
      · decide
  exact (Dev.f0_set0_same _ _ _).trans (Nat.mod_eq_of_lt phase)

/-- Checks 3 to 5 pass whatever they find: what is beyond use leaves service. -/
theorem Dev.springCheck_passes {n : Nat} {ok : Bool} {mask : Nat} (hn : n = 3 ∨ n = 4 ∨ n = 5) :
    ∃ e : Dev, d.springCheck n ok mask = e.passed n := by
  obtain rfl | rfl | rfl := hn
  · exact ⟨_, rfl⟩
  · exact ⟨_, rfl⟩
  · by_cases h : ok ∧ d.hld.mounted ∧ !d.hld.outOfService
    · exact ⟨d, if_pos h⟩
    · exact ⟨(d.checkFailed 5 4 0).holdOutOfService none, if_neg h⟩

theorem Dev.checkWinter_config {n : Nat} :
    (d.checkWinter n .HLT_CAUSE_CONFIG).winter = true ∧ (d.checkWinter n .HLT_CAUSE_CONFIG).b0 .HLT_CAUSE_CONFIG = true := by
  unfold Dev.checkWinter
  exact ⟨decide_eq_true (Dev.health_winterCause (by decide)), Dev.winterCause_set (by decide) (by decide)⟩

/-! ### The mount (R305) -/

/-- The fields that a mount writes once the store shows as mounted. -/
def mountFields : List Nat :=
  [Field.HLD_FORMAT_CAP_GIB.id, Field.HLD_STATUS_SWEEPING.id, Field.EVR_STATUS_MOUNTED.id, Field.EVR_STATUS_NO_STORE.id,
    Field.EVR_STATUS_ERASING.id, Field.EVR_STATUS_FLUSHING.id, Field.CAL_STATUS_SAVED.id, Field.CAL_STATUS_RESTORED.id] ++
  liveFields

/-- At most what follows the mount of the store leads from one device to the other. -/
abbrev Dev.Mounts (d e : Dev) : Prop := d.Keeps mountFields Dev.hld e

theorem Dev.mounts_setFld {f : Field} {i j v : Nat} (hf : f.id ∈ mountFields) : d.Mounts (d.setFld f i j v) :=
  Dev.keeps_setFld hf rfl

theorem Dev.mounts_record {c : EvCode} {k i : Nat} {p : Bytes} : d.Mounts (d.record c k i p) :=
  (Dev.reports_record _ _ _ _ _).keeps (fun _ hm => List.mem_append_right _ (List.mem_append_right _ hm))
    (Dev.record_hld _ _ _ _ _)

theorem Dev.mounts_evr {x : Recorder} : d.Mounts { d with evr := x } := ⟨rfl, fun _ _ _ _ => rfl⟩

theorem Dev.mounts_takeCals {l : List (Nat × Int)} : d.Mounts (d.takeCals l) :=
  ⟨Dev.live_takeCals.live_hld, fun f i j hf => Dev.live_takeCals.fld f i j (fun hm => hf (List.mem_append_right _ hm))⟩

theorem Dev.mounts_evrTrigger : d.Mounts d.evrTrigger := by
  have queued {x : Recorder} {y : MbxSt} : d.Mounts { d with evr := x, mbx := y } := ⟨rfl, fun _ _ _ _ => rfl⟩
  exact .ite Dev.mounts_evr (queued.trans (Dev.mounts_setFld (by decide)))

theorem Dev.mounts_evrMount {valid : Bool} : d.Mounts (d.evrMount valid) := by
  have shown : d.Mounts ((d.set0 .EVR_STATUS_MOUNTED 1).set0 .EVR_STATUS_NO_STORE 0) :=
    Dev.Keeps.trans (Dev.mounts_setFld (by decide)) (Dev.mounts_setFld (by decide))
  have numbered {e : Dev} (h : d.Mounts e) {n : Nat} : d.Mounts (if e.evr.numbering then e else e.numberStaged n) :=
    .ite h (h.trans Dev.mounts_evr)
  have recovered {e : Dev} (h : d.Mounts e) {p : Bytes} :
      d.Mounts (if valid then e else e.record .EVR_SEQ_RECOVERED 0 0 p) := .ite h (h.trans Dev.mounts_record)
  have headed {x y : Recorder} := shown.trans ((Dev.mounts_evr (x := x)).trans (Dev.mounts_evr (x := y)))
  unfold Dev.evrMount
  dsimp only
  split
  · exact ((recovered ((numbered (.ite shown headed)).trans Dev.mounts_evr)).trans (Dev.mounts_setFld (by decide))).trans
      Dev.mounts_record
  · exact .ite ((recovered ((numbered (.ite shown headed)).trans Dev.mounts_evr)).trans Dev.mounts_evrTrigger)
      (recovered ((numbered (.ite shown headed)).trans Dev.mounts_evr))

theorem Dev.mounts_restoreCal {okA okB : Bool} : d.Mounts (d.restoreCal okA okB) := by
  have copy {e : Dev} {ok : Bool} {p : Bytes} : e.Mounts (if ok then e else e.record .CAL_RESTORE_FAILED 0 0 p) :=
    .ite (.refl e) Dev.mounts_record
  unfold Dev.restoreCal
  split
  · exact .refl d
  · exact .ite (((((copy.trans copy).trans Dev.mounts_takeCals).trans (Dev.mounts_setFld (by decide))).trans
      (Dev.mounts_setFld (by decide))).trans Dev.mounts_record) (copy.trans copy)

theorem Dev.mounts_startSweep : d.Mounts d.startSweep := .ite (Dev.mounts_setFld (by decide)) (.refl d)

/-- The contents of a mounted store: its durable queues, the sweep, the event area and the saved calibration. -/
def Dev.mountContents (d : Dev) (valid : Bool) (live : Map HoldQ) (frames : Nat) (calA calB : Bool) : Dev :=
  let d5 := if live.isEmpty then d else d.record .DURABLE_RESTORED 0 0 (payloadOf [(2, live.length), (8, frames)])
  let d6 := if d5.hld.strays.isEmpty then d5 else d5.startSweep
  (d6.evrMount valid).restoreCal calA calB

theorem Dev.mounts_contents {valid : Bool} {live : Map HoldQ} {frames : Nat} {calA calB : Bool} :
    d.Mounts (d.mountContents valid live frames calA calB) := by
  have restored {p : Bytes} : d.Mounts (if live.isEmpty then d else d.record .DURABLE_RESTORED 0 0 p) :=
    .ite (.refl d) Dev.mounts_record
  have swept {e : Dev} : e.Mounts (if e.hld.strays.isEmpty then e else e.startSweep) := .ite (.refl e) Dev.mounts_startSweep
  unfold Dev.mountContents
  exact ((restored.trans swept).trans Dev.mounts_evrMount).trans Dev.mounts_restoreCal

/-- What a mount does once the store shows as mounted. -/
def Dev.afterMount (d : Dev) (c : Option Commit) (live : Map HoldQ) (frames : Nat) (calA calB : Bool) : Dev :=
  let d3 := d.showCapture.record .HOLD_MOUNTED 0 0 (payloadOf [(4, d.hld.ring.free), (2, live.length), (8, frames)])
  let d4 := match c with
    | some x => d3.record .HOLD_PF_FLUSH 0 0 (payloadOf [(2, x.us), (2, x.rows), (2, x.queues.length)])
    | none => d3
  d4.mountContents c.isSome live frames calA calB

end

end Sys2Proof.Machine
end

