-- ==== Sys2Proof/Proofs/BootAndSpring.lean ====
section
/-! The commands of the boot and of SPRING (R66, R80 to R82, R87 to R90, R305). -/

namespace Sys2Proof.Machine

section
variable {d : Dev}

/-! ### ALERT_N (R408) -/

/-- The fields that follow the monitors' states. -/
def alertFields : List Nat :=
  [Field.MON_STATUS_TEMP_WARN.id, Field.MON_STATUS_VOLT_WARN.id, Field.MON_STATUS_HARD.id, Field.HLT_SUM_PKG_TEMP_WARN.id,
    Field.HLT_SUM_PKG_VOLT_WARN.id, Field.MON_STATUS_ALERT.id]

/-- The boot state, the loader and SAFE_N. -/
def Dev.alertView (d : Dev) : BootSt × ImgSt × Bool := (d.boot, d.img, d.pins.safeN)

theorem Dev.settleAlert_keeps : d.Keeps alertFields Dev.alertView d.settleAlert := by
  have set {e : Dev} {f : Field} {v : Nat} (hf : f.id ∈ alertFields) : e.Keeps alertFields Dev.alertView (e.set0 f v) :=
    Dev.keeps_setFld hf rfl
  have shown {e : Dev} {v : Bool} :
      e.Keeps alertFields Dev.alertView { e with pins := { e.pins with alertN := v } } := ⟨rfl, fun _ _ _ _ => rfl⟩
  unfold Dev.settleAlert
  exact ((((((set (by decide)).trans (set (by decide))).trans (set (by decide))).trans (set (by decide))).trans
    (set (by decide))).trans (set (by decide))).trans shown

theorem Dev.Keeps.alert {e : Dev} (h : d.Keeps alertFields Dev.alertView e) :
    e.boot = d.boot ∧ e.img = d.img ∧ e.pins.safeN = d.pins.safeN := by
  have view := h.view
  simpa only [Dev.alertView, Prod.mk.injEq] using view

/-! ### SUMMER or AUTUMN (R65, R88) -/

/-- The state that SPRING leads to. -/
def Dev.nextHealth (d : Dev) : Nat := if d.autumnWord = 0 then 1 else 2

/-- SAFE_N and REPLACE_N are released, and the fabric's origination is due. -/
def Dev.safeReleased (d : Dev) : Dev :=
  { d with
    boot := { d.boot with afterExit := false }
    fab := { d.fab with originateDue := true }
    pins := { d.pins with safeN := false, replaceN := false } }

theorem Dev.safeReleased_f0 {f : Field} : d.safeReleased.f0 f = d.f0 f := rfl

/-- SPRING is over, and its end recorded. -/
def Dev.springOver (d : Dev) : Dev :=
  let ms := (d.now - d.boot.t0) / tMs
  ((d.set0 .CLK_BOOT_TIME ms).set0 .CLK_BOOT_STATUS_PHASE 9).safeReleased.record .SPRING_LEFT 0 0
    (payloadOf [(1, d.nextHealth), (4, ms)])

/-- The new state is in force. -/
def Dev.springEnded (d : Dev) : Dev :=
  if d.nextHealth = 2 then d.springOver.enterAutumn d.springOver.hlt.lastCode
  else d.springOver.setHealth 1 EvCode.SPRING_LEFT.code

/-- A device with its new state, SAFE_N released. -/
def Dev.LeftSpring (t : Dev) (st : Nat) : Prop :=
  t.health = st ∧ t.pins.safeN = false ∧ t.f0 .CLK_BOOT_STATUS_PHASE = 9

theorem Dev.springOver_phase : d.springOver.f0 .CLK_BOOT_STATUS_PHASE = 9 := by
  unfold Dev.springOver
  rw [Dev.record_f0 (by decide), Dev.safeReleased_f0, Dev.f0_set0_same]
  rfl

theorem Dev.springOver_safeN : d.springOver.pins.safeN = false := by
  unfold Dev.springOver
  rw [Dev.record_pins]
  rfl

theorem Dev.Keeps.quiet_safeN {e : Dev} (h : d.Quiet e) : e.pins.safeN = d.pins.safeN :=
  congrArg (fun x => x.2.2.2.2.safeN) h.view

theorem Dev.setHealth_safeN {st code : Nat} : (d.setHealth st code).pins.safeN = d.pins.safeN :=
  Dev.quiet_setHealth.quiet_safeN

/-- AUTUMN shows at REPLACE_N, and the fabric's origination is due. -/
def Dev.replaceShown (d : Dev) : Dev :=
  { d with pins := { d.pins with replaceN := true }, fab := { d.fab with originateDue := true } }

/-- What follows the state of AUTUMN is a record and messages. -/
theorem Dev.enterAutumn_told {code : Nat} : (d.replaceShown.setHealth 2 code).Quiet (d.enterAutumn code) :=
  Dev.quiet_record.trans Dev.quiet_floodNotice

theorem Dev.enterAutumn_health {code : Nat} : (d.enterAutumn code).health = 2 :=
  (Dev.enterAutumn_told.f0 (by decide)).trans (Dev.health_setHealth (by decide))

theorem Dev.enterAutumn_safeN {code : Nat} : (d.enterAutumn code).pins.safeN = d.pins.safeN := by
  rw [Dev.enterAutumn_told.quiet_safeN, Dev.setHealth_safeN]
  rfl

/-- SPRING leads to SUMMER or AUTUMN. -/
theorem Dev.nextHealth_summer (h : d.nextHealth ≠ 2) : d.nextHealth = 1 := by
  unfold Dev.nextHealth at h ⊢
  by_cases hw : d.autumnWord = 0
  · exact if_pos hw
  · exact absurd (if_neg hw) h

theorem Dev.springEnded_left : d.springEnded.LeftSpring d.nextHealth := by
  unfold Dev.springEnded
  split
  next h =>
    exact ⟨Dev.enterAutumn_health.trans h.symm, Dev.enterAutumn_safeN.trans Dev.springOver_safeN,
      (Dev.autumnal_enterAutumn.f0 (by decide)).trans Dev.springOver_phase⟩
  next h =>
    exact ⟨(Dev.health_setHealth (by decide)).trans (Dev.nextHealth_summer h).symm, Dev.setHealth_safeN.trans Dev.springOver_safeN,
      (Dev.setHealth_fld (by decide)).trans Dev.springOver_phase⟩

/-- The trial and the time stand while SPRING ends. -/
theorem Dev.springEnded_trial : d.springEnded.img = d.img ∧ d.springEnded.now = d.now := by
  have ended : d.springOver.Aside d.springEnded := .ite Dev.aside_enterAutumn Dev.aside_setHealth
  rw [ended.img, ended.now]
  unfold Dev.springOver
  rw [Dev.record_img, Dev.record_now]
  exact ⟨rfl, rfl⟩

/-- A trial that passes writes its slot's state. -/
theorem Dev.trialPassed_keeps (h : d.img.trial.all (fun x => decide (d.now ≤ x.2)) = true) :
    d.Keeps (Field.IMG_SLOT_STATE_STATES.id :: reportFields) Dev.pins d.trialPassed := by
  unfold Dev.trialPassed
  split
  · exact .refl d
  next slot end_ htrial =>
    rw [htrial] at h
    have due : ¬end_ < d.now := Nat.not_lt.2 (of_decide_eq_true h)
    have marked {x : ImgSt} : d.Keeps (Field.IMG_SLOT_STATE_STATES.id :: reportFields) Dev.pins
        (({ d with img := x } : Dev).slotState slot 4) :=
      ⟨rfl, fun _ _ _ hg => Dev.slotState_fld (fun e => hg (e ▸ List.mem_cons_self))⟩
    rw [if_neg due]
    exact marked.trans ((Dev.reports_record _ _ _ _ _).keeps (List.subset_cons_self _ _) (Dev.record_pins _ _ _ _ _))

theorem Dev.LeftSpring.settled {st : Nat} (h : d.LeftSpring st)
    (htrial : d.img.trial.all (fun x => decide (d.now ≤ x.2)) = true) : d.trialPassed.settleAlert.LeftSpring st := by
  obtain ⟨health, safe, phase⟩ := h
  have passed := Dev.trialPassed_keeps htrial
  have alert := Dev.settleAlert_keeps (d := d.trialPassed)
  obtain ⟨-, -, safe'⟩ := alert.alert
  exact ⟨(alert.f0 (by decide)).trans ((passed.f0 (by decide)).trans health),
    safe'.trans ((congrArg Pins.safeN passed.view).trans safe),
    (alert.f0 (by decide)).trans ((passed.f0 (by decide)).trans phase)⟩

/-! ### The mount (R305) -/

/-- The store shows as mounted. -/
def Dev.mountedStore (d : Dev) (h : HldSt) (a : ActSt) : Dev :=
  ({ d with hld := { h with mounted := true, frozen := false, fenced := false }, act := a } : Dev).set0 .HLD_STATUS_MOUNTED 1

theorem Dev.mounts_afterMount {c : Option Commit} {live : Map HoldQ} {frames : Nat} {calA calB : Bool} :
    d.Mounts (d.afterMount c live frames calA calB) := by
  have captured : d.Mounts (d.showCapture.record .HOLD_MOUNTED 0 0
      (payloadOf [(4, d.hld.ring.free), (2, live.length), (8, frames)])) :=
    (Dev.mounts_setFld (by decide)).trans Dev.mounts_record
  unfold Dev.afterMount
  dsimp only
  split
  · exact (captured.trans Dev.mounts_record).trans Dev.mounts_contents
  · exact captured.trans Dev.mounts_contents

theorem Dev.mountedStore_mounts {h : HldSt} {a : ActSt} {e : Dev} (hm : (d.mountedStore h a).Mounts e) :
    e.hld.mounted = true ∧ e.hld.frozen = false ∧ e.f0 .HLD_STATUS_MOUNTED = 1 := by
  have held : e.hld = { h with mounted := true, frozen := false, fenced := false } := hm.view
  rw [held, hm.f0 (by decide)]
  exact ⟨rfl, rfl, Dev.f0_set0_same _ _ _⟩

end

section
variable {s : State}

theorem holdMount_mounts {okA okB calA calB : Bool} (hspring : s.dev.spring = true) (hcommitted : s.dev.boot.committed = true)
    (hmounted : s.dev.hld.mounted = false) (hservice : s.dev.hld.outOfService = false)
    (hdies : s.dev.refindDies.hld.outOfService = false) :
    Completes (.holdMount okA okB calA calB) s fun t => t.hld.mounted = true ∧ t.hld.frozen = false ∧
      t.f0 .HLD_STATUS_MOUNTED = 1 := by
  let c := s.dev.refindDies.hld.takeCommit okA okB
  let e := ({ s.dev.refindDies with hld := c.2 } : Dev).clearDeferral.restoreMeta c.1
  let live := e.hld.queues.filter (fun x => x.2.restored)
  let frames := live.foldl (fun n x => n + x.2.frames.length) 0
  refine completes_of_eq
    (t := (e.mountedStore e.hld { e.act with capHead := 0 }).afterMount c.1 live frames calA calB) ?_
    (Dev.mountedStore_mounts Dev.mounts_afterMount)
  simp only [exec_holdMount, execHoldMount, State.run_eq, hspring, hcommitted, hmounted, hservice, hdies, Bool.not_true,
    Bool.false_eq_true, or_self, if_false]
  rfl

/-- A check completes on a device in SPRING. -/
theorem springCheck_runs {ok : Bool} {mask : Fin 16} {P : Dev → Prop} (hspring : s.dev.spring = true)
    (hcommitted : s.dev.boot.committed = true) (hwait : s.dev.boot.waitImg = false) (hreset : s.dev.boot.inReset = false)
    (hP : P (s.dev.springCheck (s.dev.boot.checks + 1) ok mask)) : Completes (.springCheck ok mask) s P := by
  refine completes_of_eq ?_ hP
  simp only [exec_springCheck, execSpringCheck, State.run_eq, hspring, hcommitted, hwait, hreset, Bool.not_true,
    Bool.false_eq_true, or_self, if_false]
  rfl

theorem springLeft_leaves (hspring : s.dev.spring = true) (hcommitted : s.dev.boot.committed = true)
    (hwait : s.dev.boot.waitImg = false) (hreset : s.dev.boot.inReset = false) (hchecks : s.dev.boot.checks = 8)
    (htrial : s.dev.img.trial.all (fun x => decide (s.dev.now ≤ x.2)) = true) :
    Completes .springLeft s fun t => t.LeftSpring s.dev.nextHealth := by
  have trial : s.dev.springEnded.img.trial.all (fun x => decide (s.dev.springEnded.now ≤ x.2)) = true := by
    rwa [Dev.springEnded_trial.1, Dev.springEnded_trial.2]
  refine completes_of_eq (t := s.dev.springEnded.trialPassed.settleAlert) ?_ (Dev.springEnded_left.settled trial)
  simp only [exec_springLeft, execSpringLeft, State.run_eq, hspring, hcommitted, hwait, hreset, hchecks, Bool.not_true,
    Bool.false_eq_true, ne_eq, not_true_eq_false, or_self, if_false]
  rfl

theorem springStalled_reports (hspring : s.dev.spring = true) (hrom : s.dev.boot.romRuns = true)
    (hreset : s.dev.boot.inReset = false) (hlast : s.dev.boot.lastStall = none)
    (hdue : s.dev.boot.t0 + 60 * tSec ≤ s.dev.now) (hroom : s.dev.evr.fifo.length < 3800) :
    Completes .springStalled s fun t => t.boot.lastStall = some s.dev.now ∧ ∃ r ∈ t.evr.fifo, r.code = .SPRING_STALLED := by
  let e : Dev := { s.dev with boot := { s.dev.boot with lastStall := some s.dev.now } }
  have boot : (e.record .SPRING_STALLED 0 0 (payloadOf [])).boot = e.boot := Dev.record_boot _ _ _ _ _
  refine completes_of_eq (t := e.record .SPRING_STALLED 0 0 (payloadOf [])) ?_
    ⟨congrArg BootSt.lastStall boot, Dev.record_staged hreset hroom⟩
  have due : ¬((!s.dev.spring) = true ∨ (!s.dev.boot.romRuns) = true ∨ s.dev.boot.inReset = true ∨
      s.dev.now < s.dev.boot.t0 + 60 * tSec) := by simp [hspring, hrom, hreset, hdue]
  simp only [exec_springStalled, execSpringStalled, State.run_eq, hlast, if_neg due]
  rfl

/-- The image that waits commits. -/
theorem imageCommit_commits {src slot : Nat} {img : Bytes} (hnext : s.dev.img.next = some (src, slot, img))
    (hfw : s.dev.boot.fwRuns = true) (hspring : s.dev.spring = true) :
    Completes .imageCommit s fun t => t.boot.committed = true ∧ t.img.image = img ∧ t.img.next = none ∧
      t.f0 .CLK_BOOT_STATUS_PHASE = 6 := by
  obtain ⟨committed, -, image, next, phase⟩ :=
    Dev.commit_committed (d := s.dev) (src := src) (slot := slot) (img := img) (keepCal := false)
  have settled := Dev.settleAlert_keeps (d := s.dev.commit src slot img false)
  obtain ⟨boot, loader, -⟩ := settled.alert
  refine completes_of_eq (t := (s.dev.commit src slot img false).settleAlert) ?_ ?_
  case refine_2 =>
    rw [boot, loader, settled.f0 (by decide)]
    exact ⟨committed, image, next, phase⟩
  simp only [exec_imageCommit, execImageCommit, State.run_eq, hnext, hfw, hspring, Bool.not_true, Bool.false_eq_true, or_self,
    if_false]
  rfl

end

/-- Settles O21: each source leads to one start of the firmware, which the search for an image leaves alone; each check and the end
of SPRING is one branch of its rule, and what follows it writes none of the fields named. -/
theorem bootAndSpring : Obligations.BootAndSpring := by
  unfold Obligations.BootAndSpring
  refine ⟨⟨?host, ?spi, ?slots, ?waits, ?load, ?given, ?commit⟩, ?passes, ?later, ?fails, ?last, ?mount, ?left, ?stalled⟩
  case host =>
    exact fun _ _ _ _ _ _ hready hfw => completes_of_eq (firmwareStart_host hready hfw)
      (Dev.startFirmware_starts (by decide) (by decide))
  case spi =>
    exact fun _ _ _ _ _ _ ⟨hready, hfw, hwait⟩ hstrap hspi hlen => completes_of_eq
      (firmwareStart_spi hready hfw hwait hstrap hspi hlen) (Dev.startFirmware_starts (by decide) (by decide)).1
  case slots =>
    exact fun _ _ _ _ _ _ _ ⟨hready, hfw, hwait⟩ hstrap hdead hfind => completes_of_eq
      (firmwareStart_slot hready hfw hwait hstrap hdead hfind)
      (Dev.startFirmware_starts (by decide) (fwOrder_slot (List.mem_of_find?_eq_some hfind))).1
  case waits => exact fun _ _ _ _ _ ⟨hready, hfw, hwait⟩ hnone => firmwareStart_waits hready hfw hwait hnone
  case load => exact fun _ _ hopen hwaits hbusy hlen hmax halign => hostFwLoad_busy hopen hwaits hbusy hlen hmax halign
  case given => exact fun _ _ hbusy hread => hostFwLoadDone_given hbusy hread
  case commit => exact fun _ _ _ _ hnext hfw hspring => imageCommit_commits hnext hfw hspring
  case passes =>
    intro mask s ⟨hspring, hcommitted, hwait, hreset⟩ hchecks
    refine springCheck_runs hspring hcommitted hwait hreset ?_
    obtain h | h := hchecks
    · rw [h]
      exact ⟨rfl, Dev.passed_phase, rfl⟩
    · rw [h]
      exact ⟨rfl, Dev.passed_phase, rfl⟩
  case later =>
    intro ok mask s ⟨hspring, hcommitted, hwait, hreset⟩ hchecks
    refine springCheck_runs hspring hcommitted hwait hreset ?_
    simp only [List.mem_cons, List.not_mem_nil, or_false] at hchecks
    obtain ⟨e, he⟩ := Dev.springCheck_passes (d := s.dev) (n := s.dev.boot.checks + 1) (ok := ok) (mask := mask) (by omega)
    refine he ▸ ⟨rfl, Dev.passed_phase.trans ?_⟩
    obtain h | h | h := hchecks
    · rw [h]; rfl
    · rw [h]; rfl
    · rw [h]; rfl
  case fails =>
    intro mask s ⟨hspring, hcommitted, hwait, hreset⟩ hchecks
    refine springCheck_runs hspring hcommitted hwait hreset ?_
    obtain h | h := hchecks
    · rw [h]
      exact Dev.checkWinter_config
    · rw [h]
      exact Dev.checkWinter_config
  case last =>
    intro mask s ⟨hspring, hcommitted, hwait, hreset⟩ hchecks hpair
    refine springCheck_runs hspring hcommitted hwait hreset ?_
    have passed : s.dev.springCheck 8 true mask = s.dev.passed 8 := if_pos hpair
    rw [hchecks, passed]
    exact ⟨rfl, Dev.passed_phase⟩
  case mount =>
    exact fun _ _ _ _ _ hspring hcommitted hmounted hservice hdies =>
      holdMount_mounts hspring hcommitted hmounted hservice hdies
  case left =>
    exact fun _ ⟨hspring, hcommitted, hwait, hreset⟩ hchecks htrial =>
      springLeft_leaves hspring hcommitted hwait hreset hchecks htrial
  case stalled =>
    exact fun _ hspring hrom hreset hlast hdue hroom => springStalled_reports hspring hrom hreset hlast hdue hroom

end Sys2Proof.Machine
end

