-- ==== Sys2Proof/Proofs/ReportCounters.lean ====
section
/-! Reads of counters after counts, and the counters that reports leave alone: all but the event recorder's own (R501). -/

namespace Sys2Proof.Machine

theorem CtrBlock.ctorIdx_injective : Function.Injective CtrBlock.ctorIdx :=
  Function.LeftInverse.injective CtrBlock.ofNat_ctorIdx

section
variable {d : Dev}

/-! ### Counts -/

/-- A count leaves every other counter alone. -/
theorem Dev.ctr_setCtr_ne {c g : Ctr} {i j v : Nat} (h : g ≠ c) : (d.setCtr c i v).ctr g j = d.ctr g j := by
  refine Dev.ctr_setCtr_other d c g i j v ?_
  rintro ⟨hblock, -, hk⟩
  obtain ⟨b, k⟩ := g
  obtain ⟨b', k'⟩ := c
  exact h (congrArg₂ Ctr.mk (CtrBlock.ctorIdx_injective hblock) hk)

theorem Dev.ctr_countN_ne {c g : Ctr} {i j n : Nat} (h : g ≠ c) : (d.countN c i n).ctr g j = d.ctr g j := Dev.ctr_setCtr_ne h

theorem Dev.ctr_count_ne {c g : Ctr} {i j : Nat} (h : g ≠ c) : (d.count c i).ctr g j = d.ctr g j := Dev.ctr_setCtr_ne h

theorem Ctr.ne_of_block {c g : Ctr} (h : g.block ≠ c.block) : g ≠ c := fun e => h (congrArg Ctr.block e)

/-! ### Interrupts and performance events count nothing -/

@[simp] theorem Dev.msix_ctrs {f v : Nat} : (d.msix f v).ctrs = d.ctrs := by
  unfold Dev.msix
  split
  · rfl
  · split
    · split
      · rfl
      · rfl
    · split
      · rfl
      · rfl

@[simp] theorem Dev.raise_ctrs {s : Nat} : (d.raise s).ctrs = d.ctrs := by
  unfold Dev.raise
  dsimp only
  split
  · rfl
  · split <;> split <;> simp only [Dev.msix_ctrs, Dev.setBit_ctrs]

@[simp] theorem Dev.doorbell_ctrs {b : Nat} : (d.doorbell b).ctrs = d.ctrs := by
  unfold Dev.doorbell
  rw [Dev.raise_ctrs]
  split
  · rfl
  · rfl

theorem Dev.perfAdd_ctrs {m v fuel n : Nat} : (Dev.perfAdd m v fuel n d).ctrs = d.ctrs := by
  induction fuel generalizing v n d with
  | zero => rfl
  | succ k ih =>
    unfold Dev.perfAdd
    dsimp only
    split
    · rfl
    · split
      · exact ih
      · rfl

@[simp] theorem Dev.perf_ctrs {m ev q v : Nat} : (d.perf m ev q v).ctrs = d.ctrs := by
  have counted (l : List Nat) (e : Dev) : (l.foldl (fun d n =>
      if d.fld .PMC_SEL_CHAIN m n = 0 ∧ d.fld .PMC_SEL_EVENT m n = ev ∧
          (d.fld .PMC_SEL_QUAL m n = 0xFF ∨ d.fld .PMC_SEL_QUAL m n = q)
      then Dev.perfAdd m v 8 n d else d) e).ctrs = e.ctrs := by
    induction l generalizing e with
    | nil => rfl
    | cons n l ih =>
      rw [List.foldl_cons, ih]
      split
      · exact Dev.perfAdd_ctrs
      · rfl
  unfold Dev.perf
  split
  · rfl
  · exact counted _ _

/-! ### Events -/

/-- Counters but those of the event recorder stand from one device to the other. -/
def Dev.Uncounted (d e : Dev) : Prop := ∀ (c : Ctr) (i : Nat), c.block ≠ .EVR_CNT → e.ctr c i = d.ctr c i

theorem Dev.Uncounted.of_ctrs {e : Dev} (h : e.ctrs = d.ctrs) : d.Uncounted e := fun c i _ => Dev.ctr_congr d e c i h

theorem Dev.Uncounted.trans {e g : Dev} (h : d.Uncounted e) (k : e.Uncounted g) : d.Uncounted g :=
  fun c i hc => (k c i hc).trans (h c i hc)

theorem Dev.Uncounted.ite {e g : Dev} {p : Prop} [Decidable p] (h : d.Uncounted e) (k : d.Uncounted g) :
    d.Uncounted (if p then e else g) := by
  split
  · exact h
  · exact k

theorem Dev.Uncounted.foldl {τ : Type} {f : Dev → τ → Dev} (h : ∀ (e : Dev) x, e.Uncounted (f e x)) (l : List τ) (d : Dev) :
    d.Uncounted (l.foldl f d) := by
  induction l generalizing d with
  | nil => exact .of_ctrs rfl
  | cons x l ih => exact (h d x).trans (ih _)

theorem Dev.uncounted_count {c : Ctr} {i : Nat} (hc : c.block = .EVR_CNT) : d.Uncounted (d.count c i) :=
  fun _ _ hg => Dev.ctr_count_ne (Ctr.ne_of_block (hc ▸ hg))

theorem Dev.uncounted_raise {s : Nat} : d.Uncounted (d.raise s) := .of_ctrs Dev.raise_ctrs

theorem Dev.uncounted_doorbell {b : Nat} : d.Uncounted (d.doorbell b) := .of_ctrs Dev.doorbell_ctrs

theorem Dev.uncounted_accept {r : EvRec} : d.Uncounted (d.accept r) := by
  have staged (x : Recorder) : d.Uncounted (({ d with evr := x } : Dev).count .EVR_RECORDED 0) :=
    (Dev.Uncounted.of_ctrs (e := { d with evr := x }) rfl).trans (Dev.uncounted_count rfl)
  have raised (x : Recorder) := (staged x).trans (Dev.uncounted_raise (s := 324))
  exact .ite ((Dev.Uncounted.ite (raised _) (staged _)).trans Dev.uncounted_doorbell) (.ite (raised _) (staged _))

theorem Dev.uncounted_acceptLost : d.Uncounted d.acceptLost := by
  have cleared (e : Dev) (n : Nat) : e.Uncounted (e.set1 .EVR_LOST_PEND n 0) := .of_ctrs rfl
  exact .ite (Dev.uncounted_accept.trans (.foldl cleared _ _)) (.of_ctrs rfl)

theorem Dev.sourced_ctrs {c : EvCode} {k i : Nat} : (d.sourced c k i).ctrs = d.ctrs := by
  unfold Dev.sourced
  split
  · exact Dev.raise_ctrs
  · rfl

theorem Dev.uncounted_record {c : EvCode} {k i : Nat} {p : Bytes} : d.Uncounted (d.record c k i p) := by
  have staged : d.Uncounted (d.sourced c k i).acceptLost :=
    (Dev.Uncounted.of_ctrs Dev.sourced_ctrs).trans Dev.uncounted_acceptLost
  have pended {e : Dev} {n : Nat} : e.Uncounted (e.satInc .EVR_LOST_PEND n 0 1) := .of_ctrs rfl
  rw [Dev.record_eq]
  exact .ite (.of_ctrs rfl) (.ite (staged.trans Dev.uncounted_accept) ((staged.trans pended).trans (Dev.uncounted_count rfl)))

theorem Dev.uncounted_recordLimited {c : EvCode} {t n k i : Nat} {p : Bytes} : d.Uncounted (d.recordLimited c t n k i p) := by
  have noted (x : Recorder) : d.Uncounted { d with evr := x } := .of_ctrs rfl
  unfold Dev.recordLimited
  dsimp only
  split
  · exact (noted _).trans Dev.uncounted_record
  · split
    · exact (noted _).trans Dev.uncounted_record
    · exact (noted _).trans (Dev.uncounted_count rfl)

end

end Sys2Proof.Machine
end

