-- ==== Sys2Proof/Proofs/HostAttachment.lean ====
section
/-! The host attachment (R94, R421, R426, R427, R429, R436): what leaves its link and power states and the counters of the host
DMA alone, the loss of the host, resets of functions, and the interrupt registers. -/

namespace Sys2Proof.Machine

/-- The host's link and power states and the counters of the host DMA stand from one device to the other. -/
structure Dev.HostStands (d e : Dev) : Prop where
  lost : e.host.lost = d.host.lost
  perst : e.host.perst = d.host.perst
  d3hot : e.host.d3hot = d.host.d3hot
  ctr : ∀ (c : Ctr) (i : Nat), c.block = .DMA_CNT → e.ctr c i = d.ctr c i

namespace Dev.HostStands

variable {d e g : Dev}

theorem refl (d : Dev) : d.HostStands d := ⟨rfl, rfl, rfl, fun _ _ _ => rfl⟩

theorem trans (h : d.HostStands e) (k : e.HostStands g) : d.HostStands g :=
  ⟨k.lost.trans h.lost, k.perst.trans h.perst, k.d3hot.trans h.d3hot, fun c i hc => (k.ctr c i hc).trans (h.ctr c i hc)⟩

theorem ite {c : Prop} [Decidable c] (h : d.HostStands e) (k : d.HostStands g) : d.HostStands (if c then e else g) := by
  split
  · exact h
  · exact k

theorem foldl {τ : Type} {f : Dev → τ → Dev} (h : ∀ (e : Dev) x, e.HostStands (f e x)) (l : List τ) (d : Dev) :
    d.HostStands (l.foldl f d) := by
  induction l generalizing d with
  | nil => exact refl d
  | cons x l ih => exact (h d x).trans (ih _)

end Dev.HostStands

section
variable {d : Dev}

/-! ### Fields, reports and tables -/

theorem Dev.Reports.hostStands {e : Dev} (h : d.Reports e) (hc : d.Uncounted e) : d.HostStands e := by
  have lost := congrArg HostSt.lost h.hostRest
  have perst := congrArg HostSt.perst h.hostRest
  have d3hot := congrArg HostSt.d3hot h.hostRest
  exact ⟨lost, perst, d3hot, fun c i hdma => hc c i (by rw [hdma]; decide)⟩

theorem Dev.hostStands_setFld {f : Field} {i j v : Nat} : d.HostStands (d.setFld f i j v) := ⟨rfl, rfl, rfl, fun _ _ _ => rfl⟩

theorem Dev.hostStands_countN {c : Ctr} {i n : Nat} (hc : c.block ≠ .DMA_CNT) : d.HostStands (d.countN c i n) :=
  ⟨rfl, rfl, rfl, fun _ _ hg => Dev.ctr_countN_ne (Ctr.ne_of_block (fun h => hc (h.symm.trans hg)))⟩

theorem Dev.hostStands_count {c : Ctr} {i : Nat} (hc : c.block ≠ .DMA_CNT) : d.HostStands (d.count c i) := Dev.hostStands_countN hc

theorem Dev.hostStands_raise {s : Nat} : d.HostStands (d.raise s) := (Dev.reports_raise d s).hostStands (.of_ctrs Dev.raise_ctrs)

theorem Dev.hostStands_doorbell {b : Nat} : d.HostStands (d.doorbell b) :=
  (Dev.reports_doorbell d b).hostStands (.of_ctrs Dev.doorbell_ctrs)

theorem Dev.hostStands_record {c : EvCode} {k i : Nat} {p : Bytes} : d.HostStands (d.record c k i p) :=
  (Dev.reports_record d c k i p).hostStands Dev.uncounted_record

theorem Dev.hostStands_recordLimited {c : EvCode} {t n k i : Nat} {p : Bytes} : d.HostStands (d.recordLimited c t n k i p) :=
  (Dev.reports_recordLimited d c t n k i p).hostStands Dev.uncounted_recordLimited

theorem Dev.hostStands_buf {b : BufSt} : d.HostStands { d with buf := b } := ⟨rfl, rfl, rfl, fun _ _ _ => rfl⟩

theorem Dev.hostStands_mac {m : Map MacSt} : d.HostStands { d with mac := m } := ⟨rfl, rfl, rfl, fun _ _ _ => rfl⟩

theorem Dev.hostStands_pmc {x : PmcSt} : d.HostStands { d with pmc := x } := ⟨rfl, rfl, rfl, fun _ _ _ => rfl⟩

theorem Dev.hostStands_mbx {x : MbxSt} : d.HostStands { d with mbx := x } := ⟨rfl, rfl, rfl, fun _ _ _ => rfl⟩

theorem Dev.hostStands_emit {o : Output} : d.HostStands (d.emit o) := ⟨rfl, rfl, rfl, fun _ _ _ => rfl⟩

/-! ### Frames of port 132 that leave the buffer (R94, R427) -/

theorem Dev.hostStands_macCountN {c : Ctr} {p n : Nat} (hc : c.block ≠ .DMA_CNT) : d.HostStands (d.macCountN c p n) :=
  .ite (.refl d) (.ite ((Dev.hostStands_countN hc).trans Dev.hostStands_raise) (Dev.hostStands_countN hc))

theorem Dev.hostStands_macCount {c : Ctr} {p : Nat} (hc : c.block ≠ .DMA_CNT) : d.HostStands (d.macCount c p) :=
  Dev.hostStands_macCountN hc

theorem Dev.hostStands_noteSent {p len kind : Nat} : d.HostStands (d.noteSent p len kind) := by
  have mac : CtrBlock.MAC_STAT ≠ .DMA_CNT := by decide
  unfold Dev.noteSent
  exact (((((Dev.hostStands_macCountN mac).trans (Dev.hostStands_macCount mac)).trans (Dev.hostStands_macCount mac)).trans
    (Dev.hostStands_macCount mac)).trans Dev.hostStands_pmc).trans Dev.hostStands_mac

theorem Dev.hostStands_sendPause {p c quanta : Nat} : d.HostStands (d.sendPause p c quanta) :=
  have mac : CtrBlock.MAC_STAT ≠ .DMA_CNT := by decide
  .ite (.refl d) (.ite
    ((Dev.hostStands_noteSent.trans Dev.hostStands_emit).trans
      (.foldl (fun _ _ => .ite (Dev.hostStands_macCount mac) (.refl _)) _ _))
    (.ite ((Dev.hostStands_noteSent.trans Dev.hostStands_emit).trans (Dev.hostStands_macCount mac)) (.refl d)))

theorem Dev.hostStands_release {id port : Nat} : d.HostStands (d.release id port) := by
  have dropped : d.HostStands (d.dropRef id port) := by
    unfold Dev.dropRef
    split
    · exact .refl d
    · exact .ite Dev.hostStands_buf Dev.hostStands_buf
  have xon {e : Dev} {p c : Nat} : e.HostStands (e.checkXon p c) :=
    .ite ((Dev.hostStands_setFld.trans Dev.hostStands_mac).trans Dev.hostStands_sendPause) (.refl e)
  have freed {e : Dev} : e.HostStands (e.freeRequest id port) := by
    unfold Dev.freeRequest
    split
    · exact .refl e
    · exact .ite (Dev.hostStands_buf.trans xon) ((Dev.hostStands_count (by decide)).trans Dev.hostStands_record)
  exact .ite (dropped.trans freed) dropped

theorem Dev.hostStands_flushQueue {q i : Nat} : d.HostStands (d.flushQueue q i) := by
  have emptied {e : Dev} : e.HostStands (e.emptied q i) := .ite Dev.hostStands_buf (.refl e)
  have gone : d.HostStands (((d.setQueue q i []).countN .QUE_FLUSHED (q * 10 + i) (d.queue q i).length).emptied q i) :=
    (Dev.hostStands_buf.trans (Dev.hostStands_countN (by decide))).trans emptied
  exact (Dev.HostStands.ite (gone.trans (Dev.hostStands_countN (by decide))) gone).trans
    (.foldl (fun _ _ => Dev.hostStands_release) _ _)

theorem Dev.hostStands_flushHostPort : d.HostStands d.flushHostPort := by
  have flushed : d.HostStands ((List.range 10).foldl (fun d i => d.flushQueue 132 i) d) :=
    .foldl (fun _ _ => Dev.hostStands_flushQueue) _ _
  unfold Dev.flushHostPort
  dsimp only
  split
  · exact .refl d
  · split
    · exact ((flushed.trans (Dev.hostStands_count (by decide))).trans Dev.hostStands_buf).trans Dev.hostStands_release
    · exact flushed

/-! ### Rings, capture, locks and mailboxes of the host (R94, R245, R427, R478) -/

theorem Dev.hostStands_stopRings {rs : List Nat} : d.HostStands (d.stopRings rs) := by
  have stopped {e : Dev} {r code idx : Nat} : e.HostStands (e.ringStop r code idx) := ⟨rfl, rfl, rfl, fun _ _ _ => rfl⟩
  exact .foldl (fun e _ => .ite stopped (.refl e)) _ _

theorem Dev.hostStands_resetRings {rs : List Nat} : d.HostStands (d.resetRings rs) := ⟨rfl, rfl, rfl, fun _ _ _ => rfl⟩

theorem Dev.hostStands_stopHostCapture : d.HostStands d.stopHostCapture :=
  .ite ((Dev.hostStands_setFld.trans (Dev.hostStands_setFld (f := .ACT_CAP_CTRL_HOST_STOPPED))).trans Dev.hostStands_record)
    (.refl d)

theorem Dev.hostStands_releaseLocks {m cause : Nat} : d.HostStands (d.releaseLocks m cause) := by
  have released {e : Dev} {i : Nat} {c : EvCode} {p : Bytes} :
      e.HostStands ((e.set1 .LCK_LOCK_HOLDER i 0xF).record c 9 m p) :=
    Dev.hostStands_setFld.trans Dev.hostStands_record
  exact .foldl (fun e _ => .ite (.ite released released) (.refl e)) _ _

theorem Dev.hostStands_hostDomainDown : d.HostStands d.hostDomainDown := by
  have shown {e : Dev} {m : Nat} : e.HostStands ((e.set1 .MBX_F2H_STATUS_FULL m 0).set1 .MBX_F2H_STATUS_STALE m 0) :=
    ⟨rfl, rfl, rfl, fun _ _ _ => rfl⟩
  have lost {e : Dev} {m dir seq : Nat} : e.HostStands (e.noteLost m dir seq) := by
    unfold Dev.noteLost
    exact Dev.hostStands_mbx.trans Dev.hostStands_doorbell
  have dropped {e : Dev} {m : Nat} : e.HostStands (e.dropDelivered m) := by
    unfold Dev.dropDelivered
    exact .ite (.refl e) (((shown.trans (Dev.hostStands_count (by decide))).trans lost).trans Dev.hostStands_record)
  unfold Dev.hostDomainDown Dev.senderDown
  exact Dev.hostStands_mbx.trans (.foldl (fun _ _ => dropped) _ _)

theorem Dev.hostStands_resetFlds {p : Nat → Bool} : d.HostStands (d.resetFlds p) := ⟨rfl, rfl, rfl, fun _ _ _ => rfl⟩

theorem Dev.hostStands_hifUnwritten : d.HostStands d.hifUnwritten := ⟨rfl, rfl, rfl, fun _ _ _ => rfl⟩

theorem Dev.hostStands_resetMsix {f : Nat} : d.HostStands (d.resetMsix f) :=
  .ite Dev.hostStands_resetFlds ⟨rfl, rfl, rfl, fun _ _ _ => rfl⟩

/-! ### The loss of the host (R94) -/

/-- What the loss of the host stops: port 132, the rings of PF1, capture to the host, its locks and its mailboxes. -/
def Dev.hostGone (d : Dev) : Dev :=
  (([4, 5, 6, 7] : List Nat).foldl (fun d m => d.releaseLocks m 0)
    (({ d with host := { d.host with lost := true } } : Dev).flushHostPort.stopRings
      (List.range 128)).stopHostCapture).hostDomainDown

/-- A host load of firmware that still reads the host's buffer fails (R96). -/
def Dev.abandonFwLoad (d : Dev) : Dev :=
  if d.fwReading then ((d.set0 .CLK_BOOT_FW_CMD_BUSY 0).set0 .CLK_BOOT_FW_CMD_ERR 1).set0 .CLK_BOOT_FW_CMD_REASON 4 else d

theorem Dev.hostLost_eq (h : d.host.lost = false) : d.hostLost = (d.hostGone.set0 .DMA_LINK_DL_UP 0).abandonFwLoad := by
  unfold Dev.hostLost
  rw [if_neg (by simp [h])]
  rfl

theorem Dev.hostStands_abandonFwLoad : d.HostStands d.abandonFwLoad := .ite ⟨rfl, rfl, rfl, fun _ _ _ => rfl⟩ (.refl d)

theorem Dev.abandonFwLoad_linkUp : d.abandonFwLoad.f0 .DMA_LINK_DL_UP = d.f0 .DMA_LINK_DL_UP := by
  unfold Dev.abandonFwLoad
  split
  · simp (disch := decide) only [Dev.f0_set0_other]
  · rfl

theorem Dev.hostGone_stands : ({ d with host := { d.host with lost := true } } : Dev).HostStands d.hostGone :=
  (((Dev.hostStands_flushHostPort.trans Dev.hostStands_stopRings).trans Dev.hostStands_stopHostCapture).trans
    (.foldl (fun _ _ => Dev.hostStands_releaseLocks) _ _)).trans Dev.hostStands_hostDomainDown

/-- The host is lost, its link down where it was not lost before, and PERST_N as it was. -/
theorem Dev.hostLost_lost : d.hostLost.host.lost = true ∧ d.hostLost.host.perst = d.host.perst ∧
    (d.host.lost = false → d.hostLost.f0 .DMA_LINK_DL_UP = 0) := by
  cases h : d.host.lost with
  | true =>
    rw [Dev.hostLost, if_pos h]
    exact ⟨h, rfl, nofun⟩
  | false =>
    have down {e : Dev} : e.HostStands (e.set0 .DMA_LINK_DL_UP 0) := Dev.hostStands_setFld
    have stands := (Dev.hostGone_stands (d := d)).trans (down.trans Dev.hostStands_abandonFwLoad)
    rw [Dev.hostLost_eq h]
    exact ⟨stands.lost, stands.perst, fun _ => Dev.abandonFwLoad_linkUp.trans (Dev.f0_set0_same _ _ _)⟩

/-! ### Resets of a function (R427, Table 16-6) -/

/-- What the reset of a function does beside its MSI-X state. -/
def Dev.flrEffect (d : Dev) (f : Nat) : Dev :=
  match f with
  | 0 => ((d.releaseLocks 4 0).resetFlds (Dev.isFldOf [.INT_MASK])).hifUnwritten.hostDomainDown
  | 1 => (d.flushHostPort).resetRings (List.range 128)
  | 2 => (d.stopHostCapture).resetRings [128, 129, 130, 131]
  | _ => d

theorem Dev.hostStands_flrEffect {f : Nat} : d.HostStands (d.flrEffect f) := by
  unfold Dev.flrEffect
  split
  · exact ((Dev.hostStands_releaseLocks.trans Dev.hostStands_resetFlds).trans Dev.hostStands_hifUnwritten).trans
      Dev.hostStands_hostDomainDown
  · exact Dev.hostStands_flushHostPort.trans Dev.hostStands_resetRings
  · exact Dev.hostStands_stopHostCapture.trans Dev.hostStands_resetRings
  · exact .refl d

/-- A function returns to D0. -/
def Dev.d0 (d : Dev) (f : Nat) : Dev :=
  { d with host := { d.host with d3hot := d.host.d3hot.filter (fun g => decide (g ≠ f)) } }

/-! ### The interrupt registers (R429) -/

theorem bitOf_eq_testBit (v i : Nat) : bitOf v i = v.testBit i := by
  rw [bitOf, Nat.testBit_eq_decide_div_mod_eq]

theorem putBit_false_le (v i : Nat) : putBit v i false ≤ v := by
  unfold putBit
  split
  · exact le_rfl
  · exact Nat.sub_le _ _

/-- Taking bit `i` out leaves the bits above as they are: the quotient by `2 ^ i` is odd. -/
theorem putBit_false_div {v i : Nat} (h : bitOf v i = true) :
    putBit v i false / 2 ^ (i + 1) = v / 2 ^ (i + 1) := by
  have odd : v / 2 ^ i % 2 = 1 := of_decide_eq_true h
  have less : (v - 2 ^ i) / 2 ^ i = v / 2 ^ i - 1 := by simpa using Nat.sub_mul_div v (2 ^ i) 1
  rw [putBit, if_neg (by simp [h]), if_neg Bool.false_ne_true, pow_succ, ← Nat.div_div_eq_div_mul,
    ← Nat.div_div_eq_div_mul, less]
  generalize v / 2 ^ i = q at odd ⊢
  omega

theorem bitOf_putBit_false (v i b : Nat) : bitOf (putBit v i false) b = (bitOf v b && !decide (b = i)) := by
  cases h : bitOf v i with
  | false =>
    rw [putBit, if_pos h]
    by_cases hb : b = i
    · simp [hb, h]
    · simp [hb]
  | true =>
    have out : v = 2 ^ i + putBit v i false := by
      have low : 2 ^ i ≤ v := Nat.ge_two_pow_of_testBit (bitOf_eq_testBit v i ▸ h)
      rw [putBit, if_neg (by simp [h]), if_neg Bool.false_ne_true, Nat.add_sub_cancel' low]
    obtain lt | rfl | gt := Nat.lt_trichotomy b i
    · have below := Nat.testBit_two_pow_add_gt lt (putBit v i false)
      rw [← out] at below
      simp [bitOf_eq_testBit, below, lt.ne]
    · have at_b := Nat.testBit_two_pow_add_eq (putBit v b false) b
      rw [← out, ← bitOf_eq_testBit, h] at at_b
      simpa [bitOf_eq_testBit] using at_b.symm
    · obtain ⟨k, rfl⟩ := Nat.exists_eq_add_of_lt gt
      have above : putBit v i false / 2 ^ (i + k + 1) = v / 2 ^ (i + k + 1) := by
        rw [Nat.add_right_comm, pow_add, ← Nat.div_div_eq_div_mul, putBit_false_div h, Nat.div_div_eq_div_mul]
      rw [bitOf, bitOf, above]
      simp only [show ¬i + k + 1 = i by omega, decide_false, Bool.not_false, Bool.and_true]

/-- One bit of INT_PEND[i] clears where `v` has a 1. -/
def Dev.pendClearBit (d : Dev) (i v b : Nat) : Dev := if bitOf v b then d.setBit .INT_PEND i b false else d

theorem Dev.pendClear_eq {i v : Nat} : d.pendClear i v = (List.range 32).foldl (fun d b => d.pendClearBit i v b) d := rfl

theorem Dev.pendClearBit_pend {i v b : Nat} (h : d.f1 .INT_PEND i < 2 ^ 32) :
    (d.pendClearBit i v b).f1 .INT_PEND i = if bitOf v b then putBit (d.f1 .INT_PEND i) b false else d.f1 .INT_PEND i := by
  unfold Dev.pendClearBit
  split
  · exact (Dev.f1_set1_same _ _ _ _).trans (Nat.mod_eq_of_lt ((putBit_false_le _ _).trans_lt h))
  · rfl

/-- Clearing one bit leaves INT_PEND[i] a word, the outputs as they are and every other bit. -/
theorem Dev.pendClearBit_spec {i v b : Nat} (h : d.f1 .INT_PEND i < 2 ^ 32) :
    (d.pendClearBit i v b).f1 .INT_PEND i < 2 ^ 32 ∧ (d.pendClearBit i v b).out = d.out ∧
      ∀ k, bitOf ((d.pendClearBit i v b).f1 .INT_PEND i) k =
        (bitOf (d.f1 .INT_PEND i) k && !(decide (k = b) && bitOf v b)) := by
  rw [Dev.pendClearBit_pend h, Dev.pendClearBit]
  split
  next hv => exact ⟨(putBit_false_le _ _).trans_lt h, rfl, fun k => by rw [bitOf_putBit_false, hv, Bool.and_true]⟩
  next hv => exact ⟨h, rfl, fun k => by simp [hv]⟩

/-- Clearing the listed bits clears those that `v` names. -/
theorem Dev.foldl_pendClearBit (i v : Nat) (l : List Nat) (h : d.f1 .INT_PEND i < 2 ^ 32) :
    (l.foldl (fun d b => d.pendClearBit i v b) d).out = d.out ∧
      ∀ k, bitOf ((l.foldl (fun d b => d.pendClearBit i v b) d).f1 .INT_PEND i) k =
        (bitOf (d.f1 .INT_PEND i) k && !(decide (k ∈ l) && bitOf v k)) := by
  induction l generalizing d with
  | nil => exact ⟨rfl, fun k => by simp⟩
  | cons b l ih =>
    obtain ⟨word, out, bits⟩ := Dev.pendClearBit_spec (i := i) (v := v) (b := b) h
    obtain ⟨outs, cleared⟩ := ih word
    refine ⟨outs.trans out, fun k => ?_⟩
    rw [List.foldl_cons, cleared k, bits k]
    by_cases hk : k = b
    · subst hk
      cases bitOf v k <;> simp
    · simp [hk]

theorem Dev.pendClear_spec {i v : Nat} (h : d.f1 .INT_PEND i < 2 ^ 32) :
    (∀ b < 32, bitOf ((d.pendClear i v).f1 .INT_PEND i) b = (bitOf (d.f1 .INT_PEND i) b && !bitOf v b)) ∧
      (d.pendClear i v).out = d.out := by
  rw [Dev.pendClear_eq]
  obtain ⟨out, bits⟩ := Dev.foldl_pendClearBit i v (List.range 32) h
  refine ⟨fun b hb => ?_, out⟩
  rw [bits b, decide_eq_true (List.mem_range.2 hb), Bool.true_and]

/-- A message notes nothing but its bit of the PBA. -/
theorem Dev.keeps_msix {f v : Nat} : d.Keeps [Field.DMA_MSIX_PBA.id] (fun _ => ()) (d.msix f v) := by
  unfold Dev.msix
  split
  · exact .refl d
  · split
    · exact .ite (Dev.keeps_setFld (by decide) rfl) ⟨rfl, fun _ _ _ _ => rfl⟩
    · exact .ite ⟨rfl, fun _ _ _ _ => rfl⟩ ⟨rfl, fun _ _ _ _ => rfl⟩

theorem Dev.maskWrite_keeps {i v : Nat} :
    (d.set1 .INT_MASK i v).Keeps [Field.DMA_MSIX_PBA.id] (fun _ => ()) (d.maskWrite i v) := .foldl (fun _ _ => Dev.keeps_msix) _ _

/-- A write of INT_MASK under which nothing is pending sends no message. -/
theorem Dev.maskWrite_unpending {i v : Nat} (h : ∀ b < 32, bitOf (d.f1 .INT_PEND i) b = false) :
    d.maskWrite i v = d.set1 .INT_MASK i v := by
  have freed : (List.range 32).filter (fun b => bitOf (d.f1 .INT_MASK i) b && !bitOf v b && bitOf (d.f1 .INT_PEND i) b) = [] :=
    List.filter_eq_nil_iff.2 (fun b hb => by simp [h b (List.mem_range.1 hb)])
  unfold Dev.maskWrite
  dsimp only
  rw [freed]
  rfl

/-! ### The host's commands -/

/-- The link registers and the host's state as HOST_LINK_UP leaves them (R421). -/
def Dev.LinkShows (speed width : Nat) (fl : Bool) (d : Dev) : Prop :=
  d.host.lost = false ∧ d.f0 .DMA_LINK_DL_UP = 1 ∧ d.f0 .DMA_LINK_SPEED = speed ∧ d.f0 .DMA_LINK_WIDTH = width ∧
    d.b0 .DMA_LINK_FLIT = fl

theorem Dev.LinkShows.reports {speed width : Nat} {fl : Bool} {e : Dev} (hd : d.LinkShows speed width fl) (h : d.Reports e) :
    e.LinkShows speed width fl := by
  obtain ⟨lost, up, hspeed, hwidth, hfl⟩ := hd
  have k : d.Keeps reportFields (fun _ => ()) e := h.keeps (List.Subset.refl _) rfl
  have still := congrArg HostSt.lost h.hostRest
  exact ⟨Eq.trans still lost, (k.f0 (by decide)).trans up, (k.f0 (by decide)).trans hspeed,
    (k.f0 (by decide)).trans hwidth, (k.b0 (by decide)).trans hfl⟩

theorem Dev.linkShows_set {speed width : Nat} {fl : Bool} (hlost : d.host.lost = false) (hspeed : speed < 8) (hwidth : width < 17) :
    Dev.LinkShows speed width fl
      ((((d.set0 .DMA_LINK_DL_UP 1).set0 .DMA_LINK_FLIT (b2n fl)).set0 .DMA_LINK_SPEED speed).set0 .DMA_LINK_WIDTH width) := by
  refine ⟨hlost, ?_, ?_, ?_, ?_⟩
  · simp (disch := decide) only [Dev.f0_set0_other, Dev.f0_set0_same]
    rfl
  · simp (disch := decide) only [Dev.f0_set0_other, Dev.f0_set0_same]
    exact Nat.mod_eq_of_lt (hspeed.trans (by decide))
  · rw [Dev.f0_set0_same]
    exact Nat.mod_eq_of_lt (hwidth.trans (by decide))
  · rw [Dev.b0, ← Dev.f0]
    simp (disch := decide) only [Dev.f0_set0_other, Dev.f0_set0_same]
    cases fl <;> rfl

theorem completes_hostLinkUp (speed : Fin 8) (width : Fin 17) (flit : Bool) {s : State} (hspeed : 1 ≤ speed.val)
    (hwidth : width.val ∈ [1, 4, 8, 16]) (hreset : s.dev.boot.inReset = false) (hpower : s.dev.boot.powered = true) :
    Completes (.hostLinkUp speed width flit) s (Dev.LinkShows speed width (flit || decide (6 ≤ speed.val))) := by
  refine completes_of_run _ (exec_hostLinkUp speed width flit s) ?_
  have guard : ¬(speed.val = 0 ∨ width.val ∉ [1, 4, 8, 16] ∨ s.dev.boot.inReset = true ∨ (!s.dev.boot.powered) = true) := by
    rw [hreset, hpower]
    rintro (zero | other | wrong | wrong)
    · omega
    · exact other hwidth
    · exact Bool.false_ne_true wrong
    · exact Bool.false_ne_true wrong
  dsimp only
  rw [if_neg guard]
  have shown := (Dev.linkShows_set (d := { s.dev with host := { s.dev.host with lost := false, perst := false } })
    (fl := flit || decide (6 ≤ speed.val)) rfl speed.isLt width.isLt).reports (Dev.reports_record _ .HOST_LINK_UP 0 0
      (payloadOf [(1, speed), (1, width), (1, b2n (flit || decide (6 ≤ speed.val)))]))
  split
  · exact shown.reports (Dev.reports_record _ _ _ _ _)
  · exact shown

theorem completes_pcieD3hotEnter (f : Fin 4) {s : State} (hlost : s.dev.host.lost = false) (hd0 : f.val ∉ s.dev.host.d3hot) :
    Completes (.pcieD3hotEnter f) s fun t => t.host.d3hot = f.val :: s.dev.host.d3hot := by
  refine completes_of_run _ (exec_pcieD3hotEnter f s) ?_
  have guard : ¬(s.dev.host.lost = true ∨ s.dev.host.d3hot.contains f.val = true) := by simp [hlost, hd0]
  dsimp only
  rw [if_neg guard]
  split
  · exact Dev.hostStands_hostDomainDown.d3hot
  · rfl

theorem execHostFlr_eq (f : Fin 4) {s : State} (hlost : s.dev.host.lost = false) :
    exec (.hostFlr f) s = .next (s.on ((((s.dev.d0 f).resetMsix f).flrEffect f).count .DMA_FLR_COUNT 0 |>.record .HOST_FLR 9
      (4 + f) (payloadOf [(1, f)]))) := by
  rw [exec_hostFlr, execHostFlr, State.run_eq, if_neg (by simp [hlost])]
  fin_cases f <;> rfl

theorem completes_hostFlr (f : Fin 4) {s : State} (hlost : s.dev.host.lost = false) :
    Completes (.hostFlr f) s fun t => f.val ∉ t.host.d3hot ∧
      t.ctr .DMA_FLR_COUNT 0 = (s.dev.ctr .DMA_FLR_COUNT 0 + 1) % 2 ^ 64 := by
  refine completes_of_eq (execHostFlr_eq f hlost) ?_
  have before : (s.dev.d0 f).HostStands (((s.dev.d0 f).resetMsix f).flrEffect f) :=
    Dev.hostStands_resetMsix.trans Dev.hostStands_flrEffect
  have after {d : Dev} : d.HostStands (d.record .HOST_FLR 9 (4 + f) (payloadOf [(1, f)])) := Dev.hostStands_record
  constructor
  · rw [after.d3hot]
    change f.val ∉ (((s.dev.d0 f).resetMsix f).flrEffect f).host.d3hot
    rw [before.d3hot]
    simp [Dev.d0]
  · rw [after.ctr _ _ rfl, Dev.ctr_count_same, before.ctr _ _ rfl]
    rfl

theorem completes_hostLostPerst {s : State} (hperst : s.dev.host.perst = false) :
    Completes .hostLostPerst s fun t => t.host.lost = true ∧ t.host.perst = true ∧ t.host.d3hot = [] := by
  refine completes_of_run _ (exec_hostLostPerst s) ?_
  dsimp only
  rw [if_neg (by simp [hperst])]
  obtain ⟨lost, perst, -⟩ := Dev.hostLost_lost (d := Dev.record { s.dev with host := { s.dev.host with perst := true } }
    .PERST_ASSERTED 0 0 (payloadOf []))
  have asserted := Dev.hostStands_record (d := { s.dev with host := { s.dev.host with perst := true } }) (c := .PERST_ASSERTED)
    (k := 0) (i := 0) (p := payloadOf [])
  have stands {e : Dev} : e.HostStands (((([0, 1, 2, 3] : List Nat).foldl Dev.resetMsix e).resetRings (List.range 132)).resetFlds
      (Dev.isFldOf [.DMA_LINK, .DMA_INJECT_PPS, .DMA_RX_STEER])) :=
    ((Dev.HostStands.foldl (fun _ _ => Dev.hostStands_resetMsix) _ _).trans Dev.hostStands_resetRings).trans
      Dev.hostStands_resetFlds
  exact ⟨stands.lost.trans lost, stands.perst.trans (perst.trans asserted.perst), rfl⟩

theorem completes_hostLinkLost {s : State} (hlost : s.dev.host.lost = false) :
    Completes .hostLinkLost s fun t => t.host.lost = true ∧ t.f0 .DMA_LINK_DL_UP = 0 := by
  refine completes_of_run _ (exec_hostLinkLost s) ?_
  rw [if_neg (by simp [hlost])]
  obtain ⟨lost, -, down⟩ := Dev.hostLost_lost (d := s.dev.record .HOST_LINK_LOST 0 0 (payloadOf []))
  exact ⟨lost, down (Dev.hostStands_record.lost.trans hlost)⟩

theorem completes_hostPoisonedWrite (f : Fin 4) (off : BitVec 24) {s : State} (hlost : s.dev.host.lost = false) :
    Completes (.hostPoisonedWrite f off) s fun t => t.host.aerUncorr = s.dev.host.aerUncorr + 1 ∧
      t.ctr .DMA_HOST_VIOLATIONS 0 = (s.dev.ctr .DMA_HOST_VIOLATIONS 0 + 1) % 2 ^ 64 := by
  refine completes_of_run _ (exec_hostPoisonedWrite f off s) ?_
  dsimp only
  rw [if_neg (by simp [hlost])]
  constructor
  · exact congrArg HostSt.aerUncorr (Dev.reports_violation { s.dev with
      host := { s.dev.host with aerUncorr := s.dev.host.aerUncorr + 1 } } (4 + f) 14 off.toNat).hostRest
  · rw [Dev.violation, if_pos (by omega), Dev.ctr_count_same, Dev.hostStands_recordLimited.ctr _ _ rfl]
    rfl

theorem completes_intPendClear (m : Master) (i : Fin 16) (v : BitVec 32) {s : State} (hopen : s.dev.Open m (Reg.INT_PEND.addr i 0))
    (hword : s.dev.f1 .INT_PEND i < 2 ^ 32) :
    Completes (.intPendClear m i v) s fun t => (∀ b < 32, bitOf (t.f1 .INT_PEND i) b =
      (bitOf (s.dev.f1 .INT_PEND i) b && !bitOf v.toNat b)) ∧ t.out = s.dev.out := by
  refine completes_of_run _ (exec_intPendClear m i v s) ?_
  rw [Dev.onWrite_open _ _ _ _ _ _ hopen]
  exact Dev.pendClear_spec hword

theorem completes_intMaskWrite (m : Master) (i : Fin 16) (v : BitVec 32) {s : State}
    (hopen : s.dev.Open m (Reg.INT_MASK.addr i 0)) :
    Completes (.intMaskWrite m i v) s fun t => t.f1 .INT_MASK i = v.toNat ∧ t.f1 .INT_PEND i = s.dev.f1 .INT_PEND i := by
  refine completes_of_run _ (exec_intMaskWrite m i v s) ?_
  rw [Dev.onWrite_open _ _ _ _ _ _ hopen]
  have kept := Dev.maskWrite_keeps (d := s.dev) (i := i) (v := v.toNat)
  exact ⟨(kept.f1 (by decide)).trans ((Dev.f1_set1_same _ _ _ _).trans (Nat.mod_eq_of_lt v.isLt)),
    (kept.f1 (by decide)).trans (Dev.fld_setFld_id _ _ _ _ _ _ _ _ (by decide))⟩

theorem execIntMaskWrite_unpending (m : Master) (i : Fin 16) (v : BitVec 32) {s : State}
    (hopen : s.dev.Open m (Reg.INT_MASK.addr i 0)) (h : ∀ b < 32, bitOf (s.dev.f1 .INT_PEND i) b = false) :
    exec (.intMaskWrite m i v) s = .next (s.on ((s.dev.set1 .INT_MASK i v.toNat).complete (.ok 0))) := by
  rw [exec_intMaskWrite, execIntMaskWrite, State.run_eq, Dev.onWrite_open _ _ _ _ _ _ hopen, Dev.maskWrite_unpending h]
  rfl

end

/-- Settles O13: what the loss of the host, the power states and the resets of functions do leaves the host's link state and
the counters of the host DMA to the command itself (`Dev.HostStands`). -/
theorem hostLinkAndInterrupts : Obligations.HostLinkAndInterrupts :=
  ⟨fun speed width flit _ hspeed hwidth hreset hpower => completes_hostLinkUp speed width flit hspeed hwidth hreset hpower,
    fun f _ hlost hd0 => completes_pcieD3hotEnter f hlost hd0,
    fun _ _ => rfl,
    fun f _ hlost => completes_hostFlr f hlost,
    fun _ hperst => completes_hostLostPerst hperst,
    fun _ hlost => completes_hostLinkLost hlost,
    fun f off _ hlost => completes_hostPoisonedWrite f off hlost,
    fun m i v _ hopen hword => completes_intPendClear m i v hopen hword,
    fun m i v _ hopen => completes_intMaskWrite m i v hopen,
    fun m i v _ hopen h => execIntMaskWrite_unpending m i v hopen h⟩

end Sys2Proof.Machine
end

