-- ==== Sys2Proof/Proofs/FullReset.lean ====
section
/-! A full reset (R75, R76, R398): its beginning, which drives the pins to the safe state and starts the flush, the end of the
flush, and what the internal reset keeps. -/

namespace Sys2Proof.Machine

section
variable {d : Dev}

/-! ### The beginning of a full reset (R76, R400) -/

theorem Dev.quiet_cutFrame {p : Nat} : d.Quiet (d.cutFrame p).1 := by
  unfold Dev.cutFrame
  split
  · dsimp only
    split
    · exact .refl d
    · exact Dev.quiet_pmc.trans (Dev.quiet_setMac.trans Dev.quiet_macCount)
  · exact Dev.quiet_pmc.trans ((Dev.quiet_setInflight.trans Dev.quiet_macCount).trans Dev.quiet_emit)

theorem Dev.quiet_safeTx : d.Quiet d.safeTx := by
  have back {e : Dev} {q i : Nat} {de : Desc} : e.Quiet (e.putBack q i de) := ⟨rfl, fun _ _ _ _ => rfl⟩
  refine .foldl (fun e p => Dev.Keeps.trans ?_ Dev.quiet_setMac) _ _
  split
  · exact Dev.quiet_cutFrame.trans back
  · exact Dev.quiet_cutFrame

theorem Dev.Keeps.pins {e : Dev} (h : d.Quiet e) : e.pins = d.pins := congrArg (fun v => v.2.2.2.2) h.view

theorem Dev.leaseStop_pins : d.leaseStop.pins = { d.pins with leaseOut := false } := by
  unfold Dev.leaseStop
  dsimp only
  split
  · exact Dev.doorbell_pins _ _
  · rfl

/-- The pins after steps 1 to 6 of the WINTER sequence (R400). -/
def Pins.quiesced (x : Pins) : Pins :=
  { x with leaseOut := false, safeN := true, alertN := true, safeLineA := true, safeLineB := true }

theorem Dev.quiesce_pins : d.quiesce.pins = d.pins.quiesced := by
  have pulses (e : Dev) : e.pulsesLow.pins = e.pins := rfl
  unfold Dev.quiesce Pins.quiesced
  simp only [Dev.set0_pins, Dev.leaseStop_pins, pulses, Dev.quiet_safeTx.pins]

theorem Dev.abortRetrain_pins {reason : Nat} : (d.abortRetrain reason).pins = d.pins := by
  unfold Dev.abortRetrain Dev.endRetrain
  split
  · rfl
  · exact Dev.record_pins _ _ _ _ _

/-- A full reset that begins while none is in progress. -/
theorem Dev.beginReset_idle {cause : Nat} (hreset : d.boot.inReset = false) (hcause : d.boot.resetCause = none) :
    (d.beginReset cause).pins = d.pins.quiesced ∧ (d.beginReset cause).boot.resetCause = some cause ∧
      (d.beginReset cause).boot.flushAt.isSome = true := by
  have guard : ¬(d.boot.inReset = true ∨ d.boot.resetCause.isSome = true) := by simp [hreset, hcause]
  unfold Dev.beginReset
  rw [if_neg guard]
  have pins : (d.abortRetrain 3).quiesce.pins = d.pins.quiesced := by rw [Dev.quiesce_pins, Dev.abortRetrain_pins]
  refine ⟨pins, rfl, ?_⟩
  dsimp only
  split
  · rfl
  next h => exact Option.isSome_iff_ne_none.2 h

/-! ### What a reset keeps (R75, R398) -/

/-- Everything but the fields of the registers. -/
def Dev.unfielded (d : Dev) : Dev := { d with flds := [] }

/-- A fold whose steps keep what is kept, for the members of the list. -/
theorem Dev.Keeps.foldl_mem {α τ : Type} {ids : List Nat} {view : Dev → α} {f : Dev → τ → Dev} (l : List τ)
    (h : ∀ (e : Dev), ∀ x ∈ l, e.Keeps ids view (f e x)) (d : Dev) : d.Keeps ids view (l.foldl f d) := by
  induction l generalizing d with
  | nil => exact .refl d
  | cons x l ih => exact (h d x List.mem_cons_self).trans (ih (fun e y hy => h e y (List.mem_cons_of_mem x hy)) _)

theorem keeps_keepFlds (old : Dev) (l : List (Field × Nat)) :
    d.Keeps (l.map (fun x => x.1.id)) Dev.unfielded (l.foldl (fun d x => keepFld old x.1 x.2 d) d) := by
  refine .foldl_mem l (fun e x hx => ?_) d
  have kept : x.1.id ∈ l.map (fun x => x.1.id) := List.mem_map_of_mem (f := fun x : Field × Nat => x.1.id) hx
  have one (e : Dev) (i : Nat) : e.Keeps (l.map (fun x => x.1.id)) Dev.unfielded (e.set1 x.1 i (old.f1 x.1 i)) :=
    Dev.keeps_setFld kept rfl
  exact .foldl one _ e

/-- The fields of a cluster whose spare is used up. -/
def clusterFields : List Nat :=
  [Field.SHADOW_STATUS_PHASE.id, Field.SHADOW_STATUS_SPARE_USED.id, Field.SHADOW_STATUS_SLICE.id, Field.SHADOW_RETIRED_SLICE.id,
    Field.SHADOW_RETIRED_LANE.id, Field.SHADOW_RETIRED_CAUSE.id, Field.LANE_STATUS_SLICE.id, Field.LANE_STATUS_PERMANENT.id]

theorem Dev.keeps_keepCluster {old : Dev} {c : Nat} : d.Keeps clusterFields Dev.unfielded (old.keepCluster d c) := by
  have status {e : Dev} {f : Field} {i v : Nat} (hf : f.id ∈ clusterFields) : e.Keeps clusterFields Dev.unfielded (e.set1 f i v) :=
    Dev.keeps_setFld hf rfl
  have shadow : ∀ f ∈ [Field.SHADOW_STATUS_SPARE_USED, .SHADOW_STATUS_SLICE, .SHADOW_RETIRED_SLICE, .SHADOW_RETIRED_LANE,
      .SHADOW_RETIRED_CAUSE], f.id ∈ clusterFields := by decide
  exact ((status (by decide)).trans (.foldl_mem _ (fun _ f hf => status (shadow f hf)) _)).trans
    (.foldl (fun _ _ => (status (by decide)).trans (status (by decide))) _ _)

theorem Dev.keptFields_unfielded {old : Dev} : (old.keptFields d).unfielded = d.unfielded :=
  ((keeps_keepFlds old _).view.symm.trans (Dev.Keeps.foldl (fun _ _ => Dev.keeps_keepCluster) _ _).view.symm).symm

/-- The power-cycle count stands in the hold store: a reset keeps it (R398). -/
theorem Dev.keptFields_powerCycles {old : Dev} :
    (old.keptFields d).f0 .CLK_POWER_CYCLES = old.f0 .CLK_POWER_CYCLES % 2 ^ 32 := by
  unfold Dev.keptFields
  dsimp only
  rw [List.foldl_cons, (Dev.Keeps.foldl (fun _ _ => Dev.keeps_keepCluster) _ _).f0 (by decide),
    (keeps_keepFlds old _).f0 (by decide)]
  exact Dev.f1_set1_same d .CLK_POWER_CYCLES 0 _

theorem Dev.afterReset_powerCycles : d.afterReset.f0 .CLK_POWER_CYCLES = d.f0 .CLK_POWER_CYCLES % 2 ^ 32 :=
  Dev.keptFields_powerCycles

theorem Dev.afterReset_boot : d.afterReset.boot = { BootSt.reset with
    powered := d.boot.powered, powerGoodAt := d.boot.powerGoodAt, inReset := true, romRuns := false
    resetCause := d.boot.resetCause, pfailLow := d.boot.pfailLow, pfailHighAt := d.boot.pfailHighAt
    resetLowAt := d.boot.resetLowAt } := congrArg Dev.boot Dev.keptFields_unfielded

theorem Dev.afterReset_resetLow : d.afterReset.pins.resetLow = d.pins.resetLow :=
  congrArg (fun e => e.pins.resetLow) Dev.keptFields_unfielded

theorem Dev.afterReset_now : d.afterReset.now = d.now := congrArg (fun e => e.now) Dev.keptFields_unfielded

theorem Dev.afterReset_ctrs : d.afterReset.ctrs = [] := congrArg Dev.ctrs Dev.keptFields_unfielded

theorem Dev.afterReset_area : d.afterReset.evr.area = d.evr.area := congrArg (fun e => e.evr.area) Dev.keptFields_unfielded

theorem Dev.afterReset_hld : d.afterReset.hld = d.hld.keep := congrArg Dev.hld Dev.keptFields_unfielded

/-- CLK_RST_CAUSE shows the causes 0 to 4 as they are. -/
theorem Dev.showCause_plain {c : Nat} {winter : Bool} (hc : c ≤ 4) : d.showCause c winter =
    (d.set0 .CLK_RST_CAUSE_CAUSE c).set0 .CLK_RST_CAUSE_WINTER_BEFORE (b2n winter) := by
  unfold Dev.showCause
  dsimp only
  rw [if_neg (by omega), if_neg (by omega)]

theorem Dev.showCause_shown {c : Nat} {winter : Bool} (hc : c ≤ 4) :
    (d.showCause c winter).f0 .CLK_RST_CAUSE_CAUSE = c ∧
      (d.showCause c winter).f0 .CLK_RST_CAUSE_WINTER_BEFORE = b2n winter := by
  rw [Dev.showCause_plain hc]
  constructor
  · rw [Dev.f0_set0_other (by decide), Dev.f0_set0_same]
    exact Nat.mod_eq_of_lt (Nat.lt_of_le_of_lt hc (by decide))
  · rw [Dev.f0_set0_same]
    cases winter <;> rfl

/-! ### The commands of a full reset -/

theorem completes_sysResetAssert (ns : Nat) {s : State} (hpower : s.dev.boot.powered = true) (hns : 1000 ≤ ns)
    (hreset : s.dev.boot.inReset = false) (hcause : s.dev.boot.resetCause = none) :
    Completes (.sysResetAssert ns) s fun t => t.pins.resetLow = true ∧ t.boot.resetCause = some 1 ∧
      t.boot.flushAt.isSome = true ∧ t.pins.safeN = true := by
  refine completes_of_run _ (exec_sysResetAssert ns s) ?_
  have guard : ¬((!s.dev.boot.powered) = true ∨ ns < 1000) := by simp [hpower, hns]
  dsimp only
  rw [if_neg guard]
  obtain ⟨pins, cause, flush⟩ := Dev.beginReset_idle (cause := 1) (d := { s.dev with
    pins := { s.dev.pins with resetLow := true }, boot := { s.dev.boot with resetLowAt := some s.dev.now } }) hreset hcause
  rw [pins]
  exact ⟨rfl, cause, flush, rfl⟩

theorem completes_clkRstCmdFull (m : Master) {s : State} (hopen : s.dev.Open m (Reg.CLK_RST_CMD.addr 0 0))
    (hm : m.val = 4 ∨ m.val = 8) (hreset : s.dev.boot.inReset = false) (hcause : s.dev.boot.resetCause = none) :
    Completes (.clkRstCmdFull m 0xA5) s fun t => t.boot.resetCause = some (if m.val = 4 then 2 else 3) ∧
      t.boot.flushAt.isSome = true ∧ t.reg.last = .ok 0 := by
  refine completes_of_run _ (exec_clkRstCmdFull m 0xA5 s) ?_
  have begins : s.dev.clkRstCmd m (0xA5 : BitVec 8).toNat true = s.dev.beginReset (if m.val = 4 then 2 else 3) := by
    unfold Dev.clkRstCmd
    rw [if_neg (by decide), if_neg (by omega), if_neg (by decide)]
  rw [Dev.onWrite_open _ _ _ _ _ _ hopen, begins]
  obtain ⟨-, cause, flush⟩ := Dev.beginReset_idle (cause := if m.val = 4 then 2 else 3) hreset hcause
  exact ⟨cause, flush, rfl⟩

theorem execFullResetTakeHold_eq {c : Nat} {s : State} (hcause : s.dev.boot.resetCause = some c)
    (hreset : s.dev.boot.inReset = false) (hdone : s.dev.boot.flushDone = true) (hlow : c = 1 → s.dev.pins.resetLow = true)
    (hc : c ≤ 4) :
    exec .fullResetTakeHold s = .next (s.on (s.dev.afterReset.showCause c s.dev.boot.winterBefore)) := by
  have low : (s.dev.afterReset.showCause c s.dev.boot.winterBefore).pins.resetLow = s.dev.pins.resetLow := by
    rw [Dev.showCause_plain hc]
    exact Dev.afterReset_resetLow
  have held : ¬(c = 1 ∧ (!(s.dev.afterReset.showCause c s.dev.boot.winterBefore).pins.resetLow) = true) := by
    rintro ⟨one, high⟩
    rw [low, hlow one] at high
    exact Bool.false_ne_true high
  rw [exec_fullResetTakeHold, execFullResetTakeHold, State.run_eq]
  simp only [hcause, hreset, hdone, Bool.not_true, Bool.false_eq_true, or_self, if_false]
  rw [if_neg held]
  rfl

theorem completes_fullResetTakeHold {c : Nat} {s : State} (hcause : s.dev.boot.resetCause = some c) (hc : c ≤ 4)
    (hreset : s.dev.boot.inReset = false) (hdone : s.dev.boot.flushDone = true) (hlow : c = 1 → s.dev.pins.resetLow = true) :
    Completes .fullResetTakeHold s fun t => t.boot.inReset = true ∧ t.boot.romRuns = false ∧ t.boot.fwRuns = false ∧
      t.boot.committed = false ∧ t.f0 .CLK_RST_CAUSE_CAUSE = c ∧
      t.f0 .CLK_RST_CAUSE_WINTER_BEFORE = b2n s.dev.boot.winterBefore ∧ t.ctrs = [] ∧ t.evr.area = s.dev.evr.area ∧
      t.hld.commitA = s.dev.hld.commitA ∧ t.hld.commitB = s.dev.hld.commitB ∧
      t.f0 .CLK_POWER_CYCLES = s.dev.f0 .CLK_POWER_CYCLES % 2 ^ 32 := by
  refine completes_of_eq (execFullResetTakeHold_eq hcause hreset hdone hlow hc) ?_
  obtain ⟨cause, winter⟩ := Dev.showCause_shown (d := s.dev.afterReset) (winter := s.dev.boot.winterBefore) hc
  have rest : (s.dev.afterReset.showCause c s.dev.boot.winterBefore).unfielded = s.dev.afterReset.unfielded := by
    rw [Dev.showCause_plain hc]
    rfl
  have boot := (congrArg Dev.boot rest).trans Dev.afterReset_boot
  have hld := (congrArg Dev.hld rest).trans Dev.afterReset_hld
  have cycles : (s.dev.afterReset.showCause c s.dev.boot.winterBefore).f0 .CLK_POWER_CYCLES =
      s.dev.f0 .CLK_POWER_CYCLES % 2 ^ 32 := by
    rw [Dev.showCause_plain hc, Dev.f0_set0_other (by decide), Dev.f0_set0_other (by decide), Dev.afterReset_powerCycles]
  exact ⟨congrArg BootSt.inReset boot, congrArg BootSt.romRuns boot, congrArg BootSt.fwRuns boot,
    congrArg BootSt.committed boot, cause, winter, (congrArg Dev.ctrs rest).trans Dev.afterReset_ctrs,
    (congrArg (fun e => e.evr.area) rest).trans Dev.afterReset_area, congrArg (fun h => h.commitA) hld,
    congrArg (fun h => h.commitB) hld, cycles⟩

theorem completes_powerFailFlushDone {a : Nat} {s : State} (hflush : s.dev.boot.flushAt = some a)
    (hdone : s.dev.boot.flushDone = false) :
    Completes .powerFailFlushDone s fun t => t.boot.flushDone = true ∧ t.act.capFifo = [] := by
  refine completes_of_run _ (exec_powerFailFlushDone s) ?_
  simp only [hflush, hdone, Bool.false_eq_true, if_false, and_self]

theorem completes_jtagInstruction_bypass {s : State} (hpower : s.dev.boot.powered = true) :
    Completes (.jtagInstruction false) s fun t => t.pins.jtag = 0 ∧ t.boot = s.dev.boot := by
  refine completes_of_run _ (exec_jtagInstruction false s) ?_
  dsimp only
  rw [if_neg (by simp [hpower]), if_neg Bool.false_ne_true]
  exact ⟨rfl, rfl⟩

theorem completes_jtagInstruction_scan {s : State} (hpower : s.dev.boot.powered = true)
    (hreset : s.dev.boot.inReset = false) (hcause : s.dev.boot.resetCause = none) :
    Completes (.jtagInstruction true) s fun t => t.pins.jtag = 1 ∧ t.boot.resetCause = some 6 := by
  refine completes_of_run _ (exec_jtagInstruction true s) ?_
  dsimp only
  rw [if_neg (by simp [hpower]), if_pos rfl]
  obtain ⟨pins, cause, -⟩ := Dev.beginReset_idle (cause := 6)
    (d := { s.dev with pins := { s.dev.pins with jtag := b2n true } }) hreset hcause
  rw [pins]
  exact ⟨rfl, cause⟩

end

/-- Settles O19: a reset that begins drives the pins to the safe state and starts the flush (`Dev.beginReset_idle`); its taking
hold leaves the device at its reset values but for what `Dev.keptFields` writes back. -/
theorem fullResets : Obligations.FullResets := by
  unfold Obligations.FullResets
  refine ⟨?pin, ?command, ?hold, ?flush, ?bypass, ?scan⟩
  case pin => exact fun ns _ hpower hns ⟨hreset, hcause⟩ => completes_sysResetAssert ns hpower hns hreset hcause
  case command => exact fun m _ hopen hm ⟨hreset, hcause⟩ => completes_clkRstCmdFull m hopen hm hreset hcause
  case hold => exact fun _ _ hcause hc hreset hdone hlow => completes_fullResetTakeHold hcause hc hreset hdone hlow
  case flush => exact fun _ _ hflush hdone => completes_powerFailFlushDone hflush hdone
  case bypass => exact fun _ hpower => completes_jtagInstruction_bypass hpower
  case scan => exact fun _ hpower ⟨hreset, hcause⟩ => completes_jtagInstruction_scan hpower hreset hcause

end Sys2Proof.Machine
end

