-- ==== Sys2Proof/Proofs/ReleaseAndPower.lean ====
section
/-! The release of a reset and the start of the boot ROM (R79, R517), power-good, and PFAIL_N (R75, R77, R516 to R519). -/

namespace Sys2Proof.Machine

section
variable {d : Dev}

/-! ### The start of the boot ROM (R79) -/

/-- What the start of the boot ROM settles, and what runs beside it leaves alone. -/
def Dev.romView (d : Dev) : Bool × Bool × Nat × Option Nat × Pins :=
  (d.boot.romRuns, d.boot.inReset, d.boot.t0, d.boot.resetCause, d.pins)

/-- The fields of the start beside its reports: those of the oscillator and of the die links. -/
def romFields : List Nat := reportFields ++ [Field.CLK_STATUS_ON_RING.id, Field.HLT_D2D_STATUS_STATE.id]

theorem Dev.keeps_afterLock : d.Keeps romFields Dev.romView d.afterLock := by
  have due {x y : Option Nat} : d.Keeps romFields Dev.romView { d with boot := { d.boot with startAt := x, mountAt := y } } :=
    ⟨rfl, fun _ _ _ _ => rfl⟩
  have ring {e : Dev} : e.Keeps romFields Dev.romView (e.set0 .CLK_STATUS_ON_RING 0) := Dev.keeps_setFld (by decide) rfl
  have trained {e : Dev} {k : Nat} : e.Keeps romFields Dev.romView (e.set1 .HLT_D2D_STATUS_STATE k 1) :=
    Dev.keeps_setFld (by decide) rfl
  exact (due.trans ring).trans (.foldl (fun _ _ => .ite trained (.refl _)) _ _)

/-- The device at t0 of Table 3-6, before its clocks are looked at. -/
def Dev.atT0 (d : Dev) : Dev :=
  { d with boot := { d.boot with
      inReset := false, resetCause := none, romRuns := true, t0 := d.now, flushAt := none, flushDone := false } }

theorem Dev.keeps_romStart : d.atT0.Keeps romFields Dev.romView d.romStart := by
  have ring {e : Dev} : e.Keeps romFields Dev.romView (e.set0 .CLK_STATUS_ON_RING 1) := Dev.keeps_setFld (by decide) rfl
  have noted {e : Dev} : e.Keeps romFields Dev.romView (e.record .BOOT_SEL_RESERVED 0 0 (payloadOf [])) :=
    (Dev.reports_record _ _ _ _ _).keeps (List.subset_append_left _ _)
      (by simp only [Dev.romView, Dev.record_boot, Dev.record_pins])
  have clocks : d.atT0.Keeps romFields Dev.romView
      (if d.atT0.b0 .CLK_STATUS_ROOT_LOCK then d.atT0.afterLock else d.atT0.set0 .CLK_STATUS_ON_RING 1) :=
    .ite Dev.keeps_afterLock ring
  exact .ite (clocks.trans noted) clocks

/-- The boot ROM runs from now, with BOOT_SEL read as `sel`. -/
def Dev.RomRuns (t sel : Nat) (d : Dev) : Prop :=
  d.boot.romRuns = true ∧ d.boot.inReset = false ∧ d.boot.t0 = t ∧ d.boot.resetCause = none ∧ d.f0 .CLK_BOOT_STATUS_STRAP = sel

theorem Dev.romStart_runs : d.romStart.RomRuns d.now (d.f0 .CLK_BOOT_STATUS_STRAP) := by
  have started := Dev.keeps_romStart (d := d)
  exact ⟨congrArg (fun v => v.1) started.view, congrArg (fun v => v.2.1) started.view, congrArg (fun v => v.2.2.1) started.view,
    congrArg (fun v => v.2.2.2.1) started.view, started.f0 (by decide)⟩

theorem Dev.romStart_pins : d.romStart.pins = d.pins := congrArg (fun v => v.2.2.2.2) Dev.keeps_romStart.view

/-! ### A release (R79, R517) -/

/-- BOOT_SEL is latched. -/
def Dev.bootSelLatched (d : Dev) (sel : Nat) : Dev :=
  ({ d with pins := { d.pins with bootSel := sel } } : Dev).set0 .CLK_BOOT_STATUS_STRAP sel

/-- With no TAP instruction loaded and PFAIL_N never asserted since power-good, a release starts the boot ROM. -/
theorem Dev.released_started {sel : Nat} (hjtag : d.pins.jtag = 0) (hpfail : d.pins.pfail = false)
    (hhigh : d.boot.pfailHighAt = none) : d.released sel = (d.bootSelLatched sel).romStart := by
  have tap : ¬(d.bootSelLatched sel).pins.jtag ≠ 0 := fun h => h hjtag
  have power : ¬((d.bootSelLatched sel).pins.pfail = true ∨
      (d.bootSelLatched sel).boot.pfailHighAt.any (fun t => decide ((d.bootSelLatched sel).now < t + 10 * tMs)) = true) := by
    simp [Dev.bootSelLatched, hpfail, hhigh]
  exact (if_neg tap).trans (if_neg power)

theorem Dev.released_runs {sel : Nat} (hsel : sel < 8) (hjtag : d.pins.jtag = 0) (hpfail : d.pins.pfail = false)
    (hhigh : d.boot.pfailHighAt = none) : (d.released sel).RomRuns d.now sel := by
  have strap : (d.bootSelLatched sel).f0 .CLK_BOOT_STATUS_STRAP = sel :=
    (Dev.f0_set0_same _ _ _).trans (Nat.mod_eq_of_lt (hsel.trans_eq (by decide)))
  have runs := Dev.romStart_runs (d := d.bootSelLatched sel)
  rw [strap] at runs
  rw [Dev.released_started hjtag hpfail hhigh]
  exact runs

/-- With PFAIL_N asserted, the ROM waits: no reset is in progress any more, and it does not start. -/
theorem Dev.released_waits {sel : Nat} (hjtag : d.pins.jtag = 0) (hpfail : d.pins.pfail = true) :
    (d.released sel).boot = { d.boot with resetCause := none } := by
  have tap : ¬(d.bootSelLatched sel).pins.jtag ≠ 0 := fun h => h hjtag
  have waits : d.released sel = { d.bootSelLatched sel with boot := { (d.bootSelLatched sel).boot with resetCause := none } } :=
    (if_neg tap).trans (if_pos (.inl hpfail))
  rw [waits]
  rfl

/-- SYS_RESET_N is high, and BOOT_SEL reads `sel`. -/
def Dev.resetRaised (d : Dev) (sel : Nat) : Dev := { d with pins := { d.pins with resetLow := false, bootSel := sel } }

theorem completes_sysResetRelease (sel : Fin 8) {s : State} (hpower : s.dev.boot.powered = true)
    (hlow : s.dev.pins.resetLow = true) (hreset : s.dev.boot.inReset = true) (hcause : s.dev.boot.resetCause = some 1)
    (hjtag : s.dev.pins.jtag = 0) (hpfail : s.dev.pins.pfail = false) (hhigh : s.dev.boot.pfailHighAt = none) :
    Completes (.sysResetRelease sel) s fun t => t.RomRuns s.dev.now sel ∧ t.pins.resetLow = false := by
  refine completes_of_run _ (exec_sysResetRelease sel s) ?_
  dsimp only
  rw [if_neg (by simp [hpower, hlow]), if_neg (by simp [hreset, hcause])]
  refine ⟨Dev.released_runs (d := s.dev.resetRaised sel) sel.isLt hjtag hpfail hhigh, ?_⟩
  change ((s.dev.resetRaised sel).released sel).pins.resetLow = false
  rw [Dev.released_started (d := s.dev.resetRaised sel) hjtag hpfail hhigh, Dev.romStart_pins]
  rfl

theorem completes_powerGoodReleaseTimer (sel : Fin 8) {a : Nat} {s : State} (hpower : s.dev.boot.powered = true)
    (hreset : s.dev.boot.inReset = true) (hcause : s.dev.boot.resetCause = some 0) (hlow : s.dev.pins.resetLow = false)
    (hgood : s.dev.boot.powerGoodAt = some a) (hdue : a + 10 * tMs ≤ s.dev.now)
    (hjtag : s.dev.pins.jtag = 0) (hpfail : s.dev.pins.pfail = false) (hhigh : s.dev.boot.pfailHighAt = none) :
    Completes (.powerGoodReleaseTimer sel) s fun t => t.RomRuns s.dev.now sel := by
  have guard : s.dev.boot.powered = true ∧ s.dev.boot.inReset = true ∧ s.dev.boot.resetCause = some 0 ∧
      (!s.dev.pins.resetLow) = true ∧ s.dev.boot.powerGoodAt.any (fun t => decide (t + 10 * tMs ≤ s.dev.now)) = true := by
    rw [hlow, hgood, Option.any_some]
    exact ⟨hpower, hreset, hcause, rfl, decide_eq_true hdue⟩
  refine completes_of_run _ (exec_powerGoodReleaseTimer sel s) ?_
  rw [if_pos guard]
  exact Dev.released_runs sel.isLt hjtag hpfail hhigh

/-- The internal reset of a CLK_RST_CMD or a TRIAL_RESET is released. -/
theorem completes_internalResetRelease (sel : Fin 8) {c : Nat} {s : State} {P : Dev → Prop} (hpower : s.dev.boot.powered = true)
    (hreset : s.dev.boot.inReset = true) (hcause : s.dev.boot.resetCause = some c) (hc : c = 2 ∨ c = 3 ∨ c = 4)
    (hlow : s.dev.pins.resetLow = false) (hjtag : s.dev.pins.jtag = 0) (hP : P (s.dev.released sel)) :
    Completes (.internalResetRelease sel) s P := by
  have named : c ∈ [2, 3, 4, 6] := by
    simp only [List.mem_cons]
    omega
  have guard : s.dev.boot.powered = true ∧ s.dev.boot.inReset = true ∧
      s.dev.boot.resetCause.any (fun c => decide (c ∈ [2, 3, 4, 6])) = true ∧ (!s.dev.pins.resetLow) = true ∧
      s.dev.pins.jtag = 0 := by
    rw [hcause, hlow]
    exact ⟨hpower, hreset, decide_eq_true named, rfl, hjtag⟩
  refine completes_of_run _ (exec_internalResetRelease sel s) ?_
  rw [if_pos guard]
  exact hP

theorem completes_bootStartAfterPfail {a : Nat} {s : State} (hpower : s.dev.boot.powered = true)
    (hreset : s.dev.boot.inReset = true) (hcause : s.dev.boot.resetCause = none) (hpfail : s.dev.pins.pfail = false)
    (hjtag : s.dev.pins.jtag = 0) (hhigh : s.dev.boot.pfailHighAt = some a) (hdue : a + 10 * tMs ≤ s.dev.now) :
    Completes .bootStartAfterPfail s fun t => t.boot.romRuns = true ∧ t.boot.inReset = false ∧ t.boot.t0 = s.dev.now := by
  have guard : s.dev.boot.powered = true ∧ s.dev.boot.inReset = true ∧ s.dev.boot.resetCause.isNone = true ∧
      (!s.dev.pins.pfail) = true ∧ s.dev.pins.jtag = 0 ∧
      s.dev.boot.pfailHighAt.all (fun t => decide (t + 10 * tMs ≤ s.dev.now)) = true := by
    rw [hcause, hpfail, hhigh, Option.all_some]
    exact ⟨hpower, hreset, rfl, rfl, hjtag, decide_eq_true hdue⟩
  refine completes_of_run _ (exec_bootStartAfterPfail s) ?_
  rw [if_pos guard]
  obtain ⟨rom, reset, t0, -⟩ := Dev.romStart_runs (d := s.dev)
  exact ⟨rom, reset, t0⟩

/-! ### Power-good and PFAIL_N (R75, R77, R516 to R519) -/

theorem completes_powerOnReset (low : Bool) {s : State} (hpower : s.dev.boot.powered = false)
    (hcycles : s.dev.f0 .CLK_POWER_CYCLES < 2 ^ 32 - 1) :
    Completes (.powerOnReset low) s fun t => t.boot.powered = true ∧ t.boot.inReset = true ∧
      t.boot.resetCause = some 0 ∧ t.boot.powerGoodAt = some s.dev.now ∧ t.pins.resetLow = low ∧
      t.f0 .CLK_POWER_CYCLES = s.dev.f0 .CLK_POWER_CYCLES + 1 := by
  refine completes_of_run _ (exec_powerOnReset low s) ?_
  dsimp only
  rw [if_neg (by simp [hpower])]
  refine ⟨rfl, congrArg BootSt.inReset Dev.afterReset_boot, rfl, congrArg some Dev.afterReset_now, rfl, ?_⟩
  rw [Dev.f0_set0_same]
  change (s.dev.afterReset.f0 .CLK_POWER_CYCLES + 1) % 2 ^ 32 = _
  rw [Dev.afterReset_powerCycles]
  omega

theorem Dev.abortRetrain_now {reason : Nat} : (d.abortRetrain reason).now = d.now := Dev.aside_abortRetrain.now

theorem Dev.evrTrigger_pinsNow : d.evrTrigger.pins = d.pins ∧ d.evrTrigger.now = d.now := by
  unfold Dev.evrTrigger
  split
  · exact ⟨rfl, rfl⟩
  · exact ⟨rfl, rfl⟩

theorem Dev.evrRelease_pinsNow {early : Nat} : (d.evrRelease early).pins = d.pins ∧ (d.evrRelease early).now = d.now := by
  unfold Dev.evrRelease
  dsimp only
  rw [Dev.evrTrigger_pinsNow.1, Dev.evrTrigger_pinsNow.2]
  split
  · exact ⟨rfl, rfl⟩
  · rw [Dev.record_pins, Dev.record_now]
    exact ⟨rfl, rfl⟩

/-- What PFAIL_N does before the hold writer freezes: it is recorded, a freeze of the event record is released, and a retraining
is abandoned (R77, R493). -/
def Dev.pfailTold (d : Dev) : Dev :=
  (if d.pfailRecord.evr.freezeAt.isSome then d.pfailRecord.evrRelease 2 else d.pfailRecord).abortRetrain 3

theorem Dev.pfailTold_pinsNow : d.pfailTold.pins = d.pins ∧ d.pfailTold.now = d.now := by
  have noted : d.pfailRecord.pins = d.pins ∧ d.pfailRecord.now = d.now := ⟨Dev.record_pins _ _ _ _ _, Dev.record_now _ _ _ _ _⟩
  unfold Dev.pfailTold
  rw [Dev.abortRetrain_pins, Dev.abortRetrain_now]
  split
  · rw [Dev.evrRelease_pinsNow.1, Dev.evrRelease_pinsNow.2]
    exact noted
  · exact noted

theorem completes_pfailAssert (ns : Nat) (late : Bool) {s : State} (hpower : s.dev.boot.powered = true)
    (hpfail : s.dev.pins.pfail = false) (hns : 200 ≤ ns) (hreset : s.dev.boot.inReset = false)
    (hdone : s.dev.boot.flushDone = false) (hflush : s.dev.boot.flushAt = none) :
    Completes (.pfailAssert ns late) s fun t => t.pins.pfail = true ∧ t.boot.flushAt = some s.dev.now ∧
      t.hld.frozen = true ∧ t.act.capFifo = [] := by
  refine completes_of_run _ (exec_pfailAssert ns late s) ?_
  have long : ¬((!s.dev.boot.powered) = true ∨ s.dev.pins.pfail = true ∨ ns < 200) := by simp [hpower, hpfail, hns]
  dsimp only
  rw [if_neg long, if_neg (by simp [hreset, hdone]), if_neg (by simp [hflush])]
  obtain ⟨pins, now⟩ := Dev.pfailTold_pinsNow (d := { s.dev with
    pins := { s.dev.pins with pfail := true }, boot := { s.dev.boot with pfailLow := some s.dev.now } })
  exact ⟨congrArg Pins.pfail pins, congrArg some now, rfl, rfl⟩

theorem completes_pfailDeassert {a : Nat} {s : State} (hpfail : s.dev.pins.pfail = true)
    (hflush : s.dev.boot.flushAt = some a) (hreset : s.dev.boot.inReset = false) (hcause : s.dev.boot.resetCause = none) :
    Completes .pfailDeassert s fun t => t.pins.pfail = false ∧ t.boot.pfailHighAt = some s.dev.now ∧
      t.boot.resetCause = some 5 := by
  refine completes_of_run _ (exec_pfailDeassert s) ?_
  dsimp only
  rw [if_neg (by simp [hpfail]), if_pos (by simp [hflush, hreset, hcause])]
  exact ⟨rfl, rfl, rfl⟩

theorem completes_powerLost {s : State} (hpower : s.dev.boot.powered = true) :
    Completes .powerLost s fun t => t.boot.powered = false ∧ t.boot.fwRuns = false ∧
      t.buf = { BufSt.reset with spares := s.dev.buf.spares } ∧ t.evr.fifo = [] ∧ t.evr.area = s.dev.evr.area ∧
      t.hld.commitA = s.dev.hld.commitA ∧ t.img.slots = s.dev.img.slots := by
  refine completes_of_run _ (exec_powerLost s) ?_
  dsimp only
  rw [if_neg (by simp [hpower])]
  exact ⟨rfl, congrArg BootSt.fwRuns Dev.afterReset_boot, congrArg (fun e => e.buf) Dev.keptFields_unfielded,
    congrArg (fun e => e.evr.fifo) Dev.keptFields_unfielded, Dev.afterReset_area,
    congrArg (fun h => h.commitA) Dev.afterReset_hld, congrArg (fun e => e.img.slots) Dev.keptFields_unfielded⟩

end

/-- Settles O20: a release that finds PFAIL_N high starts the boot ROM (`Dev.released_runs`), one that finds it low leaves the ROM
waiting (`Dev.released_waits`); PFAIL_N's flush keeps the pins and the time it is read at (`Dev.pfailTold_pinsNow`). -/
theorem releasesAndPower : Obligations.ReleasesAndPower := by
  unfold Obligations.ReleasesAndPower
  refine ⟨⟨?release, ?timer, ?internal, ?waits, ?afterPfail⟩, ?powerOn, ?assert, ?deassert, ?lost⟩
  case release =>
    exact fun sel _ hpower hlow hreset hcause ⟨hjtag, hpfail, hhigh⟩ =>
      completes_sysResetRelease sel hpower hlow hreset hcause hjtag hpfail hhigh
  case timer =>
    exact fun sel _ _ hpower hreset hcause hlow hgood hdue ⟨hjtag, hpfail, hhigh⟩ =>
      completes_powerGoodReleaseTimer sel hpower hreset hcause hlow hgood hdue hjtag hpfail hhigh
  case internal =>
    exact fun sel _ _ hpower hreset hcause hc hlow ⟨hjtag, hpfail, hhigh⟩ =>
      completes_internalResetRelease sel hpower hreset hcause hc hlow hjtag
        (Dev.released_runs sel.isLt hjtag hpfail hhigh)
  case waits =>
    intro sel s hpower hreset hcause hlow hjtag hpfail
    refine completes_internalResetRelease sel hpower hreset hcause (.inl rfl) hlow hjtag ?_
    rw [Dev.released_waits hjtag hpfail]
    exact ⟨hreset, rfl, rfl⟩
  case afterPfail =>
    exact fun _ _ hpower hreset hcause hpfail hjtag hhigh hdue =>
      completes_bootStartAfterPfail hpower hreset hcause hpfail hjtag hhigh hdue
  case powerOn => exact fun low _ hpower hcycles => completes_powerOnReset low hpower hcycles
  case assert =>
    exact fun ns late _ hpower hpfail hns hreset hdone hflush =>
      completes_pfailAssert ns late hpower hpfail hns hreset hdone hflush
  case deassert => exact fun _ _ hpfail hflush hreset hcause => completes_pfailDeassert hpfail hflush hreset hcause
  case lost => exact fun _ hpower => completes_powerLost hpower

end Sys2Proof.Machine
end

