-- ==== Sys2Proof/Proofs/AutomataScans.lean ====
section
/-! The pattern automata (R213 to R221): what a scan and a resolution leave alone, and the commands of the inspection queue, of
the state words, of the flows and of the spare engine. -/

namespace Sys2Proof.Machine

/-- The image, the memory words in error and the inspection queues. -/
def Dev.walkView (d : Dev) : ImgSt × WordSt × Map (List Nat) := (d.img, d.words, d.search.inspect)

section
variable {d e : Dev} {ids : List Nat}

theorem Dev.Keeps.inspectQ (h : d.Keeps ids Dev.walkView e) {n : Nat} : e.inspectQ n = d.inspectQ n :=
  congrArg (fun v : ImgSt × WordSt × Map (List Nat) => Map.get [] v.2.2 n) h.view

theorem Dev.Keeps.sectionOf (h : d.Keeps ids Dev.walkView e) {ty n : Nat} : e.section ty n = d.section ty n :=
  congrArg (fun v : ImgSt × WordSt × Map (List Nat) => Map.get [] v.1.sections (k2 ty n)) h.view

theorem Dev.Keeps.wordDown (h : d.Keeps ids Dev.walkView e) {k : WordKind} {n w : Nat} : e.wordDown k n w = d.wordDown k n w :=
  congrArg (fun v : ImgSt × WordSt × Map (List Nat) => decide ((k.code, n, w) ∈ v.2.1.down)) h.view

theorem Dev.Keeps.paired (h : d.Keeps ids Dev.walkView e) : e.paired = d.paired :=
  congrArg (fun b : Bytes => !b.isEmpty) h.sectionOf

theorem Dev.Keeps.regionIsolated (h : d.Keeps ids Dev.walkView e) (hf : Field.HLT_SUM_REGION_ISOLATED.id ∉ ids) {n : Nat} :
    e.regionIsolated n = d.regionIsolated n := congrArg (fun v => bitOf v n) (h.f0 hf)

theorem Dev.Keeps.winter (h : d.Keeps ids Dev.walkView e) (hf : Field.HLT_STATE_STATE.id ∉ ids) : e.winter = d.winter :=
  congrArg (fun v => decide (v = 3)) (h.f0 hf)

end

/-- No frame has been counted as scanned from one device to the other, and the image, the words in error, the inspection queues
and all fields but those of reports stand. -/
structure Dev.Unscanned (d e : Dev) : Prop where
  kept : d.Keeps reportFields Dev.walkView e
  scanned : ∀ i, e.ctr .AUT_FRAMES_SCANNED i = d.ctr .AUT_FRAMES_SCANNED i

namespace Dev.Unscanned

variable {d e g : Dev}

theorem refl (d : Dev) : d.Unscanned d := ⟨.refl d, fun _ => rfl⟩

theorem trans (h : d.Unscanned e) (k : e.Unscanned g) : d.Unscanned g :=
  ⟨h.kept.trans k.kept, fun i => (k.scanned i).trans (h.scanned i)⟩

theorem ite {c : Prop} [Decidable c] (h : d.Unscanned e) (k : d.Unscanned g) : d.Unscanned (if c then e else g) := by
  split
  · exact h
  · exact k

theorem foldl {τ : Type} {f : Dev → τ → Dev} (h : ∀ (e : Dev) x, e.Unscanned (f e x)) (l : List τ) (d : Dev) :
    d.Unscanned (l.foldl f d) := by
  induction l generalizing d with
  | nil => exact refl d
  | cons x l ih => exact (h d x).trans (ih _)

end Dev.Unscanned

section
variable {d : Dev}

/-! ### Reports, counts and the state of actions -/

theorem Dev.Reports.walked {e : Dev} (h : d.Reports e) : d.Keeps reportFields Dev.walkView e :=
  h.keeps (List.Subset.refl _) (by simp only [Dev.walkView, h.img, h.words, h.search])

theorem Dev.Reports.unscanned {e : Dev} (h : d.Reports e) (hc : d.Uncounted e) : d.Unscanned e where
  kept := h.walked
  scanned i := hc _ i (by decide)

theorem Dev.unscanned_countN {c : Ctr} {i n : Nat} (hc : Ctr.AUT_FRAMES_SCANNED ≠ c) : d.Unscanned (d.countN c i n) :=
  ⟨⟨rfl, fun _ _ _ _ => rfl⟩, fun _ => Dev.ctr_countN_ne hc⟩

theorem Dev.unscanned_count {c : Ctr} {i : Nat} (hc : Ctr.AUT_FRAMES_SCANNED ≠ c) : d.Unscanned (d.count c i) :=
  Dev.unscanned_countN hc

theorem Dev.unscanned_raise {s : Nat} : d.Unscanned (d.raise s) := (Dev.reports_raise d s).unscanned Dev.uncounted_raise

theorem Dev.unscanned_recordLimited {c : EvCode} {t n k i : Nat} {p : Bytes} : d.Unscanned (d.recordLimited c t n k i p) :=
  (Dev.reports_recordLimited d c t n k i p).unscanned Dev.uncounted_recordLimited

theorem Dev.unscanned_recordCounted {c : EvCode} {t n k i : Nat} {fs : Nat → List (Nat × Nat)} :
    d.Unscanned (d.recordCounted c t n k i fs) := Dev.unscanned_recordLimited

theorem Dev.unscanned_perf {m ev q v : Nat} : d.Unscanned (d.perf m ev q v) :=
  (Dev.reports_perf d m ev q v).unscanned (.of_ctrs Dev.perf_ctrs)

theorem Dev.unscanned_act {x : ActSt} : d.Unscanned { d with act := x } := ⟨⟨rfl, fun _ _ _ _ => rfl⟩, fun _ => rfl⟩

theorem Dev.unscanned_setFlow {r : Nat} {f : Option AutFlow} : d.Unscanned (d.setFlow r f) :=
  ⟨⟨rfl, fun _ _ _ _ => rfl⟩, fun _ => rfl⟩

theorem Dev.unscanned_setRx {id : Nat} {r : Option Rx} : d.Unscanned (d.setRx id r) :=
  ⟨⟨rfl, fun _ _ _ _ => rfl⟩, fun _ => rfl⟩

/-! ### A scan (R215, R219) -/

theorem Dev.unscanned_flowFull {n : Nat} : d.Unscanned (d.flowFull n) :=
  ((Dev.unscanned_count (by decide)).trans Dev.unscanned_raise).trans Dev.unscanned_recordCounted

theorem Dev.unscanned_scanSegment {n tcp : Nat} {set : PatSet} {bs k frame : Bytes} :
    d.Unscanned (d.scanSegment n set bs k frame tcp).1 := by
  unfold Dev.scanSegment
  dsimp only
  split
  · split
    · exact Dev.unscanned_setFlow
    · exact (Dev.unscanned_count (by decide)).trans Dev.unscanned_setFlow
  · split
    · exact Dev.unscanned_setFlow
    · exact Dev.unscanned_flowFull

theorem Dev.unscanned_scan {n k : Nat} {rx : Rx} {pr : ParseRes} : d.Unscanned (d.scan n rx pr k).1 := by
  unfold Dev.scan
  dsimp only
  split
  · exact .refl d
  · split
    · exact Dev.unscanned_count (by decide)
    · exact Dev.unscanned_scanSegment

/-! ### A resolution (R225 to R245) outside a pair -/

/-- Outside a pair no frame enters a digest (R384). -/
theorem Dev.digestRx_unpaired {rx : Rx} {record : Bytes} {aut : Nat} (h : d.paired = false) : d.digestRx rx record aut = d := by
  have off : d.digesting = false := by simp only [Dev.digesting, h, Bool.false_and]
  unfold Dev.digestRx Dev.digestFrame
  rw [off]
  rfl

/-- Outside a pair no port is muted (R373). -/
theorem Dev.standbyDiscard_unpaired {id : Nat} (h : d.paired = false) : d.standbyDiscard id = d := by
  have heard {p : Nat} : d.muted p = false := by simp only [Dev.muted, Dev.protectedPort, h, Bool.false_and]
  unfold Dev.standbyDiscard
  split
  · rw [if_neg (by simp [heard])]
  · rfl

theorem Dev.unscanned_ttlCheck {n : Nat} {bs : Bytes} {ip : Option Hdr} {v6 : Bool} {v : Verdict} :
    d.Unscanned (d.ttlCheck n bs ip v6 v).1 := by
  unfold Dev.ttlCheck
  split
  · exact Dev.unscanned_count (by decide)
  · exact .refl d

theorem Dev.unscanned_groupCheck {n p : Nat} {v : Verdict} : d.Unscanned (d.groupCheck n p v).1 := by
  unfold Dev.groupCheck
  split
  · dsimp only
    split
    · exact Dev.unscanned_count (by decide)
    · exact .refl d
  · exact .refl d

theorem Dev.unscanned_runMeter {n i len : Nat} {pre : Colour} : d.Unscanned (d.runMeter n i len pre).1 := by
  have set {m : Meter} : d.Unscanned (d.setMeter n i m) := Dev.unscanned_act
  unfold Dev.runMeter
  dsimp only
  split
  · exact set.trans (Dev.unscanned_count (by decide))
  · split
    · exact set.trans (Dev.unscanned_count (by decide))
    · exact set.trans (Dev.unscanned_count (by decide))
    · exact set.trans (Dev.unscanned_count (by decide))

theorem Dev.unscanned_countFlow {n len c : Nat} : d.Unscanned (d.countFlow n len c) := Dev.unscanned_act

theorem Dev.unscanned_stageCapture {rec : Bytes} : d.Unscanned (d.stageCapture rec) := by
  have lost {e : Dev} : e.Unscanned e.loseCapture := (Dev.unscanned_count (by decide)).trans Dev.unscanned_recordCounted
  unfold Dev.stageCapture
  exact .ite (.refl d) (.ite (Dev.unscanned_act.trans lost) (Dev.unscanned_act.trans Dev.unscanned_act))

/-- A resolution ends as `Dev.resolved` after counts, reports and the state of actions. -/
def Dev.Resolves (d : Dev) (id : Nat) (rx : Rx) (t : Dev) : Prop := ∃ e r, d.Unscanned e ∧ t = e.resolved id rx r

theorem Dev.resolve_resolves {id aut : Nat} {rx : Rx} {pr : ParseRes} {prof : Bytes} {l : List Src} (hpair : d.paired = false) :
    d.Resolves id rx (d.resolve id rx pr prof l aut) := by
  have digested {e : Dev} {record : Bytes} (h : d.Unscanned e) : e.digestRx rx record aut = e :=
    Dev.digestRx_unpaired (h.kept.paired.trans hpair)
  unfold Dev.resolve
  extract_lets n bs l2 vlan ip v6 v0 dLimit d0 d1 t g cls last dg met m dropM d2 d3 own cp r hash d4
  split
  · have limited : d.Unscanned dLimit := (Dev.unscanned_count (by decide)).trans Dev.unscanned_recordLimited
    rw [digested limited]
    exact ⟨_, _, limited, rfl⟩
  · have undecided : d.Unscanned d0 := .ite (Dev.unscanned_count (by decide)) (.refl d)
    have skipped : d.Unscanned d1 := .ite (undecided.trans (Dev.unscanned_count (by decide))) undecided
    have checked : d.Unscanned g.1 := (skipped.trans Dev.unscanned_ttlCheck).trans Dev.unscanned_groupCheck
    have entered : d.Unscanned dg := .ite ((digested checked).symm ▸ checked) checked
    have metered : d.Unscanned m.1 := by
      cases hmet : met with
      | none => simpa only [m, hmet] using entered
      | some x => simpa only [m, hmet] using entered.trans Dev.unscanned_runMeter
    have dropped : d.Unscanned d2 := .ite (metered.trans (Dev.unscanned_count (by decide))) metered
    have counted : d.Unscanned d3 := dropped.trans (.foldl (fun _ _ => Dev.unscanned_countFlow) _ _)
    have staged : d.Unscanned d4 := by
      simp only [d4]
      split
      · exact counted
      · exact counted.trans Dev.unscanned_stageCapture
    exact ⟨d4, r, staged, rfl⟩

/-- With no word in error and its region in service, a frame resolves. -/
theorem Dev.resolveReading_clean {id aut : Nat} {rx : Rx} {pr : ParseRes} {prof : Bytes} {l : List Src}
    (hregion : d.regionIsolated rx.region = false) (hwinter : d.winter = false) :
    d.resolveReading id rx pr prof l aut [] = d.resolve id rx pr prof l aut := by
  have good : badProfile (l.map (·.s)) [] = none := by simp [badProfile]
  have still : d.actionFaults rx l [] = d := rfl
  have goes : ¬(d.regionIsolated rx.region = true ∨ d.winter = true) := by simp [hregion, hwinter]
  unfold Dev.resolveReading
  rw [good]
  dsimp only
  rw [still, if_neg goes]

theorem Dev.rxFrame_setRx {id : Nat} {r : Option Rx} : (d.setRx id r).rxFrame id = r := Map.get_set_same _ _ _ _

theorem Dev.resolved_rxFrame {id : Nat} {rx : Rx} {r : Resolved} :
    (d.resolved id rx r).rxFrame id = some { rx with parse := some r.parse, res := some r, wait := none } := Dev.rxFrame_setRx

theorem Dev.unscanned_resolved {id : Nat} {rx : Rx} {r : Resolved} : d.Unscanned (d.resolved id rx r) := by
  have resolved : d.Unscanned (d.count .ACT_RESOLVED rx.region) := Dev.unscanned_count (by decide)
  have dropped : d.Unscanned (if r.fwd = .drop then (d.count .ACT_RESOLVED rx.region).count .ACT_DROPPED rx.region
      else d.count .ACT_RESOLVED rx.region) := .ite (resolved.trans (Dev.unscanned_count (by decide))) resolved
  exact (Dev.Unscanned.ite (dropped.trans (Dev.unscanned_count (by decide))) dropped).trans Dev.unscanned_setRx

/-! ### The inspection queue (R213 to R216, R221) -/

/-- Region `n`'s inspection queue without its head, and the words corrected on the way counted. -/
def Dev.inspected (d : Dev) (n : Nat) (rest : List Nat) (corrected : Nat) : Dev :=
  (d.setInspectQ n rest).countN .AUT_ECC_CORRECTED n corrected

theorem Dev.inspected_inspectQ {n corrected : Nat} {rest : List Nat} : (d.inspected n rest corrected).inspectQ n = rest :=
  Map.get_set_same _ _ _ _

theorem Dev.wordError_first {k : WordKind} {n w : Nat} (h : Map.get 0 d.words.seen (k3 k.code n w) = 0) :
    (d.wordError k n w).1 = false := by
  unfold Dev.wordError
  dsimp only
  rw [h]
  rfl

theorem Dev.wordDown_setDown {k : WordKind} {n w : Nat} {on : Bool} : (d.setDown k n w on).wordDown k n w = on := by
  unfold Dev.wordDown Dev.setDown
  cases on <;> simp

/-- A frame whose state word `w` could not be read is dropped, and the word shown (R221). -/
def Dev.stateWordShown (d : Dev) (n id w : Nat) : Dev :=
  (((d.setRx id none).count .AUT_ENGINE_DROP n).set1 .AUT_LAST_FAULT_KIND n 2).set1 .AUT_LAST_FAULT_WORD n w

/-- A state word's first error: the word awaits its rewrite. -/
theorem Dev.stateWordLost_first {n id w : Nat} (h : Map.get 0 d.words.seen (k3 WordKind.autState.code n w) = 0) :
    d.stateWordLost n id w = ((d.stateWordShown n id w).wordError .autState n w).2.setDown .autState n w true := by
  have first : ((d.stateWordShown n id w).wordError .autState n w).1 = false := Dev.wordError_first h
  exact if_neg (first ▸ Bool.false_ne_true)

theorem completes_automataScan_bad (n : Region) (corrected w : Nat) (faults : List ReadFault) {id set : Nat} {rest : List Nat}
    {rx : Rx} {l : List Source} {pr : ParseRes} {s : State} (hq : s.dev.inspectQ n = id :: rest)
    (hrx : s.dev.rxFrame id = some rx) (hwait : rx.wait = some (l, set)) (hparse : rx.parse = some pr)
    (hseen : Map.get 0 s.dev.words.seen (k3 WordKind.autState.code n w) = 0) :
    Completes (.automataScan n corrected (some w) faults) s fun t => t.inspectQ n = rest ∧ t.rxFrame id = none ∧
      t.wordDown .autState n w = true ∧ t.ctr .AUT_ENGINE_DROP n = (s.dev.ctr .AUT_ENGINE_DROP n + 1) % 2 ^ 64 := by
  have frame : (s.dev.inspected n rest corrected).rxFrame id = some rx := hrx
  have lost : exec (.automataScan n corrected (some w) faults) s =
      .next (s.on ((s.dev.inspected n rest corrected).stateWordLost n id w)) := by
    rw [exec_automataScan, execAutomataScan, State.run_eq, hq]
    dsimp only
    rw [← Dev.inspected, frame]
    dsimp only
    rw [hwait, hparse]
    rfl
  refine completes_of_eq lost ?_
  rw [Dev.stateWordLost_first (d := s.dev.inspected n rest corrected) hseen]
  refine ⟨Dev.inspected_inspectQ (d := s.dev) (corrected := corrected), Dev.rxFrame_setRx (d := s.dev), Dev.wordDown_setDown, ?_⟩
  refine (Dev.ctr_count_same ((s.dev.inspected n rest corrected).setRx id none) .AUT_ENGINE_DROP n).trans ?_
  have drops : (s.dev.inspected n rest corrected).ctr .AUT_ENGINE_DROP n = s.dev.ctr .AUT_ENGINE_DROP n :=
    Dev.ctr_countN_ne (d := s.dev.setInspectQ n rest) (by decide)
  exact congrArg (fun v => (v + 1) % 2 ^ 64) drops

/-- The scan of a frame, counted (Table 8-4). -/
def Dev.scanned (d : Dev) (n : Nat) (rx : Rx) (pr : ParseRes) (set : Nat) : Dev :=
  let r := d.scan n rx pr set
  (((r.1.count .AUT_FRAMES_SCANNED n).countN .AUT_BYTES_SCANNED n r.2.bytes).perf n 0x121 0xFF
    (d.engineCycles r.2.bytes)).count (if r.2.hit.isSome then .AUT_MATCHED else .AUT_NO_MATCH) n

/-- A scan counts its frame once, and leaves the rest alone that a resolution does. -/
theorem Dev.scanned_counts {n set : Nat} {rx : Rx} {pr : ParseRes} :
    (d.scanned n rx pr set).ctr .AUT_FRAMES_SCANNED n = (d.ctr .AUT_FRAMES_SCANNED n + 1) % 2 ^ 64 ∧
      d.Keeps reportFields Dev.walkView (d.scanned n rx pr set) := by
  let r := d.scan n rx pr set
  have before : d.Unscanned r.1 := Dev.unscanned_scan
  have after : (r.1.count .AUT_FRAMES_SCANNED n).Unscanned (d.scanned n rx pr set) := by
    refine ((Dev.unscanned_countN (by decide)).trans Dev.unscanned_perf).trans (Dev.unscanned_count ?_)
    split
    · decide
    · decide
  have once : r.1.Keeps reportFields Dev.walkView (r.1.count .AUT_FRAMES_SCANNED n) := ⟨rfl, fun _ _ _ _ => rfl⟩
  refine ⟨?_, (before.kept.trans once).trans after.kept⟩
  rw [after.scanned, Dev.ctr_count_same, before.scanned]
  rfl

/-- Outside a pair, in a region in service and not in WINTER, a frame resolves and goes on to its queues. -/
theorem Dev.resolveReading_resolves {id aut : Nat} {rx : Rx} {pr : ParseRes} {prof : Bytes} {l : List Src}
    (hpair : d.paired = false) (hregion : d.regionIsolated rx.region = false) (hwinter : d.winter = false) :
    d.Resolves id rx ((d.resolveReading id rx pr prof l aut []).standbyDiscard id) := by
  obtain ⟨e, r, resolved, eq⟩ := Dev.resolve_resolves (id := id) (aut := aut) (rx := rx) (pr := pr) (prof := prof) (l := l) hpair
  have unpaired : (e.resolved id rx r).paired = false := (resolved.trans Dev.unscanned_resolved).kept.paired.trans hpair
  rw [Dev.resolveReading_clean hregion hwinter, eq, Dev.standbyDiscard_unpaired unpaired]
  exact ⟨e, r, resolved, rfl⟩

theorem completes_automataScan_good (n : Region) (corrected : Nat) {id set : Nat} {rest : List Nat} {rx : Rx} {l : List Source}
    {pr : ParseRes} {s : State} (hq : s.dev.inspectQ n = id :: rest) (hrx : s.dev.rxFrame id = some rx)
    (hwait : rx.wait = some (l, set)) (hparse : rx.parse = some pr) (hpair : s.dev.paired = false)
    (hwinter : s.dev.winter = false) (hregion : s.dev.regionIsolated rx.region = false) :
    Completes (.automataScan n corrected none []) s fun t => t.inspectQ n = rest ∧
      t.ctr .AUT_FRAMES_SCANNED n = (s.dev.ctr .AUT_FRAMES_SCANNED n + 1) % 2 ^ 64 ∧
      ∃ r, t.rxFrame id = some r ∧ r.res.isSome = true ∧ r.wait = none := by
  have frame : (s.dev.inspected n rest corrected).rxFrame id = some rx := hrx
  obtain ⟨once, scanned⟩ := Dev.scanned_counts (d := s.dev.inspected n rest corrected) (n := n) (set := set) (rx := rx) (pr := pr)
  have before : (s.dev.inspected n rest corrected).ctr .AUT_FRAMES_SCANNED n = s.dev.ctr .AUT_FRAMES_SCANNED n :=
    Dev.ctr_countN_ne (d := s.dev.setInspectQ n rest) (by decide)
  have ends {rx' : Rx} {t : Dev} (h : ((s.dev.inspected n rest corrected).scanned n rx pr set).Resolves id rx' t) :
      t.inspectQ n = rest ∧ t.ctr .AUT_FRAMES_SCANNED n = (s.dev.ctr .AUT_FRAMES_SCANNED n + 1) % 2 ^ 64 ∧
        ∃ r, t.rxFrame id = some r ∧ r.res.isSome = true ∧ r.wait = none := by
    obtain ⟨e, r, resolved, rfl⟩ := h
    have whole := resolved.trans (Dev.unscanned_resolved (id := id) (rx := rx') (r := r))
    refine ⟨?_, ?_, _, Dev.resolved_rxFrame, rfl, rfl⟩
    · rw [whole.kept.inspectQ, scanned.inspectQ, Dev.inspected_inspectQ]
    · rw [whole.scanned, once, before]
  refine completes_of_run _ (exec_automataScan n corrected none [] s) ?_
  rw [hq]
  dsimp only
  rw [← Dev.inspected, frame]
  dsimp only
  rw [hwait, hparse]
  exact ends (Dev.resolveReading_resolves (scanned.paired.trans hpair) ((scanned.regionIsolated (by decide)).trans hregion)
    ((scanned.winter (by decide)).trans hwinter))

/-! ### State words, flows and the spare engine (R219 to R221) -/

theorem completes_autStateRewrite (n : Region) (w : Nat) {s : State} (hdown : s.dev.wordDown .autState n w = true) :
    Completes (.autStateRewrite n w) s fun t => t.wordDown .autState n w = false ∧ t.search = s.dev.search := by
  refine completes_of_run _ (exec_autStateRewrite n w s) ?_
  rw [if_pos hdown]
  constructor
  · rw [Dev.wordDown, Dev.record_words]
    exact Dev.wordDown_setDown
  · exact Dev.record_search _ _ _ _ _

theorem completes_streamFlowIdle (row : Fin 65536) {f : AutFlow} {s : State}
    (hflow : Map.get none s.dev.search.flows row = some f) (hidle : f.last + s.dev.f0 .AUT_FLOW_IDLE * tSec ≤ s.dev.now) :
    Completes (.streamFlowIdle row) s fun t => Map.get none t.search.flows row = none ∧
      ∀ k, k ≠ row.val → Map.get none t.search.flows k = Map.get none s.dev.search.flows k := by
  refine completes_of_run _ (exec_streamFlowIdle row s) ?_
  rw [hflow]
  dsimp only
  rw [if_pos hidle]
  exact ⟨Map.get_set_same none s.dev.search.flows row none, fun k hk => Map.get_set_other none none s.dev.search.flows row k none hk⟩

/-- A cause of AUTUMN stands in its own bit (R397). -/
theorem Dev.autumn_cause {f : Field} {code : EvCode} (hf : f.id ∉ healthFields ++ quietFields) (hw : 0 < f.width) :
    (d.autumn f code).f0 f = 1 := by
  have set {x : HltSt} {y : Pins} : ({ (d.set0 f 1) with hlt := x, pins := y } : Dev).f0 f = 1 :=
    (Dev.f0_set0_same _ _ _).trans (Nat.mod_eq_of_lt (Nat.one_lt_two_pow hw.ne'))
  have entered {e : Dev} {n : Nat} : (e.enterAutumn n).f0 f = e.f0 f := by
    have quiet : f.id ∉ quietFields := fun h => hf (List.mem_append_right _ h)
    unfold Dev.enterAutumn
    rw [Dev.quiet_floodNotice.f0 quiet, Dev.quiet_record.f0 quiet, Dev.f0, Dev.setHealth_fld hf]
    rfl
  unfold Dev.autumn
  dsimp only
  split
  · exact entered.trans set
  · split
    · exact set
    · exact set

/-- Engine `e` has failed: its frames leave the pipeline and the queue, and it is shown (R220). -/
def Dev.engineFailed (d : Dev) (n e : Nat) (held : List Nat) : Dev :=
  let d1 := (held.foldl (fun d id => d.setRx id none) d).countN .AUT_ENGINE_DROP n held.length
  let d2 := (d1.setInspectQ n ((d1.inspectQ n).filter (fun id => id ∉ held)))
  (d2.set1 .AUT_LAST_FAULT_KIND n 1).set1 .AUT_LAST_FAULT_ENGINE n e

theorem Dev.keeps_engineFailed {n e : Nat} {held : List Nat} :
    d.Keeps [Field.AUT_LAST_FAULT_KIND.id, Field.AUT_LAST_FAULT_ENGINE.id] (fun _ => ()) (d.engineFailed n e held) := by
  have gone {g : Dev} {id : Nat} : g.Keeps [Field.AUT_LAST_FAULT_KIND.id, Field.AUT_LAST_FAULT_ENGINE.id] (fun _ => ())
      (g.setRx id none) := ⟨rfl, fun _ _ _ _ => rfl⟩
  have shown {g : Dev} : g.Keeps [Field.AUT_LAST_FAULT_KIND.id, Field.AUT_LAST_FAULT_ENGINE.id] (fun _ => ())
      ((g.set1 .AUT_LAST_FAULT_KIND n 1).set1 .AUT_LAST_FAULT_ENGINE n e) :=
    (Dev.keeps_setFld (by decide) rfl).trans (Dev.keeps_setFld (by decide) rfl)
  have counted {g : Dev} {k : Nat} {x : SearchSt} : g.Keeps [Field.AUT_LAST_FAULT_KIND.id, Field.AUT_LAST_FAULT_ENGINE.id]
      (fun _ => ()) { (g.countN .AUT_ENGINE_DROP n k) with search := x } := ⟨rfl, fun _ _ _ _ => rfl⟩
  exact ((Dev.Keeps.foldl (fun _ _ => gone) _ _).trans counted).trans shown

/-- The listed frames of region `n` that its automata hold. -/
def Dev.engineFrames (d : Dev) (n : Nat) (frames : List Nat) : List Nat :=
  frames.dedup.filter (fun id => (d.rxFrame id).any (fun r => r.region == n && r.wait.isSome))

/-- No spare is left: the region is isolated. -/
def Dev.clusterExhausted (d : Dev) (n : Nat) : Dev :=
  ((d.set1 .AUT_STATUS_FAULT n 1).record .AUT_CLUSTER_EXHAUSTED 0 0 (payloadOf [])).isolateRegion n
    EvCode.AUT_CLUSTER_EXHAUSTED.code

/-- The status fields of a spare that takes over for engine `e`. -/
def Dev.spareShown (d : Dev) (n e : Nat) : Dev :=
  (((d.set1 .AUT_STATUS_SPARE_USED n 1).set1 .AUT_STATUS_SPARE_FOR n (if e = 8 then 0xF else e)).setBit
    .HLT_SUM_ENGINE_AUTOMATA 0 n true).setBit .HLT_SUM_UNIT_REGION_UNIT 0 n true

/-- The spare takes over. -/
def Dev.spareTaken (d : Dev) (n e : Nat) : Dev :=
  ((d.spareShown n e).record .AUT_ENGINE_SPARED 0 0 (payloadOf [])).autumn .HLT_AUTUMN_CAUSE_SPARE .AUT_ENGINE_SPARED

theorem execAutEngineSpared_eq (n : Region) (e : Fin 9) (frames : List Nat) {s : State} (hregion : s.dev.regionIsolated n = false) :
    exec (.autEngineSpared n e frames) s = .next (s.on
      (if (s.dev.engineFailed n e (s.dev.engineFrames n frames)).b1 .AUT_STATUS_SPARE_USED n
        then (s.dev.engineFailed n e (s.dev.engineFrames n frames)).clusterExhausted n
        else (s.dev.engineFailed n e (s.dev.engineFrames n frames)).spareTaken n e)) := by
  rw [exec_autEngineSpared, execAutEngineSpared, State.run_eq, if_neg (by simp [hregion])]
  rfl

theorem Dev.engineFailed_spareUsed {n e : Nat} {held : List Nat} :
    (d.engineFailed n e held).b1 .AUT_STATUS_SPARE_USED n = d.b1 .AUT_STATUS_SPARE_USED n := by
  rw [Dev.b1, Dev.keeps_engineFailed.fld _ _ _ (by decide), Dev.b1]

theorem completes_autEngineSpared_exhausted (n : Region) (e : Fin 9) (frames : List Nat) {s : State}
    (hregion : s.dev.regionIsolated n = false) (hused : s.dev.b1 .AUT_STATUS_SPARE_USED n = true) :
    Completes (.autEngineSpared n e frames) s fun t => t.regionIsolated n = true ∧ t.f1 .AUT_STATUS_FAULT n = 1 := by
  refine completes_of_eq (execAutEngineSpared_eq n e frames hregion) ?_
  rw [Dev.engineFailed_spareUsed, if_pos hused]
  refine ⟨Dev.regionIsolated_isolateRegion n.isLt, ?_⟩
  rw [Dev.f1, Dev.clusterExhausted, Dev.isolateRegion_fld (by decide) (by decide) (by decide),
    Dev.record_fld _ _ _ _ _ _ _ _ (by decide)]
  exact Dev.f1_set1_same _ _ _ _

/-- What a spare that takes over shows is not changed by its report, nor by the device's AUTUMN. -/
theorem Dev.spareTaken_fld {n e : Nat} {g : Field} {i j : Nat} (hr : g.id ∉ reportFields) (ha : g.id ∉ autumnFields) :
    (d.spareTaken n e).fld g i j = (d.spareShown n e).fld g i j :=
  ((Dev.autumnal_autumn (by decide)).fld g i j ha).trans (Dev.record_fld _ _ _ _ _ _ _ _ hr)

theorem Dev.spareShown_used {n e : Nat} : (d.spareShown n e).f1 .AUT_STATUS_SPARE_USED n = 1 := by
  unfold Dev.spareShown Dev.setBit Dev.set1 Dev.f1
  simp (disch := decide) only [Dev.fld_setFld_id, Dev.fld_setFld_same]
  rfl

theorem Dev.spareShown_for {n : Nat} {e : Fin 9} :
    (d.spareShown n e).f1 .AUT_STATUS_SPARE_FOR n = if e.val = 8 then 15 else e.val := by
  unfold Dev.spareShown Dev.setBit Dev.set1 Dev.f1
  simp (disch := decide) only [Dev.fld_setFld_id, Dev.fld_setFld_same]
  exact Nat.mod_eq_of_lt (show (if e.val = 8 then 15 else e.val) < 16 by split <;> omega)

theorem Dev.spareShown_fld {n e : Nat} {g : Field} {i j : Nat} (hused : g.id ≠ Field.AUT_STATUS_SPARE_USED.id)
    (hfor : g.id ≠ Field.AUT_STATUS_SPARE_FOR.id) (hengine : g.id ≠ Field.HLT_SUM_ENGINE_AUTOMATA.id)
    (hunit : g.id ≠ Field.HLT_SUM_UNIT_REGION_UNIT.id) : (d.spareShown n e).fld g i j = d.fld g i j := by
  unfold Dev.spareShown Dev.setBit Dev.set1
  rw [Dev.fld_setFld_id _ _ _ _ _ _ _ _ hunit, Dev.fld_setFld_id _ _ _ _ _ _ _ _ hengine,
    Dev.fld_setFld_id _ _ _ _ _ _ _ _ hfor, Dev.fld_setFld_id _ _ _ _ _ _ _ _ hused]

theorem Dev.engineFailed_shown {n : Nat} {e : Fin 9} {held : List Nat} :
    (d.engineFailed n e held).f1 .AUT_LAST_FAULT_ENGINE n = e.val :=
  (Dev.f1_set1_same _ _ _ _).trans (Nat.mod_eq_of_lt (e.isLt.trans (by decide)))

theorem completes_autEngineSpared_spared (n : Region) (e : Fin 9) (frames : List Nat) {s : State}
    (hregion : s.dev.regionIsolated n = false) (hfree : s.dev.b1 .AUT_STATUS_SPARE_USED n = false) :
    Completes (.autEngineSpared n e frames) s fun t => t.f1 .AUT_STATUS_SPARE_USED n = 1 ∧
      t.f1 .AUT_STATUS_SPARE_FOR n = (if e.val = 8 then 15 else e.val) ∧ t.f1 .AUT_LAST_FAULT_ENGINE n = e.val ∧
      t.b0 .HLT_AUTUMN_CAUSE_SPARE = true := by
  refine completes_of_eq (execAutEngineSpared_eq n e frames hregion) ?_
  rw [Dev.engineFailed_spareUsed, if_neg (by simp [hfree])]
  refine ⟨?_, ?_, ?_, ?_⟩
  · exact (Dev.spareTaken_fld (by decide) (by decide)).trans Dev.spareShown_used
  · exact (Dev.spareTaken_fld (by decide) (by decide)).trans Dev.spareShown_for
  · exact ((Dev.spareTaken_fld (by decide) (by decide)).trans
      (Dev.spareShown_fld (by decide) (by decide) (by decide) (by decide))).trans Dev.engineFailed_shown
  · have cause {d : Dev} : (d.spareTaken n e).f0 .HLT_AUTUMN_CAUSE_SPARE = 1 := Dev.autumn_cause (by decide) (by decide)
    rw [Dev.b0, ← Dev.f0, cause]
    rfl

end

end Sys2Proof.Machine
end

