-- ==== Sys2Proof/Proofs/ParserDiscards.lean ====
section
/-! The parser (R86, R165, R169, R171): the discard in SPRING, a frame in parse error whose default action drops it, the rewrite of
a node row and CLR_LAST. -/

namespace Sys2Proof.Machine

section
variable {d : Dev}

/-! ### Counts that saturate (R501) -/

theorem satAdd_lt (w a n : Nat) : satAdd w a n < 2 ^ w :=
  (Nat.min_le_right _ _).trans_lt (Nat.sub_one_lt (Nat.two_pow_pos w).ne')

theorem Dev.f1_satInc {f : Field} {i n : Nat} : (d.satInc f i 0 n).f1 f i = satAdd f.width (d.f1 f i) n :=
  (Dev.f1_set1_same _ _ _ _).trans (Nat.mod_eq_of_lt (satAdd_lt _ _ _))

/-! ### What a frame passes before its walk (R86) -/

/-- A frame of the fabric, which the pipeline does not take. -/
def Dev.fabData (d : Dev) (rx : Rx) : Bool :=
  d.fabPort rx.port && beAt rx.bytes 12 2 == d.fabType && rx.srcDev.isNone && decide (rx.pass = 0)

theorem completes_frameParse_spring (id : Nat) (faults : List ReadFault) {rx : Rx} {s : State}
    (hrx : s.dev.rxFrame id = some rx) (hparse : rx.parse = none) (hfab : s.dev.fabData rx = false)
    (hspring : s.dev.spring = true) (hfw : s.dev.forFirmware rx = false) :
    Completes (.frameParse id faults) s fun t => t.rxFrame id = none ∧
      t.f1 .CLK_SPRING_DISCARD rx.region = satAdd 32 (s.dev.f1 .CLK_SPRING_DISCARD rx.region) 1 := by
  have health : s.dev.health = 0 := of_decide_eq_true hspring
  have winter : s.dev.winter = false := by simp [Dev.winter, health]
  have forwards : s.dev.forwards = false := by simp [Dev.forwards, health]
  refine completes_of_run _ (exec_frameParse id faults s) ?_
  rw [hrx]
  dsimp only
  rw [← Dev.fabData, if_neg (by simp [hparse, hfab]), if_neg (by simp [winter]), if_neg (by simp [hfw]), if_pos (by simp [forwards])]
  exact ⟨Dev.rxFrame_setRx (d := s.dev), Dev.f1_satInc⟩

theorem Dev.winter_of_forwards (h : d.forwards = true) : d.winter = false := by
  have health : d.health = 1 ∨ d.health = 2 := of_decide_eq_true h
  exact decide_eq_false (by omega)

/-- A frame that is not the firmware's, of a device that forwards, takes the pipeline. -/
theorem execFrameParse_pipeline (id : Nat) (faults : List ReadFault) {rx : Rx} {s : State}
    (hrx : s.dev.rxFrame id = some rx) (hparse : rx.parse = none) (hfab : s.dev.fabData rx = false)
    (hforwards : s.dev.forwards = true) (hfw : s.dev.forFirmware rx = false) :
    exec (.frameParse id faults) s = .next (s.on (s.dev.pipeline id rx faults)) := by
  rw [exec_frameParse, execFrameParse, State.run_eq, hrx]
  dsimp only
  rw [← Dev.fabData, if_neg (by simp [hparse, hfab]), if_neg (by simp [Dev.winter_of_forwards hforwards]), if_neg (by simp [hfw]),
    if_neg (by simp [hforwards])]
  rfl

/-! ### A walk that ends in error (R165, R171) -/

/-- The fields of PRS_LAST_ERR. -/
def lastErrFields : List Field :=
  [.PRS_LAST_ERR_REASON, .PRS_LAST_ERR_PASS, .PRS_LAST_ERR_NODE, .PRS_LAST_ERR_HDR_INDEX, .PRS_LAST_ERR_PORT,
    .PRS_LAST_ERR_AT_FRAME_LEN, .PRS_LAST_ERR_AT_OFFSET]

/-- What the pipeline writes until a frame in error resolves: reports and PRS_LAST_ERR. -/
def walkFields : List Nat := reportFields ++ lastErrFields.map (·.id)

theorem Dev.Reports.passed {e : Dev} (h : d.Reports e) : d.Keeps walkFields Dev.walkView e :=
  h.walked.mono (List.subset_append_left _ _) id

theorem Dev.reports_countSlot {n id : Nat} {rx : Rx} : d.Reports (d.countSlot n id rx) :=
  (Dev.reports_perf _ _ _ _ _).trans
    (Dev.reports_ite (Dev.reports_perf _ _ _ _ _) (Dev.reports_ite (Dev.reports_perf _ _ _ _ _) (Dev.reports_perf _ _ _ _ _)))

theorem Dev.reports_countWalk {n : Nat} {pr : ParseRes} : d.Reports (d.countWalk n pr) := by
  have passed {c : Ctr} : d.Reports (d.count c n) := Dev.reports_count _ _ _
  unfold Dev.countWalk
  extract_lets d1 d2 d3
  have truncated : d.Reports d2 :=
    Dev.reports_ite passed ((passed.trans (Dev.reports_count _ _ _)).trans (Dev.reports_perf _ _ _ _ _))
  have fragment : d.Reports d3 := Dev.reports_ite (truncated.trans (Dev.reports_count _ _ _)) truncated
  exact Dev.reports_ite (fragment.trans (Dev.reports_count _ _ _)) fragment

theorem Dev.keeps_noteParseErr {n len : Nat} {pr : ParseRes} : d.Keeps walkFields Dev.walkView (d.noteParseErr n len pr) := by
  have counted {e : Dev} {c : Ctr} {i : Nat} : e.Keeps walkFields Dev.walkView (e.count c i) := (Dev.reports_count _ _ _).passed
  have shown {e : Dev} {f : Field} {v : Nat} (hf : f.id ∈ walkFields) : e.Keeps walkFields Dev.walkView (e.set1 f n v) :=
    Dev.keeps_setFld hf rfl
  have told {e : Dev} {c : EvCode} {t m k i : Nat} {p : Bytes} : e.Keeps walkFields Dev.walkView (e.recordLimited c t m k i p) :=
    (Dev.reports_recordLimited _ _ _ _ _ _ _).passed
  unfold Dev.noteParseErr
  exact (((((((((counted.trans counted).trans (shown (by decide))).trans (shown (by decide))).trans (shown (by decide))).trans
    (shown (by decide))).trans (shown (by decide))).trans (shown (by decide))).trans (shown (by decide))).trans told)

theorem Dev.noteParseErr_reason {n len : Nat} {pr : ParseRes} :
    (d.noteParseErr n len pr).f1 .PRS_LAST_ERR_REASON n = pr.err % 2 ^ 3 := by
  unfold Dev.noteParseErr
  dsimp only
  rw [Dev.f1, Dev.recordLimited_fld _ _ _ _ _ _ _ _ _ _ (by decide)]
  unfold Dev.set1
  simp (disch := decide) only [Dev.fld_setFld_id, Dev.fld_setFld_same]
  rfl

theorem Dev.Keeps.walkFrame {ids : List Nat} {e : Dev} (h : d.Keeps ids Dev.walkView e) {rx : Rx} {faults : List ReadFault} :
    e.walkFrame rx faults = d.walkFrame rx faults := by
  unfold Dev.walkFrame
  simp only [h.sectionOf, h.wordDown]

/-- A frame in parse error whose default action is to drop resolves so, in a region in service. -/
theorem Dev.errorDefault_drop {id : Nat} {rx : Rx} {pr : ParseRes} {prof : Bytes} (haction : d.defaultAction rx = 0)
    (hregion : d.regionIsolated rx.region = false) (hwinter : d.winter = false) (hpair : d.paired = false) :
    d.errorDefault id rx pr prof [] = d.resolved id rx (plainResult rx pr .drop 0 (d.defaultClass rx) 0) := by
  have drop : d.errorFwd rx pr prof = (.drop, d.defaultClass rx, 0) := by
    unfold Dev.errorFwd
    rw [haction]
    rfl
  have read {rows : List Nat} : d.readFaults rx.region rows rx.region [] (fun _ _ => false) [] = d := rfl
  have goes : ¬(d.regionIsolated rx.region = true ∨ d.winter = true) := by simp [hregion, hwinter]
  unfold Dev.errorDefault
  dsimp only
  rw [read, drop]
  dsimp only
  rw [if_neg goes]
  exact congrArg (fun e => Dev.resolved e id rx _) (Dev.digestRx_unpaired hpair)

theorem Dev.Keeps.defaultAction {e : Dev} (h : d.Keeps walkFields Dev.walkView e) {rx : Rx} :
    e.defaultAction rx = d.defaultAction rx := by
  unfold Dev.defaultAction
  rw [h.fld _ _ _ (by decide), h.fld _ _ _ (by decide)]

/-- The device when the walk of a frame has ended in error and been noted. -/
def Dev.walkNoted (d : Dev) (id : Nat) (rx : Rx) : Dev :=
  ((d.countSlot rx.region id rx).countWalk rx.region (d.walkFrame rx [])).noteParseErr rx.region rx.len (d.walkFrame rx [])

theorem Dev.keeps_walkNoted {id : Nat} {rx : Rx} : d.Keeps walkFields Dev.walkView (d.walkNoted id rx) :=
  (Dev.reports_countSlot.trans Dev.reports_countWalk).passed.trans Dev.keeps_noteParseErr

/-- The pipeline of a frame whose walk ends in an error other than that of a node row (R165). -/
theorem Dev.pipeline_error {id : Nat} {rx : Rx} (hok : (d.walkFrame rx []).err ≠ 0) (hrow : (d.walkFrame rx []).err ≠ 7) :
    d.pipeline id rx [] = ((d.walkNoted id rx).errorDefault id rx (d.walkFrame rx []) ((d.walkNoted id rx).rxProfile rx)
      []).standbyDiscard id := by
  have walked : (d.countSlot rx.region id rx).walkFrame rx [] = d.walkFrame rx [] := Dev.reports_countSlot.walked.walkFrame
  unfold Dev.pipeline
  dsimp only
  rw [if_neg (by simp), walked, if_neg hok, if_neg hrow]
  rfl

theorem completes_frameParse_error (id : Nat) {rx : Rx} {s : State} (hrx : s.dev.rxFrame id = some rx) (hparse : rx.parse = none)
    (hfab : s.dev.fabData rx = false) (hforwards : s.dev.forwards = true) (hfw : s.dev.forFirmware rx = false)
    (hregion : s.dev.regionIsolated rx.region = false) (herr : (s.dev.walkFrame rx []).err = 1)
    (haction : s.dev.defaultAction rx = 0) (hpair : s.dev.paired = false) :
    Completes (.frameParse id []) s fun t => t.f1 .PRS_LAST_ERR_REASON rx.region = 1 ∧
      ∃ r, t.rxFrame id = some r ∧ (r.res.map (·.fwd)) = some .drop ∧ (r.parse.map (·.err)) = some 1 := by
  have noted := Dev.keeps_walkNoted (d := s.dev) (id := id) (rx := rx)
  refine completes_of_eq (execFrameParse_pipeline id [] hrx hparse hfab hforwards hfw) ?_
  rw [Dev.pipeline_error (by omega) (by omega), Dev.errorDefault_drop (noted.defaultAction.trans haction)
    ((noted.regionIsolated (by decide)).trans hregion) ((noted.winter (by decide)).trans (Dev.winter_of_forwards hforwards)) (noted.paired.trans hpair),
    Dev.standbyDiscard_unpaired (Dev.unscanned_resolved.kept.paired.trans (noted.paired.trans hpair))]
  refine ⟨?_, _, Dev.resolved_rxFrame, rfl, congrArg some herr⟩
  rw [Dev.unscanned_resolved.kept.f1 (by decide), Dev.walkNoted, Dev.noteParseErr_reason, herr]
  rfl

/-! ### The rewrite of a node row, and CLR_LAST (R169, R171) -/

theorem completes_parseNodeRewrite (n : Region) (k : Fin 64) {s : State} (hdown : s.dev.wordDown .node n k = true) :
    Completes (.parseNodeRewrite n k) s fun t => t.wordDown .node n k = false ∧
      Map.get 0 t.words.seen (k3 WordKind.node.code n k) = s.dev.now + 1 := by
  refine completes_of_run _ (exec_parseNodeRewrite n k s) ?_
  dsimp only
  rw [if_neg (by simp [hdown]), Dev.wordDown, Dev.record_words]
  exact ⟨Dev.wordDown_setDown (d := s.dev) (k := .node) (n := n) (w := k) (on := false),
    Map.get_set_same 0 s.dev.words.seen (k3 WordKind.node.code n k) (s.dev.now + 1)⟩

theorem Dev.clearLastErr_cleared {n : Nat} : ∀ f ∈ lastErrFields, (d.clearLastErr n).f1 f n = 0 := by
  unfold Dev.clearLastErr Dev.f1 Dev.set1 lastErrFields
  simp (disch := decide) only [List.forall_mem_cons, Dev.fld_setFld_id, Dev.fld_setFld_same, Nat.zero_mod, true_and]
  exact fun f hf => absurd hf List.not_mem_nil

theorem completes_prsClrLast (m : Master) (n : Region) {s : State} (hopen : s.dev.Open m (Reg.PRS_CTRL.addr n 0)) :
    Completes (.prsClrLast m n) s fun t => t.f1 .PRS_LAST_ERR_REASON n = 0 ∧ t.f1 .PRS_LAST_ERR_PASS n = 0 ∧
      t.f1 .PRS_LAST_ERR_NODE n = 0 ∧ t.f1 .PRS_LAST_ERR_HDR_INDEX n = 0 ∧ t.f1 .PRS_LAST_ERR_PORT n = 0 ∧
      t.f1 .PRS_LAST_ERR_AT_FRAME_LEN n = 0 ∧ t.f1 .PRS_LAST_ERR_AT_OFFSET n = 0 ∧ t.ctrs = s.dev.ctrs := by
  refine completes_of_run _ (exec_prsClrLast m n s) ?_
  rw [Dev.onWrite_open _ _ _ _ _ _ hopen]
  have cleared := Dev.clearLastErr_cleared (d := s.dev) (n := n)
  exact ⟨cleared _ (by decide), cleared _ (by decide), cleared _ (by decide), cleared _ (by decide), cleared _ (by decide),
    cleared _ (by decide), cleared _ (by decide), rfl⟩

end

/-- Settles O34: up to its resolution a frame in error writes reports and PRS_LAST_ERR alone (`Dev.keeps_walkNoted`); a scan and a
resolution outside a pair leave the inspection queues and the count of scanned frames alone (`Dev.Unscanned`). -/
theorem parserAndAutomata : Obligations.ParserAndAutomata := by
  unfold Obligations.ParserAndAutomata
  refine ⟨⟨?spring, ?error, ?node, ?clear⟩, ?bad, ?good, ?word, ?idle, ?exhausted, ?spared⟩
  case spring =>
    exact fun id faults _ _ hrx hparse hfab hspring hfw => completes_frameParse_spring id faults hrx hparse hfab hspring hfw
  case error =>
    exact fun id _ _ hrx hparse hfab hforwards hfw hregion herr _ _ _ haction hpair =>
      completes_frameParse_error id hrx hparse hfab hforwards hfw hregion herr haction hpair
  case node => exact fun n k _ hdown => completes_parseNodeRewrite n k hdown
  case clear => exact fun m n _ hopen => completes_prsClrLast m n hopen
  case bad =>
    exact fun n corrected _ w faults _ _ _ _ _ _ hq hrx hwait hparse hseen =>
      completes_automataScan_bad n corrected w faults hq hrx hwait hparse hseen
  case good =>
    exact fun n corrected _ _ _ _ _ _ _ hq hrx hwait hparse hpair hwinter hregion =>
      completes_automataScan_good n corrected hq hrx hwait hparse hpair hwinter hregion
  case word => exact fun n w _ hdown => completes_autStateRewrite n w hdown
  case idle => exact fun row _ _ hflow hidle => completes_streamFlowIdle row hflow hidle
  case exhausted =>
    exact fun n e frames _ hregion hused => completes_autEngineSpared_exhausted n e frames hregion hused
  case spared => exact fun n e frames _ hregion hfree => completes_autEngineSpared_spared n e frames hregion hfree

end Sys2Proof.Machine
end

