-- ==== Sys2Proof/Proofs/Canonical.lean ====
section
/-! The one form of registers and counters (R122, R501): it holds at reset (O56) and every step keeps it (O57).  The lemmas of
Sys2Proof/Laws/Canonical*.lean say so of each command's meaning. -/

namespace Sys2Proof.Machine

/-- Every command keeps the canonical form: each arm of the dispatch is the meaning that the lemma named there speaks of. -/
theorem exec_canonical {c : Instr} {s t : State} (h : Canonical s.dev.flds s.dev.ctrs) (e : exec c s = .next t) :
    Canonical t.dev.flds t.dev.ctrs := by
  cases c with
  | flitReceive => exact execFlitReceive_canonical h e
  | nakReplay => exact execNakReplay_canonical h e
  | ackTimeoutReplay => exact execAckTimeoutReplay_canonical h e
  | bundleDiagnosisDone => exact execBundleDiagnosisDone_canonical h e
  | regionIsolate => exact execRegionIsolate_canonical h e
  | laneDieFailed => exact execLaneDieFailed_canonical h e
  | holdDieFailed => exact execHoldDieFailed_canonical h e
  | rootPllFirstLock => exact execRootPllFirstLock_canonical h e
  | rootClockLost => exact execRootClockLost_canonical h e
  | clkDivCoreHalf => exact execClkDivCoreHalf_canonical h e
  | coreClockRedivided => exact execCoreClockRedivided_canonical h e
  | frameReceive => exact execFrameReceive_canonical h e
  | frameParse => exact execFrameParse_canonical h e
  | frameLink => exact execFrameLink_canonical h e
  | schedulerPick => exact execSchedulerPick_canonical h e
  | frameTransmit => exact execFrameTransmit_canonical h e
  | bufLinkMemoryFailed => exact execBufLinkMemoryFailed_canonical h e
  | imgLoadSlot => exact execImgLoadSlot_canonical h e
  | imgMarkTrial => exact execImgMarkTrial_canonical h e
  | imgReload => exact execImgReload_canonical h e
  | regionReloadApply => exact execRegionReloadApply_canonical h e
  | regionReloadBringup => exact execRegionReloadBringup_canonical h e
  | imgAmend => exact execImgAmend_canonical h e
  | amendmentApply => exact execAmendmentApply_canonical h e
  | imgEraseSlot => exact execImgEraseSlot_canonical h e
  | imgVerifySlot => exact execImgVerifySlot_canonical h e
  | imgLoadAndCommit => exact execImgLoadAndCommit_canonical h e
  | imgBadCommand => exact execImgBadCommand_canonical h e
  | imageTrialTimeout => exact execImageTrialTimeout_canonical h e
  | sectionScrub => exact execSectionScrub_canonical h e
  | powerOnReset => exact execPowerOnReset_canonical h e
  | sysResetAssert => exact execSysResetAssert_canonical h e
  | clkRstCmdFull => exact execClkRstCmdFull_canonical h e
  | fullResetTakeHold => exact execFullResetTakeHold_canonical h e
  | sysResetRelease => exact execSysResetRelease_canonical h e
  | powerGoodReleaseTimer => exact execPowerGoodReleaseTimer_canonical h e
  | pfailAssert => exact execPfailAssert_canonical h e
  | powerFailFlushDone => exact execPowerFailFlushDone_canonical h e
  | pfailDeassert => exact execPfailDeassert_canonical h e
  | firmwareStart => exact execFirmwareStart_canonical h e
  | hostFwLoad => exact execHostFwLoad_canonical h e
  | hostFwLoadDone => exact execHostFwLoadDone_canonical h e
  | imageCommit => exact execImageCommit_canonical h e
  | springCheck => exact execSpringCheck_canonical h e
  | springLeft => exact execSpringLeft_canonical h e
  | springStalled => exact execSpringStalled_canonical h e
  | hostLostPerst => exact execHostLostPerst_canonical h e
  | hostLinkLost => exact execHostLinkLost_canonical h e
  | linkUp => exact execLinkUp_canonical h e
  | linkDown => exact execLinkDown_canonical h e
  | flapHoldoffEnd => exact execFlapHoldoffEnd_canonical h e
  | macPortEnWrite => exact execMacPortEnWrite_canonical h e
  | macUnitIsolated => exact execMacUnitIsolated_canonical h e
  | autonegComplete => exact execAutonegComplete_canonical h e
  | pauseStart => exact execPauseStart_canonical h e
  | pauseExpire => exact execPauseExpire_canonical h e
  | pauseStorm => exact execPauseStorm_canonical h e
  | pauseRecoveryEnd => exact execPauseRecoveryEnd_canonical h e
  | pfcRefresh => exact execPfcRefresh_canonical h e
  | lpiEnter => exact execLpiEnter_canonical h e
  | lpiWake => exact execLpiWake_canonical h e
  | macStatHalfClear => exact execMacStatHalfClear_canonical h e
  | counterLoRead => exact execCounterLoRead_canonical h e
  | counterClear => exact execCounterClear_canonical h e
  | shadowTurnStart => exact execShadowTurnStart_canonical h e
  | shadowTurnNow => exact execShadowTurnNow_canonical h e
  | shadowAdaptDone => exact execShadowAdaptDone_canonical h e
  | shadowAdaptTimeout => exact execShadowAdaptTimeout_canonical h e
  | shadowVerifyEnd => exact execShadowVerifyEnd_canonical h e
  | laneSwap => exact execLaneSwap_canonical h e
  | swapDeferExhausted => exact execSwapDeferExhausted_canonical h e
  | sliceFaultIsolate => exact execSliceFaultIsolate_canonical h e
  | shadowTakeoverLock => exact execShadowTakeoverLock_canonical h e
  | d2dWireRetrainStart => exact execD2dWireRetrainStart_canonical h e
  | d2dWireRetrainDone => exact execD2dWireRetrainDone_canonical h e
  | holdRetrainStart => exact execHoldRetrainStart_canonical h e
  | holdRetrainDone => exact execHoldRetrainDone_canonical h e
  | holdRetrainTimeout => exact execHoldRetrainTimeout_canonical h e
  | deferralListRebuild => exact execDeferralListRebuild_canonical h e
  | parseNodeRewrite => exact execParseNodeRewrite_canonical h e
  | prsClrLast => exact execPrsClrLast_canonical h e
  | learnInsert => exact execLearnInsert_canonical h e
  | relocationMove => exact execRelocationMove_canonical h e
  | relocationInvalidate => exact execRelocationInvalidate_canonical h e
  | ageingVisit => exact execAgeingVisit_canonical h e
  | tblReadRow => exact execTblReadRow_canonical h e
  | tblWriteRow => exact execTblWriteRow_canonical h e
  | tblInsert => exact execTblInsert_canonical h e
  | tblDelete => exact execTblDelete_canonical h e
  | tblLookup => exact execTblLookup_canonical h e
  | tblPrefixAdd => exact execTblPrefixAdd_canonical h e
  | tblPrefixDel => exact execTblPrefixDel_canonical h e
  | tblPrefixGet => exact execTblPrefixGet_canonical h e
  | tblFlush => exact execTblFlush_canonical h e
  | tblBadDescriptor => exact execTblBadDescriptor_canonical h e
  | tblRingRestart => exact execTblRingRestart_canonical h e
  | trieOldNodesFree => exact execTrieOldNodesFree_canonical h e
  | trieNodeRebuilt => exact execTrieNodeRebuilt_canonical h e
  | lookupEngineSpared => exact execLookupEngineSpared_canonical h e
  | tcmReadEntry => exact execTcmReadEntry_canonical h e
  | tcmWriteEntry => exact execTcmWriteEntry_canonical h e
  | tcmInsertAt => exact execTcmInsertAt_canonical h e
  | tcmDeleteAt => exact execTcmDeleteAt_canonical h e
  | tcmLookup => exact execTcmLookup_canonical h e
  | tcmClearPartition => exact execTcmClearPartition_canonical h e
  | tcmBadDescriptor => exact execTcmBadDescriptor_canonical h e
  | tcmRingRestart => exact execTcmRingRestart_canonical h e
  | tcmMoveStep => exact execTcmMoveStep_canonical h e
  | tcmMoveInvalidate => exact execTcmMoveInvalidate_canonical h e
  | tcamScanRow => exact execTcamScanRow_canonical h e
  | automataScan => exact execAutomataScan_canonical h e
  | autStateRewrite => exact execAutStateRewrite_canonical h e
  | streamFlowIdle => exact execStreamFlowIdle_canonical h e
  | autEngineSpared => exact execAutEngineSpared_canonical h e
  | captureRecordWrite => exact execCaptureRecordWrite_canonical h e
  | bufArrivalReserveWrite => exact execBufArrivalReserveWrite_canonical h e
  | flapTimerExpire => exact execFlapTimerExpire_canonical h e
  | fabricDestFlapExpire => exact execFabricDestFlapExpire_canonical h e
  | holdWrite => exact execHoldWrite_canonical h e
  | holdRowWrite => exact execHoldRowWrite_canonical h e
  | holdDrain => exact execHoldDrain_canonical h e
  | freeRingRefill => exact execFreeRingRefill_canonical h e
  | freeRingSpill => exact execFreeRingSpill_canonical h e
  | holdMount => exact execHoldMount_canonical h e
  | freeSweep => exact execFreeSweep_canonical h e
  | hldSweepCmd => exact execHldSweepCmd_canonical h e
  | holdScrub => exact execHoldScrub_canonical h e
  | gapMove => exact execGapMove_canonical h e
  | zoneSwap => exact execZoneSwap_canonical h e
  | wearCounterSave => exact execWearCounterSave_canonical h e
  | hldFormat => exact execHldFormat_canonical h e
  | hldFormatDone => exact execHldFormatDone_canonical h e
  | timAdjSet => exact execTimAdjSet_canonical h e
  | timAdjStep => exact execTimAdjStep_canonical h e
  | timAdjRate => exact execTimAdjRate_canonical h e
  | timAdjStepRate => exact execTimAdjStepRate_canonical h e
  | epochSwitch => exact execEpochSwitch_canonical h e
  | timeBusFullValue => exact execTimeBusFullValue_canonical h e
  | txtsPop => exact execTxtsPop_canonical h e
  | timConv => exact execTimConv_canonical h e
  | pulseArm => exact execPulseArm_canonical h e
  | pulseEdge => exact execPulseEdge_canonical h e
  | pulseFall => exact execPulseFall_canonical h e
  | captureInputEdge => exact execCaptureInputEdge_canonical h e
  | capPop => exact execCapPop_canonical h e
  | capFlush => exact execCapFlush_canonical h e
  | ptpRxFirmware => exact execPtpRxFirmware_canonical h e
  | ptpServoUpdate => exact execPtpServoUpdate_canonical h e
  | gmLost => exact execGmLost_canonical h e
  | acceptJump => exact execAcceptJump_canonical h e
  | clockModeWrite => exact execClockModeWrite_canonical h e
  | ptpIsolateEnd => exact execPtpIsolateEnd_canonical h e
  | fabHelloSend => exact execFabHelloSend_canonical h e
  | fabHelloReceive => exact execFabHelloReceive_canonical h e
  | fabDeadTime => exact execFabDeadTime_canonical h e
  | fabRefusedEnd => exact execFabRefusedEnd_canonical h e
  | fabLsaOriginate => exact execFabLsaOriginate_canonical h e
  | fabLsaReceive => exact execFabLsaReceive_canonical h e
  | fabLsaAckReceive => exact execFabLsaAckReceive_canonical h e
  | fabLsaRetransmit => exact execFabLsaRetransmit_canonical h e
  | fabLsaExpire => exact execFabLsaExpire_canonical h e
  | fabRouteCompute => exact execFabRouteCompute_canonical h e
  | fabDataReceive => exact execFabDataReceive_canonical h e
  | fabMcCopyReceive => exact execFabMcCopyReceive_canonical h e
  | fabAddressElect => exact execFabAddressElect_canonical h e
  | fabNoticeReceive => exact execFabNoticeReceive_canonical h e
  | fabRouteParity => exact execFabRouteParity_canonical h e
  | pairHeartbeatSend => exact execPairHeartbeatSend_canonical h e
  | pairHeartbeatReceive => exact execPairHeartbeatReceive_canonical h e
  | pairHbLost => exact execPairHbLost_canonical h e
  | pairRenewSend => exact execPairRenewSend_canonical h e
  | pairRenewAckReceive => exact execPairRenewAckReceive_canonical h e
  | pairRenewDeadline => exact execPairRenewDeadline_canonical h e
  | leaseTimerExpire => exact execLeaseTimerExpire_canonical h e
  | leaseInterlock => exact execLeaseInterlock_canonical h e
  | leasePinMismatch => exact execLeasePinMismatch_canonical h e
  | pairClaim => exact execPairClaim_canonical h e
  | pairClaimTimeout => exact execPairClaimTimeout_canonical h e
  | pairGrantReceive => exact execPairGrantReceive_canonical h e
  | pairRefuseReceive => exact execPairRefuseReceive_canonical h e
  | witnessRenew => exact execWitnessRenew_canonical h e
  | witnessClaim => exact execWitnessClaim_canonical h e
  | witnessClaimGrant => exact execWitnessClaimGrant_canonical h e
  | witnessRelease => exact execWitnessRelease_canonical h e
  | pairRelease => exact execPairRelease_canonical h e
  | pairReleaseReceive => exact execPairReleaseReceive_canonical h e
  | pairHoldOff => exact execPairHoldOff_canonical h e
  | pairAllowClaims => exact execPairAllowClaims_canonical h e
  | pairDigestSend => exact execPairDigestSend_canonical h e
  | pairDigestReceive => exact execPairDigestReceive_canonical h e
  | pairCompareStage => exact execPairCompareStage_canonical h e
  | pairSampleReceive => exact execPairSampleReceive_canonical h e
  | pairResync => exact execPairResync_canonical h e
  | pairResyncDone => exact execPairResyncDone_canonical h e
  | pairSyncRecord => exact execPairSyncRecord_canonical h e
  | winterSequenceDone => exact execWinterSequenceDone_canonical h e
  | hltCauseClear => exact execHltCauseClear_canonical h e
  | winterExit => exact execWinterExit_canonical h e
  | winterReq => exact execWinterReq_canonical h e
  | watchdogExpired => exact execWatchdogExpired_canonical h e
  | monSample => exact execMonSample_canonical h e
  | thermtrip => exact execThermtrip_canonical h e
  | avsUpdate => exact execAvsUpdate_canonical h e
  | avsStep => exact execAvsStep_canonical h e
  | cfgScrub => exact execCfgScrub_canonical h e
  | calRegisterWrite => exact execCalRegisterWrite_canonical h e
  | calSave => exact execCalSave_canonical h e
  | calClearUser => exact execCalClearUser_canonical h e
  | calClearSaved => exact execCalClearSaved_canonical h e
  | hostLinkUp => exact execHostLinkUp_canonical h e
  | hostFlr => exact execHostFlr_canonical h e
  | pcieD3hotEnter => exact execPcieD3hotEnter_canonical h e
  | pcieD0Return => exact execPcieD0Return_canonical h e
  | intPendClear => exact execIntPendClear_canonical h e
  | intMaskWrite => exact execIntMaskWrite_canonical h e
  | ringDoorbell => exact execRingDoorbell_canonical h e
  | ringEnable => exact execRingEnable_canonical h e
  | ringRestart => exact execRingRestart_canonical h e
  | pf1TxFrame => exact execPf1TxFrame_canonical h e
  | pf1RxDeliver => exact execPf1RxDeliver_canonical h e
  | pf2Read => exact execPf2Read_canonical h e
  | msixModerationTimer => exact execMsixModerationTimer_canonical h e
  | hostDmaError => exact execHostDmaError_canonical h e
  | hostPoisonedWrite => exact execHostPoisonedWrite_canonical h e
  | registerWrite => exact execRegisterWrite_canonical h e
  | indAddrWrite => exact execIndAddrWrite_canonical h e
  | indFetchDone => exact execIndFetchDone_canonical h e
  | indDataReadAdvance => exact execIndDataReadAdvance_canonical h e
  | indCmdGo => exact execIndCmdGo_canonical h e
  | indWriteDone => exact execIndWriteDone_canonical h e
  | glbHifSelect => exact execGlbHifSelect_canonical h e
  | glbFuseCommit => exact execGlbFuseCommit_canonical h e
  | smbusSetAddr => exact execSmbusSetAddr_canonical h e
  | smbusRead => exact execSmbusRead_canonical h e
  | smbusWrite => exact execSmbusWrite_canonical h e
  | smbusStatus => exact execSmbusStatus_canonical h e
  | smbusTimeout => exact execSmbusTimeout_canonical h e
  | lockAcquireRead => exact execLockAcquireRead_canonical h e
  | lockReleaseWrite => exact execLockReleaseWrite_canonical h e
  | mbxH2fPost => exact execMbxH2fPost_canonical h e
  | mbxH2fTake => exact execMbxH2fTake_canonical h e
  | mbxF2hDeliver => exact execMbxF2hDeliver_canonical h e
  | mbxF2hAck => exact execMbxF2hAck_canonical h e
  | mbxGetInfo => exact execMbxGetInfo_canonical h e
  | mbxEcho => exact execMbxEcho_canonical h e
  | mbxEvrFlush => exact execMbxEvrFlush_canonical h e
  | mbxChallenge => exact execMbxChallenge_canonical h e
  | mbxEvrClear => exact execMbxEvrClear_canonical h e
  | mbxGetIdKey => exact execMbxGetIdKey_canonical h e
  | mbxAttest => exact execMbxAttest_canonical h e
  | mbxFuseOwnerKey => exact execMbxFuseOwnerKey_canonical h e
  | mbxWitnessReply => exact execMbxWitnessReply_canonical h e
  | challengeExpire => exact execChallengeExpire_canonical h e
  | credHoldoffEnd => exact execCredHoldoffEnd_canonical h e
  | doorbellEvrFlush => exact execDoorbellEvrFlush_canonical h e
  | doorbellHostAlive => exact execDoorbellHostAlive_canonical h e
  | evrFlushTimer => exact execEvrFlushTimer_canonical h e
  | evrCtrlFlush => exact execEvrCtrlFlush_canonical h e
  | evrFlushErrorTrigger => exact execEvrFlushErrorTrigger_canonical h e
  | evrFlushDone => exact execEvrFlushDone_canonical h e
  | evrFreeze => exact execEvrFreeze_canonical h e
  | evrThaw => exact execEvrThaw_canonical h e
  | evrFreezeAutoRelease => exact execEvrFreezeAutoRelease_canonical h e
  | evrEraseDone => exact execEvrEraseDone_canonical h e
  | evrUnanchored => exact execEvrUnanchored_canonical h e
  | evrStageSeqWrite => exact execEvrStageSeqWrite_canonical h e
  | evrStageRelease => exact execEvrStageRelease_canonical h e
  | pmcStartAll => exact execPmcStartAll_canonical h e
  | pmcStopAll => exact execPmcStopAll_canonical h e
  | pmcClrAll => exact execPmcClrAll_canonical h e
  | pmcSnap => exact execPmcSnap_canonical h e
  | pmcMonitorClr => exact execPmcMonitorClr_canonical h e
  | pmcSelWrite => exact execPmcSelWrite_canonical h e
  | pmcBwWindowEnd => exact execPmcBwWindowEnd_canonical h e
  | pmcBwWindowWrite => exact execPmcBwWindowWrite_canonical h e
  | pmcBwClrPeak => exact execPmcBwClrPeak_canonical h e
  | jtagInstruction => exact execJtagInstruction_canonical h e
  | fatalDieFault => exact execFatalDieFault_canonical h e
  | powerLost => exact execPowerLost_canonical h e
  | internalResetRelease => exact execInternalResetRelease_canonical h e
  | bootStartAfterPfail => exact execBootStartAfterPfail_canonical h e
  | rxLpiChange => exact execRxLpiChange_canonical h e
  | pairDigestTimeout => exact execPairDigestTimeout_canonical h e
  | pairLinkIsolateEnd => exact execPairLinkIsolateEnd_canonical h e
  | coreRestartDone => exact execCoreRestartDone_canonical h e
  | mbxUnknownOpcode => exact execMbxUnknownOpcode_canonical h e
  | smbusUndefinedCommand => exact execSmbusUndefinedCommand_canonical h e
  | timAdjRefused => exact execTimAdjRefused_canonical h e
  | registerRead => exact execRegisterRead_canonical h e
  | lldpReceive => exact execLldpReceive_canonical h e
  | ptpMessageSend => exact execPtpMessageSend_canonical h e

/-- A step is the front command, or a tick where none waits. -/
theorem step_canonical {s t : State} (h : Canonical s.dev.flds s.dev.ctrs) (e : step s = .next t) :
    Canonical t.dev.flds t.dev.ctrs := by
  unfold step at e
  split at e
  · cases e
    exact Dev.tick_canonical h
  · next rest _ => exact exec_canonical (s := { s with pending := rest }) h e

/-- Settles O56. -/
theorem resetIsCanonical : Obligations.ResetIsCanonical := Dev.reset_canonical

/-- Settles O57, by the command at the front of the queue. -/
theorem stepKeepsCanonical : Obligations.StepKeepsCanonical := fun _ _ => step_canonical

end Sys2Proof.Machine
end

