-- ==== Sys2Proof/Proofs/PortTraffic.lean ====
section
/-! What frames, pause requests and the firmware's messages leave alone of the ports and lanes: the turns of the shadow slices, the
state of each link, and the counters that tell of links and pause storms (R103, R116 to R118, R141). -/

namespace Sys2Proof.Machine

/-! ### What stands -/

/-- The last counters of Table 4-3, LINK_DOWN and the pause storms: no frame counts in them. -/
def Ctr.ofLink (c : Ctr) : Bool := decide (c.block = .MAC_STAT ∧ 75 ≤ c.k)

/-- The counters of links and pause storms. -/
def Dev.linkCtr (d : Dev) (c : Ctr) (i : Nat) : Nat := if c.ofLink then d.ctr c i else 0

/-- The firmware's frames that a port holds, whether or not the first of them is being sent. -/
def MacSt.held (m : MacSt) : List OwnFrame := (m.ownTx.toList ++ m.own).map (fun x => { x with start := 0 })

/-- A port's state but for the times of what it sent last and whether it is sending. -/
def MacSt.settled (m : MacSt) : MacSt := { m with own := m.held, ownTx := none, lastTx := 0, xoffAt := [] }

/-- What a transmitter that sends leaves alone. -/
def Dev.sendingView (d : Dev) : Map TurnSt × (Nat → MacSt) × (Ctr → Nat → Nat) :=
  (d.turns, fun p => (d.macSt p).settled, d.linkCtr)

/-- Ports have at most sent frames from one device to the other. -/
abbrev Dev.Sending (d e : Dev) : Prop := d.Keeps quietFields Dev.sendingView e

/-- What queues that fill, empty or move leave alone: the turns, which transmitters show loss of signal, and those counters. -/
def Dev.trafficView (d : Dev) : Map TurnSt × (Nat → Bool) × (Ctr → Nat → Nat) :=
  (d.turns, fun p => decide ((d.macSt p).drive = .lossOfSignal), d.linkCtr)

/-- Frames have at most been sent, queued or flushed from one device to the other. -/
abbrev Dev.Traffic (d e : Dev) : Prop := d.Keeps quietFields Dev.trafficView e

section
variable {d e : Dev}

theorem Dev.Keeps.traffic (h : d.Sending e) : d.Traffic e :=
  h.mono (List.Subset.refl _) (fun v => (v.1, fun p => decide ((v.2.1 p).drive = .lossOfSignal), v.2.2))

theorem Dev.Keeps.settled (h : d.Sending e) (p : Nat) : (e.macSt p).settled = (d.macSt p).settled :=
  congrFun (congrArg (fun v => v.2.1) h.view) p

theorem Dev.Keeps.held (h : d.Sending e) {p : Nat} : (e.macSt p).held = (d.macSt p).held :=
  show (e.macSt p).settled.own = (d.macSt p).settled.own by rw [h.settled p]

section
variable {ids : List Nat}

theorem Dev.Keeps.turn (h : d.Keeps ids Dev.trafficView e) {c : Nat} : e.turn c = d.turn c :=
  congrArg (fun v : Map TurnSt × (Nat → Bool) × (Ctr → Nat → Nat) => Map.get TurnSt.reset v.1 c) h.view

theorem Dev.Keeps.lossOfSignal (h : d.Keeps ids Dev.trafficView e) {p : Nat} :
    (e.macSt p).drive = .lossOfSignal ↔ (d.macSt p).drive = .lossOfSignal :=
  decide_eq_decide.1 (congrFun (congrArg (fun v => v.2.1) h.view) p)

theorem Dev.Keeps.linkCounter (h : d.Keeps ids Dev.trafficView e) {c : Ctr} {i : Nat} (hc : c.ofLink = true) :
    e.ctr c i = d.ctr c i := by
  have view : e.linkCtr c i = d.linkCtr c i := congrFun (congrFun (congrArg (fun v => v.2.2) h.view) c) i
  simpa only [Dev.linkCtr, hc, if_true] using view

end

/-! ### Reports, counts and tables -/

theorem Dev.linkCtr_congr (h : ∀ (c : Ctr) (i : Nat), c.ofLink = true → e.ctr c i = d.ctr c i) : e.linkCtr = d.linkCtr := by
  funext c i
  unfold Dev.linkCtr
  split
  · exact h c i ‹_›
  · rfl

theorem Ctr.ofLink_block {c : Ctr} (h : c.ofLink = true) : c.block = .MAC_STAT := (of_decide_eq_true h).1

theorem Ctr.ofLink_at {c : Ctr} {n : Nat} (h : c.k + n < 75) : (c.at n).ofLink = false :=
  decide_eq_false (fun hc => absurd hc.2 (by simpa only [Ctr.at, not_le] using h))

theorem Dev.Reports.sending (h : d.Reports e) (hc : d.Uncounted e) : d.Sending e := by
  refine h.keeps (List.subset_append_left _ _) ?_
  have counted : e.linkCtr = d.linkCtr :=
    Dev.linkCtr_congr (fun c i hl => hc c i (by rw [Ctr.ofLink_block hl]; decide))
  simp only [Dev.sendingView, Dev.macSt, h.turns, h.mac, counted]

theorem Dev.sending_setFld {f : Field} {i j v : Nat} (hf : f.id ∈ quietFields) : d.Sending (d.setFld f i j v) :=
  Dev.keeps_setFld hf rfl

theorem Dev.sending_countN {c : Ctr} {i n : Nat} (hc : c.ofLink = false) : d.Sending (d.countN c i n) where
  view := by
    have counted : (d.countN c i n).linkCtr = d.linkCtr :=
      Dev.linkCtr_congr (fun g j hl => Dev.ctr_countN_ne (fun hg => by simp [hg, hc] at hl))
    exact congrArg (fun x => (d.turns, fun p => (d.macSt p).settled, x)) counted
  fld _ _ _ _ := rfl

theorem Dev.sending_raise {s : Nat} : d.Sending (d.raise s) := (Dev.reports_raise d s).sending Dev.uncounted_raise

theorem Dev.sending_doorbell {b : Nat} : d.Sending (d.doorbell b) := (Dev.reports_doorbell d b).sending Dev.uncounted_doorbell

theorem Dev.sending_record {c : EvCode} {k i : Nat} {p : Bytes} : d.Sending (d.record c k i p) :=
  (Dev.reports_record d c k i p).sending Dev.uncounted_record

theorem Dev.sending_recordLimited {c : EvCode} {t n k i : Nat} {p : Bytes} : d.Sending (d.recordLimited c t n k i p) :=
  (Dev.reports_recordLimited d c t n k i p).sending Dev.uncounted_recordLimited

theorem Dev.sending_perf {m ev q v : Nat} : d.Sending (d.perf m ev q v) :=
  (Dev.reports_perf d m ev q v).sending (.of_ctrs Dev.perf_ctrs)

theorem Dev.sending_emit {o : Output} : d.Sending (d.emit o) := ⟨rfl, fun _ _ _ _ => rfl⟩

theorem Dev.sending_draw : d.Sending d.draw.2 := ⟨rfl, fun _ _ _ _ => rfl⟩

theorem Dev.sending_buf {b : BufSt} : d.Sending { d with buf := b } := ⟨rfl, fun _ _ _ _ => rfl⟩

theorem Dev.sending_pmc {x : PmcSt} : d.Sending { d with pmc := x } := ⟨rfl, fun _ _ _ _ => rfl⟩

theorem Dev.sending_hld {x : HldSt} : d.Sending { d with hld := x } := ⟨rfl, fun _ _ _ _ => rfl⟩

theorem Dev.sending_fab {x : FabSt} : d.Sending { d with fab := x } := ⟨rfl, fun _ _ _ _ => rfl⟩

theorem Dev.sending_mbx {x : MbxSt} : d.Sending { d with mbx := x } := ⟨rfl, fun _ _ _ _ => rfl⟩

/-! ### The state of a port's MAC -/

@[simp] theorem Dev.macSt_setMac_same {p : Nat} {m : MacSt} : (d.setMac p m).macSt p = m := Map.get_set_same _ _ _ _

theorem Dev.macSt_setMac {p q : Nat} {m : MacSt} : (d.setMac p m).macSt q = if q = p then m else d.macSt q := Map.get_set _ _ _ _ _

/-- What a port's new state has in common with its old one stands for every port. -/
theorem Dev.macSt_setMac_congr {α : Type} (see : MacSt → α) {p : Nat} {m : MacSt} (h : see m = see (d.macSt p)) (q : Nat) :
    see ((d.setMac p m).macSt q) = see (d.macSt q) := by
  rw [Dev.macSt_setMac]
  split
  · subst_vars
    exact h
  · rfl

theorem Dev.sending_setMac {p : Nat} {m : MacSt} (h : m.settled = (d.macSt p).settled) : d.Sending (d.setMac p m) where
  view := congrArg (fun x => (d.turns, x, d.linkCtr)) (funext (Dev.macSt_setMac_congr MacSt.settled h))
  fld _ _ _ _ := rfl

theorem Dev.traffic_setMac {p : Nat} {m : MacSt} (h : m.drive = (d.macSt p).drive) : d.Traffic (d.setMac p m) where
  view := congrArg (fun x => (d.turns, x, d.linkCtr))
    (funext (Dev.macSt_setMac_congr (fun m => decide (m.drive = .lossOfSignal)) (by rw [h])))
  fld _ _ _ _ := rfl

theorem Dev.sending_lastTx {p v : Nat} : d.Sending (d.setMac p { d.macSt p with lastTx := v }) := Dev.sending_setMac rfl

theorem Dev.sending_xoffAt {p : Nat} {l : Map Nat} : d.Sending (d.setMac p { d.macSt p with xoffAt := l }) :=
  Dev.sending_setMac rfl

theorem Dev.traffic_ownTx {p : Nat} {f : Option OwnFrame} : d.Traffic (d.setMac p { d.macSt p with ownTx := f }) :=
  Dev.traffic_setMac rfl

theorem Dev.traffic_own {p : Nat} {l : List OwnFrame} : d.Traffic (d.setMac p { d.macSt p with own := l }) :=
  Dev.traffic_setMac rfl

/-- The firmware's next frame starts. -/
theorem MacSt.settled_start {m : MacSt} {x : OwnFrame} {rest : List OwnFrame} {now : Nat} (htx : m.ownTx = none)
    (hown : m.own = x :: rest) : ({ m with own := rest, ownTx := some { x with start := now } } : MacSt).settled = m.settled := by
  simp [MacSt.settled, MacSt.held, htx, hown]

/-! ### Frames that a port sends, and the references to their cells -/

theorem Dev.sending_macCountN {c : Ctr} {p n : Nat} (hc : c.ofLink = false) : d.Sending (d.macCountN c p n) :=
  .ite (.refl d) (.ite ((Dev.sending_countN hc).trans Dev.sending_raise) (Dev.sending_countN hc))

theorem Dev.sending_macCount {c : Ctr} {p : Nat} (hc : c.ofLink = false) : d.Sending (d.macCount c p) := Dev.sending_macCountN hc

theorem lenBucket_lt (n : Nat) : lenBucket n < 10 := by
  unfold lenBucket
  split_ifs <;> decide

theorem Dev.sending_noteSent {p len kind : Nat} (hkind : kind < 3) : d.Sending (d.noteSent p len kind) := by
  have cast : (Ctr.MAC_TX_UCAST.at kind).ofLink = false := Ctr.ofLink_at (by simp only [Ctr.MAC_TX_UCAST]; omega)
  have bucket : (Ctr.MAC_TX_64.at (lenBucket len)).ofLink = false :=
    Ctr.ofLink_at (by have := lenBucket_lt len; simp only [Ctr.MAC_TX_64]; omega)
  unfold Dev.noteSent
  exact (((((Dev.sending_macCountN (by decide)).trans (Dev.sending_macCount (by decide))).trans (Dev.sending_macCount cast)).trans
    (Dev.sending_macCount bucket)).trans Dev.sending_pmc).trans Dev.sending_lastTx

theorem Dev.sending_sendPause {p c quanta : Nat} : d.Sending (d.sendPause p c quanta) := by
  have counted (g : Dev) (en i : Nat) (hi : i ∈ List.range 8) :
      g.Sending (if bitOf en i then g.macCount (Ctr.MAC_TX_PFC.at i) p else g) :=
    .ite (Dev.sending_macCount (Ctr.ofLink_at (by have := List.mem_range.1 hi; simp only [Ctr.MAC_TX_PFC]; omega))) (.refl g)
  have sent : d.Sending (d.noteSent p 64 1) := Dev.sending_noteSent (by decide)
  exact .ite (.refl d) (.ite ((sent.trans Dev.sending_emit).trans (.foldl_mem _ (fun g i hi => counted g _ i hi) _))
    (.ite ((sent.trans Dev.sending_emit).trans (Dev.sending_macCount (by decide))) (.refl d)))

theorem Dev.sending_checkXon {p c : Nat} : d.Sending (d.checkXon p c) :=
  .ite ((Dev.Keeps.trans (Dev.sending_setFld (by decide)) Dev.sending_xoffAt).trans Dev.sending_sendPause) (.refl d)

theorem Dev.sending_checkXoff {p c : Nat} : d.Sending (d.checkXoff p c) := by
  have asked : d.Sending (d.setBit .QUE_PORT_STATUS_PFC_XOFF p c true) := Dev.sending_setFld (by decide)
  unfold Dev.checkXoff
  exact .ite (((asked.trans (Dev.sending_countN (by decide))).trans Dev.sending_xoffAt).trans Dev.sending_sendPause) (.refl d)

theorem Dev.sending_release {id port : Nat} : d.Sending (d.release id port) := by
  have dropped : d.Sending (d.dropRef id port) := by
    unfold Dev.dropRef
    split
    · exact .refl d
    · exact .ite Dev.sending_buf Dev.sending_buf
  have freed {g : Dev} : g.Sending (g.freeRequest id port) := by
    unfold Dev.freeRequest
    split
    · exact .refl g
    · exact .ite (Dev.sending_buf.trans Dev.sending_checkXon) ((Dev.sending_countN (by decide)).trans Dev.sending_record)
  exact .ite (dropped.trans freed) dropped

theorem Dev.ownTx_of_txReady {p : Nat} (h : d.txReady p = true) : (d.macSt p).ownTx = none := by
  unfold Dev.txReady at h
  simp only [Bool.and_eq_true, Option.isNone_iff_eq_none] at h
  exact h.2

theorem Dev.sending_startFrom {p fuel : Nat} : d.Sending (Dev.startFrom p fuel d) := by
  induction fuel generalizing d with
  | zero => exact .refl d
  | succ n ih =>
    unfold Dev.startFrom
    split
    · exact .refl d
    · next ready =>
      split
      · exact .refl d
      · split
        · exact .ite (((Dev.sending_buf.trans (Dev.sending_macCount (by decide))).trans Dev.sending_release).trans ih)
            (Dev.sending_buf.trans Dev.sending_buf)
        · next hown => exact Dev.sending_setMac (MacSt.settled_start (Dev.ownTx_of_txReady (by simpa using ready)) hown)
        · exact .refl d

theorem Dev.sending_startNext {p : Nat} : d.Sending (d.startNext p) := Dev.sending_startFrom

theorem Dev.sending_withdraw {p : Nat} : d.Sending (d.withdraw p) := by
  refine .foldl (fun g m => ?_) _ _
  split
  · exact .refl g
  · exact .ite ((Dev.sending_buf.trans Dev.sending_buf).trans (Dev.sending_macCount (by decide))) (.refl g)

theorem Dev.traffic_cutFrame {p : Nat} : d.Traffic (d.cutFrame p).1 := by
  have aborted {g : Dev} : g.Traffic (g.macCount .MAC_TX_ABORTED p) := (Dev.sending_macCount (by decide)).traffic
  unfold Dev.cutFrame
  split
  · dsimp only
    split
    · exact .refl d
    · exact (Dev.sending_pmc.traffic.trans Dev.traffic_ownTx).trans aborted
  · exact ((Dev.sending_pmc.trans Dev.sending_buf).traffic.trans aborted).trans Dev.sending_emit.traffic

theorem Dev.traffic_stopSending {p : Nat} : d.Traffic (d.stopSending p) := by
  have returned {g : Dev} : g.Sending (g.returnMacq p) := by
    refine .foldl (fun x m => ?_) _ _
    split
    · exact .refl x
    · exact Dev.sending_buf.trans Dev.sending_buf
  refine Dev.Keeps.trans (Dev.Keeps.trans ?_ returned.traffic) Dev.traffic_own
  split
  · exact Dev.traffic_cutFrame
  · exact .ite (Dev.traffic_cutFrame.trans Dev.sending_buf.traffic) (Dev.traffic_cutFrame.trans Dev.sending_release.traffic)

/-! ### Queues, and frames that pass to the hold writer (R273, R297) -/

theorem Dev.traffic_startWake {p : Nat} : d.Traffic (d.startWake p) := .ite (Dev.traffic_setMac rfl) (.refl d)

theorem Dev.traffic_enqueue {q i : Nat} {de : Desc} : d.Traffic (d.enqueue q i de) := by
  have linked : d.Sending ((((({ d with buf := { d.buf with links := d.buf.links + 1 } } : Dev).setQueue q i
      (d.queue q i ++ [{ de with no := d.buf.links }])).count .QUE_ENQ_FRAMES (q * 10 + i)).perf 4 0x204 0xFF 1)) :=
    ((Dev.sending_buf.trans Dev.sending_buf).trans (Dev.sending_countN (by decide))).trans Dev.sending_perf
  exact .ite (linked.traffic.trans Dev.traffic_startWake) linked.traffic

theorem Dev.sending_refuse {q i : Nat} {de : Desc} : d.Sending (d.refuse q i de) :=
  ((Dev.sending_countN (by decide)).trans Dev.sending_perf).trans Dev.sending_release

theorem Dev.sending_ecnMark {q i : Nat} {de : Desc} : d.Sending (d.ecnMark q i de).1 := by
  have marked {g : Dev} : g.Sending (g.count .QUE_ECN_MARKED (q * 10 + i)) := Dev.sending_countN (by decide)
  unfold Dev.ecnMark
  dsimp only
  split
  · exact .refl d
  · split
    · exact marked
    · split
      · exact Dev.sending_draw.trans marked
      · exact Dev.sending_draw

theorem Dev.traffic_join {q i ing : Nat} {de : Desc} : d.Traffic (d.join q i ing de).1 := by
  have copied : d.Sending (if de.copy then d.count .QUE_MC_EGRESS_DROP q else d) :=
    .ite (Dev.sending_countN (by decide)) (.refl d)
  unfold Dev.join
  dsimp only
  split
  · exact (((copied.trans (Dev.sending_countN (by decide))).trans Dev.sending_recordLimited).trans Dev.sending_refuse).traffic
  · split
    · exact (Dev.sending_ecnMark.traffic.trans Dev.traffic_enqueue).trans Dev.sending_checkXoff.traffic
    · exact ((copied.trans (Dev.sending_countN (by decide))).trans Dev.sending_refuse).traffic
  · exact ((copied.trans (Dev.sending_countN (by decide))).trans Dev.sending_refuse).traffic

theorem Dev.traffic_passToHold {h ing : Nat} {de : Desc} {head : Bool} : d.Traffic (d.passToHold h ing de head).1 := by
  unfold Dev.passToHold
  dsimp only
  split
  · exact Dev.traffic_join.trans Dev.sending_hld.traffic
  · exact Dev.traffic_join

theorem Dev.sending_emptied {q i : Nat} : d.Sending (d.emptied q i) := .ite Dev.sending_buf (.refl d)

theorem Dev.sending_flushQueue {q i : Nat} : d.Sending (d.flushQueue q i) := by
  have gone : d.Sending (((d.setQueue q i []).countN .QUE_FLUSHED (q * 10 + i) (d.queue q i).length).emptied q i) :=
    (Dev.sending_buf.trans (Dev.sending_countN (by decide))).trans Dev.sending_emptied
  exact (Dev.Keeps.ite (gone.trans (Dev.sending_countN (by decide))) gone).trans (.foldl (fun _ _ => Dev.sending_release) _ _)

theorem Dev.traffic_queueToHold {q i : Nat} : d.Traffic (d.queueToHold q i).1 := by
  have counted {g : Dev} {c : Ctr} {n : Nat} (hc : c.ofLink = false) : g.Traffic (g.count c n) := (Dev.sending_countN hc).traffic
  unfold Dev.queueToHold
  refine (Dev.sending_buf.trans Dev.sending_emptied).traffic.trans (Dev.Keeps.foldl_fst (fun a de => ?_) _ (_, 0, 0))
  split
  · exact (counted (by decide)).trans Dev.traffic_passToHold
  · exact (counted (by decide)).trans Dev.sending_release.traffic

theorem Dev.traffic_emptyPort {p : Nat} : d.Traffic (d.emptyPort p).1 := by
  have chained {g : Dev} : g.Traffic (g.count .HLD_HEAD_CHAINS 0) := (Dev.sending_countN (by decide)).traffic
  unfold Dev.emptyPort
  refine ((Dev.sending_buf.traffic.trans (Dev.Keeps.foldl_fst (fun a t => ?_) _ (_, 0, 0))).trans
    Dev.sending_flushQueue.traffic).trans Dev.sending_flushQueue.traffic
  split
  · exact Dev.sending_flushQueue.traffic
  · exact .ite (Dev.traffic_queueToHold.trans chained) Dev.traffic_queueToHold

theorem Dev.traffic_expirePort {p : Nat} : d.Traffic (d.expirePort p) := by
  unfold Dev.expirePort
  exact Dev.traffic_emptyPort.trans ((Dev.sending_countN (by decide)).trans Dev.sending_record).traffic

theorem Dev.traffic_portDown {p hold : Nat} {up : Bool} : d.Traffic (d.portDown p hold up) := by
  unfold Dev.portDown
  exact .ite (Dev.traffic_stopSending.trans Dev.sending_buf.traffic) (.ite Dev.traffic_stopSending
    (.ite (Dev.traffic_stopSending.trans Dev.traffic_expirePort) (Dev.traffic_stopSending.trans Dev.traffic_emptyPort)))

/-! ### Messages for the host and the fabric -/

theorem Dev.traffic_sendMsg {p proto type len : Nat} {fields : List Nat} : d.Traffic (d.sendMsg p proto type len fields) := by
  unfold Dev.sendMsg
  exact .ite ((Dev.traffic_own.trans Dev.traffic_startWake).trans Dev.sending_startNext.traffic) (.refl d)

theorem Dev.traffic_floodNotice {code : Nat} : d.Traffic (d.floodNotice code) := by
  have told {g : Dev} {p type len : Nat} {fields : List Nat} : g.Traffic (g.fabControl p type len fields) := by
    unfold Dev.fabControl
    exact Dev.sending_fab.traffic.trans Dev.traffic_sendMsg
  exact .foldl (fun g _ => .ite told (.refl g)) _ _

theorem Dev.sending_notice {opcode : Nat} {payload : List Nat} : d.Sending (d.notice opcode payload) := by
  have lost {g : Dev} {m dir seq : Nat} : g.Sending (g.noteLost m dir seq) := by
    unfold Dev.noteLost
    exact Dev.sending_mbx.trans Dev.sending_doorbell
  have full {g : Dev} {m : Nat} : g.Sending (g.satInc .MBX_F2H_STATUS_LOST_COUNT m 0 1) := Dev.sending_setFld (by decide)
  have posted {g : Dev} {m : Nat} {msg : Msg} : g.Sending (g.f2hPost m msg) := by
    unfold Dev.f2hPost
    exact .ite (Dev.sending_mbx.trans (Dev.sending_setFld (by decide)))
      ((full.trans (Dev.sending_countN (by decide))).trans lost)
  unfold Dev.notice
  exact Dev.sending_mbx.trans posted

/-! ### Reads of other fields -/

theorem Dev.f1_set1_ne {f g : Field} {i j v : Nat} (h : g.id ≠ f.id) : (d.set1 f i v).f1 g j = d.f1 g j :=
  Dev.fld_setFld_id d f g i 0 j 0 v h

theorem Dev.b1_set1_ne {f g : Field} {i j v : Nat} (h : g.id ≠ f.id) : (d.set1 f i v).b1 g j = d.b1 g j :=
  congrArg (fun x => decide (x ≠ 0)) (Dev.fld_setFld_id d f g i 0 j 0 v h)

theorem Dev.b1_of_one {f : Field} {i : Nat} (h : d.f1 f i = 1) : d.b1 f i = true :=
  decide_eq_true (fun hz : d.f1 f i = 0 => Nat.one_ne_zero (h.symm.trans hz))

theorem Dev.winter_set1 {f : Field} {i v : Nat} (h : Field.HLT_STATE_STATE.id ≠ f.id) : (d.set1 f i v).winter = d.winter := by
  rw [Dev.winter, Dev.health, Dev.f0, Dev.set1, Dev.fld_setFld_id _ _ _ _ _ _ _ _ h]
  rfl

theorem Dev.Keeps.b1 {α : Type} {ids : List Nat} {view : Dev → α} (h : d.Keeps ids view e) {f : Field} {i : Nat} (hf : f.id ∉ ids) :
    e.b1 f i = d.b1 f i := congrArg (fun x => decide (x ≠ 0)) (h.fld f i 0 hf)

/-! ### Counts of the MAC -/

theorem Dev.reports_macCountN {c : Ctr} {p n : Nat} : d.Reports (d.macCountN c p n) := by
  have counted : d.Reports (d.countN c p n) := Dev.reports_setCtr d c p _
  exact Dev.reports_ite (.refl d) (Dev.reports_ite (counted.trans (Dev.reports_raise _ _)) counted)

theorem Dev.reports_macCount {c : Ctr} {p : Nat} : d.Reports (d.macCount c p) := Dev.reports_macCountN

theorem Dev.macCountN_macSt {c : Ctr} {p q n : Nat} : (d.macCountN c p n).macSt q = d.macSt q :=
  congrArg (fun m => Map.get MacSt.reset m q) Dev.reports_macCountN.mac

theorem Dev.macCount_macSt {c : Ctr} {p q : Nat} : (d.macCount c p).macSt q = d.macSt q := Dev.macCountN_macSt

theorem Dev.ctr_raise {s i : Nat} {c : Ctr} : (d.raise s).ctr c i = d.ctr c i := Dev.ctr_congr _ _ _ _ Dev.raise_ctrs

/-- A counter of Table 4-3 counts at a port in use (R122). -/
theorem Dev.ctr_macCountN_same {c : Ctr} {p n : Nat} (hp : d.portUsed p = true) :
    (d.macCountN c p n).ctr c p = (d.ctr c p + n) % 2 ^ c.block.width := by
  unfold Dev.macCountN
  dsimp only
  rw [if_neg (by simp [hp])]
  split
  · rw [Dev.ctr_raise, Dev.ctr_countN_same]
  · rw [Dev.ctr_countN_same]

theorem Dev.ctr_macCountN_ne {c g : Ctr} {p i n : Nat} (h : g ≠ c) : (d.macCountN c p n).ctr g i = d.ctr g i := by
  unfold Dev.macCountN
  dsimp only
  split_ifs
  · rfl
  · rw [Dev.ctr_raise, Dev.ctr_countN_ne h]
  · rw [Dev.ctr_countN_ne h]

end

end Sys2Proof.Machine
end

