-- ==== Sys2Proof/Proofs/PauseAndLowPower.lean ====
section
/-! Pause times, storms and requests (R116 to R119), low-power idle and its negotiation (R120, R121), and the HALF bit of a counter
(R122). -/

namespace Sys2Proof.Machine

section
variable {d : Dev}

/-! ### Tables that a fold sets -/

/-- Of a fold that sets keys in turn, the last entry of a key counts. -/
theorem Map.get_foldl_set (f : Nat → Nat) (k v : Nat) (l r : Map Nat) (m : Map Nat) (h : ∀ x ∈ r, x.1 ≠ k) :
    Map.get 0 ((l ++ (k, v) :: r).foldl (fun m x => Map.set 0 m x.1 (f x.2)) m) k = f v := by
  have later (r : Map Nat) (m : Map Nat) (h : ∀ x ∈ r, x.1 ≠ k) :
      Map.get 0 (r.foldl (fun m x => Map.set 0 m x.1 (f x.2)) m) k = Map.get 0 m k := by
    induction r generalizing m with
    | nil => rfl
    | cons x r ih =>
      rw [List.foldl_cons, ih _ (fun y hy => h y (List.mem_cons_of_mem x hy)),
        Map.get_set_other 0 0 _ _ _ _ (h x List.mem_cons_self).symm]
  rw [List.foldl_append, List.foldl_cons, later r _ h, Map.get_set_same]

/-- A fold that clears the keys of a guard clears each of them. -/
theorem Map.get_foldl_clear (guard : Nat → Bool) {k : Nat} (l : List Nat) (m : Map Nat) (hg : guard k = true)
    (h : k ∈ l ∨ Map.get 0 m k = 0) : Map.get 0 (l.foldl (fun m i => if guard i then Map.set 0 m i 0 else m) m) k = 0 := by
  induction l generalizing m with
  | nil => simpa using h
  | cons x l ih =>
    rw [List.foldl_cons]
    refine ih _ ?_
    by_cases hx : k = x
    · subst hx
      rw [if_pos hg, Map.get_set_same]
      exact .inr rfl
    · refine h.imp (fun hm => (List.mem_cons.1 hm).resolve_left hx) (fun h0 => ?_)
      split
      · rw [Map.get_set_other 0 0 _ _ _ _ hx, h0]
      · exact h0

/-! ### Outputs that stay in the list -/

theorem Dev.out_msix {o : Output} {f v : Nat} (h : o ∈ d.out) : o ∈ (d.msix f v).out := by
  unfold Dev.msix
  split_ifs
  · exact h
  · exact h
  · exact List.mem_cons_of_mem _ h
  · exact h
  · exact List.mem_cons_of_mem _ h

theorem Dev.out_raise {o : Output} {s : Nat} (h : o ∈ d.out) : o ∈ (d.raise s).out := by
  unfold Dev.raise
  dsimp only
  split_ifs
  · exact h
  · exact Dev.out_msix h
  · exact Dev.out_msix (Dev.out_msix h)
  · exact h
  · exact Dev.out_msix h

theorem Dev.out_macCount {o : Output} {c : Ctr} {p : Nat} (h : o ∈ d.out) : o ∈ (d.macCount c p).out := by
  unfold Dev.macCount Dev.macCountN
  dsimp only
  split_ifs
  · exact h
  · exact Dev.out_raise h
  · exact h

/-! ### The pauses in force (R116, R117) -/

/-- The fields that the pauses in force write. -/
def pausedFields : List Nat := Field.MAC_STATUS_PAUSED.id :: quietFields

/-- They are a new table of pause starts, the new PAUSED bits, and frames withdrawn. -/
theorem Dev.refreshPaused_eq {p : Nat} :
    ∃ l bits, d.refreshPaused p =
      ((d.setMac p { d.macSt p with pausedSince := l }).set1 .MAC_STATUS_PAUSED p bits).withdraw p := ⟨_, _, rfl⟩

theorem Dev.keeps_refreshPaused {p : Nat} : d.Keeps pausedFields Dev.trafficView (d.refreshPaused p) := by
  have quiet {e g : Dev} (h : e.Traffic g) : e.Keeps pausedFields Dev.trafficView g := h.mono (List.subset_cons_self _ _) id
  have shown {e : Dev} {v : Nat} : e.Keeps pausedFields Dev.trafficView (e.set1 .MAC_STATUS_PAUSED p v) :=
    Dev.keeps_setFld List.mem_cons_self rfl
  have since {l : Map Nat} : d.Traffic (d.setMac p { d.macSt p with pausedSince := l }) := Dev.traffic_setMac rfl
  obtain ⟨_, _, eq⟩ := Dev.refreshPaused_eq (d := d) (p := p)
  rw [eq]
  exact ((quiet since).trans shown).trans (quiet Dev.sending_withdraw.traffic)

/-- A port's state but for what it sends and the starts of its pauses. -/
def MacSt.rested (m : MacSt) : MacSt := { m.settled with pausedSince := [] }

section
variable {m n : MacSt} (h : m.rested = n.rested)
include h

theorem MacSt.rested_pauseEnd : m.pauseEnd = n.pauseEnd :=
  show m.rested.pauseEnd = n.rested.pauseEnd by rw [h]

theorem MacSt.rested_pausePend : m.pausePend = n.pausePend :=
  show m.rested.pausePend = n.rested.pausePend by rw [h]

theorem MacSt.rested_recoverEnd : m.recoverEnd = n.recoverEnd :=
  show m.rested.recoverEnd = n.rested.recoverEnd by rw [h]

end

theorem MacSt.rested_of_settled {m n : MacSt} (h : m.settled = n.settled) : m.rested = n.rested := by
  rw [MacSt.rested, MacSt.rested, h]

theorem Dev.rested_refreshPaused {p : Nat} : ((d.refreshPaused p).macSt p).rested = (d.macSt p).rested := by
  obtain ⟨l, bits, eq⟩ := Dev.refreshPaused_eq (d := d) (p := p)
  have shown : ((d.setMac p { d.macSt p with pausedSince := l }).set1 .MAC_STATUS_PAUSED p bits).macSt p =
      { d.macSt p with pausedSince := l } := Dev.macSt_setMac_same
  rw [eq, MacSt.rested_of_settled (Dev.sending_withdraw.settled p), shown]
  rfl

theorem Dev.rested_refreshNext {p : Nat} : (((d.refreshPaused p).startNext p).macSt p).rested = (d.macSt p).rested :=
  (MacSt.rested_of_settled (Dev.sending_startNext.settled p)).trans Dev.rested_refreshPaused

theorem completes_pauseStart (p : Port) {i q : Nat} {l r : Map Nat} {s : State}
    (hpend : (s.dev.macSt p).pausePend = l ++ (i, q) :: r) (hlast : ∀ x ∈ r, x.1 ≠ i) (hidle : s.dev.inflight p = none)
    (hown : (s.dev.macSt p).ownTx = none) :
    Completes (.pauseStart p) s fun t => (t.macSt p).pausePend = [] ∧
      Map.get 0 (t.macSt p).pauseEnd i = s.dev.now + s.dev.quantaTicks p q := by
  refine completes_of_run _ (exec_pauseStart p s) ?_
  dsimp only
  rw [if_neg (by simp [hpend, hidle, hown]), MacSt.rested_pausePend Dev.rested_refreshNext,
    MacSt.rested_pauseEnd Dev.rested_refreshNext, Dev.macSt_setMac_same, hpend]
  exact ⟨rfl, Map.get_foldl_set (fun q => s.dev.now + s.dev.quantaTicks p q) i q l r _ hlast⟩

theorem completes_pauseExpire (p : Port) (i : Fin 9) {s : State} (hruns : Map.get 0 (s.dev.macSt p).pauseEnd i ≠ 0)
    (hdue : Map.get 0 (s.dev.macSt p).pauseEnd i ≤ s.dev.now) :
    Completes (.pauseExpire p i) s fun t => Map.get 0 (t.macSt p).pauseEnd i = 0 ∧
      ∀ j, j ≠ i.val → Map.get 0 (t.macSt p).pauseEnd j = Map.get 0 (s.dev.macSt p).pauseEnd j := by
  refine completes_of_run _ (exec_pauseExpire p i s) ?_
  dsimp only
  rw [if_neg (by omega), MacSt.rested_pauseEnd Dev.rested_refreshNext, Dev.macSt_setMac_same]
  dsimp only
  exact ⟨Map.get_set_same _ _ _ _, fun j hj => Map.get_set_other _ _ _ _ _ _ hj⟩

/-! ### Storms (R118) -/

/-- The counter of a storm, of PAUSE for class 8. -/
def stormCtr (c : Nat) : Ctr := if c = 8 then .MAC_PAUSE_STORM_LINK else Ctr.MAC_PAUSE_STORM.at c

theorem stormCtr_ofLink (c : Nat) : (stormCtr c).ofLink = true := by
  unfold stormCtr
  split
  · rfl
  · exact decide_eq_true ⟨rfl, Nat.le_trans (by decide) (Nat.le_add_right 76 c)⟩

/-- MAC_STATUS.STORM with the bit of a class set, with all of them for PAUSE. -/
def stormBits (c old : Nat) : Nat := if c = 8 then 255 else putBit old c true

/-- The port with a class's storm shown, counted and recorded. -/
def Dev.stormShown (d : Dev) (p c : Nat) : Dev :=
  ((((d.refreshPaused p).set1 .MAC_STATUS_STORM p (stormBits c (d.f1 .MAC_STATUS_STORM p))).macCount (stormCtr c) p).recordLimited
    .PAUSE_STORM p tSec 1 p (payloadOf [(1, p), (1, c)])).startNext p

theorem Dev.stormShown_sending {p c : Nat} :
    (((d.refreshPaused p).set1 .MAC_STATUS_STORM p (stormBits c (d.f1 .MAC_STATUS_STORM p))).macCount (stormCtr c) p).Sending
      (d.stormShown p c) := Dev.sending_recordLimited.trans Dev.sending_startNext

theorem Dev.rested_stormShown {p c : Nat} : ((d.stormShown p c).macSt p).rested = (d.macSt p).rested := by
  rw [MacSt.rested_of_settled (Dev.stormShown_sending.settled p), Dev.macCount_macSt]
  exact Dev.rested_refreshPaused

theorem Dev.stormShown_storm {p c : Nat} (hc : c < 9) :
    if c = 8 then (d.stormShown p c).f1 .MAC_STATUS_STORM p = 255 else bitOf ((d.stormShown p c).f1 .MAC_STATUS_STORM p) c = true := by
  have shown : (d.stormShown p c).f1 .MAC_STATUS_STORM p = stormBits c (d.f1 .MAC_STATUS_STORM p) % 2 ^ 8 := by
    rw [Dev.stormShown_sending.f1 (by decide), Dev.quiet_macCount.f1 (by decide), Dev.f1_set1_same]
    rfl
  rw [shown, stormBits]
  split
  · rfl
  · exact bitOf_putBit_mod (by omega)

theorem Dev.stormShown_count {p c : Nat} (hp : d.portUsed p = true) :
    (d.stormShown p c).ctr (stormCtr c) p = (d.ctr (stormCtr c) p + 1) % 2 ^ 48 := by
  have used : ((d.refreshPaused p).set1 .MAC_STATUS_STORM p (stormBits c (d.f1 .MAC_STATUS_STORM p))).portUsed p = true := by
    rw [Dev.portUsed, Dev.portMode, Dev.f1_set1_ne (by decide), Dev.keeps_refreshPaused.f1 (by decide)]
    exact hp
  have width : (stormCtr c).block.width = 48 := by
    rw [Ctr.ofLink_block (stormCtr_ofLink c)]
    rfl
  rw [Dev.stormShown_sending.traffic.linkCounter (stormCtr_ofLink c), Dev.macCount, Dev.ctr_macCountN_same used, width]
  exact congrArg (fun n => (n + 1) % 2 ^ 48) (Dev.keeps_refreshPaused.linkCounter (stormCtr_ofLink c))

/-- A table of pause times without those of a class that a storm pauses. -/
def Dev.stormDrop (d : Dev) (p c : Nat) (t : Map Nat) : Map Nat :=
  (List.range 9).foldl (fun t i => if d.guardOf p c i then Map.set 0 t i 0 else t) t

theorem Dev.stormDrop_guarded {p c i : Nat} {t : Map Nat} (hi : i < 9) (hg : d.guardOf p c i = true) :
    Map.get 0 (d.stormDrop p c t) i = 0 := Map.get_foldl_clear _ _ _ hg (.inl (List.mem_range.2 hi))

/-- The port with the pause times of a class in a storm dropped and its recovery started. -/
def Dev.stormDropped (d : Dev) (p c : Nat) : Dev :=
  let m := d.macSt p
  d.setMac p { m with
    pauseEnd := d.stormDrop p c m.pauseEnd, pausePend := d.stormDrop p c m.pausePend
    recoverEnd := Map.set 0 m.recoverEnd c (d.now + d.f1 .MAC_PAUSE_TIMERS_RECOVERY p * tMs) }

theorem exec_pauseStorm_due (p : Port) (c : Fin 9) {s : State} (hpaused : Map.get 0 (s.dev.macSt p).pausedSince c ≠ 0)
    (hdue : Map.get 0 (s.dev.macSt p).pausedSince c + s.dev.f1 .MAC_PAUSE_TIMERS_WATCHDOG p * tMs ≤ s.dev.now + 1) :
    exec (.pauseStorm p c) s = .next (s.on ((s.dev.stormDropped p c).stormShown p c)) := by
  rw [exec_pauseStorm, execPauseStorm, State.run_eq]
  dsimp only
  rw [if_neg (by omega)]
  rfl

theorem completes_pauseStorm (p : Port) (c : Fin 9) {s : State} (hp : s.dev.portUsed p = true)
    (hpaused : Map.get 0 (s.dev.macSt p).pausedSince c ≠ 0)
    (hdue : Map.get 0 (s.dev.macSt p).pausedSince c + s.dev.f1 .MAC_PAUSE_TIMERS_WATCHDOG p * tMs ≤ s.dev.now + 1) :
    Completes (.pauseStorm p c) s fun t =>
      (∀ i < 9, s.dev.guardOf p c i = true → Map.get 0 (t.macSt p).pauseEnd i = 0 ∧ Map.get 0 (t.macSt p).pausePend i = 0) ∧
      Map.get 0 (t.macSt p).recoverEnd c = s.dev.now + s.dev.f1 .MAC_PAUSE_TIMERS_RECOVERY p * tMs ∧
      (if c.val = 8 then t.f1 .MAC_STATUS_STORM p = 255 else bitOf (t.f1 .MAC_STATUS_STORM p) c = true) ∧
      t.ctr (stormCtr c) p = (s.dev.ctr (stormCtr c) p + 1) % 2 ^ 48 := by
  refine completes_of_eq (exec_pauseStorm_due p c hpaused hdue) ?_
  rw [MacSt.rested_pauseEnd Dev.rested_stormShown, MacSt.rested_pausePend Dev.rested_stormShown,
    MacSt.rested_recoverEnd Dev.rested_stormShown, Dev.stormDropped, Dev.macSt_setMac_same]
  exact ⟨fun i hi hg => ⟨Dev.stormDrop_guarded hi hg, Dev.stormDrop_guarded hi hg⟩, Map.get_set_same _ _ _ _,
    Dev.stormShown_storm c.isLt, Dev.stormShown_count hp⟩

theorem completes_pauseRecoveryEnd (p : Port) (c : Fin 9) {s : State} (hruns : Map.get 0 (s.dev.macSt p).recoverEnd c ≠ 0)
    (hdue : Map.get 0 (s.dev.macSt p).recoverEnd c ≤ s.dev.now) :
    Completes (.pauseRecoveryEnd p c) s fun t => Map.get 0 (t.macSt p).recoverEnd c = 0 := by
  refine completes_of_run _ (exec_pauseRecoveryEnd p c s) ?_
  dsimp only
  rw [if_neg (by omega)]
  have shown {m : MacSt} {v : Nat} : ((s.dev.setMac p m).set1 .MAC_STATUS_STORM p v).macSt p = m := Dev.macSt_setMac_same
  rw [shown]
  dsimp only
  exact Map.get_set_same _ _ _ _

/-! ### Pause requests (R119) -/

/-- When each class of a port last asked for a pause. -/
def Dev.asked (d : Dev) (p : Nat) : Map Nat := (d.macSt p).xoffAt

/-- A frame of a pause request leaves the times of the requests alone. -/
theorem Dev.asked_sendPause {p c quanta : Nat} : d.Keeps quietFields Dev.asked (d.sendPause p c quanta) := by
  have counted {e : Dev} {k : Ctr} {n : Nat} : e.Keeps quietFields Dev.asked (e.macCountN k p n) :=
    Dev.reports_macCountN.keeps (List.subset_append_left _ _) (funext fun _ => by rw [Dev.asked, Dev.asked, Dev.macCountN_macSt])
  have timed {e : Dev} {v : Nat} : e.Keeps quietFields Dev.asked (e.setMac p { e.macSt p with lastTx := v }) :=
    ⟨funext (Dev.macSt_setMac_congr MacSt.xoffAt rfl), fun _ _ _ _ => rfl⟩
  have noted {e : Dev} {x : PmcSt} : e.Keeps quietFields Dev.asked { e with pmc := x } := ⟨rfl, fun _ _ _ _ => rfl⟩
  have told {e : Dev} {o : Output} : e.Keeps quietFields Dev.asked (e.emit o) := ⟨rfl, fun _ _ _ _ => rfl⟩
  have sent : d.Keeps quietFields Dev.asked (d.noteSent p 64 1) := by
    unfold Dev.noteSent
    exact ((((counted.trans counted).trans counted).trans counted).trans noted).trans timed
  unfold Dev.sendPause
  exact .ite (.refl d) (.ite ((sent.trans told).trans (.foldl (fun _ _ => .ite counted (.refl _)) _ _))
    (.ite ((sent.trans told).trans counted) (.refl d)))

/-- A frame of a pause request is on the wire when it has been sent. -/
theorem Dev.sendPause_pfc {p c quanta : Nat} (hon : d.f1 .MAC_CTRL_TX_PAUSE_EN p ≠ 0) (hup : d.linkUp p = true)
    (hmode : d.f1 .MAC_CTRL_PAUSE_MODE p = 2) : Output.pfc p (d.pfcEnable p c) quanta ∈ (d.sendPause p c quanta).out := by
  have counted (l : List Nat) (en : Nat) (e : Dev) {o : Output} (h : o ∈ e.out) :
      o ∈ (l.foldl (fun e i => if bitOf en i then e.macCount (Ctr.MAC_TX_PFC.at i) p else e) e).out := by
    induction l generalizing e with
    | nil => exact h
    | cons x l ih =>
      rw [List.foldl_cons]
      refine ih _ ?_
      split
      · exact Dev.out_macCount h
      · exact h
  unfold Dev.sendPause
  rw [if_neg (by simp [hon, hup]), if_pos hmode]
  exact counted _ _ _ List.mem_cons_self

theorem Dev.sendPause_pause {p c quanta : Nat} (hon : d.f1 .MAC_CTRL_TX_PAUSE_EN p ≠ 0) (hup : d.linkUp p = true)
    (hmode : d.f1 .MAC_CTRL_PAUSE_MODE p = 1) : Output.pause p quanta ∈ (d.sendPause p c quanta).out := by
  unfold Dev.sendPause
  rw [if_neg (by simp [hon, hup]), if_neg (by omega), if_pos hmode]
  exact Dev.out_macCount List.mem_cons_self

/-- The port with the request of a class noted as asked for now. -/
def Dev.askAgain (d : Dev) (p c : Nat) : Dev :=
  d.setMac p { d.macSt p with xoffAt := Map.set 0 (d.macSt p).xoffAt c (d.now + 1) }

theorem Dev.asked_askAgain {p c : Nat} : (d.askAgain p c).asked p = Map.set 0 (d.macSt p).xoffAt c (d.now + 1) :=
  congrArg MacSt.xoffAt Dev.macSt_setMac_same

theorem completes_pfcRefresh (p : Port) (c : Tc) {s : State} (hxoff : bitOf (s.dev.f1 .QUE_PORT_STATUS_PFC_XOFF p) c = true)
    (hasked : Map.get 0 (s.dev.macSt p).xoffAt c ≠ 0) (hwinter : s.dev.winter = false) (hup : s.dev.linkUp p = true)
    (hon : s.dev.f1 .MAC_CTRL_TX_PAUSE_EN p ≠ 0)
    (hdue : Map.get 0 (s.dev.macSt p).xoffAt c + s.dev.quantaTicks p (s.dev.f1 .MAC_PFC_TX_REFRESH p) ≤ s.dev.now + 1) :
    Completes (.pfcRefresh p c) s fun t => Map.get 0 (t.macSt p).xoffAt c = s.dev.now + 1 ∧
      (s.dev.f1 .MAC_CTRL_PAUSE_MODE p = 2 →
        Output.pfc p (s.dev.pfcEnable p c) (s.dev.f1 .MAC_PFC_TX_QUANTA p) ∈ t.out) ∧
      (s.dev.f1 .MAC_CTRL_PAUSE_MODE p = 1 → Output.pause p (s.dev.f1 .MAC_PFC_TX_QUANTA p) ∈ t.out) := by
  refine completes_of_run _ (exec_pfcRefresh p c s) ?_
  dsimp only
  rw [if_neg (by simp only [hxoff, hwinter]; simp; omega)]
  rw [← Dev.askAgain, ← Dev.asked, congrFun Dev.asked_sendPause.view, Dev.asked_askAgain]
  exact ⟨Map.get_set_same _ _ _ _, Dev.sendPause_pfc (d := s.dev.askAgain p c) hon hup,
    Dev.sendPause_pause (d := s.dev.askAgain p c) hon hup⟩

/-! ### Low-power idle and its negotiation (R120, R121) -/

theorem completes_lpiEnter (p : Port) {s : State} (hp : s.dev.portUsed p = true) (hon : s.dev.eeeOn p = true)
    (hopen : s.dev.eeeBlocked p = false) (hempty : s.dev.portEmpty p = true) (hlpi : s.dev.b1 .MAC_STATUS_TX_LPI p = false)
    (hwinter : s.dev.winter = false) (hidle : (s.dev.macSt p).lastTx + s.dev.f1 .MAC_EEE_CTRL_IDLE p * tUs ≤ s.dev.now) :
    Completes (.lpiEnter p) s fun t => t.f1 .MAC_STATUS_TX_LPI p = 1 ∧
      t.ctr .MAC_TX_LPI p = (s.dev.ctr .MAC_TX_LPI p + 1) % 2 ^ 48 := by
  have used {m : MacSt} {v : Nat} : ((s.dev.setMac p m).set1 .MAC_STATUS_TX_LPI p v).portUsed p = true := by
    rw [Dev.portUsed, Dev.portMode, Dev.f1_set1_ne (by decide)]
    exact hp
  refine completes_of_run _ (exec_lpiEnter p s) ?_
  dsimp only
  rw [if_pos (by simp [hon, hopen, hempty, hlpi, hwinter, hidle]), Dev.quiet_macCount.f1 (by decide), Dev.f1_set1_same]
  refine ⟨rfl, ?_⟩
  rw [Dev.macCount, Dev.ctr_macCountN_same used]
  rfl

theorem completes_lpiWake (p : Port) {a : Nat} {s : State} (hlpi : s.dev.b1 .MAC_STATUS_TX_LPI p = true)
    (hwake : (s.dev.macSt p).wakeAt = some a) (hdue : a ≤ s.dev.now) :
    Completes (.lpiWake p) s fun t => t.f1 .MAC_STATUS_TX_LPI p = 0 ∧ (t.macSt p).wakeAt = none := by
  refine completes_of_run _ (exec_lpiWake p s) ?_
  dsimp only
  rw [if_pos (by simp [hlpi, hwake, hdue]), Dev.quiet_startNext.f1 (by decide), Dev.f1_set1_same]
  have woken {m : MacSt} {v : Nat} : ((s.dev.setMac p m).set1 .MAC_STATUS_TX_LPI p v).macSt p = m := Dev.macSt_setMac_same
  exact ⟨rfl, (congrArg MacSt.wakeAt (Dev.sending_startNext.settled p)).trans (congrArg MacSt.wakeAt woken)⟩

theorem Dev.held_startWake {p : Nat} : ((d.startWake p).macSt p).held = (d.macSt p).held := by
  unfold Dev.startWake
  dsimp only
  split
  · rw [Dev.macSt_setMac_same]
    rfl
  · rfl

/-- A message that may be sent is among the port's own frames, waiting or being sent. -/
theorem Dev.ownFrames_sendMsg {p proto type len : Nat} {fields : List Nat} (hup : d.linkUp p = true) (hwinter : d.winter = false) :
    ∃ x ∈ (d.sendMsg p proto type len fields).ownFrames p, x.proto = proto ∧ x.fields = fields := by
  have held : ⟨proto, type, len, fields, 0⟩ ∈ ((d.sendMsg p proto type len fields).macSt p).held := by
    unfold Dev.sendMsg
    rw [if_pos (by simp [hup, hwinter])]
    dsimp only
    rw [Dev.sending_startNext.held, Dev.held_startWake, Dev.macSt_setMac_same]
    simp [MacSt.held]
  obtain ⟨x, hx, eq⟩ := List.mem_map.1 held
  exact ⟨x, hx, congrArg OwnFrame.proto eq, congrArg OwnFrame.fields eq⟩

theorem exec_lldpReceive_none (p : Port) {s : State} (hup : s.dev.linkUp p = true) (hwinter : s.dev.winter = false) :
    exec (.lldpReceive p none) s = .next (s.on
      ((s.dev.set1 .MAC_EEE_STATUS_NEGOTIATED p 0).set1 .MAC_EEE_STATUS_TW_SYS_TX p 0)) := by
  rw [exec_lldpReceive, execLldpReceive, State.run_eq]
  dsimp only
  rw [if_neg (by simp [hup, hwinter])]
  rfl

theorem exec_lldpReceive_incapable (p : Port) (w : Fin 65536) {s : State} (hcap : s.dev.b1 .MAC_EEE_STATUS_CAPABLE p = false) :
    exec (.lldpReceive p (some w)) s = .next s := by
  rw [exec_lldpReceive, execLldpReceive, State.run_eq]
  simp [hcap]

theorem completes_lldpReceive_some (p : Port) (w : Fin 65536) {s : State} (hup : s.dev.linkUp p = true)
    (hwinter : s.dev.winter = false) (hcap : s.dev.b1 .MAC_EEE_STATUS_CAPABLE p = true) :
    Completes (.lldpReceive p (some w)) s fun t => t.f1 .MAC_EEE_STATUS_NEGOTIATED p = 1 ∧
      t.f1 .MAC_EEE_STATUS_TW_SYS_TX p = w.val ∧ ∃ x ∈ t.ownFrames p, x.proto = 4 ∧ x.fields = [w.val] := by
  refine completes_of_run _ (exec_lldpReceive p (some w) s) ?_
  dsimp only
  rw [if_neg (by simp [hup, hwinter]), if_pos hcap, Dev.quiet_sendMsg.f1 (by decide), Dev.quiet_sendMsg.f1 (by decide),
    Dev.f1_set1_ne (by decide), Dev.f1_set1_same, Dev.f1_set1_same]
  refine ⟨rfl, Nat.mod_eq_of_lt w.isLt, Dev.ownFrames_sendMsg ?_ ?_⟩
  · rw [Dev.linkUp, Dev.b1_set1_ne (by decide), Dev.b1_set1_ne (by decide)]
    exact hup
  · rw [Dev.winter_set1 (by decide), Dev.winter_set1 (by decide), hwinter]

/-! ### HALF (R122) -/

theorem completes_macStatHalfClear (m : Master) (p : Port) (i : Fin 96) {s : State}
    (hopen : s.dev.Open m (Reg.MAC_STAT_HI.addr p i)) (hi : macCtrDefined i = true) :
    Completes (.macStatHalfClear m p i) s fun t =>
      t.ctr ⟨.MAC_STAT, i⟩ p = s.dev.ctr ⟨.MAC_STAT, i⟩ p % 2 ^ 47 ∧ t.flds = s.dev.flds := by
  refine completes_of_run _ (exec_macStatHalfClear m p i s) ?_
  rw [if_pos hi, Dev.onWrite_open _ _ _ _ _ _ hopen]
  have cut : (s.dev.clearHalf p i).ctr ⟨.MAC_STAT, i⟩ p = s.dev.ctr ⟨.MAC_STAT, i⟩ p % 2 ^ 47 % 2 ^ 48 :=
    Dev.ctr_setCtr_same _ _ _ _
  exact ⟨cut.trans (Nat.mod_eq_of_lt (by omega)), rfl⟩

end

/-- Settles O33: a transmitter that starts frames leaves the pauses, the wake and the firmware's frames that a port holds as they
are (`Dev.sending_startNext`). -/
theorem pauseAndLowPower : Obligations.PauseAndLowPower := by
  unfold Obligations.PauseAndLowPower
  refine ⟨?start, ?expire, ?storm, ?recovery, ?refresh, ?enter, ?wake, ?withdrawn, ?answered, ?incapable, ?half⟩
  case start => exact fun p _ _ _ _ _ hpend hlast hidle hown => completes_pauseStart p hpend hlast hidle hown
  case expire => exact fun p i _ hruns hdue => completes_pauseExpire p i hruns hdue
  case storm => exact fun p c _ hp hpaused hdue => completes_pauseStorm p c hp hpaused hdue
  case recovery => exact fun p c _ hruns hdue => completes_pauseRecoveryEnd p c hruns hdue
  case refresh =>
    exact fun p c _ hxoff hasked hwinter hup hon hdue => completes_pfcRefresh p c hxoff hasked hwinter hup hon hdue
  case enter =>
    exact fun p _ hp hon hopen hempty hlpi hwinter hidle => completes_lpiEnter p hp hon hopen hempty hlpi hwinter hidle
  case wake => exact fun p _ _ hlpi hwake hdue => completes_lpiWake p hlpi hwake hdue
  case withdrawn => exact fun p _ hup hwinter => exec_lldpReceive_none p hup hwinter
  case answered => exact fun p w _ hup hwinter hcap => completes_lldpReceive_some p w hup hwinter hcap
  case incapable => exact fun p w _ hcap => exec_lldpReceive_incapable p w hcap
  case half => exact fun m p i _ hopen hi => completes_macStatHalfClear m p i hopen hi

end Sys2Proof.Machine
end

