-- ==== Sys2Proof/Proofs/LinkLoss.lean ====
section
/-! A link that goes down and a cause of AUTUMN (R103, R104, R138, R397): what they write, and that they leave the turns and the
transmitters in loss of signal alone. -/

namespace Sys2Proof.Machine

/-- What leaves service with a link: its adjacency, its negotiation and the turn of its lanes. -/
def leaveFields : List Nat :=
  quietFields ++ [Field.MAC_STATUS_AN_DONE.id, Field.MAC_STATUS_FLAP_ISOLATED.id, Field.FAB_ADJ_STATE.id,
    Field.FAB_ADJ_VERSION.id, Field.FAB_ADJ_NEIGH_DEV.id, Field.FAB_ADJ_NEIGH_PORT.id, Field.FAB_STATUS_FULL_ADJ.id,
    Field.LANE_STATUS_TAPPED.id, Field.SHADOW_STATUS_PHASE.id, Field.SHADOW_STATUS_RETRY.id, Field.LANE_ABANDONED.id]

abbrev Dev.Leaving (d e : Dev) : Prop := d.Keeps leaveFields Dev.trafficView e

section
variable {d e : Dev}

theorem Dev.Keeps.leaving (h : d.Traffic e) : d.Leaving e := h.mono (List.subset_append_left _ _) id

theorem Dev.leaving_setFld {f : Field} {i j v : Nat} (hf : f.id ∈ leaveFields) : d.Leaving (d.setFld f i j v) :=
  Dev.keeps_setFld hf rfl

theorem Dev.leaving_record {c : EvCode} {k i : Nat} {p : Bytes} : d.Leaving (d.record c k i p) := Dev.sending_record.traffic.leaving

theorem Dev.leaving_recordLimited {c : EvCode} {t n k i : Nat} {p : Bytes} : d.Leaving (d.recordLimited c t n k i p) :=
  Dev.sending_recordLimited.traffic.leaving

theorem Dev.leaving_raise {s : Nat} : d.Leaving (d.raise s) := Dev.sending_raise.traffic.leaving

theorem Dev.leaving_fab {x : FabSt} : d.Leaving { d with fab := x } := Dev.sending_fab.traffic.leaving

theorem Dev.leaving_pair {x : PairSt} : d.Leaving { d with pair := x } := ⟨rfl, fun _ _ _ _ => rfl⟩

/-! ### The adjacency and the turn of a port (R138, R352) -/

theorem Dev.leaving_adjGo {p st cause : Nat} : d.Leaving (d.adjGo p st cause) := by
  have moved : d.Leaving (d.set1 .FAB_ADJ_STATE p st) := Dev.leaving_setFld (by decide)
  have noted {e : Dev} : e.Leaving (e.set1 .FAB_ADJ_VERSION p 0) := Dev.leaving_setFld (by decide)
  have full {e : Dev} {n : Nat} : e.Leaving (e.set0 .FAB_STATUS_FULL_ADJ n) := Dev.leaving_setFld (by decide)
  have told {c : EvCode} {l : Bytes} {x : FabSt} :
      d.Leaving { (d.set1 .FAB_ADJ_STATE p st).record c 1 p l with fab := x } :=
    (moved.trans Dev.leaving_record).trans Dev.leaving_fab
  unfold Dev.adjGo
  refine Dev.Keeps.trans (Dev.Keeps.trans ?_ full) Dev.leaving_raise
  split
  · exact .ite told (.ite told moved)
  · exact Dev.Keeps.trans (.ite told (.ite told moved)) noted

theorem Dev.leaving_adjDown {p cause : Nat} : d.Leaving (d.adjDown p cause) := by
  have port {e : Dev} : e.Leaving ((e.set1 .FAB_ADJ_NEIGH_DEV p 0).set1 .FAB_ADJ_NEIGH_PORT p 0) :=
    Dev.Keeps.trans (Dev.leaving_setFld (by decide)) (Dev.leaving_setFld (by decide))
  exact .ite (.refl d) ((Dev.leaving_adjGo.trans Dev.leaving_fab).trans port)

theorem Dev.leaving_detach {c : Nat} : d.Leaving (d.detach c) := by
  have tap : d.Leaving (d.set1 .LANE_STATUS_TAPPED (d.turnLane c) 0) := Dev.leaving_setFld (by decide)
  unfold Dev.detach
  exact (tap.trans (Dev.leaving_setFld (by decide))).trans (Dev.leaving_setFld (by decide))

theorem Dev.leaving_abandonTurn {c reason : Nat} : d.Leaving (d.abandonTurn c reason) := by
  unfold Dev.abandonTurn
  exact .ite ((Dev.leaving_detach.trans (Dev.leaving_setFld (by decide))).trans Dev.leaving_recordLimited) (.refl d)

theorem Dev.leaving_abandonPortTurn {p reason : Nat} : d.Leaving (d.abandonPortTurn p reason) :=
  .ite Dev.leaving_abandonTurn (.refl d)

/-! ### A link that goes down (R103 to R105) -/

/-- A drive that a rule turns to another stays loss of signal where it is. -/
theorem drive_lossOfSignal_iff {x y : TxDrive} (hy : y ≠ .lossOfSignal) :
    (if x = .lossOfSignal then x else y) = .lossOfSignal ↔ x = .lossOfSignal := by
  split
  · exact Iff.rfl
  · exact ⟨fun h => absurd h hy, fun h => absurd h ‹_›⟩

theorem Dev.traffic_setMac_of_iff {p : Nat} {m : MacSt} (h : m.drive = .lossOfSignal ↔ (d.macSt p).drive = .lossOfSignal) :
    d.Traffic (d.setMac p m) where
  view := congrArg (fun x => (d.turns, x, d.linkCtr))
    (funext (Dev.macSt_setMac_congr (fun m => decide (m.drive = .lossOfSignal)) (decide_eq_decide.2 h)))
  fld _ _ _ _ := rfl

theorem Dev.leaving_dropAn {p : Nat} : d.Leaving (d.dropAn p) := Dev.leaving_setFld (by decide)

theorem Dev.leaving_flapCheck {p : Nat} : d.Leaving (d.flapCheck p) := by
  have held {e : Dev} : e.Leaving (e.set1 .MAC_STATUS_FLAP_ISOLATED p 1) := Dev.leaving_setFld (by decide)
  unfold Dev.flapCheck
  refine .ite (((Dev.Keeps.trans (Dev.traffic_setMac_of_iff ?_).leaving Dev.leaving_dropAn).trans held).trans
    Dev.leaving_recordLimited) (.refl d)
  exact drive_lossOfSignal_iff (by decide)

/-- The port with its link shown as down and counted, no class paused and its transmitter out of low-power idle. -/
def Dev.linkDark (d : Dev) (p : Nat) : Dev :=
  ((((d.set1 .MAC_STATUS_LINK_UP p 0).macCount .MAC_LINK_DOWN p).set1 .MAC_STATUS_PAUSED p 0).set1 .MAC_STATUS_TX_LPI p 0)

theorem Dev.leaving_linkDown {p hold : Nat} {cause : DownCause} (hup : d.linkUp p = true) :
    (d.linkDark p).Leaving (d.linkDown p cause hold) := by
  have reset {g : Dev} {m : MacSt} (h : m.drive = (g.macSt p).drive) : g.Leaving (g.setMac p m) := (Dev.traffic_setMac h).leaving
  unfold Dev.linkDown
  rw [if_pos hup]
  refine .trans (reset ?_) ((((((Dev.Keeps.trans (.ite (.refl _) Dev.traffic_portDown.leaving) Dev.leaving_adjDown).trans
    Dev.leaving_fab).trans Dev.leaving_pair).trans Dev.leaving_abandonPortTurn).trans Dev.leaving_record).trans
    (Dev.leaving_raise.trans Dev.leaving_flapCheck))
  rfl

/-- The fields of a link that goes down. -/
def downFields : List Nat :=
  [Field.MAC_STATUS_LINK_UP.id, Field.MAC_STATUS_PAUSED.id, Field.MAC_STATUS_TX_LPI.id] ++ leaveFields

/-- The turns, and which transmitters show loss of signal. -/
def Dev.laneView (d : Dev) : Map TurnSt × (Nat → Bool) := (d.turns, fun p => decide ((d.macSt p).drive = .lossOfSignal))

theorem Dev.Keeps.lossOfSignal_iff {ids : List Nat} (h : d.Keeps ids Dev.laneView e) {p : Nat} :
    (e.macSt p).drive = .lossOfSignal ↔ (d.macSt p).drive = .lossOfSignal :=
  decide_eq_decide.1 (congrFun (congrArg Prod.snd h.view) p)

theorem Dev.Keeps.lanes {ids : List Nat} (h : d.Keeps ids Dev.trafficView e) : d.Keeps ids Dev.laneView e :=
  h.mono (List.Subset.refl _) (fun v => (v.1, v.2.1))

theorem Dev.keeps_linkDown {p hold : Nat} {cause : DownCause} : d.Keeps downFields Dev.laneView (d.linkDown p cause hold) := by
  have shown {g : Dev} {f : Field} {v : Nat} (hf : f.id ∈ downFields) : g.Keeps downFields Dev.laneView (g.set1 f p v) :=
    Dev.keeps_setFld hf rfl
  have counted {g : Dev} : g.Keeps downFields Dev.laneView (g.macCount .MAC_LINK_DOWN p) :=
    Dev.reports_macCount.keeps (by decide)
      (by simp only [Dev.laneView, Dev.macCount_macSt, (Dev.reports_macCount (d := g) (c := .MAC_LINK_DOWN) (p := p)).turns])
  by_cases hup : d.linkUp p = true
  · have dark : d.Keeps downFields Dev.laneView (d.linkDark p) :=
      (((shown (by decide)).trans counted).trans (shown (by decide))).trans (shown (by decide))
    exact dark.trans ((Dev.leaving_linkDown hup).lanes.mono (List.subset_append_right _ _) id)
  · unfold Dev.linkDown
    rw [if_neg hup]
    exact .refl d

theorem Dev.linkUp_linkDark {p : Nat} : (d.linkDark p).linkUp p = false := by
  have shown : (d.linkDark p).b1 .MAC_STATUS_LINK_UP p = (d.set1 .MAC_STATUS_LINK_UP p 0).b1 .MAC_STATUS_LINK_UP p := by
    rw [Dev.linkDark, Dev.b1_set1_ne (by decide), Dev.b1_set1_ne (by decide), Dev.quiet_macCount.b1 (by decide)]
  rw [Dev.linkUp, shown, Dev.b1_set1_same]
  rfl

theorem Dev.linkDark_paused {p : Nat} : (d.linkDark p).f1 .MAC_STATUS_PAUSED p = 0 := by
  rw [Dev.linkDark, Dev.f1_set1_ne (by decide), Dev.f1_set1_same]
  rfl

theorem Dev.linkDark_lpi {p : Nat} : (d.linkDark p).f1 .MAC_STATUS_TX_LPI p = 0 := Dev.f1_set1_same _ _ _ _

theorem Dev.linkUp_linkDown {p hold : Nat} {cause : DownCause} : (d.linkDown p cause hold).linkUp p = false := by
  by_cases hup : d.linkUp p = true
  · exact ((Dev.leaving_linkDown hup).b1 (by decide)).trans Dev.linkUp_linkDark
  · unfold Dev.linkDown
    rw [if_neg hup]
    simpa using hup

/-- A link that goes down counts once at a port in use. -/
theorem Dev.linkDown_count {p hold : Nat} {cause : DownCause} (hup : d.linkUp p = true) (hp : d.portUsed p = true) :
    (d.linkDown p cause hold).ctr .MAC_LINK_DOWN p = (d.ctr .MAC_LINK_DOWN p + 1) % 2 ^ 48 := by
  have used : (d.set1 .MAC_STATUS_LINK_UP p 0).portUsed p = true := by
    rw [Dev.portUsed, Dev.portMode, Dev.f1_set1_ne (by decide)]
    exact hp
  rw [(Dev.leaving_linkDown hup).linkCounter (by decide)]
  exact Dev.ctr_macCountN_same used

/-! ### AUTUMN (R397) -/

/-- AUTUMN writes HLT_STATE and its cause; the rest of it is messages. -/
abbrev Dev.Ailing (d e : Dev) : Prop := d.Keeps (healthFields ++ quietFields) Dev.trafficView e

theorem Dev.Keeps.ailing (h : d.Traffic e) : d.Ailing e := h.mono (List.subset_append_right _ _) id

theorem Dev.ailing_setHealth {st code : Nat} : d.Ailing (d.setHealth st code) := by
  have shown {g : Dev} {f : Field} {v : Nat} (hf : f.id ∈ healthFields ++ quietFields) : g.Ailing (g.set0 f v) :=
    Dev.keeps_setFld hf rfl
  exact (((shown (by decide)).trans (shown (by decide))).trans (shown (by decide))).trans
    ((Dev.sending_doorbell.trans Dev.sending_notice).trans Dev.sending_raise).traffic.ailing

theorem Dev.ailing_enterAutumn {code : Nat} : d.Ailing (d.enterAutumn code) := by
  have told {x : Pins} {y : FabSt} : d.Ailing { d with pins := x, fab := y } := ⟨rfl, fun _ _ _ _ => rfl⟩
  exact ((told.trans Dev.ailing_setHealth).trans Dev.sending_record.traffic.ailing).trans Dev.traffic_floodNotice.ailing

theorem Dev.keeps_autumn {f : Field} {code : EvCode} :
    d.Keeps (f.id :: (healthFields ++ quietFields)) Dev.trafficView (d.autumn f code) := by
  have pins {g : Dev} {x : Pins} : g.Keeps (f.id :: (healthFields ++ quietFields)) Dev.trafficView { g with pins := x } :=
    ⟨rfl, fun _ _ _ _ => rfl⟩
  have entered {g : Dev} {n : Nat} : g.Keeps (f.id :: (healthFields ++ quietFields)) Dev.trafficView (g.enterAutumn n) :=
    Dev.ailing_enterAutumn.mono (List.subset_cons_self _ _) id
  have caused : d.Keeps (f.id :: (healthFields ++ quietFields)) Dev.trafficView
      { (d.set0 f 1) with hlt := { d.hlt with lastCode := code.code } } :=
    ⟨rfl, (Dev.keeps_setFld (view := Dev.trafficView) List.mem_cons_self rfl).fld⟩
  exact .ite (caused.trans entered) (.ite (caused.trans pins) caused)

end

end Sys2Proof.Machine
end

