-- ==== Sys2Proof/Proofs/Links.lean ====
section
/-! Links (R101 to R106): what brings one up, takes it down, holds it off and isolates its port, and what a negotiation leaves. -/

namespace Sys2Proof.Machine

section
variable {d : Dev}

/-! ### A link that comes up (R101) -/

/-- The fields of the lanes that training, calibration and adaptation write. -/
def laneFields : List Nat :=
  reportFields ++ [Field.CAL_STATUS_CLAMPED.id, Field.CAL_STATUS_LAST_OFFSET.id, Field.LANE_TX_EFF_PRE3.id,
    Field.LANE_TX_EFF_PRE2.id, Field.LANE_TX_EFF_PRE1.id, Field.LANE_TX_EFF_MAIN.id, Field.LANE_TX_EFF_POST1.id,
    Field.LANE_CAL_TEMP.id, Field.LANE_STATUS_SIGNAL.id, Field.LANE_STATUS_CDR_LOCK.id, Field.LANE_RX_EQ_CTLE.id,
    Field.LANE_RX_EQ_DFE1.id, Field.LANE_RX_EQ_DFE2.id]

/-- Only lanes have been started from one device to the other. -/
abbrev Dev.LanesOnly (d e : Dev) : Prop := d.Keeps laneFields (fun _ => ()) e

theorem Dev.lanesOnly_set1 {f : Field} {i v : Nat} (hf : f.id ∈ laneFields) : d.LanesOnly (d.set1 f i v) := Dev.keeps_setFld hf rfl

theorem Dev.lanesOnly_trainTx {l : Nat} {nrz : Bool} {move : Taps} : d.LanesOnly (d.trainTx l nrz move) := by
  have taps {e : Dev} {t : Taps} : e.LanesOnly (e.setTaps l t) := by
    unfold Dev.setTaps
    exact ((((Dev.lanesOnly_set1 (by decide)).trans (Dev.lanesOnly_set1 (by decide))).trans (Dev.lanesOnly_set1 (by decide))).trans
      (Dev.lanesOnly_set1 (by decide))).trans (Dev.lanesOnly_set1 (by decide))
  have clamped {off : Nat} : d.LanesOnly (d.noteClamp off) := by
    unfold Dev.noteClamp
    exact (Dev.Keeps.trans (Dev.lanesOnly_set1 (i := 0) (by decide)) (Dev.lanesOnly_set1 (i := 0) (by decide))).trans
      ((Dev.reports_recordCounted _ _ _ _ _ _ _).keeps (List.subset_append_left _ _) rfl)
  exact Dev.Keeps.trans (.ite (.refl d) clamped) taps

theorem Dev.lanesOnly_calibrated {l : Nat} : d.LanesOnly (d.calibrated l) := by
  have timed {t : TurnSt} : d.LanesOnly (d.setTurn (l / 4) t) := ⟨rfl, fun _ _ _ _ => rfl⟩
  exact timed.trans (Dev.lanesOnly_set1 (by decide))

theorem Dev.lanesOnly_draw : d.LanesOnly d.draw.2 := ⟨rfl, fun _ _ _ _ => rfl⟩

theorem Dev.lanesOnly_adaptRx {l : Nat} : d.LanesOnly (d.adaptRx l) := by
  unfold Dev.adaptRx
  exact ((Dev.lanesOnly_draw.trans (Dev.lanesOnly_set1 (by decide))).trans (Dev.lanesOnly_set1 (by decide))).trans
    (Dev.lanesOnly_set1 (by decide))

theorem Dev.lanesOnly_adaptLatency {l : Nat} : d.LanesOnly (d.adaptLatency l) := ⟨rfl, fun _ _ _ _ => rfl⟩

/-- The port's link shown as up, and its lanes started. -/
def Dev.lanesStarted (d : Dev) (p : Nat) : Dev :=
  let d1 := ((((d.set1 .MAC_STATUS_LINK_UP p 1).set1 .MAC_STATUS_PCS_LOCK p 1).set1 .MAC_STATUS_LOCAL_FAULT p 0).set1
    .MAC_STATUS_REMOTE_FAULT p 0).set1 .MAC_STATUS_AN_DONE p 1
  let d2 := if d1.portNeg p then d1 else d1.set1 .MAC_PORT_INFO_FEC_ACTIVE p (d1.fecDefault p)
  (d2.portLanes p).foldl (fun d l =>
    let d := if d.portTrains p then d else d.trainTx l (decide (5 ≤ d.portMode p)) ⟨0, 0, 0, 0, 0⟩
    ((((d.set1 .LANE_STATUS_SIGNAL l 1).set1 .LANE_STATUS_CDR_LOCK l 1).calibrated l).adaptRx l).adaptLatency l) d2

/-- The port with its flap timer at rest, counted where it ran. -/
def Dev.flapRested (d : Dev) (p : Nat) : Dev :=
  let f := d.flapSt p
  let d4 := { d with buf := { d.buf with flap := Map.set ⟨none, false⟩ d.buf.flap p ⟨none, false⟩ } }
  if f.endAt.isSome then d4.count .QUE_FLAP_RESUMED p else d4

/-- The port with its transmitter running. -/
def Dev.txRunning (d : Dev) (p : Nat) : Dev :=
  let r := d.draw
  let m := r.2.macSt p
  r.2.setMac p { m with drive := .running, lastTx := d.now, deskew := r.1 }

/-- The link of a port reported as up. -/
def Dev.linkReported (d : Dev) (p mode fec : Nat) : Dev :=
  (d.record .LINK_UP 1 p (payloadOf [(1, p), (1, mode), (1, fec)])).raise p

/-- The port with its link up. -/
def Dev.linkStarted (d : Dev) (p : Nat) : Dev :=
  let d5 := (d.lanesStarted p).flapRested p
  (d5.txRunning p).linkReported p (d5.portMode p) (d5.f1 .MAC_PORT_INFO_FEC_ACTIVE p)

theorem Dev.reports_linkReported {p mode fec : Nat} : d.Reports (d.linkReported p mode fec) :=
  (Dev.reports_record _ _ _ _ _).trans (Dev.reports_raise _ _)

theorem Dev.flapSt_flapRested {p : Nat} : (d.flapRested p).flapSt p = ⟨none, false⟩ := by
  have rested : ({ d with buf := { d.buf with flap := Map.set ⟨none, false⟩ d.buf.flap p ⟨none, false⟩ } } : Dev).flapSt p =
      ⟨none, false⟩ := Map.get_set_same (⟨none, false⟩ : FlapSt) d.buf.flap p ⟨none, false⟩
  unfold Dev.flapRested
  dsimp only
  split
  · exact rested
  · exact rested

/-- The lanes of a port, its flap timer and its transmitter write fields of lanes and reports. -/
theorem Dev.lanesOnly_flapRested {p : Nat} : d.LanesOnly (d.flapRested p) := by
  have rested {b : BufSt} : d.LanesOnly { d with buf := b } := ⟨rfl, fun _ _ _ _ => rfl⟩
  have counted {e : Dev} : e.LanesOnly (e.count .QUE_FLAP_RESUMED p) := ⟨rfl, fun _ _ _ _ => rfl⟩
  exact .ite (rested.trans counted) rested

theorem Dev.lanesOnly_linkStarted {p : Nat} : (d.lanesStarted p).LanesOnly (d.linkStarted p) := by
  have running {e : Dev} : e.LanesOnly (e.txRunning p) := ⟨rfl, fun _ _ _ _ => rfl⟩
  exact (Dev.lanesOnly_flapRested.trans running).trans (Dev.reports_linkReported.keeps (List.subset_append_left _ _) rfl)

theorem Dev.linkStarted_flapSt {p : Nat} : (d.linkStarted p).flapSt p = ⟨none, false⟩ := by
  have running {e : Dev} : (e.txRunning p).buf = e.buf := rfl
  rw [Dev.flapSt, Dev.linkStarted, Dev.reports_linkReported.buf, running]
  exact Dev.flapSt_flapRested

theorem Dev.linkStarted_drive {p : Nat} : ((d.linkStarted p).macSt p).drive = .running := by
  rw [Dev.macSt, Dev.linkStarted, Dev.reports_linkReported.mac]
  exact congrArg MacSt.drive Dev.macSt_setMac_same

/-- The lanes of a port's link that comes up, each trained where the port does not train them itself. -/
theorem Dev.lanesOnly_startLanes {p : Nat} {l : List Nat} : d.LanesOnly (l.foldl (fun d l =>
    let d := if d.portTrains p then d else d.trainTx l (decide (5 ≤ d.portMode p)) ⟨0, 0, 0, 0, 0⟩
    ((((d.set1 .LANE_STATUS_SIGNAL l 1).set1 .LANE_STATUS_CDR_LOCK l 1).calibrated l).adaptRx l).adaptLatency l) d) := by
  have shown {e : Dev} {l : Nat} : e.LanesOnly ((e.set1 .LANE_STATUS_SIGNAL l 1).set1 .LANE_STATUS_CDR_LOCK l 1) :=
    (Dev.lanesOnly_set1 (by decide)).trans (Dev.lanesOnly_set1 (by decide))
  exact .foldl (fun _ _ => (((Dev.Keeps.trans (.ite (.refl _) Dev.lanesOnly_trainTx) shown).trans Dev.lanesOnly_calibrated).trans
    Dev.lanesOnly_adaptRx).trans Dev.lanesOnly_adaptLatency) _ _

/-- What a port shows when its link is up. -/
theorem Dev.lanesStarted_shown {p : Nat} :
    (d.lanesStarted p).f1 .MAC_STATUS_LINK_UP p = 1 ∧ (d.lanesStarted p).f1 .MAC_STATUS_PCS_LOCK p = 1 ∧
      (d.lanesStarted p).f1 .MAC_STATUS_LOCAL_FAULT p = 0 ∧ (d.lanesStarted p).f1 .MAC_STATUS_REMOTE_FAULT p = 0 := by
  have fec {e : Dev} {g : Field} {c : Prop} [Decidable c] (hg : g.id ≠ Field.MAC_PORT_INFO_FEC_ACTIVE.id) :
      (if c then e else e.set1 .MAC_PORT_INFO_FEC_ACTIVE p (e.fecDefault p)).f1 g p = e.f1 g p := by
    split
    · rfl
    · exact Dev.f1_set1_ne hg
  unfold Dev.lanesStarted
  refine ⟨?_, ?_, ?_, ?_⟩
  all_goals
    rw [Dev.lanesOnly_startLanes.f1 (by decide), fec (by decide)]
    simp (disch := decide) only [Dev.f1_set1_ne, Dev.f1_set1_same]
    rfl

theorem exec_linkUp_may (p : Port) {s : State} (hdown : s.dev.linkUp p = false) (hmay : s.dev.mayLink p = true) :
    exec (.linkUp p) s = .next (s.on (s.dev.linkStarted p)) := by
  rw [exec_linkUp, execLinkUp, State.run_eq]
  dsimp only
  rw [if_neg (by simp [hdown, hmay])]
  rfl

theorem completes_linkUp (p : Port) {s : State} (hdown : s.dev.linkUp p = false) (hmay : s.dev.mayLink p = true) :
    Completes (.linkUp p) s fun t => t.linkUp p = true ∧ t.f1 .MAC_STATUS_PCS_LOCK p = 1 ∧
      t.f1 .MAC_STATUS_LOCAL_FAULT p = 0 ∧ t.f1 .MAC_STATUS_REMOTE_FAULT p = 0 ∧ (t.flapSt p) = ⟨none, false⟩ ∧
      (t.macSt p).drive = .running := by
  obtain ⟨up, lock, near, far⟩ := Dev.lanesStarted_shown (d := s.dev) (p := p)
  refine completes_of_eq (exec_linkUp_may p hdown hmay) ⟨?_, ?_, ?_, ?_, Dev.linkStarted_flapSt, Dev.linkStarted_drive⟩
  · exact Dev.b1_of_one ((Dev.lanesOnly_linkStarted.f1 (by decide)).trans up)
  · exact (Dev.lanesOnly_linkStarted.f1 (by decide)).trans lock
  · exact (Dev.lanesOnly_linkStarted.f1 (by decide)).trans near
  · exact (Dev.lanesOnly_linkStarted.f1 (by decide)).trans far

/-! ### A link that goes down (R103) -/

/-- The fields of a link condition that ceases. -/
def conditionFields : List Nat :=
  quietFields ++ [Field.LANE_STATUS_SIGNAL.id, Field.LANE_STATUS_CDR_LOCK.id, Field.MAC_STATUS_PCS_LOCK.id,
    Field.MAC_STATUS_AN_DONE.id, Field.MAC_STATUS_LOCAL_FAULT.id, Field.MAC_STATUS_REMOTE_FAULT.id]

abbrev Dev.Ceasing (d e : Dev) : Prop := d.Keeps conditionFields Dev.trafficView e

theorem Dev.Keeps.ceasing {e : Dev} (h : d.Traffic e) : d.Ceasing e := h.mono (List.subset_append_left _ _) id

theorem Dev.ceasing_set1 {f : Field} {i v : Nat} (hf : f.id ∈ conditionFields) : d.Ceasing (d.set1 f i v) := Dev.keeps_setFld hf rfl

theorem Dev.ceasing_loseCondition {p : Nat} {cause : DownCause} : d.Ceasing (d.loseCondition p cause) := by
  have unlocked : d.Ceasing ((d.set1 .MAC_STATUS_PCS_LOCK p 0).dropAn p) :=
    (Dev.ceasing_set1 (by decide)).trans (Dev.ceasing_set1 (by decide))
  cases cause with
  | signal =>
    exact unlocked.trans (.foldl (fun _ _ => (Dev.ceasing_set1 (by decide)).trans (Dev.ceasing_set1 (by decide))) _ _)
  | pcsLock => exact unlocked
  | localFault =>
    refine (Dev.traffic_setMac_of_iff ?_).ceasing.trans (Dev.ceasing_set1 (by decide))
    dsimp only
    split
    · simp [*]
    · exact Iff.rfl
  | remoteFault => exact Dev.ceasing_set1 (by decide)
  | portEn | holdoff | isolation => exact .refl d

/-- The port with the frame that a lost link cuts short counted, where one was arriving. -/
def Dev.rxCut (d : Dev) (p : Nat) : Option Nat → Dev
  | none => d
  | some n => (((d.macCountN .MAC_RX_OCTETS_ALL p n).macCount .MAC_RX_PCS_ERR p).frameViolation p 1).noteIncomplete p d.windowNow

theorem Dev.traffic_frameViolation {p row : Nat} : d.Traffic (d.frameViolation p row) := by
  have noted {l : Map Nat} : d.Traffic (d.setMac p { d.macSt p with viol := l }) := Dev.traffic_setMac rfl
  exact noted.trans Dev.sending_recordLimited.traffic

theorem Dev.traffic_noteIncomplete {p w : Nat} : d.Traffic (d.noteIncomplete p w) :=
  .ite ⟨rfl, fun _ _ _ _ => rfl⟩ (.refl d)

theorem Dev.traffic_rxCut {p : Nat} {rx : Option Nat} : d.Traffic (d.rxCut p rx) := by
  cases rx with
  | none => exact .refl d
  | some n =>
    exact (((Dev.sending_macCountN (by decide)).trans (Dev.sending_macCount (by decide))).traffic.trans
      Dev.traffic_frameViolation).trans Dev.traffic_noteIncomplete

/-- The cause of a link that goes down, as a port reports it. -/
def downCauseOf (cause : Fin 4) : DownCause :=
  match cause with
  | 0 => .signal | 1 => .pcsLock | 2 => .localFault | 3 => .remoteFault

theorem exec_linkDown_up (p : Port) (cause : Fin 4) (rx : Option Nat) {s : State} (hup : s.dev.linkUp p = true) :
    exec (.linkDown p cause rx) s = .next (s.on (((s.dev.rxCut p rx).loseCondition p (downCauseOf cause)).linkDown p
      (downCauseOf cause) (s.dev.rxCut p rx).flapHold)) := by
  rw [exec_linkDown]
  unfold execLinkDown
  rw [State.run_eq]
  dsimp only
  rw [if_neg (by simp [hup])]
  cases rx <;> rfl

theorem completes_linkDown (p : Port) (cause : Fin 4) (rx : Option Nat) {s : State} (hup : s.dev.linkUp p = true)
    (hp : s.dev.portUsed p = true) :
    Completes (.linkDown p cause rx) s fun t => t.linkUp p = false ∧ t.f1 .MAC_STATUS_PAUSED p = 0 ∧
      t.f1 .MAC_STATUS_TX_LPI p = 0 ∧ t.ctr .MAC_LINK_DOWN p = (s.dev.ctr .MAC_LINK_DOWN p + 1) % 2 ^ 48 := by
  have lost : s.dev.Ceasing ((s.dev.rxCut p rx).loseCondition p (downCauseOf cause)) :=
    Dev.traffic_rxCut.ceasing.trans Dev.ceasing_loseCondition
  have up : ((s.dev.rxCut p rx).loseCondition p (downCauseOf cause)).linkUp p = true := (lost.b1 (by decide)).trans hup
  have used : ((s.dev.rxCut p rx).loseCondition p (downCauseOf cause)).portUsed p = true := by
    rw [Dev.portUsed, Dev.portMode, lost.f1 (by decide)]
    exact hp
  refine completes_of_eq (exec_linkDown_up p cause rx hup) ⟨Dev.linkUp_linkDown, ?_, ?_, ?_⟩
  · exact ((Dev.leaving_linkDown up).f1 (by decide)).trans Dev.linkDark_paused
  · exact ((Dev.leaving_linkDown up).f1 (by decide)).trans Dev.linkDark_lpi
  · rw [Dev.linkDown_count up used, lost.linkCounter (by decide)]

/-! ### PORT_EN and hold-off (R102, R106) -/

theorem completes_macPortEnWrite_on (m : Master) (p : Port) {s : State} (hopen : s.dev.Open m (Reg.MAC_CTRL.addr p 0))
    (hp : s.dev.portUsed p = true) (hfree : (s.dev.macSt p).holdoffEnd = none) (hdrive : (s.dev.macSt p).drive ≠ .lossOfSignal) :
    Completes (.macPortEnWrite m p true) s fun t => t.f1 .MAC_CTRL_PORT_EN p = 1 ∧ (t.macSt p).drive = .running ∧
      t.reg.last = .ok 0 := by
  refine completes_of_run _ (exec_macPortEnWrite m p true s) ?_
  rw [Dev.onWrite_open _ _ _ _ _ _ hopen, Dev.writePortEn]
  dsimp only
  rw [if_neg (by simp [hp]), if_neg (by simp), if_neg (by simp [hfree]), if_neg hdrive]
  exact ⟨Dev.f1_set1_same s.dev .MAC_CTRL_PORT_EN p 1, congrArg MacSt.drive Dev.macSt_setMac_same, rfl⟩

/-- A port that is shut: its negotiation restarts, its MAC rests, and the access completes. -/
theorem Dev.fld_shut {p i j : Nat} {m : MacSt} {f : Field} {c : Completion} (hf : f.id ≠ Field.MAC_STATUS_AN_DONE.id) :
    (((d.dropAn p).setMac p m).complete c).fld f i j = d.fld f i j := Dev.fld_setFld_id _ _ _ _ _ _ _ _ hf

theorem completes_macPortEnWrite_off (m : Master) (p : Port) {s : State} (hopen : s.dev.Open m (Reg.MAC_CTRL.addr p 0))
    (hp : s.dev.portUsed p = true) (hdrive : (s.dev.macSt p).drive ≠ .lossOfSignal) :
    Completes (.macPortEnWrite m p false) s fun t => t.linkUp p = false ∧ t.f1 .MAC_CTRL_PORT_EN p = 0 ∧
      (t.macSt p).drive = .electricalIdle ∧ t.reg.last = .ok 0 := by
  refine completes_of_run _ (exec_macPortEnWrite m p false s) ?_
  rw [Dev.onWrite_open _ _ _ _ _ _ hopen, Dev.writePortEn]
  dsimp only
  rw [if_neg (by simp [hp]), if_pos (by simp)]
  have down := Dev.keeps_linkDown (d := s.dev.set1 .MAC_CTRL_PORT_EN p 0) (p := p) (cause := .portEn) (hold := s.dev.flapHold)
  have still : ((((s.dev.set1 .MAC_CTRL_PORT_EN p 0).linkDown p .portEn s.dev.flapHold).dropAn p).macSt p).drive ≠ .lossOfSignal :=
    fun h => hdrive (down.lossOfSignal_iff.1 h)
  rw [if_neg still]
  refine ⟨?_, ?_, congrArg MacSt.drive Dev.macSt_setMac_same, rfl⟩
  · rw [Dev.linkUp, Dev.b1, Dev.fld_shut (by decide), ← Dev.b1, ← Dev.linkUp, Dev.linkUp_linkDown]
  · rw [Dev.f1, Dev.fld_shut (by decide), ← Dev.f1, down.f1 (by decide), Dev.f1_set1_same]
    rfl

theorem completes_flapHoldoffEnd (p : Port) {a : Nat} {s : State} (hheld : (s.dev.macSt p).holdoffEnd = some a)
    (hdue : a ≤ s.dev.now) :
    Completes (.flapHoldoffEnd p) s fun t => (t.macSt p).holdoffEnd = none ∧ (t.macSt p).downs = [] ∧
      t.f1 .MAC_STATUS_FLAP_ISOLATED p = 0 := by
  refine completes_of_run _ (exec_flapHoldoffEnd p s) ?_
  rw [if_pos (by simp [hheld, hdue])]
  unfold Dev.endHoldoff
  have ended {m : MacSt} : ((s.dev.setMac p m).set1 .MAC_STATUS_FLAP_ISOLATED p 0).macSt p = m := Dev.macSt_setMac_same
  rw [ended]
  exact ⟨rfl, rfl, Dev.f1_set1_same _ _ _ _⟩

/-! ### A failed unit (R104) -/

/-- The port isolated, with its link and its frames gone. -/
def Dev.unitDown (d : Dev) (p : Nat) : Dev :=
  let d1 := d.set1 .MAC_PORT_INFO_ISOLATED p 1
  let d2 := d1.setMac p { d1.macSt p with drive := .lossOfSignal }
  if d2.linkUp p then d2.linkDown p .isolation 0 else if d2.winter then d2 else d2.portDown p 0 false

/-- The unit of a port shown as failed, and its interrupt. -/
def Dev.unitShown (d : Dev) (p : Nat) : Dev :=
  ((d.setBit .HLT_SUM_UNIT_REGION_UNIT 0 (p / 32) true).record .MAC_UNIT_ISOLATED 0 0 (payloadOf [])).raise p

theorem Dev.isolatePort_eq {p : Nat} (h : d.b1 .MAC_PORT_INFO_ISOLATED p = false) :
    d.isolatePort p = ((d.unitDown p).unitShown p).autumn .HLT_AUTUMN_CAUSE_UNIT .MAC_UNIT_ISOLATED := by
  unfold Dev.isolatePort
  rw [if_neg (by simp [h])]
  rfl

theorem Dev.keeps_unitShown {p : Nat} :
    d.Keeps (Field.HLT_SUM_UNIT_REGION_UNIT.id :: quietFields) Dev.trafficView (d.unitShown p) := by
  have shown : d.Keeps (Field.HLT_SUM_UNIT_REGION_UNIT.id :: quietFields) Dev.trafficView
      (d.setBit .HLT_SUM_UNIT_REGION_UNIT 0 (p / 32) true) := Dev.keeps_setFld List.mem_cons_self rfl
  exact shown.trans ((Dev.sending_record.trans Dev.sending_raise).traffic.mono (List.subset_cons_self _ _) id)

theorem Dev.unitDown_down {p : Nat} :
    (d.unitDown p).f1 .MAC_PORT_INFO_ISOLATED p = 1 ∧ ((d.unitDown p).macSt p).drive = .lossOfSignal := by
  have gone {e : Dev} : e.Keeps downFields Dev.laneView
      (if e.linkUp p then e.linkDown p .isolation 0 else if e.winter then e else e.portDown p 0 false) := by
    exact .ite Dev.keeps_linkDown (.ite (.refl e) (Dev.traffic_portDown.leaving.lanes.mono (List.subset_append_right _ _) id))
  exact ⟨(gone.f1 (by decide)).trans (Dev.f1_set1_same d .MAC_PORT_INFO_ISOLATED p 1),
    gone.lossOfSignal_iff.2 (congrArg MacSt.drive Dev.macSt_setMac_same)⟩

theorem completes_macUnitIsolated (p : Port) {s : State} (hserves : s.dev.b1 .MAC_PORT_INFO_ISOLATED p = false) :
    Completes (.macUnitIsolated p) s fun t => t.portIsolated p = true ∧ (t.macSt p).drive = .lossOfSignal ∧
      t.b0 .HLT_AUTUMN_CAUSE_UNIT = true := by
  obtain ⟨isolated, drive⟩ := Dev.unitDown_down (d := s.dev) (p := p)
  refine completes_of_run _ (exec_macUnitIsolated p s) ?_
  rw [Dev.isolatePort_eq hserves]
  refine ⟨?_, ?_, ?_⟩
  · rw [Dev.portIsolated, Bool.or_eq_true]
    refine .inl (Dev.b1_of_one ?_)
    rw [Dev.keeps_autumn.f1 (by decide), Dev.keeps_unitShown.f1 (by decide), isolated]
  · exact Dev.keeps_autumn.lossOfSignal.2 (Dev.keeps_unitShown.lossOfSignal.2 drive)
  · rw [Dev.b0, ← Dev.f0, Dev.autumn_cause (by decide) (by decide)]
    rfl

/-! ### Auto-negotiation (R101, R106) -/

theorem completes_autonegComplete_full (p : Port) (adv : Fin 65536) (moves : List (Int × Int × Int × Int × Int)) {s : State}
    (hdown : s.dev.linkUp p = false) (hp : s.dev.portUsed p = true) (hneg : s.dev.portNeg p = true)
    (hen : s.dev.b1 .MAC_CTRL_PORT_EN p = true) (hmode : s.dev.portMode p ≤ 4) :
    Completes (.autonegComplete p true adv 3 moves) s fun t => t.f1 .MAC_STATUS_AN_DONE p = 1 ∧
      t.f1 .MAC_PORT_INFO_FEC_ACTIVE p = 3 := by
  have mode : s.dev.portMode p ≠ 0 := of_decide_eq_true hp
  have fec : (if s.dev.portAn p then ((3 : Fin 4) : Nat) else s.dev.fecDefault p) = 3 := by
    rw [Dev.fecDefault, if_neg mode, if_pos hmode]
    exact ite_self 3
  have trained {e : Dev} {i : Nat} : e.LanesOnly (match (e.portLanes p)[i]? with
      | none => e
      | some l =>
        let t := moves.getD i (0, 0, 0, 0, 0)
        (e.trainTx l (decide (5 ≤ s.dev.portMode p)) ⟨t.1, t.2.1, t.2.2.1, t.2.2.2.1, t.2.2.2.2⟩).calibrated l) := by
    split
    · exact .refl e
    · exact Dev.lanesOnly_trainTx.trans Dev.lanesOnly_calibrated
  have shown {e g : Dev} (h : g.LanesOnly e) (hdone : g.f1 .MAC_STATUS_AN_DONE p = 1) (hfec : g.f1 .MAC_PORT_INFO_FEC_ACTIVE p = 3) :
      e.f1 .MAC_STATUS_AN_DONE p = 1 ∧ e.f1 .MAC_PORT_INFO_FEC_ACTIVE p = 3 :=
    ⟨(h.f1 (by decide)).trans hdone, (h.f1 (by decide)).trans hfec⟩
  refine completes_of_run _ (exec_autonegComplete p true adv 3 moves s) ?_
  dsimp only
  rw [if_neg (by simp [hdown, hp, hneg, hen]), if_neg (by simp), if_neg (by simp [hmode]), fec]
  refine shown (.ite (.foldl (fun _ _ => trained) _ _) (.refl _)) ?_ ?_
  · rw [Dev.f1_set1_ne (by decide), Dev.f1_set1_same]
    rfl
  · exact Dev.f1_set1_same _ _ _ _

theorem completes_autonegComplete_half (p : Port) (adv : Fin 65536) (fec : Fin 4) (moves : List (Int × Int × Int × Int × Int))
    {s : State} (hdown : s.dev.linkUp p = false) (hp : s.dev.portUsed p = true) (hneg : s.dev.portNeg p = true)
    (han : s.dev.portAn p = true) (hen : s.dev.b1 .MAC_CTRL_PORT_EN p = true) :
    Completes (.autonegComplete p false adv fec moves) s fun t => t.linkUp p = false ∧
      t.f1 .MAC_STATUS_AN_DONE p = 0 ∧ t.ctr .MAC_LINK_DOWN p = (s.dev.ctr .MAC_LINK_DOWN p + 1) % 2 ^ 48 := by
  have off : (s.dev.dropAn p).f1 .MAC_STATUS_AN_DONE p = 0 := by
    rw [Dev.dropAn, hneg, Dev.f1_set1_same]
    rfl
  have used : (s.dev.dropAn p).portUsed p = true := by
    rw [Dev.portUsed, Dev.portMode, Dev.dropAn, Dev.f1_set1_ne (by decide)]
    exact hp
  have counted : ((s.dev.dropAn p).macCount .MAC_LINK_DOWN p).ctr .MAC_LINK_DOWN p = (s.dev.ctr .MAC_LINK_DOWN p + 1) % 2 ^ 48 :=
    Dev.ctr_macCountN_same used
  refine completes_of_run _ (exec_autonegComplete p false adv fec moves s) ?_
  dsimp only
  rw [if_neg (by simp [hdown, hp, hneg, hen]), if_pos (by simp [han])]
  refine ⟨?_, ?_, ?_⟩
  · rw [Dev.linkUp, Dev.sending_recordLimited.b1 (by decide), Dev.quiet_macCount.b1 (by decide), Dev.dropAn,
      Dev.b1_set1_ne (by decide)]
    exact hdown
  · rw [Dev.sending_recordLimited.f1 (by decide), Dev.quiet_macCount.f1 (by decide), off]
  · rw [Dev.sending_recordLimited.traffic.linkCounter (by decide), counted]

end

/-- Settles O32: a link that goes down leaves loss of signal where it is (`Dev.keeps_linkDown`), and what starts the lanes of one
that comes up writes fields of lanes alone. -/
theorem linkStates : Obligations.LinkStates := by
  unfold Obligations.LinkStates
  refine ⟨?up, ?down, ?on, ?off, ?holdoff, ?unit, ?full, ?half⟩
  case up => exact fun p _ hdown hmay => completes_linkUp p hdown hmay
  case down => exact fun p cause rx _ hup hp => completes_linkDown p cause rx hup hp
  case on => exact fun m p _ hopen hp hfree hdrive => completes_macPortEnWrite_on m p hopen hp hfree hdrive
  case off => exact fun m p _ hopen hp hdrive => completes_macPortEnWrite_off m p hopen hp hdrive
  case holdoff => exact fun p _ _ hheld hdue => completes_flapHoldoffEnd p hheld hdue
  case unit => exact fun p _ hserves => completes_macUnitIsolated p hserves
  case full =>
    exact fun p adv moves _ hdown hp hneg hen hmode => completes_autonegComplete_full p adv moves hdown hp hneg hen hmode
  case half =>
    exact fun p adv fec moves _ hdown hp hneg han hen => completes_autonegComplete_half p adv fec moves hdown hp hneg han hen

end Sys2Proof.Machine
end

