-- ==== Sys2Proof/Proofs/Reception.lean ====
section
/-! Frames received (R108 to R110): one with an error is counted and goes no further, a good one that no rule turns away enters the
region's pipeline. -/

namespace Sys2Proof.Machine

/-! ### What counting a frame leaves alone -/

/-- The tables that decide whether a frame enters: the buffer, the image and the time base. -/
def Dev.entryView (d : Dev) : BufSt × ImgSt × TimSt := (d.buf, d.img, d.tim)

/-- A frame has at most been counted and reported from one device to the other. -/
abbrev Dev.Tallies (d e : Dev) : Prop := d.Keeps reportFields Dev.entryView e

section
variable {d e : Dev}

theorem Dev.Reports.tallies (h : d.Reports e) : d.Tallies e :=
  h.keeps (List.Subset.refl _) (by simp only [Dev.entryView, h.buf, h.img, h.tim])

theorem Dev.tallies_macCountN {c : Ctr} {p n : Nat} : d.Tallies (d.macCountN c p n) := Dev.reports_macCountN.tallies

theorem Dev.tallies_macCount {c : Ctr} {p : Nat} : d.Tallies (d.macCount c p) := Dev.reports_macCount.tallies

theorem Dev.tallies_setMac {p : Nat} {m : MacSt} : d.Tallies (d.setMac p m) := ⟨rfl, fun _ _ _ _ => rfl⟩

theorem Dev.tallies_frameViolation {p row : Nat} : d.Tallies (d.frameViolation p row) := by
  unfold Dev.frameViolation
  exact Dev.tallies_setMac.trans (Dev.reports_recordLimited _ _ _ _ _ _ _).tallies

theorem Dev.tallies_noteIncomplete {p w : Nat} : d.Tallies (d.noteIncomplete p w) :=
  .ite ⟨rfl, fun _ _ _ _ => rfl⟩ (.refl d)

section
variable (h : d.Tallies e)
include h

theorem Dev.Keeps.entryBuf : e.buf = d.buf := congrArg Prod.fst h.view

theorem Dev.Keeps.entryImg : e.img = d.img := congrArg (fun v : BufSt × ImgSt × TimSt => v.2.1) h.view

theorem Dev.Keeps.entryTim : e.tim = d.tim := congrArg (fun v : BufSt × ImgSt × TimSt => v.2.2) h.view

theorem Dev.Keeps.entrySection {ty n : Nat} : e.section ty n = d.section ty n := by
  rw [Dev.section, Dev.section, h.entryImg]

theorem Dev.Keeps.entryWinter : e.winter = d.winter := by
  rw [Dev.winter, Dev.winter, Dev.health, Dev.health, h.f0 (by decide)]

theorem Dev.Keeps.entryFabType : e.fabType = d.fabType := by
  rw [Dev.fabType, Dev.fabType, h.entrySection]

theorem Dev.Keeps.entryFabPort {p : Nat} : e.fabPort p = d.fabPort p := by
  rw [Dev.fabPort, Dev.fabPort, Dev.fabMember, Dev.fabMember, h.entrySection, h.f1 (by decide)]

theorem Dev.Keeps.entryPtpPort {p : Nat} : e.ptpPort p = d.ptpPort p := by
  rw [Dev.ptpPort, Dev.ptpPort, h.entrySection, h.f1 (by decide)]

theorem Dev.Keeps.entryPtpRefused {p : Nat} {bytes : Bytes} : e.ptpRefused p bytes = d.ptpRefused p bytes := by
  unfold Dev.ptpRefused
  rw [h.entryPtpPort, h.entryTim, h.f0 (by decide), h.b0 (by decide)]

theorem Dev.Keeps.entryFiltered {p : Nat} {bytes : Bytes} : e.filtered p bytes = d.filtered p bytes := by
  unfold Dev.filtered
  dsimp only
  rw [h.b1 (by decide), h.fld _ _ _ (by decide)]

theorem Dev.Keeps.entryFreeCells : e.freeCells = d.freeCells := by
  rw [Dev.freeCells, Dev.freeCells, Dev.cellsUsed, Dev.cellsUsed, h.entryBuf, h.f0 (by decide)]

end

/-! ### The counts of a frame (R108, R122) -/

theorem Ctr.ne_of_k {c g : Ctr} (h : g.k ≠ c.k) : g ≠ c := fun e => h (congrArg Ctr.k e)

/-- The port with the FEC's codewords and symbols counted. -/
def Dev.fecCounted (d : Dev) (p : Nat) (fec : FecSeen) : Dev :=
  ((d.macCountN .MAC_FEC_CORR_CW p fec.corrected).macCountN .MAC_FEC_UNCORR_CW p fec.uncorrectable).macCountN
    .MAC_FEC_CORR_SYMB p fec.symbols

/-- The device with other state of the monitors. -/
def Dev.withPmc (d : Dev) (x : PmcSt) : Dev := { d with pmc := x }

theorem Dev.ctr_withPmc {x : PmcSt} {c : Ctr} {i : Nat} : (d.withPmc x).ctr c i = d.ctr c i := rfl

/-- The port with a frame's FEC and octets counted. -/
def Dev.arrived (d : Dev) (p n : Nat) (fec : FecSeen) : Dev :=
  ((d.fecCounted p fec).withPmc { d.pmc with rxBytes := Map.update 0 d.pmc.rxBytes p (· + n + 20) }).macCountN .MAC_RX_OCTETS_ALL p
    (min n 16384)

theorem Dev.tallies_withPmc {x : PmcSt} : d.Tallies (d.withPmc x) := ⟨rfl, fun _ _ _ _ => rfl⟩

section
variable {p n : Nat} {fec : FecSeen}

theorem Dev.tallies_fecCounted : d.Tallies (d.fecCounted p fec) :=
  (Dev.tallies_macCountN.trans Dev.tallies_macCountN).trans Dev.tallies_macCountN

theorem Dev.tallies_arrived : d.Tallies (d.arrived p n fec) :=
  (Dev.tallies_fecCounted.trans Dev.tallies_withPmc).trans Dev.tallies_macCountN

theorem Dev.fecCounted_ctr {g : Ctr} (hg : g.k < 72) : (d.fecCounted p fec).ctr g p = d.ctr g p := by
  have other {e : Dev} {c : Ctr} {n : Nat} (hc : 72 ≤ c.k) : (e.macCountN c p n).ctr g p = e.ctr g p :=
    Dev.ctr_macCountN_ne (Ctr.ne_of_k (Nat.ne_of_lt (hg.trans_le hc)))
  rw [Dev.fecCounted, other (by decide), other (by decide), other (by decide)]

theorem Dev.arrived_ctr {g : Ctr} (hg : g.k < 72) (hne : g.k ≠ 1) : (d.arrived p n fec).ctr g p = d.ctr g p := by
  rw [Dev.arrived, Dev.ctr_macCountN_ne (Ctr.ne_of_k hne), Dev.ctr_withPmc, Dev.fecCounted_ctr hg]

theorem Dev.Keeps.entryUsed (h : d.Tallies e) {p : Nat} : e.portUsed p = d.portUsed p := by
  rw [Dev.portUsed, Dev.portUsed, Dev.portMode, Dev.portMode, h.f1 (by decide)]

theorem Dev.arrived_octets (hp : d.portUsed p = true) :
    (d.arrived p n fec).ctr .MAC_RX_OCTETS_ALL p = (d.ctr .MAC_RX_OCTETS_ALL p + min n 16384) % 2 ^ 48 := by
  rw [Dev.arrived, Dev.ctr_macCountN_same ((Dev.tallies_fecCounted.trans Dev.tallies_withPmc).entryUsed.trans hp), Dev.ctr_withPmc,
    Dev.fecCounted_ctr (by decide)]
  rfl

end

/-! ### A frame in error (R108) -/

/-- The port with a frame counted in `c` and noted as a violation of row `row`, and its window of digests as incomplete. -/
def Dev.violated (d : Dev) (p : Nat) (c : Ctr) (row : Nat) : Dev :=
  ((d.macCount c p).frameViolation p row).noteIncomplete p d.windowNow

theorem Dev.tallies_violated {p row : Nat} {c : Ctr} : d.Tallies (d.violated p c row) :=
  (Dev.tallies_macCount.trans Dev.tallies_frameViolation).trans Dev.tallies_noteIncomplete

theorem Dev.violated_ctr {p row i : Nat} {c g : Ctr} (hg : g.block = .MAC_STAT) :
    (d.violated p c row).ctr g i = (d.macCount c p).ctr g i := by
  have block : g.block ≠ .EVR_CNT := by
    rw [hg]
    decide
  have noted : ((d.macCount c p).frameViolation p row).ctr g i = (d.macCount c p).ctr g i :=
    Dev.uncounted_recordLimited g i block
  unfold Dev.violated Dev.noteIncomplete
  split
  · exact noted
  · exact noted

/-- A frame of an error of Table 4-2 at a port in use: the buffer stands, the error counts and no good frame does. -/
theorem Dev.violated_arrived {p row n : Nat} {c : Ctr} {fec : FecSeen} (hp : d.portUsed p = true) (hc : c.block = .MAC_STAT)
    (hk : 3 ≤ c.k) (hk' : c.k < 72) :
    ((d.arrived p n fec).violated p c row).buf = d.buf ∧
      ((d.arrived p n fec).violated p c row).ctr c p = (d.ctr c p + 1) % 2 ^ 48 ∧
      ((d.arrived p n fec).violated p c row).ctr .MAC_RX_OCTETS_ALL p = (d.ctr .MAC_RX_OCTETS_ALL p + min n 16384) % 2 ^ 48 ∧
      ((d.arrived p n fec).violated p c row).ctr .MAC_RX_FRAMES p = d.ctr .MAC_RX_FRAMES p := by
  have used : (d.arrived p n fec).portUsed p = true := Dev.tallies_arrived.entryUsed.trans hp
  have width : c.block.width = 48 := by
    rw [hc]
    rfl
  refine ⟨(Dev.tallies_arrived.trans Dev.tallies_violated).entryBuf, ?_, ?_, ?_⟩
  · rw [Dev.violated_ctr hc, Dev.macCount, Dev.ctr_macCountN_same used, Dev.arrived_ctr hk' (by omega), width]
  · rw [Dev.violated_ctr rfl, Dev.macCount, Dev.ctr_macCountN_ne (Ctr.ne_of_k (by simp only [Ctr.MAC_RX_OCTETS_ALL]; omega)),
      Dev.arrived_octets hp]
  · rw [Dev.violated_ctr rfl, Dev.macCount, Dev.ctr_macCountN_ne (Ctr.ne_of_k (by simp only [Ctr.MAC_RX_FRAMES]; omega)),
      Dev.arrived_ctr (by decide) (by decide)]

theorem completes_frameReceive_pcs (p : Port) {bytes : Bytes} {bad : Bool} {fec : FecSeen} (sub : Fin 8) (rivals : List (Fin 7))
    {s : State} (hup : s.dev.linkUp p = true) (hp : s.dev.portUsed p = true) (hbad : bad = true ∨ fec.uncorrectable ≠ 0) :
    Completes (.frameReceive p bytes bad fec sub rivals) s fun t => t.buf = s.dev.buf ∧
      t.ctr .MAC_RX_PCS_ERR p = (s.dev.ctr .MAC_RX_PCS_ERR p + 1) % 2 ^ 48 ∧
      t.ctr .MAC_RX_FRAMES p = s.dev.ctr .MAC_RX_FRAMES p := by
  have received : exec (.frameReceive p bytes bad fec sub rivals) s =
      .next (s.on ((s.dev.arrived p bytes.length fec).violated p .MAC_RX_PCS_ERR 1)) := by
    rw [exec_frameReceive, execFrameReceive, State.run_eq]
    dsimp only
    rw [if_neg (by simp [hup]), if_pos hbad]
    rfl
  obtain ⟨buf, counted, -, frames⟩ := Dev.violated_arrived (c := .MAC_RX_PCS_ERR) (row := 1) (n := bytes.length) (fec := fec) hp rfl
    (by decide) (by decide)
  exact completes_of_eq received ⟨buf, counted, frames⟩

theorem completes_frameReceive_fcs (p : Port) {bytes : Bytes} {fec : FecSeen} (sub : Fin 8) (rivals : List (Fin 7)) {s : State}
    (hup : s.dev.linkUp p = true) (hp : s.dev.portUsed p = true) (hfec : fec.uncorrectable = 0) (hmin : 64 ≤ bytes.length)
    (hmax : bytes.length ≤ s.dev.f1 .MAC_MAX_FRAME p) (hlong : bytes.length ≤ 16384) (hfcs : fcsGood bytes = false) :
    Completes (.frameReceive p bytes false fec sub rivals) s fun t => t.buf = s.dev.buf ∧
      t.ctr .MAC_RX_FCS_ERR p = (s.dev.ctr .MAC_RX_FCS_ERR p + 1) % 2 ^ 48 ∧
      t.ctr .MAC_RX_OCTETS_ALL p = (s.dev.ctr .MAC_RX_OCTETS_ALL p + bytes.length) % 2 ^ 48 ∧
      t.ctr .MAC_RX_FRAMES p = s.dev.ctr .MAC_RX_FRAMES p := by
  have received : exec (.frameReceive p bytes false fec sub rivals) s =
      .next (s.on ((s.dev.arrived p bytes.length fec).violated p .MAC_RX_FCS_ERR 7)) := by
    rw [exec_frameReceive, execFrameReceive, State.run_eq]
    dsimp only
    rw [if_neg (by simp [hup]), if_neg (by simp [hfec]), if_neg (by omega), if_neg (by omega), if_neg (by omega),
      if_pos (by simp [hfcs])]
    rfl
  have counted := Dev.violated_arrived (c := .MAC_RX_FCS_ERR) (row := 7) (n := bytes.length) (fec := fec) hp rfl (by decide)
    (by decide)
  rw [Nat.min_eq_left hlong] at counted
  exact completes_of_eq received counted

/-! ### A good frame (R109, R110) -/

theorem Dev.tallies_countGood {p : Nat} {bytes : Bytes} : d.Tallies (d.countGood p bytes) := by
  have counted {k l : Ctr} : d.Tallies ((((d.macCount .MAC_RX_FRAMES p).macCountN .MAC_RX_OCTETS p bytes.length).macCount k p).macCount
      l p) := ((Dev.tallies_macCount.trans Dev.tallies_macCountN).trans Dev.tallies_macCount).trans Dev.tallies_macCount
  unfold Dev.countGood
  dsimp only
  split
  · exact counted
  · exact .ite ((counted.trans Dev.tallies_setMac).trans Dev.tallies_macCount) (counted.trans Dev.tallies_setMac)

theorem Dev.countGood_ctr {p : Nat} {bytes : Bytes} {g : Ctr} (hg : g.k < 3) :
    (d.countGood p bytes).ctr g p = ((d.macCount .MAC_RX_FRAMES p).macCountN .MAC_RX_OCTETS p bytes.length).ctr g p := by
  have counted {e : Dev} {c : Ctr} (hc : 3 ≤ c.k) : (e.macCount c p).ctr g p = e.ctr g p :=
    Dev.ctr_macCountN_ne (Ctr.ne_of_k (Nat.ne_of_lt (hg.trans_le hc)))
  unfold Dev.countGood
  dsimp only
  have good : ((((d.macCount .MAC_RX_FRAMES p).macCountN .MAC_RX_OCTETS p bytes.length).macCount (Ctr.MAC_RX_UCAST.at
      (if beAt bytes 0 6 = 0xFFFFFFFFFFFF then 2 else if bitOf (beAt bytes 0 1) 0 then 1 else 0)) p).macCount
      (Ctr.MAC_RX_64.at (lenBucket bytes.length)) p).ctr g p =
      ((d.macCount .MAC_RX_FRAMES p).macCountN .MAC_RX_OCTETS p bytes.length).ctr g p := by
    rw [counted (Nat.le_trans (by decide) (Nat.le_add_right 16 _)), counted (Nat.le_add_right 3 _)]
  have noted {e : Dev} {m : MacSt} : (e.setMac p m).ctr g p = e.ctr g p := rfl
  split
  · exact good
  · split
    · rw [counted (by decide), noted, good]
    · rw [noted, good]

/-- A frame with cells enough for every region gets all of its cells (R110). -/
theorem Dev.allocate_all {w need : Nat} {rivals : List (Fin 7)} (h : need + 7 ≤ d.freeCells) : d.allocate w need rivals = (need, 0) := by
  unfold Dev.allocate
  extract_lets free turn ahead
  have few : ahead ≤ 7 := List.countP_le_length
  rw [if_neg (by omega), if_neg (by omega)]

/-- What a frame meets that no rule turns away from the pipeline of its region (R109). -/
structure Dev.Admits (d : Dev) (p : Nat) (bytes : Bytes) : Prop where
  winter : d.winter = false
  frozen : d.buf.frozen = false
  role : d.f1 .MAC_PORT_INFO_ROLE p ≠ 2
  fabric : ¬(d.fabPort p = true ∧ beAt bytes 12 2 = d.fabType ∧ 4 ≤ beAt bytes 15 1 / 16 ∧ beAt bytes 15 1 / 16 ≤ 7)
  reload : d.img.reload.any (fun r => r.stopped && bitOf r.mask (p / 32)) = false
  ptp : d.ptpRefused p bytes = none
  cells : cellsFor bytes.length + 7 ≤ d.freeCells

theorem Dev.Admits.of_tallies {p : Nat} {bytes : Bytes} (h : d.Tallies e) (a : d.Admits p bytes) : e.Admits p bytes where
  winter := h.entryWinter.trans a.winter
  frozen := by rw [h.entryBuf, a.frozen]
  role := by
    rw [h.f1 (by decide)]
    exact a.role
  fabric := by
    rw [h.entryFabPort, h.entryFabType]
    exact a.fabric
  reload := by rw [h.entryImg, a.reload]
  ptp := h.entryPtpRefused.trans a.ptp
  cells := by
    rw [h.entryFreeCells]
    exact a.cells

/-- The device with a frame that has entered: the next one takes the next number. -/
def Dev.entered (d : Dev) (r : Rx) (w need : Nat) : Dev :=
  ((({ d with buf := { d.buf with nextId := d.buf.nextId + 1 } } : Dev).setRx d.buf.nextId (some r)).notePeak).perf 4 0x200 w need

theorem Dev.entered_buf {r : Rx} {w need : Nat} : (d.entered r w need).buf =
    { d.buf with nextId := d.buf.nextId + 1, rx := Map.set none d.buf.rx d.buf.nextId (some r) } := by
  rw [Dev.entered, Dev.perf_buf]
  unfold Dev.notePeak
  split
  · rfl
  · rfl

theorem Dev.entered_ctr {r : Rx} {w need i : Nat} {c : Ctr} : (d.entered r w need).ctr c i = d.ctr c i := by
  refine Dev.ctr_congr _ _ _ _ ?_
  rw [Dev.entered, Dev.perf_ctrs]
  unfold Dev.notePeak
  split
  · rfl
  · rfl

/-- A frame that is admitted enters with its bytes, and none of them lost (R110). -/
theorem Dev.ingress_enters {p sub : Nat} {bytes : Bytes} {rivals : List (Fin 7)} (a : d.Admits p bytes) :
    ∃ r, d.ingress p bytes sub rivals = d.entered r (p / 32) (cellsFor bytes.length) ∧ r.bytes = bytes ∧ r.port = p ∧ r.lost = 0 ∧
      r.parse = none := by
  have fabric : ¬(d.fabPort p = true ∧ decide (beAt bytes 12 2 = d.fabType) = true ∧ 4 ≤ beAt bytes 15 1 / 16 ∧
      beAt bytes 15 1 / 16 ≤ 7) := by simpa using a.fabric
  unfold Dev.ingress
  dsimp only
  rw [if_neg (by simp [a.winter, a.frozen]), if_neg a.role, if_neg fabric, if_neg (by simp [a.reload]), a.ptp]
  dsimp only
  rw [Dev.allocate_all a.cells, if_pos rfl]
  exact ⟨_, rfl, rfl, rfl, rfl, rfl⟩

/-- What becomes of a good frame that has been counted. -/
def Dev.sorted (d : Dev) (p : Nat) (bytes : Bytes) (sub : Nat) (rivals : List (Fin 7)) : Dev :=
  if beAt bytes 12 2 = 0x8808 then d.macControl p bytes
  else if d.filtered p bytes then d.macCount .MAC_RX_MCAST_FILTERED p
  else if beAt bytes 0 6 = 0xFFFFFFFFFFFF ∧ d.b1 .MAC_CTRL_BCAST_DROP p then d.macCount .MAC_RX_MCAST_FILTERED p
  else d.ingress p bytes sub rivals

theorem Dev.sorted_data {p sub : Nat} {bytes : Bytes} {rivals : List (Fin 7)} (hdata : beAt bytes 12 2 ≠ 0x8808)
    (hfilter : d.filtered p bytes = false) (hbcast : beAt bytes 0 6 = 0xFFFFFFFFFFFF → d.b1 .MAC_CTRL_BCAST_DROP p = false) :
    d.sorted p bytes sub rivals = d.ingress p bytes sub rivals := by
  unfold Dev.sorted
  rw [if_neg hdata, if_neg (by simp [hfilter]), if_neg (fun h => by simp [hbcast h.1] at h)]

theorem exec_frameReceive_good (p : Port) {bytes : Bytes} {fec : FecSeen} (sub : Fin 8) (rivals : List (Fin 7)) {s : State}
    (hup : s.dev.linkUp p = true) (hfec : fec.uncorrectable = 0) (hmin : 64 ≤ bytes.length)
    (hmax : bytes.length ≤ s.dev.f1 .MAC_MAX_FRAME p) (hlong : bytes.length ≤ 16384) (hfcs : fcsGood bytes = true) :
    exec (.frameReceive p bytes false fec sub rivals) s =
      .next (s.on (((s.dev.arrived p bytes.length fec).countGood p bytes).sorted p bytes sub rivals)) := by
  rw [exec_frameReceive, execFrameReceive, State.run_eq]
  dsimp only
  rw [if_neg (by simp [hup]), if_neg (by simp [hfec]), if_neg (by omega), if_neg (by omega), if_neg (by omega),
    if_neg (by simp [hfcs])]
  rfl

theorem completes_frameReceive_good (p : Port) {bytes : Bytes} {fec : FecSeen} (sub : Fin 8) (rivals : List (Fin 7)) {s : State}
    (hup : s.dev.linkUp p = true) (hp : s.dev.portUsed p = true) (hfec : fec.uncorrectable = 0) (hmin : 64 ≤ bytes.length)
    (hmax : bytes.length ≤ s.dev.f1 .MAC_MAX_FRAME p) (hlong : bytes.length ≤ 16384) (hfcs : fcsGood bytes = true)
    (hdata : beAt bytes 12 2 ≠ 0x8808) (hfilter : s.dev.filtered p bytes = false)
    (hbcast : beAt bytes 0 6 = 0xFFFFFFFFFFFF → s.dev.b1 .MAC_CTRL_BCAST_DROP p = false) (ha : s.dev.Admits p bytes) :
    Completes (.frameReceive p bytes false fec sub rivals) s fun t =>
      (∃ r, Map.get none t.buf.rx s.dev.buf.nextId = some r ∧ r.bytes = bytes ∧ r.port = p.val ∧ r.lost = 0 ∧
        r.parse = none) ∧
      t.buf.nextId = s.dev.buf.nextId + 1 ∧
      t.ctr .MAC_RX_FRAMES p = (s.dev.ctr .MAC_RX_FRAMES p + 1) % 2 ^ 48 ∧
      t.ctr .MAC_RX_OCTETS p = (s.dev.ctr .MAC_RX_OCTETS p + bytes.length) % 2 ^ 48 := by
  have used : (s.dev.arrived p bytes.length fec).portUsed p = true := Dev.tallies_arrived.entryUsed.trans hp
  have counted : s.dev.Tallies ((s.dev.arrived p bytes.length fec).countGood p bytes) :=
    Dev.tallies_arrived.trans Dev.tallies_countGood
  obtain ⟨r, enters, bytes_eq, port_eq, lost_eq, parse_eq⟩ := Dev.ingress_enters (sub := sub) (rivals := rivals) (ha.of_tallies counted)
  have received := exec_frameReceive_good (fec := fec) p sub rivals hup hfec hmin hmax hlong hfcs
  rw [Dev.sorted_data hdata (counted.entryFiltered.trans hfilter) (fun h => (counted.b1 (by decide)).trans (hbcast h)),
    enters] at received
  refine completes_of_eq received ⟨⟨r, ?_, bytes_eq, port_eq, lost_eq, parse_eq⟩, ?_, ?_, ?_⟩
  · rw [Dev.entered_buf, counted.entryBuf]
    exact Map.get_set_same none s.dev.buf.rx s.dev.buf.nextId (some r)
  · rw [Dev.entered_buf, counted.entryBuf]
  · rw [Dev.entered_ctr, Dev.countGood_ctr (by decide), Dev.ctr_macCountN_ne (by decide), Dev.macCount,
      Dev.ctr_macCountN_same used, Dev.arrived_ctr (by decide) (by decide)]
    rfl
  · have reused : ((s.dev.arrived p bytes.length fec).macCount .MAC_RX_FRAMES p).portUsed p = true :=
      Dev.tallies_macCount.entryUsed.trans used
    rw [Dev.entered_ctr, Dev.countGood_ctr (by decide), Dev.ctr_macCountN_same reused, Dev.macCount,
      Dev.ctr_macCountN_ne (by decide), Dev.arrived_ctr (by decide) (by decide)]
    rfl

end

/-- Settles O31: counting a frame leaves what decides its entry alone (`Dev.Tallies`), and a frame that is admitted enters whole
(`Dev.ingress_enters`). -/
theorem frameReception : Obligations.FrameReception := by
  unfold Obligations.FrameReception
  refine ⟨?fcs, ?pcs, ?good⟩
  case fcs =>
    exact fun p _ _ sub rivals _ hup hp hfec hmin hmax hlong hfcs =>
      completes_frameReceive_fcs p sub rivals hup hp hfec hmin hmax hlong hfcs
  case pcs => exact fun p _ _ _ sub rivals _ hup hp hbad => completes_frameReceive_pcs p sub rivals hup hp hbad
  case good =>
    exact fun p _ _ sub rivals _ hup hp hfec hmin hmax hlong hfcs hdata hfilter hbcast hwinter hfrozen hrole hfabric hreload hptp
        hcells =>
      completes_frameReceive_good p sub rivals hup hp hfec hmin hmax hlong hfcs hdata hfilter hbcast
        ⟨hwinter, hfrozen, hrole, hfabric, hreload, Option.isNone_iff_eq_none.1 hptp, hcells⟩

end Sys2Proof.Machine
end

