-- ==== Sys2Proof/Proofs/SliceSparing.lean ====
section
/-! The spare slice of a cluster (R139 to R141): the swap that consumes it, the slice that is retired and the lane that the shadow
takes over; and the partner's low-power idle (R121). -/

namespace Sys2Proof.Machine

section
variable {d : Dev}

/-! ### A spare that is consumed (R139) -/

/-- The cluster with its spare shown as used and the slice that retires. -/
def Dev.spareMarked (d : Dev) (c g slice cause : Nat) : Dev :=
  ((((d.set1 .SHADOW_RETIRED_SLICE c slice).set1 .SHADOW_RETIRED_LANE c g).set1 .SHADOW_RETIRED_CAUSE c cause).set1
    .SHADOW_STATUS_SPARE_USED c 1).setBit .HLT_SUM_LANE 0 c true

/-- The fields of a spare that is consumed. -/
def spareFields : List Nat :=
  [Field.SHADOW_RETIRED_SLICE.id, Field.SHADOW_RETIRED_LANE.id, Field.SHADOW_RETIRED_CAUSE.id, Field.SHADOW_STATUS_SPARE_USED.id,
    Field.HLT_SUM_LANE.id, Field.HLT_AUTUMN_CAUSE_SPARE.id] ++ (healthFields ++ quietFields)

section
variable {c g slice cause : Nat} {ev : EvCode}

theorem Dev.keeps_spareMarked : d.Keeps spareFields Dev.trafficView (d.spareMarked c g slice cause) := by
  have shown {e : Dev} {f : Field} {i v : Nat} (hf : f.id ∈ spareFields) : e.Keeps spareFields Dev.trafficView (e.set1 f i v) :=
    Dev.keeps_setFld hf rfl
  exact ((((shown (by decide)).trans (shown (by decide))).trans (shown (by decide))).trans (shown (by decide))).trans
    (shown (by decide))

/-- The cause of AUTUMN and the reports that follow. -/
theorem Dev.keeps_consumeSpare_after : (d.spareMarked c g slice cause).Keeps
    (Field.HLT_AUTUMN_CAUSE_SPARE.id :: (healthFields ++ quietFields)) Dev.trafficView (d.consumeSpare c g slice cause ev) := by
  have told {e : Dev} {k i s : Nat} {p : Bytes} : e.Keeps (Field.HLT_AUTUMN_CAUSE_SPARE.id :: (healthFields ++ quietFields))
      Dev.trafficView ((e.record ev k i p).raise s) :=
    (Dev.sending_record.trans Dev.sending_raise).traffic.mono
      (fun _ hm => List.mem_cons_of_mem _ (List.mem_append_right _ hm)) id
  exact told.trans Dev.keeps_autumn

theorem Dev.keeps_consumeSpare : d.Keeps spareFields Dev.trafficView (d.consumeSpare c g slice cause ev) :=
  Dev.keeps_spareMarked.trans (Dev.keeps_consumeSpare_after.mono (by decide) id)

theorem Dev.consumeSpare_retired : (d.consumeSpare c g slice cause ev).f1 .SHADOW_RETIRED_SLICE c = slice % 8 := by
  rw [Dev.keeps_consumeSpare_after.f1 (by decide)]
  unfold Dev.spareMarked Dev.setBit Dev.set1 Dev.f1
  simp (disch := decide) only [Dev.fld_setFld_id, Dev.fld_setFld_same]
  rfl

theorem Dev.consumeSpare_cause : (d.consumeSpare c g slice cause ev).f1 .SHADOW_RETIRED_CAUSE c = cause % 4 := by
  rw [Dev.keeps_consumeSpare_after.f1 (by decide)]
  unfold Dev.spareMarked Dev.setBit Dev.set1 Dev.f1
  simp (disch := decide) only [Dev.fld_setFld_id, Dev.fld_setFld_same]
  rfl

theorem Dev.consumeSpare_used : (d.consumeSpare c g slice cause ev).f1 .SHADOW_STATUS_SPARE_USED c = 1 := by
  rw [Dev.keeps_consumeSpare_after.f1 (by decide)]
  unfold Dev.spareMarked Dev.setBit Dev.set1 Dev.f1
  simp (disch := decide) only [Dev.fld_setFld_id, Dev.fld_setFld_same]
  rfl

theorem Dev.consumeSpare_autumn : (d.consumeSpare c g slice cause ev).f0 .HLT_AUTUMN_CAUSE_SPARE = 1 :=
  Dev.autumn_cause (by decide) (by decide)

end

theorem Dev.f0_set1_ne {f g : Field} {i v : Nat} (h : g.id ≠ f.id) : (d.set1 f i v).f0 g = d.f0 g :=
  Dev.fld_setFld_id d f g i 0 0 0 v h

theorem Dev.b0_of_one {f : Field} (h : d.f0 f = 1) : d.b0 f = true :=
  decide_eq_true (fun hz : d.f0 f = 0 => Nat.one_ne_zero (h.symm.trans hz))

/-! ### A turn that ends in a swap (R135, R140) -/

theorem Dev.turn_setTurn_same {c : Nat} {t : TurnSt} : (d.setTurn c t).turn c = t := Map.get_set_same _ _ _ _

theorem Dev.f1_setTurn {c i : Nat} {t : TurnSt} {f : Field} : (d.setTurn c t).f1 f i = d.f1 f i := rfl

/-- The cluster with a swap ready, of kind 1 where it consumes the spare. -/
def Dev.swapReady (d : Dev) (c kind : Nat) (own : Int) : Dev :=
  (d.setTurn c { d.turn c with phaseAt := d.now, kind := kind, latency := own, deferred := 0 }).set1 .SHADOW_STATUS_PHASE c 3

/-- The cluster with the mismatches of a verification noted, and a failure where the shadow is charged four to one. -/
def Dev.verified (d : Dev) (c l : Nat) (k : Nat × Nat × Nat) : Dev :=
  let d1 := d.set1 .LANE_LAST_MISMATCH l (min k.1 (2 ^ 32 - 1))
  if 4 * k.2.1 ≤ k.2.2 then d1.satInc .SHADOW_FAILS c 0 1 else d1

theorem Dev.keeps_verified {c l : Nat} {k : Nat × Nat × Nat} :
    d.Keeps [Field.LANE_LAST_MISMATCH.id, Field.SHADOW_FAILS.id] Dev.trafficView (d.verified c l k) := by
  have shown : d.Keeps [Field.LANE_LAST_MISMATCH.id, Field.SHADOW_FAILS.id] Dev.trafficView
      (d.set1 .LANE_LAST_MISMATCH l (min k.1 (2 ^ 32 - 1))) := Dev.keeps_setFld (by decide) rfl
  exact .ite (shown.trans (Dev.keeps_setFld (by decide) rfl)) shown

/-- What the shadow's slice adds to the latency of the lane that it shadows (R135). -/
def Dev.swapShift (d : Dev) (c : Nat) (own : Int) : Int :=
  d.factoryLatency (d.f1 .SHADOW_STATUS_SLICE c) (d.turnLane c) + own - d.laneLatency (d.turnLane c)

theorem completes_shadowVerifyEnd_spare (c : Cluster) {seen : VerifySeen} {a own : Int} {s : State}
    (hphase : s.dev.f1 .SHADOW_STATUS_PHASE c = 2)
    (hdue : (s.dev.turn c).phaseAt + verifyTicks (s.dev.portMode (s.dev.lanePort (s.dev.turnLane c))) (s.dev.turn c).log2 ≤ s.dev.now)
    (haligned : (a - s.dev.swapShift c own).natAbs * 1000 ≤ 3200 ∧ a.natAbs ≤ 256 ∧ (s.dev.swapShift c own).natAbs ≤ 256)
    (hlimit : (s.dev.turn c).limit ≤ (chargeOf seen).1) (hcharge : 4 * (chargeOf seen).2.2 ≤ (chargeOf seen).2.1) :
    Completes (.shadowVerifyEnd c seen a own) s fun t => t.f1 .SHADOW_STATUS_PHASE c = 3 ∧ (t.turn c).kind = 1 ∧
      t.f1 .SHADOW_STATUS_SPARE_USED c = s.dev.f1 .SHADOW_STATUS_SPARE_USED c := by
  have near : ¬(3200 < (a - s.dev.swapShift c own).natAbs * 1000 ∨ 256 < a.natAbs ∨ 256 < (s.dev.swapShift c own).natAbs) := by
    omega
  unfold Dev.swapShift at near
  have ended : exec (.shadowVerifyEnd c seen a own) s =
      .next (s.on (((s.dev.verified c (s.dev.turnLane c) (chargeOf seen)).decided c).swapReady c 1 own)) := by
    rw [exec_shadowVerifyEnd, execShadowVerifyEnd, State.run_eq]
    dsimp only
    rw [← Dev.turnLane, if_neg (by omega), if_neg near, if_neg (by omega), if_pos hcharge]
    rfl
  refine completes_of_eq ended ⟨Dev.f1_set1_same _ _ _ _, congrArg TurnSt.kind Dev.turn_setTurn_same, ?_⟩
  rw [Dev.swapReady, Dev.f1_set1_ne (by decide), Dev.f1_setTurn, Dev.decided, Dev.f1_setTurn, Dev.keeps_verified.f1 (by decide)]

theorem Dev.detach_phase {c : Nat} (h : d.f1 .SHADOW_STATUS_SPARE_USED c = 1) : (d.detach c).f1 .SHADOW_STATUS_PHASE c = 4 := by
  unfold Dev.detach
  rw [if_pos (.inl (Dev.b1_of_one h)), Dev.f1_set1_ne (by decide), Dev.f1_set1_same]
  rfl

/-- The lane that a swap moves to the slice of the shadow. -/
def Dev.swapped (d : Dev) (c l : Nat) : Dev :=
  let t := d.turn c
  ((((d.setTurn c { t with adapt := Map.set 0 t.adapt (d.f1 .SHADOW_STATUS_TARGET c) t.latency }).set1 .LANE_STATUS_SLICE l
    (d.f1 .SHADOW_STATUS_SLICE c)).satInc .LANE_SWAPS l 0 1).calibrated l).adaptRx l

theorem Dev.swapped_slice {c l : Nat} : (d.swapped c l).f1 .LANE_STATUS_SLICE l = d.f1 .SHADOW_STATUS_SLICE c % 8 := by
  unfold Dev.swapped
  dsimp only
  rw [(Dev.lanesOnly_calibrated.trans Dev.lanesOnly_adaptRx).f1 (by decide)]
  exact (Dev.fld_setFld_id _ _ _ _ _ _ _ _ (by decide)).trans (Dev.f1_set1_same _ _ _ _)

theorem Dev.detach_f1 {c i : Nat} {f : Field} (hf : f.id ∉ leaveFields) : (d.detach c).f1 f i = d.f1 f i := Dev.leaving_detach.f1 hf

theorem completes_laneSwap_spare (c : Cluster) {s : State} (hphase : s.dev.f1 .SHADOW_STATUS_PHASE c = 3)
    (hdefer : (s.dev.turn c).deferred < 1000) (hkind : (s.dev.turn c).kind = 1)
    (hlpi : s.dev.b1 .LANE_STATUS_RX_LPI (s.dev.turnLane c) = false) :
    Completes (.laneSwap c false) s fun t =>
      t.f1 .LANE_STATUS_SLICE (s.dev.turnLane c) = s.dev.f1 .SHADOW_STATUS_SLICE c % 8 ∧
      t.f1 .LANE_STATUS_PERMANENT (s.dev.turnLane c) = 1 ∧ t.f1 .SHADOW_STATUS_SPARE_USED c = 1 ∧
      t.f1 .SHADOW_RETIRED_SLICE c = s.dev.f1 .LANE_STATUS_SLICE (s.dev.turnLane c) % 8 ∧
      t.f1 .SHADOW_RETIRED_CAUSE c = 1 ∧ t.f1 .SHADOW_STATUS_SLICE c = 7 ∧ t.f1 .SHADOW_STATUS_PHASE c = 4 ∧
      t.b0 .HLT_AUTUMN_CAUSE_SPARE = true := by
  have swapped : exec (.laneSwap c false) s = .next (s.on (((((s.dev.swapped c (s.dev.turnLane c)).consumeSpare c
      (s.dev.f1 .SHADOW_STATUS_TARGET c) (s.dev.f1 .LANE_STATUS_SLICE (s.dev.turnLane c)) 1 .LANE_SLICE_RETIRED).detach c).set1
      .LANE_STATUS_PERMANENT (s.dev.turnLane c) 1).set1 .SHADOW_STATUS_SLICE c 7)) := by
    rw [exec_laneSwap, execLaneSwap, State.run_eq]
    dsimp only
    rw [← Dev.turnLane, if_neg (by omega), if_neg (by simp [hlpi]), if_pos hkind]
    rfl
  have outer {e : Dev} {f : Field} {i : Nat} (h1 : f.id ≠ Field.SHADOW_STATUS_SLICE.id) (h2 : f.id ≠ Field.LANE_STATUS_PERMANENT.id) :
      ((e.set1 .LANE_STATUS_PERMANENT (s.dev.turnLane c) 1).set1 .SHADOW_STATUS_SLICE c 7).f1 f i = e.f1 f i :=
    (Dev.f1_set1_ne h1).trans (Dev.f1_set1_ne h2)
  refine completes_of_eq swapped ⟨?_, ?_, ?_, ?_, ?_, Dev.f1_set1_same _ _ _ _, ?_, ?_⟩
  · rw [outer (by decide) (by decide), Dev.detach_f1 (by decide), Dev.keeps_consumeSpare.f1 (by decide), Dev.swapped_slice]
  · exact (Dev.f1_set1_ne (by decide)).trans (Dev.f1_set1_same _ _ _ _)
  · rw [outer (by decide) (by decide), Dev.detach_f1 (by decide), Dev.consumeSpare_used]
  · rw [outer (by decide) (by decide), Dev.detach_f1 (by decide), Dev.consumeSpare_retired]
  · rw [outer (by decide) (by decide), Dev.detach_f1 (by decide), Dev.consumeSpare_cause]
  · rw [outer (by decide) (by decide), Dev.detach_phase Dev.consumeSpare_used]
  · refine Dev.b0_of_one ?_
    rw [Dev.f0_set1_ne (by decide), Dev.f0_set1_ne (by decide), Dev.leaving_detach.f0 (by decide), Dev.consumeSpare_autumn]

/-! ### A slice that fails (R140, R141) -/

theorem exec_sliceFaultIsolate_one (c : Cluster) (x : Fin 5) (s : State) :
    exec (.sliceFaultIsolate c [x]) s = .next (s.on (s.dev.isolateSlice c x)) := by
  fin_cases x <;> rfl

/-- The cluster without its turn and its shadow slice, and its unit shown. -/
def Dev.shadowGone (d : Dev) (c : Nat) : Dev :=
  ((d.detach c).set1 .SHADOW_STATUS_SLICE c 7).setBit .HLT_SUM_UNIT_REGION_UNIT 0 (c / 8) true

/-- The fields of a shadow slice that retires. -/
def shadowGoneFields : List Nat := [Field.SHADOW_STATUS_SLICE.id, Field.HLT_SUM_UNIT_REGION_UNIT.id] ++ leaveFields

theorem Dev.keeps_shadowGone {c : Nat} : d.Keeps shadowGoneFields Dev.trafficView (d.shadowGone c) := by
  have detached : d.Keeps shadowGoneFields Dev.trafficView (d.detach c) := Dev.leaving_detach.mono (List.subset_append_right _ _) id
  have shown {e : Dev} {f : Field} {i v : Nat} (hf : f.id ∈ shadowGoneFields) :
      e.Keeps shadowGoneFields Dev.trafficView (e.set1 f i v) := Dev.keeps_setFld hf rfl
  exact (detached.trans (shown (by decide))).trans (shown (by decide))

theorem Dev.shadowGone_slice {c : Nat} : (d.shadowGone c).f1 .SHADOW_STATUS_SLICE c = 7 :=
  (Dev.fld_setFld_id _ _ _ _ _ _ _ _ (by decide)).trans (Dev.f1_set1_same (d.detach c) .SHADOW_STATUS_SLICE c 7)

/-- A slice that serves no lane and is the shadow's retires. -/
theorem Dev.isolateSlice_shadow {c sl : Nat} (hrep : ¬(d.f1 .SHADOW_STATUS_PHASE c = 1 ∧ (d.turn c).kind = 3))
    (hslice : d.f1 .SHADOW_STATUS_SLICE c = sl) (hfree : d.b1 .SHADOW_STATUS_SPARE_USED c = false) :
    d.isolateSlice c sl = (d.consumeSpare c (d.f1 .SHADOW_STATUS_TARGET c) sl 2 .SHADOW_SLICE_RETIRED).shadowGone c := by
  unfold Dev.isolateSlice
  dsimp only
  rw [if_neg (by simp [hrep]), if_neg (by simp [hfree]), if_pos hslice, Dev.shadowGone]

theorem completes_sliceFaultIsolate_shadow (c : Cluster) (x : Fin 5) {s : State}
    (hrep : ¬(s.dev.f1 .SHADOW_STATUS_PHASE c = 1 ∧ (s.dev.turn c).kind = 3)) (hslice : s.dev.f1 .SHADOW_STATUS_SLICE c = x.val)
    (hfree : s.dev.b1 .SHADOW_STATUS_SPARE_USED c = false) :
    Completes (.sliceFaultIsolate c [x]) s fun t => t.f1 .SHADOW_STATUS_SPARE_USED c = 1 ∧ t.f1 .SHADOW_STATUS_SLICE c = 7 ∧
      t.f1 .SHADOW_RETIRED_SLICE c = x.val ∧ t.f1 .SHADOW_RETIRED_CAUSE c = 2 ∧ t.b0 .HLT_AUTUMN_CAUSE_SPARE = true := by
  refine completes_of_eq (exec_sliceFaultIsolate_one c x s) ?_
  rw [Dev.isolateSlice_shadow hrep hslice hfree]
  refine ⟨?_, Dev.shadowGone_slice, ?_, ?_, ?_⟩
  · rw [Dev.keeps_shadowGone.f1 (by decide), Dev.consumeSpare_used]
  · rw [Dev.keeps_shadowGone.f1 (by decide), Dev.consumeSpare_retired]
    omega
  · rw [Dev.keeps_shadowGone.f1 (by decide), Dev.consumeSpare_cause]
  · exact Dev.b0_of_one ((Dev.keeps_shadowGone.f0 (by decide)).trans Dev.consumeSpare_autumn)

/-- The lane of a failed slice, without lock and with its link down. -/
def Dev.laneDown (d : Dev) (l : Nat) : Dev := (d.set1 .LANE_STATUS_CDR_LOCK l 0).linkDown (d.lanePort l) .pcsLock d.flapHold

/-- The shadow set on lane `g` of a cluster, to replace its slice. -/
def Dev.replacing (d : Dev) (c g now : Nat) : Dev :=
  (((d.setTurn c { d.turn c with prev := some g, phaseAt := now, kind := 3, deferred := 0 }).set1 .SHADOW_STATUS_TARGET c g).set1
    .SHADOW_STATUS_PHASE c 1).set1 .LANE_STATUS_TAPPED (4 * c + g) 1

theorem Dev.replacing_kind {c g now : Nat} : ((d.replacing c g now).turn c).kind = 3 := by
  have turned {e : Dev} {t : TurnSt} {i v w x : Nat} : ((((e.setTurn c t).set1 .SHADOW_STATUS_TARGET c v).set1
      .SHADOW_STATUS_PHASE c w).set1 .LANE_STATUS_TAPPED i x).turn c = t := Dev.turn_setTurn_same
  rw [Dev.replacing, turned]

/-- The cluster of a failed slice without its turn, and the shadow on its lane. -/
def Dev.takeoverBegun (d : Dev) (c g now : Nat) : Dev :=
  (((d.detach c).setBit .HLT_SUM_UNIT_REGION_UNIT 0 (c / 8) true).replacing c g now)

/-- The fields of a takeover that begins. -/
def takeoverFields : List Nat :=
  [Field.HLT_SUM_UNIT_REGION_UNIT.id, Field.SHADOW_STATUS_TARGET.id, Field.SHADOW_STATUS_PHASE.id, Field.LANE_STATUS_TAPPED.id] ++
    leaveFields

theorem Dev.keeps_takeoverBegun {c g now : Nat} : d.Keeps takeoverFields (fun _ => ()) (d.takeoverBegun c g now) := by
  have shown {e : Dev} {f : Field} {i v : Nat} (hf : f.id ∈ takeoverFields) : e.Keeps takeoverFields (fun _ => ()) (e.set1 f i v) :=
    Dev.keeps_setFld hf rfl
  have turned {e : Dev} {t : TurnSt} : e.Keeps takeoverFields (fun _ => ()) (e.setTurn c t) := ⟨rfl, fun _ _ _ _ => rfl⟩
  have detached : d.Keeps takeoverFields (fun _ => ()) (d.detach c) :=
    Dev.leaving_detach.mono (List.subset_append_right _ _) (fun _ => ())
  exact ((((detached.trans (shown (by decide))).trans turned).trans (shown (by decide))).trans (shown (by decide))).trans
    (shown (by decide))

/-- A slice that serves a lane of a cluster with its spare retires, and the shadow replaces it. -/
theorem Dev.isolateSlice_serving {c g sl : Nat} (hrep : ¬(d.f1 .SHADOW_STATUS_PHASE c = 1 ∧ (d.turn c).kind = 3))
    (hslice : d.f1 .SHADOW_STATUS_SLICE c ≠ sl) (hfree : d.b1 .SHADOW_STATUS_SPARE_USED c = false)
    (hserves : (List.range 4).find? (fun g => d.f1 .LANE_STATUS_SLICE (4 * c + g) == sl) = some g) :
    d.isolateSlice c sl = ((d.laneDown (4 * c + g)).takeoverBegun c g d.now).consumeSpare c g sl 3 .SHADOW_SLICE_RETIRED := by
  unfold Dev.isolateSlice
  dsimp only
  rw [if_neg (by simp [hrep]), if_neg (by simp [hslice]), if_neg hslice, hserves]
  dsimp only
  rw [if_neg (by simp [hfree])]
  rfl

theorem Dev.isolateSlice_exhausted {c g sl : Nat} (hrep : ¬(d.f1 .SHADOW_STATUS_PHASE c = 1 ∧ (d.turn c).kind = 3))
    (hslice : d.f1 .SHADOW_STATUS_SLICE c ≠ sl) (hused : d.b1 .SHADOW_STATUS_SPARE_USED c = true)
    (hserves : (List.range 4).find? (fun g => d.f1 .LANE_STATUS_SLICE (4 * c + g) == sl) = some g) :
    d.isolateSlice c sl = d.exhaustCluster c (4 * c + g) := by
  unfold Dev.isolateSlice
  dsimp only
  rw [if_neg (by simp [hrep]), if_neg (by simp [hslice]), if_neg hslice, hserves]
  dsimp only
  rw [if_pos hused]

theorem completes_sliceFaultIsolate_serving (c : Cluster) (x : Fin 5) (g : Fin 4) {s : State}
    (hrep : ¬(s.dev.f1 .SHADOW_STATUS_PHASE c = 1 ∧ (s.dev.turn c).kind = 3)) (hslice : s.dev.f1 .SHADOW_STATUS_SLICE c ≠ x.val)
    (hfree : s.dev.b1 .SHADOW_STATUS_SPARE_USED c = false) (hserves : s.dev.f1 .LANE_STATUS_SLICE (4 * c + g) = x.val)
    (hfirst : ∀ h < g.val, s.dev.f1 .LANE_STATUS_SLICE (4 * c + h) ≠ x.val) :
    Completes (.sliceFaultIsolate c [x]) s fun t => t.f1 .SHADOW_STATUS_SPARE_USED c = 1 ∧
      t.f1 .SHADOW_STATUS_PHASE c = 1 ∧ (t.turn c).kind = 3 ∧ t.f1 .SHADOW_STATUS_TARGET c = g.val ∧
      t.f1 .LANE_STATUS_CDR_LOCK (4 * c + g) = 0 ∧ t.linkUp (s.dev.lanePort (4 * c + g)) = false ∧
      t.f1 .SHADOW_RETIRED_SLICE c = x.val ∧ t.f1 .SHADOW_RETIRED_CAUSE c = 3 := by
  have found : (List.range 4).find? (fun g => s.dev.f1 .LANE_STATUS_SLICE (4 * c + g) == x.val) = some g.val := by
    rw [List.find?_range_eq_some]
    exact ⟨by simp [hserves], List.mem_range.2 g.isLt, fun j hj => by simp [hfirst j hj]⟩
  refine completes_of_eq (exec_sliceFaultIsolate_one c x s) ?_
  rw [Dev.isolateSlice_serving hrep hslice hfree found]
  refine ⟨Dev.consumeSpare_used, ?_, ?_, ?_, ?_, ?_, ?_, Dev.consumeSpare_cause⟩
  · rw [Dev.keeps_consumeSpare.f1 (by decide), Dev.takeoverBegun, Dev.replacing, Dev.f1_set1_ne (by decide), Dev.f1_set1_same]
    rfl
  · rw [Dev.keeps_consumeSpare.turn, Dev.takeoverBegun, Dev.replacing_kind]
  · rw [Dev.keeps_consumeSpare.f1 (by decide), Dev.takeoverBegun, Dev.replacing, Dev.f1_set1_ne (by decide),
      Dev.f1_set1_ne (by decide), Dev.f1_set1_same]
    exact Nat.mod_eq_of_lt g.isLt
  · rw [Dev.keeps_consumeSpare.f1 (by decide), Dev.keeps_takeoverBegun.f1 (by decide), Dev.laneDown,
      Dev.keeps_linkDown.f1 (by decide), Dev.f1_set1_same]
    rfl
  · rw [Dev.linkUp, Dev.keeps_consumeSpare.b1 (by decide), Dev.keeps_takeoverBegun.b1 (by decide)]
    exact Dev.linkUp_linkDown
  · rw [Dev.consumeSpare_retired]
    omega

theorem completes_sliceFaultIsolate_exhausted (c : Cluster) (x : Fin 5) (g : Fin 4) {s : State}
    (hrep : ¬(s.dev.f1 .SHADOW_STATUS_PHASE c = 1 ∧ (s.dev.turn c).kind = 3)) (hslice : s.dev.f1 .SHADOW_STATUS_SLICE c ≠ x.val)
    (hused : s.dev.b1 .SHADOW_STATUS_SPARE_USED c = true) (hserves : s.dev.f1 .LANE_STATUS_SLICE (4 * c + g) = x.val) :
    Completes (.sliceFaultIsolate c [x]) s fun t => t.regionIsolated (c / 8) = true := by
  have found : ((List.range 4).find? (fun g => s.dev.f1 .LANE_STATUS_SLICE (4 * c + g) == x.val)).isSome = true :=
    List.find?_isSome.2 ⟨g.val, List.mem_range.2 g.isLt, by simp [hserves]⟩
  obtain ⟨i, first⟩ := Option.isSome_iff_exists.1 found
  refine completes_of_eq (exec_sliceFaultIsolate_one c x s) ?_
  rw [Dev.isolateSlice_exhausted hrep hslice hused first]
  exact Dev.regionIsolated_isolateRegion (by omega)

/-! ### The shadow takes a lane over (R141) -/

theorem completes_shadowTakeoverLock (c : Cluster) (own : Int) {s : State} (hphase : s.dev.f1 .SHADOW_STATUS_PHASE c = 1)
    (hkind : (s.dev.turn c).kind = 3) :
    Completes (.shadowTakeoverLock c own) s fun t =>
      t.f1 .LANE_STATUS_SLICE (s.dev.turnLane c) = s.dev.f1 .SHADOW_STATUS_SLICE c % 8 ∧
      t.f1 .LANE_STATUS_CDR_LOCK (s.dev.turnLane c) = 1 ∧
      Map.get 0 (t.turn c).adapt (s.dev.turnLane c % 4) = own ∧
      t.f1 .SHADOW_STATUS_SLICE c = 7 ∧ (t.turn c).kind = 0 := by
  have outer {e : Dev} {f : Field} {i : Nat} (h1 : f.id ≠ Field.SHADOW_STATUS_SLICE.id) (h2 : f.id ∉ leaveFields) :
      ((e.detach c).set1 .SHADOW_STATUS_SLICE c 7).f1 f i = e.f1 f i := (Dev.f1_set1_ne h1).trans (Dev.detach_f1 h2)
  have turned {e : Dev} {t : TurnSt} : (((e.setTurn c t).detach c).set1 .SHADOW_STATUS_SLICE c 7).turn c = t :=
    Dev.turn_setTurn_same
  refine completes_of_run _ (exec_shadowTakeoverLock c own s) ?_
  dsimp only
  rw [if_neg (by simp [hphase, hkind]), turned]
  refine ⟨?_, ?_, Map.get_set_same 0 (s.dev.turn c).adapt (s.dev.turnLane c % 4) own, Dev.f1_set1_same _ _ _ _, rfl⟩
  · rw [outer (by decide) (by decide), Dev.f1_setTurn, Dev.f1_set1_ne (by decide), Dev.f1_set1_same]
    rfl
  · rw [outer (by decide) (by decide), Dev.f1_setTurn, Dev.f1_set1_same]
    rfl

/-! ### The partner's low-power idle (R121) -/

theorem completes_rxLpiChange (l : Lane) (on : Bool) (s : State) :
    Completes (.rxLpiChange l on) s fun t => t.f1 .LANE_STATUS_RX_LPI l =
      b2n (on && s.dev.b1 .MAC_CTRL_EEE_EN (s.dev.lanePort l) && s.dev.b1 .MAC_EEE_STATUS_NEGOTIATED (s.dev.lanePort l)) := by
  refine completes_of_run _ (exec_rxLpiChange l on s) ?_
  extract_lets p lpi d1 was now d2 d3 c ph
  have bit : b2n lpi % 2 = b2n lpi := by cases lpi <;> rfl
  have counted : d3.f1 .LANE_STATUS_RX_LPI l = d2.f1 .LANE_STATUS_RX_LPI l :=
    (Dev.Keeps.ite (Dev.quiet_macCount) (.refl d2)).f1 (by decide)
  have left : d3.Leaving (if lpi ∧ d3.turnLane c = l ∧ (ph = 1 ∨ ph = 2) then d3.abandonTurn c 1 else d3) :=
    .ite Dev.leaving_abandonTurn (.refl d3)
  refine (left.f1 (by decide)).trans (counted.trans ?_)
  rw [Dev.f1_set1_ne (by decide), Dev.f1_set1_same]
  exact bit

end

/-- Settles O30: a spare that is consumed writes its own fields, those of AUTUMN and reports (`Dev.keeps_consumeSpare`), and a turn
that ends writes none that it shows (`Dev.leaving_detach`). -/
theorem sliceSparing : Obligations.SliceSparing := by
  unfold Obligations.SliceSparing
  refine ⟨?verified, ?swapped, ?shadow, ?serving, ?exhausted, ?takeover, ?idle⟩
  case verified =>
    exact fun c _ _ _ _ hverified haligned hlimit hcharge =>
      completes_shadowVerifyEnd_spare c hverified.1 hverified.2 haligned hlimit hcharge
  case swapped => exact fun c _ hphase hdefer hkind hlpi _ => completes_laneSwap_spare c hphase hdefer hkind hlpi
  case shadow => exact fun c x _ hrep hslice hfree => completes_sliceFaultIsolate_shadow c x hrep hslice hfree
  case serving =>
    exact fun c x g _ hrep hslice hfree hserves hfirst =>
      completes_sliceFaultIsolate_serving c x g hrep hslice hfree hserves hfirst
  case exhausted =>
    exact fun c x g _ hrep hslice hused hserves => completes_sliceFaultIsolate_exhausted c x g hrep hslice hused hserves
  case takeover => exact fun c own _ hreplacing => completes_shadowTakeoverLock c own hreplacing.1 hreplacing.2
  case idle => exact fun l on s => completes_rxLpiChange l on s

end Sys2Proof.Machine
end

