-- ==== Sys2Proof/Proofs/ShadowTurns.lean ====
section
/-! The turn of a shadow slice (R128 to R138): its start on the next target, its adaptation, the verdict of its verification, the
swap and its deferrals, and the end of a turn that is undecided or abandoned. -/

namespace Sys2Proof.Machine

section
variable {d e : Dev} {c : Nat}

/-! ### The end of a turn (R133, R138) -/

/-- The phase that a turn leaves: STOPPED once the spare is consumed or rotation is disabled, else IDLE (Table 5-1). -/
def Dev.restPhase (d : Dev) (c : Nat) : Nat :=
  if d.b1 .SHADOW_STATUS_SPARE_USED c = true ∨ d.b1 .SHADOW_CTRL_ROTATE_EN c = false then 4 else 0

theorem Dev.restPhase_lt : d.restPhase c < 2 ^ Field.SHADOW_STATUS_PHASE.width := by
  unfold Dev.restPhase
  split <;> decide

theorem Dev.detach_restPhase : (d.detach c).f1 .SHADOW_STATUS_PHASE c = d.restPhase c := by
  have rest : (if d.b1 .SHADOW_STATUS_SPARE_USED c ∨ !d.b1 .SHADOW_CTRL_ROTATE_EN c then 4 else 0) = d.restPhase c := by
    simp only [Dev.restPhase, Bool.not_eq_true']
  unfold Dev.detach
  dsimp only
  rw [rest, Dev.f1_set1_ne (by decide), Dev.f1_set1_same, Nat.mod_eq_of_lt Dev.restPhase_lt]

theorem Dev.detach_tapped : (d.detach c).f1 .LANE_STATUS_TAPPED (d.turnLane c) = 0 := by
  unfold Dev.detach
  rw [Dev.f1_set1_ne (by decide), Dev.f1_set1_ne (by decide), Dev.f1_set1_same, Nat.zero_mod]

/-- The end of a turn writes the tap, the phase and RETRY alone. -/
theorem Dev.detach_f1_other {f : Field} {i : Nat}
    (hf : f.id ∉ [Field.LANE_STATUS_TAPPED.id, Field.SHADOW_STATUS_PHASE.id, Field.SHADOW_STATUS_RETRY.id]) :
    (d.detach c).f1 f i = d.f1 f i := by
  obtain ⟨htap, hphase, hretry⟩ : f.id ≠ Field.LANE_STATUS_TAPPED.id ∧ f.id ≠ Field.SHADOW_STATUS_PHASE.id ∧
      f.id ≠ Field.SHADOW_STATUS_RETRY.id := by simpa using hf
  exact (Dev.f1_set1_ne hretry).trans ((Dev.f1_set1_ne hphase).trans (Dev.f1_set1_ne htap))

section
variable {α : Type} {ids : List Nat} {view : Dev → α}

theorem Dev.Keeps.restPhase (h : d.Keeps ids view e) (hspare : Field.SHADOW_STATUS_SPARE_USED.id ∉ ids)
    (hrotate : Field.SHADOW_CTRL_ROTATE_EN.id ∉ ids) : e.restPhase c = d.restPhase c := by
  rw [Dev.restPhase, h.b1 hspare, h.b1 hrotate, Dev.restPhase]

theorem Dev.Keeps.turnLane (h : d.Keeps ids view e) (ht : Field.SHADOW_STATUS_TARGET.id ∉ ids) : e.turnLane c = d.turnLane c :=
  congrArg (4 * c + ·) (h.f1 ht)

end

/-- The turn of `d` has been abandoned in `e`: its tap is detached, its lane counts it, and no spare is consumed (R138). -/
def Dev.TurnAbandoned (d : Dev) (c : Nat) (e : Dev) : Prop :=
  e.f1 .SHADOW_STATUS_PHASE c = d.restPhase c ∧ e.f1 .LANE_STATUS_TAPPED (d.turnLane c) = 0 ∧
    e.f1 .SHADOW_STATUS_SPARE_USED c = d.f1 .SHADOW_STATUS_SPARE_USED c ∧
    e.f1 .LANE_ABANDONED (d.turnLane c) = satAdd 32 (d.f1 .LANE_ABANDONED (d.turnLane c)) 1

theorem Dev.turnAbandoned_abandonTurn {reason : Nat} (hfirst : 1 ≤ d.f1 .SHADOW_STATUS_PHASE c)
    (hlast : d.f1 .SHADOW_STATUS_PHASE c ≤ 3) (hkind : (d.turn c).kind ≠ 3) : d.TurnAbandoned c (d.abandonTurn c reason) := by
  have counted {g : Dev} {f : Field} {i l n : Nat} (h : f.id ≠ Field.LANE_ABANDONED.id) :
      (g.satInc .LANE_ABANDONED l 0 n).f1 f i = g.f1 f i := Dev.f1_set1_ne h
  unfold Dev.abandonTurn
  dsimp only
  rw [if_pos ⟨hfirst, hlast, hkind⟩]
  refine ⟨?phase, ?tap, ?spare, ?count⟩
  case phase => rw [Dev.sending_recordLimited.f1 (by decide), counted (by decide), Dev.detach_restPhase]
  case tap => rw [Dev.sending_recordLimited.f1 (by decide), counted (by decide), Dev.detach_tapped]
  case spare => rw [Dev.sending_recordLimited.f1 (by decide), counted (by decide), Dev.detach_f1_other (by decide)]
  case count =>
    rw [Dev.sending_recordLimited.f1 (by decide), Dev.f1_satInc, Dev.detach_f1_other (by decide)]
    rfl

theorem completes_shadowAdaptTimeout (c : Cluster) {s : State} (hphase : s.dev.f1 .SHADOW_STATUS_PHASE c = 1)
    (hkind : (s.dev.turn c).kind ≠ 3) (hdue : (s.dev.turn c).phaseAt + (s.dev.turn c).adaptMax * tMs ≤ s.dev.now) :
    Completes (.shadowAdaptTimeout c) s fun t => s.dev.TurnAbandoned c t := by
  refine completes_of_run _ (exec_shadowAdaptTimeout c s) ?_
  dsimp only
  rw [if_pos ⟨hphase, hdue⟩]
  exact Dev.turnAbandoned_abandonTurn (by omega) (by omega) hkind

theorem completes_swapDeferExhausted (c : Cluster) {s : State} (hphase : s.dev.f1 .SHADOW_STATUS_PHASE c = 3)
    (hkind : (s.dev.turn c).kind ≠ 3) (hdefer : 1000 ≤ (s.dev.turn c).deferred) :
    Completes (.swapDeferExhausted c) s fun t => s.dev.TurnAbandoned c t := by
  refine completes_of_run _ (exec_swapDeferExhausted c s) ?_
  rw [if_pos ⟨hphase, hdefer⟩]
  exact Dev.turnAbandoned_abandonTurn (by omega) (by omega) hkind

/-- An undecided turn counted at its lane, before a third in a row is told and the turn ends (R133). -/
def Dev.undecidedCounted (d : Dev) (c : Nat) : Dev :=
  let t := d.turn c
  let g := d.f1 .SHADOW_STATUS_TARGET c
  (d.setTurn c { t with undecided := Map.set 0 t.undecided g ((Map.get 0 t.undecided g + 1) % 3) }).satInc .LANE_UNDECIDED
    (d.turnLane c) 0 1

/-- An undecided turn counts at its lane and ends. -/
theorem Dev.undecided_ends {m cm cs : Nat} : ∃ g : Dev, (d.undecidedCounted c).Sending g ∧ d.undecided c m cm cs = g.detach c :=
  ⟨_, .ite (Dev.sending_record.trans Dev.sending_raise) (.refl (d.undecidedCounted c)), rfl⟩

theorem Dev.keeps_undecidedCounted : d.Keeps [Field.LANE_UNDECIDED.id] (fun _ => ()) (d.undecidedCounted c) :=
  (show d.Keeps _ _ (d.setTurn c _) from ⟨rfl, fun _ _ _ _ => rfl⟩).trans (Dev.keeps_setFld (by decide) rfl)

theorem Dev.undecided_ended {m cm cs : Nat} : (d.undecided c m cm cs).f1 .SHADOW_STATUS_PHASE c = d.restPhase c ∧
    (d.undecided c m cm cs).f1 .LANE_STATUS_TAPPED (d.turnLane c) = 0 ∧
    (d.undecided c m cm cs).f1 .LANE_UNDECIDED (d.turnLane c) = satAdd 32 (d.f1 .LANE_UNDECIDED (d.turnLane c)) 1 := by
  obtain ⟨g, told, ends⟩ := Dev.undecided_ends (d := d) (c := c) (m := m) (cm := cm) (cs := cs)
  rw [ends]
  refine ⟨?phase, ?tap, ?count⟩
  case phase =>
    rw [Dev.detach_restPhase, told.restPhase (by decide) (by decide), Dev.keeps_undecidedCounted.restPhase (by decide) (by decide)]
  case tap =>
    rw [← Dev.keeps_undecidedCounted.turnLane (c := c) (by decide), ← told.turnLane (by decide), Dev.detach_tapped]
  case count =>
    rw [Dev.detach_f1_other (by decide), told.f1 (by decide), Dev.undecidedCounted, Dev.f1_satInc, Dev.f1_setTurn]
    rfl

/-! ### The start of a turn (R128, R130) -/

/-- A turn of `d` has begun in `e` on group lane `g`: its tap is attached and it adapts from now on (R128). -/
def Dev.TurnBegun (d : Dev) (c g : Nat) (adv : Bool) (e : Dev) : Prop :=
  e.f1 .SHADOW_STATUS_TARGET c = g ∧ e.f1 .SHADOW_STATUS_PHASE c = 1 ∧ e.f1 .SHADOW_STATUS_ADVANCED c = b2n adv ∧
    e.f1 .LANE_STATUS_TAPPED (4 * c + g) = 1 ∧ (e.turn c).prev = some g ∧ (e.turn c).phaseAt = d.now ∧
    (e.turn c).startAt = some d.now

theorem b2n_mod_two (b : Bool) : b2n b % 2 = b2n b := by cases b <;> rfl

theorem Dev.turnBegun_startTurn {g : Nat} {adv : Bool} (hg : g < 4) (hnext : d.nextTarget c = some (g, adv)) :
    d.TurnBegun c g adv (d.startTurn c) := by
  have counted {x : Dev} {f : Field} {i : Nat} (h : f.id ≠ Field.SHADOW_TURNS.id) :
      (x.satInc .SHADOW_TURNS c 0 1).f1 f i = x.f1 f i := Dev.f1_set1_ne h
  have turned {x : Dev} {t : TurnSt} {a b i : Nat} : (((((((x.setTurn c t).set1 .SHADOW_STATUS_TARGET c g).set1
      .SHADOW_STATUS_PHASE c 1).set1 .SHADOW_STATUS_RETRY c 0).set1 .SHADOW_STATUS_ADVANCED c a).set1
      .LANE_STATUS_TAPPED i b).satInc .SHADOW_TURNS c 0 1).turn c = t := Dev.turn_setTurn_same
  unfold Dev.startTurn
  dsimp only
  rw [hnext]
  dsimp only
  refine ⟨?target, ?phase, ?advanced, ?tap, ?prev, ?since, ?start⟩
  case target =>
    rw [counted (by decide), Dev.f1_set1_ne (by decide), Dev.f1_set1_ne (by decide), Dev.f1_set1_ne (by decide),
      Dev.f1_set1_ne (by decide), Dev.f1_set1_same]
    exact Nat.mod_eq_of_lt hg
  case phase =>
    rw [counted (by decide), Dev.f1_set1_ne (by decide), Dev.f1_set1_ne (by decide), Dev.f1_set1_ne (by decide), Dev.f1_set1_same]
    rfl
  case advanced =>
    rw [counted (by decide), Dev.f1_set1_ne (by decide), Dev.f1_set1_same]
    exact b2n_mod_two adv
  case tap =>
    rw [counted (by decide), Dev.f1_set1_same]
    rfl
  case prev => rw [turned]
  case since => rw [turned]
  case start => rw [turned]

theorem completes_shadowTurnStart (c : Cluster) (g : Fin 4) {adv : Bool} {s : State} (hphase : s.dev.f1 .SHADOW_STATUS_PHASE c = 0)
    (hfirst : (s.dev.turn c).startAt = none) (hnext : s.dev.nextTarget c = some (g.val, adv)) :
    Completes (.shadowTurnStart c) s fun t => s.dev.TurnBegun c g adv t := by
  refine completes_of_run _ (exec_shadowTurnStart c s) ?_
  dsimp only
  rw [if_pos ⟨hphase, .inl (by rw [hfirst]; rfl)⟩]
  exact Dev.turnBegun_startTurn g.isLt hnext

/-! ### TURN_NOW (R130) -/

/-- ROTATE_EN of a cluster written as it stands. -/
def Dev.rotateRewritten (d : Dev) (c : Nat) : Dev := d.set1 .SHADOW_CTRL_ROTATE_EN c (b2n (d.b1 .SHADOW_CTRL_ROTATE_EN c))

theorem Dev.rotateRewritten_rotate {k : Nat} :
    (d.rotateRewritten c).b1 .SHADOW_CTRL_ROTATE_EN k = d.b1 .SHADOW_CTRL_ROTATE_EN k := by
  by_cases hk : k = c
  · rw [hk, Dev.rotateRewritten, Dev.b1_set1_same]
    cases d.b1 .SHADOW_CTRL_ROTATE_EN c <;> rfl
  · exact congrArg (fun x => decide (x ≠ 0)) (Dev.fld_setFld_other d _ _ c 0 k 0 _ (fun h => hk h.2.1))

theorem Dev.rotateRewritten_f1 {f : Field} {i : Nat} (h : f.id ≠ Field.SHADOW_CTRL_ROTATE_EN.id) :
    (d.rotateRewritten c).f1 f i = d.f1 f i := Dev.f1_set1_ne h

theorem Dev.rotateRewritten_laneEligible {l : Nat} : (d.rotateRewritten c).laneEligible l = d.laneEligible l := by
  have other {f : Field} {i : Nat} (h : f.id ≠ Field.SHADOW_CTRL_ROTATE_EN.id) :
      (d.rotateRewritten c).b1 f i = d.b1 f i := Dev.b1_set1_ne h
  have port : (d.rotateRewritten c).lanePort l = d.lanePort l := rfl
  have used {p : Nat} : (d.rotateRewritten c).portUsed p = d.portUsed p :=
    congrArg (fun m => decide (m ≠ 0)) (Dev.rotateRewritten_f1 (by decide))
  have winter : (d.rotateRewritten c).winter = d.winter := Dev.winter_set1 (by decide)
  unfold Dev.laneEligible
  simp (disch := decide) only [port, used, winter, Dev.linkUp, other, Dev.rotateRewritten_rotate]

theorem Dev.rotateRewritten_tempOff {l : Nat} : (d.rotateRewritten c).tempOff l = d.tempOff l := by
  have failed : (d.rotateRewritten c).hlt = d.hlt := rfl
  unfold Dev.tempOff Dev.clusterTemp
  simp (disch := decide) only [failed, Dev.rotateRewritten_f1]

theorem Dev.rotateRewritten_nextTarget : (d.rotateRewritten c).nextTarget c = d.nextTarget c := by
  have turned : (d.rotateRewritten c).turn c = d.turn c := rfl
  have advanced : (d.rotateRewritten c).advancedLane c = d.advancedLane c := by
    unfold Dev.advancedLane Dev.laneAdvanced
    simp (disch := decide) only [Dev.rotateRewritten_laneEligible, Dev.rotateRewritten_tempOff, Dev.rotateRewritten_f1]
  unfold Dev.nextTarget
  simp only [turned, advanced, Dev.rotateRewritten_laneEligible]

/-- No lane of a cluster whose rotation is disabled is eligible (R129), so no turn has a target. -/
theorem Dev.nextTarget_of_not_rotate (h : d.b1 .SHADOW_CTRL_ROTATE_EN c = false) : d.nextTarget c = none := by
  have barred {g : Nat} (hg : g < 4) : d.laneEligible (4 * c + g) = false := by
    have cluster : (4 * c + g) / 4 = c := by omega
    simp [Dev.laneEligible, cluster, h]
  have slow : d.advancedLane c = none := by
    have first : d.laneEligible (4 * c) = false := barred (g := 0) (by decide)
    simp [Dev.advancedLane, List.range_succ, Dev.laneAdvanced, barred, first]
  unfold Dev.nextTarget
  rw [slow]
  simp only [Option.map_eq_none_iff, List.find?_eq_none, List.mem_map]
  rintro _ ⟨i, -, rfl⟩
  simp [barred (Nat.mod_lt _ (by decide : 0 < 4))]

theorem Dev.writeShadowCtrl_turnNow {x : Nat × Bool} (hphase : d.f1 .SHADOW_STATUS_PHASE c = 0) (hnext : d.nextTarget c = some x) :
    d.writeShadowCtrl c true false (d.b1 .SHADOW_CTRL_ROTATE_EN c) = (d.rotateRewritten c).startTurn c := by
  have rotates : d.b1 .SHADOW_CTRL_ROTATE_EN c = true := by
    by_contra h
    rw [Dev.nextTarget_of_not_rotate (by simpa using h)] at hnext
    cases hnext
  have idle : (d.rotateRewritten c).f1 .SHADOW_STATUS_PHASE c = 0 := (Dev.rotateRewritten_f1 (by decide)).trans hphase
  have target : ((d.rotateRewritten c).nextTarget c).isSome = true := by rw [Dev.rotateRewritten_nextTarget, hnext]; rfl
  have stays : ¬((!d.b1 .SHADOW_CTRL_ROTATE_EN c) = true ∧ (d.rotateRewritten c).f1 .SHADOW_STATUS_PHASE c = 0) := by
    simp [rotates]
  unfold Dev.writeShadowCtrl
  dsimp only
  rw [← Dev.rotateRewritten, if_neg Bool.false_ne_true, if_neg stays, if_pos ⟨rfl, idle, target⟩]

theorem completes_shadowTurnNow (m : Master) (c : Cluster) (g : Fin 4) {adv : Bool} {s : State}
    (hopen : s.dev.Open m (Reg.SHADOW_CTRL.addr c 0)) (hphase : s.dev.f1 .SHADOW_STATUS_PHASE c = 0)
    (hnext : s.dev.nextTarget c = some (g.val, adv)) :
    Completes (.shadowTurnNow m c) s fun t => s.dev.TurnBegun c g adv t ∧ t.reg.last = .ok 0 := by
  refine completes_of_run _ (exec_shadowTurnNow m c s) ?_
  rw [Dev.onWrite_open _ _ _ _ _ _ hopen, Dev.writeShadowCtrl_turnNow hphase hnext]
  exact ⟨Dev.turnBegun_startTurn (d := s.dev.rotateRewritten c) g.isLt (Dev.rotateRewritten_nextTarget.trans hnext), rfl⟩

/-! ### Adaptation and verification (R128, R132 to R135) -/

theorem completes_shadowAdaptDone (c : Cluster) {s : State} (hphase : s.dev.f1 .SHADOW_STATUS_PHASE c = 1)
    (hkind : (s.dev.turn c).kind ≠ 3) (htime : s.dev.now < (s.dev.turn c).phaseAt + (s.dev.turn c).adaptMax * tMs) :
    Completes (.shadowAdaptDone c) s fun t => t.f1 .SHADOW_STATUS_PHASE c = 2 ∧ (t.turn c).phaseAt = s.dev.now := by
  refine completes_of_run _ (exec_shadowAdaptDone c s) ?_
  dsimp only
  rw [if_pos ⟨hphase, hkind, htime⟩]
  exact ⟨Dev.f1_set1_same _ _ _ _, congrArg TurnSt.phaseAt Dev.turn_setTurn_same⟩

/-- A verification that has taken its time ends. -/
def State.Verified (s : State) (c : Nat) : Prop :=
  s.dev.f1 .SHADOW_STATUS_PHASE c = 2 ∧
    (s.dev.turn c).phaseAt + verifyTicks (s.dev.portMode (s.dev.lanePort (s.dev.turnLane c))) (s.dev.turn c).log2 ≤ s.dev.now

/-- The two measurements of the shadow's latency agree and are in range (R135). -/
def Dev.Aligned (d : Dev) (c : Nat) (a own : Int) : Prop :=
  (a - d.swapShift c own).natAbs * 1000 ≤ 3200 ∧ a.natAbs ≤ 256 ∧ (d.swapShift c own).natAbs ≤ 256

theorem Dev.not_aligned_iff {a own : Int} : ¬d.Aligned c a own ↔
    3200 < (a - d.swapShift c own).natAbs * 1000 ∨ 256 < a.natAbs ∨ 256 < (d.swapShift c own).natAbs := by
  unfold Dev.Aligned
  omega

theorem Dev.verified_mismatch {l : Nat} {k : Nat × Nat × Nat} : (d.verified c l k).f1 .LANE_LAST_MISMATCH l = min k.1 (2 ^ 32 - 1) := by
  have noted : (d.set1 .LANE_LAST_MISMATCH l (min k.1 (2 ^ 32 - 1))).f1 .LANE_LAST_MISMATCH l = min k.1 (2 ^ 32 - 1) :=
    (Dev.f1_set1_same _ _ _ _).trans (Nat.mod_eq_of_lt ((Nat.min_le_right _ _).trans_lt (by decide)))
  unfold Dev.verified
  dsimp only
  split
  · exact (Dev.f1_set1_ne (by decide)).trans noted
  · exact noted

theorem Dev.verified_fails {l : Nat} {k : Nat × Nat × Nat} (hcharge : 4 * k.2.1 ≤ k.2.2) :
    (d.verified c l k).f1 .SHADOW_FAILS c = satAdd 32 (d.f1 .SHADOW_FAILS c) 1 := by
  unfold Dev.verified
  dsimp only
  rw [if_pos hcharge, Dev.f1_satInc, Dev.f1_set1_ne (by decide)]
  rfl

/-- A turn of a cluster that adapts once more, from `now` on (R133). -/
def Dev.retried (d : Dev) (c now : Nat) : Dev :=
  ((d.setTurn c { d.turn c with phaseAt := now }).set1 .SHADOW_STATUS_PHASE c 1).set1 .SHADOW_STATUS_RETRY c 1

section
variable {seen : VerifySeen} {a own : Int} {s : State}

theorem completes_shadowVerifyEnd_swap (c : Cluster) (hended : s.Verified c) (haligned : s.dev.Aligned c a own)
    (hlimit : (chargeOf seen).1 < (s.dev.turn c).limit) :
    Completes (.shadowVerifyEnd c seen a own) s fun t => t.f1 .SHADOW_STATUS_PHASE c = 3 ∧ (t.turn c).kind = 0 ∧
      (t.turn c).latency = own ∧ t.f1 .LANE_LAST_MISMATCH (s.dev.turnLane c) = min (chargeOf seen).1 (2 ^ 32 - 1) := by
  obtain ⟨hphase, hdue⟩ := hended
  have near := mt Dev.not_aligned_iff.2 (not_not_intro haligned)
  unfold Dev.swapShift at near
  have ended : exec (.shadowVerifyEnd c seen a own) s =
      .next (s.on (((s.dev.verified c (s.dev.turnLane c) (chargeOf seen)).decided c).swapReady c 0 own)) := by
    rw [exec_shadowVerifyEnd, execShadowVerifyEnd, State.run_eq]
    dsimp only
    rw [← Dev.turnLane, if_neg (by omega), if_neg near, if_pos hlimit]
    rfl
  refine completes_of_eq ended ⟨Dev.f1_set1_same _ _ _ _, congrArg TurnSt.kind Dev.turn_setTurn_same,
    congrArg TurnSt.latency Dev.turn_setTurn_same, ?_⟩
  rw [Dev.swapReady, Dev.f1_set1_ne (by decide), Dev.f1_setTurn, Dev.decided, Dev.f1_setTurn, Dev.verified_mismatch]

theorem completes_shadowVerifyEnd_undecided (c : Cluster) (hended : s.Verified c) (hfar : ¬s.dev.Aligned c a own) :
    Completes (.shadowVerifyEnd c seen a own) s fun t => t.f1 .SHADOW_STATUS_PHASE c = s.dev.restPhase c ∧
      t.f1 .LANE_STATUS_TAPPED (s.dev.turnLane c) = 0 ∧
      t.f1 .LANE_UNDECIDED (s.dev.turnLane c) = satAdd 32 (s.dev.f1 .LANE_UNDECIDED (s.dev.turnLane c)) 1 := by
  obtain ⟨hphase, hdue⟩ := hended
  have far := Dev.not_aligned_iff.1 hfar
  unfold Dev.swapShift at far
  have ended : exec (.shadowVerifyEnd c seen a own) s = .next (s.on ((s.dev.verified c (s.dev.turnLane c) (chargeOf seen)).undecided c
      (chargeOf seen).1 (chargeOf seen).2.1 (chargeOf seen).2.2)) := by
    rw [exec_shadowVerifyEnd, execShadowVerifyEnd, State.run_eq]
    dsimp only
    rw [← Dev.turnLane, if_neg (by omega), if_pos far]
    rfl
  obtain ⟨phase, tap, count⟩ := Dev.undecided_ended (d := s.dev.verified c (s.dev.turnLane c) (chargeOf seen)) (c := c)
    (m := (chargeOf seen).1) (cm := (chargeOf seen).2.1) (cs := (chargeOf seen).2.2)
  rw [Dev.keeps_verified.restPhase (by decide) (by decide)] at phase
  rw [Dev.keeps_verified.turnLane (by decide)] at tap count
  rw [Dev.keeps_verified.f1 (by decide)] at count
  exact completes_of_eq ended ⟨phase, tap, count⟩

theorem completes_shadowVerifyEnd_retry (c : Cluster) (hended : s.Verified c) (haligned : s.dev.Aligned c a own)
    (hlimit : (s.dev.turn c).limit ≤ (chargeOf seen).1) (hserving : (chargeOf seen).2.1 < 4 * (chargeOf seen).2.2)
    (hcharge : 4 * (chargeOf seen).2.1 ≤ (chargeOf seen).2.2) (hretry : s.dev.b1 .SHADOW_STATUS_RETRY c = false) :
    Completes (.shadowVerifyEnd c seen a own) s fun t => t.f1 .SHADOW_STATUS_PHASE c = 1 ∧ t.f1 .SHADOW_STATUS_RETRY c = 1 ∧
      (t.turn c).phaseAt = s.dev.now ∧ t.f1 .SHADOW_FAILS c = satAdd 32 (s.dev.f1 .SHADOW_FAILS c) 1 := by
  obtain ⟨hphase, hdue⟩ := hended
  have near := mt Dev.not_aligned_iff.2 (not_not_intro haligned)
  unfold Dev.swapShift at near
  have first : (!(s.dev.verified c (s.dev.turnLane c) (chargeOf seen)).b1 .SHADOW_STATUS_RETRY c) = true := by
    rw [Dev.keeps_verified.b1 (by decide), hretry]
    rfl
  have ended : exec (.shadowVerifyEnd c seen a own) s =
      .next (s.on ((s.dev.verified c (s.dev.turnLane c) (chargeOf seen)).retried c s.dev.now)) := by
    rw [exec_shadowVerifyEnd, execShadowVerifyEnd, State.run_eq]
    dsimp only
    rw [← Dev.turnLane, if_neg (by omega), if_neg near, if_neg (by omega), if_neg (by omega), if_pos hcharge]
    exact congrArg (fun x => Host.Outcome.next (s.on x)) (if_pos first)
  refine completes_of_eq ended ⟨?phase, Dev.f1_set1_same _ _ _ _, ?since, ?fails⟩
  case phase => exact (Dev.f1_set1_ne (by decide)).trans (Dev.f1_set1_same _ _ _ _)
  case since => exact congrArg TurnSt.phaseAt Dev.turn_setTurn_same
  case fails => rw [Dev.retried, Dev.f1_set1_ne (by decide), Dev.f1_set1_ne (by decide), Dev.f1_setTurn, Dev.verified_fails hcharge]

end

/-! ### Swaps (R134 to R136) -/

/-- The fields of a lane that changes its slice. -/
def swapFields : List Nat := [Field.LANE_STATUS_SLICE.id, Field.LANE_SWAPS.id] ++ laneFields

theorem Dev.keeps_swapped {l : Nat} : d.Keeps swapFields (fun _ => ()) (d.swapped c l) := by
  have turned {t : TurnSt} : d.Keeps swapFields (fun _ => ()) (d.setTurn c t) := ⟨rfl, fun _ _ _ _ => rfl⟩
  have served {x : Dev} {f : Field} {v : Nat} (hf : f.id ∈ swapFields) : x.Keeps swapFields (fun _ => ()) (x.set1 f l v) :=
    Dev.keeps_setFld hf rfl
  have adapted {x : Dev} : x.Keeps swapFields (fun _ => ()) ((x.calibrated l).adaptRx l) :=
    (Dev.lanesOnly_calibrated.trans Dev.lanesOnly_adaptRx).mono (List.subset_append_right _ _) id
  exact ((turned.trans (served (by decide))).trans (served (by decide))).trans adapted

theorem Dev.swapped_swaps {l : Nat} : (d.swapped c l).f1 .LANE_SWAPS l = satAdd 32 (d.f1 .LANE_SWAPS l) 1 := by
  unfold Dev.swapped
  dsimp only
  rw [(Dev.lanesOnly_calibrated.trans Dev.lanesOnly_adaptRx).f1 (by decide), Dev.f1_satInc, Dev.f1_set1_ne (by decide), Dev.f1_setTurn]
  rfl

theorem completes_laneSwap_ordinary (c : Cluster) {s : State} (hphase : s.dev.f1 .SHADOW_STATUS_PHASE c = 3)
    (hdefer : (s.dev.turn c).deferred < 1000) (hkind : (s.dev.turn c).kind ≠ 1)
    (hlpi : s.dev.b1 .LANE_STATUS_RX_LPI (s.dev.turnLane c) = false) :
    Completes (.laneSwap c false) s fun t =>
      t.f1 .LANE_STATUS_SLICE (s.dev.turnLane c) = s.dev.f1 .SHADOW_STATUS_SLICE c % 8 ∧
      t.f1 .SHADOW_STATUS_SLICE c = s.dev.f1 .LANE_STATUS_SLICE (s.dev.turnLane c) % 8 ∧
      t.f1 .SHADOW_STATUS_PHASE c = s.dev.restPhase c ∧
      t.f1 .LANE_SWAPS (s.dev.turnLane c) = satAdd 32 (s.dev.f1 .LANE_SWAPS (s.dev.turnLane c)) 1 := by
  have swapped : exec (.laneSwap c false) s = .next (s.on (((s.dev.swapped c (s.dev.turnLane c)).detach c).set1
      .SHADOW_STATUS_SLICE c (s.dev.f1 .LANE_STATUS_SLICE (s.dev.turnLane c)))) := by
    rw [exec_laneSwap, execLaneSwap, State.run_eq]
    dsimp only
    rw [← Dev.turnLane, if_neg (by omega), if_neg (by simp [hlpi]), if_neg hkind]
    rfl
  refine completes_of_eq swapped ⟨?serves, Dev.f1_set1_same _ _ _ _, ?phase, ?count⟩
  case serves => rw [Dev.f1_set1_ne (by decide), Dev.detach_f1 (by decide), Dev.swapped_slice]
  case phase =>
    rw [Dev.f1_set1_ne (by decide), Dev.detach_restPhase, Dev.keeps_swapped.restPhase (by decide) (by decide)]
  case count => rw [Dev.f1_set1_ne (by decide), Dev.detach_f1 (by decide), Dev.swapped_swaps]

theorem completes_laneSwap_deferred (c : Cluster) {bad : Bool} {s : State} (hphase : s.dev.f1 .SHADOW_STATUS_PHASE c = 3)
    (hdefer : (s.dev.turn c).deferred < 1000) (hwait : bad = true ∨ s.dev.b1 .LANE_STATUS_RX_LPI (s.dev.turnLane c) = true) :
    Completes (.laneSwap c bad) s fun t =>
      (t.turn c).deferred = (s.dev.turn c).deferred + 1 ∧ t.flds = s.dev.flds := by
  refine completes_of_run _ (exec_laneSwap c bad s) ?_
  dsimp only
  rw [← Dev.turnLane, if_neg (by omega), if_pos hwait]
  exact ⟨congrArg TurnSt.deferred Dev.turn_setTurn_same, rfl⟩

end

/-- Settles O29: a turn that begins shows its target (`Dev.turnBegun_startTurn`), a turn that ends rests in the phase that its
cluster's spare and rotation give (`Dev.detach_restPhase`), and the verdicts of a verification differ in the turn they leave. -/
theorem shadowTurns : Obligations.ShadowTurns := by
  unfold Obligations.ShadowTurns
  refine ⟨?start, ?now, ?adapted, ?timeout, ?good, ?undecided, ?retry, ?swap, ?deferred, ?exhausted⟩
  case start => exact fun c g _ _ hphase hfirst hnext => completes_shadowTurnStart c g hphase hfirst hnext
  case now => exact fun m c g _ _ hopen hphase hnext => completes_shadowTurnNow m c g hopen hphase hnext
  case adapted => exact fun c _ hphase hkind htime => completes_shadowAdaptDone c hphase hkind htime
  case timeout => exact fun c _ hphase hkind hdue => completes_shadowAdaptTimeout c hphase hkind hdue
  case good => exact fun c _ _ _ _ hended haligned hlimit => completes_shadowVerifyEnd_swap c hended haligned hlimit
  case undecided => exact fun c _ _ _ _ hended hfar => completes_shadowVerifyEnd_undecided c hended hfar
  case retry =>
    exact fun c _ _ _ _ hended haligned hlimit hserving hcharge hretry =>
      completes_shadowVerifyEnd_retry c hended haligned hlimit hserving hcharge hretry
  case swap => exact fun c _ hphase hdefer hkind hlpi _ => completes_laneSwap_ordinary c hphase hdefer hkind hlpi
  case deferred => exact fun c _ _ hphase hdefer hwait => completes_laneSwap_deferred c hphase hdefer hwait
  case exhausted => exact fun c _ hphase hkind hdefer => completes_swapDeferExhausted c hphase hkind hdefer

end Sys2Proof.Machine
end

