-- ==== Sys2Proof/Proofs/Memories.lean ====
section
/-! What messages leave alone of the memories: reports, the frames and messages that ports send, the pair's SYNC records and a
cause of AUTUMN change no entry of a table, of the TCAM, of the automata or of the actions, and none of their counters
(R354, R390, R397). -/

namespace Sys2Proof.Machine

/-! ### What stands -/

/-- The counters of the tables, the TCAM, the automata and the actions. -/
def Ctr.ofMemory (c : Ctr) : Bool :=
  decide (c.block ∈ [.TBL_SCNT, .TBL_RCNT, .TCM_SCNT, .TCM_RCNT, .AUT_CNT, .ACT_CNT, .MTR_CNT])

def Dev.memoryCtr (d : Dev) (c : Ctr) (i : Nat) : Nat := if c.ofMemory then d.ctr c i else 0

/-- The tables, the search memories, the actions, the image, the words in error, and the counters of these. -/
def Dev.memoryView (d : Dev) : TblSt × SearchSt × ActSt × ImgSt × WordSt × (Ctr → Nat → Nat) :=
  (d.tbl, d.search, d.act, d.img, d.words, d.memoryCtr)

/-- Devices have at most reported, sent frames and messages or changed their health from one to the other. -/
abbrev Dev.Messaged (d e : Dev) : Prop := d.Keeps autumnFields Dev.memoryView e

section
variable {d e : Dev}

theorem Dev.Keeps.tbl (h : d.Messaged e) : e.tbl = d.tbl := congrArg (fun v => v.1) h.view

theorem Dev.Keeps.memoryCounter (h : d.Messaged e) {c : Ctr} {i : Nat} (hc : c.ofMemory = true) : e.ctr c i = d.ctr c i := by
  have view : e.memoryCtr c i = d.memoryCtr c i := congrFun (congrFun (congrArg (fun v => v.2.2.2.2.2) h.view) c) i
  simpa only [Dev.memoryCtr, hc, if_true] using view

theorem Dev.memoryCtr_congr (h : ∀ (c : Ctr) (i : Nat), c.ofMemory = true → e.ctr c i = d.ctr c i) :
    e.memoryCtr = d.memoryCtr := by
  funext c i
  unfold Dev.memoryCtr
  split
  · exact h c i ‹_›
  · rfl

/-! ### Reports, counts and tables -/

theorem Dev.Reports.messaged (h : d.Reports e) (hc : d.Uncounted e) : d.Messaged e := by
  refine h.keeps (by decide) ?_
  have counted : e.memoryCtr = d.memoryCtr :=
    Dev.memoryCtr_congr (fun c i hm => hc c i (fun hb => by simp [Ctr.ofMemory, hb] at hm))
  simp only [Dev.memoryView, h.tbl, h.search, h.act, h.img, h.words, counted]

theorem Dev.messaged_setFld {f : Field} {i j v : Nat} (hf : f.id ∈ autumnFields) : d.Messaged (d.setFld f i j v) :=
  Dev.keeps_setFld hf rfl

theorem Dev.messaged_countN {c : Ctr} {i n : Nat} (hc : c.ofMemory = false) : d.Messaged (d.countN c i n) where
  view := by
    have counted : (d.countN c i n).memoryCtr = d.memoryCtr :=
      Dev.memoryCtr_congr (fun g j hg => Dev.ctr_countN_ne (fun e => by simp [e, hc] at hg))
    exact congrArg (fun x => (d.tbl, d.search, d.act, d.img, d.words, x)) counted
  fld _ _ _ _ := rfl

theorem Dev.messaged_raise {s : Nat} : d.Messaged (d.raise s) := (Dev.reports_raise d s).messaged Dev.uncounted_raise

theorem Dev.messaged_doorbell {b : Nat} : d.Messaged (d.doorbell b) :=
  (Dev.reports_doorbell d b).messaged Dev.uncounted_doorbell

theorem Dev.messaged_record {c : EvCode} {k i : Nat} {p : Bytes} : d.Messaged (d.record c k i p) :=
  (Dev.reports_record d c k i p).messaged Dev.uncounted_record

theorem Dev.messaged_emit {o : Output} : d.Messaged (d.emit o) := ⟨rfl, fun _ _ _ _ => rfl⟩

theorem Dev.messaged_mac {m : Map MacSt} : d.Messaged { d with mac := m } := ⟨rfl, fun _ _ _ _ => rfl⟩

theorem Dev.messaged_buf {b : BufSt} : d.Messaged { d with buf := b } := ⟨rfl, fun _ _ _ _ => rfl⟩

theorem Dev.messaged_pmc {x : PmcSt} : d.Messaged { d with pmc := x } := ⟨rfl, fun _ _ _ _ => rfl⟩

theorem Dev.messaged_mbx {x : MbxSt} : d.Messaged { d with mbx := x } := ⟨rfl, fun _ _ _ _ => rfl⟩

theorem Dev.messaged_fab {x : FabSt} : d.Messaged { d with fab := x } := ⟨rfl, fun _ _ _ _ => rfl⟩

theorem Dev.messaged_pair {x : PairSt} : d.Messaged { d with pair := x } := ⟨rfl, fun _ _ _ _ => rfl⟩

/-! ### Frames that a port sends, and the references to their cells -/

theorem Ctr.ofMemory_mac {c : Ctr} (h : c.block = .MAC_STAT) : c.ofMemory = false := by simp [Ctr.ofMemory, h]

theorem Dev.messaged_macCountN {c : Ctr} {p n : Nat} (hc : c.block = .MAC_STAT) : d.Messaged (d.macCountN c p n) := by
  have counted : d.Messaged (d.countN c p n) := Dev.messaged_countN (Ctr.ofMemory_mac hc)
  exact .ite (.refl d) (.ite (counted.trans Dev.messaged_raise) counted)

theorem Dev.messaged_noteSent {p len kind : Nat} : d.Messaged (d.noteSent p len kind) := by
  unfold Dev.noteSent
  exact (((((Dev.messaged_macCountN rfl).trans (Dev.messaged_macCountN rfl)).trans (Dev.messaged_macCountN rfl)).trans
    (Dev.messaged_macCountN rfl)).trans Dev.messaged_pmc).trans Dev.messaged_mac

theorem Dev.messaged_sendPause {p c quanta : Nat} : d.Messaged (d.sendPause p c quanta) := by
  have sent {o : Output} : d.Messaged ((d.noteSent p 64 1).emit o) := Dev.messaged_noteSent.trans Dev.messaged_emit
  exact .ite (.refl d) (.ite (sent.trans (.foldl (fun _ _ => .ite (Dev.messaged_macCountN rfl) (.refl _)) _ _))
    (.ite (sent.trans (Dev.messaged_macCountN rfl)) (.refl d)))

theorem Dev.messaged_checkXon {p c : Nat} : d.Messaged (d.checkXon p c) :=
  .ite (((Dev.messaged_setFld (by decide)).trans Dev.messaged_mac).trans Dev.messaged_sendPause) (.refl d)

theorem Dev.messaged_freeRequest {id by_ : Nat} : d.Messaged (d.freeRequest id by_) := by
  unfold Dev.freeRequest
  split
  · exact .refl d
  · exact .ite (Dev.messaged_buf.trans Dev.messaged_checkXon) ((Dev.messaged_countN (by decide)).trans Dev.messaged_record)

theorem Dev.messaged_release {id port : Nat} : d.Messaged (d.release id port) := by
  have dropped : d.Messaged (d.dropRef id port) := by
    unfold Dev.dropRef
    split
    · exact .refl d
    · exact .ite Dev.messaged_buf Dev.messaged_buf
  exact .ite (dropped.trans Dev.messaged_freeRequest) dropped

theorem Dev.messaged_startFrom {p fuel : Nat} : d.Messaged (Dev.startFrom p fuel d) := by
  induction fuel generalizing d with
  | zero => exact .refl d
  | succ n ih =>
    refine .ite (.refl d) ?_
    split
    · exact .refl d
    · split
      · exact .ite (((Dev.messaged_buf.trans (Dev.messaged_macCountN rfl)).trans Dev.messaged_release).trans ih)
          (Dev.messaged_buf.trans Dev.messaged_buf)
      · exact Dev.messaged_mac
      · exact .refl d

theorem Dev.messaged_sendMsg {p proto type len : Nat} {fields : List Nat} : d.Messaged (d.sendMsg p proto type len fields) := by
  have woken {g : Dev} : g.Messaged (g.startWake p) := .ite Dev.messaged_mac (.refl g)
  unfold Dev.sendMsg
  exact .ite ((Dev.messaged_mac.trans woken).trans Dev.messaged_startFrom) (.refl d)

/-! ### Messages for the host, the fabric and the partner -/

theorem Dev.messaged_notice {opcode : Nat} {payload : List Nat} : d.Messaged (d.notice opcode payload) := by
  have lost {g : Dev} {m dir seq : Nat} : g.Messaged (g.noteLost m dir seq) := by
    unfold Dev.noteLost
    exact Dev.messaged_mbx.trans Dev.messaged_doorbell
  have full {g : Dev} {m : Nat} : g.Messaged (g.satInc .MBX_F2H_STATUS_LOST_COUNT m 0 1) := Dev.messaged_setFld (by decide)
  have posted {g : Dev} {m : Nat} {msg : Msg} : g.Messaged (g.f2hPost m msg) := by
    unfold Dev.f2hPost
    exact .ite (Dev.messaged_mbx.trans (Dev.messaged_setFld (by decide)))
      ((full.trans (Dev.messaged_countN (by decide))).trans lost)
  unfold Dev.notice
  exact Dev.messaged_mbx.trans posted

theorem Dev.messaged_floodNotice {code : Nat} : d.Messaged (d.floodNotice code) := by
  have told {g : Dev} {p type len : Nat} {fields : List Nat} : g.Messaged (g.fabControl p type len fields) := by
    unfold Dev.fabControl
    exact Dev.messaged_fab.trans Dev.messaged_sendMsg
  exact .foldl (fun g _ => .ite told (.refl g)) _ _

theorem Dev.messaged_pairSend {v kind epoch len : Nat} {body : List Nat} : d.Messaged (d.pairSend v kind epoch len body) := by
  unfold Dev.pairSend
  split
  · exact .refl d
  · exact Dev.messaged_pair.trans Dev.messaged_sendMsg

theorem Dev.messaged_syncRow {row : Nat} {entry : Bytes} : d.Messaged (d.syncRow row entry) :=
  .ite ((Dev.messaged_countN (by decide)).trans Dev.messaged_pairSend) (.refl d)

/-! ### AUTUMN (R397) -/

theorem Dev.messaged_setHealth {st code : Nat} : d.Messaged (d.setHealth st code) := by
  have shown : d.Messaged (((d.set0 .HLT_STATE_PREV d.health).set0 .HLT_STATE_STATE st).set0 .HLT_STATE_SECS (d.opMs / 1000)) :=
    ((Dev.messaged_setFld (by decide)).trans (Dev.messaged_setFld (by decide))).trans (Dev.messaged_setFld (by decide))
  exact ((shown.trans Dev.messaged_doorbell).trans Dev.messaged_notice).trans Dev.messaged_raise

theorem Dev.messaged_enterAutumn {code : Nat} : d.Messaged (d.enterAutumn code) := by
  have told {x : Pins} {y : FabSt} : d.Messaged { d with pins := x, fab := y } := ⟨rfl, fun _ _ _ _ => rfl⟩
  exact ((told.trans Dev.messaged_setHealth).trans Dev.messaged_record).trans Dev.messaged_floodNotice

theorem Dev.messaged_autumn {f : Field} {code : EvCode} (hf : f.id ∈ autumnFields) : d.Messaged (d.autumn f code) := by
  have pins {e : Dev} {x : Pins} : e.Messaged { e with pins := x } := ⟨rfl, fun _ _ _ _ => rfl⟩
  have caused : d.Messaged { (d.set0 f 1) with hlt := { d.hlt with lastCode := code.code } } :=
    ⟨rfl, fun g i j hg => Dev.fld_setFld_id d f g 0 0 i j 1 (fun e => hg (e ▸ hf))⟩
  exact .ite (caused.trans Dev.messaged_enterAutumn) (.ite (caused.trans pins) caused)

end

end Sys2Proof.Machine
end

