-- ==== Sys2Proof/Proofs/TableRows.lean ====
section
/-! Rows of the layer-2 table (R177, R186, R197): what a row that takes an entry leaves alone, what a lookup finds, the search for
a free row, and the relocation that is brought to its end. -/

namespace Sys2Proof.Machine

/-! ### Entries of a sparse table -/

section
variable {V : Type} {m : Map V} {k : Nat} {v d : V}

theorem Map.mem_of_find? (h : Map.find? m k = some v) : (k, v) ∈ m := by
  induction m with
  | nil => cases h
  | cons x m ih =>
    obtain ⟨a, w⟩ := x
    unfold Map.find? at h
    split at h
    · next hak =>
      obtain rfl := Option.some.inj h
      exact hak ▸ List.mem_cons_self
    · exact List.mem_cons_of_mem _ (ih h)

theorem Map.mem_of_get (h : Map.get d m k = v) (hv : v ≠ d) : (k, v) ∈ m := by
  unfold Map.get at h
  cases hfind : Map.find? m k with
  | none => exact absurd (by simpa [hfind] using h.symm) hv
  | some w =>
    rw [hfind, Option.getD_some] at h
    exact h ▸ Map.mem_of_find? hfind

theorem Map.find?_of_mem (hs : Map.sorted m = true) (h : (k, v) ∈ m) : Map.find? m k = some v := by
  rw [Map.sorted_pairwise] at hs
  induction m with
  | nil => cases h
  | cons x m ih =>
    obtain ⟨hlt, hs⟩ := List.pairwise_cons.1 hs
    unfold Map.find?
    rcases List.mem_cons.1 h with rfl | h
    · exact if_pos rfl
    · rw [if_neg (hlt _ h).ne, ih hs h]

theorem Map.get_of_mem (hs : Map.sorted m = true) (h : (k, v) ∈ m) : Map.get d m k = v := by
  rw [Map.get, Map.find?_of_mem hs h, Option.getD_some]

end

section
variable {d e : Dev}

/-! ### A row that takes an entry (R390) -/

/-- The tables may have changed from one device to the other; the image stands, and every field that messages leave alone. -/
abbrev Dev.Retabled (d e : Dev) : Prop := d.Keeps autumnFields Dev.img e

theorem Dev.Keeps.retabled (h : d.Messaged e) : d.Retabled e := h.mono (List.Subset.refl _) (fun v => v.2.2.2.1)

theorem Dev.retabled_tbl {x : TblSt} : d.Retabled { d with tbl := x } := ⟨rfl, fun _ _ _ _ => rfl⟩

theorem Dev.retabled_count {c : Ctr} {i : Nat} : d.Retabled (d.count c i) := ⟨rfl, fun _ _ _ _ => rfl⟩

/-- The row takes the entry; the rest is the SYNC record. -/
theorem Dev.messaged_setL2 {r : Nat} {x : Option L2Entry} :
    Dev.Messaged { d with tbl := { d.tbl with l2 := Map.set none d.tbl.l2 r x } } (d.setL2 r x) := by
  unfold Dev.setL2
  exact .ite (.refl _) Dev.messaged_syncRow

@[simp] theorem Dev.setL2_tbl {r : Nat} {x : Option L2Entry} :
    (d.setL2 r x).tbl = { d.tbl with l2 := Map.set none d.tbl.l2 r x } := Dev.messaged_setL2.tbl

@[simp] theorem Dev.l2Row_setL2_same {r : Nat} {x : Option L2Entry} : (d.setL2 r x).l2Row r = x := by
  rw [Dev.l2Row, Dev.setL2_tbl]
  exact Map.get_set_same _ _ _ _

theorem Dev.l2Row_setL2_ne {r k : Nat} {x : Option L2Entry} (h : k ≠ r) : (d.setL2 r x).l2Row k = d.l2Row k := by
  rw [Dev.l2Row, Dev.setL2_tbl]
  exact Map.get_set_other _ _ _ _ _ _ h

theorem Dev.ctr_setL2 {r i : Nat} {x : Option L2Entry} {c : Ctr} (hc : c.ofMemory = true) :
    (d.setL2 r x).ctr c i = d.ctr c i := Dev.messaged_setL2.memoryCounter hc

theorem Dev.retabled_setL2 {r : Nat} {x : Option L2Entry} : d.Retabled (d.setL2 r x) :=
  Dev.retabled_tbl.trans Dev.messaged_setL2.retabled

@[simp] theorem Dev.l2Row_setReloc {r : Option Reloc} {k : Nat} : (d.setReloc r).l2Row k = d.l2Row k := rfl

@[simp] theorem Dev.l2Row_count {c : Ctr} {i k : Nat} : (d.count c i).l2Row k = d.l2Row k := rfl

@[simp] theorem Dev.ctr_setReloc {r : Option Reloc} {c : Ctr} {i : Nat} : (d.setReloc r).ctr c i = d.ctr c i := rfl

/-! ### Rows that are cleared -/

/-- The rows that a list names are invalidated. -/
def Dev.clearRows (d : Dev) (l : Map (Option L2Entry)) : Dev := l.foldl (fun d x => d.setL2 x.1 none) d

theorem Dev.retabled_clearRows {l : Map (Option L2Entry)} : d.Retabled (d.clearRows l) :=
  .foldl (fun _ _ => Dev.retabled_setL2) l d

theorem Dev.l2Row_clearRows {l : Map (Option L2Entry)} {r : Nat} :
    (d.clearRows l).l2Row r = if r ∈ Map.keys l then none else d.l2Row r := by
  induction l generalizing d with
  | nil => rfl
  | cons x l ih =>
    rw [Dev.clearRows, List.foldl_cons, ← Dev.clearRows, ih]
    have keys : Map.keys (x :: l) = x.1 :: Map.keys l := rfl
    by_cases hx : r = x.1
    · rw [hx, Dev.l2Row_setL2_same, ite_self, keys, if_pos List.mem_cons_self]
    · rw [Dev.l2Row_setL2_ne hx, keys]
      exact if_congr (List.mem_cons.trans (or_iff_right hx)).symm rfl rfl

/-- An entry that stands after the rows of some entries were cleared is none of those. -/
theorem Dev.not_of_clearRows {gone : L2Entry → Bool} {r : Nat} {x : L2Entry}
    (h : (d.clearRows (d.tbl.l2.filter (fun y => y.2.any gone))).l2Row r = some x) : gone x = false := by
  rw [Dev.l2Row_clearRows] at h
  split at h
  · cases h
  · next hkept =>
    by_contra hgone
    have listed : (r, some x) ∈ d.tbl.l2 := Map.mem_of_get h (by simp)
    exact hkept (List.mem_map.2 ⟨(r, some x), List.mem_filter.2 ⟨listed, by simpa using hgone⟩, rfl⟩)

/-- An entry that is none of those whose rows are cleared stands; in a sorted table a row is listed once. -/
theorem Dev.clearRows_stands {gone : L2Entry → Bool} {r : Nat} {x : L2Entry} (hs : Map.sorted d.tbl.l2 = true)
    (hrow : d.l2Row r = some x) (hgone : gone x = false) :
    (d.clearRows (d.tbl.l2.filter (fun y => y.2.any gone))).l2Row r = some x := by
  rw [Dev.l2Row_clearRows, if_neg ?_, hrow]
  intro hmem
  obtain ⟨⟨k, y⟩, hy, rfl⟩ := List.mem_map.1 hmem
  obtain ⟨listed, going⟩ := List.mem_filter.1 hy
  have same : d.l2Row k = y := Map.get_of_mem hs listed
  obtain rfl : y = some x := same.symm.trans hrow
  simp [hgone] at going

/-! ### Lookups and free rows (R177, R186) -/

theorem Dev.l2Row_of_l2Find {mac vid r : Nat} {x : L2Entry} (h : d.l2Find mac vid = some (r, x)) : d.l2Row r = some x := by
  obtain ⟨k, -, hk⟩ := List.exists_of_findSome?_eq_some h
  split at hk
  · split at hk
    · obtain ⟨rfl, rfl⟩ := Prod.mk.inj (Option.some.inj hk)
      assumption
    · cases hk
  · cases hk

/-- The search for a path reads the rows and the image alone. -/
theorem Dev.pathOf_congr (hl2 : e.tbl.l2 = d.tbl.l2) (hexact : e.tbl.exact = d.tbl.exact) (himg : e.img = d.img) (t n r : Nat)
    (seen : List Nat) : e.pathOf t n r seen = d.pathOf t n r seen := by
  have l2 (k : Nat) : e.l2Row k = d.l2Row k := by rw [Dev.l2Row, hl2, Dev.l2Row]
  have ex (g k : Nat) : e.exRow g k = d.exRow g k := by rw [Dev.exRow, hexact, Dev.exRow]
  have carve (i : Nat) : e.carve i = d.carve i := by rw [Dev.carve, Dev.section, himg, Dev.carve, Dev.section]
  have free (k : Nat) : e.rowFree t k = d.rowFree t k := by rw [Dev.rowFree, l2, ex, Dev.rowFree]
  have locked (k : Nat) : e.rowLocked t k = d.rowLocked t k := by rw [Dev.rowLocked, l2, ex, Dev.rowLocked]
  have cands (k : Nat) : e.rowCands t k = d.rowCands t k := by
    simp only [Dev.rowCands, l2, ex, Dev.l2Cands, Dev.exCands, Dev.l2Rows, Dev.exactRows, carve]
  induction n generalizing r seen with
  | zero => rw [Dev.pathOf, free, Dev.pathOf]
  | succ n ih => simp only [Dev.pathOf, free, locked, cands, ih]

theorem Dev.findPath_congr (hl2 : e.tbl.l2 = d.tbl.l2) (hexact : e.tbl.exact = d.tbl.exact) (himg : e.img = d.img) (t : Nat)
    (l : List Nat) : e.findPath t l = d.findPath t l := by
  simp only [Dev.findPath, Dev.pathOf_congr hl2 hexact himg]

/-- An entry whose candidate set has a free row takes it at once. -/
theorem Dev.place_free {t row : Nat} {l : List Nat} {x : Option L2Entry} {y : Option ExEntry} {back : Option (Nat × Bytes)}
    (h : d.findPath t l = some [row]) : d.place t l x y back =
      some (d.relocEnd { table := t, moves := [], open_ := none, target := row, l2 := x, ex := y, back := back }) := by
  rw [Dev.place, h]
  rfl

/-! ### Relocation (R185 to R187, R197) -/

theorem Dev.settle_of_none (h : d.tbl.reloc = none) : d.settle = d := by
  unfold Dev.settle
  rw [h]

theorem Dev.retabled_moveWrite {t a b : Nat} : d.Retabled (d.moveWrite t a b) := by
  unfold Dev.moveWrite
  split
  · split
    · exact Dev.retabled_setL2.trans Dev.retabled_setL2
    · exact .refl d
  · split
    · exact Dev.retabled_tbl.trans Dev.retabled_tbl
    · exact .refl d

theorem Dev.retabled_moveDrop {t a b : Nat} : d.Retabled (d.moveDrop t a b) := by
  unfold Dev.moveDrop
  refine Dev.Keeps.trans ?_ Dev.retabled_count
  split
  · split
    · exact Dev.retabled_setL2.trans Dev.retabled_setL2
    · exact Dev.retabled_setL2
  · split
    · exact Dev.retabled_tbl.trans Dev.retabled_tbl
    · exact Dev.retabled_tbl

theorem Dev.retabled_relocWrite {r : Reloc} : d.Retabled (d.relocWrite r) := by
  unfold Dev.relocWrite
  split
  · exact Dev.retabled_setL2
  · exact Dev.retabled_tbl
  · exact .refl d

theorem Dev.reports_tblDone {n i st row : Nat} {desc data : Bytes} : d.Reports (d.tblDone n i desc st row data) :=
  Dev.reports_ite ((Dev.reports_emit d _).trans (Dev.reports_raise _ _)) (Dev.reports_emit d _)

theorem Dev.retabled_tblDone {n i st row : Nat} {desc data : Bytes} : d.Retabled (d.tblDone n i desc st row data) :=
  Dev.reports_tblDone.keeps (by decide) Dev.reports_tblDone.img

theorem Dev.retabled_relocEnd {r : Reloc} : d.Retabled (d.relocEnd r) := by
  have written : d.Retabled ((d.relocWrite r).setReloc none) := Dev.retabled_relocWrite.trans Dev.retabled_tbl
  unfold Dev.relocEnd
  dsimp only
  split
  · exact written.trans Dev.retabled_count
  · exact written.trans Dev.retabled_tblDone

theorem Dev.retabled_settle : d.Retabled d.settle := by
  have moved {g : Dev} {t : Nat} {l : List (Nat × Nat)} :
      g.Retabled (l.foldl (fun d m => (d.moveWrite t m.1 m.2).moveDrop t m.1 m.2) g) :=
    .foldl (fun _ _ => Dev.retabled_moveWrite.trans Dev.retabled_moveDrop) l g
  unfold Dev.settle
  split
  · exact .refl d
  · dsimp only
    split
    · exact moved.trans Dev.retabled_relocEnd
    · exact (Dev.retabled_moveDrop.trans moved).trans Dev.retabled_relocEnd

end

end Sys2Proof.Machine
end

