-- ==== Sys2Proof/Proofs/TableRings.lean ====
section
/-! Transactions of the table rings (R195 to R197): what a sound descriptor that is taken leaves, what halts a ring, and the
obligation on them (O35). -/

namespace Sys2Proof.Machine

/-! ### Descriptors -/

/-- The ring of region `n` takes a sound descriptor of operation `op`, and no relocation runs. -/
def Dev.Takes (d : Dev) (n op : Nat) (desc next : Bytes) : Prop :=
  d.tblReady n = true ∧ leAt desc 0 1 = op ∧ d.tblBad desc next = false ∧ tblNextBad desc next = false ∧ d.tbl.reloc = none

/-- The descriptor at HEAD of region `n`'s ring is written back, and HEAD has moved on. -/
def Dev.Wrote (d : Dev) (n : Nat) (desc next : Bytes) (status row : Nat) (data : Bytes) (t : Dev) : Prop :=
  Output.hostWrite (d.tblAddr n (d.f1 .TBL_RING_HEAD n)) (tblBack desc status row (data.take 48)) ∈ t.out ∧
  t.f1 .TBL_RING_HEAD n = (d.f1 .TBL_RING_HEAD n + (if tblCont desc next then 2 else 1)) %
    max 1 (d.f1 .TBL_RING_SIZE n) % 2 ^ 32

/-- The device after the ring of region `n` has answered a descriptor with `r`. -/
def Dev.tblAnswered (d : Dev) (n op : Nat) (desc next : Bytes) (r : Dev × Option (Nat × Nat × Bytes)) : Dev :=
  let d1 := r.1.tblAdvance n (if tblCont desc next then 2 else 1)
  match r.2 with
  | none => d1
  | some (st, row, data) =>
    let d2 := d1.tblDone n (d.f1 .TBL_RING_HEAD n) desc st row (data.take 48)
    if tblCont desc next ∧ op ≠ 2 ∧ op ≠ 3 then
      d2.emit (.hostWrite (d.tblAddr n (d.f1 .TBL_RING_HEAD n + 1)) (patch next 0x10 (data.drop 48)))
    else d2

section
variable {d e : Dev} {n op st row : Nat} {desc next data : Bytes}

theorem Dev.tblOrder_of_none (h : d.tbl.reloc = none) : d.tblOrder n = d := by
  unfold Dev.tblOrder
  rw [h]

theorem Dev.retabled_tblOrder : d.Retabled (d.tblOrder n) := by
  unfold Dev.tblOrder
  split
  · exact .ite Dev.retabled_settle (.refl d)
  · exact .refl d

theorem Dev.tblTake_of_takes {f : Dev → Nat → Dev × Option (Nat × Nat × Bytes)} (h : d.Takes n op desc next) :
    d.tblTake n op desc next f = d.tblAnswered n op desc next (f d (d.f1 .TBL_RING_HEAD n)) := by
  obtain ⟨hready, hop, hbad, hnext, hreloc⟩ := h
  unfold Dev.tblTake
  rw [if_neg (by simp [hready, hop]), if_neg (by simp [hbad, hnext]), Dev.tblOrder_of_none hreloc]
  rfl

/-! ### HEAD and the descriptor that is written back -/

theorem Dev.tblAdvance_head {k : Nat} : (d.tblAdvance n k).f1 .TBL_RING_HEAD n =
    (d.f1 .TBL_RING_HEAD n + k) % max 1 (d.f1 .TBL_RING_SIZE n) % 2 ^ 32 := Dev.f1_set1_same _ _ _ _

theorem Dev.keeps_tblAdvance {k : Nat} : d.Keeps [Field.TBL_RING_HEAD.id] Dev.tbl (d.tblAdvance n k) :=
  Dev.keeps_setFld List.mem_cons_self rfl

theorem Dev.Keeps.tblAddr {α : Type} {ids : List Nat} {view : Dev → α} (h : d.Keeps ids view e)
    (hhi : Field.TBL_RING_BASE_HI.id ∉ ids) (hlo : Field.TBL_RING_BASE_LO.id ∉ ids) {i : Nat} : e.tblAddr n i = d.tblAddr n i := by
  rw [Dev.tblAddr, h.f1 hhi, h.f1 hlo, Dev.tblAddr]

theorem Dev.mem_out_tblDone {i : Nat} :
    Output.hostWrite (d.tblAddr n i) (tblBack desc st row data) ∈ (d.tblDone n i desc st row data).out := by
  unfold Dev.tblDone
  dsimp only
  split
  · exact Dev.out_raise List.mem_cons_self
  · exact List.mem_cons_self

theorem Dev.tblAdvance_head_of_retabled (h : d.Retabled e) {k : Nat} : (e.tblAdvance n k).f1 .TBL_RING_HEAD n =
    (d.f1 .TBL_RING_HEAD n + k) % max 1 (d.f1 .TBL_RING_SIZE n) % 2 ^ 32 := by
  rw [Dev.tblAdvance_head, h.f1 (by decide), h.f1 (by decide)]

/-- An answer with a status is written back. -/
theorem Dev.wrote_tblAnswered (h : d.Retabled e) :
    d.Wrote n desc next st row data (d.tblAnswered n op desc next (e, some (st, row, data))) := by
  have addr {k i : Nat} : (e.tblAdvance n k).tblAddr n i = d.tblAddr n i := by
    rw [Dev.keeps_tblAdvance.tblAddr (by decide) (by decide), h.tblAddr (by decide) (by decide)]
  have head {k : Nat} : ((e.tblAdvance n k).tblDone n (d.f1 .TBL_RING_HEAD n) desc st row (data.take 48)).f1 .TBL_RING_HEAD n =
      (d.f1 .TBL_RING_HEAD n + k) % max 1 (d.f1 .TBL_RING_SIZE n) % 2 ^ 32 :=
    (Dev.reports_tblDone.fld _ _ _ (by decide)).trans (Dev.tblAdvance_head_of_retabled h)
  unfold Dev.tblAnswered
  dsimp only
  split
  · exact ⟨List.mem_cons_of_mem _ (addr ▸ Dev.mem_out_tblDone), head⟩
  · exact ⟨addr ▸ Dev.mem_out_tblDone, head⟩

theorem Dev.tblAnswered_tbl {r : Dev × Option (Nat × Nat × Bytes)} : (d.tblAnswered n op desc next r).tbl = r.1.tbl := by
  unfold Dev.tblAnswered
  dsimp only
  split
  · rfl
  · split
    · exact Dev.reports_tblDone.tbl
    · exact Dev.reports_tblDone.tbl

/-- A command of a ring that takes its descriptor completes with the tables of its answer, which is written back. -/
theorem completes_answered {c : Instr} {s : State} {f : Dev → Nat → Dev × Option (Nat × Nat × Bytes)} {P : Dev → Prop}
    (hexec : exec c s = s.run fun d => d.tblTake n op desc next f) (h : s.dev.Takes n op desc next)
    (hf : f s.dev (s.dev.f1 .TBL_RING_HEAD n) = (e, some (st, row, data))) (hkept : s.dev.Retabled e)
    (hP : ∀ t, t.tbl = e.tbl → s.dev.Wrote n desc next st row data t → P t) : Completes c s P := by
  refine completes_of_run _ hexec ?_
  rw [Dev.tblTake_of_takes h, hf]
  exact hP _ Dev.tblAnswered_tbl (Dev.wrote_tblAnswered hkept)

/-- An answer that sets a layer-2 row. -/
theorem completes_answered_setL2 {c : Instr} {s : State} {f : Dev → Nat → Dev × Option (Nat × Nat × Bytes)} {r : Nat}
    {x : Option L2Entry} (hexec : exec c s = s.run fun d => d.tblTake n op desc next f) (h : s.dev.Takes n op desc next)
    (hf : f s.dev (s.dev.f1 .TBL_RING_HEAD n) = (s.dev.setL2 r x, some (st, row, data))) :
    Completes c s fun t => t.l2Row r = x ∧ s.dev.Wrote n desc next st row data t := by
  refine completes_answered hexec h hf Dev.retabled_setL2 fun t htbl hback => ⟨?_, hback⟩
  rw [Dev.l2Row, htbl]
  exact Dev.l2Row_setL2_same

/-! ### READ_ROW and WRITE_ROW -/

theorem Dev.clearHit_unasked {t g : Nat} (h : bitOf (leAt desc 2 1) 1 = false) : d.clearHit t g row desc = d := by
  rw [Dev.clearHit, h]
  rfl

section
variable {s : State}

theorem completes_tblReadRow_hop (n : Region) (h : s.dev.Takes n 1 desc next) (ht : leAt desc 1 1 = 4) :
    Completes (.tblReadRow n desc next []) s fun t => t.tbl = s.dev.tbl ∧ s.dev.Wrote n desc next 1 (leAt desc 4 4)
      (((s.dev.hop (leAt desc 0xB 1) (leAt desc 4 4)).map hopBytes).getD [] ++ List.replicate 48 0) t := by
  refine completes_answered (exec_tblReadRow n desc next [] s) h ?_ (.refl _) fun t htbl hback => ⟨htbl, hback⟩
  dsimp only
  rw [if_neg (by omega), if_pos ht]
  rfl

theorem completes_tblReadRow_entry (n : Region) (h : s.dev.Takes n 1 desc next) (ht : leAt desc 1 1 = 0 ∨ leAt desc 1 1 = 3)
    (hclear : bitOf (leAt desc 2 1) 1 = false) :
    Completes (.tblReadRow n desc next []) s fun t =>
      let e := s.dev.readEntry (leAt desc 1 1) (leAt desc 0xB 1) (leAt desc 4 4)
      t.tbl = s.dev.tbl ∧ s.dev.Wrote n desc next (if e.2 then stMoving else stOk) (leAt desc 4 4) e.1 t := by
  refine completes_answered (exec_tblReadRow n desc next [] s) h ?_ (.refl _) fun t htbl hback => ⟨htbl, hback⟩
  dsimp only
  rw [if_pos ht, Dev.clearHit_unasked hclear]
  rfl

@[simp] theorem Dev.hop_setHop_same {g i : Nat} {x : Option NextHop} : (d.setHop g i x).hop g i = x := Map.get_set_same _ _ _ _

theorem completes_tblWriteRow_hop (n : Region) (h : s.dev.Takes n 2 desc next) (ht : leAt desc 1 1 = 4) :
    Completes (.tblWriteRow n desc next) s fun t =>
      t.hop (leAt desc 0xB 1) (leAt desc 4 4) = hopOf (tblData desc next) ∧
      s.dev.Wrote n desc next 1 (leAt desc 4 4) (tblData desc next) t := by
  have kept : s.dev.Retabled (s.dev.setHop (leAt desc 0xB 1) (leAt desc 4 4) (hopOf (tblData desc next))) := Dev.retabled_tbl
  refine completes_answered (exec_tblWriteRow n desc next s) h ?_ kept fun t htbl hback => ⟨?_, hback⟩
  · obtain ⟨-, -, -, -, hreloc⟩ := h
    dsimp only
    rw [Dev.settle_of_none hreloc, if_neg (by omega), if_neg (by omega), if_pos ht]
    rfl
  · rw [Dev.hop, htbl, ← Dev.hop, Dev.hop_setHop_same]

theorem completes_tblWriteRow_l2 (n : Region) (h : s.dev.Takes n 2 desc next) (ht : leAt desc 1 1 = 0)
    (hvalid : bitOf (leAt (tblData desc next) 8 1) 0 = true)
    (hcand : leAt desc 4 4 ∈ s.dev.l2Cands (l2Of (tblData desc next)).mac (l2Of (tblData desc next)).vid) :
    Completes (.tblWriteRow n desc next) s fun t => t.l2Row (leAt desc 4 4) = some (l2Of (tblData desc next)) ∧
      s.dev.Wrote n desc next 1 (leAt desc 4 4) (tblData desc next) t := by
  refine completes_answered_setL2 (exec_tblWriteRow n desc next s) h ?_
  obtain ⟨-, -, -, -, hreloc⟩ := h
  dsimp only
  rw [Dev.settle_of_none hreloc, if_pos ht, if_neg (by simp [hvalid]), if_pos hcand]
  rfl

/-! ### INSERT, DELETE and LOOKUP -/

theorem Dev.keyReads_nil {t g : Nat} : d.keyReads n t g data [] = d := by
  unfold Dev.keyReads
  split
  · rfl
  · rfl

/-- The layer-2 entry of an INSERT: the descriptor's, locked where its LOCK flag says so. -/
def insertedL2 (desc next : Bytes) : L2Entry :=
  { l2Of (tblData desc next) with lock := (l2Of (tblData desc next)).lock || bitOf (leAt desc 2 1) 0 }

theorem completes_tblInsert_replaces (n : Region) {r : Nat} {x : L2Entry} (h : s.dev.Takes n 3 desc next) (ht : leAt desc 1 1 = 0)
    (hfind : s.dev.l2Find (beAt (tblData desc next) 0 6) (leAt (tblData desc next) 6 2 % 4096) = some (r, x)) :
    Completes (.tblInsert n desc next []) s fun t => t.l2Row r = some (insertedL2 desc next) ∧
      s.dev.Wrote n desc next 3 r (tblData desc next) t := by
  refine completes_answered_setL2 (exec_tblInsert n desc next [] s) h ?_
  obtain ⟨-, -, -, -, hreloc⟩ := h
  have found : s.dev.l2Find (l2Of (tblData desc next)).mac (l2Of (tblData desc next)).vid = some (r, x) := hfind
  dsimp only
  rw [Dev.settle_of_none hreloc, Dev.keyReads_nil, if_pos ht, found]
  rfl

/-- The relocation without moves that an INSERT into a free row is. -/
def insertReloc (n i row : Nat) (desc next : Bytes) : Reloc :=
  { table := 4, moves := [], open_ := none, target := row, l2 := some (insertedL2 desc next), ex := none
    back := some (k2 n i, desc) }

theorem Dev.relocEnd_insert {i : Nat} : d.relocEnd (insertReloc n i row desc next) =
    ((d.setL2 row (some (insertedL2 desc next))).setReloc none).tblDone n i desc stOk row (slice desc 0x10 48) := by
  unfold Dev.relocEnd insertReloc
  dsimp only
  rw [k2, Nat.unpair_pair]
  rfl

theorem slice_length (bs : Bytes) (o k : Nat) : (slice bs o k).length = k := List.takeD_length _ _ _

theorem completes_tblInsert_free (n : Region) {row : Nat} (h : s.dev.Takes n 3 desc next) (ht : leAt desc 1 1 = 0)
    (hnew : s.dev.l2Find (l2Of (tblData desc next)).mac (l2Of (tblData desc next)).vid = none)
    (hfree : s.dev.findPath 4 (s.dev.l2Cands (l2Of (tblData desc next)).mac (l2Of (tblData desc next)).vid) = some [row]) :
    Completes (.tblInsert n desc next []) s fun t => t.l2Row row = some (insertedL2 desc next) ∧
      s.dev.Wrote n desc next 1 row (slice desc 0x10 48) t := by
  have kept : s.dev.Retabled ((s.dev.setL2 row (some (insertedL2 desc next))).setReloc none) :=
    Dev.retabled_setL2.trans Dev.retabled_tbl
  have inserted : exec (.tblInsert n desc next []) s = .next (s.on (s.dev.tblAnswered n 3 desc next
      (s.dev.relocEnd (insertReloc n (s.dev.f1 .TBL_RING_HEAD n) row desc next), none))) := by
    rw [exec_tblInsert, execTblInsert, State.run_eq, Dev.tblTake_of_takes h]
    obtain ⟨-, -, -, -, hreloc⟩ := h
    dsimp only
    rw [Dev.settle_of_none hreloc, Dev.keyReads_nil, if_pos ht, hnew, Dev.place_free hfree]
    rfl
  refine completes_of_eq inserted ?_
  rw [Dev.relocEnd_insert]
  refine ⟨?row, ?back, ?head⟩
  case row =>
    rw [Dev.l2Row, Dev.tblAnswered_tbl, Dev.reports_tblDone.tbl, ← Dev.l2Row, Dev.l2Row_setReloc, Dev.l2Row_setL2_same]
  case back =>
    rw [List.take_of_length_le (slice_length _ _ _).le, ← kept.tblAddr (by decide) (by decide)]
    exact Dev.mem_out_tblDone
  case head => exact Dev.tblAdvance_head_of_retabled (kept.trans Dev.retabled_tblDone)

theorem completes_tblDelete (n : Region) {r : Nat} {x : L2Entry} (h : s.dev.Takes n 4 desc next) (ht : leAt desc 1 1 = 0)
    (hfind : s.dev.l2Find (beAt (tblData desc next) 0 6) (leAt (tblData desc next) 6 2 % 4096) = some (r, x)) :
    Completes (.tblDelete n desc next []) s fun t => t.l2Row r = none ∧
      s.dev.Wrote n desc next 1 r (tblData desc next) t := by
  refine completes_answered_setL2 (exec_tblDelete n desc next [] s) h ?_
  obtain ⟨-, -, -, -, hreloc⟩ := h
  dsimp only
  rw [Dev.settle_of_none hreloc, Dev.keyReads_nil, if_pos ht, hfind]
  rfl

theorem leBytes_length (k v : Nat) : (leBytes k v).length = k := by
  induction k generalizing v with
  | zero => rfl
  | succ k ih => rw [leBytes, List.length_cons, ih]

theorem l2Bytes_length (x : L2Entry) : (l2Bytes x).length = 48 := by
  simp only [l2Bytes, beBytes, List.length_append, List.length_reverse, leBytes_length, List.length_replicate]

theorem Dev.readEntry_l2 {g r : Nat} {x : L2Entry} (h : d.l2Row r = some x) :
    d.readEntry 0 g r = (l2Bytes x ++ List.replicate 16 0, x.moving) := by
  rw [Dev.readEntry, if_pos rfl, h]

theorem completes_tblLookup (n : Region) {r : Nat} {x : L2Entry} (h : s.dev.Takes n 5 desc next) (ht : leAt desc 1 1 = 0)
    (hfind : s.dev.l2Find (beAt (tblData desc next) 0 6) (leAt (tblData desc next) 6 2 % 4096) = some (r, x))
    (hstill : x.moving = false) (hclear : bitOf (leAt desc 2 1) 1 = false) :
    Completes (.tblLookup n desc next []) s fun t => t.tbl = s.dev.tbl ∧ s.dev.Wrote n desc next 1 r (l2Bytes x) t := by
  have back : (l2Bytes x ++ List.replicate 16 0).take 48 = (l2Bytes x).take 48 :=
    List.take_append_of_le_length (l2Bytes_length x).ge
  refine completes_answered (exec_tblLookup n desc next [] s) h (st := 1) (row := r) (data := l2Bytes x ++ List.replicate 16 0) ?_
    (.refl _) fun t htbl hback => ⟨htbl, by rwa [Dev.Wrote, ← back]⟩
  dsimp only
  rw [Dev.keyReads_nil, ht, if_pos rfl, hfind]
  dsimp only [Option.map_some]
  rw [Dev.readEntry_l2 (Dev.l2Row_of_l2Find hfind), Dev.clearHit_unasked hclear]
  dsimp only
  rw [hstill]
  rfl

/-! ### FLUSH -/

/-- The bits that a mask of a FLUSH selects in which a value differs from the one asked for. -/
def maskedDiff (data : Bytes) (v off : Nat) : Nat := Nat.land (Nat.xor v (leAt data off 2)) (leAt data (off + 4) 2)

/-- The entries that a FLUSH invalidates: dynamic and unlocked ones whose DEST and VID match. -/
def flushed (data : Bytes) (x : L2Entry) : Bool :=
  !x.static_ && !x.lock && maskedDiff data x.dest 0 == 0 && maskedDiff data x.vid 2 == 0

theorem flushed_iff {x : L2Entry} : flushed data x = true ↔
    x.static_ = false ∧ x.lock = false ∧ maskedDiff data x.dest 0 = 0 ∧ maskedDiff data x.vid 2 = 0 := by
  simp only [flushed, Bool.and_eq_true, Bool.not_eq_true', beq_iff_eq, and_assoc]

theorem completes_tblFlush (n : Region) (h : s.dev.Takes n 9 desc next) (hs : Map.sorted s.dev.tbl.l2 = true) :
    Completes (.tblFlush n desc next) s fun t =>
      (∀ r x, t.l2Row r = some x → flushed (tblData desc next) x = false) ∧
      (∀ r x, s.dev.l2Row r = some x → flushed (tblData desc next) x = false → t.l2Row r = some x) ∧
      s.dev.Wrote n desc next 1 (leAt desc 4 4) (tblData desc next) t := by
  refine completes_answered (exec_tblFlush n desc next s) h ?_
    (Dev.retabled_clearRows (l := s.dev.tbl.l2.filter (fun y => y.2.any (flushed (tblData desc next)))))
    fun t htbl hback => ⟨fun r x hrow => ?_, fun r x hrow hkept => ?_, hback⟩
  · obtain ⟨-, -, -, -, hreloc⟩ := h
    dsimp only
    rw [Dev.settle_of_none hreloc]
    rfl
  · rw [Dev.l2Row, htbl] at hrow
    exact Dev.not_of_clearRows hrow
  · rw [Dev.l2Row, htbl]
    exact Dev.clearRows_stands hs hrow hkept

/-! ### Descriptors that halt the ring, and RESTART (R196) -/

/-- The ring of region `n` stands halted at index `i`. -/
def Dev.HaltedAt (t : Dev) (n i : Nat) : Prop :=
  t.f1 .TBL_RING_STATUS_HALTED n = 1 ∧ t.f1 .TBL_RING_STATUS_HALT_INDEX n = i % 2 ^ 16 ∧ t.f1 .TBL_RING_STATUS_ENABLED n = 0

/-- The status fields of region `n`'s ring, halted at index `i`. -/
def Dev.haltShown (d : Dev) (n i : Nat) : Dev :=
  ((d.set1 .TBL_RING_STATUS_HALTED n 1).set1 .TBL_RING_STATUS_HALT_INDEX n i).set1 .TBL_RING_STATUS_ENABLED n 0

/-- A halt is a descriptor written back, the status fields, and reports. -/
theorem Dev.reports_tblHalt {i : Nat} : ∃ o, ((d.emit o).haltShown n i).Reports (d.tblHalt n i desc) :=
  ⟨_, (Dev.reports_record _ _ _ _ _).trans (Dev.reports_raise _ _)⟩

theorem Dev.tblHalt_halted {i : Nat} : (d.tblHalt n i desc).HaltedAt n i := by
  obtain ⟨o, reported⟩ := Dev.reports_tblHalt (d := d) (n := n) (desc := desc) (i := i)
  unfold Dev.HaltedAt
  simp only [Dev.f1]
  rw [reported.fld _ _ _ (by decide), reported.fld _ _ _ (by decide), reported.fld _ _ _ (by decide)]
  unfold Dev.haltShown Dev.set1
  simp (disch := decide) only [Dev.fld_setFld_id, Dev.fld_setFld_same]
  exact ⟨rfl, rfl, rfl⟩

theorem Dev.tblHalt_head {i : Nat} : (d.tblHalt n i desc).f1 .TBL_RING_HEAD n = d.f1 .TBL_RING_HEAD n := by
  obtain ⟨o, reported⟩ := Dev.reports_tblHalt (d := d) (n := n) (desc := desc) (i := i)
  rw [Dev.f1, reported.fld _ _ _ (by decide), ← Dev.f1, Dev.haltShown, Dev.f1_set1_ne (by decide), Dev.f1_set1_ne (by decide),
    Dev.f1_set1_ne (by decide)]
  rfl

theorem Dev.tblHalt_tbl {i : Nat} : (d.tblHalt n i desc).tbl = d.tbl := by
  obtain ⟨o, reported⟩ := Dev.reports_tblHalt (d := d) (n := n) (desc := desc) (i := i)
  exact reported.tbl

/-- Whether a descriptor is bad turns on the image alone. -/
theorem Dev.Keeps.tblBad (h : d.Retabled e) : e.tblBad desc next = d.tblBad desc next := by
  have carve (i : Nat) : e.carve i = d.carve i := by rw [Dev.carve, Dev.section, h.view, Dev.carve, Dev.section]
  have rows (t : Nat) : e.tableRows t = d.tableRows t := by
    unfold Dev.tableRows Dev.l2Rows Dev.exactRows Dev.nhCapacity
    simp only [carve]
  simp only [Dev.tblBad, rows]

theorem completes_tblBadDescriptor_first (n : Region) (hready : s.dev.tblReady n = true) (hbad : s.dev.tblBad desc next = true) :
    Completes (.tblBadDescriptor n desc next) s fun t => t.HaltedAt n (s.dev.f1 .TBL_RING_HEAD n) ∧
      t.f1 .TBL_RING_HEAD n = s.dev.f1 .TBL_RING_HEAD n ∧ t.tbl = (s.dev.tblOrder n).tbl := by
  refine completes_of_run _ (exec_tblBadDescriptor n desc next s) ?_
  have head : (s.dev.tblOrder n).f1 .TBL_RING_HEAD n = s.dev.f1 .TBL_RING_HEAD n := Dev.retabled_tblOrder.f1 (by decide)
  rw [if_pos ⟨hready, .inl hbad⟩, Dev.tblStop, Dev.Keeps.tblBad Dev.retabled_tblOrder, if_pos hbad, head]
  exact ⟨Dev.tblHalt_halted, Dev.tblHalt_head.trans head, Dev.tblHalt_tbl⟩

theorem completes_tblBadDescriptor_second (n : Region) (hready : s.dev.tblReady n = true) (hgood : s.dev.tblBad desc next = false)
    (hbad : tblNextBad desc next = true) :
    Completes (.tblBadDescriptor n desc next) s fun t =>
      let second := (s.dev.f1 .TBL_RING_HEAD n + 1) % max 1 (s.dev.f1 .TBL_RING_SIZE n) % 2 ^ 32
      t.HaltedAt n second ∧ t.f1 .TBL_RING_HEAD n = second := by
  refine completes_of_run _ (exec_tblBadDescriptor n desc next s) ?_
  have head := Dev.tblAdvance_head_of_retabled (n := n) (k := 1) (Dev.retabled_tblOrder (d := s.dev) (n := n))
  rw [if_pos ⟨hready, .inr hbad⟩, Dev.tblStop, Dev.Keeps.tblBad Dev.retabled_tblOrder, if_neg (by simp [hgood])]
  dsimp only
  rw [← head]
  exact ⟨Dev.tblHalt_halted, Dev.tblHalt_head⟩

theorem completes_tblRingRestart (m : Master) (n : Region) (hopen : s.dev.Open m (Reg.TBL_RING_CTRL.addr n 0))
    (hhalted : s.dev.b1 .TBL_RING_STATUS_HALTED n = true) :
    Completes (.tblRingRestart m n) s fun t => t.f1 .TBL_RING_STATUS_HALTED n = 0 ∧
      t.f1 .TBL_RING_HEAD n = (s.dev.f1 .TBL_RING_HEAD n + 1) % max 1 (s.dev.f1 .TBL_RING_SIZE n) % 2 ^ 32 ∧
      t.reg.last = .ok 0 := by
  refine completes_of_run _ (exec_tblRingRestart m n s) ?_
  rw [Dev.onWrite_open _ _ _ _ _ _ hopen, Dev.tblRestart, if_pos hhalted]
  refine ⟨?halted, ?head, rfl⟩
  case halted =>
    rw [Dev.f1, Dev.fld_congr _ _ _ _ _ (Dev.complete_flds _ _), ← Dev.f1, Dev.keeps_tblAdvance.f1 (by decide),
      Dev.f1_set1_ne (by decide), Dev.f1_set1_same]
    rfl
  case head =>
    rw [Dev.f1, Dev.fld_congr _ _ _ _ _ (Dev.complete_flds _ _), ← Dev.f1, Dev.tblAdvance_head, Dev.f1_set1_ne (by decide),
      Dev.f1_set1_ne (by decide), Dev.f1_set1_ne (by decide), Dev.f1_set1_ne (by decide)]

end

end

/-- Settles O35: a sound descriptor is answered and written back (`completes_answered`), so each clause is the answer that its
operation gives; a bad one halts the ring at its own index (`Dev.tblHalt_halted`), and a bad second descriptor with HEAD at it,
which is the model's choice (log 79). -/
theorem tableTransactions : Obligations.TableTransactions := by
  unfold Obligations.TableTransactions
  refine ⟨?readHop, ?readEntry, ?writeHop, ?writeRow, ?insertFree, ?insertReplaces, ?delete, ?lookup, ?flush, ?first, ?second,
    ?restart⟩
  case readHop => exact fun n _ _ _ h ht => completes_tblReadRow_hop n h ht
  case readEntry => exact fun n _ _ _ h ht hclear => completes_tblReadRow_entry n h ht hclear
  case writeHop => exact fun n _ _ _ h ht => completes_tblWriteRow_hop n h ht
  case writeRow => exact fun n _ _ _ h ht hvalid hcand => completes_tblWriteRow_l2 n h ht hvalid hcand
  case insertFree => exact fun n _ _ _ _ h ht hnew hfree => completes_tblInsert_free n h ht hnew hfree
  case insertReplaces => exact fun n _ _ _ _ _ h ht hfind => completes_tblInsert_replaces n h ht hfind
  case delete => exact fun n _ _ _ _ _ h ht hfind => completes_tblDelete n h ht hfind
  case lookup => exact fun n _ _ _ _ _ h ht hfind hstill hclear => completes_tblLookup n h ht hfind hstill hclear
  case flush =>
    intro n desc next s h _ hs
    obtain ⟨t, hexec, hpending, hgone, hstands, hback⟩ := completes_tblFlush n h hs
    refine ⟨t, hexec, hpending, fun r x hrow hx => ?_, fun r x hrow hx => hstands r x hrow ?_, hback⟩
    · exact Bool.false_ne_true ((hgone r x hrow).symm.trans (flushed_iff.2 hx))
    · exact Bool.eq_false_iff.2 (mt flushed_iff.1 hx)
  case first =>
    intro n desc next s hready hbad
    obtain ⟨t, hexec, hpending, ⟨hhalted, hindex, hoff⟩, hhead, htbl⟩ := completes_tblBadDescriptor_first n hready hbad
    exact ⟨t, hexec, hpending, hhalted, hindex, hoff, hhead, htbl⟩
  case second =>
    intro n desc next s hready hgood hbad
    obtain ⟨t, hexec, hpending, ⟨hhalted, hindex, hoff⟩, hhead⟩ := completes_tblBadDescriptor_second n hready hgood hbad
    exact ⟨t, hexec, hpending, hhalted, hindex, hoff, hhead⟩
  case restart => exact fun m n _ hopen hhalted => completes_tblRingRestart m n hopen hhalted

end Sys2Proof.Machine
end

