-- ==== Sys2Proof/Proofs/Prefixes.lean ====
section
/-! Prefixes and trie nodes (R190 to R193, R198): the transactions that add, delete and read one, the nodes that are freed and
rebuilt, and the obligation on them (O36). -/

namespace Sys2Proof.Machine

section
variable {d e : Dev}

/-! ### The prefixes of a family -/

theorem Dev.lpm_congr (h : e.tbl = d.tbl) {v6 : Bool} : e.lpm v6 = d.lpm v6 := by rw [Dev.lpm, h, Dev.lpm]

@[simp] theorem Dev.lpm_lpmSwitch_same {old len bits : Nat} {v6 : Bool} {m : Map (Option Nat)} :
    (d.lpmSwitch old v6 len bits m).lpm v6 = m := by
  cases v6
  · rfl
  · rfl

@[simp] theorem Dev.lpm_lpmSwitch_other {old len bits : Nat} {v6 : Bool} {m : Map (Option Nat)} :
    (d.lpmSwitch old v6 len bits m).lpm (!v6) = d.lpm (!v6) := by
  cases v6
  · rfl
  · rfl

theorem Dev.retabled_lpmSwitch {old len bits : Nat} {v6 : Bool} {m : Map (Option Nat)} :
    d.Retabled (d.lpmSwitch old v6 len bits m) := ⟨rfl, fun _ _ _ _ => rfl⟩

theorem Dev.retabled_draw : d.Retabled d.draw.2 := ⟨rfl, fun _ _ _ _ => rfl⟩

/-- Where the route that a descriptor names stands in its family's table. -/
abbrev prefixKey (desc : Bytes) : Nat := k2 (prefixOf desc).2.1 (prefixOf desc).2.2

/-- The route that a descriptor names takes a next hop or loses it; the nodes that this replaces are a free value (log 8). -/
def Dev.prefixSet (d : Dev) (desc : Bytes) (h : Option Nat) : Dev :=
  let p := prefixOf desc
  d.draw.2.lpmSwitch d.draw.1 p.1 p.2.1 p.2.2 (Map.set none (d.lpm p.1) (prefixKey desc) h)

theorem Dev.retabled_prefixSet {desc : Bytes} {h : Option Nat} : d.Retabled (d.prefixSet desc h) :=
  Dev.retabled_draw.trans Dev.retabled_lpmSwitch

section
variable {desc : Bytes} {h : Option Nat}

theorem Dev.prefixSet_lpm :
    (d.prefixSet desc h).lpm (prefixOf desc).1 = Map.set none (d.lpm (prefixOf desc).1) (prefixKey desc) h :=
  Dev.lpm_lpmSwitch_same

theorem Dev.prefixSet_lpm_other : (d.prefixSet desc h).lpm (!(prefixOf desc).1) = d.lpm (!(prefixOf desc).1) :=
  Dev.lpm_lpmSwitch_other

end

/-! ### Transactions (R193, R195) -/

section
variable {s : State} {n : Region} {desc next : Bytes}

theorem completes_tblPrefixAdd (h : s.dev.Takes n 6 desc next)
    (hbucket : Map.get none (s.dev.lpm (prefixOf desc).1) (prefixKey desc) = none →
      (prefixOf desc).1 = true → s.dev.bucketFull (prefixOf desc).2.1 (prefixOf desc).2.2 = false)
    (hroom : (s.dev.setLpm (prefixOf desc).1 (Map.set none (s.dev.lpm (prefixOf desc).1)
        (prefixKey desc) (some (leAt desc 0x20 3 % 2 ^ 18)))).lpmUsed (prefixOf desc).1 + s.dev.draw.1 ≤
      s.dev.carve (if (prefixOf desc).1 then 3 else 2) * 1024) :
    Completes (.tblPrefixAdd n desc next []) s fun t =>
      t.tbl = (s.dev.prefixSet desc (some (leAt desc 0x20 3 % 2 ^ 18))).tbl ∧
      s.dev.Wrote n desc next 1 (leAt desc 4 4) (tblData desc next) t := by
  refine completes_answered (exec_tblPrefixAdd n desc next [] s) h ?_
    (Dev.retabled_prefixSet (h := some (leAt desc 0x20 3 % 2 ^ 18))) fun t htbl hback => ⟨htbl, hback⟩
  have unread : s.dev.prefixReads n (prefixOf desc) [] = s.dev := rfl
  dsimp only
  rw [unread, if_neg]
  · rfl
  rintro (⟨hnew, hv6, hfull⟩ | hsmall)
  · exact Bool.false_ne_true ((hbucket (Option.isNone_iff_eq_none.1 hnew) hv6).symm.trans hfull)
  · exact hroom.not_gt hsmall

theorem completes_tblPrefixDel {hop : Nat} (h : s.dev.Takes n 7 desc next)
    (hhop : Map.get none (s.dev.lpm (prefixOf desc).1) (prefixKey desc) = some hop) :
    Completes (.tblPrefixDel n desc next []) s fun t => t.tbl = (s.dev.prefixSet desc none).tbl ∧
      s.dev.Wrote n desc next 1 (leAt desc 4 4) (tblData desc next) t := by
  refine completes_answered (exec_tblPrefixDel n desc next [] s) h ?_ (Dev.retabled_prefixSet (h := none))
    fun t htbl hback => ⟨htbl, hback⟩
  have unread : s.dev.prefixReads n (prefixOf desc) [] = s.dev := rfl
  dsimp only
  rw [unread, if_neg (by simp [hhop])]
  rfl

theorem completes_tblPrefixGet {hop : Nat} (h : s.dev.Takes n 8 desc next)
    (hhop : Map.get none (s.dev.lpm (prefixOf desc).1) (prefixKey desc) = some hop) :
    Completes (.tblPrefixGet n desc next []) s fun t => t.tbl = s.dev.tbl ∧
      s.dev.Wrote n desc next 1 (leAt desc 4 4) (patch (tblData desc next) 0x10 (leBytes 3 hop)) t := by
  refine completes_answered (exec_tblPrefixGet n desc next [] s) h ?_ (.refl _) fun t htbl hback => ⟨htbl, hback⟩
  have unread : s.dev.prefixReads n (prefixOf desc) [] = s.dev := rfl
  dsimp only
  rw [unread, hhop]
  rfl

end

/-! ### Nodes (R193, R198) -/

theorem completes_trieOldNodesFree {s : State} : Completes .trieOldNodesFree s fun t => t.flds = s.dev.flds ∧
    ∀ x, x ∈ t.tbl.oldNodes ↔ x ∈ s.dev.tbl.oldNodes ∧ s.dev.now < x.1 + tUs :=
  completes_of_run _ (exec_trieOldNodesFree s)
    ⟨rfl, fun _ => List.mem_filter.trans (and_congr_right fun _ => decide_eq_true_iff)⟩

theorem completes_trieNodeRebuilt {v6 : Bool} {bits path w : Nat} {s : State}
    (hdown : (⟨v6, bits, path⟩, w) ∈ s.dev.tbl.nodesDown) :
    Completes (.trieNodeRebuilt v6 bits path) s fun t =>
      ∀ x, x ∈ t.tbl.nodesDown ↔ x ∈ s.dev.tbl.nodesDown ∧ x.1 ≠ ⟨v6, bits, path⟩ := by
  have found : (s.dev.tbl.nodesDown.find? (fun x => x.1 == ⟨v6, bits, path⟩)).isSome = true :=
    List.find?_isSome.2 ⟨_, hdown, beq_self_eq_true _⟩
  obtain ⟨y, hy⟩ := Option.isSome_iff_exists.1 found
  have node : y.1 = ⟨v6, bits, path⟩ := eq_of_beq (List.find?_some (p := fun x : TrieNode × Nat => x.1 == _) hy)
  refine completes_of_run _ (exec_trieNodeRebuilt v6 bits path s) fun x => ?_
  dsimp only
  rw [hy]
  dsimp only
  rw [Dev.record_tbl, node]
  exact List.mem_filter.trans (and_congr_right fun _ => decide_eq_true_iff)

end

/-- Settles O36: a route added or deleted is one entry of its family's table (`Dev.prefixSet_lpm`), and a node that is freed
or rebuilt leaves its list, where the others stay. -/
theorem prefixesAndTries : Obligations.PrefixesAndTries := by
  unfold Obligations.PrefixesAndTries
  refine ⟨?add, ?delete, ?get, fun _ => completes_trieOldNodesFree, fun _ _ _ _ _ hdown => completes_trieNodeRebuilt hdown⟩
  case add =>
    intro n desc next s h v6 hbucket hroom
    obtain ⟨t, hexec, hpending, htbl, hback, -⟩ := completes_tblPrefixAdd h hbucket hroom
    refine ⟨t, hexec, hpending, ?_, fun k hk => ?_, ?_, hback⟩
    · rw [Dev.lpm_congr htbl, Dev.prefixSet_lpm, Map.get_set_same]
    · rw [Dev.lpm_congr htbl, Dev.prefixSet_lpm, Map.get_set_other _ _ _ _ _ _ hk]
    · rw [Dev.lpm_congr htbl, Dev.prefixSet_lpm_other]
  case delete =>
    intro n desc next hop s h hhop
    obtain ⟨t, hexec, hpending, htbl, hback, -⟩ := completes_tblPrefixDel h hhop
    refine ⟨t, hexec, hpending, ?_, fun k hk => ?_, hback⟩
    · rw [Dev.lpm_congr htbl, Dev.prefixSet_lpm, Map.get_set_same]
    · rw [Dev.lpm_congr htbl, Dev.prefixSet_lpm, Map.get_set_other _ _ _ _ _ _ hk]
  case get =>
    intro n desc next hop s h hhop
    obtain ⟨t, hexec, hpending, htbl, hback, -⟩ := completes_tblPrefixGet h hhop
    exact ⟨t, hexec, hpending, htbl, hback⟩

end Sys2Proof.Machine
end

