-- ==== Sys2Proof/Proofs/LearningAndAgeing.lean ====
section
/-! Learning, relocation and ageing of the layer-2 table (R181 to R188), the spare lookup engine (R200), and the obligation on
them (O37). -/

namespace Sys2Proof.Machine

section
variable {d : Dev}

/-! ### Learning (R184) -/

/-- The entry that a learn request gives. -/
def Dev.learnedEntry (d : Dev) (q : LearnReq) : L2Entry :=
  ⟨q.mac, q.vid, false, false, true, false, false, false, false, q.destType, q.dest, 0xFFFF, 0xFF, d.opMs / 1000 % 2 ^ 32, 0⟩

/-- The oldest learn request has left the queue. -/
def Dev.learnTaken (d : Dev) (rest : List LearnReq) : Dev := { d with tbl := { d.tbl with learnQ := rest } }

theorem exec_learnInsert_free {q : LearnReq} {rest : List LearnReq} {row : Nat} {s : State} (hreloc : s.dev.tbl.reloc = none)
    (hq : s.dev.tbl.learnQ = q :: rest) (hnew : s.dev.l2Find q.mac q.vid = none)
    (hfree : s.dev.findPath 4 (s.dev.l2Cands q.mac q.vid) = some [row]) :
    exec (.learnInsert []) s = .next (s.on
      ((((s.dev.learnTaken rest).setL2 row (some (s.dev.learnedEntry q))).setReloc none).count .TBL_LEARNED 0)) := by
  have unread {a b g : Nat} : (s.dev.learnTaken rest).readFaults (q.port / 32) (s.dev.l2Cands a b) g [] (fun _ _ => false) [] =
      s.dev.learnTaken rest := rfl
  have unfound : (s.dev.learnTaken rest).l2Find q.mac q.vid = none := hnew
  have free : (s.dev.learnTaken rest).findPath 4 ((s.dev.learnTaken rest).l2Cands q.mac q.vid) = some [row] :=
    (Dev.findPath_congr rfl rfl rfl 4 _).trans hfree
  rw [exec_learnInsert, execLearnInsert, State.run_eq]
  dsimp only
  rw [Dev.settle_of_none hreloc, hq]
  dsimp only
  rw [← Dev.learnTaken, unread, unfound, Dev.place_free free]
  rfl

theorem completes_learnInsert {q : LearnReq} {rest : List LearnReq} {row : Nat} {s : State} (hreloc : s.dev.tbl.reloc = none)
    (hq : s.dev.tbl.learnQ = q :: rest) (hnew : s.dev.l2Find q.mac q.vid = none)
    (hfree : s.dev.findPath 4 (s.dev.l2Cands q.mac q.vid) = some [row]) :
    Completes (.learnInsert []) s fun t => t.tbl.learnQ = rest ∧ t.l2Row row = some (s.dev.learnedEntry q) ∧
      t.ctr .TBL_LEARNED 0 = (s.dev.ctr .TBL_LEARNED 0 + 1) % 2 ^ 64 := by
  refine completes_of_eq (exec_learnInsert_free hreloc hq hnew hfree) ⟨?queue, ?row, ?count⟩
  case queue =>
    rw [Dev.count_tbl, Dev.setReloc, Dev.setL2_tbl]
    rfl
  case row => rw [Dev.l2Row_count, Dev.l2Row_setReloc, Dev.l2Row_setL2_same]
  case count =>
    rw [Dev.ctr_count_same, Dev.ctr_setReloc, Dev.ctr_setL2 (by decide)]
    rfl

/-! ### Relocation (R186) -/

theorem Dev.moveWrite_l2 {a b : Nat} {x : L2Entry} (h : d.l2Row a = some x) : d.moveWrite 4 a b =
    (d.setL2 b (some { x with moving := true })).setL2 a (some { x with moving := true }) := by
  rw [Dev.moveWrite, if_pos rfl, h]

theorem Dev.moveDrop_l2 {a b : Nat} {x : L2Entry} (h : d.l2Row b = some x) : d.moveDrop 4 a b =
    ((d.setL2 b (some { x with moving := false })).setL2 a none).count .TBL_RELOCATIONS 0 := by
  rw [Dev.moveDrop, if_pos rfl, h]

theorem completes_relocationMove {r : Reloc} {a b : Nat} {rest : List (Nat × Nat)} {x : L2Entry} {s : State}
    (hreloc : s.dev.tbl.reloc = some r) (hopen : r.open_ = none) (hmoves : r.moves = (a, b) :: rest) (htable : r.table = 4)
    (hrow : s.dev.l2Row a = some x) (hab : a ≠ b) :
    Completes (.relocationMove []) s fun t => t.l2Row a = some { x with moving := true } ∧
      t.l2Row b = some { x with moving := true } ∧
      t.tbl.reloc = some { r with moves := rest, open_ := some (a, b, s.dev.now) } := by
  have moved : exec (.relocationMove []) s = .next (s.on
      (((s.dev.setL2 b (some { x with moving := true })).setL2 a (some { x with moving := true })).setReloc
        (some { r with moves := rest, open_ := some (a, b, s.dev.now) }))) := by
    have unread : s.dev.readFaults 0 [a] 0 [] (fun _ _ => false) [] = s.dev := rfl
    rw [exec_relocationMove, execRelocationMove, State.run_eq, hreloc]
    dsimp only
    rw [hopen, hmoves]
    dsimp only
    rw [if_pos htable, unread, if_neg (by simp [hreloc]), htable, Dev.moveWrite_l2 hrow]
    rfl
  refine completes_of_eq moved ⟨?old, ?new, rfl⟩
  case old => rw [Dev.l2Row_setReloc, Dev.l2Row_setL2_same]
  case new => rw [Dev.l2Row_setReloc, Dev.l2Row_setL2_ne hab.symm, Dev.l2Row_setL2_same]

theorem completes_relocationInvalidate {r : Reloc} {a b c : Nat} {x : L2Entry} {s : State} (hreloc : s.dev.tbl.reloc = some r)
    (hopen : r.open_ = some (a, b, c)) (hdue : c + 2 ≤ s.dev.now) (htable : r.table = 4) (hrow : s.dev.l2Row b = some x)
    (hab : a ≠ b) (hmoves : r.moves ≠ []) :
    Completes .relocationInvalidate s fun t => t.l2Row a = none ∧ t.l2Row b = some { x with moving := false } ∧
      t.tbl.reloc = some { r with open_ := none } ∧
      t.ctr .TBL_RELOCATIONS 0 = (s.dev.ctr .TBL_RELOCATIONS 0 + 1) % 2 ^ 64 := by
  have dropped : exec .relocationInvalidate s = .next (s.on
      ((((s.dev.setL2 b (some { x with moving := false })).setL2 a none).count .TBL_RELOCATIONS 0).setReloc
        (some { r with open_ := none }))) := by
    rw [exec_relocationInvalidate, execRelocationInvalidate, State.run_eq, hreloc]
    dsimp only
    rw [hopen]
    dsimp only
    rw [if_neg hdue.not_gt, if_neg (by simpa using hmoves), htable, Dev.moveDrop_l2 hrow]
    rfl
  refine completes_of_eq dropped ⟨?old, ?new, rfl, ?count⟩
  case old => rw [Dev.l2Row_setReloc, Dev.l2Row_count, Dev.l2Row_setL2_same]
  case new => rw [Dev.l2Row_setReloc, Dev.l2Row_count, Dev.l2Row_setL2_ne hab.symm, Dev.l2Row_setL2_same]
  case count =>
    rw [Dev.ctr_setReloc, Dev.ctr_count_same, Dev.ctr_setL2 (by decide), Dev.ctr_setL2 (by decide)]
    rfl

/-! ### Ageing (R188) -/

/-- The ageing pass has moved on to the next row. -/
def Dev.ageStepped (d : Dev) : Dev :=
  { d with tbl := { d.tbl with agePos := if d.tbl.agePos + 1 < 8 * d.l2Rows then d.tbl.agePos + 1 else 0 } }

theorem exec_ageingVisit_entry {x : L2Entry} {s : State} (hages : s.dev.ages = true) (hreloc : s.dev.tbl.reloc = none)
    (hrow : s.dev.l2Row s.dev.tbl.agePos = some x) (hstatic : x.static_ = false) (hlock : x.lock = false) :
    exec (.ageingVisit []) s = .next (s.on
      (if x.hit then s.dev.ageStepped.setL2 s.dev.tbl.agePos (some { x with hit := false })
        else (s.dev.ageStepped.setL2 s.dev.tbl.agePos none).count .TBL_AGED 0)) := by
  have unread : s.dev.ageStepped.readFaults 0 [s.dev.tbl.agePos] 0 [] (fun _ _ => false) [] = s.dev.ageStepped := rfl
  have still : ¬(s.dev.tbl.reloc.any (fun r => r.table == 4)) = true := by simp [hreloc]
  have row : s.dev.ageStepped.l2Row s.dev.tbl.agePos = some x := hrow
  rw [exec_ageingVisit, execAgeingVisit, State.run_eq, if_neg (by simp [hages])]
  dsimp only
  rw [if_neg still, ← Dev.ageStepped, unread, row]
  dsimp only
  rw [if_neg (by simp [hstatic, hlock])]
  rfl

theorem completes_ageingVisit {x : L2Entry} {s : State} (hages : s.dev.ages = true) (hreloc : s.dev.tbl.reloc = none)
    (hrow : s.dev.l2Row s.dev.tbl.agePos = some x) (hstatic : x.static_ = false) (hlock : x.lock = false) :
    Completes (.ageingVisit []) s fun t =>
      t.l2Row s.dev.tbl.agePos = (if x.hit then some { x with hit := false } else none) ∧
      t.ctr .TBL_AGED 0 = (if x.hit then s.dev.ctr .TBL_AGED 0 else (s.dev.ctr .TBL_AGED 0 + 1) % 2 ^ 64) ∧
      t.tbl.agePos = (if s.dev.tbl.agePos + 1 < 8 * s.dev.l2Rows then s.dev.tbl.agePos + 1 else 0) := by
  have stood {y : Option L2Entry} : (s.dev.ageStepped.setL2 s.dev.tbl.agePos y).ctr .TBL_AGED 0 = s.dev.ctr .TBL_AGED 0 :=
    Dev.ctr_setL2 (by decide)
  have stepped {y : Option L2Entry} : (s.dev.ageStepped.setL2 s.dev.tbl.agePos y).tbl.agePos =
      if s.dev.tbl.agePos + 1 < 8 * s.dev.l2Rows then s.dev.tbl.agePos + 1 else 0 := by
    rw [Dev.setL2_tbl]
    rfl
  refine completes_of_eq (exec_ageingVisit_entry hages hreloc hrow hstatic hlock) ?_
  cases x.hit with
  | true => exact ⟨Dev.l2Row_setL2_same, stood, stepped⟩
  | false =>
    rw [if_neg Bool.false_ne_true, if_neg Bool.false_ne_true, if_neg Bool.false_ne_true, Dev.l2Row_count, Dev.ctr_count_same,
      stood, Dev.count_tbl]
    exact ⟨Dev.l2Row_setL2_same, rfl, stepped⟩

/-! ### Lookup engines (R200) -/

/-- The listed frames of region `n` whose lookups a failed engine held. -/
def Dev.lookupFrames (d : Dev) (n : Nat) (frames : List Nat) : List Nat :=
  frames.dedup.filter (fun id => (d.rxFrame id).any (fun r => r.region == n && r.res.isNone))

/-- They are dropped and counted. -/
def Dev.lookupDropped (d : Dev) (n : Nat) (held : List Nat) : Dev :=
  (held.foldl (fun d id => d.setRx id none) d).countN .TBL_ENGINE_DROP n held.length

/-- The status fields of a spare lookup engine that takes over. -/
def Dev.lookupSpareShown (d : Dev) (n : Nat) : Dev :=
  ((d.set1 .TBL_STATUS_ENGINE_SPARE_USED n 1).setBit .HLT_SUM_ENGINE_LOOKUP 0 n true).setBit .HLT_SUM_UNIT_REGION_UNIT 0 n true

/-- The spare takes over. -/
def Dev.lookupSpareTaken (d : Dev) (n : Nat) : Dev :=
  (((d.lookupSpareShown n).record .LOOKUP_ENGINE_SPARED 0 0 (payloadOf [])).raise (288 + n)).autumn .HLT_AUTUMN_CAUSE_SPARE
    .LOOKUP_ENGINE_SPARED

theorem exec_lookupEngineSpared_eq (n : Region) (frames : List Nat) {s : State} (hregion : s.dev.regionIsolated n = false) :
    exec (.lookupEngineSpared n frames) s = .next (s.on
      (if (s.dev.lookupDropped n (s.dev.lookupFrames n frames)).b1 .TBL_STATUS_ENGINE_SPARE_USED n
        then ((s.dev.lookupDropped n (s.dev.lookupFrames n frames)).record .LOOKUP_CLUSTER_EXHAUSTED 0 0
          (payloadOf [])).isolateRegion n EvCode.LOOKUP_CLUSTER_EXHAUSTED.code
        else (s.dev.lookupDropped n (s.dev.lookupFrames n frames)).lookupSpareTaken n)) := by
  rw [exec_lookupEngineSpared, execLookupEngineSpared, State.run_eq, if_neg (by simp [hregion])]
  rfl

theorem Dev.keeps_lookupDropped {n : Nat} {held : List Nat} : d.Keeps [] Dev.tbl (d.lookupDropped n held) := by
  have counted {g : Dev} {k : Nat} : g.Keeps [] Dev.tbl (g.countN .TBL_ENGINE_DROP n k) := ⟨rfl, fun _ _ _ _ => rfl⟩
  have gone {g : Dev} {id : Nat} : g.Keeps [] Dev.tbl (g.setRx id none) := ⟨rfl, fun _ _ _ _ => rfl⟩
  exact (Dev.Keeps.foldl (fun _ _ => gone) held d).trans counted

/-- The report of a spare that takes over, and the device's AUTUMN, leave what it shows. -/
theorem Dev.messaged_lookupSpareTaken {n : Nat} : (d.lookupSpareShown n).Messaged (d.lookupSpareTaken n) :=
  (Dev.messaged_record.trans Dev.messaged_raise).trans (Dev.messaged_autumn (by decide))

theorem Dev.lookupSpareShown_used {n : Nat} : (d.lookupSpareShown n).f1 .TBL_STATUS_ENGINE_SPARE_USED n = 1 := by
  unfold Dev.lookupSpareShown Dev.setBit Dev.set1 Dev.f1
  simp (disch := decide) only [Dev.fld_setFld_id, Dev.fld_setFld_same]
  rfl

theorem completes_lookupEngineSpared_exhausted (n : Region) (frames : List Nat) {s : State}
    (hregion : s.dev.regionIsolated n = false) (hused : s.dev.b1 .TBL_STATUS_ENGINE_SPARE_USED n = true) :
    Completes (.lookupEngineSpared n frames) s fun t => t.regionIsolated n = true := by
  refine completes_of_eq (exec_lookupEngineSpared_eq n frames hregion) ?_
  rw [Dev.keeps_lookupDropped.b1 (List.not_mem_nil), if_pos hused]
  exact Dev.regionIsolated_isolateRegion n.isLt

theorem completes_lookupEngineSpared_spared (n : Region) (frames : List Nat) {s : State}
    (hregion : s.dev.regionIsolated n = false) (hfree : s.dev.b1 .TBL_STATUS_ENGINE_SPARE_USED n = false) :
    Completes (.lookupEngineSpared n frames) s fun t => t.f1 .TBL_STATUS_ENGINE_SPARE_USED n = 1 ∧
      t.b0 .HLT_AUTUMN_CAUSE_SPARE = true ∧ t.tbl.l2 = s.dev.tbl.l2 := by
  refine completes_of_eq (exec_lookupEngineSpared_eq n frames hregion) ?_
  rw [Dev.keeps_lookupDropped.b1 (List.not_mem_nil), if_neg (by simp [hfree])]
  refine ⟨?used, ?cause, ?rows⟩
  case used => exact (Dev.messaged_lookupSpareTaken.f1 (by decide)).trans Dev.lookupSpareShown_used
  case cause => exact Dev.b0_of_one (Dev.autumn_cause (by decide) (by decide))
  case rows => exact congrArg TblSt.l2 (Dev.messaged_lookupSpareTaken.tbl.trans (Dev.keeps_lookupDropped (n := n)).view)

end

/-- Settles O37: learning, relocation and ageing are rows that take or lose an entry (`Dev.setL2`), whose SYNC records leave the
tables and their counters alone; a spare that takes over leaves the tables to its region. -/
theorem learningAndAgeing : Obligations.LearningAndAgeing := by
  unfold Obligations.LearningAndAgeing
  refine ⟨?learn, ?move, ?drop, ?age, ?exhausted, ?spared⟩
  case learn => exact fun _ _ _ _ hreloc hq hnew hfree => completes_learnInsert hreloc hq hnew hfree
  case move =>
    exact fun _ _ _ _ _ _ hreloc hopen hmoves htable hrow hab => completes_relocationMove hreloc hopen hmoves htable hrow hab
  case drop =>
    exact fun _ _ _ _ _ _ hreloc hopen hdue htable hrow hab hmoves =>
      completes_relocationInvalidate hreloc hopen hdue htable hrow hab hmoves
  case age => exact fun _ _ hages hreloc hrow hstatic hlock => completes_ageingVisit hages hreloc hrow hstatic hlock
  case exhausted => exact fun n frames _ hregion hused => completes_lookupEngineSpared_exhausted n frames hregion hused
  case spared => exact fun n frames _ hregion hfree => completes_lookupEngineSpared_spared n frames hregion hfree

end Sys2Proof.Machine
end

