-- ==== Sys2Proof/Proofs/TcamEntries.lean ====
section
/-! Entries of the TCAM (R206, R208): what a write of one leaves alone, and a partition that is cleared. -/

namespace Sys2Proof.Machine

/-! ### A sparse table whose keys are filtered -/

section
variable {V : Type} {m : Map V} {k : Nat} {keep : Nat → Bool}

theorem Map.find?_filter_key : Map.find? (m.filter (fun x => keep x.1)) k = if keep k then Map.find? m k else none := by
  induction m with
  | nil => exact (ite_self _).symm
  | cons x m ih =>
    obtain ⟨a, w⟩ := x
    by_cases hak : a = k
    · subst hak
      cases hkeep : keep a with
      | true => simp only [List.filter_cons, hkeep, if_true, Map.find?]
      | false => simp only [List.filter_cons, hkeep, Bool.false_eq_true, if_false, ih]
    · cases hkeep : keep a with
      | true => simp only [List.filter_cons, hkeep, if_true, Map.find?, if_neg hak, ih]
      | false => simp only [List.filter_cons, hkeep, Bool.false_eq_true, if_false, Map.find?, if_neg hak, ih]

theorem Map.get_filter_key {v : V} : Map.get v (m.filter (fun x => keep x.1)) k = if keep k then Map.get v m k else v := by
  rw [Map.get, Map.find?_filter_key]
  split
  · rfl
  · rfl

end

section
variable {d e : Dev} {part i : Nat} {x : Option TcamEntry}

/-! ### One entry -/

theorem Dev.tcamEntry_congr (h : e.search.tcam = d.search.tcam) : e.tcamEntry part i = d.tcamEntry part i := by
  rw [Dev.tcamEntry, h, Dev.tcamEntry]

@[simp] theorem Dev.tcamEntry_setTcam_same : (d.setTcam part i x).tcamEntry part i = x := Map.get_set_same _ _ _ _

theorem Dev.tcamEntry_setTcam_ne {j : Nat} (h : j ≠ i) : (d.setTcam part i x).tcamEntry part j = d.tcamEntry part j :=
  Map.get_set_other _ _ _ _ _ _ (by simpa using h)

@[simp] theorem Dev.setTcam_move : (d.setTcam part i x).search.move = d.search.move := rfl

@[simp] theorem Dev.ctr_setTcam {c : Ctr} {j : Nat} : (d.setTcam part i x).ctr c j = d.ctr c j := rfl

@[simp] theorem Dev.tcamEntry_setMove {m : Option TcamMove} : (d.setMove m).tcamEntry part i = d.tcamEntry part i := rfl

@[simp] theorem Dev.ctr_setMove {m : Option TcamMove} {c : Ctr} {j : Nat} : (d.setMove m).ctr c j = d.ctr c j := rfl

@[simp] theorem Dev.tcamEntry_count {c : Ctr} {j : Nat} : (d.count c j).tcamEntry part i = d.tcamEntry part i := rfl

/-- A change of the search memories leaves every field and the image. -/
theorem Dev.retabled_search {y : SearchSt} : d.Retabled { d with search := y } := ⟨rfl, fun _ _ _ _ => rfl⟩

theorem Dev.retabled_setTcam : d.Retabled (d.setTcam part i x) := Dev.retabled_search

/-! ### A partition that is cleared (R209) -/

/-- Every entry of the partition is invalidated. -/
def Dev.clearPart (d : Dev) (part : Nat) : Dev :=
  { d with search := { d.search with tcam := d.search.tcam.filter (fun x => (Nat.unpair x.1).1 ≠ part) } }

theorem Dev.tcamEntry_clearPart {q : Nat} :
    (d.clearPart part).tcamEntry q i = if q = part then none else d.tcamEntry q i := by
  have cleared : (d.clearPart part).tcamEntry q i =
      if decide ((Nat.unpair (k2 q i)).1 ≠ part) then d.tcamEntry q i else none :=
    Map.get_filter_key (keep := fun k => decide ((Nat.unpair k).1 ≠ part))
  rw [cleared, k2, Nat.unpair_pair]
  by_cases hq : q = part
  · simp [hq]
  · simp [hq]

theorem Dev.retabled_clearPart : d.Retabled (d.clearPart part) := Dev.retabled_search

end

end Sys2Proof.Machine
end

