-- ==== Sys2Proof/Proofs/TcamRings.lean ====
section
/-! Transactions of the TCAM rings (R205 to R210): what a sound descriptor that is taken leaves, what halts a ring, and the
obligation on them (O38). -/

namespace Sys2Proof.Machine

/-! ### Descriptors -/

/-- The ring of region `n` takes a sound descriptor of operation `op` on partition `p`, and no move runs. -/
def Dev.TcmTakes (d : Dev) (n op : Nat) (p : TcamPart) (desc next : Bytes) : Prop :=
  d.tcmReady n = true ∧ leAt desc 0 1 = op ∧ d.tcmBad desc next = false ∧ d.tcamPart (leAt desc 1 1) = some p ∧
    d.search.move = none

/-- The descriptor at HEAD of region `n`'s ring is written back, and HEAD has moved on. -/
def Dev.TcmWrote (d : Dev) (n : Nat) (desc : Bytes) (status index : Nat) (x : Option TcamEntry) (t : Dev) : Prop :=
  Output.hostWrite (d.tcmAddr n (d.f1 .TCM_RING_HEAD n)) (tcmBack desc status index x) ∈ t.out ∧
  t.f1 .TCM_RING_HEAD n = (d.f1 .TCM_RING_HEAD n + (if d.tcmWide desc then 2 else 1)) %
    max 1 (d.f1 .TCM_RING_SIZE n) % 2 ^ 32

/-- The device after the ring of region `n` has answered a descriptor with `r`. -/
def Dev.tcmAnswered (d : Dev) (n op : Nat) (desc next : Bytes) (r : Dev × Option (Nat × Nat × Option TcamEntry)) : Dev :=
  let d1 := r.1.tcmAdvance n (if d.tcmWide desc then 2 else 1)
  match r.2 with
  | none => d1
  | some (st, index, x) =>
    let d2 := d1.tcmDone n (d.f1 .TCM_RING_HEAD n) desc st index x
    if d.tcmWide desc && (op == 1 || op == 5) then
      d2.emit (.hostWrite (d.tcmAddr n (d.f1 .TCM_RING_HEAD n + 1)) (tcmBackHi next x))
    else d2

section
variable {d e : Dev} {n op st index : Nat} {p : TcamPart} {desc next : Bytes} {x : Option TcamEntry}
  {f : Dev → TcamPart → Nat → Dev × Option (Nat × Nat × Option TcamEntry)}

theorem Dev.settleMove_of_none (h : d.search.move = none) : d.settleMove = d := by
  rw [Dev.settleMove, h]
  rfl

theorem Dev.tcmTake_of_takes {change : Bool} (h : d.TcmTakes n op p desc next) :
    d.tcmTake n op change desc next f = d.tcmAnswered n op desc next (f d p (d.f1 .TCM_RING_HEAD n)) := by
  obtain ⟨hready, hop, hbad, hpart, hmove⟩ := h
  unfold Dev.tcmTake
  rw [if_neg (by simp [hready, hop]), if_neg (by simp [hbad]), hpart]
  dsimp only
  rw [Dev.settleMove_of_none hmove, ite_self]
  rfl

/-! ### HEAD and the descriptor that is written back -/

theorem Dev.tcmAdvance_head {k : Nat} : (d.tcmAdvance n k).f1 .TCM_RING_HEAD n =
    (d.f1 .TCM_RING_HEAD n + k) % max 1 (d.f1 .TCM_RING_SIZE n) % 2 ^ 32 := Dev.f1_set1_same _ _ _ _

theorem Dev.tcmAdvance_head_of_retabled (h : d.Retabled e) {k : Nat} : (e.tcmAdvance n k).f1 .TCM_RING_HEAD n =
    (d.f1 .TCM_RING_HEAD n + k) % max 1 (d.f1 .TCM_RING_SIZE n) % 2 ^ 32 := by
  rw [Dev.tcmAdvance_head, h.f1 (by decide), h.f1 (by decide)]

theorem Dev.keeps_tcmAdvance {k : Nat} : d.Keeps [Field.TCM_RING_HEAD.id] Dev.search (d.tcmAdvance n k) :=
  Dev.keeps_setFld List.mem_cons_self rfl

theorem Dev.Keeps.tcmAddr {α : Type} {ids : List Nat} {view : Dev → α} (h : d.Keeps ids view e)
    (hhi : Field.TCM_RING_BASE_HI.id ∉ ids) (hlo : Field.TCM_RING_BASE_LO.id ∉ ids) {i : Nat} : e.tcmAddr n i = d.tcmAddr n i := by
  rw [Dev.tcmAddr, h.f1 hhi, h.f1 hlo, Dev.tcmAddr]

theorem Dev.reports_tcmDone {i : Nat} : d.Reports (d.tcmDone n i desc st index x) :=
  Dev.reports_ite ((Dev.reports_emit d _).trans (Dev.reports_raise _ _)) (Dev.reports_emit d _)

theorem Dev.retabled_tcmDone {i : Nat} : d.Retabled (d.tcmDone n i desc st index x) :=
  Dev.reports_tcmDone.keeps (by decide) Dev.reports_tcmDone.img

theorem Dev.mem_out_tcmDone {i : Nat} :
    Output.hostWrite (d.tcmAddr n i) (tcmBack desc st index x) ∈ (d.tcmDone n i desc st index x).out := by
  unfold Dev.tcmDone
  dsimp only
  split
  · exact Dev.out_raise List.mem_cons_self
  · exact List.mem_cons_self

theorem Dev.tcmAnswered_search {r : Dev × Option (Nat × Nat × Option TcamEntry)} :
    (d.tcmAnswered n op desc next r).search = r.1.search := by
  unfold Dev.tcmAnswered
  dsimp only
  split
  · rfl
  · split
    · exact Dev.reports_tcmDone.search
    · exact Dev.reports_tcmDone.search

/-- An answer with a status is written back. -/
theorem Dev.tcmWrote_tcmAnswered (h : d.Retabled e) :
    d.TcmWrote n desc st index x (d.tcmAnswered n op desc next (e, some (st, index, x))) := by
  have addr {k i : Nat} : (e.tcmAdvance n k).tcmAddr n i = d.tcmAddr n i := by
    rw [Dev.keeps_tcmAdvance.tcmAddr (by decide) (by decide), h.tcmAddr (by decide) (by decide)]
  have head {k : Nat} : ((e.tcmAdvance n k).tcmDone n (d.f1 .TCM_RING_HEAD n) desc st index x).f1 .TCM_RING_HEAD n =
      (d.f1 .TCM_RING_HEAD n + k) % max 1 (d.f1 .TCM_RING_SIZE n) % 2 ^ 32 :=
    (Dev.reports_tcmDone.fld _ _ _ (by decide)).trans (Dev.tcmAdvance_head_of_retabled h)
  unfold Dev.tcmAnswered
  dsimp only
  split
  · exact ⟨List.mem_cons_of_mem _ (addr ▸ Dev.mem_out_tcmDone), head⟩
  · exact ⟨addr ▸ Dev.mem_out_tcmDone, head⟩

section
variable {c : Instr} {s : State} {change : Bool}

/-- A command of a ring that takes its descriptor completes with the search memories of its answer, which is written back. -/
theorem completes_tcmAnswered {P : Dev → Prop} (hexec : exec c s = s.run fun d => d.tcmTake n op change desc next f)
    (h : s.dev.TcmTakes n op p desc next) (hf : f s.dev p (s.dev.f1 .TCM_RING_HEAD n) = (e, some (st, index, x)))
    (hkept : s.dev.Retabled e) (hP : ∀ t, t.search = e.search → s.dev.TcmWrote n desc st index x t → P t) : Completes c s P := by
  refine completes_of_run _ hexec ?_
  rw [Dev.tcmTake_of_takes h, hf]
  exact hP _ Dev.tcmAnswered_search (Dev.tcmWrote_tcmAnswered hkept)

/-- An answer that leaves the search memories alone. -/
theorem completes_tcmAnswered_same (hexec : exec c s = s.run fun d => d.tcmTake n op change desc next f)
    (h : s.dev.TcmTakes n op p desc next) (hf : f s.dev p (s.dev.f1 .TCM_RING_HEAD n) = (s.dev, some (st, index, x))) :
    Completes c s fun t => t.search = s.dev.search ∧ s.dev.TcmWrote n desc st index x t :=
  completes_tcmAnswered hexec h hf (.refl _) fun _ hsearch hback => ⟨hsearch, hback⟩

/-- An answer that writes or invalidates one entry of the partition. -/
theorem completes_tcmAnswered_setTcam {i : Nat} {y : Option TcamEntry}
    (hexec : exec c s = s.run fun d => d.tcmTake n op change desc next f) (h : s.dev.TcmTakes n op p desc next)
    (hf : f s.dev p (s.dev.f1 .TCM_RING_HEAD n) = (s.dev.setTcam p.id i y, some (st, index, x))) :
    Completes c s fun t => t.tcamEntry p.id i = y ∧ (∀ j, j ≠ i → t.tcamEntry p.id j = s.dev.tcamEntry p.id j) ∧
      t.search.move = none ∧ s.dev.TcmWrote n desc st index x t := by
  refine completes_tcmAnswered hexec h hf Dev.retabled_setTcam fun t hsearch hback => ?_
  have entries (j : Nat) : t.tcamEntry p.id j = (s.dev.setTcam p.id i y).tcamEntry p.id j :=
    Dev.tcamEntry_congr (congrArg SearchSt.tcam hsearch)
  obtain ⟨-, -, -, -, hmove⟩ := h
  refine ⟨?_, fun j hj => ?_, ?_, hback⟩
  · rw [entries, Dev.tcamEntry_setTcam_same]
  · rw [entries, Dev.tcamEntry_setTcam_ne hj]
  · rw [hsearch, Dev.setTcam_move, hmove]

end

/-! ### READ_ENTRY -/

theorem take_patch {bs y : Bytes} {k o : Nat} (h : k ≤ o) : (patch bs o y).take k = bs.take k := by
  rw [patch, List.append_assoc]
  obtain short | long := Nat.lt_or_ge bs.length o
  · rw [Nat.sub_eq_zero_of_le short.le, List.take_zero, List.nil_append, List.drop_eq_nil_of_le (by omega), List.append_nil,
      List.take_take, Nat.min_eq_left h]
  · rw [List.take_append_of_le_length (by rw [List.length_take]; omega), List.take_take, Nat.min_eq_left h]

theorem takeD_take (k : Nat) (bs : Bytes) : List.takeD k (bs.take k) 0 = List.takeD k bs 0 := by
  induction k generalizing bs with
  | zero => rfl
  | succ k ih =>
    cases bs with
    | nil => rfl
    | cons b bs => exact congrArg (b :: ·) (ih bs)

/-- A field that ends where a patch begins, or before, reads as it did. -/
theorem leAt_patch {bs y : Bytes} {a k o : Nat} (h : a + k ≤ o) : leAt (patch bs o y) a k = leAt bs a k := by
  have upto (l : Bytes) : slice l a k = List.takeD k ((l.take (a + k)).drop a) 0 := by
    rw [List.drop_take, Nat.add_sub_cancel_left, takeD_take, slice]
  rw [leAt, upto, take_patch h, ← upto, ← leAt]

/-- The descriptor as READ_ENTRY writes it back: FLAGS bit 7 where the entry is VALID. -/
def readDesc (desc : Bytes) (x : Option TcamEntry) : Bytes :=
  if x.isSome then patch desc 2 (leBytes 1 (leAt desc 2 1 + 128)) else desc

theorem Dev.tcmWide_readDesc : d.tcmWide (readDesc desc x) = d.tcmWide desc := by
  unfold readDesc
  split
  · rw [Dev.tcmWide, leAt_patch (by decide), leAt_patch (by decide), Dev.tcmWide]
  · rfl

/-- The entry of a READ_ENTRY is written back, with its second half in a 640-bit partition. -/
def Dev.entryShown (d : Dev) (n : Nat) (wide : Bool) (desc next : Bytes) (index : Nat) (x : TcamEntry) : Dev :=
  let d1 := d.tcmDone n (d.f1 .TCM_RING_HEAD n) desc stOk index (some x)
  if wide then d1.emit (.hostWrite (d.tcmAddr n (d.f1 .TCM_RING_HEAD n + 1)) (tcmBackHi next (some x))) else d1

theorem Dev.retabled_entryShown {wide : Bool} {y : TcamEntry} : d.Retabled (d.entryShown n wide desc next index y) :=
  .ite (Dev.retabled_tcmDone.trans Dev.messaged_emit.retabled) Dev.retabled_tcmDone

theorem Dev.entryShown_search {wide : Bool} {y : TcamEntry} : (d.entryShown n wide desc next index y).search = d.search := by
  unfold Dev.entryShown
  dsimp only
  split
  · exact Dev.reports_tcmDone.search
  · exact Dev.reports_tcmDone.search

theorem Dev.mem_out_entryShown {wide : Bool} {y : TcamEntry} :
    Output.hostWrite (d.tcmAddr n (d.f1 .TCM_RING_HEAD n)) (tcmBack desc stOk index (some y)) ∈
      (d.entryShown n wide desc next index y).out := by
  unfold Dev.entryShown
  dsimp only
  split
  · exact List.mem_cons_of_mem _ Dev.mem_out_tcmDone
  · exact Dev.mem_out_tcmDone

theorem Dev.mem_out_entryShown_wide {y : TcamEntry} :
    Output.hostWrite (d.tcmAddr n (d.f1 .TCM_RING_HEAD n + 1)) (tcmBackHi next (some y)) ∈
      (d.entryShown n true desc next index y).out := by
  unfold Dev.entryShown
  dsimp only
  rw [if_pos rfl]
  exact List.mem_cons_self

section
variable {s : State}

theorem Dev.tcamMoving_of_none {part i : Nat} (h : d.search.move = none) : d.tcamMoving part i = false := by
  rw [Dev.tcamMoving, h]
  rfl

theorem exec_tcmReadEntry_takes (n : Region) (h : s.dev.TcmTakes n 1 p desc next)
    (hentry : s.dev.tcamEntry p.id (leAt desc 4 4) = x) :
    exec (.tcmReadEntry n desc next) s = .next (s.on (s.dev.tcmAnswered n 1 desc next
      (s.dev.entryShown n p.wide (readDesc desc x) next (leAt desc 4 4) (x.getD ⟨0, 0, 0, 0, 0⟩), none))) := by
  subst hentry
  rw [exec_tcmReadEntry, execTcmReadEntry, State.run_eq]
  have ⟨_, _, hbad, hpart, hmove⟩ := h
  dsimp only
  rw [if_neg (by simp [hbad]), Dev.tcmTake_of_takes h, hpart]
  dsimp only
  rw [Dev.tcamMoving_of_none hmove]
  simp only [hbad, Bool.not_false, and_true]
  rfl

theorem completes_tcmReadEntry (n : Region) (h : s.dev.TcmTakes n 1 p desc next)
    (hentry : s.dev.tcamEntry p.id (leAt desc 4 4) = x) :
    Completes (.tcmReadEntry n desc next) s fun t => t.search = s.dev.search ∧
      s.dev.TcmWrote n (readDesc desc x) 1 (leAt desc 4 4) (some (x.getD ⟨0, 0, 0, 0, 0⟩)) t ∧
      (p.wide = true → Output.hostWrite (s.dev.tcmAddr n (s.dev.f1 .TCM_RING_HEAD n + 1))
        (tcmBackHi next (some (x.getD ⟨0, 0, 0, 0, 0⟩))) ∈ t.out) := by
  refine completes_of_eq (exec_tcmReadEntry_takes n h hentry) ⟨?search, ⟨?back, ?head⟩, ?second⟩
  case search => exact Dev.tcmAnswered_search.trans Dev.entryShown_search
  case back => exact Dev.mem_out_entryShown
  case head =>
    rw [Dev.tcmWide_readDesc]
    exact Dev.tcmAdvance_head_of_retabled Dev.retabled_entryShown
  case second =>
    intro hwide
    rw [hwide]
    exact Dev.mem_out_entryShown_wide

/-! ### WRITE_ENTRY, DELETE_AT, LOOKUP and CLEAR_PARTITION -/

theorem completes_tcmWriteEntry (n : Region) (h : s.dev.TcmTakes n 2 p desc next) :
    Completes (.tcmWriteEntry n desc next) s fun t =>
      t.tcamEntry p.id (leAt desc 4 4) = some (tcmEntry p.wide desc next) ∧
      (∀ i, i ≠ leAt desc 4 4 → t.tcamEntry p.id i = s.dev.tcamEntry p.id i) ∧ t.search.move = none ∧
      s.dev.TcmWrote n desc 1 (leAt desc 4 4) none t :=
  completes_tcmAnswered_setTcam (exec_tcmWriteEntry n desc next s) h rfl

theorem completes_tcmDeleteAt (n : Region) (h : s.dev.TcmTakes n 4 p desc next) :
    Completes (.tcmDeleteAt n desc next) s fun t => t.tcamEntry p.id (leAt desc 4 4) = none ∧
      (∀ i, i ≠ leAt desc 4 4 → t.tcamEntry p.id i = s.dev.tcamEntry p.id i) ∧ t.search.move = none ∧
      s.dev.TcmWrote n desc 1 (leAt desc 4 4) none t :=
  completes_tcmAnswered_setTcam (exec_tcmDeleteAt n desc next s) h rfl

theorem completes_tcmLookup (n : Region) {i : Nat} {y : TcamEntry} (h : s.dev.TcmTakes n 5 p desc next)
    (hfind : s.dev.tcamSearch p (tcmKey p.wide desc next 0x20) (2 ^ 64 - 1) = some (i, y)) :
    Completes (.tcmLookup n desc next) s fun t => t.search = s.dev.search ∧ s.dev.TcmWrote n desc 1 i (some y) t := by
  refine completes_tcmAnswered_same (exec_tcmLookup n desc next s) h ?_
  obtain ⟨-, -, -, -, hmove⟩ := h
  rw [hfind]
  dsimp only
  rw [Dev.tcamMoving_of_none hmove]
  rfl

theorem completes_tcmClearPartition (n : Region) (h : s.dev.TcmTakes n 6 p desc next) :
    Completes (.tcmClearPartition n desc next) s fun t =>
      (∀ q i, t.tcamEntry q i = if q = p.id then none else s.dev.tcamEntry q i) ∧
      s.dev.TcmWrote n desc 1 (leAt desc 4 4) none t := by
  refine completes_tcmAnswered (exec_tcmClearPartition n desc next s) h rfl (Dev.retabled_clearPart (part := p.id))
    fun t hsearch hback => ⟨fun q i => ?_, hback⟩
  rw [Dev.tcamEntry_congr (congrArg SearchSt.tcam hsearch)]
  exact Dev.tcamEntry_clearPart

/-! ### INSERT_AT (R210) -/

theorem completes_tcmInsertAt_free (n : Region) (h : s.dev.TcmTakes n 3 p desc next) (hprio : p.prio = false)
    (hfree : s.dev.tcamEntry p.id (leAt desc 4 4) = none) :
    Completes (.tcmInsertAt n desc next) s fun t =>
      t.tcamEntry p.id (leAt desc 4 4) = some (tcmEntry p.wide desc next) ∧
      (∀ i, i ≠ leAt desc 4 4 → t.tcamEntry p.id i = s.dev.tcamEntry p.id i) ∧ t.search.move = none ∧
      s.dev.TcmWrote n desc 1 (leAt desc 4 4) none t := by
  refine completes_tcmAnswered_setTcam (exec_tcmInsertAt n desc next s) h ?_
  dsimp only
  rw [hprio, hfree]
  rfl

theorem completes_tcmInsertAt_prio (n : Region) (h : s.dev.TcmTakes n 3 p desc next) (hprio : p.prio = true) :
    Completes (.tcmInsertAt n desc next) s fun t => t.search = s.dev.search ∧
      s.dev.TcmWrote n desc stWrongMode (leAt desc 4 4) none t := by
  refine completes_tcmAnswered_same (exec_tcmInsertAt n desc next s) h ?_
  dsimp only
  rw [hprio]
  rfl

/-- The move upwards by which an INSERT_AT makes room: from the entry below the free place `free` down to INDEX. -/
def insertMove (n i now free : Nat) (p : TcamPart) (desc next : Bytes) : TcamMove :=
  { part := p.id, up := true, at_ := free - 1, last := leAt desc 4 4, open_ := none, entry := tcmEntry p.wide desc next
    ring := k2 n i, desc := desc, wide := p.wide, nextAt := now }

theorem completes_tcmInsertAt_moves (n : Region) {free : Nat} (h : s.dev.TcmTakes n 3 p desc next) (hprio : p.prio = false)
    (hused : s.dev.tcamEntry p.id (leAt desc 4 4) ≠ none) (habove : s.dev.freeAbove p (leAt desc 4 4) = some free)
    (hbelow : s.dev.freeBelow p (leAt desc 4 4) = none) :
    Completes (.tcmInsertAt n desc next) s fun t => t.search.tcam = s.dev.search.tcam ∧
      t.search.move = some (insertMove n (s.dev.f1 .TCM_RING_HEAD n) s.dev.now free p desc next) := by
  have started : exec (.tcmInsertAt n desc next) s = .next (s.on (s.dev.tcmAnswered n 3 desc next
      (s.dev.setMove (some (insertMove n (s.dev.f1 .TCM_RING_HEAD n) s.dev.now free p desc next)), none))) := by
    rw [exec_tcmInsertAt, execTcmInsertAt, State.run_eq, Dev.tcmTake_of_takes h, hprio, if_neg Bool.false_ne_true,
      if_neg (by simpa using hused), habove, hbelow]
    rfl
  refine completes_of_eq started ?_
  rw [Dev.tcmAnswered_search]
  exact ⟨rfl, rfl⟩

/-! ### Descriptors that halt the ring, and RESTART (R209) -/

/-- The status fields of region `n`'s ring, halted at index `i`. -/
def Dev.tcmHaltShown (d : Dev) (n i : Nat) : Dev :=
  ((d.set1 .TCM_RING_STATUS_HALTED n 1).set1 .TCM_RING_STATUS_HALT_INDEX n i).set1 .TCM_RING_STATUS_ENABLED n 0

/-- A halt is a descriptor written back, the status fields, and a report. -/
theorem Dev.reports_tcmHalt : ∃ o, ((d.emit o).tcmHaltShown n (d.f1 .TCM_RING_HEAD n)).Reports (d.tcmHalt n desc) := by
  unfold Dev.tcmHalt
  exact ⟨_, Dev.reports_record _ _ _ _ _⟩

theorem Dev.tcmHalt_shown : (d.tcmHalt n desc).f1 .TCM_RING_STATUS_HALTED n = 1 ∧
    (d.tcmHalt n desc).f1 .TCM_RING_STATUS_HALT_INDEX n = d.f1 .TCM_RING_HEAD n % 2 ^ 16 ∧
    (d.tcmHalt n desc).f1 .TCM_RING_STATUS_ENABLED n = 0 := by
  obtain ⟨o, reported⟩ := Dev.reports_tcmHalt (d := d) (n := n) (desc := desc)
  simp only [Dev.f1]
  rw [reported.fld _ _ _ (by decide), reported.fld _ _ _ (by decide), reported.fld _ _ _ (by decide)]
  unfold Dev.tcmHaltShown Dev.set1
  simp (disch := decide) only [Dev.fld_setFld_id, Dev.fld_setFld_same]
  exact ⟨rfl, rfl, rfl⟩

theorem Dev.tcmHalt_search : (d.tcmHalt n desc).search = d.search := by
  obtain ⟨o, reported⟩ := Dev.reports_tcmHalt (d := d) (n := n) (desc := desc)
  exact reported.search

theorem completes_tcmBadDescriptor (n : Region) (hready : s.dev.tcmReady n = true) (hbad : s.dev.tcmBad desc next = true) :
    Completes (.tcmBadDescriptor n desc next) s fun t => t.f1 .TCM_RING_STATUS_HALTED n = 1 ∧
      t.f1 .TCM_RING_STATUS_HALT_INDEX n = s.dev.f1 .TCM_RING_HEAD n % 2 ^ 16 ∧ t.f1 .TCM_RING_STATUS_ENABLED n = 0 ∧
      t.search = s.dev.search := by
  refine completes_of_run _ (exec_tcmBadDescriptor n desc next s) ?_
  rw [if_pos ⟨hready, hbad⟩]
  obtain ⟨hhalted, hindex, hoff⟩ := Dev.tcmHalt_shown (d := s.dev) (n := n) (desc := desc)
  exact ⟨hhalted, hindex, hoff, Dev.tcmHalt_search⟩

theorem completes_tcmRingRestart (m : Master) (n : Region) (hopen : s.dev.Open m (Reg.TCM_RING_CTRL.addr n 0))
    (hhalted : s.dev.b1 .TCM_RING_STATUS_HALTED n = true) :
    Completes (.tcmRingRestart m n) s fun t => t.f1 .TCM_RING_STATUS_HALTED n = 0 ∧
      t.f1 .TCM_RING_HEAD n = (s.dev.f1 .TCM_RING_HEAD n + 1) % max 1 (s.dev.f1 .TCM_RING_SIZE n) % 2 ^ 32 := by
  refine completes_of_run _ (exec_tcmRingRestart m n s) ?_
  rw [Dev.onWrite_open _ _ _ _ _ _ hopen, Dev.tcmRestart, if_pos hhalted]
  refine ⟨?halted, ?head⟩
  case halted =>
    rw [Dev.f1, Dev.fld_congr _ _ _ _ _ (Dev.complete_flds _ _), ← Dev.f1, Dev.keeps_tcmAdvance.f1 (by decide),
      Dev.f1_set1_ne (by decide), Dev.f1_set1_same]
    rfl
  case head =>
    rw [Dev.f1, Dev.fld_congr _ _ _ _ _ (Dev.complete_flds _ _), ← Dev.f1, Dev.tcmAdvance_head, Dev.f1_set1_ne (by decide),
      Dev.f1_set1_ne (by decide), Dev.f1_set1_ne (by decide), Dev.f1_set1_ne (by decide)]

end

end

/-- Settles O38: a sound descriptor is answered and written back (`completes_tcmAnswered`), so each clause is the answer that its
operation gives, and READ_ENTRY, which shows its entry itself, what it writes; a bad one halts the ring (`Dev.tcmHalt_shown`). -/
theorem tcamTransactions : Obligations.TcamTransactions := by
  unfold Obligations.TcamTransactions
  refine ⟨?readFree, ?read, ?write, ?insertFree, ?insertPrio, ?insertMoves, ?delete, ?lookup, ?clear, ?bad, ?restart⟩
  case readFree =>
    intro n desc next p s h hentry
    obtain ⟨t, hexec, hpending, hsearch, hback, -⟩ := completes_tcmReadEntry n h hentry
    exact ⟨t, hexec, hpending, hsearch, hback⟩
  case read => exact fun n _ _ _ e _ h hentry => completes_tcmReadEntry (x := some e) n h hentry
  case write =>
    intro n desc next p s h
    obtain ⟨t, hexec, hpending, hentry, hothers, -, hback⟩ := completes_tcmWriteEntry n h
    exact ⟨t, hexec, hpending, ⟨tcmEntry p.wide desc next, hentry, rfl, rfl, rfl, rfl, rfl⟩, hothers, hback⟩
  case insertFree =>
    intro n desc next p s h hprio hfree
    obtain ⟨t, hexec, hpending, hentry, -, hmove, hback⟩ := completes_tcmInsertAt_free n h hprio hfree
    exact ⟨t, hexec, hpending, hentry, hmove, hback⟩
  case insertPrio => exact fun n _ _ _ _ h hprio => completes_tcmInsertAt_prio n h hprio
  case insertMoves =>
    intro n desc next p free s h hprio hused habove hbelow
    obtain ⟨t, hexec, hpending, htcam, hmove⟩ := completes_tcmInsertAt_moves n h hprio hused habove hbelow
    exact ⟨t, hexec, hpending, htcam, congrArg (Option.map _) hmove⟩
  case delete =>
    intro n desc next p s h
    obtain ⟨t, hexec, hpending, hentry, hothers, -, hback⟩ := completes_tcmDeleteAt n h
    exact ⟨t, hexec, hpending, hentry, hothers, hback⟩
  case lookup => exact fun n _ _ _ _ _ _ h hfind => completes_tcmLookup n h hfind
  case clear =>
    intro n desc next p s h
    obtain ⟨t, hexec, hpending, hentries, hback⟩ := completes_tcmClearPartition n h
    exact ⟨t, hexec, hpending, fun i => (hentries p.id i).trans (if_pos rfl), fun q i hq => (hentries q i).trans (if_neg hq),
      hback⟩
  case bad => exact fun n _ _ _ hready hbad => completes_tcmBadDescriptor n hready hbad
  case restart => exact fun m n _ hopen hhalted => completes_tcmRingRestart m n hopen hhalted

end Sys2Proof.Machine
end

