-- ==== Sys2Proof/Proofs/TcamMovesAndScan.lean ====
section
/-! Block moves of ordered insertion (R210, R211), the scan of the TCAM against its shadow (R212, R26), and the obligation on them
(O39). -/

namespace Sys2Proof.Machine

section
variable {d : Dev}

/-! ### Block moves (R211) -/

theorem completes_tcmMoveStep {x : TcamMove} {s : State} (hmove : s.dev.search.move = some x) (hclosed : x.open_ = none)
    (hdue : x.nextAt ≤ s.dev.now) :
    Completes .tcmMoveStep s fun t => t.tcamEntry x.part x.into = s.dev.tcamEntry x.part x.at_ ∧
      t.search.move = some { x with open_ := some s.dev.now, nextAt := s.dev.now + 8 } ∧
      t.ctr .TCM_ENTRIES_MOVED 0 = (s.dev.ctr .TCM_ENTRIES_MOVED 0 + 1) % 2 ^ 64 := by
  have copies : exec .tcmMoveStep s = .next (s.on (s.dev.moveCopy x)) := by
    rw [exec_tcmMoveStep, execTcmMoveStep, State.run_eq, hmove]
    dsimp only
    rw [if_neg (by simp [hclosed, hdue])]
    rfl
  refine completes_of_eq copies ⟨?entry, rfl, ?count⟩
  case entry => rw [Dev.moveCopy, Dev.tcamEntry_setMove, Dev.tcamEntry_count, Dev.tcamEntry_setTcam_same]
  case count =>
    rw [Dev.moveCopy, Dev.ctr_setMove, Dev.ctr_count_same, Dev.ctr_setTcam]
    rfl

theorem Dev.moveClose_last {x : TcamMove} (h : x.at_ = x.last) :
    (d.moveClose x).tcamEntry x.part x.at_ = some x.entry ∧ (d.moveClose x).search.move = none := by
  rw [Dev.moveClose, if_pos h]
  refine ⟨?_, congrArg SearchSt.move Dev.reports_tcmDone.search⟩
  rw [Dev.tcamEntry_congr (congrArg SearchSt.tcam Dev.reports_tcmDone.search), Dev.tcamEntry_setMove, Dev.tcamEntry_setTcam_same]

theorem Dev.moveClose_before {x : TcamMove} (h : x.at_ ≠ x.last) : (d.moveClose x).tcamEntry x.part x.at_ = none ∧
    (d.moveClose x).search.move = some { x with open_ := none, at_ := if x.up then x.at_ - 1 else x.at_ + 1 } := by
  rw [Dev.moveClose, if_neg h, Dev.tcamEntry_setMove, Dev.tcamEntry_setTcam_same]
  exact ⟨rfl, rfl⟩

theorem completes_tcmMoveInvalidate {x : TcamMove} {a : Nat} {s : State} (hmove : s.dev.search.move = some x)
    (hopen : x.open_ = some a) (hdue : a + 4 ≤ s.dev.now) :
    Completes .tcmMoveInvalidate s fun t =>
      if x.at_ = x.last then t.tcamEntry x.part x.at_ = some x.entry ∧ t.search.move = none
      else t.tcamEntry x.part x.at_ = none ∧
        t.search.move = some { x with open_ := none, at_ := if x.up then x.at_ - 1 else x.at_ + 1 } := by
  have closes : exec .tcmMoveInvalidate s = .next (s.on (s.dev.moveClose x)) := by
    rw [exec_tcmMoveInvalidate, execTcmMoveInvalidate, State.run_eq, hmove]
    dsimp only
    rw [if_pos (by simp [hopen, hdue])]
    rfl
  refine completes_of_eq closes ?_
  split
  · exact Dev.moveClose_last ‹_›
  · exact Dev.moveClose_before ‹_›

/-! ### The scan (R212) -/

/-- TCM_SCAN_LAST shows the duration of a full pass that ends. -/
def Dev.passNoted (d : Dev) (pass : Option Nat) : Dev :=
  match pass with
  | none => d
  | some t => d.set0 .TCM_SCAN_LAST t

theorem exec_tcamScanRow_ready (row : Fin 65536) (kind : Fin 6) (pass : Option Nat) {s : State}
    (hready : s.dev.b0 .TCM_STATUS_READY = true) :
    exec (.tcamScanRow row kind pass) s = .next (s.on ((s.dev.passNoted pass).scanRow row kind)) := by
  rw [exec_tcamScanRow, execTcamScanRow, State.run_eq, if_neg (by simp [hready])]
  rfl

/-- TCM_LAST_FAULT names the row. -/
def Dev.rowNoted (d : Dev) (kind row : Nat) : Dev := (d.set0 .TCM_LAST_FAULT_KIND kind).set0 .TCM_LAST_FAULT_ADDR row

theorem Dev.rowNoted_kind {kind row : Nat} : (d.rowNoted kind row).f0 .TCM_LAST_FAULT_KIND = kind % 4 :=
  (Dev.f0_set0_other (by decide)).trans (Dev.f0_set0_same _ _ _)

theorem Dev.rowNoted_addr {kind row : Nat} : (d.rowNoted kind row).f0 .TCM_LAST_FAULT_ADDR = row % 65536 := Dev.f0_set0_same _ _ _

theorem Dev.ctr_rowNoted {kind row i : Nat} {c : Ctr} : (d.rowNoted kind row).ctr c i = d.ctr c i := rfl

/-! #### A row that is rewritten -/

/-- The row is counted and noted as rewritten from its shadow. -/
def Dev.rowRewritten (d : Dev) (row : Nat) : Dev :=
  ((d.count .TCM_ROWS_REWRITTEN 0).rowNoted 1 row).record .TCAM_ROW_REWRITTEN 0 0
    (payloadOf [(2, row), (1, ((d.tcamAt row).map (·.1.id)).getD 0xFF)])

theorem Dev.messaged_rowRewritten {row : Nat} : ((d.count .TCM_ROWS_REWRITTEN 0).rowNoted 1 row).Messaged (d.rowRewritten row) :=
  Dev.messaged_record

theorem Dev.rowRewritten_search {row : Nat} : (d.rowRewritten row).search = d.search := Dev.record_search _ _ _ _ _

theorem Dev.rowRewritten_img {row : Nat} : (d.rowRewritten row).img = d.img := Dev.record_img _ _ _ _ _

theorem completes_tcamScanRow_cured (row : Fin 65536) {s : State} (hready : s.dev.b0 .TCM_STATUS_READY = true) :
    Completes (.tcamScanRow row 1 none) s fun t => t.search = s.dev.search ∧ t.f0 .TCM_LAST_FAULT_KIND = 1 ∧
      t.f0 .TCM_LAST_FAULT_ADDR = row.val ∧
      t.ctr .TCM_ROWS_REWRITTEN 0 = (s.dev.ctr .TCM_ROWS_REWRITTEN 0 + 1) % 2 ^ 64 := by
  refine completes_of_eq (t := s.dev.rowRewritten row) (exec_tcamScanRow_ready row 1 none hready)
    ⟨Dev.rowRewritten_search, ?kind, ?addr, ?count⟩
  case kind => exact (Dev.messaged_rowRewritten.f0 (by decide)).trans Dev.rowNoted_kind
  case addr =>
    exact ((Dev.messaged_rowRewritten.f0 (by decide)).trans Dev.rowNoted_addr).trans (Nat.mod_eq_of_lt row.isLt)
  case count =>
    rw [Dev.messaged_rowRewritten.memoryCounter (by decide), Dev.ctr_rowNoted, Dev.ctr_count_same]
    rfl

/-! #### An entry lost with its shadow -/

/-- The entry is invalidated and counted as lost. -/
def Dev.entryLost (d : Dev) (row : Nat) (p : TcamPart) (i : Nat) : Dev :=
  ((((d.setTcam p.id i none).rowNoted 2 row).count .TCM_ENTRIES_LOST 0).set1 .TCM_PART_INFO_LOST p.id 1)

theorem Dev.scanRow_lost {row i : Nat} {p : TcamPart} (h : d.tcamAt row = some (p, i)) :
    d.scanRow row 5 = (d.entryLost row p i).record .TCAM_ENTRY_LOST 0 0 (payloadOf [(1, p.id), (2, i)]) := by
  unfold Dev.scanRow
  dsimp only
  rw [h]
  rfl

theorem completes_tcamScanRow_lost (row : Fin 65536) {p : TcamPart} {i : Nat} {s : State}
    (hready : s.dev.b0 .TCM_STATUS_READY = true) (hrow : s.dev.tcamAt row = some (p, i)) :
    Completes (.tcamScanRow row 5 none) s fun t => t.tcamEntry p.id i = none ∧ t.f0 .TCM_LAST_FAULT_KIND = 2 ∧
      t.ctr .TCM_ENTRIES_LOST 0 = (s.dev.ctr .TCM_ENTRIES_LOST 0 + 1) % 2 ^ 64 := by
  refine completes_of_eq (exec_tcamScanRow_ready row 5 none hready) ?_
  have lost : (s.dev.passNoted none).scanRow row (5 : Fin 6) = (s.dev.entryLost row p i).record .TCAM_ENTRY_LOST 0 0
      (payloadOf [(1, p.id), (2, i)]) := Dev.scanRow_lost hrow
  rw [lost]
  refine ⟨?entry, ?kind, ?count⟩
  case entry =>
    rw [Dev.tcamEntry_congr (congrArg SearchSt.tcam (Dev.record_search _ _ _ _ _))]
    exact Dev.tcamEntry_setTcam_same
  case kind =>
    rw [Dev.messaged_record.f0 (by decide), Dev.entryLost, Dev.f0_set1_ne (by decide)]
    exact Dev.rowNoted_kind
  case count =>
    rw [Dev.messaged_record.memoryCounter (by decide)]
    exact Dev.ctr_count_same _ _ _

/-! #### A bank that stays bad (R26) -/

theorem bitOf_putBit_true {v i b : Nat} (h : bitOf v b = true) : bitOf (putBit v i true) b = true := by
  unfold putBit
  split
  · exact h
  · next hclear =>
    rw [if_pos rfl]
    have set : bitOf (v + 2 ^ i) i = true := by
      rw [bitOf_eq_testBit, Nat.add_comm, Nat.testBit_two_pow_add_eq, ← bitOf_eq_testBit, Bool.not_eq_true']
      exact Bool.eq_false_iff.2 hclear
    have back : putBit (v + 2 ^ i) i false = v := by
      rw [putBit, if_neg (by simp [set]), if_neg Bool.false_ne_true, Nat.add_sub_cancel]
    have kept := bitOf_putBit_false (v + 2 ^ i) i b
    rw [back, h] at kept
    exact (Bool.and_eq_true_iff.1 kept.symm).1

/-- The fields that the isolation of a region may write. -/
def isolationFields : List Nat := Field.HLT_SUM_REGION_ISOLATED.id :: (steadyFields ++ autumnFields)

theorem Dev.keeps_isolateRegion {n cause : Nat} : d.Keeps isolationFields (fun _ => ()) (d.isolateRegion n cause) where
  view := rfl
  fld g i j hg := by
    simp only [isolationFields, List.mem_cons, List.mem_append, not_or] at hg
    obtain ⟨hregion, hsteady, hautumn⟩ := hg
    exact Dev.isolateRegion_fld hsteady hautumn hregion

theorem bitOf_mod {v b w : Nat} (hb : b < w) : bitOf (v % 2 ^ w) b = bitOf v b := by
  rw [bitOf_eq_testBit, bitOf_eq_testBit, Nat.testBit_mod_two_pow, decide_eq_true hb, Bool.true_and]

/-- A region that is isolated stays so when another leaves service. -/
theorem Dev.regionIsolated_isolateRegion_of {m n cause : Nat} (hm : m < 4) (h : d.regionIsolated m = true) :
    (d.isolateRegion n cause).regionIsolated m = true := by
  cases hn : d.regionIsolated n with
  | true => rwa [Dev.isolateRegion, hn]
  | false =>
    rw [Dev.regionIsolated, Dev.f0, Dev.isolateRegion_fld_after hn (by decide) (by decide), Dev.setBit, Dev.fld_setFld_same,
      Dev.steady_discardRegion.fld _ _ _ (by decide)]
    exact (bitOf_mod hm).trans (bitOf_putBit_true h)

/-- The regions of a list leave service one after another. -/
def Dev.isolateRegions (d : Dev) (l : List Nat) (cause : Nat) : Dev := l.foldl (fun d n => d.isolateRegion n cause) d

theorem Dev.keeps_isolateRegions {l : List Nat} {cause : Nat} :
    d.Keeps isolationFields (fun _ => ()) (d.isolateRegions l cause) := .foldl (fun _ _ => Dev.keeps_isolateRegion) l d

theorem Dev.regionIsolated_isolateRegions {n cause : Nat} (hn : n < 4) (l : List Nat) (h : n ∈ l ∨ d.regionIsolated n = true) :
    (d.isolateRegions l cause).regionIsolated n = true := by
  induction l generalizing d with
  | nil => exact h.resolve_left List.not_mem_nil
  | cons m l ih =>
    refine ih ?_
    obtain hmem | hisolated := h
    · obtain rfl | hmem := List.mem_cons.1 hmem
      · exact .inr (Dev.regionIsolated_isolateRegion hn)
      · exact .inl hmem
    · exact .inr (Dev.regionIsolated_isolateRegion_of hn hisolated)

/-- The status fields of a bank that has failed. -/
def Dev.bankShown (d : Dev) (bank : Nat) : Dev :=
  ((if bank < 32 then d.setBit .TCM_BANK_FAULT_LO 0 bank true else d.setBit .TCM_BANK_FAULT_HI 0 (bank - 32) true).set0
    .TCM_STATUS_HARD_FAULT 1).setBit .HLT_SUM_ENGINE_TCAM 0 (bank / 16) true

theorem Dev.keeps_bankShown {bank : Nat} : d.Keeps [Field.TCM_BANK_FAULT_LO.id, Field.TCM_BANK_FAULT_HI.id,
    Field.TCM_STATUS_HARD_FAULT.id, Field.HLT_SUM_ENGINE_TCAM.id] Dev.img (d.bankShown bank) := by
  have fault : d.Keeps [Field.TCM_BANK_FAULT_LO.id, Field.TCM_BANK_FAULT_HI.id, Field.TCM_STATUS_HARD_FAULT.id,
      Field.HLT_SUM_ENGINE_TCAM.id] Dev.img
      (if bank < 32 then d.setBit .TCM_BANK_FAULT_LO 0 bank true else d.setBit .TCM_BANK_FAULT_HI 0 (bank - 32) true) :=
    .ite (Dev.keeps_setFld (by decide) rfl) (Dev.keeps_setFld (by decide) rfl)
  exact (fault.trans (Dev.keeps_setFld (by decide) rfl)).trans (Dev.keeps_setFld (by decide) rfl)

theorem Dev.bankShown_hardFault {bank : Nat} : (d.bankShown bank).f0 .TCM_STATUS_HARD_FAULT = 1 :=
  (Dev.fld_setFld_id _ _ _ _ _ _ _ _ (by decide)).trans (Dev.f0_set0_same _ _ _)

/-- A failed bank is its status fields, a record, and the isolation of the regions that search it. -/
theorem Dev.bankFailed_eq {bank : Nat} : d.bankFailed bank = ((d.bankShown bank).record .TCAM_BANK_FAILED 12 bank
    (payloadOf [(1, bank), (1, (d.bankUsers bank).foldl (fun k n => k + 2 ^ n) 0)])).isolateRegions (d.bankUsers bank)
      EvCode.TCAM_BANK_FAILED.code := rfl

theorem Dev.bankFailed_f0 {bank : Nat} {f : Field} (hi : f.id ∉ isolationFields) (hr : f.id ∉ reportFields) :
    (d.bankFailed bank).f0 f = (d.bankShown bank).f0 f := by
  rw [Dev.bankFailed_eq, Dev.keeps_isolateRegions.f0 hi, Dev.f0, Dev.record_fld _ _ _ _ _ _ _ _ hr, Dev.f0]

theorem Dev.bankUsers_lt {bank n : Nat} (h : n ∈ d.bankUsers bank) : n < 4 := List.mem_range.1 (List.mem_filter.1 h).1

theorem Dev.regionIsolated_bankFailed {bank n : Nat} (h : n ∈ d.bankUsers bank) : (d.bankFailed bank).regionIsolated n = true := by
  rw [Dev.bankFailed_eq]
  exact Dev.regionIsolated_isolateRegions (Dev.bankUsers_lt h) _ (.inl h)

/-- Which regions search a bank turns on the image alone. -/
theorem Dev.bankUsers_congr {e : Dev} (h : e.img = d.img) (bank : Nat) : e.bankUsers bank = d.bankUsers bank := by
  simp only [Dev.bankUsers, Dev.section, h]

theorem Dev.passNoted_img {pass : Option Nat} : (d.passNoted pass).img = d.img := by
  cases pass with
  | none => rfl
  | some t => rfl

theorem completes_tcamScanRow_bank (row : Fin 65536) (pass : Option Nat) {s : State}
    (hready : s.dev.b0 .TCM_STATUS_READY = true) :
    Completes (.tcamScanRow row 2 pass) s fun t => t.f0 .TCM_STATUS_HARD_FAULT = 1 ∧ t.f0 .TCM_LAST_FAULT_KIND = 3 ∧
      ∀ n ∈ s.dev.bankUsers (row.val / 1024), t.regionIsolated n = true := by
  refine completes_of_eq (t := (((s.dev.passNoted pass).rowRewritten row).rowNoted 3 row).bankFailed (row.val / 1024))
    (exec_tcamScanRow_ready row 2 pass hready) ⟨?fault, ?kind, fun n hn => ?users⟩
  case fault => exact (Dev.bankFailed_f0 (by decide) (by decide)).trans Dev.bankShown_hardFault
  case kind =>
    rw [Dev.bankFailed_f0 (by decide) (by decide), Dev.keeps_bankShown.f0 (by decide)]
    exact Dev.rowNoted_kind
  case users =>
    have image : (((s.dev.passNoted pass).rowRewritten row).rowNoted 3 row).img = s.dev.img :=
      Dev.rowRewritten_img.trans Dev.passNoted_img
    exact Dev.regionIsolated_bankFailed (Dev.bankUsers_congr image _ ▸ hn)

end

/-- Settles O39: a step of a move copies (`Dev.moveCopy`) and then closes, at the last entry with the new one in its place
(`Dev.moveClose_last`, `Dev.moveClose_before`); the scan is a rewrite that is counted, an entry invalidated, or a failed bank,
whose users stay isolated while one after another leaves service (`Dev.regionIsolated_isolateRegions`). -/
theorem tcamMovesAndScan : Obligations.TcamMovesAndScan := by
  unfold Obligations.TcamMovesAndScan
  refine ⟨?step, ?close, ?equal, ?pass, ?bank, ?cured, ?lost⟩
  case step => exact fun _ _ hmove hclosed hdue => completes_tcmMoveStep hmove hclosed hdue
  case close => exact fun _ _ _ hmove hopen hdue => completes_tcmMoveInvalidate hmove hopen hdue
  case equal => exact fun row _ hready => exec_tcamScanRow_ready row 0 none hready
  case pass => exact fun row us _ hready => exec_tcamScanRow_ready row 0 (some us) hready
  case bank => exact fun row pass _ hready => completes_tcamScanRow_bank row pass hready
  case cured => exact fun row _ hready => completes_tcamScanRow_cured row hready
  case lost => exact fun row _ _ _ hready hrow => completes_tcamScanRow_lost row hready hrow

end Sys2Proof.Machine
end

