-- ==== Sys2Proof/Proofs/EmptiedQueues.lean ====
section
/-! Queues that are emptied (R271, R273, R357): cells that are freed leave every queue and flap timer alone, and a queue that is
flushed, or whose frames pass to the hold writer, is empty and stays so while the next ones are. -/

namespace Sys2Proof.Machine

/-! ### Cells that are freed -/

/-- The buffer but for the cells of its frames, and how often each port's flap timer has expired. -/
def Dev.linkedView (d : Dev) : BufSt × (Nat → Nat) := ({ d.buf with chains := [] }, fun p => d.ctr .QUE_FLAP_EXPIRED p)

/-- At most references have been released from one device to the other, with the pause requests that this ends. -/
abbrev Dev.Frees (d e : Dev) : Prop := d.Keeps quietFields Dev.linkedView e

section
variable {d e : Dev}

theorem Dev.Reports.frees (h : d.Reports e) (hc : d.Uncounted e) : d.Frees e := by
  refine h.keeps (List.subset_append_left _ _) ?_
  have counted : (fun p => e.ctr .QUE_FLAP_EXPIRED p) = fun p => d.ctr .QUE_FLAP_EXPIRED p :=
    funext fun p => hc _ p (by decide)
  simp only [Dev.linkedView, h.buf, counted]

theorem Dev.frees_setFld {f : Field} {i j v : Nat} (hf : f.id ∈ quietFields) : d.Frees (d.setFld f i j v) :=
  Dev.keeps_setFld hf rfl

theorem Dev.frees_countN {c : Ctr} {i n : Nat} (hc : Ctr.QUE_FLAP_EXPIRED ≠ c) : d.Frees (d.countN c i n) :=
  ⟨congrArg (Prod.mk _) (funext fun _ => Dev.ctr_countN_ne hc), fun _ _ _ _ => rfl⟩

theorem Dev.frees_count {c : Ctr} {i : Nat} (hc : Ctr.QUE_FLAP_EXPIRED ≠ c) : d.Frees (d.count c i) := Dev.frees_countN hc

theorem Dev.frees_raise {s : Nat} : d.Frees (d.raise s) := (Dev.reports_raise d s).frees Dev.uncounted_raise

theorem Dev.frees_record {c : EvCode} {k i : Nat} {p : Bytes} : d.Frees (d.record c k i p) :=
  (Dev.reports_record d c k i p).frees Dev.uncounted_record

theorem Dev.frees_recordCounted {c : EvCode} {t n k i : Nat} {fs : Nat → List (Nat × Nat)} :
    d.Frees (d.recordCounted c t n k i fs) := (Dev.reports_recordCounted d c t n k i fs).frees Dev.uncounted_recordLimited

theorem Dev.frees_perf {m ev q v : Nat} : d.Frees (d.perf m ev q v) :=
  (Dev.reports_perf d m ev q v).frees (.of_ctrs Dev.perf_ctrs)

theorem Dev.frees_emit {o : Output} : d.Frees (d.emit o) := ⟨rfl, fun _ _ _ _ => rfl⟩

theorem Dev.frees_draw : d.Frees d.draw.2 := ⟨rfl, fun _ _ _ _ => rfl⟩

theorem Dev.frees_setMac {p : Nat} {m : MacSt} : d.Frees (d.setMac p m) := ⟨rfl, fun _ _ _ _ => rfl⟩

theorem Dev.frees_pmc {x : PmcSt} : d.Frees { d with pmc := x } := ⟨rfl, fun _ _ _ _ => rfl⟩

theorem Dev.frees_setHoldQ {h : Nat} {x : HoldQ} : d.Frees (d.setHoldQ h x) := ⟨rfl, fun _ _ _ _ => rfl⟩

theorem Dev.frees_setChain {id : Nat} {c : Option Chain} : d.Frees (d.setChain id c) := ⟨rfl, fun _ _ _ _ => rfl⟩

theorem Dev.frees_macCountN {c : Ctr} {p n : Nat} (hc : c.block = .MAC_STAT) : d.Frees (d.macCountN c p n) := by
  have counted : d.Frees (d.countN c p n) := Dev.frees_countN (Ctr.ne_of_block (by rw [hc]; decide))
  exact .ite (.refl d) (.ite (counted.trans Dev.frees_raise) counted)

theorem Dev.frees_noteSent {p len kind : Nat} : d.Frees (d.noteSent p len kind) := by
  unfold Dev.noteSent
  exact (((((Dev.frees_macCountN rfl).trans (Dev.frees_macCountN rfl)).trans (Dev.frees_macCountN rfl)).trans
    (Dev.frees_macCountN rfl)).trans Dev.frees_pmc).trans Dev.frees_setMac

theorem Dev.frees_sendPause {p c quanta : Nat} : d.Frees (d.sendPause p c quanta) := by
  have sent {o : Output} : d.Frees ((d.noteSent p 64 1).emit o) := Dev.frees_noteSent.trans Dev.frees_emit
  exact .ite (.refl d) (.ite (sent.trans (.foldl (fun _ _ => .ite (Dev.frees_macCountN rfl) (.refl _)) _ _))
    (.ite (sent.trans (Dev.frees_macCountN rfl)) (.refl d)))

theorem Dev.frees_checkXoff {p c : Nat} : d.Frees (d.checkXoff p c) := by
  have asked : d.Frees (d.setBit .QUE_PORT_STATUS_PFC_XOFF p c true) := Dev.frees_setFld (by decide)
  unfold Dev.checkXoff
  exact .ite (((asked.trans (Dev.frees_count (by decide))).trans Dev.frees_setMac).trans Dev.frees_sendPause) (.refl d)

theorem Dev.frees_checkXon {p c : Nat} : d.Frees (d.checkXon p c) :=
  .ite (((Dev.frees_setFld (by decide)).trans Dev.frees_setMac).trans Dev.frees_sendPause) (.refl d)

theorem Dev.frees_freeRequest {id by_ : Nat} : d.Frees (d.freeRequest id by_) := by
  unfold Dev.freeRequest
  split
  · exact .refl d
  · exact .ite (Dev.frees_setChain.trans Dev.frees_checkXon) ((Dev.frees_count (by decide)).trans Dev.frees_record)

theorem Dev.frees_dropRef {id port : Nat} : d.Frees (d.dropRef id port) := by
  unfold Dev.dropRef
  split
  · exact .refl d
  · exact .ite Dev.frees_setChain Dev.frees_setChain

theorem Dev.frees_release {id port : Nat} : d.Frees (d.release id port) :=
  .ite (Dev.frees_dropRef.trans Dev.frees_freeRequest) Dev.frees_dropRef

theorem Dev.frees_refuse {q i : Nat} {de : Desc} : d.Frees (d.refuse q i de) :=
  ((Dev.frees_count (by decide)).trans Dev.frees_perf).trans Dev.frees_release

theorem Dev.frees_ecnMark {q i : Nat} {de : Desc} : d.Frees (d.ecnMark q i de).1 := by
  have marked {g : Dev} : g.Frees (g.count .QUE_ECN_MARKED (q * 10 + i)) := Dev.frees_count (by decide)
  unfold Dev.ecnMark
  dsimp only
  split
  · exact .refl d
  · split
    · exact marked
    · split
      · exact Dev.frees_draw.trans marked
      · exact Dev.frees_draw

end

/-! ### Queues that are emptied -/

/-- Frames have at most left their queues or joined those of the hold writer from one device to the other: flap timers stand,
and a queue of any port but 133 that was empty is empty. -/
structure Dev.Drains (d e : Dev) : Prop where
  flap : e.buf.flap = d.buf.flap
  fabFlap : e.buf.fabFlap = d.buf.fabFlap
  empty : ∀ q i, q ≠ 133 → d.queue q i = [] → e.queue q i = []
  expired : ∀ p, e.ctr .QUE_FLAP_EXPIRED p = d.ctr .QUE_FLAP_EXPIRED p

namespace Dev.Drains

variable {d e g : Dev}

theorem refl (d : Dev) : d.Drains d := ⟨rfl, rfl, fun _ _ _ h => h, fun _ => rfl⟩

theorem trans (h : d.Drains e) (k : e.Drains g) : d.Drains g where
  flap := k.flap.trans h.flap
  fabFlap := k.fabFlap.trans h.fabFlap
  empty q i hq hd := k.empty q i hq (h.empty q i hq hd)
  expired p := (k.expired p).trans (h.expired p)

theorem ite {c : Prop} [Decidable c] (h : d.Drains e) (k : d.Drains g) : d.Drains (if c then e else g) := by
  split
  · exact h
  · exact k

/-- A fold, seen through the device `dev` that it carries. -/
theorem foldl {σ τ : Type} (dev : σ → Dev) {f : σ → τ → σ} (h : ∀ a x, (dev a).Drains (dev (f a x))) (l : List τ) (a : σ) :
    (dev a).Drains (dev (l.foldl f a)) := by
  induction l generalizing a with
  | nil => exact refl (dev a)
  | cons x l ih => exact (h a x).trans (ih _)

end Dev.Drains

/-- Queue `i` of port `q` is emptied from one device to the other. -/
def Dev.Empties (q i : Nat) (d e : Dev) : Prop := d.Drains e ∧ e.queue q i = []

theorem Dev.Empties.trans {q i : Nat} {d e g : Dev} (hq : q ≠ 133) (h : Dev.Empties q i d e) (k : e.Drains g) :
    Dev.Empties q i d g := ⟨h.1.trans k, k.empty q i hq h.2⟩

/-- A fold whose step for `i` empties queue `i` of port `q` leaves every queue of its list empty. -/
theorem Dev.Empties.foldl {σ : Type} (dev : σ → Dev) {q : Nat} {f : σ → Nat → σ} (hq : q ≠ 133)
    (h : ∀ a i, Dev.Empties q i (dev a) (dev (f a i))) (l : List Nat) (a : σ) :
    (dev a).Drains (dev (l.foldl f a)) ∧ ∀ i ∈ l, (dev (l.foldl f a)).queue q i = [] := by
  have drains (l : List Nat) (a : σ) : (dev a).Drains (dev (l.foldl f a)) := .foldl dev (fun a i => (h a i).1) l a
  refine ⟨drains l a, ?_⟩
  induction l generalizing a with
  | nil => exact fun _ hi => absurd hi List.not_mem_nil
  | cons x l ih =>
    intro i hi
    rcases List.mem_cons.1 hi with rfl | hl
    · exact (drains l _).empty q i hq (h a i).2
    · exact ih _ i hl

section
variable {d e : Dev}

theorem Dev.Keeps.drains (h : d.Frees e) : d.Drains e where
  flap := congrArg (fun v => v.1.flap) h.view
  fabFlap := congrArg (fun v => v.1.fabFlap) h.view
  empty q i _ hd := (congrArg (fun v : BufSt × (Nat → Nat) => Map.get [] v.1.queues (k2 q i)) h.view).trans hd
  expired p := congrFun (congrArg Prod.snd h.view) p

theorem Dev.queue_setQueue {q i a b : Nat} {l : List Desc} :
    (d.setQueue q i l).queue a b = if a = q ∧ b = i then l else d.queue a b := by
  simp only [Dev.queue, Dev.setQueue, Map.get_set, k2_inj]

theorem Dev.queue_setQueue_same {q i : Nat} {l : List Desc} : (d.setQueue q i l).queue q i = l :=
  Dev.queue_setQueue.trans (if_pos ⟨rfl, rfl⟩)

theorem Dev.drains_setQueue {q i : Nat} {l : List Desc} (h : q = 133 ∨ l = []) : d.Drains (d.setQueue q i l) where
  flap := rfl
  fabFlap := rfl
  expired _ := rfl
  empty a b ha hd := by
    rw [Dev.queue_setQueue]
    split
    · next hab => exact h.resolve_left (fun hq => ha (hab.1.trans hq))
    · exact hd

theorem Dev.drains_emptied {q i : Nat} : d.Drains (d.emptied q i) :=
  .ite ⟨rfl, rfl, fun _ _ _ h => h, fun _ => rfl⟩ (.refl d)

/-! #### A queue that is flushed (R271) -/

/-- A queue without its frames, before these are released. -/
def Dev.unlinked (d : Dev) (q i : Nat) : Dev :=
  ((d.setQueue q i []).countN .QUE_FLUSHED (q * 10 + i) (d.queue q i).length).emptied q i

theorem Dev.queue_emptied {q i a b : Nat} : (d.emptied q i).queue a b = d.queue a b := by
  unfold Dev.emptied
  dsimp only
  split
  · rfl
  · rfl

theorem Dev.queue_unlinked {q i : Nat} : (d.unlinked q i).queue q i = [] :=
  Dev.queue_emptied.trans (Dev.queue_setQueue_same (d := d))

theorem Dev.drains_unlinked {q i : Nat} : d.Drains (d.unlinked q i) :=
  ((Dev.drains_setQueue (.inr rfl)).trans (Dev.Keeps.drains (Dev.frees_countN (by decide)))).trans Dev.drains_emptied

theorem Dev.frees_flushQueue {q i : Nat} : (d.unlinked q i).Frees (d.flushQueue q i) :=
  (Dev.Keeps.ite (Dev.frees_countN (by decide)) (.refl _)).trans (.foldl (fun _ _ => Dev.frees_release) _ _)

theorem Dev.drains_flushQueue {q i : Nat} : d.Drains (d.flushQueue q i) :=
  Dev.drains_unlinked.trans Dev.frees_flushQueue.drains

theorem Dev.empties_flushQueue {q i : Nat} (hq : q ≠ 133) : Dev.Empties q i d (d.flushQueue q i) :=
  ⟨Dev.drains_flushQueue, Dev.frees_flushQueue.drains.empty q i hq Dev.queue_unlinked⟩

/-! #### A queue whose frames pass to the hold writer (R273, R297) -/

theorem Dev.drains_enqueue {i : Nat} {de : Desc} : d.Drains (d.enqueue 133 i de) := by
  have numbered : d.Drains { d with buf := { d.buf with links := d.buf.links + 1 } } :=
    ⟨rfl, rfl, fun _ _ _ h => h, fun _ => rfl⟩
  unfold Dev.enqueue
  dsimp only
  rw [if_neg (by decide)]
  exact (numbered.trans (Dev.drains_setQueue (.inl rfl))).trans ((Dev.frees_count (by decide)).trans Dev.frees_perf).drains

theorem Dev.drains_join {i ing : Nat} {de : Desc} : d.Drains (d.join 133 i ing de).1 := by
  have copied : d.Frees (if de.copy then d.count .QUE_MC_EGRESS_DROP 133 else d) :=
    .ite (Dev.frees_count (by decide)) (.refl d)
  unfold Dev.join
  dsimp only
  split
  · exact (((copied.trans (Dev.frees_count (by decide))).trans Dev.frees_recordCounted).trans Dev.frees_refuse).drains
  · split
    · exact (Dev.frees_ecnMark.drains.trans Dev.drains_enqueue).trans Dev.frees_checkXoff.drains
    · exact ((copied.trans (Dev.frees_count (by decide))).trans Dev.frees_refuse).drains
  · exact ((copied.trans (Dev.frees_count (by decide))).trans Dev.frees_refuse).drains

theorem Dev.drains_passToHold {h ing : Nat} {de : Desc} {head : Bool} : d.Drains (d.passToHold h ing de head).1 := by
  unfold Dev.passToHold
  dsimp only
  split
  · exact Dev.drains_join.trans Dev.frees_setHoldQ.drains
  · exact Dev.drains_join

theorem Dev.drains_queueToHold_emptied {q i : Nat} : ((d.setQueue q i []).emptied q i).Drains (d.queueToHold q i).1 := by
  refine Dev.Drains.foldl Prod.fst (fun a de => ?_) (d.queue q i) (_, 0, 0)
  dsimp only
  split
  · exact (Dev.frees_count (by decide)).drains.trans Dev.drains_passToHold
  · exact ((Dev.frees_count (by decide)).trans Dev.frees_release).drains

theorem Dev.empties_queueToHold {q i : Nat} (hq : q ≠ 133) : Dev.Empties q i d (d.queueToHold q i).1 :=
  ⟨((Dev.drains_setQueue (.inr rfl)).trans Dev.drains_emptied).trans Dev.drains_queueToHold_emptied,
    Dev.drains_queueToHold_emptied.empty q i hq (Dev.queue_emptied.trans Dev.queue_setQueue_same)⟩

/-! ### Flap timers that expire (R273, R357) -/

/-- The flap timer of a front port has expired. -/
def Dev.flapOver (d : Dev) (p : Nat) : Dev :=
  { d with buf := { d.buf with flap := Map.set ⟨none, false⟩ d.buf.flap p ⟨none, true⟩ } }

/-- The flap timer of a fabric device has expired. -/
def Dev.fabFlapOver (d : Dev) (a : Nat) : Dev :=
  { d with buf := { d.buf with fabFlap := Map.set ⟨none, false⟩ d.buf.fabFlap a ⟨none, true⟩ } }

theorem Dev.flapSt_flapOver {p : Nat} : (d.flapOver p).flapSt p = ⟨none, true⟩ :=
  Map.get_set_same (⟨none, false⟩ : FlapSt) d.buf.flap p ⟨none, true⟩

theorem Dev.fabFlap_fabFlapOver {a : Nat} : Map.get ⟨none, false⟩ (d.fabFlapOver a).buf.fabFlap a = ⟨none, true⟩ :=
  Map.get_set_same (⟨none, false⟩ : FlapSt) d.buf.fabFlap a ⟨none, true⟩

/-- Class `t` of a port whose timer has expired, with the frames flushed and moved so far (R273): `d` is the device before. -/
def Dev.emptyClass (d : Dev) (p : Nat) (acc : Dev × Nat × Nat) (t : Nat) : Dev × Nat × Nat :=
  if d.holdPolicy t = 0 then (acc.1.flushQueue p t, acc.2.1 + (acc.1.queue p t).length, acc.2.2)
  else
    let x := acc.1.queueToHold p t
    let chained := decide (x.2.2 ≠ 0) && (d.holdQ (8 * p + t)).active
    (if chained then x.1.count .HLD_HEAD_CHAINS 0 else x.1, acc.2.1 + x.2.1, acc.2.2 + x.2.2)

theorem Dev.emptyPort_eq {p : Nat} : d.emptyPort p =
    let r := (List.range 8).foldl (d.emptyClass p) (d.flapOver p, 0, 0)
    ((r.1.flushQueue p 8).flushQueue p 9, r.2) := rfl

theorem Dev.empties_emptyClass {p t : Nat} {acc : Dev × Nat × Nat} (hp : p ≠ 133) :
    Dev.Empties p t acc.1 (d.emptyClass p acc t).1 := by
  unfold Dev.emptyClass
  split
  · exact Dev.empties_flushQueue hp
  · exact (Dev.empties_queueToHold hp).trans hp (.ite (Dev.frees_count (by decide)).drains (.refl _))

/-- Every queue of a port whose timer has expired is empty: the classes, then the two multicast queues. -/
theorem Dev.emptyPort_empty {p : Nat} (hp : p ≠ 133) :
    (d.flapOver p).Drains (d.emptyPort p).1 ∧ ∀ i < 10, (d.emptyPort p).1.queue p i = [] := by
  rw [Dev.emptyPort_eq]
  extract_lets r
  obtain ⟨classes, hclass⟩ : (d.flapOver p).Drains r.1 ∧ ∀ t ∈ List.range 8, r.1.queue p t = [] :=
    Dev.Empties.foldl Prod.fst hp (fun _ _ => Dev.empties_emptyClass hp) (List.range 8) (d.flapOver p, 0, 0)
  have eighth : Dev.Empties p 8 r.1 (r.1.flushQueue p 8) := Dev.empties_flushQueue hp
  have ninth : Dev.Empties p 9 (r.1.flushQueue p 8) ((r.1.flushQueue p 8).flushQueue p 9) := Dev.empties_flushQueue hp
  refine ⟨classes.trans (eighth.1.trans ninth.1), fun i hi => ?_⟩
  obtain hlow | rfl | rfl : i < 8 ∨ i = 8 ∨ i = 9 := by omega
  · exact (eighth.1.trans ninth.1).empty p i hp (hclass i (List.mem_range.2 hlow))
  · exact ninth.1.empty p 8 hp eighth.2
  · exact ninth.2

theorem Dev.expirePort_empty {p : Nat} (hp : p ≠ 133) :
    (d.expirePort p).flapSt p = ⟨none, true⟩ ∧ (∀ i < 10, (d.expirePort p).queue p i = []) ∧
      (d.expirePort p).ctr .QUE_FLAP_EXPIRED p = (d.ctr .QUE_FLAP_EXPIRED p + 1) % 2 ^ 64 := by
  obtain ⟨drains, empty⟩ := Dev.emptyPort_empty (d := d) hp
  have buf : (d.expirePort p).buf = (d.emptyPort p).1.buf := Dev.record_buf _ _ _ _ _
  refine ⟨?flap, fun i hi => ?queues, ?count⟩
  case flap =>
    rw [Dev.flapSt, buf, drains.flap]
    exact Dev.flapSt_flapOver
  case queues =>
    rw [Dev.queue, buf]
    exact empty i hi
  case count =>
    rw [Dev.expirePort, Dev.uncounted_record _ _ (by decide), Dev.ctr_count_same, drains.expired]
    rfl

theorem Dev.expireDevice_empty {a : Nat} : Map.get ⟨none, false⟩ (d.expireDevice a).buf.fabFlap a = ⟨none, true⟩ ∧
    ∀ i < 8, (d.expireDevice a).queue (256 + a) i = [] := by
  have hq : 256 + a ≠ 133 := by omega
  obtain ⟨drains, empty⟩ : (d.fabFlapOver a).Drains (d.expireDevice a) ∧
      ∀ i ∈ List.range 8, (d.expireDevice a).queue (256 + a) i = [] := by
    refine Dev.Empties.foldl id hq (fun g t => ?_) (List.range 8) (d.fabFlapOver a)
    dsimp only [id]
    split
    · exact Dev.empties_flushQueue hq
    · exact Dev.empties_queueToHold hq
  refine ⟨?_, fun i hi => empty i (List.mem_range.2 hi)⟩
  rw [drains.fabFlap]
  exact Dev.fabFlap_fabFlapOver

theorem completes_flapTimerExpire (p : Port) {a : Nat} {s : State} (htimer : (s.dev.flapSt p).endAt = some a)
    (hdue : a ≤ s.dev.now) (hwinter : s.dev.winter = false) :
    Completes (.flapTimerExpire p) s fun t => t.flapSt p = ⟨none, true⟩ ∧ (∀ i < 10, t.queue p i = []) ∧
      t.ctr .QUE_FLAP_EXPIRED p = (s.dev.ctr .QUE_FLAP_EXPIRED p + 1) % 2 ^ 64 := by
  refine completes_of_run _ (exec_flapTimerExpire p s) ?_
  rw [if_pos (by simp [htimer, hdue, hwinter])]
  exact Dev.expirePort_empty (by omega)

theorem completes_fabricDestFlapExpire (a : Fin 256) {x : Nat} {s : State}
    (htimer : (Map.get ⟨none, false⟩ s.dev.buf.fabFlap a).endAt = some x) (hdue : x ≤ s.dev.now)
    (hwinter : s.dev.winter = false) :
    Completes (.fabricDestFlapExpire a) s fun t => Map.get ⟨none, false⟩ t.buf.fabFlap a = ⟨none, true⟩ ∧
      ∀ i < 8, t.queue (256 + a) i = [] := by
  refine completes_of_run _ (exec_fabricDestFlapExpire a s) ?_
  rw [if_pos (by simp [htimer, hdue, hwinter])]
  exact Dev.expireDevice_empty

end

end Sys2Proof.Machine
end

