-- ==== Sys2Proof/Proofs/BufferEvents.lean ====
section
/-! The failure of a link memory (R279), the arrival reserve (R260), capture records (R244, R245), and the obligation on events of
the buffer (O41). -/

namespace Sys2Proof.Machine

section
variable {d : Dev}

/-! ### The link memory (R279) -/

theorem Dev.notice_buf {opcode : Nat} {payload : List Nat} : (d.notice opcode payload).buf = d.buf := by
  unfold Dev.notice Dev.f2hPost
  dsimp only
  split
  · rfl
  · exact Dev.doorbell_buf _ _

theorem Dev.setHealth_buf {st code : Nat} : (d.setHealth st code).buf = d.buf := by
  unfold Dev.setHealth
  dsimp only
  rw [Dev.raise_buf, Dev.notice_buf, Dev.doorbell_buf]
  rfl

theorem Dev.cutFrame_linkFailed {p : Nat} : (d.cutFrame p).1.buf.linkFailed = d.buf.linkFailed := by
  unfold Dev.cutFrame
  split
  · dsimp only
    split
    · rfl
    · rw [Dev.reports_macCount.buf]
      rfl
  · dsimp only
    rw [Dev.emit_buf, Dev.reports_macCount.buf]
    rfl

theorem Dev.safeTx_linkFailed : d.safeTx.buf.linkFailed = d.buf.linkFailed := by
  refine List.foldlRecOn (motive := fun e : Dev => e.buf.linkFailed = d.buf.linkFailed) _ _ rfl (fun e he p _ => ?_)
  have cut : (e.cutFrame p).1.buf.linkFailed = d.buf.linkFailed := Dev.cutFrame_linkFailed.trans he
  dsimp only
  split
  · exact cut
  · exact cut

theorem Dev.leaseStop_buf : d.leaseStop.buf = d.buf := by
  unfold Dev.leaseStop
  dsimp only
  split
  · exact Dev.doorbell_buf _ _
  · rfl

theorem Dev.quiesce_linkFailed : d.quiesce.buf.linkFailed = d.buf.linkFailed := by
  have pulses (e : Dev) : e.pulsesLow.buf = e.buf := rfl
  simp only [Dev.quiesce, Dev.set0_buf, Dev.leaseStop_buf, pulses, Dev.safeTx_linkFailed]

theorem Dev.abandonTurn_buf {c reason : Nat} : (d.abandonTurn c reason).buf = d.buf := by
  unfold Dev.abandonTurn
  dsimp only
  split
  · exact Dev.recordLimited_buf _ _ _ _ _ _ _
  · rfl

theorem Dev.abandonImage_buf : d.abandonImage.buf = d.buf := by
  unfold Dev.abandonImage Dev.imgEnd
  split
  · rfl
  · exact Dev.doorbell_buf _ _

theorem Dev.endRetrain_buf : d.endRetrain.buf = d.buf := by
  unfold Dev.endRetrain
  split
  · rfl
  · rfl

theorem Dev.abortRetrain_buf {reason : Nat} : (d.abortRetrain reason).buf = d.buf := by
  unfold Dev.abortRetrain
  split
  · rfl
  · exact (Dev.record_buf _ _ _ _ _).trans Dev.endRetrain_buf

theorem Dev.beginReset_linkFailed {cause : Nat} : (d.beginReset cause).buf.linkFailed = d.buf.linkFailed := by
  unfold Dev.beginReset
  split
  · rfl
  · dsimp only
    rw [Dev.quiesce_linkFailed, Dev.abortRetrain_buf]

theorem Dev.trialFailed_linkFailed : d.trialFailed.buf.linkFailed = d.buf.linkFailed := by
  have slot {e : Dev} {n st : Nat} : (e.slotState n st).buf = e.buf := rfl
  unfold Dev.trialFailed
  split
  · rfl
  · dsimp only
    split
    · rw [Dev.beginReset_linkFailed, Dev.record_buf, slot]
    · rw [Dev.record_buf, slot]

/-- WINTER keeps the mark of a failed link memory: the buffer is frozen with it (R279, R280). -/
theorem Dev.winterCause_linkFailed {f : Field} {code : Nat} :
    (d.winterCause f code).buf.linkFailed = d.buf.linkFailed := by
  have turns (e : Dev) : ((List.range 32).foldl (fun d c => d.abandonTurn c 8) e).buf = e.buf :=
    List.foldlRecOn (motive := fun g : Dev => g.buf = e.buf) _ _ rfl (fun _ hg _ _ => Dev.abandonTurn_buf.trans hg)
  unfold Dev.winterCause
  dsimp only
  split
  · split
    · dsimp only
      rw [Dev.record_buf, Dev.set0_buf]
    · rw [Dev.record_buf, Dev.set0_buf]
  · rw [Dev.trialFailed_linkFailed, Dev.abandonImage_buf, turns, Dev.set0_buf]
    dsimp only
    rw [Dev.quiesce_linkFailed, Dev.setHealth_buf, Dev.set0_buf]

theorem completes_bufLinkMemoryFailed (k : Fin 4) (s : State) :
    Completes (.bufLinkMemoryFailed k) s fun t => t.buf.linkFailed = true ∧ t.health = 3 ∧
      t.b0 .HLT_CAUSE_CORE_FATAL = true ∧ t.f0 .BUF_LAST_ECC_MEMORY = k.val := by
  refine completes_of_run _ (exec_bufLinkMemoryFailed k s)
    ⟨?mark, Dev.health_winterCause (by decide), Dev.winterCause_set (by decide) (by decide), ?memory⟩
  case mark => rw [Dev.winterCause_linkFailed, Dev.record_buf, Dev.set0_buf, Dev.set0_buf, Dev.set0_buf]
  case memory =>
    rw [Dev.f0, Dev.winterCause_fld (by decide) (by decide)]
    refine (Dev.record_f0 (by decide)).trans ?_
    rw [Dev.f0_set0_same]
    exact Nat.mod_eq_of_lt k.isLt

/-! ### The arrival reserve (R260) -/

theorem exec_bufArrivalReserveWrite_open (m : Master) (v : Fin 4294967296) {s : State}
    (hopen : s.dev.Open m (Reg.BUF_ARRIVAL_RESERVE.addr 0 0)) (hlow : 4096 ≤ v.val) (hhigh : v.val ≤ 65536)
    (hfloor : 65536 ≤ (s.dev.set0 .BUF_ARRIVAL_RESERVE v).sharedSize) :
    exec (.bufArrivalReserveWrite m v) s = .next (s.on ((s.dev.set0 .BUF_ARRIVAL_RESERVE v).complete (.ok 0))) := by
  rw [exec_bufArrivalReserveWrite, execBufArrivalReserveWrite, State.run_eq, Dev.onWrite_open _ _ _ _ _ _ hopen,
    Dev.writeReserve, if_pos ⟨hlow, hhigh⟩, Dev.floorWrite, if_neg (Nat.not_lt.2 hfloor)]
  rfl

/-! ### A row written to a page (R310, R312) -/

/-- The slots of capture records, and what waits for them. -/
def Dev.captureView (d : Dev) : Map (Option Bytes) × ActSt := (d.hld.capArea, d.act)

theorem Dev.Keeps.store {e : Dev} (h : d.Autumnal e) : e.hld = d.hld := congrArg (fun v => v.2.2) h.view

theorem Dev.Keeps.actions {e : Dev} (h : d.Messaged e) : e.act = d.act := congrArg (fun v => v.2.2.1) h.view

theorem Dev.autumn_captureView {f : Field} {code : EvCode} : (d.autumn f code).captureView = d.captureView := by
  have entered (e : Dev) (c : Nat) : (e.enterAutumn c).captureView = e.captureView := by
    rw [Dev.captureView, Dev.autumnal_enterAutumn.store, Dev.messaged_enterAutumn.actions]
    rfl
  unfold Dev.autumn
  dsimp only
  split
  · exact entered _ _
  · split
    · rfl
    · rfl

theorem Dev.Reports.captureView {e : Dev} (h : d.Reports e) : e.captureView = d.captureView := by
  simp only [Dev.captureView, h.hld, h.act]

theorem Dev.wearRows_captureView {z n : Nat} : (d.wearRows z n).captureView = d.captureView := by
  unfold Dev.wearRows Dev.wearCheck
  dsimp only
  split
  · exact Dev.autumn_captureView.trans (Dev.reports_record _ _ _ _ _).captureView
  · rfl

theorem Dev.abortRetrain_captureView {reason : Nat} : (d.abortRetrain reason).captureView = d.captureView := by
  have ended : d.endRetrain.captureView = d.captureView := by
    unfold Dev.endRetrain
    split
    · rfl
    · rfl
  unfold Dev.abortRetrain
  split
  · rfl
  · exact (Dev.reports_record _ _ _ _ _).captureView.trans ended

theorem Dev.defer_captureView {page : Nat} : (d.defer page).captureView = d.captureView := by
  unfold Dev.defer
  split
  · rfl
  · split
    · exact Dev.abortRetrain_captureView
    · rfl

theorem Dev.noteRowWrite_captureView {page kind : Nat} : (d.noteRowWrite page kind).captureView = d.captureView :=
  (Dev.defer_captureView.trans Dev.wearRows_captureView).trans (Dev.reports_perf _ _ _ _ _).captureView

/-! ### Capture records (R244, R245) -/

/-- A sealed record stands in its slot of the hold store's area of `n` records. -/
def Dev.putCapture (d : Dev) (n : Nat) (b : Bytes) : Dev :=
  { d with hld := { d.hld with capArea := Map.set none d.hld.capArea (d.act.capHead % n) (some b) } }

/-- The row of the slot is written with its last record, before that its page is noted for a die under retraining. -/
def Dev.noteCapture (d : Dev) (n : Nat) : Dev :=
  if d.act.capHead % 32 = 31 then d.noteRowWrite (heldEnd d.hld.capGib + d.act.capHead % n / 512) 1
  else d.defer (heldEnd d.hld.capGib + d.act.capHead % n / 512)

theorem Dev.noteCapture_captureView {n : Nat} : (d.noteCapture n).captureView = d.captureView := by
  unfold Dev.noteCapture
  split
  · exact Dev.noteRowWrite_captureView
  · exact Dev.defer_captureView

/-- The head of the FIFO leaves it and takes its number; the slots stand. -/
theorem Dev.nextCapture_captureView {n : Nat} : (d.nextCapture n).captureView =
    (d.hld.capArea, { d.act with capFifo := d.act.capFifo.drop 1, capHead := d.act.capHead + 1 }) := by
  unfold Dev.nextCapture
  dsimp only
  split
  · rfl
  · rfl

theorem Dev.nextCapture_act {n : Nat} : (d.nextCapture n).act =
    { d.act with capFifo := d.act.capFifo.drop 1, capHead := d.act.capHead + 1 } :=
  congrArg Prod.snd Dev.nextCapture_captureView

/-- A sealed record is written to the hold store's area of `n` records (R244). -/
def Dev.storeCapture (d : Dev) (n : Nat) (b : Bytes) : Dev := ((d.putCapture n b).noteCapture n).nextCapture n

theorem Dev.storeCapture_captureView {n : Nat} {b : Bytes} : (d.storeCapture n b).captureView =
    ((d.putCapture n b).hld.capArea, { d.act with capFifo := d.act.capFifo.drop 1, capHead := d.act.capHead + 1 }) := by
  have noted : ((d.putCapture n b).noteCapture n).captureView = ((d.putCapture n b).hld.capArea, d.act) :=
    Dev.noteCapture_captureView
  have area := congrArg Prod.fst noted
  have act := congrArg Prod.snd noted
  dsimp only [Dev.captureView] at area act
  rw [Dev.storeCapture, Dev.nextCapture_captureView, area, act]

theorem Dev.storeCapture_act {n : Nat} {b : Bytes} : (d.storeCapture n b).act =
    { d.act with capFifo := d.act.capFifo.drop 1, capHead := d.act.capHead + 1 } :=
  congrArg Prod.snd Dev.storeCapture_captureView

/-- A record stored stays in its slot while its row and its number are noted. -/
theorem Dev.storeCapture_slot {n : Nat} {b : Bytes} :
    Map.get none (d.storeCapture n b).hld.capArea (d.act.capHead % n) = some b := by
  have area : (d.storeCapture n b).hld.capArea = (d.putCapture n b).hld.capArea :=
    congrArg Prod.fst Dev.storeCapture_captureView
  rw [area]
  simp only [Dev.putCapture, Map.get_set_same]

section
variable {rec : Bytes} {rest : List Bytes} {s : State}

theorem completes_captureRecordWrite_store (hfifo : s.dev.act.capFifo = rec :: rest)
    (htarget : s.dev.f0 .ACT_CAP_CTRL_TARGET = 0) (hmounted : s.dev.hld.mounted = true)
    (hservice : s.dev.hld.outOfService = false) (hfrozen : s.dev.hld.frozen = false) (hgib : 0 < s.dev.hld.capGib) :
    Completes (.captureRecordWrite false) s fun t => t.act.capFifo = rest ∧ t.act.capHead = s.dev.act.capHead + 1 ∧
      Map.get none t.hld.capArea (s.dev.act.capHead % (s.dev.hld.capGib * 8388608)) =
        some (sealRecord rec s.dev.act.capHead) := by
  have ready : ¬((!s.dev.hld.mounted) = true ∨ s.dev.hld.outOfService = true ∨ s.dev.hld.frozen = true ∨
      s.dev.hld.capGib * 8388608 = 0) := by
    simp [hmounted, hservice, hfrozen, hgib.ne']
  have stored : exec (.captureRecordWrite false) s =
      .next (s.on (s.dev.storeCapture (s.dev.hld.capGib * 8388608) (sealRecord rec s.dev.act.capHead))) := by
    simp only [exec_captureRecordWrite, execCaptureRecordWrite, State.run_eq, hfifo, if_pos htarget, if_neg ready]
    rfl
  refine completes_of_eq stored ⟨?_, ?_, Dev.storeCapture_slot⟩
  · rw [Dev.storeCapture_act, hfifo]
    rfl
  · rw [Dev.storeCapture_act]

theorem completes_captureRecordWrite_host (hfifo : s.dev.act.capFifo = rec :: rest)
    (htarget : s.dev.f0 .ACT_CAP_CTRL_TARGET ≠ 0) (henable : s.dev.b0 .ACT_CAP_CTRL_ENABLE = true)
    (hlost : s.dev.host.lost = false) (hd3 : 2 ∉ s.dev.host.d3hot) :
    Completes (.captureRecordWrite false) s fun t => t.act.capFifo = rest ∧ t.act.capHead = s.dev.act.capHead + 1 ∧
      Output.hostWrite (s.dev.f0 .ACT_CAP_HOST_HI * 2 ^ 32 + s.dev.f0 .ACT_CAP_HOST_LO * 4096 +
        s.dev.act.capHead % 2 ^ s.dev.f0 .ACT_CAP_HOST_LOG2 * 128) (sealRecord rec s.dev.act.capHead) ∈ t.out := by
  have reached : ¬(false = true ∨ s.dev.host.lost = true ∨ 2 ∈ s.dev.host.d3hot) := by simp [hlost, hd3]
  have enabled : ¬(!s.dev.b0 .ACT_CAP_CTRL_ENABLE) = true := by simp [henable]
  refine completes_of_run _ (exec_captureRecordWrite false s) ?_
  simp only [hfifo, if_neg htarget, if_neg enabled, if_neg reached]
  refine ⟨?_, ?_, List.mem_cons_self⟩
  · rw [Dev.emit_act, Dev.nextCapture_act, hfifo]
    rfl
  · rw [Dev.emit_act, Dev.nextCapture_act]

/-- A record that the host does not take stays staged, and capture stops (R245, log 39). -/
theorem completes_captureRecordWrite_failed (hfifo : s.dev.act.capFifo = rec :: rest)
    (htarget : s.dev.f0 .ACT_CAP_CTRL_TARGET ≠ 0) (henable : s.dev.b0 .ACT_CAP_CTRL_ENABLE = true) :
    Completes (.captureRecordWrite true) s fun t => t.f0 .ACT_CAP_CTRL_ENABLE = 0 ∧ t.f0 .ACT_CAP_CTRL_HOST_STOPPED = 1 ∧
      t.act.capFifo = s.dev.act.capFifo ∧ t.act.capHead = s.dev.act.capHead := by
  have enabled : ¬(!s.dev.b0 .ACT_CAP_CTRL_ENABLE) = true := by simp [henable]
  have stopped : exec (.captureRecordWrite true) s = .next (s.on (((s.dev.set0 .ACT_CAP_CTRL_ENABLE 0).set0
      .ACT_CAP_CTRL_HOST_STOPPED 1).record .CAPTURE_HOST_STOPPED 0 0 (payloadOf []))) := by
    simp only [exec_captureRecordWrite, execCaptureRecordWrite, State.run_eq, hfifo, if_neg htarget, if_neg enabled,
      true_or, if_true]
    rfl
  refine completes_of_eq stopped ⟨?enable, ?shown, ?fifo, ?head⟩
  case enable => rw [Dev.record_f0 (by decide), Dev.f0_set0_other (by decide), Dev.f0_set0_same]; rfl
  case shown => rw [Dev.record_f0 (by decide), Dev.f0_set0_same]; rfl
  case fifo => rw [Dev.record_act, Dev.set0_act, Dev.set0_act]
  case head => rw [Dev.record_act, Dev.set0_act, Dev.set0_act]

end

end

/-- Settles O41: a queue that is emptied stays empty while the next ones are (`Dev.Empties.foldl`), and neither WINTER nor a row
written to the store undoes the mark of the link memory or the slot of a record (`Dev.winterCause_linkFailed`,
`Dev.noteRowWrite_captureView`). -/
theorem bufferEvents : Obligations.BufferEvents := by
  unfold Obligations.BufferEvents
  refine ⟨?port, ?fabric, ?memory, ?reserve, ?store, ?host, ?failed⟩
  case port => exact fun p _ _ htimer hdue hwinter => completes_flapTimerExpire p htimer hdue hwinter
  case fabric => exact fun a _ _ htimer hdue hwinter => completes_fabricDestFlapExpire a htimer hdue hwinter
  case memory => exact completes_bufLinkMemoryFailed
  case reserve => exact fun m v _ hopen hlow hhigh hfloor => exec_bufArrivalReserveWrite_open m v hopen hlow hhigh hfloor
  case store => exact fun _ _ _ hfifo htarget hmounted hservice hfrozen hgib =>
      completes_captureRecordWrite_store hfifo htarget hmounted hservice hfrozen hgib
  case host => exact fun _ _ _ hfifo htarget henable hlost hd3 =>
      completes_captureRecordWrite_host hfifo htarget henable hlost hd3
  case failed => exact fun _ _ _ hfifo htarget henable => completes_captureRecordWrite_failed hfifo htarget henable

end Sys2Proof.Machine
end

