-- ==== Sys2Proof/Proofs/FreeRingAndScrub.lean ====
section
/-! A scrub that loses held frames: three erasures in the stripe of a page deferred for a retraining (R149, Table 11-1). -/

namespace Sys2Proof.Machine

/-- A frame of 64 bytes in row 0 of the first page of held traffic. -/
def deferredFrame : Held :=
  { bytes := List.replicate 64 0, opMs := 0, page := heldFirst, off := 0, cls := 0, fab := none, ipAt := none, ipv6 := false }

/-- The hold queue that holds it and its page. -/
def deferredQueue : HoldQ := { HoldQ.reset with active := true, frames := [deferredFrame], pages := [⟨heldFirst, 0, false⟩] }

/-- Dies 0 and 1 have failed, the page awaits its symbols on die 2 after that die's retraining (R149), and the scrub has come to
the stripe of the page's row 0. -/
def thirdErasureState : State :=
  let store := { HldSt.reset with
    mounted := true, queues := [(0, deferredQueue)], failedDies := [0, 1], suspended := true, rebuild := some 2
    deferral := [heldFirst], scrubAt := 626720 }
  State.reset.on { Dev.reset with hld := store }

theorem exec_holdScrub_thirdErasureState :
    ∃ t, exec (.holdScrub [] [] []) thirdErasureState = .next t ∧ t.dev.hld.queues = [] :=
  ⟨_, rfl, by decide +kernel⟩

/-- Refutes O43: a scrub that finds no bad sector still loses the frames of a row. While two dies have failed, the symbol of a die
that awaits its rebuild is a third erasure in a stripe of a deferred page (R149), which the outer code does not correct
(Table 11-1), so the read of the scrub takes the row's frames from their queue (R315): here the queue's only one, and the queue
with it. -/
theorem not_freeRingAndScrub : ¬ Obligations.FreeRingAndScrub := by
  unfold Obligations.FreeRingAndScrub
  rintro ⟨-, -, -, -, hscrub⟩
  obtain ⟨t, ht, -, -, hkept⟩ := hscrub [] [] [] thirdErasureState (by decide +kernel) (by decide +kernel)
  obtain ⟨u, hu, hgone⟩ := exec_holdScrub_thirdErasureState
  obtain rfl : t = u := Host.Outcome.next.inj (ht.symm.trans hu)
  have held : t.dev.hld.queues = [(0, deferredQueue)] := (hkept rfl rfl).1
  exact List.cons_ne_nil _ _ (held.symm.trans hgone)

end Sys2Proof.Machine
end

