-- ==== Sys2Proof/Proofs/HoldKeeps.lean ====
section
/-! What leaves the hold store alone: reports, frames that ports send, cells that are freed, messages and a cause of AUTUMN. -/

namespace Sys2Proof.Machine

/-! ### What stands -/

/-- The counters of the hold store, by class and of the whole store (Table 11-11). -/
def Dev.holdCtr (d : Dev) : (Nat → Nat → Nat) × (Nat → Nat → Nat) :=
  (fun k i => d.ctr ⟨.HLD_TCNT, k⟩ i, fun k i => d.ctr ⟨.HLD_GCNT, k⟩ i)

/-- A hold store, the queues of the buffer, the counters of the hold store, and the operating time. -/
abbrev StoreView := HldSt × Map (List Desc) × ((Nat → Nat → Nat) × (Nat → Nat → Nat)) × Nat × Nat

def Dev.heldView (d : Dev) : StoreView := (d.hld, d.buf.queues, d.holdCtr, d.now, d.opBase)

/-- The fields of a cause of AUTUMN, wear among them. -/
def tellFields : List Nat := autumnFields ++ [Field.HLT_AUTUMN_CAUSE_WEAR.id]

/-- Devices have at most reported, sent frames and messages, freed cells or changed their health from one to the other. -/
abbrev Dev.Tells (d e : Dev) : Prop := d.Keeps tellFields Dev.heldView e

section
variable {d e : Dev}

theorem Dev.Keeps.toldStore (h : d.Tells e) : e.hld = d.hld := congrArg (fun v => v.1) h.view

theorem Dev.Keeps.toldQueue (h : d.Tells e) {q i : Nat} : e.queue q i = d.queue q i :=
  congrArg (fun m => Map.get [] m (k2 q i)) (congrArg (fun v => v.2.1) h.view)

theorem Dev.Keeps.toldHoldQ (h : d.Tells e) {q : Nat} : e.holdQ q = d.holdQ q :=
  congrArg (fun x : HldSt => Map.get HoldQ.reset x.queues q) h.toldStore

/-! ### Reports, counts and tables -/

theorem Dev.holdCtr_of_uncounted (h : d.Uncounted e) : e.holdCtr = d.holdCtr :=
  Prod.ext (funext fun k => funext fun i => h ⟨.HLD_TCNT, k⟩ i (by simp))
    (funext fun k => funext fun i => h ⟨.HLD_GCNT, k⟩ i (by simp))

theorem Dev.holdCtr_countN {c : Ctr} {i n : Nat} (hc : c.block ≠ .HLD_TCNT ∧ c.block ≠ .HLD_GCNT) :
    (d.countN c i n).holdCtr = d.holdCtr :=
  Prod.ext (funext fun _ => funext fun _ => Dev.ctr_countN_ne (Ctr.ne_of_block hc.1.symm))
    (funext fun _ => funext fun _ => Dev.ctr_countN_ne (Ctr.ne_of_block hc.2.symm))

theorem Dev.Reports.tells (h : d.Reports e) (hc : d.Uncounted e) : d.Tells e := by
  refine h.keeps (by decide) ?_
  simp only [Dev.heldView, h.hld, h.buf, h.now, h.opBase, Dev.holdCtr_of_uncounted hc]

theorem Dev.tells_setFld {f : Field} {i j v : Nat} (hf : f.id ∈ tellFields) : d.Tells (d.setFld f i j v) :=
  Dev.keeps_setFld hf rfl

theorem Dev.tells_countN {c : Ctr} {i n : Nat} (hc : c.block ≠ .HLD_TCNT ∧ c.block ≠ .HLD_GCNT) : d.Tells (d.countN c i n) where
  view := congrArg (fun x => (d.hld, d.buf.queues, x, d.now, d.opBase)) (Dev.holdCtr_countN hc)
  fld _ _ _ _ := rfl

theorem Dev.tells_raise {s : Nat} : d.Tells (d.raise s) := (Dev.reports_raise d s).tells Dev.uncounted_raise

theorem Dev.tells_doorbell {b : Nat} : d.Tells (d.doorbell b) := (Dev.reports_doorbell d b).tells Dev.uncounted_doorbell

theorem Dev.tells_record {c : EvCode} {k i : Nat} {p : Bytes} : d.Tells (d.record c k i p) :=
  (Dev.reports_record d c k i p).tells Dev.uncounted_record

theorem Dev.tells_recordLimited {c : EvCode} {t n k i : Nat} {p : Bytes} : d.Tells (d.recordLimited c t n k i p) :=
  (Dev.reports_recordLimited d c t n k i p).tells Dev.uncounted_recordLimited

theorem Dev.tells_perf {m ev q v : Nat} : d.Tells (d.perf m ev q v) :=
  (Dev.reports_perf d m ev q v).tells (.of_ctrs Dev.perf_ctrs)

theorem Dev.tells_emit {o : Output} : d.Tells (d.emit o) := ⟨rfl, fun _ _ _ _ => rfl⟩

theorem Dev.tells_draw : d.Tells d.draw.2 := ⟨rfl, fun _ _ _ _ => rfl⟩

theorem Dev.tells_mac {m : Map MacSt} : d.Tells { d with mac := m } := ⟨rfl, fun _ _ _ _ => rfl⟩

theorem Dev.tells_setChain {id : Nat} {c : Option Chain} : d.Tells (d.setChain id c) := ⟨rfl, fun _ _ _ _ => rfl⟩

theorem Dev.tells_setMacq {p m : Nat} {f : Option TxFrame} : d.Tells (d.setMacq p m f) := ⟨rfl, fun _ _ _ _ => rfl⟩

theorem Dev.tells_setInflight {p : Nat} {f : Option TxFrame} : d.Tells (d.setInflight p f) := ⟨rfl, fun _ _ _ _ => rfl⟩

theorem Dev.tells_pmc {x : PmcSt} : d.Tells { d with pmc := x } := ⟨rfl, fun _ _ _ _ => rfl⟩

theorem Dev.tells_mbx {x : MbxSt} : d.Tells { d with mbx := x } := ⟨rfl, fun _ _ _ _ => rfl⟩

theorem Dev.tells_fab {x : FabSt} : d.Tells { d with fab := x } := ⟨rfl, fun _ _ _ _ => rfl⟩

theorem Dev.tells_pins {x : Pins} : d.Tells { d with pins := x } := ⟨rfl, fun _ _ _ _ => rfl⟩

/-! ### Frames that a port sends, and the references to their cells -/

theorem Dev.tells_macCountN {c : Ctr} {p n : Nat} (hc : c.block = .MAC_STAT) : d.Tells (d.macCountN c p n) := by
  have counted : d.Tells (d.countN c p n) := Dev.tells_countN (by rw [hc]; decide)
  exact .ite (.refl d) (.ite (counted.trans Dev.tells_raise) counted)

theorem Dev.tells_noteSent {p len kind : Nat} : d.Tells (d.noteSent p len kind) := by
  unfold Dev.noteSent
  exact (((((Dev.tells_macCountN rfl).trans (Dev.tells_macCountN rfl)).trans (Dev.tells_macCountN rfl)).trans
    (Dev.tells_macCountN rfl)).trans Dev.tells_pmc).trans Dev.tells_mac

theorem Dev.tells_sendPause {p c quanta : Nat} : d.Tells (d.sendPause p c quanta) := by
  have sent {o : Output} : d.Tells ((d.noteSent p 64 1).emit o) := Dev.tells_noteSent.trans Dev.tells_emit
  exact .ite (.refl d) (.ite (sent.trans (.foldl (fun _ _ => .ite (Dev.tells_macCountN rfl) (.refl _)) _ _))
    (.ite (sent.trans (Dev.tells_macCountN rfl)) (.refl d)))

theorem Dev.tells_checkXon {p c : Nat} : d.Tells (d.checkXon p c) :=
  .ite (((Dev.tells_setFld (by decide)).trans Dev.tells_mac).trans Dev.tells_sendPause) (.refl d)

theorem Dev.tells_freeRequest {id by_ : Nat} : d.Tells (d.freeRequest id by_) := by
  unfold Dev.freeRequest
  split
  · exact .refl d
  · exact .ite (Dev.tells_setChain.trans Dev.tells_checkXon) ((Dev.tells_countN (by decide)).trans Dev.tells_record)

theorem Dev.tells_dropRef {id port : Nat} : d.Tells (d.dropRef id port) := by
  unfold Dev.dropRef
  split
  · exact .refl d
  · exact .ite Dev.tells_setChain Dev.tells_setChain

theorem Dev.tells_release {id port : Nat} : d.Tells (d.release id port) :=
  .ite (Dev.tells_dropRef.trans Dev.tells_freeRequest) Dev.tells_dropRef

theorem Dev.tells_giveBack {id p : Nat} {rd : CellRead} : d.Tells (d.giveBack id p rd) := by
  unfold Dev.giveBack
  split
  · exact Dev.tells_release
  · exact Dev.tells_dropRef.trans Dev.tells_freeRequest

theorem Dev.tells_startWake {p : Nat} : d.Tells (d.startWake p) := .ite Dev.tells_mac (.refl d)

theorem Dev.tells_startFrom {p fuel : Nat} : d.Tells (Dev.startFrom p fuel d) := by
  induction fuel generalizing d with
  | zero => exact .refl d
  | succ n ih =>
    refine .ite (.refl d) ?_
    split
    · exact .refl d
    · split
      · exact .ite (((Dev.tells_setMacq.trans (Dev.tells_macCountN rfl)).trans Dev.tells_release).trans ih)
          (Dev.tells_setMacq.trans Dev.tells_setInflight)
      · exact Dev.tells_mac
      · exact .refl d

theorem Dev.tells_sendMsg {p proto type len : Nat} {fields : List Nat} : d.Tells (d.sendMsg p proto type len fields) := by
  unfold Dev.sendMsg
  exact .ite ((Dev.tells_mac.trans Dev.tells_startWake).trans Dev.tells_startFrom) (.refl d)

/-- The mark of R263 is drawn and counted. -/
theorem Dev.tells_ecnMark {q i : Nat} {de : Desc} : d.Tells (d.ecnMark q i de).1 := by
  have marked {g : Dev} : g.Tells (g.count .QUE_ECN_MARKED (q * 10 + i)) := Dev.tells_countN (by decide)
  unfold Dev.ecnMark
  dsimp only
  split
  · exact .refl d
  · split
    · exact marked
    · split
      · exact Dev.tells_draw.trans marked
      · exact Dev.tells_draw

/-! ### Messages for the host and the fabric -/

theorem Dev.tells_notice {opcode : Nat} {payload : List Nat} : d.Tells (d.notice opcode payload) := by
  have lost {g : Dev} {m dir seq : Nat} : g.Tells (g.noteLost m dir seq) := by
    unfold Dev.noteLost
    exact Dev.tells_mbx.trans Dev.tells_doorbell
  have full {g : Dev} {m : Nat} : g.Tells (g.satInc .MBX_F2H_STATUS_LOST_COUNT m 0 1) := Dev.tells_setFld (by decide)
  have posted {g : Dev} {m : Nat} {msg : Msg} : g.Tells (g.f2hPost m msg) := by
    unfold Dev.f2hPost
    exact .ite (Dev.tells_mbx.trans (Dev.tells_setFld (by decide))) ((full.trans (Dev.tells_countN (by decide))).trans lost)
  unfold Dev.notice
  exact Dev.tells_mbx.trans posted

theorem Dev.tells_floodNotice {code : Nat} : d.Tells (d.floodNotice code) := by
  have told {g : Dev} {p type len : Nat} {fields : List Nat} : g.Tells (g.fabControl p type len fields) := by
    unfold Dev.fabControl
    exact Dev.tells_fab.trans Dev.tells_sendMsg
  exact .foldl (fun g _ => .ite told (.refl g)) _ _

/-! ### AUTUMN (R397) -/

theorem Dev.tells_setHealth {st code : Nat} : d.Tells (d.setHealth st code) := by
  have shown : d.Tells (((d.set0 .HLT_STATE_PREV d.health).set0 .HLT_STATE_STATE st).set0 .HLT_STATE_SECS (d.opMs / 1000)) :=
    ((Dev.tells_setFld (by decide)).trans (Dev.tells_setFld (by decide))).trans (Dev.tells_setFld (by decide))
  exact ((shown.trans Dev.tells_doorbell).trans Dev.tells_notice).trans Dev.tells_raise

theorem Dev.tells_enterAutumn {code : Nat} : d.Tells (d.enterAutumn code) := by
  have told {x : Pins} {y : FabSt} : d.Tells { d with pins := x, fab := y } := ⟨rfl, fun _ _ _ _ => rfl⟩
  exact ((told.trans Dev.tells_setHealth).trans Dev.tells_record).trans Dev.tells_floodNotice

theorem Dev.tells_autumn {f : Field} {code : EvCode} (hf : f.id ∈ tellFields) : d.Tells (d.autumn f code) := by
  have coded {e : Dev} {x : HltSt} : e.Tells { e with hlt := x } := ⟨rfl, fun _ _ _ _ => rfl⟩
  have caused : d.Tells { (d.set0 f 1) with hlt := { d.hlt with lastCode := code.code } } :=
    (Dev.tells_setFld hf).trans coded
  exact .ite (caused.trans Dev.tells_enterAutumn) (.ite (caused.trans Dev.tells_pins) caused)

end

end Sys2Proof.Machine
end

