-- ==== Sys2Proof/Proofs/HoldRows.lean ====
section
/-! What a retraining that ends and a row that is written leave alone of the hold store (R148 to R150, R310, R312). -/

namespace Sys2Proof.Machine

/-! ### A retraining that ends (R149, R150) -/

/-- The hold store but for the retraining of a die and the pages deferred meanwhile. -/
def HldSt.untrained (x : HldSt) : HldSt := { x with retrain := none, rebuild := none, deferral := [] }

def Dev.untrainedView (d : Dev) : StoreView := (d.hld.untrained, d.heldView.2)

/-- The fields of a retraining that ends and of the deferral list. -/
def deferFields : List Nat :=
  [Field.HLD_DIE_STATUS_STATE.id, Field.HLD_RETRAIN_STATUS_ACTIVE.id, Field.HLD_RETRAIN_STATUS_DEFERRED.id] ++ tellFields

/-- Devices have at most told, deferred a page or ended a retraining from one to the other. -/
abbrev Dev.Defers (d e : Dev) : Prop := d.Keeps deferFields Dev.untrainedView e

/-- The hold store but for its retraining and the wear of its zones. -/
def HldSt.unworn (x : HldSt) : HldSt := { x.untrained with zones := [] }

def Dev.unwornView (d : Dev) : StoreView := (d.hld.unworn, d.heldView.2)

/-- The fields of these and of the margin of wear. -/
def wearFields : List Nat := [Field.HLD_STATUS_WEAR_MARGIN.id, Field.HLT_SUM_PKG_WEAR.id] ++ deferFields

/-- Devices have at most deferred pages, ended a retraining or worn their zones from one to the other. -/
abbrev Dev.Wears (d e : Dev) : Prop := d.Keeps wearFields Dev.unwornView e

section
variable {d e : Dev}

theorem Dev.Keeps.defers (h : d.Tells e) : d.Defers e :=
  h.mono (List.subset_append_right _ _) (fun v : StoreView => (v.1.untrained, v.2))

theorem Dev.Keeps.wears (h : d.Defers e) : d.Wears e :=
  h.mono (List.subset_append_right _ _) (fun v : StoreView => (v.1.unworn, v.2))

theorem Dev.Keeps.zones (h : d.Defers e) : e.hld.zones = d.hld.zones := congrArg (fun v : StoreView => v.1.zones) h.view

theorem Dev.Keeps.wornStore (h : d.Wears e) : e.hld.unworn = d.hld.unworn := congrArg Prod.fst h.view

theorem Dev.Keeps.wornSwapping (h : d.Wears e) : e.hld.swapping = d.hld.swapping := (congrArg HldSt.swapping h.wornStore :)

theorem Dev.Keeps.wornCtr (h : d.Wears e) : e.holdCtr = d.holdCtr := congrArg (fun v : StoreView => v.2.2.1) h.view

/-- The map of the zones, and the counters of the store. -/
def Dev.mapView (d : Dev) : Map Nat × ((Nat → Nat → Nat) × (Nat → Nat → Nat)) := (d.hld.zoneMap, d.holdCtr)

theorem Dev.Keeps.wornMap (h : d.Wears e) : e.mapView = d.mapView :=
  Prod.ext (congrArg HldSt.zoneMap h.wornStore :) h.wornCtr

theorem Dev.Keeps.wornHoldQ (h : d.Wears e) {q : Nat} : e.holdQ q = d.holdQ q :=
  (congrArg (fun x : HldSt => Map.get HoldQ.reset x.queues q) h.wornStore :)

theorem Dev.defers_setFld {f : Field} {i j v : Nat} (hf : f.id ∈ deferFields) : d.Defers (d.setFld f i j v) :=
  Dev.keeps_setFld hf rfl

theorem Dev.defers_endRetrain : d.Defers d.endRetrain := by
  have ended {x : Option Nat} : d.Defers { d with hld := { d.hld with retrain := none, rebuild := x } } :=
    ⟨rfl, fun _ _ _ _ => rfl⟩
  unfold Dev.endRetrain
  split
  · exact .refl d
  · exact (ended.trans (Dev.defers_setFld (by decide))).trans (Dev.defers_setFld (by decide))

theorem Dev.defers_abortRetrain {reason : Nat} : d.Defers (d.abortRetrain reason) := by
  unfold Dev.abortRetrain
  split
  · exact .refl d
  · exact Dev.defers_endRetrain.trans Dev.tells_record.defers

theorem Dev.defers_defer {page : Nat} : d.Defers (d.defer page) := by
  have listed {l : List Nat} : d.Defers { d with hld := { d.hld with deferral := l } } := ⟨rfl, fun _ _ _ _ => rfl⟩
  exact .ite (.refl d) (.ite Dev.defers_abortRetrain (listed.trans (Dev.defers_setFld (by decide))))

/-! ### A row that is written (R310, R312) -/

theorem Dev.wears_setFld {f : Field} {i j v : Nat} (hf : f.id ∈ wearFields) : d.Wears (d.setFld f i j v) :=
  Dev.keeps_setFld hf rfl

theorem Dev.wears_setZone {z : Nat} {x : Zone} : d.Wears (d.setZone z x) := ⟨rfl, fun _ _ _ _ => rfl⟩

theorem Dev.wears_wearCheck {z : Nat} : d.Wears (d.wearCheck z) := by
  have shown : d.Wears ((d.set0 .HLD_STATUS_WEAR_MARGIN 1).set0 .HLT_SUM_PKG_WEAR 1) :=
    Dev.Keeps.trans (Dev.wears_setFld (by decide)) (Dev.wears_setFld (by decide))
  exact .ite ((shown.trans Dev.tells_record.defers.wears).trans (Dev.tells_autumn (by decide)).defers.wears) (.refl d)

theorem Dev.wears_wearRows {z n : Nat} : d.Wears (d.wearRows z n) := Dev.wears_setZone.trans Dev.wears_wearCheck

theorem Dev.wears_perf {m ev q v : Nat} : d.Wears (d.perf m ev q v) := Dev.tells_perf.defers.wears

theorem Dev.wears_defer {page : Nat} : d.Wears (d.defer page) := Dev.defers_defer.wears

theorem Dev.wears_noteRowWrite {page kind : Nat} : d.Wears (d.noteRowWrite page kind) :=
  (Dev.wears_perf.trans Dev.wears_wearRows).trans Dev.wears_defer

theorem Dev.wears_notePageCopy {page : Nat} : d.Wears (d.notePageCopy page) :=
  (Dev.wears_perf.trans Dev.wears_wearRows).trans Dev.wears_defer

theorem Dev.wears_rewriteStripe {stripe : Nat} : d.Wears (d.rewriteStripe stripe) := by
  refine .ite Dev.wears_perf ?_
  split
  · exact (Dev.wears_perf.trans Dev.wears_wearRows).trans Dev.wears_defer
  · exact Dev.wears_perf.trans Dev.wears_wearRows

/-- WEAR_MARGIN is shown from a zone's counter and leaves the zones alone. -/
theorem Dev.wearCheck_zones {z : Nat} : (d.wearCheck z).hld.zones = d.hld.zones := by
  unfold Dev.wearCheck
  split
  · exact (Dev.tells_autumn (by decide)).defers.zones.trans (Dev.tells_record.defers.zones)
  · rfl

/-- Rows written to a zone leave its gap where it is. -/
theorem Dev.wearRows_gap {z n : Nat} : ((d.wearRows z n).zone z).gap = (d.zone z).gap := by
  rw [Dev.zone, Dev.wearRows, Dev.wearCheck_zones, Dev.setZone, Map.get_set_same]

end

end Sys2Proof.Machine
end

