-- ==== Sys2Proof/Proofs/HoldWear.lean ====
section
/-! Wear levelling (R310 to R312): gaps that move, zones that exchange places, and wear counters that are saved. -/

namespace Sys2Proof.Machine

section
variable {d e : Dev}

/-- A counter of the hold store that stands in its view. -/
theorem Dev.ctr_of_holdCtr {c : Ctr} {i : Nat} (h : e.holdCtr = d.holdCtr) (hc : c.block = .HLD_TCNT ∨ c.block = .HLD_GCNT) :
    e.ctr c i = d.ctr c i := by
  obtain ⟨b, k⟩ := c
  obtain rfl | rfl := hc
  · exact congrFun (congrFun (congrArg Prod.fst h) k) i
  · exact congrFun (congrFun (congrArg Prod.snd h) k) i

/-! ### Gaps (R310) -/

/-- A gap has moved: the page that it passed is copied, and its zone wears. -/
def Dev.gapMoved (d : Dev) (z page : Nat) (y : Zone) : Dev :=
  ((((d.setZone z y).count .HLD_GAP_MOVES 0).perf 5 0x300 3 16).wearRows z 16).defer page

theorem Dev.zone_setZone_same {z : Nat} {x : Zone} : (d.setZone z x).zone z = x := Map.get_set_same _ _ _ _

theorem Dev.gapMoved_gap {z page : Nat} {y : Zone} : ((d.gapMoved z page y).zone z).gap = y.gap := by
  have moved : (((d.setZone z y).count .HLD_GAP_MOVES 0).perf 5 0x300 3 16).zone z = y := by
    rw [Dev.zone, Dev.tells_perf.defers.zones]
    exact Dev.zone_setZone_same
  rw [Dev.gapMoved, Dev.zone, Dev.defers_defer.zones, ← Dev.zone, Dev.wearRows_gap, moved]

theorem Dev.gapMoved_moves {z page : Nat} {y : Zone} :
    (d.gapMoved z page y).ctr .HLD_GAP_MOVES 0 = (d.ctr .HLD_GAP_MOVES 0 + 1) % 2 ^ 64 := by
  have worn : ((d.setZone z y).count .HLD_GAP_MOVES 0).Wears (d.gapMoved z page y) :=
    (Dev.wears_perf.trans Dev.wears_wearRows).trans Dev.wears_defer
  exact (Dev.ctr_of_holdCtr worn.wornCtr (.inr rfl)).trans (Dev.ctr_count_same _ _ _)

/-- The gap of a zone's next state (R310). -/
def Zone.gapMoved (x : Zone) : Zone :=
  if x.gap = 0 then { x with gap := 16384, start := (x.start + 1) % 16384 } else { x with gap := x.gap - 1 }

theorem Zone.gapMoved_gap {x : Zone} : x.gapMoved.gap = if x.gap = 0 then 16384 else x.gap - 1 := by
  unfold Zone.gapMoved
  split
  · rfl
  · rfl

/-- The count of page writes to a zone starts again. -/
def Dev.gapSettled (d : Dev) (z : Nat) : Dev := d.setZone z { d.zone z with sinceGap := 0 }

theorem Dev.gapSettled_zone {z : Nat} : (d.gapSettled z).zone z = { d.zone z with sinceGap := 0 } := Dev.zone_setZone_same

theorem Dev.gapSettled_ctr {z i : Nat} {c : Ctr} : (d.gapSettled z).ctr c i = d.ctr c i := rfl

theorem completes_gapMove (z : Fin 4096) {s : State} (hruns : s.dev.holdRuns = true)
    (hdue : s.dev.f0 .HLD_GAP_INTERVAL * 16 ≤ (s.dev.zone z).sinceGap) :
    Completes (.gapMove z) s fun t =>
      (t.zone z).gap = (if (s.dev.zone z).gap = 0 then 16384 else (s.dev.zone z).gap - 1) ∧ (t.zone z).sinceGap = 0 ∧
      t.ctr .HLD_GAP_MOVES 0 = (s.dev.ctr .HLD_GAP_MOVES 0 + 1) % 2 ^ 64 := by
  have runs : ¬(!s.dev.holdRuns ∨ (s.dev.zone z).sinceGap < s.dev.f0 .HLD_GAP_INTERVAL * 16) := by
    simp [hruns, hdue]
  have moved : ∃ page, exec (.gapMove z) s = .next (s.on ((s.dev.gapMoved z page (s.dev.zone z).gapMoved).gapSettled z)) := by
    simp only [exec_gapMove, execGapMove, State.run_eq, if_neg runs]
    exact ⟨_, rfl⟩
  obtain ⟨page, moved⟩ := moved
  refine completes_of_eq moved ⟨?gap, ?since, ?count⟩
  case gap =>
    rw [Dev.gapSettled_zone]
    exact Dev.gapMoved_gap.trans Zone.gapMoved_gap
  case since => rw [Dev.gapSettled_zone]
  case count => rw [Dev.gapSettled_ctr, Dev.gapMoved_moves]

/-! ### Exchanges of zones (R311) -/

/-- The progress pointer of an exchange moves on by one page pair. -/
def Dev.swapNoted (d : Dev) (a b n : Nat) : Dev := { d with hld := { d.hld with swapping := some (a, b, n + 1) } }

theorem Dev.swapPair_eq {a b n : Nat} (h : d.hld.swapping = some (a, b, n)) : d.swapPair = if 16384 ≤ n then d
    else ((d.swapNoted a b n).notePageCopy (16384 * a + n)).notePageCopy (16384 * b + n) := by
  simp only [Dev.swapPair, h, Dev.swapNoted]

/-- A page pair moves the progress pointer on, up to the end of the zones. -/
theorem Dev.swapPair_goes {a b n : Nat} (h : d.hld.swapping = some (a, b, n)) (hn : n ≤ 16384) :
    d.swapPair.hld.swapping = some (a, b, min 16384 (n + 1)) ∧ d.swapPair.mapView = d.mapView := by
  have copied : (d.swapNoted a b n).Wears (((d.swapNoted a b n).notePageCopy (16384 * a + n)).notePageCopy (16384 * b + n)) :=
    Dev.wears_notePageCopy.trans Dev.wears_notePageCopy
  rw [Dev.swapPair_eq h]
  split
  · rw [h, show min 16384 (n + 1) = n by omega]
    exact ⟨rfl, rfl⟩
  · rw [copied.wornSwapping, copied.wornMap, show min 16384 (n + 1) = n + 1 by omega]
    exact ⟨rfl, rfl⟩

theorem Dev.swapPairs_goes {a b n : Nat} (k : Nat) (h : d.hld.swapping = some (a, b, n)) (hn : n ≤ 16384) :
    (Dev.swapPairs k d).hld.swapping = some (a, b, min 16384 (n + k)) ∧ (Dev.swapPairs k d).mapView = d.mapView := by
  induction k generalizing d n with
  | zero => exact ⟨by rw [Nat.add_zero, Nat.min_eq_right hn]; exact h, rfl⟩
  | succ k ih =>
    obtain ⟨pair, view⟩ := Dev.swapPair_goes h hn
    obtain ⟨goes, views⟩ := ih pair (Nat.min_le_left _ _)
    have sum : min 16384 (min 16384 (n + 1) + k) = min 16384 (n + (k + 1)) := by omega
    rw [sum] at goes
    exact ⟨goes, views.trans view⟩

theorem Dev.physZone_setPhysZone {z w ph : Nat} : (d.setPhysZone z ph).physZone w = if w = z then ph else d.physZone w := by
  simp only [Dev.physZone, Dev.setPhysZone, Map.get_set]
  by_cases hw : w = z
  · by_cases hz : ph = z
    · simp [hw, hz]
    · simp [hw, hz]
  · simp [hw]

theorem Dev.physZone_congr {z : Nat} (h : e.mapView = d.mapView) : e.physZone z = d.physZone z := by
  have map : e.hld.zoneMap = d.hld.zoneMap := congrArg Prod.fst h
  simp only [Dev.physZone, map]

/-- The exchange of two zones ends: the map follows. -/
def Dev.swapEnded (d : Dev) (a b : Nat) : Dev :=
  (((({ d with hld := { d.hld with swapping := none } }).set0 .HLD_STATUS_SWAPPING 0).setPhysZone a (d.physZone b)).setPhysZone b
    (d.physZone a)).count .HLD_ZONE_SWAPS 0

theorem Dev.swapEnded_places {a b : Nat} (hab : a ≠ b) :
    (d.swapEnded a b).physZone a = d.physZone b ∧ (d.swapEnded a b).physZone b = d.physZone a := by
  have counted {g : Dev} {z : Nat} : (g.count .HLD_ZONE_SWAPS 0).physZone z = g.physZone z := rfl
  constructor
  · rw [Dev.swapEnded, counted, Dev.physZone_setPhysZone, if_neg hab, Dev.physZone_setPhysZone, if_pos rfl]
  · rw [Dev.swapEnded, counted, Dev.physZone_setPhysZone, if_pos rfl]

section
variable {a b n : Nat} {pairs : Fin 16385} {s : State}

theorem completes_zoneSwap_goes (hruns : s.dev.holdRuns = true) (hswap : s.dev.hld.swapping = some (a, b, n))
    (hn : n + pairs.val < 16384) :
    Completes (.zoneSwap pairs) s fun t => t.hld.swapping = some (a, b, n + pairs.val) ∧ t.hld.zoneMap = s.dev.hld.zoneMap := by
  obtain ⟨goes, view⟩ := Dev.swapPairs_goes (d := s.dev) pairs.val hswap (by omega)
  rw [Nat.min_eq_right (by omega)] at goes
  have runs : ¬(!s.dev.holdRuns) = true := by simp [hruns]
  have goesOn : exec (.zoneSwap pairs) s = .next (s.on (Dev.swapPairs pairs s.dev)) := by
    simp only [exec_zoneSwap, execZoneSwap, State.run_eq, if_neg runs, hswap]
    split
    · next hend =>
      rw [goes, Option.some_inj, Prod.mk.injEq, Prod.mk.injEq] at hend
      omega
    · rfl
  exact completes_of_eq goesOn ⟨goes, congrArg Prod.fst view⟩

theorem completes_zoneSwap_ends (hruns : s.dev.holdRuns = true) (hswap : s.dev.hld.swapping = some (a, b, n)) (hn : n ≤ 16384)
    (hend : 16384 ≤ n + pairs.val) (hab : a ≠ b) :
    Completes (.zoneSwap pairs) s fun t => t.physZone a = s.dev.physZone b ∧ t.physZone b = s.dev.physZone a ∧
      t.hld.swapping = none ∧ t.f0 .HLD_STATUS_SWAPPING = 0 ∧
      t.ctr .HLD_ZONE_SWAPS 0 = (s.dev.ctr .HLD_ZONE_SWAPS 0 + 1) % 2 ^ 64 := by
  obtain ⟨goes, view⟩ := Dev.swapPairs_goes (d := s.dev) pairs.val hswap hn
  rw [Nat.min_eq_left hend] at goes
  have runs : ¬(!s.dev.holdRuns) = true := by simp [hruns]
  have ended : exec (.zoneSwap pairs) s = .next (s.on ((Dev.swapPairs pairs s.dev).swapEnded a b)) := by
    simp only [exec_zoneSwap, execZoneSwap, State.run_eq, if_neg runs, hswap, goes]
    rfl
  obtain ⟨ha, hb⟩ := Dev.swapEnded_places (d := Dev.swapPairs pairs s.dev) hab
  refine completes_of_eq ended ⟨ha.trans (Dev.physZone_congr view), hb.trans (Dev.physZone_congr view), rfl, ?shown, ?count⟩
  case shown =>
    have rest {g : Dev} {x y u v : Nat} {f : Field} :
        (((g.setPhysZone x y).setPhysZone u v).count .HLD_ZONE_SWAPS 0).f0 f = g.f0 f := rfl
    rw [Dev.swapEnded, rest, Dev.f0_set0_same, Nat.zero_mod]
  case count =>
    refine (Dev.ctr_count_same _ _ _).trans ?_
    rw [← Dev.ctr_of_holdCtr (d := s.dev) (congrArg Prod.snd view) (.inr rfl)]
    rfl

theorem completes_zoneSwap_starts (hruns : s.dev.holdRuns = true) (hswap : s.dev.hld.swapping = none)
    (hdue : s.dev.hld.lastSwap + 3600 * tSec ≤ s.dev.now)
    (hworn : (s.dev.zone s.dev.wornZones.2).wear + s.dev.f0 .HLD_ZONE_SWAP_DELTA ≤ (s.dev.zone s.dev.wornZones.1).wear) :
    Completes (.zoneSwap pairs) s fun t => t.hld.lastSwap = s.dev.now ∧ t.f0 .HLD_STATUS_SWAPPING = 1 ∧
      t.hld.swapping = some (s.dev.logicalZone s.dev.wornZones.1, s.dev.logicalZone s.dev.wornZones.2, 0) := by
  have runs : ¬(!s.dev.holdRuns) = true := by simp [hruns]
  refine completes_of_run _ (exec_zoneSwap pairs s) ?_
  simp only [if_neg runs, hswap, if_neg (Nat.not_lt.2 hdue), if_pos hworn]
  exact ⟨rfl, Dev.f0_set0_same _ _ _, rfl⟩

/-! ### Wear counters (R312) -/

theorem Map.find?_map_snd {V W : Type} (g : V → W) (m : Map V) (k : Nat) :
    Map.find? (m.map (fun x => (x.1, g x.2))) k = (Map.find? m k).map g := by
  induction m with
  | nil => rfl
  | cons x m ih =>
    simp only [List.map_cons, Map.find?]
    split
    · rfl
    · exact ih

/-- Saving the counter of a zone leaves the rest of it, and changes nothing of a zone at rest. -/
def Zone.saving (x : Zone) : Zone := { x with saved := x.wear }

theorem completes_wearCounterSave (hruns : s.dev.holdRuns = true) (hdue : s.dev.hld.lastWearSave + 3600 * tSec ≤ s.dev.now) :
    Completes .wearCounterSave s fun t => t.hld.lastWearSave = s.dev.now ∧
      (∀ z, (t.zone z).saved = (s.dev.zone z).wear ∧ (t.zone z).wear = (s.dev.zone z).wear) ∧ t.flds = s.dev.flds := by
  have runs : ¬(!s.dev.holdRuns ∨ s.dev.now < s.dev.hld.lastWearSave + 3600 * tSec) := by
    rw [hruns]
    simpa using hdue
  have saved (z : Nat) : Map.get Zone.reset (s.dev.hld.zones.map (fun x => (x.1, x.2.saving))) z = (s.dev.zone z).saving := by
    rw [Map.get, Map.find?_map_snd, Dev.zone, Map.get]
    cases Map.find? s.dev.hld.zones z with
    | none => rfl
    | some x => rfl
  refine completes_of_run _ (exec_wearCounterSave s) ?_
  dsimp only
  rw [if_neg runs]
  exact ⟨rfl, fun z => ⟨(congrArg Zone.saved (saved z) :), (congrArg Zone.wear (saved z) :)⟩, rfl⟩

end

end

end Sys2Proof.Machine
end

