-- ==== Sys2Proof/Proofs/HoldFormat.lean ====
section
/-! The format of the hold store (R317): it starts with its key and ends with an empty store. -/

namespace Sys2Proof.Machine

/-! ### The start -/

theorem Dev.pwWrite_idle {d : Dev} {m off : Nat} {busy collision : Field} {f : Dev → Dev} (hm : pwMaster m = true)
    (hbusy : d.b0 busy = false) : d.pwWrite m off busy collision f = f d := by
  simp [Dev.pwWrite, hm, hbusy]

section
variable {s : State}

theorem completes_hldFormat (m : Master) (cap : Fin 4096) (hopen : s.dev.Open m (Reg.HLD_FORMAT.addr 0 0))
    (hm : pwMaster m = true) (hbusy : s.dev.b0 .HLD_FORMAT_BUSY = false)
    (hstate : s.dev.winter = true ∨ s.dev.boot.committed = false) (hservice : s.dev.hld.outOfService = false)
    (hcap : cap.val ≤ 2048) :
    Completes (.hldFormat m 0x5A cap) s fun t => t.f0 .HLD_FORMAT_BUSY = 1 ∧ t.hld.formatting = some cap.val ∧
      t.reg.last = .ok 0 := by
  have allowed : ¬((!s.dev.winter ∧ s.dev.boot.committed) ∨ s.dev.hld.outOfService) := by
    rcases hstate with hw | hc
    · simp [hw, hservice]
    · simp [hc, hservice]
  have key : ¬(0x5A : Fin 256).val ≠ 0x5A := by decide
  have started : exec (.hldFormat m 0x5A cap) s = .next (s.on ((({ s.dev with
      hld := { s.dev.hld with formatting := some cap.val } } : Dev).set0 .HLD_FORMAT_BUSY 1).complete (.ok 0))) := by
    rw [exec_hldFormat, execHldFormat, State.run_eq, Dev.onWrite_open _ _ _ _ _ _ hopen, Dev.writeFormat]
    dsimp only
    rw [Dev.pwWrite_idle hm hbusy, if_neg key, if_neg allowed, if_neg (Nat.not_lt.2 hcap)]
    rfl
  refine completes_of_eq started ⟨?busy, rfl, rfl⟩
  exact (Dev.fld_congr _ _ _ _ _ (Dev.complete_flds _ _)).trans (Dev.f0_set0_same _ _ _)

end

/-! ### Queues that are emptied -/

/-- A hold queue holds no frame. -/
def HoldQ.Empty (x : HoldQ) : Prop := x.frames = [] ∧ x.chain = []

section
variable {d : Dev}

theorem Dev.holdQ_setHoldQ {h q : Nat} {x : HoldQ} : (d.setHoldQ h x).holdQ q = if q = h then x else d.holdQ q :=
  Map.get_set _ _ _ _ _

theorem Dev.holdQ_freePages {q : Nat} {ps : List Nat} : (d.freePages ps).holdQ q = d.holdQ q := by
  unfold Dev.freePages
  split
  · rfl
  · rfl

/-- What a queue that is emptied keeps: whether frames for it are on their way, and its next PAGE_SEQ. -/
def Dev.discarded (d : Dev) (h : Nat) : HoldQ :=
  { HoldQ.reset with
    active := decide ((d.holdQ h).pending ≠ 0), pending := (d.holdQ h).pending, since := d.now, nextSeq := (d.holdQ h).nextSeq }

theorem Dev.holdQ_emptyQueue {h q : Nat} {c : Ctr} {sweep : Bool} :
    (d.emptyQueue h c sweep).holdQ q = if q = h then d.discarded h else d.holdQ q := by
  unfold Dev.emptyQueue
  dsimp only
  split
  · exact Dev.holdQ_setHoldQ
  · rw [Dev.holdQ_freePages]
    exact Dev.holdQ_setHoldQ

/-- Queues that are emptied one after another are empty, and one that was stays so. -/
theorem Dev.emptyQueues_empty {c : Ctr} {sweep : Bool} {q : Nat} (l : List Nat) (d : Dev) (hq : q ∈ l ∨ (d.holdQ q).Empty) :
    ((l.foldl (fun d h => d.emptyQueue h c sweep) d).holdQ q).Empty := by
  induction l generalizing d with
  | nil => exact hq.resolve_left List.not_mem_nil
  | cons h l ih =>
    refine ih _ ?_
    by_cases hh : q = h
    · right
      rw [Dev.holdQ_emptyQueue, if_pos hh]
      exact ⟨rfl, rfl⟩
    · rw [Dev.holdQ_emptyQueue, if_neg hh]
      exact hq.imp_left (fun hm => (List.mem_cons.1 hm).resolve_left hh)

theorem Dev.holdQ_unlisted {q : Nat} (h : q ∉ d.hld.queues.map (·.1)) : d.holdQ q = HoldQ.reset := by
  by_contra hx
  exact h (List.mem_map.2 ⟨_, Map.mem_of_get (k := q) (v := d.holdQ q) rfl hx, rfl⟩)

/-! ### The end -/

/-- The queues that a format concerns have been emptied. -/
def Dev.formatEmptied (d : Dev) : Dev :=
  (d.hld.formatQueues.map (·.1)).foldl (fun d h => d.emptyQueue h .HLD_T_DISCARDED false)
    { d with hld := { d.hld with queues := d.hld.formatQueues } }

theorem Dev.formatEmptied_empty {q : Nat} : (d.formatEmptied.holdQ q).Empty := by
  refine Dev.emptyQueues_empty _ _ ?_
  by_cases hq : q ∈ d.hld.formatQueues.map (·.1)
  · exact .inl hq
  · right
    rw [Dev.holdQ_unlisted hq]
    exact ⟨rfl, rfl⟩

/-- The store as a format leaves it: the rings and the capture area of `cap` GiB, no page astray and no row due. -/
def HldSt.formatted (x : HldSt) (cap : Nat) : HldSt :=
  { x with
    formatting := none, capGib := cap, ring := ringFor cap, strays := [], due := [], fullAt := none
    capArea := if cap = x.capGib then x.capArea else []
    commitA := x.commitA.map (Commit.formatted cap), commitB := x.commitB.map (Commit.formatted cap) }

/-- The end of a format is shown. -/
def Dev.formatShown (d : Dev) (cap : Nat) : Dev :=
  ((({ d with hld := d.hld.formatted cap, act := { d.act with capHead := 0 } } : Dev).showCapture).set0 .HLD_FORMAT_BUSY 0).set0
    .HLD_STATUS_SWEEPING 0

/-- A format to `cap` GiB ends, and its end is recorded with the frames that it discarded. -/
def Dev.formatDone (d : Dev) (cap : Nat) : Dev :=
  (d.formatEmptied.formatShown cap).record .HOLD_FORMATTED 0 0
    (payloadOf [(2, cap), (4, d.hld.formatQueues.foldl (fun n x => n + x.2.frames.length + x.2.chain.length) 0)])

theorem completes_hldFormatDone {cap : Nat} {s : State} (hformat : s.dev.hld.formatting = some cap) :
    Completes .hldFormatDone s fun t => t.hld.formatting = none ∧ t.hld.capGib = cap ∧ t.hld.ring = ringFor cap ∧
      t.f0 .HLD_FORMAT_BUSY = 0 ∧ ∀ h, (t.holdQ h).frames = [] ∧ (t.holdQ h).chain = [] := by
  have done : exec .hldFormatDone s = .next (s.on (s.dev.formatDone cap)) := by
    rw [exec_hldFormatDone, execHldFormatDone, State.run_eq]
    split
    · next h => exact absurd (hformat.symm.trans h) (Option.some_ne_none _)
    · next h =>
      obtain rfl := Option.some_inj.1 (hformat.symm.trans h)
      rfl
  have store : (s.dev.formatDone cap).hld = s.dev.formatEmptied.hld.formatted cap := Dev.record_hld _ _ _ _ _
  refine completes_of_eq done ⟨?format, ?gib, ?ring, ?busy, fun q => ?empty⟩
  case format | gib | ring => rw [store]; rfl
  case busy =>
    rw [Dev.formatDone, Dev.record_f0 (by decide), Dev.formatShown, Dev.f0_set0_other (by decide), Dev.f0_set0_same, Nat.zero_mod]
  case empty =>
    rw [Dev.holdQ, store]
    exact Dev.formatEmptied_empty

end

end Sys2Proof.Machine
end

