-- ==== Sys2Proof/Proofs/HoldRetraining.lean ====
section
/-! The retraining of memory dies (R148 to R150): its start, its end, a second failure in a row, and the pages deferred. -/

namespace Sys2Proof.Machine

section
variable {d : Dev}

/-! ### The end of a retraining (R149, R150) -/

theorem Dev.endRetrain_some {die a : Nat} (h : d.hld.retrain = some (die, a)) : d.endRetrain =
    (({ d with hld := { d.hld with
        retrain := none, rebuild := if d.hld.deferral.isEmpty then d.hld.rebuild else some die } } : Dev).set1
      .HLD_DIE_STATUS_STATE die (if die ∈ d.hld.failedDies then 2 else 0)).set0 .HLD_RETRAIN_STATUS_ACTIVE 0 := by
  simp only [Dev.endRetrain, h]

theorem Dev.endRetrain_active {die a : Nat} (h : d.hld.retrain = some (die, a)) :
    d.endRetrain.f0 .HLD_RETRAIN_STATUS_ACTIVE = 0 := by
  rw [Dev.endRetrain_some h, Dev.f0_set0_same, Nat.zero_mod]

theorem Dev.endRetrain_state {die a : Nat} (h : d.hld.retrain = some (die, a)) :
    d.endRetrain.f1 .HLD_DIE_STATUS_STATE die = if die ∈ d.hld.failedDies then 2 else 0 := by
  rw [Dev.endRetrain_some h, Dev.f1_set0_other (by decide), Dev.f1_set1_same]
  split
  · rfl
  · rfl

theorem Dev.endRetrain_store {die a : Nat} (h : d.hld.retrain = some (die, a)) : d.endRetrain.hld.retrain = none ∧
    d.endRetrain.hld.retrainFails = d.hld.retrainFails ∧ d.endRetrain.hld.failedDies = d.hld.failedDies := by
  rw [Dev.endRetrain_some h]
  exact ⟨rfl, rfl, rfl⟩

/-- A failed retraining is counted for its die. -/
def Dev.failNoted (d : Dev) (die : Nat) : Dev :=
  { d with hld := { d.hld with retrainFails := Map.set 0 d.hld.retrainFails die (Map.get 0 d.hld.retrainFails die + 1) } }

theorem Dev.failNoted_fails {die : Nat} :
    Map.get 0 (d.failNoted die).hld.retrainFails die = Map.get 0 d.hld.retrainFails die + 1 := by
  simp only [Dev.failNoted, Map.get_set_same]

theorem Dev.retrainFailed_first {die : Nat} (h : Map.get 0 d.hld.retrainFails die = 0) :
    d.retrainFailed die = d.failNoted die := by
  simp only [Dev.retrainFailed, Dev.failNoted, h]
  rfl

theorem Dev.retrainFailed_again {die : Nat} (h : 1 ≤ Map.get 0 d.hld.retrainFails die) : d.retrainFailed die =
    ((d.failNoted die).record .HOLD_RETRAIN_FAILED 0 0 (payloadOf [])).failHoldDie die := by
  unfold Dev.retrainFailed
  dsimp only
  rw [if_neg (by omega)]
  rfl

/-! ### A die that fails with no retraining under way (R31, R314) -/

theorem Dev.endRetrain_none (h : d.hld.retrain = none) : d.endRetrain = d := by simp only [Dev.endRetrain, h]

theorem Dev.abortRetrain_none {reason : Nat} (h : d.hld.retrain = none) : d.abortRetrain reason = d := by
  simp only [Dev.abortRetrain, h]

theorem Dev.markHoldDie_retrain {die : Nat} : (d.markHoldDie die).hld.retrain = d.hld.retrain := by
  unfold Dev.markHoldDie
  split
  · rfl
  · rfl

theorem Dev.reported_store {die : Nat} (h : d.hld.retrain = none) : ((d.tellHoldDie die).dropHoldDie die).hld = d.hld := by
  have told : (d.tellHoldDie die).hld = d.hld := congrArg (fun x => x.2.2.1) Dev.quietView_tellHoldDie
  have idle : ¬(d.tellHoldDie die).hld.retrain.any (fun x => x.1 == die) = true := by simp [told, h]
  rw [Dev.dropHoldDie, if_neg idle, (Dev.tells_autumn (by decide)).toldStore, told]

/-- What of the store goes on when it leaves service. -/
theorem Dev.holdOutOfService_store {die : Option Nat} (h : d.hld.outOfService = false) : (d.holdOutOfService die).hld =
    { d.endRetrain.hld with queues := [], outOfService := true, formatting := none } := by
  have quiet {e g : Dev} (k : e.Quiet g) : g.hld = e.hld := congrArg (fun x => x.2.2.1) k.view
  have counted (l : Map HoldQ) (e : Dev) : (l.foldl (fun (d : Dev) x =>
      d.countN .HLD_T_LOST (x.1 % 8) (x.2.frames.length + x.2.chain.length)) e).hld = e.hld :=
    List.foldlRecOn (motive := fun g : Dev => g.hld = e.hld) _ _ rfl (fun _ hg _ _ => hg)
  have autumn (e : Dev) : (e.autumn .HLT_AUTUMN_CAUSE_HOLD .HOLD_OUT_OF_SERVICE).hld = e.hld :=
    (Dev.tells_autumn (by decide)).toldStore
  rw [Dev.holdOutOfService, if_neg (by simp [h])]
  simp only [autumn, quiet Dev.quiet_raise, Dev.record_hld, Dev.set0_hld,
    quiet Dev.quiet_loseCaptures, quiet Dev.quiet_loseHoldQueues, counted]

theorem Dev.holdOutOfService_untrained {die : Option Nat} (h : d.hld.retrain = none) :
    (d.holdOutOfService die).hld.retrain = none ∧ (d.holdOutOfService die).hld.failedDies = d.hld.failedDies := by
  cases hservice : d.hld.outOfService with
  | true => rw [Dev.holdOutOfService, if_pos hservice]; exact ⟨h, rfl⟩
  | false => rw [Dev.holdOutOfService_store hservice, Dev.endRetrain_none h]; exact ⟨h, rfl⟩

theorem Dev.failHoldDie_untrained {die : Nat} (hdie : die < 18) (h : d.hld.retrain = none) :
    (d.failHoldDie die).hld.retrain = none ∧ die ∈ (d.failHoldDie die).hld.failedDies := by
  by_cases gone : d.holdDieGone die
  · have stays : d.failHoldDie die = d := if_pos gone
    rw [stays]
    exact ⟨h, gone.elim And.right (fun k => absurd hdie (Nat.not_lt.2 k.1))⟩
  · have idle : (d.markHoldDie die).hld.retrain = none := Dev.markHoldDie_retrain.trans h
    have store := Dev.reported_store (die := die) idle
    have failed : die ∈ (d.markHoldDie die).hld.failedDies := by
      rw [(Dev.markHoldDie_memory hdie).1]
      exact List.mem_cons_self
    rw [Dev.failHoldDie_eq gone]
    dsimp only
    split
    · obtain ⟨hretrain, hfailed⟩ := Dev.holdOutOfService_untrained (die := some (holdDieId die)) (store ▸ idle)
      exact ⟨hretrain, hfailed ▸ store ▸ failed⟩
    · split
      · rw [Dev.record_hld, Dev.set0_hld, Dev.abortRetrain_none (store ▸ idle)]
        exact ⟨store ▸ idle, store ▸ failed⟩
      · exact ⟨store ▸ idle, store ▸ failed⟩

end

/-! ### The start of a retraining (R148) -/

section
variable {s : State}

/-- The die whose turn it is in the pass of 10 minutes, a new pass included. -/
def Dev.retrainTurn (d : Dev) : Nat :=
  if d.retrainDie d.hld.retrainPos = 18 ∧ (∀ t ∈ d.hld.passAt, t + 600 * tSec ≤ d.now) then d.retrainDie 0
  else d.retrainDie d.hld.retrainPos

/-- A die's retraining is shown, with the temperature that it is done at. -/
def Dev.retrainShown (d : Dev) (die temp : Nat) : Dev :=
  (((d.set1 .HLD_DIE_STATUS_STATE die 1).set1 .HLD_DIE_STATUS_RETRAIN_TEMP die temp).set0 .HLD_RETRAIN_STATUS_ACTIVE 1).set0
    .HLD_RETRAIN_STATUS_DIE die

theorem unsigned_lt {w : Nat} (v : Int) : unsigned w v < 2 ^ w := by
  have hpos : (0 : Int) < 2 ^ w := by positivity
  have low := Int.emod_nonneg v hpos.ne'
  have high := Int.emod_lt_of_pos v hpos
  unfold unsigned
  zify
  rwa [Int.toNat_of_nonneg low]

theorem Dev.retrainShown_fields {d : Dev} {die : HoldDie} {v : Int} :
    (d.retrainShown die (unsigned 8 v)).f1 .HLD_DIE_STATUS_STATE die = 1 ∧
    (d.retrainShown die (unsigned 8 v)).f0 .HLD_RETRAIN_STATUS_ACTIVE = 1 ∧
    (d.retrainShown die (unsigned 8 v)).f0 .HLD_RETRAIN_STATUS_DIE = die.val ∧
    (d.retrainShown die (unsigned 8 v)).f1 .HLD_DIE_STATUS_RETRAIN_TEMP die = unsigned 8 v := by
  refine ⟨?_, ?_, ?_, ?_⟩
  · rw [Dev.retrainShown, Dev.f1_set0_other (by decide), Dev.f1_set0_other (by decide), Dev.f1_set1_ne (by decide),
      Dev.f1_set1_same]
    rfl
  · rw [Dev.retrainShown, Dev.f0_set0_other (by decide), Dev.f0_set0_same]
    rfl
  · rw [Dev.retrainShown, Dev.f0_set0_same]
    exact Nat.mod_eq_of_lt (die.isLt.trans (by decide))
  · rw [Dev.retrainShown, Dev.f1_set0_other (by decide), Dev.f1_set0_other (by decide), Dev.f1_set1_same]
    exact Nat.mod_eq_of_lt (unsigned_lt v)

/-- A die is next whose sensor has moved, or with none such the one whose turn it is. -/
def Dev.RetrainsNext (d : Dev) (die : HoldDie) : Prop :=
  d.holdMoved die = true ∨ ((∀ i < 18, i ∉ d.hld.failedDies → d.holdMoved i = false) ∧ d.retrainTurn = die.val)

theorem Dev.retrainTurn_eq {d : Dev} : d.retrainTurn =
    if decide (d.retrainDie d.hld.retrainPos = 18) && d.hld.passAt.all (fun t => decide (t + 600 * tSec ≤ d.now)) then
      d.retrainDie 0 else d.retrainDie d.hld.retrainPos := by
  simp [Dev.retrainTurn, Option.all_eq_true]

theorem Dev.RetrainsNext.chosen {d : Dev} {die : HoldDie} (h : d.RetrainsNext die) (hdie : die.val ∉ d.hld.failedDies) :
    (if (List.range 18).any (fun i => decide (i ∉ d.hld.failedDies) && d.holdMoved i) then d.holdMoved die
      else d.retrainTurn == die.val) = true := by
  obtain hmoved | ⟨hrest, hturn⟩ := h
  · have hot : (List.range 18).any (fun i => decide (i ∉ d.hld.failedDies) && d.holdMoved i) = true :=
      List.any_eq_true.2 ⟨die, List.mem_range.2 die.isLt, by simp [hdie, hmoved]⟩
    rw [if_pos hot, hmoved]
  · have cold : ¬(List.range 18).any (fun i => decide (i ∉ d.hld.failedDies) && d.holdMoved i) = true := by
      rw [List.any_eq_true]
      rintro ⟨i, hi, hi'⟩
      obtain ⟨hin, hmoved⟩ := Bool.and_eq_true_iff.1 hi'
      exact Bool.false_ne_true ((hrest i (List.mem_range.1 hi) (of_decide_eq_true hin)).symm.trans hmoved)
    rw [if_neg cold, hturn]
    exact beq_self_eq_true _

theorem completes_holdRetrainStart (die : HoldDie) (hretrain : s.dev.hld.retrain = none) (hrebuild : s.dev.hld.rebuild = none)
    (hnext : s.dev.hld.retrainNext ≤ s.dev.now) (hsuspended : s.dev.hld.suspended = false)
    (hservice : s.dev.hld.outOfService = false) (hfenced : s.dev.hld.fenced = false) (hfrozen : s.dev.hld.frozen = false)
    (hdie : die.val ∉ s.dev.hld.failedDies) (hturn : s.dev.RetrainsNext die) :
    Completes (.holdRetrainStart die) s fun t => t.hld.retrain = some (die.val, s.dev.now) ∧
      t.hld.retrainNext = s.dev.now + 10 * tMs ∧ t.f1 .HLD_DIE_STATUS_STATE die = 1 ∧ t.f0 .HLD_RETRAIN_STATUS_ACTIVE = 1 ∧
      t.f0 .HLD_RETRAIN_STATUS_DIE = die.val ∧
      t.f1 .HLD_DIE_STATUS_RETRAIN_TEMP die = unsigned 8 (s.dev.holdTemp die / 16) := by
  have chosen := hturn.chosen hdie
  rw [Dev.retrainTurn_eq] at chosen
  have started : ∃ pos pass, exec (.holdRetrainStart die) s = .next (s.on (({ s.dev with hld := { s.dev.hld with
      retrain := some (die.val, s.dev.now), retrainNext := s.dev.now + 10 * tMs, retrainPos := pos, passAt := pass } } :
      Dev).retrainShown die (unsigned 8 (s.dev.holdTemp die / 16)))) := by
    rw [exec_holdRetrainStart, execHoldRetrainStart, State.run_eq]
    dsimp only
    rw [chosen, if_neg (by simp [hretrain, hrebuild, hnext, hsuspended, hservice, hfenced, hfrozen, hdie])]
    exact ⟨_, _, rfl⟩
  obtain ⟨pos, pass, started⟩ := started
  obtain ⟨hstate, hactive, hshown, htemp⟩ := Dev.retrainShown_fields (die := die) (v := s.dev.holdTemp die / 16)
  exact completes_of_eq started ⟨rfl, rfl, hstate, hactive, hshown, htemp⟩

/-! ### How a retraining ends -/

section
variable {die : HoldDie} {a : Nat}

theorem completes_holdRetrainDone_well (h : s.dev.hld.retrain = some (die.val, a)) :
    Completes (.holdRetrainDone true) s fun t => t.hld.retrain = none ∧ Map.get 0 t.hld.retrainFails die = 0 ∧
      t.f1 .HLD_DIE_STATUS_STATE die = (if die.val ∈ s.dev.hld.failedDies then 2 else 0) ∧
      t.f0 .HLD_RETRAIN_STATUS_ACTIVE = 0 := by
  refine completes_of_run _ (exec_holdRetrainDone true s) ?_
  simp only [h, if_true]
  exact ⟨(Dev.endRetrain_store h).1, Map.get_set_same _ _ _ _, Dev.endRetrain_state h, Dev.endRetrain_active h⟩

theorem exec_holdRetrainDone_badly (h : s.dev.hld.retrain = some (die.val, a)) :
    exec (.holdRetrainDone false) s = .next (s.on (s.dev.endRetrain.retrainFailed die)) := by
  simp only [exec_holdRetrainDone, execHoldRetrainDone, State.run_eq, h]
  rfl

theorem completes_holdRetrainDone_badly (h : s.dev.hld.retrain = some (die.val, a))
    (hfails : Map.get 0 s.dev.hld.retrainFails die = 0) :
    Completes (.holdRetrainDone false) s fun t => t.hld.retrain = none ∧ Map.get 0 t.hld.retrainFails die = 1 ∧
      t.f0 .HLD_RETRAIN_STATUS_ACTIVE = 0 ∧ t.hld.failedDies = s.dev.hld.failedDies := by
  obtain ⟨retrain, fails, failed⟩ := Dev.endRetrain_store h
  have first : Map.get 0 s.dev.endRetrain.hld.retrainFails die = 0 := fails ▸ hfails
  refine completes_of_eq (exec_holdRetrainDone_badly h) ?_
  rw [Dev.retrainFailed_first first]
  exact ⟨retrain, Dev.failNoted_fails.trans (congrArg (· + 1) first), Dev.endRetrain_active h, failed⟩

theorem completes_holdRetrainDone_again (h : s.dev.hld.retrain = some (die.val, a))
    (hfails : 1 ≤ Map.get 0 s.dev.hld.retrainFails die) :
    Completes (.holdRetrainDone false) s fun t => t.hld.retrain = none ∧ die.val ∈ t.hld.failedDies := by
  obtain ⟨retrain, fails, -⟩ := Dev.endRetrain_store h
  refine completes_of_eq (exec_holdRetrainDone_badly h) ?_
  rw [Dev.retrainFailed_again (fails ▸ hfails)]
  exact Dev.failHoldDie_untrained die.isLt ((congrArg HldSt.retrain (Dev.record_hld _ _ _ _ _)).trans retrain)

theorem completes_holdRetrainTimeout (h : s.dev.hld.retrain = some (die.val, a)) (hdue : a + tMs ≤ s.dev.now)
    (hfails : Map.get 0 s.dev.hld.retrainFails die = 0) :
    Completes .holdRetrainTimeout s fun t => t.hld.retrain = none ∧ Map.get 0 t.hld.retrainFails die = 1 ∧
      t.f0 .HLD_RETRAIN_STATUS_ACTIVE = 0 ∧ t.hld.failedDies = s.dev.hld.failedDies := by
  obtain ⟨retrain, fails, failed⟩ := Dev.endRetrain_store h
  have ended : ∃ p, s.dev.abortRetrain 0 = s.dev.endRetrain.record .HOLD_RETRAIN_ABORTED 7 die p := by
    simp only [Dev.abortRetrain, h]
    exact ⟨_, rfl⟩
  obtain ⟨p, ended⟩ := ended
  have store : (s.dev.abortRetrain 0).hld = s.dev.endRetrain.hld := by rw [ended, Dev.record_hld]
  have first : Map.get 0 (s.dev.abortRetrain 0).hld.retrainFails die = 0 := by rw [store, fails, hfails]
  have given : exec .holdRetrainTimeout s = .next (s.on ((s.dev.abortRetrain 0).failNoted die)) := by
    simp only [exec_holdRetrainTimeout, execHoldRetrainTimeout, State.run_eq, h, if_pos hdue, Dev.retrainFailed_first first]
    rfl
  refine completes_of_eq given ⟨(congrArg HldSt.retrain store).trans retrain, ?fails, ?active,
    (congrArg HldSt.failedDies store).trans failed⟩
  case fails => rw [Dev.failNoted_fails, first]
  case active =>
    have noted : ((s.dev.abortRetrain 0).failNoted die).f0 .HLD_RETRAIN_STATUS_ACTIVE =
        (s.dev.abortRetrain 0).f0 .HLD_RETRAIN_STATUS_ACTIVE := rfl
    rw [noted, ended, Dev.record_f0 (by decide), Dev.endRetrain_active h]

end

theorem completes_deferralListRebuild {die : Nat} (h : s.dev.hld.rebuild = some die) (hruns : s.dev.holdRuns = true) :
    Completes .deferralListRebuild s fun t => t.hld.deferral = [] ∧ t.hld.rebuild = none ∧
      t.f0 .HLD_RETRAIN_STATUS_DEFERRED = 0 := by
  refine completes_of_run _ (exec_deferralListRebuild s) ?_
  rw [if_pos ⟨by rw [h]; rfl, hruns⟩]
  exact ⟨rfl, rfl, (Dev.f0_set0_same _ _ _).trans (Nat.zero_mod _)⟩

end

/-- Settles O44: wear that is noted at a copied page moves neither the map of the zones nor an exchange
(`Dev.wears_notePageCopy`), so a gap and an exchange end as they are set; a queue that a format has emptied stays empty while the next ones are
(`Dev.emptyQueues_empty`); and a die that fails once its retraining has ended starts no other (`Dev.failHoldDie_untrained`). -/
theorem holdMaintenance : Obligations.HoldMaintenance := by
  unfold Obligations.HoldMaintenance
  refine ⟨?gap, ?goes, ?ends, ?starts, ?wear, ?format, ?formatted, ?retrain, ?well, ?badly, ?again, ?timeout, ?rebuilt⟩
  case gap => exact fun z _ hruns hdue => completes_gapMove z hruns hdue
  case goes => exact fun _ _ _ _ _ hruns hswap hn => completes_zoneSwap_goes hruns hswap hn
  case ends => exact fun _ _ _ _ _ hruns hswap hn hend hab => completes_zoneSwap_ends hruns hswap hn hend hab
  case starts => exact fun _ _ hruns hswap hdue hworn => completes_zoneSwap_starts hruns hswap hdue hworn
  case wear => exact fun _ hruns hdue => completes_wearCounterSave hruns hdue
  case format =>
    exact fun m cap _ hopen hm hbusy hstate hservice hcap => completes_hldFormat m cap hopen hm hbusy hstate hservice hcap
  case formatted => exact fun _ _ hformat => completes_hldFormatDone hformat
  case retrain =>
    exact fun die _ hretrain hrebuild hnext hsuspended hservice hfenced hfrozen hdie hturn =>
      completes_holdRetrainStart die hretrain hrebuild hnext hsuspended hservice hfenced hfrozen hdie hturn
  case well => exact fun _ _ _ h => completes_holdRetrainDone_well h
  case badly => exact fun _ _ _ h hfails => completes_holdRetrainDone_badly h hfails
  case again => exact fun _ _ _ h hfails => completes_holdRetrainDone_again h hfails
  case timeout => exact fun _ _ _ h hdue hfails => completes_holdRetrainTimeout h hdue hfails
  case rebuilt => exact fun _ _ h hruns => completes_deferralListRebuild h hruns

end Sys2Proof.Machine
end

