-- ==== Sys2Proof/Proofs/HoldReads.lean ====
section
/-! Reads of the dies (R286, R314): while the store stays in service they leave its queues, those of the buffer and the
counters by class alone. -/

namespace Sys2Proof.Machine

/-- The hold store but for its retraining, its wear and what has failed of it. -/
def HldSt.unfailed (x : HldSt) : HldSt :=
  { x.unworn with innerFails := [], failedDies := [], failedBases := [], suspended := false }

def Dev.servedView (d : Dev) : HldSt × Map (List Desc) × (Nat → Nat → Nat) := (d.hld.unfailed, d.buf.queues, d.holdCtr.1)

/-- Where the store is still in service, its dies have at most been read, or have failed, from one device to the other. -/
def Dev.Serves (d e : Dev) : Prop := e.hld.outOfService = false → e.servedView = d.servedView

section
variable {d e g : Dev}

theorem Dev.Serves.refl (d : Dev) : d.Serves d := fun _ => rfl

theorem Dev.Serves.trans (h : d.Serves e) (k : e.Serves g) : d.Serves g := fun hg =>
  have served := k hg
  have before : e.hld.outOfService = false := (congrArg (fun v => v.1.outOfService) served).symm.trans hg
  served.trans (h before)

theorem Dev.Serves.ite {c : Prop} [Decidable c] (h : d.Serves e) (k : d.Serves g) : d.Serves (if c then e else g) := by
  split
  · exact h
  · exact k

theorem Dev.Serves.foldl {τ : Type} {f : Dev → τ → Dev} (h : ∀ (e : Dev) (x : τ), e.Serves (f e x)) (l : List τ) (d : Dev) :
    d.Serves (l.foldl f d) := by
  induction l generalizing d with
  | nil => exact .refl d
  | cons x l ih => exact (h d x).trans (ih _)

theorem Dev.Keeps.serves (h : d.Wears e) : d.Serves e := fun _ =>
  congrArg (fun v : StoreView => ({ v.1 with innerFails := [], failedDies := [], failedBases := [], suspended := false },
    v.2.1, v.2.2.1.1)) h.view

theorem Dev.serves_told (h : d.Tells e) : d.Serves e := h.defers.wears.serves

theorem Dev.serves_setFld {f : Field} {i j v : Nat} : d.Serves (d.setFld f i j v) := fun _ => rfl

/-- A counter of the whole store counts. -/
theorem Dev.serves_countN {c : Ctr} {i n : Nat} (hc : c.block ≠ .HLD_TCNT) : d.Serves (d.countN c i n) := fun _ =>
  congrArg (fun x => (d.hld.unfailed, d.buf.queues, x))
    (funext fun _ => funext fun _ => Dev.ctr_countN_ne (Ctr.ne_of_block hc.symm))

/-! ### A die that fails (R31, R314) -/

theorem Dev.serves_markHoldDie {die : Nat} : d.Serves (d.markHoldDie die) := by
  unfold Dev.markHoldDie
  split
  · exact fun _ => rfl
  · exact fun _ => rfl

theorem Dev.serves_dieFault {die : Nat} : d.Serves (d.dieFault die) :=
  .ite (.refl d) (Dev.serves_setFld.trans (Dev.serves_told Dev.tells_raise))

theorem Dev.serves_tellHoldDie {die : Nat} : d.Serves (d.tellHoldDie die) :=
  ((Dev.serves_told Dev.tells_record).trans Dev.serves_dieFault).trans (Dev.serves_told Dev.tells_raise)

theorem Dev.serves_dropHoldDie {die : Nat} : d.Serves (d.dropHoldDie die) :=
  (Dev.Serves.ite Dev.defers_endRetrain.wears.serves (.refl d)).trans (Dev.serves_told (Dev.tells_autumn (by decide)))

theorem Dev.serves_holdOutOfService {die : Option Nat} : d.Serves (d.holdOutOfService die) := fun h =>
  absurd (Dev.outOfService_holdOutOfService.symm.trans h) (by decide)

theorem Dev.serves_failHoldDie {die : Nat} : d.Serves (d.failHoldDie die) := by
  by_cases gone : d.holdDieGone die
  · have stays : d.failHoldDie die = d := if_pos gone
    rw [stays]
    exact .refl d
  · have failed : d.Serves (((d.markHoldDie die).tellHoldDie die).dropHoldDie die) :=
      (Dev.serves_markHoldDie.trans Dev.serves_tellHoldDie).trans Dev.serves_dropHoldDie
    have suspended {g : Dev} : g.Serves ({ g with hld := { g.hld with suspended := true } }) := fun _ => rfl
    rw [Dev.failHoldDie_eq gone]
    refine failed.trans (.ite Dev.serves_holdOutOfService (.ite ?_ (.refl _)))
    exact ((Dev.defers_abortRetrain.wears.serves.trans suspended).trans Dev.serves_setFld).trans
      (Dev.serves_told Dev.tells_record)

/-! ### A stripe that is read -/

theorem Dev.serves_innerFailed {die : Nat} : d.Serves (d.innerFailed die) := by
  have noted {m : Map (List Nat)} : d.Serves ({ d with hld := { d.hld with innerFails := m } }) := fun _ => rfl
  exact .ite ((noted.trans Dev.serves_setFld).trans Dev.serves_failHoldDie) (noted.trans Dev.serves_setFld)

theorem Dev.serves_lastFault {kind die stripe : Nat} : d.Serves (d.lastFault kind die stripe) :=
  (Dev.serves_setFld.trans Dev.serves_setFld).trans Dev.serves_setFld

theorem Dev.serves_readStripe {page stripe : Nat} {r : StripeRead} : d.Serves (d.readStripe page stripe r).1 := by
  have counted {g : Dev} {c : Ctr} {n : Nat} (hc : c.block ≠ .HLD_TCNT) : g.Serves (g.countN c 0 n) := Dev.serves_countN hc
  have failed {g : Dev} : g.Serves (r.bad.foldl (fun d die => if die ∈ d.hld.failedDies then d else d.innerFailed die) g) :=
    .foldl (fun g _ => .ite (.refl g) Dev.serves_innerFailed) _ _
  have bad {p : Prop} [Decidable p] {n : Nat} : d.Serves (r.bad.foldl (fun d die =>
      if die ∈ d.hld.failedDies then d else d.innerFailed die)
      (if p then (d.countN .HLD_INNER_CORRECTED_BITS 0 n).abortRetrain 2 else d.countN .HLD_INNER_CORRECTED_BITS 0 n)) :=
    ((counted (by decide)).trans (.ite Dev.defers_abortRetrain.wears.serves (.refl _))).trans failed
  unfold Dev.readStripe
  dsimp only
  split
  · exact bad
  · exact ((bad.trans (counted (by decide))).trans Dev.serves_lastFault).trans
      ((Dev.serves_told Dev.tells_perf).trans (.ite Dev.wears_rewriteStripe.serves (.refl _)))
  · exact (bad.trans (counted (by decide))).trans Dev.serves_lastFault

/-- A frame whose rows are all read leaves the store in service as it was. -/
theorem Dev.servedView_readRows {f : Held} (rows : List Nat) (l : List RowRead) (d : Dev)
    (h : (Dev.readRows f rows l d).2 = true) : (Dev.readRows f rows l d).1.servedView = d.servedView := by
  induction rows generalizing l d with
  | nil => rfl
  | cons row rows ih =>
    have read : d.Serves ((d.perf 5 0x301 0 1).readStripe f.page (d.stripeOf f.page row) (.of (l.headD ⟨0, [], []⟩))).1 :=
      (Dev.serves_told Dev.tells_perf).trans Dev.serves_readStripe
    rw [Dev.readRows] at h ⊢
    split at h
    · exact absurd h Bool.false_ne_true
    · next hservice =>
      split at h
      · exact absurd h Bool.false_ne_true
      · next hread =>
        rw [if_neg hservice, if_neg hread]
        exact (ih _ _ h).trans (read (Bool.eq_false_iff.2 hservice))

end

end Sys2Proof.Machine
end

