-- ==== Sys2Proof/Proofs/HoldDraining.lean ====
section
/-! Rows that are written (R294) and frames that are drained to their port or dropped for their age (R298, R301, R302). -/

namespace Sys2Proof.Machine

/-! ### What stands in line -/

/-- The frames of a hold queue and of its head chain, the queues of the buffer, and the counters by class. -/
abbrev LineView := (List Held × List Held) × Map (List Desc) × (Nat → Nat → Nat)

def Dev.lineView (h : Nat) (d : Dev) : LineView :=
  (((d.holdQ h).frames, (d.holdQ h).chain), d.buf.queues, d.holdCtr.1)

section
variable {d e : Dev} {h : Nat}

theorem Dev.Keeps.line (k : d.Tells e) : e.lineView h = d.lineView h :=
  congrArg (fun v : StoreView => (((Map.get HoldQ.reset v.1.queues h).frames, (Map.get HoldQ.reset v.1.queues h).chain),
    v.2.1, v.2.2.1.1)) k.view

theorem Dev.line_of_served (k : e.servedView = d.servedView) : e.lineView h = d.lineView h :=
  congrArg (fun v : HldSt × Map (List Desc) × (Nat → Nat → Nat) =>
    (((Map.get HoldQ.reset v.1.queues h).frames, (Map.get HoldQ.reset v.1.queues h).chain), v.2)) k

theorem Dev.lineView_frames (k : e.lineView h = d.lineView h) : (e.holdQ h).frames = (d.holdQ h).frames :=
  congrArg (fun v => v.1.1) k

theorem Dev.lineView_chain (k : e.lineView h = d.lineView h) : (e.holdQ h).chain = (d.holdQ h).chain :=
  congrArg (fun v => v.1.2) k

theorem Dev.lineView_queues (k : e.lineView h = d.lineView h) : e.buf.queues = d.buf.queues := congrArg (fun v => v.2.1) k

theorem Dev.lineView_queue (k : e.lineView h = d.lineView h) {q i : Nat} : e.queue q i = d.queue q i :=
  congrArg (fun m => Map.get [] m (k2 q i)) (Dev.lineView_queues k)

theorem Dev.lineView_ctr (k : e.lineView h = d.lineView h) {c : Ctr} (hc : c.block = .HLD_TCNT) {i : Nat} :
    e.ctr c i = d.ctr c i := by
  obtain ⟨b, n⟩ := c
  obtain rfl := hc
  exact congrFun (congrFun (congrArg (fun v => v.2.2) k) n) i

/-- Pages that are freed hold no frame. -/
theorem Dev.lineView_freePages {ps : List Nat} : (d.freePages ps).lineView h = d.lineView h := by
  unfold Dev.freePages
  split
  · rfl
  · rfl

theorem Dev.lineView_setHoldQ {x : HoldQ} :
    (d.setHoldQ h x).lineView h = ((x.frames, x.chain), d.buf.queues, d.holdCtr.1) := by
  have set : (d.setHoldQ h x).holdQ h = x := Map.get_set_same _ _ _ _
  rw [Dev.lineView, set]
  rfl

theorem Dev.lineView_trimPages : (d.trimPages h).lineView h = d.lineView h :=
  Dev.lineView_freePages.trans Dev.lineView_setHoldQ

/-- A queue that returns to DIRECT held nothing. -/
theorem Dev.lineView_holdSettle : (d.holdSettle h).lineView h = d.lineView h := by
  unfold Dev.holdSettle
  dsimp only
  split
  · next idle =>
    obtain ⟨-, frames, chain, -⟩ := idle
    have due {g : Dev} {l : List (Nat × Nat × Nat)} :
      ({ g with hld := { g.hld with due := l } } : Dev).lineView h = g.lineView h := rfl
    rw [Dev.tells_recordLimited.line, due, Dev.lineView_freePages, Dev.lineView_setHoldQ, Dev.lineView,
      List.isEmpty_iff.1 frames, List.isEmpty_iff.1 chain]
    rfl
  · rfl

theorem Dev.tells_recordCounted {c : EvCode} {t n k i : Nat} {fs : Nat → List (Nat × Nat)} :
    d.Tells (d.recordCounted c t n k i fs) := (Dev.reports_recordCounted d c t n k i fs).tells Dev.uncounted_recordLimited

/-! ### Refused free requests (R291) -/

/-- A free request for a page that another queue, or nobody, owns. -/
def Dev.claim (d : Dev) : Option (Fin 3056 × Fin 67108864) → Dev
  | some (q, page) => d.refuseFree q page
  | none => d

theorem Dev.lineView_freeRefused {page owner by_ : Nat} : (d.freeRefused page owner by_).lineView h = d.lineView h := by
  have counted : (d.count .HLD_FREE_REFUSED 0).lineView h = d.lineView h :=
    congrArg (fun x => (((d.holdQ h).frames, (d.holdQ h).chain), d.buf.queues, x))
      (funext fun _ => funext fun _ => Dev.ctr_count_ne (Ctr.ne_of_block (show CtrBlock.HLD_TCNT ≠ .HLD_GCNT by decide)))
  exact Dev.tells_record.line.trans counted

theorem Dev.lineView_claim {badFree : Option (Fin 3056 × Fin 67108864)} : (d.claim badFree).lineView h = d.lineView h := by
  unfold Dev.claim
  split
  · unfold Dev.refuseFree
    split
    · split
      · rfl
      · exact Dev.lineView_freeRefused
    · exact Dev.lineView_freeRefused
  · rfl

/-! ### Frames that join a queue of the buffer -/

/-- A descriptor joins the tail of its queue; what else follows is told. -/
theorem Dev.tells_enqueue {q i : Nat} {de : Desc} :
    (({ d with buf := { d.buf with links := d.buf.links + 1 } } : Dev).setQueue q i
      (d.queue q i ++ [{ de with no := d.buf.links }])).Tells (d.enqueue q i de) := by
  have counted {g : Dev} : g.Tells ((g.count .QUE_ENQ_FRAMES (q * 10 + i)).perf 4 0x204 0xFF 1) :=
    (Dev.tells_countN (by decide)).trans Dev.tells_perf
  exact .ite (counted.trans Dev.tells_startWake) counted

theorem Dev.queue_enqueue {q i : Nat} {de : Desc} :
    (d.enqueue q i de).queue q i = d.queue q i ++ [{ de with no := d.buf.links }] :=
  Dev.tells_enqueue.toldQueue.trans (Map.get_set_same _ _ _ _)

/-- The mark of R263 changes the edits of a descriptor alone. -/
theorem Dev.ecnMark_desc {q i : Nat} {de : Desc} : ∃ x, (d.ecnMark q i de).2 = { de with edits := x } := by
  unfold Dev.ecnMark
  dsimp only
  split
  · exact ⟨_, rfl⟩
  · split
    · exact ⟨_, rfl⟩
    · split
      · exact ⟨_, rfl⟩
      · exact ⟨_, rfl⟩

theorem Dev.lineView_newChain {w : Nat} {c : Chain} : (d.newChain w c).1.lineView h = d.lineView h := by
  have peak {g : Dev} : g.notePeak.lineView h = g.lineView h := by
    unfold Dev.notePeak
    split
    · rfl
    · rfl
  exact Dev.tells_perf.line.trans peak

/-! ### The drain (R298) -/

/-- A frame that is drained is linked to the queue of its port once it has left its hold queue. -/
theorem Dev.drainTo_links {p : Nat} {f : Held} : ∃ (g : Dev) (de : Desc) (n : Nat), d.drainTo h p f =
      ((g.enqueue p (h % 8) de).count .HLD_T_DRAINED_FRAMES (h % 8)).perf (p / 32) 0x104 n 1 ∧
    (de.len = f.bytes.length ∧ de.drained = true ∧ de.cls = f.cls ∧ de.fab = f.fab) ∧
    g.lineView h = (((d.holdQ h).frames.drop 1, (d.holdQ h).chain), d.buf.queues, d.holdCtr.1) := by
  refine ⟨_, _, _, rfl, ?desc, ?line⟩
  case desc =>
    obtain ⟨x, hx⟩ := Dev.ecnMark_desc
    rw [hx]
    exact ⟨rfl, rfl, rfl, rfl⟩
  case line =>
    rw [Dev.tells_ecnMark.line, Dev.lineView_setHoldQ]
    exact congrArg (fun v => ((v.1.1.drop 1, v.1.2), v.2)) Dev.lineView_newChain

theorem Dev.drainTo_frames {p : Nat} {f : Held} : ((d.drainTo h p f).holdQ h).frames = (d.holdQ h).frames.drop 1 := by
  obtain ⟨g, de, n, drained, -, line⟩ := Dev.drainTo_links (d := d) (h := h) (p := p) (f := f)
  have counted {g : Dev} {q : Nat} : (g.count .HLD_T_DRAINED_FRAMES (h % 8)).holdQ q = g.holdQ q := rfl
  rw [drained, Dev.tells_perf.toldHoldQ, counted, Dev.tells_enqueue.toldHoldQ]
  exact congrArg (fun v => v.1.1) line

theorem Dev.drainTo_queue {p : Nat} {f : Held} : ∃ de, (d.drainTo h p f).queue p (h % 8) = d.queue p (h % 8) ++ [de] ∧
    de.len = f.bytes.length ∧ de.drained = true ∧ de.cls = f.cls ∧ de.fab = f.fab := by
  obtain ⟨g, de, n, drained, desc, line⟩ := Dev.drainTo_links (d := d) (h := h) (p := p) (f := f)
  have counted {g : Dev} {q i : Nat} : (g.count .HLD_T_DRAINED_FRAMES (h % 8)).queue q i = g.queue q i := rfl
  have queues : g.buf.queues = d.buf.queues := congrArg (fun v => v.2.1) line
  refine ⟨{ de with no := g.buf.links }, ?_, desc⟩
  rw [drained, Dev.tells_perf.toldQueue, counted, Dev.queue_enqueue, Dev.queue, queues, Dev.queue]

theorem Dev.drainTo_ctr {p : Nat} {f : Held} : (d.drainTo h p f).ctr .HLD_T_DRAINED_FRAMES (h % 8) =
    (d.ctr .HLD_T_DRAINED_FRAMES (h % 8) + 1) % 2 ^ 64 := by
  obtain ⟨g, de, n, drained, -, line⟩ := Dev.drainTo_links (d := d) (h := h) (p := p) (f := f)
  have linked : (g.enqueue p (h % 8) de).ctr .HLD_T_DRAINED_FRAMES (h % 8) = g.ctr .HLD_T_DRAINED_FRAMES (h % 8) :=
    Dev.lineView_ctr (h := h) Dev.tells_enqueue.line rfl
  have before : g.ctr .HLD_T_DRAINED_FRAMES (h % 8) = d.ctr .HLD_T_DRAINED_FRAMES (h % 8) :=
    congrFun (congrFun (congrArg (fun v => v.2.2) line) _) _
  rw [drained, Dev.lineView_ctr (h := h) Dev.tells_perf.line rfl, Dev.ctr_count_same, linked, before]
  rfl

end

section
variable {s : State} {h : Fin 3056} {reads : List RowRead} {badFree : Option (Fin 3056 × Fin 67108864)} {p : Nat} {f : Held}
  {rest : List Held}

/-- No frame of the head chain of queue `h` waits for the hold writer. -/
theorem Dev.unchained {d : Dev} {h t : Nat} (hq : ∀ de ∈ d.queue 133 t, de.headChain = true → de.holdQ ≠ some h) :
    (d.queue 133 t).any (fun de => de.headChain && de.holdQ == some h) = false := by
  rw [List.any_eq_false]
  intro de hde hboth
  obtain ⟨head, held⟩ := Bool.and_eq_true_iff.1 hboth
  exact hq de hde head (eq_of_beq held)

/-- The head frame of a queue that drains leaves it for its port or for its age. -/
def State.HeadDrains (s : State) (h : Fin 3056) (p : Nat) (f : Held) (rest : List Held) : Prop :=
  (s.dev.holdQ h).frames = f :: rest ∧ (s.dev.holdQ h).active = true ∧ (s.dev.holdQ h).chain = [] ∧ s.dev.holdRuns = true ∧
    s.dev.drainState h = true ∧ s.dev.drainPort h f = some p ∧
    ∀ de ∈ s.dev.queue 133 (h % 8), de.headChain = true → de.holdQ ≠ some h.val

theorem exec_holdDrain_head (hd : s.HeadDrains h p f rest) : exec (.holdDrain h reads badFree) s = .next (s.on (
    if s.dev.clsMaxAge (h % 8) ≠ 0 ∧ s.dev.clsMaxAge (h % 8) * 1000 < s.dev.opMs - f.opMs then
      (((((s.dev.setHoldQ h { s.dev.holdQ h with frames := rest }).count .HLD_T_AGE_DISCARD (h % 8)).claim badFree).recordCounted
        .HOLD_AGE_DISCARD (h % 8) tSec 0 0 (fun n => [(1, h % 8), (4, n)])).trimPages h).holdSettle h
    else if !s.dev.drainRoom h p f then s.dev
    else if (Dev.readRows f (s.dev.rowsOnDies h f) reads s.dev).2 then
      ((((Dev.readRows f (s.dev.rowsOnDies h f) reads s.dev).1.drainTo h p f).claim badFree).trimPages h).holdSettle h
    else (Dev.readRows f (s.dev.rowsOnDies h f) reads s.dev).1)) := by
  obtain ⟨hframes, hactive, hchain, hruns, hstate, hport, hqueue⟩ := hd
  have goes : ¬(!(s.dev.holdQ h).active ∨ !s.dev.holdRuns ∨ !s.dev.drainState h ∨
      (s.dev.queue 133 (h % 8)).any (fun de => de.headChain && de.holdQ == some h.val) ∨ !(s.dev.holdQ h).chain.isEmpty) := by
    simp [hactive, hruns, hstate, Dev.unchained hqueue, hchain]
  simp only [exec_holdDrain, execHoldDrain, State.run_eq, hframes, hport, if_neg goes]
  rfl

theorem completes_holdDrain_sent (hd : s.HeadDrains h p f rest)
    (hage : s.dev.clsMaxAge (h % 8) = 0 ∨ s.dev.opMs - f.opMs ≤ s.dev.clsMaxAge (h % 8) * 1000)
    (hroom : s.dev.drainRoom h p f = true) (hread : (Dev.readRows f (s.dev.rowsOnDies h f) reads s.dev).2 = true) :
    Completes (.holdDrain h reads badFree) s fun t => (t.holdQ h).frames = rest ∧
      (∃ de, t.queue p (h % 8) = s.dev.queue p (h % 8) ++ [de] ∧ de.len = f.bytes.length ∧ de.drained = true ∧
        de.cls = f.cls ∧ de.fab = f.fab) ∧
      t.ctr .HLD_T_DRAINED_FRAMES (h % 8) = (s.dev.ctr .HLD_T_DRAINED_FRAMES (h % 8) + 1) % 2 ^ 64 := by
  have young : ¬(s.dev.clsMaxAge (h % 8) ≠ 0 ∧ s.dev.clsMaxAge (h % 8) * 1000 < s.dev.opMs - f.opMs) := by omega
  have room : ¬(!s.dev.drainRoom h p f) = true := by simp [hroom]
  have drained := exec_holdDrain_head (reads := reads) (badFree := badFree) hd
  rw [if_neg young, if_neg room, if_pos hread] at drained
  have served := Dev.line_of_served (h := h) (Dev.servedView_readRows _ _ _ hread)
  have settled {g : Dev} : (((g.claim badFree).trimPages h).holdSettle h).lineView h = g.lineView h :=
    (Dev.lineView_holdSettle.trans Dev.lineView_trimPages).trans Dev.lineView_claim
  refine completes_of_eq drained ⟨?frames, ?queue, ?ctr⟩
  case frames =>
    rw [Dev.lineView_frames settled, Dev.drainTo_frames, Dev.lineView_frames served, hd.1]
    rfl
  case queue =>
    obtain ⟨de, hqueue, desc⟩ := Dev.drainTo_queue (d := (Dev.readRows f (s.dev.rowsOnDies h f) reads s.dev).1) (h := h) (p := p)
      (f := f)
    exact ⟨de, by rw [Dev.lineView_queue settled, hqueue, Dev.lineView_queue served], desc⟩
  case ctr => rw [Dev.lineView_ctr settled rfl, Dev.drainTo_ctr, Dev.lineView_ctr served rfl]

theorem completes_holdDrain_aged (hd : s.HeadDrains h p f rest) (hage : s.dev.clsMaxAge (h % 8) ≠ 0)
    (hold : s.dev.clsMaxAge (h % 8) * 1000 < s.dev.opMs - f.opMs) :
    Completes (.holdDrain h reads badFree) s fun t => (t.holdQ h).frames = rest ∧ t.buf.queues = s.dev.buf.queues ∧
      t.ctr .HLD_T_AGE_DISCARD (h % 8) = (s.dev.ctr .HLD_T_AGE_DISCARD (h % 8) + 1) % 2 ^ 64 := by
  have drained := exec_holdDrain_head (reads := reads) (badFree := badFree) hd
  rw [if_pos ⟨hage, hold⟩] at drained
  have settled {g : Dev} : ((((g.claim badFree).recordCounted .HOLD_AGE_DISCARD (h % 8) tSec 0 0
      (fun n => [(1, h % 8), (4, n)])).trimPages h).holdSettle h).lineView h = g.lineView h :=
    ((Dev.lineView_holdSettle.trans Dev.lineView_trimPages).trans Dev.tells_recordCounted.line).trans Dev.lineView_claim
  have counted {g : Dev} : (g.count .HLD_T_AGE_DISCARD (h % 8)).holdQ h = g.holdQ h := rfl
  refine completes_of_eq drained ⟨?frames, ?queues, ?ctr⟩
  case frames =>
    rw [Dev.lineView_frames settled, counted]
    exact congrArg (fun v => v.1.1) Dev.lineView_setHoldQ
  case queues =>
    rw [Dev.lineView_queues settled]
    rfl
  case ctr =>
    rw [Dev.lineView_ctr settled rfl]
    exact Dev.ctr_count_same _ _ _

/-! ### Rows that are written (R294) -/

theorem Dev.Keeps.wornDue {d e : Dev} (k : d.Wears e) : e.hld.due = d.hld.due := (congrArg HldSt.due k.wornStore :)

theorem Dev.Keeps.wornQueues {d e : Dev} (k : d.Wears e) : e.hld.queues = d.hld.queues := (congrArg HldSt.queues k.wornStore :)

/-- The rows `l` are due. -/
def Dev.setDue (d : Dev) (l : List (Nat × Nat × Nat)) : Dev := { d with hld := { d.hld with due := l } }

theorem completes_holdRowWrite_due (x : Nat × Nat × Nat) {due : List (Nat × Nat × Nat)} (hruns : s.dev.holdRuns = true)
    (hdue : s.dev.hld.due = x :: due) :
    Completes .holdRowWrite s fun t => t.hld.due = due ∧ t.hld.queues = s.dev.hld.queues := by
  obtain ⟨q, page, row⟩ := x
  have runs : ¬(!s.dev.holdRuns) = true := by simp [hruns]
  have written : exec .holdRowWrite s = .next (s.on ((s.dev.setDue due).noteRowWrite page 0)) := by
    rw [exec_holdRowWrite, execHoldRowWrite, State.run_eq, if_neg runs]
    split
    · next hd =>
      cases hdue.symm.trans hd
      rfl
    · next hd => exact absurd (hdue.symm.trans hd) (List.cons_ne_nil _ _)
  exact completes_of_eq written ⟨Dev.wears_noteRowWrite.wornDue, Dev.wears_noteRowWrite.wornQueues⟩

/-- The row that follows a row of a page. -/
def OpenRow.next (r : OpenRow) (now : Nat) : Option OpenRow :=
  if r.row = 15 then none else some { r with row := r.row + 1, used := 0, starts := 0, since := now }

/-- Row `r` of a queue, or of its head chain, is closed. -/
def HoldQ.closeRow (x : HoldQ) (head : Bool) (r : Option OpenRow) : HoldQ :=
  if head then { x with chainRow := r } else { x with row := r }

theorem HoldQ.closeRow_row {x : HoldQ} {head : Bool} {r : Option OpenRow} :
    (if head then (x.closeRow head r).chainRow else (x.closeRow head r).row) = r := by
  cases head with
  | true => rfl
  | false => rfl

theorem completes_holdRowWrite_padded {q : Nat} {head : Bool} {r : OpenRow} (hruns : s.dev.holdRuns = true)
    (hdue : s.dev.hld.due = []) (hfull : 1024 < s.dev.rowBuffers + 5) (hrow : s.dev.oldestRow = some (q, head, r)) :
    Completes .holdRowWrite s fun t =>
      (if head then (t.holdQ q).chainRow else (t.holdQ q).row) = r.next s.dev.now ∧
      t.ctr .HLD_ROWS_PADDED 0 = (s.dev.ctr .HLD_ROWS_PADDED 0 + 1) % 2 ^ 64 := by
  have runs : ¬(!s.dev.holdRuns) = true := by simp [hruns]
  have written : exec .holdRowWrite s = .next (s.on (((s.dev.setHoldQ q ((s.dev.holdQ q).closeRow head (r.next s.dev.now))).count
      .HLD_ROWS_PADDED 0).noteRowWrite r.page 0)) := by
    simp only [exec_holdRowWrite, execHoldRowWrite, State.run_eq, if_neg runs, hdue, if_neg (Nat.not_le.2 hfull), hrow]
    rfl
  have counted {g : Dev} : (g.count .HLD_ROWS_PADDED 0).holdQ q = g.holdQ q := rfl
  refine completes_of_eq written ⟨?row, ?ctr⟩
  case row =>
    rw [Dev.wears_noteRowWrite.wornHoldQ, counted, Dev.holdQ_setHoldQ, if_pos rfl]
    exact HoldQ.closeRow_row
  case ctr => exact (Dev.ctr_of_holdCtr Dev.wears_noteRowWrite.wornCtr (.inr rfl)).trans (Dev.ctr_count_same _ _ _)

end

end Sys2Proof.Machine
end

