-- ==== Sys2Proof/Proofs/HoldWriting.lean ====
section
/-! The hold writer (R293, R297, R299): a frame of port 133 is read, rewritten and stored at its place in a hold queue. -/

namespace Sys2Proof.Machine

/-! ### Cells that are read (R276, R277) -/

/-- The fields of a corrected word beside those that are told. -/
def eccFields : List Nat :=
  [Field.BUF_LAST_ECC_KIND.id, Field.BUF_LAST_ECC_MEMORY.id, Field.BUF_LAST_ECC_BANK.id, Field.BUF_LAST_ECC_WORD.id] ++ tellFields

/-- Devices have at most told, or read cells of the buffer, from one to the other. -/
abbrev Dev.Reads (d e : Dev) : Prop := d.Keeps eccFields Dev.heldView e

section
variable {d e : Dev} {h : Nat}

theorem Dev.Keeps.reads (k : d.Tells e) : d.Reads e := k.mono (List.subset_append_right _ _) id

theorem Dev.Keeps.readLine (k : d.Reads e) : e.lineView h = d.lineView h :=
  congrArg (fun v : StoreView => (((Map.get HoldQ.reset v.1.queues h).frames, (Map.get HoldQ.reset v.1.queues h).chain),
    v.2.1, v.2.2.1.1)) k.view

theorem Dev.Keeps.readStore (k : d.Reads e) : e.hld = d.hld := congrArg (fun v => v.1) k.view

theorem Dev.Keeps.readOpMs (k : d.Reads e) : e.opMs = d.opMs :=
  congrArg (fun v : StoreView => v.2.2.2.2 + v.2.2.2.1 / tMs) k.view

theorem Dev.reads_eccCorrected {l : List (Fin 4 × Fin 64 × Fin 65536)} : d.Reads (d.eccCorrected l) := by
  have set {g : Dev} {f : Field} {v : Nat} (hf : f.id ∈ eccFields) : g.Reads (g.set0 f v) := Dev.keeps_setFld hf rfl
  have noted {g : Dev} {kind bank word : Nat} : g.Reads (g.noteEcc kind bank word) :=
    (((set (by decide)).trans (set (by decide))).trans (set (by decide))).trans (set (by decide))
  exact .foldl (fun g _ => ((Dev.tells_countN (by decide)).reads.trans noted).trans (set (by decide))) _ _

/-- The cells of a copy are read. -/
def Dev.cellsRead (d : Dev) (c : Chain) (rd : CellRead) : Dev := (d.eccCorrected rd.corrected).readTraffic c.cells rd

theorem Dev.reads_cellsRead {c : Chain} {rd : CellRead} : d.Reads (d.cellsRead c rd) :=
  Dev.reads_eccCorrected.trans (Dev.tells_perf.trans Dev.tells_perf).reads

theorem Dev.readCells_good {p : Nat} {de : Desc} {c : Chain} {rd : CellRead} (hmark : c.marked = none) (hbad : rd.bad = none)
    (hcorrupt : rd.corrupt = false) : d.readCells p de c rd = (d.cellsRead c rd, true) := by
  simp [Dev.readCells, hmark, hbad, hcorrupt, Dev.cellsRead]

/-! ### The place of a frame (R293, R294) -/

/-- The open row that the next frame of a queue, or of its head chain, goes to. -/
def Dev.frameRow (d : Dev) (h : Nat) (head : Bool) : Option OpenRow := if head then (d.holdQ h).chainRow else (d.holdQ h).row

/-- The page and the offset of the next frame, of `len` bytes. -/
def Dev.framePlace (d : Dev) (h : Nat) (head : Bool) (len : Nat) : Dev × Option (Nat × Nat) :=
  match placeAt (d.frameRow h head) len d.opMs, d.frameRow h head with
  | some off, some r => (d, some (r.page, off))
  | _, _ => ((d.takePage h).1, (d.takePage h).2.map (fun p => (p, 0)))

theorem Dev.framePlace_found {head : Bool} {len : Nat} (hring : d.hld.ring.alloc.isSome = true) :
    (d.framePlace h head len).2.isSome = true ∧ (d.framePlace h head len).1.lineView h = d.lineView h := by
  obtain ⟨⟨p, r⟩, hr⟩ := Option.isSome_iff_exists.1 hring
  have taken : d.takePage h = (d.setRing r, some p) := by simp only [Dev.takePage, hr]
  unfold Dev.framePlace
  split
  · exact ⟨rfl, rfl⟩
  · rw [taken]
    exact ⟨rfl, rfl⟩

/-- A frame at the tail of a queue's frames, or of its head chain. -/
def HoldQ.withFrame (x : HoldQ) (head : Bool) (f : Held) : List Held × List Held :=
  (if head then x.frames else x.frames ++ [f], if head then x.chain ++ [f] else x.chain)

theorem Dev.lineView_withFrame (k : e.lineView h = d.lineView h) {head : Bool} {f : Held} :
    ((e.holdQ h).withFrame head f, e.buf.queues, e.holdCtr.1) = ((d.holdQ h).withFrame head f, d.buf.queues, d.holdCtr.1) :=
  congrArg (fun v : LineView => ((if head then v.1.1 else v.1.1 ++ [f], if head then v.1.2 ++ [f] else v.1.2), v.2)) k

theorem Dev.storeFrame_found {head : Bool} {f0 : Held} (hplace : (d.framePlace h head f0.bytes.length).2.isSome = true) :
    ∃ y due page off, d.storeFrame h head f0 = (((d.framePlace h head f0.bytes.length).1.setHoldQ h y).setDue due, true) ∧
      (y.frames, y.chain) = ((d.framePlace h head f0.bytes.length).1.holdQ h).withFrame head
        { f0 with opMs := d.opMs, page := page, off := off } := by
  unfold Dev.storeFrame
  dsimp only
  split
  · next hnone => exact absurd hplace (by rw [show (d.framePlace h head f0.bytes.length).2 = none from hnone]; decide)
  · next page off _ =>
    refine ⟨_, _, page, off, rfl, ?_⟩
    cases head with
    | true => rfl
    | false => rfl

/-- The frame stored has the bytes, the class and the fabric header that it came with, and its time. -/
theorem Dev.storeFrame_line {head : Bool} {f0 : Held} (hring : d.hld.ring.alloc.isSome = true) : ∃ f g,
    (f.bytes = f0.bytes ∧ f.opMs = d.opMs ∧ f.cls = f0.cls ∧ f.fab = f0.fab) ∧ d.storeFrame h head f0 = (g, true) ∧
      g.lineView h = ((d.holdQ h).withFrame head f, d.buf.queues, d.holdCtr.1) := by
  obtain ⟨place, line⟩ := Dev.framePlace_found (h := h) (head := head) (len := f0.bytes.length) hring
  obtain ⟨y, due, page, off, stored, hy⟩ := Dev.storeFrame_found place
  refine ⟨{ f0 with opMs := d.opMs, page := page, off := off }, _, ⟨rfl, rfl, rfl, rfl⟩, stored, ?_⟩
  have due {g : Dev} : (g.setDue due).lineView h = g.lineView h := rfl
  rw [due, Dev.lineView_setHoldQ, hy]
  exact Dev.lineView_withFrame line

/-! ### The frame that the hold writer takes (R297) -/

theorem fcsOf_length {b : Bytes} : (fcsOf b).length = 4 := leBytes_length _ _

/-- What the editor makes of a frame for port `p`, padded, without its FCS. -/
def Dev.heldBytes (d : Dev) (p : Nat) (c : Chain) (de : Desc) : Bytes :=
  padded (applyEdits c.body de.edits (d.f0 .ACT_TPID) (d.macSa p)).1

theorem Dev.Keeps.heldBytes (k : d.Reads e) {p : Nat} {c : Chain} {de : Desc} : e.heldBytes p c de = d.heldBytes p c de := by
  rw [Dev.heldBytes, Dev.heldBytes, Dev.macSa, Dev.macSa, k.f0 (by decide), k.f1 (by decide), k.f1 (by decide)]

theorem Dev.edited_whole {n p : Nat} {c : Chain} {de : Desc} (ht : de.trunc = 0) : d.edited n p c de =
    (d.countN .ACT_EDIT_SKIPPED n (applyEdits c.body de.edits (d.f0 .ACT_TPID) (d.macSa p)).2,
      (applyEdits c.body de.edits (d.f0 .ACT_TPID) (d.macSa p)).1) := by
  simp [Dev.edited, Desc.truncates, ht]

/-- A frame for port `p` is rewritten for hold queue `h`: edits that are skipped count, and the padding of a short frame. -/
def Dev.rewriteHeld (d : Dev) (h p : Nat) (c : Chain) (de : Desc) : Dev :=
  let r := applyEdits c.body de.edits (d.f0 .ACT_TPID) (d.macSa p)
  if r.1.length < 60 ∧ h < 1024 then (d.countN .ACT_EDIT_SKIPPED c.region r.2).macCount .MAC_TX_PADDED p
  else d.countN .ACT_EDIT_SKIPPED c.region r.2

theorem Dev.tells_rewriteHeld {p : Nat} {c : Chain} {de : Desc} : d.Tells (d.rewriteHeld h p c de) :=
  have counted {n : Nat} : d.Tells (d.countN .ACT_EDIT_SKIPPED c.region n) := Dev.tells_countN (by decide)
  .ite (counted.trans (Dev.tells_macCountN rfl)) counted

section
variable {de : Desc} {c : Chain} {rd : CellRead}

/-- A frame that its reads find good, for a port in use, is rewritten and stored unless it has become too long. -/
theorem Dev.holdWrite_read (hmark : c.marked = none) (hbad : rd.bad = none) (hcorrupt : rd.corrupt = false) (ht : de.trunc = 0)
    (hused : h < 1024 → (d.cellsRead c rd).portUsed (d.holdPort h de.fab) = true) : ∃ f : Held,
      (f.bytes = (d.cellsRead c rd).heldBytes (d.holdPort h de.fab) c de ++
        fcsOf ((d.cellsRead c rd).heldBytes (d.holdPort h de.fab) c de) ∧ f.cls = de.cls ∧ f.fab = de.fab) ∧
      d.holdWrite de h c rd =
        let e := (d.cellsRead c rd).rewriteHeld h (d.holdPort h de.fab) c de
        if h < 1024 ∧ e.f1 .MAC_MAX_FRAME (d.holdPort h de.fab) < f.bytes.length then
          e.macCount .MAC_TX_OVERSIZE_DROP (d.holdPort h de.fab)
        else if (e.storeFrame h de.headChain f).2 then
          ((e.storeFrame h de.headChain f).1.count .HLD_T_HELD_FRAMES (h % 8)).countN .HLD_T_HELD_BYTES (h % 8) f.bytes.length
        else (e.storeFrame h de.headChain f).1.count .HLD_T_FULL_DROP (h % 8) := by
  have used : ¬(h < 1024 ∧ (!(d.cellsRead c rd).portUsed (d.holdPort h de.fab)) = true) := by
    rintro ⟨hlow, hno⟩
    simp [hused hlow] at hno
  let b := (d.cellsRead c rd).heldBytes (d.holdPort h de.fab) c de
  let ip := (editState c.body de.edits (d.f0 .ACT_TPID) (d.macSa (d.holdPort h de.fab))).ip
  refine ⟨⟨b ++ fcsOf b, 0, 0, 0, de.cls, de.fab, ip, de.edits.ipv6⟩, ⟨rfl, rfl, rfl⟩, ?_⟩
  unfold Dev.holdWrite
  dsimp only
  rw [Dev.readCells_good hmark hbad hcorrupt, if_neg (by simp), if_neg used, Dev.edited_whole ht]
  rfl

theorem Dev.holdWrite_stores (hmark : c.marked = none) (hbad : rd.bad = none) (hcorrupt : rd.corrupt = false) (ht : de.trunc = 0)
    (hport : h < 1024 → d.portUsed (h / 8) = true ∧
      (d.heldBytes (d.holdPort h de.fab) c de).length + 4 ≤ d.f1 .MAC_MAX_FRAME (h / 8))
    (hring : d.hld.ring.alloc.isSome = true) : ∃ (f : Held) (g : Dev) (n : Nat),
      (f.bytes = d.heldBytes (d.holdPort h de.fab) c de ++ fcsOf (d.heldBytes (d.holdPort h de.fab) c de) ∧ f.opMs = d.opMs ∧
        f.cls = de.cls ∧ f.fab = de.fab) ∧
      d.holdWrite de h c rd = (g.count .HLD_T_HELD_FRAMES (h % 8)).countN .HLD_T_HELD_BYTES (h % 8) n ∧
      g.lineView h = ((d.holdQ h).withFrame de.headChain f, d.buf.queues, d.holdCtr.1) := by
  have own (hlow : h < 1024) : d.holdPort h de.fab = h / 8 := if_pos hlow
  have read : d.Reads (d.cellsRead c rd) := Dev.reads_cellsRead
  have used : h < 1024 → (d.cellsRead c rd).portUsed (d.holdPort h de.fab) = true := fun hlow => by
    rw [own hlow, Dev.portUsed, Dev.portMode, read.f1 (by decide)]
    exact (hport hlow).1
  obtain ⟨f0, ⟨bytes, cls, fab⟩, written⟩ := Dev.holdWrite_read hmark hbad hcorrupt ht used
  rw [read.heldBytes] at bytes
  have rewritten : d.Reads ((d.cellsRead c rd).rewriteHeld h (d.holdPort h de.fab) c de) := read.trans Dev.tells_rewriteHeld.reads
  have fits : ¬(h < 1024 ∧ ((d.cellsRead c rd).rewriteHeld h (d.holdPort h de.fab) c de).f1 .MAC_MAX_FRAME
      (d.holdPort h de.fab) < f0.bytes.length) := by
    rintro ⟨hlow, hlong⟩
    rw [rewritten.f1 (by decide), bytes, List.length_append, fcsOf_length] at hlong
    have short := (hport hlow).2
    rw [own hlow] at hlong short
    omega
  obtain ⟨f, g, ⟨fbytes, fms, fcls, ffab⟩, stored, line⟩ := Dev.storeFrame_line (h := h) (head := de.headChain) (f0 := f0)
    (d := (d.cellsRead c rd).rewriteHeld h (d.holdPort h de.fab) c de) (by rw [rewritten.readStore, hring])
  refine ⟨f, g, f0.bytes.length, ⟨fbytes.trans bytes, fms.trans rewritten.readOpMs, fcls.trans cls, ffab.trans fab⟩, ?_, ?_⟩
  · rw [written]
    dsimp only
    rw [if_neg fits, stored]
    rfl
  · exact line.trans (Dev.lineView_withFrame rewritten.readLine)

end

/-! ### The head chain (R299) -/

/-- More frames of the head chain of queue `h` wait for the hold writer. -/
def Dev.chainMore (d : Dev) (h : Nat) : Bool := (d.queue 133 (h % 8)).any (fun de => de.headChain && de.holdQ == some h)

theorem Dev.linkChain_line : (d.linkChain h).lineView h =
    (if (d.holdQ h).chain.isEmpty ∨ d.chainMore h then ((d.holdQ h).frames, (d.holdQ h).chain)
      else ((d.holdQ h).chain ++ (d.holdQ h).frames, []), d.buf.queues, d.holdCtr.1) := by
  unfold Dev.linkChain
  dsimp only
  split
  · next more => exact congrArg (fun x => (x, d.buf.queues, d.holdCtr.1)) (if_pos more).symm
  · next done =>
    exact Dev.lineView_setHoldQ.trans (congrArg (fun x => (x, d.buf.queues, d.holdCtr.1)) (if_neg done).symm)

theorem Dev.linkChain_queue {q i : Nat} : (d.linkChain h).queue q i = d.queue q i :=
  congrArg (fun v : LineView => Map.get [] v.2.1 (k2 q i)) Dev.linkChain_line

theorem Dev.linkChain_ctr {n i : Nat} : (d.linkChain h).ctr ⟨.HLD_TCNT, n⟩ i = d.ctr ⟨.HLD_TCNT, n⟩ i :=
  congrFun (congrFun (congrArg (fun v : LineView => v.2.2) Dev.linkChain_line) n) i

/-- The head chain goes on while more of it waits, and is ahead of the queue's frames otherwise. -/
theorem Dev.linkChain_frames : if d.chainMore h then ((d.linkChain h).holdQ h).chain = (d.holdQ h).chain ∧
      ((d.linkChain h).holdQ h).frames = (d.holdQ h).frames
    else ((d.linkChain h).holdQ h).chain = [] ∧ ((d.linkChain h).holdQ h).frames = (d.holdQ h).chain ++ (d.holdQ h).frames := by
  have frames := congrArg (fun v => v.1.1) (Dev.linkChain_line (d := d) (h := h))
  have chain := congrArg (fun v => v.1.2) (Dev.linkChain_line (d := d) (h := h))
  dsimp only [Dev.lineView] at frames chain
  rw [frames, chain]
  cases hmore : d.chainMore h with
  | true => simp
  | false =>
    cases hchain : (d.holdQ h).chain with
    | nil => simp
    | cons f l => simp

/-- The first frame of port 133 has left its queue for hold queue `h`. -/
def Dev.takenToHold (d : Dev) (de : Desc) (h : Nat) : Dev :=
  (d.setQueue 133 de.tc ((d.queue 133 de.tc).drop 1)).setHoldQ h { d.holdQ h with pending := (d.holdQ h).pending - 1 }

theorem Dev.takenToHold_withFrame {de : Desc} {head : Bool} {f : Held} :
    ((d.takenToHold de h).holdQ h).withFrame head f = (d.holdQ h).withFrame head f := by
  have taken : (d.takenToHold de h).holdQ h = { d.holdQ h with pending := (d.holdQ h).pending - 1 } := Map.get_set_same _ _ _ _
  rw [taken]
  rfl

theorem Dev.takenToHold_queue {de : Desc} : (d.takenToHold de h).queue 133 de.tc = (d.queue 133 de.tc).drop 1 :=
  Dev.queue_setQueue_same

end

theorem completes_holdWrite {rd : CellRead} {de : Desc} {h : Nat} {c : Chain} {b : Bytes} {s : State}
    (hruns : s.dev.holdRuns = true) (hroom : s.dev.rowBuffers + 5 ≤ 1024) (hnext : s.dev.holdNext = some de)
    (hq : de.holdQ = some h) (hchain : s.dev.chain de.chain = some c) (htc : de.tc = h % 8) (hmark : c.marked = none)
    (hbad : rd.bad = none) (hcorrupt : rd.corrupt = false) (ht : de.trunc = 0)
    (hb : b = s.dev.heldBytes (s.dev.holdPort h de.fab) c de)
    (hport : h < 1024 → s.dev.portUsed (h / 8) = true ∧ b.length + 4 ≤ s.dev.f1 .MAC_MAX_FRAME (h / 8))
    (hring : s.dev.hld.ring.alloc.isSome = true) :
    Completes (.holdWrite rd) s fun t =>
      (∃ f : Held, f.bytes = b ++ fcsOf b ∧ f.opMs = s.dev.opMs ∧ f.cls = de.cls ∧ f.fab = de.fab ∧
        let x := (s.dev.holdQ h).withFrame de.headChain f
        if ((s.dev.queue 133 (h % 8)).drop 1).any (fun e => e.headChain && e.holdQ == some h) then
          (t.holdQ h).chain = x.2 ∧ (t.holdQ h).frames = x.1
        else (t.holdQ h).chain = [] ∧ (t.holdQ h).frames = x.2 ++ x.1) ∧
      t.queue 133 de.tc = (s.dev.queue 133 de.tc).drop 1 ∧
      t.ctr .HLD_T_HELD_FRAMES (h % 8) = (s.dev.ctr .HLD_T_HELD_FRAMES (h % 8) + 1) % 2 ^ 64 := by
  have goes : ¬(!s.dev.holdRuns ∨ 1024 < s.dev.rowBuffers + 5) := by
    rw [hruns]
    simpa using hroom
  have taken : exec (.holdWrite rd) s = .next (s.on (((((s.dev.takenToHold de h).holdWrite de h c rd).linkChain h).giveBack
      de.chain 133 rd).holdSettle h)) := by
    simp only [exec_holdWrite, execHoldWrite, State.run_eq, if_neg goes, hnext, hq, hchain]
    rfl
  obtain ⟨f, g, n, ⟨bytes, opMs, cls, fab⟩, written, line⟩ := Dev.holdWrite_stores (d := s.dev.takenToHold de h) (h := h)
    hmark hbad hcorrupt ht (fun hlow => hb ▸ hport hlow) hring
  rw [Dev.takenToHold_withFrame] at line
  have queueOf : ((s.dev.takenToHold de h).holdWrite de h c rd).holdQ h = g.holdQ h := by rw [written]; rfl
  have stored : ((g.holdQ h).frames, (g.holdQ h).chain) = (s.dev.holdQ h).withFrame de.headChain f := congrArg Prod.fst line
  have queue : ((s.dev.takenToHold de h).holdWrite de h c rd).queue 133 (h % 8) = (s.dev.queue 133 (h % 8)).drop 1 := by
    have queues : g.buf.queues = (s.dev.takenToHold de h).buf.queues := congrArg (fun v => v.2.1) line
    have counted : ((g.count .HLD_T_HELD_FRAMES (h % 8)).countN .HLD_T_HELD_BYTES (h % 8) n).queue 133 (h % 8) =
      g.queue 133 (h % 8) := rfl
    rw [written, counted, Dev.queue, queues, ← Dev.queue, ← htc, Dev.takenToHold_queue]
  have settled {e : Dev} : ((e.giveBack de.chain 133 rd).holdSettle h).lineView h = e.lineView h :=
    Dev.lineView_holdSettle.trans Dev.tells_giveBack.line
  refine completes_of_eq taken ⟨⟨f, hb ▸ bytes, opMs, cls, fab, ?frames⟩, ?queue, ?ctr⟩
  case frames =>
    have linked := Dev.linkChain_frames (d := (s.dev.takenToHold de h).holdWrite de h c rd) (h := h)
    rw [Dev.chainMore, queue, queueOf, ← Dev.lineView_frames settled, ← Dev.lineView_chain settled] at linked
    rw [← stored]
    exact linked
  case queue => rw [Dev.lineView_queue settled, htc, Dev.linkChain_queue, queue]
  case ctr =>
    have before : g.ctr .HLD_T_HELD_FRAMES (h % 8) = s.dev.ctr .HLD_T_HELD_FRAMES (h % 8) :=
      congrFun (congrFun (congrArg (fun v => v.2.2) line) _) _
    rw [Dev.lineView_ctr settled rfl]
    refine Dev.linkChain_ctr.trans ?_
    rw [written]
    refine (Dev.ctr_countN_ne (by decide)).trans ((Dev.ctr_count_same _ _ _).trans ?_)
    rw [before]
    rfl

/-- Settles O42: reads of the dies that leave the store in service change neither its queues nor those of the buffer
(`Dev.servedView_readRows`), and a queue that settles or gives up pages keeps its frames (`Dev.lineView_holdSettle`,
`Dev.lineView_trimPages`). -/
theorem holdingAndDraining : Obligations.HoldingAndDraining := by
  unfold Obligations.HoldingAndDraining
  refine ⟨?write, ?due, ?padded, ?sent, ?aged⟩
  case write =>
    exact fun _ _ _ _ _ _ hruns hroom hnext hq hchain htc hmark hbad hcorrupt ht hb hport hring =>
      completes_holdWrite hruns hroom hnext hq hchain htc hmark hbad hcorrupt ht hb hport hring
  case due => exact fun x _ _ hruns hdue => completes_holdRowWrite_due x hruns hdue
  case padded => exact fun _ _ _ _ hruns hdue hfull hrow => completes_holdRowWrite_padded hruns hdue hfull hrow
  case sent =>
    exact fun _ _ _ _ _ _ _ hframes hactive hchain hruns hstate hport hqueue hage hroom hread =>
      completes_holdDrain_sent ⟨hframes, hactive, hchain, hruns, hstate, hport, hqueue⟩ hage hroom hread
  case aged =>
    exact fun _ _ _ _ _ _ _ hframes hactive hchain hruns hstate hport hqueue hage hold =>
      completes_holdDrain_aged ⟨hframes, hactive, hchain, hruns, hstate, hport, hqueue⟩ hage hold

end Sys2Proof.Machine
end

