-- ==== Sys2Proof/Proofs/MessageCounters.lean ====
section
/-! Counters that reports, messages and a cause of AUTUMN leave alone: all but those of the recorder, the MACs, the buffer and the
mailboxes (R501). -/

namespace Sys2Proof.Machine

section
variable {d e : Dev}

/-! ### Counters that count (R501) -/

/-- Only counters of the blocks `bs` may have counted from one device to the other. -/
def Dev.CountsOnly (bs : List CtrBlock) (d e : Dev) : Prop := ∀ (c : Ctr) (i : Nat), c.block ∉ bs → e.ctr c i = d.ctr c i

namespace Dev.CountsOnly

variable {bs : List CtrBlock} {d e g : Dev}

theorem of_ctrs (h : e.ctrs = d.ctrs) : d.CountsOnly bs e := fun c i _ => Dev.ctr_congr d e c i h

theorem refl (d : Dev) : d.CountsOnly bs d := of_ctrs rfl

theorem trans (h : d.CountsOnly bs e) (k : e.CountsOnly bs g) : d.CountsOnly bs g :=
  fun c i hc => (k c i hc).trans (h c i hc)

theorem ite {p : Prop} [Decidable p] (h : d.CountsOnly bs e) (k : d.CountsOnly bs g) : d.CountsOnly bs (if p then e else g) := by
  split
  · exact h
  · exact k

theorem foldl {τ : Type} {f : Dev → τ → Dev} (h : ∀ (e : Dev) x, e.CountsOnly bs (f e x)) (l : List τ) (d : Dev) :
    d.CountsOnly bs (l.foldl f d) := by
  induction l generalizing d with
  | nil => exact refl d
  | cons x l ih => exact (h d x).trans (ih _)

theorem countN {c : Ctr} {i n : Nat} (hc : c.block ∈ bs) : d.CountsOnly bs (d.countN c i n) :=
  fun _ _ hg => Dev.ctr_countN_ne (Ctr.ne_of_block (fun h => hg (h ▸ hc)))

theorem of_uncounted (h : d.Uncounted e) (hbs : .EVR_CNT ∈ bs) : d.CountsOnly bs e :=
  fun c i hc => h c i (fun hb => hc (hb ▸ hbs))

end Dev.CountsOnly

/-- The counters of messages and of a change of health: those of the recorder, the MACs, the buffer and the mailboxes. -/
def messageBlocks : List CtrBlock := [.EVR_CNT, .MAC_STAT, .BUF_CNT, .MBX_CNT]

abbrev Dev.CountsMessages (d e : Dev) : Prop := d.CountsOnly messageBlocks e

theorem Dev.countsMessages_doorbell {b : Nat} : d.CountsMessages (d.doorbell b) := .of_ctrs Dev.doorbell_ctrs

theorem Dev.countsMessages_record {c : EvCode} {k i : Nat} {p : Bytes} : d.CountsMessages (d.record c k i p) :=
  .of_uncounted Dev.uncounted_record (by decide)

theorem Dev.countsMessages_macCountN {c : Ctr} {p n : Nat} (hc : c.block = .MAC_STAT) : d.CountsMessages (d.macCountN c p n) := by
  have counted : d.CountsMessages (d.countN c p n) := .countN (by rw [hc]; decide)
  exact .ite (.refl d) (.ite (counted.trans (.of_ctrs Dev.raise_ctrs)) counted)

theorem Dev.countsMessages_setFld {f : Field} {i j v : Nat} : d.CountsMessages (d.setFld f i j v) := .of_ctrs rfl

theorem Dev.countsMessages_emit {o : Output} : d.CountsMessages (d.emit o) := .of_ctrs rfl

theorem Dev.countsMessages_mac {m : Map MacSt} : d.CountsMessages { d with mac := m } := .of_ctrs rfl

theorem Dev.countsMessages_buf {b : BufSt} : d.CountsMessages { d with buf := b } := .of_ctrs rfl

theorem Dev.countsMessages_pmc {x : PmcSt} : d.CountsMessages { d with pmc := x } := .of_ctrs rfl

theorem Dev.countsMessages_mbx {x : MbxSt} : d.CountsMessages { d with mbx := x } := .of_ctrs rfl

theorem Dev.countsMessages_fab {x : FabSt} : d.CountsMessages { d with fab := x } := .of_ctrs rfl

theorem Dev.countsMessages_pins {x : Pins} : d.CountsMessages { d with pins := x } := .of_ctrs rfl

/-! #### Frames that a port sends, and the references to their cells -/

theorem Dev.countsMessages_noteSent {p len kind : Nat} : d.CountsMessages (d.noteSent p len kind) := by
  unfold Dev.noteSent
  exact (((((Dev.countsMessages_macCountN rfl).trans (Dev.countsMessages_macCountN rfl)).trans
    (Dev.countsMessages_macCountN rfl)).trans (Dev.countsMessages_macCountN rfl)).trans Dev.countsMessages_pmc).trans
    Dev.countsMessages_mac

theorem Dev.countsMessages_sendPause {p c quanta : Nat} : d.CountsMessages (d.sendPause p c quanta) := by
  have sent {o : Output} : d.CountsMessages ((d.noteSent p 64 1).emit o) :=
    Dev.countsMessages_noteSent.trans Dev.countsMessages_emit
  exact .ite (.refl d) (.ite (sent.trans (.foldl (fun _ _ => .ite (Dev.countsMessages_macCountN rfl) (.refl _)) _ _))
    (.ite (sent.trans (Dev.countsMessages_macCountN rfl)) (.refl d)))

theorem Dev.countsMessages_checkXon {p c : Nat} : d.CountsMessages (d.checkXon p c) :=
  .ite ((Dev.countsMessages_setFld.trans Dev.countsMessages_mac).trans Dev.countsMessages_sendPause) (.refl d)

theorem Dev.countsMessages_freeRequest {id by_ : Nat} : d.CountsMessages (d.freeRequest id by_) := by
  unfold Dev.freeRequest
  split
  · exact .refl d
  · exact .ite (Dev.countsMessages_buf.trans Dev.countsMessages_checkXon)
      ((Dev.CountsOnly.countN (by decide)).trans Dev.countsMessages_record)

theorem Dev.countsMessages_release {id port : Nat} : d.CountsMessages (d.release id port) := by
  have dropped : d.CountsMessages (d.dropRef id port) := by
    unfold Dev.dropRef
    split
    · exact .refl d
    · exact .ite Dev.countsMessages_buf Dev.countsMessages_buf
  exact .ite (dropped.trans Dev.countsMessages_freeRequest) dropped

theorem Dev.countsMessages_startFrom {p fuel : Nat} : d.CountsMessages (Dev.startFrom p fuel d) := by
  induction fuel generalizing d with
  | zero => exact .refl d
  | succ n ih =>
    refine .ite (.refl d) ?_
    split
    · exact .refl d
    · split
      · exact .ite (((Dev.countsMessages_buf.trans (Dev.countsMessages_macCountN rfl)).trans Dev.countsMessages_release).trans
          ih) (Dev.countsMessages_buf.trans Dev.countsMessages_buf)
      · exact Dev.countsMessages_mac
      · exact .refl d

theorem Dev.countsMessages_sendMsg {p proto type len : Nat} {fields : List Nat} :
    d.CountsMessages (d.sendMsg p proto type len fields) := by
  have woken {g : Dev} : g.CountsMessages (g.startWake p) := .ite Dev.countsMessages_mac (.refl g)
  unfold Dev.sendMsg
  exact .ite ((Dev.countsMessages_mac.trans woken).trans Dev.countsMessages_startFrom) (.refl d)

/-! #### Messages for the host and the fabric, and AUTUMN (R397) -/

theorem Dev.countsMessages_notice {opcode : Nat} {payload : List Nat} : d.CountsMessages (d.notice opcode payload) := by
  have lost {g : Dev} {m dir seq : Nat} : g.CountsMessages (g.noteLost m dir seq) := by
    unfold Dev.noteLost
    exact Dev.countsMessages_mbx.trans Dev.countsMessages_doorbell
  have full {g : Dev} {m : Nat} : g.CountsMessages ((g.satInc .MBX_F2H_STATUS_LOST_COUNT m 0 1).count .MBX_F2H_LOST 0) :=
    Dev.countsMessages_setFld.trans (.countN (by decide))
  have posted {g : Dev} {m : Nat} {msg : Msg} : g.CountsMessages (g.f2hPost m msg) := by
    unfold Dev.f2hPost
    exact .ite (Dev.countsMessages_mbx.trans Dev.countsMessages_setFld) (full.trans lost)
  unfold Dev.notice
  exact Dev.countsMessages_mbx.trans posted

theorem Dev.countsMessages_floodNotice {code : Nat} : d.CountsMessages (d.floodNotice code) := by
  have told {g : Dev} {p type len : Nat} {fields : List Nat} : g.CountsMessages (g.fabControl p type len fields) := by
    unfold Dev.fabControl
    exact Dev.countsMessages_fab.trans Dev.countsMessages_sendMsg
  exact .foldl (fun g _ => .ite told (.refl g)) _ _

theorem Dev.countsMessages_enterAutumn {code : Nat} : d.CountsMessages (d.enterAutumn code) := by
  have told {x : Pins} {y : FabSt} : d.CountsMessages { d with pins := x, fab := y } := .of_ctrs rfl
  have health {g : Dev} {st c : Nat} : g.CountsMessages (g.setHealth st c) :=
    (((Dev.countsMessages_setFld.trans Dev.countsMessages_setFld).trans Dev.countsMessages_setFld).trans
      Dev.countsMessages_doorbell |>.trans Dev.countsMessages_notice).trans (.of_ctrs Dev.raise_ctrs)
  exact ((told.trans health).trans Dev.countsMessages_record).trans Dev.countsMessages_floodNotice

theorem Dev.countsMessages_autumn {f : Field} {code : EvCode} : d.CountsMessages (d.autumn f code) := by
  have caused : d.CountsMessages { (d.set0 f 1) with hlt := { d.hlt with lastCode := code.code } } := .of_ctrs rfl
  exact .ite (caused.trans Dev.countsMessages_enterAutumn) (.ite (caused.trans Dev.countsMessages_pins) caused)

/-! ### What AUTUMN leaves alone of the time unit -/

theorem Dev.Keeps.time (h : d.Quiet e) : e.tim = d.tim := congrArg (fun v => v.2.2.2.1) h.view

theorem Dev.autumn_tim {f : Field} {code : EvCode} : (d.autumn f code).tim = d.tim := by
  have entered {g : Dev} {n : Nat} : (g.enterAutumn n).tim = g.tim := by
    unfold Dev.enterAutumn
    rw [Dev.quiet_floodNotice.time, Dev.record_tim, Dev.setHealth_tim]
  unfold Dev.autumn
  dsimp only
  split
  · exact entered
  · split
    · rfl
    · rfl

end

end Sys2Proof.Machine
end

