-- ==== Sys2Proof/Proofs/TimeEntries.lean ====
section
/-! Entries of the time unit's tables, and companion registers latched by a read. -/

namespace Sys2Proof.Machine

section
variable {d : Dev}

/-! ### Entries of the time unit's tables -/

@[simp] theorem Dev.pulse_setPulse_same {k : Nat} {x : PulseSt} : (d.setPulse k x).pulse k = x := Map.get_set_same _ _ _ _

@[simp] theorem Dev.ptpSt_setPtp_same {p : Nat} {x : PtpPort} : (d.setPtp p x).ptpSt p = x := Map.get_set_same _ _ _ _

@[simp] theorem Dev.convBank_setConv_same {m : Nat} {b : ConvBank} : (d.setConv m b).convBank m = b := Map.get_set_same _ _ _ _

@[simp] theorem Dev.latched_latch_same {m i j v : Nat} {r : Reg} : (d.latch m r i j v).latched m r i j = v % 2 ^ 32 :=
  Map.get_set_same _ _ _ _

theorem Dev.latched_latch_ne {m i j v a b : Nat} {r q : Reg} (h : q.addr a b ≠ r.addr i j) :
    (d.latch m r i j v).latched m q a b = d.latched m q a b :=
  Map.get_set_other _ _ _ _ _ _ (fun hk => h (Nat.pair_eq_pair.1 hk).2)

theorem Reg.addr_ne {i : Nat} {q r : Reg} (hstride : q.desc.s1 = r.desc.s1) (hbase : q.desc.base ≠ r.desc.base) :
    q.addr i 0 ≠ r.addr i 0 := by
  rw [Reg.addr, Reg.addr, hstride]
  omega

/-- A companion pair: the low register keeps its latch when the high one is latched. -/
theorem Dev.latched_pair {m i v w : Nat} {lo hi : Reg} (hstride : lo.desc.s1 = hi.desc.s1)
    (hbase : lo.desc.base ≠ hi.desc.base) :
    ((d.latch m lo i 0 v).latch m hi i 0 w).latched m lo i 0 = v % 2 ^ 32 :=
  (Dev.latched_latch_ne (Reg.addr_ne hstride hbase)).trans Dev.latched_latch_same

end

end Sys2Proof.Machine
end

