-- ==== Sys2Proof/Proofs/EpochsAndTimeBus.lean ====
section
/-! Adjustments and epochs (R323 to R325), the time bus (R328, R329) and conversions (R321, R326). -/

namespace Sys2Proof.Machine

/-! ### An adjustment under another identifier (R323) -/

/-- The device at reset, but that slot 0 of its epoch table holds epoch 16 while epoch 0 is in force. -/
def misnamedEpoch : State :=
  State.reset.on { Dev.reset with tim := { TimSt.reset with epochs := [(0, some ⟨16, 0, 0, 0, 0, 0⟩)] } }

/-- A STEP there waits under the identifier that follows the table's entry. -/
theorem exec_timAdjStep_misnamedEpoch :
    ∃ t, exec (.timAdjStep 0) misnamedEpoch = .next t ∧ t.dev.tim.pending.map Epoch.id = some 17 :=
  ⟨_, rfl, by decide +kernel⟩

/-- Refutes O14: the statement speaks of every state, and in one whose epoch table names the epoch in force otherwise than CUR
does, an accepted STEP waits under the identifier after the table's and not after CUR. -/
theorem not_adjustmentsWait : ¬ Obligations.AdjustmentsWait := by
  unfold Obligations.AdjustmentsWait
  rintro ⟨-, hstep, -⟩
  obtain ⟨t, ht, -, e, ⟨hpending, -, hid, -⟩, -⟩ := hstep 0 misnamedEpoch
    ⟨⟨by decide, by decide, by decide, by decide⟩, by decide, by decide⟩
  obtain ⟨u, hu, h17⟩ := exec_timAdjStep_misnamedEpoch
  obtain rfl : t = u := Host.Outcome.next.inj (ht.symm.trans hu)
  rw [hpending, Option.map_some, hid] at h17
  exact absurd h17 (by decide)

section
variable {d e : Dev}

/-! ### Edges passed over (R343) -/

/-- What edges passed over leave alone: the time unit but for its pulse outputs, and the count of epochs. -/
def Dev.epochView (d : Dev) : TimSt × Nat := ({ d.tim with pulses := [] }, d.ctr .TIM_EPOCHS_OPENED 0)

/-- Edges have at most been missed and passed over from one device to the other. -/
abbrev Dev.PassesEdges (d e : Dev) : Prop := d.Keeps (Field.TIM_PULSE_STATUS_MISSED.id :: reportFields) Dev.epochView e

theorem Dev.Reports.passesEdges (h : d.Reports e) (hc : e.ctr .TIM_EPOCHS_OPENED 0 = d.ctr .TIM_EPOCHS_OPENED 0) :
    d.PassesEdges e :=
  h.keeps (List.subset_cons_self _ _) (by rw [Dev.epochView, h.tim, hc]; rfl)

theorem Dev.passesEdges_count {c : Ctr} {i : Nat} (hc : .TIM_EPOCHS_OPENED ≠ c) : d.PassesEdges (d.count c i) :=
  (Dev.reports_count d c i).passesEdges (Dev.ctr_count_ne hc)

theorem Dev.passesEdges_record {c : EvCode} {k i : Nat} {p : Bytes} : d.PassesEdges (d.record c k i p) :=
  (Dev.reports_record d c k i p).passesEdges (Dev.uncounted_record _ _ (by decide))

theorem Dev.passesEdges_missEdges {k n cause : Nat} : d.PassesEdges (d.missEdges k n cause) := by
  have counted : d.PassesEdges (d.countN .TIM_PULSE_MISSED 0 n) :=
    (Dev.reports_setCtr d .TIM_PULSE_MISSED 0 _).passesEdges (Dev.ctr_countN_ne (by decide))
  have shown {g : Dev} : g.PassesEdges (g.set1 .TIM_PULSE_STATUS_MISSED k 1) := Dev.keeps_setFld List.mem_cons_self rfl
  unfold Dev.missEdges
  exact .ite (.refl d) ((counted.trans shown).trans
    ((Dev.reports_recordLimited _ _ _ _ _ _ _).passesEdges (Dev.uncounted_recordLimited _ _ (by decide))))

theorem Dev.passesEdges_skipEdges {k n : Nat} : d.PassesEdges (d.skipEdges k n) := by
  have set {x : PulseSt} : d.PassesEdges (d.setPulse k x) := ⟨rfl, fun _ _ _ _ => rfl⟩
  exact .ite (.refl d) (.ite set set)

/-! ### The pending epoch opens (R323) -/

/-- Epoch `e` opens: it enters the table and is in force, and nothing is pending. -/
def Dev.openEpoch (d : Dev) (e : Epoch) : Dev :=
  (({ d with tim := { d.tim with
      epochs := Map.set none d.tim.epochs (e.id % 16) (some e), cur := e.id, pending := none, step := none } } : Dev).set0
    .TIM_ADJ_CMD_BUSY 0).count .TIM_EPOCHS_OPENED 0

/-- At F_s the pending epoch opens; its step may pass over edges. -/
theorem exec_epochSwitch_opens {x : Epoch} {s : State} (hpending : s.dev.tim.pending = some x)
    (hdue : x.frcStart ≤ s.dev.tim.frc) (hruns : s.dev.tim.stopped = false) (hzero : s.dev.tim.zeroDue = false) :
    ∃ t, exec .epochSwitch s = .next (s.on t) ∧ (s.dev.openEpoch x).PassesEdges t := by
  have goes : ¬(s.dev.tim.frc < x.frcStart ∨ s.dev.tim.stopped = true) := by simp [hdue, hruns]
  have settled : ¬s.dev.tim.zeroDue = true := by simp [hzero]
  refine ⟨_, exec_epochSwitch s, ?_⟩
  dsimp only
  rw [hpending]
  dsimp only
  rw [if_neg goes, if_neg settled]
  have stepped {m : Nat} {p : Bytes} :
      (s.dev.openEpoch x).PassesEdges (((s.dev.openEpoch x).count .TIM_STEPS 0).record .TIME_STEPPED 9 m p) :=
    (Dev.passesEdges_count (by decide)).trans Dev.passesEdges_record
  split
  · exact .refl _
  · exact .ite stepped (stepped.trans (.foldl (fun _ _ => Dev.passesEdges_missEdges.trans Dev.passesEdges_skipEdges) _ _))

theorem completes_epochSwitch {x : Epoch} {s : State} (hpending : s.dev.tim.pending = some x)
    (hdue : x.frcStart ≤ s.dev.tim.frc) (hruns : s.dev.tim.stopped = false) (hzero : s.dev.tim.zeroDue = false) :
    Completes .epochSwitch s fun t => t.tim.cur = x.id ∧ Map.get none t.tim.epochs (x.id % 16) = some x ∧
      t.tim.pending = none ∧ t.f0 .TIM_ADJ_CMD_BUSY = 0 ∧ t.tim.frc = s.dev.tim.frc ∧
      t.ctr .TIM_EPOCHS_OPENED 0 = (s.dev.ctr .TIM_EPOCHS_OPENED 0 + 1) % 2 ^ 64 := by
  obtain ⟨t, ht, passed⟩ := exec_epochSwitch_opens hpending hdue hruns hzero
  have tim : ({ t.tim with pulses := [] } : TimSt) = { (s.dev.openEpoch x).tim with pulses := [] } :=
    congrArg Prod.fst passed.view
  refine completes_of_eq ht
    ⟨(congrArg TimSt.cur tim :), ?table, (congrArg TimSt.pending tim :), ?busy, (congrArg TimSt.frc tim :), ?ctr⟩
  case table =>
    have epochs : t.tim.epochs = (s.dev.openEpoch x).tim.epochs := (congrArg TimSt.epochs tim :)
    rw [epochs]
    exact Map.get_set_same none s.dev.tim.epochs (x.id % 16) (some x)
  case busy =>
    rw [passed.f0 (by decide)]
    exact Dev.f0_set0_same _ .TIM_ADJ_CMD_BUSY 0
  case ctr => exact (congrArg Prod.snd passed.view).trans (Dev.ctr_count_same _ _ _)

/-! ### The time bus (R328, R329) -/

theorem completes_timeBusFullValue_good (n : Region) {s : State} (hruns : s.dev.tim.stopped = false) :
    Completes (.timeBusFullValue n true) s fun t => n.val ∉ t.tim.awaiting ∧ Map.get 0 t.tim.goodAt n = s.dev.tim.frc := by
  refine completes_of_run _ (exec_timeBusFullValue n true s) ?_
  simp [hruns]

/-- The errors of a lane die's time bus within the last second (R329). -/
def Dev.recentErrs (d : Dev) (n : Nat) : List Nat := (Map.get [] d.tim.busErrs n).filter (fun a => decide (d.now < a + tSec))

/-- A bad full value is counted, the die's captures since its last good one become invalid, and the die waits. -/
def Dev.busError (d : Dev) (n : Nat) : Dev :=
  let e := (d.count .TIM_TIME_BUS_ERR 0).invalidate n (Map.get 0 d.tim.goodAt n)
  { e with tim := { e.tim with
      busErrs := Map.set [] e.tim.busErrs n (d.now :: d.recentErrs n)
      awaiting := if n ∈ d.tim.awaiting then d.tim.awaiting else n :: d.tim.awaiting } }

theorem Dev.mem_busError_awaiting {n : Nat} : n ∈ (d.busError n).tim.awaiting := by
  show n ∈ if n ∈ d.tim.awaiting then d.tim.awaiting else n :: d.tim.awaiting
  split
  · assumption
  · exact List.mem_cons_self

theorem Dev.busError_ctr {n : Nat} : (d.busError n).ctr .TIM_TIME_BUS_ERR 0 = (d.ctr .TIM_TIME_BUS_ERR 0 + 1) % 2 ^ 64 :=
  Dev.ctr_count_same _ _ _

theorem Dev.busError_f0 {n : Nat} {f : Field} : (d.busError n).f0 f = d.f0 f := rfl

/-- The third error within a second is a fault, recorded, and a cause of AUTUMN (R329). -/
def Dev.busFault (d : Dev) (n : Nat) : Dev :=
  ((d.setBit .TIM_STATUS_BUS_FAULT 0 n true).record .TIME_BUS_FAULT 5 (1 + n) (payloadOf [(1, n)])).autumn
    .HLT_AUTUMN_CAUSE_TIME_BUS .TIME_BUS_FAULT

theorem Dev.busFault_tim {n : Nat} : (d.busFault n).tim = d.tim := by
  rw [Dev.busFault, Dev.autumn_tim, Dev.record_tim, Dev.setBit_tim]

theorem Dev.busFault_ctr {n : Nat} {c : Ctr} {i : Nat} (hc : c.block = .TIM_CNT) : (d.busFault n).ctr c i = d.ctr c i :=
  (Dev.countsMessages_record.trans Dev.countsMessages_autumn) c i (by rw [hc]; decide)

theorem Dev.busFault_bit {n : Nat} (hn : n < 4) : bitOf ((d.busFault n).f0 .TIM_STATUS_BUS_FAULT) n = true := by
  rw [Dev.busFault, Dev.keeps_autumn.f0 (by decide), Dev.record_f0 (by decide), Dev.f0, Dev.setBit, Dev.fld_setFld_same]
  exact bitOf_putBit_mod hn

theorem Dev.stamps_of_awaiting {n : Nat} (h : n ∈ d.tim.awaiting) : d.stamps n = false := by
  simp [Dev.stamps, h]

theorem exec_timeBusFullValue_bad (n : Region) {s : State} (hruns : s.dev.tim.stopped = false) :
    exec (.timeBusFullValue n false) s = .next (s.on
      (if 2 ≤ (s.dev.recentErrs n).length ∧ bitOf (s.dev.f0 .TIM_STATUS_BUS_FAULT) n = false
        then (s.dev.busError n).busFault n else s.dev.busError n)) := by
  rw [exec_timeBusFullValue, execTimeBusFullValue, State.run_eq, hruns]
  simp only [Bool.false_eq_true, if_false, List.length_cons, Nat.succ_le_succ_iff, Bool.not_eq_true']
  rfl

theorem completes_timeBusFullValue_bad (n : Region) {s : State} (hruns : s.dev.tim.stopped = false) :
    Completes (.timeBusFullValue n false) s fun t => n.val ∈ t.tim.awaiting ∧ t.stamps n = false ∧
      t.ctr .TIM_TIME_BUS_ERR 0 = (s.dev.ctr .TIM_TIME_BUS_ERR 0 + 1) % 2 ^ 64 ∧
      (2 ≤ ((Map.get [] s.dev.tim.busErrs n).filter (fun a => decide (s.dev.now < a + tSec))).length →
        bitOf (t.f0 .TIM_STATUS_BUS_FAULT) n = true) := by
  refine completes_of_eq (exec_timeBusFullValue_bad n hruns) ?_
  split
  case isTrue h =>
    have waits : n.val ∈ ((s.dev.busError n).busFault n).tim.awaiting := by
      rw [Dev.busFault_tim]
      exact Dev.mem_busError_awaiting
    exact ⟨waits, Dev.stamps_of_awaiting waits, (Dev.busFault_ctr rfl).trans Dev.busError_ctr,
      fun _ => Dev.busFault_bit n.isLt⟩
  case isFalse h =>
    refine ⟨Dev.mem_busError_awaiting, Dev.stamps_of_awaiting Dev.mem_busError_awaiting, Dev.busError_ctr, fun herrs => ?_⟩
    rw [Dev.busError_f0]
    exact Bool.not_eq_false _ ▸ fun hbit => h ⟨herrs, hbit⟩

/-! ### Conversions (R321, R326) -/

theorem Dev.convert_epochNow {id frc sub : Nat} {x : Epoch} (hx : Map.get none d.tim.epochs (id % 16) = some x) (hid : x.id = id)
    (hcur : d.tim.cur = id) (hfrc : x.frcStart ≤ frc) :
    d.convert id frc sub = some (ptpSplit (ptpUnits x (frc * 8 + sub))) := by
  have starts : ¬frc < x.frcStart := Nat.not_lt.2 hfrc
  rw [Dev.convert, hx]
  dsimp only
  cases Map.get none d.tim.epochs ((id + 1) % 16) with
  | none => simp [hid, starts]
  | some n => simp [hid, hcur, starts]

theorem completes_timConv (m : Master) (epoch : Fin 256) (sub : Fin 8) {x : Epoch} {s : State}
    (hopen : s.dev.Open m (Reg.TIM_CONV_CMD.addr 0 0)) (hx : Map.get none s.dev.tim.epochs (epoch.val % 16) = some x)
    (hid : x.id = epoch.val) (hcur : s.dev.tim.cur = epoch.val)
    (hfrc : x.frcStart ≤ (s.dev.convBank m).frcHi * 2 ^ 32 + (s.dev.convBank m).frcLo) :
    Completes (.timConv m epoch sub) s fun t =>
      let b := t.convBank m
      b.done = true ∧ b.expired = false ∧
        (b.sec, b.ns, b.frac) =
          ptpSplit (ptpUnits x (((s.dev.convBank m).frcHi * 2 ^ 32 + (s.dev.convBank m).frcLo) * 8 + sub)) := by
  refine completes_of_run _ (exec_timConv m epoch sub s) ?_
  dsimp only
  rw [Dev.onWrite_open _ _ _ _ _ _ hopen, Dev.convGo, Dev.convert_epochNow hx hid hcur hfrc]
  have bank {b : ConvBank} : ((s.dev.setConv m b).complete (.ok 0)).convBank m = b := Dev.convBank_setConv_same
  dsimp only
  rw [bank]
  exact ⟨rfl, rfl, rfl⟩

end

/-- Settles O15: a step of the epoch that opens passes over edges of pulses and leaves the rest of the time unit
(`exec_epochSwitch_opens`); a time bus at fault enters AUTUMN, which leaves the time unit and its counters. -/
theorem epochsAndTimeBus : Obligations.EpochsAndTimeBus := by
  unfold Obligations.EpochsAndTimeBus
  refine ⟨?epoch, ?good, ?bad, ?convert⟩
  case epoch => exact fun _ _ hpending hdue hruns hzero => completes_epochSwitch hpending hdue hruns hzero
  case good => exact fun n _ hruns => completes_timeBusFullValue_good n hruns
  case bad => exact fun n _ hruns => completes_timeBusFullValue_bad n hruns
  case convert =>
    exact fun m epoch sub _ _ hopen hentry hid hcur hfrc => completes_timConv m epoch sub hopen hentry hid hcur hfrc

end Sys2Proof.Machine
end

