-- ==== Sys2Proof/Proofs/PulsesAndCaptures.lean ====
section
/-! Pulse outputs (R342), capture inputs (R345) and time-stamp queues (R335, R336). -/

namespace Sys2Proof.Machine

section
variable {d : Dev}

/-! ### Arming (R342) -/

/-- The three fields of TIM_PULSE_CFG that an arming takes. -/
def Dev.configPulse (d : Dev) (k mode : Nat) (locked : Bool) (sub : Nat) : Dev :=
  ((d.set1 .TIM_PULSE_CFG_MODE k mode).set1 .TIM_PULSE_CFG_LOCKED_ONLY k (b2n locked)).set1 .TIM_PULSE_CFG_START_SUB k sub

section
variable {k mode sub : Nat} {locked : Bool}

theorem Dev.configPulse_f1 {f : Field} {i : Nat} (hf : f.id ∉ [Field.TIM_PULSE_CFG_MODE.id, Field.TIM_PULSE_CFG_LOCKED_ONLY.id,
    Field.TIM_PULSE_CFG_START_SUB.id]) : (d.configPulse k mode locked sub).f1 f i = d.f1 f i := by
  simp only [List.mem_cons, List.not_mem_nil, or_false, not_or] at hf
  obtain ⟨hmode, hlocked, hsub⟩ := hf
  rw [Dev.configPulse, Dev.f1_set1_ne hsub, Dev.f1_set1_ne hlocked, Dev.f1_set1_ne hmode]

theorem Dev.configPulse_mode (hmode : mode < 4) : (d.configPulse k mode locked sub).f1 .TIM_PULSE_CFG_MODE k = mode := by
  rw [Dev.configPulse, Dev.f1_set1_ne (by decide), Dev.f1_set1_ne (by decide), Dev.f1_set1_same]
  exact Nat.mod_eq_of_lt hmode

theorem Dev.configPulse_sub (hsub : sub < 8) : (d.configPulse k mode locked sub).f1 .TIM_PULSE_CFG_START_SUB k = sub := by
  rw [Dev.configPulse, Dev.f1_set1_same]
  exact Nat.mod_eq_of_lt hsub

/-- The first rising edge is due at START and its sub-tick. -/
theorem Dev.edgeTime_configPulse (hsub : sub < 8) : (d.configPulse k mode locked sub).edgeTime k 0 =
    timeUnits (d.f1 .TIM_PULSE_START_SEC_HI k * 2 ^ 32 + d.f1 .TIM_PULSE_START_SEC_LO k) (d.f1 .TIM_PULSE_START_NS k) 0 +
      (sub * 20480 : Nat) := by
  unfold Dev.edgeTime
  rw [Dev.configPulse_f1 (by decide), Dev.configPulse_f1 (by decide), Dev.configPulse_f1 (by decide), Dev.configPulse_sub hsub]
  simp

theorem Dev.armPulse_off : d.armPulse k 0 locked sub =
    (d.configPulse k 0 locked sub).setPulse k { d.pulse k with armed := false, high := false } := rfl

/-- Output `k` armed: its first edge is next. -/
def Dev.armedPulse (d : Dev) (k mode : Nat) (locked : Bool) (sub : Nat) : Dev :=
  (d.configPulse k mode locked sub).setPulse k { d.pulse k with armed := true, done := false, next := 0 }

theorem Dev.armPulse_oneShot (hranges : d.pulseRanges k 1 = true)
    (hahead : ptpUnits d.epochNow d.frc67 + 65536000 ≤ (d.configPulse k 1 locked sub).edgeTime k 0) :
    d.armPulse k 1 locked sub = d.armedPulse k 1 locked sub := by
  rw [Dev.armPulse, if_neg (by decide), if_neg (by decide), if_neg (by simp [hranges])]
  exact (if_pos rfl).trans (if_neg (Int.not_lt.2 hahead))

theorem Dev.armPulse_periodic (hranges : d.pulseRanges k 2 = true)
    (hahead : ptpUnits d.epochNow d.frc67 ≤ (d.configPulse k 2 locked sub).edgeTime k 0) :
    d.armPulse k 2 locked sub = d.armedPulse k 2 locked sub := by
  rw [Dev.armPulse, if_neg (by decide), if_neg (by decide), if_neg (by simp [hranges])]
  exact (if_neg (by decide)).trans (if_neg (Int.not_lt.2 hahead))

theorem Dev.armedPulse_mode (hmode : mode < 4) : (d.armedPulse k mode locked sub).f1 .TIM_PULSE_CFG_MODE k = mode :=
  Dev.configPulse_mode hmode

theorem Dev.armedPulse_pulse :
    (d.armedPulse k mode locked sub).pulse k = { d.pulse k with armed := true, done := false, next := 0 } :=
  Dev.pulse_setPulse_same

end

theorem completes_pulseArm_off (m : Master) (k : Fin 4) (locked : Bool) (sub : Fin 8) {s : State}
    (hopen : s.dev.Open m (Reg.TIM_PULSE_CFG.addr k 0)) :
    Completes (.pulseArm m k 0 locked sub) s fun t => t.f1 .TIM_PULSE_CFG_MODE k = 0 ∧ (t.pulse k).armed = false ∧
      (t.pulse k).high = false ∧ t.reg.last = .ok 0 := by
  refine completes_of_run _ (exec_pulseArm m k 0 locked sub s) ?_
  rw [Dev.onWrite_open _ _ _ _ _ _ hopen]
  have pulse : ((s.dev.armPulse k 0 locked sub).complete (.ok 0)).pulse k =
      { s.dev.pulse k with armed := false, high := false } := Dev.pulse_setPulse_same
  exact ⟨Dev.configPulse_mode (by decide), congrArg PulseSt.armed pulse, congrArg PulseSt.high pulse, rfl⟩

/-- An arming that is accepted sets MODE and the output's next edge. -/
theorem completes_pulseArm_armed (m : Master) (k mode : Fin 4) (locked : Bool) (sub : Fin 8) {s : State}
    (hopen : s.dev.Open m (Reg.TIM_PULSE_CFG.addr k 0))
    (harmed : s.dev.armPulse k mode locked sub = s.dev.armedPulse k mode locked sub) :
    Completes (.pulseArm m k mode locked sub) s fun t => t.f1 .TIM_PULSE_CFG_MODE k = mode ∧ (t.pulse k).armed = true ∧
      (t.pulse k).done = false ∧ (t.pulse k).next = 0 := by
  refine completes_of_run _ (exec_pulseArm m k mode locked sub s) ?_
  rw [Dev.onWrite_open _ _ _ _ _ _ hopen, harmed]
  have pulse : ((s.dev.armedPulse k mode locked sub).complete (.ok 0)).pulse k =
      { s.dev.pulse k with armed := true, done := false, next := 0 } := Dev.armedPulse_pulse
  exact ⟨Dev.armedPulse_mode mode.isLt, congrArg PulseSt.armed pulse, congrArg PulseSt.done pulse,
    congrArg PulseSt.next pulse⟩

theorem completes_pulseArm_oneShot (m : Master) (k : Fin 4) (locked : Bool) (sub : Fin 8) {s : State}
    (hopen : s.dev.Open m (Reg.TIM_PULSE_CFG.addr k 0)) (hwidth : 32 ≤ s.dev.f1 .TIM_PULSE_WIDTH k)
    (hahead : ptpUnits s.dev.epochNow s.dev.frc67 + 65536000 ≤
      timeUnits (s.dev.f1 .TIM_PULSE_START_SEC_HI k * 2 ^ 32 + s.dev.f1 .TIM_PULSE_START_SEC_LO k)
        (s.dev.f1 .TIM_PULSE_START_NS k) 0 + (sub.val * 20480 : Nat)) :
    Completes (.pulseArm m k 1 locked sub) s fun t => t.f1 .TIM_PULSE_CFG_MODE k = 1 ∧ (t.pulse k).armed = true ∧
      (t.pulse k).done = false ∧ (t.pulse k).next = 0 := by
  have ranges : s.dev.pulseRanges k 1 = true := by simp [Dev.pulseRanges, hwidth]
  refine completes_pulseArm_armed m k 1 locked sub hopen (Dev.armPulse_oneShot ranges ?_)
  rwa [Dev.edgeTime_configPulse sub.isLt]

theorem completes_pulseArm_periodic (m : Master) (k : Fin 4) (locked : Bool) (sub : Fin 8) {s : State}
    (hopen : s.dev.Open m (Reg.TIM_PULSE_CFG.addr k 0)) (hranges : s.dev.pulseRanges k 2 = true)
    (hahead : ptpUnits s.dev.epochNow s.dev.frc67 ≤
      timeUnits (s.dev.f1 .TIM_PULSE_START_SEC_HI k * 2 ^ 32 + s.dev.f1 .TIM_PULSE_START_SEC_LO k)
        (s.dev.f1 .TIM_PULSE_START_NS k) 0 + (sub.val * 20480 : Nat)) :
    Completes (.pulseArm m k 2 locked sub) s fun t => t.f1 .TIM_PULSE_CFG_MODE k = 2 ∧ (t.pulse k).armed = true ∧
      (t.pulse k).done = false ∧ (t.pulse k).next = 0 := by
  refine completes_pulseArm_armed m k 2 locked sub hopen (Dev.armPulse_periodic hranges ?_)
  rwa [Dev.edgeTime_configPulse sub.isLt]

theorem exec_pulseArm_undefined (m : Master) (k : Fin 4) (locked : Bool) (sub : Fin 8) {s : State}
    (hopen : s.dev.Open m (Reg.TIM_PULSE_CFG.addr k 0)) :
    exec (.pulseArm m k 3 locked sub) s = .next (s.on (s.dev.complete (.ok 0))) := by
  rw [exec_pulseArm, execPulseArm, State.run_eq, Dev.onWrite_open _ _ _ _ _ _ hopen]
  rfl

/-! ### Edges (R342) -/

theorem completes_pulseEdge (k : Fin 4) {s : State} (harmed : (s.dev.pulse k).armed = true)
    (hruns : s.dev.tim.stopped = false) (hpos : 0 ≤ s.dev.edgeAt k (s.dev.pulse k).next)
    (hdue : s.dev.edgeAt k (s.dev.pulse k).next ≤ s.dev.frc67) (hcommit : s.dev.boot.committed = true)
    (hforwards : s.dev.forwards = true) (hfree : s.dev.b1 .TIM_PULSE_CFG_LOCKED_ONLY k = false) :
    Completes (.pulseEdge k) s fun t => (t.pulse k).high = true ∧
      ((t.pulse k).fall : Int) = s.dev.edgeAt k (s.dev.pulse k).next + s.dev.f1 .TIM_PULSE_WIDTH k := by
  have goes : ¬((!(s.dev.pulse k).armed) = true ∨ s.dev.tim.stopped = true ∨
      (s.dev.frc67 : Int) < s.dev.edgeAt k (s.dev.pulse k).next) := by
    simp [harmed, hruns, hdue]
  refine completes_of_run _ (exec_pulseEdge k s) ?_
  dsimp only
  rw [if_neg goes, if_neg (by simp [hcommit, hforwards]), if_neg (by simp [hfree]), Dev.pulse_setPulse_same]
  exact ⟨rfl, by rw [Nat.cast_add, Int.toNat_of_nonneg hpos]⟩

theorem completes_pulseFall (k : Fin 4) {s : State} (hhigh : (s.dev.pulse k).high = true)
    (hdue : (s.dev.pulse k).fall ≤ s.dev.frc67) :
    Completes (.pulseFall k) s fun t => (t.pulse k).high = false ∧ t.flds = s.dev.flds := by
  refine completes_of_run _ (exec_pulseFall k s) ?_
  dsimp only
  rw [if_pos ⟨hhigh, hdue⟩, Dev.pulse_setPulse_same]
  exact ⟨rfl, rfl⟩

/-! ### Capture inputs (R345) -/

theorem completes_captureInputEdge_room (i : Fin 2) (rising : Bool) (sub : Fin 8) {s : State}
    (hcommit : s.dev.boot.committed = true) (hruns : s.dev.tim.stopped = false)
    (hedge : bitOf (s.dev.f1 .TIM_CAP_CFG_EDGE i) (if rising then 0 else 1) = true)
    (hroom : (Map.get [] s.dev.tim.caps i).length < 16) :
    Completes (.captureInputEdge i rising sub) s fun t => Map.get [] t.tim.caps i =
      Map.get [] s.dev.tim.caps i ++ [⟨⟨s.dev.tim.frc, sub, s.dev.epochAt s.dev.tim.frc, true⟩, rising⟩] := by
  refine completes_of_run _ (exec_captureInputEdge i rising sub s) ?_
  dsimp only
  rw [if_neg (by simp [hcommit, hruns, hedge]), if_pos hroom]
  exact Map.get_set_same _ _ _ _

theorem completes_captureInputEdge_full (i : Fin 2) (rising : Bool) (sub : Fin 8) {s : State}
    (hcommit : s.dev.boot.committed = true) (hruns : s.dev.tim.stopped = false)
    (hedge : bitOf (s.dev.f1 .TIM_CAP_CFG_EDGE i) (if rising then 0 else 1) = true)
    (hfull : 16 ≤ (Map.get [] s.dev.tim.caps i).length) :
    Completes (.captureInputEdge i rising sub) s fun t => t.tim.caps = s.dev.tim.caps ∧ t.f1 .TIM_CAP_CFG_OVF i = 1 ∧
      t.ctr .TIM_CAP_OVF 0 = (s.dev.ctr .TIM_CAP_OVF 0 + 1) % 2 ^ 64 := by
  refine completes_of_run _ (exec_captureInputEdge i rising sub s) ?_
  dsimp only
  rw [if_neg (by simp [hcommit, hruns, hedge]), if_neg (Nat.not_lt.2 hfull), Dev.record_tim, Dev.quiet_record.f1 (by decide),
    Dev.uncounted_record _ _ (by decide), Dev.ctr_count_same]
  exact ⟨rfl, Dev.f1_set1_same s.dev .TIM_CAP_CFG_OVF i 1, rfl⟩

theorem completes_capPop (m : Master) (i : Fin 2) {x : EdgeCap} {rest : List EdgeCap} {s : State}
    (hopen : s.dev.Open m (Reg.TIM_CAP_POP.addr i 0)) (hcaps : Map.get [] s.dev.tim.caps i = x :: rest) :
    Completes (.capPop m i) s fun t => Map.get [] t.tim.caps i = rest ∧
      t.reg.last = .ok (2 ^ 31 + b2n x.rising * 2 ^ 30 + x.cap.sub * 2 ^ 24 + x.cap.epoch) ∧
      t.latched m .TIM_CAP_FRC_LO i 0 = x.cap.frc % 2 ^ 32 ∧
      t.latched m .TIM_CAP_FRC_HI i 0 = x.cap.frc / 2 ^ 32 % 2 ^ 32 := by
  refine completes_of_run _ (exec_capPop m i s) ?_
  rw [Dev.onPop_open _ _ _ _ _ hopen, Dev.popCap, hcaps]
  exact ⟨Map.get_set_same _ _ _ _, rfl, Dev.latched_pair rfl (by decide), Dev.latched_latch_same⟩

theorem completes_capFlush (m : Master) (i : Fin 2) {s : State} (hopen : s.dev.Open m (Reg.TIM_CAP_CFG.addr i 0)) :
    Completes (.capFlush m i) s fun t => Map.get [] t.tim.caps i = [] ∧ t.flds = s.dev.flds ∧ t.ctrs = s.dev.ctrs := by
  refine completes_of_run _ (exec_capFlush m i s) ?_
  rw [Dev.onWrite_open _ _ _ _ _ _ hopen]
  exact ⟨Map.get_set_same [] s.dev.tim.caps i [], rfl, rfl⟩

/-! ### Time-stamp queues (R335, R336) -/

theorem completes_txtsPop (m : Master) (g : Fin 32) {x : TxTs} {rest : List TxTs} {s : State}
    (hopen : s.dev.Open m (Reg.TIM_TXTS_POP.addr g 0)) (hqueue : Map.get [] s.dev.tim.txts g = x :: rest)
    (hhost : x.firmware = false) :
    Completes (.txtsPop m g) s fun t => Map.get [] t.tim.txts g = rest ∧
      t.reg.last = .ok (2 ^ 31 + b2n (!x.cap.valid) * 2 ^ 30 + x.portIn * 2 ^ 28 + x.cap.sub * 2 ^ 24 +
        x.cap.epoch * 2 ^ 16 + x.id) ∧
      t.latched m .TIM_TXTS_FRC_LO g 0 = x.cap.frc % 2 ^ 32 ∧
      t.latched m .TIM_TXTS_FRC_HI g 0 = x.cap.frc / 2 ^ 32 % 2 ^ 32 := by
  have oldest : (x :: rest).find? (fun x => !x.firmware) = some x := List.find?_cons_of_pos (by simp [hhost])
  have left : (x :: rest).eraseP (fun x => !x.firmware) = rest := List.eraseP_cons_of_pos (by simp [hhost])
  refine completes_of_run _ (exec_txtsPop m g s) ?_
  rw [Dev.onPop_open _ _ _ _ _ hopen, Dev.popTxts, hqueue, oldest, left]
  exact ⟨Map.get_set_same _ _ _ _, rfl, Dev.latched_pair rfl (by decide), Dev.latched_latch_same⟩

end

/-- Settles O16: an arming whose first edge lies ahead is `Dev.armedPulse`, and its edge falls WIDTH later. -/
theorem pulseOutputs : Obligations.PulseOutputs := by
  unfold Obligations.PulseOutputs
  refine ⟨?off, ?oneShot, ?periodic, ?undefined, ?edge, ?fall⟩
  case off => exact fun m k locked sub _ hopen => completes_pulseArm_off m k locked sub hopen
  case oneShot =>
    exact fun m k locked sub _ hopen hwidth hahead => completes_pulseArm_oneShot m k locked sub hopen hwidth hahead
  case periodic =>
    exact fun m k locked sub _ hopen hranges hahead => completes_pulseArm_periodic m k locked sub hopen hranges hahead
  case undefined => exact fun m k locked sub _ hopen => exec_pulseArm_undefined m k locked sub hopen
  case edge =>
    exact fun k _ harmed hruns hpos hdue hcommit hforwards hfree =>
      completes_pulseEdge k harmed hruns hpos hdue hcommit hforwards hfree
  case fall => exact fun k _ hhigh hdue => completes_pulseFall k hhigh hdue

/-- Settles O17: a full FIFO drops the edge; a read takes the head of its queue and latches its companions
(`Dev.latched_pair`). -/
theorem capturesAndTimeStamps : Obligations.CapturesAndTimeStamps := by
  unfold Obligations.CapturesAndTimeStamps
  refine ⟨?room, ?full, ?pop, ?flush, ?txts⟩
  case room =>
    exact fun i rising sub _ hcommit hruns hedge hroom => completes_captureInputEdge_room i rising sub hcommit hruns hedge hroom
  case full =>
    exact fun i rising sub _ hcommit hruns hedge hfull => completes_captureInputEdge_full i rising sub hcommit hruns hedge hfull
  case pop => exact fun m i _ _ _ hopen hcaps => completes_capPop m i hopen hcaps
  case flush => exact fun m i _ hopen => completes_capFlush m i hopen
  case txts => exact fun m g _ _ _ hopen hqueue hhost => completes_txtsPop m g hopen hqueue hhost

end Sys2Proof.Machine
end

