-- ==== Sys2Proof/Proofs/FirmwarePtp.lean ====
section
/-! The firmware's PTP (R334, R337 to R341, R347): messages, the servo, the loss of the grandmaster and its jumps. -/

namespace Sys2Proof.Machine

section
variable {d : Dev}

/-! ### An adjustment that waits (R323, R324) -/

theorem Dev.schedule_busy {m : Nat} {a : Adjust} : (d.schedule m a).f0 .TIM_ADJ_CMD_BUSY = 1 := Dev.f0_set0_same _ _ _

/-! ### Messages received (R337, R347) -/

/-- A PTP port takes messages: the firmware runs outside WINTER, and the port is not isolated. -/
def Dev.HearsPtp (d : Dev) (p : Nat) : Prop :=
  d.boot.fwRuns = true ∧ d.winter = false ∧ d.ptpPort p = true ∧ (d.ptpSt p).isolatedUntil = none

theorem Dev.HearsPtp.takes {p : Nat} (h : d.HearsPtp p) :
    ¬((!d.boot.fwRuns) = true ∨ d.winter = true ∨ (!d.ptpPort p) = true ∨ (d.ptpSt p).isolatedUntil.isSome = true) := by
  obtain ⟨hfw, hwinter, hport, hiso⟩ := h
  simp [hfw, hwinter, hport, hiso]

/-- A count of messages leaves the port's state as it was. -/
theorem Dev.ptpCount_state {p type : Nat} : ((d.ptpCount p type).1.ptpSt p).state = (d.ptpSt p).state := by
  unfold Dev.ptpCount
  dsimp only
  rw [Dev.ptpSt_setPtp_same]
  split
  · rfl
  · rfl

theorem Dev.ptpCount_low {p type : Nat} (h : Map.get 0 (d.ptpSt p).msgs type < 64) : (d.ptpCount p type).2 ≤ 64 := by
  unfold Dev.ptpCount
  dsimp only
  split
  · exact h
  · simp

theorem Dev.ptpCount_high {p type : Nat} (hsince : d.now < (d.ptpSt p).since + tSec)
    (h : 64 ≤ Map.get 0 (d.ptpSt p).msgs type) : 64 < (d.ptpCount p type).2 := by
  unfold Dev.ptpCount
  dsimp only
  rw [if_pos hsince]
  exact Nat.lt_succ_of_le h

theorem Dev.setPtp_ptpDomain {p : Nat} {x : PtpPort} : (d.setPtp p x).ptpDomain = d.ptpDomain := rfl

/-- A count of messages changes the port's entry alone. -/
theorem Dev.ptpCount_eq_setPtp {p type : Nat} : ∃ x, (d.ptpCount p type).1 = d.setPtp p x := ⟨_, rfl⟩

/-- A Sync that no rule turns away is kept with the time of its arrival. -/
theorem Dev.ptpAccept_sync {p : Nat} {x : PtpMsg} (htype : x.type = 0) :
    d.ptpAccept p x = d.setPtp p { d.ptpSt p with sync := some (x.seq, d.now) } := by
  rw [Dev.ptpAccept, htype]
  rfl

theorem completes_ptpRxFirmware_sync (p : Port) {x : PtpMsg} {s : State} (hears : s.dev.HearsPtp p)
    (hslave : (s.dev.ptpSt p).state = 2) (htype : x.type = 0) (hlength : x.lengthOk = true) (hdomain : x.domain = s.dev.ptpDomain)
    (hfew : Map.get 0 (s.dev.ptpSt p).msgs 0 < 64) :
    Completes (.ptpRxFirmware p x) s fun t => (t.ptpSt p).sync = some (x.seq, s.dev.now) ∧ t.flds = s.dev.flds ∧
      t.ctrs = s.dev.ctrs := by
  obtain ⟨y, counted⟩ := s.dev.ptpCount_eq_setPtp (p := p) (type := 0)
  refine completes_of_run _ (exec_ptpRxFirmware p x s) ?_
  dsimp only
  have slave : y.state = 2 := by
    have h := Dev.ptpCount_state (d := s.dev) (p := p) (type := 0)
    rwa [counted, Dev.ptpSt_setPtp_same, hslave] at h
  rw [if_neg hears.takes, htype, if_neg (Nat.not_lt.2 (Dev.ptpCount_low hfew)), counted, if_neg (by simp [hlength]),
    if_neg (by simp [hdomain, Dev.setPtp_ptpDomain]), if_neg (by simp), if_neg (by simp [slave]),
    if_neg (by simp), if_neg (by simp), Dev.ptpAccept_sync htype, Dev.ptpSt_setPtp_same]
  exact ⟨rfl, rfl, rfl⟩

theorem Dev.reports_ptpViolation {p reason : Nat} : d.Reports (d.ptpViolation p reason) := Dev.reports_recordLimited _ _ _ _ _ _ _

theorem Dev.uncounted_ptpViolation {p reason : Nat} : d.Uncounted (d.ptpViolation p reason) := Dev.uncounted_recordLimited

theorem completes_ptpRxFirmware_isolates (p : Port) (x : PtpMsg) {s : State} (hears : s.dev.HearsPtp p)
    (hsince : s.dev.now < (s.dev.ptpSt p).since + tSec) (hmany : 64 ≤ Map.get 0 (s.dev.ptpSt p).msgs x.type) :
    Completes (.ptpRxFirmware p x) s fun t => (t.ptpSt p).isolatedUntil = some (s.dev.now + 10 * tSec) ∧
      t.ctr .TIM_PTP_ISOLATED 0 = (s.dev.ctr .TIM_PTP_ISOLATED 0 + 1) % 2 ^ 64 := by
  obtain ⟨y, counted⟩ := s.dev.ptpCount_eq_setPtp (p := p) (type := x.type)
  refine completes_of_run _ (exec_ptpRxFirmware p x s) ?_
  dsimp only
  rw [if_neg hears.takes, if_pos (Dev.ptpCount_high hsince hmany), counted, Dev.ptpSt, Dev.reports_ptpViolation.tim,
    Dev.uncounted_ptpViolation _ _ (by decide), Dev.ctr_count_same, Dev.count_tim, ← Dev.ptpSt, Dev.ptpSt_setPtp_same]
  exact ⟨rfl, rfl⟩

theorem completes_ptpIsolateEnd (p : Port) {a : Nat} {s : State} (hiso : (s.dev.ptpSt p).isolatedUntil = some a)
    (hdue : a ≤ s.dev.now) : Completes (.ptpIsolateEnd p) s fun t => (t.ptpSt p).isolatedUntil = none := by
  refine completes_of_run _ (exec_ptpIsolateEnd p s) ?_
  dsimp only
  rw [if_pos (by simp [hiso, hdue]), Dev.ptpSt_setPtp_same]

/-! ### The servo (R339, R340) -/

/-- The servo of a device that has chosen port `p` adjusts: it is on, the FRC runs outside WINTER, and nothing is pending. -/
def Dev.ServoRuns (d : Dev) (p : Nat) : Prop :=
  d.tim.best = some p ∧ d.b0 .TIM_CTRL_SERVO_EN = true ∧ d.winter = false ∧ d.tim.stopped = false ∧
    d.b0 .TIM_ADJ_CMD_BUSY = false

theorem Dev.ServoRuns.best {p : Nat} (h : d.ServoRuns p) : d.tim.best = some p := h.1

theorem Dev.ServoRuns.adjusts {p : Nat} (h : d.ServoRuns p) : ¬((!d.b0 .TIM_CTRL_SERVO_EN) = true ∨ d.winter = true ∨
    d.tim.stopped = true ∨ d.b0 .TIM_ADJ_CMD_BUSY = true) := by
  obtain ⟨-, hservo, hwinter, hruns, hbusy⟩ := h
  simp [hservo, hwinter, hruns, hbusy]

theorem clampInt_of_natAbs_le {rate : Int} (h : rate.natAbs ≤ 281474977) : clampInt (-rateLimit) rateLimit rate = rate := by
  unfold clampInt rateLimit
  omega

/-- The servo slews: the new rate waits for its F_s, and STATE tells whether the grandmaster is followed. -/
def Dev.slew (d : Dev) (rate : Int) (locked : Bool) : Dev :=
  let d1 := d.schedule 0 ⟨3, 0, rate⟩
  ({ d1 with tim := { d1.tim with jump := none, lockedOnce := d1.tim.lockedOnce || locked } } : Dev).set0 .TIM_STATUS_STATE
    (b2n locked)

/-- An offset within TIM_JUMP_LIMIT is slewed; a first lock is recorded. -/
theorem exec_ptpServoUpdate_slews {p : Nat} {off rate : Int} {locked : Bool} {s : State} (h : s.dev.ServoRuns p)
    (hoff : off.natAbs < s.dev.f0 .TIM_JUMP_LIMIT * 65536) (hrate : rate.natAbs ≤ 281474977) :
    ∃ t, exec (.ptpServoUpdate off rate locked) s = .next (s.on t) ∧ (s.dev.slew rate locked).Reports t := by
  refine ⟨_, exec_ptpServoUpdate off rate locked s, ?_⟩
  dsimp only
  rw [h.best]
  dsimp only
  rw [if_neg h.adjusts, if_pos (show s.dev.withinLimit off = true from decide_eq_true hoff), clampInt_of_natAbs_le hrate]
  exact Dev.reports_ite (Dev.reports_record _ _ _ _ _) (.refl _)

theorem completes_ptpServoUpdate_slews {p : Nat} {off rate : Int} {locked : Bool} {s : State} (h : s.dev.ServoRuns p)
    (hoff : off.natAbs < s.dev.f0 .TIM_JUMP_LIMIT * 65536) (hrate : rate.natAbs ≤ 281474977) :
    Completes (.ptpServoUpdate off rate locked) s fun t => (t.tim.pending.map (·.rate)) = some rate ∧ t.tim.step = none ∧
      t.f0 .TIM_STATUS_STATE = b2n locked ∧ t.f0 .TIM_ADJ_CMD_BUSY = 1 := by
  obtain ⟨t, ht, reports⟩ := exec_ptpServoUpdate_slews (locked := locked) h hoff hrate
  refine completes_of_eq ht ?_
  rw [reports.tim, reports.quiet.f0 (by decide), reports.quiet.f0 (by decide)]
  refine ⟨rfl, rfl, ?state, ?busy⟩
  case state =>
    refine (Dev.f0_set0_same _ _ _).trans ?_
    cases locked <;> rfl
  case busy => exact (Dev.f0_set0_other (by decide)).trans Dev.schedule_busy

theorem Dev.not_withinLimit {off : Int} (hoff : d.f0 .TIM_JUMP_LIMIT * 65536 ≤ off.natAbs) :
    ¬d.withinLimit off = true := by
  simpa [Dev.withinLimit] using hoff

theorem completes_ptpServoUpdate_steps {p : Nat} {off rate : Int} {locked : Bool} {s : State} (h : s.dev.ServoRuns p)
    (hoff : s.dev.f0 .TIM_JUMP_LIMIT * 65536 ≤ off.natAbs)
    (hpass : s.dev.tim.lockedOnce = false ∨ s.dev.b0 .TIM_GM_POLICY_REFUSE_JUMP = false) :
    Completes (.ptpServoUpdate off rate locked) s fun t => t.tim.step = some (-off, 0) ∧ t.f0 .TIM_ADJ_CMD_BUSY = 1 := by
  have passes : ¬(s.dev.tim.lockedOnce = true ∧ s.dev.b0 .TIM_GM_POLICY_REFUSE_JUMP = true) := by
    rintro ⟨hlocked, hrefuse⟩
    simp [hlocked, hrefuse] at hpass
  refine completes_of_run _ (exec_ptpServoUpdate off rate locked s) ?_
  dsimp only
  rw [h.best]
  dsimp only
  rw [if_neg h.adjusts, if_neg (Dev.not_withinLimit hoff), if_neg passes]
  exact ⟨rfl, Dev.schedule_busy⟩

/-- A refused jump is held and counted. -/
def Dev.holdJump (d : Dev) (off : Int) : Dev :=
  ({ d with tim := { d.tim with jump := some (-off) } } : Dev).count .TIM_JUMP_REFUSED 0

theorem completes_ptpServoUpdate_refuses {p : Nat} {off rate : Int} {locked : Bool} {s : State} (h : s.dev.ServoRuns p)
    (hoff : s.dev.f0 .TIM_JUMP_LIMIT * 65536 ≤ off.natAbs) (hlocked : s.dev.tim.lockedOnce = true)
    (hrefuse : s.dev.b0 .TIM_GM_POLICY_REFUSE_JUMP = true) :
    Completes (.ptpServoUpdate off rate locked) s fun t => t.tim.jump = some (-off) ∧ t.f0 .TIM_STATUS_STATE = 3 ∧
      t.tim.pending = s.dev.tim.pending ∧ t.ctr .TIM_JUMP_REFUSED 0 = (s.dev.ctr .TIM_JUMP_REFUSED 0 + 1) % 2 ^ 64 := by
  have counted : (s.dev.holdJump off).ctr .TIM_JUMP_REFUSED 0 = (s.dev.ctr .TIM_JUMP_REFUSED 0 + 1) % 2 ^ 64 :=
    Dev.ctr_count_same _ _ _
  refine completes_of_run _ (exec_ptpServoUpdate off rate locked s) ?_
  dsimp only
  rw [h.best]
  dsimp only
  rw [if_neg h.adjusts, if_neg (Dev.not_withinLimit hoff), if_pos ⟨hlocked, hrefuse⟩]
  split
  case isTrue held => exact ⟨rfl, held, rfl, counted⟩
  case isFalse =>
    rw [Dev.record_tim, Dev.record_f0 (by decide), Dev.uncounted_record _ _ (by decide)]
    exact ⟨rfl, Dev.f0_set0_same _ .TIM_STATUS_STATE 3, rfl, counted⟩

/-! ### The loss of the grandmaster, ACCEPT_JUMP and CLOCK_MODE (R337, R339, R340) -/

/-- The device without a grandmaster: no port is a slave, and a held jump is dropped. -/
def Dev.loseMaster (d : Dev) : Dev :=
  { d with tim := { d.tim with
      best := none, jump := none, ptp := Map.mapV .reset (fun _ x => { x with announcedAt := none, state := 0 }) d.tim.ptp } }

/-- The rate goes to 0: at once, or when the adjustment that is pending has opened. -/
def Dev.zeroRate (d : Dev) : Dev :=
  if d.b0 .TIM_ADJ_CMD_BUSY then { d with tim := { d.tim with zeroDue := true } } else d.schedule 0 ⟨3, 0, 0⟩

/-- STATE after the loss of the grandmaster (Table 12-2). -/
def Dev.lostState (d : Dev) : Nat := if d.b0 .TIM_GM_POLICY_FREE_RUN then 2 else 0

/-- The device after Table 12-2: the servo's rate goes to 0 where GM_POLICY does not let it run free. -/
def Dev.leaderless (d : Dev) : Dev :=
  if d.lostState ≠ 0 ∨ !d.b0 .TIM_CTRL_SERVO_EN then d.loseMaster else d.loseMaster.zeroRate

theorem Dev.leaderless_tim : d.leaderless.tim.best = none ∧ d.leaderless.tim.jump = none := by
  unfold Dev.leaderless Dev.zeroRate
  split
  · exact ⟨rfl, rfl⟩
  · split
    · exact ⟨rfl, rfl⟩
    · exact ⟨rfl, rfl⟩

theorem exec_gmLost_eq {p : Nat} {s : State} (hbest : s.dev.tim.best = some p) (hwinter : s.dev.winter = false)
    (hruns : s.dev.tim.stopped = false) : exec .gmLost s = .next (s.on
      ((s.dev.leaderless.set0 .TIM_STATUS_STATE s.dev.lostState).record .GM_LOST 0 0 (payloadOf [(1, s.dev.lostState)]))) := by
  rw [exec_gmLost, execGmLost, State.run_eq, if_neg (by simp [hbest, hwinter, hruns])]
  rfl

theorem completes_gmLost {p : Nat} {s : State} (hbest : s.dev.tim.best = some p) (hwinter : s.dev.winter = false)
    (hruns : s.dev.tim.stopped = false) :
    Completes .gmLost s fun t => t.tim.best = none ∧ t.tim.jump = none ∧
      t.f0 .TIM_STATUS_STATE = if s.dev.b0 .TIM_GM_POLICY_FREE_RUN then 2 else 0 := by
  have width : s.dev.lostState % 2 ^ Field.TIM_STATUS_STATE.width = s.dev.lostState := by
    unfold Dev.lostState
    split
    · rfl
    · rfl
  obtain ⟨best, jump⟩ := s.dev.leaderless_tim
  refine completes_of_eq (exec_gmLost_eq hbest hwinter hruns) ?_
  rw [Dev.record_tim, Dev.record_f0 (by decide), Dev.f0_set0_same, width]
  exact ⟨best, jump, rfl⟩

theorem completes_acceptJump (m : Master) {x : Int} {s : State} (hopen : s.dev.Open m (Reg.TIM_CTRL.addr 0 0))
    (hjump : s.dev.tim.jump = some x) (hheld : s.dev.f0 .TIM_STATUS_STATE = 3) (hbusy : s.dev.b0 .TIM_ADJ_CMD_BUSY = false) :
    Completes (.acceptJump m) s fun t => t.tim.jump = none ∧ t.tim.step = some (x, 0) ∧ t.f0 .TIM_STATUS_STATE = 0 := by
  refine completes_of_run _ (exec_acceptJump m s) ?_
  rw [Dev.onWrite_open _ _ _ _ _ _ hopen, Dev.acceptJump, hjump]
  dsimp only
  rw [if_pos ⟨hheld, by simp [hbusy]⟩]
  exact ⟨rfl, rfl, Dev.f0_set0_same _ .TIM_STATUS_STATE 0⟩

theorem completes_clockModeWrite (m : Master) (mode : Fin 2) {s : State} (hopen : s.dev.Open m (Reg.TIM_CTRL.addr 0 0)) :
    Completes (.clockModeWrite m mode) s fun t => t.f0 .TIM_CTRL_CLOCK_MODE = mode.val ∧ t.tim.best = none ∧
      t.reg.last = .ok 0 := by
  refine completes_of_run _ (exec_clockModeWrite m mode s) ?_
  rw [Dev.onWrite_open _ _ _ _ _ _ hopen]
  exact ⟨(Dev.f0_set0_same _ .TIM_CTRL_CLOCK_MODE mode).trans (Nat.mod_eq_of_lt mode.isLt), rfl, rfl⟩

/-! ### Messages sent (R334) -/

/-- A message that may be sent is among the port's own frames, with the type it was handed over with. -/
theorem Dev.mem_ownFrames_sendMsg {p proto type len : Nat} {fields : List Nat} (hup : d.linkUp p = true)
    (hwinter : d.winter = false) :
    ∃ x ∈ (d.sendMsg p proto type len fields).ownFrames p, x.proto = proto ∧ x.type = type ∧ x.fields = fields := by
  have held : ⟨proto, type, len, fields, 0⟩ ∈ ((d.sendMsg p proto type len fields).macSt p).held := by
    rw [Dev.sendMsg, if_pos (by simp [hup, hwinter]), Dev.sending_startNext.held, Dev.held_startWake, Dev.macSt_setMac_same]
    simp [MacSt.held]
  obtain ⟨x, hx, eq⟩ := List.mem_map.1 held
  exact ⟨x, hx, congrArg OwnFrame.proto eq, congrArg OwnFrame.type eq, congrArg OwnFrame.fields eq⟩

theorem completes_ptpMessageSend_announce (p : Port) (twoStep : Bool) (req : Nat) {s : State} (hears : s.dev.HearsPtp p)
    (hup : s.dev.linkUp p = true) (hmode : s.dev.b0 .TIM_CTRL_CLOCK_MODE = true) (hmaster : (s.dev.ptpSt p).state = 1) :
    Completes (.ptpMessageSend p 0xB twoStep req) s fun t =>
      (t.ptpSt p).txSeq = ((s.dev.ptpSt p).txSeq + 1) % 65536 ∧
        ∃ x ∈ t.ownFrames p, x.proto = 3 ∧ x.type = 0xB ∧ x.fields = [(s.dev.ptpSt p).txSeq, b2n twoStep, req] := by
  obtain ⟨hfw, hwinter, hport, hiso⟩ := hears
  have sends : s.dev.ptpSends p 0xB = true := by simp [Dev.ptpSends, hmode, hmaster]
  refine completes_of_run _ (exec_ptpMessageSend p 0xB twoStep req s) ?_
  dsimp only
  rw [if_neg (by simp [hfw, hwinter, hport, hup, hiso, sends]), Dev.ptpSt, Dev.quiet_sendMsg.time, ← Dev.ptpSt,
    Dev.ptpSt_setPtp_same]
  exact ⟨rfl, Dev.mem_ownFrames_sendMsg hup hwinter⟩

end

/-- Settles O18: a message counts in its port's entry alone (`Dev.ptpCount_eq_setPtp`), an adjustment of the servo waits for
its F_s (`Dev.schedule_busy`), and a record of either leaves the time unit as it is. -/
theorem firmwarePtp : Obligations.FirmwarePtp := by
  unfold Obligations.FirmwarePtp
  refine ⟨?sync, ?isolates, ?ends, ?slews, ?steps, ?refuses, ?lost, ?accept, ?mode, ?send⟩
  case sync =>
    exact fun p _ _ hears hslave htype hlength hdomain hfew =>
      completes_ptpRxFirmware_sync p hears hslave htype hlength hdomain hfew
  case isolates => exact fun p x _ hears hsince hmany => completes_ptpRxFirmware_isolates p x hears hsince hmany
  case ends => exact fun p _ _ hiso hdue => completes_ptpIsolateEnd p hiso hdue
  case slews => exact fun _ _ _ _ _ hservo hoff hrate => completes_ptpServoUpdate_slews hservo hoff hrate
  case steps => exact fun _ _ _ _ _ hservo hoff hpass => completes_ptpServoUpdate_steps hservo hoff hpass
  case refuses =>
    exact fun _ _ _ _ _ hservo hoff hlocked hrefuse => completes_ptpServoUpdate_refuses hservo hoff hlocked hrefuse
  case lost => exact fun _ _ hbest hwinter hruns => completes_gmLost hbest hwinter hruns
  case accept => exact fun m _ _ hopen hjump hheld hbusy => completes_acceptJump m hopen hjump hheld hbusy
  case mode => exact fun m mode _ hopen => completes_clockModeWrite m mode hopen
  case send =>
    exact fun p twoStep req _ hears hup hmode hmaster =>
      completes_ptpMessageSend_announce p twoStep req hears hup hmode hmaster

end Sys2Proof.Machine
end
